-- ==== Sys2Proof/Word.lean ====
section
/-! DEFINITION. The word types of the model: a byte. Counts, indices, addresses
and packed words that the manual reads by bit ranges are natural numbers, cut out by `bits` (R6, R14). -/

namespace Sys2Proof

/-- One byte of memory (R6). -/
abbrev Byte := BitVec 8

end Sys2Proof
end

