-- ==== Sys2Proof/Syntax.lean ====
section
/-! DEFINITION. The commands and events the Gonak takes from outside and from its own engines, one constructor for each row of the
opcode table. Operands: `k` is the acceptance number of a command in flight; `src` the source of an access, host 0 or 1, or 2 the
side-band port; `h` a host port; `chan` a command channel (64 × host + channel) and `ring` a reply ring; `off`, `value`, `size`, `data`,
`bytes` and `values` an access's offset, its value, its width in bits and the bytes or words it carries; `die`, `core`, `array`, `bank`, `rail`,
`phase`, `port`, `dom` units by number; `link` 8 × port + link; `lane` 0 or 1 of a link, or 2 for both; `cls`, `group`, `unit` a stock unit;
`ctx`, `slot`, `layer`, `expert`, `parity`, `hand`, `entry`, `shard` what they name; `packet` a place in the list of packets received; `launch`,
`desc`, `fault`, `req`, `tile`, `move` the number that the launch, descriptor, fault entry, fabric request, tile or page move was given;
`want` a place in the list of moves asked for; `input`, `sensor`, `index`, `typ`, `eid`, `addr`, `tag` what the discrete inputs, PLDM, MCTP
and I3C name. What only the outside world or the silicon decides comes with the event: `level` 1 asserted; `retried` and `failed`
the blocks whose read met an error that a second read cured or that stood, or the units that fail a self-test; `misdeals` the
arrays of a tile that disagreed; `pass` 1 a self-test passed; `fail` 1 a write of flash failed; `overrun` 1 a tick's work
overran; `readings`, `watts`, `stalls`, `steps`, `avg`, `reading` measurements; `kind`, `count`, `other` what a clock counting window
showed; `delay` a link's delay in ns; `rate`, `width`, `flit` what a port trained to; `cause` a loss code; `straps`, `copies` the position
straps and which record copies qualify; `fn`, `reg`, `write` a configuration request; `detail` why a donor's copy failed. -/

namespace Sys2Proof

/-- A die, or a core of one, whose engine reads memory for a row, with the blocks whose read met an error that a second read cured or that
stood (R129, R130). -/
structure Reader where
  no : Nat
  retried : List Nat
  failed : List Nat
deriving DecidableEq, Repr

/-- A command or event: one constructor per row of the opcode table. -/
inductive Instr where
  /-- STANDBY_INPUT_START (R481): The 12 V standby input stays above 10.8 V for 5 ms, the standby power-on reset is released and the ROM begins the boot chain. -/
  | standbyInputStart (straps : Nat) (copies : Nat)
  /-- STANDBY_INPUT_STOP (R481): The standby input falls below 10.2 V: power-on reset is asserted, the main rails go off in hardware and the volatile ring is lost. -/
  | standbyInputStop
  /-- MAIN_INPUT_STOP (R481): The 54 V input falls below 44.0 V for 20 µs or rises above 60.0 V, and the main rails are turned off in hardware. -/
  | mainInputStop
  /-- MAIN_RAIL_START (R483): At a tick boundary where the input, record, fault and EPO conditions hold, Bimon starts the main rails in the order of Table 22-2. -/
  | mainRailStart
  /-- MAIN_POWER_GOOD (R485): The rail sequence completes, MAIN_ON becomes 1 and main-powered logic leaves the main-rail power-up reset. -/
  | mainPowerGood
  /-- RAIL_FAILURE (R416): A rail stays below its limit for more than 100 µs, or is not good within twice its ramp, and every main rail is turned off in hardware with MODULE_FAILED set. -/
  | railFailure
  /-- ROOT_READY (R437): The root PLL has locked and passed 100 counting windows, ROOT becomes READY and link training and bring-up begin. -/
  | rootReady
  /-- AMELO_READY (R488): Bring-up completes and Amelo starts taking commands, leaving the module UNJOINED. -/
  | ameloReady
  /-- CLOCK_FAILURE (R439): A counting window ends with a deviation beyond 2 %, and the failure is declared, attributed and acted on by switching or stopping domains. -/
  | clockFailure (kind : Nat) (dom : Nat) (count : Nat) (other : Nat)
  /-- CLOCK_AUTO_RETURN (R441): At the first tick after ROOT is READY again, with AUTO_RETURN set, Bimon returns domains moved by a reference failure to ROOT. -/
  | clockAutoReturn
  /-- MANAGEMENT_TICK (R390): At each 1 ms boundary Bimon starts the due work of Table 17-1 in order, and counts an overrun. -/
  | managementTick (overrun : Nat) (fail : Nat) (readings : List Nat) (watts : List Nat) (stalls : List Nat) (steps : List Nat)
  /-- BIAS_LOOP_UPDATE (R161): When a layer's 10-tick period falls due, Bimon swaps its window counts, adjusts each expert bias and flips the selector. -/
  | biasLoopUpdate (ctx : Nat) (slot : Nat) (layer : Nat)
  /-- THERMAL_CUT_CLEAR (R425): The hottest sensor has stayed at or below 95 °C for 1,000 consecutive ticks and the thermal cut factor returns to 1. -/
  | thermalCutClear
  /-- SENSOR_FAIL (R426): A die or stack sensor gives no valid reading for 3 ticks, is treated as 100 °C and SENSOR_FAIL is set. -/
  | sensorFail (sensor : Nat)
  /-- THERMAL_TRIP (R425): A junction reaches 115 °C and hardware asserts THERM_TRIP_N and turns off the main rails, latched until a full power cycle. -/
  | thermalTrip (sensor : Nat) (reading : Nat)
  /-- PHASE_FAULT (R416): A power stage disconnects a faulty phase within 1 µs and the rail's current limit falls by 45 A. -/
  | phaseFault (rail : Nat) (phase : Nat)
  /-- PHASE_STOCK_DRAW (R416): At the next tick after a phase fault, Bimon draws a stock power-stage phase. -/
  | phaseStockDraw (rail : Nat) (failed : List Nat)
  /-- PACE_ADJUST (R418): The die's fast limiter compares its 10 µs power average with the limit and lowers or raises the issue pace. -/
  | paceAdjust (die : Nat) (avg : Nat)
  /-- EPO_N_ASSERT (R404): A filtered assertion or CHATTER on EPO_N turns off every main power stage within 50 µs and latches the off state. -/
  | epoNAssert (level : Nat)
  /-- PWARN_N_ASSERT (R405): A filtered assertion of PWARN_N sets every die's pace to minimum and makes a scorebook flush due. -/
  | pwarnNAssert
  /-- PWARN_N_RELEASE (R405): PWARN_N deasserts; minimum pace holds until the next accepted CAP_SET. -/
  | pwarnNRelease
  /-- PWARN_CAP_RESTORE (R405): No CAP_SET arrives within 1 s of the release and the cap in force before the warning applies again. -/
  | pwarnCapRestore
  /-- COOL_ALM_N_ASSERT (R406): A filtered assertion or CHATTER on COOL_ALM_N halves the cap and every die's limit at once. -/
  | coolAlmNAssert
  /-- COOL_ALM_N_RELEASE (R406): COOL_ALM_N deasserts and the cap in force is restored at the next tick boundary. -/
  | coolAlmNRelease
  /-- TRAY_SEAT_N_CHANGE (R401): TRAY_SEAT_N changes filtered level and the change is recorded and raises the event vector. -/
  | traySeatNChange (level : Nat)
  /-- DRAIN_REQ_N_ASSERT (R321): A filtered assertion of DRAIN_REQ_N sets TOPO.DRAIN.REQUESTED and raises each host's event vector. -/
  | drainReqNAssert
  /-- DRAIN_REQ_N_RELEASE (R321): DRAIN_REQ_N deasserts, REQUESTED clears and STUCK clears. -/
  | drainReqNRelease
  /-- DRAIN_STUCK (R403): DRAIN_REQ_N stays asserted for 600 s, STUCK is set and the input is ignored. -/
  | drainStuck
  /-- CHATTER_SET (R402): An input's 65th filtered transition within 1 s sets its CHATTER bit within 1 µs. -/
  | chatterSet (input : Nat)
  /-- CHATTER_CLEAR (R402): A write of 1 to a CHATTER bit clears it only when the input made no transition in the previous 10 s. -/
  | chatterClear (src : Nat) (value : Nat)
  /-- PERST_N_ASSERT (R383): A port's PERST_N asserts after its filter and resets the port, as a host loss when the host is ATTACHED. -/
  | perstNAssert (h : Nat)
  /-- PERST_N_DEASSERT (R490): A port's PERST_N deasserts and the port starts link training once ROOT is READY. -/
  | perstNDeassert (h : Nat)
  /-- SB_RESET_N_ASSERT (R407): SB_RESET_N asserts and the side-band port stops answering on I3C. -/
  | sbResetNAssert
  /-- SB_RESET_N_DEASSERT (R407): SB_RESET_N deasserts and the dynamic address, endpoint ID, event receiver and partial messages are cleared. -/
  | sbResetNDeassert
  /-- WATCHDOG_EXPIRY (R392): Bimon has not completed tick item 4 for 50 ms and the watchdog restarts it, or stops it after a third restart in 10 s. -/
  | watchdogExpiry
  /-- RM_SILENCE (R410): No MCTP message arrives for SILENCE_S seconds and RM_SILENT is set and recorded. -/
  | rmSilence
  /-- HOST_LINK_UP (R383): A port's data link layer reaches DL_Up and the host goes from ABSENT to LINKED. -/
  | hostLinkUp (h : Nat) (rate : Nat) (width : Nat) (flit : Nat)
  /-- HOST_LINK_DOWN (R383): DL_Down on a LINKED port returns its host to ABSENT. -/
  | hostLinkDown (h : Nat)
  /-- HOST_LOST (R384): An ATTACHED host's link drops, is reset, disabled or leaves D0, and the loss actions start. -/
  | hostLost (h : Nat) (cause : Nat)
  /-- LOSS_ACTIONS_COMPLETE (R383): A lost host's loss actions complete, the port goes to LINKED or ABSENT and the other host's OTHER_LOST is set. -/
  | lossActionsComplete (h : Nat)
  /-- CONFIG_REQUEST (R379): A PCI Express configuration request is answered, with Request Retry Status until Amelo runs. -/
  | configRequest (h : Nat) (fn : Nat) (reg : Nat) (write : Nat) (value : Nat)
  /-- HOST_READ_TIMEOUT (R378): A read of host memory passes its completion timeout and returns poisoned data to its request. -/
  | hostReadTimeout (desc : Nat)
  /-- HOST_ATTACH (R383): A write of ATTACH = 1 with Bus Master and Memory Space Enable set makes the host ATTACHED. -/
  | hostAttach (h : Nat) (value : Nat)
  /-- HOST_DETACH (R383): A write of ATTACH = 0 with no live owned context and every channel disabled detaches the host in order. -/
  | hostDetach (h : Nat) (value : Nat)
  /-- ORPHAN_DATA_READ (R386): A read of HIF.ORPHAN_DATA returns 8 bytes of a device-memory ring and advances OFFSET. -/
  | orphanDataRead (src : Nat) (h : Nat)
  /-- MSIX_TABLE_WRITE (R382): A naturally aligned 32-bit or 64-bit write updates an MSI-X table entry without being recorded. -/
  | msixTableWrite (h : Nat) (off : Nat) (value : Nat) (size : Nat)
  /-- REGISTER_WRITE (R10): A write to a register with no behaviour of its own applies under its access codes, or is discarded and recorded when narrow or at a reserved offset. -/
  | registerWrite (src : Nat) (off : Nat) (value : Nat) (size : Nat)
  /-- RC_READ (R7): A 64-bit read returns and clears the RC fields of a register, keeping counts that arrive at the same instant. -/
  | rcRead (src : Nat) (off : Nat) (size : Nat)
  /-- PWR_CAP_WRITE (R433): A write to PWR.CAP.WATTS acts as CAP_SET without a reply. -/
  | pwrCapWrite (src : Nat) (value : Nat)
  /-- WINDOW_WRITE (R348): A naturally aligned 8-, 16- or 32-byte write stores bytes into a command-window slot without committing. -/
  | windowWrite (src : Nat) (off : Nat) (data : List Nat)
  /-- COMMAND_COMMIT (R351): A write covering bytes 56–63 of a slot commits its packet, which is checked for SEQ_ECHO and CRC and then held or discarded against EXPECT. -/
  | commandCommit (src : Nat) (off : Nat) (data : List Nat)
  /-- COMMAND_QUEUE (R353): The held packet at EXPECT is queued once the channel queue has room, EXPECT advances and the slot is zeroed. -/
  | commandQueue (chan : Nat)
  /-- GAP_TIMER_EXPIRY (R353): The gap timer runs for GAP_US with EXPECT uncommitted and a later packet held, and one SEQ_GAP reply is written. -/
  | gapTimerExpiry (chan : Nat)
  /-- CREDIT_WORD_WRITE (R354): After CREDIT_BATCH queuings or 1 µs, Amelo writes the channel's credit word to host memory. -/
  | creditWordWrite (chan : Nat)
  /-- COMMAND_ACCEPT (R355): Amelo accepts a channel-queue head by class, order and fence rules, runs the acceptance checks and sends it to its unit. -/
  | commandAccept (chan : Nat)
  /-- COMMAND_COMPLETE (R358): A command's status is fixed and its reply, if any, is written to its ring and the channel signal follows. -/
  | commandComplete (k : Nat)
  /-- REPLY_HOLD_DRAIN (R361): A full ring gains room and held replies enter it in completion order, advancing RING_TAIL and raising its vector. -/
  | replyHoldDrain (ring : Nat)
  /-- CHANNEL_ENABLE (R374): A write setting CHAN_CTL.ENABLE sets EXPECT to SEQ_BASE and zeroes the slots. -/
  | channelEnable (src : Nat) (chan : Nat) (value : Nat)
  /-- CHANNEL_DISABLE (R374): A write clearing CHAN_CTL.ENABLE discards packets not yet accepted. -/
  | channelDisable (src : Nat) (chan : Nat) (value : Nat)
  /-- CHANNEL_RESET (R374): A write of CHAN_CTL.RESET discards unaccepted packets, zeroes slots and sets EXPECT to SEQ_BASE. -/
  | channelReset (src : Nat) (chan : Nat) (value : Nat)
  /-- RING_ENABLE (R360): A write setting RING_CTL.ENABLE enables a reply ring, refused for a misplaced device ring or a host not ATTACHED. -/
  | ringEnable (src : Nat) (ring : Nat) (value : Nat)
  /-- RING_DISABLE (R361): A write clearing RING_CTL.ENABLE drops the replies held for the ring and counts them. -/
  | ringDisable (src : Nat) (ring : Nat) (value : Nat)
  /-- NOP (R365): NOP completes at once. -/
  | nop (k : Nat)
  /-- FENCE (R365): FENCE completes when every earlier command of its channel, or of every channel of its host, has completed. -/
  | fence (k : Nat)
  /-- SIGNAL (R365): SIGNAL stores or fetch-adds VALUE at a context or bus address when accepted. -/
  | signal (k : Nat)
  /-- WAIT (R366): WAIT reads a word and holds its channel until the word meets its condition, times out, is pre-empted or aborted. -/
  | wait (k : Nat)
  /-- WAIT_POLL (R366): A WAIT rereads its word after a local write to its block or every 10 µs and completes DONE when the condition holds. -/
  | waitPoll (k : Nat)
  /-- WAIT_TIMEOUT (R366): TIMEOUT_US passes for a WAIT and it completes TIMED_OUT. -/
  | waitTimeout (k : Nat)
  /-- TIMESTAMP (R365): TIMESTAMP returns the time base and tick count, and may store the time base at a VA. -/
  | timestamp (k : Nat)
  /-- CTX_CREATE (R368): CTX_CREATE makes a FREE context LIVE with its root, class, slot and default settings. -/
  | ctxCreate (k : Nat)
  /-- CTX_DESTROY (R262): CTX_DESTROY unmaps the context's pages, unpins windows, frees kitty copies and clears its root, or returns BUSY_RETRY. -/
  | ctxDestroy (k : Nat)
  /-- MAP (R368): MAP writes leaf entries for pages, allocating frames or naming homes, and serves ABSENT faults. -/
  | map (k : Nat)
  /-- UNMAP (R368): UNMAP removes mappings and frees frames that MAP allocated. -/
  | unmap (k : Nat)
  /-- MIGRATE (R368): MIGRATE moves each page under Table 5-7 and replies when the last move is complete. -/
  | migrate (k : Nat)
  /-- SET_HOME (R368): SET_HOME gives pages a new home without copying, with a broadcast for GLOBAL pages. -/
  | setHome (k : Nat)
  /-- CTX_ADOPT (R385): CTX_ADOPT makes the sending host owner of ORPHANED contexts and redelivers their open fault records. -/
  | ctxAdopt (k : Nat)
  /-- PIN_WINDOW (R127): PIN_WINDOW maps pinned deal-window pages in each named die's SRAM, moving unpinned pages to make room. -/
  | pinWindow (k : Nat)
  /-- UNPIN (R127): PIN_WINDOW with UNPIN unmaps and frees the context's windows on the named dies. -/
  | unpin (k : Nat)
  /-- INVALIDATE (R294): INVALIDATE drops far-read cache lines of a range, or of the whole module, on all eight dies. -/
  | invalidate (k : Nat)
  /-- COPY (R147): COPY carries one mover descriptor that copies, and may convert, LENGTH bytes. -/
  | copy (k : Nat)
  /-- FILL (R147): FILL carries one mover descriptor that writes a repeated 8-byte pattern. -/
  | fill (k : Nat)
  /-- GATHER (R147): GATHER carries one mover descriptor that reads indexed elements into a dense destination. -/
  | gather (k : Nat)
  /-- SCATTER (R147): SCATTER carries one mover descriptor that writes dense elements to indexed places. -/
  | scatter (k : Nat)
  /-- REDUCE (R147): REDUCE carries one mover descriptor that applies each element as an atomic at its home. -/
  | reduce (k : Nat)
  /-- ALLTOALL (R148): ALLTOALL carries one mover descriptor that runs a send table of copies and counter adds. -/
  | alltoall (k : Nat)
  /-- DESCRIPTOR_ISSUE (R140): A mover takes a descriptor from its queue, checks it and begins issuing its requests in order. -/
  | descriptorIssue (mover : Nat) (queue : Nat)
  /-- MOVER_REQUEST_ISSUE (R141): A mover issues a request once its chunks translate and a slot of its queue's share is free. -/
  | moverRequestIssue (mover : Nat) (retried : List Nat) (failed : List Nat)
  /-- DESCRIPTOR_COMPLETE (R146): Every write of a descriptor is visible and the mover writes its signal and reports completion. -/
  | descriptorComplete (desc : Nat)
  /-- FAULT_RECORD_DELIVER (R132): A waiting ABSENT fault record is written to its host's fault ring once the ring is enabled and has room. -/
  | faultRecordDeliver (fault : Nat)
  /-- FAULT_RESOLVE (R133): A write of ACTION 1 to MMU.FAULT_RESOLVE refuses an open ABSENT fault entry. -/
  | faultResolve (src : Nat) (value : Nat)
  /-- FAULT_TIMEOUT (R133): MMU.FAULT_TIMEOUT expires for an open ABSENT entry and its launch ends TIMED_OUT. -/
  | faultTimeout (fault : Nat)
  /-- PAGE_MOVE_START (R119): The tier engine sets a page TRANSIT and shoots down the translation buffers. -/
  | pageMoveStart (want : Nat)
  /-- PAGE_MOVE_COPY_DONE (R119): The copy of a moved page completes and its new home is written RESIDENT, with a broadcast for a GLOBAL page. -/
  | pageMoveCopyDone (move : Nat)
  /-- MOVE_BROADCAST_COMPLETE (R119): Every member acknowledges a move broadcast and the forwarding record and old frame are freed. -/
  | moveBroadcastComplete (move : Nat)
  /-- MOVE_NOTE_RECEIVE (R122): A module receiving a move broadcast drops cached lines, rewrites leaf entries from its remote-map index and acknowledges. -/
  | moveNoteReceive (packet : Nat)
  /-- FORWARD_RECEIVE (R121): A requester receiving a forwarding reply retries once at the new home and updates its leaf entry. -/
  | forwardReceive (packet : Nat)
  /-- BANK_RETIRE (R130): At the next tick Bimon retires a failing SRAM bank, draws a stock bank under its logical number and moves its contents. -/
  | bankRetire (die : Nat) (bank : Nat)
  /-- LAUNCH_LAYER (R370): LAUNCH_LAYER runs a layer program of the context, routing it when the layer has a router. -/
  | launchLayer (k : Nat)
  /-- LAUNCH_KERNEL (R370): LAUNCH_KERNEL runs a kernel program of the context on the dies of DIE_MASK. -/
  | launchKernel (k : Nat)
  /-- LAUNCH_LOOP (R180): LAUNCH_LOOP runs a kernel body repeatedly under a trip-count word and MAX_TRIPS. -/
  | launchLoop (k : Nat)
  /-- LOOP_HEAD (R180): At each iteration head the loop rereads its trip-count word and runs or ends. -/
  | loopHead (launch : Nat) (die : Nat)
  /-- LOAD_PROGRAM (R371): LOAD_PROGRAM checks a program image and copies it into the program store, returning a handle. -/
  | loadProgram (k : Nat)
  /-- UNLOAD_PROGRAM (R371): LOAD_PROGRAM with UNLOAD frees a loaded program. -/
  | unloadProgram (k : Nat)
  /-- LAUNCH_READY (R253): A launch's fences and predecessor are met, it reads its shape word and joins its class ring, pausing plain work for trump. -/
  | launchReady (launch : Nat)
  /-- DIE_HOLDER_CHANGE (R255): A die falls free or its holder reaches a boundary with other work due, and the arbiter saves and restores cursors and picks the next holder. -/
  | dieHolderChange (die : Nat)
  /-- SLICE_EXPIRY (R256): A holder has held a die for SLICE_US while another launch of its class waits and it yields at its next tile boundary. -/
  | sliceExpiry (die : Nat)
  /-- PROGRAM_RECORD_START (R377): A program record starts on a die once the record before has started and its resources or barrier allow, with argument patches applied. -/
  | programRecordStart (die : Reader)
  /-- TILE_START (R118): The dispatcher checks a tile's descriptor and pages, and starts it on a free active core. -/
  | tileStart (die : Nat) (core : Reader)
  /-- TILE_VERDICT (R63): A tile's drain ends, checksums and numerics counts are compared, and results are written or a replay is started. -/
  | tileVerdict (tile : Nat) (misdeals : List Nat) (port : Nat)
  /-- ARMING_EXPIRY (R64): Ten seconds after its misdeal an array's arming ends. -/
  | armingExpiry (die : Nat) (core : Nat) (array : Nat)
  /-- MTX_INJECT (R75): A write to MTX.INJECT while enabled corrupts one checksum comparison of the target array. -/
  | mtxInject (value : Nat)
  /-- STOCK_CORE_DRAW (R68): At the first tick after a retirement, Bimon takes the lowest STOCK core to TESTING and runs its self-test. -/
  | stockCoreDraw (die : Nat)
  /-- CORE_SELFTEST_DONE (R68): A drawn core's self-test completes and Bimon makes it ACTIVE or RETIRED at the next tick. -/
  | coreSelftestDone (die : Nat) (core : Nat) (pass : Nat)
  /-- LAUNCH_COMPLETE (R370): A launch's last tile is accepted on every die, its scale table is folded and its reply written. -/
  | launchComplete (launch : Nat)
  /-- SET_NUMERICS (R99): SET_NUMERICS sets a context's margin, thresholds, redeal limit and scale table. -/
  | setNumerics (k : Nat)
  /-- DEAL_AHEAD (R125): A dealer deals the next layer's attention, gate and shared-expert weights into the other half of the window. -/
  | dealAhead (die : Nat) (retried : List Nat) (failed : List Nat)
  /-- DEAL_EXPERT (R174): A dealer deals a routed expert's weights once its area is decided with COUNT non-zero, in decision order. -/
  | dealExpert (die : Nat) (retried : List Nat) (failed : List Nat)
  /-- DISPATCH (R167): Each source fetch-adds ADMIT for each expert and sends its admitted rows or a pass marker by ALLTOALL. -/
  | dispatch (launch : Nat)
  /-- AREA_DECIDED (R169): ARRIVE reaches EXPECT, COUNT is written and the expert launch runs or the expert is skipped. -/
  | areaDecided (ctx : Nat) (slot : Nat) (layer : Nat) (expert : Nat) (parity : Nat)
  /-- EXPERT_LAUNCH (R175): An expert launch computes its rows, scales them by GATE and adds them into combine rows, then adds to DONE counters. -/
  | expertLaunch (ctx : Nat) (slot : Nat) (layer : Nat) (expert : Nat) (parity : Nat)
  /-- COMBINE_COMPLETE (R176): A source's DONE counter reaches the admitted total and its routed layer launch completes. -/
  | combineComplete (launch : Nat)
  /-- AREA_RESET (R166): An area decided and fully combined is reset with ADMIT, ARRIVE and COUNT zero and EXPECT written. -/
  | areaReset (ctx : Nat) (slot : Nat) (layer : Nat) (expert : Nat) (parity : Nat)
  /-- ROUTER_CONFIG (R181): ROUTER_CONFIG configures a layer's router and resets its receive areas and the step counter. -/
  | routerConfig (k : Nat)
  /-- SET_SHAPE (R178): ROUTER_CONFIG with SET_SHAPE sets the context's SHAPE_MODE only. -/
  | setShape (k : Nat)
  /-- ROUTER_REMOVE (R181): ROUTER_CONFIG with REMOVE removes the layer's router. -/
  | routerRemove (k : Nat)
  /-- BIAS_LOOP_CONFIG (R163): BIAS_LOOP_CONFIG enables or disables the bias loop of a range of layers and may reset biases. -/
  | biasLoopConfig (k : Nat)
  /-- ROUTER_STATS (R183): ROUTER_STATS writes per-expert counts and biases, optionally clearing them by atomic swap. -/
  | routerStats (k : Nat)
  /-- STEP_ASSEMBLY (R214): The serving unit assembles a context's next step when work, arrivals or another member's assembly allow it and the barrier permits. -/
  | stepAssembly (ctx : Nat)
  /-- STEP_COMPLETE (R212): A step completes, committed lengths move, speculation depth updates, replies are written and COMPLETED is added. -/
  | stepComplete (ctx : Nat)
  /-- EVICTION_COMPLETE (R208): The last page of an evicting hand leaves HBM and the hand is EVICTED. -/
  | evictionComplete (hand : Nat)
  /-- RETURN_START (R199): Free pages cover an evicted hand and its pages start moving back. -/
  | returnStart (hand : Nat)
  /-- RETURN_COMPLETE (R208): The last page of a returning hand is back and the hand is OPEN. -/
  | returnComplete (hand : Nat)
  /-- HAND_OPEN (R209): HAND_OPEN binds a FREE hand to the context with its settings. -/
  | handOpen (k : Nat)
  /-- HAND_CLOSE (R208): HAND_CLOSE frees every page and slot of a hand, held until the hand is OPEN, EVICTED or LOST. -/
  | handClose (k : Nat)
  /-- STEP (R217): STEP runs one token step of a hand and replies with the tokens produced. -/
  | step (k : Nat)
  /-- PREFILL_CHUNK (R217): PREFILL_CHUNK runs a prompt over as many steps as its chunks need. -/
  | prefillChunk (k : Nat)
  /-- PARK (R221): PARK moves an OPEN hand's cache into the kitty, or makes an evicted hand's pages the parked copy. -/
  | park (k : Nat)
  /-- PARK_RENEW (R222): PARK with RENEW restarts a HELD copy's time to live. -/
  | parkRenew (k : Nat)
  /-- PARK_COMPLETE (R208): The last page of a parking hand reaches host memory, the entry is HELD and PARK replies. -/
  | parkComplete (hand : Nat)
  /-- UNPARK (R223): UNPARK opens a FREE hand from a HELD copy and starts moving its pages back. -/
  | unpark (k : Nat)
  /-- UNPARK_COMPLETE (R208): The last page of an unparking hand is back, the hand is OPEN and the entry EMPTY. -/
  | unparkComplete (hand : Nat)
  /-- KITTY_EXPIRY (R222): At the first tick after a copy's time to live ends, Bimon frees it and increases the entry's generation. -/
  | kittyExpiry (entry : Nat)
  /-- SPEC_CONFIG (R235): SPEC_CONFIG enables speculation on a hand with a lead slot, or disables it and frees lead spans. -/
  | specConfig (k : Nat)
  /-- PREFIX_LOOKUP (R243): PREFIX_LOOKUP hashes the tokens, finds local and remote prefix lengths and may attach the hand. -/
  | prefixLookup (k : Nat)
  /-- PREFIX_INSERT (R244): PREFIX_INSERT copies a hand's committed blocks into a prefix entry and writes holder words. -/
  | prefixInsert (k : Nat)
  /-- PREFIX_REMOVE (R241): PREFIX_INSERT with REMOVE frees an unreferenced prefix entry. -/
  | prefixRemove (k : Nat)
  /-- VARIANT_BIND (R248): VARIANT_BIND with OP 0 binds a hand to a registered variant or the base. -/
  | variantBind (k : Nat)
  /-- VARIANT_REGISTER (R248): VARIANT_BIND with OP 1 registers a variant from a descriptor table for the running slot. -/
  | variantRegister (k : Nat)
  /-- VARIANT_REMOVE (R248): VARIANT_BIND with OP 2 removes an unbound variant. -/
  | variantRemove (k : Nat)
  /-- CLASS_SET (R264): CLASS_SET changes the class of the context's later launches. -/
  | classSet (k : Nat)
  /-- PREEMPT (R265): PREEMPT sets PREEMPTED and suspends the context at tile boundaries and mover issue. -/
  | preempt (k : Nat)
  /-- RESUME (R266): RESUME clears PREEMPTED and reports the other flags. -/
  | resume (k : Nat)
  /-- ACCOUNT_READ (R267): ACCOUNT_READ returns and may write and clear a context's or tag's account record. -/
  | accountRead (k : Nat)
  /-- FLIT_RECEIVE (R274): A receiver checks a flit's CRC and SEQ, acknowledging it or sending NAK for a resend from the replay buffer. -/
  | flitReceive (link : Nat) (bytes : List Nat)
  /-- LINK_REPLAY_FAILURE (R274): A link fails to deliver one flit in 16 consecutive replays and goes DOWN. -/
  | linkReplayFailure (link : Nat)
  /-- LANE_FAILURE (R278): A lane loses lock or exceeds UNCORR_LIMIT, and its link swaps to the stock lane or goes DOWN. -/
  | laneFailure (link : Nat) (lane : Nat)
  /-- LANE_SWAP (R278): At the named striping boundary both ends exchange lanes and the link returns to UP. -/
  | laneSwap (link : Nat)
  /-- LANE_RETRAINED (R279): A failed lane trains again and takes back its place at the next striping boundary. -/
  | laneRetrained (link : Nat) (lane : Nat)
  /-- LINK_TRAINED (R280): A link's lanes train within 50 ms, the link is UP and a hello is exchanged. -/
  | linkTrained (link : Nat) (delay : Nat)
  /-- LINK_TRAINING_TIMEOUT (R280): A link fails to train within 50 ms and goes DOWN. -/
  | linkTrainingTimeout (link : Nat)
  /-- LINK_RETRAIN (R280): One second after a training failure Bimon starts training the link again. -/
  | linkRetrain (link : Nat)
  /-- PACKET_FORWARD (R282): A module routes a packet by dimension order, route and dateline over one link of the chosen port, or discards it. -/
  | packetForward (packet : Nat)
  /-- PACKET_LIFETIME_EXPIRY (R285): A held packet's age exceeds 50 µs and it is discarded. -/
  | packetLifetimeExpiry (packet : Nat)
  /-- FABRIC_REQUEST_SERVE (R289): A LOAD, STORE or atomic reaches its home, is applied once under the result store and answered. -/
  | fabricRequestServe (packet : Nat) (retried : List Nat) (failed : List Nat)
  /-- FABRIC_ANSWER_RECEIVE (R297): A requester takes the first answer for a tag, fills the far-read cache, and discards duplicates or stale epochs. -/
  | fabricAnswerReceive (packet : Nat)
  /-- FABRIC_RETRY (R297): A request unanswered for 100 µs is sent again with the same tag on the next route. -/
  | fabricRetry (req : Nat)
  /-- TIME_SEND (R301): Every 10 µs the module sends a TIME packet on one UP link of every UP port. -/
  | timeSend
  /-- TIME_RECEIVE (R301): A received TIME packet steers the time base toward the partition's time source. -/
  | timeReceive (packet : Nat)
  /-- HELLO_RECEIVE (R307): A received hello updates the port's neighbour entry to PRESENT or MISMATCH. -/
  | helloReceive (packet : Nat)
  /-- NEIGHBOUR_SILENT (R307): No hello arrives on a PRESENT port for 3 ticks and its neighbour entry becomes ABSENT. -/
  | neighbourSilent (port : Nat)
  /-- ABORT_RECEIVE (R310): An ABORT packet of this partition with the next epoch is applied and forwarded on every other UP port. -/
  | abortReceive (packet : Nat)
  /-- LINK_ADMIN_DOWN (R302): LINK_ADMIN DOWN drains a link or port and takes it DOWN. -/
  | linkAdminDown (k : Nat)
  /-- LINK_ADMIN_UP (R302): LINK_ADMIN UP trains a DOWN link and replies when it is UP or after 50 ms. -/
  | linkAdminUp (k : Nat)
  /-- TO_STOCK (R302): LINK_ADMIN TO_STOCK puts the stock lane in a named lane's place and holds that lane out. -/
  | toStock (k : Nat)
  /-- FROM_STOCK (R302): LINK_ADMIN FROM_STOCK trains a held-out lane and returns it to service. -/
  | fromStock (k : Nat)
  /-- TOPO_QUERY (R320): TOPO_QUERY returns the module's chip, partition, neighbour masks and loss, and may write the last hellos. -/
  | topoQuery (k : Nat)
  /-- PARTITION_FORM (R316): PARTITION_FORM checks the member table and neighbours, writes FAB.ROUTE and joins the module as member or donor. -/
  | partitionForm (k : Nat)
  /-- PARTITION_RESHAPE (R316): PARTITION_RESHAPE rechecks and rewrites the partition of an ABORTED module as member, donor or unjoined. -/
  | partitionReshape (k : Nat)
  /-- JOB_ABORT (R319): JOB_ABORT originates an abort flood and replies once it is applied here. -/
  | jobAbort (k : Nat)
  /-- JOB_RESTART (R319): JOB_RESTART resets step counters, receive areas, ring buffers and the prefix index and returns the partition to RUNNING. -/
  | jobRestart (k : Nat)
  /-- STOCK_DRAW (R325): STOCK_DRAW retires a named ACTIVE unit and draws and tests the lowest STOCK unit of its group at tick boundaries. -/
  | stockDraw (k : Nat) (failed : List Nat)
  /-- STOCK_RETURN (R325): STOCK_RETURN self-tests a RETIRED unit and returns it to STOCK or keeps it RETIRED. -/
  | stockReturn (k : Nat) (failed : List Nat)
  /-- STOCK_SELFTEST (R323): Every 24 h, one STOCK unit per tick is self-tested and retired on failure. -/
  | stockSelftest (cls : Nat) (group : Nat) (unit : Nat) (pass : Nat)
  /-- SHARD_INTAKE (R335): SHARD_INTAKE opens a BAR2 window or starts a donor copy for a shard, or a repair onto stock frames. -/
  | shardIntake (k : Nat)
  /-- INTAKE_WRITE (R335): A NIC write to BAR2 lands in an open window's frames or is discarded as stray. -/
  | intakeWrite (h : Nat) (off : Nat) (data : List Nat)
  /-- DIGEST_COMPLETE (R337): A digest engine finishes a shard, which becomes VERIFIED or is refused and its attempts counted. -/
  | digestComplete (slot : Nat) (shard : Nat)
  /-- DONOR_COPY_COMPLETE (R338): A donor copy of a shard completes and the shard becomes VERIFIED. -/
  | donorCopyComplete (slot : Nat) (shard : Nat) (detail : Nat) (data : List Nat)
  /-- SHARD_TIMER_EXPIRY (R337): A shard's timer expires and the shard and its staging slot fail. -/
  | shardTimerExpiry (slot : Nat) (shard : Nat)
  /-- RECHECK_SHARD (R339): The background pass rehashes a resident shard and marks it CORRUPT on a mismatch. -/
  | recheckShard
  /-- SHARD_VERIFY (R339): SHARD_VERIFY rechecks one shard or every shard of a slot on demand. -/
  | shardVerify (k : Nat)
  /-- REPAIR_SWAP (R340): A verified repair is swapped in at a moment when no step of the slot runs, holding new steps after 100 ms. -/
  | repairSwap (slot : Nat)
  /-- REPAIR_WAIT_TIMEOUT (R341): A dealer read waiting on a failed weight block ends FAULTED when no repair is swapped in within TIMEOUT_S. -/
  | repairWaitTimeout (launch : Nat)
  /-- MODEL_STAGE (R342): MODEL_STAGE reads the manifest, allocates an EMPTY slot's frames and replies when the slot is READY or failed. -/
  | modelStage (k : Nat)
  /-- MODEL_SWITCH (R343): MODEL_SWITCH sets the slot that runs a context from the assembly of step AT_STEP. -/
  | modelSwitch (k : Nat)
  /-- MODEL_SWITCH_CANCEL (R343): MODEL_SWITCH with CANCEL withdraws the context's pending switch. -/
  | modelSwitchCancel (k : Nat)
  /-- MODEL_RETIRE (R332): MODEL_RETIRE refuses new deals on a slot and frees it once no reader remains. -/
  | modelRetire (k : Nat)
  /-- CAP_SET (R430): CAP_SET sets the module cap, applied and replied at the next tick. -/
  | capSet (k : Nat)
  /-- ENERGY_READ (R430): ENERGY_READ returns module, job and context energy. -/
  | energyRead (k : Nat)
  /-- PHASE_HINT (R430): PHASE_HINT names, clears or forgets a phase tag for the context's later launches. -/
  | phaseHint (k : Nat)
  /-- SCORE_READ (R475): SCORE_READ returns held scorebook records from FIRST_SEQ, or sets the source's read cursor. -/
  | scoreRead (k : Nat)
  /-- SCORE_CLEAR (R477): SCORE_CLEAR writes record 0x0002 and erases every earlier record, advancing GEN. -/
  | scoreClear (k : Nat)
  /-- READ_DATA_READ (R476): A read of SCORE.READ_DATA or READ_BURST returns the next word of the record at the source's cursor and advances it. -/
  | readDataRead (src : Nat)
  /-- SCOREBOOK_FLUSH (R472): A due flush copies unflushed ring records to flash, erasing the next block when needed. -/
  | scorebookFlush
  /-- CLOCK_SELECT (R443): CLOCK_SELECT switches a domain's source glitch-free to a permitted READY source. -/
  | clockSelect (k : Nat)
  /-- GATE_SET (R443): GATE_SET gates or ungates a permitted domain. -/
  | gateSet (k : Nat)
  /-- ATTEST (R462): ATTEST signs and returns an attestation report, or returns the endorsement. -/
  | attest (k : Nat) (fail : Nat)
  /-- FW_STAGE (R452): FW_STAGE writes a firmware chunk into the inactive bank of its type. -/
  | fwStage (k : Nat)
  /-- FW_STAGE_FINAL (R451): FW_STAGE with FINAL verifies the staged bank and its SVN and marks it VERIFIED or FAILED. -/
  | fwStageFinal (k : Nat)
  /-- FW_STAGE_ABORT (R452): FW_STAGE with ABORT empties the staged bank. -/
  | fwStageAbort (k : Nat)
  /-- FW_ACTIVATE (R453): FW_ACTIVATE makes the VERIFIED bank the boot bank in replay-protected flash, after an authorisation. -/
  | fwActivate (k : Nat) (fail : Nat)
  /-- SVN_COMMIT (R454): At the first tick after an activated image runs with COMMIT_PENDING, Bimon raises its type's SVN floor. -/
  | svnCommit (typ : Nat)
  /-- AUTH_CHALLENGE (R459): AUTH_CHALLENGE with OP 0 gives the source a fresh 60 s nonce. -/
  | authChallenge (k : Nat)
  /-- OWNER_ENROL (R458): AUTH_CHALLENGE with OP 1 enrols the owner key once. -/
  | ownerEnrol (k : Nat) (fail : Nat)
  /-- I3C_ADDRESS_ASSIGN (R394): The I3C controller assigns the side-band target's dynamic address by ENTDAA or SETDASA. -/
  | i3cAddressAssign (addr : Nat)
  /-- SET_ENDPOINT_ID (R395): The MCTP control command Set Endpoint ID assigns the endpoint ID. -/
  | setEndpointId (eid : Nat)
  /-- GET_ENDPOINT_ID (R395): The MCTP control command Get Endpoint ID returns the endpoint ID. -/
  | getEndpointId
  /-- GET_MCTP_VERSION_SUPPORT (R395): The MCTP control command Get MCTP Version Support returns supported versions. -/
  | getMctpVersionSupport
  /-- GET_MESSAGE_TYPE_SUPPORT (R395): The MCTP control command Get Message Type Support returns the accepted message types. -/
  | getMessageTypeSupport
  /-- MCTP_MESSAGE_DROP (R395): A message of another type, a packet failing PEC, or one that does not reassemble is dropped and counted. -/
  | mctpMessageDrop
  /-- SB_COMMAND (R397): A vendor-defined COMMAND message is received whole and taken as a side-band command, or refused when 8 are outstanding. -/
  | sbCommand (tag : Nat) (bytes : List Nat)
  /-- SB_HANDOVER (R397): At the next tick boundary Bimon hands a received side-band command to Amelo or serves it itself. -/
  | sbHandover
  /-- SB_REPLY (R397): At the first tick after a side-band command completes, Bimon returns its reply and raises an in-band interrupt. -/
  | sbReply
  /-- WINDOW_READ (R399): A side-band WINDOW_READ reads up to 8 consecutive registers. -/
  | windowRead (off : Nat) (count : Nat)
  /-- GETTID (R400): The PLDM command GetTID returns the terminus ID. -/
  | gettid
  /-- GETPLDMVERSION (R400): The PLDM command GetPLDMVersion returns the supported version. -/
  | getpldmversion (typ : Nat)
  /-- GETPLDMTYPES (R400): The PLDM command GetPLDMTypes returns the supported types. -/
  | getpldmtypes
  /-- GETPLDMCOMMANDS (R400): The PLDM command GetPLDMCommands returns the supported commands. -/
  | getpldmcommands (typ : Nat)
  /-- GETPDR (R400): The PLDM command GetPDR returns a platform descriptor record. -/
  | getpdr (index : Nat)
  /-- GETPDRREPOSITORYINFO (R400): The PLDM command GetPDRRepositoryInfo describes the PDR repository. -/
  | getpdrrepositoryinfo
  /-- GETSENSORREADING (R400): The PLDM command GetSensorReading returns a numeric sensor reading. -/
  | getsensorreading (sensor : Nat)
  /-- GETSTATESENSORREADINGS (R400): The PLDM command GetStateSensorReadings returns discrete-input state sensors. -/
  | getstatesensorreadings (sensor : Nat)
  /-- SETEVENTRECEIVER (R400): The PLDM command SetEventReceiver sets where platform events are sent. -/
  | seteventreceiver (eid : Nat)
  /-- SETNUMERICSENSORENABLE (R400): The PLDM command SetNumericSensorEnable enables or disables a numeric sensor. -/
  | setnumericsensorenable (sensor : Nat) (value : Nat)
  /-- TRAINING_SEEN_FROM_PARTNER (R280): A DOWN link sees training from its partner and enters TRAINING. -/
  | trainingSeenFromPartner (link : Nat)
  /-- SIDEBAND_WINDOW_WRITE (R399): A side-band WINDOW_WRITE message writes up to 8 consecutive registers of MGMT, DISC, PWR or CLK, or is refused with a WSTATUS. -/
  | sidebandWindowWrite (off : Nat) (values : List Nat)
  /-- REPORT_DATA_READ (R467): A read of SEC.REPORT_DATA returns the next 8 bytes of the source's attestation buffer and advances it. -/
  | reportDataRead (src : Nat) (h : Nat)
  /-- NONCE_EXPIRY (R459): A source's AUTH_CHALLENGE nonce reaches the end of its 60 s and is no longer valid. -/
  | nonceExpiry (src : Nat)
  /-- BIMON_RESTART_COMPLETE (R392): A watchdog restart of Bimon from flash completes within 200 ms, and Bimon runs again and resumes tick work and bring-up. -/
  | bimonRestartComplete
deriving DecidableEq, Repr

end Sys2Proof
end

