-- ==== Sys2Proof/Decode.lean ====
section
/-! DEFINITION. The words of the opcode table. Every row of the table gives its command no bits (the commands are events and
packets of 64 bytes, not instruction words), so no word spells one. -/

namespace Sys2Proof

/-- The command a word spells by the bits of the opcode table: none, for no row of the table has bits. -/
def decodeTableWord (_nbits _w : Nat) : Option Instr := none

end Sys2Proof
end

