-- ==== Sys2Proof/Machine/Digest.lean ====
section
/-! DEFINITION. CRC-32C (R350, R273) and SHA-256 (the hash of RFC 8554 and of the shards, R331) over lists of byte values. -/

namespace Sys2Proof.Machine

/-- Eight shifts of the reflected CRC-32C register (R350). -/
def crcShift : Nat → Nat → Nat
  | 0, c => c
  | n + 1, c => crcShift n (if c % 2 = 1 then (c / 2) ^^^ 0x82F6_3B78 else c / 2)

/-- The CRC-32C of bytes in address order (R350). -/
def crc32c (l : List Nat) : Nat := (l.foldl (fun c b => crcShift 8 (c ^^^ (b % 256))) 0xFFFF_FFFF) ^^^ 0xFFFF_FFFF

/-! SHA-256, in the form of its two sequences: a block's rounds extend the sequence A of the sums and the sequence E of the
carries, each word from the four before it, so that no working variable is renamed. -/

/-- Thirty-two-bit addition. -/
def shaSum (l : List Nat) : Nat := l.sum % 2 ^ 32

/-- The exclusive or of a word turned right by each of a list of places. -/
def shaTurns (x : Nat) (ks : List Nat) : Nat := ks.foldl (fun a k => a ^^^ ((x * 2 ^ 32 + x) / 2 ^ k % 2 ^ 32)) 0

/-- The greatest whole number whose `k`-th power is at most `x`, found from bit `n` down. -/
def rootFrom (k x : Nat) : Nat → Nat → Nat
  | 0, r => r
  | n + 1, r => rootFrom k x n (if (r + 2 ^ n) ^ k ≤ x then r + 2 ^ n else r)

/-- The first thirty-two bits of the fraction of the `k`-th root of a small number. -/
def rootFraction (k p : Nat) : Nat := rootFrom k (p * 2 ^ (32 * k)) 37 0 % 2 ^ 32

/-- The primes below a bound. -/
def primesTo (n : Nat) : List Nat := (List.range n).filter (fun p => decide (2 ≤ p) && (List.range 18).all (fun d => decide (d < 2) || decide (p ≤ d) || p % d != 0))

/-- The constant of each round: from the cube roots of the first sixty-four primes. -/
def shaRoundWords : List Nat := (primesTo 312).map (rootFraction 3)

/-- What the two sequences begin with, latest first: from the square roots of the first eight primes. -/
def shaStart : List Nat × List Nat := (((primesTo 20).take 4).map (rootFraction 2), ((primesTo 20).drop 4).map (rootFraction 2))

/-- The message schedule: its sixteen latest words held with the latest first, one word added behind each one taken. -/
def shaSchedule : Nat → List Nat → List Nat
  | 0, _ => []
  | n + 1, w =>
    let far := w.getD 14 0
    let near := w.getD 1 0
    w.getD 15 0 :: shaSchedule n (shaSum [w.getD 15 0, shaTurns far [7, 18] ^^^ far / 2 ^ 3, w.getD 6 0, shaTurns near [17, 19] ^^^ near / 2 ^ 10] :: w.take 15)

/-- One word added to each sequence, latest first: `kw` is the round's constant and the schedule's word. -/
def shaExtend (h : List Nat × List Nat) (kw : Nat × Nat) : List Nat × List Nat :=
  let a (i : Nat) := h.1.getD i 0
  let e (i : Nat) := h.2.getD i 0
  let pick := (e 0 &&& e 1) + (e 2 - (e 0 &&& e 2))
  let most := (a 0 &&& a 1) ||| (a 2 &&& (a 0 ||| a 1))
  let t := shaSum [kw.1, kw.2, e 3, pick, shaTurns (e 0) [6, 11, 25]]
  (shaSum [t, most, shaTurns (a 0) [2, 13, 22]] :: h.1.take 3, shaSum [t, a 3] :: h.2.take 3)

/-- The number of big-endian bytes. -/
def beNat (l : List Nat) : Nat := l.foldl (fun n b => 256 * n + b % 256) 0

/-- `n` big-endian bytes of a number. -/
def beVals (n x : Nat) : List Nat := (List.range n).map (fun i => x / 256 ^ (n - 1 - i) % 256)

/-- The digest so far with one 64-byte block taken in. -/
def shaTake (h : List Nat × List Nat) (b : List Nat) : List Nat × List Nat :=
  let words := (List.range 16).map (fun i => beNat ((b.drop (4 * (15 - i))).take 4))
  let r := (shaRoundWords.zip (shaSchedule 64 words)).foldl shaExtend h
  (r.1.zipWith (fun x y => shaSum [x, y]) h.1, r.2.zipWith (fun x y => shaSum [x, y]) h.2)

/-- `n` blocks of a message taken in, in turn. -/
def shaMessage : Nat → List Nat → List Nat × List Nat → List Nat × List Nat
  | 0, _, h => h
  | n + 1, l, h => shaMessage n (l.drop 64) (shaTake h (l.take 64))

/-- SHA-256 of a list of byte values, as 32 byte values: the message, a 1 bit, zeros to eight bytes short of a whole block, and the
message's length in bits. -/
def sha256 (l : List Nat) : List Nat :=
  let blocks := (l.length + 9 + 63) / 64
  let padded := l ++ 128 :: List.replicate (64 * blocks - 9 - l.length) 0 ++ beVals 8 (8 * l.length)
  let h := shaMessage blocks padded shaStart
  (h.1 ++ h.2).flatMap (beVals 4)

end Sys2Proof.Machine
end

