-- ==== Sys2Proof/Config.lean ====
section
/-! DEFINITION. What the spec leaves open as a VALUE: free values, each an opaque constant applied to the state's counter of
free choices or to the operands it depends on. Nothing in Lean can evaluate one. The assumption log names each. -/

namespace Sys2Proof.Config

/-- The `n`-th free placement hint: where the tier engine begins to look for a free frame (R111, R127: the placement is
unspecified). -/
opaque freePlace : Nat → Nat

/-- The `n`-th free choice among equals that the spec calls unspecified (a victim page, an order, an overlapping block). -/
opaque freeChoice : Nat → Nat

/-- The hash of a packet's DEST and OFFSET [43:8] that picks a link of its port (R282 names no function). -/
opaque linkHash : Nat → Nat → Nat

/-- The `n`-th free data value that the machine produces and the spec does not state (a token of a model the spec does not
hold, a byte of a key, a nonce byte). -/
opaque freeData : Nat → Nat

/-- The sign and the significand bits of a NaN that arithmetic gives for two FP32 patterns (IEEE 754 leaves the payload open). -/
opaque nanBits : Nat → Nat → Nat

/-- What a NaN element converts as where R81 states no code for it: sign and a count of the target's least steps. -/
opaque nanElement : Nat → Nat

/-- Which of the codes within two units in the last place of the exact value the vector unit gives for 2^a (R58). -/
opaque exp2 : Nat → Nat

/-- The same for log2 a, and its result where the spec states none (zero and below). -/
opaque log2 : Nat → Nat

/-- The same for 1 ÷ a, and its result for zero. -/
opaque rcp : Nat → Nat

/-- The same for 1 ÷ √a, and its result for zero and below. -/
opaque rsqrt : Nat → Nat

/-- Whether the weights of an operand were prepared as INT4 and not as FP4 (R79: the two may differ; no field of a descriptor or a
manifest says which): context and WEIGHT_VA. -/
opaque weightInt4 : Nat → Nat → Bool

/-- Whether an HSS signature (bytes) over a message verifies under a public key (R447–R450: the algorithms are those of
RFC 8554 and SP 800-208, which the spec cites and does not hold). -/
opaque hssVerify : List Nat → List Nat → List Nat → Bool

/-- An HSS signature with a key's index over a message. -/
opaque hssSign : Nat → List Nat → List Nat

/-- A public key of the module. -/
opaque publicKey : Nat → List Nat

/-- The `n`-th random byte of the security engine (R459). -/
opaque random : Nat → Nat

/-- The pass that a pass mode runs in place `n` of its order (R96: the order is the mode's, and no table gives it). -/
opaque passOrder : Nat → Nat → Nat

/-- First row, among a launch's rows, of the tile that a record of a program describes: program handle and record (R179 cuts
tiles by rows, and no field of a descriptor gives a tile's first row). -/
opaque tileRow : Nat → Nat → Nat

/-- What the vector unit makes of an epilogue result (Table 3-1 names no operation): address and FP32 pattern to FP32 pattern. -/
opaque epilogue : Nat → Nat → Nat

/-- The `n`-th logit of a gate projection, an FP32 pattern, from a tile in pass mode 4 (first argument 4) or 0 (R156: the places of the
gate's operands are not described). -/
opaque gateLogit : Nat → Nat → Nat

/-- Widths of a model's attention (R191, R204; the manifest names none): model-table slot and layer to its query heads, the 64-byte blocks
of one row's queries, and the 32-value blocks of an expanded key and the columns of an expanded value of a head. -/
opaque attnHeads : Nat → Nat → Nat
opaque queryBlocks : Nat → Nat → Nat
opaque keyBlocks : Nat → Nat → Nat
opaque valueCols : Nat → Nat → Nat

/-- A result of an up-projection, as an FP32 pattern (R191 step 3; the places of its weights in the window are not described): slot,
layer, group, EXPAND_AXIS, pass mode, head, column; and the block scales and codes of a position. -/
opaque attnUp : List Nat → List Nat → Nat

/-- The score of a score tile (R191 step 4: no rule gives its pass mode): head and a row's query bytes; the scales and codes of a
position's expanded key. -/
opaque attnScore : List Nat → List Nat → Nat

/-- The position-key score that the vector unit forms in FP32 (R191 step 4 gives no order of its sum): head and a row's query bytes; the
BF16 position key. -/
opaque posScore : List Nat → List Nat → Nat

/-- The sum of a value tile over one cache page (R191 step 5: no rule gives its pass mode): the softmax weights; scale and codes of a
column's expanded value. -/
opaque attnValue : List Nat → List Nat → Nat

/-- Core time, in ns, of an attention launch's tiles over one run, and of a layer's tiles for a group: the `n`-th, with what it depends
on (pass mode or slot and layer, and the rows). -/
opaque attnNs : Nat → Nat → Nat → Nat
opaque layerNs : Nat → Nat → Nat → Nat → Nat

/-- Where a member's ring traffic lands in its HBM, in 64-byte blocks (R203 names no address): chip, hand and place; and the blocks kept
for the queries or the partials of one member. -/
opaque ringPlace : Nat → Nat → Nat → Nat
opaque ringRoom : Nat → Nat

/-- Tokens of a model's vocabulary beside token 0, and the `n`-th logit row's entry of a token, an FP32 pattern (R210): slot, row and token. -/
opaque vocab : Nat → Nat
opaque logit : Nat → Nat → Nat → Nat

/-- A value of a hand's generator (R210 names no generator): its seed and the values drawn before; and the place, among the tokens of a
limited draw, that a value picks. -/
opaque generator : Nat → Nat → Nat
opaque draw : Nat → List Nat → Nat

/-- Bytes of a layer's image dealt ahead on a die: model-table slot, layer, die (R125; the manifest names no layers). -/
opaque layerBytes : Nat → Nat → Nat → Nat

/-- Bytes of a routed expert's image on a die: model-table slot, layer, expert, die (R174). -/
opaque expertBytes : Nat → Nat → Nat → Nat → Nat

/-- Byte of a slot's image at which a dealt image begins: slot, layer, die, expert (1,024 for the part dealt ahead). -/
opaque layerPlace : Nat → Nat → Nat → Nat → Nat

/-- A byte read at a page that a tile's operands no longer map (R118 says only when the tile starts). -/
opaque goneByte : Nat → Nat

/-- A dword of the function's configuration space whose contents or place the spec does not give (R378 names the capabilities and
no offset of one). -/
opaque configWord : Nat → Nat

/-- Byte of a firmware bank as the module left manufacture: image type, bank, offset (R449). -/
opaque flashByte : Nat → Nat → Nat → Nat

/-- Bytes of the ROM's hash of the root key, and of the ROM's own digest (R447, R450). -/
opaque rootHash : Nat → Nat
opaque romDigest : Nat → Nat

/-- A byte of the SHA-256 of a configuration record: its SEQ, TIME and SCORE_SEQ, and the byte (R463 does not lay out its sections). -/
opaque recordDigest : Nat → Nat → Nat → Nat → Nat

/-- Xegebel's MIPI manufacturer ID (Table 17-2 gives no value). -/
opaque mipiId : Nat

/-- Byte of the endorsement that Xegebel writes at manufacture: its date and signature (R457). -/
opaque endorsement : Nat → Nat

/-- Words that a DMTF standard gives and the spec does not: MCTP version support, PLDM version, the terminus ID (R395, R400). -/
opaque mctpVersion : Nat → Nat
opaque pldmVersion : Nat → Nat
opaque terminusId : Nat

end Sys2Proof.Config
end

