-- ==== Sys2Proof/Machine/RegFields.lean ====
section
/-! DEFINITION. The fields of every register of the spec's register space (R110, Table 5-3): one definition per named
field, with its offset, lowest bit, width and reset value, as the register tables of the chapters state them. Reserved
fields have no definition: they read as zero and are never stored (R8). "From record", "From boot" and "From straps"
values follow the assumption log (row 3). -/

set_option linter.dupNamespace false

namespace Sys2Proof.Machine

/-- A register field: its block of register space (Table 5-3), the register's offset in register space, the field's lowest bit, its
width, its reset value. -/
structure Fld where
  blk : Nat
  off : Nat
  lo  : Nat
  w   : Nat
  rst : Nat
deriving DecidableEq, Repr

/-- The key under which a field is stored: 64 for each offset of register space, within the field's own block. -/
def Fld.key (f : Fld) : Nat := f.blk * 2 ^ 26 + (f.off * 64 + f.lo) % 2 ^ 26

/-- Units built in group `g` of stock class `k` (Table 1-5, R322). -/
def stockBuilt (k g : Nat) : Nat :=
  match k with
  | 0 => if g < 8 then 34 else 0
  | 1 => if g < 8 then 288 else 0
  | 2 => if g = 0 then 5 else 0
  | 3 => if g < 2 then 5 else 0
  | 4 => if g < 8 then 24 else 0
  | _ => 0

/-- Units ACTIVE of the first stock map (Table 1-5). -/
def stockActive0 (k g : Nat) : Nat :=
  match k with
  | 0 => if g < 8 then 32 else 0
  | 1 => if g < 8 then 256 else 0
  | 2 => if g = 0 then 4 else 0
  | 3 => if g < 2 then 4 else 0
  | 4 => if g < 8 then 22 else 0
  | _ => 0

/-- Divisor D of clock domain `i` (Table 19-1). -/
def clkDivisor (i : Nat) : Nat :=
  if i < 48 then 4
  else if i < 64 then 2
  else if i < 90 then 4
  else if i = 90 then 32
  else if i < 93 then 64
  else if i < 95 then 32
  else if i < 97 then 256
  else if i = 97 then 64
  else 256

/-- 1 where Table 19-1 permits INT for domain `i`. -/
def clkIntOk (i : Nat) : Nat :=
  if i < 48 then 0 else if i = 80 then 0 else if i = 81 then 0 else 1

/-- MTX.CAPS.CORES_BUILT [7:0] RO, reset 0x22. 34 cores per die -/
def MTX.CAPS.CORES_BUILT : Fld := ⟨6, 0x600000, 0, 8, 0x22⟩
/-- MTX.CAPS.CORES_ACTIVE_MAX [15:8] RO, reset 0x20. 32 -/
def MTX.CAPS.CORES_ACTIVE_MAX : Fld := ⟨6, 0x600000, 8, 8, 0x20⟩
/-- MTX.CAPS.ARRAYS [19:16] RO, reset 0x4. Arrays per core -/
def MTX.CAPS.ARRAYS : Fld := ⟨6, 0x600000, 16, 4, 0x4⟩
/-- MTX.CAPS.ARRAY_DIM [31:24] RO, reset 0x80. 128 -/
def MTX.CAPS.ARRAY_DIM : Fld := ⟨6, 0x600000, 24, 8, 0x80⟩
/-- MTX.CAPS.PASS_MODES [47:32] RO, reset 0x00FF. Bit m set: pass mode m supported -/
def MTX.CAPS.PASS_MODES : Fld := ⟨6, 0x600000, 32, 16, 0x00FF⟩
/-- MTX.TILE_LIMIT.MAX_STEPS [15:0] RO, reset 0x11D0. 4,560 -/
def MTX.TILE_LIMIT.MAX_STEPS : Fld := ⟨6, 0x600008, 0, 16, 0x11D0⟩
/-- MTX.TILE_LIMIT.DRAIN [31:16] RO, reset 0x0104. 260 -/
def MTX.TILE_LIMIT.DRAIN : Fld := ⟨6, 0x600008, 16, 16, 0x0104⟩
/-- MTX.TILE_LIMIT.WINDOW_MS [47:32] RO, reset 0x2710. Arming window, 10,000 ms -/
def MTX.TILE_LIMIT.WINDOW_MS : Fld := ⟨6, 0x600008, 32, 16, 0x2710⟩
/-- MTX.MISDEAL_TOTAL.MISDEALS [31:0] RC, reset 0. Misdeals on all dies since last read, saturating -/
def MTX.MISDEAL_TOTAL.MISDEALS : Fld := ⟨6, 0x600010, 0, 32, 0⟩
/-- MTX.MISDEAL_TOTAL.RETIREMENTS [47:32] RC, reset 0. Cores retired since last read, saturating -/
def MTX.MISDEAL_TOTAL.RETIREMENTS : Fld := ⟨6, 0x600010, 32, 16, 0⟩
/-- MTX.UNRECOVERED.TILES [15:0] RC, reset 0. Tiles ended under R67 step 2 since last read, saturating -/
def MTX.UNRECOVERED.TILES : Fld := ⟨6, 0x600018, 0, 16, 0⟩
/-- MTX.INJECT.DIE [2:0] WO, reset 0. Target compute die -/
def MTX.INJECT.DIE : Fld := ⟨6, 0x600020, 0, 3, 0⟩
/-- MTX.INJECT.CORE [9:4] WO, reset 0. Target physical core, 0–33 -/
def MTX.INJECT.CORE : Fld := ⟨6, 0x600020, 4, 6, 0⟩
/-- MTX.INJECT.ARRAY [11:10] WO, reset 0. Target array -/
def MTX.INJECT.ARRAY : Fld := ⟨6, 0x600020, 10, 2, 0⟩
/-- MTX.INJECT_ENABLE.ENABLE [0:0] RW, reset 0. 1: writes to MTX.INJECT take effect -/
def MTX.INJECT_ENABLE.ENABLE : Fld := ⟨6, 0x600028, 0, 1, 0⟩
/-- MTX.DIE_SUMMARY.ACTIVE [5:0] RO, reset From record. Active cores, 0–32 -/
def MTX.DIE_SUMMARY.ACTIVE (d : Nat) : Fld := ⟨6, 0x600100 + 0x8 * d, 0, 6, 32⟩
/-- MTX.DIE_SUMMARY.STOCK [9:8] RO, reset From record. Cores in STOCK, 0–2 -/
def MTX.DIE_SUMMARY.STOCK (d : Nat) : Fld := ⟨6, 0x600100 + 0x8 * d, 8, 2, 2⟩
/-- MTX.DIE_SUMMARY.RETIRED [21:16] RO, reset From record. Cores in RETIRED, 0–34 -/
def MTX.DIE_SUMMARY.RETIRED (d : Nat) : Fld := ⟨6, 0x600100 + 0x8 * d, 16, 6, 0⟩
/-- MTX.CORE_STATUS.STATE [2:0] RO, reset From record. 0 ACTIVE, 1 STOCK, 2 REMOVED, 3 TESTING, 4 RETIRED, 5–7 reserved -/
def MTX.CORE_STATUS.STATE (d c : Nat) : Fld := ⟨6, 0x601000 + 0x200 * d + 0x8 * c, 0, 3, (if c < 32 then 0 else 1)⟩
/-- MTX.CORE_STATUS.LOGICAL [13:8] RO, reset From record. Logical number 0–31 when ACTIVE, otherwise 0x3F -/
def MTX.CORE_STATUS.LOGICAL (d c : Nat) : Fld := ⟨6, 0x601000 + 0x200 * d + 0x8 * c, 8, 6, (if c < 32 then c else 0x3F)⟩
/-- MTX.CORE_STATUS.ARMED [19:16] RO, reset 0. Bit a set: array a is armed (R64) -/
def MTX.CORE_STATUS.ARMED (d c : Nat) : Fld := ⟨6, 0x601000 + 0x200 * d + 0x8 * c, 16, 4, 0⟩
/-- MTX.CORE_STATUS.CAUSE [27:24] RO, reset From record. Reason for the last change of STATE: 0 manufacture or record, 1 second misdeal, 2 weight-port misdeal (R65), 3 self-test failed, 4 stock command, 5–15 reserved -/
def MTX.CORE_STATUS.CAUSE (d c : Nat) : Fld := ⟨6, 0x601000 + 0x200 * d + 0x8 * c, 24, 4, 0⟩
/-- MTX.MISDEAL_CNT.ARRAY0 [15:0] RO, reset 0. Misdeals on array 0 since power-on, saturating at 0xFFFF -/
def MTX.MISDEAL_CNT.ARRAY0 (d c : Nat) : Fld := ⟨6, 0x603000 + 0x200 * d + 0x8 * c, 0, 16, 0⟩
/-- MTX.MISDEAL_CNT.ARRAY1 [31:16] RO, reset 0. As ARRAY0, for array 1 -/
def MTX.MISDEAL_CNT.ARRAY1 (d c : Nat) : Fld := ⟨6, 0x603000 + 0x200 * d + 0x8 * c, 16, 16, 0⟩
/-- MTX.MISDEAL_CNT.ARRAY2 [47:32] RO, reset 0. As ARRAY0, for array 2 -/
def MTX.MISDEAL_CNT.ARRAY2 (d c : Nat) : Fld := ⟨6, 0x603000 + 0x200 * d + 0x8 * c, 32, 16, 0⟩
/-- MTX.MISDEAL_CNT.ARRAY3 [63:48] RO, reset 0. As ARRAY0, for array 3 -/
def MTX.MISDEAL_CNT.ARRAY3 (d c : Nat) : Fld := ⟨6, 0x603000 + 0x200 * d + 0x8 * c, 48, 16, 0⟩
/-- MTX.MISDEAL_LAST.TIME [61:0] RO, reset 0. Time base, in ns, of the core's latest misdeal -/
def MTX.MISDEAL_LAST.TIME (d c : Nat) : Fld := ⟨6, 0x605000 + 0x200 * d + 0x8 * c, 0, 62, 0⟩
/-- MTX.MISDEAL_LAST.ARRAY [63:62] RO, reset 0. Array of that misdeal -/
def MTX.MISDEAL_LAST.ARRAY (d c : Nat) : Fld := ⟨6, 0x605000 + 0x200 * d + 0x8 * c, 62, 2, 0⟩
/-- MTX.NUM_CAPS.FORMATS [3:0] RO, reset 0xF. Bit f set: operand FORMAT f supported -/
def MTX.NUM_CAPS.FORMATS : Fld := ⟨6, 0x608000, 0, 4, 0xF⟩
/-- MTX.NUM_CAPS.MAX_REDEALS [5:4] RO, reset 0x3. 3 -/
def MTX.NUM_CAPS.MAX_REDEALS : Fld := ⟨6, 0x608000, 4, 2, 0x3⟩
/-- MTX.NUM_CAPS.RANKS [11:8] RO, reset 0xF. Correction ranks 8, 16, 32 and 64 -/
def MTX.NUM_CAPS.RANKS : Fld := ⟨6, 0x608000, 8, 4, 0xF⟩
/-- MTX.NUM_THRESH.SAT_SHIFT [3:0] RW, reset 0x8. 1–14: the shift. 0 or 15: disabled -/
def MTX.NUM_THRESH.SAT_SHIFT : Fld := ⟨6, 0x608008, 0, 4, 0x8⟩
/-- MTX.NUM_THRESH.ZERO_SHIFT [7:4] RW, reset 0x4. As SAT_SHIFT -/
def MTX.NUM_THRESH.ZERO_SHIFT : Fld := ⟨6, 0x608008, 4, 4, 0x4⟩
/-- MTX.NUM_SAT_TOTAL.ELEMENTS [47:0] RC, reset 0. Elements saturated since last read, saturating -/
def MTX.NUM_SAT_TOTAL.ELEMENTS : Fld := ⟨6, 0x608010, 0, 48, 0⟩
/-- MTX.NUM_ZERO_TOTAL.ELEMENTS [47:0] RC, reset 0. Elements zeroed since last read, saturating -/
def MTX.NUM_ZERO_TOTAL.ELEMENTS : Fld := ⟨6, 0x608018, 0, 48, 0⟩
/-- MTX.REDEAL_TOTAL.REDEALS [31:0] RC, reset 0. Redeal replays since last read, saturating -/
def MTX.REDEAL_TOTAL.REDEALS : Fld := ⟨6, 0x608020, 0, 32, 0⟩
/-- MTX.REDEAL_TOTAL.EXHAUSTED [47:32] RC, reset 0. Tiles accepted over threshold (R93), saturating -/
def MTX.REDEAL_TOTAL.EXHAUSTED : Fld := ⟨6, 0x608020, 32, 16, 0⟩
/-- MTX.NUM_NAN.NAN_IN [31:0] RC, reset 0. NaN elements met by the write face, saturating -/
def MTX.NUM_NAN.NAN_IN : Fld := ⟨6, 0x608028, 0, 32, 0⟩
/-- MTX.NUM_NAN.NAN_SCALE [47:32] RC, reset 0. Blocks with scale 0xFF met by the bottom edge, saturating -/
def MTX.NUM_NAN.NAN_SCALE : Fld := ⟨6, 0x608028, 32, 16, 0⟩
/-- MTX.REDEAL_DIE.REDEALS [31:0] RC, reset 0. Redeal replays on die d since last read, saturating -/
def MTX.REDEAL_DIE.REDEALS (d : Nat) : Fld := ⟨6, 0x608100 + 0x8 * d, 0, 32, 0⟩
/-- MMU.CAPS.VA_BITS [7:0] RO, reset 0x39. 57 -/
def MMU.CAPS.VA_BITS : Fld := ⟨3, 0x300000, 0, 8, 0x39⟩
/-- MMU.CAPS.PA_BITS [15:8] RO, reset 0x38. 56 -/
def MMU.CAPS.PA_BITS : Fld := ⟨3, 0x300000, 8, 8, 0x38⟩
/-- MMU.CAPS.PAGE_64K [16:16] RO, reset 1. 64 KiB pages supported -/
def MMU.CAPS.PAGE_64K : Fld := ⟨3, 0x300000, 16, 1, 1⟩
/-- MMU.CAPS.PAGE_2M [17:17] RO, reset 1. 2 MiB pages supported -/
def MMU.CAPS.PAGE_2M : Fld := ⟨3, 0x300000, 17, 1, 1⟩
/-- MMU.CAPS.TLB_ENTRIES [47:32] RO, reset 0x0800. Entries per unit -/
def MMU.CAPS.TLB_ENTRIES : Fld := ⟨3, 0x300000, 32, 16, 0x0800⟩
/-- MMU.CAPS.UNITS [51:48] RO, reset 0xC. MMU units -/
def MMU.CAPS.UNITS : Fld := ⟨3, 0x300000, 48, 4, 0xC⟩
/-- MMU.FAULT_TIMEOUT.MS [31:0] RW, reset 0x0000_2710. Timeout for ABSENT entries, 1–600,000 ms. A write of 0 or of more than 600,000 is ignored -/
def MMU.FAULT_TIMEOUT.MS : Fld := ⟨3, 0x300008, 0, 32, 0x0000_2710⟩
/-- MMU.FAULT_COUNT.RAISED [31:0] RC, reset 0. Entries opened since last read, saturating -/
def MMU.FAULT_COUNT.RAISED : Fld := ⟨3, 0x300010, 0, 32, 0⟩
/-- MMU.FAULT_COUNT.OPEN [44:32] RO, reset 0. Entries open now, 0–4,096 -/
def MMU.FAULT_COUNT.OPEN : Fld := ⟨3, 0x300010, 32, 13, 0⟩
/-- MMU.FAULT_COUNT.TIMED_OUT [55:48] RC, reset 0. Entries closed by timeout since last read, saturating -/
def MMU.FAULT_COUNT.TIMED_OUT : Fld := ⟨3, 0x300010, 48, 8, 0⟩
/-- MMU.FAULT_COUNT.TABLE_FULL [63:56] RC, reset 0. Requests that waited for an entry since last read, saturating -/
def MMU.FAULT_COUNT.TABLE_FULL : Fld := ⟨3, 0x300010, 56, 8, 0⟩
/-- MMU.FAULT_RESOLVE.FAULT_ID [15:0] WO, reset 0. Entry to act on -/
def MMU.FAULT_RESOLVE.FAULT_ID : Fld := ⟨3, 0x300018, 0, 16, 0⟩
/-- MMU.FAULT_RESOLVE.ACTION [16:16] WO, reset 0. 1: refuse the fault. A write of 0, or a write naming an entry that is not an open ABSENT entry, is ignored (R133) -/
def MMU.FAULT_RESOLVE.ACTION : Fld := ⟨3, 0x300018, 16, 1, 0⟩
/-- MMU.FAULT_RING_BASE.BASE [63:12] RW, reset 0. Bus address of the ring in that host's memory, 4 KiB aligned -/
def MMU.FAULT_RING_BASE.BASE (h : Nat) : Fld := ⟨3, 0x300100 + 0x40 * h, 12, 52, 0⟩
/-- MMU.FAULT_RING_CTL.LOG2_SIZE [4:0] RW, reset 0x06. Records in the ring as a power of two, 6–16. Other values are ignored (R519) -/
def MMU.FAULT_RING_CTL.LOG2_SIZE (h : Nat) : Fld := ⟨3, 0x300108 + 0x40 * h, 0, 5, 0x06⟩
/-- MMU.FAULT_RING_CTL.ENABLE [5:5] RW, reset 0. 1: records are written. 0: they wait in the fault table -/
def MMU.FAULT_RING_CTL.ENABLE (h : Nat) : Fld := ⟨3, 0x300108 + 0x40 * h, 5, 1, 0⟩
/-- MMU.FAULT_RING_CTL.VECTOR [26:16] RW, reset 0. MSI-X vector raised when a record is written -/
def MMU.FAULT_RING_CTL.VECTOR (h : Nat) : Fld := ⟨3, 0x300108 + 0x40 * h, 16, 11, 0⟩
/-- MMU.FAULT_RING_TAIL.TAIL [31:0] RO, reset 0. Index the Gonak writes next -/
def MMU.FAULT_RING_TAIL.TAIL (h : Nat) : Fld := ⟨3, 0x300110 + 0x40 * h, 0, 32, 0⟩
/-- MMU.FAULT_RING_HEAD.HEAD [31:0] RW, reset 0. Index the host reads next. The ring is full when TAIL − HEAD equals its size -/
def MMU.FAULT_RING_HEAD.HEAD (h : Nat) : Fld := ⟨3, 0x300118 + 0x40 * h, 0, 32, 0⟩
/-- MMU.CTX_ROOT.VALID [0:0] RO, reset 0. 1: the context exists -/
def MMU.CTX_ROOT.VALID (c : Nat) : Fld := ⟨3, 0x301000 + 0x8 * c, 0, 1, 0⟩
/-- MMU.CTX_ROOT.ROOT [43:12] RO, reset 0. Local offset of the level-3 table -/
def MMU.CTX_ROOT.ROOT (c : Nat) : Fld := ⟨3, 0x301000 + 0x8 * c, 12, 32, 0⟩
/-- TIER.CAPS.HBM_GIB [15:0] RO, reset 0x0460. 1,120 GiB usable -/
def TIER.CAPS.HBM_GIB : Fld := ⟨4, 0x400000, 0, 16, 0x0460⟩
/-- TIER.CAPS.SRAM_MIB [31:16] RO, reset 0x0800. 2,048 MiB active -/
def TIER.CAPS.SRAM_MIB : Fld := ⟨4, 0x400000, 16, 16, 0x0800⟩
/-- TIER.CAPS.FWD_ENTRIES [47:32] RO, reset 0x4000. Forwarding records, 16,384 -/
def TIER.CAPS.FWD_ENTRIES : Fld := ⟨4, 0x400000, 32, 16, 0x4000⟩
/-- TIER.MOVES.PAGES [31:0] RC, reset 0. Moves completed since last read, saturating -/
def TIER.MOVES.PAGES : Fld := ⟨4, 0x400008, 0, 32, 0⟩
/-- TIER.MOVES.FORWARDS [47:32] RC, reset 0. Forwarding replies sent since last read, saturating -/
def TIER.MOVES.FORWARDS : Fld := ⟨4, 0x400008, 32, 16, 0⟩
/-- TIER.MOVES.ABANDONED [63:48] RC, reset 0. Moves abandoned (Table 5-8) since last read, saturating -/
def TIER.MOVES.ABANDONED : Fld := ⟨4, 0x400008, 48, 16, 0⟩
/-- TIER.FWD.IN_USE [15:0] RO, reset 0. Forwarding records held now -/
def TIER.FWD.IN_USE : Fld := ⟨4, 0x400010, 0, 16, 0⟩
/-- TIER.FWD.HIGH_WATER [31:16] RC, reset 0. Most held since last read -/
def TIER.FWD.HIGH_WATER : Fld := ⟨4, 0x400010, 16, 16, 0⟩
/-- TIER.INVAL.OUTSTANDING [15:0] RO, reset 0. Broadcasts awaiting acknowledgements -/
def TIER.INVAL.OUTSTANDING : Fld := ⟨4, 0x400018, 0, 16, 0⟩
/-- TIER.INVAL.SENT [47:16] RC, reset 0. Broadcasts sent since last read, saturating -/
def TIER.INVAL.SENT : Fld := ⟨4, 0x400018, 16, 32, 0⟩
/-- TIER.CONVERT_ERR.E4M3_NAN [31:0] RC, reset 0. E4M3 NaN elements decoded as zero (R83), saturating -/
def TIER.CONVERT_ERR.E4M3_NAN : Fld := ⟨4, 0x400020, 0, 32, 0⟩
/-- TIER.CONVERT_ERR.SCALE_NAN [47:32] RC, reset 0. Blocks with scale 0xFF decoded as zeros (R83), saturating -/
def TIER.CONVERT_ERR.SCALE_NAN : Fld := ⟨4, 0x400020, 32, 16, 0⟩
/-- TIER.REMAP_INDEX.ENTRIES [23:0] RO, reset 0. Remote-map index entries in use -/
def TIER.REMAP_INDEX.ENTRIES : Fld := ⟨4, 0x400028, 0, 24, 0⟩
/-- TIER.REMAP_INDEX.CAPACITY [47:24] RO, reset 0x10_0000. 1,048,576 -/
def TIER.REMAP_INDEX.CAPACITY : Fld := ⟨4, 0x400028, 24, 24, 0x10_0000⟩
/-- TIER.HBM_STACK.CRC_RETRY [15:0] RC, reset 0. Reads that passed on a re-read, saturating -/
def TIER.HBM_STACK.CRC_RETRY (s : Nat) : Fld := ⟨4, 0x400100 + 0x8 * s, 0, 16, 0⟩
/-- TIER.HBM_STACK.REMAPPED [31:16] RO, reset From record. Rows remapped since manufacture -/
def TIER.HBM_STACK.REMAPPED (s : Nat) : Fld := ⟨4, 0x400100 + 0x8 * s, 16, 16, 0⟩
/-- TIER.HBM_STACK.SPARE_LEFT [47:32] RO, reset From record. Stock rows left. DESIGN CHOICE (logs 3 and 48): 1,024 rows, as no rule counts
them -/
def TIER.HBM_STACK.SPARE_LEFT (s : Nat) : Fld := ⟨4, 0x400100 + 0x8 * s, 32, 16, 0x400⟩
/-- TIER.HBM_STACK.POISONED [55:48] RC, reset 0. Blocks poisoned since last read, saturating -/
def TIER.HBM_STACK.POISONED (s : Nat) : Fld := ⟨4, 0x400100 + 0x8 * s, 48, 8, 0⟩
/-- TIER.HBM_STACK.FAILED [56:56] RO, reset 0. 1: stock rows exhausted, module failed -/
def TIER.HBM_STACK.FAILED (s : Nat) : Fld := ⟨4, 0x400100 + 0x8 * s, 56, 1, 0⟩
/-- TIER.SRAM_DIE.PARITY_RETRY [15:0] RC, reset 0. Reads that passed on a re-read, saturating -/
def TIER.SRAM_DIE.PARITY_RETRY (d : Nat) : Fld := ⟨4, 0x400200 + 0x8 * d, 0, 16, 0⟩
/-- TIER.SRAM_DIE.BANKS_ACTIVE [24:16] RO, reset 0x100. Active banks -/
def TIER.SRAM_DIE.BANKS_ACTIVE (d : Nat) : Fld := ⟨4, 0x400200 + 0x8 * d, 16, 9, 0x100⟩
/-- TIER.SRAM_DIE.STOCK_BANKS [30:25] RO, reset From record. Stock banks left, 0–32 -/
def TIER.SRAM_DIE.STOCK_BANKS (d : Nat) : Fld := ⟨4, 0x400200 + 0x8 * d, 25, 6, 32⟩
/-- TIER.SRAM_DIE.RETIRED [38:31] RO, reset From record. Banks retired -/
def TIER.SRAM_DIE.RETIRED (d : Nat) : Fld := ⟨4, 0x400200 + 0x8 * d, 31, 8, 0⟩
/-- TIER.SRAM_DIE.POISONED [55:48] RC, reset 0. Pages poisoned since last read, saturating -/
def TIER.SRAM_DIE.POISONED (d : Nat) : Fld := ⟨4, 0x400200 + 0x8 * d, 48, 8, 0⟩
/-- TIER.WINDOW.PINNED [0:0] RO, reset 0. 1: the slot holds a window -/
def TIER.WINDOW.PINNED (d w : Nat) : Fld := ⟨4, 0x400300 + 0x20 * d + 0x8 * w, 0, 1, 0⟩
/-- TIER.WINDOW.PAGES [14:8] RO, reset 0. 2 MiB pages in the window -/
def TIER.WINDOW.PAGES (d w : Nat) : Fld := ⟨4, 0x400300 + 0x20 * d + 0x8 * w, 8, 7, 0⟩
/-- TIER.WINDOW.CONTEXT [25:16] RO, reset 0. Owning context -/
def TIER.WINDOW.CONTEXT (d w : Nat) : Fld := ⟨4, 0x400300 + 0x20 * d + 0x8 * w, 16, 10, 0⟩
/-- TIER.WINDOW.DEALING [26:26] RO, reset 0. 1: the dealer is writing the window -/
def TIER.WINDOW.DEALING (d w : Nat) : Fld := ⟨4, 0x400300 + 0x20 * d + 0x8 * w, 26, 1, 0⟩
/-- MOVE.CAPS.MOVERS [7:0] RO, reset 0x30. 48 -/
def MOVE.CAPS.MOVERS : Fld := ⟨5, 0x500000, 0, 8, 0x30⟩
/-- MOVE.CAPS.OUTSTANDING [19:8] RO, reset 0x200. Requests per mover, 512 -/
def MOVE.CAPS.OUTSTANDING : Fld := ⟨5, 0x500000, 8, 12, 0x200⟩
/-- MOVE.CAPS.QUEUE_DEPTH [27:20] RO, reset 0x40. Entries per queue, 64 -/
def MOVE.CAPS.QUEUE_DEPTH : Fld := ⟨5, 0x500000, 20, 8, 0x40⟩
/-- MOVE.CAPS.CONVERTS [39:32] RO, reset 0x1F. Bit c set: CONVERT c supported -/
def MOVE.CAPS.CONVERTS : Fld := ⟨5, 0x500000, 32, 8, 0x1F⟩
/-- MOVE.TRUMP_RESERVE.SLOTS [8:0] RW, reset 0x080. Slots plain requests may not take, 0–448. A larger value is ignored -/
def MOVE.TRUMP_RESERVE.SLOTS : Fld := ⟨5, 0x500008, 0, 9, 0x080⟩
/-- MOVE.TOTAL.DESCRIPTORS [31:0] RC, reset 0. Descriptors completed on all movers since last read, saturating -/
def MOVE.TOTAL.DESCRIPTORS : Fld := ⟨5, 0x500010, 0, 32, 0⟩
/-- MOVE.TOTAL.ABORTED [47:32] RC, reset 0. Requests completed with JOB_ABORTED since last read, saturating -/
def MOVE.TOTAL.ABORTED : Fld := ⟨5, 0x500010, 32, 16, 0⟩
/-- MOVE.STATUS.OUTSTANDING [9:0] RO, reset 0. Requests in flight or parked, 0–512 -/
def MOVE.STATUS.OUTSTANDING (m : Nat) : Fld := ⟨5, 0x500100 + 0x8 * m, 0, 10, 0⟩
/-- MOVE.STATUS.PARKED [19:10] RO, reset 0. Requests parked -/
def MOVE.STATUS.PARKED (m : Nat) : Fld := ⟨5, 0x500100 + 0x8 * m, 10, 10, 0⟩
/-- MOVE.STATUS.CONTEXT [29:20] RO, reset 0. Context of the descriptor issuing now -/
def MOVE.STATUS.CONTEXT (m : Nat) : Fld := ⟨5, 0x500100 + 0x8 * m, 20, 10, 0⟩
/-- MOVE.STATUS.QUEUE [31:30] RO, reset 0. Queue issuing now: 0 service, 1 trump, 2 plain, 3 idle -/
def MOVE.STATUS.QUEUE (m : Nat) : Fld := ⟨5, 0x500100 + 0x8 * m, 30, 2, 0⟩
/-- MOVE.STATUS.TAG [47:32] RO, reset 0. TAG of that descriptor -/
def MOVE.STATUS.TAG (m : Nat) : Fld := ⟨5, 0x500100 + 0x8 * m, 32, 16, 0⟩
/-- MOVE.BYTES.BYTES [63:0] RC, reset 0. Bytes written since last read, saturating -/
def MOVE.BYTES.BYTES (m : Nat) : Fld := ⟨5, 0x500400 + 0x8 * m, 0, 64, 0⟩
/-- MOVE.EVENTS.FAULTS [15:0] RC, reset 0. Requests parked since last read, saturating -/
def MOVE.EVENTS.FAULTS (m : Nat) : Fld := ⟨5, 0x500700 + 0x8 * m, 0, 16, 0⟩
/-- MOVE.EVENTS.REPLAYS [31:16] RC, reset 0. Parked requests issued again, saturating -/
def MOVE.EVENTS.REPLAYS (m : Nat) : Fld := ⟨5, 0x500700 + 0x8 * m, 16, 16, 0⟩
/-- MOVE.EVENTS.PREEMPTS [47:32] RC, reset 0. Descriptors left at a resume point, saturating -/
def MOVE.EVENTS.PREEMPTS (m : Nat) : Fld := ⟨5, 0x500700 + 0x8 * m, 32, 16, 0⟩
/-- MOVE.EVENTS.POISON_READS [63:48] RC, reset 0. Loads that returned poisoned data, saturating -/
def MOVE.EVENTS.POISON_READS (m : Nat) : Fld := ⟨5, 0x500700 + 0x8 * m, 48, 16, 0⟩
/-- ROUTE.CAPS.MAX_EXPERTS [10:0] RO, reset 0x400. 1,024 -/
def ROUTE.CAPS.MAX_EXPERTS : Fld := ⟨7, 0x700000, 0, 11, 0x400⟩
/-- ROUTE.CAPS.MAX_K [20:16] RO, reset 0x10. 16 -/
def ROUTE.CAPS.MAX_K : Fld := ⟨7, 0x700000, 16, 5, 0x10⟩
/-- ROUTE.CAPS.MAX_LAYERS [42:32] RO, reset 0x400. 1,024 per context -/
def ROUTE.CAPS.MAX_LAYERS : Fld := ⟨7, 0x700000, 32, 11, 0x400⟩
/-- ROUTE.CAPS.MAX_SHARED [51:48] RO, reset 0x8. 8 -/
def ROUTE.CAPS.MAX_SHARED : Fld := ⟨7, 0x700000, 48, 4, 0x8⟩
/-- ROUTE.ASSIGN.SELECTED [31:0] RC, reset 0. Assignments selected since last read, saturating -/
def ROUTE.ASSIGN.SELECTED : Fld := ⟨7, 0x700008, 0, 32, 0⟩
/-- ROUTE.ASSIGN.OVERFLOWED [63:32] RC, reset 0. Assignments not admitted, saturating -/
def ROUTE.ASSIGN.OVERFLOWED : Fld := ⟨7, 0x700008, 32, 32, 0⟩
/-- ROUTE.SKIP.TOKENS [31:0] RC, reset 0. Tokens that skipped a layer, saturating -/
def ROUTE.SKIP.TOKENS : Fld := ⟨7, 0x700010, 0, 32, 0⟩
/-- ROUTE.SKIP.PASS_MARKERS [63:32] RC, reset 0. Pass markers and empty entries sent, saturating -/
def ROUTE.SKIP.PASS_MARKERS : Fld := ⟨7, 0x700010, 32, 32, 0⟩
/-- ROUTE.EXPERT.LAUNCHED [31:0] RC, reset 0. Expert launches run, saturating -/
def ROUTE.EXPERT.LAUNCHED : Fld := ⟨7, 0x700018, 0, 32, 0⟩
/-- ROUTE.EXPERT.SKIPPED [63:32] RC, reset 0. Areas decided with COUNT zero, saturating -/
def ROUTE.EXPERT.SKIPPED : Fld := ⟨7, 0x700018, 32, 32, 0⟩
/-- ROUTE.BIAS_LOOP.UPDATES [31:0] RC, reset 0. Layer updates made, saturating -/
def ROUTE.BIAS_LOOP.UPDATES : Fld := ⟨7, 0x700020, 0, 32, 0⟩
/-- ROUTE.BIAS_LOOP.BELOW_MIN [47:32] RC, reset 0. Layer updates skipped under MIN_SAMPLES, saturating -/
def ROUTE.BIAS_LOOP.BELOW_MIN : Fld := ⟨7, 0x700020, 32, 16, 0⟩
/-- ROUTE.BIAS_LOOP.RUNNING [48:48] RO, reset 0. 1: at least one layer has its loop enabled -/
def ROUTE.BIAS_LOOP.RUNNING : Fld := ⟨7, 0x700020, 48, 1, 0⟩
/-- ROUTE.SHAPE.CLAMPED [31:0] RC, reset 0. Shape words above their maximum, saturating -/
def ROUTE.SHAPE.CLAMPED : Fld := ⟨7, 0x700028, 0, 32, 0⟩
/-- ROUTE.SHAPE.LOOP_MAX [63:32] RC, reset 0. Loops ended at MAX_TRIPS, saturating -/
def ROUTE.SHAPE.LOOP_MAX : Fld := ⟨7, 0x700028, 32, 32, 0⟩
/-- ROUTE.ARRIVE_WAIT.WAITING [15:0] RO, reset 0. Areas on this module awaiting arrivals now -/
def ROUTE.ARRIVE_WAIT.WAITING : Fld := ⟨7, 0x700030, 0, 16, 0⟩
/-- ROUTE.ARRIVE_WAIT.LONGEST_NS [47:16] RC, reset 0. Longest time from an area's first arrival to its decision since last read, in ns, saturating -/
def ROUTE.ARRIVE_WAIT.LONGEST_NS : Fld := ⟨7, 0x700030, 16, 32, 0⟩
/-- SERVE.CACHE_CAPS.PAGE_POSITIONS [7:0] RO, reset 0x20. Positions per cache page, 32 -/
def SERVE.CACHE_CAPS.PAGE_POSITIONS : Fld := ⟨8, 0x808000, 0, 8, 0x20⟩
/-- SERVE.CACHE_CAPS.SPAN_PAGES [15:8] RO, reset 0x40. Cache pages per latent MMU page, 64 -/
def SERVE.CACHE_CAPS.SPAN_PAGES : Fld := ⟨8, 0x808000, 8, 8, 0x40⟩
/-- SERVE.CACHE_CAPS.LATENT_BYTES [27:16] RO, reset 0x400. 1,024 per position per layer -/
def SERVE.CACHE_CAPS.LATENT_BYTES : Fld := ⟨8, 0x808000, 16, 12, 0x400⟩
/-- SERVE.CACHE_CAPS.POS_BYTES [39:28] RO, reset 0x060. 96 per position per layer -/
def SERVE.CACHE_CAPS.POS_BYTES : Fld := ⟨8, 0x808000, 28, 12, 0x060⟩
/-- SERVE.CACHE_CAPS.RING_MAX [42:40] RO, reset 0x6. Most ring members -/
def SERVE.CACHE_CAPS.RING_MAX : Fld := ⟨8, 0x808000, 40, 3, 0x6⟩
/-- SERVE.CACHE_POOL.PAGES [19:0] RW, reset 0. 2 MiB pages for hand caches, up to 573,440. A larger value, or one below the pages in use, is ignored -/
def SERVE.CACHE_POOL.PAGES : Fld := ⟨8, 0x808008, 0, 20, 0⟩
/-- SERVE.CACHE_POOL.RESERVE [39:20] RW, reset 0. Pages held for trump hands. A value above PAGES is ignored -/
def SERVE.CACHE_POOL.RESERVE : Fld := ⟨8, 0x808008, 20, 20, 0⟩
/-- SERVE.CACHE_CTL.EVICT_FORMAT [0:0] RW, reset 0. 0 MXFP8, 1 FP4 -/
def SERVE.CACHE_CTL.EVICT_FORMAT : Fld := ⟨8, 0x808010, 0, 1, 0⟩
/-- SERVE.CACHE_CTL.LATENT_MODE [1:1] RW, reset 0. R192 -/
def SERVE.CACHE_CTL.LATENT_MODE : Fld := ⟨8, 0x808010, 1, 1, 0⟩
/-- SERVE.CACHE_CTL.MERGE_MAX [28:16] RW, reset 0x0100. R202. 0–4,096; a larger value is ignored -/
def SERVE.CACHE_CTL.MERGE_MAX : Fld := ⟨8, 0x808010, 16, 13, 0x0100⟩
/-- SERVE.CACHE_USE.FREE [19:0] RO, reset 0. Pool pages free -/
def SERVE.CACHE_USE.FREE : Fld := ⟨8, 0x808018, 0, 20, 0⟩
/-- SERVE.CACHE_USE.IN_USE [39:20] RO, reset 0. Pool pages allocated -/
def SERVE.CACHE_USE.IN_USE : Fld := ⟨8, 0x808018, 20, 20, 0⟩
/-- SERVE.CACHE_USE.EVICTED [46:40] RO, reset 0. Hands wholly evicted, 0–64 -/
def SERVE.CACHE_USE.EVICTED : Fld := ⟨8, 0x808018, 40, 7, 0⟩
/-- SERVE.CACHE_USE.MOVING [53:47] RO, reset 0. Hands being evicted or returned -/
def SERVE.CACHE_USE.MOVING : Fld := ⟨8, 0x808018, 47, 7, 0⟩
/-- SERVE.CACHE_EVENTS.EVICTIONS [15:0] RC, reset 0. Evictions completed since last read, saturating -/
def SERVE.CACHE_EVENTS.EVICTIONS : Fld := ⟨8, 0x808020, 0, 16, 0⟩
/-- SERVE.CACHE_EVENTS.RETURNS [31:16] RC, reset 0. Returns completed, saturating -/
def SERVE.CACHE_EVENTS.RETURNS : Fld := ⟨8, 0x808020, 16, 16, 0⟩
/-- SERVE.CACHE_EVENTS.REFUSED [47:32] RC, reset 0. Allocations ended with NO_RESOURCE, saturating -/
def SERVE.CACHE_EVENTS.REFUSED : Fld := ⟨8, 0x808020, 32, 16, 0⟩
/-- SERVE.CACHE_EVENTS.LOST [63:48] RC, reset 0. Hand caches lost (Table 8-7), saturating -/
def SERVE.CACHE_EVENTS.LOST : Fld := ⟨8, 0x808020, 48, 16, 0⟩
/-- SERVE.RING_EVENTS.RING_PASSES [31:0] RC, reset 0. Layers run as ring passes, saturating -/
def SERVE.RING_EVENTS.RING_PASSES : Fld := ⟨8, 0x808028, 0, 32, 0⟩
/-- SERVE.RING_EVENTS.MERGE_PASSES [63:32] RC, reset 0. Layers run as merge passes, saturating -/
def SERVE.RING_EVENTS.MERGE_PASSES : Fld := ⟨8, 0x808028, 32, 32, 0⟩
/-- SERVE.EVICT_BASE.BASE [63:21] RW, reset 0. Bus address of the eviction area in host h's memory, 2 MiB aligned -/
def SERVE.EVICT_BASE.BASE (h : Nat) : Fld := ⟨8, 0x808100 + 0x10 * h, 21, 43, 0⟩
/-- SERVE.EVICT_SLOTS.SLOTS [19:0] RW, reset 0. Slots in the area. 0: no eviction to host h. A value below USED is ignored -/
def SERVE.EVICT_SLOTS.SLOTS (h : Nat) : Fld := ⟨8, 0x808108 + 0x10 * h, 0, 20, 0⟩
/-- SERVE.EVICT_SLOTS.USED [39:20] RO, reset 0. Slots holding evicted pages -/
def SERVE.EVICT_SLOTS.USED (h : Nat) : Fld := ⟨8, 0x808108 + 0x10 * h, 20, 20, 0⟩
/-- SERVE.CAPS.HANDS [6:0] RO, reset 0x40. 64 -/
def SERVE.CAPS.HANDS : Fld := ⟨8, 0x800000, 0, 7, 0x40⟩
/-- SERVE.CAPS.KITTY_ENTRIES [20:8] RO, reset 0x1000. 4,096 -/
def SERVE.CAPS.KITTY_ENTRIES : Fld := ⟨8, 0x800000, 8, 13, 0x1000⟩
/-- SERVE.CAPS.CHUNK_MAX [36:24] RO, reset 0x1000. 4,096 tokens -/
def SERVE.CAPS.CHUNK_MAX : Fld := ⟨8, 0x800000, 24, 13, 0x1000⟩
/-- SERVE.CAPS.TTL_MAX [56:40] RO, reset 0x1_5180. 86,400 s -/
def SERVE.CAPS.TTL_MAX : Fld := ⟨8, 0x800000, 40, 17, 0x1_5180⟩
/-- SERVE.STEP_CTL.TRUMP_PREFILL [13:0] RW, reset 0x0800. Chunk tokens per trump step, 0–8,192. 0: no trump chunk runs. A larger value is ignored -/
def SERVE.STEP_CTL.TRUMP_PREFILL : Fld := ⟨8, 0x800008, 0, 14, 0x0800⟩
/-- SERVE.STEP_CTL.PLAIN_PREFILL [29:16] RW, reset 0x1000. As TRUMP_PREFILL, for plain steps -/
def SERVE.STEP_CTL.PLAIN_PREFILL : Fld := ⟨8, 0x800008, 16, 14, 0x1000⟩
/-- SERVE.STEPS.ASSEMBLED [31:0] RC, reset 0. Steps assembled since last read, saturating -/
def SERVE.STEPS.ASSEMBLED : Fld := ⟨8, 0x800010, 0, 32, 0⟩
/-- SERVE.STEPS.EMPTY [47:32] RC, reset 0. Empty steps (R214), saturating -/
def SERVE.STEPS.EMPTY : Fld := ⟨8, 0x800010, 32, 16, 0⟩
/-- SERVE.STEPS.TRUMP_LATE [63:48] RC, reset 0. Trump steps over a target (R220), saturating -/
def SERVE.STEPS.TRUMP_LATE : Fld := ⟨8, 0x800010, 48, 16, 0⟩
/-- SERVE.KITTY_USE.HELD [12:0] RO, reset 0. Entries HELD -/
def SERVE.KITTY_USE.HELD : Fld := ⟨8, 0x800018, 0, 13, 0⟩
/-- SERVE.KITTY_USE.MOVING [25:13] RO, reset 0. Entries FILLING or TAKING -/
def SERVE.KITTY_USE.MOVING : Fld := ⟨8, 0x800018, 13, 13, 0⟩
/-- SERVE.KITTY_USE.LOST [38:26] RO, reset 0. Entries LOST -/
def SERVE.KITTY_USE.LOST : Fld := ⟨8, 0x800018, 26, 13, 0⟩
/-- SERVE.PARK_EVENTS.PARKS [15:0] RC, reset 0. Copies made HELD, saturating -/
def SERVE.PARK_EVENTS.PARKS : Fld := ⟨8, 0x800020, 0, 16, 0⟩
/-- SERVE.PARK_EVENTS.UNPARKS [31:16] RC, reset 0. Copies taken back, saturating -/
def SERVE.PARK_EVENTS.UNPARKS : Fld := ⟨8, 0x800020, 16, 16, 0⟩
/-- SERVE.PARK_EVENTS.EXPIRED [47:32] RC, reset 0. Copies freed by expiry, saturating -/
def SERVE.PARK_EVENTS.EXPIRED : Fld := ⟨8, 0x800020, 32, 16, 0⟩
/-- SERVE.PARK_EVENTS.LOST [63:48] RC, reset 0. Copies lost, saturating -/
def SERVE.PARK_EVENTS.LOST : Fld := ⟨8, 0x800020, 48, 16, 0⟩
/-- SERVE.HAND_STATE.STATE [3:0] RO, reset 0. Table 9-1 code. 9–15 reserved -/
def SERVE.HAND_STATE.STATE (n : Nat) : Fld := ⟨8, 0x800100 + 0x8 * n, 0, 4, 0⟩
/-- SERVE.HAND_STATE.CLASS [4:4] RO, reset 0. 0 trump, 1 plain -/
def SERVE.HAND_STATE.CLASS (n : Nat) : Fld := ⟨8, 0x800100 + 0x8 * n, 4, 1, 0⟩
/-- SERVE.HAND_STATE.RING [5:5] RO, reset 0. 1: a ring hand -/
def SERVE.HAND_STATE.RING (n : Nat) : Fld := ⟨8, 0x800100 + 0x8 * n, 5, 1, 0⟩
/-- SERVE.HAND_STATE.CONTEXT [15:6] RO, reset 0. Owning context -/
def SERVE.HAND_STATE.CONTEXT (n : Nat) : Fld := ⟨8, 0x800100 + 0x8 * n, 6, 10, 0⟩
/-- SERVE.HAND_STATE.CLIENT_TAG [27:16] RO, reset 0. Client tag -/
def SERVE.HAND_STATE.CLIENT_TAG (n : Nat) : Fld := ⟨8, 0x800100 + 0x8 * n, 16, 12, 0⟩
/-- SERVE.HAND_STATE.SPANS [35:28] RO, reset 0. Spans held -/
def SERVE.HAND_STATE.SPANS (n : Nat) : Fld := ⟨8, 0x800100 + 0x8 * n, 28, 8, 0⟩
/-- SERVE.HAND_STATE.COMMITTED [55:36] RO, reset 0. Committed length -/
def SERVE.HAND_STATE.COMMITTED (n : Nat) : Fld := ⟨8, 0x800100 + 0x8 * n, 36, 20, 0⟩
/-- SERVE.HAND_STATE.PENDING [56:56] RO, reset 0. 1: the hand holds a pending token (R218) -/
def SERVE.HAND_STATE.PENDING (n : Nat) : Fld := ⟨8, 0x800100 + 0x8 * n, 56, 1, 0⟩
/-- SERVE.KITTY_BASE.BASE [63:21] RW, reset 0. Bus address of the kitty area in host h's memory, 2 MiB aligned -/
def SERVE.KITTY_BASE.BASE (h : Nat) : Fld := ⟨8, 0x800400 + 0x10 * h, 21, 43, 0⟩
/-- SERVE.KITTY_SLOTS.SLOTS [19:0] RW, reset 0. Slots in the area. 0: no kitty on host h. A value below USED is ignored -/
def SERVE.KITTY_SLOTS.SLOTS (h : Nat) : Fld := ⟨8, 0x800408 + 0x10 * h, 0, 20, 0⟩
/-- SERVE.KITTY_SLOTS.USED [39:20] RO, reset 0. Slots holding parked pages -/
def SERVE.KITTY_SLOTS.USED (h : Nat) : Fld := ⟨8, 0x800408 + 0x10 * h, 20, 20, 0⟩
/-- SERVE.SPEC_CAPS.MAX_DEPTH [3:0] RO, reset 0x8. 8 -/
def SERVE.SPEC_CAPS.MAX_DEPTH : Fld := ⟨8, 0x804000, 0, 4, 0x8⟩
/-- SERVE.SPEC_CAPS.SHRINK_STEPS [7:4] RO, reset 0x4. Zero-accept steps before halving -/
def SERVE.SPEC_CAPS.SHRINK_STEPS : Fld := ⟨8, 0x804000, 4, 4, 0x4⟩
/-- SERVE.SPEC_CAPS.GROW_STEPS [11:8] RO, reset 0x4. Full-accept steps before doubling -/
def SERVE.SPEC_CAPS.GROW_STEPS : Fld := ⟨8, 0x804000, 8, 4, 0x4⟩
/-- SERVE.SPEC_CAPS.SUSPEND_STEPS [19:12] RO, reset 0x40. 64 -/
def SERVE.SPEC_CAPS.SUSPEND_STEPS : Fld := ⟨8, 0x804000, 12, 8, 0x40⟩
/-- SERVE.SPEC_TOTAL.PROPOSED [31:0] RC, reset 0. Draft tokens proposed since last read, saturating -/
def SERVE.SPEC_TOTAL.PROPOSED : Fld := ⟨8, 0x804008, 0, 32, 0⟩
/-- SERVE.SPEC_TOTAL.ACCEPTED [63:32] RC, reset 0. Draft tokens accepted, saturating -/
def SERVE.SPEC_TOTAL.ACCEPTED : Fld := ⟨8, 0x804008, 32, 32, 0⟩
/-- SERVE.SPEC_STATE.ENABLED [0:0] RO, reset 0. 1: the hand speculates -/
def SERVE.SPEC_STATE.ENABLED (n : Nat) : Fld := ⟨8, 0x804100 + 0x8 * n, 0, 1, 0⟩
/-- SERVE.SPEC_STATE.DEPTH [4:1] RO, reset 0. d, 0–8 -/
def SERVE.SPEC_STATE.DEPTH (n : Nat) : Fld := ⟨8, 0x804100 + 0x8 * n, 1, 4, 0⟩
/-- SERVE.SPEC_STATE.ZERO_RUN [6:5] RO, reset 0. 0–3 -/
def SERVE.SPEC_STATE.ZERO_RUN (n : Nat) : Fld := ⟨8, 0x804100 + 0x8 * n, 5, 2, 0⟩
/-- SERVE.SPEC_STATE.FULL_RUN [8:7] RO, reset 0. 0–3 -/
def SERVE.SPEC_STATE.FULL_RUN (n : Nat) : Fld := ⟨8, 0x804100 + 0x8 * n, 7, 2, 0⟩
/-- SERVE.SPEC_STATE.SUSPEND [15:9] RO, reset 0. 0–64 -/
def SERVE.SPEC_STATE.SUSPEND (n : Nat) : Fld := ⟨8, 0x804100 + 0x8 * n, 9, 7, 0⟩
/-- SERVE.SPEC_STATE.LEAD_SLOT [18:16] RO, reset 0. The lead's slot -/
def SERVE.SPEC_STATE.LEAD_SLOT (n : Nat) : Fld := ⟨8, 0x804100 + 0x8 * n, 16, 3, 0⟩
/-- SERVE.SPEC_STATE.ATTACHED [19:19] RO, reset 0. 1: attached to a prefix entry -/
def SERVE.SPEC_STATE.ATTACHED (n : Nat) : Fld := ⟨8, 0x804100 + 0x8 * n, 19, 1, 0⟩
/-- SERVE.SPEC_STATE.ENTRY [29:20] RO, reset 0. That entry -/
def SERVE.SPEC_STATE.ENTRY (n : Nat) : Fld := ⟨8, 0x804100 + 0x8 * n, 20, 10, 0⟩
/-- SERVE.SPEC_STATE.VARIANT [36:30] RO, reset 0. Bound variant, 0 for the base -/
def SERVE.SPEC_STATE.VARIANT (n : Nat) : Fld := ⟨8, 0x804100 + 0x8 * n, 30, 7, 0⟩
/-- SERVE.PREFIX_CTL.INDEX_PAGES [7:0] RW, reset 0. 2 MiB pages for this member's index, applied under R242. 0: no index -/
def SERVE.PREFIX_CTL.INDEX_PAGES : Fld := ⟨8, 0x805000, 0, 8, 0⟩
/-- SERVE.PREFIX_CTL.INDEX_NOW [15:8] RO, reset 0. Pages in effect -/
def SERVE.PREFIX_CTL.INDEX_NOW : Fld := ⟨8, 0x805000, 8, 8, 0⟩
/-- SERVE.PREFIX_CTL.FORM [16:16] RO, reset 0. 0 radix tree, 1 hash table -/
def SERVE.PREFIX_CTL.FORM : Fld := ⟨8, 0x805000, 16, 1, 0⟩
/-- SERVE.PREFIX_USE.ENTRIES [10:0] RO, reset 0. Live entries, 0–1,024 -/
def SERVE.PREFIX_USE.ENTRIES : Fld := ⟨8, 0x805008, 0, 11, 0⟩
/-- SERVE.PREFIX_USE.PAGES [30:11] RO, reset 0. Pool pages held by entries -/
def SERVE.PREFIX_USE.PAGES : Fld := ⟨8, 0x805008, 11, 20, 0⟩
/-- SERVE.PREFIX_USE.REFERENCED [41:31] RO, reset 0. Entries with a count above 0 -/
def SERVE.PREFIX_USE.REFERENCED : Fld := ⟨8, 0x805008, 31, 11, 0⟩
/-- SERVE.PREFIX_EVENTS.LOOKUPS [15:0] RC, reset 0. Lookups since last read, saturating -/
def SERVE.PREFIX_EVENTS.LOOKUPS : Fld := ⟨8, 0x805010, 0, 16, 0⟩
/-- SERVE.PREFIX_EVENTS.ATTACHES [31:16] RC, reset 0. Hands attached, saturating -/
def SERVE.PREFIX_EVENTS.ATTACHES : Fld := ⟨8, 0x805010, 16, 16, 0⟩
/-- SERVE.PREFIX_EVENTS.SKIPS [47:32] RC, reset 0. Records skipped under R238, saturating -/
def SERVE.PREFIX_EVENTS.SKIPS : Fld := ⟨8, 0x805010, 32, 16, 0⟩
/-- SERVE.PREFIX_EVENTS.RECLAIMED [63:48] RC, reset 0. Entries freed under R241, saturating -/
def SERVE.PREFIX_EVENTS.RECLAIMED : Fld := ⟨8, 0x805010, 48, 16, 0⟩
/-- SERVE.VARIANT_USE.REGISTERED [6:0] RO, reset 0. Variants registered, 0–64 -/
def SERVE.VARIANT_USE.REGISTERED : Fld := ⟨8, 0x806000, 0, 7, 0⟩
/-- SERVE.VARIANT_USE.BOUND [13:7] RO, reset 0. Hands bound to a variant other than 0 -/
def SERVE.VARIANT_USE.BOUND : Fld := ⟨8, 0x806000, 7, 7, 0⟩
/-- SERVE.VARIANT_EVENTS.GROUP_IMAGES [31:0] RC, reset 0. Variant images dealt since last read, saturating -/
def SERVE.VARIANT_EVENTS.GROUP_IMAGES : Fld := ⟨8, 0x806008, 0, 32, 0⟩
/-- SERVE.VARIANT_EVENTS.MISMATCH [47:32] RC, reset 0. Hands left out under R248, saturating -/
def SERVE.VARIANT_EVENTS.MISMATCH : Fld := ⟨8, 0x806008, 32, 16, 0⟩
/-- SCHED.CAPS.CONTEXTS [10:0] RO, reset 0x400. 1,024 -/
def SCHED.CAPS.CONTEXTS : Fld := ⟨2, 0x200000, 0, 11, 0x400⟩
/-- SCHED.CAPS.PAUSE_BOUND_US [23:16] RO, reset 0x0A. 10 µs (R258) -/
def SCHED.CAPS.PAUSE_BOUND_US : Fld := ⟨2, 0x200000, 16, 8, 0x0A⟩
/-- SCHED.CLASS_CTL.SLICE_US [13:0] RW, reset 0x00C8. Slice within a class, 10–10,000 µs. Other values are ignored -/
def SCHED.CLASS_CTL.SLICE_US : Fld := ⟨2, 0x200008, 0, 14, 0x00C8⟩
/-- SCHED.PREEMPT_STATS.PAUSES [23:0] RC, reset 0. Pauses and pre-emptions completed since last read, saturating -/
def SCHED.PREEMPT_STATS.PAUSES : Fld := ⟨2, 0x200010, 0, 24, 0⟩
/-- SCHED.PREEMPT_STATS.LATE [31:24] RC, reset 0. Those over 10 µs, saturating -/
def SCHED.PREEMPT_STATS.LATE : Fld := ⟨2, 0x200010, 24, 8, 0⟩
/-- SCHED.PREEMPT_STATS.LONGEST_NS [63:32] RC, reset 0. Longest since last read, in ns, saturating -/
def SCHED.PREEMPT_STATS.LONGEST_NS : Fld := ⟨2, 0x200010, 32, 32, 0⟩
/-- SCHED.BUSY_TRUMP.DIE_NS [63:0] RC, reset 0. Die time held by trump launches, summed over dies, in ns, saturating -/
def SCHED.BUSY_TRUMP.DIE_NS : Fld := ⟨2, 0x200018, 0, 64, 0⟩
/-- SCHED.BUSY_PLAIN.DIE_NS [63:0] RC, reset 0. As BUSY_TRUMP, for plain launches -/
def SCHED.BUSY_PLAIN.DIE_NS : Fld := ⟨2, 0x200020, 0, 64, 0⟩
/-- SCHED.DIE_STATUS.CONTEXT [9:0] RO, reset 0. Context of the holder -/
def SCHED.DIE_STATUS.CONTEXT (d : Nat) : Fld := ⟨2, 0x200100 + 0x8 * d, 0, 10, 0⟩
/-- SCHED.DIE_STATUS.CLASS [10:10] RO, reset 0. Holder's class: 0 trump, 1 plain -/
def SCHED.DIE_STATUS.CLASS (d : Nat) : Fld := ⟨2, 0x200100 + 0x8 * d, 10, 1, 0⟩
/-- SCHED.DIE_STATUS.IDLE [11:11] RO, reset 1. 1: no holder -/
def SCHED.DIE_STATUS.IDLE (d : Nat) : Fld := ⟨2, 0x200100 + 0x8 * d, 11, 1, 1⟩
/-- SCHED.DIE_STATUS.TRUMP_WAITING [12:12] RO, reset 0. 1: a trump launch waits for a plain holder's boundary -/
def SCHED.DIE_STATUS.TRUMP_WAITING (d : Nat) : Fld := ⟨2, 0x200100 + 0x8 * d, 12, 1, 0⟩
/-- SCHED.DIE_STATUS.READY_TRUMP [31:16] RO, reset 0. Launches in the trump ring -/
def SCHED.DIE_STATUS.READY_TRUMP (d : Nat) : Fld := ⟨2, 0x200100 + 0x8 * d, 16, 16, 0⟩
/-- SCHED.DIE_STATUS.READY_PLAIN [47:32] RO, reset 0. Launches in the plain ring -/
def SCHED.DIE_STATUS.READY_PLAIN (d : Nat) : Fld := ⟨2, 0x200100 + 0x8 * d, 32, 16, 0⟩
/-- SCHED.CTX_STATE.LIFE [1:0] RO, reset 0. 0 FREE, 1 LIVE, 2 ORPHANED, 3 reserved -/
def SCHED.CTX_STATE.LIFE (c : Nat) : Fld := ⟨2, 0x201000 + 0x8 * c, 0, 2, 0⟩
/-- SCHED.CTX_STATE.OWNER [2:2] RO, reset 0. 0 host A, 1 host B -/
def SCHED.CTX_STATE.OWNER (c : Nat) : Fld := ⟨2, 0x201000 + 0x8 * c, 2, 1, 0⟩
/-- SCHED.CTX_STATE.CLASS [3:3] RO, reset 0. 0 trump, 1 plain -/
def SCHED.CTX_STATE.CLASS (c : Nat) : Fld := ⟨2, 0x201000 + 0x8 * c, 3, 1, 0⟩
/-- SCHED.CTX_STATE.RUN [5:4] RO, reset 0. 3 when PREEMPTED or FAULT is set. Otherwise 2 when a launch of the context holds at least one die. Otherwise 1 when a launch of the context is ready under R253 and waits in a die's ring. Otherwise 0. A launch accepted by Amelo but not yet ready counts as idle, and PAUSED alone does not give 3 -/
def SCHED.CTX_STATE.RUN (c : Nat) : Fld := ⟨2, 0x201000 + 0x8 * c, 4, 2, 0⟩
/-- SCHED.CTX_STATE.PAUSED [6:6] RO, reset 0. 1: paused on at least one die (R263) -/
def SCHED.CTX_STATE.PAUSED (c : Nat) : Fld := ⟨2, 0x201000 + 0x8 * c, 6, 1, 0⟩
/-- SCHED.CTX_STATE.PREEMPTED [7:7] RO, reset 0. R263 -/
def SCHED.CTX_STATE.PREEMPTED (c : Nat) : Fld := ⟨2, 0x201000 + 0x8 * c, 7, 1, 0⟩
/-- SCHED.CTX_STATE.FAULT [8:8] RO, reset 0. R263 -/
def SCHED.CTX_STATE.FAULT (c : Nat) : Fld := ⟨2, 0x201000 + 0x8 * c, 8, 1, 0⟩
/-- SCHED.CTX_STATE.LAUNCHES [31:16] RO, reset 0. Launches accepted and not completed, saturating -/
def SCHED.CTX_STATE.LAUNCHES (c : Nat) : Fld := ⟨2, 0x201000 + 0x8 * c, 16, 16, 0⟩
/-- SCHED.CTX_STATE.OPEN_FAULTS [44:32] RO, reset 0. Fault entries open, 0–4,096 -/
def SCHED.CTX_STATE.OPEN_FAULTS (c : Nat) : Fld := ⟨2, 0x201000 + 0x8 * c, 32, 13, 0⟩
/-- FAB.CAPS.PORTS [7:0] RO, reset 0x0C. 12 -/
def FAB.CAPS.PORTS : Fld := ⟨9, 0x900000, 0, 8, 0x0C⟩
/-- FAB.CAPS.LINKS [15:8] RO, reset 0x60. 96 -/
def FAB.CAPS.LINKS : Fld := ⟨9, 0x900000, 8, 8, 0x60⟩
/-- FAB.CAPS.LANES_PER_PORT [23:16] RO, reset 0x11. 17, one of them stock -/
def FAB.CAPS.LANES_PER_PORT : Fld := ⟨9, 0x900000, 16, 8, 0x11⟩
/-- FAB.CAPS.STORE_DEPTH [47:32] RO, reset 0x0200. Results per source, 512 -/
def FAB.CAPS.STORE_DEPTH : Fld := ⟨9, 0x900000, 32, 16, 0x0200⟩
/-- FAB.CAPS.STORE_SOURCES [55:48] RO, reset 0x80. 128 -/
def FAB.CAPS.STORE_SOURCES : Fld := ⟨9, 0x900000, 48, 8, 0x80⟩
/-- FAB.LINK_CTL.UNCORR_LIMIT [7:0] RW, reset 0x10. R277, 1–255. A write of 0 is ignored -/
def FAB.LINK_CTL.UNCORR_LIMIT : Fld := ⟨9, 0x900008, 0, 8, 0x10⟩
/-- FAB.LINK_CTL.REPLAY_LIMIT [15:8] RO, reset 0x10. 16 (R274) -/
def FAB.LINK_CTL.REPLAY_LIMIT : Fld := ⟨9, 0x900008, 8, 8, 0x10⟩
/-- FAB.LINK_CTL.RETRY_US [31:16] RO, reset 0x0064. 100 µs (R297) -/
def FAB.LINK_CTL.RETRY_US : Fld := ⟨9, 0x900008, 16, 16, 0x0064⟩
/-- FAB.LINK_CTL.LIFETIME_US [47:32] RO, reset 0x0032. 50 µs (R285) -/
def FAB.LINK_CTL.LIFETIME_US : Fld := ⟨9, 0x900008, 32, 16, 0x0032⟩
/-- FAB.REQUESTS.RETRIES [15:0] RC, reset 0. Retries sent since last read, saturating -/
def FAB.REQUESTS.RETRIES : Fld := ⟨9, 0x900010, 0, 16, 0⟩
/-- FAB.REQUESTS.LIFETIME [31:16] RC, reset 0. Packets discarded for age, saturating -/
def FAB.REQUESTS.LIFETIME : Fld := ⟨9, 0x900010, 16, 16, 0⟩
/-- FAB.REQUESTS.NO_ROUTE [47:32] RC, reset 0. Packets discarded for want of a route, saturating -/
def FAB.REQUESTS.NO_ROUTE : Fld := ⟨9, 0x900010, 32, 16, 0⟩
/-- FAB.REQUESTS.DUP_ANSWERS [63:48] RC, reset 0. Answers discarded, saturating -/
def FAB.REQUESTS.DUP_ANSWERS : Fld := ⟨9, 0x900010, 48, 16, 0⟩
/-- FAB.RESULT_STORE.ANSWERED [31:0] RC, reset 0. Writes answered from a store without being applied, saturating -/
def FAB.RESULT_STORE.ANSWERED : Fld := ⟨9, 0x900018, 0, 32, 0⟩
/-- FAB.RESULT_STORE.SOURCES [39:32] RO, reset 0. Sources with entries, most on any home unit -/
def FAB.RESULT_STORE.SOURCES : Fld := ⟨9, 0x900018, 32, 8, 0⟩
/-- FAB.HUNG.NOW [15:0] RO, reset 0. Requests with four or more retries -/
def FAB.HUNG.NOW : Fld := ⟨9, 0x900020, 0, 16, 0⟩
/-- FAB.HUNG.RELEASED [31:16] RC, reset 0. Requests completed by an abort, saturating -/
def FAB.HUNG.RELEASED : Fld := ⟨9, 0x900020, 16, 16, 0⟩
/-- FAB.HUNG.LONGEST_US [63:32] RC, reset 0. Longest wait for an answer since last read, in µs, saturating -/
def FAB.HUNG.LONGEST_US : Fld := ⟨9, 0x900020, 32, 32, 0⟩
/-- FAB.EPOCH.EPOCH [3:0] RO, reset 0. R299 -/
def FAB.EPOCH.EPOCH : Fld := ⟨9, 0x900028, 0, 4, 0⟩
/-- FAB.EPOCH.ABORTS [19:4] RC, reset 0. Epoch advances, saturating -/
def FAB.EPOCH.ABORTS : Fld := ⟨9, 0x900028, 4, 16, 0⟩
/-- FAB.TIME.OFFSET_NS [31:0] RO, reset 0. Last correction, in ns, signed -/
def FAB.TIME.OFFSET_NS : Fld := ⟨9, 0x900030, 0, 32, 0⟩
/-- FAB.TIME.SOURCE [43:32] RO, reset 0. Time-source chip -/
def FAB.TIME.SOURCE : Fld := ⟨9, 0x900030, 32, 12, 0⟩
/-- FAB.TIME.LOCKED [44:44] RO, reset 0. 1: within ±20 ns -/
def FAB.TIME.LOCKED : Fld := ⟨9, 0x900030, 44, 1, 0⟩
/-- FAB.PORT_STATUS.LINKS_UP [7:0] RO, reset 0. Bit k set: link k UP -/
def FAB.PORT_STATUS.LINKS_UP (p : Nat) : Fld := ⟨9, 0x900100 + 0x8 * p, 0, 8, 0⟩
/-- FAB.PORT_STATUS.STOCK_FREE [8:8] RO, reset 1. 1: the stock lane is free -/
def FAB.PORT_STATUS.STOCK_FREE (p : Nat) : Fld := ⟨9, 0x900100 + 0x8 * p, 8, 1, 1⟩
/-- FAB.PORT_STATUS.STOCK_LINK [11:9] RO, reset 0. Link using the stock lane -/
def FAB.PORT_STATUS.STOCK_LINK (p : Nat) : Fld := ⟨9, 0x900100 + 0x8 * p, 9, 3, 0⟩
/-- FAB.PORT_STATUS.STOCK_LANE [12:12] RO, reset 0. The lane it replaces -/
def FAB.PORT_STATUS.STOCK_LANE (p : Nat) : Fld := ⟨9, 0x900100 + 0x8 * p, 12, 1, 0⟩
/-- FAB.PORT_STATUS.PARTNER [27:16] RO, reset 0. Partner chip from its hello -/
def FAB.PORT_STATUS.PARTNER (p : Nat) : Fld := ⟨9, 0x900100 + 0x8 * p, 16, 12, 0⟩
/-- FAB.PORT_STATUS.PARTNER_VALID [28:28] RO, reset 0. 1: PARTNER holds a hello -/
def FAB.PORT_STATUS.PARTNER_VALID (p : Nat) : Fld := ⟨9, 0x900100 + 0x8 * p, 28, 1, 0⟩
/-- FAB.LINK_STATUS.STATE [2:0] RO, reset 0. Table 12-3 code, 4–7 reserved -/
def FAB.LINK_STATUS.STATE (l : Nat) : Fld := ⟨9, 0x900200 + 0x8 * l, 0, 3, 0⟩
/-- FAB.LINK_STATUS.ON_STOCK [3:3] RO, reset 0. 1: the link uses the stock lane -/
def FAB.LINK_STATUS.ON_STOCK (l : Nat) : Fld := ⟨9, 0x900200 + 0x8 * l, 3, 1, 0⟩
/-- FAB.LINK_STATUS.HELD_OUT [4:4] RO, reset 0. 1: a lane is held out by TO_STOCK -/
def FAB.LINK_STATUS.HELD_OUT (l : Nat) : Fld := ⟨9, 0x900200 + 0x8 * l, 4, 1, 0⟩
/-- FAB.LINK_STATUS.DOWN_CAUSE [11:8] RO, reset 0. 0 none, 1 LINK_ADMIN, 2 replay limit, 3 lane with no stock, 4 training failed, 5 lock lost, 6–15 reserved -/
def FAB.LINK_STATUS.DOWN_CAUSE (l : Nat) : Fld := ⟨9, 0x900200 + 0x8 * l, 8, 4, 0⟩
/-- FAB.LINK_ERRORS.CORRECTED [31:0] RC, reset 0. Symbols corrected, saturating -/
def FAB.LINK_ERRORS.CORRECTED (l : Nat) : Fld := ⟨9, 0x900600 + 0x8 * l, 0, 32, 0⟩
/-- FAB.LINK_ERRORS.UNCORRECTED [47:32] RC, reset 0. Codewords not corrected, saturating -/
def FAB.LINK_ERRORS.UNCORRECTED (l : Nat) : Fld := ⟨9, 0x900600 + 0x8 * l, 32, 16, 0⟩
/-- FAB.LINK_ERRORS.REPLAYS [63:48] RC, reset 0. Flits sent again, saturating -/
def FAB.LINK_ERRORS.REPLAYS (l : Nat) : Fld := ⟨9, 0x900600 + 0x8 * l, 48, 16, 0⟩
/-- FAB.FAR_CACHE.HITS [31:0] RC, reset 0. Loads served from the cache, saturating -/
def FAB.FAR_CACHE.HITS (d : Nat) : Fld := ⟨9, 0x900a00 + 0x8 * d, 0, 32, 0⟩
/-- FAB.FAR_CACHE.LINES [52:32] RO, reset 0. Valid lines, 0–1,048,576 -/
def FAB.FAR_CACHE.LINES (d : Nat) : Fld := ⟨9, 0x900a00 + 0x8 * d, 32, 21, 0⟩
/-- FAB.ROUTE.VALID [0:0] RO, reset 0. 1: chip c is a member -/
def FAB.ROUTE.VALID (c : Nat) : Fld := ⟨9, 0x901000 + 0x8 * c, 0, 1, 0⟩
/-- FAB.ROUTE.X [2:1] RO, reset 0. x coordinate -/
def FAB.ROUTE.X (c : Nat) : Fld := ⟨9, 0x901000 + 0x8 * c, 1, 2, 0⟩
/-- FAB.ROUTE.Y [4:3] RO, reset 0. y coordinate -/
def FAB.ROUTE.Y (c : Nat) : Fld := ⟨9, 0x901000 + 0x8 * c, 3, 2, 0⟩
/-- FAB.ROUTE.ZPOS [7:5] RO, reset 0. z ring position, 0–6 -/
def FAB.ROUTE.ZPOS (c : Nat) : Fld := ⟨9, 0x901000 + 0x8 * c, 5, 3, 0⟩
/-- TOPO.CAPS.MAX_PLANES [2:0] RO, reset 0x6. 6 -/
def TOPO.CAPS.MAX_PLANES : Fld := ⟨10, 0xa00000, 0, 3, 0x6⟩
/-- TOPO.CAPS.MAX_ENTRIES [15:8] RO, reset 0x80. 128 -/
def TOPO.CAPS.MAX_ENTRIES : Fld := ⟨10, 0xa00000, 8, 8, 0x80⟩
/-- TOPO.CAPS.SILENT_TICKS [19:16] RO, reset 0x3. R307 -/
def TOPO.CAPS.SILENT_TICKS : Fld := ⟨10, 0xa00000, 16, 4, 0x3⟩
/-- TOPO.CHIP.CHIP [11:0] RO, reset From straps or record. R308 -/
def TOPO.CHIP.CHIP : Fld := ⟨10, 0xa00008, 0, 12, 0⟩
/-- TOPO.CHIP.STRAPS [23:12] RO, reset From straps. As read -/
def TOPO.CHIP.STRAPS : Fld := ⟨10, 0xa00008, 12, 12, 0⟩
/-- TOPO.CHIP.OVERRIDE [24:24] RO, reset From record. 1: number from the record -/
def TOPO.CHIP.OVERRIDE : Fld := ⟨10, 0xa00008, 24, 1, 0⟩
/-- TOPO.PARTITION.ID [15:0] RO, reset 0. Partition, 0 for none -/
def TOPO.PARTITION.ID : Fld := ⟨10, 0xa00010, 0, 16, 0⟩
/-- TOPO.PARTITION.STATE [18:16] RO, reset 0. Table 13-2 code, 4–7 reserved -/
def TOPO.PARTITION.STATE : Fld := ⟨10, 0xa00010, 16, 3, 0⟩
/-- TOPO.PARTITION.CLOSED [19:19] RO, reset 0. 1: closed z ring (R315) -/
def TOPO.PARTITION.CLOSED : Fld := ⟨10, 0xa00010, 19, 1, 0⟩
/-- TOPO.PARTITION.PLANES [22:20] RO, reset 0. k -/
def TOPO.PARTITION.PLANES : Fld := ⟨10, 0xa00010, 20, 3, 0⟩
/-- TOPO.PARTITION.X [24:23] RO, reset 0. Own x -/
def TOPO.PARTITION.X : Fld := ⟨10, 0xa00010, 23, 2, 0⟩
/-- TOPO.PARTITION.Y [26:25] RO, reset 0. Own y -/
def TOPO.PARTITION.Y : Fld := ⟨10, 0xa00010, 25, 2, 0⟩
/-- TOPO.PARTITION.ZPOS [29:27] RO, reset 0. Own ring position -/
def TOPO.PARTITION.ZPOS : Fld := ⟨10, 0xa00010, 27, 3, 0⟩
/-- TOPO.PARTITION.ZORDER [47:30] RO, reset 0. As P0 [37:20] -/
def TOPO.PARTITION.ZORDER : Fld := ⟨10, 0xa00010, 30, 18, 0⟩
/-- TOPO.LOSS.LOST_CHIP [11:0] RO, reset 0xFFF. Last lost chip, or 0xFFF -/
def TOPO.LOSS.LOST_CHIP : Fld := ⟨10, 0xa00018, 0, 12, 0xFFF⟩
/-- TOPO.LOSS.CAUSE [15:12] RO, reset 0. 0 none, 1 partner lost, 2 JOB_ABORT, 3 tile, 4 page lost, 5 thermal, 6 clock, 7–15 reserved -/
def TOPO.LOSS.CAUSE : Fld := ⟨10, 0xa00018, 12, 4, 0⟩
/-- TOPO.LOSS.ORIGIN [27:16] RO, reset 0. Chip that originated the last abort -/
def TOPO.LOSS.ORIGIN : Fld := ⟨10, 0xa00018, 16, 12, 0⟩
/-- TOPO.LOSS_TIME.TIME [63:0] RO, reset 0. Time base, in ns, of the last abort applied -/
def TOPO.LOSS_TIME.TIME : Fld := ⟨10, 0xa00020, 0, 64, 0⟩
/-- TOPO.DRAIN.REQUESTED [0:0] RO, reset 0. R321 -/
def TOPO.DRAIN.REQUESTED : Fld := ⟨10, 0xa00028, 0, 1, 0⟩
/-- TOPO.DRAIN.DRAINED [1:1] RO, reset 0. R321 -/
def TOPO.DRAIN.DRAINED : Fld := ⟨10, 0xa00028, 1, 1, 0⟩
/-- TOPO.DRAIN.STUCK [2:2] RO, reset 0. DRAIN_REQ_N declared STUCK -/
def TOPO.DRAIN.STUCK : Fld := ⟨10, 0xa00028, 2, 1, 0⟩
/-- TOPO.EVENT_CTL.VECTOR [10:0] RW, reset 0. MSI-X vector raised on a drain request, loss or abort -/
def TOPO.EVENT_CTL.VECTOR (h : Nat) : Fld := ⟨10, 0xa00030 + 0x8 * h, 0, 11, 0⟩
/-- TOPO.EVENT_CTL.ENABLE [11:11] RW, reset 0. 1: the vector is raised -/
def TOPO.EVENT_CTL.ENABLE (h : Nat) : Fld := ⟨10, 0xa00030 + 0x8 * h, 11, 1, 0⟩
/-- TOPO.NB_SERIAL.SERIAL [63:0] RO, reset 0. Partner serial from its last hello -/
def TOPO.NB_SERIAL.SERIAL (p : Nat) : Fld := ⟨10, 0xa00100 + 0x8 * p, 0, 64, 0⟩
/-- TOPO.NB_INFO.STATE [1:0] RO, reset 0. 0 ABSENT, 1 PRESENT, 2 MISMATCH, 3 reserved -/
def TOPO.NB_INFO.STATE (p : Nat) : Fld := ⟨10, 0xa00200 + 0x8 * p, 0, 2, 0⟩
/-- TOPO.NB_INFO.CHIP [15:4] RO, reset 0. Partner chip -/
def TOPO.NB_INFO.CHIP (p : Nat) : Fld := ⟨10, 0xa00200 + 0x8 * p, 4, 12, 0⟩
/-- TOPO.NB_INFO.PORT [19:16] RO, reset 0. Partner's sending port -/
def TOPO.NB_INFO.PORT (p : Nat) : Fld := ⟨10, 0xa00200 + 0x8 * p, 16, 4, 0⟩
/-- TOPO.NB_INFO.PARTITION [35:20] RO, reset 0. Partner's partition -/
def TOPO.NB_INFO.PARTITION (p : Nat) : Fld := ⟨10, 0xa00200 + 0x8 * p, 20, 16, 0⟩
/-- TOPO.NB_INFO.EPOCH [39:36] RO, reset 0. Partner's epoch -/
def TOPO.NB_INFO.EPOCH (p : Nat) : Fld := ⟨10, 0xa00200 + 0x8 * p, 36, 4, 0⟩
/-- TOPO.NB_INFO.ZPOS [42:40] RO, reset 0. Partner's ring position -/
def TOPO.NB_INFO.ZPOS (p : Nat) : Fld := ⟨10, 0xa00200 + 0x8 * p, 40, 3, 0⟩
/-- TOPO.NB_INFO.PLACED [43:43] RO, reset 0. Partner's PLACED -/
def TOPO.NB_INFO.PLACED (p : Nat) : Fld := ⟨10, 0xa00200 + 0x8 * p, 43, 1, 0⟩
/-- STOCK.SELFTEST.ENABLE [0:0] RW, reset 1. R323 -/
def STOCK.SELFTEST.ENABLE : Fld := ⟨11, 0xb00000, 0, 1, 1⟩
/-- STOCK.SELFTEST.NEXT_S [48:32] RO, reset 0x1_5180. Seconds to the next pass -/
def STOCK.SELFTEST.NEXT_S : Fld := ⟨11, 0xb00000, 32, 17, 0x1_5180⟩
/-- STOCK.SELFTEST.FAILED [63:49] RC, reset 0. Self-test failures since last read, saturating -/
def STOCK.SELFTEST.FAILED : Fld := ⟨11, 0xb00000, 49, 15, 0⟩
/-- STOCK.EVENTS.DRAWS [15:0] RC, reset 0. Units drawn, saturating -/
def STOCK.EVENTS.DRAWS : Fld := ⟨11, 0xb00008, 0, 16, 0⟩
/-- STOCK.EVENTS.RETURNS [31:16] RC, reset 0. Units returned to STOCK, saturating -/
def STOCK.EVENTS.RETURNS : Fld := ⟨11, 0xb00008, 16, 16, 0⟩
/-- STOCK.EVENTS.RETIREMENTS [47:32] RC, reset 0. Units retired, saturating -/
def STOCK.EVENTS.RETIREMENTS : Fld := ⟨11, 0xb00008, 32, 16, 0⟩
/-- STOCK.EVENTS.EXHAUSTED [63:48] RC, reset 0. Retirements with no stock left, saturating -/
def STOCK.EVENTS.EXHAUSTED : Fld := ⟨11, 0xb00008, 48, 16, 0⟩
/-- STOCK.CLASS.BUILT [9:0] RO, reset Fixed by class. Units built -/
def STOCK.CLASS.BUILT (k g : Nat) : Fld := ⟨11, 0xb00100 + 0x40 * k + 0x8 * g, 0, 10, (stockBuilt k g)⟩
/-- STOCK.CLASS.ACTIVE [19:10] RO, reset From record. Units ACTIVE -/
def STOCK.CLASS.ACTIVE (k g : Nat) : Fld := ⟨11, 0xb00100 + 0x40 * k + 0x8 * g, 10, 10, (stockActive0 k g)⟩
/-- STOCK.CLASS.STOCK [29:20] RO, reset From record. Units in STOCK -/
def STOCK.CLASS.STOCK (k g : Nat) : Fld := ⟨11, 0xb00100 + 0x40 * k + 0x8 * g, 20, 10, (stockBuilt k g - stockActive0 k g)⟩
/-- STOCK.CLASS.RETIRED [39:30] RO, reset From record. Units RETIRED -/
def STOCK.CLASS.RETIRED (k g : Nat) : Fld := ⟨11, 0xb00100 + 0x40 * k + 0x8 * g, 30, 10, 0⟩
/-- STOCK.CLASS.TESTING [40:40] RO, reset 0. 1: a unit is under test -/
def STOCK.CLASS.TESTING (k g : Nat) : Fld := ⟨11, 0xb00100 + 0x40 * k + 0x8 * g, 40, 1, 0⟩
/-- LOAD.CAPS.SLOTS [3:0] RO, reset 0x8. 8 -/
def LOAD.CAPS.SLOTS : Fld := ⟨12, 0xc00000, 0, 4, 0x8⟩
/-- LOAD.CAPS.ENGINES [7:4] RO, reset 0xA. 10 built -/
def LOAD.CAPS.ENGINES : Fld := ⟨12, 0xc00000, 4, 4, 0xA⟩
/-- LOAD.CAPS.ENGINE_GBPS [15:8] RO, reset 0x10. 16 GB/s each -/
def LOAD.CAPS.ENGINE_GBPS : Fld := ⟨12, 0xc00000, 8, 8, 0x10⟩
/-- LOAD.CAPS.SHARD_MIB [24:16] RO, reset 0x100. 256 MiB -/
def LOAD.CAPS.SHARD_MIB : Fld := ⟨12, 0xc00000, 16, 9, 0x100⟩
/-- LOAD.CAPS.ATTEMPTS [27:25] RO, reset 0x4. R337 -/
def LOAD.CAPS.ATTEMPTS : Fld := ⟨12, 0xc00000, 25, 3, 0x4⟩
/-- LOAD.INTAKE_CTL.TIMEOUT_S [15:0] RW, reset 0x001E. 1–3,600 s. Other values are ignored -/
def LOAD.INTAKE_CTL.TIMEOUT_S : Fld := ⟨12, 0xc00008, 0, 16, 0x001E⟩
/-- LOAD.INTAKE.VERIFIED [31:0] RC, reset 0. Shards verified since last read, saturating -/
def LOAD.INTAKE.VERIFIED : Fld := ⟨12, 0xc00010, 0, 32, 0⟩
/-- LOAD.INTAKE.DIGEST_FAILS [47:32] RC, reset 0. Attempts refused, saturating -/
def LOAD.INTAKE.DIGEST_FAILS : Fld := ⟨12, 0xc00010, 32, 16, 0⟩
/-- LOAD.INTAKE.STRAY [63:48] RC, reset 0. Stray BAR2 writes (R335), saturating -/
def LOAD.INTAKE.STRAY : Fld := ⟨12, 0xc00010, 48, 16, 0⟩
/-- LOAD.RECHECK_CTL.PERIOD_MIN [13:0] RW, reset 0x0168. 60–10,080 min. Other values are ignored -/
def LOAD.RECHECK_CTL.PERIOD_MIN : Fld := ⟨12, 0xc00018, 0, 14, 0x0168⟩
/-- LOAD.RECHECK_CTL.ENABLE [14:14] RW, reset 1. 0: no background pass -/
def LOAD.RECHECK_CTL.ENABLE : Fld := ⟨12, 0xc00018, 14, 1, 1⟩
/-- LOAD.RECHECK.SHARDS [31:0] RC, reset 0. Shards re-checked, saturating -/
def LOAD.RECHECK.SHARDS : Fld := ⟨12, 0xc00020, 0, 32, 0⟩
/-- LOAD.RECHECK.PASSES [47:32] RC, reset 0. Passes completed, saturating -/
def LOAD.RECHECK.PASSES : Fld := ⟨12, 0xc00020, 32, 16, 0⟩
/-- LOAD.REPAIR.CORRUPT [15:0] RO, reset 0. Shards CORRUPT or REPAIRING now -/
def LOAD.REPAIR.CORRUPT : Fld := ⟨12, 0xc00028, 0, 16, 0⟩
/-- LOAD.REPAIR.FOUND [31:16] RC, reset 0. Shards found CORRUPT, saturating -/
def LOAD.REPAIR.FOUND : Fld := ⟨12, 0xc00028, 16, 16, 0⟩
/-- LOAD.REPAIR.SWAPPED [47:32] RC, reset 0. Repairs swapped in, saturating -/
def LOAD.REPAIR.SWAPPED : Fld := ⟨12, 0xc00028, 32, 16, 0⟩
/-- LOAD.EVENT_CTL.VECTOR [10:0] RW, reset 0. MSI-X vector raised on CORRUPT or slot failure -/
def LOAD.EVENT_CTL.VECTOR (h : Nat) : Fld := ⟨12, 0xc00030 + 0x8 * h, 0, 11, 0⟩
/-- LOAD.EVENT_CTL.ENABLE [11:11] RW, reset 0. 1: the vector is raised -/
def LOAD.EVENT_CTL.ENABLE (h : Nat) : Fld := ⟨12, 0xc00030 + 0x8 * h, 11, 1, 0⟩
/-- LOAD.SLOT.STATE [2:0] RO, reset 0. Table 14-1 code. 5–7 reserved -/
def LOAD.SLOT.STATE (s : Nat) : Fld := ⟨12, 0xc00100 + 0x8 * s, 0, 3, 0⟩
/-- LOAD.SLOT.OWNER [3:3] RO, reset 0. 0 host A, 1 host B -/
def LOAD.SLOT.OWNER (s : Nat) : Fld := ⟨12, 0xc00100 + 0x8 * s, 3, 1, 0⟩
/-- LOAD.SLOT.CONTEXTS [14:4] RO, reset 0. Contexts naming the slot -/
def LOAD.SLOT.CONTEXTS (s : Nat) : Fld := ⟨12, 0xc00100 + 0x8 * s, 4, 11, 0⟩
/-- LOAD.SLOT.SHARDS [38:15] RO, reset 0. This module's shards -/
def LOAD.SLOT.SHARDS (s : Nat) : Fld := ⟨12, 0xc00100 + 0x8 * s, 15, 24, 0⟩
/-- LOAD.SLOT.VERIFIED [62:39] RO, reset 0. Shards VERIFIED -/
def LOAD.SLOT.VERIFIED (s : Nat) : Fld := ⟨12, 0xc00100 + 0x8 * s, 39, 24, 0⟩
/-- LOAD.SLOT_ID.MODEL_ID [63:0] RO, reset 0. From the manifest -/
def LOAD.SLOT_ID.MODEL_ID (s : Nat) : Fld := ⟨12, 0xc00200 + 0x8 * s, 0, 64, 0⟩
/-- LOAD.ENGINE.STATE [2:0] RO, reset From record. MTX.CORE_STATUS.STATE codes -/
def LOAD.ENGINE.STATE (e : Nat) : Fld := ⟨12, 0xc00300 + 0x8 * e, 0, 3, (if e % 5 < 4 then 0 else 1)⟩
/-- LOAD.ENGINE.SHARD [31:8] RO, reset 0. Shard being hashed -/
def LOAD.ENGINE.SHARD (e : Nat) : Fld := ⟨12, 0xc00300 + 0x8 * e, 8, 24, 0⟩
/-- LOAD.ENGINE.BUSY [32:32] RO, reset 0. 1: hashing -/
def LOAD.ENGINE.BUSY (e : Nat) : Fld := ⟨12, 0xc00300 + 0x8 * e, 32, 1, 0⟩
/-- CMD.CAPS.CHANNELS [7:0] RO, reset 0x80. 128 -/
def CMD.CAPS.CHANNELS : Fld := ⟨1, 0x100000, 0, 8, 0x80⟩
/-- CMD.CAPS.SLOTS [15:8] RO, reset 0x40. 64 per channel -/
def CMD.CAPS.SLOTS : Fld := ⟨1, 0x100000, 8, 8, 0x40⟩
/-- CMD.CAPS.RINGS [24:16] RO, reset 0x100. 256 -/
def CMD.CAPS.RINGS : Fld := ⟨1, 0x100000, 16, 9, 0x100⟩
/-- CMD.CAPS.REPLY_HOLD [44:32] RO, reset 0x1000. 4,096 -/
def CMD.CAPS.REPLY_HOLD : Fld := ⟨1, 0x100000, 32, 13, 0x1000⟩
/-- CMD.STATS.QUEUED [31:0] RC, reset 0. Packets queued, saturating -/
def CMD.STATS.QUEUED : Fld := ⟨1, 0x100008, 0, 32, 0⟩
/-- CMD.STATS.CRC_FAIL [47:32] RC, reset 0. R351, saturating -/
def CMD.STATS.CRC_FAIL : Fld := ⟨1, 0x100008, 32, 16, 0⟩
/-- CMD.STATS.SEQ_GAP [63:48] RC, reset 0. R353, saturating -/
def CMD.STATS.SEQ_GAP : Fld := ⟨1, 0x100008, 48, 16, 0⟩
/-- CMD.STRAY.WRITES [15:0] RC, reset 0. Writes discarded (R347, R348, R374), saturating -/
def CMD.STRAY.WRITES : Fld := ⟨1, 0x100010, 0, 16, 0⟩
/-- CMD.STRAY.DROPPED [31:16] RC, reset 0. Replies dropped (R361, R362), saturating -/
def CMD.STRAY.DROPPED : Fld := ⟨1, 0x100010, 16, 16, 0⟩
/-- CMD.STRAY.HELD [44:32] RO, reset 0. Replies in the hold now -/
def CMD.STRAY.HELD : Fld := ⟨1, 0x100010, 32, 13, 0⟩
/-- CMD.CHAN_CTL.ENABLE [0:0] RW, reset 0. 1: the window takes packets -/
def CMD.CHAN_CTL.ENABLE (c : Nat) : Fld := ⟨1, 0x102000 + 0x20 * c, 0, 1, 0⟩
/-- CMD.CHAN_CTL.RESET [1:1] WO, reset 0. 1: discard every packet not yet accepted, zero every slot, set EXPECT to SEQ_BASE and the queued count to 0 -/
def CMD.CHAN_CTL.RESET (c : Nat) : Fld := ⟨1, 0x102000 + 0x20 * c, 1, 1, 0⟩
/-- CMD.CHAN_CTL.CREDIT_BATCH [7:2] RW, reset 0x08. 1–63. 0 is taken as 1 -/
def CMD.CHAN_CTL.CREDIT_BATCH (c : Nat) : Fld := ⟨1, 0x102000 + 0x20 * c, 2, 6, 0x08⟩
/-- CMD.CHAN_CTL.ERR_RING [15:8] RW, reset 0 for c = 0–63, 0x80 for c = 64–127. Error ring. A value that names a ring of the other host is ignored (R519), so the field always names one of the channel host's rings -/
def CMD.CHAN_CTL.ERR_RING (c : Nat) : Fld := ⟨1, 0x102000 + 0x20 * c, 8, 8, (if c < 64 then 0 else 0x80)⟩
/-- CMD.CHAN_CTL.SEQ_BASE [31:16] RW, reset 0. EXPECT after enable or RESET -/
def CMD.CHAN_CTL.SEQ_BASE (c : Nat) : Fld := ⟨1, 0x102000 + 0x20 * c, 16, 16, 0⟩
/-- CMD.CHAN_CTL.GAP_US [47:32] RW, reset 0x0064. 1–65,535 µs. A write of 0 is ignored (R519). R353 gives the moment the gap timer starts -/
def CMD.CHAN_CTL.GAP_US (c : Nat) : Fld := ⟨1, 0x102000 + 0x20 * c, 32, 16, 0x0064⟩
/-- CMD.CHAN_CREDIT.ADDR [63:3] RW, reset 0. Bus address of the credit word, 8-byte aligned. 0: no credit word -/
def CMD.CHAN_CREDIT.ADDR (c : Nat) : Fld := ⟨1, 0x102008 + 0x20 * c, 3, 61, 0⟩
/-- CMD.CHAN_SIGNAL.ADDR [63:3] RW, reset 0. Bus address of the signal word (R359). 0: none -/
def CMD.CHAN_SIGNAL.ADDR (c : Nat) : Fld := ⟨1, 0x102010 + 0x20 * c, 3, 61, 0⟩
/-- CMD.CHAN_STATUS.EXPECT [15:0] RO, reset 0. R353 -/
def CMD.CHAN_STATUS.EXPECT (c : Nat) : Fld := ⟨1, 0x102018 + 0x20 * c, 0, 16, 0⟩
/-- CMD.CHAN_STATUS.HELD [22:16] RO, reset 0. Committed packets held in slots -/
def CMD.CHAN_STATUS.HELD (c : Nat) : Fld := ⟨1, 0x102018 + 0x20 * c, 16, 7, 0⟩
/-- CMD.CHAN_STATUS.QUEUED [29:23] RO, reset 0. Queue entries, 0–64 -/
def CMD.CHAN_STATUS.QUEUED (c : Nat) : Fld := ⟨1, 0x102018 + 0x20 * c, 23, 7, 0⟩
/-- CMD.CHAN_STATUS.HOLDING [30:30] RO, reset 0. 1: a FENCE, WAIT or FENCE_BEFORE command holds the channel -/
def CMD.CHAN_STATUS.HOLDING (c : Nat) : Fld := ⟨1, 0x102018 + 0x20 * c, 30, 1, 0⟩
/-- CMD.CHAN_STATUS.DONE_COUNT [63:32] RO, reset 0. CHAN_DONE (R359), low 32 bits -/
def CMD.CHAN_STATUS.DONE_COUNT (c : Nat) : Fld := ⟨1, 0x102018 + 0x20 * c, 32, 32, 0⟩
/-- CMD.RING_BASE.BASE [63:5] RW, reset 0. Host bus address, or local offset on this module, 32-byte aligned and aligned to the ring's size -/
def CMD.RING_BASE.BASE (r : Nat) : Fld := ⟨1, 0x104000 + 0x40 * r, 5, 59, 0⟩
/-- CMD.RING_CTL.LOG2_SIZE [4:0] RW, reset 0x06. 6–16. Other values are ignored -/
def CMD.RING_CTL.LOG2_SIZE (r : Nat) : Fld := ⟨1, 0x104008 + 0x40 * r, 0, 5, 0x06⟩
/-- CMD.RING_CTL.DEVICE [5:5] RW, reset 0. 1: BASE is a local offset in device memory -/
def CMD.RING_CTL.DEVICE (r : Nat) : Fld := ⟨1, 0x104008 + 0x40 * r, 5, 1, 0⟩
/-- CMD.RING_CTL.ENABLE [6:6] RW, reset 0. 1: replies are written -/
def CMD.RING_CTL.ENABLE (r : Nat) : Fld := ⟨1, 0x104008 + 0x40 * r, 6, 1, 0⟩
/-- CMD.RING_CTL.VECTOR_EN [7:7] RW, reset 0. 1: raise VECTOR after each batch -/
def CMD.RING_CTL.VECTOR_EN (r : Nat) : Fld := ⟨1, 0x104008 + 0x40 * r, 7, 1, 0⟩
/-- CMD.RING_CTL.VECTOR [18:8] RW, reset 0. MSI-X vector -/
def CMD.RING_CTL.VECTOR (r : Nat) : Fld := ⟨1, 0x104008 + 0x40 * r, 8, 11, 0⟩
/-- CMD.RING_TAIL.TAIL [31:0] RO, reset 0. Index the Gonak writes next -/
def CMD.RING_TAIL.TAIL (r : Nat) : Fld := ⟨1, 0x104010 + 0x40 * r, 0, 32, 0⟩
/-- CMD.RING_HEAD.HEAD [31:0] RW, reset 0. Index the host reads next. The ring is full when TAIL − HEAD equals its size -/
def CMD.RING_HEAD.HEAD (r : Nat) : Fld := ⟨1, 0x104018 + 0x40 * r, 0, 32, 0⟩
/-- CMD.RING_SHADOW.ADDR [63:3] RW, reset 0. Bus address to which TAIL is written as 8 bytes, in the ring host's memory. 0: none -/
def CMD.RING_SHADOW.ADDR (r : Nat) : Fld := ⟨1, 0x104020 + 0x40 * r, 3, 61, 0⟩
/-- HIF.CAPS.PORTS [1:0] RO, reset 0x2. 2 -/
def HIF.CAPS.PORTS : Fld := ⟨0, 0x0, 0, 2, 0x2⟩
/-- HIF.CAPS.MAX_WIDTH [7:4] RO, reset 0x8. ×8 -/
def HIF.CAPS.MAX_WIDTH : Fld := ⟨0, 0x0, 4, 4, 0x8⟩
/-- HIF.CAPS.MAX_RATE [11:8] RO, reset 0x6. Speed code 6, 64 GT/s -/
def HIF.CAPS.MAX_RATE : Fld := ⟨0, 0x0, 8, 4, 0x6⟩
/-- HIF.CAPS.MSIX_VECTORS [23:12] RO, reset 0x800. 2,048 -/
def HIF.CAPS.MSIX_VECTORS : Fld := ⟨0, 0x0, 12, 12, 0x800⟩
/-- HIF.CAPS.BAR2_MAX_LOG2 [29:24] RO, reset 0x24. 64 GiB -/
def HIF.CAPS.BAR2_MAX_LOG2 : Fld := ⟨0, 0x0, 24, 6, 0x24⟩
/-- HIF.ID.VENDOR [15:0] RO, reset 0x1F7A. Table 16-2 -/
def HIF.ID.VENDOR : Fld := ⟨0, 0x8, 0, 16, 0x1F7A⟩
/-- HIF.ID.DEVICE [31:16] RO, reset 0x6416. Table 16-2 -/
def HIF.ID.DEVICE : Fld := ⟨0, 0x8, 16, 16, 0x6416⟩
/-- HIF.ID.REVISION [39:32] RO, reset From record. Table 16-2 -/
def HIF.ID.REVISION : Fld := ⟨0, 0x8, 32, 8, 0⟩
/-- HIF.SERIAL.SERIAL [63:0] RO, reset From record. Module serial -/
def HIF.SERIAL.SERIAL : Fld := ⟨0, 0x10, 0, 64, 0⟩
/-- HIF.PORT_STATUS.LINK_UP [0:0] RO, reset 0. 1: DL_Up -/
def HIF.PORT_STATUS.LINK_UP (h : Nat) : Fld := ⟨0, 0x100 + 0x40 * h, 0, 1, 0⟩
/-- HIF.PORT_STATUS.RATE [3:1] RO, reset 0. Speed code 1–6 -/
def HIF.PORT_STATUS.RATE (h : Nat) : Fld := ⟨0, 0x100 + 0x40 * h, 1, 3, 0⟩
/-- HIF.PORT_STATUS.WIDTH [7:4] RO, reset 0. Lanes -/
def HIF.PORT_STATUS.WIDTH (h : Nat) : Fld := ⟨0, 0x100 + 0x40 * h, 4, 4, 0⟩
/-- HIF.PORT_STATUS.FLIT [8:8] RO, reset 0. 1: FLIT mode -/
def HIF.PORT_STATUS.FLIT (h : Nat) : Fld := ⟨0, 0x100 + 0x40 * h, 8, 1, 0⟩
/-- HIF.PORT_STATUS.HOST_STATE [10:9] RO, reset 0. Table 16-4 code -/
def HIF.PORT_STATUS.HOST_STATE (h : Nat) : Fld := ⟨0, 0x100 + 0x40 * h, 9, 2, 0⟩
/-- HIF.PORT_STATUS.BME [11:11] RO, reset 0. Bus Master Enable -/
def HIF.PORT_STATUS.BME (h : Nat) : Fld := ⟨0, 0x100 + 0x40 * h, 11, 1, 0⟩
/-- HIF.PORT_STATUS.MSE [12:12] RO, reset 0. Memory Space Enable -/
def HIF.PORT_STATUS.MSE (h : Nat) : Fld := ⟨0, 0x100 + 0x40 * h, 12, 1, 0⟩
/-- HIF.PORT_STATUS.LOSS_CAUSE [19:16] RO, reset 0. Last loss: 0 none, 1 DL_Down, 2 PERST_N, 3 Hot Reset or Link Disable, 4 Function Level Reset, 5 BME or MSE cleared, 6 left D0, 7–15 reserved -/
def HIF.PORT_STATUS.LOSS_CAUSE (h : Nat) : Fld := ⟨0, 0x100 + 0x40 * h, 16, 4, 0⟩
/-- HIF.PORT_STATUS.ORPHANED [42:32] RO, reset 0. Contexts this host lost that are still ORPHANED -/
def HIF.PORT_STATUS.ORPHANED (h : Nat) : Fld := ⟨0, 0x100 + 0x40 * h, 32, 11, 0⟩
/-- HIF.HOST_CTL.ATTACH [0:0] RW, reset 0. Table 16-4. A value that the table does not allow is ignored: ATTACH keeps its value, and EVENT_VECTOR and EVENT_EN of the same write apply (R519) -/
def HIF.HOST_CTL.ATTACH (h : Nat) : Fld := ⟨0, 0x108 + 0x40 * h, 0, 1, 0⟩
/-- HIF.HOST_CTL.EVENT_VECTOR [18:8] RW, reset 0. MSI-X vector raised when HOST_EVENTS sets a bit -/
def HIF.HOST_CTL.EVENT_VECTOR (h : Nat) : Fld := ⟨0, 0x108 + 0x40 * h, 8, 11, 0⟩
/-- HIF.HOST_CTL.EVENT_EN [19:19] RW, reset 0. 1: the vector is raised -/
def HIF.HOST_CTL.EVENT_EN (h : Nat) : Fld := ⟨0, 0x108 + 0x40 * h, 19, 1, 0⟩
/-- HIF.HOST_EVENTS.OTHER_LOST [0:0] W1C, reset 0. The other host was lost -/
def HIF.HOST_EVENTS.OTHER_LOST (h : Nat) : Fld := ⟨0, 0x110 + 0x40 * h, 0, 1, 0⟩
/-- HIF.HOST_EVENTS.OTHER_ATTACHED [1:1] W1C, reset 0. The other host became ATTACHED -/
def HIF.HOST_EVENTS.OTHER_ATTACHED (h : Nat) : Fld := ⟨0, 0x110 + 0x40 * h, 1, 1, 0⟩
/-- HIF.HOST_EVENTS.ADOPTED_AWAY [2:2] W1C, reset 0. The other host adopted a context this host lost -/
def HIF.HOST_EVENTS.ADOPTED_AWAY (h : Nat) : Fld := ⟨0, 0x110 + 0x40 * h, 2, 1, 0⟩
/-- HIF.HOST_EVENTS.LOSSES [31:16] RO, reset 0. Losses of this host since power-on, saturating -/
def HIF.HOST_EVENTS.LOSSES (h : Nat) : Fld := ⟨0, 0x110 + 0x40 * h, 16, 16, 0⟩
/-- HIF.ERRORS.CPL_TIMEOUT [15:0] RC, reset 0. Completion timeouts, saturating -/
def HIF.ERRORS.CPL_TIMEOUT (h : Nat) : Fld := ⟨0, 0x118 + 0x40 * h, 0, 16, 0⟩
/-- HIF.ERRORS.POISON_RX [31:16] RC, reset 0. Poisoned TLPs received, saturating -/
def HIF.ERRORS.POISON_RX (h : Nat) : Fld := ⟨0, 0x118 + 0x40 * h, 16, 16, 0⟩
/-- HIF.ERRORS.UNSUPPORTED [47:32] RC, reset 0. Requests answered Unsupported Request, saturating -/
def HIF.ERRORS.UNSUPPORTED (h : Nat) : Fld := ⟨0, 0x118 + 0x40 * h, 32, 16, 0⟩
/-- HIF.ERRORS.RETRAINS [63:48] RC, reset 0. Link retrains, saturating -/
def HIF.ERRORS.RETRAINS (h : Nat) : Fld := ⟨0, 0x118 + 0x40 * h, 48, 16, 0⟩
/-- HIF.ORPHAN_ADDR.OFFSET [43:3] RW, reset 0. Local offset [43:3] read next (R386) -/
def HIF.ORPHAN_ADDR.OFFSET (h : Nat) : Fld := ⟨0, 0x120 + 0x40 * h, 3, 41, 0⟩
/-- HIF.ORPHAN_DATA.DATA [63:0] RO, reset 0. R386 -/
def HIF.ORPHAN_DATA.DATA (h : Nat) : Fld := ⟨0, 0x128 + 0x40 * h, 0, 64, 0⟩
/-- MGMT.CAPS.TICK_US [15:0] RO, reset 0x03E8. 1,000 µs -/
def MGMT.CAPS.TICK_US : Fld := ⟨16, 0x1000000, 0, 16, 0x03E8⟩
/-- MGMT.CAPS.SB_MAX_OUT [23:16] RO, reset 0x08. Outstanding side-band commands -/
def MGMT.CAPS.SB_MAX_OUT : Fld := ⟨16, 0x1000000, 16, 8, 0x08⟩
/-- MGMT.CAPS.SENSORS [31:24] RO, reset 0x32. PLDM sensors, 50 -/
def MGMT.CAPS.SENSORS : Fld := ⟨16, 0x1000000, 24, 8, 0x32⟩
/-- MGMT.CAPS.FW_VERSION [63:32] RO, reset From image. Bimon version -/
def MGMT.CAPS.FW_VERSION : Fld := ⟨16, 0x1000000, 32, 32, 0⟩
/-- MGMT.TICK.COUNT [47:0] RO, reset 0. Ticks since power-on -/
def MGMT.TICK.COUNT : Fld := ⟨16, 0x1000008, 0, 48, 0⟩
/-- MGMT.TICK.OVERRUNS [63:48] RC, reset 0. R391, saturating -/
def MGMT.TICK.OVERRUNS : Fld := ⟨16, 0x1000008, 48, 16, 0⟩
/-- MGMT.STATUS.BIMON [1:0] RO, reset 0. 0 booting, 1 running, 2 restarting, 3 stopped -/
def MGMT.STATUS.BIMON : Fld := ⟨16, 0x1000010, 0, 2, 0⟩
/-- MGMT.STATUS.MAIN_ON [2:2] RO, reset 0. 1: main rails up -/
def MGMT.STATUS.MAIN_ON : Fld := ⟨16, 0x1000010, 2, 1, 0⟩
/-- MGMT.STATUS.RM_SILENT [3:3] RO, reset 0. R410 -/
def MGMT.STATUS.RM_SILENT : Fld := ⟨16, 0x1000010, 3, 1, 0⟩
/-- MGMT.STATUS.WDOG_RESTARTS [31:16] RO, reset 0. Restarts since power-on, saturating -/
def MGMT.STATUS.WDOG_RESTARTS : Fld := ⟨16, 0x1000010, 16, 16, 0⟩
/-- MGMT.SB_ID.PID [47:0] RO, reset From record. Provisional ID (Table 17-2) -/
def MGMT.SB_ID.PID : Fld := ⟨16, 0x1000018, 0, 48, 0⟩
/-- MGMT.SB_ID.BCR [55:48] RO, reset 0x06. Table 17-2 -/
def MGMT.SB_ID.BCR : Fld := ⟨16, 0x1000018, 48, 8, 0x06⟩
/-- MGMT.SB_ID.DCR [63:56] RO, reset 0x00. Table 17-2 -/
def MGMT.SB_ID.DCR : Fld := ⟨16, 0x1000018, 56, 8, 0x00⟩
/-- MGMT.SB_STATUS.DYN_ADDR [6:0] RO, reset 0. Dynamic address -/
def MGMT.SB_STATUS.DYN_ADDR : Fld := ⟨16, 0x1000020, 0, 7, 0⟩
/-- MGMT.SB_STATUS.ADDR_VALID [7:7] RO, reset 0. 1: assigned -/
def MGMT.SB_STATUS.ADDR_VALID : Fld := ⟨16, 0x1000020, 7, 1, 0⟩
/-- MGMT.SB_STATUS.STATIC_ADDR [14:8] RO, reset From straps. Table 17-2 -/
def MGMT.SB_STATUS.STATIC_ADDR : Fld := ⟨16, 0x1000020, 8, 7, 0⟩
/-- MGMT.SB_STATUS.EID [23:16] RO, reset 0. Endpoint ID -/
def MGMT.SB_STATUS.EID : Fld := ⟨16, 0x1000020, 16, 8, 0⟩
/-- MGMT.SB_STATUS.EID_VALID [24:24] RO, reset 0. 1: assigned -/
def MGMT.SB_STATUS.EID_VALID : Fld := ⟨16, 0x1000020, 24, 1, 0⟩
/-- MGMT.SB_STATUS.OUTSTANDING [28:25] RO, reset 0. Commands outstanding, 0–8 -/
def MGMT.SB_STATUS.OUTSTANDING : Fld := ⟨16, 0x1000020, 25, 4, 0⟩
/-- MGMT.SB_COUNT.COMMANDS [15:0] RC, reset 0. Command messages, saturating -/
def MGMT.SB_COUNT.COMMANDS : Fld := ⟨16, 0x1000028, 0, 16, 0⟩
/-- MGMT.SB_COUNT.WINDOW [31:16] RC, reset 0. Window messages, saturating -/
def MGMT.SB_COUNT.WINDOW : Fld := ⟨16, 0x1000028, 16, 16, 0⟩
/-- MGMT.SB_COUNT.PLDM [47:32] RC, reset 0. PLDM messages, saturating -/
def MGMT.SB_COUNT.PLDM : Fld := ⟨16, 0x1000028, 32, 16, 0⟩
/-- MGMT.SB_COUNT.DROPPED [63:48] RC, reset 0. R395, saturating -/
def MGMT.SB_COUNT.DROPPED : Fld := ⟨16, 0x1000028, 48, 16, 0⟩
/-- MGMT.RM_CTL.SILENCE_S [15:0] RW, reset 0x000A. 1–3,600 s. Other values are ignored -/
def MGMT.RM_CTL.SILENCE_S : Fld := ⟨16, 0x1000030, 0, 16, 0x000A⟩
/-- MGMT.LOCATE.LOCATE [0:0] RW, reset 0. R409 -/
def MGMT.LOCATE.LOCATE : Fld := ⟨16, 0x1000038, 0, 1, 0⟩
/-- DISC.INPUTS.LEVEL [7:0] RO, reset 0. Bit i set: input i filtered asserted -/
def DISC.INPUTS.LEVEL : Fld := ⟨15, 0xf00000, 0, 8, 0⟩
/-- DISC.INPUTS.CHATTER [15:8] W1C, reset 0. Bit i set: CHATTER latched. Clears under R402 -/
def DISC.INPUTS.CHATTER : Fld := ⟨15, 0xf00000, 8, 8, 0⟩
/-- DISC.INPUTS.STUCK [23:16] RO, reset 0. Bit i set: STUCK (R403) -/
def DISC.INPUTS.STUCK : Fld := ⟨15, 0xf00000, 16, 8, 0⟩
/-- DISC.INPUTS.EFFECTIVE [31:24] RO, reset 0. Bit i set: effectively asserted (R401) -/
def DISC.INPUTS.EFFECTIVE : Fld := ⟨15, 0xf00000, 24, 8, 0⟩
/-- DISC.OUTPUTS.FAULT [0:0] RO, reset 0. FAULT_N asserted -/
def DISC.OUTPUTS.FAULT : Fld := ⟨15, 0xf00008, 0, 1, 0⟩
/-- DISC.OUTPUTS.THERM_TRIP [1:1] RO, reset 0. THERM_TRIP_N asserted -/
def DISC.OUTPUTS.THERM_TRIP : Fld := ⟨15, 0xf00008, 1, 1, 0⟩
/-- DISC.OUTPUTS.DRAINED [2:2] RO, reset 0. DRAINED asserted -/
def DISC.OUTPUTS.DRAINED : Fld := ⟨15, 0xf00008, 2, 1, 0⟩
/-- DISC.OUTPUTS.LED [5:3] RO, reset 0. Pattern of R409, 1–5. 0 before Bimon runs -/
def DISC.OUTPUTS.LED : Fld := ⟨15, 0xf00008, 3, 3, 0⟩
/-- DISC.FAULT_CAUSE.MODULE_FAILED [0:0] RO, reset 0. A stock class failed the module (Table 1-5) -/
def DISC.FAULT_CAUSE.MODULE_FAILED : Fld := ⟨15, 0xf00010, 0, 1, 0⟩
/-- DISC.FAULT_CAUSE.EPO [1:1] RO, reset 0. R404 -/
def DISC.FAULT_CAUSE.EPO : Fld := ⟨15, 0xf00010, 1, 1, 0⟩
/-- DISC.FAULT_CAUSE.THERM_TRIP [2:2] RO, reset 0. 115 °C reached -/
def DISC.FAULT_CAUSE.THERM_TRIP : Fld := ⟨15, 0xf00010, 2, 1, 0⟩
/-- DISC.FAULT_CAUSE.RECORD_INVALID [3:3] RO, reset 0. Configuration record failed its signature (Boot, identity and attestation) -/
def DISC.FAULT_CAUSE.RECORD_INVALID : Fld := ⟨15, 0xf00010, 3, 1, 0⟩
/-- DISC.FAULT_CAUSE.BIMON_FAILED [4:4] RO, reset 0. R392 -/
def DISC.FAULT_CAUSE.BIMON_FAILED : Fld := ⟨15, 0xf00010, 4, 1, 0⟩
/-- DISC.EVENT_CTL.VECTOR [10:0] RW, reset 0. MSI-X vector raised when any bit of DISC.INPUTS changes -/
def DISC.EVENT_CTL.VECTOR (h : Nat) : Fld := ⟨15, 0xf00018 + 0x8 * h, 0, 11, 0⟩
/-- DISC.EVENT_CTL.ENABLE [11:11] RW, reset 0. 1: the vector is raised -/
def DISC.EVENT_CTL.ENABLE (h : Nat) : Fld := ⟨15, 0xf00018 + 0x8 * h, 11, 1, 0⟩
/-- DISC.IN_LOG.TRANSITIONS [31:0] RC, reset 0. Filtered transitions since last read, saturating -/
def DISC.IN_LOG.TRANSITIONS (i : Nat) : Fld := ⟨15, 0xf00100 + 0x8 * i, 0, 32, 0⟩
/-- DISC.IN_LOG.LAST_MS [63:32] RO, reset 0. Time base in ms, low 32 bits, of the last filtered change -/
def DISC.IN_LOG.LAST_MS (i : Nat) : Fld := ⟨15, 0xf00100 + 0x8 * i, 32, 32, 0⟩
/-- PWR.CAPS.CAP_MAX [12:0] RO, reset 0x1518. 5,400 W -/
def PWR.CAPS.CAP_MAX : Fld := ⟨13, 0xd00000, 0, 13, 0x1518⟩
/-- PWR.CAPS.CAP_MIN [25:13] RO, reset 0x0960. 2,400 W -/
def PWR.CAPS.CAP_MIN : Fld := ⟨13, 0xd00000, 13, 13, 0x0960⟩
/-- PWR.CAPS.VCODE_MAX [37:32] RO, reset 0x38. 0.90 V -/
def PWR.CAPS.VCODE_MAX : Fld := ⟨13, 0xd00000, 32, 6, 0x38⟩
/-- PWR.CAPS.PHASE_ENTRIES [44:38] RO, reset 0x40. 64 -/
def PWR.CAPS.PHASE_ENTRIES : Fld := ⟨13, 0xd00000, 38, 7, 0x40⟩
/-- PWR.CAP.WATTS [12:0] RW, reset 0x1518. CAP. A value outside 2,400–5,400 is ignored -/
def PWR.CAP.WATTS : Fld := ⟨13, 0xd00008, 0, 13, 0x1518⟩
/-- PWR.LIMIT_NOW.LIMIT_W [12:0] RO, reset 0x1518. L (R419) -/
def PWR.LIMIT_NOW.LIMIT_W : Fld := ⟨13, 0xd00010, 0, 13, 0x1518⟩
/-- PWR.LIMIT_NOW.COOLANT [13:13] RO, reset 0. c = 0.5 -/
def PWR.LIMIT_NOW.COOLANT : Fld := ⟨13, 0xd00010, 13, 1, 0⟩
/-- PWR.LIMIT_NOW.THERMAL [14:14] RO, reset 0. t = 0.7 -/
def PWR.LIMIT_NOW.THERMAL : Fld := ⟨13, 0xd00010, 14, 1, 0⟩
/-- PWR.LIMIT_NOW.PWARN [15:15] RO, reset 0. Minimum pace in force -/
def PWR.LIMIT_NOW.PWARN : Fld := ⟨13, 0xd00010, 15, 1, 0⟩
/-- PWR.LIMIT_NOW.MODULE_W [28:16] RO, reset 0. Input power of the last tick, W -/
def PWR.LIMIT_NOW.MODULE_W : Fld := ⟨13, 0xd00010, 16, 13, 0⟩
/-- PWR.LIMIT_NOW.OTHER_W [41:29] RO, reset 0. o of R420, W -/
def PWR.LIMIT_NOW.OTHER_W : Fld := ⟨13, 0xd00010, 29, 13, 0⟩
/-- PWR.LEARN_CTL.ENABLE [0:0] RW, reset 1. R424 -/
def PWR.LEARN_CTL.ENABLE : Fld := ⟨13, 0xd00018, 0, 1, 1⟩
/-- PWR.LEARN_CTL.STALL_HIGH [17:8] RW, reset 0x0C8. Per mille, 200 -/
def PWR.LEARN_CTL.STALL_HIGH : Fld := ⟨13, 0xd00018, 8, 10, 0x0C8⟩
/-- PWR.LEARN_CTL.STALL_LOW [27:18] RW, reset 0x032. Per mille, 50. A write that leaves STALL_LOW at or above STALL_HIGH is ignored -/
def PWR.LEARN_CTL.STALL_LOW : Fld := ⟨13, 0xd00018, 18, 10, 0x032⟩
/-- PWR.LEARN_CTL.V_MAX [33:28] RW, reset 0x38. Voltage code. A value above 56 is ignored -/
def PWR.LEARN_CTL.V_MAX : Fld := ⟨13, 0xd00018, 28, 6, 0x38⟩
/-- PWR.ENERGY.MJ [63:0] RO, reset 0. Since power-on -/
def PWR.ENERGY.MJ : Fld := ⟨13, 0xd00020, 0, 64, 0⟩
/-- PWR.JOB_ENERGY.MJ [63:0] RO, reset 0. R429 -/
def PWR.JOB_ENERGY.MJ : Fld := ⟨13, 0xd00028, 0, 64, 0⟩
/-- PWR.THERM.HOTTEST [9:0] RO, reset 0. Hottest reading, 0.25 °C units -/
def PWR.THERM.HOTTEST : Fld := ⟨13, 0xd00030, 0, 10, 0⟩
/-- PWR.THERM.SENSOR [15:10] RO, reset 0. Its PLDM sensor ID -/
def PWR.THERM.SENSOR : Fld := ⟨13, 0xd00030, 10, 6, 0⟩
/-- PWR.THERM.WARN [16:16] RO, reset 0. Table 18-4 -/
def PWR.THERM.WARN : Fld := ⟨13, 0xd00030, 16, 1, 0⟩
/-- PWR.THERM.CUT [17:17] RO, reset 0. Thermal cut in force -/
def PWR.THERM.CUT : Fld := ⟨13, 0xd00030, 17, 1, 0⟩
/-- PWR.THERM.ABORT_ZONE [18:18] RO, reset 0. A reading at or above 108 °C -/
def PWR.THERM.ABORT_ZONE : Fld := ⟨13, 0xd00030, 18, 1, 0⟩
/-- PWR.THERM.SENSOR_FAIL [19:19] RO, reset 0. R426 -/
def PWR.THERM.SENSOR_FAIL : Fld := ⟨13, 0xd00030, 19, 1, 0⟩
/-- PWR.THERM.WARNINGS [35:20] RC, reset 0. Warnings since last read, saturating -/
def PWR.THERM.WARNINGS : Fld := ⟨13, 0xd00030, 20, 16, 0⟩
/-- PWR.THERM.CUTS [51:36] RC, reset 0. Thermal cuts, saturating -/
def PWR.THERM.CUTS : Fld := ⟨13, 0xd00030, 36, 16, 0⟩
/-- PWR.COLL_WAIT.NS [63:0] RC, reset 0. R421, saturating -/
def PWR.COLL_WAIT.NS : Fld := ⟨13, 0xd00038, 0, 64, 0⟩
/-- PWR.EVENTS.LIMITED_TICKS [15:0] RC, reset 0. Ticks in which any die's limit bound, saturating -/
def PWR.EVENTS.LIMITED_TICKS : Fld := ⟨13, 0xd00040, 0, 16, 0⟩
/-- PWR.EVENTS.PHASE_FAILS [31:16] RC, reset 0. R416, saturating -/
def PWR.EVENTS.PHASE_FAILS : Fld := ⟨13, 0xd00040, 16, 16, 0⟩
/-- PWR.EVENTS.COOL_ALARMS [47:32] RC, reset 0. Saturating -/
def PWR.EVENTS.COOL_ALARMS : Fld := ⟨13, 0xd00040, 32, 16, 0⟩
/-- PWR.EVENTS.PWARNS [63:48] RC, reset 0. Saturating -/
def PWR.EVENTS.PWARNS : Fld := ⟨13, 0xd00040, 48, 16, 0⟩
/-- PWR.DIE_STATUS.VCODE [5:0] RO, reset 0. Rail voltage now -/
def PWR.DIE_STATUS.VCODE (d : Nat) : Fld := ⟨13, 0xd00100 + 0x8 * d, 0, 6, 0⟩
/-- PWR.DIE_STATUS.SLEWING [6:6] RO, reset 0. 1: the rail is moving -/
def PWR.DIE_STATUS.SLEWING (d : Nat) : Fld := ⟨13, 0xd00100 + 0x8 * d, 6, 1, 0⟩
/-- PWR.DIE_STATUS.LIMITED [7:7] RO, reset 0. 1: the die's limit binds now -/
def PWR.DIE_STATUS.LIMITED (d : Nat) : Fld := ⟨13, 0xd00100 + 0x8 * d, 7, 1, 0⟩
/-- PWR.DIE_STATUS.PACE [14:8] RO, reset 0x40. 1–64 -/
def PWR.DIE_STATUS.PACE (d : Nat) : Fld := ⟨13, 0xd00100 + 0x8 * d, 8, 7, 0x40⟩
/-- PWR.DIE_STATUS.STEP_MHZ [27:16] RO, reset 0. Step monitor (R28), M steps/s -/
def PWR.DIE_STATUS.STEP_MHZ (d : Nat) : Fld := ⟨13, 0xd00100 + 0x8 * d, 16, 12, 0⟩
/-- PWR.DIE_STATUS.POWER_W [38:28] RO, reset 0. VCDn power, 10 µs average -/
def PWR.DIE_STATUS.POWER_W (d : Nat) : Fld := ⟨13, 0xd00100 + 0x8 * d, 28, 11, 0⟩
/-- PWR.DIE_STATUS.LIMIT_W [49:39] RO, reset 0. Die limit (R418) -/
def PWR.DIE_STATUS.LIMIT_W (d : Nat) : Fld := ⟨13, 0xd00100 + 0x8 * d, 39, 11, 0⟩
/-- PWR.DIE_STATUS.PHASES [54:50] RO, reset From record. Active power-stage phases -/
def PWR.DIE_STATUS.PHASES (d : Nat) : Fld := ⟨13, 0xd00100 + 0x8 * d, 50, 5, 22⟩
/-- PWR.DIE_STATUS.TAG [60:55] RO, reset 0. Phase now -/
def PWR.DIE_STATUS.TAG (d : Nat) : Fld := ⟨13, 0xd00100 + 0x8 * d, 55, 6, 0⟩
/-- PWR.DIE_ENERGY.MJ [63:0] RO, reset 0. VCDn energy since power-on -/
def PWR.DIE_ENERGY.MJ (d : Nat) : Fld := ⟨13, 0xd00200 + 0x8 * d, 0, 64, 0⟩
/-- PWR.PHASE.VCODE [5:0] RO, reset 0x1A; 0 for tags 0 and 4. Entry voltage -/
def PWR.PHASE.VCODE (n : Nat) : Fld := ⟨13, 0xd00400 + 0x8 * n, 0, 6, (if n = 0 then 0 else if n = 4 then 0 else 0x1A)⟩
/-- PWR.PHASE.LEARNT [6:6] RO, reset 0. 1: changed by R424 since reset or FORGET -/
def PWR.PHASE.LEARNT (n : Nat) : Fld := ⟨13, 0xd00400 + 0x8 * n, 6, 1, 0⟩
/-- PWR.PHASE.TICKS [31:16] RO, reset 0. Ticks the phase has governed a die, saturating -/
def PWR.PHASE.TICKS (n : Nat) : Fld := ⟨13, 0xd00400 + 0x8 * n, 16, 16, 0⟩
/-- PWR.PHASE.STALL [41:32] RO, reset 0. s at the last update, per mille -/
def PWR.PHASE.STALL (n : Nat) : Fld := ⟨13, 0xd00400 + 0x8 * n, 32, 10, 0⟩
/-- CLK.CAPS.DOMAINS [6:0] RO, reset 0x64. 100 -/
def CLK.CAPS.DOMAINS : Fld := ⟨14, 0xe00000, 0, 7, 0x64⟩
/-- CLK.CAPS.ROOT_MHZ [20:8] RO, reset 0x1900. 6,400 -/
def CLK.CAPS.ROOT_MHZ : Fld := ⟨14, 0xe00000, 8, 13, 0x1900⟩
/-- CLK.CAPS.INT_MHZ [28:21] RO, reset 0xC8. 200 -/
def CLK.CAPS.INT_MHZ : Fld := ⟨14, 0xe00000, 21, 8, 0xC8⟩
/-- CLK.CAPS.WINDOW_US [35:29] RO, reset 0x0A. 10 -/
def CLK.CAPS.WINDOW_US : Fld := ⟨14, 0xe00000, 29, 7, 0x0A⟩
/-- CLK.CAPS.LIMIT_PM [45:36] RO, reset 0x014. Deviation limit, 20 per mille -/
def CLK.CAPS.LIMIT_PM : Fld := ⟨14, 0xe00000, 36, 10, 0x014⟩
/-- CLK.CTL.AUTO_RETURN [0:0] RW, reset 1. R441 -/
def CLK.CTL.AUTO_RETURN : Fld := ⟨14, 0xe00008, 0, 1, 1⟩
/-- CLK.ROOT.LOCKED [0:0] RO, reset 0. PLL lock -/
def CLK.ROOT.LOCKED : Fld := ⟨14, 0xe00010, 0, 1, 0⟩
/-- CLK.ROOT.READY [1:1] RO, reset 0. R437 -/
def CLK.ROOT.READY : Fld := ⟨14, 0xe00010, 1, 1, 0⟩
/-- CLK.ROOT.REF_FAILED [2:2] RO, reset 0. A reference failure in force -/
def CLK.ROOT.REF_FAILED : Fld := ⟨14, 0xe00010, 2, 1, 0⟩
/-- CLK.ROOT.INT_COUNT [31:16] RO, reset 0. INT cycles in the last REFCLK window, nominally 2,000 -/
def CLK.ROOT.INT_COUNT : Fld := ⟨14, 0xe00010, 16, 16, 0⟩
/-- CLK.INT.READY [0:0] RO, reset 0. R437 -/
def CLK.INT.READY : Fld := ⟨14, 0xe00018, 0, 1, 0⟩
/-- CLK.INT.FAILED [1:1] RO, reset 0. Halves disagree -/
def CLK.INT.FAILED : Fld := ⟨14, 0xe00018, 1, 1, 0⟩
/-- CLK.INT.OFFSET_PPM [23:8] RO, reset 0. INT against REFCLK at the last window, signed ppm -/
def CLK.INT.OFFSET_PPM : Fld := ⟨14, 0xe00018, 8, 16, 0⟩
/-- CLK.EVENTS.REF_FAILS [15:0] RC, reset 0. Reference failures, saturating -/
def CLK.EVENTS.REF_FAILS : Fld := ⟨14, 0xe00020, 0, 16, 0⟩
/-- CLK.EVENTS.DOM_FAILS [31:16] RC, reset 0. Domain failures, saturating -/
def CLK.EVENTS.DOM_FAILS : Fld := ⟨14, 0xe00020, 16, 16, 0⟩
/-- CLK.EVENTS.SWITCHES [47:32] RC, reset 0. Source changes, saturating -/
def CLK.EVENTS.SWITCHES : Fld := ⟨14, 0xe00020, 32, 16, 0⟩
/-- CLK.EVENTS.REFUSED [63:48] RC, reset 0. Switches refused under R437, saturating -/
def CLK.EVENTS.REFUSED : Fld := ⟨14, 0xe00020, 48, 16, 0⟩
/-- CLK.DOM.DIVISOR [9:0] RO, reset Table 19-1. D -/
def CLK.DOM.DIVISOR (i : Nat) : Fld := ⟨14, 0xe00100 + 0x8 * i, 0, 10, (clkDivisor i)⟩
/-- CLK.DOM.SOURCE [10:10] RO, reset 1 for i = 90–99, else 0. 0 ROOT, 1 INT -/
def CLK.DOM.SOURCE (i : Nat) : Fld := ⟨14, 0xe00100 + 0x8 * i, 10, 1, (if 90 ≤ i then 1 else 0)⟩
/-- CLK.DOM.INT_OK [11:11] RO, reset Table 19-1. 1: INT permitted -/
def CLK.DOM.INT_OK (i : Nat) : Fld := ⟨14, 0xe00100 + 0x8 * i, 11, 1, (clkIntOk i)⟩
/-- CLK.DOM.GATED [12:12] RO, reset 1 for i = 97, 98, else 0. R442 -/
def CLK.DOM.GATED (i : Nat) : Fld := ⟨14, 0xe00100 + 0x8 * i, 12, 1, (if i = 97 then 1 else if i = 98 then 1 else 0)⟩
/-- CLK.DOM.FAILED [13:13] W1C, reset 0. The domain's own failure -/
def CLK.DOM.FAILED (i : Nat) : Fld := ⟨14, 0xe00100 + 0x8 * i, 13, 1, 0⟩
/-- CLK.DOM.STOPPED [14:14] RO, reset 0. No permitted source READY -/
def CLK.DOM.STOPPED (i : Nat) : Fld := ⟨14, 0xe00100 + 0x8 * i, 14, 1, 0⟩
/-- CLK.DOM.COUNT [31:16] RO, reset 0. Count in the last window -/
def CLK.DOM.COUNT (i : Nat) : Fld := ⟨14, 0xe00100 + 0x8 * i, 16, 16, 0⟩
/-- CLK.DOM.EXPECT [47:32] RO, reset Rate × 10 µs. Expected count -/
def CLK.DOM.EXPECT (i : Nat) : Fld := ⟨14, 0xe00100 + 0x8 * i, 32, 16, (64000 / clkDivisor i)⟩
/-- CLK.CORE_EN.EN [33:0] RO, reset From record. Bit c: physical core c's handshakes open -/
def CLK.CORE_EN.EN (d : Nat) : Fld := ⟨14, 0xe00800 + 0x8 * d, 0, 34, 0xFFFF_FFFF⟩
/-- CLK.BANK_EN.EN [63:0] RO, reset From record. Bit b: SRAM bank 64w + b open. For w = 4, only [31:0] are used -/
def CLK.BANK_EN.EN (d w : Nat) : Fld := ⟨14, 0xe00900 + 0x28 * d + 0x8 * w, 0, 64, (if w < 4 then 0xFFFF_FFFF_FFFF_FFFF else 0)⟩
/-- CLK.MISC_EN.CTRL_CORES [4:0] RO, reset From record. Embedded control cores -/
def CLK.MISC_EN.CTRL_CORES : Fld := ⟨14, 0xe00a00, 0, 5, 0x0F⟩
/-- CLK.MISC_EN.DIGEST [14:5] RO, reset From record. Digest engines 0–9 -/
def CLK.MISC_EN.DIGEST : Fld := ⟨14, 0xe00a00, 5, 10, 0x1EF⟩
/-- CLK.PHASE_EN.EN [23:0] RO, reset From record. Power-stage phases of VCDr -/
def CLK.PHASE_EN.EN (r : Nat) : Fld := ⟨14, 0xe00a08 + 0x8 * r, 0, 24, 0x3F_FFFF⟩
/-- SEC.CAPS.STAGES [3:0] RO, reset 0x5. Measured stages, at most -/
def SEC.CAPS.STAGES : Fld := ⟨18, 0x1200000, 0, 4, 0x5⟩
/-- SEC.CAPS.IMAGE_TYPES [7:4] RO, reset 0x3. 3 -/
def SEC.CAPS.IMAGE_TYPES : Fld := ⟨18, 0x1200000, 4, 4, 0x3⟩
/-- SEC.CAPS.BANK_MIB [15:8] RO, reset 0x20. 32 MiB -/
def SEC.CAPS.BANK_MIB : Fld := ⟨18, 0x1200000, 8, 8, 0x20⟩
/-- SEC.CAPS.BLOCK [31:16] RO, reset 0x1000. Reservation block, 4,096 -/
def SEC.CAPS.BLOCK : Fld := ⟨18, 0x1200000, 16, 16, 0x1000⟩
/-- SEC.CAPS.SIGN_RATE [47:32] RO, reset 0x03E8. Signatures per second -/
def SEC.CAPS.SIGN_RATE : Fld := ⟨18, 0x1200000, 32, 16, 0x03E8⟩
/-- SEC.STATUS.OWNER [0:0] RO, reset From boot. 1: owner enrolled -/
def SEC.STATUS.OWNER : Fld := ⟨18, 0x1200008, 0, 1, 0⟩
/-- SEC.STATUS.RECORD_OK [1:1] RO, reset From boot. 1: a record qualified (R463) -/
def SEC.STATUS.RECORD_OK : Fld := ⟨18, 0x1200008, 1, 1, 0⟩
/-- SEC.STATUS.MEASURED [4:2] RO, reset From boot. Stages in the chain -/
def SEC.STATUS.MEASURED : Fld := ⟨18, 0x1200008, 2, 3, 0⟩
/-- SEC.STATUS.EXHAUSTED [5:5] RO, reset 0. 1: identity indices exhausted -/
def SEC.STATUS.EXHAUSTED : Fld := ⟨18, 0x1200008, 5, 1, 0⟩
/-- SEC.SIG_NEXT.NEXT [39:0] RO, reset From boot. R456 -/
def SEC.SIG_NEXT.NEXT : Fld := ⟨18, 0x1200010, 0, 40, 0⟩
/-- SEC.SIG_RESERVED.RESERVED [39:0] RO, reset From boot. R456 -/
def SEC.SIG_RESERVED.RESERVED : Fld := ⟨18, 0x1200018, 0, 40, 0⟩
/-- SEC.EVENTS.SIGNATURES [15:0] RC, reset 0. Identity signatures, saturating -/
def SEC.EVENTS.SIGNATURES : Fld := ⟨18, 0x1200020, 0, 16, 0⟩
/-- SEC.EVENTS.AUTH_FAILS [31:16] RC, reset 0. R461, saturating -/
def SEC.EVENTS.AUTH_FAILS : Fld := ⟨18, 0x1200020, 16, 16, 0⟩
/-- SEC.EVENTS.STAGE_FAILS [47:32] RC, reset 0. FINALs that failed, saturating -/
def SEC.EVENTS.STAGE_FAILS : Fld := ⟨18, 0x1200020, 32, 16, 0⟩
/-- SEC.RECORD.SEQ [31:0] RO, reset From boot. Record in force -/
def SEC.RECORD.SEQ : Fld := ⟨18, 0x1200028, 0, 32, 0⟩
/-- SEC.RECORD.COPY [32:32] RO, reset From boot. Copy loaded -/
def SEC.RECORD.COPY : Fld := ⟨18, 0x1200028, 32, 1, 0⟩
/-- SEC.RECORD.REWRITES [48:33] RC, reset 0. Saturating -/
def SEC.RECORD.REWRITES : Fld := ⟨18, 0x1200028, 33, 16, 0⟩
/-- SEC.FW_STATE.ACTIVE_BANK [0:0] RO, reset From boot. Bank running -/
def SEC.FW_STATE.ACTIVE_BANK (t : Nat) : Fld := ⟨18, 0x1200100 + 0x8 * t, 0, 1, 0⟩
/-- SEC.FW_STATE.BOOT_BANK [1:1] RO, reset From boot. Bank for the next boot -/
def SEC.FW_STATE.BOOT_BANK (t : Nat) : Fld := ⟨18, 0x1200100 + 0x8 * t, 1, 1, 0⟩
/-- SEC.FW_STATE.STAGED [3:2] RO, reset 0. Other bank: 0 EMPTY, 1 LOADING, 2 VERIFIED, 3 FAILED -/
def SEC.FW_STATE.STAGED (t : Nat) : Fld := ⟨18, 0x1200100 + 0x8 * t, 2, 2, 0⟩
/-- SEC.FW_STATE.FELL_BACK [4:4] RO, reset From boot. R449 -/
def SEC.FW_STATE.FELL_BACK (t : Nat) : Fld := ⟨18, 0x1200100 + 0x8 * t, 4, 1, 0⟩
/-- SEC.FW_STATE.COMMIT_PENDING [5:5] RO, reset 0. R454 -/
def SEC.FW_STATE.COMMIT_PENDING (t : Nat) : Fld := ⟨18, 0x1200100 + 0x8 * t, 5, 1, 0⟩
/-- SEC.FW_STATE.SVN [31:16] RO, reset From boot. Running image -/
def SEC.FW_STATE.SVN (t : Nat) : Fld := ⟨18, 0x1200100 + 0x8 * t, 16, 16, 0⟩
/-- SEC.FW_STATE.FLOOR [47:32] RO, reset From boot. R454 -/
def SEC.FW_STATE.FLOOR (t : Nat) : Fld := ⟨18, 0x1200100 + 0x8 * t, 32, 16, 0⟩
/-- SEC.FW_VERSION.RUNNING [31:0] RO, reset From boot. VERSION of the running image -/
def SEC.FW_VERSION.RUNNING (t : Nat) : Fld := ⟨18, 0x1200180 + 0x8 * t, 0, 32, 0⟩
/-- SEC.FW_VERSION.STAGED [63:32] RO, reset 0. VERSION of a VERIFIED bank, otherwise 0 -/
def SEC.FW_VERSION.STAGED (t : Nat) : Fld := ⟨18, 0x1200180 + 0x8 * t, 32, 32, 0⟩
/-- SEC.CHAIN.BYTES [63:0] RO, reset From boot. Bytes 8k to 8k + 7 of the chain -/
def SEC.CHAIN.BYTES (k : Nat) : Fld := ⟨18, 0x1200200 + 0x8 * k, 0, 64, 0⟩
/-- SEC.REPORT_DATA.DATA [63:0] RO, reset 0. The next 8 bytes of buffer h. Each read advances. Zero beyond the end. Restarts when an ATTEST of source h completes -/
def SEC.REPORT_DATA.DATA (h : Nat) : Fld := ⟨18, 0x1200300 + 0x8 * h, 0, 64, 0⟩
/-- SCORE.CAPS.RING [15:0] RO, reset 0x2000. 8,192 records -/
def SCORE.CAPS.RING : Fld := ⟨17, 0x1100000, 0, 16, 0x2000⟩
/-- SCORE.CAPS.FLASH [39:16] RO, reset 0x20_0000. 2,097,152 records -/
def SCORE.CAPS.FLASH : Fld := ⟨17, 0x1100000, 16, 24, 0x20_0000⟩
/-- SCORE.STATUS.GEN [31:0] RO, reset 0. R474 -/
def SCORE.STATUS.GEN : Fld := ⟨17, 0x1100008, 0, 32, 0⟩
/-- SCORE.STATUS.UNFLUSHED [45:32] RO, reset 0. Records not yet in flash -/
def SCORE.STATUS.UNFLUSHED : Fld := ⟨17, 0x1100008, 32, 14, 0⟩
/-- SCORE.STATUS.FLUSHING [46:46] RO, reset 0. 1: a flush runs -/
def SCORE.STATUS.FLUSHING : Fld := ⟨17, 0x1100008, 46, 1, 0⟩
/-- SCORE.STATUS.CLEARING [47:47] RO, reset 0. 1: a clear runs -/
def SCORE.STATUS.CLEARING : Fld := ⟨17, 0x1100008, 47, 1, 0⟩
/-- SCORE.HELD.OLDEST [31:0] RO, reset 0. Oldest SEQ held -/
def SCORE.HELD.OLDEST : Fld := ⟨17, 0x1100010, 0, 32, 0⟩
/-- SCORE.HELD.NEWEST [63:32] RO, reset 0. Newest SEQ written -/
def SCORE.HELD.NEWEST : Fld := ⟨17, 0x1100010, 32, 32, 0⟩
/-- SCORE.EVENTS.FLUSHES [15:0] RC, reset 0. Saturating -/
def SCORE.EVENTS.FLUSHES : Fld := ⟨17, 0x1100018, 0, 16, 0⟩
/-- SCORE.EVENTS.LOST [31:16] RC, reset 0. R473, saturating -/
def SCORE.EVENTS.LOST : Fld := ⟨17, 0x1100018, 16, 16, 0⟩
/-- SCORE.EVENTS.FAULTS [47:32] RC, reset 0. Fault records, saturating -/
def SCORE.EVENTS.FAULTS : Fld := ⟨17, 0x1100018, 32, 16, 0⟩
/-- SCORE.EVENT_CTL.VECTOR [10:0] RW, reset 0. MSI-X vector raised on a fault record -/
def SCORE.EVENT_CTL.VECTOR (h : Nat) : Fld := ⟨17, 0x1100020 + 0x8 * h, 0, 11, 0⟩
/-- SCORE.EVENT_CTL.ENABLE [11:11] RW, reset 0. 1: the vector is raised -/
def SCORE.EVENT_CTL.ENABLE (h : Nat) : Fld := ⟨17, 0x1100020 + 0x8 * h, 11, 1, 0⟩
/-- SCORE.READ_CURSOR.SEQ [31:0] RO, reset 0. Record at the cursor -/
def SCORE.READ_CURSOR.SEQ (h : Nat) : Fld := ⟨17, 0x1100100 + 0x8 * h, 0, 32, 0⟩
/-- SCORE.READ_CURSOR.WORD [33:32] RO, reset 0. Next word of that record -/
def SCORE.READ_CURSOR.WORD (h : Nat) : Fld := ⟨17, 0x1100100 + 0x8 * h, 32, 2, 0⟩
/-- SCORE.READ_DATA.DATA [63:0] RO, reset 0. R476 -/
def SCORE.READ_DATA.DATA (h : Nat) : Fld := ⟨17, 0x1100200 + 0x8 * h, 0, 64, 0⟩
/-- SCORE.READ_BURST.DATA [63:0] RO, reset 0. As READ_DATA of source h, whichever w is read (R476) -/
def SCORE.READ_BURST.DATA (h w : Nat) : Fld := ⟨17, 0x1100300 + 0x40 * h + 0x8 * w, 0, 64, 0⟩

end Sys2Proof.Machine
end

