-- ==== Sys2Proof/Machine/RegMap.lean ====
section
/-! DEFINITION. The register map: which register of block BLOCK an offset names (R110 and the maps of the chapters), and
the fields of each register with their access codes (Table 0-3). -/

namespace Sys2Proof.Machine

/-- Access codes of Table 0-3. -/
inductive Access where
  | ro | rw | w1c | w1s | rc | wo
deriving DecidableEq, Repr

/-- Every register of the register space, with its indices in the order of its map. -/
inductive Reg where
  | MTX_CAPS
  | MTX_TILE_LIMIT
  | MTX_MISDEAL_TOTAL
  | MTX_UNRECOVERED
  | MTX_INJECT
  | MTX_INJECT_ENABLE
  | MTX_DIE_SUMMARY (d : Nat)
  | MTX_CORE_STATUS (d c : Nat)
  | MTX_MISDEAL_CNT (d c : Nat)
  | MTX_MISDEAL_LAST (d c : Nat)
  | MTX_NUM_CAPS
  | MTX_NUM_THRESH
  | MTX_NUM_SAT_TOTAL
  | MTX_NUM_ZERO_TOTAL
  | MTX_REDEAL_TOTAL
  | MTX_NUM_NAN
  | MTX_REDEAL_DIE (d : Nat)
  | MMU_CAPS
  | MMU_FAULT_TIMEOUT
  | MMU_FAULT_COUNT
  | MMU_FAULT_RESOLVE
  | MMU_FAULT_RING_BASE (h : Nat)
  | MMU_FAULT_RING_CTL (h : Nat)
  | MMU_FAULT_RING_TAIL (h : Nat)
  | MMU_FAULT_RING_HEAD (h : Nat)
  | MMU_CTX_ROOT (c : Nat)
  | TIER_CAPS
  | TIER_MOVES
  | TIER_FWD
  | TIER_INVAL
  | TIER_CONVERT_ERR
  | TIER_REMAP_INDEX
  | TIER_HBM_STACK (s : Nat)
  | TIER_SRAM_DIE (d : Nat)
  | TIER_WINDOW (d w : Nat)
  | MOVE_CAPS
  | MOVE_TRUMP_RESERVE
  | MOVE_TOTAL
  | MOVE_STATUS (m : Nat)
  | MOVE_BYTES (m : Nat)
  | MOVE_EVENTS (m : Nat)
  | ROUTE_CAPS
  | ROUTE_ASSIGN
  | ROUTE_SKIP
  | ROUTE_EXPERT
  | ROUTE_BIAS_LOOP
  | ROUTE_SHAPE
  | ROUTE_ARRIVE_WAIT
  | SERVE_CACHE_CAPS
  | SERVE_CACHE_POOL
  | SERVE_CACHE_CTL
  | SERVE_CACHE_USE
  | SERVE_CACHE_EVENTS
  | SERVE_RING_EVENTS
  | SERVE_EVICT_BASE (h : Nat)
  | SERVE_EVICT_SLOTS (h : Nat)
  | SERVE_CAPS
  | SERVE_STEP_CTL
  | SERVE_STEPS
  | SERVE_KITTY_USE
  | SERVE_PARK_EVENTS
  | SERVE_HAND_STATE (n : Nat)
  | SERVE_KITTY_BASE (h : Nat)
  | SERVE_KITTY_SLOTS (h : Nat)
  | SERVE_SPEC_CAPS
  | SERVE_SPEC_TOTAL
  | SERVE_SPEC_STATE (n : Nat)
  | SERVE_PREFIX_CTL
  | SERVE_PREFIX_USE
  | SERVE_PREFIX_EVENTS
  | SERVE_VARIANT_USE
  | SERVE_VARIANT_EVENTS
  | SCHED_CAPS
  | SCHED_CLASS_CTL
  | SCHED_PREEMPT_STATS
  | SCHED_BUSY_TRUMP
  | SCHED_BUSY_PLAIN
  | SCHED_DIE_STATUS (d : Nat)
  | SCHED_CTX_STATE (c : Nat)
  | FAB_CAPS
  | FAB_LINK_CTL
  | FAB_REQUESTS
  | FAB_RESULT_STORE
  | FAB_HUNG
  | FAB_EPOCH
  | FAB_TIME
  | FAB_PORT_STATUS (p : Nat)
  | FAB_LINK_STATUS (l : Nat)
  | FAB_LINK_ERRORS (l : Nat)
  | FAB_FAR_CACHE (d : Nat)
  | FAB_ROUTE (c : Nat)
  | TOPO_CAPS
  | TOPO_CHIP
  | TOPO_PARTITION
  | TOPO_LOSS
  | TOPO_LOSS_TIME
  | TOPO_DRAIN
  | TOPO_EVENT_CTL (h : Nat)
  | TOPO_NB_SERIAL (p : Nat)
  | TOPO_NB_INFO (p : Nat)
  | STOCK_SELFTEST
  | STOCK_EVENTS
  | STOCK_CLASS (k g : Nat)
  | LOAD_CAPS
  | LOAD_INTAKE_CTL
  | LOAD_INTAKE
  | LOAD_RECHECK_CTL
  | LOAD_RECHECK
  | LOAD_REPAIR
  | LOAD_EVENT_CTL (h : Nat)
  | LOAD_SLOT (s : Nat)
  | LOAD_SLOT_ID (s : Nat)
  | LOAD_ENGINE (e : Nat)
  | CMD_CAPS
  | CMD_STATS
  | CMD_STRAY
  | CMD_CHAN_CTL (c : Nat)
  | CMD_CHAN_CREDIT (c : Nat)
  | CMD_CHAN_SIGNAL (c : Nat)
  | CMD_CHAN_STATUS (c : Nat)
  | CMD_RING_BASE (r : Nat)
  | CMD_RING_CTL (r : Nat)
  | CMD_RING_TAIL (r : Nat)
  | CMD_RING_HEAD (r : Nat)
  | CMD_RING_SHADOW (r : Nat)
  | HIF_CAPS
  | HIF_ID
  | HIF_SERIAL
  | HIF_PORT_STATUS (h : Nat)
  | HIF_HOST_CTL (h : Nat)
  | HIF_HOST_EVENTS (h : Nat)
  | HIF_ERRORS (h : Nat)
  | HIF_ORPHAN_ADDR (h : Nat)
  | HIF_ORPHAN_DATA (h : Nat)
  | MGMT_CAPS
  | MGMT_TICK
  | MGMT_STATUS
  | MGMT_SB_ID
  | MGMT_SB_STATUS
  | MGMT_SB_COUNT
  | MGMT_RM_CTL
  | MGMT_LOCATE
  | DISC_INPUTS
  | DISC_OUTPUTS
  | DISC_FAULT_CAUSE
  | DISC_EVENT_CTL (h : Nat)
  | DISC_IN_LOG (i : Nat)
  | PWR_CAPS
  | PWR_CAP
  | PWR_LIMIT_NOW
  | PWR_LEARN_CTL
  | PWR_ENERGY
  | PWR_JOB_ENERGY
  | PWR_THERM
  | PWR_COLL_WAIT
  | PWR_EVENTS
  | PWR_DIE_STATUS (d : Nat)
  | PWR_DIE_ENERGY (d : Nat)
  | PWR_PHASE (n : Nat)
  | CLK_CAPS
  | CLK_CTL
  | CLK_ROOT
  | CLK_INT
  | CLK_EVENTS
  | CLK_DOM (i : Nat)
  | CLK_CORE_EN (d : Nat)
  | CLK_BANK_EN (d w : Nat)
  | CLK_MISC_EN
  | CLK_PHASE_EN (r : Nat)
  | SEC_CAPS
  | SEC_STATUS
  | SEC_SIG_NEXT
  | SEC_SIG_RESERVED
  | SEC_EVENTS
  | SEC_RECORD
  | SEC_FW_STATE (t : Nat)
  | SEC_FW_VERSION (t : Nat)
  | SEC_CHAIN (k : Nat)
  | SEC_REPORT_DATA (h : Nat)
  | SCORE_CAPS
  | SCORE_STATUS
  | SCORE_HELD
  | SCORE_EVENTS
  | SCORE_EVENT_CTL (h : Nat)
  | SCORE_READ_CURSOR (h : Nat)
  | SCORE_READ_DATA (h : Nat)
  | SCORE_READ_BURST (h w : Nat)
deriving DecidableEq, Repr

/-- A row of a register map: first offset, and count and stride of each of up to two indices (an outer one first). -/
structure RegRow where
  base : Nat
  n1 : Nat
  s1 : Nat
  n2 : Nat
  s2 : Nat
  reg : Nat → Nat → Reg

/-- The register a row gives at an offset, if the offset is one of the row's (naturally aligned) registers. -/
def RegRow.at (r : RegRow) (off : Nat) : Option Reg :=
  if off < r.base then none
  else if (off - r.base) / r.s1 < r.n1 ∧ (off - r.base) % r.s1 / r.s2 < r.n2 ∧ (off - r.base) % r.s1 % r.s2 = 0 then
    some (r.reg ((off - r.base) / r.s1) ((off - r.base) % r.s1 / r.s2))
  else none

/-- The register map of block MTX. -/
def rowsMtx : List RegRow := [
  ⟨0x600000, 1, 8, 1, 8, fun _ _ => .MTX_CAPS⟩,
  ⟨0x600008, 1, 8, 1, 8, fun _ _ => .MTX_TILE_LIMIT⟩,
  ⟨0x600010, 1, 8, 1, 8, fun _ _ => .MTX_MISDEAL_TOTAL⟩,
  ⟨0x600018, 1, 8, 1, 8, fun _ _ => .MTX_UNRECOVERED⟩,
  ⟨0x600020, 1, 8, 1, 8, fun _ _ => .MTX_INJECT⟩,
  ⟨0x600028, 1, 8, 1, 8, fun _ _ => .MTX_INJECT_ENABLE⟩,
  ⟨0x600100, 8, 0x8, 1, 8, fun i _ => .MTX_DIE_SUMMARY i⟩,
  ⟨0x601000, 8, 0x200, 34, 0x8, fun i j => .MTX_CORE_STATUS i j⟩,
  ⟨0x603000, 8, 0x200, 34, 0x8, fun i j => .MTX_MISDEAL_CNT i j⟩,
  ⟨0x605000, 8, 0x200, 34, 0x8, fun i j => .MTX_MISDEAL_LAST i j⟩,
  ⟨0x608000, 1, 8, 1, 8, fun _ _ => .MTX_NUM_CAPS⟩,
  ⟨0x608008, 1, 8, 1, 8, fun _ _ => .MTX_NUM_THRESH⟩,
  ⟨0x608010, 1, 8, 1, 8, fun _ _ => .MTX_NUM_SAT_TOTAL⟩,
  ⟨0x608018, 1, 8, 1, 8, fun _ _ => .MTX_NUM_ZERO_TOTAL⟩,
  ⟨0x608020, 1, 8, 1, 8, fun _ _ => .MTX_REDEAL_TOTAL⟩,
  ⟨0x608028, 1, 8, 1, 8, fun _ _ => .MTX_NUM_NAN⟩,
  ⟨0x608100, 8, 0x8, 1, 8, fun i _ => .MTX_REDEAL_DIE i⟩]

/-- The register map of block MMU. -/
def rowsMmu : List RegRow := [
  ⟨0x300000, 1, 8, 1, 8, fun _ _ => .MMU_CAPS⟩,
  ⟨0x300008, 1, 8, 1, 8, fun _ _ => .MMU_FAULT_TIMEOUT⟩,
  ⟨0x300010, 1, 8, 1, 8, fun _ _ => .MMU_FAULT_COUNT⟩,
  ⟨0x300018, 1, 8, 1, 8, fun _ _ => .MMU_FAULT_RESOLVE⟩,
  ⟨0x300100, 2, 0x40, 1, 8, fun i _ => .MMU_FAULT_RING_BASE i⟩,
  ⟨0x300108, 2, 0x40, 1, 8, fun i _ => .MMU_FAULT_RING_CTL i⟩,
  ⟨0x300110, 2, 0x40, 1, 8, fun i _ => .MMU_FAULT_RING_TAIL i⟩,
  ⟨0x300118, 2, 0x40, 1, 8, fun i _ => .MMU_FAULT_RING_HEAD i⟩,
  ⟨0x301000, 1024, 0x8, 1, 8, fun i _ => .MMU_CTX_ROOT i⟩]

/-- The register map of block TIER. -/
def rowsTier : List RegRow := [
  ⟨0x400000, 1, 8, 1, 8, fun _ _ => .TIER_CAPS⟩,
  ⟨0x400008, 1, 8, 1, 8, fun _ _ => .TIER_MOVES⟩,
  ⟨0x400010, 1, 8, 1, 8, fun _ _ => .TIER_FWD⟩,
  ⟨0x400018, 1, 8, 1, 8, fun _ _ => .TIER_INVAL⟩,
  ⟨0x400020, 1, 8, 1, 8, fun _ _ => .TIER_CONVERT_ERR⟩,
  ⟨0x400028, 1, 8, 1, 8, fun _ _ => .TIER_REMAP_INDEX⟩,
  ⟨0x400100, 16, 0x8, 1, 8, fun i _ => .TIER_HBM_STACK i⟩,
  ⟨0x400200, 8, 0x8, 1, 8, fun i _ => .TIER_SRAM_DIE i⟩,
  ⟨0x400300, 8, 0x20, 4, 0x8, fun i j => .TIER_WINDOW i j⟩]

/-- The register map of block MOVE. -/
def rowsMove : List RegRow := [
  ⟨0x500000, 1, 8, 1, 8, fun _ _ => .MOVE_CAPS⟩,
  ⟨0x500008, 1, 8, 1, 8, fun _ _ => .MOVE_TRUMP_RESERVE⟩,
  ⟨0x500010, 1, 8, 1, 8, fun _ _ => .MOVE_TOTAL⟩,
  ⟨0x500100, 48, 0x8, 1, 8, fun i _ => .MOVE_STATUS i⟩,
  ⟨0x500400, 48, 0x8, 1, 8, fun i _ => .MOVE_BYTES i⟩,
  ⟨0x500700, 48, 0x8, 1, 8, fun i _ => .MOVE_EVENTS i⟩]

/-- The register map of block ROUTE. -/
def rowsRoute : List RegRow := [
  ⟨0x700000, 1, 8, 1, 8, fun _ _ => .ROUTE_CAPS⟩,
  ⟨0x700008, 1, 8, 1, 8, fun _ _ => .ROUTE_ASSIGN⟩,
  ⟨0x700010, 1, 8, 1, 8, fun _ _ => .ROUTE_SKIP⟩,
  ⟨0x700018, 1, 8, 1, 8, fun _ _ => .ROUTE_EXPERT⟩,
  ⟨0x700020, 1, 8, 1, 8, fun _ _ => .ROUTE_BIAS_LOOP⟩,
  ⟨0x700028, 1, 8, 1, 8, fun _ _ => .ROUTE_SHAPE⟩,
  ⟨0x700030, 1, 8, 1, 8, fun _ _ => .ROUTE_ARRIVE_WAIT⟩]

/-- The register map of block SERVE. -/
def rowsServe : List RegRow := [
  ⟨0x808000, 1, 8, 1, 8, fun _ _ => .SERVE_CACHE_CAPS⟩,
  ⟨0x808008, 1, 8, 1, 8, fun _ _ => .SERVE_CACHE_POOL⟩,
  ⟨0x808010, 1, 8, 1, 8, fun _ _ => .SERVE_CACHE_CTL⟩,
  ⟨0x808018, 1, 8, 1, 8, fun _ _ => .SERVE_CACHE_USE⟩,
  ⟨0x808020, 1, 8, 1, 8, fun _ _ => .SERVE_CACHE_EVENTS⟩,
  ⟨0x808028, 1, 8, 1, 8, fun _ _ => .SERVE_RING_EVENTS⟩,
  ⟨0x808100, 2, 0x10, 1, 8, fun i _ => .SERVE_EVICT_BASE i⟩,
  ⟨0x808108, 2, 0x10, 1, 8, fun i _ => .SERVE_EVICT_SLOTS i⟩,
  ⟨0x800000, 1, 8, 1, 8, fun _ _ => .SERVE_CAPS⟩,
  ⟨0x800008, 1, 8, 1, 8, fun _ _ => .SERVE_STEP_CTL⟩,
  ⟨0x800010, 1, 8, 1, 8, fun _ _ => .SERVE_STEPS⟩,
  ⟨0x800018, 1, 8, 1, 8, fun _ _ => .SERVE_KITTY_USE⟩,
  ⟨0x800020, 1, 8, 1, 8, fun _ _ => .SERVE_PARK_EVENTS⟩,
  ⟨0x800100, 64, 0x8, 1, 8, fun i _ => .SERVE_HAND_STATE i⟩,
  ⟨0x800400, 2, 0x10, 1, 8, fun i _ => .SERVE_KITTY_BASE i⟩,
  ⟨0x800408, 2, 0x10, 1, 8, fun i _ => .SERVE_KITTY_SLOTS i⟩,
  ⟨0x804000, 1, 8, 1, 8, fun _ _ => .SERVE_SPEC_CAPS⟩,
  ⟨0x804008, 1, 8, 1, 8, fun _ _ => .SERVE_SPEC_TOTAL⟩,
  ⟨0x804100, 64, 0x8, 1, 8, fun i _ => .SERVE_SPEC_STATE i⟩,
  ⟨0x805000, 1, 8, 1, 8, fun _ _ => .SERVE_PREFIX_CTL⟩,
  ⟨0x805008, 1, 8, 1, 8, fun _ _ => .SERVE_PREFIX_USE⟩,
  ⟨0x805010, 1, 8, 1, 8, fun _ _ => .SERVE_PREFIX_EVENTS⟩,
  ⟨0x806000, 1, 8, 1, 8, fun _ _ => .SERVE_VARIANT_USE⟩,
  ⟨0x806008, 1, 8, 1, 8, fun _ _ => .SERVE_VARIANT_EVENTS⟩]

/-- The register map of block SCHED. -/
def rowsSched : List RegRow := [
  ⟨0x200000, 1, 8, 1, 8, fun _ _ => .SCHED_CAPS⟩,
  ⟨0x200008, 1, 8, 1, 8, fun _ _ => .SCHED_CLASS_CTL⟩,
  ⟨0x200010, 1, 8, 1, 8, fun _ _ => .SCHED_PREEMPT_STATS⟩,
  ⟨0x200018, 1, 8, 1, 8, fun _ _ => .SCHED_BUSY_TRUMP⟩,
  ⟨0x200020, 1, 8, 1, 8, fun _ _ => .SCHED_BUSY_PLAIN⟩,
  ⟨0x200100, 8, 0x8, 1, 8, fun i _ => .SCHED_DIE_STATUS i⟩,
  ⟨0x201000, 1024, 0x8, 1, 8, fun i _ => .SCHED_CTX_STATE i⟩]

/-- The register map of block FAB. -/
def rowsFab : List RegRow := [
  ⟨0x900000, 1, 8, 1, 8, fun _ _ => .FAB_CAPS⟩,
  ⟨0x900008, 1, 8, 1, 8, fun _ _ => .FAB_LINK_CTL⟩,
  ⟨0x900010, 1, 8, 1, 8, fun _ _ => .FAB_REQUESTS⟩,
  ⟨0x900018, 1, 8, 1, 8, fun _ _ => .FAB_RESULT_STORE⟩,
  ⟨0x900020, 1, 8, 1, 8, fun _ _ => .FAB_HUNG⟩,
  ⟨0x900028, 1, 8, 1, 8, fun _ _ => .FAB_EPOCH⟩,
  ⟨0x900030, 1, 8, 1, 8, fun _ _ => .FAB_TIME⟩,
  ⟨0x900100, 12, 0x8, 1, 8, fun i _ => .FAB_PORT_STATUS i⟩,
  ⟨0x900200, 96, 0x8, 1, 8, fun i _ => .FAB_LINK_STATUS i⟩,
  ⟨0x900600, 96, 0x8, 1, 8, fun i _ => .FAB_LINK_ERRORS i⟩,
  ⟨0x900a00, 8, 0x8, 1, 8, fun i _ => .FAB_FAR_CACHE i⟩,
  ⟨0x901000, 4096, 0x8, 1, 8, fun i _ => .FAB_ROUTE i⟩]

/-- The register map of block TOPO. -/
def rowsTopo : List RegRow := [
  ⟨0xa00000, 1, 8, 1, 8, fun _ _ => .TOPO_CAPS⟩,
  ⟨0xa00008, 1, 8, 1, 8, fun _ _ => .TOPO_CHIP⟩,
  ⟨0xa00010, 1, 8, 1, 8, fun _ _ => .TOPO_PARTITION⟩,
  ⟨0xa00018, 1, 8, 1, 8, fun _ _ => .TOPO_LOSS⟩,
  ⟨0xa00020, 1, 8, 1, 8, fun _ _ => .TOPO_LOSS_TIME⟩,
  ⟨0xa00028, 1, 8, 1, 8, fun _ _ => .TOPO_DRAIN⟩,
  ⟨0xa00030, 2, 0x8, 1, 8, fun i _ => .TOPO_EVENT_CTL i⟩,
  ⟨0xa00100, 12, 0x8, 1, 8, fun i _ => .TOPO_NB_SERIAL i⟩,
  ⟨0xa00200, 12, 0x8, 1, 8, fun i _ => .TOPO_NB_INFO i⟩]

/-- The register map of block STOCK. -/
def rowsStock : List RegRow := [
  ⟨0xb00000, 1, 8, 1, 8, fun _ _ => .STOCK_SELFTEST⟩,
  ⟨0xb00008, 1, 8, 1, 8, fun _ _ => .STOCK_EVENTS⟩,
  ⟨0xb00100, 5, 0x40, 8, 0x8, fun i j => .STOCK_CLASS i j⟩]

/-- The register map of block LOAD. -/
def rowsLoad : List RegRow := [
  ⟨0xc00000, 1, 8, 1, 8, fun _ _ => .LOAD_CAPS⟩,
  ⟨0xc00008, 1, 8, 1, 8, fun _ _ => .LOAD_INTAKE_CTL⟩,
  ⟨0xc00010, 1, 8, 1, 8, fun _ _ => .LOAD_INTAKE⟩,
  ⟨0xc00018, 1, 8, 1, 8, fun _ _ => .LOAD_RECHECK_CTL⟩,
  ⟨0xc00020, 1, 8, 1, 8, fun _ _ => .LOAD_RECHECK⟩,
  ⟨0xc00028, 1, 8, 1, 8, fun _ _ => .LOAD_REPAIR⟩,
  ⟨0xc00030, 2, 0x8, 1, 8, fun i _ => .LOAD_EVENT_CTL i⟩,
  ⟨0xc00100, 8, 0x8, 1, 8, fun i _ => .LOAD_SLOT i⟩,
  ⟨0xc00200, 8, 0x8, 1, 8, fun i _ => .LOAD_SLOT_ID i⟩,
  ⟨0xc00300, 10, 0x8, 1, 8, fun i _ => .LOAD_ENGINE i⟩]

/-- The register map of block CMD. -/
def rowsCmd : List RegRow := [
  ⟨0x100000, 1, 8, 1, 8, fun _ _ => .CMD_CAPS⟩,
  ⟨0x100008, 1, 8, 1, 8, fun _ _ => .CMD_STATS⟩,
  ⟨0x100010, 1, 8, 1, 8, fun _ _ => .CMD_STRAY⟩,
  ⟨0x102000, 128, 0x20, 1, 8, fun i _ => .CMD_CHAN_CTL i⟩,
  ⟨0x102008, 128, 0x20, 1, 8, fun i _ => .CMD_CHAN_CREDIT i⟩,
  ⟨0x102010, 128, 0x20, 1, 8, fun i _ => .CMD_CHAN_SIGNAL i⟩,
  ⟨0x102018, 128, 0x20, 1, 8, fun i _ => .CMD_CHAN_STATUS i⟩,
  ⟨0x104000, 256, 0x40, 1, 8, fun i _ => .CMD_RING_BASE i⟩,
  ⟨0x104008, 256, 0x40, 1, 8, fun i _ => .CMD_RING_CTL i⟩,
  ⟨0x104010, 256, 0x40, 1, 8, fun i _ => .CMD_RING_TAIL i⟩,
  ⟨0x104018, 256, 0x40, 1, 8, fun i _ => .CMD_RING_HEAD i⟩,
  ⟨0x104020, 256, 0x40, 1, 8, fun i _ => .CMD_RING_SHADOW i⟩]

/-- The register map of block HIF. -/
def rowsHif : List RegRow := [
  ⟨0x0, 1, 8, 1, 8, fun _ _ => .HIF_CAPS⟩,
  ⟨0x8, 1, 8, 1, 8, fun _ _ => .HIF_ID⟩,
  ⟨0x10, 1, 8, 1, 8, fun _ _ => .HIF_SERIAL⟩,
  ⟨0x100, 2, 0x40, 1, 8, fun i _ => .HIF_PORT_STATUS i⟩,
  ⟨0x108, 2, 0x40, 1, 8, fun i _ => .HIF_HOST_CTL i⟩,
  ⟨0x110, 2, 0x40, 1, 8, fun i _ => .HIF_HOST_EVENTS i⟩,
  ⟨0x118, 2, 0x40, 1, 8, fun i _ => .HIF_ERRORS i⟩,
  ⟨0x120, 2, 0x40, 1, 8, fun i _ => .HIF_ORPHAN_ADDR i⟩,
  ⟨0x128, 2, 0x40, 1, 8, fun i _ => .HIF_ORPHAN_DATA i⟩]

/-- The register map of block MGMT. -/
def rowsMgmt : List RegRow := [
  ⟨0x1000000, 1, 8, 1, 8, fun _ _ => .MGMT_CAPS⟩,
  ⟨0x1000008, 1, 8, 1, 8, fun _ _ => .MGMT_TICK⟩,
  ⟨0x1000010, 1, 8, 1, 8, fun _ _ => .MGMT_STATUS⟩,
  ⟨0x1000018, 1, 8, 1, 8, fun _ _ => .MGMT_SB_ID⟩,
  ⟨0x1000020, 1, 8, 1, 8, fun _ _ => .MGMT_SB_STATUS⟩,
  ⟨0x1000028, 1, 8, 1, 8, fun _ _ => .MGMT_SB_COUNT⟩,
  ⟨0x1000030, 1, 8, 1, 8, fun _ _ => .MGMT_RM_CTL⟩,
  ⟨0x1000038, 1, 8, 1, 8, fun _ _ => .MGMT_LOCATE⟩]

/-- The register map of block DISC. -/
def rowsDisc : List RegRow := [
  ⟨0xf00000, 1, 8, 1, 8, fun _ _ => .DISC_INPUTS⟩,
  ⟨0xf00008, 1, 8, 1, 8, fun _ _ => .DISC_OUTPUTS⟩,
  ⟨0xf00010, 1, 8, 1, 8, fun _ _ => .DISC_FAULT_CAUSE⟩,
  ⟨0xf00018, 2, 0x8, 1, 8, fun i _ => .DISC_EVENT_CTL i⟩,
  ⟨0xf00100, 8, 0x8, 1, 8, fun i _ => .DISC_IN_LOG i⟩]

/-- The register map of block PWR. -/
def rowsPwr : List RegRow := [
  ⟨0xd00000, 1, 8, 1, 8, fun _ _ => .PWR_CAPS⟩,
  ⟨0xd00008, 1, 8, 1, 8, fun _ _ => .PWR_CAP⟩,
  ⟨0xd00010, 1, 8, 1, 8, fun _ _ => .PWR_LIMIT_NOW⟩,
  ⟨0xd00018, 1, 8, 1, 8, fun _ _ => .PWR_LEARN_CTL⟩,
  ⟨0xd00020, 1, 8, 1, 8, fun _ _ => .PWR_ENERGY⟩,
  ⟨0xd00028, 1, 8, 1, 8, fun _ _ => .PWR_JOB_ENERGY⟩,
  ⟨0xd00030, 1, 8, 1, 8, fun _ _ => .PWR_THERM⟩,
  ⟨0xd00038, 1, 8, 1, 8, fun _ _ => .PWR_COLL_WAIT⟩,
  ⟨0xd00040, 1, 8, 1, 8, fun _ _ => .PWR_EVENTS⟩,
  ⟨0xd00100, 8, 0x8, 1, 8, fun i _ => .PWR_DIE_STATUS i⟩,
  ⟨0xd00200, 8, 0x8, 1, 8, fun i _ => .PWR_DIE_ENERGY i⟩,
  ⟨0xd00400, 64, 0x8, 1, 8, fun i _ => .PWR_PHASE i⟩]

/-- The register map of block CLK. -/
def rowsClk : List RegRow := [
  ⟨0xe00000, 1, 8, 1, 8, fun _ _ => .CLK_CAPS⟩,
  ⟨0xe00008, 1, 8, 1, 8, fun _ _ => .CLK_CTL⟩,
  ⟨0xe00010, 1, 8, 1, 8, fun _ _ => .CLK_ROOT⟩,
  ⟨0xe00018, 1, 8, 1, 8, fun _ _ => .CLK_INT⟩,
  ⟨0xe00020, 1, 8, 1, 8, fun _ _ => .CLK_EVENTS⟩,
  ⟨0xe00100, 100, 0x8, 1, 8, fun i _ => .CLK_DOM i⟩,
  ⟨0xe00800, 8, 0x8, 1, 8, fun i _ => .CLK_CORE_EN i⟩,
  ⟨0xe00900, 8, 0x28, 5, 0x8, fun i j => .CLK_BANK_EN i j⟩,
  ⟨0xe00a00, 1, 8, 1, 8, fun _ _ => .CLK_MISC_EN⟩,
  ⟨0xe00a08, 8, 0x8, 1, 8, fun i _ => .CLK_PHASE_EN i⟩]

/-- The register map of block SEC. -/
def rowsSec : List RegRow := [
  ⟨0x1200000, 1, 8, 1, 8, fun _ _ => .SEC_CAPS⟩,
  ⟨0x1200008, 1, 8, 1, 8, fun _ _ => .SEC_STATUS⟩,
  ⟨0x1200010, 1, 8, 1, 8, fun _ _ => .SEC_SIG_NEXT⟩,
  ⟨0x1200018, 1, 8, 1, 8, fun _ _ => .SEC_SIG_RESERVED⟩,
  ⟨0x1200020, 1, 8, 1, 8, fun _ _ => .SEC_EVENTS⟩,
  ⟨0x1200028, 1, 8, 1, 8, fun _ _ => .SEC_RECORD⟩,
  ⟨0x1200100, 3, 0x8, 1, 8, fun i _ => .SEC_FW_STATE i⟩,
  ⟨0x1200180, 3, 0x8, 1, 8, fun i _ => .SEC_FW_VERSION i⟩,
  ⟨0x1200200, 4, 0x8, 1, 8, fun i _ => .SEC_CHAIN i⟩,
  ⟨0x1200300, 3, 0x8, 1, 8, fun i _ => .SEC_REPORT_DATA i⟩]

/-- The register map of block SCORE. -/
def rowsScore : List RegRow := [
  ⟨0x1100000, 1, 8, 1, 8, fun _ _ => .SCORE_CAPS⟩,
  ⟨0x1100008, 1, 8, 1, 8, fun _ _ => .SCORE_STATUS⟩,
  ⟨0x1100010, 1, 8, 1, 8, fun _ _ => .SCORE_HELD⟩,
  ⟨0x1100018, 1, 8, 1, 8, fun _ _ => .SCORE_EVENTS⟩,
  ⟨0x1100020, 2, 0x8, 1, 8, fun i _ => .SCORE_EVENT_CTL i⟩,
  ⟨0x1100100, 3, 0x8, 1, 8, fun i _ => .SCORE_READ_CURSOR i⟩,
  ⟨0x1100200, 3, 0x8, 1, 8, fun i _ => .SCORE_READ_DATA i⟩,
  ⟨0x1100300, 3, 0x40, 8, 0x8, fun i j => .SCORE_READ_BURST i j⟩]

/-- The map of the block that holds an offset (Table 5-3); none in a block's place means no block. -/
def blockRows (off : Nat) : List RegRow :=
  match off / 0x100000 with
  | 0 => rowsHif
  | 1 => rowsCmd
  | 2 => rowsSched
  | 3 => rowsMmu
  | 4 => rowsTier
  | 5 => rowsMove
  | 6 => rowsMtx
  | 7 => rowsRoute
  | 8 => rowsServe
  | 9 => rowsFab
  | 10 => rowsTopo
  | 11 => rowsStock
  | 12 => rowsLoad
  | 13 => rowsPwr
  | 14 => rowsClk
  | 15 => rowsDisc
  | 16 => rowsMgmt
  | 17 => rowsScore
  | 18 => rowsSec
  | _ => []

/-- The register at an offset of register space, none where no register stands there (R110). -/
def regAt (off : Nat) : Option Reg := (blockRows off).findSome? (RegRow.at · off)

/-- The fields of a register with their access codes. -/
def Reg.fields : Reg → List (Fld × Access)
  | .MTX_CAPS => [(MTX.CAPS.CORES_BUILT, .ro), (MTX.CAPS.CORES_ACTIVE_MAX, .ro), (MTX.CAPS.ARRAYS, .ro), (MTX.CAPS.ARRAY_DIM, .ro), (MTX.CAPS.PASS_MODES, .ro)]
  | .MTX_TILE_LIMIT => [(MTX.TILE_LIMIT.MAX_STEPS, .ro), (MTX.TILE_LIMIT.DRAIN, .ro), (MTX.TILE_LIMIT.WINDOW_MS, .ro)]
  | .MTX_MISDEAL_TOTAL => [(MTX.MISDEAL_TOTAL.MISDEALS, .rc), (MTX.MISDEAL_TOTAL.RETIREMENTS, .rc)]
  | .MTX_UNRECOVERED => [(MTX.UNRECOVERED.TILES, .rc)]
  | .MTX_INJECT => [(MTX.INJECT.DIE, .wo), (MTX.INJECT.CORE, .wo), (MTX.INJECT.ARRAY, .wo)]
  | .MTX_INJECT_ENABLE => [(MTX.INJECT_ENABLE.ENABLE, .rw)]
  | .MTX_DIE_SUMMARY d => [(MTX.DIE_SUMMARY.ACTIVE d, .ro), (MTX.DIE_SUMMARY.STOCK d, .ro), (MTX.DIE_SUMMARY.RETIRED d, .ro)]
  | .MTX_CORE_STATUS d c => [(MTX.CORE_STATUS.STATE d c, .ro), (MTX.CORE_STATUS.LOGICAL d c, .ro), (MTX.CORE_STATUS.ARMED d c, .ro), (MTX.CORE_STATUS.CAUSE d c, .ro)]
  | .MTX_MISDEAL_CNT d c => [(MTX.MISDEAL_CNT.ARRAY0 d c, .ro), (MTX.MISDEAL_CNT.ARRAY1 d c, .ro), (MTX.MISDEAL_CNT.ARRAY2 d c, .ro), (MTX.MISDEAL_CNT.ARRAY3 d c, .ro)]
  | .MTX_MISDEAL_LAST d c => [(MTX.MISDEAL_LAST.TIME d c, .ro), (MTX.MISDEAL_LAST.ARRAY d c, .ro)]
  | .MTX_NUM_CAPS => [(MTX.NUM_CAPS.FORMATS, .ro), (MTX.NUM_CAPS.MAX_REDEALS, .ro), (MTX.NUM_CAPS.RANKS, .ro)]
  | .MTX_NUM_THRESH => [(MTX.NUM_THRESH.SAT_SHIFT, .rw), (MTX.NUM_THRESH.ZERO_SHIFT, .rw)]
  | .MTX_NUM_SAT_TOTAL => [(MTX.NUM_SAT_TOTAL.ELEMENTS, .rc)]
  | .MTX_NUM_ZERO_TOTAL => [(MTX.NUM_ZERO_TOTAL.ELEMENTS, .rc)]
  | .MTX_REDEAL_TOTAL => [(MTX.REDEAL_TOTAL.REDEALS, .rc), (MTX.REDEAL_TOTAL.EXHAUSTED, .rc)]
  | .MTX_NUM_NAN => [(MTX.NUM_NAN.NAN_IN, .rc), (MTX.NUM_NAN.NAN_SCALE, .rc)]
  | .MTX_REDEAL_DIE d => [(MTX.REDEAL_DIE.REDEALS d, .rc)]
  | .MMU_CAPS => [(MMU.CAPS.VA_BITS, .ro), (MMU.CAPS.PA_BITS, .ro), (MMU.CAPS.PAGE_64K, .ro), (MMU.CAPS.PAGE_2M, .ro), (MMU.CAPS.TLB_ENTRIES, .ro), (MMU.CAPS.UNITS, .ro)]
  | .MMU_FAULT_TIMEOUT => [(MMU.FAULT_TIMEOUT.MS, .rw)]
  | .MMU_FAULT_COUNT => [(MMU.FAULT_COUNT.RAISED, .rc), (MMU.FAULT_COUNT.OPEN, .ro), (MMU.FAULT_COUNT.TIMED_OUT, .rc), (MMU.FAULT_COUNT.TABLE_FULL, .rc)]
  | .MMU_FAULT_RESOLVE => [(MMU.FAULT_RESOLVE.FAULT_ID, .wo), (MMU.FAULT_RESOLVE.ACTION, .wo)]
  | .MMU_FAULT_RING_BASE h => [(MMU.FAULT_RING_BASE.BASE h, .rw)]
  | .MMU_FAULT_RING_CTL h => [(MMU.FAULT_RING_CTL.LOG2_SIZE h, .rw), (MMU.FAULT_RING_CTL.ENABLE h, .rw), (MMU.FAULT_RING_CTL.VECTOR h, .rw)]
  | .MMU_FAULT_RING_TAIL h => [(MMU.FAULT_RING_TAIL.TAIL h, .ro)]
  | .MMU_FAULT_RING_HEAD h => [(MMU.FAULT_RING_HEAD.HEAD h, .rw)]
  | .MMU_CTX_ROOT c => [(MMU.CTX_ROOT.VALID c, .ro), (MMU.CTX_ROOT.ROOT c, .ro)]
  | .TIER_CAPS => [(TIER.CAPS.HBM_GIB, .ro), (TIER.CAPS.SRAM_MIB, .ro), (TIER.CAPS.FWD_ENTRIES, .ro)]
  | .TIER_MOVES => [(TIER.MOVES.PAGES, .rc), (TIER.MOVES.FORWARDS, .rc), (TIER.MOVES.ABANDONED, .rc)]
  | .TIER_FWD => [(TIER.FWD.IN_USE, .ro), (TIER.FWD.HIGH_WATER, .rc)]
  | .TIER_INVAL => [(TIER.INVAL.OUTSTANDING, .ro), (TIER.INVAL.SENT, .rc)]
  | .TIER_CONVERT_ERR => [(TIER.CONVERT_ERR.E4M3_NAN, .rc), (TIER.CONVERT_ERR.SCALE_NAN, .rc)]
  | .TIER_REMAP_INDEX => [(TIER.REMAP_INDEX.ENTRIES, .ro), (TIER.REMAP_INDEX.CAPACITY, .ro)]
  | .TIER_HBM_STACK s => [(TIER.HBM_STACK.CRC_RETRY s, .rc), (TIER.HBM_STACK.REMAPPED s, .ro), (TIER.HBM_STACK.SPARE_LEFT s, .ro), (TIER.HBM_STACK.POISONED s, .rc), (TIER.HBM_STACK.FAILED s, .ro)]
  | .TIER_SRAM_DIE d => [(TIER.SRAM_DIE.PARITY_RETRY d, .rc), (TIER.SRAM_DIE.BANKS_ACTIVE d, .ro), (TIER.SRAM_DIE.STOCK_BANKS d, .ro), (TIER.SRAM_DIE.RETIRED d, .ro), (TIER.SRAM_DIE.POISONED d, .rc)]
  | .TIER_WINDOW d w => [(TIER.WINDOW.PINNED d w, .ro), (TIER.WINDOW.PAGES d w, .ro), (TIER.WINDOW.CONTEXT d w, .ro), (TIER.WINDOW.DEALING d w, .ro)]
  | .MOVE_CAPS => [(MOVE.CAPS.MOVERS, .ro), (MOVE.CAPS.OUTSTANDING, .ro), (MOVE.CAPS.QUEUE_DEPTH, .ro), (MOVE.CAPS.CONVERTS, .ro)]
  | .MOVE_TRUMP_RESERVE => [(MOVE.TRUMP_RESERVE.SLOTS, .rw)]
  | .MOVE_TOTAL => [(MOVE.TOTAL.DESCRIPTORS, .rc), (MOVE.TOTAL.ABORTED, .rc)]
  | .MOVE_STATUS m => [(MOVE.STATUS.OUTSTANDING m, .ro), (MOVE.STATUS.PARKED m, .ro), (MOVE.STATUS.CONTEXT m, .ro), (MOVE.STATUS.QUEUE m, .ro), (MOVE.STATUS.TAG m, .ro)]
  | .MOVE_BYTES m => [(MOVE.BYTES.BYTES m, .rc)]
  | .MOVE_EVENTS m => [(MOVE.EVENTS.FAULTS m, .rc), (MOVE.EVENTS.REPLAYS m, .rc), (MOVE.EVENTS.PREEMPTS m, .rc), (MOVE.EVENTS.POISON_READS m, .rc)]
  | .ROUTE_CAPS => [(ROUTE.CAPS.MAX_EXPERTS, .ro), (ROUTE.CAPS.MAX_K, .ro), (ROUTE.CAPS.MAX_LAYERS, .ro), (ROUTE.CAPS.MAX_SHARED, .ro)]
  | .ROUTE_ASSIGN => [(ROUTE.ASSIGN.SELECTED, .rc), (ROUTE.ASSIGN.OVERFLOWED, .rc)]
  | .ROUTE_SKIP => [(ROUTE.SKIP.TOKENS, .rc), (ROUTE.SKIP.PASS_MARKERS, .rc)]
  | .ROUTE_EXPERT => [(ROUTE.EXPERT.LAUNCHED, .rc), (ROUTE.EXPERT.SKIPPED, .rc)]
  | .ROUTE_BIAS_LOOP => [(ROUTE.BIAS_LOOP.UPDATES, .rc), (ROUTE.BIAS_LOOP.BELOW_MIN, .rc), (ROUTE.BIAS_LOOP.RUNNING, .ro)]
  | .ROUTE_SHAPE => [(ROUTE.SHAPE.CLAMPED, .rc), (ROUTE.SHAPE.LOOP_MAX, .rc)]
  | .ROUTE_ARRIVE_WAIT => [(ROUTE.ARRIVE_WAIT.WAITING, .ro), (ROUTE.ARRIVE_WAIT.LONGEST_NS, .rc)]
  | .SERVE_CACHE_CAPS => [(SERVE.CACHE_CAPS.PAGE_POSITIONS, .ro), (SERVE.CACHE_CAPS.SPAN_PAGES, .ro), (SERVE.CACHE_CAPS.LATENT_BYTES, .ro), (SERVE.CACHE_CAPS.POS_BYTES, .ro), (SERVE.CACHE_CAPS.RING_MAX, .ro)]
  | .SERVE_CACHE_POOL => [(SERVE.CACHE_POOL.PAGES, .rw), (SERVE.CACHE_POOL.RESERVE, .rw)]
  | .SERVE_CACHE_CTL => [(SERVE.CACHE_CTL.EVICT_FORMAT, .rw), (SERVE.CACHE_CTL.LATENT_MODE, .rw), (SERVE.CACHE_CTL.MERGE_MAX, .rw)]
  | .SERVE_CACHE_USE => [(SERVE.CACHE_USE.FREE, .ro), (SERVE.CACHE_USE.IN_USE, .ro), (SERVE.CACHE_USE.EVICTED, .ro), (SERVE.CACHE_USE.MOVING, .ro)]
  | .SERVE_CACHE_EVENTS => [(SERVE.CACHE_EVENTS.EVICTIONS, .rc), (SERVE.CACHE_EVENTS.RETURNS, .rc), (SERVE.CACHE_EVENTS.REFUSED, .rc), (SERVE.CACHE_EVENTS.LOST, .rc)]
  | .SERVE_RING_EVENTS => [(SERVE.RING_EVENTS.RING_PASSES, .rc), (SERVE.RING_EVENTS.MERGE_PASSES, .rc)]
  | .SERVE_EVICT_BASE h => [(SERVE.EVICT_BASE.BASE h, .rw)]
  | .SERVE_EVICT_SLOTS h => [(SERVE.EVICT_SLOTS.SLOTS h, .rw), (SERVE.EVICT_SLOTS.USED h, .ro)]
  | .SERVE_CAPS => [(SERVE.CAPS.HANDS, .ro), (SERVE.CAPS.KITTY_ENTRIES, .ro), (SERVE.CAPS.CHUNK_MAX, .ro), (SERVE.CAPS.TTL_MAX, .ro)]
  | .SERVE_STEP_CTL => [(SERVE.STEP_CTL.TRUMP_PREFILL, .rw), (SERVE.STEP_CTL.PLAIN_PREFILL, .rw)]
  | .SERVE_STEPS => [(SERVE.STEPS.ASSEMBLED, .rc), (SERVE.STEPS.EMPTY, .rc), (SERVE.STEPS.TRUMP_LATE, .rc)]
  | .SERVE_KITTY_USE => [(SERVE.KITTY_USE.HELD, .ro), (SERVE.KITTY_USE.MOVING, .ro), (SERVE.KITTY_USE.LOST, .ro)]
  | .SERVE_PARK_EVENTS => [(SERVE.PARK_EVENTS.PARKS, .rc), (SERVE.PARK_EVENTS.UNPARKS, .rc), (SERVE.PARK_EVENTS.EXPIRED, .rc), (SERVE.PARK_EVENTS.LOST, .rc)]
  | .SERVE_HAND_STATE n => [(SERVE.HAND_STATE.STATE n, .ro), (SERVE.HAND_STATE.CLASS n, .ro), (SERVE.HAND_STATE.RING n, .ro), (SERVE.HAND_STATE.CONTEXT n, .ro), (SERVE.HAND_STATE.CLIENT_TAG n, .ro), (SERVE.HAND_STATE.SPANS n, .ro), (SERVE.HAND_STATE.COMMITTED n, .ro), (SERVE.HAND_STATE.PENDING n, .ro)]
  | .SERVE_KITTY_BASE h => [(SERVE.KITTY_BASE.BASE h, .rw)]
  | .SERVE_KITTY_SLOTS h => [(SERVE.KITTY_SLOTS.SLOTS h, .rw), (SERVE.KITTY_SLOTS.USED h, .ro)]
  | .SERVE_SPEC_CAPS => [(SERVE.SPEC_CAPS.MAX_DEPTH, .ro), (SERVE.SPEC_CAPS.SHRINK_STEPS, .ro), (SERVE.SPEC_CAPS.GROW_STEPS, .ro), (SERVE.SPEC_CAPS.SUSPEND_STEPS, .ro)]
  | .SERVE_SPEC_TOTAL => [(SERVE.SPEC_TOTAL.PROPOSED, .rc), (SERVE.SPEC_TOTAL.ACCEPTED, .rc)]
  | .SERVE_SPEC_STATE n => [(SERVE.SPEC_STATE.ENABLED n, .ro), (SERVE.SPEC_STATE.DEPTH n, .ro), (SERVE.SPEC_STATE.ZERO_RUN n, .ro), (SERVE.SPEC_STATE.FULL_RUN n, .ro), (SERVE.SPEC_STATE.SUSPEND n, .ro), (SERVE.SPEC_STATE.LEAD_SLOT n, .ro), (SERVE.SPEC_STATE.ATTACHED n, .ro), (SERVE.SPEC_STATE.ENTRY n, .ro), (SERVE.SPEC_STATE.VARIANT n, .ro)]
  | .SERVE_PREFIX_CTL => [(SERVE.PREFIX_CTL.INDEX_PAGES, .rw), (SERVE.PREFIX_CTL.INDEX_NOW, .ro), (SERVE.PREFIX_CTL.FORM, .ro)]
  | .SERVE_PREFIX_USE => [(SERVE.PREFIX_USE.ENTRIES, .ro), (SERVE.PREFIX_USE.PAGES, .ro), (SERVE.PREFIX_USE.REFERENCED, .ro)]
  | .SERVE_PREFIX_EVENTS => [(SERVE.PREFIX_EVENTS.LOOKUPS, .rc), (SERVE.PREFIX_EVENTS.ATTACHES, .rc), (SERVE.PREFIX_EVENTS.SKIPS, .rc), (SERVE.PREFIX_EVENTS.RECLAIMED, .rc)]
  | .SERVE_VARIANT_USE => [(SERVE.VARIANT_USE.REGISTERED, .ro), (SERVE.VARIANT_USE.BOUND, .ro)]
  | .SERVE_VARIANT_EVENTS => [(SERVE.VARIANT_EVENTS.GROUP_IMAGES, .rc), (SERVE.VARIANT_EVENTS.MISMATCH, .rc)]
  | .SCHED_CAPS => [(SCHED.CAPS.CONTEXTS, .ro), (SCHED.CAPS.PAUSE_BOUND_US, .ro)]
  | .SCHED_CLASS_CTL => [(SCHED.CLASS_CTL.SLICE_US, .rw)]
  | .SCHED_PREEMPT_STATS => [(SCHED.PREEMPT_STATS.PAUSES, .rc), (SCHED.PREEMPT_STATS.LATE, .rc), (SCHED.PREEMPT_STATS.LONGEST_NS, .rc)]
  | .SCHED_BUSY_TRUMP => [(SCHED.BUSY_TRUMP.DIE_NS, .rc)]
  | .SCHED_BUSY_PLAIN => [(SCHED.BUSY_PLAIN.DIE_NS, .rc)]
  | .SCHED_DIE_STATUS d => [(SCHED.DIE_STATUS.CONTEXT d, .ro), (SCHED.DIE_STATUS.CLASS d, .ro), (SCHED.DIE_STATUS.IDLE d, .ro), (SCHED.DIE_STATUS.TRUMP_WAITING d, .ro), (SCHED.DIE_STATUS.READY_TRUMP d, .ro), (SCHED.DIE_STATUS.READY_PLAIN d, .ro)]
  | .SCHED_CTX_STATE c => [(SCHED.CTX_STATE.LIFE c, .ro), (SCHED.CTX_STATE.OWNER c, .ro), (SCHED.CTX_STATE.CLASS c, .ro), (SCHED.CTX_STATE.RUN c, .ro), (SCHED.CTX_STATE.PAUSED c, .ro), (SCHED.CTX_STATE.PREEMPTED c, .ro), (SCHED.CTX_STATE.FAULT c, .ro), (SCHED.CTX_STATE.LAUNCHES c, .ro), (SCHED.CTX_STATE.OPEN_FAULTS c, .ro)]
  | .FAB_CAPS => [(FAB.CAPS.PORTS, .ro), (FAB.CAPS.LINKS, .ro), (FAB.CAPS.LANES_PER_PORT, .ro), (FAB.CAPS.STORE_DEPTH, .ro), (FAB.CAPS.STORE_SOURCES, .ro)]
  | .FAB_LINK_CTL => [(FAB.LINK_CTL.UNCORR_LIMIT, .rw), (FAB.LINK_CTL.REPLAY_LIMIT, .ro), (FAB.LINK_CTL.RETRY_US, .ro), (FAB.LINK_CTL.LIFETIME_US, .ro)]
  | .FAB_REQUESTS => [(FAB.REQUESTS.RETRIES, .rc), (FAB.REQUESTS.LIFETIME, .rc), (FAB.REQUESTS.NO_ROUTE, .rc), (FAB.REQUESTS.DUP_ANSWERS, .rc)]
  | .FAB_RESULT_STORE => [(FAB.RESULT_STORE.ANSWERED, .rc), (FAB.RESULT_STORE.SOURCES, .ro)]
  | .FAB_HUNG => [(FAB.HUNG.NOW, .ro), (FAB.HUNG.RELEASED, .rc), (FAB.HUNG.LONGEST_US, .rc)]
  | .FAB_EPOCH => [(FAB.EPOCH.EPOCH, .ro), (FAB.EPOCH.ABORTS, .rc)]
  | .FAB_TIME => [(FAB.TIME.OFFSET_NS, .ro), (FAB.TIME.SOURCE, .ro), (FAB.TIME.LOCKED, .ro)]
  | .FAB_PORT_STATUS p => [(FAB.PORT_STATUS.LINKS_UP p, .ro), (FAB.PORT_STATUS.STOCK_FREE p, .ro), (FAB.PORT_STATUS.STOCK_LINK p, .ro), (FAB.PORT_STATUS.STOCK_LANE p, .ro), (FAB.PORT_STATUS.PARTNER p, .ro), (FAB.PORT_STATUS.PARTNER_VALID p, .ro)]
  | .FAB_LINK_STATUS l => [(FAB.LINK_STATUS.STATE l, .ro), (FAB.LINK_STATUS.ON_STOCK l, .ro), (FAB.LINK_STATUS.HELD_OUT l, .ro), (FAB.LINK_STATUS.DOWN_CAUSE l, .ro)]
  | .FAB_LINK_ERRORS l => [(FAB.LINK_ERRORS.CORRECTED l, .rc), (FAB.LINK_ERRORS.UNCORRECTED l, .rc), (FAB.LINK_ERRORS.REPLAYS l, .rc)]
  | .FAB_FAR_CACHE d => [(FAB.FAR_CACHE.HITS d, .rc), (FAB.FAR_CACHE.LINES d, .ro)]
  | .FAB_ROUTE c => [(FAB.ROUTE.VALID c, .ro), (FAB.ROUTE.X c, .ro), (FAB.ROUTE.Y c, .ro), (FAB.ROUTE.ZPOS c, .ro)]
  | .TOPO_CAPS => [(TOPO.CAPS.MAX_PLANES, .ro), (TOPO.CAPS.MAX_ENTRIES, .ro), (TOPO.CAPS.SILENT_TICKS, .ro)]
  | .TOPO_CHIP => [(TOPO.CHIP.CHIP, .ro), (TOPO.CHIP.STRAPS, .ro), (TOPO.CHIP.OVERRIDE, .ro)]
  | .TOPO_PARTITION => [(TOPO.PARTITION.ID, .ro), (TOPO.PARTITION.STATE, .ro), (TOPO.PARTITION.CLOSED, .ro), (TOPO.PARTITION.PLANES, .ro), (TOPO.PARTITION.X, .ro), (TOPO.PARTITION.Y, .ro), (TOPO.PARTITION.ZPOS, .ro), (TOPO.PARTITION.ZORDER, .ro)]
  | .TOPO_LOSS => [(TOPO.LOSS.LOST_CHIP, .ro), (TOPO.LOSS.CAUSE, .ro), (TOPO.LOSS.ORIGIN, .ro)]
  | .TOPO_LOSS_TIME => [(TOPO.LOSS_TIME.TIME, .ro)]
  | .TOPO_DRAIN => [(TOPO.DRAIN.REQUESTED, .ro), (TOPO.DRAIN.DRAINED, .ro), (TOPO.DRAIN.STUCK, .ro)]
  | .TOPO_EVENT_CTL h => [(TOPO.EVENT_CTL.VECTOR h, .rw), (TOPO.EVENT_CTL.ENABLE h, .rw)]
  | .TOPO_NB_SERIAL p => [(TOPO.NB_SERIAL.SERIAL p, .ro)]
  | .TOPO_NB_INFO p => [(TOPO.NB_INFO.STATE p, .ro), (TOPO.NB_INFO.CHIP p, .ro), (TOPO.NB_INFO.PORT p, .ro), (TOPO.NB_INFO.PARTITION p, .ro), (TOPO.NB_INFO.EPOCH p, .ro), (TOPO.NB_INFO.ZPOS p, .ro), (TOPO.NB_INFO.PLACED p, .ro)]
  | .STOCK_SELFTEST => [(STOCK.SELFTEST.ENABLE, .rw), (STOCK.SELFTEST.NEXT_S, .ro), (STOCK.SELFTEST.FAILED, .rc)]
  | .STOCK_EVENTS => [(STOCK.EVENTS.DRAWS, .rc), (STOCK.EVENTS.RETURNS, .rc), (STOCK.EVENTS.RETIREMENTS, .rc), (STOCK.EVENTS.EXHAUSTED, .rc)]
  | .STOCK_CLASS k g => [(STOCK.CLASS.BUILT k g, .ro), (STOCK.CLASS.ACTIVE k g, .ro), (STOCK.CLASS.STOCK k g, .ro), (STOCK.CLASS.RETIRED k g, .ro), (STOCK.CLASS.TESTING k g, .ro)]
  | .LOAD_CAPS => [(LOAD.CAPS.SLOTS, .ro), (LOAD.CAPS.ENGINES, .ro), (LOAD.CAPS.ENGINE_GBPS, .ro), (LOAD.CAPS.SHARD_MIB, .ro), (LOAD.CAPS.ATTEMPTS, .ro)]
  | .LOAD_INTAKE_CTL => [(LOAD.INTAKE_CTL.TIMEOUT_S, .rw)]
  | .LOAD_INTAKE => [(LOAD.INTAKE.VERIFIED, .rc), (LOAD.INTAKE.DIGEST_FAILS, .rc), (LOAD.INTAKE.STRAY, .rc)]
  | .LOAD_RECHECK_CTL => [(LOAD.RECHECK_CTL.PERIOD_MIN, .rw), (LOAD.RECHECK_CTL.ENABLE, .rw)]
  | .LOAD_RECHECK => [(LOAD.RECHECK.SHARDS, .rc), (LOAD.RECHECK.PASSES, .rc)]
  | .LOAD_REPAIR => [(LOAD.REPAIR.CORRUPT, .ro), (LOAD.REPAIR.FOUND, .rc), (LOAD.REPAIR.SWAPPED, .rc)]
  | .LOAD_EVENT_CTL h => [(LOAD.EVENT_CTL.VECTOR h, .rw), (LOAD.EVENT_CTL.ENABLE h, .rw)]
  | .LOAD_SLOT s => [(LOAD.SLOT.STATE s, .ro), (LOAD.SLOT.OWNER s, .ro), (LOAD.SLOT.CONTEXTS s, .ro), (LOAD.SLOT.SHARDS s, .ro), (LOAD.SLOT.VERIFIED s, .ro)]
  | .LOAD_SLOT_ID s => [(LOAD.SLOT_ID.MODEL_ID s, .ro)]
  | .LOAD_ENGINE e => [(LOAD.ENGINE.STATE e, .ro), (LOAD.ENGINE.SHARD e, .ro), (LOAD.ENGINE.BUSY e, .ro)]
  | .CMD_CAPS => [(CMD.CAPS.CHANNELS, .ro), (CMD.CAPS.SLOTS, .ro), (CMD.CAPS.RINGS, .ro), (CMD.CAPS.REPLY_HOLD, .ro)]
  | .CMD_STATS => [(CMD.STATS.QUEUED, .rc), (CMD.STATS.CRC_FAIL, .rc), (CMD.STATS.SEQ_GAP, .rc)]
  | .CMD_STRAY => [(CMD.STRAY.WRITES, .rc), (CMD.STRAY.DROPPED, .rc), (CMD.STRAY.HELD, .ro)]
  | .CMD_CHAN_CTL c => [(CMD.CHAN_CTL.ENABLE c, .rw), (CMD.CHAN_CTL.RESET c, .wo), (CMD.CHAN_CTL.CREDIT_BATCH c, .rw), (CMD.CHAN_CTL.ERR_RING c, .rw), (CMD.CHAN_CTL.SEQ_BASE c, .rw), (CMD.CHAN_CTL.GAP_US c, .rw)]
  | .CMD_CHAN_CREDIT c => [(CMD.CHAN_CREDIT.ADDR c, .rw)]
  | .CMD_CHAN_SIGNAL c => [(CMD.CHAN_SIGNAL.ADDR c, .rw)]
  | .CMD_CHAN_STATUS c => [(CMD.CHAN_STATUS.EXPECT c, .ro), (CMD.CHAN_STATUS.HELD c, .ro), (CMD.CHAN_STATUS.QUEUED c, .ro), (CMD.CHAN_STATUS.HOLDING c, .ro), (CMD.CHAN_STATUS.DONE_COUNT c, .ro)]
  | .CMD_RING_BASE r => [(CMD.RING_BASE.BASE r, .rw)]
  | .CMD_RING_CTL r => [(CMD.RING_CTL.LOG2_SIZE r, .rw), (CMD.RING_CTL.DEVICE r, .rw), (CMD.RING_CTL.ENABLE r, .rw), (CMD.RING_CTL.VECTOR_EN r, .rw), (CMD.RING_CTL.VECTOR r, .rw)]
  | .CMD_RING_TAIL r => [(CMD.RING_TAIL.TAIL r, .ro)]
  | .CMD_RING_HEAD r => [(CMD.RING_HEAD.HEAD r, .rw)]
  | .CMD_RING_SHADOW r => [(CMD.RING_SHADOW.ADDR r, .rw)]
  | .HIF_CAPS => [(HIF.CAPS.PORTS, .ro), (HIF.CAPS.MAX_WIDTH, .ro), (HIF.CAPS.MAX_RATE, .ro), (HIF.CAPS.MSIX_VECTORS, .ro), (HIF.CAPS.BAR2_MAX_LOG2, .ro)]
  | .HIF_ID => [(HIF.ID.VENDOR, .ro), (HIF.ID.DEVICE, .ro), (HIF.ID.REVISION, .ro)]
  | .HIF_SERIAL => [(HIF.SERIAL.SERIAL, .ro)]
  | .HIF_PORT_STATUS h => [(HIF.PORT_STATUS.LINK_UP h, .ro), (HIF.PORT_STATUS.RATE h, .ro), (HIF.PORT_STATUS.WIDTH h, .ro), (HIF.PORT_STATUS.FLIT h, .ro), (HIF.PORT_STATUS.HOST_STATE h, .ro), (HIF.PORT_STATUS.BME h, .ro), (HIF.PORT_STATUS.MSE h, .ro), (HIF.PORT_STATUS.LOSS_CAUSE h, .ro), (HIF.PORT_STATUS.ORPHANED h, .ro)]
  | .HIF_HOST_CTL h => [(HIF.HOST_CTL.ATTACH h, .rw), (HIF.HOST_CTL.EVENT_VECTOR h, .rw), (HIF.HOST_CTL.EVENT_EN h, .rw)]
  | .HIF_HOST_EVENTS h => [(HIF.HOST_EVENTS.OTHER_LOST h, .w1c), (HIF.HOST_EVENTS.OTHER_ATTACHED h, .w1c), (HIF.HOST_EVENTS.ADOPTED_AWAY h, .w1c), (HIF.HOST_EVENTS.LOSSES h, .ro)]
  | .HIF_ERRORS h => [(HIF.ERRORS.CPL_TIMEOUT h, .rc), (HIF.ERRORS.POISON_RX h, .rc), (HIF.ERRORS.UNSUPPORTED h, .rc), (HIF.ERRORS.RETRAINS h, .rc)]
  | .HIF_ORPHAN_ADDR h => [(HIF.ORPHAN_ADDR.OFFSET h, .rw)]
  | .HIF_ORPHAN_DATA h => [(HIF.ORPHAN_DATA.DATA h, .ro)]
  | .MGMT_CAPS => [(MGMT.CAPS.TICK_US, .ro), (MGMT.CAPS.SB_MAX_OUT, .ro), (MGMT.CAPS.SENSORS, .ro), (MGMT.CAPS.FW_VERSION, .ro)]
  | .MGMT_TICK => [(MGMT.TICK.COUNT, .ro), (MGMT.TICK.OVERRUNS, .rc)]
  | .MGMT_STATUS => [(MGMT.STATUS.BIMON, .ro), (MGMT.STATUS.MAIN_ON, .ro), (MGMT.STATUS.RM_SILENT, .ro), (MGMT.STATUS.WDOG_RESTARTS, .ro)]
  | .MGMT_SB_ID => [(MGMT.SB_ID.PID, .ro), (MGMT.SB_ID.BCR, .ro), (MGMT.SB_ID.DCR, .ro)]
  | .MGMT_SB_STATUS => [(MGMT.SB_STATUS.DYN_ADDR, .ro), (MGMT.SB_STATUS.ADDR_VALID, .ro), (MGMT.SB_STATUS.STATIC_ADDR, .ro), (MGMT.SB_STATUS.EID, .ro), (MGMT.SB_STATUS.EID_VALID, .ro), (MGMT.SB_STATUS.OUTSTANDING, .ro)]
  | .MGMT_SB_COUNT => [(MGMT.SB_COUNT.COMMANDS, .rc), (MGMT.SB_COUNT.WINDOW, .rc), (MGMT.SB_COUNT.PLDM, .rc), (MGMT.SB_COUNT.DROPPED, .rc)]
  | .MGMT_RM_CTL => [(MGMT.RM_CTL.SILENCE_S, .rw)]
  | .MGMT_LOCATE => [(MGMT.LOCATE.LOCATE, .rw)]
  | .DISC_INPUTS => [(DISC.INPUTS.LEVEL, .ro), (DISC.INPUTS.CHATTER, .w1c), (DISC.INPUTS.STUCK, .ro), (DISC.INPUTS.EFFECTIVE, .ro)]
  | .DISC_OUTPUTS => [(DISC.OUTPUTS.FAULT, .ro), (DISC.OUTPUTS.THERM_TRIP, .ro), (DISC.OUTPUTS.DRAINED, .ro), (DISC.OUTPUTS.LED, .ro)]
  | .DISC_FAULT_CAUSE => [(DISC.FAULT_CAUSE.MODULE_FAILED, .ro), (DISC.FAULT_CAUSE.EPO, .ro), (DISC.FAULT_CAUSE.THERM_TRIP, .ro), (DISC.FAULT_CAUSE.RECORD_INVALID, .ro), (DISC.FAULT_CAUSE.BIMON_FAILED, .ro)]
  | .DISC_EVENT_CTL h => [(DISC.EVENT_CTL.VECTOR h, .rw), (DISC.EVENT_CTL.ENABLE h, .rw)]
  | .DISC_IN_LOG i => [(DISC.IN_LOG.TRANSITIONS i, .rc), (DISC.IN_LOG.LAST_MS i, .ro)]
  | .PWR_CAPS => [(PWR.CAPS.CAP_MAX, .ro), (PWR.CAPS.CAP_MIN, .ro), (PWR.CAPS.VCODE_MAX, .ro), (PWR.CAPS.PHASE_ENTRIES, .ro)]
  | .PWR_CAP => [(PWR.CAP.WATTS, .rw)]
  | .PWR_LIMIT_NOW => [(PWR.LIMIT_NOW.LIMIT_W, .ro), (PWR.LIMIT_NOW.COOLANT, .ro), (PWR.LIMIT_NOW.THERMAL, .ro), (PWR.LIMIT_NOW.PWARN, .ro), (PWR.LIMIT_NOW.MODULE_W, .ro), (PWR.LIMIT_NOW.OTHER_W, .ro)]
  | .PWR_LEARN_CTL => [(PWR.LEARN_CTL.ENABLE, .rw), (PWR.LEARN_CTL.STALL_HIGH, .rw), (PWR.LEARN_CTL.STALL_LOW, .rw), (PWR.LEARN_CTL.V_MAX, .rw)]
  | .PWR_ENERGY => [(PWR.ENERGY.MJ, .ro)]
  | .PWR_JOB_ENERGY => [(PWR.JOB_ENERGY.MJ, .ro)]
  | .PWR_THERM => [(PWR.THERM.HOTTEST, .ro), (PWR.THERM.SENSOR, .ro), (PWR.THERM.WARN, .ro), (PWR.THERM.CUT, .ro), (PWR.THERM.ABORT_ZONE, .ro), (PWR.THERM.SENSOR_FAIL, .ro), (PWR.THERM.WARNINGS, .rc), (PWR.THERM.CUTS, .rc)]
  | .PWR_COLL_WAIT => [(PWR.COLL_WAIT.NS, .rc)]
  | .PWR_EVENTS => [(PWR.EVENTS.LIMITED_TICKS, .rc), (PWR.EVENTS.PHASE_FAILS, .rc), (PWR.EVENTS.COOL_ALARMS, .rc), (PWR.EVENTS.PWARNS, .rc)]
  | .PWR_DIE_STATUS d => [(PWR.DIE_STATUS.VCODE d, .ro), (PWR.DIE_STATUS.SLEWING d, .ro), (PWR.DIE_STATUS.LIMITED d, .ro), (PWR.DIE_STATUS.PACE d, .ro), (PWR.DIE_STATUS.STEP_MHZ d, .ro), (PWR.DIE_STATUS.POWER_W d, .ro), (PWR.DIE_STATUS.LIMIT_W d, .ro), (PWR.DIE_STATUS.PHASES d, .ro), (PWR.DIE_STATUS.TAG d, .ro)]
  | .PWR_DIE_ENERGY d => [(PWR.DIE_ENERGY.MJ d, .ro)]
  | .PWR_PHASE n => [(PWR.PHASE.VCODE n, .ro), (PWR.PHASE.LEARNT n, .ro), (PWR.PHASE.TICKS n, .ro), (PWR.PHASE.STALL n, .ro)]
  | .CLK_CAPS => [(CLK.CAPS.DOMAINS, .ro), (CLK.CAPS.ROOT_MHZ, .ro), (CLK.CAPS.INT_MHZ, .ro), (CLK.CAPS.WINDOW_US, .ro), (CLK.CAPS.LIMIT_PM, .ro)]
  | .CLK_CTL => [(CLK.CTL.AUTO_RETURN, .rw)]
  | .CLK_ROOT => [(CLK.ROOT.LOCKED, .ro), (CLK.ROOT.READY, .ro), (CLK.ROOT.REF_FAILED, .ro), (CLK.ROOT.INT_COUNT, .ro)]
  | .CLK_INT => [(CLK.INT.READY, .ro), (CLK.INT.FAILED, .ro), (CLK.INT.OFFSET_PPM, .ro)]
  | .CLK_EVENTS => [(CLK.EVENTS.REF_FAILS, .rc), (CLK.EVENTS.DOM_FAILS, .rc), (CLK.EVENTS.SWITCHES, .rc), (CLK.EVENTS.REFUSED, .rc)]
  | .CLK_DOM i => [(CLK.DOM.DIVISOR i, .ro), (CLK.DOM.SOURCE i, .ro), (CLK.DOM.INT_OK i, .ro), (CLK.DOM.GATED i, .ro), (CLK.DOM.FAILED i, .w1c), (CLK.DOM.STOPPED i, .ro), (CLK.DOM.COUNT i, .ro), (CLK.DOM.EXPECT i, .ro)]
  | .CLK_CORE_EN d => [(CLK.CORE_EN.EN d, .ro)]
  | .CLK_BANK_EN d w => [(CLK.BANK_EN.EN d w, .ro)]
  | .CLK_MISC_EN => [(CLK.MISC_EN.CTRL_CORES, .ro), (CLK.MISC_EN.DIGEST, .ro)]
  | .CLK_PHASE_EN r => [(CLK.PHASE_EN.EN r, .ro)]
  | .SEC_CAPS => [(SEC.CAPS.STAGES, .ro), (SEC.CAPS.IMAGE_TYPES, .ro), (SEC.CAPS.BANK_MIB, .ro), (SEC.CAPS.BLOCK, .ro), (SEC.CAPS.SIGN_RATE, .ro)]
  | .SEC_STATUS => [(SEC.STATUS.OWNER, .ro), (SEC.STATUS.RECORD_OK, .ro), (SEC.STATUS.MEASURED, .ro), (SEC.STATUS.EXHAUSTED, .ro)]
  | .SEC_SIG_NEXT => [(SEC.SIG_NEXT.NEXT, .ro)]
  | .SEC_SIG_RESERVED => [(SEC.SIG_RESERVED.RESERVED, .ro)]
  | .SEC_EVENTS => [(SEC.EVENTS.SIGNATURES, .rc), (SEC.EVENTS.AUTH_FAILS, .rc), (SEC.EVENTS.STAGE_FAILS, .rc)]
  | .SEC_RECORD => [(SEC.RECORD.SEQ, .ro), (SEC.RECORD.COPY, .ro), (SEC.RECORD.REWRITES, .rc)]
  | .SEC_FW_STATE t => [(SEC.FW_STATE.ACTIVE_BANK t, .ro), (SEC.FW_STATE.BOOT_BANK t, .ro), (SEC.FW_STATE.STAGED t, .ro), (SEC.FW_STATE.FELL_BACK t, .ro), (SEC.FW_STATE.COMMIT_PENDING t, .ro), (SEC.FW_STATE.SVN t, .ro), (SEC.FW_STATE.FLOOR t, .ro)]
  | .SEC_FW_VERSION t => [(SEC.FW_VERSION.RUNNING t, .ro), (SEC.FW_VERSION.STAGED t, .ro)]
  | .SEC_CHAIN k => [(SEC.CHAIN.BYTES k, .ro)]
  | .SEC_REPORT_DATA h => [(SEC.REPORT_DATA.DATA h, .ro)]
  | .SCORE_CAPS => [(SCORE.CAPS.RING, .ro), (SCORE.CAPS.FLASH, .ro)]
  | .SCORE_STATUS => [(SCORE.STATUS.GEN, .ro), (SCORE.STATUS.UNFLUSHED, .ro), (SCORE.STATUS.FLUSHING, .ro), (SCORE.STATUS.CLEARING, .ro)]
  | .SCORE_HELD => [(SCORE.HELD.OLDEST, .ro), (SCORE.HELD.NEWEST, .ro)]
  | .SCORE_EVENTS => [(SCORE.EVENTS.FLUSHES, .rc), (SCORE.EVENTS.LOST, .rc), (SCORE.EVENTS.FAULTS, .rc)]
  | .SCORE_EVENT_CTL h => [(SCORE.EVENT_CTL.VECTOR h, .rw), (SCORE.EVENT_CTL.ENABLE h, .rw)]
  | .SCORE_READ_CURSOR h => [(SCORE.READ_CURSOR.SEQ h, .ro), (SCORE.READ_CURSOR.WORD h, .ro)]
  | .SCORE_READ_DATA h => [(SCORE.READ_DATA.DATA h, .ro)]
  | .SCORE_READ_BURST h w => [(SCORE.READ_BURST.DATA h w, .ro)]

end Sys2Proof.Machine
end

