-- ==== Sys2Proof/Machine/Bits.lean ====
section
/-! DEFINITION. Bit ranges of packed words (R14), little-endian bytes (R6), and association lists in rising key order, the
one form in which registers, memory and tables are held. -/

namespace Sys2Proof.Machine

/-- The bit range [lo + w - 1 : lo] of a packed word (R14). -/
def bits (x lo w : Nat) : Nat := x / 2 ^ lo % 2 ^ w

/-- Bit `i` of a packed word, as a truth value. -/
def bit (x i : Nat) : Bool := x / 2 ^ i % 2 == 1

/-- 1 for true, 0 for false. -/
def b2n (b : Bool) : Nat := if b then 1 else 0

/-- A field of a packed word replaced by the low `w` bits of `v`. -/
def setBits (x lo w v : Nat) : Nat := x - bits x lo w * 2 ^ lo + v % 2 ^ w * 2 ^ lo

/-- The numbers below 64 whose bits are set in a mask. -/
def maskList (m n : Nat) : List Nat := (List.range n).filter (bit m ·)

/-- `n` little-endian bytes of `x` (R6). -/
def leBytes : Nat → Nat → List Byte
  | 0, _ => []
  | n + 1, x => BitVec.ofNat 8 (x % 256) :: leBytes n (x / 256)

/-- The number a list of bytes spells, least significant byte first (R6). -/
def leNat : List Byte → Nat
  | [] => 0
  | b :: r => b.toNat + 256 * leNat r

/-- A signed reading of the low `w` bits. -/
def toSigned (w x : Nat) : Int := if x % 2 ^ w < 2 ^ (w - 1) then (x % 2 ^ w : Nat) else (x % 2 ^ w : Nat) - (2 ^ w : Nat)

/-- The low `w` bits of an integer in two's complement. -/
def ofSigned (w : Nat) (x : Int) : Nat := (x % (2 ^ w : Nat)).toNat

/-- `n` rounded up to a multiple of `k`. -/
def alignUp (n k : Nat) : Nat := (n + k - 1) / k * k

/-- `a` divided by `b`, rounded up. -/
def ceilDiv (a b : Nat) : Nat := (a + b - 1) / b

/-- A number put into a rising list, once. -/
def insNat (x : Nat) : List Nat → List Nat
  | [] => [x]
  | y :: r => if x < y then x :: y :: r else if x = y then y :: r else y :: insNat x r

/-- A list in rising order without repeats. -/
def riseNats (l : List Nat) : List Nat := l.foldr insNat []

/-- The value listed at a key. -/
def aFind {α : Type} : List (Nat × α) → Nat → Option α
  | [], _ => none
  | (k, v) :: r, i => if k = i then some v else aFind r i

/-- A key set to a value, the list staying in rising key order. -/
def aPut {α : Type} : List (Nat × α) → Nat → α → List (Nat × α)
  | [], i, x => [(i, x)]
  | (k, v) :: r, i, x =>
    if i < k then (i, x) :: (k, v) :: r
    else if i = k then (i, x) :: r
    else (k, v) :: aPut r i x

/-- A key taken out of a list. -/
def aErase {α : Type} : List (Nat × α) → Nat → List (Nat × α)
  | [], _ => []
  | (k, v) :: r, i => if k = i then aErase r i else (k, v) :: aErase r i

/-- Keys strictly rising, each entry as `p` asks. -/
def aWf {α : Type} (p : α → Bool) : List (Nat × α) → Bool
  | [] => true
  | [(_, v)] => p v
  | (k, v) :: (k2, v2) :: r => p v && decide (k < k2) && aWf p ((k2, v2) :: r)

end Sys2Proof.Machine
end

