-- ==== Sys2Proof/Machine/State.lean ====
section
/-! DEFINITION. The state of the Gonak as plain data: every register field (one keyed store, `regs`), the device and host
memory, and the state the chapters give each unit beside its registers. Where a register shows a value, the register's
field is its one home. Every structure's field carries the rule that names it. -/

namespace Sys2Proof.Machine

open Sys2Proof

/-- Why a step could stop with a fault. No meaning of this model stops so: the spec gives every access an answer. -/
inductive Fault where
  /-- Raised by no meaning: kept so that the type has a name to give. Safe. -/
  | unreachable
deriving DecidableEq, Repr

/-- Why a step could refuse a command. -/
inductive Refusal where
  /-- Raised by an arm of `exec` whose command has no meaning yet. Safe: the machine stops where the hardware goes on. -/
  | notModelled (mnemonic : String)
deriving DecidableEq, Repr

/-- A scorebook record (Table 21-1). -/
structure Record where
  time : Nat
  code : Nat
  severity : Nat
  inst : Nat
  subsys : Nat
  seq : Nat
  arg0 : Nat
  arg1 : Nat
deriving DecidableEq, Repr, Inhabited

/-- A record Bimon will write at the next tick (R470, "tick"): code, instance, arguments and time of the event. -/
structure TickRecord where
  time : Nat
  code : Nat
  inst : Nat
  arg0 : Nat
  arg1 : Nat
deriving DecidableEq, Repr, Inhabited

/-- The scorebook beside its registers (R468–R477). -/
structure Score where
  /-- The latest records, oldest first, at most 8,192 (R471). -/
  ring : List Record := []
  /-- Records held in flash with the index of their place, oldest first (R471). -/
  flash : List (Nat × Record) := []
  /-- Index of the next place in flash; the erase block is index ÷ 8,192 mod 256 (R471). -/
  flashNext : Nat := 0
  /-- SEQ of the next record (R468). -/
  nextSeq : Nat := 1
  /-- SEQ of the last record copied to flash (R472). -/
  flushedThrough : Nat := 0
  /-- A flush is due at the next tick boundary (R472). -/
  flushDue : Bool := false
  /-- A flush falls due while another runs (R472). -/
  flushAgain : Bool := false
  /-- The record of an unflushed-count warning is outstanding (R473). -/
  pressure : Bool := false
  /-- Words latched for the sources' reads in progress (R476): source, the record's four words. -/
  latches : List (Nat × List Nat) := []
  /-- Records that wait for a tick (R470). -/
  tickRecs : List TickRecord := []
deriving DecidableEq, Repr, Inhabited

/-- Something the module sends out that its registers and memories do not hold. -/
inductive Output where
  /-- An MSI-X message to host `h` (R382, R383). -/
  | msix (h addr data : Nat)
  /-- A PCI Express completion with data to a requester of host `h`. -/
  | completion (h : Nat) (data : Nat)
  /-- A configuration completion: status (0 success, 1 Request Retry) and data (R379). -/
  | config (h status data : Nat)
  /-- A message on the side-band port: message type and bytes (R395–R400). -/
  | sideband (kind : Nat) (bytes : List Nat)
  /-- A read of a register answered to source `src`. -/
  | readData (src data : Nat)
  /-- A packet on link `link`: the header and payload as fields (R283). -/
  | packet (link : Nat) (kind : Nat) (fields : List Nat)
  /-- An acknowledgement on link `link`: 0 ACK, 1 NAK, and the flit's SEQ (R274). -/
  | flitAck (link : Nat) (nak : Nat) (seq : Nat)
  /-- Flits sent again on link `link`, by SEQ (R274, R278, R280). -/
  | resend (link : Nat) (seqs : List Nat)
  /-- A hello on port `port` (R306). -/
  | hello (port : Nat) (bytes : List Nat)
deriving DecidableEq, Repr

/-- A PCI Express port beside its HIF registers (R378–R386). -/
structure PciePort where
  /-- MSI-X table: dword index (entry × 4 + word) to value (R382). -/
  msix : List (Nat × Nat) := []
  /-- Vectors whose pending bit is set (R382). -/
  pba : List Nat := []
  /-- MSI-X Enable and Function Mask of the capability. -/
  msixEnable : Bool := false
  msixMask : Bool := false
  /-- Configuration registers that host software has written: dword offset to value (R379, R380). -/
  cfg : List (Nat × Nat) := []
  /-- log2 of the BAR2 size in force (R380, R381). -/
  bar2Log2 : Nat := 32
  /-- PERST_N is asserted, after its filter (R383, R490). -/
  perst : Bool := false
  /-- The port is training or may train (R490). -/
  training : Bool := false
  /-- Loss actions of the host are running (R384). -/
  lossRunning : Bool := false
  /-- Device-memory rings kept since the loss, to be reset at the next attachment (R384). -/
  kept : List Nat := []
  /-- Contexts that the loss orphaned (record 0x0401). -/
  orphaned : Nat := 0
deriving DecidableEq, Repr, Inhabited

/-- A command channel beside its CMD registers (R347–R359). -/
structure Chan where
  /-- The slots' bytes that are not zero: slot × 64 + byte to value (R348). -/
  slots : List (Nat × Nat) := []
  /-- SEQ of the committed packets held in their slots (R353). -/
  held : List Nat := []
  /-- The queue: packets of eight words, oldest first (R353). -/
  queue : List (List Nat) := []
  /-- Packets queued since the channel was last enabled (R354). -/
  queued : Nat := 0
  /-- Queuings since the last credit word, and the time of the last of them (R354). -/
  unreported : Nat := 0
  lastQueued : Nat := 0
  /-- When the gap timer of the present EXPECT started: the later of EXPECT's last change and the first later commit (R353). -/
  laterSince : Option Nat := none
  /-- The gap reply for this value of EXPECT has been written (R353). -/
  gapSent : Bool := false
  /-- CHAN_DONE (R359). -/
  doneCount : Nat := 0
  /-- Grant number at which the head became pending, and of the channel's last grant (R34). -/
  headSince : Nat := 0
  lastGrant : Nat := 0
deriving DecidableEq, Repr, Inhabited

/-- A command in flight: accepted, and its reply not yet written (R355–R358). -/
structure Cmd where
  /-- Acceptance number. -/
  id : Nat
  /-- 0 host A, 1 host B, 2 side-band port. -/
  src : Nat
  chan : Nat
  /-- The packet's eight words (Table 15-1). -/
  words : List Nat
  /-- The unit has taken it. -/
  started : Bool := false
  /-- The status once fixed (R357), and its place in the order of completion. -/
  status : Option Nat := none
  doneNo : Nat := 0
  /-- Time base when its status was fixed (R397). -/
  doneAt : Nat := 0
  detail : Nat := 0
  out0 : Nat := 0
  out1 : Nat := 0
  out2 : Nat := 0
  /-- Time of acceptance. -/
  since : Nat := 0
  /-- Progress its unit keeps. -/
  aux : List Nat := []
  /-- Bytes of the authorisation that followed a side-band packet (R363). -/
  auth : List Nat := []
  /-- Side-band tag of the message (R397). -/
  tag : Nat := 0
  /-- The sending host was lost after it was accepted (R362). -/
  gone : Bool := false
deriving DecidableEq, Repr, Inhabited

/-- A reply ready for its ring: the ring and the 32 bytes as four words (R358). -/
structure Reply where
  ring : Nat
  w0 : Nat
  w1 : Nat
  w2 : Nat
  w3 : Nat
deriving DecidableEq, Repr, Inhabited

/-- A context beside SCHED.CTX_STATE and MMU.CTX_ROOT (R261). -/
structure Ctx where
  /-- Model-table slot that runs it (none: NO_MODEL), and the slot a pending switch will set, with its step (R343). -/
  slot : Option Nat := none
  /-- Partition in which it was created (its job, R261). -/
  job : Nat := 0
  /-- SHAPE_MODE (R178). -/
  shape : Nat := 0
  /-- MARGIN, SAT_SHIFT, ZERO_SHIFT, MAX_REDEALS, and the scale table: TABLE_VA, SITES, STRIDE (R99). -/
  margin : Nat := 0
  satShift : Nat := 0
  zeroShift : Nat := 0
  maxRedeals : Nat := 3
  tableEn : Bool := false
  tableVa : Nat := 0
  sites : Nat := 0
  siteStride : Nat := 0
  /-- Step counter (R213). -/
  stepNo : Nat := 0
  /-- Dies on which PAUSED is set, as a mask (R263). -/
  paused : Nat := 0
  /-- Power phase tag named by PHASE_HINT (R422), 0 for none. -/
  phase : Nat := 0
  phaseHint : Bool := false
  /-- The host that lost it while ORPHANED (R385). -/
  lostBy : Nat := 0
deriving DecidableEq, Repr, Inhabited

/-- A run of frames handed out: local offset, bytes, and what holds it (R111, R518). Kinds: 0 page table, 1 MAP, 2 deal
window, 3 hand span, 4 lead span, 5 prefix entry, 6 model image, 7 repair, 8 move destination. -/
structure Alloc where
  base : Nat
  size : Nat
  kind : Nat
  ctx : Nat
deriving DecidableEq, Repr, Inhabited

/-- A range of a context's addresses that only its own command may free (R368): kinds as in `Alloc`. -/
structure VaRange where
  ctx : Nat
  base : Nat
  size : Nat
  kind : Nat
  owner : Nat
deriving DecidableEq, Repr, Inhabited

/-- An expert's image in a window (R125, R174): its area's place in the order of decision, the expert, where it lies behind the part
dealt ahead, and its bytes. -/
structure Dealt where
  order : Nat
  expert : Nat
  at' : Nat
  len : Nat
deriving DecidableEq, Repr, Inhabited

/-- A deal window on a die (R125–R127, R260). -/
structure Window where
  die : Nat
  slotNo : Nat
  ctx : Nat
  va : Nat
  pages : Nat
  /-- Tags of the two halves: model slot, layer, variant group, and whether whole (R260). -/
  tag0 : List Nat := []
  tag1 : List Nat := []
  /-- The half that holds the current layer's image, and the dealer's resume point in the other (R259). -/
  current : Nat := 0
  resume : Nat := 0
  /-- Bytes dealt into the current half beyond the part dealt ahead (R125), and the experts' images among them. -/
  extra : Nat := 0
  experts : List Dealt := []
deriving DecidableEq, Repr, Inhabited

/-- A move of a page (Table 5-7). Causes: 0 MIGRATE, 1 SET_HOME, 2 PROMOTE, 3 room, 4 eviction, 5 return, 6 PARK, 7 UNPARK,
8 repair, 9 a tile's page (R118), 10 bank retirement. -/
structure Move where
  id : Nat
  ctx : Nat
  va : Nat
  big : Bool
  /-- Leaf entry before the move. -/
  leaf : Nat
  tier : Nat
  chip : Nat
  frame : Nat
  /-- Step of Table 5-7 reached: 0 waits for a forwarding record, 3 copying, 5 broadcast. -/
  phase : Nat
  cause : Nat
  /-- The command, hand or fault it serves. -/
  owner : Nat
  /-- Conversion on the way (R119): 0 none, 1–4 as CONVERT of Table 6-1. -/
  convert : Nat := 0
  /-- Bytes of a position page that are used (R194); 0 for the whole page. -/
  len : Nat := 0
  /-- Members whose acknowledgement is awaited (step 6). -/
  await : List Nat := []
  /-- Number of the first fabric request made after step 1: those before it were granted before it (step 2). -/
  before : Nat := 0
deriving DecidableEq, Repr, Inhabited

/-- A forwarding record (R121): the old frame, of device memory or (`host` 1, 2) of a host of this module, and the new home. -/
structure Fwd where
  move : Nat
  frame : Nat
  size : Nat
  chip : Nat
  newFrame : Nat
  host : Nat := 0
deriving DecidableEq, Repr, Inhabited

/-- An entry of the remote-map index (R122). -/
structure Remap where
  ctx : Nat
  va : Nat
  big : Bool
  chip : Nat
  frame : Nat
deriving DecidableEq, Repr, Inhabited

/-- A cached translation (R114): unit, context, page address, leaf. -/
structure Tlb where
  unit : Nat
  ctx : Nat
  va : Nat
  leaf : Nat
deriving DecidableEq, Repr, Inhabited

/-- A requester waiting behind a fault: kinds 0 mover request (mover, descriptor, request), 1 command, 2 launch record
(launch, die), 3 dealer (die), 4 move, 5 serving unit (hand). -/
structure Parked where
  kind : Nat
  a : Nat
  b : Nat
  c : Nat
deriving DecidableEq, Repr, Inhabited

/-- An entry of the fault table (R132, Table 5-12). -/
structure FaultEntry where
  id : Nat
  ctx : Nat
  kind : Nat
  write : Bool
  va : Nat
  time : Nat
  timeout : Nat
  engine : Nat
  seq : Nat
  chan : Nat
  noCmd : Bool
  parked : List Parked
  /-- Records still to be delivered for it: 0 first, 1 redelivered, 2 withdrawn (R132, R134). -/
  toSend : List Nat := []
  isOpen : Bool := true
deriving DecidableEq, Repr, Inhabited

/-- A request of a descriptor (R141): where in the descriptor it begins, and its state: 0 waits to be issued again, 1 its loads
in flight, 2 parked, 3 complete, 4 its writes in flight, 5 ended with nothing moved, 6 parked and served, to be issued again. An
indexed element's index once it is read, and, for an element whose index had to wait, where the element ends: its pieces run one
after the other in the one slot. `no` 2^60 is the read of a send table, 2^61 the signal store. -/
structure MoverReq where
  no : Nat
  state : Nat
  idx : Option Nat := none
  stop : Nat := 0
deriving DecidableEq, Repr, Inhabited

/-- A descriptor in a mover's queue (R139). -/
structure Desc where
  id : Nat
  mover : Nat
  /-- 0 service, 1 trump, 2 plain (R143). -/
  queue : Nat
  ctx : Nat
  words : List Nat
  /-- Who issued it: 0 a command (its id), 1 a launch record (launch id), 2 the tier engine (move id), 3 the router (launch), 4 an
  expert launch (the place of its area in the order of decision), 5 an attention launch, into its working buffer, and 6 the same from a
  ring buffer (R191, R203). -/
  issuer : Nat
  owner : Nat
  die : Nat := 0
  /-- Taken from the queue and checked (R140). -/
  issued : Bool := false
  /-- The send table, once read (R148): words. -/
  table : List Nat := []
  /-- Requests cut so far, the resume point (R151), and requests not complete. -/
  next : Nat := 0
  total : Nat := 0
  live : List MoverReq := []
  /-- Bytes written. -/
  bytes : Nat := 0
  /-- Halted by PREEMPT at its resume point (R151). -/
  halted : Bool := false
  /-- Status it will end with if not DONE: status, detail. -/
  ended : Option (Nat × Nat) := none
  signalled : Bool := false
  /-- Memory as it stood when a copy between overlapping ranges was taken (Table 6-3). -/
  snap : List Host.Cell := []
  /-- Bytes written in each tier, for accounts (R226). -/
  tiers : List Nat := [0, 0, 0, 0]
  /-- What a descriptor of the router or of an expert launch sends, which is no range of the context: rows formed on the die; and the
  launch over whose rows its bytes are split where they are this module's own (R227). -/
  rows : List Nat := []
  own : Option Nat := none
deriving DecidableEq, Repr, Inhabited

/-- A packet of the fabric: header words (Table 12-4), data bytes, the port it came by (12: this module), its age's start,
and its class on the dateline rule (R283). -/
structure Packet where
  w0 : Nat
  w1 : Nat
  data : List Nat := []
  port : Nat := 12
  since : Nat := 0
  cls : Nat := 0
deriving DecidableEq, Repr, Inhabited

/-- A link beside FAB.LINK_STATUS (R273–R280). -/
structure Link where
  /-- SEQ of the next flit sent, and the flits not yet acknowledged, oldest first: SEQ and the packet bytes (R274). -/
  txSeq : Nat := 0
  replay : List (Nat × List Nat) := []
  /-- Consecutive replays of the oldest flit (R274). -/
  replays : Nat := 0
  /-- SEQ of the last flit received in order, and the packet stream not yet made up into packets. -/
  rxSeq : Nat := 4095
  stream : List Nat := []
  /-- Credits held for the five virtual channels (R276). -/
  credits : List Nat := [32, 32, 32, 32, 32]
  /-- The lane replaced by the stock lane; the lane held out by TO_STOCK. -/
  badLane : Option Nat := none
  heldOut : Option Nat := none
  /-- Start of the present training, and when Bimon starts the next (R280). -/
  trainSince : Nat := 0
  retrainAt : Option Nat := none
  /-- What a SWAPPING link will become: true puts the stock lane in, false takes it out (R278, R279). -/
  swapIn : Bool := true
  swapLane : Nat := 0
  /-- The lane that TO_STOCK holds out once the swap is made. -/
  swapHold : Bool := false
  /-- LINK_ADMIN that waits on it: command id, and when its limit passes (R302). -/
  admin : Option Nat := none
  /-- DOWN asked for: no new flits while flits are acknowledged (Table 12-3). -/
  draining : Bool := false
  /-- Clock domain stopped (R440). -/
  stopped : Bool := false
  /-- Power-up training has been started (R489). -/
  enabled : Bool := false
deriving DecidableEq, Repr, Inhabited

/-- A fabric request of this module that has no answer (R295–R298). `who` says which engine takes the answer. -/
structure FabReq where
  id : Nat
  target : Nat
  unit : Nat
  op : Nat
  typ : Nat := 0
  tag : Nat := 0
  host : Nat := 0
  units : Nat := 1
  offset : Nat
  data : List Nat := []
  /-- Not yet sent: it waits for the tag window, for an earlier write to its block, or at its MMU (R289, R295, R121). -/
  waiting : Bool := false
  /-- It waits for a move broadcast of this old frame before it is translated afresh (R121). -/
  awaitMove : Bool := false
  forwarded : Bool := false
  firstSent : Nat := 0
  lastSent : Nat := 0
  tries : Nat := 0
  route : Nat := 0
  ctx : Nat := 0
  va : Nat := 0
  /-- Dies whose far-read cache the answer may fill (mask), 0 for none (R292, R294). -/
  fill : Nat := 0
  /-- Its place among its engine's requests, 1 and up: the store of a merged block has that of the LOAD it follows (R289). -/
  order : Nat := 0
  who : Parked
deriving DecidableEq, Repr, Inhabited

/-- An answer kept in a result store (R296): home unit (0–7 dies, 8 IOD0, 9 IOD2), source, tag, and the answer's OP and data. -/
structure StoredResult where
  unit : Nat
  src : Nat
  tag : Nat
  op : Nat
  data : List Nat
deriving DecidableEq, Repr, Inhabited

/-- A line of a die's far-read cache (R292): die, global block address, 64 bytes. -/
structure FarLine where
  die : Nat
  block : Nat
  bytes : List Nat
deriving DecidableEq, Repr, Inhabited

/-- A block a LOAD has brought for an engine that will read it when it goes on: requester, chip, HOST, offset, 64 bytes. -/
structure FarData where
  who : Parked
  chip : Nat
  host : Nat
  off : Nat
  bytes : List Nat
  poison : Bool
deriving DecidableEq, Repr, Inhabited

/-- The link fabric beside block FAB (R271–R305). -/
structure Fabric where
  links : List (Nat × Link) := []
  /-- Packets received or made here that have not been forwarded or taken. -/
  inbox : List Packet := []
  reqs : List FabReq := []
  nextReq : Nat := 0
  /-- Tag counters: target × 16 + home unit to the next tag (R295); the LOAD tag counter. -/
  tags : List (Nat × Nat) := []
  loadTag : Nat := 0
  results : List StoredResult := []
  far : List FarLine := []
  /-- Blocks loaded for engines that wait for them. -/
  got : List FarData := []
  /-- Offset of the time base against the module's own count, in ns, signed (R301), and the next TIME packet. -/
  timeOffset : Int := 0
  nextTime : Nat := 0
  /-- Link delay measured in training, by port, in ns (R301). -/
  delays : List (Nat × Nat) := []
  /-- Inputs granted at each output port and virtual channel (port × 8 + channel), the least recently granted first (R34, R286). -/
  served : List (Nat × List Nat) := []
deriving DecidableEq, Repr, Inhabited

/-- What a port last heard of its partner (R306, R307): the hello's 64 bytes, and ticks since it came. -/
structure Neighbour where
  hello : List Nat := []
  silent : Nat := 0
deriving DecidableEq, Repr, Inhabited

/-- A member-table entry as formed (R314). -/
structure Member where
  serial : Nat
  chip : Nat
  x : Nat
  y : Nat
  z : Nat
  donor : Bool
deriving DecidableEq, Repr, Inhabited

/-- Topology beside block TOPO (R306–R321). -/
structure Topo where
  neighbours : List (Nat × Neighbour) := []
  members : List Member := []
  /-- Partners that were last on some port and have not been declared lost (R309): chips. -/
  partners : List Nat := []
  /-- Chips whose loss Bimon has declared since the last form. -/
  lost : List Nat := []
  /-- An abort to originate at the next tick: cause, lost chip (R310). -/
  abortDue : List (Nat × Nat) := []
  /-- Prefix-index form: true hashed by chip over a whole partition (R242). -/
  planesFormed : Nat := 0
deriving DecidableEq, Repr, Inhabited

/-- A tile on a core (R47–R49, R63, R92). -/
structure Tile where
  id : Nat
  die : Nat
  /-- Physical core it was dispatched to; 34 where it is to be dispatched again (Table 3-7). -/
  core : Nat
  launch : Nat
  /-- The descriptor, its M fields cut to the launch's rows (R179). -/
  words : List Nat
  since : Nat
  /-- The thresholds it started with, 0 for a disabled one, and the most redeals (R91, R92). -/
  satShift : Nat
  zeroShift : Nat
  maxRedeals : Nat
  /-- Redeals run, verdicts that crossed the saturation threshold (H), and H of the last redeal. -/
  redeals : Nat := 0
  h : Nat := 0
  lastH : Nat := 0
  /-- The core on which the present whole pass runs, and the shares that replay instead: array, core, array that runs it (R63). -/
  onCore : Nat
  shares : List (Nat × Nat × Nat) := []
  /-- Arrays (core × 4 + array) on which it has misdealt, and whether its weights were dealt again for this replay (R67). -/
  bad : List Nat := []
  fresh : Bool := false
  /-- The 64 KiB pages, by number, of its context that it needs before its verdict (R118). -/
  pages : List Nat := []
deriving DecidableEq, Repr, Inhabited

/-- A router (R155, R181): its context, layer and model slot, the fields of Table 7-6, and its placement table: chip, slot, valid
(1 or 0), RECV_VA (Table 7-2). The bias loop's settings follow (Table 7-1); new ones apply from the next period. -/
structure Router where
  ctx : Nat
  slot : Nat
  layer : Nat
  experts : Nat
  topK : Nat
  scoreFn : Nat
  norm : Bool
  gateBf16 : Bool
  report : Nat
  shared : Nat
  capacity : Nat
  rowBytes : Nat
  scale : Nat
  biasVa : Nat
  countVa : Nat
  place : List (Nat × Nat × Nat × Nat)
  loopOn : Bool := false
  deadBand : Nat := 0
  biasStep : Nat := 0
  biasLimit : Nat := 0
  minSamples : Nat := 0
  /-- Settings that apply from the next period: ENABLE, DEAD_BAND, STEP, LIMIT, MIN_SAMPLES; and the period from which they do (R163). -/
  loopNext : List Nat := []
  loopFrom : Nat := 0
  /-- The 10-tick period last updated (R161). -/
  lastPeriod : Nat := 0
  /-- Step-word slot of the context (R215). -/
  stepSlot : Nat := 0
deriving DecidableEq, Repr, Inhabited

/-- A receive area homed here that is in use (R166–R169, R175): context, slot, layer, expert, parity; 0 awaiting, 1 decided with
rows, 2 its expert launch runs, 3 every add acknowledged, 4 decided with COUNT zero. -/
structure Area where
  ctx : Nat
  slot : Nat
  layer : Nat
  expert : Nat
  parity : Nat
  state : Nat := 0
  /-- Time of its first arrival, its place among the areas decided, whether its weights are dealt, and its rows. -/
  since : Nat := 0
  order : Nat := 0
  dealt : Bool := false
  count : Nat := 0
  /-- Time it was decided (R174). -/
  decidedAt : Nat := 0
  /-- Its expert launch: the rows it runs on (R178), the rows whose adds have been handed to a mover, the sources whose DONE counter has
  been raised (chip, DONE_VA), and the status with which one of its adds failed (R175). -/
  rows : Nat := 0
  sent : Nat := 0
  told : List (Nat × Nat) := []
  bad : Option (Nat × Nat) := none
deriving DecidableEq, Repr, Inhabited

/-- A hand beside SERVE.HAND_STATE and SERVE.SPEC_STATE (R207–R211). -/
structure Hand where
  /-- Cache base, span allowance, CHUNK, TARGET_US, TEMPERATURE, TOP_P (Table 9-2). -/
  cacheVa : Nat := 0
  allow : Nat := 0
  chunk : Nat := 512
  targetUs : Nat := 0
  temperature : Nat := 0
  topP : Nat := 0
  /-- Sampling generator: its seed and the values drawn (R210). -/
  seed : Nat := 0
  draws : Nat := 0
  /-- The pending token's value; HAND_STATE.PENDING says whether there is one (R218). -/
  token : Nat := 0
  /-- Attention layers of its model and of its lead when it was opened (R189, R230). -/
  layers : Nat := 0
  leadLayers : Nat := 0
  /-- Positions below this one come from the attached prefix entry (R240). -/
  prefixLen : Nat := 0
  /-- Model-table slot of the variant it is bound to (R248). -/
  variantSlot : Nat := 0
  /-- Lead: cache base and committed length (R230), most depth, and that the next counted step is a probe (R234). -/
  leadVa : Nat := 0
  leadLen : Nat := 0
  maxDepth : Nat := 0
  probe : Bool := false
  /-- Spans allocated, in ascending order: of the hand, and of its lead (R230). -/
  spans : List Nat := []
  leadSpans : List Nat := []
  /-- Ring descriptor words, empty for a hand of no ring, and the ordinal of its next ring command (R200, R211). -/
  ring : List Nat := []
  ordinal : Nat := 0
  /-- Host slots of its pages homed in host memory: page address to slot (R194); the host, whether the slots are of the kitty
  area, and the format: 0 MXFP8, 1 FP4. -/
  slots : List (Nat × Nat) := []
  host : Nat := 0
  inKitty : Bool := false
  fmt : Nat := 0
  /-- Time its last step completed, and the time its eviction completed (R197, R199). -/
  lastStep : Nat := 0
  evictedAt : Nat := 0
  /-- The PARK or UNPARK that moves it, and its kitty entry (Table 9-1). -/
  cmd : Option Nat := none
  entry : Nat := 0
  /-- Tokens of the present PREFILL_CHUNK command that have run (R217). -/
  ran : Nat := 0
  /-- It became LOST by a job abort (Table 9-7). -/
  aborted : Bool := false
  /-- Chosen as a victim while its step runs: its eviction waits for the step to complete (Table 8-4). -/
  evict : Bool := false
  /-- Blocks taken out of its ring buffer, and blocks sent into the next member's (R203). -/
  ringIn : Nat := 0
  ringOut : Nat := 0
deriving DecidableEq, Repr, Inhabited

/-- A kitty entry (R222, Table 9-4). States: 0 EMPTY, 1 FILLING, 2 HELD, 3 TAKING, 4 LOST. -/
structure Kitty where
  state : Nat := 0
  gen : Nat := 0
  ctx : Nat := 0
  /-- What the parked copy keeps (R221): the hand, its HAND_STATE and SPEC_STATE words. -/
  hand : Hand := {}
  word : Nat := 0
  spec : Nat := 0
  /-- Time to live in s, and when it ends. -/
  ttl : Nat := 0
  ends : Nat := 0
  /-- Hand that fills it or takes it. -/
  fill : Nat := 0
deriving DecidableEq, Repr, Inhabited

/-- An item of a step (R212, R216): hand, its command, whether a chunk, first position, tokens run, draft depth, input token. -/
structure StepItem where
  hand : Nat
  cmd : Nat
  chunk : Bool
  first : Nat
  count : Nat
  depth : Nat := 0
  token : Nat := 0
  /-- The last chunk of its command, and that it produces a token (EMIT, or a token step). -/
  last : Bool := true
  emit : Bool := true
  /-- The status it ends with if not by completing. -/
  ended : Option (Nat × Nat) := none
  /-- Rows of its tokens that skipped a layer, and assignments that overflowed (R219). -/
  skipped : Nat := 0
  overflowed : Nat := 0
deriving DecidableEq, Repr, Inhabited

/-- A running step of a context (R212–R216). -/
structure Step where
  ctx : Nat
  no : Nat
  slot : Nat
  cls : Nat
  since : Nat
  items : List StepItem := []
  /-- Variant groups in the order they run (R247). -/
  groups : List Nat := []
  /-- Layers still to run (R212). -/
  layers : List Nat := []
  /-- Launch that runs now. -/
  launch : Option Nat := none
  empty : Bool := false
  /-- The least TARGET_US of its hands, 0 where none has one (R220). -/
  target : Nat := 0
  /-- LATENT_MODE and MERGE_MAX in force at its assembly (Table 8-7). -/
  latentMode : Nat := 0
  mergeMax : Nat := 0
deriving DecidableEq, Repr, Inhabited

/-- A prefix entry (R239). -/
structure Entry where
  live : Bool := false
  gen : Nat := 0
  ctx : Nat := 0
  variant : Nat := 0
  slot : Nat := 0
  /-- ENTRY_VA, blocks held and their tokens; the lead slot whose cache it carries; spans of the hand's and of the lead's cache. -/
  va : Nat := 0
  blocks : Nat := 0
  tokens : List Nat := []
  lead : Option Nat := none
  spans : Nat := 0
  leadSpans : Nat := 0
  layers : Nat := 0
  leadLayers : Nat := 0
  /-- LAST_MATCH of each block's record that names the entry, as this module knows it, by block. -/
  times : List (Nat × Nat) := []
deriving DecidableEq, Repr, Inhabited

/-- A registered variant (R245, R248): the model-table slot and the descriptors' words. -/
structure Variant where
  no : Nat
  ctx : Nat
  slot : Nat
  descs : List (List Nat)
deriving DecidableEq, Repr, Inhabited

/-- An account record (R226, Table 9-8): energy held in µJ, and what the present tick has charged: core ns by die, and bytes. -/
structure Account where
  engineNs : Nat := 0
  bytes : List Nat := [0, 0, 0, 0]
  energyUj : Nat := 0
  tokens : Nat := 0
  steps : Nat := 0
  parks : Nat := 0
  tickNs : List (Nat × Nat) := []
  tickBytes : Nat := 0
deriving DecidableEq, Repr, Inhabited

/-- A run of at most four cache pages that an attention launch reads for a hand (R191): where its latents and its position keys
begin, in the context or, with `dev` set, in a ring buffer of this module; the position it begins at, the positions of its pages, and
those that are not masked out. -/
structure CacheRun where
  hand : Nat
  dev : Bool
  lat : Nat
  pos : Nat
  first : Nat
  n : Nat
  live : Nat
deriving DecidableEq, Repr

/-- A hand's attention in a launch (R191, R202–R204): the first of the free values of its new positions and query rows; the blocks or
messages it has sent, the blocks it has taken in with the runs made of the block in hand, and the partials it has sent back or merged. -/
structure AttnWork where
  hand : Nat
  fr : Nat
  sent : Nat := 0
  got : Nat := 0
  run : Nat := 0
  back : Nat := 0
  merged : Bool := false
deriving DecidableEq, Repr

/-- The running softmax of a query row and head (R191, R204): the hand, the ring member that holds the row, and m, s and a in FP32. -/
structure AttnSum where
  hand : Nat
  member : Nat
  row : Nat
  head : Nat
  m : Nat
  s : Nat
  a : List Nat
deriving DecidableEq, Repr

/-- A launch's part on one die (R252, R377): where its program stands there. This is also what a cursor saves (Table 11-2). -/
structure DiePart where
  die : Nat
  /-- 0 not ready, 1 in its ring, 2 holds the die, 3 complete. -/
  phase : Nat := 0
  /-- Next record of the program, and the loop's iteration (R180). -/
  next : Nat := 0
  iter : Nat := 0
  /-- Next wave of the tile record in progress, with the record's descriptor as patched; empty when none (R47). -/
  wave : Nat := 0
  tile : List Nat := []
  /-- Records started and not complete: the movers' descriptors and tiles of the part. -/
  busy : Nat := 0
  /-- A WAIT record holds the part: its body, and the time it gives up (R377). -/
  waiting : List Nat := []
  deadline : Nat := 0
  /-- Time from which the die's holding is still to be counted, the end of its slice (R256), and whether it is paused there (R257). -/
  heldSince : Nat := 0
  sliceEnd : Nat := 0
  paused : Bool := false
  yielding : Bool := false
  /-- At the head of an iteration, whose trip count is still to be read (R180); the part has run to its end. -/
  head : Bool := false
  atEnd : Bool := false
  /-- Time a pause or pre-emption was asked for, plus 1 (R258). -/
  askedAt : Nat := 0
  /-- The 64 KiB pages that the tile it holds back needs (R118). -/
  need : List Nat := []
  /-- Attention (R191): that the runs of the present group are listed, those still to make, the one whose copies are asked for,
  and the working buffer: place and bytes. -/
  listed : Bool := false
  runs : List CacheRun := []
  asked : Option CacheRun := none
  buffer : List (Nat × List Nat) := []
deriving DecidableEq, Repr, Inhabited

/-- A launch (R252). Kinds: 0 LAUNCH_LAYER, 1 LAUNCH_KERNEL, 2 LAUNCH_LOOP, 3 a layer of a step. -/
structure Launch where
  id : Nat
  ctx : Nat
  cls : Nat
  kind : Nat
  /-- Its command, or the step or parent launch it belongs to. -/
  cmd : Option Nat := none
  owner : Nat := 0
  program : Nat := 0
  layer : Nat := 0
  argsVa : Nat := 0
  shapeVa : Nat := 0
  maxRows : Nat := 0
  stepNo : Nat := 0
  tripVa : Nat := 0
  maxTrips : Nat := 0
  /-- Ready under R253, the time it last became ready, plus 1 (R256), and the row count it read (R179). -/
  ready : Bool := false
  readyAt : Nat := 0
  rows : Nat := 0
  parts : List DiePart := []
  tiles : Nat := 0
  coreNs : Nat := 0
  /-- Expert of an expert launch; rows routed, admitted and skipped of a routed layer (R167–R176). -/
  expert : Nat := 0
  /-- Routed layer: 0 none, 1 gating, 2 dispatched, 3 combined. -/
  routePhase : Nat := 0
  admitted : Nat := 0
  skipped : Nat := 0
  /-- Assignments of a routed layer: row, rank, expert, gate bits. -/
  assigns : List (List Nat) := []
  /-- The status it ends with if not DONE. -/
  ended : Option (Nat × Nat) := none
  /-- Largest magnitude seen at each site and block of the launch (R90): key to FP32 pattern. -/
  emax : List (Nat × Nat) := []
  since : Nat := 0
  /-- Bytes its work moved in each tier, for accounts (R226). -/
  bytesTier : List Nat := [0, 0, 0, 0]
  /-- The slot, shard and time of the weight block it waits for (R341); empty when none. -/
  repairOn : List Nat := []
  /-- The program's image and argument-block size as the launch took them (R371). -/
  image : List Nat := []
  argBytes : Nat := 0
  /-- The slot that runs it, once it has started (R343), and that it has started: its row count and settings are taken. -/
  slot : Option Nat := none
  taken : Bool := false
  /-- Numerics settings it started with (Table 4-5): MARGIN, SAT_SHIFT, ZERO_SHIFT, MAX_REDEALS, TABLE_ENABLE, TABLE_VA, SITES,
  STRIDE. -/
  num : List Nat := []
  /-- A part ended at MAX_TRIPS while the trip count asked for more (R180). -/
  loopMax : Bool := false
  /-- Rows that each client tag has in it (R227). -/
  tags : List (Nat × Nat) := []
  /-- Routed layer: that it has gated, the first of the free values it took (R156), its entries (expert; 0 to ask, 1 asked, 2 answered;
  old ADMIT; rows admitted), that its counts are made and its ALLTOALL is issued, and the next row for its shared experts' adds
  (R159, R167, R171). -/
  gated : Bool := false
  scores : Nat := 0
  entries : List (List Nat) := []
  counted : Bool := false
  sent : Bool := false
  sharedNext : Nat := 0
  /-- The combine rows of its tokens and its 64-bit combine counter (Table 7-4). -/
  rowVas : List Nat := []
  doneVa : Nat := 0
  /-- Variant groups in the order they run (R247). -/
  groups : List Nat := [0]
  /-- Attention of a step's layer: groups whose new positions are written (R193), the work of each hand, and the running softmaxes. -/
  filled : List Nat := []
  work : List AttnWork := []
  sums : List AttnSum := []
deriving DecidableEq, Repr, Inhabited

/-- A loaded program (R371): owner context, kind, dies, argument bytes and the image's bytes. -/
structure Program where
  handle : Nat
  ctx : Nat
  kind : Nat
  dies : Nat
  argBytes : Nat
  image : List Nat
deriving DecidableEq, Repr, Inhabited

/-- A matrix core being replaced (R68, Table 3-5): the retired core, its logical number, the core under test, the cause. -/
structure CoreDraw where
  die : Nat
  old : Nat
  logical : Nat
  drawn : Option Nat := none
  cause : Nat
  /-- The first tick boundary, in ms, at which its next step may be taken (Table 3-5). -/
  due : Nat := 0
deriving DecidableEq, Repr, Inhabited

/-- A shard of a slot's image (R333, Table 14-3). States: 0 WAITING, 1 ARRIVING, 2 VERIFIED, 3 FAILED, 4 CORRUPT, 5 REPAIRING. -/
structure Shard where
  no : Nat
  off : Nat
  len : Nat
  digest : List Nat
  state : Nat := 0
  attempts : Nat := 0
  /-- Start of its timer (R337). -/
  since : Nat := 0
  /-- The SHARD_INTAKE that brings it, its port, the start of its window in BAR2, or the donor's chip and slot (R335, R338). -/
  cmd : Option Nat := none
  port : Nat := 0
  window : Option Nat := none
  donor : Option (Nat × Nat) := none
  /-- It came from a donor and no pass has checked it since (R338). -/
  unchecked : Bool := false
  /-- Ranges of its bytes that have landed, the digest engine that hashes it, and its place among windows that wait. -/
  landed : List (Nat × Nat) := []
  engine : Option Nat := none
  turn : Nat := 0
  /-- Bytes of a repair that are not zero, in frames of stock capacity, by place in the shard (R340); a repair that waits to be
  swapped in, with the time it was verified. -/
  repair : List (Nat × Nat) := []
  swapSince : Option Nat := none
  /-- Weight blocks that failed (R129): place in the shard and time. -/
  bad : List (Nat × Nat) := []
deriving DecidableEq, Repr, Inhabited

/-- A slot of the model table beside LOAD.SLOT (R331–R333): the pages of its image with their frames, its shards, its matrices
(number, rank code, K, N, codes, die mask), and the commands that wait on it. -/
structure Slot where
  pages : List (Nat × Nat) := []
  shards : List Shard := []
  matrices : List (List Nat) := []
  stageCmd : Option Nat := none
  /-- Layers whose attention caches: the number of attention layers of its model, not held in the manifest. -/
  attnLayers : Nat := 0
  /-- Every shard of the model is this module's (R229). -/
  whole : Bool := true
deriving DecidableEq, Repr, Inhabited

/-- A pending MODEL_SWITCH (R343). -/
structure Switch where
  ctx : Nat
  slot : Nat
  atStep : Nat
  next : Bool
  cmd : Nat
deriving DecidableEq, Repr, Inhabited

/-- The management island beside blocks MGMT and DISC (R390–R411, R481–R491). -/
structure Mgmt where
  /-- The standby input is in range, the main input is in range, and the off state of R404 and R425 is latched until both have
  been absent. -/
  standby : Bool := false
  mainIn : Bool := false
  latched : Bool := false
  /-- Start of the main-rail sequence, none while the rails are off (R483). -/
  railsAt : Option Nat := none
  /-- The rails are held off because no Amelo bank verified (R449); Amelo takes commands (R488). -/
  held : Bool := false
  amelo : Bool := false
  /-- Last tick boundary worked, and the time Bimon last completed item 4 (R392). -/
  lastTick : Nat := 0
  alive : Nat := 0
  /-- What the last boundary found: that the rails may start (R483), and that ROOT is READY with AUTO_RETURN set (R441). -/
  railsDue : Bool := false
  clocksDue : Bool := false
  /-- Times of watchdog restarts, newest first. -/
  restarts : List Nat := []
  /-- Time of the last MCTP message (R410). -/
  heard : Nat := 0
  /-- Side-band commands received and not handed over (R397). -/
  sbIn : List Cmd := []
  /-- Event receiver (R400), and numeric sensors disabled by SetNumericSensorEnable. -/
  receiver : Option Nat := none
  sensorOff : List Nat := []
  /-- Readings of the PLDM sensors as of the last tick, by sensor ID. -/
  sensors : List (Nat × Nat) := []
  /-- Times of each input's filtered transitions, newest first (R402); since when DRAIN_REQ_N has been asserted (R403). -/
  moves : List (Nat × List Nat) := []
  drainSince : Option Nat := none
deriving DecidableEq, Repr, Inhabited

/-- Power beside block PWR (R414–R429). -/
structure Power where
  /-- The limit that Bimon last wrote for a die, in W, and when its pace last moved (R418). -/
  limits : List (Nat × Nat) := []
  paceAt : List (Nat × Nat) := []
  /-- Dies whose limit has bound in this tick (R424). -/
  bound : List Nat := []
  /-- The last 16 ticks, newest first: mean VCD power and pace of the eight dies (R420). -/
  hist : List (List Nat) := []
  /-- Consecutive ticks at or below 95 °C while the thermal cut holds (Table 18-4). -/
  cool : Nat := 0
  /-- Ticks without a valid reading, by sensor, and the sensors taken as 100 °C (R426). -/
  missing : List (Nat × Nat) := []
  failed : List Nat := []
  /-- R405: the cap in force before the warning, that a CAP_SET has been accepted since it began, when PWARN_N was released, and
  that the second without a CAP_SET has passed. -/
  capBefore : Nat := 0
  capSet : Bool := false
  released : Option Nat := none
  restore : Bool := false
  /-- Phases that have failed and have not been replaced: rail, phase, and when it failed (R416). -/
  phases : List (Nat × Nat × Nat) := []
  /-- Where a rail stood above 0.62 V, in µV, and when, as its target last changed (R423). -/
  slew : List (Nat × Nat × Nat) := []
  /-- Die-ns of collective wait that PWR.COLL_WAIT's division by eight has left over (R421). -/
  collRest : Nat := 0
deriving DecidableEq, Repr, Inhabited

/-- A firmware bank in flash (R449–R453): its bytes that are not zero, or none while it is as it left manufacture; the source that
loads it, and that a chunk at OFFSET 0 has come. -/
structure FwBank where
  bytes : Option (List (Nat × Nat)) := none
  source : Nat := 0
  begun : Bool := false
deriving DecidableEq, Repr, Inhabited

/-- A measured stage (R450, Table 20-4). -/
structure Stage where
  typ : Nat
  bank : Nat
  version : Nat
  svn : Nat
  digest : List Nat
deriving DecidableEq, Repr, Inhabited

/-- The security engine and its flash beside block SEC (R447–R467). -/
structure Sec where
  /-- Banks: image type × 2 + bank. Boot banks and SVN floors by type, where not 0 and 1 (R453, R454). -/
  banks : List (Nat × FwBank) := []
  boot : List (Nat × Nat) := []
  floors : List (Nat × Nat) := []
  /-- Types whose activation carries SVN_COMMIT (R454). -/
  commits : List Nat := []
  /-- Types activated whose new boot bank has not been tried at a boot (Table 20-6, 0x1411). -/
  activated : List Nat := []
  /-- When each type's running image began to run (R454). -/
  ranAt : List (Nat × Nat) := []
  /-- Owner key, empty while none is enrolled (R458); RESERVED (R456). -/
  owner : List Nat := []
  reserved : Nat := 0
  /-- Nonce of each source, and when it ends (R459). -/
  nonces : List (Nat × List Nat) := []
  expiry : List (Nat × Nat) := []
  /-- Report buffer of each source, and the next byte that REPORT_DATA returns (R462, R467). -/
  reports : List (Nat × List Nat) := []
  reportAt : List (Nat × Nat) := []
  /-- The chain and its stages (R450). -/
  chain : List Nat := []
  stages : List Stage := []
  /-- Times of the signatures of the last second, newest first (R455). -/
  signed : List Nat := []
  /-- The configuration record in flash: the counter C and the copy in force, the time and scorebook SEQ it reflects, its unit
  states, and its chip-number override (R326, R463). -/
  counter : Nat := 0
  copy : Nat := 0
  recTime : Nat := 0
  recSeq : Nat := 0
  recUnits : List (Nat × Nat) := []
  override : Option Nat := none
deriving DecidableEq, Repr, Inhabited

/-- The whole machine. Registers are one keyed store (`regs`: key of a field to value; a field not listed is at its reset
value), memory one list of bytes (a byte not listed reads as zero, R518 for device frames). -/
structure State where
  /-- Nanoseconds since the standby power-on. -/
  now : Nat := 0
  /-- Free choices and free values taken so far (the model's own counter). -/
  freeCtr : Nat := 0
  regs : List (Nat × Nat) := []
  mem : List Host.Cell := []
  /-- What the module has sent, newest first. -/
  out : List Output := []
  /-- The commands that wait, first in first out. -/
  pending : List Instr := []
  score : Score := {}
  ports : List (Nat × PciePort) := []
  chans : List (Nat × Chan) := []
  cmds : List Cmd := []
  nextCmd : Nat := 0
  doneCtr : Nat := 0
  grants : Nat := 0
  /-- Amelo's hold of replies, oldest first (R361). -/
  hold : List Reply := []
  /-- Replies that wait with their unit for room in the hold (R361). -/
  late : List Reply := []
  ctxs : List (Nat × Ctx) := []
  allocs : List Alloc := []
  ranges : List VaRange := []
  windows : List Window := []
  moves : List Move := []
  nextMove : Nat := 0
  /-- Moves asked for and not yet taken by the tier engine (R119). -/
  wants : List Move := []
  fwds : List Fwd := []
  remaps : List Remap := []
  tlbs : List Tlb := []
  faults : List FaultEntry := []
  nextFault : Nat := 0
  descs : List Desc := []
  nextDesc : Nat := 0
  fabric : Fabric := {}
  topo : Topo := {}
  /-- Tiles on the cores, in the order of their dispatch, and the next one's number. -/
  tiles : List Tile := []
  nextTile : Nat := 0
  /-- Time of the misdeal that armed an array: (die × 34 + core) × 4 + array to time (R64). -/
  arming : List (Nat × Nat) := []
  /-- Arrays whose next comparison MTX.INJECT corrupts (R75), by the same keys. -/
  injects : List Nat := []
  routers : List Router := []
  areas : List Area := []
  /-- Areas decided so far. -/
  decided : Nat := 0
  /-- Step slots of routed contexts (R215): context to slot. -/
  stepSlots : List (Nat × Nat) := []
  /-- Hands (R207). -/
  hands : List (Nat × Hand) := []
  /-- Kitty entries (R222). -/
  kitty : List (Nat × Kitty) := []
  /-- Running steps, one a context at most (R212). -/
  steps : List Step := []
  /-- Prefix entries (R239), and nodes of the radix tree handed out on this member (R238). -/
  entries : List (Nat × Entry) := []
  treeNodes : List Nat := []
  /-- Registered variants, and registrations and removals that apply from the next step assembly (R248). -/
  variants : List Variant := []
  /-- Dealers (R174): die to the expert image in hand (the place in the order of decision of its area, 0 for none), the bytes of it
  dealt, and the places of the areas whose images it has dealt whole. -/
  dealing : List (Nat × List Nat) := []
  /-- Account records (R226): context c at key c, tag t at key 1,024 + t. -/
  accounts : List (Nat × Account) := []
  launches : List Launch := []
  nextLaunch : Nat := 0
  /-- The rings of ready launches: die × 2 + class to launch ids, head first (R256). -/
  rings : List (Nat × List Nat) := []
  programs : List Program := []
  /-- When the pace lets a core take its next tile (R417): die × 34 + core to time. -/
  coreFree : List (Nat × Nat) := []
  /-- Phase of each die (R422): since when it has its tag, and the ns that tags have held it this tick, by die × 64 + tag. -/
  phaseSince : List (Nat × Nat) := []
  phaseNs : List (Nat × Nat) := []
  /-- Replacements of cores under way (R68). -/
  draws : List CoreDraw := []
  /-- States of stock units of classes 1, 2 and 4 that are not as the first stock map has them (R322, R517): (class × 8 + group) ×
  512 + unit to the state's code. -/
  units : List (Nat × Nat) := []
  /-- Physical bank of a logical bank where it is not the bank of its own number (R109): die × 256 + bank. -/
  bankMap : List (Nat × Nat) := []
  /-- Logical banks with a persistent parity error, to be retired at the next tick (R130): die, bank. -/
  badBanks : List (Nat × Nat) := []
  /-- Stock units whose daily self-test is due (R323), as keys of `units` (class 0 and 3 included). -/
  selfDue : List Nat := []
  /-- Time of the last change of the stock map that the configuration record does not hold (R326). -/
  recordDue : Option Nat := none
  /-- The model table (R331). -/
  slots : List (Nat × Slot) := []
  switches : List Switch := []
  /-- Windows opened so far, and the shards that the background pass has still to check: slot, shard (R339). -/
  windowTurn : Nat := 0
  recheck : List (Nat × Nat) := []
  recheckAt : Nat := 0
  /-- Management island, power control and security engine. -/
  mgmt : Mgmt := {}
  power : Power := {}
  sec : Sec := {}
  /-- Clock domains that a reference failure moved or stopped (R441). -/
  clkMoved : List Nat := []
  /-- The standby domains move from INT to ROOT at the next tick boundary of the bring-up (R488). -/
  clkBring : Bool := false
  /-- Time base at which the error of a bank of `badBanks` was met (R130): die × 256 + bank to time. -/
  badSince : List (Nat × Nat) := []
  /-- Requests that wait at their MMU for an entry of a full fault table, each counted once (Table 5-13). -/
  tableWaits : List Parked := []
  /-- PAGES, RESERVE, EVICT_FORMAT, LATENT_MODE and MERGE_MAX as the last step assembly found them (Table 8-7). -/
  cacheSet : List Nat := []
  /-- Bytes that have landed in the places of ring traffic (R203, R204), by hand × 32 + place: 0–3 the four blocks, 8 + k the queries and
  16 + k the partials of member k. -/
  ringLanded : List (Nat × Nat) := []
  /-- The stock unit under its daily self-test, by the key that `selfDue` had of it (R323). -/
  selfNow : Option Nat := none
deriving DecidableEq, Repr

/-- The machine right after the standby power-on reset (R481, R485): every register at its reset value, nothing listed in
memory, both supplies absent, no command waiting. -/
def State.reset : State := {}

end Sys2Proof.Machine
end

