-- ==== Sys2Proof/Machine/Ops.lean ====
section
/-! DEFINITION. The named operations over registers and memory, the time base, MSI-X, the scorebook's records, and the
completion of a command: what every unit of the Gonak does to the state goes through these. -/

namespace Sys2Proof.Machine

open Sys2Proof

/-! Registers (R7–R11). -/

/-- The value of a register field. -/
def State.rd (s : State) (f : Fld) : Nat := (aFind s.regs f.key).getD f.rst

/-- A register field set by the Gonak, cut to the field's width. -/
def State.wr (s : State) (f : Fld) (v : Nat) : State :=
  { s with regs := if v % 2 ^ f.w = f.rst then aErase s.regs f.key else aPut s.regs f.key (v % 2 ^ f.w) }

/-- A saturating count raised by `n` (R11). -/
def State.bump (s : State) (f : Fld) (n : Nat) : State := s.wr f (min (s.rd f + n) (2 ^ f.w - 1))

/-- A count lowered by `n`, never below zero. -/
def State.drop (s : State) (f : Fld) (n : Nat) : State := s.wr f (s.rd f - n)

/-- Whether a one-bit field is set. -/
def State.is (s : State) (f : Fld) : Bool := s.rd f == 1

/-- A field put back to its reset value. -/
def State.reg0 (s : State) (f : Fld) : State := { s with regs := aErase s.regs f.key }

/-- Fields put back to their reset values. -/
def State.regs0 (s : State) (fs : List Fld) : State := fs.foldl State.reg0 s

/-- Fields written together. -/
def State.wrs (s : State) (l : List (Fld × Nat)) : State := l.foldl (fun t p => t.wr p.1 p.2) s

/-- The canonical form of the register store: keys strictly rising. -/
def regsWf (r : List (Nat × Nat)) : Bool := aWf (fun _ => true) r

/-! Memory (R105–R109, R518). -/

/-- The key of a local offset of this module, whose own chip number reads 0xFFD (R106). -/
def devKey (off : Nat) : Nat := 0xFFD * 2 ^ 44 + off

/-- The key of a bus address of this module's host `h` (R107). -/
def hostKey (h addr : Nat) : Nat := (0xFFE + h) * 2 ^ 44 + addr % 2 ^ 44

/-- The byte at a key. -/
def memByte (m : List Host.Cell) (a : Nat) : Byte := (aFind m a).getD 0

/-- The byte at a key set. -/
def memSet (m : List Host.Cell) (a : Nat) (b : Byte) : List Host.Cell := if b = 0 then aErase m a else aPut m a b

/-- The canonical form: keys strictly rising, no byte listed that is zero. -/
def memWf (m : List Host.Cell) : Bool := aWf (fun b => b != 0) m

/-- `n` bytes from a key up. -/
def memBytes (m : List Host.Cell) (a : Nat) : Nat → List Byte
  | 0 => []
  | n + 1 => memByte m a :: memBytes m (a + 1) n

/-- Bytes written from a key up. -/
def memWrite (m : List Host.Cell) (a : Nat) : List Byte → List Host.Cell
  | [] => m
  | b :: r => memWrite (memSet m a b) (a + 1) r

/-- The `n` bytes from a key up read as zeros. -/
def memClear (m : List Host.Cell) (a n : Nat) : List Host.Cell := m.filter (fun c => !(decide (a ≤ c.1) && decide (c.1 < a + n)))

/-- The `n` bytes at `src` copied to `dst`. -/
def memCopy (m : List Host.Cell) (dst src n : Nat) : List Host.Cell :=
  (m.filter (fun c => decide (src ≤ c.1) && decide (c.1 < src + n))).foldl (fun a c => memSet a (c.1 - src + dst) c.2) (memClear m dst n)

/-- The `n`-byte little-endian number at a key. -/
def State.load (s : State) (a n : Nat) : Nat := leNat (memBytes s.mem a n)

/-- An `n`-byte little-endian number stored at a key. -/
def State.store (s : State) (a n v : Nat) : State := { s with mem := memWrite s.mem a (leBytes n v) }

/-- Bytes stored at a key. -/
def State.storeBytes (s : State) (a : Nat) (l : List Byte) : State := { s with mem := memWrite s.mem a l }

/-- Words of 8 bytes stored from a key up. -/
def State.storeWords (s : State) (a : Nat) (l : List Nat) : State := s.storeBytes a (l.flatMap (leBytes 8))

/-- Words of 8 bytes read from a key up. -/
def State.loadWords (s : State) (a n : Nat) : List Nat := (List.range n).map (fun i => s.load (a + 8 * i) 8)

/-- A range copied. -/
def State.copy (s : State) (dst src n : Nat) : State := { s with mem := memCopy s.mem dst src n }

/-- A range cleared (R518). -/
def State.clear (s : State) (a n : Nat) : State := { s with mem := memClear s.mem a n }

/-- The first offset beyond HBM (Table 5-2). -/
def hbmEnd : Nat := 0x118_0000_0000
/-- The first offset of SRAM (Table 5-2). -/
def sramBase : Nat := 0x800_0000_0000
/-- The first offset beyond SRAM (Table 5-2). -/
def sramEnd : Nat := 0x800_8000_0000

/-- Whether `n` bytes from a local offset lie wholly in HBM or wholly in SRAM (Table 5-2). -/
def inDevice (off n : Nat) : Bool :=
  decide (off + n ≤ hbmEnd) || (decide (sramBase ≤ off) && decide (off + n ≤ sramEnd))

/-- The compute die that holds a local offset (R108, R109); 8 for none. -/
def dieOf (off : Nat) : Nat :=
  if off < hbmEnd then off / 0x23_0000_0000
  else if off < sramBase then 8
  else if off < sramEnd then (off - sramBase) / 0x1000_0000
  else 8

/-- The stack that holds an HBM offset (R108). -/
def stackOf (off : Nat) : Nat := 2 * (off / 0x23_0000_0000) + off % 0x23_0000_0000 / 4096 % 2

/-! Time (R4, R301). -/

/-- The time base, in ns. -/
def State.timeBase (s : State) : Nat := ((s.now : Int) + s.fabric.timeOffset).toNat

/-! Free choices. -/

/-- The next free choice below `n`. -/
def State.chooseBelow (s : State) (n : Nat) : Nat := Config.freeChoice s.freeCtr % n

/-- One free choice or value taken. -/
def State.took (s : State) : State := { s with freeCtr := s.freeCtr + 1 }

/-! Tables of the state. -/

/-- The port of host `h`. -/
def State.port (s : State) (h : Nat) : PciePort := (aFind s.ports h).getD {}
/-- The port of host `h` replaced. -/
def State.setPort (s : State) (h : Nat) (p : PciePort) : State := { s with ports := aPut s.ports h p }
/-- Channel `c`. -/
def State.chan (s : State) (c : Nat) : Chan := (aFind s.chans c).getD {}
/-- Channel `c` replaced. -/
def State.setChan (s : State) (c : Nat) (x : Chan) : State := { s with chans := aPut s.chans c x }
/-- Context `c`. -/
def State.ctx (s : State) (c : Nat) : Ctx := (aFind s.ctxs c).getD {}
/-- Context `c` replaced. -/
def State.setCtx (s : State) (c : Nat) (x : Ctx) : State := { s with ctxs := aPut s.ctxs c x }
/-- Link `l`. -/
def State.link (s : State) (l : Nat) : Link := (aFind s.fabric.links l).getD {}
/-- Link `l` replaced. -/
def State.setLink (s : State) (l : Nat) (x : Link) : State := { s with fabric := { s.fabric with links := aPut s.fabric.links l x } }

/-- Something sent. -/
def State.emit (s : State) (o : Output) : State := { s with out := o :: s.out }

/-! Hosts and MSI-X (R382, R383). -/

/-- Whether host `h` is ATTACHED (Table 16-4). -/
def State.attached (s : State) (h : Nat) : Bool := s.rd (HIF.PORT_STATUS.HOST_STATE h) == 2

/-- A dword of a port's MSI-X table: word 3 of an entry resets masked, the rest zero. -/
def PciePort.msixWord (p : PciePort) (i : Nat) : Nat := (aFind p.msix i).getD (if i % 4 = 3 then 1 else 0)

/-- The message of a vector. -/
def PciePort.message (p : PciePort) (h v : Nat) : Output :=
  .msix h (p.msixWord (4 * v) + p.msixWord (4 * v + 1) * 2 ^ 32) (p.msixWord (4 * v + 2))

/-- An MSI-X vector raised on host `h`: dropped where the host is not ATTACHED, pending where masked (R383). -/
def State.raise (s : State) (h v : Nat) : State :=
  if s.attached h && (s.port h).msixEnable then
    if (s.port h).msixMask || bit ((s.port h).msixWord (4 * v + 3)) 0 then
      s.setPort h { s.port h with pba := if (s.port h).pba.contains v then (s.port h).pba else v :: (s.port h).pba }
    else s.emit ((s.port h).message h v)
  else s

/-- A vector raised where its enable bit is 1. -/
def State.raiseIf (s : State) (h : Nat) (en vec : Fld) : State := if s.is en then s.raise h (s.rd vec) else s

/-- Stores `n` bytes at a bus address of host `h`, which reach it only while it is ATTACHED (R383). -/
def State.hostStore (s : State) (h addr n v : Nat) : State := if s.attached h then s.store (hostKey h addr) n v else s

/-! The scorebook (R468–R473). -/

/-- Severity and subsystem of a record code (Table 21-3). A code whose severity or subsystem the instance settles is given
by its caller. -/
def codeInfo (code : Nat) : Nat × Nat :=
  match code with
  | 0x0001 => (1, 19) | 0x0002 => (1, 19) | 0x0003 => (3, 19) | 0x0004 => (1, 12)
  | 0x0101 => (0, 1) | 0x0102 => (3, 1) | 0x0103 => (3, 11) | 0x0104 => (4, 1) | 0x0105 => (2, 3)
  | 0x0201 => (2, 5) | 0x0202 => (2, 4) | 0x0203 => (3, 4) | 0x0204 => (1, 10) | 0x0205 => (1, 5)
  | 0x0301 => (1, 10) | 0x0302 => (1, 10) | 0x0303 => (1, 11) | 0x0304 => (3, 11) | 0x0305 => (3, 11)
  | 0x0401 => (3, 12) | 0x0501 => (3, 16) | 0x0502 => (2, 16)
  | 0x0601 => (2, 19) | 0x0602 => (4, 19) | 0x0603 => (3, 19) | 0x0604 => (3, 19) | 0x0605 => (2, 19)
  | 0x0606 => (3, 19) | 0x0607 => (2, 19)
  | 0x0701 => (2, 17) | 0x0702 => (4, 17) | 0x0703 => (3, 17)
  | 0x0801 => (4, 18) | 0x0802 => (3, 18)
  | 0x0901 => (2, 20) | 0x0902 => (1, 20) | 0x0903 => (1, 20) | 0x0904 => (1, 20)
  | _ => (0, 0)

/-- Records in the ring that flash does not hold. -/
def Score.unflushed (b : Score) : Nat := (b.ring.filter (fun r => decide (b.flushedThrough < r.seq))).length

/-- The records held, in SEQ order: those in flash, then those of the ring beyond them (R475). -/
def Score.heldRecs (b : Score) : List Record :=
  b.flash.map Prod.snd ++ b.ring.filter (fun r => decide (b.flushedThrough < r.seq))

/-- SCORE.STATUS.UNFLUSHED and SCORE.HELD brought up to the records held. -/
def State.scoreRegs (s : State) : State :=
  (((s.wr SCORE.STATUS.UNFLUSHED s.score.unflushed).wr SCORE.HELD.OLDEST ((s.score.heldRecs.head?.map Record.seq).getD 0)).wr
    SCORE.HELD.NEWEST (s.score.nextSeq - 1))

/-- The vectors of a fault record (R469). -/
def State.scoreVectors (s : State) : State :=
  (s.raiseIf 0 (SCORE.EVENT_CTL.ENABLE 0) (SCORE.EVENT_CTL.VECTOR 0)).raiseIf 1 (SCORE.EVENT_CTL.ENABLE 1) (SCORE.EVENT_CTL.VECTOR 1)

/-- A record granted by the ring: the oldest leaves a full ring, and is lost if flash does not hold it (R468, R471, R473). -/
def State.recordRaw (s : State) (time code sev inst sub a0 a1 : Nat) : State :=
  let b := s.score
  let r : Record := ⟨time, code, sev, inst, sub, b.nextSeq, a0, a1⟩
  let full := decide (8192 ≤ b.ring.length)
  let lost := full && ((b.ring.head?.map (fun o => decide (b.flushedThrough < o.seq))).getD false)
  let s := { s with score := { b with ring := (if full then b.ring.drop 1 else b.ring) ++ [r], nextSeq := b.nextSeq + 1, flushDue := b.flushDue || decide (3 ≤ sev) } }
  let s := if lost then (s.bump SCORE.EVENTS.LOST 1).wr SCORE.STATUS.GEN (s.rd SCORE.STATUS.GEN + 1) else s
  let s := s.scoreRegs
  if 3 ≤ sev then (s.bump SCORE.EVENTS.FAULTS 1).scoreVectors else s

/-- A record written, and record 0x0003 behind it when 7,168 records of the ring are not yet in flash (R473). -/
def State.recordAs (s : State) (time code sev inst sub a0 a1 : Nat) : State :=
  let s := s.recordRaw time code sev inst sub a0 a1
  if decide (7168 ≤ s.score.unflushed) && !s.score.pressure then
    let n := s.score.unflushed
    { s with score := { s.score with pressure := true } }.recordRaw s.timeBase 0x0003 3 0 19 n 0
  else s

/-- A record with the severity and subsystem its code gives (Table 21-3), at the present time. -/
def State.record (s : State) (code inst a0 a1 : Nat) : State :=
  s.recordAs s.timeBase code (codeInfo code).1 inst (codeInfo code).2 a0 a1

/-- A record that Bimon writes at the next tick (R470). -/
def State.recordTick (s : State) (code inst a0 a1 : Nat) : State :=
  { s with score := { s.score with tickRecs := s.score.tickRecs ++ [⟨s.timeBase, code, inst, a0, a1⟩] } }

/-! Commands in flight (R355–R358). -/

/-- A parameter word P0–P5 of a command (Table 15-1). -/
def Cmd.p (c : Cmd) (i : Nat) : Nat := c.words.getD (i + 1) 0
/-- OPCODE. -/
def Cmd.opcode (c : Cmd) : Nat := bits (c.words.getD 0 0) 0 8
/-- CONTEXT. -/
def Cmd.context (c : Cmd) : Nat := bits (c.words.getD 0 0) 16 16
/-- SEQ. -/
def Cmd.seq (c : Cmd) : Nat := bits (c.words.getD 0 0) 32 16
/-- REPLY_RING. -/
def Cmd.ring (c : Cmd) : Nat := bits (c.words.getD 0 0) 48 8
/-- REPLY_REQ. -/
def Cmd.replyReq (c : Cmd) : Bool := bit (c.words.getD 0 0) 8
/-- SIGNAL_AFTER. -/
def Cmd.signalAfter (c : Cmd) : Bool := bit (c.words.getD 0 0) 10
/-- AUTH. -/
def Cmd.authBit (c : Cmd) : Bool := bit (c.words.getD 0 0) 11

/-- Status codes of Table 15-4. -/
def stDone : Nat := 0x00
def stAccepted : Nat := 0x01
def stBadOpcode : Nat := 0x10
def stBadParam : Nat := 0x11
def stBadContext : Nat := 0x12
def stNoResource : Nat := 0x13
def stNotAuthorised : Nat := 0x14
def stCrcFail : Nat := 0x15
def stSeqGap : Nat := 0x16
def stFaulted : Nat := 0x20
def stJobAborted : Nat := 0x21
def stPreempted : Nat := 0x22
def stTimedOut : Nat := 0x23
def stDigestFail : Nat := 0x24
def stPartnerGone : Nat := 0x25
def stParkExpired : Nat := 0x26
def stCapacitySkip : Nat := 0x27
def stBusyRetry : Nat := 0x30

/-- The command in flight with an acceptance number. -/
def State.cmdOf (s : State) (k : Nat) : Option Cmd := s.cmds.find? (fun c => c.id == k)

/-- The command `k` where it waits for the unit of opcode `op` to take it. -/
def State.cmdAt (s : State) (k op : Nat) : Option Cmd :=
  s.cmds.find? (fun c => c.id == k && c.opcode == op && !c.started && c.status.isNone)

/-- The command `k` where its unit has taken it and its status is not fixed. -/
def State.cmdRunning (s : State) (k : Nat) : Option Cmd :=
  s.cmds.find? (fun c => c.id == k && c.started && c.status.isNone)

/-- A command in flight changed in place. -/
def State.cmdMap (s : State) (k : Nat) (f : Cmd → Cmd) : State :=
  { s with cmds := s.cmds.map (fun c => if c.id = k then f c else c) }

/-- A command taken by its unit, with the progress the unit keeps. -/
def State.start (s : State) (k : Nat) (aux : List Nat) : State := s.cmdMap k (fun c => { c with started := true, aux := aux })

/-- A command's status fixed (R357): the first one fixed stands. -/
def State.finish (s : State) (k st det o0 o1 o2 : Nat) : State :=
  { (s.cmdMap k (fun c => if c.status.isNone then { c with started := true, status := some st, doneNo := s.doneCtr, doneAt := s.timeBase, detail := det, out0 := o0, out1 := o1, out2 := o2 } else c)) with doneCtr := s.doneCtr + 1 }

/-- A command discarded with no reply (R500, Table 9-7, Table 17-7). -/
def State.cmdDiscard (s : State) (k : Nat) : State := { s with cmds := s.cmds.filter (fun c => c.id != k) }

/-- A command ended DONE with its OUT words. -/
def State.doneWith (s : State) (k o0 o1 o2 : Nat) : State := s.finish k stDone 0 o0 o1 o2

/-- A command ended with a status and DETAIL and zero OUT words. -/
def State.failWith (s : State) (k st det : Nat) : State := s.finish k st det 0 0 0

/-! Contexts (R261–R263). -/

/-- Whether context `c` exists: LIVE or ORPHANED. -/
def State.inUse (s : State) (c : Nat) : Bool := decide (c < 1024) && s.rd (SCHED.CTX_STATE.LIFE c) != 0

/-- Whether context `c` is suspended (R263). -/
def State.suspended (s : State) (c : Nat) : Bool := s.is (SCHED.CTX_STATE.PREEMPTED c) || s.is (SCHED.CTX_STATE.FAULT c)

/-! Accesses of register space (R347, R374, R388). -/

/-- Whether the main rails are up. -/
def State.mainOn (s : State) : Bool := s.is MGMT.STATUS.MAIN_ON

/-- Whether an access of host `src` reaches the register space: its port is up with Memory Space Enable set, and the main rails are up. -/
def State.reaches (s : State) (src : Nat) : Bool :=
  decide (src < 2) && s.mainOn && s.is (HIF.PORT_STATUS.LINK_UP src) && s.is (HIF.PORT_STATUS.MSE src)

/-- An access that a port that is up does not accept, counted (R388). -/
def State.unreached (s : State) (src : Nat) : State :=
  if src < 2 ∧ s.is (HIF.PORT_STATUS.LINK_UP src) then s.bump (HIF.ERRORS.UNSUPPORTED src) 1 else s

/-- An access by host `src`. -/
def State.viaHost (s : State) (src : Nat) (f : State → State) : State := if s.reaches src then f s else s.unreached src

/-- An access by host `src`, or, 2, by the side-band window. -/
def State.viaSource (s : State) (src : Nat) (f : State → State) : State := if src = 2 then f s else s.viaHost src f

/-- This module's chip number (R308). -/
def State.chip (s : State) : Nat := s.rd TOPO.CHIP.CHIP

/-- Whether a chip is a member of the partition, this module always being one of its own (R316, Table 5-11). -/
def State.member (s : State) (c : Nat) : Bool := c == s.chip || s.topo.members.any (fun m => m.chip == c)

/-- Whether every bit of a word outside a mask of defined bits is zero (R364). -/
def onlyBits (w mask : Nat) : Bool := w == (w &&& mask)

end Sys2Proof.Machine
end

