-- ==== Sys2Proof/Machine/FabricOps.lean ====
section
/-! DEFINITION. The requester's side of the link fabric: packet headers (Table 12-4), tags and their window (R295), the
far-read cache's drops (R293), and sending a request. -/

namespace Sys2Proof.Machine

open Sys2Proof

/-! The header's fields (Table 12-4). -/

/-- DEST. -/
def Packet.dest (p : Packet) : Nat := bits p.w0 0 12
/-- SRC. -/
def Packet.src (p : Packet) : Nat := bits p.w0 12 12
/-- OP. -/
def Packet.op (p : Packet) : Nat := bits p.w0 24 8
/-- TAG. -/
def Packet.tag (p : Packet) : Nat := bits p.w0 32 16
/-- EPOCH. -/
def Packet.epoch (p : Packet) : Nat := bits p.w0 48 4
/-- HOST. -/
def Packet.host (p : Packet) : Nat := bits p.w0 52 2
/-- ROUTE. -/
def Packet.route (p : Packet) : Nat := bits p.w0 54 2
/-- RETRY. -/
def Packet.retry (p : Packet) : Bool := bit p.w0 56
/-- POISON. -/
def Packet.poison (p : Packet) : Bool := bit p.w0 57
/-- UNITS. -/
def Packet.units (p : Packet) : Nat := bits p.w0 58 3
/-- TYPE. -/
def Packet.typ (p : Packet) : Nat := bits p.w0 61 2
/-- OFFSET. -/
def Packet.offset (p : Packet) : Nat := bits p.w1 0 44
/-- ISSUE. -/
def Packet.issue (p : Packet) : Nat := bits p.w1 44 20

/-- Word 0 of a header. -/
def header0 (dest src op tag epoch host route retry poison units typ : Nat) : Nat :=
  dest % 2 ^ 12 + src % 2 ^ 12 * 2 ^ 12 + op % 2 ^ 8 * 2 ^ 24 + tag % 2 ^ 16 * 2 ^ 32 + epoch % 16 * 2 ^ 48 + host % 4 * 2 ^ 52 +
    route % 4 * 2 ^ 54 + retry % 2 * 2 ^ 56 + poison % 2 * 2 ^ 57 + units % 8 * 2 ^ 58 + typ % 4 * 2 ^ 61

/-- Word 1 of a header: the offset, and ISSUE from the source's time base in µs (R285). -/
def State.header1 (s : State) (offset : Nat) : Nat := offset % 2 ^ 44 + s.timeBase / 1000 % 2 ^ 20 * 2 ^ 44

/-- Operations whose packets carry data behind the header: every one but LOAD (UNITS is then the length asked) and ACK. -/
def opHasData (op : Nat) : Bool := op != 0x01 && op != 0x21

/-- REQ operations that apply at their home once: STORE and the atomics (R295). -/
def opIsWrite (op : Nat) : Bool := op == 0x02 || (decide (0x10 ≤ op) && decide (op ≤ 0x15))

/-- The home unit of a request (R295): the compute die of the offset, 8 for IOD0 (HOST 1), 9 for IOD2 (HOST 2), 15 for none. -/
def homeUnit (off host : Nat) : Nat :=
  if host = 1 then 8 else if host = 2 then 9 else if dieOf off < 8 then dieOf off else 15

/-- The global address of a block at chip, HOST and offset, as a far-read line is tagged (R292). -/
def globalBlock (chip off : Nat) : Nat := chip * 2 ^ 44 + off / 64 * 64

/-- FAB.FAR_CACHE.LINES brought up to the lines each die holds. -/
def State.farCount (s : State) : State :=
  (List.range 8).foldl (fun t d => t.wr (FAB.FAR_CACHE.LINES d) (t.fabric.far.filter (fun l => l.die == d)).length) s

/-- Far-read lines whose block satisfies `p` dropped on all eight dies (R293, R294). -/
def State.farDrop (s : State) (p : Nat → Bool) : State :=
  { s with fabric := { s.fabric with far := s.fabric.far.filter (fun l => !p l.block) } }.farCount

/-- The packet of a request. -/
def State.reqPacket (s : State) (r : FabReq) (retry : Nat) : Packet :=
  { w0 := header0 r.target s.chip r.op r.tag (s.rd FAB.EPOCH.EPOCH) r.host r.route retry 0 r.units r.typ,
    w1 := s.header1 r.offset, data := if opHasData r.op then r.data else [], port := 12, since := s.now }

/-- The age of a packet in µs on this module's time base, 0 where ISSUE lies ahead of it (R285). -/
def State.packetAge (s : State) (p : Packet) : Nat :=
  let d := (s.timeBase / 1000 % 2 ^ 20 + 2 ^ 20 - p.issue) % 2 ^ 20
  if d < 2 ^ 19 then d else 0

/-- Whether a packet has outlived its time (R285). -/
def State.tooOld (s : State) (p : Packet) : Bool := decide (s.rd FAB.LINK_CTL.LIFETIME_US < s.packetAge p)

/-- A packet put with those to be forwarded or taken here. -/
def State.inject (s : State) (p : Packet) : State := { s with fabric := { s.fabric with inbox := s.fabric.inbox ++ [p] } }

/-- The engine that makes a request (R289): a mover, Amelo, a die's dispatcher, or its requester itself. -/
def State.engineOf (s : State) (w : Parked) : Nat × Nat :=
  match w.kind % 100 with
  | 0 => (0, match s.descs.find? (fun d => d.id == w.a) with | some d => d.mover | none => 48 + w.a)
  | 1 => (1, 0)
  | 2 => (2, w.b)
  | k => (k, w.a)

/-- Whether a request writes, or is the LOAD of a block that is to be merged and stored (R289). -/
def FabReq.writes (r : FabReq) : Bool := opIsWrite r.op || decide (100 ≤ r.who.kind)

/-- Whether two requests touch one 64-byte block. -/
def FabReq.meets (q r : FabReq) : Bool :=
  q.target == r.target && q.host == r.host && decide (q.offset / 64 < r.offset / 64 + max 1 r.units) && decide (r.offset / 64 < q.offset / 64 + max 1 q.units)

/-- Whether a write may be sent: every unanswered write on its counter lies within the window of 512 tags, and no earlier
write of its engine to its block is unanswered (R289, R295). -/
def State.mayReq (s : State) (r : FabReq) : Bool :=
  !r.awaitMove && (!r.writes || s.fabric.reqs.all (fun (q : FabReq) => q.id == r.id ||
    ((!opIsWrite q.op || !opIsWrite r.op || q.target != r.target || q.unit != r.unit || decide ((r.tag + 65536 - q.tag) % 65536 ≤ 511) ||
        decide (32768 ≤ (r.tag + 65536 - q.tag) % 65536)) &&
      (!q.writes || decide (r.order ≤ q.order) || !q.meets r || s.engineOf q.who != s.engineOf r.who))))

/-- A request's packet sent for the first time. -/
def State.reqGo (s : State) (r : FabReq) : State :=
  { s with fabric := { s.fabric with reqs := s.fabric.reqs.map (fun (q : FabReq) => if q.id = r.id then { q with waiting := false, firstSent := s.now, lastSent := s.now } else q) } }.inject (s.reqPacket r 0)

/-- The requests that wait sent as far as they may be, oldest first. -/
def State.fabKick (s : State) : State :=
  s.fabric.reqs.foldl (fun t r => if r.waiting && t.mayReq r then t.reqGo r else t) s

/-- A new request: a write takes its counter's next tag and drops its block's far-read lines before it leaves (R293, R295). -/
def State.fabSend (s : State) (r : FabReq) : State :=
  let key := r.target * 16 + r.unit
  let tag := if opIsWrite r.op then (aFind s.fabric.tags key).getD 0 else s.fabric.loadTag
  let s := if opIsWrite r.op then s.farDrop (fun b => decide (globalBlock r.target r.offset ≤ b) && decide (b < globalBlock r.target r.offset + 64 * r.units)) else s
  let f := if opIsWrite r.op then { s.fabric with reqs := s.fabric.reqs.map (fun (q : FabReq) => if q.op = 0x01 ∧ q.meets r then { q with fill := 0 } else q) } else s.fabric
  let r := ({ r with id := f.nextReq, tag := tag, order := (if r.order = 0 then f.nextReq + 1 else r.order), waiting := true, firstSent := s.now, lastSent := s.now } : FabReq)
  let tags := if opIsWrite r.op then aPut f.tags key ((tag + 1) % 65536) else f.tags
  let load := if opIsWrite r.op then f.loadTag else (tag + 1) % 65536
  let s := { s with fabric := { f with reqs := f.reqs ++ [r], nextReq := f.nextReq + 1, tags := tags, loadTag := load } }
  if s.mayReq r then s.reqGo r else s

/-- The chips of the other members and donors of the partition. -/
def State.others (s : State) : List Nat := (s.topo.members.map Member.chip).filter (fun c => c != s.chip)

/-! Routing (R281–R284). -/

/-- The entries of ZORDER, in z order (Table 13-3). -/
def State.zorder (s : State) : List Nat := (List.range (s.rd TOPO.PARTITION.PLANES)).map (fun i => bits (s.rd TOPO.PARTITION.ZORDER) (3 * i) 3)

/-- A plane put into a z order at its ring position: between the two entries whose chord passes over it, or beyond an end (R317). -/
def zInsert (zs : List Nat) (p : Nat) : List Nat :=
  if zs.contains p then zs
  else
    match (List.range (zs.length - 1)).find? (fun i => (p + 7 - zs.getD i 0) % 7 == 1 && (zs.getD (i + 1) 0 + 7 - p) % 7 == 1) with
    | some i => zs.take (i + 1) ++ [p] ++ zs.drop (i + 1)
    | none => if (p + 7 - zs.getLast?.getD 0) % 7 ≤ 2 then zs ++ [p] else p :: zs

/-- The next ring position of a z route, and whether it goes + (R282): from position `a` of the order to position `b`. -/
def zHop (zs : List Nat) (closed : Bool) (a b route : Nat) : Nat × Bool :=
  let n := zs.length
  let fwd := (b + n - a) % n
  let plus := if closed then (decide (2 * fwd < n) || (2 * fwd == n && decide (route < 2))) else decide (a < b)
  let steps := if plus then (if closed then fwd else b - a) else (if closed then n - fwd else a - b)
  let at' := fun k => zs.getD (if plus then (a + k) % n else (a + n - k) % n) 0
  let dist := fun z => if plus then (z + 7 - zs.getD a 0) % 7 else (zs.getD a 0 + 7 - z) % 7
  (if route < 2 && decide (2 ≤ steps) && decide (dist (at' 2) ≤ 2) then at' 2 else at' 1, plus)

/-- One hop of a packet: the ports it may use, its dimension's coordinates here and there, and its direction. -/
structure Hop where
  ports : List Nat
  dim : Nat
  to' : Nat
  plus : Bool

/-- The hop a packet takes next (R282, R284): in x or y either letter of its direction, the route's own first. -/
def State.hop (s : State) (dest route : Nat) : Option Hop :=
  let d := fun (f : Nat → Fld) (own : Nat) => (s.rd (f dest) + 4 - own) % 4
  let x := s.rd TOPO.PARTITION.X
  let y := s.rd TOPO.PARTITION.Y
  let letter := route % 2
  let dx := d FAB.ROUTE.X x
  let dy := d FAB.ROUTE.Y y
  let plus := fun n => n == 1 || (n == 2 && decide (route < 2))
  if dx != 0 then
    let b := if plus dx then 0 else 2
    some ⟨[b + letter, b + 1 - letter], 0, (if plus dx then (x + 1) % 4 else (x + 3) % 4), plus dx⟩
  else if dy != 0 then
    let b := if plus dy then 4 else 6
    some ⟨[b + letter, b + 1 - letter], 1, (if plus dy then (y + 1) % 4 else (y + 3) % 4), plus dy⟩
  else
    let z := s.rd TOPO.PARTITION.ZPOS
    let w := s.rd (FAB.ROUTE.ZPOS dest)
    if z = w then none
    else
      let zs := zInsert (zInsert s.zorder z) w
      match zs.findIdx? (· == z), zs.findIdx? (· == w) with
      | some a, some b =>
        let h := zHop zs (s.is TOPO.PARTITION.CLOSED) a b route
        let k := if h.2 then (h.1 + 7 - z) % 7 else (z + 7 - h.1) % 7
        some ⟨[if h.2 then (if k = 1 then 8 else 10) else (if k = 1 then 9 else 11)], 2, h.1, h.2⟩
      | _, _ => none

/-- The I/O die that carries a port (Table 12-2). -/
def portDie (p : Nat) : Nat := [8, 9, 8, 9, 10, 11, 10, 11, 8, 9, 10, 11].getD p 8

/-- The I/O die of the port by which route 0 leaves toward a module (R138, R282). -/
def State.exitDie (s : State) (chip : Nat) : Nat :=
  match s.hop chip 0 with
  | some h => portDie (h.ports.headD 0)
  | none => 8

end Sys2Proof.Machine
end

