-- ==== Sys2Proof/Machine/PowerOps.lean ====
section
/-! DEFINITION. What other units see of power and clocks: a die's limit (R416, R418) and the stacks that the clocks hold (R440). -/

namespace Sys2Proof.Machine

open Sys2Proof

/-! Tick boundaries (R4). -/

/-- The boundary behind a time of the time base. -/
def tickOf (t : Nat) : Nat := t / 1_000_000

/-- The next tick boundary, in ms of the time base. -/
def State.nextTick (s : State) : Nat := tickOf s.timeBase + 1

/-- Whether Bimon runs. -/
def State.bimon (s : State) : Bool := s.rd MGMT.STATUS.BIMON == 1

/-- The time base at a time of the module's own count, as the base stands now. -/
def State.baseOf (s : State) (t : Nat) : Nat := ((t : Int) + s.fabric.timeOffset).toNat

/-- Whether Bimon, which acts at boundaries alone, may act on an event of a time: a boundary has come since (R4, R20). -/
def State.tickSince (s : State) (t : Nat) : Bool := s.bimon && decide (tickOf (s.baseOf t) < tickOf s.timeBase)

/-- Whether Bimon, which acts at boundaries alone, may act on the end of a time: a boundary at or after it has come (R222). -/
def State.tickFrom (s : State) (t : Nat) : Bool := s.bimon && decide (ceilDiv (s.baseOf t) 1_000_000 ≤ tickOf s.timeBase)

/-! Stock (R23, Table 1-5). -/

/-- A class used up (Table 1-5): recorded, and counted; SRAM or HBM used up fails the module. Classes 0–4 are numbered by R322; 5 stands
for lanes and 6 for HBM, which no rule numbers (log 48). -/
def State.exhausted (s : State) (cls g u : Nat) : State :=
  let s := (s.record 0x0103 g cls u).bump STOCK.EVENTS.EXHAUSTED 1
  if cls = 1 ∨ cls = 6 then (s.wr DISC.FAULT_CAUSE.MODULE_FAILED 1).wr DISC.OUTPUTS.FAULT 1 else s

/-! Rails and stacks. -/

/-- Where a rail stands above 0.62 V, in µV: it moves at 20 mV/µs from where it stood when its target last changed (R415, R423). Between
reads PWR.DIE_STATUS.VCODE holds the target. -/
def State.railUv (s : State) (d : Nat) : Nat :=
  let t := 5000 * s.rd (PWR.DIE_STATUS.VCODE d)
  match aFind s.power.slew d with
  | none => t
  | some (v, since) => if v ≤ t then min t (v + 20 * (s.now - since)) else max t (v - 20 * (s.now - since))

/-- A rail given a target, toward which it turns from where it stands (R423). -/
def State.railTo (s : State) (d v : Nat) : State :=
  { s with power := { s.power with slew := aPut s.power.slew d (s.railUv d, s.now) } }.wr (PWR.DIE_STATUS.VCODE d) v

/-- What a rail can deliver, in W: 45 A a phase at its present voltage (R415, R416, R418). -/
def State.railWatts (s : State) (d : Nat) : Nat :=
  45 * s.rd (PWR.DIE_STATUS.PHASES d) * (620_000 + s.railUv d) / 1_000_000

/-- A die's limit, in W: the lower of what Bimon last wrote and what its rail can deliver (R418). -/
def State.dieLimit (s : State) (d : Nat) : Nat := min ((aFind s.power.limits d).getD (s.railWatts d)) (s.railWatts d)

/-- PWR.DIE_STATUS.LIMIT_W brought up. -/
def State.limitReg (s : State) (d : Nat) : State := s.wr (PWR.DIE_STATUS.LIMIT_W d) (s.dieLimit d)

/-- Every die's limit halved by hardware (R406, R419). -/
def State.halveLimits (s : State) : State :=
  let s := { s with power := { s.power with limits := (List.range 8).map (fun d => (d, (aFind s.power.limits d).getD (s.railWatts d) / 2)) } }
  (List.range 8).foldl State.limitReg s

/-- PWR.DIE_STATUS of a die as it reads: the rail's voltage now, whether it moves, and the limit at that voltage (Table 18-11). -/
def State.railNow (s : State) (d : Nat) : State :=
  let u := s.railUv d
  (s.limitReg d).wrs [(PWR.DIE_STATUS.VCODE d, u / 5000), (PWR.DIE_STATUS.SLEWING d, b2n (u != 5000 * s.rd (PWR.DIE_STATUS.VCODE d)))]

/-- Whether the base die of a stack holds it in self-refresh: HBMP or HBMB of it runs on INT (R440). -/
def State.stackHeld (s : State) (st : Nat) : Bool := s.is (CLK.DOM.SOURCE (48 + st)) || s.is (CLK.DOM.SOURCE (64 + st))

/-- Whether a local offset lies in a stack that is held. -/
def State.offHeld (s : State) (off : Nat) : Bool := decide (off < hbmEnd) && s.stackHeld (stackOf off)

end Sys2Proof.Machine
end

