-- ==== Sys2Proof/Machine/Mmu.lean ====
section
/-! DEFINITION. Page tables and homes: the walk (R112), leaf entries (Table 5-5), frames and their allocation (R111, R518),
the fault table (R131–R133), and an access to a context's range on its behalf (R520). -/

namespace Sys2Proof.Machine

open Sys2Proof

/-! Leaf entries (Table 5-5). -/

/-- VALID. -/
def lfValid (l : Nat) : Bool := bit l 0
/-- WRITE. -/
def lfWrite (l : Nat) : Bool := bit l 2
/-- GLOBAL. -/
def lfGlobal (l : Nat) : Bool := bit l 3
/-- PIN. -/
def lfPin (l : Nat) : Bool := bit l 4
/-- FAR_CACHE. -/
def lfFar (l : Nat) : Bool := bit l 5
/-- PROMOTE. -/
def lfPromote (l : Nat) : Bool := bit l 6
/-- STATE: 0 RESIDENT, 1 TRANSIT, 2 ABSENT, 3 POISONED. -/
def lfState (l : Nat) : Nat := bits l 8 3
/-- TIER: 0 SRAM, 1 HBM, 2 host A, 3 host B. -/
def lfTier (l : Nat) : Nat := bits l 11 3
/-- FRAME, as a local offset. -/
def lfFrame (l : Nat) : Nat := bits l 16 28 * 2 ^ 16
/-- HOME_CHIP. -/
def lfChip (l : Nat) : Nat := bits l 44 12

/-- A leaf entry from its fields. -/
def mkLeaf (write global pin far promote : Bool) (state tier frame chip : Nat) : Nat :=
  3 + b2n write * 2 ^ 2 + b2n global * 2 ^ 3 + b2n pin * 2 ^ 4 + b2n far * 2 ^ 5 + b2n promote * 2 ^ 6 + state % 8 * 2 ^ 8 +
    tier % 8 * 2 ^ 11 + frame / 2 ^ 16 % 2 ^ 28 * 2 ^ 16 + chip % 2 ^ 12 * 2 ^ 44

/-- A leaf with another STATE. -/
def lfWithState (l st : Nat) : Nat := setBits l 8 3 st
/-- A leaf with another home. -/
def lfWithHome (l tier chip frame : Nat) : Nat :=
  setBits (setBits (setBits l 11 3 tier) 44 12 chip) 16 28 (frame / 2 ^ 16)
/-- A leaf with another PROMOTE bit. -/
def lfWithPromote (l : Nat) (p : Bool) : Nat := setBits l 6 1 (b2n p)

/-! Frames (R111, R518). -/

/-- A page's size. -/
def pageSize (big : Bool) : Nat := if big then 0x20_0000 else 0x1_0000

/-- The HBM of the dies of a mask, 0 meaning any (R108): base and size. -/
def hbmRegions (mask : Nat) : List (Nat × Nat) :=
  ((List.range 8).filter (fun d => mask % 256 == 0 || bit mask d)).map (fun d => (d * 0x23_0000_0000, 0x23_0000_0000))
/-- The SRAM of the dies of a mask (R109). -/
def sramRegions (mask : Nat) : List (Nat × Nat) :=
  ((List.range 8).filter (fun d => mask % 256 == 0 || bit mask d)).map (fun d => (sramBase + d * 0x1000_0000, 0x1000_0000))

/-- Whether a run lies in one of the regions and over no run handed out. -/
def freeRun (allocs : List Alloc) (regions : List (Nat × Nat)) (base size : Nat) : Bool :=
  regions.any (fun r => decide (r.1 ≤ base) && decide (base + size ≤ r.1 + r.2)) &&
    allocs.all (fun a => decide (base + size ≤ a.base) || decide (a.base + a.size ≤ base))

/-- A free run of a size and alignment within the regions, looked for from a hint: the placement is unspecified (R111). -/
def findRun (allocs : List Alloc) (regions : List (Nat × Nat)) (size align hint : Nat) : Option Nat :=
  (regions.map (fun r => alignUp (r.1 + hint % r.2) align) ++ regions.map (fun r => alignUp r.1 align) ++
    allocs.map (fun a => alignUp (a.base + a.size) align)).find? (fun b => freeRun allocs regions b size)

/-- A run of frames handed out, reading as zeros (R518). -/
def State.allocRun (s : State) (regions : List (Nat × Nat)) (size align kind ctx : Nat) : Option (Nat × State) :=
  match findRun s.allocs regions size align (Config.freePlace s.freeCtr) with
  | none => none
  | some b => some (b, { s with allocs := ⟨b, size, kind, ctx⟩ :: s.allocs, mem := memClear s.mem (devKey b) size, freeCtr := s.freeCtr + 1 })

/-- The run that starts at an offset freed. -/
def State.freeRunAt (s : State) (base : Nat) : State := { s with allocs := s.allocs.filter (fun a => a.base != base) }

/-! The walk (R112, R113). -/

/-- The root table of a context, if it exists. -/
def State.root (s : State) (c : Nat) : Option Nat :=
  if s.is (MMU.CTX_ROOT.VALID c) then some (s.rd (MMU.CTX_ROOT.ROOT c) * 4096) else none

/-- A table entry. -/
def State.pte (s : State) (table i : Nat) : Nat := s.load (devKey (table + 8 * i)) 8

/-- The table an entry points to (R113). -/
def pteNext (e : Nat) : Nat := bits e 8 36 * 256

/-- The level-0 table of an address, by the three levels above it. -/
def State.level0 (s : State) (c va : Nat) : Option Nat :=
  match s.root c with
  | none => none
  | some r =>
    let e3 := s.pte r (bits va 48 9)
    let e2 := s.pte (pteNext e3) (bits va 39 9)
    let e1 := s.pte (pteNext e2) (bits va 30 9)
    if bit e3 0 && bit e2 0 && bit e1 0 then some (pteNext e1) else none

/-- The leaf that maps an address: where the entry lies, whether the page is 2 MiB, and the entry. -/
def State.walk (s : State) (c va : Nat) : Option (Nat × Bool × Nat) :=
  match s.level0 c va with
  | none => none
  | some t =>
    let e := s.pte t (bits va 21 9)
    if bit e 0 && bit e 1 then some (t + 8 * bits va 21 9, true, e)
    else if bit e 0 then
      let e4 := s.pte (pteNext e) (bits va 16 5)
      if bit e4 0 then some (pteNext e + 8 * bits va 16 5, false, e4) else none
    else none

/-- The valid entries of a table: VALID is bit 0 of an entry's first byte. -/
def State.tableEntries (s : State) (table n : Nat) : List (Nat × Nat) :=
  (List.range n).filterMap (fun i =>
    if bit (memByte s.mem (devKey (table + 8 * i))).toNat 0 then some (i, s.pte table i) else none)

/-- Every leaf of a context: address, whether 2 MiB, entry. -/
def State.leaves (s : State) (c : Nat) : List (Nat × Bool × Nat) :=
  match s.root c with
  | none => []
  | some r =>
    (s.tableEntries r 512).flatMap fun e3 =>
    (s.tableEntries (pteNext e3.2) 512).flatMap fun e2 =>
    (s.tableEntries (pteNext e2.2) 512).flatMap fun e1 =>
    (s.tableEntries (pteNext e1.2) 512).flatMap fun e0 =>
      let va := e3.1 * 2 ^ 48 + e2.1 * 2 ^ 39 + e1.1 * 2 ^ 30 + e0.1 * 2 ^ 21
      if bit e0.2 1 then [(va, true, e0.2)]
      else (s.tableEntries (pteNext e0.2) 32).map (fun e => (va + e.1 * 2 ^ 16, false, e.2))

/-- A table under an entry, made where the entry is empty. -/
def State.needTable (s : State) (c addr size : Nat) : Option (Nat × State) :=
  let e := s.load (devKey addr) 8
  if bit e 0 then some (pteNext e, s)
  else match s.allocRun (hbmRegions 0) size (if size = 256 then 256 else 4096) 0 c with
    | none => none
    | some (t, s) => some (t, s.store (devKey addr) 8 (1 + t / 256 * 256))

/-- Translations of a page dropped on the twelve units (R114). -/
def State.shootdown (s : State) (c va : Nat) : State :=
  { s with tlbs := s.tlbs.filter (fun t => !(t.ctx == c && t.va == va)) }

/-- The remote-map index brought up to a leaf written for a page (R122). -/
def State.indexLeaf (s : State) (c va : Nat) (big : Bool) (leaf : Nat) : State :=
  let l := s.remaps.filter (fun r => !(r.ctx == c && r.va == va))
  let l := if lfValid leaf && lfState leaf != 2 && lfChip leaf != s.chip then ⟨c, va, big, lfChip leaf, lfFrame leaf⟩ :: l else l
  { s with remaps := l }.wr TIER.REMAP_INDEX.ENTRIES l.length

/-- A leaf entry written in place, with its shootdown (R114). -/
def State.putLeaf (s : State) (addr c va : Nat) (big : Bool) (leaf : Nat) : State :=
  ((s.store (devKey addr) 8 leaf).shootdown c va).indexLeaf c va big leaf

/-- A page mapped: its tables made where they are missing; none where a table frame cannot be had (R111). -/
def State.mapPage (s : State) (c va : Nat) (big : Bool) (leaf : Nat) : Option State :=
  match s.root c with
  | none => none
  | some r =>
    match s.needTable c (r + 8 * bits va 48 9) 4096 with
    | none => none
    | some (t2, s) =>
      match s.needTable c (t2 + 8 * bits va 39 9) 4096 with
      | none => none
      | some (t1, s) =>
        match s.needTable c (t1 + 8 * bits va 30 9) 4096 with
        | none => none
        | some (t0, s) =>
          if big then some (s.putLeaf (t0 + 8 * bits va 21 9) c va big leaf)
          else match s.needTable c (t0 + 8 * bits va 21 9) 256 with
            | none => none
            | some (t, s) => some (s.putLeaf (t + 8 * bits va 16 5) c va big leaf)

/-- A page's leaf rewritten where the page is mapped. -/
def State.setLeaf (s : State) (c va leaf : Nat) : State :=
  match s.walk c va with
  | none => s
  | some (a, big, _) => s.putLeaf a c (va / pageSize big * pageSize big) big leaf

/-- A page unmapped: its entry cleared; an emptied 64 KiB table gives way to the level above. DESIGN CHOICE (log 48): no other table of a
context is freed before its context is destroyed; the spec does not say. -/
def State.unmapPage (s : State) (c va : Nat) : State :=
  match s.walk c va with
  | none => s
  | some (a, big, _) =>
    let s := s.putLeaf a c (va / pageSize big * pageSize big) big 0
    if big then s
    else match s.level0 c va with
      | none => s
      | some t0 =>
        let t := pteNext (s.pte t0 (bits va 21 9))
        if (s.tableEntries t 32).isEmpty then (s.store (devKey (t0 + 8 * bits va 21 9)) 8 0).freeRunAt t else s

/-- Whether an address range of a context is wholly unmapped: no leaf overlaps it. -/
def State.unmapped (s : State) (c va size : Nat) : Bool :=
  (s.leaves c).all (fun l => decide (va + size ≤ l.1) || decide (l.1 + pageSize l.2.1 ≤ va))

/-- Contexts that exist. -/
def State.liveCtxs (s : State) : List Nat := (s.ctxs.map Prod.fst).filter (fun c => s.is (MMU.CTX_ROOT.VALID c))

/-- The pinned pages that the MIGRATEs under way have still to place in the SRAM of a die: the command's progress keeps the places it
was given on each die (R127). -/
def State.pinsPromised (s : State) (die : Nat) : Nat :=
  ((s.cmds.filter (fun c => c.opcode == 0x14 && c.started && c.status.isNone)).map (fun c => c.aux.getD (2 + die) 0)).sum

/-- The pages with PIN set whose home is, or by a MIGRATE under way will be, in the SRAM of a die (R127). -/
def State.pinned (s : State) (die : Nat) : Nat :=
  (s.liveCtxs.flatMap (fun c => (s.leaves c).filter (fun l => lfPin l.2.2 && lfState l.2.2 != 2 && lfTier l.2.2 == 0 &&
    lfChip l.2.2 == s.chip && dieOf (lfFrame l.2.2) == die))).length + s.pinsPromised die

/-! Homes and accesses (R105, R131, R520). -/

/-- Where a byte of a context's range lives: at a key of the model's memory, or at a remote chip, HOST and offset. -/
inductive Loc where
  | here (key : Nat)
  | far (chip host off : Nat)
deriving DecidableEq, Repr

/-- What an access meets (R120, R131, R440): its place and leaf; a wait; a fault that is served (kind 2 or 3); or the DETAIL of
one that is not. -/
inductive Access1 where
  | ok (loc : Loc) (leaf : Nat)
  | wait
  | serve (kind : Nat)
  | bad (detail : Nat)
deriving DecidableEq, Repr

/-- The place of an offset within the page of a leaf. -/
def State.locate (s : State) (leaf off : Nat) : Loc :=
  if lfTier leaf < 2 then
    if lfChip leaf = s.chip then .here (devKey (lfFrame leaf + off)) else .far (lfChip leaf) 0 (lfFrame leaf + off)
  else if lfChip leaf = s.chip then .here (hostKey (lfTier leaf - 2) (lfFrame leaf + off))
  else .far (lfChip leaf) (lfTier leaf - 1) (lfFrame leaf + off)

/-- An access to an address of a context: a load, a store (`write`) or an atomic (`atomic`, which also writes). -/
def State.access (s : State) (c va : Nat) (write atomic : Bool) : Access1 :=
  match s.walk c va with
  | none => .bad 0x0501
  | some (_, big, leaf) =>
    if lfState leaf = 2 then .serve 2
    else if lfState leaf = 3 then .bad 0x0505
    else if lfState leaf = 1 then .wait
    else if write && !lfWrite leaf then .bad 0x0504
    else if atomic && decide (2 ≤ lfTier leaf) then .bad 0x0504
    else if decide (0xF00 ≤ lfChip leaf) || !s.member (lfChip leaf) then .bad 0x0506
    else if lfPromote leaf then .serve 3
    else if lfTier leaf == 1 && lfChip leaf == s.chip && s.offHeld (lfFrame leaf + va % pageSize big) then .wait
    else .ok (s.locate leaf (va % pageSize big)) leaf

/-! Translation buffers (R114). -/

/-- The MMU unit of an engine, by the die it stands on (Tables 1-1, 5-12): dies 0–7 the compute dies, 8–11 the I/O dies. -/
def unitOf (engine : Nat) : Nat :=
  if engine < 48 then engine / 4
  else if engine < 56 then engine - 48
  else if engine = 56 then 8
  else if engine = 57 then 10
  else (engine - 64) % 8

/-- A translation that a unit has made, kept in its buffer of 2,048 entries; which entry leaves a full buffer is unspecified. -/
def State.translated (s : State) (engine c va : Nat) : State :=
  let u := unitOf engine
  match s.walk c va with
  | none => s
  | some (_, big, leaf) =>
    let t : Tlb := ⟨u, c, va / pageSize big * pageSize big, leaf⟩
    if s.tlbs.contains t then s
    else
      let mine := s.tlbs.filter (fun x => x.unit == u)
      if mine.length < 2048 then { s with tlbs := s.tlbs ++ [t] }
      else
        let out := mine[s.chooseBelow mine.length]?
        { s with tlbs := s.tlbs.filter (fun x => some x != out) ++ [t], freeCtr := s.freeCtr + 1 }

/-! The fault table (R132–R134). -/

/-- The first number from `i` on, of sixteen bits, that is not in use, as far as `fuel` goes. -/
def freshFrom (used : List Nat) : Nat → Nat → Nat
  | 0, i => i % 65536
  | fuel + 1, i => if used.contains (i % 65536) then freshFrom used fuel (i + 1) else i % 65536

/-- Whether the fault table has no entry free. -/
def State.tableFull (s : State) : Bool := decide (4096 ≤ (s.faults.filter (fun e => e.isOpen)).length)

/-- The open entry of the page that holds an address. -/
def State.entryOf (s : State) (c va : Nat) : Option FaultEntry :=
  let big := match s.walk c va with | some (_, b, _) => b | none => false
  s.faults.find? (fun e => e.isOpen && e.ctx == c && e.va / pageSize big * pageSize big == va / pageSize big * pageSize big)

/-- Whether an access could do nothing but wait now: for a page in TRANSIT, a stack in self-refresh, or an entry of a full fault
table (R120, R440, Table 5-13). -/
def State.mustWait (s : State) (c va : Nat) (write atomic : Bool) : Bool :=
  match s.access c va write atomic with
  | .wait => true
  | .serve _ => s.tableFull && (s.entryOf c va).isNone
  | _ => false

/-- SCHED.CTX_STATE of a context brought up to its open entries (R263), with RUN (Table 11-8). -/
def State.faultFlags (s : State) (c : Nat) : State :=
  let n := (s.faults.filter (fun e => e.isOpen && e.ctx == c)).length
  let s := s.wrs [(SCHED.CTX_STATE.FAULT c, if n = 0 then 0 else 1), (SCHED.CTX_STATE.OPEN_FAULTS c, n),
    (MMU.FAULT_COUNT.OPEN, (s.faults.filter (fun e => e.isOpen)).length)]
  if n = 0 then s else s.wr (SCHED.CTX_STATE.RUN c) 3

/-- A move asked of the tier engine. -/
def State.want (s : State) (m : Move) : State :=
  if s.wants.any (fun w => w.ctx == m.ctx && w.va == m.va && w.cause == m.cause) then s else { s with wants := s.wants ++ [m] }

/-- A request that has joined an entry waits for none any more. -/
def State.waitsOff (s : State) (who : Parked) : State := { s with tableWaits := s.tableWaits.filter (fun p => p != who) }

/-- A served fault raised for a request (R132): it joins the page's open entry, or opens one; with the table full it waits at
the MMU, and the wait is counted once (R134). A PROMOTE entry asks the tier engine for a move into this module's HBM (R133). -/
def State.openFault (s : State) (c kind : Nat) (write : Bool) (va engine seq chan : Nat) (noCmd : Bool) (who : Parked) : State :=
  let big := match s.walk c va with | some (_, b, _) => b | none => false
  let page := va / pageSize big * pageSize big
  match s.entryOf c va with
  | some e =>
    { s with faults := s.faults.map (fun (x : FaultEntry) => if x.id = e.id ∧ x.isOpen then { x with parked := if x.parked.contains who then x.parked else x.parked ++ [who] } else x) }.waitsOff who
  | none =>
    if s.tableFull then
      if s.tableWaits.contains who then s
      else { s with tableWaits := s.tableWaits ++ [who] }.bump MMU.FAULT_COUNT.TABLE_FULL 1
    else
      let used := s.faults.map FaultEntry.id
      let id := freshFrom used (used.length + 1) s.nextFault
      let e : FaultEntry := {
        id := id, ctx := c, kind := kind, write := write, va := va / 4096 * 4096, time := s.timeBase,
        timeout := s.rd MMU.FAULT_TIMEOUT.MS, engine := engine, seq := seq, chan := chan, noCmd := noCmd, parked := [who],
        toSend := if kind = 2 then [0] else [] }
      let s := ((({ s with faults := s.faults ++ [e], nextFault := id + 1 }).waitsOff who).bump MMU.FAULT_COUNT.RAISED 1).faultFlags c
      if kind = 3 then
        s.want { id := 0, ctx := c, va := page, big := big, leaf := 0, tier := 1, chip := s.chip, frame := 0, phase := 0, cause := 2, owner := id }
      else s

/-- A command's access to a word of its context (R520): the access, and the state with the command parked where the fault is
served. Engine 56 is Amelo. -/
def State.parkCmd (s : State) (c : Cmd) (kind : Nat) (write : Bool) (va : Nat) : State :=
  s.openFault c.context kind write va 56 c.seq (c.chan % 128) false ⟨1, c.id, 0, 0⟩

/-- A word of `n` bytes read at a place of this module or its hosts. -/
def State.readLoc (s : State) (l : Loc) (n : Nat) : Nat :=
  match l with
  | .here k => s.load k n
  | .far _ _ _ => 0

/-- A word written at a place of this module or its hosts; a remote place is reached by a STORE or an atomic of the fabric. -/
def State.writeLoc (s : State) (l : Loc) (n v : Nat) : State :=
  match l with
  | .here k => s.store k n v
  | .far _ _ _ => s

end Sys2Proof.Machine
end

