-- ==== Sys2Proof/Machine/Flags.lean ====
section
/-! DEFINITION. The status a command ends with: the checks every command shares (Table 15-2) and the form in which a unit
takes a command, refuses it or carries it out (R356, R357). -/

namespace Sys2Proof.Machine

open Sys2Proof

/-- The first failed check of a list: its status and DETAIL (R356: checks stop at the first failure). -/
def firstBad : List (Bool × Nat × Nat) → Option (Nat × Nat)
  | [] => none
  | (b, st, d) :: r => if b then some (st, d) else firstBad r

/-- The CONTEXT a command takes (Table 15-5). -/
inductive CtxRule where
  /-- A live context or 0xFFFF. -/
  | any
  /-- A context in use, owned by the sending host. -/
  | owned
  /-- 0xFFFF only. -/
  | device
  /-- The command's own check decides. -/
  | own
deriving DecidableEq, Repr

/-- Whether host `src` may name context `c`: in use and its own; the side-band port's ownership is not checked (R261, R363). -/
def State.owns (s : State) (src c : Nat) : Bool :=
  s.inUse c && (src == 2 || (s.rd (SCHED.CTX_STATE.LIFE c) == 1 && s.rd (SCHED.CTX_STATE.OWNER c) == src))

/-- Whether a command's CONTEXT breaks the rule its opcode sets (check 4 of Table 15-2). -/
def State.ctxBad (s : State) (r : CtxRule) (c : Cmd) : Bool :=
  match r with
  | .any => !(c.context == 0xFFFF || s.owns c.src c.context)
  | .owned => !(s.owns c.src c.context)
  | .device => c.context != 0xFFFF
  | .own => false

/-- A unit takes command `k` of opcode `op` that `sel` chooses: a failed check ends it with its status, else its effect. -/
def State.runCmd (s : State) (k op : Nat) (sel : Cmd → Bool) (check : State → Cmd → Option (Nat × Nat)) (eff : State → Cmd → State) : State :=
  match s.cmdAt k op with
  | none => s
  | some c =>
    if sel c then
      match check s c with
      | some (st, d) => s.failWith k st d
      | none => eff s c
    else s

/-- Every command of an opcode. -/
def always (_ : Cmd) : Bool := true

/-- What a command's access to its context's range comes to (R520): its place, or the state in which it waits, is parked at a
fault, or has ended with FAULTED and the DETAIL of Table 5-11. -/
inductive CmdAccess where
  | ok (loc : Loc) (leaf : Nat)
  | stop (s : State)

/-- An access of command `c` on its context's behalf. -/
def State.cmdAccess (s : State) (c : Cmd) (va : Nat) (write atomic : Bool) : CmdAccess :=
  match s.access c.context va write atomic with
  | .ok l f => .ok l f
  | .wait => .stop s
  | .serve kind => .stop (s.parkCmd c kind write va)
  | .bad d => .stop (s.failWith c.id stFaulted d)

/-- A write of up to 256 bytes, within one 256-byte block, sent to a remote home by a STORE of the fabric (R288), for the
engine and owner `who`. Whole 64-byte blocks only. -/
def State.remoteStore (s : State) (chip host off : Nat) (data : List Nat) (ctx va : Nat) (who : Parked) : State :=
  s.fabSend { id := 0, target := chip, unit := homeUnit off host, op := 0x02, host := host, units := data.length / 64, offset := off, data := data, ctx := ctx, va := va, who := who }

/-- An atomic sent to a remote home (R290). -/
def State.remoteAtomic (s : State) (chip off op typ : Nat) (data : List Nat) (ctx va : Nat) (who : Parked) : State :=
  s.fabSend { id := 0, target := chip, unit := homeUnit off 0, op := op, typ := typ, host := 0, units := 1, offset := off, data := data, ctx := ctx, va := va, who := who }

/-- A LOAD sent to a remote home (R288). -/
def State.remoteLoad (s : State) (chip host off units : Nat) (ctx va fill : Nat) (who : Parked) : State :=
  s.fabSend { id := 0, target := chip, unit := homeUnit off host, op := 0x01, host := host, units := units, offset := off, ctx := ctx, va := va, fill := fill, who := who }

/-- Natural numbers of bytes. -/
def nats (l : List Byte) : List Nat := l.map BitVec.toNat
/-- Bytes of natural numbers. -/
def toBytes (l : List Nat) : List Byte := l.map (BitVec.ofNat 8)
/-- The number a list of byte values spells (R6). -/
def leOf : List Nat → Nat
  | [] => 0
  | b :: r => b % 256 + 256 * leOf r
/-- The `n` low bytes of a number as values. -/
def leVals (n x : Nat) : List Nat := nats (leBytes n x)

end Sys2Proof.Machine
end

