-- ==== Sys2Proof/Machine/Channel.lean ====
section
/-! DEFINITION. Command windows, channels and reply rings (R347–R362): writes to slots, the commit and its checks, queuing,
credit words, replies, and the channel and ring control registers. -/

namespace Sys2Proof.Machine

open Sys2Proof

/-! Reply rings (R358–R361). -/

/-- A reply's words (Table 15-3). -/
def mkReply (ring st op ctx seq det o0 o1 o2 : Nat) : Reply :=
  ⟨ring, st % 2 ^ 8 + op % 2 ^ 8 * 2 ^ 8 + ctx % 2 ^ 16 * 2 ^ 16 + seq % 2 ^ 16 * 2 ^ 32 + det % 2 ^ 16 * 2 ^ 48, o0 % 2 ^ 64, o1 % 2 ^ 64, o2 % 2 ^ 64⟩

/-- Replies a ring holds (R360). -/
def State.ringSize (s : State) (r : Nat) : Nat := 2 ^ s.rd (CMD.RING_CTL.LOG2_SIZE r)

/-- Whether a ring is full: TAIL − HEAD equals its size (Table 15-12). -/
def State.ringFull (s : State) (r : Nat) : Bool :=
  (s.rd (CMD.RING_TAIL.TAIL r) + 2 ^ 32 - s.rd (CMD.RING_HEAD.HEAD r)) % 2 ^ 32 == s.ringSize r

/-- The key of a ring's entry `i`: device memory or the memory of the ring's host (R360). -/
def State.ringKey (s : State) (r i : Nat) : Nat :=
  let a := s.rd (CMD.RING_BASE.BASE r) * 32 + 32 * (i % s.ringSize r)
  if s.is (CMD.RING_CTL.DEVICE r) then devKey a else hostKey (r / 128) a

/-- Replies written to a ring that has room, as one batch: the entries, the tail, the shadow, the vector (R360). -/
def State.ringPut (s : State) (r : Nat) (l : List Reply) : State :=
  if l.isEmpty then s
  else
    let s := l.foldl (fun t x => (t.storeWords (t.ringKey r (t.rd (CMD.RING_TAIL.TAIL r))) [x.w0, x.w1, x.w2, x.w3]).wr
      (CMD.RING_TAIL.TAIL r) (t.rd (CMD.RING_TAIL.TAIL r) + 1)) s
    let a := s.rd (CMD.RING_SHADOW.ADDR r) * 8
    let s := if a = 0 then s else s.hostStore (r / 128) a 8 (s.rd (CMD.RING_TAIL.TAIL r))
    s.raiseIf (r / 128) (CMD.RING_CTL.VECTOR_EN r) (CMD.RING_CTL.VECTOR r)

/-- CMD.STRAY.HELD brought up to the hold. -/
def State.holdCount (s : State) : State := s.wr CMD.STRAY.HELD s.hold.length

/-- A reply on its way to its ring (R361): dropped where the ring is not enabled, written where it has room and no reply
waits before it, else put in the hold, or left with its unit while the hold is full. -/
def State.reply (s : State) (x : Reply) : State :=
  if !s.is (CMD.RING_CTL.ENABLE x.ring) then s.bump CMD.STRAY.DROPPED 1
  else if !s.ringFull x.ring && s.hold.all (fun h => h.ring != x.ring) && s.late.all (fun h => h.ring != x.ring) then s.ringPut x.ring [x]
  else if s.hold.length < 4096 then { s with hold := s.hold ++ [x] }.holdCount
  else { s with late := s.late ++ [x] }

/-- A reply to a channel's error ring, with the channel number in OUT0 (R360). -/
def State.errReply (s : State) (chan st op ctx seq det o1 : Nat) : State :=
  s.reply (mkReply (s.rd (CMD.CHAN_CTL.ERR_RING chan)) st op ctx seq det chan o1 0)

/-- The replies left with their units enter the hold as far as it has room (R361). -/
def State.lateIn (s : State) : State :=
  { s with hold := s.hold ++ s.late.take (4096 - s.hold.length), late := s.late.drop (4096 - s.hold.length) }.holdCount

/-- REPLY_HOLD_DRAIN (R361): the replies held for a ring enter it in completion order as far as it has room, and those left
with their units enter the hold. -/
def holdDrain (r : Nat) (s : State) : State :=
  let room := s.ringSize r - (s.rd (CMD.RING_TAIL.TAIL r) + 2 ^ 32 - s.rd (CMD.RING_HEAD.HEAD r)) % 2 ^ 32
  let mine := (s.hold.filter (fun h => h.ring == r)).take room
  let rest := s.hold.filter (fun h => h.ring != r) ++ (s.hold.filter (fun h => h.ring == r)).drop room
  ({ s with hold := rest }.ringPut r mine).lateIn

/-- REPLY_HOLD_DRAIN (R361). -/
def execReplyHoldDrain (ring : Nat) (s : State) : Host.Outcome State Fault Refusal :=
  .next (if s.is (CMD.RING_CTL.ENABLE ring) && !s.ringFull ring && s.hold.any (fun h => h.ring == ring) then holdDrain ring s else s)

/-! Channels (R347–R354). -/

/-- Whether a command of the channel holds it: FENCE and WAIT until they complete, and a head with FENCE_BEFORE while an earlier command
has not completed (R355). -/
def State.holds (s : State) (chan : Nat) : Bool :=
  s.cmds.any (fun c => c.src != 2 && c.chan == chan && (c.opcode == 0x01 || c.opcode == 0x03)) ||
    (bit (((s.chan chan).queue.headD []).headD 0) 9 && s.cmds.any (fun c => c.src != 2 && c.chan == chan))

/-- CMD.CHAN_STATUS brought up to a channel's held packets, queue, commands and count. -/
def State.chanRegs (s : State) (c : Nat) : State :=
  let x := s.chan c
  s.wrs [(CMD.CHAN_STATUS.HELD c, x.held.length), (CMD.CHAN_STATUS.QUEUED c, x.queue.length), (CMD.CHAN_STATUS.DONE_COUNT c, x.doneCount),
    (CMD.CHAN_STATUS.HOLDING c, b2n (s.holds c))]

/-- The 64 bytes of a slot as it stands (R351). -/
def Chan.slotBytes (x : Chan) (slot : Nat) : List Nat := (List.range 64).map (fun i => (aFind x.slots (64 * slot + i)).getD 0)

/-- A slot returned to zeros (R348). -/
def Chan.zeroSlot (x : Chan) (slot : Nat) : Chan := { x with slots := x.slots.filter (fun p => p.1 / 64 != slot) }

/-- Bytes of a window set; a byte that is zero is not listed. -/
def slotWrite (l : List (Nat × Nat)) (at' : Nat) : List Nat → List (Nat × Nat)
  | [] => l
  | b :: r => slotWrite (if b % 256 = 0 then aErase l at' else aPut l at' (b % 256)) (at' + 1) r

/-- The eight words of 64 bytes. -/
def packetWords (b : List Nat) : List Nat := (List.range 8).map (fun i => leOf ((b.drop (8 * i)).take 8))

/-- Whether a slot's bytes pass the checks of a commit (R351): SEQ_ECHO, the reserved bits of word 7, and the CRC of bytes
0–57. -/
def packetOk (b : List Nat) : Bool :=
  let w := packetWords b
  let w7 := w.getD 7 0
  bits w7 0 16 == bits (w.getD 0 0) 32 16 && bits w7 16 16 == 0 && bits w7 32 32 == crc32c (b.take 58)

/-- A commit at a slot (R351, R353). -/
def State.commit (s : State) (c slot : Nat) : State :=
  let x := s.chan c
  let b := x.slotBytes slot
  let w0 := (packetWords b).getD 0 0
  let seq := bits w0 32 16
  let expect := s.rd (CMD.CHAN_STATUS.EXPECT c)
  if !packetOk b then
    ((s.setChan c (x.zeroSlot slot)).bump CMD.STATS.CRC_FAIL 1).errReply c stCrcFail (bits w0 0 8) (bits w0 16 16) seq 0 0
  else if seq % 64 != slot || decide (64 ≤ (seq + 65536 - expect) % 65536) then
    ((s.setChan c (x.zeroSlot slot)).bump CMD.STATS.SEQ_GAP 1).errReply c stSeqGap (bits w0 0 8) (bits w0 16 16) seq expect 0
  else
    let later := if seq != expect && x.laterSince.isNone then some s.now else x.laterSince
    (s.setChan c { x with held := x.held ++ [seq], laterSince := later }).chanRegs c

/-- Whether a write to the windows is discarded (R347, R348): another host's channel, a channel not enabled, a slot whose
packet is committed and not queued, or a write of another size or alignment. `off` counts from the start of the windows. -/
def State.windowBad (s : State) (src off n : Nat) : Bool :=
  let c := off / 0x1000
  !(n == 8 || n == 16 || n == 32 || n == 64) || off % n != 0 || decide (128 ≤ c) || c / 64 != src ||
    !s.is (CMD.CHAN_CTL.ENABLE c) || (s.chan c).held.any (fun q => q % 64 == off % 0x1000 / 64)

/-- A write to the windows (R347, R348, R351): its bytes are stored, and one that covers bytes 56–63 of its slot commits. -/
def State.windowStore (s : State) (src off : Nat) (data : List Nat) : State :=
  if s.windowBad src off data.length then s.bump CMD.STRAY.WRITES 1
  else
    let c := off / 0x1000
    let x := s.chan c
    let s := s.setChan c { x with slots := slotWrite x.slots (off % 0x1000) data }
    if off % 64 + data.length = 64 then s.commit c (off % 0x1000 / 64) else s

/-- WINDOW_WRITE (R348): a write that covers no commit word. -/
def execWindowWrite (src off : Nat) (data : List Nat) (s : State) : Host.Outcome State Fault Refusal :=
  .next (s.viaHost src (fun s => s.windowStore src off data))

/-- COMMAND_COMMIT (R351): a write that covers bytes 56–63 of a slot. -/
def execCommandCommit (src off : Nat) (data : List Nat) (s : State) : Host.Outcome State Fault Refusal :=
  .next (if off % 64 + data.length = 64 then s.viaHost src (fun s => s.windowStore src off data) else s)

/-- COMMAND_QUEUE (R353): the held packet at EXPECT joins the queue where it has room. -/
def commandQueue (c : Nat) (s : State) : State :=
  let x := s.chan c
  let expect := s.rd (CMD.CHAN_STATUS.EXPECT c)
  if x.held.contains expect && decide (x.queue.length < 64) then
    let p := packetWords (x.slotBytes (expect % 64))
    let held := x.held.filter (fun q => q != expect)
    let x := { x.zeroSlot (expect % 64) with
      held := held, queue := x.queue ++ [p], queued := x.queued + 1, unreported := x.unreported + 1, lastQueued := s.now,
      laterSince := if held.isEmpty then none else some s.now, gapSent := false,
      headSince := if x.queue.isEmpty then s.grants else x.headSince }
    (((s.setChan c x).wr (CMD.CHAN_STATUS.EXPECT c) (expect + 1)).bump CMD.STATS.QUEUED 1).chanRegs c
  else s

/-- COMMAND_QUEUE (R353). -/
def execCommandQueue (chan : Nat) (s : State) : Host.Outcome State Fault Refusal := .next (commandQueue chan s)

/-- The earliest later packet held: the least distance from EXPECT (R353). -/
def earliestHeld (expect : Nat) : List Nat → Nat
  | [] => expect
  | [q] => q
  | q :: r =>
    let m := earliestHeld expect r
    if (q + 65536 - expect) % 65536 < (m + 65536 - expect) % 65536 then q else m

/-- GAP_TIMER_EXPIRY (R353): one SEQ_GAP reply for this value of EXPECT. -/
def gapExpiry (c : Nat) (s : State) : State :=
  let x := s.chan c
  let expect := s.rd (CMD.CHAN_STATUS.EXPECT c)
  match x.laterSince with
  | none => s
  | some t =>
    if !x.held.isEmpty && !x.held.contains expect && !x.gapSent && decide (t + 1000 * s.rd (CMD.CHAN_CTL.GAP_US c) ≤ s.now) then
      ((s.setChan c { x with gapSent := true }).bump CMD.STATS.SEQ_GAP 1).errReply c stSeqGap 0 0xFFFF expect expect (earliestHeld expect x.held)
    else s

/-- GAP_TIMER_EXPIRY (R353). -/
def execGapTimerExpiry (chan : Nat) (s : State) : Host.Outcome State Fault Refusal := .next (gapExpiry chan s)

/-- CREDIT_WORD_WRITE (R354). -/
def creditWord (c : Nat) (s : State) : State :=
  let x := s.chan c
  let batch := max 1 (s.rd (CMD.CHAN_CTL.CREDIT_BATCH c))
  if x.unreported != 0 && (decide (batch ≤ x.unreported) || decide (x.lastQueued + 1000 ≤ s.now)) then
    let a := s.rd (CMD.CHAN_CREDIT.ADDR c) * 8
    let s := s.setChan c { x with unreported := 0 }
    if a = 0 then s else s.hostStore (c / 64) a 8 (s.rd (CMD.CHAN_STATUS.EXPECT c) + x.queued % 2 ^ 32 * 2 ^ 32)
  else s

/-- CREDIT_WORD_WRITE (R354). -/
def execCreditWordWrite (chan : Nat) (s : State) : Host.Outcome State Fault Refusal := .next (creditWord chan s)

/-! Completion (R357–R362). -/

/-- Whether a command's end writes a reply (R358). -/
def Cmd.needsReply (c : Cmd) : Bool := !(c.status == some stDone || c.status == some stAccepted) || c.replyReq

/-- The channel signal (R359). -/
def State.chanSignal (s : State) (c : Nat) : State :=
  let x := s.chan c
  let s := (s.setChan c { x with doneCount := (x.doneCount + 1) % 2 ^ 64 }).chanRegs c
  let a := s.rd (CMD.CHAN_SIGNAL.ADDR c) * 8
  if a = 0 then s else s.hostStore (c / 64) a 8 ((x.doneCount + 1) % 2 ^ 64)

/-- The reply of a command that has ended. -/
def Cmd.mkReply (c : Cmd) : Reply :=
  Sys2Proof.Machine.mkReply c.ring (c.status.getD 0) c.opcode c.context c.seq c.detail c.out0 c.out1 c.out2

/-- The reply of a command whose host is lost: written to a device ring with PARTNER_GONE and the status it would have
returned, dropped otherwise (R362). The lost host's rings are disabled; one that is enabled again takes it as any reply. -/
def State.goneReply (s : State) (c : Cmd) : State :=
  let x := Sys2Proof.Machine.mkReply c.ring stPartnerGone c.opcode c.context c.seq (c.status.getD 0) c.out0 c.out1 c.out2
  if !s.is (CMD.RING_CTL.DEVICE c.ring) then s.bump CMD.STRAY.DROPPED 1
  else if s.is (CMD.RING_CTL.ENABLE c.ring) then s.reply x
  else if s.ringFull c.ring then s.bump CMD.STRAY.DROPPED 1
  else s.ringPut c.ring [x]

/-- COMMAND_COMPLETE (R358): the reply of a command whose status is fixed enters its ring or the hold, behind those of its
ring that completed before it; then the channel's signal follows (R359). -/
def commandComplete (k : Nat) (s : State) : State :=
  match s.cmdOf k with
  | none => s
  | some c =>
    if c.src == 2 || c.status.isNone ||
        s.cmds.any (fun d => d.src != 2 && d.status.isSome && d.needsReply && c.needsReply && d.ring == c.ring && decide (d.doneNo < c.doneNo)) ||
        (c.needsReply && !c.gone && s.is (CMD.RING_CTL.ENABLE c.ring) && decide (4096 ≤ s.hold.length) &&
          (s.ringFull c.ring || s.hold.any (fun h => h.ring == c.ring))) then s
    else
      let s := if c.needsReply then (if c.gone then s.goneReply c else s.reply c.mkReply) else s
      let s := { s with cmds := s.cmds.filter (fun d => d.id != k) }
      let s := if c.signalAfter then s.chanSignal c.chan else s
      s.chanRegs c.chan

/-- COMMAND_COMPLETE (R358). -/
def execCommandComplete (k : Nat) (s : State) : Host.Outcome State Fault Refusal := .next (commandComplete k s)

/-! The control registers of channels and rings (R374, Table 15-12). -/

/-- A channel's packets not yet accepted discarded and its slots zeroed. -/
def State.chanDiscard (s : State) (c : Nat) : State :=
  let x := s.chan c
  (s.setChan c { x with slots := [], held := [], queue := [], laterSince := none, gapSent := false, unreported := 0 }).chanRegs c

/-- EXPECT set to SEQ_BASE and the queued count to 0 (R374). -/
def State.chanRestart (s : State) (c : Nat) : State :=
  let s := s.chanDiscard c
  let x := s.chan c
  (s.setChan c { x with queued := 0 }).wr (CMD.CHAN_STATUS.EXPECT c) (s.rd (CMD.CHAN_CTL.SEQ_BASE c))

/-- A write of a channel's CHAN_CTL (Table 15-12, R519). -/
def writeChanCtl (src c value : Nat) (s : State) : State :=
  if src != c / 64 then s.bump CMD.STRAY.WRITES 1
  else
    let was := s.is (CMD.CHAN_CTL.ENABLE c)
    let en := bit value 0 && (was || s.attached src)
    let s := s.wr (CMD.CHAN_CTL.CREDIT_BATCH c) (bits value 2 6)
    let s := if bits value 8 8 / 128 = src then s.wr (CMD.CHAN_CTL.ERR_RING c) (bits value 8 8) else s
    let s := s.wr (CMD.CHAN_CTL.SEQ_BASE c) (bits value 16 16)
    let s := if bits value 32 16 = 0 then s else s.wr (CMD.CHAN_CTL.GAP_US c) (bits value 32 16)
    let s := s.wr (CMD.CHAN_CTL.ENABLE c) (b2n en)
    let s := if en && !was then s.chanRestart c else if was && !en then s.chanDiscard c else s
    if bit value 1 then s.chanRestart c else s

/-- CHANNEL_ENABLE (R374): a write that sets ENABLE. -/
def execChannelEnable (src chan value : Nat) (s : State) : Host.Outcome State Fault Refusal :=
  .next (if bit value 0 && !s.is (CMD.CHAN_CTL.ENABLE chan) then s.viaHost src (writeChanCtl src chan value) else s)

/-- CHANNEL_DISABLE (R374): a write that clears ENABLE. -/
def execChannelDisable (src chan value : Nat) (s : State) : Host.Outcome State Fault Refusal :=
  .next (if !bit value 0 && s.is (CMD.CHAN_CTL.ENABLE chan) then s.viaHost src (writeChanCtl src chan value) else s)

/-- CHANNEL_RESET (R374): a write of RESET. -/
def execChannelReset (src chan value : Nat) (s : State) : Host.Outcome State Fault Refusal :=
  .next (if bit value 1 then s.viaHost src (writeChanCtl src chan value) else s)

/-- The replies held for a ring dropped and counted (R361). -/
def State.ringDrop (s : State) (r : Nat) : State :=
  let n := (s.hold.filter (fun h => h.ring == r)).length + (s.late.filter (fun h => h.ring == r)).length
  ({ s with hold := s.hold.filter (fun h => h.ring != r), late := s.late.filter (fun h => h.ring != r) }.bump CMD.STRAY.DROPPED n).lateIn

/-- A write of a ring's RING_CTL (Table 15-12, R360, R519; Table 15-10: while ENABLE is 1 only a write that clears it acts). -/
def writeRingCtl (src r value : Nat) (s : State) : State :=
  if src != r / 128 then s.bump CMD.STRAY.WRITES 1
  else
    let was := s.is (CMD.RING_CTL.ENABLE r)
    if was && bit value 6 then s
    else
      let lg := bits value 0 5
      let s := if 6 ≤ lg ∧ lg ≤ 16 then s.wr (CMD.RING_CTL.LOG2_SIZE r) lg else s
      let s := ((s.wr (CMD.RING_CTL.DEVICE r) (bits value 5 1)).wr (CMD.RING_CTL.VECTOR_EN r) (bits value 7 1)).wr (CMD.RING_CTL.VECTOR r) (bits value 8 11)
      let fits := !bit value 5 || inDevice (s.rd (CMD.RING_BASE.BASE r) * 32) (32 * s.ringSize r)
      let s := s.wr (CMD.RING_CTL.ENABLE r) (b2n (bit value 6 && s.attached src && fits))
      if was then s.ringDrop r else s

/-- RING_ENABLE (R360): a write that sets ENABLE. -/
def execRingEnable (src ring value : Nat) (s : State) : Host.Outcome State Fault Refusal :=
  .next (if bit value 6 && !s.is (CMD.RING_CTL.ENABLE ring) then s.viaHost src (writeRingCtl src ring value) else s)

/-- RING_DISABLE (R361): a write that clears ENABLE. -/
def execRingDisable (src ring value : Nat) (s : State) : Host.Outcome State Fault Refusal :=
  .next (if !bit value 6 && s.is (CMD.RING_CTL.ENABLE ring) then s.viaHost src (writeRingCtl src ring value) else s)

end Sys2Proof.Machine
end

