-- ==== Sys2Proof/Machine/Operands.lean ====
section
/-! DEFINITION. The operands an engine reads and the results it writes at a context's addresses (R520) and at bus addresses of
its host: local homes at once, remote homes over the fabric, each chunk translated before a byte moves. -/

namespace Sys2Proof.Machine

open Sys2Proof

/-- The parts of a range within 4 KiB chunks (R141): address and length. -/
def chunks : Nat → Nat → Nat → List (Nat × Nat)
  | 0, _, _ => []
  | fuel + 1, va, n =>
    if n = 0 then []
    else
      let len := min n (4096 - va % 4096)
      (va, len) :: chunks fuel (va + len) (n - len)

/-- A range cut at 4 KiB chunks. -/
def chunksOf (va n : Nat) : List (Nat × Nat) := chunks (n / 4096 + 2) va n

/-- What a read of a range comes to: its bytes, with the state in which its reader goes on; the state in which its reader waits; or the
DETAIL of a fault not served. -/
inductive Got where
  | bytes (l : List Nat) (s : State)
  | stop (s : State)
  | bad (s : State) (detail : Nat)
deriving DecidableEq

/-- The identity of a request for fault records: engine, SEQ, channel, whether one command made it (Table 5-12). -/
structure Origin where
  engine : Nat
  seq : Nat := 0
  chan : Nat := 0
  noCmd : Bool := true
  who : Parked

/-- The origin of a command's own accesses: Amelo (engine 56). -/
def Cmd.origin (c : Cmd) : Origin := { engine := 56, seq := c.seq, chan := c.chan % 128, noCmd := false, who := ⟨1, c.id, 0, 0⟩ }

/-- The 64-byte blocks that hold a remote range: offsets. -/
def blocksOf (off n : Nat) : List Nat := (List.range (ceilDiv (off % 64 + n) 64)).map (fun i => off / 64 * 64 + 64 * i)

/-- A block that was loaded for an engine. -/
def State.gotBlock (s : State) (who : Parked) (chip host off : Nat) : Option FarData :=
  s.fabric.got.find? (fun g => g.who == who && g.chip == chip && g.host == host && g.off == off)

/-- A LOAD of a block asked for, unless it is on its way. -/
def State.askBlock (s : State) (who : Parked) (ctx va chip host off fill : Nat) : State :=
  if s.fabric.reqs.any (fun r => r.who == who && r.op == 0x01 && r.target == chip && r.host == host && r.offset == off) then s
  else s.remoteLoad chip host off 1 ctx va fill who

/-- The line of a die's far-read cache that holds a block (R292); `fill` is the die's bit of a mask, 0 for none. -/
def State.farLine (s : State) (fill chip off : Nat) : Option FarLine :=
  if fill = 0 then none else s.fabric.far.find? (fun l => fill == 2 ^ l.die && l.block == globalBlock chip off)

/-- A block's bytes where they have come or the die's cache holds them. -/
def State.farBlock (s : State) (who : Parked) (fill chip host off : Nat) : Option (List Nat) :=
  match s.gotBlock who chip host off with
  | some g => some g.bytes
  | none => if host = 0 then (s.farLine fill chip off).map FarLine.bytes else none

/-- A remote range: its bytes where every block has come or is a hit in the far-read cache, else the blocks still to come asked
for (R292). -/
def State.farRange (s : State) (who : Parked) (ctx va chip host off n fill : Nat) : List Nat × State × Bool :=
  let bs := blocksOf off n
  if bs.all (fun b => (s.farBlock who fill chip host b).isSome) then
    let hits := (bs.filter (fun b => (s.gotBlock who chip host b).isNone)).length
    (((bs.flatMap (fun b => (s.farBlock who fill chip host b).getD [])).drop (off % 64)).take n,
      if hits = 0 then s else s.bump (FAB.FAR_CACHE.HITS fill.log2) hits, true)
  else (([] : List Nat), bs.foldl (fun t b => if (t.farBlock who fill chip host b).isSome then t else t.askBlock who ctx va chip host b fill) s, false)

/-- The far-read cache an engine's load of a page uses, as its die's bit (R292): an engine of a compute die (its movers, dealer
or dispatcher, Table 5-12), and a tier-3 page with FAR_CACHE set. -/
def Origin.fill (o : Origin) (leaf : Nat) : Nat :=
  if !lfFar leaf || lfTier leaf != 1 then 0
  else if o.engine < 32 then 2 ^ (o.engine / 4)
  else if 48 ≤ o.engine ∧ o.engine < 56 then 2 ^ (o.engine - 48)
  else if 64 ≤ o.engine ∧ o.engine < 72 then 2 ^ (o.engine - 64)
  else 0

/-- One chunk of a range read behind those before it: a reader that waits for one chunk asks for the others too. -/
def readChunk (o : Origin) (c : Nat) (acc : Got) (p : Nat × Nat) : Got :=
  let next (s : State) (l : Option (List Nat)) : Got :=
    match s.access c p.1 false false with
    | .ok (.here k) _ =>
      let t := s.translated o.engine c p.1
      match l with | some l => .bytes (l ++ nats (memBytes s.mem k p.2)) t | none => .stop t
    | .ok (.far chip host off) leaf =>
      match (s.translated o.engine c p.1).farRange o.who c p.1 chip host off p.2 (o.fill leaf), l with
      | (bs, t, true), some l => .bytes (l ++ bs) t
      | (_, t, _), _ => .stop t
    | .wait => .stop s
    | .serve kind => .stop (s.openFault c kind false p.1 o.engine o.seq o.chan o.noCmd o.who)
    | .bad d => .bad s d
  match acc with
  | .bad t d => .bad t d
  | .stop s => next s none
  | .bytes l s => next s (some l)

/-- `n` bytes read at an address of context `c` by an engine (R520). -/
def State.fetch (s : State) (o : Origin) (c va n : Nat) : Got := (chunksOf va n).foldl (readChunk o c) (.bytes [] s)

/-- What a write of a range comes to: written (remote blocks sent); its writer waits; or the DETAIL of a fault not served. -/
inductive Wrote where
  | ok (s : State)
  | stop (s : State)
  | bad (s : State) (detail : Nat)
deriving DecidableEq

/-- One chunk's translation for a write. -/
def checkChunk (o : Origin) (c : Nat) (atomic : Bool) (acc : Wrote) (p : Nat × Nat) : Wrote :=
  match acc with
  | .bad s d => .bad s d
  | .stop s => .stop s
  | .ok s =>
    match s.access c p.1 true atomic with
    | .ok _ _ => .ok (s.translated o.engine c p.1)
    | .wait => .stop s
    | .serve kind => .stop (s.openFault c kind true p.1 o.engine o.seq o.chan o.noCmd o.who)
    | .bad d => .bad s d

/-- A block of a remote home written: whole blocks by a STORE; a part of one by a LOAD whose answer is merged and stored, or,
for an aligned 8-byte word in a module's own memory, by a SWAP (R288, R290). -/
def State.remoteWrite (s : State) (o : Origin) (ctx va chip host off : Nat) (data : List Nat) : State :=
  if off % 64 = 0 ∧ data.length % 64 = 0 then
    (List.range (data.length / 64)).foldl (fun t i => t.remoteStore chip host (off + 64 * i) ((data.drop (64 * i)).take 64) ctx va o.who) s
  else if host = 0 ∧ data.length = 8 ∧ off % 8 = 0 then
    s.remoteAtomic chip off 0x13 1 (data ++ List.replicate 56 0) ctx va o.who
  else
    (blocksOf off data.length).foldl (fun t b =>
      let lo := max b off
      let hi := min (b + 64) (off + data.length)
      t.fabSend { id := 0, target := chip, unit := homeUnit b host, op := 0x01, host := host, units := 1, offset := b, data := (lo % 64) :: ((data.drop (lo - off)).take (hi - lo)), ctx := ctx, va := va, who := { o.who with kind := o.who.kind + 100 } }) s

/-- One chunk of a range written. -/
def writeChunk (o : Origin) (c va : Nat) (data : List Nat) (s : State) (p : Nat × Nat) : State :=
  let part := (data.drop (p.1 - va)).take p.2
  match s.access c p.1 true false with
  | .ok (.here k) _ => s.storeBytes k (toBytes part)
  | .ok (.far chip host off) _ => s.remoteWrite o c p.1 chip host off part
  | _ => s

/-- Bytes written at an address of context `c`: every chunk is translated before any byte moves (R141, R520). -/
def State.put (s : State) (o : Origin) (c va : Nat) (data : List Nat) : Wrote :=
  match (chunksOf va data.length).foldl (checkChunk o c false) (.ok s) with
  | .ok s => .ok ((chunksOf va data.length).foldl (writeChunk o c va data) s)
  | w => w

/-- Whether a requester has fabric requests without an answer. -/
def State.hasReqs (s : State) (who : Parked) : Bool := s.fabric.reqs.any (fun r => r.who.kind % 100 == who.kind && r.who.a == who.a)

/-- What was loaded for a requester dropped, once it has gone on. -/
def State.dropGot (s : State) (who : Parked) : State :=
  { s with fabric := { s.fabric with got := s.fabric.got.filter (fun g => !(g.who.kind == who.kind && g.who.a == who.a)) } }

/-- A command ended DONE with its OUT words once its remote writes are answered (R289): at once when none is out. -/
def State.doneAfter (s : State) (c : Cmd) (o0 o1 o2 : Nat) : State :=
  let s := s.dropGot c.origin.who
  if s.hasReqs c.origin.who then s.cmdMap c.id (fun x => { x with started := true, out0 := o0, out1 := o1, out2 := o2, aux := [1] })
  else s.doneWith c.id o0 o1 o2

/-- A command that reads a range goes on with its bytes, waits, or ends FAULTED. -/
def State.withBytes (s : State) (c : Cmd) (va n : Nat) (f : State → List Nat → State) : State :=
  match s.fetch c.origin c.context va n with
  | .bytes l s => f s l
  | .stop s => s
  | .bad s d => s.failWith c.id stFaulted d

/-- A command that writes a result goes on, waits, or ends FAULTED. -/
def State.withPut (s : State) (c : Cmd) (va : Nat) (data : List Nat) (f : State → State) : State :=
  match s.put c.origin c.context va data with
  | .ok s => f s
  | .stop s => s
  | .bad s d => s.failWith c.id stFaulted d

end Sys2Proof.Machine
end

