-- ==== Sys2Proof/Machine/Sched.lean ====
section
/-! DEFINITION. Launches, the dies' rings and the suspension flags of contexts, as the other units act on them (R252–R263),
and what becomes of a requester whose fault entry closes (R133). -/

namespace Sys2Proof.Machine

open Sys2Proof

/-! Accounts (R226, R227). -/

/-- The account record at a key: context c at c, tag t at 1,024 + t. -/
def State.account (s : State) (k : Nat) : Account := (aFind s.accounts k).getD {}

/-- An account record changed. -/
def State.charge (s : State) (k : Nat) (f : Account → Account) : State := { s with accounts := aPut s.accounts k (f (s.account k)) }

/-- A 64-bit count raised, saturating (R226). -/
def sat64 (a b : Nat) : Nat := min (a + b) (2 ^ 64 - 1)

/-- Bytes written into the four tiers added to an account. -/
def Account.addBytes (a : Account) (tiers : List Nat) : Account :=
  { a with bytes := List.zipWith sat64 a.bytes tiers, tickBytes := a.tickBytes + tiers.sum }

/-- Core time on a die added to an account. -/
def Account.addNs (a : Account) (die ns : Nat) : Account :=
  { a with engineNs := sat64 a.engineNs ns, tickNs := aPut a.tickNs die ((aFind a.tickNs die).getD 0 + ns) }

/-- Bytes charged to a context and to the shared tag 4,095. -/
def State.chargeBytes (s : State) (c : Nat) (tiers : List Nat) : State :=
  (s.charge c (·.addBytes tiers)).charge (1024 + 4095) (·.addBytes tiers)

/-- A total split over keys in proportion to what each has, rounded down, the remainder to the lowest key (R227). -/
def splitOver (total : Nat) (shares : List (Nat × Nat)) : List (Nat × Nat) :=
  let sum := (shares.map Prod.snd).sum
  let parts := shares.map (fun p => (p.1, total * p.2 / sum))
  let rest := total - (parts.map Prod.snd).sum
  let low := (shares.map Prod.fst).foldl min ((shares.map Prod.fst).headD 0)
  parts.map (fun p => if p.1 = low then (p.1, p.2 + rest) else p)

/-- The account keys of a launch's client tags and their shares of `n`, by rows (R227); the shared tag's where no hand has a row. -/
def Launch.split (l : Launch) (n : Nat) : List (Nat × Nat) :=
  if (l.tags.map Prod.snd).sum = 0 then [(1024 + 4095, n)] else splitOver n (l.tags.map (fun t => (1024 + t.1, t.2)))

/-- The bytes a launch moved charged to its context and tags. -/
def State.chargeLaunch (s : State) (l : Launch) : State :=
  let s := s.charge l.ctx (·.addBytes l.bytesTier)
  let shares := l.bytesTier.map l.split
  ((shares.headD []).map Prod.fst).foldl (fun t k =>
    t.charge k (·.addBytes (shares.map (fun sh => ((sh.find? (fun p => p.1 == k)).map Prod.snd).getD 0)))) s

/-- Core time on a die charged to a context and, by shares, to tags. -/
def State.chargeNs (s : State) (c die ns : Nat) (shares : List (Nat × Nat)) : State :=
  shares.foldl (fun (u : State) p => u.charge p.1 (·.addNs die p.2)) (s.charge c (·.addNs die ns))

/-! Launches. -/

/-- The launch with an id. -/
def State.launch (s : State) (i : Nat) : Option Launch := s.launches.find? (fun l => l.id == i)

/-- A launch changed in place. -/
def State.launchMap (s : State) (i : Nat) (f : Launch → Launch) : State :=
  { s with launches := s.launches.map (fun l => if l.id = i then f l else l) }

/-- The part of a launch on a die. -/
def Launch.part (l : Launch) (d : Nat) : Option DiePart := l.parts.find? (fun p => p.die == d)

/-- The part of a launch on a die changed. -/
def Launch.partMap (l : Launch) (d : Nat) (f : DiePart → DiePart) : Launch :=
  { l with parts := l.parts.map (fun p => if p.die = d then f p else p) }

/-- The ring of a class on a die (R256). -/
def State.ringOf (s : State) (d cls : Nat) : List Nat := (aFind s.rings (2 * d + cls)).getD []

/-- A ring replaced, with its count in SCHED.DIE_STATUS. -/
def State.setRing (s : State) (d cls : Nat) (l : List Nat) : State :=
  { s with rings := aPut s.rings (2 * d + cls) l }.wr (if cls = 0 then SCHED.DIE_STATUS.READY_TRUMP d else SCHED.DIE_STATUS.READY_PLAIN d) l.length

/-- The launch that holds a die (R254). -/
def State.holder (s : State) (d : Nat) : Option Launch :=
  s.launches.find? (fun l => l.parts.any (fun p => p.die == d && p.phase == 2))

/-- RUN, LAUNCHES and PAUSED of a context (Table 11-8). -/
def State.ctxRun (s : State) (c : Nat) : State :=
  let mine := s.launches.filter (fun l => l.ctx == c && l.ended.isNone)
  let run := if s.suspended c then 3
    else if mine.any (fun l => l.parts.any (fun p => p.phase == 2)) then 2
    else if mine.any (fun l => l.ready && l.parts.any (fun p => p.phase == 1)) then 1 else 0
  let paused := mine.any (fun l => l.parts.any (fun p => p.paused))
  s.wrs [(SCHED.CTX_STATE.RUN c, run), (SCHED.CTX_STATE.LAUNCHES c, min mine.length 65535), (SCHED.CTX_STATE.PAUSED c, b2n paused)]

/-- The launches of a die's ring that may run: those of a suspended context are passed over (R253, R263). -/
def State.readyIn (s : State) (d cls : Nat) : List Nat :=
  (s.ringOf d cls).filter (fun i => match s.launch i with | some l => !s.suspended l.ctx | none => true)

/-- Whether a holder is asked off its die by trump work, its slice's end or PREEMPT (R256, R257, R265). -/
def State.askedOff (s : State) (l : Launch) (p : DiePart) : Bool :=
  s.is (SCHED.CTX_STATE.PREEMPTED l.ctx) || p.yielding || (l.cls == 1 && !(s.readyIn p.die 0).isEmpty)

/-- Since when each holder is asked off its die (R258), and TRUMP_WAITING of every die (Table 11-8). -/
def State.asks (s : State) : State :=
  let s := { s with launches := s.launches.map (fun (l : Launch) => { l with parts := l.parts.map (fun (p : DiePart) =>
    if p.phase = 2 then { p with askedAt := if s.askedOff l p then (if p.askedAt = 0 then s.now + 1 else p.askedAt) else 0 } else p) }) }
  (List.range 8).foldl (fun t d => t.wr (SCHED.DIE_STATUS.TRUMP_WAITING d) (match t.holder d with
    | some h => b2n (h.cls == 1 && !(t.readyIn d 0).isEmpty)
    | none => 0)) s

/-- The dealer writes none of the windows that `p` picks any more (Table 5-17). -/
def State.dealStop (s : State) (p : Window → Bool) : State :=
  (s.windows.filter p).foldl (fun t w => t.wr (TIER.WINDOW.DEALING w.die w.slotNo) 0) s

/-- The time for which launches have held their dies, counted up to now (Table 11-8). -/
def State.busyNow (s : State) : State :=
  let s := s.launches.foldl (fun t l => l.parts.foldl (fun (u : State) p =>
    if p.phase = 2 then u.bump (if l.cls = 0 then SCHED.BUSY_TRUMP.DIE_NS else SCHED.BUSY_PLAIN.DIE_NS) (s.now - p.heldSince) else u) t) s
  { s with launches := s.launches.map (fun (l : Launch) => { l with parts := l.parts.map (fun (p : DiePart) => { p with heldSince := s.now }) }) }

/-- A die left by its holder: the time it was held goes to its class, in ns (Table 11-8), and its dealer stops. -/
def State.dieFree (s : State) (d cls since : Nat) : State :=
  (((s.bump (if cls = 0 then SCHED.BUSY_TRUMP.DIE_NS else SCHED.BUSY_PLAIN.DIE_NS) (s.now - since)).wr (SCHED.DIE_STATUS.IDLE d) 1).wr
    (SCHED.DIE_STATUS.TRUMP_WAITING d) 0).dealStop (fun w => w.die == d)

/-- A launch taken off every die and ring it is on. -/
def State.launchOff (s : State) (l : Launch) : State :=
  l.parts.foldl (fun t p =>
    let t := (t.setRing p.die 0 ((t.ringOf p.die 0).filter (fun x => x != l.id))).setRing p.die 1 ((t.ringOf p.die 1).filter (fun x => x != l.id))
    if p.phase = 2 then t.dieFree p.die l.cls p.heldSince else t) s

/-- A launch ended with a status other than by completing (R131, R375, R377): nothing further of it runs; its command takes
the status; the step it belongs to finds it ended. -/
def State.endLaunch (s : State) (i st det : Nat) : State :=
  match s.launch i with
  | none => s
  | some l =>
    if l.ended.isSome then s
    else
      let s := (s.launchOff l).chargeLaunch l
      let s := s.launchMap i (fun x => { x with ended := some (st, det), parts := x.parts.map (fun p => { p with phase := 3, busy := 0, tile := [] }) })
      let s := match l.cmd with
        | some k => s.finish k st det (if st = stJobAborted then l.tiles else 0) 0 0
        | none => s
      let s := if l.cmd.isSome then { s with launches := s.launches.filter (fun x => x.id != i) } else s
      ((s.dealStop (fun w => w.ctx == l.ctx)).asks).ctxRun l.ctx

/-- A parked requester whose fault will not be served ends with a status (R133): a mover's descriptor, a command, a launch
(its record or a deal for it), a move of the tier engine (abandoned), the serving unit's step. -/
def State.endParked (s : State) (st det : Nat) (p : Parked) : State :=
  if p.kind = 0 then
    { s with descs := s.descs.map (fun (x : Desc) => if x.id = p.a then { x with ended := (if x.ended.isNone then some (st, det) else x.ended), live := x.live.map (fun (r : MoverReq) => if r.no = p.b then { r with state := 5 } else r) } else x) }
  else if p.kind = 1 then s.finish p.a st det 0 0 0
  else if p.kind = 2 ∨ p.kind = 3 then s.endLaunch p.a st det
  else s

/-- A parked requester whose page is there again replays (R133, R150): a mover's request goes back to issue; the others meet
their access afresh when they go on. -/
def State.replayParked (s : State) (p : Parked) : State :=
  if p.kind = 0 then
    { s with descs := s.descs.map (fun (x : Desc) => if x.id = p.a then { x with live := x.live.map (fun (r : MoverReq) => if r.no = p.b ∧ r.state = 2 then { r with state := 6 } else r) } else x) }
  else s

/-- A fault entry closed: removed once no record of it is to be sent, and the context's flag brought up (R133, R263). -/
def State.closeEntry (s : State) (e : FaultEntry) (withdraw : Bool) : State :=
  let again := if withdraw && e.kind == 2 then [2] else []
  let l := s.faults.map (fun (x : FaultEntry) => if x.id = e.id then { x with isOpen := false, parked := [], toSend := again } else x)
  ({ s with faults := l.filter (fun x => x.isOpen || !x.toSend.isEmpty) }.faultFlags e.ctx).ctxRun e.ctx

/-- The open entries of a page closed because it is RESIDENT; their requests replay (R133). -/
def State.pageServed (s : State) (c va : Nat) (big : Bool) : State :=
  (s.faults.filter (fun e => e.isOpen && e.ctx == c && e.va / pageSize big * pageSize big == va)).foldl
    (fun t e => e.parked.foldl State.replayParked (t.closeEntry e false)) s

/-- An open entry closed unserved: each of its requests ends with a status (R133). -/
def State.faultEnd (s : State) (e : FaultEntry) (st det : Nat) : State :=
  e.parked.foldl (fun t p => t.endParked st det p) (s.closeEntry e false)

end Sys2Proof.Machine
end

