-- ==== Sys2Proof/Machine/Areas.lean ====
section
/-! DEFINITION. Routers, their receive areas and their counters as the other units meet them (R164–R166, R182, R186, R496): where an
area stands, what arrives in it, and the registers of block ROUTE that show it. -/

namespace Sys2Proof.Machine

open Sys2Proof

/-! Routers and placement. -/

/-- Bytes of a receive area (R165). -/
def Router.areaBytes (r : Router) : Nat := 64 + r.capacity * (64 + r.rowBytes)
/-- The placement of expert `e`: chip, slot, valid, RECV_VA. -/
def Router.entry (r : Router) (e : Nat) : Nat × Nat × Nat × Nat := r.place.getD e (0, 0, 0, 0)
/-- CHIP of an expert. -/
def Router.chipOf (r : Router) (e : Nat) : Nat := (r.entry e).1
/-- VALID of an expert. -/
def Router.valid (r : Router) (e : Nat) : Bool := (r.entry e).2.2.1 == 1
/-- The valid experts. -/
def Router.validList (r : Router) : List Nat := (List.range r.experts).filter r.valid
/-- Address of an expert's area for a parity. -/
def Router.areaVa (r : Router) (e parity : Nat) : Nat := (r.entry e).2.2.2 + parity * r.areaBytes
/-- Whether a router is the one of a context's layer under a slot. -/
def Router.isOf (r : Router) (c slot layer : Nat) : Bool := r.ctx == c && r.slot == slot && r.layer == layer

/-- The router of a layer of a context under the slot that runs it. -/
def State.router (s : State) (c slot layer : Nat) : Option Router := s.routers.find? (fun r => r.isOf c slot layer)

/-- The slot a context names, 8 for none. -/
def State.ctxSlot (s : State) (c : Nat) : Nat := (s.ctx c).slot.getD 8

/-- The switch pending for a context. -/
def State.switchOf (s : State) (c : Nat) : Option Switch := s.switches.find? (fun w => w.ctx == c)

/-- The slot whose routers a ROUTER_CONFIG configures: the pending one while a switch is pending (R496). -/
def State.routerSlot (s : State) (c : Nat) : Nat := match s.switchOf c with | some w => w.slot | none => s.ctxSlot c

/-- Members of the partition other than donors (R167, R215). -/
def State.sources (s : State) : List Nat := if s.topo.members.isEmpty then [s.chip] else (s.topo.members.filter (fun m => !m.donor)).map Member.chip

/-- Whether this module is a donor, which sends no entry (R167, R317). -/
def State.isDonor (s : State) : Bool := s.topo.members.any (fun m => m.chip == s.chip && m.donor)

/-! Receive areas (R164–R166). -/

/-- The key of an address of a context where it is homed here. -/
def State.keyAt (s : State) (c va : Nat) : Option Nat :=
  match s.walk c va with
  | some (_, big, l) => if lfState l == 2 || lfState l == 3 then none else
    match s.locate l (va % pageSize big) with
    | .here k => some k
    | .far _ _ _ => none
  | none => none

/-- The experts of a router homed here. -/
def State.homed (s : State) (r : Router) : List Nat := r.validList.filter (fun e => r.chipOf e == s.chip)

/-- A receive area's header brought to the state of R166. -/
def State.areaClear (s : State) (r : Router) (e parity : Nat) : State :=
  match s.keyAt r.ctx (r.areaVa e parity) with
  | none => s
  | some k => s.storeWords k [0, 0, s.sources.length, 0]

/-- The record of an area in use. -/
def State.areaOf (s : State) (c slot layer e parity : Nat) : Option Area :=
  s.areas.find? (fun a => a.ctx == c && a.slot == slot && a.layer == layer && a.expert == e && a.parity == parity)

/-- An area's record replaced, or entered. -/
def State.setArea (s : State) (a : Area) : State :=
  if (s.areaOf a.ctx a.slot a.layer a.expert a.parity).isSome then
    { s with areas := s.areas.map (fun (x : Area) => if x.ctx = a.ctx ∧ x.slot = a.slot ∧ x.layer = a.layer ∧ x.expert = a.expert ∧ x.parity = a.parity then a else x) }
  else { s with areas := s.areas ++ [a] }

/-- Areas that await arrivals now. -/
def State.waitRegs (s : State) : State := s.wr ROUTE.ARRIVE_WAIT.WAITING (s.areas.filter (fun a => a.state == 0 && a.since != 0)).length

/-- One area's first arrival noted: its record entered with the time (Table 7-10). -/
def State.noteArea (r : Router) (s : State) (p : Nat × Nat) : State :=
  match s.keyAt r.ctx (r.areaVa p.1 p.2) with
  | none => s
  | some k =>
    if s.load k 8 = 0 ∧ s.load (k + 8) 8 = 0 then s
    else match s.areaOf r.ctx r.slot r.layer p.1 p.2 with
      | none => s.setArea { ctx := r.ctx, slot := r.slot, layer := r.layer, expert := p.1, parity := p.2, since := s.now + 1 }
      | some a => if a.since = 0 then s.setArea { a with since := s.now + 1 } else s

/-- Arrivals at the areas homed here noted, as an add lands (R186). -/
def State.noteArrivals (s : State) : State :=
  (s.routers.foldl (fun (t : State) r => ((s.homed r).flatMap (fun e => [(e, 0), (e, 1)])).foldl (State.noteArea r) t) s).waitRegs

/-- ROUTE.BIAS_LOOP.RUNNING brought up. -/
def State.loopRegs (s : State) : State := s.wr ROUTE.BIAS_LOOP.RUNNING (b2n (s.routers.any Router.loopOn))

/-- The routers that `p` picks removed, with their areas. -/
def State.routersDrop (s : State) (p : Nat → Nat → Nat → Bool) : State :=
  ({ s with
    routers := s.routers.filter (fun q => !p q.ctx q.slot q.layer),
    areas := s.areas.filter (fun a => !p a.ctx a.slot a.layer) }.loopRegs).waitRegs

/-! Counters (R182). -/

/-- Bytes of a router's counters: the header and a record for each expert. -/
def Router.countBytes (r : Router) : Nat := 64 + 16 * r.experts

/-- A 32-bit field of an expert's record: 0 WIN_SEL, 1 SEL, 2 ADMITTED, 3 OVERFLOWED. -/
def recField (b : List Nat) (e i : Nat) : Nat := leOf ((b.drop (64 + 16 * e + 4 * i)).take 4)

/-- A router's counters changed: `h` the tokens skipped, `g` each field of each expert's record. -/
def Router.countMap (r : Router) (b : List Nat) (h : Nat → Nat) (g : Nat → Nat → Nat → Nat) : List Nat :=
  leVals 8 (h (leOf (b.take 8))) ++ (b.drop 8).take 56 ++
    (List.range r.experts).flatMap (fun e => (List.range 4).flatMap (fun i => leVals 4 (g e i (recField b e i))))

/-- A 32-bit count raised, saturating (R182). -/
def sat32 (a b : Nat) : Nat := min (a + b) (2 ^ 32 - 1)

/-- A router's counters read by an access of the context, changed and written back (R182, R520): `f` takes their bytes. -/
def State.countsEdit (s : State) (o : Origin) (r : Router) (f : List Nat → List Nat) : Wrote :=
  match s.fetch o r.ctx r.countVa r.countBytes with
  | .bytes b s => s.put o r.ctx r.countVa (f b)
  | .stop s => .stop s
  | .bad s d => .bad s d

end Sys2Proof.Machine
end

