-- ==== Sys2Proof/Machine/Control.lean ====
section
/-! DEFINITION. The control commands NOP, FENCE, SIGNAL, WAIT and TIMESTAMP (R365, R366, Table 15-6). -/

namespace Sys2Proof.Machine

open Sys2Proof

/-- Whether parameter words `i` to 5 are zero. -/
def Cmd.restZero (c : Cmd) (i : Nat) : Bool := (List.range 6).all (fun j => decide (j < i) || c.p j == 0)

/-- The checks of NOP. -/
def checkNop (s : State) (c : Cmd) : Option (Nat × Nat) := firstBad [
  (s.ctxBad .any c, stBadContext, 0), (!c.restZero 0, stBadParam, 0x0F01)]

/-- NOP completes at once (R365). -/
def execNop (k : Nat) (s : State) : Host.Outcome State Fault Refusal :=
  .next (s.runCmd k 0x00 always checkNop (fun s c => s.doneWith c.id 0 0 0))

/-- The checks of FENCE. -/
def checkFence (s : State) (c : Cmd) : Option (Nat × Nat) := firstBad [
  (s.ctxBad .any c, stBadContext, 0), (!onlyBits (c.p 0) 1 || !c.restZero 1, stBadParam, 0x0F01)]

/-- Whether an earlier command of the fence's channel, or of every channel of its host, has not completed (R361, R365); on the side-band
port a command has completed once its status is fixed. -/
def State.fenced (s : State) (c : Cmd) : Bool :=
  s.cmds.any (fun d => decide (d.id < c.id) && d.src == c.src && (d.src != 2 || d.status.isNone) && (d.chan == c.chan || c.src == 2 || bit (c.p 0) 0))

/-- FENCE completes when every earlier command it waits for has (R365). -/
def execFence (k : Nat) (s : State) : Host.Outcome State Fault Refusal :=
  .next (s.runCmd k 0x01 always checkFence (fun s c => if s.fenced c then s else s.doneWith c.id 0 0 0))

/-- The checks of SIGNAL (0x0F11: unaligned, not mapped, or BUS with ADD). -/
def checkSignal (s : State) (c : Cmd) : Option (Nat × Nat) := firstBad [
  (!(c.context == 0xFFFF || s.owns c.src c.context), stBadContext, 0),
  (!onlyBits (c.p 0) 3 || !c.restZero 3 || (!bit (c.p 0) 1 && decide (2 ^ 57 ≤ c.p 1)), stBadParam, 0x0F01),
  (c.p 1 % 8 != 0 || (bit (c.p 0) 0 && bit (c.p 0) 1) || (bit (c.p 0) 1 && c.src == 2) ||
    (!bit (c.p 0) 1 && (s.walk c.context (c.p 1)).isNone), stBadParam, 0x0F11)]

/-- SIGNAL stores VALUE, or fetch-adds it, at an address of its context or of its host (R365). -/
def signal (s : State) (c : Cmd) : State :=
  if bit (c.p 0) 1 then (s.hostStore c.src (c.p 1) 8 (c.p 2)).doneWith c.id 0 0 0
  else match s.cmdAccess c (c.p 1) true (bit (c.p 0) 0) with
    | .stop s => s
    | .ok (.here k) _ =>
      if bit (c.p 0) 0 then (s.store k 8 ((s.load k 8 + c.p 2) % 2 ^ 64)).doneWith c.id (s.load k 8) 0 0
      else (s.store k 8 (c.p 2)).doneWith c.id 0 0 0
    | .ok (.far chip host off) _ =>
      if bit (c.p 0) 0 then
        (s.remoteAtomic chip off 0x15 1 (leVals 8 (c.p 2) ++ List.replicate 56 0) c.context (c.p 1) c.origin.who).start c.id [2]
      else (s.remoteWrite c.origin c.context (c.p 1) chip host off (leVals 8 (c.p 2))).start c.id [1]

/-- SIGNAL (R365). -/
def execSignal (k : Nat) (s : State) : Host.Outcome State Fault Refusal := .next (s.runCmd k 0x02 always checkSignal signal)

/-- Whether the home of an address is in tier 4, a host's memory (Table 15-6). -/
def State.tier4 (s : State) (c va : Nat) : Bool :=
  match s.walk c va with | some (_, _, l) => decide (2 ≤ lfTier l) && lfState l != 2 | none => false

/-- The checks of WAIT. -/
def checkWait (s : State) (c : Cmd) : Option (Nat × Nat) := firstBad [
  (s.ctxBad .owned c, stBadContext, 0),
  (!onlyBits (c.p 0) 3 || decide (2 ^ 57 ≤ c.p 1) || decide (2 ^ 32 ≤ c.p 3) || !c.restZero 4, stBadParam, 0x0F01),
  (bits (c.p 0) 0 2 == 3 || c.p 1 % 8 != 0 || (s.walk c.context (c.p 1)).isNone || s.tier4 c.context (c.p 1) ||
    c.p 3 == 0 || decide (60_000_000 < c.p 3), stBadParam, 0x0F11)]

/-- Whether a word meets a condition (Table 15-6): 0 at least, 1 equal, 2 different. -/
def condMet (cond word value : Nat) : Bool :=
  if cond = 0 then decide (value ≤ word) else if cond = 1 then word == value else word != value

/-- A WAIT given the word it read: DONE with it in OUT0 once it meets the condition. -/
def State.waitSee (s : State) (c : Cmd) (word : Nat) : State :=
  if condMet (bits (c.p 0) 0 2) word (c.p 2) then s.doneWith c.id word 0 0 else s

/-- A WAIT reads its word: here at once, at another member by a LOAD whose answer it sees when it comes (R366). -/
def waitRead (s : State) (c : Cmd) : State :=
  match s.cmdAccess c (c.p 1) false false with
  | .stop s => s
  | .ok (.here k) _ => s.waitSee c (s.load k 8)
  | .ok (.far chip host off) _ => s.askBlock ⟨1, c.id, 3, off % 64⟩ c.context (c.p 1) chip host (off / 64 * 64) 0

/-- WAIT reads its word when it is accepted, and then waits (R366). -/
def execWait (k : Nat) (s : State) : Host.Outcome State Fault Refusal :=
  .next (s.runCmd k 0x03 always checkWait (fun s c => waitRead (s.start c.id [3]) c))

/-- The WAIT in progress with an acceptance number. -/
def State.waiting (s : State) (k : Nat) : Option Cmd :=
  match s.cmdRunning k with
  | some c => if c.opcode = 0x03 then some c else none
  | none => none

/-- WAIT_POLL (R366). -/
def execWaitPoll (k : Nat) (s : State) : Host.Outcome State Fault Refusal :=
  .next (match s.waiting k with | some c => waitRead s c | none => s)

/-- WAIT_TIMEOUT (R366). -/
def execWaitTimeout (k : Nat) (s : State) : Host.Outcome State Fault Refusal :=
  .next (match s.waiting k with
    | some c => if c.since + 1000 * c.p 3 ≤ s.now then s.failWith k stTimedOut 0 else s
    | none => s)

/-- The checks of TIMESTAMP. -/
def checkTimestamp (s : State) (c : Cmd) : Option (Nat × Nat) := firstBad [
  (s.ctxBad .any c, stBadContext, 0),
  (c.p 0 != 0 || decide (2 ^ 57 ≤ c.p 1) || !c.restZero 2, stBadParam, 0x0F01),
  (c.p 1 != 0 && (c.p 1 % 8 != 0 || (s.walk c.context (c.p 1)).isNone), stBadParam, 0x0F11)]

/-- TIMESTAMP returns the time base and the tick count, and stores the time base where VA is not 0 (R365). -/
def timestamp (s : State) (c : Cmd) : State :=
  let t := s.timeBase
  let n := s.rd MGMT.TICK.COUNT
  if c.p 1 = 0 then s.doneWith c.id t n 0
  else s.withPut c (c.p 1) (leVals 8 t) (fun s => s.doneAfter c t n 0)

/-- TIMESTAMP (R365). -/
def execTimestamp (k : Nat) (s : State) : Host.Outcome State Fault Refusal := .next (s.runCmd k 0x04 always checkTimestamp timestamp)

end Sys2Proof.Machine
end

