-- ==== Sys2Proof/Machine/Paging.lean ====
section
/-! DEFINITION. MAP, UNMAP, MIGRATE and SET_HOME (R367, R368, Table 15-7), and PIN_WINDOW (R127, R128). -/

namespace Sys2Proof.Machine

open Sys2Proof

/-- PAGE_2M of a memory command. -/
def Cmd.big (c : Cmd) : Bool := bit (c.p 0) 0
/-- TIER. -/
def Cmd.tier (c : Cmd) : Nat := bits (c.p 0) 8 3
/-- VA. -/
def Cmd.va (c : Cmd) : Nat := c.p 1
/-- PAGES. -/
def Cmd.pages (c : Cmd) : Nat := bits (c.p 2) 0 24
/-- The address of the command's page `i`. -/
def Cmd.pageVa (c : Cmd) (i : Nat) : Nat := c.va + i * pageSize c.big
/-- HOME_CHIP of HOME, 0xFFD read as this module's number (R106). -/
def State.homeChip (s : State) (h : Nat) : Nat := if bits h 44 12 = 0xFFD then s.chip else bits h 44 12

/-- Whether VA or PAGES is out of range: unaligned, zero pages, or past the range's end. -/
def Cmd.rangeBad (c : Cmd) : Bool :=
  c.va % pageSize c.big != 0 || c.pages == 0 || decide (2 ^ 57 < c.va + c.pages * pageSize c.big)

/-- The indices of a command's pages. -/
def Cmd.pageList (c : Cmd) : List Nat := List.range c.pages

/-- The leaf of a page if one of its own size maps it. -/
def State.leafOf (s : State) (c va : Nat) (big : Bool) : Option Nat :=
  match s.walk c va with
  | some (_, b, l) => if b = big then some l else none
  | none => none

/-- Whether an address lies in a range that only its own command frees: a window, span, copy, entry or image (R368). -/
def State.ownedRange (s : State) (c va : Nat) : Bool :=
  s.ranges.any (fun r => r.ctx == c && decide (r.base ≤ va) && decide (va < r.base + r.size))

/-! MAP. -/

/-- The checks of MAP (Table 15-9). -/
def checkMap (s : State) (c : Cmd) : Option (Nat × Nat) :=
  let absent := bit (c.p 0) 6
  let alloc := bit (c.p 0) 7
  let home := c.p 3
  let chip := s.homeChip home
  firstBad [
    (s.ctxBad .owned c, stBadContext, 0),
    (!onlyBits (c.p 0) 0xFF07FF || decide (2 ^ 57 ≤ c.p 1) || decide (2 ^ 24 ≤ c.p 2) || decide (2 ^ 56 ≤ home) || !c.restZero 4, stBadParam, 0x0F01),
    (c.rangeBad || decide (3 < c.tier) || (absent && (alloc || home != 0)) || (alloc && (decide (1 < c.tier) || home != 0)) ||
      (!absent && !alloc && home % 2 ^ 44 % pageSize c.big != 0), stBadParam, 0x0F21),
    (!absent && !alloc && (decide (0xF00 ≤ chip) || !s.member chip || (decide (c.tier < 2) && (chip == s.chip || c.tier == 0))), stBadParam, 0x0F23),
    (c.pageList.any (fun i => match s.walk c.context (c.pageVa i) with
        | some (_, b, l) => b != c.big || lfState l != 2
        | none => c.big && !s.unmapped c.context (c.pageVa i) (pageSize true)), stBadParam, 0x0F22)]

/-- The leaf MAP writes for its page `i`, with the state in which its frame is handed out; none where no frame is free. -/
def mapLeaf (c : Cmd) (i : Nat) (s : State) : Option (Nat × State) :=
  let w := c.p 0
  let mk (st tier frame chip : Nat) := mkLeaf (bit w 1) (bit w 2) (bit w 3) (bit w 4) (bit w 5) st tier frame chip
  if bit w 6 then some (mk 2 0 0 0, s)
  else if bit w 7 then
    match s.allocRun (if c.tier = 0 then sramRegions (bits w 16 8) else hbmRegions (bits w 16 8)) (pageSize c.big) (pageSize c.big) 1 c.context with
    | none => none
    | some (f, s) => some (mk 0 c.tier f s.chip, s)
  else some (mk 0 c.tier (c.p 3 % 2 ^ 44 + i * pageSize c.big) (s.homeChip (c.p 3)), s)

/-- MAP's pages from the `i`-th, one after the other; none where a frame, a table frame or an index entry cannot be had. -/
def mapPages (c : Cmd) : Nat → Nat → State → Option State
  | 0, _, s => some s
  | n + 1, i, s =>
    match mapLeaf c i s with
    | none => none
    | some (leaf, s) =>
      match s.mapPage c.context (c.pageVa i) c.big leaf with
      | none => none
      | some s => if 1_048_576 < s.remaps.length then none else mapPages c n (i + 1) s

/-- Whether no die holds more than 96 pinned pages (R127). -/
def State.pinsOk (s : State) : Bool := (List.range 8).all (fun d => decide (s.pinned d ≤ 96))

/-- MAP (R368): all pages or, with NO_RESOURCE, none; ABSENT faults of the pages are served (R133). -/
def mapCmd (s : State) (c : Cmd) : State :=
  match mapPages c c.pages 0 s with
  | none => s.failWith c.id stNoResource 0
  | some t =>
    if bit (c.p 0) 3 && !t.pinsOk then s.failWith c.id stNoResource 0
    else
      let first := match t.walk c.context c.va with | some (_, _, l) => if bit (c.p 0) 6 then 0 else lfFrame l | none => 0
      let t := if bit (c.p 0) 6 then t else c.pageList.foldl (fun t i => t.pageServed c.context (c.pageVa i) c.big) t
      t.doneWith c.id c.pages first 0

/-- MAP (R368). -/
def execMap (k : Nat) (s : State) : Host.Outcome State Fault Refusal := .next (s.runCmd k 0x12 always checkMap mapCmd)

/-! UNMAP. -/

/-- Whether some page of the command is unmapped, of another size, or owned by its own command (0x0F24). -/
def State.pagesBad (s : State) (c : Cmd) : Bool :=
  c.pageList.any (fun i => (s.leafOf c.context (c.pageVa i) c.big).isNone || s.ownedRange c.context (c.pageVa i))

/-- The checks of UNMAP. -/
def checkUnmap (s : State) (c : Cmd) : Option (Nat × Nat) := firstBad [
  (s.ctxBad .owned c, stBadContext, 0),
  (!onlyBits (c.p 0) 1 || decide (2 ^ 57 ≤ c.p 1) || decide (2 ^ 24 ≤ c.p 2) || !c.restZero 3, stBadParam, 0x0F01),
  (c.rangeBad, stBadParam, 0x0F21),
  (s.pagesBad c, stBadParam, 0x0F24)]

/-- HOST of a packet that names a home of a tier (Table 12-4). -/
def hostOfTier (tier : Nat) : Nat := tier - 1

/-- A move broadcast sent to every other member: old home, new home (R119 step 5, R122). The data unit holds the old chip and
frame at bytes 0–1 and 8–15, the new chip and frame at bytes 16–17 and 24–31, the page's size at bytes 32–39, and the old home's
host, as HOST of Table 12-4, at byte 40; HOST of the header names the new home's host. -/
def State.broadcast (s : State) (move oldChip oldHost oldFrame newTier newChip newFrame size : Nat) : State :=
  let data := leVals 8 oldChip ++ leVals 8 oldFrame ++ leVals 8 newChip ++ leVals 8 newFrame ++ leVals 8 size ++ leVals 8 oldHost ++ List.replicate 16 0
  let s := s.others.foldl (fun t m =>
    t.fabSend { id := 0, target := m, unit := 15, op := 0x30, host := hostOfTier newTier, units := 1, offset := oldFrame, data := data, who := ⟨7, move, m, 0⟩ }) s
  if s.others.isEmpty then s else s.bump TIER.INVAL.SENT 1

/-- The frame a leaf names freed where it lies in this module and was handed out. -/
def State.freeHome (s : State) (leaf : Nat) : State :=
  if lfState leaf != 2 && decide (lfTier leaf < 2) && lfChip leaf == s.chip then s.freeRunAt (lfFrame leaf) else s

/-- One page unmapped and its frame freed; the unmap of a GLOBAL page whose home is this module's or its host's is broadcast as a move to
no home (Table 5-8). DESIGN CHOICE (log 48): the broadcast carries chip 0xFFF, which a receiver writes into its leaves, so that a later
access there faults as BAD_HOME. -/
def unmapOne (c : Nat) (s : State) (va : Nat) : State :=
  match s.walk c va with
  | none => s
  | some (_, big, leaf) =>
    let s := (s.unmapPage c va).freeHome leaf
    if lfGlobal leaf && lfState leaf != 2 && lfChip leaf == s.chip then
      s.broadcast 0 (lfChip leaf) (hostOfTier (lfTier leaf)) (lfFrame leaf) 1 0xFFF 0 (pageSize big)
    else s

/-- Whether a page of the command is in TRANSIT. -/
def State.anyTransit (s : State) (c : Cmd) : Bool :=
  c.pageList.any (fun i => match s.leafOf c.context (c.pageVa i) c.big with | some l => lfState l == 1 | none => false)

/-- UNMAP (R368): it waits while a page is in TRANSIT (Table 5-8). -/
def unmapCmd (s : State) (c : Cmd) : State :=
  if s.anyTransit c then s
  else (c.pageList.foldl (fun t i => unmapOne c.context t (c.pageVa i)) s).doneWith c.id c.pages 0 0

/-- UNMAP (R368). -/
def execUnmap (k : Nat) (s : State) : Host.Outcome State Fault Refusal := .next (s.runCmd k 0x13 always checkUnmap unmapCmd)

/-! MIGRATE. -/

/-- The checks of MIGRATE. -/
def checkMigrate (s : State) (c : Cmd) : Option (Nat × Nat) :=
  let target := bits (c.p 0) 24 12
  let chip := if target = 0xFFD then s.chip else target
  firstBad [
    (s.ctxBad .owned c, stBadContext, 0),
    (!onlyBits (c.p 0) 0xF_FFFF_0701 || decide (2 ^ 57 ≤ c.p 1) || decide (2 ^ 24 ≤ c.p 2) || !c.restZero 4, stBadParam, 0x0F01),
    (c.rangeBad || decide (3 < c.tier) || (c.tier != 1 && target != 0) || (decide (c.tier < 2) && c.p 3 != 0) ||
      (decide (2 ≤ c.tier) && (c.p 3 % pageSize c.big != 0 || decide (2 ^ 44 ≤ c.p 3))), stBadParam, 0x0F21),
    (c.tier == 1 && (decide (0xF00 ≤ chip) || !s.member chip), stBadParam, 0x0F23),
    (s.pagesBad c, stBadParam, 0x0F24),
    (c.pageList.any (fun i => match s.leafOf c.context (c.pageVa i) c.big with | some l => lfState l == 2 | none => false), stBadParam, 0x0521)]

/-- The move of a MIGRATE's page `i` (Table 5-7). -/
def migrateMove (s : State) (c : Cmd) (i : Nat) : Move :=
  let target := bits (c.p 0) 24 12
  let chip := if c.tier = 1 then (if target = 0xFFD then s.chip else target) else s.chip
  { id := 0, ctx := c.context, va := c.pageVa i, big := c.big, leaf := bits (c.p 0) 16 8, tier := c.tier, chip := chip, frame := (if c.tier < 2 then 0 else c.p 3 + i * pageSize c.big), phase := 0, cause := 0, owner := c.id }

/-- Places for `n` more pinned pages among the dies of a mask, given out die by die: how many on each; none where they do not fit
(R127). -/
def State.pinPlaces (s : State) (mask : Nat) : Nat → List Nat → Option (List Nat)
  | 0, [] => some []
  | _ + 1, [] => none
  | n, d :: r =>
    let k := if mask % 256 == 0 || bit mask d then min n (96 - s.pinned d) else 0
    (State.pinPlaces s mask (n - k) r).map (fun l => k :: l)

/-- MIGRATE (R368): its pages move one after the other; the first is asked of the tier engine now. Pages of PIN that would take a die
past 96 end it with NO_RESOURCE and nothing moved; else each has its place on a die promised to it (R127). -/
def migrateCmd (s : State) (c : Cmd) : State :=
  let pins := if c.tier = 0 then (c.pageList.filter (fun i => match s.leafOf c.context (c.pageVa i) c.big with
    | some l => lfPin l && !(lfTier l == 0 && lfChip l == s.chip) | none => false)).length else 0
  match s.pinPlaces (bits (c.p 0) 16 8) pins (List.range 8) with
  | none => s.failWith c.id stNoResource 0
  | some places =>
    if s.anyTransit c then s.failWith c.id stBusyRetry 0
    else (s.start c.id (4 :: 0 :: places)).want (migrateMove s c 0)

/-- MIGRATE (R368). -/
def execMigrate (k : Nat) (s : State) : Host.Outcome State Fault Refusal := .next (s.runCmd k 0x14 always checkMigrate migrateCmd)

/-! SET_HOME. -/

/-- The checks of SET_HOME: HOME is in a host's memory, or in the HBM of another member. -/
def checkSetHome (s : State) (c : Cmd) : Option (Nat × Nat) :=
  let chip := s.homeChip (c.p 3)
  firstBad [
    (s.ctxBad .owned c, stBadContext, 0),
    (!onlyBits (c.p 0) 0x701 || decide (2 ^ 57 ≤ c.p 1) || decide (2 ^ 24 ≤ c.p 2) || decide (2 ^ 56 ≤ c.p 3) || !c.restZero 4, stBadParam, 0x0F01),
    (c.rangeBad || decide (3 < c.tier) || c.p 3 % 2 ^ 44 % pageSize c.big != 0, stBadParam, 0x0F21),
    (decide (0xF00 ≤ chip) || !s.member chip || c.tier == 0 || (c.tier == 1 && chip == s.chip), stBadParam, 0x0F23),
    (s.pagesBad c, stBadParam, 0x0F24)]

/-- A forwarding record kept at an old home (R121), with TIER.FWD's counts. -/
def State.keepFwd (s : State) (f : Fwd) : State :=
  let n := s.fwds.length + 1
  ({ s with fwds := s.fwds ++ [f] }.wr TIER.FWD.IN_USE n).wr TIER.FWD.HIGH_WATER (max (s.rd TIER.FWD.HIGH_WATER) n)

/-- Whether a home named by a leaf is this module's, or its host's: its old home then keeps a forwarding record (R106, R119). -/
def State.ownHome (s : State) (leaf : Nat) : Bool := lfChip leaf == s.chip

/-- Whether a forwarding record is free for one more move of a GLOBAL page, those of moves not yet at step 5 counted (R123). -/
def State.fwdRoom (s : State) : Bool :=
  decide (s.fwds.length + (s.moves.filter (fun m => m.phase != 5 && lfGlobal m.leaf && s.ownHome m.leaf)).length < 16_384)

/-- One page given a new home with no copy (R368): steps 1, 4, 5 and 6 of Table 5-7. The broadcast of a page that had no home names chip
0xFFF and no byte as the old one (DESIGN CHOICE, log 48), so that every member acknowledges it and rewrites no leaf. -/
def setHomeOne (c : Cmd) (s : State) (i : Nat) : State :=
  let va := c.pageVa i
  match s.walk c.context va with
  | none => s
  | some (_, big, old) =>
    let frame := c.p 3 % 2 ^ 44 + i * pageSize c.big
    let chip := s.homeChip (c.p 3)
    let s := s.setLeaf c.context va (lfWithState (lfWithHome old c.tier chip frame) 0)
    let s := if lfGlobal old && !s.others.isEmpty then
        let had := lfState old != 2
        let id := s.nextMove + 1
        let m : Move := { id := id, ctx := c.context, va := va, big := big, leaf := old, tier := c.tier, chip := chip, frame := frame, phase := 5, cause := 1, owner := c.id, await := s.others }
        let s := { s with moves := s.moves ++ [m], nextMove := id }
        let s := if had && s.ownHome old then s.keepFwd ⟨id, lfFrame old, pageSize big, chip, frame, hostOfTier (lfTier old)⟩ else s
        (s.broadcast id (if had then lfChip old else 0xFFF) (hostOfTier (lfTier old)) (if had then lfFrame old else 0) c.tier chip frame
            (if had then pageSize big else 0)).wr TIER.INVAL.OUTSTANDING
          ((s.moves.filter (fun m => m.phase == 5)).length)
      else s.freeHome old
    s.pageServed c.context (va / pageSize big * pageSize big) big

/-- Whether the page of a SET_HOME waits for a forwarding record (R123). -/
def State.homeWaits (s : State) (c : Cmd) (i : Nat) : Bool :=
  match s.leafOf c.context (c.pageVa i) c.big with
  | some l => lfGlobal l && lfState l != 2 && s.ownHome l && !s.others.isEmpty && !s.fwdRoom
  | none => false

/-- SET_HOME's pages from the `i`-th on, as far as forwarding records are free: its progress keeps the next page. -/
def setHomeRun (c : Cmd) : Nat → Nat → State → State
  | 0, i, s => s.cmdMap c.id (fun x => { x with started := true, out0 := c.pages, aux := [5, i] })
  | n + 1, i, s =>
    if s.homeWaits c i then s.cmdMap c.id (fun x => { x with started := true, out0 := c.pages, aux := [5, i] })
    else setHomeRun c n (i + 1) (setHomeOne c s i)

/-- A SET_HOME taken on from its `i`-th page; it replies once every page has its new home and every broadcast is acknowledged. -/
def setHomeOn (s : State) (c : Cmd) (i : Nat) : State :=
  let s := setHomeRun c (c.pages - i) i s
  match s.cmdRunning c.id with
  | some x =>
    if x.aux.getD 1 0 < c.pages || s.moves.any (fun m => m.cause == 1 && m.owner == c.id) then s else s.doneWith c.id c.pages 0 0
  | none => s

/-- SET_HOME (R368): it waits while a page is in TRANSIT. -/
def setHomeCmd (s : State) (c : Cmd) : State := if s.anyTransit c then s else setHomeOn s c 0

/-- A SET_HOME that waited for a forwarding record (R123) goes on at its next page. -/
def setHomeMore (s : State) (c : Cmd) : State :=
  if c.opcode = 0x17 ∧ c.aux.getD 1 0 < c.pages ∧ s.anyTransit c = false then setHomeOn s c (c.aux.getD 1 0) else s

/-- SET_HOME (R368). -/
def execSetHome (k : Nat) (s : State) : Host.Outcome State Fault Refusal :=
  .next (match s.cmdRunning k with
    | some c => setHomeMore s c
    | none => s.runCmd k 0x17 always checkSetHome setHomeCmd)

/-! PIN_WINDOW (R127, R128). -/

/-- The dies of a DIE_MASK. -/
def dies (mask : Nat) : List Nat := (List.range 8).filter (bit mask ·)

/-- The window of a context on a die. -/
def State.windowOf (s : State) (c d : Nat) : Option Window := s.windows.find? (fun w => w.ctx == c && w.die == d)

/-- The windows a die holds. -/
def State.windowCount (s : State) (d : Nat) : Nat := (s.windows.filter (fun w => w.die == d)).length

/-- TIER.WINDOW of a die's slot brought up to its window. -/
def State.windowReg (s : State) (d w : Nat) : State :=
  match s.windows.find? (fun x => x.die == d && x.slotNo == w) with
  | some x => s.wrs [(TIER.WINDOW.PINNED d w, 1), (TIER.WINDOW.PAGES d w, x.pages), (TIER.WINDOW.CONTEXT d w, x.ctx)]
  | none => s.regs0 [TIER.WINDOW.PINNED d w, TIER.WINDOW.PAGES d w, TIER.WINDOW.CONTEXT d w, TIER.WINDOW.DEALING d w]

/-- Whether UNPIN is asked. -/
def Cmd.unpin (c : Cmd) : Bool := bit (c.p 0) 8
/-- PAGES of PIN_WINDOW. -/
def Cmd.pinPages (c : Cmd) : Nat := bits (c.p 0) 16 7

/-- The checks of PIN_WINDOW (Table 5-10). -/
def checkPinWindow (s : State) (c : Cmd) : Option (Nat × Nat) :=
  let ds := dies (c.p 0)
  firstBad [
    (s.ctxBad .owned c, stBadContext, 0),
    (!onlyBits (c.p 0) 0x7F01FF || (!c.unpin && decide (2 ^ 57 ≤ c.p 1)) || !c.restZero 2, stBadParam, 0x0514),
    (bits (c.p 0) 0 8 == 0 || (if c.unpin then c.pinPages != 0 else decide (c.pinPages < 2) || decide (96 < c.pinPages) || c.pinPages % 2 == 1), stBadParam, 0x0511),
    (!c.unpin && (c.p 1 % 0x20_0000 != 0 || ds.any (fun d => decide (2 ^ 57 < c.p 1 + (d + 1) * c.pinPages * 0x20_0000) ||
      !s.unmapped c.context (c.p 1 + d * c.pinPages * 0x20_0000) (c.pinPages * 0x20_0000))), stBadParam, 0x0512),
    (ds.any (fun d => (s.windowOf c.context d).isSome != c.unpin), stBadParam, 0x0513),
    (!c.unpin && ds.any (fun d => decide (4 ≤ s.windowCount d) || decide (96 < s.pinned d + c.pinPages)), stNoResource, 0),
    (c.unpin && ds.any (fun d => match s.windowOf c.context d with | some w => s.is (TIER.WINDOW.DEALING d w.slotNo) | none => false), stBusyRetry, 0)]

/-- The 64 KiB pages of contexts that tiles started on a die still need, or the tile it holds back (R118, R127): context and page
numbers. -/
def State.neededOn (s : State) (d : Nat) : List (Nat × List Nat) :=
  (s.tiles.filter (fun t => t.die == d)).filterMap (fun t => (s.launch t.launch).map (fun l => (l.ctx, t.pages))) ++
    s.launches.flatMap (fun l => ((l.parts.filter (fun p => p.die == d && !p.need.isEmpty)).map (fun p => (l.ctx, p.need))))

/-- Whether a page holds a 64 KiB page of such a list. -/
def pageNeeded (need : List (Nat × List Nat)) (c va : Nat) (big : Bool) : Bool :=
  need.any (fun n => n.1 == c && n.2.any (fun p => decide (va / 0x1_0000 ≤ p) && decide (p < (va + pageSize big) / 0x1_0000)))

/-- The unpinned SRAM pages homed on a die that could be moved to make room (R127): context, address, size, entry. -/
def State.movable (s : State) (d : Nat) : List (Nat × Nat × Bool × Nat) :=
  let need := s.neededOn d
  s.liveCtxs.flatMap (fun c => ((s.leaves c).filter (fun l => !lfPin l.2.2 && lfState l.2.2 == 0 && lfTier l.2.2 == 0 &&
    lfChip l.2.2 == s.chip && dieOf (lfFrame l.2.2) == d && !pageNeeded need c l.1 l.2.1 &&
    !s.wants.any (fun w => w.ctx == c && w.va == l.1))).map (fun l => (c, l.1, l.2.1, l.2.2)))

/-- Whether a page is on its way out of a die's SRAM to make room, or is asked for. -/
def State.roomComing (s : State) (d : Nat) : Bool :=
  (s.wants ++ s.moves).any (fun m => m.cause == 3 && m.owner == d)

/-- Room asked for on a die (R118, R127): one unpinned page, a free choice among them, is to move to local HBM by the steps of Table 5-7;
none where no page can. -/
def State.makeRoom (s : State) (d : Nat) : Option State :=
  if s.roomComing d then some s
  else
    let l := s.movable d
    match l[s.chooseBelow l.length]? with
    | none => none
    | some (c, va, big, _) =>
      some (s.took.want { id := 0, ctx := c, va := va, big := big, leaf := 0, tier := 1, chip := s.chip, frame := 0, phase := 0, cause := 3, owner := d })

/-- A window's pages on a die mapped, pinned and not writable, each in its own frame. -/
def pinPages (c : Cmd) (d : Nat) : Nat → Nat → State → Option State
  | 0, _, s => some s
  | n + 1, i, s =>
    match s.allocRun (sramRegions (2 ^ d)) 0x20_0000 0x20_0000 2 c.context with
    | none => none
    | some (f, s) =>
      match s.mapPage c.context (c.p 1 + (d * c.pinPages + i) * 0x20_0000) true (mkLeaf false false true false false 0 0 f s.chip) with
      | none => none
      | some s => pinPages c d n (i + 1) s

/-- The windows of the named dies, one die after the other. -/
def pinDies (c : Cmd) : List Nat → State → Option State
  | [], s => some s
  | d :: r, s =>
    match pinPages c d c.pinPages 0 s with
    | none => none
    | some s =>
      match (List.range 4).find? (fun w => !s.windows.any (fun x => x.die == d && x.slotNo == w)) with
      | none => none
      | some w =>
        let va := c.p 1 + d * c.pinPages * 0x20_0000
        let x : Window := { die := d, slotNo := w, ctx := c.context, va := va, pages := c.pinPages }
        let g : VaRange := ⟨c.context, va, c.pinPages * 0x20_0000, 2, d⟩
        let s := { s with windows := s.windows ++ [x], ranges := s.ranges ++ [g] }
        pinDies c r (s.windowReg d w)

/-- Whether a die has SRAM frames for a window of `n` pages. -/
def State.windowFits (s : State) (d c : Nat) : Nat → Bool
  | 0 => true
  | n + 1 => match s.allocRun (sramRegions (2 ^ d)) 0x20_0000 0x20_0000 2 c with
    | none => false
    | some (_, t) => State.windowFits t d c n

/-- PIN_WINDOW (R127): every die of the mask at once, when each has the frames; until then room is made on the dies that lack them. Where
no page of such a die can move, it waits while a tile needs what is left, and ends NO_RESOURCE when nothing will free a frame. -/
def pinCmd (s : State) (c : Cmd) : State :=
  match (dies (c.p 0)).find? (fun d => !s.windowFits d c.context c.pinPages) with
  | some d => match s.makeRoom d with
    | some t => t
    | none => if (s.neededOn d).isEmpty then s.failWith c.id stNoResource 0 else s
  | none => match pinDies c (dies (c.p 0)) s with
    | none => s.failWith c.id stNoResource 0
    | some s => s.doneWith c.id ((dies (c.p 0)).length * c.pinPages * 0x20_0000) (c.p 1) 0

/-- PIN_WINDOW (R127). -/
def execPinWindow (k : Nat) (s : State) : Host.Outcome State Fault Refusal :=
  .next (s.runCmd k 0x15 (fun c => !c.unpin) checkPinWindow pinCmd)

/-- A window unmapped and freed, with no move (R127). -/
def State.unpinOne (s : State) (w : Window) : State :=
  let s := (List.range w.pages).foldl (fun t i => unmapOne w.ctx t (w.va + i * 0x20_0000)) s
  let s := { s with windows := s.windows.filter (fun x => !(x.die == w.die && x.slotNo == w.slotNo)), ranges := s.ranges.filter (fun r => !(r.ctx == w.ctx && r.base == w.va && r.kind == 2)) }
  s.windowReg w.die w.slotNo

/-- UNPIN (R127): OUT0 holds the bytes freed. -/
def unpinCmd (s : State) (c : Cmd) : State :=
  let ws := s.windows.filter (fun w => w.ctx == c.context && bit (c.p 0) w.die)
  (ws.foldl State.unpinOne s).doneWith c.id (ws.foldl (fun n w => n + w.pages * 0x20_0000) 0) 0 0

/-- UNPIN (R127). -/
def execUnpin (k : Nat) (s : State) : Host.Outcome State Fault Refusal :=
  .next (s.runCmd k 0x15 Cmd.unpin checkPinWindow unpinCmd)

end Sys2Proof.Machine
end

