-- ==== Sys2Proof/Machine/HandOps.lean ====
section
/-! DEFINITION. The caches of hands (R187–R199): where each page of a span lies and its home, the pool, the slots of the eviction
and kitty areas in host memory, and what frees them. -/

namespace Sys2Proof.Machine

open Sys2Proof

/-- Hand `n` beside its registers. -/
def State.hand (s : State) (n : Nat) : Hand := (aFind s.hands n).getD {}
/-- Hand `n` replaced. -/
def State.setHand (s : State) (n : Nat) (x : Hand) : State := { s with hands := aPut s.hands n x }
/-- STATE of a hand (Table 9-1): 0 FREE, 1 OPEN, 2 STEPPING, 3 EVICTING, 4 EVICTED, 5 RETURNING, 6 PARKING, 7 UNPARKING, 8 LOST. -/
def State.handState (s : State) (n : Nat) : Nat := s.rd (SERVE.HAND_STATE.STATE n)
/-- The context of a hand. -/
def State.handCtx (s : State) (n : Nat) : Nat := s.rd (SERVE.HAND_STATE.CONTEXT n)
/-- Kitty entry `e`. -/
def State.kittyAt (s : State) (e : Nat) : Kitty := (aFind s.kitty e).getD {}
/-- Hands, in ascending order. -/
def handNos : List Nat := List.range 64

/-! Spans (R189, R190). -/

/-- Position pages of a span of `l` layers. -/
def posPages (l : Nat) : Nat := ceilDiv l 10
/-- MMU pages of a span. -/
def spanPages (l : Nat) : Nat := l + posPages l
/-- Bytes of a span. -/
def spanBytes (l : Nat) : Nat := spanPages l * 0x20_0000
/-- Address of page `j` of span `i` of a cache. -/
def spanVa (base l i j : Nat) : Nat := base + (i * spanPages l + j) * 0x20_0000
/-- The die that homes page `j` of span `i` of hand or entry `h` (R190, R239). -/
def spanDie (l i j h : Nat) : Nat := ((if j < l then j else j - l) + i + h) % 8
/-- Bytes of a position page that are used (R194): 196,608 a layer it holds. -/
def posUsed (l j : Nat) : Nat := 196_608 * min 10 (l - 10 * (j - l))
/-- Host-memory bytes of page `j` in a format (Table 8-3). -/
def pageBytes (l j fmt : Nat) : Nat := if j < l then (if fmt = 0 then 1_081_344 else 557_056) else posUsed l j

/-- A page of a cache: address, index within its span, layers, and the die that homes it. -/
structure CachePage where
  va : Nat
  j : Nat
  layers : Nat
  die : Nat
deriving DecidableEq, Repr

/-- The pages of span `i` of a cache. -/
def spanCache (base l i h : Nat) : List CachePage :=
  (List.range (spanPages l)).map (fun j => ⟨spanVa base l i j, j, l, spanDie l i j h⟩)

/-- The pages a hand holds, in the order they move (R199, R230): by span, latent before position, the lead's with the hand's. -/
def Hand.pages (x : Hand) (n : Nat) : List CachePage :=
  ((List.range 256).filter (fun i => x.spans.contains i || x.leadSpans.contains i)).flatMap (fun i =>
    (if x.spans.contains i then spanCache x.cacheVa x.layers i n else []) ++
      (if x.leadSpans.contains i then spanCache x.leadVa x.leadLayers i n else []))

/-! Rings (R200). -/

/-- FORM, MEMBERS, INDEX, SEG_SPANS, CHIPk and HANDk of a ring descriptor (Table 8-5). -/
def ringForm (w : List Nat) : Nat := bits (w.getD 0 0) 0 2
/-- MEMBERS. -/
def ringMembers (w : List Nat) : Nat := bits (w.getD 0 0) 2 3
/-- INDEX. -/
def ringIndex (w : List Nat) : Nat := bits (w.getD 0 0) 5 3
/-- SEG_SPANS. -/
def ringSeg (w : List Nat) : Nat := bits (w.getD 0 0) 8 8
/-- CHIPk. -/
def ringChip (w : List Nat) (k : Nat) : Nat := if k < 4 then bits (w.getD 1 0) (12 * k) 12 else bits (w.getD 2 0) (12 * (k - 4)) 12
/-- HANDk. -/
def ringHandNo (w : List Nat) (k : Nat) : Nat := bits (w.getD 3 0) (6 * k) 6

/-- Positions before a ring hand's own segment, and the end of the whole ring; 0 and none for a hand of no ring (R200). -/
def Hand.segStart (x : Hand) : Nat := if x.ring.isEmpty then 0 else ringIndex x.ring * ringSeg x.ring * 2048
/-- The end of the last member's segment. -/
def Hand.ringEnd (x : Hand) : Option Nat := if x.ring.isEmpty then none else some (ringMembers x.ring * ringSeg x.ring * 2048)

/-- Where a position lies in the hand's own spans. -/
def Hand.place (x : Hand) (p : Nat) : Option Nat :=
  if x.ring.isEmpty then some p
  else if x.segStart ≤ p ∧ p < x.segStart + ringSeg x.ring * 2048 then some (p - x.segStart) else none

/-- Bytes of a block of a ring pass: one span's latent page of a layer and its position keys (R203). -/
def blockBytes : Nat := 2_293_760

/-- Where a place of a hand's ring traffic begins in a member's HBM: 0–3 the blocks of its ring buffer, 8 + k the queries and 16 + k the
partials of member k. DESIGN CHOICE (log 51): R203 and R204 name no addresses, so they are free values. -/
def ringOff (chip hand place : Nat) : Nat := Config.ringPlace chip hand place % ((hbmEnd - blockBytes) / 256) * 256

/-- Bytes of a place. -/
def ringBytes (place : Nat) : Nat := if place < 4 then blockBytes else 64 * Config.ringRoom place

/-- The places of ring traffic. -/
def ringPlaces : List Nat := List.range 4 ++ (List.range 6).map (8 + ·) ++ (List.range 6).map (16 + ·)

/-- The place of a ring hand's traffic that holds a local offset, as hand × 32 + place. -/
def State.ringAt (s : State) (off : Nat) : Option Nat :=
  handNos.findSome? (fun n =>
    if (s.hand n).ring.isEmpty then none
    else (ringPlaces.find? (fun p => decide (ringOff s.chip n p ≤ off) && decide (off < ringOff s.chip n p + ringBytes p))).map (32 * n + ·))

/-- Bytes that have landed in a place. -/
def State.ringGot (s : State) (n place : Nat) : Nat := (aFind s.ringLanded (32 * n + place)).getD 0

/-- A place emptied: what landed there has been used. -/
def State.ringTaken (s : State) (n place : Nat) : State := { s with ringLanded := aErase s.ringLanded (32 * n + place) }

/-- Bytes stored at a local offset noted where they are ring traffic. -/
def State.ringNote (s : State) (off bytes : Nat) : State :=
  match s.ringAt off with
  | some k => { s with ringLanded := aPut s.ringLanded k ((aFind s.ringLanded k).getD 0 + bytes) }
  | none => s

/-- Whether a store to a local offset must wait: it is for a block of a ring buffer that is full and not yet used (R203). -/
def State.ringFullAt (s : State) (off : Nat) : Bool :=
  match s.ringAt off with
  | some k => decide (k % 32 < 4) && decide (blockBytes ≤ (aFind s.ringLanded k).getD 0)
  | none => false

/-! The pool (R196). -/

/-- Pool pages in use: every page of a cache or entry in HBM, and the index. -/
def State.poolUsed (s : State) : Nat :=
  ((s.allocs.filter (fun a => a.kind == 3 || a.kind == 4 || a.kind == 5)).map (fun a => a.size / 0x20_0000)).sum

/-- CACHE_POOL and CACHE_CTL as they stand: PAGES, RESERVE, EVICT_FORMAT, LATENT_MODE, MERGE_MAX. -/
def State.cacheRegs (s : State) : List Nat :=
  [s.rd SERVE.CACHE_POOL.PAGES, s.rd SERVE.CACHE_POOL.RESERVE, s.rd SERVE.CACHE_CTL.EVICT_FORMAT, s.rd SERVE.CACHE_CTL.LATENT_MODE, s.rd SERVE.CACHE_CTL.MERGE_MAX]

/-- The same as they are in force: while a step runs, as the last assembly found them (Table 8-7). -/
def State.cacheNow (s : State) : List Nat := if s.steps.isEmpty then s.cacheRegs else s.cacheSet

/-- RESERVE in force. -/
def State.reserve (s : State) : Nat := s.cacheNow.getD 1 0

/-- What a class must leave free of the pool (R196): RESERVE for plain hands. -/
def State.keepFor (s : State) (cls : Nat) : Nat := if cls = 1 then s.reserve else 0

/-- Pool pages free. -/
def State.poolFree (s : State) : Nat := s.cacheNow.getD 0 0 - s.poolUsed

/-- Pool pages free and not promised to the pages of a return or UNPARK that have still to come back (R196). -/
def State.poolRoom (s : State) : Nat := s.poolFree - (s.wants.filter (fun m => m.cause == 5 || m.cause == 7)).length

/-- Hands in a state. -/
def State.handsIn (s : State) (st : Nat) : List Nat := handNos.filter (fun n => s.handState n == st)

/-- SERVE.CACHE_USE brought up. -/
def State.poolRegs (s : State) : State :=
  s.wrs [(SERVE.CACHE_USE.FREE, s.poolFree), (SERVE.CACHE_USE.IN_USE, s.poolUsed), (SERVE.CACHE_USE.EVICTED, (s.handsIn 4).length),
    (SERVE.CACHE_USE.MOVING, (s.handsIn 3).length + (s.handsIn 5).length)]

/-- Whether a class may allocate pages now: plain hands leave RESERVE free (R196). -/
def State.poolHas (s : State) (cls n : Nat) : Bool :=
  decide (n + s.keepFor cls ≤ s.poolRoom)

/-! Slots in host memory (R194, R206). -/

/-- Slots in use of a host's area: `kitty` true for the kitty area, by hands and parked copies alike. -/
def State.slotsUsed (s : State) (h : Nat) (kitty : Bool) : List Nat :=
  let of (x : Hand) : List Nat := if x.host = h ∧ x.inKitty = kitty then x.slots.map Prod.snd else []
  s.hands.flatMap (fun p => of p.2) ++ s.kitty.flatMap (fun p => of p.2.hand)

/-- Slots of a host's area. -/
def State.areaSlots (s : State) (h : Nat) (kitty : Bool) : Nat :=
  if kitty then s.rd (SERVE.KITTY_SLOTS.SLOTS h) else s.rd (SERVE.EVICT_SLOTS.SLOTS h)

/-- Bus address of a slot. -/
def State.slotAddr (s : State) (h : Nat) (kitty : Bool) (i : Nat) : Nat :=
  ((if kitty then s.rd (SERVE.KITTY_BASE.BASE h) else s.rd (SERVE.EVICT_BASE.BASE h)) + i) * 0x20_0000 % 2 ^ 64

/-- Free slots of an area; which of them a page takes the spec leaves open. -/
def State.slotsFree (s : State) (h : Nat) (kitty : Bool) : List Nat :=
  let used := s.slotsUsed h kitty
  let l := (List.range (s.areaSlots h kitty)).filter (fun i => !used.contains i)
  l.rotateLeft (Config.freePlace s.freeCtr)

/-- USED of the four areas brought up. -/
def State.slotRegsUsed (s : State) : State :=
  s.wrs [(SERVE.EVICT_SLOTS.USED 0, (s.slotsUsed 0 false).length), (SERVE.EVICT_SLOTS.USED 1, (s.slotsUsed 1 false).length),
    (SERVE.KITTY_SLOTS.USED 0, (s.slotsUsed 0 true).length), (SERVE.KITTY_SLOTS.USED 1, (s.slotsUsed 1 true).length)]

/-- SERVE.KITTY_USE brought up (Table 9-4 states: 0 EMPTY, 1 FILLING, 2 HELD, 3 TAKING, 4 LOST). -/
def State.kittyRegs (s : State) : State :=
  let n (p : Nat → Bool) := (s.kitty.filter (fun e => p e.2.state)).length
  (s.wrs [(SERVE.KITTY_USE.HELD, n (· == 2)), (SERVE.KITTY_USE.MOVING, n (fun x => x == 1 || x == 3)), (SERVE.KITTY_USE.LOST, n (· == 4))]).slotRegsUsed

/-- A kitty entry replaced. -/
def State.setKitty (s : State) (e : Nat) (x : Kitty) : State := { s with kitty := aPut s.kitty e x }.kittyRegs

/-! Prefix entries and variants held (R239, R248). -/

/-- The hand words a parked copy keeps: 1 ATTACHED and ENTRY, the VARIANT (SPEC_STATE). -/
def specAttached (w : Nat) : Option Nat := if bit w 19 then some (bits w 20 10) else none
/-- VARIANT of a SPEC_STATE word. -/
def specVariant (w : Nat) : Nat := bits w 30 7

/-- The SPEC_STATE word of a hand (Table 10-10). -/
def State.specWord (s : State) (n : Nat) : Nat :=
  s.rd (SERVE.SPEC_STATE.ENABLED n) + s.rd (SERVE.SPEC_STATE.DEPTH n) * 2 + s.rd (SERVE.SPEC_STATE.ZERO_RUN n) * 2 ^ 5 +
    s.rd (SERVE.SPEC_STATE.FULL_RUN n) * 2 ^ 7 + s.rd (SERVE.SPEC_STATE.SUSPEND n) * 2 ^ 9 + s.rd (SERVE.SPEC_STATE.LEAD_SLOT n) * 2 ^ 16 +
    s.rd (SERVE.SPEC_STATE.ATTACHED n) * 2 ^ 19 + s.rd (SERVE.SPEC_STATE.ENTRY n) * 2 ^ 20 + s.rd (SERVE.SPEC_STATE.VARIANT n) * 2 ^ 30

/-- A SPEC_STATE word put into a hand's register. -/
def State.setSpecWord (s : State) (n w : Nat) : State :=
  s.wrs [(SERVE.SPEC_STATE.ENABLED n, bits w 0 1), (SERVE.SPEC_STATE.DEPTH n, bits w 1 4), (SERVE.SPEC_STATE.ZERO_RUN n, bits w 5 2),
    (SERVE.SPEC_STATE.FULL_RUN n, bits w 7 2), (SERVE.SPEC_STATE.SUSPEND n, bits w 9 7), (SERVE.SPEC_STATE.LEAD_SLOT n, bits w 16 3),
    (SERVE.SPEC_STATE.ATTACHED n, bits w 19 1), (SERVE.SPEC_STATE.ENTRY n, bits w 20 10), (SERVE.SPEC_STATE.VARIANT n, bits w 30 7)]

/-- The HAND_STATE word of a hand (Table 9-10). -/
def State.handWord (s : State) (n : Nat) : Nat :=
  s.handState n + s.rd (SERVE.HAND_STATE.CLASS n) * 2 ^ 4 + s.rd (SERVE.HAND_STATE.RING n) * 2 ^ 5 + s.handCtx n * 2 ^ 6 +
    s.rd (SERVE.HAND_STATE.CLIENT_TAG n) * 2 ^ 16 + s.rd (SERVE.HAND_STATE.SPANS n) * 2 ^ 28 + s.rd (SERVE.HAND_STATE.COMMITTED n) * 2 ^ 36 +
    s.rd (SERVE.HAND_STATE.PENDING n) * 2 ^ 56

/-- A HAND_STATE word put into a hand's register. -/
def State.setHandWord (s : State) (n w : Nat) : State :=
  s.wrs [(SERVE.HAND_STATE.STATE n, bits w 0 4), (SERVE.HAND_STATE.CLASS n, bits w 4 1), (SERVE.HAND_STATE.RING n, bits w 5 1),
    (SERVE.HAND_STATE.CONTEXT n, bits w 6 10), (SERVE.HAND_STATE.CLIENT_TAG n, bits w 16 12), (SERVE.HAND_STATE.SPANS n, bits w 28 8),
    (SERVE.HAND_STATE.COMMITTED n, bits w 36 20), (SERVE.HAND_STATE.PENDING n, bits w 56 1)]

/-- The SPEC_STATE words that count for entries and variants: of hands neither FREE nor LOST, and of copies in FILLING, HELD or
TAKING (R239); a hand whose copy is FILLING or TAKING is counted once, by the hand while it is not LOST. -/
def State.boundWords (s : State) : List (Nat × Nat) :=
  (handNos.filter (fun n => s.handState n != 0 && s.handState n != 8)).map (fun n => (s.handCtx n, s.specWord n)) ++
    (s.kitty.filter (fun p => p.2.state == 2 || (p.2.state == 1 && s.handState p.2.fill == 8))).map (fun p => (p.2.ctx, p.2.spec))

/-- A prefix entry's count (R239). -/
def State.entryRefs (s : State) (e : Nat) : Nat := (s.boundWords.filter (fun w => specAttached w.2 == some e)).length

/-- SERVE.PREFIX_USE and VARIANT_USE brought up. -/
def State.useRegs (s : State) : State :=
  let live := s.entries.filter (fun e => e.2.live)
  let pages (e : Entry) : Nat := e.spans * spanPages e.layers + e.leadSpans * spanPages e.leadLayers
  s.wrs [(SERVE.PREFIX_USE.ENTRIES, live.length), (SERVE.PREFIX_USE.PAGES, (live.map (fun e => pages e.2)).sum),
    (SERVE.PREFIX_USE.REFERENCED, (live.filter (fun e => s.entryRefs e.1 != 0)).length), (SERVE.VARIANT_USE.REGISTERED, s.variants.length),
    (SERVE.VARIANT_USE.BOUND, (handNos.filter (fun n => s.handState n != 0 && s.rd (SERVE.SPEC_STATE.VARIANT n) != 0)).length)]

/-- Every register that shows hands brought up. -/
def State.serveRegs (s : State) : State := (s.poolRegs.kittyRegs).useRegs

/-- A hand's STATE changed. -/
def State.toHandState (s : State) (n st : Nat) : State := (s.wr (SERVE.HAND_STATE.STATE n) st).serveRegs

/-! Commands that name a hand (R211). -/

/-- The hand a command names, if it names one: HAND_OPEN and UNPARK without ANY, PARK without RENEW, PREFIX_INSERT without REMOVE,
VARIANT_BIND with OP 0. -/
def Cmd.handNo (c : Cmd) : Option Nat :=
  let h := bits (c.p 0) 0 6
  let flag := bit (c.p 0) 6
  match c.opcode with
  | 0x40 => if flag then none else some h
  | 0x41 => some h
  | 0x42 => some h
  | 0x43 => some h
  | 0x44 => if flag then none else some h
  | 0x45 => if flag then none else some h
  | 0x46 => some h
  | 0x47 => if flag then none else some h
  | 0x48 => some h
  | 0x49 => if bits (c.p 0) 0 2 = 0 then some (bits (c.p 0) 2 6) else none
  | _ => none

/-- Whether a hand's command has its turn: no command of the hand accepted before it is still to complete (R211). -/
def State.turn (s : State) (c : Cmd) : Bool :=
  s.cmds.all (fun d => !(decide (d.id < c.id) && d.status.isNone && c.handNo.isSome && d.handNo == c.handNo))

/-- A hand's command taken in its turn: the checks that the hand's state settles are made then. -/
def State.runHand (s : State) (k op : Nat) (sel : Cmd → Bool) (check late : State → Cmd → Option (Nat × Nat)) (eff : State → Cmd → State) : State :=
  s.runCmd k op sel check (fun s c =>
    if s.turn c then match late s c with | some (st, d) => s.failWith c.id st d | none => eff s c
    else s)

/-- What a command that needs a live hand of its context meets first: 0x0905, or the end that a lost hand gives (Table 8-7,
Table 9-7). -/
def State.handBad (s : State) (c : Cmd) (n : Nat) : List (Bool × Nat × Nat) := [
  (s.handState n == 0 || s.handCtx n != c.context, stBadParam, 0x0905),
  (s.handState n == 8 && (s.hand n).aborted, stJobAborted, 0),
  (s.handState n == 8, stFaulted, 0x0505)]

/-! Freeing (Table 9-1). -/

/-- Whether a move serves a hand (causes 4 to 7, whose owner is the hand). -/
def Move.forHand (m : Move) (n : Nat) : Bool := decide (4 ≤ m.cause) && decide (m.cause ≤ 7) && m.owner == n

/-- Whether a hand has moves asked for or under way. -/
def State.handMoves (s : State) (n : Nat) : Bool := s.wants.any (·.forHand n) || s.moves.any (·.forHand n)

/-- A page of a cache unmapped and its frame freed, but for one in TRANSIT. -/
def State.cachePageFree (s : State) (c va : Nat) : State :=
  match s.walk c va with
  | some (_, _, leaf) => if lfState leaf = 1 then s else unmapOne c s va
  | none => s

/-- The pages of a cache freed, with the ranges of its spans; those in TRANSIT go when their moves end. -/
def State.cacheFree (s : State) (c n : Nat) (x : Hand) : State :=
  let ps := x.pages n
  let s := ps.foldl (fun (t : State) p => t.cachePageFree c p.va) s
  { s with ranges := s.ranges.filter (fun r => !((r.kind == 3 || r.kind == 4) && r.ctx == c && ps.any (fun p => p.va == r.base))) }

/-- A hand FREE, with nothing kept (Table 9-1); its ring buffer is empty. -/
def State.handFree (s : State) (n : Nat) : State :=
  (({ s with hands := aErase s.hands n, ringLanded := s.ringLanded.filter (fun p => p.1 / 32 != n) }.setHandWord n 0).setSpecWord n 0).serveRegs

/-! Kitty entries. -/

/-- A kitty entry EMPTY: its generation rises (R222). -/
def State.kittyEmpty (s : State) (e : Nat) : State :=
  (s.setKitty e { state := 0, gen := ((s.kittyAt e).gen + 1) % 2 ^ 32 }).serveRegs

/-- A parked copy freed: its pages unmapped and its slots given back. -/
def State.kittyFree (s : State) (e : Nat) : State :=
  let k := s.kittyAt e
  (s.cacheFree k.ctx 0 k.hand).kittyEmpty e

/-- A parked copy LOST: its surviving slots freed (Table 9-4). DESIGN CHOICE (log 51): a copy lost while FILLING, whose time to live has
not begun, has it begin then. -/
def State.kittyLost (s : State) (e : Nat) : State :=
  let k := s.kittyAt e
  let s := s.cacheFree k.ctx 0 k.hand
  ((s.bump SERVE.PARK_EVENTS.LOST 1).setKitty e { k with state := 4, ends := (if k.state = 1 then s.now + k.ttl * 1_000_000_000 else k.ends), hand := { k.hand with slots := [], spans := [], leadSpans := [] } }).serveRegs

/-- Whether a cache holds a host slot for a page. -/
def Hand.inSlot (x : Hand) (va : Nat) : Bool := x.slots.any (fun p => p.1 == va)

/-- Whether a hand lost by a job abort goes on with the moves of its PARK (Table 9-7). -/
def State.parksOn (s : State) (n : Nat) : Bool :=
  let x := s.hand n
  s.handState n == 8 && x.aborted && x.cmd.isSome && (s.kittyAt x.entry).state == 1 && (s.kittyAt x.entry).fill == n

/-- What the PARK or UNPARK that moves a hand replies when the hand is lost. -/
def State.lostReply (s : State) (x : Hand) (aborted : Bool) : State :=
  match x.cmd with
  | some k => s.finish k (if aborted then stJobAborted else stFaulted) (if aborted then 0 else 0x0505) 0 0 0
  | none => s

/-- A hand's slots and pages given up, with the moves asked for: all of them, or with `back` set those that have not come back to HBM
(Table 9-7, the host of a copy lost during UNPARK). -/
def State.lostCache (s : State) (n : Nat) (x : Hand) (back : Bool) : State :=
  let s := if back then x.slots.foldl (fun (t : State) p => t.cachePageFree (s.handCtx n) p.1) s else s.cacheFree (s.handCtx n) n x
  { s with wants := s.wants.filter (fun m => !m.forHand n) }

/-- A hand LOST (Table 9-1): its cache freed as far as no move is in flight, its slots freed, the loss counted. A PARKING hand at a job
abort keeps what its PARK moves (Table 9-7); a loss of the copy it fills ends that too. -/
def State.handLost (s : State) (n : Nat) (aborted : Bool) : State :=
  let x := s.hand n
  let was := s.handState n
  if was = 0 then s
  else if was = 8 then
    if s.parksOn n && !aborted then
      let s := s.lostCache n x false
      ((s.setHand n { x with slots := [], spans := [], leadSpans := [], cmd := none }).lostReply x false).kittyLost x.entry
    else s
  else if was = 6 ∧ aborted then
    ((s.setHand n { x with aborted := true, evict := false }).wr (SERVE.HAND_STATE.PENDING n) 0).toHandState n 8
  else
    let back := was == 7 && !aborted
    let s := s.lostCache n x back
    let s := s.setHand n { x with slots := [], aborted := aborted, evict := false, cmd := none, spans := (if back then x.spans else []), leadSpans := (if back then x.leadSpans else []) }
    let s := s.wrs [(SERVE.HAND_STATE.PENDING n, 0), (SERVE.HAND_STATE.SPANS n, (s.hand n).spans.length)]
    let s := (if aborted then s else s.bump SERVE.CACHE_EVENTS.LOST 1).toHandState n 8
    let s := s.lostReply x aborted
    if was = 7 then s.kittyEmpty x.entry else if was = 6 then s.kittyLost x.entry else s

/-- A cache's host slot for a page given up. -/
def Hand.slotOff (x : Hand) (va : Nat) : Hand := { x with slots := x.slots.filter (fun p => p.1 != va) }

/-- The caches of a context that hold a host slot for a page, hands' and parked copies', with the number that places their pages. -/
def State.slotOwners (s : State) (c va : Nat) : List (Nat × Hand) :=
  (handNos.filter (fun n => s.handState n != 0 && s.handCtx n == c && (s.hand n).inSlot va)).map (fun n => (n, s.hand n)) ++
    (s.kitty.filter (fun k => (k.2.state == 1 || k.2.state == 2) && k.2.ctx == c && k.2.hand.inSlot va)).map (fun k => (0, k.2.hand))

/-- How a cache page homed in host memory comes back (R190, R195): its die, the conversion, and the bytes used; none for another
page. -/
def State.cacheReturn (s : State) (c va : Nat) : Option (Nat × Nat × Nat) :=
  (s.slotOwners c va).findSome? (fun o => ((o.2.pages o.1).find? (fun p => p.va == va)).map (fun p =>
    (p.die, if p.j < p.layers then o.2.fmt + 3 else 0, if p.j < p.layers then 0 else posUsed p.layers p.j)))

/-- The slots of a page given up by the caches of its context (R133, R195). -/
def State.slotsOff (s : State) (c va : Nat) : State :=
  let s := (handNos.filter (fun n => s.handState n != 0 && s.handCtx n == c && (s.hand n).inSlot va)).foldl
    (fun (t : State) n => t.setHand n ((t.hand n).slotOff va)) s
  { s with kitty := s.kitty.map (fun (k : Nat × Kitty) => if k.2.ctx = c ∧ k.2.hand.inSlot va then (k.1, { k.2 with hand := k.2.hand.slotOff va }) else k) }.serveRegs

/-- A move of a hand's page has ended: a page back in HBM gives up its host slot; the page of a LOST hand is freed. -/
def State.handMoveEnded (s : State) (m : Move) : State :=
  if m.cause = 2 then (if (s.cacheReturn m.ctx m.va).isSome then s.slotsOff m.ctx m.va else s)
  else if m.cause < 4 ∨ 7 < m.cause then s
  else if (s.handState m.owner = 8 ∨ s.handState m.owner = 0) ∧ s.parksOn m.owner = false then (s.cachePageFree m.ctx m.va).serveRegs
  else if m.cause = 5 ∨ m.cause = 7 then
    (s.setHand m.owner ((s.hand m.owner).slotOff m.va)).serveRegs
  else s.serveRegs

/-! Prefix entries and the index (R239, R241, R242). -/

/-- Prefix entry `e`. -/
def State.entryAt (s : State) (e : Nat) : Entry := (aFind s.entries e).getD {}

/-- An entry's pages as a hand's cache has them: the lead's spans follow the hand's (R239). -/
def Entry.cache (x : Entry) : Hand := {
  cacheVa := x.va, layers := x.layers, spans := List.range x.spans, leadVa := x.va + x.spans * spanBytes x.layers,
  leadLayers := x.leadLayers, leadSpans := List.range x.leadSpans }

/-- An entry freed: its pages unmapped, its generation raised, so that its holder words are stale (R241). -/
def State.entryFree (s : State) (e : Nat) : State :=
  let x := s.entryAt e
  let s := (x.cache.pages e).foldl (fun (t : State) p => t.cachePageFree x.ctx p.va) s
  { s with
    ranges := s.ranges.filter (fun r => !(r.kind == 5 && r.ctx == x.ctx && r.owner == e)),
    entries := aPut s.entries e { gen := (x.gen + 1) % 2 ^ 32 } }.serveRegs

/-- The local offset at which an index of `n` pages begins (R237). -/
def indexBase (n : Nat) : Nat := hbmEnd - n * 0x20_0000

/-- The index emptied and its size and form taken (R242): entries with count 0 freed, the rest left unindexed. -/
def State.indexReset (s : State) : State :=
  let s := ((s.entries.filter (fun e => e.2.live && s.entryRefs e.1 == 0)).map Prod.fst).foldl State.entryFree s
  let n := s.rd SERVE.PREFIX_CTL.INDEX_PAGES
  let kept := s.allocs.filter (fun a => !(a.kind == 5 && a.ctx == 0xFFFF))
  let mine : List Alloc := if n = 0 then [] else [⟨indexBase n, n * 0x20_0000, 5, 0xFFFF⟩]
  let s := { s with allocs := mine ++ kept, treeNodes := [] }.clear (devKey (indexBase n)) (n * 0x20_0000)
  (s.wrs [(SERVE.PREFIX_CTL.INDEX_NOW, n), (SERVE.PREFIX_CTL.FORM, if 3 ≤ s.topo.planesFormed then 1 else 0)]).serveRegs

/-! Spans allocated (R196). -/

/-- The pages of one span allocated, zeroed and mapped, each in the stacks of its die (R190); none where a frame is lacking. -/
def allocPages (c kind : Nat) (write pin : Bool) : List CachePage → State → Option State
  | [], s => some s
  | p :: r, s =>
    match s.allocRun (hbmRegions (2 ^ p.die)) 0x20_0000 0x20_0000 kind c with
    | none => none
    | some (f, t) =>
      match t.mapPage c p.va true (mkLeaf write false pin false false 0 1 f s.chip) with
      | none => none
      | some t => allocPages c kind write pin r t

/-- A span of a hand's cache allocated: kind 3 its own, 4 its lead's. -/
def State.allocSpan (s : State) (n kind base l i : Nat) : Option State :=
  let c := s.handCtx n
  if !s.unmapped c (spanVa base l i 0) (spanBytes l) then none
  else match allocPages c kind true false (spanCache base l i n) s with
    | none => none
    | some t => some { t with ranges := (spanCache base l i n).map (fun p => (⟨c, p.va, 0x20_0000, kind, n⟩ : VaRange)) ++ t.ranges }

end Sys2Proof.Machine
end

