-- ==== Sys2Proof/Machine/Numerics.lean ====
section
/-! DEFINITION. Numbers as the Gonak holds them: binary formats with rounding to nearest even (R81, R87, R96), FP4 and INT4
codes (R76–R80), block forms (R81–R83), the write face's conversion and its block record (R86, R87), and FP32 arithmetic. -/

namespace Sys2Proof.Machine

open Sys2Proof

/-- A number read from a code: NaN, an infinity, or ± m × 2^e. -/
inductive Num where
  | nan
  | inf (neg : Bool)
  | fin (neg : Bool) (m : Nat) (e : Int)
deriving DecidableEq, Repr, Inhabited

/-- A binary format: bits of the significand, exponent of its least step, and the largest finite magnitude code. -/
structure Fmt where
  p : Nat
  lsb : Int
  top : Nat

/-- IEEE 754 binary32. -/
def fmt32 : Fmt := ⟨24, -149, 0x7F7F_FFFF⟩
/-- BF16. -/
def fmt16 : Fmt := ⟨8, -133, 0x7F7F⟩
/-- E2M1 (R76). -/
def fmt4 : Fmt := ⟨2, -1, 7⟩
/-- E4M3 (Table 4-2). -/
def fmt8 : Fmt := ⟨4, -9, 0x7E⟩

/-- m ÷ 2^k to the nearest whole number, ties to even. -/
def rne (m k : Nat) : Nat :=
  let q := m / 2 ^ k
  let r := m % 2 ^ k
  if 2 ^ k < 2 * r ∨ (2 * r = 2 ^ k ∧ q % 2 = 1) then q + 1 else q

/-- m × 2^e in whole steps of 2^step, to the nearest, ties to even. -/
def toStep (m : Nat) (e step : Int) : Nat := if step ≤ e then m * 2 ^ (e - step).toNat else rne m (step - e).toNat

/-- The magnitude code of m × 2^e rounded to nearest, ties to even; beyond `top` where the format has no such value. -/
def Fmt.mag (f : Fmt) (m : Nat) (e : Int) : Nat :=
  if m = 0 then 0
  else
    let step := max ((m.log2 : Int) + e - ((f.p : Int) - 1)) f.lsb
    (step - f.lsb).toNat * 2 ^ (f.p - 1) + toStep m e step

/-- The magnitude of a code: significand and exponent. -/
def Fmt.value (f : Fmt) (c : Nat) : Nat × Int :=
  let x := c / 2 ^ (f.p - 1)
  if x = 0 then (c, f.lsb) else (2 ^ (f.p - 1) + c % 2 ^ (f.p - 1), f.lsb + (x : Int) - 1)

/-- A finite number of a format with its sign. -/
def Fmt.fin (f : Fmt) (neg : Bool) (c : Nat) : Num := .fin neg (f.value c).1 (f.value c).2

/-- An FP32 pattern read. -/
def num32 (x : Nat) : Num :=
  let c := x % 2 ^ 31
  if c ≤ fmt32.top then fmt32.fin (bit x 31) c else if c = 0x7F80_0000 then .inf (bit x 31) else .nan

/-- A BF16 pattern read. -/
def num16 (x : Nat) : Num := num32 (x % 2 ^ 16 * 2 ^ 16)

/-- An FP32 pattern for a number, a NaN taking the sign and payload given (R96). -/
def code32 (nan : Nat) : Num → Nat
  | .nan => 0x7FC0_0000 + nan % 2 ^ 22 + nan / 2 ^ 22 % 2 * 2 ^ 31
  | .inf neg => 0x7F80_0000 + b2n neg * 2 ^ 31
  | .fin neg m e => min (fmt32.mag m e) 0x7F80_0000 + b2n neg * 2 ^ 31

/-- A BF16 pattern for a number. -/
def code16 (nan : Nat) : Num → Nat
  | .nan => 0x7FC0 + nan % 2 ^ 6 + nan / 2 ^ 22 % 2 * 2 ^ 15
  | .inf neg => 0x7F80 + b2n neg * 2 ^ 15
  | .fin neg m e => min (fmt16.mag m e) 0x7F80 + b2n neg * 2 ^ 15

/-! FP32 arithmetic (R58, R96). -/

/-- The signed significand of a number at an exponent not above its own. -/
def scaled (neg : Bool) (m : Nat) (e low : Int) : Int :=
  let k : Int := (m * 2 ^ (e - low).toNat : Nat)
  if neg then -k else k

/-- The sum of two numbers; the sum of two zeros is −0 only where both are. -/
def Num.add : Num → Num → Num
  | .nan, _ => .nan
  | _, .nan => .nan
  | .inf a, .inf b => if a = b then .inf a else .nan
  | .inf a, .fin _ _ _ => .inf a
  | .fin _ _ _, .inf b => .inf b
  | .fin na ma ea, .fin nb mb eb =>
    let e := min ea eb
    let t := scaled na ma ea e + scaled nb mb eb e
    if t = 0 then .fin (na && nb) 0 e else .fin (decide (t < 0)) t.natAbs e

/-- The product of two numbers. -/
def Num.mul : Num → Num → Num
  | .nan, _ => .nan
  | _, .nan => .nan
  | .inf a, .inf b => .inf (a != b)
  | .inf a, .fin b m _ => if m = 0 then .nan else .inf (a != b)
  | .fin a m _, .inf b => if m = 0 then .nan else .inf (a != b)
  | .fin a ma ea, .fin b mb eb => .fin (a != b) (ma * mb) (ea + eb)

/-- A number with the other sign. -/
def Num.neg : Num → Num
  | .nan => .nan
  | .inf a => .inf (!a)
  | .fin a m e => .fin (!a) m e

/-- FP32 addition, rounded to nearest even, subnormals kept (R96). -/
def add32 (a b : Nat) : Nat := code32 (Config.nanBits a b) ((num32 a).add (num32 b))
/-- FP32 subtraction. -/
def sub32 (a b : Nat) : Nat := code32 (Config.nanBits a b) ((num32 a).add (num32 b).neg)
/-- FP32 multiplication. -/
def mul32 (a b : Nat) : Nat := code32 (Config.nanBits a b) ((num32 a).mul (num32 b))
/-- BF16 addition (R290). -/
def add16 (a b : Nat) : Nat := code16 (Config.nanBits a b) ((num16 a).add (num16 b))
/-- FP32 rounded to BF16. -/
def round16 (a : Nat) : Nat := code16 (Config.nanBits a 0) (num32 a)

/-- Whether a number lies strictly below another; false with a NaN. -/
def Num.lt : Num → Num → Bool
  | .nan, _ => false
  | _, .nan => false
  | .inf a, .inf b => a && !b
  | .inf a, .fin _ _ _ => a
  | .fin _ _ _, .inf b => !b
  | .fin na ma ea, .fin nb mb eb => decide (scaled na ma ea (min ea eb) < scaled nb mb eb (min ea eb))

/-- Whether a number is NaN. -/
def Num.isNan : Num → Bool
  | .nan => true
  | _ => false

/-! The vector unit's functions (R58): each result lies within two units in the last place of the exact value, and which of the codes
that do is a free choice. -/

/-- The magnitude code of m × 2^e cut toward zero. -/
def Fmt.floor (f : Fmt) (m : Nat) (e : Int) : Nat :=
  if m = 0 then 0
  else
    let step := max ((m.log2 : Int) + e - ((f.p : Int) - 1)) f.lsb
    (step - f.lsb).toNat * 2 ^ (f.p - 1) + (if step ≤ e then m * 2 ^ (e - step).toNat else m / 2 ^ (step - e).toNat)

/-- A magnitude code within two units of an exact value: `c` is the value's code cut toward zero, `exact` whether nothing was cut. -/
def nearCode (free : Nat) (exact : Bool) (c : Nat) : Nat :=
  min 0x7F80_0000 (if exact then c + free % 5 - 2 else c + free % 4 - 1)

/-- A function's FP32 result from the exact value's sign and magnitude m × 2^e. -/
def near32 (free : Nat) (exact neg : Bool) (m : Nat) (e : Int) : Nat := nearCode free exact (fmt32.floor m e) + b2n neg * 2 ^ 31

/-- The whole square root of a number, from bit `n` down. -/
def isqrt (x : Nat) : Nat → Nat → Nat
  | 0, r => r
  | n + 1, r => isqrt x n (if (r + 2 ^ n) ^ 2 ≤ x then r + 2 ^ n else r)

/-- 2^f for a fraction f = `x` ÷ 2^n, over 2^96: `g` is 2^(2^−1) over 2^96 at the first bit, and each further bit takes its root. -/
def expBits (x : Nat) : Nat → Nat → Nat → Nat
  | 0, _, acc => acc
  | n + 1, g, acc => expBits x n (isqrt (g * 2 ^ 96) 98 0) (if bit x n then acc * g / 2 ^ 96 else acc)

/-- 2^(1 ÷ 2) over 2^96. -/
def rootTwo : Nat := isqrt (2 * 2 ^ 192) 98 0

/-- The bits of log2 of `x` ÷ 2^160, in 1 to 2, over 2^n: each squaring brings the next bit. -/
def logBits : Nat → Nat → Nat → Nat
  | 0, _, acc => acc
  | n + 1, x, acc =>
    let y := x * x / 2 ^ 160
    if 2 ^ 161 ≤ y then logBits n (y / 2) (2 * acc + 1) else logBits n y (2 * acc)

/-- 2^a. -/
def exp2Of (a : Nat) : Nat :=
  match num32 a with
  | .nan => code32 (Config.nanBits a 0) .nan
  | .inf neg => if neg then 0 else 0x7F80_0000
  | .fin neg m e =>
    let v : Int := (if 0 ≤ e then (m * 2 ^ (min e 140).toNat * 2 ^ 64 : Nat) else (m * 2 ^ 64 / 2 ^ (-e).toNat : Nat))
    let exact := m = 0 || decide (0 ≤ e) || m % 2 ^ (-e).toNat == 0
    let v := if neg then -v - b2n (!decide (0 ≤ e) && m * 2 ^ 64 % 2 ^ (-e).toNat != 0) else v
    let n := v / 2 ^ 64
    if 128 ≤ n then 0x7F80_0000
    else if n < -152 then nearCode (Config.exp2 a) false 0
    else near32 (Config.exp2 a) exact false (expBits (v % 2 ^ 64).toNat 64 rootTwo (2 ^ 96)) (n - 96)

/-- log2 a; the spec states no result for zero and for numbers below it, where the value is free. -/
def log2Of (a : Nat) : Nat :=
  match num32 a with
  | .nan => code32 (Config.nanBits a 0) .nan
  | .inf neg => if neg then Config.log2 a % 2 ^ 32 else 0x7F80_0000
  | .fin neg m e =>
    if neg || m == 0 then Config.log2 a % 2 ^ 32
    else
      let k := m.log2
      let v : Int := ((k : Int) + e) * 2 ^ 96 + (logBits 96 (m * 2 ^ 160 / 2 ^ k) 0 : Nat)
      near32 (Config.log2 a) (m == 2 ^ k) (decide (v < 0)) v.natAbs (-96)

/-- 1 ÷ a; the spec states no result for zero, where the value is free. -/
def rcpOf (a : Nat) : Nat :=
  match num32 a with
  | .nan => code32 (Config.nanBits a 0) .nan
  | .inf neg => b2n neg * 2 ^ 31
  | .fin neg m e =>
    if m = 0 then Config.rcp a % 2 ^ 32
    else near32 (Config.rcp a) (2 ^ 96 % m == 0) neg (2 ^ 96 / m) (-96 - e)

/-- 1 ÷ √a; the spec states no result for zero and for numbers below it, where the value is free. -/
def rsqrtOf (a : Nat) : Nat :=
  match num32 a with
  | .nan => code32 (Config.nanBits a 0) .nan
  | .inf neg => if neg then Config.rsqrt a % 2 ^ 32 else 0
  | .fin neg m e =>
    if neg || m == 0 then Config.rsqrt a % 2 ^ 32
    else
      let odd := (e % 2).toNat
      let q := 2 ^ 192 / (m * 2 ^ odd)
      let r := isqrt q 98 0
      near32 (Config.rsqrt a) (2 ^ 192 % (m * 2 ^ odd) == 0 && r * r == q) false r (-96 - (e - odd) / 2)

/-- log2 of e, as FP32. -/
def log2e32 : Nat := 0x3FB8_AA3B

/-- e^x through the vector unit: 2^(x × log2 e). -/
def exp32 (x : Nat) : Nat := exp2Of (mul32 x log2e32)

/-- The larger of two FP32 patterns, NaN taken as missing data. -/
def max32 (a b : Nat) : Nat := if (num32 a).isNan then b else if (num32 b).isNan then a else if (num32 a).lt (num32 b) then b else a

/-- Softmax of FP32 patterns as the vector unit forms it: the maximum taken off, the exponentials summed in ascending order, and each
multiplied by the reciprocal of the sum (log 49: the spec names no order of these operations). -/
def softmax32 (l : List Nat) : List Nat :=
  let m := (l.drop 1).foldl max32 (l.headD 0)
  let es := l.map (fun x => exp32 (sub32 x m))
  let r := rcpOf ((es.drop 1).foldl add32 (es.headD 0))
  es.map (fun x => mul32 x r)

/-- The logistic function as the vector unit forms it: 1 ÷ (1 + e^(−x)). -/
def sigmoid32 (x : Nat) : Nat := rcpOf (add32 0x3F80_0000 (exp32 (x ^^^ 0x8000_0000)))

/-! Division and order of FP32 patterns. -/

/-- A whole number as FP32. -/
def nat32 (n : Nat) : Nat := code32 0 (.fin false n 0)

/-- The quotient of two finite magnitudes with 64 bits below the divisor's last, the rest kept as a last bit. -/
def quotient (ma mb : Nat) : Nat := 2 * (ma * 2 ^ 64 / mb) + b2n (ma * 2 ^ 64 % mb != 0)

/-- The quotient of two numbers. -/
def Num.div : Num → Num → Num
  | .nan, _ => .nan
  | _, .nan => .nan
  | .inf _, .inf _ => .nan
  | .inf a, .fin b _ _ => .inf (a != b)
  | .fin a _ _, .inf b => .fin (a != b) 0 0
  | .fin a ma ea, .fin b mb eb =>
    if mb = 0 then (if ma = 0 then .nan else .inf (a != b)) else .fin (a != b) (quotient ma mb) (ea - eb - 65)

/-- FP32 division rounded to nearest even. -/
def div32 (a b : Nat) : Nat := code32 (Config.nanBits a b) ((num32 a).div (num32 b))

/-- Whether an FP32 pattern is finite and greater than 0. -/
def positive32 (x : Nat) : Bool := decide (0 < x) && decide (x < 0x7F80_0000)

/-- Whether value `a` at place `i` comes before `b` at place `j`: the larger first, a NaN last, the lower place among equals (R158). -/
def before (a i b j : Nat) : Bool :=
  let x := num32 a
  let y := num32 b
  if x.isNan && y.isNan then decide (i < j)
  else if x.isNan then false
  else if y.isNan then true
  else if y.lt x then true
  else if x.lt y then false
  else decide (i < j)

/-! Codes (R76–R80). -/

/-- The operand an array cell multiplies for an FP4 code: twice its value (R46, Table 4-1). -/
def fp4Cell (c : Nat) : Int :=
  let m : Int := [0, 1, 2, 3, 4, 6, 8, 12].getD (c % 8) 0
  if c % 16 < 8 then m else -m

/-- The value of an INT4 code (Table 4-1). -/
def int4Of (c : Nat) : Int := toSigned 4 c

/-- The code of element `i` of a packed block of 4-bit codes (R80). -/
def nibble (b : List Nat) (i : Nat) : Nat := b.getD (i / 2) 0 / 16 ^ (i % 2) % 16

/-- Codes packed two to a byte, the even element low (R80). -/
def packNibbles : List Nat → List Nat
  | a :: b :: r => (a % 16 + b % 16 * 16) :: packNibbles r
  | [a] => [a % 16]
  | [] => []

/-- Codes of `w` bits packed little-endian without padding (R81). -/
def packBits (w : Nat) (l : List Nat) : Nat := l.foldr (fun c a => c % 2 ^ w + a * 2 ^ w) 0

/-! Block forms (Table 4-2). -/

/-- The block forms the Gonak converts to or from. -/
inductive Form where
  | fp4
  | int4
  | int8
  | int12
  | mxfp8
deriving DecidableEq, Repr, Inhabited

/-- The form of FORMAT (Table 4-3). -/
def Form.ofFormat (n : Nat) : Form := match n with | 0 => .fp4 | 1 => .int4 | 2 => .int8 | _ => .int12

/-- e_f of Table 4-2. -/
def Form.ef : Form → Int
  | .fp4 => 2
  | .int4 => 2
  | .int8 => 6
  | .int12 => 10
  | .mxfp8 => 8

/-- Bits of a code. -/
def Form.width : Form → Nat
  | .fp4 => 4
  | .int4 => 4
  | .int8 => 8
  | .int12 => 12
  | .mxfp8 => 8

/-- Bytes of 32 codes. -/
def Form.bytes (f : Form) : Nat := 4 * f.width

/-- The code nearest to ± m × 2^e, ties to the even code, cut to the form's largest code of its sign (R81, R87). -/
def Form.encode (f : Form) (neg : Bool) (m : Nat) (e : Int) : Nat :=
  match f with
  | .fp4 => let c := min (fmt4.mag m e) fmt4.top; if c = 0 then 0 else c + b2n neg * 8
  | .mxfp8 => min (fmt8.mag m e) fmt8.top + b2n neg * 2 ^ 7
  | .int4 => let c := toStep m e 0; if neg then ofSigned 4 (-(min c 8 : Nat)) else min c 7
  | .int8 => let c := min (toStep m e 0) 127; if neg then ofSigned 8 (-(c : Nat)) else c
  | .int12 => let c := min (toStep m e 0) 2047; if neg then ofSigned 12 (-(c : Nat)) else c

/-- The largest code of a sign. -/
def Form.most (f : Form) (neg : Bool) : Nat := f.encode neg 4096 4

/-- A code's number before its scale. -/
def Form.decode (f : Form) (c : Nat) : Num :=
  match f with
  | .fp4 => if c % 8 = 0 then .fin false 0 0 else fmt4.fin (bit c 3) (c % 8)
  | .mxfp8 => if c % 128 = 0x7F then .nan else fmt8.fin (bit c 7) (c % 128)
  | .int4 => .fin (decide (int4Of c < 0)) (int4Of c).natAbs 0
  | .int8 => .fin (decide (toSigned 8 c < 0)) (toSigned 8 c).natAbs 0
  | .int12 => .fin (decide (toSigned 12 c < 0)) (toSigned 12 c).natAbs 0

/-- ⌊log2⌋ of a finite number that is not zero. -/
def Num.log2 : Num → Option Int
  | .fin _ m e => if m = 0 then none else some ((m.log2 : Int) + e)
  | _ => none

/-- ⌊log2 amax⌋ of a block over its finite elements; none where all are zero. -/
def blockLog (l : List Num) : Option Int :=
  l.foldl (fun a x => match a, x.log2 with | none, y => y | some a, some b => some (max a b) | some a, none => some a) none

/-- An exponent clamped to a scale's 0–254. -/
def clampX (x : Int) : Nat := min x.toNat 254

/-- An element under scale X: multiplied by 2^(127−X) and rounded (R81); an infinity takes the largest code. -/
def Form.convert (f : Form) (x : Nat) : Num → Nat
  | .nan => f.encode (bit (Config.nanElement f.width) 0) (Config.nanElement f.width / 2) (match f with | .mxfp8 => -9 | .fp4 => -1 | _ => 0)
  | .inf neg => f.most neg
  | .fin neg m e => f.encode neg m (e + 127 - (x : Int))

/-- The measured scale of a block (R81). -/
def Form.scale (f : Form) (l : List Num) : Nat := match blockLog l with | none => 0 | some e => clampX (e - f.ef + 127)

/-- A block converted under a measured scale: the scale, and the codes; a block with no finite magnitude above zero gets X = 0 and
all codes zero (R81). -/
def Form.measured (f : Form) (l : List Num) : Nat × List Nat :=
  match blockLog l with
  | none => (0, l.map (fun _ => 0))
  | some _ => (f.scale l, l.map (f.convert (f.scale l)))

/-- The bytes of a block's codes in memory (R80, R81). -/
def Form.pack (f : Form) (codes : List Nat) : List Nat :=
  (leBytes f.bytes (packBits f.width codes)).map BitVec.toNat

/-- The codes of a block's bytes. -/
def Form.unpack (f : Form) (bytes : List Nat) : List Nat :=
  let n := bytes.foldr (fun b a => b % 256 + a * 256) 0
  (List.range 32).map (fun i => bits n (f.width * i) f.width)

/-- An element of a block under its scale, as a number. -/
def Form.element (f : Form) (x c : Nat) : Num :=
  match f.decode c with
  | .fin neg m e => .fin neg m (e + (x : Int) - 127)
  | n => n

/-- An element of a stored FP4 or MXFP8 block as BF16 (R83): a NaN code or a scale of 0xFF decodes as zero, a value below the
smallest BF16 subnormal becomes zero. -/
def Form.toBf16 (f : Form) (x c : Nat) : Nat :=
  if x = 0xFF then 0
  else match f.element x c with
    | .fin neg m e => if m = 0 then b2n neg * 2 ^ 15 else if (m.log2 : Int) + e < -133 then 0 else code16 0 (.fin neg m e)
    | _ => 0

/-- A NaN code or NaN scale met in a block (R83). -/
def Form.badBlock (f : Form) (x : Nat) (codes : List Nat) : Nat :=
  if x = 0xFF then 1 else (codes.filter (fun c => (f.decode c).isNan)).length

/-! The write face (R86–R89). -/

/-- What the write face makes of a block: codes, scale, and its record's counts. -/
structure Faced where
  codes : List Nat
  scale : Nat
  sat : Nat
  zero : Nat
  nans : Nat
  emax : Nat
deriving DecidableEq, Repr, Inhabited

/-- Whether an element saturates under scale X (R87). -/
def Form.saturates (f : Form) (x : Nat) : Num → Bool
  | .nan => false
  | .inf _ => true
  | .fin neg m e =>
    let k := e + 127 - (x : Int)
    match f with
    | .fp4 => !(Num.fin false m k).lt (.fin false 7 0)
    | .int4 => if neg then (Num.fin false 17 (-1)).lt (.fin false m k) else !(Num.fin false m k).lt (.fin false 15 (-1))
    | _ => decide ((f.most neg : Int) < toStep m k 0 ∧ neg = false) || (neg && decide ((f.most false) < toStep m k 0))

/-- Whether a non-zero element converts to zero. -/
def Form.zeroes (f : Form) (x : Nat) : Num → Bool
  | .fin neg m e => m != 0 && f.encode neg m (e + 127 - (x : Int)) % 2 ^ (f.width - b2n (f == .mxfp8)) == 0
  | _ => false

/-- EMAX of a block (Table 4-4). -/
def blockEmax (l : List Num) : Nat := match blockLog l with | none => 0 | some e => max 1 (e + 127).toNat

/-- Whether the write face converts to a form under R87 (FP4, INT4); the wider forms convert under R81. -/
def Form.narrow (f : Form) : Bool := f == .fp4 || f == .int4

/-- A block converted by the write face under scale X (R87): a NaN gives code 0. A wider form's block with no finite magnitude above
zero has all codes zero (R81), none of them saturated. -/
def Form.face (f : Form) (x : Nat) (l : List Num) : Faced :=
  let zeros := !f.narrow && (blockLog l).isNone
  { codes := l.map (fun n => if n.isNan || zeros then 0 else f.convert x n), scale := x,
    sat := if zeros then 0 else (l.filter (f.saturates x)).length,
    zero := (l.filter (f.zeroes x)).length, nans := (l.filter Num.isNan).length, emax := blockEmax l }

/-- The scale of a block: from a prediction P with MARGIN (R88), or measured from EMAX (R89); a wider form measures (R81). -/
def Form.faceScale (f : Form) (pred : Option Nat) (margin : Nat) (l : List Num) : Nat :=
  match f with
  | .fp4 | .int4 => clampX (((match pred with | some p => p | none => blockEmax l) : Nat) - 2 + (margin : Int))
  | _ => f.scale l

/-- The 32-bit block record (Table 4-4). -/
def Faced.record (b : Faced) (measured : Bool) : Nat :=
  b.sat + b.zero * 2 ^ 6 + b2n (b.nans != 0) * 2 ^ 12 + b2n measured * 2 ^ 13 + b.emax * 2 ^ 16

/-! Conversion records of the base die (R149, Table 6-5). -/

/-- The form and direction of CONVERT: 1, 2 to MXFP8 and FP4; 3, 4 from them. -/
def convertForm (k : Nat) : Form := if k % 2 = 1 then .mxfp8 else .fp4

/-- Bytes of one record. -/
def recordBytes (k : Nat) : Nat := (convertForm k).bytes * 64 + 64

/-- 16-bit words of bytes. -/
def halves : List Nat → List Nat
  | a :: b :: r => (a + 256 * b) :: halves r
  | _ => []

/-- The record of one 4 KiB BF16 chunk: the codes of its 64 blocks, then their scales. -/
def toRecord (k : Nat) (chunk : List Nat) : List Nat :=
  let f := convertForm k
  let blocks := (List.range 64).map (fun b => f.measured ((halves ((chunk.drop (64 * b)).take 64)).map num16))
  blocks.flatMap (fun b => f.pack b.2) ++ blocks.map Prod.fst

/-- Block `b` of a record: its scale and its codes. -/
def recordBlock (k : Nat) (rec : List Nat) (b : Nat) : Nat × List Nat :=
  let f := convertForm k
  (rec.getD (f.bytes * 64 + b) 0, f.unpack ((rec.drop (f.bytes * b)).take f.bytes))

/-- The 4 KiB BF16 chunk of a record. -/
def fromRecord (k : Nat) (rec : List Nat) : List Nat :=
  (List.range 64).flatMap (fun b => ((recordBlock k rec b).2.map ((convertForm k).toBf16 (recordBlock k rec b).1)).flatMap (fun w => [w % 256, w / 256]))

/-- The E4M3 NaN codes, and the scales of 0xFF, that a record's decoding met (R83). -/
def recordErrors (k : Nat) (rec : List Nat) : Nat × Nat :=
  (List.range 64).foldl (fun n b =>
    if (recordBlock k rec b).1 = 0xFF then (n.1, n.2 + 1)
    else (n.1 + (convertForm k).badBlock 0 (recordBlock k rec b).2, n.2)) (0, 0)

end Sys2Proof.Machine
end

