-- ==== Sys2Proof/Machine/Queues.lean ====
section
/-! DEFINITION. Descriptors and the movers' queues (R137–R143): the fields of Table 6-1 and their checks, where a descriptor is
placed, the registers of a mover, and the descriptors of page moves. -/

namespace Sys2Proof.Machine

open Sys2Proof

/-! Descriptor fields (Table 6-1). -/

/-- A descriptor's word. -/
def Desc.w (d : Desc) (i : Nat) : Nat := d.words.getD i 0
/-- OP. -/
def Desc.op (d : Desc) : Nat := bits (d.w 0) 0 8
/-- CONVERT. -/
def Desc.convert (d : Desc) : Nat := bits (d.w 0) 8 3
/-- ORDERED. -/
def Desc.ordered (d : Desc) : Bool := bit (d.w 0) 11
/-- RED_TYPE. -/
def Desc.redType (d : Desc) : Nat := bits (d.w 0) 12 2
/-- RED_FN. -/
def Desc.redFn (d : Desc) : Nat := bits (d.w 0) 14 2
/-- Bytes of an element of GATHER and SCATTER. -/
def Desc.elem (d : Desc) : Nat := bits (d.w 0) 32 7 * 64
/-- TAG. -/
def Desc.tag (d : Desc) : Nat := bits (d.w 0) 48 16
/-- SRC_VA. -/
def Desc.src (d : Desc) : Nat := bits (d.w 1) 0 57
/-- DST_VA. -/
def Desc.dst (d : Desc) : Nat := bits (d.w 2) 0 57
/-- LENGTH. -/
def Desc.length (d : Desc) : Nat := bits (d.w 3) 0 40
/-- STRIDE. -/
def Desc.stride (d : Desc) : Nat := bits (d.w 5) 0 32
/-- SIGNAL_VA. -/
def Desc.signalVa (d : Desc) : Nat := bits (d.w 6) 0 57

/-- The end of the narrow side's records of a converting COPY, from its LENGTH on the BF16 side (R149). -/
def Desc.narrow (d : Desc) : Nat := d.length / 4096 * recordBytes d.convert

/-- The DETAIL of the first fault of a descriptor's words (R139, R140, Table 6-2), but for its context. -/
def descFault (d : Desc) : Option Nat :=
  let op := d.op
  let indexed := op == 2 || op == 3
  if decide (5 < op) || decide (4 < d.convert) || (op == 4 && d.redFn == 3) || (d.convert != 0 && op != 0) then some 0x0601
  else if d.w 1 % 64 != 0 || d.w 2 % 64 != 0 || (op != 5 && !indexed && d.w 3 % 64 != 0) || (indexed && (d.w 4 % 64 != 0 || d.w 5 % 64 != 0)) ||
      d.w 6 % 8 != 0 || (d.convert != 0 && d.w 3 % 4096 != 0) then some 0x0602
  else if d.length == 0 || (indexed && decide (2 ^ 24 < d.length)) || (op == 5 && decide (4096 < d.length)) then some 0x0603
  else if indexed && (d.elem == 0 || decide (4096 < d.elem)) then some 0x0604
  else if bits (d.w 0) 26 6 != 0 || bits (d.w 0) 39 9 != 0 || decide (2 ^ 57 ≤ d.w 1) || decide (2 ^ 57 ≤ d.w 2) || decide (2 ^ 40 ≤ d.w 3) ||
      decide (2 ^ 57 ≤ d.w 6) || (!indexed && (bits (d.w 0) 32 7 != 0 || d.w 5 != 0)) || decide (2 ^ 32 ≤ d.w 5) || (op != 4 && bits (d.w 0) 12 4 != 0) ||
      ((op == 0 || op == 4 || op == 5) && d.w 4 != 0) || (indexed && decide (2 ^ 57 ≤ d.w 4)) || (op == 1 && d.w 1 != 0) || (op == 5 && d.w 2 != 0) then some 0x0606
  else none

/-- The DETAIL of a descriptor's first fault, its context among them (0x0605). -/
def State.descBad (s : State) (d : Desc) : Option Nat :=
  match descFault d with
  | some 0x0606 => if s.inUse d.ctx then some 0x0606 else some 0x0605
  | none => if s.inUse d.ctx then none else some 0x0605
  | r => r

/-! Placing (R138) and queues (R143). -/

/-- Whether a request is over: complete, or ended with nothing moved. -/
def MoverReq.over (r : MoverReq) : Bool := r.state == 3 || r.state == 5

/-- Requests of a mover in flight, waiting or parked. -/
def State.moverOut (s : State) (m : Nat) : Nat :=
  ((s.descs.filter (fun d => d.mover == m)).map (fun d => (d.live.filter (fun r => !r.over)).length)).sum

/-- Requests of a queue of a mover in flight, waiting or parked. -/
def State.queueOut (s : State) (m q : Nat) : Nat :=
  ((s.descs.filter (fun d => d.mover == m && d.queue == q)).map (fun d => (d.live.filter (fun r => !r.over)).length)).sum

/-- MOVE.STATUS of a mover brought up. -/
def State.moverRegs (s : State) (m : Nat) : State :=
  let mine := s.descs.filter (fun d => d.mover == m)
  let s := (s.wr (MOVE.STATUS.OUTSTANDING m) (s.moverOut m)).wr (MOVE.STATUS.PARKED m)
    ((mine.map (fun d => (d.live.filter (fun r => r.state == 2)).length)).sum)
  match [0, 1, 2].findSome? (fun q => mine.find? (fun d => d.queue == q && d.issued && !d.halted && d.ended.isNone && decide (d.next < d.total))) with
  | some d => s.wrs [(MOVE.STATUS.CONTEXT m, d.ctx), (MOVE.STATUS.QUEUE m, d.queue), (MOVE.STATUS.TAG m, d.tag)]
  | none => s.wr (MOVE.STATUS.QUEUE m) 3

/-- The die whose movers take a descriptor placed by an address (R138). -/
def State.placeDie (s : State) (c va : Nat) : Nat :=
  match s.walk c va with
  | none => 8
  | some (_, _, l) =>
    if lfState l != 0 || decide (0xF00 ≤ lfChip l) then 8
    else if lfChip l = s.chip then (if lfTier l < 2 then (dieOf (lfFrame l + va % 4096)) % 12 else if lfTier l = 2 then 8 else 10)
    else s.exitDie (lfChip l)

/-- The mover of a die with the fewest outstanding requests, the lowest-numbered among equals. -/
def State.idlest (s : State) (die : Nat) : Nat :=
  [4 * die + 1, 4 * die + 2, 4 * die + 3].foldl (fun b m => if s.moverOut m < s.moverOut b then m else b) (4 * die)

/-- Descriptors that wait in a queue of a mover: it holds 64. -/
def State.queueLen (s : State) (m q : Nat) : Nat := (s.descs.filter (fun d => d.mover == m && d.queue == q && !d.issued)).length

/-- The queue of a context's descriptors: 1 trump, 2 plain. -/
def State.moverQueue (s : State) (c : Nat) : Nat := if s.rd (SCHED.CTX_STATE.CLASS c) = 0 then 1 else 2

/-- A descriptor put at the end of its queue. -/
def State.descAdd (s : State) (d : Desc) : State :=
  ({ s with descs := s.descs ++ [{ d with id := s.nextDesc }], nextDesc := s.nextDesc + 1 }).moverRegs d.mover

/-- A descriptor changed in place. -/
def State.descMap (s : State) (i : Nat) (f : Desc → Desc) : State :=
  { s with descs := s.descs.map (fun d => if d.id = i then f d else d) }

/-- Whether a descriptor fills the working buffer of an attention launch on its die and writes no range (R191); of issuer 6 it reads a ring
buffer of this module by local offsets (R203). -/
def Desc.kept (d : Desc) : Bool := d.issuer == 5 || d.issuer == 6

/-- The requester of a descriptor's request: the descriptor, or, for one of the service queue, its page move. -/
def Desc.who (d : Desc) (no : Nat) : Parked := if d.queue = 0 then ⟨4, d.owner, no, 0⟩ else ⟨0, d.id, no, 0⟩

/-! The descriptors of page moves (R138, R143). -/

/-- The movers that take a page move: the four of the source home's die for a move between HBM homes of this module, else the idlest of
the die that R138 gives the source home. -/
def State.moveMovers (s : State) (m : Move) : List Nat :=
  if lfChip m.leaf = s.chip ∧ lfTier m.leaf = 1 ∧ m.chip = s.chip ∧ m.tier = 1 then (List.range 4).map (fun i => 4 * dieOf (lfFrame m.leaf) + i)
  else [s.idlest (s.placeDie m.ctx m.va)]

/-- The 4 KiB chunks of a move's BF16 side, or of the bytes it copies. -/
def Move.chunks (m : Move) : Nat := ceilDiv (if m.len = 0 then pageSize m.big else m.len) 4096

/-- The service descriptors of a move: the page's chunks shared out over its movers, each a run of them. -/
def State.moveDescs (s : State) (m : Move) (movers : List Nat) : State :=
  let share := ceilDiv m.chunks movers.length
  (movers.zipIdx).foldl (fun t p =>
    let lo := p.2 * share
    let n := min share (m.chunks - lo)
    if n = 0 then t
    else t.descAdd {
      id := 0, mover := p.1, queue := 0, ctx := m.ctx, issuer := 2, owner := m.id, die := p.1 / 4,
      words := [m.convert * 2 ^ 8 + m.ctx % 2 ^ 10 * 2 ^ 16, m.va + 4096 * lo, m.va + 4096 * lo, 4096 * n, 0, 0, 0, 0] }) s

/-- Whether every mover of a move has room in its service queue (R143). -/
def State.serviceRoom (s : State) (movers : List Nat) : Bool := movers.all (fun m => decide (s.queueLen m 0 < 64))

/-- A move's descriptors taken away, with its unanswered requests. -/
def State.moveStop (s : State) (i : Nat) : State :=
  let ms := (s.descs.filter (fun d => d.queue == 0 && d.owner == i)).map Desc.mover
  let s := { s with
    descs := s.descs.filter (fun d => !(d.queue == 0 && d.owner == i)),
    fabric := { s.fabric with
      reqs := s.fabric.reqs.filter (fun r => !(r.who.kind == 4 && r.who.a == i)),
      got := s.fabric.got.filter (fun g => !(g.who.kind == 4 && g.who.a == i)) } }
  ms.foldl State.moverRegs s

/-- Whether descriptors of a move are not complete. -/
def State.moveBusy (s : State) (i : Nat) : Bool := s.descs.any (fun d => d.queue == 0 && d.owner == i)

end Sys2Proof.Machine
end

