-- ==== Sys2Proof/Machine/Moves.lean ====
section
/-! DEFINITION. The tier engine's moves of pages (Table 5-7, R119–R124), move broadcasts and forwarding replies (R121, R122),
and the delivery, refusal and timeout of fault entries (R132–R134). -/

namespace Sys2Proof.Machine

open Sys2Proof

/-! Starting a move. -/

/-- The move with an id. -/
def State.moveOf (s : State) (i : Nat) : Option Move := s.moves.find? (fun m => m.id == i)

/-- A move changed in place. -/
def State.moveMap (s : State) (i : Nat) (f : Move → Move) : State :=
  { s with moves := s.moves.map (fun m => if m.id = i then f m else m) }

/-- A move taken off the list. -/
def State.moveDone (s : State) (i : Nat) : State := { s with moves := s.moves.filter (fun m => m.id != i) }

/-- A request for a move taken off the list. -/
def State.wantDone (s : State) (w : Move) : State :=
  { s with wants := s.wants.filter (fun x => !(x.ctx == w.ctx && x.va == w.va && x.cause == w.cause)) }

/-- Pages that a MIGRATE has moved so far. -/
def Cmd.moved (c : Cmd) : Nat := c.aux.getD 1 0

/-- A move that cannot be made (Table 5-11, R368, R133, R118): its MIGRATE ends with the pages moved in OUT0, its PROMOTE entry
closes, its launch ends; a move of a hand or a repair is dropped. -/
def State.moveFails (s : State) (m : Move) (st det : Nat) : State :=
  if m.cause = 0 then
    match s.cmdRunning m.owner with | some c => s.finish c.id st det c.moved 0 0 | none => s
  else if m.cause = 2 then
    match s.faults.find? (fun e => e.isOpen && e.id == m.owner) with | some e => s.faultEnd e stFaulted (if st = stFaulted then det else 0x0503) | none => s
  else if m.cause = 9 then s.endLaunch m.owner st det
  else s

/-- The mover whose number a fault met by a move carries: the first of the die that holds the page's home (R520). -/
def State.moveEngine (s : State) (leaf : Nat) : Nat :=
  if lfChip leaf = s.chip ∧ lfTier leaf < 2 then 4 * dieOf (lfFrame leaf) else if lfTier leaf = 3 then 40 else 32

/-- A fault met by a move (R520): parked for the command or launch it serves, and taken up again when the entry closes; the record names
the command of the launch that the move serves, if one command started it. -/
def State.moveFault (s : State) (m : Move) (leaf : Nat) : State :=
  let who : Parked := if m.cause = 0 then ⟨1, m.owner, 0, 0⟩ else if m.cause = 9 then ⟨2, m.owner, 0, 0⟩ else ⟨4, m.owner, 0, 0⟩
  let cmd := if m.cause = 9 then (s.launch m.owner).bind (fun l => l.cmd.bind s.cmdOf) else none
  match cmd with
  | some c => s.openFault m.ctx 2 false m.va (s.moveEngine leaf) c.seq (c.chan % 128) false who
  | none => s.openFault m.ctx 2 false m.va (s.moveEngine leaf) 0 0 true who

/-- The dies on which a MIGRATE may place its next pinned page: those that still hold a place promised to it (R127). -/
def Cmd.pinMask (c : Cmd) : Nat := ((List.range 8).filter (fun d => c.aux.getD (2 + d) 0 != 0)).foldl (fun n d => n + 2 ^ d) 0

/-- The frame of a move's destination, handed out where it lies in this module (R111); in another member's HBM its placement
is a free value. The MIGRATE of a pinned page takes it on a die promised to it. -/
def State.moveFrame (s : State) (w : Move) (pin : Bool) : Option (Nat × State) :=
  let size := pageSize w.big
  if w.tier = 0 then
    let mask := if pin && w.cause == 0 then ((s.cmdRunning w.owner).map Cmd.pinMask).getD 0 else w.leaf
    if pin && w.cause == 0 && mask == 0 then none else s.allocRun (sramRegions mask) size size 8 w.ctx
  else if w.tier = 1 ∧ w.chip = s.chip then
    s.allocRun (hbmRegions w.leaf) size size (if w.cause = 5 ∨ w.cause = 7 ∨ w.convert ≠ 0 then 3 else 8) w.ctx
  else if w.tier = 1 then some (Config.freePlace s.freeCtr % (hbmEnd / size) * size, s.took)
  else some (w.frame, s)

/-- A move as the page it serves shapes it: the touch of a cache page in host memory brings it back as a hand's return does (R195). -/
def State.shapeMove (s : State) (w : Move) : Move :=
  if w.cause = 2 then
    match s.cacheReturn w.ctx w.va with
    | some (die, conv, len) => { w with leaf := 2 ^ die, convert := conv, len := len }
    | none => w
  else w

/-- A move whose place in tier 1 is lacking: room is made for a tile's page (R118); a hand's move waits; any other ends. -/
def State.noFrame (s : State) (w : Move) : State :=
  if w.cause = 9 then (s.makeRoom w.leaf.log2).getD s
  else if w.cause = 3 ∨ w.cause = 5 ∨ w.cause = 7 then s
  else (s.wantDone w).moveFails w stNoResource 0

/-- Whether the SRAM of a tile's die holds its 96 pinned pages, so that one more of them waits (R127; log 48: a tile's own pinned page
moves under R118 for all that). -/
def State.pinsFull (s : State) (w : Move) (leaf : Nat) : Bool := w.cause == 9 && lfPin leaf && decide (96 ≤ s.pinned w.leaf.log2)

/-- Steps 1 and 2 of Table 5-7 for a move whose page, with its leaf, may move: the frame, TRANSIT with its shootdown, the movers'
descriptors. -/
def State.moveBegin (s : State) (w : Move) (leaf : Nat) : State :=
  let v := s.shapeMove w
  match s.moveFrame v (lfPin leaf) with
  | none => s.noFrame w
  | some (f, t) =>
    let m : Move := { v with id := t.nextMove + 1, leaf := leaf, frame := f, phase := 3, before := t.fabric.nextReq }
    let movers := s.moveMovers m
    if !s.serviceRoom movers then s
    else
      let t := { t.wantDone w with nextMove := t.nextMove + 1, moves := t.moves ++ [m] }
      (t.setLeaf w.ctx w.va (lfWithState leaf 1)).moveDescs m movers

/-- PAGE_MOVE_START (steps 1 and 2 of Table 5-7): the `i`-th move asked for is taken where it may be. -/
def pageMoveStart (i : Nat) (s : State) : State :=
  match s.wants[i]? with
  | none => s
  | some w =>
    if w.cause = 0 && (s.cmdRunning w.owner).isNone then s.wantDone w
    else if w.cause = 9 && (s.launch w.owner).all (fun l => l.ended.isSome) then s.wantDone w
    else if decide (4 ≤ w.cause) && decide (w.cause ≤ 7) && (s.wants.take i).any (fun x => x.cause == w.cause && x.owner == w.owner) then s
    else match s.walk w.ctx w.va with
    | none => (s.wantDone w).moveFails w stFaulted 0x0501
    | some (_, big, leaf) =>
      if big != w.big then (s.wantDone w).moveFails w stFaulted 0x0501
      else if lfState leaf = 1 then (if w.cause = 0 then (s.wantDone w).moveFails w stBusyRetry 0 else s.wantDone w)
      else if w.cause = 3 && (lfState leaf != 0 || lfTier leaf != 0 || pageNeeded (s.neededOn w.owner) w.ctx w.va big) then s.wantDone w
      else if lfState leaf = 2 then s.moveFault w leaf
      else if lfState leaf = 3 then (s.wantDone w).moveFails w stFaulted 0x0505
      else if decide (0xF00 ≤ lfChip leaf) || !s.member (lfChip leaf) then (s.wantDone w).moveFails w stFaulted 0x0506
      else if lfGlobal leaf && !s.fwdRoom then s
      else if s.pinsFull w leaf then s
      else s.moveBegin w leaf

/-- PAGE_MOVE_START (R119). -/
def execPageMoveStart (want : Nat) (s : State) : Host.Outcome State Fault Refusal := .next (pageMoveStart want s)

/-! The copy. -/

/-- The leaf a move writes: the new home, RESIDENT; PROMOTE is cleared by the move that serves its fault and by a hand's return,
and set by a move of a hand's page to host memory (R133, R195). -/
def Move.newLeaf (m : Move) : Nat :=
  let l := lfWithState (lfWithHome m.leaf m.tier m.chip m.frame) 0
  if m.cause = 4 ∨ m.cause = 6 then lfWithPromote l true
  else if m.cause = 2 ∨ m.cause = 5 ∨ m.cause = 7 then lfWithPromote l false
  else l

/-- The NaN codes and NaN scales that a move's decoding met counted and recorded (R83). -/
def State.convertErrors (s : State) (k stack : Nat) (recs : List (List Nat)) : State :=
  let n := recs.foldl (fun (a : Nat × Nat) r => (a.1 + (recordErrors k r).1, a.2 + (recordErrors k r).2)) (0, 0)
  if n = (0, 0) then s
  else ((s.bump TIER.CONVERT_ERR.E4M3_NAN n.1).bump TIER.CONVERT_ERR.SCALE_NAN n.2).record 0x0205 stack n.1 n.2

/-- The old frame of a move freed where this module handed it out. -/
def State.moveFree (s : State) (m : Move) : State := if m.cause = 1 ∧ lfState m.leaf = 2 then s else s.freeHome (lfWithState m.leaf 0)

/-- TIER.INVAL.OUTSTANDING and TIER.FWD.IN_USE brought up. -/
def State.moveCounts (s : State) : State :=
  (s.wr TIER.INVAL.OUTSTANDING (s.moves.filter (fun m => m.phase == 5)).length).wr TIER.FWD.IN_USE s.fwds.length

/-- A move that is complete: counted; a MIGRATE asks for its next page or ends (R368); SET_HOME ends with its last. -/
def State.moveEnded (s : State) (m : Move) : State :=
  let s := (s.moveDone m.id).moveCounts
  if m.cause = 1 then
    if s.moves.any (fun x => x.cause == 1 && x.owner == m.owner) then s
    else match s.cmdRunning m.owner with | some c => if c.aux.getD 1 0 < c.pages then s else s.doneWith c.id c.out0 0 0 | none => s
  else
    let s := (s.bump TIER.MOVES.PAGES 1).handMoveEnded m
    if m.cause = 0 then
      match s.cmdRunning m.owner with
      | none => s
      | some c =>
        if c.moved + 1 = c.pages then s.doneWith c.id c.pages 0 0
        else (s.cmdMap c.id (fun x => { x with aux := x.aux.set 1 (c.moved + 1) })).want (migrateMove s c (c.moved + 1))
    else s

/-- A place promised to a MIGRATE on the die that took its pinned page used up (R127). -/
def State.pinTaken (s : State) (m : Move) : State :=
  if m.cause = 0 ∧ m.tier = 0 ∧ lfPin m.leaf then
    let d := 2 + dieOf m.frame
    s.cmdMap m.owner (fun c => { c with aux := c.aux.set d (c.aux.getD d 0 - 1) })
  else s

/-- Steps 4 to 6 of Table 5-7: the new home written, the page's faults served, the old frame freed, or a GLOBAL page's move
broadcast with a forwarding record kept at an old home of this module or of its hosts (R106). -/
def State.moveCopied (s : State) (m : Move) : State :=
  let s := (((s.moveStop m.id).setLeaf m.ctx m.va m.newLeaf).pageServed m.ctx m.va m.big).pinTaken m
  if lfGlobal m.leaf && !s.others.isEmpty then
    let s := s.moveMap m.id (fun x => { x with phase := 5, await := s.others })
    let host := hostOfTier (lfTier m.leaf)
    let s := if s.ownHome m.leaf then s.keepFwd ⟨m.id, lfFrame m.leaf, pageSize m.big, m.chip, m.frame, host⟩ else s
    (s.broadcast m.id (lfChip m.leaf) host (lfFrame m.leaf) m.tier m.chip m.frame (pageSize m.big)).moveCounts
  else (s.moveFree m).moveEnded m

/-- A move whose destination is lost (Table 5-8): abandoned, the page RESIDENT at its old home. -/
def State.moveAbandon (s : State) (m : Move) : State :=
  let s := ((s.moveStop m.id).moveDone m.id).bump TIER.MOVES.ABANDONED 1
  let s := (s.setLeaf m.ctx m.va (lfWithState m.leaf 0)).pageServed m.ctx m.va m.big
  let s := if m.chip = s.chip ∧ m.tier < 2 then s.freeRunAt m.frame else s
  s.moveFails m stFaulted 0x0505

/-- A move whose page's contents are lost: the page becomes POISONED at its old home. -/
def State.moveDead (s : State) (m : Move) : State :=
  let s := ((s.moveStop m.id).moveDone m.id).setLeaf m.ctx m.va (lfWithState m.leaf 3)
  let s := if m.chip = s.chip ∧ m.tier < 2 then s.freeRunAt m.frame else s
  let s := s.moveFails m stFaulted 0x0505
  if 4 ≤ m.cause ∧ m.cause ≤ 7 then s.handLost m.owner false else s

/-- A move whose source is lost: a lost member's page aborts the job at the next tick (R310), unless the member's own loss has. -/
def State.moveLost (s : State) (m : Move) : State :=
  let s := s.moveDead m
  if lfChip m.leaf = s.chip ∨ s.topo.lost.contains (lfChip m.leaf) then s else { s with topo := { s.topo with abortDue := s.topo.abortDue ++ [(4, lfChip m.leaf)] } }

/-- Whether a home's module or host has gone: another module lost or no longer a member, a host of this module not ATTACHED. -/
def State.homeLost (s : State) (tier chip : Nat) : Bool :=
  !s.member chip || s.topo.lost.contains chip || (chip == s.chip && decide (2 ≤ tier) && !s.attached (tier - 2))

/-- The state of a moving page's leaf: POISONED where a read error has met it on the way (R129, R130). -/
def State.movePoisoned (s : State) (m : Move) : Bool :=
  match s.walk m.ctx m.va with | some (_, _, l) => lfState l == 3 | none => false

/-- PAGE_MOVE_COPY_DONE: every descriptor of step 3 is complete, and steps 4 to 6 follow. -/
def pageMoveCopyDone (i : Nat) (s : State) : State :=
  match s.moveOf i with
  | none => s
  | some m =>
    if m.phase = 5 then s
    else if s.homeLost m.tier m.chip then s.moveAbandon m
    else if s.homeLost (lfTier m.leaf) (lfChip m.leaf) then s.moveLost m
    else if s.movePoisoned m then s.moveDead m
    else if s.moveBusy i then s
    else s.moveCopied m

/-- PAGE_MOVE_COPY_DONE (R119). -/
def execPageMoveCopyDone (move : Nat) (s : State) : Host.Outcome State Fault Refusal := .next (pageMoveCopyDone move s)

/-- MOVE_BROADCAST_COMPLETE (step 6 of Table 5-7): every member has acknowledged. -/
def moveBroadcastComplete (i : Nat) (s : State) : State :=
  match s.moveOf i with
  | none => s
  | some m =>
    if m.phase = 5 && m.await.isEmpty then
      let s := { s with fwds := s.fwds.filter (fun f => f.move != m.id) }
      (s.moveFree m).moveEnded m
    else s

/-- MOVE_BROADCAST_COMPLETE (R119). -/
def execMoveBroadcastComplete (move : Nat) (s : State) : Host.Outcome State Fault Refusal := .next (moveBroadcastComplete move s)

/-! Broadcasts and forwarding replies received (R121, R122). -/

/-- The `i`-th packet of those that have arrived here or wait to be forwarded. -/
def State.inboxAt (s : State) (i : Nat) : Option Packet := s.fabric.inbox[i]?

/-- A packet taken out. -/
def State.inboxDrop (s : State) (i : Nat) : State := { s with fabric := { s.fabric with inbox := s.fabric.inbox.eraseIdx i } }

/-- A packet discarded for its age, and counted (R285). -/
def State.inboxOld (s : State) (i : Nat) : State := (s.inboxDrop i).bump FAB.REQUESTS.LIFETIME 1

/-- A packet discarded for want of a route (R281, R284, R318). -/
def State.noRoute (s : State) (i : Nat) : State := (s.inboxDrop i).bump FAB.REQUESTS.NO_ROUTE 1

/-- A packet that answers another one: to its source, with its tag. -/
def State.answerTo (s : State) (p : Packet) (op units poison host : Nat) (data : List Nat) : State :=
  s.inject { w0 := header0 p.src s.chip op p.tag (s.rd FAB.EPOCH.EPOCH) host p.route 0 poison units p.typ, w1 := s.header1 p.offset, data := data, port := 12, since := s.now }

/-- TIER of a leaf whose home a packet names with HOST: a host of the home's module, else its own memory, which is this module's
SRAM where it lies there (Table 5-6). -/
def State.tierOfHost (s : State) (chip host off : Nat) : Nat :=
  if host = 0 then (if chip = s.chip ∧ sramBase ≤ off then 0 else 1) else host + 1

/-- Every leaf that names a frame of an old home, of the old home's memory or host, rewritten to the new one, through the remote-map
index (R122). DESIGN CHOICE (log 48): a move to no home writes chip 0xFFF, so that later accesses fault as BAD_HOME. -/
def State.rehome (s : State) (oldChip oldHost oldFrame size newChip newFrame host : Nat) : State :=
  (s.remaps.filter (fun r => r.chip == oldChip && decide (oldFrame ≤ r.frame) && decide (r.frame < oldFrame + size))).foldl (fun t r =>
    match t.walk r.ctx r.va with
    | none => t
    | some (_, _, leaf) =>
      let f := newFrame + (r.frame - oldFrame)
      if hostOfTier (lfTier leaf) = oldHost then t.setLeaf r.ctx r.va (lfWithHome leaf (t.tierOfHost newChip host f) newChip f) else t) s

/-- A request translated afresh and sent to its new home (R120, R121). -/
def State.resend (s : State) (r : FabReq) (chip host off : Nat) (forwarded : Bool) : State :=
  let s := { s with fabric := { s.fabric with reqs := s.fabric.reqs.filter (fun q => q.id != r.id) } }
  s.fabSend { r with target := chip, unit := (if r.unit = 15 then 15 else homeUnit off host), host := host, offset := off, forwarded := forwarded, awaitMove := false, tries := 0, route := 0 }

/-- A request that waits at its MMU for its page's translation translated afresh (R121). -/
def State.again (s : State) (r : FabReq) : State :=
  match s.walk r.ctx r.va with
  | none => s
  | some (_, big, leaf) => s.resend r (lfChip leaf) (hostOfTier (lfTier leaf)) (lfFrame leaf + r.offset % pageSize big) false

/-- The requests that wait for a broadcast of an old frame translated afresh. -/
def State.awaited (s : State) (oldChip oldHost oldFrame size : Nat) : State :=
  (s.fabric.reqs.filter (fun r => r.awaitMove && r.target == oldChip && r.host == oldHost && decide (oldFrame ≤ r.offset) && decide (r.offset < oldFrame + size))).foldl
    State.again s

/-- MOVE_NOTE_RECEIVE (R122). -/
def moveNote (i : Nat) (s : State) : State :=
  match s.inboxAt i with
  | none => s
  | some p =>
    if p.op != 0x30 || p.dest != s.chip then s
    else if s.tooOld p then s.inboxOld i
    else if s.rd TOPO.PARTITION.STATE = 0 then s.noRoute i
    else if p.epoch != s.rd FAB.EPOCH.EPOCH then s.inboxDrop i
    else
      let oldChip := leOf (p.data.take 8)
      let oldFrame := leOf ((p.data.drop 8).take 8)
      let newChip := leOf ((p.data.drop 16).take 8)
      let newFrame := leOf ((p.data.drop 24).take 8)
      let size := leOf ((p.data.drop 32).take 8)
      let oldHost := leOf ((p.data.drop 40).take 8)
      let hit := fun chip off => chip == oldChip && decide (oldFrame ≤ off) && decide (off < oldFrame + size)
      let s := s.inboxDrop i
      let s := { s with tlbs := s.tlbs.filter (fun t => !(hit (lfChip t.leaf) (lfFrame t.leaf) && hostOfTier (lfTier t.leaf) == oldHost)) }
      let s := if oldHost = 0 then s.farDrop (fun b => hit (b / 2 ^ 44) (b % 2 ^ 44)) else s
      let s := s.rehome oldChip oldHost oldFrame size newChip newFrame p.host
      (s.awaited oldChip oldHost oldFrame size).answerTo p 0x21 0 0 0 []

/-- MOVE_NOTE_RECEIVE (R122). -/
def execMoveNoteReceive (packet : Nat) (s : State) : Host.Outcome State Fault Refusal := .next (moveNote packet s)

/-- The request a reply answers: by target, tag, and home unit where the home is this request's. -/
def State.answered (s : State) (p : Packet) : Option FabReq :=
  s.fabric.reqs.find? (fun r => r.target == p.src && r.tag == p.tag && !r.waiting && r.offset == p.offset)

/-- A request that has met a second forwarding reply (R121): it waits for the broadcast of the page's latest move, or, where that has
come already and the leaf names another home than the one it was sent to, it is translated afresh at once. -/
def State.forwardedTwice (s : State) (r : FabReq) : State :=
  match s.walk r.ctx r.va with
  | some (_, big, leaf) =>
    if lfChip leaf = r.target ∧ hostOfTier (lfTier leaf) = r.host ∧ lfFrame leaf ≤ r.offset ∧ r.offset < lfFrame leaf + pageSize big then
      { s with fabric := { s.fabric with reqs := s.fabric.reqs.map (fun (q : FabReq) => if q.id = r.id then { q with awaitMove := true, waiting := true } else q) } }
    else s.again r
  | none => s

/-- FORWARD_RECEIVE (R121): one retry at the new home, and the leaf rewritten; a second forwarding reply is not followed. The
reply's offset is that of the requested block at the new home. -/
def forwardReceive (i : Nat) (s : State) : State :=
  match s.inboxAt i with
  | none => s
  | some p =>
    if p.op != 0x23 || p.dest != s.chip then s
    else if s.tooOld p then s.inboxOld i
    else if p.epoch != s.rd FAB.EPOCH.EPOCH then s.inboxDrop i
    else
      let s := s.inboxDrop i
      match s.answered p with
      | none => s.bump FAB.REQUESTS.DUP_ANSWERS 1
      | some r =>
        if r.forwarded then s.forwardedTwice r
        else
          let chip := leOf (p.data.take 2)
          let off := leOf ((p.data.drop 8).take 8)
          let s := match s.walk r.ctx r.va with
            | some (_, _, leaf) =>
              if lfChip leaf = r.target ∧ hostOfTier (lfTier leaf) = r.host then
                let f := off - (r.offset - lfFrame leaf)
                s.setLeaf r.ctx r.va (lfWithHome leaf (s.tierOfHost chip p.host f) chip f)
              else s
            | none => s
          s.resend r chip p.host off true

/-- FORWARD_RECEIVE (R121). -/
def execForwardReceive (packet : Nat) (s : State) : Host.Outcome State Fault Refusal := .next (forwardReceive packet s)

/-! Fault entries (R132–R134). -/

/-- The words of a fault record (Table 5-12): `kind` 0 a first record, 1 redelivered, 2 withdrawn. -/
def FaultEntry.words (e : FaultEntry) (kind : Nat) : List Nat :=
  [e.id % 2 ^ 16 + e.ctx % 2 ^ 10 * 2 ^ 16 + e.kind % 16 * 2 ^ 32 + b2n e.write * 2 ^ 36 + b2n (kind == 2) * 2 ^ 37 + b2n (kind == 1) * 2 ^ 38 + e.engine % 256 * 2 ^ 40,
   e.va, e.time,
   if e.noCmd then 2 ^ 23 else e.seq % 2 ^ 16 + e.chan % 2 ^ 7 * 2 ^ 16]

/-- The entry with an identifier that has a record to be sent. -/
def State.faultToSend (s : State) (i : Nat) : Option FaultEntry := s.faults.find? (fun e => e.id == i && !e.toSend.isEmpty)

/-- FAULT_RECORD_DELIVER (R132): the entry's next record goes to the ring of the context's owner. -/
def faultDeliver (i : Nat) (s : State) : State :=
  match s.faultToSend i with
  | none => s
  | some e =>
    let h := s.rd (SCHED.CTX_STATE.OWNER e.ctx)
    let size := 2 ^ s.rd (MMU.FAULT_RING_CTL.LOG2_SIZE h)
    let tail := s.rd (MMU.FAULT_RING_TAIL.TAIL h)
    if s.rd (SCHED.CTX_STATE.LIFE e.ctx) == 1 && s.attached h && s.is (MMU.FAULT_RING_CTL.ENABLE h) &&
        (tail + 2 ^ 32 - s.rd (MMU.FAULT_RING_HEAD.HEAD h)) % 2 ^ 32 != size then
      let s := s.storeWords (hostKey h (s.rd (MMU.FAULT_RING_BASE.BASE h) * 4096 + 32 * (tail % size))) (e.words (e.toSend.headD 0))
      let s := (s.wr (MMU.FAULT_RING_TAIL.TAIL h) (tail + 1)).raise h (s.rd (MMU.FAULT_RING_CTL.VECTOR h))
      let l := s.faults.map (fun (x : FaultEntry) => if x.id = e.id then { x with toSend := x.toSend.drop 1 } else x)
      { s with faults := l.filter (fun x => x.isOpen || !x.toSend.isEmpty) }
    else s

/-- FAULT_RECORD_DELIVER (R132). -/
def execFaultRecordDeliver (fault : Nat) (s : State) : Host.Outcome State Fault Refusal := .next (faultDeliver fault s)

/-- The open ABSENT entry with an identifier. -/
def State.absentEntry (s : State) (i : Nat) : Option FaultEntry := s.faults.find? (fun e => e.id == i && e.isOpen && e.kind == 2)

/-- A write of MMU.FAULT_RESOLVE (R133, Table 5-15): ACTION 1 refuses an open ABSENT entry; any other write is ignored. -/
def faultResolve (value : Nat) (s : State) : State :=
  match s.absentEntry (bits value 0 16) with
  | none => s
  | some e => if bit value 16 then s.faultEnd e stFaulted 0x0502 else s

/-- FAULT_RESOLVE (R133). -/
def execFaultResolve (src value : Nat) (s : State) : Host.Outcome State Fault Refusal := .next (s.viaSource src (faultResolve value))

/-- FAULT_TIMEOUT (R133, Table 5-13): an ABSENT entry past its timeout; with its owner lost and no adoption, PARTNER_GONE. -/
def faultTimeout (i : Nat) (s : State) : State :=
  match s.absentEntry i with
  | none => s
  | some e =>
    if e.time + 1_000_000 * e.timeout ≤ s.timeBase then
      (s.bump MMU.FAULT_COUNT.TIMED_OUT 1).faultEnd e (if s.rd (SCHED.CTX_STATE.LIFE e.ctx) = 2 then stPartnerGone else stTimedOut) 0
    else s

/-- FAULT_TIMEOUT (R133). -/
def execFaultTimeout (fault : Nat) (s : State) : Host.Outcome State Fault Refusal := .next (faultTimeout fault s)

end Sys2Proof.Machine
end

