-- ==== Sys2Proof/Machine/Movers.lean ====
section
/-! DEFINITION. The movers (R137–R154): descriptors, their checks, requests of at most 4 KiB, the operations of Table 6-3, the
conversions of the base die, ALLTOALL send tables, completion, and the commands that carry one descriptor each (R369). -/

namespace Sys2Proof.Machine

open Sys2Proof

/-! The commands that carry one descriptor (R369). -/

/-- The mover Amelo picks for a command's descriptor (R138). -/
def State.cmdMover (s : State) (c : Cmd) : Nat :=
  s.idlest (s.placeDie c.context (bits (if c.opcode = 0x21 then c.p 2 else c.p 1) 0 57))

/-- The checks of a mover command: its context, and OP (0x0601); the mover checks the rest (R140, R369). -/
def checkMover (op : Nat) (s : State) (c : Cmd) : Option (Nat × Nat) := firstBad [
  (s.ctxBad .owned c, stBadContext, 0),
  (bits (c.p 0) 0 8 != op, stBadParam, 0x0601)]

/-- A mover command: its descriptor joins its queue, where it has room (R138, R143, R369). -/
def moverCmd (s : State) (c : Cmd) : State :=
  let m := s.cmdMover c
  let q := s.moverQueue c.context
  if 64 ≤ s.queueLen m q then s
  else (s.start c.id []).descAdd { id := 0, mover := m, queue := q, ctx := c.context, words := [c.p 0, c.p 1, c.p 2, c.p 3, c.p 4, c.p 5, 0, 0], issuer := 0, owner := c.id, die := m / 4 }

/-- COPY (R147). -/
def execCopy (k : Nat) (s : State) : Host.Outcome State Fault Refusal := .next (s.runCmd k 0x20 always (checkMover 0) moverCmd)
/-- FILL (R147). -/
def execFill (k : Nat) (s : State) : Host.Outcome State Fault Refusal := .next (s.runCmd k 0x21 always (checkMover 1) moverCmd)
/-- GATHER (R147). -/
def execGather (k : Nat) (s : State) : Host.Outcome State Fault Refusal := .next (s.runCmd k 0x22 always (checkMover 2) moverCmd)
/-- SCATTER (R147). -/
def execScatter (k : Nat) (s : State) : Host.Outcome State Fault Refusal := .next (s.runCmd k 0x23 always (checkMover 3) moverCmd)
/-- REDUCE (R147). -/
def execReduce (k : Nat) (s : State) : Host.Outcome State Fault Refusal := .next (s.runCmd k 0x24 always (checkMover 4) moverCmd)
/-- ALLTOALL (R148). -/
def execAlltoall (k : Nat) (s : State) : Host.Outcome State Fault Refusal := .next (s.runCmd k 0x25 always (checkMover 5) moverCmd)

/-! Taking a descriptor (DESCRIPTOR_ISSUE). -/

/-- Where a descriptor's requests come from, for fault records (Table 5-12): its mover, and its command where it serves one. -/
def State.descOrigin (s : State) (d : Desc) (no : Nat) : Origin :=
  let cmd := if d.issuer = 0 then s.cmdOf d.owner else if d.issuer = 1 ∨ d.issuer = 3 ∨ d.kept then (s.launch d.owner).bind (fun l => l.cmd.bind s.cmdOf) else none
  match cmd with
  | some c => { engine := d.mover, seq := c.seq, chan := c.chan % 128, noCmd := false, who := d.who no }
  | none => { engine := d.mover, who := d.who no }

/-- Whether two ranges share a byte. -/
def overlap (a an b bn : Nat) : Bool := decide (a < b + bn) && decide (b < a + an)

/-- A send-table entry: LEN, SRC, DST and COUNTER (Table 6-4). -/
def Desc.entry (d : Desc) (e : Nat) : Nat × Nat × Nat × Nat :=
  (d.table.getD (4 * e) 0, d.table.getD (4 * e + 1) 0, d.table.getD (4 * e + 2) 0, d.table.getD (4 * e + 3) 0)

/-- The DETAIL of a send table's first bad entry (R148). -/
def tableFault : List Nat → Option Nat
  | l :: a :: b :: c :: r =>
    if l % 64 != 0 || a % 64 != 0 || b % 64 != 0 || c % 8 != 0 then some 0x0602
    else if decide (2 ^ 32 ≤ l) || decide (2 ^ 57 ≤ a) || decide (2 ^ 57 ≤ b) || decide (2 ^ 57 ≤ c) then some 0x0606
    else tableFault r
  | _ => none

/-- The unit in which a descriptor's progress counts: bytes of the side it walks; for ALLTOALL 2^33 an entry. -/
def Desc.size (d : Desc) : Nat :=
  match d.op with
  | 2 => d.length * d.elem
  | 3 => d.length * d.elem
  | 5 => d.length * 2 ^ 33
  | _ => d.length

/-- The read of a send table, and the signal store, as requests of a descriptor. -/
def Desc.tableNo : Nat := 2 ^ 60
/-- The signal store. -/
def Desc.signalNo : Nat := 2 ^ 61

/-- A request's state set, the request entered among the live ones where it is new. -/
def Desc.mark (d : Desc) (no st : Nat) : Desc :=
  if d.live.any (fun r => r.no == no) then { d with live := d.live.map (fun (r : MoverReq) => if r.no = no then { r with state := st } else r) }
  else { d with live := d.live ++ [{ no := no, state := st }] }

/-- The live request that begins at `no`. -/
def Desc.liveAt (d : Desc) (no : Nat) : Option MoverReq := d.live.find? (fun r => r.no == no)

/-- Whether a fabric request of the requester has no answer. -/
def State.outFor (s : State) (w : Parked) : Bool := s.fabric.reqs.any (fun r => r.who.kind % 100 == w.kind && r.who.a == w.a && r.who.b == w.b)

/-- Whether a block that came for the requester is poisoned. -/
def State.poisonFor (s : State) (w : Parked) : Bool := s.fabric.got.any (fun g => g.who == w && g.poison)

/-- What was loaded for one requester dropped. -/
def State.dropFor (s : State) (w : Parked) : State := { s with fabric := { s.fabric with got := s.fabric.got.filter (fun g => g.who != w) } }

/-- Whether a requester is parked behind an open entry (R132). -/
def State.parkedFor (s : State) (w : Parked) : Bool := s.faults.any (fun e => e.isOpen && e.parked.contains w)

/-- A request that must wait or is parked: whether an open entry holds it tells which (R120, R132). A request is counted as it parks. -/
def State.reqStop (s : State) (d : Desc) (no : Nat) : State :=
  if s.parkedFor (d.who no) then
    (s.descMap d.id (fun (x : Desc) => x.mark no 2)).bump (MOVE.EVENTS.FAULTS d.mover) 1
  else if s.outFor (d.who no) then s.descMap d.id (fun (x : Desc) => x.mark no 1)
  else s.descMap d.id (fun (x : Desc) => x.mark no 0)

/-- A request taken up again, counted where it was parked (R150, Table 6-8). -/
def State.replayed (s : State) (d : Desc) (no : Nat) : State :=
  if (d.liveAt no).any (fun r => r.state == 6) then s.bump (MOVE.EVENTS.REPLAYS d.mover) 1 else s

/-- Whether a read or write of a range could do nothing but wait now, in one of its chunks. -/
def State.rangeWaits (s : State) (c va n : Nat) (write atomic : Bool) : Bool := (chunksOf va n).any (fun p => s.mustWait c p.1 write atomic)

/-- Whether a descriptor's own read or store has what it waits for: it is not parked, its blocks have come, its pages are there. -/
def State.ownReady (s : State) (d : Desc) (no va n : Nat) (write : Bool) : Bool :=
  !s.parkedFor (d.who no) && !s.outFor (d.who no) && !s.rangeWaits d.ctx va n write false

/-- Whether a descriptor sends rows that its issuer holds: one of the router or of an expert launch (R167, R175). -/
def Desc.given (d : Desc) : Bool := d.issuer == 3 || d.issuer == 4

/-- Whether the mover holds a descriptor back at the read of its send table (R148): later ones go on meanwhile (R150). -/
def State.tableHeld (s : State) (d : Desc) : Bool :=
  d.op == 5 && !d.given && d.ended.isNone && (descFault d).isNone && !s.ownReady d Desc.tableNo d.src (32 * d.length) false

/-- The descriptor that a queue takes next: the first not taken nor held at its table, once those before it have issued every request,
or, for one with ORDERED set, have completed (R143, Table 6-1). A plain or trump one of a pre-empted context is passed over (R151). -/
def State.nextDescOf (s : State) (m q : Nat) : Option Desc :=
  let mine := s.descs.filter (fun d => d.mover == m && d.queue == q)
  match mine.find? (fun d => !d.issued && !(q != 0 && s.is (SCHED.CTX_STATE.PREEMPTED d.ctx)) && !s.tableHeld d) with
  | none => none
  | some d =>
    if mine.any (fun e => e.issued && !e.halted && e.ended.isNone && decide (e.next < e.total)) then none
    else if d.ordered && mine.any (fun e => decide (e.id < d.id)) then none
    else some d

/-- A descriptor taken that moves no byte: it ends with a status. -/
def State.descFails (s : State) (d : Desc) (st det : Nat) : State :=
  (s.descMap d.id (fun (x : Desc) => { x with issued := true, total := 0, next := 0, ended := (if x.ended.isNone then some (st, det) else x.ended), live := [] })).moverRegs d.mover

/-- A send table read and checked whole before any entry runs (R148); poisoned data of it is a POISONED page's (R133). -/
def State.tableRead (s : State) (d : Desc) : State :=
  if s.poisonFor (d.who Desc.tableNo) then
    ((s.dropFor (d.who Desc.tableNo)).bump (MOVE.EVENTS.POISON_READS d.mover) 1).descFails d stFaulted 0x0505
  else match (s.replayed d Desc.tableNo).fetch (s.descOrigin d Desc.tableNo) d.ctx d.src (32 * d.length) with
    | .stop s => (s.reqStop d Desc.tableNo).moverRegs d.mover
    | .bad s det => s.descFails d stFaulted det
    | .bytes l s =>
      let t := (List.range (4 * d.length)).map (fun i => leOf ((l.drop (8 * i)).take 8))
      let s := s.dropFor (d.who Desc.tableNo)
      match tableFault t with
      | some det => s.descFails d stBadParam det
      | none => (s.descMap d.id (fun (x : Desc) => { x with issued := true, table := t, total := d.size, live := [] })).moverRegs d.mover

/-- DESCRIPTOR_ISSUE (R140, R148): the descriptor checked; a failed one moves no byte. -/
def descIssue (m q : Nat) (s : State) : State :=
  match s.nextDescOf m q with
  | none => s
  | some d =>
    if d.ended.isSome then s.descFails d 0 0
    else match s.descBad d with
    | some det => s.descFails d stBadParam det
    | none =>
      if d.op = 5 ∧ !d.given then s.tableRead d
      else
        let snap := if d.queue != 0 && !d.kept && d.op == 0 && d.convert == 0 && overlap d.src d.length d.dst d.length then s.mem else []
        (s.descMap d.id (fun (x : Desc) => { x with issued := true, total := d.size, snap := snap })).moverRegs m

/-- DESCRIPTOR_ISSUE (R140). -/
def execDescriptorIssue (mover queue : Nat) (s : State) : Host.Outcome State Fault Refusal := .next (descIssue mover queue s)

/-! Atomics (R290). -/

/-- Whether −0 is the lesser of two zeros, else the numbers' order (R290). -/
def numLess (a b : Num) : Bool :=
  match a, b with
  | .fin na 0 _, .fin nb 0 _ => na && !nb
  | _, _ => a.lt b

/-- MIN (`mx` false) or MAX of two FP patterns: a NaN is missing data, two NaNs give the quiet NaN (R290). -/
def fpPick (read : Nat → Num) (quiet : Nat) (mx : Bool) (a b : Nat) : Nat :=
  match (read a).isNan, (read b).isNan with
  | true, true => quiet
  | true, false => b
  | false, true => a
  | false, false => if mx then (if numLess (read a) (read b) then b else a) else (if numLess (read b) (read a) then b else a)

/-- One element combined: function 0 add, 1 min, 2 max; TYPE as Table 12-4. -/
def atomicElem (fn typ a b : Nat) : Nat :=
  match typ with
  | 0 => if fn = 0 then (a + b) % 2 ^ 32 else if (toSigned 32 a < toSigned 32 b) = (fn = 1) then a else b
  | 1 => if fn = 0 then (a + b) % 2 ^ 64 else if (toSigned 64 a < toSigned 64 b) = (fn = 1) then a else b
  | 2 => if fn = 0 then add32 a b else fpPick num32 0x7FC0_0000 (fn == 2) a b
  | _ =>
    let lo := if fn = 0 then add16 (a % 2 ^ 16) (b % 2 ^ 16) else fpPick num16 0x7FC0 (fn == 2) (a % 2 ^ 16) (b % 2 ^ 16)
    let hi := if fn = 0 then add16 (a / 2 ^ 16) (b / 2 ^ 16) else fpPick num16 0x7FC0 (fn == 2) (a / 2 ^ 16) (b / 2 ^ 16)
    lo + hi * 2 ^ 16

/-- Bytes of an element of a TYPE. -/
def elemSize (typ : Nat) : Nat := if typ = 1 then 8 else 4

/-- Every element of a block combined with the block's of the other operand. -/
def atomicBlock (fn typ : Nat) (old new : List Nat) : List Nat :=
  let n := elemSize typ
  (List.range (old.length / n)).flatMap (fun i => leVals n (atomicElem fn typ (leOf ((old.drop (n * i)).take n)) (leOf ((new.drop (n * i)).take n))))

/-! Requests (R141, R144). -/

/-- One request of a descriptor: its reads (address, bytes), its writes, and how far it takes the descriptor. -/
structure Req where
  read : Option (Nat × Nat) := none
  write : Nat := 0
  bytes : Nat := 0
  step : Nat

/-- The least of the rest of two 4 KiB chunks and what remains. -/
def cut (a b rest : Nat) : Nat := min (min (4096 - a % 4096) (4096 - b % 4096)) rest

/-- A request that moves bytes of one range to another, `rest` of them left; rows that the issuer holds are read from no range, and bytes
for a working buffer are written to none. -/
def Desc.copyReq (d : Desc) (a b rest : Nat) : Req :=
  if d.kept then let n := cut a a rest; { read := some (a, n), bytes := n, step := n }
  else if d.given then let n := cut b b rest; { write := b, bytes := n, step := n }
  else let n := cut a b rest; { read := some (a, n), write := b, bytes := n, step := n }

/-- The request of a descriptor that begins at `no`; `idx` is the index of an indexed element. DESIGN CHOICE (log 48): a converting COPY
whose BF16 address is not 4 KiB aligned takes its 4,096-byte pieces from that address on, each over two chunks (R149). -/
def Desc.req (d : Desc) (no idx : Nat) : Req :=
  match d.op with
  | 1 => let n := cut (d.dst + no) (d.dst + no) (d.length - no); { write := d.dst + no, bytes := n, step := n }
  | 2 =>
    let o := no % d.elem
    let a := d.src + idx * d.stride + o
    let n := cut a (d.dst + no) (d.elem - o)
    { read := some (a, n), write := d.dst + no, bytes := n, step := n }
  | 3 =>
    let o := no % d.elem
    let a := d.dst + idx * d.stride + o
    let n := cut a (d.src + no) (d.elem - o)
    { read := some (d.src + no, n), write := a, bytes := n, step := n }
  | 5 =>
    let (len, src, dst, ctr) := d.entry (no / 2 ^ 33)
    let o := no % 2 ^ 33
    if o < len then d.copyReq (src + o) (dst + o) (len - o)
    else { write := ctr, bytes := 0, step := 2 ^ 33 - o }
  | _ =>
    if d.convert = 0 then d.copyReq (d.src + no) (d.dst + no) (d.length - no)
    else if d.convert ≤ 2 then { read := some (d.src + no, 4096), write := d.dst + no / 4096 * recordBytes d.convert, bytes := recordBytes d.convert, step := 4096 }
    else { read := some (d.src + no / 4096 * recordBytes d.convert, recordBytes d.convert), write := d.dst + no, bytes := 4096, step := 4096 }

/-- Whether the request at `no` is an entry's counter add. -/
def Desc.isAdd (d : Desc) (no : Nat) : Bool := d.op == 5 && decide ((d.entry (no / 2 ^ 33)).1 ≤ no % 2 ^ 33)

/-- The request of an entry of the live ones, with its index where it has one. -/
def Desc.reqOf (d : Desc) (no : Nat) : Req := d.req no (((d.liveAt no).bind MoverReq.idx).getD 0)

/-- The tier of a leaf's home, 0 for tier 1 of Table 5-6 and so on. -/
def State.leafTier (s : State) (l : Nat) : Nat :=
  if 2 ≤ lfTier l then 3 else if lfChip l != s.chip then 2 else if lfTier l = 1 then 1 else 0

/-- The tier of a page's home. -/
def State.tierAt (s : State) (c va : Nat) : Nat :=
  match s.walk c va with
  | some (_, _, l) => s.leafTier l
  | none => 0

/-- A request's bytes written: an indexed element whose pieces share one slot goes on to its next piece, any other request is complete
(R141). -/
def Desc.donePart (d : Desc) (no : Nat) (r : Req) : Desc :=
  if (d.liveAt no).any (fun q => decide (no + r.step < q.stop)) then
    { d with live := d.live.map (fun (q : MoverReq) => if q.no = no then { q with no := no + r.step, state := 0 } else q) }
  else d.mark no 3

/-- Bytes of a request counted for the mover, the descriptor and the tier they went to. -/
def State.reqBytes (s : State) (d : Desc) (no tier : Nat) (r : Req) : State :=
  let s := (s.dropFor (d.who no)).descMap d.id (fun (x : Desc) => { x.donePart no r with bytes := x.bytes + r.bytes, tiers := x.tiers.set tier (x.tiers.getD tier 0 + r.bytes) })
  s.bump (MOVE.BYTES.BYTES d.mover) r.bytes

/-- Bytes put into a working buffer in their place: the latents first, the position keys, which TAG 1 marks, 128 KiB on (R191). -/
def State.bufferPut (s : State) (d : Desc) (no : Nat) (l : List Nat) : State :=
  s.launchMap d.owner (fun x => x.partMap d.die (fun p => { p with buffer := aPut p.buffer (131_072 * d.tag + no) l }))

/-- A request completed. -/
def State.reqDone (s : State) (d : Desc) (no : Nat) (r : Req) : State := s.reqBytes d no (s.tierAt d.ctx r.write) r

/-- A request that ends its descriptor with FAULTED: it has moved nothing. -/
def State.reqBad (s : State) (d : Desc) (no det : Nat) : State :=
  s.descMap d.id (fun (x : Desc) => { x.mark no 5 with ended := (if x.ended.isNone then some (stFaulted, det) else x.ended) })

/-- Each 64-byte block of an overlapping copy: a block outside the overlap takes the source as it stood, one inside it a free
choice of that and the source as it stands (Table 6-3). -/
def Desc.overlapBytes (d : Desc) (s : State) (no n : Nat) (now : List Nat) : List Nat :=
  (List.range (n / 64)).flatMap (fun i =>
    let cur := (now.drop (64 * i)).take 64
    let old := match s.walk d.ctx (d.src + no + 64 * i) with
      | some (_, big, l) => match s.locate l ((d.src + no + 64 * i) % pageSize big) with
        | .here k => nats (memBytes d.snap k 64)
        | .far _ _ _ => cur
      | none => cur
    if overlap (d.dst + no + 64 * i) 64 d.src d.length && Config.freeChoice (s.freeCtr + i) % 2 == 1 then cur else old)

/-- A request's data combined at its destination element by element, each block as one atomic at its home (R147). -/
def State.reduceBlocks (s : State) (d : Desc) (no va : Nat) (data : List Nat) : State :=
  (List.range (data.length / 64)).foldl (fun t i =>
    let a := va + 64 * i
    let blk := (data.drop (64 * i)).take 64
    match t.access d.ctx a true true with
    | .ok (.here k) _ => t.storeBytes k (toBytes (atomicBlock d.redFn d.redType (nats (memBytes t.mem k 64)) blk))
    | .ok (.far chip _ off) _ => t.remoteAtomic chip off (0x10 + d.redFn) d.redType blk d.ctx a (d.who no)
    | _ => t) s

/-- The data a request writes for the data it read. -/
def Desc.datum (d : Desc) (s : State) (no : Nat) (r : Req) (l : List Nat) : List Nat :=
  match d.op with
  | 1 => (List.range (r.bytes / 8)).flatMap (fun _ => leVals 8 (d.w 4))
  | _ =>
    if d.given then (d.rows.drop (if d.op = 5 then (d.entry (no / 2 ^ 33)).2.1 + no % 2 ^ 33 else no)).take r.bytes
    else if d.convert ≥ 3 then fromRecord d.convert l else if d.convert ≥ 1 then toRecord d.convert l
         else if d.snap.isEmpty then l else d.overlapBytes s no r.bytes l

/-- A request's writes made, or sent and awaited. -/
def State.reqWrite (s : State) (d : Desc) (no : Nat) (r : Req) (l : List Nat) : State :=
  let o := s.descOrigin d no
  let data := d.datum s no r l
  let s := if d.snap.isEmpty then s else { s with freeCtr := s.freeCtr + r.bytes / 64 }
  let s := if d.convert ≥ 3 then s.convertErrors d.convert (match s.walk d.ctx r.write with | some (_, big, lf) => stackOf (lfFrame lf + r.write % pageSize big) | none => 0) [l] else s
  if d.op = 4 then
    match (chunksOf r.write r.bytes).foldl (checkChunk o d.ctx true) (.ok s) with
    | .bad s det => s.reqBad d no det
    | .stop s => s.reqStop d no
    | .ok s =>
      let s := s.reduceBlocks d no r.write data
      if s.outFor (d.who no) then s.descMap d.id (fun (x : Desc) => x.mark no 4) else s.reqDone d no r
  else match s.put o d.ctx r.write data with
    | .bad s det => s.reqBad d no det
    | .stop s => s.reqStop d no
    | .ok s => if s.outFor (d.who no) then s.descMap d.id (fun (x : Desc) => x.mark no 4) else s.reqDone d no r

/-- An ALLTOALL entry's counter raised by 1 by a fabric fetch-add, once its data is visible (R148); not where a request of the entry has
ended with nothing moved. -/
def State.reqAdd (s : State) (d : Desc) (no : Nat) (r : Req) : State :=
  let e := no / 2 ^ 33
  if d.live.any (fun x => x.no != no && x.no / 2 ^ 33 == e && !x.over) then s.descMap d.id (fun (x : Desc) => x.mark no 0)
  else if d.live.any (fun x => x.no / 2 ^ 33 == e && x.state == 5) then s.descMap d.id (fun (x : Desc) => x.mark no 5)
  else match s.access d.ctx r.write true true with
    | .ok (.here k) _ => (s.store k 8 ((s.load k 8 + 1) % 2 ^ 64)).noteArrivals.reqDone d no r
    | .ok (.far chip _ off) _ =>
      (s.remoteAtomic chip off 0x15 1 (leVals 8 1 ++ List.replicate 56 0) d.ctx r.write (d.who no)).descMap d.id (fun (x : Desc) => x.mark no 4)
    | .wait => s.descMap d.id (fun (x : Desc) => x.mark no 0)
    | .serve kind =>
      let o := s.descOrigin d no
      (s.openFault d.ctx kind true r.write o.engine o.seq o.chan o.noCmd o.who).reqStop d no
    | .bad det => s.reqBad d no det

/-- Whether a BF16 chunk of a converting request is homed in this module's HBM (R149). -/
def State.bf16Home (s : State) (c va n : Nat) : Bool :=
  (chunksOf va n).all (fun p => match s.access c p.1 false false with
    | .ok (.here _) l => lfTier l == 1
    | .ok (.far _ _ _) _ => false
    | _ => true)

/-- A request issued, or taken up again: its chunks translated before any byte moves (R141). -/
def State.reqGoOn (s : State) (d : Desc) (no idx : Nat) : State :=
  let r := d.req no idx
  let o := s.descOrigin d no
  if d.isAdd no then s.reqAdd d no r
  else if d.kept then
    match (if d.issuer = 6 then .bytes (nats (memBytes s.mem (devKey (d.src + no)) r.bytes)) s else s.fetch o d.ctx (d.src + no) r.bytes) with
    | .bytes l s => (s.bufferPut d no l).reqBytes d no 0 r
    | .stop s => s.reqStop d no
    | .bad s det => s.reqBad d no det
  else if s.poisonFor (d.who no) then ((s.dropFor (d.who no)).bump (MOVE.EVENTS.POISON_READS d.mover) 1).reqBad d no 0x0505
  else if d.convert != 0 && !s.bf16Home d.ctx (if d.convert ≤ 2 then d.src + no else r.write) 4096 then s.reqBad d no 0x0610
  else match r.read with
    | none => s.reqWrite d no r []
    | some (a, n) =>
      match (chunksOf r.write r.bytes).foldl (checkChunk o d.ctx (d.op == 4)) (.ok s) with
      | .bad s det => s.reqBad d no det
      | .stop s => s.reqStop d no
      | .ok s =>
        match s.fetch o d.ctx a n with
        | .bytes l s => s.reqWrite d no r l
        | .stop s => s.reqStop d no
        | .bad s det => s.reqBad d no det

/-- The global blocks that a range of a context names, as runs (first byte and bytes, each a number that holds chip, host and offset), where
its pages are mapped. -/
def State.placesOf (s : State) (c va n : Nat) : List (Nat × Nat) :=
  (chunksOf (va / 64 * 64) (va % 64 + n)).filterMap (fun p => match s.walk c p.1 with
    | some (_, big, l) => if lfState l = 2 then none
      else some ((lfChip l * 4 + hostOfTier (lfTier l)) * 2 ^ 44 + lfFrame l + p.1 % pageSize big, alignUp p.2 64)
    | none => none)

/-- Whether two writes share a 64-byte block: of one context by their addresses, of any by their homes (R144). -/
def State.sameBlock (s : State) (c va n c' va' n' : Nat) : Bool :=
  (c == c' && overlap (va / 64 * 64) (alignUp (va % 64 + n) 64) (va' / 64 * 64) (alignUp (va' % 64 + n') 64)) ||
    (s.placesOf c va n).any (fun p => (s.placesOf c' va' n').any (fun q => overlap p.1 p.2 q.1 q.2))

/-- Whether a request, or one of an earlier descriptor of its queue, has a destination still unknown: an element of SCATTER whose index
is not read. -/
def Desc.blind (d : Desc) (no : Nat) : Bool := d.op == 3 && (((d.liveAt no).bind MoverReq.idx).isNone)

/-- Whether the request at `no` writes a 64-byte block that an earlier descriptor of its queue has still to write (R144). -/
def State.behind (s : State) (d : Desc) (no : Nat) : Bool :=
  let r := d.reqOf no
  d.queue != 0 && !d.kept && s.descs.any (fun e => e.mover == d.mover && e.queue == d.queue && !e.kept && decide (e.id < d.id) &&
    e.live.any (fun q => !q.over && decide (q.no < Desc.tableNo) && (e.blind q.no || (!d.blind no && s.sameBlock e.ctx (e.reqOf q.no).write (e.reqOf q.no).bytes d.ctx r.write r.bytes))))

/-- The address of an indexed request's index. -/
def Desc.indexVa (d : Desc) (no : Nat) : Nat := bits (d.w 4) 0 57 + 4 * (no / d.elem)

/-- A request gone on with, its index read first where it is indexed. A new request takes the piece of its element that its chunks hold;
one whose index had to wait takes the element's pieces one after the other (R141). -/
def State.reqRun (s : State) (d : Desc) (no : Nat) : State :=
  if d.op = 2 ∨ d.op = 3 then
    match (d.liveAt no).bind MoverReq.idx with
    | some i => s.reqGoOn d no i
    | none =>
      match s.fetch (s.descOrigin d no) d.ctx (d.indexVa no) 4 with
      | .bytes l s =>
        let i := leOf l
        let put (x : Desc) : Desc := { x with live := x.live.map (fun (r : MoverReq) => if r.no = no then { r with idx := some i } else r) }
        let s := (s.dropFor (d.who no)).descMap d.id put
        if s.behind (put d) no then s.descMap d.id (fun (x : Desc) => x.mark no 0) else s.reqGoOn (put d) no i
      | .stop s => s.reqStop d no
      | .bad s det => s.reqBad d no det
  else s.reqGoOn d no 0

/-! The requests of page moves (R119, R138). -/

/-- A page move's request: the chunk's bytes read at the old home, converted where the move converts, and written at the new one. -/
def State.moveReq (s : State) (d : Desc) (no : Nat) (m : Move) : State :=
  let r := d.req no 0
  let off := d.src - m.va + no
  let (ra, rn) := if 3 ≤ m.convert then (off / 4096 * recordBytes m.convert, recordBytes m.convert) else (off, r.step)
  let wa := if m.convert = 1 ∨ m.convert = 2 then off / 4096 * recordBytes m.convert else off
  let w := d.who no
  let put (s : State) (l : List Nat) : State :=
    let s := if 3 ≤ m.convert then s.convertErrors m.convert (stackOf (m.frame + off)) [l] else s
    let data := if 3 ≤ m.convert then fromRecord m.convert l else if 1 ≤ m.convert then toRecord m.convert l else l
    match s.locate m.newLeaf wa with
    | .here k => (s.storeBytes k (toBytes data)).reqBytes d no (s.leafTier m.newLeaf) r
    | .far chip host a =>
      let s := (List.range (ceilDiv data.length 256)).foldl (fun (t : State) i =>
        t.remoteStore chip host (a + 256 * i) ((data.drop (256 * i)).take 256) m.ctx m.va w) (s.dropFor w)
      s.descMap d.id (fun (x : Desc) => x.mark no 4)
  if s.poisonFor w then ((s.dropFor w).bump (MOVE.EVENTS.POISON_READS d.mover) 1).reqBad d no 0x0505
  else match s.locate m.leaf ra with
    | .here k => put s (nats (memBytes s.mem k rn))
    | .far chip host a => match s.farRange w m.ctx m.va chip host a rn 0 with
      | (l, s, true) => put s l
      | (_, s, false) => s.descMap d.id (fun (x : Desc) => x.mark no 1)

/-- Whether every access granted before a move's step 1 has completed at the old home (Table 5-7 step 2): no request made before it is
unanswered there. -/
def State.oldQuiet (s : State) (m : Move) : Bool :=
  s.fabric.reqs.all (fun r => decide (m.before ≤ r.id) || r.target != lfChip m.leaf || r.host != hostOfTier (lfTier m.leaf) ||
    decide (r.offset + 64 * r.units ≤ lfFrame m.leaf) || decide (lfFrame m.leaf + pageSize m.big ≤ r.offset))

/-- Whether a service descriptor may begin its copy. -/
def State.mayCopy (s : State) (d : Desc) : Bool := d.queue != 0 || (s.moveOf d.owner).any s.oldQuiet

/-! Issue (R143, R150). -/

/-- Whether a live request has what it waits for: its pages are there again, its blocks have come, its writes are answered. -/
def State.reqReady (s : State) (d : Desc) (q : MoverReq) : Bool :=
  if Desc.tableNo ≤ q.no then false
  else if q.state = 0 ∨ q.state = 6 then
    let r := d.reqOf q.no
    d.queue == 0 ||
      (if (d.op == 2 || d.op == 3) && q.idx.isNone then !s.rangeWaits d.ctx (d.indexVa q.no) 4 false false
       else if d.isAdd q.no then !s.mustWait d.ctx r.write true true && !d.live.any (fun x => x.no != q.no && x.no / 2 ^ 33 == q.no / 2 ^ 33 && !x.over)
       else if d.kept then d.issuer == 6 || !s.rangeWaits d.ctx (d.src + q.no) r.bytes false false
       else !s.behind d q.no && !s.rangeWaits d.ctx r.write r.bytes true (d.op == 4) &&
         (match r.read with | some (a, n) => !s.rangeWaits d.ctx a n false false | none => true))
  else (q.state == 1 || q.state == 4) && !s.outFor (d.who q.no)

/-- Slots of a queue (R143). -/
def State.slotsFor (s : State) (q : Nat) : Nat := if q = 0 then 64 else if q = 1 then 448 else 448 - s.rd MOVE.TRUMP_RESERVE.SLOTS

/-- The live request of a queue that goes on next, one issued again before new ones (R150). -/
def State.liveNext (s : State) (m q : Nat) : Option (Desc × Nat) :=
  (s.descs.filter (fun d => d.mover == m && d.queue == q)).findSome? (fun d => (d.live.find? (s.reqReady d)).map (fun r => (d, r.no)))

/-- The descriptor of a queue whose next request may issue: a slot of the queue's share and of the 512 is free. -/
def State.newNext (s : State) (m q : Nat) : Option Desc :=
  if decide (s.slotsFor q ≤ s.queueOut m q) || decide (512 ≤ s.moverOut m) then none
  else s.descs.find? (fun d => d.mover == m && d.queue == q && d.issued && !d.halted && d.ended.isNone && decide (d.next < d.total) &&
    !(q != 0 && s.is (SCHED.CTX_STATE.PREEMPTED d.ctx)) && s.mayCopy d && !s.behind d d.next)

/-- A request of a descriptor taken on, by its queue. -/
def State.reqStep (s : State) (d : Desc) (no : Nat) : State :=
  if d.queue = 0 then (match s.moveOf d.owner with | some m => s.moveReq d no m | none => s) else s.reqRun d no

/-- A live request taken up: an answered write completes, a replay is counted. -/
def State.liveGo (s : State) (d : Desc) (no : Nat) : State :=
  if (d.liveAt no).any (fun q => q.state == 4) then
    if d.queue = 0 then s.reqBytes d no (((s.moveOf d.owner).map (fun m => s.leafTier m.newLeaf)).getD 0) (d.req no 0)
    else s.reqDone d no (d.reqOf no)
  else (s.replayed d no).reqStep d no

/-- The index of the element at `no` where it can be read at once. -/
def State.indexNow (s : State) (d : Desc) (no : Nat) : Option Nat :=
  match s.fetch (s.descOrigin d no) d.ctx (d.indexVa no) 4 with
  | .bytes l _ => some (leOf l)
  | _ => none

/-- A new request of a descriptor: it covers what its chunks hold, or, while its index cannot be read, the rest of its element. -/
def State.reqNew (s : State) (d : Desc) : State :=
  let no := d.next
  let indexed := d.op == 2 || d.op == 3
  let idx := if indexed then s.indexNow d no else none
  let rest := d.elem - no % d.elem
  let step := if indexed && idx.isNone then rest else (d.req no (idx.getD 0)).step
  let q : MoverReq := { no := no, state := 1, stop := if indexed && idx.isNone then no + rest else 0 }
  let put (x : Desc) : Desc := { x with live := x.live ++ [q], next := no + step }
  (s.descMap d.id put).reqStep (put d) no

/-- MOVER_REQUEST_ISSUE (R141–R143): service issues first, then trump, then plain. -/
def moverIssue (m : Nat) (s : State) : State :=
  match [0, 1, 2].find? (fun q => (s.liveNext m q).isSome || (s.newNext m q).isSome) with
  | none => s
  | some q =>
    match s.liveNext m q with
    | some (d, no) => (s.liveGo d no).moverRegs m
    | none => match s.newNext m q with
      | some d => (s.reqNew d).moverRegs m
      | none => s

/-! Completion (R146). -/

/-- What a descriptor's end means for the launch that issued it. -/
def State.descLaunch (s : State) (d : Desc) : State :=
  let s := s.launchMap d.owner (fun l =>
    { (l.partMap d.die (fun p => if d.issuer = 1 ∨ d.kept then { p with busy := p.busy - 1 } else p)) with bytesTier := List.zipWith (· + ·) l.bytesTier d.tiers })
  match d.ended with
  | some (st, det) => s.endLaunch d.owner st det
  | none => s

/-- What the end of a page move's descriptor means for the move: poisoned data ends it with its page POISONED (R133). -/
def State.descMove (s : State) (d : Desc) : State :=
  if d.ended.isSome then (match s.moveOf d.owner with | some m => s.moveDead m | none => s) else s

/-- What the end of one of an expert launch's adds means for its area (R175). -/
def State.descArea (s : State) (d : Desc) : State :=
  if d.ended.isSome then { s with areas := s.areas.map (fun (a : Area) => if a.order = d.owner ∧ a.state ≠ 0 then { a with bad := (if a.bad.isNone then d.ended else a.bad) } else a) }
  else s

/-- The client tag whose record carries a descriptor's bytes (R226): the hand's for a move of its cache, else the shared one. -/
def State.descTag (s : State) (d : Desc) : Nat :=
  match (if d.issuer = 2 then s.moveOf d.owner else none) with
  | some m => if 4 ≤ m.cause ∧ m.cause ≤ 7 then s.rd (SERVE.HAND_STATE.CLIENT_TAG m.owner) else 4095
  | none => 4095

/-- A descriptor's bytes charged to its context and to the tag that carries them, or left to be split over its launch's rows (R226, R227). -/
def State.descCharge (s : State) (d : Desc) : State :=
  match d.own.bind s.launch with
  | some l => s.launchMap l.id (fun x => { x with bytesTier := List.zipWith (· + ·) x.bytesTier d.tiers })
  | none => (s.charge d.ctx (·.addBytes d.tiers)).charge (1024 + s.descTag d) (·.addBytes d.tiers)

/-- A descriptor that is complete reports to its issuer and leaves its queue. DESIGN CHOICE (log 48): TOTAL.DESCRIPTORS counts it whatever
status it ends with. -/
def State.descReport (s : State) (d : Desc) : State :=
  let s := { s with descs := s.descs.filter (fun x => x.id != d.id) }
  let s := (if d.queue = 0 then s else s.dropGot (d.who 0)).bump MOVE.TOTAL.DESCRIPTORS 1
  let s := if d.issuer = 1 ∨ d.issuer = 3 ∨ d.kept then s.descLaunch d else s.descCharge d
  let s := if d.issuer = 0 then
      match d.ended with
      | some (st, det) => s.finish d.owner st det d.bytes 0 0
      | none => s.doneWith d.owner d.bytes 0 0
    else if d.issuer = 2 then s.descMove d
    else if d.issuer = 4 then s.descArea d
    else s
  s.moverRegs d.mover

/-- A descriptor whose requests are all over: the signal store is none of them. -/
def Desc.allOver (d : Desc) : Bool := d.issued && d.live.all (fun r => r.over || r.no == Desc.signalNo) && (d.ended.isSome || decide (d.total ≤ d.next))

/-- DESCRIPTOR_COMPLETE (R146): every write visible, the signal is stored, then the issuer told. -/
def descComplete (i : Nat) (s : State) : State :=
  match s.descs.find? (fun d => d.id == i && d.allOver) with
  | none => s
  | some d =>
    if d.ended.isSome || d.signalVa == 0 then s.descReport d
    else if d.signalled then (if s.outFor (d.who Desc.signalNo) then s else s.descReport d)
    else if s.parkedFor (d.who Desc.signalNo) then s
    else match (s.replayed d Desc.signalNo).put (s.descOrigin d Desc.signalNo) d.ctx d.signalVa (leVals 8 (d.w 7)) with
      | .stop s => (s.reqStop d Desc.signalNo).moverRegs d.mover
      | .bad s det => ({ s with descs := s.descs.map (fun (x : Desc) => if x.id = d.id then { x with ended := some (stFaulted, det) } else x) }).descReport { d with ended := some (stFaulted, det) }
      | .ok s => if s.outFor (d.who Desc.signalNo) then s.descMap d.id (fun (x : Desc) => { x with signalled := true }) else s.descReport d

/-- DESCRIPTOR_COMPLETE (R146). -/
def execDescriptorComplete (desc : Nat) (s : State) : Host.Outcome State Fault Refusal := .next (descComplete desc s)

/-! A read of host memory that passes its completion timeout (R378). -/

/-- HOST_READ_TIMEOUT: the next request of a descriptor reads a host of this module, whose answer does not come: counted at the
port, and the descriptor ends as at a POISONED page (Table 6-6, R291). -/
def hostReadTimeout (i : Nat) (s : State) : State :=
  match s.descs.find? (fun d => d.id == i && d.issued && d.ended.isNone && decide (d.next < d.total)) with
  | none => s
  | some d =>
    match (d.req d.next (if d.op = 2 then (s.indexNow d d.next).getD 0 else 0)).read with
    | none => s
    | some (a, _) =>
      match (if d.queue = 0 then (s.moveOf d.owner).map Move.leaf else (s.walk d.ctx a).bind (fun w => if lfState w.2.2 = 0 then some w.2.2 else none)) with
      | none => s
      | some l =>
        if 2 ≤ lfTier l ∧ lfChip l = s.chip then
          let s := (s.bump (HIF.ERRORS.CPL_TIMEOUT (lfTier l - 2)) 1).bump (MOVE.EVENTS.POISON_READS d.mover) 1
          (s.reqBad { d with live := (d.mark d.next 5).live } d.next 0x0505).moverRegs d.mover
        else s

/-- HOST_READ_TIMEOUT (R378). -/
def execHostReadTimeout (desc : Nat) (s : State) : Host.Outcome State Fault Refusal := .next (hostReadTimeout desc s)

end Sys2Proof.Machine
end

