-- ==== Sys2Proof/Machine/Links.lean ====
section
/-! DEFINITION. The link layer (R271–R280): flits, replay, credits, the states of Table 12-3, lane swaps, hellos on a link, and
LINK_ADMIN (R302, R303). -/

namespace Sys2Proof.Machine

open Sys2Proof

/-! Link state. -/

/-- STATE of a link: 0 DOWN, 1 TRAINING, 2 UP, 3 SWAPPING. -/
def State.linkState (s : State) (l : Nat) : Nat := s.rd (FAB.LINK_STATUS.STATE l)

/-- The links of a port. -/
def portLinks (p : Nat) : List Nat := (List.range 8).map (8 * p + ·)

/-- The UP links of a port. -/
def State.upLinks (s : State) (p : Nat) : List Nat := (portLinks p).filter (fun l => s.linkState l == 2)

/-- Whether a port has an UP link. -/
def State.portUp (s : State) (p : Nat) : Bool := !(s.upLinks p).isEmpty

/-- What a port last heard. -/
def State.neighbour (s : State) (p : Nat) : Neighbour := (aFind s.topo.neighbours p).getD {}

/-- A neighbour entry replaced. -/
def State.setNeighbour (s : State) (p : Nat) (n : Neighbour) : State :=
  { s with topo := { s.topo with neighbours := aPut s.topo.neighbours p n } }

/-- A neighbour entry's state changed, with its record (R307). -/
def State.nbState (s : State) (p st : Nat) : State :=
  if s.rd (TOPO.NB_INFO.STATE p) = st then s
  else (s.wr (TOPO.NB_INFO.STATE p) st).record 0x0303 p st (s.rd (TOPO.NB_SERIAL.SERIAL p))

/-- A port's registers brought up to its links; a port that is DOWN has an ABSENT neighbour (R307). -/
def State.portRegs (s : State) (p : Nat) : State :=
  let mask := ((List.range 8).map (fun k => if s.linkState (8 * p + k) = 2 then 2 ^ k else 0)).sum
  let s := s.wr (FAB.PORT_STATUS.LINKS_UP p) mask
  if (portLinks p).all (fun l => s.linkState l == 0) then s.nbState p 0 else s

/-- A link's state and cause set, recorded (0x0301). -/
def State.linkGo (s : State) (l st cause : Nat) : State :=
  let old := s.linkState l
  (((s.wr (FAB.LINK_STATUS.STATE l) st).wr (FAB.LINK_STATUS.DOWN_CAUSE l) cause).record 0x0301 l (st + cause * 2 ^ 8) old).portRegs (l / 8)

/-- The port's stock lane given to a lane of a link, or given back. -/
def State.stockLane (s : State) (l : Nat) (use : Bool) (lane : Nat) : State :=
  s.wrs [(FAB.PORT_STATUS.STOCK_FREE (l / 8), b2n (!use)), (FAB.PORT_STATUS.STOCK_LINK (l / 8), if use then l % 8 else 0), (FAB.PORT_STATUS.STOCK_LANE (l / 8), if use then lane else 0)]

/-! Packets on a link (R273, R274, R276, R287). -/

/-- The bytes of a packet. -/
def Packet.bytes (p : Packet) : List Nat := leVals 8 p.w0 ++ leVals 8 p.w1 ++ p.data

/-- A list cut in pieces of `n`, the last filled with zeros. -/
def piecesOf (n : Nat) : Nat → List Nat → List (List Nat)
  | 0, _ => []
  | fuel + 1, l => if l.isEmpty then [] else (l.take n ++ List.replicate (n - l.length) 0) :: piecesOf n fuel (l.drop n)

/-- The flits of a packet: 240 bytes of the packet stream each (R273). -/
def Packet.flits (p : Packet) : List (List Nat) := piecesOf 240 4 p.bytes

/-- The virtual channel of a packet (R276, R283): 0 REQ0, 1 REQ1, 2 RSP0, 3 RSP1, 4 CTL. -/
def Packet.vc (p : Packet) (cls : Nat) : Nat :=
  if 0x40 ≤ p.op then 4 else if 0x20 ≤ p.op ∧ p.op < 0x30 then 2 + cls else cls

/-- Flits given the link's next numbers, held for replay. -/
def Link.push (k : Link) (flits : List (List Nat)) : Link :=
  flits.foldl (fun (k : Link) f => { k with replay := k.replay ++ [(k.txSeq, f)], txSeq := (k.txSeq + 1) % 4096 }) k

/-- Whether a link can take a packet: UP and not draining, a credit for the channel, room for its flits among the 512 of the
replay buffer (R274, R276). -/
def State.linkTakes (s : State) (l vc n : Nat) : Bool :=
  s.linkState l == 2 && !(s.link l).draining && decide (0 < (s.link l).credits.getD vc 0) && decide ((s.link l).replay.length + n ≤ 512)

/-- A packet sent on a link, which takes one credit of its channel. -/
def State.linkSend (s : State) (l vc : Nat) (p : Packet) : State :=
  let k := (s.link l).push p.flits
  (s.setLink l { k with credits := k.credits.set vc (k.credits.getD vc 0 - 1) }).emit (.packet l vc ([p.w0, p.w1] ++ p.data))

/-- A CTL packet sent on one UP link of a port: the first that can take it. -/
def State.ctlSend (s : State) (port : Nat) (p : Packet) : State :=
  match (s.upLinks port).find? (fun l => s.linkTakes l 4 2) with
  | some l => s.linkSend l 4 p
  | none => s

/-- The flits of a link that are not acknowledged sent again on another UP link of its port (R278, R280); with none they stay
with the link while it swaps, and are lost when it goes DOWN. -/
def State.flitsMove (s : State) (l : Nat) (lose : Bool) : State :=
  let k := s.link l
  match (s.upLinks (l / 8)).filter (fun x => x != l) with
  | x :: _ =>
    let s := (s.setLink x ((s.link x).push (k.replay.map Prod.snd))).setLink l { k with replay := [], replays := 0 }
    if k.replay.isEmpty then s else s.emit (.resend x (((s.link x).replay.map Prod.fst).drop ((s.link x).replay.length - k.replay.length)))
  | [] => if lose then s.setLink l { k with replay := [], replays := 0 } else s

/-! Hellos (R306). -/

/-- The 64 bytes of this module's hello on a port (Table 13-1). -/
def State.helloBytes (s : State) (port : Nat) : List Nat :=
  let placed := s.rd TOPO.PARTITION.STATE != 0
  let place := s.rd TOPO.PARTITION.X + s.rd TOPO.PARTITION.Y * 4 + s.rd TOPO.PARTITION.ZPOS * 16 + 128
  leVals 8 (s.rd HIF.SERIAL.SERIAL) ++ leVals 2 s.chip ++ leVals 2 (s.rd TOPO.CHIP.STRAPS) ++ [port, if placed then place else 0, 0, 0] ++
    leVals 4 (s.rd MGMT.CAPS.FW_VERSION) ++ [0, 0, 0, 0] ++ leVals 2 (s.rd TOPO.PARTITION.ID) ++
    [s.rd FAB.EPOCH.EPOCH + s.rd TOPO.PARTITION.STATE * 16, 0] ++ leVals 4 (s.rd MGMT.TICK.COUNT) ++ List.replicate 32 0

/-- A CTL packet of one unit. -/
def State.ctlPacket (s : State) (op : Nat) (data : List Nat) : Packet :=
  { w0 := header0 0xFFF s.chip op 0 (s.rd FAB.EPOCH.EPOCH) 0 0 0 0 1 0, w1 := s.header1 0, data := data, port := 12, since := s.now }

/-- A hello sent on one UP link of a port. -/
def State.sendHello (s : State) (port : Nat) : State :=
  if s.portUp port then (s.ctlSend port (s.ctlPacket 0x40 (s.helloBytes port))).emit (.hello port (s.helloBytes port)) else s

/-! The transitions of Table 12-3. -/

/-- A link starts training, where its clock domain runs and the root clock is ready (R280, R440). -/
def State.linkTrain (s : State) (l : Nat) : State :=
  if (s.link l).stopped then s
  else
    let s := s.setLink l { s.link l with trainSince := s.now, retrainAt := none, draining := false, swapHold := false, enabled := true }
    s.linkGo l 1 0

/-- FAB.LINK_STATUS of a link and FAB.PORT_STATUS of its port as words. -/
def State.linkWords (s : State) (l : Nat) : Nat × Nat :=
  (s.linkState l + s.rd (FAB.LINK_STATUS.ON_STOCK l) * 2 ^ 3 + s.rd (FAB.LINK_STATUS.HELD_OUT l) * 2 ^ 4 + s.rd (FAB.LINK_STATUS.DOWN_CAUSE l) * 2 ^ 8,
   s.rd (FAB.PORT_STATUS.LINKS_UP (l / 8)) + s.rd (FAB.PORT_STATUS.STOCK_FREE (l / 8)) * 2 ^ 8 + s.rd (FAB.PORT_STATUS.STOCK_LINK (l / 8)) * 2 ^ 9 +
     s.rd (FAB.PORT_STATUS.STOCK_LANE (l / 8)) * 2 ^ 12 + s.rd (FAB.PORT_STATUS.PARTNER (l / 8)) * 2 ^ 16 + s.rd (FAB.PORT_STATUS.PARTNER_VALID (l / 8)) * 2 ^ 28)

/-- The LINK_ADMIN that waits on a link ended, once no link waits for it (R302). -/
def State.adminEnd (s : State) (l st : Nat) : State :=
  match (s.link l).admin with
  | none => s
  | some id =>
    let s := s.setLink l { s.link l with admin := none }
    if st != 0 then
      s.failWith id st 0
    else if (List.range 96).any (fun x => (s.link x).admin == some id) then s
    else s.doneWith id (s.linkWords l).1 (s.linkWords l).2 0

/-- A link goes DOWN with a cause: its flits go to the port's other links, its stock lane back to stock (R280). -/
def State.linkDown (s : State) (l cause : Nat) : State :=
  let s := s.linkGo l 0 cause
  let s := s.flitsMove l true
  let k := s.link l
  let s := if !s.is (FAB.PORT_STATUS.STOCK_FREE (l / 8)) && s.rd (FAB.PORT_STATUS.STOCK_LINK (l / 8)) == l % 8 then s.stockLane l false 0 else s
  let s := (s.wr (FAB.LINK_STATUS.ON_STOCK l) 0).wr (FAB.LINK_STATUS.HELD_OUT l) 0
  (s.setLink l { k with badLane := none, heldOut := none, swapHold := false, draining := false, stream := [] }).adminEnd l stTimedOut

/-- A hello sent on a link. -/
def State.linkHello (s : State) (l : Nat) : State :=
  (if s.linkTakes l 4 2 then s.linkSend l 4 (s.ctlPacket 0x40 (s.helloBytes (l / 8))) else s).emit (.hello (l / 8) (s.helloBytes (l / 8)))

/-- LINK_TRAINED (Table 12-3): both lanes trained within 50 ms; the delay measured is the port's (R301). -/
def linkTrained (l delay : Nat) (s : State) : State :=
  if s.linkState l = 1 ∧ s.now ≤ (s.link l).trainSince + 50_000_000 then
    let s := s.setLink l { s.link l with txSeq := 0, replay := [], replays := 0, rxSeq := 4095, stream := [], credits := [32, 32, 32, 32, 32] }
    let s := { s with fabric := { s.fabric with delays := aPut s.fabric.delays (l / 8) delay } }
    ((s.linkGo l 2 0).linkHello l).adminEnd l 0
  else s

/-- LINK_TRAINED (R280). -/
def execLinkTrained (link delay : Nat) (s : State) : Host.Outcome State Fault Refusal := .next (linkTrained link delay s)

/-- LINK_TRAINING_TIMEOUT (Table 12-3, R302): 50 ms without training; a held-out lane's training likewise fails. -/
def linkTrainingTimeout (l : Nat) (s : State) : State :=
  if (s.link l).trainSince + 50_000_000 ≤ s.now then
    if s.linkState l = 1 then
      let s := (s.linkDown l 4)
      (s.setLink l { s.link l with retrainAt := some (s.now + 1_000_000_000) }).adminEnd l stTimedOut
    else if s.linkState l = 2 ∧ (s.link l).heldOut.isSome then s.adminEnd l stTimedOut
    else s
  else s

/-- LINK_TRAINING_TIMEOUT (R280). -/
def execLinkTrainingTimeout (link : Nat) (s : State) : Host.Outcome State Fault Refusal := .next (linkTrainingTimeout link s)

/-- LINK_RETRAIN (Table 12-3): one second after a training failure. -/
def linkRetrain (l : Nat) (s : State) : State :=
  match (s.link l).retrainAt with
  | some t => if s.linkState l = 0 ∧ t ≤ s.now then s.linkTrain l else s
  | none => s

/-- LINK_RETRAIN (R280). -/
def execLinkRetrain (link : Nat) (s : State) : Host.Outcome State Fault Refusal := .next (linkRetrain link s)

/-- TRAINING_SEEN_FROM_PARTNER (Table 12-3): a DOWN link of a module whose links have been powered up. -/
def trainingSeen (l : Nat) (s : State) : State := if s.linkState l = 0 ∧ (s.link l).enabled then s.linkTrain l else s

/-- TRAINING_SEEN_FROM_PARTNER (R280). -/
def execTrainingSeenFromPartner (link : Nat) (s : State) : Host.Outcome State Fault Refusal := .next (trainingSeen link s)

/-- A swap begun (R278, R279): the link is SWAPPING, its unacknowledged flits go to the port's other UP links. -/
def State.swapStart (s : State) (l lane : Nat) (into hold : Bool) : State :=
  let s := s.setLink l { s.link l with swapIn := into, swapLane := lane, swapHold := hold }
  let s := if into then s.stockLane l true lane else s
  (s.linkGo l 3 0).flitsMove l false

/-- LANE_FAILURE (R277, R278, Table 12-3): lane 0 or 1 of a link fails, or, written 2, both lose lock; a port whose stock lane is taken
has none left (R23). -/
def laneFailure (l lane : Nat) (s : State) : State :=
  if s.linkState l = 2 then
    if lane = 2 then s.linkDown l 5
    else if s.is (FAB.PORT_STATUS.STOCK_FREE (l / 8)) then s.swapStart l lane true false
    else (s.exhausted 5 (l / 8) lane).linkDown l 3
  else if s.linkState l = 3 then
    if lane = 2 then s.linkDown l 5 else if (s.link l).swapLane = lane then s else (s.exhausted 5 (l / 8) lane).linkDown l 3
  else s

/-- LANE_FAILURE (R278). -/
def execLaneFailure (link lane : Nat) (s : State) : Host.Outcome State Fault Refusal := .next (laneFailure link lane s)

/-- LANE_SWAP (R278, R279): at the named boundary both ends exchange lanes and the link is UP again. -/
def laneSwap (l : Nat) (s : State) : State :=
  if s.linkState l = 3 then
    let k := s.link l
    let s := s.setLink l { k with badLane := (if k.swapIn then some k.swapLane else none), heldOut := (if k.swapIn && k.swapHold then some k.swapLane else none), swapHold := false }
    let s := (s.wr (FAB.LINK_STATUS.ON_STOCK l) (b2n k.swapIn)).wr (FAB.LINK_STATUS.HELD_OUT l) (b2n (k.swapIn && k.swapHold))
    let s := if k.swapIn then s else s.stockLane l false 0
    let s := (s.linkGo l 2 0).record 0x0302 (l / 8) (l % 8) (k.swapLane + b2n (!k.swapIn) * 2 ^ 8)
    s.adminEnd l 0
  else s

/-- LANE_SWAP (R278). -/
def execLaneSwap (link : Nat) (s : State) : Host.Outcome State Fault Refusal := .next (laneSwap link s)

/-- LANE_RETRAINED (R279): the failed lane trains again and takes back its place at the next boundary; a lane held out does so only
for FROM_STOCK. -/
def laneRetrained (l lane : Nat) (s : State) : State :=
  let k := s.link l
  if s.linkState l = 2 ∧ k.badLane = some lane ∧ (k.heldOut.isNone ∨ k.admin.isSome) then s.swapStart l lane false false else s

/-- LANE_RETRAINED (R279). -/
def execLaneRetrained (link lane : Nat) (s : State) : Host.Outcome State Fault Refusal := .next (laneRetrained link lane s)

/-- LINK_REPLAY_FAILURE (R274): 16 consecutive replays of one flit. -/
def linkReplayFailure (l : Nat) (s : State) : State :=
  if s.linkState l = 2 ∧ s.rd FAB.LINK_CTL.REPLAY_LIMIT ≤ (s.link l).replays then s.linkDown l 2 else s

/-- LINK_REPLAY_FAILURE (R274). -/
def execLinkReplayFailure (link : Nat) (s : State) : Host.Outcome State Fault Refusal := .next (linkReplayFailure link s)

/-! Flits received (R273, R274). -/

/-- Packets taken from the front of a packet stream, and the rest; a header of zeros is filling. -/
def unpackStream : Nat → List Nat → List (Nat × Nat × List Nat) × List Nat
  | 0, l => ([], l)
  | fuel + 1, l =>
    if l.length < 16 then ([], l)
    else
      let w0 := leOf (l.take 8)
      let w1 := leOf ((l.drop 8).take 8)
      let n := if opHasData (bits w0 24 8) then 64 * bits w0 58 3 else 0
      if w0 = 0 then (unpackStream fuel (l.drop 16))
      else if l.length < 16 + n then ([], l)
      else
        let r := unpackStream fuel (l.drop (16 + n))
        ((w0, w1, (l.drop 16).take n) :: r.1, r.2)

/-- The flits a partner acknowledges up to a SEQ leave the replay buffer. -/
def Link.acked (k : Link) (ack : Nat) : Link :=
  match k.replay.findIdx? (fun f => f.1 == ack) with
  | some i => { k with replay := k.replay.drop (i + 1), replays := 0 }
  | none => k

/-- Credits returned in a flit's last word, 6 bits a channel. -/
def Link.credited (k : Link) (w : Nat) : Link := { k with credits := (List.range 5).map (fun v => k.credits.getD v 0 + bits w (6 * v) 6) }

/-- A flit's payload joins the packet stream; whole packets enter those that have arrived. -/
def State.streamIn (s : State) (l : Nat) (payload : List Nat) : State :=
  let k := s.link l
  let r := unpackStream 64 (k.stream ++ payload)
  let ps := r.1.map (fun p => ({ w0 := p.1, w1 := p.2.1, data := p.2.2, port := l / 8, since := s.now } : Packet))
  let s := s.setLink l { k with stream := r.2 }
  { s with fabric := { s.fabric with inbox := s.fabric.inbox ++ ps } }

/-- FLIT_RECEIVE (R274): a flit that fails its CRC or its SEQ is answered NAK; else its acknowledgement, credits and payload are
taken. A control flit from the partner names a swap (R278): byte 8 of it holds the lane, and bit 1 of that byte is set where the
lane comes back. -/
def flitReceive (l : Nat) (b : List Nat) (s : State) : State :=
  if b.length != 256 || !(s.linkState l == 2 || s.linkState l == 3) then s
  else
    let k := s.link l
    let w := leOf (b.take 8)
    if leOf ((b.drop 248).take 4) != crc32c (b.take 248) then s.emit (.flitAck l 1 k.rxSeq)
    else
      let k := (k.acked (bits w 12 12)).credited (leOf ((b.drop 252).take 4))
      let again := k.replay.map Prod.fst
      let k := if bit w 24 then { k with replays := k.replays + 1 } else k
      let s := s.setLink l k
      let s := if bit w 24 && !again.isEmpty then (s.bump (FAB.LINK_ERRORS.REPLAYS l) again.length).emit (.resend l again) else s
      if bits w 25 2 = 0 then s
      else if bits w 0 12 != (k.rxSeq + 1) % 4096 then s.emit (.flitAck l 1 k.rxSeq)
      else
        let s := (s.setLink l { k with rxSeq := bits w 0 12 }).emit (.flitAck l 0 (bits w 0 12))
        if bits w 25 2 = 1 then s.streamIn l ((b.drop 8).take 240)
        else if bits w 25 2 = 2 ∧ s.linkState l = 2 then s.swapStart l (b.getD 8 0 % 2) (!bit (b.getD 8 0) 1) false
        else s

/-- FLIT_RECEIVE (R274). -/
def execFlitReceive (link : Nat) (bytes : List Nat) (s : State) : Host.Outcome State Fault Refusal := .next (flitReceive link bytes s)

/-! LINK_ADMIN (R302, R303). -/

/-- OP of LINK_ADMIN. -/
def Cmd.adminOp (c : Cmd) : Nat := bits (c.p 0) 8 3
/-- The links a LINK_ADMIN acts on. -/
def Cmd.adminLinks (c : Cmd) : List Nat :=
  if bit (c.p 0) 7 && decide (c.adminOp < 2) then portLinks (bits (c.p 0) 0 4) else [8 * bits (c.p 0) 0 4 + bits (c.p 0) 4 3]
/-- LANE of LINK_ADMIN. -/
def Cmd.adminLane (c : Cmd) : Nat := bits (c.p 0) 11 1
/-- The link whose status a LINK_ADMIN returns. -/
def Cmd.adminLink (c : Cmd) : Nat := 8 * bits (c.p 0) 0 4 + bits (c.p 0) 4 3

/-- The checks of LINK_ADMIN (Table 12-11). -/
def checkLinkAdmin (s : State) (c : Cmd) : Option (Nat × Nat) := firstBad [
  (s.ctxBad .device c, stBadContext, 0),
  (decide (11 < bits (c.p 0) 0 4) || decide (3 < c.adminOp), stBadParam, 0x0C11),
  (!onlyBits (c.p 0) 0xFFF || !c.restZero 1, stBadParam, 0x0C12),
  (c.adminLinks.any (fun l => s.linkState l == 1 || s.linkState l == 3), stBusyRetry, 0),
  ((c.adminOp == 2 && s.linkState c.adminLink != 2) || (c.adminOp == 3 && (s.link c.adminLink).heldOut != some c.adminLane), stBadParam, 0x0C13),
  (c.adminOp == 2 && !s.is (FAB.PORT_STATUS.STOCK_FREE (bits (c.p 0) 0 4)), stNoResource, 0)]

/-- LINK_ADMIN DOWN: no new flits, and DOWN once every flit is acknowledged or 3 µs have passed. -/
def linkAdminDown (s : State) (c : Cmd) : State :=
  let up := c.adminLinks.filter (fun l => s.linkState l == 2)
  if c.aux.isEmpty && up.any (fun l => !(s.link l).replay.isEmpty) then
    (up.foldl (fun t l => t.setLink l { t.link l with draining := true }) s).cmdMap c.id (fun x => { x with aux := [6, s.now] })
  else if up.any (fun l => !(s.link l).replay.isEmpty) && decide (s.now < c.aux.getD 1 0 + 3000) then s
  else
    let s := up.foldl (fun t l => t.linkDown l 1) s
    s.doneWith c.id (s.linkWords c.adminLink).1 (s.linkWords c.adminLink).2 0

/-- LINK_ADMIN_DOWN (R302). -/
def execLinkAdminDown (k : Nat) (s : State) : Host.Outcome State Fault Refusal :=
  .next (s.runCmd k 0x83 (fun c => c.adminOp == 0) checkLinkAdmin linkAdminDown)

/-- LINK_ADMIN UP: DOWN links train, and the command waits for them. -/
def linkAdminUp (s : State) (c : Cmd) : State :=
  let down := c.adminLinks.filter (fun l => s.linkState l == 0)
  if down.isEmpty then s.doneWith c.id (s.linkWords c.adminLink).1 (s.linkWords c.adminLink).2 0
  else
    let s := down.foldl (fun t l => t.linkTrain l |> fun t => t.setLink l { t.link l with admin := some c.id, trainSince := t.now }) s
    s.start c.id []

/-- LINK_ADMIN_UP (R302). -/
def execLinkAdminUp (k : Nat) (s : State) : Host.Outcome State Fault Refusal :=
  .next (s.runCmd k 0x83 (fun c => c.adminOp == 1) checkLinkAdmin linkAdminUp)

/-- TO_STOCK: the stock lane takes the named lane's place, which is then held out. -/
def toStock (s : State) (c : Cmd) : State :=
  let s := s.swapStart c.adminLink c.adminLane true true
  (s.setLink c.adminLink { s.link c.adminLink with admin := some c.id }).start c.id []

/-- TO_STOCK (R302). -/
def execToStock (k : Nat) (s : State) : Host.Outcome State Fault Refusal :=
  .next (s.runCmd k 0x83 (fun c => c.adminOp == 2) checkLinkAdmin toStock)

/-- FROM_STOCK: the named lane trains, and returns at the next boundary once it has (R279). -/
def fromStock (s : State) (c : Cmd) : State :=
  (s.setLink c.adminLink { s.link c.adminLink with admin := some c.id, trainSince := s.now }).start c.id []

/-- FROM_STOCK (R302); also a word whose OP is invalid, which its check refuses. -/
def execFromStock (k : Nat) (s : State) : Host.Outcome State Fault Refusal :=
  .next (s.runCmd k 0x83 (fun c => decide (3 ≤ c.adminOp)) checkLinkAdmin fromStock)

end Sys2Proof.Machine
end

