-- ==== Sys2Proof/Machine/Fabric.lean ====
section
/-! DEFINITION. The link fabric above the links (R281–R301, R307): routing, lifetime, the home's side of a request with its result
store, the requester's side of an answer and of a retry, time messages, hellos received, and INVALIDATE. -/

namespace Sys2Proof.Machine

open Sys2Proof

/-! Forwarding (R281–R284). -/

/-- The class a packet travels in after a hop (R283): 1 once it has crossed its dimension's dateline since it entered it. -/
def State.hopClass (s : State) (p : Packet) (h : Hop) : Nat :=
  let start := if h.dim = 0 then s.rd (FAB.ROUTE.X p.src) else if h.dim = 1 then s.rd (FAB.ROUTE.Y p.src) else s.rd (FAB.ROUTE.ZPOS p.src)
  b2n (if h.plus then decide (h.to' < start) else decide (start < h.to'))

/-- Whether a packet is for this module. -/
def State.mine (s : State) (p : Packet) : Bool := p.dest == s.chip || decide (0x40 ≤ p.op)

/-- The operations of Table 12-5. -/
def knownOp (op : Nat) : Bool := [0x01, 0x02, 0x10, 0x11, 0x12, 0x13, 0x14, 0x15, 0x20, 0x21, 0x22, 0x23, 0x30, 0x40, 0x41, 0x42].contains op

/-- The port and virtual channel by which a packet leaves: none where it stays here or no port leads on (R281–R284). -/
def State.wayOut (s : State) (p : Packet) : Option (Nat × Nat) :=
  if !knownOp p.op || s.mine p || !s.is (FAB.ROUTE.VALID p.dest) then none
  else match s.hop p.dest p.route with
    | none => none
    | some h => (h.ports.find? (fun q => s.portUp q && s.rd (TOPO.NB_INFO.STATE q) != 2)).map (fun q => (q, p.vc (s.hopClass p h)))

/-- An input's place in the order of last grants: 0 for one never granted. -/
def grantRank (served : List Nat) (input : Nat) : Nat := match served.findIdx? (· == input) with | some i => i + 1 | none => 0

/-- Whether the `i`-th packet has its turn on its way out: none before it came by the same port for the same way (Table 2-2), and no
other input that waits there was granted longer ago (R34, R286). -/
def State.outTurn (s : State) (i : Nat) (p : Packet) (w : Nat × Nat) : Bool :=
  let served := (aFind s.fabric.served (8 * w.1 + w.2)).getD []
  (s.fabric.inbox.take i).all (fun x => x.port != p.port || s.wayOut x != some w) &&
    s.fabric.inbox.all (fun x => s.wayOut x != some w || decide (grantRank served p.port ≤ grantRank served x.port))

/-- A grant of a way out to an input. -/
def State.outGrant (s : State) (w : Nat × Nat) (input : Nat) : State :=
  let k := 8 * w.1 + w.2
  let l := ((aFind s.fabric.served k).getD []).filter (fun x => x != input)
  { s with fabric := { s.fabric with served := aPut s.fabric.served k (l ++ [input]) } }

/-- PACKET_FORWARD (R281–R284, R287): the packet leaves in its turn over one link of its port, chosen by the hash of DEST and OFFSET; it
stays while that link holds no credit, and is discarded where its ports are DOWN or in MISMATCH. -/
def packetForward (i : Nat) (s : State) : State :=
  match s.inboxAt i with
  | none => s
  | some p =>
    if !knownOp p.op then s.noRoute i
    else if s.mine p then s
    else if s.tooOld p then s.inboxOld i
    else match s.wayOut p with
      | none => s.noRoute i
      | some w =>
        let up := s.upLinks w.1
        let l := up.getD (Config.linkHash p.dest (p.offset / 256) % up.length) (8 * w.1)
        if s.outTurn i p w && s.linkTakes l w.2 p.flits.length then ((s.inboxDrop i).outGrant w p.port).linkSend l w.2 p else s

/-- PACKET_FORWARD (R282). -/
def execPacketForward (packet : Nat) (s : State) : Host.Outcome State Fault Refusal := .next (packetForward packet s)

/-- PACKET_LIFETIME_EXPIRY (R285). -/
def lifetimeExpiry (i : Nat) (s : State) : State :=
  match s.inboxAt i with
  | none => s
  | some p => if s.tooOld p then s.inboxOld i else s

/-- PACKET_LIFETIME_EXPIRY (R285). -/
def execPacketLifetimeExpiry (packet : Nat) (s : State) : Host.Outcome State Fault Refusal := .next (lifetimeExpiry packet s)

/-! A request at its home (R107, R121, R288–R291, R296, R318). -/

/-- The first offset of the step words (Table 5-2). -/
def stepBase : Nat := 0xF00_0400_0000

/-- Whether a request may reach its offset in this module (R107): device memory, or a step word by LOAD or FETCH_ADD of TYPE 1. -/
def mayReach (p : Packet) : Bool :=
  let n := if p.op = 0x01 ∨ p.op = 0x02 then 64 * p.units else 8
  inDevice p.offset n ||
    (decide (stepBase ≤ p.offset) && decide (p.offset < stepBase + 0x4000) && (p.op == 0x01 || (p.op == 0x15 && p.typ == 1)))

/-- A page of this module's homes that holds an offset: a context's leaf. -/
def State.homeLeaf (s : State) (off : Nat) : Option Nat :=
  s.liveCtxs.findSome? (fun c => ((s.leaves c).find? (fun l => lfState l.2.2 != 2 && lfChip l.2.2 == s.chip && decide (lfTier l.2.2 < 2) &&
    decide (lfFrame l.2.2 ≤ off) && decide (off < lfFrame l.2.2 + pageSize l.2.1))).map (·.2.2))

/-- The answer to a request with poisoned data (R291): DATA of the length asked, a RESULT, or an ACK with POISON set. -/
def State.answerPoison (s : State) (p : Packet) : State :=
  if p.op = 0x01 then s.answerTo p 0x20 p.units 1 0 (List.replicate (64 * p.units) 0xFF)
  else if 0x13 ≤ p.op ∧ p.op ≤ 0x15 then s.answerTo p 0x22 1 1 0 (List.replicate 64 0xFF)
  else s.answerTo p 0x21 0 1 0 []

/-- The key a request acts at: this module's memory, or a host's. -/
def Packet.home (p : Packet) : Nat := if p.host = 0 then devKey p.offset else hostKey (p.host - 1) p.offset

/-- A write applied at its home, and the answer's OP and data (R290): STORE, the block atomics, SWAP, CAS and FETCH_ADD. -/
def State.applyWrite (s : State) (p : Packet) : State × Nat × List Nat :=
  let n := elemSize p.typ
  let k := p.home
  let old := s.load k n
  let arg := leOf (p.data.take n)
  let res := fun (t : State) => (t, 0x22, leVals 8 old ++ List.replicate 56 0)
  if p.op = 0x02 then
    (if p.host = 0 ∨ s.attached (p.host - 1) then s.storeBytes k (toBytes (p.data.take (64 * p.units))) else s, 0x21, [])
  else if p.op ≤ 0x12 then
    let b := devKey (p.offset / 64 * 64)
    (s.storeBytes b (toBytes (atomicBlock (p.op - 0x10) p.typ (nats (memBytes s.mem b 64)) p.data)), 0x21, [])
  else if p.op = 0x13 then res (s.store k n arg)
  else if p.op = 0x14 then res (if old = arg then s.store k n (leOf ((p.data.drop 8).take n)) else s)
  else res (s.store k n (atomicElem 0 p.typ old arg))

/-- SOURCES: the most sources that any home unit's result store holds. -/
def State.storeSources (s : State) : State :=
  let count := fun u => ((s.fabric.results.filter (fun r => r.unit == u)).map StoredResult.src).dedup.length
  s.wr FAB.RESULT_STORE.SOURCES ((List.range 10).foldl (fun m u => max m (count u)) 0)

/-- An answer kept in its home unit's result store: the last 512 of each source (R296). -/
def State.storeResult (s : State) (r : StoredResult) : State :=
  let same := s.fabric.results.filter (fun x => x.unit == r.unit && x.src == r.src)
  let rest := s.fabric.results.filter (fun (x : StoredResult) => !(x.unit == r.unit && x.src == r.src))
  { s with fabric := { s.fabric with results := rest ++ same.drop (same.length - 511) ++ [r] } }.storeSources

/-- Whether an atomic's TYPE is one Table 12-6 gives its OP. -/
def typeOk (p : Packet) : Bool := !(p.op == 0x13 || p.op == 0x14 || p.op == 0x15) || decide (p.typ < (if p.op = 0x15 then 3 else 2))

/-- A request served at its home: answered from the store, or applied once, recorded and answered. -/
def State.serveHome (s : State) (p : Packet) : State :=
  let unit := homeUnit p.offset p.host
  if p.op = 0x01 then s.answerTo p 0x20 p.units 0 0 (nats (memBytes s.mem p.home (64 * p.units)))
  else
    match s.fabric.results.find? (fun r => r.unit == unit && r.src == p.src && r.tag == p.tag) with
    | some r => (s.bump FAB.RESULT_STORE.ANSWERED 1).answerTo p r.op (if r.data.isEmpty then 0 else 1) 0 0 r.data
    | none =>
      let a := s.applyWrite p
      let s := if p.op = 0x02 ∧ p.host = 0 then a.1.ringNote p.offset (64 * p.units) else a.1
      let op := a.2.1
      let data := a.2.2
      (s.storeResult (StoredResult.mk unit p.src p.tag op data)).answerTo p op (if data.isEmpty then 0 else 1) 0 0 data

/-- Whether a request's place lies in an old home, of this module's memory or of a host of it. -/
def Packet.inHome (p : Packet) (host frame size : Nat) : Bool := p.host == host && decide (frame ≤ p.offset) && decide (p.offset < frame + size)

/-- Whether a request waits at its home: for a stack in self-refresh (R440), for room in a ring buffer (R203), or at a page in steps 3 and
4 of its move (R121). -/
def State.homeHolds (s : State) (p : Packet) : Bool :=
  (p.host == 0 && s.offHeld p.offset) || (p.op == 0x02 && p.host == 0 && s.ringFullAt p.offset) ||
    s.moves.any (fun m => m.phase != 5 && s.ownHome m.leaf && p.inHome (hostOfTier (lfTier m.leaf)) (lfFrame m.leaf) (pageSize m.big))

/-- Whether an earlier request that came by the same port for the same home unit has still to be served: packets between two stops of the
mesh stay in order (Table 2-2). One that waits at its home has reached it. -/
def State.notFirst (s : State) (i : Nat) (p : Packet) : Bool :=
  (s.fabric.inbox.take i).any (fun x => x.port == p.port && x.dest == s.chip && (x.op == 0x01 || opIsWrite x.op) && x.host == p.host &&
    homeUnit x.offset x.host == homeUnit p.offset p.host && !s.homeHolds x)

/-- FABRIC_REQUEST_SERVE: a request that waits at its home stays; from step 5 of a move it is forwarded (R121). -/
def fabricServe (i : Nat) (s : State) : State :=
  match s.inboxAt i with
  | none => s
  | some p =>
    if p.dest != s.chip || !(p.op == 0x01 || opIsWrite p.op) then s
    else if s.tooOld p then s.inboxOld i
    else if s.rd TOPO.PARTITION.STATE = 0 then s.noRoute i
    else if p.epoch != s.rd FAB.EPOCH.EPOCH then s.inboxDrop i
    else if s.notFirst i p || s.homeHolds p then s
    else match s.fwds.find? (fun f => p.inHome f.host f.frame f.size) with
      | some f =>
        let host := match s.moveOf f.move with | some m => hostOfTier m.tier | none => 0
        ((s.inboxDrop i).bump TIER.MOVES.FORWARDS 1).answerTo p 0x23 1 0 host
          (leVals 8 f.chip ++ leVals 8 (f.newFrame + (p.offset - f.frame)) ++ List.replicate 48 0)
      | none =>
        let s := s.inboxDrop i
        if (p.host == 0 && !mayReach p) || p.host == 3 || (p.host != 0 && !(p.op == 0x01 || p.op == 0x02)) || !typeOk p then
          (s.record 0x0204 0 p.src p.offset).answerPoison p
        else if p.host != 0 && !s.attached (p.host - 1) && p.op == 0x01 then s.answerPoison p
        else if p.host == 0 && (match s.homeLeaf p.offset with | some l => lfState l == 3 | none => false) then s.answerPoison p
        else if p.host == 0 && p.op == 0x15 then (s.serveHome p).noteArrivals
        else s.serveHome p

/-! An answer at its requester (R291–R299). -/

/-- FAB.HUNG.NOW brought up: requests with four or more retries (R298). -/
def State.hungNow (s : State) : State := s.wr FAB.HUNG.NOW (s.fabric.reqs.filter (fun r => decide (4 ≤ r.tries))).length

/-- A line put into a die's far-read cache: at most 1,048,576 of a die, the one that leaves being unspecified (R292). -/
def State.farFill (s : State) (die block : Nat) (bytes : List Nat) : State :=
  let mine := s.fabric.far.filter (fun l => l.die == die)
  let out := if mine.length < 1_048_576 then none else mine[s.chooseBelow mine.length]?
  let s := if out.isSome then s.took else s
  let far := s.fabric.far.filter (fun l => !(l.die == die && l.block == block) && some l != out)
  { s with fabric := { s.fabric with far := far ++ [FarLine.mk die block bytes] } }.farCount

/-- The lines that an answer to a LOAD fills (R292). -/
def State.farAnswer (s : State) (r : FabReq) (p : Packet) : State :=
  if r.op = 0x01 && r.fill != 0 && !p.poison && r.host == 0 then
    (List.range 8).foldl (fun t d => if bit r.fill d then t.farFill d (globalBlock r.target r.offset) (p.data.take 64) else t) s
  else s

/-- A block kept for the engine that asked for it. -/
def State.gotPut (s : State) (w : Parked) (r : FabReq) (p : Packet) : State :=
  { s with fabric := { s.fabric with got := s.fabric.got ++ [FarData.mk w r.target r.host r.offset (p.data.take 64) p.poison] } }

/-- A command's answer (R289, R365, R366): a WAIT sees its word; a signal's add returns the old value; writes that are all
answered end their command. Poisoned data ends it as a POISONED page does. -/
def State.cmdAnswer (s : State) (r : FabReq) (p : Packet) : State :=
  match s.cmdOf r.who.a with
  | none => s
  | some c =>
    if p.poison then s.failWith c.id stFaulted 0x0505
    else if p.op = 0x20 ∧ r.who.b = 3 ∧ c.opcode = 0x03 then s.waitSee c (leOf ((p.data.drop r.who.c).take 8))
    else if p.op = 0x20 then s.gotPut r.who r p
    else if p.op = 0x22 ∧ r.who.b = 4 then s.gotPut r.who r p
    else if c.aux.headD 0 = 2 ∧ p.op = 0x22 then s.doneWith c.id (leOf (p.data.take 8)) 0 0
    else if c.aux.headD 0 = 1 ∧ !s.hasReqs r.who then s.doneWith c.id c.out0 c.out1 c.out2
    else s

/-- A mover's answer: loaded blocks are kept for the request, a poisoned write answer ends the descriptor. -/
def State.descAnswer (s : State) (r : FabReq) (p : Packet) : State :=
  if p.op = 0x20 then s.gotPut r.who r p
  else if p.poison then s.descMap r.who.a (fun d => { d with ended := (if d.ended.isNone then some (stFaulted, 0x0505) else d.ended) })
  else s

/-- A block loaded to be merged with a write of part of it: the bytes are put in place and the block stored. -/
def State.mergeAnswer (s : State) (r : FabReq) (p : Packet) : State :=
  let w := { r.who with kind := r.who.kind - 100 }
  if p.poison then
    if w.kind = 1 then s.failWith w.a stFaulted 0x0505
    else if w.kind = 0 then s.descMap w.a (fun d => { d with ended := (if d.ended.isNone then some (stFaulted, 0x0505) else d.ended) })
    else if w.kind = 2 then s.endLaunch w.a stFaulted 0x0505 else s
  else
    let lo := r.data.headD 0
    let new := r.data.drop 1
    let data := p.data.take lo ++ new ++ (p.data.drop (lo + new.length)).take (64 - lo - new.length)
    s.fabSend { id := 0, target := r.target, unit := homeUnit r.offset r.host, op := 0x02, host := r.host, units := 1, offset := r.offset, data := data,
                ctx := r.ctx, va := r.va, order := r.order, who := w }

/-- FABRIC_ANSWER_RECEIVE (R297): the first answer for a tag; a later one, or one with no request, is discarded and counted, one of
another epoch discarded. -/
def fabricAnswer (i : Nat) (s : State) : State :=
  match s.inboxAt i with
  | none => s
  | some p =>
    if p.dest != s.chip || !(p.op == 0x20 || p.op == 0x21 || p.op == 0x22) then s
    else if s.tooOld p then s.inboxOld i
    else if p.epoch != s.rd FAB.EPOCH.EPOCH then s.inboxDrop i
    else match s.answered p with
      | none => (s.inboxDrop i).bump FAB.REQUESTS.DUP_ANSWERS 1
      | some r =>
        let s := s.inboxDrop i
        let s := { s with fabric := { s.fabric with reqs := s.fabric.reqs.filter (fun q => q.id != r.id) } }
        let s := (s.wr FAB.HUNG.LONGEST_US (max (s.rd FAB.HUNG.LONGEST_US) (min ((s.now - r.firstSent) / 1000) (2 ^ 32 - 1)))).hungNow
        let s := s.farAnswer r p
        State.fabKick (if 100 ≤ r.who.kind then s.mergeAnswer r p
        else if r.who.kind = 7 then s.moveMap r.who.a (fun m => { m with await := m.await.filter (fun x => x != r.who.b) })
        else if r.who.kind = 1 then s.cmdAnswer r p
        else if r.who.kind = 0 then s.descAnswer r p
        else if (r.who.kind = 2 ∨ r.who.kind = 6) ∧ p.poison then s.endLaunch r.who.a stFaulted 0x0505
        else if p.op = 0x20 ∨ r.who.kind = 6 then s.gotPut r.who r p
        else s)

/-- FABRIC_ANSWER_RECEIVE (R297). -/
def execFabricAnswerReceive (packet : Nat) (s : State) : Host.Outcome State Fault Refusal := .next (fabricAnswer packet s)

/-- FABRIC_RETRY (R297): a request unanswered for 100 µs goes again with RETRY set on the next route. -/
def fabricRetry (id : Nat) (s : State) : State :=
  match s.fabric.reqs.find? (fun r => r.id == id && !r.waiting) with
  | none => s
  | some r =>
    if r.lastSent + 1000 * s.rd FAB.LINK_CTL.RETRY_US ≤ s.now then
      let r : FabReq := { r with tries := r.tries + 1, route := (r.route + 1) % 4, lastSent := s.now }
      let s := { s with fabric := { s.fabric with reqs := s.fabric.reqs.map (fun (q : FabReq) => if q.id = r.id then r else q) } }
      ((s.bump FAB.REQUESTS.RETRIES 1).hungNow).inject (s.reqPacket r 1)
    else s

/-- FABRIC_RETRY (R297). -/
def execFabricRetry (req : Nat) (s : State) : Host.Outcome State Fault Refusal := .next (fabricRetry req s)

/-! Time messages (R301). -/

/-- The ports. -/
def ports : List Nat := List.range 12

/-- TIME_SEND (R301): every 10 µs on one UP link of every UP port. -/
def timeSend (s : State) : State :=
  if s.now < s.fabric.nextTime then s
  else
    let p := s.ctlPacket 0x41 (leVals 8 s.timeBase ++ List.replicate 56 0)
    let s := ports.foldl (fun t q => t.ctlSend q p) s
    { s with fabric := { s.fabric with nextTime := s.now + 10_000 } }

/-- TIME_SEND (R301). -/
def execTimeSend (s : State) : Host.Outcome State Fault Refusal := .next (timeSend s)

/-- The time source: the member with the lowest chip number (R301). -/
def State.timeSource (s : State) : Nat := (s.topo.members.filter (fun m => !m.donor)).foldl (fun a m => min a m.chip) s.chip

/-- Whether a port leads toward a chip by the route this module uses, on either letter. -/
def State.portToward (s : State) (chip port : Nat) : Bool := match s.hop chip 0 with | some h => h.ports.contains port | none => false

/-- TIME_RECEIVE (R301): a TIME packet from the neighbour nearest to the time source sets the time base to it, corrected for the
delay measured in training; FAB.TIME reports the correction. -/
def timeReceive (i : Nat) (s : State) : State :=
  match s.inboxAt i with
  | none => s
  | some p =>
    if p.op != 0x41 then s
    else
      let s := s.inboxDrop i
      let src := s.timeSource
      if s.rd TOPO.PARTITION.STATE = 0 ∨ src = s.chip ∨ !s.portToward src p.port then s
      else
        let d : Int := (leOf (p.data.take 8) + (aFind s.fabric.delays p.port).getD 0 : Nat) - (s.timeBase : Int)
        let s := { s with fabric := { s.fabric with timeOffset := s.fabric.timeOffset + d } }
        let s := { s with mgmt := { s.mgmt with lastTick := min s.mgmt.lastTick (s.timeBase / 1_000_000) } }
        s.wrs [(FAB.TIME.OFFSET_NS, ofSigned 32 d), (FAB.TIME.SOURCE, src), (FAB.TIME.LOCKED, b2n (decide (d.natAbs ≤ 20)))]

/-- TIME_RECEIVE (R301). -/
def execTimeReceive (packet : Nat) (s : State) : Host.Outcome State Fault Refusal := .next (timeReceive packet s)

/-! Hellos received (R307). -/

/-- The partner of a port (R307). -/
def partnerPort (p : Nat) : Nat := [2, 3, 0, 1, 6, 7, 4, 5, 9, 8, 11, 10].getD p 12

/-- The registers of a port's neighbour set from its hello. -/
def State.nbRegs (s : State) (p : Nat) (b : List Nat) : State :=
  let chip := leOf ((b.drop 8).take 2) % 2 ^ 12
  let place := b.getD 13 0
  s.wrs [(TOPO.NB_SERIAL.SERIAL p, leOf (b.take 8)), (TOPO.NB_INFO.CHIP p, chip), (TOPO.NB_INFO.PORT p, b.getD 12 0 % 16),
    (TOPO.NB_INFO.PARTITION p, leOf ((b.drop 24).take 2)), (TOPO.NB_INFO.EPOCH p, b.getD 26 0 % 16), (TOPO.NB_INFO.ZPOS p, place / 16 % 8),
    (TOPO.NB_INFO.PLACED p, place / 128), (FAB.PORT_STATUS.PARTNER p, chip), (FAB.PORT_STATUS.PARTNER_VALID p, 1)]

/-- Whether a port shows a member PRESENT: a hello with its SERIAL and CHIP (R307). -/
def State.shows (s : State) (p : Nat) (m : Member) : Bool :=
  s.rd (TOPO.NB_INFO.STATE p) == 1 && s.rd (TOPO.NB_INFO.CHIP p) == m.chip && s.rd (TOPO.NB_SERIAL.SERIAL p) == m.serial

/-- Whether some port shows a chip of the partition PRESENT. -/
def State.chipShown (s : State) (chip : Nat) : Bool :=
  (List.range 12).any (fun p => s.topo.members.any (fun m => m.chip == chip && s.shows p m))

/-- The old partner of a port lost because another module answers there: a loss to declare unless another port still shows it PRESENT
(R307, R309). -/
def State.partnerSwapped (s : State) (p : Nat) : State :=
  let chip := s.rd (TOPO.NB_INFO.CHIP p)
  if s.chipShown chip || !s.topo.partners.contains chip then s else { s with topo := { s.topo with abortDue := s.topo.abortDue ++ [(1, chip)] } }

/-- HELLO_RECEIVE (R307): a paired hello makes the port PRESENT, an unpaired one of an ABSENT port MISMATCH; a hello refreshes the
entry, and a member heard becomes a partner (R309). -/
def helloReceive (i : Nat) (s : State) : State :=
  match s.inboxAt i with
  | none => s
  | some p =>
    if p.op != 0x40 || decide (11 < p.port) then s
    else
      let s := s.inboxDrop i
      let paired := p.data.getD 12 0 % 16 == partnerPort p.port
      let st := s.rd (TOPO.NB_INFO.STATE p.port)
      if st = 2 then s
      else if !paired && st == 1 then s
      else
        let changed := st == 1 && s.rd (TOPO.NB_SERIAL.SERIAL p.port) != leOf (p.data.take 8)
        let s := if changed then (s.nbState p.port 0).partnerSwapped p.port else s
        let s := s.nbRegs p.port p.data
        let s := (s.setNeighbour p.port ⟨p.data, 0⟩).nbState p.port (if paired then 1 else 2)
        let chip := s.rd (TOPO.NB_INFO.CHIP p.port)
        if s.chipShown chip && !s.topo.partners.contains chip && !s.topo.lost.contains chip then
          { s with topo := { s.topo with partners := s.topo.partners ++ [chip] } }
        else s

/-- HELLO_RECEIVE (R307). -/
def execHelloReceive (packet : Nat) (s : State) : Host.Outcome State Fault Refusal := .next (helloReceive packet s)

/-- NEIGHBOUR_SILENT (R307): no hello on a PRESENT port during the last three ticks. -/
def neighbourSilent (p : Nat) (s : State) : State :=
  if s.bimon ∧ s.rd (TOPO.NB_INFO.STATE p) = 1 ∧ s.rd TOPO.CAPS.SILENT_TICKS ≤ (s.neighbour p).silent then s.nbState p 0 else s

/-- NEIGHBOUR_SILENT (R307). -/
def execNeighbourSilent (port : Nat) (s : State) : Host.Outcome State Fault Refusal := .next (neighbourSilent port s)

/-! INVALIDATE (R294). -/

/-- The checks of INVALIDATE (Table 12-11). -/
def checkInvalidate (s : State) (c : Cmd) : Option (Nat × Nat) :=
  let all := bit (c.p 0) 0
  let n := bits (c.p 2) 0 40
  firstBad [
    (!((all && c.context == 0xFFFF) || s.owns c.src c.context), stBadContext, 0),
    (if all then c.p 1 != 0 || c.p 2 != 0
      else c.p 1 % 64 != 0 || n % 64 != 0 || n == 0 || decide (2 ^ 57 < c.p 1 % 2 ^ 57 + n), stBadParam, 0x0C01),
    (!onlyBits (c.p 0) 1 || decide (2 ^ 57 ≤ c.p 1) || decide (2 ^ 40 ≤ c.p 2) || !c.restZero 3, stBadParam, 0x0C12)]

/-- Whether a block lies in a page that a range of a context maps. -/
def State.blockIn (s : State) (c va n block : Nat) : Bool :=
  (s.leaves c).any (fun l => lfState l.2.2 != 2 && decide (lfTier l.2.2 < 2) && decide (l.1 < va + n) && decide (va < l.1 + pageSize l.2.1) && lfChip l.2.2 == block / 2 ^ 44 &&
    decide (lfFrame l.2.2 ≤ block % 2 ^ 44) && decide (block % 2 ^ 44 < lfFrame l.2.2 + pageSize l.2.1))

/-- INVALIDATE (R294): the lines dropped, and no LOAD now under way fills one of the range. -/
def invalidate (s : State) (c : Cmd) : State :=
  let hit := fun b => bit (c.p 0) 0 || s.blockIn c.context (c.p 1) (c.p 2) b
  let n := (s.fabric.far.filter (fun l => hit l.block)).length
  let reqs := s.fabric.reqs.map (fun (q : FabReq) => if hit (globalBlock q.target q.offset) then { q with fill := 0 } else q)
  (({ s with fabric := { s.fabric with reqs := reqs } }).farDrop hit).doneWith c.id n 0 0

/-- INVALIDATE (R294). -/
def execInvalidate (k : Nat) (s : State) : Host.Outcome State Fault Refusal := .next (s.runCmd k 0x16 always checkInvalidate invalidate)

end Sys2Proof.Machine
end

