-- ==== Sys2Proof/Machine/Topology.lean ====
section
/-! DEFINITION. Partitions (R312–R320): TOPO_QUERY, PARTITION_FORM and PARTITION_RESHAPE with their checks of the member table, and
the DRAINED output (R321). -/

namespace Sys2Proof.Machine

open Sys2Proof

/-- DRAINED brought up: the module is UNJOINED, every hand FREE and every kitty entry EMPTY (R321). -/
def State.drainRegs (s : State) : State :=
  let d := s.rd TOPO.PARTITION.STATE == 0 && (List.range 64).all (fun n => s.rd (SERVE.HAND_STATE.STATE n) == 0) &&
    s.rd SERVE.KITTY_USE.HELD == 0 && s.rd SERVE.KITTY_USE.MOVING == 0 && s.rd SERVE.KITTY_USE.LOST == 0
  (s.wr TOPO.DRAIN.DRAINED (b2n d)).wr DISC.OUTPUTS.DRAINED (b2n d)

/-- TOPO.EVENT_CTL's vector raised on both hosts (Table 13-8). -/
def State.topoEvent (s : State) : State :=
  (s.raiseIf 0 (TOPO.EVENT_CTL.ENABLE 0) (TOPO.EVENT_CTL.VECTOR 0)).raiseIf 1 (TOPO.EVENT_CTL.ENABLE 1) (TOPO.EVENT_CTL.VECTOR 1)

/-! TOPO_QUERY (R320). -/

/-- The checks of TOPO_QUERY (Table 13-5). -/
def checkTopoQuery (s : State) (c : Cmd) : Option (Nat × Nat) := firstBad [
  (s.ctxBad .device c, stBadContext, 0),
  (c.p 0 != 0 || c.p 1 % 64 != 0 || (c.src == 2 && c.p 1 != 0) || !c.restZero 2, stBadParam, 0x0D07)]

/-- Bytes stored in a host's memory while it is ATTACHED (R383). -/
def State.hostBytes (s : State) (h addr : Nat) (l : List Nat) : State :=
  if s.attached h then s.storeBytes (hostKey h addr) (toBytes l) else s

/-- TOPO.LOSS as a word. -/
def State.lossWord (s : State) : Nat := s.rd TOPO.LOSS.LOST_CHIP + s.rd TOPO.LOSS.CAUSE * 2 ^ 12 + s.rd TOPO.LOSS.ORIGIN * 2 ^ 16

/-- The ports whose neighbour entry is in a state, as a mask. -/
def State.nbMask (s : State) (st : Nat) : Nat := ((List.range 12).map (fun p => if s.rd (TOPO.NB_INFO.STATE p) = st then 2 ^ p else 0)).sum

/-- TOPO_QUERY: the hellos written where DEST_BA is given, and the words of the reply. -/
def topoQuery (s : State) (c : Cmd) : State :=
  let hellos := (List.range 12).flatMap (fun p =>
    if s.rd (TOPO.NB_INFO.STATE p) = 0 then List.replicate 64 0 else ((s.neighbour p).hello ++ List.replicate 64 0).take 64)
  let s := if c.p 1 = 0 then s else s.hostBytes c.src (c.p 1) (hellos ++ s.helloBytes 0)
  s.doneWith c.id (s.chip + s.rd TOPO.PARTITION.ID * 2 ^ 12 + s.rd TOPO.PARTITION.STATE * 2 ^ 28 + s.rd FAB.EPOCH.EPOCH * 2 ^ 32)
    (s.nbMask 1 + s.nbMask 2 * 2 ^ 12) s.lossWord

/-- TOPO_QUERY (R320). -/
def execTopoQuery (k : Nat) (s : State) : Host.Outcome State Fault Refusal := .next (s.runCmd k 0x80 always checkTopoQuery topoQuery)

/-! The member table (R314, R315). -/

/-- The entries of a member table in a host's memory, with each entry's reserved bits. -/
def State.memberTable (s : State) (h addr n : Nat) : List (Member × Nat) :=
  (List.range n).map (fun i =>
    let w := s.load (hostKey h (addr + 16 * i + 8)) 8
    (⟨s.load (hostKey h (addr + 16 * i)) 8, bits w 0 12, bits w 12 2, bits w 14 2, bits w 16 3, bit w 19⟩, w / 2 ^ 20))

/-- PARTITION of a command. -/
def Cmd.partId (c : Cmd) : Nat := bits (c.p 0) 0 16
/-- PLANES. -/
def Cmd.planes (c : Cmd) : Nat := bits (c.p 0) 16 3
/-- All six entries of ZORDER. -/
def Cmd.zall (c : Cmd) : List Nat := (List.range 6).map (fun i => bits (c.p 0) (20 + 3 * i) 3)
/-- The entries of ZORDER that count. -/
def Cmd.zord (c : Cmd) : List Nat := c.zall.take c.planes
/-- The table's entries. -/
def State.tableOf (s : State) (c : Cmd) : List (Member × Nat) := s.memberTable c.src (c.p 1) (bits (c.p 2) 0 8)

/-- The ring distance forward from one position to another. -/
def zDist (a b : Nat) : Nat := (b + 7 - a) % 7

/-- Whether consecutive entries lie at distance 1 or 2 (R315). -/
def zSteps : List Nat → Bool
  | a :: b :: r => (zDist a b == 1 || zDist a b == 2) && zSteps (b :: r)
  | _ => true

/-- Whether a z order closes into a ring (R315). -/
def zClosed (zs : List Nat) : Bool :=
  let d := zDist (zs.getLast?.getD 0) (zs.headD 0)
  decide (3 ≤ zs.length) && (d == 1 || d == 2)

/-- Whether a donor's ring position is where R314 allows it. -/
def donorOk (zs : List Nat) (p : Nat) : Bool :=
  !zs.contains p &&
    ((List.range (zs.length - 1)).any (fun i => zDist (zs.getD i 0) p == 1 && zDist p (zs.getD (i + 1) 0) == 1) ||
      (zClosed zs && zDist (zs.getLast?.getD 0) p == 1 && zDist p (zs.headD 0) == 1) ||
      (!zClosed zs && (decide (zDist (zs.getLast?.getD 0) p ≤ 2) || decide (zDist p (zs.headD 0) ≤ 2))))

/-- Whether a table meets R314. -/
def tableOk (zs : List Nat) (t : List (Member × Nat)) : Bool :=
  let ms := t.map Prod.fst
  let live := ms.filter (fun m => !m.donor)
  t.all (fun e => e.2 == 0) && (ms.map Member.chip).dedup.length == ms.length && (ms.map Member.serial).dedup.length == ms.length &&
    live.length == 16 * zs.length &&
    zs.all (fun z => (List.range 16).all (fun i => (live.filter (fun m => m.z == z && m.x == i % 4 && m.y == i / 4)).length == 1)) &&
    (ms.filter Member.donor).all (fun m => donorOk zs m.z)

/-- This module's own entry in a table: by serial and chip. -/
def State.ownEntry (s : State) (ms : List Member) : Option Member :=
  ms.find? (fun m => m.serial == s.rd HIF.SERIAL.SERIAL && m.chip == s.chip)

/-- Whether an entry matches this module by one of serial and chip alone. -/
def State.ownClash (s : State) (ms : List Member) : Bool :=
  ms.any (fun m => (m.serial == s.rd HIF.SERIAL.SERIAL) != (m.chip == s.chip))

/-- Every FAB.ROUTE entry cleared. -/
def State.clearRoutes (s : State) : State :=
  { s with regs := s.regs.filter (fun r => decide (r.1 < 0x901000 * 64) || decide (0x909000 * 64 ≤ r.1)) }

/-- FAB.ROUTE written for the entries of a table, and cleared for every other chip (R316). -/
def State.writeRoutes (s : State) (ms : List Member) : State :=
  ms.foldl (fun t m => t.wrs [(FAB.ROUTE.VALID m.chip, 1), (FAB.ROUTE.X m.chip, m.x), (FAB.ROUTE.Y m.chip, m.y), (FAB.ROUTE.ZPOS m.chip, m.z)]) s.clearRoutes

/-- TOPO.PARTITION written from a command and this module's entry. -/
def State.writePlace (s : State) (c : Cmd) (own : Member) (st : Nat) : State :=
  s.wrs [(TOPO.PARTITION.ID, c.partId), (TOPO.PARTITION.STATE, st), (TOPO.PARTITION.CLOSED, b2n (zClosed c.zord)), (TOPO.PARTITION.PLANES, c.planes),
    (TOPO.PARTITION.X, own.x), (TOPO.PARTITION.Y, own.y), (TOPO.PARTITION.ZPOS, own.z), (TOPO.PARTITION.ZORDER, bits (c.p 0) 20 18)]

/-- The position a hop leads to, as coordinates. -/
def Hop.place (h : Hop) (own : Member) : Nat × Nat × Nat :=
  if h.dim = 0 then (h.to', own.y, own.z) else if h.dim = 1 then (own.x, h.to', own.z) else (own.x, own.y, h.to')

/-- Whether every port that this module's routes use toward a member shows the neighbour that the table places there (R316). -/
def State.neighboursOk (s : State) (c : Cmd) (own : Member) (ms : List Member) : Bool :=
  let t := (s.writeRoutes ms).writePlace c own 1
  (ms.filter (fun m => !m.donor && m.chip != own.chip)).all (fun m => (List.range 4).all (fun route =>
    match t.hop m.chip route with
    | none => true
    | some h =>
      let at' := h.place own
      let p := h.ports.headD 12
      s.rd (TOPO.NB_INFO.STATE p) == 1 && ms.any (fun n => n.x == at'.1 && n.y == at'.2.1 && n.z == at'.2.2 &&
        n.serial == s.rd (TOPO.NB_SERIAL.SERIAL p) && n.chip == s.rd (TOPO.NB_INFO.CHIP p))))

/-- The checks of PARTITION_FORM (`form`) and PARTITION_RESHAPE (Table 13-5). -/
def checkPartition (form : Bool) (s : State) (c : Cmd) : Option (Nat × Nat) :=
  let n := bits (c.p 2) 0 8
  let zs := c.zord
  let t := s.tableOf c
  let ms := t.map Prod.fst
  let own := s.ownEntry ms
  let st := s.rd TOPO.PARTITION.STATE
  firstBad [
    (s.ctxBad .device c, stBadContext, 0),
    (!onlyBits (c.p 0) 0x3FF_FFF7_FFFF || decide (2 ^ 8 ≤ c.p 2) || c.p 1 % 64 != 0 || !c.restZero 3, stBadParam, 0x0D07),
    (c.partId == 0 || c.planes == 0 || decide (6 < c.planes) || decide (n < 16) || decide (128 < n) || zs.dedup.length != zs.length ||
      zs.any (fun z => decide (6 < z)) || (c.zall.drop c.planes).any (fun z => z != 0), stBadParam, 0x0D01),
    (!zSteps zs, stBadParam, 0x0D02),
    (!tableOk zs t, stBadParam, 0x0D03),
    (s.chip == 0xFFF || decide (0xF00 ≤ s.chip) || s.ownClash ms || (form && own.isNone), stBadParam, 0x0D04),
    (if form then st != 0 else st != 2 || c.partId != s.rd TOPO.PARTITION.ID || bits (c.p 0) 38 4 != s.rd FAB.EPOCH.EPOCH, stBadParam, 0x0D06),
    (match own with | some o => !s.neighboursOk c o ms | none => false, stBadParam, 0x0D05)]

/-- The module leaves its partition: FAB.ROUTE cleared, PARTITION 0 (Table 13-2). -/
def State.unjoin (s : State) : State :=
  let s := s.clearRoutes.regs0 [TOPO.PARTITION.ID, TOPO.PARTITION.STATE, TOPO.PARTITION.CLOSED, TOPO.PARTITION.PLANES, TOPO.PARTITION.X,
    TOPO.PARTITION.Y, TOPO.PARTITION.ZPOS, TOPO.PARTITION.ZORDER]
  { s with topo := { s.topo with members := [], partners := [] } }.drainRegs

/-- The members that are partners now: those heard on a PRESENT port (R309). -/
def State.heardPartners (s : State) (ms : List Member) : List Nat :=
  (ms.filter (fun m => (List.range 12).any (fun p => s.shows p m))).map (fun m => m.chip)

/-- The partition taken (R316): routes, place, epoch, time source, partners, and the prefix-index form (R242). -/
def State.joinAs (s : State) (c : Cmd) (own : Member) (ms : List Member) (st : Nat) : State :=
  let s := (s.writeRoutes ms).writePlace c own st
  let s := { s with topo := { s.topo with members := ms, partners := s.heardPartners ms, lost := [], planesFormed := c.planes } }
  ((s.wr FAB.TIME.SOURCE s.timeSource).drainRegs).indexReset

/-- PARTITION_FORM accepted (Table 13-2). -/
def partitionForm (s : State) (c : Cmd) : State :=
  let ms := (s.tableOf c).map Prod.fst
  match s.ownEntry ms with
  | none => s.failWith c.id stBadParam 0x0D04
  | some own => (((s.wr FAB.EPOCH.EPOCH (bits (c.p 0) 38 4)).wr PWR.JOB_ENERGY.MJ (if own.donor then s.rd PWR.JOB_ENERGY.MJ else 0)).joinAs c own ms (if own.donor then 3 else 1)).doneWith c.id 0 0 0

/-- PARTITION_FORM (R316). -/
def execPartitionForm (k : Nat) (s : State) : Host.Outcome State Fault Refusal := .next (s.runCmd k 0x81 always (checkPartition true) partitionForm)

/-- PARTITION_RESHAPE accepted (Table 13-2): a module that the table does not name becomes UNJOINED. -/
def partitionReshape (s : State) (c : Cmd) : State :=
  let ms := (s.tableOf c).map Prod.fst
  match s.ownEntry ms with
  | none => s.unjoin.doneWith c.id 0 0 0
  | some own => (s.joinAs c own ms (if own.donor then 3 else 2)).doneWith c.id 0 0 0

/-- PARTITION_RESHAPE (R316). -/
def execPartitionReshape (k : Nat) (s : State) : Host.Outcome State Fault Refusal := .next (s.runCmd k 0x82 always (checkPartition false) partitionReshape)

end Sys2Proof.Machine
end

