-- ==== Sys2Proof/Machine/Intake.lean ====
section
/-! DEFINITION. Weight intake (R331–R345): the model table, shards and their digests, windows in BAR2, donor copies, re-checks and
repairs, and the switch of a context's model. -/

namespace Sys2Proof.Machine

open Sys2Proof

/-! Slots and images (R331–R333). -/

/-- Slot `n` of the model table. -/
def State.slot (s : State) (n : Nat) : Slot := (aFind s.slots n).getD {}

/-- A slot replaced. -/
def State.setSlot (s : State) (n : Nat) (x : Slot) : State := { s with slots := aPut s.slots n x }

/-- A slot's state (Table 14-1). -/
def State.slotState (s : State) (n : Nat) : Nat := s.rd (LOAD.SLOT.STATE n)

/-- The shard of a slot with a number. -/
def Slot.shard (x : Slot) (no : Nat) : Option Shard := x.shards.find? (fun h => h.no == no)

/-- A shard changed in place. -/
def State.shardMap (s : State) (n no : Nat) (f : Shard → Shard) : State :=
  s.setSlot n { s.slot n with shards := (s.slot n).shards.map (fun h => if h.no = no then f h else h) }

/-- Size of an image page. -/
def imagePage : Nat := 0x20_0000

/-- The local offset of an image offset (R331). -/
def Slot.place (x : Slot) (off : Nat) : Option Nat := (aFind x.pages (off / imagePage)).map (fun f => f + off % imagePage)

/-- The parts of an image range within 2 MiB pages: image offset and length. -/
def imageParts : Nat → Nat → Nat → List (Nat × Nat)
  | 0, _, _ => []
  | fuel + 1, off, n =>
    if n = 0 then []
    else
      let len := min n (imagePage - off % imagePage)
      (off, len) :: imageParts fuel (off + len) (n - len)

/-- `n` bytes of a slot's image; a byte of no page reads as zero. -/
def State.imageBytes (s : State) (slot off n : Nat) : List Nat :=
  (imageParts (n / imagePage + 2) off n).flatMap (fun p =>
    match (s.slot slot).place p.1 with
    | some f => nats (memBytes s.mem (devKey f) p.2)
    | none => List.replicate p.2 0)

/-- Bytes written to a slot's image. -/
def State.imageWrite (s : State) (slot off : Nat) (data : List Nat) : State :=
  (imageParts (data.length / imagePage + 2) off data.length).foldl (fun t p =>
    match (t.slot slot).place p.1 with
    | some f => t.storeBytes (devKey f) (toBytes ((data.drop (p.1 - off)).take p.2))
    | none => t) s

/-- The contexts that a slot runs. -/
def State.slotCtxs (s : State) (n : Nat) : List Nat := (s.ctxs.filter (fun p => p.2.slot == some n && s.inUse p.1)).map Prod.fst

/-- LOAD.SLOT and LOAD.REPAIR brought up (Table 14-8): READY and ACTIVE follow the contexts that name the slot (R332). -/
def State.slotRegs (s : State) (n : Nat) : State :=
  let x := s.slot n
  let names := (s.slotCtxs n).length
  let st := s.slotState n
  let st := if st = 2 ∧ names ≠ 0 then 3 else if st = 3 ∧ names = 0 then 2 else st
  let bad := (s.slots.flatMap (fun p => p.2.shards.filter (fun h => h.state == 4 || h.state == 5))).length
  s.wrs [(LOAD.SLOT.STATE n, st), (LOAD.SLOT.CONTEXTS n, names), (LOAD.SLOT.SHARDS n, x.shards.length),
    (LOAD.SLOT.VERIFIED n, (x.shards.filter (fun h => h.state == 2)).length), (LOAD.REPAIR.CORRUPT, min bad 65535)]

/-- The vector of a slot's owning host, or of the other host once that one is lost (R340, Table 14-8). -/
def State.slotVector (s : State) (n : Nat) : State :=
  let o := s.rd (LOAD.SLOT.OWNER n)
  let h := if s.attached o then o else 1 - o
  s.raiseIf h (LOAD.EVENT_CTL.ENABLE h) (LOAD.EVENT_CTL.VECTOR h)

/-- A slot emptied: its frames freed, its registers at reset (Table 14-1). -/
def State.slotEmpty (s : State) (n : Nat) : State :=
  let s := (s.slot n).pages.foldl (fun (t : State) p => t.freeRunAt p.2) s
  let s := { s with slots := aErase s.slots n, recheck := s.recheck.filter (fun r => r.1 != n) }
  (s.regs0 [LOAD.SLOT.STATE n, LOAD.SLOT.OWNER n, LOAD.SLOT.CONTEXTS n, LOAD.SLOT.SHARDS n, LOAD.SLOT.VERIFIED n, LOAD.SLOT_ID.MODEL_ID n]).slotRegs n

/-! Windows and digest engines (R335, R336). -/

/-- Every shard with the number of its slot. -/
def State.allShards (s : State) : List (Nat × Shard) := s.slots.flatMap (fun p => p.2.shards.map (fun h => (p.1, h)))

/-- The shards whose window is open on a port. -/
def State.windowsOn (s : State) (h : Nat) : List (Nat × Shard) := s.allShards.filter (fun p => p.2.window.isSome && p.2.port == h)

/-- A digest engine's registers when it takes a shard or leaves it. -/
def State.engineReg (s : State) (e shard : Nat) (busy : Bool) : State := (s.wr (LOAD.ENGINE.SHARD e) shard).wr (LOAD.ENGINE.BUSY e) (b2n busy)

/-- The waiting window of a port that was accepted first. -/
def firstTurn : List (Nat × Shard) → Option (Nat × Shard)
  | [] => none
  | p :: r => match firstTurn r with
    | none => some p
    | some q => if q.2.turn < p.2.turn then some q else some p

/-- Free engines of a port given to its waiting windows, in the order of acceptance (R336). -/
def State.assignEngines (s : State) (h : Nat) : State :=
  (List.range 5).foldl (fun t i =>
    let e := 5 * h + i
    if t.rd (LOAD.ENGINE.STATE e) = 0 ∧ t.rd (LOAD.ENGINE.BUSY e) = 0 then
      match firstTurn ((t.windowsOn h).filter (fun p => p.2.engine.isNone)) with
      | none => t
      | some p => (t.shardMap p.1 p.2.no (fun x => { x with engine := some e })).engineReg e p.2.no true
    else t) s

/-- A shard's window or copy closed; its engine goes to the next window. -/
def State.closeWindow (s : State) (n : Nat) (x : Shard) : State :=
  let s := s.shardMap n x.no (fun y => { y with cmd := none, window := none, donor := none, engine := none, landed := [] })
  match x.engine with
  | some e => (s.engineReg e 0 false).assignEngines x.port
  | none => s

/-- A shard that leaves ARRIVING or REPAIRING with no bytes kept: WAITING again, or CORRUPT with its stock frames freed. -/
def State.shardBack (s : State) (n : Nat) (x : Shard) : State :=
  (s.closeWindow n x).shardMap n x.no (fun y => { y with state := if x.state = 5 then 4 else 0, repair := [] })

/-- The command that waits on a shard ended with a status. -/
def State.shardCmd (s : State) (x : Shard) (st det : Nat) : State :=
  match x.cmd with
  | some k => s.failWith k st det
  | none => s

/-- A shard's place among this module's shards. -/
def Slot.ordinal (x : Slot) (no : Nat) : Nat := x.shards.findIdx (fun h => h.no == no)

/-- The windows and copies of a slot closed, their commands ended JOB_ABORTED. -/
def State.closeAll (s : State) (n : Nat) : State :=
  (s.slot n).shards.foldl (fun (t : State) x => if x.cmd.isSome then (t.closeWindow n x).shardCmd x stJobAborted 0 else t) s

/-- A slot that fails in staging (Table 14-1, R337): the other windows close, MODEL_STAGE ends, the slot is EMPTY. -/
def State.slotFails (s : State) (n no st : Nat) : State :=
  let x := s.slot n
  let ord := x.ordinal no
  let s := s.closeAll n
  let s := match x.stageCmd with | some k => s.failWith k st ord | none => s
  let s := (s.slotVector n).record 0x0502 n ord st
  s.slotEmpty n

/-- A staged slot whose shards are all VERIFIED is READY, and MODEL_STAGE replies (Table 14-1). -/
def State.stageDone (s : State) (n : Nat) : State :=
  let x := s.slot n
  if s.slotState n = 1 ∧ x.shards.all (fun h => h.state == 2) then
    let s := s.wr (LOAD.SLOT.STATE n) 2
    let s := match x.stageCmd with
      | some k => s.doneWith k n ((x.shards.map Shard.len).sum) x.shards.length
      | none => s
    (s.setSlot n { x with stageCmd := none }).slotRegs n
  else s.slotRegs n

/-- A shard found CORRUPT (Table 14-3). -/
def State.shardCorrupt (s : State) (n : Nat) (x : Shard) : State :=
  let s := (s.shardMap n x.no (fun y => { y with state := 4 })).bump LOAD.REPAIR.FOUND 1
  ((s.record 0x0501 n x.no x.off).slotVector n).slotRegs n

/-! MODEL_STAGE (R342). -/

/-- A shard entry of a manifest as its eight words. -/
def manifestShard (w : List Nat) : Shard :=
  { no := bits (w.getD 0 0) 0 24, off := w.getD 1 0 % 2 ^ 36, len := w.getD 2 0 % 2 ^ 29, digest := (w.drop 4).flatMap (leVals 8) }

/-- Whether a shard entry is as R333 has it. -/
def manifestShardOk (w : List Nat) : Bool :=
  let x := manifestShard w
  onlyBits (w.getD 0 0) (2 ^ 36 - 1) && decide (w.getD 1 0 < 2 ^ 36) && decide (w.getD 2 0 < 2 ^ 29) && w.getD 3 0 == 0 &&
    x.off % 4096 == 0 && x.len % 64 == 0 && decide (64 ≤ x.len) && decide (x.len ≤ 268_435_456) && decide (x.off % 2 ^ 33 + x.len ≤ 2 ^ 33)

/-- Whether a matrix entry's reserved bits are zero and its RANK is one of Table 14-2. -/
def manifestMatrixOk (w : List Nat) : Bool :=
  onlyBits (w.getD 0 0) (2 ^ 27 - 1) && decide (bits (w.getD 0 0) 24 3 ≤ 4) && onlyBits (w.getD 1 0) (2 ^ 48 - 1) &&
    decide (w.getD 2 0 < 2 ^ 36) && decide (w.getD 3 0 < 2 ^ 36)

/-- The header of a manifest as words. -/
def State.manifestHead (s : State) (c : Cmd) : List Nat := s.loadWords (hostKey c.src (c.p 1)) 8
/-- The shard entries of a manifest. -/
def State.manifestShards (s : State) (c : Cmd) : List (List Nat) :=
  (List.range (bits ((s.manifestHead c).getD 0 0) 16 24)).map (fun i =>
    s.loadWords (hostKey c.src (c.p 1 + (s.manifestHead c).getD 2 0 % 2 ^ 32 + 64 * i)) 8)
/-- The matrix entries of a manifest. -/
def State.manifestMatrices (s : State) (c : Cmd) : List (List Nat) :=
  (List.range (bits ((s.manifestHead c).getD 0 0) 40 24)).map (fun i =>
    s.loadWords (hostKey c.src (c.p 1 + (s.manifestHead c).getD 2 0 / 2 ^ 32 + 32 * i)) 4)
/-- The shard entries of this module (R333). -/
def State.manifestMine (s : State) (c : Cmd) : List Shard :=
  ((s.manifestShards c).filter (fun w => bits (w.getD 0 0) 24 12 == s.chip)).map manifestShard

/-- Whether a manifest's header is well formed and its tables lie within MANIFEST_BYTES. -/
def State.manifestHeadOk (s : State) (c : Cmd) : Bool :=
  let w := s.manifestHead c
  let n := bits (w.getD 0 0) 16 24
  let m := bits (w.getD 0 0) 40 24
  bits (w.getD 0 0) 0 16 == 1 && n != 0 && (w.drop 3).all (fun x => x == 0) && decide (64 ≤ w.getD 2 0 % 2 ^ 32) &&
    decide (w.getD 2 0 % 2 ^ 32 + 64 * n ≤ c.p 2) && (m == 0 || (decide (64 ≤ w.getD 2 0 / 2 ^ 32) && decide (w.getD 2 0 / 2 ^ 32 + 32 * m ≤ c.p 2)))

/-- Whether no two shards overlap. -/
def shardsApart : List Shard → Bool
  | [] => true
  | x :: r => r.all (fun y => decide (x.off + x.len ≤ y.off) || decide (y.off + y.len ≤ x.off)) && shardsApart r

/-- Whether the manifest of a MODEL_STAGE is well formed (0x0E12). -/
def State.manifestOk (s : State) (c : Cmd) : Bool :=
  s.manifestHeadOk c && (s.manifestShards c).all manifestShardOk &&
    ((s.manifestShards c).map (fun w => bits (w.getD 0 0) 0 24)).dedup.length == (s.manifestShards c).length &&
    (s.manifestMatrices c).all manifestMatrixOk && shardsApart (s.manifestMine c)

/-- The image pages that cover shards, each once. -/
def imagePagesOf (l : List Shard) : List Nat :=
  (l.flatMap (fun x => (List.range ((x.off % imagePage + x.len + imagePage - 1) / imagePage)).map (fun i => x.off / imagePage + i))).dedup

/-- The slot that MODEL_STAGE takes. -/
def State.stageSlot (s : State) (c : Cmd) : Option Nat :=
  if bit (c.p 0) 3 then (List.range 8).find? (fun n => s.slotState n == 0)
  else if s.slotState (bits (c.p 0) 0 3) = 0 then some (bits (c.p 0) 0 3) else none

/-- The checks of MODEL_STAGE (Table 14-5). -/
def checkModelStage (s : State) (c : Cmd) : Option (Nat × Nat) := firstBad [
  (s.ctxBad .device c, stBadContext, 0),
  (!onlyBits (c.p 0) 0xF || c.p 1 % 64 != 0 || decide (c.p 2 < 64) || decide (2 ^ 32 ≤ c.p 2) || !c.restZero 3, stBadParam, 0x0E11),
  ((List.range 8).any (fun n => s.slotState n == 1), stBusyRetry, 0),
  ((s.stageSlot c).isNone, stNoResource, 0),
  (!s.manifestOk c, stBadParam, 0x0E12)]

/-- The frame an allocation answered noted for image page p; none where it answered none. -/
def stageGive (l : List (Nat × Nat)) (p : Nat) (r : Option (Nat × State)) : Option (List (Nat × Nat) × State) :=
  match r with
  | none => none
  | some (f, s) => some (aPut l p f, s)

/-- One image page given a frame in its die's HBM, behind those given before (R331). -/
def stageFrame (acc : Option (List (Nat × Nat) × State)) (p : Nat) : Option (List (Nat × Nat) × State) :=
  match acc with
  | none => none
  | some (l, s) => stageGive l p (s.allocRun (hbmRegions (2 ^ (p * imagePage / 2 ^ 33))) imagePage imagePage 6 0xFFFF)

/-- The image pages of a slot given frames, in ascending order; none where one cannot be had. -/
def stageFrames (ps : List Nat) (s : State) : Option (List (Nat × Nat) × State) := ps.foldl stageFrame (some ([], s))

/-- MODEL_STAGE accepted (Table 14-1): the manifest read, frames allocated, every shard WAITING with its timer running. -/
def modelStage (s : State) (c : Cmd) : State :=
  match s.stageSlot c with
  | none => s.failWith c.id stNoResource 0
  | some n =>
    let mine := (s.manifestMine c).map (fun x => { x with since := s.now })
    match stageFrames (imagePagesOf mine) s with
    | none => s.failWith c.id stNoResource 0
    | some (pages, t) =>
      let mats := (s.manifestMatrices c).map (fun w => [bits (w.getD 0 0) 0 24, bits (w.getD 0 0) 24 3, bits (w.getD 1 0) 0 24, bits (w.getD 1 0) 24 24, w.getD 2 0, w.getD 3 0])
      let x : Slot := {
        pages := pages, shards := mine, matrices := mats, stageCmd := some c.id, attnLayers := t.chooseBelow 1025,
        whole := (s.manifestShards c).length == mine.length }
      let t := t.took
      let t := (t.setSlot n x).wrs [(LOAD.SLOT.STATE n, 1), (LOAD.SLOT.OWNER n, c.src), (LOAD.SLOT_ID.MODEL_ID n, (s.manifestHead c).getD 1 0)]
      ((t.start c.id []).slotRegs n).stageDone n

/-- MODEL_STAGE (R342). -/
def execModelStage (k : Nat) (s : State) : Host.Outcome State Fault Refusal := .next (s.runCmd k 0x62 always checkModelStage modelStage)

/-! SHARD_INTAKE (R335, R338, R340). -/

/-- SLOT of a weight command. -/
def Cmd.wSlot (c : Cmd) : Nat := bits (c.p 0) 0 3
/-- SHARD. -/
def Cmd.wShard (c : Cmd) : Nat := bits (c.p 0) 8 24
/-- REPAIR of SHARD_INTAKE. -/
def Cmd.wRepair (c : Cmd) : Bool := bit (c.p 0) 3
/-- SOURCE of SHARD_INTAKE. -/
def Cmd.wSource (c : Cmd) : Nat := bits (c.p 0) 4 2

/-- Stock capacity that repairs hold on a die, in bytes. -/
def State.repairUse (s : State) (die : Nat) : Nat :=
  ((s.allShards.filter (fun p => p.2.off / 2 ^ 33 == die && (p.2.state == 5 || p.2.swapSince.isSome))).map (fun p => alignUp p.2.len 0x1_0000)).sum

/-- Whether the window that a SHARD_INTAKE asks for overlaps an open one of its port. -/
def State.windowClash (s : State) (c : Cmd) (len : Nat) : Bool :=
  (s.windowsOn c.src).any (fun p => match p.2.window with
    | some w => decide (w < c.p 1 + len) && decide (c.p 1 < w + p.2.len)
    | none => false)

/-- The checks of SHARD_INTAKE (Table 14-5). -/
def checkShardIntake (s : State) (c : Cmd) : Option (Nat × Nat) :=
  let sh := (s.slot c.wSlot).shard c.wShard
  let len := (sh.map Shard.len).getD 0
  let donor := bits (c.p 2) 0 12
  firstBad [
    (s.ctxBad .device c, stBadContext, 0),
    (!onlyBits (c.p 0) 0xFFFF_FF3F || decide (1 < c.wSource) || !onlyBits (c.p 2) 0x7FFF || !c.restZero 3 ||
      (c.wSource == 0 && (c.p 2 != 0 || decide (2 ^ 36 ≤ c.p 1) || c.p 1 % 4096 != 0)) || (c.wSource == 1 && c.p 1 != 0) ||
      (c.wSource == 1 && (decide (0xF00 ≤ donor) || !s.member donor)), stBadParam, 0x0E11),
    (match sh with
      | none => true
      | some x => if c.wRepair then x.state != 4 || x.swapSince.isSome else s.slotState c.wSlot != 1 || x.state != 0, stBadParam, 0x0E13),
    (c.wSource == 0 && decide (2 ^ (s.port c.src).bar2Log2 < c.p 1 + len), stBadParam, 0x0E11),
    (c.wSource == 0 && s.windowClash c len, stBadParam, 0x0E13),
    (c.wSource == 0 && decide (16 ≤ (s.windowsOn c.src).length), stNoResource, 0),
    (c.wRepair && decide (0x1_0000_0000 < s.repairUse ((sh.map (fun x => x.off / 2 ^ 33)).getD 0) + alignUp len 0x1_0000), stNoResource, 0)]

/-- SHARD_INTAKE accepted: a window opens or a donor copy starts, and the timer restarts (Table 14-3). -/
def shardIntake (s : State) (c : Cmd) : State :=
  let s := s.shardMap c.wSlot c.wShard (fun (x : Shard) => { x with
    state := if c.wRepair then 5 else 1, since := s.now, cmd := some c.id, port := c.src, landed := [], engine := none, repair := [],
    window := if c.wSource = 0 then some (c.p 1) else none,
    donor := if c.wSource = 1 then some (bits (c.p 2) 0 12, bits (c.p 2) 12 3) else none, turn := s.windowTurn })
  (({ s with windowTurn := s.windowTurn + 1 }.start c.id []).assignEngines c.src).slotRegs c.wSlot

/-- SHARD_INTAKE (R335, R338, R340). -/
def execShardIntake (k : Nat) (s : State) : Host.Outcome State Fault Refusal := .next (s.runCmd k 0x60 always checkShardIntake shardIntake)

/-- A range joined to a list of ranges that lie apart in rising order. -/
def rangeAdd : List (Nat × Nat) → Nat → Nat → List (Nat × Nat)
  | [], a, b => [(a, b)]
  | (x, y) :: r, a, b =>
    if b < x then (a, b) :: (x, y) :: r
    else if y < a then (x, y) :: rangeAdd r a b
    else rangeAdd r (min x a) (max y b)

/-- INTAKE_WRITE (R335): bytes that fall wholly in an open window land in its shard's frames; others are discarded. -/
def intakeWrite (h off : Nat) (data : List Nat) (s : State) : State :=
  match (s.windowsOn h).find? (fun p => match p.2.window with
      | some w => decide (w ≤ off) && decide (off + data.length ≤ w + p.2.len)
      | none => false) with
  | none => s.bump LOAD.INTAKE.STRAY 1
  | some (n, x) =>
    let at' := off - x.window.getD 0
    let s := s.shardMap n x.no (fun y => { y with landed := rangeAdd y.landed at' (at' + data.length) })
    if x.state = 5 then s.shardMap n x.no (fun y => { y with repair := slotWriteAll y.repair at' data })
    else s.imageWrite n (x.off + at') data
where
  /-- Bytes of a repair set; a zero byte is not listed. -/
  slotWriteAll (l : List (Nat × Nat)) (a : Nat) : List Nat → List (Nat × Nat)
    | [] => l
    | b :: r => slotWriteAll (if b % 256 = 0 then aErase l a else aPut l a (b % 256)) (a + 1) r

/-- INTAKE_WRITE (R335). -/
def execIntakeWrite (h off : Nat) (data : List Nat) (s : State) : Host.Outcome State Fault Refusal :=
  .next (s.viaHost h (intakeWrite h off data))

/-- The bytes of a shard as they arrived. -/
def State.arrived (s : State) (n : Nat) (x : Shard) : List Nat :=
  if x.state = 5 then (List.range x.len).map (fun i => (aFind x.repair i).getD 0) else s.imageBytes n x.off x.len

/-- A shard taken in: VERIFIED, its SHARD_INTAKE DONE; a repair now waits to be swapped in (R340). -/
def State.shardVerified (s : State) (n : Nat) (x : Shard) : State :=
  let s := s.closeWindow n x
  let s := s.shardMap n x.no (fun y => { y with state := 2, unchecked := x.donor.isSome, swapSince := if x.state = 5 then some s.now else none })
  let s := s.bump LOAD.INTAKE.VERIFIED 1
  let s := match x.cmd with | some k => s.doneWith k x.no x.len (x.attempts + 1) | none => s
  s.stageDone n

/-- DIGEST_COMPLETE (R334, R336, R337): every byte of the window has landed and an engine has hashed them. -/
def digestComplete (n no : Nat) (s : State) : State :=
  match (s.slot n).shard no with
  | none => s
  | some x =>
    if (x.state = 1 ∨ x.state = 5) ∧ x.engine.isSome ∧ x.landed = [(0, x.len)] then
      if sha256 (s.arrived n x) = x.digest then s.shardVerified n x
      else
        let a := x.attempts + 1
        let s := ((s.shardBack n x).bump LOAD.INTAKE.DIGEST_FAILS 1).shardMap n no (fun y => { y with attempts := a })
        let s := s.shardCmd x stDigestFail a
        if x.state = 1 ∧ 4 ≤ a then s.slotFails n no stDigestFail else s.slotRegs n
    else s

/-- DIGEST_COMPLETE (R337). -/
def execDigestComplete (slot shard : Nat) (s : State) : Host.Outcome State Fault Refusal := .next (digestComplete slot shard s)

/-- DONOR_COPY_COMPLETE (R338): the shard's bytes as the donor holds them, or the DETAIL of a copy that failed; a failed copy leaves
the shard to be sent again, with no attempt counted (Table 14-6). -/
def donorCopyComplete (n no detail : Nat) (data : List Nat) (s : State) : State :=
  match (s.slot n).shard no with
  | none => s
  | some x =>
    if x.donor.isSome ∧ (x.state = 1 ∨ x.state = 5) then
      if detail ≠ 0 then ((s.shardBack n x).shardCmd x stFaulted detail).slotRegs n
      else if data.length ≠ x.len then s
      else if x.state = 5 then
        (s.shardMap n no (fun y => { y with repair := ((List.range x.len).zip data).filter (fun p => p.2 % 256 != 0) })).shardVerified n x
      else (s.imageWrite n x.off data).shardVerified n x
    else s

/-- DONOR_COPY_COMPLETE (R338). -/
def execDonorCopyComplete (slot shard detail : Nat) (data : List Nat) (s : State) : Host.Outcome State Fault Refusal :=
  .next (donorCopyComplete slot shard detail data s)

/-- SHARD_TIMER_EXPIRY (R337): Bimon finds at a tick that a timer has expired; a shard of a STAGING slot fails it; a repair ends. -/
def shardTimerExpiry (n no : Nat) (s : State) : State :=
  match (s.slot n).shard no with
  | none => s
  | some x =>
    if !s.tickFrom (x.since + s.rd LOAD.INTAKE_CTL.TIMEOUT_S * 1_000_000_000) then s
    else if x.state ≤ 1 then
      ((s.closeWindow n x).shardCmd x stTimedOut ((s.slot n).ordinal no)).slotFails n no stTimedOut
    else if x.state = 5 then ((s.shardBack n x).shardCmd x stTimedOut ((s.slot n).ordinal no)).slotRegs n
    else s

/-- SHARD_TIMER_EXPIRY (R337). -/
def execShardTimerExpiry (slot shard : Nat) (s : State) : Host.Outcome State Fault Refusal := .next (shardTimerExpiry slot shard s)

/-! Re-checking (R339). -/

/-- Whether a shard's bytes in memory still have their digest; of one whose repair waits to be swapped in, the repair's bytes had. -/
def State.shardIntact (s : State) (n : Nat) (x : Shard) : Bool := x.swapSince.isSome || sha256 (s.imageBytes n x.off x.len) == x.digest

/-- The shards of a pass: every shard of every READY and ACTIVE slot, those from donors first. -/
def State.passList (s : State) : List (Nat × Nat) :=
  let all := (s.allShards.filter (fun p => s.slotState p.1 == 2 || s.slotState p.1 == 3))
  (all.filter (fun p => p.2.unchecked) ++ all.filter (fun p => !p.2.unchecked)).map (fun p => (p.1, p.2.no))

/-- One shard of the pass checked: a VERIFIED one that differs is CORRUPT. -/
def State.recheckOne (s : State) (p : Nat × Nat) : State :=
  match (s.slot p.1).shard p.2 with
  | none => s
  | some x =>
    if s.slotState p.1 = 2 ∨ s.slotState p.1 = 3 then
      let s := s.bump LOAD.RECHECK.SHARDS 1
      let s := s.shardMap p.1 x.no (fun y => { y with unchecked := false })
      if x.state = 2 ∧ !s.shardIntact p.1 x then s.shardCorrupt p.1 x else s
    else s

/-- RECHECK_SHARD (R339): the next shard of the background pass, or the first of a new pass, when it is due; the checks of a pass
are spread evenly over PERIOD_MIN. -/
def recheckShard (s : State) : State :=
  let l := if s.recheck.isEmpty then s.passList else s.recheck
  if !s.bimon || !s.is LOAD.RECHECK_CTL.ENABLE || decide (s.now < s.recheckAt) then s
  else match l with
    | [] => s
    | p :: r =>
      let s := { s with recheck := r, recheckAt := s.now + s.rd LOAD.RECHECK_CTL.PERIOD_MIN * 60_000_000_000 / s.passList.length }
      let s := s.recheckOne p
      if r.isEmpty then s.bump LOAD.RECHECK.PASSES 1 else s

/-- RECHECK_SHARD (R339). -/
def execRecheckShard (s : State) : Host.Outcome State Fault Refusal := .next (recheckShard s)

/-- The shards that a SHARD_VERIFY names. -/
def State.verifyList (s : State) (c : Cmd) : List Shard :=
  (s.slot c.wSlot).shards.filter (fun x => bit (c.p 0) 3 || x.no == c.wShard)

/-- The checks of SHARD_VERIFY. -/
def checkShardVerify (s : State) (c : Cmd) : Option (Nat × Nat) := firstBad [
  (s.ctxBad .device c, stBadContext, 0),
  (!onlyBits (c.p 0) 0xFFFF_FF0F || !c.restZero 1, stBadParam, 0x0E11),
  (s.slotState c.wSlot != 2 && s.slotState c.wSlot != 3, stBadParam, 0x0E15),
  (!bit (c.p 0) 3 && (s.verifyList c).isEmpty, stBadParam, 0x0E11)]

/-- SHARD_VERIFY (R339): the named shards hashed; DETAIL counts those that differ. -/
def shardVerify (s : State) (c : Cmd) : State :=
  let l := s.verifyList c
  let bad := l.filter (fun x => !s.shardIntact c.wSlot x)
  let s := l.foldl (fun (t : State) x => t.shardMap c.wSlot x.no (fun y => { y with unchecked := false })) (s.bump LOAD.RECHECK.SHARDS l.length)
  let s := (bad.filter (fun x => x.state == 2)).foldl (fun (t : State) x => t.shardCorrupt c.wSlot x) s
  if bad.isEmpty then s.doneWith c.id l.length 0 0 else s.failWith c.id stDigestFail bad.length

/-- SHARD_VERIFY (R339). -/
def execShardVerify (k : Nat) (s : State) : Host.Outcome State Fault Refusal := .next (s.runCmd k 0x61 always checkShardVerify shardVerify)

/-- A weight block that failed under R129: its shard becomes CORRUPT, and a deal of the block waits for the repair (R341). -/
def State.weightBlockFails (s : State) (n off : Nat) : State :=
  match (s.slot n).shards.find? (fun x => decide (x.off ≤ off) && decide (off < x.off + x.len)) with
  | none => s
  | some x =>
    let s := s.shardMap n x.no (fun y => { y with bad := y.bad ++ [((off - x.off) / 64 * 64, s.now)] })
    if x.state = 2 then s.shardCorrupt n x else s

/-- A failed weight block of a slot within a range of its image: the shard's number and the time it failed. -/
def State.badBlock (s : State) (n off len : Nat) : Option (Nat × Nat) :=
  ((s.slot n).shards.flatMap (fun x => (x.bad.filter (fun b => decide (off < x.off + b.1 + 64) && decide (x.off + b.1 < off + len))).map (fun b => (x.no, b.2)))).head?

/-- A repair swapped in (R340 steps 3 and 4): the shard's frames hold the repaired bytes, the move broadcast follows, and the deals
that waited go on. -/
def State.swapIn (s : State) (n : Nat) (x : Shard) : State :=
  let s := s.imageWrite n x.off ((List.range x.len).map (fun i => (aFind x.repair i).getD 0))
  let s := s.shardMap n x.no (fun y => { y with repair := [], swapSince := none, bad := [] })
  let s := ((imagePagesOf [x]).filterMap (fun p => aFind (s.slot n).pages p)).foldl (fun (t : State) f => t.broadcast 0 t.chip 0 f 1 t.chip f imagePage) s
  let s := { s with launches := s.launches.map (fun (l : Launch) => if l.repairOn.take 2 = [n, x.no] then { l with repairOn := [] } else l) }
  (s.bump LOAD.REPAIR.SWAPPED 1).slotRegs n

/-- REPAIR_WAIT_TIMEOUT (R341): the repair that a launch waits for has not been swapped in within TIMEOUT_S of the failure. -/
def repairWaitTimeout (i : Nat) (s : State) : State :=
  match s.launch i with
  | none => s
  | some l =>
    if l.repairOn ≠ [] ∧ l.repairOn.getD 2 0 + s.rd LOAD.INTAKE_CTL.TIMEOUT_S * 1_000_000_000 ≤ s.now then
      (s.launchMap i (fun x => { x with repairOn := [] })).endLaunch i stFaulted 0x0505
    else s

/-- REPAIR_WAIT_TIMEOUT (R341). -/
def execRepairWaitTimeout (launch : Nat) (s : State) : Host.Outcome State Fault Refusal := .next (repairWaitTimeout launch s)

/-! MODEL_SWITCH (R343). -/

/-- The routers of a context under a slot it does not run discarded (R496). -/
def State.slotRouters (s : State) (c slot : Nat) : State :=
  if s.ctxSlot c = slot then s else s.routersDrop (fun x n _ => x == c && n == slot)

/-- A pending switch withdrawn; its command ends JOB_ABORTED, and the routers of its slot are discarded (R496). -/
def State.switchOff (s : State) (c : Nat) : State :=
  match s.switchOf c with
  | none => s
  | some w => (({ s with switches := s.switches.filter (fun x => x.ctx != c) }).slotRouters c w.slot).failWith w.cmd stJobAborted 0

/-- The checks of MODEL_SWITCH and of its CANCEL (Table 14-5). -/
def checkModelSwitch (s : State) (c : Cmd) : Option (Nat × Nat) :=
  let cancel := bit (c.p 0) 3
  let next := bit (c.p 1) 32
  let st := s.slotState c.wSlot
  firstBad [
    (s.ctxBad .owned c, stBadContext, 0),
    (!onlyBits (c.p 0) 0xF || !onlyBits (c.p 1) 0x1_FFFF_FFFF || (next && c.p 1 % 2 ^ 32 != 0) || !c.restZero 2, stBadParam, 0x0E11),
    (if cancel then (s.switchOf c.context).isNone
      else (st != 2 && st != 3) || (!next && decide (c.p 1 % 2 ^ 32 < (s.ctx c.context).stepNo)), stBadParam, 0x0E14)]

/-- MODEL_SWITCH accepted: it replaces a pending one and waits for its step (R343, Table 14-6). -/
def modelSwitch (s : State) (c : Cmd) : State :=
  let w : Switch := { ctx := c.context, slot := c.wSlot, atStep := c.p 1 % 2 ^ 32, next := bit (c.p 1) 32, cmd := c.id }
  let s := s.switchOff c.context
  { s with switches := s.switches ++ [w] }.start c.id []

/-- MODEL_SWITCH (R343). -/
def execModelSwitch (k : Nat) (s : State) : Host.Outcome State Fault Refusal :=
  .next (s.runCmd k 0x63 (fun c => !bit (c.p 0) 3) checkModelSwitch modelSwitch)

/-- MODEL_SWITCH with CANCEL (R343). -/
def execModelSwitchCancel (k : Nat) (s : State) : Host.Outcome State Fault Refusal :=
  .next (s.runCmd k 0x63 (fun c => bit (c.p 0) 3) checkModelSwitch (fun s c => (s.switchOff c.context).doneWith c.id 0 0 0))

/-- The slot a context comes to name (none: no model), with both slots' states brought up (R332). -/
def State.nameSlot (s : State) (c : Nat) (slot : Option Nat) : State :=
  let old := (s.ctx c).slot
  let s := s.setCtx c { s.ctx c with slot := slot }
  let s := match old with | some n => s.slotRegs n | none => s
  match slot with | some n => s.slotRegs n | none => s

/-- The step slot of a context taken from the routers of the slot it runs (R215), where it has any. -/
def State.stepSlotOf (s : State) (c slot : Nat) : State :=
  match s.routers.find? (fun r => r.ctx == c && r.slot == slot) with
  | some r => { s with stepSlots := aPut s.stepSlots c r.stepSlot }
  | none => s

/-- The pending switch of a context taken at the assembly of step `n` where it covers that step (R343): the old slot's routers are removed
(R496). -/
def State.switchTake (s : State) (c n : Nat) : State :=
  match s.switchOf c with
  | none => s
  | some w =>
    if w.next || decide (w.atStep ≤ n) then
      let old := (s.ctx c).slot
      let s := { s with switches := s.switches.filter (fun x => x.ctx != c) }
      (((s.nameSlot c (some w.slot)).slotRouters c (old.getD 8)).stepSlotOf c w.slot).doneWith w.cmd n (old.getD 0) 0
    else s

/-! Intake at a host loss, a job abort, and the loss of an engine (Table 14-6). -/

/-- The windows of a lost host closed, their shards WAITING with no attempt counted. -/
def State.intakeHostLost (s : State) (h : Nat) : State :=
  (s.windowsOn h).foldl (fun (t : State) p => ((t.shardBack p.1 p.2).shardCmd p.2 stPartnerGone 0).slotRegs p.1) s

/-- A job abort: donor copies end, pending switches are withdrawn; staging goes on. -/
def State.intakeAbort (s : State) : State :=
  let s := (s.allShards.filter (fun p => p.2.donor.isSome && (p.2.state == 1 || p.2.state == 5))).foldl
    (fun (t : State) p => ((t.shardBack p.1 p.2).shardCmd p.2 stJobAborted 0).slotRegs p.1) s
  (s.switches.map Switch.ctx).foldl State.switchOff s

/-- A digest engine that leaves service while it hashes: its shard goes back with no attempt counted; the engines left take the
windows that wait. -/
def State.engineLost (s : State) (e : Nat) : State :=
  let s := s.engineReg e 0 false
  (s.allShards.filter (fun p => p.2.engine == some e)).foldl
    (fun (t : State) p => ((t.shardBack p.1 { p.2 with engine := none }).shardCmd p.2 stDigestFail p.2.attempts).slotRegs p.1) s

end Sys2Proof.Machine
end

