-- ==== Sys2Proof/Machine/Stock.lean ====
section
/-! DEFINITION. Stock within the module (R322–R326, R517): states of units, cores drawn after a retirement (R68, R69), SRAM banks
(R130), STOCK_DRAW, STOCK_RETURN and the daily self-test (R323). -/

namespace Sys2Proof.Machine

open Sys2Proof

/-- Unit states (Table 3-10): 0 ACTIVE, 1 STOCK, 2 REMOVED, 3 TESTING, 4 RETIRED. -/
def unitKey (cls g u : Nat) : Nat := (cls * 8 + g) * 512 + u

/-- Groups of a class. -/
def groupsOf (cls : Nat) : Nat := if cls = 2 then 1 else if cls = 3 then 2 else if cls < 5 then 8 else 0

/-- The state of a unit. -/
def State.unitState (s : State) (cls g u : Nat) : Nat :=
  if cls = 0 then s.rd (MTX.CORE_STATUS.STATE g u)
  else if cls = 3 then s.rd (LOAD.ENGINE.STATE (5 * g + u))
  else (aFind s.units (unitKey cls g u)).getD (if u < stockActive0 cls g then 0 else 1)

/-- The units of a group in a state, in ascending order. -/
def State.unitsIn (s : State) (cls g st : Nat) : List Nat := (List.range (stockBuilt cls g)).filter (fun u => s.unitState cls g u == st)

/-- The clock enables of a group of a class: open for the units that are ACTIVE or TESTING (R322, R442, R446). -/
def State.stockEnables (s : State) (cls g : Nat) : State :=
  let on (first n : Nat) : Nat := ((List.range n).map (fun i =>
    let st := s.unitState cls g (first + i)
    if first + i < stockBuilt cls g ∧ (st = 0 ∨ st = 3) then 2 ^ i else 0)).sum
  if cls = 0 then s.wr (CLK.CORE_EN.EN g) (on 0 34)
  else if cls = 1 then (List.range 5).foldl (fun t w => t.wr (CLK.BANK_EN.EN g w) (on (64 * w) 64)) s
  else if cls = 2 then s.wr CLK.MISC_EN.CTRL_CORES (on 0 5)
  else if cls = 3 then s.wr CLK.MISC_EN.DIGEST (setBits (s.rd CLK.MISC_EN.DIGEST) (5 * g) 5 (on 0 5))
  else s.wr (CLK.PHASE_EN.EN g) (on 0 24)

/-- The counts of a group brought up: STOCK.CLASS, the die's summaries of cores and banks, a rail's phases with the limit they give
(R416), and the clock enables. -/
def State.stockRegs (s : State) (cls g : Nat) : State :=
  let s := s.stockEnables cls g
  let n := fun st => (s.unitsIn cls g st).length
  let s := s.wrs [(STOCK.CLASS.ACTIVE cls g, n 0), (STOCK.CLASS.STOCK cls g, n 1), (STOCK.CLASS.RETIRED cls g, n 4), (STOCK.CLASS.TESTING cls g, b2n (n 3 != 0))]
  if cls = 0 then s.wrs [(MTX.DIE_SUMMARY.ACTIVE g, n 0), (MTX.DIE_SUMMARY.STOCK g, n 1), (MTX.DIE_SUMMARY.RETIRED g, n 4)]
  else if cls = 1 then s.wrs [(TIER.SRAM_DIE.BANKS_ACTIVE g, n 0), (TIER.SRAM_DIE.STOCK_BANKS g, n 1), (TIER.SRAM_DIE.RETIRED g, n 4)]
  else if cls = 4 then (s.wr (PWR.DIE_STATUS.PHASES g) (n 0)).limitReg g
  else s

/-- A unit put in a state. -/
def State.setUnit (s : State) (cls g u st cause : Nat) : State :=
  let s := if cls = 0 then (s.wr (MTX.CORE_STATUS.STATE g u) st).wr (MTX.CORE_STATUS.CAUSE g u) cause
    else if cls = 3 then s.wr (LOAD.ENGINE.STATE (5 * g + u)) st
    else { s with units := aPut s.units (unitKey cls g u) st }
  (s.stockRegs cls g)

/-- A unit's state changed by its self-test, with its CAUSE as it stands. -/
def State.testUnit (s : State) (cls g u st : Nat) : State := s.setUnit cls g u st (s.rd (MTX.CORE_STATUS.CAUSE g u))

/-- The stock map changed: the configuration record is to be rewritten within 100 ms (R326). -/
def State.mapChanged (s : State) : State := { s with recordDue := some (s.recordDue.getD s.now) }

/-! Cores (R44, R64, R68, R69). -/

/-- The replacements under way on a die, in order, with logical numbers from `n` up: those that the cores they draw will take. -/
def drawNumbers (die : Nat) : Nat → List CoreDraw → List CoreDraw
  | _, [] => []
  | n, d :: l => if d.die = die then { d with logical := n } :: drawNumbers die (n + 1) l else d :: drawNumbers die n l

/-- Logical numbers given from 0 up to the ACTIVE cores of a die in ascending physical order (R44); the others have none, and the
numbers beyond go to the replacements still under way, so that numbering stays contiguous. -/
def State.renumber (s : State) (die : Nat) : State :=
  let s := (List.range 34).foldl (fun t c => if t.unitState 0 die c = 0 then t else t.wr (MTX.CORE_STATUS.LOGICAL die c) 0x3F) s
  let act := s.unitsIn 0 die 0
  let s := (List.zip act (List.range 34)).foldl (fun t p => t.wr (MTX.CORE_STATUS.LOGICAL die p.1) p.2) s
  { s with draws := drawNumbers die act.length s.draws }

/-- A core leaves dispatch at once (R64): REMOVED, counted and recorded; its replacement is to be drawn. -/
def State.coreRetire (s : State) (die core cause : Nat) : State :=
  if s.unitState 0 die core != 0 then s
  else
    let logical := s.rd (MTX.CORE_STATUS.LOGICAL die core)
    let s := (s.setUnit 0 die core 2 cause).wr (MTX.CORE_STATUS.LOGICAL die core) 0x3F
    let s := ((s.bump MTX.MISDEAL_TOTAL.RETIREMENTS 1).bump STOCK.EVENTS.RETIREMENTS 1).record 0x0102 die core cause
    let d : CoreDraw := { die := die, old := core, logical := logical, cause := cause, due := s.nextTick }
    { s with draws := s.draws ++ [d] }.mapChanged

/-- The replacement of a die that is due and has no core under test. -/
def State.drawDue (s : State) (die : Nat) : Option CoreDraw := s.draws.find? (fun d => d.die == die && d.drawn.isNone && decide (d.due < s.nextTick))

/-- The replacement of a retired core given up: the core RETIRED, the die one core fewer (R69). -/
def State.drawEnds (s : State) (d : CoreDraw) : State :=
  let s := { s with draws := s.draws.filter (fun x => !(x.die == d.die && x.old == d.old)) }
  ((s.setUnit 0 d.die d.old 4 d.cause).mapChanged)

/-- STOCK_CORE_DRAW (R68): Bimon draws at a tick; the lowest-numbered STOCK core goes to TESTING; a die with none is recorded and runs
on (R69). -/
def stockCoreDraw (die : Nat) (s : State) : State :=
  match s.drawDue die with
  | none => s
  | some d =>
    if !s.bimon then s
    else match (s.unitsIn 0 die 1).head? with
    | none => ((s.drawEnds d).exhausted 0 die d.old).renumber die
    | some c =>
      { s with draws := s.draws.map (fun (x : CoreDraw) => if x.die = die ∧ x.old = d.old then { x with drawn := some c, due := s.nextTick } else x) }.setUnit 0 die c 3 d.cause

/-- STOCK_CORE_DRAW (R68). -/
def execStockCoreDraw (die : Nat) (s : State) : Host.Outcome State Fault Refusal := .next (stockCoreDraw die s)

/-- CORE_SELFTEST_DONE (R68): a core that passes becomes ACTIVE under the retired core's logical number; one that fails becomes
RETIRED, and the next is tried at the following tick. DESIGN CHOICE (log 19): the drawn core's CAUSE is the retirement's, as that is
what changed its STATE. -/
def coreSelftestDone (die core pass : Nat) (s : State) : State :=
  match s.draws.find? (fun d => d.die == die && d.drawn == some core && decide (d.due < s.nextTick)) with
  | none => s
  | some d =>
    if !s.bimon then s
    else if pass = 0 then
      let s := { s with draws := s.draws.map (fun (x : CoreDraw) => if x.die = die ∧ x.old = d.old then { x with drawn := none, due := s.nextTick } else x) }
      (((((s.setUnit 0 die core 4 3).bump STOCK.SELFTEST.FAILED 1).bump STOCK.EVENTS.RETIREMENTS 1).bump MTX.MISDEAL_TOTAL.RETIREMENTS 1).record 0x0102 die core 3).mapChanged
    else
      let s := (s.setUnit 0 die core 0 d.cause).wr (MTX.CORE_STATUS.LOGICAL die core) d.logical
      (s.drawEnds d).bump STOCK.EVENTS.DRAWS 1

/-- CORE_SELFTEST_DONE (R68). -/
def execCoreSelftestDone (die core pass : Nat) (s : State) : Host.Outcome State Fault Refusal := .next (coreSelftestDone die core pass s)

/-! SRAM banks (R109, R130). -/

/-- The physical bank of a logical bank. -/
def State.physBank (s : State) (die b : Nat) : Nat := (aFind s.bankMap (256 * die + b)).getD b

/-- The logical bank of a physical one. -/
def State.logBank (s : State) (die u : Nat) : Option Nat := (List.range 256).find? (fun b => s.physBank die b == u && s.unitState 1 die u == 0)

/-- A bank retired and a stock bank drawn under its logical number, with the contents that survive (R109, R130). -/
def State.bankRetire (s : State) (die b cause : Nat) : State :=
  let u := s.physBank die b
  let s := { s with badBanks := s.badBanks.filter (fun x => x != (die, b)), badSince := aErase s.badSince (256 * die + b) }
  let s := (s.setUnit 1 die u 4 cause).bump STOCK.EVENTS.RETIREMENTS 1
  match (s.unitsIn 1 die 1).head? with
  | some n =>
    let s := ({ s with bankMap := aPut s.bankMap (256 * die + b) n }.setUnit 1 die n 0 cause).bump STOCK.EVENTS.DRAWS 1
    (s.record 0x0203 die u n).mapChanged
  | none => ((s.record 0x0203 die u 0xFFFF).exhausted 1 die u).mapChanged

/-- Whether a bank with a persistent error is to be retired now: by Bimon, at the first tick behind the error (R130). -/
def State.bankDue (s : State) (die bank : Nat) : Bool :=
  s.badBanks.contains (die, bank) && s.bimon && decide (tickOf ((aFind s.badSince (256 * die + bank)).getD 0) < tickOf s.timeBase)

/-- BANK_RETIRE (R130). -/
def execBankRetire (die bank : Nat) (s : State) : Host.Outcome State Fault Refusal :=
  .next (if s.bankDue die bank then s.bankRetire die bank 1 else s)

/-! STOCK_DRAW and STOCK_RETURN (R325). -/

/-- CLASS of a stock command. -/
def Cmd.stockClass (c : Cmd) : Nat := bits (c.p 0) 0 3
/-- GROUP. -/
def Cmd.stockGroup (c : Cmd) : Nat := bits (c.p 0) 4 4
/-- UNIT. -/
def Cmd.stockUnit (c : Cmd) : Nat := bits (c.p 0) 8 9

/-- Whether an earlier stock command for the same group runs. -/
def State.stockBusy (s : State) (c : Cmd) : Bool :=
  s.cmds.any (fun d => decide (d.id < c.id) && (d.opcode == 0x84 || d.opcode == 0x85) && d.status.isNone && d.stockClass == c.stockClass && d.stockGroup == c.stockGroup)

/-- The checks of STOCK_DRAW (`draw`) and STOCK_RETURN (Table 13-5). -/
def checkStock (draw : Bool) (s : State) (c : Cmd) : Option (Nat × Nat) := firstBad [
  (s.ctxBad .device c, stBadContext, 0),
  (!onlyBits (c.p 0) 0x1FFF7 || !c.restZero 1, stBadParam, 0x0D07),
  (decide (4 < c.stockClass) || decide (groupsOf c.stockClass ≤ c.stockGroup) || decide (stockBuilt c.stockClass c.stockGroup ≤ c.stockUnit), stBadParam, 0x0D11),
  (s.stockBusy c, stBusyRetry, 0),
  (s.unitState c.stockClass c.stockGroup c.stockUnit != (if draw then 0 else 4), stBadParam, 0x0D12),
  (draw && (s.unitsIn c.stockClass c.stockGroup 1).isEmpty, stNoResource, 0)]

/-- A unit that failed its self-test: RETIRED with CAUSE 3, recorded, and counted unless it was RETIRED before (R323, R326, Table 13-10). -/
def State.testFailed (s : State) (cls g u : Nat) : State :=
  let n := b2n (s.unitState cls g u != 4)
  let s := (((s.setUnit cls g u 4 3).bump STOCK.SELFTEST.FAILED 1).bump STOCK.EVENTS.RETIREMENTS n).mapChanged
  let s := if cls = 0 then s.bump MTX.MISDEAL_TOTAL.RETIREMENTS n else s
  if cls = 0 then s.record 0x0102 g u 3 else if cls = 1 then s.record 0x0203 g u 0xFFFF else if cls = 4 then s.record 0x0703 g u 0xFF else s

/-- The unit to draw in the place of one retired: the lowest-numbered STOCK unit that passes its self-test; those that fail become
RETIRED. -/
def State.drawFor (s : State) (cls g : Nat) (failed : List Nat) : Option Nat × State :=
  let stock := s.unitsIn cls g 1
  let bad := stock.takeWhile (failed.contains ·)
  ((stock.drop bad.length).head?, bad.foldl (fun t u => t.testFailed cls g u) s)

/-- The unit that STOCK_DRAW names leaves service (R325). -/
def State.unitRetire (s : State) (cls g u : Nat) : State :=
  let s := ((s.setUnit cls g u 4 4).bump STOCK.EVENTS.RETIREMENTS 1).mapChanged
  if cls = 0 then ((s.wr (MTX.CORE_STATUS.LOGICAL g u) 0x3F).bump MTX.MISDEAL_TOTAL.RETIREMENTS 1).record 0x0102 g u 4
  else if cls = 3 then s.engineLost (5 * g + u) else s

/-- STOCK_DRAW (R325): the named unit RETIRED with CAUSE 4, the drawn one ACTIVE under its logical number. `failed` names the stock
units whose self-test fails; where every one does, the named unit stays ACTIVE (R327). -/
def stockDraw (failed : List Nat) (s : State) (c : Cmd) : State :=
  let cls := c.stockClass
  let g := c.stockGroup
  let u := c.stockUnit
  if s.is (STOCK.CLASS.TESTING cls g) then s
  else
    let logical := s.rd (MTX.CORE_STATUS.LOGICAL g u)
    let bank := s.logBank g u
    match s.drawFor cls g failed with
    | (none, s) => s.failWith c.id stNoResource 0
    | (some n, s) =>
      let s := ((s.unitRetire cls g u).setUnit cls g n 0 4).bump STOCK.EVENTS.DRAWS 1
      let s := if cls = 0 then s.wr (MTX.CORE_STATUS.LOGICAL g n) logical
        else if cls = 1 then (match bank with | some b => { s with bankMap := aPut s.bankMap (256 * g + b) n } | none => s).record 0x0203 g u n
        else if cls = 4 then s.record 0x0703 g u n else if cls = 3 then s.assignEngines g else s
      s.doneWith c.id n 0 0

/-- STOCK_DRAW (R325): Bimon acts at a tick boundary behind its acceptance (R20). -/
def execStockDraw (k : Nat) (failed : List Nat) (s : State) : Host.Outcome State Fault Refusal :=
  .next (s.runCmd k 0x84 (fun c => s.tickSince c.since) (checkStock true) (stockDraw failed))

/-- STOCK_RETURN (R325): the unit is tested, and goes to STOCK or stays RETIRED. -/
def stockReturn (failed : List Nat) (s : State) (c : Cmd) : State :=
  let cls := c.stockClass
  let g := c.stockGroup
  let u := c.stockUnit
  if s.is (STOCK.CLASS.TESTING cls g) then s
  else if failed.contains u then (s.testFailed cls g u).doneWith c.id 4 0 0
  else (((s.setUnit cls g u 1 4).bump STOCK.EVENTS.RETURNS 1).mapChanged).doneWith c.id 1 0 0

/-- STOCK_RETURN (R325): Bimon acts at a tick boundary behind its acceptance (R20). -/
def execStockReturn (k : Nat) (failed : List Nat) (s : State) : Host.Outcome State Fault Refusal :=
  .next (s.runCmd k 0x85 (fun c => s.tickSince c.since) (checkStock false) (stockReturn failed))

/-- STOCK_SELFTEST (R323): the daily test of a unit ends; it returns to STOCK, or, failing, becomes RETIRED. -/
def stockSelftest (cls g u pass : Nat) (s : State) : State :=
  if s.bimon && s.selfNow == some (unitKey cls g u) then
    let s := { s with selfNow := none }
    if pass = 0 then s.testFailed cls g u else s.testUnit cls g u 1
  else s

/-- STOCK_SELFTEST (R323). -/
def execStockSelftest (cls group unit pass : Nat) (s : State) : Host.Outcome State Fault Refusal := .next (stockSelftest cls group unit pass s)

end Sys2Proof.Machine
end

