-- ==== Sys2Proof/Machine/Tiles.lean ====
section
/-! DEFINITION. What a tile computes (R45–R61, R76–R103): its descriptor and operand headers, digits and passes, the sums of
the bottom edge, expand mode, the write face's records, and a tile's counts for redeal. -/

namespace Sys2Proof.Machine

open Sys2Proof

/-! Descriptors (Table 3-1). -/

/-- A word of a descriptor. -/
def wd (w : List Nat) (i : Nat) : Nat := w.getD i 0
/-- PASS_MODE. -/
def tMode (w : List Nat) : Nat := bits (wd w 0) 0 4
/-- EXPAND. -/
def tExpand (w : List Nat) : Bool := bit (wd w 0) 4
/-- EXPAND_AXIS. -/
def tAxis (w : List Nat) : Bool := bit (wd w 0) 5
/-- ACC_IN. -/
def tAccIn (w : List Nat) : Bool := bit (wd w 0) 6
/-- EPILOGUE. -/
def tEpilogue (w : List Nat) : Bool := bit (wd w 0) 7
/-- N_COLS. -/
def tCols (w : List Nat) : Nat := bits (wd w 0) 8 8
/-- S. -/
def tS (w : List Nat) : Nat := bits (wd w 0) 16 16
/-- M of array `a`. -/
def tM (w : List Nat) (a : Nat) : Nat := bits (wd w 0) (32 + 8 * a) 8
/-- WEIGHT_VA. -/
def tWeight (w : List Nat) : Nat := bits (wd w 1) 0 57
/-- ACT_VA of array `a`. -/
def tAct (w : List Nat) (a : Nat) : Nat := bits (wd w (2 + a)) 0 57
/-- ACC_VA. -/
def tAcc (w : List Nat) : Nat := bits (wd w 6) 0 57
/-- TILE_TAG. -/
def tTag (w : List Nat) : Nat := bits (wd w 7) 0 16

/-- Arrays of a core. -/
def arrays : List Nat := [0, 1, 2, 3]
/-- The largest M. -/
def tMmax (w : List Nat) : Nat := arrays.foldl (fun m a => max m (tM w a)) 0
/-- Passes of a mode (Table 3-3). -/
def passCount (mode : Nat) : Nat := [1, 2, 2, 4, 9, 3, 4, 3].getD mode 1
/-- Length in steps: occupancy and drain (R48). -/
def tSteps (w : List Nat) : Nat := 16 + tS w * passCount (tMode w) * max (tMmax w + 3) 16 + 260

/-- Whether a constraint of expand mode is broken (R57). DESIGN CHOICE (log 48): EXPAND_AXIS 1 with EXPAND 0, for which Table 3-2 gives no
DETAIL, is one. -/
def expandBad (w : List Nat) : Bool :=
  (!tExpand w && tAxis w) || (tExpand w && ((tMode w != 1 && tMode w != 5) || tAccIn w || tEpilogue w || tCols w % 32 != 0 ||
    (tAxis w && arrays.any (fun a => tM w a != 0 && tM w a != 32))))

/-- The DETAIL of a descriptor's first fault, in the order of Table 3-2. DESIGN CHOICE (log 48): N_COLS over 128 is taken as the
range fault 0x0303, and EXPAND_AXIS 1 with EXPAND 0, which Table 3-1 forbids and Table 3-2 does not name, as 0x0305. -/
def tileFault (w : List Nat) : Option Nat :=
  if 8 ≤ tMode w then some 0x0301
  else if 4560 < tSteps w then some 0x0302
  else if tCols w = 0 ∨ 128 < tCols w ∨ tS w = 0 ∨ tMmax w = 0 then some 0x0303
  else if 128 < tMmax w then some 0x0304
  else if expandBad w then some 0x0305
  else if (List.range 7).any (fun i => decide (2 ^ (if i = 6 then 16 else 57) ≤ wd w (1 + i))) then some 0x0306
  else none

/-! Operand headers (Table 4-3). -/

/-- The fields of an operand header. -/
structure Header where
  fmt : Nat
  srcValid : Bool
  srcBf16 : Bool
  site : Nat
  kBlocks : Nat
  vectors : Nat
  noPredict : Bool
  codes : Nat
  scales : Nat
  records : Nat
  source : Nat
  stride : Nat
  chan0 : Nat
deriving DecidableEq, Repr, Inhabited

/-- A header read from its words. -/
def Header.ofWords (w : List Nat) : Header :=
  { fmt := bits (wd w 0) 0 2, srcValid := bit (wd w 0) 2, srcBf16 := bit (wd w 0) 3, site := bits (wd w 0) 4 12,
    kBlocks := bits (wd w 0) 16 16, vectors := bits (wd w 0) 32 16, noPredict := bit (wd w 0) 48, codes := bits (wd w 1) 0 57,
    scales := bits (wd w 2) 0 57, records := bits (wd w 3) 0 57, source := bits (wd w 4) 0 57, stride := bits (wd w 5) 0 32,
    chan0 := bits (wd w 5) 32 16 }

/-- The form of an operand's codes. -/
def Header.form (h : Header) : Form := Form.ofFormat h.fmt
/-- Index of vector `v`, block `b` in the code, scale and record arrays (R85). -/
def Header.idx (h : Header) (v b : Nat) : Nat := v * h.stride + b
/-- Bytes of a source block. -/
def Header.srcBytes (h : Header) : Nat := if h.srcBf16 then 64 else 128

/-- Bytes as little-endian words of `n` bytes. -/
def wordsOf (n k : Nat) (l : List Nat) : List Nat := (List.range k).map (fun i => leOf ((l.drop (n * i)).take n))

/-! Reads of a tile's operands (R118: they never fault). -/

/-- One chunk of an operand as it lies in this module. -/
def State.tileChunk (s : State) (c : Nat) (p : Nat × Nat) : List Nat :=
  match s.walk c p.1 with
  | some (_, big, leaf) =>
    match s.locate leaf (p.1 % pageSize big) with
    | .here k => nats (memBytes s.mem k p.2)
    | .far _ _ _ => (List.range p.2).map (fun i => Config.goneByte (p.1 + i) % 256)
  | none => (List.range p.2).map (fun i => Config.goneByte (p.1 + i) % 256)

/-- `n` bytes of an operand. -/
def State.tileBytes (s : State) (c va n : Nat) : List Nat := (chunksOf va n).flatMap (s.tileChunk c)

/-- The header at an address. -/
def State.header (s : State) (c va : Nat) : Header := Header.ofWords (wordsOf 8 8 (s.tileBytes c va 64))

/-- The scale and codes of an activation block as stored. -/
def State.actStored (s : State) (c : Nat) (h : Header) (v b : Nat) : Nat × List Nat :=
  (leOf (s.tileBytes c (h.scales + h.idx v b) 1), h.form.unpack (s.tileBytes c (h.codes + h.idx v b * h.form.bytes) h.form.bytes))

/-- The block record of an activation block (Table 4-4). -/
def State.actRecord (s : State) (c : Nat) (h : Header) (v b : Nat) : Nat := leOf (s.tileBytes c (h.records + 4 * h.idx v b) 4)

/-- The conversion source of an activation block, as FP32 patterns. -/
def State.sourceBits (s : State) (c : Nat) (h : Header) (v b : Nat) : List Nat :=
  let l := s.tileBytes c (h.source + h.idx v b * h.srcBytes) h.srcBytes
  if h.srcBf16 then (wordsOf 2 32 l).map (· * 2 ^ 16) else wordsOf 4 32 l

/-- The conversion source of an activation block. -/
def State.actSource (s : State) (c : Nat) (h : Header) (v b : Nat) : List Num := (s.sourceBits c h v b).map num32

/-- The values of an activation block as FP32 patterns: its conversion source, or, where it keeps none, its codes under its scale. -/
def State.actValues (s : State) (c : Nat) (h : Header) (v b : Nat) : List Nat :=
  if h.srcValid then s.sourceBits c h v b
  else
    let r := s.actStored c h v b
    r.2.map (fun x => code32 0 (if r.1 = 0xFF then .nan else h.form.element r.1 x))

/-- The block as a redeal with H converts it again: X = EMAX − 2 + H, for a wider form EMAX − e_f + H (R92). -/
def State.actRedealt (s : State) (c : Nat) (h : Header) (v b hcount : Nat) : Faced :=
  let emax := bits (s.actRecord c h v b) 16 8
  h.form.face (clampX ((emax : Int) - h.form.ef + (hcount : Int))) (s.actSource c h v b)

/-- Whether the entry face converts an operand of pass mode 4 from its source: the x of a V·x tile (R97). -/
def Header.entry (h : Header) (mode : Nat) : Bool := mode == 4 && h.fmt != 3 && h.srcValid

/-- Scale and codes of an activation block as they enter the array: as stored, redealt, or converted to 12-bit block integers
under a measured scale; with the form the digits are cut from. -/
def State.actBlock (s : State) (c mode : Nat) (redeal : Option Nat) (h : Header) (v b : Nat) : Form × Nat × List Nat :=
  if h.entry mode then
    let r := Form.int12.measured (s.actSource c h v b)
    (.int12, r.1, r.2)
  else match redeal with
    | some n => let f := s.actRedealt c h v b n; (h.form, f.scale, f.codes)
    | none => let r := s.actStored c h v b; (h.form, r.1, r.2)

/-! Digits and passes (R52–R54). -/

/-- Digit `i` of a code of an activation form: FP4 as its cell integer, INT4 and the high digit signed, the others 0–15. -/
def digit (f : Form) (i code : Nat) : Int :=
  match f with
  | .fp4 => if i = 0 then fp4Cell code else 0
  | .int4 => if i = 0 then int4Of code else 0
  | .int8 => if i = 0 then (code % 16 : Nat) else if i = 1 then int4Of (code / 16) else 0
  | .int12 => if i < 2 then (code / 16 ^ i % 16 : Nat) else if i = 2 then int4Of (code / 256) else 0
  | .mxfp8 => 0

/-- One pass: the operand header it reads (0 a, 1 b, 2 a + b), the activation digit, the weight run, the weight digit's place,
and what it adds to the real and the imaginary accumulator (1, −1 or 0). -/
structure Pass where
  head : Nat
  act : Nat
  run : Nat
  place : Nat
  re : Int := 1
  im : Int := 0
deriving DecidableEq, Repr, Inhabited

/-- Weight runs of a mode (R55, R56). -/
def runCount (mode : Nat) : Nat := [1, 1, 2, 2, 3, 1, 2, 3].getD mode 1
/-- Operand headers of each array of a mode (R56). -/
def headCount (mode : Nat) : Nat := [1, 1, 1, 1, 1, 1, 2, 3].getD mode 1

/-- The passes of a mode as Table 3-3 and R54 list them. -/
def passList (mode : Nat) : List Pass :=
  let grid (n m : Nat) := (List.range m).flatMap (fun j => (List.range n).map (fun i => ({ head := 0, act := i, run := j, place := j } : Pass)))
  match mode with
  | 0 => grid 1 1
  | 1 => grid 2 1
  | 2 => grid 1 2
  | 3 => grid 2 2
  | 4 => grid 3 3
  | 5 => grid 3 1
  | 6 => [{ head := 0, act := 0, run := 0, place := 0 }, { head := 1, act := 0, run := 1, place := 0, re := -1 },
          { head := 0, act := 0, run := 1, place := 0, re := 0, im := 1 }, { head := 1, act := 0, run := 0, place := 0, re := 0, im := 1 }]
  | _ => [{ head := 2, act := 0, run := 0, place := 0, im := 1 }, { head := 0, act := 0, run := 1, place := 0, re := 0, im := 1 },
          { head := 1, act := 0, run := 2, place := 0, re := -1 }]

/-- A list with the element at a place brought to the front, `n` times by the mode's order: a permutation whatever the order. -/
def permute (f : Nat → Nat) : Nat → List Pass → List Pass
  | 0, l => l
  | n + 1, l =>
    match l[f n % l.length]? with
    | none => l
    | some p => p :: permute f n (l.eraseIdx (f n % l.length))

/-- The passes in the order the mode fixes (R96): a mode of one pass has one order; modes 6 and 7 run as R54 lists them. -/
def passesOf (mode : Nat) : List Pass :=
  if mode = 0 ∨ 6 ≤ mode then passList mode else permute (Config.passOrder mode) (passList mode).length (passList mode)

/-! Weights (R55). -/

/-- Scale and codes of block `b` of column `n` of sub-tile `t` of a run. -/
def State.weightBlock (s : State) (c : Nat) (w : List Nat) (run t n b : Nat) : Nat × List Nat :=
  let base := tWeight w + (run * tS w + t) * 8704
  (leOf (s.tileBytes c (base + 8192 + 4 * n + b) 1),
    (List.range 32).map (fun i => nibble (s.tileBytes c (base + 64 * n + 16 * b) 16) i))

/-- Whether a mode's weights are 4-bit codes, FP4 or INT4; the others are digits of wider integers (R52). -/
def weightSmall (mode : Nat) : Bool := runCount mode == 1 || decide (6 ≤ mode)

/-- The cell operand of a weight code: in a mode of one weight digit an FP4 code, or with `int4` an INT4 code; else a low digit, or
the high INT4 digit. -/
def weightDigit (int4 : Bool) (mode run code : Nat) : Int :=
  if weightSmall mode then (if int4 then int4Of code else fp4Cell code)
  else if run + 1 = runCount mode then int4Of code else (code % 16 : Nat)

/-- Whether a tile's weights are FP4 codes, taken at twice their value (R79). -/
def weightFp4 (int4 : Bool) (mode : Nat) : Bool := weightSmall mode && !int4

/-- The format of a tile's weights: INT4 or FP4, as the model was prepared (R79: the descriptor does not say). -/
def weightInt4 (c : Nat) (w : List Nat) : Bool := Config.weightInt4 c (tWeight w)

/-! The bottom edge (R79, R96). -/

/-- The sum of the products of two lists of cell operands. -/
def dot (x y : List Int) : Int := (List.zipWith (· * ·) x y).foldl (· + ·) 0

/-- The integer partial of one block and pass. -/
def partialOf (int4 : Bool) (f : Form) (act mode run : Nat) (x w : List Nat) : Int :=
  dot (x.map (digit f act)) (w.map (weightDigit int4 mode run))

/-- The FP32 term of a block partial, NaN where a scale is 0xFF (R78). -/
def termOf (int4 : Bool) (f : Form) (p : Pass) (mode xa xw : Nat) (b : Int) : Num :=
  if xa = 0xFF ∨ xw = 0xFF then .nan
  else
    let e : Int := (xa : Int) + xw - 254 - (if f = .fp4 then 1 else 0) - (if weightFp4 int4 mode then 1 else 0) + 4 * ((p.act : Int) + p.place)
    .fin (decide (b < 0)) b.natAbs e

/-- A term added into an accumulator by one FP32 addition; `sg` 0 leaves it. -/
def addTerm (acc : Nat) (sg : Int) (t : Num) : Nat :=
  if sg = 0 then acc
  else
    let t := code32 (Config.nanBits acc 0) (if sg < 0 then t.neg else t)
    add32 acc t

/-- One pass of one block into the two accumulators of a vector and column. -/
def State.passAdd (s : State) (c : Nat) (w : List Nat) (redeal : Option Nat) (a v n t b : Nat) (acc : Nat × Nat) (p : Pass) : Nat × Nat :=
  let h := s.header c (tAct w a + 64 * p.head)
  let x := s.actBlock c (tMode w) redeal h v (4 * t + b)
  let y := s.weightBlock c w p.run t n b
  let int4 := weightInt4 c w
  let tm := termOf int4 x.1 p (tMode w) x.2.1 y.1 (partialOf int4 x.1 p.act (tMode w) p.run x.2.2 y.2)
  (addTerm acc.1 p.re tm, addTerm acc.2 p.im tm)

/-- Where an accumulator lies (R55). -/
def accAt (w : List Nat) (a v n : Nat) : Nat := tAcc w + 4 * ((128 * a + v) * 128 + n)

/-- The two accumulators of a vector and column at the tile's end: sub-tiles, then blocks, then passes in order (R96). -/
def State.accOf (s : State) (c : Nat) (w : List Nat) (redeal : Option Nat) (a v n : Nat) : Nat × Nat :=
  let init := if tAccIn w then
      (leOf (s.tileBytes c (accAt w a v n) 4), if 6 ≤ tMode w then leOf (s.tileBytes c (accAt w a v n + 262144) 4) else 0)
    else (0, 0)
  (List.range (tS w)).foldl (fun acc t => (List.range 4).foldl (fun acc b =>
    (passesOf (tMode w)).foldl (s.passAdd c w redeal a v n t b) acc) acc) init

/-! Results. -/

/-- A result as it is written, through the vector unit with EPILOGUE. -/
def outOf (w : List Nat) (addr x : Nat) : Nat := if tEpilogue w then Config.epilogue addr x % 2 ^ 32 else x

/-- The writes of an ordinary tile: address and bytes. -/
def State.tileWrites (s : State) (c : Nat) (w : List Nat) (redeal : Option Nat) : List (Nat × List Nat) :=
  arrays.flatMap (fun a => (List.range (tM w a)).flatMap (fun v => (List.range (tCols w)).flatMap (fun n =>
    let r := s.accOf c w redeal a v n
    let p := accAt w a v n
    (p, leVals 4 (outOf w p r.1)) :: (if 6 ≤ tMode w then [(p + 262144, leVals 4 (outOf w (p + 262144) r.2))] else []))))

/-- One block of expand mode in a record of ACC_VA: block `b` of record column `col` of record `r`, narrowed to FP4 under its
measured scale (R57). -/
def expandBlock (w : List Nat) (r col b : Nat) (l : List Num) : List (Nat × List Nat) :=
  let f := Form.fp4.measured l
  let base := tAcc w + 8704 * r
  [(base + 64 * col + 16 * b, Form.fp4.pack f.2), (base + 8192 + 4 * col + b, [f.1])]

/-- The writes of a tile with EXPAND: axis 0, 32 adjacent columns of one vector; axis 1, the 32 vectors of an array in one column.
DESIGN CHOICE (log 48): R55 does not say which record column a block takes. With axis 0 the vectors of the arrays in turn are the
record columns, 128 to a record; with axis 1 array a gives scale block a of record 0. -/
def State.expandWrites (s : State) (c : Nat) (w : List Nat) (redeal : Option Nat) : List (Nat × List Nat) :=
  if tAxis w then
    (arrays.filter (fun a => tM w a != 0)).flatMap (fun a => (List.range (tCols w)).flatMap (fun n =>
      expandBlock w 0 n a ((List.range 32).map (fun v => num32 (s.accOf c w redeal a v n).1))))
  else
    (arrays.flatMap (fun a => (List.range (tM w a)).map (fun v => (a, v)))).zipIdx.flatMap (fun p =>
      (List.range (tCols w / 32)).flatMap (fun b =>
        expandBlock w (p.2 / 128) (p.2 % 128) b ((List.range 32).map (fun i => num32 (s.accOf c w redeal p.1.1 p.1.2 (32 * b + i)).1))))

/-- Everything an accepted tile writes. -/
def State.resultWrites (s : State) (c : Nat) (w : List Nat) (redeal : Option Nat) : List (Nat × List Nat) :=
  if tExpand w then s.expandWrites c w redeal else s.tileWrites c w redeal

/-- Blocks with scale 0xFF that the bottom edge meets in one run of the shares of some of a tile's arrays (R78): of the activations
and of the weights. DESIGN CHOICE (log 48): a block counts once for each run that meets it, whatever passes and vectors it feeds. -/
def State.nanScales (s : State) (c : Nat) (w : List Nat) (redeal : Option Nat) (shares : List Nat) : Nat :=
  (shares.map (fun a => ((List.range (headCount (tMode w))).map (fun k =>
    ((List.range (tM w a)).map (fun v => ((List.range (4 * tS w)).filter (fun b =>
      (s.actBlock c (tMode w) redeal (s.header c (tAct w a + 64 * k)) v b).2.1 == 0xFF)).length)).sum)).sum)).sum +
  ((List.range (runCount (tMode w))).map (fun r => ((List.range (tS w)).map (fun t => ((List.range (tCols w)).map (fun n =>
    ((List.range 4).filter (fun b => (s.weightBlock c w r t n b).1 == 0xFF)).length)).sum)).sum)).sum

/-! Checksums (R59–R61). -/

/-- A checksum side as its 24-bit signed register holds it (R61). -/
def sum24 (x : Int) : Int := toSigned 24 (ofSigned 24 x)

/-- The activation digits of vector `v`, block `b`, as a pass streams them. -/
def State.actDigits (s : State) (c : Nat) (w : List Nat) (redeal : Option Nat) (a v b : Nat) (p : Pass) : List Int :=
  let x := s.actBlock c (tMode w) redeal (s.header c (tAct w a + 64 * p.head)) v b
  x.2.2.map (digit x.1 p.act)

/-- The weight codes of a column's block as the cells hold them. -/
def State.cellColumn (s : State) (c : Nat) (w : List Nat) (run t n b : Nat) : List Int :=
  (s.weightBlock c w run t n b).2.map (weightDigit (weightInt4 c w) (tMode w) run)

/-- Lists of 32 operands added element by element. -/
def sumRows (l : List (List Int)) : List Int := (List.range 32).map (fun i => (l.map (fun r => r.getD i 0)).foldl (· + ·) 0)

/-- The weight codes of the checksum column's cells in a block: each row's sum over the tile's columns (R59). -/
def State.checkColumn (s : State) (c : Nat) (w : List Nat) (run t b : Nat) : List Int :=
  sumRows ((List.range (tCols w)).map (fun n => s.cellColumn c w run t n b))

/-- The comparisons of the checksum column for one sub-tile, block and pass: for each vector of an array, the column's output and the
sum of the data block partials (R59). -/
def State.columnChecks (s : State) (c : Nat) (w : List Nat) (redeal : Option Nat) (a t b : Nat) (p : Pass) : List (Int × Int) :=
  (List.range (tM w a)).map (fun v =>
    let x := s.actDigits c w redeal a v (4 * t + b) p
    (sum24 (dot x (s.checkColumn c w p.run t b)),
      sum24 (((List.range (tCols w)).map (fun n => dot x (s.cellColumn c w p.run t n b))).foldl (· + ·) 0)))

/-- The three digit vectors of a checksum vector's 12-bit integers (R52, R60). -/
def digitVectors (l : List Int) : List (List Int) :=
  [l.map (fun x => x % 16), l.map (fun x => x / 16 % 16), l.map (fun x => x / 256)]

/-- The comparisons of the checksum row for one sub-tile, block and pass: for each column, the recombined output of the checksum vector
and the sum of the data block partials of the array's vectors (R60). -/
def State.rowChecks (s : State) (c : Nat) (w : List Nat) (redeal : Option Nat) (a t b : Nat) (p : Pass) : List (Int × Int) :=
  let xs := (List.range (tM w a)).map (fun v => s.actDigits c w redeal a v (4 * t + b) p)
  let ds := digitVectors (sumRows xs)
  (List.range (tCols w)).map (fun n =>
    let y := s.cellColumn c w p.run t n b
    (sum24 (ds.zipIdx.foldl (fun (r : Int) d => r + dot d.1 y * 16 ^ d.2) 0), sum24 ((xs.map (fun x => dot x y)).foldl (· + ·) 0)))

/-- Every comparison of an array's share of a tile. -/
def State.checks (s : State) (c : Nat) (w : List Nat) (redeal : Option Nat) (a : Nat) : List (Int × Int) :=
  (List.range (tS w)).flatMap (fun t => (List.range 4).flatMap (fun b => (passesOf (tMode w)).flatMap (fun p =>
    s.columnChecks c w redeal a t b p ++ s.rowChecks c w redeal a t b p)))

/-- Whether an array's share of a tile agrees with its checksums (R61: exactly). A fault of the array, or an injection (R75), has put
one of the compared sums of data partials out by `err`. -/
def State.shareAgrees (s : State) (c : Nat) (w : List Nat) (redeal : Option Nat) (a : Nat) (err : Int) : Bool :=
  match s.checks c w redeal a with
  | [] => err == 0
  | p :: l => p.1 == sum24 (p.2 + err) && l.all (fun q => q.1 == q.2)

/-! Redeal counts (R91, R92). -/

/-- The activation blocks a tile reads: header address, vector, block. -/
def tileBlocks (w : List Nat) : List (Nat × Nat × Nat) :=
  arrays.flatMap (fun a => (List.range (headCount (tMode w))).flatMap (fun k => (List.range (tM w a)).flatMap (fun v =>
    (List.range (4 * tS w)).map (fun b => (tAct w a + 64 * k, v, b)))))

/-- The SAT and ZERO totals of a tile's predicted blocks, and how many those are (R91): from the records, or, after a redeal,
from its own conversions. -/
def State.tileCounts (s : State) (c : Nat) (w : List Nat) (redeal : Option Nat) : Nat × Nat × Nat :=
  (tileBlocks w).foldl (fun acc p =>
    let h := s.header c p.1
    let r := s.actRecord c h p.2.1 p.2.2
    if bit r 13 || h.entry (tMode w) then acc
    else
      match redeal with
      | none => (acc.1 + bits r 0 6, acc.2.1 + bits r 6 6, acc.2.2 + 1)
      | some n => let f := s.actRedealt c h p.2.1 p.2.2 n; (acc.1 + f.sat, acc.2.1 + f.zero, acc.2.2 + 1)) (0, 0, 0)

/-- Whether every block the tile read has its conversion source (R93). -/
def State.tileSourced (s : State) (c : Nat) (w : List Nat) : Bool :=
  arrays.all (fun a => tM w a == 0 || (List.range (headCount (tMode w))).all (fun k => (s.header c (tAct w a + 64 * k)).srcValid))

/-! The pages of a tile's operands (R118). -/

/-- Ranges that a descriptor names: weights, and the headers, accumulators or expand records, of arrays with vectors. -/
def tileRanges (w : List Nat) : List (Nat × Nat) :=
  let acc := if tExpand w then [(tAcc w, 8704 * (if tAxis w then 1 else ceilDiv ((arrays.map (tM w)).sum) 128))]
    else (arrays.filter (fun a => tM w a != 0)).flatMap (fun a =>
      (tAcc w + 65536 * a, 512 * tM w a) :: (if 6 ≤ tMode w then [(tAcc w + 262144 + 65536 * a, 512 * tM w a)] else []))
  (tWeight w, runCount (tMode w) * tS w * 8704) :: acc ++
    (arrays.filter (fun a => tM w a != 0)).map (fun a => (tAct w a, 64 * headCount (tMode w)))

/-- Ranges that an operand's header names for `m` vectors of `k` blocks. -/
def Header.ranges (h : Header) (m k : Nat) : List (Nat × Nat) :=
  if m = 0 then []
  else
    let n := (m - 1) * h.stride + k
    [(h.codes, n * h.form.bytes), (h.scales, n), (h.records, 4 * n)] ++ (if h.srcValid then [(h.source, n * h.srcBytes)] else [])

/-- The first page of a list of ranges that is not RESIDENT in the SRAM of this module (R118): address and leaf. -/
def State.notHere (s : State) (c : Nat) (l : List (Nat × Nat)) : Option (Nat × Option Nat) :=
  (l.flatMap (fun r => chunksOf r.1 r.2)).findSome? (fun p =>
    match s.walk c p.1 with
    | none => some (p.1, none)
    | some (_, _, leaf) => if lfState leaf = 0 ∧ lfTier leaf = 0 ∧ lfChip leaf = s.chip then none else some (p.1, some leaf))

/-- The first page that holds a tile back: of its descriptor's ranges, then of its operand headers'. -/
def State.tileMisses (s : State) (c : Nat) (w : List Nat) : Option (Nat × Option Nat) :=
  match s.notHere c (tileRanges w) with
  | some p => some p
  | none => s.notHere c ((arrays.filter (fun a => tM w a != 0)).flatMap (fun a =>
      (List.range (headCount (tMode w))).flatMap (fun k => (s.header c (tAct w a + 64 * k)).ranges (tM w a) (4 * tS w))))

/-- The 64 KiB pages that ranges touch, by number. -/
def pagesOf (l : List (Nat × Nat)) : List Nat :=
  (l.flatMap (fun r => if r.2 = 0 then [] else (List.range ((r.1 + r.2 - 1) / 0x1_0000 + 1 - r.1 / 0x1_0000)).map (fun i => r.1 / 0x1_0000 + i))).dedup

/-- The pages that a tile needs until its verdict: those its descriptor names, and those its operand headers name (R118). -/
def State.tileNeeds (s : State) (c : Nat) (w : List Nat) : List Nat :=
  pagesOf (tileRanges w ++ (arrays.filter (fun a => tM w a != 0)).flatMap (fun a =>
    (List.range (headCount (tMode w))).flatMap (fun k => (s.header c (tAct w a + 64 * k)).ranges (tM w a) (4 * tS w))))

/-! The write face (R84–R90). -/

/-- The prediction for a channel block, read from the context's table where its page is RESIDENT in SRAM (R88). `num` holds
MARGIN, SAT_SHIFT, ZERO_SHIFT, MAX_REDEALS, TABLE_ENABLE, TABLE_VA, SITES, STRIDE. -/
def State.tableByte (s : State) (c : Nat) (num : List Nat) (site b : Nat) : Option Nat :=
  if num.getD 4 0 = 0 ∨ num.getD 6 0 ≤ site ∨ num.getD 7 0 ≤ b then none
  else
    match s.walk c (num.getD 5 0 + site * num.getD 7 0 + b) with
    | some (_, big, leaf) =>
      if lfState leaf = 0 ∧ lfTier leaf = 0 ∧ lfChip leaf = s.chip then
        some (devKey (lfFrame leaf + (num.getD 5 0 + site * num.getD 7 0 + b) % pageSize big))
      else none
    | none => none

/-- The predicted EMAX of a block, none where it is unpredicted (R88). -/
def State.prediction (s : State) (c : Nat) (num : List Nat) (h : Header) (b : Nat) : Option Nat :=
  if h.noPredict then none
  else match s.tableByte c num h.site (h.chan0 + b) with
    | none => none
    | some k => if s.load k 1 = 0xFF then none else some (s.load k 1)

/-- A block converted by the write face for a context: what it stores and its record (R86–R89). -/
def State.faceBlock (s : State) (c : Nat) (num : List Nat) (h : Header) (b : Nat) (l : List Num) : Faced × Nat :=
  let p := if h.fmt < 2 then s.prediction c num h b else none
  let f := h.form.face (h.form.faceScale p (num.getD 0 0) l) l
  (f, f.record p.isNone)

/-- The key of a launch's largest EMAX at a site and channel block (R90); the channel block takes at most 17 bits. -/
def emaxKey (h : Header) (b : Nat) : Nat := h.site * 2 ^ 32 + h.chan0 + b

/-- The fold of one entry (R90). -/
def State.foldOne (s : State) (c : Nat) (num : List Nat) (p : Nat × Nat) : State :=
  match s.tableByte c num (p.1 / 2 ^ 32) (p.1 % 2 ^ 32) with
  | none => s
  | some k =>
    let old := s.load k 1
    s.store k 1 (if old = 0xFF ∨ old ≤ p.2 then p.2 else max p.2 (old - 1))

/-! What a window holds (R125, R260). -/

/-- Bytes written at the pages of a context's table, whatever their WRITE bit (R90). -/
def State.tableWrite (s : State) (c va : Nat) (data : List Nat) : State :=
  (chunksOf va data.length).foldl (fun (t : State) p => match t.walk c p.1 with
    | some (_, big, l) => match t.locate l (p.1 % pageSize big) with
      | .here k => t.storeBytes k (toBytes ((data.drop (p.1 - va)).take p.2))
      | .far _ _ _ => t
    | none => t) s

/-- Bytes of half a window. -/
def Window.half (w : Window) : Nat := w.pages / 2 * 0x20_0000

/-- The tag of a half. -/
def Window.tag (w : Window) (h : Nat) : List Nat := if h = 0 then w.tag0 else w.tag1

/-- A window changed in place. -/
def State.windowMap (s : State) (w : Window) (f : Window → Window) : State :=
  { s with windows := s.windows.map (fun (x : Window) => if x.die = w.die ∧ x.slotNo = w.slotNo then f x else x) }

/-! Deltas (R245, R246). -/

/-- A registered variant of a slot. -/
def State.variantOf (s : State) (slot no : Nat) : Option Variant := s.variants.find? (fun v => v.slot == slot && v.no == no)

/-- Bits set in a byte. -/
def bitCount (x : Nat) : Nat := (maskList x 8).length

/-- A byte of a context's memory where it is resident here. -/
def State.byteAt (s : State) (c va : Nat) : Option Nat :=
  match s.walk c va with
  | some (_, big, l) => if lfState l == 2 || lfState l == 3 then none else
    match s.locate l (va % pageSize big) with
    | .here k => some (s.load k 1)
    | .far _ _ _ => none
  | none => none

/-- The bits set before bit `i` of a bitmap. -/
def State.rankAt (s : State) (c va i : Nat) : Option Nat :=
  (List.range (i / 8 + 1)).foldl (fun (a : Option Nat) j =>
    match a, s.byteAt c (va + j) with
    | some n, some b => some (n + bitCount (if j = i / 8 then b % 2 ^ (i % 8) else b))
    | _, _ => none) (some 0)

/-- The 4-bit code that a delta puts at element `i` of its matrix: the element's own where the bitmap has no bit for it, else its value, the
values standing in bitmap order (KIND 0). -/
def State.codeDelta (s : State) (c : Nat) (w : List Nat) (i old : Nat) : Option Nat :=
  match s.byteAt c (wd w 2 + i / 8) with
  | none => none
  | some b =>
    if bit b (i % 8) then
      match s.rankAt c (wd w 2) i with
      | none => none
      | some r => (s.byteAt c (wd w 3 + r / 2)).map (fun x => bits x (4 * (r % 2)) 4)
    else some old

/-- A byte of an image with one delta applied, none where the spec does not give it: its matrix has its codes at CODES, the scales behind
them, then V and U of its correction. What CODES means to the parts of a matrix held by several dies, and how the scales of a KIND 1 delta
come out, no table gives. -/
def State.deltaByte (s : State) (c : Nat) (m w : List Nat) (off b : Nat) : Option Nat :=
  let codes := wd m 2 * wd m 3 / 2
  let scales := codes + wd m 2 * wd m 3 / 32
  let rank := bits (wd w 0) 25 3
  let v := scales + 2 * (4 * 2 ^ wd m 1) * wd m 2
  let u := v + 2 * (4 * 2 ^ wd m 1) * wd m 3
  let p := off - wd m 4
  if (maskList (wd m 5) 36).length ≠ 1 then (if bit (wd m 5) (off / 2 ^ 33) then none else some b)
  else if off < wd m 4 then some b
  else if p < scales ∧ bit (wd w 0) 24 then none
  else if p < codes then
    match s.codeDelta c w (2 * p) (b % 16), s.codeDelta c w (2 * p + 1) (b / 16) with
    | some x, some y => some (x + 16 * y)
    | _, _ => none
  else if p < scales ∨ rank = 0 ∨ wd m 1 = 0 ∨ u ≤ p then some b
  else if rank ≠ wd m 1 then none
  else if p < v then s.byteAt c (wd w 5 + (p - scales))
  else s.byteAt c (wd w 4 + (p - v))

/-- A byte of an image as dealt for a variant: every delta of the variant applied, a free value where the spec does not give it. -/
def State.dealtByte (s : State) (slot : Nat) (x : Variant) (off b free : Nat) : Nat :=
  (x.descs.foldl (fun (a : Option Nat) w =>
    match a, (s.slot slot).matrices.find? (fun m => wd m 0 == bits (wd w 0) 0 24) with
    | some b, some m => s.deltaByte x.ctx m w off b
    | a, _ => a) (some b)).getD (free % 256)

/-- The bytes of an image as dealt: the base image's, or, for a variant group, those with the variant's delta applied (R246). -/
def State.dealtBytes (s : State) (slot off n group : Nat) : List Nat :=
  let l := s.imageBytes slot off n
  match s.variantOf slot group with
  | none => l
  | some x => l.zipIdx.map (fun (p : Nat × Nat) => s.dealtByte slot x (off + p.2) p.1 (Config.freeData (s.freeCtr + p.2)))

/-- The image that place `at'` of a window holds: slot, image offset, variant group. The part dealt ahead comes first in a half; the
experts' images follow it in the current half. -/
def Window.source (w : Window) (at' : Nat) : Option (Nat × Nat × Nat) :=
  let h := at' / w.half
  let p := at' % w.half
  match w.tag h with
  | [slot, layer, group, _] =>
    let base := Config.layerBytes slot layer w.die
    if p < base then some (slot, Config.layerPlace slot layer w.die 1024 + p, group)
    else if h = w.current then
      (w.experts.find? (fun x => decide (base + x.at' ≤ p) && decide (p < base + x.at' + x.len))).map
        (fun x => (slot, Config.layerPlace slot layer w.die x.expert + (p - base - x.at'), 0))
    else none
  | _ => none

/-- A tile's weight sub-tiles dealt again into its window from their HBM home (R67 step 1). -/
def State.redealWeights (s : State) (c d : Nat) (w : List Nat) : State :=
  match s.windowOf c d with
  | none => s
  | some win =>
    (chunksOf (tWeight w) (runCount (tMode w) * tS w * 8704)).foldl (fun (t : State) p =>
      if p.1 < win.va ∨ win.va + 2 * win.half ≤ p.1 then t
      else match win.source (p.1 - win.va) with
        | some r => { t.tableWrite c p.1 (t.dealtBytes r.1 r.2.1 p.2 r.2.2) with freeCtr := t.freeCtr + p.2 }
        | none => t) s

end Sys2Proof.Machine
end

