-- ==== Sys2Proof/Machine/Programs.lean ====
section
/-! DEFINITION. Programs (R371, R375–R377): the image's header, trailers and bodies, LOAD_PROGRAM and UNLOAD_PROGRAM, and the
vector operations. -/

namespace Sys2Proof.Machine

open Sys2Proof

/-! Vector bodies (Table 15-14). -/

/-- VOP. -/
def vOp (w : List Nat) : Nat := bits (wd w 0) 0 8
/-- A_TYPE. -/
def vAType (w : List Nat) : Nat := bits (wd w 0) 8 2
/-- OUT_TYPE. -/
def vOutType (w : List Nat) : Nat := bits (wd w 0) 10 2
/-- B_IMM. -/
def vImm (w : List Nat) : Bool := bit (wd w 0) 12
/-- ROWS. -/
def vRows (w : List Nat) : Nat := bits (wd w 0) 16 16
/-- COLS. -/
def vCols (w : List Nat) : Nat := bits (wd w 0) 32 24

/-- Whether an operation reads operand B. -/
def vTwo (op : Nat) : Bool := (decide (1 ≤ op) && decide (op ≤ 5)) || op == 0x0A
/-- Whether an operation writes one result per row. -/
def vRow (op : Nat) : Bool := op == 0x10 || op == 0x11
/-- Bytes of an element of A_TYPE. -/
def vSize (t : Nat) : Nat := if t = 0 then 4 else 2

/-- Whether a reserved bit of a vector body is set. -/
def vectorReserved (w : List Nat) : Bool :=
  !onlyBits (wd w 0) 0x00FF_FFFF_FFFF_1FFF || [1, 2, 3, 6].any (fun i => decide (2 ^ 57 ≤ wd w i)) || wd w 7 != 0

/-- Whether a vector body is as LOAD_PROGRAM demands (R376). -/
def vectorOk (w : List Nat) : Bool :=
  !vectorReserved w && ((decide (1 ≤ vOp w) && decide (vOp w ≤ 0x0B)) || vRow (vOp w)) && decide (vAType w ≤ 1) && decide (vOutType w ≤ 2) &&
    vRows w != 0 && vCols w != 0 && bits (wd w 4) 0 32 % vSize (vAType w) == 0 && bits (wd w 4) 32 32 % (if vOutType w = 0 then 4 else 2) == 0 &&
    bits (wd w 5) 0 32 % vSize (vAType w) == 0 && (wd w 2 == 0 || (vTwo (vOp w) && !vImm w)) && (wd w 6 == 0 || vOutType w == 2)

/-! Control bodies (Table 15-16). -/

/-- COP. -/
def cOp (w : List Nat) : Nat := bits (wd w 0) 0 8

/-- Whether a reserved bit of a control body is set. -/
def controlReserved (w : List Nat) : Bool :=
  !onlyBits (wd w 0) 0x3FF || decide (2 ^ 57 ≤ wd w 1) || decide (2 ^ 32 ≤ wd w 3) || [4, 5, 6, 7].any (fun i => wd w i != 0)

/-- Whether a control body is as LOAD_PROGRAM demands (R377). -/
def controlOk (w : List Nat) : Bool :=
  let wait := cOp w == 1
  let acts := wait || cOp w == 2 || cOp w == 3
  !controlReserved w && decide (cOp w ≤ 4) && (if wait then decide (bits (wd w 0) 8 2 ≤ 2) else bits (wd w 0) 8 2 == 0) &&
    (if acts then wd w 1 % 8 == 0 else wd w 1 == 0 && wd w 2 == 0) &&
    (if wait then decide (1 ≤ wd w 3) && decide (wd w 3 ≤ 60_000_000) else wd w 3 == 0)

/-! Images (R371). -/

/-- Words of an image from a byte up. -/
def imageWords (img : List Nat) (at' n : Nat) : List Nat := wordsOf 8 n (img.drop at')
/-- KIND of a program: 0 kernel, 1 layer. -/
def imageKind (img : List Nat) : Nat := bits (wd (imageWords img 0 1) 0) 16 1
/-- Dies a program needs. -/
def imageDies (img : List Nat) : Nat := bits (wd (imageWords img 0 1) 0) 24 8
/-- Records of a program. -/
def imageCount (img : List Nat) : Nat := bits (wd (imageWords img 0 1) 0) 32 32
/-- Bytes of its argument block. -/
def imageArgs (img : List Nat) : Nat := wd (imageWords img 8 1) 0
/-- Body of record `i`. -/
def recBody (img : List Nat) (i : Nat) : List Nat := imageWords img (64 + 128 * i) 8
/-- Trailer of record `i` (Table 15-13). -/
def recTrailer (img : List Nat) (i : Nat) : Nat := wd (imageWords img (128 + 128 * i) 1) 0
/-- TYPE of a record. -/
def recType (img : List Nat) (i : Nat) : Nat := bits (recTrailer img i) 0 8
/-- Whether a record runs on a die. -/
def recOn (img : List Nat) (i d : Nat) : Bool := bits (recTrailer img i) 8 8 == 0 || bit (recTrailer img i) (8 + d)
/-- Patch `j` of a record. -/
def recPatch (img : List Nat) (i j : Nat) : Nat := bits (recTrailer img i) (16 + 16 * j) 16

/-- The mover descriptor of a body. -/
def bodyDesc (w : List Nat) : Desc := { id := 0, mover := 0, queue := 0, ctx := 0, words := w, issuer := 1, owner := 0 }

/-- Whether a record's body is as its TYPE demands. -/
def bodyOk (type : Nat) (w : List Nat) : Bool :=
  match type with
  | 1 => (tileFault w).isNone
  | 2 => (descFault (bodyDesc w)).isNone
  | 3 => vectorOk w
  | 4 => controlOk w
  | _ => false

/-- Whether record `i` of an image is valid. -/
def recOk (img : List Nat) (i : Nat) : Bool :=
  bodyOk (recType img i) (recBody img i) && (List.range 3).all (fun j => decide (recPatch img i j < 2 ^ 14)) &&
    ((img.drop (64 + 128 * i + 72)).take 56).all (fun b => b == 0)

/-- Whether an image's header and every record are valid. -/
def imageOk (img : List Nat) : Bool :=
  let w := imageWords img 0 8
  bits (wd w 0) 0 16 == 1 && bits (wd w 0) 17 7 == 0 && decide (wd w 1 ≤ 8192) && (w.drop 2).all (fun x => x == 0) &&
    decide (64 + 128 * imageCount img ≤ img.length) && (List.range (imageCount img)).all (recOk img)

/-- The program a context has under a handle. -/
def State.program (s : State) (c h : Nat) : Option Program := s.programs.find? (fun p => p.handle == h && p.ctx == c)

/-- The handle a command names. -/
def Cmd.handle (c : Cmd) : Nat := bits (c.p 0) 16 16

/-! LOAD_PROGRAM. -/

/-- The checks of LOAD_PROGRAM at acceptance. -/
def checkLoadProgram (s : State) (c : Cmd) : Option (Nat × Nat) :=
  if bit (c.p 0) 0 then firstBad [
    (s.ctxBad .owned c, stBadContext, 0),
    (!onlyBits (c.p 0) 0xFFFF_0001 || !c.restZero 1, stBadParam, 0x0F01),
    ((s.program c.context c.handle).isNone, stBadParam, 0x0F41)]
  else firstBad [
    (s.ctxBad .owned c, stBadContext, 0),
    (c.p 0 != 0 || decide (2 ^ 57 ≤ c.p 1) || decide (2 ^ 32 ≤ c.p 2) || !c.restZero 3, stBadParam, 0x0F01),
    (c.p 1 % 64 != 0 || decide (c.p 2 < 64) || decide (16_777_216 < c.p 2), stBadParam, 0x0F41)]

/-- Bytes the program store holds. -/
def State.storeUsed (s : State) : Nat := (s.programs.map (fun p => p.image.length)).sum

/-- A program image checked and copied into the store (R371). -/
def loadImage (c : Cmd) (s : State) (img : List Nat) : State :=
  if !imageOk img then s.failWith c.id stBadParam 0x0F42
  else
    match (List.range 4096).find? (fun i => !s.programs.any (fun p => p.handle == i + 1)) with
    | none => s.failWith c.id stNoResource 0
    | some i =>
      if 268_435_456 < s.storeUsed + img.length then s.failWith c.id stNoResource 0
      else
        let p : Program := { handle := i + 1, ctx := c.context, kind := imageKind img, dies := imageDies img, argBytes := imageArgs img, image := img }
        ({ s with programs := s.programs ++ [p] }.dropGot c.origin.who).doneWith c.id (i + 1) img.length 0

/-- LOAD_PROGRAM: the image read at its address (R520), then checked. -/
def loadProgram (s : State) (c : Cmd) : State := s.withBytes c (c.p 1) (c.p 2) (loadImage c)

/-- LOAD_PROGRAM (R371). -/
def execLoadProgram (k : Nat) (s : State) : Host.Outcome State Fault Refusal :=
  .next (s.runCmd k 0x34 (fun c => !bit (c.p 0) 0) checkLoadProgram loadProgram)

/-- UNLOAD: the program leaves the store; a launch under way keeps what it took. -/
def unloadProgram (s : State) (c : Cmd) : State :=
  { s with programs := s.programs.filter (fun p => !(p.handle == c.handle && p.ctx == c.context)) }.doneWith c.id 0 0 0

/-- LOAD_PROGRAM with UNLOAD (R371). -/
def execUnloadProgram (k : Nat) (s : State) : Host.Outcome State Fault Refusal :=
  .next (s.runCmd k 0x34 (fun c => bit (c.p 0) 0) checkLoadProgram unloadProgram)

/-! Vector operations (Table 15-15). -/

/-- One element's result: operand a, operand b, and the result's present value. -/
def vElem (op a b r : Nat) : Nat :=
  match op with
  | 0x01 => add32 a b
  | 0x02 => mul32 a b
  | 0x03 => code32 (Config.nanBits (mul32 a b) r) (((num32 a).mul (num32 b)).add (num32 r))
  | 0x04 => fpPick num32 0x7FC0_0000 true a b
  | 0x05 => fpPick num32 0x7FC0_0000 false a b
  | 0x06 => exp2Of a
  | 0x07 => log2Of a
  | 0x08 => rcpOf a
  | 0x09 => rsqrtOf a
  | 0x0A => if (num32 b).lt (num32 a) then 0x3F80_0000 else 0
  | _ => a

/-- One row's result, elements in ascending column order. -/
def vReduce (op : Nat) : List Nat → Nat
  | [] => 0
  | a :: r => if op = 0x10 then r.foldl add32 a else r.foldl (fpPick num32 0x7FC0_0000 true) a

/-- The results of a row: of its elements, or one. -/
def vRowOut (w : List Nat) (a b r : List Nat) : List Nat :=
  if vRow (vOp w) then [vReduce (vOp w) a]
  else (List.range a.length).map (fun i => vElem (vOp w) (a.getD i 0) (b.getD i 0) (r.getD i 0))

/-- FP32 patterns of a row's bytes: FP32, or BF16 widened exactly. -/
def vRead (bf16 : Bool) (l : List Nat) : List Nat :=
  if bf16 then (wordsOf 2 (l.length / 2) l).map (· * 2 ^ 16) else wordsOf 4 (l.length / 4) l

/-- Bytes of a row's results. -/
def vWrite (bf16 : Bool) (l : List Nat) : List Nat := if bf16 then l.flatMap (fun x => leVals 2 (round16 x)) else l.flatMap (leVals 4)

end Sys2Proof.Machine
end

