-- ==== Sys2Proof/Machine/Attention.lean ====
section
/-! DEFINITION. Attention in a step's layers (R187, R190–R193, R201–R204, R240): the runs of four cache pages, their copies into a working
buffer, the conversion, expansion and running softmax, and the ring and merge passes of a shuffle ring. -/

namespace Sys2Proof.Machine

open Sys2Proof

/-! Steps and their items. -/

/-- A running step changed in place. -/
def State.stepMap (s : State) (c : Nat) (f : Step → Step) : State :=
  { s with steps := s.steps.map (fun (t : Step) => if t.ctx = c then f t else t) }

/-- The running step of a context. -/
def State.stepOf (s : State) (c : Nat) : Option Step := s.steps.find? (fun t => t.ctx == c)

/-- Rows of an item: its tokens and drafts. -/
def StepItem.rows (i : StepItem) : Nat := i.count + i.depth

/-- The position after an item's last. -/
def StepItem.stop (i : StepItem) : Nat := i.first + i.rows

/-- The rows of a step's items by client tag (R227). -/
def State.itemTags (s : State) (l : List StepItem) : List (Nat × Nat) :=
  l.foldl (fun (a : List (Nat × Nat)) x =>
    let t := s.rd (SERVE.HAND_STATE.CLIENT_TAG x.hand)
    aPut a t ((aFind a t).getD 0 + x.rows)) []

/-- The items of a variant group of a launch's step, but for those whose hands the step has lost. -/
def State.groupItems (s : State) (l : Launch) (g : Nat) : List StepItem :=
  match s.stepOf l.ctx with
  | some t => t.items.filter (fun i => s.handState i.hand == 2 && s.rd (SERVE.SPEC_STATE.VARIANT i.hand) == g && i.ended.isNone)
  | none => []

/-- LATENT_MODE of a launch's step (R192). -/
def State.latentMode (s : State) (l : Launch) : Nat := ((s.stepOf l.ctx).map Step.latentMode).getD 0

/-- The pass mode of the expand tiles: 5 on 12-bit block integers, 1 on 8-bit ones (R192). -/
def attnPass (latent : Nat) : Nat := if latent = 0 then 5 else 1

/-- The queue of a launch's class (R143). -/
def Launch.moverQueue (l : Launch) : Nat := if l.cls = 0 then 1 else 2

/-- The model-table slot of a launch as a number. -/
def Launch.slotNo (l : Launch) : Nat := l.slot.getD 8

/-- Bytes of a launch's query row. -/
def Launch.queryBytes (l : Launch) : Nat := 64 * Config.queryBlocks l.slotNo l.layer

/-- Query heads of a launch's layer. -/
def Launch.heads (l : Launch) : Nat := Config.attnHeads l.slotNo l.layer

/-- The origin of a launch's accesses on a die: its dispatcher, and the command it serves (R520). -/
def State.launchOrigin (s : State) (l : Launch) (engine die no : Nat) : Origin :=
  match l.cmd.bind s.cmdOf with
  | some c => { engine := engine, seq := c.seq, chan := c.chan % 128, noCmd := false, who := ⟨2, l.id, die, no⟩ }
  | none => { engine := engine, who := ⟨2, l.id, die, no⟩ }

/-! Members of a ring (R200–R202). -/

/-- Positions of a member's segment. -/
def Hand.segLen (x : Hand) : Nat := ringSeg x.ring * 2048

/-- This hand's place in its ring, 0 for a hand of none. -/
def Hand.member (x : Hand) : Nat := if x.ring.isEmpty then 0 else ringIndex x.ring

/-- Whether member `k` holds new positions of an item. -/
def StepItem.holds (i : StepItem) (x : Hand) (k : Nat) : Bool := decide (i.first / x.segLen ≤ k) && decide (k ≤ (i.stop - 1) / x.segLen)

/-- The last member that holds new positions. -/
def StepItem.lastHolder (i : StepItem) (x : Hand) : Nat := (i.stop - 1) / x.segLen

/-- The new positions of an item that member `k` holds; all of them for a hand of no ring. -/
def StepItem.rowsOf (i : StepItem) (x : Hand) (k : Nat) : List Nat :=
  ((List.range i.rows).map (i.first + ·)).filter (fun p => x.ring.isEmpty || p / x.segLen == k)

/-- The later members that hold new positions. -/
def StepItem.laterHolders (i : StepItem) (x : Hand) : List Nat := (List.range 6).filter (fun k => decide (x.member < k) && i.holds x k)

/-- Whether a launch runs an item as a ring pass, its new positions numbering more than MERGE_MAX; else as a merge pass (R202). -/
def State.ringPass (s : State) (l : Launch) (i : StepItem) : Bool := decide (((s.stepOf l.ctx).map Step.mergeMax).getD 0 < i.count)

/-- Whether this member takes no part in an item: it lies after the last holder (R203, R204). -/
def StepItem.idle (i : StepItem) (x : Hand) : Bool := !x.ring.isEmpty && decide (i.lastHolder x < x.member)

/-! Runs (R190, R191, R240). -/

/-- The runs of one layer over positions `lo` to `hi - 1` of a cache of base `base` and `n` layers that hand or entry `h` places, read
for `hand`; the position 0 of the cache is position `off` of the conversation. Each run with the die that homes its latent page. -/
def layerRuns (hand base n h layer off lo hi : Nat) : List (Nat × CacheRun) :=
  if hi ≤ lo then []
  else (List.range (ceilDiv hi 128 - lo / 128)).map (fun i =>
    let a := max ((lo / 128 + i) * 128) (lo / 32 * 32)
    let e := min hi ((lo / 128 + i) * 128 + 128)
    (spanDie n (a / 2048) layer h, {
      hand := hand, dev := false, first := off + a, n := alignUp (e - a) 32, live := e - a,
      lat := spanVa base n (a / 2048) layer + a % 2048 * 1024,
      pos := spanVa base n (a / 2048) (n + layer / 10) + layer % 10 * 196_608 + a % 2048 * 96 }))

/-- The runs of a layer for an item: positions below the attached prefix from the entry and the others from the hand's own spans, up to
the item's last position (R191, R240); of a ring hand those of its own segment, in a ring pass only where it holds new positions. -/
def State.itemRuns (s : State) (l : Launch) (i : StepItem) : List (Nat × CacheRun) :=
  let n := i.hand
  let x := s.hand n
  if x.layers ≤ l.layer then []
  else if x.ring.isEmpty then
    (match specAttached (s.specWord n) with
      | some e => layerRuns n (s.entryAt e).va (s.entryAt e).layers e l.layer 0 0 (min i.stop x.prefixLen)
      | none => []) ++ layerRuns n x.cacheVa x.layers n l.layer 0 x.prefixLen i.stop
  else if i.idle x || (s.ringPass l i && !i.holds x x.member) then []
  else layerRuns n x.cacheVa x.layers n l.layer x.segStart 0 (min (i.stop - x.segStart) x.segLen)

/-- The die of slot `k` of a hand's ring buffer. -/
def State.slotDie (s : State) (n k : Nat) : Nat := dieOf (ringOff s.chip n k)

/-- The dies that a layer's attention runs on (R190): those that home its runs, and of a ring pass's holder those of its ring buffer. -/
def State.attnDies (s : State) (l : Launch) : List Nat :=
  (l.groups.flatMap (s.groupItems l)).flatMap (fun i =>
    (s.itemRuns l i).map Prod.fst ++ (if (s.hand i.hand).ring.isEmpty then [] else (List.range 4).map (s.slotDie i.hand)))

/-! New positions (R187, R193). -/

/-- A hand's work in a launch. -/
def Launch.workOf (l : Launch) (n : Nat) : AttnWork := (l.work.find? (fun w => w.hand == n)).getD { hand := n, fr := 0 }

/-- A hand's work changed in place. -/
def State.workMap (s : State) (i n : Nat) (f : AttnWork → AttnWork) : State :=
  s.launchMap i (fun x => { x with work := x.work.map (fun (w : AttnWork) => if w.hand = n then f w else w) })

/-- Latents and position keys of one layer written to their places for positions of a cache, as free values (R187, R193). -/
def State.fillLayer (s : State) (c base n layer : Nat) (place : Nat → Option Nat) (ps : List Nat) (fr : Nat) : State :=
  (ps.zipIdx).foldl (fun (t : State) q =>
    match place q.1 with
    | none => t
    | some p =>
      let f (i : Nat) : Nat := Config.freeData (fr + q.2 * 1120 + i) % 256
      (t.tableWrite c (spanVa base n (p / 2048) layer + p % 2048 * 1024) ((List.range 1024).map f)).tableWrite c
        (spanVa base n (p / 2048) (n + layer / 10) + layer % 10 * 196_608 + p % 2048 * 96) ((List.range 96).map (fun i => f (1024 + i)))) s

/-- An item's new positions computed by a launch: written once, with the queries of their rows formed. -/
def State.itemFill (l : Launch) (s : State) (i : StepItem) : State :=
  let x := s.hand i.hand
  let fr := s.freeCtr
  let ps := (List.range i.rows).map (i.first + ·)
  let s := if l.layer < x.layers then s.fillLayer l.ctx x.cacheVa x.layers l.layer x.place ps fr else s
  { s with freeCtr := fr + i.rows * (1120 + l.queryBytes) }.launchMap l.id (fun y => { y with work := y.work ++ [({ hand := i.hand, fr := fr } : AttnWork)] })

/-- The new positions of a group computed. -/
def State.attnFill (s : State) (l : Launch) (g : Nat) : State :=
  ((s.groupItems l g).foldl (State.itemFill l) s).launchMap l.id (fun y => { y with filled := y.filled ++ [g] })

/-- The query bytes of the row at a position of an item. -/
def Launch.queryOf (l : Launch) (i : StepItem) (p : Nat) : List Nat :=
  let at' := (l.workOf i.hand).fr + i.rows * 1120 + (p - i.first) * l.queryBytes
  (List.range l.queryBytes).map (fun j => Config.freeData (at' + j) % 256)

/-! Blocks of a run (R191 steps 2 and 3). -/

/-- The write face's counts of a block (R102). -/
def State.faceCounts (s : State) (f : Faced) : State :=
  ((s.bump MTX.NUM_SAT_TOTAL.ELEMENTS f.sat).bump MTX.NUM_ZERO_TOTAL.ELEMENTS f.zero).bump MTX.NUM_NAN.NAN_IN f.nans

/-- The header of an attention operand: NO_PREDICT set, 12-bit or 8-bit block integers from a BF16 source (R191, R192). -/
def attnHeader (latent : Nat) : Header := {
  fmt := if latent = 0 then 3 else 2, srcValid := true, srcBf16 := true, site := 0, kBlocks := 16, vectors := 128, noPredict := true, codes := 0,
  scales := 0, records := 0, source := 0, stride := 16, chan0 := 0 }

/-- The 16 blocks of a position's latent, as numbers. -/
def latentBlocks (b : List Nat) : List (List Num) :=
  (List.range 16).map (fun k => (wordsOf 2 32 (b.drop (64 * k))).map (fun x => num32 (x * 2 ^ 16)))

/-- A position's latent converted under measured scales (R89): the scale and the codes of each block, one after the other. -/
def State.faceLatent (s : State) (l : Launch) (b : List Nat) : State × List Nat :=
  (latentBlocks b).foldl (fun (a : State × List Nat) blk =>
    let f := (a.1.faceBlock l.ctx l.num (attnHeader (s.latentMode l)) 0 blk).1
    (a.1.faceCounts f, a.2 ++ f.scale :: f.codes)) (s, [])

/-- Bytes of a working buffer from a place up. -/
def DiePart.bytesAt (p : DiePart) (place n : Nat) : List Nat := (((p.buffer.flatMap Prod.snd).drop place).take n)

/-- Every latent of a run converted. -/
def State.faceRun (s : State) (l : Launch) (p : DiePart) (r : CacheRun) : State × List (List Nat) :=
  (List.range r.n).foldl (fun (a : State × List (List Nat)) k =>
    let f := a.1.faceLatent l (p.bytesAt (1024 * k) 1024)
    (f.1, a.2 ++ [f.2])) (s, [])

/-- The expanded key of a position for a head, with EXPAND_AXIS 0: FP4 blocks of 32 adjacent columns, scale and codes (R57, R191). -/
def expandKey (key : List Nat) (blocks head : Nat) (latent : List Nat) : List Nat :=
  (List.range blocks).flatMap (fun b =>
    let f := Form.fp4.measured ((List.range 32).map (fun j => num32 (Config.attnUp (key ++ [0, head, 32 * b + j]) latent)))
    f.1 :: f.2)

/-- The expanded values of a cache page for a head and column, with EXPAND_AXIS 1: one FP4 block of 32 positions (R57, R191). -/
def expandValue (key : List Nat) (head col : Nat) (page : List (List Nat)) : List Nat :=
  let f := Form.fp4.measured (page.map (fun latent => num32 (Config.attnUp (key ++ [1, head, col]) latent)))
  f.1 :: f.2

/-! The running softmax (R191 steps 4 and 5). -/

/-- A running softmax that has taken in the positions of a run: the scores of those not masked out, the maximum, and the sums brought to
it. DESIGN CHOICE (log 51): the vector unit works run by run, in ascending position within it. -/
def AttnSum.runOn (u : AttnSum) (key : List Nat) (blocks : Nat) (q : List Nat) (latents poss : List (List Nat)) (live : Nat) : AttnSum :=
  let xs := (List.range live).map (fun k =>
    add32 (Config.attnScore (u.head :: q) (expandKey key blocks u.head (latents.getD k []))) (Config.posScore (u.head :: q) (poss.getD k [])))
  if xs.isEmpty then u
  else
    let m := xs.foldl max32 u.m
    let c := exp32 (sub32 u.m m)
    let ws := xs.map (fun x => exp32 (sub32 x m))
    let pages := List.range (ceilDiv latents.length 32)
    { u with
      m := m, s := ws.foldl add32 (mul32 u.s c),
      a := u.a.zipIdx.map (fun y => pages.foldl (fun acc g =>
        add32 acc (Config.attnValue ((List.range 32).map (fun j => ws.getD (32 * g + j) 0)) (expandValue key u.head y.2 ((latents.drop (32 * g)).take 32)))) (mul32 y.1 c)) }

/-- A running softmax that has taken nothing in. -/
def AttnSum.start (hand member row head cols : Nat) : AttnSum := { hand, member, row, head, m := 0xFF80_0000, s := 0, a := List.replicate cols 0 }

/-- The running softmax of a row and head of a member of a hand's ring. -/
def Launch.sumOf (l : Launch) (hand member row head : Nat) : AttnSum :=
  (l.sums.find? (fun u => u.hand == hand && u.member == member && u.row == row && u.head == head)).getD
    (AttnSum.start hand member row head (Config.valueCols l.slotNo l.layer))

/-- A running softmax put in place of its last value. -/
def sumPut (l : List AttnSum) (u : AttnSum) : List AttnSum :=
  l.filter (fun v => !(v.hand == u.hand && v.member == u.member && v.row == u.row && v.head == u.head)) ++ [u]

/-- The query rows that a hand's runs are made for here: the member that holds each, its position and its query; in a merge pass those of
the later members too, as they have landed (R204). -/
def State.queryRows (s : State) (l : Launch) (i : StepItem) : List (Nat × Nat × List Nat) :=
  let x := s.hand i.hand
  let qb := l.queryBytes
  (i.rowsOf x x.member).map (fun p => (x.member, p, l.queryOf i p)) ++
    (if x.ring.isEmpty || s.ringPass l i then []
    else (i.laterHolders x).flatMap (fun k => (i.rowsOf x k).zipIdx.map (fun p =>
      (k, p.1, nats (memBytes s.mem (devKey (ringOff s.chip i.hand (8 + k)) + p.2 * qb) qb)))))

/-- The running softmaxes of an item's rows with a run taken in; positions after a row's own are masked out. -/
def State.runSums (s : State) (l : Launch) (g : Nat) (i : StepItem) (r : CacheRun) (latents poss : List (List Nat)) : List AttnSum :=
  let key := [l.slotNo, l.layer, g, attnPass (s.latentMode l)]
  (s.queryRows l i).foldl (fun acc q =>
    (List.range l.heads).foldl (fun acc h =>
      sumPut acc (({ l with sums := acc }.sumOf i.hand q.1 q.2.1 h).runOn key (Config.keyBlocks l.slotNo l.layer) q.2.2 latents poss
        (min r.live (q.2.1 + 1 - r.first)))) acc) l.sums

/-! A run made (R191). -/

/-- The copies of a run's cache pages and position pages asked of a mover of the die, into its working buffer (R191 step 1). -/
def State.runAsk (s : State) (l : Launch) (p : DiePart) (r : CacheRun) : State :=
  let m := s.idlest p.die
  if 63 ≤ s.queueLen m l.moverQueue then s
  else
    let d (tag src n : Nat) : Desc := {
      id := 0, mover := m, queue := l.moverQueue, ctx := l.ctx, issuer := (if r.dev then 6 else 5), owner := l.id, die := p.die,
      words := [l.ctx % 2 ^ 10 * 2 ^ 16 + tag * 2 ^ 48, src, 0, n, 0, 0, 0, 0] }
    (((s.descAdd (d 0 r.lat (1024 * r.n))).descAdd (d 1 r.pos (96 * r.n))).launchMap l.id (fun x =>
      x.partMap p.die (fun q => { q with busy := q.busy + 2, asked := some r, buffer := [] })))

/-- A run whose pages have come: converted, expanded, scored and summed, its core time charged to its hand's tag (R226). -/
def State.runMade (s : State) (l : Launch) (p : DiePart) (g : Nat) (i : StepItem) (r : CacheRun) : State :=
  let f := s.faceRun l p r
  let poss := (List.range r.n).map (fun k => p.bytesAt (1024 * r.n + 96 * k) 96)
  let sums := s.runSums l g i r f.2 poss
  let ns := Config.attnNs (attnPass (s.latentMode l)) s.freeCtr i.rows
  let s := { f.1 with freeCtr := s.freeCtr + 1 }.chargeNs l.ctx p.die ns [(1024 + s.rd (SERVE.HAND_STATE.CLIENT_TAG i.hand), ns)]
  s.launchMap l.id (fun x => { (x.partMap p.die (fun q => { q with asked := none, buffer := [] })) with sums := sums, coreNs := x.coreNs + ns })

/-- What a part does for a run: its copies are asked for, awaited, and the run made, whereupon `done` notes it. Copies asked for a run of a
hand that the step has lost are waited out first. -/
def State.runStep (s : State) (l : Launch) (p : DiePart) (g : Nat) (i : StepItem) (r : CacheRun) (done : State → State) : State :=
  if p.busy ≠ 0 then s
  else match p.asked with
    | none => s.runAsk l p r
    | some q =>
      if q = r then done (s.runMade l p g i r)
      else s.launchMap l.id (fun x => x.partMap p.die (fun y => { y with asked := none, buffer := [] }))

/-! Ring traffic (R203, R204, R211). -/

/-- The requester of a ring hand's stores: paired by the ordinal of its command (R211). -/
def Hand.ringWho (x : Hand) (n : Nat) : Parked := ⟨10, n, 0, x.ordinal⟩

/-- Bytes sent to a place of a member's ring traffic, as fabric stores. -/
def State.ringSend (s : State) (c n k place : Nat) (data : List Nat) : State :=
  let x := s.hand n
  let chip := ringChip x.ring k
  let base := ringOff chip (ringHandNo x.ring k) place
  let data := data ++ List.replicate (alignUp data.length 64 - data.length) 0
  (List.range (ceilDiv data.length 256)).foldl (fun (t : State) j =>
    t.remoteStore chip 0 (base + 256 * j) ((data.drop (256 * j)).take 256) c 0 (x.ringWho n)) s

/-- Whether a hand's ring stores are still unanswered: a sender waits while the receiver's buffer is full (R203). -/
def State.ringOut (s : State) (n : Nat) : Bool := s.outFor ⟨10, n, 0, 0⟩

/-- A block whose two parts stand at addresses of the context, each with its length, sent to the next member (R203). -/
def State.sendBlock (s : State) (l : Launch) (n : Nat) (p q : Nat × Nat) : State :=
  let x := s.hand n
  let o := s.launchOrigin l (64 + s.slotDie n 0) 9 0
  match s.fetch o l.ctx p.1 p.2 with
  | .stop s => s
  | .bad s d => s.endLaunch l.id stFaulted d
  | .bytes a s => match s.fetch o l.ctx q.1 q.2 with
    | .stop s => s
    | .bad s d => s.endLaunch l.id stFaulted d
    | .bytes b s =>
      let s := (s.ringSend l.ctx n (x.member + 1) (x.ringOut % 4) (a ++ b)).setHand n { x with ringOut := x.ringOut + 1 }
      s.workMap l.id n (fun y => { y with sent := y.sent + 1 })

/-- One of a hand's own blocks sent: a span's latent page of the layer and its position keys (R203). -/
def State.blockSend (s : State) (l : Launch) (i : StepItem) (w : AttnWork) : State :=
  let x := s.hand i.hand
  s.sendBlock l i.hand (spanVa x.cacheVa x.layers w.sent l.layer, 0x20_0000)
    (spanVa x.cacheVa x.layers w.sent (x.layers + l.layer / 10) + l.layer % 10 * 196_608, 196_608)

/-- A block taken out of the ring buffer, forwarded to the next member unless this is the last that holds new positions (R203). -/
def State.blockPass (s : State) (l : Launch) (i : StepItem) : State :=
  let n := i.hand
  let x := s.hand n
  let slot := x.ringIn % 4
  let s := if x.member < i.lastHolder x then
      (s.ringSend l.ctx n (x.member + 1) (x.ringOut % 4) (nats (memBytes s.mem (devKey (ringOff s.chip n slot)) blockBytes))).setHand n { x with ringOut := x.ringOut + 1 }
    else s
  let s := (s.setHand n { s.hand n with ringIn := x.ringIn + 1 }).ringTaken n slot
  s.workMap l.id n (fun y => { y with got := y.got + 1, run := 0 })

/-- The `k`-th run of the block in hand: blocks come from the next lower member first, each member's spans in ascending order. -/
def State.blockRun (s : State) (i : StepItem) (w : AttnWork) : CacheRun :=
  let x := s.hand i.hand
  let base := ringOff s.chip i.hand (x.ringIn % 4)
  let seg := ringSeg x.ring
  { hand := i.hand, dev := true, lat := base + w.run * 131_072, pos := base + 0x20_0000 + w.run * 12_288,
    first := (x.member - 1 - w.got / seg) * x.segLen + w.got % seg * 2048 + 128 * w.run, n := 128, live := 128 }

/-- Whether the places of later members' queries are filled (R204). -/
def State.queriesHere (s : State) (l : Launch) (i : StepItem) : Bool :=
  let x := s.hand i.hand
  (i.laterHolders x).all (fun k => decide ((i.rowsOf x k).length * l.queryBytes ≤ s.ringGot i.hand (8 + k)))

/-- Whether the ring traffic that comes before a hand's own runs is done: in a ring pass every block sent and taken in, in a merge pass
the queries sent and received. -/
def State.ringReady (s : State) (l : Launch) (i : StepItem) : Bool :=
  let x := s.hand i.hand
  let w := l.workOf i.hand
  let k := x.member
  if x.ring.isEmpty || i.idle x || decide (x.layers ≤ l.layer) then true
  else if s.ringPass l i then
    !s.ringOut i.hand && decide (k * ringSeg x.ring ≤ w.got) && (k == i.lastHolder x || decide (ringSeg x.ring ≤ w.sent))
  else !s.ringOut i.hand && (!i.holds x k || decide (k ≤ w.sent)) && s.queriesHere l i

/-- Whether a part is the one that makes the runs of a slot of a ring buffer: its die homes the slot. -/
def State.slotHere (s : State) (p : DiePart) (n slot : Nat) : Bool := s.slotDie n slot == p.die

/-- The next of a ring hand's traffic: its own blocks first, then the blocks that have landed, each run over by a holder and forwarded;
in a merge pass its queries to every earlier member (R203, R204). Traffic that never comes is waited for (R501). -/
def State.ringGo (s : State) (l : Launch) (p : DiePart) (g : Nat) (i : StepItem) : State :=
  let n := i.hand
  let x := s.hand n
  let w := l.workOf n
  let k := x.member
  if s.ringOut n then s
  else if s.ringPass l i then
    if k < i.lastHolder x ∧ w.sent < ringSeg x.ring then s.blockSend l i w
    else
      let slot := x.ringIn % 4
      if s.ringGot n slot < blockBytes then s
      else if i.holds x k && decide (w.run < 16) then
        if s.slotHere p n slot then s.runStep l p g i (s.blockRun i w) (fun t => t.workMap l.id n (fun y => { y with run := y.run + 1 })) else s
      else s.blockPass l i
  else if i.holds x k ∧ w.sent < k then
    (s.ringSend l.ctx n w.sent (8 + k) ((i.rowsOf x k).flatMap (l.queryOf i))).workMap l.id n (fun y => { y with sent := y.sent + 1 })
  else s

/-- A member's partials for the rows of another, in row and head order: m, s and a (R204). -/
def Launch.partials (l : Launch) (i : StepItem) (x : Hand) (k : Nat) : List Nat :=
  (i.rowsOf x k).flatMap (fun row => (List.range l.heads).flatMap (fun h =>
    let u := l.sumOf i.hand k row h
    (u.m :: u.s :: u.a).flatMap (leVals 4)))

/-- Bytes of a row and head's partial. -/
def Launch.partialBytes (l : Launch) : Nat := 4 * (2 + Config.valueCols l.slotNo l.layer)

/-- Partials merged in ascending INDEX order (R204). -/
def mergeSums (u : AttnSum) (l : List (List Nat)) : AttnSum :=
  let m := ((l.drop 1).map (fun w => wd w 0)).foldl max32 (wd (l.headD []) 0)
  let scaled (j : Nat) : List Nat := l.map (fun w => mul32 (wd w j) (exp32 (sub32 (wd w 0) m)))
  let sum (x : List Nat) : Nat := (x.drop 1).foldl add32 (x.headD 0)
  { u with m := m, s := sum (scaled 1), a := (List.range u.a.length).map (fun c => sum (scaled (2 + c))) }

/-- A holder's rows merged with the partials of every earlier member, its own last (R204). -/
def State.mergeRows (s : State) (l : Launch) (i : StepItem) : List AttnSum :=
  let x := s.hand i.hand
  let k := x.member
  let pb := l.partialBytes
  (i.rowsOf x k).zipIdx.foldl (fun acc row =>
    (List.range l.heads).foldl (fun acc h =>
      let u := l.sumOf i.hand k row.1 h
      let far := (List.range k).map (fun j =>
        wordsOf 4 (pb / 4) (nats (memBytes s.mem (devKey (ringOff s.chip i.hand (16 + j)) + (row.2 * l.heads + h) * pb) pb)))
      sumPut acc (mergeSums u (far ++ [u.m :: u.s :: u.a]))) acc) l.sums

/-- Whether every earlier member's partials have landed. -/
def State.partialsHere (s : State) (l : Launch) (i : StepItem) : Bool :=
  let x := s.hand i.hand
  (List.range x.member).all (fun j => decide ((i.rowsOf x x.member).length * l.heads * l.partialBytes ≤ s.ringGot i.hand (16 + j)))

/-- The outputs of a hand's own rows, a ÷ s. -/
def outputs (n member : Nat) (l : List AttnSum) : List AttnSum :=
  l.map (fun u => if u.hand = n ∧ u.member = member then { u with a := u.a.map (fun x => div32 x u.s) } else u)

/-- The end of a ring hand's attention in a layer: in a merge pass its partials go back to each later holder, and a holder merges those of
the earlier members; then the pass is counted (R204, R206). -/
def State.ringClose (s : State) (l : Launch) (i : StepItem) : State :=
  let n := i.hand
  let x := s.hand n
  let w := l.workOf n
  let k := x.member
  let later := i.laterHolders x
  let finish (s : State) (sums : List AttnSum) : State :=
    let s := (s.launchMap l.id (fun y => { y with sums := outputs n k sums })).workMap l.id n (fun y => { y with merged := true })
    if x.ring.isEmpty || i.idle x || decide (x.layers ≤ l.layer) then s
    else if s.ringPass l i then s.bump SERVE.RING_EVENTS.RING_PASSES 1 else s.bump SERVE.RING_EVENTS.MERGE_PASSES 1
  if x.ring.isEmpty || i.idle x || decide (x.layers ≤ l.layer) || s.ringPass l i then finish s l.sums
  else if s.ringOut n then s
  else match later[w.back]? with
    | some h => ((s.ringSend l.ctx n h (16 + k) (l.partials i x h)).ringTaken n (8 + h)).workMap l.id n (fun y => { y with back := y.back + 1 })
    | none =>
      if !i.holds x k || k == 0 then finish s l.sums
      else if s.partialsHere l i then
        let sums := s.mergeRows l i
        finish ((List.range k).foldl (fun (t : State) j => t.ringTaken n (16 + j)) s) sums
      else s

/-! A part of a layer (R247, R252). -/

/-- The runs of a group that a die makes, entered as its part's work. -/
def State.runList (s : State) (l : Launch) (d g : Nat) : State :=
  let rs := (s.groupItems l g).flatMap (fun i => ((s.itemRuns l i).filter (fun r => r.1 == d)).map Prod.snd)
  s.launchMap l.id (fun x => x.partMap d (fun q => { q with listed := true, runs := rs }))

/-- The layer's other tiles of a group on a die, their core time split over the group's rows (R227): the part goes on to the next group.
DESIGN CHOICE (log 51): the time is a free value. -/
def State.groupPass (s : State) (l : Launch) (p : DiePart) (g : Nat) : State :=
  let tags := s.itemTags (s.groupItems l g)
  let ns := Config.layerNs l.slotNo l.layer s.freeCtr ((tags.map Prod.snd).sum)
  let s := if tags.isEmpty then s
    else { s with freeCtr := s.freeCtr + 1 }.chargeNs l.ctx p.die ns (splitOver ns (tags.map (fun (t : Nat × Nat) => (1024 + t.1, t.2))))
  s.launchMap l.id (fun x => { (x.partMap p.die (fun q => { q with iter := q.iter + 1, listed := false, runs := [] })) with
    coreNs := x.coreNs + (if tags.isEmpty then 0 else ns) })

/-- A part that has run every group: the last of a launch's parts to do so closes the attention of its hands. -/
def State.partClose (s : State) (l : Launch) (p : DiePart) : State :=
  let ends (s : State) : State := s.launchMap l.id (fun x => x.partMap p.die (fun q => { q with atEnd := true }))
  if l.parts.any (fun q => decide (q.iter < l.groups.length)) then ends s
  else match (l.groups.flatMap (s.groupItems l)).find? (fun i => !(l.workOf i.hand).merged) with
    | none => ends s
    | some i => s.ringClose l i

/-- A part's next run: that of a hand which the step has lost is dropped. -/
def State.partRun (s : State) (l : Launch) (p : DiePart) (g : Nat) (r : CacheRun) : State :=
  let drop (s : State) : State := s.launchMap l.id (fun x => x.partMap p.die (fun q => { q with runs := q.runs.drop 1 }))
  match (s.groupItems l g).find? (fun i => i.hand == r.hand) with
  | none => drop s
  | some i => s.runStep l p g i r drop

/-- A layer of a step on a die, once the group's image is dealt (R247, R252): the group's new positions are computed, the ring traffic that
its runs wait for is made, then its runs, then the layer's other tiles; the groups in order. -/
def State.attnPart (s : State) (l : Launch) (p : DiePart) (g : Nat) : State :=
  if !l.filled.contains g then s.attnFill l g
  else match (s.groupItems l g).find? (fun i => !s.ringReady l i) with
    | some i => s.ringGo l p g i
    | none =>
      if !p.listed then s.runList l p.die g
      else match p.runs with
        | r :: _ => s.partRun l p g r
        | [] => s.groupPass l p g

end Sys2Proof.Machine
end

