-- ==== Sys2Proof/Machine/Launches.lean ====
section
/-! DEFINITION. Launches (R252–R263, R370, R375–R377): the launch commands, readiness and rings, the holders of the dies, the
records of a program, the tiles on the cores and their verdicts (R63–R70, R91–R94), and a launch's completion. -/

namespace Sys2Proof.Machine

open Sys2Proof

/-! The launch commands (Table 15-8). -/

/-- LAYER. -/
def Cmd.layer (c : Cmd) : Nat := bits (c.p 0) 0 10
/-- DIE_MASK of a launch. -/
def Cmd.dieMask (c : Cmd) : Nat := bits (c.p 0) 32 8

/-- The dies a launch command runs on. -/
def State.launchDies (s : State) (c : Cmd) : List Nat :=
  match s.program c.context c.handle with
  | none => []
  | some p => dies (if c.dieMask = 0 then p.dies else c.dieMask)

/-- Whether an image of a launch exceeds half the window on a die (R125, 0x0515). -/
def State.imageTooBig (s : State) (c layer : Nat) (d : Nat) : Bool :=
  match s.windowOf c d, (s.ctx c).slot with
  | some w, some n => decide (w.half < Config.layerBytes n layer d)
  | _, _ => false

/-- The reserved bits of a launch command, `kind` 0 layer, 1 kernel, 2 loop. -/
def Cmd.launchReserved (c : Cmd) (kind : Nat) : Bool :=
  !onlyBits (c.p 0) (if kind = 0 then 0xFF_FFFF_03FF else 0xFF_FFFF_0000) || decide (2 ^ 57 ≤ c.p 1) || decide (2 ^ 57 ≤ c.p 2) ||
    decide (2 ^ 32 ≤ c.p 3) || decide ((if kind = 0 then 2 ^ 32 else if kind = 2 then 2 ^ 57 else 1) ≤ c.p 4) ||
    decide ((if kind = 2 then 2 ^ 16 else 1) ≤ c.p 5)

/-- The checks of a launch command (Table 15-9) but for its shape mode, which is the one in force when it starts (R178). -/
def checkLaunch (kind : Nat) (s : State) (c : Cmd) : Option (Nat × Nat) :=
  firstBad [
    (s.ctxBad .owned c, stBadContext, 0),
    (c.launchReserved kind, stBadParam, 0x0F01),
    (match s.program c.context c.handle with
      | none => true
      | some p => c.dieMask != (c.dieMask &&& p.dies), stBadParam, 0x0F41),
    (c.p 1 % 64 != 0 || c.p 2 % 8 != 0 || c.p 3 == 0 || (kind == 2 && (c.p 4 % 8 != 0 || c.p 5 == 0)) ||
      (kind == 0 && c.p 4 != 0 && (s.router c.context (s.ctxSlot c.context) c.layer).isNone), stBadParam, 0x0F41),
    (match s.program c.context c.handle with
      | none => false
      | some p => p.kind != (if kind = 0 then 1 else 0), stBadParam, 0x0F43),
    ((s.launchDies c).any (fun d => (s.windowOf c.context d).isNone), stBadParam, 0x0B11),
    (kind == 0 && (s.launchDies c).any (s.imageTooBig c.context c.layer), stBadParam, 0x0515)]

/-- A launch entered, numbered in the order of acceptance (R253). -/
def State.launchAdd (s : State) (l : Launch) : State :=
  { s with launches := s.launches ++ [{ l with id := s.nextLaunch, since := s.now }], nextLaunch := s.nextLaunch + 1 }.ctxRun l.ctx

/-- A launch command taken: it waits to be ready (R253). -/
def launchCmd (kind : Nat) (s : State) (c : Cmd) : State :=
  match s.program c.context c.handle with
  | none => s
  | some p =>
    let parts := (s.launchDies c).map (fun d => ({ die := d, head := kind == 2 } : DiePart))
    (s.start c.id []).launchAdd {
      id := 0, ctx := c.context, cls := s.rd (SCHED.CTX_STATE.CLASS c.context), kind := kind, cmd := some c.id, program := c.handle,
      layer := (if kind = 0 then c.layer else 0), argsVa := c.p 1, shapeVa := c.p 2, maxRows := c.p 3, stepNo := (if kind = 0 then c.p 4 else 0),
      tripVa := (if kind = 2 then c.p 4 else 0), maxTrips := c.p 5, parts := parts, image := p.image, argBytes := p.argBytes }

/-- LAUNCH_LAYER (R370). -/
def execLaunchLayer (k : Nat) (s : State) : Host.Outcome State Fault Refusal := .next (s.runCmd k 0x30 always (checkLaunch 0) (launchCmd 0))
/-- LAUNCH_KERNEL (R370). -/
def execLaunchKernel (k : Nat) (s : State) : Host.Outcome State Fault Refusal := .next (s.runCmd k 0x31 always (checkLaunch 1) (launchCmd 1))
/-- LAUNCH_LOOP (R180, R370). -/
def execLaunchLoop (k : Nat) (s : State) : Host.Outcome State Fault Refusal := .next (s.runCmd k 0x32 always (checkLaunch 2) (launchCmd 2))

/-! Readiness (R253, R257). -/

/-- The router of a launch that has started. -/
def State.launchRouter (s : State) (l : Launch) : Option Router :=
  if l.kind = 0 ∨ l.kind = 3 then l.slot.bind (fun n => s.router l.ctx n l.layer) else none

/-- Whether an earlier launch of the context holds this one back: not complete on a die they share, or, being routed, not
combined (R253, R176). -/
def State.launchBehind (s : State) (l : Launch) : Bool :=
  s.launches.any (fun e => decide (e.id < l.id) && e.ctx == l.ctx && e.ended.isNone &&
    l.parts.any (fun p => e.parts.any (fun q => q.die == p.die && (q.phase != 3 || (e.routePhase != 0 && e.routePhase != 3)))))

/-- What a launch takes when it starts: class, slot, numerics settings and row count (R179, R252). -/
def State.launchTake (s : State) (l : Launch) (rows : Nat) : State :=
  let x := s.ctx l.ctx
  let slot := if l.kind = 3 then l.slot else x.slot
  let num := [x.margin, x.satShift, x.zeroShift, x.maxRedeals, b2n x.tableEn, x.tableVa, x.sites, x.siteStride]
  let s := s.launchMap l.id (fun y => { y with cls := s.rd (SCHED.CTX_STATE.CLASS l.ctx), slot := slot, num := num, rows := rows, taken := true })
  match s.launch l.id with
  | none => s
  | some y => if (s.launchRouter y).isSome then s.launchMap l.id (fun z => { z with routePhase := 1 }) else s

/-- A launch in a ring of launches: at its end, but before those of higher contexts that have become ready at this instant (R256). -/
def State.ringJoin (s : State) (l : Launch) (ring : List Nat) : List Nat :=
  let later (i : Nat) : Bool := match s.launch i with | some e => e.readyAt == s.now + 1 && decide (l.ctx < e.ctx) | none => false
  (ring.reverse.dropWhile later).reverse ++ [l.id] ++ (ring.reverse.takeWhile later).reverse

/-- A launch in the rings of its dies (R256); trump work for a die that plain work holds is waited for (R257). -/
def State.launchJoin (s : State) (i : Nat) : State :=
  match s.launch i with
  | none => s
  | some l =>
    let s := s.launchMap i (fun x => { x with ready := true, readyAt := s.now + 1, parts := x.parts.map (fun p => if p.phase = 0 then { p with phase := 1 } else p) })
    let s := (l.parts.filter (fun p => p.phase == 0)).foldl (fun t p => t.setRing p.die l.cls (t.ringJoin l (t.ringOf p.die l.cls))) s
    s.asks.ctxRun l.ctx

/-- The shape word's row count, with the clamp counted (R179). -/
def State.shapeRows (s : State) (l : Launch) (word : Nat) : State × Nat :=
  if l.maxRows < word % 2 ^ 32 then (s.bump ROUTE.SHAPE.CLAMPED 1, l.maxRows) else (s, word % 2 ^ 32)

/-- The DETAIL with which a launch's context refuses its form when it starts: a shape word in static mode, a loop outside mode 2 (R178,
R179, Table 7-5). -/
def State.shapeBad (s : State) (l : Launch) : Option Nat :=
  let shape := (s.ctx l.ctx).shape
  if l.kind = 3 then none
  else if shape = 0 ∧ l.shapeVa ≠ 0 then some 0x0732
  else if l.kind = 2 ∧ shape ≠ 2 then some 0x0733
  else none

/-- LAUNCH_READY (R253): a launch that is not held back, on a module that is no donor (R317), is held to its context's shape mode (R178), reads its shape word, once, and
joins its rings. -/
def launchReady (i : Nat) (s : State) : State :=
  match s.launch i with
  | none => s
  | some l =>
    if l.ready || l.ended.isSome || s.rd TOPO.PARTITION.STATE = 3 || s.suspended l.ctx || s.launchBehind l then s
    else if l.taken then s.launchJoin i
    else if l.shapeVa = 0 ∧ s.shapeBad l = none then (s.launchTake l l.maxRows).launchJoin i
    else match s.shapeBad l with
    | some det => s.endLaunch i stBadParam det
    | none =>
      match s.fetch (s.launchOrigin l 56 8 0) l.ctx l.shapeVa 8 with
      | .stop s => s
      | .bad s det => s.endLaunch i stFaulted det
      | .bytes b s =>
        let r := (s.dropGot ⟨2, i, 8, 0⟩).shapeRows l (leOf b)
        (r.1.launchTake l r.2).launchJoin i

/-- LAUNCH_READY (R253). -/
def execLaunchReady (launch : Nat) (s : State) : Host.Outcome State Fault Refusal := .next (launchReady launch s)

/-! Holders (R254–R260). -/

/-- Whether a die runs a tile of a launch. -/
def State.tilesOn (s : State) (i d : Nat) : Bool := s.tiles.any (fun t => t.launch == i && t.die == d)

/-- A fabric request of a launch's part that has no answer. -/
def State.partWaits (s : State) (i d : Nat) : Bool := s.fabric.reqs.any (fun r => r.who.kind % 100 == 2 && r.who.a == i && r.who.b == d)

/-- Whether a holder's part has run to its end (R377); a routed layer holds its dies until its combine is done (R176). -/
def State.partDone (s : State) (l : Launch) (p : DiePart) : Bool :=
  p.atEnd && p.busy == 0 && p.tile.isEmpty && !s.tilesOn l.id p.die && !s.partWaits l.id p.die && (l.routePhase == 0 || l.routePhase == 3)

/-- Whether a holder must give up its die at a tile boundary: suspended, its slice over, or plain with trump work ready. -/
def State.mustLeave (s : State) (l : Launch) (p : DiePart) : Bool :=
  s.suspended l.ctx || s.askedOff l p

/-- A pause or pre-emption that has completed, counted (R258). -/
def State.pauseCount (s : State) (asked : Nat) : State :=
  if asked = 0 then s
  else
    let ns := s.now + 1 - asked
    let s := (s.bump SCHED.PREEMPT_STATS.PAUSES 1).wr SCHED.PREEMPT_STATS.LONGEST_NS (max (s.rd SCHED.PREEMPT_STATS.LONGEST_NS) (min ns (2 ^ 32 - 1)))
    if 10_000 < ns then s.bump SCHED.PREEMPT_STATS.LATE 1 else s

/-- Whether no tile of a context runs and none of its launches holds a die: it is suspended once PREEMPTED is set (R265). -/
def State.quiet (s : State) (c : Nat) : Bool :=
  !(s.tiles.any (fun t => match s.launch t.launch with | some l => l.ctx == c | none => false)) &&
    !(s.launches.any (fun l => l.ctx == c && l.ended.isNone && l.parts.any (fun p => p.phase == 2)))

/-- PREEMPT commands with WAIT whose contexts are suspended reply (R265). -/
def State.preemptReplies (s : State) : State :=
  (s.cmds.filter (fun c => c.opcode == 0x71 && c.started && c.status.isNone && s.quiet c.context)).foldl
    (fun t c => t.doneWith c.id t.timeBase 0 0) s

/-- The phase tag that a holder gives its die (Table 18-3). -/
def State.phaseOf (s : State) (l : Launch) : Nat :=
  if (s.ctx l.ctx).phaseHint then (s.ctx l.ctx).phase
  else if l.routePhase = 2 then 4
  else if l.kind = 3 then
    match s.steps.find? (fun t => t.launch == some l.id) with
    | some t =>
      let rows (ch : Bool) := ((t.items.filter (fun i => i.chunk == ch)).map StepItem.count).sum
      if rows false < rows true then 1 else if l.routePhase = 1 then 3 else 2
    | none => 2
  else 5

/-- A die's time in the collective-wait phase added to PWR.COLL_WAIT, which counts an eighth of the dies' sum (R421). -/
def State.collWait (s : State) (ns : Nat) : State :=
  let sum := s.power.collRest + ns
  { s with power := { s.power with collRest := sum % 8 } }.bump PWR.COLL_WAIT.NS (sum / 8)

/-- A die's phase changed: the time of the old one counted, the tag shown, and the rail moved to the entry's voltage (R421–R423). -/
def State.setPhase (s : State) (d tag : Nat) : State :=
  let old := s.rd (PWR.DIE_STATUS.TAG d)
  let ns := s.now - (aFind s.phaseSince d).getD 0
  let key := 64 * d + old
  let s := { s with phaseSince := aPut s.phaseSince d s.now, phaseNs := aPut s.phaseNs key ((aFind s.phaseNs key).getD 0 + ns) }
  let s := if old = 4 then s.collWait ns else s
  ((s.wr (PWR.DIE_STATUS.TAG d) tag).railTo d (s.rd (PWR.PHASE.VCODE tag))).limitReg d

/-- PAUSED of the contexts of a die's waiting plain launches: set while a trump launch holds the die (R263). -/
def State.pauseMarks (s : State) (d : Nat) (on : Bool) : State :=
  let s := { s with launches := s.launches.map (fun (l : Launch) =>
    l.partMap d (fun p => { p with paused := on && l.cls == 1 && l.taken && l.ended.isNone && (p.phase == 1 || p.phase == 0) })) }
  (s.launches.map Launch.ctx).foldl State.ctxRun s

/-- A launch takes a die: its cursor is what its part holds (R259). -/
def State.holdDie (s : State) (d cls i : Nat) : State :=
  match s.launch i with
  | none => s.setRing d cls ((s.ringOf d cls).filter (fun x => x != i))
  | some l =>
    let s := s.setRing d cls ((s.ringOf d cls).filter (fun x => x != i))
    let s := s.launchMap i (fun x => x.partMap d (fun p => { p with phase := 2, heldSince := s.now, sliceEnd := s.now + 1000 * s.rd SCHED.CLASS_CTL.SLICE_US, yielding := false, paused := false, askedAt := 0 }))
    let s := s.wrs [(SCHED.DIE_STATUS.CONTEXT d, l.ctx), (SCHED.DIE_STATUS.CLASS d, cls), (SCHED.DIE_STATUS.IDLE d, 0), (SCHED.DIE_STATUS.TRUMP_WAITING d, 0)]
    ((s.pauseMarks d (cls == 0)).ctxRun l.ctx).setPhase d (s.phaseOf l)

/-- The next holder of a free die: the head of the trump ring, else of the plain ring (R255). -/
def State.pickHolder (s : State) (d : Nat) : State :=
  match s.readyIn d 0, s.readyIn d 1 with
  | i :: _, _ => s.holdDie d 0 i
  | [], i :: _ => s.holdDie d 1 i
  | [], [] => ((s.pauseMarks d false).setPhase d 0).wr (SCHED.DIE_STATUS.CONTEXT d) 0

/-- A holder leaves its die: complete; suspended, to rejoin when its context runs again; or to the head of its ring when paused
by trump work, to the back when its slice is over (R256, R257, Table 11-6). -/
def State.leaveDie (s : State) (l : Launch) (p : DiePart) : State :=
  let s := s.dieFree p.die l.cls p.heldSince
  let trump := !(s.readyIn p.die 0).isEmpty && l.cls == 1
  let s :=
    if s.partDone l p then s.launchMap l.id (fun x => x.partMap p.die (fun q => { q with phase := 3 }))
    else if s.suspended l.ctx then
      (s.launchMap l.id (fun x => { (x.partMap p.die (fun q => { q with phase := 0, yielding := false })) with ready := false })).pauseCount p.askedAt
    else
      let s := s.launchMap l.id (fun x => x.partMap p.die (fun q => { q with phase := 1, yielding := false }))
      let ring := s.ringOf p.die l.cls
      (s.setRing p.die l.cls (if trump then l.id :: ring else ring ++ [l.id])).pauseCount p.askedAt
  s.ctxRun l.ctx

/-- DIE_HOLDER_CHANGE (R254–R260): at a tile boundary a holder that is done, or must give way, leaves the die; a free die takes
its next holder. -/
def dieHolderChange (d : Nat) (s : State) : State :=
  if 8 ≤ d then s
  else
    let s := match s.holder d with
      | none => s.pickHolder d
      | some l =>
        match l.part d with
        | none => s
        | some p =>
          if s.tilesOn l.id d then s
          else if s.partDone l p || s.mustLeave l p then (s.leaveDie l p).pickHolder d
          else if (s.rd (PWR.DIE_STATUS.TAG d) == s.phaseOf l) then s else s.setPhase d (s.phaseOf l)
    s.preemptReplies

/-- DIE_HOLDER_CHANGE (R255). -/
def execDieHolderChange (die : Nat) (s : State) : Host.Outcome State Fault Refusal := .next (dieHolderChange die s)

/-- SLICE_EXPIRY (R256): the holder gives up the die at its next tile boundary, another launch of its class being ready. Its slice is
the one in force when it took the die (Table 11-6). -/
def sliceExpiry (d : Nat) (s : State) : State :=
  match s.holder d with
  | none => s
  | some l =>
    match l.part d with
    | none => s
    | some p =>
      if !(s.readyIn d l.cls).isEmpty && decide (p.sliceEnd ≤ s.now) && !p.yielding then
        (s.launchMap l.id (fun x => x.partMap d (fun q => { q with yielding := true }))).asks
      else s

/-- SLICE_EXPIRY (R256). -/
def execSliceExpiry (die : Nat) (s : State) : Host.Outcome State Fault Refusal := .next (sliceExpiry die s)

/-! The records of a program (R375–R377). -/

/-- The holder of a die and its part, where it may start work: not suspended, not giving way. -/
def State.running (s : State) (d : Nat) : Option (Launch × DiePart) :=
  match s.holder d with
  | none => none
  | some l => (l.part d).bind (fun p => if s.mustLeave l p || l.ended.isSome || !l.repairOn.isEmpty then none else some (l, p))

/-- The half of a launch's window on a die that holds the image it needs next, whole (R260); a launch of no model needs none. -/
def State.imageHere (s : State) (l : Launch) (d group : Nat) : Bool :=
  if l.kind = 1 ∨ l.kind = 2 then true
  else match l.slot, s.windowOf l.ctx d with
    | some n, some w => w.tag0 == [n, l.layer, group, 1] || w.tag1 == [n, l.layer, group, 1]
    | none, _ => true
    | some _, none => false

/-- The body of a record with its patches added (R375): the words, with the state in which its reader goes on; the state in which it
waits; or the DETAIL it fails with. -/
inductive Body where
  | ok (w : List Nat) (patched : Bool) (s : State)
  | stop (s : State)
  | fault (s : State) (st detail : Nat)
deriving DecidableEq

/-- One patch added. -/
def addPatch (l : Launch) (i d : Nat) (acc : Body) (j : Nat) : Body :=
  match acc with
  | .ok w pd s =>
    let p := recPatch l.image i j
    if !bit p 13 then .ok w pd s
    else
      let arg := bits p 3 10
      if l.argBytes ≤ 8 * arg then .fault s stBadParam 0x0F44
      else match s.fetch (s.launchOrigin l (64 + d) d 0) l.ctx (l.argsVa + 8 * arg) 8 with
        | .bytes b s => .ok (w.set (bits p 0 3) ((wd w (bits p 0 3) + leOf b) % 2 ^ 64)) true s
        | .stop s => .stop s
        | .bad s det => .fault s stFaulted det
  | r => r

/-- Record `i` of a launch as die `d` issues it. -/
def State.recordBody (s : State) (l : Launch) (i d : Nat) : Body :=
  (List.range 3).foldl (addPatch l i d) (.ok (recBody l.image i) false s)

/-- A part moved on to the record after `i`. -/
def State.partNext (s : State) (l : Launch) (d i : Nat) (f : DiePart → DiePart) : State :=
  s.launchMap l.id (fun x => x.partMap d (fun p => f { p with next := i + 1 }))

/-- The M fields cut to the rows below the launch's count, in array order (R179). -/
def cutRows (w : List Nat) (rows : Nat) : List Nat :=
  let cut := arrays.foldl (fun (a : Nat × Nat) k => (a.1 - tM w k, setBits a.2 (32 + 8 * k) 8 (min (tM w k) a.1))) (rows, wd w 0)
  w.set 0 cut.2

/-- A tile record started: checked under R50 and left to be dispatched; a tile whose rows all lie beyond the count is not issued. -/
def State.startTile (s : State) (l : Launch) (d i : Nat) (w : List Nat) (patched : Bool) : State :=
  match tileFault w with
  | some det => s.endLaunch l.id stBadParam (if patched ∧ det = 0x0306 then 0x0F44 else det)
  | none =>
    if l.shapeVa = 0 then s.partNext l d i (fun p => { p with tile := w })
    else
      let w' := cutRows w (l.rows - Config.tileRow l.program i)
      if tMmax w' = 0 then s.partNext l d i id else s.partNext l d i (fun p => { p with tile := w' })

/-- A mover record started on the die's mover with the fewest requests, where its queue has room (R138, R143). -/
def State.startDesc (s : State) (l : Launch) (d i : Nat) (w : List Nat) (patched : Bool) : State :=
  if patched ∧ descFault (bodyDesc w) = some 0x0606 then s.endLaunch l.id stBadParam 0x0F44
  else
    let m := s.idlest d
    let c := bits (wd w 0) 16 10
    let q := s.moverQueue c
    if 64 ≤ s.queueLen m q then s
    else (s.partNext l d i (fun p => { p with busy := p.busy + 1 })).descAdd { id := 0, mover := m, queue := q, ctx := c, words := w, issuer := 1, owner := l.id, die := d }

/-- Several writes at a context's addresses, every chunk of them translated before any byte moves. -/
def State.putAll (s : State) (o : Origin) (c : Nat) (l : List (Nat × List Nat)) : Wrote :=
  match (l.flatMap (fun p => chunksOf p.1 p.2.length)).foldl (checkChunk o c false) (.ok s) with
  | .ok s => .ok (l.foldl (fun t p => (chunksOf p.1 p.2.length).foldl (writeChunk o c p.1 p.2) t) s)
  | r => r

/-- A read made where it is used, else no bytes. -/
def State.fetchIf (s : State) (use : Bool) (o : Origin) (c : Nat) (p : Nat × Nat) : Got := if use then s.fetch o c p.1 p.2 else .bytes [] s

/-- A read followed by another that goes on from its state. -/
def Got.then (g : Got) (k : List Nat → State → Got) : Got :=
  match g with
  | .bytes l s => k l s
  | r => r

/-- The reads of a vector record: A, B and the present result, row by row, as FP32 patterns; then what becomes of them. -/
def State.vectorIn (s : State) (l : Launch) (d : Nat) (w : List Nat) (outBf16 : Bool) (k : State → List (List Nat × List Nat × List Nat) → State) : State :=
  let o := s.launchOrigin l (64 + d) d 0
  let n := vCols w
  let rowA (r : Nat) := (wd w 1 + r * bits (wd w 4) 0 32, n * vSize (vAType w))
  let rowB (r : Nat) := (wd w 2 + r * bits (wd w 5) 0 32, n * vSize (vAType w))
  let rowR (r : Nat) := (wd w 3 + r * bits (wd w 4) 32 32, n * (if outBf16 then 2 else 4))
  let useB := vTwo (vOp w) && !vImm w
  let useR := vOp w == 0x03
  let row (s : State) (r : Nat) : Got :=
    (s.fetch o l.ctx (rowA r).1 (rowA r).2).then (fun a s =>
      (s.fetchIf useB o l.ctx (rowB r)).then (fun b s =>
        (s.fetchIf useR o l.ctx (rowR r)).then (fun x s => .bytes (a ++ b ++ x) s)))
  let cut (r : List Nat) : List Nat × List Nat × List Nat :=
    let na := n * vSize (vAType w)
    let nb := if useB then na else 0
    let bs := if vImm w then List.replicate n (bits (wd w 5) 32 32) else vRead (vAType w == 1) ((r.drop na).take nb)
    (vRead (vAType w == 1) (r.take na), bs, vRead outBf16 (r.drop (na + nb)))
  let step (acc : Got × List (List Nat × List Nat × List Nat)) (r : Nat) : Got × List (List Nat × List Nat × List Nat) :=
    match acc.1 with
    | .bytes _ s => match row s r with
      | .bytes x s => (.bytes [] s, acc.2 ++ [cut x])
      | g => (g, acc.2)
    | _ => acc
  match (List.range (vRows w)).foldl step (.bytes [] s, []) with
  | (.bytes _ s, rows) => k s rows
  | (.stop t, _) => t
  | (.bad t e, _) => t.endLaunch l.id stFaulted e

/-- The blocks of a row's results, the last filled up with zeros. -/
def rowBlocks (x : List Nat) : List (List Nat) :=
  (List.range (ceilDiv x.length 32)).map (fun b => (List.range 32).map (fun i => x.getD (32 * b + i) 0))

/-- What the write face makes of the rows of a vector record (R86–R90): the writes of codes, scales and records, and the state
with its counts and, for blocks converted under R87 or R89, the launch's largest EMAX at each site. DESIGN CHOICE (log 48): the
totals of saturated and zeroed elements count the write face's conversions and not those of a redeal at the entry face. -/
def State.faceRows (s : State) (l : Launch) (h : Header) (rows : List (List Nat)) : State × List (Nat × List Nat) :=
  rows.zipIdx.foldl (fun acc row => (rowBlocks row.1).zipIdx.foldl (fun acc blk =>
    let s := acc.1
    let f := s.faceBlock l.ctx l.num h blk.2 (blk.1.map num32)
    let i := h.idx row.2 blk.2
    let s := s.faceCounts f.1
    let key := emaxKey h blk.2
    let s := if h.noPredict || !h.form.narrow then s else s.launchMap l.id (fun x => { x with emax := aPut x.emax key (max f.1.emax ((aFind x.emax key).getD 0)) })
    (s, acc.2 ++ [(h.codes + i * h.form.bytes, h.form.pack f.1.codes), (h.scales + i, [f.1.scale]), (h.records + 4 * i, leVals 4 f.2)])) acc)
    (s, [])

/-- The tile record of mode 7 on a die whose activation operand a vector record writes, the header at `hva` being that of a or of b:
the address of a's header (R56). -/
def State.tripleOf (s : State) (l : Launch) (d hva : Nat) : Option Nat :=
  (List.range (imageCount l.image)).findSome? (fun i =>
    if recType l.image i != 1 || !recOn l.image i d then none
    else match s.recordBody l i d with
      | .ok w _ _ => if tMode w = 7 then (arrays.map (tAct w)).find? (fun a => a == hva || a + 64 == hva) else none
      | _ => none)

/-- The rows of a + b, formed by the edge converter from the rows of the operand at `hva` and the values of the other one (R54). -/
def State.thirdRows (s : State) (l : Launch) (a hva : Nat) (rows : List (List Nat)) : List (List Nat) :=
  let other := s.header l.ctx (if hva = a then a + 64 else a)
  rows.zipIdx.map (fun row => (rowBlocks row.1).zipIdx.flatMap (fun blk => List.zipWith add32 blk.1 (s.actValues l.ctx other row.2 blk.2)))

/-- The writes of a conversion source: the blocks of an operand's rows (R84). -/
def Header.sourceWrites (h : Header) (rows : List (List Nat)) : List (Nat × List Nat) :=
  if h.srcValid then
    rows.zipIdx.flatMap (fun row => (rowBlocks row.1).zipIdx.map (fun blk => (h.source + h.idx row.2 blk.2 * h.srcBytes, vWrite h.srcBf16 blk.1)))
  else []

/-- The third operand of mode 7, written together with the other two and converted under its own SITE (R54, R56). -/
def State.thirdFace (s : State) (l : Launch) (d hva : Nat) (rows : List (List Nat)) : State × List (Nat × List Nat) :=
  match s.tripleOf l d hva with
  | none => (s, [])
  | some a =>
    let h := s.header l.ctx (a + 128)
    let rows := (s.thirdRows l a hva rows).map (fun (r : List Nat) => if h.srcBf16 then r.map (fun x => round16 x * 2 ^ 16) else r)
    let f := s.faceRows l h rows
    (f.1, f.2 ++ h.sourceWrites rows)

/-- A vector record carried out (R376): its reads, its results, and its writes, through the write face with OUT_TYPE 2. -/
def State.runVector (s : State) (l : Launch) (d i : Nat) (w : List Nat) : State :=
  let o := s.launchOrigin l (64 + d) d 0
  let finish (t : State) (h : Option Header) (bf16 : Bool) : State :=
    t.vectorIn l d w bf16 (fun t rows =>
      let outs := rows.map (fun r => vRowOut w r.1 r.2.1 r.2.2)
      let wide := outs.zipIdx.map (fun r => (wd w 3 + r.2 * bits (wd w 4) 32 32, vWrite bf16 r.1))
      let fc := match h with
        | some h =>
          let rows := outs.map (fun (r : List Nat) => if bf16 then r.map (fun x => round16 x * 2 ^ 16) else r)
          let f := t.faceRows l h rows
          let g := f.1.thirdFace l d (wd w 6) rows
          (g.1, f.2 ++ g.2)
        | none => (t, [])
      match fc.1.putAll o l.ctx (wide ++ fc.2) with
      | .ok u => (u.dropGot o.who).partNext l d i id
      | .stop _ => match t.putAll o l.ctx (wide ++ fc.2) with | .stop u => u | _ => t
      | .bad u e => u.endLaunch l.id stFaulted e)
  if vOutType w = 2 then
    match s.fetch o l.ctx (wd w 6) 64 with
    | .stop t => t
    | .bad t e => t.endLaunch l.id stFaulted e
    | .bytes b s =>
      let h := Header.ofWords (wordsOf 8 8 b)
      if h.vectors < vRows w ∨ 32 * h.kBlocks < vCols w then s.endLaunch l.id stBadParam 0x0F45
      else finish s (some h) h.srcBf16
  else finish s none (vOutType w == 1)

/-- A WAIT record seen (R366, R377): its word meets COND, or its time has passed, or the part waits on. -/
def State.runWait (s : State) (l : Launch) (d i : Nat) (w : List Nat) (deadline : Nat) : State :=
  let o := s.launchOrigin l (64 + d) d 0
  match s.fetch o l.ctx (wd w 1) 8 with
  | .stop t => t.launchMap l.id (fun x => x.partMap d (fun p => { p with waiting := w, deadline := deadline }))
  | .bad t e => t.endLaunch l.id stFaulted e
  | .bytes b s =>
    let s := s.dropGot o.who
    if condMet (bits (wd w 0) 8 2) (leOf b) (wd w 2) then s.partNext l d i (fun p => { p with waiting := [] })
    else if deadline ≤ s.now then s.endLaunch l.id stTimedOut 0
    else s.launchMap l.id (fun x => x.partMap d (fun p => { p with waiting := w, deadline := deadline }))

/-- A STORE or ADD record carried out (R377). -/
def State.runStore (s : State) (l : Launch) (d i : Nat) (w : List Nat) : State :=
  let o := s.launchOrigin l (64 + d) d 1
  if cOp w = 2 then
    match s.put o l.ctx (wd w 1) (leVals 8 (wd w 2)) with
    | .ok t => t.partNext l d i id
    | .stop t => t
    | .bad t e => t.endLaunch l.id stFaulted e
  else
    match s.access l.ctx (wd w 1) true true with
    | .ok (.here k) _ => (s.store k 8 ((s.load k 8 + wd w 2) % 2 ^ 64)).partNext l d i id
    | .ok (.far chip _ off) _ => (s.remoteAtomic chip off 0x15 1 (leVals 8 (wd w 2) ++ List.replicate 56 0) l.ctx (wd w 1) o.who).partNext l d i id
    | .wait => s
    | .serve kind => s.openFault l.ctx kind true (wd w 1) o.engine o.seq o.chan o.noCmd o.who
    | .bad e => s.endLaunch l.id stFaulted e

/-- A control record started (R377). -/
def State.runControl (s : State) (l : Launch) (p : DiePart) (i : Nat) (w : List Nat) : State :=
  let clear := p.busy == 0 && !s.partWaits l.id p.die
  match cOp w with
  | 0 => if clear then s.partNext l p.die i id else s
  | 1 => s.runWait l p.die i w (if p.waiting.isEmpty then s.now + 1000 * wd w 3 else p.deadline)
  | 4 => s.partNext l p.die i (fun q => { q with next := imageCount l.image, atEnd := true })
  | _ => if clear then s.runStore l p.die i w else s

/-- The next record from the `i`-th that runs on a die. -/
def nextRec (img : List Nat) (i d : Nat) : Option Nat := (List.range (imageCount img)).find? (fun k => decide (i ≤ k) && recOn img k d)

/-- A part whose records have all started: the iteration's or the launch's end (R180, R377). -/
def State.partEnds (s : State) (l : Launch) (p : DiePart) : State :=
  if p.busy = 0 ∧ s.partWaits l.id p.die = false then
    s.launchMap l.id (fun x => x.partMap p.die (fun q => if l.kind = 2 then { q with head := true, next := 0, iter := q.iter + 1 } else { q with atEnd := true }))
  else s

/-- A layer of a step (R252): the part goes through its images, one for each variant group in order (R247), and the attention of each. -/
def State.stepPart (s : State) (l : Launch) (p : DiePart) : State :=
  match l.groups[p.iter]? with
  | none => s.partClose l p
  | some g => if s.imageHere l p.die g then s.attnPart l p g else s

/-- PROGRAM_RECORD_START (R375–R377): the holder's next record on a die. -/
def recordStart (d : Nat) (s : State) : State :=
  match s.running d with
  | none => s
  | some (l, p) =>
    if p.atEnd || p.head || !p.tile.isEmpty then s
    else if l.kind = 3 then s.stepPart l p
    else if !s.imageHere l d 0 then s
    else match nextRec l.image p.next d with
      | none => s.partEnds l p
      | some i =>
        match s.recordBody l i d with
        | .stop t => t
        | .fault t st det => t.endLaunch l.id st det
        | .ok w pd s =>
          match recType l.image i with
          | 1 => s.startTile l d i w pd
          | 2 => s.startDesc l d i w pd
          | 3 => if pd && !vectorOk w then s.endLaunch l.id stBadParam 0x0F44 else s.runVector l d i w
          | _ => if pd && !controlOk w then s.endLaunch l.id stBadParam 0x0F44 else s.runControl l p i w

/-- LOOP_HEAD (R180): the trip word read afresh; the iteration runs, or the part ends, at MAX_TRIPS with more asked for noted. -/
def loopHead (i d : Nat) (s : State) : State :=
  match s.running d with
  | none => s
  | some (l, p) =>
    if l.id != i || l.kind != 2 || !p.head || p.atEnd then s
    else match s.fetch (s.launchOrigin l (64 + d) d 0) l.ctx l.tripVa 8 with
      | .stop t => t
      | .bad t e => t.endLaunch l.id stFaulted e
      | .bytes b s =>
        let s := s.dropGot ⟨2, i, d, 0⟩
        let n := leOf b % 2 ^ 32
        if p.iter < n ∧ p.iter < l.maxTrips then s.launchMap i (fun x => x.partMap d (fun q => { q with head := false, next := 0 }))
        else
          let s := s.launchMap i (fun x => { (x.partMap d (fun q => { q with atEnd := true })) with loopMax := x.loopMax || decide (p.iter < n) })
          if p.iter < n ∧ !l.loopMax then s.bump ROUTE.SHAPE.LOOP_MAX 1 else s

/-- LOOP_HEAD (R180). -/
def execLoopHead (launch die : Nat) (s : State) : Host.Outcome State Fault Refusal := .next (loopHead launch die s)

/-! Completion (R370). -/

/-- The status of a launch that has completed: CAPACITY_SKIP as the router reports (R172), DETAIL 0x0731 of a loop (R180). -/
def State.launchStatus (s : State) (l : Launch) : Nat × Nat :=
  let report := match s.launchRouter l with | some r => r.report | none => 0
  if report = 1 ∧ l.skipped ≠ 0 then (stCapacitySkip, min l.skipped 0xFFFF)
  else if report = 2 ∧ l.admitted < l.assigns.length then (stCapacitySkip, min (l.assigns.length - l.admitted) 0xFFFF)
  else (stDone, if l.loopMax then 0x0731 else 0)

/-! The layers of a step (R212, R252). -/

/-- The dies whose stacks hold shards of a slot's image. -/
def State.slotDies (s : State) (n : Nat) : List Nat := (List.range 8).filter (fun d => (s.slot n).pages.any (fun p => dieOf p.2 == d))

/-- One layer of a step launched, on the dies of the model's shards and on those that its attention runs on (R190); on a die that it needs
and that holds no window of the context it ends with 0x0B11 (R252). -/
def State.stepRun (s : State) (c layer : Nat) : State :=
  match s.stepOf c with
  | none => s
  | some t =>
    let i := s.nextLaunch
    let l : Launch := {
      id := 0, ctx := c, cls := t.cls, kind := 3, layer := layer, maxRows := (t.items.map StepItem.rows).sum, stepNo := t.no,
      slot := (if t.slot < 8 then some t.slot else none), groups := t.groups, tags := s.itemTags t.items }
    let ds := if t.items.isEmpty then [] else riseNats (s.slotDies t.slot ++ s.attnDies l)
    let s := s.launchAdd { l with parts := ds.map (fun d => ({ die := d } : DiePart)) }
    let s := s.stepMap c (fun x => { x with launch := some i })
    if ds.any (fun d => (s.windowOf c d).isNone) then s.endLaunch i stBadParam 0x0B11 else s

/-- The next layer of a context's step, if one is left. -/
def State.stepNext (s : State) (c : Nat) : State :=
  match s.stepOf c with
  | none => s
  | some t => match t.layers with
    | [] => s.stepMap c (fun x => { x with launch := none })
    | k :: r => (s.stepMap c (fun x => { x with layers := r })).stepRun c k

/-- LAUNCH_COMPLETE (R90, R370): every part is done; the scale table is folded before the reply. -/
def launchComplete (i : Nat) (s : State) : State :=
  match s.launch i with
  | none => s
  | some l =>
    if l.ended.isSome || !l.taken || !l.parts.all (fun p => p.phase == 3) || !(l.routePhase == 0 || l.routePhase == 3) then s
    else
      let s := l.emax.foldl (State.foldOne · l.ctx l.num) s
      let s := s.chargeLaunch l
      let s := match l.cmd with
        | some k => let st := s.launchStatus l; s.finish k st.1 st.2 l.tiles l.coreNs l.rows
        | none => s
      let s := ({ s with launches := s.launches.filter (fun x => x.id != i) }).ctxRun l.ctx
      if l.kind = 3 then s.stepNext l.ctx else s

/-- LAUNCH_COMPLETE (R370). -/
def execLaunchComplete (launch : Nat) (s : State) : Host.Outcome State Fault Refusal := .next (launchComplete launch s)

end Sys2Proof.Machine
end

