-- ==== Sys2Proof/Machine/Dispatcher.lean ====
section
/-! DEFINITION. The dispatchers and the bottom edges (R44–R75, R91–R94, R118, R417): tiles started on cores, their verdicts,
misdeals and replays, redeals, retirements, arming and injection. -/

namespace Sys2Proof.Machine

open Sys2Proof

/-! TILE_START. -/

/-- Whether a core may take a tile of a launch: ACTIVE, past its pace's wait (R417), at most one other tile on it, and none of
another launch (R49, R254). -/
def State.coreTakes (s : State) (d core i : Nat) : Bool :=
  let on := s.tiles.filter (fun t => t.die == d && t.onCore == core)
  s.unitState 0 d core == 0 && decide (core < 34) && decide ((aFind s.coreFree (34 * d + core)).getD 0 ≤ s.now) && decide (on.length < 2) &&
    on.all (fun t => t.launch == i)

/-- A redeal shift as a tile takes it: the context's, or that of MTX.NUM_THRESH; 0 where disabled (R91). -/
def redealShift (own reg : Nat) : Nat := if own = 15 then 0 else if own ≠ 0 then own else if reg = 15 then 0 else reg

/-- The page that holds a tile back asked of the tier engine, which takes none of the tile's other pages to make room (R118). -/
def State.wantTilePage (s : State) (l : Launch) (d va : Nat) (leaf : Option Nat) (need : List Nat) : State :=
  let s := s.launchMap l.id (fun x => x.partMap d (fun p => { p with need := need }))
  if (leaf.map lfState) = some 1 then s
  else
    let big := match s.walk l.ctx va with | some (_, b, _) => b | none => false
    s.want { id := 0, ctx := l.ctx, va := va / pageSize big * pageSize big, big := big, leaf := 2 ^ d, tier := 0, chip := s.chip, frame := 0, phase := 0, cause := 9, owner := l.id }

/-- A tile dispatched to a core. -/
def State.dispatch (s : State) (l : Launch) (d core : Nat) (w : List Nat) : State :=
  let t : Tile := {
    id := s.nextTile, die := d, core := core, launch := l.id, words := w, since := s.now, onCore := core,
    satShift := redealShift (l.num.getD 1 0) (s.rd MTX.NUM_THRESH.SAT_SHIFT), zeroShift := redealShift (l.num.getD 2 0) (s.rd MTX.NUM_THRESH.ZERO_SHIFT),
    maxRedeals := min 3 (l.num.getD 3 3), pages := s.tileNeeds l.ctx w }
  { s with tiles := s.tiles ++ [t], nextTile := s.nextTile + 1 }.launchMap l.id (fun x => x.partMap d (fun p => { p with tile := [], busy := p.busy + 1, wave := p.wave + 1, need := [] }))

/-- A tile whose core was retired dispatched again from its start, behind the tiles already on its new core (Table 3-7). DESIGN CHOICE
(log 48): it keeps the thresholds that it took when it was first dispatched. -/
def State.redispatch (s : State) (t : Tile) (core : Nat) : State :=
  { s with tiles := s.tiles.filter (fun x => x.id != t.id) ++ [{ t with core := core, onCore := core, shares := [], redeals := 0, h := 0, lastH := 0, bad := [], fresh := false }] }

/-- TILE_START (R49, R50, R118): a tile to be dispatched again goes first; else the part's next tile, once its pages are there. -/
def tileStart (d core : Nat) (s : State) : State :=
  match s.tiles.find? (fun t => t.die == d && t.onCore == 34) with
  | some t => if s.coreTakes d core t.launch then s.redispatch t core else s
  | none =>
    match s.running d with
    | none => s
    | some (l, p) =>
      if p.tile.isEmpty || !s.coreTakes d core l.id || !s.imageHere l d 0 then s
      else match s.tileMisses l.ctx p.tile with
        | some m => s.wantTilePage l d m.1 m.2 (s.tileNeeds l.ctx p.tile)
        | none => s.dispatch l d core p.tile

/-! Misdeals (R63–R67). -/

/-- MTX.MISDEAL_CNT's field of an array. -/
def misdealFld (d c a : Nat) : Fld :=
  match a with
  | 0 => MTX.MISDEAL_CNT.ARRAY0 d c
  | 1 => MTX.MISDEAL_CNT.ARRAY1 d c
  | 2 => MTX.MISDEAL_CNT.ARRAY2 d c
  | _ => MTX.MISDEAL_CNT.ARRAY3 d c

/-- The key of an array. -/
def arrayKey (d c a : Nat) : Nat := (34 * d + c) * 4 + a

/-- The arming window in ns. -/
def State.armWindow (s : State) : Nat := s.rd MTX.TILE_LIMIT.WINDOW_MS * 1_000_000

/-- Whether an array is armed: its misdeal no more than the window ago by the time base (R64). -/
def State.armed (s : State) (d c a : Nat) : Bool :=
  match aFind s.arming (arrayKey d c a) with
  | some t => decide (s.timeBase ≤ t + s.armWindow)
  | none => false

/-- The shares a tile runs now: array of the tile, core, array that computes it. -/
def Tile.inUse (t : Tile) : List (Nat × Nat × Nat) :=
  if t.shares.isEmpty then (arrays.filter (fun a => tM t.words a != 0)).map (fun a => (a, t.onCore, a)) else t.shares

/-- The ACTIVE cores of a die in the order of their logical numbers. -/
def State.activeCores (s : State) (d : Nat) : List Nat :=
  (List.range 32).filterMap (fun n => (s.unitsIn 0 d 0).find? (fun c => s.rd (MTX.CORE_STATUS.LOGICAL d c) == n))

/-- Whether no array of a core is armed. -/
def State.unarmed (s : State) (d c : Nat) : Bool := arrays.all (fun a => !s.armed d c a)

/-- Where the share of an array that misdealt replays (R63, R66). -/
def State.replayAt (s : State) (d core a : Nat) : Option (Nat × Nat) :=
  let act := s.activeCores d
  let own := if act.contains core then ([(a + 1) % 4, (a + 2) % 4, (a + 3) % 4].find? (fun x => !s.armed d core x)) else none
  match own with
  | some x => some (core, x)
  | none =>
    match act.find? (s.unarmed d) with
    | some c => some (c, a)
    | none =>
      match (act.flatMap (fun c => arrays.map (fun x => (c, x)))).find? (fun p => !s.armed d p.1 p.2 && p != (core, a)) with
      | some p => some p
      | none => (act.find? (fun c => c != core)).map (fun c => (c, 0))

/-- Armed arrays of a core. -/
def State.armedCount (s : State) (d c : Nat) : Nat := (arrays.filter (s.armed d c)).length

/-- Where a tile replays whole after a weight-port fault (R65, R66): the core, and whether every array of it is armed, so that the
replay runs on its array 0 (R66 step 3). -/
def State.replayWhole (s : State) (d core : Nat) : Option (Nat × Bool) :=
  let act := (s.activeCores d).filter (fun c => c != core)
  match act.find? (s.unarmed d) with
  | some c => some (c, false)
  | none =>
    if act.all (fun c => s.armedCount d c == 4) then act.head?.map (fun c => (c, true))
    else (act.foldl (fun (b : Option Nat) c => match b with | none => some c | some x => if s.armedCount d c < s.armedCount d x then some c else b) none).map (fun c => (c, false))

/-- Tiles on a core that has left dispatch, but for one: each waits to be dispatched again (Table 3-7). -/
def State.abandonTiles (s : State) (d core keep : Nat) : State :=
  { s with tiles := s.tiles.map (fun (t : Tile) =>
      if t.die = d ∧ t.id ≠ keep ∧ (t.onCore = core ∨ t.shares.any (fun x => x.2.1 == core)) then { t with core := 34, onCore := 34, shares := [] } else t) }

/-- One misdeal counted and recorded (Table 3-11, R64, R75): an injected one arms nothing; a second one retires the core, with CAUSE 2
where the fault is charged to the weight port (R65). -/
def State.misdealOne (t : Tile) (cause : Nat) (s : State) (p : Nat × Nat × Nat) : State :=
  let d := t.die
  let c := p.2.1
  let a := p.2.2
  let key := arrayKey d c a
  let inj := s.injects.contains key
  let s := (((s.bump (misdealFld d c a) 1).wr (MTX.MISDEAL_LAST.TIME d c) s.timeBase).wr (MTX.MISDEAL_LAST.ARRAY d c) a).bump MTX.MISDEAL_TOTAL.MISDEALS 1
  let s := s.record 0x0101 d (c + a * 2 ^ 8 + b2n inj * 2 ^ 10) (tTag t.words)
  if inj then { s with injects := s.injects.filter (fun k => k != key) }
  else if s.armed d c a then (s.coreRetire d c cause).abandonTiles d c t.id
  else { s with arming := aPut s.arming key s.timeBase }.wr (MTX.CORE_STATUS.ARMED d c) (s.rd (MTX.CORE_STATUS.ARMED d c) ||| 2 ^ a)

/-- A tile gone from its core. -/
def State.tileOff (s : State) (i : Nat) : State := { s with tiles := s.tiles.filter (fun t => t.id != i) }

/-- A tile replaced in its place. -/
def State.tilePut (s : State) (t : Tile) : State := { s with tiles := s.tiles.map (fun (x : Tile) => if x.id = t.id then t else x) }

/-- A tile that cannot be recovered (R67 step 2): counted, recorded, its launch FAULTED, the job to be aborted. -/
def State.unrecovered (s : State) (t : Tile) (core : Nat) : State :=
  let s := ((s.tileOff t.id).bump MTX.UNRECOVERED.TILES 1).record 0x0104 t.die core (tTag t.words)
  { s.endLaunch t.launch stFaulted 0 with topo := { s.topo with abortDue := s.topo.abortDue ++ [(3, 0xFFF)] } }

/-! Redeals (R91–R94). -/

/-- A verdict's counts: whether a threshold is crossed, H counting this verdict, and whether a redeal follows (R91–R93). -/
def State.redealOf (s : State) (c : Nat) (t : Tile) : Bool × Nat × Bool :=
  let n := s.tileCounts c t.words (if t.redeals = 0 then none else some t.lastH)
  let sat := t.satShift != 0 && decide (32 * n.2.2 < n.1 * 2 ^ t.satShift)
  let zero := t.zeroShift != 0 && decide (32 * n.2.2 < n.2.1 * 2 ^ t.zeroShift)
  let h := t.h + b2n sat
  (sat || zero, h, (sat || zero) && decide (t.redeals < t.maxRedeals) && s.tileSourced c t.words && (t.redeals == 0 || h != t.lastH))

/-- A tile as its next redeal runs it: whole on its core under H (R92). -/
def Tile.redealt (t : Tile) (h : Nat) : Tile := { t with redeals := t.redeals + 1, h := h, lastH := h }

/-- A redeal counted. -/
def State.redealCount (s : State) (d : Nat) : State := (s.bump MTX.REDEAL_TOTAL.REDEALS 1).bump (MTX.REDEAL_DIE.REDEALS d) 1

/-! TILE_VERDICT. -/

/-- An accepted tile's time and core (R227, R417). DESIGN CHOICE (log 48): a wait of the pace, stated in steps, is turned into ns by the
die's step rate as the last tick read it, rounded down; no wait is made while no rate has been read. -/
def State.tileCharge (s : State) (l : Launch) (t : Tile) : State :=
  let ns := s.now - t.since
  let s := s.chargeNs l.ctx t.die ns (l.split ns)
  let pace := s.rd (PWR.DIE_STATUS.PACE t.die)
  let mhz := s.rd (PWR.DIE_STATUS.STEP_MHZ t.die)
  let wait := if mhz = 0 ∨ pace = 0 then 0 else tSteps t.words * (64 - pace) * 1000 / (pace * mhz)
  let s := if wait = 0 then s else { s with coreFree := aPut s.coreFree (34 * t.die + t.onCore) (s.now + wait) }
  s.launchMap l.id (fun x => { (x.partMap t.die (fun p => { p with busy := p.busy - 1 })) with tiles := x.tiles + 1, coreNs := x.coreNs + ns })

/-- A tile accepted (R49, R93): its results written, and an exhausted redeal counted. -/
def State.tileAccept (s : State) (l : Launch) (t : Tile) (crossed : Bool) : State :=
  let redeal := if t.redeals = 0 then none else some t.lastH
  match s.putAll (s.launchOrigin l (64 + t.die) t.die 0) l.ctx (s.resultWrites l.ctx t.words redeal) with
  | .stop _ => s
  | .bad u det => (u.tileOff t.id).endLaunch l.id stFaulted det
  | .ok u =>
    let u := if crossed then (u.bump MTX.REDEAL_TOTAL.EXHAUSTED 1).record 0x0105 t.die t.onCore (tTag t.words) else u
    (u.tileOff t.id).tileCharge l t

/-- A verdict with no misdeal: a redeal, or acceptance (R91–R93). -/
def State.verdictPass (s : State) (l : Launch) (t : Tile) : State :=
  let r := s.redealOf l.ctx t
  if r.2.2 then (s.redealCount t.die).tilePut { t.redealt r.2.1 with shares := [] }
  else s.tileAccept l t r.1

/-- A verdict with misdeals (R63–R67, Table 3-7): counted, the shares placed on other arrays, with redealt scales where a threshold
is crossed too; a tile that has misdealt on three arrays has its weights dealt again first. -/
def State.verdictBad (s : State) (l : Launch) (t : Tile) (bad : List (Nat × Nat × Nat)) (port : Bool) : State :=
  let r := s.redealOf l.ctx t
  let arr := (t.bad ++ bad.map (fun (p : Nat × Nat × Nat) => 4 * p.2.1 + p.2.2)).dedup
  let again := !t.bad.isEmpty
  let core := (bad.head?.map (fun (p : Nat × Nat × Nat) => p.2.1)).getD t.onCore
  let s := bad.foldl (State.misdealOne t (if port then 2 else 1)) s
  let s := if port then (s.coreRetire t.die core 2).abandonTiles t.die core t.id else s
  if again && t.fresh then s.unrecovered t core
  else
    let deal := again && decide (3 ≤ arr.length)
    let s := if deal then s.redealWeights l.ctx t.die t.words else s
    let t := { t with bad := arr, fresh := t.fresh || deal }
    let s := if r.2.2 then s.redealCount t.die else s
    let t := if r.2.2 then t.redealt r.2.1 else { t with h := r.2.1 }
    if port then
      match s.replayWhole t.die core with
      | none => s.unrecovered t core
      | some (c, one) => s.tilePut { t with
          core := c, onCore := c, shares := if one then (arrays.filter (fun a => tM t.words a != 0)).map (fun a => (a, c, 0)) else [] }
    else
      let todo := if r.2.2 then ({ t with shares := [] } : Tile).inUse else bad
      let lost := todo.filter (fun p => bad.any (fun b => b.1 == p.1) || !(s.activeCores t.die).contains p.2.1)
      let moved := lost.map (fun p => (p.1, s.replayAt t.die ((bad.find? (fun b => b.1 == p.1)).getD p).2.1 ((bad.find? (fun b => b.1 == p.1)).getD p).2.2))
      if moved.any (fun p => p.2.isNone) then s.unrecovered t core
      else
        let kept := todo.filter (fun p => !lost.contains p)
        s.tilePut { t with shares := kept ++ moved.filterMap (fun p => p.2.map (fun q => (p.1, q.1, q.2))) }

/-- The shares of a tile whose checksums disagree (R59–R61): an array that `faults` names, as core × 4 + array, or whose comparison an
injection corrupts, has put a sum of its data partials out. -/
def State.misdealt (s : State) (l : Launch) (t : Tile) (faults : List Nat) : List (Nat × Nat × Nat) :=
  t.inUse.filter (fun p =>
    let hit := faults.contains (4 * p.2.1 + p.2.2) || s.injects.contains (arrayKey t.die p.2.1 p.2.2)
    !s.shareAgrees l.ctx t.words (if t.redeals = 0 then none else some t.lastH) p.1 (if hit then 1 else 0))

/-- The blocks with a NaN scale that a run of a tile has met, counted (R78). -/
def State.nanCount (s : State) (l : Launch) (t : Tile) : State :=
  s.bump MTX.NUM_NAN.NAN_SCALE (s.nanScales l.ctx t.words (if t.redeals = 0 then none else some t.lastH) (t.inUse.map Prod.fst))

/-- TILE_VERDICT (R49, R63, R91): the tile's last comparison is made. `misdeals` holds the arrays at fault in this run, as core × 4 +
array (log 7); `port` is 1 where all four arrays of its core disagreed in one sub-tile (R65). -/
def tileVerdict (i : Nat) (misdeals : List Nat) (port : Nat) (s : State) : State :=
  match s.tiles.find? (fun t => t.id == i) with
  | none => s
  | some t =>
    if t.onCore == 34 || (s.tiles.takeWhile (fun x => x.id != i)).any (fun x => x.die == t.die && x.onCore == t.onCore) then s
    else match s.launch t.launch with
      | none => s.tileOff i
      | some l =>
        if l.ended.isSome then (s.nanCount l t).tileOff i
        else
          let whole := port == 1 && t.shares.isEmpty
          let bad := if whole then arrays.map (fun a => (a, t.onCore, a)) else s.misdealt l t misdeals
          let s := s.nanCount l t
          if bad.isEmpty then s.verdictPass l t
          else s.verdictBad l t bad whole

/-- TILE_VERDICT (R63). -/
def execTileVerdict (tile : Nat) (misdeals : List Nat) (port : Nat) (s : State) : Host.Outcome State Fault Refusal :=
  .next (tileVerdict tile misdeals port s)

/-- ARMING_EXPIRY (R64): the window of an array's misdeal is past. -/
def armingExpiry (d c a : Nat) (s : State) : State :=
  match aFind s.arming (arrayKey d c a) with
  | none => s
  | some t =>
    if a < 4 ∧ t + s.armWindow < s.timeBase then
      { s with arming := aErase s.arming (arrayKey d c a) }.wr (MTX.CORE_STATUS.ARMED d c) (setBits (s.rd (MTX.CORE_STATUS.ARMED d c)) a 1 0)
    else s

/-- ARMING_EXPIRY (R64). -/
def execArmingExpiry (die core array : Nat) (s : State) : Host.Outcome State Fault Refusal := .next (armingExpiry die core array s)

/-- A write to MTX.INJECT (R75): taken while ENABLE is 1 and the target is ACTIVE. -/
def mtxInject (v : Nat) (s : State) : State :=
  let d := bits v 0 3
  let c := bits v 4 6
  if s.is MTX.INJECT_ENABLE.ENABLE && decide (c < 34) && s.unitState 0 d c == 0 then
    { s with injects := (arrayKey d c (bits v 10 2)) :: s.injects.filter (fun k => k != arrayKey d c (bits v 10 2)) }
  else s

/-- MTX_INJECT (R75). -/
def execMtxInject (value : Nat) (s : State) : Host.Outcome State Fault Refusal := .next (mtxInject value s)

end Sys2Proof.Machine
end

