-- ==== Sys2Proof/Machine/Contexts.lean ====
section
/-! DEFINITION. Contexts (R261–R263): CTX_CREATE, CTX_DESTROY and CTX_ADOPT (R367, R368, R385), and the numerics settings of
SET_NUMERICS (R99, R100). -/

namespace Sys2Proof.Machine

open Sys2Proof

/-! CTX_CREATE. -/

/-- The FREE contexts. -/
def State.freeCtx (s : State) : Option Nat := (List.range 1024).find? (fun c => !s.inUse c)

/-- The checks of CTX_CREATE (Table 15-9). -/
def checkCtxCreate (s : State) (c : Cmd) : Option (Nat × Nat) :=
  let slot := bits (c.p 0) 1 3
  let none' := bit (c.p 0) 4
  let st := s.slotState slot
  firstBad [
    (c.context != 0xFFFF && (decide (1024 ≤ c.context) || s.inUse c.context), stBadContext, 0),
    (!onlyBits (c.p 0) 0x1F || !c.restZero 1, stBadParam, 0x0F01),
    (if none' then slot != 0 else st != 2 && st != 3, stBadParam, 0x0F21),
    (c.context == 0xFFFF && s.freeCtx.isNone, stNoResource, 0)]

/-- CTX_CREATE (R262, R368): the context LIVE with its root, class and slot, and every other attribute as R262 and R99 give it. -/
def ctxCreate (s : State) (c : Cmd) : State :=
  match (if c.context = 0xFFFF then s.freeCtx else some c.context) with
  | none => s.failWith c.id stNoResource 0
  | some n =>
    match s.allocRun (hbmRegions 0) 4096 4096 0 n with
    | none => s.failWith c.id stNoResource 0
    | some (root, s) =>
      let s := s.setCtx n { job := s.rd TOPO.PARTITION.ID }
      let s := s.wrs [(MMU.CTX_ROOT.VALID n, 1), (MMU.CTX_ROOT.ROOT n, root / 4096), (SCHED.CTX_STATE.LIFE n, 1), (SCHED.CTX_STATE.OWNER n, c.src),
        (SCHED.CTX_STATE.CLASS n, c.p 0), (SCHED.CTX_STATE.RUN n, 0), (SCHED.CTX_STATE.PAUSED n, 0), (SCHED.CTX_STATE.PREEMPTED n, 0)]
      let s := { s with accounts := aErase s.accounts n }
      let s := if bit (c.p 0) 4 then s else s.nameSlot n (some (bits (c.p 0) 1 3))
      s.doneWith c.id n root 0

/-- CTX_CREATE (R368). -/
def execCtxCreate (k : Nat) (s : State) : Host.Outcome State Fault Refusal := .next (s.runCmd k 0x10 always checkCtxCreate ctxCreate)

/-! CTX_DESTROY. -/

/-- The checks of CTX_DESTROY: either host may destroy an ORPHANED context (Table 11-3). -/
def checkCtxDestroy (s : State) (c : Cmd) : Option (Nat × Nat) := firstBad [
  (!(s.owns c.src c.context || (s.inUse c.context && s.rd (SCHED.CTX_STATE.LIFE c.context) == 2)), stBadContext, 0),
  (!c.restZero 0, stBadParam, 0x0F01)]

/-- What makes CTX_DESTROY answer BUSY_RETRY (R262). -/
def State.ctxBusy (s : State) (c : Cmd) : Bool :=
  let n := c.context
  s.launches.any (fun l => l.ctx == n) || s.steps.any (fun t => t.ctx == n) || s.cmds.any (fun d => d.id != c.id && d.context == n) ||
    s.faults.any (fun e => e.isOpen && e.ctx == n) || handNos.any (fun h => s.handState h != 0 && s.handCtx h == n)

/-- CTX_DESTROY (R262): kitty copies freed, windows unpinned, pages unmapped, the root cleared; what belongs to the context and
nothing else goes with it. -/
def ctxDestroy (s : State) (c : Cmd) : State :=
  let n := c.context
  if s.ctxBusy c then s.failWith c.id stBusyRetry 0
  else
    let s := (s.kitty.filter (fun k => k.2.state != 0 && k.2.ctx == n)).foldl (fun (t : State) k => t.kittyFree k.1) s
    let s := (s.windows.filter (fun w => w.ctx == n)).foldl State.unpinOne s
    let s := ((s.leaves n).map Prod.fst).foldl (fun (t : State) va => unmapOne n t va) s
    let s := { s with
      allocs := s.allocs.filter (fun a => !(a.ctx == n && (a.kind == 0 || a.kind == 1))),
      ranges := s.ranges.filter (fun r => r.ctx != n),
      wants := s.wants.filter (fun m => m.ctx != n),
      tlbs := s.tlbs.filter (fun t => t.ctx != n),
      remaps := s.remaps.filter (fun r => r.ctx != n),
      programs := s.programs.filter (fun p => p.ctx != n),
      routers := s.routers.filter (fun r => r.ctx != n),
      areas := s.areas.filter (fun a => a.ctx != n),
      stepSlots := aErase s.stepSlots n,
      variants := s.variants.filter (fun v => v.ctx != n),
      entries := s.entries.map (fun (e : Nat × Entry) => if e.2.live ∧ e.2.ctx = n then (e.1, { gen := (e.2.gen + 1) % 2 ^ 32 }) else e) }
    let s := s.nameSlot n none
    let s := { s with ctxs := aErase s.ctxs n }
    let s := s.wrs [(MMU.CTX_ROOT.VALID n, 0), (MMU.CTX_ROOT.ROOT n, 0), (SCHED.CTX_STATE.LIFE n, 0), (SCHED.CTX_STATE.OWNER n, 0),
      (SCHED.CTX_STATE.CLASS n, 0), (SCHED.CTX_STATE.RUN n, 0), (SCHED.CTX_STATE.PAUSED n, 0), (SCHED.CTX_STATE.PREEMPTED n, 0),
      (TIER.REMAP_INDEX.ENTRIES, s.remaps.length)]
    s.serveRegs.doneWith c.id 0 0 0

/-- CTX_DESTROY (R262). -/
def execCtxDestroy (k : Nat) (s : State) : Host.Outcome State Fault Refusal := .next (s.runCmd k 0x11 always checkCtxDestroy ctxDestroy)

/-! CTX_ADOPT. -/

/-- Whether a context is ORPHANED. -/
def State.orphaned (s : State) (n : Nat) : Bool := decide (n < 1024) && s.rd (SCHED.CTX_STATE.LIFE n) == 2

/-- The ORPHANED contexts. -/
def State.orphans (s : State) : List Nat := (s.ctxs.map Prod.fst).filter s.orphaned

/-- HIF.PORT_STATUS.ORPHANED of both hosts brought up (R385). -/
def State.orphanRegs (s : State) : State :=
  let n (h : Nat) := (s.orphans.filter (fun c => (s.ctx c).lostBy == h)).length
  (s.wr (HIF.PORT_STATUS.ORPHANED 0) (n 0)).wr (HIF.PORT_STATUS.ORPHANED 1) (n 1)

/-- The checks of CTX_ADOPT. -/
def checkCtxAdopt (s : State) (c : Cmd) : Option (Nat × Nat) := firstBad [
  (if bit (c.p 0) 0 then c.context != 0xFFFF else !s.orphaned c.context, stBadContext, 0),
  (!onlyBits (c.p 0) 1 || !c.restZero 1, stBadParam, 0x0F01)]

/-- One context adopted: its owner changes, the host that lost it is told (Table 16-7), and its open ABSENT records go to the new owner, REDELIVERED (R385, Table 5-13). -/
def State.adopt (h : Nat) (s : State) (n : Nat) : State :=
  let l := (s.ctx n).lostBy
  let s := if l = h then s else (s.wr (HIF.HOST_EVENTS.ADOPTED_AWAY l) 1).raiseIf l (HIF.HOST_CTL.EVENT_EN l) (HIF.HOST_CTL.EVENT_VECTOR l)
  let s := s.wrs [(SCHED.CTX_STATE.LIFE n, 1), (SCHED.CTX_STATE.OWNER n, h)]
  { s with faults := s.faults.map (fun (e : FaultEntry) => if e.ctx = n ∧ e.isOpen ∧ e.kind = 2 then { e with toSend := [1] } else e) }

/-- CTX_ADOPT (R385): OUT0 holds the contexts adopted. -/
def ctxAdopt (s : State) (c : Cmd) : State :=
  let l := if bit (c.p 0) 0 then s.orphans else [c.context]
  ((l.foldl (State.adopt c.src) s).orphanRegs).doneWith c.id l.length 0 0

/-- CTX_ADOPT (R385). -/
def execCtxAdopt (k : Nat) (s : State) : Host.Outcome State Fault Refusal := .next (s.runCmd k 0x18 always checkCtxAdopt ctxAdopt)

/-! SET_NUMERICS (R99, R100). -/

/-- SITES of SET_NUMERICS. -/
def Cmd.sites (c : Cmd) : Nat := bits (c.p 2) 0 16
/-- STRIDE. -/
def Cmd.siteStride (c : Cmd) : Nat := bits (c.p 2) 16 16
/-- Bytes of the table, 0 without one. -/
def Cmd.tableBytes (c : Cmd) : Nat := if bit (c.p 0) 14 then c.sites * c.siteStride else 0

/-- Whether a range of a context lies wholly in pages whose home is this module's SRAM. -/
def State.inSram (s : State) (c va n : Nat) : Bool :=
  (chunksOf va n).all (fun p => match s.walk c p.1 with
    | some (_, _, l) => lfState l != 2 && lfTier l == 0 && lfChip l == s.chip
    | none => false)

/-- The checks of SET_NUMERICS (Table 4-8). -/
def checkSetNumerics (s : State) (c : Cmd) : Option (Nat × Nat) :=
  let en := bit (c.p 0) 14
  let clear := bit (c.p 0) 15
  firstBad [
    (s.ctxBad .owned c, stBadContext, 0),
    (en && (c.sites == 0 || decide (4096 < c.sites) || c.siteStride % 64 != 0 || c.siteStride == 0 || decide (2048 < c.siteStride)), stBadParam, 0x0401),
    ((clear && c.p 3 != 0) || (clear && !en) || (!en && (c.p 1 != 0 || c.p 2 != 0 || c.p 3 != 0)), stBadParam, 0x0402),
    (en && !s.inSram c.context (bits (c.p 1) 0 57) c.tableBytes, stBadParam, 0x0403),
    (!onlyBits (c.p 0) 0xFFF3 || decide (2 ^ 57 ≤ c.p 1) || decide (2 ^ 32 ≤ c.p 2) || decide (2 ^ 57 ≤ c.p 3) || !c.restZero 4, stBadParam, 0x0404)]

/-- The settings of SET_NUMERICS applied; they act from the context's next launch (R99). -/
def setNumericsDone (c : Cmd) (s : State) (table : Option (List Nat)) : State :=
  let s := match table with | some l => s.tableWrite c.context (c.p 1) l | none => s
  let s := s.setCtx c.context { s.ctx c.context with
    margin := bits (c.p 0) 0 2, satShift := bits (c.p 0) 4 4, zeroShift := bits (c.p 0) 8 4, maxRedeals := bits (c.p 0) 12 2,
    tableEn := bit (c.p 0) 14, tableVa := c.p 1, sites := c.sites, siteStride := c.siteStride }
  s.doneWith c.id c.tableBytes 0 0

/-- SET_NUMERICS (R99): the table cleared, or copied from CALIB_VA before the reply; a fault of the copy ends it FAULTED, 0. -/
def setNumerics (s : State) (c : Cmd) : State :=
  if c.p 3 ≠ 0 then
    match s.fetch c.origin c.context (c.p 3) c.tableBytes with
    | .bytes l s => setNumericsDone c (s.dropGot c.origin.who) (some l)
    | .stop t => t
    | .bad t _ => t.failWith c.id stFaulted 0
  else setNumericsDone c s (if bit (c.p 0) 15 then some (List.replicate c.tableBytes 0xFF) else none)

/-- SET_NUMERICS (R99). -/
def execSetNumerics (k : Nat) (s : State) : Host.Outcome State Fault Refusal := .next (s.runCmd k 0x33 always checkSetNumerics setNumerics)

end Sys2Proof.Machine
end

