-- ==== Sys2Proof/Machine/SchedCmds.lean ====
section
/-! DEFINITION. The scheduling commands CLASS_SET, PREEMPT, RESUME and ACCOUNT_READ (R264–R268, Tables 11-4 and 11-5). -/

namespace Sys2Proof.Machine

open Sys2Proof

/-- The checks of CLASS_SET and PREEMPT. -/
def checkClassSet (s : State) (c : Cmd) : Option (Nat × Nat) := firstBad [
  (s.ctxBad .owned c, stBadContext, 0), (!onlyBits (c.p 0) 1 || !c.restZero 1, stBadParam, 0x0B01)]

/-- CLASS_SET (R264): the class of launches that start after the reply. -/
def execClassSet (k : Nat) (s : State) : Host.Outcome State Fault Refusal :=
  .next (s.runCmd k 0x70 always checkClassSet (fun s c => (s.wr (SCHED.CTX_STATE.CLASS c.context) (c.p 0)).doneWith c.id 0 0 0))

/-- The mover descriptors of a context that have been taken halted at their resume points, or freed to go on (R151); each one left with
requests still to issue is counted (Table 6-8). Those of the service queue go on (Table 5-8). -/
def State.haltDescs (s : State) (c : Nat) (on : Bool) : State :=
  let left := s.descs.filter (fun d => on && d.ctx == c && d.issued && d.queue != 0 && !d.halted && d.ended.isNone && decide (d.next < d.total))
  let s := left.foldl (fun (t : State) d => t.bump (MOVE.EVENTS.PREEMPTS d.mover) 1) s
  { s with descs := s.descs.map (fun (d : Desc) => if d.ctx = c ∧ d.issued ∧ d.queue ≠ 0 then { d with halted := on } else d) }

/-- PREEMPT (R265): PREEMPTED set; the context's WAIT commands end PREEMPTED (R366); the dies it holds are asked back. -/
def preempt (s : State) (c : Cmd) : State :=
  let n := c.context
  let s := (s.wr (SCHED.CTX_STATE.PREEMPTED n) 1).haltDescs n true
  let s := (s.cmds.filter (fun d => d.opcode == 0x03 && d.context == n && d.started && d.status.isNone)).foldl
    (fun (t : State) d => t.failWith d.id stPreempted 0) s
  let s := s.asks.ctxRun n
  if bit (c.p 0) 0 then (s.start c.id []).preemptReplies else s.finish c.id stAccepted 0 0 0 0

/-- PREEMPT (R265). -/
def execPreempt (k : Nat) (s : State) : Host.Outcome State Fault Refusal := .next (s.runCmd k 0x71 always checkClassSet preempt)

/-- The checks of RESUME. -/
def checkResume (s : State) (c : Cmd) : Option (Nat × Nat) := firstBad [
  (s.ctxBad .owned c, stBadContext, 0), (!c.restZero 0, stBadParam, 0x0B01)]

/-- RESUME (R266): PREEMPTED cleared; OUT0 says whether it was set, OUT1 the other flags. -/
def resume (s : State) (c : Cmd) : State :=
  let n := c.context
  let was := s.rd (SCHED.CTX_STATE.PREEMPTED n)
  let flags := s.rd (SCHED.CTX_STATE.PAUSED n) + 2 * s.rd (SCHED.CTX_STATE.FAULT n)
  (((s.wr (SCHED.CTX_STATE.PREEMPTED n) 0).haltDescs n false).asks.ctxRun n).doneWith c.id was flags 0

/-- RESUME (R266). -/
def execResume (k : Nat) (s : State) : Host.Outcome State Fault Refusal := .next (s.runCmd k 0x72 always checkResume resume)

/-- BY_TAG of ACCOUNT_READ. -/
def Cmd.byTag (c : Cmd) : Bool := bit (c.p 0) 0

/-- Whether a range is mapped writable in a context. -/
def State.writable (s : State) (c va n : Nat) : Bool :=
  (chunksOf va n).all (fun p => match s.walk c p.1 with | some (_, _, l) => lfState l == 2 || lfWrite l | none => false)

/-- The checks of ACCOUNT_READ (Table 11-5). -/
def checkAccountRead (s : State) (c : Cmd) : Option (Nat × Nat) := firstBad [
  (!c.byTag && s.ctxBad .owned c, stBadContext, 0),
  (!onlyBits (c.p 0) 0xFFF_0003 || decide (2 ^ 57 ≤ c.p 1) || !c.restZero 2, stBadParam, 0x0B01),
  (c.byTag && c.context != 0xFFFF, stBadParam, 0x0B02),
  (c.p 1 % 64 != 0 || (c.src == 2 && c.p 1 != 0) || (!c.byTag && c.p 1 != 0 && !s.writable c.context (c.p 1) 64), stBadParam, 0x0B03)]

/-- The words of an account record (Table 9-8). -/
def Account.words (a : Account) : List Nat :=
  [a.engineNs, a.bytes.getD 0 0, a.bytes.getD 1 0, a.bytes.getD 2 0, a.bytes.getD 3 0, a.energyUj / 1000, a.tokens, a.steps + a.parks * 2 ^ 32]

/-- An account whose words have been swapped to zero: energy below 1 mJ stays (R227, R267). -/
def Account.cleared (a : Account) : Account := { a with engineNs := 0, bytes := [0, 0, 0, 0], energyUj := a.energyUj % 1000, tokens := 0, steps := 0, parks := 0 }

/-- ACCOUNT_READ (R267). -/
def accountRead (s : State) (c : Cmd) : State :=
  let key := if c.byTag then 1024 + bits (c.p 0) 16 12 else c.context
  let a := s.account key
  let data := a.words.flatMap (leVals 8)
  let go (s : State) : State :=
    let s := if bit (c.p 0) 1 then s.charge key Account.cleared else s
    s.doneAfter c a.engineNs (a.energyUj / 1000) a.tokens
  if c.p 1 = 0 then go s
  else if c.byTag then go (s.hostBytes c.src (c.p 1) data)
  else s.withPut c (c.p 1) data go

/-- ACCOUNT_READ (R267). -/
def execAccountRead (k : Nat) (s : State) : Host.Outcome State Fault Refusal := .next (s.runCmd k 0x73 always checkAccountRead accountRead)

end Sys2Proof.Machine
end

