-- ==== Sys2Proof/Machine/Routing.lean ====
section
/-! DEFINITION. Expert routing (R155–R186): the router commands, gating and selection, dispatch and admission, receive areas, expert
launches and combine, and the bias loop. -/

namespace Sys2Proof.Machine

open Sys2Proof

/-! ROUTER_CONFIG (Table 7-6). -/

/-- EXPERTS. -/
def Cmd.experts (c : Cmd) : Nat := bits (c.p 0) 16 11
/-- SET_SHAPE. -/
def Cmd.setShape (c : Cmd) : Bool := bit (c.p 0) 11
/-- REMOVE of ROUTER_CONFIG. -/
def Cmd.rmRouter (c : Cmd) : Bool := bit (c.p 0) 10 && !bit (c.p 0) 11
/-- Configuring ROUTER_CONFIG. -/
def Cmd.configures (c : Cmd) : Bool := !bit (c.p 0) 10 && !bit (c.p 0) 11

/-- The router a configuring command describes, its placement table aside. -/
def Cmd.router (c : Cmd) (slot : Nat) : Router := {
  ctx := c.context, slot := slot, layer := c.layer, experts := c.experts, topK := bits (c.p 0) 32 5, scoreFn := bits (c.p 0) 40 2,
  norm := bit (c.p 0) 42, gateBf16 := bit (c.p 0) 43, report := bits (c.p 0) 44 2, shared := bits (c.p 0) 46 4, capacity := bits (c.p 2) 0 16,
  rowBytes := 64 * bits (c.p 2) 16 16, scale := bits (c.p 2) 32 32, biasVa := c.p 3, countVa := c.p 4, place := [], stepSlot := bits (c.p 5) 0 10 }

/-- Bytes from one copy of the biases to the other (Table 7-6). -/
def Router.biasStride (r : Router) : Nat := alignUp (4 * r.experts) 64

/-- Whether a launch of a layer runs. -/
def State.layerRuns (s : State) (c layer : Nat) : Bool :=
  s.launches.any (fun l => l.ctx == c && (l.kind == 0 || l.kind == 3) && l.layer == layer && l.taken && l.ended.isNone)

/-- Whether a range of a context is wholly mapped. -/
def State.mappedAll (s : State) (c va n : Nat) : Bool := (chunksOf va n).all (fun p => (s.walk c p.1).isSome)

/-- The checks of ROUTER_CONFIG (Table 7-7) that its parameter words allow. It is never busy while a switch is pending (R496). -/
def checkRouterConfig (s : State) (c : Cmd) : Option (Nat × Nat) :=
  let r := c.router 0
  let cfg := c.configures
  firstBad [
    (s.ctxBad .owned c, stBadContext, 0),
    (!onlyBits (c.p 0) 0x3_FF1F_07FF_3FFF || decide (2 ^ 57 ≤ c.p 1) || decide (2 ^ 57 ≤ c.p 3) || decide (2 ^ 57 ≤ c.p 4) || decide (2 ^ 10 ≤ c.p 5),
      stBadParam, 0x0704),
    (c.setShape && (c.p 0 - bits (c.p 0) 11 3 * 2 ^ 11 != 0 || !c.restZero 1), stBadParam, 0x0705),
    (c.rmRouter && (c.p 0 - c.layer - 2 ^ 10 != 0 || !c.restZero 1 || (s.router c.context (s.routerSlot c.context) c.layer).isNone), stBadParam, 0x0705),
    (bits (c.p 0) 12 2 == 3, stBadParam, 0x0701),
    (cfg && (r.experts == 0 || decide (1024 < r.experts) || r.topK == 0 || decide (16 < r.topK) || r.scoreFn == 3 || r.report == 3 ||
      decide (8 < r.shared) || r.capacity == 0 || r.rowBytes == 0 || decide (65_536 < r.rowBytes) || !positive32 r.scale ||
      (r.norm && r.scoreFn == 2)), stBadParam, 0x0701),
    (cfg && (c.p 1 % 64 != 0 || c.p 3 % 64 != 0 || c.p 4 % 64 != 0 || !s.mappedAll c.context (c.p 1) (16 * r.experts) ||
      !s.mappedAll c.context r.biasVa (64 + 2 * r.biasStride) || !s.mappedAll c.context r.countVa (64 + 16 * r.experts)), stBadParam, 0x0702),
    (!c.setShape && (s.switchOf c.context).isNone && s.layerRuns c.context c.layer, stBusyRetry, 0)]

/-- A placement entry read: chip, slot, valid, RECV_VA. -/
def placeEntry (w : List Nat) : Nat × Nat × Nat × Nat := (bits (wd w 0) 0 12, bits (wd w 0) 12 10, bits (wd w 0) 22 1, bits (wd w 1) 0 57)

/-- Whether no two of a router's areas overlap, nor one of another router of the context, whatever its slot (R164, R496). -/
def State.areasApart (s : State) (r : Router) : Bool :=
  let mine := r.validList.map (fun e => (r.areaVa e 0, 2 * r.areaBytes))
  let others := (s.routers.filter (fun q => q.ctx == r.ctx && !q.isOf r.ctx r.slot r.layer)).flatMap
    (fun q => q.validList.map (fun e => (q.areaVa e 0, 2 * q.areaBytes)))
  mine.zipIdx.all (fun p => (mine.drop (p.2 + 1)).all (fun q => !overlap p.1.1 p.1.2 q.1 q.2) && others.all (fun q => !overlap p.1.1 p.1.2 q.1 q.2))

/-- The checks that the placement table allows. -/
def State.placeBad (s : State) (r : Router) (l : List (List Nat)) : Option (Nat × Nat) := firstBad [
  (l.any (fun w => !onlyBits (wd w 0) 0x7F_FFFF || decide (2 ^ 57 ≤ wd w 1)), stBadParam, 0x0704),
  (decide (r.validList.length < r.topK), stBadParam, 0x0701),
  (r.validList.any (fun e => r.areaVa e 0 % 64 != 0 || !s.mappedAll r.ctx (r.areaVa e 0) (2 * r.areaBytes)), stBadParam, 0x0702),
  (r.validList.any (fun e => !s.member (r.chipOf e)) || !s.areasApart r, stBadParam, 0x0703)]

/-- A context's step counter and step words set to zero (R213, R215). -/
def State.stepZero (s : State) (c : Nat) : State :=
  let s := s.setCtx c { s.ctx c with stepNo := 0 }
  match aFind s.stepSlots c with
  | some n => s.storeWords (devKey (stepBase + 16 * n)) [0, 0]
  | none => s

/-- A router configured (R181): in place of the layer's old one, its areas here reset, the step counter and words zero; with a switch
pending the step counter and words stand (R496). The loop is left disabled; the period last updated stands (R162, R163). -/
def State.routerPut (s : State) (r : Router) : State :=
  let last := ((s.router r.ctx r.slot r.layer).map Router.lastPeriod).getD 0
  let s := s.routersDrop r.isOf
  let s := { s with routers := s.routers ++ [{ r with lastPeriod := last }] }
  let s := ((s.homed r).flatMap (fun e => [(e, 0), (e, 1)])).foldl (fun (t : State) p => t.areaClear r p.1 p.2) s
  if (s.switchOf r.ctx).isSome then s else ({ s with stepSlots := aPut s.stepSlots r.ctx r.stepSlot }).stepZero r.ctx

/-- ROUTER_CONFIG of a router: its placement table is read and checked. -/
def routerConfig (s : State) (c : Cmd) : State :=
  s.withBytes c (c.p 1) (16 * c.experts) (fun s b =>
    let s := s.dropGot c.origin.who
    let l := (List.range c.experts).map (fun i => wordsOf 8 2 (b.drop (16 * i)))
    let r := { c.router (s.routerSlot c.context) with place := l.map placeEntry }
    match s.placeBad r l with
    | some (st, d) => s.failWith c.id st d
    | none => (s.routerPut r).doneWith c.id 0 0 0)

/-- ROUTER_CONFIG (R181). -/
def execRouterConfig (k : Nat) (s : State) : Host.Outcome State Fault Refusal :=
  .next (s.runCmd k 0x50 Cmd.configures checkRouterConfig routerConfig)

/-- ROUTER_CONFIG with SET_SHAPE (R178). -/
def execSetShape (k : Nat) (s : State) : Host.Outcome State Fault Refusal :=
  .next (s.runCmd k 0x50 Cmd.setShape checkRouterConfig
    (fun s c => (s.setCtx c.context { s.ctx c.context with shape := bits (c.p 0) 12 2 }).doneWith c.id 0 0 0))

/-- The router of a layer removed. -/
def routerRemove (s : State) (c : Cmd) : State :=
  let slot := s.routerSlot c.context
  (s.routersDrop (fun x n k => x == c.context && n == slot && k == c.layer)).doneWith c.id 0 0 0

/-- ROUTER_CONFIG with REMOVE (R181). -/
def execRouterRemove (k : Nat) (s : State) : Host.Outcome State Fault Refusal :=
  .next (s.runCmd k 0x50 Cmd.rmRouter checkRouterConfig routerRemove)

/-! The bias loop (R160–R163). -/

/-- FIRST and LAST of BIAS_LOOP_CONFIG. -/
def Cmd.layerRange (c : Cmd) : List Nat := (List.range (bits (c.p 3) 16 10 + 1)).filter (fun l => decide (bits (c.p 3) 0 10 ≤ l))

/-- The checks of BIAS_LOOP_CONFIG (Table 7-7). -/
def checkBiasLoopConfig (s : State) (c : Cmd) : Option (Nat × Nat) :=
  let step := bits (c.p 1) 0 32
  let limit := bits (c.p 1) 32 32
  firstBad [
    (s.ctxBad .owned c, stBadContext, 0),
    (!onlyBits (c.p 0) 0xFF03 || decide (2 ^ 32 ≤ c.p 2) || !onlyBits (c.p 3) 0x3FF_03FF || !c.restZero 4, stBadParam, 0x0704),
    (!positive32 step || !positive32 limit || decide (limit < step), stBadParam, 0x0711),
    (decide (bits (c.p 3) 16 10 < bits (c.p 3) 0 10) || c.layerRange.any (fun l => (s.router c.context (s.ctxSlot c.context) l).isNone), stBadParam, 0x0712)]

/-- The period of 10 ticks now (R161). -/
def State.biasPeriod (s : State) : Nat := s.rd MGMT.TICK.COUNT / 10

/-- BIAS_LOOP_CONFIG (R163): the settings from the next period on; with RESET both copies of every bias +0 before the reply. -/
def biasLoopConfig (s : State) (c : Cmd) : State :=
  let slot := s.ctxSlot c.context
  let hit (r : Router) : Bool := r.ctx == c.context && r.slot == slot && c.layerRange.contains r.layer
  let next := [bits (c.p 0) 0 1, bits (c.p 0) 8 8, bits (c.p 1) 0 32, bits (c.p 1) 32 32, c.p 2]
  let zeros := if bit (c.p 0) 1 then
      (s.routers.filter hit).flatMap (fun r => [(r.biasVa + 64, List.replicate (4 * r.experts) 0), (r.biasVa + 64 + r.biasStride, List.replicate (4 * r.experts) 0)])
    else []
  match s.putAll c.origin c.context zeros with
  | .stop s => s
  | .bad s d => s.failWith c.id stFaulted d
  | .ok s =>
    let s := { s with routers := s.routers.map (fun (r : Router) => if hit r then { r with loopNext := next, loopFrom := s.biasPeriod + 1 } else r) }
    s.doneAfter c 0 0 0

/-- BIAS_LOOP_CONFIG (R163). -/
def execBiasLoopConfig (k : Nat) (s : State) : Host.Outcome State Fault Refusal :=
  .next (s.runCmd k 0x51 always checkBiasLoopConfig biasLoopConfig)

/-- A router with the settings that wait for the period in force, once it is theirs. -/
def Router.applied (r : Router) (period : Nat) : Router :=
  match r.loopNext with
  | [en, band, step, limit, least] =>
    if r.loopFrom ≤ period then { r with loopOn := en == 1, deadBand := band, biasStep := step, biasLimit := limit, minSamples := least, loopNext := [] } else r
  | _ => r

/-- An FP32 value held within ± a limit. -/
def clamp32 (x limit : Nat) : Nat :=
  if (num32 limit).lt (num32 x) then limit else if (num32 x).lt (num32 (limit + 2 ^ 31)) then limit + 2 ^ 31 else x

/-- The bias after an update (R161): `n` selections against the mean and its dead band. -/
def biasNext (r : Router) (n mean b : Nat) : Nat :=
  let band := div32 (nat32 r.deadBand) (nat32 256)
  let x := num32 (nat32 n)
  let up := mul32 mean (add32 (nat32 1) band)
  let low := mul32 mean (sub32 (nat32 1) band)
  clamp32 (if (num32 up).lt x then sub32 b r.biasStep else if x.lt (num32 low) then add32 b r.biasStep else b) r.biasLimit

/-- The selector word's copy in use, in the bytes at BIAS_VA (R162). -/
def copyOf (b : List Nat) : Nat := leOf (b.take 8) % 2

/-- The bias of an expert in a copy, in the bytes at BIAS_VA (Table 7-6). -/
def Router.biasIn (r : Router) (b : List Nat) (copy e : Nat) : Nat := leOf ((b.drop (64 + copy * r.biasStride + 4 * e)).take 4)

/-- Bytes of the selector and both copies of the biases. -/
def Router.biasBytes (r : Router) : Nat := 64 + 2 * r.biasStride

/-- Bimon's accesses for a layer's update. DESIGN CHOICE (log 50): a fault of them names unit 57. -/
def Router.loopOrigin (r : Router) : Origin := { engine := 57, who := ⟨9, (r.ctx * 16 + r.slot) * 1024 + r.layer, 0, 0⟩ }

/-- One layer's update (R161): WIN_SEL of every valid expert swapped to zero, the new biases in the copy not in use, the selector
flipped. -/
def State.biasUpdate (s : State) (r : Router) : Wrote :=
  let o := r.loopOrigin
  match s.fetch o r.ctx r.biasVa r.biasBytes with
  | .stop s => .stop s
  | .bad s d => .bad s d
  | .bytes b s => match s.fetch o r.ctx r.countVa r.countBytes with
    | .stop s => .stop s
    | .bad s d => .bad s d
    | .bytes n s =>
      let total := (r.validList.map (fun e => recField n e 0)).sum
      let swapped := (r.countVa, r.countMap n id (fun e i x => if i = 0 ∧ r.valid e then 0 else x))
      if total < r.minSamples then
        match s.putAll o r.ctx [swapped] with
        | .ok s => .ok (s.bump ROUTE.BIAS_LOOP.BELOW_MIN 1)
        | w => w
      else
        let mean := div32 (nat32 total) (nat32 r.validList.length)
        let sel := copyOf b
        let new := r.validList.map (fun e =>
          (r.biasVa + 64 + (1 - sel) * r.biasStride + 4 * e, leVals 4 (biasNext r (recField n e 0) mean (r.biasIn b sel e))))
        match s.putAll o r.ctx (swapped :: new ++ [(r.biasVa, leVals 8 (leOf (b.take 8) - sel + (1 - sel)))]) with
        | .ok s => .ok (s.bump ROUTE.BIAS_LOOP.UPDATES 1)
        | w => w

/-- BIAS_LOOP_UPDATE (R161): Bimon updates a layer once a period of 10 ticks; one whose page cannot be read or written is left for this
period, or waits for its page. -/
def biasLoopUpdate (c slot layer : Nat) (s : State) : State :=
  let period := s.biasPeriod
  match s.router c slot layer with
  | none => s
  | some r =>
    if !s.bimon || r.lastPeriod == period then s
    else
      let q := r.applied period
      let kept (t : State) : State :=
        ({ t with routers := t.routers.map (fun (x : Router) => if x.isOf c slot layer then { q with lastPeriod := period } else x) }.loopRegs).dropGot q.loopOrigin.who
      if q.loopOn then
        match s.biasUpdate q with
        | .ok t => kept t
        | .bad t _ => kept t
        | .stop t => t
      else kept s

/-- BIAS_LOOP_UPDATE (R161). -/
def execBiasLoopUpdate (ctx slot layer : Nat) (s : State) : Host.Outcome State Fault Refusal := .next (biasLoopUpdate ctx slot layer s)

/-! ROUTER_STATS (R183). -/

/-- The checks of ROUTER_STATS (Table 7-7). -/
def checkRouterStats (s : State) (c : Cmd) : Option (Nat × Nat) :=
  let r := s.router c.context (s.ctxSlot c.context) c.layer
  let n := (r.map Router.experts).getD 0
  firstBad [
    (s.ctxBad .owned c, stBadContext, 0),
    (!onlyBits (c.p 0) 0x7FF || decide (2 ^ 57 ≤ c.p 1) || !c.restZero 2, stBadParam, 0x0704),
    (r.isNone, stBadParam, 0x0721),
    (c.p 1 % 16 != 0 || !s.writable c.context (c.p 1) (16 * n) || !s.mappedAll c.context (c.p 1) (16 * n), stBadParam, 0x0722)]

/-- The end of ROUTER_STATS, once its records stand at DEST_VA: with CLEAR set what it read is taken off each counter, so that no count is
lost; WIN_SEL is the bias loop's (R182–R184). -/
def State.statsEnd (s : State) (c : Cmd) (r : Router) (old : List Nat) (sel lost skip : Nat) : State :=
  if s.hasReqs c.origin.who then s
  else if bit (c.p 0) 10 then
    match s.countsEdit c.origin r (fun b => r.countMap b (· - leOf (old.take 8)) (fun e i x => if i = 0 then x else x - recField old e i)) with
    | .ok s => s.doneAfter c sel lost skip
    | .stop s => s
    | .bad s d => s.failWith c.id stFaulted d
  else s.doneAfter c sel lost skip

/-- ROUTER_STATS: the records read, written to DEST_VA and summed; what it read is kept until the writes are answered. -/
def routerStats (s : State) (c : Cmd) : State :=
  match s.router c.context (s.ctxSlot c.context) c.layer with
  | none => s.doneWith c.id c.out0 c.out1 c.out2
  | some r =>
    if c.aux.headD 0 = 9 then s.statsEnd c r (c.aux.drop 1) c.out0 c.out1 c.out2
    else
      s.withBytes c r.biasVa r.biasBytes (fun s bb => s.withBytes c r.countVa r.countBytes (fun s b =>
        let es := List.range r.experts
        let data := es.flatMap (fun e => leVals 4 (recField b e 1) ++ leVals 4 (recField b e 2) ++ leVals 4 (recField b e 3) ++ leVals 4 (r.biasIn bb (copyOf bb) e))
        let sel := (es.map (fun e => recField b e 1)).sum
        let lost := (es.map (fun e => recField b e 3)).sum
        s.withPut c (c.p 1) data (fun s =>
          ((s.dropGot c.origin.who).cmdMap c.id (fun x =>
            { x with out0 := sel, out1 := lost, out2 := leOf (b.take 8), aux := 9 :: b })).statsEnd c r b sel lost (leOf (b.take 8)))))

/-- ROUTER_STATS (R183). -/
def execRouterStats (k : Nat) (s : State) : Host.Outcome State Fault Refusal := .next (s.runCmd k 0x52 always (fun s c => if c.aux.headD 0 = 9 then none else checkRouterStats s c) routerStats)

/-! Gating and selection (R156–R159). -/

/-- The first of the candidates in the order of R158: expert and selection value. -/
def firstOf : List (Nat × Nat) → Option (Nat × Nat)
  | [] => none
  | p :: r => match firstOf r with
    | none => some p
    | some q => if before p.2 p.1 q.2 q.1 then some p else some q

/-- The `n` experts that come first. -/
def selectTop : Nat → List (Nat × Nat) → List Nat
  | 0, _ => []
  | n + 1, l => match firstOf l with
    | none => []
    | some p => p.1 :: selectTop n (l.filter (fun q => q.1 != p.1))

/-- The scores of the valid experts from their logits (R156). -/
def scoresOf (r : Router) (logit : Nat → Nat) : List (Nat × Nat) :=
  let l := r.validList.map logit
  r.validList.zip (if r.scoreFn = 0 then softmax32 l else if r.scoreFn = 1 then l.map sigmoid32 else l)

/-- The gate weights of the selected experts, `sc` giving each one's score (R159). -/
def gates (r : Router) (sel : List Nat) (sc : Nat → Nat) : List (Nat × Nat) :=
  let asc := (List.range r.experts).filter sel.contains
  let sum := (asc.drop 1).foldl (fun (a : Nat) e => add32 a (sc e)) (sc (asc.headD 0))
  let soft := asc.zip (softmax32 (asc.map sc))
  sel.map (fun e => (e, mul32 (if r.scoreFn = 2 then (aFind soft e).getD 0 else if r.norm then div32 (sc e) sum else sc e) r.scale))

/-- One row's assignments: row, rank, expert, gate. The bias enters the selection value and nothing else (R157). -/
def rowAssign (r : Router) (bias : Nat → Nat) (base row : Nat) : List (List Nat) :=
  let sc := scoresOf r (fun e => Config.gateLogit (if r.gateBf16 then 4 else 0) (base + row * 1024 + e) % 2 ^ 32)
  let v := sc.map (fun p => (p.1, add32 p.2 (bias p.1)))
  (gates r (selectTop r.topK v) (fun e => (aFind sc e).getD 0)).zipIdx.map (fun p => [row, p.2, p.1.1, p.1.2])

/-- Rows of a launch that its router sees: its row count, or the tokens of its step with their drafts. -/
def State.gateRows (s : State) (l : Launch) : Nat :=
  if l.kind = 3 then
    match s.steps.find? (fun t => t.ctx == l.ctx) with
    | some t => (t.items.map (fun i => i.count + i.depth)).sum
    | none => 0
  else l.rows

/-- The origin of a routed launch's own accesses. DESIGN CHOICE (log 50): a fault of them names unit 57. -/
def State.routeOrigin (s : State) (l : Launch) (no : Nat) : Origin := { s.launchOrigin l 57 8 no with who := ⟨6, l.id, 2048 + no, 0⟩ }

/-- A fault of a routed launch's atomic, raised for the launch. -/
def State.routeFault (s : State) (l : Launch) (kind va e : Nat) : State :=
  let o := s.launchOrigin l 57 8 e
  s.openFault l.ctx kind true va o.engine o.seq o.chan o.noCmd o.who

/-- A place of `n` bytes for a combine row or counter, homed here and writable: where software places them is not described, so it is a
free one among the pages of the context (log 50). -/
def State.freeRow (s : State) (c n k : Nat) : Nat :=
  let ok (l : Nat × Bool × Nat) : Bool := lfState l.2.2 == 0 && lfWrite l.2.2 && decide (lfTier l.2.2 < 2) && lfChip l.2.2 == s.chip && s.mappedAll c l.1 n
  let l := (s.leaves c).filter ok
  match l[Config.freeData k % l.length]? with
  | none => 0
  | some p =>
    let va := p.1 + 64 * (Config.freeData (k + 1) % (pageSize p.2.1 / 64))
    if s.mappedAll c va n then va else p.1

/-- Gating (R156–R159, R162, R182): every row's selection under the copy the selector names now, counted. The launch's combine counter
starts at zero. -/
def State.gate (s : State) (l : Launch) (r : Router) : State :=
  let o := s.routeOrigin l 0
  match s.fetch o r.ctx r.biasVa r.biasBytes with
  | .stop s => s
  | .bad s d => s.endLaunch l.id stFaulted d
  | .bytes b s =>
    let base := s.freeCtr
    let rows := s.gateRows l
    let as := (List.range rows).flatMap (rowAssign r (r.biasIn b (copyOf b)) base)
    let n (e : Nat) : Nat := (as.filter (fun a => a.getD 2 0 == e)).length
    match s.countsEdit o r (fun c => r.countMap c id (fun e i x => if i < 2 then sat32 x (n e) else x)) with
    | .stop s => s
    | .bad s d => s.endLaunch l.id stFaulted d
    | .ok s =>
      let vas := (List.range rows).map (fun i => s.freeRow l.ctx (2 * r.rowBytes) (base + 2 * i))
      let done := s.freeRow l.ctx 8 (base + 2 * rows)
      match s.put o l.ctx done (leVals 8 0) with
      | .stop s => s
      | .bad s d => s.endLaunch l.id stFaulted d
      | .ok s =>
        let s := ({ s with freeCtr := s.freeCtr + rows * 1024 + 2 }.dropFor o.who).bump ROUTE.ASSIGN.SELECTED as.length
        s.launchMap l.id (fun x =>
          { x with gated := true, assigns := as, scores := base, rowVas := vas, doneVa := done, entries := r.validList.map (fun e => [e, 0, 0, 0]) })

/-! Dispatch and admission (R167–R172). Entries of a launch: expert, progress (0 to ask, 1 asked, 2 answered), old ADMIT, rows
admitted. -/

/-- Who a launch's routing requests belong to, for an expert. -/
def Launch.routeWho (l : Launch) (e : Nat) : Parked := ⟨6, l.id, e, 0⟩

/-- An entry of a launch replaced. -/
def State.setEntry (s : State) (l : Launch) (e p a m : Nat) : State :=
  s.launchMap l.id (fun x => { x with entries := x.entries.map (fun w => if w.getD 0 0 = e then [e, p, a, m] else w) })

/-- Assignments of a launch to an expert, in ascending row order. -/
def Launch.to (l : Launch) (e : Nat) : List (List Nat) := l.assigns.filter (fun a => a.getD 2 0 == e)

/-- The fetch-add of one entry's assignments to ADMIT, or its answer taken (R167 steps 2 and 3). -/
def State.askAdmit (r : Router) (par : Nat) (l : Launch) (s : State) (w : List Nat) : State :=
  let e := w.getD 0 0
  let n := (l.to e).length
  let va := r.areaVa e par
  if w.getD 1 0 = 0 then
    if n = 0 then s.setEntry l e 2 0 0
    else match s.access l.ctx va true true with
      | .ok (.here k) _ => ((s.store k 8 ((s.load k 8 + n) % 2 ^ 64)).setEntry l e 2 (s.load k 8) (min n (r.capacity - s.load k 8))).noteArrivals
      | .ok (.far chip _ off) _ => (s.remoteAtomic chip off 0x15 1 (leVals 8 n ++ List.replicate 56 0) l.ctx va (l.routeWho e)).setEntry l e 1 0 0
      | .wait => s
      | .serve kind => s.routeFault l kind va e
      | .bad d => s.endLaunch l.id stFaulted d
  else if w.getD 1 0 = 1 then
    match s.fabric.got.find? (fun g => g.who == l.routeWho e) with
    | some g => (s.dropFor (l.routeWho e)).setEntry l e 2 (leOf (g.bytes.take 8)) (min n (r.capacity - leOf (g.bytes.take 8)))
    | none => s
  else s

/-- The row slots of an entry (Table 7-4): origin records, and the rows' activations, free values. -/
def State.rowSlots (s : State) (r : Router) (l : Launch) (e m : Nat) : List Nat :=
  ((l.to e).take m).flatMap (fun a =>
    let row := a.getD 0 0
    leVals 8 (l.rowVas.getD row 0 % 2 ^ 57 + a.getD 1 0 % 16 * 2 ^ 57) ++ leVals 8 (a.getD 3 0 % 2 ^ 32 + s.chip % 4096 * 2 ^ 32) ++
      leVals 8 (l.doneVa % 2 ^ 57) ++ List.replicate 40 0 ++
      (List.range r.rowBytes).map (fun i => Config.freeData (l.scores + 2 ^ 33 + row * r.rowBytes + i) % 256))

/-- The admitted assignments of an entry. -/
def Launch.admittedTo (l : Launch) (w : List Nat) : List (List Nat) := (l.to (w.getD 0 0)).take (w.getD 3 0)

/-- Rows of a launch with no admitted assignment (R171). -/
def Launch.skippedRows (l : Launch) (rows : Nat) : List Nat :=
  let kept := (l.entries.flatMap l.admittedTo).map (fun a => a.getD 0 0)
  (List.range rows).filter (fun row => !kept.contains row)

/-- What a step's items take from a routed layer (R172, R219): tokens skipped under REPORT 1, assignments overflowed under 2. -/
def itemCounts (report : Nat) (skipped lost : List Nat) : Nat → List StepItem → List StepItem
  | _, [] => []
  | lo, i :: r =>
    let n := i.count + i.depth
    let inIt (x : Nat) : Bool := decide (lo ≤ x) && decide (x < lo + n)
    let i' := { i with
      skipped := i.skipped + (if report = 1 then (skipped.filter inIt).length else 0),
      overflowed := i.overflowed + (if report = 2 then (lost.filter inIt).length else 0) }
    i' :: itemCounts report skipped lost (lo + n) r

/-- The counts of a dispatch (R172, R182), once every admission is known: per expert, per token, in block ROUTE and in the step's items. -/
def State.dispatchCounts (s : State) (l : Launch) (r : Router) : State :=
  let skip := l.skippedRows (s.gateRows l)
  let lost := (l.entries.flatMap (fun w => (l.to (w.getD 0 0)).drop (w.getD 3 0))).map (fun a => a.getD 0 0)
  let adm (e : Nat) : Nat := ((l.entries.find? (fun w => w.getD 0 0 == e)).map (fun w => w.getD 3 0)).getD 0
  let more (e i : Nat) : Nat := if i = 2 then adm e else if i = 3 then (l.to e).length - adm e else 0
  match s.countsEdit (s.routeOrigin l 1) r (fun c => r.countMap c (fun n => sat64 n skip.length) (fun e i x => sat32 x (more e i))) with
  | .stop s => s
  | .bad s d => s.endLaunch l.id stFaulted d
  | .ok s =>
    let s := (((s.dropFor (s.routeOrigin l 1).who).bump ROUTE.ASSIGN.OVERFLOWED lost.length).bump ROUTE.SKIP.TOKENS skip.length).bump ROUTE.SKIP.PASS_MARKERS
      (l.entries.filter (fun w => w.getD 3 0 == 0)).length
    let s := if l.kind = 3 then
        { s with steps := s.steps.map (fun (t : Step) => if t.ctx = l.ctx then { t with items := itemCounts r.report skip lost 0 t.items } else t) }
      else s
    s.launchMap l.id (fun x => { x with counted := true, admitted := (l.entries.map (fun w => w.getD 3 0)).sum, skipped := skip.length })

/-- The mover that takes the descriptors of a launch's routing: on the first die it holds. DESIGN CHOICE (log 50). -/
def State.routeMover (s : State) (l : Launch) : Nat := s.idlest ((l.parts.head?.map DiePart.die).getD 0)

/-- The send table of a launch (R148, R167): its entries in expert order, SRC an offset into the rows it sends. -/
def Launch.sendTable (l : Launch) (r : Router) (par : Nat) : List Nat :=
  let n := 64 + r.rowBytes
  (l.entries.foldl (fun (acc : Nat × List Nat) w =>
    let e := w.getD 0 0
    let len := w.getD 3 0 * n
    (acc.1 + len, acc.2 ++ [len, acc.1, r.areaVa e par + 64 + w.getD 2 0 * n, r.areaVa e par + 8])) (0, [])).2

/-- The entries of a launch sent in one ALLTOALL of a mover (R167). -/
def State.sendEntries (s : State) (l : Launch) (r : Router) (par : Nat) : State :=
  let m := s.routeMover l
  if 64 ≤ s.queueLen m l.moverQueue then s
  else
    (s.descAdd {
      id := 0, mover := m, queue := l.moverQueue, ctx := l.ctx, issuer := 3, owner := l.id, die := m / 4, table := l.sendTable r par,
      rows := l.entries.flatMap (fun w => s.rowSlots r l (w.getD 0 0) (w.getD 3 0)),
      words := [5 + l.ctx % 2 ^ 10 * 2 ^ 16, 0, 0, l.entries.length, 0, 0, 0, 0] }).launchMap l.id (fun x => { x with sent := true })

/-- An FP32 row added into a combine row: one REDUCE of a mover, with add (R175, Table 6-3). -/
def State.rowReduce (s : State) (m q c issuer owner va : Nat) (own : Option Nat) (vals : List Nat) : State :=
  s.descAdd {
    id := 0, mover := m, queue := q, ctx := c, issuer := issuer, owner := owner, die := m / 4, own := own, rows := vals.flatMap (leVals 4),
    words := [4 + 2 * 2 ^ 12 + c % 2 ^ 10 * 2 ^ 16, 0, va, 4 * vals.length, 0, 0, 0, 0] }

/-- `n` FP32 values that tiles produce and the spec does not state. -/
def State.freeRows (s : State) (n : Nat) : List Nat := (List.range n).map (fun j => Config.freeData (s.freeCtr + j) % 2 ^ 32)

/-- The adds of shared experts (R159, R171): for each token with an admitted assignment, each shared expert's output with weight 1.0,
as far as the mover's queue has room. -/
def State.sharedAdds (s : State) (l : Launch) (r : Router) : State :=
  let skip := l.skippedRows (s.gateRows l)
  let todo := ((List.range (s.gateRows l)).filter (fun row => !skip.contains row)).flatMap (fun row => List.replicate r.shared row)
  (todo.drop l.sharedNext).foldl (fun (t : State) row =>
    let m := t.routeMover l
    match t.launch l.id with
    | none => t
    | some x =>
      if 64 ≤ t.queueLen m l.moverQueue ∨ todo[x.sharedNext]? ≠ some row then t
      else
        let n := r.rowBytes / 2
        (({ t.rowReduce m l.moverQueue l.ctx 3 l.id (l.rowVas.getD row 0) none (t.freeRows n) with freeCtr := t.freeCtr + n }).launchMap l.id (fun x =>
          { x with sharedNext := x.sharedNext + 1 }))) s

/-- Whether descriptors of a launch's routing are not complete. -/
def State.routeBusy (s : State) (i : Nat) : Bool := s.descs.any (fun d => d.issuer == 3 && d.owner == i)

/-- The rows of shared experts still to be added for a launch. -/
def State.sharedLeft (s : State) (l : Launch) (r : Router) : Bool :=
  decide (l.sharedNext < (s.gateRows l - (l.skippedRows (s.gateRows l)).length) * r.shared)

/-- The steps of a dispatch as far as their answers allow: admission, the counts, the ALLTOALL, and the shared experts' adds. -/
def State.dispatchOn (s : State) (i : Nat) (r : Router) : State :=
  let on (s : State) (f : State → Launch → State) : State := match s.launch i with | some l => if l.ended.isSome then s else f s l | none => s
  let s := on s (fun s l => l.entries.foldl (State.askAdmit r (l.stepNo % 2) l) s)
  let s := on s (fun s l => if !l.counted && l.entries.all (fun w => w.getD 1 0 == 2) then s.dispatchCounts l r else s)
  let s := on s (fun s l => if l.counted && !l.sent then s.sendEntries l r (l.stepNo % 2) else s)
  let s := on s (fun s l => if l.sent then s.sharedAdds l r else s)
  on s (fun s l => if l.sent && !s.routeBusy i && !s.sharedLeft l r then s.launchMap i (fun x => { x with routePhase := 2 }) else s)

/-- Whether a routed launch may gate and dispatch: it holds every die of its own and is not suspended. -/
def State.mayRoute (s : State) (l : Launch) : Bool :=
  l.routePhase == 1 && l.ended.isNone && !s.suspended l.ctx && l.parts.all (fun p => p.phase == 2)

/-- DISPATCH (R155–R172): a routed launch gates once, then its entries go out; a donor's launch sends none. -/
def dispatch (i : Nat) (s : State) : State :=
  match s.launch i with
  | none => s
  | some l =>
    if !s.mayRoute l then s
    else match s.launchRouter l with
      | none => s
      | some r =>
        if s.isDonor then s.launchMap i (fun x => { x with routePhase := 2 })
        else if l.gated then s.dispatchOn i r
        else
          let s := s.gate l r
          if (s.launch i).any Launch.gated then s.dispatchOn i r else s

/-- DISPATCH (R167). -/
def execDispatch (launch : Nat) (s : State) : Host.Outcome State Fault Refusal := .next (dispatch launch s)

/-! Areas decided, expert launches and combine (R169, R173–R176). -/

/-- The launch of this module's own under which an area's expert runs (R175): of the same layer and step parity. -/
def State.parentLaunch (s : State) (a : Area) : Option Launch :=
  s.launches.find? (fun l => l.ctx == a.ctx && l.slot == some a.slot && l.layer == a.layer && l.stepNo % 2 == a.parity && l.routePhase != 0 && l.ended.isNone)

/-- Who an area's adds belong to. -/
def Area.who (a : Area) : Parked := ⟨8, (((a.ctx * 16 + a.slot) * 1024 + a.layer) * 1024 + a.expert) * 2 + a.parity, 0, 0⟩

/-- The origin of the accesses at an area: those of the launch it runs under, where there is one. -/
def State.areaOrigin (s : State) (a : Area) : Origin :=
  match s.parentLaunch a with
  | some l => { s.launchOrigin l 57 8 0 with who := a.who }
  | none => { engine := 57, who := a.who }

/-- A fault at an area raised for the launch it runs under. -/
def State.areaFault (s : State) (a : Area) (kind va : Nat) : State :=
  match s.parentLaunch a with
  | some l => s.routeFault l kind va 0
  | none => s.openFault a.ctx kind true va 57 0 0 true a.who

/-- A fault of an area that is not served: the launch it runs under ends FAULTED. -/
def State.areaBad (s : State) (a : Area) (st det : Nat) : State :=
  match s.parentLaunch a with
  | some l => s.endLaunch l.id st det
  | none => s

/-- A read at an area, or what becomes of the area where it cannot be made. -/
def State.areaRead (s : State) (a : Area) (va n : Nat) (f : State → List Nat → State) : State :=
  match s.fetch (s.areaOrigin a) a.ctx va n with
  | .bytes b s => f s b
  | .stop s => s
  | .bad s d => s.areaBad a stFaulted d

/-- The write face's conversion of arrived activations (R84, R165): its NaN elements counted; how many saturate or are zeroed depends on
a scale that the spec leaves to the operand's header, which it does not place (log 50). -/
def State.faceArrivals (s : State) (r : Router) (n : Nat) (rows : List Nat) : State :=
  let act := (List.range n).flatMap (fun i => (rows.drop (i * (64 + r.rowBytes) + 64)).take r.rowBytes)
  let vals := wordsOf 2 (act.length / 2) act
  let free (k : Nat) : Nat := Config.freeChoice (s.freeCtr + k) % (vals.length + 1)
  let s := ((s.bump MTX.NUM_SAT_TOTAL.ELEMENTS (free 0)).bump MTX.NUM_ZERO_TOTAL.ELEMENTS (free 1)).bump MTX.NUM_NAN.NAN_IN (vals.filter (fun x => (num16 x).isNan)).length
  { s with freeCtr := s.freeCtr + 2 }

/-- An area decided (R169, R174): COUNT written, the wait measured, the place and time of the decision noted. -/
def State.areaDecide (s : State) (a : Area) (r : Router) (va n : Nat) (rows : List Nat) : State :=
  match s.put (s.areaOrigin a) a.ctx (va + 24) (leVals 4 n) with
  | .stop s => s
  | .bad s d => s.areaBad a stFaulted d
  | .ok s =>
    let ns := if a.since = 0 then 0 else s.now + 1 - a.since
    let s := s.wr ROUTE.ARRIVE_WAIT.LONGEST_NS (max (s.rd ROUTE.ARRIVE_WAIT.LONGEST_NS) (min ns (2 ^ 32 - 1)))
    let s := ({ s with decided := s.decided + 1 }).faceArrivals r n rows
    let s := if n = 0 then s.bump ROUTE.EXPERT.SKIPPED 1 else s
    (s.setArea { a with state := (if n = 0 then 4 else 1), order := s.decided, count := n, decidedAt := s.now }).waitRegs

/-- AREA_DECIDED (R169): ARRIVE has reached EXPECT. -/
def areaDecided (c slot layer e par : Nat) (s : State) : State :=
  let s := s.noteArrivals
  match s.router c slot layer, s.areaOf c slot layer e par with
  | some r, some a =>
    let va := r.areaVa e par
    if a.state ≠ 0 then s
    else s.areaRead a va 64 (fun s h =>
      let word (i : Nat) : Nat := leOf ((h.drop (8 * i)).take 8)
      let expect := word 2 % 2 ^ 16
      if expect = 0 ∨ word 1 < expect then s
      else
        let n := min (word 0) r.capacity
        s.areaRead a (va + 64) (n * (64 + r.rowBytes)) (fun s rows => s.areaDecide a r va n rows))
  | _, _ => s

/-- AREA_DECIDED (R169). -/
def execAreaDecided (ctx slot layer expert parity : Nat) (s : State) : Host.Outcome State Fault Refusal := .next (areaDecided ctx slot layer expert parity s)

/-- An origin record: ROW_VA, GATE, SRC_CHIP, DONE_VA (Table 7-4). -/
def originOf (b : List Nat) : Nat × Nat × Nat × Nat :=
  (leOf (b.take 8) % 2 ^ 57, leOf ((b.drop 8).take 4), leOf ((b.drop 12).take 2) % 4096, leOf ((b.drop 16).take 8) % 2 ^ 57)

/-- Whether the layer of an area has still to come in the context's step. -/
def State.layerAhead (s : State) (a : Area) : Bool := s.steps.any (fun t => t.ctx == a.ctx && t.slot == a.slot && t.no % 2 == a.parity && t.layers.contains a.layer)

/-- Whether an area's expert launch must wait for the launch it runs under (R175, Table 7-8). -/
def State.areaHeld (s : State) (a : Area) : Bool :=
  match s.parentLaunch a with
  | some l => s.suspended a.ctx || !l.parts.all (fun p => p.phase == 2)
  | none => s.layerAhead a

/-- Whether descriptors of an area's adds are not complete. -/
def State.areaBusy (s : State) (a : Area) : Bool := s.descs.any (fun d => d.issuer == 4 && d.owner == a.order)

/-- The mover and queue of an area's adds: of the launch it runs under, else of the context (R175). -/
def State.areaMover (s : State) (a : Area) : Nat × Nat :=
  match s.parentLaunch a with
  | some l => (s.routeMover l, l.moverQueue)
  | none => (s.idlest 0, s.moverQueue a.ctx)

/-- The area as it stands now. -/
def State.areaNow (s : State) (a : Area) : Area := (s.areaOf a.ctx a.slot a.layer a.expert a.parity).getD a

/-- The launch whose rows an area's row from a chip is of: this module's own, for a row of its own token (R226). -/
def State.ownRow (s : State) (a : Area) (chip : Nat) : Option Launch := if chip = s.chip then s.parentLaunch a else none

/-- One output row of an area's expert launch: each element of the epilogue multiplied by GATE, and the row added into ROW_VA (R175). Its
core time goes to the tags of this module's launch for a token of its own, else to the shared tag (R226). DESIGN CHOICE (log 51): the time is
a free value a row, charged on the die of the mover that adds it. -/
def State.areaRow (s : State) (a : Area) (r : Router) (i : Nat) : State :=
  let now := s.areaNow a
  let mq := s.areaMover a
  if now.sent ≠ i ∨ 64 ≤ s.queueLen mq.1 mq.2 then s
  else s.areaRead now (r.areaVa a.expert a.parity + 64 + i * (64 + r.rowBytes)) 32 (fun s b =>
    let o := originOf b
    let n := r.rowBytes / 2
    let vals := (s.freeRows n).map (fun x => mul32 x o.2.1)
    let own := s.ownRow a o.2.2.1
    let ns := Config.layerNs a.slot a.layer (s.freeCtr + n) 1
    let s := s.chargeNs a.ctx (mq.1 / 4) ns (match own with | some l => l.split ns | none => [(1024 + 4095, ns)])
    ({ s.rowReduce mq.1 mq.2 a.ctx 4 a.order o.1 (own.map Launch.id) vals with freeCtr := s.freeCtr + n + 1 }).setArea { now with sent := i + 1 })

/-- The add of a source's rows to its DONE counter (R175). -/
def State.areaTell (a : Area) (n : Nat) (s : State) (k : Nat × Nat) : State :=
  let now := s.areaNow a
  if now.told.contains k then s
  else match s.access a.ctx k.2 true true with
    | .ok (.here w) _ => (s.store w 8 ((s.load w 8 + n) % 2 ^ 64)).setArea { now with told := now.told ++ [k] }
    | .ok (.far chip _ off) _ => (s.remoteAtomic chip off 0x15 1 (leVals 8 n ++ List.replicate 56 0) a.ctx k.2 a.who).setArea { now with told := now.told ++ [k] }
    | .wait => s
    | .serve kind => s.areaFault a kind k.2
    | .bad d => s.areaBad a stFaulted d

/-- The adds to the DONE counters of an area's sources, each once every row drawn from it is added; then the area is done (R175). -/
def State.areaDone (s : State) (a : Area) (r : Router) : State :=
  s.areaRead a (r.areaVa a.expert a.parity + 64) (a.count * (64 + r.rowBytes)) (fun s b =>
    let keys := (List.range a.count).map (fun i => (originOf (b.drop (i * (64 + r.rowBytes)))).2.2)
    let s := keys.dedup.foldl (fun (t : State) k => t.areaTell a (keys.count k) k) s
    if keys.all (s.areaNow a).told.contains then s.setArea { s.areaNow a with state := 3 } else s)

/-- EXPERT_LAUNCH (R173–R175): a decided and dealt area runs, on COUNT rows or, in static mode, on CAPACITY rows of which those beyond
COUNT are zero (R178); its rows are added, and once every add is acknowledged the sources' DONE counters are raised. -/
def expertLaunch (c slot layer e par : Nat) (s : State) : State :=
  match s.router c slot layer, s.areaOf c slot layer e par with
  | some r, some a =>
    if s.areaHeld a then s
    else if a.state = 1 then
      if !a.dealt then s
      else (s.bump ROUTE.EXPERT.LAUNCHED 1).setArea { a with state := 2, rows := if (s.ctx c).shape = 0 then r.capacity else a.count }
    else if a.state = 2 then
      match a.bad with
      | some (st, det) => s.areaBad a st det
      | none =>
        if a.sent < a.count then ((List.range a.count).drop a.sent).foldl (fun (t : State) i => t.areaRow a r i) s
        else if s.areaBusy a then s
        else s.areaDone a r
    else s
  | _, _ => s

/-- EXPERT_LAUNCH (R175). -/
def execExpertLaunch (ctx slot layer expert parity : Nat) (s : State) : Host.Outcome State Fault Refusal := .next (expertLaunch ctx slot layer expert parity s)

/-- COMBINE_COMPLETE (R176): the DONE counter equals the rows admitted. -/
def combineComplete (i : Nat) (s : State) : State :=
  match s.launch i with
  | none => s
  | some l =>
    if l.routePhase ≠ 2 then s
    else if s.isDonor then s.launchMap i (fun x => { x with routePhase := 3 })
    else match s.fetch (s.routeOrigin l 2) l.ctx l.doneVa 8 with
      | .stop s => s
      | .bad s d => s.endLaunch i stFaulted d
      | .bytes b s =>
        let s := s.dropFor (s.routeOrigin l 2).who
        if leOf b = l.admitted then s.launchMap i (fun x => { x with routePhase := 3 }) else s

/-- COMBINE_COMPLETE (R176). -/
def execCombineComplete (launch : Nat) (s : State) : Host.Outcome State Fault Refusal := .next (combineComplete launch s)

/-- Whether an area's fetch-adds are out. -/
def State.areaOut (s : State) (a : Area) : Bool := s.fabric.reqs.any (fun q => q.who.kind % 100 == 8 && q.who.a == a.who.a)

/-- AREA_RESET (R166): a decided area with every add acknowledged. -/
def areaReset (c slot layer e par : Nat) (s : State) : State :=
  match s.router c slot layer, s.areaOf c slot layer e par with
  | some r, some a =>
    if (a.state = 3 ∨ a.state = 4) ∧ s.areaOut a = false then
      let s := s.areaClear r e par
      ({ s with areas := s.areas.filter (fun x => !(x.ctx == c && x.slot == slot && x.layer == layer && x.expert == e && x.parity == par)) }).waitRegs
    else s
  | _, _ => s

/-- AREA_RESET (R166). -/
def execAreaReset (ctx slot layer expert parity : Nat) (s : State) : Host.Outcome State Fault Refusal := .next (areaReset ctx slot layer expert parity s)

end Sys2Proof.Machine
end

