-- ==== Sys2Proof/Machine/Detect.lean ====
section
/-! DEFINITION. Errors of HBM and SRAM that a read meets (R129, R130): re-reads, rows remapped, weight blocks that fail, pages
POISONED, banks to be retired. -/

namespace Sys2Proof.Machine

open Sys2Proof

/-- The slot and image offset whose frames hold a local offset. -/
def State.imageAt (s : State) (off : Nat) : Option (Nat × Nat) :=
  (s.slots.flatMap (fun p => p.2.pages.filterMap (fun q =>
    if q.2 ≤ off ∧ off < q.2 + imagePage then some (p.1, q.1 * imagePage + (off - q.2)) else none))).head?

/-- The window of a die whose frames hold a local offset: context and address of the page. -/
def State.windowAt (s : State) (off : Nat) : Option (Window × Nat) :=
  (s.windows.filterMap (fun w => ((List.range w.pages).find? (fun i => match s.walk w.ctx (w.va + i * 0x20_0000) with
    | some (_, _, l) => decide (lfFrame l ≤ off) && decide (off < lfFrame l + 0x20_0000) && lfChip l == s.chip && decide (lfTier l < 2)
    | none => false)).map (fun i => (w, i)))).head?

/-- The pages of this module's contexts whose home holds a local offset: context, address, leaf. -/
def State.pagesAt (s : State) (off : Nat) : List (Nat × Nat × Nat) :=
  s.liveCtxs.flatMap (fun c => ((s.leaves c).filter (fun l => lfChip l.2.2 == s.chip && decide (lfTier l.2.2 < 2) && lfState l.2.2 != 2 &&
    decide (lfFrame l.2.2 ≤ off) && decide (off < lfFrame l.2.2 + pageSize l.2.1))).map (fun l => (c, l.1, l.2.2)))

/-- The hands whose caches hold a page. -/
def State.handsOf (s : State) (c va : Nat) : List Nat :=
  handNos.filter (fun n => s.handState n != 0 && s.handState n != 8 && s.handCtx n == c && ((s.hand n).pages n).any (fun p => p.va == va))

/-- The parked copies that hold a page. -/
def State.copiesOf (s : State) (c va : Nat) : List Nat :=
  (s.kitty.filter (fun k => (k.2.state == 1 || k.2.state == 2) && k.2.ctx == c && (k.2.hand.pages 0).any (fun p => p.va == va))).map Prod.fst

/-- A page POISONED: its leaf, the record (INSTANCE the die of SRAM or the stack of HBM), and what its loss does to a hand or a
parked copy (Table 8-7, Table 9-4). -/
def State.poisonPage (s : State) (off : Nat) (p : Nat × Nat × Nat) : State :=
  let sram := decide (sramBase ≤ off)
  let s := s.setLeaf p.1 p.2.1 (lfWithState p.2.2 3)
  let s := s.recordAs s.timeBase 0x0202 2 (if sram then dieOf off else stackOf off) (if sram then 4 else 5) off p.1
  let s := (s.handsOf p.1 p.2.1).foldl (fun (t : State) n => t.handLost n false) s
  (s.copiesOf p.1 p.2.1).foldl State.kittyLost s

/-- A read of a block that passed on a re-read, counted (R129, R130). -/
def State.readRetried (s : State) (off : Nat) : State :=
  if off < hbmEnd then s.bump (TIER.HBM_STACK.CRC_RETRY (stackOf off)) 1
  else if sramBase ≤ off ∧ off < sramEnd then s.bump (TIER.SRAM_DIE.PARITY_RETRY (dieOf off)) 1
  else s

/-- A row remapped from the stack's stock rows; none left fails the module (R23, R129). -/
def State.rowRemap (s : State) (off : Nat) : State :=
  let k := stackOf off
  let left := s.rd (TIER.HBM_STACK.SPARE_LEFT k)
  let s := (s.wr (TIER.HBM_STACK.SPARE_LEFT k) (left - 1)).wr (TIER.HBM_STACK.REMAPPED k) (s.rd (TIER.HBM_STACK.REMAPPED k) + (if left = 0 then 0 else 1))
  let s := s.record 0x0201 k off (left - 1)
  if left ≤ 1 then (s.wr (TIER.HBM_STACK.FAILED k) 1).exhausted 6 (k / 2) k else s

/-- A block of HBM whose three reads all failed (R129): the row remapped; a weight page's shard CORRUPT, any other page POISONED. -/
def State.hbmFailed (s : State) (off : Nat) : State :=
  let s := s.rowRemap off
  match s.imageAt off with
  | some (n, o) => s.weightBlockFails n o
  | none => (s.pagesAt off).foldl (fun (t : State) p => t.poisonPage off p) (s.bump (TIER.HBM_STACK.POISONED (stackOf off)) 1)

/-- Images of experts dealt on a die that it must deal again: they are no longer whole in its window. -/
def State.undeal (s : State) (d : Nat) (orders : List Nat) : State :=
  let l := (aFind s.dealing d).getD [0, 0]
  let cur := if orders.contains (l.getD 0 0) then [0, 0] else l.take 2
  { s with
    dealing := aPut s.dealing d (cur ++ (l.drop 2).filter (fun o => !orders.contains o)),
    areas := s.areas.map (fun (a : Area) => if orders.contains a.order && (a.state == 1 || a.state == 2) then { a with dealt := false } else a) }

/-- A page of a window whose contents are lost (R130): the part dealt ahead of its half is dealt again where the page holds some of it,
and so is every expert's image that the page holds in part. -/
def State.windowLost (s : State) (w : Window) (i : Nat) : State :=
  let h := if 2 * i < w.pages then 0 else 1
  let lo := i * 0x20_0000 - h * w.half
  let base := match w.tag h with | slot :: layer :: _ => Config.layerBytes slot layer w.die | _ => 0
  let hit (x : Dealt) : Bool := h == w.current && decide (lo < base + x.at' + x.len) && decide (base + x.at' < lo + 0x20_0000)
  let orders := (w.experts.filter hit).map Dealt.order
  let s := s.windowMap w (fun x =>
    let x := { x with experts := x.experts.filter (fun y => !hit y) }
    if lo < base then (if h = 0 then { x with tag0 := [], resume := 0 } else { x with tag1 := [], resume := 0 }) else x)
  s.undeal w.die orders

/-- A word of SRAM whose parity error persists (R130): its bank is to be retired at the next tick; a window's image is dealt again,
any other page POISONED. -/
def State.sramFailed (s : State) (off : Nat) : State :=
  let d := dieOf off
  let b := (off - sramBase) % 0x1000_0000 / 0x10_0000
  let s := if s.badBanks.contains (d, b) then s else { s with badBanks := s.badBanks ++ [(d, b)], badSince := aPut s.badSince (256 * d + b) s.timeBase }
  match s.windowAt off with
  | some (w, i) => s.windowLost w i
  | none => (s.pagesAt off).foldl (fun (t : State) p => t.poisonPage off p) (s.bump (TIER.SRAM_DIE.POISONED d) 1)

/-- A read that failed for good. -/
def State.readFailed (s : State) (off : Nat) : State :=
  if off < hbmEnd then s.hbmFailed off else if sramBase ≤ off ∧ off < sramEnd then s.sramFailed off else s

/-- The errors a request's reads met: local offsets of blocks that passed on a re-read, and of those that failed. -/
def State.readErrors (s : State) (retried failed : List Nat) : State :=
  failed.foldl State.readFailed (retried.foldl State.readRetried s)

end Sys2Proof.Machine
end

