-- ==== Sys2Proof/Machine/Dealers.lean ====
section
/-! DEFINITION. The dealers (R125, R126, R174, R246, R247, R260): a layer's image dealt ahead into a window's half, 4 KiB at a time,
and routed experts' images dealt into the current half in the order their areas are decided. -/

namespace Sys2Proof.Machine

open Sys2Proof

/-- The launch a die's dealer works for: its holder, or, where that must give way, the launch that comes next (R257, R260). -/
def State.dealTarget (s : State) (d : Nat) : Option Launch :=
  let next := (((s.readyIn d 0) ++ (s.readyIn d 1)).head?).bind s.launch
  match s.holder d with
  | none => next
  | some l => match l.part d with
    | some p => if s.mustLeave l p then next else some l
    | none => next

/-- The tag of a half set. -/
def Window.setTag (w : Window) (h : Nat) (t : List Nat) : Window := if h = 0 then { w with tag0 := t } else { w with tag1 := t }

/-- The half that holds an image whole. -/
def Window.halfOf (w : Window) (slot layer group : Nat) : Option Nat := [0, 1].find? (fun h => w.tag h == [slot, layer, group, 1])

/-- Images a launch needs on a die, in order: what is left of its groups, then the next layer of its step or program. -/
def State.imagesFor (s : State) (l : Launch) (d : Nat) : List (Nat × Nat) :=
  if l.kind = 3 then
    let i := ((l.part d).map DiePart.iter).getD 0
    let later := match s.steps.find? (fun t => t.ctx == l.ctx) with
      | some t => (t.layers.take 1).map (fun k => (k, t.groups.headD 0))
      | none => []
    (l.groups.drop i).map (fun g => (l.layer, g)) ++ later
  else [(l.layer, 0), (l.layer + 1, 0)]

/-- A granule written into a window. -/
def State.windowWrite (s : State) (w : Window) (at' : Nat) (data : List Nat) : State := s.tableWrite w.ctx (w.va + at') data

/-- Bytes charged to the launch that a deal serves (R226). -/
def State.dealCharge (s : State) (i n : Nat) : State :=
  s.launchMap i (fun x => { x with bytesTier := x.bytesTier.set 0 (x.bytesTier.getD 0 0 + n) })

/-- DEALING of a window, whose dealer writes no other window meanwhile. -/
def State.dealMark (s : State) (w : Window) (on : Bool) : State :=
  (s.dealStop (fun x => x.die == w.die && x.slotNo != w.slotNo)).wr (TIER.WINDOW.DEALING w.die w.slotNo) (b2n on)

/-- Whether a range of an image lies in part in a stack in self-refresh, whose reads wait (R440). -/
def State.imageHeld (s : State) (slot off n : Nat) : Bool :=
  (imageParts (n / imagePage + 2) off n).any (fun p => match (s.slot slot).place p.1 with | some f => s.offHeld f | none => false)

/-- A launch waits for the repair of a failed weight block (R341). -/
def State.dealWaits (s : State) (l : Launch) (n : Nat) (b : Nat × Nat) : State := s.launchMap l.id (fun x => { x with repairOn := [n, b.1, b.2] })

/-- One granule of an image dealt into half `h`. -/
def State.dealGranule (s : State) (l : Launch) (w : Window) (n layer group h : Nat) : State :=
  let total := Config.layerBytes n layer w.die
  if w.half < total then s.endLaunch l.id stBadParam 0x0515
  else
    let fresh := w.tag h != [n, layer, group, 0]
    let pos := if fresh then 0 else w.resume
    let len := min 4096 (total - pos)
    let off := Config.layerPlace n layer w.die 1024 + pos
    if s.imageHeld n off len then s
    else match s.badBlock n off len with
    | some b => s.dealWaits l n b
    | none =>
      let whole := decide (total ≤ pos + len)
      let s := (s.windowWrite w (h * w.half + pos) (s.dealtBytes n off len group)).dealCharge l.id len
      let s := { s with freeCtr := s.freeCtr + len }
      let s := s.windowMap w (fun x => { x.setTag h [n, layer, group, b2n whole] with resume := if whole then 0 else pos + len })
      let s := s.dealMark w (!whole)
      if whole && group != 0 then s.bump SERVE.VARIANT_EVENTS.GROUP_IMAGES 1 else s

/-- A half taken as the current one: the experts' images of the half before are not in it. -/
def State.halfTaken (s : State) (w : Window) (h : Nat) : State :=
  (s.windowMap w (fun x => { x with current := h, extra := 0, experts := [] })).undeal w.die (w.experts.map Dealt.order)

/-- DEAL_AHEAD (R125, R260): the first image a launch needs that no half holds whole is dealt on, into the half that does not hold
what it runs now. -/
def dealAhead (d : Nat) (s : State) : State :=
  match s.dealTarget d with
  | none => s
  | some l =>
    match (if l.kind = 1 ∨ l.kind = 2 then none else if l.taken then l.slot else (s.ctx l.ctx).slot), s.windowOf l.ctx d with
    | some n, some w =>
      if l.ended.isSome || !l.repairOn.isEmpty || s.slotState n == 4 then s
      else
        let im := s.imagesFor l d
        let cur := im.headD (l.layer, 0)
        match w.halfOf n cur.1 cur.2 with
        | none => s.dealGranule l w n cur.1 cur.2 (1 - w.current)
        | some h =>
          let s := if w.current = h then s else s.halfTaken w h
          match (im.drop 1).head? with
          | none => s
          | some nx => if (w.halfOf n nx.1 nx.2).isSome then s else s.dealGranule l w n nx.1 nx.2 (1 - h)
    | _, _ => s

/-- DEAL_AHEAD (R125). -/
def execDealAhead (die : Nat) (retried failed : List Nat) (s : State) : Host.Outcome State Fault Refusal :=
  .next (dealAhead die (s.readErrors retried failed))

/-- The expert image in a die's dealer's hand, as the place in the order of decision of its area (0 for none), and the bytes dealt. -/
def State.dealCur (s : State) (d : Nat) : Nat × Nat := (((aFind s.dealing d).getD []).getD 0 0, ((aFind s.dealing d).getD []).getD 1 0)

/-- Whether a die's dealer has dealt an area's expert whole. -/
def State.dealtOn (s : State) (d order : Nat) : Bool := (((aFind s.dealing d).getD []).drop 2).contains order

/-- SLOT of an area's expert in its router's placement table (Table 7-2). -/
def State.areaSlot (s : State) (a : Area) : Nat :=
  match s.routers.find? (fun r => r.ctx == a.ctx && r.slot == a.slot && r.layer == a.layer) with
  | some r => ((r.place[a.expert]?).map (fun p => p.2.1)).getD 0
  | none => 0

/-- Whether one area's expert is dealt before another's: decided earlier, or at the same instant with the lower SLOT (R174). -/
def State.dealtBefore (s : State) (a b : Area) : Bool :=
  decide (a.decidedAt < b.decidedAt) || (a.decidedAt == b.decidedAt &&
    (decide (s.areaSlot a < s.areaSlot b) || (s.areaSlot a == s.areaSlot b && decide (a.order < b.order))))

/-- The area a die's dealer deals for: the one in hand, else the first, in the order of R174, of those decided with rows whose expert
the die has not dealt. -/
def State.nextArea (s : State) (d : Nat) : Option Area :=
  let l := s.areas.filter (fun a => (a.state == 1 || a.state == 2) && !s.dealtOn d a.order && (s.windowOf a.ctx d).isSome)
  match l.find? (fun a => a.order == (s.dealCur d).1) with
  | some a => some a
  | none => l.foldl (fun (b : Option Area) a => match b with | none => some a | some x => if s.dealtBefore a x then some a else some x) none

/-- An area whose weights every die with a window of its context has dealt. -/
def State.areaDealt (s : State) (a : Area) : State :=
  if (List.range 8).all (fun d => (s.windowOf a.ctx d).isNone || s.dealtOn d a.order) then s.setArea { a with dealt := true } else s

/-- A die's dealer's place set: the image in hand and the bytes of it dealt; or, with the image whole, its area among those done. -/
def State.dealTo (s : State) (d : Nat) (a : Area) (pos : Nat) (whole : Bool) : State :=
  let done := ((aFind s.dealing d).getD [0, 0]).drop 2
  let live := done.filter (fun o => s.areas.any (fun x => x.order == o && (x.state == 1 || x.state == 2)))
  { s with dealing := aPut s.dealing d (if whole then 0 :: 0 :: (live ++ [a.order]) else a.order :: pos :: live) }

/-- Where an expert's image of `total` bytes goes behind the part dealt ahead: where it is in hand, its place; else behind the experts
there, or, where that does not fit, from the start once none of those is still needed; none while one is. -/
def State.expertPlace (s : State) (w : Window) (a : Area) (base total : Nat) : Option Nat :=
  match w.experts.find? (fun x => x.order == a.order) with
  | some x => some x.at'
  | none =>
    if base + w.extra + total ≤ w.half then some w.extra
    else if w.experts.any (fun x => s.areas.any (fun y => y.order == x.order && (y.state == 1 || y.state == 2))) then none
    else some 0

/-- An expert's image entered among those of a window, those it covers leaving it. -/
def Window.addExpert (w : Window) (a : Area) (at' total : Nat) : Window :=
  if w.experts.any (fun x => x.order == a.order) then w
  else
    let x : Dealt := ⟨a.order, a.expert, at', total⟩
    { w with extra := at' + total, experts := w.experts.filter (fun y => decide (at' + total ≤ y.at') || decide (y.at' + y.len ≤ at')) ++ [x] }

/-- One granule of an expert's image dealt into the current half. -/
def State.expertGranule (s : State) (w : Window) (a : Area) (at' total : Nat) : State :=
  let d := w.die
  let base := Config.layerBytes a.slot a.layer d
  let pos := if (s.dealCur d).1 = a.order then (s.dealCur d).2 else 0
  let len := min 4096 (total - pos)
  let off := Config.layerPlace a.slot a.layer d a.expert + pos
  if s.imageHeld a.slot off len then s
  else match s.badBlock a.slot off len, s.parentLaunch a with
    | some b, some l => s.dealWaits l a.slot b
    | some _, none => s
    | none, p =>
      let s := s.windowWrite w (w.current * w.half + base + at' + pos) (s.imageBytes a.slot off len)
      let s := match p with | some l => s.dealCharge l.id len | none => s.chargeBytes a.ctx [len, 0, 0, 0]
      let whole := decide (total ≤ pos + len)
      let s := ((s.windowMap w (fun x => x.addExpert a at' total)).dealTo d a (pos + len) whole).dealMark w (!whole)
      if whole then s.areaDealt a else s

/-- DEAL_EXPERT (R174): one granule of the next decided expert's image, into the space the part dealt ahead leaves in the current
half. -/
def dealExpert (d : Nat) (s : State) : State :=
  match s.nextArea d with
  | none => s
  | some a =>
    match s.windowOf a.ctx d with
    | none => s
    | some w =>
      let total := Config.expertBytes a.slot a.layer a.expert d
      let base := Config.layerBytes a.slot a.layer d
      if w.half < base + total then
        match s.parentLaunch a with | some l => s.endLaunch l.id stBadParam 0x0515 | none => s
      else match s.expertPlace w a base total with
        | none => s
        | some at' => s.expertGranule w a at' total

/-- DEAL_EXPERT (R174). -/
def execDealExpert (die : Nat) (retried failed : List Nat) (s : State) : Host.Outcome State Fault Refusal :=
  .next (dealExpert die (s.readErrors retried failed))

end Sys2Proof.Machine
end

