-- ==== Sys2Proof/Machine/Serving.lean ====
section
/-! DEFINITION. Hands and steps (R207–R220): HAND_OPEN and HAND_CLOSE, STEP and PREFILL_CHUNK, the assembly of a step with its
allocations, evictions and returns (R196–R199), and the completion of a step with the depth rules of speculation (R231–R234). -/

namespace Sys2Proof.Machine

open Sys2Proof

/-! HAND_OPEN and HAND_CLOSE (R209). -/

/-- HAND of a command that names it in P0 [5:0]. -/
def Cmd.hand (c : Cmd) : Nat := bits (c.p 0) 0 6
/-- P0 [6]: ANY, EMIT, SUPPLY, RENEW, ENABLE, ATTACH or REMOVE. -/
def Cmd.flag6 (c : Cmd) : Bool := bit (c.p 0) 6
/-- SPANS. -/
def Cmd.spans (c : Cmd) : Nat := bits (c.p 0) 8 8
/-- CHUNK. -/
def Cmd.chunkSize (c : Cmd) : Nat := bits (c.p 0) 16 13
/-- RING. -/
def Cmd.ringed (c : Cmd) : Bool := bit (c.p 0) 7

/-- Attention layers of a context's model. -/
def State.attn (s : State) (c : Nat) : Nat := match (s.ctx c).slot with | some n => (s.slot n).attnLayers | none => 0

/-- The lowest FREE hand. -/
def State.freeHand (s : State) : Option Nat := handNos.find? (fun n => s.handState n == 0)

/-- Whether an FP32 pattern is finite and not negative. -/
def tempOk (x : Nat) : Bool := decide (x < 0x7F80_0000) || x == 0x8000_0000

/-- The checks of HAND_OPEN (Table 9-6) that its words allow. -/
def checkHandOpen (s : State) (c : Cmd) : Option (Nat × Nat) :=
  let bytes := c.spans * spanBytes (s.attn c.context)
  let topP := bits (c.p 4) 32 32
  firstBad [
    (s.ctxBad .owned c, stBadContext, 0),
    (!onlyBits (c.p 0) 0xFFF_1FFF_FFFF || decide (2 ^ 57 ≤ c.p 1) || decide (2 ^ 57 ≤ c.p 2) || decide (2 ^ 20 ≤ c.p 3), stBadParam, 0x0906),
    (c.spans == 0 || (c.chunkSize != 0 && (decide (c.chunkSize < 64) || decide (4096 < c.chunkSize))) || bits (c.p 0) 32 12 == 4095 ||
      !tempOk (bits (c.p 4) 0 32) || topP == 0 || decide (0x3F80_0000 < topP) || (!c.ringed && c.p 1 != 0) || c.p 1 % 64 != 0, stBadParam, 0x0901),
    (c.p 2 % 0x20_0000 != 0 || decide (2 ^ 57 < c.p 2 + bytes) || !s.unmapped c.context (c.p 2) bytes, stBadParam, 0x0902)]

/-- What the named hand settles: FREE, or one to be had (0x0904). -/
def lateOpen (s : State) (c : Cmd) : Option (Nat × Nat) := firstBad [
  (!c.flag6 && s.handState c.hand != 0, stBadParam, 0x0904), (c.flag6 && s.freeHand.isNone, stNoResource, 0)]

/-- The place of a ring position in the partition's z order. -/
def State.zPlace (s : State) (z : Nat) : Option Nat :=
  (List.range (s.rd TOPO.PARTITION.PLANES)).find? (fun i => bits (s.rd TOPO.PARTITION.ZORDER) (3 * i) 3 == z)

/-- Whether one member follows another in the form of a ring (R201): the next in + x or + y, or the next plane of the z line. -/
def State.ringNext (s : State) (form : Nat) (a b : Member) : Bool :=
  if form = 0 then b.x == (a.x + 1) % 4 && b.y == a.y && b.z == a.z
  else if form = 1 then b.y == (a.y + 1) % 4 && b.x == a.x && b.z == a.z
  else b.x == a.x && b.y == a.y && (match s.zPlace a.z, s.zPlace b.z with | some i, some j => j == i + 1 | _, _ => false)

/-- Whether a ring descriptor keeps R200, R201 and R209 for hand `n` of this module. -/
def State.ringOk (s : State) (n spans : Nat) (w : List Nat) : Bool :=
  let m := ringMembers w
  let at' (k : Nat) : Option Member := s.topo.members.find? (fun x => x.chip == ringChip w k && !x.donor)
  decide (ringForm w < 3) && decide (2 ≤ m) && decide (m ≤ if ringForm w = 2 then 6 else 4) && decide (ringIndex w < m) &&
    decide (1 ≤ ringSeg w) && decide (ringSeg w ≤ spans) && decide (wd w 0 < 2 ^ 16) && decide (wd w 1 < 2 ^ 48) && decide (wd w 2 < 2 ^ 24) &&
    decide (wd w 3 < 2 ^ 36) && (w.drop 4).all (fun x => x == 0) && ringChip w (ringIndex w) == s.chip && ringHandNo w (ringIndex w) == n &&
    (List.range (m - 1)).all (fun k => match at' k, at' (k + 1) with | some a, some b => s.ringNext (ringForm w) a b | _, _ => false)

/-- The hand bound to its context with its settings; no span is allocated (Table 9-1). -/
def State.bindHand (s : State) (n : Nat) (c : Cmd) (ring : List Nat) : State :=
  let l := s.attn c.context
  let s := s.setHand n {
    cacheVa := c.p 2, allow := c.spans, chunk := (if c.chunkSize = 0 then 512 else c.chunkSize), targetUs := c.p 3,
    temperature := bits (c.p 4) 0 32, topP := bits (c.p 4) 32 32, seed := c.p 5, layers := l, ring := ring }
  let s := s.wrs [(SERVE.HAND_STATE.CLASS n, s.rd (SCHED.CTX_STATE.CLASS c.context)), (SERVE.HAND_STATE.RING n, b2n c.ringed),
    (SERVE.HAND_STATE.CONTEXT n, c.context), (SERVE.HAND_STATE.CLIENT_TAG n, bits (c.p 0) 32 12), (SERVE.HAND_STATE.SPANS n, 0),
    (SERVE.HAND_STATE.COMMITTED n, 0), (SERVE.HAND_STATE.PENDING n, 0)]
  ((s.setSpecWord n 0).toHandState n 1).doneWith c.id n (spanBytes l) 0

/-- HAND_OPEN (R209): a ring hand's descriptor is read and checked first. -/
def handOpen (s : State) (c : Cmd) : State :=
  match (if c.flag6 then s.freeHand else some c.hand) with
  | none => s
  | some n =>
    if c.ringed then
      s.withBytes c (c.p 1) 64 (fun s b =>
        let w := wordsOf 8 8 b
        if s.ringOk n c.spans w then (s.dropGot c.origin.who).bindHand n c w else (s.dropGot c.origin.who).failWith c.id stBadParam 0x0903)
    else s.bindHand n c []

/-- HAND_OPEN (R209). -/
def execHandOpen (k : Nat) (s : State) : Host.Outcome State Fault Refusal := .next (s.runHand k 0x40 always checkHandOpen lateOpen handOpen)

/-- The checks of HAND_CLOSE. -/
def checkHandClose (s : State) (c : Cmd) : Option (Nat × Nat) := firstBad [
  (s.ctxBad .owned c, stBadContext, 0), (decide (64 ≤ c.p 0) || !c.restZero 1, stBadParam, 0x0906)]

/-- HAND_CLOSE (Table 9-1): applied once the hand is OPEN, EVICTED or LOST and no move of it is in flight. -/
def handClose (s : State) (c : Cmd) : State :=
  let n := c.hand
  let st := s.handState n
  if (st = 1 ∨ st = 4 ∨ st = 8) ∧ s.handMoves n = false ∧ s.parksOn n = false then ((s.cacheFree c.context n (s.hand n)).handFree n).doneWith c.id 0 0 0 else s

/-- HAND_CLOSE (R208). -/
def execHandClose (k : Nat) (s : State) : Host.Outcome State Fault Refusal :=
  .next (s.runHand k 0x41 always checkHandClose (fun s c => firstBad ((s.handBad c c.hand).take 1)) handClose)

/-! STEP and PREFILL_CHUNK (R217, R218). -/

/-- Whether the hand's PARK or HAND_CLOSE was accepted earlier (0x0911). -/
def State.closing (s : State) (c : Cmd) : Bool :=
  s.cmds.any (fun d => decide (d.id < c.id) && d.status.isNone && (d.opcode == 0x41 || d.opcode == 0x44) && d.handNo == some c.hand)

/-- OUT_VA of a STEP, or of a PREFILL_CHUNK with EMIT. -/
def Cmd.outVa (c : Cmd) : Nat := if c.opcode = 0x42 then c.p 1 else if c.flag6 then c.p 2 else 0
/-- COUNT of a PREFILL_CHUNK or PREFIX_LOOKUP, BLOCKS of a PREFIX_INSERT. -/
def Cmd.count (c : Cmd) : Nat := bits (c.p 0) 16 16

/-- Whether an output record's address is unaligned or not mapped. -/
def State.outBad (s : State) (c : Cmd) : Bool := c.outVa != 0 && (c.outVa % 64 != 0 || !s.mappedAll c.context c.outVa 64)

/-- The checks of STEP. -/
def checkStep (s : State) (c : Cmd) : Option (Nat × Nat) := firstBad [
  (s.ctxBad .owned c, stBadContext, 0),
  (decide (128 ≤ c.p 0) || decide (2 ^ 57 ≤ c.p 1) || decide (2 ^ 32 ≤ c.p 2) || (!c.flag6 && c.p 2 != 0) || !c.restZero 3, stBadParam, 0x0906),
  (s.outBad c, stBadParam, 0x0907),
  (s.closing c, stBadParam, 0x0911)]

/-- What the hand settles for STEP: with SUPPLY clear it needs a pending token (R218). -/
def lateStep (s : State) (c : Cmd) : Option (Nat × Nat) :=
  firstBad (s.handBad c c.hand ++ [(!c.flag6 && !s.is (SERVE.HAND_STATE.PENDING c.hand), stBadParam, 0x0914)])

/-- A STEP or PREFILL_CHUNK begun: a hand's commands are numbered for its ring traffic (R211), and no token of it has run. -/
def State.handBegin (s : State) (c : Cmd) : State :=
  let x := s.hand c.hand
  (s.setHand c.hand { x with ordinal := x.ordinal + 1, ran := 0 }).start c.id []

/-- STEP (R217) waits for the assembly of its step. -/
def execStep (k : Nat) (s : State) : Host.Outcome State Fault Refusal :=
  .next (s.runHand k 0x42 always checkStep lateStep State.handBegin)

/-- The checks of PREFILL_CHUNK. -/
def checkPrefill (s : State) (c : Cmd) : Option (Nat × Nat) := firstBad [
  (s.ctxBad .owned c, stBadContext, 0),
  (!onlyBits (c.p 0) 0xFFFF_007F || decide (2 ^ 57 ≤ c.p 1) || decide (2 ^ 57 ≤ c.p 2) || !c.restZero 3, stBadParam, 0x0906),
  (c.count == 0 || c.p 1 % 64 != 0 || !s.mappedAll c.context (c.p 1) (4 * c.count) || s.outBad c, stBadParam, 0x0907),
  (s.closing c, stBadParam, 0x0911)]

/-- PREFILL_CHUNK (R217) waits for the assembly of its first chunk's step. -/
def execPrefillChunk (k : Nat) (s : State) : Host.Outcome State Fault Refusal :=
  .next (s.runHand k 0x43 always checkPrefill (fun s c => firstBad (s.handBad c c.hand)) State.handBegin)

/-! The spans that positions need (R189, R196, R240). -/

/-- The spans of which a part lies at or below position `hi`, but for those that an attached entry covers wholly (R240). -/
def Hand.spansTo (x : Hand) (hi : Nat) : List Nat :=
  let last := if x.ring.isEmpty then hi / 2048 + 1
    else if hi < x.segStart then 0 else min ((hi - x.segStart) / 2048 + 1) (ringSeg x.ring)
  (List.range last).filter (fun i => decide (x.prefixLen / 2048 ≤ i))

/-- The spans still to be allocated so that positions up to `hi` have their places: each with whether it is the lead's, which a speculating
hand has beside its own (R230). -/
def State.needs (s : State) (n hi : Nat) : List (Nat × Bool) :=
  let x := s.hand n
  (x.spansTo hi).flatMap (fun i =>
    (if x.spans.contains i then [] else [(i, false)]) ++ (if s.is (SERVE.SPEC_STATE.ENABLED n) && !x.leadSpans.contains i then [(i, true)] else []))

/-- Pages that spans take. -/
def Hand.cost (x : Hand) (l : List (Nat × Bool)) : Nat := (l.map (fun p => spanPages (if p.2 then x.leadLayers else x.layers))).sum

/-- Spans given to a hand one by one. -/
def giveSpans (n : Nat) : List (Nat × Bool) → State → Option State
  | [], s => some s
  | (i, lead) :: r, s =>
    let x := s.hand n
    match (if lead then s.allocSpan n 4 x.leadVa x.leadLayers i else s.allocSpan n 3 x.cacheVa x.layers i) with
    | none => none
    | some t =>
      let y := t.hand n
      giveSpans n r (t.setHand n (if lead then { y with leadSpans := y.leadSpans ++ [i] } else { y with spans := y.spans ++ [i] }))

/-- What becomes of a hand's need: met; short of pages, by how many with the reserve; or refused with a DETAIL. -/
inductive Room where
  | ok (s : State)
  | short (pages : Nat)
  | refuse (detail : Nat)

/-- The spans for positions up to `hi` of a hand of a class (R196, R198). -/
def State.roomFor (s : State) (cls n hi : Nat) : Room :=
  let x := s.hand n
  let need := s.needs n hi
  let pages := x.cost need
  if need.any (fun p => decide (x.allow ≤ p.1)) then .refuse 0x0802
  else if need.isEmpty then .ok s
  else if s.poolHas cls pages then
    match giveSpans n need s with
    | some t => .ok ((t.wr (SERVE.HAND_STATE.SPANS n) (t.hand n).spans.length).serveRegs)
    | none => .refuse 0x0801
  else .short (pages + s.keepFor cls)

/-! Reclaim and eviction (R197, R241). -/

/-- The oldest LAST_MATCH among an entry's records; 0 where no record names it. -/
def Entry.lastMatch (x : Entry) : Nat := (x.times.map Prod.snd).foldl min ((x.times.map Prod.snd).headD 0)

/-- The unreferenced entry whose last match is oldest. -/
def State.oldestEntry (s : State) : Option Nat :=
  ((s.entries.filter (fun e => e.2.live && s.entryRefs e.1 == 0)).foldl (fun (b : Option (Nat × Entry)) e =>
    match b with | none => some e | some x => if e.2.lastMatch < x.2.lastMatch then some e else some x) none).map Prod.fst

/-- Unreferenced entries freed until so many pages are free. -/
def reclaim (want : Nat) : Nat → State → State
  | 0, s => s
  | fuel + 1, s =>
    if want ≤ s.poolRoom then s
    else match s.oldestEntry with
      | none => s
      | some e => reclaim want fuel ((s.entryFree e).bump SERVE.PREFIX_EVENTS.RECLAIMED 1)

/-- The host that owns a context, while it has one that is ATTACHED. -/
def State.ownerHost (s : State) (c : Nat) : Option Nat :=
  if s.rd (SCHED.CTX_STATE.LIFE c) = 1 ∧ s.attached (s.rd (SCHED.CTX_STATE.OWNER c)) then some (s.rd (SCHED.CTX_STATE.OWNER c)) else none

/-- The hands that may be evicted: wholly in HBM, not named in the step, slots for every page in the owner's area (R197). One in a step
that runs is among them: its eviction waits for that step to complete (Table 8-4). -/
def State.candidates (s : State) (busy : List Nat) : List Nat :=
  handNos.filter (fun n => (s.handState n == 1 || (s.handState n == 2 && !(s.hand n).evict)) && !busy.contains n && !((s.hand n).pages n).isEmpty &&
    (match s.ownerHost (s.handCtx n) with | some h => decide (((s.hand n).pages n).length ≤ (s.slotsFree h false).length) | none => false))

/-- The victim: plain before trump, the oldest last step, the lower number (R197). -/
def State.victim (s : State) (busy : List Nat) : Option Nat :=
  (s.candidates busy).foldl (fun (b : Option Nat) n =>
    match b with
    | none => some n
    | some m =>
      let cn := s.rd (SERVE.HAND_STATE.CLASS n)
      let cm := s.rd (SERVE.HAND_STATE.CLASS m)
      if cm < cn ∨ (cm = cn ∧ (s.hand n).lastStep < (s.hand m).lastStep) then some n else some m) none

/-- A hand's pages sent to slots of a host's area in a format (R194, R199). -/
def State.sendOut (s : State) (n h : Nat) (kitty : Bool) (fmt cause : Nat) : State :=
  let x := s.hand n
  let ps := x.pages n
  let sl := ps.zip (s.slotsFree h kitty)
  let s := s.took.setHand n { x with slots := sl.map (fun p => (p.1.va, p.2)), host := h, inKitty := kitty, fmt := fmt }
  sl.foldl (fun (t : State) p =>
    let latent := decide (p.1.j < p.1.layers)
    t.want {
      id := 0, ctx := t.handCtx n, va := p.1.va, big := true, leaf := 0, tier := 2 + h, chip := t.chip, frame := t.slotAddr h kitty p.2, phase := 0,
      cause := cause, owner := n, convert := (if latent then fmt + 1 else 0), len := (if latent then 0 else posUsed p.1.layers p.1.j) }) s

/-- A hand's pages asked back into the places of R190. -/
def State.bringBack (s : State) (n cause : Nat) : State :=
  let x := s.hand n
  ((x.pages n).filter (fun p => x.inSlot p.va)).foldl (fun (t : State) p =>
    let latent := decide (p.j < p.layers)
    t.want {
      id := 0, ctx := t.handCtx n, va := p.va, big := true, leaf := 2 ^ p.die, tier := 1, chip := t.chip, frame := 0, phase := 0,
      cause := cause, owner := n, convert := (if latent then x.fmt + 3 else 0), len := (if latent then 0 else posUsed p.layers p.j) }) s

/-- A victim's eviction started, or, while its step runs, left for the end of that step (Table 8-4). -/
def State.evict (s : State) (n : Nat) : State :=
  match s.ownerHost (s.handCtx n) with
  | some h =>
    if s.handState n = 2 then s.setHand n { s.hand n with evict := true }
    else (s.sendOut n h false (s.cacheNow.getD 2 0) 4).toHandState n 3
  | none => s

/-- Pages on their way out of HBM by eviction, those of victims in a running step among them. -/
def State.leaving (s : State) : Nat :=
  (s.wants.filter (fun m => m.cause == 4)).length + (s.moves.filter (fun m => m.cause == 4)).length +
    ((handNos.filter (fun n => s.handState n == 2 && (s.hand n).evict)).map (fun n => ((s.hand n).pages n).length)).sum

/-- The evictions that waited for a context's step (Table 8-4). -/
def State.evictLate (s : State) (c : Nat) : State :=
  (handNos.filter (fun n => (s.hand n).evict && s.handCtx n == c)).foldl (fun (t : State) n =>
    let t := t.setHand n { t.hand n with evict := false }
    if t.handState n = 1 ∧ (t.candidates []).contains n then t.evict n else t) s

/-- Hands evicted until the pages free or on their way out are so many, or no candidate is left. -/
def evictUntil (want : Nat) (busy : List Nat) : Nat → State → State
  | 0, s => s
  | fuel + 1, s =>
    if want ≤ s.poolRoom + s.leaving then s
    else match s.victim busy with
      | none => s
      | some n => evictUntil want busy fuel (s.evict n)

/-- The pool brought back to RESERVE: unreferenced entries first, then hands (R197, R241). -/
def State.keepReserve (s : State) (busy : List Nat) : State :=
  let want := s.reserve
  evictUntil want busy 64 (reclaim want 1024 s)

/-! Assembly (R214, R216). -/

/-- The slot that runs step `n` of a context: a pending switch that covers it counts (R343). -/
def State.slotFor (s : State) (c n : Nat) : Nat :=
  match s.switchOf c with
  | some w => if w.next || decide (w.atStep ≤ n) then w.slot else s.ctxSlot c
  | none => s.ctxSlot c

/-- STEP and PREFILL_CHUNK commands of a context that wait for an assembly, in the order of acceptance. -/
def State.stepCmds (s : State) (c : Nat) : List Cmd :=
  s.cmds.filter (fun d => d.started && d.status.isNone && (d.opcode == 0x42 || d.opcode == 0x43) && d.context == c)

/-- The origin of the serving unit's accesses for a command. -/
def Cmd.serveOrigin (c : Cmd) : Origin := { c.origin with engine := 57 }

/-- What assembly has placed: the state, the items so far, and the chunk tokens placed. -/
structure Placed where
  s : State
  items : List StepItem
  tokens : Nat

/-- A command left out of the step for want of memory: NO_RESOURCE with the committed length in OUT1 (R198, R219). -/
def State.refuseStep (s : State) (c : Cmd) (det : Nat) : State :=
  (s.bump SERVE.CACHE_EVENTS.REFUSED 1).finish c.id stNoResource det 0 (s.rd (SERVE.HAND_STATE.COMMITTED c.hand)) 0

/-- A shortage met by freeing entries and evicting hands; while pages are to come the command waits, else it is refused. -/
def State.shortOf (s : State) (c : Cmd) (busy : List Nat) (want : Nat) : State :=
  let s := evictUntil want busy 64 (reclaim want 1024 s)
  if want ≤ s.poolRoom + s.leaving then s else s.refuseStep c 0x0801

/-- The spans for a command's positions, once with entries freed where that is enough. -/
def State.roomTry (s : State) (cls n hi : Nat) : Room :=
  match s.roomFor cls n hi with
  | .short want => (reclaim want 1024 s).roomFor cls n hi
  | r => r

/-- The most drafts whose positions have places, from `d` down (R198: no eviction is made for a draft). -/
def draftRoom (cls n c : Nat) : Nat → State → Nat × State
  | 0, s => (0, s)
  | d + 1, s =>
    match s.roomFor cls n (c + d + 1) with
    | .ok t => (d + 1, t)
    | _ => draftRoom cls n c d s

/-- The depth a hand's next token step would use before any cut (R234). -/
def State.depthOf (s : State) (n : Nat) : Nat :=
  if !s.is (SERVE.SPEC_STATE.ENABLED n) || s.rd (SERVE.SPEC_STATE.SUSPEND n) != 0 then 0
  else if (s.hand n).probe then 1 else s.rd (SERVE.SPEC_STATE.DEPTH n)

/-- Whether a hand is bound to a variant of another slot than the one that runs the step (R248). -/
def State.misbound (s : State) (n slot : Nat) : Bool :=
  let v := s.rd (SERVE.SPEC_STATE.VARIANT n)
  v != 0 && (s.hand n).variantSlot != slot

/-- What a command meets before it is placed: a lost hand, a variant of another slot, the end of its ring. -/
def State.placeStop (s : State) (slot : Nat) (c : Cmd) (len : Nat) : Option State :=
  let n := c.hand
  let x := s.hand n
  match firstBad (s.handBad c n) with
  | some (st, d) => some (s.failWith c.id st d)
  | none =>
    if s.misbound n slot then some ((s.bump SERVE.VARIANT_EVENTS.MISMATCH 1).failWith c.id stBadParam 0x0A36)
    else match x.ringEnd with
      | some e => if e < s.rd (SERVE.HAND_STATE.COMMITTED n) + len then some (s.refuseStep c 0x0803) else none
      | none => none

/-- A token step placed for a STEP (R216, R231); its drafts are placed once every hand's own positions are (R198). -/
def placeToken (slot cls : Nat) (busy : List Nat) (a : Placed) (c : Cmd) : Placed :=
  let n := c.hand
  let s := a.s
  match s.placeStop slot c 1 with
  | some t => { a with s := t }
  | none =>
    if s.handState n ≠ 1 then a
    else
      let len := s.rd (SERVE.HAND_STATE.COMMITTED n)
      match s.roomTry cls n len with
      | .refuse d => { a with s := s.refuseStep c d }
      | .short want => { a with s := s.shortOf c busy want }
      | .ok t =>
        let i : StepItem := { hand := n, cmd := c.id, chunk := false, first := len, count := 1, token := (if c.flag6 then c.p 2 else (s.hand n).token) }
        { a with s := t, items := a.items ++ [i] }

/-- One chunk placed for a PREFILL_CHUNK, while the chunk tokens placed are under the class's budget (R216). -/
def placeChunk (slot cls budget : Nat) (busy : List Nat) (a : Placed) (c : Cmd) : Placed :=
  let n := c.hand
  let s := a.s
  let x := s.hand n
  let n0 := min x.chunk (c.count - x.ran)
  match s.placeStop slot c n0 with
  | some t => { a with s := t }
  | none =>
    if s.handState n ≠ 1 ∨ budget ≤ a.tokens then a
    else match s.fetch c.serveOrigin c.context (c.p 1 + 4 * x.ran) (4 * n0) with
      | .stop t => { a with s := t }
      | .bad t d => { a with s := t.failWith c.id stFaulted d }
      | .bytes _ s =>
        let s := s.dropGot c.origin.who
        let len := s.rd (SERVE.HAND_STATE.COMMITTED n)
        match s.roomTry cls n (len + n0 - 1) with
        | .refuse d => { a with s := s.refuseStep c d }
        | .short want => { a with s := s.shortOf c busy want }
        | .ok t =>
          let last := decide (c.count ≤ x.ran + n0)
          let i : StepItem := { hand := n, cmd := c.id, chunk := true, first := len, count := n0, last := last, emit := last && c.flag6 }
          { s := t, items := a.items ++ [i], tokens := a.tokens + n0 }

/-- The drafts of the token steps placed, each hand's cut to the spans that can be had (R198, R231). -/
def placeDrafts (cls : Nat) (a : Placed) : Placed :=
  a.items.foldl (fun (b : Placed) i =>
    if i.chunk then { b with items := b.items ++ [i] }
    else
      let r := draftRoom cls i.hand i.first (b.s.depthOf i.hand) b.s
      { b with s := r.2, items := b.items ++ [{ i with depth := r.1 }] }) { a with items := [] }

/-- Routed layers of a slot, in ascending order. -/
def State.routedLayers (s : State) (c slot : Nat) : List Nat :=
  riseNats ((s.routers.filter (fun r => r.ctx == c && r.slot == slot)).map Router.layer)

/-- The key of a word of a context's step slot: 0 ASSEMBLED, 1 COMPLETED (R215). -/
def State.stepWord (s : State) (c word : Nat) : Nat := devKey (stepBase + 16 * (aFind s.stepSlots c).getD 0 + 8 * word)

/-- 1 added to a word of a context's step slot on every member, in ascending chip order (R215). -/
def State.stepAdd (s : State) (c word : Nat) : State :=
  (riseNats s.sources).foldl (fun (t : State) m =>
    let k := t.stepWord c word
    if m = t.chip then t.store k 8 ((t.load k 8 + 1) % 2 ^ 64)
    else t.remoteAtomic m (k - devKey 0) 0x15 1 (leVals 8 1 ++ List.replicate 56 0) c 0 ⟨5, c, 0, 0⟩) s

/-- Experts whose receive areas are homed here (R214). -/
def State.homedAreas (s : State) (c slot : Nat) : List (Router × Nat) :=
  (s.routers.filter (fun r => r.ctx == c && r.slot == slot)).flatMap (fun r => (s.homed r).map (fun e => (r, e)))

/-- Whether an entry or an admission has reached an area of the parity (R214, second rule). -/
def State.areaTouched (s : State) (c slot par : Nat) : Bool :=
  (s.homedAreas c slot).any (fun p => match s.keyAt c (p.1.areaVa p.2 par) with
    | some k => s.load k 8 != 0 || s.load (k + 8) 8 != 0
    | none => false)

/-- Whether a verified repair of the slot has waited 100 ms, so that no new step of its contexts is assembled (R340). -/
def State.repairHolds (s : State) (slot : Nat) : Bool :=
  (s.slot slot).shards.any (fun x => match x.swapSince with | some t => decide (t + 100_000_000 ≤ s.now) | none => false)

/-- Whether the barrier lets step `n` be assembled (R215). -/
def State.barrierOk (s : State) (c n : Nat) : Bool :=
  decide (n < 2) || decide (s.sources.length * (n - 1) ≤ s.load (s.stepWord c 1) 8)

/-- The areas homed here entered as in use by a step. -/
def State.openAreas (s : State) (c slot par : Nat) : State :=
  (s.homedAreas c slot).foldl (fun (t : State) p =>
    if (t.areaOf c slot p.1.layer p.2 par).isSome then t
    else t.setArea { ctx := c, slot := slot, layer := p.1.layer, expert := p.2, parity := par }) s

/-- The layers a step runs (R212): every attention layer of the model and every routed layer, one at least; an empty step runs the routed
layers only (R214). -/
def State.stepLayers (s : State) (c slot : Nat) (empty : Bool) : List Nat :=
  let routed := s.routedLayers c slot
  if empty then routed
  else
    let l := riseNats (List.range (s.slot slot).attnLayers ++ routed)
    if l.isEmpty then [0] else l

/-- The least TARGET_US of hands, 0 where none has one. -/
def State.leastTarget (s : State) (l : List StepItem) : Nat :=
  ((l.map (fun i => (s.hand i.hand).targetUs)).filter (fun t => t != 0)).foldl (fun a t => if a = 0 then t else min a t) 0

/-- Step `n` of a context assembled with its items (R213–R216). -/
def State.assemble (s : State) (c n slot cls : Nat) (routed : Bool) (items : List StepItem) : State :=
  let s := s.switchTake c n
  let groups := riseNats (items.map (fun i => s.rd (SERVE.SPEC_STATE.VARIANT i.hand)))
  let t : Step := {
    ctx := c, no := n, slot := slot, cls := cls, since := s.now, items := items, groups := (if groups.isEmpty then [0] else groups),
    layers := s.stepLayers c slot items.isEmpty, empty := items.isEmpty, target := s.leastTarget items,
    latentMode := s.cacheSet.getD 3 0, mergeMax := s.cacheSet.getD 4 0 }
  let s := { s with steps := s.steps ++ [t] }.setCtx c { s.ctx c with stepNo := (n + 1) % 2 ^ 32 }
  let s := (s.bump SERVE.STEPS.ASSEMBLED 1).bump SERVE.STEPS.EMPTY (b2n items.isEmpty)
  let s := items.foldl (fun (u : State) i => u.toHandState i.hand 2) s
  let keys := if items.isEmpty then [] else c :: (riseNats (items.map (fun i => s.rd (SERVE.HAND_STATE.CLIENT_TAG i.hand)))).map (· + 1024)
  let s := keys.foldl (fun (u : State) k => u.charge k (fun a => { a with steps := min (a.steps + 1) (2 ^ 32 - 1) })) s
  (if routed then (s.stepAdd c 0).openAreas c slot (n % 2) else s).stepNext c

/-- The class that a context's hands take at an assembly (R207). -/
def State.handClasses (s : State) (c cls : Nat) : State :=
  (handNos.filter (fun h => s.handState h != 0 && s.handCtx h == c)).foldl (fun (t : State) h => t.wr (SERVE.HAND_STATE.CLASS h) cls) s

/-- STEP_ASSEMBLY (R214): the context's next step where work, an arrival or another member's assembly asks for it and nothing holds
it back. CACHE_POOL and CACHE_CTL come into force as it finds them (Table 8-7), and the hands' class once a step is assembled (R207). -/
def stepAssembly (c : Nat) (s : State) : State :=
  if !s.inUse c || s.rd TOPO.PARTITION.STATE = 3 || (s.stepOf c).isSome then s
  else
    let n := (s.ctx c).stepNo
    let slot := s.slotFor c n
    let routed := s.routers.any (fun r => r.ctx == c && r.slot == slot)
    if (routed && !s.barrierOk c n) || s.repairHolds slot then s
    else
      let cls := s.rd (SCHED.CTX_STATE.CLASS c)
      let set := s.cacheSet
      let s := { s with cacheSet := s.cacheRegs }
      let asked := routed && (s.areaTouched c slot (n % 2) || decide (s.sources.length * n < s.load (s.stepWord c 0) 8))
      let cs := s.stepCmds c
      let busy := cs.map Cmd.hand
      let budget := if cls = 0 then s.rd SERVE.STEP_CTL.TRUMP_PREFILL else s.rd SERVE.STEP_CTL.PLAIN_PREFILL
      let a := (cs.filter (fun d => d.opcode == 0x42)).foldl (placeToken slot cls busy) ⟨s, [], 0⟩
      let a := (cs.filter (fun d => d.opcode == 0x43)).foldl (placeChunk slot cls budget busy) a
      let a := placeDrafts cls a
      let s := a.s.keepReserve busy
      if a.items.isEmpty && !asked then { s with cacheSet := set } else (s.handClasses c cls).assemble c n slot cls routed a.items

/-- STEP_ASSEMBLY (R214). -/
def execStepAssembly (ctx : Nat) (s : State) : Host.Outcome State Fault Refusal := .next (stepAssembly ctx s)

/-! Completion (R219, R231, R234). -/

/-- The lead's cache of positions that its passes compute in a step, every layer of it, as free values (R231, R233). DESIGN CHOICE (log 51):
the lead's passes have no launches of their own, and its cache is written as the item ends. -/
def State.fillLead (s : State) (c n first count : Nat) : State :=
  let x := s.hand n
  let ps := (List.range count).map (first + ·)
  let s := (List.range x.leadLayers).foldl (fun (u : State) layer =>
    u.fillLayer c x.leadVa x.leadLayers layer x.place ps (u.freeCtr + layer * count * 1120)) s
  { s with freeCtr := s.freeCtr + x.leadLayers * count * 1120 }

/-! Sampling (R210). -/

/-- Tokens of a model-table slot's vocabulary. -/
def vocabSize (slot : Nat) : Nat := Config.vocab slot + 1

/-- A row of logits, by token. -/
def logitRow (slot row : Nat) : List Nat := (List.range (vocabSize slot)).map (fun t => Config.logit slot row t % 2 ^ 32)

/-- The token of the largest value, the lower number among equals. -/
def argmax32 (l : List Nat) : Nat :=
  (l.zipIdx.foldl (fun (b : Nat × Nat) p => if before p.1 p.2 b.1 b.2 then p else b) (l.headD 0, 0)).2

/-- Tokens in descending probability, the lower number first among equals: the first `n` of the candidates. -/
def rankTokens : Nat → List (Nat × Nat) → List (Nat × Nat)
  | 0, _ => []
  | n + 1, l =>
    match l with
    | [] => []
    | p :: r =>
      let b := r.foldl (fun (b : Nat × Nat) q => if before q.1 q.2 b.1 b.2 then q else b) p
      b :: rankTokens n (l.filter (fun q => q.2 != b.2))

/-- The tokens of a ranked list until their probabilities sum to at least TOP_P. -/
def topTokens (topP : Nat) : Nat → List (Nat × Nat) → List (Nat × Nat)
  | _, [] => []
  | acc, p :: r =>
    let sum := add32 acc p.1
    if (num32 sum).lt (num32 topP) then p :: topTokens topP sum r else [p]

/-- A token chosen from a row of logits (R210): the largest with TEMPERATURE +0; else drawn by a generator value from the softmax of the
logits ÷ TEMPERATURE, limited by TOP_P. DESIGN CHOICE (log 51): the probabilities are summed in FP32 in their order, and the place
that a generator's value picks is a free value. -/
def sample (temperature topP gen : Nat) (logits : List Nat) : Nat :=
  if temperature = 0 then argmax32 logits
  else
    let p := softmax32 (logits.map (fun x => div32 x temperature))
    let top := topTokens topP 0 (rankTokens p.length p.zipIdx)
    ((top[Config.draw gen (top.map Prod.fst) % top.length]?).map Prod.snd).getD 0

/-- The follow's choice after `k` others of an item: its row of logits, and the next value of the hand's generator (R231). -/
def State.followToken (s : State) (slot n k : Nat) : Nat :=
  let x := s.hand n
  sample x.temperature x.topP (Config.generator x.seed (x.draws + k)) (logitRow slot (s.freeCtr + k))

/-- The lead's proposal of an item's draft `k`, by the largest logit (R229, R231). -/
def State.leadToken (s : State) (n k : Nat) : Nat := argmax32 (logitRow (s.rd (SERVE.SPEC_STATE.LEAD_SLOT n)) (s.freeCtr + 16 + k))

/-- The proposals accepted from draft `k` on, `left` of them left (R231). -/
def State.accepted (s : State) (slot n : Nat) : Nat → Nat → Nat
  | _, 0 => 0
  | k, left + 1 => if s.followToken slot n k = s.leadToken n k then 1 + s.accepted slot n (k + 1) left else 0

/-- The depth rules after a counted step with `a` of `d` drafts accepted (R234). -/
def State.depthAfter (s : State) (n d a : Nat) : State :=
  let x := s.hand n
  let depth := s.rd (SERVE.SPEC_STATE.DEPTH n)
  let zeros := s.rd (SERVE.SPEC_STATE.ZERO_RUN n)
  let full := s.rd (SERVE.SPEC_STATE.FULL_RUN n)
  let put (s : State) (dep z f sus : Nat) : State :=
    s.wrs [(SERVE.SPEC_STATE.DEPTH n, dep), (SERVE.SPEC_STATE.ZERO_RUN n, z), (SERVE.SPEC_STATE.FULL_RUN n, f), (SERVE.SPEC_STATE.SUSPEND n, sus)]
  if x.probe then
    let s := s.setHand n { x with probe := false }
    if a = 0 then put s 0 0 0 64 else put s 1 0 0 0
  else if a = 0 then
    if zeros + 1 = 4 then put s (depth / 2) 0 0 (if depth / 2 = 0 then 64 else 0) else put s depth (zeros + 1) 0 0
  else if a = d then
    if full + 1 = 4 then put s (min (2 * depth) x.maxDepth) 0 0 0 else put s depth 0 (full + 1) 0
  else put s depth 0 0 0

/-- A suspended hand's token step: SUSPEND falls by one, and the step after it reaches 0 is a probe (R234). -/
def State.suspendStep (s : State) (n : Nat) : State :=
  let u := s.rd (SERVE.SPEC_STATE.SUSPEND n)
  if s.is (SERVE.SPEC_STATE.ENABLED n) && u != 0 then
    let s := s.wr (SERVE.SPEC_STATE.SUSPEND n) (u - 1)
    if u = 1 then s.setHand n { s.hand n with probe := true } else s
  else s

/-- A step's item taken off its step. -/
def State.itemOff (s : State) (c n : Nat) : State := s.stepMap c (fun t => { t with items := t.items.filter (fun i => i.hand != n) })

/-- What an item that completes leaves behind it: the lead's cache, the committed lengths, the pending token, the counts and accounts. -/
def State.itemLeave (s : State) (t : Step) (i : StepItem) (a : Nat) (toks : List Nat) : State :=
  let n := i.hand
  let c := t.ctx
  let x := s.hand n
  let spec := s.is (SERVE.SPEC_STATE.ENABLED n)
  let len := if i.chunk then i.first + i.count else i.first + a + 1
  let s := { s with freeCtr := s.freeCtr + 32 }
  let runLead := spec && (i.chunk || i.depth != 0)
  let s := if runLead then s.fillLead c n x.leadLen (i.first + (if i.chunk then i.count else i.depth) - x.leadLen) else s
  let s := s.setHand n { s.hand n with
    leadLen := (if !spec then x.leadLen else if i.chunk then len else if i.depth = 0 then x.leadLen else min len (i.first + i.depth)),
    draws := x.draws + toks.length, lastStep := s.now, ran := (if i.chunk then x.ran + i.count else x.ran),
    token := (if toks.isEmpty then x.token else toks.getLastD 0) }
  let s := s.wr (SERVE.HAND_STATE.COMMITTED n) len
  let s := if i.last then s.wr (SERVE.HAND_STATE.PENDING n) (b2n (!toks.isEmpty)) else s
  let s := if i.chunk then s
    else if i.depth = 0 then s.suspendStep n
    else ((s.bump SERVE.SPEC_TOTAL.PROPOSED i.depth).bump SERVE.SPEC_TOTAL.ACCEPTED a).depthAfter n i.depth a
  let made := toks.length + (if i.chunk then i.count else 0)
  let up (q : Account) : Account := { q with tokens := sat64 q.tokens made }
  (s.charge c up).charge (1024 + s.rd (SERVE.HAND_STATE.CLIENT_TAG n)) up

/-- The 64 bytes of an output record (R219). -/
def outRecord (len : Nat) (toks : List Nat) : List Nat :=
  let b := leVals 4 toks.length ++ leVals 4 len ++ toks.flatMap (leVals 4)
  b ++ List.replicate (64 - b.length) 0

/-- An item that has ended: its command's record and reply, and its hand OPEN again; a hand lost meanwhile gives its own status. -/
def State.itemEnd (t : Step) (s : State) (i : StepItem) : State :=
  let n := i.hand
  match s.cmdOf i.cmd with
  | none => (if s.handState n = 2 then s.toHandState n 1 else s).itemOff t.ctx n
  | some c =>
    if s.handState n ≠ 2 then
      match firstBad (s.handBad c n) with
      | some (st, d) => (s.failWith c.id st d).itemOff t.ctx n
      | none => s.itemOff t.ctx n
    else match i.ended with
      | some (st, d) => ((s.failWith c.id st d).toHandState n 1).itemOff t.ctx n
      | none =>
        let a := s.accepted t.slot n 0 i.depth
        let toks := if i.chunk && !i.emit then [] else (List.range (if i.chunk then 1 else a + 1)).map (s.followToken t.slot n)
        let len := if i.chunk then i.first + i.count else i.first + a + 1
        let skips := c.detail + i.skipped + i.overflowed
        if !i.last then
          let s := ((s.itemLeave t i 0 []).toHandState n 1).itemOff t.ctx n
          if c.gone then s.cmdDiscard c.id else s.cmdMap c.id (fun x => { x with detail := skips })
        else
          let done (s : State) : State :=
            let s := ((s.itemLeave t i a toks).toHandState n 1).itemOff t.ctx n
            s.finish c.id (if skips = 0 then stDone else stCapacitySkip) (min skips 0xFFFF) (toks.headD 0 + toks.length * 2 ^ 32) len (toks.getLastD 0)
          if c.outVa = 0 ∨ toks.isEmpty then done s
          else match s.put c.serveOrigin c.context c.outVa (outRecord len toks) with
            | .ok u => done u
            | .stop u => u
            | .bad u d => ((u.failWith c.id stFaulted d).toHandState n 1).itemOff t.ctx n

/-- STEP_COMPLETE (R212, R215): the step's launches are done and every receive area homed here for it is reset; replies are written,
and COMPLETED is added once every item has ended. A launch that ended with a status ends the step's items with it. -/
def stepComplete (c : Nat) (s : State) : State :=
  match s.stepOf c with
  | none => s
  | some t =>
    let l := t.launch.bind s.launch
    let failed := l.bind Launch.ended
    let areas := s.areas.any (fun a => a.ctx == c && a.slot == t.slot && a.parity == t.no % 2)
    if failed.isNone && (l.isSome || !t.layers.isEmpty || areas) then s
    else
      let s := match failed with
        | some e =>
          let s := { s with launches := s.launches.filter (fun x => some x.id != t.launch) }
          s.stepMap c (fun (u : Step) => { u with launch := none, layers := [], items := u.items.map (fun (i : StepItem) => { i with ended := some e }) })
        | none => s
      let its := ((s.stepOf c).map Step.items).getD []
      let s := its.foldl (State.itemEnd t) s
      match s.stepOf c with
      | none => s
      | some u =>
        if !u.items.isEmpty || areas then s
        else
          let s := { s with steps := s.steps.filter (fun x => x.ctx != c) }
          let s := if u.cls == 0 && u.target != 0 && decide (u.since + 1000 * u.target < s.now) then s.bump SERVE.STEPS.TRUMP_LATE 1 else s
          let s := if s.routers.any (fun r => r.ctx == c && r.slot == u.slot) then s.stepAdd c 1 else s
          ((s.evictLate c).keepReserve []).poolRegs

/-- STEP_COMPLETE (R212). -/
def execStepComplete (ctx : Nat) (s : State) : Host.Outcome State Fault Refusal := .next (stepComplete ctx s)

/-! Leads (R229). -/

/-- Whether a slot's model may be a lead (R229): READY or ACTIVE, no routed layer, all its shards here. DEDUCED (log 51): a matrix entry
whose CHIP_MASK is 0 is a routed expert's, whose column ranges its placement entry gives (Table 14-2); the cache forms of Table 8-1 are
those of every model. -/
def State.leadOk (s : State) (n : Nat) : Bool :=
  (s.slotState n == 2 || s.slotState n == 3) && (s.slot n).whole && !s.routers.any (fun r => r.slot == n) && !(s.slot n).matrices.any (fun m => wd m 5 == 0)

/-- A hand's lead spans freed with no move. -/
def State.leadFree (s : State) (n : Nat) : State :=
  let x := s.hand n
  let lead : Hand := { x with spans := [] }
  let s := s.cacheFree (s.handCtx n) n lead
  s.setHand n { x with leadSpans := [], leadLen := 0, probe := false, maxDepth := 0 }

/-! Eviction and return (R199). -/

/-- EVICTION_COMPLETE (Table 9-1): the last page has left HBM. -/
def evictionComplete (n : Nat) (s : State) : State :=
  if s.handState n = 3 ∧ s.handMoves n = false then
    ((s.setHand n { s.hand n with evictedAt := s.now }).bump SERVE.CACHE_EVENTS.EVICTIONS 1).toHandState n 4
  else s

/-- EVICTION_COMPLETE (R208). -/
def execEvictionComplete (hand : Nat) (s : State) : Host.Outcome State Fault Refusal := .next (evictionComplete hand s)

/-- The pages that STEPs and PREFILL_CHUNKs of a class need whose context may assemble its next step: their allocation comes before a return
of the class (Table 8-7). -/
def State.stepNeed (s : State) (cls : Nat) : Nat :=
  ((s.cmds.filter (fun d => d.started && d.status.isNone && (d.opcode == 0x42 || d.opcode == 0x43) && (s.stepOf d.context).isNone &&
    s.rd (SCHED.CTX_STATE.CLASS d.context) == cls && s.handState d.hand == 1)).map (fun d =>
    let x := s.hand d.hand
    x.cost (s.needs d.hand (s.rd (SERVE.HAND_STATE.COMMITTED d.hand) + (if d.opcode = 0x43 then min x.chunk (d.count - x.ran) - 1 else 0))))).sum

/-- Whether free pages cover an evicted hand's pages (R199). -/
def State.covered (s : State) (n : Nat) : Bool :=
  let cls := s.rd (SERVE.HAND_STATE.CLASS n)
  s.poolHas cls (((s.hand n).pages n).length + s.stepNeed cls)

/-- Whether a hand has a STEP or PREFILL_CHUNK waiting. -/
def State.wanted (s : State) (n : Nat) : Bool :=
  s.cmds.any (fun d => d.status.isNone && (d.opcode == 0x42 || d.opcode == 0x43) && d.handNo == some n)

/-- The order of return as numbers: class, no work waiting, time of eviction, hand (R199). -/
def State.returnKey (s : State) (n : Nat) : List Nat :=
  [s.rd (SERVE.HAND_STATE.CLASS n), b2n (!s.wanted n), (s.hand n).evictedAt, n]

/-- Whether a list of numbers comes before another of the same length. -/
def keyLess : List Nat → List Nat → Bool
  | a :: r, b :: q => decide (a < b) || (a == b && keyLess r q)
  | _, _ => false

/-- RETURN_START (R199): the evicted hand that is covered and comes first, while no other hand returns. -/
def returnStart (n : Nat) (s : State) : State :=
  if s.handState n = 4 ∧ s.covered n ∧ s.handsIn 5 = [] ∧ s.handMoves n = false ∧
      (s.handsIn 4).all (fun m => m == n || !s.covered m || !keyLess (s.returnKey m) (s.returnKey n)) then
    (s.bringBack n 5).toHandState n 5
  else s

/-- RETURN_START (R199). -/
def execReturnStart (hand : Nat) (s : State) : Host.Outcome State Fault Refusal := .next (returnStart hand s)

/-- RETURN_COMPLETE (Table 9-1): the last page is back. -/
def returnComplete (n : Nat) (s : State) : State :=
  if s.handState n = 5 ∧ s.handMoves n = false then (s.bump SERVE.CACHE_EVENTS.RETURNS 1).toHandState n 1 else s

/-- RETURN_COMPLETE (R208). -/
def execReturnComplete (hand : Nat) (s : State) : Host.Outcome State Fault Refusal := .next (returnComplete hand s)

end Sys2Proof.Machine
end

