-- ==== Sys2Proof/Machine/Parking.lean ====
section
/-! DEFINITION. The kitty (R221–R223, Tables 9-4 to 9-6): PARK, its RENEW, UNPARK, their completions, and the expiry of a copy. -/

namespace Sys2Proof.Machine

open Sys2Proof

/-- TTL_S. -/
def Cmd.ttl (c : Cmd) : Nat := bits (c.p 0) 16 17

/-- A kitty entry's handle (R222). -/
def Kitty.handle (k : Kitty) (e : Nat) : Nat := e + k.gen * 2 ^ 12

/-- Host-memory bytes of a copy, and the slots it holds. -/
def Hand.copyBytes (x : Hand) : Nat := ((x.pages 0).map (fun p => pageBytes p.layers p.j x.fmt)).sum
/-- Slots of a copy. -/
def Hand.copySlots (x : Hand) : Nat := x.slots.length

/-- The checks of PARK and PARK with RENEW (Table 9-6). -/
def checkPark (s : State) (c : Cmd) : Option (Nat × Nat) := firstBad [
  (s.ctxBad .owned c, stBadContext, 0),
  (!onlyBits (c.p 0) 0x1_FFFF_01FF || (!c.flag6 && c.p 1 != 0) || !c.restZero 2, stBadParam, 0x0906),
  (c.ttl == 0 || decide (86_400 < c.ttl) || bits (c.p 0) 7 2 == 3, stBadParam, 0x0912)]

/-- What the hand settles for PARK: it is OPEN, EVICTED, or on its way to EVICTED (Table 8-7). -/
def latePark (s : State) (c : Cmd) : Option (Nat × Nat) :=
  let st := s.handState c.hand
  firstBad (s.handBad c c.hand ++ [(st != 1 && st != 3 && st != 4, stBadParam, 0x0912)])

/-- The host that PARK names. -/
def State.kittyHost (s : State) (c : Cmd) : Nat :=
  match bits (c.p 0) 7 2 with | 1 => 0 | 2 => 1 | _ => s.rd (SCHED.CTX_STATE.OWNER c.context)

/-- An EMPTY kitty entry; which one a PARK claims the spec leaves open. -/
def State.emptyEntry (s : State) : Option Nat :=
  let l := (List.range 4096).filter (fun e => (s.kittyAt e).state == 0)
  l[s.chooseBelow l.length]?

/-- A hand's words put into a copy (R221). -/
def State.copyWords (s : State) (n : Nat) (k : Kitty) : Kitty := { k with word := s.handWord n, spec := s.specWord n }

/-- A hand's cache kept as the copy of an entry, which is HELD (Table 9-4). -/
def State.copyHeld (s : State) (n e : Nat) (k : Kitty) : State :=
  let x := s.hand n
  let up (q : Account) : Account := { q with parks := min (q.parks + 1) (2 ^ 32 - 1) }
  let s := (s.charge (s.handCtx n) up).charge (1024 + s.rd (SERVE.HAND_STATE.CLIENT_TAG n)) up
  let s := s.setKitty e { k with state := 2, hand := { x with cmd := none }, ends := s.now + k.ttl * 1_000_000_000 }
  s.bump SERVE.PARK_EVENTS.PARKS 1

/-- PARK taken (R221): an EVICTED hand's pages are the copy at once; an OPEN hand's pages start moving to the host's area. -/
def park (s : State) (c : Cmd) : State :=
  let n := c.hand
  let x := s.hand n
  if s.handState n = 3 then s
  else match s.emptyEntry with
    | none => s.failWith c.id stNoResource 0x0921
    | some e =>
      let k : Kitty := { gen := (s.kittyAt e).gen, ctx := c.context, ttl := c.ttl, fill := n }
      let s := s.took
      if s.handState n = 4 then ((s.copyHeld n e (s.copyWords n k)).handFree n).doneWith c.id (k.handle e) x.copyBytes x.copySlots
      else
        let h := s.kittyHost c
        if !s.attached h || s.areaSlots h true == 0 || decide ((s.slotsFree h true).length < (x.pages n).length) then s.failWith c.id stNoResource 0x0922
        else
          let s := s.setHand n { x with cmd := some c.id, entry := e }
          ((((s.setKitty e { s.copyWords n k with state := 1 }).sendOut n h true 1 6).toHandState n 6)).start c.id []

/-- PARK (R221). -/
def execPark (k : Nat) (s : State) : Host.Outcome State Fault Refusal :=
  .next (s.runHand k 0x44 (fun c => !c.flag6) checkPark latePark park)

/-- The entry that a handle names while it is not expired: not EMPTY, and of the handle's generation (R222). -/
def State.handleEntry (s : State) (h : Nat) : Option Nat :=
  let e := h % 2 ^ 12
  if (s.kittyAt e).state != 0 && (s.kittyAt e).gen == h / 2 ^ 12 then some e else none

/-- PARK with RENEW: the time to live of a HELD copy starts again (R222). -/
def parkRenew (s : State) (c : Cmd) : State :=
  match s.handleEntry (c.p 1) with
  | none => s.failWith c.id stParkExpired 0
  | some e =>
    let k := s.kittyAt e
    if k.state = 4 then s.failWith c.id stFaulted 0x0505
    else if k.state ≠ 2 then s
    else (s.setKitty e { k with ttl := c.ttl, ends := s.now + c.ttl * 1_000_000_000 }).doneWith c.id (c.p 1) k.hand.copyBytes k.hand.copySlots

/-- PARK with RENEW (R222). -/
def execParkRenew (k : Nat) (s : State) : Host.Outcome State Fault Refusal := .next (s.runCmd k 0x44 Cmd.flag6 checkPark parkRenew)

/-- PARK_COMPLETE (Tables 9-1 and 9-4): the last page is in host memory. After a job abort the copy is kept and PARK replies so, while the
hand stays LOST, with nothing of its cache (Table 9-7). -/
def parkComplete (n : Nat) (s : State) : State :=
  let x := s.hand n
  let k := s.kittyAt x.entry
  if s.handMoves n then s
  else if s.handState n = 6 then
    let s := (s.copyHeld n x.entry k).handFree n
    match x.cmd with
    | some c => s.doneWith c (k.handle x.entry) x.copyBytes x.copySlots
    | none => s
  else if s.parksOn n then
    let s := s.copyHeld n x.entry k
    let s := (s.setHand n { x with cmd := none, slots := [], spans := [], leadSpans := [] }).wr (SERVE.HAND_STATE.SPANS n) 0
    match x.cmd with
    | some c => s.serveRegs.finish c stJobAborted 0x0001 (k.handle x.entry) 0 0
    | none => s
  else s

/-- PARK_COMPLETE (R208). -/
def execParkComplete (hand : Nat) (s : State) : Host.Outcome State Fault Refusal := .next (parkComplete hand s)

/-- The checks of UNPARK that its words allow. -/
def checkUnpark (s : State) (c : Cmd) : Option (Nat × Nat) := firstBad [
  (s.ctxBad .owned c, stBadContext, 0),
  (decide (128 ≤ c.p 0) || decide (2 ^ 57 ≤ c.p 2) || !c.restZero 3, stBadParam, 0x0906),
  (c.p 2 % 0x20_0000 != 0, stBadParam, 0x0902)]

/-- What the handle and the named hand settle for UNPARK. -/
def lateUnpark (s : State) (c : Cmd) : Option (Nat × Nat) :=
  let k := (s.handleEntry (c.p 1)).map s.kittyAt
  let bytes := match k with | some k => k.hand.allow * spanBytes k.hand.layers | none => 0
  let held := match k with | some k => k.state == 2 | none => false
  firstBad [
    (!c.flag6 && s.handState c.hand != 0, stBadParam, 0x0904),
    (c.flag6 && s.freeHand.isNone, stNoResource, 0),
    (k.isNone, stParkExpired, 0),
    (match k with | some k => k.ctx != c.context | none => false, stBadParam, 0x0913),
    (held && c.p 2 != 0 && (decide (2 ^ 57 < c.p 2 + bytes) || !s.unmapped c.context (c.p 2) bytes), stBadParam, 0x0902)]

/-- One page of a copy mapped at a new address, its home as it is. -/
def rebase (c old new : Nat) (acc : Option State) (p : CachePage) : Option State :=
  match acc with
  | none => none
  | some s => match s.walk c p.va with
    | none => some s
    | some (_, _, leaf) => (s.unmapPage c p.va).mapPage c (p.va - old + new) true leaf

/-- A copy's pages and the ranges of its spans at a new cache base (R223). -/
def State.rebaseCopy (s : State) (c : Nat) (x : Hand) (new : Nat) : Option (Hand × State) :=
  let own : Hand := { x with leadSpans := [] }
  match (own.pages 0).foldl (rebase c x.cacheVa new) (some s) with
  | none => none
  | some s =>
    let moved (va : Nat) : Bool := (own.pages 0).any (fun p => p.va == va)
    let s := { s with ranges := s.ranges.map (fun (r : VaRange) => if r.kind = 3 ∧ r.ctx = c ∧ moved r.base then { r with base := r.base - x.cacheVa + new } else r) }
    some ({ x with cacheVa := new, slots := x.slots.map (fun p => if moved p.1 then (p.1 - x.cacheVa + new, p.2) else p) }, s)

/-- The lead's part of a copy freed with no move where its slot can no longer be a lead: speculation is off when the hand opens (R498). -/
def State.dropLead (s : State) (n : Nat) : State :=
  if s.is (SERVE.SPEC_STATE.ENABLED n) && !s.leadOk (s.rd (SERVE.SPEC_STATE.LEAD_SLOT n)) then
    let x := s.hand n
    let gone := ({ x with spans := [] } : Hand).pages n
    let s := (s.leadFree n).setHand n { (s.leadFree n).hand n with slots := x.slots.filter (fun p => !gone.any (fun q => q.va == p.1)) }
    s.wr (SERVE.SPEC_STATE.ENABLED n) 0
  else s

/-- The copy taken into a hand, whose pages start moving back (R223). -/
def State.takeCopy (s : State) (c : Cmd) (n e : Nat) (x : Hand) (k : Kitty) : State :=
  let s := s.setKitty e { k with state := 3, hand := {}, fill := n }
  let s := (s.setHand n { x with cmd := some c.id, entry := e, aborted := false }).setHandWord n k.word
  let s := (s.setSpecWord n k.spec).wr (SERVE.HAND_STATE.CLASS n) (s.rd (SCHED.CTX_STATE.CLASS c.context))
  (((s.dropLead n).bringBack n 7).toHandState n 7).start c.id []

/-- UNPARK (R223): it waits while the copy is FILLING or TAKING, and for pages that are on their way to the pool. -/
def unpark (s : State) (c : Cmd) : State :=
  match s.handleEntry (c.p 1), (if c.flag6 then s.freeHand else some c.hand) with
  | some e, some n =>
    let k := s.kittyAt e
    if k.state = 4 then (s.kittyEmpty e).failWith c.id stFaulted 0x0505
    else if k.state ≠ 2 then s
    else
      let cls := s.rd (SCHED.CTX_STATE.CLASS c.context)
      let gone := bit k.spec 0 && !s.leadOk (bits k.spec 16 3)
      let pages := (({ k.hand with leadSpans := if gone then [] else k.hand.leadSpans } : Hand).pages n).length
      let want := if pages = 0 then 0 else pages + s.keepFor cls
      let s := if want ≤ s.poolRoom then s else evictUntil want [] 64 (reclaim want 1024 s)
      if s.poolRoom < want then
        if want ≤ s.poolRoom + s.leaving then s else (s.bump SERVE.CACHE_EVENTS.REFUSED 1).failWith c.id stNoResource 0x0801
      else if c.p 2 = 0 then s.takeCopy c n e k.hand k
      else match s.rebaseCopy c.context k.hand (c.p 2) with
        | some (x, t) => t.takeCopy c n e x k
        | none => s.failWith c.id stNoResource 0x0801
  | _, _ => s

/-- UNPARK (R223). -/
def execUnpark (k : Nat) (s : State) : Host.Outcome State Fault Refusal := .next (s.runHand k 0x45 always checkUnpark lateUnpark unpark)

/-- UNPARK_COMPLETE (Tables 9-1 and 9-4): the last page is back. -/
def unparkComplete (n : Nat) (s : State) : State :=
  if s.handState n = 7 ∧ s.handMoves n = false then
    let x := s.hand n
    let s := ((s.setHand n { x with cmd := none }).kittyEmpty x.entry).bump SERVE.PARK_EVENTS.UNPARKS 1
    let s := s.toHandState n 1
    match x.cmd with
    | some c => s.doneWith c n (s.rd (SERVE.HAND_STATE.COMMITTED n)) 0
    | none => s
  else s

/-- UNPARK_COMPLETE (R208). -/
def execUnparkComplete (hand : Nat) (s : State) : Host.Outcome State Fault Refusal := .next (unparkComplete hand s)

/-- KITTY_EXPIRY (R222): Bimon, while it runs, frees a copy at the first tick boundary at or after the end of its time to live. -/
def kittyExpiry (e : Nat) (s : State) : State :=
  let k := s.kittyAt e
  if !s.tickFrom k.ends then s
  else if k.state = 2 then (s.kittyFree e).bump SERVE.PARK_EVENTS.EXPIRED 1
  else if k.state = 4 then s.kittyEmpty e
  else s

/-- KITTY_EXPIRY (R222). -/
def execKittyExpiry (entry : Nat) (s : State) : Host.Outcome State Fault Refusal := .next (kittyExpiry entry s)

end Sys2Proof.Machine
end

