-- ==== Sys2Proof/Machine/Prefixes.lean ====
section
/-! DEFINITION. Speculation's settings (R235), the prefix index and its entries (R236–R244), and variants (R245, R248). -/

namespace Sys2Proof.Machine

open Sys2Proof

/-! SPEC_CONFIG (R229, R235). -/

/-- LEAD_SLOT. -/
def Cmd.leadSlot (c : Cmd) : Nat := bits (c.p 0) 12 3
/-- MAX_DEPTH. -/
def Cmd.maxDepth (c : Cmd) : Nat := bits (c.p 0) 8 4

/-- The checks of SPEC_CONFIG that its words allow (Table 10-7). -/
def checkSpecConfig (s : State) (c : Cmd) : Option (Nat × Nat) := firstBad [
  (s.ctxBad .owned c, stBadContext, 0),
  (!onlyBits (c.p 0) 0x7F7F || decide (2 ^ 57 ≤ c.p 1) || !c.restZero 2, stBadParam, 0x0A35),
  (if c.flag6 then c.maxDepth == 0 || decide (8 < c.maxDepth) else c.p 1 != 0, stBadParam, 0x0A01),
  (c.flag6 && !s.leadOk c.leadSlot, stBadParam, 0x0A02)]

/-- What the hand settles for SPEC_CONFIG. -/
def lateSpecConfig (s : State) (c : Cmd) : Option (Nat × Nat) :=
  let n := c.hand
  let bytes := (s.hand n).allow * spanBytes (s.slot c.leadSlot).attnLayers
  firstBad [
    (s.handState n != 1 || s.handCtx n != c.context || s.is (SERVE.HAND_STATE.RING n) || (c.flag6 && s.rd (SERVE.HAND_STATE.COMMITTED n) != 0),
      stBadParam, 0x0A03),
    (c.flag6 && (c.p 1 % 0x20_0000 != 0 || decide (2 ^ 57 < c.p 1 + bytes) || !s.unmapped c.context (c.p 1) bytes), stBadParam, 0x0A04),
    (c.flag6 && !s.poolHas (s.rd (SERVE.HAND_STATE.CLASS n)) (spanPages (s.slot c.leadSlot).attnLayers), stNoResource, 0x0A22)]

/-- SPEC_CONFIG (R235): enabled, the depth is MAX_DEPTH and every count 0; disabled, the lead spans are freed. -/
def specConfig (s : State) (c : Cmd) : State :=
  let n := c.hand
  let s := s.leadFree n
  let w := s.specWord n
  let keep := w / 2 ^ 19 * 2 ^ 19
  if c.flag6 then
    let l := (s.slot c.leadSlot).attnLayers
    let s := s.setHand n { s.hand n with leadVa := c.p 1, leadLayers := l, maxDepth := c.maxDepth }
    ((s.setSpecWord n (keep + 1 + c.maxDepth * 2 + c.leadSlot * 2 ^ 16)).serveRegs).doneWith c.id (spanBytes l) 0 0
  else
    let l := (s.hand n).leadLayers
    let s := s.setHand n { s.hand n with leadVa := 0, leadLayers := 0 }
    ((s.setSpecWord n keep).serveRegs).doneWith c.id (spanBytes l) 0 0

/-- SPEC_CONFIG (R235). -/
def execSpecConfig (k : Nat) (s : State) : Host.Outcome State Fault Refusal := .next (s.runHand k 0x48 always checkSpecConfig lateSpecConfig specConfig)

/-! The index (R236–R238). -/

/-- The seed word of a context, variant and slot (R236). -/
def seedWord (c variant slot : Nat) : Nat := c % 2 ^ 10 + variant % 2 ^ 7 * 2 ^ 10 + slot % 2 ^ 3 * 2 ^ 17

/-- The chained hashes of blocks of 128 bytes (R236). -/
def chainHashes : Nat → List (List Nat) → List Nat
  | _, [] => []
  | prev, b :: r =>
    let h := leOf ((sha256 (leVals 8 prev ++ b)).take 8)
    h :: chainHashes h r

/-- The first `n` blocks of a token list's bytes. -/
def tokenBlocks (b : List Nat) (n : Nat) : List (List Nat) := (List.range n).map (fun i => (b.drop (128 * i)).take 128)

/-- A holder word (Table 10-3). -/
def holderWord (chip e gen : Nat) : Nat := chip % 2 ^ 12 + e % 2 ^ 10 * 2 ^ 12 + gen % 2 ^ 32 * 2 ^ 22

/-- A record found: the block, where it lies, and the offsets of its LAST_MATCH and holder words with that time and the holders. -/
structure IndexRec where
  block : Nat
  chip : Nat
  last : Nat
  time : Nat
  hold : Nat
  holders : List Nat
deriving DecidableEq, Repr

/-- Bytes of the index at a member's local offset, here or by fabric loads. -/
def State.indexRead (s : State) (c : Cmd) (chip off n : Nat) : List Nat × State × Bool :=
  if chip = s.chip then (nats (memBytes s.mem (devKey off) n), s, true)
  else s.farRange c.origin.who c.context 0 chip 0 off n 0

/-- Members in ascending chip order. -/
def State.indexMembers (s : State) : List Nat := riseNats s.sources

/-- Where the bucket of a hash lies: the member and the local offset (R237). -/
def State.bucketAt (s : State) (h : Nat) : Nat × Nat :=
  let ms := s.indexMembers
  let now := s.rd SERVE.PREFIX_CTL.INDEX_NOW
  let b := h % (ms.length * (32_768 * now))
  (ms.getD (b % ms.length) s.chip, indexBase now + 64 * (b / ms.length))

/-- The holding member of the tree and the offset of its index (R237). -/
def State.treeHome (s : State) : Nat × Nat := (s.indexMembers.headD s.chip, indexBase (s.rd SERVE.PREFIX_CTL.INDEX_NOW))

/-- Every bucket of the hashes read; the records that match. -/
def State.readBuckets (s : State) (c : Cmd) (hs : List Nat) : List IndexRec × State × Bool :=
  hs.zipIdx.foldl (fun (a : List IndexRec × State × Bool) p =>
    let at' := a.2.1.bucketAt p.1
    let r := a.2.1.indexRead c at'.1 at'.2 64
    let w := wordsOf 8 8 r.1
    if !r.2.2 then (a.1, r.2.1, false)
    else if wd w 0 = p.1 ∧ p.1 ≠ 0 ∧ wd w 1 % 2 ^ 16 = p.2 then (a.1 ++ [⟨p.2, at'.1, at'.2 + 16, wd w 2, at'.2 + 24, (w.drop 3).take 4⟩], r.2.1, a.2.2)
    else (a.1, r.2.1, a.2.2)) ([], s, true)

/-- Where a walk of the tree ends: the records matched, the offset of the word that heads the list searched last, and its value. -/
structure Walked where
  recs : List IndexRec
  head : Nat
  first : Nat

/-- The tree walked from a list of nodes: `head` is the offset of the word that holds the list, `first` its value. -/
def walkTree (c : Cmd) (chip seed : Nat) : Nat → Nat → Nat → Nat → Nat → List (List Nat) → State → List IndexRec → Walked × State × Bool
  | 0, head, first, _, _, _, s, acc => (⟨acc, head, first⟩, s, true)
  | fuel + 1, head, first, node, i, blocks, s, acc =>
    match blocks with
    | [] => (⟨acc, head, first⟩, s, true)
    | b :: rest =>
      if node = 0 then (⟨acc, head, first⟩, s, true)
      else
        let r := s.indexRead c chip node 192
        let w := wordsOf 8 24 r.1
        if !r.2.2 then (⟨acc, head, first⟩, r.2.1, false)
        else if r.1.take 128 = b ∧ (i ≠ 0 ∨ wd w 23 = seed) then
          let x : IndexRec := ⟨i, chip, node + 144, wd w 18, node + 152, (w.drop 19).take 4⟩
          walkTree c chip seed fuel (node + 128) (wd w 16) (wd w 16) (i + 1) rest r.2.1 (acc ++ [x])
        else walkTree c chip seed fuel head first (wd w 17) i (b :: rest) r.2.1 acc

/-- The tree walked from its root. -/
def State.readTree (s : State) (c : Cmd) (seed : Nat) (blocks : List (List Nat)) : Walked × State × Bool :=
  let home := s.treeHome
  let r := s.indexRead c home.1 home.2 64
  if !r.2.2 then (⟨[], home.2, 0⟩, r.2.1, false)
  else
    let first := wd (wordsOf 8 8 r.1) 0
    walkTree c home.1 seed (10_923 * s.rd SERVE.PREFIX_CTL.INDEX_NOW + 1) home.2 first first 0 blocks r.2.1 []

/-- The records of a block sequence: matched ones, and whether every load has come. -/
def State.readIndex (s : State) (c : Cmd) (seed : Nat) (blocks : List (List Nat)) : List IndexRec × State × Bool :=
  if s.is SERVE.PREFIX_CTL.FORM then s.readBuckets c (chainHashes seed blocks)
  else let r := s.readTree c seed blocks; (r.1.recs, r.2.1, r.2.2)

/-- Whether a holder is live: one of this module is compared with its entry's generation; another member's is taken free, no rule
saying how its generation is read (R238). -/
def State.holderLive (s : State) (block w : Nat) : Bool :=
  if w = 0 then false
  else if w % 2 ^ 12 = s.chip then
    let e := s.entryAt (bits w 12 10)
    e.live && e.gen == bits w 22 32
  else Config.freeChoice (s.freeCtr + block) % 2 == 1

/-! PREFIX_LOOKUP (R243). -/

/-- The hand's part of the checks of both prefix commands (0x0A11). -/
def State.prefixHandBad (s : State) (c : Cmd) : Bool :=
  s.handState c.hand != 1 || s.handCtx c.hand != c.context || s.is (SERVE.HAND_STATE.RING c.hand)

/-- The checks of PREFIX_LOOKUP that its words allow (Table 10-7). -/
def checkPrefixLookup (s : State) (c : Cmd) : Option (Nat × Nat) := firstBad [
  (s.ctxBad .owned c, stBadContext, 0),
  (!onlyBits (c.p 0) 0xFFFF_007F || decide (2 ^ 57 ≤ c.p 1) || !c.restZero 2, stBadParam, 0x0A35),
  (decide (c.count < 33), stBadParam, 0x0A13),
  (c.p 1 % 64 != 0 || !s.mappedAll c.context (c.p 1) (4 * c.count), stBadParam, 0x0A14)]

/-- What the hand and the index settle for PREFIX_LOOKUP. -/
def latePrefixLookup (s : State) (c : Cmd) : Option (Nat × Nat) := firstBad [
  (s.prefixHandBad c, stBadParam, 0x0A11),
  (c.flag6 && s.rd (SERVE.HAND_STATE.COMMITTED c.hand) != 0, stBadParam, 0x0A12),
  (s.rd SERVE.PREFIX_CTL.INDEX_NOW == 0, stNoResource, 0x0A23)]

/-- Blocks in a row, from the first, whose tokens equal those that an entry keeps. -/
def Entry.run (x : Entry) (blocks : List (List Nat)) : Nat :=
  (((tokenBlocks x.tokens x.blocks).zip blocks).takeWhile (fun p => p.1 == p.2)).length

/-- The live entries of this module that a record names. -/
def State.heldHere (s : State) (r : IndexRec) : List Nat :=
  (r.holders.filter (fun w => w % 2 ^ 12 == s.chip && s.holderLive r.block w)).map (fun w => bits w 12 10)

/-- The local match: the entries of this module named in the records that run longest, with the length. -/
def State.localMatch (s : State) (n : Nat) (blocks : List (List Nat)) (recs : List IndexRec) : Nat × List Nat :=
  let named := riseNats (recs.flatMap s.heldHere)
  let ok (e : Nat) : Bool := !s.is (SERVE.SPEC_STATE.ENABLED n) || (s.entryAt e).lead == some (s.rd (SERVE.SPEC_STATE.LEAD_SLOT n))
  let runs := (named.filter ok).map (fun e => (e, (s.entryAt e).run blocks))
  let best := runs.foldl (fun m p => max m p.2) 0
  (best, if best = 0 then [] else (runs.filter (fun p => p.2 == best)).map Prod.fst)

/-- The remote match: the deepest block with a live holder, and the chips that hold it. -/
def State.remoteMatch (s : State) (recs : List IndexRec) : Nat × List Nat :=
  let live := recs.map (fun r => (r.block + 1, (r.holders.filter (s.holderLive r.block)).map (· % 2 ^ 12)))
  let best := live.foldl (fun m p => if p.2.isEmpty then m else max m p.1) 0
  (best, (live.filter (fun p => p.1 == best)).flatMap Prod.snd)

/-- A word of the index written: here, or at another member by a SWAP. -/
def State.indexWrite (s : State) (c : Cmd) (chip off v : Nat) : State :=
  if chip = s.chip then s.store (devKey off) 8 v
  else s.remoteAtomic chip off 0x13 1 (leVals 8 v ++ List.replicate 56 0) c.context 0 c.origin.who

/-- LAST_MATCH of a block's record noted for an entry (R241). -/
def State.noteMatch (s : State) (e block time : Nat) : State :=
  let y := s.entryAt e
  { s with entries := aPut s.entries e { y with times := aPut y.times block time } }

/-- LAST_MATCH written in every matched record, and noted for the entries that the records name (R241, R243). -/
def State.matchedNow (s : State) (c : Cmd) (recs : List IndexRec) : State :=
  recs.foldl (fun (t : State) r => ((t.heldHere r).foldl (fun (u : State) e => u.noteMatch e r.block s.timeBase) t).indexWrite c r.chip r.last s.timeBase) s

/-- A hand attached to an entry with `k` blocks (R240, R243). -/
def State.attach (s : State) (n e k : Nat) : State :=
  let x := s.hand n
  let s := s.setHand n { x with prefixLen := 32 * k, leadLen := (if s.is (SERVE.SPEC_STATE.ENABLED n) then 32 * k else x.leadLen) }
  let s := s.wrs [(SERVE.SPEC_STATE.ATTACHED n, 1), (SERVE.SPEC_STATE.ENTRY n, e), (SERVE.HAND_STATE.COMMITTED n, 32 * k), (SERVE.HAND_STATE.PENDING n, 0)]
  (s.bump SERVE.PREFIX_EVENTS.ATTACHES 1).serveRegs

/-- PREFIX_LOOKUP (R243): the tokens, then the records, are read as far as their loads have come; then all at once. -/
def prefixLookup (s : State) (c : Cmd) : State :=
  let n := c.hand
  s.withBytes c (c.p 1) (4 * c.count) (fun s b =>
    let blocks := tokenBlocks b ((c.count - 1) / 32)
    let seed := seedWord c.context (s.rd (SERVE.SPEC_STATE.VARIANT n)) (s.ctxSlot c.context)
    let r := s.readIndex c seed blocks
    if !r.2.2 then r.2.1
    else
      let s := r.2.1
      let loc := s.localMatch n blocks r.1
      let rem := s.remoteMatch r.1
      let s := { s with freeCtr := s.freeCtr + blocks.length + 2 }
      let e := (loc.2[s.chooseBelow loc.2.length]?).getD 0
      let chip := (rem.2[s.chooseBelow rem.2.length]?).getD 0
      let s := s.took.bump SERVE.PREFIX_EVENTS.LOOKUPS 1
      let on := c.flag6 && decide (1 ≤ loc.1)
      let s := if on then (s.attach n e loc.1).matchedNow c r.1 else s
      s.doneAfter c (loc.1 + e * 2 ^ 16 + b2n on * 2 ^ 26) (rem.1 + chip * 2 ^ 16) 0)

/-- PREFIX_LOOKUP (R243). -/
def execPrefixLookup (k : Nat) (s : State) : Host.Outcome State Fault Refusal :=
  .next (s.runHand k 0x46 always checkPrefixLookup latePrefixLookup prefixLookup)

/-! PREFIX_INSERT (R244). -/

/-- The checks of PREFIX_INSERT, REMOVE or not, that its words allow. -/
def checkPrefixInsert (s : State) (c : Cmd) : Option (Nat × Nat) :=
  let x := s.entryAt (c.p 2 % 2 ^ 10)
  firstBad [
    (s.ctxBad .owned c, stBadContext, 0),
    (!onlyBits (c.p 0) 0xFFFF_007F || decide (2 ^ 57 ≤ c.p 1) || decide ((if c.flag6 then 2 ^ 10 else 2 ^ 57) ≤ c.p 2) || !c.restZero 3, stBadParam, 0x0A35),
    (if c.flag6 then !x.live || x.ctx != c.context else c.count == 0, stBadParam, 0x0A13),
    (!c.flag6 && (c.p 1 % 64 != 0 || c.p 2 % 0x20_0000 != 0 || !s.mappedAll c.context (c.p 1) (128 * c.count)), stBadParam, 0x0A14)]

/-- Spans that hold so many blocks. -/
def blockSpans (blocks : Nat) : Nat := ceilDiv (32 * blocks) 2048

/-- Layers of the lead whose cache an insertion copies as well. -/
def State.leadOf (s : State) (n : Nat) : Nat := if s.is (SERVE.SPEC_STATE.ENABLED n) then (s.hand n).leadLayers else 0

/-- What the hand and the index settle for PREFIX_INSERT. -/
def latePrefixInsert (s : State) (c : Cmd) : Option (Nat × Nat) :=
  let n := c.hand
  let bytes := blockSpans c.count * (spanBytes (s.hand n).layers + spanBytes (s.leadOf n))
  firstBad [
    (s.prefixHandBad c, stBadParam, 0x0A11),
    (decide (s.rd (SERVE.HAND_STATE.COMMITTED n) / 32 < c.count), stBadParam, 0x0A13),
    (decide (2 ^ 57 < c.p 2 + bytes) || !s.unmapped c.context (c.p 2) bytes, stBadParam, 0x0A14),
    (s.rd SERVE.PREFIX_CTL.INDEX_NOW == 0, stNoResource, 0x0A23)]

/-- The pages of an entry's spans allocated, neither writable nor global, pinned, on the dies of R239. -/
def entrySpans (c e base l kind : Nat) : Nat → Nat → State → Option State
  | 0, _, s => some s
  | n + 1, i, s =>
    match allocPages c 5 false true (spanCache base l i e) s with
    | none => none
    | some t =>
      let rs := (spanCache base l i e).map (fun p => (⟨c, p.va, 0x20_0000, kind, e⟩ : VaRange))
      entrySpans c e base l kind n (i + 1) { t with ranges := rs ++ t.ranges }

/-- Positions `lo` to `hi` of one layer's latents or keys copied between caches, span by span. -/
def State.copyLayer (s : State) (c src dst l layer lo hi : Nat) : State :=
  (List.range ((hi + 2047) / 2048)).foldl (fun (t : State) i =>
    let a := max lo (2048 * i)
    let b := min hi (2048 * (i + 1))
    if b ≤ a then t
    else
      let cp (t : State) (page at' n : Nat) : State :=
        match t.keyAt c (spanVa src l i page + at'), t.keyAt c (spanVa dst l i page + at') with
        | some x, some y => t.copy y x n
        | _, _ => t
      (cp (cp t layer (a % 2048 * 1024) ((b - a) * 1024)) (l + layer / 10) (layer % 10 * 196_608 + a % 2048 * 96) ((b - a) * 96))) s

/-- Positions 0 to `hi` of a cache copied, those below `p` from another source (R244). -/
def State.copyCache (s : State) (c own pre p dst l hi : Nat) : State :=
  (List.range l).foldl (fun (t : State) layer => (t.copyLayer c pre dst l layer 0 (min p hi)).copyLayer c own dst l layer (min p hi) hi) s

/-- A live entry of this module that already holds the tokens of so many blocks, for the same context, variant and slot. -/
def State.sameEntry (s : State) (c : Cmd) (variant slot : Nat) (blocks : List (List Nat)) : Option Nat :=
  (s.entries.find? (fun e => e.2.live && e.2.ctx == c.context && e.2.variant == variant && e.2.slot == slot &&
    decide (blocks.length ≤ e.2.run blocks))).map Prod.fst

/-- An entry number that is free; which one the spec leaves open. -/
def State.freeEntry (s : State) : Option Nat :=
  let l := (List.range 1024).filter (fun e => !(s.entryAt e).live)
  l[s.chooseBelow l.length]?

/-- The new entry made: pages, copy and tokens; its command goes on to the records. -/
def State.makeEntry (s : State) (c : Cmd) (e variant slot : Nat) (tokens : List Nat) : Option State :=
  let n := c.hand
  let x := s.hand n
  let ll := s.leadOf n
  let k := blockSpans c.count
  let leadVa := c.p 2 + k * spanBytes x.layers
  match entrySpans c.context e (c.p 2) x.layers 5 k 0 s with
  | none => none
  | some t =>
    match entrySpans c.context e leadVa ll 5 (if ll = 0 then 0 else k) 0 t with
    | none => none
    | some t =>
      let a := s.entryAt (s.rd (SERVE.SPEC_STATE.ENTRY n))
      let t := t.copyCache c.context x.cacheVa a.va x.prefixLen (c.p 2) x.layers (32 * c.count)
      let t := t.copyCache c.context x.leadVa (a.va + a.spans * spanBytes a.layers) x.prefixLen leadVa ll (32 * c.count)
      let y : Entry := {
        live := true, gen := (s.entryAt e).gen, ctx := c.context, variant := variant, slot := slot, va := c.p 2, blocks := c.count, tokens := tokens,
        lead := (if s.is (SERVE.SPEC_STATE.ENABLED n) then some (s.rd (SERVE.SPEC_STATE.LEAD_SLOT n)) else none), spans := k,
        leadSpans := (if ll = 0 then 0 else k), layers := x.layers, leadLayers := ll }
      some ({ t.took with entries := aPut t.entries e y }.serveRegs)

/-- How one block's record is to be changed: the member, the word compared and swapped with its old and new value, the record's
LAST_MATCH, and what is written before and after. -/
structure RecPlan where
  chip : Nat
  off : Nat
  old : Nat
  new : Nat
  time : Nat
  pre : List (Nat × List Nat) := []
  post : List (Nat × Nat) := []
deriving DecidableEq, Repr

/-- What a block's record calls for. -/
inductive Plan where
  | wait (s : State)
  | skip (s : State)
  | go (s : State) (p : RecPlan)

/-- The holder of a record that a new one replaces: a free or stale one, else that of the oldest generation (R238). -/
def State.holderSlot (s : State) (r : IndexRec) : Nat × Nat :=
  match (r.holders.zipIdx).find? (fun p => !s.holderLive r.block p.1) with
  | some p => (p.2, p.1)
  | none =>
    (r.holders.zipIdx).foldl (fun (b : Nat × Nat) p => if bits p.1 22 32 < bits b.2 22 32 then (p.2, p.1) else b) (0, r.holders.headD 0)

/-- A matched record takes the new holder. -/
def State.holdPlan (s : State) (r : IndexRec) (w : Nat) : RecPlan :=
  let h := s.holderSlot r
  { chip := r.chip, off := r.hold + 8 * h.1, old := h.2, new := w, time := r.time }

/-- A place for a new node of the tree on its holding member: this module knows its own, another's is free. -/
def State.newNode (s : State) (chip : Nat) : Option Nat :=
  let cap := (s.rd SERVE.PREFIX_CTL.INDEX_NOW * 0x20_0000 - 64) / 192
  let hint := Config.freePlace s.freeCtr % cap
  if chip = s.chip then ((List.range (s.treeNodes.length + 1)).map (fun i => (hint + i) % cap)).find? (fun k => !s.treeNodes.contains k && decide (s.treeNodes.length < cap))
  else some hint

/-- The change of the hash table's bucket of a block (R238). -/
def State.bucketPlan (s : State) (c : Cmd) (block h w : Nat) : Plan :=
  let at' := s.bucketAt h
  let r := s.indexRead c at'.1 at'.2 64
  let x := wordsOf 8 8 r.1
  let s := r.2.1
  if !r.2.2 then .wait s
  else if wd x 0 = h ∧ h ≠ 0 ∧ wd x 1 % 2 ^ 16 = block then .go s (s.holdPlan ⟨block, at'.1, at'.2 + 16, wd x 2, at'.2 + 24, (x.drop 3).take 4⟩ w)
  else if wd x 0 ≠ 0 ∧ s.timeBase ≤ wd x 2 + 60_000_000_000 then .skip s
  else .go s {
    chip := at'.1, off := at'.2, old := wd x 0, new := h, time := Config.freeData s.freeCtr % 2 ^ 64,
    post := [(at'.2 + 8, block), (at'.2 + 16, Config.freeData s.freeCtr % 2 ^ 64), (at'.2 + 24, w), (at'.2 + 32, 0), (at'.2 + 40, 0), (at'.2 + 48, 0)] }

/-- The change of the tree for a block: its node takes the holder, or a new node heads the list it belongs to (R238). -/
def State.treePlan (s : State) (c : Cmd) (seed block w : Nat) (blocks : List (List Nat)) : Plan :=
  let r := s.readTree c seed (blocks.take (block + 1))
  let s := r.2.1
  let home := s.treeHome
  if !r.2.2 then .wait s
  else match r.1.recs.find? (fun x => x.block == block) with
    | some x => .go s (s.holdPlan x w)
    | none =>
      if r.1.recs.length ≠ block then .skip s
      else match s.newNode home.1 with
        | none => .skip s
        | some k =>
          let off := home.2 + 64 + 192 * k
          let body := (blocks.getD block []) ++ leVals 8 0 ++ leVals 8 r.1.first ++ leVals 8 (Config.freeData s.freeCtr) ++ leVals 8 w ++
            List.replicate 24 0 ++ leVals 8 (if block = 0 then seed else 0)
          let s := if home.1 = s.chip then { s with treeNodes := k :: s.treeNodes } else s
          .go s { chip := home.1, off := r.1.head, old := r.1.first, new := off, time := Config.freeData s.freeCtr % 2 ^ 64, pre := [(off, body)] }

/-- The change one block's record calls for. -/
def State.blockPlan (s : State) (c : Cmd) (seed block w : Nat) (blocks : List (List Nat)) : Plan :=
  if s.is SERVE.PREFIX_CTL.FORM then s.bucketPlan c block ((chainHashes seed blocks).getD block 0) w else s.treePlan c seed block w blocks

/-- The progress of an insertion: entry, next block, blocks skipped, bytes copied, tries at this block, and, once its
compare-and-swap is sent, the value it expects, the member, the record's LAST_MATCH and what is written after it. -/
def insertAux (e i skips bytes tries : Nat) (sent : List Nat) : List Nat := [8, e, i, skips, bytes, tries] ++ sent

/-- The records of an insertion written block by block, as far as answers from other members allow (R238, Table 10-8). -/
def insertOn (c : Cmd) (seed : Nat) (blocks : List (List Nat)) (e bytes : Nat) : Nat → Nat → Nat → State → State
  | 0, _, _, s => s
  | fuel + 1, i, skips, s =>
    let gen := (s.entryAt e).gen
    if blocks.length ≤ i then
      (((s.dropGot c.origin.who).bump SERVE.PREFIX_EVENTS.SKIPS skips).cmdMap c.id (fun x => { x with aux := [] })).doneAfter c (e + gen * 2 ^ 10) bytes skips
    else
      let aux := ((s.cmdOf c.id).map Cmd.aux).getD []
      let tries := aux.getD 5 0
      let who : Parked := ⟨1, c.id, 4, i⟩
      let next (s : State) (k : Nat) : State := insertOn c seed blocks e bytes fuel (i + 1) (skips + k) (((s.dropGot c.origin.who).took).cmdMap c.id (fun x => { x with aux := insertAux e (i + 1) (skips + k) bytes 0 [] }))
      match aux.drop 6 with
      | [] =>
        match s.blockPlan c seed i (holderWord s.chip e gen) blocks with
        | .wait t => t
        | .skip t => next t 1
        | .go t p =>
          if p.chip = t.chip then
            let t := p.pre.foldl (fun (u : State) q => u.storeBytes (devKey q.1) (toBytes q.2)) t
            next ((p.post.foldl (fun (u : State) q => u.store (devKey q.1) 8 q.2) (t.store (devKey p.off) 8 p.new)).noteMatch e i p.time) 0
          else
            let t := p.pre.foldl (fun (u : State) q => u.remoteWrite c.origin c.context 0 p.chip 0 q.1 q.2) t
            let t := t.remoteAtomic p.chip p.off 0x14 1 (leVals 8 p.old ++ leVals 8 p.new ++ List.replicate 48 0) c.context 0 who
            t.cmdMap c.id (fun x => { x with aux := insertAux e i skips bytes tries (p.old :: p.chip :: p.time :: p.post.flatMap (fun q => [q.1, q.2])) })
      | old :: chip :: time :: post =>
        match s.fabric.got.find? (fun g => g.who == who) with
        | none => s
        | some g =>
          if leOf (g.bytes.take 8) = old then
            next (((List.range (post.length / 2)).foldl (fun (u : State) k => u.indexWrite c chip (post.getD (2 * k) 0) (post.getD (2 * k + 1) 0)) s).noteMatch e i time) 0
          else if tries = 0 then (s.dropGot c.origin.who).cmdMap c.id (fun x => { x with aux := insertAux e i skips bytes 1 [] })
          else next s 1
      | _ => s

/-- PREFIX_INSERT (R244): an entry that already holds the tokens is named; else a new one is made and its records written. -/
def prefixInsert (s : State) (c : Cmd) : State :=
  let n := c.hand
  s.withBytes c (c.p 1) (128 * c.count) (fun s b =>
    let s := s.dropGot c.origin.who
    let v := s.rd (SERVE.SPEC_STATE.VARIANT n)
    let slot := s.ctxSlot c.context
    let blocks := tokenBlocks b c.count
    match s.sameEntry c v slot blocks with
    | some e => s.doneWith c.id (e + (s.entryAt e).gen * 2 ^ 10) 0 0
    | none =>
      match s.freeEntry with
      | none => s.failWith c.id stNoResource 0x0A21
      | some e =>
        let pages := blockSpans c.count * (spanPages (s.hand n).layers + (if s.is (SERVE.SPEC_STATE.ENABLED n) then spanPages (s.hand n).leadLayers else 0))
        if !s.poolHas (s.rd (SERVE.HAND_STATE.CLASS n)) pages then s.failWith c.id stNoResource 0x0A22
        else match s.took.makeEntry c e v slot b with
          | none => s.failWith c.id stNoResource 0x0A22
          | some t =>
            let bytes := 32 * c.count * 1120 * ((s.hand n).layers + s.leadOf n)
            insertOn c (seedWord c.context v slot) blocks e bytes (2 * c.count + 2) 0 0 (t.start c.id (insertAux e 0 0 bytes 0 [])))

/-- A PREFIX_INSERT whose records are being written goes on. -/
def prefixGoOn (k : Nat) (s : State) : State :=
  match s.cmdRunning k with
  | none => s
  | some c =>
    if c.opcode ≠ 0x47 ∨ c.aux.headD 0 ≠ 8 then s
    else
      let e := c.aux.getD 1 0
      let x := s.entryAt e
      insertOn c (seedWord c.context x.variant x.slot) (tokenBlocks x.tokens x.blocks) e (c.aux.getD 4 0) (2 * x.blocks + 2) (c.aux.getD 2 0) (c.aux.getD 3 0) s

/-- PREFIX_INSERT (R244). -/
def execPrefixInsert (k : Nat) (s : State) : Host.Outcome State Fault Refusal :=
  .next (if (s.cmdRunning k).isSome then prefixGoOn k s else s.runHand k 0x47 (fun c => !c.flag6) checkPrefixInsert latePrefixInsert prefixInsert)

/-- PREFIX_INSERT with REMOVE (R241): a named entry that nothing is attached to is freed. -/
def prefixRemove (s : State) (c : Cmd) : State :=
  let e := c.p 2 % 2 ^ 10
  if s.entryRefs e ≠ 0 then s.failWith c.id stBusyRetry 0 else (s.entryFree e).doneWith c.id 0 0 0

/-- PREFIX_INSERT with REMOVE (R241). -/
def execPrefixRemove (k : Nat) (s : State) : Host.Outcome State Fault Refusal := .next (s.runCmd k 0x47 Cmd.flag6 checkPrefixInsert prefixRemove)

/-! VARIANT_BIND (R245, R248). -/

/-- OP of VARIANT_BIND. -/
def Cmd.vOp (c : Cmd) : Nat := bits (c.p 0) 0 2
/-- HAND of VARIANT_BIND. -/
def Cmd.vHand (c : Cmd) : Nat := bits (c.p 0) 2 6
/-- VARIANT. -/
def Cmd.variant (c : Cmd) : Nat := bits (c.p 0) 8 7

/-- The checks of VARIANT_BIND that its words allow (Table 10-7). -/
def checkVariant (s : State) (c : Cmd) : Option (Nat × Nat) := firstBad [
  (s.ctxBad .owned c, stBadContext, 0),
  (!onlyBits (c.p 0) 0xFFF_7FFF || decide (2 ^ 57 ≤ c.p 1) || !c.restZero 2, stBadParam, 0x0A35),
  (c.vOp == 3 || decide (64 < c.variant) || (c.vOp != 0 && c.variant == 0), stBadParam, 0x0A31),
  (c.vOp == 1 && (bits (c.p 0) 16 12 == 0 || c.p 1 % 64 != 0), stBadParam, 0x0A32),
  (c.vOp != 1 && c.variant != 0 && (s.variantOf (s.ctxSlot c.context) c.variant).isNone, stBadParam, 0x0A34),
  (c.vOp == 1 && (s.variantOf (s.ctxSlot c.context) c.variant).isSome, stBadParam, 0x0A34),
  (c.vOp == 1 && decide (64 ≤ s.variants.length), stNoResource, 0)]

/-- What the hand settles for OP 0. -/
def lateBind (s : State) (c : Cmd) : Option (Nat × Nat) := firstBad [
  (s.handState c.vHand != 1 || s.handCtx c.vHand != c.context || s.rd (SERVE.HAND_STATE.COMMITTED c.vHand) != 0, stBadParam, 0x0A33)]

/-- VARIANT_BIND with OP 0: the hand bound. -/
def variantBind (s : State) (c : Cmd) : State :=
  let n := c.vHand
  let s := s.setHand n { s.hand n with variantSlot := s.ctxSlot c.context }
  ((s.wr (SERVE.SPEC_STATE.VARIANT n) c.variant).serveRegs).doneWith c.id 0 0 0

/-- VARIANT_BIND, OP 0 (R248). -/
def execVariantBind (k : Nat) (s : State) : Host.Outcome State Fault Refusal :=
  .next (s.runHand k 0x49 (fun c => c.vOp == 0) checkVariant lateBind variantBind)

/-- Whether a delta descriptor is as Table 10-5 and R245 have it, its bitmaps aside. -/
def State.descOk (s : State) (slot : Nat) (w : List Nat) : Bool :=
  match (s.slot slot).matrices.find? (fun m => wd m 0 == bits (wd w 0) 0 24) with
  | none => false
  | some m =>
    let rank := bits (wd w 0) 25 3
    let n := bits (wd w 1) 0 40
    decide (wd w 0 < 2 ^ 28) && decide (rank ≤ 4) && decide (wd w 1 < 2 ^ 40) && decide (1 ≤ n) && decide (16 * n ≤ wd m 2 * wd m 3) && wd m 5 != 0 &&
      decide (wd w 2 < 2 ^ 57) && decide (wd w 3 < 2 ^ 57) && decide (wd w 4 < 2 ^ 57) && decide (wd w 5 < 2 ^ 57) && wd w 6 == 0 && wd w 7 == 0 &&
      (rank != 0 || (wd w 4 == 0 && wd w 5 == 0))

/-- Bytes of a matrix's bitmaps: one bit a weight. -/
def State.bitmapBytes (s : State) (slot : Nat) (w : List Nat) : Nat :=
  match (s.slot slot).matrices.find? (fun m => wd m 0 == bits (wd w 0) 0 24) with
  | none => 0
  | some m => 4 * ceilDiv (wd m 2 * wd m 3) 32

/-- The descriptors checked one by one, each with its bitmaps read. -/
def checkDescs (c : Cmd) (slot : Nat) : List (List Nat) → State → (State → State) → State
  | [], s, k => k s
  | w :: r, s, k =>
    if !s.descOk slot w then s.failWith c.id stBadParam 0x0A32
    else s.withBytes c (bits (wd w 2) 0 57) (s.bitmapBytes slot w) (fun s b =>
      if (b.map bitCount).sum = bits (wd w 1) 0 40 then checkDescs c slot r s k else s.failWith c.id stBadParam 0x0A32)

/-- VARIANT_BIND with OP 1: the descriptor table read and checked, the variant registered for the slot that runs the context. -/
def variantRegister (s : State) (c : Cmd) : State :=
  let slot := s.ctxSlot c.context
  let n := bits (c.p 0) 16 12
  s.withBytes c (c.p 1) (64 * n) (fun s b =>
    let ds := (List.range n).map (fun i => wordsOf 8 8 (b.drop (64 * i)))
    checkDescs c slot ds s (fun s =>
      let v : Variant := { no := c.variant, ctx := c.context, slot := slot, descs := ds }
      ({ s.dropGot c.origin.who with variants := s.variants ++ [v] }.serveRegs).doneWith c.id 0 0 0))

/-- VARIANT_BIND, OP 1 (R248). -/
def execVariantRegister (k : Nat) (s : State) : Host.Outcome State Fault Refusal :=
  .next (s.runCmd k 0x49 (fun c => c.vOp == 1) checkVariant variantRegister)

/-- Whether a hand or a parked copy is bound to a variant. -/
def State.variantBound (s : State) (slot no : Nat) : Bool :=
  handNos.any (fun n => s.handState n != 0 && s.rd (SERVE.SPEC_STATE.VARIANT n) == no && (s.hand n).variantSlot == slot) ||
    s.kitty.any (fun k => k.2.state == 2 && specVariant k.2.spec == no && k.2.hand.variantSlot == slot)

/-- VARIANT_BIND with OP 2: a variant that nothing is bound to removed. -/
def variantRemove (s : State) (c : Cmd) : State :=
  let slot := s.ctxSlot c.context
  if s.variantBound slot c.variant then s.failWith c.id stBusyRetry 0
  else ({ s with variants := s.variants.filter (fun v => !(v.slot == slot && v.no == c.variant)) }.serveRegs).doneWith c.id 0 0 0

/-- VARIANT_BIND, OP 2 (R248). -/
def execVariantRemove (k : Nat) (s : State) : Host.Outcome State Fault Refusal := .next (s.runCmd k 0x49 (fun c => c.vOp == 2) checkVariant variantRemove)

end Sys2Proof.Machine
end

