-- ==== Sys2Proof/Machine/Retire.lean ====
section
/-! DEFINITION. A verified repair swapped in (R340), and MODEL_RETIRE (R332, Table 14-1). -/

namespace Sys2Proof.Machine

open Sys2Proof

/-- REPAIR_SWAP (R340): the first verified repair of a slot, while no step of a context that the slot runs is in progress. -/
def repairSwap (n : Nat) (s : State) : State :=
  if s.steps.any (fun t => t.slot == n) then s
  else match (s.slot n).shards.find? (fun x => x.swapSince.isSome) with
    | some x => s.swapIn n x
    | none => s

/-- REPAIR_SWAP (R340). -/
def execRepairSwap (slot : Nat) (s : State) : Host.Outcome State Fault Refusal := .next (repairSwap slot s)

/-- Whether a slot is a lead of a hand or copy, or a variant of it is in use. -/
def State.slotInUse (s : State) (n : Nat) : Bool :=
  s.boundWords.any (fun w => bit w.2 0 && bits w.2 16 3 == n) || s.variants.any (fun v => v.slot == n && s.variantBound n v.no)

/-- The checks of MODEL_RETIRE (Table 14-5). -/
def checkModelRetire (s : State) (c : Cmd) : Option (Nat × Nat) :=
  let n := c.wSlot
  let st := s.slotState n
  firstBad [
    (s.ctxBad .device c, stBadContext, 0),
    (decide (8 ≤ c.p 0) || !c.restZero 1, stBadParam, 0x0E11),
    (st != 1 && st != 2 && st != 3, stBadParam, 0x0E15),
    (st == 3 || s.slotInUse n, stBusyRetry, 0)]

/-- Whether a dealer or mover reads a slot's image: a launch or step runs on it, or a shard of it is being copied. -/
def State.slotRead (s : State) (n : Nat) : Bool :=
  s.launches.any (fun l => l.slot == some n && l.ended.isNone) || s.steps.any (fun t => t.slot == n) ||
    (s.slot n).shards.any (fun x => x.state == 1 || x.state == 5)

/-- A RETIRING slot emptied once nothing reads it. -/
def State.retireOn (s : State) (n k : Nat) : State := if s.slotRead n then s else (s.slotEmpty n).doneWith k 0 0 0

/-- MODEL_RETIRE (Table 14-1): a STAGING slot's windows close and MODEL_STAGE ends; a READY slot refuses new deals and loses its
variants. -/
def modelRetire (s : State) (c : Cmd) : State :=
  let n := c.wSlot
  if s.slotState n = 1 then
    let s := s.closeAll n
    let s := match (s.slot n).stageCmd with | some k => s.failWith k stJobAborted 0x0E01 | none => s
    (s.slotEmpty n).doneWith c.id 0 0 0
  else
    let s := ({ s with variants := s.variants.filter (fun v => v.slot != n) }.wr (LOAD.SLOT.STATE n) 4).serveRegs
    (s.start c.id [7]).retireOn n c.id

/-- MODEL_RETIRE (R332): a slot that is read still goes once its readers have. -/
def execModelRetire (k : Nat) (s : State) : Host.Outcome State Fault Refusal :=
  .next (match s.cmdRunning k with
    | some c => if c.opcode = 0x64 then s.retireOn c.wSlot k else s
    | none => s.runCmd k 0x64 always checkModelRetire modelRetire)

end Sys2Proof.Machine
end

