-- ==== Sys2Proof/Machine/Hosts.lean ====
section
/-! DEFINITION. The two hosts (R378–R389): link state, attachment and detachment, the loss of a host and its actions (R384), the
function's configuration space (R379–R381), MSI-X tables (R382) and the replies of lost hosts (R386). -/

namespace Sys2Proof.Machine

open Sys2Proof

/-- HOST_STATE of a port (Table 16-4): 0 ABSENT, 1 LINKED, 2 ATTACHED, 3 LOST. -/
def State.hostState (s : State) (h : Nat) : Nat := s.rd (HIF.PORT_STATUS.HOST_STATE h)

/-- An event bit of a host's HOST_EVENTS set, and its vector raised. -/
def State.hostEvent (s : State) (h : Nat) (f : Fld) : State :=
  (s.wr f 1).raiseIf h (HIF.HOST_CTL.EVENT_EN h) (HIF.HOST_CTL.EVENT_VECTOR h)

/-! A port's link and function. -/

/-- The data link layer of a port up, at a rate, width and mode. -/
def State.portUpAt (s : State) (h rate width flit : Nat) : State :=
  s.wrs [(HIF.PORT_STATUS.LINK_UP h, 1), (HIF.PORT_STATUS.RATE h, rate), (HIF.PORT_STATUS.WIDTH h, width), (HIF.PORT_STATUS.FLIT h, flit)]

/-- The data link layer of a port down. -/
def State.portDown (s : State) (h : Nat) : State :=
  s.regs0 [HIF.PORT_STATUS.LINK_UP h, HIF.PORT_STATUS.RATE h, HIF.PORT_STATUS.WIDTH h, HIF.PORT_STATUS.FLIT h]

/-- A port reset (Table 22-3): its configuration space, its MSI-X table and its link. -/
def State.portReset (s : State) (h : Nat) : State :=
  let p := s.port h
  let s := s.setPort h { perst := p.perst, training := p.training, lossRunning := p.lossRunning, kept := p.kept, orphaned := p.orphaned }
  (s.portDown h).regs0 [HIF.PORT_STATUS.BME h, HIF.PORT_STATUS.MSE h]

/-! The loss of a host (R384). -/

/-- The channels of a host. -/
def hostChans (h : Nat) : List Nat := (List.range 64).map (64 * h + ·)
/-- The rings of a host. -/
def hostRings (h : Nat) : List Nat := (List.range 128).map (128 * h + ·)

/-- A channel of a lost host: its registers reset, its packets not yet accepted discarded (R362). -/
def State.chanLost (s : State) (c : Nat) : State :=
  { s with chans := aErase s.chans c }.regs0 [CMD.CHAN_CTL.ENABLE c, CMD.CHAN_CTL.CREDIT_BATCH c, CMD.CHAN_CTL.ERR_RING c, CMD.CHAN_CTL.SEQ_BASE c,
    CMD.CHAN_CTL.GAP_US c, CMD.CHAN_CREDIT.ADDR c, CMD.CHAN_SIGNAL.ADDR c, CMD.CHAN_STATUS.EXPECT c, CMD.CHAN_STATUS.HELD c,
    CMD.CHAN_STATUS.QUEUED c, CMD.CHAN_STATUS.HOLDING c, CMD.CHAN_STATUS.DONE_COUNT c]

/-- The fields that a ring in device memory keeps until its host is next ATTACHED (R384, item 6). -/
def ringKept (r : Nat) : List Fld :=
  [CMD.RING_BASE.BASE r, CMD.RING_CTL.LOG2_SIZE r, CMD.RING_CTL.DEVICE r, CMD.RING_TAIL.TAIL r, CMD.RING_HEAD.HEAD r]

/-- A ring of a lost host: its held replies dropped, its registers reset but for what a ring in device memory keeps. -/
def State.ringLost (s : State) (r : Nat) : State :=
  let s := s.ringDrop r
  let s := s.regs0 [CMD.RING_CTL.ENABLE r, CMD.RING_CTL.VECTOR_EN r, CMD.RING_CTL.VECTOR r, CMD.RING_SHADOW.ADDR r]
  if s.is (CMD.RING_CTL.DEVICE r) then
    s.setPort (r / 128) { s.port (r / 128) with kept := (s.port (r / 128)).kept ++ [r] }
  else s.regs0 (ringKept r)

/-- The leaves of a context that are homed in a host's memory and not moving become POISONED (R384, Table 5-13). -/
def State.poisonHost (h : Nat) (s : State) (c : Nat) : State :=
  ((s.leaves c).filter (fun l => lfTier l.2.2 == 2 + h && lfChip l.2.2 == s.chip && (lfState l.2.2 == 0 || lfState l.2.2 == 3))).foldl
    (fun (t : State) l => t.setLeaf c l.1 (lfWithState l.2.2 3)) s

/-- Hands whose pages a host holds become LOST, and kitty copies likewise (Table 9-1, Table 9-4). -/
def State.cachesLost (s : State) (h : Nat) : State :=
  let s := (handNos.filter (fun n => !(s.hand n).slots.isEmpty && (s.hand n).host == h)).foldl (fun (t : State) n => t.handLost n false) s
  (s.kitty.filter (fun k => (k.2.state == 1 || k.2.state == 2) && !k.2.hand.slots.isEmpty && k.2.hand.host == h)).foldl
    (fun (t : State) k => t.kittyLost k.1) s

/-- Whether a command of a hand has not begun, or is a STEP or PREFILL_CHUNK that no running step holds (Table 9-7). -/
def State.notInStep (s : State) (c : Cmd) : Bool :=
  decide (0x40 ≤ c.opcode) && decide (c.opcode ≤ 0x45) && c.status.isNone &&
    (!c.started || ((c.opcode == 0x42 || c.opcode == 0x43) && !s.steps.any (fun t => t.items.any (fun i => i.cmd == c.id))))

/-- The accepted commands of a lost host (R362, Table 9-7): those of hands that no step holds are discarded, the rest run on. -/
def State.cmdsLost (s : State) (h : Nat) : State :=
  { s with cmds := (s.cmds.filter (fun c => !(c.src == h && s.notInStep c))).map (fun (c : Cmd) => if c.src = h then { c with gone := true } else c) }

/-- Contexts of a lost host become ORPHANED (Table 11-3). -/
def State.orphan (s : State) (h : Nat) : State :=
  let l := (s.ctxs.map Prod.fst).filter (fun c => s.rd (SCHED.CTX_STATE.LIFE c) == 1 && s.rd (SCHED.CTX_STATE.OWNER c) == h)
  let s := l.foldl (fun (t : State) c => (t.wr (SCHED.CTX_STATE.LIFE c) 2).setCtx c { t.ctx c with lostBy := h }) s
  (s.setPort h { s.port h with orphaned := l.length }).orphanRegs

/-- The registers of areas in a host's memory, and its event controls, reset (R384, item 6). -/
def hostFields (h : Nat) : List Fld := [
  MMU.FAULT_RING_BASE.BASE h, MMU.FAULT_RING_CTL.LOG2_SIZE h, MMU.FAULT_RING_CTL.ENABLE h, MMU.FAULT_RING_CTL.VECTOR h, MMU.FAULT_RING_TAIL.TAIL h,
  MMU.FAULT_RING_HEAD.HEAD h, SERVE.EVICT_BASE.BASE h, SERVE.EVICT_SLOTS.SLOTS h, SERVE.EVICT_SLOTS.USED h, SERVE.KITTY_BASE.BASE h,
  SERVE.KITTY_SLOTS.SLOTS h, SERVE.KITTY_SLOTS.USED h, HIF.HOST_CTL.ATTACH h, HIF.HOST_CTL.EVENT_VECTOR h, HIF.HOST_CTL.EVENT_EN h,
  TOPO.EVENT_CTL.VECTOR h, TOPO.EVENT_CTL.ENABLE h, LOAD.EVENT_CTL.VECTOR h, LOAD.EVENT_CTL.ENABLE h]

/-- Slots of a lost host pass to the other host (R384, item 7). -/
def State.slotsPass (s : State) (h : Nat) : State :=
  ((List.range 8).filter (fun n => s.slotState n != 0 && s.rd (LOAD.SLOT.OWNER n) == h)).foldl (fun (t : State) n => t.wr (LOAD.SLOT.OWNER n) (1 - h)) s

/-- A firmware bank that a lost host was staging becomes EMPTY, unless it has been activated (R452, R453). -/
def State.stagingLost (s : State) (h : Nat) : State :=
  (List.range 3).foldl (fun (t : State) y =>
    let key := 2 * y + (1 - t.rd (SEC.FW_STATE.ACTIVE_BANK y))
    let b := (aFind t.sec.banks key).getD {}
    let st := t.rd (SEC.FW_STATE.STAGED y)
    if (st = 1 ∨ st = 2) ∧ b.source = h ∧ !t.sec.activated.contains y then
      ({ t with sec := { t.sec with banks := aPut t.sec.banks key {  bytes := some [] } } }.wr (SEC.FW_STATE.STAGED y) 0).wr (SEC.FW_VERSION.STAGED y) 0
    else t) s

/-- A host is LOST (R384): its channels and rings disabled, its contexts ORPHANED, what its memory held lost. -/
def State.hostLost (s : State) (h cause : Nat) : State :=
  if s.hostState h ≠ 2 then s
  else
    let s := ((s.wr (HIF.PORT_STATUS.HOST_STATE h) 3).wr (HIF.PORT_STATUS.LOSS_CAUSE h) cause).bump (HIF.HOST_EVENTS.LOSSES h) 1
    let s := s.setPort h { s.port h with lossRunning := true, kept := [] }
    let s := (hostChans h).foldl State.chanLost s
    let s := (hostRings h).foldl State.ringLost s
    let s := (s.cmdsLost h).orphan h
    let s := s.liveCtxs.foldl (State.poisonHost h) s
    let s := (s.cachesLost h).intakeHostLost h
    ((((s.regs0 (hostFields h)).slotsPass h).stagingLost h).serveRegs)

/-- What an event of a port does to its host: an ATTACHED host is LOST with the cause, a LINKED one ABSENT where its link is
gone (Table 16-4). -/
def State.hostGone (s : State) (h cause : Nat) : State :=
  if s.hostState h = 2 then s.hostLost h cause
  else if s.hostState h = 1 ∧ s.rd (HIF.PORT_STATUS.LINK_UP h) = 0 then s.wr (HIF.PORT_STATUS.HOST_STATE h) 0
  else s

/-- HOST_LINK_UP (Table 16-4): a port that may train reaches DL_Up; on a link that is up it is a retrain. -/
def hostLinkUp (h rate width flit : Nat) (s : State) : State :=
  if !(s.port h).training || (s.port h).perst then s
  else
    let s := if s.is (HIF.PORT_STATUS.LINK_UP h) then s.bump (HIF.ERRORS.RETRAINS h) 1 else s
    let s := s.portUpAt h rate width flit
    if s.hostState h = 0 then s.wr (HIF.PORT_STATUS.HOST_STATE h) 1 else s

/-- HOST_LINK_UP (R383). -/
def execHostLinkUp (h rate width flit : Nat) (s : State) : Host.Outcome State Fault Refusal := .next (hostLinkUp h rate width flit s)

/-- HOST_LINK_DOWN (Table 16-4): DL_Down. -/
def hostLinkDown (h : Nat) (s : State) : State := (s.portDown h).hostGone h 1

/-- HOST_LINK_DOWN (R383). -/
def execHostLinkDown (h : Nat) (s : State) : Host.Outcome State Fault Refusal := .next (hostLinkDown h s)

/-- HOST_LOST (R384): the cause is a code of HIF.PORT_STATUS.LOSS_CAUSE, as far as an event of the port itself gives it; 3 and 4
reset the port. -/
def hostLostEvent (h cause : Nat) (s : State) : State :=
  if cause = 1 then hostLinkDown h s
  else if cause = 3 ∨ cause = 4 then (s.portReset h).hostGone h cause
  else if cause = 5 then ((s.wr (HIF.PORT_STATUS.BME h) 0).wr (HIF.PORT_STATUS.MSE h) 0).hostGone h 5
  else if cause = 6 then s.hostGone h 6
  else s

/-- HOST_LOST (R384). -/
def execHostLost (h cause : Nat) (s : State) : Host.Outcome State Fault Refusal := .next (hostLostEvent h cause s)

/-- LOSS_ACTIONS_COMPLETE (Table 16-4). -/
def lossActionsComplete (h : Nat) (s : State) : State :=
  if s.hostState h = 3 ∧ (s.port h).lossRunning then
    let s := s.setPort h { s.port h with lossRunning := false }
    let s := s.wr (HIF.PORT_STATUS.HOST_STATE h) (s.rd (HIF.PORT_STATUS.LINK_UP h))
    (s.hostEvent (1 - h) (HIF.HOST_EVENTS.OTHER_LOST (1 - h))).recordTick 0x0401 h (s.rd (HIF.PORT_STATUS.LOSS_CAUSE h)) (s.port h).orphaned
  else s

/-- LOSS_ACTIONS_COMPLETE (R383). -/
def execLossActionsComplete (h : Nat) (s : State) : Host.Outcome State Fault Refusal := .next (lossActionsComplete h s)

/-! Attachment (Table 16-4, Table 16-7). -/

/-- ATTACH taken as 1: a LINKED host with Bus Master and Memory Space Enable set becomes ATTACHED; the device rings kept since its
loss are reset, and the other host is told. -/
def State.hostAttach (s : State) (h : Nat) : State :=
  if s.hostState h = 1 ∧ s.is (HIF.PORT_STATUS.BME h) ∧ s.is (HIF.PORT_STATUS.MSE h) then
    let s := (s.port h).kept.foldl (fun (t : State) r => t.regs0 (ringKept r)) s
    let s := s.setPort h { s.port h with kept := [] }
    let s := (s.wr (HIF.PORT_STATUS.HOST_STATE h) 2).wr (HIF.HOST_CTL.ATTACH h) 1
    s.hostEvent (1 - h) (HIF.HOST_EVENTS.OTHER_ATTACHED (1 - h))
  else s

/-- ATTACH taken as 0: an orderly detach, with no LIVE context owned and every own channel disabled. -/
def State.hostDetach (s : State) (h : Nat) : State :=
  if s.hostState h = 2 ∧ (hostChans h).all (fun c => !s.is (CMD.CHAN_CTL.ENABLE c)) ∧
      s.ctxs.all (fun c => !(s.rd (SCHED.CTX_STATE.LIFE c.1) == 1 && s.rd (SCHED.CTX_STATE.OWNER c.1) == h)) then
    (s.wr (HIF.PORT_STATUS.HOST_STATE h) 1).wr (HIF.HOST_CTL.ATTACH h) 0
  else s

/-- A write of a host's HOST_CTL: a value of ATTACH that Table 16-4 does not allow is ignored, the other fields apply. -/
def writeHostCtl (h value : Nat) (s : State) : State :=
  if s.is (CLK.DOM.GATED (80 + h)) then s else
  let s := (s.wr (HIF.HOST_CTL.EVENT_VECTOR h) (bits value 8 11)).wr (HIF.HOST_CTL.EVENT_EN h) (bits value 19 1)
  if bit value 0 then s.hostAttach h else s.hostDetach h

/-- HOST_ATTACH (R383): a write of ATTACH = 1. -/
def execHostAttach (h value : Nat) (s : State) : Host.Outcome State Fault Refusal :=
  .next (if bit value 0 then s.viaHost h (writeHostCtl h value) else s)

/-- HOST_DETACH (R383): a write of ATTACH = 0. -/
def execHostDetach (h value : Nat) (s : State) : Host.Outcome State Fault Refusal :=
  .next (if bit value 0 then s else s.viaHost h (writeHostCtl h value))

/-! Configuration space (R379–R381). A register is named by its dword where the standard header holds it, 0 to 15, and beyond that
as: 16 power management status and control, 17 device control, 18 MSI-X message control, 19 resizable BAR control, 20 and 21 the
serial number. -/

/-- Bits of an address register that hold the address. -/
def barPart (p : PciePort) (log2 flags reg : Nat) : Nat :=
  let lo := (aFind p.cfg reg).getD 0
  lo / 2 ^ log2 * 2 ^ log2 + flags

/-- A register of the function's configuration space. -/
def State.cfgRead (s : State) (h reg : Nat) : Nat :=
  let p := s.port h
  if reg = 0 then 0x1F7A + 0x6416 * 2 ^ 16
  else if reg = 1 then s.rd (HIF.PORT_STATUS.MSE h) * 2 + s.rd (HIF.PORT_STATUS.BME h) * 4 + 0x10 * 2 ^ 16
  else if reg = 2 then s.rd HIF.ID.REVISION + 0x12_0000 * 2 ^ 8
  else if reg = 4 then barPart p 26 4 4
  else if reg = 5 then (aFind p.cfg 5).getD 0
  else if reg = 6 then barPart p (min 32 p.bar2Log2) 12 6
  else if reg = 7 then (aFind p.cfg 7).getD 0 / 2 ^ (p.bar2Log2 - 32) * 2 ^ (p.bar2Log2 - 32)
  else if reg = 11 then 0x1F7A + (1 + h) * 2 ^ 16
  else if reg = 13 then Config.configWord 13
  else if reg ≤ 15 then (if reg = 15 then (aFind p.cfg 15).getD 0 else 0)
  else if reg = 16 then (aFind p.cfg 16).getD 0
  else if reg = 17 then (aFind p.cfg 17).getD 0
  else if reg = 18 then 2047 + b2n p.msixMask * 2 ^ 14 + b2n p.msixEnable * 2 ^ 15
  else if reg = 19 then (p.bar2Log2 - 20) * 2 ^ 8 + 2
  else if reg = 20 then s.rd HIF.SERIAL.SERIAL % 2 ^ 32
  else if reg = 21 then s.rd HIF.SERIAL.SERIAL / 2 ^ 32
  else Config.configWord reg

/-- Messages of vectors that are pending and no longer masked sent (R383). -/
def State.msixKick (s : State) (h : Nat) : State :=
  let p := s.port h
  if p.msixEnable && !p.msixMask then
    let go := p.pba.filter (fun v => !bit (p.msixWord (4 * v + 3)) 0)
    let s := s.setPort h { p with pba := p.pba.filter (fun v => bit (p.msixWord (4 * v + 3)) 0) }
    go.foldr (fun v (t : State) => t.emit (p.message h v)) s
  else s

/-- A write of a register of configuration space: Bus Master or Memory Space Enable cleared, D0 left, or a Function Level Reset
is a loss of an ATTACHED host (Table 16-4); a BAR2 size applies only while the host is not ATTACHED (R381). -/
def State.cfgWrite (s : State) (h reg value : Nat) : State :=
  let p := s.port h
  let keep (n : Nat) := s.setPort h { p with cfg := aPut p.cfg reg (value % 2 ^ n) }
  if reg = 1 then
    let s := (s.wr (HIF.PORT_STATUS.MSE h) (bits value 1 1)).wr (HIF.PORT_STATUS.BME h) (bits value 2 1)
    if bits value 1 2 = 3 then s else if s.hostState h = 2 then s.hostLost h 5 else s
  else if reg = 4 ∨ reg = 5 ∨ reg = 6 ∨ reg = 7 then keep 32
  else if reg = 15 then keep 8
  else if reg = 16 then
    let s := keep 2
    if bits value 0 2 = 0 then s else if s.hostState h = 2 then s.hostLost h 6 else s
  else if reg = 17 then (if bit value 15 then (s.portReset h).hostGone h 4 else keep 15)
  else if reg = 18 then (s.setPort h { p with msixEnable := bit value 15, msixMask := bit value 14 }).msixKick h
  else if reg = 19 then
    let n := bits value 8 6 + 20
    if 28 ≤ n ∧ n ≤ 36 ∧ s.hostState h ≠ 2 then s.setPort h { p with bar2Log2 := n } else s
  else s

/-- CONFIG_REQUEST (R379): answered with Request Retry Status (1) until Amelo takes commands; another function is an Unsupported
Request (2); a link that is down brings none. -/
def configRequest (h fn reg write value : Nat) (s : State) : State :=
  if !s.is (HIF.PORT_STATUS.LINK_UP h) then s
  else if !s.mgmt.amelo then s.emit (.config h 1 0)
  else if fn ≠ 0 then (s.bump (HIF.ERRORS.UNSUPPORTED h) 1).emit (.config h 2 0)
  else if write = 0 then s.emit (.config h 0 (s.cfgRead h reg))
  else (s.cfgWrite h reg value).emit (.config h 0 0)

/-- CONFIG_REQUEST (R379). -/
def execConfigRequest (h fn reg write value : Nat) (s : State) : Host.Outcome State Fault Refusal := .next (configRequest h fn reg write value s)

/-! The MSI-X table (R382). -/

/-- Offset of the table and of the pending-bit array in block HIF. -/
def msixBase : Nat := 0x8_0000
def pbaBase : Nat := 0x9_0000

/-- A dword of a port's table written: message address [1:0] is zero, and an entry's word 3 holds the mask bit. -/
def PciePort.msixPut (p : PciePort) (i v : Nat) : PciePort :=
  { p with msix := aPut p.msix i (if i % 4 = 3 then v % 2 else if i % 4 = 0 then v % 2 ^ 32 / 4 * 4 else v % 2 ^ 32) }

/-- A write discarded and recorded (R7, R110). -/
def State.discard (s : State) (src off size : Nat) : State := s.recordAs s.timeBase 0x0004 1 src (if src = 2 then 19 else 12) off size

/-- A naturally aligned 32-bit or 64-bit write of a port's table; a 64-bit write of the pending-bit array, which is read-only, is
ignored; any other is discarded and recorded. -/
def State.msixWrite (s : State) (h off value size : Nat) : State :=
  if decide (pbaBase ≤ off) && size == 8 && off % 8 == 0 then s
  else if decide (msixBase ≤ off) && decide (off + size ≤ msixBase + 2048 * 16) && (size == 4 || size == 8) && off % size == 0 then
    let i := (off - msixBase) / 4
    let p := (s.port h).msixPut i value
    (s.setPort h (if size = 8 then p.msixPut (i + 1) (value / 2 ^ 32) else p)).msixKick h
  else s.discard h off size

/-- MSIX_TABLE_WRITE (R382). -/
def execMsixTableWrite (h off value size : Nat) (s : State) : Host.Outcome State Fault Refusal :=
  .next (s.viaHost h (fun s => s.msixWrite h off value size))

/-- The 8 bytes of a port's table or pending-bit array at an offset. -/
def State.msixRead (s : State) (h off : Nat) : Nat :=
  let p := s.port h
  if off < pbaBase then
    let i := (off - msixBase) / 8 * 2
    p.msixWord i + p.msixWord (i + 1) * 2 ^ 32
  else ((List.range 64).map (fun b => if p.pba.contains ((off - pbaBase) / 8 * 64 + b) then 2 ^ b else 0)).sum

/-! Replies of lost hosts (R386). -/

/-- Whether 8 bytes from a local offset lie in a device-memory ring of a host that is not ATTACHED. -/
def State.inOrphanRing (s : State) (off : Nat) : Bool :=
  (List.range 256).any (fun r => s.is (CMD.RING_CTL.DEVICE r) && !s.attached (r / 128) &&
    decide (s.rd (CMD.RING_BASE.BASE r) * 32 ≤ off) && decide (off + 8 ≤ s.rd (CMD.RING_BASE.BASE r) * 32 + 32 * s.ringSize r))

/-- A read of ORPHAN_DATA: the 8 bytes at OFFSET, which advances by 8; of a port whose clock is gated, zero (R442). -/
def orphanRead (h : Nat) (s : State) : Nat × State :=
  if s.is (CLK.DOM.GATED (80 + h)) then (0, s) else
  let q := s.rd (HIF.ORPHAN_ADDR.OFFSET h)
  (if s.inOrphanRing (8 * q) then s.load (devKey (8 * q)) 8 else 0, s.wr (HIF.ORPHAN_ADDR.OFFSET h) (q + 1))

/-- ORPHAN_DATA_READ (R386). -/
def execOrphanDataRead (src h : Nat) (s : State) : Host.Outcome State Fault Refusal :=
  .next (s.viaSource src (fun s => (orphanRead h s).2.emit (.readData src (orphanRead h s).1)))

end Sys2Proof.Machine
end

