-- ==== Sys2Proof/Machine/Images.lean ====
section
/-! DEFINITION. Firmware banks and their verification (R449, R451), floors (R454), and the measurement chain (R450). -/

namespace Sys2Proof.Machine

open Sys2Proof

/-- A bank: image type × 2 + bank. -/
def State.bank (s : State) (y b : Nat) : FwBank := (aFind s.sec.banks (2 * y + b)).getD {}

/-- A bank replaced. -/
def State.setBank (s : State) (y b : Nat) (x : FwBank) : State := { s with sec := { s.sec with banks := aPut s.sec.banks (2 * y + b) x } }

/-- A byte of a bank: what was staged, or what the bank held when the module left manufacture. -/
def State.fwByte (s : State) (y b off : Nat) : Nat :=
  match (s.bank y b).bytes with
  | some l => (aFind l off).getD 0
  | none => Config.flashByte y b off % 256

/-- `n` bytes of a bank. -/
def State.fwBytes (s : State) (y b off n : Nat) : List Nat := (List.range n).map (fun i => s.fwByte y b (off + i))

/-- An `n`-byte field of a bank. -/
def State.fwField (s : State) (y b off n : Nat) : Nat := leOf (s.fwBytes y b off n)

/-- PAYLOAD_BYTES of a bank's image. -/
def State.fwPayload (s : State) (y b : Nat) : Nat := s.fwField y b 16 4
/-- VERSION. -/
def State.fwVersion (s : State) (y b : Nat) : Nat := s.fwField y b 8 4
/-- SVN. -/
def State.fwSvn (s : State) (y b : Nat) : Nat := s.fwField y b 12 2
/-- PAYLOAD_DIGEST. -/
def State.fwDigest (s : State) (y b : Nat) : List Nat := s.fwBytes y b 32 32

/-- The floor of an image type (R454). -/
def State.floor (s : State) (y : Nat) : Nat := (aFind s.sec.floors y).getD 1

/-- The boot bank of an image type (R453). -/
def State.bootBank (s : State) (y : Nat) : Nat := (aFind s.sec.boot y).getD 0

/-- Whether the reserved bytes of an image are zero (Table 20-2). -/
def State.fwReserved (s : State) (y b : Nat) : Bool :=
  [(7, 1), (14, 2), (20, 12), (64, 128), (252, 4), (5652, 492)].all (fun r => (s.fwBytes y b r.1 r.2).all (· == 0))

/-- Whether the header, the root key and the signature of a bank's image hold (R451). -/
def State.fwHeader (s : State) (y b : Nat) : Bool :=
  let n := s.fwPayload y b
  s.fwField y b 0 4 == 0x4647_5831 && s.fwField y b 4 2 == 1 && s.fwByte y b 6 == y && decide (64 ≤ n) && decide (n ≤ 33_548_288) && n % 64 == 0 &&
    s.fwReserved y b && sha256 (s.fwBytes y b 192 60) == (List.range 32).map Config.rootHash &&
    Config.hssVerify (s.fwBytes y b 192 60) (s.fwBytes y b 0 192) (s.fwBytes y b 256 5396)

/-- What verification finds wrong with a bank, as a DETAIL of Table 20-6; none where the image passes and its SVN is not below the
floor (R449, R451, R454). -/
def State.fwFault (s : State) (y b : Nat) : Option Nat :=
  if !s.fwHeader y b then some 0x1441
  else if sha256 (s.fwBytes y b 6144 (s.fwPayload y b)) != s.fwDigest y b then some 0x1442
  else if s.fwSvn y b < s.floor y then some 0x1443
  else none

/-! The chain (R450). -/

/-- SEC.CHAIN and SEC.STATUS.MEASURED brought up. -/
def State.chainRegs (s : State) : State :=
  (s.wrs ((List.range 4).map (fun k => (SEC.CHAIN.BYTES k, leOf ((s.sec.chain.drop (8 * k)).take 8))))).wr SEC.STATUS.MEASURED s.sec.stages.length

/-- M of a list of stages, from 32 zero bytes. -/
def chainOf (l : List Stage) : List Nat := l.foldl (fun m g => sha256 (m ++ [g.typ] ++ g.digest)) (List.replicate 32 0)

/-- A stage measured before it runs. -/
def State.measure (s : State) (g : Stage) : State :=
  let l := s.sec.stages ++ [g]
  { s with sec := { s.sec with stages := l, chain := chainOf l } }.chainRegs

/-- The chain ends at stage 3 while the main rails are off. -/
def State.chainCut (s : State) : State :=
  let l := s.sec.stages.take 4
  { s with sec := { s.sec with stages := l, chain := chainOf l } }.chainRegs

/-- The bank of an image type that boots: the boot bank, else the other, each if it verifies; and whether it fell back (R449). -/
def State.bootPick (s : State) (y : Nat) : Option (Nat × Bool) :=
  let b := s.bootBank y
  if (s.fwFault y b).isNone then some (b, false) else if (s.fwFault y (1 - b)).isNone then some (1 - b, true) else none

/-- An image measured and run from a bank: its registers, and the record of a fall-back (R449, R450). -/
def State.bootRun (s : State) (y : Nat) (p : Nat × Bool) : State :=
  let s := s.measure ⟨y + (if y = 2 then 2 else 1), p.1, s.fwVersion y p.1, s.fwSvn y p.1, s.fwDigest y p.1⟩
  let s := { s with sec := { s.sec with activated := s.sec.activated.filter (· != y), ranAt := aPut s.sec.ranAt y s.now } }
  let s := s.wrs [(SEC.FW_STATE.ACTIVE_BANK y, p.1), (SEC.FW_STATE.BOOT_BANK y, s.bootBank y), (SEC.FW_STATE.STAGED y, 0), (SEC.FW_STATE.FELL_BACK y, b2n p.2),
    (SEC.FW_STATE.SVN y, s.fwSvn y p.1), (SEC.FW_STATE.FLOOR y, s.floor y), (SEC.FW_STATE.COMMIT_PENDING y, b2n (s.sec.commits.contains y)),
    (SEC.FW_VERSION.RUNNING y, s.fwVersion y p.1), (SEC.FW_VERSION.STAGED y, 0)]
  if p.2 then s.recordTick 0x0901 y p.1 0 else s

end Sys2Proof.Machine
end

