-- ==== Sys2Proof/Machine/Resets.lean ====
section
/-! DEFINITION. Supplies, resets and bring-up (R481–R491): the power-on and main-rail resets, the boot chain, the main rails, ROOT
READY, Amelo, and the watchdog's restart of Bimon (R392). -/

namespace Sys2Proof.Machine

open Sys2Proof

/-! Helpers of the management island. -/

/-- Whether discrete input `i` is effectively asserted (R401). -/
def State.effective (s : State) (i : Nat) : Bool := bit (s.rd DISC.INPUTS.EFFECTIVE) i

/-- A bit of DISC.FAULT_CAUSE set, and FAULT_N asserted with it (Table 17-6). -/
def State.faultCause (s : State) (f : Fld) : State := (s.wr f 1).wr DISC.OUTPUTS.FAULT 1

/-- Whether any bit of DISC.FAULT_CAUSE is set. -/
def State.anyFault (s : State) : Bool :=
  [DISC.FAULT_CAUSE.MODULE_FAILED, DISC.FAULT_CAUSE.EPO, DISC.FAULT_CAUSE.THERM_TRIP, DISC.FAULT_CAUSE.RECORD_INVALID, DISC.FAULT_CAUSE.BIMON_FAILED].any s.is

/-- Side-band commands outstanding (R397). -/
def State.sbOut (s : State) : Nat := s.mgmt.sbIn.length + (s.cmds.filter (fun c => c.src == 2 && !c.gone)).length

/-- MGMT.SB_STATUS.OUTSTANDING brought up. -/
def State.sbRegs (s : State) : State := s.wr MGMT.SB_STATUS.OUTSTANDING s.sbOut

/-! The stock map of the record (R326, R463, R488, R517). -/

/-- The state of every stock unit of classes 0–4, by key, as the record holds it: a unit under test is in STOCK, one removed is
RETIRED. -/
def State.unitMap (s : State) : List (Nat × Nat) :=
  (List.range 5).flatMap (fun cls => (List.range (groupsOf cls)).flatMap (fun g => (List.range (stockBuilt cls g)).map (fun u =>
    let st := s.unitState cls g u
    (unitKey cls g u, if st = 3 then 1 else if st = 2 then 4 else st))))

/-- The record rewritten into the other copy with SEQ C + 1 (R326, R463). -/
def State.recordWrite (s : State) : State :=
  let x := s.sec
  let s := { s with recordDue := none, sec := { x with
    counter := x.counter + 1, copy := 1 - x.copy, recTime := s.timeBase, recSeq := s.score.nextSeq - 1, recUnits := s.unitMap } }
  ((s.wr SEC.RECORD.SEQ s.sec.counter).wr SEC.RECORD.COPY s.sec.copy).bump SEC.RECORD.REWRITES 1

/-- Every unit put as the record in force has it. -/
def State.unitsReload (s : State) : State :=
  let s := { s with units := [], draws := [], badBanks := [], badSince := [], bankMap := [] }
  let s := (List.range 8).foldl (fun t d => (List.range 34).foldl (fun (t : State) c =>
    t.regs0 [MTX.CORE_STATUS.STATE d c, MTX.CORE_STATUS.LOGICAL d c, MTX.CORE_STATUS.CAUSE d c]) t) s
  let s := (List.range 10).foldl (fun (t : State) e => t.reg0 (LOAD.ENGINE.STATE e)) s
  s.sec.recUnits.foldl (fun (t : State) p =>
    let cls := p.1 / 4096
    let g := p.1 / 512 % 8
    let u := p.1 % 512
    if cls = 0 then t.wr (MTX.CORE_STATUS.STATE g u) p.2
    else if cls = 3 then t.wr (LOAD.ENGINE.STATE (5 * g + u)) p.2
    else if p.2 = (if u < stockActive0 cls g then 0 else 1) then t
    else { t with units := aPut t.units p.1 p.2 }) s

/-- A retirement that the scorebook records after the record, applied (R326): the unit RETIRED, and in its place the unit drawn, which
the record names or which was the lowest-numbered in STOCK. -/
def State.retireAgain (s : State) (r : Record) : State :=
  let draw (s : State) (cls n : Nat) : State := if s.unitState cls r.inst n = 1 then s.setUnit cls r.inst n 0 0 else s
  if r.code = 0x0102 then
    let was := s.unitState 0 r.inst r.arg0
    let s := s.setUnit 0 r.inst r.arg0 4 r.arg1
    if was = 0 then (match (s.unitsIn 0 r.inst 1).head? with | some n => draw s 0 n | none => s) else s
  else if r.code = 0x0203 then draw (s.setUnit 1 r.inst r.arg0 4 0) 1 r.arg1
  else if r.code = 0x0703 then draw (s.setUnit 4 r.inst r.arg0 4 0) 4 r.arg1
  else s

/-- Logical banks 0–255 of a die given to its ACTIVE banks in ascending physical order (R517). -/
def State.renumberBanks (s : State) (die : Nat) : State :=
  (List.zip (s.unitsIn 1 die 0) (List.range 256)).foldl (fun (t : State) p =>
    if p.1 = p.2 then t else { t with bankMap := aPut t.bankMap (256 * die + p.2) p.1 }) s

/-- The stock map loaded, and the fields "From record" with it: the record's map, the retirements recorded after it, logical numbers
in ascending physical order (R486, R488, R517). -/
def State.loadMap (s : State) : State :=
  let s := s.unitsReload
  let s := (s.score.heldRecs.filter (fun r => decide (s.sec.recSeq < r.seq))).foldl State.retireAgain s
  let s := (List.range 8).foldl (fun t d => (t.renumber d).renumberBanks d) s
  (List.range 5).foldl (fun t cls => (List.range (groupsOf cls)).foldl (fun (t : State) g => t.stockRegs cls g) t) s

/-! Main-rail power-up (Table 22-3). -/

/-- Whether a main-rail power-up keeps a register field: those of MGMT, DISC, SCORE and SEC, the counts since power-on, TOPO.CHIP, and
what the record gives (R486). -/
def mainKept (key : Nat) : Bool :=
  let off := key / 64
  let lo := key % 64
  let within (a b : Nat) : Bool := decide (a ≤ off) && decide (off < b)
  decide (0xF00000 ≤ off) || within 0x600100 0x600140 || (within 0x601000 0x602000 && lo != 16) || within 0x603000 0x604000 ||
    (within 0x400100 0x400180 && (lo == 16 || lo == 32)) || (within 0x400200 0x400240 && (lo == 16 || lo == 25 || lo == 31)) ||
    off == 0xa00008 || (within 0xb00100 0xb00300 && lo != 40) || (within 0xc00300 0xc00350 && lo == 0) ||
    (off == 0x8 && lo == 32) || off == 0x10 || ((off == 0x110 || off == 0x150) && lo == 16) ||
    off == 0xd00020 || within 0xd00200 0xd00240 || (within 0xd00100 0xd00140 && lo == 50) || within 0xe00800 0xe00a48

/-- The side-band commands that stay over a loss of the main rails: those Bimon serves itself (`chan` 1), and those that have ended. -/
def Cmd.staysOff (c : Cmd) : Bool := c.src == 2 && (c.chan == 1 || c.status.isSome)

/-- What a main-rail loss and the power-up after it leave: the standby half, host memory, and nothing of the main half (R484–R486). -/
def State.mainReset (s : State) : State :=
  let t : State := {
    now := s.now, freeCtr := s.freeCtr, regs := s.regs.filter (fun p => mainKept p.1), mem := s.mem.filter (fun c => decide (hostKey 0 0 ≤ c.1)),
    out := s.out, pending := s.pending, score := s.score, cmds := s.cmds.filter Cmd.staysOff, nextCmd := s.nextCmd, doneCtr := s.doneCtr,
    ports := s.ports.map (fun p => (p.1, ({ perst := p.2.perst } : PciePort))), units := s.units, bankMap := s.bankMap, recordDue := s.recordDue,
    fabric := ({ timeOffset := s.fabric.timeOffset } : Fabric), selfDue := s.selfDue, draws := s.draws.map (fun (d : CoreDraw) => { d with drawn := none }),
    mgmt := s.mgmt, sec := s.sec, power := ({ phases := s.power.phases } : Power) }
  t.sbRegs

/-- The main rails turned off in hardware (R484): MAIN_ON 0, DRAINED asserted (Table 17-6), the chain cut to stage 3, banks staged by a
host that was ATTACHED emptied (R452). -/
def State.mainOff (s : State) : State :=
  if s.mgmt.railsAt.isNone then s
  else
    let s := [0, 1].foldl (fun (t : State) h => if t.hostState h = 2 then t.stagingLost h else t) s
    let s := { s with mgmt := { s.mgmt with railsAt := none, amelo := false } }.mainReset
    ((s.wr MGMT.STATUS.MAIN_ON 0).wr DISC.OUTPUTS.DRAINED 1).chainCut

/-- The off state latched until both inputs have been absent (R404, R425). -/
def State.latchOff (s : State) : State := { s.mainOff with mgmt := { s.mainOff.mgmt with latched := true } }

/-! Power-on reset. -/

/-- The standby power-on reset (Table 22-3): flash is kept, and nothing else of the module. -/
def State.powerOn (s : State) : State :=
  let b := s.score
  let x := s.sec
  let t : State := {
    freeCtr := s.freeCtr, out := s.out, pending := s.pending, mem := s.mem.filter (fun c => decide (hostKey 0 0 ≤ c.1)),
    regs := s.regs.filter (fun p => p.1 / 64 == 0x10 || (p.1 / 64 == 0x8 && p.1 % 64 == 32) ||
      (decide (0x400100 ≤ p.1 / 64) && decide (p.1 / 64 < 0x400180) && (p.1 % 64 == 16 || p.1 % 64 == 32))),
    score := ({ flash := b.flash, flashNext := b.flashNext, nextSeq := max b.flushedThrough 0 + 1, flushedThrough := b.flushedThrough } : Score),
    power := ({ phases := s.power.phases.map (fun (p : Nat × Nat × Nat) => (p.1, p.2.1, 0)) } : Power),
    mgmt := ({ mainIn := s.mgmt.mainIn, latched := s.mgmt.latched && s.mgmt.mainIn } : Mgmt),
    sec := ({ banks := x.banks, boot := x.boot, floors := x.floors, commits := x.commits, activated := x.activated, owner := x.owner, reserved := x.reserved,
              counter := x.counter, copy := x.copy, recTime := x.recTime, recSeq := x.recSeq, recUnits := x.recUnits, override := x.override } : Sec) }
  t.scoreRegs

/-- The configuration record at boot (R463): `copies` is 0 where no copy qualifies, 1 where the copy of SEQ C does, 2 where the copy of
SEQ C + 1 does. -/
def State.recordBoot (s : State) (copies : Nat) : State :=
  if copies = 0 then s.faultCause DISC.FAULT_CAUSE.RECORD_INVALID
  else
    let s := if copies = 1 then s else { s with sec := { s.sec with counter := s.sec.counter + 1, copy := 1 - s.sec.copy } }
    let x := s.sec
    let s := s.measure ⟨3, 0, x.counter, 0, (List.range 32).map (Config.recordDigest x.counter x.recTime x.recSeq)⟩
    s.wrs [(SEC.STATUS.RECORD_OK, 1), (SEC.RECORD.SEQ, x.counter), (SEC.RECORD.COPY, x.copy)]

/-- The chip number: the record's override, else the straps; 0xFFF where they give 0xF00 or above (R308). -/
def State.chipBoot (s : State) (straps : Nat) : State :=
  let n := straps % 4096
  let chip := match s.sec.override with | some c => c | none => if 0xF00 ≤ n then 0xFFF else n
  s.wrs [(TOPO.CHIP.CHIP, chip), (TOPO.CHIP.STRAPS, n), (TOPO.CHIP.OVERRIDE, b2n s.sec.override.isSome), (MGMT.SB_STATUS.STATIC_ADDR, 0x48 + n % 4)]

/-- Bimon runs: its registers, and record 0x0001 at the next tick. -/
def State.bimonUp (s : State) (straps : Nat) : State :=
  let s := s.chipBoot straps
  let pid := Config.mipiId % 2 ^ 15 * 2 ^ 33 + 0x6416 * 2 ^ 16 + s.rd HIF.SERIAL.SERIAL % 4096
  let s := s.wrs [(MGMT.STATUS.BIMON, 1), (MGMT.CAPS.FW_VERSION, s.rd (SEC.FW_VERSION.RUNNING 1)), (MGMT.SB_ID.PID, pid), (CLK.INT.READY, 1),
    (SEC.STATUS.OWNER, b2n !s.sec.owner.isEmpty), (SEC.SIG_NEXT.NEXT, s.sec.reserved), (SEC.SIG_RESERVED.RESERVED, s.sec.reserved),
    (SEC.STATUS.EXHAUSTED, b2n (decide (2 ^ 40 ≤ s.sec.reserved))), (DISC.OUTPUTS.DRAINED, 1),
    (SEC.FW_STATE.ACTIVE_BANK 2, s.bootBank 2), (SEC.FW_STATE.BOOT_BANK 2, s.bootBank 2), (SEC.FW_STATE.FLOOR 2, s.floor 2)]
  s.recordTick 0x0001 0 s.score.flushedThrough (s.bootBank 0 + 2 * s.bootBank 1 + 4 * s.bootBank 2)

/-- STANDBY_INPUT_START (R481, R449): the power-on reset is released, the ROM and the loader verify and measure what they run, and Bimon
runs; a loader or Bimon with no good bank leaves the module halted. -/
def standbyInputStart (straps copies : Nat) (s : State) : State :=
  if s.mgmt.standby then s
  else
    let s := s.powerOn
    let s := { s with mgmt := { s.mgmt with standby := true } }.measure ⟨0, 0, 0, 0, (List.range 32).map Config.romDigest⟩
    match s.bootPick 0 with
    | none => s
    | some p =>
      let s := s.bootRun 0 p
      match s.bootPick 1 with
      | none => s
      | some q => ((s.bootRun 1 q).recordBoot copies).bimonUp straps

/-- STANDBY_INPUT_START (R481). -/
def execStandbyInputStart (straps copies : Nat) (s : State) : Host.Outcome State Fault Refusal := .next (standbyInputStart straps copies s)

/-- STANDBY_INPUT_STOP (R481): power-on reset asserted; both inputs absent end the latched off state (R482). -/
def standbyInputStop (s : State) : State :=
  if s.mgmt.standby then s.mainOff.powerOn else s

/-- STANDBY_INPUT_STOP (R481). -/
def execStandbyInputStop (s : State) : Host.Outcome State Fault Refusal := .next (standbyInputStop s)

/-- MAIN_INPUT_STOP (R481): a main-rail loss. -/
def mainInputStop (s : State) : State :=
  let s := s.mainOff
  { s with mgmt := { s.mgmt with mainIn := false, latched := s.mgmt.latched && s.mgmt.standby } }

/-- MAIN_INPUT_STOP (R481). -/
def execMainInputStop (s : State) : Host.Outcome State Fault Refusal := .next (mainInputStop s)

/-! The main rails (R483, R488). -/

/-- Whether the conditions of R483 that the module itself sees hold; the command says that the main input meets Table 22-1. -/
def State.railsMayStart (s : State) : Bool :=
  s.bimon && s.is SEC.STATUS.RECORD_OK && !s.anyFault && !s.effective 0 && !s.mgmt.latched && !s.mgmt.held && s.mgmt.railsAt.isNone

/-- MAIN_RAIL_START (R483): once a tick boundary has found every condition to hold. -/
def mainRailStart (s : State) : State :=
  if s.mgmt.railsDue && s.railsMayStart then { s with mgmt := { s.mgmt with railsAt := some s.now, mainIn := true, railsDue := false } } else s

/-- MAIN_RAIL_START (R483). -/
def execMainRailStart (s : State) : Host.Outcome State Fault Refusal := .next (mainRailStart s)

/-- What the discrete inputs do to a main half that has just come up: minimum pace, the halved cap and the drain request (R405, R406,
Table 22-5). -/
def State.pinsAgain (s : State) : State :=
  let s := if s.effective 1 then (List.range 8).foldl (fun (t : State) d => t.wr (PWR.DIE_STATUS.PACE d) 1)
    { s.wr PWR.LIMIT_NOW.PWARN 1 with power := { s.power with capBefore := s.rd PWR.CAP.WATTS } } else s
  let s := if s.effective 2 then s.halveLimits.wrs [(PWR.LIMIT_NOW.COOLANT, 1), (PWR.LIMIT_NOW.LIMIT_W, s.rd PWR.CAP.WATTS / 2)] else s
  s.wrs [(TOPO.DRAIN.REQUESTED, b2n (s.effective 4)), (TOPO.DRAIN.STUCK, bits (s.rd DISC.INPUTS.STUCK) 4 1)]

/-- MAIN_POWER_GOOD (R485): 20 ms after the start of the rails, the main half leaves its power-up reset with the stock map loaded. -/
def mainPowerGood (s : State) : State :=
  match s.mgmt.railsAt with
  | none => s
  | some t =>
    if s.mainOn || decide (s.now < t + 20_000_000) then s
    else
      let s := s.mainReset.loadMap
      let s := (s.wr MGMT.STATUS.MAIN_ON 1).wr CLK.INT.READY 1
      ((List.range 8).foldl State.limitReg s).pinsAgain.drainRegs

/-- MAIN_POWER_GOOD (R485). -/
def execMainPowerGood (s : State) : Host.Outcome State Fault Refusal := .next (mainPowerGood s)

/-- RAIL_FAILURE (R416, R483): every main rail off, MODULE_FAILED. -/
def railFailure (s : State) : State :=
  if s.mgmt.railsAt.isNone then s else s.mainOff.faultCause DISC.FAULT_CAUSE.MODULE_FAILED

/-- RAIL_FAILURE (R416). -/
def execRailFailure (s : State) : Host.Outcome State Fault Refusal := .next (railFailure s)

/-- A port starts training where its PERST_N is released, its clock runs and ROOT is READY (R490). -/
def State.portTrain (s : State) (h : Nat) : State :=
  if s.is CLK.ROOT.READY && !(s.port h).perst && !s.is (CLK.DOM.STOPPED (80 + h)) && !s.is (CLK.DOM.GATED (80 + h)) then
    s.setPort h { s.port h with training := true }
  else s

/-- ROOT_READY (R437, R488, R489): links and ports start training; in the bring-up the standby domains move to ROOT at the next tick. -/
def rootReady (s : State) : State :=
  if !s.mainOn || s.is CLK.ROOT.READY then s
  else
    let s := s.wrs [(CLK.ROOT.LOCKED, 1), (CLK.ROOT.READY, 1), (CLK.ROOT.REF_FAILED, 0)]
    let s := (List.range 96).foldl (fun (t : State) l => if (t.link l).enabled || (t.link l).stopped then t else t.linkTrain l) s
    { ((s.portTrain 0).portTrain 1) with clkBring := s.clkBring || !s.mgmt.amelo }

/-- ROOT_READY (R437). -/
def execRootReady (s : State) : Host.Outcome State Fault Refusal := .next (rootReady s)

/-- AMELO_READY (R449, R488): the Amelo bank that verifies is measured as stage 4 and takes commands; with none the main rails are turned
off and held off. -/
def ameloReady (s : State) : State :=
  if !s.mainOn || !s.is CLK.ROOT.READY || s.mgmt.amelo || !s.bimon then s
  else match s.bootPick 2 with
    | none => { s.mainOff with mgmt := { s.mainOff.mgmt with held := true } }
    | some p =>
      let s := s.bootRun 2 p
      { s with mgmt := { s.mgmt with amelo := true } }

/-- AMELO_READY (R488). -/
def execAmeloReady (s : State) : Host.Outcome State Fault Refusal := .next (ameloReady s)

/-! The watchdog (R392). -/

/-- What a restart of Bimon does to side-band commands (Table 17-7): those not handed over, or that Bimon serves, are discarded; the
replies of the rest are dropped. -/
def State.sbForget (s : State) : State :=
  { s with cmds := (s.cmds.filter (fun (c : Cmd) => !(c.src == 2 && c.chan == 1))).map (fun (c : Cmd) => if c.src = 2 then { c with gone := true } else c),
           mgmt := { s.mgmt with sbIn := [] } }.sbRegs

/-- WATCHDOG_EXPIRY (R392): Bimon has not completed item 4 for 50 ms; the third restart in 10 s leaves it stopped. -/
def watchdogExpiry (s : State) : State :=
  if !s.bimon || decide (s.now < s.mgmt.alive + 50_000_000) then s
  else
    let l := s.now :: s.mgmt.restarts.filter (fun t => decide (s.now < t + 10_000_000_000))
    let s := ({ s with mgmt := { s.mgmt with restarts := l } }.sbForget.bump MGMT.STATUS.WDOG_RESTARTS 1).record 0x0606 0 l.length 0
    if 3 ≤ l.length then (s.wr MGMT.STATUS.BIMON 3).faultCause DISC.FAULT_CAUSE.BIMON_FAILED else s.wr MGMT.STATUS.BIMON 2

/-- WATCHDOG_EXPIRY (R392). -/
def execWatchdogExpiry (s : State) : Host.Outcome State Fault Refusal := .next (watchdogExpiry s)

/-- BIMON_RESTART_COMPLETE (R392). -/
def bimonRestart (s : State) : State :=
  if s.rd MGMT.STATUS.BIMON = 2 then { s with mgmt := { s.mgmt with alive := s.now } }.wr MGMT.STATUS.BIMON 1 else s

/-- BIMON_RESTART_COMPLETE (R392). -/
def execBimonRestartComplete (s : State) : Host.Outcome State Fault Refusal := .next (bimonRestart s)

end Sys2Proof.Machine
end

