-- ==== Sys2Proof/Machine/Scorebook.lean ====
section
/-! DEFINITION. The scorebook's commands and events (R468–R480): reads, the cursor, a flush, a clear. -/

namespace Sys2Proof.Machine

open Sys2Proof

/-- The four words of a record (Table 21-1). -/
def Record.words (r : Record) : List Nat :=
  [r.time, r.code % 2 ^ 16 + r.severity % 16 * 2 ^ 16 + r.inst % 2 ^ 7 * 2 ^ 20 + r.subsys % 2 ^ 5 * 2 ^ 27 + r.seq % 2 ^ 32 * 2 ^ 32, r.arg0, r.arg1]

/-- The first held record at or after a SEQ. -/
def Score.nextHeld (b : Score) (q : Nat) : Option Record := b.heldRecs.find? (fun r => decide (q ≤ r.seq))

/-- One record copied to flash: the block it begins is erased first (R471). The Boolean tells whether that removed a held
record, and GEN advances for it (R474). -/
def Score.flashPut (b : Score) (r : Record) : Score × Bool :=
  let i := b.flashNext
  let keep := if i % 8192 = 0 then b.flash.filter (fun p => !(p.1 / 8192 + 256 == i / 8192)) else b.flash
  ({ b with flash := keep ++ [(i, r)], flashNext := i + 1, flushedThrough := r.seq }, keep.length != b.flash.length)

/-- The copy of every record of the ring that flash does not hold, in SEQ order (R472): erases that removed records counted. -/
def Score.flush (b : Score) : Score × Nat :=
  (b.ring.filter (fun r => decide (b.flushedThrough < r.seq))).foldl
    (fun p r => ((p.1.flashPut r).1, p.2 + b2n (p.1.flashPut r).2)) (b, 0)

/-- A flush carried out (R472). -/
def State.flushNow (s : State) : State :=
  let p := s.score.flush
  let s := { s with score := { p.1 with pressure := false } }
  (s.wr SCORE.STATUS.GEN (s.rd SCORE.STATUS.GEN + p.2)).scoreRegs

/-- A flush that falls due started, or kept for when the one running completes (R472). -/
def State.flushStart (s : State) : State :=
  if s.is SCORE.STATUS.FLUSHING then { s with score := { s.score with flushDue := false, flushAgain := true } }
  else { s with score := { s.score with flushDue := false } }.wr SCORE.STATUS.FLUSHING 1

/-- SCOREBOOK_FLUSH (R472): the flush that runs completes, and one that fell due meanwhile starts. -/
def flushDone (s : State) : State :=
  if s.is SCORE.STATUS.FLUSHING then
    let again := s.score.flushAgain
    let s := (s.flushNow.bump SCORE.EVENTS.FLUSHES 1).wr SCORE.STATUS.FLUSHING (b2n again)
    { s with score := { s.score with flushAgain := false } }
  else s

/-- SCOREBOOK_FLUSH (R472). -/
def execScorebookFlush (s : State) : Host.Outcome State Fault Refusal := .next (flushDone s)

/-- The checks of SCORE_READ (Table 21-5). -/
def checkScoreRead (s : State) (c : Cmd) : Option (Nat × Nat) := firstBad [
  (s.ctxBad .device c, stBadContext, 0),
  (bits (c.p 0) 32 16 == 0 || c.p 1 % 64 != 0 || (c.src == 2 && c.p 1 != 0) || !onlyBits (c.p 0) 0xFFFF_FFFF_FFFF ||
    c.p 2 != 0 || c.p 3 != 0 || c.p 4 != 0 || c.p 5 != 0, stBadParam, 0x1501)]

/-- SCORE_READ (R475). -/
def scoreRead (s : State) (c : Cmd) : State :=
  let first := bits (c.p 0) 0 32
  let recs := (s.score.heldRecs.filter (fun r => decide (first ≤ r.seq))).take (bits (c.p 0) 32 16)
  let start := match recs.head? with | some r => r.seq | none => max first s.score.nextSeq
  let newest := match s.score.heldRecs.getLast? with | some r => r.seq | none => 0
  let gen := s.rd SCORE.STATUS.GEN
  let out1 := start % 2 ^ 32 + newest % 2 ^ 32 * 2 ^ 32
  if c.p 1 = 0 then
    let s := { s with score := { s.score with latches := aErase s.score.latches c.src } }
    ((s.wr (SCORE.READ_CURSOR.SEQ c.src) start).wr (SCORE.READ_CURSOR.WORD c.src) 0).doneWith c.id 0 out1 (gen + gen * 2 ^ 32)
  else (s.storeWords (hostKey c.src (c.p 1)) (recs.flatMap Record.words)).doneWith c.id recs.length out1 (gen + gen * 2 ^ 32)

/-- SCORE_READ (R475). -/
def execScoreRead (k : Nat) (s : State) : Host.Outcome State Fault Refusal := .next (s.runCmd k 0xA0 always checkScoreRead scoreRead)

/-- The checks of SCORE_CLEAR (Table 21-5). -/
def checkScoreClear (s : State) (c : Cmd) : Option (Nat × Nat) := firstBad [
  (s.ctxBad .device c, stBadContext, 0),
  (c.p 0 != 0 || c.p 1 != 0 || c.p 2 != 0 || c.p 3 != 0 || c.p 4 != 0 || (c.src == 2 && c.p 5 != 0), stBadParam, 0x1501),
  (s.is SCORE.STATUS.CLEARING, stBusyRetry, 0x1502)]

/-- SCORE_CLEAR (R477): record 0x0002, every record below it erased, GEN advanced, the record flushed at once. -/
def scoreClear (s : State) (c : Cmd) : State :=
  let n := s.score.heldRecs.length
  let last := match s.score.heldRecs.getLast? with | some r => r.seq | none => 0
  let q := s.score.nextSeq
  let s := s.record 0x0002 c.src n last
  let b := s.score
  let b := { b with ring := b.ring.filter (fun r => decide (q ≤ r.seq)), flash := [] }
  let s := { s with score := b }
  let s := (s.wr SCORE.STATUS.GEN (s.rd SCORE.STATUS.GEN + 1)).flushNow
  s.doneWith c.id n q 0

/-- SCORE_CLEAR (R477). -/
def execScoreClear (k : Nat) (s : State) : Host.Outcome State Fault Refusal := .next (s.runCmd k 0xA1 always checkScoreClear scoreClear)

/-- The cursor of a source moved to the next held record after a SEQ, or to the newest SEQ plus 1 (R476). -/
def State.cursorNext (s : State) (src q : Nat) : State :=
  let nxt := match s.score.nextHeld (q + 1) with | some r => r.seq | none => s.score.nextSeq
  let s := { s with score := { s.score with latches := aErase s.score.latches src } }
  (s.wr (SCORE.READ_CURSOR.SEQ src) nxt).wr (SCORE.READ_CURSOR.WORD src) 0

/-- A read of a source's SCORE.READ_DATA (R476): the value, and the state with the cursor moved on. -/
def readDataStep (src : Nat) (s : State) : Nat × State :=
  let q := s.rd (SCORE.READ_CURSOR.SEQ src)
  let w := s.rd (SCORE.READ_CURSOR.WORD src)
  if w = 0 then
    match s.score.nextHeld q with
    | none => (0, s)
    | some r =>
      let s := { s with score := { s.score with latches := aPut s.score.latches src r.words } }
      (r.words.getD 0 0, (s.wr (SCORE.READ_CURSOR.SEQ src) r.seq).wr (SCORE.READ_CURSOR.WORD src) 1)
  else
    let v := ((aFind s.score.latches src).getD []).getD w 0
    if w = 3 then (v, s.cursorNext src q) else (v, s.wr (SCORE.READ_CURSOR.WORD src) (w + 1))

/-- READ_DATA_READ (R476). -/
def execReadDataRead (src : Nat) (s : State) : Host.Outcome State Fault Refusal :=
  .next (s.viaSource src (fun s => (readDataStep src s).2.emit (.readData src (readDataStep src s).1)))

end Sys2Proof.Machine
end

