-- ==== Sys2Proof/Machine/Security.lean ====
section
/-! DEFINITION. The security engine (R447–R467): authorisations, identity signatures, attestation, firmware staging and activation,
owners and nonces. -/

namespace Sys2Proof.Machine

open Sys2Proof

/-- A list cut or filled with zeros to a length. -/
def fixLen (n : Nat) (l : List Nat) : List Nat := (l ++ List.replicate n 0).take n

/-- Bytes of the sending host's memory. -/
def State.hostRead (s : State) (h addr n : Nat) : List Nat := nats (memBytes s.mem (hostKey h addr) n)

/-! Authorisations (R459–R461). -/

/-- The bytes of a command's authorisation: in the sending host's memory at P5, or behind the packet (R460). -/
def State.authBytes (s : State) (c : Cmd) : List Nat :=
  if c.src = 2 then c.auth else s.hostRead c.src (c.p 5) (128 + min 18_708 (leOf (s.hostRead c.src (c.p 5 + 64) 4)))

/-- A source's nonce taken away. -/
def State.nonceGone (s : State) (src : Nat) : State :=
  { s with sec := { s.sec with nonces := aErase s.sec.nonces src, expiry := aErase s.sec.expiry src } }

/-- Whether an authorisation names the command, this module and its parameters (step 3 of R461). -/
def State.authMatches (s : State) (c : Cmd) (a : List Nat) : Bool :=
  let at' (i n : Nat) : List Nat := (a.drop i).take n
  leOf (at' 0 4) == 1 && a.getD 4 0 == c.opcode && (at' 5 3).all (· == 0) && leOf (at' 8 8) == s.rd HIF.SERIAL.SERIAL &&
    at' 32 32 == sha256 (((List.range 5).map c.p).flatMap (leVals 8)) && decide (leOf (at' 64 4) ≤ 18_708) && (at' 68 60).all (· == 0)

/-- The check of an authorisation: the DETAIL it fails with, none where it passes, and the state with the nonce consumed (R461). -/
def State.authorise (s : State) (c : Cmd) : Option Nat × State :=
  let a := s.authBytes c
  let live := match aFind s.sec.nonces c.src, aFind s.sec.expiry c.src with
    | some n, some e => decide (s.timeBase < e) && n == (a.drop 16).take 16
    | _, _ => false
  if !c.authBit then (some 0x1420, s)
  else if s.sec.owner.isEmpty then (some 0x1421, s)
  else if !live then (some 0x1422, s)
  else if !s.authMatches c a then (some 0x1423, s.nonceGone c.src)
  else if !Config.hssVerify s.sec.owner (a.take 128) ((a.drop 128).take (leOf ((a.drop 64).take 4))) then (some 0x1424, s.nonceGone c.src)
  else (none, s.nonceGone c.src)

/-- An authorisation refused: counted and recorded (R461, Table 21-3). -/
def State.authRefused (s : State) (c : Cmd) (det : Nat) : State :=
  ((s.bump SEC.EVENTS.AUTH_FAILS 1).record 0x0903 c.src det c.opcode).failWith c.id stNotAuthorised det

/-- NONCE_EXPIRY (R459): 60 s of the time base have passed. -/
def nonceExpiry (src : Nat) (s : State) : State :=
  match aFind s.sec.expiry src with
  | some e => if e ≤ s.timeBase then s.nonceGone src else s
  | none => s

/-- NONCE_EXPIRY (R459). -/
def execNonceExpiry (src : Nat) (s : State) : Host.Outcome State Fault Refusal := .next (nonceExpiry src s)

/-- The checks of AUTH_CHALLENGE with OP 0. -/
def checkAuthChallenge (s : State) (c : Cmd) : Option (Nat × Nat) := firstBad [
  (s.ctxBad .device c, stBadContext, 0), (!onlyBits (c.p 0) 1 || !c.restZero 1, stBadParam, 0x1401)]

/-- AUTH_CHALLENGE with OP 0: a fresh nonce for the source, valid for 60 s. -/
def authChallenge (s : State) (c : Cmd) : State :=
  let n := (List.range 16).map (fun i => Config.random (s.freeCtr + i) % 256)
  let e := s.timeBase + 60_000_000_000
  let s := { s with freeCtr := s.freeCtr + 16, sec := { s.sec with nonces := aPut s.sec.nonces c.src n, expiry := aPut s.sec.expiry c.src e } }
  s.doneWith c.id (leOf (n.take 8)) (leOf (n.drop 8)) e

/-- AUTH_CHALLENGE (R459). -/
def execAuthChallenge (k : Nat) (s : State) : Host.Outcome State Fault Refusal :=
  .next (s.runCmd k 0xB3 (fun c => !bit (c.p 0) 0) checkAuthChallenge authChallenge)

/-- A big-endian number. -/
def beOf (l : List Nat) : Nat := l.foldl (fun a b => 256 * a + b % 256) 0

/-- Whether an owner key is an HSS key of the parameters of Table 20-1: levels, LMS and LM-OTS type. -/
def ownerKeyOk (k : List Nat) : Bool :=
  let f (i : Nat) : Nat := beOf ((k.drop (4 * i)).take 4)
  k.length == 60 && (f 0 == 1 || f 0 == 2) && decide (6 ≤ f 1) && decide (f 1 ≤ 9) && decide (1 ≤ f 2) && decide (f 2 ≤ 4)

/-- The key that an enrolment carries. -/
def State.enrolKey (s : State) (c : Cmd) : List Nat := if c.src = 2 then c.auth else s.hostRead c.src (c.p 1) 60

/-- The checks of AUTH_CHALLENGE with OP 1 (Table 20-6). -/
def checkOwnerEnrol (s : State) (c : Cmd) : Option (Nat × Nat) := firstBad [
  (s.ctxBad .device c, stBadContext, 0),
  (!onlyBits (c.p 0) 1 || c.p 1 % 64 != 0 || (c.src == 2 && c.p 1 != 0) || !c.restZero 2, stBadParam, 0x1401),
  (!s.sec.owner.isEmpty || !ownerKeyOk (s.enrolKey c), stBadParam, 0x1404)]

/-- AUTH_CHALLENGE with OP 1 (R458); `fail` is 1 where the write to the replay-protected region fails. -/
def ownerEnrol (fail : Nat) (s : State) (c : Cmd) : State :=
  if fail = 1 then s.failWith c.id stFaulted 0x1433
  else
    let s := { s with sec := { s.sec with owner := s.enrolKey c } }.wr SEC.STATUS.OWNER 1
    (s.record 0x0904 c.src 0 0).doneWith c.id 0 0 0

/-- OWNER_ENROL (R458). -/
def execOwnerEnrol (k fail : Nat) (s : State) : Host.Outcome State Fault Refusal :=
  .next (s.runCmd k 0xB3 (fun c => bit (c.p 0) 0) checkOwnerEnrol (ownerEnrol fail))

/-! The identity key (R455, R456). -/

/-- What asking for an identity signature gives: the index it uses and the state after it, or the status and DETAIL of a refusal. -/
inductive Signed where
  | ok (q : Nat) (s : State)
  | refused (st detail : Nat) (s : State)

/-- An identity signature: at most 1,000 in any second, each with the next index, a block of 4,096 reserved before its first is used;
`fail` is 1 where the reservation's write fails (R455, R456). -/
def State.signNext (s : State) (fail : Nat) : Signed :=
  let recent := s.sec.signed.filter (fun t => decide (s.now < t + 1_000_000_000))
  let next := s.rd SEC.SIG_NEXT.NEXT
  if 1000 ≤ recent.length then .refused stBusyRetry 0x1431 s
  else if s.is SEC.STATUS.EXHAUSTED then .refused stNoResource 0x1432 s
  else if next = s.sec.reserved ∧ fail = 1 then .refused stFaulted 0x1433 s
  else
    let reserved := if next = s.sec.reserved then next + 4096 else s.sec.reserved
    let s := { s with sec := { s.sec with signed := s.now :: recent, reserved := reserved } }
    .ok next ((s.wrs [(SEC.SIG_NEXT.NEXT, next + 1), (SEC.SIG_RESERVED.RESERVED, reserved), (SEC.STATUS.EXHAUSTED, b2n (decide (2 ^ 40 ≤ next + 1)))]).bump
      SEC.EVENTS.SIGNATURES 1)

/-- The identity public key. -/
def identityKey : List Nat := fixLen 60 (Config.publicKey 0)

/-! Attestation (R457, R462). -/

/-- A stage's entry in a report (Table 20-4). -/
def Stage.entry (g : Stage) : List Nat :=
  [g.typ, g.bank, 0, 0] ++ leVals 4 g.version ++ leVals 2 g.svn ++ List.replicate 6 0 ++ fixLen 32 g.digest

/-- The 512 signed bytes of a report over stages. -/
def State.reportBody (s : State) (c : Cmd) (q : Nat) (l : List Stage) : List Nat :=
  leVals 4 1 ++ leVals 4 l.length ++ leVals 8 (s.rd HIF.SERIAL.SERIAL) ++ ([2, 3, 4, 5].map c.p).flatMap (leVals 8) ++ leVals 8 s.timeBase ++ leVals 8 q ++
    identityKey ++ List.replicate 4 0 ++ fixLen 32 (chainOf l) ++ (if s.sec.owner.isEmpty then List.replicate 32 0 else sha256 s.sec.owner) ++
    fixLen 240 (l.flatMap Stage.entry) ++ List.replicate 80 0

/-- The 5,524 bytes of the endorsement (R457). -/
def State.endorsement (s : State) : List Nat :=
  leVals 8 1 ++ leVals 8 (s.rd HIF.SERIAL.SERIAL) ++ identityKey ++ (List.range 8).map (fun i => Config.endorsement i % 256) ++ List.replicate 44 0 ++
    (List.range 5396).map (fun i => Config.endorsement (8 + i) % 256)

/-- The checks of ATTEST (Table 20-5). -/
def checkAttest (s : State) (c : Cmd) : Option (Nat × Nat) := firstBad [
  (s.ctxBad .device c, stBadContext, 0),
  (!onlyBits (c.p 0) 1 || c.p 1 % 64 != 0 || (c.src == 2 && c.p 1 != 0) ||
    (bit (c.p 0) 0 && (c.p 2 != 0 || c.p 3 != 0 || c.p 4 != 0 || c.p 5 != 0)), stBadParam, 0x1401)]

/-- A report delivered: in the source's buffer, read from its start, and at DEST_BA where it is given; discarded where the sending host
has been lost (Table 20-7). -/
def State.deliver (s : State) (c : Cmd) (l : List Nat) (index : Nat) : State :=
  let s :=
    if c.gone then s
    else
      let s := { s with sec := { s.sec with reports := aPut s.sec.reports c.src l, reportAt := aPut s.sec.reportAt c.src 0 } }
      if c.p 1 = 0 then s else s.hostBytes c.src (c.p 1) l
  s.doneWith c.id l.length index 0

/-- ATTEST (R462): the report over the stages measured when the command was accepted, signed, or the endorsement. -/
def attest (fail : Nat) (s : State) (c : Cmd) : State :=
  if bit (c.p 0) 0 then s.deliver c s.endorsement 0
  else match s.signNext fail with
    | .refused st det s => s.failWith c.id st det
    | .ok q t =>
      let body := s.reportBody c q (s.sec.stages.take (c.aux.headD s.sec.stages.length))
      t.deliver c (body ++ fixLen 5716 (Config.hssSign q body)) q

/-- ATTEST (R462). -/
def execAttest (k fail : Nat) (s : State) : Host.Outcome State Fault Refusal := .next (s.runCmd k 0xB0 always checkAttest (attest fail))

/-- A read of a source's report buffer: 8 bytes, zero beyond the end (R467). -/
def reportRead (h : Nat) (s : State) : Nat × State :=
  let at' := (aFind s.sec.reportAt h).getD 0
  (leOf (((((aFind s.sec.reports h).getD []).drop at').take 8)), { s with sec := { s.sec with reportAt := aPut s.sec.reportAt h (at' + 8) } })

/-- REPORT_DATA_READ (R467). -/
def execReportDataRead (src h : Nat) (s : State) : Host.Outcome State Fault Refusal :=
  .next (s.viaSource src (fun s => (reportRead h s).2.emit (.readData src (reportRead h s).1)))

/-! Firmware (R452–R454). -/

/-- TYPE of a firmware command. -/
def Cmd.fwType (c : Cmd) : Nat := bits (c.p 0) 0 2
/-- OFFSET. -/
def Cmd.fwOff (c : Cmd) : Nat := c.p 2
/-- LENGTH. -/
def Cmd.fwLen (c : Cmd) : Nat := c.p 3

/-- The bank of a type that is not the active one. -/
def State.stageBank (s : State) (y : Nat) : Nat := 1 - s.rd (SEC.FW_STATE.ACTIVE_BANK y)

/-- The staged bank's state: 0 EMPTY, 1 LOADING, 2 VERIFIED, 3 FAILED. -/
def State.staged (s : State) (y : Nat) : Nat := s.rd (SEC.FW_STATE.STAGED y)

/-- Whether staging is held: the bank is LOADING for another source, or has been activated and not yet booted (0x1411). -/
def State.stageBusy (s : State) (c : Cmd) : Bool :=
  (s.staged c.fwType == 1 && (s.bank c.fwType (s.stageBank c.fwType)).source != c.src) || s.sec.activated.contains c.fwType

/-- Whether a FW_STAGE carries a chunk at OFFSET 0, which begins the bank again. -/
def Cmd.fwBegins (c : Cmd) : Bool := c.fwOff == 0 && c.fwLen != 0

/-- The checks of FW_STAGE (Table 20-6). -/
def checkFwStage (s : State) (c : Cmd) : Option (Nat × Nat) := firstBad [
  (s.ctxBad .device c, stBadContext, 0),
  (!onlyBits (c.p 0) 0x7 || c.fwType == 3 || c.p 1 % 64 != 0 || (c.src == 2 && c.p 1 != 0) || decide (2 ^ 25 ≤ c.fwOff) || c.fwOff % 64 != 0 ||
    decide (1_048_576 < c.fwLen) || c.fwLen % 64 != 0 || (c.fwLen == 0 && !bit (c.p 0) 2) ||
    (c.src == 2 && (decide (4096 < c.fwLen) || c.auth.length != c.fwLen)) || !c.restZero 4, stBadParam, 0x1401),
  (decide (2 ^ 25 < c.fwOff + c.fwLen), stBadParam, 0x1402),
  (s.stageBusy c, stBusyRetry, 0x1411),
  (!c.fwBegins && s.staged c.fwType != 1, stBadParam, 0x1402),
  (bit (c.p 0) 2 && !c.fwBegins && !(s.bank c.fwType (s.stageBank c.fwType)).begun, stBadParam, 0x1402)]

/-- A chunk written into the bank that is not active (R452). -/
def State.stageChunk (s : State) (c : Cmd) : State :=
  let y := c.fwType
  let b := s.stageBank y
  let x := s.bank y b
  let data := if c.src = 2 then c.auth else s.hostRead c.src (c.p 1) c.fwLen
  let x : FwBank := if c.fwBegins then { bytes := some [], source := c.src, begun := true } else x
  let s := s.setBank y b { x with bytes := some (slotWrite (x.bytes.getD []) c.fwOff data) }
  (s.wr (SEC.FW_STATE.STAGED y) 1).wr (SEC.FW_VERSION.STAGED y) 0

/-- FW_STAGE (R452): a chunk. -/
def execFwStage (k : Nat) (s : State) : Host.Outcome State Fault Refusal :=
  .next (s.runCmd k 0xB1 (fun c => !bit (c.p 0) 2 && !bit (c.p 0) 3) checkFwStage (fun s c => (s.stageChunk c).doneWith c.id 1 0 0))

/-- FW_STAGE with FINAL (R451, R452): the bank verified. -/
def fwFinal (s : State) (c : Cmd) : State :=
  let y := c.fwType
  let b := s.stageBank y
  let s := s.stageChunk c
  match s.fwFault y b with
  | none => ((s.wr (SEC.FW_STATE.STAGED y) 2).wr (SEC.FW_VERSION.STAGED y) (s.fwVersion y b)).doneWith c.id 2 (s.fwPayload y b) 0
  | some det => ((s.wr (SEC.FW_STATE.STAGED y) 3).bump SEC.EVENTS.STAGE_FAILS 1).failWith c.id stDigestFail det

/-- FW_STAGE_FINAL (R451). -/
def execFwStageFinal (k : Nat) (s : State) : Host.Outcome State Fault Refusal :=
  .next (s.runCmd k 0xB1 (fun c => bit (c.p 0) 2 && !bit (c.p 0) 3) checkFwStage fwFinal)

/-- The checks of FW_STAGE with ABORT. -/
def checkFwAbort (s : State) (c : Cmd) : Option (Nat × Nat) := firstBad [
  (s.ctxBad .device c, stBadContext, 0),
  (!onlyBits (c.p 0) 0xB || c.fwType == 3 || !c.restZero 1, stBadParam, 0x1401),
  (s.stageBusy c, stBusyRetry, 0x1411)]

/-- FW_STAGE with ABORT: the bank EMPTY. -/
def fwAbort (s : State) (c : Cmd) : State :=
  let y := c.fwType
  let s := s.setBank y (s.stageBank y) { bytes := some [] }
  ((s.wr (SEC.FW_STATE.STAGED y) 0).wr (SEC.FW_VERSION.STAGED y) 0).doneWith c.id 0 0 0

/-- FW_STAGE_ABORT (R452). -/
def execFwStageAbort (k : Nat) (s : State) : Host.Outcome State Fault Refusal :=
  .next (s.runCmd k 0xB1 (fun c => bit (c.p 0) 3) checkFwAbort fwAbort)

/-- The checks of FW_ACTIVATE, its authorisation having been checked at acceptance (Table 20-6). -/
def checkFwActivate (s : State) (c : Cmd) : Option (Nat × Nat) := firstBad [
  (s.ctxBad .device c, stBadContext, 0),
  (!onlyBits (c.p 0) 7 || c.fwType == 3 || c.p 1 != 0 || c.p 2 != 0 || c.p 3 != 0 || c.p 4 != 0 || (c.src == 2 && c.p 5 != 0), stBadParam, 0x1401),
  (s.staged c.fwType != 2, stBadParam, 0x1403)]

/-- FW_ACTIVATE (R453): the VERIFIED bank is the boot bank from the next boot of its type; `fail` is 1 where the write to the
replay-protected region fails. -/
def fwActivate (fail : Nat) (s : State) (c : Cmd) : State :=
  let y := c.fwType
  let b := s.stageBank y
  if fail = 1 then s.failWith c.id stFaulted 0x1433
  else
    let commits := s.sec.commits.filter (· != y)
    let sec := { s.sec with
      boot := aPut s.sec.boot y b, activated := s.sec.activated.filter (· != y) ++ [y], commits := if bit (c.p 0) 2 then commits ++ [y] else commits }
    let s := { s with sec := sec, mgmt := { s.mgmt with held := s.mgmt.held && y != 2 } }
    let s := (s.wr (SEC.FW_STATE.BOOT_BANK y) b).wr (SEC.FW_STATE.COMMIT_PENDING y) (bits (c.p 0) 2 1)
    (s.record 0x0902 y b 0).doneWith c.id b 0 0

/-- FW_ACTIVATE (R453). -/
def execFwActivate (k fail : Nat) (s : State) : Host.Outcome State Fault Refusal :=
  .next (s.runCmd k 0xB2 always checkFwActivate (fwActivate fail))

/-- SVN_COMMIT (R454): a tick boundary has come since the activated image began to run, every earlier stage measured: the floor rises
to its SVN. -/
def svnCommit (y : Nat) (s : State) : State :=
  if s.tickSince ((aFind s.sec.ranAt y).getD 0) ∧ s.sec.commits.contains y ∧ !s.sec.activated.contains y ∧ s.rd (SEC.FW_STATE.ACTIVE_BANK y) = s.bootBank y ∧ (y < 2 ∨ (y = 2 ∧ s.mgmt.amelo)) then
    let f := max (s.floor y) (s.rd (SEC.FW_STATE.SVN y))
    let s := { s with sec := { s.sec with floors := aPut s.sec.floors y f, commits := s.sec.commits.filter (· != y) } }
    ((s.wr (SEC.FW_STATE.FLOOR y) f).wr (SEC.FW_STATE.COMMIT_PENDING y) 0).record 0x0902 y (s.bootBank y) f
  else s

/-- SVN_COMMIT (R454). -/
def execSvnCommit (typ : Nat) (s : State) : Host.Outcome State Fault Refusal := .next (svnCommit typ s)

end Sys2Proof.Machine
end

