-- ==== Sys2Proof/Machine/Accept.lean ====
section
/-! DEFINITION. Acceptance of commands by Amelo (R355, R356, Tables 15-2 and 15-5), and the two events whose memory accesses touch every
unit: a mover's next request and a fabric request at its home. -/

namespace Sys2Proof.Machine

open Sys2Proof

/-! The checks of acceptance. -/

/-- The opcodes of Table 15-5. -/
def opcodes : List Nat :=
  [0x00, 0x01, 0x02, 0x03, 0x04, 0x10, 0x11, 0x12, 0x13, 0x14, 0x15, 0x16, 0x17, 0x18, 0x20, 0x21, 0x22, 0x23, 0x24, 0x25,
   0x30, 0x31, 0x32, 0x33, 0x34, 0x40, 0x41, 0x42, 0x43, 0x44, 0x45, 0x46, 0x47, 0x48, 0x49, 0x50, 0x51, 0x52,
   0x60, 0x61, 0x62, 0x63, 0x64, 0x70, 0x71, 0x72, 0x73] ++
  [0x80, 0x81, 0x82, 0x83, 0x84, 0x85, 0x86, 0x87, 0x90, 0x91, 0x92, 0xA0, 0xA1, 0xA2, 0xA3, 0xB0, 0xB1, 0xB2, 0xB3]

/-- The opcodes that the side-band port accepts (Table 15-5). -/
def sideOpcodes : List Nat :=
  [0x00, 0x01, 0x02, 0x03, 0x04, 0x73, 0x80, 0x86, 0x90, 0x91, 0x92, 0xA0, 0xA1, 0xA2, 0xA3, 0xB0, 0xB1, 0xB2, 0xB3]

/-- The opcodes that take CONTEXT 0xFFFF only. -/
def deviceOpcodes : List Nat :=
  [0x60, 0x61, 0x62, 0x64, 0x80, 0x81, 0x82, 0x83, 0x84, 0x85, 0x86, 0x87, 0x90, 0xA0, 0xA1, 0xA2, 0xA3, 0xB0, 0xB1, 0xB2, 0xB3]

/-- The opcodes that take a live context or 0xFFFF. -/
def anyOpcodes : List Nat := [0x00, 0x01, 0x02, 0x04, 0x91]

/-- Check 4 of Table 15-2: whether CONTEXT is not as the command requires. -/
def State.ctxWrong (s : State) (c : Cmd) : Bool :=
  if deviceOpcodes.contains c.opcode then s.ctxBad .device c
  else if anyOpcodes.contains c.opcode then s.ctxBad .any c
  else if c.opcode = 0x10 then c.context != 0xFFFF && (decide (1024 ≤ c.context) || s.inUse c.context)
  else if c.opcode = 0x11 then !(s.owns c.src c.context || (s.inUse c.context && s.rd (SCHED.CTX_STATE.LIFE c.context) == 2))
  else if c.opcode = 0x16 then !((bit (c.p 0) 0 && c.context == 0xFFFF) || s.owns c.src c.context)
  else if c.opcode = 0x18 then (if bit (c.p 0) 0 then c.context != 0xFFFF else !s.orphaned c.context)
  else if c.opcode = 0x73 && c.byTag then false
  else s.ctxBad .owned c

/-- The commands that require an authorisation (R460). -/
def Cmd.needsAuth (c : Cmd) : Bool := c.opcode == 0xA1 || c.opcode == 0xB2

/-- Checks 2 to 4 of Table 15-2 on a packet, and the part of check 5 that looks at AUTH alone. -/
def State.acceptBad (s : State) (c : Cmd) : Option (Nat × Nat) := firstBad [
  (!opcodes.contains c.opcode || (c.src == 2 && !sideOpcodes.contains c.opcode), stBadOpcode, 0),
  ((c.src != 2 && decide (1 < bits (c.words.getD 0 0) 56 2)) || bits (c.words.getD 0 0) 12 4 != 0 || bits (c.words.getD 0 0) 58 6 != 0, stBadParam, 0x0F01),
  (s.ctxWrong c, stBadContext, 0),
  (c.authBit && !c.needsAuth, stBadParam, 0x0F03)]

/-- An accepted command put among those in flight, with what ATTEST takes at its acceptance (R462); a failed check fixes its status. -/
def State.enter (s : State) (c : Cmd) : State :=
  let c : Cmd := { c with id := s.nextCmd, since := s.now, aux := if c.opcode = 0xB0 then [s.sec.stages.length] else [] }
  let s := { s with cmds := s.cmds ++ [c], nextCmd := s.nextCmd + 1 }
  match s.acceptBad c with
  | some (st, d) => s.failWith c.id st d
  | none =>
    if c.needsAuth then
      match s.authorise c with
      | (some d, s) => s.authRefused c d
      | (none, s) => s
    else s

/-! Heads of the channels (R355). -/

/-- The head of a channel's queue as a command. -/
def State.headOf (s : State) (chan : Nat) : Option Cmd :=
  (s.chan chan).queue.head?.map (fun w => ({ id := s.nextCmd, src := chan / 64, chan := chan, words := w } : Cmd))

/-- CLASS as a priority: 0 before every other value. -/
def Cmd.prio (c : Cmd) : Nat := if bits (c.words.getD 0 0) 56 2 = 0 then 0 else 1

/-- Whether the queue that a mover command's descriptor needs is full, counting the commands accepted that have not joined it (R143). -/
def State.moverFull (s : State) (c : Cmd) : Bool :=
  let m := s.cmdMover c
  let q := s.moverQueue c.context
  let waits := s.cmds.filter (fun d => decide (0x20 ≤ d.opcode) && decide (d.opcode ≤ 0x25) && !d.started && d.status.isNone && s.cmdMover d == m && s.moverQueue d.context == q)
  decide (0x20 ≤ c.opcode) && decide (c.opcode ≤ 0x25) && decide (64 ≤ s.queueLen m q + waits.length)

/-- Whether a head may be accepted now: nothing holds its channel, its mover has room, and its reply has (R143, R355, R361). -/
def State.mayAccept (s : State) (c : Cmd) : Bool :=
  !s.holds c.chan && !s.moverFull c &&
    !(decide (4096 ≤ s.hold.length) && c.ring / 128 == c.src && s.is (CMD.RING_CTL.ENABLE c.ring) &&
      (s.ringFull c.ring || s.hold.any (fun h => h.ring == c.ring)))

/-- The heads that may be accepted now. -/
def State.heads (s : State) : List Cmd := (List.range 128).filterMap (fun n => (s.headOf n).filter s.mayAccept)

/-- Whether channel `chan` comes next among the heads (R34, R355): no head of a higher class, and none of its own that has been pending
since before this channel's last grant. -/
def State.turnOf (s : State) (c : Cmd) : Bool :=
  s.heads.all (fun d => d.chan == c.chan || (decide (c.prio ≤ d.prio) && (decide (c.prio < d.prio) || decide ((s.chan c.chan).lastGrant ≤ (s.chan d.chan).headSince))))

/-- A head taken off its queue, and its channel granted. -/
def State.takeHead (s : State) (n : Nat) : State :=
  let x := s.chan n
  ({ s with grants := s.grants + 1 }.setChan n { x with queue := x.queue.drop 1, headSince := s.grants + 1, lastGrant := s.grants + 1 }).chanRegs n

/-- COMMAND_ACCEPT (R355, R356): check 1 of Table 15-2 answers in the error ring, the others by the command's own reply. -/
def commandAccept (n : Nat) (s : State) : State :=
  match s.headOf n with
  | none => s
  | some c =>
    if !s.mgmt.amelo || !s.mayAccept c || !s.turnOf c then s
    else
      let s := s.takeHead n
      if c.ring / 128 = c.src ∧ s.is (CMD.RING_CTL.ENABLE c.ring) then (s.enter c).chanRegs n
      else
        let s := s.errReply n stBadParam c.opcode c.context c.seq 0x0F02 0
        if c.signalAfter then s.chanSignal n else s

/-- COMMAND_ACCEPT (R355). -/
def execCommandAccept (chan : Nat) (s : State) : Host.Outcome State Fault Refusal := .next (if chan < 128 then commandAccept chan s else s)

/-! Requests that reach memory. -/

/-- MOVER_REQUEST_ISSUE (R141): `retried` and `failed` name the blocks whose read met a CRC or parity error. -/
def execMoverRequestIssue (mover : Nat) (retried failed : List Nat) (s : State) : Host.Outcome State Fault Refusal :=
  .next (if mover < 48 then (moverIssue mover (s.readErrors retried failed)).noteArrivals else s)

/-- TILE_START (R118): the core's reads for the tile may have met parity errors (R130). -/
def execTileStart (die : Nat) (core : Reader) (s : State) : Host.Outcome State Fault Refusal :=
  .next (tileStart die core.no (s.readErrors core.retried core.failed))

/-- PROGRAM_RECORD_START (R377): likewise, for the reads of a record. -/
def execProgramRecordStart (die : Reader) (s : State) : Host.Outcome State Fault Refusal :=
  .next (recordStart die.no (s.readErrors die.retried die.failed))

/-- FABRIC_REQUEST_SERVE (R289): likewise. -/
def execFabricRequestServe (packet : Nat) (retried failed : List Nat) (s : State) : Host.Outcome State Fault Refusal :=
  .next ((fabricServe packet (s.readErrors retried failed)).noteArrivals)

end Sys2Proof.Machine
end

