-- ==== Sys2Proof/Machine/Clocks.lean ====
section
/-! DEFINITION. Clock domains (R434–R446): failures and what they move or stop, the return to ROOT, CLOCK_SELECT and GATE_SET. -/

namespace Sys2Proof.Machine

open Sys2Proof

/-- A register as its 64-bit word: its fields at their places, reserved bits zero (R8). -/
def State.regWord (s : State) (r : Reg) : Nat := (r.fields.map (fun p => s.rd p.1 * 2 ^ p.1.lo)).sum

/-- The source a domain names. -/
def State.domSource (s : State) (i : Nat) : Nat := s.rd (CLK.DOM.SOURCE i)

/-- Whether a source is READY (R437): 0 ROOT, 1 INT. -/
def State.srcReady (s : State) (x : Nat) : Bool := if x = 0 then s.is CLK.ROOT.READY else s.is CLK.INT.READY

/-- A link's clock stopped or running: stopped while its domain is STOPPED or GATED. -/
def State.linkClock (s : State) (l : Nat) : State :=
  let i := l / 2
  s.setLink l { s.link l with stopped := s.is (CLK.DOM.STOPPED i) || s.is (CLK.DOM.GATED i) }

/-- What a domain drives stops with it: two links go DOWN with lock lost, or a port is DL_Down and its host LOST (R440). -/
def State.domHalts (s : State) (i : Nat) : State :=
  if i < 48 then
    [2 * i, 2 * i + 1].foldl (fun (t : State) l => (if t.linkState l = 0 then t else t.linkDown l 5).linkClock l) s
  else if i = 80 ∨ i = 81 then hostLinkDown (i - 80) (s.setPort (i - 80) { s.port (i - 80) with training := false })
  else s

/-- What a domain drives starts with it: its links train, its port may train (R441, R490). -/
def State.domRuns (s : State) (i : Nat) : State :=
  if i < 48 then [2 * i, 2 * i + 1].foldl (fun (t : State) l => if t.linkState l = 0 then (t.linkClock l).linkTrain l else t.linkClock l) s
  else if i = 80 ∨ i = 81 then s.portTrain (i - 80)
  else s

/-- The cycles of a domain in a window of 10 µs: of 6.4 GHz ÷ D on ROOT, of 200 MHz ÷ (D ÷ 32), or 200 MHz where D is below 32, on INT
(R434, R438). -/
def State.domExpect (s : State) (i x : Nat) : Nat :=
  let d := s.rd (CLK.DOM.DIVISOR i)
  if x = 0 then 64_000 / d else if 32 ≤ d then 2000 / (d / 32) else 2000

/-- A domain put on a source: counted where it changes. -/
def State.domTo (s : State) (i x : Nat) : State :=
  if s.domSource i = x then s
  else (s.wrs [(CLK.DOM.SOURCE i, x), (CLK.DOM.EXPECT i, s.domExpect i x)]).bump CLK.EVENTS.SWITCHES 1

/-- A domain stopped, no permitted source being READY. -/
def State.domStop (s : State) (i : Nat) : State := (s.wr (CLK.DOM.STOPPED i) 1).domHalts i

/-- A domain moved to ROOT, or started again on it. -/
def State.domRoot (s : State) (i : Nat) : State :=
  let was := s.is (CLK.DOM.STOPPED i)
  let s := (s.domTo i 0).wr (CLK.DOM.STOPPED i) 0
  if was then s.domRuns i else s

/-- The domains. -/
def domains : List Nat := List.range 100

/-- INT failed (Table 19-2): standby domains on INT move to ROOT if it is READY. -/
def State.intFailed (s : State) (count other : Nat) : State :=
  let s := s.wrs [(CLK.INT.READY, 0), (CLK.INT.FAILED, 1)]
  let s := if s.is CLK.ROOT.READY then ((List.range 10).map (90 + ·)).foldl (fun (t : State) i => t.domTo i 0) s else s
  s.record 0x0801 0 count other

/-- The reference failed (Table 19-2): every domain on ROOT moves to INT where it may, and otherwise stops. -/
def State.refFailed (s : State) (count other : Nat) : State :=
  let s := (s.wrs [(CLK.ROOT.READY, 0), (CLK.ROOT.LOCKED, 0), (CLK.ROOT.REF_FAILED, 1), (CLK.ROOT.INT_COUNT, other)]).bump CLK.EVENTS.REF_FAILS 1
  let l := domains.filter (fun i => s.domSource i == 0 && !s.is (CLK.DOM.STOPPED i))
  let s := l.foldl (fun (t : State) i => if t.is (CLK.DOM.INT_OK i) then t.domTo i 1 else t.domStop i) s
  { s with clkMoved := s.clkMoved ++ l, clkBring := false, mgmt := { s.mgmt with clocksDue := false } }.record 0x0801 0 count other

/-- One domain failed (Table 19-2). -/
def State.domFailed (s : State) (i count other : Nat) : State :=
  let s := (s.wrs [(CLK.DOM.FAILED i, 1), (CLK.DOM.COUNT i, count)]).bump CLK.EVENTS.DOM_FAILS 1
  let s := { s with clkMoved := s.clkMoved.filter (· != i) }
  (if s.is (CLK.DOM.INT_OK i) then s.domTo i 1 else s.domStop i).record 0x0802 i count other

/-- CLOCK_FAILURE (R438, R439): `kind` 0 INT's halves disagree, 1 the reference, 2 the domain `dom` alone; `count` and `other` are the
counts of the window. With INT failed nothing else is monitored. -/
def clockFailure (kind dom count other : Nat) (s : State) : State :=
  if !s.mgmt.standby || s.is CLK.INT.FAILED then s
  else if kind = 0 then s.intFailed count other
  else if kind = 1 then (if s.mainOn && s.is CLK.ROOT.READY then s.refFailed count other else s)
  else if dom < 100 ∧ (s.mainOn ∨ 90 ≤ dom) ∧ !s.is (CLK.DOM.STOPPED dom) ∧ !s.is (CLK.DOM.GATED dom) then s.domFailed dom count other
  else s

/-- CLOCK_FAILURE (R439). -/
def execClockFailure (kind dom count other : Nat) (s : State) : Host.Outcome State Fault Refusal := .next (clockFailure kind dom count other s)

/-- CLOCK_AUTO_RETURN (R441): once a tick boundary has found ROOT READY. -/
def clockAutoReturn (s : State) : State :=
  if s.bimon ∧ s.mgmt.clocksDue ∧ s.is CLK.ROOT.READY ∧ s.is CLK.CTL.AUTO_RETURN then { (s.clkMoved.foldl State.domRoot s) with clkMoved := [] } else s

/-- CLOCK_AUTO_RETURN (R441). -/
def execClockAutoReturn (s : State) : Host.Outcome State Fault Refusal := .next (clockAutoReturn s)

/-- The move of the standby domains to ROOT at the tick after ROOT READY in a bring-up (R488). -/
def State.bringTick (s : State) : State :=
  if s.clkBring && s.is CLK.ROOT.READY then
    { (((List.range 10).map (90 + ·)).foldl (fun (t : State) i => t.domTo i 0) s) with clkBring := false }
  else s

/-! The commands (R443, R444). -/

/-- DOMAIN of a clock command. -/
def Cmd.dom (c : Cmd) : Nat := bits (c.p 0) 0 7
/-- SOURCE or GATE. -/
def Cmd.domBit (c : Cmd) : Nat := bits (c.p 0) 8 1

/-- Whether the selection that a CLOCK_SELECT names is in force. -/
def State.selected (s : State) (c : Cmd) : Bool := s.domSource c.dom == c.domBit && !s.is (CLK.DOM.STOPPED c.dom)

/-- The checks of CLOCK_SELECT (Table 19-5) before READY is looked at. -/
def checkClockSelect (s : State) (c : Cmd) : Option (Nat × Nat) := firstBad [
  (s.ctxBad .device c, stBadContext, 0),
  (!onlyBits (c.p 0) 0x17F || !c.restZero 1 || decide (99 < c.dom), stBadParam, 0x1301),
  (c.domBit == 1 && (!s.is (CLK.DOM.INT_OK c.dom) || (decide (48 ≤ c.dom) && decide (c.dom ≤ 89) && s.rd TOPO.PARTITION.STATE != 0)), stBadParam, 0x1302)]

/-- A clock command's reply: the domain's CLK.DOM. -/
def State.domReply (s : State) (c : Cmd) : State := s.doneWith c.id (s.regWord (.CLK_DOM c.dom)) 0 0

/-- CLOCK_SELECT: a target that is not READY refuses the switch, and is counted (R437). -/
def clockSelect (s : State) (c : Cmd) : State :=
  if s.selected c then s.domReply c
  else if !s.srcReady c.domBit then (s.bump CLK.EVENTS.REFUSED 1).failWith c.id stBusyRetry 0x1304
  else
    let s := { s with clkMoved := s.clkMoved.filter (· != c.dom) }
    (if c.domBit = 0 then s.domRoot c.dom else (s.domTo c.dom 1).wr (CLK.DOM.STOPPED c.dom) 0).domReply c

/-- CLOCK_SELECT (R443). -/
def execClockSelect (k : Nat) (s : State) : Host.Outcome State Fault Refusal := .next (s.runCmd k 0xA2 always checkClockSelect clockSelect)

/-- Whether a domain may be gated now (Table 19-4). -/
def State.gateable (s : State) (i : Nat) : Bool :=
  i == 97 || i == 98 || ((i == 80 || i == 81) && s.hostState (i - 80) == 0) ||
    (decide (i < 48) && s.linkState (2 * i) == 0 && s.linkState (2 * i + 1) == 0)

/-- The checks of GATE_SET (Table 19-5). -/
def checkGateSet (s : State) (c : Cmd) : Option (Nat × Nat) := firstBad [
  (s.ctxBad .device c, stBadContext, 0),
  (!onlyBits (c.p 0) 0x17F || !c.restZero 1 || decide (99 < c.dom), stBadParam, 0x1301),
  (!(decide (c.dom < 48) || c.dom == 80 || c.dom == 81 || c.dom == 97 || c.dom == 98), stBadParam, 0x1303),
  (s.rd (CLK.DOM.GATED c.dom) != c.domBit && !s.gateable c.dom, stBusyRetry, 0x1305)]

/-- GATE_SET: a gated domain drives nothing; a port's domain let go lets the port train. -/
def gateSet (s : State) (c : Cmd) : State :=
  let i := c.dom
  if s.rd (CLK.DOM.GATED i) = c.domBit then s.domReply c
  else
    let s := s.wr (CLK.DOM.GATED i) c.domBit
    let s :=
      if i < 48 then (s.linkClock (2 * i)).linkClock (2 * i + 1)
      else if i = 80 ∨ i = 81 then
        (if c.domBit = 1 then s.setPort (i - 80) { s.port (i - 80) with training := false } else s.portTrain (i - 80))
      else s
    s.domReply c

/-- GATE_SET (R443). -/
def execGateSet (k : Nat) (s : State) : Host.Outcome State Fault Refusal := .next (s.runCmd k 0xA3 always checkGateSet gateSet)

end Sys2Proof.Machine
end

