-- ==== Sys2Proof/Machine/Jobs.lean ====
section
/-! DEFINITION. Job aborts and restarts (R299, R310–R312, R319): what an abort ends on a module, the flood, JOB_ABORT and JOB_RESTART. -/

namespace Sys2Proof.Machine

open Sys2Proof

/-! What an abort ends. -/

/-- Whether a context is one of the partition's: it was made while the module was in it (R261). -/
def State.ofJob (s : State) (c : Nat) : Bool := s.inUse c && (s.ctx c).job == s.rd TOPO.PARTITION.ID

/-- The partition's contexts. -/
def State.jobCtxs (s : State) : List Nat := (s.ctxs.map Prod.fst).filter s.ofJob

/-- The launches of the partition's contexts end JOB_ABORTED; their tiles are abandoned and nothing of them is written (Table 3-7). -/
def State.abortLaunches (s : State) : State :=
  let l := (s.launches.filter (fun l => s.ofJob l.ctx)).map Launch.id
  let s := l.foldl (fun (t : State) i => t.endLaunch i stJobAborted 0) s
  { s with launches := s.launches.filter (fun x => !l.contains x.id), tiles := s.tiles.filter (fun t => !l.contains t.launch) }

/-- A descriptor's requests that have not completed, as TOTAL.ABORTED counts them. -/
def Desc.openReqs (d : Desc) : Nat := (d.live.filter (fun r => !r.over)).length

/-- The descriptors of the trump and plain queues discarded, with no signal (R152). -/
def State.abortDescs (s : State) : State :=
  let l := s.descs.filter (fun d => d.queue != 0 && s.ofJob d.ctx)
  let s := s.bump MOVE.TOTAL.ABORTED ((l.map Desc.openReqs).sum)
  let s := { s with descs := s.descs.filter (fun d => !(d.queue != 0 && s.ofJob d.ctx)) }
  let s := (l.filter (fun d => d.issuer == 0)).foldl (fun (t : State) d => t.finish d.owner stJobAborted 0 d.bytes 0 0) s
  (List.range 48).foldl State.moverRegs s

/-- The open fault entries of the partition's contexts close; an ABSENT entry's record goes again with WITHDRAWN set (Table 5-13). -/
def State.abortFaults (s : State) : State :=
  (s.faults.filter (fun e => e.isOpen && s.ofJob e.ctx)).foldl (fun (t : State) e =>
    (e.parked.filter (fun p => p.kind != 0)).foldl (fun (u : State) p => u.endParked stJobAborted 0 p) (t.closeEntry e true)) s

/-- Whether a command in flight ends with the job: it waits for a condition, for pages to move, for a step, or for another module. -/
def State.abortsCmd (s : State) (c : Cmd) : Bool :=
  c.status.isNone && s.ofJob c.context &&
    (s.hasReqs c.origin.who || (c.started && (c.opcode == 0x03 || c.opcode == 0x14 || c.opcode == 0x42 || c.opcode == 0x43)))

/-- The commands that end JOB_ABORTED; a MIGRATE tells the pages it has moved. -/
def State.abortCmds (s : State) : State :=
  (s.cmds.filter s.abortsCmd).foldl (fun (t : State) c => t.finish c.id stJobAborted 0 (if c.opcode = 0x14 then c.moved else 0) 0 0) s

/-- Hands after an abort (Table 9-7): LOST. -/
def State.abortHands (s : State) : State :=
  let s := { s with steps := s.steps.filter (fun t => !s.ofJob t.ctx) }
  (handNos.filter (fun n => s.handState n != 0 && s.ofJob (s.handCtx n))).foldl (fun (t : State) n => t.handLost n true) s

/-- The unanswered requests of the partition's contexts ended; those of page moves go again under the new epoch, unless they are for a
lost module (R152, R299). The tags, result stores and far-read caches are empty. -/
def State.abortReqs (s : State) : State :=
  let keep (r : FabReq) : Bool := (r.who.kind % 100 == 4 || r.who.kind == 7) && !s.topo.lost.contains r.target
  let ends := s.fabric.reqs.filter (fun r => !keep r)
  let kept := s.fabric.reqs.filter keep
  let f := { s.fabric with reqs := ([] : List FabReq), tags := [], loadTag := 0, results := [], got := s.fabric.got.filter (fun g => g.who.kind == 4) }
  let s := ({ s with fabric := f }.storeSources.bump FAB.HUNG.RELEASED ends.length).farDrop (fun _ => true)
  (kept.foldl (fun (t : State) r => t.fabSend { r with tries := 0, route := 0 }) s).hungNow

/-- Page moves after an abort: those that no longer serve anything are not begun; a lost module's acknowledgement is not awaited
(Table 5-8). -/
def State.abortMoves (s : State) : State :=
  { s with
    wants := s.wants.filter (fun m => !((m.cause == 0 || m.cause == 2 || m.cause == 9) && s.ofJob m.ctx)),
    moves := s.moves.map (fun (m : Move) => { m with await := m.await.filter (fun c => !s.topo.lost.contains c) }) }

/-- Contexts after an abort (Table 11-3): step counter 0, PAUSED and FAULT clear; PREEMPTED stands. -/
def State.abortCtxs (s : State) : State :=
  s.jobCtxs.foldl (fun (t : State) c => (t.setCtx c { t.ctx c with stepNo := 0, paused := 0 }).ctxRun c) s

/-- An abort applied (R299, R311): CAUSE, the originating chip, and the lost chip or 0xFFF. -/
def State.abortApply (s : State) (cause origin lost : Nat) : State :=
  let s := if lost = 0xFFF ∨ s.topo.lost.contains lost then s else { s with topo := { s.topo with lost := s.topo.lost ++ [lost] } }
  let s := (s.wr FAB.EPOCH.EPOCH (s.rd FAB.EPOCH.EPOCH + 1)).bump FAB.EPOCH.ABORTS 1
  let s := (s.abortCmds.abortDescs.abortFaults).abortLaunches
  let s := (s.abortMoves.abortReqs).abortHands
  let s := s.intakeAbort.abortCtxs
  let s := if s.rd TOPO.PARTITION.STATE = 1 then s.wr TOPO.PARTITION.STATE 2 else s
  let s := s.wrs [(TOPO.LOSS.LOST_CHIP, lost), (TOPO.LOSS.CAUSE, cause), (TOPO.LOSS.ORIGIN, origin), (TOPO.LOSS_TIME.TIME, s.timeBase)]
  let s := s.record 0x0305 0 cause (origin + s.rd FAB.EPOCH.EPOCH * 2 ^ 12)
  (s.preemptReplies).topoEvent.drainRegs

/-! The flood (R310). -/

/-- The data of an ABORT packet. -/
def State.abortData (s : State) (cause lost : Nat) : List Nat :=
  leVals 2 (s.rd TOPO.PARTITION.ID) ++ [(s.rd FAB.EPOCH.EPOCH + 1) % 16, cause] ++ leVals 2 s.chip ++ leVals 2 lost ++ leVals 8 s.timeBase ++ List.replicate 48 0

/-- An abort that this module originates, in any state but UNJOINED: flooded on every UP port, and applied here. -/
def State.abortOriginate (s : State) (cause lost : Nat) : State :=
  if s.rd TOPO.PARTITION.STATE = 0 then s
  else
    let p := s.ctlPacket 0x42 (s.abortData cause lost)
    State.abortApply (List.foldl (fun (t : State) q => t.ctlSend q p) s Sys2Proof.Machine.ports) cause s.chip lost

/-- ABORT_RECEIVE (R310): an ABORT of this partition with the next epoch is applied and forwarded on every other UP port; any other is
discarded. -/
def abortReceive (i : Nat) (s : State) : State :=
  match s.inboxAt i with
  | none => s
  | some p =>
    if p.op != 0x42 then s
    else
      let s := s.inboxDrop i
      let d := p.data
      if s.rd TOPO.PARTITION.STATE = 0 ∨ leOf (d.take 2) ≠ s.rd TOPO.PARTITION.ID ∨ d.getD 2 0 ≠ (s.rd FAB.EPOCH.EPOCH + 1) % 16 then s
      else
        let s := (Sys2Proof.Machine.ports.filter (· != p.port)).foldl (fun (t : State) q => t.ctlSend q p) s
        s.abortApply (d.getD 3 0) (leOf ((d.drop 4).take 2)) (leOf ((d.drop 6).take 2))

/-- ABORT_RECEIVE (R310). -/
def execAbortReceive (packet : Nat) (s : State) : Host.Outcome State Fault Refusal := .next (abortReceive packet s)

/-! The commands (R319). -/

/-- The checks of JOB_ABORT and JOB_RESTART (Table 13-5), given the states that take the command. -/
def checkJob (states : List Nat) (s : State) (c : Cmd) : Option (Nat × Nat) := firstBad [
  (s.ctxBad .device c, stBadContext, 0),
  (!onlyBits (c.p 0) 0xFFFF || !c.restZero 1, stBadParam, 0x0D07),
  (!states.contains (s.rd TOPO.PARTITION.STATE) || c.partId != s.rd TOPO.PARTITION.ID, stBadParam, 0x0D06)]

/-- JOB_ABORT: on a module already ABORTED it has no effect. -/
def jobAbort (s : State) (c : Cmd) : State :=
  let s := if s.rd TOPO.PARTITION.STATE = 2 then s else s.abortOriginate 2 0xFFF
  s.doneWith c.id (s.rd FAB.EPOCH.EPOCH) 0 0

/-- JOB_ABORT (R319). -/
def execJobAbort (k : Nat) (s : State) : Host.Outcome State Fault Refusal := .next (s.runCmd k 0x86 always (checkJob [1, 2, 3]) jobAbort)

/-- The receive areas of a router reset (R166). -/
def State.areasReset (s : State) (r : Router) : State :=
  let s := { s with areas := s.areas.filter (fun a => !(a.ctx == r.ctx && a.slot == r.slot && a.layer == r.layer)) }
  ((s.homed r).flatMap (fun e => [(e, 0), (e, 1)])).foldl (fun (t : State) p => t.areaClear r p.1 p.2) s

/-- The donors of a partition dropped: their FAB.ROUTE entries cleared. -/
def State.donorsOff (s : State) : State :=
  let d := s.topo.members.filter Member.donor
  let s := d.foldl (fun (t : State) m => t.regs0 [FAB.ROUTE.VALID m.chip, FAB.ROUTE.X m.chip, FAB.ROUTE.Y m.chip, FAB.ROUTE.ZPOS m.chip]) s
  { s with topo := { s.topo with members := s.topo.members.filter (fun m => !m.donor), partners := s.topo.partners.filter (fun c => !d.any (fun m => m.chip == c)) } }

/-- JOB_RESTART: an ABORTED member returns to RUNNING, its ring buffers empty (Table 8-7); a donor becomes UNJOINED. -/
def jobRestart (s : State) (c : Cmd) : State :=
  if s.rd TOPO.PARTITION.STATE = 3 then s.unjoin.doneWith c.id 0 0 0
  else
    let s := s.jobCtxs.foldl State.stepZero s
    let s := ((s.routers.filter (fun r => s.ofJob r.ctx)).foldl State.areasReset s).waitRegs
    let s := { s.indexReset.donorsOff with ringLanded := [] }
    ((s.wr PWR.JOB_ENERGY.MJ 0).wr TOPO.PARTITION.STATE 1).doneWith c.id 0 0 0

/-- JOB_RESTART (R319). -/
def execJobRestart (k : Nat) (s : State) : Host.Outcome State Fault Refusal := .next (s.runCmd k 0x87 always (checkJob [2, 3]) jobRestart)

end Sys2Proof.Machine
end

