-- ==== Sys2Proof/Machine/Power.lean ====
section
/-! DEFINITION. Power, heat and energy (R414–R433): the cap and its factors, sharing among dies, the fast limiter, phases of rails, the
phase table, thermal thresholds, energy, and the power commands. -/

namespace Sys2Proof.Machine

open Sys2Proof

/-! The effective limit (R405, R406, R419). -/

/-- L = CAP × c × t, in W (R419). -/
def State.limitL (s : State) : Nat :=
  s.rd PWR.CAP.WATTS * (if s.is PWR.LIMIT_NOW.COOLANT then 5 else 10) * (if s.is PWR.LIMIT_NOW.THERMAL then 7 else 10) / 100

/-- A cap accepted: stored, and taken as the CAP_SET that R405 waits for while minimum pace is in force. -/
def State.capWrite (s : State) (w : Nat) : State :=
  let s := s.wr PWR.CAP.WATTS w
  if s.is PWR.LIMIT_NOW.PWARN then { s with power := { s.power with capSet := true } } else s

/-- The checks of CAP_SET (Table 18-8). -/
def checkCapSet (s : State) (c : Cmd) : Option (Nat × Nat) := firstBad [
  (s.ctxBad .device c, stBadContext, 0),
  (!onlyBits (c.p 0) 0x1FFF || !c.restZero 1, stBadParam, 0x1203),
  (decide (c.p 0 < 2400) || decide (5400 < c.p 0), stBadParam, 0x1201)]

/-- CAP_SET (R420, R430): the cap is stored, and the command replies once the tick that applies it has run. -/
def execCapSet (k : Nat) (s : State) : Host.Outcome State Fault Refusal :=
  .next (s.runCmd k 0x90 always checkCapSet (fun s c => (s.capWrite (bits (c.p 0) 0 13)).start c.id []))

/-- PWR_CAP_WRITE (R433): a write of PWR.CAP acts as CAP_SET without a reply; a value outside 2,400–5,400 is ignored. -/
def pwrCapWrite (value : Nat) (s : State) : State :=
  let w := bits value 0 13
  if 2400 ≤ w ∧ w ≤ 5400 then s.capWrite w else s

/-- PWR_CAP_WRITE (R433); the main rails off, no such register is there. -/
def execPwrCapWrite (src value : Nat) (s : State) : Host.Outcome State Fault Refusal :=
  .next (if s.mainOn then s.viaSource src (pwrCapWrite value) else s)

/-- The checks of ENERGY_READ. -/
def checkEnergyRead (s : State) (c : Cmd) : Option (Nat × Nat) := firstBad [
  (s.ctxBad .any c, stBadContext, 0), (!c.restZero 0, stBadParam, 0x1203)]

/-- ENERGY_READ (R430). -/
def execEnergyRead (k : Nat) (s : State) : Host.Outcome State Fault Refusal :=
  .next (s.runCmd k 0x91 always checkEnergyRead (fun s c =>
    s.doneWith c.id (s.rd PWR.ENERGY.MJ) (s.rd PWR.JOB_ENERGY.MJ) (if c.context = 0xFFFF then 0 else (s.account c.context).energyUj / 1000)))

/-! The phase table (R422–R424). -/

/-- An entry of the phase table written, the dies in its phase following it. -/
def State.phaseWrite (s : State) (n v learnt : Nat) : State :=
  let s := (s.wr (PWR.PHASE.VCODE n) v).wr (PWR.PHASE.LEARNT n) learnt
  (List.range 8).foldl (fun (t : State) d => if t.rd (PWR.DIE_STATUS.TAG d) = n ∧ t.mainOn then (t.railTo d v).limitReg d else t) s

/-- The checks of PHASE_HINT (Table 18-8). -/
def checkPhaseHint (s : State) (c : Cmd) : Option (Nat × Nat) :=
  let tag := bits (c.p 0) 0 6
  firstBad [
    (s.ctxBad .owned c, stBadContext, 0),
    (!onlyBits (c.p 0) 0xFF || !c.restZero 1, stBadParam, 0x1203),
    (if bit (c.p 0) 6 then tag != 0 else decide (tag < 16), stBadParam, 0x1202)]

/-- PHASE_HINT (R422, R430). -/
def phaseHint (s : State) (c : Cmd) : State :=
  let tag := bits (c.p 0) 0 6
  let s := s.setCtx c.context { s.ctx c.context with phaseHint := !bit (c.p 0) 6, phase := tag }
  let s := if bit (c.p 0) 7 && decide (16 ≤ tag) then s.phaseWrite tag 26 0 else s
  s.doneWith c.id 0 0 0

/-- PHASE_HINT (R430). -/
def execPhaseHint (k : Nat) (s : State) : Host.Outcome State Fault Refusal := .next (s.runCmd k 0x92 always checkPhaseHint phaseHint)

/-- Whether a tag's voltage is learnt (Table 18-3). -/
def tagLearnt (n : Nat) : Bool := n == 1 || n == 2 || n == 3 || n == 5 || (decide (16 ≤ n) && decide (n < 64))

/-- The ns that a tag has held a die this tick. -/
def State.tagNs (s : State) (d n : Nat) : Nat := (aFind s.phaseNs (64 * d + n)).getD 0

/-- The learnt phase that held a die the longest in the tick: none where no learnt phase held it. -/
def State.governs (s : State) (d : Nat) : Option Nat :=
  ((List.range 64).filter (fun n => tagLearnt n && s.tagNs d n != 0)).foldl (fun (a : Option Nat) n =>
    match a with | some m => if s.tagNs d m < s.tagNs d n then some n else a | none => some n) none

/-- One die's phase entry updated from the share of its core time spent waiting, per mille (R424). -/
def State.learn (s : State) (d stall : Nat) : State :=
  match s.governs d with
  | none => s
  | some n =>
    let v := s.rd (PWR.PHASE.VCODE n)
    let s := (s.bump (PWR.PHASE.TICKS n) 1).wr (PWR.PHASE.STALL n) (min stall 1000)
    if !s.is PWR.LEARN_CTL.ENABLE then s
    else if s.power.bound.contains d || decide (s.rd PWR.LEARN_CTL.STALL_HIGH < stall) then
      if v = 0 then s else s.phaseWrite n (v - 1) 1
    else if stall < s.rd PWR.LEARN_CTL.STALL_LOW then
      let u := min (v + 1) (s.rd PWR.LEARN_CTL.V_MAX)
      if u = v then s else s.phaseWrite n u 1
    else s

/-- Phase learning of a tick (R424): the phases in progress counted up to the boundary, each die's entry updated, and the counts begun
again. -/
def State.learnAll (s : State) (stalls : List Nat) : State :=
  let s := (List.range 8).foldl (fun (t : State) d => t.setPhase d (t.rd (PWR.DIE_STATUS.TAG d))) s
  let s := (List.range 8).foldl (fun (t : State) d => t.learn d (stalls.getD d 0)) s
  let s := if s.power.bound.isEmpty then s else s.bump PWR.EVENTS.LIMITED_TICKS 1
  { s with phaseNs := [], power := { s.power with bound := [] } }

/-! Sharing (R420). -/

/-- A die's demand, in mW: its mean power over the last ticks scaled from its mean pace to pace 64. -/
def State.demand (s : State) (d : Nat) : Nat :=
  let w := (s.power.hist.map (fun h => h.getD d 0)).sum
  let p := (s.power.hist.map (fun h => h.getD (8 + d) 0)).sum
  w * 64 * 1000 / p

/-- L shared among the dies (R420), from the power of the last tick: module, then VCD0–VCD7. -/
def State.share (s : State) (watts : List Nat) : State :=
  let input := watts.headD 0
  let vcd := (List.range 8).map (fun d => watts.getD (1 + d) 0)
  let h := vcd ++ (List.range 8).map (fun d => s.rd (PWR.DIE_STATUS.PACE d))
  let s := { s with power := { s.power with hist := (h :: s.power.hist).take 16 } }
  let o := input - vcd.sum
  let l := s.limitL
  let b := l - o
  let sum := ((List.range 8).map s.demand).sum
  let limit (d : Nat) : Nat :=
    if b < 8 * 95 then b / 8 else max 95 (if sum = 0 then Config.freeData (s.freeCtr + d) % (b + 1) else b * s.demand d / sum)
  let s := { s with power := { s.power with limits := (List.range 8).map (fun d => (d, limit d)) } }
  let s := if sum = 0 then { s with freeCtr := s.freeCtr + 8 } else s
  (List.range 8).foldl State.limitReg (s.wrs [(PWR.LIMIT_NOW.LIMIT_W, l), (PWR.LIMIT_NOW.MODULE_W, min input 8191), (PWR.LIMIT_NOW.OTHER_W, min o 8191)])

/-! The fast limiter (R417, R418). -/

/-- PACE_MAX (R418). -/
def State.paceMax (s : State) : Nat := if s.is PWR.LIMIT_NOW.PWARN then 1 else 64

/-- A die's pace moved by one, no sooner than `wait` ns after its last move. -/
def State.paceMove (s : State) (d wait pace : Nat) : State :=
  let due := match aFind s.power.paceAt d with | some t => decide (t + wait ≤ s.now) | none => true
  if due && s.rd (PWR.DIE_STATUS.PACE d) != pace then
    { s with power := { s.power with paceAt := aPut s.power.paceAt d s.now } }.wr (PWR.DIE_STATUS.PACE d) pace
  else s

/-- PACE_ADJUST (R418): the 10 µs average of a die's power against its limit. -/
def paceAdjust (d avg : Nat) (s : State) : State :=
  if !s.mainOn || decide (8 ≤ d) then s
  else
    let s := s.limitReg d
    let l := s.dieLimit d
    let p := s.rd (PWR.DIE_STATUS.PACE d)
    let s := (s.wr (PWR.DIE_STATUS.POWER_W d) (min avg 2047)).wr (PWR.DIE_STATUS.LIMITED d) (b2n (decide (l < avg)))
    if l < avg then
      { s with power := { s.power with bound := if s.power.bound.contains d then s.power.bound else d :: s.power.bound } }.paceMove d 1000 (max 1 (p - 1))
    else if 100 * avg < 95 * l then s.paceMove d 10_000 (min s.paceMax (p + 1))
    else s

/-- PACE_ADJUST (R418). -/
def execPaceAdjust (die avg : Nat) (s : State) : Host.Outcome State Fault Refusal := .next (paceAdjust die avg s)

/-! Rail phases (R416). -/

/-- PHASE_FAULT (R416): the phase is disconnected, and the rail's limit falls by 45 A. -/
def phaseFault (rail phase : Nat) (s : State) : State :=
  if s.mgmt.railsAt.isSome ∧ rail < 8 ∧ phase < 24 ∧ s.unitState 4 rail phase = 0 then
    let s := { s with power := { s.power with phases := s.power.phases ++ [(rail, phase, s.now)] } }
    (s.setUnit 4 rail phase 2 0).bump PWR.EVENTS.PHASE_FAILS 1
  else s

/-- PHASE_FAULT (R416). -/
def execPhaseFault (rail phase : Nat) (s : State) : Host.Outcome State Fault Refusal := .next (phaseFault rail phase s)

/-- PHASE_STOCK_DRAW (R416): the failed phase RETIRED, and a stock phase that passes its self-test drawn, once a tick
boundary has come. -/
def phaseStockDraw (rail : Nat) (failed : List Nat) (s : State) : State :=
  match s.power.phases.find? (fun p => p.1 == rail) with
  | none => s
  | some (r, ph, t) =>
    if !s.tickSince t then s
    else
      let s := { s with power := { s.power with phases := s.power.phases.filter (fun p => p != (r, ph, t)) } }
      let s := ((s.setUnit 4 r ph 4 0).bump STOCK.EVENTS.RETIREMENTS 1).mapChanged
      match s.drawFor 4 r failed with
      | (some n, s) => ((s.setUnit 4 r n 0 0).bump STOCK.EVENTS.DRAWS 1).record 0x0703 r ph n
      | (none, s) => (s.exhausted 4 r ph).record 0x0703 r ph 0xFF

/-- PHASE_STOCK_DRAW (R416). -/
def execPhaseStockDraw (rail : Nat) (failed : List Nat) (s : State) : Host.Outcome State Fault Refusal := .next (phaseStockDraw rail failed s)

/-! Heat (R425, R426). -/

/-- Whether a sensor is a die's or a stack's (sensors 1–31 of Table 17-4). -/
def heatSensor (n : Nat) : Bool := (decide (1 ≤ n) && decide (n ≤ 12)) || (decide (16 ≤ n) && decide (n ≤ 31))

/-- The die and stack sensors. -/
def heatSensors : List Nat := (List.range 32).filter heatSensor

/-- What a die or stack sensor is taken to read: 100 °C once it has failed (R426), else its last reading. -/
def State.heatOf (s : State) (n : Nat) : Nat := if s.power.failed.contains n then 400 else (aFind s.mgmt.sensors n).getD 0

/-- The hottest sensor and its reading; the lowest-numbered of those that read alike. -/
def State.hottest (s : State) : Nat × Nat :=
  heatSensors.foldl (fun (a : Nat × Nat) n => if a.2 < s.heatOf n then (n, s.heatOf n) else a) (1, s.heatOf 1)

/-- Sensor readings of a tick taken: those given replace the last; a heat sensor that gave none has missed one more tick. -/
def State.sense (s : State) (readings : List (Nat × Nat)) : State :=
  let got (n : Nat) : Bool := readings.any (fun r => r.1 == n)
  let sensors := readings.foldl (fun m r => aPut m r.1 r.2) s.mgmt.sensors
  let failed := s.power.failed.filter (fun n => !got n)
  let missing := heatSensors.foldl (fun m n => if got n then aErase m n else aPut m n ((aFind m n).getD 0 + 1)) s.power.missing
  ({ s with mgmt := { s.mgmt with sensors := sensors }, power := { s.power with failed := failed, missing := missing } }).wr PWR.THERM.SENSOR_FAIL (b2n !failed.isEmpty)

/-- SENSOR_FAIL (R426): a heat sensor without a valid reading for 3 ticks reads as 100 °C until it reads again. -/
def sensorFail (n : Nat) (s : State) : State :=
  if s.mainOn ∧ s.bimon ∧ 3 ≤ (aFind s.power.missing n).getD 0 then
    { s with power := { s.power with failed := if s.power.failed.contains n then s.power.failed else n :: s.power.failed } }.wr PWR.THERM.SENSOR_FAIL 1
  else s

/-- SENSOR_FAIL (R426). -/
def execSensorFail (sensor : Nat) (s : State) : Host.Outcome State Fault Refusal := .next (sensorFail sensor s)

/-- The thresholds of Table 18-4 that Bimon acts on at a tick. -/
def State.thermal (s : State) : State :=
  let h := s.hottest
  let t := s.timeBase
  let s := (s.wr PWR.THERM.HOTTEST (min h.2 1023)).wr PWR.THERM.SENSOR h.1
  let s :=
    if 380 ≤ h.2 ∧ !s.is PWR.THERM.WARN then ((s.wr PWR.THERM.WARN 1).bump PWR.THERM.WARNINGS 1).recordAs t 0x0701 2 h.1 17 h.2 95
    else if h.2 ≤ 368 then s.wr PWR.THERM.WARN 0 else s
  let s := if s.is PWR.THERM.CUT then { s with power := { s.power with cool := if h.2 ≤ 380 then s.power.cool + 1 else 0 } } else s
  let s :=
    if 400 ≤ h.2 ∧ !s.is PWR.THERM.CUT then
      { (((s.wr PWR.THERM.CUT 1).wr PWR.LIMIT_NOW.THERMAL 1).bump PWR.THERM.CUTS 1).recordAs t 0x0701 3 h.1 17 h.2 100 with power := { s.power with cool := 0 } }
    else s
  if 432 ≤ h.2 then
    let s := if s.is PWR.THERM.ABORT_ZONE then s else (s.wr PWR.THERM.ABORT_ZONE 1).recordAs t 0x0701 4 h.1 17 h.2 108
    if s.rd TOPO.PARTITION.STATE = 1 then { s with topo := { s.topo with abortDue := s.topo.abortDue ++ [(5, 0xFFF)] } } else s
  else s.wr PWR.THERM.ABORT_ZONE 0

/-- THERMAL_CUT_CLEAR (R425): 1,000 consecutive ticks at or below 95 °C. -/
def thermalCutClear (s : State) : State :=
  if s.is PWR.THERM.CUT ∧ 1000 ≤ s.power.cool then
    { ((s.wr PWR.THERM.CUT 0).wr PWR.LIMIT_NOW.THERMAL 0) with power := { s.power with cool := 0 } }
  else s

/-- THERMAL_CUT_CLEAR (R425). -/
def execThermalCutClear (s : State) : Host.Outcome State Fault Refusal := .next (thermalCutClear s)

/-- THERMAL_TRIP (R425): a junction at 115 °C or more, in units of 0.25 °C, turns off the main rails until a full power cycle. -/
def thermalTrip (sensor reading : Nat) (s : State) : State :=
  if 460 ≤ reading ∧ heatSensor sensor ∧ s.mgmt.standby then
    ((s.latchOff.wr DISC.OUTPUTS.THERM_TRIP 1).faultCause DISC.FAULT_CAUSE.THERM_TRIP).record 0x0702 sensor reading 0
  else s

/-- THERMAL_TRIP (R425). -/
def execThermalTrip (sensor reading : Nat) (s : State) : Host.Outcome State Fault Refusal := .next (thermalTrip sensor reading s)

/-! Energy (R227, R429). -/

/-- Energy in µJ charged to the accounts of a kind (contexts, or client tags) in proportion to what `f` says each has used. -/
def State.chargeUj (s : State) (uj : Nat) (tags : Bool) (f : Account → Nat) : State :=
  let shares := ((s.accounts.filter (fun a => decide (1024 ≤ a.1) == tags)).map (fun a => (a.1, f a.2))).filter (fun p => p.2 != 0)
  (splitOver uj shares).foldl (fun (t : State) p => t.charge p.1 (fun a => { a with energyUj := a.energyUj + p.2 })) s

/-- A tick's energy charged: each die's over its time, the rest over bytes, for contexts and for tags; then the tick's counts begin again
(R227). -/
def State.chargeTick (s : State) (watts : List Nat) : State :=
  let vcd (d : Nat) : Nat := watts.getD (1 + d) 0
  let o := watts.headD 0 - ((List.range 8).map vcd).sum
  let s := [false, true].foldl (fun (t : State) tags =>
    ((List.range 8).foldl (fun (u : State) d => u.chargeUj (1000 * vcd d) tags (fun a => (aFind a.tickNs d).getD 0)) t).chargeUj (1000 * o) tags Account.tickBytes) s
  { s with accounts := s.accounts.map (fun a => (a.1, { a.2 with tickNs := [], tickBytes := 0 })) }

/-- The energy counters of a tick, in mJ: W times 1 ms; JOB_ENERGY stops while the module is ABORTED or DONOR
(R429). -/
def State.energyTick (s : State) (watts : List Nat) : State :=
  let s := s.bump PWR.ENERGY.MJ (watts.headD 0)
  let s := (List.range 8).foldl (fun (t : State) d => t.bump (PWR.DIE_ENERGY.MJ d) (watts.getD (1 + d) 0)) s
  let s := if s.rd TOPO.PARTITION.STATE < 2 then s.bump PWR.JOB_ENERGY.MJ (watts.headD 0) else s
  s.chargeTick watts

/-! Warnings (R405). -/

/-- PWARN_CAP_RESTORE (R405): a second after the release, no CAP_SET having come, the cap before the warning applies again from the next
tick. -/
def pwarnCapRestore (s : State) : State :=
  match s.power.released with
  | some t =>
    if s.bimon ∧ t + 1_000_000_000 ≤ s.now ∧ !s.power.capSet ∧ !s.effective 1 then
      { s.wr PWR.CAP.WATTS s.power.capBefore with power := { s.power with restore := true } }
    else s
  | none => s

/-- PWARN_CAP_RESTORE (R405). -/
def execPwarnCapRestore (s : State) : Host.Outcome State Fault Refusal := .next (pwarnCapRestore s)

/-- What a tick ends: minimum pace once PWARN_N is released and a cap has come or been restored; the halved cap once the coolant alarm is
over (R405, R406). -/
def State.warningsTick (s : State) : State :=
  let s :=
    if s.is PWR.LIMIT_NOW.PWARN && !s.effective 1 && (s.power.capSet || s.power.restore) then
      { s.wr PWR.LIMIT_NOW.PWARN 0 with power := { s.power with capSet := false, restore := false, released := none } }
    else s
  if s.is PWR.LIMIT_NOW.COOLANT && !s.effective 2 then s.wr PWR.LIMIT_NOW.COOLANT 0 else s

/-- CAP_SET commands reply with the tick's L and CAP (R430). -/
def State.capReplies (s : State) : State :=
  (s.cmds.filter (fun c => c.opcode == 0x90 && c.started && c.status.isNone)).foldl (fun (t : State) c => t.doneWith c.id t.limitL (t.rd PWR.CAP.WATTS) 0) s

end Sys2Proof.Machine
end

