-- ==== Sys2Proof/Machine/Pins.lean ====
section
/-! DEFINITION. The discrete inputs (R401–R407, Tables 17-5 and 17-7): filtered changes, CHATTER and STUCK, effective levels and what
each input does. Inputs by index: 0 EPO_N, 1 PWARN_N, 2 COOL_ALM_N, 3 TRAY_SEAT_N, 4 DRAIN_REQ_N, 5 and 6 PERST_N of hosts A and B,
7 SB_RESET_N. A level of 1 is asserted. -/

namespace Sys2Proof.Machine

open Sys2Proof

/-! What each input does when its effective level changes. -/

/-- EPO_N asserted (R404): the main rails off and latched. -/
def State.epoOn (s : State) : State := (s.latchOff.faultCause DISC.FAULT_CAUSE.EPO).record 0x0602 0 0 0

/-- PWARN_N asserted (R405): every die's pace at its minimum, and a flush due. -/
def State.pwarnOn (s : State) : State :=
  let s := { s with score := { s.score with flushDue := true } }
  let s :=
    if s.mainOn then
      let before := if s.is PWR.LIMIT_NOW.PWARN then s.power.capBefore else s.rd PWR.CAP.WATTS
      let s := { s with power := { s.power with capBefore := before, capSet := false, released := none, restore := false } }
      (List.range 8).foldl (fun (t : State) d => t.wr (PWR.DIE_STATUS.PACE d) 1) ((s.wr PWR.LIMIT_NOW.PWARN 1).bump PWR.EVENTS.PWARNS 1)
    else s
  s.record 0x0603 0 1 (s.rd PWR.CAP.WATTS)

/-- PWARN_N released (R405): minimum pace holds until a cap comes. -/
def State.pwarnOff (s : State) : State :=
  { s with power := { s.power with released := some s.now } }.record 0x0603 0 0 (s.rd PWR.CAP.WATTS)

/-- COOL_ALM_N asserted (R406, R419): every die's limit halved at once. -/
def State.coolOn (s : State) : State :=
  let s :=
    if s.mainOn then
      let s := if s.is PWR.LIMIT_NOW.COOLANT then s else s.halveLimits
      let s := (s.wr PWR.LIMIT_NOW.COOLANT 1).bump PWR.EVENTS.COOL_ALARMS 1
      s.wr PWR.LIMIT_NOW.LIMIT_W s.limitL
    else s
  s.record 0x0604 0 1 (s.rd PWR.CAP.WATTS)

/-- COOL_ALM_N released (R406): the cap returns at the next tick. -/
def State.coolOff (s : State) : State := s.record 0x0604 0 0 (s.rd PWR.CAP.WATTS)

/-- DRAIN_REQ_N (R321). -/
def State.drainReq (s : State) (on : Bool) : State :=
  if on then (s.wr TOPO.DRAIN.REQUESTED 1).topoEvent else s.wr TOPO.DRAIN.REQUESTED 0

/-- PERST_N of a port asserted (Table 16-4, Table 22-3): a port reset. -/
def State.perstOn (s : State) (h : Nat) : State :=
  let s := s.setPort h { s.port h with perst := true, training := false }
  (s.portReset h).hostGone h 2

/-- PERST_N of a port released (R490). -/
def State.perstOff (s : State) (h : Nat) : State := (s.setPort h { s.port h with perst := false }).portTrain h

/-- SB_RESET_N released (R407): addresses, endpoint and event receiver cleared, and the replies of commands handed over dropped. -/
def State.sbResetOff (s : State) : State :=
  let s := s.regs0 [MGMT.SB_STATUS.DYN_ADDR, MGMT.SB_STATUS.ADDR_VALID, MGMT.SB_STATUS.EID, MGMT.SB_STATUS.EID_VALID]
  { s with mgmt := { s.mgmt with receiver := none }, cmds := s.cmds.map (fun (c : Cmd) => if c.src = 2 then { c with gone := true } else c) }.sbRegs

/-- What a change of an input's effective level does. -/
def State.pinAct (s : State) (i : Nat) (on : Bool) : State :=
  match i, on with
  | 0, true => s.epoOn
  | 1, true => s.pwarnOn
  | 1, false => s.pwarnOff
  | 2, true => s.coolOn
  | 2, false => s.coolOff
  | 4, b => s.drainReq b
  | 5, true => s.perstOn 0
  | 5, false => s.perstOff 0
  | 6, true => s.perstOn 1
  | 6, false => s.perstOff 1
  | 7, false => s.sbResetOff
  | _, _ => s

/-! Levels (R401–R403). -/

/-- A bit of a field of eight set to a value. -/
def State.wrBit (s : State) (f : Fld) (i : Nat) (b : Bool) : State := s.wr f (setBits (s.rd f) i 1 (b2n b))

/-- The effective level that Table 17-5 gives an input: CHATTER counts as asserted, or for the informational inputs as nothing; a
STUCK input is ignored. -/
def State.effectiveNow (s : State) (i : Nat) : Bool :=
  let level := bit (s.rd DISC.INPUTS.LEVEL) i
  let chatter := bit (s.rd DISC.INPUTS.CHATTER) i
  if i = 3 ∨ i = 4 then level && !chatter && !bit (s.rd DISC.INPUTS.STUCK) i else level || chatter

/-- An input's effective level brought up, with what its change does; then the vectors of DISC.EVENT_CTL, some bit of DISC.INPUTS having
changed. -/
def State.pinSettle (s : State) (i : Nat) : State :=
  let on := s.effectiveNow i
  let s := if s.effective i = on then s else (s.wrBit DISC.INPUTS.EFFECTIVE i on).pinAct i on
  (s.raiseIf 0 (DISC.EVENT_CTL.ENABLE 0) (DISC.EVENT_CTL.VECTOR 0)).raiseIf 1 (DISC.EVENT_CTL.ENABLE 1) (DISC.EVENT_CTL.VECTOR 1)

/-- Times of an input's filtered transitions, newest first. -/
def State.pinMoves (s : State) (i : Nat) : List Nat := (aFind s.mgmt.moves i).getD []

/-- A filtered change noted: LEVEL, the log, and the transitions of the last second (R401, R402). -/
def State.pinNote (s : State) (i : Nat) (on : Bool) : State :=
  let l := s.now :: (s.pinMoves i).filter (fun t => decide (s.now < t + 1_000_000_000))
  let s := { s with mgmt := { s.mgmt with moves := aPut s.mgmt.moves i l } }
  ((s.wrBit DISC.INPUTS.LEVEL i on).bump (DISC.IN_LOG.TRANSITIONS i) 1).wr (DISC.IN_LOG.LAST_MS i) (s.timeBase / 1_000_000)

/-- DRAIN_REQ_N's time, and the end of STUCK, which clears when the level deasserts (R403). -/
def State.drainLevel (s : State) (on : Bool) : State :=
  let s := { s with mgmt := { s.mgmt with drainSince := if on then some s.now else none } }
  if !on && bit (s.rd DISC.INPUTS.STUCK) 4 then
    ((s.wrBit DISC.INPUTS.STUCK 4 false).wr TOPO.DRAIN.STUCK 0).record 0x0601 4 2 0
  else s

/-- A filtered change of an input: nothing while the island is off or the level stands already. -/
def State.pinChange (s : State) (i : Nat) (on : Bool) : State :=
  if !s.mgmt.standby || bit (s.rd DISC.INPUTS.LEVEL) i == on then s
  else
    let s := s.pinNote i on
    (if i = 4 then s.drainLevel on else s).pinSettle i

/-- EPO_N_ASSERT (R404); a level of 0 is its release, which restores nothing. -/
def execEpoNAssert (level : Nat) (s : State) : Host.Outcome State Fault Refusal := .next (s.pinChange 0 (level == 1))

/-- PWARN_N_ASSERT (R405). -/
def execPwarnNAssert (s : State) : Host.Outcome State Fault Refusal := .next (s.pinChange 1 true)

/-- PWARN_N_RELEASE (R405). -/
def execPwarnNRelease (s : State) : Host.Outcome State Fault Refusal := .next (s.pinChange 1 false)

/-- COOL_ALM_N_ASSERT (R406). -/
def execCoolAlmNAssert (s : State) : Host.Outcome State Fault Refusal := .next (s.pinChange 2 true)

/-- COOL_ALM_N_RELEASE (R406). -/
def execCoolAlmNRelease (s : State) : Host.Outcome State Fault Refusal := .next (s.pinChange 2 false)

/-- TRAY_SEAT_N changes (Table 17-5): recorded unless the input chatters. -/
def traySeat (on : Bool) (s : State) : State :=
  if !s.mgmt.standby || bit (s.rd DISC.INPUTS.LEVEL) 3 == on then s
  else
    let s := s.pinChange 3 on
    if bit (s.rd DISC.INPUTS.CHATTER) 3 then s else s.record 0x0607 3 (b2n !on) 0

/-- TRAY_SEAT_N_CHANGE (R401). -/
def execTraySeatNChange (level : Nat) (s : State) : Host.Outcome State Fault Refusal := .next (traySeat (level == 1) s)

/-- DRAIN_REQ_N_ASSERT (R321). -/
def execDrainReqNAssert (s : State) : Host.Outcome State Fault Refusal := .next (s.pinChange 4 true)

/-- DRAIN_REQ_N_RELEASE (R321). -/
def execDrainReqNRelease (s : State) : Host.Outcome State Fault Refusal := .next (s.pinChange 4 false)

/-- DRAIN_STUCK (R403): asserted for 600 s without a break, it is ignored. -/
def drainStuck (s : State) : State :=
  match s.mgmt.drainSince with
  | some t =>
    if t + 600_000_000_000 ≤ s.now ∧ !bit (s.rd DISC.INPUTS.STUCK) 4 then
      (((s.wrBit DISC.INPUTS.STUCK 4 true).wr TOPO.DRAIN.STUCK 1).record 0x0601 4 2 1).pinSettle 4
    else s
  | none => s

/-- DRAIN_STUCK (R403). -/
def execDrainStuck (s : State) : Host.Outcome State Fault Refusal := .next (drainStuck s)

/-- CHATTER_SET (R402): the 65th transition within 1 s. -/
def chatterSet (i : Nat) (s : State) : State :=
  let n := ((s.pinMoves i).filter (fun t => decide (s.now < t + 1_000_000_000))).length
  if i < 8 ∧ 65 ≤ n ∧ !bit (s.rd DISC.INPUTS.CHATTER) i then ((s.wrBit DISC.INPUTS.CHATTER i true).record 0x0601 i 1 1).pinSettle i else s

/-- CHATTER_SET (R402). -/
def execChatterSet (input : Nat) (s : State) : Host.Outcome State Fault Refusal := .next (chatterSet input s)

/-- Whether an input has made no transition in the previous 10 s. -/
def State.pinQuiet (s : State) (i : Nat) : Bool := (s.pinMoves i).all (fun t => decide (t + 10_000_000_000 ≤ s.now))

/-- A write of 1 to bits of DISC.INPUTS.CHATTER: each clears an input that has been quiet (R402). -/
def chatterClear (value : Nat) (s : State) : State :=
  (List.range 8).foldl (fun (t : State) i =>
    if bit value (8 + i) && bit (t.rd DISC.INPUTS.CHATTER) i && t.pinQuiet i then ((t.wrBit DISC.INPUTS.CHATTER i false).record 0x0601 i 1 0).pinSettle i else t) s

/-- CHATTER_CLEAR (R402): a write of DISC.INPUTS by a host or the side-band window. -/
def execChatterClear (src value : Nat) (s : State) : Host.Outcome State Fault Refusal :=
  .next (if s.mgmt.standby then s.viaSource src (chatterClear value) else s)

/-- PERST_N_ASSERT (R383). -/
def execPerstNAssert (h : Nat) (s : State) : Host.Outcome State Fault Refusal := .next (if h < 2 then s.pinChange (5 + h) true else s)

/-- PERST_N_DEASSERT (R490). -/
def execPerstNDeassert (h : Nat) (s : State) : Host.Outcome State Fault Refusal := .next (if h < 2 then s.pinChange (5 + h) false else s)

/-- SB_RESET_N_ASSERT (R407). -/
def execSbResetNAssert (s : State) : Host.Outcome State Fault Refusal := .next (s.pinChange 7 true)

/-- SB_RESET_N_DEASSERT (R407). -/
def execSbResetNDeassert (s : State) : Host.Outcome State Fault Refusal := .next (s.pinChange 7 false)

end Sys2Proof.Machine
end

