-- ==== Sys2Proof/Machine/Registers.lean ====
section
/-! DEFINITION. Reads and writes of register space (R7–R12, R110, R519): access codes, narrow and wide accesses, the registers whose
writes act, and the gated units (R442). -/

namespace Sys2Proof.Machine

open Sys2Proof

/-! Where an access goes. -/

/-- Whether an offset lies in the command windows (R374), and where it lies in the MSI-X structures (R382). -/
def inWindows (off : Nat) : Bool := decide (0x18_0000 ≤ off) && decide (off < 0x20_0000)
def inMsix (off : Nat) : Bool :=
  (decide (msixBase ≤ off) && decide (off < msixBase + 2048 * 16)) || (decide (pbaBase ≤ off) && decide (off < pbaBase + 256))

/-- Whether a register belongs to a unit whose clock is gated (R442): a port, or the links of a domain. -/
def State.gatedReg (s : State) (r : Reg) : Bool :=
  match r with
  | .HIF_PORT_STATUS h | .HIF_HOST_CTL h | .HIF_HOST_EVENTS h | .HIF_ERRORS h | .HIF_ORPHAN_ADDR h | .HIF_ORPHAN_DATA h => s.is (CLK.DOM.GATED (80 + h))
  | .FAB_LINK_STATUS l | .FAB_LINK_ERRORS l => s.is (CLK.DOM.GATED (l / 2))
  | _ => false

/-! Reads. -/

/-- The RC fields of a register cleared. -/
def State.clearRc (s : State) (r : Reg) : State :=
  r.fields.foldl (fun (t : State) p => if p.2 = .rc then t.wr p.1 0 else t) s

/-- One 64-bit read of a register (R7, R10): its value, and what the read does. -/
def State.readReg (s : State) (r : Reg) : Nat × State :=
  if s.gatedReg r then (0, s)
  else match r with
    | .SCORE_READ_DATA h | .SCORE_READ_BURST h _ => readDataStep h s
    | .HIF_ORPHAN_DATA h => orphanRead h s
    | .SEC_REPORT_DATA h => reportRead h s
    | .SCHED_BUSY_TRUMP | .SCHED_BUSY_PLAIN => (s.busyNow.regWord r, s.busyNow.clearRc r)
    | .PWR_DIE_STATUS d => ((s.railNow d).regWord r, s)
    | r => (s.regWord r, s.clearRc r)

/-- One 64-bit read at an aligned offset, by source `src`: zero where no register stands (R110). -/
def State.read64 (s : State) (src off : Nat) : Nat × State :=
  if inMsix off then (if src < 2 then s.msixRead src off else 0, s)
  else match regAt off with
    | none => (0, s)
    | some r => s.readReg r

/-- Consecutive 64-bit reads in ascending offset order (R7): the values, and the state behind them. -/
def State.readRun (src : Nat) : Nat → Nat → State → List Nat × State
  | 0, _, s => (([] : List Nat), s)
  | n + 1, off, s =>
    let p := s.read64 src off
    let q := State.readRun src n (off + 8) p.2
    (p.1 :: q.1, q.2)

/-- The bytes at an offset, read without any effect (R7). -/
def State.peekBytes (s : State) (src off n : Nat) : Nat :=
  leOf ((List.range n).map (fun i => bits (s.read64 src ((off + i) / 8 * 8)).1 (8 * ((off + i) % 8)) 8))

/-- A read of `size` bytes by source `src` (R7): from an 8-byte boundary, consecutive reads of the whole registers it covers, and of a
last one that it covers in part the addressed bytes with no effect; from any other offset the addressed bytes. -/
def State.readBytes (s : State) (src off size : Nat) : Nat × State :=
  if off % 8 = 0 then
    let n := size / 8
    let p := State.readRun src n off s
    (leOf (p.1.flatMap (leVals 8)) + (if size % 8 = 0 then 0 else p.2.peekBytes src (off + 8 * n) (size % 8)) * 2 ^ (64 * n), p.2)
  else (s.peekBytes src off size, s)

/-- RC_READ (R7): a read of register space by a host. -/
def rcRead (src off size : Nat) (s : State) : State :=
  s.viaHost src (fun s => (s.readBytes src off size).2.emit (.readData src (s.readBytes src off size).1))

/-- RC_READ (R7). -/
def execRcRead (src off size : Nat) (s : State) : Host.Outcome State Fault Refusal := .next (rcRead src off size s)

/-! Writes. -/

/-- Whether a value written to a field is ignored (R519): outside its range, or not allowed now. -/
def State.keepsField (s : State) (r : Reg) (v : Nat) (f : Fld) : Bool :=
  let x := bits v f.lo f.w
  let outside (a b : Nat) : Bool := decide (x < a) || decide (b < x)
  match r with
  | .MMU_FAULT_TIMEOUT => outside 1 600_000
  | .MMU_FAULT_RING_CTL h => (f == MMU.FAULT_RING_CTL.LOG2_SIZE h && outside 6 16) || (f == MMU.FAULT_RING_CTL.ENABLE h && x == 1 && !s.attached h)
  | .MOVE_TRUMP_RESERVE => outside 0 448
  | .SERVE_CACHE_POOL =>
    let pages := bits v 0 20
    let bad := decide (573_440 < pages) || decide (pages < s.rd SERVE.CACHE_USE.IN_USE)
    if f == SERVE.CACHE_POOL.PAGES then bad else decide ((if bad then s.rd SERVE.CACHE_POOL.PAGES else pages) < x)
  | .SERVE_CACHE_CTL => f == SERVE.CACHE_CTL.MERGE_MAX && outside 0 4096
  | .SERVE_EVICT_SLOTS h => decide (x < s.rd (SERVE.EVICT_SLOTS.USED h))
  | .SERVE_KITTY_SLOTS h => decide (x < s.rd (SERVE.KITTY_SLOTS.USED h))
  | .SERVE_STEP_CTL => outside 0 8192
  | .SERVE_PREFIX_CTL => s.allocs.any (fun a => !(a.kind == 5 && a.ctx == 0xFFFF) && decide (indexBase x < a.base + a.size) && decide (a.base < hbmEnd))
  | .SCHED_CLASS_CTL => outside 10 10_000
  | .FAB_LINK_CTL => x == 0
  | .LOAD_INTAKE_CTL => outside 1 3600
  | .LOAD_RECHECK_CTL => f == LOAD.RECHECK_CTL.PERIOD_MIN && outside 60 10_080
  | .MGMT_RM_CTL => outside 1 3600
  | .PWR_LEARN_CTL =>
    if f == PWR.LEARN_CTL.V_MAX then decide (56 < x)
    else if f == PWR.LEARN_CTL.ENABLE then false
    else decide (bits v 8 10 ≤ bits v 18 10)
  | _ => false

/-- A field written under its access code (Table 0-3). -/
def writeField (v : Nat) (keep : Fld → Bool) (s : State) (p : Fld × Access) : State :=
  match p.2 with
  | .rw => if keep p.1 then s else s.wr p.1 (bits v p.1.lo p.1.w)
  | .w1c => s.wr p.1 (s.rd p.1 - (s.rd p.1 &&& bits v p.1.lo p.1.w))
  | .w1s => s.wr p.1 (s.rd p.1 ||| bits v p.1.lo p.1.w)
  | .ro | .rc | .wo => s

/-- The write of a register with no behaviour of its own (R10, R519). -/
def State.writePlain (s : State) (r : Reg) (v : Nat) : State := r.fields.foldl (writeField v (s.keepsField r v)) s

/-- The host whose instance a register of block HIF is, and the host of a channel's or ring's register (R374, R389). -/
def Reg.owner : Reg → Option Nat
  | .HIF_PORT_STATUS h | .HIF_HOST_CTL h | .HIF_HOST_EVENTS h | .HIF_ERRORS h | .HIF_ORPHAN_ADDR h | .HIF_ORPHAN_DATA h => some h
  | .CMD_CHAN_CTL c | .CMD_CHAN_CREDIT c | .CMD_CHAN_SIGNAL c | .CMD_CHAN_STATUS c => some (c / 64)
  | .CMD_RING_BASE r | .CMD_RING_CTL r | .CMD_RING_TAIL r | .CMD_RING_HEAD r | .CMD_RING_SHADOW r => some (r / 128)
  | _ => none

/-- One 64-bit write of a register by source `src` (2: the side-band window). -/
def State.writeReg (s : State) (src : Nat) (r : Reg) (v : Nat) : State :=
  if s.gatedReg r then s
  else if (match r.owner with | some h => h != src | none => false) then s.bump CMD.STRAY.WRITES 1
  else match r with
    | .CMD_CHAN_CTL c => writeChanCtl src c v s
    | .CMD_RING_CTL x => writeRingCtl src x v s
    | .HIF_HOST_CTL h => writeHostCtl h v s
    | .MMU_FAULT_RESOLVE => faultResolve v s
    | .MTX_INJECT => mtxInject v s
    | .DISC_INPUTS => chatterClear v s
    | .PWR_CAP => pwrCapWrite v s
    | .SERVE_CACHE_POOL => (s.writePlain r v).poolRegs
    | r => s.writePlain r v

/-- One 64-bit write at an aligned offset: discarded and recorded where no register stands (R110). -/
def State.write64 (s : State) (src off v : Nat) : State :=
  if inMsix off then s.msixWrite src off v 8
  else match regAt off with
    | none => s.discard src off 8
    | some r => s.writeReg src r v

/-- Consecutive 64-bit writes in ascending offset order (R7). -/
def State.writeRun (src : Nat) : Nat → Nat → Nat → State → State
  | 0, _, _, s => s
  | n + 1, off, v, s => State.writeRun src n (off + 8) (v / 2 ^ 64) (s.write64 src off (v % 2 ^ 64))

/-- Whether a narrow or unaligned write falls on a gated unit, so that it leaves no record (R442). -/
def State.gatedAt (s : State) (off : Nat) : Bool :=
  match regAt (off / 8 * 8) with
  | some r => s.gatedReg r
  | none => false

/-- A write narrower than 64 bits, or one that begins off an 8-byte boundary (R7): discarded and recorded, but for the MSI-X table. -/
def State.writeNarrow (s : State) (src off value size : Nat) : State :=
  if inMsix off && size == 4 then s.msixWrite src off value 4
  else if s.gatedAt off then s
  else s.discard src off size

/-- A write of `size` bytes of register space by host `src` (R7, R10, R110, R347): from an 8-byte boundary, consecutive 64-bit writes, and
what is left of a last register as a narrow write. -/
def State.writeBytes (s : State) (src off value size : Nat) : State :=
  if inWindows off then s.windowStore src (off - 0x18_0000) (leVals size value)
  else if inMsix off && (size == 4 || size == 8) then s.msixWrite src off value size
  else if off % 8 = 0 then
    let n := size / 8
    let s := State.writeRun src n off value s
    if size % 8 = 0 then s else s.writeNarrow src (off + 8 * n) (value / 2 ^ (64 * n)) (size % 8)
  else s.writeNarrow src off value size

/-- REGISTER_WRITE (R10): a write of register space by a host. -/
def registerWrite (src off value size : Nat) (s : State) : State :=
  s.viaHost src (fun s => s.writeBytes src off value size)

/-- REGISTER_WRITE (R10). -/
def execRegisterWrite (src off value size : Nat) (s : State) : Host.Outcome State Fault Refusal := .next (registerWrite src off value size s)

end Sys2Proof.Machine
end

