-- ==== Sys2Proof/Machine/SideBand.lean ====
section
/-! DEFINITION. The side-band port (R394–R400, R410): I3C and MCTP control, side-band commands, the register window, and the PLDM
sensors. A `.sideband` output is a response or an event with the in-band interrupt that announces it: 0 control, 1 PLDM, 0x7E
vendor-defined, and its fields in order. -/

namespace Sys2Proof.Machine

open Sys2Proof

/-! The port. -/

/-- Whether the port takes messages: Bimon runs, and SB_RESET_N is not asserted (R407). -/
def State.sbUp (s : State) : Bool := s.mgmt.standby && s.bimon && !s.effective 7

/-- An MCTP message heard: the rack manager is not silent (R410). -/
def State.sbHeard (s : State) : State := { s with mgmt := { s.mgmt with heard := s.now } }.wr MGMT.STATUS.RM_SILENT 0

/-- What a message does where the port takes messages. -/
def State.onMessage (s : State) (f : State → State) : State := if s.sbUp then f s.sbHeard else s

/-- I3C_ADDRESS_ASSIGN (R394): ENTDAA or SETDASA gives the target its dynamic address. -/
def i3cAddressAssign (addr : Nat) (s : State) : State :=
  if s.mgmt.standby && !s.effective 7 then s.wrs [(MGMT.SB_STATUS.DYN_ADDR, addr), (MGMT.SB_STATUS.ADDR_VALID, 1)] else s

/-- I3C_ADDRESS_ASSIGN (R394). -/
def execI3cAddressAssign (addr : Nat) (s : State) : Host.Outcome State Fault Refusal := .next (i3cAddressAssign addr s)

/-- SET_ENDPOINT_ID (R395). -/
def execSetEndpointId (eid : Nat) (s : State) : Host.Outcome State Fault Refusal :=
  .next (s.onMessage (fun s => (s.wrs [(MGMT.SB_STATUS.EID, eid), (MGMT.SB_STATUS.EID_VALID, 1)]).emit (.sideband 0 [eid])))

/-- GET_ENDPOINT_ID (R395): 0 while none is assigned. -/
def execGetEndpointId (s : State) : Host.Outcome State Fault Refusal :=
  .next (s.onMessage (fun s => s.emit (.sideband 0 [s.rd MGMT.SB_STATUS.EID])))

/-- GET_MCTP_VERSION_SUPPORT (R395): the versions are those of DSP0236, which the spec does not give. -/
def execGetMctpVersionSupport (s : State) : Host.Outcome State Fault Refusal :=
  .next (s.onMessage (fun s => s.emit (.sideband 0 ((List.range 4).map Config.mctpVersion))))

/-- GET_MESSAGE_TYPE_SUPPORT (R395): control, PLDM and vendor-defined. -/
def execGetMessageTypeSupport (s : State) : Host.Outcome State Fault Refusal :=
  .next (s.onMessage (fun s => s.emit (.sideband 0 [0x00, 0x01, 0x7E])))

/-- MCTP_MESSAGE_DROP (R395): another type, a failed PEC or a message that does not reassemble is dropped and counted. -/
def execMctpMessageDrop (s : State) : Host.Outcome State Fault Refusal :=
  .next (if s.sbUp then s.bump MGMT.SB_COUNT.DROPPED 1 else s)

/-- RM_SILENCE (R410). -/
def rmSilence (s : State) : State :=
  let n := s.rd MGMT.RM_CTL.SILENCE_S
  if s.bimon && !s.is MGMT.STATUS.RM_SILENT && decide (s.mgmt.heard + n * 1_000_000_000 ≤ s.now) then
    (s.wr MGMT.STATUS.RM_SILENT 1).record 0x0605 0 n 0
  else s

/-- RM_SILENCE (R410). -/
def execRmSilence (s : State) : Host.Outcome State Fault Refusal := .next (rmSilence s)

/-! Side-band commands (R363, R393, R397). -/

/-- A command's response: its MCTP message tag and the 32 bytes of the reply. -/
def Cmd.sbResponse (c : Cmd) (x : Reply) : Output := .sideband 0x7E (c.tag :: ([x.w0, x.w1, x.w2, x.w3].flatMap (leVals 8)))

/-- A status answered at once, before the command is taken. -/
def State.sbRefuse (s : State) (c : Cmd) (st det : Nat) : State :=
  s.emit (c.sbResponse (Sys2Proof.Machine.mkReply 0 st c.opcode c.context c.seq det 0 0 0))

/-- SB_COMMAND (R397): a COMMAND message whose body is the packet and the authorisation behind it. -/
def sbCommand (tag : Nat) (bytes : List Nat) (s : State) : State :=
  if bytes.length < 64 then s.bump MGMT.SB_COUNT.DROPPED 1
  else
    let s := s.bump MGMT.SB_COUNT.COMMANDS 1
    let c : Cmd := { id := 0, src := 2, chan := 0, words := packetWords (bytes.take 64), since := s.timeBase, auth := bytes.drop 64, tag := tag }
    if 8 ≤ s.sbOut then s.sbRefuse c stBusyRetry 0x1102
    else if !packetOk (bytes.take 64) then (if s.mainOn then s.bump CMD.STATS.CRC_FAIL 1 else s).sbRefuse c stCrcFail 0
    else { s with mgmt := { s.mgmt with sbIn := s.mgmt.sbIn ++ [c] } }.sbRegs

/-- SB_COMMAND (R397). -/
def execSbCommand (tag : Nat) (bytes : List Nat) (s : State) : Host.Outcome State Fault Refusal := .next (s.onMessage (sbCommand tag bytes))

/-- The opcodes Bimon serves alone (R393). -/
def aloneOpcodes : List Nat := [0x00, 0x04, 0xA0, 0xA1, 0xB0, 0xB1, 0xB2, 0xB3]

/-- Whether a side-band command waits for earlier ones: it carries FENCE_BEFORE, and one has not completed (R363). -/
def State.sbFenced (s : State) (c : Cmd) : Bool :=
  bit (c.words.getD 0 0) 9 && s.cmds.any (fun d => d.src == 2 && d.status.isNone)

/-- A command handed to Amelo, or taken by Bimon where Amelo does not run. -/
def State.sbTake (s : State) (c : Cmd) : State :=
  let alone := aloneOpcodes.contains c.opcode
  if s.mgmt.amelo then s.enter { c with chan := 0 }
  else if alone || !sideOpcodes.contains c.opcode then s.enter { c with chan := 1 }
  else
    let k := s.nextCmd
    { s with cmds := s.cmds ++ [({ c with id := k, chan := 1, since := s.now } : Cmd)], nextCmd := k + 1 }.failWith k stBusyRetry 0x1101

/-- The commands received before this tick handed over in order, up to the first that waits. -/
def State.sbHand : List Cmd → State → State
  | [], s => s
  | c :: r, s =>
    if tickOf c.since < tickOf s.timeBase && !s.sbFenced c then
      State.sbHand r { s.sbTake c with mgmt := { s.mgmt with sbIn := r } }
    else s

/-- SB_HANDOVER (R397). -/
def sbHandover (s : State) : State := if s.bimon then (State.sbHand s.mgmt.sbIn s).sbRegs else s

/-- SB_HANDOVER (R397). -/
def execSbHandover (s : State) : Host.Outcome State Fault Refusal := .next (sbHandover s)

/-- Whether a side-band command's reply goes out at this tick: its status was fixed before it. -/
def State.sbEnded (s : State) (c : Cmd) : Bool := c.src == 2 && c.status.isSome && (c.gone || decide (tickOf c.doneAt < tickOf s.timeBase))

/-- SB_REPLY (R397): the replies of the commands that have completed; one whose reply is dropped leaves nothing. -/
def sbReply (s : State) : State :=
  if s.bimon then
    let l := s.cmds.filter s.sbEnded
    let s := { s with cmds := s.cmds.filter (fun c => !s.sbEnded c) }
    ((l.filter (fun c => !c.gone)).foldl (fun (t : State) c => t.emit (c.sbResponse c.mkReply)) s).sbRegs
  else s

/-- SB_REPLY (R397). -/
def execSbReply (s : State) : Host.Outcome State Fault Refusal := .next (sbReply s)

/-! The register window (R399). -/

/-- The blocks that a range of registers reaches. -/
def rangeBlocks (off n : Nat) : List Nat := ((List.range n).map (fun i => (off + 8 * i) / 0x10_0000)).dedup

/-- WSTATUS of a window message. -/
def State.wstatus (s : State) (write : Bool) (off n : Nat) : Nat :=
  let bs := rangeBlocks off n
  if off % 8 != 0 || n == 0 || decide (8 < n) || bs.any (fun b => decide (18 < b)) then 1
  else if write && bs.any (fun b => !([13, 14, 15, 16] : List Nat).contains b) then 2
  else if !s.mainOn && bs.any (fun b => !([15, 16, 17, 18] : List Nat).contains b) then 3
  else 0

/-- WINDOW_READ: COUNT registers in ascending order. -/
def windowRead (off n : Nat) (s : State) : State :=
  let s := s.bump MGMT.SB_COUNT.WINDOW 1
  let st := s.wstatus false off n
  if st = 0 then
    let p := State.readRun 2 n off s
    p.2.emit (.sideband 0x7E (0 :: p.1.flatMap (leVals 8)))
  else s.emit (.sideband 0x7E [st])

/-- WINDOW_READ (R399). -/
def execWindowRead (off count : Nat) (s : State) : Host.Outcome State Fault Refusal := .next (s.onMessage (windowRead off count))

/-- Values written to consecutive registers. -/
def writeValues (off : Nat) : List Nat → State → State
  | [], s => s
  | v :: r, s => writeValues (off + 8) r (s.write64 2 off (v % 2 ^ 64))

/-- WINDOW_WRITE. -/
def windowWriteMsg (off : Nat) (values : List Nat) (s : State) : State :=
  let s := s.bump MGMT.SB_COUNT.WINDOW 1
  let st := s.wstatus true off values.length
  (if st = 0 then writeValues off values s else s).emit (.sideband 0x7E [st])

/-- SIDEBAND_WINDOW_WRITE (R399). -/
def execSidebandWindowWrite (off : Nat) (values : List Nat) (s : State) : Host.Outcome State Fault Refusal := .next (s.onMessage (windowWriteMsg off values))

/-! PLDM (R400, Table 17-4). -/

/-- The numeric sensors. -/
def numericSensors : List Nat :=
  (List.range 12).map (· + 1) ++ (List.range 16).map (· + 16) ++ [32, 33, 40, 41, 42, 43] ++ (List.range 8).map (· + 48)
/-- The state sensors: the discrete inputs. -/
def stateSensors : List Nat := (List.range 8).map (· + 64)

/-- Whether the main rails power a sensor: the junctions but IOD1's, the stacks, the core rails. -/
def mainSensor (n : Nat) : Bool := decide (n < 32) && n != 10 || (decide (48 ≤ n) && decide (n < 56))

/-- A PLDM message answered. -/
def State.pldm (s : State) (f : State → List Nat) : State := s.onMessage (fun s => (s.bump MGMT.SB_COUNT.PLDM 1).emit (.sideband 1 (f s)))

/-- GETTID (R400). -/
def execGettid (s : State) : Host.Outcome State Fault Refusal := .next (s.pldm (fun _ => [Config.terminusId]))

/-- GETPLDMVERSION (R400). -/
def execGetpldmversion (typ : Nat) (s : State) : Host.Outcome State Fault Refusal := .next (s.pldm (fun _ => [Config.pldmVersion typ]))

/-- GETPLDMTYPES (R400): types 0 and 2. -/
def execGetpldmtypes (s : State) : Host.Outcome State Fault Refusal := .next (s.pldm (fun _ => [0, 2]))

/-- The commands of a PLDM type that the port answers, by their codes in DSP0240 and DSP0248 (PRESUMED: the spec names them only). -/
def pldmCommands (typ : Nat) : List Nat :=
  if typ = 0 then [0x02, 0x03, 0x04, 0x05] else if typ = 2 then [0x04, 0x10, 0x11, 0x21, 0x50, 0x51] else []

/-- GETPLDMCOMMANDS (R400). -/
def execGetpldmcommands (typ : Nat) (s : State) : Host.Outcome State Fault Refusal := .next (s.pldm (fun _ => pldmCommands typ))

/-- Thresholds of a numeric sensor in its own units: upper warning, critical and fatal; the input voltage has a lower bound and an
upper one; module power has the cap in force. -/
def State.thresholds (s : State) (n : Nat) : List Nat :=
  if n < 32 then [380, 400, 432]
  else if n = 32 then [400, 450]
  else if n = 40 then [4800, 5800]
  else if n = 42 then [s.rd PWR.CAP.WATTS / (if s.is PWR.LIMIT_NOW.COOLANT then 2 else 1)]
  else []

/-- A sensor's platform descriptor record as fields: its ID, unit code (0 °C, 1 V, 2 A, 3 W, 4 mV, 5 state set), units per step as a
divisor, whether the main rails power it, and its thresholds. -/
def State.pdr (s : State) (n : Nat) : List Nat :=
  let unit := if n < 40 then 0 else if n = 40 then 1 else if n = 41 then 2 else if n < 48 then 3 else if n < 56 then 4 else 5
  let div := if n < 32 then 4 else if n = 32 ∨ n = 33 ∨ n = 41 ∨ n = 43 then 10 else if n = 40 then 100 else 1
  [n, unit, div, b2n (mainSensor n)] ++ s.thresholds n

/-- GETPDR (R400): the record of the sensor with an index, no field beyond the last. -/
def execGetpdr (index : Nat) (s : State) : Host.Outcome State Fault Refusal :=
  .next (s.pldm (fun s => match (numericSensors ++ stateSensors)[index]? with | some n => s.pdr n | none => []))

/-- GETPDRREPOSITORYINFO (R400): one record a sensor. -/
def execGetpdrrepositoryinfo (s : State) : Host.Outcome State Fault Refusal :=
  .next (s.pldm (fun _ => [(numericSensors ++ stateSensors).length]))

/-- A sensor's operational state and reading: 0 enabled, 1 disabled, 2 unavailable. -/
def State.sensorRead (s : State) (n : Nat) : List Nat :=
  if !numericSensors.contains n then []
  else if s.mgmt.sensorOff.contains n then [1]
  else if mainSensor n && !s.mainOn then [2]
  else match aFind s.mgmt.sensors n with
    | some v => [0, v]
    | none => [2]

/-- GETSENSORREADING (R400). -/
def execGetsensorreading (sensor : Nat) (s : State) : Host.Outcome State Fault Refusal := .next (s.pldm (fun s => s.sensorRead sensor))

/-- The state of a discrete input as its sensor shows it: 4 stuck, 3 chatter, 2 asserted, 1 deasserted. -/
def State.pinState (s : State) (i : Nat) : Nat :=
  if bit (s.rd DISC.INPUTS.STUCK) i then 4 else if bit (s.rd DISC.INPUTS.CHATTER) i then 3 else if bit (s.rd DISC.INPUTS.LEVEL) i then 2 else 1

/-- GETSTATESENSORREADINGS (R400): the state as of the last tick. -/
def execGetstatesensorreadings (sensor : Nat) (s : State) : Host.Outcome State Fault Refusal :=
  .next (s.pldm (fun s => if stateSensors.contains sensor then [(aFind s.mgmt.sensors sensor).getD 1] else []))

/-- SETEVENTRECEIVER (R400). -/
def execSeteventreceiver (eid : Nat) (s : State) : Host.Outcome State Fault Refusal :=
  .next (State.pldm (if s.sbUp then { s with mgmt := { s.mgmt with receiver := some eid } } else s) (fun _ => []))

/-- SETNUMERICSENSORENABLE (R400): 1 enables a numeric sensor, 0 disables it. -/
def execSetnumericsensorenable (sensor value : Nat) (s : State) : Host.Outcome State Fault Refusal :=
  .next (State.pldm (if s.sbUp && numericSensors.contains sensor then
      { s with mgmt := { s.mgmt with sensorOff := if value = 1 then s.mgmt.sensorOff.filter (· != sensor) else sensor :: s.mgmt.sensorOff.filter (· != sensor) } } else s) (fun _ => []))

end Sys2Proof.Machine
end

