-- ==== Sys2Proof/Machine/Tick.lean ====
section
/-! DEFINITION. The management tick (R390–R391): the work of Table 17-1 that falls due at a boundary, in its order. Items that the
opcode table names as events of their own (bank retirement, stock draws, the bias loop, kitty expiry, shard timers, the side-band
hand-over and replies, a unit's self-test) come by those. -/

namespace Sys2Proof.Machine

open Sys2Proof

/-! Records and losses. -/

/-- The records that Bimon writes at the first tick after their events (R470), each with its event's time. -/
def State.tickRecords (s : State) : State :=
  let l := s.score.tickRecs
  l.foldl (fun (t : State) r => t.recordAs r.time r.code (codeInfo r.code).1 r.inst (codeInfo r.code).2 r.arg0 r.arg1)
    { s with score := { s.score with tickRecs := [] } }

/-- The ports whose last partner a chip was. -/
def State.portsOf (s : State) (chip : Nat) : List Nat := (List.range 12).filter (fun p => s.rd (TOPO.NB_INFO.CHIP p) == chip)

/-- Whether a partner is lost (R309): no port shows it, or another module answered in its place. -/
def State.partnerGone (s : State) (chip : Nat) : Bool :=
  !s.chipShown chip || s.topo.abortDue.contains (1, chip)

/-- A loss declared (R309): recorded, and an abort due for a chip whose loss no abort has told yet. -/
def State.declareLost (s : State) (chip : Nat) : State :=
  let mask := (s.portsOf chip).foldl (fun a p => a + 2 ^ p) 0
  let s := s.record 0x0304 0 chip mask
  let s := { s with topo := { s.topo with partners := s.topo.partners.filter (· != chip), abortDue := s.topo.abortDue.filter (· != (1, chip)) } }
  if s.topo.lost.contains chip then s
  else { s with topo := { s.topo with lost := s.topo.lost ++ [chip], abortDue := s.topo.abortDue ++ [(if s.is CLK.ROOT.REF_FAILED then 6 else 1, chip)] } }

/-- Item 3: partners lost declared, and one abort for all that is due (R309, R310). -/
def State.lossItem (s : State) : State :=
  let s := (s.topo.partners.filter s.partnerGone).foldl State.declareLost s
  match s.topo.abortDue with
  | [] => s
  | (cause, lost) :: _ => ({ s with topo := { s.topo with abortDue := [] } }).abortOriginate cause lost

/-- Item 4: a hello on every UP port, each port's silence counted, and the watchdog satisfied (R306, R307, R392). -/
def State.helloItem (s : State) : State :=
  let s := (List.range 12).foldl State.sendHello s
  let s := (List.range 12).foldl (fun (t : State) p => t.setNeighbour p { t.neighbour p with silent := (t.neighbour p).silent + 1 }) s
  { s with mgmt := { s.mgmt with alive := s.now } }

/-! Sensors (R400). -/

/-- The valid readings of a tick, by sensor: those of the numeric sensors in their order, 0xFFFF being none; a sensor on a main-powered
die reads only while the main rails are up. -/
def State.tickReadings (s : State) (readings : List Nat) : List (Nat × Nat) :=
  (List.zip numericSensors readings).filter (fun (r : Nat × Nat) => r.2 != 0xFFFF && (s.mainOn || !mainSensor r.1))

/-- Whether a reading crosses a threshold between two values. -/
def crosses (limits : List Nat) (was now' : Nat) : Bool := limits.any (fun l => decide (l ≤ was) != decide (l ≤ now'))

/-- The numeric sensors that crossed a threshold since the last tick, with the new reading. -/
def State.crossings (s : State) (old : List (Nat × Nat)) (new : List (Nat × Nat)) : List (Nat × Nat) :=
  new.filter (fun (r : Nat × Nat) => !s.mgmt.sensorOff.contains r.1 && (match aFind old r.1 with
    | some v => crosses (s.thresholds r.1) v r.2
    | none => false))

/-- The state sensors that changed, with the new state. -/
def State.stateChanges (s : State) : List (Nat × Nat) :=
  ((List.range 8).map (fun i => (64 + i, s.pinState i))).filter (fun (r : Nat × Nat) => (aFind s.mgmt.sensors r.1).getD 1 != r.2)

/-- PlatformEventMessages sent where an event receiver is set (R400). -/
def State.pldmEvents (s : State) (l : List (Nat × Nat)) : State :=
  if s.sbUp && s.mgmt.receiver.isSome then l.foldl (fun (t : State) r => t.emit (.sideband 1 [r.1, r.2])) s else s

/-- The readings of a tick taken, with the events they make. -/
def State.sensorItem (s : State) (readings : List Nat) : State :=
  let new := s.tickReadings readings
  let changes := s.stateChanges
  let events := s.crossings s.mgmt.sensors new ++ changes
  let s := s.sense new
  ({ s with mgmt := { s.mgmt with sensors := changes.foldl (fun m (r : Nat × Nat) => aPut m r.1 r.2) s.mgmt.sensors } }).pldmEvents events

/-! Other items. -/

/-- The step monitors read (R28): M steps a second, die by die. -/
def State.stepItem (s : State) (steps : List Nat) : State :=
  (List.range 8).foldl (fun (t : State) d => t.wr (PWR.DIE_STATUS.STEP_MHZ d) (min (steps.getD d 0) 4095)) s

/-- Units in STOCK, by key. -/
def State.stockUnits (s : State) : List Nat :=
  (List.range 5).flatMap (fun cls => (List.range (groupsOf cls)).flatMap (fun g => (s.unitsIn cls g 1).map (unitKey cls g)))

/-- The next unit of a pass put under test, one a tick: TESTING, with its CAUSE as it stands (R323). -/
def State.testItem (s : State) : State :=
  match s.selfNow, s.selfDue with
  | none, k :: r =>
    let s := { s with selfDue := r }
    let cls := k / 4096
    let g := k / 512 % 8
    if s.unitState cls g (k % 512) = 1 ∧ s.is STOCK.SELFTEST.ENABLE then { s with selfNow := some k }.testUnit cls g (k % 512) 3 else s
  | _, _ => s

/-- A pass over the units in STOCK begun every 24 h from power-on unless STOCK.SELFTEST.ENABLE is 0 (R323). -/
def State.passItem (s : State) : State :=
  let t := s.rd MGMT.TICK.COUNT
  let s := s.wr STOCK.SELFTEST.NEXT_S (86_400 - t % 86_400_000 / 1000)
  (if t % 86_400_000 = 0 && s.is STOCK.SELFTEST.ENABLE then { s with selfDue := s.stockUnits } else s).testItem

/-- The configuration record rewritten when the stock map has changed (R326), signed by the identity key; while that key cannot sign,
the old record is kept (R463). -/
def State.recordItem (s : State) (fail : Nat) : State :=
  match s.recordDue with
  | none => s
  | some _ => match s.signNext fail with
    | .ok _ t => t.recordWrite
    | .refused _ _ t => t

/-- The pattern of ATTN_LED (R409). -/
def State.ledPattern (s : State) : Nat :=
  if s.is DISC.OUTPUTS.FAULT then 1
  else if s.is MGMT.LOCATE.LOCATE then 2
  else if s.is TOPO.DRAIN.REQUESTED then (if s.is DISC.OUTPUTS.DRAINED then 3 else 4)
  else 5

/-- The items that need the main rails and come before the hellos: heat and warnings, then losses and aborts. -/
def State.firstItems (s : State) : State :=
  if s.mainOn then ((s.thermal.warningsTick).lossItem).helloItem
  else { s with mgmt := { s.mgmt with alive := s.now } }

/-- The items that need the main rails and come after: sharing, CAP_SET's replies, phase learning, energy, the self-test pass. -/
def State.laterItems (s : State) (watts stalls steps : List Nat) : State :=
  if s.mainOn then
    let s := ((s.share watts).capReplies).learnAll stalls
    (((s.stepItem steps).energyTick watts).passItem).bringTick
  else s.bringTick

/-- The tick's work (Table 17-1): `overrun` is 1 where the work of the tick before still runs at the boundary, which is counted and
delays items but skips none; `fail` where the reservation of a signature index fails; then the sensors' readings, the mean power in W of the
module and VCD0–VCD7, and each die's stall share and step rate. -/
def tickWork (overrun fail : Nat) (readings watts stalls steps : List Nat) (s : State) : State :=
  let s := if overrun = 1 then s.bump MGMT.TICK.OVERRUNS 1 else s
  let s := if s.score.flushDue then s.flushStart else s
  let s := (s.tickRecords).sensorItem readings
  let s := (s.firstItems).laterItems watts stalls steps
  let s := s.recordItem fail
  let s := if s.rd MGMT.TICK.COUNT % 10_000 = 0 then s.flushStart else s
  s.wr DISC.OUTPUTS.LED s.ledPattern

/-- What Bimon finds at a boundary for the actions that it takes there (R4, R441, R483). -/
def State.dueItem (s : State) : State :=
  { s with mgmt := { s.mgmt with railsDue := s.railsMayStart, clocksDue := s.is CLK.ROOT.READY && s.is CLK.CTL.AUTO_RETURN } }

/-- MANAGEMENT_TICK (R390): the first boundary behind the last one worked; ticks are counted whether or not Bimon runs (R392). -/
def managementTick (overrun fail : Nat) (readings watts stalls steps : List Nat) (s : State) : State :=
  if !s.mgmt.standby || decide (tickOf s.timeBase ≤ s.mgmt.lastTick) then s
  else
    let s := ({ s with mgmt := { s.mgmt with lastTick := tickOf s.timeBase } }).bump MGMT.TICK.COUNT 1
    if s.bimon then tickWork overrun fail readings watts stalls steps s.dueItem else s

/-- MANAGEMENT_TICK (R390). -/
def execManagementTick (overrun fail : Nat) (readings watts stalls steps : List Nat) (s : State) : Host.Outcome State Fault Refusal :=
  .next (managementTick overrun fail readings watts stalls steps s)

end Sys2Proof.Machine
end

