-- ==== Sys2Proof/Machine/Dispatch.lean ====
section
/-! DEFINITION. The dispatch: one arm for each command, each a direct call of its meaning. -/

namespace Sys2Proof.Machine

open Sys2Proof

/-- The effect of a command on everything but the queue of waiting commands. -/
def exec (i : Instr) (s : State) : Host.Outcome State Fault Refusal :=
  match i with
  | .standbyInputStart straps copies => Sys2Proof.Machine.execStandbyInputStart straps copies s
  | .standbyInputStop => Sys2Proof.Machine.execStandbyInputStop s
  | .mainInputStop => Sys2Proof.Machine.execMainInputStop s
  | .mainRailStart => Sys2Proof.Machine.execMainRailStart s
  | .mainPowerGood => Sys2Proof.Machine.execMainPowerGood s
  | .railFailure => Sys2Proof.Machine.execRailFailure s
  | .rootReady => Sys2Proof.Machine.execRootReady s
  | .ameloReady => Sys2Proof.Machine.execAmeloReady s
  | .clockFailure kind dom count other => Sys2Proof.Machine.execClockFailure kind dom count other s
  | .clockAutoReturn => Sys2Proof.Machine.execClockAutoReturn s
  | .managementTick overrun fail readings watts stalls steps => Sys2Proof.Machine.execManagementTick overrun fail readings watts stalls steps s
  | .biasLoopUpdate ctx slot layer => Sys2Proof.Machine.execBiasLoopUpdate ctx slot layer s
  | .thermalCutClear => Sys2Proof.Machine.execThermalCutClear s
  | .sensorFail sensor => Sys2Proof.Machine.execSensorFail sensor s
  | .thermalTrip sensor reading => Sys2Proof.Machine.execThermalTrip sensor reading s
  | .phaseFault rail phase => Sys2Proof.Machine.execPhaseFault rail phase s
  | .phaseStockDraw rail failed => Sys2Proof.Machine.execPhaseStockDraw rail failed s
  | .paceAdjust die avg => Sys2Proof.Machine.execPaceAdjust die avg s
  | .epoNAssert level => Sys2Proof.Machine.execEpoNAssert level s
  | .pwarnNAssert => Sys2Proof.Machine.execPwarnNAssert s
  | .pwarnNRelease => Sys2Proof.Machine.execPwarnNRelease s
  | .pwarnCapRestore => Sys2Proof.Machine.execPwarnCapRestore s
  | .coolAlmNAssert => Sys2Proof.Machine.execCoolAlmNAssert s
  | .coolAlmNRelease => Sys2Proof.Machine.execCoolAlmNRelease s
  | .traySeatNChange level => Sys2Proof.Machine.execTraySeatNChange level s
  | .drainReqNAssert => Sys2Proof.Machine.execDrainReqNAssert s
  | .drainReqNRelease => Sys2Proof.Machine.execDrainReqNRelease s
  | .drainStuck => Sys2Proof.Machine.execDrainStuck s
  | .chatterSet input => Sys2Proof.Machine.execChatterSet input s
  | .chatterClear src value => Sys2Proof.Machine.execChatterClear src value s
  | .perstNAssert h => Sys2Proof.Machine.execPerstNAssert h s
  | .perstNDeassert h => Sys2Proof.Machine.execPerstNDeassert h s
  | .sbResetNAssert => Sys2Proof.Machine.execSbResetNAssert s
  | .sbResetNDeassert => Sys2Proof.Machine.execSbResetNDeassert s
  | .watchdogExpiry => Sys2Proof.Machine.execWatchdogExpiry s
  | .rmSilence => Sys2Proof.Machine.execRmSilence s
  | .hostLinkUp h rate width flit => Sys2Proof.Machine.execHostLinkUp h rate width flit s
  | .hostLinkDown h => Sys2Proof.Machine.execHostLinkDown h s
  | .hostLost h cause => Sys2Proof.Machine.execHostLost h cause s
  | .lossActionsComplete h => Sys2Proof.Machine.execLossActionsComplete h s
  | .configRequest h fn reg write value => Sys2Proof.Machine.execConfigRequest h fn reg write value s
  | .hostReadTimeout desc => Sys2Proof.Machine.execHostReadTimeout desc s
  | .hostAttach h value => Sys2Proof.Machine.execHostAttach h value s
  | .hostDetach h value => Sys2Proof.Machine.execHostDetach h value s
  | .orphanDataRead src h => Sys2Proof.Machine.execOrphanDataRead src h s
  | .msixTableWrite h off value size => Sys2Proof.Machine.execMsixTableWrite h off value size s
  | .registerWrite src off value size => Sys2Proof.Machine.execRegisterWrite src off value size s
  | .rcRead src off size => Sys2Proof.Machine.execRcRead src off size s
  | .pwrCapWrite src value => Sys2Proof.Machine.execPwrCapWrite src value s
  | .windowWrite src off data => Sys2Proof.Machine.execWindowWrite src off data s
  | .commandCommit src off data => Sys2Proof.Machine.execCommandCommit src off data s
  | .commandQueue chan => Sys2Proof.Machine.execCommandQueue chan s
  | .gapTimerExpiry chan => Sys2Proof.Machine.execGapTimerExpiry chan s
  | .creditWordWrite chan => Sys2Proof.Machine.execCreditWordWrite chan s
  | .commandAccept chan => Sys2Proof.Machine.execCommandAccept chan s
  | .commandComplete k => Sys2Proof.Machine.execCommandComplete k s
  | .replyHoldDrain ring => Sys2Proof.Machine.execReplyHoldDrain ring s
  | .channelEnable src chan value => Sys2Proof.Machine.execChannelEnable src chan value s
  | .channelDisable src chan value => Sys2Proof.Machine.execChannelDisable src chan value s
  | .channelReset src chan value => Sys2Proof.Machine.execChannelReset src chan value s
  | .ringEnable src ring value => Sys2Proof.Machine.execRingEnable src ring value s
  | .ringDisable src ring value => Sys2Proof.Machine.execRingDisable src ring value s
  | .nop k => Sys2Proof.Machine.execNop k s
  | .fence k => Sys2Proof.Machine.execFence k s
  | .signal k => Sys2Proof.Machine.execSignal k s
  | .wait k => Sys2Proof.Machine.execWait k s
  | .waitPoll k => Sys2Proof.Machine.execWaitPoll k s
  | .waitTimeout k => Sys2Proof.Machine.execWaitTimeout k s
  | .timestamp k => Sys2Proof.Machine.execTimestamp k s
  | .ctxCreate k => Sys2Proof.Machine.execCtxCreate k s
  | .ctxDestroy k => Sys2Proof.Machine.execCtxDestroy k s
  | .map k => Sys2Proof.Machine.execMap k s
  | .unmap k => Sys2Proof.Machine.execUnmap k s
  | .migrate k => Sys2Proof.Machine.execMigrate k s
  | .setHome k => Sys2Proof.Machine.execSetHome k s
  | .ctxAdopt k => Sys2Proof.Machine.execCtxAdopt k s
  | .pinWindow k => Sys2Proof.Machine.execPinWindow k s
  | .unpin k => Sys2Proof.Machine.execUnpin k s
  | .invalidate k => Sys2Proof.Machine.execInvalidate k s
  | .copy k => Sys2Proof.Machine.execCopy k s
  | .fill k => Sys2Proof.Machine.execFill k s
  | .gather k => Sys2Proof.Machine.execGather k s
  | .scatter k => Sys2Proof.Machine.execScatter k s
  | .reduce k => Sys2Proof.Machine.execReduce k s
  | .alltoall k => Sys2Proof.Machine.execAlltoall k s
  | .descriptorIssue mover queue => Sys2Proof.Machine.execDescriptorIssue mover queue s
  | .moverRequestIssue mover retried failed => Sys2Proof.Machine.execMoverRequestIssue mover retried failed s
  | .descriptorComplete desc => Sys2Proof.Machine.execDescriptorComplete desc s
  | .faultRecordDeliver fault => Sys2Proof.Machine.execFaultRecordDeliver fault s
  | .faultResolve src value => Sys2Proof.Machine.execFaultResolve src value s
  | .faultTimeout fault => Sys2Proof.Machine.execFaultTimeout fault s
  | .pageMoveStart want => Sys2Proof.Machine.execPageMoveStart want s
  | .pageMoveCopyDone move => Sys2Proof.Machine.execPageMoveCopyDone move s
  | .moveBroadcastComplete move => Sys2Proof.Machine.execMoveBroadcastComplete move s
  | .moveNoteReceive packet => Sys2Proof.Machine.execMoveNoteReceive packet s
  | .forwardReceive packet => Sys2Proof.Machine.execForwardReceive packet s
  | .bankRetire die bank => Sys2Proof.Machine.execBankRetire die bank s
  | .launchLayer k => Sys2Proof.Machine.execLaunchLayer k s
  | .launchKernel k => Sys2Proof.Machine.execLaunchKernel k s
  | .launchLoop k => Sys2Proof.Machine.execLaunchLoop k s
  | .loopHead launch die => Sys2Proof.Machine.execLoopHead launch die s
  | .loadProgram k => Sys2Proof.Machine.execLoadProgram k s
  | .unloadProgram k => Sys2Proof.Machine.execUnloadProgram k s
  | .launchReady launch => Sys2Proof.Machine.execLaunchReady launch s
  | .dieHolderChange die => Sys2Proof.Machine.execDieHolderChange die s
  | .sliceExpiry die => Sys2Proof.Machine.execSliceExpiry die s
  | .programRecordStart die => Sys2Proof.Machine.execProgramRecordStart die s
  | .tileStart die core => Sys2Proof.Machine.execTileStart die core s
  | .tileVerdict tile misdeals port => Sys2Proof.Machine.execTileVerdict tile misdeals port s
  | .armingExpiry die core array => Sys2Proof.Machine.execArmingExpiry die core array s
  | .mtxInject value => Sys2Proof.Machine.execMtxInject value s
  | .stockCoreDraw die => Sys2Proof.Machine.execStockCoreDraw die s
  | .coreSelftestDone die core pass => Sys2Proof.Machine.execCoreSelftestDone die core pass s
  | .launchComplete launch => Sys2Proof.Machine.execLaunchComplete launch s
  | .setNumerics k => Sys2Proof.Machine.execSetNumerics k s
  | .dealAhead die retried failed => Sys2Proof.Machine.execDealAhead die retried failed s
  | .dealExpert die retried failed => Sys2Proof.Machine.execDealExpert die retried failed s
  | .dispatch launch => Sys2Proof.Machine.execDispatch launch s
  | .areaDecided ctx slot layer expert parity => Sys2Proof.Machine.execAreaDecided ctx slot layer expert parity s
  | .expertLaunch ctx slot layer expert parity => Sys2Proof.Machine.execExpertLaunch ctx slot layer expert parity s
  | .combineComplete launch => Sys2Proof.Machine.execCombineComplete launch s
  | .areaReset ctx slot layer expert parity => Sys2Proof.Machine.execAreaReset ctx slot layer expert parity s
  | .routerConfig k => Sys2Proof.Machine.execRouterConfig k s
  | .setShape k => Sys2Proof.Machine.execSetShape k s
  | .routerRemove k => Sys2Proof.Machine.execRouterRemove k s
  | .biasLoopConfig k => Sys2Proof.Machine.execBiasLoopConfig k s
  | .routerStats k => Sys2Proof.Machine.execRouterStats k s
  | .stepAssembly ctx => Sys2Proof.Machine.execStepAssembly ctx s
  | .stepComplete ctx => Sys2Proof.Machine.execStepComplete ctx s
  | .evictionComplete hand => Sys2Proof.Machine.execEvictionComplete hand s
  | .returnStart hand => Sys2Proof.Machine.execReturnStart hand s
  | .returnComplete hand => Sys2Proof.Machine.execReturnComplete hand s
  | .handOpen k => Sys2Proof.Machine.execHandOpen k s
  | .handClose k => Sys2Proof.Machine.execHandClose k s
  | .step k => Sys2Proof.Machine.execStep k s
  | .prefillChunk k => Sys2Proof.Machine.execPrefillChunk k s
  | .park k => Sys2Proof.Machine.execPark k s
  | .parkRenew k => Sys2Proof.Machine.execParkRenew k s
  | .parkComplete hand => Sys2Proof.Machine.execParkComplete hand s
  | .unpark k => Sys2Proof.Machine.execUnpark k s
  | .unparkComplete hand => Sys2Proof.Machine.execUnparkComplete hand s
  | .kittyExpiry entry => Sys2Proof.Machine.execKittyExpiry entry s
  | .specConfig k => Sys2Proof.Machine.execSpecConfig k s
  | .prefixLookup k => Sys2Proof.Machine.execPrefixLookup k s
  | .prefixInsert k => Sys2Proof.Machine.execPrefixInsert k s
  | .prefixRemove k => Sys2Proof.Machine.execPrefixRemove k s
  | .variantBind k => Sys2Proof.Machine.execVariantBind k s
  | .variantRegister k => Sys2Proof.Machine.execVariantRegister k s
  | .variantRemove k => Sys2Proof.Machine.execVariantRemove k s
  | .classSet k => Sys2Proof.Machine.execClassSet k s
  | .preempt k => Sys2Proof.Machine.execPreempt k s
  | .resume k => Sys2Proof.Machine.execResume k s
  | .accountRead k => Sys2Proof.Machine.execAccountRead k s
  | .flitReceive link bytes => Sys2Proof.Machine.execFlitReceive link bytes s
  | .linkReplayFailure link => Sys2Proof.Machine.execLinkReplayFailure link s
  | .laneFailure link lane => Sys2Proof.Machine.execLaneFailure link lane s
  | .laneSwap link => Sys2Proof.Machine.execLaneSwap link s
  | .laneRetrained link lane => Sys2Proof.Machine.execLaneRetrained link lane s
  | .linkTrained link delay => Sys2Proof.Machine.execLinkTrained link delay s
  | .linkTrainingTimeout link => Sys2Proof.Machine.execLinkTrainingTimeout link s
  | .linkRetrain link => Sys2Proof.Machine.execLinkRetrain link s
  | .packetForward packet => Sys2Proof.Machine.execPacketForward packet s
  | .packetLifetimeExpiry packet => Sys2Proof.Machine.execPacketLifetimeExpiry packet s
  | .fabricRequestServe packet retried failed => Sys2Proof.Machine.execFabricRequestServe packet retried failed s
  | .fabricAnswerReceive packet => Sys2Proof.Machine.execFabricAnswerReceive packet s
  | .fabricRetry req => Sys2Proof.Machine.execFabricRetry req s
  | .timeSend => Sys2Proof.Machine.execTimeSend s
  | .timeReceive packet => Sys2Proof.Machine.execTimeReceive packet s
  | .helloReceive packet => Sys2Proof.Machine.execHelloReceive packet s
  | .neighbourSilent port => Sys2Proof.Machine.execNeighbourSilent port s
  | .abortReceive packet => Sys2Proof.Machine.execAbortReceive packet s
  | .linkAdminDown k => Sys2Proof.Machine.execLinkAdminDown k s
  | .linkAdminUp k => Sys2Proof.Machine.execLinkAdminUp k s
  | .toStock k => Sys2Proof.Machine.execToStock k s
  | .fromStock k => Sys2Proof.Machine.execFromStock k s
  | .topoQuery k => Sys2Proof.Machine.execTopoQuery k s
  | .partitionForm k => Sys2Proof.Machine.execPartitionForm k s
  | .partitionReshape k => Sys2Proof.Machine.execPartitionReshape k s
  | .jobAbort k => Sys2Proof.Machine.execJobAbort k s
  | .jobRestart k => Sys2Proof.Machine.execJobRestart k s
  | .stockDraw k failed => Sys2Proof.Machine.execStockDraw k failed s
  | .stockReturn k failed => Sys2Proof.Machine.execStockReturn k failed s
  | .stockSelftest cls group unit pass => Sys2Proof.Machine.execStockSelftest cls group unit pass s
  | .shardIntake k => Sys2Proof.Machine.execShardIntake k s
  | .intakeWrite h off data => Sys2Proof.Machine.execIntakeWrite h off data s
  | .digestComplete slot shard => Sys2Proof.Machine.execDigestComplete slot shard s
  | .donorCopyComplete slot shard detail data => Sys2Proof.Machine.execDonorCopyComplete slot shard detail data s
  | .shardTimerExpiry slot shard => Sys2Proof.Machine.execShardTimerExpiry slot shard s
  | .recheckShard => Sys2Proof.Machine.execRecheckShard s
  | .shardVerify k => Sys2Proof.Machine.execShardVerify k s
  | .repairSwap slot => Sys2Proof.Machine.execRepairSwap slot s
  | .repairWaitTimeout launch => Sys2Proof.Machine.execRepairWaitTimeout launch s
  | .modelStage k => Sys2Proof.Machine.execModelStage k s
  | .modelSwitch k => Sys2Proof.Machine.execModelSwitch k s
  | .modelSwitchCancel k => Sys2Proof.Machine.execModelSwitchCancel k s
  | .modelRetire k => Sys2Proof.Machine.execModelRetire k s
  | .capSet k => Sys2Proof.Machine.execCapSet k s
  | .energyRead k => Sys2Proof.Machine.execEnergyRead k s
  | .phaseHint k => Sys2Proof.Machine.execPhaseHint k s
  | .scoreRead k => Sys2Proof.Machine.execScoreRead k s
  | .scoreClear k => Sys2Proof.Machine.execScoreClear k s
  | .readDataRead src => Sys2Proof.Machine.execReadDataRead src s
  | .scorebookFlush => Sys2Proof.Machine.execScorebookFlush s
  | .clockSelect k => Sys2Proof.Machine.execClockSelect k s
  | .gateSet k => Sys2Proof.Machine.execGateSet k s
  | .attest k fail => Sys2Proof.Machine.execAttest k fail s
  | .fwStage k => Sys2Proof.Machine.execFwStage k s
  | .fwStageFinal k => Sys2Proof.Machine.execFwStageFinal k s
  | .fwStageAbort k => Sys2Proof.Machine.execFwStageAbort k s
  | .fwActivate k fail => Sys2Proof.Machine.execFwActivate k fail s
  | .svnCommit typ => Sys2Proof.Machine.execSvnCommit typ s
  | .authChallenge k => Sys2Proof.Machine.execAuthChallenge k s
  | .ownerEnrol k fail => Sys2Proof.Machine.execOwnerEnrol k fail s
  | .i3cAddressAssign addr => Sys2Proof.Machine.execI3cAddressAssign addr s
  | .setEndpointId eid => Sys2Proof.Machine.execSetEndpointId eid s
  | .getEndpointId => Sys2Proof.Machine.execGetEndpointId s
  | .getMctpVersionSupport => Sys2Proof.Machine.execGetMctpVersionSupport s
  | .getMessageTypeSupport => Sys2Proof.Machine.execGetMessageTypeSupport s
  | .mctpMessageDrop => Sys2Proof.Machine.execMctpMessageDrop s
  | .sbCommand tag bytes => Sys2Proof.Machine.execSbCommand tag bytes s
  | .sbHandover => Sys2Proof.Machine.execSbHandover s
  | .sbReply => Sys2Proof.Machine.execSbReply s
  | .windowRead off count => Sys2Proof.Machine.execWindowRead off count s
  | .gettid => Sys2Proof.Machine.execGettid s
  | .getpldmversion typ => Sys2Proof.Machine.execGetpldmversion typ s
  | .getpldmtypes => Sys2Proof.Machine.execGetpldmtypes s
  | .getpldmcommands typ => Sys2Proof.Machine.execGetpldmcommands typ s
  | .getpdr index => Sys2Proof.Machine.execGetpdr index s
  | .getpdrrepositoryinfo => Sys2Proof.Machine.execGetpdrrepositoryinfo s
  | .getsensorreading sensor => Sys2Proof.Machine.execGetsensorreading sensor s
  | .getstatesensorreadings sensor => Sys2Proof.Machine.execGetstatesensorreadings sensor s
  | .seteventreceiver eid => Sys2Proof.Machine.execSeteventreceiver eid s
  | .setnumericsensorenable sensor value => Sys2Proof.Machine.execSetnumericsensorenable sensor value s
  | .trainingSeenFromPartner link => Sys2Proof.Machine.execTrainingSeenFromPartner link s
  | .sidebandWindowWrite off values => Sys2Proof.Machine.execSidebandWindowWrite off values s
  | .reportDataRead src h => Sys2Proof.Machine.execReportDataRead src h s
  | .nonceExpiry src => Sys2Proof.Machine.execNonceExpiry src s
  | .bimonRestartComplete => Sys2Proof.Machine.execBimonRestartComplete s

end Sys2Proof.Machine
end

