-- ==== Sys2Proof/Safety.lean ====
section
/-! DEFINITION. The terms in which statements speak of the machine: what every state keeps, how a command stands in flight, how it has
ended, and which registers two states share. -/

namespace Sys2Proof.Machine

open Sys2Proof

/-- Memory and the register store are in their one canonical form: keys rising, nothing listed that reads as unlisted. -/
def State.canonical (s : State) : Prop := memWf s.mem = true ∧ regsWf s.regs = true

/-- Amelo's hold and the scorebook's ring are within their sizes (R361, R471). -/
def State.bounded (s : State) : Prop := s.hold.length ≤ 4096 ∧ s.score.ring.length ≤ 8192

/-- The SVN floor of a firmware image type, 1 until it is raised (R454). -/
def State.svnFloor (s : State) (typ : Nat) : Nat := (aFind s.sec.floors typ).getD 1

/-- What flash never takes back: `t` has no SVN floor, no signature reservation and no record counter below that of `s` (R454, R456,
R463). -/
def State.flashRises (s t : State) : Prop :=
  (∀ typ, s.svnFloor typ ≤ t.svnFloor typ) ∧ s.sec.reserved ≤ t.sec.reserved ∧ s.sec.counter ≤ t.sec.counter

/-- Command `k` has ended with a status, DETAIL and OUT words, which COMMAND_COMPLETE will carry to its ring (R357, R358). -/
def State.ended (t : State) (k st det o0 o1 o2 : Nat) : Prop :=
  ∃ c ∈ t.cmds, c.id = k ∧ c.status = some st ∧ c.detail = det ∧ c.out0 = o0 ∧ c.out1 = o1 ∧ c.out2 = o2

/-- Command `k` runs in its unit with no status fixed. -/
def State.runs (t : State) (k : Nat) : Prop := ∃ c ∈ t.cmds, c.id = k ∧ c.started = true ∧ c.status = none

/-- The scorebook's ring holds a record of a code with the severity Table 21-3 gives the code, its instance and its arguments. -/
def State.logged (t : State) (code inst a0 a1 : Nat) : Prop :=
  ∃ r ∈ t.score.ring, r.code = code ∧ r.severity = (codeInfo code).1 ∧ r.inst = inst ∧ r.arg0 = a0 ∧ r.arg1 = a1

/-- `t` has the memory of `s`. -/
def State.sameMem (s t : State) : Prop := ∀ a, memByte t.mem a = memByte s.mem a

/-- `t` has every register field of `s` but those of the blocks listed (the numbers of `Fld.blk`). -/
def State.sameRegs (s t : State) (blocks : List Nat) : Prop := ∀ f : Fld, f.blk ∉ blocks → t.rd f = s.rd f

/-- `t` has every register field of `s` but those listed. -/
def State.sameBut (s t : State) (fs : List Fld) : Prop := ∀ f : Fld, (∀ g ∈ fs, f.key ≠ g.key) → t.rd f = s.rd f

/-! What a command may change. -/

/-- A field of `State` beside the registers. -/
inductive Part where
  | now | freeCtr | mem | out | pending | score | ports | chans | cmds | nextCmd | doneCtr | grants | hold | late | ctxs | allocs | ranges
  | windows | moves | nextMove | wants | fwds | remaps | tlbs | faults | nextFault | descs | nextDesc | fabric | topo | tiles | nextTile | arming
  | injects | routers | areas | decided | stepSlots | hands | kitty | steps | entries | treeNodes | variants | dealing | accounts | launches
  | nextLaunch | rings | programs | coreFree | phaseSince | phaseNs | draws | units | bankMap | badBanks | selfDue | recordDue | slots | switches
  | windowTurn | recheck | recheckAt | mgmt | power | sec | clkMoved | clkBring | badSince | tableWaits | cacheSet | ringLanded | selfNow
deriving DecidableEq, Repr

/-- All of them. -/
def Part.all : List Part := [
  .now, .freeCtr, .mem, .out, .pending, .score, .ports, .chans, .cmds, .nextCmd, .doneCtr, .grants, .hold, .late, .ctxs, .allocs, .ranges,
  .windows, .moves, .nextMove, .wants, .fwds, .remaps, .tlbs, .faults, .nextFault, .descs, .nextDesc, .fabric, .topo, .tiles, .nextTile, .arming,
  .injects, .routers, .areas, .decided, .stepSlots, .hands, .kitty, .steps, .entries, .treeNodes, .variants, .dealing, .accounts, .launches,
  .nextLaunch, .rings, .programs, .coreFree, .phaseSince, .phaseNs, .draws, .units, .bankMap, .badBanks, .selfDue, .recordDue, .slots, .switches,
  .windowTurn, .recheck, .recheckAt, .mgmt, .power, .sec, .clkMoved, .clkBring, .badSince, .tableWaits, .cacheSet, .ringLanded, .selfNow]

/-- `t` holds in a field what `s` holds in it. -/
def Part.same (p : Part) (s t : State) : Prop :=
  match p with
  | .now => t.now = s.now
  | .freeCtr => t.freeCtr = s.freeCtr
  | .mem => t.mem = s.mem
  | .out => t.out = s.out
  | .pending => t.pending = s.pending
  | .score => t.score = s.score
  | .ports => t.ports = s.ports
  | .chans => t.chans = s.chans
  | .cmds => t.cmds = s.cmds
  | .nextCmd => t.nextCmd = s.nextCmd
  | .doneCtr => t.doneCtr = s.doneCtr
  | .grants => t.grants = s.grants
  | .hold => t.hold = s.hold
  | .late => t.late = s.late
  | .ctxs => t.ctxs = s.ctxs
  | .allocs => t.allocs = s.allocs
  | .ranges => t.ranges = s.ranges
  | .windows => t.windows = s.windows
  | .moves => t.moves = s.moves
  | .nextMove => t.nextMove = s.nextMove
  | .wants => t.wants = s.wants
  | .fwds => t.fwds = s.fwds
  | .remaps => t.remaps = s.remaps
  | .tlbs => t.tlbs = s.tlbs
  | .faults => t.faults = s.faults
  | .nextFault => t.nextFault = s.nextFault
  | .descs => t.descs = s.descs
  | .nextDesc => t.nextDesc = s.nextDesc
  | .fabric => t.fabric = s.fabric
  | .topo => t.topo = s.topo
  | .tiles => t.tiles = s.tiles
  | .nextTile => t.nextTile = s.nextTile
  | .arming => t.arming = s.arming
  | .injects => t.injects = s.injects
  | .routers => t.routers = s.routers
  | .areas => t.areas = s.areas
  | .decided => t.decided = s.decided
  | .stepSlots => t.stepSlots = s.stepSlots
  | .hands => t.hands = s.hands
  | .kitty => t.kitty = s.kitty
  | .steps => t.steps = s.steps
  | .entries => t.entries = s.entries
  | .treeNodes => t.treeNodes = s.treeNodes
  | .variants => t.variants = s.variants
  | .dealing => t.dealing = s.dealing
  | .accounts => t.accounts = s.accounts
  | .launches => t.launches = s.launches
  | .nextLaunch => t.nextLaunch = s.nextLaunch
  | .rings => t.rings = s.rings
  | .programs => t.programs = s.programs
  | .coreFree => t.coreFree = s.coreFree
  | .phaseSince => t.phaseSince = s.phaseSince
  | .phaseNs => t.phaseNs = s.phaseNs
  | .draws => t.draws = s.draws
  | .units => t.units = s.units
  | .bankMap => t.bankMap = s.bankMap
  | .badBanks => t.badBanks = s.badBanks
  | .selfDue => t.selfDue = s.selfDue
  | .recordDue => t.recordDue = s.recordDue
  | .slots => t.slots = s.slots
  | .switches => t.switches = s.switches
  | .windowTurn => t.windowTurn = s.windowTurn
  | .recheck => t.recheck = s.recheck
  | .recheckAt => t.recheckAt = s.recheckAt
  | .mgmt => t.mgmt = s.mgmt
  | .power => t.power = s.power
  | .sec => t.sec = s.sec
  | .clkMoved => t.clkMoved = s.clkMoved
  | .clkBring => t.clkBring = s.clkBring
  | .badSince => t.badSince = s.badSince
  | .tableWaits => t.tableWaits = s.tableWaits
  | .cacheSet => t.cacheSet = s.cacheSet
  | .ringLanded => t.ringLanded = s.ringLanded
  | .selfNow => t.selfNow = s.selfNow

/-- A block of registers (Table 5-3). -/
inductive Block where
  | hif | cmd | sched | mmu | tier | move | mtx | route | serve | fab | topo | stock | load | pwr | clk | disc | mgmt | score | sec
deriving DecidableEq, Repr

/-- The number of a block: it stands at that many MiB of register space. -/
def Block.no (b : Block) : Nat :=
  match b with
  | .hif => 0
  | .cmd => 1
  | .sched => 2
  | .mmu => 3
  | .tier => 4
  | .move => 5
  | .mtx => 6
  | .route => 7
  | .serve => 8
  | .fab => 9
  | .topo => 10
  | .stock => 11
  | .load => 12
  | .pwr => 13
  | .clk => 14
  | .disc => 15
  | .mgmt => 16
  | .score => 17
  | .sec => 18

/-- All of them. -/
def Block.all : List Block := [
  .hif, .cmd, .sched, .mmu, .tier, .move, .mtx, .route, .serve, .fab, .topo, .stock, .load, .pwr, .clk, .disc, .mgmt, .score, .sec]

/-- `t` has every field of `s` beside the registers but those listed. -/
def State.sameParts (s t : State) (ps : List Part) : Prop := ∀ p ∈ Part.all, p ∉ ps → p.same s t

/-- `t` has every register field of `s`. -/
def State.allRegs (s t : State) : Prop := ∀ f : Fld, t.rd f = s.rd f

/-- The commands in flight beside command `k` stand in `t` as in `s`. -/
def State.othersStand (s t : State) (k : Nat) : Prop := t.cmds.filter (fun c => c.id != k) = s.cmds.filter (fun c => c.id != k)

/-- Command `k` has ended, and nothing else has changed: no register, no byte of memory, no other command (R372). -/
def State.onlyEnds (s t : State) (k st det o0 o1 o2 : Nat) : Prop :=
  t.ended k st det o0 o1 o2 ∧ s.allRegs t ∧ s.othersStand t k ∧ s.sameParts t [.cmds, .doneCtr]

/-- `t` holds the `n`-byte little-endian number `v` at key `a`, and every other byte of memory as `s` does (R6). -/
def State.storedAt (s t : State) (a n v : Nat) : Prop :=
  t.load a n = v % 256 ^ n ∧ ∀ b, b < a ∨ a + n ≤ b → memByte t.mem b = memByte s.mem b

/-- Whether a word meets the condition of a WAIT (Table 15-6): COND 0 at least VALUE, 1 equal to it, 2 different from it. -/
def waitMeets (c : Cmd) (word : Nat) : Prop :=
  bits (c.p 0) 0 2 = 0 ∧ c.p 2 ≤ word ∨ bits (c.p 0) 0 2 = 1 ∧ word = c.p 2 ∨ bits (c.p 0) 0 2 = 2 ∧ word ≠ c.p 2

/-- Reply ring `r` takes a reply at once: it exists, is enabled and not full, and no reply waits before it (R360, R361). -/
def State.ringTakes (s : State) (r : Nat) : Prop :=
  r < 256 ∧ s.rd (CMD.RING_CTL.ENABLE r) = 1 ∧ s.ringFull r = false ∧ (∀ x ∈ s.hold, x.ring ≠ r) ∧ (∀ x ∈ s.late, x.ring ≠ r)

/-- A reply has entered its ring: the tail has advanced by one; the entry at the old tail holds the reply's four words, where no shadow
of the tail is kept, and the shadow holds the new tail where one is kept and the host is attached (R360, Table 15-3). -/
def State.replied (s t : State) (x : Reply) : Prop :=
  t.rd (CMD.RING_TAIL.TAIL x.ring) = (s.rd (CMD.RING_TAIL.TAIL x.ring) + 1) % 2 ^ 32 ∧
  (s.rd (CMD.RING_SHADOW.ADDR x.ring) = 0 → t.loadWords (s.ringKey x.ring (s.rd (CMD.RING_TAIL.TAIL x.ring))) 4 = [x.w0, x.w1, x.w2, x.w3]) ∧
  (s.rd (CMD.RING_SHADOW.ADDR x.ring) ≠ 0 → s.attached (x.ring / 128) = true →
    t.load (hostKey (x.ring / 128) (s.rd (CMD.RING_SHADOW.ADDR x.ring) * 8)) 8 = t.rd (CMD.RING_TAIL.TAIL x.ring))

/-- A saturating count of `t` stands `n` above that of `s` (R11). -/
def State.counted (s t : State) (f : Fld) (n : Nat) : Prop := t.rd f = min (s.rd f + n) (2 ^ f.w - 1)

/-- Whether a write of a register does more than set its fields (Tables 5-12, 15-10, 16-7; R402, R433). -/
def Reg.acts (r : Reg) : Bool :=
  match r with
  | .CMD_CHAN_CTL _ | .CMD_RING_CTL _ | .HIF_HOST_CTL _ | .MMU_FAULT_RESOLVE | .MTX_INJECT | .DISC_INPUTS | .PWR_CAP | .SERVE_CACHE_POOL => true
  | _ => false

/-- Whether a read of a register returns more than its fields and moves on behind it (R386, R467, R476). -/
def Reg.streams (r : Reg) : Bool :=
  match r with
  | .SCORE_READ_DATA _ | .SCORE_READ_BURST _ _ | .HIF_ORPHAN_DATA _ | .SEC_REPORT_DATA _ => true
  | _ => false

/-- A register's fields as a read finds them: the holding of dies counted up to now (Table 11-8), a rail's voltage as it stands (Table 18-11). -/
def State.shown (s : State) (r : Reg) : State :=
  match r with
  | .SCHED_BUSY_TRUMP | .SCHED_BUSY_PLAIN => s.busyNow
  | .PWR_DIE_STATUS d => s.railNow d
  | _ => s

/-- The fields beside a register's own that a read of it brings up. -/
def Reg.besides (r : Reg) : List Fld :=
  match r with
  | .SCHED_BUSY_TRUMP | .SCHED_BUSY_PLAIN => [SCHED.BUSY_TRUMP.DIE_NS, SCHED.BUSY_PLAIN.DIE_NS]
  | _ => []

/-- A field after a write of `v` to its register: set, cleared where 1 is written, set where 1 is written, or kept, as its access code says
(R10, Table 0-3) and unless the value is one that the write ignores (R519). -/
def State.fieldAfter (s : State) (r : Reg) (v : Nat) (p : Fld × Access) : Nat :=
  match p.2 with
  | .rw => if s.keepsField r v p.1 then s.rd p.1 else bits v p.1.lo p.1.w
  | .w1c => s.rd p.1 - (s.rd p.1 &&& bits v p.1.lo p.1.w)
  | .w1s => s.rd p.1 ||| bits v p.1.lo p.1.w
  | .ro | .rc | .wo => s.rd p.1

/-- The 64 bytes of a slot as a write of `data` at byte `at'` of its channel's window leaves them (R348). -/
def State.slotAfter (s : State) (c slot at' : Nat) (data : List Nat) : List Nat :=
  (List.range 64).map (fun i => if at' ≤ 64 * slot + i ∧ 64 * slot + i < at' + data.length then data.getD (64 * slot + i - at') 0
    else (aFind (s.chan c).slots (64 * slot + i)).getD 0)

/-- Every field but those listed. -/
def allBut (l : List Part) : List Part := Part.all.filter (fun p => !l.contains p)

/-- Every block but those listed. -/
def blocksBut (l : List Block) : List Block := Block.all.filter (fun b => !l.contains b)

/-- The fields of the state and the blocks of registers that a command may change, in any state; all the rest it leaves as it was. -/
def mayChange (i : Instr) : List Part × List Block :=
  match i with
  | .standbyInputStart _ _ => (allBut [.freeCtr, .out, .pending], Block.all)
  | .standbyInputStop => (allBut [.freeCtr, .out, .pending], Block.all)
  | .mainInputStop =>
    (allBut [.now, .freeCtr, .out, .pending, .score, .nextCmd, .doneCtr, .units, .bankMap, .selfDue, .recordDue], blocksBut [.score])
  | .mainRailStart => ([.mgmt], [])
  | .mainPowerGood =>
    (allBut [.now, .freeCtr, .out, .pending, .score, .nextCmd, .doneCtr, .selfDue, .recordDue, .mgmt, .sec], blocksBut [.score, .sec])
  | .railFailure => (allBut [.now, .freeCtr, .out, .pending, .score, .nextCmd, .doneCtr, .units, .bankMap, .selfDue, .recordDue], blocksBut [.score])
  | .rootReady => ([.out, .score, .ports, .fabric, .clkBring], [.fab, .topo, .clk, .score])
  | .ameloReady => (allBut [.now, .freeCtr, .out, .pending, .nextCmd, .doneCtr, .units, .bankMap, .selfDue, .recordDue], blocksBut [.score])
  | .clockFailure _ _ _ _ =>
    ([.mem, .out, .score, .ports, .chans, .cmds, .doneCtr, .hold, .late, .ctxs, .allocs, .ranges, .wants, .remaps, .tlbs, .fabric, .hands, .kitty,
    .slots, .mgmt, .sec, .clkMoved, .clkBring], blocksBut [.move, .mtx, .route, .stock, .pwr, .disc, .mgmt])
  | .clockAutoReturn => ([.out, .score, .ports, .fabric, .clkMoved], [.fab, .topo, .clk, .score])
  | .managementTick _ _ _ _ _ _ =>
    ([.freeCtr, .mem, .out, .score, .ports, .cmds, .doneCtr, .ctxs, .allocs, .ranges, .moves, .wants, .remaps, .tlbs, .faults, .descs, .fabric,
    .topo, .tiles, .routers, .areas, .hands, .kitty, .steps, .accounts, .launches, .rings, .phaseSince, .phaseNs, .units, .selfDue, .recordDue,
    .slots, .switches, .mgmt, .power, .sec, .clkBring, .selfNow], blocksBut [.hif, .cmd])
  | .biasLoopUpdate _ _ _ => ([.freeCtr, .mem, .wants, .tlbs, .faults, .nextFault, .fabric, .routers, .tableWaits], [.sched, .mmu, .route, .fab])
  | .thermalCutClear => ([.power], [.pwr])
  | .sensorFail _ => ([.power], [.pwr])
  | .thermalTrip _ _ => (allBut [.now, .freeCtr, .pending, .nextCmd, .doneCtr, .units, .bankMap, .selfDue, .recordDue], Block.all)
  | .phaseFault _ _ => ([.units, .power], [.tier, .mtx, .stock, .load, .pwr, .clk])
  | .phaseStockDraw _ _ => ([.out, .score, .ports, .units, .recordDue, .power], [.tier, .mtx, .stock, .load, .pwr, .clk, .disc, .score])
  | .paceAdjust _ _ => ([.power], [.pwr])
  | .epoNAssert _ => (allBut [.now, .freeCtr, .pending, .nextCmd, .units, .bankMap, .selfDue, .recordDue], Block.all)
  | .pwarnNAssert => (allBut [.now, .freeCtr, .pending, .nextCmd, .units, .bankMap, .selfDue, .recordDue], Block.all)
  | .pwarnNRelease => (allBut [.now, .freeCtr, .pending, .nextCmd, .units, .bankMap, .selfDue, .recordDue], Block.all)
  | .pwarnCapRestore => ([.power], [.pwr])
  | .coolAlmNAssert => (allBut [.now, .freeCtr, .pending, .nextCmd, .units, .bankMap, .selfDue, .recordDue], Block.all)
  | .coolAlmNRelease => (allBut [.now, .freeCtr, .pending, .nextCmd, .units, .bankMap, .selfDue, .recordDue], Block.all)
  | .traySeatNChange _ => (allBut [.now, .freeCtr, .pending, .nextCmd, .units, .bankMap, .selfDue, .recordDue], Block.all)
  | .drainReqNAssert => (allBut [.now, .freeCtr, .pending, .nextCmd, .units, .bankMap, .selfDue, .recordDue], Block.all)
  | .drainReqNRelease => (allBut [.now, .freeCtr, .pending, .nextCmd, .units, .bankMap, .selfDue, .recordDue], Block.all)
  | .drainStuck => (allBut [.now, .freeCtr, .pending, .nextCmd, .units, .bankMap, .selfDue, .recordDue], Block.all)
  | .chatterSet _ => (allBut [.now, .freeCtr, .pending, .nextCmd, .units, .bankMap, .selfDue, .recordDue], Block.all)
  | .chatterClear _ _ => (allBut [.now, .freeCtr, .pending, .nextCmd, .units, .bankMap, .selfDue, .recordDue], Block.all)
  | .perstNAssert _ => (allBut [.now, .freeCtr, .pending, .nextCmd, .units, .bankMap, .selfDue, .recordDue], Block.all)
  | .perstNDeassert _ => (allBut [.now, .freeCtr, .pending, .nextCmd, .units, .bankMap, .selfDue, .recordDue], Block.all)
  | .sbResetNAssert => (allBut [.now, .freeCtr, .pending, .nextCmd, .units, .bankMap, .selfDue, .recordDue], Block.all)
  | .sbResetNDeassert => (allBut [.now, .freeCtr, .pending, .nextCmd, .units, .bankMap, .selfDue, .recordDue], Block.all)
  | .watchdogExpiry => ([.out, .score, .ports, .cmds, .mgmt], [.disc, .mgmt, .score])
  | .rmSilence => ([.out, .score, .ports], [.mgmt, .score])
  | .hostLinkUp _ _ _ _ => ([], [.hif])
  | .hostLinkDown _ =>
    ([.mem, .ports, .chans, .cmds, .doneCtr, .hold, .late, .ctxs, .allocs, .ranges, .wants, .remaps, .tlbs, .fabric, .hands, .kitty, .slots, .sec],
    [.hif, .cmd, .sched, .mmu, .tier, .serve, .fab, .topo, .load, .sec])
  | .hostLost _ _ =>
    ([.mem, .ports, .chans, .cmds, .doneCtr, .hold, .late, .ctxs, .allocs, .ranges, .wants, .remaps, .tlbs, .fabric, .hands, .kitty, .slots, .sec],
    [.hif, .cmd, .sched, .mmu, .tier, .serve, .fab, .topo, .load, .sec])
  | .lossActionsComplete _ => ([.out, .score, .ports], [.hif])
  | .configRequest _ _ _ _ _ =>
    ([.mem, .out, .ports, .chans, .cmds, .doneCtr, .hold, .late, .ctxs, .allocs, .ranges, .wants, .remaps, .tlbs, .fabric, .hands, .kitty, .slots,
    .sec], [.hif, .cmd, .sched, .mmu, .tier, .serve, .fab, .topo, .load, .sec])
  | .hostReadTimeout _ => ([.descs], [.hif, .move])
  | .hostAttach _ _ => ([.out, .ports], [.hif, .cmd])
  | .hostDetach _ _ => ([.out, .ports], [.hif, .cmd])
  | .orphanDataRead _ _ => ([.out], [.hif])
  | .msixTableWrite _ _ _ _ => ([.out, .score, .ports], [.hif, .score])
  | .registerWrite _ _ _ _ => (allBut [.now, .freeCtr, .pending, .nextCmd, .units, .bankMap, .selfDue, .recordDue], Block.all)
  | .rcRead _ _ _ => ([.out, .score, .launches, .sec], Block.all)
  | .pwrCapWrite _ _ => ([.power], [.hif, .pwr])
  | .windowWrite _ _ _ => ([.mem, .out, .ports, .chans, .hold, .late], [.hif, .cmd])
  | .commandCommit _ _ _ => ([.mem, .out, .ports, .chans, .hold, .late], [.hif, .cmd])
  | .commandQueue _ => ([.chans], [.cmd])
  | .gapTimerExpiry _ => ([.mem, .out, .ports, .chans, .hold, .late], [.cmd])
  | .creditWordWrite _ => ([.mem, .chans], [])
  | .commandAccept _ => ([.mem, .out, .score, .ports, .chans, .cmds, .nextCmd, .doneCtr, .grants, .hold, .late, .sec], [.cmd, .score, .sec])
  | .commandComplete _ => ([.mem, .out, .ports, .chans, .cmds, .hold, .late], [.cmd])
  | .replyHoldDrain _ => ([.mem, .out, .ports, .hold, .late], [.cmd])
  | .channelEnable _ _ _ => ([.chans], [.hif, .cmd])
  | .channelDisable _ _ _ => ([.chans], [.hif, .cmd])
  | .channelReset _ _ _ => ([.chans], [.hif, .cmd])
  | .ringEnable _ _ _ => ([.hold, .late], [.hif, .cmd])
  | .ringDisable _ _ _ => ([.hold, .late], [.hif, .cmd])
  | .nop _ => ([.cmds, .doneCtr], [])
  | .fence _ => ([.cmds, .doneCtr], [])
  | .signal _ => ([.mem, .cmds, .doneCtr, .wants, .faults, .nextFault, .fabric, .tableWaits], [.sched, .mmu, .fab])
  | .wait _ => ([.cmds, .doneCtr, .wants, .faults, .nextFault, .fabric, .tableWaits], [.sched, .mmu, .fab])
  | .waitPoll _ => ([.cmds, .doneCtr, .wants, .faults, .nextFault, .fabric, .tableWaits], [.sched, .mmu, .fab])
  | .waitTimeout _ => ([.cmds, .doneCtr], [])
  | .timestamp _ => ([.freeCtr, .mem, .cmds, .doneCtr, .wants, .tlbs, .faults, .nextFault, .fabric, .tableWaits], [.sched, .mmu, .fab])
  | .ctxCreate _ => ([.freeCtr, .mem, .cmds, .doneCtr, .ctxs, .allocs, .accounts], [.sched, .mmu, .load])
  | .ctxDestroy _ =>
    ([.mem, .cmds, .doneCtr, .ctxs, .allocs, .ranges, .windows, .wants, .remaps, .tlbs, .fabric, .routers, .areas, .stepSlots, .kitty, .entries,
    .variants, .programs], [.sched, .mmu, .tier, .serve, .fab, .load])
  | .map _ => ([.freeCtr, .mem, .cmds, .doneCtr, .allocs, .remaps, .tlbs, .faults, .descs], [.sched, .mmu, .tier])
  | .unmap _ => ([.mem, .cmds, .doneCtr, .allocs, .remaps, .tlbs, .fabric], [.tier, .fab])
  | .migrate _ => ([.cmds, .doneCtr, .wants], [])
  | .setHome _ => ([.mem, .cmds, .doneCtr, .allocs, .moves, .nextMove, .fwds, .remaps, .tlbs, .faults, .descs, .fabric], [.sched, .mmu, .tier, .fab])
  | .ctxAdopt _ => ([.out, .ports, .cmds, .doneCtr, .faults], [.hif, .sched])
  | .pinWindow _ => ([.freeCtr, .mem, .cmds, .doneCtr, .allocs, .ranges, .windows, .wants, .remaps, .tlbs], [.tier])
  | .unpin _ => ([.mem, .cmds, .doneCtr, .allocs, .ranges, .windows, .remaps, .tlbs, .fabric], [.tier, .fab])
  | .invalidate _ => ([.cmds, .doneCtr, .fabric], [.fab])
  | .copy _ => ([.cmds, .doneCtr, .descs, .nextDesc], [.move])
  | .fill _ => ([.cmds, .doneCtr, .descs, .nextDesc], [.move])
  | .gather _ => ([.cmds, .doneCtr, .descs, .nextDesc], [.move])
  | .scatter _ => ([.cmds, .doneCtr, .descs, .nextDesc], [.move])
  | .reduce _ => ([.cmds, .doneCtr, .descs, .nextDesc], [.move])
  | .alltoall _ => ([.cmds, .doneCtr, .descs, .nextDesc], [.move])
  | .descriptorIssue _ _ => ([.freeCtr, .wants, .tlbs, .faults, .nextFault, .descs, .fabric, .tableWaits], [.sched, .mmu, .move, .fab])
  | .moverRequestIssue _ _ _ =>
    ([.freeCtr, .mem, .out, .score, .ports, .cmds, .doneCtr, .allocs, .ranges, .windows, .wants, .remaps, .tlbs, .faults, .nextFault, .descs,
    .fabric, .areas, .hands, .kitty, .dealing, .launches, .badBanks, .slots, .badSince, .tableWaits], [.sched, .mmu, .tier, .move, .route, .serve,
    .fab, .stock, .load, .disc, .score])
  | .descriptorComplete _ =>
    ([.freeCtr, .mem, .cmds, .doneCtr, .allocs, .ranges, .moves, .wants, .remaps, .tlbs, .faults, .nextFault, .descs, .fabric, .areas, .hands,
    .kitty, .accounts, .launches, .rings, .tableWaits], [.sched, .mmu, .tier, .move, .serve, .fab])
  | .faultRecordDeliver _ => ([.mem, .out, .ports, .faults], [.mmu])
  | .faultResolve _ _ => ([.cmds, .doneCtr, .faults, .descs, .accounts, .launches, .rings], [.hif, .sched, .mmu, .tier])
  | .faultTimeout _ => ([.cmds, .doneCtr, .faults, .descs, .accounts, .launches, .rings], [.sched, .mmu, .tier])
  | .pageMoveStart _ =>
    ([.freeCtr, .mem, .cmds, .doneCtr, .allocs, .moves, .nextMove, .wants, .remaps, .tlbs, .faults, .nextFault, .descs, .nextDesc, .accounts,
    .launches, .rings, .tableWaits], [.sched, .mmu, .tier, .move])
  | .pageMoveCopyDone _ =>
    ([.mem, .cmds, .doneCtr, .allocs, .ranges, .moves, .wants, .fwds, .remaps, .tlbs, .faults, .descs, .fabric, .topo, .hands, .kitty, .accounts,
    .launches, .rings], [.sched, .mmu, .tier, .move, .serve, .fab])
  | .moveBroadcastComplete _ =>
    ([.mem, .cmds, .doneCtr, .allocs, .moves, .wants, .fwds, .remaps, .tlbs, .fabric, .hands, .kitty], [.tier, .serve, .fab])
  | .moveNoteReceive _ => ([.mem, .remaps, .tlbs, .fabric], [.tier, .fab])
  | .forwardReceive _ => ([.mem, .remaps, .tlbs, .fabric], [.tier, .fab])
  | .bankRetire _ _ =>
    ([.out, .score, .ports, .units, .bankMap, .badBanks, .recordDue, .badSince], [.tier, .mtx, .stock, .load, .pwr, .clk, .disc, .score])
  | .launchLayer _ => ([.cmds, .doneCtr, .launches, .nextLaunch], [.sched])
  | .launchKernel _ => ([.cmds, .doneCtr, .launches, .nextLaunch], [.sched])
  | .launchLoop _ => ([.cmds, .doneCtr, .launches, .nextLaunch], [.sched])
  | .loopHead _ _ =>
    ([.freeCtr, .cmds, .doneCtr, .wants, .tlbs, .faults, .nextFault, .fabric, .accounts, .launches, .rings, .tableWaits], [.sched, .mmu, .tier,
    .route, .fab])
  | .loadProgram _ => ([.freeCtr, .cmds, .doneCtr, .wants, .tlbs, .faults, .nextFault, .fabric, .programs, .tableWaits], [.sched, .mmu, .fab])
  | .unloadProgram _ => ([.cmds, .doneCtr, .programs], [])
  | .launchReady _ =>
    ([.freeCtr, .cmds, .doneCtr, .wants, .tlbs, .faults, .nextFault, .fabric, .accounts, .launches, .rings, .tableWaits], [.sched, .mmu, .tier,
    .route, .fab])
  | .dieHolderChange _ => ([.cmds, .doneCtr, .launches, .rings, .phaseSince, .phaseNs, .power], [.sched, .tier, .pwr])
  | .sliceExpiry _ => ([.launches], [.sched])
  | .programRecordStart _ =>
    ([.freeCtr, .mem, .out, .score, .ports, .cmds, .doneCtr, .allocs, .ranges, .windows, .wants, .remaps, .tlbs, .faults, .nextFault, .descs,
    .nextDesc, .fabric, .areas, .hands, .kitty, .dealing, .accounts, .launches, .rings, .badBanks, .slots, .badSince, .tableWaits, .ringLanded],
    [.sched, .mmu, .tier, .move, .mtx, .serve, .fab, .stock, .load, .disc, .score])
  | .tileStart _ _ =>
    ([.mem, .out, .score, .ports, .cmds, .doneCtr, .allocs, .ranges, .windows, .wants, .remaps, .tlbs, .fabric, .tiles, .nextTile, .areas, .hands,
    .kitty, .dealing, .launches, .badBanks, .slots, .badSince], [.tier, .serve, .fab, .stock, .load, .disc, .score])
  | .tileVerdict _ _ _ =>
    ([.freeCtr, .mem, .out, .score, .ports, .cmds, .doneCtr, .wants, .tlbs, .faults, .nextFault, .fabric, .topo, .tiles, .arming, .injects,
    .accounts, .launches, .rings, .coreFree, .draws, .units, .recordDue, .tableWaits], [.sched, .mmu, .tier, .mtx, .fab, .stock, .load, .pwr, .clk,
    .score])
  | .armingExpiry _ _ _ => ([.arming], [.mtx])
  | .mtxInject _ => ([.injects], [])
  | .stockCoreDraw _ => ([.out, .score, .ports, .draws, .units, .recordDue], [.tier, .mtx, .stock, .load, .pwr, .clk, .disc, .score])
  | .coreSelftestDone _ _ _ => ([.out, .score, .ports, .draws, .units, .recordDue], [.tier, .mtx, .stock, .load, .pwr, .clk, .score])
  | .launchComplete _ => ([.mem, .cmds, .doneCtr, .steps, .accounts, .launches, .nextLaunch, .rings], [.sched, .tier])
  | .setNumerics _ => ([.freeCtr, .mem, .cmds, .doneCtr, .ctxs, .wants, .tlbs, .faults, .nextFault, .fabric, .tableWaits], [.sched, .mmu, .fab])
  | .dealAhead _ _ _ =>
    ([.freeCtr, .mem, .out, .score, .ports, .cmds, .doneCtr, .allocs, .ranges, .windows, .wants, .remaps, .tlbs, .fabric, .areas, .hands, .kitty,
    .dealing, .accounts, .launches, .rings, .badBanks, .slots, .badSince], [.sched, .tier, .serve, .fab, .stock, .load, .disc, .score])
  | .dealExpert _ _ _ =>
    ([.mem, .out, .score, .ports, .cmds, .doneCtr, .allocs, .ranges, .windows, .wants, .remaps, .tlbs, .fabric, .areas, .hands, .kitty, .dealing,
    .accounts, .launches, .rings, .badBanks, .slots, .badSince], [.sched, .tier, .serve, .fab, .stock, .load, .disc, .score])
  | .dispatch _ =>
    ([.freeCtr, .mem, .cmds, .doneCtr, .wants, .tlbs, .faults, .nextFault, .descs, .nextDesc, .fabric, .areas, .steps, .accounts, .launches, .rings,
    .tableWaits], [.sched, .mmu, .tier, .move, .route, .fab])
  | .areaDecided _ _ _ _ _ =>
    ([.freeCtr, .mem, .cmds, .doneCtr, .wants, .tlbs, .faults, .nextFault, .fabric, .areas, .decided, .accounts, .launches, .rings, .tableWaits],
    [.sched, .mmu, .tier, .mtx, .route, .fab])
  | .expertLaunch _ _ _ _ _ =>
    ([.freeCtr, .mem, .cmds, .doneCtr, .wants, .tlbs, .faults, .nextFault, .descs, .nextDesc, .fabric, .areas, .accounts, .launches, .rings,
    .tableWaits], [.sched, .mmu, .tier, .move, .route, .fab])
  | .combineComplete _ =>
    ([.freeCtr, .cmds, .doneCtr, .wants, .tlbs, .faults, .nextFault, .fabric, .accounts, .launches, .rings, .tableWaits], [.sched, .mmu, .tier,
    .fab])
  | .areaReset _ _ _ _ _ => ([.mem, .areas], [.route])
  | .routerConfig _ =>
    ([.freeCtr, .mem, .cmds, .doneCtr, .ctxs, .wants, .tlbs, .faults, .nextFault, .fabric, .routers, .areas, .stepSlots, .tableWaits], [.sched,
    .mmu, .route, .fab])
  | .setShape _ => ([.cmds, .doneCtr, .ctxs], [])
  | .routerRemove _ => ([.cmds, .doneCtr, .routers, .areas], [.route])
  | .biasLoopConfig _ => ([.freeCtr, .mem, .cmds, .doneCtr, .wants, .tlbs, .faults, .nextFault, .fabric, .routers, .tableWaits], [.sched, .mmu, .fab])
  | .routerStats _ => ([.freeCtr, .mem, .cmds, .doneCtr, .wants, .tlbs, .faults, .nextFault, .fabric, .tableWaits], [.sched, .mmu, .fab])
  | .stepAssembly _ =>
    ([.freeCtr, .mem, .cmds, .doneCtr, .ctxs, .allocs, .ranges, .wants, .remaps, .tlbs, .faults, .nextFault, .fabric, .routers, .areas, .stepSlots,
    .hands, .steps, .entries, .accounts, .launches, .nextLaunch, .rings, .switches, .tableWaits, .cacheSet], [.sched, .mmu, .tier, .route, .serve,
    .fab, .load])
  | .stepComplete _ =>
    ([.freeCtr, .mem, .cmds, .doneCtr, .allocs, .ranges, .wants, .remaps, .tlbs, .faults, .nextFault, .fabric, .hands, .steps, .entries, .accounts,
    .launches, .tableWaits], [.sched, .mmu, .tier, .serve, .fab])
  | .evictionComplete _ => ([.hands], [.serve])
  | .returnStart _ => ([.wants], [.serve])
  | .returnComplete _ => ([], [.serve])
  | .handOpen _ => ([.freeCtr, .cmds, .doneCtr, .wants, .tlbs, .faults, .nextFault, .fabric, .hands, .tableWaits], [.sched, .mmu, .serve, .fab])
  | .handClose _ => ([.mem, .cmds, .doneCtr, .allocs, .ranges, .remaps, .tlbs, .fabric, .hands, .ringLanded], [.tier, .serve, .fab])
  | .step _ => ([.cmds, .doneCtr, .hands], [])
  | .prefillChunk _ => ([.cmds, .doneCtr, .hands], [])
  | .park _ => ([.freeCtr, .cmds, .doneCtr, .wants, .hands, .kitty, .accounts, .ringLanded], [.serve])
  | .parkRenew _ => ([.cmds, .doneCtr, .kitty], [.serve])
  | .parkComplete _ => ([.cmds, .doneCtr, .hands, .kitty, .accounts, .ringLanded], [.serve])
  | .unpark _ =>
    ([.freeCtr, .mem, .cmds, .doneCtr, .allocs, .ranges, .wants, .remaps, .tlbs, .fabric, .hands, .kitty, .entries], [.tier, .serve, .fab])
  | .unparkComplete _ => ([.cmds, .doneCtr, .hands, .kitty], [.serve])
  | .kittyExpiry _ => ([.mem, .allocs, .ranges, .remaps, .tlbs, .fabric, .kitty], [.tier, .serve, .fab])
  | .specConfig _ => ([.mem, .cmds, .doneCtr, .allocs, .ranges, .remaps, .tlbs, .fabric, .hands], [.tier, .serve, .fab])
  | .prefixLookup _ =>
    ([.freeCtr, .mem, .cmds, .doneCtr, .wants, .tlbs, .faults, .nextFault, .fabric, .hands, .entries, .tableWaits], [.sched, .mmu, .serve, .fab])
  | .prefixInsert _ =>
    ([.freeCtr, .mem, .cmds, .doneCtr, .allocs, .ranges, .wants, .remaps, .tlbs, .faults, .nextFault, .fabric, .entries, .treeNodes, .tableWaits],
    [.sched, .mmu, .tier, .serve, .fab])
  | .prefixRemove _ => ([.mem, .cmds, .doneCtr, .allocs, .ranges, .remaps, .tlbs, .fabric, .entries], [.tier, .serve, .fab])
  | .variantBind _ => ([.cmds, .doneCtr, .hands], [.serve])
  | .variantRegister _ =>
    ([.freeCtr, .cmds, .doneCtr, .wants, .tlbs, .faults, .nextFault, .fabric, .variants, .tableWaits], [.sched, .mmu, .serve, .fab])
  | .variantRemove _ => ([.cmds, .doneCtr, .variants], [.serve])
  | .classSet _ => ([.cmds, .doneCtr], [.sched])
  | .preempt _ => ([.cmds, .doneCtr, .descs, .launches], [.sched, .move])
  | .resume _ => ([.cmds, .doneCtr, .descs, .launches], [.sched, .move])
  | .accountRead _ => ([.freeCtr, .mem, .cmds, .doneCtr, .wants, .tlbs, .faults, .nextFault, .fabric, .accounts, .tableWaits], [.sched, .mmu, .fab])
  | .flitReceive _ _ => ([.out, .score, .ports, .fabric], [.fab, .topo, .score])
  | .linkReplayFailure _ => ([.out, .score, .ports, .cmds, .doneCtr, .fabric], [.fab, .topo, .score])
  | .laneFailure _ _ => ([.out, .score, .ports, .cmds, .doneCtr, .fabric], [.fab, .topo, .stock, .disc, .score])
  | .laneSwap _ => ([.out, .score, .ports, .cmds, .doneCtr, .fabric], [.fab, .topo, .score])
  | .laneRetrained _ _ => ([.out, .score, .ports, .fabric], [.fab, .topo, .score])
  | .linkTrained _ _ => ([.out, .score, .ports, .cmds, .doneCtr, .fabric], [.fab, .topo, .score])
  | .linkTrainingTimeout _ => ([.out, .score, .ports, .cmds, .doneCtr, .fabric], [.fab, .topo, .score])
  | .linkRetrain _ => ([.out, .score, .ports, .fabric], [.fab, .topo, .score])
  | .packetForward _ => ([.out, .fabric], [.fab])
  | .packetLifetimeExpiry _ => ([.fabric], [.fab])
  | .fabricRequestServe _ _ _ =>
    ([.mem, .out, .score, .ports, .cmds, .doneCtr, .allocs, .ranges, .windows, .wants, .remaps, .tlbs, .fabric, .areas, .hands, .kitty, .dealing,
    .badBanks, .slots, .badSince, .ringLanded], [.tier, .route, .serve, .fab, .stock, .load, .disc, .score])
  | .fabricAnswerReceive _ => ([.freeCtr, .cmds, .doneCtr, .moves, .descs, .fabric, .accounts, .launches, .rings], [.sched, .tier, .fab])
  | .fabricRetry _ => ([.fabric], [.fab])
  | .timeSend => ([.out, .fabric], [])
  | .timeReceive _ => ([.fabric, .mgmt], [.fab])
  | .helloReceive _ => ([.out, .score, .ports, .fabric, .topo], [.fab, .topo, .score])
  | .neighbourSilent _ => ([.out, .score, .ports], [.topo, .score])
  | .abortReceive _ =>
    ([.mem, .out, .score, .ports, .cmds, .doneCtr, .ctxs, .allocs, .ranges, .moves, .wants, .remaps, .tlbs, .faults, .descs, .fabric, .topo, .tiles,
    .routers, .areas, .hands, .kitty, .steps, .accounts, .launches, .rings, .slots, .switches], [.sched, .mmu, .tier, .move, .route, .serve, .fab,
    .topo, .load, .disc, .score])
  | .linkAdminDown _ => ([.out, .score, .ports, .cmds, .doneCtr, .fabric], [.fab, .topo, .score])
  | .linkAdminUp _ => ([.out, .score, .ports, .cmds, .doneCtr, .fabric], [.fab, .topo, .score])
  | .toStock _ => ([.out, .score, .ports, .cmds, .doneCtr, .fabric], [.fab, .topo, .score])
  | .fromStock _ => ([.cmds, .doneCtr, .fabric], [])
  | .topoQuery _ => ([.mem, .cmds, .doneCtr], [])
  | .partitionForm _ =>
    ([.mem, .cmds, .doneCtr, .allocs, .ranges, .remaps, .tlbs, .fabric, .topo, .entries, .treeNodes], [.tier, .serve, .fab, .topo, .pwr, .disc])
  | .partitionReshape _ =>
    ([.mem, .cmds, .doneCtr, .allocs, .ranges, .remaps, .tlbs, .fabric, .topo, .entries, .treeNodes], [.tier, .serve, .fab, .topo, .disc])
  | .jobAbort _ =>
    ([.mem, .out, .score, .ports, .cmds, .doneCtr, .ctxs, .allocs, .ranges, .moves, .wants, .remaps, .tlbs, .faults, .descs, .fabric, .topo, .tiles,
    .routers, .areas, .hands, .kitty, .steps, .accounts, .launches, .rings, .slots, .switches], [.sched, .mmu, .tier, .move, .route, .serve, .fab,
    .topo, .load, .disc, .score])
  | .jobRestart _ =>
    ([.mem, .cmds, .doneCtr, .ctxs, .allocs, .ranges, .remaps, .tlbs, .fabric, .topo, .areas, .entries, .treeNodes, .ringLanded], [.tier, .route,
    .serve, .fab, .topo, .pwr, .disc])
  | .stockDraw _ _ =>
    ([.out, .score, .ports, .cmds, .doneCtr, .units, .bankMap, .recordDue, .slots], [.tier, .mtx, .stock, .load, .pwr, .clk, .score])
  | .stockReturn _ _ => ([.out, .score, .ports, .cmds, .doneCtr, .units, .recordDue], [.tier, .mtx, .stock, .load, .pwr, .clk, .score])
  | .stockSelftest _ _ _ _ => ([.out, .score, .ports, .units, .recordDue, .selfNow], [.tier, .mtx, .stock, .load, .pwr, .clk, .score])
  | .shardIntake _ => ([.cmds, .doneCtr, .slots, .windowTurn], [.load])
  | .intakeWrite _ _ _ => ([.mem, .slots], [.hif, .load])
  | .digestComplete _ _ => ([.out, .score, .ports, .cmds, .doneCtr, .allocs, .slots, .recheck], [.load, .score])
  | .donorCopyComplete _ _ _ _ => ([.mem, .cmds, .doneCtr, .slots], [.load])
  | .shardTimerExpiry _ _ => ([.out, .score, .ports, .cmds, .doneCtr, .allocs, .slots, .recheck], [.load, .score])
  | .recheckShard => ([.out, .score, .ports, .slots, .recheck, .recheckAt], [.load, .score])
  | .shardVerify _ => ([.out, .score, .ports, .cmds, .doneCtr, .slots], [.load, .score])
  | .repairSwap _ => ([.mem, .fabric, .launches, .slots], [.tier, .fab, .load])
  | .repairWaitTimeout _ => ([.cmds, .doneCtr, .accounts, .launches, .rings], [.sched, .tier])
  | .modelStage _ => ([.freeCtr, .mem, .cmds, .doneCtr, .allocs, .slots], [.load])
  | .modelSwitch _ => ([.cmds, .doneCtr, .routers, .areas, .switches], [.route])
  | .modelSwitchCancel _ => ([.cmds, .doneCtr, .routers, .areas, .switches], [.route])
  | .modelRetire _ => ([.cmds, .doneCtr, .allocs, .variants, .slots, .recheck], [.serve, .load])
  | .capSet _ => ([.cmds, .doneCtr, .power], [.pwr])
  | .energyRead _ => ([.cmds, .doneCtr], [])
  | .phaseHint _ => ([.cmds, .doneCtr, .ctxs, .power], [.pwr])
  | .scoreRead _ => ([.mem, .score, .cmds, .doneCtr], [.score])
  | .scoreClear _ => ([.out, .score, .ports, .cmds, .doneCtr], [.score])
  | .readDataRead _ => ([.out, .score], [.hif, .score])
  | .scorebookFlush => ([.score], [.score])
  | .clockSelect _ => ([.out, .score, .ports, .cmds, .doneCtr, .fabric, .clkMoved], [.fab, .topo, .clk, .score])
  | .gateSet _ => ([.ports, .cmds, .doneCtr, .fabric], [.clk])
  | .attest _ _ => ([.mem, .cmds, .doneCtr, .sec], [.sec])
  | .fwStage _ => ([.cmds, .doneCtr, .sec], [.sec])
  | .fwStageFinal _ => ([.cmds, .doneCtr, .sec], [.sec])
  | .fwStageAbort _ => ([.cmds, .doneCtr, .sec], [.sec])
  | .fwActivate _ _ => ([.out, .score, .ports, .cmds, .doneCtr, .mgmt, .sec], [.score, .sec])
  | .svnCommit _ => ([.out, .score, .ports, .sec], [.score, .sec])
  | .authChallenge _ => ([.freeCtr, .cmds, .doneCtr, .sec], [])
  | .ownerEnrol _ _ => ([.out, .score, .ports, .cmds, .doneCtr, .sec], [.score, .sec])
  | .i3cAddressAssign _ => ([], [.mgmt])
  | .setEndpointId _ => ([.out, .mgmt], [.mgmt])
  | .getEndpointId => ([.out, .mgmt], [.mgmt])
  | .getMctpVersionSupport => ([.out, .mgmt], [.mgmt])
  | .getMessageTypeSupport => ([.out, .mgmt], [.mgmt])
  | .mctpMessageDrop => ([], [.mgmt])
  | .sbCommand _ _ => ([.out, .mgmt], [.cmd, .mgmt])
  | .sbHandover => ([.out, .score, .ports, .cmds, .nextCmd, .doneCtr, .mgmt, .sec], [.mgmt, .score, .sec])
  | .sbReply => ([.out, .cmds], [.mgmt])
  | .windowRead _ _ => ([.out, .score, .launches, .mgmt, .sec], Block.all)
  | .gettid => ([.out, .mgmt], [.mgmt])
  | .getpldmversion _ => ([.out, .mgmt], [.mgmt])
  | .getpldmtypes => ([.out, .mgmt], [.mgmt])
  | .getpldmcommands _ => ([.out, .mgmt], [.mgmt])
  | .getpdr _ => ([.out, .mgmt], [.mgmt])
  | .getpdrrepositoryinfo => ([.out, .mgmt], [.mgmt])
  | .getsensorreading _ => ([.out, .mgmt], [.mgmt])
  | .getstatesensorreadings _ => ([.out, .mgmt], [.mgmt])
  | .seteventreceiver _ => ([.out, .mgmt], [.mgmt])
  | .setnumericsensorenable _ _ => ([.out, .mgmt], [.mgmt])
  | .trainingSeenFromPartner _ => ([.out, .score, .ports, .fabric], [.fab, .topo, .score])
  | .sidebandWindowWrite _ _ => (allBut [.now, .freeCtr, .pending, .nextCmd, .units, .bankMap, .selfDue, .recordDue], Block.all)
  | .reportDataRead _ _ => ([.out, .sec], [.hif])
  | .nonceExpiry _ => ([.sec], [])
  | .bimonRestartComplete => ([.mgmt], [.mgmt])

end Sys2Proof.Machine
end

