-- ==== Sys2Proof/Certificates/Slice0/Obligations.lean ====
section
/-! DEFINITION. The statements of this row, for the provers: what each command does where it completes, what it changes, and what every
step keeps. -/

open Sys2Proof Sys2Proof.Machine

/-- Stepping a state runs the command at the front of its queue on the state with the queue's rest. -/
def Obligations.StepRunsTheFrontCommand : Prop :=
  ∀ (c : Instr) (s : State), step { s with pending := c :: s.pending } = exec c s

/-- On an empty queue a step passes one nanosecond and does nothing else. The model's own choice: log entry 6. -/
def Obligations.EmptyQueuePassesANanosecond : Prop :=
  ∀ s : State, s.pending = [] → ∃ t, step s = .next t ∧ t.now = s.now + 1 ∧ s.allRegs t ∧ s.sameParts t [.now]

/-- Every command answers a next state from every state, leaves the queue of waiting commands as it is, and changes no field of the
state and no register block but those that `mayChange` lists for it; where memory is not among them, no byte of it. -/
def Obligations.CommandsChangeOnlyTheirParts : Prop :=
  ∀ (i : Instr) (s : State), ∃ t, exec i s = .next t ∧ t.pending = s.pending ∧ s.sameParts t (mayChange i).1 ∧
    (∀ b ∈ Block.all, b ∉ (mayChange i).2 → ∀ f : Fld, f.blk = b.no → t.rd f = s.rd f) ∧
    (.mem ∉ (mayChange i).1 → s.sameMem t)

/-- Every step keeps memory and the register store in their one canonical form. -/
def Obligations.StepsKeepTheCanonicalForm : Prop :=
  ∀ s t : State, s.canonical → step s = .next t → t.canonical

/-- After reset memory lists nothing and every register holds its reset value, in canonical form, with no command waiting. Where the spec gives no reset
value it is the model's: log entries 3, 4 and 43. -/
def Obligations.ResetIsCanonical : Prop :=
  State.reset.canonical ∧ State.reset.bounded ∧ State.reset.pending = [] ∧ (∀ a, memByte State.reset.mem a = 0) ∧ ∀ f : Fld, State.reset.rd f = f.rst

/-- No step takes Amelo's hold beyond 4,096 replies or the scorebook's ring beyond 8,192 records (R361, R471). -/
def Obligations.StepsKeepTheHoldAndTheRingWithinTheirSizes : Prop :=
  ∀ s t : State, s.bounded → step s = .next t → t.bounded

/-- No step lowers an SVN floor, the signature reservation or the configuration record's counter (R454, R456, R463). -/
def Obligations.FlashCountersNeverFall : Prop :=
  ∀ s t : State, step s = .next t → s.flashRises t

/-- NOP completes at once; FENCE completes when no earlier command of its channel, or of its host with ALL_CHANNELS, is left, and
changes nothing before that (R365). The two ways to name the earlier commands of a host's channels follow Table 15-6. -/
def Obligations.NopEndsAtOnceAndFenceAfterEarlierCommands : Prop :=
  (∀ (s : State) (k : Nat) (c : Cmd), s.cmdAt k 0x00 = some c → checkNop s c = none →
    ∃ t, exec (.nop k) s = .next t ∧ s.onlyEnds t k stDone 0 0 0 0) ∧
  (∀ (s : State) (k : Nat) (c : Cmd), s.cmdAt k 0x01 = some c → checkFence s c = none → c.src < 2 →
    (∀ d ∈ s.cmds, d.id < c.id → d.src = c.src → d.chan ≠ c.chan ∧ bit (c.p 0) 0 = false) →
    ∃ t, exec (.fence k) s = .next t ∧ s.onlyEnds t k stDone 0 0 0 0) ∧
  (∀ (s : State) (k : Nat) (c d : Cmd), s.cmdAt k 0x01 = some c → checkFence s c = none → c.src < 2 →
    d ∈ s.cmds → d.id < c.id → d.src = c.src → (d.chan = c.chan ∨ bit (c.p 0) 0 = true) → exec (.fence k) s = .next s)

/-- SIGNAL stores VALUE, or adds it modulo 2⁶⁴ and returns the old value in OUT0, at the 8 bytes it names and nowhere else (R365): with
BUS in the sending host's memory while that host is ATTACHED, else at its context's address where the page is homed here. For a word homed on
another member a fabric request goes to that member under the command's name and the command runs on: a fetch-and-add of VALUE, a swap with
VALUE in a module's memory, and in a host's memory a load of the block, into which VALUE is merged. A fault that is not served ends the
command FAULTED (R288, R290). -/
def Obligations.SignalStoresOrAddsItsValue : Prop :=
  (∀ (s : State) (k : Nat) (c : Cmd), s.cmdAt k 0x02 = some c → checkSignal s c = none → bit (c.p 0) 1 = true → s.attached c.src = true →
    ∃ t, exec (.signal k) s = .next t ∧ t.ended k stDone 0 0 0 0 ∧ s.storedAt t (hostKey c.src (c.p 1)) 8 (c.p 2) ∧ s.allRegs t ∧
      s.sameParts t [.mem, .cmds, .doneCtr]) ∧
  (∀ (s : State) (k key leaf : Nat) (c : Cmd), s.cmdAt k 0x02 = some c → checkSignal s c = none → bit (c.p 0) 1 = false →
    s.access c.context (c.p 1) true (bit (c.p 0) 0) = .ok (.here key) leaf →
    ∃ t, exec (.signal k) s = .next t ∧
      t.ended k stDone 0 (if bit (c.p 0) 0 then s.load key 8 else 0) 0 0 ∧
      s.storedAt t key 8 (if bit (c.p 0) 0 then s.load key 8 + c.p 2 else c.p 2) ∧ s.allRegs t ∧ s.sameParts t [.mem, .cmds, .doneCtr]) ∧
  (∀ (s : State) (k chip host off leaf : Nat) (c : Cmd), s.cmdAt k 0x02 = some c → checkSignal s c = none → bit (c.p 0) 1 = false →
    s.access c.context (c.p 1) true (bit (c.p 0) 0) = .ok (.far chip host off) leaf → off % 8 = 0 →
    ∃ t, exec (.signal k) s = .next t ∧ t.runs k ∧ s.sameMem t ∧ ∃ q ∈ t.fabric.reqs, q.target = chip ∧ q.who.a = c.id ∧
      (bit (c.p 0) 0 = true → q.op = 0x15 ∧ q.offset = off ∧ q.data = leVals 8 (c.p 2) ++ List.replicate 56 0) ∧
      (bit (c.p 0) 0 = false → host = 0 → q.op = 0x13 ∧ q.offset = off ∧ q.data = leVals 8 (c.p 2) ++ List.replicate 56 0) ∧
      (bit (c.p 0) 0 = false → host ≠ 0 → q.op = 0x01 ∧ q.host = host ∧ q.offset = off / 64 * 64 ∧ q.data = off % 64 :: leVals 8 (c.p 2))) ∧
  (∀ (s : State) (k d : Nat) (c : Cmd), s.cmdAt k 0x02 = some c → checkSignal s c = none → bit (c.p 0) 1 = false →
    s.access c.context (c.p 1) true (bit (c.p 0) 0) = .bad d →
    ∃ t, exec (.signal k) s = .next t ∧ s.onlyEnds t k stFaulted d 0 0 0)

/-- TIMESTAMP returns the time base in OUT0 and Bimon's tick count in OUT1, and stores the time base as one 8-byte store where VA is not
zero and homed here (R365, Table 15-6). -/
def Obligations.TimestampReturnsAndStoresTheTimeBase : Prop :=
  (∀ (s : State) (k : Nat) (c : Cmd), s.cmdAt k 0x04 = some c → checkTimestamp s c = none → c.p 1 = 0 →
    ∃ t, exec (.timestamp k) s = .next t ∧ s.onlyEnds t k stDone 0 s.timeBase (s.rd MGMT.TICK.COUNT) 0) ∧
  (∀ (s : State) (k key leaf : Nat) (c : Cmd), s.cmdAt k 0x04 = some c → checkTimestamp s c = none → c.p 1 ≠ 0 →
    s.access c.context (c.p 1) true false = .ok (.here key) leaf → s.hasReqs c.origin.who = false →
    ∃ t, exec (.timestamp k) s = .next t ∧ t.ended k stDone 0 s.timeBase (s.rd MGMT.TICK.COUNT) 0 ∧ s.storedAt t key 8 s.timeBase ∧
      s.allRegs t ∧ s.sameParts t [.mem, .cmds, .doneCtr, .fabric, .tlbs, .freeCtr])

/-- WAIT reads its word when its unit takes it and WAIT_POLL reads it again: the command ends DONE with the word in OUT0 where the word
meets COND (unsigned at least, equal, different), and waits on where it does not; WAIT_TIMEOUT ends it TIMED_OUT once TIMEOUT_US has passed
since its acceptance, and does nothing before. The block of a word homed on another member is loaded from there, and the command waits on
(R366, Table 15-6). -/
def Obligations.WaitEndsWhenItsConditionHoldsOrItsTimeIsUp : Prop :=
  (∀ (s : State) (k key leaf : Nat) (c : Cmd), s.cmdAt k 0x03 = some c → checkWait s c = none →
    s.access c.context (c.p 1) false false = .ok (.here key) leaf →
    ∃ t, exec (.wait k) s = .next t ∧ s.sameMem t ∧ s.allRegs t ∧
      (waitMeets c (s.load key 8) → t.ended k stDone 0 (s.load key 8) 0 0) ∧
      (¬waitMeets c (s.load key 8) → t.runs k)) ∧
  (∀ (s : State) (k key leaf : Nat) (c : Cmd), s.waiting k = some c → bits (c.p 0) 0 2 < 3 →
    s.access c.context (c.p 1) false false = .ok (.here key) leaf →
    ∃ t, exec (.waitPoll k) s = .next t ∧ s.sameMem t ∧ s.allRegs t ∧
      (waitMeets c (s.load key 8) → t.ended k stDone 0 (s.load key 8) 0 0) ∧
      (¬waitMeets c (s.load key 8) → t.runs k)) ∧
  (∀ (s : State) (k chip host off leaf : Nat) (c : Cmd), s.cmdAt k 0x03 = some c → checkWait s c = none →
    s.access c.context (c.p 1) false false = .ok (.far chip host off) leaf →
    ∃ t, exec (.wait k) s = .next t ∧ t.runs k ∧ s.sameMem t ∧
      ∃ q ∈ t.fabric.reqs, q.op = 0x01 ∧ q.target = chip ∧ q.host = host ∧ q.offset = off / 64 * 64 ∧ q.who = ⟨1, c.id, 3, off % 64⟩) ∧
  (∀ (s : State) (k : Nat) (c : Cmd), s.waiting k = some c →
    (c.since + 1000 * c.p 3 ≤ s.now → ∃ t, exec (.waitTimeout k) s = .next t ∧ s.onlyEnds t k stTimedOut 0 0 0 0) ∧
    (s.now < c.since + 1000 * c.p 3 → exec (.waitTimeout k) s = .next s))

/-- A write, through a port that reaches register space, of 8, 16 or 32 naturally aligned bytes that does not reach byte 63 of its slot stores them in an enabled channel's window of
the writer's own host, in a slot that holds no committed packet, and changes nothing else. Any other write to the windows is discarded and
counted in CMD.STRAY.WRITES, which saturates (R347, R348). -/
def Obligations.WindowWritesStoreTheirBytesOrAreCountedStray : Prop :=
  (∀ (s : State) (src off : Nat) (data : List Nat), (data.length = 8 ∨ data.length = 16 ∨ data.length = 32) → off % data.length = 0 →
    off / 0x1000 < 128 → off / 0x1000 / 64 = src → s.reaches src = true → s.rd (CMD.CHAN_CTL.ENABLE (off / 0x1000)) = 1 →
    (∀ q ∈ (s.chan (off / 0x1000)).held, q % 64 ≠ off % 0x1000 / 64) → off % 64 + data.length ≠ 64 → (∀ b ∈ data, b < 256) →
    ∃ t, exec (.windowWrite src off data) s = .next t ∧
      (∀ i, (aFind (t.chan (off / 0x1000)).slots i).getD 0 =
        if off % 0x1000 ≤ i ∧ i < off % 0x1000 + data.length then data.getD (i - off % 0x1000) 0 else (aFind (s.chan (off / 0x1000)).slots i).getD 0) ∧
      (∀ c, c ≠ off / 0x1000 → t.chan c = s.chan c) ∧ s.allRegs t ∧ s.sameParts t [.chans]) ∧
  (∀ (s : State) (src off : Nat) (data : List Nat), s.reaches src = true →
    (¬(data.length = 8 ∨ data.length = 16 ∨ data.length = 32 ∨ data.length = 64) ∨ off % data.length ≠ 0 ∨ 128 ≤ off / 0x1000 ∨
      off / 0x1000 / 64 ≠ src ∨ s.rd (CMD.CHAN_CTL.ENABLE (off / 0x1000)) ≠ 1 ∨ ∃ q ∈ (s.chan (off / 0x1000)).held, q % 64 = off % 0x1000 / 64) →
    ∃ t, exec (.windowWrite src off data) s = .next t ∧ t.rd CMD.STRAY.WRITES = min (s.rd CMD.STRAY.WRITES + 1) 65535 ∧
      s.sameBut t [CMD.STRAY.WRITES] ∧ s.sameParts t [])

/-- A write that ends at byte 63 of its slot commits the slot's packet as it then stands (R351, R353). A packet whose SEQ_ECHO, reserved
bits or CRC are wrong is discarded, its slot zeroed and CMD.STATS.CRC_FAIL raised, and a CRC_FAIL reply goes to the error ring with EXPECT
unmoved; one in the wrong slot or 64 or more past EXPECT is discarded likewise with SEQ_GAP and EXPECT in DETAIL; any other is held. -/
def Obligations.CommitHoldsOrDiscardsThePacket : Prop :=
  ∀ (s : State) (src off : Nat) (data : List Nat), (data.length = 8 ∨ data.length = 16 ∨ data.length = 32 ∨ data.length = 64) →
    off % data.length = 0 → off / 0x1000 < 128 → off / 0x1000 / 64 = src → s.reaches src = true → s.rd (CMD.CHAN_CTL.ENABLE (off / 0x1000)) = 1 →
    (∀ q ∈ (s.chan (off / 0x1000)).held, q % 64 ≠ off % 0x1000 / 64) → off % 64 + data.length = 64 → (∀ b ∈ data, b < 256) →
    ∀ (c slot : Nat) (b : List Nat) (seq expect : Nat), c = off / 0x1000 → slot = off % 0x1000 / 64 → b = s.slotAfter c slot (off % 0x1000) data →
    seq = bits ((packetWords b).getD 0 0) 32 16 → expect = s.rd (CMD.CHAN_STATUS.EXPECT c) →
    ∃ t, exec (.commandCommit src off data) s = .next t ∧ t.rd (CMD.CHAN_STATUS.EXPECT c) = expect ∧
      (packetOk b = false →
        (t.chan c).slotBytes slot = List.replicate 64 0 ∧ (t.chan c).held = (s.chan c).held ∧
        t.rd CMD.STATS.CRC_FAIL = min (s.rd CMD.STATS.CRC_FAIL + 1) 65535 ∧
        (s.ringTakes (s.rd (CMD.CHAN_CTL.ERR_RING c)) → s.replied t (mkReply (s.rd (CMD.CHAN_CTL.ERR_RING c)) stCrcFail
          (bits ((packetWords b).getD 0 0) 0 8) (bits ((packetWords b).getD 0 0) 16 16) seq 0 c 0 0))) ∧
      (packetOk b = true → (seq % 64 ≠ slot ∨ 64 ≤ (seq + 65536 - expect) % 65536) →
        (t.chan c).slotBytes slot = List.replicate 64 0 ∧ (t.chan c).held = (s.chan c).held ∧
        t.rd CMD.STATS.SEQ_GAP = min (s.rd CMD.STATS.SEQ_GAP + 1) 65535 ∧
        (s.ringTakes (s.rd (CMD.CHAN_CTL.ERR_RING c)) → s.replied t (mkReply (s.rd (CMD.CHAN_CTL.ERR_RING c)) stSeqGap
          (bits ((packetWords b).getD 0 0) 0 8) (bits ((packetWords b).getD 0 0) 16 16) seq expect c 0 0))) ∧
      (packetOk b = true → seq % 64 = slot → (seq + 65536 - expect) % 65536 < 64 →
        (t.chan c).slotBytes slot = b ∧ (t.chan c).held = (s.chan c).held ++ [seq] ∧
        t.rd (CMD.CHAN_STATUS.HELD c) = ((s.chan c).held.length + 1) % 128 ∧ s.sameMem t)

/-- COMMAND_QUEUE moves the held packet at EXPECT into the channel's queue while that holds fewer than 64, advances EXPECT by one and
zeroes the slot; GAP_TIMER_EXPIRY writes one SEQ_GAP reply for the present EXPECT, once GAP_US has run with a later packet held, with the
earliest later SEQ in OUT1 (R353); CREDIT_WORD_WRITE stores EXPECT and the packets queued at CHAN_CREDIT once CREDIT_BATCH packets, or 1 µs,
have passed (R354). -/
def Obligations.HeldPacketsAreQueuedInOrderAndCredited : Prop :=
  (∀ (s : State) (c : Nat), s.rd (CMD.CHAN_STATUS.EXPECT c) ∈ (s.chan c).held → (s.chan c).queue.length < 64 →
    ∃ t, exec (.commandQueue c) s = .next t ∧
      (t.chan c).queue = (s.chan c).queue ++ [packetWords ((s.chan c).slotBytes (s.rd (CMD.CHAN_STATUS.EXPECT c) % 64))] ∧
      (t.chan c).held = (s.chan c).held.filter (fun q => q != s.rd (CMD.CHAN_STATUS.EXPECT c)) ∧
      (t.chan c).slotBytes (s.rd (CMD.CHAN_STATUS.EXPECT c) % 64) = List.replicate 64 0 ∧ (t.chan c).queued = (s.chan c).queued + 1 ∧
      t.rd (CMD.CHAN_STATUS.EXPECT c) = (s.rd (CMD.CHAN_STATUS.EXPECT c) + 1) % 65536 ∧
      t.rd CMD.STATS.QUEUED = min (s.rd CMD.STATS.QUEUED + 1) (2 ^ 32 - 1) ∧
      t.rd (CMD.CHAN_STATUS.QUEUED c) = (s.chan c).queue.length + 1 ∧ (∀ d, d ≠ c → t.chan d = s.chan d) ∧ s.sameParts t [.chans]) ∧
  (∀ (s : State) (c : Nat), (s.rd (CMD.CHAN_STATUS.EXPECT c) ∉ (s.chan c).held ∨ 64 ≤ (s.chan c).queue.length) → exec (.commandQueue c) s = .next s) ∧
  (∀ (s : State) (c since : Nat), (s.chan c).laterSince = some since → (s.chan c).held ≠ [] → s.rd (CMD.CHAN_STATUS.EXPECT c) ∉ (s.chan c).held →
    (s.chan c).gapSent = false → since + 1000 * s.rd (CMD.CHAN_CTL.GAP_US c) ≤ s.now →
    ∃ t, exec (.gapTimerExpiry c) s = .next t ∧ (t.chan c).gapSent = true ∧ (t.chan c).held = (s.chan c).held ∧
      t.rd (CMD.CHAN_STATUS.EXPECT c) = s.rd (CMD.CHAN_STATUS.EXPECT c) ∧ t.rd CMD.STATS.SEQ_GAP = min (s.rd CMD.STATS.SEQ_GAP + 1) 65535 ∧
      (s.ringTakes (s.rd (CMD.CHAN_CTL.ERR_RING c)) → s.replied t (mkReply (s.rd (CMD.CHAN_CTL.ERR_RING c)) stSeqGap 0 0xFFFF
        (s.rd (CMD.CHAN_STATUS.EXPECT c)) (s.rd (CMD.CHAN_STATUS.EXPECT c)) c (earliestHeld (s.rd (CMD.CHAN_STATUS.EXPECT c)) (s.chan c).held) 0)) ∧
      exec (.gapTimerExpiry c) t = .next t) ∧
  (∀ (s : State) (c : Nat), (s.chan c).unreported ≠ 0 →
    (max 1 (s.rd (CMD.CHAN_CTL.CREDIT_BATCH c)) ≤ (s.chan c).unreported ∨ (s.chan c).lastQueued + 1000 ≤ s.now) →
    ∃ t, exec (.creditWordWrite c) s = .next t ∧ (t.chan c).unreported = 0 ∧ s.allRegs t ∧ s.sameParts t [.mem, .chans] ∧
      (s.rd (CMD.CHAN_CREDIT.ADDR c) ≠ 0 → s.attached (c / 64) = true →
        s.storedAt t (hostKey (c / 64) (s.rd (CMD.CHAN_CREDIT.ADDR c) * 8)) 8 (s.rd (CMD.CHAN_STATUS.EXPECT c) + (s.chan c).queued % 2 ^ 32 * 2 ^ 32)) ∧
      ((s.rd (CMD.CHAN_CREDIT.ADDR c) = 0 ∨ s.attached (c / 64) = false) → s.sameMem t))

/-- A head that may be accepted, on a channel whose turn it is, leaves its queue and is in flight with the next acceptance number when its
reply ring is its host's and enabled, ended with the status of the first check of Table 15-2 that it fails, and not ended where every
check passes and it takes no authorisation. Where its reply ring is not its host's or not enabled it never comes into flight, and a
BAD_PARAM reply with DETAIL 0x0F02 goes to the channel's error ring (R355, R356).
Where the rules leave a reading open, it is the model's: log entry 17. -/
def Obligations.AcceptedCommandsComeIntoFlightOrAreRefused : Prop :=
  ∀ (s : State) (n : Nat) (c : Cmd), n < 128 → s.headOf n = some c → s.mgmt.amelo = true → s.mayAccept c = true → s.turnOf c = true →
    ∃ t, exec (.commandAccept n) s = .next t ∧ (t.chan n).queue = (s.chan n).queue.drop 1 ∧
      (c.ring / 128 = c.src → s.rd (CMD.RING_CTL.ENABLE c.ring) = 1 → c.needsAuth = false → (∀ d ∈ s.cmds, d.id ≠ s.nextCmd) →
        t.nextCmd = s.nextCmd + 1 ∧ (∃ d ∈ t.cmds, d.id = s.nextCmd ∧ d.words = c.words ∧ d.chan = n ∧ d.src = n / 64 ∧
          d.status = ((s.takeHead n).acceptBad c).map Prod.fst ∧ d.detail = (((s.takeHead n).acceptBad c).map Prod.snd).getD 0) ∧
        s.othersStand t s.nextCmd) ∧
      ((c.ring / 128 ≠ c.src ∨ s.rd (CMD.RING_CTL.ENABLE c.ring) ≠ 1) → t.cmds = s.cmds ∧ t.nextCmd = s.nextCmd ∧
        (c.signalAfter = false → s.ringTakes (s.rd (CMD.CHAN_CTL.ERR_RING n)) →
          s.replied t (mkReply (s.rd (CMD.CHAN_CTL.ERR_RING n)) stBadParam c.opcode c.context c.seq 0x0F02 n 0 0)))

/-- COMMAND_COMPLETE takes a command whose status is fixed out of flight when no earlier end of its ring waits (R358): its reply enters its
ring where the ring takes it, waits in the hold where the ring is full, and is dropped and counted where the ring is not enabled; a DONE or
ACCEPTED command without REPLY_REQ writes none. A reply of a lost host's command goes to a device ring as PARTNER_GONE with its status in
DETAIL, and to a ring in host memory not at all (R361, R362). -/
def Obligations.CompletionWritesTheReply : Prop :=
  ∀ (s : State) (k st : Nat) (c : Cmd), s.cmdOf k = some c → c.src < 2 → c.status = some st →
    (∀ d ∈ s.cmds, d.src ≠ 2 → d.status.isSome = true → d.needsReply = true → d.ring = c.ring → c.doneNo ≤ d.doneNo) → s.hold.length < 4096 →
    ∃ t, exec (.commandComplete k) s = .next t ∧ t.cmds = s.cmds.filter (fun d => d.id != k) ∧
      (c.gone = false → (¬(st = stDone ∨ st = stAccepted) ∨ c.replyReq = true) → c.signalAfter = false →
        (s.ringTakes c.ring → s.replied t (mkReply c.ring st c.opcode c.context c.seq c.detail c.out0 c.out1 c.out2)) ∧
        (s.rd (CMD.RING_CTL.ENABLE c.ring) = 1 → s.ringFull c.ring = true → s.sameMem t ∧
          t.hold = s.hold ++ [mkReply c.ring st c.opcode c.context c.seq c.detail c.out0 c.out1 c.out2] ∧ t.rd CMD.STRAY.HELD = s.hold.length + 1) ∧
        (s.rd (CMD.RING_CTL.ENABLE c.ring) ≠ 1 → s.sameMem t ∧ t.hold = s.hold ∧ t.rd CMD.STRAY.DROPPED = min (s.rd CMD.STRAY.DROPPED + 1) 65535)) ∧
      ((st = stDone ∨ st = stAccepted) → c.replyReq = false → c.signalAfter = false →
        s.sameMem t ∧ t.hold = s.hold ∧ ∀ r, t.rd (CMD.RING_TAIL.TAIL r) = s.rd (CMD.RING_TAIL.TAIL r)) ∧
      (c.gone = true → (¬(st = stDone ∨ st = stAccepted) ∨ c.replyReq = true) → c.signalAfter = false →
        (s.rd (CMD.RING_CTL.DEVICE c.ring) = 1 → s.attached c.src = false → s.ringFull c.ring = false →
          (s.rd (CMD.RING_CTL.ENABLE c.ring) = 1 → s.ringTakes c.ring) →
          s.replied t (mkReply c.ring stPartnerGone c.opcode c.context c.seq st c.out0 c.out1 c.out2)) ∧
        (s.rd (CMD.RING_CTL.DEVICE c.ring) ≠ 1 → s.sameMem t ∧ t.rd CMD.STRAY.DROPPED = min (s.rd CMD.STRAY.DROPPED + 1) 65535))

/-- With SIGNAL_AFTER set, a command's completion raises its channel's 64-bit CHAN_DONE count by one and stores the new count as one 8-byte
store at CMD.CHAN_SIGNAL in the channel host's memory, whatever its status (R359). -/
def Obligations.ChannelSignalFollowsTheReply : Prop :=
  ∀ (s : State) (k st : Nat) (c : Cmd), s.cmdOf k = some c → c.src < 2 → c.status = some st → c.signalAfter = true →
    (∀ d ∈ s.cmds, d.src ≠ 2 → d.status.isSome = true → d.needsReply = true → d.ring = c.ring → c.doneNo ≤ d.doneNo) → s.hold.length < 4096 →
    ∃ t, exec (.commandComplete k) s = .next t ∧ (t.chan c.chan).doneCount = ((s.chan c.chan).doneCount + 1) % 2 ^ 64 ∧
      t.rd (CMD.CHAN_STATUS.DONE_COUNT c.chan) = ((s.chan c.chan).doneCount + 1) % 2 ^ 32 ∧
      (s.rd (CMD.CHAN_SIGNAL.ADDR c.chan) ≠ 0 → s.attached (c.chan / 64) = true →
        t.load (hostKey (c.chan / 64) (s.rd (CMD.CHAN_SIGNAL.ADDR c.chan) * 8)) 8 = ((s.chan c.chan).doneCount + 1) % 2 ^ 64)

/-- REPLY_HOLD_DRAIN moves as many held replies of an enabled ring as it has room for into the ring, oldest first: their words stand in the
entries from the old tail on, where no shadow of the tail is kept, the tail advances by their number, and the shadow, where one is kept and the
host attached, holds the new tail; the replies left, of every ring, keep their order, and those left with their units enter the hold, which
stays within 4,096. Nothing is moved where the ring is not enabled, is full, or holds no reply back (R360, R361). -/
def Obligations.HeldRepliesEnterTheirRingInOrder : Prop :=
  (∀ (s : State) (r room : Nat), r < 256 → s.rd (CMD.RING_CTL.ENABLE r) = 1 → s.ringFull r = false → (∃ x ∈ s.hold, x.ring = r) → s.hold.length ≤ 4096 →
    room = s.ringSize r - (s.rd (CMD.RING_TAIL.TAIL r) + 2 ^ 32 - s.rd (CMD.RING_HEAD.HEAD r)) % 2 ^ 32 →
    ∃ t, exec (.replyHoldDrain r) s = .next t ∧ t.hold.length ≤ 4096 ∧
      t.rd (CMD.RING_TAIL.TAIL r) = (s.rd (CMD.RING_TAIL.TAIL r) + min room (s.hold.filter (fun x => x.ring == r)).length) % 2 ^ 32 ∧
      (t.hold ++ t.late).filter (fun x => x.ring == r) = (s.hold.filter (fun x => x.ring == r)).drop room ++ s.late.filter (fun x => x.ring == r) ∧
      (∀ q, q ≠ r → (t.hold ++ t.late).filter (fun x => x.ring == q) = (s.hold ++ s.late).filter (fun x => x.ring == q)) ∧
      (s.rd (CMD.RING_SHADOW.ADDR r) = 0 → ∀ i x, i < room → (s.hold.filter (fun x => x.ring == r))[i]? = some x →
        t.loadWords (s.ringKey r (s.rd (CMD.RING_TAIL.TAIL r) + i)) 4 = [x.w0 % 2 ^ 64, x.w1 % 2 ^ 64, x.w2 % 2 ^ 64, x.w3 % 2 ^ 64]) ∧
      (s.rd (CMD.RING_SHADOW.ADDR r) ≠ 0 → s.attached (r / 128) = true → 0 < room →
        t.load (hostKey (r / 128) (s.rd (CMD.RING_SHADOW.ADDR r) * 8)) 8 = t.rd (CMD.RING_TAIL.TAIL r)) ∧
      t.rd CMD.STRAY.HELD = t.hold.length % 2 ^ 13) ∧
  (∀ (s : State) (r : Nat), (s.rd (CMD.RING_CTL.ENABLE r) ≠ 1 ∨ s.ringFull r = true ∨ ∀ x ∈ s.hold, x.ring ≠ r) → exec (.replyHoldDrain r) s = .next s)

/-- A write of CHAN_CTL by the channel's own host, through a port that reaches register space, sets ENABLE, while that host is ATTACHED, with EXPECT at the SEQ_BASE written and the
slots zero; one that clears ENABLE, or sets RESET, discards every packet not yet accepted, and RESET sets EXPECT to SEQ_BASE. A GAP_US of 0
and an ERR_RING of the other host are ignored; a write from the other host is discarded and counted (R374, Table 15-12). -/
def Obligations.ChannelControlEnablesDisablesAndResets : Prop :=
  (∀ (s : State) (src c v : Nat), c < 128 → c / 64 = src → s.reaches src = true → s.attached src = true → bit v 0 = true → s.rd (CMD.CHAN_CTL.ENABLE c) ≠ 1 →
    ∃ t, exec (.channelEnable src c v) s = .next t ∧ t.rd (CMD.CHAN_CTL.ENABLE c) = 1 ∧ t.rd (CMD.CHAN_STATUS.EXPECT c) = bits v 16 16 ∧
      t.rd (CMD.CHAN_CTL.SEQ_BASE c) = bits v 16 16 ∧ t.rd (CMD.CHAN_CTL.CREDIT_BATCH c) = bits v 2 6 ∧
      t.rd (CMD.CHAN_CTL.GAP_US c) = (if bits v 32 16 = 0 then s.rd (CMD.CHAN_CTL.GAP_US c) else bits v 32 16) ∧
      t.rd (CMD.CHAN_CTL.ERR_RING c) = (if bits v 8 8 / 128 = src then bits v 8 8 else s.rd (CMD.CHAN_CTL.ERR_RING c)) ∧
      (t.chan c).slots = [] ∧ (t.chan c).held = [] ∧ (t.chan c).queue = [] ∧ (t.chan c).queued = 0 ∧ (∀ d, d ≠ c → t.chan d = s.chan d) ∧
      s.sameParts t [.chans]) ∧
  (∀ (s : State) (src c v : Nat), c < 128 → c / 64 = src → s.reaches src = true → bit v 0 = false → s.rd (CMD.CHAN_CTL.ENABLE c) = 1 →
    ∃ t, exec (.channelDisable src c v) s = .next t ∧ t.rd (CMD.CHAN_CTL.ENABLE c) = 0 ∧
      t.rd (CMD.CHAN_STATUS.EXPECT c) = (if bit v 1 then bits v 16 16 else s.rd (CMD.CHAN_STATUS.EXPECT c)) ∧
      (t.chan c).slots = [] ∧ (t.chan c).held = [] ∧ (t.chan c).queue = [] ∧ (∀ d, d ≠ c → t.chan d = s.chan d) ∧ s.sameParts t [.chans]) ∧
  (∀ (s : State) (src c v : Nat), c < 128 → c / 64 = src → s.reaches src = true → bit v 1 = true →
    ∃ t, exec (.channelReset src c v) s = .next t ∧ t.rd (CMD.CHAN_STATUS.EXPECT c) = bits v 16 16 ∧
      (t.chan c).slots = [] ∧ (t.chan c).held = [] ∧ (t.chan c).queue = [] ∧ (t.chan c).queued = 0 ∧ (∀ d, d ≠ c → t.chan d = s.chan d) ∧
      s.sameParts t [.chans]) ∧
  (∀ (s : State) (src c v : Nat), c < 128 → c / 64 ≠ src → s.reaches src = true → bit v 1 = true →
    ∃ t, exec (.channelReset src c v) s = .next t ∧ t.rd CMD.STRAY.WRITES = min (s.rd CMD.STRAY.WRITES + 1) 65535 ∧
      s.sameBut t [CMD.STRAY.WRITES] ∧ s.sameParts t [])

/-- A write of RING_CTL by the ring's own host, through a port that reaches register space, while ATTACHED enables the ring, but leaves ENABLE at 0 and applies the other fields where a
DEVICE ring does not lie wholly in HBM or SRAM (R360); one that clears ENABLE drops the replies held for the ring, counts them in
CMD.STRAY.DROPPED, and leaves other rings' replies in their order, those left with their units entering the hold as far as it has room
(R361). -/
def Obligations.RingControlEnablesAndDropsHeldReplies : Prop :=
  (∀ (s : State) (src r v : Nat), r < 256 → r / 128 = src → s.reaches src = true → s.attached src = true → bit v 6 = true → s.rd (CMD.RING_CTL.ENABLE r) ≠ 1 →
    ∃ t, exec (.ringEnable src r v) s = .next t ∧
      t.rd (CMD.RING_CTL.LOG2_SIZE r) = (if 6 ≤ bits v 0 5 ∧ bits v 0 5 ≤ 16 then bits v 0 5 else s.rd (CMD.RING_CTL.LOG2_SIZE r)) ∧
      t.rd (CMD.RING_CTL.DEVICE r) = bits v 5 1 ∧ t.rd (CMD.RING_CTL.VECTOR_EN r) = bits v 7 1 ∧ t.rd (CMD.RING_CTL.VECTOR r) = bits v 8 11 ∧
      t.rd (CMD.RING_CTL.ENABLE r) =
        (if bit v 5 = true ∧ inDevice (s.rd (CMD.RING_BASE.BASE r) * 32) (32 * t.ringSize r) = false then 0 else 1) ∧
      s.sameBut t [CMD.RING_CTL.LOG2_SIZE r, CMD.RING_CTL.DEVICE r, CMD.RING_CTL.VECTOR_EN r, CMD.RING_CTL.VECTOR r, CMD.RING_CTL.ENABLE r] ∧
      s.sameParts t []) ∧
  (∀ (s : State) (src r v : Nat), r < 256 → r / 128 = src → s.reaches src = true → bit v 6 = false → s.rd (CMD.RING_CTL.ENABLE r) = 1 →
    ∃ t, exec (.ringDisable src r v) s = .next t ∧ t.rd (CMD.RING_CTL.ENABLE r) = 0 ∧
      t.hold ++ t.late = s.hold.filter (fun x => x.ring != r) ++ s.late.filter (fun x => x.ring != r) ∧ (t.late ≠ [] → 4096 ≤ t.hold.length) ∧
      t.rd CMD.STRAY.DROPPED = min (s.rd CMD.STRAY.DROPPED + (s.hold.filter (fun x => x.ring == r)).length + (s.late.filter (fun x => x.ring == r)).length) 65535 ∧
      s.sameParts t [.hold, .late])

/-- CLASS_SET sets the class of its context; PREEMPT sets PREEMPTED, so that the context is suspended (RUN 3), and ends ACCEPTED without
WAIT_PAUSED, and every WAIT of the context that waits ends PREEMPTED; RESUME clears PREEMPTED, ends DONE with the old value in OUT0 and the
other two flags in OUT1, and lets the context's descriptors go on; those of the service queue are never halted (R264, R265, R266). ACCOUNT_READ returns engine time, energy in mJ and
tokens of the account that it names, of a context or with BY_TAG of a client tag; with CLEAR the account is swapped to zero, energy below 1
mJ staying, and without it stays; with VA its eight words are stored there, in the context's memory or with BY_TAG in that of the sending
host while it is ATTACHED (R267). -/
def Obligations.SchedulingCommandsActOnTheirContextsAndAccounts : Prop :=
  (∀ (s : State) (k : Nat) (c : Cmd), s.cmdAt k 0x70 = some c → checkClassSet s c = none →
    ∃ t, exec (.classSet k) s = .next t ∧ t.ended k stDone 0 0 0 0 ∧ t.rd (SCHED.CTX_STATE.CLASS c.context) = c.p 0 % 2 ∧
      s.sameBut t [SCHED.CTX_STATE.CLASS c.context] ∧ s.othersStand t k ∧ s.sameParts t [.cmds, .doneCtr]) ∧
  (∀ (s : State) (k : Nat) (c : Cmd), s.cmdAt k 0x71 = some c → checkClassSet s c = none → bit (c.p 0) 0 = false →
    (∀ d ∈ s.cmds, d.id = k → d = c) →
    ∃ t, exec (.preempt k) s = .next t ∧ t.ended k stAccepted 0 0 0 0 ∧ t.rd (SCHED.CTX_STATE.PREEMPTED c.context) = 1 ∧
      t.rd (SCHED.CTX_STATE.RUN c.context) = 3 ∧ s.sameMem t ∧
      (∀ d ∈ s.cmds, d.opcode = 0x03 → d.context = c.context → d.started = true → d.status = none → t.ended d.id stPreempted 0 0 0 0) ∧
      (∀ d ∈ t.descs, d.ctx = c.context → d.issued = true → d.queue ≠ 0 → d.halted = true)) ∧
  (∀ (s : State) (k : Nat) (c : Cmd), s.cmdAt k 0x72 = some c → checkResume s c = none →
    ∃ t, exec (.resume k) s = .next t ∧ t.rd (SCHED.CTX_STATE.PREEMPTED c.context) = 0 ∧ s.othersStand t k ∧
      t.ended k stDone 0 (s.rd (SCHED.CTX_STATE.PREEMPTED c.context))
        (s.rd (SCHED.CTX_STATE.PAUSED c.context) + 2 * s.rd (SCHED.CTX_STATE.FAULT c.context)) 0 ∧
      (∀ d ∈ t.descs, d.ctx = c.context → d.issued = true → d.queue ≠ 0 → d.halted = false) ∧
      s.sameBut t ([SCHED.CTX_STATE.PREEMPTED c.context, SCHED.CTX_STATE.RUN c.context, SCHED.CTX_STATE.LAUNCHES c.context,
        SCHED.CTX_STATE.PAUSED c.context] ++ (List.range 8).map SCHED.DIE_STATUS.TRUMP_WAITING) ∧
      s.sameParts t [.cmds, .doneCtr, .descs, .launches]) ∧
  (∀ (s : State) (k key : Nat) (c : Cmd), s.cmdAt k 0x73 = some c → checkAccountRead s c = none → c.p 1 = 0 → s.hasReqs c.origin.who = false →
    key = (if bit (c.p 0) 0 then 1024 + bits (c.p 0) 16 12 else c.context) →
    ∃ t, exec (.accountRead k) s = .next t ∧
      t.ended k stDone 0 (s.account key).engineNs ((s.account key).energyUj / 1000) (s.account key).tokens ∧
      (bit (c.p 0) 1 = true → (t.account key).words = [0, 0, 0, 0, 0, 0, 0, 0] ∧ (t.account key).energyUj = (s.account key).energyUj % 1000) ∧
      (bit (c.p 0) 1 = false → t.accounts = s.accounts) ∧ s.allRegs t ∧ s.othersStand t k ∧ s.sameParts t [.cmds, .doneCtr, .accounts, .fabric]) ∧
  (∀ (s : State) (k key at' leaf : Nat) (c : Cmd), s.cmdAt k 0x73 = some c → checkAccountRead s c = none → c.p 1 ≠ 0 →
    s.hasReqs c.origin.who = false → bit (c.p 0) 0 = false → s.access c.context (c.p 1) true false = .ok (.here at') leaf → key = c.context →
    (∀ w ∈ (s.account key).words, w < 2 ^ 64) →
    ∃ t, exec (.accountRead k) s = .next t ∧ t.loadWords at' 8 = (s.account key).words ∧
      t.ended k stDone 0 (s.account key).engineNs ((s.account key).energyUj / 1000) (s.account key).tokens ∧ s.allRegs t) ∧
  (∀ (s : State) (k key : Nat) (c : Cmd), s.cmdAt k 0x73 = some c → checkAccountRead s c = none → c.p 1 ≠ 0 → s.hasReqs c.origin.who = false →
    bit (c.p 0) 0 = true → s.attached c.src = true → key = 1024 + bits (c.p 0) 16 12 → (∀ w ∈ (s.account key).words, w < 2 ^ 64) →
    ∃ t, exec (.accountRead k) s = .next t ∧ t.loadWords (hostKey c.src (c.p 1)) 8 = (s.account key).words ∧
      t.ended k stDone 0 (s.account key).engineNs ((s.account key).energyUj / 1000) (s.account key).tokens ∧ s.allRegs t)

/-- CTX_CREATE makes the named context, or with 0xFFFF a FREE one, LIVE under the sending host with a 4 KiB root table: a run of frames of
HBM that nothing held, reading as zeros, which OUT1 returns beside the context in OUT0 (R262, R368).
Where the rules leave a reading open, it is the model's: log entry 22. -/
def Obligations.ContextsAreCreatedEmptyAndLive : Prop :=
  ∀ (s : State) (k n : Nat) (c : Cmd), s.cmdAt k 0x10 = some c → checkCtxCreate s c = none →
    n = (if c.context = 0xFFFF then s.freeCtx.getD 0 else c.context) → (s.allocRun (hbmRegions 0) 4096 4096 0 n).isSome = true →
    ∃ t root, exec (.ctxCreate k) s = .next t ∧ t.ended k stDone 0 n root 0 ∧ freeRun s.allocs (hbmRegions 0) root 4096 = true ∧
      t.allocs = ⟨root, 4096, 0, n⟩ :: s.allocs ∧ (∀ i < 4096, memByte t.mem (devKey root + i) = 0) ∧
      t.rd (MMU.CTX_ROOT.VALID n) = 1 ∧ t.rd (MMU.CTX_ROOT.ROOT n) = root / 4096 % 2 ^ 32 ∧ t.rd (SCHED.CTX_STATE.LIFE n) = 1 ∧
      t.rd (SCHED.CTX_STATE.OWNER n) = c.src % 2 ∧ t.rd (SCHED.CTX_STATE.CLASS n) = c.p 0 % 2 ∧ t.rd (SCHED.CTX_STATE.RUN n) = 0 ∧
      t.rd (SCHED.CTX_STATE.PREEMPTED n) = 0 ∧ (t.ctx n).slot = (if bit (c.p 0) 4 then none else some (bits (c.p 0) 1 3)) ∧
      (t.ctx n).job = s.rd TOPO.PARTITION.ID ∧ (t.ctx n).maxRedeals = 3 ∧ s.othersStand t k

/-- CTX_DESTROY of a context with nothing of it running makes it FREE: its root goes, and no range, program, router, area or variant of it
is left; while something of it runs, it ends BUSY_RETRY and nothing changes (R262). CTX_ADOPT makes an ORPHANED context LIVE under the
sending host (R385).
Where the rules leave a reading open, it is the model's: log entry 22. -/
def Obligations.ContextsAreDestroyedAndAdopted : Prop :=
  (∀ (s : State) (k : Nat) (c : Cmd), s.cmdAt k 0x11 = some c → checkCtxDestroy s c = none → s.ctxBusy c = false →
    ∃ t, exec (.ctxDestroy k) s = .next t ∧ t.ended k stDone 0 0 0 0 ∧ t.rd (SCHED.CTX_STATE.LIFE c.context) = 0 ∧
      t.rd (MMU.CTX_ROOT.VALID c.context) = 0 ∧ (∀ r ∈ t.ranges, r.ctx ≠ c.context) ∧ (∀ p ∈ t.programs, p.ctx ≠ c.context) ∧
      (∀ r ∈ t.routers, r.ctx ≠ c.context) ∧ (∀ a ∈ t.areas, a.ctx ≠ c.context) ∧ (∀ v ∈ t.variants, v.ctx ≠ c.context) ∧
      aFind t.ctxs c.context = none ∧ s.othersStand t k) ∧
  (∀ (s : State) (k : Nat) (c : Cmd), s.cmdAt k 0x11 = some c → checkCtxDestroy s c = none → s.ctxBusy c = true →
    ∃ t, exec (.ctxDestroy k) s = .next t ∧ s.onlyEnds t k stBusyRetry 0 0 0 0) ∧
  (∀ (s : State) (k : Nat) (c : Cmd), s.cmdAt k 0x18 = some c → checkCtxAdopt s c = none → bit (c.p 0) 0 = false →
    (s.ctx c.context).lostBy < 2 →
    ∃ t, exec (.ctxAdopt k) s = .next t ∧ t.ended k stDone 0 1 0 0 ∧ t.rd (SCHED.CTX_STATE.LIFE c.context) = 1 ∧
      t.rd (SCHED.CTX_STATE.OWNER c.context) = c.src % 2 ∧
      ((s.ctx c.context).lostBy ≠ c.src → t.rd (HIF.HOST_EVENTS.ADOPTED_AWAY (s.ctx c.context).lostBy) = 1) ∧
      (∀ e ∈ t.faults, e.ctx = c.context → e.isOpen = true → e.kind = 2 → e.toSend = [1]) ∧ s.sameMem t ∧ s.othersStand t k)

/-- SET_NUMERICS without a table to clear or copy sets its context's numerics settings, which no register and no other context's settings
share, and returns the table's bytes in OUT0 (R99). -/
def Obligations.NumericsSettingsAreTheContexts : Prop :=
  ∀ (s : State) (k : Nat) (c : Cmd), s.cmdAt k 0x33 = some c → checkSetNumerics s c = none → c.p 3 = 0 → bit (c.p 0) 15 = false →
    ∃ t, exec (.setNumerics k) s = .next t ∧ t.ended k stDone 0 (if bit (c.p 0) 14 then bits (c.p 2) 0 16 * bits (c.p 2) 16 16 else 0) 0 0 ∧
      t.ctx c.context = { s.ctx c.context with
        margin := bits (c.p 0) 0 2, satShift := bits (c.p 0) 4 4, zeroShift := bits (c.p 0) 8 4, maxRedeals := bits (c.p 0) 12 2,
        tableEn := bit (c.p 0) 14, tableVa := c.p 1, sites := bits (c.p 2) 0 16, siteStride := bits (c.p 2) 16 16 } ∧
      (∀ n, n ≠ c.context → t.ctx n = s.ctx n) ∧ s.allRegs t ∧ s.othersStand t k ∧ s.sameParts t [.cmds, .doneCtr, .ctxs]

/-- A leaf entry reads back every field it was made from, and a new home or STATE written into it changes no other field (Table 5-5). -/
def Obligations.LeafEntriesHoldTheirFields : Prop :=
  (∀ (w g p f pr : Bool) (st tier frame chip : Nat), st < 8 → tier < 8 → frame < 2 ^ 44 → frame % 2 ^ 16 = 0 → chip < 2 ^ 12 →
    ∀ l, l = mkLeaf w g p f pr st tier frame chip →
    l < 2 ^ 56 ∧ lfValid l = true ∧ lfWrite l = w ∧ lfGlobal l = g ∧ lfPin l = p ∧ lfFar l = f ∧ lfPromote l = pr ∧ lfState l = st ∧
      lfTier l = tier ∧ lfFrame l = frame ∧ lfChip l = chip) ∧
  (∀ l st : Nat, st < 8 → lfState (lfWithState l st) = st ∧ lfTier (lfWithState l st) = lfTier l ∧ lfFrame (lfWithState l st) = lfFrame l ∧
    lfChip (lfWithState l st) = lfChip l ∧ lfWrite (lfWithState l st) = lfWrite l ∧ lfGlobal (lfWithState l st) = lfGlobal l ∧
    lfPin (lfWithState l st) = lfPin l) ∧
  (∀ l tier chip frame : Nat, tier < 8 → chip < 2 ^ 12 → frame < 2 ^ 44 → frame % 2 ^ 16 = 0 →
    lfTier (lfWithHome l tier chip frame) = tier ∧ lfChip (lfWithHome l tier chip frame) = chip ∧ lfFrame (lfWithHome l tier chip frame) = frame ∧
    lfState (lfWithHome l tier chip frame) = lfState l ∧ lfWrite (lfWithHome l tier chip frame) = lfWrite l ∧
    lfGlobal (lfWithHome l tier chip frame) = lfGlobal l)

/-- MAP maps all of its pages, with the memory and the frames that mapping them one after the other gives, or with NO_RESOURCE none of them;
the entry of one 2 MiB page under tables that stand holds the flags and the home of the command, RESIDENT, or with ABSENT no home; UNMAP of
one 2 MiB page clears its entry and its translations, frees its frame, tells every other member where the page is GLOBAL, and waits while a
page is in TRANSIT; SET_HOME of one 2 MiB page rewrites its entry to the new home, RESIDENT, and copies nothing: it ends at once where no
other member is to know, and else tells every other member and runs until they have answered (R368). -/
def Obligations.MappingCommandsChangeTheEntriesOfTheirPages : Prop :=
  (∀ (s u : State) (k : Nat) (c : Cmd), s.cmdAt k 0x12 = some c → checkMap s c = none → mapPages c c.pages 0 s = some u →
    (bit (c.p 0) 3 = false ∨ u.pinsOk = true) →
    ∃ t o1, exec (.map k) s = .next t ∧ t.ended k stDone 0 c.pages o1 0 ∧ t.mem = u.mem ∧ t.allocs = u.allocs ∧ t.remaps = u.remaps ∧
      t.tlbs = u.tlbs) ∧
  (∀ (s : State) (k : Nat) (c : Cmd), s.cmdAt k 0x12 = some c → checkMap s c = none → mapPages c c.pages 0 s = none →
    ∃ t, exec (.map k) s = .next t ∧ s.onlyEnds t k stNoResource 0 0 0 0) ∧
  (∀ (s : State) (k t0 : Nat) (c : Cmd), s.cmdAt k 0x12 = some c → checkMap s c = none → c.pages = 1 → c.big = true → bit (c.p 0) 3 = false →
    bit (c.p 0) 7 = false → s.level0 c.context c.va = some t0 → s.remaps.length < 1048576 →
    ∃ t o1, exec (.map k) s = .next t ∧ t.ended k stDone 0 1 o1 0 ∧ s.storedAt t (devKey (t0 + 8 * bits c.va 21 9)) 8
      (if bit (c.p 0) 6 then mkLeaf (bit (c.p 0) 1) (bit (c.p 0) 2) false (bit (c.p 0) 4) (bit (c.p 0) 5) 2 0 0 0
        else mkLeaf (bit (c.p 0) 1) (bit (c.p 0) 2) false (bit (c.p 0) 4) (bit (c.p 0) 5) 0 c.tier (c.p 3 % 2 ^ 44) (s.homeChip (c.p 3)))) ∧
  (∀ (s : State) (k a leaf : Nat) (c : Cmd), s.cmdAt k 0x13 = some c → checkUnmap s c = none → s.anyTransit c = false → c.pages = 1 →
    s.walk c.context c.va = some (a, true, leaf) →
    ∃ t, exec (.unmap k) s = .next t ∧ t.ended k stDone 0 1 0 0 ∧ s.storedAt t (devKey a) 8 0 ∧
      (∀ x ∈ t.tlbs, ¬(x.ctx = c.context ∧ x.va = c.va)) ∧ (∀ x ∈ t.remaps, ¬(x.ctx = c.context ∧ x.va = c.va)) ∧
      (lfState leaf ≠ 2 → lfTier leaf < 2 → lfChip leaf = s.chip → ∀ x ∈ t.allocs, x.base ≠ lfFrame leaf) ∧
      (lfGlobal leaf = true → lfState leaf ≠ 2 → lfChip leaf = s.chip → ∀ x ∈ s.others, ∃ q ∈ t.fabric.reqs, q.op = 0x30 ∧ q.target = x)) ∧
  (∀ (s : State) (k : Nat) (c : Cmd), s.cmdAt k 0x13 = some c → checkUnmap s c = none → s.anyTransit c = true → exec (.unmap k) s = .next s) ∧
  (∀ (s : State) (k a old : Nat) (c : Cmd), s.cmdAt k 0x17 = some c → checkSetHome s c = none → s.anyTransit c = false → c.pages = 1 →
    s.walk c.context c.va = some (a, true, old) → (lfGlobal old = false ∨ s.others = []) → s.cmdRunning k = none →
    s.moves.any (fun m => m.cause == 1 && m.owner == k) = false →
    ∃ t, exec (.setHome k) s = .next t ∧ t.ended k stDone 0 1 0 0 ∧
      s.storedAt t (devKey a) 8 (lfWithState (lfWithHome old c.tier (s.homeChip (c.p 3)) (c.p 3 % 2 ^ 44)) 0)) ∧
  (∀ (s : State) (k a old : Nat) (c : Cmd), s.cmdAt k 0x17 = some c → checkSetHome s c = none → s.anyTransit c = false → c.pages = 1 →
    s.walk c.context c.va = some (a, true, old) → lfGlobal old = true → s.others ≠ [] → s.cmdRunning k = none →
    (lfState old = 2 ∨ lfChip old ≠ s.chip ∨ s.fwdRoom = true) →
    ∃ t, exec (.setHome k) s = .next t ∧ t.runs k ∧
      s.storedAt t (devKey a) 8 (lfWithState (lfWithHome old c.tier (s.homeChip (c.p 3)) (c.p 3 % 2 ^ 44)) 0) ∧
      (∃ m ∈ t.moves, m.cause = 1 ∧ m.owner = k ∧ m.phase = 5 ∧ m.await = s.others) ∧
      (∀ x ∈ s.others, ∃ q ∈ t.fabric.reqs, q.op = 0x30 ∧ q.target = x) ∧
      (lfState old ≠ 2 → lfChip old = s.chip → ∃ f ∈ t.fwds, f.frame = lfFrame old))

/-- PIN_WINDOW pins one window of PAGES 2 MiB pages on every die of its mask, at WINDOW_VA + n × PAGES × 2 MiB for die n, or with NO_RESOURCE
none, and returns the bytes pinned. Where a die lacks the frames, it waits while a page is moved out of the die's SRAM or a tile needs what
is there, and ends NO_RESOURCE where nothing will free a frame. UNPIN drops every window of its context on the dies named and returns the
bytes freed (R127). -/
def Obligations.WindowsArePinnedOnEveryNamedDieOrNone : Prop :=
  (∀ (s u : State) (k : Nat) (c : Cmd), s.cmdAt k 0x15 = some c → c.unpin = false → checkPinWindow s c = none → pinDies c (dies (c.p 0)) s = some u →
    (∀ d ∈ dies (c.p 0), s.windowFits d c.context c.pinPages = true) →
    ∃ t, exec (.pinWindow k) s = .next t ∧ t.ended k stDone 0 ((dies (c.p 0)).length * c.pinPages * 0x20_0000) (c.p 1) 0 ∧ t.mem = u.mem ∧
      (∀ w ∈ s.windows, w ∈ t.windows) ∧
      ∀ d ∈ dies (c.p 0), ∃ w ∈ t.windows, w.die = d ∧ w.ctx = c.context ∧ w.va = c.p 1 + d * c.pinPages * 0x20_0000 ∧ w.pages = c.pinPages) ∧
  (∀ (s : State) (k : Nat) (c : Cmd), s.cmdAt k 0x15 = some c → c.unpin = false → checkPinWindow s c = none → pinDies c (dies (c.p 0)) s = none →
    (∀ d ∈ dies (c.p 0), s.windowFits d c.context c.pinPages = true) →
    ∃ t, exec (.pinWindow k) s = .next t ∧ s.onlyEnds t k stNoResource 0 0 0 0) ∧
  (∀ (s : State) (k d : Nat) (c : Cmd), s.cmdAt k 0x15 = some c → c.unpin = false → checkPinWindow s c = none →
    (dies (c.p 0)).find? (fun e => !s.windowFits e c.context c.pinPages) = some d →
    (∀ u, s.makeRoom d = some u → exec (.pinWindow k) s = .next u) ∧
    (s.makeRoom d = none → (s.neededOn d).isEmpty = false → exec (.pinWindow k) s = .next s) ∧
    (s.makeRoom d = none → (s.neededOn d).isEmpty = true → ∃ t, exec (.pinWindow k) s = .next t ∧ s.onlyEnds t k stNoResource 0 0 0 0)) ∧
  (∀ (s : State) (k : Nat) (c : Cmd), s.cmdAt k 0x15 = some c → c.unpin = true → checkPinWindow s c = none →
    ∃ t, exec (.unpin k) s = .next t ∧
      t.ended k stDone 0 ((s.windows.filter (fun w => w.ctx == c.context && bit (c.p 0) w.die)).map (fun w => w.pages * 0x20_0000)).sum 0 0 ∧
      ∀ w ∈ t.windows, ¬(w.ctx = c.context ∧ bit (c.p 0) w.die = true))

/-- MIGRATE asks the tier engine for the move of its first page and waits, ends BUSY_RETRY where a page is in TRANSIT, and NO_RESOURCE where its
pinned pages find no place in SRAM; PAGE_MOVE_START takes a move asked for: its page's entry becomes TRANSIT and the movers get its
descriptors; PAGE_MOVE_COPY_DONE waits for these, then writes the new home, and a move of a page that no other member knows of is complete, its
old frame free, while that of a GLOBAL page is told to every other member, an old home of this module keeping a forwarding record;
MOVE_BROADCAST_COMPLETE completes such a move once every member has acknowledged it, and drops its record (R119, R121, R127, R368). -/
def Obligations.MovesOfPagesFollowTheirSequence : Prop :=
  (∀ (s : State) (k : Nat) (c : Cmd), s.cmdAt k 0x14 = some c → checkMigrate s c = none → s.anyTransit c = false →
    (c.tier = 0 → ∀ i ∈ c.pageList, ∀ l, s.leafOf c.context (c.pageVa i) c.big = some l → lfPin l = false) →
    ∃ t, exec (.migrate k) s = .next t ∧ t.runs k ∧ (∃ m ∈ t.wants, m.ctx = c.context ∧ m.va = c.va ∧ m.cause = 0) ∧ s.allRegs t ∧
      s.sameParts t [.cmds, .wants]) ∧
  (∀ (s : State) (k : Nat) (c : Cmd), s.cmdAt k 0x14 = some c → checkMigrate s c = none → c.tier ≠ 0 → s.anyTransit c = true →
    ∃ t, exec (.migrate k) s = .next t ∧ s.onlyEnds t k stBusyRetry 0 0 0 0) ∧
  (∀ (s : State) (k i l : Nat) (c : Cmd), s.cmdAt k 0x14 = some c → checkMigrate s c = none → c.tier = 0 → (∀ d < 8, 96 ≤ s.pinned d) →
    i ∈ c.pageList → s.leafOf c.context (c.pageVa i) c.big = some l → lfPin l = true → lfTier l ≠ 0 →
    ∃ t, exec (.migrate k) s = .next t ∧ s.onlyEnds t k stNoResource 0 0 0 0) ∧
  (∀ (s u : State) (i a leaf f : Nat) (w m : Move), s.wants[i]? = some w → w.cause = 2 → s.cacheReturn w.ctx w.va = none →
    s.walk w.ctx w.va = some (a, w.big, leaf) → lfState leaf = 0 → lfChip leaf < 0xF00 → s.member (lfChip leaf) = true →
    (lfGlobal leaf = true → s.fwdRoom = true) → w.tier = 1 → w.chip = s.chip → s.moveFrame w (lfPin leaf) = some (f, u) →
    u.walk w.ctx w.va = some (a, w.big, leaf) →
    m = { w with id := s.nextMove + 1, leaf := leaf, frame := f, phase := 3, before := s.fabric.nextReq } → s.serviceRoom (s.moveMovers m) = true →
    ∃ t, exec (.pageMoveStart i) s = .next t ∧ t.moves = s.moves ++ [m] ∧ t.nextMove = s.nextMove + 1 ∧
      u.storedAt t (devKey a) 8 (lfWithState leaf 1) ∧ (∃ d ∈ t.descs, d.queue = 0 ∧ d.owner = m.id) ∧
      (∀ x ∈ t.wants, ¬(x.ctx = w.ctx ∧ x.va = w.va ∧ x.cause = w.cause))) ∧
  (∀ (s : State) (i : Nat) (m : Move), s.moveOf i = some m → m.phase ≠ 5 → s.homeLost m.tier m.chip = false →
    s.homeLost (lfTier m.leaf) (lfChip m.leaf) = false → s.movePoisoned m = false →
    (s.moveBusy i = true → exec (.pageMoveCopyDone i) s = .next s) ∧
    (s.moveBusy i = false → ∃ t, exec (.pageMoveCopyDone i) s = .next t ∧ t.mem = (s.setLeaf m.ctx m.va m.newLeaf).mem ∧
      (m.cause = 2 → (lfGlobal m.leaf = false ∨ s.others = []) → (∀ x ∈ t.moves, x.id ≠ i) ∧
        t.rd TIER.MOVES.PAGES = min (s.rd TIER.MOVES.PAGES + 1) (2 ^ TIER.MOVES.PAGES.w - 1) ∧
        (lfTier m.leaf < 2 → lfChip m.leaf = s.chip → ∀ x ∈ t.allocs, x.base ≠ lfFrame m.leaf)) ∧
      (lfGlobal m.leaf = true → s.others ≠ [] → (∃ x ∈ t.moves, x.id = i ∧ x.phase = 5 ∧ x.await = s.others) ∧
        (∀ x ∈ s.others, ∃ q ∈ t.fabric.reqs, q.op = 0x30 ∧ q.target = x) ∧
        (lfChip m.leaf = s.chip → ∃ f ∈ t.fwds, f.move = i ∧ f.frame = lfFrame m.leaf ∧ f.chip = m.chip ∧ f.newFrame = m.frame)))) ∧
  (∀ (s : State) (i : Nat) (m : Move), s.moveOf i = some m → m.phase = 5 → m.await = [] → m.cause = 2 →
    ∃ t, exec (.moveBroadcastComplete i) s = .next t ∧ (∀ x ∈ t.moves, x.id ≠ i) ∧ (∀ x ∈ t.fwds, x.move ≠ i) ∧
      t.rd TIER.FWD.IN_USE = t.fwds.length % 2 ^ TIER.FWD.IN_USE.w ∧ s.sameMem t) ∧
  (∀ (s : State) (i : Nat) (m : Move), s.moveOf i = some m → m.phase = 5 → m.await ≠ [] → exec (.moveBroadcastComplete i) s = .next s)

/-- A move broadcast that this module receives in its epoch and in time drops every translation and far-read line of the old frame, and is
acknowledged to its sender with its tag (R122); a forwarding reply sends its request again to the home that it names, once, and a second one
leaves the request to wait for the move's broadcast, or, where the page's entry names another home by now, sends it there (R121); INVALIDATE drops every far-read line, or those of its range, and returns their
number (R294).
Where the rules leave a reading open, it is the model's: log entry 40. -/
def Obligations.MovedPagesAreForgottenAndFollowed : Prop :=
  (∀ (s : State) (i oldChip oldFrame size oldHost : Nat) (p : Packet), s.inboxAt i = some p → p.op = 0x30 → p.dest = s.chip →
    s.tooOld p = false → s.rd TOPO.PARTITION.STATE ≠ 0 → p.epoch = s.rd FAB.EPOCH.EPOCH → oldChip = leOf (p.data.take 8) →
    oldFrame = leOf ((p.data.drop 8).take 8) → size = leOf ((p.data.drop 32).take 8) → oldHost = leOf ((p.data.drop 40).take 8) →
    ∃ t, exec (.moveNoteReceive i) s = .next t ∧
      (∃ q ∈ t.fabric.inbox, q.op = 0x21 ∧ q.dest = p.src ∧ q.tag = p.tag ∧ q.port = 12) ∧
      (∀ x ∈ t.tlbs, ¬(lfChip x.leaf = oldChip ∧ hostOfTier (lfTier x.leaf) = oldHost ∧ oldFrame ≤ lfFrame x.leaf ∧ lfFrame x.leaf < oldFrame + size)) ∧
      (oldHost = 0 → ∀ x ∈ t.fabric.far, ¬(x.block / 2 ^ 44 = oldChip ∧ oldFrame ≤ x.block % 2 ^ 44 ∧ x.block % 2 ^ 44 < oldFrame + size))) ∧
  (∀ (s : State) (i : Nat) (p : Packet) (r : FabReq), s.inboxAt i = some p → p.op = 0x23 → p.dest = s.chip → s.tooOld p = false →
    p.epoch = s.rd FAB.EPOCH.EPOCH → s.answered p = some r →
    ∃ t, exec (.forwardReceive i) s = .next t ∧
      (r.forwarded = false → ∃ q ∈ t.fabric.reqs, q.target = leOf (p.data.take 2) ∧ q.offset = leOf ((p.data.drop 8).take 8) ∧
        q.forwarded = true ∧ q.op = r.op ∧ q.who = r.who ∧ q.data = r.data) ∧
      (r.forwarded = true → ∀ a big leaf, s.walk r.ctx r.va = some (a, big, leaf) →
        (lfChip leaf = r.target ∧ hostOfTier (lfTier leaf) = r.host ∧ lfFrame leaf ≤ r.offset ∧ r.offset < lfFrame leaf + pageSize big →
          ∃ q ∈ t.fabric.reqs, q.id = r.id ∧ q.awaitMove = true ∧ q.waiting = true) ∧
        (lfChip leaf ≠ r.target → ∃ q ∈ t.fabric.reqs, q.target = lfChip leaf ∧ q.host = hostOfTier (lfTier leaf) ∧
          q.offset = lfFrame leaf + r.offset % pageSize big ∧ q.forwarded = false ∧ q.op = r.op ∧ q.who = r.who))) ∧
  (∀ (s : State) (i : Nat) (p : Packet), s.inboxAt i = some p → p.op = 0x23 → p.dest = s.chip → s.tooOld p = false →
    p.epoch = s.rd FAB.EPOCH.EPOCH → s.answered p = none →
    ∃ t, exec (.forwardReceive i) s = .next t ∧ t.fabric.inbox = s.fabric.inbox.eraseIdx i ∧
      t.rd FAB.REQUESTS.DUP_ANSWERS = min (s.rd FAB.REQUESTS.DUP_ANSWERS + 1) (2 ^ FAB.REQUESTS.DUP_ANSWERS.w - 1)) ∧
  (∀ (s : State) (k : Nat) (c : Cmd), s.cmdAt k 0x16 = some c → checkInvalidate s c = none →
    ∃ t, exec (.invalidate k) s = .next t ∧ s.sameMem t ∧ s.othersStand t k ∧
      (bit (c.p 0) 0 = true → t.fabric.far = [] ∧ t.ended k stDone 0 s.fabric.far.length 0 0) ∧
      (bit (c.p 0) 0 = false → (∀ x ∈ t.fabric.far, s.blockIn c.context (c.p 1) (c.p 2) x.block = false) ∧
        t.ended k stDone 0 (s.fabric.far.filter (fun x => s.blockIn c.context (c.p 1) (c.p 2) x.block)).length 0 0))

/-- FAULT_RECORD_DELIVER writes an entry's next record at the tail of its owner's fault ring, where that is enabled, its host ATTACHED and the
ring not full, and advances the tail; FAULT_RESOLVE with ACTION 1, through a port that reaches register space or the side band, ends the requests of an open ABSENT entry FAULTED with 0x0502, and any
other write of it is ignored; an entry past its timeout ends them TIMED_OUT, or PARTNER_GONE where the context is ORPHANED (R132, R133). -/
def Obligations.FaultEntriesAreDeliveredAndClosed : Prop :=
  (∀ (s : State) (i h tail : Nat) (e : FaultEntry), s.faultToSend i = some e → h = s.rd (SCHED.CTX_STATE.OWNER e.ctx) →
    tail = s.rd (MMU.FAULT_RING_TAIL.TAIL h) → s.rd (SCHED.CTX_STATE.LIFE e.ctx) = 1 → s.attached h = true → s.rd (MMU.FAULT_RING_CTL.ENABLE h) = 1 →
    (tail + 2 ^ 32 - s.rd (MMU.FAULT_RING_HEAD.HEAD h)) % 2 ^ 32 ≠ 2 ^ s.rd (MMU.FAULT_RING_CTL.LOG2_SIZE h) → e.va < 2 ^ 64 → e.time < 2 ^ 64 →
    ∃ t, exec (.faultRecordDeliver i) s = .next t ∧
      t.loadWords (hostKey h (s.rd (MMU.FAULT_RING_BASE.BASE h) * 4096 + 32 * (tail % 2 ^ s.rd (MMU.FAULT_RING_CTL.LOG2_SIZE h)))) 4 =
        e.words (e.toSend.headD 0) ∧
      t.rd (MMU.FAULT_RING_TAIL.TAIL h) = (tail + 1) % 2 ^ 32 ∧ s.sameBut t [MMU.FAULT_RING_TAIL.TAIL h] ∧
      s.sameParts t [.mem, .faults, .out, .ports]) ∧
  (∀ (s : State) (src v : Nat) (e : FaultEntry), (src = 2 ∨ s.reaches src = true) → s.absentEntry (bits v 0 16) = some e → bit v 16 = true →
    ∃ t, exec (.faultResolve src v) s = .next t ∧ (∀ x ∈ t.faults, x.id = e.id → x.isOpen = false) ∧
      ∀ p ∈ e.parked, p.kind = 1 → s.runs p.a → t.ended p.a stFaulted 0x0502 0 0 0) ∧
  (∀ (s : State) (src v : Nat), (src = 2 ∨ s.reaches src = true) → (s.absentEntry (bits v 0 16) = none ∨ bit v 16 = false) → exec (.faultResolve src v) s = .next s) ∧
  (∀ (s : State) (i : Nat) (e : FaultEntry), s.absentEntry i = some e → e.time + 1_000_000 * e.timeout ≤ s.timeBase →
    ∃ t, exec (.faultTimeout i) s = .next t ∧ (∀ x ∈ t.faults, x.id = e.id → x.isOpen = false) ∧
      t.rd MMU.FAULT_COUNT.TIMED_OUT = min (s.rd MMU.FAULT_COUNT.TIMED_OUT + 1) (2 ^ MMU.FAULT_COUNT.TIMED_OUT.w - 1) ∧
      ∀ p ∈ e.parked, p.kind = 1 → s.runs p.a →
        t.ended p.a (if s.rd (SCHED.CTX_STATE.LIFE e.ctx) = 2 then stPartnerGone else stTimedOut) 0 0 0 0) ∧
  (∀ (s : State) (i : Nat) (e : FaultEntry), s.absentEntry i = some e → s.timeBase < e.time + 1_000_000 * e.timeout →
    exec (.faultTimeout i) s = .next s)

/-- A mover command's descriptor joins the end of the queue of its context's class on the mover picked, with the command waiting on it; while
that queue holds 64 the command stays where it is (R138, R143, R369). -/
def Obligations.MoverCommandsQueueTheirDescriptors : Prop :=
  ∀ (s : State) (k op : Nat) (i : Instr) (c : Cmd),
    (op, i) ∈ [(0, Instr.copy k), (1, .fill k), (2, .gather k), (3, .scatter k), (4, .reduce k), (5, .alltoall k)] →
    s.cmdAt k (0x20 + op) = some c → checkMover op s c = none →
    (s.queueLen (s.cmdMover c) (s.moverQueue c.context) < 64 →
      ∃ t, exec i s = .next t ∧ t.runs k ∧
        t.descs = s.descs ++ [({
          id := s.nextDesc, mover := s.cmdMover c, queue := s.moverQueue c.context, ctx := c.context,
          words := [c.p 0, c.p 1, c.p 2, c.p 3, c.p 4, c.p 5, 0, 0], issuer := 0, owner := k, die := s.cmdMover c / 4 } : Desc)] ∧
        s.othersStand t k ∧ s.sameParts t [.cmds, .descs, .nextDesc]) ∧
    (64 ≤ s.queueLen (s.cmdMover c) (s.moverQueue c.context) → exec i s = .next s)

/-- DESCRIPTOR_ISSUE takes the queue's next descriptor: one whose check fails ends BAD_PARAM with that DETAIL and moves no byte, any other but
an ALLTOALL of a program or a command is ready to issue its requests (R140). A FILL's request writes its pattern, and a COPY's request the bytes that its source held,
at the 4 KiB chunk it stands at, and counts them (R141, R147). A descriptor all of whose requests are complete leaves its queue, is counted,
stores its signal where it has one, and only then ends its command with the bytes written in OUT0: DONE, or the status it ended with (R146).
A read of a host's memory that passes its completion timeout is counted at the port, and its descriptor ends FAULTED with 0x0505 (R378). The errors that a read meets are taken
first (R129, R130). -/
def Obligations.DescriptorsWriteTheirChunksSignalAndEnd : Prop :=
  (∀ (s : State) (m q : Nat) (d : Desc), s.nextDescOf m q = some d → d.ended = none →
    ∃ t, exec (.descriptorIssue m q) s = .next t ∧
      (∀ det, s.descBad d = some det → (∃ x ∈ t.descs, x.id = d.id ∧ x.issued = true ∧ x.ended = some (stBadParam, det)) ∧ s.sameMem t) ∧
      (s.descBad d = none → (d.op ≠ 5 ∨ d.given = true) → (∃ x ∈ t.descs, x.id = d.id ∧ x.issued = true ∧ x.total = d.size) ∧ s.sameMem t)) ∧
  (∀ (s₀ s : State) (m key leaf : Nat) (d : Desc) (ce ue : List Nat), s = s₀.readErrors ce ue →
    m < 48 → (∀ q ∈ [0, 1, 2], s.liveNext m q = none) → [0, 1, 2].findSome? (s.newNext m) = some d →
    d.queue ≠ 0 → d.kept = false → d.op = 1 → d.convert = 0 → d.snap = [] → s.poisonFor (d.who d.next) = false → s.outFor (d.who d.next) = false →
    s.access d.ctx (d.dst + d.next) true false = .ok (.here key) leaf → cut (d.dst + d.next) (d.dst + d.next) (d.length - d.next) % 8 = 0 →
    ∃ t, exec (.moverRequestIssue m ce ue) s₀ = .next t ∧
      memBytes t.mem key (cut (d.dst + d.next) (d.dst + d.next) (d.length - d.next)) =
        toBytes ((List.range (cut (d.dst + d.next) (d.dst + d.next) (d.length - d.next) / 8)).flatMap (fun _ => leVals 8 (d.w 4))) ∧
      t.rd (MOVE.BYTES.BYTES m) = min (s.rd (MOVE.BYTES.BYTES m) + cut (d.dst + d.next) (d.dst + d.next) (d.length - d.next)) (2 ^ (MOVE.BYTES.BYTES m).w - 1)) ∧
  (∀ (s₀ s : State) (m src key leaf leaf' : Nat) (d : Desc) (ce ue : List Nat), s = s₀.readErrors ce ue →
    m < 48 → (∀ q ∈ [0, 1, 2], s.liveNext m q = none) →
    [0, 1, 2].findSome? (s.newNext m) = some d → d.queue ≠ 0 → d.kept = false → d.given = false → d.op = 0 → d.convert = 0 →
    d.snap = [] → s.poisonFor (d.who d.next) = false →
    s.outFor (d.who d.next) = false → s.access d.ctx (d.src + d.next) false false = .ok (.here src) leaf →
    s.access d.ctx (d.dst + d.next) true false = .ok (.here key) leaf' →
    ∃ t, exec (.moverRequestIssue m ce ue) s₀ = .next t ∧
      memBytes t.mem key (cut (d.src + d.next) (d.dst + d.next) (d.length - d.next)) =
        memBytes s.mem src (cut (d.src + d.next) (d.dst + d.next) (d.length - d.next)) ∧
      t.rd (MOVE.BYTES.BYTES m) = min (s.rd (MOVE.BYTES.BYTES m) + cut (d.src + d.next) (d.dst + d.next) (d.length - d.next)) (2 ^ (MOVE.BYTES.BYTES m).w - 1)) ∧
  (∀ (s : State) (i : Nat) (d : Desc),
    s.descs.find? (fun d => d.id == i && d.allOver) = some d →
    d.issuer = 0 → s.runs d.owner → (d.ended.isSome = true ∨ d.signalVa = 0) →
    ∃ t, exec (.descriptorComplete i) s = .next t ∧ (∀ x ∈ t.descs, x.id ≠ i) ∧
      t.ended d.owner ((d.ended.map Prod.fst).getD stDone) ((d.ended.map Prod.snd).getD 0) d.bytes 0 0 ∧
      t.rd MOVE.TOTAL.DESCRIPTORS = min (s.rd MOVE.TOTAL.DESCRIPTORS + 1) (2 ^ MOVE.TOTAL.DESCRIPTORS.w - 1) ∧ s.sameMem t) ∧
  (∀ (s : State) (i key leaf : Nat) (d : Desc),
    s.descs.find? (fun d => d.id == i && d.allOver) = some d →
    d.issuer = 0 → s.runs d.owner → d.ended = none → d.signalVa ≠ 0 → d.signalVa % 8 = 0 → d.signalled = false →
    s.access d.ctx d.signalVa true false = .ok (.here key) leaf → s.outFor (d.who Desc.signalNo) = false →
    s.parkedFor (d.who Desc.signalNo) = false →
    ∃ t, exec (.descriptorComplete i) s = .next t ∧ (∀ x ∈ t.descs, x.id ≠ i) ∧ t.ended d.owner stDone 0 d.bytes 0 0 ∧
      s.storedAt t key 8 (d.w 7)) ∧
  (∀ (s : State) (i a n leaf e : Nat) (big : Bool) (d : Desc),
    s.descs.find? (fun d => d.id == i && d.issued && d.ended.isNone && decide (d.next < d.total)) = some d → d.mover < 48 →
    d.queue ≠ 0 → (d.req d.next (if d.op = 2 then (s.indexNow d d.next).getD 0 else 0)).read = some (a, n) → s.walk d.ctx a = some (e, big, leaf) → lfState leaf = 0 → (lfTier leaf = 2 ∨ lfTier leaf = 3) →
    lfChip leaf = s.chip →
    ∃ t, exec (.hostReadTimeout i) s = .next t ∧ (∃ x ∈ t.descs, x.id = i ∧ x.ended = some (stFaulted, 0x0505)) ∧
      t.rd (HIF.ERRORS.CPL_TIMEOUT (lfTier leaf - 2)) =
        min (s.rd (HIF.ERRORS.CPL_TIMEOUT (lfTier leaf - 2)) + 1) (2 ^ (HIF.ERRORS.CPL_TIMEOUT (lfTier leaf - 2)).w - 1) ∧ s.sameMem t)

/-- LAUNCH_LAYER, LAUNCH_KERNEL and LAUNCH_LOOP enter a launch of their program, with the next launch number, their context's class and one
part for each die, not ready and not started, and run until it completes (R253, R370).
Where the rules leave a reading open, it is the model's: log entry 21. -/
def Obligations.LaunchCommandsEnterALaunchThatWaits : Prop :=
  ∀ (s : State) (k kind op : Nat) (i : Instr) (c : Cmd) (p : Program),
    (kind, op, i) ∈ [(0, 0x30, Instr.launchLayer k), (1, 0x31, Instr.launchKernel k), (2, 0x32, Instr.launchLoop k)] →
    s.cmdAt k op = some c → checkLaunch kind s c = none → s.program c.context c.handle = some p →
    ∃ t, exec i s = .next t ∧ t.runs k ∧ t.nextLaunch = s.nextLaunch + 1 ∧ s.sameMem t ∧ s.othersStand t k ∧
      (∃ l, t.launches = s.launches ++ [l] ∧ l.id = s.nextLaunch ∧ l.ctx = c.context ∧ l.kind = kind ∧ l.cmd = some k ∧ l.program = c.handle ∧
        l.image = p.image ∧ l.cls = s.rd (SCHED.CTX_STATE.CLASS c.context) ∧ l.argsVa = c.p 1 ∧ l.shapeVa = c.p 2 ∧ l.maxRows = c.p 3 ∧
        l.ready = false ∧ l.taken = false ∧ l.ended = none ∧ l.parts = (s.launchDies c).map (fun d => ({ die := d, head := kind == 2 } : DiePart))) ∧
      s.sameBut t [SCHED.CTX_STATE.RUN c.context, SCHED.CTX_STATE.LAUNCHES c.context, SCHED.CTX_STATE.PAUSED c.context] ∧
      s.sameParts t [.cmds, .launches, .nextLaunch]

/-- LOAD_PROGRAM copies a valid image into the store under the lowest free handle, which OUT0 returns with the image's length in OUT1, and
ends BAD_PARAM with DETAIL 0x0F42 on an invalid one; with UNLOAD it drops its context's program of the handle that it names (R371).
Where the rules leave a reading open, it is the model's: log entry 21. -/
def Obligations.ProgramsAreStoredUnderTheirHandles : Prop :=
  (∀ (s u : State) (k h : Nat) (c : Cmd) (img : List Nat), s.cmdAt k 0x34 = some c → bit (c.p 0) 0 = false → checkLoadProgram s c = none →
    s.fetch c.origin c.context (c.p 1) (c.p 2) = .bytes img u → imageOk img = true → h < 4096 → (∀ q ∈ s.programs, q.handle ≠ h + 1) →
    (∀ j < h, ∃ q ∈ s.programs, q.handle = j + 1) → s.storeUsed + img.length ≤ 268_435_456 →
    ∃ t, exec (.loadProgram k) s = .next t ∧ t.ended k stDone 0 (h + 1) img.length 0 ∧ s.allRegs t ∧ s.othersStand t k ∧
      t.programs = s.programs ++ [⟨h + 1, c.context, imageKind img, imageDies img, imageArgs img, img⟩] ∧
      s.sameParts t [.cmds, .doneCtr, .programs, .fabric, .tlbs, .freeCtr]) ∧
  (∀ (s u : State) (k : Nat) (c : Cmd) (img : List Nat), s.cmdAt k 0x34 = some c → bit (c.p 0) 0 = false → checkLoadProgram s c = none →
    s.fetch c.origin c.context (c.p 1) (c.p 2) = .bytes img u → imageOk img = false →
    ∃ t, exec (.loadProgram k) s = .next t ∧ t.ended k stBadParam 0x0F42 0 0 0 ∧ s.allRegs t ∧ s.othersStand t k ∧
      s.sameParts t [.cmds, .doneCtr, .tlbs, .freeCtr]) ∧
  (∀ (s : State) (k : Nat) (c : Cmd), s.cmdAt k 0x34 = some c → bit (c.p 0) 0 = true → checkLoadProgram s c = none →
    ∃ t, exec (.unloadProgram k) s = .next t ∧ t.ended k stDone 0 0 0 0 ∧ t.program c.context c.handle = none ∧
      (∀ p ∈ s.programs, p.ctx ≠ c.context ∨ p.handle ≠ c.handle → p ∈ t.programs) ∧ s.allRegs t ∧ s.othersStand t k ∧
      s.sameParts t [.cmds, .doneCtr, .programs])

/-- LAUNCH_READY lets a launch of no shape word that its context's mode takes and no earlier one holds back take its class, slot and row count, and puts it at the end
of its class's ring on each of its dies (R253, R256). DIE_HOLDER_CHANGE gives a free die to the head of the trump ring, else of the plain
ring, and takes a part that has run to its end off its die (R255, R377). SLICE_EXPIRY has a holder whose slice is over give way when
another launch of its class is ready, and does nothing before (R256).
Where the rules leave a reading open, it is the model's: log entry 21. -/
def Obligations.LaunchesJoinTheirRingsAndHoldTheirDies : Prop :=
  (∀ (s : State) (i cls : Nat) (l : Launch), s.launch i = some l → l.ready = false → l.ended = none → s.suspended l.ctx = false →
    s.rd TOPO.PARTITION.STATE ≠ 3 → s.launchBehind l = false → l.taken = false → l.shapeVa = 0 → s.shapeBad l = none →
    (∀ e ∈ s.launches, e.readyAt ≠ s.now + 1) → cls = s.rd (SCHED.CTX_STATE.CLASS l.ctx) → (l.parts.map DiePart.die).Nodup →
    ∃ t l', exec (.launchReady i) s = .next t ∧ t.launch i = some l' ∧ l'.ready = true ∧ l'.taken = true ∧ l'.rows = l.maxRows ∧ l'.cls = cls ∧
      l'.slot = (if l.kind = 3 then l.slot else (s.ctx l.ctx).slot) ∧
      (∀ p ∈ l.parts, p.phase = 0 → t.ringOf p.die cls = s.ringOf p.die cls ++ [i]) ∧ s.sameMem t ∧ t.cmds = s.cmds) ∧
  (∀ (s : State) (d i cls : Nat) (l : Launch), d < 8 → s.holder d = none →
    cls = 0 ∧ (s.readyIn d 0).head? = some i ∨ cls = 1 ∧ s.readyIn d 0 = [] ∧ (s.readyIn d 1).head? = some i →
    s.launch i = some l → (∃ p ∈ l.parts, p.die = d) → (∀ x ∈ s.launches, x.ctx < 1024) →
    ∃ t l', exec (.dieHolderChange d) s = .next t ∧ t.launch i = some l' ∧ l'.parts = l.parts.map (fun q => if q.die = d then
        { q with
          phase := 2, heldSince := s.now, sliceEnd := s.now + 1000 * s.rd SCHED.CLASS_CTL.SLICE_US, yielding := false, paused := false,
          askedAt := 0 } else q) ∧
      i ∉ t.ringOf d cls ∧ t.rd (SCHED.DIE_STATUS.CONTEXT d) = l.ctx ∧ t.rd (SCHED.DIE_STATUS.CLASS d) = cls ∧
      t.rd (SCHED.DIE_STATUS.IDLE d) = 0 ∧ t.rd (SCHED.DIE_STATUS.TRUMP_WAITING d) = 0 ∧ s.sameMem t) ∧
  (∀ (s : State) (d : Nat) (l : Launch) (p : DiePart), d < 8 → s.holder d = some l → l.part d = some p → s.tilesOn l.id d = false →
    s.partDone l p = true → l.id ∉ s.ringOf d 0 → l.id ∉ s.ringOf d 1 →
    ∃ t, exec (.dieHolderChange d) s = .next t ∧ s.sameMem t ∧ ∀ x ∈ t.launches, x.id = l.id → ∀ q ∈ x.parts, q.die = d → q.phase = 3) ∧
  (∀ (s : State) (d : Nat) (l : Launch) (p : DiePart), s.holder d = some l → l.part d = some p → s.readyIn d l.cls ≠ [] →
    p.sliceEnd ≤ s.now → p.yielding = false →
    ∃ t, exec (.sliceExpiry d) s = .next t ∧ (∀ x ∈ t.launches, x.id = l.id → ∀ q ∈ x.parts, q.die = d → q.yielding = true) ∧
      s.sameBut t ((List.range 8).map SCHED.DIE_STATUS.TRUMP_WAITING) ∧ s.sameParts t [.launches]) ∧
  (∀ (s : State) (d : Nat) (l : Launch) (p : DiePart), s.holder d = some l → l.part d = some p →
    (s.readyIn d l.cls = [] ∨ s.now < p.sliceEnd ∨ p.yielding = true) → exec (.sliceExpiry d) s = .next s)

/-- PROGRAM_RECORD_START starts a part's next record: a tile record of a launch without a shape word waits to be dispatched, and an END
record ends the part (R375, R377). LOOP_HEAD reads the trip word afresh: the iteration runs while the count is below it and below MAX_TRIPS,
else the part ends (R180). LAUNCH_COMPLETE ends a launch's command with its tiles, core ns and rows once every part is done (R370).
The errors that a read meets are taken first (R129, R130).
Where the rules leave a reading open, it is the model's: log entry 21. -/
def Obligations.ProgramsRunRecordByRecordToTheirEnd : Prop :=
  (∀ (s₀ s u : State) (d i : Nat) (w : List Nat) (pd : Bool) (l : Launch) (p : DiePart) (ce ue : List Nat), s = s₀.readErrors ce ue →
    s.running d = some (l, p) → l.kind = 1 ∨ l.kind = 2 →
    p.atEnd = false → p.head = false → p.tile = [] → nextRec l.image p.next d = some i → s.recordBody l i d = .ok w pd u →
    ∃ t, exec (.programRecordStart ⟨d, ce, ue⟩) s₀ = .next t ∧ s.sameMem t ∧ (recType l.image i = 1 → tileFault w = none → l.shapeVa = 0 →
        u.allRegs t ∧ u.sameParts t [.launches] ∧ ∀ x ∈ t.launches, x.id = l.id → ∀ q ∈ x.parts, q.die = d → q.tile = w ∧ q.next = i + 1) ∧
      (recType l.image i = 4 → controlOk w = true → cOp w = 4 →
        u.allRegs t ∧ u.sameParts t [.launches] ∧ ∀ x ∈ t.launches, x.id = l.id → ∀ q ∈ x.parts, q.die = d → q.atEnd = true ∧ q.next = imageCount l.image)) ∧
  (∀ (s u : State) (d : Nat) (b : List Nat) (l : Launch) (p : DiePart), s.running d = some (l, p) → l.kind = 2 → p.head = true → p.atEnd = false →
    s.fetch (s.launchOrigin l (64 + d) d 0) l.ctx l.tripVa 8 = .bytes b u →
    ∃ t, exec (.loopHead l.id d) s = .next t ∧ s.sameMem t ∧ (∀ x ∈ t.launches, x.id = l.id → ∀ q ∈ x.parts, q.die = d →
        (p.iter < leOf b % 2 ^ 32 ∧ p.iter < l.maxTrips → q.head = false ∧ q.next = 0) ∧
        (leOf b % 2 ^ 32 ≤ p.iter ∨ l.maxTrips ≤ p.iter → q.atEnd = true)) ∧
      u.sameBut t [ROUTE.SHAPE.LOOP_MAX] ∧ u.sameParts t [.launches, .fabric]) ∧
  (∀ (s : State) (i k : Nat) (l : Launch) (c : Cmd), s.launch i = some l → l.ended = none → l.taken = true → (∀ p ∈ l.parts, p.phase = 3) →
    l.routePhase = 0 ∨ l.routePhase = 3 → l.kind ≠ 3 → l.cmd = some k → s.cmdRunning k = some c →
    ∃ t, exec (.launchComplete i) s = .next t ∧ t.ended k (s.launchStatus l).1 (s.launchStatus l).2 l.tiles l.coreNs l.rows ∧
      s.othersStand t k ∧ (∀ x ∈ t.launches, x.id ≠ i) ∧ (∀ x ∈ s.launches, x.id ≠ i → x ∈ t.launches) ∧ (l.emax = [] → s.sameMem t))

/-- TILE_START puts the part's next tile on a core that may take it, once every page it names is in this module's SRAM (R49, R118).
TILE_VERDICT without a misdeal or a redeal writes the tile's results, takes it off its core and counts it for its launch (R49, R93); an
array whose checksums disagree where it is not armed is counted, recorded with 0x0101 and armed (R63, R64). ARMING_EXPIRY disarms an array whose
window is past (R64), and MTX_INJECT marks an array of an ACTIVE core while injection is enabled (R75).
The errors that a read meets are taken first (R129, R130).
Where the rules leave a reading open, it is the model's: log entry 20. -/
def Obligations.TilesAreStartedAcceptedAndChecked : Prop :=
  (∀ (s₀ s : State) (d core : Nat) (l : Launch) (p : DiePart) (ce ue : List Nat), s = s₀.readErrors ce ue →
    s.tiles.find? (fun t => t.die == d && t.onCore == 34) = none →
    s.running d = some (l, p) → p.tile ≠ [] → s.coreTakes d core l.id = true → s.imageHere l d 0 = true → s.tileMisses l.ctx p.tile = none →
    ∃ t x, exec (.tileStart d ⟨core, ce, ue⟩) s₀ = .next t ∧ t.tiles = s.tiles ++ [x] ∧ x.id = s.nextTile ∧ x.die = d ∧ x.core = core ∧ x.onCore = core ∧
      x.launch = l.id ∧ x.words = p.tile ∧ x.since = s.now ∧ x.redeals = 0 ∧ t.nextTile = s.nextTile + 1 ∧
      (∀ y ∈ t.launches, y.id = l.id → ∀ q ∈ y.parts, q.die = d → q.tile = []) ∧ s.allRegs t ∧ s.sameParts t [.tiles, .nextTile, .launches]) ∧
  (∀ (s v u : State) (i h : Nat) (l : Launch) (x : Tile) (crossed : Bool), s.tiles.find? (fun t => t.id == i) = some x → x.onCore ≠ 34 →
    (s.tiles.takeWhile (fun y => y.id != i)).any (fun y => y.die == x.die && y.onCore == x.onCore) = false → s.launch x.launch = some l →
    l.ended = none → s.misdealt l x [] = [] → v = s.nanCount l x → v.redealOf l.ctx x = (crossed, h, false) →
    v.putAll (v.launchOrigin l (64 + x.die) x.die 0) l.ctx (v.resultWrites l.ctx x.words (if x.redeals = 0 then none else some x.lastH)) = .ok u →
    ∃ t l', exec (.tileVerdict i [] 0) s = .next t ∧ (∀ y ∈ t.tiles, y.id ≠ i) ∧ (∀ y ∈ s.tiles, y.id ≠ i → y ∈ t.tiles) ∧ t.launch l.id = some l' ∧
      l'.tiles = l.tiles + 1 ∧ l'.coreNs = l.coreNs + (s.now - x.since) ∧ t.mem = u.mem) ∧
  (∀ (s : State) (i a : Nat) (l : Launch) (x : Tile), s.tiles.find? (fun t => t.id == i) = some x → x.onCore < 34 → x.die < 8 → a < 4 →
    (s.tiles.takeWhile (fun y => y.id != i)).any (fun y => y.die == x.die && y.onCore == x.onCore) = false → s.launch x.launch = some l →
    l.ended = none → s.injects = [] → x.shares = [] → x.bad = [] → s.misdealt l x [4 * x.onCore + a] = [(a, x.onCore, a)] → s.armed x.die x.onCore a = false →
    ∃ t, exec (.tileVerdict i [4 * x.onCore + a] 0) s = .next t ∧ aFind t.arming (arrayKey x.die x.onCore a) = some s.timeBase ∧
      t.rd MTX.MISDEAL_TOTAL.MISDEALS = min (s.rd MTX.MISDEAL_TOTAL.MISDEALS + 1) (2 ^ 32 - 1) ∧
      bit (t.rd (MTX.CORE_STATUS.ARMED x.die x.onCore)) a = true ∧ t.logged 0x0101 x.die (x.onCore + a * 2 ^ 8) (tTag x.words) ∧ s.sameMem t) ∧
  (∀ (s : State) (d c a at' : Nat), aFind s.arming (arrayKey d c a) = some at' → a < 4 → at' + s.armWindow < s.timeBase →
    ∃ t, exec (.armingExpiry d c a) s = .next t ∧ t.armed d c a = false ∧ bit (t.rd (MTX.CORE_STATUS.ARMED d c)) a = false ∧
      s.sameBut t [MTX.CORE_STATUS.ARMED d c] ∧ s.sameParts t [.arming]) ∧
  (∀ (s : State) (v : Nat), s.rd MTX.INJECT_ENABLE.ENABLE = 1 → bits v 4 6 < 34 → s.rd (MTX.CORE_STATUS.STATE (bits v 0 3) (bits v 4 6)) = 0 →
    ∃ t, exec (.mtxInject v) s = .next t ∧ arrayKey (bits v 0 3) (bits v 4 6) (bits v 10 2) ∈ t.injects ∧ s.allRegs t ∧ s.sameParts t [.injects])

/-- While Bimon runs: STOCK_CORE_DRAW puts the lowest-numbered STOCK core of the die of a retired core under test, and records 0x0103 on a die that has none (R68,
R69); CORE_SELFTEST_DONE makes a core that passes ACTIVE under the retired core's logical number, which is then RETIRED, and one that fails
RETIRED (R68). At a tick behind its error BANK_RETIRE retires a bank with a persistent error and draws a stock bank under its logical number
(R130). At a tick behind its acceptance STOCK_DRAW retires the unit that it names and makes the lowest-numbered STOCK unit of its group
ACTIVE, which OUT0 returns, when that unit passes its self-test, and ends NO_RESOURCE with the unit in service where every one fails;
STOCK_RETURN puts a RETIRED unit that passes its self-test into STOCK, ending with 1 in OUT0, and leaves one that fails RETIRED, ending with 4
(R325, R327). STOCK_SELFTEST ends the daily test under way: the unit goes back to STOCK, or, failing, becomes RETIRED (R323).
Where the rules leave a reading open, it is the model's: log entry 19. -/
def Obligations.CoresBanksAndStockUnitsAreReplacedAndTested : Prop :=
  (∀ (s : State) (die core : Nat) (d : CoreDraw), die < 8 → s.bimon = true → s.drawDue die = some d → (s.unitsIn 0 die 1).head? = some core →
    ∃ t, exec (.stockCoreDraw die) s = .next t ∧ t.rd (MTX.CORE_STATUS.STATE die core) = 3 ∧
      (∀ x ∈ t.draws, x.die = die → x.old = d.old → x.drawn = some core) ∧ s.sameMem t ∧ t.cmds = s.cmds) ∧
  (∀ (s : State) (die : Nat) (d : CoreDraw), die < 8 → s.bimon = true → s.drawDue die = some d → d.old < 34 → s.unitsIn 0 die 1 = [] →
    ∃ t, exec (.stockCoreDraw die) s = .next t ∧ t.rd (MTX.CORE_STATUS.STATE die d.old) = 4 ∧ t.logged 0x0103 die 0 d.old ∧
      (∀ x ∈ t.draws, x.die = die → x.old ≠ d.old) ∧ s.sameMem t ∧ t.cmds = s.cmds) ∧
  (∀ (s : State) (die core : Nat) (d : CoreDraw), die < 8 → s.bimon = true → core < 34 → d.old < 34 → d.old ≠ core →
    s.draws.find? (fun d => d.die == die && d.drawn == some core && decide (d.due < s.nextTick)) = some d →
    (∃ t, exec (.coreSelftestDone die core 1) s = .next t ∧ t.rd (MTX.CORE_STATUS.STATE die core) = 0 ∧
      t.rd (MTX.CORE_STATUS.LOGICAL die core) = d.logical % 64 ∧ t.rd (MTX.CORE_STATUS.STATE die d.old) = 4 ∧
      t.rd STOCK.EVENTS.DRAWS = min (s.rd STOCK.EVENTS.DRAWS + 1) 65535 ∧ s.sameMem t ∧ t.cmds = s.cmds) ∧
    (∃ t, exec (.coreSelftestDone die core 0) s = .next t ∧ t.rd (MTX.CORE_STATUS.STATE die core) = 4 ∧ t.rd (MTX.CORE_STATUS.CAUSE die core) = 3 ∧
      t.logged 0x0102 die core 3 ∧ (∀ x ∈ t.draws, x.die = die → x.old = d.old → x.drawn = none) ∧ s.sameMem t ∧ t.cmds = s.cmds)) ∧
  (∀ (s : State) (die bank n : Nat), die < 8 → s.bankDue die bank = true → (s.unitsIn 1 die 1).head? = some n → s.physBank die bank ≠ n →
    ∃ t, exec (.bankRetire die bank) s = .next t ∧ t.physBank die bank = n ∧ t.unitState 1 die n = 0 ∧ t.unitState 1 die (s.physBank die bank) = 4 ∧
      (die, bank) ∉ t.badBanks ∧ t.logged 0x0203 die (s.physBank die bank) n ∧ s.sameMem t ∧ t.cmds = s.cmds) ∧
  (∀ (s : State) (k n : Nat) (c : Cmd), s.cmdAt k 0x84 = some c → checkStock true s c = none → s.tickSince c.since = true →
    s.rd (STOCK.CLASS.TESTING c.stockClass c.stockGroup) ≠ 1 → (s.unitsIn c.stockClass c.stockGroup 1).head? = some n →
    (c.stockClass = 3 → ∀ p ∈ s.allShards, p.1 < 8 ∧ p.2.cmd ≠ some k) →
    ∃ t, exec (.stockDraw k []) s = .next t ∧ t.ended k stDone 0 n 0 0 ∧ t.unitState c.stockClass c.stockGroup n = 0 ∧
      t.unitState c.stockClass c.stockGroup c.stockUnit = 4 ∧ t.rd STOCK.EVENTS.DRAWS = min (s.rd STOCK.EVENTS.DRAWS + 1) 65535 ∧
      t.rd STOCK.EVENTS.RETIREMENTS = min (s.rd STOCK.EVENTS.RETIREMENTS + 1) 65535) ∧
  (∀ (s : State) (k : Nat) (c : Cmd) (failed : List Nat), s.cmdAt k 0x84 = some c → checkStock true s c = none → s.tickSince c.since = true →
    s.rd (STOCK.CLASS.TESTING c.stockClass c.stockGroup) ≠ 1 → (∀ n ∈ s.unitsIn c.stockClass c.stockGroup 1, n ∈ failed) →
    ∃ t, exec (.stockDraw k failed) s = .next t ∧ t.ended k stNoResource 0 0 0 0 ∧ t.unitState c.stockClass c.stockGroup c.stockUnit = 0) ∧
  (∀ (s : State) (k : Nat) (c : Cmd) (failed : List Nat), s.cmdAt k 0x85 = some c → checkStock false s c = none → s.tickSince c.since = true →
    s.rd (STOCK.CLASS.TESTING c.stockClass c.stockGroup) ≠ 1 →
    ∃ t, exec (.stockReturn k failed) s = .next t ∧ s.sameMem t ∧ s.othersStand t k ∧
      (c.stockUnit ∉ failed → t.ended k stDone 0 1 0 0 ∧ t.unitState c.stockClass c.stockGroup c.stockUnit = 1 ∧
        t.rd STOCK.EVENTS.RETURNS = min (s.rd STOCK.EVENTS.RETURNS + 1) 65535) ∧
      (c.stockUnit ∈ failed → t.ended k stDone 0 4 0 0 ∧ t.unitState c.stockClass c.stockGroup c.stockUnit = 4 ∧
        t.rd STOCK.SELFTEST.FAILED = min (s.rd STOCK.SELFTEST.FAILED + 1) 32767)) ∧
  (∀ (s : State) (cls g u pass : Nat), g < groupsOf cls → u < stockBuilt cls g → s.bimon = true → s.selfNow = some (unitKey cls g u) →
    ∃ t, exec (.stockSelftest cls g u pass) s = .next t ∧ t.selfNow = none ∧ s.sameMem t ∧ t.cmds = s.cmds ∧
      (pass = 0 → t.unitState cls g u = 4 ∧ t.rd STOCK.SELFTEST.FAILED = min (s.rd STOCK.SELFTEST.FAILED + 1) 32767) ∧
      (pass ≠ 0 → t.unitState cls g u = 1 ∧ t.rd STOCK.SELFTEST.FAILED = s.rd STOCK.SELFTEST.FAILED))

/-- HAND_OPEN binds a hand, the one named or with ANY the lowest FREE one, to its context with its settings, OPEN, with nothing committed and
no span, and returns the hand in OUT0 and the bytes of a span in OUT1; with RING its descriptor is read first and kept, and one that breaks
R200, R201 or R209 ends BAD_PARAM 0x0903. HAND_CLOSE of a hand that is OPEN, EVICTED or LOST and that no move serves leaves it FREE with nothing
kept, and waits while one does (R208, R209).
Where the rules leave a reading open, it is the model's: log entry 24. -/
def Obligations.HandsAreOpenedAndClosed : Prop :=
  (∀ (s : State) (k n : Nat) (c : Cmd), s.cmdAt k 0x40 = some c → checkHandOpen s c = none → s.turn c = true → lateOpen s c = none →
    c.ringed = false → n = (if c.flag6 then s.freeHand.getD 0 else c.hand) →
    ∃ t, exec (.handOpen k) s = .next t ∧ t.ended k stDone 0 n (spanBytes (s.attn c.context)) 0 ∧ t.handState n = 1 ∧ t.handCtx n = c.context ∧
      t.rd (SERVE.HAND_STATE.CLASS n) = s.rd (SCHED.CTX_STATE.CLASS c.context) % 2 ∧ t.rd (SERVE.HAND_STATE.CLIENT_TAG n) = bits (c.p 0) 32 12 ∧
      t.rd (SERVE.HAND_STATE.RING n) = 0 ∧ t.rd (SERVE.HAND_STATE.SPANS n) = 0 ∧
      t.rd (SERVE.HAND_STATE.COMMITTED n) = 0 ∧ t.rd (SERVE.HAND_STATE.PENDING n) = 0 ∧ t.specWord n = 0 ∧
      t.hand n = {
        cacheVa := c.p 2, allow := c.spans, chunk := (if c.chunkSize = 0 then 512 else c.chunkSize), targetUs := c.p 3,
        temperature := bits (c.p 4) 0 32, topP := bits (c.p 4) 32 32, seed := c.p 5, layers := s.attn c.context } ∧
      s.othersStand t k ∧ s.sameParts t [.cmds, .doneCtr, .hands] ∧ s.sameRegs t [8]) ∧
  (∀ (s u : State) (k n : Nat) (c : Cmd) (b : List Nat), s.cmdAt k 0x40 = some c → checkHandOpen s c = none → s.turn c = true →
    lateOpen s c = none → c.ringed = true → n = (if c.flag6 then s.freeHand.getD 0 else c.hand) →
    s.fetch c.origin c.context (c.p 1) 64 = .bytes b u → u.ringOk n c.spans (wordsOf 8 8 b) = true →
    ∃ t, exec (.handOpen k) s = .next t ∧ t.ended k stDone 0 n (spanBytes (s.attn c.context)) 0 ∧ t.handState n = 1 ∧ t.handCtx n = c.context ∧
      t.rd (SERVE.HAND_STATE.RING n) = 1 ∧ (t.hand n).ring = wordsOf 8 8 b ∧ (t.hand n).spans = [] ∧ (t.hand n).allow = c.spans ∧
      s.othersStand t k ∧ s.sameMem t) ∧
  (∀ (s u : State) (k n : Nat) (c : Cmd) (b : List Nat), s.cmdAt k 0x40 = some c → checkHandOpen s c = none → s.turn c = true →
    lateOpen s c = none → c.ringed = true → n = (if c.flag6 then s.freeHand.getD 0 else c.hand) →
    s.fetch c.origin c.context (c.p 1) 64 = .bytes b u → u.ringOk n c.spans (wordsOf 8 8 b) = false →
    ∃ t, exec (.handOpen k) s = .next t ∧ t.ended k stBadParam 0x0903 0 0 0 ∧ t.hands = s.hands ∧ s.othersStand t k ∧ s.sameMem t ∧
      s.sameRegs t [9]) ∧
  (∀ (s : State) (k : Nat) (c : Cmd), s.cmdAt k 0x41 = some c → checkHandClose s c = none → s.turn c = true → s.handCtx c.hand = c.context →
    s.handState c.hand = 1 ∨ s.handState c.hand = 4 ∨ s.handState c.hand = 8 → s.handMoves c.hand = false → s.parksOn c.hand = false →
    ∃ t, exec (.handClose k) s = .next t ∧ t.ended k stDone 0 0 0 0 ∧ t.handState c.hand = 0 ∧ t.handWord c.hand = 0 ∧ t.specWord c.hand = 0 ∧
      aFind t.hands c.hand = none ∧ s.othersStand t k) ∧
  (∀ (s : State) (k : Nat) (c : Cmd), s.cmdAt k 0x41 = some c → checkHandClose s c = none → s.turn c = true → s.handCtx c.hand = c.context →
    s.handState c.hand = 1 ∨ s.handState c.hand = 4 ∨ s.handState c.hand = 8 → s.handMoves c.hand = true →
    exec (.handClose k) s = .next s)

/-- STEP and PREFILL_CHUNK, numbered among their hand's commands for its ring traffic, wait for the assembly of a step (R211). STEP_ASSEMBLY
of a context of no routed layer whose one STEP names an OPEN hand with room and no drafts makes the hand's token step the next step of the
context, whose number rises, brings the hand to the context's class, and launches the first layer of the model, the others to follow (R207,
R212, R213, R216). STEP_COMPLETE ends the STEP of a token step of no drafts with its token in OUT0 and OUT2 and the committed length in OUT1,
the hand OPEN again with that token pending (R218, R219). The token is the one that R210 chooses from the row of logits, the logits
being free values (log 51).
Where the rules leave a reading open, it is the model's: log entries 24 and 51. -/
def Obligations.StepsAreTakenAssembledAndCompleted : Prop :=
  (∀ (s : State) (k : Nat) (c : Cmd), s.cmdAt k 0x42 = some c → checkStep s c = none → s.turn c = true → lateStep s c = none →
    ∃ t, exec (.step k) s = .next t ∧ t.runs k ∧ t.hand c.hand = { s.hand c.hand with ordinal := (s.hand c.hand).ordinal + 1, ran := 0 } ∧
      s.allRegs t ∧ s.othersStand t k ∧ s.sameParts t [.cmds, .hands]) ∧
  (∀ (s : State) (k : Nat) (c : Cmd), s.cmdAt k 0x43 = some c → checkPrefill s c = none → s.turn c = true →
    firstBad (s.handBad c c.hand) = none →
    ∃ t, exec (.prefillChunk k) s = .next t ∧ t.runs k ∧
      t.hand c.hand = { s.hand c.hand with ordinal := (s.hand c.hand).ordinal + 1, ran := 0 } ∧ s.allRegs t ∧ s.othersStand t k ∧
      s.sameParts t [.cmds, .hands]) ∧
  (∀ (s : State) (x len : Nat) (c : Cmd), s.inUse x = true → s.rd TOPO.PARTITION.STATE ≠ 3 → s.stepOf x = none → s.switchOf x = none →
    s.routers.any (fun r => r.ctx == x && r.slot == s.ctxSlot x) = false → s.repairHolds (s.ctxSlot x) = false → s.stepCmds x = [c] →
    c.opcode = 0x42 → s.handState c.hand = 1 → s.handCtx c.hand = x → s.rd (SERVE.SPEC_STATE.VARIANT c.hand) = 0 → (s.hand c.hand).ring = [] →
    s.rd (SERVE.SPEC_STATE.ENABLED c.hand) = 0 → len = s.rd (SERVE.HAND_STATE.COMMITTED c.hand) → s.needs c.hand len = [] →
    s.rd SERVE.CACHE_POOL.RESERVE ≤ ({ s with cacheSet := s.cacheRegs } : State).poolRoom →
    ∃ t u i, exec (.stepAssembly x) s = .next t ∧ t.stepOf x = some u ∧ u.no = (s.ctx x).stepNo ∧ u.slot = s.ctxSlot x ∧ u.items = [i] ∧
      i.hand = c.hand ∧ i.cmd = c.id ∧ i.first = len ∧ i.count = 1 ∧ i.depth = 0 ∧ i.token = (if c.flag6 then c.p 2 else (s.hand c.hand).token) ∧
      u.layers = (s.stepLayers x (s.ctxSlot x) false).drop 1 ∧ u.launch = some s.nextLaunch ∧
      u.latentMode = s.rd SERVE.CACHE_CTL.LATENT_MODE ∧ u.mergeMax = s.rd SERVE.CACHE_CTL.MERGE_MAX ∧
      (∃ l ∈ t.launches, l.id = s.nextLaunch ∧ l.kind = 3 ∧ l.ctx = x ∧ l.layer = (s.stepLayers x (s.ctxSlot x) false).headD 0) ∧
      (t.ctx x).stepNo = ((s.ctx x).stepNo + 1) % 2 ^ 32 ∧ t.handState c.hand = 2 ∧
      t.rd (SERVE.HAND_STATE.CLASS c.hand) = s.rd (SCHED.CTX_STATE.CLASS x) % 2 ∧ s.counted t SERVE.STEPS.ASSEMBLED 1 ∧ t.cmds = s.cmds) ∧
  (∀ (s : State) (x tok : Nat) (u : Step) (i : StepItem) (c : Cmd), s.stepOf x = some u → u.launch = none → u.layers = [] → u.items = [i] →
    s.areas.any (fun a => a.ctx == x && a.slot == u.slot && a.parity == u.no % 2) = false → i.hand < 64 → s.handState i.hand = 2 →
    (s.hand i.hand).evict = false → s.cmdOf i.cmd = some c → c.status = none → c.outVa = 0 → c.detail = 0 → i.ended = none → i.chunk = false →
    i.depth = 0 → i.last = true → i.skipped = 0 → i.overflowed = 0 → tok = s.followToken u.slot i.hand 0 →
    ({ s with steps := s.steps.filter (fun y => y.ctx != x) } : State).reserve ≤
      ({ s with steps := s.steps.filter (fun y => y.ctx != x) } : State).poolRoom →
    ∃ t, exec (.stepComplete x) s = .next t ∧ t.ended i.cmd stDone 0 (tok + 2 ^ 32) (i.first + 1) tok ∧ t.handState i.hand = 1 ∧
      t.rd (SERVE.HAND_STATE.COMMITTED i.hand) = (i.first + 1) % 2 ^ 20 ∧ t.rd (SERVE.HAND_STATE.PENDING i.hand) = 1 ∧
      (t.hand i.hand).token = tok ∧ (t.hand i.hand).lastStep = s.now ∧ (t.hand i.hand).draws = (s.hand i.hand).draws + 1 ∧ t.stepOf x = none)

/-- A hand whose pages have all moved takes the state at the end of its way: EVICTING to EVICTED, RETURNING to OPEN; and an EVICTED hand
that free pages cover, first in the order of return while no other returns, starts to return: its pages that lie in host slots are asked back
into the places of R190 (R199, R208, Table 9-1). One that free pages do not cover stands.
Where the rules leave a reading open, it is the model's: log entry 24. -/
def Obligations.HandsAreEvictedAndReturn : Prop :=
  (∀ (s : State) (n : Nat), n < 64 → s.handState n = 3 → s.handMoves n = false →
    ∃ t, exec (.evictionComplete n) s = .next t ∧ t.handState n = 4 ∧ t.hand n = { s.hand n with evictedAt := s.now } ∧
      s.counted t SERVE.CACHE_EVENTS.EVICTIONS 1 ∧ s.sameParts t [.hands] ∧ s.sameRegs t [8]) ∧
  (∀ (s : State) (n : Nat), n < 64 → s.handState n = 4 → s.covered n = true → s.handsIn 5 = [] → s.handMoves n = false →
    (∀ m < 64, m ≠ n → s.handState m = 4 → s.covered m = true → keyLess (s.returnKey m) (s.returnKey n) = false) →
    ∃ t, exec (.returnStart n) s = .next t ∧ t.handState n = 5 ∧
      (∀ p ∈ (s.hand n).pages n, (s.hand n).inSlot p.va = true →
        ∃ m ∈ t.wants, m.ctx = s.handCtx n ∧ m.va = p.va ∧ m.cause = 5 ∧
          (m ∈ s.wants ∨ m.owner = n ∧ m.tier = 1 ∧ ∃ q ∈ (s.hand n).pages n, q.va = p.va ∧ m.leaf = 2 ^ q.die)) ∧
      s.sameParts t [.wants] ∧ s.sameRegs t [8]) ∧
  (∀ (s : State) (n : Nat), s.covered n = false → exec (.returnStart n) s = .next s) ∧
  (∀ (s : State) (n : Nat), n < 64 → s.handState n = 5 → s.handMoves n = false →
    ∃ t, exec (.returnComplete n) s = .next t ∧ t.handState n = 1 ∧ s.counted t SERVE.CACHE_EVENTS.RETURNS 1 ∧ s.sameParts t [] ∧ s.sameRegs t [8])

/-- PARK of an EVICTED hand makes its pages the copy of an EMPTY kitty entry, HELD, whose handle OUT0 returns, and leaves the hand FREE; of an
OPEN hand, it starts to move them to the host's area, and PARK_COMPLETE makes the copy when the last has moved, with JOB_ABORTED and the handle
where a job abort has taken the hand. PARK with RENEW starts a HELD copy's time to live again, and ends PARK_EXPIRED where the handle names no
copy. UNPARK takes a HELD copy, at its own addresses or at new ones, into a FREE hand whose pages move back; a lead whose slot can no longer be
one is dropped with no move (R498); UNPARK_COMPLETE leaves the hand OPEN and the entry EMPTY. KITTY_EXPIRY frees a copy at the first tick, while
Bimon runs, at or after the end of its time (R221, R222, R223, Table 9-4).
Where the rules leave a reading open, it is the model's: log entry 25. -/
def Obligations.HandsAreParkedRenewedAndUnparked : Prop :=
  (∀ (s : State) (k : Nat) (c : Cmd), s.cmdAt k 0x44 = some c → c.flag6 = false → checkPark s c = none → s.turn c = true → latePark s c = none →
    (∃ e < 4096, (s.kittyAt e).state = 0) → s.handState c.hand = 4 →
    ∃ t e, exec (.park k) s = .next t ∧ (s.kittyAt e).state = 0 ∧ (t.kittyAt e).state = 2 ∧ (t.kittyAt e).gen = (s.kittyAt e).gen ∧
      (t.kittyAt e).ends = s.now + c.ttl * 1_000_000_000 ∧ (t.kittyAt e).hand = { s.hand c.hand with cmd := none } ∧
      (t.kittyAt e).word = s.handWord c.hand ∧ (t.kittyAt e).spec = s.specWord c.hand ∧
      t.handState c.hand = 0 ∧ s.counted t SERVE.PARK_EVENTS.PARKS 1 ∧
      t.ended k stDone 0 ((s.kittyAt e).handle e) (s.hand c.hand).copyBytes (s.hand c.hand).copySlots ∧ s.othersStand t k ∧ s.sameMem t) ∧
  (∀ (s : State) (k : Nat) (c : Cmd), s.cmdAt k 0x44 = some c → c.flag6 = false → checkPark s c = none → s.turn c = true → latePark s c = none →
    (∃ e < 4096, (s.kittyAt e).state = 0) → s.handState c.hand = 1 → s.attached (s.kittyHost c) = true →
    0 < s.areaSlots (s.kittyHost c) true → ((s.hand c.hand).pages c.hand).length ≤ (s.slotsFree (s.kittyHost c) true).length →
    ∃ t e, exec (.park k) s = .next t ∧ t.runs k ∧ (s.kittyAt e).state = 0 ∧ (t.kittyAt e).state = 1 ∧ t.handState c.hand = 6 ∧
      (t.hand c.hand).cmd = some k ∧ (t.hand c.hand).entry = e ∧ (t.hand c.hand).host = s.kittyHost c ∧
      (∀ p ∈ (s.hand c.hand).pages c.hand, ∃ m ∈ t.wants, m.ctx = s.handCtx c.hand ∧ m.va = p.va ∧ m.cause = 6) ∧ s.othersStand t k ∧ s.sameMem t) ∧
  (∀ (s : State) (k e : Nat) (c : Cmd), s.cmdAt k 0x44 = some c → c.flag6 = true → checkPark s c = none → s.handleEntry (c.p 1) = some e →
    (s.kittyAt e).state = 2 →
    ∃ t, exec (.parkRenew k) s = .next t ∧ t.ended k stDone 0 (c.p 1) (s.kittyAt e).hand.copyBytes (s.kittyAt e).hand.copySlots ∧
      t.kittyAt e = { s.kittyAt e with ttl := c.ttl, ends := s.now + c.ttl * 1_000_000_000 } ∧ s.othersStand t k ∧
      s.sameParts t [.cmds, .doneCtr, .kitty] ∧ s.sameRegs t [8]) ∧
  (∀ (s : State) (k : Nat) (c : Cmd), s.cmdAt k 0x44 = some c → c.flag6 = true → checkPark s c = none → s.handleEntry (c.p 1) = none →
    ∃ t, exec (.parkRenew k) s = .next t ∧ s.onlyEnds t k stParkExpired 0 0 0 0) ∧
  (∀ (s : State) (n k : Nat) (c : Cmd), n < 64 → s.handState n = 6 → s.handMoves n = false → (s.hand n).cmd = some k → c ∈ s.cmds → c.id = k →
    c.status = none →
    ∃ t, exec (.parkComplete n) s = .next t ∧ t.handState n = 0 ∧ (t.kittyAt (s.hand n).entry).state = 2 ∧ s.counted t SERVE.PARK_EVENTS.PARKS 1 ∧
      t.ended k stDone 0 ((s.kittyAt (s.hand n).entry).handle (s.hand n).entry) (s.hand n).copyBytes (s.hand n).copySlots ∧ s.sameMem t) ∧
  (∀ (s : State) (n k : Nat) (c : Cmd), n < 64 → s.parksOn n = true → s.handMoves n = false → (s.hand n).cmd = some k → c ∈ s.cmds → c.id = k →
    c.status = none →
    ∃ t, exec (.parkComplete n) s = .next t ∧ t.handState n = 8 ∧ (t.kittyAt (s.hand n).entry).state = 2 ∧ s.counted t SERVE.PARK_EVENTS.PARKS 1 ∧
      t.ended k stJobAborted 1 ((s.kittyAt (s.hand n).entry).handle (s.hand n).entry) 0 0 ∧ s.sameMem t) ∧
  (∀ (s : State) (k e : Nat) (c : Cmd), s.cmdAt k 0x45 = some c → c.flag6 = false → checkUnpark s c = none → s.turn c = true →
    lateUnpark s c = none → s.handleEntry (c.p 1) = some e → (s.kittyAt e).state = 2 → c.p 2 = 0 →
    (bits (s.kittyAt e).spec 0 1 = 1 → s.leadOk (bits (s.kittyAt e).spec 16 3) = true) →
    ((s.kittyAt e).hand.pages c.hand).length + s.reserve ≤ s.poolRoom →
    ∃ t, exec (.unpark k) s = .next t ∧ t.runs k ∧ t.handState c.hand = 7 ∧ (t.kittyAt e).state = 3 ∧ (t.kittyAt e).fill = c.hand ∧
      t.hand c.hand = { (s.kittyAt e).hand with cmd := some k, entry := e, aborted := false } ∧ t.specWord c.hand = (s.kittyAt e).spec % 2 ^ 37 ∧
      (∀ p ∈ (s.kittyAt e).hand.pages c.hand, (s.kittyAt e).hand.inSlot p.va = true →
        ∃ m ∈ t.wants, m.va = p.va ∧ m.cause = 7) ∧ s.othersStand t k ∧ s.sameMem t) ∧
  (∀ (s : State) (k e : Nat) (c : Cmd), s.cmdAt k 0x45 = some c → c.flag6 = false → checkUnpark s c = none → s.turn c = true →
    lateUnpark s c = none → s.handleEntry (c.p 1) = some e → (s.kittyAt e).state = 2 → c.p 2 = 0 → bits (s.kittyAt e).spec 0 1 = 1 →
    s.leadOk (bits (s.kittyAt e).spec 16 3) = false → ((s.kittyAt e).hand.pages c.hand).length + s.reserve ≤ s.poolRoom →
    ∃ t, exec (.unpark k) s = .next t ∧ t.runs k ∧ t.handState c.hand = 7 ∧ t.rd (SERVE.SPEC_STATE.ENABLED c.hand) = 0 ∧
      (t.hand c.hand).leadSpans = [] ∧ (t.hand c.hand).spans = (s.kittyAt e).hand.spans ∧ s.othersStand t k) ∧
  (∀ (s u : State) (k e : Nat) (c : Cmd) (x : Hand), s.cmdAt k 0x45 = some c → c.flag6 = false → checkUnpark s c = none → s.turn c = true →
    lateUnpark s c = none → s.handleEntry (c.p 1) = some e → (s.kittyAt e).state = 2 → c.p 2 ≠ 0 →
    ((s.kittyAt e).hand.pages c.hand).length + s.reserve ≤ s.poolRoom → s.rebaseCopy c.context (s.kittyAt e).hand (c.p 2) = some (x, u) →
    ∃ t, exec (.unpark k) s = .next t ∧ t.runs k ∧ t.handState c.hand = 7 ∧ (t.kittyAt e).state = 3 ∧ (t.hand c.hand).cacheVa = c.p 2 ∧
      s.othersStand t k) ∧
  (∀ (s : State) (n k : Nat) (c : Cmd), n < 64 → s.handState n = 7 → s.handMoves n = false → (s.hand n).cmd = some k → c ∈ s.cmds → c.id = k →
    c.status = none →
    ∃ t, exec (.unparkComplete n) s = .next t ∧ t.handState n = 1 ∧ t.ended k stDone 0 n (s.rd (SERVE.HAND_STATE.COMMITTED n)) 0 ∧
      (t.kittyAt (s.hand n).entry).state = 0 ∧ (t.kittyAt (s.hand n).entry).gen = ((s.kittyAt (s.hand n).entry).gen + 1) % 2 ^ 32 ∧
      s.counted t SERVE.PARK_EVENTS.UNPARKS 1 ∧ s.sameMem t) ∧
  (∀ (s : State) (e : Nat), s.tickFrom (s.kittyAt e).ends = true → (s.kittyAt e).state = 2 →
    ∃ t, exec (.kittyExpiry e) s = .next t ∧ (t.kittyAt e).state = 0 ∧ (t.kittyAt e).gen = ((s.kittyAt e).gen + 1) % 2 ^ 32 ∧
      (t.kittyAt e).hand.slots = [] ∧ s.counted t SERVE.PARK_EVENTS.EXPIRED 1 ∧ t.cmds = s.cmds) ∧
  (∀ (s : State) (e : Nat), s.tickFrom (s.kittyAt e).ends = false → exec (.kittyExpiry e) s = .next s)

/-- ROUTER_CONFIG puts the router that it describes, with the placement table read at its address, in place of its layer's in the slot that
the context runs, or, while a switch is pending, in the switch's slot (R496); with no switch pending it takes the context's step slot and sets its
step counter to 0; with SET_SHAPE it sets SHAPE_MODE; with REMOVE it takes the layer's router away (R178, R181, R213). BIAS_LOOP_CONFIG leaves
the settings that apply from the next period, and with RESET brings both copies of the biases to zero (R163). While Bimon runs BIAS_LOOP_UPDATE
makes a layer's update once a period: with the loop on, WIN_SEL goes to zero, and where the samples suffice the new biases go into the copy not
in use and the selector turns (R161, R162). ROUTER_STATS writes the records of its experts and returns their sums and the tokens skipped; with
CLEAR what it read is then taken off the counters (R183, R184).
Where the rules leave a reading open, it is the model's: log entries 23 and 50. -/
def Obligations.RoutersAreConfiguredTunedAndRead : Prop :=
  (∀ (s u : State) (k slot : Nat) (c : Cmd) (r : Router) (b : List Nat), s.cmdAt k 0x50 = some c → c.configures = true →
    checkRouterConfig s c = none → slot = s.routerSlot c.context → s.fetch c.origin c.context (c.p 1) (16 * c.experts) = .bytes b u →
    r = { c.router slot with place := (List.range c.experts).map (fun i => placeEntry (wordsOf 8 2 (b.drop (16 * i)))) } →
    u.placeBad r ((List.range c.experts).map (fun i => wordsOf 8 2 (b.drop (16 * i)))) = none →
    ∃ t, exec (.routerConfig k) s = .next t ∧ t.ended k stDone 0 0 0 0 ∧
      t.router c.context slot c.layer = some { r with lastPeriod := ((s.router c.context slot c.layer).map Router.lastPeriod).getD 0 } ∧
      (s.switchOf c.context = none → (t.ctx c.context).stepNo = 0 ∧ aFind t.stepSlots c.context = some (c.p 5)) ∧
      (s.switchOf c.context ≠ none → t.ctxs = s.ctxs ∧ t.stepSlots = s.stepSlots) ∧
      (∀ a ∈ t.areas, a.ctx = c.context → a.slot = slot → a.layer ≠ c.layer) ∧ s.othersStand t k ∧ s.sameRegs t [7, 9]) ∧
  (∀ (s : State) (k : Nat) (c : Cmd), s.cmdAt k 0x50 = some c → c.setShape = true → checkRouterConfig s c = none →
    ∃ t, exec (.setShape k) s = .next t ∧ t.ended k stDone 0 0 0 0 ∧ t.ctx c.context = { s.ctx c.context with shape := bits (c.p 0) 12 2 } ∧
      s.allRegs t ∧ s.othersStand t k ∧ s.sameParts t [.cmds, .doneCtr, .ctxs]) ∧
  (∀ (s : State) (k : Nat) (c : Cmd), s.cmdAt k 0x50 = some c → c.rmRouter = true → checkRouterConfig s c = none →
    ∃ t, exec (.routerRemove k) s = .next t ∧ t.ended k stDone 0 0 0 0 ∧ t.router c.context (s.routerSlot c.context) c.layer = none ∧
      (∀ a ∈ t.areas, a.ctx = c.context → a.slot = s.routerSlot c.context → a.layer ≠ c.layer) ∧ s.othersStand t k ∧ s.sameRegs t [7] ∧
      s.sameParts t [.cmds, .doneCtr, .routers, .areas]) ∧
  (∀ (s : State) (k : Nat) (c : Cmd), s.cmdAt k 0x51 = some c → checkBiasLoopConfig s c = none → bit (c.p 0) 1 = false →
    s.hasReqs c.origin.who = false →
    ∃ t, exec (.biasLoopConfig k) s = .next t ∧ t.ended k stDone 0 0 0 0 ∧
      (∀ r ∈ t.routers, r.ctx = c.context → r.slot = s.ctxSlot c.context → r.layer ∈ c.layerRange →
        r.loopNext = [bits (c.p 0) 0 1, bits (c.p 0) 8 8, bits (c.p 1) 0 32, bits (c.p 1) 32 32, c.p 2] ∧ r.loopFrom = s.biasPeriod + 1) ∧
      s.allRegs t ∧ s.othersStand t k ∧ s.sameParts t [.cmds, .doneCtr, .routers, .fabric]) ∧
  (∀ (s u : State) (k : Nat) (c : Cmd), s.cmdAt k 0x51 = some c → checkBiasLoopConfig s c = none → bit (c.p 0) 1 = true →
    s.putAll c.origin c.context ((s.routers.filter (fun r => r.ctx == c.context && r.slot == s.ctxSlot c.context && c.layerRange.contains r.layer)).flatMap
      (fun r => [(r.biasVa + 64, List.replicate (4 * r.experts) 0), (r.biasVa + 64 + r.biasStride, List.replicate (4 * r.experts) 0)])) = .ok u →
    u.hasReqs c.origin.who = false →
    ∃ t, exec (.biasLoopConfig k) s = .next t ∧ t.ended k stDone 0 0 0 0 ∧ t.mem = u.mem ∧
      (∀ r ∈ t.routers, r.ctx = c.context → r.slot = s.ctxSlot c.context → r.layer ∈ c.layerRange →
        r.loopNext = [bits (c.p 0) 0 1, bits (c.p 0) 8 8, bits (c.p 1) 0 32, bits (c.p 1) 32 32, c.p 2] ∧ r.loopFrom = s.biasPeriod + 1) ∧
      s.othersStand t k) ∧
  (∀ (s : State) (c slot layer : Nat) (r : Router), s.router c slot layer = some r → s.bimon = true → r.lastPeriod ≠ s.biasPeriod →
    (r.applied s.biasPeriod).loopOn = false →
    ∃ t, exec (.biasLoopUpdate c slot layer) s = .next t ∧ s.sameMem t ∧
      t.router c slot layer = some { r.applied s.biasPeriod with lastPeriod := s.biasPeriod } ∧ s.sameBut t [ROUTE.BIAS_LOOP.RUNNING] ∧
      s.sameParts t [.routers, .fabric]) ∧
  (∀ (s v w u : State) (c slot layer total : Nat) (r q : Router) (b n : List Nat), s.router c slot layer = some r → s.bimon = true →
    r.lastPeriod ≠ s.biasPeriod → q = r.applied s.biasPeriod → q.loopOn = true → s.fetch q.loopOrigin c q.biasVa q.biasBytes = .bytes b v →
    v.fetch q.loopOrigin c q.countVa q.countBytes = .bytes n w → total = (q.validList.map (fun e => recField n e 0)).sum →
    total < q.minSamples →
    w.putAll q.loopOrigin c [(q.countVa, q.countMap n id (fun e i x => if i = 0 ∧ q.valid e then 0 else x))] = .ok u →
    ∃ t, exec (.biasLoopUpdate c slot layer) s = .next t ∧ t.mem = u.mem ∧ s.counted t ROUTE.BIAS_LOOP.BELOW_MIN 1 ∧
      t.router c slot layer = some { q with lastPeriod := s.biasPeriod }) ∧
  (∀ (s v w u : State) (c slot layer total mean sel : Nat) (r q : Router) (b n : List Nat), s.router c slot layer = some r → s.bimon = true →
    r.lastPeriod ≠ s.biasPeriod → q = r.applied s.biasPeriod → q.loopOn = true → s.fetch q.loopOrigin c q.biasVa q.biasBytes = .bytes b v →
    v.fetch q.loopOrigin c q.countVa q.countBytes = .bytes n w → total = (q.validList.map (fun e => recField n e 0)).sum →
    q.minSamples ≤ total → mean = div32 (nat32 total) (nat32 q.validList.length) → sel = copyOf b →
    w.putAll q.loopOrigin c ((q.countVa, q.countMap n id (fun e i x => if i = 0 ∧ q.valid e then 0 else x)) ::
      q.validList.map (fun e => (q.biasVa + 64 + (1 - sel) * q.biasStride + 4 * e, leVals 4 (biasNext q (recField n e 0) mean (q.biasIn b sel e)))) ++
      [(q.biasVa, leVals 8 (leOf (b.take 8) - sel + (1 - sel)))]) = .ok u →
    ∃ t, exec (.biasLoopUpdate c slot layer) s = .next t ∧ t.mem = u.mem ∧ s.counted t ROUTE.BIAS_LOOP.UPDATES 1 ∧
      t.router c slot layer = some { q with lastPeriod := s.biasPeriod }) ∧
  (∀ (s : State) (c slot layer : Nat) (r : Router), s.router c slot layer = some r → s.bimon = false ∨ r.lastPeriod = s.biasPeriod →
    exec (.biasLoopUpdate c slot layer) s = .next s) ∧
  (∀ (s v w u x : State) (k sel lost : Nat) (c : Cmd) (r : Router) (bb b : List Nat), s.cmdAt k 0x52 = some c → checkRouterStats s c = none →
    c.aux.headD 0 ≠ 9 → s.router c.context (s.ctxSlot c.context) c.layer = some r → s.fetch c.origin c.context r.biasVa r.biasBytes = .bytes bb v →
    v.fetch c.origin c.context r.countVa r.countBytes = .bytes b w → sel = ((List.range r.experts).map (fun e => recField b e 1)).sum →
    lost = ((List.range r.experts).map (fun e => recField b e 3)).sum →
    w.put c.origin c.context (c.p 1) ((List.range r.experts).flatMap (fun e => leVals 4 (recField b e 1) ++ leVals 4 (recField b e 2) ++
      leVals 4 (recField b e 3) ++ leVals 4 (r.biasIn bb (copyOf bb) e))) = .ok u → u.hasReqs c.origin.who = false →
    x = (u.dropGot c.origin.who).cmdMap k (fun d => { d with out0 := sel, out1 := lost, out2 := leOf (b.take 8), aux := 9 :: b }) →
    (bit (c.p 0) 10 = false → ∃ t, exec (.routerStats k) s = .next t ∧ t.mem = u.mem ∧ t.ended k stDone 0 sel lost (leOf (b.take 8))) ∧
    (bit (c.p 0) 10 = true → ∀ y, x.countsEdit c.origin r (fun b' => r.countMap b' (· - leOf (b.take 8))
        (fun e i z => if i = 0 then z else z - recField b e i)) = .ok y → y.hasReqs c.origin.who = false →
      ∃ t, exec (.routerStats k) s = .next t ∧ t.mem = y.mem ∧ t.ended k stDone 0 sel lost (leOf (b.take 8))))

/-- DISPATCH of a routed launch gates its rows once: each row's experts are those of R158 with their gates (R156, R159), counted in SEL. For each
entry it adds its assignments to the area's ADMIT, here at once and at another home by a fabric request, and admits what is left of the capacity
(R167); with every answer in, it counts what was admitted, overflowed and skipped and sends the entries in one ALLTOALL (R172); it is dispatched
when its descriptors are complete and its shared experts added (R159). A donor sends none. AREA_DECIDED fixes an area's COUNT once its
arrivals reach EXPECT, and marks it skipped where it is 0 (R169). EXPERT_LAUNCH starts a dealt area, on COUNT rows or, in static mode, on
CAPACITY (R178); adds a row's output times its gate into its combine row; and, once every add is acknowledged, raises its source's DONE counter
(R173, R175). COMBINE_COMPLETE ends a launch's routing when DONE has reached the rows admitted (R176), and AREA_RESET brings an area's header
back to its first state (R166). DEAL_AHEAD deals the next granule of the first image that a launch needs and no half of its window holds whole
into the half that does not run now, and marks that half whole with the last granule (R125, R260); DEAL_EXPERT deals the next granule of the
expert image of the area to be dealt first behind what the half holds, and the area is dealt when every die of its context has dealt it (R174).
The errors that a read meets are taken first (R129, R130).
Where the rules leave a reading open, it is the model's: log entries 23 and 50. -/
def Obligations.RoutedLayersAreDispatchedDealtAndCombined : Prop :=
  (∀ (s v w u : State) (i : Nat) (l : Launch) (r : Router) (b : List Nat) (as : List (List Nat)), s.launch i = some l → s.mayRoute l = true →
    s.launchRouter l = some r → s.isDonor = false → l.gated = false → s.fetch (s.routeOrigin l 0) r.ctx r.biasVa r.biasBytes = .bytes b v →
    as = (List.range (v.gateRows l)).flatMap (rowAssign r (r.biasIn b (copyOf b)) v.freeCtr) →
    v.countsEdit (s.routeOrigin l 0) r (fun c => r.countMap c id (fun e j x =>
      if j < 2 then sat32 x (as.filter (fun a => a.getD 2 0 == e)).length else x)) = .ok w →
    w.put (s.routeOrigin l 0) l.ctx (w.freeRow l.ctx 8 (v.freeCtr + 2 * v.gateRows l)) (leVals 8 0) = .ok u →
    ∃ t, exec (.dispatch i) s = .next t ∧ s.counted t ROUTE.ASSIGN.SELECTED as.length ∧
      ∀ l' ∈ t.launches, l'.id = i → l'.gated = true ∧ l'.assigns = as ∧ l'.entries.map (fun x => x.getD 0 0) = r.validList) ∧
  (∀ (s : State) (i e n k leaf : Nat) (l : Launch) (r : Router), s.launch i = some l → s.mayRoute l = true → s.launchRouter l = some r →
    s.isDonor = false → l.gated = true → l.entries = [[e, 0, 0, 0]] → n = (l.to e).length → n ≠ 0 →
    s.access l.ctx (r.areaVa e (l.stepNo % 2)) true true = .ok (.here k) leaf →
    ∃ t, exec (.dispatch i) s = .next t ∧
      ∀ l' ∈ t.launches, l'.id = i → l'.entries = [[e, 2, s.load k 8, min n (r.capacity - s.load k 8)]]) ∧
  (∀ (s : State) (i e n chip host off leaf : Nat) (l : Launch) (r : Router), s.launch i = some l → s.mayRoute l = true →
    s.launchRouter l = some r → s.isDonor = false → l.gated = true → l.counted = false → l.sent = false → l.entries = [[e, 0, 0, 0]] →
    n = (l.to e).length → n ≠ 0 → s.access l.ctx (r.areaVa e (l.stepNo % 2)) true true = .ok (.far chip host off) leaf →
    ∃ t, exec (.dispatch i) s = .next t ∧ (∀ l' ∈ t.launches, l'.id = i → l'.entries = [[e, 1, 0, 0]]) ∧ s.sameMem t ∧
      ∃ q ∈ t.fabric.reqs, q.op = 0x15 ∧ q.target = chip ∧ q.offset = off ∧ leOf (q.data.take 8) = n % 2 ^ 64 ∧ q.who = l.routeWho e) ∧
  (∀ (s u : State) (i : Nat) (l : Launch) (r : Router) (skip lost : List Nat), s.launch i = some l → s.mayRoute l = true →
    s.launchRouter l = some r → s.isDonor = false → l.gated = true → l.counted = false → l.sent = false →
    (∀ w ∈ l.entries, w.getD 1 0 = 2) → s.queueLen (s.routeMover l) l.moverQueue < 64 → skip = l.skippedRows (s.gateRows l) →
    lost = (l.entries.flatMap (fun w => (l.to (w.getD 0 0)).drop (w.getD 3 0))).map (fun a => a.getD 0 0) →
    s.countsEdit (s.routeOrigin l 1) r (fun c => r.countMap c (fun n => sat64 n skip.length) (fun e j x => sat32 x
      (if j = 2 then ((l.entries.find? (fun w => w.getD 0 0 == e)).map (fun w => w.getD 3 0)).getD 0
        else if j = 3 then (l.to e).length - ((l.entries.find? (fun w => w.getD 0 0 == e)).map (fun w => w.getD 3 0)).getD 0 else 0))) = .ok u →
    ∃ t l', exec (.dispatch i) s = .next t ∧ t.launch i = some l' ∧ l'.counted = true ∧ l'.sent = true ∧
      l'.admitted = (l.entries.map (fun w => w.getD 3 0)).sum ∧ l'.skipped = skip.length ∧ t.mem = u.mem ∧
      s.counted t ROUTE.ASSIGN.OVERFLOWED lost.length ∧ s.counted t ROUTE.SKIP.TOKENS skip.length ∧
      s.counted t ROUTE.SKIP.PASS_MARKERS (l.entries.filter (fun w => w.getD 3 0 == 0)).length ∧
      (∃ d ∈ t.descs, d.id = s.nextDesc ∧ d.issuer = 3 ∧ d.owner = i ∧ d.ctx = l.ctx ∧ d.table = l.sendTable r (l.stepNo % 2) ∧
        d.words = [5 + l.ctx % 2 ^ 10 * 2 ^ 16, 0, 0, l.entries.length, 0, 0, 0, 0]) ∧ t.cmds = s.cmds) ∧
  (∀ (s : State) (i : Nat) (l : Launch) (r : Router), s.launch i = some l → s.mayRoute l = true → s.launchRouter l = some r →
    s.isDonor = true ∨ l.gated = true ∧ l.counted = true ∧ l.sent = true ∧ (∀ w ∈ l.entries, w.getD 1 0 = 2) ∧ s.routeBusy i = false ∧
      s.sharedLeft l r = false →
    ∃ t, exec (.dispatch i) s = .next t ∧ t.launch i = some { l with routePhase := 2 } ∧ s.allRegs t ∧ s.sameParts t [.launches]) ∧
  (∀ (s v w u : State) (c slot layer e par n : Nat) (r : Router) (a : Area) (h rows : List Nat), s.router c slot layer = some r →
    s.noteArrivals.areaOf c slot layer e par = some a → a.state = 0 →
    s.noteArrivals.fetch (s.noteArrivals.areaOrigin a) c (r.areaVa e par) 64 = .bytes h v →
    leOf ((h.drop 16).take 8) % 2 ^ 16 ≠ 0 → leOf ((h.drop 16).take 8) % 2 ^ 16 ≤ leOf ((h.drop 8).take 8) →
    n = min (leOf (h.take 8)) r.capacity →
    v.fetch (v.areaOrigin a) c (r.areaVa e par + 64) (n * (64 + r.rowBytes)) = .bytes rows w →
    w.put (w.areaOrigin a) c (r.areaVa e par + 24) (leVals 4 n) = .ok u →
    ∃ t, exec (.areaDecided c slot layer e par) s = .next t ∧ t.mem = u.mem ∧ t.decided = s.decided + 1 ∧
      t.areaOf c slot layer e par = some { a with
        state := (if n = 0 then 4 else 1), order := s.decided + 1, count := n, decidedAt := s.now } ∧
      (n = 0 → s.counted t ROUTE.EXPERT.SKIPPED 1) ∧ (n ≠ 0 → t.rd ROUTE.EXPERT.SKIPPED = s.rd ROUTE.EXPERT.SKIPPED)) ∧
  (∀ (s : State) (c slot layer e par : Nat) (r : Router) (a : Area), s.router c slot layer = some r → s.areaOf c slot layer e par = some a →
    s.areaHeld a = false → a.state = 1 → a.dealt = true →
    ∃ t, exec (.expertLaunch c slot layer e par) s = .next t ∧ s.counted t ROUTE.EXPERT.LAUNCHED 1 ∧
      t.areaOf c slot layer e par = some { a with state := 2, rows := (if (s.ctx c).shape = 0 then r.capacity else a.count) } ∧
      s.sameBut t [ROUTE.EXPERT.LAUNCHED] ∧ s.sameParts t [.areas]) ∧
  (∀ (s v : State) (c slot layer e par : Nat) (r : Router) (a : Area) (b : List Nat), s.router c slot layer = some r →
    s.areaOf c slot layer e par = some a → s.areaHeld a = false → a.state = 2 → a.bad = none → a.count = a.sent + 1 →
    s.queueLen (s.areaMover a).1 (s.areaMover a).2 < 64 →
    s.fetch (s.areaOrigin a) c (r.areaVa e par + 64 + a.sent * (64 + r.rowBytes)) 32 = .bytes b v →
    ∃ t, exec (.expertLaunch c slot layer e par) s = .next t ∧ t.areaOf c slot layer e par = some { a with sent := a.count } ∧ s.sameMem t ∧
      ∃ d ∈ t.descs, d.id = s.nextDesc ∧ d.issuer = 4 ∧ d.owner = a.order ∧ d.ctx = c ∧
        d.words = [4 + 2 * 2 ^ 12 + c % 2 ^ 10 * 2 ^ 16, 0, (originOf b).1, 4 * (r.rowBytes / 2), 0, 0, 0, 0] ∧
        d.rows = ((v.freeRows (r.rowBytes / 2)).map (fun x => mul32 x (originOf b).2.1)).flatMap (leVals 4)) ∧
  (∀ (s v : State) (c slot layer e par w leaf : Nat) (r : Router) (a : Area) (b : List Nat) (q : Nat × Nat), s.router c slot layer = some r →
    s.areaOf c slot layer e par = some a → s.areaHeld a = false → a.state = 2 → a.bad = none → 0 < a.count → a.count ≤ a.sent →
    s.areaBusy a = false → s.fetch (s.areaOrigin a) c (r.areaVa e par + 64) (a.count * (64 + r.rowBytes)) = .bytes b v → a.told = [] →
    (∀ i < a.count, (originOf (b.drop (i * (64 + r.rowBytes)))).2.2 = q) → v.access c q.2 true true = .ok (.here w) leaf →
    ∃ t, exec (.expertLaunch c slot layer e par) s = .next t ∧ t.areaOf c slot layer e par = some { a with told := [q], state := 3 } ∧
      s.storedAt t w 8 (s.load w 8 + a.count)) ∧
  (∀ (s u : State) (i : Nat) (l : Launch) (b : List Nat), s.launch i = some l → l.routePhase = 2 → s.isDonor = false →
    s.fetch (s.routeOrigin l 2) l.ctx l.doneVa 8 = .bytes b u →
    ∃ t, exec (.combineComplete i) s = .next t ∧ t.launch i = some (if leOf b = l.admitted then { l with routePhase := 3 } else l) ∧ s.sameMem t ∧
      s.sameRegs t [9] ∧ t.cmds = s.cmds) ∧
  (∀ (s : State) (c slot layer e par k : Nat) (r : Router) (a : Area), s.router c slot layer = some r → s.areaOf c slot layer e par = some a →
    s.keyAt r.ctx (r.areaVa e par) = some k → a.state = 3 ∨ a.state = 4 → s.areaOut a = false →
    ∃ t, exec (.areaReset c slot layer e par) s = .next t ∧ t.areaOf c slot layer e par = none ∧
      t.loadWords k 4 = [0, 0, s.sources.length % 2 ^ 64, 0] ∧ s.sameBut t [ROUTE.ARRIVE_WAIT.WAITING] ∧ s.sameParts t [.mem, .areas]) ∧
  (∀ (s₀ s : State) (d n layer group pos total : Nat) (l : Launch) (w : Window) (ce ue : List Nat), s = s₀.readErrors ce ue →
    s.dealTarget d = some l → l.kind ≠ 1 → l.kind ≠ 2 →
    (if l.taken then l.slot else (s.ctx l.ctx).slot) = some n → s.windowOf l.ctx d = some w → l.ended = none → l.repairOn = [] →
    s.slotState n ≠ 4 → (s.imagesFor l d).headD (l.layer, 0) = (layer, group) → w.halfOf n layer group = none →
    total = Config.layerBytes n layer w.die → total ≤ w.half → pos = (if w.tag (1 - w.current) = [n, layer, group, 0] then w.resume else 0) →
    s.imageHeld n (Config.layerPlace n layer w.die 1024 + pos) (min 4096 (total - pos)) = false →
    s.badBlock n (Config.layerPlace n layer w.die 1024 + pos) (min 4096 (total - pos)) = none →
    ∃ t, exec (.dealAhead d ce ue) s₀ = .next t ∧ t.cmds = s.cmds ∧
      t.mem = (s.windowWrite w ((1 - w.current) * w.half + pos)
        (s.dealtBytes n (Config.layerPlace n layer w.die 1024 + pos) (min 4096 (total - pos)) group)).mem ∧
      ∀ x ∈ t.windows, x.die = w.die → x.slotNo = w.slotNo →
        x.tag (1 - w.current) = [n, layer, group, b2n (decide (total ≤ pos + 4096))] ∧ (pos + 4096 < total → x.resume = pos + 4096)) ∧
  (∀ (s₀ s : State) (d base total pos place : Nat) (a : Area) (w : Window) (ce ue : List Nat), s = s₀.readErrors ce ue →
    s.nextArea d = some a → s.windowOf a.ctx d = some w →
    total = Config.expertBytes a.slot a.layer a.expert d → base = Config.layerBytes a.slot a.layer d → base + total ≤ w.half →
    pos = (if (s.dealCur d).1 = a.order then (s.dealCur d).2 else 0) → s.expertPlace w a base total = some place →
    s.imageHeld a.slot (Config.layerPlace a.slot a.layer d a.expert + pos) (min 4096 (total - pos)) = false →
    s.badBlock a.slot (Config.layerPlace a.slot a.layer d a.expert + pos) (min 4096 (total - pos)) = none →
    ∃ t, exec (.dealExpert d ce ue) s₀ = .next t ∧ t.cmds = s.cmds ∧
      t.mem = (s.windowWrite w (w.current * w.half + base + place + pos)
        (s.imageBytes a.slot (Config.layerPlace a.slot a.layer d a.expert + pos) (min 4096 (total - pos)))).mem ∧
      (∀ x ∈ t.windows, x.die = w.die → x.slotNo = w.slotNo → x.experts.any (fun y => y.order == a.order) = true) ∧
      (total ≤ pos + 4096 → t.dealtOn d a.order = true ∧ ((∀ y < 8, y ≠ d → (s.windowOf a.ctx y).isSome = true → s.dealtOn y a.order = true) →
        t.areaOf a.ctx a.slot a.layer a.expert a.parity = some { a with dealt := true })) ∧
      (pos + 4096 < total → t.dealCur d = (a.order, pos + 4096)))

/-- SPEC_CONFIG enables speculation on a hand under a lead with its greatest depth and every count 0, or disables it with its lead spans freed,
and returns the bytes of a lead span in OUT0 (R235). VARIANT_BIND binds a hand to a variant; registers a variant each of whose descriptors holds,
its bitmaps' ones as many as it names; or removes one that nothing is bound to, ending BUSY_RETRY for one that is (R245, R248).
Where the rules leave a reading open, it is the model's: log entry 26. -/
def Obligations.SpeculationAndVariantsAreSetPerHand : Prop :=
  (∀ (s : State) (k : Nat) (c : Cmd), s.cmdAt k 0x48 = some c → checkSpecConfig s c = none → s.turn c = true → lateSpecConfig s c = none →
    (c.flag6 = true → ∃ t, exec (.specConfig k) s = .next t ∧ t.ended k stDone 0 (spanBytes (s.slot c.leadSlot).attnLayers) 0 0 ∧
      t.rd (SERVE.SPEC_STATE.ENABLED c.hand) = 1 ∧ t.rd (SERVE.SPEC_STATE.DEPTH c.hand) = c.maxDepth ∧
      t.rd (SERVE.SPEC_STATE.LEAD_SLOT c.hand) = c.leadSlot ∧ t.rd (SERVE.SPEC_STATE.ZERO_RUN c.hand) = 0 ∧
      t.rd (SERVE.SPEC_STATE.FULL_RUN c.hand) = 0 ∧ t.rd (SERVE.SPEC_STATE.SUSPEND c.hand) = 0 ∧ (t.hand c.hand).leadVa = c.p 1 ∧
      (t.hand c.hand).leadLayers = (s.slot c.leadSlot).attnLayers ∧ (t.hand c.hand).maxDepth = c.maxDepth ∧ (t.hand c.hand).leadSpans = [] ∧
      s.othersStand t k) ∧
    (c.flag6 = false → ∃ t, exec (.specConfig k) s = .next t ∧ t.ended k stDone 0 (spanBytes (s.hand c.hand).leadLayers) 0 0 ∧
      t.rd (SERVE.SPEC_STATE.ENABLED c.hand) = 0 ∧ t.rd (SERVE.SPEC_STATE.DEPTH c.hand) = 0 ∧ (t.hand c.hand).leadVa = 0 ∧
      (t.hand c.hand).leadLayers = 0 ∧ (t.hand c.hand).leadSpans = [] ∧ s.othersStand t k)) ∧
  (∀ (s : State) (k : Nat) (c : Cmd), s.cmdAt k 0x49 = some c → c.vOp = 0 → checkVariant s c = none → s.turn c = true → lateBind s c = none →
    ∃ t, exec (.variantBind k) s = .next t ∧ t.ended k stDone 0 0 0 0 ∧ t.rd (SERVE.SPEC_STATE.VARIANT c.vHand) = c.variant ∧
      t.hand c.vHand = { s.hand c.vHand with variantSlot := s.ctxSlot c.context } ∧ s.sameRegs t [8] ∧ s.othersStand t k ∧
      s.sameParts t [.cmds, .doneCtr, .hands]) ∧
  (∀ (s v u : State) (k : Nat) (c : Cmd) (b : List Nat) (ds : List (List Nat)), s.cmdAt k 0x49 = some c → c.vOp = 1 → checkVariant s c = none →
    s.fetch c.origin c.context (c.p 1) (64 * bits (c.p 0) 16 12) = .bytes b v →
    ds = (List.range (bits (c.p 0) 16 12)).map (fun i => wordsOf 8 8 (b.drop (64 * i))) →
    ds.foldl (fun (a : Option State) w => a.bind (fun x =>
      if x.descOk (s.ctxSlot c.context) w then
        match x.fetch c.origin c.context (bits (wd w 2) 0 57) (x.bitmapBytes (s.ctxSlot c.context) w) with
        | .bytes m y => if (m.map bitCount).sum = bits (wd w 1) 0 40 then some y else none
        | _ => none
      else none)) (some v) = some u →
    ∃ t, exec (.variantRegister k) s = .next t ∧ t.ended k stDone 0 0 0 0 ∧
      t.variants = s.variants ++ [⟨c.variant, c.context, s.ctxSlot c.context, ds⟩] ∧ s.sameRegs t [8, 9] ∧ s.othersStand t k ∧
      s.sameParts t [.cmds, .doneCtr, .variants, .fabric, .tlbs, .freeCtr]) ∧
  (∀ (s v : State) (k : Nat) (c : Cmd) (b : List Nat), s.cmdAt k 0x49 = some c → c.vOp = 1 → checkVariant s c = none →
    s.fetch c.origin c.context (c.p 1) (64 * bits (c.p 0) 16 12) = .bytes b v → s.descOk (s.ctxSlot c.context) (wordsOf 8 8 b) = false →
    ∃ t, exec (.variantRegister k) s = .next t ∧ t.ended k stBadParam 0x0A32 0 0 0 ∧ t.variants = s.variants ∧ s.othersStand t k) ∧
  (∀ (s : State) (k : Nat) (c : Cmd), s.cmdAt k 0x49 = some c → c.vOp = 2 → checkVariant s c = none →
    (s.variantBound (s.ctxSlot c.context) c.variant = false → ∃ t, exec (.variantRemove k) s = .next t ∧ t.ended k stDone 0 0 0 0 ∧
      t.variantOf (s.ctxSlot c.context) c.variant = none ∧ (∀ v ∈ s.variants, v.no ≠ c.variant → v ∈ t.variants) ∧ s.sameRegs t [8] ∧
      s.othersStand t k ∧ s.sameParts t [.cmds, .doneCtr, .variants]) ∧
    (s.variantBound (s.ctxSlot c.context) c.variant = true → ∃ t, exec (.variantRemove k) s = .next t ∧ s.onlyEnds t k stBusyRetry 0 0 0 0))

/-- PREFIX_LOOKUP returns the longest local match with one of its entries in OUT0 and the longest remote match with one of its holders in OUT1,
and with ATTACH puts the hand on the entry with that many blocks committed (R243). PREFIX_INSERT names a live entry that holds the tokens
already, else makes a new one of the blocks at a free number, and, where this module holds the whole index, ends with its handle in OUT0 and the
bytes copied in OUT1 (R239, R244); with REMOVE it frees an entry that nothing is attached to, whose generation rises, and ends BUSY_RETRY where
something is (R241). Which entry or holder of equals is taken is a free choice (log 8).
Where the rules leave a reading open, it is the model's: log entry 26. -/
def Obligations.PrefixesAreFoundKeptAndRemoved : Prop :=
  (∀ (s v u : State) (k : Nat) (c : Cmd) (b : List Nat) (blocks : List (List Nat)) (recs : List IndexRec), s.cmdAt k 0x46 = some c →
    checkPrefixLookup s c = none → s.turn c = true → latePrefixLookup s c = none →
    s.fetch c.origin c.context (c.p 1) (4 * c.count) = .bytes b v → blocks = tokenBlocks b ((c.count - 1) / 32) →
    v.readIndex c (seedWord c.context (s.rd (SERVE.SPEC_STATE.VARIANT c.hand)) (s.ctxSlot c.context)) blocks = (recs, u, true) →
    u.hasReqs c.origin.who = false → (∀ x ∈ recs, x.chip = u.chip) →
    ∃ t e chip, exec (.prefixLookup k) s = .next t ∧
      t.ended k stDone 0 ((u.localMatch c.hand blocks recs).1 + e * 2 ^ 16 + b2n (c.flag6 && decide (1 ≤ (u.localMatch c.hand blocks recs).1)) * 2 ^ 26)
        ((u.remoteMatch recs).1 + chip * 2 ^ 16) 0 ∧
      ((u.localMatch c.hand blocks recs).1 ≠ 0 → e ∈ (u.localMatch c.hand blocks recs).2) ∧
      ((u.remoteMatch recs).1 ≠ 0 → chip ∈ (u.remoteMatch recs).2) ∧ s.counted t SERVE.PREFIX_EVENTS.LOOKUPS 1 ∧
      (c.flag6 = true → 1 ≤ (u.localMatch c.hand blocks recs).1 → t.rd (SERVE.SPEC_STATE.ATTACHED c.hand) = 1 ∧
        t.rd (SERVE.SPEC_STATE.ENTRY c.hand) = e % 2 ^ 10 ∧
        t.rd (SERVE.HAND_STATE.COMMITTED c.hand) = 32 * (u.localMatch c.hand blocks recs).1 % 2 ^ 20 ∧
        (t.hand c.hand).prefixLen = 32 * (u.localMatch c.hand blocks recs).1) ∧
      (c.flag6 = false → t.hands = s.hands)) ∧
  (∀ (s u : State) (k slot v : Nat) (c : Cmd) (b : List Nat), s.cmdAt k 0x47 = some c → s.cmdRunning k = none → c.flag6 = false →
    checkPrefixInsert s c = none → s.turn c = true → latePrefixInsert s c = none →
    s.fetch c.origin c.context (c.p 1) (128 * c.count) = .bytes b u → v = s.rd (SERVE.SPEC_STATE.VARIANT c.hand) → slot = s.ctxSlot c.context →
    (∀ e, s.sameEntry c v slot (tokenBlocks b c.count) = some e →
      ∃ t, exec (.prefixInsert k) s = .next t ∧ t.ended k stDone 0 (e + (s.entryAt e).gen * 2 ^ 10) 0 0 ∧ s.sameRegs t [9] ∧ s.othersStand t k ∧
        s.sameParts t [.cmds, .doneCtr, .fabric, .tlbs, .freeCtr]) ∧
    (s.sameEntry c v slot (tokenBlocks b c.count) = none → (∃ e < 1024, (s.entryAt e).live = false) →
      s.poolHas (s.rd (SERVE.HAND_STATE.CLASS c.hand)) (blockSpans c.count * (spanPages (s.hand c.hand).layers +
        (if s.is (SERVE.SPEC_STATE.ENABLED c.hand) then spanPages (s.hand c.hand).leadLayers else 0))) = true →
      (∀ e < 1024, (s.entryAt e).live = false → ((u.dropGot c.origin.who).took.makeEntry c e v slot b).isSome = true) →
      ∃ t e, exec (.prefixInsert k) s = .next t ∧ e < 1024 ∧ (s.entryAt e).live = false ∧ (t.entryAt e).live = true ∧
        (t.entryAt e).gen = (s.entryAt e).gen ∧ (t.entryAt e).ctx = c.context ∧ (t.entryAt e).variant = v ∧ (t.entryAt e).va = c.p 2 ∧
        (t.entryAt e).blocks = c.count ∧ (t.entryAt e).tokens = b ∧
        (s.sources = [s.chip] → s.hasReqs c.origin.who = false → ∃ skips, t.ended k stDone 0 (e + (s.entryAt e).gen * 2 ^ 10)
          (32 * c.count * 1120 * ((s.hand c.hand).layers + s.leadOf c.hand)) skips))) ∧
  (∀ (s : State) (k e : Nat) (c : Cmd), s.cmdAt k 0x47 = some c → c.flag6 = true → checkPrefixInsert s c = none → e = c.p 2 % 2 ^ 10 →
    (s.entryRefs e = 0 → ∃ t, exec (.prefixRemove k) s = .next t ∧ t.ended k stDone 0 0 0 0 ∧ (t.entryAt e).live = false ∧
      (t.entryAt e).gen = ((s.entryAt e).gen + 1) % 2 ^ 32 ∧ s.othersStand t k) ∧
    (s.entryRefs e ≠ 0 → ∃ t, exec (.prefixRemove k) s = .next t ∧ s.onlyEnds t k stBusyRetry 0 0 0 0))

/-- MODEL_STAGE gives a slot the frames of its image and its manifest's shards, WAITING, and runs until they have come (R331, R342).
SHARD_INTAKE opens a shard's window or starts its donor copy (R335, R338), INTAKE_WRITE of a host that reaches the module lands bytes that fall
in an open window, those of a repair beside the image, and counts the others (R335), DIGEST_COMPLETE takes in a shard, or a repair, which then
waits to be swapped in, whose bytes hash to its digest, sends the others back with an attempt counted, and fails the slot at the fourth (R334,
R337, R340), DONOR_COPY_COMPLETE takes in what a donor sent (R338), and at the first tick from its time on SHARD_TIMER_EXPIRY fails the slot of a
shard that has not come, and ends a repair (R337).
Where the rules leave a reading open, it is the model's: log entry 18. -/
def Obligations.ModelsAreStagedShardByShard : Prop :=
  (∀ (s u : State) (k n : Nat) (c : Cmd) (mine : List Shard) (pages : List (Nat × Nat)), s.cmdAt k 0x62 = some c → checkModelStage s c = none →
    s.stageSlot c = some n → mine = (s.manifestMine c).map (fun x => { x with since := s.now }) → mine ≠ [] →
    stageFrames (imagePagesOf mine) s = some (pages, u) →
    ∃ t, exec (.modelStage k) s = .next t ∧ t.runs k ∧ t.slotState n = 1 ∧ (t.slot n).pages = pages ∧ (t.slot n).shards = mine ∧
      (t.slot n).stageCmd = some k ∧ t.rd (LOAD.SLOT_ID.MODEL_ID n) = (s.manifestHead c).getD 1 0 % 2 ^ 64 ∧ t.mem = u.mem ∧ s.othersStand t k) ∧
  (∀ (s : State) (k : Nat) (c : Cmd), s.cmdAt k 0x60 = some c → checkShardIntake s c = none →
    ∃ t x, exec (.shardIntake k) s = .next t ∧ t.runs k ∧ (t.slot c.wSlot).shard c.wShard = some x ∧ x.state = (if c.wRepair then 5 else 1) ∧
      x.cmd = some k ∧ x.port = c.src ∧ x.since = s.now ∧ x.landed = [] ∧ x.window = (if c.wSource = 0 then some (c.p 1) else none) ∧
      x.donor = (if c.wSource = 1 then some (bits (c.p 2) 0 12, bits (c.p 2) 12 3) else none) ∧ s.sameMem t ∧ s.othersStand t k) ∧
  (∀ (s : State) (h off : Nat) (data : List Nat) (p : Nat × Shard → Bool), s.reaches h = true → p = (fun q => match q.2.window with
      | some w => decide (w ≤ off) && decide (off + data.length ≤ w + q.2.len)
      | none => false) →
    ((s.windowsOn h).find? p = none → ∃ t, exec (.intakeWrite h off data) s = .next t ∧ s.counted t LOAD.INTAKE.STRAY 1 ∧
      s.sameBut t [LOAD.INTAKE.STRAY] ∧ s.sameParts t []) ∧
    (∀ n w x, (s.windowsOn h).find? p = some (n, x) → x.window = some w → (s.slot n).shard x.no = some x → x.state ≠ 5 →
      ∃ t, exec (.intakeWrite h off data) s = .next t ∧ t.mem = (s.imageWrite n (x.off + (off - w)) data).mem ∧
        (t.slot n).shard x.no = some { x with landed := rangeAdd x.landed (off - w) (off - w + data.length) } ∧ s.allRegs t ∧
        s.sameParts t [.mem, .slots]) ∧
    (∀ n w x, (s.windowsOn h).find? p = some (n, x) → x.window = some w → (s.slot n).shard x.no = some x → x.state = 5 →
      ∃ t, exec (.intakeWrite h off data) s = .next t ∧
        (t.slot n).shard x.no = some { x with
          landed := rangeAdd x.landed (off - w) (off - w + data.length), repair := intakeWrite.slotWriteAll x.repair (off - w) data } ∧ s.allRegs t ∧
        s.sameParts t [.slots])) ∧
  (∀ (s : State) (n no k e : Nat) (x : Shard) (c : Cmd), n < 8 → (s.slot n).shard no = some x → x.state = 1 ∨ x.state = 5 → x.engine = some e →
    e < 10 → x.port < 2 → x.landed = [(0, x.len)] → x.cmd = some k → c ∈ s.cmds → c.id = k → c.status = none →
    (sha256 (s.arrived n x) = x.digest → ∃ t y, exec (.digestComplete n no) s = .next t ∧ t.ended k stDone 0 no x.len (x.attempts + 1) ∧
      (t.slot n).shard no = some y ∧ y.state = 2 ∧ y.window = none ∧ y.cmd = none ∧ y.swapSince = (if x.state = 5 then some s.now else none) ∧
      s.counted t LOAD.INTAKE.VERIFIED 1 ∧ s.sameMem t) ∧
    (sha256 (s.arrived n x) ≠ x.digest → x.attempts + 1 < 4 ∨ x.state = 5 → ∃ t y, exec (.digestComplete n no) s = .next t ∧
      t.ended k stDigestFail (x.attempts + 1) 0 0 0 ∧ (t.slot n).shard no = some y ∧ y.state = (if x.state = 5 then 4 else 0) ∧
      y.attempts = x.attempts + 1 ∧ y.window = none ∧ s.counted t LOAD.INTAKE.DIGEST_FAILS 1 ∧ s.sameMem t) ∧
    (sha256 (s.arrived n x) ≠ x.digest → 4 ≤ x.attempts + 1 → x.state = 1 → ∃ t, exec (.digestComplete n no) s = .next t ∧
      t.ended k stDigestFail (x.attempts + 1) 0 0 0 ∧ t.slotState n = 0 ∧ (t.slot n).shards = [] ∧
      t.logged 0x0502 n ((s.slot n).ordinal no) stDigestFail)) ∧
  (∀ (s : State) (n no k : Nat) (data : List Nat) (x : Shard) (c : Cmd), n < 8 → (s.slot n).shard no = some x → x.state = 1 →
    x.donor.isSome = true → x.engine = none → x.cmd = some k → c ∈ s.cmds → c.id = k → c.status = none →
    (data.length = x.len → ∃ t y, exec (.donorCopyComplete n no 0 data) s = .next t ∧ t.ended k stDone 0 no x.len (x.attempts + 1) ∧
      (t.slot n).shard no = some y ∧ y.state = 2 ∧ y.unchecked = true ∧ t.mem = (s.imageWrite n x.off data).mem) ∧
    (∀ det, det ≠ 0 → ∃ t y, exec (.donorCopyComplete n no det data) s = .next t ∧ t.ended k stFaulted det 0 0 0 ∧
      (t.slot n).shard no = some y ∧ y.state = 0 ∧ y.attempts = x.attempts ∧ y.donor = none ∧ s.sameMem t)) ∧
  (∀ (s : State) (n no k : Nat) (x : Shard) (c : Cmd), n < 8 → (s.slot n).shard no = some x → x.state ≤ 1 →
    s.tickFrom (x.since + s.rd LOAD.INTAKE_CTL.TIMEOUT_S * 1_000_000_000) = true → x.cmd = some k → c ∈ s.cmds → c.id = k → c.status = none →
    ∃ t, exec (.shardTimerExpiry n no) s = .next t ∧ t.ended k stTimedOut ((s.slot n).ordinal no) 0 0 0 ∧ t.slotState n = 0 ∧
      (t.slot n).shards = [] ∧ t.logged 0x0502 n ((s.slot n).ordinal no) stTimedOut) ∧
  (∀ (s : State) (n no k : Nat) (x : Shard) (c : Cmd), n < 8 → (s.slot n).shard no = some x → x.state = 5 →
    s.tickFrom (x.since + s.rd LOAD.INTAKE_CTL.TIMEOUT_S * 1_000_000_000) = true → x.cmd = some k → c ∈ s.cmds → c.id = k → c.status = none →
    ∃ t y, exec (.shardTimerExpiry n no) s = .next t ∧ t.ended k stTimedOut ((s.slot n).ordinal no) 0 0 0 ∧ (t.slot n).shard no = some y ∧
      y.state = 4 ∧ y.window = none ∧ s.sameMem t)

/-- RECHECK_SHARD, while Bimon runs, and SHARD_VERIFY find a VERIFIED shard whose bytes differ from its digest CORRUPT (R339); REPAIR_SWAP puts a verified repair
in place while no step runs on the slot, and deals that waited for it go on (R340); REPAIR_WAIT_TIMEOUT ends a launch whose repair has not
come (R341). MODEL_SWITCH waits for its step in place of a pending one, and its CANCEL withdraws it; the routers of the slot of a switch withdrawn are
discarded (R343, R496). MODEL_RETIRE empties a slot that
is STAGING or that nothing reads (R332).
Where the rules leave a reading open, it is the model's: log entry 18. -/
def Obligations.ModelsAreRecheckedRepairedSwitchedAndRetired : Prop :=
  (∀ (s : State) (n no : Nat) (r : List (Nat × Nat)) (x : Shard), n < 8 → s.bimon = true → s.rd LOAD.RECHECK_CTL.ENABLE = 1 → s.recheckAt ≤ s.now →
    s.recheck = (n, no) :: r → (s.slot n).shard no = some x → s.slotState n = 2 ∨ s.slotState n = 3 → x.state = 2 →
    ∃ t y, exec .recheckShard s = .next t ∧ t.recheck = r ∧ s.counted t LOAD.RECHECK.SHARDS 1 ∧ (t.slot n).shard no = some y ∧
      y.unchecked = false ∧ y.state = (if s.shardIntact n x then 2 else 4) ∧
      (s.shardIntact n x = false → t.logged 0x0501 n no x.off ∧ s.counted t LOAD.REPAIR.FOUND 1) ∧ s.sameMem t ∧ t.cmds = s.cmds) ∧
  (∀ (s : State) (k : Nat) (c : Cmd), s.cmdAt k 0x61 = some c → checkShardVerify s c = none →
    ((∀ x ∈ s.verifyList c, s.shardIntact c.wSlot x = true) → ∃ t, exec (.shardVerify k) s = .next t ∧
      t.ended k stDone 0 (s.verifyList c).length 0 0 ∧ s.counted t LOAD.RECHECK.SHARDS (s.verifyList c).length ∧
      s.sameBut t [LOAD.RECHECK.SHARDS] ∧ s.othersStand t k ∧ s.sameParts t [.cmds, .doneCtr, .slots]) ∧
    ((∃ x ∈ s.verifyList c, s.shardIntact c.wSlot x = false) → ∃ t, exec (.shardVerify k) s = .next t ∧
      t.ended k stDigestFail ((s.verifyList c).filter (fun x => !s.shardIntact c.wSlot x)).length 0 0 0 ∧
      (∀ x ∈ s.verifyList c, (s.slot c.wSlot).shard x.no = some x → x.state = 2 → s.shardIntact c.wSlot x = false →
        ∃ y, (t.slot c.wSlot).shard x.no = some y ∧ y.state = 4) ∧ s.sameMem t ∧ s.othersStand t k)) ∧
  (∀ (s : State) (n : Nat) (x : Shard), n < 8 → (∀ u ∈ s.steps, u.slot ≠ n) → (s.slot n).shards.find? (fun x => x.swapSince.isSome) = some x →
    (s.slot n).shard x.no = some x →
    ∃ t, exec (.repairSwap n) s = .next t ∧ (t.slot n).shard x.no = some { x with repair := [], swapSince := none, bad := [] } ∧
      t.mem = (s.imageWrite n x.off ((List.range x.len).map (fun i => (aFind x.repair i).getD 0))).mem ∧
      (∀ l ∈ t.launches, l.repairOn.take 2 ≠ [n, x.no]) ∧ s.counted t LOAD.REPAIR.SWAPPED 1 ∧ t.cmds = s.cmds) ∧
  (∀ (s : State) (i k : Nat) (l : Launch) (c : Cmd), s.launch i = some l → l.repairOn ≠ [] →
    l.repairOn.getD 2 0 + s.rd LOAD.INTAKE_CTL.TIMEOUT_S * 1_000_000_000 ≤ s.now → l.ended = none → l.cmd = some k → c ∈ s.cmds → c.id = k →
    c.status = none →
    ∃ t, exec (.repairWaitTimeout i) s = .next t ∧ t.ended k stFaulted 0x0505 0 0 0 ∧ (∀ x ∈ t.launches, x.id ≠ i) ∧ s.sameMem t) ∧
  (∀ (s : State) (k : Nat) (c : Cmd), s.cmdAt k 0x63 = some c → bit (c.p 0) 3 = false → checkModelSwitch s c = none →
    (∀ w, s.switchOf c.context = some w → w.cmd ≠ k) →
    ∃ t, exec (.modelSwitch k) s = .next t ∧ t.runs k ∧
      t.switchOf c.context = some ⟨c.context, c.wSlot, c.p 1 % 2 ^ 32, bit (c.p 1) 32, k⟩ ∧
      (∀ w d, s.switchOf c.context = some w → d ∈ s.cmds → d.id = w.cmd → d.status = none → t.ended w.cmd stJobAborted 0 0 0 0) ∧ s.sameRegs t [7] ∧
      (∀ w, s.switchOf c.context = some w → w.slot ≠ s.ctxSlot c.context → ∀ r ∈ t.routers, r.ctx = c.context → r.slot ≠ w.slot) ∧
      s.sameParts t [.cmds, .doneCtr, .switches, .routers, .areas]) ∧
  (∀ (s : State) (k : Nat) (c : Cmd), s.cmdAt k 0x63 = some c → bit (c.p 0) 3 = true → checkModelSwitch s c = none →
    (∀ w, s.switchOf c.context = some w → w.cmd ≠ k) →
    ∃ t, exec (.modelSwitchCancel k) s = .next t ∧ t.ended k stDone 0 0 0 0 ∧ t.switchOf c.context = none ∧
      (∀ w d, s.switchOf c.context = some w → d ∈ s.cmds → d.id = w.cmd → d.status = none → t.ended w.cmd stJobAborted 0 0 0 0) ∧ s.sameRegs t [7] ∧
      (∀ w, s.switchOf c.context = some w → w.slot ≠ s.ctxSlot c.context → ∀ r ∈ t.routers, r.ctx = c.context → r.slot ≠ w.slot) ∧
      s.sameParts t [.cmds, .doneCtr, .switches, .routers, .areas]) ∧
  (∀ (s : State) (k : Nat) (c : Cmd), s.cmdAt k 0x64 = some c → s.cmdRunning k = none → checkModelRetire s c = none → s.slotState c.wSlot ≠ 1 →
    (s.slotRead c.wSlot = false → ∃ t, exec (.modelRetire k) s = .next t ∧ t.ended k stDone 0 0 0 0 ∧ t.slotState c.wSlot = 0 ∧
      aFind t.slots c.wSlot = none ∧ (∀ v ∈ t.variants, v.slot ≠ c.wSlot) ∧ s.sameMem t ∧ s.othersStand t k) ∧
    (s.slotRead c.wSlot = true → ∃ t, exec (.modelRetire k) s = .next t ∧ t.runs k ∧ t.slotState c.wSlot = 4 ∧
      (∀ v ∈ t.variants, v.slot ≠ c.wSlot) ∧ s.sameMem t ∧ s.othersStand t k)) ∧
  (∀ (s : State) (k : Nat) (c : Cmd), s.cmdAt k 0x64 = some c → s.cmdRunning k = none → checkModelRetire s c = none → s.slotState c.wSlot = 1 →
    (s.slot c.wSlot).stageCmd ≠ some k → (∀ x ∈ (s.slot c.wSlot).shards, x.cmd ≠ some k) →
    ∃ t, exec (.modelRetire k) s = .next t ∧ t.ended k stDone 0 0 0 0 ∧ t.slotState c.wSlot = 0 ∧ aFind t.slots c.wSlot = none ∧
      (∀ d j, (s.slot c.wSlot).stageCmd = some j → d ∈ s.cmds → d.id = j → d.status = none → (∀ x ∈ (s.slot c.wSlot).shards, x.cmd ≠ some j) →
        t.ended j stJobAborted 0x0E01 0 0 0))

/-- A link moves between the states of Table 12-3: it trains within 50 ms and is UP with its flit numbers and the delay new, or goes DOWN
with cause 4 and trains again a second later; a DOWN link that was powered up trains when its partner does; a replay limit reached and a
loss of lock take it DOWN with causes 2 and 5; a failed lane is swapped for a free stock lane, and takes it DOWN with cause 3 where none is
free; the swap done, it is UP, and a lane that trains again takes back its place (R274, R277–R280). A flit with a bad CRC is answered NAK,
and the next one in order is acknowledged (R274). LINK_ADMIN takes links DOWN and UP, and lanes out and back (R302).
Where the rules leave a reading open, it is the model's: log entry 13. -/
def Obligations.LinksMoveBetweenTheirStates : Prop :=
  (∀ (s : State) (l delay : Nat), l < 96 → s.linkState l = 1 → s.now ≤ (s.link l).trainSince + 50_000_000 →
    ∃ t, exec (.linkTrained l delay) s = .next t ∧ t.linkState l = 2 ∧ t.rd (FAB.LINK_STATUS.DOWN_CAUSE l) = 0 ∧ t.logged 0x0301 l 2 1 ∧
      (t.link l).rxSeq = 4095 ∧ aFind t.fabric.delays (l / 8) = some delay ∧ (∃ b, Output.hello (l / 8) b ∈ t.out) ∧ s.sameMem t) ∧
  (∀ (s : State) (l : Nat), l < 96 → s.linkState l = 1 → (s.link l).trainSince + 50_000_000 ≤ s.now →
    ∃ t, exec (.linkTrainingTimeout l) s = .next t ∧ t.linkState l = 0 ∧ t.rd (FAB.LINK_STATUS.DOWN_CAUSE l) = 4 ∧
      (t.link l).retrainAt = some (s.now + 1_000_000_000) ∧ t.logged 0x0301 l 0x400 1 ∧ s.sameMem t) ∧
  (∀ (s : State) (l at' : Nat), l < 96 → s.linkState l = 0 → (s.link l).retrainAt = some at' → at' ≤ s.now → (s.link l).stopped = false →
    ∃ t, exec (.linkRetrain l) s = .next t ∧ t.linkState l = 1 ∧ (t.link l).trainSince = s.now ∧ t.cmds = s.cmds ∧ s.sameMem t) ∧
  (∀ (s : State) (l : Nat), l < 96 → s.linkState l = 0 → (s.link l).enabled = true → (s.link l).stopped = false →
    ∃ t, exec (.trainingSeenFromPartner l) s = .next t ∧ t.linkState l = 1 ∧ (t.link l).trainSince = s.now ∧ t.cmds = s.cmds ∧ s.sameMem t) ∧
  (∀ (s : State) (l : Nat), l < 96 → s.linkState l = 2 → s.rd FAB.LINK_CTL.REPLAY_LIMIT ≤ (s.link l).replays →
    ∃ t, exec (.linkReplayFailure l) s = .next t ∧ t.linkState l = 0 ∧ t.rd (FAB.LINK_STATUS.DOWN_CAUSE l) = 2 ∧ t.logged 0x0301 l 0x200 2) ∧
  (∀ (s : State) (l lane : Nat), l < 96 → s.linkState l = 2 →
    (lane = 2 → ∃ t, exec (.laneFailure l lane) s = .next t ∧ t.linkState l = 0 ∧ t.rd (FAB.LINK_STATUS.DOWN_CAUSE l) = 5) ∧
    (lane < 2 → s.rd (FAB.PORT_STATUS.STOCK_FREE (l / 8)) ≠ 1 →
      ∃ t, exec (.laneFailure l lane) s = .next t ∧ t.linkState l = 0 ∧ t.rd (FAB.LINK_STATUS.DOWN_CAUSE l) = 3) ∧
    (lane < 2 → s.rd (FAB.PORT_STATUS.STOCK_FREE (l / 8)) = 1 →
      ∃ t, exec (.laneFailure l lane) s = .next t ∧ t.linkState l = 3 ∧ t.rd (FAB.PORT_STATUS.STOCK_FREE (l / 8)) = 0 ∧
        t.rd (FAB.PORT_STATUS.STOCK_LINK (l / 8)) = l % 8 ∧ t.rd (FAB.PORT_STATUS.STOCK_LANE (l / 8)) = lane)) ∧
  (∀ (s : State) (l : Nat), l < 96 → s.linkState l = 3 →
    ∃ t, exec (.laneSwap l) s = .next t ∧ t.linkState l = 2 ∧ t.rd (FAB.LINK_STATUS.ON_STOCK l) = b2n (s.link l).swapIn ∧
      t.rd (FAB.LINK_STATUS.HELD_OUT l) = b2n ((s.link l).swapIn && (s.link l).swapHold) ∧
      t.logged 0x0302 (l / 8) (l % 8) ((s.link l).swapLane + b2n (!(s.link l).swapIn) * 2 ^ 8) ∧
      ((s.link l).swapIn = false → t.rd (FAB.PORT_STATUS.STOCK_FREE (l / 8)) = 1)) ∧
  (∀ (s : State) (l lane : Nat), l < 96 → s.linkState l = 2 → (s.link l).badLane = some lane →
    (s.link l).heldOut = none ∨ (s.link l).admin.isSome = true →
    ∃ t, exec (.laneRetrained l lane) s = .next t ∧ t.linkState l = 3 ∧ (t.link l).swapIn = false ∧ (t.link l).swapLane = lane ∧ t.cmds = s.cmds) ∧
  (∀ (s : State) (l w : Nat) (b : List Nat), b.length = 256 → s.linkState l = 2 ∨ s.linkState l = 3 → w = leOf (b.take 8) →
    (leOf ((b.drop 248).take 4) ≠ crc32c (b.take 248) →
      ∃ t, exec (.flitReceive l b) s = .next t ∧ t.out = .flitAck l 1 (s.link l).rxSeq :: s.out ∧ s.allRegs t ∧ s.sameParts t [.out]) ∧
    (leOf ((b.drop 248).take 4) = crc32c (b.take 248) → bit w 24 = false → bits w 25 2 = 1 → bits w 0 12 = ((s.link l).rxSeq + 1) % 4096 →
      ∃ t, exec (.flitReceive l b) s = .next t ∧ t.out = .flitAck l 0 (bits w 0 12) :: s.out ∧ (t.link l).rxSeq = bits w 0 12 ∧
        (t.link l).replay = ((s.link l).acked (bits w 12 12)).replay ∧ s.allRegs t ∧ s.sameParts t [.out, .fabric])) ∧
  (∀ (s : State) (k : Nat) (c : Cmd), s.cmdAt k 0x83 = some c → c.adminOp = 0 → checkLinkAdmin s c = none →
    (∀ l ∈ c.adminLinks, (s.link l).admin ≠ some k ∧ (s.linkState l = 2 → (s.link l).replay = [])) →
    ∃ t, exec (.linkAdminDown k) s = .next t ∧ t.ended k stDone 0 (t.linkWords c.adminLink).1 (t.linkWords c.adminLink).2 0 ∧
      (∀ l ∈ c.adminLinks, s.linkState l = 2 → t.linkState l = 0 ∧ t.rd (FAB.LINK_STATUS.DOWN_CAUSE l) = 1)) ∧
  (∀ (s : State) (k : Nat) (c : Cmd), s.cmdAt k 0x83 = some c → c.adminOp = 1 → checkLinkAdmin s c = none →
    ((∀ l ∈ c.adminLinks, s.linkState l ≠ 0) → ∃ t, exec (.linkAdminUp k) s = .next t ∧
      s.onlyEnds t k stDone 0 (s.linkWords c.adminLink).1 (s.linkWords c.adminLink).2 0) ∧
    ((∃ l ∈ c.adminLinks, s.linkState l = 0) → ∃ t, exec (.linkAdminUp k) s = .next t ∧ t.runs k ∧
      ∀ l ∈ c.adminLinks, s.linkState l = 0 → (s.link l).stopped = false → t.linkState l = 1 ∧ (t.link l).admin = some k)) ∧
  (∀ (s : State) (k : Nat) (c : Cmd), s.cmdAt k 0x83 = some c → c.adminOp = 2 → checkLinkAdmin s c = none →
    ∃ t, exec (.toStock k) s = .next t ∧ t.runs k ∧ t.linkState c.adminLink = 3 ∧ (t.link c.adminLink).admin = some k ∧
      (t.link c.adminLink).swapHold = true ∧ t.rd (FAB.PORT_STATUS.STOCK_FREE (c.adminLink / 8)) = 0 ∧ s.othersStand t k) ∧
  (∀ (s : State) (k : Nat) (c : Cmd), s.cmdAt k 0x83 = some c → c.adminOp = 3 → checkLinkAdmin s c = none →
    ∃ t, exec (.fromStock k) s = .next t ∧ t.runs k ∧ (t.link c.adminLink).admin = some k ∧ (t.link c.adminLink).trainSince = s.now ∧
      s.allRegs t ∧ s.othersStand t k ∧ s.sameParts t [.cmds, .fabric])

/-- A packet for another module leaves in its turn over the link its route gives, waits while that has no room, and is discarded and counted where
there is no way out; one older than its lifetime is discarded and counted (R281, R282, R284–R286). A LOAD is answered with the bytes of its home; a write is applied once, and a
retry of it is answered from the result store without being applied (R288, R295, R296). The first answer to a request ends it and any other is
discarded and counted; a request unanswered for RETRY_US goes again with RETRY set on the next route (R297). A TIME packet is sent on every
UP port each 10 µs, and one from the neighbour nearest to the time source sets the time base to it with the link's delay (R301).
The errors that a read meets are taken first (R129, R130).
Where the rules leave a reading open, it is the model's: log entries 12 and 14. -/
def Obligations.PacketsAreForwardedServedAnsweredAndRetried : Prop :=
  (∀ (s : State) (i : Nat) (p : Packet), s.inboxAt i = some p → knownOp p.op = true → s.mine p = false →
    s.tooOld p = false →
    (s.wayOut p = none → ∃ t, exec (.packetForward i) s = .next t ∧ t.fabric.inbox = s.fabric.inbox.eraseIdx i ∧
      s.counted t FAB.REQUESTS.NO_ROUTE 1 ∧ s.sameBut t [FAB.REQUESTS.NO_ROUTE] ∧ s.sameParts t [.fabric]) ∧
    (s.rd (FAB.ROUTE.VALID p.dest) ≠ 1 → s.wayOut p = none) ∧
    (∀ (h : Hop) (q l vc : Nat), s.rd (FAB.ROUTE.VALID p.dest) = 1 → s.hop p.dest p.route = some h →
      h.ports.find? (fun q => s.portUp q && s.rd (TOPO.NB_INFO.STATE q) != 2) = some q →
      l = (s.upLinks q).getD (Config.linkHash p.dest (p.offset / 256) % (s.upLinks q).length) (8 * q) → vc = p.vc (s.hopClass p h) →
      (s.outTurn i p (q, vc) = true → s.linkTakes l vc p.flits.length = true →
        ∃ t, exec (.packetForward i) s = .next t ∧ t.fabric.inbox = s.fabric.inbox.eraseIdx i ∧
          t.out = .packet l vc ([p.w0, p.w1] ++ p.data) :: s.out ∧ s.allRegs t ∧ s.sameParts t [.out, .fabric]) ∧
      (s.outTurn i p (q, vc) = false ∨ s.linkTakes l vc p.flits.length = false → exec (.packetForward i) s = .next s))) ∧
  (∀ (s : State) (i : Nat) (p : Packet), s.inboxAt i = some p → s.rd FAB.LINK_CTL.LIFETIME_US < s.packetAge p →
    ∃ t, exec (.packetLifetimeExpiry i) s = .next t ∧ t.fabric.inbox = s.fabric.inbox.eraseIdx i ∧ s.counted t FAB.REQUESTS.LIFETIME 1 ∧
      s.sameBut t [FAB.REQUESTS.LIFETIME] ∧ s.sameParts t [.fabric]) ∧
  (∀ (s₀ s : State) (i : Nat) (p : Packet) (ce ue : List Nat), s = s₀.readErrors ce ue →
    s.inboxAt i = some p → p.dest = s.chip → s.rd TOPO.PARTITION.STATE ≠ 0 → p.epoch = s.rd FAB.EPOCH.EPOCH →
    s.tooOld p = false → p.host = 0 → s.notFirst i p = false → s.homeHolds p = false → s.fwds = [] → mayReach p = true → typeOk p = true →
    (∀ leaf, s.homeLeaf p.offset = some leaf → lfState leaf ≠ 3) →
    (p.op = 0x01 → ∃ t a, exec (.fabricRequestServe i ce ue) s₀ = .next t ∧ s.sameMem t ∧ t.fabric.inbox = s.fabric.inbox.eraseIdx i ++ [a] ∧
      a.op = 0x20 ∧ a.dest = p.src ∧ a.tag = p.tag ∧ a.poison = false ∧ a.data = nats (memBytes s.mem (devKey p.offset) (64 * p.units))) ∧
    (∀ r, opIsWrite p.op = true → s.fabric.results.find? (fun r => r.unit == homeUnit p.offset p.host && r.src == p.src && r.tag == p.tag) = some r →
      ∃ t a, exec (.fabricRequestServe i ce ue) s₀ = .next t ∧ s.sameMem t ∧ t.fabric.inbox = s.fabric.inbox.eraseIdx i ++ [a] ∧ a.dest = p.src ∧
        a.tag = p.tag ∧ a.data = r.data ∧ s.counted t FAB.RESULT_STORE.ANSWERED 1) ∧
    (p.op = 0x02 → p.data.length = 64 * p.units →
      s.fabric.results.find? (fun r => r.unit == homeUnit p.offset p.host && r.src == p.src && r.tag == p.tag) = none →
      ∃ t a, exec (.fabricRequestServe i ce ue) s₀ = .next t ∧ memBytes t.mem (devKey p.offset) (64 * p.units) = toBytes p.data ∧
        (∀ b, b < devKey p.offset ∨ devKey p.offset + 64 * p.units ≤ b → memByte t.mem b = memByte s.mem b) ∧
        t.fabric.inbox = s.fabric.inbox.eraseIdx i ++ [a] ∧ a.op = 0x21 ∧ a.dest = p.src ∧ a.tag = p.tag ∧
        (∃ r ∈ t.fabric.results, r.unit = homeUnit p.offset p.host ∧ r.src = p.src ∧ r.tag = p.tag))) ∧
  (∀ (s : State) (i : Nat) (p : Packet), s.inboxAt i = some p → p.dest = s.chip → p.op = 0x20 ∨ p.op = 0x21 ∨ p.op = 0x22 →
    p.epoch = s.rd FAB.EPOCH.EPOCH → s.tooOld p = false →
    (s.answered p = none → ∃ t, exec (.fabricAnswerReceive i) s = .next t ∧ t.fabric.inbox = s.fabric.inbox.eraseIdx i ∧
      s.counted t FAB.REQUESTS.DUP_ANSWERS 1 ∧ s.sameBut t [FAB.REQUESTS.DUP_ANSWERS] ∧ s.sameParts t [.fabric]) ∧
    (∀ r, s.answered p = some r → p.op = 0x20 → r.who.kind < 100 → r.who.kind ∉ [0, 1, 7] → p.poison = false →
      ∃ t g, exec (.fabricAnswerReceive i) s = .next t ∧ (∀ q ∈ t.fabric.reqs, q.id ≠ r.id) ∧ g ∈ t.fabric.got ∧ g.who = r.who ∧
        g.chip = r.target ∧ g.off = r.offset ∧ g.bytes = p.data.take 64 ∧ s.sameMem t)) ∧
  (∀ (s : State) (id : Nat) (r : FabReq), s.fabric.reqs.find? (fun r => r.id == id && !r.waiting) = some r →
    r.lastSent + 1000 * s.rd FAB.LINK_CTL.RETRY_US ≤ s.now →
    ∃ t p, exec (.fabricRetry id) s = .next t ∧ t.fabric.inbox = s.fabric.inbox ++ [p] ∧ p.retry = true ∧ p.route = (r.route + 1) % 4 ∧
      (∃ q ∈ t.fabric.reqs, q.id = id ∧ q.tries = r.tries + 1 ∧ q.route = (r.route + 1) % 4 ∧ q.lastSent = s.now) ∧
      s.counted t FAB.REQUESTS.RETRIES 1 ∧ s.sameBut t [FAB.REQUESTS.RETRIES, FAB.HUNG.NOW] ∧ s.sameParts t [.fabric]) ∧
  (∀ (s : State), (s.now < s.fabric.nextTime → exec .timeSend s = .next s) ∧
    (s.fabric.nextTime ≤ s.now → ∃ t, exec .timeSend s = .next t ∧ t.fabric.nextTime = s.now + 10_000 ∧ s.allRegs t ∧
      s.sameParts t [.out, .fabric] ∧ ∀ q l, q < 12 → (s.upLinks q).find? (fun l => s.linkTakes l 4 2) = some l → ∃ f, Output.packet l 4 f ∈ t.out)) ∧
  (∀ (s : State) (i : Nat) (p : Packet), s.inboxAt i = some p → p.op = 0x41 → s.rd TOPO.PARTITION.STATE ≠ 0 → s.timeSource ≠ s.chip →
    s.portToward s.timeSource p.port = true → 0 ≤ (s.now : Int) + s.fabric.timeOffset →
    ∃ t, exec (.timeReceive i) s = .next t ∧ t.timeBase = leOf (p.data.take 8) + (aFind s.fabric.delays p.port).getD 0 ∧
      t.rd FAB.TIME.SOURCE = s.timeSource % 2 ^ 12 ∧ s.sameBut t [FAB.TIME.OFFSET_NS, FAB.TIME.SOURCE, FAB.TIME.LOCKED] ∧
      s.sameParts t [.fabric, .mgmt])

/-- A hello on an ABSENT port makes its neighbour PRESENT, or MISMATCH where it came from another port than the one paired with it, with the
serial and chip it names; while Bimon runs a port without one for SILENT_TICKS ticks is ABSENT (R307). TOPO_QUERY returns the module's chip, partition and
epoch, its neighbours and its last loss (R320). PARTITION_FORM makes the module a member or donor of the table's partition in the epoch
given, with a route to every entry; PARTITION_RESHAPE keeps or drops it (R316). An abort of the next epoch, received or made by JOB_ABORT,
advances the epoch and leaves a RUNNING module ABORTED with its cause, origin and time (R299, R310, R311); a second JOB_ABORT has no effect,
and JOB_RESTART returns a member to RUNNING and takes a donor out (R319).
Where the rules leave a reading open, it is the model's: log entries 15 and 37. -/
def Obligations.PartitionsFormAbortAndRestart : Prop :=
  (∀ (s : State) (i : Nat) (p : Packet), s.inboxAt i = some p → p.op = 0x40 → p.port < 12 → s.rd (TOPO.NB_INFO.STATE p.port) = 0 →
    ∃ t, exec (.helloReceive i) s = .next t ∧
      t.rd (TOPO.NB_INFO.STATE p.port) = (if p.data.getD 12 0 % 16 = partnerPort p.port then 1 else 2) ∧
      t.rd (TOPO.NB_SERIAL.SERIAL p.port) = leOf (p.data.take 8) ∧ t.rd (TOPO.NB_INFO.CHIP p.port) = leOf ((p.data.drop 8).take 2) % 2 ^ 12 ∧
      t.neighbour p.port = ⟨p.data, 0⟩ ∧ t.fabric.inbox = s.fabric.inbox.eraseIdx i ∧ s.sameMem t) ∧
  (∀ (s : State) (p : Nat), p < 12 → s.bimon = true → s.rd (TOPO.NB_INFO.STATE p) = 1 → s.rd TOPO.CAPS.SILENT_TICKS ≤ (s.neighbour p).silent →
    ∃ t, exec (.neighbourSilent p) s = .next t ∧ t.rd (TOPO.NB_INFO.STATE p) = 0 ∧ t.logged 0x0303 p 0 (s.rd (TOPO.NB_SERIAL.SERIAL p)) ∧
      s.sameRegs t [10, 17] ∧ s.sameMem t) ∧
  (∀ (s : State) (k : Nat) (c : Cmd), s.cmdAt k 0x80 = some c → checkTopoQuery s c = none → c.p 1 = 0 →
    ∃ t, exec (.topoQuery k) s = .next t ∧ s.onlyEnds t k stDone 0
      (s.chip + s.rd TOPO.PARTITION.ID * 2 ^ 12 + s.rd TOPO.PARTITION.STATE * 2 ^ 28 + s.rd FAB.EPOCH.EPOCH * 2 ^ 32)
      (s.nbMask 1 + s.nbMask 2 * 2 ^ 12) s.lossWord) ∧
  (∀ (s : State) (k : Nat) (c : Cmd) (own : Member) (ms : List Member), s.cmdAt k 0x81 = some c → checkPartition true s c = none →
    ms = (s.tableOf c).map Prod.fst → s.ownEntry ms = some own →
    ∃ t, exec (.partitionForm k) s = .next t ∧ t.ended k stDone 0 0 0 0 ∧ t.rd TOPO.PARTITION.ID = c.partId ∧
      t.rd TOPO.PARTITION.STATE = (if own.donor then 3 else 1) ∧ t.topo.members = ms ∧ s.othersStand t k ∧
      (s.entries = [] → t.rd FAB.EPOCH.EPOCH = bits (c.p 0) 38 4 ∧ ∀ m ∈ ms, t.rd (FAB.ROUTE.VALID m.chip) = 1)) ∧
  (∀ (s : State) (k : Nat) (c : Cmd) (ms : List Member), s.cmdAt k 0x82 = some c → checkPartition false s c = none →
    ms = (s.tableOf c).map Prod.fst →
    (s.ownEntry ms = none → ∃ t, exec (.partitionReshape k) s = .next t ∧ t.ended k stDone 0 0 0 0 ∧ t.rd TOPO.PARTITION.STATE = 0 ∧
      t.rd TOPO.PARTITION.ID = 0 ∧ t.topo.members = [] ∧ s.othersStand t k) ∧
    (∀ own, s.ownEntry ms = some own → ∃ t, exec (.partitionReshape k) s = .next t ∧ t.ended k stDone 0 0 0 0 ∧
      t.rd TOPO.PARTITION.STATE = (if own.donor then 3 else 2) ∧ t.topo.members = ms ∧ s.othersStand t k)) ∧
  (∀ (s : State) (i : Nat) (p : Packet), s.inboxAt i = some p → p.op = 0x42 → s.rd TOPO.PARTITION.STATE = 1 →
    leOf (p.data.take 2) = s.rd TOPO.PARTITION.ID → p.data.getD 2 0 = (s.rd FAB.EPOCH.EPOCH + 1) % 16 →
    ∃ t, exec (.abortReceive i) s = .next t ∧ t.rd TOPO.PARTITION.STATE = 2 ∧ t.rd TOPO.LOSS.CAUSE = p.data.getD 3 0 % 16 ∧
      t.rd TOPO.LOSS.ORIGIN = leOf ((p.data.drop 4).take 2) % 2 ^ 12 ∧ t.rd TOPO.LOSS_TIME.TIME = s.timeBase % 2 ^ 64 ∧
      ((∀ n, s.handState n = 0) → t.rd FAB.EPOCH.EPOCH = (s.rd FAB.EPOCH.EPOCH + 1) % 16 ∧ s.counted t FAB.EPOCH.ABORTS 1)) ∧
  (∀ (s : State) (k : Nat) (c : Cmd), s.cmdAt k 0x86 = some c → checkJob [1, 2, 3] s c = none →
    (s.rd TOPO.PARTITION.STATE = 2 → ∃ t, exec (.jobAbort k) s = .next t ∧ s.onlyEnds t k stDone 0 (s.rd FAB.EPOCH.EPOCH) 0 0) ∧
    (s.rd TOPO.PARTITION.STATE = 1 → ∃ t, exec (.jobAbort k) s = .next t ∧ t.rd TOPO.PARTITION.STATE = 2 ∧ t.rd TOPO.LOSS.CAUSE = 2 ∧
      t.rd TOPO.LOSS.ORIGIN = s.chip % 2 ^ 12 ∧ t.rd TOPO.LOSS.LOST_CHIP = 0xFFF ∧
      ((∀ n, s.handState n = 0) → t.rd FAB.EPOCH.EPOCH = (s.rd FAB.EPOCH.EPOCH + 1) % 16 ∧ s.counted t FAB.EPOCH.ABORTS 1))) ∧
  (∀ (s : State) (k : Nat) (c : Cmd), s.cmdAt k 0x87 = some c → checkJob [2, 3] s c = none →
    ∃ t, exec (.jobRestart k) s = .next t ∧ t.ended k stDone 0 0 0 0 ∧ s.othersStand t k ∧
      t.rd TOPO.PARTITION.STATE = (if s.rd TOPO.PARTITION.STATE = 3 then 0 else 1) ∧
      (s.rd TOPO.PARTITION.STATE = 2 → t.rd PWR.JOB_ENERGY.MJ = 0 ∧ ∀ x ∈ s.ctxs.map Prod.fst, s.ofJob x = true → (t.ctx x).stepNo = 0))

/-- CAP_SET and a write of PWR.CAP store a cap of 2,400–5,400 W, the command running on until the tick that applies it; a value outside the
range is ignored (R420, R430, R433). ENERGY_READ returns the energy counts (R430). PHASE_HINT tags its context and forgets what a phase has
learnt, rails in that phase turning to its voltage (R422, R423). PACE_ADJUST lowers a die's pace by one where its average is over its limit
and its pace has stood 1 µs, and raises it by one below 95% of it where it has stood 10 µs, within 1 and the highest allowed (R418). The
thermal cut ends after 1,000 cool ticks, a heat sensor silent for three ticks reads 100 °C, and a junction at 115 °C latches the main rails
off (R425, R426). A failed phase of a rail leaves it and is replaced from stock at a tick boundary (R416, R4). The cap before a warning
applies again a second after its release (R405).
Where the rules leave a reading open, it is the model's: log entry 31. -/
def Obligations.PowerKeepsItsCapPaceAndThresholds : Prop :=
  (∀ (s : State) (k : Nat) (c : Cmd), s.cmdAt k 0x90 = some c → checkCapSet s c = none →
    ∃ t, exec (.capSet k) s = .next t ∧ t.runs k ∧ t.rd PWR.CAP.WATTS = c.p 0 ∧ s.sameBut t [PWR.CAP.WATTS] ∧ s.othersStand t k ∧
      s.sameParts t [.cmds, .power]) ∧
  (∀ (s : State) (src value : Nat), src = 2 ∨ s.reaches src = true → s.mainOn = true →
    (2400 ≤ value % 2 ^ 13 → value % 2 ^ 13 ≤ 5400 → ∃ t, exec (.pwrCapWrite src value) s = .next t ∧ t.rd PWR.CAP.WATTS = value % 2 ^ 13 ∧
      s.sameBut t [PWR.CAP.WATTS] ∧ s.sameParts t [.power]) ∧
    (value % 2 ^ 13 < 2400 ∨ 5400 < value % 2 ^ 13 → exec (.pwrCapWrite src value) s = .next s)) ∧
  (∀ (s : State) (k : Nat) (c : Cmd), s.cmdAt k 0x91 = some c → checkEnergyRead s c = none →
    ∃ t, exec (.energyRead k) s = .next t ∧ s.onlyEnds t k stDone 0 (s.rd PWR.ENERGY.MJ) (s.rd PWR.JOB_ENERGY.MJ)
      (if c.context = 0xFFFF then 0 else (s.account c.context).energyUj / 1000)) ∧
  (∀ (s : State) (k : Nat) (c : Cmd), s.cmdAt k 0x92 = some c → checkPhaseHint s c = none →
    ∃ t, exec (.phaseHint k) s = .next t ∧ t.ended k stDone 0 0 0 0 ∧ (t.ctx c.context).phaseHint = !bit (c.p 0) 6 ∧
      (t.ctx c.context).phase = bits (c.p 0) 0 6 ∧ s.othersStand t k ∧ s.sameParts t [.cmds, .doneCtr, .ctxs, .power] ∧ s.sameRegs t [13] ∧
      (bit (c.p 0) 7 = true → 16 ≤ bits (c.p 0) 0 6 → t.rd (PWR.PHASE.VCODE (bits (c.p 0) 0 6)) = 26 ∧
        t.rd (PWR.PHASE.LEARNT (bits (c.p 0) 0 6)) = 0 ∧
        ∀ d < 8, s.rd (PWR.DIE_STATUS.TAG d) = bits (c.p 0) 0 6 → s.mainOn = true → t.rd (PWR.DIE_STATUS.VCODE d) = 26) ∧
      (bit (c.p 0) 7 = false ∨ bits (c.p 0) 0 6 < 16 → s.allRegs t ∧ t.power = s.power)) ∧
  (∀ (s : State) (d avg p : Nat), d < 8 → s.mainOn = true → p = s.rd (PWR.DIE_STATUS.PACE d) → p ≤ 64 →
    ∃ t, exec (.paceAdjust d avg) s = .next t ∧ t.rd (PWR.DIE_STATUS.POWER_W d) = min avg 2047 ∧
      t.rd (PWR.DIE_STATUS.LIMITED d) = b2n (decide (s.dieLimit d < avg)) ∧
      (s.dieLimit d < avg → (∀ x, aFind s.power.paceAt d = some x → x + 1000 ≤ s.now) → t.rd (PWR.DIE_STATUS.PACE d) = max 1 (p - 1)) ∧
      (avg ≤ s.dieLimit d → 100 * avg < 95 * s.dieLimit d → (∀ x, aFind s.power.paceAt d = some x → x + 10_000 ≤ s.now) →
        t.rd (PWR.DIE_STATUS.PACE d) = min (if s.rd PWR.LIMIT_NOW.PWARN = 1 then 1 else 64) (p + 1)) ∧
      (avg ≤ s.dieLimit d → 95 * s.dieLimit d ≤ 100 * avg → t.rd (PWR.DIE_STATUS.PACE d) = p) ∧
      s.sameBut t [PWR.DIE_STATUS.LIMIT_W d, PWR.DIE_STATUS.POWER_W d, PWR.DIE_STATUS.LIMITED d, PWR.DIE_STATUS.PACE d] ∧ s.sameParts t [.power]) ∧
  (∀ (s : State), s.rd PWR.THERM.CUT = 1 → 1000 ≤ s.power.cool →
    ∃ t, exec .thermalCutClear s = .next t ∧ t.rd PWR.THERM.CUT = 0 ∧ t.rd PWR.LIMIT_NOW.THERMAL = 0 ∧
      s.sameBut t [PWR.THERM.CUT, PWR.LIMIT_NOW.THERMAL] ∧ s.sameParts t [.power]) ∧
  (∀ (s : State) (n : Nat), s.mainOn = true → s.bimon = true → 3 ≤ (aFind s.power.missing n).getD 0 →
    ∃ t, exec (.sensorFail n) s = .next t ∧ t.heatOf n = 400 ∧ t.rd PWR.THERM.SENSOR_FAIL = 1 ∧ s.sameBut t [PWR.THERM.SENSOR_FAIL] ∧
      s.sameParts t [.power]) ∧
  (∀ (s : State) (n reading : Nat), 460 ≤ reading → heatSensor n = true → s.mgmt.standby = true →
    ∃ t, exec (.thermalTrip n reading) s = .next t ∧ t.mgmt.railsAt = none ∧ t.mgmt.latched = true ∧ t.rd DISC.OUTPUTS.THERM_TRIP = 1 ∧
      t.rd DISC.FAULT_CAUSE.THERM_TRIP = 1 ∧ t.rd DISC.OUTPUTS.FAULT = 1 ∧ t.logged 0x0702 n reading 0 ∧
      (s.mgmt.railsAt.isSome = true → t.rd MGMT.STATUS.MAIN_ON = 0)) ∧
  (∀ (s : State) (rail phase : Nat), s.mgmt.railsAt.isSome = true → rail < 8 → phase < 24 → s.unitState 4 rail phase = 0 →
    ∃ t, exec (.phaseFault rail phase) s = .next t ∧ t.unitState 4 rail phase = 2 ∧ (rail, phase, s.now) ∈ t.power.phases ∧
      s.counted t PWR.EVENTS.PHASE_FAILS 1 ∧ s.sameMem t ∧ t.cmds = s.cmds) ∧
  (∀ (s : State) (rail phase u at' : Nat), rail < 8 → phase < 24 → s.tickSince at' = true →
    s.power.phases.find? (fun p => p.1 == rail) = some (rail, phase, at') → (s.unitsIn 4 rail 1).head? = some u → u ≠ phase →
    ∃ t, exec (.phaseStockDraw rail []) s = .next t ∧ t.unitState 4 rail phase = 4 ∧ t.unitState 4 rail u = 0 ∧
      (rail, phase, at') ∉ t.power.phases ∧ s.counted t STOCK.EVENTS.RETIREMENTS 1 ∧ s.counted t STOCK.EVENTS.DRAWS 1 ∧ t.logged 0x0703 rail phase u ∧ t.cmds = s.cmds) ∧
  (∀ (s : State) (at' : Nat), s.power.released = some at' → s.bimon = true → at' + 1_000_000_000 ≤ s.now → s.power.capSet = false →
    s.effective 1 = false →
    ∃ t, exec .pwarnCapRestore s = .next t ∧ t.rd PWR.CAP.WATTS = s.power.capBefore % 2 ^ 13 ∧ t.power.restore = true ∧
      s.sameBut t [PWR.CAP.WATTS] ∧ s.sameParts t [.power])

/-- A discrete input that changes shows its filtered level and its effective one (R401). EPO_N latches the main rails off (R404); PWARN_N
puts every die at its minimum pace until it is released and a cap comes (R405); COOL_ALM_N halves the cap and every die's limit at once
(R406); TRAY_SEAT_N is recorded (Table 17-5); DRAIN_REQ_N asks for a drain, and is ignored once it has been asserted for 600 s (R321, R403);
65 transitions in a second latch CHATTER, which a write of 1 clears after 10 quiet seconds (R402); PERST_N resets its port and lets it
train again (R383, R490); SB_RESET_N stops the side-band port and clears its addresses (R407).
Where the rules leave a reading open, it is the model's: log entry 28. -/
def Obligations.PinsActWhenTheirEffectiveLevelChanges : Prop :=
  (∀ (s : State), s.mgmt.standby = true → bit (s.rd DISC.INPUTS.LEVEL) 0 = false → s.effective 0 = false →
    ∃ t, exec (.epoNAssert 1) s = .next t ∧ bit (t.rd DISC.INPUTS.LEVEL) 0 = true ∧ t.effective 0 = true ∧ t.mgmt.railsAt = none ∧
      t.mgmt.latched = true ∧ t.rd DISC.FAULT_CAUSE.EPO = 1 ∧ t.rd DISC.OUTPUTS.FAULT = 1 ∧ t.logged 0x0602 0 0 0 ∧
      s.counted t (DISC.IN_LOG.TRANSITIONS 0) 1) ∧
  (∀ (s : State), s.mgmt.standby = true → s.mainOn = true → bit (s.rd DISC.INPUTS.LEVEL) 1 = false → s.effective 1 = false →
    ∃ t, exec .pwarnNAssert s = .next t ∧ t.effective 1 = true ∧ (∀ d < 8, t.rd (PWR.DIE_STATUS.PACE d) = 1) ∧ t.rd PWR.LIMIT_NOW.PWARN = 1 ∧
      s.counted t PWR.EVENTS.PWARNS 1 ∧ t.score.flushDue = true ∧ t.logged 0x0603 0 1 (s.rd PWR.CAP.WATTS) ∧ s.sameMem t) ∧
  (∀ (s : State), s.mgmt.standby = true → bit (s.rd DISC.INPUTS.LEVEL) 1 = true → bit (s.rd DISC.INPUTS.CHATTER) 1 = false → s.effective 1 = true →
    ∃ t, exec .pwarnNRelease s = .next t ∧ t.effective 1 = false ∧ t.power.released = some s.now ∧ t.logged 0x0603 0 0 (s.rd PWR.CAP.WATTS) ∧
      s.sameRegs t [15, 17] ∧ s.sameMem t) ∧
  (∀ (s : State), s.mgmt.standby = true → s.mainOn = true → bit (s.rd DISC.INPUTS.LEVEL) 2 = false → s.effective 2 = false →
    s.rd PWR.LIMIT_NOW.COOLANT ≠ 1 →
    ∃ t, exec .coolAlmNAssert s = .next t ∧ t.effective 2 = true ∧ t.rd PWR.LIMIT_NOW.COOLANT = 1 ∧ s.counted t PWR.EVENTS.COOL_ALARMS 1 ∧
      t.rd PWR.LIMIT_NOW.LIMIT_W = t.limitL % 2 ^ 13 ∧
      (∀ d < 8, aFind t.power.limits d = some ((aFind s.power.limits d).getD (s.railWatts d) / 2)) ∧ t.logged 0x0604 0 1 (s.rd PWR.CAP.WATTS)) ∧
  (∀ (s : State), s.mgmt.standby = true → bit (s.rd DISC.INPUTS.LEVEL) 2 = true → bit (s.rd DISC.INPUTS.CHATTER) 2 = false → s.effective 2 = true →
    ∃ t, exec .coolAlmNRelease s = .next t ∧ t.effective 2 = false ∧ t.logged 0x0604 0 0 (s.rd PWR.CAP.WATTS) ∧ s.sameRegs t [15, 17] ∧ s.sameMem t) ∧
  (∀ (s : State) (level : Nat), s.mgmt.standby = true → bit (s.rd DISC.INPUTS.LEVEL) 3 = !(level == 1) → bit (s.rd DISC.INPUTS.CHATTER) 3 = false →
    ∃ t, exec (.traySeatNChange level) s = .next t ∧ bit (t.rd DISC.INPUTS.LEVEL) 3 = (level == 1) ∧ t.logged 0x0607 3 (b2n (!(level == 1))) 0 ∧
      s.sameRegs t [15, 17] ∧ s.sameMem t) ∧
  (∀ (s : State), s.mgmt.standby = true → bit (s.rd DISC.INPUTS.LEVEL) 4 = false → bit (s.rd DISC.INPUTS.CHATTER) 4 = false →
    bit (s.rd DISC.INPUTS.STUCK) 4 = false → s.effective 4 = false →
    ∃ t, exec .drainReqNAssert s = .next t ∧ t.effective 4 = true ∧ t.rd TOPO.DRAIN.REQUESTED = 1 ∧ t.mgmt.drainSince = some s.now ∧ s.sameMem t) ∧
  (∀ (s : State), s.mgmt.standby = true → bit (s.rd DISC.INPUTS.LEVEL) 4 = true →
    ∃ t, exec .drainReqNRelease s = .next t ∧ t.effective 4 = false ∧ t.mgmt.drainSince = none ∧ bit (t.rd DISC.INPUTS.STUCK) 4 = false ∧
      (s.effective 4 = true → t.rd TOPO.DRAIN.REQUESTED = 0) ∧ s.sameMem t) ∧
  (∀ (s : State) (at' : Nat), s.mgmt.drainSince = some at' → at' + 600_000_000_000 ≤ s.now → bit (s.rd DISC.INPUTS.STUCK) 4 = false →
    ∃ t, exec .drainStuck s = .next t ∧ bit (t.rd DISC.INPUTS.STUCK) 4 = true ∧ t.rd TOPO.DRAIN.STUCK = 1 ∧ t.effective 4 = false ∧
      t.logged 0x0601 4 2 1 ∧ s.sameMem t) ∧
  (∀ (s : State) (i : Nat), i < 8 → 65 ≤ ((s.pinMoves i).filter (fun t => decide (s.now < t + 1_000_000_000))).length →
    bit (s.rd DISC.INPUTS.CHATTER) i = false →
    ∃ t, exec (.chatterSet i) s = .next t ∧ bit (t.rd DISC.INPUTS.CHATTER) i = true ∧
      t.effective i = (if i = 3 ∨ i = 4 then false else true)) ∧
  (∀ (s : State) (src value i : Nat), s.mgmt.standby = true → src = 2 ∨ s.reaches src = true → i < 8 →
    ∃ t, exec (.chatterClear src value) s = .next t ∧
      (bit value (8 + i) = true → s.pinQuiet i = true → bit (t.rd DISC.INPUTS.CHATTER) i = false) ∧
      (bit value (8 + i) = false ∨ s.pinQuiet i = false → bit (t.rd DISC.INPUTS.CHATTER) i = bit (s.rd DISC.INPUTS.CHATTER) i)) ∧
  (∀ (s : State) (h : Nat), h < 2 → s.mgmt.standby = true → bit (s.rd DISC.INPUTS.LEVEL) (5 + h) = false → s.effective (5 + h) = false →
    ∃ t, exec (.perstNAssert h) s = .next t ∧ t.effective (5 + h) = true ∧ (t.port h).perst = true ∧ t.rd (HIF.PORT_STATUS.LINK_UP h) = 0 ∧
      t.rd (HIF.PORT_STATUS.BME h) = 0 ∧ t.rd (HIF.PORT_STATUS.MSE h) = 0 ∧
      (s.hostState h = 2 → t.hostState h = 3 ∧ t.rd (HIF.PORT_STATUS.LOSS_CAUSE h) = 2)) ∧
  (∀ (s : State) (h : Nat), h < 2 → s.mgmt.standby = true → bit (s.rd DISC.INPUTS.LEVEL) (5 + h) = true →
    bit (s.rd DISC.INPUTS.CHATTER) (5 + h) = false → s.effective (5 + h) = true →
    ∃ t, exec (.perstNDeassert h) s = .next t ∧ t.effective (5 + h) = false ∧ (t.port h).perst = false ∧
      (s.rd CLK.ROOT.READY = 1 → s.rd (CLK.DOM.STOPPED (80 + h)) ≠ 1 → s.rd (CLK.DOM.GATED (80 + h)) ≠ 1 → (t.port h).training = true)) ∧
  (∀ (s : State), s.mgmt.standby = true → bit (s.rd DISC.INPUTS.LEVEL) 7 = false → s.effective 7 = false →
    ∃ t, exec .sbResetNAssert s = .next t ∧ t.effective 7 = true ∧ t.sbUp = false ∧ s.sameRegs t [15] ∧ s.sameMem t ∧ t.cmds = s.cmds) ∧
  (∀ (s : State), s.mgmt.standby = true → bit (s.rd DISC.INPUTS.LEVEL) 7 = true → bit (s.rd DISC.INPUTS.CHATTER) 7 = false → s.effective 7 = true →
    ∃ t, exec .sbResetNDeassert s = .next t ∧ t.effective 7 = false ∧ t.rd MGMT.SB_STATUS.DYN_ADDR = 0 ∧ t.rd MGMT.SB_STATUS.ADDR_VALID = 0 ∧
      t.rd MGMT.SB_STATUS.EID = 0 ∧ t.rd MGMT.SB_STATUS.EID_VALID = 0 ∧ t.mgmt.receiver = none ∧ (∀ c ∈ t.cmds, c.src = 2 → c.gone = true))

/-- The standby input starts the module: what its ROM and loader verify is measured and Bimon runs with the chip number of the straps, host
memory alone being kept; without it the module stands with its flash (R308, R449, R450, R463, R481). The main rails start once a tick
boundary has found that R483 allows it and it still does, are good 20 ms later with no context or launch left, and are turned off by a loss of the main input or by a rail's failure (R481, R483–R485).
ROOT READY starts the links and ports training (R488–R490), and Amelo takes commands once a bank of it verifies, the rails being held off
otherwise (R449, R488). A tick is counted once a boundary, and worked where Bimon runs (R390, R391, R392); a watchdog restart discards the
side-band commands not handed over, and the third in 10 s leaves Bimon stopped (R392); a rack manager silent for SILENCE_S is recorded
(R410).
Where the rules leave a reading open, it is the model's: log entries 28, 29, 30 and 36. -/
def Obligations.TheModuleStartsTicksAndRestarts : Prop :=
  (∀ (s : State) (straps copies : Nat), s.mgmt.standby = false →
    ∃ t, exec (.standbyInputStart straps copies) s = .next t ∧ t.mgmt.standby = true ∧ (∀ a, a < hostKey 0 0 → memByte t.mem a = 0) ∧
      (∀ a, hostKey 0 0 ≤ a → memByte t.mem a = memByte s.mem a) ∧ t.cmds = [] ∧ t.ctxs = [] ∧
      (s.bootPick 0 = none ∨ s.bootPick 1 = none → t.rd MGMT.STATUS.BIMON = 0) ∧
      (∀ p q, s.bootPick 0 = some p → s.bootPick 1 = some q → t.rd MGMT.STATUS.BIMON = 1 ∧ t.rd TOPO.CHIP.STRAPS = straps % 4096 ∧
        (s.sec.override = none → t.chip = if 0xF00 ≤ straps % 4096 then 0xFFF else straps % 4096) ∧
        t.sec.stages.map Stage.typ = [0, 1, 2] ++ (if copies = 0 then [] else [3]) ∧ t.rd SEC.STATUS.RECORD_OK = b2n (copies != 0) ∧
        t.rd DISC.FAULT_CAUSE.RECORD_INVALID = b2n (copies == 0))) ∧
  (∀ (s : State), s.mgmt.standby = true →
    ∃ t, exec .standbyInputStop s = .next t ∧ t.mgmt.standby = false ∧ t.rd MGMT.STATUS.BIMON = 0 ∧ t.rd MGMT.STATUS.MAIN_ON = 0 ∧
      (∀ a, a < hostKey 0 0 → memByte t.mem a = 0) ∧ (∀ a, hostKey 0 0 ≤ a → memByte t.mem a = memByte s.mem a) ∧ t.score.ring = [] ∧
      t.score.flash = s.score.flash ∧ t.sec.floors = s.sec.floors ∧ t.sec.counter = s.sec.counter ∧ t.sec.reserved = s.sec.reserved ∧
      t.sec.owner = s.sec.owner) ∧
  (∀ (s : State), ∃ t, exec .mainInputStop s = .next t ∧ t.mgmt.mainIn = false ∧ t.mgmt.railsAt = none ∧
    (s.mgmt.railsAt.isSome = true → t.rd MGMT.STATUS.MAIN_ON = 0 ∧ t.rd DISC.OUTPUTS.DRAINED = 1 ∧ t.ctxs = [] ∧ t.launches = []) ∧
    s.score = t.score) ∧
  (∀ (s : State), s.mgmt.railsDue = true → s.railsMayStart = true →
    ∃ t, exec .mainRailStart s = .next t ∧ t.mgmt.railsAt = some s.now ∧ s.allRegs t ∧ s.sameParts t [.mgmt]) ∧
  (∀ (s : State), s.mgmt.railsDue = false ∨ s.railsMayStart = false → exec .mainRailStart s = .next s) ∧
  (∀ (s : State) (at' : Nat), s.mgmt.railsAt = some at' → s.mainOn = false → at' + 20_000_000 ≤ s.now →
    ∃ t, exec .mainPowerGood s = .next t ∧ t.mainOn = true ∧ t.rd CLK.INT.READY = 1 ∧ t.rd TOPO.PARTITION.STATE = 0 ∧ t.ctxs = [] ∧
      t.launches = [] ∧ t.rd TOPO.DRAIN.REQUESTED = b2n (s.effective 4) ∧ s.score = t.score) ∧
  (∀ (s : State), s.mgmt.railsAt.isSome = true → ∃ t, exec .railFailure s = .next t ∧ t.mgmt.railsAt = none ∧ t.rd MGMT.STATUS.MAIN_ON = 0 ∧
    t.rd DISC.FAULT_CAUSE.MODULE_FAILED = 1 ∧ t.rd DISC.OUTPUTS.FAULT = 1 ∧ t.rd DISC.OUTPUTS.DRAINED = 1) ∧
  (∀ (s : State), s.mainOn = true → s.rd CLK.ROOT.READY ≠ 1 →
    ∃ t, exec .rootReady s = .next t ∧ t.rd CLK.ROOT.READY = 1 ∧ t.rd CLK.ROOT.LOCKED = 1 ∧ t.rd CLK.ROOT.REF_FAILED = 0 ∧
      (∀ l < 96, (s.link l).enabled = false → (s.link l).stopped = false → t.linkState l = 1) ∧
      (∀ h < 2, (s.port h).perst = false → s.rd (CLK.DOM.STOPPED (80 + h)) ≠ 1 → s.rd (CLK.DOM.GATED (80 + h)) ≠ 1 →
        (t.port h).training = true) ∧ t.cmds = s.cmds ∧ s.sameMem t) ∧
  (∀ (s : State), s.mainOn = true → s.rd CLK.ROOT.READY = 1 → s.mgmt.amelo = false → s.bimon = true →
    (∀ p, s.bootPick 2 = some p → ∃ t, exec .ameloReady s = .next t ∧ t.mgmt.amelo = true ∧
      t.sec.stages.map Stage.typ = s.sec.stages.map Stage.typ ++ [4] ∧ t.rd (SEC.FW_STATE.ACTIVE_BANK 2) = p.1 % 2 ∧ t.cmds = s.cmds) ∧
    (s.bootPick 2 = none → ∃ t, exec .ameloReady s = .next t ∧ t.mgmt.held = true ∧ t.mgmt.railsAt = none ∧ t.mgmt.amelo = false)) ∧
  (∀ (s : State) (overrun fail : Nat) (readings watts stalls steps : List Nat), s.mgmt.standby = true → s.mgmt.lastTick < tickOf s.timeBase →
    ∃ t, exec (.managementTick overrun fail readings watts stalls steps) s = .next t ∧ t.mgmt.lastTick = tickOf s.timeBase ∧
      s.counted t MGMT.TICK.COUNT 1 ∧
      (s.bimon = false → s.sameBut t [MGMT.TICK.COUNT] ∧ s.sameParts t [.mgmt]) ∧
      (s.bimon = true → t.mgmt.alive = s.now ∧ t.rd DISC.OUTPUTS.LED = t.ledPattern ∧ (overrun = 1 → s.counted t MGMT.TICK.OVERRUNS 1) ∧
        (s.mainOn = true → ∀ d < 8, t.rd (PWR.DIE_STATUS.STEP_MHZ d) = min (steps.getD d 0) 4095))) ∧
  (∀ (s : State) (n : Nat), s.bimon = true → s.mgmt.alive + 50_000_000 ≤ s.now →
    n = (s.mgmt.restarts.filter (fun t => decide (s.now < t + 10_000_000_000))).length + 1 →
    ∃ t, exec .watchdogExpiry s = .next t ∧ s.counted t MGMT.STATUS.WDOG_RESTARTS 1 ∧ t.logged 0x0606 0 n 0 ∧
      t.rd MGMT.STATUS.BIMON = (if 3 ≤ n then 3 else 2) ∧ (3 ≤ n → t.rd DISC.FAULT_CAUSE.BIMON_FAILED = 1 ∧ t.rd DISC.OUTPUTS.FAULT = 1) ∧
      t.mgmt.sbIn = [] ∧ (∀ c ∈ t.cmds, c.src = 2 → c.chan ≠ 1 ∧ c.gone = true) ∧ s.sameMem t) ∧
  (∀ (s : State), s.rd MGMT.STATUS.BIMON = 2 → ∃ t, exec .bimonRestartComplete s = .next t ∧ t.bimon = true ∧ t.mgmt.alive = s.now ∧
    s.sameBut t [MGMT.STATUS.BIMON] ∧ s.sameParts t [.mgmt]) ∧
  (∀ (s : State), s.bimon = true → s.rd MGMT.STATUS.RM_SILENT ≠ 1 → s.mgmt.heard + s.rd MGMT.RM_CTL.SILENCE_S * 1_000_000_000 ≤ s.now →
    ∃ t, exec .rmSilence s = .next t ∧ t.rd MGMT.STATUS.RM_SILENT = 1 ∧ t.logged 0x0605 0 (s.rd MGMT.RM_CTL.SILENCE_S) 0 ∧
      s.sameRegs t [16, 17] ∧ s.sameMem t)

/-- A failure of INT leaves it not READY and moves the standby domains to ROOT where that is READY; a failure of the reference moves every
domain on ROOT to INT where it may, and otherwise stops it; a failure of one domain does so to it alone (R438–R440, Table 19-2). With
AUTO_RETURN set the domains moved return to a ROOT that a tick boundary has found READY (R441). CLOCK_SELECT puts a domain on a READY source and refuses one that is
not, and GATE_SET gates a domain or lets it run; both reply with the domain's register (R437, R442, R443).
Where the rules leave a reading open, it is the model's: log entry 32. -/
def Obligations.ClocksMoveStopReturnAndGate : Prop :=
  (∀ (s : State) (dom count other : Nat), s.mgmt.standby = true → s.rd CLK.INT.FAILED ≠ 1 →
    ∃ t, exec (.clockFailure 0 dom count other) s = .next t ∧ t.rd CLK.INT.READY = 0 ∧ t.rd CLK.INT.FAILED = 1 ∧ t.logged 0x0801 0 count other ∧
      (s.rd CLK.ROOT.READY = 1 → ∀ i, 90 ≤ i → i < 100 → t.rd (CLK.DOM.SOURCE i) = 0) ∧ s.sameRegs t [14, 17] ∧ s.sameMem t) ∧
  (∀ (s : State) (dom count other : Nat), s.mgmt.standby = true → s.rd CLK.INT.FAILED ≠ 1 → s.mainOn = true → s.rd CLK.ROOT.READY = 1 →
    ∃ t, exec (.clockFailure 1 dom count other) s = .next t ∧ t.rd CLK.ROOT.READY = 0 ∧ t.rd CLK.ROOT.REF_FAILED = 1 ∧
      s.counted t CLK.EVENTS.REF_FAILS 1 ∧ t.logged 0x0801 0 count other ∧
      (∀ i < 100, s.rd (CLK.DOM.SOURCE i) = 0 → s.rd (CLK.DOM.STOPPED i) ≠ 1 →
        (s.rd (CLK.DOM.INT_OK i) = 1 → t.rd (CLK.DOM.SOURCE i) = 1) ∧ (s.rd (CLK.DOM.INT_OK i) ≠ 1 → t.rd (CLK.DOM.STOPPED i) = 1))) ∧
  (∀ (s : State) (kind dom count other : Nat), s.mgmt.standby = true → s.rd CLK.INT.FAILED ≠ 1 → 2 ≤ kind → dom < 100 → s.mainOn = true ∨ 90 ≤ dom →
    s.rd (CLK.DOM.STOPPED dom) ≠ 1 → s.rd (CLK.DOM.GATED dom) ≠ 1 →
    ∃ t, exec (.clockFailure kind dom count other) s = .next t ∧ t.rd (CLK.DOM.FAILED dom) = 1 ∧ t.rd (CLK.DOM.COUNT dom) = count % 2 ^ 16 ∧
      s.counted t CLK.EVENTS.DOM_FAILS 1 ∧ t.logged 0x0802 dom count other ∧
      (s.rd (CLK.DOM.INT_OK dom) = 1 → t.rd (CLK.DOM.SOURCE dom) = 1) ∧ (s.rd (CLK.DOM.INT_OK dom) ≠ 1 → t.rd (CLK.DOM.STOPPED dom) = 1)) ∧
  (∀ (s : State), s.bimon = true → s.mgmt.clocksDue = true → s.rd CLK.ROOT.READY = 1 → s.rd CLK.CTL.AUTO_RETURN = 1 → (∀ i ∈ s.clkMoved, i < 100) →
    ∃ t, exec .clockAutoReturn s = .next t ∧ t.clkMoved = [] ∧
      (∀ i ∈ s.clkMoved, t.rd (CLK.DOM.SOURCE i) = 0 ∧ t.rd (CLK.DOM.STOPPED i) = 0) ∧ t.cmds = s.cmds ∧ s.sameMem t) ∧
  (∀ (s : State) (k : Nat) (c : Cmd), s.cmdAt k 0xA2 = some c → checkClockSelect s c = none →
    (s.selected c = true → ∃ t, exec (.clockSelect k) s = .next t ∧ s.onlyEnds t k stDone 0 (s.regWord (.CLK_DOM c.dom)) 0 0) ∧
    (s.selected c = false → s.srcReady c.domBit = false → ∃ t, exec (.clockSelect k) s = .next t ∧ t.ended k stBusyRetry 0x1304 0 0 0 ∧
      s.counted t CLK.EVENTS.REFUSED 1 ∧ s.sameBut t [CLK.EVENTS.REFUSED] ∧ s.othersStand t k ∧ s.sameParts t [.cmds, .doneCtr]) ∧
    (s.selected c = false → s.srcReady c.domBit = true → ∃ t, exec (.clockSelect k) s = .next t ∧
      t.ended k stDone 0 (t.regWord (.CLK_DOM c.dom)) 0 0 ∧ t.rd (CLK.DOM.SOURCE c.dom) = c.domBit ∧ t.rd (CLK.DOM.STOPPED c.dom) = 0 ∧
      s.othersStand t k)) ∧
  (∀ (s : State) (k : Nat) (c : Cmd), s.cmdAt k 0xA3 = some c → checkGateSet s c = none →
    (s.rd (CLK.DOM.GATED c.dom) = c.domBit → ∃ t, exec (.gateSet k) s = .next t ∧ s.onlyEnds t k stDone 0 (s.regWord (.CLK_DOM c.dom)) 0 0) ∧
    (s.rd (CLK.DOM.GATED c.dom) ≠ c.domBit → ∃ t, exec (.gateSet k) s = .next t ∧ t.ended k stDone 0 (t.regWord (.CLK_DOM c.dom)) 0 0 ∧
      t.rd (CLK.DOM.GATED c.dom) = c.domBit ∧ s.sameBut t [CLK.DOM.GATED c.dom] ∧ s.othersStand t k ∧
      (c.dom < 48 → c.domBit = 1 → (t.link (2 * c.dom)).stopped = true ∧ (t.link (2 * c.dom + 1)).stopped = true)))

/-- A port's link up makes its host LINKED and shows its rate, width and mode; a link down, a reset, a cleared enable or a power state that
loses an ATTACHED host leaves it LOST with its cause, its channels and rings disabled and its contexts ORPHANED, until its actions are
complete and the other host is told (R383, R384, Table 16-4). A LINKED host with both enables attaches by a write of ATTACH = 1 through a port
that reaches register space and is not gated, and detaches by 0 with no context and no channel in use (Table 16-4, Table 16-7). Configuration requests are answered Request Retry until Amelo takes
commands, and Unsupported Request for another function (R379). A read of ORPHAN_DATA returns a lost host's ring bytes and moves on (R386),
and an aligned write of the MSI-X table sets its words, any other being recorded (R382).
How the configuration registers are numbered is the model's: log entry 27. -/
def Obligations.HostsLinkAttachDetachAndAreLost : Prop :=
  (∀ (s : State) (h rate width flit : Nat), h < 2 → (s.port h).training = true → (s.port h).perst = false →
    ∃ t, exec (.hostLinkUp h rate width flit) s = .next t ∧ t.rd (HIF.PORT_STATUS.LINK_UP h) = 1 ∧ t.rd (HIF.PORT_STATUS.RATE h) = rate % 8 ∧
      t.rd (HIF.PORT_STATUS.WIDTH h) = width % 16 ∧ t.rd (HIF.PORT_STATUS.FLIT h) = flit % 2 ∧
      t.hostState h = (if s.hostState h = 0 then 1 else s.hostState h) ∧
      (s.rd (HIF.PORT_STATUS.LINK_UP h) = 1 → s.counted t (HIF.ERRORS.RETRAINS h) 1) ∧ s.sameRegs t [0] ∧ s.sameParts t []) ∧
  (∀ (s : State) (h : Nat), h < 2 →
    (s.hostState h = 1 → ∃ t, exec (.hostLinkDown h) s = .next t ∧ t.rd (HIF.PORT_STATUS.LINK_UP h) = 0 ∧ t.hostState h = 0 ∧ s.sameRegs t [0] ∧
      s.sameParts t []) ∧
    (s.hostState h = 2 → (∀ x ∈ s.ctxs.map Prod.fst, x < 1024) → ∃ t, exec (.hostLinkDown h) s = .next t ∧
      t.rd (HIF.PORT_STATUS.LINK_UP h) = 0 ∧ t.hostState h = 3 ∧ t.rd (HIF.PORT_STATUS.LOSS_CAUSE h) = 1 ∧ (t.port h).lossRunning = true ∧
      s.counted t (HIF.HOST_EVENTS.LOSSES h) 1 ∧ (∀ c < 128, c / 64 = h → t.rd (CMD.CHAN_CTL.ENABLE c) = 0) ∧
      (∀ r < 256, r / 128 = h → t.rd (CMD.RING_CTL.ENABLE r) = 0) ∧
      (∀ x ∈ s.ctxs.map Prod.fst, s.rd (SCHED.CTX_STATE.LIFE x) = 1 → s.rd (SCHED.CTX_STATE.OWNER x) = h → t.rd (SCHED.CTX_STATE.LIFE x) = 2) ∧
      (∀ c ∈ t.cmds, c.src = h → c.gone = true))) ∧
  (∀ (s : State) (h cause : Nat), h < 2 → s.hostState h = 2 → 1 ≤ cause → cause ≤ 6 → cause ≠ 2 →
    ∃ t, exec (.hostLost h cause) s = .next t ∧ t.hostState h = 3 ∧ t.rd (HIF.PORT_STATUS.LOSS_CAUSE h) = cause ∧ (t.port h).lossRunning = true ∧
      (cause = 5 → t.rd (HIF.PORT_STATUS.BME h) = 0 ∧ t.rd (HIF.PORT_STATUS.MSE h) = 0) ∧
      (cause = 1 ∨ cause = 3 ∨ cause = 4 → t.rd (HIF.PORT_STATUS.LINK_UP h) = 0)) ∧
  (∀ (s : State) (h : Nat), h < 2 → s.hostState h = 3 → (s.port h).lossRunning = true →
    ∃ t, exec (.lossActionsComplete h) s = .next t ∧ (t.port h).lossRunning = false ∧
      (s.rd (HIF.PORT_STATUS.LINK_UP h) = 1 → t.hostState h = 1) ∧ (s.rd (HIF.PORT_STATUS.LINK_UP h) = 0 → t.hostState h = 0) ∧
      t.rd (HIF.HOST_EVENTS.OTHER_LOST (1 - h)) = 1 ∧
      (∃ r ∈ t.score.tickRecs, r.code = 0x0401 ∧ r.inst = h ∧ r.arg0 = s.rd (HIF.PORT_STATUS.LOSS_CAUSE h)) ∧ s.sameRegs t [0] ∧ s.sameMem t) ∧
  (∀ (s : State) (h fn reg write value : Nat), h < 2 →
    (s.rd (HIF.PORT_STATUS.LINK_UP h) ≠ 1 → exec (.configRequest h fn reg write value) s = .next s) ∧
    (s.rd (HIF.PORT_STATUS.LINK_UP h) = 1 → s.mgmt.amelo = false → ∃ t, exec (.configRequest h fn reg write value) s = .next t ∧
      t.out = .config h 1 0 :: s.out ∧ s.allRegs t ∧ s.sameParts t [.out]) ∧
    (s.rd (HIF.PORT_STATUS.LINK_UP h) = 1 → s.mgmt.amelo = true → fn ≠ 0 → ∃ t, exec (.configRequest h fn reg write value) s = .next t ∧
      t.out = .config h 2 0 :: s.out ∧ s.counted t (HIF.ERRORS.UNSUPPORTED h) 1 ∧ s.sameBut t [HIF.ERRORS.UNSUPPORTED h] ∧ s.sameParts t [.out]) ∧
    (s.rd (HIF.PORT_STATUS.LINK_UP h) = 1 → s.mgmt.amelo = true → fn = 0 → write = 0 → ∃ t,
      exec (.configRequest h fn reg write value) s = .next t ∧ t.out = .config h 0 (s.cfgRead h reg) :: s.out ∧
      (reg = 0 → s.cfgRead h reg = 0x6416_1F7A) ∧ s.allRegs t ∧ s.sameParts t [.out]) ∧
    (s.rd (HIF.PORT_STATUS.LINK_UP h) = 1 → s.mgmt.amelo = true → fn = 0 → write ≠ 0 → reg = 1 → ∃ t,
      exec (.configRequest h fn reg write value) s = .next t ∧ Output.config h 0 0 ∈ t.out ∧ t.rd (HIF.PORT_STATUS.MSE h) = bits value 1 1 ∧
      t.rd (HIF.PORT_STATUS.BME h) = bits value 2 1 ∧ (s.hostState h = 2 → bits value 1 2 ≠ 3 → t.hostState h = 3))) ∧
  (∀ (s : State) (h value : Nat), s.reaches h = true → s.rd (CLK.DOM.GATED (80 + h)) ≠ 1 → bit value 0 = true →
    (s.hostState h = 1 → s.rd (HIF.PORT_STATUS.BME h) = 1 → ∃ t, exec (.hostAttach h value) s = .next t ∧
      t.hostState h = 2 ∧ t.rd (HIF.HOST_CTL.ATTACH h) = 1 ∧ t.rd (HIF.HOST_CTL.EVENT_VECTOR h) = bits value 8 11 ∧
      t.rd (HIF.HOST_CTL.EVENT_EN h) = bits value 19 1 ∧ t.rd (HIF.HOST_EVENTS.OTHER_ATTACHED (1 - h)) = 1 ∧ s.sameMem t ∧ t.cmds = s.cmds) ∧
    (s.hostState h ≠ 1 ∨ s.rd (HIF.PORT_STATUS.BME h) ≠ 1 → ∃ t, exec (.hostAttach h value) s = .next t ∧
      t.rd (HIF.HOST_CTL.EVENT_VECTOR h) = bits value 8 11 ∧ t.rd (HIF.HOST_CTL.EVENT_EN h) = bits value 19 1 ∧
      s.sameBut t [HIF.HOST_CTL.EVENT_VECTOR h, HIF.HOST_CTL.EVENT_EN h] ∧ s.sameParts t [])) ∧
  (∀ (s : State) (h value : Nat), s.reaches h = true → s.rd (CLK.DOM.GATED (80 + h)) ≠ 1 → bit value 0 = false → s.hostState h = 2 → (∀ c < 128, c / 64 = h → s.rd (CMD.CHAN_CTL.ENABLE c) ≠ 1) →
    (∀ x ∈ s.ctxs.map Prod.fst, ¬(s.rd (SCHED.CTX_STATE.LIFE x) = 1 ∧ s.rd (SCHED.CTX_STATE.OWNER x) = h)) →
    ∃ t, exec (.hostDetach h value) s = .next t ∧ t.hostState h = 1 ∧ t.rd (HIF.HOST_CTL.ATTACH h) = 0 ∧
      s.sameBut t [HIF.PORT_STATUS.HOST_STATE h, HIF.HOST_CTL.ATTACH h, HIF.HOST_CTL.EVENT_VECTOR h, HIF.HOST_CTL.EVENT_EN h] ∧ s.sameParts t []) ∧
  (∀ (s : State) (src h q : Nat), src = 2 ∨ s.reaches src = true → h < 2 → s.rd (CLK.DOM.GATED (80 + h)) ≠ 1 →
    q = s.rd (HIF.ORPHAN_ADDR.OFFSET h) →
    ∃ t, exec (.orphanDataRead src h) s = .next t ∧
      t.out = .readData src (if s.inOrphanRing (8 * q) then s.load (devKey (8 * q)) 8 else 0) :: s.out ∧
      t.rd (HIF.ORPHAN_ADDR.OFFSET h) = (q + 1) % 2 ^ 41 ∧ s.sameBut t [HIF.ORPHAN_ADDR.OFFSET h] ∧ s.sameParts t [.out]) ∧
  (∀ (s : State) (h off value size i : Nat) (w : Nat → Nat → Nat), s.reaches h = true → msixBase ≤ off → off + size ≤ msixBase + 2048 * 16 → i = (off - msixBase) / 4 →
    (∀ i v, w i v = if i % 4 = 3 then v % 2 else if i % 4 = 0 then v % 2 ^ 32 / 4 * 4 else v % 2 ^ 32) →
    (size = 4 → off % 4 = 0 → ∃ t, exec (.msixTableWrite h off value size) s = .next t ∧ (t.port h).msixWord i = w i value ∧
      (∀ j, j ≠ i → (t.port h).msixWord j = (s.port h).msixWord j) ∧ s.allRegs t ∧ s.sameParts t [.out, .ports]) ∧
    (size = 8 → off % 8 = 0 → ∃ t, exec (.msixTableWrite h off value size) s = .next t ∧ (t.port h).msixWord i = w i value ∧
      (t.port h).msixWord (i + 1) = w (i + 1) (value / 2 ^ 32) ∧
      (∀ j, j ≠ i → j ≠ i + 1 → (t.port h).msixWord j = (s.port h).msixWord j) ∧ s.allRegs t ∧ s.sameParts t [.out, .ports]) ∧
    (size = 4 ∨ size = 8 → off % size ≠ 0 → ∃ t, exec (.msixTableWrite h off value size) s = .next t ∧ t.logged 0x0004 h off size ∧
      s.sameRegs t [17] ∧ s.sameMem t))

/-- An aligned 64-bit write of a register by a host whose accesses reach it sets each field as its access code says, ignoring what R519 lists
(R7, R10, R519); a write of the other host's register is counted stray (R374, R389), one where no register stands, or narrow, is
discarded and recorded 0x0004 (R7, R110), and a wider one acts as 64-bit writes in ascending order (R7). An aligned 64-bit read returns the
register as it stands and clears its RC fields, a narrow one has no effect, and one where no register stands returns zero (R7, R10, R110); an
access of a host that does not reach register space has no effect, and is counted while its link is up (R388). SCORE_READ sets the source's cursor to the first record held, and READ_DATA
returns the record there a word at a time (R475, R476); SCOREBOOK_FLUSH leaves nothing unflushed (R472) and SCORE_CLEAR leaves no record
before its own (R477).
Where the rules leave a reading open, it is the model's: log entries 35 and 46. -/
def Obligations.RegistersAndTheScorebookAreReadAndWritten : Prop :=
  (∀ (s : State) (src off value : Nat), off % 8 = 0 → s.reaches src = true → inWindows off = false → inMsix off = false →
    (∀ r, regAt off = some r → s.gatedReg r = false → r.owner = none ∨ r.owner = some src → r.acts = false → (∀ p ∈ r.fields, s.rd p.1 < 2 ^ p.1.w) →
      ∃ t, exec (.registerWrite src off value 8) s = .next t ∧ (∀ p ∈ r.fields, t.rd p.1 = s.fieldAfter r (value % 2 ^ 64) p) ∧
        s.sameBut t (r.fields.map Prod.fst) ∧ s.sameParts t []) ∧
    (∀ r h, regAt off = some r → s.gatedReg r = false → r.owner = some h → h ≠ src → ∃ t, exec (.registerWrite src off value 8) s = .next t ∧
      s.counted t CMD.STRAY.WRITES 1 ∧ s.sameBut t [CMD.STRAY.WRITES] ∧ s.sameParts t []) ∧
    (regAt off = some .SERVE_CACHE_POOL → (∀ p ∈ Reg.SERVE_CACHE_POOL.fields, s.rd p.1 < 2 ^ p.1.w) →
      ∃ t, exec (.registerWrite src off value 8) s = .next t ∧
        (∀ p ∈ Reg.SERVE_CACHE_POOL.fields, t.rd p.1 = s.fieldAfter .SERVE_CACHE_POOL (value % 2 ^ 64) p) ∧
        t.rd SERVE.CACHE_USE.FREE = t.poolFree % 2 ^ 20 ∧ s.sameRegs t [8] ∧ s.sameParts t []) ∧
    (regAt off = none → ∃ t, exec (.registerWrite src off value 8) s = .next t ∧ t.logged 0x0004 src off 8 ∧ s.sameRegs t [17] ∧ s.sameMem t)) ∧
  (∀ (s : State) (src off value size : Nat), s.reaches src = true → inWindows off = false → inMsix off = false →
    off % 8 ≠ 0 ∨ (0 < size ∧ size < 8) → s.gatedAt off = false →
    ∃ t, exec (.registerWrite src off value size) s = .next t ∧ t.logged 0x0004 src off size ∧ s.sameRegs t [17] ∧ s.sameMem t) ∧
  (∀ (s u : State) (src off value size : Nat), off % 8 = 0 → s.reaches src = true → inWindows off = false → inMsix off = false →
    inWindows (off + 8) = false → inMsix (off + 8) = false → exec (.registerWrite src off (value % 2 ^ 64) 8) s = .next u → u.reaches src = true →
    exec (.registerWrite src off value (size + 8)) s = exec (.registerWrite src (off + 8) (value / 2 ^ 64) size) u) ∧
  (∀ (s : State) (src h off value size : Nat) (data : List Nat), src < 2 → s.reaches src = false →
    ∀ i ∈ ([.registerWrite src off value size, .rcRead src off size, .windowWrite src off data, .msixTableWrite src off value size,
      .orphanDataRead src h, .intakeWrite src off data, .faultResolve src value, .readDataRead src, .reportDataRead src h] : List Instr),
    (s.rd (HIF.PORT_STATUS.LINK_UP src) = 1 → ∃ t, exec i s = .next t ∧ s.counted t (HIF.ERRORS.UNSUPPORTED src) 1 ∧
      s.sameBut t [HIF.ERRORS.UNSUPPORTED src] ∧ s.sameParts t []) ∧
    (s.rd (HIF.PORT_STATUS.LINK_UP src) ≠ 1 → exec i s = .next s)) ∧
  (∀ (s : State) (src off : Nat), off % 8 = 0 → s.reaches src = true → inMsix off = false →
    (∀ r, regAt off = some r → s.gatedReg r = false → r.streams = false → ∃ t, exec (.rcRead src off 8) s = .next t ∧
      t.out = .readData src ((s.shown r).regWord r % 2 ^ 64) :: s.out ∧ (∀ p ∈ r.fields, t.rd p.1 = if p.2 = .rc then 0 else s.rd p.1) ∧
      s.sameBut t (r.fields.map Prod.fst ++ r.besides) ∧ s.sameParts t (if r.besides = [] then [.out] else [.out, .launches])) ∧
    (regAt off = none → ∃ t, exec (.rcRead src off 8) s = .next t ∧ t.out = .readData src 0 :: s.out ∧ s.allRegs t ∧ s.sameParts t [.out])) ∧
  (∀ (s : State) (src off size : Nat), s.reaches src = true → off % 8 ≠ 0 ∨ size < 8 →
    ∃ t v, exec (.rcRead src off size) s = .next t ∧ t.out = .readData src v :: s.out ∧ s.allRegs t ∧ s.sameParts t [.out]) ∧
  (∀ (s : State) (k first start newest : Nat) (c : Cmd), s.cmdAt k 0xA0 = some c → checkScoreRead s c = none → c.src < 3 →
    first = bits (c.p 0) 0 32 →
    start = ((s.score.heldRecs.find? (fun r => decide (first ≤ r.seq))).map Record.seq).getD (max first s.score.nextSeq) →
    newest = (s.score.heldRecs.getLast?.map Record.seq).getD 0 →
    (c.p 1 = 0 → ∃ t, exec (.scoreRead k) s = .next t ∧
      t.ended k stDone 0 0 (start % 2 ^ 32 + newest % 2 ^ 32 * 2 ^ 32) (s.rd SCORE.STATUS.GEN + s.rd SCORE.STATUS.GEN * 2 ^ 32) ∧
      t.rd (SCORE.READ_CURSOR.SEQ c.src) = start % 2 ^ 32 ∧ t.rd (SCORE.READ_CURSOR.WORD c.src) = 0 ∧
      s.sameBut t [SCORE.READ_CURSOR.SEQ c.src, SCORE.READ_CURSOR.WORD c.src] ∧ s.othersStand t k ∧ s.sameParts t [.cmds, .doneCtr, .score]) ∧
    (∀ recs, c.p 1 ≠ 0 → recs = (s.score.heldRecs.filter (fun r => decide (first ≤ r.seq))).take (bits (c.p 0) 32 16) →
      ∃ t, exec (.scoreRead k) s = .next t ∧
      t.ended k stDone 0 recs.length (start % 2 ^ 32 + newest % 2 ^ 32 * 2 ^ 32) (s.rd SCORE.STATUS.GEN + s.rd SCORE.STATUS.GEN * 2 ^ 32) ∧
      t.loadWords (hostKey c.src (c.p 1)) (4 * recs.length) = (recs.flatMap Record.words).map (· % 2 ^ 64) ∧ s.allRegs t ∧ s.othersStand t k ∧
      s.sameParts t [.mem, .cmds, .doneCtr])) ∧
  (∀ (s : State) (k : Nat) (c : Cmd), s.cmdAt k 0xA1 = some c → checkScoreClear s c = none →
    ∃ t, exec (.scoreClear k) s = .next t ∧ t.ended k stDone 0 s.score.heldRecs.length s.score.nextSeq 0 ∧
      (∀ r ∈ t.score.heldRecs, s.score.nextSeq ≤ r.seq) ∧ s.score.nextSeq < t.score.nextSeq ∧ s.othersStand t k ∧ s.sameRegs t [17] ∧ s.sameMem t) ∧
  (∀ (s : State) (src q w : Nat), src = 2 ∨ s.reaches src = true → q = s.rd (SCORE.READ_CURSOR.SEQ src) → w = s.rd (SCORE.READ_CURSOR.WORD src) →
    (∀ r, w = 0 → s.score.nextHeld q = some r → ∃ t, exec (.readDataRead src) s = .next t ∧ t.out = .readData src r.time :: s.out ∧
      t.rd (SCORE.READ_CURSOR.SEQ src) = r.seq % 2 ^ 32 ∧ t.rd (SCORE.READ_CURSOR.WORD src) = 1 ∧ aFind t.score.latches src = some r.words ∧
      s.sameBut t [SCORE.READ_CURSOR.SEQ src, SCORE.READ_CURSOR.WORD src] ∧ s.sameParts t [.out, .score]) ∧
    (w = 0 → s.score.nextHeld q = none → ∃ t, exec (.readDataRead src) s = .next t ∧ t.out = .readData src 0 :: s.out ∧ s.allRegs t ∧
      s.sameParts t [.out]) ∧
    (∀ l, w = 1 ∨ w = 2 → aFind s.score.latches src = some l → ∃ t, exec (.readDataRead src) s = .next t ∧
      t.out = .readData src (l.getD w 0) :: s.out ∧ t.rd (SCORE.READ_CURSOR.WORD src) = w + 1 ∧ s.sameBut t [SCORE.READ_CURSOR.WORD src] ∧
      s.sameParts t [.out]) ∧
    (∀ l, w = 3 → aFind s.score.latches src = some l → ∃ t, exec (.readDataRead src) s = .next t ∧ t.out = .readData src (l.getD 3 0) :: s.out ∧
      t.rd (SCORE.READ_CURSOR.SEQ src) = ((s.score.nextHeld (q + 1)).map Record.seq).getD s.score.nextSeq % 2 ^ 32 ∧
      t.rd (SCORE.READ_CURSOR.WORD src) = 0 ∧ aFind t.score.latches src = none ∧ s.sameParts t [.out, .score])) ∧
  (∀ (s : State), s.rd SCORE.STATUS.FLUSHING = 1 → s.score.ring.Pairwise (fun a b => a.seq < b.seq) →
    ∃ t, exec .scorebookFlush s = .next t ∧ t.score.unflushed = 0 ∧ t.rd SCORE.STATUS.UNFLUSHED = 0 ∧ s.counted t SCORE.EVENTS.FLUSHES 1 ∧
      t.rd SCORE.STATUS.FLUSHING = b2n s.score.flushAgain ∧ t.score.ring = s.score.ring ∧ s.sameRegs t [17] ∧ s.sameParts t [.score])

/-- AUTH_CHALLENGE makes a nonce valid for 60 s, and enrols the first owner (R458, R459). ATTEST delivers the endorsement, or a report signed
with the next index, no more than 1,000 in a second and none once the indices are exhausted (R455–R457, R462), which REPORT_DATA returns 8
bytes at a time (R467). FW_STAGE writes a chunk into the bank that is not active, verifies it with FINAL and empties it with ABORT
(R451, R452); FW_ACTIVATE makes a VERIFIED bank the boot bank, and SVN_COMMIT raises the floor to the SVN of the image that runs at the
first tick boundary after it began to run (R453, R454).
Where the rules leave a reading open, it is the model's: log entries 10 and 30. -/
def Obligations.SecurityChallengesAttestsStagesAndCommits : Prop :=
  (∀ (s : State) (k : Nat) (c : Cmd), s.cmdAt k 0xB3 = some c → bit (c.p 0) 0 = false → checkAuthChallenge s c = none →
    ∃ t n, exec (.authChallenge k) s = .next t ∧ n.length = 16 ∧ aFind t.sec.nonces c.src = some n ∧
      aFind t.sec.expiry c.src = some (s.timeBase + 60_000_000_000) ∧
      t.ended k stDone 0 (leOf (n.take 8)) (leOf (n.drop 8)) (s.timeBase + 60_000_000_000) ∧ s.allRegs t ∧ s.othersStand t k ∧
      s.sameParts t [.freeCtr, .cmds, .doneCtr, .sec]) ∧
  (∀ (s : State) (k fail : Nat) (c : Cmd), s.cmdAt k 0xB3 = some c → bit (c.p 0) 0 = true → checkOwnerEnrol s c = none →
    (fail = 1 → ∃ t, exec (.ownerEnrol k fail) s = .next t ∧ s.onlyEnds t k stFaulted 0x1433 0 0 0) ∧
    (fail ≠ 1 → ∃ t, exec (.ownerEnrol k fail) s = .next t ∧ t.ended k stDone 0 0 0 0 ∧ t.sec.owner = s.enrolKey c ∧
      t.rd SEC.STATUS.OWNER = 1 ∧ t.logged 0x0904 c.src 0 0 ∧ s.othersStand t k ∧ s.sameMem t)) ∧
  (∀ (s : State) (src e : Nat), aFind s.sec.expiry src = some e → e ≤ s.timeBase →
    ∃ t, exec (.nonceExpiry src) s = .next t ∧ aFind t.sec.nonces src = none ∧ s.allRegs t ∧ s.sameParts t [.sec]) ∧
  (∀ (s : State) (k fail : Nat) (c : Cmd), s.cmdAt k 0xB0 = some c → checkAttest s c = none → c.gone = false → c.p 1 = 0 →
    (bit (c.p 0) 0 = true → ∃ t, exec (.attest k fail) s = .next t ∧ t.ended k stDone 0 5524 0 0 ∧
      aFind t.sec.reports c.src = some s.endorsement ∧ aFind t.sec.reportAt c.src = some 0 ∧ s.allRegs t ∧ s.othersStand t k ∧
      s.sameParts t [.cmds, .doneCtr, .sec]) ∧
    (∀ q l, bit (c.p 0) 0 = false → (s.sec.signed.filter (fun t => decide (s.now < t + 1_000_000_000))).length < 1000 →
      s.rd SEC.STATUS.EXHAUSTED ≠ 1 → q = s.rd SEC.SIG_NEXT.NEXT → ¬(q = s.sec.reserved ∧ fail = 1) →
      l = s.reportBody c q (s.sec.stages.take (c.aux.headD s.sec.stages.length)) →
      ∃ t, exec (.attest k fail) s = .next t ∧ t.ended k stDone 0 (l.length + 5716) q 0 ∧
        aFind t.sec.reports c.src = some (l ++ fixLen 5716 (Config.hssSign q l)) ∧ t.rd SEC.SIG_NEXT.NEXT = (q + 1) % 2 ^ 40 ∧
        s.counted t SEC.EVENTS.SIGNATURES 1 ∧ (q = s.sec.reserved → t.sec.reserved = q + 4096) ∧ s.othersStand t k ∧ s.sameMem t) ∧
    (bit (c.p 0) 0 = false → 1000 ≤ (s.sec.signed.filter (fun t => decide (s.now < t + 1_000_000_000))).length →
      ∃ t, exec (.attest k fail) s = .next t ∧ s.onlyEnds t k stBusyRetry 0x1431 0 0 0)) ∧
  (∀ (s : State) (src h : Nat) (l : List Nat) (i : Nat), src = 2 ∨ s.reaches src = true → aFind s.sec.reports h = some l → aFind s.sec.reportAt h = some i →
    ∃ t, exec (.reportDataRead src h) s = .next t ∧ t.out = .readData src (leOf ((l.drop i).take 8)) :: s.out ∧
      aFind t.sec.reportAt h = some (i + 8) ∧ s.allRegs t ∧ s.sameParts t [.out, .sec]) ∧
  (∀ (s : State) (k y b : Nat) (c : Cmd) (data : List Nat), s.cmdAt k 0xB1 = some c → checkFwStage s c = none → bit (c.p 0) 3 = false →
    y = c.fwType → b = s.stageBank y → data = (if c.src = 2 then c.auth else s.hostRead c.src (c.p 1) c.fwLen) →
    (bit (c.p 0) 2 = false → ∃ t, exec (.fwStage k) s = .next t ∧ t.ended k stDone 0 1 0 0 ∧
      (t.bank y b).bytes = some (slotWrite (if c.fwBegins then [] else (s.bank y b).bytes.getD []) c.fwOff data) ∧
      t.rd (SEC.FW_STATE.STAGED y) = 1 ∧ t.rd (SEC.FW_VERSION.STAGED y) = 0 ∧ t.bank y (1 - b) = s.bank y (1 - b) ∧
      s.sameBut t [SEC.FW_STATE.STAGED y, SEC.FW_VERSION.STAGED y] ∧ s.othersStand t k ∧ s.sameParts t [.cmds, .doneCtr, .sec]) ∧
    (bit (c.p 0) 2 = true → (s.stageChunk c).fwFault y b = none → ∃ t, exec (.fwStageFinal k) s = .next t ∧
      t.ended k stDone 0 2 (t.fwPayload y b) 0 ∧ t.rd (SEC.FW_STATE.STAGED y) = 2 ∧ t.rd (SEC.FW_VERSION.STAGED y) = t.fwVersion y b % 2 ^ 32 ∧
      t.bank y (1 - b) = s.bank y (1 - b) ∧ s.othersStand t k ∧ s.sameParts t [.cmds, .doneCtr, .sec]) ∧
    (∀ d, bit (c.p 0) 2 = true → (s.stageChunk c).fwFault y b = some d → ∃ t, exec (.fwStageFinal k) s = .next t ∧
      t.ended k stDigestFail d 0 0 0 ∧ t.rd (SEC.FW_STATE.STAGED y) = 3 ∧ s.counted t SEC.EVENTS.STAGE_FAILS 1 ∧ s.othersStand t k ∧
      s.sameParts t [.cmds, .doneCtr, .sec])) ∧
  (∀ (s : State) (k y b : Nat) (c : Cmd), s.cmdAt k 0xB1 = some c → bit (c.p 0) 3 = true → checkFwAbort s c = none → y = c.fwType →
    b = s.stageBank y →
    ∃ t, exec (.fwStageAbort k) s = .next t ∧ t.ended k stDone 0 0 0 0 ∧ (t.bank y b).bytes = some [] ∧ t.rd (SEC.FW_STATE.STAGED y) = 0 ∧
      t.rd (SEC.FW_VERSION.STAGED y) = 0 ∧ t.bank y (1 - b) = s.bank y (1 - b) ∧ s.othersStand t k ∧ s.sameParts t [.cmds, .doneCtr, .sec]) ∧
  (∀ (s : State) (k fail y b : Nat) (c : Cmd), s.cmdAt k 0xB2 = some c → checkFwActivate s c = none → y = c.fwType → b = s.stageBank y →
    (fail = 1 → ∃ t, exec (.fwActivate k fail) s = .next t ∧ s.onlyEnds t k stFaulted 0x1433 0 0 0) ∧
    (fail ≠ 1 → ∃ t, exec (.fwActivate k fail) s = .next t ∧ t.ended k stDone 0 b 0 0 ∧ t.bootBank y = b ∧ y ∈ t.sec.activated ∧
      t.rd (SEC.FW_STATE.BOOT_BANK y) = b ∧ t.rd (SEC.FW_STATE.COMMIT_PENDING y) = bits (c.p 0) 2 1 ∧
      (bit (c.p 0) 2 = true → y ∈ t.sec.commits) ∧ t.logged 0x0902 y b 0 ∧ s.othersStand t k ∧ s.sameMem t)) ∧
  (∀ (s : State) (y : Nat), y < 3 → s.tickSince ((aFind s.sec.ranAt y).getD 0) = true → y ∈ s.sec.commits → y ∉ s.sec.activated → s.rd (SEC.FW_STATE.ACTIVE_BANK y) = s.bootBank y →
    (y = 2 → s.mgmt.amelo = true) →
    ∃ t, exec (.svnCommit y) s = .next t ∧ t.svnFloor y = max (s.svnFloor y) (s.rd (SEC.FW_STATE.SVN y)) ∧
      t.rd (SEC.FW_STATE.FLOOR y) = max (s.svnFloor y) (s.rd (SEC.FW_STATE.SVN y)) % 2 ^ 16 ∧ t.rd (SEC.FW_STATE.COMMIT_PENDING y) = 0 ∧
      y ∉ t.sec.commits ∧ (∀ x, x ≠ y → t.svnFloor x = s.svnFloor x) ∧ s.sameMem t ∧ t.cmds = s.cmds)

/-- The side-band port takes a dynamic address and, while Bimon runs and SB_RESET_N is not asserted, answers MCTP control, PLDM and vendor
messages, each of which ends the silence of the rack manager (R394, R395, R400, R407, R410). A COMMAND message of a good packet waits for the
hand-over, and is answered BUSY_RETRY where eight are outstanding; the hand-over gives it to Amelo, and its response goes out at the tick after
its end (R397). WINDOW_READ and WINDOW_WRITE act on registers with the status of R399, and a message that is none of these is dropped and
counted (R395).
Where the rules leave a reading open, it is the model's: log entries 33 and 34. -/
def Obligations.TheSideBandPortAnswersItsMessages : Prop :=
  (∀ (s : State) (addr : Nat), s.mgmt.standby = true → s.effective 7 = false →
    ∃ t, exec (.i3cAddressAssign addr) s = .next t ∧ t.rd MGMT.SB_STATUS.DYN_ADDR = addr % 2 ^ 7 ∧ t.rd MGMT.SB_STATUS.ADDR_VALID = 1 ∧
      s.sameBut t [MGMT.SB_STATUS.DYN_ADDR, MGMT.SB_STATUS.ADDR_VALID] ∧ s.sameParts t []) ∧
  (∀ (s : State) (eid : Nat), s.sbUp = true → ∃ t, exec (.setEndpointId eid) s = .next t ∧ t.rd MGMT.SB_STATUS.EID = eid % 2 ^ 8 ∧
    t.rd MGMT.SB_STATUS.EID_VALID = 1 ∧ t.out = .sideband 0 [eid] :: s.out ∧ t.mgmt = { s.mgmt with heard := s.now } ∧
    s.sameBut t [MGMT.SB_STATUS.EID, MGMT.SB_STATUS.EID_VALID, MGMT.STATUS.RM_SILENT] ∧ s.sameParts t [.out, .mgmt]) ∧
  (∀ (s : State), s.sbUp = true → ∀ p ∈ ([(.getEndpointId, [s.rd MGMT.SB_STATUS.EID]), (.getMessageTypeSupport, [0x00, 0x01, 0x7E]),
      (.getMctpVersionSupport, (List.range 4).map Config.mctpVersion)] : List (Instr × List Nat)),
    ∃ t, exec p.1 s = .next t ∧ t.out = .sideband 0 p.2 :: s.out ∧ t.rd MGMT.STATUS.RM_SILENT = 0 ∧ t.mgmt = { s.mgmt with heard := s.now } ∧
      s.sameBut t [MGMT.STATUS.RM_SILENT] ∧ s.sameParts t [.out, .mgmt]) ∧
  (∀ (s : State), s.sbUp = true → ∃ t, exec .mctpMessageDrop s = .next t ∧ s.counted t MGMT.SB_COUNT.DROPPED 1 ∧
    s.sameBut t [MGMT.SB_COUNT.DROPPED] ∧ s.sameParts t []) ∧
  (∀ (s : State) (typ n : Nat), s.sbUp = true → n ∈ stateSensors → ∀ p ∈ ([(.gettid, [Config.terminusId]),
      (.getpldmversion typ, [Config.pldmVersion typ]), (.getpldmtypes, [0, 2]), (.getpldmcommands typ, pldmCommands typ),
      (.getpdrrepositoryinfo, [50]), (.getstatesensorreadings n, [(aFind s.mgmt.sensors n).getD 1])] : List (Instr × List Nat)),
    ∃ t, exec p.1 s = .next t ∧ t.out = .sideband 1 p.2 :: s.out ∧ s.counted t MGMT.SB_COUNT.PLDM 1 ∧ t.mgmt = { s.mgmt with heard := s.now } ∧
      s.sameBut t [MGMT.SB_COUNT.PLDM, MGMT.STATUS.RM_SILENT] ∧ s.sameParts t [.out, .mgmt]) ∧
  (∀ (s : State) (n i : Nat), s.sbUp = true → (numericSensors ++ stateSensors)[i]? = some n →
    ∃ t, exec (.getpdr i) s = .next t ∧ t.out = .sideband 1 (s.pdr n) :: s.out ∧ s.counted t MGMT.SB_COUNT.PLDM 1) ∧
  (∀ (s : State) (n : Nat), s.sbUp = true → n ∈ numericSensors →
    (∀ v, n ∉ s.mgmt.sensorOff → s.mainOn = true → aFind s.mgmt.sensors n = some v →
      ∃ t, exec (.getsensorreading n) s = .next t ∧ t.out = .sideband 1 [0, v] :: s.out) ∧
    (n ∈ s.mgmt.sensorOff → ∃ t, exec (.getsensorreading n) s = .next t ∧ t.out = .sideband 1 [1] :: s.out) ∧
    (n ∉ s.mgmt.sensorOff → mainSensor n = true → s.mainOn = false →
      ∃ t, exec (.getsensorreading n) s = .next t ∧ t.out = .sideband 1 [2] :: s.out)) ∧
  (∀ (s : State) (eid : Nat), s.sbUp = true → ∃ t, exec (.seteventreceiver eid) s = .next t ∧ t.mgmt.receiver = some eid ∧
    t.out = .sideband 1 [] :: s.out ∧ s.counted t MGMT.SB_COUNT.PLDM 1 ∧ s.sameParts t [.out, .mgmt]) ∧
  (∀ (s : State) (n value : Nat), s.sbUp = true → n ∈ numericSensors → ∃ t, exec (.setnumericsensorenable n value) s = .next t ∧
    (value = 1 → n ∉ t.mgmt.sensorOff) ∧ (value ≠ 1 → n ∈ t.mgmt.sensorOff) ∧
    (∀ m, m ≠ n → (m ∈ t.mgmt.sensorOff ↔ m ∈ s.mgmt.sensorOff)) ∧ t.out = .sideband 1 [] :: s.out ∧ s.sameParts t [.out, .mgmt]) ∧
  (∀ (s : State) (tag : Nat) (bytes : List Nat), s.sbUp = true →
    (bytes.length < 64 → ∃ t, exec (.sbCommand tag bytes) s = .next t ∧ s.counted t MGMT.SB_COUNT.DROPPED 1 ∧ t.mgmt.sbIn = s.mgmt.sbIn ∧
      t.out = s.out) ∧
    (64 ≤ bytes.length → 8 ≤ s.sbOut → ∃ (t : State) (x : Cmd), exec (.sbCommand tag bytes) s = .next t ∧ x.words = packetWords (bytes.take 64) ∧ x.tag = tag ∧
      t.out = x.sbResponse (mkReply 0 stBusyRetry x.opcode x.context x.seq 0x1102 0 0 0) :: s.out ∧ t.mgmt.sbIn = s.mgmt.sbIn) ∧
    (64 ≤ bytes.length → s.sbOut < 8 → packetOk (bytes.take 64) = true → ∃ (t : State) (x : Cmd), exec (.sbCommand tag bytes) s = .next t ∧
      t.mgmt.sbIn = s.mgmt.sbIn ++ [x] ∧ x.src = 2 ∧ x.words = packetWords (bytes.take 64) ∧ x.auth = bytes.drop 64 ∧ x.tag = tag ∧
      x.since = s.timeBase ∧ t.rd MGMT.SB_STATUS.OUTSTANDING = s.sbOut + 1 ∧ s.counted t MGMT.SB_COUNT.COMMANDS 1 ∧ t.out = s.out ∧
      t.cmds = s.cmds)) ∧
  (∀ (s : State) (c : Cmd), s.bimon = true → s.mgmt.sbIn = [c] → c.status = none → tickOf c.since < tickOf s.timeBase → s.sbFenced c = false →
    ∃ (t : State) (x : Cmd), exec .sbHandover s = .next t ∧ t.mgmt.sbIn = [] ∧ x ∈ t.cmds ∧ x.id = s.nextCmd ∧ x.words = c.words ∧ x.src = c.src ∧ x.auth = c.auth ∧
      t.nextCmd = s.nextCmd + 1 ∧ (s.mgmt.amelo = true → x.chan = 0) ∧
      (s.mgmt.amelo = false → c.opcode ∉ aloneOpcodes → c.opcode ∈ sideOpcodes → x.status = some stBusyRetry ∧ x.detail = 0x1101)) ∧
  (∀ (s : State), s.bimon = true → ∃ t, exec .sbReply s = .next t ∧ t.cmds = s.cmds.filter (fun c => !s.sbEnded c) ∧
    (∀ c ∈ s.cmds, s.sbEnded c = true → c.gone = false → c.sbResponse c.mkReply ∈ t.out) ∧ s.sameBut t [MGMT.SB_STATUS.OUTSTANDING] ∧
    s.sameParts t [.out, .cmds]) ∧
  (∀ (s : State) (off n : Nat), s.sbUp = true →
    (s.wstatus false off n ≠ 0 → ∃ t, exec (.windowRead off n) s = .next t ∧ t.out = .sideband 0x7E [s.wstatus false off n] :: s.out ∧
      s.counted t MGMT.SB_COUNT.WINDOW 1 ∧ s.sameBut t [MGMT.SB_COUNT.WINDOW, MGMT.STATUS.RM_SILENT] ∧ s.sameParts t [.out, .mgmt]) ∧
    (∀ r u, n = 1 → s.wstatus false off n = 0 → inMsix off = false → regAt off = some r → r.streams = false → s.gatedReg r = false →
      u = (s.wr MGMT.STATUS.RM_SILENT 0).bump MGMT.SB_COUNT.WINDOW 1 →
      ∃ t, exec (.windowRead off n) s = .next t ∧ t.out = .sideband 0x7E (0 :: leVals 8 ((u.shown r).regWord r)) :: s.out ∧
        (∀ p ∈ r.fields, t.rd p.1 = if p.2 = .rc then 0 else u.rd p.1) ∧
        s.sameParts t (if r.besides = [] then [.out, .mgmt] else [.out, .mgmt, .launches]))) ∧
  (∀ (s : State) (off : Nat) (values : List Nat), s.sbUp = true →
    (s.wstatus true off values.length ≠ 0 → ∃ t, exec (.sidebandWindowWrite off values) s = .next t ∧
      t.out = .sideband 0x7E [s.wstatus true off values.length] :: s.out ∧ s.counted t MGMT.SB_COUNT.WINDOW 1 ∧
      s.sameBut t [MGMT.SB_COUNT.WINDOW, MGMT.STATUS.RM_SILENT] ∧ s.sameParts t [.out, .mgmt]) ∧
    (∀ v, off = 0x1000038 → values = [v] → ∃ t, exec (.sidebandWindowWrite off values) s = .next t ∧ t.out = .sideband 0x7E [0] :: s.out ∧
      t.rd MGMT.LOCATE.LOCATE = v % 2 ∧ s.counted t MGMT.SB_COUNT.WINDOW 1 ∧
      s.sameBut t [MGMT.LOCATE.LOCATE, MGMT.SB_COUNT.WINDOW, MGMT.STATUS.RM_SILENT] ∧ s.sameParts t [.out, .mgmt]) ∧
    (∀ v, off = 0xD00008 → values = [v] → s.mainOn = true → 2400 ≤ v % 2 ^ 13 → v % 2 ^ 13 ≤ 5400 →
      ∃ t, exec (.sidebandWindowWrite off values) s = .next t ∧ t.out = .sideband 0x7E [0] :: s.out ∧ t.rd PWR.CAP.WATTS = v % 2 ^ 13 ∧
        s.sameBut t [PWR.CAP.WATTS, MGMT.SB_COUNT.WINDOW, MGMT.STATUS.RM_SILENT] ∧ s.sameParts t [.out, .mgmt, .power]))

/-- A command that fails a check of its unit ends with that check's status and DETAIL and zero OUT words, and changes no register, no byte
of memory, no other command and nothing else (R357, R372). A command of a hand waits, with no effect, while an earlier command of the hand
is still to complete, and in its turn meets the checks that the hand's state settles in the same way (R211). -/
def Obligations.CommandsThatFailACheckEndAndChangeNothingElse : Prop :=
  (∀ (s : State) (k fail op st d : Nat) (failed : List Nat) (i : Instr) (sel : Cmd → Bool) (check : State → Cmd → Option (Nat × Nat)) (c : Cmd),
    (i, op, sel, check) ∈ ([
      (.nop k, 0x00, always, checkNop), (.fence k, 0x01, always, checkFence), (.signal k, 0x02, always, checkSignal),
      (.wait k, 0x03, always, checkWait), (.timestamp k, 0x04, always, checkTimestamp), (.ctxCreate k, 0x10, always, checkCtxCreate),
      (.ctxDestroy k, 0x11, always, checkCtxDestroy), (.map k, 0x12, always, checkMap), (.unmap k, 0x13, always, checkUnmap),
      (.migrate k, 0x14, always, checkMigrate), (.pinWindow k, 0x15, fun c => !c.unpin, checkPinWindow), (.unpin k, 0x15, Cmd.unpin, checkPinWindow),
      (.invalidate k, 0x16, always, checkInvalidate), (.setHome k, 0x17, always, checkSetHome), (.ctxAdopt k, 0x18, always, checkCtxAdopt),
      (.copy k, 0x20, always, checkMover 0), (.fill k, 0x21, always, checkMover 1), (.gather k, 0x22, always, checkMover 2),
      (.scatter k, 0x23, always, checkMover 3), (.reduce k, 0x24, always, checkMover 4), (.alltoall k, 0x25, always, checkMover 5),
      (.launchLayer k, 0x30, always, checkLaunch 0), (.launchKernel k, 0x31, always, checkLaunch 1), (.launchLoop k, 0x32, always, checkLaunch 2),
      (.setNumerics k, 0x33, always, checkSetNumerics), (.loadProgram k, 0x34, fun c => !bit (c.p 0) 0, checkLoadProgram),
      (.unloadProgram k, 0x34, fun c => bit (c.p 0) 0, checkLoadProgram), (.handOpen k, 0x40, always, checkHandOpen),
      (.handClose k, 0x41, always, checkHandClose), (.step k, 0x42, always, checkStep), (.prefillChunk k, 0x43, always, checkPrefill),
      (.park k, 0x44, fun c => !c.flag6, checkPark), (.parkRenew k, 0x44, Cmd.flag6, checkPark), (.unpark k, 0x45, always, checkUnpark),
      (.prefixLookup k, 0x46, always, checkPrefixLookup), (.prefixInsert k, 0x47, fun c => !c.flag6, checkPrefixInsert),
      (.prefixRemove k, 0x47, Cmd.flag6, checkPrefixInsert), (.specConfig k, 0x48, always, checkSpecConfig),
      (.variantBind k, 0x49, fun c => c.vOp == 0, checkVariant), (.variantRegister k, 0x49, fun c => c.vOp == 1, checkVariant),
      (.variantRemove k, 0x49, fun c => c.vOp == 2, checkVariant), (.routerConfig k, 0x50, Cmd.configures, checkRouterConfig),
      (.setShape k, 0x50, Cmd.setShape, checkRouterConfig), (.routerRemove k, 0x50, Cmd.rmRouter, checkRouterConfig),
      (.biasLoopConfig k, 0x51, always, checkBiasLoopConfig), (.routerStats k, 0x52, fun c => c.aux.headD 0 != 9, checkRouterStats),
      (.shardIntake k, 0x60, always, checkShardIntake), (.shardVerify k, 0x61, always, checkShardVerify), (.modelStage k, 0x62, always, checkModelStage),
      (.modelSwitch k, 0x63, fun c => !bit (c.p 0) 3, checkModelSwitch), (.modelSwitchCancel k, 0x63, fun c => bit (c.p 0) 3, checkModelSwitch),
      (.modelRetire k, 0x64, always, checkModelRetire), (.classSet k, 0x70, always, checkClassSet), (.preempt k, 0x71, always, checkClassSet),
      (.resume k, 0x72, always, checkResume), (.accountRead k, 0x73, always, checkAccountRead), (.topoQuery k, 0x80, always, checkTopoQuery),
      (.partitionForm k, 0x81, always, checkPartition true), (.partitionReshape k, 0x82, always, checkPartition false),
      (.linkAdminDown k, 0x83, fun c => c.adminOp == 0, checkLinkAdmin), (.linkAdminUp k, 0x83, fun c => c.adminOp == 1, checkLinkAdmin),
      (.toStock k, 0x83, fun c => c.adminOp == 2, checkLinkAdmin), (.fromStock k, 0x83, fun c => c.adminOp == 3, checkLinkAdmin),
      (.stockDraw k failed, 0x84, fun c => s.tickSince c.since, checkStock true),
      (.stockReturn k failed, 0x85, fun c => s.tickSince c.since, checkStock false),
      (.jobAbort k, 0x86, always, checkJob [1, 2, 3]), (.jobRestart k, 0x87, always, checkJob [2, 3]), (.capSet k, 0x90, always, checkCapSet),
      (.energyRead k, 0x91, always, checkEnergyRead), (.phaseHint k, 0x92, always, checkPhaseHint), (.scoreRead k, 0xA0, always, checkScoreRead),
      (.scoreClear k, 0xA1, always, checkScoreClear), (.clockSelect k, 0xA2, always, checkClockSelect), (.gateSet k, 0xA3, always, checkGateSet),
      (.attest k fail, 0xB0, always, checkAttest), (.fwStage k, 0xB1, fun c => !bit (c.p 0) 2 && !bit (c.p 0) 3, checkFwStage),
      (.fwStageFinal k, 0xB1, fun c => bit (c.p 0) 2 && !bit (c.p 0) 3, checkFwStage), (.fwStageAbort k, 0xB1, fun c => bit (c.p 0) 3, checkFwAbort),
      (.fwActivate k fail, 0xB2, always, checkFwActivate), (.authChallenge k, 0xB3, fun c => !bit (c.p 0) 0, checkAuthChallenge),
      (.ownerEnrol k fail, 0xB3, fun c => bit (c.p 0) 0, checkOwnerEnrol)] :
      List (Instr × Nat × (Cmd → Bool) × (State → Cmd → Option (Nat × Nat)))) →
    s.cmdAt k op = some c → s.cmdRunning k = none → sel c = true → check s c = some (st, d) →
    ∃ t, exec i s = .next t ∧ s.onlyEnds t k st d 0 0 0) ∧
  (∀ (s : State) (k op st d : Nat) (i : Instr) (sel : Cmd → Bool) (check late : State → Cmd → Option (Nat × Nat)) (c : Cmd),
    (i, op, sel, check, late) ∈ ([
      (.handOpen k, 0x40, always, checkHandOpen, lateOpen), (.handClose k, 0x41, always, checkHandClose, fun s c => firstBad ((s.handBad c c.hand).take 1)),
      (.step k, 0x42, always, checkStep, lateStep), (.prefillChunk k, 0x43, always, checkPrefill, fun s c => firstBad (s.handBad c c.hand)),
      (.park k, 0x44, fun c => !c.flag6, checkPark, latePark), (.unpark k, 0x45, always, checkUnpark, lateUnpark),
      (.prefixLookup k, 0x46, always, checkPrefixLookup, latePrefixLookup),
      (.prefixInsert k, 0x47, fun c => !c.flag6, checkPrefixInsert, latePrefixInsert), (.specConfig k, 0x48, always, checkSpecConfig, lateSpecConfig),
      (.variantBind k, 0x49, fun c => c.vOp == 0, checkVariant, lateBind)] :
      List (Instr × Nat × (Cmd → Bool) × (State → Cmd → Option (Nat × Nat)) × (State → Cmd → Option (Nat × Nat)))) →
    s.cmdAt k op = some c → s.cmdRunning k = none → sel c = true → check s c = none →
    (s.turn c = true → late s c = some (st, d) → ∃ t, exec i s = .next t ∧ s.onlyEnds t k st d 0 0 0) ∧
    (s.turn c = false → exec i s = .next s))
end

