-- ==== Sys2Proof/Laws/Lists.lean ====
section
/-! SUPPORT. Laws of the association lists in which registers, memory and tables are held: what a key reads as after another is put or
taken out, and that the one canonical form (keys strictly rising, each value as asked) is kept. -/

namespace Sys2Proof.Machine

open Sys2Proof

/-! Reading after putting and after taking out. -/

theorem aFind_aPut_self {α : Type} (l : List (Nat × α)) (i : Nat) (x : α) : aFind (aPut l i x) i = some x := by
  induction l with
  | nil => simp [aPut, aFind]
  | cons a r ih =>
    obtain ⟨k, v⟩ := a
    simp only [aPut]
    split
    · simp [aFind]
    · split
      · simp [aFind]
      · rename_i h1 h2
        have : ¬ k = i := fun h => h2 h.symm
        simp [aFind, this, ih]

theorem aFind_aPut_other {α : Type} (l : List (Nat × α)) (i j : Nat) (x : α) (h : j ≠ i) : aFind (aPut l i x) j = aFind l j := by
  induction l with
  | nil => simp [aPut, aFind, h.symm]
  | cons a r ih =>
    obtain ⟨k, v⟩ := a
    simp only [aPut]
    split
    · simp [aFind, h.symm]
    · split
      · rename_i h1 h2
        subst h2
        simp [aFind, h.symm]
      · simp [aFind, ih]

/-- Every key of a list lies above a bound. -/
def above {α : Type} (b : Nat) (l : List (Nat × α)) : Prop := ∀ p ∈ l, b < p.1

theorem aFind_none_of_above {α : Type} (l : List (Nat × α)) (i : Nat) (h : ∀ p ∈ l, i < p.1) : aFind l i = none := by
  induction l with
  | nil => rfl
  | cons a r ih =>
    obtain ⟨k, v⟩ := a
    have hk : i < k := h (k, v) (by simp)
    have : ¬ k = i := by omega
    simp only [aFind, this, if_false]
    exact ih (fun p hp => h p (by simp [hp]))

/-! The canonical form. -/

/-- The canonical form, said by the tail: each value as asked, and the head's key below every later key. -/
theorem aWf_cons {α : Type} (p : α → Bool) (k : Nat) (v : α) (r : List (Nat × α)) :
    aWf p ((k, v) :: r) = true ↔ p v = true ∧ (∀ q ∈ r, k < q.1) ∧ aWf p r = true := by
  induction r generalizing k v with
  | nil => simp [aWf]
  | cons a r ih =>
    obtain ⟨k2, v2⟩ := a
    simp only [aWf, Bool.and_eq_true, decide_eq_true_eq]
    constructor
    · rintro ⟨⟨hp, hk⟩, hw⟩
      refine ⟨hp, ?_, hw⟩
      intro q hq
      rcases List.mem_cons.mp hq with h | h
      · subst h; exact hk
      · exact Nat.lt_trans hk (((ih k2 v2).mp hw).2.1 q h)
    · rintro ⟨hp, hk, hw⟩
      exact ⟨⟨hp, hk (k2, v2) (by simp)⟩, hw⟩

theorem mem_aPut {α : Type} (l : List (Nat × α)) (i : Nat) (x : α) (q : Nat × α) (h : q ∈ aPut l i x) : q = (i, x) ∨ q ∈ l := by
  induction l with
  | nil => simpa [aPut] using h
  | cons a r ih =>
    obtain ⟨k, v⟩ := a
    simp only [aPut] at h
    split at h
    · simpa using h
    · split at h
      · rcases List.mem_cons.mp h with h | h
        · exact .inl h
        · exact .inr (List.mem_cons_of_mem _ h)
      · rcases List.mem_cons.mp h with h | h
        · exact .inr (by simp [h])
        · rcases ih h with h | h
          · exact .inl h
          · exact .inr (List.mem_cons_of_mem _ h)

theorem mem_aErase {α : Type} (l : List (Nat × α)) (i : Nat) (q : Nat × α) (h : q ∈ aErase l i) : q ∈ l := by
  induction l with
  | nil => exact h
  | cons a r ih =>
    obtain ⟨k, v⟩ := a
    simp only [aErase] at h
    split at h
    · exact List.mem_cons_of_mem _ (ih h)
    · rcases List.mem_cons.mp h with h | h
      · simp [h]
      · exact List.mem_cons_of_mem _ (ih h)

theorem aWf_aPut {α : Type} (p : α → Bool) (l : List (Nat × α)) (i : Nat) (x : α) (hx : p x = true) (h : aWf p l = true) :
    aWf p (aPut l i x) = true := by
  induction l with
  | nil => simpa [aPut, aWf] using hx
  | cons a r ih =>
    obtain ⟨k, v⟩ := a
    obtain ⟨hv, hk, hr⟩ := (aWf_cons p k v r).mp h
    simp only [aPut]
    split
    · rename_i hlt
      refine (aWf_cons p i x _).mpr ⟨hx, ?_, h⟩
      intro q hq
      rcases List.mem_cons.mp hq with e | e
      · subst e; exact hlt
      · exact Nat.lt_trans hlt (hk q e)
    · split
      · rename_i _ he
        subst he
        exact (aWf_cons p i x r).mpr ⟨hx, hk, hr⟩
      · rename_i h1 h2
        refine (aWf_cons p k v _).mpr ⟨hv, ?_, ih hr⟩
        intro q hq
        rcases mem_aPut r i x q hq with e | e
        · subst e; simp only; omega
        · exact hk q e

theorem aWf_aErase {α : Type} (p : α → Bool) (l : List (Nat × α)) (i : Nat) (h : aWf p l = true) : aWf p (aErase l i) = true := by
  induction l with
  | nil => exact h
  | cons a r ih =>
    obtain ⟨k, v⟩ := a
    obtain ⟨hv, hk, hr⟩ := (aWf_cons p k v r).mp h
    simp only [aErase]
    split
    · exact ih hr
    · exact (aWf_cons p k v _).mpr ⟨hv, fun q hq => hk q (mem_aErase r i q hq), ih hr⟩

theorem aWf_filter {α : Type} (p : α → Bool) (f : Nat × α → Bool) (l : List (Nat × α)) (h : aWf p l = true) : aWf p (l.filter f) = true := by
  induction l with
  | nil => exact h
  | cons a r ih =>
    obtain ⟨k, v⟩ := a
    obtain ⟨hv, hk, hr⟩ := (aWf_cons p k v r).mp h
    rw [List.filter_cons]
    split
    · exact (aWf_cons p k v _).mpr ⟨hv, fun q hq => hk q (List.mem_of_mem_filter hq), ih hr⟩
    · exact ih hr

theorem aFind_aErase_self {α : Type} (l : List (Nat × α)) (i : Nat) : aFind (aErase l i) i = none := by
  induction l with
  | nil => rfl
  | cons a r ih =>
    obtain ⟨k, v⟩ := a
    simp only [aErase]
    split
    · exact ih
    · rename_i he
      simp [aFind, he, ih]

theorem aFind_aErase_other {α : Type} (l : List (Nat × α)) (i j : Nat) (h : j ≠ i) : aFind (aErase l i) j = aFind l j := by
  induction l with
  | nil => rfl
  | cons a r ih =>
    obtain ⟨k, v⟩ := a
    simp only [aErase]
    split
    · rename_i he
      subst he
      simp [aFind, h.symm, ih]
    · simp [aFind, ih]

/-- Two canonical lists that list the same values at every key are one list. -/
theorem aWf_ext {α : Type} (p : α → Bool) (l m : List (Nat × α)) (hl : aWf p l = true) (hm : aWf p m = true)
    (h : ∀ i, aFind l i = aFind m i) : l = m := by
  induction l generalizing m with
  | nil =>
    cases m with
    | nil => rfl
    | cons a r => have := h a.1; simp [aFind] at this
  | cons a r ih =>
    obtain ⟨k, v⟩ := a
    obtain ⟨hv, hk, hr⟩ := (aWf_cons p k v r).mp hl
    cases m with
    | nil => have := h k; simp [aFind] at this
    | cons b t =>
      obtain ⟨k2, v2⟩ := b
      obtain ⟨hv2, hk2, hr2⟩ := (aWf_cons p k2 v2 t).mp hm
      have hkk : k = k2 := by
        rcases Nat.lt_trichotomy k k2 with hlt | he | hlt
        · have h1 := h k
          have h2 : aFind ((k2, v2) :: t) k = none := aFind_none_of_above _ k (by
            intro q hq
            rcases List.mem_cons.mp hq with e | e
            · subst e; exact hlt
            · exact Nat.lt_trans hlt (hk2 q e))
          rw [h2] at h1; simp [aFind] at h1
        · exact he
        · have h1 := h k2
          have h2 : aFind ((k, v) :: r) k2 = none := aFind_none_of_above _ k2 (by
            intro q hq
            rcases List.mem_cons.mp hq with e | e
            · subst e; exact hlt
            · exact Nat.lt_trans hlt (hk q e))
          rw [h2] at h1; simp [aFind] at h1
      subst hkk
      have hvv : v = v2 := by have := h k; simpa [aFind] using this
      subst hvv
      congr 1
      apply ih t hr hr2
      intro i
      by_cases hi : k = i
      · subst hi
        rw [aFind_none_of_above r k hk, aFind_none_of_above t k hk2]
      · have := h i; simpa [aFind, hi] using this

theorem aFind_filter_key {α : Type} (l : List (Nat × α)) (f : Nat × α → Bool) (i : Nat) (h : ∀ x, f (i, x) = true) :
    aFind (l.filter f) i = aFind l i := by
  induction l with
  | nil => rfl
  | cons a r ih =>
    obtain ⟨k, v⟩ := a
    by_cases e : k = i
    · subst e
      simp [h v, aFind]
    · by_cases g : f (k, v) = true
      · simp [g, aFind, e, ih]
      · simp [g, aFind, e, ih]

end Sys2Proof.Machine
end

