-- ==== Sys2Proof/Laws/Memory.lean ====
section
/-! SUPPORT. Laws of memory and of registers: a read after a write to the same place gives the value written, a write leaves every other
place alone, and every operation keeps the canonical form. -/

namespace Sys2Proof.Machine

open Sys2Proof

/-! One byte. -/

theorem memByte_memSet_self (m : List Host.Cell) (a : Nat) (b : Byte) : memByte (memSet m a b) a = b := by
  unfold memByte memSet
  split
  · rename_i h
    subst h
    rw [aFind_aErase_self]; rfl
  · rw [aFind_aPut_self]; rfl

theorem memByte_memSet_other (m : List Host.Cell) (a c : Nat) (b : Byte) (h : c ≠ a) : memByte (memSet m a b) c = memByte m c := by
  unfold memByte memSet
  split
  · rw [aFind_aErase_other _ _ _ h]
  · rw [aFind_aPut_other _ _ _ _ h]

/-! Runs of bytes. -/

theorem memByte_memWrite_below (m : List Host.Cell) (a c : Nat) (l : List Byte) (h : c < a) : memByte (memWrite m a l) c = memByte m c := by
  induction l generalizing m a with
  | nil => rfl
  | cons b r ih =>
    rw [memWrite, ih _ _ (by omega), memByte_memSet_other _ _ _ _ (by omega)]

theorem memByte_memWrite_above (m : List Host.Cell) (a c : Nat) (l : List Byte) (h : a + l.length ≤ c) :
    memByte (memWrite m a l) c = memByte m c := by
  induction l generalizing m a with
  | nil => rfl
  | cons b r ih =>
    simp only [List.length_cons] at h
    rw [memWrite, ih _ _ (by omega), memByte_memSet_other _ _ _ _ (by omega)]

theorem memByte_memWrite_in (m : List Host.Cell) (a i : Nat) (l : List Byte) (h : i < l.length) :
    memByte (memWrite m a l) (a + i) = l[i] := by
  induction l generalizing m a i with
  | nil => simp at h
  | cons b r ih =>
    rw [memWrite]
    cases i with
    | zero =>
      rw [memByte_memWrite_below _ _ _ _ (by omega)]
      exact memByte_memSet_self m a b
    | succ j =>
      simp only [List.length_cons] at h
      have := ih (memSet m a b) (a + 1) j (by omega)
      rw [show a + (j + 1) = a + 1 + j by omega, this]; rfl

theorem memBytes_length (m : List Host.Cell) (a n : Nat) : (memBytes m a n).length = n := by
  induction n generalizing a with
  | zero => rfl
  | succ n ih => simp [memBytes, ih]

theorem memBytes_memWrite_self (m : List Host.Cell) (a : Nat) (l : List Byte) : memBytes (memWrite m a l) a l.length = l := by
  induction l generalizing m a with
  | nil => rfl
  | cons b r ih =>
    simp only [List.length_cons, memBytes, memWrite]
    rw [memByte_memWrite_below _ _ _ _ (by omega), memByte_memSet_self, ih]

theorem memBytes_memWrite_apart (m : List Host.Cell) (a c n : Nat) (l : List Byte) (h : c + n ≤ a ∨ a + l.length ≤ c) :
    memBytes (memWrite m a l) c n = memBytes m c n := by
  induction n generalizing c with
  | zero => rfl
  | succ n ih =>
    simp only [memBytes]
    rw [ih (c + 1) (by omega)]
    congr 1
    rcases h with h | h
    · exact memByte_memWrite_below _ _ _ _ (by omega)
    · exact memByte_memWrite_above _ _ _ _ (by omega)

/-! Little-endian numbers (R6). -/

theorem leBytes_length (n x : Nat) : (leBytes n x).length = n := by
  induction n generalizing x with
  | zero => rfl
  | succ n ih => simp [leBytes, ih]

theorem leNat_leBytes (n x : Nat) : leNat (leBytes n x) = x % 256 ^ n := by
  induction n generalizing x with
  | zero => simp [leBytes, leNat, Nat.mod_one]
  | succ n ih =>
    simp only [leBytes, leNat, ih, BitVec.toNat_ofNat]
    rw [show (2 : Nat) ^ 8 = 256 by norm_num, Nat.mod_mod, pow_succ, Nat.mul_comm (256 ^ n) 256, Nat.mod_mul]

theorem State.load_store_self (s : State) (a n v : Nat) : (s.store a n v).load a n = v % 256 ^ n := by
  unfold State.load State.store
  have := memBytes_memWrite_self s.mem a (leBytes n v)
  rw [leBytes_length] at this
  simp only [this, leNat_leBytes]

theorem State.load_store_apart (s : State) (a n v c k : Nat) (h : c + k ≤ a ∨ a + n ≤ c) : (s.store a n v).load c k = s.load c k := by
  unfold State.load State.store
  rw [memBytes_memWrite_apart _ _ _ _ _ (by rw [leBytes_length]; exact h)]

/-! The canonical form of memory. -/

theorem memWf_memSet (m : List Host.Cell) (a : Nat) (b : Byte) (h : memWf m = true) : memWf (memSet m a b) = true := by
  unfold memSet
  split
  · exact aWf_aErase _ m a h
  · rename_i hb
    exact aWf_aPut _ m a b (by simpa using hb) h

theorem memWf_memWrite (m : List Host.Cell) (a : Nat) (l : List Byte) (h : memWf m = true) : memWf (memWrite m a l) = true := by
  induction l generalizing m a with
  | nil => exact h
  | cons b r ih => exact ih _ _ (memWf_memSet m a b h)

theorem memWf_filter (m : List Host.Cell) (f : Host.Cell → Bool) (h : memWf m = true) : memWf (m.filter f) = true := aWf_filter _ f m h

theorem memWf_memClear (m : List Host.Cell) (a n : Nat) (h : memWf m = true) : memWf (memClear m a n) = true := memWf_filter m _ h

theorem memWf_memCopy (m : List Host.Cell) (d a n : Nat) (h : memWf m = true) : memWf (memCopy m d a n) = true := by
  unfold memCopy
  have key : ∀ (l : List Host.Cell) (x : List Host.Cell), memWf x = true →
      memWf (l.foldl (fun y c => memSet y (c.1 - a + d) c.2) x) = true := by
    intro l
    induction l with
    | nil => intro x hx; exact hx
    | cons c r ih => intro x hx; exact ih _ (memWf_memSet x _ _ hx)
  exact key _ _ (memWf_memClear m d n h)

theorem memByte_memClear (m : List Host.Cell) (a n c : Nat) :
    memByte (memClear m a n) c = if a ≤ c ∧ c < a + n then 0 else memByte m c := by
  unfold memByte memClear
  induction m with
  | nil => simp [aFind]
  | cons x r ih =>
    obtain ⟨k, v⟩ := x
    rw [List.filter_cons]
    by_cases hk : a ≤ k ∧ k < a + n
    · have : (!(decide (a ≤ k) && decide (k < a + n))) = false := by simp [hk.1, hk.2]
      simp only [this, Bool.false_eq_true, if_false, ih, aFind]
      split
      · rfl
      · rename_i hc
        have : ¬ k = c := fun e => hc (e ▸ hk)
        simp [this]
    · have : (!(decide (a ≤ k) && decide (k < a + n))) = true := by
        simp only [Bool.not_eq_true', Bool.and_eq_false_iff, decide_eq_false_iff_not]; omega
      simp only [this, if_true, aFind]
      by_cases he : k = c
      · subst he; simp [hk]
      · simp only [he, if_false, ih]

/-! Register fields. -/

theorem State.rd_wr_self (s : State) (f : Fld) (v : Nat) : (s.wr f v).rd f = v % 2 ^ f.w := by
  unfold State.rd State.wr
  by_cases h : v % 2 ^ f.w = f.rst
  · simp only [h, if_true, aFind_aErase_self]; rfl
  · simp only [h, if_false, aFind_aPut_self]; rfl

theorem State.rd_wr_other (s : State) (f g : Fld) (v : Nat) (h : g.key ≠ f.key) : (s.wr f v).rd g = s.rd g := by
  unfold State.rd State.wr
  by_cases hv : v % 2 ^ f.w = f.rst
  · simp only [hv, if_true, aFind_aErase_other _ _ _ h]
  · simp only [hv, if_false, aFind_aPut_other _ _ _ _ h]

theorem State.rd_reg0_self (s : State) (f : Fld) : (s.reg0 f).rd f = f.rst := by
  unfold State.rd State.reg0
  simp only [aFind_aErase_self]; rfl

theorem State.rd_reg0_other (s : State) (f g : Fld) (h : g.key ≠ f.key) : (s.reg0 f).rd g = s.rd g := by
  unfold State.rd State.reg0
  simp only [aFind_aErase_other _ _ _ h]

/-- A count never passes the largest value of its field (R11). -/
theorem State.rd_bump_self (s : State) (f : Fld) (n : Nat) : (s.bump f n).rd f = min (s.rd f + n) (2 ^ f.w - 1) := by
  unfold State.bump
  rw [State.rd_wr_self]
  exact Nat.mod_eq_of_lt (by have := Nat.two_pow_pos f.w; omega)

theorem State.rd_bump_other (s : State) (f g : Fld) (n : Nat) (h : g.key ≠ f.key) : (s.bump f n).rd g = s.rd g :=
  State.rd_wr_other s f g _ h

theorem regsWf_wr (s : State) (f : Fld) (v : Nat) (h : regsWf s.regs = true) : regsWf (s.wr f v).regs = true := by
  unfold State.wr
  simp only
  split
  · exact aWf_aErase _ _ _ h
  · exact aWf_aPut _ _ _ _ rfl h

theorem regsWf_reg0 (s : State) (f : Fld) (h : regsWf s.regs = true) : regsWf (s.reg0 f).regs = true := aWf_aErase _ _ _ h

end Sys2Proof.Machine
end

