-- ==== Sys2Proof/Laws/State.lean ====
section
/-! SUPPORT. What each operation of Machine/Ops.lean leaves as it was: one lemma for each field and each operation. -/

namespace Sys2Proof.Machine

open Sys2Proof

theorem foldl_same {α β γ : Type} (g : β → γ) {f : β → α → β} (h : ∀ b a, g (f b a) = g b) (l : List α) (b : β) : g (l.foldl f b) = g b := by
  induction l generalizing b with
  | nil => rfl
  | cons a r ih => exact (ih (f b a)).trans (h b a)

/-! wr. -/

@[simp] theorem State.wr_now (s : State) (f : Fld) (v : Nat) : (s.wr f v).now = s.now := rfl
@[simp] theorem State.wr_freeCtr (s : State) (f : Fld) (v : Nat) : (s.wr f v).freeCtr = s.freeCtr := rfl
@[simp] theorem State.wr_mem (s : State) (f : Fld) (v : Nat) : (s.wr f v).mem = s.mem := rfl
@[simp] theorem State.wr_out (s : State) (f : Fld) (v : Nat) : (s.wr f v).out = s.out := rfl
@[simp] theorem State.wr_pending (s : State) (f : Fld) (v : Nat) : (s.wr f v).pending = s.pending := rfl
@[simp] theorem State.wr_score (s : State) (f : Fld) (v : Nat) : (s.wr f v).score = s.score := rfl
@[simp] theorem State.wr_ports (s : State) (f : Fld) (v : Nat) : (s.wr f v).ports = s.ports := rfl
@[simp] theorem State.wr_chans (s : State) (f : Fld) (v : Nat) : (s.wr f v).chans = s.chans := rfl
@[simp] theorem State.wr_cmds (s : State) (f : Fld) (v : Nat) : (s.wr f v).cmds = s.cmds := rfl
@[simp] theorem State.wr_nextCmd (s : State) (f : Fld) (v : Nat) : (s.wr f v).nextCmd = s.nextCmd := rfl
@[simp] theorem State.wr_doneCtr (s : State) (f : Fld) (v : Nat) : (s.wr f v).doneCtr = s.doneCtr := rfl
@[simp] theorem State.wr_grants (s : State) (f : Fld) (v : Nat) : (s.wr f v).grants = s.grants := rfl
@[simp] theorem State.wr_hold (s : State) (f : Fld) (v : Nat) : (s.wr f v).hold = s.hold := rfl
@[simp] theorem State.wr_late (s : State) (f : Fld) (v : Nat) : (s.wr f v).late = s.late := rfl
@[simp] theorem State.wr_ctxs (s : State) (f : Fld) (v : Nat) : (s.wr f v).ctxs = s.ctxs := rfl
@[simp] theorem State.wr_allocs (s : State) (f : Fld) (v : Nat) : (s.wr f v).allocs = s.allocs := rfl
@[simp] theorem State.wr_ranges (s : State) (f : Fld) (v : Nat) : (s.wr f v).ranges = s.ranges := rfl
@[simp] theorem State.wr_windows (s : State) (f : Fld) (v : Nat) : (s.wr f v).windows = s.windows := rfl
@[simp] theorem State.wr_moves (s : State) (f : Fld) (v : Nat) : (s.wr f v).moves = s.moves := rfl
@[simp] theorem State.wr_nextMove (s : State) (f : Fld) (v : Nat) : (s.wr f v).nextMove = s.nextMove := rfl
@[simp] theorem State.wr_wants (s : State) (f : Fld) (v : Nat) : (s.wr f v).wants = s.wants := rfl
@[simp] theorem State.wr_fwds (s : State) (f : Fld) (v : Nat) : (s.wr f v).fwds = s.fwds := rfl
@[simp] theorem State.wr_remaps (s : State) (f : Fld) (v : Nat) : (s.wr f v).remaps = s.remaps := rfl
@[simp] theorem State.wr_tlbs (s : State) (f : Fld) (v : Nat) : (s.wr f v).tlbs = s.tlbs := rfl
@[simp] theorem State.wr_faults (s : State) (f : Fld) (v : Nat) : (s.wr f v).faults = s.faults := rfl
@[simp] theorem State.wr_nextFault (s : State) (f : Fld) (v : Nat) : (s.wr f v).nextFault = s.nextFault := rfl
@[simp] theorem State.wr_descs (s : State) (f : Fld) (v : Nat) : (s.wr f v).descs = s.descs := rfl
@[simp] theorem State.wr_nextDesc (s : State) (f : Fld) (v : Nat) : (s.wr f v).nextDesc = s.nextDesc := rfl
@[simp] theorem State.wr_fabric (s : State) (f : Fld) (v : Nat) : (s.wr f v).fabric = s.fabric := rfl
@[simp] theorem State.wr_topo (s : State) (f : Fld) (v : Nat) : (s.wr f v).topo = s.topo := rfl
@[simp] theorem State.wr_tiles (s : State) (f : Fld) (v : Nat) : (s.wr f v).tiles = s.tiles := rfl
@[simp] theorem State.wr_nextTile (s : State) (f : Fld) (v : Nat) : (s.wr f v).nextTile = s.nextTile := rfl
@[simp] theorem State.wr_arming (s : State) (f : Fld) (v : Nat) : (s.wr f v).arming = s.arming := rfl
@[simp] theorem State.wr_injects (s : State) (f : Fld) (v : Nat) : (s.wr f v).injects = s.injects := rfl
@[simp] theorem State.wr_routers (s : State) (f : Fld) (v : Nat) : (s.wr f v).routers = s.routers := rfl
@[simp] theorem State.wr_areas (s : State) (f : Fld) (v : Nat) : (s.wr f v).areas = s.areas := rfl
@[simp] theorem State.wr_decided (s : State) (f : Fld) (v : Nat) : (s.wr f v).decided = s.decided := rfl
@[simp] theorem State.wr_stepSlots (s : State) (f : Fld) (v : Nat) : (s.wr f v).stepSlots = s.stepSlots := rfl
@[simp] theorem State.wr_hands (s : State) (f : Fld) (v : Nat) : (s.wr f v).hands = s.hands := rfl
@[simp] theorem State.wr_kitty (s : State) (f : Fld) (v : Nat) : (s.wr f v).kitty = s.kitty := rfl
@[simp] theorem State.wr_steps (s : State) (f : Fld) (v : Nat) : (s.wr f v).steps = s.steps := rfl
@[simp] theorem State.wr_entries (s : State) (f : Fld) (v : Nat) : (s.wr f v).entries = s.entries := rfl
@[simp] theorem State.wr_treeNodes (s : State) (f : Fld) (v : Nat) : (s.wr f v).treeNodes = s.treeNodes := rfl
@[simp] theorem State.wr_variants (s : State) (f : Fld) (v : Nat) : (s.wr f v).variants = s.variants := rfl
@[simp] theorem State.wr_dealing (s : State) (f : Fld) (v : Nat) : (s.wr f v).dealing = s.dealing := rfl
@[simp] theorem State.wr_accounts (s : State) (f : Fld) (v : Nat) : (s.wr f v).accounts = s.accounts := rfl
@[simp] theorem State.wr_launches (s : State) (f : Fld) (v : Nat) : (s.wr f v).launches = s.launches := rfl
@[simp] theorem State.wr_nextLaunch (s : State) (f : Fld) (v : Nat) : (s.wr f v).nextLaunch = s.nextLaunch := rfl
@[simp] theorem State.wr_rings (s : State) (f : Fld) (v : Nat) : (s.wr f v).rings = s.rings := rfl
@[simp] theorem State.wr_programs (s : State) (f : Fld) (v : Nat) : (s.wr f v).programs = s.programs := rfl
@[simp] theorem State.wr_coreFree (s : State) (f : Fld) (v : Nat) : (s.wr f v).coreFree = s.coreFree := rfl
@[simp] theorem State.wr_phaseSince (s : State) (f : Fld) (v : Nat) : (s.wr f v).phaseSince = s.phaseSince := rfl
@[simp] theorem State.wr_phaseNs (s : State) (f : Fld) (v : Nat) : (s.wr f v).phaseNs = s.phaseNs := rfl
@[simp] theorem State.wr_draws (s : State) (f : Fld) (v : Nat) : (s.wr f v).draws = s.draws := rfl
@[simp] theorem State.wr_units (s : State) (f : Fld) (v : Nat) : (s.wr f v).units = s.units := rfl
@[simp] theorem State.wr_bankMap (s : State) (f : Fld) (v : Nat) : (s.wr f v).bankMap = s.bankMap := rfl
@[simp] theorem State.wr_badBanks (s : State) (f : Fld) (v : Nat) : (s.wr f v).badBanks = s.badBanks := rfl
@[simp] theorem State.wr_selfDue (s : State) (f : Fld) (v : Nat) : (s.wr f v).selfDue = s.selfDue := rfl
@[simp] theorem State.wr_recordDue (s : State) (f : Fld) (v : Nat) : (s.wr f v).recordDue = s.recordDue := rfl
@[simp] theorem State.wr_slots (s : State) (f : Fld) (v : Nat) : (s.wr f v).slots = s.slots := rfl
@[simp] theorem State.wr_switches (s : State) (f : Fld) (v : Nat) : (s.wr f v).switches = s.switches := rfl
@[simp] theorem State.wr_windowTurn (s : State) (f : Fld) (v : Nat) : (s.wr f v).windowTurn = s.windowTurn := rfl
@[simp] theorem State.wr_recheck (s : State) (f : Fld) (v : Nat) : (s.wr f v).recheck = s.recheck := rfl
@[simp] theorem State.wr_recheckAt (s : State) (f : Fld) (v : Nat) : (s.wr f v).recheckAt = s.recheckAt := rfl
@[simp] theorem State.wr_mgmt (s : State) (f : Fld) (v : Nat) : (s.wr f v).mgmt = s.mgmt := rfl
@[simp] theorem State.wr_power (s : State) (f : Fld) (v : Nat) : (s.wr f v).power = s.power := rfl
@[simp] theorem State.wr_sec (s : State) (f : Fld) (v : Nat) : (s.wr f v).sec = s.sec := rfl
@[simp] theorem State.wr_clkMoved (s : State) (f : Fld) (v : Nat) : (s.wr f v).clkMoved = s.clkMoved := rfl
@[simp] theorem State.wr_clkBring (s : State) (f : Fld) (v : Nat) : (s.wr f v).clkBring = s.clkBring := rfl
@[simp] theorem State.wr_badSince (s : State) (f : Fld) (v : Nat) : (s.wr f v).badSince = s.badSince := rfl
@[simp] theorem State.wr_tableWaits (s : State) (f : Fld) (v : Nat) : (s.wr f v).tableWaits = s.tableWaits := rfl
@[simp] theorem State.wr_cacheSet (s : State) (f : Fld) (v : Nat) : (s.wr f v).cacheSet = s.cacheSet := rfl
@[simp] theorem State.wr_ringLanded (s : State) (f : Fld) (v : Nat) : (s.wr f v).ringLanded = s.ringLanded := rfl
@[simp] theorem State.wr_selfNow (s : State) (f : Fld) (v : Nat) : (s.wr f v).selfNow = s.selfNow := rfl

/-! bump. -/

@[simp] theorem State.bump_now (s : State) (f : Fld) (n : Nat) : (s.bump f n).now = s.now := rfl
@[simp] theorem State.bump_freeCtr (s : State) (f : Fld) (n : Nat) : (s.bump f n).freeCtr = s.freeCtr := rfl
@[simp] theorem State.bump_mem (s : State) (f : Fld) (n : Nat) : (s.bump f n).mem = s.mem := rfl
@[simp] theorem State.bump_out (s : State) (f : Fld) (n : Nat) : (s.bump f n).out = s.out := rfl
@[simp] theorem State.bump_pending (s : State) (f : Fld) (n : Nat) : (s.bump f n).pending = s.pending := rfl
@[simp] theorem State.bump_score (s : State) (f : Fld) (n : Nat) : (s.bump f n).score = s.score := rfl
@[simp] theorem State.bump_ports (s : State) (f : Fld) (n : Nat) : (s.bump f n).ports = s.ports := rfl
@[simp] theorem State.bump_chans (s : State) (f : Fld) (n : Nat) : (s.bump f n).chans = s.chans := rfl
@[simp] theorem State.bump_cmds (s : State) (f : Fld) (n : Nat) : (s.bump f n).cmds = s.cmds := rfl
@[simp] theorem State.bump_nextCmd (s : State) (f : Fld) (n : Nat) : (s.bump f n).nextCmd = s.nextCmd := rfl
@[simp] theorem State.bump_doneCtr (s : State) (f : Fld) (n : Nat) : (s.bump f n).doneCtr = s.doneCtr := rfl
@[simp] theorem State.bump_grants (s : State) (f : Fld) (n : Nat) : (s.bump f n).grants = s.grants := rfl
@[simp] theorem State.bump_hold (s : State) (f : Fld) (n : Nat) : (s.bump f n).hold = s.hold := rfl
@[simp] theorem State.bump_late (s : State) (f : Fld) (n : Nat) : (s.bump f n).late = s.late := rfl
@[simp] theorem State.bump_ctxs (s : State) (f : Fld) (n : Nat) : (s.bump f n).ctxs = s.ctxs := rfl
@[simp] theorem State.bump_allocs (s : State) (f : Fld) (n : Nat) : (s.bump f n).allocs = s.allocs := rfl
@[simp] theorem State.bump_ranges (s : State) (f : Fld) (n : Nat) : (s.bump f n).ranges = s.ranges := rfl
@[simp] theorem State.bump_windows (s : State) (f : Fld) (n : Nat) : (s.bump f n).windows = s.windows := rfl
@[simp] theorem State.bump_moves (s : State) (f : Fld) (n : Nat) : (s.bump f n).moves = s.moves := rfl
@[simp] theorem State.bump_nextMove (s : State) (f : Fld) (n : Nat) : (s.bump f n).nextMove = s.nextMove := rfl
@[simp] theorem State.bump_wants (s : State) (f : Fld) (n : Nat) : (s.bump f n).wants = s.wants := rfl
@[simp] theorem State.bump_fwds (s : State) (f : Fld) (n : Nat) : (s.bump f n).fwds = s.fwds := rfl
@[simp] theorem State.bump_remaps (s : State) (f : Fld) (n : Nat) : (s.bump f n).remaps = s.remaps := rfl
@[simp] theorem State.bump_tlbs (s : State) (f : Fld) (n : Nat) : (s.bump f n).tlbs = s.tlbs := rfl
@[simp] theorem State.bump_faults (s : State) (f : Fld) (n : Nat) : (s.bump f n).faults = s.faults := rfl
@[simp] theorem State.bump_nextFault (s : State) (f : Fld) (n : Nat) : (s.bump f n).nextFault = s.nextFault := rfl
@[simp] theorem State.bump_descs (s : State) (f : Fld) (n : Nat) : (s.bump f n).descs = s.descs := rfl
@[simp] theorem State.bump_nextDesc (s : State) (f : Fld) (n : Nat) : (s.bump f n).nextDesc = s.nextDesc := rfl
@[simp] theorem State.bump_fabric (s : State) (f : Fld) (n : Nat) : (s.bump f n).fabric = s.fabric := rfl
@[simp] theorem State.bump_topo (s : State) (f : Fld) (n : Nat) : (s.bump f n).topo = s.topo := rfl
@[simp] theorem State.bump_tiles (s : State) (f : Fld) (n : Nat) : (s.bump f n).tiles = s.tiles := rfl
@[simp] theorem State.bump_nextTile (s : State) (f : Fld) (n : Nat) : (s.bump f n).nextTile = s.nextTile := rfl
@[simp] theorem State.bump_arming (s : State) (f : Fld) (n : Nat) : (s.bump f n).arming = s.arming := rfl
@[simp] theorem State.bump_injects (s : State) (f : Fld) (n : Nat) : (s.bump f n).injects = s.injects := rfl
@[simp] theorem State.bump_routers (s : State) (f : Fld) (n : Nat) : (s.bump f n).routers = s.routers := rfl
@[simp] theorem State.bump_areas (s : State) (f : Fld) (n : Nat) : (s.bump f n).areas = s.areas := rfl
@[simp] theorem State.bump_decided (s : State) (f : Fld) (n : Nat) : (s.bump f n).decided = s.decided := rfl
@[simp] theorem State.bump_stepSlots (s : State) (f : Fld) (n : Nat) : (s.bump f n).stepSlots = s.stepSlots := rfl
@[simp] theorem State.bump_hands (s : State) (f : Fld) (n : Nat) : (s.bump f n).hands = s.hands := rfl
@[simp] theorem State.bump_kitty (s : State) (f : Fld) (n : Nat) : (s.bump f n).kitty = s.kitty := rfl
@[simp] theorem State.bump_steps (s : State) (f : Fld) (n : Nat) : (s.bump f n).steps = s.steps := rfl
@[simp] theorem State.bump_entries (s : State) (f : Fld) (n : Nat) : (s.bump f n).entries = s.entries := rfl
@[simp] theorem State.bump_treeNodes (s : State) (f : Fld) (n : Nat) : (s.bump f n).treeNodes = s.treeNodes := rfl
@[simp] theorem State.bump_variants (s : State) (f : Fld) (n : Nat) : (s.bump f n).variants = s.variants := rfl
@[simp] theorem State.bump_dealing (s : State) (f : Fld) (n : Nat) : (s.bump f n).dealing = s.dealing := rfl
@[simp] theorem State.bump_accounts (s : State) (f : Fld) (n : Nat) : (s.bump f n).accounts = s.accounts := rfl
@[simp] theorem State.bump_launches (s : State) (f : Fld) (n : Nat) : (s.bump f n).launches = s.launches := rfl
@[simp] theorem State.bump_nextLaunch (s : State) (f : Fld) (n : Nat) : (s.bump f n).nextLaunch = s.nextLaunch := rfl
@[simp] theorem State.bump_rings (s : State) (f : Fld) (n : Nat) : (s.bump f n).rings = s.rings := rfl
@[simp] theorem State.bump_programs (s : State) (f : Fld) (n : Nat) : (s.bump f n).programs = s.programs := rfl
@[simp] theorem State.bump_coreFree (s : State) (f : Fld) (n : Nat) : (s.bump f n).coreFree = s.coreFree := rfl
@[simp] theorem State.bump_phaseSince (s : State) (f : Fld) (n : Nat) : (s.bump f n).phaseSince = s.phaseSince := rfl
@[simp] theorem State.bump_phaseNs (s : State) (f : Fld) (n : Nat) : (s.bump f n).phaseNs = s.phaseNs := rfl
@[simp] theorem State.bump_draws (s : State) (f : Fld) (n : Nat) : (s.bump f n).draws = s.draws := rfl
@[simp] theorem State.bump_units (s : State) (f : Fld) (n : Nat) : (s.bump f n).units = s.units := rfl
@[simp] theorem State.bump_bankMap (s : State) (f : Fld) (n : Nat) : (s.bump f n).bankMap = s.bankMap := rfl
@[simp] theorem State.bump_badBanks (s : State) (f : Fld) (n : Nat) : (s.bump f n).badBanks = s.badBanks := rfl
@[simp] theorem State.bump_selfDue (s : State) (f : Fld) (n : Nat) : (s.bump f n).selfDue = s.selfDue := rfl
@[simp] theorem State.bump_recordDue (s : State) (f : Fld) (n : Nat) : (s.bump f n).recordDue = s.recordDue := rfl
@[simp] theorem State.bump_slots (s : State) (f : Fld) (n : Nat) : (s.bump f n).slots = s.slots := rfl
@[simp] theorem State.bump_switches (s : State) (f : Fld) (n : Nat) : (s.bump f n).switches = s.switches := rfl
@[simp] theorem State.bump_windowTurn (s : State) (f : Fld) (n : Nat) : (s.bump f n).windowTurn = s.windowTurn := rfl
@[simp] theorem State.bump_recheck (s : State) (f : Fld) (n : Nat) : (s.bump f n).recheck = s.recheck := rfl
@[simp] theorem State.bump_recheckAt (s : State) (f : Fld) (n : Nat) : (s.bump f n).recheckAt = s.recheckAt := rfl
@[simp] theorem State.bump_mgmt (s : State) (f : Fld) (n : Nat) : (s.bump f n).mgmt = s.mgmt := rfl
@[simp] theorem State.bump_power (s : State) (f : Fld) (n : Nat) : (s.bump f n).power = s.power := rfl
@[simp] theorem State.bump_sec (s : State) (f : Fld) (n : Nat) : (s.bump f n).sec = s.sec := rfl
@[simp] theorem State.bump_clkMoved (s : State) (f : Fld) (n : Nat) : (s.bump f n).clkMoved = s.clkMoved := rfl
@[simp] theorem State.bump_clkBring (s : State) (f : Fld) (n : Nat) : (s.bump f n).clkBring = s.clkBring := rfl
@[simp] theorem State.bump_badSince (s : State) (f : Fld) (n : Nat) : (s.bump f n).badSince = s.badSince := rfl
@[simp] theorem State.bump_tableWaits (s : State) (f : Fld) (n : Nat) : (s.bump f n).tableWaits = s.tableWaits := rfl
@[simp] theorem State.bump_cacheSet (s : State) (f : Fld) (n : Nat) : (s.bump f n).cacheSet = s.cacheSet := rfl
@[simp] theorem State.bump_ringLanded (s : State) (f : Fld) (n : Nat) : (s.bump f n).ringLanded = s.ringLanded := rfl
@[simp] theorem State.bump_selfNow (s : State) (f : Fld) (n : Nat) : (s.bump f n).selfNow = s.selfNow := rfl

/-! drop. -/

@[simp] theorem State.drop_now (s : State) (f : Fld) (n : Nat) : (s.drop f n).now = s.now := rfl
@[simp] theorem State.drop_freeCtr (s : State) (f : Fld) (n : Nat) : (s.drop f n).freeCtr = s.freeCtr := rfl
@[simp] theorem State.drop_mem (s : State) (f : Fld) (n : Nat) : (s.drop f n).mem = s.mem := rfl
@[simp] theorem State.drop_out (s : State) (f : Fld) (n : Nat) : (s.drop f n).out = s.out := rfl
@[simp] theorem State.drop_pending (s : State) (f : Fld) (n : Nat) : (s.drop f n).pending = s.pending := rfl
@[simp] theorem State.drop_score (s : State) (f : Fld) (n : Nat) : (s.drop f n).score = s.score := rfl
@[simp] theorem State.drop_ports (s : State) (f : Fld) (n : Nat) : (s.drop f n).ports = s.ports := rfl
@[simp] theorem State.drop_chans (s : State) (f : Fld) (n : Nat) : (s.drop f n).chans = s.chans := rfl
@[simp] theorem State.drop_cmds (s : State) (f : Fld) (n : Nat) : (s.drop f n).cmds = s.cmds := rfl
@[simp] theorem State.drop_nextCmd (s : State) (f : Fld) (n : Nat) : (s.drop f n).nextCmd = s.nextCmd := rfl
@[simp] theorem State.drop_doneCtr (s : State) (f : Fld) (n : Nat) : (s.drop f n).doneCtr = s.doneCtr := rfl
@[simp] theorem State.drop_grants (s : State) (f : Fld) (n : Nat) : (s.drop f n).grants = s.grants := rfl
@[simp] theorem State.drop_hold (s : State) (f : Fld) (n : Nat) : (s.drop f n).hold = s.hold := rfl
@[simp] theorem State.drop_late (s : State) (f : Fld) (n : Nat) : (s.drop f n).late = s.late := rfl
@[simp] theorem State.drop_ctxs (s : State) (f : Fld) (n : Nat) : (s.drop f n).ctxs = s.ctxs := rfl
@[simp] theorem State.drop_allocs (s : State) (f : Fld) (n : Nat) : (s.drop f n).allocs = s.allocs := rfl
@[simp] theorem State.drop_ranges (s : State) (f : Fld) (n : Nat) : (s.drop f n).ranges = s.ranges := rfl
@[simp] theorem State.drop_windows (s : State) (f : Fld) (n : Nat) : (s.drop f n).windows = s.windows := rfl
@[simp] theorem State.drop_moves (s : State) (f : Fld) (n : Nat) : (s.drop f n).moves = s.moves := rfl
@[simp] theorem State.drop_nextMove (s : State) (f : Fld) (n : Nat) : (s.drop f n).nextMove = s.nextMove := rfl
@[simp] theorem State.drop_wants (s : State) (f : Fld) (n : Nat) : (s.drop f n).wants = s.wants := rfl
@[simp] theorem State.drop_fwds (s : State) (f : Fld) (n : Nat) : (s.drop f n).fwds = s.fwds := rfl
@[simp] theorem State.drop_remaps (s : State) (f : Fld) (n : Nat) : (s.drop f n).remaps = s.remaps := rfl
@[simp] theorem State.drop_tlbs (s : State) (f : Fld) (n : Nat) : (s.drop f n).tlbs = s.tlbs := rfl
@[simp] theorem State.drop_faults (s : State) (f : Fld) (n : Nat) : (s.drop f n).faults = s.faults := rfl
@[simp] theorem State.drop_nextFault (s : State) (f : Fld) (n : Nat) : (s.drop f n).nextFault = s.nextFault := rfl
@[simp] theorem State.drop_descs (s : State) (f : Fld) (n : Nat) : (s.drop f n).descs = s.descs := rfl
@[simp] theorem State.drop_nextDesc (s : State) (f : Fld) (n : Nat) : (s.drop f n).nextDesc = s.nextDesc := rfl
@[simp] theorem State.drop_fabric (s : State) (f : Fld) (n : Nat) : (s.drop f n).fabric = s.fabric := rfl
@[simp] theorem State.drop_topo (s : State) (f : Fld) (n : Nat) : (s.drop f n).topo = s.topo := rfl
@[simp] theorem State.drop_tiles (s : State) (f : Fld) (n : Nat) : (s.drop f n).tiles = s.tiles := rfl
@[simp] theorem State.drop_nextTile (s : State) (f : Fld) (n : Nat) : (s.drop f n).nextTile = s.nextTile := rfl
@[simp] theorem State.drop_arming (s : State) (f : Fld) (n : Nat) : (s.drop f n).arming = s.arming := rfl
@[simp] theorem State.drop_injects (s : State) (f : Fld) (n : Nat) : (s.drop f n).injects = s.injects := rfl
@[simp] theorem State.drop_routers (s : State) (f : Fld) (n : Nat) : (s.drop f n).routers = s.routers := rfl
@[simp] theorem State.drop_areas (s : State) (f : Fld) (n : Nat) : (s.drop f n).areas = s.areas := rfl
@[simp] theorem State.drop_decided (s : State) (f : Fld) (n : Nat) : (s.drop f n).decided = s.decided := rfl
@[simp] theorem State.drop_stepSlots (s : State) (f : Fld) (n : Nat) : (s.drop f n).stepSlots = s.stepSlots := rfl
@[simp] theorem State.drop_hands (s : State) (f : Fld) (n : Nat) : (s.drop f n).hands = s.hands := rfl
@[simp] theorem State.drop_kitty (s : State) (f : Fld) (n : Nat) : (s.drop f n).kitty = s.kitty := rfl
@[simp] theorem State.drop_steps (s : State) (f : Fld) (n : Nat) : (s.drop f n).steps = s.steps := rfl
@[simp] theorem State.drop_entries (s : State) (f : Fld) (n : Nat) : (s.drop f n).entries = s.entries := rfl
@[simp] theorem State.drop_treeNodes (s : State) (f : Fld) (n : Nat) : (s.drop f n).treeNodes = s.treeNodes := rfl
@[simp] theorem State.drop_variants (s : State) (f : Fld) (n : Nat) : (s.drop f n).variants = s.variants := rfl
@[simp] theorem State.drop_dealing (s : State) (f : Fld) (n : Nat) : (s.drop f n).dealing = s.dealing := rfl
@[simp] theorem State.drop_accounts (s : State) (f : Fld) (n : Nat) : (s.drop f n).accounts = s.accounts := rfl
@[simp] theorem State.drop_launches (s : State) (f : Fld) (n : Nat) : (s.drop f n).launches = s.launches := rfl
@[simp] theorem State.drop_nextLaunch (s : State) (f : Fld) (n : Nat) : (s.drop f n).nextLaunch = s.nextLaunch := rfl
@[simp] theorem State.drop_rings (s : State) (f : Fld) (n : Nat) : (s.drop f n).rings = s.rings := rfl
@[simp] theorem State.drop_programs (s : State) (f : Fld) (n : Nat) : (s.drop f n).programs = s.programs := rfl
@[simp] theorem State.drop_coreFree (s : State) (f : Fld) (n : Nat) : (s.drop f n).coreFree = s.coreFree := rfl
@[simp] theorem State.drop_phaseSince (s : State) (f : Fld) (n : Nat) : (s.drop f n).phaseSince = s.phaseSince := rfl
@[simp] theorem State.drop_phaseNs (s : State) (f : Fld) (n : Nat) : (s.drop f n).phaseNs = s.phaseNs := rfl
@[simp] theorem State.drop_draws (s : State) (f : Fld) (n : Nat) : (s.drop f n).draws = s.draws := rfl
@[simp] theorem State.drop_units (s : State) (f : Fld) (n : Nat) : (s.drop f n).units = s.units := rfl
@[simp] theorem State.drop_bankMap (s : State) (f : Fld) (n : Nat) : (s.drop f n).bankMap = s.bankMap := rfl
@[simp] theorem State.drop_badBanks (s : State) (f : Fld) (n : Nat) : (s.drop f n).badBanks = s.badBanks := rfl
@[simp] theorem State.drop_selfDue (s : State) (f : Fld) (n : Nat) : (s.drop f n).selfDue = s.selfDue := rfl
@[simp] theorem State.drop_recordDue (s : State) (f : Fld) (n : Nat) : (s.drop f n).recordDue = s.recordDue := rfl
@[simp] theorem State.drop_slots (s : State) (f : Fld) (n : Nat) : (s.drop f n).slots = s.slots := rfl
@[simp] theorem State.drop_switches (s : State) (f : Fld) (n : Nat) : (s.drop f n).switches = s.switches := rfl
@[simp] theorem State.drop_windowTurn (s : State) (f : Fld) (n : Nat) : (s.drop f n).windowTurn = s.windowTurn := rfl
@[simp] theorem State.drop_recheck (s : State) (f : Fld) (n : Nat) : (s.drop f n).recheck = s.recheck := rfl
@[simp] theorem State.drop_recheckAt (s : State) (f : Fld) (n : Nat) : (s.drop f n).recheckAt = s.recheckAt := rfl
@[simp] theorem State.drop_mgmt (s : State) (f : Fld) (n : Nat) : (s.drop f n).mgmt = s.mgmt := rfl
@[simp] theorem State.drop_power (s : State) (f : Fld) (n : Nat) : (s.drop f n).power = s.power := rfl
@[simp] theorem State.drop_sec (s : State) (f : Fld) (n : Nat) : (s.drop f n).sec = s.sec := rfl
@[simp] theorem State.drop_clkMoved (s : State) (f : Fld) (n : Nat) : (s.drop f n).clkMoved = s.clkMoved := rfl
@[simp] theorem State.drop_clkBring (s : State) (f : Fld) (n : Nat) : (s.drop f n).clkBring = s.clkBring := rfl
@[simp] theorem State.drop_badSince (s : State) (f : Fld) (n : Nat) : (s.drop f n).badSince = s.badSince := rfl
@[simp] theorem State.drop_tableWaits (s : State) (f : Fld) (n : Nat) : (s.drop f n).tableWaits = s.tableWaits := rfl
@[simp] theorem State.drop_cacheSet (s : State) (f : Fld) (n : Nat) : (s.drop f n).cacheSet = s.cacheSet := rfl
@[simp] theorem State.drop_ringLanded (s : State) (f : Fld) (n : Nat) : (s.drop f n).ringLanded = s.ringLanded := rfl
@[simp] theorem State.drop_selfNow (s : State) (f : Fld) (n : Nat) : (s.drop f n).selfNow = s.selfNow := rfl

/-! reg0. -/

@[simp] theorem State.reg0_now (s : State) (f : Fld) : (s.reg0 f).now = s.now := rfl
@[simp] theorem State.reg0_freeCtr (s : State) (f : Fld) : (s.reg0 f).freeCtr = s.freeCtr := rfl
@[simp] theorem State.reg0_mem (s : State) (f : Fld) : (s.reg0 f).mem = s.mem := rfl
@[simp] theorem State.reg0_out (s : State) (f : Fld) : (s.reg0 f).out = s.out := rfl
@[simp] theorem State.reg0_pending (s : State) (f : Fld) : (s.reg0 f).pending = s.pending := rfl
@[simp] theorem State.reg0_score (s : State) (f : Fld) : (s.reg0 f).score = s.score := rfl
@[simp] theorem State.reg0_ports (s : State) (f : Fld) : (s.reg0 f).ports = s.ports := rfl
@[simp] theorem State.reg0_chans (s : State) (f : Fld) : (s.reg0 f).chans = s.chans := rfl
@[simp] theorem State.reg0_cmds (s : State) (f : Fld) : (s.reg0 f).cmds = s.cmds := rfl
@[simp] theorem State.reg0_nextCmd (s : State) (f : Fld) : (s.reg0 f).nextCmd = s.nextCmd := rfl
@[simp] theorem State.reg0_doneCtr (s : State) (f : Fld) : (s.reg0 f).doneCtr = s.doneCtr := rfl
@[simp] theorem State.reg0_grants (s : State) (f : Fld) : (s.reg0 f).grants = s.grants := rfl
@[simp] theorem State.reg0_hold (s : State) (f : Fld) : (s.reg0 f).hold = s.hold := rfl
@[simp] theorem State.reg0_late (s : State) (f : Fld) : (s.reg0 f).late = s.late := rfl
@[simp] theorem State.reg0_ctxs (s : State) (f : Fld) : (s.reg0 f).ctxs = s.ctxs := rfl
@[simp] theorem State.reg0_allocs (s : State) (f : Fld) : (s.reg0 f).allocs = s.allocs := rfl
@[simp] theorem State.reg0_ranges (s : State) (f : Fld) : (s.reg0 f).ranges = s.ranges := rfl
@[simp] theorem State.reg0_windows (s : State) (f : Fld) : (s.reg0 f).windows = s.windows := rfl
@[simp] theorem State.reg0_moves (s : State) (f : Fld) : (s.reg0 f).moves = s.moves := rfl
@[simp] theorem State.reg0_nextMove (s : State) (f : Fld) : (s.reg0 f).nextMove = s.nextMove := rfl
@[simp] theorem State.reg0_wants (s : State) (f : Fld) : (s.reg0 f).wants = s.wants := rfl
@[simp] theorem State.reg0_fwds (s : State) (f : Fld) : (s.reg0 f).fwds = s.fwds := rfl
@[simp] theorem State.reg0_remaps (s : State) (f : Fld) : (s.reg0 f).remaps = s.remaps := rfl
@[simp] theorem State.reg0_tlbs (s : State) (f : Fld) : (s.reg0 f).tlbs = s.tlbs := rfl
@[simp] theorem State.reg0_faults (s : State) (f : Fld) : (s.reg0 f).faults = s.faults := rfl
@[simp] theorem State.reg0_nextFault (s : State) (f : Fld) : (s.reg0 f).nextFault = s.nextFault := rfl
@[simp] theorem State.reg0_descs (s : State) (f : Fld) : (s.reg0 f).descs = s.descs := rfl
@[simp] theorem State.reg0_nextDesc (s : State) (f : Fld) : (s.reg0 f).nextDesc = s.nextDesc := rfl
@[simp] theorem State.reg0_fabric (s : State) (f : Fld) : (s.reg0 f).fabric = s.fabric := rfl
@[simp] theorem State.reg0_topo (s : State) (f : Fld) : (s.reg0 f).topo = s.topo := rfl
@[simp] theorem State.reg0_tiles (s : State) (f : Fld) : (s.reg0 f).tiles = s.tiles := rfl
@[simp] theorem State.reg0_nextTile (s : State) (f : Fld) : (s.reg0 f).nextTile = s.nextTile := rfl
@[simp] theorem State.reg0_arming (s : State) (f : Fld) : (s.reg0 f).arming = s.arming := rfl
@[simp] theorem State.reg0_injects (s : State) (f : Fld) : (s.reg0 f).injects = s.injects := rfl
@[simp] theorem State.reg0_routers (s : State) (f : Fld) : (s.reg0 f).routers = s.routers := rfl
@[simp] theorem State.reg0_areas (s : State) (f : Fld) : (s.reg0 f).areas = s.areas := rfl
@[simp] theorem State.reg0_decided (s : State) (f : Fld) : (s.reg0 f).decided = s.decided := rfl
@[simp] theorem State.reg0_stepSlots (s : State) (f : Fld) : (s.reg0 f).stepSlots = s.stepSlots := rfl
@[simp] theorem State.reg0_hands (s : State) (f : Fld) : (s.reg0 f).hands = s.hands := rfl
@[simp] theorem State.reg0_kitty (s : State) (f : Fld) : (s.reg0 f).kitty = s.kitty := rfl
@[simp] theorem State.reg0_steps (s : State) (f : Fld) : (s.reg0 f).steps = s.steps := rfl
@[simp] theorem State.reg0_entries (s : State) (f : Fld) : (s.reg0 f).entries = s.entries := rfl
@[simp] theorem State.reg0_treeNodes (s : State) (f : Fld) : (s.reg0 f).treeNodes = s.treeNodes := rfl
@[simp] theorem State.reg0_variants (s : State) (f : Fld) : (s.reg0 f).variants = s.variants := rfl
@[simp] theorem State.reg0_dealing (s : State) (f : Fld) : (s.reg0 f).dealing = s.dealing := rfl
@[simp] theorem State.reg0_accounts (s : State) (f : Fld) : (s.reg0 f).accounts = s.accounts := rfl
@[simp] theorem State.reg0_launches (s : State) (f : Fld) : (s.reg0 f).launches = s.launches := rfl
@[simp] theorem State.reg0_nextLaunch (s : State) (f : Fld) : (s.reg0 f).nextLaunch = s.nextLaunch := rfl
@[simp] theorem State.reg0_rings (s : State) (f : Fld) : (s.reg0 f).rings = s.rings := rfl
@[simp] theorem State.reg0_programs (s : State) (f : Fld) : (s.reg0 f).programs = s.programs := rfl
@[simp] theorem State.reg0_coreFree (s : State) (f : Fld) : (s.reg0 f).coreFree = s.coreFree := rfl
@[simp] theorem State.reg0_phaseSince (s : State) (f : Fld) : (s.reg0 f).phaseSince = s.phaseSince := rfl
@[simp] theorem State.reg0_phaseNs (s : State) (f : Fld) : (s.reg0 f).phaseNs = s.phaseNs := rfl
@[simp] theorem State.reg0_draws (s : State) (f : Fld) : (s.reg0 f).draws = s.draws := rfl
@[simp] theorem State.reg0_units (s : State) (f : Fld) : (s.reg0 f).units = s.units := rfl
@[simp] theorem State.reg0_bankMap (s : State) (f : Fld) : (s.reg0 f).bankMap = s.bankMap := rfl
@[simp] theorem State.reg0_badBanks (s : State) (f : Fld) : (s.reg0 f).badBanks = s.badBanks := rfl
@[simp] theorem State.reg0_selfDue (s : State) (f : Fld) : (s.reg0 f).selfDue = s.selfDue := rfl
@[simp] theorem State.reg0_recordDue (s : State) (f : Fld) : (s.reg0 f).recordDue = s.recordDue := rfl
@[simp] theorem State.reg0_slots (s : State) (f : Fld) : (s.reg0 f).slots = s.slots := rfl
@[simp] theorem State.reg0_switches (s : State) (f : Fld) : (s.reg0 f).switches = s.switches := rfl
@[simp] theorem State.reg0_windowTurn (s : State) (f : Fld) : (s.reg0 f).windowTurn = s.windowTurn := rfl
@[simp] theorem State.reg0_recheck (s : State) (f : Fld) : (s.reg0 f).recheck = s.recheck := rfl
@[simp] theorem State.reg0_recheckAt (s : State) (f : Fld) : (s.reg0 f).recheckAt = s.recheckAt := rfl
@[simp] theorem State.reg0_mgmt (s : State) (f : Fld) : (s.reg0 f).mgmt = s.mgmt := rfl
@[simp] theorem State.reg0_power (s : State) (f : Fld) : (s.reg0 f).power = s.power := rfl
@[simp] theorem State.reg0_sec (s : State) (f : Fld) : (s.reg0 f).sec = s.sec := rfl
@[simp] theorem State.reg0_clkMoved (s : State) (f : Fld) : (s.reg0 f).clkMoved = s.clkMoved := rfl
@[simp] theorem State.reg0_clkBring (s : State) (f : Fld) : (s.reg0 f).clkBring = s.clkBring := rfl
@[simp] theorem State.reg0_badSince (s : State) (f : Fld) : (s.reg0 f).badSince = s.badSince := rfl
@[simp] theorem State.reg0_tableWaits (s : State) (f : Fld) : (s.reg0 f).tableWaits = s.tableWaits := rfl
@[simp] theorem State.reg0_cacheSet (s : State) (f : Fld) : (s.reg0 f).cacheSet = s.cacheSet := rfl
@[simp] theorem State.reg0_ringLanded (s : State) (f : Fld) : (s.reg0 f).ringLanded = s.ringLanded := rfl
@[simp] theorem State.reg0_selfNow (s : State) (f : Fld) : (s.reg0 f).selfNow = s.selfNow := rfl

/-! store. -/

@[simp] theorem State.store_now (s : State) (a n v : Nat) : (s.store a n v).now = s.now := rfl
@[simp] theorem State.store_freeCtr (s : State) (a n v : Nat) : (s.store a n v).freeCtr = s.freeCtr := rfl
@[simp] theorem State.store_regs (s : State) (a n v : Nat) : (s.store a n v).regs = s.regs := rfl
@[simp] theorem State.store_out (s : State) (a n v : Nat) : (s.store a n v).out = s.out := rfl
@[simp] theorem State.store_pending (s : State) (a n v : Nat) : (s.store a n v).pending = s.pending := rfl
@[simp] theorem State.store_score (s : State) (a n v : Nat) : (s.store a n v).score = s.score := rfl
@[simp] theorem State.store_ports (s : State) (a n v : Nat) : (s.store a n v).ports = s.ports := rfl
@[simp] theorem State.store_chans (s : State) (a n v : Nat) : (s.store a n v).chans = s.chans := rfl
@[simp] theorem State.store_cmds (s : State) (a n v : Nat) : (s.store a n v).cmds = s.cmds := rfl
@[simp] theorem State.store_nextCmd (s : State) (a n v : Nat) : (s.store a n v).nextCmd = s.nextCmd := rfl
@[simp] theorem State.store_doneCtr (s : State) (a n v : Nat) : (s.store a n v).doneCtr = s.doneCtr := rfl
@[simp] theorem State.store_grants (s : State) (a n v : Nat) : (s.store a n v).grants = s.grants := rfl
@[simp] theorem State.store_hold (s : State) (a n v : Nat) : (s.store a n v).hold = s.hold := rfl
@[simp] theorem State.store_late (s : State) (a n v : Nat) : (s.store a n v).late = s.late := rfl
@[simp] theorem State.store_ctxs (s : State) (a n v : Nat) : (s.store a n v).ctxs = s.ctxs := rfl
@[simp] theorem State.store_allocs (s : State) (a n v : Nat) : (s.store a n v).allocs = s.allocs := rfl
@[simp] theorem State.store_ranges (s : State) (a n v : Nat) : (s.store a n v).ranges = s.ranges := rfl
@[simp] theorem State.store_windows (s : State) (a n v : Nat) : (s.store a n v).windows = s.windows := rfl
@[simp] theorem State.store_moves (s : State) (a n v : Nat) : (s.store a n v).moves = s.moves := rfl
@[simp] theorem State.store_nextMove (s : State) (a n v : Nat) : (s.store a n v).nextMove = s.nextMove := rfl
@[simp] theorem State.store_wants (s : State) (a n v : Nat) : (s.store a n v).wants = s.wants := rfl
@[simp] theorem State.store_fwds (s : State) (a n v : Nat) : (s.store a n v).fwds = s.fwds := rfl
@[simp] theorem State.store_remaps (s : State) (a n v : Nat) : (s.store a n v).remaps = s.remaps := rfl
@[simp] theorem State.store_tlbs (s : State) (a n v : Nat) : (s.store a n v).tlbs = s.tlbs := rfl
@[simp] theorem State.store_faults (s : State) (a n v : Nat) : (s.store a n v).faults = s.faults := rfl
@[simp] theorem State.store_nextFault (s : State) (a n v : Nat) : (s.store a n v).nextFault = s.nextFault := rfl
@[simp] theorem State.store_descs (s : State) (a n v : Nat) : (s.store a n v).descs = s.descs := rfl
@[simp] theorem State.store_nextDesc (s : State) (a n v : Nat) : (s.store a n v).nextDesc = s.nextDesc := rfl
@[simp] theorem State.store_fabric (s : State) (a n v : Nat) : (s.store a n v).fabric = s.fabric := rfl
@[simp] theorem State.store_topo (s : State) (a n v : Nat) : (s.store a n v).topo = s.topo := rfl
@[simp] theorem State.store_tiles (s : State) (a n v : Nat) : (s.store a n v).tiles = s.tiles := rfl
@[simp] theorem State.store_nextTile (s : State) (a n v : Nat) : (s.store a n v).nextTile = s.nextTile := rfl
@[simp] theorem State.store_arming (s : State) (a n v : Nat) : (s.store a n v).arming = s.arming := rfl
@[simp] theorem State.store_injects (s : State) (a n v : Nat) : (s.store a n v).injects = s.injects := rfl
@[simp] theorem State.store_routers (s : State) (a n v : Nat) : (s.store a n v).routers = s.routers := rfl
@[simp] theorem State.store_areas (s : State) (a n v : Nat) : (s.store a n v).areas = s.areas := rfl
@[simp] theorem State.store_decided (s : State) (a n v : Nat) : (s.store a n v).decided = s.decided := rfl
@[simp] theorem State.store_stepSlots (s : State) (a n v : Nat) : (s.store a n v).stepSlots = s.stepSlots := rfl
@[simp] theorem State.store_hands (s : State) (a n v : Nat) : (s.store a n v).hands = s.hands := rfl
@[simp] theorem State.store_kitty (s : State) (a n v : Nat) : (s.store a n v).kitty = s.kitty := rfl
@[simp] theorem State.store_steps (s : State) (a n v : Nat) : (s.store a n v).steps = s.steps := rfl
@[simp] theorem State.store_entries (s : State) (a n v : Nat) : (s.store a n v).entries = s.entries := rfl
@[simp] theorem State.store_treeNodes (s : State) (a n v : Nat) : (s.store a n v).treeNodes = s.treeNodes := rfl
@[simp] theorem State.store_variants (s : State) (a n v : Nat) : (s.store a n v).variants = s.variants := rfl
@[simp] theorem State.store_dealing (s : State) (a n v : Nat) : (s.store a n v).dealing = s.dealing := rfl
@[simp] theorem State.store_accounts (s : State) (a n v : Nat) : (s.store a n v).accounts = s.accounts := rfl
@[simp] theorem State.store_launches (s : State) (a n v : Nat) : (s.store a n v).launches = s.launches := rfl
@[simp] theorem State.store_nextLaunch (s : State) (a n v : Nat) : (s.store a n v).nextLaunch = s.nextLaunch := rfl
@[simp] theorem State.store_rings (s : State) (a n v : Nat) : (s.store a n v).rings = s.rings := rfl
@[simp] theorem State.store_programs (s : State) (a n v : Nat) : (s.store a n v).programs = s.programs := rfl
@[simp] theorem State.store_coreFree (s : State) (a n v : Nat) : (s.store a n v).coreFree = s.coreFree := rfl
@[simp] theorem State.store_phaseSince (s : State) (a n v : Nat) : (s.store a n v).phaseSince = s.phaseSince := rfl
@[simp] theorem State.store_phaseNs (s : State) (a n v : Nat) : (s.store a n v).phaseNs = s.phaseNs := rfl
@[simp] theorem State.store_draws (s : State) (a n v : Nat) : (s.store a n v).draws = s.draws := rfl
@[simp] theorem State.store_units (s : State) (a n v : Nat) : (s.store a n v).units = s.units := rfl
@[simp] theorem State.store_bankMap (s : State) (a n v : Nat) : (s.store a n v).bankMap = s.bankMap := rfl
@[simp] theorem State.store_badBanks (s : State) (a n v : Nat) : (s.store a n v).badBanks = s.badBanks := rfl
@[simp] theorem State.store_selfDue (s : State) (a n v : Nat) : (s.store a n v).selfDue = s.selfDue := rfl
@[simp] theorem State.store_recordDue (s : State) (a n v : Nat) : (s.store a n v).recordDue = s.recordDue := rfl
@[simp] theorem State.store_slots (s : State) (a n v : Nat) : (s.store a n v).slots = s.slots := rfl
@[simp] theorem State.store_switches (s : State) (a n v : Nat) : (s.store a n v).switches = s.switches := rfl
@[simp] theorem State.store_windowTurn (s : State) (a n v : Nat) : (s.store a n v).windowTurn = s.windowTurn := rfl
@[simp] theorem State.store_recheck (s : State) (a n v : Nat) : (s.store a n v).recheck = s.recheck := rfl
@[simp] theorem State.store_recheckAt (s : State) (a n v : Nat) : (s.store a n v).recheckAt = s.recheckAt := rfl
@[simp] theorem State.store_mgmt (s : State) (a n v : Nat) : (s.store a n v).mgmt = s.mgmt := rfl
@[simp] theorem State.store_power (s : State) (a n v : Nat) : (s.store a n v).power = s.power := rfl
@[simp] theorem State.store_sec (s : State) (a n v : Nat) : (s.store a n v).sec = s.sec := rfl
@[simp] theorem State.store_clkMoved (s : State) (a n v : Nat) : (s.store a n v).clkMoved = s.clkMoved := rfl
@[simp] theorem State.store_clkBring (s : State) (a n v : Nat) : (s.store a n v).clkBring = s.clkBring := rfl
@[simp] theorem State.store_badSince (s : State) (a n v : Nat) : (s.store a n v).badSince = s.badSince := rfl
@[simp] theorem State.store_tableWaits (s : State) (a n v : Nat) : (s.store a n v).tableWaits = s.tableWaits := rfl
@[simp] theorem State.store_cacheSet (s : State) (a n v : Nat) : (s.store a n v).cacheSet = s.cacheSet := rfl
@[simp] theorem State.store_ringLanded (s : State) (a n v : Nat) : (s.store a n v).ringLanded = s.ringLanded := rfl
@[simp] theorem State.store_selfNow (s : State) (a n v : Nat) : (s.store a n v).selfNow = s.selfNow := rfl
@[simp] theorem State.store_rd (s : State) (a n v : Nat) (g : Fld) : (s.store a n v).rd g = s.rd g := rfl

/-! storeBytes. -/

@[simp] theorem State.storeBytes_now (s : State) (a : Nat) (l : List Byte) : (s.storeBytes a l).now = s.now := rfl
@[simp] theorem State.storeBytes_freeCtr (s : State) (a : Nat) (l : List Byte) : (s.storeBytes a l).freeCtr = s.freeCtr := rfl
@[simp] theorem State.storeBytes_regs (s : State) (a : Nat) (l : List Byte) : (s.storeBytes a l).regs = s.regs := rfl
@[simp] theorem State.storeBytes_out (s : State) (a : Nat) (l : List Byte) : (s.storeBytes a l).out = s.out := rfl
@[simp] theorem State.storeBytes_pending (s : State) (a : Nat) (l : List Byte) : (s.storeBytes a l).pending = s.pending := rfl
@[simp] theorem State.storeBytes_score (s : State) (a : Nat) (l : List Byte) : (s.storeBytes a l).score = s.score := rfl
@[simp] theorem State.storeBytes_ports (s : State) (a : Nat) (l : List Byte) : (s.storeBytes a l).ports = s.ports := rfl
@[simp] theorem State.storeBytes_chans (s : State) (a : Nat) (l : List Byte) : (s.storeBytes a l).chans = s.chans := rfl
@[simp] theorem State.storeBytes_cmds (s : State) (a : Nat) (l : List Byte) : (s.storeBytes a l).cmds = s.cmds := rfl
@[simp] theorem State.storeBytes_nextCmd (s : State) (a : Nat) (l : List Byte) : (s.storeBytes a l).nextCmd = s.nextCmd := rfl
@[simp] theorem State.storeBytes_doneCtr (s : State) (a : Nat) (l : List Byte) : (s.storeBytes a l).doneCtr = s.doneCtr := rfl
@[simp] theorem State.storeBytes_grants (s : State) (a : Nat) (l : List Byte) : (s.storeBytes a l).grants = s.grants := rfl
@[simp] theorem State.storeBytes_hold (s : State) (a : Nat) (l : List Byte) : (s.storeBytes a l).hold = s.hold := rfl
@[simp] theorem State.storeBytes_late (s : State) (a : Nat) (l : List Byte) : (s.storeBytes a l).late = s.late := rfl
@[simp] theorem State.storeBytes_ctxs (s : State) (a : Nat) (l : List Byte) : (s.storeBytes a l).ctxs = s.ctxs := rfl
@[simp] theorem State.storeBytes_allocs (s : State) (a : Nat) (l : List Byte) : (s.storeBytes a l).allocs = s.allocs := rfl
@[simp] theorem State.storeBytes_ranges (s : State) (a : Nat) (l : List Byte) : (s.storeBytes a l).ranges = s.ranges := rfl
@[simp] theorem State.storeBytes_windows (s : State) (a : Nat) (l : List Byte) : (s.storeBytes a l).windows = s.windows := rfl
@[simp] theorem State.storeBytes_moves (s : State) (a : Nat) (l : List Byte) : (s.storeBytes a l).moves = s.moves := rfl
@[simp] theorem State.storeBytes_nextMove (s : State) (a : Nat) (l : List Byte) : (s.storeBytes a l).nextMove = s.nextMove := rfl
@[simp] theorem State.storeBytes_wants (s : State) (a : Nat) (l : List Byte) : (s.storeBytes a l).wants = s.wants := rfl
@[simp] theorem State.storeBytes_fwds (s : State) (a : Nat) (l : List Byte) : (s.storeBytes a l).fwds = s.fwds := rfl
@[simp] theorem State.storeBytes_remaps (s : State) (a : Nat) (l : List Byte) : (s.storeBytes a l).remaps = s.remaps := rfl
@[simp] theorem State.storeBytes_tlbs (s : State) (a : Nat) (l : List Byte) : (s.storeBytes a l).tlbs = s.tlbs := rfl
@[simp] theorem State.storeBytes_faults (s : State) (a : Nat) (l : List Byte) : (s.storeBytes a l).faults = s.faults := rfl
@[simp] theorem State.storeBytes_nextFault (s : State) (a : Nat) (l : List Byte) : (s.storeBytes a l).nextFault = s.nextFault := rfl
@[simp] theorem State.storeBytes_descs (s : State) (a : Nat) (l : List Byte) : (s.storeBytes a l).descs = s.descs := rfl
@[simp] theorem State.storeBytes_nextDesc (s : State) (a : Nat) (l : List Byte) : (s.storeBytes a l).nextDesc = s.nextDesc := rfl
@[simp] theorem State.storeBytes_fabric (s : State) (a : Nat) (l : List Byte) : (s.storeBytes a l).fabric = s.fabric := rfl
@[simp] theorem State.storeBytes_topo (s : State) (a : Nat) (l : List Byte) : (s.storeBytes a l).topo = s.topo := rfl
@[simp] theorem State.storeBytes_tiles (s : State) (a : Nat) (l : List Byte) : (s.storeBytes a l).tiles = s.tiles := rfl
@[simp] theorem State.storeBytes_nextTile (s : State) (a : Nat) (l : List Byte) : (s.storeBytes a l).nextTile = s.nextTile := rfl
@[simp] theorem State.storeBytes_arming (s : State) (a : Nat) (l : List Byte) : (s.storeBytes a l).arming = s.arming := rfl
@[simp] theorem State.storeBytes_injects (s : State) (a : Nat) (l : List Byte) : (s.storeBytes a l).injects = s.injects := rfl
@[simp] theorem State.storeBytes_routers (s : State) (a : Nat) (l : List Byte) : (s.storeBytes a l).routers = s.routers := rfl
@[simp] theorem State.storeBytes_areas (s : State) (a : Nat) (l : List Byte) : (s.storeBytes a l).areas = s.areas := rfl
@[simp] theorem State.storeBytes_decided (s : State) (a : Nat) (l : List Byte) : (s.storeBytes a l).decided = s.decided := rfl
@[simp] theorem State.storeBytes_stepSlots (s : State) (a : Nat) (l : List Byte) : (s.storeBytes a l).stepSlots = s.stepSlots := rfl
@[simp] theorem State.storeBytes_hands (s : State) (a : Nat) (l : List Byte) : (s.storeBytes a l).hands = s.hands := rfl
@[simp] theorem State.storeBytes_kitty (s : State) (a : Nat) (l : List Byte) : (s.storeBytes a l).kitty = s.kitty := rfl
@[simp] theorem State.storeBytes_steps (s : State) (a : Nat) (l : List Byte) : (s.storeBytes a l).steps = s.steps := rfl
@[simp] theorem State.storeBytes_entries (s : State) (a : Nat) (l : List Byte) : (s.storeBytes a l).entries = s.entries := rfl
@[simp] theorem State.storeBytes_treeNodes (s : State) (a : Nat) (l : List Byte) : (s.storeBytes a l).treeNodes = s.treeNodes := rfl
@[simp] theorem State.storeBytes_variants (s : State) (a : Nat) (l : List Byte) : (s.storeBytes a l).variants = s.variants := rfl
@[simp] theorem State.storeBytes_dealing (s : State) (a : Nat) (l : List Byte) : (s.storeBytes a l).dealing = s.dealing := rfl
@[simp] theorem State.storeBytes_accounts (s : State) (a : Nat) (l : List Byte) : (s.storeBytes a l).accounts = s.accounts := rfl
@[simp] theorem State.storeBytes_launches (s : State) (a : Nat) (l : List Byte) : (s.storeBytes a l).launches = s.launches := rfl
@[simp] theorem State.storeBytes_nextLaunch (s : State) (a : Nat) (l : List Byte) : (s.storeBytes a l).nextLaunch = s.nextLaunch := rfl
@[simp] theorem State.storeBytes_rings (s : State) (a : Nat) (l : List Byte) : (s.storeBytes a l).rings = s.rings := rfl
@[simp] theorem State.storeBytes_programs (s : State) (a : Nat) (l : List Byte) : (s.storeBytes a l).programs = s.programs := rfl
@[simp] theorem State.storeBytes_coreFree (s : State) (a : Nat) (l : List Byte) : (s.storeBytes a l).coreFree = s.coreFree := rfl
@[simp] theorem State.storeBytes_phaseSince (s : State) (a : Nat) (l : List Byte) : (s.storeBytes a l).phaseSince = s.phaseSince := rfl
@[simp] theorem State.storeBytes_phaseNs (s : State) (a : Nat) (l : List Byte) : (s.storeBytes a l).phaseNs = s.phaseNs := rfl
@[simp] theorem State.storeBytes_draws (s : State) (a : Nat) (l : List Byte) : (s.storeBytes a l).draws = s.draws := rfl
@[simp] theorem State.storeBytes_units (s : State) (a : Nat) (l : List Byte) : (s.storeBytes a l).units = s.units := rfl
@[simp] theorem State.storeBytes_bankMap (s : State) (a : Nat) (l : List Byte) : (s.storeBytes a l).bankMap = s.bankMap := rfl
@[simp] theorem State.storeBytes_badBanks (s : State) (a : Nat) (l : List Byte) : (s.storeBytes a l).badBanks = s.badBanks := rfl
@[simp] theorem State.storeBytes_selfDue (s : State) (a : Nat) (l : List Byte) : (s.storeBytes a l).selfDue = s.selfDue := rfl
@[simp] theorem State.storeBytes_recordDue (s : State) (a : Nat) (l : List Byte) : (s.storeBytes a l).recordDue = s.recordDue := rfl
@[simp] theorem State.storeBytes_slots (s : State) (a : Nat) (l : List Byte) : (s.storeBytes a l).slots = s.slots := rfl
@[simp] theorem State.storeBytes_switches (s : State) (a : Nat) (l : List Byte) : (s.storeBytes a l).switches = s.switches := rfl
@[simp] theorem State.storeBytes_windowTurn (s : State) (a : Nat) (l : List Byte) : (s.storeBytes a l).windowTurn = s.windowTurn := rfl
@[simp] theorem State.storeBytes_recheck (s : State) (a : Nat) (l : List Byte) : (s.storeBytes a l).recheck = s.recheck := rfl
@[simp] theorem State.storeBytes_recheckAt (s : State) (a : Nat) (l : List Byte) : (s.storeBytes a l).recheckAt = s.recheckAt := rfl
@[simp] theorem State.storeBytes_mgmt (s : State) (a : Nat) (l : List Byte) : (s.storeBytes a l).mgmt = s.mgmt := rfl
@[simp] theorem State.storeBytes_power (s : State) (a : Nat) (l : List Byte) : (s.storeBytes a l).power = s.power := rfl
@[simp] theorem State.storeBytes_sec (s : State) (a : Nat) (l : List Byte) : (s.storeBytes a l).sec = s.sec := rfl
@[simp] theorem State.storeBytes_clkMoved (s : State) (a : Nat) (l : List Byte) : (s.storeBytes a l).clkMoved = s.clkMoved := rfl
@[simp] theorem State.storeBytes_clkBring (s : State) (a : Nat) (l : List Byte) : (s.storeBytes a l).clkBring = s.clkBring := rfl
@[simp] theorem State.storeBytes_badSince (s : State) (a : Nat) (l : List Byte) : (s.storeBytes a l).badSince = s.badSince := rfl
@[simp] theorem State.storeBytes_tableWaits (s : State) (a : Nat) (l : List Byte) : (s.storeBytes a l).tableWaits = s.tableWaits := rfl
@[simp] theorem State.storeBytes_cacheSet (s : State) (a : Nat) (l : List Byte) : (s.storeBytes a l).cacheSet = s.cacheSet := rfl
@[simp] theorem State.storeBytes_ringLanded (s : State) (a : Nat) (l : List Byte) : (s.storeBytes a l).ringLanded = s.ringLanded := rfl
@[simp] theorem State.storeBytes_selfNow (s : State) (a : Nat) (l : List Byte) : (s.storeBytes a l).selfNow = s.selfNow := rfl
@[simp] theorem State.storeBytes_rd (s : State) (a : Nat) (l : List Byte) (g : Fld) : (s.storeBytes a l).rd g = s.rd g := rfl

/-! storeWords. -/

@[simp] theorem State.storeWords_now (s : State) (a : Nat) (l : List Nat) : (s.storeWords a l).now = s.now := rfl
@[simp] theorem State.storeWords_freeCtr (s : State) (a : Nat) (l : List Nat) : (s.storeWords a l).freeCtr = s.freeCtr := rfl
@[simp] theorem State.storeWords_regs (s : State) (a : Nat) (l : List Nat) : (s.storeWords a l).regs = s.regs := rfl
@[simp] theorem State.storeWords_out (s : State) (a : Nat) (l : List Nat) : (s.storeWords a l).out = s.out := rfl
@[simp] theorem State.storeWords_pending (s : State) (a : Nat) (l : List Nat) : (s.storeWords a l).pending = s.pending := rfl
@[simp] theorem State.storeWords_score (s : State) (a : Nat) (l : List Nat) : (s.storeWords a l).score = s.score := rfl
@[simp] theorem State.storeWords_ports (s : State) (a : Nat) (l : List Nat) : (s.storeWords a l).ports = s.ports := rfl
@[simp] theorem State.storeWords_chans (s : State) (a : Nat) (l : List Nat) : (s.storeWords a l).chans = s.chans := rfl
@[simp] theorem State.storeWords_cmds (s : State) (a : Nat) (l : List Nat) : (s.storeWords a l).cmds = s.cmds := rfl
@[simp] theorem State.storeWords_nextCmd (s : State) (a : Nat) (l : List Nat) : (s.storeWords a l).nextCmd = s.nextCmd := rfl
@[simp] theorem State.storeWords_doneCtr (s : State) (a : Nat) (l : List Nat) : (s.storeWords a l).doneCtr = s.doneCtr := rfl
@[simp] theorem State.storeWords_grants (s : State) (a : Nat) (l : List Nat) : (s.storeWords a l).grants = s.grants := rfl
@[simp] theorem State.storeWords_hold (s : State) (a : Nat) (l : List Nat) : (s.storeWords a l).hold = s.hold := rfl
@[simp] theorem State.storeWords_late (s : State) (a : Nat) (l : List Nat) : (s.storeWords a l).late = s.late := rfl
@[simp] theorem State.storeWords_ctxs (s : State) (a : Nat) (l : List Nat) : (s.storeWords a l).ctxs = s.ctxs := rfl
@[simp] theorem State.storeWords_allocs (s : State) (a : Nat) (l : List Nat) : (s.storeWords a l).allocs = s.allocs := rfl
@[simp] theorem State.storeWords_ranges (s : State) (a : Nat) (l : List Nat) : (s.storeWords a l).ranges = s.ranges := rfl
@[simp] theorem State.storeWords_windows (s : State) (a : Nat) (l : List Nat) : (s.storeWords a l).windows = s.windows := rfl
@[simp] theorem State.storeWords_moves (s : State) (a : Nat) (l : List Nat) : (s.storeWords a l).moves = s.moves := rfl
@[simp] theorem State.storeWords_nextMove (s : State) (a : Nat) (l : List Nat) : (s.storeWords a l).nextMove = s.nextMove := rfl
@[simp] theorem State.storeWords_wants (s : State) (a : Nat) (l : List Nat) : (s.storeWords a l).wants = s.wants := rfl
@[simp] theorem State.storeWords_fwds (s : State) (a : Nat) (l : List Nat) : (s.storeWords a l).fwds = s.fwds := rfl
@[simp] theorem State.storeWords_remaps (s : State) (a : Nat) (l : List Nat) : (s.storeWords a l).remaps = s.remaps := rfl
@[simp] theorem State.storeWords_tlbs (s : State) (a : Nat) (l : List Nat) : (s.storeWords a l).tlbs = s.tlbs := rfl
@[simp] theorem State.storeWords_faults (s : State) (a : Nat) (l : List Nat) : (s.storeWords a l).faults = s.faults := rfl
@[simp] theorem State.storeWords_nextFault (s : State) (a : Nat) (l : List Nat) : (s.storeWords a l).nextFault = s.nextFault := rfl
@[simp] theorem State.storeWords_descs (s : State) (a : Nat) (l : List Nat) : (s.storeWords a l).descs = s.descs := rfl
@[simp] theorem State.storeWords_nextDesc (s : State) (a : Nat) (l : List Nat) : (s.storeWords a l).nextDesc = s.nextDesc := rfl
@[simp] theorem State.storeWords_fabric (s : State) (a : Nat) (l : List Nat) : (s.storeWords a l).fabric = s.fabric := rfl
@[simp] theorem State.storeWords_topo (s : State) (a : Nat) (l : List Nat) : (s.storeWords a l).topo = s.topo := rfl
@[simp] theorem State.storeWords_tiles (s : State) (a : Nat) (l : List Nat) : (s.storeWords a l).tiles = s.tiles := rfl
@[simp] theorem State.storeWords_nextTile (s : State) (a : Nat) (l : List Nat) : (s.storeWords a l).nextTile = s.nextTile := rfl
@[simp] theorem State.storeWords_arming (s : State) (a : Nat) (l : List Nat) : (s.storeWords a l).arming = s.arming := rfl
@[simp] theorem State.storeWords_injects (s : State) (a : Nat) (l : List Nat) : (s.storeWords a l).injects = s.injects := rfl
@[simp] theorem State.storeWords_routers (s : State) (a : Nat) (l : List Nat) : (s.storeWords a l).routers = s.routers := rfl
@[simp] theorem State.storeWords_areas (s : State) (a : Nat) (l : List Nat) : (s.storeWords a l).areas = s.areas := rfl
@[simp] theorem State.storeWords_decided (s : State) (a : Nat) (l : List Nat) : (s.storeWords a l).decided = s.decided := rfl
@[simp] theorem State.storeWords_stepSlots (s : State) (a : Nat) (l : List Nat) : (s.storeWords a l).stepSlots = s.stepSlots := rfl
@[simp] theorem State.storeWords_hands (s : State) (a : Nat) (l : List Nat) : (s.storeWords a l).hands = s.hands := rfl
@[simp] theorem State.storeWords_kitty (s : State) (a : Nat) (l : List Nat) : (s.storeWords a l).kitty = s.kitty := rfl
@[simp] theorem State.storeWords_steps (s : State) (a : Nat) (l : List Nat) : (s.storeWords a l).steps = s.steps := rfl
@[simp] theorem State.storeWords_entries (s : State) (a : Nat) (l : List Nat) : (s.storeWords a l).entries = s.entries := rfl
@[simp] theorem State.storeWords_treeNodes (s : State) (a : Nat) (l : List Nat) : (s.storeWords a l).treeNodes = s.treeNodes := rfl
@[simp] theorem State.storeWords_variants (s : State) (a : Nat) (l : List Nat) : (s.storeWords a l).variants = s.variants := rfl
@[simp] theorem State.storeWords_dealing (s : State) (a : Nat) (l : List Nat) : (s.storeWords a l).dealing = s.dealing := rfl
@[simp] theorem State.storeWords_accounts (s : State) (a : Nat) (l : List Nat) : (s.storeWords a l).accounts = s.accounts := rfl
@[simp] theorem State.storeWords_launches (s : State) (a : Nat) (l : List Nat) : (s.storeWords a l).launches = s.launches := rfl
@[simp] theorem State.storeWords_nextLaunch (s : State) (a : Nat) (l : List Nat) : (s.storeWords a l).nextLaunch = s.nextLaunch := rfl
@[simp] theorem State.storeWords_rings (s : State) (a : Nat) (l : List Nat) : (s.storeWords a l).rings = s.rings := rfl
@[simp] theorem State.storeWords_programs (s : State) (a : Nat) (l : List Nat) : (s.storeWords a l).programs = s.programs := rfl
@[simp] theorem State.storeWords_coreFree (s : State) (a : Nat) (l : List Nat) : (s.storeWords a l).coreFree = s.coreFree := rfl
@[simp] theorem State.storeWords_phaseSince (s : State) (a : Nat) (l : List Nat) : (s.storeWords a l).phaseSince = s.phaseSince := rfl
@[simp] theorem State.storeWords_phaseNs (s : State) (a : Nat) (l : List Nat) : (s.storeWords a l).phaseNs = s.phaseNs := rfl
@[simp] theorem State.storeWords_draws (s : State) (a : Nat) (l : List Nat) : (s.storeWords a l).draws = s.draws := rfl
@[simp] theorem State.storeWords_units (s : State) (a : Nat) (l : List Nat) : (s.storeWords a l).units = s.units := rfl
@[simp] theorem State.storeWords_bankMap (s : State) (a : Nat) (l : List Nat) : (s.storeWords a l).bankMap = s.bankMap := rfl
@[simp] theorem State.storeWords_badBanks (s : State) (a : Nat) (l : List Nat) : (s.storeWords a l).badBanks = s.badBanks := rfl
@[simp] theorem State.storeWords_selfDue (s : State) (a : Nat) (l : List Nat) : (s.storeWords a l).selfDue = s.selfDue := rfl
@[simp] theorem State.storeWords_recordDue (s : State) (a : Nat) (l : List Nat) : (s.storeWords a l).recordDue = s.recordDue := rfl
@[simp] theorem State.storeWords_slots (s : State) (a : Nat) (l : List Nat) : (s.storeWords a l).slots = s.slots := rfl
@[simp] theorem State.storeWords_switches (s : State) (a : Nat) (l : List Nat) : (s.storeWords a l).switches = s.switches := rfl
@[simp] theorem State.storeWords_windowTurn (s : State) (a : Nat) (l : List Nat) : (s.storeWords a l).windowTurn = s.windowTurn := rfl
@[simp] theorem State.storeWords_recheck (s : State) (a : Nat) (l : List Nat) : (s.storeWords a l).recheck = s.recheck := rfl
@[simp] theorem State.storeWords_recheckAt (s : State) (a : Nat) (l : List Nat) : (s.storeWords a l).recheckAt = s.recheckAt := rfl
@[simp] theorem State.storeWords_mgmt (s : State) (a : Nat) (l : List Nat) : (s.storeWords a l).mgmt = s.mgmt := rfl
@[simp] theorem State.storeWords_power (s : State) (a : Nat) (l : List Nat) : (s.storeWords a l).power = s.power := rfl
@[simp] theorem State.storeWords_sec (s : State) (a : Nat) (l : List Nat) : (s.storeWords a l).sec = s.sec := rfl
@[simp] theorem State.storeWords_clkMoved (s : State) (a : Nat) (l : List Nat) : (s.storeWords a l).clkMoved = s.clkMoved := rfl
@[simp] theorem State.storeWords_clkBring (s : State) (a : Nat) (l : List Nat) : (s.storeWords a l).clkBring = s.clkBring := rfl
@[simp] theorem State.storeWords_badSince (s : State) (a : Nat) (l : List Nat) : (s.storeWords a l).badSince = s.badSince := rfl
@[simp] theorem State.storeWords_tableWaits (s : State) (a : Nat) (l : List Nat) : (s.storeWords a l).tableWaits = s.tableWaits := rfl
@[simp] theorem State.storeWords_cacheSet (s : State) (a : Nat) (l : List Nat) : (s.storeWords a l).cacheSet = s.cacheSet := rfl
@[simp] theorem State.storeWords_ringLanded (s : State) (a : Nat) (l : List Nat) : (s.storeWords a l).ringLanded = s.ringLanded := rfl
@[simp] theorem State.storeWords_selfNow (s : State) (a : Nat) (l : List Nat) : (s.storeWords a l).selfNow = s.selfNow := rfl
@[simp] theorem State.storeWords_rd (s : State) (a : Nat) (l : List Nat) (g : Fld) : (s.storeWords a l).rd g = s.rd g := rfl

/-! copy. -/

@[simp] theorem State.copy_now (s : State) (dst src n : Nat) : (s.copy dst src n).now = s.now := rfl
@[simp] theorem State.copy_freeCtr (s : State) (dst src n : Nat) : (s.copy dst src n).freeCtr = s.freeCtr := rfl
@[simp] theorem State.copy_regs (s : State) (dst src n : Nat) : (s.copy dst src n).regs = s.regs := rfl
@[simp] theorem State.copy_out (s : State) (dst src n : Nat) : (s.copy dst src n).out = s.out := rfl
@[simp] theorem State.copy_pending (s : State) (dst src n : Nat) : (s.copy dst src n).pending = s.pending := rfl
@[simp] theorem State.copy_score (s : State) (dst src n : Nat) : (s.copy dst src n).score = s.score := rfl
@[simp] theorem State.copy_ports (s : State) (dst src n : Nat) : (s.copy dst src n).ports = s.ports := rfl
@[simp] theorem State.copy_chans (s : State) (dst src n : Nat) : (s.copy dst src n).chans = s.chans := rfl
@[simp] theorem State.copy_cmds (s : State) (dst src n : Nat) : (s.copy dst src n).cmds = s.cmds := rfl
@[simp] theorem State.copy_nextCmd (s : State) (dst src n : Nat) : (s.copy dst src n).nextCmd = s.nextCmd := rfl
@[simp] theorem State.copy_doneCtr (s : State) (dst src n : Nat) : (s.copy dst src n).doneCtr = s.doneCtr := rfl
@[simp] theorem State.copy_grants (s : State) (dst src n : Nat) : (s.copy dst src n).grants = s.grants := rfl
@[simp] theorem State.copy_hold (s : State) (dst src n : Nat) : (s.copy dst src n).hold = s.hold := rfl
@[simp] theorem State.copy_late (s : State) (dst src n : Nat) : (s.copy dst src n).late = s.late := rfl
@[simp] theorem State.copy_ctxs (s : State) (dst src n : Nat) : (s.copy dst src n).ctxs = s.ctxs := rfl
@[simp] theorem State.copy_allocs (s : State) (dst src n : Nat) : (s.copy dst src n).allocs = s.allocs := rfl
@[simp] theorem State.copy_ranges (s : State) (dst src n : Nat) : (s.copy dst src n).ranges = s.ranges := rfl
@[simp] theorem State.copy_windows (s : State) (dst src n : Nat) : (s.copy dst src n).windows = s.windows := rfl
@[simp] theorem State.copy_moves (s : State) (dst src n : Nat) : (s.copy dst src n).moves = s.moves := rfl
@[simp] theorem State.copy_nextMove (s : State) (dst src n : Nat) : (s.copy dst src n).nextMove = s.nextMove := rfl
@[simp] theorem State.copy_wants (s : State) (dst src n : Nat) : (s.copy dst src n).wants = s.wants := rfl
@[simp] theorem State.copy_fwds (s : State) (dst src n : Nat) : (s.copy dst src n).fwds = s.fwds := rfl
@[simp] theorem State.copy_remaps (s : State) (dst src n : Nat) : (s.copy dst src n).remaps = s.remaps := rfl
@[simp] theorem State.copy_tlbs (s : State) (dst src n : Nat) : (s.copy dst src n).tlbs = s.tlbs := rfl
@[simp] theorem State.copy_faults (s : State) (dst src n : Nat) : (s.copy dst src n).faults = s.faults := rfl
@[simp] theorem State.copy_nextFault (s : State) (dst src n : Nat) : (s.copy dst src n).nextFault = s.nextFault := rfl
@[simp] theorem State.copy_descs (s : State) (dst src n : Nat) : (s.copy dst src n).descs = s.descs := rfl
@[simp] theorem State.copy_nextDesc (s : State) (dst src n : Nat) : (s.copy dst src n).nextDesc = s.nextDesc := rfl
@[simp] theorem State.copy_fabric (s : State) (dst src n : Nat) : (s.copy dst src n).fabric = s.fabric := rfl
@[simp] theorem State.copy_topo (s : State) (dst src n : Nat) : (s.copy dst src n).topo = s.topo := rfl
@[simp] theorem State.copy_tiles (s : State) (dst src n : Nat) : (s.copy dst src n).tiles = s.tiles := rfl
@[simp] theorem State.copy_nextTile (s : State) (dst src n : Nat) : (s.copy dst src n).nextTile = s.nextTile := rfl
@[simp] theorem State.copy_arming (s : State) (dst src n : Nat) : (s.copy dst src n).arming = s.arming := rfl
@[simp] theorem State.copy_injects (s : State) (dst src n : Nat) : (s.copy dst src n).injects = s.injects := rfl
@[simp] theorem State.copy_routers (s : State) (dst src n : Nat) : (s.copy dst src n).routers = s.routers := rfl
@[simp] theorem State.copy_areas (s : State) (dst src n : Nat) : (s.copy dst src n).areas = s.areas := rfl
@[simp] theorem State.copy_decided (s : State) (dst src n : Nat) : (s.copy dst src n).decided = s.decided := rfl
@[simp] theorem State.copy_stepSlots (s : State) (dst src n : Nat) : (s.copy dst src n).stepSlots = s.stepSlots := rfl
@[simp] theorem State.copy_hands (s : State) (dst src n : Nat) : (s.copy dst src n).hands = s.hands := rfl
@[simp] theorem State.copy_kitty (s : State) (dst src n : Nat) : (s.copy dst src n).kitty = s.kitty := rfl
@[simp] theorem State.copy_steps (s : State) (dst src n : Nat) : (s.copy dst src n).steps = s.steps := rfl
@[simp] theorem State.copy_entries (s : State) (dst src n : Nat) : (s.copy dst src n).entries = s.entries := rfl
@[simp] theorem State.copy_treeNodes (s : State) (dst src n : Nat) : (s.copy dst src n).treeNodes = s.treeNodes := rfl
@[simp] theorem State.copy_variants (s : State) (dst src n : Nat) : (s.copy dst src n).variants = s.variants := rfl
@[simp] theorem State.copy_dealing (s : State) (dst src n : Nat) : (s.copy dst src n).dealing = s.dealing := rfl
@[simp] theorem State.copy_accounts (s : State) (dst src n : Nat) : (s.copy dst src n).accounts = s.accounts := rfl
@[simp] theorem State.copy_launches (s : State) (dst src n : Nat) : (s.copy dst src n).launches = s.launches := rfl
@[simp] theorem State.copy_nextLaunch (s : State) (dst src n : Nat) : (s.copy dst src n).nextLaunch = s.nextLaunch := rfl
@[simp] theorem State.copy_rings (s : State) (dst src n : Nat) : (s.copy dst src n).rings = s.rings := rfl
@[simp] theorem State.copy_programs (s : State) (dst src n : Nat) : (s.copy dst src n).programs = s.programs := rfl
@[simp] theorem State.copy_coreFree (s : State) (dst src n : Nat) : (s.copy dst src n).coreFree = s.coreFree := rfl
@[simp] theorem State.copy_phaseSince (s : State) (dst src n : Nat) : (s.copy dst src n).phaseSince = s.phaseSince := rfl
@[simp] theorem State.copy_phaseNs (s : State) (dst src n : Nat) : (s.copy dst src n).phaseNs = s.phaseNs := rfl
@[simp] theorem State.copy_draws (s : State) (dst src n : Nat) : (s.copy dst src n).draws = s.draws := rfl
@[simp] theorem State.copy_units (s : State) (dst src n : Nat) : (s.copy dst src n).units = s.units := rfl
@[simp] theorem State.copy_bankMap (s : State) (dst src n : Nat) : (s.copy dst src n).bankMap = s.bankMap := rfl
@[simp] theorem State.copy_badBanks (s : State) (dst src n : Nat) : (s.copy dst src n).badBanks = s.badBanks := rfl
@[simp] theorem State.copy_selfDue (s : State) (dst src n : Nat) : (s.copy dst src n).selfDue = s.selfDue := rfl
@[simp] theorem State.copy_recordDue (s : State) (dst src n : Nat) : (s.copy dst src n).recordDue = s.recordDue := rfl
@[simp] theorem State.copy_slots (s : State) (dst src n : Nat) : (s.copy dst src n).slots = s.slots := rfl
@[simp] theorem State.copy_switches (s : State) (dst src n : Nat) : (s.copy dst src n).switches = s.switches := rfl
@[simp] theorem State.copy_windowTurn (s : State) (dst src n : Nat) : (s.copy dst src n).windowTurn = s.windowTurn := rfl
@[simp] theorem State.copy_recheck (s : State) (dst src n : Nat) : (s.copy dst src n).recheck = s.recheck := rfl
@[simp] theorem State.copy_recheckAt (s : State) (dst src n : Nat) : (s.copy dst src n).recheckAt = s.recheckAt := rfl
@[simp] theorem State.copy_mgmt (s : State) (dst src n : Nat) : (s.copy dst src n).mgmt = s.mgmt := rfl
@[simp] theorem State.copy_power (s : State) (dst src n : Nat) : (s.copy dst src n).power = s.power := rfl
@[simp] theorem State.copy_sec (s : State) (dst src n : Nat) : (s.copy dst src n).sec = s.sec := rfl
@[simp] theorem State.copy_clkMoved (s : State) (dst src n : Nat) : (s.copy dst src n).clkMoved = s.clkMoved := rfl
@[simp] theorem State.copy_clkBring (s : State) (dst src n : Nat) : (s.copy dst src n).clkBring = s.clkBring := rfl
@[simp] theorem State.copy_badSince (s : State) (dst src n : Nat) : (s.copy dst src n).badSince = s.badSince := rfl
@[simp] theorem State.copy_tableWaits (s : State) (dst src n : Nat) : (s.copy dst src n).tableWaits = s.tableWaits := rfl
@[simp] theorem State.copy_cacheSet (s : State) (dst src n : Nat) : (s.copy dst src n).cacheSet = s.cacheSet := rfl
@[simp] theorem State.copy_ringLanded (s : State) (dst src n : Nat) : (s.copy dst src n).ringLanded = s.ringLanded := rfl
@[simp] theorem State.copy_selfNow (s : State) (dst src n : Nat) : (s.copy dst src n).selfNow = s.selfNow := rfl
@[simp] theorem State.copy_rd (s : State) (dst src n : Nat) (g : Fld) : (s.copy dst src n).rd g = s.rd g := rfl

/-! clear. -/

@[simp] theorem State.clear_now (s : State) (a n : Nat) : (s.clear a n).now = s.now := rfl
@[simp] theorem State.clear_freeCtr (s : State) (a n : Nat) : (s.clear a n).freeCtr = s.freeCtr := rfl
@[simp] theorem State.clear_regs (s : State) (a n : Nat) : (s.clear a n).regs = s.regs := rfl
@[simp] theorem State.clear_out (s : State) (a n : Nat) : (s.clear a n).out = s.out := rfl
@[simp] theorem State.clear_pending (s : State) (a n : Nat) : (s.clear a n).pending = s.pending := rfl
@[simp] theorem State.clear_score (s : State) (a n : Nat) : (s.clear a n).score = s.score := rfl
@[simp] theorem State.clear_ports (s : State) (a n : Nat) : (s.clear a n).ports = s.ports := rfl
@[simp] theorem State.clear_chans (s : State) (a n : Nat) : (s.clear a n).chans = s.chans := rfl
@[simp] theorem State.clear_cmds (s : State) (a n : Nat) : (s.clear a n).cmds = s.cmds := rfl
@[simp] theorem State.clear_nextCmd (s : State) (a n : Nat) : (s.clear a n).nextCmd = s.nextCmd := rfl
@[simp] theorem State.clear_doneCtr (s : State) (a n : Nat) : (s.clear a n).doneCtr = s.doneCtr := rfl
@[simp] theorem State.clear_grants (s : State) (a n : Nat) : (s.clear a n).grants = s.grants := rfl
@[simp] theorem State.clear_hold (s : State) (a n : Nat) : (s.clear a n).hold = s.hold := rfl
@[simp] theorem State.clear_late (s : State) (a n : Nat) : (s.clear a n).late = s.late := rfl
@[simp] theorem State.clear_ctxs (s : State) (a n : Nat) : (s.clear a n).ctxs = s.ctxs := rfl
@[simp] theorem State.clear_allocs (s : State) (a n : Nat) : (s.clear a n).allocs = s.allocs := rfl
@[simp] theorem State.clear_ranges (s : State) (a n : Nat) : (s.clear a n).ranges = s.ranges := rfl
@[simp] theorem State.clear_windows (s : State) (a n : Nat) : (s.clear a n).windows = s.windows := rfl
@[simp] theorem State.clear_moves (s : State) (a n : Nat) : (s.clear a n).moves = s.moves := rfl
@[simp] theorem State.clear_nextMove (s : State) (a n : Nat) : (s.clear a n).nextMove = s.nextMove := rfl
@[simp] theorem State.clear_wants (s : State) (a n : Nat) : (s.clear a n).wants = s.wants := rfl
@[simp] theorem State.clear_fwds (s : State) (a n : Nat) : (s.clear a n).fwds = s.fwds := rfl
@[simp] theorem State.clear_remaps (s : State) (a n : Nat) : (s.clear a n).remaps = s.remaps := rfl
@[simp] theorem State.clear_tlbs (s : State) (a n : Nat) : (s.clear a n).tlbs = s.tlbs := rfl
@[simp] theorem State.clear_faults (s : State) (a n : Nat) : (s.clear a n).faults = s.faults := rfl
@[simp] theorem State.clear_nextFault (s : State) (a n : Nat) : (s.clear a n).nextFault = s.nextFault := rfl
@[simp] theorem State.clear_descs (s : State) (a n : Nat) : (s.clear a n).descs = s.descs := rfl
@[simp] theorem State.clear_nextDesc (s : State) (a n : Nat) : (s.clear a n).nextDesc = s.nextDesc := rfl
@[simp] theorem State.clear_fabric (s : State) (a n : Nat) : (s.clear a n).fabric = s.fabric := rfl
@[simp] theorem State.clear_topo (s : State) (a n : Nat) : (s.clear a n).topo = s.topo := rfl
@[simp] theorem State.clear_tiles (s : State) (a n : Nat) : (s.clear a n).tiles = s.tiles := rfl
@[simp] theorem State.clear_nextTile (s : State) (a n : Nat) : (s.clear a n).nextTile = s.nextTile := rfl
@[simp] theorem State.clear_arming (s : State) (a n : Nat) : (s.clear a n).arming = s.arming := rfl
@[simp] theorem State.clear_injects (s : State) (a n : Nat) : (s.clear a n).injects = s.injects := rfl
@[simp] theorem State.clear_routers (s : State) (a n : Nat) : (s.clear a n).routers = s.routers := rfl
@[simp] theorem State.clear_areas (s : State) (a n : Nat) : (s.clear a n).areas = s.areas := rfl
@[simp] theorem State.clear_decided (s : State) (a n : Nat) : (s.clear a n).decided = s.decided := rfl
@[simp] theorem State.clear_stepSlots (s : State) (a n : Nat) : (s.clear a n).stepSlots = s.stepSlots := rfl
@[simp] theorem State.clear_hands (s : State) (a n : Nat) : (s.clear a n).hands = s.hands := rfl
@[simp] theorem State.clear_kitty (s : State) (a n : Nat) : (s.clear a n).kitty = s.kitty := rfl
@[simp] theorem State.clear_steps (s : State) (a n : Nat) : (s.clear a n).steps = s.steps := rfl
@[simp] theorem State.clear_entries (s : State) (a n : Nat) : (s.clear a n).entries = s.entries := rfl
@[simp] theorem State.clear_treeNodes (s : State) (a n : Nat) : (s.clear a n).treeNodes = s.treeNodes := rfl
@[simp] theorem State.clear_variants (s : State) (a n : Nat) : (s.clear a n).variants = s.variants := rfl
@[simp] theorem State.clear_dealing (s : State) (a n : Nat) : (s.clear a n).dealing = s.dealing := rfl
@[simp] theorem State.clear_accounts (s : State) (a n : Nat) : (s.clear a n).accounts = s.accounts := rfl
@[simp] theorem State.clear_launches (s : State) (a n : Nat) : (s.clear a n).launches = s.launches := rfl
@[simp] theorem State.clear_nextLaunch (s : State) (a n : Nat) : (s.clear a n).nextLaunch = s.nextLaunch := rfl
@[simp] theorem State.clear_rings (s : State) (a n : Nat) : (s.clear a n).rings = s.rings := rfl
@[simp] theorem State.clear_programs (s : State) (a n : Nat) : (s.clear a n).programs = s.programs := rfl
@[simp] theorem State.clear_coreFree (s : State) (a n : Nat) : (s.clear a n).coreFree = s.coreFree := rfl
@[simp] theorem State.clear_phaseSince (s : State) (a n : Nat) : (s.clear a n).phaseSince = s.phaseSince := rfl
@[simp] theorem State.clear_phaseNs (s : State) (a n : Nat) : (s.clear a n).phaseNs = s.phaseNs := rfl
@[simp] theorem State.clear_draws (s : State) (a n : Nat) : (s.clear a n).draws = s.draws := rfl
@[simp] theorem State.clear_units (s : State) (a n : Nat) : (s.clear a n).units = s.units := rfl
@[simp] theorem State.clear_bankMap (s : State) (a n : Nat) : (s.clear a n).bankMap = s.bankMap := rfl
@[simp] theorem State.clear_badBanks (s : State) (a n : Nat) : (s.clear a n).badBanks = s.badBanks := rfl
@[simp] theorem State.clear_selfDue (s : State) (a n : Nat) : (s.clear a n).selfDue = s.selfDue := rfl
@[simp] theorem State.clear_recordDue (s : State) (a n : Nat) : (s.clear a n).recordDue = s.recordDue := rfl
@[simp] theorem State.clear_slots (s : State) (a n : Nat) : (s.clear a n).slots = s.slots := rfl
@[simp] theorem State.clear_switches (s : State) (a n : Nat) : (s.clear a n).switches = s.switches := rfl
@[simp] theorem State.clear_windowTurn (s : State) (a n : Nat) : (s.clear a n).windowTurn = s.windowTurn := rfl
@[simp] theorem State.clear_recheck (s : State) (a n : Nat) : (s.clear a n).recheck = s.recheck := rfl
@[simp] theorem State.clear_recheckAt (s : State) (a n : Nat) : (s.clear a n).recheckAt = s.recheckAt := rfl
@[simp] theorem State.clear_mgmt (s : State) (a n : Nat) : (s.clear a n).mgmt = s.mgmt := rfl
@[simp] theorem State.clear_power (s : State) (a n : Nat) : (s.clear a n).power = s.power := rfl
@[simp] theorem State.clear_sec (s : State) (a n : Nat) : (s.clear a n).sec = s.sec := rfl
@[simp] theorem State.clear_clkMoved (s : State) (a n : Nat) : (s.clear a n).clkMoved = s.clkMoved := rfl
@[simp] theorem State.clear_clkBring (s : State) (a n : Nat) : (s.clear a n).clkBring = s.clkBring := rfl
@[simp] theorem State.clear_badSince (s : State) (a n : Nat) : (s.clear a n).badSince = s.badSince := rfl
@[simp] theorem State.clear_tableWaits (s : State) (a n : Nat) : (s.clear a n).tableWaits = s.tableWaits := rfl
@[simp] theorem State.clear_cacheSet (s : State) (a n : Nat) : (s.clear a n).cacheSet = s.cacheSet := rfl
@[simp] theorem State.clear_ringLanded (s : State) (a n : Nat) : (s.clear a n).ringLanded = s.ringLanded := rfl
@[simp] theorem State.clear_selfNow (s : State) (a n : Nat) : (s.clear a n).selfNow = s.selfNow := rfl
@[simp] theorem State.clear_rd (s : State) (a n : Nat) (g : Fld) : (s.clear a n).rd g = s.rd g := rfl

/-! took. -/

@[simp] theorem State.took_now (s : State) : (s.took).now = s.now := rfl
@[simp] theorem State.took_regs (s : State) : (s.took).regs = s.regs := rfl
@[simp] theorem State.took_mem (s : State) : (s.took).mem = s.mem := rfl
@[simp] theorem State.took_out (s : State) : (s.took).out = s.out := rfl
@[simp] theorem State.took_pending (s : State) : (s.took).pending = s.pending := rfl
@[simp] theorem State.took_score (s : State) : (s.took).score = s.score := rfl
@[simp] theorem State.took_ports (s : State) : (s.took).ports = s.ports := rfl
@[simp] theorem State.took_chans (s : State) : (s.took).chans = s.chans := rfl
@[simp] theorem State.took_cmds (s : State) : (s.took).cmds = s.cmds := rfl
@[simp] theorem State.took_nextCmd (s : State) : (s.took).nextCmd = s.nextCmd := rfl
@[simp] theorem State.took_doneCtr (s : State) : (s.took).doneCtr = s.doneCtr := rfl
@[simp] theorem State.took_grants (s : State) : (s.took).grants = s.grants := rfl
@[simp] theorem State.took_hold (s : State) : (s.took).hold = s.hold := rfl
@[simp] theorem State.took_late (s : State) : (s.took).late = s.late := rfl
@[simp] theorem State.took_ctxs (s : State) : (s.took).ctxs = s.ctxs := rfl
@[simp] theorem State.took_allocs (s : State) : (s.took).allocs = s.allocs := rfl
@[simp] theorem State.took_ranges (s : State) : (s.took).ranges = s.ranges := rfl
@[simp] theorem State.took_windows (s : State) : (s.took).windows = s.windows := rfl
@[simp] theorem State.took_moves (s : State) : (s.took).moves = s.moves := rfl
@[simp] theorem State.took_nextMove (s : State) : (s.took).nextMove = s.nextMove := rfl
@[simp] theorem State.took_wants (s : State) : (s.took).wants = s.wants := rfl
@[simp] theorem State.took_fwds (s : State) : (s.took).fwds = s.fwds := rfl
@[simp] theorem State.took_remaps (s : State) : (s.took).remaps = s.remaps := rfl
@[simp] theorem State.took_tlbs (s : State) : (s.took).tlbs = s.tlbs := rfl
@[simp] theorem State.took_faults (s : State) : (s.took).faults = s.faults := rfl
@[simp] theorem State.took_nextFault (s : State) : (s.took).nextFault = s.nextFault := rfl
@[simp] theorem State.took_descs (s : State) : (s.took).descs = s.descs := rfl
@[simp] theorem State.took_nextDesc (s : State) : (s.took).nextDesc = s.nextDesc := rfl
@[simp] theorem State.took_fabric (s : State) : (s.took).fabric = s.fabric := rfl
@[simp] theorem State.took_topo (s : State) : (s.took).topo = s.topo := rfl
@[simp] theorem State.took_tiles (s : State) : (s.took).tiles = s.tiles := rfl
@[simp] theorem State.took_nextTile (s : State) : (s.took).nextTile = s.nextTile := rfl
@[simp] theorem State.took_arming (s : State) : (s.took).arming = s.arming := rfl
@[simp] theorem State.took_injects (s : State) : (s.took).injects = s.injects := rfl
@[simp] theorem State.took_routers (s : State) : (s.took).routers = s.routers := rfl
@[simp] theorem State.took_areas (s : State) : (s.took).areas = s.areas := rfl
@[simp] theorem State.took_decided (s : State) : (s.took).decided = s.decided := rfl
@[simp] theorem State.took_stepSlots (s : State) : (s.took).stepSlots = s.stepSlots := rfl
@[simp] theorem State.took_hands (s : State) : (s.took).hands = s.hands := rfl
@[simp] theorem State.took_kitty (s : State) : (s.took).kitty = s.kitty := rfl
@[simp] theorem State.took_steps (s : State) : (s.took).steps = s.steps := rfl
@[simp] theorem State.took_entries (s : State) : (s.took).entries = s.entries := rfl
@[simp] theorem State.took_treeNodes (s : State) : (s.took).treeNodes = s.treeNodes := rfl
@[simp] theorem State.took_variants (s : State) : (s.took).variants = s.variants := rfl
@[simp] theorem State.took_dealing (s : State) : (s.took).dealing = s.dealing := rfl
@[simp] theorem State.took_accounts (s : State) : (s.took).accounts = s.accounts := rfl
@[simp] theorem State.took_launches (s : State) : (s.took).launches = s.launches := rfl
@[simp] theorem State.took_nextLaunch (s : State) : (s.took).nextLaunch = s.nextLaunch := rfl
@[simp] theorem State.took_rings (s : State) : (s.took).rings = s.rings := rfl
@[simp] theorem State.took_programs (s : State) : (s.took).programs = s.programs := rfl
@[simp] theorem State.took_coreFree (s : State) : (s.took).coreFree = s.coreFree := rfl
@[simp] theorem State.took_phaseSince (s : State) : (s.took).phaseSince = s.phaseSince := rfl
@[simp] theorem State.took_phaseNs (s : State) : (s.took).phaseNs = s.phaseNs := rfl
@[simp] theorem State.took_draws (s : State) : (s.took).draws = s.draws := rfl
@[simp] theorem State.took_units (s : State) : (s.took).units = s.units := rfl
@[simp] theorem State.took_bankMap (s : State) : (s.took).bankMap = s.bankMap := rfl
@[simp] theorem State.took_badBanks (s : State) : (s.took).badBanks = s.badBanks := rfl
@[simp] theorem State.took_selfDue (s : State) : (s.took).selfDue = s.selfDue := rfl
@[simp] theorem State.took_recordDue (s : State) : (s.took).recordDue = s.recordDue := rfl
@[simp] theorem State.took_slots (s : State) : (s.took).slots = s.slots := rfl
@[simp] theorem State.took_switches (s : State) : (s.took).switches = s.switches := rfl
@[simp] theorem State.took_windowTurn (s : State) : (s.took).windowTurn = s.windowTurn := rfl
@[simp] theorem State.took_recheck (s : State) : (s.took).recheck = s.recheck := rfl
@[simp] theorem State.took_recheckAt (s : State) : (s.took).recheckAt = s.recheckAt := rfl
@[simp] theorem State.took_mgmt (s : State) : (s.took).mgmt = s.mgmt := rfl
@[simp] theorem State.took_power (s : State) : (s.took).power = s.power := rfl
@[simp] theorem State.took_sec (s : State) : (s.took).sec = s.sec := rfl
@[simp] theorem State.took_clkMoved (s : State) : (s.took).clkMoved = s.clkMoved := rfl
@[simp] theorem State.took_clkBring (s : State) : (s.took).clkBring = s.clkBring := rfl
@[simp] theorem State.took_badSince (s : State) : (s.took).badSince = s.badSince := rfl
@[simp] theorem State.took_tableWaits (s : State) : (s.took).tableWaits = s.tableWaits := rfl
@[simp] theorem State.took_cacheSet (s : State) : (s.took).cacheSet = s.cacheSet := rfl
@[simp] theorem State.took_ringLanded (s : State) : (s.took).ringLanded = s.ringLanded := rfl
@[simp] theorem State.took_selfNow (s : State) : (s.took).selfNow = s.selfNow := rfl
@[simp] theorem State.took_rd (s : State) (g : Fld) : (s.took).rd g = s.rd g := rfl

/-! setPort. -/

@[simp] theorem State.setPort_now (s : State) (h : Nat) (p : PciePort) : (s.setPort h p).now = s.now := rfl
@[simp] theorem State.setPort_freeCtr (s : State) (h : Nat) (p : PciePort) : (s.setPort h p).freeCtr = s.freeCtr := rfl
@[simp] theorem State.setPort_regs (s : State) (h : Nat) (p : PciePort) : (s.setPort h p).regs = s.regs := rfl
@[simp] theorem State.setPort_mem (s : State) (h : Nat) (p : PciePort) : (s.setPort h p).mem = s.mem := rfl
@[simp] theorem State.setPort_out (s : State) (h : Nat) (p : PciePort) : (s.setPort h p).out = s.out := rfl
@[simp] theorem State.setPort_pending (s : State) (h : Nat) (p : PciePort) : (s.setPort h p).pending = s.pending := rfl
@[simp] theorem State.setPort_score (s : State) (h : Nat) (p : PciePort) : (s.setPort h p).score = s.score := rfl
@[simp] theorem State.setPort_chans (s : State) (h : Nat) (p : PciePort) : (s.setPort h p).chans = s.chans := rfl
@[simp] theorem State.setPort_cmds (s : State) (h : Nat) (p : PciePort) : (s.setPort h p).cmds = s.cmds := rfl
@[simp] theorem State.setPort_nextCmd (s : State) (h : Nat) (p : PciePort) : (s.setPort h p).nextCmd = s.nextCmd := rfl
@[simp] theorem State.setPort_doneCtr (s : State) (h : Nat) (p : PciePort) : (s.setPort h p).doneCtr = s.doneCtr := rfl
@[simp] theorem State.setPort_grants (s : State) (h : Nat) (p : PciePort) : (s.setPort h p).grants = s.grants := rfl
@[simp] theorem State.setPort_hold (s : State) (h : Nat) (p : PciePort) : (s.setPort h p).hold = s.hold := rfl
@[simp] theorem State.setPort_late (s : State) (h : Nat) (p : PciePort) : (s.setPort h p).late = s.late := rfl
@[simp] theorem State.setPort_ctxs (s : State) (h : Nat) (p : PciePort) : (s.setPort h p).ctxs = s.ctxs := rfl
@[simp] theorem State.setPort_allocs (s : State) (h : Nat) (p : PciePort) : (s.setPort h p).allocs = s.allocs := rfl
@[simp] theorem State.setPort_ranges (s : State) (h : Nat) (p : PciePort) : (s.setPort h p).ranges = s.ranges := rfl
@[simp] theorem State.setPort_windows (s : State) (h : Nat) (p : PciePort) : (s.setPort h p).windows = s.windows := rfl
@[simp] theorem State.setPort_moves (s : State) (h : Nat) (p : PciePort) : (s.setPort h p).moves = s.moves := rfl
@[simp] theorem State.setPort_nextMove (s : State) (h : Nat) (p : PciePort) : (s.setPort h p).nextMove = s.nextMove := rfl
@[simp] theorem State.setPort_wants (s : State) (h : Nat) (p : PciePort) : (s.setPort h p).wants = s.wants := rfl
@[simp] theorem State.setPort_fwds (s : State) (h : Nat) (p : PciePort) : (s.setPort h p).fwds = s.fwds := rfl
@[simp] theorem State.setPort_remaps (s : State) (h : Nat) (p : PciePort) : (s.setPort h p).remaps = s.remaps := rfl
@[simp] theorem State.setPort_tlbs (s : State) (h : Nat) (p : PciePort) : (s.setPort h p).tlbs = s.tlbs := rfl
@[simp] theorem State.setPort_faults (s : State) (h : Nat) (p : PciePort) : (s.setPort h p).faults = s.faults := rfl
@[simp] theorem State.setPort_nextFault (s : State) (h : Nat) (p : PciePort) : (s.setPort h p).nextFault = s.nextFault := rfl
@[simp] theorem State.setPort_descs (s : State) (h : Nat) (p : PciePort) : (s.setPort h p).descs = s.descs := rfl
@[simp] theorem State.setPort_nextDesc (s : State) (h : Nat) (p : PciePort) : (s.setPort h p).nextDesc = s.nextDesc := rfl
@[simp] theorem State.setPort_fabric (s : State) (h : Nat) (p : PciePort) : (s.setPort h p).fabric = s.fabric := rfl
@[simp] theorem State.setPort_topo (s : State) (h : Nat) (p : PciePort) : (s.setPort h p).topo = s.topo := rfl
@[simp] theorem State.setPort_tiles (s : State) (h : Nat) (p : PciePort) : (s.setPort h p).tiles = s.tiles := rfl
@[simp] theorem State.setPort_nextTile (s : State) (h : Nat) (p : PciePort) : (s.setPort h p).nextTile = s.nextTile := rfl
@[simp] theorem State.setPort_arming (s : State) (h : Nat) (p : PciePort) : (s.setPort h p).arming = s.arming := rfl
@[simp] theorem State.setPort_injects (s : State) (h : Nat) (p : PciePort) : (s.setPort h p).injects = s.injects := rfl
@[simp] theorem State.setPort_routers (s : State) (h : Nat) (p : PciePort) : (s.setPort h p).routers = s.routers := rfl
@[simp] theorem State.setPort_areas (s : State) (h : Nat) (p : PciePort) : (s.setPort h p).areas = s.areas := rfl
@[simp] theorem State.setPort_decided (s : State) (h : Nat) (p : PciePort) : (s.setPort h p).decided = s.decided := rfl
@[simp] theorem State.setPort_stepSlots (s : State) (h : Nat) (p : PciePort) : (s.setPort h p).stepSlots = s.stepSlots := rfl
@[simp] theorem State.setPort_hands (s : State) (h : Nat) (p : PciePort) : (s.setPort h p).hands = s.hands := rfl
@[simp] theorem State.setPort_kitty (s : State) (h : Nat) (p : PciePort) : (s.setPort h p).kitty = s.kitty := rfl
@[simp] theorem State.setPort_steps (s : State) (h : Nat) (p : PciePort) : (s.setPort h p).steps = s.steps := rfl
@[simp] theorem State.setPort_entries (s : State) (h : Nat) (p : PciePort) : (s.setPort h p).entries = s.entries := rfl
@[simp] theorem State.setPort_treeNodes (s : State) (h : Nat) (p : PciePort) : (s.setPort h p).treeNodes = s.treeNodes := rfl
@[simp] theorem State.setPort_variants (s : State) (h : Nat) (p : PciePort) : (s.setPort h p).variants = s.variants := rfl
@[simp] theorem State.setPort_dealing (s : State) (h : Nat) (p : PciePort) : (s.setPort h p).dealing = s.dealing := rfl
@[simp] theorem State.setPort_accounts (s : State) (h : Nat) (p : PciePort) : (s.setPort h p).accounts = s.accounts := rfl
@[simp] theorem State.setPort_launches (s : State) (h : Nat) (p : PciePort) : (s.setPort h p).launches = s.launches := rfl
@[simp] theorem State.setPort_nextLaunch (s : State) (h : Nat) (p : PciePort) : (s.setPort h p).nextLaunch = s.nextLaunch := rfl
@[simp] theorem State.setPort_rings (s : State) (h : Nat) (p : PciePort) : (s.setPort h p).rings = s.rings := rfl
@[simp] theorem State.setPort_programs (s : State) (h : Nat) (p : PciePort) : (s.setPort h p).programs = s.programs := rfl
@[simp] theorem State.setPort_coreFree (s : State) (h : Nat) (p : PciePort) : (s.setPort h p).coreFree = s.coreFree := rfl
@[simp] theorem State.setPort_phaseSince (s : State) (h : Nat) (p : PciePort) : (s.setPort h p).phaseSince = s.phaseSince := rfl
@[simp] theorem State.setPort_phaseNs (s : State) (h : Nat) (p : PciePort) : (s.setPort h p).phaseNs = s.phaseNs := rfl
@[simp] theorem State.setPort_draws (s : State) (h : Nat) (p : PciePort) : (s.setPort h p).draws = s.draws := rfl
@[simp] theorem State.setPort_units (s : State) (h : Nat) (p : PciePort) : (s.setPort h p).units = s.units := rfl
@[simp] theorem State.setPort_bankMap (s : State) (h : Nat) (p : PciePort) : (s.setPort h p).bankMap = s.bankMap := rfl
@[simp] theorem State.setPort_badBanks (s : State) (h : Nat) (p : PciePort) : (s.setPort h p).badBanks = s.badBanks := rfl
@[simp] theorem State.setPort_selfDue (s : State) (h : Nat) (p : PciePort) : (s.setPort h p).selfDue = s.selfDue := rfl
@[simp] theorem State.setPort_recordDue (s : State) (h : Nat) (p : PciePort) : (s.setPort h p).recordDue = s.recordDue := rfl
@[simp] theorem State.setPort_slots (s : State) (h : Nat) (p : PciePort) : (s.setPort h p).slots = s.slots := rfl
@[simp] theorem State.setPort_switches (s : State) (h : Nat) (p : PciePort) : (s.setPort h p).switches = s.switches := rfl
@[simp] theorem State.setPort_windowTurn (s : State) (h : Nat) (p : PciePort) : (s.setPort h p).windowTurn = s.windowTurn := rfl
@[simp] theorem State.setPort_recheck (s : State) (h : Nat) (p : PciePort) : (s.setPort h p).recheck = s.recheck := rfl
@[simp] theorem State.setPort_recheckAt (s : State) (h : Nat) (p : PciePort) : (s.setPort h p).recheckAt = s.recheckAt := rfl
@[simp] theorem State.setPort_mgmt (s : State) (h : Nat) (p : PciePort) : (s.setPort h p).mgmt = s.mgmt := rfl
@[simp] theorem State.setPort_power (s : State) (h : Nat) (p : PciePort) : (s.setPort h p).power = s.power := rfl
@[simp] theorem State.setPort_sec (s : State) (h : Nat) (p : PciePort) : (s.setPort h p).sec = s.sec := rfl
@[simp] theorem State.setPort_clkMoved (s : State) (h : Nat) (p : PciePort) : (s.setPort h p).clkMoved = s.clkMoved := rfl
@[simp] theorem State.setPort_clkBring (s : State) (h : Nat) (p : PciePort) : (s.setPort h p).clkBring = s.clkBring := rfl
@[simp] theorem State.setPort_badSince (s : State) (h : Nat) (p : PciePort) : (s.setPort h p).badSince = s.badSince := rfl
@[simp] theorem State.setPort_tableWaits (s : State) (h : Nat) (p : PciePort) : (s.setPort h p).tableWaits = s.tableWaits := rfl
@[simp] theorem State.setPort_cacheSet (s : State) (h : Nat) (p : PciePort) : (s.setPort h p).cacheSet = s.cacheSet := rfl
@[simp] theorem State.setPort_ringLanded (s : State) (h : Nat) (p : PciePort) : (s.setPort h p).ringLanded = s.ringLanded := rfl
@[simp] theorem State.setPort_selfNow (s : State) (h : Nat) (p : PciePort) : (s.setPort h p).selfNow = s.selfNow := rfl
@[simp] theorem State.setPort_rd (s : State) (h : Nat) (p : PciePort) (g : Fld) : (s.setPort h p).rd g = s.rd g := rfl

/-! setChan. -/

@[simp] theorem State.setChan_now (s : State) (c : Nat) (x : Chan) : (s.setChan c x).now = s.now := rfl
@[simp] theorem State.setChan_freeCtr (s : State) (c : Nat) (x : Chan) : (s.setChan c x).freeCtr = s.freeCtr := rfl
@[simp] theorem State.setChan_regs (s : State) (c : Nat) (x : Chan) : (s.setChan c x).regs = s.regs := rfl
@[simp] theorem State.setChan_mem (s : State) (c : Nat) (x : Chan) : (s.setChan c x).mem = s.mem := rfl
@[simp] theorem State.setChan_out (s : State) (c : Nat) (x : Chan) : (s.setChan c x).out = s.out := rfl
@[simp] theorem State.setChan_pending (s : State) (c : Nat) (x : Chan) : (s.setChan c x).pending = s.pending := rfl
@[simp] theorem State.setChan_score (s : State) (c : Nat) (x : Chan) : (s.setChan c x).score = s.score := rfl
@[simp] theorem State.setChan_ports (s : State) (c : Nat) (x : Chan) : (s.setChan c x).ports = s.ports := rfl
@[simp] theorem State.setChan_cmds (s : State) (c : Nat) (x : Chan) : (s.setChan c x).cmds = s.cmds := rfl
@[simp] theorem State.setChan_nextCmd (s : State) (c : Nat) (x : Chan) : (s.setChan c x).nextCmd = s.nextCmd := rfl
@[simp] theorem State.setChan_doneCtr (s : State) (c : Nat) (x : Chan) : (s.setChan c x).doneCtr = s.doneCtr := rfl
@[simp] theorem State.setChan_grants (s : State) (c : Nat) (x : Chan) : (s.setChan c x).grants = s.grants := rfl
@[simp] theorem State.setChan_hold (s : State) (c : Nat) (x : Chan) : (s.setChan c x).hold = s.hold := rfl
@[simp] theorem State.setChan_late (s : State) (c : Nat) (x : Chan) : (s.setChan c x).late = s.late := rfl
@[simp] theorem State.setChan_ctxs (s : State) (c : Nat) (x : Chan) : (s.setChan c x).ctxs = s.ctxs := rfl
@[simp] theorem State.setChan_allocs (s : State) (c : Nat) (x : Chan) : (s.setChan c x).allocs = s.allocs := rfl
@[simp] theorem State.setChan_ranges (s : State) (c : Nat) (x : Chan) : (s.setChan c x).ranges = s.ranges := rfl
@[simp] theorem State.setChan_windows (s : State) (c : Nat) (x : Chan) : (s.setChan c x).windows = s.windows := rfl
@[simp] theorem State.setChan_moves (s : State) (c : Nat) (x : Chan) : (s.setChan c x).moves = s.moves := rfl
@[simp] theorem State.setChan_nextMove (s : State) (c : Nat) (x : Chan) : (s.setChan c x).nextMove = s.nextMove := rfl
@[simp] theorem State.setChan_wants (s : State) (c : Nat) (x : Chan) : (s.setChan c x).wants = s.wants := rfl
@[simp] theorem State.setChan_fwds (s : State) (c : Nat) (x : Chan) : (s.setChan c x).fwds = s.fwds := rfl
@[simp] theorem State.setChan_remaps (s : State) (c : Nat) (x : Chan) : (s.setChan c x).remaps = s.remaps := rfl
@[simp] theorem State.setChan_tlbs (s : State) (c : Nat) (x : Chan) : (s.setChan c x).tlbs = s.tlbs := rfl
@[simp] theorem State.setChan_faults (s : State) (c : Nat) (x : Chan) : (s.setChan c x).faults = s.faults := rfl
@[simp] theorem State.setChan_nextFault (s : State) (c : Nat) (x : Chan) : (s.setChan c x).nextFault = s.nextFault := rfl
@[simp] theorem State.setChan_descs (s : State) (c : Nat) (x : Chan) : (s.setChan c x).descs = s.descs := rfl
@[simp] theorem State.setChan_nextDesc (s : State) (c : Nat) (x : Chan) : (s.setChan c x).nextDesc = s.nextDesc := rfl
@[simp] theorem State.setChan_fabric (s : State) (c : Nat) (x : Chan) : (s.setChan c x).fabric = s.fabric := rfl
@[simp] theorem State.setChan_topo (s : State) (c : Nat) (x : Chan) : (s.setChan c x).topo = s.topo := rfl
@[simp] theorem State.setChan_tiles (s : State) (c : Nat) (x : Chan) : (s.setChan c x).tiles = s.tiles := rfl
@[simp] theorem State.setChan_nextTile (s : State) (c : Nat) (x : Chan) : (s.setChan c x).nextTile = s.nextTile := rfl
@[simp] theorem State.setChan_arming (s : State) (c : Nat) (x : Chan) : (s.setChan c x).arming = s.arming := rfl
@[simp] theorem State.setChan_injects (s : State) (c : Nat) (x : Chan) : (s.setChan c x).injects = s.injects := rfl
@[simp] theorem State.setChan_routers (s : State) (c : Nat) (x : Chan) : (s.setChan c x).routers = s.routers := rfl
@[simp] theorem State.setChan_areas (s : State) (c : Nat) (x : Chan) : (s.setChan c x).areas = s.areas := rfl
@[simp] theorem State.setChan_decided (s : State) (c : Nat) (x : Chan) : (s.setChan c x).decided = s.decided := rfl
@[simp] theorem State.setChan_stepSlots (s : State) (c : Nat) (x : Chan) : (s.setChan c x).stepSlots = s.stepSlots := rfl
@[simp] theorem State.setChan_hands (s : State) (c : Nat) (x : Chan) : (s.setChan c x).hands = s.hands := rfl
@[simp] theorem State.setChan_kitty (s : State) (c : Nat) (x : Chan) : (s.setChan c x).kitty = s.kitty := rfl
@[simp] theorem State.setChan_steps (s : State) (c : Nat) (x : Chan) : (s.setChan c x).steps = s.steps := rfl
@[simp] theorem State.setChan_entries (s : State) (c : Nat) (x : Chan) : (s.setChan c x).entries = s.entries := rfl
@[simp] theorem State.setChan_treeNodes (s : State) (c : Nat) (x : Chan) : (s.setChan c x).treeNodes = s.treeNodes := rfl
@[simp] theorem State.setChan_variants (s : State) (c : Nat) (x : Chan) : (s.setChan c x).variants = s.variants := rfl
@[simp] theorem State.setChan_dealing (s : State) (c : Nat) (x : Chan) : (s.setChan c x).dealing = s.dealing := rfl
@[simp] theorem State.setChan_accounts (s : State) (c : Nat) (x : Chan) : (s.setChan c x).accounts = s.accounts := rfl
@[simp] theorem State.setChan_launches (s : State) (c : Nat) (x : Chan) : (s.setChan c x).launches = s.launches := rfl
@[simp] theorem State.setChan_nextLaunch (s : State) (c : Nat) (x : Chan) : (s.setChan c x).nextLaunch = s.nextLaunch := rfl
@[simp] theorem State.setChan_rings (s : State) (c : Nat) (x : Chan) : (s.setChan c x).rings = s.rings := rfl
@[simp] theorem State.setChan_programs (s : State) (c : Nat) (x : Chan) : (s.setChan c x).programs = s.programs := rfl
@[simp] theorem State.setChan_coreFree (s : State) (c : Nat) (x : Chan) : (s.setChan c x).coreFree = s.coreFree := rfl
@[simp] theorem State.setChan_phaseSince (s : State) (c : Nat) (x : Chan) : (s.setChan c x).phaseSince = s.phaseSince := rfl
@[simp] theorem State.setChan_phaseNs (s : State) (c : Nat) (x : Chan) : (s.setChan c x).phaseNs = s.phaseNs := rfl
@[simp] theorem State.setChan_draws (s : State) (c : Nat) (x : Chan) : (s.setChan c x).draws = s.draws := rfl
@[simp] theorem State.setChan_units (s : State) (c : Nat) (x : Chan) : (s.setChan c x).units = s.units := rfl
@[simp] theorem State.setChan_bankMap (s : State) (c : Nat) (x : Chan) : (s.setChan c x).bankMap = s.bankMap := rfl
@[simp] theorem State.setChan_badBanks (s : State) (c : Nat) (x : Chan) : (s.setChan c x).badBanks = s.badBanks := rfl
@[simp] theorem State.setChan_selfDue (s : State) (c : Nat) (x : Chan) : (s.setChan c x).selfDue = s.selfDue := rfl
@[simp] theorem State.setChan_recordDue (s : State) (c : Nat) (x : Chan) : (s.setChan c x).recordDue = s.recordDue := rfl
@[simp] theorem State.setChan_slots (s : State) (c : Nat) (x : Chan) : (s.setChan c x).slots = s.slots := rfl
@[simp] theorem State.setChan_switches (s : State) (c : Nat) (x : Chan) : (s.setChan c x).switches = s.switches := rfl
@[simp] theorem State.setChan_windowTurn (s : State) (c : Nat) (x : Chan) : (s.setChan c x).windowTurn = s.windowTurn := rfl
@[simp] theorem State.setChan_recheck (s : State) (c : Nat) (x : Chan) : (s.setChan c x).recheck = s.recheck := rfl
@[simp] theorem State.setChan_recheckAt (s : State) (c : Nat) (x : Chan) : (s.setChan c x).recheckAt = s.recheckAt := rfl
@[simp] theorem State.setChan_mgmt (s : State) (c : Nat) (x : Chan) : (s.setChan c x).mgmt = s.mgmt := rfl
@[simp] theorem State.setChan_power (s : State) (c : Nat) (x : Chan) : (s.setChan c x).power = s.power := rfl
@[simp] theorem State.setChan_sec (s : State) (c : Nat) (x : Chan) : (s.setChan c x).sec = s.sec := rfl
@[simp] theorem State.setChan_clkMoved (s : State) (c : Nat) (x : Chan) : (s.setChan c x).clkMoved = s.clkMoved := rfl
@[simp] theorem State.setChan_clkBring (s : State) (c : Nat) (x : Chan) : (s.setChan c x).clkBring = s.clkBring := rfl
@[simp] theorem State.setChan_badSince (s : State) (c : Nat) (x : Chan) : (s.setChan c x).badSince = s.badSince := rfl
@[simp] theorem State.setChan_tableWaits (s : State) (c : Nat) (x : Chan) : (s.setChan c x).tableWaits = s.tableWaits := rfl
@[simp] theorem State.setChan_cacheSet (s : State) (c : Nat) (x : Chan) : (s.setChan c x).cacheSet = s.cacheSet := rfl
@[simp] theorem State.setChan_ringLanded (s : State) (c : Nat) (x : Chan) : (s.setChan c x).ringLanded = s.ringLanded := rfl
@[simp] theorem State.setChan_selfNow (s : State) (c : Nat) (x : Chan) : (s.setChan c x).selfNow = s.selfNow := rfl
@[simp] theorem State.setChan_rd (s : State) (c : Nat) (x : Chan) (g : Fld) : (s.setChan c x).rd g = s.rd g := rfl

/-! setCtx. -/

@[simp] theorem State.setCtx_now (s : State) (c : Nat) (x : Ctx) : (s.setCtx c x).now = s.now := rfl
@[simp] theorem State.setCtx_freeCtr (s : State) (c : Nat) (x : Ctx) : (s.setCtx c x).freeCtr = s.freeCtr := rfl
@[simp] theorem State.setCtx_regs (s : State) (c : Nat) (x : Ctx) : (s.setCtx c x).regs = s.regs := rfl
@[simp] theorem State.setCtx_mem (s : State) (c : Nat) (x : Ctx) : (s.setCtx c x).mem = s.mem := rfl
@[simp] theorem State.setCtx_out (s : State) (c : Nat) (x : Ctx) : (s.setCtx c x).out = s.out := rfl
@[simp] theorem State.setCtx_pending (s : State) (c : Nat) (x : Ctx) : (s.setCtx c x).pending = s.pending := rfl
@[simp] theorem State.setCtx_score (s : State) (c : Nat) (x : Ctx) : (s.setCtx c x).score = s.score := rfl
@[simp] theorem State.setCtx_ports (s : State) (c : Nat) (x : Ctx) : (s.setCtx c x).ports = s.ports := rfl
@[simp] theorem State.setCtx_chans (s : State) (c : Nat) (x : Ctx) : (s.setCtx c x).chans = s.chans := rfl
@[simp] theorem State.setCtx_cmds (s : State) (c : Nat) (x : Ctx) : (s.setCtx c x).cmds = s.cmds := rfl
@[simp] theorem State.setCtx_nextCmd (s : State) (c : Nat) (x : Ctx) : (s.setCtx c x).nextCmd = s.nextCmd := rfl
@[simp] theorem State.setCtx_doneCtr (s : State) (c : Nat) (x : Ctx) : (s.setCtx c x).doneCtr = s.doneCtr := rfl
@[simp] theorem State.setCtx_grants (s : State) (c : Nat) (x : Ctx) : (s.setCtx c x).grants = s.grants := rfl
@[simp] theorem State.setCtx_hold (s : State) (c : Nat) (x : Ctx) : (s.setCtx c x).hold = s.hold := rfl
@[simp] theorem State.setCtx_late (s : State) (c : Nat) (x : Ctx) : (s.setCtx c x).late = s.late := rfl
@[simp] theorem State.setCtx_allocs (s : State) (c : Nat) (x : Ctx) : (s.setCtx c x).allocs = s.allocs := rfl
@[simp] theorem State.setCtx_ranges (s : State) (c : Nat) (x : Ctx) : (s.setCtx c x).ranges = s.ranges := rfl
@[simp] theorem State.setCtx_windows (s : State) (c : Nat) (x : Ctx) : (s.setCtx c x).windows = s.windows := rfl
@[simp] theorem State.setCtx_moves (s : State) (c : Nat) (x : Ctx) : (s.setCtx c x).moves = s.moves := rfl
@[simp] theorem State.setCtx_nextMove (s : State) (c : Nat) (x : Ctx) : (s.setCtx c x).nextMove = s.nextMove := rfl
@[simp] theorem State.setCtx_wants (s : State) (c : Nat) (x : Ctx) : (s.setCtx c x).wants = s.wants := rfl
@[simp] theorem State.setCtx_fwds (s : State) (c : Nat) (x : Ctx) : (s.setCtx c x).fwds = s.fwds := rfl
@[simp] theorem State.setCtx_remaps (s : State) (c : Nat) (x : Ctx) : (s.setCtx c x).remaps = s.remaps := rfl
@[simp] theorem State.setCtx_tlbs (s : State) (c : Nat) (x : Ctx) : (s.setCtx c x).tlbs = s.tlbs := rfl
@[simp] theorem State.setCtx_faults (s : State) (c : Nat) (x : Ctx) : (s.setCtx c x).faults = s.faults := rfl
@[simp] theorem State.setCtx_nextFault (s : State) (c : Nat) (x : Ctx) : (s.setCtx c x).nextFault = s.nextFault := rfl
@[simp] theorem State.setCtx_descs (s : State) (c : Nat) (x : Ctx) : (s.setCtx c x).descs = s.descs := rfl
@[simp] theorem State.setCtx_nextDesc (s : State) (c : Nat) (x : Ctx) : (s.setCtx c x).nextDesc = s.nextDesc := rfl
@[simp] theorem State.setCtx_fabric (s : State) (c : Nat) (x : Ctx) : (s.setCtx c x).fabric = s.fabric := rfl
@[simp] theorem State.setCtx_topo (s : State) (c : Nat) (x : Ctx) : (s.setCtx c x).topo = s.topo := rfl
@[simp] theorem State.setCtx_tiles (s : State) (c : Nat) (x : Ctx) : (s.setCtx c x).tiles = s.tiles := rfl
@[simp] theorem State.setCtx_nextTile (s : State) (c : Nat) (x : Ctx) : (s.setCtx c x).nextTile = s.nextTile := rfl
@[simp] theorem State.setCtx_arming (s : State) (c : Nat) (x : Ctx) : (s.setCtx c x).arming = s.arming := rfl
@[simp] theorem State.setCtx_injects (s : State) (c : Nat) (x : Ctx) : (s.setCtx c x).injects = s.injects := rfl
@[simp] theorem State.setCtx_routers (s : State) (c : Nat) (x : Ctx) : (s.setCtx c x).routers = s.routers := rfl
@[simp] theorem State.setCtx_areas (s : State) (c : Nat) (x : Ctx) : (s.setCtx c x).areas = s.areas := rfl
@[simp] theorem State.setCtx_decided (s : State) (c : Nat) (x : Ctx) : (s.setCtx c x).decided = s.decided := rfl
@[simp] theorem State.setCtx_stepSlots (s : State) (c : Nat) (x : Ctx) : (s.setCtx c x).stepSlots = s.stepSlots := rfl
@[simp] theorem State.setCtx_hands (s : State) (c : Nat) (x : Ctx) : (s.setCtx c x).hands = s.hands := rfl
@[simp] theorem State.setCtx_kitty (s : State) (c : Nat) (x : Ctx) : (s.setCtx c x).kitty = s.kitty := rfl
@[simp] theorem State.setCtx_steps (s : State) (c : Nat) (x : Ctx) : (s.setCtx c x).steps = s.steps := rfl
@[simp] theorem State.setCtx_entries (s : State) (c : Nat) (x : Ctx) : (s.setCtx c x).entries = s.entries := rfl
@[simp] theorem State.setCtx_treeNodes (s : State) (c : Nat) (x : Ctx) : (s.setCtx c x).treeNodes = s.treeNodes := rfl
@[simp] theorem State.setCtx_variants (s : State) (c : Nat) (x : Ctx) : (s.setCtx c x).variants = s.variants := rfl
@[simp] theorem State.setCtx_dealing (s : State) (c : Nat) (x : Ctx) : (s.setCtx c x).dealing = s.dealing := rfl
@[simp] theorem State.setCtx_accounts (s : State) (c : Nat) (x : Ctx) : (s.setCtx c x).accounts = s.accounts := rfl
@[simp] theorem State.setCtx_launches (s : State) (c : Nat) (x : Ctx) : (s.setCtx c x).launches = s.launches := rfl
@[simp] theorem State.setCtx_nextLaunch (s : State) (c : Nat) (x : Ctx) : (s.setCtx c x).nextLaunch = s.nextLaunch := rfl
@[simp] theorem State.setCtx_rings (s : State) (c : Nat) (x : Ctx) : (s.setCtx c x).rings = s.rings := rfl
@[simp] theorem State.setCtx_programs (s : State) (c : Nat) (x : Ctx) : (s.setCtx c x).programs = s.programs := rfl
@[simp] theorem State.setCtx_coreFree (s : State) (c : Nat) (x : Ctx) : (s.setCtx c x).coreFree = s.coreFree := rfl
@[simp] theorem State.setCtx_phaseSince (s : State) (c : Nat) (x : Ctx) : (s.setCtx c x).phaseSince = s.phaseSince := rfl
@[simp] theorem State.setCtx_phaseNs (s : State) (c : Nat) (x : Ctx) : (s.setCtx c x).phaseNs = s.phaseNs := rfl
@[simp] theorem State.setCtx_draws (s : State) (c : Nat) (x : Ctx) : (s.setCtx c x).draws = s.draws := rfl
@[simp] theorem State.setCtx_units (s : State) (c : Nat) (x : Ctx) : (s.setCtx c x).units = s.units := rfl
@[simp] theorem State.setCtx_bankMap (s : State) (c : Nat) (x : Ctx) : (s.setCtx c x).bankMap = s.bankMap := rfl
@[simp] theorem State.setCtx_badBanks (s : State) (c : Nat) (x : Ctx) : (s.setCtx c x).badBanks = s.badBanks := rfl
@[simp] theorem State.setCtx_selfDue (s : State) (c : Nat) (x : Ctx) : (s.setCtx c x).selfDue = s.selfDue := rfl
@[simp] theorem State.setCtx_recordDue (s : State) (c : Nat) (x : Ctx) : (s.setCtx c x).recordDue = s.recordDue := rfl
@[simp] theorem State.setCtx_slots (s : State) (c : Nat) (x : Ctx) : (s.setCtx c x).slots = s.slots := rfl
@[simp] theorem State.setCtx_switches (s : State) (c : Nat) (x : Ctx) : (s.setCtx c x).switches = s.switches := rfl
@[simp] theorem State.setCtx_windowTurn (s : State) (c : Nat) (x : Ctx) : (s.setCtx c x).windowTurn = s.windowTurn := rfl
@[simp] theorem State.setCtx_recheck (s : State) (c : Nat) (x : Ctx) : (s.setCtx c x).recheck = s.recheck := rfl
@[simp] theorem State.setCtx_recheckAt (s : State) (c : Nat) (x : Ctx) : (s.setCtx c x).recheckAt = s.recheckAt := rfl
@[simp] theorem State.setCtx_mgmt (s : State) (c : Nat) (x : Ctx) : (s.setCtx c x).mgmt = s.mgmt := rfl
@[simp] theorem State.setCtx_power (s : State) (c : Nat) (x : Ctx) : (s.setCtx c x).power = s.power := rfl
@[simp] theorem State.setCtx_sec (s : State) (c : Nat) (x : Ctx) : (s.setCtx c x).sec = s.sec := rfl
@[simp] theorem State.setCtx_clkMoved (s : State) (c : Nat) (x : Ctx) : (s.setCtx c x).clkMoved = s.clkMoved := rfl
@[simp] theorem State.setCtx_clkBring (s : State) (c : Nat) (x : Ctx) : (s.setCtx c x).clkBring = s.clkBring := rfl
@[simp] theorem State.setCtx_badSince (s : State) (c : Nat) (x : Ctx) : (s.setCtx c x).badSince = s.badSince := rfl
@[simp] theorem State.setCtx_tableWaits (s : State) (c : Nat) (x : Ctx) : (s.setCtx c x).tableWaits = s.tableWaits := rfl
@[simp] theorem State.setCtx_cacheSet (s : State) (c : Nat) (x : Ctx) : (s.setCtx c x).cacheSet = s.cacheSet := rfl
@[simp] theorem State.setCtx_ringLanded (s : State) (c : Nat) (x : Ctx) : (s.setCtx c x).ringLanded = s.ringLanded := rfl
@[simp] theorem State.setCtx_selfNow (s : State) (c : Nat) (x : Ctx) : (s.setCtx c x).selfNow = s.selfNow := rfl
@[simp] theorem State.setCtx_rd (s : State) (c : Nat) (x : Ctx) (g : Fld) : (s.setCtx c x).rd g = s.rd g := rfl

/-! setLink. -/

@[simp] theorem State.setLink_now (s : State) (l : Nat) (x : Link) : (s.setLink l x).now = s.now := rfl
@[simp] theorem State.setLink_freeCtr (s : State) (l : Nat) (x : Link) : (s.setLink l x).freeCtr = s.freeCtr := rfl
@[simp] theorem State.setLink_regs (s : State) (l : Nat) (x : Link) : (s.setLink l x).regs = s.regs := rfl
@[simp] theorem State.setLink_mem (s : State) (l : Nat) (x : Link) : (s.setLink l x).mem = s.mem := rfl
@[simp] theorem State.setLink_out (s : State) (l : Nat) (x : Link) : (s.setLink l x).out = s.out := rfl
@[simp] theorem State.setLink_pending (s : State) (l : Nat) (x : Link) : (s.setLink l x).pending = s.pending := rfl
@[simp] theorem State.setLink_score (s : State) (l : Nat) (x : Link) : (s.setLink l x).score = s.score := rfl
@[simp] theorem State.setLink_ports (s : State) (l : Nat) (x : Link) : (s.setLink l x).ports = s.ports := rfl
@[simp] theorem State.setLink_chans (s : State) (l : Nat) (x : Link) : (s.setLink l x).chans = s.chans := rfl
@[simp] theorem State.setLink_cmds (s : State) (l : Nat) (x : Link) : (s.setLink l x).cmds = s.cmds := rfl
@[simp] theorem State.setLink_nextCmd (s : State) (l : Nat) (x : Link) : (s.setLink l x).nextCmd = s.nextCmd := rfl
@[simp] theorem State.setLink_doneCtr (s : State) (l : Nat) (x : Link) : (s.setLink l x).doneCtr = s.doneCtr := rfl
@[simp] theorem State.setLink_grants (s : State) (l : Nat) (x : Link) : (s.setLink l x).grants = s.grants := rfl
@[simp] theorem State.setLink_hold (s : State) (l : Nat) (x : Link) : (s.setLink l x).hold = s.hold := rfl
@[simp] theorem State.setLink_late (s : State) (l : Nat) (x : Link) : (s.setLink l x).late = s.late := rfl
@[simp] theorem State.setLink_ctxs (s : State) (l : Nat) (x : Link) : (s.setLink l x).ctxs = s.ctxs := rfl
@[simp] theorem State.setLink_allocs (s : State) (l : Nat) (x : Link) : (s.setLink l x).allocs = s.allocs := rfl
@[simp] theorem State.setLink_ranges (s : State) (l : Nat) (x : Link) : (s.setLink l x).ranges = s.ranges := rfl
@[simp] theorem State.setLink_windows (s : State) (l : Nat) (x : Link) : (s.setLink l x).windows = s.windows := rfl
@[simp] theorem State.setLink_moves (s : State) (l : Nat) (x : Link) : (s.setLink l x).moves = s.moves := rfl
@[simp] theorem State.setLink_nextMove (s : State) (l : Nat) (x : Link) : (s.setLink l x).nextMove = s.nextMove := rfl
@[simp] theorem State.setLink_wants (s : State) (l : Nat) (x : Link) : (s.setLink l x).wants = s.wants := rfl
@[simp] theorem State.setLink_fwds (s : State) (l : Nat) (x : Link) : (s.setLink l x).fwds = s.fwds := rfl
@[simp] theorem State.setLink_remaps (s : State) (l : Nat) (x : Link) : (s.setLink l x).remaps = s.remaps := rfl
@[simp] theorem State.setLink_tlbs (s : State) (l : Nat) (x : Link) : (s.setLink l x).tlbs = s.tlbs := rfl
@[simp] theorem State.setLink_faults (s : State) (l : Nat) (x : Link) : (s.setLink l x).faults = s.faults := rfl
@[simp] theorem State.setLink_nextFault (s : State) (l : Nat) (x : Link) : (s.setLink l x).nextFault = s.nextFault := rfl
@[simp] theorem State.setLink_descs (s : State) (l : Nat) (x : Link) : (s.setLink l x).descs = s.descs := rfl
@[simp] theorem State.setLink_nextDesc (s : State) (l : Nat) (x : Link) : (s.setLink l x).nextDesc = s.nextDesc := rfl
@[simp] theorem State.setLink_topo (s : State) (l : Nat) (x : Link) : (s.setLink l x).topo = s.topo := rfl
@[simp] theorem State.setLink_tiles (s : State) (l : Nat) (x : Link) : (s.setLink l x).tiles = s.tiles := rfl
@[simp] theorem State.setLink_nextTile (s : State) (l : Nat) (x : Link) : (s.setLink l x).nextTile = s.nextTile := rfl
@[simp] theorem State.setLink_arming (s : State) (l : Nat) (x : Link) : (s.setLink l x).arming = s.arming := rfl
@[simp] theorem State.setLink_injects (s : State) (l : Nat) (x : Link) : (s.setLink l x).injects = s.injects := rfl
@[simp] theorem State.setLink_routers (s : State) (l : Nat) (x : Link) : (s.setLink l x).routers = s.routers := rfl
@[simp] theorem State.setLink_areas (s : State) (l : Nat) (x : Link) : (s.setLink l x).areas = s.areas := rfl
@[simp] theorem State.setLink_decided (s : State) (l : Nat) (x : Link) : (s.setLink l x).decided = s.decided := rfl
@[simp] theorem State.setLink_stepSlots (s : State) (l : Nat) (x : Link) : (s.setLink l x).stepSlots = s.stepSlots := rfl
@[simp] theorem State.setLink_hands (s : State) (l : Nat) (x : Link) : (s.setLink l x).hands = s.hands := rfl
@[simp] theorem State.setLink_kitty (s : State) (l : Nat) (x : Link) : (s.setLink l x).kitty = s.kitty := rfl
@[simp] theorem State.setLink_steps (s : State) (l : Nat) (x : Link) : (s.setLink l x).steps = s.steps := rfl
@[simp] theorem State.setLink_entries (s : State) (l : Nat) (x : Link) : (s.setLink l x).entries = s.entries := rfl
@[simp] theorem State.setLink_treeNodes (s : State) (l : Nat) (x : Link) : (s.setLink l x).treeNodes = s.treeNodes := rfl
@[simp] theorem State.setLink_variants (s : State) (l : Nat) (x : Link) : (s.setLink l x).variants = s.variants := rfl
@[simp] theorem State.setLink_dealing (s : State) (l : Nat) (x : Link) : (s.setLink l x).dealing = s.dealing := rfl
@[simp] theorem State.setLink_accounts (s : State) (l : Nat) (x : Link) : (s.setLink l x).accounts = s.accounts := rfl
@[simp] theorem State.setLink_launches (s : State) (l : Nat) (x : Link) : (s.setLink l x).launches = s.launches := rfl
@[simp] theorem State.setLink_nextLaunch (s : State) (l : Nat) (x : Link) : (s.setLink l x).nextLaunch = s.nextLaunch := rfl
@[simp] theorem State.setLink_rings (s : State) (l : Nat) (x : Link) : (s.setLink l x).rings = s.rings := rfl
@[simp] theorem State.setLink_programs (s : State) (l : Nat) (x : Link) : (s.setLink l x).programs = s.programs := rfl
@[simp] theorem State.setLink_coreFree (s : State) (l : Nat) (x : Link) : (s.setLink l x).coreFree = s.coreFree := rfl
@[simp] theorem State.setLink_phaseSince (s : State) (l : Nat) (x : Link) : (s.setLink l x).phaseSince = s.phaseSince := rfl
@[simp] theorem State.setLink_phaseNs (s : State) (l : Nat) (x : Link) : (s.setLink l x).phaseNs = s.phaseNs := rfl
@[simp] theorem State.setLink_draws (s : State) (l : Nat) (x : Link) : (s.setLink l x).draws = s.draws := rfl
@[simp] theorem State.setLink_units (s : State) (l : Nat) (x : Link) : (s.setLink l x).units = s.units := rfl
@[simp] theorem State.setLink_bankMap (s : State) (l : Nat) (x : Link) : (s.setLink l x).bankMap = s.bankMap := rfl
@[simp] theorem State.setLink_badBanks (s : State) (l : Nat) (x : Link) : (s.setLink l x).badBanks = s.badBanks := rfl
@[simp] theorem State.setLink_selfDue (s : State) (l : Nat) (x : Link) : (s.setLink l x).selfDue = s.selfDue := rfl
@[simp] theorem State.setLink_recordDue (s : State) (l : Nat) (x : Link) : (s.setLink l x).recordDue = s.recordDue := rfl
@[simp] theorem State.setLink_slots (s : State) (l : Nat) (x : Link) : (s.setLink l x).slots = s.slots := rfl
@[simp] theorem State.setLink_switches (s : State) (l : Nat) (x : Link) : (s.setLink l x).switches = s.switches := rfl
@[simp] theorem State.setLink_windowTurn (s : State) (l : Nat) (x : Link) : (s.setLink l x).windowTurn = s.windowTurn := rfl
@[simp] theorem State.setLink_recheck (s : State) (l : Nat) (x : Link) : (s.setLink l x).recheck = s.recheck := rfl
@[simp] theorem State.setLink_recheckAt (s : State) (l : Nat) (x : Link) : (s.setLink l x).recheckAt = s.recheckAt := rfl
@[simp] theorem State.setLink_mgmt (s : State) (l : Nat) (x : Link) : (s.setLink l x).mgmt = s.mgmt := rfl
@[simp] theorem State.setLink_power (s : State) (l : Nat) (x : Link) : (s.setLink l x).power = s.power := rfl
@[simp] theorem State.setLink_sec (s : State) (l : Nat) (x : Link) : (s.setLink l x).sec = s.sec := rfl
@[simp] theorem State.setLink_clkMoved (s : State) (l : Nat) (x : Link) : (s.setLink l x).clkMoved = s.clkMoved := rfl
@[simp] theorem State.setLink_clkBring (s : State) (l : Nat) (x : Link) : (s.setLink l x).clkBring = s.clkBring := rfl
@[simp] theorem State.setLink_badSince (s : State) (l : Nat) (x : Link) : (s.setLink l x).badSince = s.badSince := rfl
@[simp] theorem State.setLink_tableWaits (s : State) (l : Nat) (x : Link) : (s.setLink l x).tableWaits = s.tableWaits := rfl
@[simp] theorem State.setLink_cacheSet (s : State) (l : Nat) (x : Link) : (s.setLink l x).cacheSet = s.cacheSet := rfl
@[simp] theorem State.setLink_ringLanded (s : State) (l : Nat) (x : Link) : (s.setLink l x).ringLanded = s.ringLanded := rfl
@[simp] theorem State.setLink_selfNow (s : State) (l : Nat) (x : Link) : (s.setLink l x).selfNow = s.selfNow := rfl
@[simp] theorem State.setLink_rd (s : State) (l : Nat) (x : Link) (g : Fld) : (s.setLink l x).rd g = s.rd g := rfl

/-! emit. -/

@[simp] theorem State.emit_now (s : State) (o : Output) : (s.emit o).now = s.now := rfl
@[simp] theorem State.emit_freeCtr (s : State) (o : Output) : (s.emit o).freeCtr = s.freeCtr := rfl
@[simp] theorem State.emit_regs (s : State) (o : Output) : (s.emit o).regs = s.regs := rfl
@[simp] theorem State.emit_mem (s : State) (o : Output) : (s.emit o).mem = s.mem := rfl
@[simp] theorem State.emit_pending (s : State) (o : Output) : (s.emit o).pending = s.pending := rfl
@[simp] theorem State.emit_score (s : State) (o : Output) : (s.emit o).score = s.score := rfl
@[simp] theorem State.emit_ports (s : State) (o : Output) : (s.emit o).ports = s.ports := rfl
@[simp] theorem State.emit_chans (s : State) (o : Output) : (s.emit o).chans = s.chans := rfl
@[simp] theorem State.emit_cmds (s : State) (o : Output) : (s.emit o).cmds = s.cmds := rfl
@[simp] theorem State.emit_nextCmd (s : State) (o : Output) : (s.emit o).nextCmd = s.nextCmd := rfl
@[simp] theorem State.emit_doneCtr (s : State) (o : Output) : (s.emit o).doneCtr = s.doneCtr := rfl
@[simp] theorem State.emit_grants (s : State) (o : Output) : (s.emit o).grants = s.grants := rfl
@[simp] theorem State.emit_hold (s : State) (o : Output) : (s.emit o).hold = s.hold := rfl
@[simp] theorem State.emit_late (s : State) (o : Output) : (s.emit o).late = s.late := rfl
@[simp] theorem State.emit_ctxs (s : State) (o : Output) : (s.emit o).ctxs = s.ctxs := rfl
@[simp] theorem State.emit_allocs (s : State) (o : Output) : (s.emit o).allocs = s.allocs := rfl
@[simp] theorem State.emit_ranges (s : State) (o : Output) : (s.emit o).ranges = s.ranges := rfl
@[simp] theorem State.emit_windows (s : State) (o : Output) : (s.emit o).windows = s.windows := rfl
@[simp] theorem State.emit_moves (s : State) (o : Output) : (s.emit o).moves = s.moves := rfl
@[simp] theorem State.emit_nextMove (s : State) (o : Output) : (s.emit o).nextMove = s.nextMove := rfl
@[simp] theorem State.emit_wants (s : State) (o : Output) : (s.emit o).wants = s.wants := rfl
@[simp] theorem State.emit_fwds (s : State) (o : Output) : (s.emit o).fwds = s.fwds := rfl
@[simp] theorem State.emit_remaps (s : State) (o : Output) : (s.emit o).remaps = s.remaps := rfl
@[simp] theorem State.emit_tlbs (s : State) (o : Output) : (s.emit o).tlbs = s.tlbs := rfl
@[simp] theorem State.emit_faults (s : State) (o : Output) : (s.emit o).faults = s.faults := rfl
@[simp] theorem State.emit_nextFault (s : State) (o : Output) : (s.emit o).nextFault = s.nextFault := rfl
@[simp] theorem State.emit_descs (s : State) (o : Output) : (s.emit o).descs = s.descs := rfl
@[simp] theorem State.emit_nextDesc (s : State) (o : Output) : (s.emit o).nextDesc = s.nextDesc := rfl
@[simp] theorem State.emit_fabric (s : State) (o : Output) : (s.emit o).fabric = s.fabric := rfl
@[simp] theorem State.emit_topo (s : State) (o : Output) : (s.emit o).topo = s.topo := rfl
@[simp] theorem State.emit_tiles (s : State) (o : Output) : (s.emit o).tiles = s.tiles := rfl
@[simp] theorem State.emit_nextTile (s : State) (o : Output) : (s.emit o).nextTile = s.nextTile := rfl
@[simp] theorem State.emit_arming (s : State) (o : Output) : (s.emit o).arming = s.arming := rfl
@[simp] theorem State.emit_injects (s : State) (o : Output) : (s.emit o).injects = s.injects := rfl
@[simp] theorem State.emit_routers (s : State) (o : Output) : (s.emit o).routers = s.routers := rfl
@[simp] theorem State.emit_areas (s : State) (o : Output) : (s.emit o).areas = s.areas := rfl
@[simp] theorem State.emit_decided (s : State) (o : Output) : (s.emit o).decided = s.decided := rfl
@[simp] theorem State.emit_stepSlots (s : State) (o : Output) : (s.emit o).stepSlots = s.stepSlots := rfl
@[simp] theorem State.emit_hands (s : State) (o : Output) : (s.emit o).hands = s.hands := rfl
@[simp] theorem State.emit_kitty (s : State) (o : Output) : (s.emit o).kitty = s.kitty := rfl
@[simp] theorem State.emit_steps (s : State) (o : Output) : (s.emit o).steps = s.steps := rfl
@[simp] theorem State.emit_entries (s : State) (o : Output) : (s.emit o).entries = s.entries := rfl
@[simp] theorem State.emit_treeNodes (s : State) (o : Output) : (s.emit o).treeNodes = s.treeNodes := rfl
@[simp] theorem State.emit_variants (s : State) (o : Output) : (s.emit o).variants = s.variants := rfl
@[simp] theorem State.emit_dealing (s : State) (o : Output) : (s.emit o).dealing = s.dealing := rfl
@[simp] theorem State.emit_accounts (s : State) (o : Output) : (s.emit o).accounts = s.accounts := rfl
@[simp] theorem State.emit_launches (s : State) (o : Output) : (s.emit o).launches = s.launches := rfl
@[simp] theorem State.emit_nextLaunch (s : State) (o : Output) : (s.emit o).nextLaunch = s.nextLaunch := rfl
@[simp] theorem State.emit_rings (s : State) (o : Output) : (s.emit o).rings = s.rings := rfl
@[simp] theorem State.emit_programs (s : State) (o : Output) : (s.emit o).programs = s.programs := rfl
@[simp] theorem State.emit_coreFree (s : State) (o : Output) : (s.emit o).coreFree = s.coreFree := rfl
@[simp] theorem State.emit_phaseSince (s : State) (o : Output) : (s.emit o).phaseSince = s.phaseSince := rfl
@[simp] theorem State.emit_phaseNs (s : State) (o : Output) : (s.emit o).phaseNs = s.phaseNs := rfl
@[simp] theorem State.emit_draws (s : State) (o : Output) : (s.emit o).draws = s.draws := rfl
@[simp] theorem State.emit_units (s : State) (o : Output) : (s.emit o).units = s.units := rfl
@[simp] theorem State.emit_bankMap (s : State) (o : Output) : (s.emit o).bankMap = s.bankMap := rfl
@[simp] theorem State.emit_badBanks (s : State) (o : Output) : (s.emit o).badBanks = s.badBanks := rfl
@[simp] theorem State.emit_selfDue (s : State) (o : Output) : (s.emit o).selfDue = s.selfDue := rfl
@[simp] theorem State.emit_recordDue (s : State) (o : Output) : (s.emit o).recordDue = s.recordDue := rfl
@[simp] theorem State.emit_slots (s : State) (o : Output) : (s.emit o).slots = s.slots := rfl
@[simp] theorem State.emit_switches (s : State) (o : Output) : (s.emit o).switches = s.switches := rfl
@[simp] theorem State.emit_windowTurn (s : State) (o : Output) : (s.emit o).windowTurn = s.windowTurn := rfl
@[simp] theorem State.emit_recheck (s : State) (o : Output) : (s.emit o).recheck = s.recheck := rfl
@[simp] theorem State.emit_recheckAt (s : State) (o : Output) : (s.emit o).recheckAt = s.recheckAt := rfl
@[simp] theorem State.emit_mgmt (s : State) (o : Output) : (s.emit o).mgmt = s.mgmt := rfl
@[simp] theorem State.emit_power (s : State) (o : Output) : (s.emit o).power = s.power := rfl
@[simp] theorem State.emit_sec (s : State) (o : Output) : (s.emit o).sec = s.sec := rfl
@[simp] theorem State.emit_clkMoved (s : State) (o : Output) : (s.emit o).clkMoved = s.clkMoved := rfl
@[simp] theorem State.emit_clkBring (s : State) (o : Output) : (s.emit o).clkBring = s.clkBring := rfl
@[simp] theorem State.emit_badSince (s : State) (o : Output) : (s.emit o).badSince = s.badSince := rfl
@[simp] theorem State.emit_tableWaits (s : State) (o : Output) : (s.emit o).tableWaits = s.tableWaits := rfl
@[simp] theorem State.emit_cacheSet (s : State) (o : Output) : (s.emit o).cacheSet = s.cacheSet := rfl
@[simp] theorem State.emit_ringLanded (s : State) (o : Output) : (s.emit o).ringLanded = s.ringLanded := rfl
@[simp] theorem State.emit_selfNow (s : State) (o : Output) : (s.emit o).selfNow = s.selfNow := rfl
@[simp] theorem State.emit_rd (s : State) (o : Output) (g : Fld) : (s.emit o).rd g = s.rd g := rfl

/-! recordTick. -/

@[simp] theorem State.recordTick_now (s : State) (code inst a0 a1 : Nat) : (s.recordTick code inst a0 a1).now = s.now := rfl
@[simp] theorem State.recordTick_freeCtr (s : State) (code inst a0 a1 : Nat) : (s.recordTick code inst a0 a1).freeCtr = s.freeCtr := rfl
@[simp] theorem State.recordTick_regs (s : State) (code inst a0 a1 : Nat) : (s.recordTick code inst a0 a1).regs = s.regs := rfl
@[simp] theorem State.recordTick_mem (s : State) (code inst a0 a1 : Nat) : (s.recordTick code inst a0 a1).mem = s.mem := rfl
@[simp] theorem State.recordTick_out (s : State) (code inst a0 a1 : Nat) : (s.recordTick code inst a0 a1).out = s.out := rfl
@[simp] theorem State.recordTick_pending (s : State) (code inst a0 a1 : Nat) : (s.recordTick code inst a0 a1).pending = s.pending := rfl
@[simp] theorem State.recordTick_ports (s : State) (code inst a0 a1 : Nat) : (s.recordTick code inst a0 a1).ports = s.ports := rfl
@[simp] theorem State.recordTick_chans (s : State) (code inst a0 a1 : Nat) : (s.recordTick code inst a0 a1).chans = s.chans := rfl
@[simp] theorem State.recordTick_cmds (s : State) (code inst a0 a1 : Nat) : (s.recordTick code inst a0 a1).cmds = s.cmds := rfl
@[simp] theorem State.recordTick_nextCmd (s : State) (code inst a0 a1 : Nat) : (s.recordTick code inst a0 a1).nextCmd = s.nextCmd := rfl
@[simp] theorem State.recordTick_doneCtr (s : State) (code inst a0 a1 : Nat) : (s.recordTick code inst a0 a1).doneCtr = s.doneCtr := rfl
@[simp] theorem State.recordTick_grants (s : State) (code inst a0 a1 : Nat) : (s.recordTick code inst a0 a1).grants = s.grants := rfl
@[simp] theorem State.recordTick_hold (s : State) (code inst a0 a1 : Nat) : (s.recordTick code inst a0 a1).hold = s.hold := rfl
@[simp] theorem State.recordTick_late (s : State) (code inst a0 a1 : Nat) : (s.recordTick code inst a0 a1).late = s.late := rfl
@[simp] theorem State.recordTick_ctxs (s : State) (code inst a0 a1 : Nat) : (s.recordTick code inst a0 a1).ctxs = s.ctxs := rfl
@[simp] theorem State.recordTick_allocs (s : State) (code inst a0 a1 : Nat) : (s.recordTick code inst a0 a1).allocs = s.allocs := rfl
@[simp] theorem State.recordTick_ranges (s : State) (code inst a0 a1 : Nat) : (s.recordTick code inst a0 a1).ranges = s.ranges := rfl
@[simp] theorem State.recordTick_windows (s : State) (code inst a0 a1 : Nat) : (s.recordTick code inst a0 a1).windows = s.windows := rfl
@[simp] theorem State.recordTick_moves (s : State) (code inst a0 a1 : Nat) : (s.recordTick code inst a0 a1).moves = s.moves := rfl
@[simp] theorem State.recordTick_nextMove (s : State) (code inst a0 a1 : Nat) : (s.recordTick code inst a0 a1).nextMove = s.nextMove := rfl
@[simp] theorem State.recordTick_wants (s : State) (code inst a0 a1 : Nat) : (s.recordTick code inst a0 a1).wants = s.wants := rfl
@[simp] theorem State.recordTick_fwds (s : State) (code inst a0 a1 : Nat) : (s.recordTick code inst a0 a1).fwds = s.fwds := rfl
@[simp] theorem State.recordTick_remaps (s : State) (code inst a0 a1 : Nat) : (s.recordTick code inst a0 a1).remaps = s.remaps := rfl
@[simp] theorem State.recordTick_tlbs (s : State) (code inst a0 a1 : Nat) : (s.recordTick code inst a0 a1).tlbs = s.tlbs := rfl
@[simp] theorem State.recordTick_faults (s : State) (code inst a0 a1 : Nat) : (s.recordTick code inst a0 a1).faults = s.faults := rfl
@[simp] theorem State.recordTick_nextFault (s : State) (code inst a0 a1 : Nat) : (s.recordTick code inst a0 a1).nextFault = s.nextFault := rfl
@[simp] theorem State.recordTick_descs (s : State) (code inst a0 a1 : Nat) : (s.recordTick code inst a0 a1).descs = s.descs := rfl
@[simp] theorem State.recordTick_nextDesc (s : State) (code inst a0 a1 : Nat) : (s.recordTick code inst a0 a1).nextDesc = s.nextDesc := rfl
@[simp] theorem State.recordTick_fabric (s : State) (code inst a0 a1 : Nat) : (s.recordTick code inst a0 a1).fabric = s.fabric := rfl
@[simp] theorem State.recordTick_topo (s : State) (code inst a0 a1 : Nat) : (s.recordTick code inst a0 a1).topo = s.topo := rfl
@[simp] theorem State.recordTick_tiles (s : State) (code inst a0 a1 : Nat) : (s.recordTick code inst a0 a1).tiles = s.tiles := rfl
@[simp] theorem State.recordTick_nextTile (s : State) (code inst a0 a1 : Nat) : (s.recordTick code inst a0 a1).nextTile = s.nextTile := rfl
@[simp] theorem State.recordTick_arming (s : State) (code inst a0 a1 : Nat) : (s.recordTick code inst a0 a1).arming = s.arming := rfl
@[simp] theorem State.recordTick_injects (s : State) (code inst a0 a1 : Nat) : (s.recordTick code inst a0 a1).injects = s.injects := rfl
@[simp] theorem State.recordTick_routers (s : State) (code inst a0 a1 : Nat) : (s.recordTick code inst a0 a1).routers = s.routers := rfl
@[simp] theorem State.recordTick_areas (s : State) (code inst a0 a1 : Nat) : (s.recordTick code inst a0 a1).areas = s.areas := rfl
@[simp] theorem State.recordTick_decided (s : State) (code inst a0 a1 : Nat) : (s.recordTick code inst a0 a1).decided = s.decided := rfl
@[simp] theorem State.recordTick_stepSlots (s : State) (code inst a0 a1 : Nat) : (s.recordTick code inst a0 a1).stepSlots = s.stepSlots := rfl
@[simp] theorem State.recordTick_hands (s : State) (code inst a0 a1 : Nat) : (s.recordTick code inst a0 a1).hands = s.hands := rfl
@[simp] theorem State.recordTick_kitty (s : State) (code inst a0 a1 : Nat) : (s.recordTick code inst a0 a1).kitty = s.kitty := rfl
@[simp] theorem State.recordTick_steps (s : State) (code inst a0 a1 : Nat) : (s.recordTick code inst a0 a1).steps = s.steps := rfl
@[simp] theorem State.recordTick_entries (s : State) (code inst a0 a1 : Nat) : (s.recordTick code inst a0 a1).entries = s.entries := rfl
@[simp] theorem State.recordTick_treeNodes (s : State) (code inst a0 a1 : Nat) : (s.recordTick code inst a0 a1).treeNodes = s.treeNodes := rfl
@[simp] theorem State.recordTick_variants (s : State) (code inst a0 a1 : Nat) : (s.recordTick code inst a0 a1).variants = s.variants := rfl
@[simp] theorem State.recordTick_dealing (s : State) (code inst a0 a1 : Nat) : (s.recordTick code inst a0 a1).dealing = s.dealing := rfl
@[simp] theorem State.recordTick_accounts (s : State) (code inst a0 a1 : Nat) : (s.recordTick code inst a0 a1).accounts = s.accounts := rfl
@[simp] theorem State.recordTick_launches (s : State) (code inst a0 a1 : Nat) : (s.recordTick code inst a0 a1).launches = s.launches := rfl
@[simp] theorem State.recordTick_nextLaunch (s : State) (code inst a0 a1 : Nat) : (s.recordTick code inst a0 a1).nextLaunch = s.nextLaunch := rfl
@[simp] theorem State.recordTick_rings (s : State) (code inst a0 a1 : Nat) : (s.recordTick code inst a0 a1).rings = s.rings := rfl
@[simp] theorem State.recordTick_programs (s : State) (code inst a0 a1 : Nat) : (s.recordTick code inst a0 a1).programs = s.programs := rfl
@[simp] theorem State.recordTick_coreFree (s : State) (code inst a0 a1 : Nat) : (s.recordTick code inst a0 a1).coreFree = s.coreFree := rfl
@[simp] theorem State.recordTick_phaseSince (s : State) (code inst a0 a1 : Nat) : (s.recordTick code inst a0 a1).phaseSince = s.phaseSince := rfl
@[simp] theorem State.recordTick_phaseNs (s : State) (code inst a0 a1 : Nat) : (s.recordTick code inst a0 a1).phaseNs = s.phaseNs := rfl
@[simp] theorem State.recordTick_draws (s : State) (code inst a0 a1 : Nat) : (s.recordTick code inst a0 a1).draws = s.draws := rfl
@[simp] theorem State.recordTick_units (s : State) (code inst a0 a1 : Nat) : (s.recordTick code inst a0 a1).units = s.units := rfl
@[simp] theorem State.recordTick_bankMap (s : State) (code inst a0 a1 : Nat) : (s.recordTick code inst a0 a1).bankMap = s.bankMap := rfl
@[simp] theorem State.recordTick_badBanks (s : State) (code inst a0 a1 : Nat) : (s.recordTick code inst a0 a1).badBanks = s.badBanks := rfl
@[simp] theorem State.recordTick_selfDue (s : State) (code inst a0 a1 : Nat) : (s.recordTick code inst a0 a1).selfDue = s.selfDue := rfl
@[simp] theorem State.recordTick_recordDue (s : State) (code inst a0 a1 : Nat) : (s.recordTick code inst a0 a1).recordDue = s.recordDue := rfl
@[simp] theorem State.recordTick_slots (s : State) (code inst a0 a1 : Nat) : (s.recordTick code inst a0 a1).slots = s.slots := rfl
@[simp] theorem State.recordTick_switches (s : State) (code inst a0 a1 : Nat) : (s.recordTick code inst a0 a1).switches = s.switches := rfl
@[simp] theorem State.recordTick_windowTurn (s : State) (code inst a0 a1 : Nat) : (s.recordTick code inst a0 a1).windowTurn = s.windowTurn := rfl
@[simp] theorem State.recordTick_recheck (s : State) (code inst a0 a1 : Nat) : (s.recordTick code inst a0 a1).recheck = s.recheck := rfl
@[simp] theorem State.recordTick_recheckAt (s : State) (code inst a0 a1 : Nat) : (s.recordTick code inst a0 a1).recheckAt = s.recheckAt := rfl
@[simp] theorem State.recordTick_mgmt (s : State) (code inst a0 a1 : Nat) : (s.recordTick code inst a0 a1).mgmt = s.mgmt := rfl
@[simp] theorem State.recordTick_power (s : State) (code inst a0 a1 : Nat) : (s.recordTick code inst a0 a1).power = s.power := rfl
@[simp] theorem State.recordTick_sec (s : State) (code inst a0 a1 : Nat) : (s.recordTick code inst a0 a1).sec = s.sec := rfl
@[simp] theorem State.recordTick_clkMoved (s : State) (code inst a0 a1 : Nat) : (s.recordTick code inst a0 a1).clkMoved = s.clkMoved := rfl
@[simp] theorem State.recordTick_clkBring (s : State) (code inst a0 a1 : Nat) : (s.recordTick code inst a0 a1).clkBring = s.clkBring := rfl
@[simp] theorem State.recordTick_badSince (s : State) (code inst a0 a1 : Nat) : (s.recordTick code inst a0 a1).badSince = s.badSince := rfl
@[simp] theorem State.recordTick_tableWaits (s : State) (code inst a0 a1 : Nat) : (s.recordTick code inst a0 a1).tableWaits = s.tableWaits := rfl
@[simp] theorem State.recordTick_cacheSet (s : State) (code inst a0 a1 : Nat) : (s.recordTick code inst a0 a1).cacheSet = s.cacheSet := rfl
@[simp] theorem State.recordTick_ringLanded (s : State) (code inst a0 a1 : Nat) : (s.recordTick code inst a0 a1).ringLanded = s.ringLanded := rfl
@[simp] theorem State.recordTick_selfNow (s : State) (code inst a0 a1 : Nat) : (s.recordTick code inst a0 a1).selfNow = s.selfNow := rfl
@[simp] theorem State.recordTick_rd (s : State) (code inst a0 a1 : Nat) (g : Fld) : (s.recordTick code inst a0 a1).rd g = s.rd g := rfl

/-! cmdMap. -/

@[simp] theorem State.cmdMap_now (s : State) (k : Nat) (f : Cmd → Cmd) : (s.cmdMap k f).now = s.now := rfl
@[simp] theorem State.cmdMap_freeCtr (s : State) (k : Nat) (f : Cmd → Cmd) : (s.cmdMap k f).freeCtr = s.freeCtr := rfl
@[simp] theorem State.cmdMap_regs (s : State) (k : Nat) (f : Cmd → Cmd) : (s.cmdMap k f).regs = s.regs := rfl
@[simp] theorem State.cmdMap_mem (s : State) (k : Nat) (f : Cmd → Cmd) : (s.cmdMap k f).mem = s.mem := rfl
@[simp] theorem State.cmdMap_out (s : State) (k : Nat) (f : Cmd → Cmd) : (s.cmdMap k f).out = s.out := rfl
@[simp] theorem State.cmdMap_pending (s : State) (k : Nat) (f : Cmd → Cmd) : (s.cmdMap k f).pending = s.pending := rfl
@[simp] theorem State.cmdMap_score (s : State) (k : Nat) (f : Cmd → Cmd) : (s.cmdMap k f).score = s.score := rfl
@[simp] theorem State.cmdMap_ports (s : State) (k : Nat) (f : Cmd → Cmd) : (s.cmdMap k f).ports = s.ports := rfl
@[simp] theorem State.cmdMap_chans (s : State) (k : Nat) (f : Cmd → Cmd) : (s.cmdMap k f).chans = s.chans := rfl
@[simp] theorem State.cmdMap_nextCmd (s : State) (k : Nat) (f : Cmd → Cmd) : (s.cmdMap k f).nextCmd = s.nextCmd := rfl
@[simp] theorem State.cmdMap_doneCtr (s : State) (k : Nat) (f : Cmd → Cmd) : (s.cmdMap k f).doneCtr = s.doneCtr := rfl
@[simp] theorem State.cmdMap_grants (s : State) (k : Nat) (f : Cmd → Cmd) : (s.cmdMap k f).grants = s.grants := rfl
@[simp] theorem State.cmdMap_hold (s : State) (k : Nat) (f : Cmd → Cmd) : (s.cmdMap k f).hold = s.hold := rfl
@[simp] theorem State.cmdMap_late (s : State) (k : Nat) (f : Cmd → Cmd) : (s.cmdMap k f).late = s.late := rfl
@[simp] theorem State.cmdMap_ctxs (s : State) (k : Nat) (f : Cmd → Cmd) : (s.cmdMap k f).ctxs = s.ctxs := rfl
@[simp] theorem State.cmdMap_allocs (s : State) (k : Nat) (f : Cmd → Cmd) : (s.cmdMap k f).allocs = s.allocs := rfl
@[simp] theorem State.cmdMap_ranges (s : State) (k : Nat) (f : Cmd → Cmd) : (s.cmdMap k f).ranges = s.ranges := rfl
@[simp] theorem State.cmdMap_windows (s : State) (k : Nat) (f : Cmd → Cmd) : (s.cmdMap k f).windows = s.windows := rfl
@[simp] theorem State.cmdMap_moves (s : State) (k : Nat) (f : Cmd → Cmd) : (s.cmdMap k f).moves = s.moves := rfl
@[simp] theorem State.cmdMap_nextMove (s : State) (k : Nat) (f : Cmd → Cmd) : (s.cmdMap k f).nextMove = s.nextMove := rfl
@[simp] theorem State.cmdMap_wants (s : State) (k : Nat) (f : Cmd → Cmd) : (s.cmdMap k f).wants = s.wants := rfl
@[simp] theorem State.cmdMap_fwds (s : State) (k : Nat) (f : Cmd → Cmd) : (s.cmdMap k f).fwds = s.fwds := rfl
@[simp] theorem State.cmdMap_remaps (s : State) (k : Nat) (f : Cmd → Cmd) : (s.cmdMap k f).remaps = s.remaps := rfl
@[simp] theorem State.cmdMap_tlbs (s : State) (k : Nat) (f : Cmd → Cmd) : (s.cmdMap k f).tlbs = s.tlbs := rfl
@[simp] theorem State.cmdMap_faults (s : State) (k : Nat) (f : Cmd → Cmd) : (s.cmdMap k f).faults = s.faults := rfl
@[simp] theorem State.cmdMap_nextFault (s : State) (k : Nat) (f : Cmd → Cmd) : (s.cmdMap k f).nextFault = s.nextFault := rfl
@[simp] theorem State.cmdMap_descs (s : State) (k : Nat) (f : Cmd → Cmd) : (s.cmdMap k f).descs = s.descs := rfl
@[simp] theorem State.cmdMap_nextDesc (s : State) (k : Nat) (f : Cmd → Cmd) : (s.cmdMap k f).nextDesc = s.nextDesc := rfl
@[simp] theorem State.cmdMap_fabric (s : State) (k : Nat) (f : Cmd → Cmd) : (s.cmdMap k f).fabric = s.fabric := rfl
@[simp] theorem State.cmdMap_topo (s : State) (k : Nat) (f : Cmd → Cmd) : (s.cmdMap k f).topo = s.topo := rfl
@[simp] theorem State.cmdMap_tiles (s : State) (k : Nat) (f : Cmd → Cmd) : (s.cmdMap k f).tiles = s.tiles := rfl
@[simp] theorem State.cmdMap_nextTile (s : State) (k : Nat) (f : Cmd → Cmd) : (s.cmdMap k f).nextTile = s.nextTile := rfl
@[simp] theorem State.cmdMap_arming (s : State) (k : Nat) (f : Cmd → Cmd) : (s.cmdMap k f).arming = s.arming := rfl
@[simp] theorem State.cmdMap_injects (s : State) (k : Nat) (f : Cmd → Cmd) : (s.cmdMap k f).injects = s.injects := rfl
@[simp] theorem State.cmdMap_routers (s : State) (k : Nat) (f : Cmd → Cmd) : (s.cmdMap k f).routers = s.routers := rfl
@[simp] theorem State.cmdMap_areas (s : State) (k : Nat) (f : Cmd → Cmd) : (s.cmdMap k f).areas = s.areas := rfl
@[simp] theorem State.cmdMap_decided (s : State) (k : Nat) (f : Cmd → Cmd) : (s.cmdMap k f).decided = s.decided := rfl
@[simp] theorem State.cmdMap_stepSlots (s : State) (k : Nat) (f : Cmd → Cmd) : (s.cmdMap k f).stepSlots = s.stepSlots := rfl
@[simp] theorem State.cmdMap_hands (s : State) (k : Nat) (f : Cmd → Cmd) : (s.cmdMap k f).hands = s.hands := rfl
@[simp] theorem State.cmdMap_kitty (s : State) (k : Nat) (f : Cmd → Cmd) : (s.cmdMap k f).kitty = s.kitty := rfl
@[simp] theorem State.cmdMap_steps (s : State) (k : Nat) (f : Cmd → Cmd) : (s.cmdMap k f).steps = s.steps := rfl
@[simp] theorem State.cmdMap_entries (s : State) (k : Nat) (f : Cmd → Cmd) : (s.cmdMap k f).entries = s.entries := rfl
@[simp] theorem State.cmdMap_treeNodes (s : State) (k : Nat) (f : Cmd → Cmd) : (s.cmdMap k f).treeNodes = s.treeNodes := rfl
@[simp] theorem State.cmdMap_variants (s : State) (k : Nat) (f : Cmd → Cmd) : (s.cmdMap k f).variants = s.variants := rfl
@[simp] theorem State.cmdMap_dealing (s : State) (k : Nat) (f : Cmd → Cmd) : (s.cmdMap k f).dealing = s.dealing := rfl
@[simp] theorem State.cmdMap_accounts (s : State) (k : Nat) (f : Cmd → Cmd) : (s.cmdMap k f).accounts = s.accounts := rfl
@[simp] theorem State.cmdMap_launches (s : State) (k : Nat) (f : Cmd → Cmd) : (s.cmdMap k f).launches = s.launches := rfl
@[simp] theorem State.cmdMap_nextLaunch (s : State) (k : Nat) (f : Cmd → Cmd) : (s.cmdMap k f).nextLaunch = s.nextLaunch := rfl
@[simp] theorem State.cmdMap_rings (s : State) (k : Nat) (f : Cmd → Cmd) : (s.cmdMap k f).rings = s.rings := rfl
@[simp] theorem State.cmdMap_programs (s : State) (k : Nat) (f : Cmd → Cmd) : (s.cmdMap k f).programs = s.programs := rfl
@[simp] theorem State.cmdMap_coreFree (s : State) (k : Nat) (f : Cmd → Cmd) : (s.cmdMap k f).coreFree = s.coreFree := rfl
@[simp] theorem State.cmdMap_phaseSince (s : State) (k : Nat) (f : Cmd → Cmd) : (s.cmdMap k f).phaseSince = s.phaseSince := rfl
@[simp] theorem State.cmdMap_phaseNs (s : State) (k : Nat) (f : Cmd → Cmd) : (s.cmdMap k f).phaseNs = s.phaseNs := rfl
@[simp] theorem State.cmdMap_draws (s : State) (k : Nat) (f : Cmd → Cmd) : (s.cmdMap k f).draws = s.draws := rfl
@[simp] theorem State.cmdMap_units (s : State) (k : Nat) (f : Cmd → Cmd) : (s.cmdMap k f).units = s.units := rfl
@[simp] theorem State.cmdMap_bankMap (s : State) (k : Nat) (f : Cmd → Cmd) : (s.cmdMap k f).bankMap = s.bankMap := rfl
@[simp] theorem State.cmdMap_badBanks (s : State) (k : Nat) (f : Cmd → Cmd) : (s.cmdMap k f).badBanks = s.badBanks := rfl
@[simp] theorem State.cmdMap_selfDue (s : State) (k : Nat) (f : Cmd → Cmd) : (s.cmdMap k f).selfDue = s.selfDue := rfl
@[simp] theorem State.cmdMap_recordDue (s : State) (k : Nat) (f : Cmd → Cmd) : (s.cmdMap k f).recordDue = s.recordDue := rfl
@[simp] theorem State.cmdMap_slots (s : State) (k : Nat) (f : Cmd → Cmd) : (s.cmdMap k f).slots = s.slots := rfl
@[simp] theorem State.cmdMap_switches (s : State) (k : Nat) (f : Cmd → Cmd) : (s.cmdMap k f).switches = s.switches := rfl
@[simp] theorem State.cmdMap_windowTurn (s : State) (k : Nat) (f : Cmd → Cmd) : (s.cmdMap k f).windowTurn = s.windowTurn := rfl
@[simp] theorem State.cmdMap_recheck (s : State) (k : Nat) (f : Cmd → Cmd) : (s.cmdMap k f).recheck = s.recheck := rfl
@[simp] theorem State.cmdMap_recheckAt (s : State) (k : Nat) (f : Cmd → Cmd) : (s.cmdMap k f).recheckAt = s.recheckAt := rfl
@[simp] theorem State.cmdMap_mgmt (s : State) (k : Nat) (f : Cmd → Cmd) : (s.cmdMap k f).mgmt = s.mgmt := rfl
@[simp] theorem State.cmdMap_power (s : State) (k : Nat) (f : Cmd → Cmd) : (s.cmdMap k f).power = s.power := rfl
@[simp] theorem State.cmdMap_sec (s : State) (k : Nat) (f : Cmd → Cmd) : (s.cmdMap k f).sec = s.sec := rfl
@[simp] theorem State.cmdMap_clkMoved (s : State) (k : Nat) (f : Cmd → Cmd) : (s.cmdMap k f).clkMoved = s.clkMoved := rfl
@[simp] theorem State.cmdMap_clkBring (s : State) (k : Nat) (f : Cmd → Cmd) : (s.cmdMap k f).clkBring = s.clkBring := rfl
@[simp] theorem State.cmdMap_badSince (s : State) (k : Nat) (f : Cmd → Cmd) : (s.cmdMap k f).badSince = s.badSince := rfl
@[simp] theorem State.cmdMap_tableWaits (s : State) (k : Nat) (f : Cmd → Cmd) : (s.cmdMap k f).tableWaits = s.tableWaits := rfl
@[simp] theorem State.cmdMap_cacheSet (s : State) (k : Nat) (f : Cmd → Cmd) : (s.cmdMap k f).cacheSet = s.cacheSet := rfl
@[simp] theorem State.cmdMap_ringLanded (s : State) (k : Nat) (f : Cmd → Cmd) : (s.cmdMap k f).ringLanded = s.ringLanded := rfl
@[simp] theorem State.cmdMap_selfNow (s : State) (k : Nat) (f : Cmd → Cmd) : (s.cmdMap k f).selfNow = s.selfNow := rfl
@[simp] theorem State.cmdMap_rd (s : State) (k : Nat) (f : Cmd → Cmd) (g : Fld) : (s.cmdMap k f).rd g = s.rd g := rfl

/-! start. -/

@[simp] theorem State.start_now (s : State) (k : Nat) (aux : List Nat) : (s.start k aux).now = s.now := rfl
@[simp] theorem State.start_freeCtr (s : State) (k : Nat) (aux : List Nat) : (s.start k aux).freeCtr = s.freeCtr := rfl
@[simp] theorem State.start_regs (s : State) (k : Nat) (aux : List Nat) : (s.start k aux).regs = s.regs := rfl
@[simp] theorem State.start_mem (s : State) (k : Nat) (aux : List Nat) : (s.start k aux).mem = s.mem := rfl
@[simp] theorem State.start_out (s : State) (k : Nat) (aux : List Nat) : (s.start k aux).out = s.out := rfl
@[simp] theorem State.start_pending (s : State) (k : Nat) (aux : List Nat) : (s.start k aux).pending = s.pending := rfl
@[simp] theorem State.start_score (s : State) (k : Nat) (aux : List Nat) : (s.start k aux).score = s.score := rfl
@[simp] theorem State.start_ports (s : State) (k : Nat) (aux : List Nat) : (s.start k aux).ports = s.ports := rfl
@[simp] theorem State.start_chans (s : State) (k : Nat) (aux : List Nat) : (s.start k aux).chans = s.chans := rfl
@[simp] theorem State.start_nextCmd (s : State) (k : Nat) (aux : List Nat) : (s.start k aux).nextCmd = s.nextCmd := rfl
@[simp] theorem State.start_doneCtr (s : State) (k : Nat) (aux : List Nat) : (s.start k aux).doneCtr = s.doneCtr := rfl
@[simp] theorem State.start_grants (s : State) (k : Nat) (aux : List Nat) : (s.start k aux).grants = s.grants := rfl
@[simp] theorem State.start_hold (s : State) (k : Nat) (aux : List Nat) : (s.start k aux).hold = s.hold := rfl
@[simp] theorem State.start_late (s : State) (k : Nat) (aux : List Nat) : (s.start k aux).late = s.late := rfl
@[simp] theorem State.start_ctxs (s : State) (k : Nat) (aux : List Nat) : (s.start k aux).ctxs = s.ctxs := rfl
@[simp] theorem State.start_allocs (s : State) (k : Nat) (aux : List Nat) : (s.start k aux).allocs = s.allocs := rfl
@[simp] theorem State.start_ranges (s : State) (k : Nat) (aux : List Nat) : (s.start k aux).ranges = s.ranges := rfl
@[simp] theorem State.start_windows (s : State) (k : Nat) (aux : List Nat) : (s.start k aux).windows = s.windows := rfl
@[simp] theorem State.start_moves (s : State) (k : Nat) (aux : List Nat) : (s.start k aux).moves = s.moves := rfl
@[simp] theorem State.start_nextMove (s : State) (k : Nat) (aux : List Nat) : (s.start k aux).nextMove = s.nextMove := rfl
@[simp] theorem State.start_wants (s : State) (k : Nat) (aux : List Nat) : (s.start k aux).wants = s.wants := rfl
@[simp] theorem State.start_fwds (s : State) (k : Nat) (aux : List Nat) : (s.start k aux).fwds = s.fwds := rfl
@[simp] theorem State.start_remaps (s : State) (k : Nat) (aux : List Nat) : (s.start k aux).remaps = s.remaps := rfl
@[simp] theorem State.start_tlbs (s : State) (k : Nat) (aux : List Nat) : (s.start k aux).tlbs = s.tlbs := rfl
@[simp] theorem State.start_faults (s : State) (k : Nat) (aux : List Nat) : (s.start k aux).faults = s.faults := rfl
@[simp] theorem State.start_nextFault (s : State) (k : Nat) (aux : List Nat) : (s.start k aux).nextFault = s.nextFault := rfl
@[simp] theorem State.start_descs (s : State) (k : Nat) (aux : List Nat) : (s.start k aux).descs = s.descs := rfl
@[simp] theorem State.start_nextDesc (s : State) (k : Nat) (aux : List Nat) : (s.start k aux).nextDesc = s.nextDesc := rfl
@[simp] theorem State.start_fabric (s : State) (k : Nat) (aux : List Nat) : (s.start k aux).fabric = s.fabric := rfl
@[simp] theorem State.start_topo (s : State) (k : Nat) (aux : List Nat) : (s.start k aux).topo = s.topo := rfl
@[simp] theorem State.start_tiles (s : State) (k : Nat) (aux : List Nat) : (s.start k aux).tiles = s.tiles := rfl
@[simp] theorem State.start_nextTile (s : State) (k : Nat) (aux : List Nat) : (s.start k aux).nextTile = s.nextTile := rfl
@[simp] theorem State.start_arming (s : State) (k : Nat) (aux : List Nat) : (s.start k aux).arming = s.arming := rfl
@[simp] theorem State.start_injects (s : State) (k : Nat) (aux : List Nat) : (s.start k aux).injects = s.injects := rfl
@[simp] theorem State.start_routers (s : State) (k : Nat) (aux : List Nat) : (s.start k aux).routers = s.routers := rfl
@[simp] theorem State.start_areas (s : State) (k : Nat) (aux : List Nat) : (s.start k aux).areas = s.areas := rfl
@[simp] theorem State.start_decided (s : State) (k : Nat) (aux : List Nat) : (s.start k aux).decided = s.decided := rfl
@[simp] theorem State.start_stepSlots (s : State) (k : Nat) (aux : List Nat) : (s.start k aux).stepSlots = s.stepSlots := rfl
@[simp] theorem State.start_hands (s : State) (k : Nat) (aux : List Nat) : (s.start k aux).hands = s.hands := rfl
@[simp] theorem State.start_kitty (s : State) (k : Nat) (aux : List Nat) : (s.start k aux).kitty = s.kitty := rfl
@[simp] theorem State.start_steps (s : State) (k : Nat) (aux : List Nat) : (s.start k aux).steps = s.steps := rfl
@[simp] theorem State.start_entries (s : State) (k : Nat) (aux : List Nat) : (s.start k aux).entries = s.entries := rfl
@[simp] theorem State.start_treeNodes (s : State) (k : Nat) (aux : List Nat) : (s.start k aux).treeNodes = s.treeNodes := rfl
@[simp] theorem State.start_variants (s : State) (k : Nat) (aux : List Nat) : (s.start k aux).variants = s.variants := rfl
@[simp] theorem State.start_dealing (s : State) (k : Nat) (aux : List Nat) : (s.start k aux).dealing = s.dealing := rfl
@[simp] theorem State.start_accounts (s : State) (k : Nat) (aux : List Nat) : (s.start k aux).accounts = s.accounts := rfl
@[simp] theorem State.start_launches (s : State) (k : Nat) (aux : List Nat) : (s.start k aux).launches = s.launches := rfl
@[simp] theorem State.start_nextLaunch (s : State) (k : Nat) (aux : List Nat) : (s.start k aux).nextLaunch = s.nextLaunch := rfl
@[simp] theorem State.start_rings (s : State) (k : Nat) (aux : List Nat) : (s.start k aux).rings = s.rings := rfl
@[simp] theorem State.start_programs (s : State) (k : Nat) (aux : List Nat) : (s.start k aux).programs = s.programs := rfl
@[simp] theorem State.start_coreFree (s : State) (k : Nat) (aux : List Nat) : (s.start k aux).coreFree = s.coreFree := rfl
@[simp] theorem State.start_phaseSince (s : State) (k : Nat) (aux : List Nat) : (s.start k aux).phaseSince = s.phaseSince := rfl
@[simp] theorem State.start_phaseNs (s : State) (k : Nat) (aux : List Nat) : (s.start k aux).phaseNs = s.phaseNs := rfl
@[simp] theorem State.start_draws (s : State) (k : Nat) (aux : List Nat) : (s.start k aux).draws = s.draws := rfl
@[simp] theorem State.start_units (s : State) (k : Nat) (aux : List Nat) : (s.start k aux).units = s.units := rfl
@[simp] theorem State.start_bankMap (s : State) (k : Nat) (aux : List Nat) : (s.start k aux).bankMap = s.bankMap := rfl
@[simp] theorem State.start_badBanks (s : State) (k : Nat) (aux : List Nat) : (s.start k aux).badBanks = s.badBanks := rfl
@[simp] theorem State.start_selfDue (s : State) (k : Nat) (aux : List Nat) : (s.start k aux).selfDue = s.selfDue := rfl
@[simp] theorem State.start_recordDue (s : State) (k : Nat) (aux : List Nat) : (s.start k aux).recordDue = s.recordDue := rfl
@[simp] theorem State.start_slots (s : State) (k : Nat) (aux : List Nat) : (s.start k aux).slots = s.slots := rfl
@[simp] theorem State.start_switches (s : State) (k : Nat) (aux : List Nat) : (s.start k aux).switches = s.switches := rfl
@[simp] theorem State.start_windowTurn (s : State) (k : Nat) (aux : List Nat) : (s.start k aux).windowTurn = s.windowTurn := rfl
@[simp] theorem State.start_recheck (s : State) (k : Nat) (aux : List Nat) : (s.start k aux).recheck = s.recheck := rfl
@[simp] theorem State.start_recheckAt (s : State) (k : Nat) (aux : List Nat) : (s.start k aux).recheckAt = s.recheckAt := rfl
@[simp] theorem State.start_mgmt (s : State) (k : Nat) (aux : List Nat) : (s.start k aux).mgmt = s.mgmt := rfl
@[simp] theorem State.start_power (s : State) (k : Nat) (aux : List Nat) : (s.start k aux).power = s.power := rfl
@[simp] theorem State.start_sec (s : State) (k : Nat) (aux : List Nat) : (s.start k aux).sec = s.sec := rfl
@[simp] theorem State.start_clkMoved (s : State) (k : Nat) (aux : List Nat) : (s.start k aux).clkMoved = s.clkMoved := rfl
@[simp] theorem State.start_clkBring (s : State) (k : Nat) (aux : List Nat) : (s.start k aux).clkBring = s.clkBring := rfl
@[simp] theorem State.start_badSince (s : State) (k : Nat) (aux : List Nat) : (s.start k aux).badSince = s.badSince := rfl
@[simp] theorem State.start_tableWaits (s : State) (k : Nat) (aux : List Nat) : (s.start k aux).tableWaits = s.tableWaits := rfl
@[simp] theorem State.start_cacheSet (s : State) (k : Nat) (aux : List Nat) : (s.start k aux).cacheSet = s.cacheSet := rfl
@[simp] theorem State.start_ringLanded (s : State) (k : Nat) (aux : List Nat) : (s.start k aux).ringLanded = s.ringLanded := rfl
@[simp] theorem State.start_selfNow (s : State) (k : Nat) (aux : List Nat) : (s.start k aux).selfNow = s.selfNow := rfl
@[simp] theorem State.start_rd (s : State) (k : Nat) (aux : List Nat) (g : Fld) : (s.start k aux).rd g = s.rd g := rfl

/-! finish. -/

@[simp] theorem State.finish_now (s : State) (k st det o0 o1 o2 : Nat) : (s.finish k st det o0 o1 o2).now = s.now := rfl
@[simp] theorem State.finish_freeCtr (s : State) (k st det o0 o1 o2 : Nat) : (s.finish k st det o0 o1 o2).freeCtr = s.freeCtr := rfl
@[simp] theorem State.finish_regs (s : State) (k st det o0 o1 o2 : Nat) : (s.finish k st det o0 o1 o2).regs = s.regs := rfl
@[simp] theorem State.finish_mem (s : State) (k st det o0 o1 o2 : Nat) : (s.finish k st det o0 o1 o2).mem = s.mem := rfl
@[simp] theorem State.finish_out (s : State) (k st det o0 o1 o2 : Nat) : (s.finish k st det o0 o1 o2).out = s.out := rfl
@[simp] theorem State.finish_pending (s : State) (k st det o0 o1 o2 : Nat) : (s.finish k st det o0 o1 o2).pending = s.pending := rfl
@[simp] theorem State.finish_score (s : State) (k st det o0 o1 o2 : Nat) : (s.finish k st det o0 o1 o2).score = s.score := rfl
@[simp] theorem State.finish_ports (s : State) (k st det o0 o1 o2 : Nat) : (s.finish k st det o0 o1 o2).ports = s.ports := rfl
@[simp] theorem State.finish_chans (s : State) (k st det o0 o1 o2 : Nat) : (s.finish k st det o0 o1 o2).chans = s.chans := rfl
@[simp] theorem State.finish_nextCmd (s : State) (k st det o0 o1 o2 : Nat) : (s.finish k st det o0 o1 o2).nextCmd = s.nextCmd := rfl
@[simp] theorem State.finish_grants (s : State) (k st det o0 o1 o2 : Nat) : (s.finish k st det o0 o1 o2).grants = s.grants := rfl
@[simp] theorem State.finish_hold (s : State) (k st det o0 o1 o2 : Nat) : (s.finish k st det o0 o1 o2).hold = s.hold := rfl
@[simp] theorem State.finish_late (s : State) (k st det o0 o1 o2 : Nat) : (s.finish k st det o0 o1 o2).late = s.late := rfl
@[simp] theorem State.finish_ctxs (s : State) (k st det o0 o1 o2 : Nat) : (s.finish k st det o0 o1 o2).ctxs = s.ctxs := rfl
@[simp] theorem State.finish_allocs (s : State) (k st det o0 o1 o2 : Nat) : (s.finish k st det o0 o1 o2).allocs = s.allocs := rfl
@[simp] theorem State.finish_ranges (s : State) (k st det o0 o1 o2 : Nat) : (s.finish k st det o0 o1 o2).ranges = s.ranges := rfl
@[simp] theorem State.finish_windows (s : State) (k st det o0 o1 o2 : Nat) : (s.finish k st det o0 o1 o2).windows = s.windows := rfl
@[simp] theorem State.finish_moves (s : State) (k st det o0 o1 o2 : Nat) : (s.finish k st det o0 o1 o2).moves = s.moves := rfl
@[simp] theorem State.finish_nextMove (s : State) (k st det o0 o1 o2 : Nat) : (s.finish k st det o0 o1 o2).nextMove = s.nextMove := rfl
@[simp] theorem State.finish_wants (s : State) (k st det o0 o1 o2 : Nat) : (s.finish k st det o0 o1 o2).wants = s.wants := rfl
@[simp] theorem State.finish_fwds (s : State) (k st det o0 o1 o2 : Nat) : (s.finish k st det o0 o1 o2).fwds = s.fwds := rfl
@[simp] theorem State.finish_remaps (s : State) (k st det o0 o1 o2 : Nat) : (s.finish k st det o0 o1 o2).remaps = s.remaps := rfl
@[simp] theorem State.finish_tlbs (s : State) (k st det o0 o1 o2 : Nat) : (s.finish k st det o0 o1 o2).tlbs = s.tlbs := rfl
@[simp] theorem State.finish_faults (s : State) (k st det o0 o1 o2 : Nat) : (s.finish k st det o0 o1 o2).faults = s.faults := rfl
@[simp] theorem State.finish_nextFault (s : State) (k st det o0 o1 o2 : Nat) : (s.finish k st det o0 o1 o2).nextFault = s.nextFault := rfl
@[simp] theorem State.finish_descs (s : State) (k st det o0 o1 o2 : Nat) : (s.finish k st det o0 o1 o2).descs = s.descs := rfl
@[simp] theorem State.finish_nextDesc (s : State) (k st det o0 o1 o2 : Nat) : (s.finish k st det o0 o1 o2).nextDesc = s.nextDesc := rfl
@[simp] theorem State.finish_fabric (s : State) (k st det o0 o1 o2 : Nat) : (s.finish k st det o0 o1 o2).fabric = s.fabric := rfl
@[simp] theorem State.finish_topo (s : State) (k st det o0 o1 o2 : Nat) : (s.finish k st det o0 o1 o2).topo = s.topo := rfl
@[simp] theorem State.finish_tiles (s : State) (k st det o0 o1 o2 : Nat) : (s.finish k st det o0 o1 o2).tiles = s.tiles := rfl
@[simp] theorem State.finish_nextTile (s : State) (k st det o0 o1 o2 : Nat) : (s.finish k st det o0 o1 o2).nextTile = s.nextTile := rfl
@[simp] theorem State.finish_arming (s : State) (k st det o0 o1 o2 : Nat) : (s.finish k st det o0 o1 o2).arming = s.arming := rfl
@[simp] theorem State.finish_injects (s : State) (k st det o0 o1 o2 : Nat) : (s.finish k st det o0 o1 o2).injects = s.injects := rfl
@[simp] theorem State.finish_routers (s : State) (k st det o0 o1 o2 : Nat) : (s.finish k st det o0 o1 o2).routers = s.routers := rfl
@[simp] theorem State.finish_areas (s : State) (k st det o0 o1 o2 : Nat) : (s.finish k st det o0 o1 o2).areas = s.areas := rfl
@[simp] theorem State.finish_decided (s : State) (k st det o0 o1 o2 : Nat) : (s.finish k st det o0 o1 o2).decided = s.decided := rfl
@[simp] theorem State.finish_stepSlots (s : State) (k st det o0 o1 o2 : Nat) : (s.finish k st det o0 o1 o2).stepSlots = s.stepSlots := rfl
@[simp] theorem State.finish_hands (s : State) (k st det o0 o1 o2 : Nat) : (s.finish k st det o0 o1 o2).hands = s.hands := rfl
@[simp] theorem State.finish_kitty (s : State) (k st det o0 o1 o2 : Nat) : (s.finish k st det o0 o1 o2).kitty = s.kitty := rfl
@[simp] theorem State.finish_steps (s : State) (k st det o0 o1 o2 : Nat) : (s.finish k st det o0 o1 o2).steps = s.steps := rfl
@[simp] theorem State.finish_entries (s : State) (k st det o0 o1 o2 : Nat) : (s.finish k st det o0 o1 o2).entries = s.entries := rfl
@[simp] theorem State.finish_treeNodes (s : State) (k st det o0 o1 o2 : Nat) : (s.finish k st det o0 o1 o2).treeNodes = s.treeNodes := rfl
@[simp] theorem State.finish_variants (s : State) (k st det o0 o1 o2 : Nat) : (s.finish k st det o0 o1 o2).variants = s.variants := rfl
@[simp] theorem State.finish_dealing (s : State) (k st det o0 o1 o2 : Nat) : (s.finish k st det o0 o1 o2).dealing = s.dealing := rfl
@[simp] theorem State.finish_accounts (s : State) (k st det o0 o1 o2 : Nat) : (s.finish k st det o0 o1 o2).accounts = s.accounts := rfl
@[simp] theorem State.finish_launches (s : State) (k st det o0 o1 o2 : Nat) : (s.finish k st det o0 o1 o2).launches = s.launches := rfl
@[simp] theorem State.finish_nextLaunch (s : State) (k st det o0 o1 o2 : Nat) : (s.finish k st det o0 o1 o2).nextLaunch = s.nextLaunch := rfl
@[simp] theorem State.finish_rings (s : State) (k st det o0 o1 o2 : Nat) : (s.finish k st det o0 o1 o2).rings = s.rings := rfl
@[simp] theorem State.finish_programs (s : State) (k st det o0 o1 o2 : Nat) : (s.finish k st det o0 o1 o2).programs = s.programs := rfl
@[simp] theorem State.finish_coreFree (s : State) (k st det o0 o1 o2 : Nat) : (s.finish k st det o0 o1 o2).coreFree = s.coreFree := rfl
@[simp] theorem State.finish_phaseSince (s : State) (k st det o0 o1 o2 : Nat) : (s.finish k st det o0 o1 o2).phaseSince = s.phaseSince := rfl
@[simp] theorem State.finish_phaseNs (s : State) (k st det o0 o1 o2 : Nat) : (s.finish k st det o0 o1 o2).phaseNs = s.phaseNs := rfl
@[simp] theorem State.finish_draws (s : State) (k st det o0 o1 o2 : Nat) : (s.finish k st det o0 o1 o2).draws = s.draws := rfl
@[simp] theorem State.finish_units (s : State) (k st det o0 o1 o2 : Nat) : (s.finish k st det o0 o1 o2).units = s.units := rfl
@[simp] theorem State.finish_bankMap (s : State) (k st det o0 o1 o2 : Nat) : (s.finish k st det o0 o1 o2).bankMap = s.bankMap := rfl
@[simp] theorem State.finish_badBanks (s : State) (k st det o0 o1 o2 : Nat) : (s.finish k st det o0 o1 o2).badBanks = s.badBanks := rfl
@[simp] theorem State.finish_selfDue (s : State) (k st det o0 o1 o2 : Nat) : (s.finish k st det o0 o1 o2).selfDue = s.selfDue := rfl
@[simp] theorem State.finish_recordDue (s : State) (k st det o0 o1 o2 : Nat) : (s.finish k st det o0 o1 o2).recordDue = s.recordDue := rfl
@[simp] theorem State.finish_slots (s : State) (k st det o0 o1 o2 : Nat) : (s.finish k st det o0 o1 o2).slots = s.slots := rfl
@[simp] theorem State.finish_switches (s : State) (k st det o0 o1 o2 : Nat) : (s.finish k st det o0 o1 o2).switches = s.switches := rfl
@[simp] theorem State.finish_windowTurn (s : State) (k st det o0 o1 o2 : Nat) : (s.finish k st det o0 o1 o2).windowTurn = s.windowTurn := rfl
@[simp] theorem State.finish_recheck (s : State) (k st det o0 o1 o2 : Nat) : (s.finish k st det o0 o1 o2).recheck = s.recheck := rfl
@[simp] theorem State.finish_recheckAt (s : State) (k st det o0 o1 o2 : Nat) : (s.finish k st det o0 o1 o2).recheckAt = s.recheckAt := rfl
@[simp] theorem State.finish_mgmt (s : State) (k st det o0 o1 o2 : Nat) : (s.finish k st det o0 o1 o2).mgmt = s.mgmt := rfl
@[simp] theorem State.finish_power (s : State) (k st det o0 o1 o2 : Nat) : (s.finish k st det o0 o1 o2).power = s.power := rfl
@[simp] theorem State.finish_sec (s : State) (k st det o0 o1 o2 : Nat) : (s.finish k st det o0 o1 o2).sec = s.sec := rfl
@[simp] theorem State.finish_clkMoved (s : State) (k st det o0 o1 o2 : Nat) : (s.finish k st det o0 o1 o2).clkMoved = s.clkMoved := rfl
@[simp] theorem State.finish_clkBring (s : State) (k st det o0 o1 o2 : Nat) : (s.finish k st det o0 o1 o2).clkBring = s.clkBring := rfl
@[simp] theorem State.finish_badSince (s : State) (k st det o0 o1 o2 : Nat) : (s.finish k st det o0 o1 o2).badSince = s.badSince := rfl
@[simp] theorem State.finish_tableWaits (s : State) (k st det o0 o1 o2 : Nat) : (s.finish k st det o0 o1 o2).tableWaits = s.tableWaits := rfl
@[simp] theorem State.finish_cacheSet (s : State) (k st det o0 o1 o2 : Nat) : (s.finish k st det o0 o1 o2).cacheSet = s.cacheSet := rfl
@[simp] theorem State.finish_ringLanded (s : State) (k st det o0 o1 o2 : Nat) : (s.finish k st det o0 o1 o2).ringLanded = s.ringLanded := rfl
@[simp] theorem State.finish_selfNow (s : State) (k st det o0 o1 o2 : Nat) : (s.finish k st det o0 o1 o2).selfNow = s.selfNow := rfl
@[simp] theorem State.finish_rd (s : State) (k st det o0 o1 o2 : Nat) (g : Fld) : (s.finish k st det o0 o1 o2).rd g = s.rd g := rfl

/-! doneWith. -/

@[simp] theorem State.doneWith_now (s : State) (k o0 o1 o2 : Nat) : (s.doneWith k o0 o1 o2).now = s.now := rfl
@[simp] theorem State.doneWith_freeCtr (s : State) (k o0 o1 o2 : Nat) : (s.doneWith k o0 o1 o2).freeCtr = s.freeCtr := rfl
@[simp] theorem State.doneWith_regs (s : State) (k o0 o1 o2 : Nat) : (s.doneWith k o0 o1 o2).regs = s.regs := rfl
@[simp] theorem State.doneWith_mem (s : State) (k o0 o1 o2 : Nat) : (s.doneWith k o0 o1 o2).mem = s.mem := rfl
@[simp] theorem State.doneWith_out (s : State) (k o0 o1 o2 : Nat) : (s.doneWith k o0 o1 o2).out = s.out := rfl
@[simp] theorem State.doneWith_pending (s : State) (k o0 o1 o2 : Nat) : (s.doneWith k o0 o1 o2).pending = s.pending := rfl
@[simp] theorem State.doneWith_score (s : State) (k o0 o1 o2 : Nat) : (s.doneWith k o0 o1 o2).score = s.score := rfl
@[simp] theorem State.doneWith_ports (s : State) (k o0 o1 o2 : Nat) : (s.doneWith k o0 o1 o2).ports = s.ports := rfl
@[simp] theorem State.doneWith_chans (s : State) (k o0 o1 o2 : Nat) : (s.doneWith k o0 o1 o2).chans = s.chans := rfl
@[simp] theorem State.doneWith_nextCmd (s : State) (k o0 o1 o2 : Nat) : (s.doneWith k o0 o1 o2).nextCmd = s.nextCmd := rfl
@[simp] theorem State.doneWith_grants (s : State) (k o0 o1 o2 : Nat) : (s.doneWith k o0 o1 o2).grants = s.grants := rfl
@[simp] theorem State.doneWith_hold (s : State) (k o0 o1 o2 : Nat) : (s.doneWith k o0 o1 o2).hold = s.hold := rfl
@[simp] theorem State.doneWith_late (s : State) (k o0 o1 o2 : Nat) : (s.doneWith k o0 o1 o2).late = s.late := rfl
@[simp] theorem State.doneWith_ctxs (s : State) (k o0 o1 o2 : Nat) : (s.doneWith k o0 o1 o2).ctxs = s.ctxs := rfl
@[simp] theorem State.doneWith_allocs (s : State) (k o0 o1 o2 : Nat) : (s.doneWith k o0 o1 o2).allocs = s.allocs := rfl
@[simp] theorem State.doneWith_ranges (s : State) (k o0 o1 o2 : Nat) : (s.doneWith k o0 o1 o2).ranges = s.ranges := rfl
@[simp] theorem State.doneWith_windows (s : State) (k o0 o1 o2 : Nat) : (s.doneWith k o0 o1 o2).windows = s.windows := rfl
@[simp] theorem State.doneWith_moves (s : State) (k o0 o1 o2 : Nat) : (s.doneWith k o0 o1 o2).moves = s.moves := rfl
@[simp] theorem State.doneWith_nextMove (s : State) (k o0 o1 o2 : Nat) : (s.doneWith k o0 o1 o2).nextMove = s.nextMove := rfl
@[simp] theorem State.doneWith_wants (s : State) (k o0 o1 o2 : Nat) : (s.doneWith k o0 o1 o2).wants = s.wants := rfl
@[simp] theorem State.doneWith_fwds (s : State) (k o0 o1 o2 : Nat) : (s.doneWith k o0 o1 o2).fwds = s.fwds := rfl
@[simp] theorem State.doneWith_remaps (s : State) (k o0 o1 o2 : Nat) : (s.doneWith k o0 o1 o2).remaps = s.remaps := rfl
@[simp] theorem State.doneWith_tlbs (s : State) (k o0 o1 o2 : Nat) : (s.doneWith k o0 o1 o2).tlbs = s.tlbs := rfl
@[simp] theorem State.doneWith_faults (s : State) (k o0 o1 o2 : Nat) : (s.doneWith k o0 o1 o2).faults = s.faults := rfl
@[simp] theorem State.doneWith_nextFault (s : State) (k o0 o1 o2 : Nat) : (s.doneWith k o0 o1 o2).nextFault = s.nextFault := rfl
@[simp] theorem State.doneWith_descs (s : State) (k o0 o1 o2 : Nat) : (s.doneWith k o0 o1 o2).descs = s.descs := rfl
@[simp] theorem State.doneWith_nextDesc (s : State) (k o0 o1 o2 : Nat) : (s.doneWith k o0 o1 o2).nextDesc = s.nextDesc := rfl
@[simp] theorem State.doneWith_fabric (s : State) (k o0 o1 o2 : Nat) : (s.doneWith k o0 o1 o2).fabric = s.fabric := rfl
@[simp] theorem State.doneWith_topo (s : State) (k o0 o1 o2 : Nat) : (s.doneWith k o0 o1 o2).topo = s.topo := rfl
@[simp] theorem State.doneWith_tiles (s : State) (k o0 o1 o2 : Nat) : (s.doneWith k o0 o1 o2).tiles = s.tiles := rfl
@[simp] theorem State.doneWith_nextTile (s : State) (k o0 o1 o2 : Nat) : (s.doneWith k o0 o1 o2).nextTile = s.nextTile := rfl
@[simp] theorem State.doneWith_arming (s : State) (k o0 o1 o2 : Nat) : (s.doneWith k o0 o1 o2).arming = s.arming := rfl
@[simp] theorem State.doneWith_injects (s : State) (k o0 o1 o2 : Nat) : (s.doneWith k o0 o1 o2).injects = s.injects := rfl
@[simp] theorem State.doneWith_routers (s : State) (k o0 o1 o2 : Nat) : (s.doneWith k o0 o1 o2).routers = s.routers := rfl
@[simp] theorem State.doneWith_areas (s : State) (k o0 o1 o2 : Nat) : (s.doneWith k o0 o1 o2).areas = s.areas := rfl
@[simp] theorem State.doneWith_decided (s : State) (k o0 o1 o2 : Nat) : (s.doneWith k o0 o1 o2).decided = s.decided := rfl
@[simp] theorem State.doneWith_stepSlots (s : State) (k o0 o1 o2 : Nat) : (s.doneWith k o0 o1 o2).stepSlots = s.stepSlots := rfl
@[simp] theorem State.doneWith_hands (s : State) (k o0 o1 o2 : Nat) : (s.doneWith k o0 o1 o2).hands = s.hands := rfl
@[simp] theorem State.doneWith_kitty (s : State) (k o0 o1 o2 : Nat) : (s.doneWith k o0 o1 o2).kitty = s.kitty := rfl
@[simp] theorem State.doneWith_steps (s : State) (k o0 o1 o2 : Nat) : (s.doneWith k o0 o1 o2).steps = s.steps := rfl
@[simp] theorem State.doneWith_entries (s : State) (k o0 o1 o2 : Nat) : (s.doneWith k o0 o1 o2).entries = s.entries := rfl
@[simp] theorem State.doneWith_treeNodes (s : State) (k o0 o1 o2 : Nat) : (s.doneWith k o0 o1 o2).treeNodes = s.treeNodes := rfl
@[simp] theorem State.doneWith_variants (s : State) (k o0 o1 o2 : Nat) : (s.doneWith k o0 o1 o2).variants = s.variants := rfl
@[simp] theorem State.doneWith_dealing (s : State) (k o0 o1 o2 : Nat) : (s.doneWith k o0 o1 o2).dealing = s.dealing := rfl
@[simp] theorem State.doneWith_accounts (s : State) (k o0 o1 o2 : Nat) : (s.doneWith k o0 o1 o2).accounts = s.accounts := rfl
@[simp] theorem State.doneWith_launches (s : State) (k o0 o1 o2 : Nat) : (s.doneWith k o0 o1 o2).launches = s.launches := rfl
@[simp] theorem State.doneWith_nextLaunch (s : State) (k o0 o1 o2 : Nat) : (s.doneWith k o0 o1 o2).nextLaunch = s.nextLaunch := rfl
@[simp] theorem State.doneWith_rings (s : State) (k o0 o1 o2 : Nat) : (s.doneWith k o0 o1 o2).rings = s.rings := rfl
@[simp] theorem State.doneWith_programs (s : State) (k o0 o1 o2 : Nat) : (s.doneWith k o0 o1 o2).programs = s.programs := rfl
@[simp] theorem State.doneWith_coreFree (s : State) (k o0 o1 o2 : Nat) : (s.doneWith k o0 o1 o2).coreFree = s.coreFree := rfl
@[simp] theorem State.doneWith_phaseSince (s : State) (k o0 o1 o2 : Nat) : (s.doneWith k o0 o1 o2).phaseSince = s.phaseSince := rfl
@[simp] theorem State.doneWith_phaseNs (s : State) (k o0 o1 o2 : Nat) : (s.doneWith k o0 o1 o2).phaseNs = s.phaseNs := rfl
@[simp] theorem State.doneWith_draws (s : State) (k o0 o1 o2 : Nat) : (s.doneWith k o0 o1 o2).draws = s.draws := rfl
@[simp] theorem State.doneWith_units (s : State) (k o0 o1 o2 : Nat) : (s.doneWith k o0 o1 o2).units = s.units := rfl
@[simp] theorem State.doneWith_bankMap (s : State) (k o0 o1 o2 : Nat) : (s.doneWith k o0 o1 o2).bankMap = s.bankMap := rfl
@[simp] theorem State.doneWith_badBanks (s : State) (k o0 o1 o2 : Nat) : (s.doneWith k o0 o1 o2).badBanks = s.badBanks := rfl
@[simp] theorem State.doneWith_selfDue (s : State) (k o0 o1 o2 : Nat) : (s.doneWith k o0 o1 o2).selfDue = s.selfDue := rfl
@[simp] theorem State.doneWith_recordDue (s : State) (k o0 o1 o2 : Nat) : (s.doneWith k o0 o1 o2).recordDue = s.recordDue := rfl
@[simp] theorem State.doneWith_slots (s : State) (k o0 o1 o2 : Nat) : (s.doneWith k o0 o1 o2).slots = s.slots := rfl
@[simp] theorem State.doneWith_switches (s : State) (k o0 o1 o2 : Nat) : (s.doneWith k o0 o1 o2).switches = s.switches := rfl
@[simp] theorem State.doneWith_windowTurn (s : State) (k o0 o1 o2 : Nat) : (s.doneWith k o0 o1 o2).windowTurn = s.windowTurn := rfl
@[simp] theorem State.doneWith_recheck (s : State) (k o0 o1 o2 : Nat) : (s.doneWith k o0 o1 o2).recheck = s.recheck := rfl
@[simp] theorem State.doneWith_recheckAt (s : State) (k o0 o1 o2 : Nat) : (s.doneWith k o0 o1 o2).recheckAt = s.recheckAt := rfl
@[simp] theorem State.doneWith_mgmt (s : State) (k o0 o1 o2 : Nat) : (s.doneWith k o0 o1 o2).mgmt = s.mgmt := rfl
@[simp] theorem State.doneWith_power (s : State) (k o0 o1 o2 : Nat) : (s.doneWith k o0 o1 o2).power = s.power := rfl
@[simp] theorem State.doneWith_sec (s : State) (k o0 o1 o2 : Nat) : (s.doneWith k o0 o1 o2).sec = s.sec := rfl
@[simp] theorem State.doneWith_clkMoved (s : State) (k o0 o1 o2 : Nat) : (s.doneWith k o0 o1 o2).clkMoved = s.clkMoved := rfl
@[simp] theorem State.doneWith_clkBring (s : State) (k o0 o1 o2 : Nat) : (s.doneWith k o0 o1 o2).clkBring = s.clkBring := rfl
@[simp] theorem State.doneWith_badSince (s : State) (k o0 o1 o2 : Nat) : (s.doneWith k o0 o1 o2).badSince = s.badSince := rfl
@[simp] theorem State.doneWith_tableWaits (s : State) (k o0 o1 o2 : Nat) : (s.doneWith k o0 o1 o2).tableWaits = s.tableWaits := rfl
@[simp] theorem State.doneWith_cacheSet (s : State) (k o0 o1 o2 : Nat) : (s.doneWith k o0 o1 o2).cacheSet = s.cacheSet := rfl
@[simp] theorem State.doneWith_ringLanded (s : State) (k o0 o1 o2 : Nat) : (s.doneWith k o0 o1 o2).ringLanded = s.ringLanded := rfl
@[simp] theorem State.doneWith_selfNow (s : State) (k o0 o1 o2 : Nat) : (s.doneWith k o0 o1 o2).selfNow = s.selfNow := rfl
@[simp] theorem State.doneWith_rd (s : State) (k o0 o1 o2 : Nat) (g : Fld) : (s.doneWith k o0 o1 o2).rd g = s.rd g := rfl

/-! failWith. -/

@[simp] theorem State.failWith_now (s : State) (k st det : Nat) : (s.failWith k st det).now = s.now := rfl
@[simp] theorem State.failWith_freeCtr (s : State) (k st det : Nat) : (s.failWith k st det).freeCtr = s.freeCtr := rfl
@[simp] theorem State.failWith_regs (s : State) (k st det : Nat) : (s.failWith k st det).regs = s.regs := rfl
@[simp] theorem State.failWith_mem (s : State) (k st det : Nat) : (s.failWith k st det).mem = s.mem := rfl
@[simp] theorem State.failWith_out (s : State) (k st det : Nat) : (s.failWith k st det).out = s.out := rfl
@[simp] theorem State.failWith_pending (s : State) (k st det : Nat) : (s.failWith k st det).pending = s.pending := rfl
@[simp] theorem State.failWith_score (s : State) (k st det : Nat) : (s.failWith k st det).score = s.score := rfl
@[simp] theorem State.failWith_ports (s : State) (k st det : Nat) : (s.failWith k st det).ports = s.ports := rfl
@[simp] theorem State.failWith_chans (s : State) (k st det : Nat) : (s.failWith k st det).chans = s.chans := rfl
@[simp] theorem State.failWith_nextCmd (s : State) (k st det : Nat) : (s.failWith k st det).nextCmd = s.nextCmd := rfl
@[simp] theorem State.failWith_grants (s : State) (k st det : Nat) : (s.failWith k st det).grants = s.grants := rfl
@[simp] theorem State.failWith_hold (s : State) (k st det : Nat) : (s.failWith k st det).hold = s.hold := rfl
@[simp] theorem State.failWith_late (s : State) (k st det : Nat) : (s.failWith k st det).late = s.late := rfl
@[simp] theorem State.failWith_ctxs (s : State) (k st det : Nat) : (s.failWith k st det).ctxs = s.ctxs := rfl
@[simp] theorem State.failWith_allocs (s : State) (k st det : Nat) : (s.failWith k st det).allocs = s.allocs := rfl
@[simp] theorem State.failWith_ranges (s : State) (k st det : Nat) : (s.failWith k st det).ranges = s.ranges := rfl
@[simp] theorem State.failWith_windows (s : State) (k st det : Nat) : (s.failWith k st det).windows = s.windows := rfl
@[simp] theorem State.failWith_moves (s : State) (k st det : Nat) : (s.failWith k st det).moves = s.moves := rfl
@[simp] theorem State.failWith_nextMove (s : State) (k st det : Nat) : (s.failWith k st det).nextMove = s.nextMove := rfl
@[simp] theorem State.failWith_wants (s : State) (k st det : Nat) : (s.failWith k st det).wants = s.wants := rfl
@[simp] theorem State.failWith_fwds (s : State) (k st det : Nat) : (s.failWith k st det).fwds = s.fwds := rfl
@[simp] theorem State.failWith_remaps (s : State) (k st det : Nat) : (s.failWith k st det).remaps = s.remaps := rfl
@[simp] theorem State.failWith_tlbs (s : State) (k st det : Nat) : (s.failWith k st det).tlbs = s.tlbs := rfl
@[simp] theorem State.failWith_faults (s : State) (k st det : Nat) : (s.failWith k st det).faults = s.faults := rfl
@[simp] theorem State.failWith_nextFault (s : State) (k st det : Nat) : (s.failWith k st det).nextFault = s.nextFault := rfl
@[simp] theorem State.failWith_descs (s : State) (k st det : Nat) : (s.failWith k st det).descs = s.descs := rfl
@[simp] theorem State.failWith_nextDesc (s : State) (k st det : Nat) : (s.failWith k st det).nextDesc = s.nextDesc := rfl
@[simp] theorem State.failWith_fabric (s : State) (k st det : Nat) : (s.failWith k st det).fabric = s.fabric := rfl
@[simp] theorem State.failWith_topo (s : State) (k st det : Nat) : (s.failWith k st det).topo = s.topo := rfl
@[simp] theorem State.failWith_tiles (s : State) (k st det : Nat) : (s.failWith k st det).tiles = s.tiles := rfl
@[simp] theorem State.failWith_nextTile (s : State) (k st det : Nat) : (s.failWith k st det).nextTile = s.nextTile := rfl
@[simp] theorem State.failWith_arming (s : State) (k st det : Nat) : (s.failWith k st det).arming = s.arming := rfl
@[simp] theorem State.failWith_injects (s : State) (k st det : Nat) : (s.failWith k st det).injects = s.injects := rfl
@[simp] theorem State.failWith_routers (s : State) (k st det : Nat) : (s.failWith k st det).routers = s.routers := rfl
@[simp] theorem State.failWith_areas (s : State) (k st det : Nat) : (s.failWith k st det).areas = s.areas := rfl
@[simp] theorem State.failWith_decided (s : State) (k st det : Nat) : (s.failWith k st det).decided = s.decided := rfl
@[simp] theorem State.failWith_stepSlots (s : State) (k st det : Nat) : (s.failWith k st det).stepSlots = s.stepSlots := rfl
@[simp] theorem State.failWith_hands (s : State) (k st det : Nat) : (s.failWith k st det).hands = s.hands := rfl
@[simp] theorem State.failWith_kitty (s : State) (k st det : Nat) : (s.failWith k st det).kitty = s.kitty := rfl
@[simp] theorem State.failWith_steps (s : State) (k st det : Nat) : (s.failWith k st det).steps = s.steps := rfl
@[simp] theorem State.failWith_entries (s : State) (k st det : Nat) : (s.failWith k st det).entries = s.entries := rfl
@[simp] theorem State.failWith_treeNodes (s : State) (k st det : Nat) : (s.failWith k st det).treeNodes = s.treeNodes := rfl
@[simp] theorem State.failWith_variants (s : State) (k st det : Nat) : (s.failWith k st det).variants = s.variants := rfl
@[simp] theorem State.failWith_dealing (s : State) (k st det : Nat) : (s.failWith k st det).dealing = s.dealing := rfl
@[simp] theorem State.failWith_accounts (s : State) (k st det : Nat) : (s.failWith k st det).accounts = s.accounts := rfl
@[simp] theorem State.failWith_launches (s : State) (k st det : Nat) : (s.failWith k st det).launches = s.launches := rfl
@[simp] theorem State.failWith_nextLaunch (s : State) (k st det : Nat) : (s.failWith k st det).nextLaunch = s.nextLaunch := rfl
@[simp] theorem State.failWith_rings (s : State) (k st det : Nat) : (s.failWith k st det).rings = s.rings := rfl
@[simp] theorem State.failWith_programs (s : State) (k st det : Nat) : (s.failWith k st det).programs = s.programs := rfl
@[simp] theorem State.failWith_coreFree (s : State) (k st det : Nat) : (s.failWith k st det).coreFree = s.coreFree := rfl
@[simp] theorem State.failWith_phaseSince (s : State) (k st det : Nat) : (s.failWith k st det).phaseSince = s.phaseSince := rfl
@[simp] theorem State.failWith_phaseNs (s : State) (k st det : Nat) : (s.failWith k st det).phaseNs = s.phaseNs := rfl
@[simp] theorem State.failWith_draws (s : State) (k st det : Nat) : (s.failWith k st det).draws = s.draws := rfl
@[simp] theorem State.failWith_units (s : State) (k st det : Nat) : (s.failWith k st det).units = s.units := rfl
@[simp] theorem State.failWith_bankMap (s : State) (k st det : Nat) : (s.failWith k st det).bankMap = s.bankMap := rfl
@[simp] theorem State.failWith_badBanks (s : State) (k st det : Nat) : (s.failWith k st det).badBanks = s.badBanks := rfl
@[simp] theorem State.failWith_selfDue (s : State) (k st det : Nat) : (s.failWith k st det).selfDue = s.selfDue := rfl
@[simp] theorem State.failWith_recordDue (s : State) (k st det : Nat) : (s.failWith k st det).recordDue = s.recordDue := rfl
@[simp] theorem State.failWith_slots (s : State) (k st det : Nat) : (s.failWith k st det).slots = s.slots := rfl
@[simp] theorem State.failWith_switches (s : State) (k st det : Nat) : (s.failWith k st det).switches = s.switches := rfl
@[simp] theorem State.failWith_windowTurn (s : State) (k st det : Nat) : (s.failWith k st det).windowTurn = s.windowTurn := rfl
@[simp] theorem State.failWith_recheck (s : State) (k st det : Nat) : (s.failWith k st det).recheck = s.recheck := rfl
@[simp] theorem State.failWith_recheckAt (s : State) (k st det : Nat) : (s.failWith k st det).recheckAt = s.recheckAt := rfl
@[simp] theorem State.failWith_mgmt (s : State) (k st det : Nat) : (s.failWith k st det).mgmt = s.mgmt := rfl
@[simp] theorem State.failWith_power (s : State) (k st det : Nat) : (s.failWith k st det).power = s.power := rfl
@[simp] theorem State.failWith_sec (s : State) (k st det : Nat) : (s.failWith k st det).sec = s.sec := rfl
@[simp] theorem State.failWith_clkMoved (s : State) (k st det : Nat) : (s.failWith k st det).clkMoved = s.clkMoved := rfl
@[simp] theorem State.failWith_clkBring (s : State) (k st det : Nat) : (s.failWith k st det).clkBring = s.clkBring := rfl
@[simp] theorem State.failWith_badSince (s : State) (k st det : Nat) : (s.failWith k st det).badSince = s.badSince := rfl
@[simp] theorem State.failWith_tableWaits (s : State) (k st det : Nat) : (s.failWith k st det).tableWaits = s.tableWaits := rfl
@[simp] theorem State.failWith_cacheSet (s : State) (k st det : Nat) : (s.failWith k st det).cacheSet = s.cacheSet := rfl
@[simp] theorem State.failWith_ringLanded (s : State) (k st det : Nat) : (s.failWith k st det).ringLanded = s.ringLanded := rfl
@[simp] theorem State.failWith_selfNow (s : State) (k st det : Nat) : (s.failWith k st det).selfNow = s.selfNow := rfl
@[simp] theorem State.failWith_rd (s : State) (k st det : Nat) (g : Fld) : (s.failWith k st det).rd g = s.rd g := rfl

/-! cmdDiscard. -/

@[simp] theorem State.cmdDiscard_now (s : State) (k : Nat) : (s.cmdDiscard k).now = s.now := rfl
@[simp] theorem State.cmdDiscard_freeCtr (s : State) (k : Nat) : (s.cmdDiscard k).freeCtr = s.freeCtr := rfl
@[simp] theorem State.cmdDiscard_regs (s : State) (k : Nat) : (s.cmdDiscard k).regs = s.regs := rfl
@[simp] theorem State.cmdDiscard_mem (s : State) (k : Nat) : (s.cmdDiscard k).mem = s.mem := rfl
@[simp] theorem State.cmdDiscard_out (s : State) (k : Nat) : (s.cmdDiscard k).out = s.out := rfl
@[simp] theorem State.cmdDiscard_pending (s : State) (k : Nat) : (s.cmdDiscard k).pending = s.pending := rfl
@[simp] theorem State.cmdDiscard_score (s : State) (k : Nat) : (s.cmdDiscard k).score = s.score := rfl
@[simp] theorem State.cmdDiscard_ports (s : State) (k : Nat) : (s.cmdDiscard k).ports = s.ports := rfl
@[simp] theorem State.cmdDiscard_chans (s : State) (k : Nat) : (s.cmdDiscard k).chans = s.chans := rfl
@[simp] theorem State.cmdDiscard_nextCmd (s : State) (k : Nat) : (s.cmdDiscard k).nextCmd = s.nextCmd := rfl
@[simp] theorem State.cmdDiscard_doneCtr (s : State) (k : Nat) : (s.cmdDiscard k).doneCtr = s.doneCtr := rfl
@[simp] theorem State.cmdDiscard_grants (s : State) (k : Nat) : (s.cmdDiscard k).grants = s.grants := rfl
@[simp] theorem State.cmdDiscard_hold (s : State) (k : Nat) : (s.cmdDiscard k).hold = s.hold := rfl
@[simp] theorem State.cmdDiscard_late (s : State) (k : Nat) : (s.cmdDiscard k).late = s.late := rfl
@[simp] theorem State.cmdDiscard_ctxs (s : State) (k : Nat) : (s.cmdDiscard k).ctxs = s.ctxs := rfl
@[simp] theorem State.cmdDiscard_allocs (s : State) (k : Nat) : (s.cmdDiscard k).allocs = s.allocs := rfl
@[simp] theorem State.cmdDiscard_ranges (s : State) (k : Nat) : (s.cmdDiscard k).ranges = s.ranges := rfl
@[simp] theorem State.cmdDiscard_windows (s : State) (k : Nat) : (s.cmdDiscard k).windows = s.windows := rfl
@[simp] theorem State.cmdDiscard_moves (s : State) (k : Nat) : (s.cmdDiscard k).moves = s.moves := rfl
@[simp] theorem State.cmdDiscard_nextMove (s : State) (k : Nat) : (s.cmdDiscard k).nextMove = s.nextMove := rfl
@[simp] theorem State.cmdDiscard_wants (s : State) (k : Nat) : (s.cmdDiscard k).wants = s.wants := rfl
@[simp] theorem State.cmdDiscard_fwds (s : State) (k : Nat) : (s.cmdDiscard k).fwds = s.fwds := rfl
@[simp] theorem State.cmdDiscard_remaps (s : State) (k : Nat) : (s.cmdDiscard k).remaps = s.remaps := rfl
@[simp] theorem State.cmdDiscard_tlbs (s : State) (k : Nat) : (s.cmdDiscard k).tlbs = s.tlbs := rfl
@[simp] theorem State.cmdDiscard_faults (s : State) (k : Nat) : (s.cmdDiscard k).faults = s.faults := rfl
@[simp] theorem State.cmdDiscard_nextFault (s : State) (k : Nat) : (s.cmdDiscard k).nextFault = s.nextFault := rfl
@[simp] theorem State.cmdDiscard_descs (s : State) (k : Nat) : (s.cmdDiscard k).descs = s.descs := rfl
@[simp] theorem State.cmdDiscard_nextDesc (s : State) (k : Nat) : (s.cmdDiscard k).nextDesc = s.nextDesc := rfl
@[simp] theorem State.cmdDiscard_fabric (s : State) (k : Nat) : (s.cmdDiscard k).fabric = s.fabric := rfl
@[simp] theorem State.cmdDiscard_topo (s : State) (k : Nat) : (s.cmdDiscard k).topo = s.topo := rfl
@[simp] theorem State.cmdDiscard_tiles (s : State) (k : Nat) : (s.cmdDiscard k).tiles = s.tiles := rfl
@[simp] theorem State.cmdDiscard_nextTile (s : State) (k : Nat) : (s.cmdDiscard k).nextTile = s.nextTile := rfl
@[simp] theorem State.cmdDiscard_arming (s : State) (k : Nat) : (s.cmdDiscard k).arming = s.arming := rfl
@[simp] theorem State.cmdDiscard_injects (s : State) (k : Nat) : (s.cmdDiscard k).injects = s.injects := rfl
@[simp] theorem State.cmdDiscard_routers (s : State) (k : Nat) : (s.cmdDiscard k).routers = s.routers := rfl
@[simp] theorem State.cmdDiscard_areas (s : State) (k : Nat) : (s.cmdDiscard k).areas = s.areas := rfl
@[simp] theorem State.cmdDiscard_decided (s : State) (k : Nat) : (s.cmdDiscard k).decided = s.decided := rfl
@[simp] theorem State.cmdDiscard_stepSlots (s : State) (k : Nat) : (s.cmdDiscard k).stepSlots = s.stepSlots := rfl
@[simp] theorem State.cmdDiscard_hands (s : State) (k : Nat) : (s.cmdDiscard k).hands = s.hands := rfl
@[simp] theorem State.cmdDiscard_kitty (s : State) (k : Nat) : (s.cmdDiscard k).kitty = s.kitty := rfl
@[simp] theorem State.cmdDiscard_steps (s : State) (k : Nat) : (s.cmdDiscard k).steps = s.steps := rfl
@[simp] theorem State.cmdDiscard_entries (s : State) (k : Nat) : (s.cmdDiscard k).entries = s.entries := rfl
@[simp] theorem State.cmdDiscard_treeNodes (s : State) (k : Nat) : (s.cmdDiscard k).treeNodes = s.treeNodes := rfl
@[simp] theorem State.cmdDiscard_variants (s : State) (k : Nat) : (s.cmdDiscard k).variants = s.variants := rfl
@[simp] theorem State.cmdDiscard_dealing (s : State) (k : Nat) : (s.cmdDiscard k).dealing = s.dealing := rfl
@[simp] theorem State.cmdDiscard_accounts (s : State) (k : Nat) : (s.cmdDiscard k).accounts = s.accounts := rfl
@[simp] theorem State.cmdDiscard_launches (s : State) (k : Nat) : (s.cmdDiscard k).launches = s.launches := rfl
@[simp] theorem State.cmdDiscard_nextLaunch (s : State) (k : Nat) : (s.cmdDiscard k).nextLaunch = s.nextLaunch := rfl
@[simp] theorem State.cmdDiscard_rings (s : State) (k : Nat) : (s.cmdDiscard k).rings = s.rings := rfl
@[simp] theorem State.cmdDiscard_programs (s : State) (k : Nat) : (s.cmdDiscard k).programs = s.programs := rfl
@[simp] theorem State.cmdDiscard_coreFree (s : State) (k : Nat) : (s.cmdDiscard k).coreFree = s.coreFree := rfl
@[simp] theorem State.cmdDiscard_phaseSince (s : State) (k : Nat) : (s.cmdDiscard k).phaseSince = s.phaseSince := rfl
@[simp] theorem State.cmdDiscard_phaseNs (s : State) (k : Nat) : (s.cmdDiscard k).phaseNs = s.phaseNs := rfl
@[simp] theorem State.cmdDiscard_draws (s : State) (k : Nat) : (s.cmdDiscard k).draws = s.draws := rfl
@[simp] theorem State.cmdDiscard_units (s : State) (k : Nat) : (s.cmdDiscard k).units = s.units := rfl
@[simp] theorem State.cmdDiscard_bankMap (s : State) (k : Nat) : (s.cmdDiscard k).bankMap = s.bankMap := rfl
@[simp] theorem State.cmdDiscard_badBanks (s : State) (k : Nat) : (s.cmdDiscard k).badBanks = s.badBanks := rfl
@[simp] theorem State.cmdDiscard_selfDue (s : State) (k : Nat) : (s.cmdDiscard k).selfDue = s.selfDue := rfl
@[simp] theorem State.cmdDiscard_recordDue (s : State) (k : Nat) : (s.cmdDiscard k).recordDue = s.recordDue := rfl
@[simp] theorem State.cmdDiscard_slots (s : State) (k : Nat) : (s.cmdDiscard k).slots = s.slots := rfl
@[simp] theorem State.cmdDiscard_switches (s : State) (k : Nat) : (s.cmdDiscard k).switches = s.switches := rfl
@[simp] theorem State.cmdDiscard_windowTurn (s : State) (k : Nat) : (s.cmdDiscard k).windowTurn = s.windowTurn := rfl
@[simp] theorem State.cmdDiscard_recheck (s : State) (k : Nat) : (s.cmdDiscard k).recheck = s.recheck := rfl
@[simp] theorem State.cmdDiscard_recheckAt (s : State) (k : Nat) : (s.cmdDiscard k).recheckAt = s.recheckAt := rfl
@[simp] theorem State.cmdDiscard_mgmt (s : State) (k : Nat) : (s.cmdDiscard k).mgmt = s.mgmt := rfl
@[simp] theorem State.cmdDiscard_power (s : State) (k : Nat) : (s.cmdDiscard k).power = s.power := rfl
@[simp] theorem State.cmdDiscard_sec (s : State) (k : Nat) : (s.cmdDiscard k).sec = s.sec := rfl
@[simp] theorem State.cmdDiscard_clkMoved (s : State) (k : Nat) : (s.cmdDiscard k).clkMoved = s.clkMoved := rfl
@[simp] theorem State.cmdDiscard_clkBring (s : State) (k : Nat) : (s.cmdDiscard k).clkBring = s.clkBring := rfl
@[simp] theorem State.cmdDiscard_badSince (s : State) (k : Nat) : (s.cmdDiscard k).badSince = s.badSince := rfl
@[simp] theorem State.cmdDiscard_tableWaits (s : State) (k : Nat) : (s.cmdDiscard k).tableWaits = s.tableWaits := rfl
@[simp] theorem State.cmdDiscard_cacheSet (s : State) (k : Nat) : (s.cmdDiscard k).cacheSet = s.cacheSet := rfl
@[simp] theorem State.cmdDiscard_ringLanded (s : State) (k : Nat) : (s.cmdDiscard k).ringLanded = s.ringLanded := rfl
@[simp] theorem State.cmdDiscard_selfNow (s : State) (k : Nat) : (s.cmdDiscard k).selfNow = s.selfNow := rfl
@[simp] theorem State.cmdDiscard_rd (s : State) (k : Nat) (g : Fld) : (s.cmdDiscard k).rd g = s.rd g := rfl

/-! wrs. -/

@[simp] theorem State.wrs_now (s : State) (l : List (Fld × Nat)) : (s.wrs l).now = s.now := foldl_same (f := fun (t : State) (p : Fld × Nat) => t.wr p.1 p.2) (fun t => t.now) (fun _ _ => rfl) l s
@[simp] theorem State.wrs_freeCtr (s : State) (l : List (Fld × Nat)) : (s.wrs l).freeCtr = s.freeCtr := foldl_same (f := fun (t : State) (p : Fld × Nat) => t.wr p.1 p.2) (fun t => t.freeCtr) (fun _ _ => rfl) l s
@[simp] theorem State.wrs_mem (s : State) (l : List (Fld × Nat)) : (s.wrs l).mem = s.mem := foldl_same (f := fun (t : State) (p : Fld × Nat) => t.wr p.1 p.2) (fun t => t.mem) (fun _ _ => rfl) l s
@[simp] theorem State.wrs_out (s : State) (l : List (Fld × Nat)) : (s.wrs l).out = s.out := foldl_same (f := fun (t : State) (p : Fld × Nat) => t.wr p.1 p.2) (fun t => t.out) (fun _ _ => rfl) l s
@[simp] theorem State.wrs_pending (s : State) (l : List (Fld × Nat)) : (s.wrs l).pending = s.pending := foldl_same (f := fun (t : State) (p : Fld × Nat) => t.wr p.1 p.2) (fun t => t.pending) (fun _ _ => rfl) l s
@[simp] theorem State.wrs_score (s : State) (l : List (Fld × Nat)) : (s.wrs l).score = s.score := foldl_same (f := fun (t : State) (p : Fld × Nat) => t.wr p.1 p.2) (fun t => t.score) (fun _ _ => rfl) l s
@[simp] theorem State.wrs_ports (s : State) (l : List (Fld × Nat)) : (s.wrs l).ports = s.ports := foldl_same (f := fun (t : State) (p : Fld × Nat) => t.wr p.1 p.2) (fun t => t.ports) (fun _ _ => rfl) l s
@[simp] theorem State.wrs_chans (s : State) (l : List (Fld × Nat)) : (s.wrs l).chans = s.chans := foldl_same (f := fun (t : State) (p : Fld × Nat) => t.wr p.1 p.2) (fun t => t.chans) (fun _ _ => rfl) l s
@[simp] theorem State.wrs_cmds (s : State) (l : List (Fld × Nat)) : (s.wrs l).cmds = s.cmds := foldl_same (f := fun (t : State) (p : Fld × Nat) => t.wr p.1 p.2) (fun t => t.cmds) (fun _ _ => rfl) l s
@[simp] theorem State.wrs_nextCmd (s : State) (l : List (Fld × Nat)) : (s.wrs l).nextCmd = s.nextCmd := foldl_same (f := fun (t : State) (p : Fld × Nat) => t.wr p.1 p.2) (fun t => t.nextCmd) (fun _ _ => rfl) l s
@[simp] theorem State.wrs_doneCtr (s : State) (l : List (Fld × Nat)) : (s.wrs l).doneCtr = s.doneCtr := foldl_same (f := fun (t : State) (p : Fld × Nat) => t.wr p.1 p.2) (fun t => t.doneCtr) (fun _ _ => rfl) l s
@[simp] theorem State.wrs_grants (s : State) (l : List (Fld × Nat)) : (s.wrs l).grants = s.grants := foldl_same (f := fun (t : State) (p : Fld × Nat) => t.wr p.1 p.2) (fun t => t.grants) (fun _ _ => rfl) l s
@[simp] theorem State.wrs_hold (s : State) (l : List (Fld × Nat)) : (s.wrs l).hold = s.hold := foldl_same (f := fun (t : State) (p : Fld × Nat) => t.wr p.1 p.2) (fun t => t.hold) (fun _ _ => rfl) l s
@[simp] theorem State.wrs_late (s : State) (l : List (Fld × Nat)) : (s.wrs l).late = s.late := foldl_same (f := fun (t : State) (p : Fld × Nat) => t.wr p.1 p.2) (fun t => t.late) (fun _ _ => rfl) l s
@[simp] theorem State.wrs_ctxs (s : State) (l : List (Fld × Nat)) : (s.wrs l).ctxs = s.ctxs := foldl_same (f := fun (t : State) (p : Fld × Nat) => t.wr p.1 p.2) (fun t => t.ctxs) (fun _ _ => rfl) l s
@[simp] theorem State.wrs_allocs (s : State) (l : List (Fld × Nat)) : (s.wrs l).allocs = s.allocs := foldl_same (f := fun (t : State) (p : Fld × Nat) => t.wr p.1 p.2) (fun t => t.allocs) (fun _ _ => rfl) l s
@[simp] theorem State.wrs_ranges (s : State) (l : List (Fld × Nat)) : (s.wrs l).ranges = s.ranges := foldl_same (f := fun (t : State) (p : Fld × Nat) => t.wr p.1 p.2) (fun t => t.ranges) (fun _ _ => rfl) l s
@[simp] theorem State.wrs_windows (s : State) (l : List (Fld × Nat)) : (s.wrs l).windows = s.windows := foldl_same (f := fun (t : State) (p : Fld × Nat) => t.wr p.1 p.2) (fun t => t.windows) (fun _ _ => rfl) l s
@[simp] theorem State.wrs_moves (s : State) (l : List (Fld × Nat)) : (s.wrs l).moves = s.moves := foldl_same (f := fun (t : State) (p : Fld × Nat) => t.wr p.1 p.2) (fun t => t.moves) (fun _ _ => rfl) l s
@[simp] theorem State.wrs_nextMove (s : State) (l : List (Fld × Nat)) : (s.wrs l).nextMove = s.nextMove := foldl_same (f := fun (t : State) (p : Fld × Nat) => t.wr p.1 p.2) (fun t => t.nextMove) (fun _ _ => rfl) l s
@[simp] theorem State.wrs_wants (s : State) (l : List (Fld × Nat)) : (s.wrs l).wants = s.wants := foldl_same (f := fun (t : State) (p : Fld × Nat) => t.wr p.1 p.2) (fun t => t.wants) (fun _ _ => rfl) l s
@[simp] theorem State.wrs_fwds (s : State) (l : List (Fld × Nat)) : (s.wrs l).fwds = s.fwds := foldl_same (f := fun (t : State) (p : Fld × Nat) => t.wr p.1 p.2) (fun t => t.fwds) (fun _ _ => rfl) l s
@[simp] theorem State.wrs_remaps (s : State) (l : List (Fld × Nat)) : (s.wrs l).remaps = s.remaps := foldl_same (f := fun (t : State) (p : Fld × Nat) => t.wr p.1 p.2) (fun t => t.remaps) (fun _ _ => rfl) l s
@[simp] theorem State.wrs_tlbs (s : State) (l : List (Fld × Nat)) : (s.wrs l).tlbs = s.tlbs := foldl_same (f := fun (t : State) (p : Fld × Nat) => t.wr p.1 p.2) (fun t => t.tlbs) (fun _ _ => rfl) l s
@[simp] theorem State.wrs_faults (s : State) (l : List (Fld × Nat)) : (s.wrs l).faults = s.faults := foldl_same (f := fun (t : State) (p : Fld × Nat) => t.wr p.1 p.2) (fun t => t.faults) (fun _ _ => rfl) l s
@[simp] theorem State.wrs_nextFault (s : State) (l : List (Fld × Nat)) : (s.wrs l).nextFault = s.nextFault := foldl_same (f := fun (t : State) (p : Fld × Nat) => t.wr p.1 p.2) (fun t => t.nextFault) (fun _ _ => rfl) l s
@[simp] theorem State.wrs_descs (s : State) (l : List (Fld × Nat)) : (s.wrs l).descs = s.descs := foldl_same (f := fun (t : State) (p : Fld × Nat) => t.wr p.1 p.2) (fun t => t.descs) (fun _ _ => rfl) l s
@[simp] theorem State.wrs_nextDesc (s : State) (l : List (Fld × Nat)) : (s.wrs l).nextDesc = s.nextDesc := foldl_same (f := fun (t : State) (p : Fld × Nat) => t.wr p.1 p.2) (fun t => t.nextDesc) (fun _ _ => rfl) l s
@[simp] theorem State.wrs_fabric (s : State) (l : List (Fld × Nat)) : (s.wrs l).fabric = s.fabric := foldl_same (f := fun (t : State) (p : Fld × Nat) => t.wr p.1 p.2) (fun t => t.fabric) (fun _ _ => rfl) l s
@[simp] theorem State.wrs_topo (s : State) (l : List (Fld × Nat)) : (s.wrs l).topo = s.topo := foldl_same (f := fun (t : State) (p : Fld × Nat) => t.wr p.1 p.2) (fun t => t.topo) (fun _ _ => rfl) l s
@[simp] theorem State.wrs_tiles (s : State) (l : List (Fld × Nat)) : (s.wrs l).tiles = s.tiles := foldl_same (f := fun (t : State) (p : Fld × Nat) => t.wr p.1 p.2) (fun t => t.tiles) (fun _ _ => rfl) l s
@[simp] theorem State.wrs_nextTile (s : State) (l : List (Fld × Nat)) : (s.wrs l).nextTile = s.nextTile := foldl_same (f := fun (t : State) (p : Fld × Nat) => t.wr p.1 p.2) (fun t => t.nextTile) (fun _ _ => rfl) l s
@[simp] theorem State.wrs_arming (s : State) (l : List (Fld × Nat)) : (s.wrs l).arming = s.arming := foldl_same (f := fun (t : State) (p : Fld × Nat) => t.wr p.1 p.2) (fun t => t.arming) (fun _ _ => rfl) l s
@[simp] theorem State.wrs_injects (s : State) (l : List (Fld × Nat)) : (s.wrs l).injects = s.injects := foldl_same (f := fun (t : State) (p : Fld × Nat) => t.wr p.1 p.2) (fun t => t.injects) (fun _ _ => rfl) l s
@[simp] theorem State.wrs_routers (s : State) (l : List (Fld × Nat)) : (s.wrs l).routers = s.routers := foldl_same (f := fun (t : State) (p : Fld × Nat) => t.wr p.1 p.2) (fun t => t.routers) (fun _ _ => rfl) l s
@[simp] theorem State.wrs_areas (s : State) (l : List (Fld × Nat)) : (s.wrs l).areas = s.areas := foldl_same (f := fun (t : State) (p : Fld × Nat) => t.wr p.1 p.2) (fun t => t.areas) (fun _ _ => rfl) l s
@[simp] theorem State.wrs_decided (s : State) (l : List (Fld × Nat)) : (s.wrs l).decided = s.decided := foldl_same (f := fun (t : State) (p : Fld × Nat) => t.wr p.1 p.2) (fun t => t.decided) (fun _ _ => rfl) l s
@[simp] theorem State.wrs_stepSlots (s : State) (l : List (Fld × Nat)) : (s.wrs l).stepSlots = s.stepSlots := foldl_same (f := fun (t : State) (p : Fld × Nat) => t.wr p.1 p.2) (fun t => t.stepSlots) (fun _ _ => rfl) l s
@[simp] theorem State.wrs_hands (s : State) (l : List (Fld × Nat)) : (s.wrs l).hands = s.hands := foldl_same (f := fun (t : State) (p : Fld × Nat) => t.wr p.1 p.2) (fun t => t.hands) (fun _ _ => rfl) l s
@[simp] theorem State.wrs_kitty (s : State) (l : List (Fld × Nat)) : (s.wrs l).kitty = s.kitty := foldl_same (f := fun (t : State) (p : Fld × Nat) => t.wr p.1 p.2) (fun t => t.kitty) (fun _ _ => rfl) l s
@[simp] theorem State.wrs_steps (s : State) (l : List (Fld × Nat)) : (s.wrs l).steps = s.steps := foldl_same (f := fun (t : State) (p : Fld × Nat) => t.wr p.1 p.2) (fun t => t.steps) (fun _ _ => rfl) l s
@[simp] theorem State.wrs_entries (s : State) (l : List (Fld × Nat)) : (s.wrs l).entries = s.entries := foldl_same (f := fun (t : State) (p : Fld × Nat) => t.wr p.1 p.2) (fun t => t.entries) (fun _ _ => rfl) l s
@[simp] theorem State.wrs_treeNodes (s : State) (l : List (Fld × Nat)) : (s.wrs l).treeNodes = s.treeNodes := foldl_same (f := fun (t : State) (p : Fld × Nat) => t.wr p.1 p.2) (fun t => t.treeNodes) (fun _ _ => rfl) l s
@[simp] theorem State.wrs_variants (s : State) (l : List (Fld × Nat)) : (s.wrs l).variants = s.variants := foldl_same (f := fun (t : State) (p : Fld × Nat) => t.wr p.1 p.2) (fun t => t.variants) (fun _ _ => rfl) l s
@[simp] theorem State.wrs_dealing (s : State) (l : List (Fld × Nat)) : (s.wrs l).dealing = s.dealing := foldl_same (f := fun (t : State) (p : Fld × Nat) => t.wr p.1 p.2) (fun t => t.dealing) (fun _ _ => rfl) l s
@[simp] theorem State.wrs_accounts (s : State) (l : List (Fld × Nat)) : (s.wrs l).accounts = s.accounts := foldl_same (f := fun (t : State) (p : Fld × Nat) => t.wr p.1 p.2) (fun t => t.accounts) (fun _ _ => rfl) l s
@[simp] theorem State.wrs_launches (s : State) (l : List (Fld × Nat)) : (s.wrs l).launches = s.launches := foldl_same (f := fun (t : State) (p : Fld × Nat) => t.wr p.1 p.2) (fun t => t.launches) (fun _ _ => rfl) l s
@[simp] theorem State.wrs_nextLaunch (s : State) (l : List (Fld × Nat)) : (s.wrs l).nextLaunch = s.nextLaunch := foldl_same (f := fun (t : State) (p : Fld × Nat) => t.wr p.1 p.2) (fun t => t.nextLaunch) (fun _ _ => rfl) l s
@[simp] theorem State.wrs_rings (s : State) (l : List (Fld × Nat)) : (s.wrs l).rings = s.rings := foldl_same (f := fun (t : State) (p : Fld × Nat) => t.wr p.1 p.2) (fun t => t.rings) (fun _ _ => rfl) l s
@[simp] theorem State.wrs_programs (s : State) (l : List (Fld × Nat)) : (s.wrs l).programs = s.programs := foldl_same (f := fun (t : State) (p : Fld × Nat) => t.wr p.1 p.2) (fun t => t.programs) (fun _ _ => rfl) l s
@[simp] theorem State.wrs_coreFree (s : State) (l : List (Fld × Nat)) : (s.wrs l).coreFree = s.coreFree := foldl_same (f := fun (t : State) (p : Fld × Nat) => t.wr p.1 p.2) (fun t => t.coreFree) (fun _ _ => rfl) l s
@[simp] theorem State.wrs_phaseSince (s : State) (l : List (Fld × Nat)) : (s.wrs l).phaseSince = s.phaseSince := foldl_same (f := fun (t : State) (p : Fld × Nat) => t.wr p.1 p.2) (fun t => t.phaseSince) (fun _ _ => rfl) l s
@[simp] theorem State.wrs_phaseNs (s : State) (l : List (Fld × Nat)) : (s.wrs l).phaseNs = s.phaseNs := foldl_same (f := fun (t : State) (p : Fld × Nat) => t.wr p.1 p.2) (fun t => t.phaseNs) (fun _ _ => rfl) l s
@[simp] theorem State.wrs_draws (s : State) (l : List (Fld × Nat)) : (s.wrs l).draws = s.draws := foldl_same (f := fun (t : State) (p : Fld × Nat) => t.wr p.1 p.2) (fun t => t.draws) (fun _ _ => rfl) l s
@[simp] theorem State.wrs_units (s : State) (l : List (Fld × Nat)) : (s.wrs l).units = s.units := foldl_same (f := fun (t : State) (p : Fld × Nat) => t.wr p.1 p.2) (fun t => t.units) (fun _ _ => rfl) l s
@[simp] theorem State.wrs_bankMap (s : State) (l : List (Fld × Nat)) : (s.wrs l).bankMap = s.bankMap := foldl_same (f := fun (t : State) (p : Fld × Nat) => t.wr p.1 p.2) (fun t => t.bankMap) (fun _ _ => rfl) l s
@[simp] theorem State.wrs_badBanks (s : State) (l : List (Fld × Nat)) : (s.wrs l).badBanks = s.badBanks := foldl_same (f := fun (t : State) (p : Fld × Nat) => t.wr p.1 p.2) (fun t => t.badBanks) (fun _ _ => rfl) l s
@[simp] theorem State.wrs_selfDue (s : State) (l : List (Fld × Nat)) : (s.wrs l).selfDue = s.selfDue := foldl_same (f := fun (t : State) (p : Fld × Nat) => t.wr p.1 p.2) (fun t => t.selfDue) (fun _ _ => rfl) l s
@[simp] theorem State.wrs_recordDue (s : State) (l : List (Fld × Nat)) : (s.wrs l).recordDue = s.recordDue := foldl_same (f := fun (t : State) (p : Fld × Nat) => t.wr p.1 p.2) (fun t => t.recordDue) (fun _ _ => rfl) l s
@[simp] theorem State.wrs_slots (s : State) (l : List (Fld × Nat)) : (s.wrs l).slots = s.slots := foldl_same (f := fun (t : State) (p : Fld × Nat) => t.wr p.1 p.2) (fun t => t.slots) (fun _ _ => rfl) l s
@[simp] theorem State.wrs_switches (s : State) (l : List (Fld × Nat)) : (s.wrs l).switches = s.switches := foldl_same (f := fun (t : State) (p : Fld × Nat) => t.wr p.1 p.2) (fun t => t.switches) (fun _ _ => rfl) l s
@[simp] theorem State.wrs_windowTurn (s : State) (l : List (Fld × Nat)) : (s.wrs l).windowTurn = s.windowTurn := foldl_same (f := fun (t : State) (p : Fld × Nat) => t.wr p.1 p.2) (fun t => t.windowTurn) (fun _ _ => rfl) l s
@[simp] theorem State.wrs_recheck (s : State) (l : List (Fld × Nat)) : (s.wrs l).recheck = s.recheck := foldl_same (f := fun (t : State) (p : Fld × Nat) => t.wr p.1 p.2) (fun t => t.recheck) (fun _ _ => rfl) l s
@[simp] theorem State.wrs_recheckAt (s : State) (l : List (Fld × Nat)) : (s.wrs l).recheckAt = s.recheckAt := foldl_same (f := fun (t : State) (p : Fld × Nat) => t.wr p.1 p.2) (fun t => t.recheckAt) (fun _ _ => rfl) l s
@[simp] theorem State.wrs_mgmt (s : State) (l : List (Fld × Nat)) : (s.wrs l).mgmt = s.mgmt := foldl_same (f := fun (t : State) (p : Fld × Nat) => t.wr p.1 p.2) (fun t => t.mgmt) (fun _ _ => rfl) l s
@[simp] theorem State.wrs_power (s : State) (l : List (Fld × Nat)) : (s.wrs l).power = s.power := foldl_same (f := fun (t : State) (p : Fld × Nat) => t.wr p.1 p.2) (fun t => t.power) (fun _ _ => rfl) l s
@[simp] theorem State.wrs_sec (s : State) (l : List (Fld × Nat)) : (s.wrs l).sec = s.sec := foldl_same (f := fun (t : State) (p : Fld × Nat) => t.wr p.1 p.2) (fun t => t.sec) (fun _ _ => rfl) l s
@[simp] theorem State.wrs_clkMoved (s : State) (l : List (Fld × Nat)) : (s.wrs l).clkMoved = s.clkMoved := foldl_same (f := fun (t : State) (p : Fld × Nat) => t.wr p.1 p.2) (fun t => t.clkMoved) (fun _ _ => rfl) l s
@[simp] theorem State.wrs_clkBring (s : State) (l : List (Fld × Nat)) : (s.wrs l).clkBring = s.clkBring := foldl_same (f := fun (t : State) (p : Fld × Nat) => t.wr p.1 p.2) (fun t => t.clkBring) (fun _ _ => rfl) l s
@[simp] theorem State.wrs_badSince (s : State) (l : List (Fld × Nat)) : (s.wrs l).badSince = s.badSince := foldl_same (f := fun (t : State) (p : Fld × Nat) => t.wr p.1 p.2) (fun t => t.badSince) (fun _ _ => rfl) l s
@[simp] theorem State.wrs_tableWaits (s : State) (l : List (Fld × Nat)) : (s.wrs l).tableWaits = s.tableWaits := foldl_same (f := fun (t : State) (p : Fld × Nat) => t.wr p.1 p.2) (fun t => t.tableWaits) (fun _ _ => rfl) l s
@[simp] theorem State.wrs_cacheSet (s : State) (l : List (Fld × Nat)) : (s.wrs l).cacheSet = s.cacheSet := foldl_same (f := fun (t : State) (p : Fld × Nat) => t.wr p.1 p.2) (fun t => t.cacheSet) (fun _ _ => rfl) l s
@[simp] theorem State.wrs_ringLanded (s : State) (l : List (Fld × Nat)) : (s.wrs l).ringLanded = s.ringLanded := foldl_same (f := fun (t : State) (p : Fld × Nat) => t.wr p.1 p.2) (fun t => t.ringLanded) (fun _ _ => rfl) l s
@[simp] theorem State.wrs_selfNow (s : State) (l : List (Fld × Nat)) : (s.wrs l).selfNow = s.selfNow := foldl_same (f := fun (t : State) (p : Fld × Nat) => t.wr p.1 p.2) (fun t => t.selfNow) (fun _ _ => rfl) l s

/-! regs0. -/

@[simp] theorem State.regs0_now (s : State) (l : List Fld) : (s.regs0 l).now = s.now := foldl_same (f := State.reg0) (fun t => t.now) (fun _ _ => rfl) l s
@[simp] theorem State.regs0_freeCtr (s : State) (l : List Fld) : (s.regs0 l).freeCtr = s.freeCtr := foldl_same (f := State.reg0) (fun t => t.freeCtr) (fun _ _ => rfl) l s
@[simp] theorem State.regs0_mem (s : State) (l : List Fld) : (s.regs0 l).mem = s.mem := foldl_same (f := State.reg0) (fun t => t.mem) (fun _ _ => rfl) l s
@[simp] theorem State.regs0_out (s : State) (l : List Fld) : (s.regs0 l).out = s.out := foldl_same (f := State.reg0) (fun t => t.out) (fun _ _ => rfl) l s
@[simp] theorem State.regs0_pending (s : State) (l : List Fld) : (s.regs0 l).pending = s.pending := foldl_same (f := State.reg0) (fun t => t.pending) (fun _ _ => rfl) l s
@[simp] theorem State.regs0_score (s : State) (l : List Fld) : (s.regs0 l).score = s.score := foldl_same (f := State.reg0) (fun t => t.score) (fun _ _ => rfl) l s
@[simp] theorem State.regs0_ports (s : State) (l : List Fld) : (s.regs0 l).ports = s.ports := foldl_same (f := State.reg0) (fun t => t.ports) (fun _ _ => rfl) l s
@[simp] theorem State.regs0_chans (s : State) (l : List Fld) : (s.regs0 l).chans = s.chans := foldl_same (f := State.reg0) (fun t => t.chans) (fun _ _ => rfl) l s
@[simp] theorem State.regs0_cmds (s : State) (l : List Fld) : (s.regs0 l).cmds = s.cmds := foldl_same (f := State.reg0) (fun t => t.cmds) (fun _ _ => rfl) l s
@[simp] theorem State.regs0_nextCmd (s : State) (l : List Fld) : (s.regs0 l).nextCmd = s.nextCmd := foldl_same (f := State.reg0) (fun t => t.nextCmd) (fun _ _ => rfl) l s
@[simp] theorem State.regs0_doneCtr (s : State) (l : List Fld) : (s.regs0 l).doneCtr = s.doneCtr := foldl_same (f := State.reg0) (fun t => t.doneCtr) (fun _ _ => rfl) l s
@[simp] theorem State.regs0_grants (s : State) (l : List Fld) : (s.regs0 l).grants = s.grants := foldl_same (f := State.reg0) (fun t => t.grants) (fun _ _ => rfl) l s
@[simp] theorem State.regs0_hold (s : State) (l : List Fld) : (s.regs0 l).hold = s.hold := foldl_same (f := State.reg0) (fun t => t.hold) (fun _ _ => rfl) l s
@[simp] theorem State.regs0_late (s : State) (l : List Fld) : (s.regs0 l).late = s.late := foldl_same (f := State.reg0) (fun t => t.late) (fun _ _ => rfl) l s
@[simp] theorem State.regs0_ctxs (s : State) (l : List Fld) : (s.regs0 l).ctxs = s.ctxs := foldl_same (f := State.reg0) (fun t => t.ctxs) (fun _ _ => rfl) l s
@[simp] theorem State.regs0_allocs (s : State) (l : List Fld) : (s.regs0 l).allocs = s.allocs := foldl_same (f := State.reg0) (fun t => t.allocs) (fun _ _ => rfl) l s
@[simp] theorem State.regs0_ranges (s : State) (l : List Fld) : (s.regs0 l).ranges = s.ranges := foldl_same (f := State.reg0) (fun t => t.ranges) (fun _ _ => rfl) l s
@[simp] theorem State.regs0_windows (s : State) (l : List Fld) : (s.regs0 l).windows = s.windows := foldl_same (f := State.reg0) (fun t => t.windows) (fun _ _ => rfl) l s
@[simp] theorem State.regs0_moves (s : State) (l : List Fld) : (s.regs0 l).moves = s.moves := foldl_same (f := State.reg0) (fun t => t.moves) (fun _ _ => rfl) l s
@[simp] theorem State.regs0_nextMove (s : State) (l : List Fld) : (s.regs0 l).nextMove = s.nextMove := foldl_same (f := State.reg0) (fun t => t.nextMove) (fun _ _ => rfl) l s
@[simp] theorem State.regs0_wants (s : State) (l : List Fld) : (s.regs0 l).wants = s.wants := foldl_same (f := State.reg0) (fun t => t.wants) (fun _ _ => rfl) l s
@[simp] theorem State.regs0_fwds (s : State) (l : List Fld) : (s.regs0 l).fwds = s.fwds := foldl_same (f := State.reg0) (fun t => t.fwds) (fun _ _ => rfl) l s
@[simp] theorem State.regs0_remaps (s : State) (l : List Fld) : (s.regs0 l).remaps = s.remaps := foldl_same (f := State.reg0) (fun t => t.remaps) (fun _ _ => rfl) l s
@[simp] theorem State.regs0_tlbs (s : State) (l : List Fld) : (s.regs0 l).tlbs = s.tlbs := foldl_same (f := State.reg0) (fun t => t.tlbs) (fun _ _ => rfl) l s
@[simp] theorem State.regs0_faults (s : State) (l : List Fld) : (s.regs0 l).faults = s.faults := foldl_same (f := State.reg0) (fun t => t.faults) (fun _ _ => rfl) l s
@[simp] theorem State.regs0_nextFault (s : State) (l : List Fld) : (s.regs0 l).nextFault = s.nextFault := foldl_same (f := State.reg0) (fun t => t.nextFault) (fun _ _ => rfl) l s
@[simp] theorem State.regs0_descs (s : State) (l : List Fld) : (s.regs0 l).descs = s.descs := foldl_same (f := State.reg0) (fun t => t.descs) (fun _ _ => rfl) l s
@[simp] theorem State.regs0_nextDesc (s : State) (l : List Fld) : (s.regs0 l).nextDesc = s.nextDesc := foldl_same (f := State.reg0) (fun t => t.nextDesc) (fun _ _ => rfl) l s
@[simp] theorem State.regs0_fabric (s : State) (l : List Fld) : (s.regs0 l).fabric = s.fabric := foldl_same (f := State.reg0) (fun t => t.fabric) (fun _ _ => rfl) l s
@[simp] theorem State.regs0_topo (s : State) (l : List Fld) : (s.regs0 l).topo = s.topo := foldl_same (f := State.reg0) (fun t => t.topo) (fun _ _ => rfl) l s
@[simp] theorem State.regs0_tiles (s : State) (l : List Fld) : (s.regs0 l).tiles = s.tiles := foldl_same (f := State.reg0) (fun t => t.tiles) (fun _ _ => rfl) l s
@[simp] theorem State.regs0_nextTile (s : State) (l : List Fld) : (s.regs0 l).nextTile = s.nextTile := foldl_same (f := State.reg0) (fun t => t.nextTile) (fun _ _ => rfl) l s
@[simp] theorem State.regs0_arming (s : State) (l : List Fld) : (s.regs0 l).arming = s.arming := foldl_same (f := State.reg0) (fun t => t.arming) (fun _ _ => rfl) l s
@[simp] theorem State.regs0_injects (s : State) (l : List Fld) : (s.regs0 l).injects = s.injects := foldl_same (f := State.reg0) (fun t => t.injects) (fun _ _ => rfl) l s
@[simp] theorem State.regs0_routers (s : State) (l : List Fld) : (s.regs0 l).routers = s.routers := foldl_same (f := State.reg0) (fun t => t.routers) (fun _ _ => rfl) l s
@[simp] theorem State.regs0_areas (s : State) (l : List Fld) : (s.regs0 l).areas = s.areas := foldl_same (f := State.reg0) (fun t => t.areas) (fun _ _ => rfl) l s
@[simp] theorem State.regs0_decided (s : State) (l : List Fld) : (s.regs0 l).decided = s.decided := foldl_same (f := State.reg0) (fun t => t.decided) (fun _ _ => rfl) l s
@[simp] theorem State.regs0_stepSlots (s : State) (l : List Fld) : (s.regs0 l).stepSlots = s.stepSlots := foldl_same (f := State.reg0) (fun t => t.stepSlots) (fun _ _ => rfl) l s
@[simp] theorem State.regs0_hands (s : State) (l : List Fld) : (s.regs0 l).hands = s.hands := foldl_same (f := State.reg0) (fun t => t.hands) (fun _ _ => rfl) l s
@[simp] theorem State.regs0_kitty (s : State) (l : List Fld) : (s.regs0 l).kitty = s.kitty := foldl_same (f := State.reg0) (fun t => t.kitty) (fun _ _ => rfl) l s
@[simp] theorem State.regs0_steps (s : State) (l : List Fld) : (s.regs0 l).steps = s.steps := foldl_same (f := State.reg0) (fun t => t.steps) (fun _ _ => rfl) l s
@[simp] theorem State.regs0_entries (s : State) (l : List Fld) : (s.regs0 l).entries = s.entries := foldl_same (f := State.reg0) (fun t => t.entries) (fun _ _ => rfl) l s
@[simp] theorem State.regs0_treeNodes (s : State) (l : List Fld) : (s.regs0 l).treeNodes = s.treeNodes := foldl_same (f := State.reg0) (fun t => t.treeNodes) (fun _ _ => rfl) l s
@[simp] theorem State.regs0_variants (s : State) (l : List Fld) : (s.regs0 l).variants = s.variants := foldl_same (f := State.reg0) (fun t => t.variants) (fun _ _ => rfl) l s
@[simp] theorem State.regs0_dealing (s : State) (l : List Fld) : (s.regs0 l).dealing = s.dealing := foldl_same (f := State.reg0) (fun t => t.dealing) (fun _ _ => rfl) l s
@[simp] theorem State.regs0_accounts (s : State) (l : List Fld) : (s.regs0 l).accounts = s.accounts := foldl_same (f := State.reg0) (fun t => t.accounts) (fun _ _ => rfl) l s
@[simp] theorem State.regs0_launches (s : State) (l : List Fld) : (s.regs0 l).launches = s.launches := foldl_same (f := State.reg0) (fun t => t.launches) (fun _ _ => rfl) l s
@[simp] theorem State.regs0_nextLaunch (s : State) (l : List Fld) : (s.regs0 l).nextLaunch = s.nextLaunch := foldl_same (f := State.reg0) (fun t => t.nextLaunch) (fun _ _ => rfl) l s
@[simp] theorem State.regs0_rings (s : State) (l : List Fld) : (s.regs0 l).rings = s.rings := foldl_same (f := State.reg0) (fun t => t.rings) (fun _ _ => rfl) l s
@[simp] theorem State.regs0_programs (s : State) (l : List Fld) : (s.regs0 l).programs = s.programs := foldl_same (f := State.reg0) (fun t => t.programs) (fun _ _ => rfl) l s
@[simp] theorem State.regs0_coreFree (s : State) (l : List Fld) : (s.regs0 l).coreFree = s.coreFree := foldl_same (f := State.reg0) (fun t => t.coreFree) (fun _ _ => rfl) l s
@[simp] theorem State.regs0_phaseSince (s : State) (l : List Fld) : (s.regs0 l).phaseSince = s.phaseSince := foldl_same (f := State.reg0) (fun t => t.phaseSince) (fun _ _ => rfl) l s
@[simp] theorem State.regs0_phaseNs (s : State) (l : List Fld) : (s.regs0 l).phaseNs = s.phaseNs := foldl_same (f := State.reg0) (fun t => t.phaseNs) (fun _ _ => rfl) l s
@[simp] theorem State.regs0_draws (s : State) (l : List Fld) : (s.regs0 l).draws = s.draws := foldl_same (f := State.reg0) (fun t => t.draws) (fun _ _ => rfl) l s
@[simp] theorem State.regs0_units (s : State) (l : List Fld) : (s.regs0 l).units = s.units := foldl_same (f := State.reg0) (fun t => t.units) (fun _ _ => rfl) l s
@[simp] theorem State.regs0_bankMap (s : State) (l : List Fld) : (s.regs0 l).bankMap = s.bankMap := foldl_same (f := State.reg0) (fun t => t.bankMap) (fun _ _ => rfl) l s
@[simp] theorem State.regs0_badBanks (s : State) (l : List Fld) : (s.regs0 l).badBanks = s.badBanks := foldl_same (f := State.reg0) (fun t => t.badBanks) (fun _ _ => rfl) l s
@[simp] theorem State.regs0_selfDue (s : State) (l : List Fld) : (s.regs0 l).selfDue = s.selfDue := foldl_same (f := State.reg0) (fun t => t.selfDue) (fun _ _ => rfl) l s
@[simp] theorem State.regs0_recordDue (s : State) (l : List Fld) : (s.regs0 l).recordDue = s.recordDue := foldl_same (f := State.reg0) (fun t => t.recordDue) (fun _ _ => rfl) l s
@[simp] theorem State.regs0_slots (s : State) (l : List Fld) : (s.regs0 l).slots = s.slots := foldl_same (f := State.reg0) (fun t => t.slots) (fun _ _ => rfl) l s
@[simp] theorem State.regs0_switches (s : State) (l : List Fld) : (s.regs0 l).switches = s.switches := foldl_same (f := State.reg0) (fun t => t.switches) (fun _ _ => rfl) l s
@[simp] theorem State.regs0_windowTurn (s : State) (l : List Fld) : (s.regs0 l).windowTurn = s.windowTurn := foldl_same (f := State.reg0) (fun t => t.windowTurn) (fun _ _ => rfl) l s
@[simp] theorem State.regs0_recheck (s : State) (l : List Fld) : (s.regs0 l).recheck = s.recheck := foldl_same (f := State.reg0) (fun t => t.recheck) (fun _ _ => rfl) l s
@[simp] theorem State.regs0_recheckAt (s : State) (l : List Fld) : (s.regs0 l).recheckAt = s.recheckAt := foldl_same (f := State.reg0) (fun t => t.recheckAt) (fun _ _ => rfl) l s
@[simp] theorem State.regs0_mgmt (s : State) (l : List Fld) : (s.regs0 l).mgmt = s.mgmt := foldl_same (f := State.reg0) (fun t => t.mgmt) (fun _ _ => rfl) l s
@[simp] theorem State.regs0_power (s : State) (l : List Fld) : (s.regs0 l).power = s.power := foldl_same (f := State.reg0) (fun t => t.power) (fun _ _ => rfl) l s
@[simp] theorem State.regs0_sec (s : State) (l : List Fld) : (s.regs0 l).sec = s.sec := foldl_same (f := State.reg0) (fun t => t.sec) (fun _ _ => rfl) l s
@[simp] theorem State.regs0_clkMoved (s : State) (l : List Fld) : (s.regs0 l).clkMoved = s.clkMoved := foldl_same (f := State.reg0) (fun t => t.clkMoved) (fun _ _ => rfl) l s
@[simp] theorem State.regs0_clkBring (s : State) (l : List Fld) : (s.regs0 l).clkBring = s.clkBring := foldl_same (f := State.reg0) (fun t => t.clkBring) (fun _ _ => rfl) l s
@[simp] theorem State.regs0_badSince (s : State) (l : List Fld) : (s.regs0 l).badSince = s.badSince := foldl_same (f := State.reg0) (fun t => t.badSince) (fun _ _ => rfl) l s
@[simp] theorem State.regs0_tableWaits (s : State) (l : List Fld) : (s.regs0 l).tableWaits = s.tableWaits := foldl_same (f := State.reg0) (fun t => t.tableWaits) (fun _ _ => rfl) l s
@[simp] theorem State.regs0_cacheSet (s : State) (l : List Fld) : (s.regs0 l).cacheSet = s.cacheSet := foldl_same (f := State.reg0) (fun t => t.cacheSet) (fun _ _ => rfl) l s
@[simp] theorem State.regs0_ringLanded (s : State) (l : List Fld) : (s.regs0 l).ringLanded = s.ringLanded := foldl_same (f := State.reg0) (fun t => t.ringLanded) (fun _ _ => rfl) l s
@[simp] theorem State.regs0_selfNow (s : State) (l : List Fld) : (s.regs0 l).selfNow = s.selfNow := foldl_same (f := State.reg0) (fun t => t.selfNow) (fun _ _ => rfl) l s

/-! raise. -/

@[simp] theorem State.raise_now (s : State) (h v : Nat) : (s.raise h v).now = s.now := by
  unfold State.raise; split <;> [split <;> rfl; rfl]
@[simp] theorem State.raise_freeCtr (s : State) (h v : Nat) : (s.raise h v).freeCtr = s.freeCtr := by
  unfold State.raise; split <;> [split <;> rfl; rfl]
@[simp] theorem State.raise_regs (s : State) (h v : Nat) : (s.raise h v).regs = s.regs := by
  unfold State.raise; split <;> [split <;> rfl; rfl]
@[simp] theorem State.raise_mem (s : State) (h v : Nat) : (s.raise h v).mem = s.mem := by
  unfold State.raise; split <;> [split <;> rfl; rfl]
@[simp] theorem State.raise_pending (s : State) (h v : Nat) : (s.raise h v).pending = s.pending := by
  unfold State.raise; split <;> [split <;> rfl; rfl]
@[simp] theorem State.raise_score (s : State) (h v : Nat) : (s.raise h v).score = s.score := by
  unfold State.raise; split <;> [split <;> rfl; rfl]
@[simp] theorem State.raise_chans (s : State) (h v : Nat) : (s.raise h v).chans = s.chans := by
  unfold State.raise; split <;> [split <;> rfl; rfl]
@[simp] theorem State.raise_cmds (s : State) (h v : Nat) : (s.raise h v).cmds = s.cmds := by
  unfold State.raise; split <;> [split <;> rfl; rfl]
@[simp] theorem State.raise_nextCmd (s : State) (h v : Nat) : (s.raise h v).nextCmd = s.nextCmd := by
  unfold State.raise; split <;> [split <;> rfl; rfl]
@[simp] theorem State.raise_doneCtr (s : State) (h v : Nat) : (s.raise h v).doneCtr = s.doneCtr := by
  unfold State.raise; split <;> [split <;> rfl; rfl]
@[simp] theorem State.raise_grants (s : State) (h v : Nat) : (s.raise h v).grants = s.grants := by
  unfold State.raise; split <;> [split <;> rfl; rfl]
@[simp] theorem State.raise_hold (s : State) (h v : Nat) : (s.raise h v).hold = s.hold := by
  unfold State.raise; split <;> [split <;> rfl; rfl]
@[simp] theorem State.raise_late (s : State) (h v : Nat) : (s.raise h v).late = s.late := by
  unfold State.raise; split <;> [split <;> rfl; rfl]
@[simp] theorem State.raise_ctxs (s : State) (h v : Nat) : (s.raise h v).ctxs = s.ctxs := by
  unfold State.raise; split <;> [split <;> rfl; rfl]
@[simp] theorem State.raise_allocs (s : State) (h v : Nat) : (s.raise h v).allocs = s.allocs := by
  unfold State.raise; split <;> [split <;> rfl; rfl]
@[simp] theorem State.raise_ranges (s : State) (h v : Nat) : (s.raise h v).ranges = s.ranges := by
  unfold State.raise; split <;> [split <;> rfl; rfl]
@[simp] theorem State.raise_windows (s : State) (h v : Nat) : (s.raise h v).windows = s.windows := by
  unfold State.raise; split <;> [split <;> rfl; rfl]
@[simp] theorem State.raise_moves (s : State) (h v : Nat) : (s.raise h v).moves = s.moves := by
  unfold State.raise; split <;> [split <;> rfl; rfl]
@[simp] theorem State.raise_nextMove (s : State) (h v : Nat) : (s.raise h v).nextMove = s.nextMove := by
  unfold State.raise; split <;> [split <;> rfl; rfl]
@[simp] theorem State.raise_wants (s : State) (h v : Nat) : (s.raise h v).wants = s.wants := by
  unfold State.raise; split <;> [split <;> rfl; rfl]
@[simp] theorem State.raise_fwds (s : State) (h v : Nat) : (s.raise h v).fwds = s.fwds := by
  unfold State.raise; split <;> [split <;> rfl; rfl]
@[simp] theorem State.raise_remaps (s : State) (h v : Nat) : (s.raise h v).remaps = s.remaps := by
  unfold State.raise; split <;> [split <;> rfl; rfl]
@[simp] theorem State.raise_tlbs (s : State) (h v : Nat) : (s.raise h v).tlbs = s.tlbs := by
  unfold State.raise; split <;> [split <;> rfl; rfl]
@[simp] theorem State.raise_faults (s : State) (h v : Nat) : (s.raise h v).faults = s.faults := by
  unfold State.raise; split <;> [split <;> rfl; rfl]
@[simp] theorem State.raise_nextFault (s : State) (h v : Nat) : (s.raise h v).nextFault = s.nextFault := by
  unfold State.raise; split <;> [split <;> rfl; rfl]
@[simp] theorem State.raise_descs (s : State) (h v : Nat) : (s.raise h v).descs = s.descs := by
  unfold State.raise; split <;> [split <;> rfl; rfl]
@[simp] theorem State.raise_nextDesc (s : State) (h v : Nat) : (s.raise h v).nextDesc = s.nextDesc := by
  unfold State.raise; split <;> [split <;> rfl; rfl]
@[simp] theorem State.raise_fabric (s : State) (h v : Nat) : (s.raise h v).fabric = s.fabric := by
  unfold State.raise; split <;> [split <;> rfl; rfl]
@[simp] theorem State.raise_topo (s : State) (h v : Nat) : (s.raise h v).topo = s.topo := by
  unfold State.raise; split <;> [split <;> rfl; rfl]
@[simp] theorem State.raise_tiles (s : State) (h v : Nat) : (s.raise h v).tiles = s.tiles := by
  unfold State.raise; split <;> [split <;> rfl; rfl]
@[simp] theorem State.raise_nextTile (s : State) (h v : Nat) : (s.raise h v).nextTile = s.nextTile := by
  unfold State.raise; split <;> [split <;> rfl; rfl]
@[simp] theorem State.raise_arming (s : State) (h v : Nat) : (s.raise h v).arming = s.arming := by
  unfold State.raise; split <;> [split <;> rfl; rfl]
@[simp] theorem State.raise_injects (s : State) (h v : Nat) : (s.raise h v).injects = s.injects := by
  unfold State.raise; split <;> [split <;> rfl; rfl]
@[simp] theorem State.raise_routers (s : State) (h v : Nat) : (s.raise h v).routers = s.routers := by
  unfold State.raise; split <;> [split <;> rfl; rfl]
@[simp] theorem State.raise_areas (s : State) (h v : Nat) : (s.raise h v).areas = s.areas := by
  unfold State.raise; split <;> [split <;> rfl; rfl]
@[simp] theorem State.raise_decided (s : State) (h v : Nat) : (s.raise h v).decided = s.decided := by
  unfold State.raise; split <;> [split <;> rfl; rfl]
@[simp] theorem State.raise_stepSlots (s : State) (h v : Nat) : (s.raise h v).stepSlots = s.stepSlots := by
  unfold State.raise; split <;> [split <;> rfl; rfl]
@[simp] theorem State.raise_hands (s : State) (h v : Nat) : (s.raise h v).hands = s.hands := by
  unfold State.raise; split <;> [split <;> rfl; rfl]
@[simp] theorem State.raise_kitty (s : State) (h v : Nat) : (s.raise h v).kitty = s.kitty := by
  unfold State.raise; split <;> [split <;> rfl; rfl]
@[simp] theorem State.raise_steps (s : State) (h v : Nat) : (s.raise h v).steps = s.steps := by
  unfold State.raise; split <;> [split <;> rfl; rfl]
@[simp] theorem State.raise_entries (s : State) (h v : Nat) : (s.raise h v).entries = s.entries := by
  unfold State.raise; split <;> [split <;> rfl; rfl]
@[simp] theorem State.raise_treeNodes (s : State) (h v : Nat) : (s.raise h v).treeNodes = s.treeNodes := by
  unfold State.raise; split <;> [split <;> rfl; rfl]
@[simp] theorem State.raise_variants (s : State) (h v : Nat) : (s.raise h v).variants = s.variants := by
  unfold State.raise; split <;> [split <;> rfl; rfl]
@[simp] theorem State.raise_dealing (s : State) (h v : Nat) : (s.raise h v).dealing = s.dealing := by
  unfold State.raise; split <;> [split <;> rfl; rfl]
@[simp] theorem State.raise_accounts (s : State) (h v : Nat) : (s.raise h v).accounts = s.accounts := by
  unfold State.raise; split <;> [split <;> rfl; rfl]
@[simp] theorem State.raise_launches (s : State) (h v : Nat) : (s.raise h v).launches = s.launches := by
  unfold State.raise; split <;> [split <;> rfl; rfl]
@[simp] theorem State.raise_nextLaunch (s : State) (h v : Nat) : (s.raise h v).nextLaunch = s.nextLaunch := by
  unfold State.raise; split <;> [split <;> rfl; rfl]
@[simp] theorem State.raise_rings (s : State) (h v : Nat) : (s.raise h v).rings = s.rings := by
  unfold State.raise; split <;> [split <;> rfl; rfl]
@[simp] theorem State.raise_programs (s : State) (h v : Nat) : (s.raise h v).programs = s.programs := by
  unfold State.raise; split <;> [split <;> rfl; rfl]
@[simp] theorem State.raise_coreFree (s : State) (h v : Nat) : (s.raise h v).coreFree = s.coreFree := by
  unfold State.raise; split <;> [split <;> rfl; rfl]
@[simp] theorem State.raise_phaseSince (s : State) (h v : Nat) : (s.raise h v).phaseSince = s.phaseSince := by
  unfold State.raise; split <;> [split <;> rfl; rfl]
@[simp] theorem State.raise_phaseNs (s : State) (h v : Nat) : (s.raise h v).phaseNs = s.phaseNs := by
  unfold State.raise; split <;> [split <;> rfl; rfl]
@[simp] theorem State.raise_draws (s : State) (h v : Nat) : (s.raise h v).draws = s.draws := by
  unfold State.raise; split <;> [split <;> rfl; rfl]
@[simp] theorem State.raise_units (s : State) (h v : Nat) : (s.raise h v).units = s.units := by
  unfold State.raise; split <;> [split <;> rfl; rfl]
@[simp] theorem State.raise_bankMap (s : State) (h v : Nat) : (s.raise h v).bankMap = s.bankMap := by
  unfold State.raise; split <;> [split <;> rfl; rfl]
@[simp] theorem State.raise_badBanks (s : State) (h v : Nat) : (s.raise h v).badBanks = s.badBanks := by
  unfold State.raise; split <;> [split <;> rfl; rfl]
@[simp] theorem State.raise_selfDue (s : State) (h v : Nat) : (s.raise h v).selfDue = s.selfDue := by
  unfold State.raise; split <;> [split <;> rfl; rfl]
@[simp] theorem State.raise_recordDue (s : State) (h v : Nat) : (s.raise h v).recordDue = s.recordDue := by
  unfold State.raise; split <;> [split <;> rfl; rfl]
@[simp] theorem State.raise_slots (s : State) (h v : Nat) : (s.raise h v).slots = s.slots := by
  unfold State.raise; split <;> [split <;> rfl; rfl]
@[simp] theorem State.raise_switches (s : State) (h v : Nat) : (s.raise h v).switches = s.switches := by
  unfold State.raise; split <;> [split <;> rfl; rfl]
@[simp] theorem State.raise_windowTurn (s : State) (h v : Nat) : (s.raise h v).windowTurn = s.windowTurn := by
  unfold State.raise; split <;> [split <;> rfl; rfl]
@[simp] theorem State.raise_recheck (s : State) (h v : Nat) : (s.raise h v).recheck = s.recheck := by
  unfold State.raise; split <;> [split <;> rfl; rfl]
@[simp] theorem State.raise_recheckAt (s : State) (h v : Nat) : (s.raise h v).recheckAt = s.recheckAt := by
  unfold State.raise; split <;> [split <;> rfl; rfl]
@[simp] theorem State.raise_mgmt (s : State) (h v : Nat) : (s.raise h v).mgmt = s.mgmt := by
  unfold State.raise; split <;> [split <;> rfl; rfl]
@[simp] theorem State.raise_power (s : State) (h v : Nat) : (s.raise h v).power = s.power := by
  unfold State.raise; split <;> [split <;> rfl; rfl]
@[simp] theorem State.raise_sec (s : State) (h v : Nat) : (s.raise h v).sec = s.sec := by
  unfold State.raise; split <;> [split <;> rfl; rfl]
@[simp] theorem State.raise_clkMoved (s : State) (h v : Nat) : (s.raise h v).clkMoved = s.clkMoved := by
  unfold State.raise; split <;> [split <;> rfl; rfl]
@[simp] theorem State.raise_clkBring (s : State) (h v : Nat) : (s.raise h v).clkBring = s.clkBring := by
  unfold State.raise; split <;> [split <;> rfl; rfl]
@[simp] theorem State.raise_badSince (s : State) (h v : Nat) : (s.raise h v).badSince = s.badSince := by
  unfold State.raise; split <;> [split <;> rfl; rfl]
@[simp] theorem State.raise_tableWaits (s : State) (h v : Nat) : (s.raise h v).tableWaits = s.tableWaits := by
  unfold State.raise; split <;> [split <;> rfl; rfl]
@[simp] theorem State.raise_cacheSet (s : State) (h v : Nat) : (s.raise h v).cacheSet = s.cacheSet := by
  unfold State.raise; split <;> [split <;> rfl; rfl]
@[simp] theorem State.raise_ringLanded (s : State) (h v : Nat) : (s.raise h v).ringLanded = s.ringLanded := by
  unfold State.raise; split <;> [split <;> rfl; rfl]
@[simp] theorem State.raise_selfNow (s : State) (h v : Nat) : (s.raise h v).selfNow = s.selfNow := by
  unfold State.raise; split <;> [split <;> rfl; rfl]
@[simp] theorem State.raise_rd (s : State) (h v : Nat) (g : Fld) : (s.raise h v).rd g = s.rd g := congrArg (fun r => (aFind r g.key).getD g.rst) (State.raise_regs s h v)

/-! hostStore. -/

@[simp] theorem State.hostStore_now (s : State) (h addr n v : Nat) : (s.hostStore h addr n v).now = s.now := by
  unfold State.hostStore; split <;> rfl
@[simp] theorem State.hostStore_freeCtr (s : State) (h addr n v : Nat) : (s.hostStore h addr n v).freeCtr = s.freeCtr := by
  unfold State.hostStore; split <;> rfl
@[simp] theorem State.hostStore_regs (s : State) (h addr n v : Nat) : (s.hostStore h addr n v).regs = s.regs := by
  unfold State.hostStore; split <;> rfl
@[simp] theorem State.hostStore_out (s : State) (h addr n v : Nat) : (s.hostStore h addr n v).out = s.out := by
  unfold State.hostStore; split <;> rfl
@[simp] theorem State.hostStore_pending (s : State) (h addr n v : Nat) : (s.hostStore h addr n v).pending = s.pending := by
  unfold State.hostStore; split <;> rfl
@[simp] theorem State.hostStore_score (s : State) (h addr n v : Nat) : (s.hostStore h addr n v).score = s.score := by
  unfold State.hostStore; split <;> rfl
@[simp] theorem State.hostStore_ports (s : State) (h addr n v : Nat) : (s.hostStore h addr n v).ports = s.ports := by
  unfold State.hostStore; split <;> rfl
@[simp] theorem State.hostStore_chans (s : State) (h addr n v : Nat) : (s.hostStore h addr n v).chans = s.chans := by
  unfold State.hostStore; split <;> rfl
@[simp] theorem State.hostStore_cmds (s : State) (h addr n v : Nat) : (s.hostStore h addr n v).cmds = s.cmds := by
  unfold State.hostStore; split <;> rfl
@[simp] theorem State.hostStore_nextCmd (s : State) (h addr n v : Nat) : (s.hostStore h addr n v).nextCmd = s.nextCmd := by
  unfold State.hostStore; split <;> rfl
@[simp] theorem State.hostStore_doneCtr (s : State) (h addr n v : Nat) : (s.hostStore h addr n v).doneCtr = s.doneCtr := by
  unfold State.hostStore; split <;> rfl
@[simp] theorem State.hostStore_grants (s : State) (h addr n v : Nat) : (s.hostStore h addr n v).grants = s.grants := by
  unfold State.hostStore; split <;> rfl
@[simp] theorem State.hostStore_hold (s : State) (h addr n v : Nat) : (s.hostStore h addr n v).hold = s.hold := by
  unfold State.hostStore; split <;> rfl
@[simp] theorem State.hostStore_late (s : State) (h addr n v : Nat) : (s.hostStore h addr n v).late = s.late := by
  unfold State.hostStore; split <;> rfl
@[simp] theorem State.hostStore_ctxs (s : State) (h addr n v : Nat) : (s.hostStore h addr n v).ctxs = s.ctxs := by
  unfold State.hostStore; split <;> rfl
@[simp] theorem State.hostStore_allocs (s : State) (h addr n v : Nat) : (s.hostStore h addr n v).allocs = s.allocs := by
  unfold State.hostStore; split <;> rfl
@[simp] theorem State.hostStore_ranges (s : State) (h addr n v : Nat) : (s.hostStore h addr n v).ranges = s.ranges := by
  unfold State.hostStore; split <;> rfl
@[simp] theorem State.hostStore_windows (s : State) (h addr n v : Nat) : (s.hostStore h addr n v).windows = s.windows := by
  unfold State.hostStore; split <;> rfl
@[simp] theorem State.hostStore_moves (s : State) (h addr n v : Nat) : (s.hostStore h addr n v).moves = s.moves := by
  unfold State.hostStore; split <;> rfl
@[simp] theorem State.hostStore_nextMove (s : State) (h addr n v : Nat) : (s.hostStore h addr n v).nextMove = s.nextMove := by
  unfold State.hostStore; split <;> rfl
@[simp] theorem State.hostStore_wants (s : State) (h addr n v : Nat) : (s.hostStore h addr n v).wants = s.wants := by
  unfold State.hostStore; split <;> rfl
@[simp] theorem State.hostStore_fwds (s : State) (h addr n v : Nat) : (s.hostStore h addr n v).fwds = s.fwds := by
  unfold State.hostStore; split <;> rfl
@[simp] theorem State.hostStore_remaps (s : State) (h addr n v : Nat) : (s.hostStore h addr n v).remaps = s.remaps := by
  unfold State.hostStore; split <;> rfl
@[simp] theorem State.hostStore_tlbs (s : State) (h addr n v : Nat) : (s.hostStore h addr n v).tlbs = s.tlbs := by
  unfold State.hostStore; split <;> rfl
@[simp] theorem State.hostStore_faults (s : State) (h addr n v : Nat) : (s.hostStore h addr n v).faults = s.faults := by
  unfold State.hostStore; split <;> rfl
@[simp] theorem State.hostStore_nextFault (s : State) (h addr n v : Nat) : (s.hostStore h addr n v).nextFault = s.nextFault := by
  unfold State.hostStore; split <;> rfl
@[simp] theorem State.hostStore_descs (s : State) (h addr n v : Nat) : (s.hostStore h addr n v).descs = s.descs := by
  unfold State.hostStore; split <;> rfl
@[simp] theorem State.hostStore_nextDesc (s : State) (h addr n v : Nat) : (s.hostStore h addr n v).nextDesc = s.nextDesc := by
  unfold State.hostStore; split <;> rfl
@[simp] theorem State.hostStore_fabric (s : State) (h addr n v : Nat) : (s.hostStore h addr n v).fabric = s.fabric := by
  unfold State.hostStore; split <;> rfl
@[simp] theorem State.hostStore_topo (s : State) (h addr n v : Nat) : (s.hostStore h addr n v).topo = s.topo := by
  unfold State.hostStore; split <;> rfl
@[simp] theorem State.hostStore_tiles (s : State) (h addr n v : Nat) : (s.hostStore h addr n v).tiles = s.tiles := by
  unfold State.hostStore; split <;> rfl
@[simp] theorem State.hostStore_nextTile (s : State) (h addr n v : Nat) : (s.hostStore h addr n v).nextTile = s.nextTile := by
  unfold State.hostStore; split <;> rfl
@[simp] theorem State.hostStore_arming (s : State) (h addr n v : Nat) : (s.hostStore h addr n v).arming = s.arming := by
  unfold State.hostStore; split <;> rfl
@[simp] theorem State.hostStore_injects (s : State) (h addr n v : Nat) : (s.hostStore h addr n v).injects = s.injects := by
  unfold State.hostStore; split <;> rfl
@[simp] theorem State.hostStore_routers (s : State) (h addr n v : Nat) : (s.hostStore h addr n v).routers = s.routers := by
  unfold State.hostStore; split <;> rfl
@[simp] theorem State.hostStore_areas (s : State) (h addr n v : Nat) : (s.hostStore h addr n v).areas = s.areas := by
  unfold State.hostStore; split <;> rfl
@[simp] theorem State.hostStore_decided (s : State) (h addr n v : Nat) : (s.hostStore h addr n v).decided = s.decided := by
  unfold State.hostStore; split <;> rfl
@[simp] theorem State.hostStore_stepSlots (s : State) (h addr n v : Nat) : (s.hostStore h addr n v).stepSlots = s.stepSlots := by
  unfold State.hostStore; split <;> rfl
@[simp] theorem State.hostStore_hands (s : State) (h addr n v : Nat) : (s.hostStore h addr n v).hands = s.hands := by
  unfold State.hostStore; split <;> rfl
@[simp] theorem State.hostStore_kitty (s : State) (h addr n v : Nat) : (s.hostStore h addr n v).kitty = s.kitty := by
  unfold State.hostStore; split <;> rfl
@[simp] theorem State.hostStore_steps (s : State) (h addr n v : Nat) : (s.hostStore h addr n v).steps = s.steps := by
  unfold State.hostStore; split <;> rfl
@[simp] theorem State.hostStore_entries (s : State) (h addr n v : Nat) : (s.hostStore h addr n v).entries = s.entries := by
  unfold State.hostStore; split <;> rfl
@[simp] theorem State.hostStore_treeNodes (s : State) (h addr n v : Nat) : (s.hostStore h addr n v).treeNodes = s.treeNodes := by
  unfold State.hostStore; split <;> rfl
@[simp] theorem State.hostStore_variants (s : State) (h addr n v : Nat) : (s.hostStore h addr n v).variants = s.variants := by
  unfold State.hostStore; split <;> rfl
@[simp] theorem State.hostStore_dealing (s : State) (h addr n v : Nat) : (s.hostStore h addr n v).dealing = s.dealing := by
  unfold State.hostStore; split <;> rfl
@[simp] theorem State.hostStore_accounts (s : State) (h addr n v : Nat) : (s.hostStore h addr n v).accounts = s.accounts := by
  unfold State.hostStore; split <;> rfl
@[simp] theorem State.hostStore_launches (s : State) (h addr n v : Nat) : (s.hostStore h addr n v).launches = s.launches := by
  unfold State.hostStore; split <;> rfl
@[simp] theorem State.hostStore_nextLaunch (s : State) (h addr n v : Nat) : (s.hostStore h addr n v).nextLaunch = s.nextLaunch := by
  unfold State.hostStore; split <;> rfl
@[simp] theorem State.hostStore_rings (s : State) (h addr n v : Nat) : (s.hostStore h addr n v).rings = s.rings := by
  unfold State.hostStore; split <;> rfl
@[simp] theorem State.hostStore_programs (s : State) (h addr n v : Nat) : (s.hostStore h addr n v).programs = s.programs := by
  unfold State.hostStore; split <;> rfl
@[simp] theorem State.hostStore_coreFree (s : State) (h addr n v : Nat) : (s.hostStore h addr n v).coreFree = s.coreFree := by
  unfold State.hostStore; split <;> rfl
@[simp] theorem State.hostStore_phaseSince (s : State) (h addr n v : Nat) : (s.hostStore h addr n v).phaseSince = s.phaseSince := by
  unfold State.hostStore; split <;> rfl
@[simp] theorem State.hostStore_phaseNs (s : State) (h addr n v : Nat) : (s.hostStore h addr n v).phaseNs = s.phaseNs := by
  unfold State.hostStore; split <;> rfl
@[simp] theorem State.hostStore_draws (s : State) (h addr n v : Nat) : (s.hostStore h addr n v).draws = s.draws := by
  unfold State.hostStore; split <;> rfl
@[simp] theorem State.hostStore_units (s : State) (h addr n v : Nat) : (s.hostStore h addr n v).units = s.units := by
  unfold State.hostStore; split <;> rfl
@[simp] theorem State.hostStore_bankMap (s : State) (h addr n v : Nat) : (s.hostStore h addr n v).bankMap = s.bankMap := by
  unfold State.hostStore; split <;> rfl
@[simp] theorem State.hostStore_badBanks (s : State) (h addr n v : Nat) : (s.hostStore h addr n v).badBanks = s.badBanks := by
  unfold State.hostStore; split <;> rfl
@[simp] theorem State.hostStore_selfDue (s : State) (h addr n v : Nat) : (s.hostStore h addr n v).selfDue = s.selfDue := by
  unfold State.hostStore; split <;> rfl
@[simp] theorem State.hostStore_recordDue (s : State) (h addr n v : Nat) : (s.hostStore h addr n v).recordDue = s.recordDue := by
  unfold State.hostStore; split <;> rfl
@[simp] theorem State.hostStore_slots (s : State) (h addr n v : Nat) : (s.hostStore h addr n v).slots = s.slots := by
  unfold State.hostStore; split <;> rfl
@[simp] theorem State.hostStore_switches (s : State) (h addr n v : Nat) : (s.hostStore h addr n v).switches = s.switches := by
  unfold State.hostStore; split <;> rfl
@[simp] theorem State.hostStore_windowTurn (s : State) (h addr n v : Nat) : (s.hostStore h addr n v).windowTurn = s.windowTurn := by
  unfold State.hostStore; split <;> rfl
@[simp] theorem State.hostStore_recheck (s : State) (h addr n v : Nat) : (s.hostStore h addr n v).recheck = s.recheck := by
  unfold State.hostStore; split <;> rfl
@[simp] theorem State.hostStore_recheckAt (s : State) (h addr n v : Nat) : (s.hostStore h addr n v).recheckAt = s.recheckAt := by
  unfold State.hostStore; split <;> rfl
@[simp] theorem State.hostStore_mgmt (s : State) (h addr n v : Nat) : (s.hostStore h addr n v).mgmt = s.mgmt := by
  unfold State.hostStore; split <;> rfl
@[simp] theorem State.hostStore_power (s : State) (h addr n v : Nat) : (s.hostStore h addr n v).power = s.power := by
  unfold State.hostStore; split <;> rfl
@[simp] theorem State.hostStore_sec (s : State) (h addr n v : Nat) : (s.hostStore h addr n v).sec = s.sec := by
  unfold State.hostStore; split <;> rfl
@[simp] theorem State.hostStore_clkMoved (s : State) (h addr n v : Nat) : (s.hostStore h addr n v).clkMoved = s.clkMoved := by
  unfold State.hostStore; split <;> rfl
@[simp] theorem State.hostStore_clkBring (s : State) (h addr n v : Nat) : (s.hostStore h addr n v).clkBring = s.clkBring := by
  unfold State.hostStore; split <;> rfl
@[simp] theorem State.hostStore_badSince (s : State) (h addr n v : Nat) : (s.hostStore h addr n v).badSince = s.badSince := by
  unfold State.hostStore; split <;> rfl
@[simp] theorem State.hostStore_tableWaits (s : State) (h addr n v : Nat) : (s.hostStore h addr n v).tableWaits = s.tableWaits := by
  unfold State.hostStore; split <;> rfl
@[simp] theorem State.hostStore_cacheSet (s : State) (h addr n v : Nat) : (s.hostStore h addr n v).cacheSet = s.cacheSet := by
  unfold State.hostStore; split <;> rfl
@[simp] theorem State.hostStore_ringLanded (s : State) (h addr n v : Nat) : (s.hostStore h addr n v).ringLanded = s.ringLanded := by
  unfold State.hostStore; split <;> rfl
@[simp] theorem State.hostStore_selfNow (s : State) (h addr n v : Nat) : (s.hostStore h addr n v).selfNow = s.selfNow := by
  unfold State.hostStore; split <;> rfl
@[simp] theorem State.hostStore_rd (s : State) (h addr n v : Nat) (g : Fld) : (s.hostStore h addr n v).rd g = s.rd g := congrArg (fun r => (aFind r g.key).getD g.rst) (State.hostStore_regs s h addr n v)

/-! raiseIf. -/

@[simp] theorem State.raiseIf_now (s : State) (h : Nat) (en vec : Fld) : (s.raiseIf h en vec).now = s.now := by
  unfold State.raiseIf; split <;> first | exact State.raise_now _ _ _ | rfl
@[simp] theorem State.raiseIf_freeCtr (s : State) (h : Nat) (en vec : Fld) : (s.raiseIf h en vec).freeCtr = s.freeCtr := by
  unfold State.raiseIf; split <;> first | exact State.raise_freeCtr _ _ _ | rfl
@[simp] theorem State.raiseIf_regs (s : State) (h : Nat) (en vec : Fld) : (s.raiseIf h en vec).regs = s.regs := by
  unfold State.raiseIf; split <;> first | exact State.raise_regs _ _ _ | rfl
@[simp] theorem State.raiseIf_mem (s : State) (h : Nat) (en vec : Fld) : (s.raiseIf h en vec).mem = s.mem := by
  unfold State.raiseIf; split <;> first | exact State.raise_mem _ _ _ | rfl
@[simp] theorem State.raiseIf_pending (s : State) (h : Nat) (en vec : Fld) : (s.raiseIf h en vec).pending = s.pending := by
  unfold State.raiseIf; split <;> first | exact State.raise_pending _ _ _ | rfl
@[simp] theorem State.raiseIf_score (s : State) (h : Nat) (en vec : Fld) : (s.raiseIf h en vec).score = s.score := by
  unfold State.raiseIf; split <;> first | exact State.raise_score _ _ _ | rfl
@[simp] theorem State.raiseIf_chans (s : State) (h : Nat) (en vec : Fld) : (s.raiseIf h en vec).chans = s.chans := by
  unfold State.raiseIf; split <;> first | exact State.raise_chans _ _ _ | rfl
@[simp] theorem State.raiseIf_cmds (s : State) (h : Nat) (en vec : Fld) : (s.raiseIf h en vec).cmds = s.cmds := by
  unfold State.raiseIf; split <;> first | exact State.raise_cmds _ _ _ | rfl
@[simp] theorem State.raiseIf_nextCmd (s : State) (h : Nat) (en vec : Fld) : (s.raiseIf h en vec).nextCmd = s.nextCmd := by
  unfold State.raiseIf; split <;> first | exact State.raise_nextCmd _ _ _ | rfl
@[simp] theorem State.raiseIf_doneCtr (s : State) (h : Nat) (en vec : Fld) : (s.raiseIf h en vec).doneCtr = s.doneCtr := by
  unfold State.raiseIf; split <;> first | exact State.raise_doneCtr _ _ _ | rfl
@[simp] theorem State.raiseIf_grants (s : State) (h : Nat) (en vec : Fld) : (s.raiseIf h en vec).grants = s.grants := by
  unfold State.raiseIf; split <;> first | exact State.raise_grants _ _ _ | rfl
@[simp] theorem State.raiseIf_hold (s : State) (h : Nat) (en vec : Fld) : (s.raiseIf h en vec).hold = s.hold := by
  unfold State.raiseIf; split <;> first | exact State.raise_hold _ _ _ | rfl
@[simp] theorem State.raiseIf_late (s : State) (h : Nat) (en vec : Fld) : (s.raiseIf h en vec).late = s.late := by
  unfold State.raiseIf; split <;> first | exact State.raise_late _ _ _ | rfl
@[simp] theorem State.raiseIf_ctxs (s : State) (h : Nat) (en vec : Fld) : (s.raiseIf h en vec).ctxs = s.ctxs := by
  unfold State.raiseIf; split <;> first | exact State.raise_ctxs _ _ _ | rfl
@[simp] theorem State.raiseIf_allocs (s : State) (h : Nat) (en vec : Fld) : (s.raiseIf h en vec).allocs = s.allocs := by
  unfold State.raiseIf; split <;> first | exact State.raise_allocs _ _ _ | rfl
@[simp] theorem State.raiseIf_ranges (s : State) (h : Nat) (en vec : Fld) : (s.raiseIf h en vec).ranges = s.ranges := by
  unfold State.raiseIf; split <;> first | exact State.raise_ranges _ _ _ | rfl
@[simp] theorem State.raiseIf_windows (s : State) (h : Nat) (en vec : Fld) : (s.raiseIf h en vec).windows = s.windows := by
  unfold State.raiseIf; split <;> first | exact State.raise_windows _ _ _ | rfl
@[simp] theorem State.raiseIf_moves (s : State) (h : Nat) (en vec : Fld) : (s.raiseIf h en vec).moves = s.moves := by
  unfold State.raiseIf; split <;> first | exact State.raise_moves _ _ _ | rfl
@[simp] theorem State.raiseIf_nextMove (s : State) (h : Nat) (en vec : Fld) : (s.raiseIf h en vec).nextMove = s.nextMove := by
  unfold State.raiseIf; split <;> first | exact State.raise_nextMove _ _ _ | rfl
@[simp] theorem State.raiseIf_wants (s : State) (h : Nat) (en vec : Fld) : (s.raiseIf h en vec).wants = s.wants := by
  unfold State.raiseIf; split <;> first | exact State.raise_wants _ _ _ | rfl
@[simp] theorem State.raiseIf_fwds (s : State) (h : Nat) (en vec : Fld) : (s.raiseIf h en vec).fwds = s.fwds := by
  unfold State.raiseIf; split <;> first | exact State.raise_fwds _ _ _ | rfl
@[simp] theorem State.raiseIf_remaps (s : State) (h : Nat) (en vec : Fld) : (s.raiseIf h en vec).remaps = s.remaps := by
  unfold State.raiseIf; split <;> first | exact State.raise_remaps _ _ _ | rfl
@[simp] theorem State.raiseIf_tlbs (s : State) (h : Nat) (en vec : Fld) : (s.raiseIf h en vec).tlbs = s.tlbs := by
  unfold State.raiseIf; split <;> first | exact State.raise_tlbs _ _ _ | rfl
@[simp] theorem State.raiseIf_faults (s : State) (h : Nat) (en vec : Fld) : (s.raiseIf h en vec).faults = s.faults := by
  unfold State.raiseIf; split <;> first | exact State.raise_faults _ _ _ | rfl
@[simp] theorem State.raiseIf_nextFault (s : State) (h : Nat) (en vec : Fld) : (s.raiseIf h en vec).nextFault = s.nextFault := by
  unfold State.raiseIf; split <;> first | exact State.raise_nextFault _ _ _ | rfl
@[simp] theorem State.raiseIf_descs (s : State) (h : Nat) (en vec : Fld) : (s.raiseIf h en vec).descs = s.descs := by
  unfold State.raiseIf; split <;> first | exact State.raise_descs _ _ _ | rfl
@[simp] theorem State.raiseIf_nextDesc (s : State) (h : Nat) (en vec : Fld) : (s.raiseIf h en vec).nextDesc = s.nextDesc := by
  unfold State.raiseIf; split <;> first | exact State.raise_nextDesc _ _ _ | rfl
@[simp] theorem State.raiseIf_fabric (s : State) (h : Nat) (en vec : Fld) : (s.raiseIf h en vec).fabric = s.fabric := by
  unfold State.raiseIf; split <;> first | exact State.raise_fabric _ _ _ | rfl
@[simp] theorem State.raiseIf_topo (s : State) (h : Nat) (en vec : Fld) : (s.raiseIf h en vec).topo = s.topo := by
  unfold State.raiseIf; split <;> first | exact State.raise_topo _ _ _ | rfl
@[simp] theorem State.raiseIf_tiles (s : State) (h : Nat) (en vec : Fld) : (s.raiseIf h en vec).tiles = s.tiles := by
  unfold State.raiseIf; split <;> first | exact State.raise_tiles _ _ _ | rfl
@[simp] theorem State.raiseIf_nextTile (s : State) (h : Nat) (en vec : Fld) : (s.raiseIf h en vec).nextTile = s.nextTile := by
  unfold State.raiseIf; split <;> first | exact State.raise_nextTile _ _ _ | rfl
@[simp] theorem State.raiseIf_arming (s : State) (h : Nat) (en vec : Fld) : (s.raiseIf h en vec).arming = s.arming := by
  unfold State.raiseIf; split <;> first | exact State.raise_arming _ _ _ | rfl
@[simp] theorem State.raiseIf_injects (s : State) (h : Nat) (en vec : Fld) : (s.raiseIf h en vec).injects = s.injects := by
  unfold State.raiseIf; split <;> first | exact State.raise_injects _ _ _ | rfl
@[simp] theorem State.raiseIf_routers (s : State) (h : Nat) (en vec : Fld) : (s.raiseIf h en vec).routers = s.routers := by
  unfold State.raiseIf; split <;> first | exact State.raise_routers _ _ _ | rfl
@[simp] theorem State.raiseIf_areas (s : State) (h : Nat) (en vec : Fld) : (s.raiseIf h en vec).areas = s.areas := by
  unfold State.raiseIf; split <;> first | exact State.raise_areas _ _ _ | rfl
@[simp] theorem State.raiseIf_decided (s : State) (h : Nat) (en vec : Fld) : (s.raiseIf h en vec).decided = s.decided := by
  unfold State.raiseIf; split <;> first | exact State.raise_decided _ _ _ | rfl
@[simp] theorem State.raiseIf_stepSlots (s : State) (h : Nat) (en vec : Fld) : (s.raiseIf h en vec).stepSlots = s.stepSlots := by
  unfold State.raiseIf; split <;> first | exact State.raise_stepSlots _ _ _ | rfl
@[simp] theorem State.raiseIf_hands (s : State) (h : Nat) (en vec : Fld) : (s.raiseIf h en vec).hands = s.hands := by
  unfold State.raiseIf; split <;> first | exact State.raise_hands _ _ _ | rfl
@[simp] theorem State.raiseIf_kitty (s : State) (h : Nat) (en vec : Fld) : (s.raiseIf h en vec).kitty = s.kitty := by
  unfold State.raiseIf; split <;> first | exact State.raise_kitty _ _ _ | rfl
@[simp] theorem State.raiseIf_steps (s : State) (h : Nat) (en vec : Fld) : (s.raiseIf h en vec).steps = s.steps := by
  unfold State.raiseIf; split <;> first | exact State.raise_steps _ _ _ | rfl
@[simp] theorem State.raiseIf_entries (s : State) (h : Nat) (en vec : Fld) : (s.raiseIf h en vec).entries = s.entries := by
  unfold State.raiseIf; split <;> first | exact State.raise_entries _ _ _ | rfl
@[simp] theorem State.raiseIf_treeNodes (s : State) (h : Nat) (en vec : Fld) : (s.raiseIf h en vec).treeNodes = s.treeNodes := by
  unfold State.raiseIf; split <;> first | exact State.raise_treeNodes _ _ _ | rfl
@[simp] theorem State.raiseIf_variants (s : State) (h : Nat) (en vec : Fld) : (s.raiseIf h en vec).variants = s.variants := by
  unfold State.raiseIf; split <;> first | exact State.raise_variants _ _ _ | rfl
@[simp] theorem State.raiseIf_dealing (s : State) (h : Nat) (en vec : Fld) : (s.raiseIf h en vec).dealing = s.dealing := by
  unfold State.raiseIf; split <;> first | exact State.raise_dealing _ _ _ | rfl
@[simp] theorem State.raiseIf_accounts (s : State) (h : Nat) (en vec : Fld) : (s.raiseIf h en vec).accounts = s.accounts := by
  unfold State.raiseIf; split <;> first | exact State.raise_accounts _ _ _ | rfl
@[simp] theorem State.raiseIf_launches (s : State) (h : Nat) (en vec : Fld) : (s.raiseIf h en vec).launches = s.launches := by
  unfold State.raiseIf; split <;> first | exact State.raise_launches _ _ _ | rfl
@[simp] theorem State.raiseIf_nextLaunch (s : State) (h : Nat) (en vec : Fld) : (s.raiseIf h en vec).nextLaunch = s.nextLaunch := by
  unfold State.raiseIf; split <;> first | exact State.raise_nextLaunch _ _ _ | rfl
@[simp] theorem State.raiseIf_rings (s : State) (h : Nat) (en vec : Fld) : (s.raiseIf h en vec).rings = s.rings := by
  unfold State.raiseIf; split <;> first | exact State.raise_rings _ _ _ | rfl
@[simp] theorem State.raiseIf_programs (s : State) (h : Nat) (en vec : Fld) : (s.raiseIf h en vec).programs = s.programs := by
  unfold State.raiseIf; split <;> first | exact State.raise_programs _ _ _ | rfl
@[simp] theorem State.raiseIf_coreFree (s : State) (h : Nat) (en vec : Fld) : (s.raiseIf h en vec).coreFree = s.coreFree := by
  unfold State.raiseIf; split <;> first | exact State.raise_coreFree _ _ _ | rfl
@[simp] theorem State.raiseIf_phaseSince (s : State) (h : Nat) (en vec : Fld) : (s.raiseIf h en vec).phaseSince = s.phaseSince := by
  unfold State.raiseIf; split <;> first | exact State.raise_phaseSince _ _ _ | rfl
@[simp] theorem State.raiseIf_phaseNs (s : State) (h : Nat) (en vec : Fld) : (s.raiseIf h en vec).phaseNs = s.phaseNs := by
  unfold State.raiseIf; split <;> first | exact State.raise_phaseNs _ _ _ | rfl
@[simp] theorem State.raiseIf_draws (s : State) (h : Nat) (en vec : Fld) : (s.raiseIf h en vec).draws = s.draws := by
  unfold State.raiseIf; split <;> first | exact State.raise_draws _ _ _ | rfl
@[simp] theorem State.raiseIf_units (s : State) (h : Nat) (en vec : Fld) : (s.raiseIf h en vec).units = s.units := by
  unfold State.raiseIf; split <;> first | exact State.raise_units _ _ _ | rfl
@[simp] theorem State.raiseIf_bankMap (s : State) (h : Nat) (en vec : Fld) : (s.raiseIf h en vec).bankMap = s.bankMap := by
  unfold State.raiseIf; split <;> first | exact State.raise_bankMap _ _ _ | rfl
@[simp] theorem State.raiseIf_badBanks (s : State) (h : Nat) (en vec : Fld) : (s.raiseIf h en vec).badBanks = s.badBanks := by
  unfold State.raiseIf; split <;> first | exact State.raise_badBanks _ _ _ | rfl
@[simp] theorem State.raiseIf_selfDue (s : State) (h : Nat) (en vec : Fld) : (s.raiseIf h en vec).selfDue = s.selfDue := by
  unfold State.raiseIf; split <;> first | exact State.raise_selfDue _ _ _ | rfl
@[simp] theorem State.raiseIf_recordDue (s : State) (h : Nat) (en vec : Fld) : (s.raiseIf h en vec).recordDue = s.recordDue := by
  unfold State.raiseIf; split <;> first | exact State.raise_recordDue _ _ _ | rfl
@[simp] theorem State.raiseIf_slots (s : State) (h : Nat) (en vec : Fld) : (s.raiseIf h en vec).slots = s.slots := by
  unfold State.raiseIf; split <;> first | exact State.raise_slots _ _ _ | rfl
@[simp] theorem State.raiseIf_switches (s : State) (h : Nat) (en vec : Fld) : (s.raiseIf h en vec).switches = s.switches := by
  unfold State.raiseIf; split <;> first | exact State.raise_switches _ _ _ | rfl
@[simp] theorem State.raiseIf_windowTurn (s : State) (h : Nat) (en vec : Fld) : (s.raiseIf h en vec).windowTurn = s.windowTurn := by
  unfold State.raiseIf; split <;> first | exact State.raise_windowTurn _ _ _ | rfl
@[simp] theorem State.raiseIf_recheck (s : State) (h : Nat) (en vec : Fld) : (s.raiseIf h en vec).recheck = s.recheck := by
  unfold State.raiseIf; split <;> first | exact State.raise_recheck _ _ _ | rfl
@[simp] theorem State.raiseIf_recheckAt (s : State) (h : Nat) (en vec : Fld) : (s.raiseIf h en vec).recheckAt = s.recheckAt := by
  unfold State.raiseIf; split <;> first | exact State.raise_recheckAt _ _ _ | rfl
@[simp] theorem State.raiseIf_mgmt (s : State) (h : Nat) (en vec : Fld) : (s.raiseIf h en vec).mgmt = s.mgmt := by
  unfold State.raiseIf; split <;> first | exact State.raise_mgmt _ _ _ | rfl
@[simp] theorem State.raiseIf_power (s : State) (h : Nat) (en vec : Fld) : (s.raiseIf h en vec).power = s.power := by
  unfold State.raiseIf; split <;> first | exact State.raise_power _ _ _ | rfl
@[simp] theorem State.raiseIf_sec (s : State) (h : Nat) (en vec : Fld) : (s.raiseIf h en vec).sec = s.sec := by
  unfold State.raiseIf; split <;> first | exact State.raise_sec _ _ _ | rfl
@[simp] theorem State.raiseIf_clkMoved (s : State) (h : Nat) (en vec : Fld) : (s.raiseIf h en vec).clkMoved = s.clkMoved := by
  unfold State.raiseIf; split <;> first | exact State.raise_clkMoved _ _ _ | rfl
@[simp] theorem State.raiseIf_clkBring (s : State) (h : Nat) (en vec : Fld) : (s.raiseIf h en vec).clkBring = s.clkBring := by
  unfold State.raiseIf; split <;> first | exact State.raise_clkBring _ _ _ | rfl
@[simp] theorem State.raiseIf_badSince (s : State) (h : Nat) (en vec : Fld) : (s.raiseIf h en vec).badSince = s.badSince := by
  unfold State.raiseIf; split <;> first | exact State.raise_badSince _ _ _ | rfl
@[simp] theorem State.raiseIf_tableWaits (s : State) (h : Nat) (en vec : Fld) : (s.raiseIf h en vec).tableWaits = s.tableWaits := by
  unfold State.raiseIf; split <;> first | exact State.raise_tableWaits _ _ _ | rfl
@[simp] theorem State.raiseIf_cacheSet (s : State) (h : Nat) (en vec : Fld) : (s.raiseIf h en vec).cacheSet = s.cacheSet := by
  unfold State.raiseIf; split <;> first | exact State.raise_cacheSet _ _ _ | rfl
@[simp] theorem State.raiseIf_ringLanded (s : State) (h : Nat) (en vec : Fld) : (s.raiseIf h en vec).ringLanded = s.ringLanded := by
  unfold State.raiseIf; split <;> first | exact State.raise_ringLanded _ _ _ | rfl
@[simp] theorem State.raiseIf_selfNow (s : State) (h : Nat) (en vec : Fld) : (s.raiseIf h en vec).selfNow = s.selfNow := by
  unfold State.raiseIf; split <;> first | exact State.raise_selfNow _ _ _ | rfl
@[simp] theorem State.raiseIf_rd (s : State) (h : Nat) (en vec : Fld) (g : Fld) : (s.raiseIf h en vec).rd g = s.rd g := congrArg (fun r => (aFind r g.key).getD g.rst) (State.raiseIf_regs s h en vec)

end Sys2Proof.Machine
end

