-- ==== Sys2Proof/Laws/Reads.lean ====
section
/-! SUPPORT. Reads through updates: a register field after a field is written, and after state beside the registers changes; commands
in flight after one ends; for simp. -/

namespace Sys2Proof.Machine

open Sys2Proof

/-- A register field read after any state but the registers has changed. -/
@[simp] theorem State.rd_upd (s : State) (f : Fld)
    {x_now : Nat} {x_freeCtr : Nat} {x_mem : List Host.Cell} {x_out : List Output} {x_pending : List Instr} {x_score : Score}
    {x_ports : List (Nat × PciePort)} {x_chans : List (Nat × Chan)} {x_cmds : List Cmd} {x_nextCmd : Nat} {x_doneCtr : Nat} {x_grants : Nat}
    {x_hold : List Reply} {x_late : List Reply} {x_ctxs : List (Nat × Ctx)} {x_allocs : List Alloc} {x_ranges : List VaRange}
    {x_windows : List Window} {x_moves : List Move} {x_nextMove : Nat} {x_wants : List Move} {x_fwds : List Fwd} {x_remaps : List Remap}
    {x_tlbs : List Tlb} {x_faults : List FaultEntry} {x_nextFault : Nat} {x_descs : List Desc} {x_nextDesc : Nat} {x_fabric : Fabric} {x_topo : Topo}
    {x_tiles : List Tile} {x_nextTile : Nat} {x_arming : List (Nat × Nat)} {x_injects : List Nat} {x_routers : List Router} {x_areas : List Area}
    {x_decided : Nat} {x_stepSlots : List (Nat × Nat)} {x_hands : List (Nat × Hand)} {x_kitty : List (Nat × Kitty)} {x_steps : List Step}
    {x_entries : List (Nat × Entry)} {x_treeNodes : List Nat} {x_variants : List Variant} {x_dealing : List (Nat × List Nat)}
    {x_accounts : List (Nat × Account)} {x_launches : List Launch} {x_nextLaunch : Nat} {x_rings : List (Nat × List Nat)} {x_programs : List Program}
    {x_coreFree : List (Nat × Nat)} {x_phaseSince : List (Nat × Nat)} {x_phaseNs : List (Nat × Nat)} {x_draws : List CoreDraw}
    {x_units : List (Nat × Nat)} {x_bankMap : List (Nat × Nat)} {x_badBanks : List (Nat × Nat)} {x_selfDue : List Nat} {x_recordDue : Option Nat}
    {x_slots : List (Nat × Slot)} {x_switches : List Switch} {x_windowTurn : Nat} {x_recheck : List (Nat × Nat)} {x_recheckAt : Nat} {x_mgmt : Mgmt}
    {x_power : Power} {x_sec : Sec} {x_clkMoved : List Nat} {x_clkBring : Bool} {x_badSince : List (Nat × Nat)}
    {x_tableWaits : List Parked} {x_cacheSet : List Nat} {x_ringLanded : List (Nat × Nat)} {x_selfNow : Option Nat} :
    State.rd { s with
      now := x_now, freeCtr := x_freeCtr, mem := x_mem, out := x_out, pending := x_pending, score := x_score, ports := x_ports, chans := x_chans,
      cmds := x_cmds, nextCmd := x_nextCmd, doneCtr := x_doneCtr, grants := x_grants, hold := x_hold, late := x_late, ctxs := x_ctxs,
      allocs := x_allocs, ranges := x_ranges, windows := x_windows, moves := x_moves, nextMove := x_nextMove, wants := x_wants, fwds := x_fwds,
      remaps := x_remaps, tlbs := x_tlbs, faults := x_faults, nextFault := x_nextFault, descs := x_descs, nextDesc := x_nextDesc, fabric := x_fabric,
      topo := x_topo, tiles := x_tiles, nextTile := x_nextTile, arming := x_arming, injects := x_injects, routers := x_routers, areas := x_areas,
      decided := x_decided, stepSlots := x_stepSlots, hands := x_hands, kitty := x_kitty, steps := x_steps, entries := x_entries,
      treeNodes := x_treeNodes, variants := x_variants, dealing := x_dealing, accounts := x_accounts, launches := x_launches,
      nextLaunch := x_nextLaunch, rings := x_rings, programs := x_programs, coreFree := x_coreFree, phaseSince := x_phaseSince, phaseNs := x_phaseNs,
      draws := x_draws, units := x_units, bankMap := x_bankMap, badBanks := x_badBanks, selfDue := x_selfDue, recordDue := x_recordDue,
      slots := x_slots, switches := x_switches, windowTurn := x_windowTurn, recheck := x_recheck, recheckAt := x_recheckAt, mgmt := x_mgmt,
      power := x_power, sec := x_sec, clkMoved := x_clkMoved, clkBring := x_clkBring, badSince := x_badSince, tableWaits := x_tableWaits,
      cacheSet := x_cacheSet, ringLanded := x_ringLanded, selfNow := x_selfNow } f = s.rd f := rfl

/-- A register flag read after any state but the registers has changed. -/
@[simp] theorem State.is_upd (s : State) (f : Fld)
    {x_now : Nat} {x_freeCtr : Nat} {x_mem : List Host.Cell} {x_out : List Output} {x_pending : List Instr} {x_score : Score}
    {x_ports : List (Nat × PciePort)} {x_chans : List (Nat × Chan)} {x_cmds : List Cmd} {x_nextCmd : Nat} {x_doneCtr : Nat} {x_grants : Nat}
    {x_hold : List Reply} {x_late : List Reply} {x_ctxs : List (Nat × Ctx)} {x_allocs : List Alloc} {x_ranges : List VaRange}
    {x_windows : List Window} {x_moves : List Move} {x_nextMove : Nat} {x_wants : List Move} {x_fwds : List Fwd} {x_remaps : List Remap}
    {x_tlbs : List Tlb} {x_faults : List FaultEntry} {x_nextFault : Nat} {x_descs : List Desc} {x_nextDesc : Nat} {x_fabric : Fabric} {x_topo : Topo}
    {x_tiles : List Tile} {x_nextTile : Nat} {x_arming : List (Nat × Nat)} {x_injects : List Nat} {x_routers : List Router} {x_areas : List Area}
    {x_decided : Nat} {x_stepSlots : List (Nat × Nat)} {x_hands : List (Nat × Hand)} {x_kitty : List (Nat × Kitty)} {x_steps : List Step}
    {x_entries : List (Nat × Entry)} {x_treeNodes : List Nat} {x_variants : List Variant} {x_dealing : List (Nat × List Nat)}
    {x_accounts : List (Nat × Account)} {x_launches : List Launch} {x_nextLaunch : Nat} {x_rings : List (Nat × List Nat)} {x_programs : List Program}
    {x_coreFree : List (Nat × Nat)} {x_phaseSince : List (Nat × Nat)} {x_phaseNs : List (Nat × Nat)} {x_draws : List CoreDraw}
    {x_units : List (Nat × Nat)} {x_bankMap : List (Nat × Nat)} {x_badBanks : List (Nat × Nat)} {x_selfDue : List Nat} {x_recordDue : Option Nat}
    {x_slots : List (Nat × Slot)} {x_switches : List Switch} {x_windowTurn : Nat} {x_recheck : List (Nat × Nat)} {x_recheckAt : Nat} {x_mgmt : Mgmt}
    {x_power : Power} {x_sec : Sec} {x_clkMoved : List Nat} {x_clkBring : Bool} {x_badSince : List (Nat × Nat)}
    {x_tableWaits : List Parked} {x_cacheSet : List Nat} {x_ringLanded : List (Nat × Nat)} {x_selfNow : Option Nat} :
    State.is { s with
      now := x_now, freeCtr := x_freeCtr, mem := x_mem, out := x_out, pending := x_pending, score := x_score, ports := x_ports, chans := x_chans,
      cmds := x_cmds, nextCmd := x_nextCmd, doneCtr := x_doneCtr, grants := x_grants, hold := x_hold, late := x_late, ctxs := x_ctxs,
      allocs := x_allocs, ranges := x_ranges, windows := x_windows, moves := x_moves, nextMove := x_nextMove, wants := x_wants, fwds := x_fwds,
      remaps := x_remaps, tlbs := x_tlbs, faults := x_faults, nextFault := x_nextFault, descs := x_descs, nextDesc := x_nextDesc, fabric := x_fabric,
      topo := x_topo, tiles := x_tiles, nextTile := x_nextTile, arming := x_arming, injects := x_injects, routers := x_routers, areas := x_areas,
      decided := x_decided, stepSlots := x_stepSlots, hands := x_hands, kitty := x_kitty, steps := x_steps, entries := x_entries,
      treeNodes := x_treeNodes, variants := x_variants, dealing := x_dealing, accounts := x_accounts, launches := x_launches,
      nextLaunch := x_nextLaunch, rings := x_rings, programs := x_programs, coreFree := x_coreFree, phaseSince := x_phaseSince, phaseNs := x_phaseNs,
      draws := x_draws, units := x_units, bankMap := x_bankMap, badBanks := x_badBanks, selfDue := x_selfDue, recordDue := x_recordDue,
      slots := x_slots, switches := x_switches, windowTurn := x_windowTurn, recheck := x_recheck, recheckAt := x_recheckAt, mgmt := x_mgmt,
      power := x_power, sec := x_sec, clkMoved := x_clkMoved, clkBring := x_clkBring, badSince := x_badSince, tableWaits := x_tableWaits,
      cacheSet := x_cacheSet, ringLanded := x_ringLanded, selfNow := x_selfNow } f = s.is f := rfl

/-- A field read after another field is written. -/
theorem State.rd_wr_ne {s : State} {f g : Fld} {v : Nat} (h : g.key ≠ f.key) : (s.wr f v).rd g = s.rd g := State.rd_wr_other s f g v h

/-- A field read after a field is put back to its reset value. -/
theorem State.rd_reg0_ne {s : State} {f g : Fld} (h : g.key ≠ f.key) : (s.reg0 f).rd g = s.rd g := State.rd_reg0_other s f g h

/-- A field read after a count is raised. -/
theorem State.rd_bump_ne {s : State} {f g : Fld} {n : Nat} (h : g.key ≠ f.key) : (s.bump f n).rd g = s.rd g := State.rd_bump_other s f g n h

/-- Fields of different blocks have different keys. -/
theorem Fld.key_ne_of_blk {f g : Fld} (h : f.blk ≠ g.blk) : f.key ≠ g.key := by
  simp only [Fld.key]; omega

/-- A command that waits for its unit is in flight with no status. -/
theorem State.cmdAt_mem {s : State} {k op : Nat} {c : Cmd} (h : s.cmdAt k op = some c) :
    c ∈ s.cmds ∧ c.id = k ∧ c.opcode = op ∧ c.started = false ∧ c.status = none := by
  have h1 := List.find?_some h
  have h2 := List.mem_of_find?_eq_some h
  simp at h1
  exact ⟨h2, h1.1.1.1, h1.1.1.2, h1.1.2, h1.2⟩

/-- A status fixed on a command in flight that has none stands in it. -/
theorem State.finish_ended {s : State} {k : Nat} {c : Cmd} (hm : c ∈ s.cmds) (hk : c.id = k) (hn : c.status = none) (st det o0 o1 o2 : Nat) :
    (s.finish k st det o0 o1 o2).ended k st det o0 o1 o2 := by
  refine ⟨{ c with started := true, status := some st, doneNo := s.doneCtr, doneAt := s.timeBase, detail := det, out0 := o0, out1 := o1, out2 := o2 }, ?_, hk, rfl, rfl, rfl, rfl, rfl⟩
  simp only [State.finish, State.cmdMap, List.mem_map]
  exact ⟨c, hm, by simp [hk, hn]⟩

/-- Command `k` is in flight with no status. -/
def State.open (s : State) (k : Nat) : Prop := ∃ c ∈ s.cmds, c.id = k ∧ c.status = none

theorem State.cmdAt_open {s : State} {k op : Nat} {c : Cmd} (h : s.cmdAt k op = some c) : s.open k :=
  ⟨c, (cmdAt_mem h).1, (cmdAt_mem h).2.1, (cmdAt_mem h).2.2.2.2⟩

theorem State.open_of_cmds {s t : State} {k : Nat} (h : s.open k) (e : t.cmds = s.cmds) : t.open k := by
  unfold State.open; rw [e]; exact h

theorem State.open.ended {s : State} {k : Nat} (h : s.open k) (st det o0 o1 o2 : Nat) : (s.finish k st det o0 o1 o2).ended k st det o0 o1 o2 :=
  let ⟨_, hm, hk, hn⟩ := h; State.finish_ended hm hk hn st det o0 o1 o2

theorem State.open.done {s : State} {k : Nat} (h : s.open k) (o0 o1 o2 : Nat) : (s.doneWith k o0 o1 o2).ended k stDone 0 o0 o1 o2 := h.ended ..

theorem State.open.fail {s : State} {k : Nat} (h : s.open k) (st det : Nat) : (s.failWith k st det).ended k st det 0 0 0 := h.ended ..

/-- A command taken by its unit runs. -/
theorem State.open.start {s : State} {k : Nat} (h : s.open k) (aux : List Nat) : (s.start k aux).runs k := by
  obtain ⟨c, hm, hk, hn⟩ := h
  refine ⟨{ c with started := true, aux := aux }, ?_, hk, rfl, hn⟩
  simp only [State.start, State.cmdMap, List.mem_map]
  exact ⟨c, hm, by simp [hk]⟩

/-- A unit's taking of a command whose check passes. -/
theorem State.runCmd_ok {s : State} {k op : Nat} {sel : Cmd → Bool} {check : State → Cmd → Option (Nat × Nat)} {eff : State → Cmd → State} {c : Cmd}
    (h : s.cmdAt k op = some c) (hs : sel c = true) (hc : check s c = none) : s.runCmd k op sel check eff = eff s c := by
  simp [State.runCmd, h, hs, hc]

/-- A unit's taking of a command whose check fails. -/
theorem State.runCmd_bad {s : State} {k op : Nat} {sel : Cmd → Bool} {check : State → Cmd → Option (Nat × Nat)} {eff : State → Cmd → State} {c : Cmd}
    {st d : Nat} (h : s.cmdAt k op = some c) (hs : sel c = true) (hc : check s c = some (st, d)) :
    s.runCmd k op sel check eff = s.failWith k st d := by
  simp [State.runCmd, h, hs, hc]

end Sys2Proof.Machine
end

