-- ==== Sys2Proof/Laws/Ends.lean ====
section
/-! SUPPORT. What the end of a command, a store and a count change and what they leave: the lemmas by which the effect of a command is
read off its meaning. -/

namespace Sys2Proof.Machine

open Sys2Proof

/-- Parts compared through a state between. -/
theorem State.sameParts.trans {s t u : State} {ps qs rs : List Part} (h : s.sameParts t ps) (g : t.sameParts u qs)
    (hp : ∀ p ∈ ps, p ∈ rs) (hq : ∀ q ∈ qs, q ∈ rs) : s.sameParts u rs := by
  intro p hm hn
  have a := h p hm (fun x => hn (hp p x))
  have b := g p hm (fun x => hn (hq p x))
  cases p <;> exact b.trans a

theorem State.sameParts.weaken {s t : State} {ps rs : List Part} (h : s.sameParts t ps) (hp : ∀ p ∈ ps, p ∈ rs) : s.sameParts t rs :=
  fun p hm hn => h p hm (fun x => hn (hp p x))

theorem State.sameParts.refl (s : State) (ps : List Part) : s.sameParts s ps := by
  intro p _ _; cases p <;> rfl

theorem State.sameParts.mem {s t : State} {ps : List Part} (h : s.sameParts t ps) (hn : Part.mem ∉ ps) : s.sameMem t := by
  intro a
  have := h .mem (by decide) hn
  simp only [Part.same] at this
  rw [this]

/-- The end of a command changes no part but the commands and the count of ends. -/
theorem State.finish_parts (s : State) (k st det o0 o1 o2 : Nat) : s.sameParts (s.finish k st det o0 o1 o2) [.cmds, .doneCtr] := by
  intro p _ hn; cases p <;> first | rfl | simp at hn

/-- A command map that keeps identities keeps the other commands. -/
theorem State.cmdMap_others (s : State) (k : Nat) (f : Cmd → Cmd) (hf : ∀ c, (f c).id = c.id) : s.othersStand (s.cmdMap k f) k := by
  unfold State.othersStand State.cmdMap
  simp only
  induction s.cmds with
  | nil => rfl
  | cons a r ih =>
    by_cases h : a.id = k
    · simp [h, hf, ih]
    · simp [h, ih]

theorem State.finish_others (s : State) (k st det o0 o1 o2 : Nat) : s.othersStand (s.finish k st det o0 o1 o2) k :=
  State.cmdMap_others s k _ (fun c => by split <;> rfl)

/-- The end of an open command, and nothing beside it. -/
theorem State.open.onlyEnds {s : State} {k : Nat} (h : s.open k) (st det o0 o1 o2 : Nat) :
    s.onlyEnds (s.finish k st det o0 o1 o2) k st det o0 o1 o2 :=
  ⟨h.ended .., fun _ => rfl, State.finish_others s k st det o0 o1 o2, State.finish_parts s k st det o0 o1 o2⟩

/-- A store and the rest of memory. -/
theorem State.store_storedAt (s : State) (a n v : Nat) : s.storedAt (s.store a n v) a n v := by
  refine ⟨State.load_store_self .., fun b hb => ?_⟩
  rcases hb with hb | hb
  · exact memByte_memWrite_below _ _ _ _ hb
  · exact memByte_memWrite_above _ _ _ _ (by rw [leBytes_length]; exact hb)

theorem State.storedAt.congr {s t u : State} {a n v : Nat} (h : s.storedAt t a n v) (e : u.mem = t.mem) : s.storedAt u a n v := by
  refine ⟨?_, fun b hb => by rw [e]; exact h.2 b hb⟩
  have : u.load a n = t.load a n := by unfold State.load; rw [e]
  rw [this]; exact h.1

theorem State.storedAt.mod {s t : State} {a n v w : Nat} (h : s.storedAt t a n v) (e : v % 256 ^ n = w % 256 ^ n) : s.storedAt t a n w :=
  ⟨h.1.trans e, h.2⟩

/-- A register field after any list of writes that do not name it. -/
theorem State.rd_wrs_ne {s : State} {g : Fld} {l : List (Fld × Nat)} (h : ∀ p ∈ l, g.key ≠ p.1.key) : (s.wrs l).rd g = s.rd g := by
  unfold State.wrs
  induction l generalizing s with
  | nil => rfl
  | cons a r ih =>
    simp only [List.foldl_cons]
    rw [ih (fun p hp => h p (List.mem_cons_of_mem _ hp)), State.rd_wr_ne (h a (List.mem_cons_self))]

/-- Register writes change no part. -/
theorem State.sameParts.wr {s t : State} {ps : List Part} (h : s.sameParts t ps) (f : Fld) (v : Nat) : s.sameParts (t.wr f v) ps := by
  intro p hm hn
  have := h p hm hn
  cases p <;> exact this

theorem State.sameParts.bump {s t : State} {ps : List Part} (h : s.sameParts t ps) (f : Fld) (n : Nat) : s.sameParts (t.bump f n) ps := h.wr f _

theorem State.sameParts.drop {s t : State} {ps : List Part} (h : s.sameParts t ps) (f : Fld) (n : Nat) : s.sameParts (t.drop f n) ps := h.wr f _

theorem State.sameParts.wrs {s t : State} {ps : List Part} (h : s.sameParts t ps) (l : List (Fld × Nat)) : s.sameParts (t.wrs l) ps := by
  unfold State.wrs
  induction l generalizing t with
  | nil => exact h
  | cons a r ih => exact ih (h.wr a.1 a.2)

/-- A store changes no part but memory. -/
theorem State.sameParts.store {s t : State} {ps : List Part} (h : s.sameParts t ps) (hc : Part.mem ∈ ps) (a n v : Nat) :
    s.sameParts (t.store a n v) ps := by
  intro p hm hn
  have := h p hm hn
  cases p <;> simp only [Part.same] at this ⊢ <;> first | exact absurd hc hn | exact this

theorem State.sameParts.hostStore {s t : State} {ps : List Part} (h : s.sameParts t ps) (hc : Part.mem ∈ ps) (x a n v : Nat) :
    s.sameParts (t.hostStore x a n v) ps := by
  unfold State.hostStore
  split
  · exact h.store hc (hostKey x a) n v
  · exact h

theorem State.hostStore_on {s : State} {h : Nat} (e : s.attached h = true) (a n v : Nat) : s.hostStore h a n v = s.store (hostKey h a) n v := by
  unfold State.hostStore; rw [if_pos e]

theorem State.hostStore_off {s : State} {h : Nat} (e : s.attached h = false) (a n v : Nat) : s.hostStore h a n v = s := by
  unfold State.hostStore; rw [if_neg (by rw [e]; decide)]

/-! A channel, a context, a port after operations that do not set them. -/

@[simp] theorem State.store_chan (s : State) (a n v : Nat) (i : Nat) : (s.store a n v).chan i = s.chan i := rfl
@[simp] theorem State.wr_chan (s : State) (f : Fld) (v : Nat) (i : Nat) : (s.wr f v).chan i = s.chan i := rfl
@[simp] theorem State.bump_chan (s : State) (f : Fld) (v : Nat) (i : Nat) : (s.bump f v).chan i = s.chan i := rfl
@[simp] theorem State.drop_chan (s : State) (f : Fld) (v : Nat) (i : Nat) : (s.drop f v).chan i = s.chan i := rfl
@[simp] theorem State.finish_chan (s : State) (k st det o0 o1 o2 : Nat) (i : Nat) : (s.finish k st det o0 o1 o2).chan i = s.chan i := rfl
@[simp] theorem State.store_ctx (s : State) (a n v : Nat) (i : Nat) : (s.store a n v).ctx i = s.ctx i := rfl
@[simp] theorem State.wr_ctx (s : State) (f : Fld) (v : Nat) (i : Nat) : (s.wr f v).ctx i = s.ctx i := rfl
@[simp] theorem State.bump_ctx (s : State) (f : Fld) (v : Nat) (i : Nat) : (s.bump f v).ctx i = s.ctx i := rfl
@[simp] theorem State.drop_ctx (s : State) (f : Fld) (v : Nat) (i : Nat) : (s.drop f v).ctx i = s.ctx i := rfl
@[simp] theorem State.finish_ctx (s : State) (k st det o0 o1 o2 : Nat) (i : Nat) : (s.finish k st det o0 o1 o2).ctx i = s.ctx i := rfl
@[simp] theorem State.store_port (s : State) (a n v : Nat) (i : Nat) : (s.store a n v).port i = s.port i := rfl
@[simp] theorem State.wr_port (s : State) (f : Fld) (v : Nat) (i : Nat) : (s.wr f v).port i = s.port i := rfl
@[simp] theorem State.bump_port (s : State) (f : Fld) (v : Nat) (i : Nat) : (s.bump f v).port i = s.port i := rfl
@[simp] theorem State.drop_port (s : State) (f : Fld) (v : Nat) (i : Nat) : (s.drop f v).port i = s.port i := rfl
@[simp] theorem State.finish_port (s : State) (k st det o0 o1 o2 : Nat) (i : Nat) : (s.finish k st det o0 o1 o2).port i = s.port i := rfl

/-- A store seen from a state with the same memory. -/
theorem State.storedAt.from {s u t : State} {a n v : Nat} (h : u.storedAt t a n v) (e : u.mem = s.mem) : s.storedAt t a n v :=
  ⟨h.1, fun b hb => by rw [← e]; exact h.2 b hb⟩

theorem State.sameParts.ite {s t u : State} {ps : List Part} {c : Prop} [Decidable c] (h : s.sameParts t ps) (g : s.sameParts u ps) :
    s.sameParts (if c then t else u) ps := by
  split
  · exact h
  · exact g

theorem State.sameParts.setChan {s t : State} {ps : List Part} (h : s.sameParts t ps) (hc : Part.chans ∈ ps) (c : Nat) (x : Chan) :
    s.sameParts (t.setChan c x) ps := by
  intro p hm hn
  have := h p hm hn
  cases p <;> first | exact absurd hc hn | exact this

/-! Parts through the ends of commands. -/

theorem State.sameParts.finish {s t : State} {ps : List Part} (h : s.sameParts t ps) (hc : Part.cmds ∈ ps) (hd : Part.doneCtr ∈ ps)
    (k st det o0 o1 o2 : Nat) : s.sameParts (t.finish k st det o0 o1 o2) ps := by
  intro p hm hn
  have := h p hm hn
  cases p <;> first | exact absurd hc hn | exact absurd hd hn | exact this

theorem State.sameParts.done {s t : State} {ps : List Part} (h : s.sameParts t ps) (hc : Part.cmds ∈ ps) (hd : Part.doneCtr ∈ ps)
    (k o0 o1 o2 : Nat) : s.sameParts (t.doneWith k o0 o1 o2) ps := State.sameParts.finish h hc hd k stDone 0 o0 o1 o2

theorem State.sameParts.start {s t : State} {ps : List Part} (h : s.sameParts t ps) (hc : Part.cmds ∈ ps) (k : Nat) (aux : List Nat) :
    s.sameParts (t.start k aux) ps := by
  intro p hm hn
  have := h p hm hn
  cases p <;> first | exact absurd hc hn | exact this

/-- The other commands through an end behind an operation that leaves the commands. -/
theorem State.finish_others_of {s t : State} (e : t.cmds = s.cmds) (k st det o0 o1 o2 : Nat) : s.othersStand (t.finish k st det o0 o1 o2) k := by
  have := State.finish_others t k st det o0 o1 o2
  unfold State.othersStand at *
  rw [this, e]

/-- The end of a command behind an operation that leaves the commands. -/
theorem State.open.endedOf {s t : State} {k : Nat} (h : s.open k) (e : t.cmds = s.cmds) (st det o0 o1 o2 : Nat) :
    (t.finish k st det o0 o1 o2).ended k st det o0 o1 o2 := (State.open_of_cmds h e).ended ..

/-! Ends that stand, and ends of several commands. -/

/-- An end stands through a later one: the first status fixed stands (R357). -/
theorem State.ended.finish {s : State} {i st det o0 o1 o2 : Nat} (h : s.ended i st det o0 o1 o2) (k st' det' p0 p1 p2 : Nat) :
    (s.finish k st' det' p0 p1 p2).ended i st det o0 o1 o2 := by
  obtain ⟨c, hm, hi, hs, r⟩ := h
  refine ⟨c, ?_, hi, hs, r⟩
  simp only [State.finish, State.cmdMap, List.mem_map]
  exact ⟨c, hm, by simp [hs]⟩

theorem State.ended.of_cmds {s t : State} {i st det o0 o1 o2 : Nat} (h : s.ended i st det o0 o1 o2) (e : t.cmds = s.cmds) :
    t.ended i st det o0 o1 o2 := by
  unfold State.ended; rw [e]; exact h

/-- An open command stays open through another's end. -/
theorem State.open.finish_ne {s : State} {i k : Nat} (h : s.open i) (n : i ≠ k) (st det o0 o1 o2 : Nat) : (s.finish k st det o0 o1 o2).open i := by
  obtain ⟨c, hm, hi, hs⟩ := h
  refine ⟨c, ?_, hi, hs⟩
  simp only [State.finish, State.cmdMap, List.mem_map]
  exact ⟨c, hm, by simp [hi, n]⟩

/-- Every command of a list ended with one status. -/
theorem State.ended_foldl {l : List Cmd} {i st det : Nat} {s : State} (h : s.open i ∨ s.ended i st det 0 0 0) (hi : i ∈ l.map Cmd.id) :
    (l.foldl (fun t d => t.failWith d.id st det) s).ended i st det 0 0 0 := by
  have stay : ∀ (l : List Cmd) (s : State), s.ended i st det 0 0 0 → (l.foldl (fun t d => t.failWith d.id st det) s).ended i st det 0 0 0 := by
    intro l
    induction l with
    | nil => exact fun _ h => h
    | cons a r ih => exact fun s h => ih _ (h.finish ..)
  induction l generalizing s with
  | nil => simp at hi
  | cons a r ih =>
    rcases h with h | h
    · by_cases e : a.id = i
      · exact stay r _ (by show (s.failWith a.id st det).ended i st det 0 0 0; rw [e]; exact h.fail st det)
      · exact ih (.inl (h.finish_ne (fun x => e x.symm) ..)) (by simpa [Ne.symm e] using hi)
    · exact stay (a :: r) s h

/-- What the ends of several commands leave: all but the commands and the count of ends. -/
theorem State.failAll_upd (l : List Cmd) (st det : Nat) (s : State) :
    ∃ cs n, l.foldl (fun t d => t.failWith d.id st det) s = { s with cmds := cs, doneCtr := n } := by
  induction l generalizing s with
  | nil => exact ⟨_, _, rfl⟩
  | cons a r ih => obtain ⟨cs, n, e⟩ := ih (s.failWith a.id st det); exact ⟨cs, n, e⟩

/-- An open command outside a list stays open through the ends of the list. -/
theorem State.open.failAll {l : List Cmd} {i : Nat} {s : State} (h : s.open i) (hn : i ∉ l.map Cmd.id) (st det : Nat) :
    (l.foldl (fun t d => t.failWith d.id st det) s).open i := by
  induction l generalizing s with
  | nil => exact h
  | cons a r ih =>
    simp only [List.map_cons, List.mem_cons, not_or] at hn
    exact ih (h.finish_ne hn.1 ..) hn.2

end Sys2Proof.Machine
end

