-- ==== Sys2Proof/Laws/Keeps.lean ====
section
/-! SUPPORT. What no command and no event undoes, said once: the queue is untouched, memory and registers keep their canonical form, the
hold keeps within 4,096 replies (R361) and the ring within 8,192 records (R468), and the SVN floors, the signature reservation and the
record's counter never fall (R454, R456, R463). One lemma for each operation stands in the files beside this one. -/

namespace Sys2Proof.Machine

open Sys2Proof

/-- What holds between a state and every state that a command or event reaches from it. -/
structure Keeps (s t : State) : Prop where
  pending : t.pending = s.pending
  mem : memWf s.mem = true → memWf t.mem = true
  regs : regsWf s.regs = true → regsWf t.regs = true
  hold : s.hold.length ≤ 4096 → t.hold.length ≤ 4096
  ring : s.score.ring.length ≤ 8192 → t.score.ring.length ≤ 8192
  floors : ∀ y, (aFind s.sec.floors y).getD 1 ≤ (aFind t.sec.floors y).getD 1
  reserved : s.sec.reserved ≤ t.sec.reserved
  counter : s.sec.counter ≤ t.sec.counter

theorem Keeps.refl (s : State) : Keeps s s := ⟨rfl, id, id, id, id, fun _ => Nat.le_refl _, Nat.le_refl _, Nat.le_refl _⟩

theorem Keeps.trans {s t u : State} (h : Keeps s t) (g : Keeps t u) : Keeps s u :=
  ⟨g.pending.trans h.pending, fun x => g.mem (h.mem x), fun x => g.regs (h.regs x), fun x => g.hold (h.hold x), fun x => g.ring (h.ring x),
    fun y => Nat.le_trans (h.floors y) (g.floors y), Nat.le_trans h.reserved g.reserved, Nat.le_trans h.counter g.counter⟩

/-- A step that leaves alone all that `Keeps` speaks of. -/
theorem Keeps.same {s t u : State} (h : Keeps s t) (hp : u.pending = t.pending) (hm : u.mem = t.mem) (hr : u.regs = t.regs)
    (hh : u.hold = t.hold) (hg : u.score.ring = t.score.ring) (hf : u.sec.floors = t.sec.floors) (hv : u.sec.reserved = t.sec.reserved)
    (hc : u.sec.counter = t.sec.counter) : Keeps s u :=
  h.trans ⟨hp, fun x => hm ▸ x, fun x => hr ▸ x, fun x => hh ▸ x, fun x => hg ▸ x, fun _ => by rw [hf], by rw [hv], by rw [hc]⟩

theorem Keeps.ite {s a b : State} {c : Prop} [Decidable c] (ha : Keeps s a) (hb : Keeps s b) : Keeps s (if c then a else b) := by
  split
  · exact ha
  · exact hb

theorem Keeps.foldl {α : Type} {s t : State} {f : State → α → State} {l : List α} (hf : ∀ t x, Keeps s t → Keeps s (f t x)) (h : Keeps s t) :
    Keeps s (l.foldl f t) := by
  induction l generalizing t with
  | nil => exact h
  | cons a r ih => exact ih (hf t a h)

theorem Keeps.cond {s a b : State} {c : Bool} (ha : Keeps s a) (hb : Keeps s b) : Keeps s (cond c a b) := by
  cases c
  · exact hb
  · exact ha

theorem Keeps.getD {s t : State} {o : Option State} (ho : ∀ u, o = some u → Keeps s u) (h : Keeps s t) : Keeps s (o.getD t) := by
  cases o with
  | none => exact h
  | some u => exact ho u rfl

/-- Fields set that `Keeps` does not speak of. -/
theorem Keeps.upd {s t : State} (h : Keeps s t)
    {x_now : Nat} {x_freeCtr : Nat} {x_out : List Output} {x_ports : List (Nat × PciePort)} {x_chans : List (Nat × Chan)} {x_cmds : List Cmd}
    {x_nextCmd : Nat} {x_doneCtr : Nat} {x_grants : Nat} {x_late : List Reply} {x_ctxs : List (Nat × Ctx)} {x_allocs : List Alloc} {x_ranges :
    List VaRange} {x_windows : List Window} {x_moves : List Move} {x_nextMove : Nat} {x_wants : List Move} {x_fwds : List Fwd} {x_remaps :
    List Remap} {x_tlbs : List Tlb} {x_faults : List FaultEntry} {x_nextFault : Nat} {x_descs : List Desc} {x_nextDesc : Nat} {x_fabric :
    Fabric} {x_topo : Topo} {x_tiles : List Tile} {x_nextTile : Nat} {x_arming : List (Nat × Nat)} {x_injects : List Nat} {x_routers : List
    Router} {x_areas : List Area} {x_decided : Nat} {x_stepSlots : List (Nat × Nat)} {x_hands : List (Nat × Hand)} {x_kitty : List (Nat ×
    Kitty)} {x_steps : List Step} {x_entries : List (Nat × Entry)} {x_treeNodes : List Nat} {x_variants : List Variant} {x_dealing : List (Nat
    × List Nat)} {x_accounts : List (Nat × Account)} {x_launches : List Launch} {x_nextLaunch : Nat} {x_rings : List (Nat × List Nat)}
    {x_programs : List Program} {x_coreFree : List (Nat × Nat)} {x_phaseSince : List (Nat × Nat)} {x_phaseNs : List (Nat
    × Nat)} {x_draws : List CoreDraw} {x_units : List (Nat × Nat)} {x_bankMap : List (Nat × Nat)} {x_badBanks : List (Nat × Nat)} {x_selfDue :
    List Nat} {x_recordDue : Option Nat} {x_slots : List (Nat × Slot)} {x_switches : List Switch} {x_windowTurn : Nat} {x_recheck : List (Nat
    × Nat)} {x_recheckAt : Nat} {x_mgmt : Mgmt} {x_power : Power} {x_clkMoved : List Nat} {x_clkBring : Bool}
    {x_badSince : List (Nat × Nat)} {x_tableWaits : List Parked} {x_cacheSet : List Nat} {x_ringLanded : List (Nat × Nat)} {x_selfNow : Option Nat}
    {x_score : Score} {x_sec : Sec} (hg : x_score.ring = t.score.ring)
    (hs : x_sec.floors = t.sec.floors ∧ x_sec.reserved = t.sec.reserved ∧ x_sec.counter = t.sec.counter) :
    Keeps s { t with
      now := x_now, freeCtr := x_freeCtr, out := x_out, score := x_score, ports := x_ports, chans := x_chans, cmds := x_cmds, nextCmd :=
      x_nextCmd, doneCtr := x_doneCtr, grants := x_grants, late := x_late, ctxs := x_ctxs, allocs := x_allocs, ranges := x_ranges, windows :=
      x_windows, moves := x_moves, nextMove := x_nextMove, wants := x_wants, fwds := x_fwds, remaps := x_remaps, tlbs := x_tlbs, faults :=
      x_faults, nextFault := x_nextFault, descs := x_descs, nextDesc := x_nextDesc, fabric := x_fabric, topo := x_topo, tiles := x_tiles,
      nextTile := x_nextTile, arming := x_arming, injects := x_injects, routers := x_routers, areas := x_areas, decided := x_decided,
      stepSlots := x_stepSlots, hands := x_hands, kitty := x_kitty, steps := x_steps, entries := x_entries, treeNodes := x_treeNodes, variants
      := x_variants, dealing := x_dealing, accounts := x_accounts, launches := x_launches, nextLaunch := x_nextLaunch, rings := x_rings,
      programs := x_programs, coreFree := x_coreFree, phaseSince := x_phaseSince, phaseNs := x_phaseNs, draws :=
      x_draws, units := x_units, bankMap := x_bankMap, badBanks := x_badBanks, selfDue := x_selfDue, recordDue := x_recordDue, slots :=
      x_slots, switches := x_switches, windowTurn := x_windowTurn, recheck := x_recheck, recheckAt := x_recheckAt, mgmt := x_mgmt, power :=
      x_power, sec := x_sec, clkMoved := x_clkMoved, clkBring := x_clkBring, badSince := x_badSince, tableWaits := x_tableWaits, cacheSet := x_cacheSet, ringLanded := x_ringLanded, selfNow := x_selfNow } :=
  h.same rfl rfl rfl rfl hg hs.1 hs.2.1 hs.2.2

end Sys2Proof.Machine
end

