-- ==== Sys2Proof/Laws/Frame.lean ====
section
/-! SUPPORT. What an operation leaves as it was: `Frame w b s t` says that `Keeps s t`, that every field of the state whose bit is not in `w`, and every
register of a block whose bit is not in `b` (Table 5-3: bit n for the block at n MiB), is in `t` as it is in `s`. The bits of the fields
are their places in `State`. -/

namespace Sys2Proof.Machine

open Sys2Proof

/-- One mask within another. -/
def Sub (a b : Nat) : Prop := a &&& b = a

theorem Sub.refl (a : Nat) : Sub a a := Nat.and_self a

theorem Sub.within {a b c : Nat} (h : Sub b c) (e : Sub a b) : Sub a c := by
  unfold Sub at *
  rw [← e, Nat.and_assoc, h]

theorem Sub.bit {a b i : Nat} (h : Sub a b) (e : a.testBit i = true) : b.testBit i = true := by
  have := congrArg (fun x => Nat.testBit x i) h
  simpa [Nat.testBit_and, e] using this

theorem Sub.off {a b i : Nat} (h : Sub a b) (e : b.testBit i = false) : a.testBit i = false := by
  cases x : a.testBit i with
  | false => rfl
  | true => rw [h.bit x] at e; cases e

/-- `t` with the fields outside a mask taken from `s`; the registers are those of `t`. -/
def mix (w : Nat) (s t : State) : State := {
  now := bif w.testBit 0 then t.now else s.now,
  freeCtr := bif w.testBit 1 then t.freeCtr else s.freeCtr,
  regs := t.regs,
  mem := bif w.testBit 3 then t.mem else s.mem,
  out := bif w.testBit 4 then t.out else s.out,
  pending := bif w.testBit 5 then t.pending else s.pending,
  score := bif w.testBit 6 then t.score else s.score,
  ports := bif w.testBit 7 then t.ports else s.ports,
  chans := bif w.testBit 8 then t.chans else s.chans,
  cmds := bif w.testBit 9 then t.cmds else s.cmds,
  nextCmd := bif w.testBit 10 then t.nextCmd else s.nextCmd,
  doneCtr := bif w.testBit 11 then t.doneCtr else s.doneCtr,
  grants := bif w.testBit 12 then t.grants else s.grants,
  hold := bif w.testBit 13 then t.hold else s.hold,
  late := bif w.testBit 14 then t.late else s.late,
  ctxs := bif w.testBit 15 then t.ctxs else s.ctxs,
  allocs := bif w.testBit 16 then t.allocs else s.allocs,
  ranges := bif w.testBit 17 then t.ranges else s.ranges,
  windows := bif w.testBit 18 then t.windows else s.windows,
  moves := bif w.testBit 19 then t.moves else s.moves,
  nextMove := bif w.testBit 20 then t.nextMove else s.nextMove,
  wants := bif w.testBit 21 then t.wants else s.wants,
  fwds := bif w.testBit 22 then t.fwds else s.fwds,
  remaps := bif w.testBit 23 then t.remaps else s.remaps,
  tlbs := bif w.testBit 24 then t.tlbs else s.tlbs,
  faults := bif w.testBit 25 then t.faults else s.faults,
  nextFault := bif w.testBit 26 then t.nextFault else s.nextFault,
  descs := bif w.testBit 27 then t.descs else s.descs,
  nextDesc := bif w.testBit 28 then t.nextDesc else s.nextDesc,
  fabric := bif w.testBit 29 then t.fabric else s.fabric,
  topo := bif w.testBit 30 then t.topo else s.topo,
  tiles := bif w.testBit 31 then t.tiles else s.tiles,
  nextTile := bif w.testBit 32 then t.nextTile else s.nextTile,
  arming := bif w.testBit 33 then t.arming else s.arming,
  injects := bif w.testBit 34 then t.injects else s.injects,
  routers := bif w.testBit 35 then t.routers else s.routers,
  areas := bif w.testBit 36 then t.areas else s.areas,
  decided := bif w.testBit 37 then t.decided else s.decided,
  stepSlots := bif w.testBit 38 then t.stepSlots else s.stepSlots,
  hands := bif w.testBit 39 then t.hands else s.hands,
  kitty := bif w.testBit 40 then t.kitty else s.kitty,
  steps := bif w.testBit 41 then t.steps else s.steps,
  entries := bif w.testBit 42 then t.entries else s.entries,
  treeNodes := bif w.testBit 43 then t.treeNodes else s.treeNodes,
  variants := bif w.testBit 44 then t.variants else s.variants,
  dealing := bif w.testBit 45 then t.dealing else s.dealing,
  accounts := bif w.testBit 46 then t.accounts else s.accounts,
  launches := bif w.testBit 47 then t.launches else s.launches,
  nextLaunch := bif w.testBit 48 then t.nextLaunch else s.nextLaunch,
  rings := bif w.testBit 49 then t.rings else s.rings,
  programs := bif w.testBit 50 then t.programs else s.programs,
  coreFree := bif w.testBit 51 then t.coreFree else s.coreFree,
  phaseSince := bif w.testBit 52 then t.phaseSince else s.phaseSince,
  phaseNs := bif w.testBit 53 then t.phaseNs else s.phaseNs,
  draws := bif w.testBit 54 then t.draws else s.draws,
  units := bif w.testBit 55 then t.units else s.units,
  bankMap := bif w.testBit 56 then t.bankMap else s.bankMap,
  badBanks := bif w.testBit 57 then t.badBanks else s.badBanks,
  selfDue := bif w.testBit 58 then t.selfDue else s.selfDue,
  recordDue := bif w.testBit 59 then t.recordDue else s.recordDue,
  slots := bif w.testBit 60 then t.slots else s.slots,
  switches := bif w.testBit 61 then t.switches else s.switches,
  windowTurn := bif w.testBit 62 then t.windowTurn else s.windowTurn,
  recheck := bif w.testBit 63 then t.recheck else s.recheck,
  recheckAt := bif w.testBit 64 then t.recheckAt else s.recheckAt,
  mgmt := bif w.testBit 65 then t.mgmt else s.mgmt,
  power := bif w.testBit 66 then t.power else s.power,
  sec := bif w.testBit 67 then t.sec else s.sec,
  clkMoved := bif w.testBit 68 then t.clkMoved else s.clkMoved,
  clkBring := bif w.testBit 69 then t.clkBring else s.clkBring,
  badSince := bif w.testBit 70 then t.badSince else s.badSince,
  tableWaits := bif w.testBit 71 then t.tableWaits else s.tableWaits,
  cacheSet := bif w.testBit 72 then t.cacheSet else s.cacheSet,
  ringLanded := bif w.testBit 73 then t.ringLanded else s.ringLanded,
  selfNow := bif w.testBit 74 then t.selfNow else s.selfNow }

/-- What an operation leaves as it was. -/
structure Frame (w b : Nat) (s t : State) : Prop where
  /-- Registers of the other of the nineteen blocks. -/
  regs : ∀ k, k / 2 ^ 26 < 19 → b.testBit (k / 2 ^ 26) = false → aFind t.regs k = aFind s.regs k
  now : w.testBit 0 = false → t.now = s.now
  freeCtr : w.testBit 1 = false → t.freeCtr = s.freeCtr
  mem : w.testBit 3 = false → t.mem = s.mem
  out : w.testBit 4 = false → t.out = s.out
  pending : w.testBit 5 = false → t.pending = s.pending
  score : w.testBit 6 = false → t.score = s.score
  ports : w.testBit 7 = false → t.ports = s.ports
  chans : w.testBit 8 = false → t.chans = s.chans
  cmds : w.testBit 9 = false → t.cmds = s.cmds
  nextCmd : w.testBit 10 = false → t.nextCmd = s.nextCmd
  doneCtr : w.testBit 11 = false → t.doneCtr = s.doneCtr
  grants : w.testBit 12 = false → t.grants = s.grants
  hold : w.testBit 13 = false → t.hold = s.hold
  late : w.testBit 14 = false → t.late = s.late
  ctxs : w.testBit 15 = false → t.ctxs = s.ctxs
  allocs : w.testBit 16 = false → t.allocs = s.allocs
  ranges : w.testBit 17 = false → t.ranges = s.ranges
  windows : w.testBit 18 = false → t.windows = s.windows
  moves : w.testBit 19 = false → t.moves = s.moves
  nextMove : w.testBit 20 = false → t.nextMove = s.nextMove
  wants : w.testBit 21 = false → t.wants = s.wants
  fwds : w.testBit 22 = false → t.fwds = s.fwds
  remaps : w.testBit 23 = false → t.remaps = s.remaps
  tlbs : w.testBit 24 = false → t.tlbs = s.tlbs
  faults : w.testBit 25 = false → t.faults = s.faults
  nextFault : w.testBit 26 = false → t.nextFault = s.nextFault
  descs : w.testBit 27 = false → t.descs = s.descs
  nextDesc : w.testBit 28 = false → t.nextDesc = s.nextDesc
  fabric : w.testBit 29 = false → t.fabric = s.fabric
  topo : w.testBit 30 = false → t.topo = s.topo
  tiles : w.testBit 31 = false → t.tiles = s.tiles
  nextTile : w.testBit 32 = false → t.nextTile = s.nextTile
  arming : w.testBit 33 = false → t.arming = s.arming
  injects : w.testBit 34 = false → t.injects = s.injects
  routers : w.testBit 35 = false → t.routers = s.routers
  areas : w.testBit 36 = false → t.areas = s.areas
  decided : w.testBit 37 = false → t.decided = s.decided
  stepSlots : w.testBit 38 = false → t.stepSlots = s.stepSlots
  hands : w.testBit 39 = false → t.hands = s.hands
  kitty : w.testBit 40 = false → t.kitty = s.kitty
  steps : w.testBit 41 = false → t.steps = s.steps
  entries : w.testBit 42 = false → t.entries = s.entries
  treeNodes : w.testBit 43 = false → t.treeNodes = s.treeNodes
  variants : w.testBit 44 = false → t.variants = s.variants
  dealing : w.testBit 45 = false → t.dealing = s.dealing
  accounts : w.testBit 46 = false → t.accounts = s.accounts
  launches : w.testBit 47 = false → t.launches = s.launches
  nextLaunch : w.testBit 48 = false → t.nextLaunch = s.nextLaunch
  rings : w.testBit 49 = false → t.rings = s.rings
  programs : w.testBit 50 = false → t.programs = s.programs
  coreFree : w.testBit 51 = false → t.coreFree = s.coreFree
  phaseSince : w.testBit 52 = false → t.phaseSince = s.phaseSince
  phaseNs : w.testBit 53 = false → t.phaseNs = s.phaseNs
  draws : w.testBit 54 = false → t.draws = s.draws
  units : w.testBit 55 = false → t.units = s.units
  bankMap : w.testBit 56 = false → t.bankMap = s.bankMap
  badBanks : w.testBit 57 = false → t.badBanks = s.badBanks
  selfDue : w.testBit 58 = false → t.selfDue = s.selfDue
  recordDue : w.testBit 59 = false → t.recordDue = s.recordDue
  slots : w.testBit 60 = false → t.slots = s.slots
  switches : w.testBit 61 = false → t.switches = s.switches
  windowTurn : w.testBit 62 = false → t.windowTurn = s.windowTurn
  recheck : w.testBit 63 = false → t.recheck = s.recheck
  recheckAt : w.testBit 64 = false → t.recheckAt = s.recheckAt
  mgmt : w.testBit 65 = false → t.mgmt = s.mgmt
  power : w.testBit 66 = false → t.power = s.power
  sec : w.testBit 67 = false → t.sec = s.sec
  clkMoved : w.testBit 68 = false → t.clkMoved = s.clkMoved
  clkBring : w.testBit 69 = false → t.clkBring = s.clkBring
  badSince : w.testBit 70 = false → t.badSince = s.badSince
  tableWaits : w.testBit 71 = false → t.tableWaits = s.tableWaits
  cacheSet : w.testBit 72 = false → t.cacheSet = s.cacheSet
  ringLanded : w.testBit 73 = false → t.ringLanded = s.ringLanded
  selfNow : w.testBit 74 = false → t.selfNow = s.selfNow
  /-- What no command or event undoes. -/
  keeps : Keeps s t

theorem Frame.refl {w b : Nat} (s : State) : Frame w b s s := ⟨fun _ _ _ => rfl, fun _ => rfl, fun _ => rfl, fun _ => rfl, fun _ => rfl, fun _ => rfl, fun _ => rfl, fun _ => rfl, fun _ => rfl, fun _ => rfl, fun _ => rfl, fun _ => rfl, fun _ => rfl, fun _ => rfl, fun _ => rfl, fun _ => rfl, fun _ => rfl, fun _ => rfl, fun _ => rfl, fun _ => rfl, fun _ => rfl, fun _ => rfl, fun _ => rfl, fun _ => rfl, fun _ => rfl, fun _ => rfl, fun _ => rfl, fun _ => rfl, fun _ => rfl, fun _ => rfl, fun _ => rfl, fun _ => rfl, fun _ => rfl, fun _ => rfl, fun _ => rfl, fun _ => rfl, fun _ => rfl, fun _ => rfl, fun _ => rfl, fun _ => rfl, fun _ => rfl, fun _ => rfl, fun _ => rfl, fun _ => rfl, fun _ => rfl, fun _ => rfl, fun _ => rfl, fun _ => rfl, fun _ => rfl, fun _ => rfl, fun _ => rfl, fun _ => rfl, fun _ => rfl, fun _ => rfl, fun _ => rfl, fun _ => rfl, fun _ => rfl, fun _ => rfl, fun _ => rfl, fun _ => rfl, fun _ => rfl, fun _ => rfl, fun _ => rfl, fun _ => rfl, fun _ => rfl, fun _ => rfl, fun _ => rfl, fun _ => rfl, fun _ => rfl, fun _ => rfl, fun _ => rfl, fun _ => rfl, fun _ => rfl, fun _ => rfl, fun _ => rfl, Keeps.refl s⟩

theorem Frame.trans {w b : Nat} {s t u : State} (h : Frame w b s t) (g : Frame w b t u) : Frame w b s u :=
  ⟨fun k y x => (g.regs k y x).trans (h.regs k y x),
    fun x => (g.now x).trans (h.now x),
    fun x => (g.freeCtr x).trans (h.freeCtr x),
    fun x => (g.mem x).trans (h.mem x),
    fun x => (g.out x).trans (h.out x),
    fun x => (g.pending x).trans (h.pending x),
    fun x => (g.score x).trans (h.score x),
    fun x => (g.ports x).trans (h.ports x),
    fun x => (g.chans x).trans (h.chans x),
    fun x => (g.cmds x).trans (h.cmds x),
    fun x => (g.nextCmd x).trans (h.nextCmd x),
    fun x => (g.doneCtr x).trans (h.doneCtr x),
    fun x => (g.grants x).trans (h.grants x),
    fun x => (g.hold x).trans (h.hold x),
    fun x => (g.late x).trans (h.late x),
    fun x => (g.ctxs x).trans (h.ctxs x),
    fun x => (g.allocs x).trans (h.allocs x),
    fun x => (g.ranges x).trans (h.ranges x),
    fun x => (g.windows x).trans (h.windows x),
    fun x => (g.moves x).trans (h.moves x),
    fun x => (g.nextMove x).trans (h.nextMove x),
    fun x => (g.wants x).trans (h.wants x),
    fun x => (g.fwds x).trans (h.fwds x),
    fun x => (g.remaps x).trans (h.remaps x),
    fun x => (g.tlbs x).trans (h.tlbs x),
    fun x => (g.faults x).trans (h.faults x),
    fun x => (g.nextFault x).trans (h.nextFault x),
    fun x => (g.descs x).trans (h.descs x),
    fun x => (g.nextDesc x).trans (h.nextDesc x),
    fun x => (g.fabric x).trans (h.fabric x),
    fun x => (g.topo x).trans (h.topo x),
    fun x => (g.tiles x).trans (h.tiles x),
    fun x => (g.nextTile x).trans (h.nextTile x),
    fun x => (g.arming x).trans (h.arming x),
    fun x => (g.injects x).trans (h.injects x),
    fun x => (g.routers x).trans (h.routers x),
    fun x => (g.areas x).trans (h.areas x),
    fun x => (g.decided x).trans (h.decided x),
    fun x => (g.stepSlots x).trans (h.stepSlots x),
    fun x => (g.hands x).trans (h.hands x),
    fun x => (g.kitty x).trans (h.kitty x),
    fun x => (g.steps x).trans (h.steps x),
    fun x => (g.entries x).trans (h.entries x),
    fun x => (g.treeNodes x).trans (h.treeNodes x),
    fun x => (g.variants x).trans (h.variants x),
    fun x => (g.dealing x).trans (h.dealing x),
    fun x => (g.accounts x).trans (h.accounts x),
    fun x => (g.launches x).trans (h.launches x),
    fun x => (g.nextLaunch x).trans (h.nextLaunch x),
    fun x => (g.rings x).trans (h.rings x),
    fun x => (g.programs x).trans (h.programs x),
    fun x => (g.coreFree x).trans (h.coreFree x),
    fun x => (g.phaseSince x).trans (h.phaseSince x),
    fun x => (g.phaseNs x).trans (h.phaseNs x),
    fun x => (g.draws x).trans (h.draws x),
    fun x => (g.units x).trans (h.units x),
    fun x => (g.bankMap x).trans (h.bankMap x),
    fun x => (g.badBanks x).trans (h.badBanks x),
    fun x => (g.selfDue x).trans (h.selfDue x),
    fun x => (g.recordDue x).trans (h.recordDue x),
    fun x => (g.slots x).trans (h.slots x),
    fun x => (g.switches x).trans (h.switches x),
    fun x => (g.windowTurn x).trans (h.windowTurn x),
    fun x => (g.recheck x).trans (h.recheck x),
    fun x => (g.recheckAt x).trans (h.recheckAt x),
    fun x => (g.mgmt x).trans (h.mgmt x),
    fun x => (g.power x).trans (h.power x),
    fun x => (g.sec x).trans (h.sec x),
    fun x => (g.clkMoved x).trans (h.clkMoved x),
    fun x => (g.clkBring x).trans (h.clkBring x),
    fun x => (g.badSince x).trans (h.badSince x),
    fun x => (g.tableWaits x).trans (h.tableWaits x),
    fun x => (g.cacheSet x).trans (h.cacheSet x),
    fun x => (g.ringLanded x).trans (h.ringLanded x),
    fun x => (g.selfNow x).trans (h.selfNow x),
    h.keeps.trans g.keeps⟩

/-- `mix` gives back the later state: nothing outside the mask has changed. -/
def Mixed (m : Nat) (t u : State) : Prop := mix m t u = u

theorem Mixed.of {m : Nat} {t u : State} (h : mix m t u = u) : Mixed m t u := h

theorem Frame.setAll {w b m : Nat} {s t u : State} (h : Frame w b s t) (hm : Sub m w) (e : Mixed m t u)
    (r : ∀ k, k / 2 ^ 26 < 19 → b.testBit (k / 2 ^ 26) = false → aFind u.regs k = aFind t.regs k) (k : Keeps t u) : Frame w b s u := by
  have key : ∀ {α : Type} {c : Bool} {x y z : α}, (bif c then y else x) = y → c = false → x = z → y = z := by
    intro α c x y z e hc hx; rw [hc] at e; exact e.symm.trans hx
  exact ⟨fun k y x => (r k y x).trans (h.regs k y x),
    fun x => key (congrArg State.now e) (hm.off x) (h.now x),
    fun x => key (congrArg State.freeCtr e) (hm.off x) (h.freeCtr x),
    fun x => key (congrArg State.mem e) (hm.off x) (h.mem x),
    fun x => key (congrArg State.out e) (hm.off x) (h.out x),
    fun x => key (congrArg State.pending e) (hm.off x) (h.pending x),
    fun x => key (congrArg State.score e) (hm.off x) (h.score x),
    fun x => key (congrArg State.ports e) (hm.off x) (h.ports x),
    fun x => key (congrArg State.chans e) (hm.off x) (h.chans x),
    fun x => key (congrArg State.cmds e) (hm.off x) (h.cmds x),
    fun x => key (congrArg State.nextCmd e) (hm.off x) (h.nextCmd x),
    fun x => key (congrArg State.doneCtr e) (hm.off x) (h.doneCtr x),
    fun x => key (congrArg State.grants e) (hm.off x) (h.grants x),
    fun x => key (congrArg State.hold e) (hm.off x) (h.hold x),
    fun x => key (congrArg State.late e) (hm.off x) (h.late x),
    fun x => key (congrArg State.ctxs e) (hm.off x) (h.ctxs x),
    fun x => key (congrArg State.allocs e) (hm.off x) (h.allocs x),
    fun x => key (congrArg State.ranges e) (hm.off x) (h.ranges x),
    fun x => key (congrArg State.windows e) (hm.off x) (h.windows x),
    fun x => key (congrArg State.moves e) (hm.off x) (h.moves x),
    fun x => key (congrArg State.nextMove e) (hm.off x) (h.nextMove x),
    fun x => key (congrArg State.wants e) (hm.off x) (h.wants x),
    fun x => key (congrArg State.fwds e) (hm.off x) (h.fwds x),
    fun x => key (congrArg State.remaps e) (hm.off x) (h.remaps x),
    fun x => key (congrArg State.tlbs e) (hm.off x) (h.tlbs x),
    fun x => key (congrArg State.faults e) (hm.off x) (h.faults x),
    fun x => key (congrArg State.nextFault e) (hm.off x) (h.nextFault x),
    fun x => key (congrArg State.descs e) (hm.off x) (h.descs x),
    fun x => key (congrArg State.nextDesc e) (hm.off x) (h.nextDesc x),
    fun x => key (congrArg State.fabric e) (hm.off x) (h.fabric x),
    fun x => key (congrArg State.topo e) (hm.off x) (h.topo x),
    fun x => key (congrArg State.tiles e) (hm.off x) (h.tiles x),
    fun x => key (congrArg State.nextTile e) (hm.off x) (h.nextTile x),
    fun x => key (congrArg State.arming e) (hm.off x) (h.arming x),
    fun x => key (congrArg State.injects e) (hm.off x) (h.injects x),
    fun x => key (congrArg State.routers e) (hm.off x) (h.routers x),
    fun x => key (congrArg State.areas e) (hm.off x) (h.areas x),
    fun x => key (congrArg State.decided e) (hm.off x) (h.decided x),
    fun x => key (congrArg State.stepSlots e) (hm.off x) (h.stepSlots x),
    fun x => key (congrArg State.hands e) (hm.off x) (h.hands x),
    fun x => key (congrArg State.kitty e) (hm.off x) (h.kitty x),
    fun x => key (congrArg State.steps e) (hm.off x) (h.steps x),
    fun x => key (congrArg State.entries e) (hm.off x) (h.entries x),
    fun x => key (congrArg State.treeNodes e) (hm.off x) (h.treeNodes x),
    fun x => key (congrArg State.variants e) (hm.off x) (h.variants x),
    fun x => key (congrArg State.dealing e) (hm.off x) (h.dealing x),
    fun x => key (congrArg State.accounts e) (hm.off x) (h.accounts x),
    fun x => key (congrArg State.launches e) (hm.off x) (h.launches x),
    fun x => key (congrArg State.nextLaunch e) (hm.off x) (h.nextLaunch x),
    fun x => key (congrArg State.rings e) (hm.off x) (h.rings x),
    fun x => key (congrArg State.programs e) (hm.off x) (h.programs x),
    fun x => key (congrArg State.coreFree e) (hm.off x) (h.coreFree x),
    fun x => key (congrArg State.phaseSince e) (hm.off x) (h.phaseSince x),
    fun x => key (congrArg State.phaseNs e) (hm.off x) (h.phaseNs x),
    fun x => key (congrArg State.draws e) (hm.off x) (h.draws x),
    fun x => key (congrArg State.units e) (hm.off x) (h.units x),
    fun x => key (congrArg State.bankMap e) (hm.off x) (h.bankMap x),
    fun x => key (congrArg State.badBanks e) (hm.off x) (h.badBanks x),
    fun x => key (congrArg State.selfDue e) (hm.off x) (h.selfDue x),
    fun x => key (congrArg State.recordDue e) (hm.off x) (h.recordDue x),
    fun x => key (congrArg State.slots e) (hm.off x) (h.slots x),
    fun x => key (congrArg State.switches e) (hm.off x) (h.switches x),
    fun x => key (congrArg State.windowTurn e) (hm.off x) (h.windowTurn x),
    fun x => key (congrArg State.recheck e) (hm.off x) (h.recheck x),
    fun x => key (congrArg State.recheckAt e) (hm.off x) (h.recheckAt x),
    fun x => key (congrArg State.mgmt e) (hm.off x) (h.mgmt x),
    fun x => key (congrArg State.power e) (hm.off x) (h.power x),
    fun x => key (congrArg State.sec e) (hm.off x) (h.sec x),
    fun x => key (congrArg State.clkMoved e) (hm.off x) (h.clkMoved x),
    fun x => key (congrArg State.clkBring e) (hm.off x) (h.clkBring x),
    fun x => key (congrArg State.badSince e) (hm.off x) (h.badSince x),
    fun x => key (congrArg State.tableWaits e) (hm.off x) (h.tableWaits x),
    fun x => key (congrArg State.cacheSet e) (hm.off x) (h.cacheSet x),
    fun x => key (congrArg State.ringLanded e) (hm.off x) (h.ringLanded x),
    fun x => key (congrArg State.selfNow e) (hm.off x) (h.selfNow x),
    h.keeps.trans k⟩

theorem Frame.set {w b m : Nat} {s t u : State} (h : Frame w b s t) (hm : Sub m w) (e : Mixed m t u) (r : u.regs = t.regs) (k : Keeps t u) : Frame w b s u :=
  h.setAll hm e (fun _ _ _ => by rw [r]) k

/-- Fields set that `Keeps` does not speak of. -/
theorem Frame.upd {w b m : Nat} {s t : State} (h : Frame w b s t) (hm : Sub m w)
    {x_now : Nat} {x_freeCtr : Nat} {x_out : List Output} {x_ports : List (Nat × PciePort)} {x_chans : List (Nat × Chan)} {x_cmds : List Cmd}
    {x_nextCmd : Nat} {x_doneCtr : Nat} {x_grants : Nat} {x_late : List Reply} {x_ctxs : List (Nat × Ctx)} {x_allocs : List Alloc} {x_ranges :
    List VaRange} {x_windows : List Window} {x_moves : List Move} {x_nextMove : Nat} {x_wants : List Move} {x_fwds : List Fwd} {x_remaps :
    List Remap} {x_tlbs : List Tlb} {x_faults : List FaultEntry} {x_nextFault : Nat} {x_descs : List Desc} {x_nextDesc : Nat} {x_fabric :
    Fabric} {x_topo : Topo} {x_tiles : List Tile} {x_nextTile : Nat} {x_arming : List (Nat × Nat)} {x_injects : List Nat} {x_routers : List
    Router} {x_areas : List Area} {x_decided : Nat} {x_stepSlots : List (Nat × Nat)} {x_hands : List (Nat × Hand)} {x_kitty : List (Nat ×
    Kitty)} {x_steps : List Step} {x_entries : List (Nat × Entry)} {x_treeNodes : List Nat} {x_variants : List Variant} {x_dealing : List (Nat
    × List Nat)} {x_accounts : List (Nat × Account)} {x_launches : List Launch} {x_nextLaunch : Nat} {x_rings : List (Nat × List Nat)}
    {x_programs : List Program} {x_coreFree : List (Nat × Nat)} {x_phaseSince : List (Nat × Nat)} {x_phaseNs : List (Nat
    × Nat)} {x_draws : List CoreDraw} {x_units : List (Nat × Nat)} {x_bankMap : List (Nat × Nat)} {x_badBanks : List (Nat × Nat)} {x_selfDue :
    List Nat} {x_recordDue : Option Nat} {x_slots : List (Nat × Slot)} {x_switches : List Switch} {x_windowTurn : Nat} {x_recheck : List (Nat
    × Nat)} {x_recheckAt : Nat} {x_mgmt : Mgmt} {x_power : Power} {x_clkMoved : List Nat} {x_clkBring : Bool}
    {x_badSince : List (Nat × Nat)} {x_tableWaits : List Parked} {x_cacheSet : List Nat} {x_ringLanded : List (Nat × Nat)} {x_selfNow : Option Nat}
    {x_score : Score} {x_sec : Sec} (e : Mixed m t { t with
      now := x_now, freeCtr := x_freeCtr, out := x_out, score := x_score, ports := x_ports, chans := x_chans, cmds := x_cmds, nextCmd :=
      x_nextCmd, doneCtr := x_doneCtr, grants := x_grants, late := x_late, ctxs := x_ctxs, allocs := x_allocs, ranges := x_ranges, windows :=
      x_windows, moves := x_moves, nextMove := x_nextMove, wants := x_wants, fwds := x_fwds, remaps := x_remaps, tlbs := x_tlbs, faults :=
      x_faults, nextFault := x_nextFault, descs := x_descs, nextDesc := x_nextDesc, fabric := x_fabric, topo := x_topo, tiles := x_tiles,
      nextTile := x_nextTile, arming := x_arming, injects := x_injects, routers := x_routers, areas := x_areas, decided := x_decided,
      stepSlots := x_stepSlots, hands := x_hands, kitty := x_kitty, steps := x_steps, entries := x_entries, treeNodes := x_treeNodes, variants
      := x_variants, dealing := x_dealing, accounts := x_accounts, launches := x_launches, nextLaunch := x_nextLaunch, rings := x_rings,
      programs := x_programs, coreFree := x_coreFree, phaseSince := x_phaseSince, phaseNs := x_phaseNs, draws :=
      x_draws, units := x_units, bankMap := x_bankMap, badBanks := x_badBanks, selfDue := x_selfDue, recordDue := x_recordDue, slots :=
      x_slots, switches := x_switches, windowTurn := x_windowTurn, recheck := x_recheck, recheckAt := x_recheckAt, mgmt := x_mgmt, power :=
      x_power, sec := x_sec, clkMoved := x_clkMoved, clkBring := x_clkBring, badSince := x_badSince, tableWaits := x_tableWaits, cacheSet := x_cacheSet, ringLanded := x_ringLanded, selfNow := x_selfNow })
    (hg : x_score.ring = t.score.ring)
    (hs : x_sec.floors = t.sec.floors ∧ x_sec.reserved = t.sec.reserved ∧ x_sec.counter = t.sec.counter) :
    Frame w b s { t with
      now := x_now, freeCtr := x_freeCtr, out := x_out, score := x_score, ports := x_ports, chans := x_chans, cmds := x_cmds, nextCmd :=
      x_nextCmd, doneCtr := x_doneCtr, grants := x_grants, late := x_late, ctxs := x_ctxs, allocs := x_allocs, ranges := x_ranges, windows :=
      x_windows, moves := x_moves, nextMove := x_nextMove, wants := x_wants, fwds := x_fwds, remaps := x_remaps, tlbs := x_tlbs, faults :=
      x_faults, nextFault := x_nextFault, descs := x_descs, nextDesc := x_nextDesc, fabric := x_fabric, topo := x_topo, tiles := x_tiles,
      nextTile := x_nextTile, arming := x_arming, injects := x_injects, routers := x_routers, areas := x_areas, decided := x_decided,
      stepSlots := x_stepSlots, hands := x_hands, kitty := x_kitty, steps := x_steps, entries := x_entries, treeNodes := x_treeNodes, variants
      := x_variants, dealing := x_dealing, accounts := x_accounts, launches := x_launches, nextLaunch := x_nextLaunch, rings := x_rings,
      programs := x_programs, coreFree := x_coreFree, phaseSince := x_phaseSince, phaseNs := x_phaseNs, draws :=
      x_draws, units := x_units, bankMap := x_bankMap, badBanks := x_badBanks, selfDue := x_selfDue, recordDue := x_recordDue, slots :=
      x_slots, switches := x_switches, windowTurn := x_windowTurn, recheck := x_recheck, recheckAt := x_recheckAt, mgmt := x_mgmt, power :=
      x_power, sec := x_sec, clkMoved := x_clkMoved, clkBring := x_clkBring, badSince := x_badSince, tableWaits := x_tableWaits, cacheSet := x_cacheSet, ringLanded := x_ringLanded, selfNow := x_selfNow } :=
  h.set hm e rfl (Keeps.upd (Keeps.refl t) hg hs)

theorem Frame.setMem {w b : Nat} {s t : State} {m : List Host.Cell} (h : Frame w b s t) (hm : memWf t.mem = true → memWf m = true)
    (hw : w.testBit 3 = true) : Frame w b s { t with mem := m } :=
  ⟨h.regs, h.now, h.freeCtr, fun x => absurd (hw.symm.trans x) (by decide), h.out, h.pending, h.score, h.ports, h.chans, h.cmds, h.nextCmd, h.doneCtr, h.grants, h.hold, h.late, h.ctxs, h.allocs, h.ranges, h.windows, h.moves, h.nextMove, h.wants, h.fwds, h.remaps, h.tlbs, h.faults, h.nextFault, h.descs, h.nextDesc, h.fabric, h.topo, h.tiles, h.nextTile, h.arming, h.injects, h.routers, h.areas, h.decided, h.stepSlots, h.hands, h.kitty, h.steps, h.entries, h.treeNodes, h.variants, h.dealing, h.accounts, h.launches, h.nextLaunch, h.rings, h.programs, h.coreFree, h.phaseSince, h.phaseNs, h.draws, h.units, h.bankMap, h.badBanks, h.selfDue, h.recordDue, h.slots, h.switches, h.windowTurn, h.recheck, h.recheckAt, h.mgmt, h.power, h.sec, h.clkMoved, h.clkBring, h.badSince, h.tableWaits, h.cacheSet, h.ringLanded, h.selfNow,
    h.keeps.trans ⟨rfl, hm, id, id, id, fun _ => Nat.le_refl _, Nat.le_refl _, Nat.le_refl _⟩⟩

theorem Frame.setHold {w b : Nat} {s t : State} {m : List Reply} (h : Frame w b s t) (hm : t.hold.length ≤ 4096 → m.length ≤ 4096)
    (hw : w.testBit 13 = true) : Frame w b s { t with hold := m } :=
  ⟨h.regs, h.now, h.freeCtr, h.mem, h.out, h.pending, h.score, h.ports, h.chans, h.cmds, h.nextCmd, h.doneCtr, h.grants, fun x => absurd (hw.symm.trans x) (by decide), h.late, h.ctxs, h.allocs, h.ranges, h.windows, h.moves, h.nextMove, h.wants, h.fwds, h.remaps, h.tlbs, h.faults, h.nextFault, h.descs, h.nextDesc, h.fabric, h.topo, h.tiles, h.nextTile, h.arming, h.injects, h.routers, h.areas, h.decided, h.stepSlots, h.hands, h.kitty, h.steps, h.entries, h.treeNodes, h.variants, h.dealing, h.accounts, h.launches, h.nextLaunch, h.rings, h.programs, h.coreFree, h.phaseSince, h.phaseNs, h.draws, h.units, h.bankMap, h.badBanks, h.selfDue, h.recordDue, h.slots, h.switches, h.windowTurn, h.recheck, h.recheckAt, h.mgmt, h.power, h.sec, h.clkMoved, h.clkBring, h.badSince, h.tableWaits, h.cacheSet, h.ringLanded, h.selfNow,
    h.keeps.trans ⟨rfl, id, id, hm, id, fun _ => Nat.le_refl _, Nat.le_refl _, Nat.le_refl _⟩⟩

theorem Frame.setScore {w b : Nat} {s t : State} {m : Score} (h : Frame w b s t) (hm : t.score.ring.length ≤ 8192 → m.ring.length ≤ 8192)
    (hw : w.testBit 6 = true) : Frame w b s { t with score := m } :=
  ⟨h.regs, h.now, h.freeCtr, h.mem, h.out, h.pending, fun x => absurd (hw.symm.trans x) (by decide), h.ports, h.chans, h.cmds, h.nextCmd, h.doneCtr, h.grants, h.hold, h.late, h.ctxs, h.allocs, h.ranges, h.windows, h.moves, h.nextMove, h.wants, h.fwds, h.remaps, h.tlbs, h.faults, h.nextFault, h.descs, h.nextDesc, h.fabric, h.topo, h.tiles, h.nextTile, h.arming, h.injects, h.routers, h.areas, h.decided, h.stepSlots, h.hands, h.kitty, h.steps, h.entries, h.treeNodes, h.variants, h.dealing, h.accounts, h.launches, h.nextLaunch, h.rings, h.programs, h.coreFree, h.phaseSince, h.phaseNs, h.draws, h.units, h.bankMap, h.badBanks, h.selfDue, h.recordDue, h.slots, h.switches, h.windowTurn, h.recheck, h.recheckAt, h.mgmt, h.power, h.sec, h.clkMoved, h.clkBring, h.badSince, h.tableWaits, h.cacheSet, h.ringLanded, h.selfNow,
    h.keeps.trans ⟨rfl, id, id, id, hm, fun _ => Nat.le_refl _, Nat.le_refl _, Nat.le_refl _⟩⟩

theorem Frame.setRegs {w b : Nat} {s t : State} {r : List (Nat × Nat)} (h : Frame w b s t)
    (hr : ∀ k, k / 2 ^ 26 < 19 → b.testBit (k / 2 ^ 26) = false → aFind r k = aFind t.regs k) (hk : regsWf t.regs = true → regsWf r = true) :
    Frame w b s { t with regs := r } :=
  ⟨fun k y x => (hr k y x).trans (h.regs k y x), h.now, h.freeCtr, h.mem, h.out, h.pending, h.score, h.ports, h.chans, h.cmds, h.nextCmd, h.doneCtr, h.grants, h.hold, h.late, h.ctxs, h.allocs, h.ranges, h.windows, h.moves, h.nextMove, h.wants, h.fwds, h.remaps, h.tlbs, h.faults, h.nextFault, h.descs, h.nextDesc, h.fabric, h.topo, h.tiles, h.nextTile, h.arming, h.injects, h.routers, h.areas, h.decided, h.stepSlots, h.hands, h.kitty, h.steps, h.entries, h.treeNodes, h.variants, h.dealing, h.accounts, h.launches, h.nextLaunch, h.rings, h.programs, h.coreFree, h.phaseSince, h.phaseNs, h.draws, h.units, h.bankMap, h.badBanks, h.selfDue, h.recordDue, h.slots, h.switches, h.windowTurn, h.recheck, h.recheckAt, h.mgmt, h.power, h.sec, h.clkMoved, h.clkBring, h.badSince, h.tableWaits, h.cacheSet, h.ringLanded, h.selfNow,
    h.keeps.trans ⟨rfl, id, hk, id, id, fun _ => Nat.le_refl _, Nat.le_refl _, Nat.le_refl _⟩⟩

/-- A fold keeps what each of its steps keeps. -/
theorem foldl_inv {α β : Type} {P : β → Prop} {f : β → α → β} (hf : ∀ b a, P b → P (f b a)) (l : List α) {b : β} (hb : P b) : P (l.foldl f b) := by
  induction l generalizing b with
  | nil => exact hb
  | cons a r ih => exact ih (hf b a hb)

theorem Frame.ite {w b : Nat} {s x y : State} {c : Prop} [Decidable c] (hx : Frame w b s x) (hy : Frame w b s y) : Frame w b s (if c then x else y) := by
  split
  · exact hx
  · exact hy

theorem Frame.foldl {α : Type} {w b : Nat} {s t : State} {f : State → α → State} {l : List α} (hf : ∀ t x, Frame w b s t → Frame w b s (f t x)) (h : Frame w b s t) :
    Frame w b s (l.foldl f t) := by
  induction l generalizing t with
  | nil => exact h
  | cons a r ih => exact ih (hf t a h)

theorem Frame.foldr {α : Type} {w b : Nat} {s t : State} {f : α → State → State} {l : List α} (hf : ∀ x t, Frame w b s t → Frame w b s (f x t)) (h : Frame w b s t) :
    Frame w b s (l.foldr f t) := by
  induction l with
  | nil => exact h
  | cons a r ih => exact hf a _ ih

theorem Frame.cond {w b : Nat} {s x y : State} {c : Bool} (hx : Frame w b s x) (hy : Frame w b s y) : Frame w b s (cond c x y) := by
  cases c
  · exact hy
  · exact hx

theorem Frame.getD {w b : Nat} {s t : State} {o : Option State} (ho : ∀ u, o = some u → Frame w b s u) (h : Frame w b s t) : Frame w b s (o.getD t) := by
  cases o with
  | none => exact h
  | some u => exact ho u rfl

theorem Fld.key_div (f : Fld) : f.key / 2 ^ 26 = f.blk := by
  unfold Fld.key
  omega

theorem State.wr_fr {w b : Nat} {s0 : State} (s : State) (f : Fld) (v : Nat) (h : Frame w b s0 s)
    (hf : b.testBit f.blk = true := by first | exact hfb.bit rfl | exact hfb.bit (i := 0) rfl | exact hfb.bit (i := 1) rfl | exact hfb.bit (i := 2) rfl | exact hfb.bit (i := 3) rfl | exact hfb.bit (i := 4) rfl | exact hfb.bit (i := 5) rfl | exact hfb.bit (i := 6) rfl | exact hfb.bit (i := 7) rfl | exact hfb.bit (i := 8) rfl | exact hfb.bit (i := 9) rfl | exact hfb.bit (i := 10) rfl | exact hfb.bit (i := 11) rfl | exact hfb.bit (i := 12) rfl | exact hfb.bit (i := 13) rfl | exact hfb.bit (i := 14) rfl | exact hfb.bit (i := 15) rfl | exact hfb.bit (i := 16) rfl | exact hfb.bit (i := 17) rfl | exact hfb.bit (i := 18) rfl) : Frame w b s0 (s.wr f v) := by
  refine Frame.setRegs h (fun k _ hk => ?_) (regsWf_wr s f v)
  have hn : k ≠ f.key := by
    intro e
    rw [e, Fld.key_div, hf] at hk
    cases hk
  split
  · exact aFind_aErase_other _ _ _ hn
  · exact aFind_aPut_other _ _ _ _ hn

theorem State.reg0_fr {w b : Nat} {s0 : State} (s : State) (f : Fld) (h : Frame w b s0 s)
    (hf : b.testBit f.blk = true := by first | exact hfb.bit rfl | exact hfb.bit (i := 0) rfl | exact hfb.bit (i := 1) rfl | exact hfb.bit (i := 2) rfl | exact hfb.bit (i := 3) rfl | exact hfb.bit (i := 4) rfl | exact hfb.bit (i := 5) rfl | exact hfb.bit (i := 6) rfl | exact hfb.bit (i := 7) rfl | exact hfb.bit (i := 8) rfl | exact hfb.bit (i := 9) rfl | exact hfb.bit (i := 10) rfl | exact hfb.bit (i := 11) rfl | exact hfb.bit (i := 12) rfl | exact hfb.bit (i := 13) rfl | exact hfb.bit (i := 14) rfl | exact hfb.bit (i := 15) rfl | exact hfb.bit (i := 16) rfl | exact hfb.bit (i := 17) rfl | exact hfb.bit (i := 18) rfl) : Frame w b s0 (s.reg0 f) := by
  refine Frame.setRegs h (fun k _ hk => ?_) (regsWf_reg0 s f)
  have hn : k ≠ f.key := by
    intro e
    rw [e, Fld.key_div, hf] at hk
    cases hk
  exact aFind_aErase_other _ _ _ hn

theorem State.wrs_fr {w b m : Nat} {s0 : State} (s : State) (l : List (Fld × Nat)) (h : Frame w b s0 s)
    (hb : Sub m b := by exact hfb) (hl : l.all (fun p => m.testBit p.1.blk) = true := by exact rfl) : Frame w b s0 (s.wrs l) := by
  induction l generalizing s with
  | nil => exact h
  | cons p r ih =>
    rw [List.all_cons, Bool.and_eq_true] at hl
    exact ih (s.wr p.1 p.2) (State.wr_fr _ _ _ h (hb.bit hl.1)) hl.2

theorem State.regs0_fr {w b m : Nat} {s0 : State} (s : State) (l : List Fld) (h : Frame w b s0 s)
    (hb : Sub m b := by exact hfb) (hl : l.all (fun f => m.testBit f.blk) = true := by exact rfl) : Frame w b s0 (s.regs0 l) := by
  induction l generalizing s with
  | nil => exact h
  | cons p r ih =>
    rw [List.all_cons, Bool.and_eq_true] at hl
    exact ih (s.reg0 p) (State.reg0_fr _ _ h (hb.bit hl.1)) hl.2

/-- A field of a block that an operation does not write reads as before. -/
theorem Frame.rd {w b : Nat} {s t : State} (h : Frame w b s t) (f : Fld) (hn : f.blk < 19) (hf : b.testBit f.blk = false) : t.rd f = s.rd f := by
  unfold State.rd
  rw [h.regs f.key (by rw [Fld.key_div]; exact hn) (by rw [Fld.key_div]; exact hf)]

end Sys2Proof.Machine
end

