-- ==== Sys2Proof/Laws/Frame/Ops.lean ====
section
/-! SUPPORT. What the operations of Machine/Ops.lean leave as it was (`Frame`): one lemma each. -/

set_option linter.unreachableTactic false
set_option linter.unusedTactic false

namespace Sys2Proof.Machine

set_option Elab.async false

open Sys2Proof

theorem State.bump_fr {fw fb : Nat} {s0 : State} (s : State) (f : Fld) (n : Nat) (hK : Frame fw fb s0 s)  (hf : fb.testBit f.blk = true := by first | exact hfb.bit rfl | exact hfb.bit (i := 0) rfl | exact hfb.bit (i := 1) rfl | exact hfb.bit (i := 2) rfl | exact hfb.bit (i := 3) rfl | exact hfb.bit (i := 4) rfl | exact hfb.bit (i := 5) rfl | exact hfb.bit (i := 6) rfl | exact hfb.bit (i := 7) rfl | exact hfb.bit (i := 8) rfl | exact hfb.bit (i := 9) rfl | exact hfb.bit (i := 10) rfl | exact hfb.bit (i := 11) rfl | exact hfb.bit (i := 12) rfl | exact hfb.bit (i := 13) rfl | exact hfb.bit (i := 14) rfl | exact hfb.bit (i := 15) rfl | exact hfb.bit (i := 16) rfl | exact hfb.bit (i := 17) rfl | exact hfb.bit (i := 18) rfl) : Frame fw fb s0 (State.bump s f n) := by
  unfold State.bump
  repeat' (first
    | with_reducible assumption
    | with_reducible apply State.wr_fr
    | (with_reducible refine Frame.ite ?_ ?_)
    | ((with_reducible apply Sub.within hfw); exact rfl)
    | ((with_reducible apply Sub.within hfb); exact rfl)
    | ((with_reducible apply Mixed.of); exact rfl)
    | (extract_lets)
    | split
    | (intro _ _ _)
    | (intro _ e; have _hk : Frame _ _ _ _ := e)
    | (intro _ e; cases e)
    | dsimp only
    | (dsimp +zetaDelta only))

theorem State.drop_fr {fw fb : Nat} {s0 : State} (s : State) (f : Fld) (n : Nat) (hK : Frame fw fb s0 s)  (hf : fb.testBit f.blk = true := by first | exact hfb.bit rfl | exact hfb.bit (i := 0) rfl | exact hfb.bit (i := 1) rfl | exact hfb.bit (i := 2) rfl | exact hfb.bit (i := 3) rfl | exact hfb.bit (i := 4) rfl | exact hfb.bit (i := 5) rfl | exact hfb.bit (i := 6) rfl | exact hfb.bit (i := 7) rfl | exact hfb.bit (i := 8) rfl | exact hfb.bit (i := 9) rfl | exact hfb.bit (i := 10) rfl | exact hfb.bit (i := 11) rfl | exact hfb.bit (i := 12) rfl | exact hfb.bit (i := 13) rfl | exact hfb.bit (i := 14) rfl | exact hfb.bit (i := 15) rfl | exact hfb.bit (i := 16) rfl | exact hfb.bit (i := 17) rfl | exact hfb.bit (i := 18) rfl) : Frame fw fb s0 (State.drop s f n) := by
  unfold State.drop
  repeat' (first
    | with_reducible assumption
    | with_reducible apply State.wr_fr
    | (with_reducible refine Frame.ite ?_ ?_)
    | ((with_reducible apply Sub.within hfw); exact rfl)
    | ((with_reducible apply Sub.within hfb); exact rfl)
    | ((with_reducible apply Mixed.of); exact rfl)
    | (extract_lets)
    | split
    | (intro _ _ _)
    | (intro _ e; have _hk : Frame _ _ _ _ := e)
    | (intro _ e; cases e)
    | dsimp only
    | (dsimp +zetaDelta only))

theorem State.store_fr {fw fb : Nat} {s0 : State} (s : State) (a n v : Nat) (h : Frame fw fb s0 s) (hfw : Sub 8 fw := by exact Sub.within hfw rfl) : Frame fw fb s0 (s.store a n v) := h.setMem (memWf_memWrite _ _ _) (hfw.bit rfl)

theorem State.storeBytes_fr {fw fb : Nat} {s0 : State} (s : State) (a : Nat) (l : List Byte) (h : Frame fw fb s0 s) (hfw : Sub 8 fw := by exact Sub.within hfw rfl) : Frame fw fb s0 (s.storeBytes a l) := h.setMem (memWf_memWrite _ _ _) (hfw.bit rfl)

theorem State.storeWords_fr {fw fb : Nat} {s0 : State} (s : State) (a : Nat) (l : List Nat) (hK : Frame fw fb s0 s) (hfw : Sub 8 fw := by exact Sub.within hfw rfl) : Frame fw fb s0 (State.storeWords s a l) := by
  unfold State.storeWords
  repeat' (first
    | with_reducible assumption
    | with_reducible apply State.storeBytes_fr
    | (with_reducible refine Frame.ite ?_ ?_)
    | ((with_reducible apply Sub.within hfw); exact rfl)
    | ((with_reducible apply Sub.within hfb); exact rfl)
    | ((with_reducible apply Mixed.of); exact rfl)
    | (extract_lets)
    | split
    | (intro _ _ _)
    | (intro _ e; have _hk : Frame _ _ _ _ := e)
    | (intro _ e; cases e)
    | dsimp only
    | (dsimp +zetaDelta only))

theorem State.copy_fr {fw fb : Nat} {s0 : State} (s : State) (dst src n : Nat) (h : Frame fw fb s0 s) (hfw : Sub 8 fw := by exact Sub.within hfw rfl) : Frame fw fb s0 (s.copy dst src n) := h.setMem (memWf_memCopy _ _ _ _) (hfw.bit rfl)

theorem State.clear_fr {fw fb : Nat} {s0 : State} (s : State) (a n : Nat) (h : Frame fw fb s0 s) (hfw : Sub 8 fw := by exact Sub.within hfw rfl) : Frame fw fb s0 (s.clear a n) := h.setMem (memWf_memClear _ _ _) (hfw.bit rfl)

theorem State.took_fr {fw fb : Nat} {s0 : State} (s : State) (hK : Frame fw fb s0 s) (hfw : Sub 2 fw := by exact Sub.within hfw rfl) : Frame fw fb s0 (State.took s) := by
  have k0 : ∀ (t : State) x0, Frame fw fb s0 t → Frame fw fb s0 { t with freeCtr := x0 } := fun t x0 ht => Frame.upd ht hfw rfl rfl ⟨rfl, rfl, rfl⟩
  unfold State.took
  repeat' (first
    | with_reducible assumption
    | (with_reducible refine Frame.ite ?_ ?_)
    | ((with_reducible apply Sub.within hfw); exact rfl)
    | ((with_reducible apply Sub.within hfb); exact rfl)
    | ((with_reducible apply Mixed.of); exact rfl)
    | (extract_lets)
    | (fail_if_no_progress (with_reducible refine k0 _ _ ?_))
    | split
    | (intro _ _ _)
    | (intro _ e; have _hk : Frame _ _ _ _ := e)
    | (intro _ e; cases e)
    | dsimp only
    | (dsimp +zetaDelta only)
    | (fail_if_no_progress ((with_reducible refine Frame.upd ?_ hfw ?_ rfl ⟨rfl, rfl, rfl⟩); rotate_left; exact rfl)))

theorem State.setPort_fr {fw fb : Nat} {s0 : State} (s : State) (h : Nat) (p : PciePort) (hK : Frame fw fb s0 s) (hfw : Sub 128 fw := by exact Sub.within hfw rfl) : Frame fw fb s0 (State.setPort s h p) := by
  have k0 : ∀ (t : State) x0, Frame fw fb s0 t → Frame fw fb s0 { t with ports := x0 } := fun t x0 ht => Frame.upd ht hfw rfl rfl ⟨rfl, rfl, rfl⟩
  unfold State.setPort
  repeat' (first
    | with_reducible assumption
    | (with_reducible refine Frame.getD ?_ ?_)
    | (with_reducible refine Frame.ite ?_ ?_)
    | ((with_reducible apply Sub.within hfw); exact rfl)
    | ((with_reducible apply Sub.within hfb); exact rfl)
    | ((with_reducible apply Mixed.of); exact rfl)
    | (extract_lets)
    | (fail_if_no_progress (with_reducible refine k0 _ _ ?_))
    | split
    | (intro _ _ _)
    | (intro _ e; have _hk : Frame _ _ _ _ := e)
    | (intro _ e; cases e)
    | dsimp only
    | (dsimp +zetaDelta only)
    | (fail_if_no_progress ((with_reducible refine Frame.upd ?_ hfw ?_ rfl ⟨rfl, rfl, rfl⟩); rotate_left; exact rfl)))

theorem State.setChan_fr {fw fb : Nat} {s0 : State} (s : State) (c : Nat) (x : Chan) (hK : Frame fw fb s0 s) (hfw : Sub 256 fw := by exact Sub.within hfw rfl) : Frame fw fb s0 (State.setChan s c x) := by
  have k0 : ∀ (t : State) x0, Frame fw fb s0 t → Frame fw fb s0 { t with chans := x0 } := fun t x0 ht => Frame.upd ht hfw rfl rfl ⟨rfl, rfl, rfl⟩
  unfold State.setChan
  repeat' (first
    | with_reducible assumption
    | (with_reducible refine Frame.getD ?_ ?_)
    | (with_reducible refine Frame.ite ?_ ?_)
    | ((with_reducible apply Sub.within hfw); exact rfl)
    | ((with_reducible apply Sub.within hfb); exact rfl)
    | ((with_reducible apply Mixed.of); exact rfl)
    | (extract_lets)
    | (fail_if_no_progress (with_reducible refine k0 _ _ ?_))
    | split
    | (intro _ _ _)
    | (intro _ e; have _hk : Frame _ _ _ _ := e)
    | (intro _ e; cases e)
    | dsimp only
    | (dsimp +zetaDelta only)
    | (fail_if_no_progress ((with_reducible refine Frame.upd ?_ hfw ?_ rfl ⟨rfl, rfl, rfl⟩); rotate_left; exact rfl)))

theorem State.setCtx_fr {fw fb : Nat} {s0 : State} (s : State) (c : Nat) (x : Ctx) (hK : Frame fw fb s0 s) (hfw : Sub 32768 fw := by exact Sub.within hfw rfl) : Frame fw fb s0 (State.setCtx s c x) := by
  have k0 : ∀ (t : State) x0, Frame fw fb s0 t → Frame fw fb s0 { t with ctxs := x0 } := fun t x0 ht => Frame.upd ht hfw rfl rfl ⟨rfl, rfl, rfl⟩
  unfold State.setCtx
  repeat' (first
    | with_reducible assumption
    | (with_reducible refine Frame.getD ?_ ?_)
    | (with_reducible refine Frame.ite ?_ ?_)
    | ((with_reducible apply Sub.within hfw); exact rfl)
    | ((with_reducible apply Sub.within hfb); exact rfl)
    | ((with_reducible apply Mixed.of); exact rfl)
    | (extract_lets)
    | (fail_if_no_progress (with_reducible refine k0 _ _ ?_))
    | split
    | (intro _ _ _)
    | (intro _ e; have _hk : Frame _ _ _ _ := e)
    | (intro _ e; cases e)
    | dsimp only
    | (dsimp +zetaDelta only)
    | (fail_if_no_progress ((with_reducible refine Frame.upd ?_ hfw ?_ rfl ⟨rfl, rfl, rfl⟩); rotate_left; exact rfl)))

theorem State.setLink_fr {fw fb : Nat} {s0 : State} (s : State) (l : Nat) (x : Link) (hK : Frame fw fb s0 s) (hfw : Sub 536870912 fw := by exact Sub.within hfw rfl) : Frame fw fb s0 (State.setLink s l x) := by
  have k0 : ∀ (t : State) x0, Frame fw fb s0 t → Frame fw fb s0 { t with fabric := x0 } := fun t x0 ht => Frame.upd ht hfw rfl rfl ⟨rfl, rfl, rfl⟩
  unfold State.setLink
  repeat' (first
    | with_reducible assumption
    | (with_reducible refine Frame.ite ?_ ?_)
    | ((with_reducible apply Sub.within hfw); exact rfl)
    | ((with_reducible apply Sub.within hfb); exact rfl)
    | ((with_reducible apply Mixed.of); exact rfl)
    | (extract_lets)
    | (fail_if_no_progress (with_reducible refine k0 _ _ ?_))
    | split
    | (intro _ _ _)
    | (intro _ e; have _hk : Frame _ _ _ _ := e)
    | (intro _ e; cases e)
    | dsimp only
    | (dsimp +zetaDelta only)
    | (fail_if_no_progress ((with_reducible refine Frame.upd ?_ hfw ?_ rfl ⟨rfl, rfl, rfl⟩); rotate_left; exact rfl)))

theorem State.emit_fr {fw fb : Nat} {s0 : State} (s : State) (o : Output) (hK : Frame fw fb s0 s) (hfw : Sub 16 fw := by exact Sub.within hfw rfl) : Frame fw fb s0 (State.emit s o) := by
  have k0 : ∀ (t : State) x0, Frame fw fb s0 t → Frame fw fb s0 { t with out := x0 } := fun t x0 ht => Frame.upd ht hfw rfl rfl ⟨rfl, rfl, rfl⟩
  unfold State.emit
  repeat' (first
    | with_reducible assumption
    | (with_reducible refine Frame.ite ?_ ?_)
    | ((with_reducible apply Sub.within hfw); exact rfl)
    | ((with_reducible apply Sub.within hfb); exact rfl)
    | ((with_reducible apply Mixed.of); exact rfl)
    | (extract_lets)
    | (fail_if_no_progress (with_reducible refine k0 _ _ ?_))
    | split
    | (intro _ _ _)
    | (intro _ e; have _hk : Frame _ _ _ _ := e)
    | (intro _ e; cases e)
    | dsimp only
    | (dsimp +zetaDelta only)
    | (fail_if_no_progress ((with_reducible refine Frame.upd ?_ hfw ?_ rfl ⟨rfl, rfl, rfl⟩); rotate_left; exact rfl)))

theorem State.raise_fr {fw fb : Nat} {s0 : State} (s : State) (h v : Nat) (hK : Frame fw fb s0 s) (hfw : Sub 144 fw := by exact Sub.within hfw rfl) : Frame fw fb s0 (State.raise s h v) := by
  unfold State.raise
  repeat' (first
    | with_reducible assumption
    | with_reducible apply State.emit_fr
    | with_reducible apply State.setPort_fr
    | (with_reducible refine Frame.ite ?_ ?_)
    | ((with_reducible apply Sub.within hfw); exact rfl)
    | ((with_reducible apply Sub.within hfb); exact rfl)
    | ((with_reducible apply Mixed.of); exact rfl)
    | (extract_lets)
    | split
    | (intro _ _ _)
    | (intro _ e; have _hk : Frame _ _ _ _ := e)
    | (intro _ e; cases e)
    | dsimp only
    | (dsimp +zetaDelta only))

theorem State.raiseIf_fr {fw fb : Nat} {s0 : State} (s : State) (h : Nat) (en vec : Fld) (hK : Frame fw fb s0 s) (hfw : Sub 144 fw := by exact Sub.within hfw rfl) : Frame fw fb s0 (State.raiseIf s h en vec) := by
  unfold State.raiseIf
  repeat' (first
    | with_reducible assumption
    | with_reducible apply State.raise_fr
    | (with_reducible refine Frame.ite ?_ ?_)
    | ((with_reducible apply Sub.within hfw); exact rfl)
    | ((with_reducible apply Sub.within hfb); exact rfl)
    | ((with_reducible apply Mixed.of); exact rfl)
    | (extract_lets)
    | split
    | (intro _ _ _)
    | (intro _ e; have _hk : Frame _ _ _ _ := e)
    | (intro _ e; cases e)
    | dsimp only
    | (dsimp +zetaDelta only))

theorem State.hostStore_fr {fw fb : Nat} {s0 : State} (s : State) (h addr n v : Nat) (hK : Frame fw fb s0 s) (hfw : Sub 8 fw := by exact Sub.within hfw rfl) : Frame fw fb s0 (State.hostStore s h addr n v) := by
  unfold State.hostStore
  repeat' (first
    | with_reducible assumption
    | with_reducible apply State.store_fr
    | (with_reducible refine Frame.ite ?_ ?_)
    | ((with_reducible apply Sub.within hfw); exact rfl)
    | ((with_reducible apply Sub.within hfb); exact rfl)
    | ((with_reducible apply Mixed.of); exact rfl)
    | (extract_lets)
    | split
    | (intro _ _ _)
    | (intro _ e; have _hk : Frame _ _ _ _ := e)
    | (intro _ e; cases e)
    | dsimp only
    | (dsimp +zetaDelta only))

theorem State.scoreRegs_fr {fw fb : Nat} {s0 : State} (s : State) (hK : Frame fw fb s0 s) (hfb : Sub 131072 fb := by exact Sub.within hfb rfl) : Frame fw fb s0 (State.scoreRegs s) := by
  unfold State.scoreRegs
  repeat' (first
    | with_reducible assumption
    | with_reducible apply State.wr_fr
    | (with_reducible refine Frame.getD ?_ ?_)
    | (with_reducible refine Frame.ite ?_ ?_)
    | ((with_reducible apply Sub.within hfw); exact rfl)
    | ((with_reducible apply Sub.within hfb); exact rfl)
    | ((with_reducible apply Mixed.of); exact rfl)
    | (apply hfb.bit (i := 17) rfl)
    | (extract_lets)
    | split
    | (intro _ _ _)
    | (intro _ e; have _hk : Frame _ _ _ _ := e)
    | (intro _ e; cases e)
    | dsimp only
    | (dsimp +zetaDelta only))

theorem State.scoreVectors_fr {fw fb : Nat} {s0 : State} (s : State) (hK : Frame fw fb s0 s) (hfw : Sub 144 fw := by exact Sub.within hfw rfl) : Frame fw fb s0 (State.scoreVectors s) := by
  unfold State.scoreVectors
  repeat' (first
    | with_reducible assumption
    | with_reducible apply State.raiseIf_fr
    | (with_reducible refine Frame.ite ?_ ?_)
    | ((with_reducible apply Sub.within hfw); exact rfl)
    | ((with_reducible apply Sub.within hfb); exact rfl)
    | ((with_reducible apply Mixed.of); exact rfl)
    | (extract_lets)
    | split
    | (intro _ _ _)
    | (intro _ e; have _hk : Frame _ _ _ _ := e)
    | (intro _ e; cases e)
    | dsimp only
    | (dsimp +zetaDelta only))

theorem State.recordRaw_fr {fw fb : Nat} {s0 : State} (s : State) (time code sev inst sub a0 a1 : Nat) (h : Frame fw fb s0 s) (hfw : Sub 208 fw := by exact Sub.within hfw rfl) (hfb : Sub 131072 fb := by exact Sub.within hfb rfl) :
    Frame fw fb s0 (s.recordRaw time code sev inst sub a0 a1) := by
  have key : ∀ (r : Record) (n : Nat) (d : Bool),
      Keeps s { s with score := { s.score with
        ring := (if decide (8192 ≤ s.score.ring.length) then s.score.ring.drop 1 else s.score.ring) ++ [r], nextSeq := n, flushDue := d } } := by
    intro r n d
    refine ⟨rfl, id, id, id, ?_, fun _ => Nat.le_refl _, Nat.le_refl _, Nat.le_refl _⟩
    intro hl
    simp only [decide_eq_true_eq]
    split
    · simp only [List.length_append, List.length_drop, List.length_singleton]; omega
    · simp only [List.length_append, List.length_singleton]; omega
  unfold State.recordRaw
  extract_lets b r full lost t u v
  have ht : Frame fw fb s0 t := h.set hfw rfl rfl (key _ _ _)
  have hu : Frame fw fb s0 u := Frame.ite (State.wr_fr _ _ _ (State.bump_fr _ _ _ ht)) ht
  exact Frame.ite (State.scoreVectors_fr _ (State.bump_fr _ _ _ (State.scoreRegs_fr _ hu))) (State.scoreRegs_fr _ hu)

theorem State.recordAs_fr {fw fb : Nat} {s0 : State} (s : State) (time code sev inst sub a0 a1 : Nat) (hK : Frame fw fb s0 s) (hfw : Sub 208 fw := by exact Sub.within hfw rfl) (hfb : Sub 131072 fb := by exact Sub.within hfb rfl) : Frame fw fb s0 (State.recordAs s time code sev inst sub a0 a1) := by
  unfold State.recordAs
  repeat' (first
    | with_reducible assumption
    | with_reducible apply State.recordRaw_fr
    | (with_reducible refine Frame.ite ?_ ?_)
    | ((with_reducible apply Sub.within hfw); exact rfl)
    | ((with_reducible apply Sub.within hfb); exact rfl)
    | ((with_reducible apply Mixed.of); exact rfl)
    | (apply hfb.bit (i := 17) rfl)
    | (extract_lets)
    | split
    | (intro _ _ _)
    | (intro _ e; have _hk : Frame _ _ _ _ := e)
    | (intro _ e; cases e)
    | dsimp only
    | (dsimp +zetaDelta only)
    | (fail_if_no_progress ((with_reducible refine Frame.upd ?_ hfw ?_ rfl ⟨rfl, rfl, rfl⟩); rotate_left; exact rfl)))

theorem State.record_fr {fw fb : Nat} {s0 : State} (s : State) (code inst a0 a1 : Nat) (hK : Frame fw fb s0 s) (hfw : Sub 208 fw := by exact Sub.within hfw rfl) (hfb : Sub 131072 fb := by exact Sub.within hfb rfl) : Frame fw fb s0 (State.record s code inst a0 a1) := by
  unfold State.record
  repeat' (first
    | with_reducible assumption
    | with_reducible apply State.recordAs_fr
    | (with_reducible refine Frame.ite ?_ ?_)
    | ((with_reducible apply Sub.within hfw); exact rfl)
    | ((with_reducible apply Sub.within hfb); exact rfl)
    | ((with_reducible apply Mixed.of); exact rfl)
    | (apply hfb.bit (i := 17) rfl)
    | (extract_lets)
    | split
    | (intro _ _ _)
    | (intro _ e; have _hk : Frame _ _ _ _ := e)
    | (intro _ e; cases e)
    | dsimp only
    | (dsimp +zetaDelta only))

theorem State.recordTick_fr {fw fb : Nat} {s0 : State} (s : State) (code inst a0 a1 : Nat) (hK : Frame fw fb s0 s) (hfw : Sub 64 fw := by exact Sub.within hfw rfl) : Frame fw fb s0 (State.recordTick s code inst a0 a1) := by
  unfold State.recordTick
  repeat' (first
    | with_reducible assumption
    | (with_reducible refine Frame.ite ?_ ?_)
    | ((with_reducible apply Sub.within hfw); exact rfl)
    | ((with_reducible apply Sub.within hfb); exact rfl)
    | ((with_reducible apply Mixed.of); exact rfl)
    | (extract_lets)
    | split
    | (intro _ _ _)
    | (intro _ e; have _hk : Frame _ _ _ _ := e)
    | (intro _ e; cases e)
    | dsimp only
    | (dsimp +zetaDelta only)
    | (fail_if_no_progress ((with_reducible refine Frame.upd ?_ hfw ?_ rfl ⟨rfl, rfl, rfl⟩); rotate_left; exact rfl)))

theorem State.cmdMap_fr {fw fb : Nat} {s0 : State} (s : State) (k : Nat) (f : Cmd → Cmd) (hK : Frame fw fb s0 s) (hfw : Sub 512 fw := by exact Sub.within hfw rfl) : Frame fw fb s0 (State.cmdMap s k f) := by
  have k0 : ∀ (t : State) x0, Frame fw fb s0 t → Frame fw fb s0 { t with cmds := x0 } := fun t x0 ht => Frame.upd ht hfw rfl rfl ⟨rfl, rfl, rfl⟩
  unfold State.cmdMap
  repeat' (first
    | with_reducible assumption
    | (with_reducible refine Frame.ite ?_ ?_)
    | ((with_reducible apply Sub.within hfw); exact rfl)
    | ((with_reducible apply Sub.within hfb); exact rfl)
    | ((with_reducible apply Mixed.of); exact rfl)
    | (extract_lets)
    | (fail_if_no_progress (with_reducible refine k0 _ _ ?_))
    | split
    | (intro _ _ _)
    | (intro _ e; have _hk : Frame _ _ _ _ := e)
    | (intro _ e; cases e)
    | dsimp only
    | (dsimp +zetaDelta only)
    | (fail_if_no_progress ((with_reducible refine Frame.upd ?_ hfw ?_ rfl ⟨rfl, rfl, rfl⟩); rotate_left; exact rfl)))

theorem State.start_fr {fw fb : Nat} {s0 : State} (s : State) (k : Nat) (aux : List Nat) (hK : Frame fw fb s0 s) (hfw : Sub 512 fw := by exact Sub.within hfw rfl) : Frame fw fb s0 (State.start s k aux) := by
  unfold State.start
  repeat' (first
    | with_reducible assumption
    | with_reducible apply State.cmdMap_fr
    | (with_reducible refine Frame.ite ?_ ?_)
    | ((with_reducible apply Sub.within hfw); exact rfl)
    | ((with_reducible apply Sub.within hfb); exact rfl)
    | ((with_reducible apply Mixed.of); exact rfl)
    | (extract_lets)
    | split
    | (intro _ _ _)
    | (intro _ e; have _hk : Frame _ _ _ _ := e)
    | (intro _ e; cases e)
    | dsimp only
    | (dsimp +zetaDelta only))

theorem State.finish_fr {fw fb : Nat} {s0 : State} (s : State) (k st det o0 o1 o2 : Nat) (hK : Frame fw fb s0 s) (hfw : Sub 2560 fw := by exact Sub.within hfw rfl) : Frame fw fb s0 (State.finish s k st det o0 o1 o2) := by
  have k0 : ∀ (t : State) x0, Frame fw fb s0 t → Frame fw fb s0 { t with doneCtr := x0 } := fun t x0 ht => Frame.upd ht hfw rfl rfl ⟨rfl, rfl, rfl⟩
  unfold State.finish
  repeat' (first
    | with_reducible assumption
    | with_reducible apply State.cmdMap_fr
    | (with_reducible refine Frame.ite ?_ ?_)
    | ((with_reducible apply Sub.within hfw); exact rfl)
    | ((with_reducible apply Sub.within hfb); exact rfl)
    | ((with_reducible apply Mixed.of); exact rfl)
    | (extract_lets)
    | (fail_if_no_progress (with_reducible refine k0 _ _ ?_))
    | split
    | (intro _ _ _)
    | (intro _ e; have _hk : Frame _ _ _ _ := e)
    | (intro _ e; cases e)
    | dsimp only
    | (dsimp +zetaDelta only)
    | (fail_if_no_progress ((with_reducible refine Frame.upd ?_ hfw ?_ rfl ⟨rfl, rfl, rfl⟩); rotate_left; exact rfl)))

theorem State.cmdDiscard_fr {fw fb : Nat} {s0 : State} (s : State) (k : Nat) (hK : Frame fw fb s0 s) (hfw : Sub 512 fw := by exact Sub.within hfw rfl) : Frame fw fb s0 (State.cmdDiscard s k) := by
  have k0 : ∀ (t : State) x0, Frame fw fb s0 t → Frame fw fb s0 { t with cmds := x0 } := fun t x0 ht => Frame.upd ht hfw rfl rfl ⟨rfl, rfl, rfl⟩
  unfold State.cmdDiscard
  repeat' (first
    | with_reducible assumption
    | (with_reducible refine Frame.ite ?_ ?_)
    | ((with_reducible apply Sub.within hfw); exact rfl)
    | ((with_reducible apply Sub.within hfb); exact rfl)
    | ((with_reducible apply Mixed.of); exact rfl)
    | (extract_lets)
    | (fail_if_no_progress (with_reducible refine k0 _ _ ?_))
    | split
    | (intro _ _ _)
    | (intro _ e; have _hk : Frame _ _ _ _ := e)
    | (intro _ e; cases e)
    | dsimp only
    | (dsimp +zetaDelta only)
    | (fail_if_no_progress ((with_reducible refine Frame.upd ?_ hfw ?_ rfl ⟨rfl, rfl, rfl⟩); rotate_left; exact rfl)))

theorem State.doneWith_fr {fw fb : Nat} {s0 : State} (s : State) (k o0 o1 o2 : Nat) (hK : Frame fw fb s0 s) (hfw : Sub 2560 fw := by exact Sub.within hfw rfl) : Frame fw fb s0 (State.doneWith s k o0 o1 o2) := by
  unfold State.doneWith
  repeat' (first
    | with_reducible assumption
    | with_reducible apply State.finish_fr
    | (with_reducible refine Frame.ite ?_ ?_)
    | ((with_reducible apply Sub.within hfw); exact rfl)
    | ((with_reducible apply Sub.within hfb); exact rfl)
    | ((with_reducible apply Mixed.of); exact rfl)
    | (extract_lets)
    | split
    | (intro _ _ _)
    | (intro _ e; have _hk : Frame _ _ _ _ := e)
    | (intro _ e; cases e)
    | dsimp only
    | (dsimp +zetaDelta only))

theorem State.failWith_fr {fw fb : Nat} {s0 : State} (s : State) (k st det : Nat) (hK : Frame fw fb s0 s) (hfw : Sub 2560 fw := by exact Sub.within hfw rfl) : Frame fw fb s0 (State.failWith s k st det) := by
  unfold State.failWith
  repeat' (first
    | with_reducible assumption
    | with_reducible apply State.finish_fr
    | (with_reducible refine Frame.ite ?_ ?_)
    | ((with_reducible apply Sub.within hfw); exact rfl)
    | ((with_reducible apply Sub.within hfb); exact rfl)
    | ((with_reducible apply Mixed.of); exact rfl)
    | (extract_lets)
    | split
    | (intro _ _ _)
    | (intro _ e; have _hk : Frame _ _ _ _ := e)
    | (intro _ e; cases e)
    | dsimp only
    | (dsimp +zetaDelta only))

theorem State.unreached_fr {fw fb : Nat} {s0 : State} (s : State) (src : Nat) (hK : Frame fw fb s0 s) (hfb : Sub 1 fb := by exact Sub.within hfb rfl) : Frame fw fb s0 (State.unreached s src) := by
  unfold State.unreached
  repeat' (first
    | with_reducible assumption
    | with_reducible apply State.bump_fr
    | (with_reducible refine Frame.ite ?_ ?_)
    | ((with_reducible apply Sub.within hfw); exact rfl)
    | ((with_reducible apply Sub.within hfb); exact rfl)
    | ((with_reducible apply Mixed.of); exact rfl)
    | (apply hfb.bit (i := 0) rfl)
    | (extract_lets)
    | split
    | (intro _ _ _)
    | (intro _ e; have _hk : Frame _ _ _ _ := e)
    | (intro _ e; cases e)
    | dsimp only
    | (dsimp +zetaDelta only))

theorem State.viaHost_fr {fw fb : Nat} {s0 : State} (s : State) (src : Nat) (f : State → State) (h_f : ∀ t0, Frame fw fb s0 t0 → Frame fw fb s0 (f t0)) (hK : Frame fw fb s0 s) (hfb : Sub 1 fb := by exact Sub.within hfb rfl) : Frame fw fb s0 (State.viaHost s src f) := by
  unfold State.viaHost
  repeat' (first
    | with_reducible assumption
    | with_reducible apply State.unreached_fr
    | with_reducible apply h_f
    | (with_reducible refine Frame.ite ?_ ?_)
    | ((with_reducible apply Sub.within hfw); exact rfl)
    | ((with_reducible apply Sub.within hfb); exact rfl)
    | ((with_reducible apply Mixed.of); exact rfl)
    | (apply hfb.bit (i := 0) rfl)
    | (extract_lets)
    | split
    | (intro _ _ _)
    | (intro _ e; have _hk : Frame _ _ _ _ := e)
    | (intro _ e; cases e)
    | dsimp only
    | (dsimp +zetaDelta only))

theorem State.viaSource_fr {fw fb : Nat} {s0 : State} (s : State) (src : Nat) (f : State → State) (h_f : ∀ t0, Frame fw fb s0 t0 → Frame fw fb s0 (f t0)) (hK : Frame fw fb s0 s) (hfb : Sub 1 fb := by exact Sub.within hfb rfl) : Frame fw fb s0 (State.viaSource s src f) := by
  unfold State.viaSource
  repeat' (first
    | with_reducible assumption
    | with_reducible apply State.viaHost_fr
    | with_reducible apply h_f
    | (with_reducible refine Frame.ite ?_ ?_)
    | ((with_reducible apply Sub.within hfw); exact rfl)
    | ((with_reducible apply Sub.within hfb); exact rfl)
    | ((with_reducible apply Mixed.of); exact rfl)
    | (apply hfb.bit (i := 0) rfl)
    | (extract_lets)
    | split
    | (intro _ _ _)
    | (intro _ e; have _hk : Frame _ _ _ _ := e)
    | (intro _ e; cases e)
    | dsimp only
    | (dsimp +zetaDelta only))

end Sys2Proof.Machine
end

