-- ==== Sys2Proof/Laws/Frame/Channel.lean ====
section
/-! SUPPORT. What the operations of Machine/Channel.lean leave as it was (`Frame`): one lemma each. -/

set_option linter.unreachableTactic false
set_option linter.unusedTactic false

namespace Sys2Proof.Machine

set_option Elab.async false

open Sys2Proof

theorem State.ringPut_fr {fw fb : Nat} {s0 : State} (s : State) (r : Nat) (l : List Reply) (hK : Frame fw fb s0 s) (hfw : Sub 152 fw := by exact Sub.within hfw rfl) (hfb : Sub 2 fb := by exact Sub.within hfb rfl) : Frame fw fb s0 (State.ringPut s r l) := by
  unfold State.ringPut
  repeat' (first
    | with_reducible assumption
    | with_reducible apply State.hostStore_fr
    | with_reducible apply State.raiseIf_fr
    | with_reducible apply State.storeWords_fr
    | with_reducible apply State.wr_fr
    | (with_reducible refine Frame.foldl ?_ ?_)
    | (with_reducible refine Frame.foldr ?_ ?_)
    | (with_reducible refine Frame.ite ?_ ?_)
    | ((with_reducible apply Sub.within hfw); exact rfl)
    | ((with_reducible apply Sub.within hfb); exact rfl)
    | ((with_reducible apply Mixed.of); exact rfl)
    | (apply hfb.bit (i := 1) rfl)
    | (extract_lets)
    | split
    | (intro _ _ _)
    | (intro _ e; have _hk : Frame _ _ _ _ := e)
    | (intro _ e; cases e)
    | dsimp only
    | (dsimp +zetaDelta only))

theorem State.holdCount_fr {fw fb : Nat} {s0 : State} (s : State) (hK : Frame fw fb s0 s) (hfb : Sub 2 fb := by exact Sub.within hfb rfl) : Frame fw fb s0 (State.holdCount s) := by
  unfold State.holdCount
  repeat' (first
    | with_reducible assumption
    | with_reducible apply State.wr_fr
    | (with_reducible refine Frame.ite ?_ ?_)
    | ((with_reducible apply Sub.within hfw); exact rfl)
    | ((with_reducible apply Sub.within hfb); exact rfl)
    | ((with_reducible apply Mixed.of); exact rfl)
    | (apply hfb.bit (i := 1) rfl)
    | (extract_lets)
    | split
    | (intro _ _ _)
    | (intro _ e; have _hk : Frame _ _ _ _ := e)
    | (intro _ e; cases e)
    | dsimp only
    | (dsimp +zetaDelta only))

theorem State.reply_fr {fw fb : Nat} {s0 : State} (s : State) (x : Reply) (hK : Frame fw fb s0 s) (hfw : Sub 24728 fw := by exact Sub.within hfw rfl) (hfb : Sub 2 fb := by exact Sub.within hfb rfl) : Frame fw fb s0 (s.reply x) := by
  unfold State.reply
  split
  · exact State.bump_fr _ _ _ hK
  · split
    · exact State.ringPut_fr _ _ _ hK
    · split
      · rename_i hl
        refine State.holdCount_fr _ (hK.setHold ?_ (hfw.bit rfl))
        intro _
        simp only [List.length_append, List.length_singleton]; omega
      · exact Frame.upd hK hfw rfl rfl ⟨rfl, rfl, rfl⟩

theorem State.errReply_fr {fw fb : Nat} {s0 : State} (s : State) (chan st op ctx seq det o1 : Nat) (hK : Frame fw fb s0 s) (hfw : Sub 24728 fw := by exact Sub.within hfw rfl) (hfb : Sub 2 fb := by exact Sub.within hfb rfl) : Frame fw fb s0 (State.errReply s chan st op ctx seq det o1) := by
  unfold State.errReply
  repeat' (first
    | with_reducible assumption
    | with_reducible apply State.reply_fr
    | (with_reducible refine Frame.ite ?_ ?_)
    | ((with_reducible apply Sub.within hfw); exact rfl)
    | ((with_reducible apply Sub.within hfb); exact rfl)
    | ((with_reducible apply Mixed.of); exact rfl)
    | (apply hfb.bit (i := 1) rfl)
    | (extract_lets)
    | split
    | (intro _ _ _)
    | (intro _ e; have _hk : Frame _ _ _ _ := e)
    | (intro _ e; cases e)
    | dsimp only
    | (dsimp +zetaDelta only))

theorem State.lateIn_fr {fw fb : Nat} {s0 : State} (s : State) (hK : Frame fw fb s0 s) (hfw : Sub 24576 fw := by exact Sub.within hfw rfl) (hfb : Sub 2 fb := by exact Sub.within hfb rfl) : Frame fw fb s0 (State.lateIn s) := by
  unfold State.lateIn
  refine State.holdCount_fr _ ?_
  have hl : (s.hold ++ s.late.take (4096 - s.hold.length)).length ≤ max 4096 s.hold.length := by
    simp only [List.length_append, List.length_take]; omega
  exact Frame.upd (t := { s with hold := s.hold ++ s.late.take (4096 - s.hold.length) })
    (hK.setHold (fun h => Nat.le_trans hl (by omega)) (hfw.bit rfl)) hfw rfl rfl ⟨rfl, rfl, rfl⟩

theorem holdDrain_fr {fw fb : Nat} {s0 : State} (r : Nat) (s : State) (hK : Frame fw fb s0 s) (hfw : Sub 24728 fw := by exact Sub.within hfw rfl) (hfb : Sub 2 fb := by exact Sub.within hfb rfl) : Frame fw fb s0 (holdDrain r s) := by
  have split_length : ∀ (l : List Reply) (n : Nat),
      (l.filter (fun h => h.ring != r) ++ (l.filter (fun h => h.ring == r)).drop n).length ≤ l.length := by
    intro l n
    have h1 : (l.filter (fun h => h.ring != r)).length + (l.filter (fun h => h.ring == r)).length = l.length := by
      induction l with
      | nil => rfl
      | cons a t ih =>
        by_cases ha : a.ring = r
        · simp [ha] at ih ⊢; omega
        · simp [ha] at ih ⊢; omega
    simp only [List.length_append, List.length_drop]
    omega
  unfold holdDrain
  extract_lets room mine rest
  exact State.lateIn_fr _ (State.ringPut_fr _ _ _ (hK.setHold (fun hl => Nat.le_trans (split_length s.hold room) hl) (hfw.bit rfl)))

theorem execReplyHoldDrain_fr {fw fb : Nat} {s0 : State} (ring : Nat) (s : State) (hK : Frame fw fb s0 s) (hfw : Sub 24728 fw := by exact Sub.within hfw rfl) (hfb : Sub 2 fb := by exact Sub.within hfb rfl) : ∀ u, execReplyHoldDrain ring s = .next u → Frame fw fb s0 u := by
  unfold execReplyHoldDrain
  repeat' (first
    | with_reducible assumption
    | with_reducible apply holdDrain_fr
    | (with_reducible refine Frame.ite ?_ ?_)
    | ((with_reducible apply Sub.within hfw); exact rfl)
    | ((with_reducible apply Sub.within hfb); exact rfl)
    | ((with_reducible apply Mixed.of); exact rfl)
    | (apply hfb.bit (i := 1) rfl)
    | (extract_lets)
    | split
    | (intro _ _ _)
    | (intro _ e; have _hk : Frame _ _ _ _ := e)
    | (intro _ e; cases e)
    | dsimp only
    | (dsimp +zetaDelta only))

theorem State.chanRegs_fr {fw fb : Nat} {s0 : State} (s : State) (c : Nat) (hK : Frame fw fb s0 s) (hfb : Sub 2 fb := by exact Sub.within hfb rfl) : Frame fw fb s0 (State.chanRegs s c) := by
  unfold State.chanRegs
  repeat' (first
    | with_reducible assumption
    | with_reducible apply State.wr_fr
    | (with_reducible refine Frame.ite ?_ ?_)
    | ((with_reducible apply Sub.within hfw); exact rfl)
    | ((with_reducible apply Sub.within hfb); exact rfl)
    | ((with_reducible apply Mixed.of); exact rfl)
    | (apply hfb.bit (i := 1) rfl)
    | (dsimp only [State.wrs, State.regs0, List.foldl])
    | (extract_lets)
    | split
    | (intro _ _ _)
    | (intro _ e; have _hk : Frame _ _ _ _ := e)
    | (intro _ e; cases e)
    | dsimp only
    | (dsimp +zetaDelta only))

theorem State.commit_fr {fw fb : Nat} {s0 : State} (s : State) (c slot : Nat) (hK : Frame fw fb s0 s) (hfw : Sub 24984 fw := by exact Sub.within hfw rfl) (hfb : Sub 2 fb := by exact Sub.within hfb rfl) : Frame fw fb s0 (State.commit s c slot) := by
  unfold State.commit
  repeat' (first
    | with_reducible assumption
    | with_reducible apply State.bump_fr
    | with_reducible apply State.chanRegs_fr
    | with_reducible apply State.errReply_fr
    | with_reducible apply State.setChan_fr
    | (with_reducible refine Frame.getD ?_ ?_)
    | (with_reducible refine Frame.ite ?_ ?_)
    | ((with_reducible apply Sub.within hfw); exact rfl)
    | ((with_reducible apply Sub.within hfb); exact rfl)
    | ((with_reducible apply Mixed.of); exact rfl)
    | (apply hfb.bit (i := 1) rfl)
    | (extract_lets)
    | split
    | (intro _ _ _)
    | (intro _ e; have _hk : Frame _ _ _ _ := e)
    | (intro _ e; cases e)
    | dsimp only
    | (dsimp +zetaDelta only))

theorem State.windowStore_fr {fw fb : Nat} {s0 : State} (s : State) (src off : Nat) (data : List Nat) (hK : Frame fw fb s0 s) (hfw : Sub 24984 fw := by exact Sub.within hfw rfl) (hfb : Sub 2 fb := by exact Sub.within hfb rfl) : Frame fw fb s0 (State.windowStore s src off data) := by
  unfold State.windowStore
  repeat' (first
    | with_reducible assumption
    | with_reducible apply State.bump_fr
    | with_reducible apply State.commit_fr
    | with_reducible apply State.setChan_fr
    | (with_reducible refine Frame.ite ?_ ?_)
    | ((with_reducible apply Sub.within hfw); exact rfl)
    | ((with_reducible apply Sub.within hfb); exact rfl)
    | ((with_reducible apply Mixed.of); exact rfl)
    | (apply hfb.bit (i := 1) rfl)
    | (extract_lets)
    | split
    | (intro _ _ _)
    | (intro _ e; have _hk : Frame _ _ _ _ := e)
    | (intro _ e; cases e)
    | dsimp only
    | (dsimp +zetaDelta only))

theorem execWindowWrite_fr {fw fb : Nat} {s0 : State} (src off : Nat) (data : List Nat) (s : State) (hK : Frame fw fb s0 s) (hfw : Sub 24984 fw := by exact Sub.within hfw rfl) (hfb : Sub 3 fb := by exact Sub.within hfb rfl) : ∀ u, execWindowWrite src off data s = .next u → Frame fw fb s0 u := by
  unfold execWindowWrite
  repeat' (first
    | with_reducible assumption
    | with_reducible apply State.viaHost_fr
    | with_reducible apply State.windowStore_fr
    | (with_reducible refine Frame.ite ?_ ?_)
    | ((with_reducible apply Sub.within hfw); exact rfl)
    | ((with_reducible apply Sub.within hfb); exact rfl)
    | ((with_reducible apply Mixed.of); exact rfl)
    | (apply hfb.bit (i := 0) rfl)
    | (apply hfb.bit (i := 1) rfl)
    | (extract_lets)
    | split
    | (intro _ _ _)
    | (intro _ e; have _hk : Frame _ _ _ _ := e)
    | (intro _ e; cases e)
    | dsimp only
    | (dsimp +zetaDelta only))

theorem execCommandCommit_fr {fw fb : Nat} {s0 : State} (src off : Nat) (data : List Nat) (s : State) (hK : Frame fw fb s0 s) (hfw : Sub 24984 fw := by exact Sub.within hfw rfl) (hfb : Sub 3 fb := by exact Sub.within hfb rfl) : ∀ u, execCommandCommit src off data s = .next u → Frame fw fb s0 u := by
  unfold execCommandCommit
  repeat' (first
    | with_reducible assumption
    | with_reducible apply State.viaHost_fr
    | with_reducible apply State.windowStore_fr
    | (with_reducible refine Frame.ite ?_ ?_)
    | ((with_reducible apply Sub.within hfw); exact rfl)
    | ((with_reducible apply Sub.within hfb); exact rfl)
    | ((with_reducible apply Mixed.of); exact rfl)
    | (apply hfb.bit (i := 0) rfl)
    | (apply hfb.bit (i := 1) rfl)
    | (extract_lets)
    | split
    | (intro _ _ _)
    | (intro _ e; have _hk : Frame _ _ _ _ := e)
    | (intro _ e; cases e)
    | dsimp only
    | (dsimp +zetaDelta only))

theorem commandQueue_fr {fw fb : Nat} {s0 : State} (c : Nat) (s : State) (hK : Frame fw fb s0 s) (hfw : Sub 256 fw := by exact Sub.within hfw rfl) (hfb : Sub 2 fb := by exact Sub.within hfb rfl) : Frame fw fb s0 (commandQueue c s) := by
  unfold commandQueue
  repeat' (first
    | with_reducible assumption
    | with_reducible apply State.bump_fr
    | with_reducible apply State.chanRegs_fr
    | with_reducible apply State.setChan_fr
    | with_reducible apply State.wr_fr
    | (with_reducible refine Frame.ite ?_ ?_)
    | ((with_reducible apply Sub.within hfw); exact rfl)
    | ((with_reducible apply Sub.within hfb); exact rfl)
    | ((with_reducible apply Mixed.of); exact rfl)
    | (apply hfb.bit (i := 1) rfl)
    | (extract_lets)
    | split
    | (intro _ _ _)
    | (intro _ e; have _hk : Frame _ _ _ _ := e)
    | (intro _ e; cases e)
    | dsimp only
    | (dsimp +zetaDelta only))

theorem execCommandQueue_fr {fw fb : Nat} {s0 : State} (chan : Nat) (s : State) (hK : Frame fw fb s0 s) (hfw : Sub 256 fw := by exact Sub.within hfw rfl) (hfb : Sub 2 fb := by exact Sub.within hfb rfl) : ∀ u, execCommandQueue chan s = .next u → Frame fw fb s0 u := by
  unfold execCommandQueue
  repeat' (first
    | with_reducible assumption
    | with_reducible apply commandQueue_fr
    | (with_reducible refine Frame.ite ?_ ?_)
    | ((with_reducible apply Sub.within hfw); exact rfl)
    | ((with_reducible apply Sub.within hfb); exact rfl)
    | ((with_reducible apply Mixed.of); exact rfl)
    | (apply hfb.bit (i := 1) rfl)
    | (extract_lets)
    | split
    | (intro _ _ _)
    | (intro _ e; have _hk : Frame _ _ _ _ := e)
    | (intro _ e; cases e)
    | dsimp only
    | (dsimp +zetaDelta only))

theorem gapExpiry_fr {fw fb : Nat} {s0 : State} (c : Nat) (s : State) (hK : Frame fw fb s0 s) (hfw : Sub 24984 fw := by exact Sub.within hfw rfl) (hfb : Sub 2 fb := by exact Sub.within hfb rfl) : Frame fw fb s0 (gapExpiry c s) := by
  unfold gapExpiry
  repeat' (first
    | with_reducible assumption
    | with_reducible apply State.bump_fr
    | with_reducible apply State.errReply_fr
    | with_reducible apply State.setChan_fr
    | (with_reducible refine Frame.ite ?_ ?_)
    | ((with_reducible apply Sub.within hfw); exact rfl)
    | ((with_reducible apply Sub.within hfb); exact rfl)
    | ((with_reducible apply Mixed.of); exact rfl)
    | (apply hfb.bit (i := 1) rfl)
    | (extract_lets)
    | split
    | (intro _ _ _)
    | (intro _ e; have _hk : Frame _ _ _ _ := e)
    | (intro _ e; cases e)
    | dsimp only
    | (dsimp +zetaDelta only))

theorem execGapTimerExpiry_fr {fw fb : Nat} {s0 : State} (chan : Nat) (s : State) (hK : Frame fw fb s0 s) (hfw : Sub 24984 fw := by exact Sub.within hfw rfl) (hfb : Sub 2 fb := by exact Sub.within hfb rfl) : ∀ u, execGapTimerExpiry chan s = .next u → Frame fw fb s0 u := by
  unfold execGapTimerExpiry
  repeat' (first
    | with_reducible assumption
    | with_reducible apply gapExpiry_fr
    | (with_reducible refine Frame.ite ?_ ?_)
    | ((with_reducible apply Sub.within hfw); exact rfl)
    | ((with_reducible apply Sub.within hfb); exact rfl)
    | ((with_reducible apply Mixed.of); exact rfl)
    | (apply hfb.bit (i := 1) rfl)
    | (extract_lets)
    | split
    | (intro _ _ _)
    | (intro _ e; have _hk : Frame _ _ _ _ := e)
    | (intro _ e; cases e)
    | dsimp only
    | (dsimp +zetaDelta only))

theorem creditWord_fr {fw fb : Nat} {s0 : State} (c : Nat) (s : State) (hK : Frame fw fb s0 s) (hfw : Sub 264 fw := by exact Sub.within hfw rfl) : Frame fw fb s0 (creditWord c s) := by
  unfold creditWord
  repeat' (first
    | with_reducible assumption
    | with_reducible apply State.hostStore_fr
    | with_reducible apply State.setChan_fr
    | (with_reducible refine Frame.ite ?_ ?_)
    | ((with_reducible apply Sub.within hfw); exact rfl)
    | ((with_reducible apply Sub.within hfb); exact rfl)
    | ((with_reducible apply Mixed.of); exact rfl)
    | (extract_lets)
    | split
    | (intro _ _ _)
    | (intro _ e; have _hk : Frame _ _ _ _ := e)
    | (intro _ e; cases e)
    | dsimp only
    | (dsimp +zetaDelta only))

theorem execCreditWordWrite_fr {fw fb : Nat} {s0 : State} (chan : Nat) (s : State) (hK : Frame fw fb s0 s) (hfw : Sub 264 fw := by exact Sub.within hfw rfl) : ∀ u, execCreditWordWrite chan s = .next u → Frame fw fb s0 u := by
  unfold execCreditWordWrite
  repeat' (first
    | with_reducible assumption
    | with_reducible apply creditWord_fr
    | (with_reducible refine Frame.ite ?_ ?_)
    | ((with_reducible apply Sub.within hfw); exact rfl)
    | ((with_reducible apply Sub.within hfb); exact rfl)
    | ((with_reducible apply Mixed.of); exact rfl)
    | (extract_lets)
    | split
    | (intro _ _ _)
    | (intro _ e; have _hk : Frame _ _ _ _ := e)
    | (intro _ e; cases e)
    | dsimp only
    | (dsimp +zetaDelta only))

theorem State.chanSignal_fr {fw fb : Nat} {s0 : State} (s : State) (c : Nat) (hK : Frame fw fb s0 s) (hfw : Sub 264 fw := by exact Sub.within hfw rfl) (hfb : Sub 2 fb := by exact Sub.within hfb rfl) : Frame fw fb s0 (State.chanSignal s c) := by
  unfold State.chanSignal
  repeat' (first
    | with_reducible assumption
    | with_reducible apply State.chanRegs_fr
    | with_reducible apply State.hostStore_fr
    | with_reducible apply State.setChan_fr
    | (with_reducible refine Frame.ite ?_ ?_)
    | ((with_reducible apply Sub.within hfw); exact rfl)
    | ((with_reducible apply Sub.within hfb); exact rfl)
    | ((with_reducible apply Mixed.of); exact rfl)
    | (apply hfb.bit (i := 1) rfl)
    | (extract_lets)
    | split
    | (intro _ _ _)
    | (intro _ e; have _hk : Frame _ _ _ _ := e)
    | (intro _ e; cases e)
    | dsimp only
    | (dsimp +zetaDelta only))

theorem State.goneReply_fr {fw fb : Nat} {s0 : State} (s : State) (c : Cmd) (hK : Frame fw fb s0 s) (hfw : Sub 24728 fw := by exact Sub.within hfw rfl) (hfb : Sub 2 fb := by exact Sub.within hfb rfl) : Frame fw fb s0 (State.goneReply s c) := by
  unfold State.goneReply
  repeat' (first
    | with_reducible assumption
    | with_reducible apply State.bump_fr
    | with_reducible apply State.reply_fr
    | with_reducible apply State.ringPut_fr
    | (with_reducible refine Frame.getD ?_ ?_)
    | (with_reducible refine Frame.ite ?_ ?_)
    | ((with_reducible apply Sub.within hfw); exact rfl)
    | ((with_reducible apply Sub.within hfb); exact rfl)
    | ((with_reducible apply Mixed.of); exact rfl)
    | (apply hfb.bit (i := 1) rfl)
    | (extract_lets)
    | split
    | (intro _ _ _)
    | (intro _ e; have _hk : Frame _ _ _ _ := e)
    | (intro _ e; cases e)
    | dsimp only
    | (dsimp +zetaDelta only))

theorem commandComplete_fr {fw fb : Nat} {s0 : State} (k : Nat) (s : State) (hK : Frame fw fb s0 s) (hfw : Sub 25496 fw := by exact Sub.within hfw rfl) (hfb : Sub 2 fb := by exact Sub.within hfb rfl) : Frame fw fb s0 (commandComplete k s) := by
  have k0 : ∀ (t : State) x0, Frame fw fb s0 t → Frame fw fb s0 { t with cmds := x0 } := fun t x0 ht => Frame.upd ht hfw rfl rfl ⟨rfl, rfl, rfl⟩
  unfold commandComplete
  repeat' (first
    | with_reducible assumption
    | with_reducible apply State.chanRegs_fr
    | with_reducible apply State.chanSignal_fr
    | with_reducible apply State.goneReply_fr
    | with_reducible apply State.reply_fr
    | (with_reducible refine Frame.ite ?_ ?_)
    | ((with_reducible apply Sub.within hfw); exact rfl)
    | ((with_reducible apply Sub.within hfb); exact rfl)
    | ((with_reducible apply Mixed.of); exact rfl)
    | (apply hfb.bit (i := 1) rfl)
    | (extract_lets)
    | (fail_if_no_progress (with_reducible refine k0 _ _ ?_))
    | split
    | (intro _ _ _)
    | (intro _ e; have _hk : Frame _ _ _ _ := e)
    | (intro _ e; cases e)
    | dsimp only
    | (dsimp +zetaDelta only)
    | (fail_if_no_progress ((with_reducible refine Frame.upd ?_ hfw ?_ rfl ⟨rfl, rfl, rfl⟩); rotate_left; exact rfl)))

theorem execCommandComplete_fr {fw fb : Nat} {s0 : State} (k : Nat) (s : State) (hK : Frame fw fb s0 s) (hfw : Sub 25496 fw := by exact Sub.within hfw rfl) (hfb : Sub 2 fb := by exact Sub.within hfb rfl) : ∀ u, execCommandComplete k s = .next u → Frame fw fb s0 u := by
  unfold execCommandComplete
  repeat' (first
    | with_reducible assumption
    | with_reducible apply commandComplete_fr
    | (with_reducible refine Frame.ite ?_ ?_)
    | ((with_reducible apply Sub.within hfw); exact rfl)
    | ((with_reducible apply Sub.within hfb); exact rfl)
    | ((with_reducible apply Mixed.of); exact rfl)
    | (apply hfb.bit (i := 1) rfl)
    | (extract_lets)
    | split
    | (intro _ _ _)
    | (intro _ e; have _hk : Frame _ _ _ _ := e)
    | (intro _ e; cases e)
    | dsimp only
    | (dsimp +zetaDelta only))

theorem State.chanDiscard_fr {fw fb : Nat} {s0 : State} (s : State) (c : Nat) (hK : Frame fw fb s0 s) (hfw : Sub 256 fw := by exact Sub.within hfw rfl) (hfb : Sub 2 fb := by exact Sub.within hfb rfl) : Frame fw fb s0 (State.chanDiscard s c) := by
  unfold State.chanDiscard
  repeat' (first
    | with_reducible assumption
    | with_reducible apply State.chanRegs_fr
    | with_reducible apply State.setChan_fr
    | (with_reducible refine Frame.ite ?_ ?_)
    | ((with_reducible apply Sub.within hfw); exact rfl)
    | ((with_reducible apply Sub.within hfb); exact rfl)
    | ((with_reducible apply Mixed.of); exact rfl)
    | (apply hfb.bit (i := 1) rfl)
    | (extract_lets)
    | split
    | (intro _ _ _)
    | (intro _ e; have _hk : Frame _ _ _ _ := e)
    | (intro _ e; cases e)
    | dsimp only
    | (dsimp +zetaDelta only))

theorem State.chanRestart_fr {fw fb : Nat} {s0 : State} (s : State) (c : Nat) (hK : Frame fw fb s0 s) (hfw : Sub 256 fw := by exact Sub.within hfw rfl) (hfb : Sub 2 fb := by exact Sub.within hfb rfl) : Frame fw fb s0 (State.chanRestart s c) := by
  unfold State.chanRestart
  repeat' (first
    | with_reducible assumption
    | with_reducible apply State.chanDiscard_fr
    | with_reducible apply State.setChan_fr
    | with_reducible apply State.wr_fr
    | (with_reducible refine Frame.ite ?_ ?_)
    | ((with_reducible apply Sub.within hfw); exact rfl)
    | ((with_reducible apply Sub.within hfb); exact rfl)
    | ((with_reducible apply Mixed.of); exact rfl)
    | (apply hfb.bit (i := 1) rfl)
    | (extract_lets)
    | split
    | (intro _ _ _)
    | (intro _ e; have _hk : Frame _ _ _ _ := e)
    | (intro _ e; cases e)
    | dsimp only
    | (dsimp +zetaDelta only))

theorem writeChanCtl_fr {fw fb : Nat} {s0 : State} (src c value : Nat) (s : State) (hK : Frame fw fb s0 s) (hfw : Sub 256 fw := by exact Sub.within hfw rfl) (hfb : Sub 2 fb := by exact Sub.within hfb rfl) : Frame fw fb s0 (writeChanCtl src c value s) := by
  unfold writeChanCtl
  repeat' (first
    | with_reducible assumption
    | with_reducible apply State.bump_fr
    | with_reducible apply State.chanDiscard_fr
    | with_reducible apply State.chanRestart_fr
    | with_reducible apply State.wr_fr
    | (with_reducible refine Frame.ite ?_ ?_)
    | ((with_reducible apply Sub.within hfw); exact rfl)
    | ((with_reducible apply Sub.within hfb); exact rfl)
    | ((with_reducible apply Mixed.of); exact rfl)
    | (apply hfb.bit (i := 1) rfl)
    | (extract_lets)
    | split
    | (intro _ _ _)
    | (intro _ e; have _hk : Frame _ _ _ _ := e)
    | (intro _ e; cases e)
    | dsimp only
    | (dsimp +zetaDelta only))

theorem execChannelEnable_fr {fw fb : Nat} {s0 : State} (src chan value : Nat) (s : State) (hK : Frame fw fb s0 s) (hfw : Sub 256 fw := by exact Sub.within hfw rfl) (hfb : Sub 3 fb := by exact Sub.within hfb rfl) : ∀ u, execChannelEnable src chan value s = .next u → Frame fw fb s0 u := by
  unfold execChannelEnable
  repeat' (first
    | with_reducible assumption
    | with_reducible apply State.viaHost_fr
    | with_reducible apply writeChanCtl_fr
    | (with_reducible refine Frame.ite ?_ ?_)
    | ((with_reducible apply Sub.within hfw); exact rfl)
    | ((with_reducible apply Sub.within hfb); exact rfl)
    | ((with_reducible apply Mixed.of); exact rfl)
    | (apply hfb.bit (i := 0) rfl)
    | (apply hfb.bit (i := 1) rfl)
    | (extract_lets)
    | split
    | (intro _ _ _)
    | (intro _ e; have _hk : Frame _ _ _ _ := e)
    | (intro _ e; cases e)
    | dsimp only
    | (dsimp +zetaDelta only))

theorem execChannelDisable_fr {fw fb : Nat} {s0 : State} (src chan value : Nat) (s : State) (hK : Frame fw fb s0 s) (hfw : Sub 256 fw := by exact Sub.within hfw rfl) (hfb : Sub 3 fb := by exact Sub.within hfb rfl) : ∀ u, execChannelDisable src chan value s = .next u → Frame fw fb s0 u := by
  unfold execChannelDisable
  repeat' (first
    | with_reducible assumption
    | with_reducible apply State.viaHost_fr
    | with_reducible apply writeChanCtl_fr
    | (with_reducible refine Frame.ite ?_ ?_)
    | ((with_reducible apply Sub.within hfw); exact rfl)
    | ((with_reducible apply Sub.within hfb); exact rfl)
    | ((with_reducible apply Mixed.of); exact rfl)
    | (apply hfb.bit (i := 0) rfl)
    | (apply hfb.bit (i := 1) rfl)
    | (extract_lets)
    | split
    | (intro _ _ _)
    | (intro _ e; have _hk : Frame _ _ _ _ := e)
    | (intro _ e; cases e)
    | dsimp only
    | (dsimp +zetaDelta only))

theorem execChannelReset_fr {fw fb : Nat} {s0 : State} (src chan value : Nat) (s : State) (hK : Frame fw fb s0 s) (hfw : Sub 256 fw := by exact Sub.within hfw rfl) (hfb : Sub 3 fb := by exact Sub.within hfb rfl) : ∀ u, execChannelReset src chan value s = .next u → Frame fw fb s0 u := by
  unfold execChannelReset
  repeat' (first
    | with_reducible assumption
    | with_reducible apply State.viaHost_fr
    | with_reducible apply writeChanCtl_fr
    | (with_reducible refine Frame.ite ?_ ?_)
    | ((with_reducible apply Sub.within hfw); exact rfl)
    | ((with_reducible apply Sub.within hfb); exact rfl)
    | ((with_reducible apply Mixed.of); exact rfl)
    | (apply hfb.bit (i := 0) rfl)
    | (apply hfb.bit (i := 1) rfl)
    | (extract_lets)
    | split
    | (intro _ _ _)
    | (intro _ e; have _hk : Frame _ _ _ _ := e)
    | (intro _ e; cases e)
    | dsimp only
    | (dsimp +zetaDelta only))

theorem State.ringDrop_fr {fw fb : Nat} {s0 : State} (s : State) (r : Nat) (hK : Frame fw fb s0 s) (hfw : Sub 24576 fw := by exact Sub.within hfw rfl) (hfb : Sub 2 fb := by exact Sub.within hfb rfl) : Frame fw fb s0 (s.ringDrop r) := by
  unfold State.ringDrop
  refine State.lateIn_fr _ (State.bump_fr _ _ _ ?_)
  exact Frame.upd (t := { s with hold := s.hold.filter (fun h => h.ring != r) })
    (hK.setHold (fun hl => Nat.le_trans (List.length_filter_le _ _) hl) (hfw.bit rfl)) hfw rfl rfl ⟨rfl, rfl, rfl⟩

theorem writeRingCtl_fr {fw fb : Nat} {s0 : State} (src r value : Nat) (s : State) (hK : Frame fw fb s0 s) (hfw : Sub 24576 fw := by exact Sub.within hfw rfl) (hfb : Sub 2 fb := by exact Sub.within hfb rfl) : Frame fw fb s0 (writeRingCtl src r value s) := by
  unfold writeRingCtl
  repeat' (first
    | with_reducible assumption
    | with_reducible apply State.bump_fr
    | with_reducible apply State.ringDrop_fr
    | with_reducible apply State.wr_fr
    | (with_reducible refine Frame.ite ?_ ?_)
    | ((with_reducible apply Sub.within hfw); exact rfl)
    | ((with_reducible apply Sub.within hfb); exact rfl)
    | ((with_reducible apply Mixed.of); exact rfl)
    | (apply hfb.bit (i := 1) rfl)
    | (extract_lets)
    | split
    | (intro _ _ _)
    | (intro _ e; have _hk : Frame _ _ _ _ := e)
    | (intro _ e; cases e)
    | dsimp only
    | (dsimp +zetaDelta only))

theorem execRingEnable_fr {fw fb : Nat} {s0 : State} (src ring value : Nat) (s : State) (hK : Frame fw fb s0 s) (hfw : Sub 24576 fw := by exact Sub.within hfw rfl) (hfb : Sub 3 fb := by exact Sub.within hfb rfl) : ∀ u, execRingEnable src ring value s = .next u → Frame fw fb s0 u := by
  unfold execRingEnable
  repeat' (first
    | with_reducible assumption
    | with_reducible apply State.viaHost_fr
    | with_reducible apply writeRingCtl_fr
    | (with_reducible refine Frame.ite ?_ ?_)
    | ((with_reducible apply Sub.within hfw); exact rfl)
    | ((with_reducible apply Sub.within hfb); exact rfl)
    | ((with_reducible apply Mixed.of); exact rfl)
    | (apply hfb.bit (i := 0) rfl)
    | (apply hfb.bit (i := 1) rfl)
    | (extract_lets)
    | split
    | (intro _ _ _)
    | (intro _ e; have _hk : Frame _ _ _ _ := e)
    | (intro _ e; cases e)
    | dsimp only
    | (dsimp +zetaDelta only))

theorem execRingDisable_fr {fw fb : Nat} {s0 : State} (src ring value : Nat) (s : State) (hK : Frame fw fb s0 s) (hfw : Sub 24576 fw := by exact Sub.within hfw rfl) (hfb : Sub 3 fb := by exact Sub.within hfb rfl) : ∀ u, execRingDisable src ring value s = .next u → Frame fw fb s0 u := by
  unfold execRingDisable
  repeat' (first
    | with_reducible assumption
    | with_reducible apply State.viaHost_fr
    | with_reducible apply writeRingCtl_fr
    | (with_reducible refine Frame.ite ?_ ?_)
    | ((with_reducible apply Sub.within hfw); exact rfl)
    | ((with_reducible apply Sub.within hfb); exact rfl)
    | ((with_reducible apply Mixed.of); exact rfl)
    | (apply hfb.bit (i := 0) rfl)
    | (apply hfb.bit (i := 1) rfl)
    | (extract_lets)
    | split
    | (intro _ _ _)
    | (intro _ e; have _hk : Frame _ _ _ _ := e)
    | (intro _ e; cases e)
    | dsimp only
    | (dsimp +zetaDelta only))

end Sys2Proof.Machine
end

