-- ==== Sys2Proof/Laws/Frame/Mmu.lean ====
section
/-! SUPPORT. What the operations of Machine/Mmu.lean leave as it was (`Frame`): one lemma each. -/

set_option linter.unreachableTactic false
set_option linter.unusedTactic false

namespace Sys2Proof.Machine

set_option Elab.async false

open Sys2Proof

theorem State.allocRun_fr {fw fb : Nat} {s0 : State} (s : State) (regions : List (Nat × Nat)) (size align kind ctx : Nat) (hK : Frame fw fb s0 s) (hfw : Sub 65546 fw := by exact Sub.within hfw rfl) :
    ∀ p, s.allocRun regions size align kind ctx = some p → Frame fw fb s0 p.2 := by
  unfold State.allocRun
  split
  · intro _ e; cases e
  · intro _ e
    cases e
    exact Frame.upd (hK.setMem (memWf_memClear _ _ _) (hfw.bit rfl)) hfw rfl rfl ⟨rfl, rfl, rfl⟩

theorem State.allocRun_fr_at {fw fb : Nat} {s0 u : State} {s : State} {regions : List (Nat × Nat)} {size align kind ctx : Nat} {r}
    (e : s.allocRun regions size align kind ctx = some (r, u)) (hK : Frame fw fb s0 s) (hfw : Sub 65546 fw := by exact Sub.within hfw rfl) : Frame fw fb s0 u :=
  by
  have := State.allocRun_fr s regions size align kind ctx hK
  exact this (r, u) e

theorem State.allocRun_fr_of {fw fb : Nat} {s0 : State} {s : State} {regions : List (Nat × Nat)} {size align kind ctx : Nat} {p}
    (e : s.allocRun regions size align kind ctx = some p) (hK : Frame fw fb s0 s) (hfw : Sub 65546 fw := by exact Sub.within hfw rfl) : Frame fw fb s0 p.2 := by
  have := State.allocRun_fr s regions size align kind ctx hK
  exact this p e

theorem State.freeRunAt_fr {fw fb : Nat} {s0 : State} (s : State) (base : Nat) (hK : Frame fw fb s0 s) (hfw : Sub 65536 fw := by exact Sub.within hfw rfl) : Frame fw fb s0 (State.freeRunAt s base) := by
  have k0 : ∀ (t : State) x0, Frame fw fb s0 t → Frame fw fb s0 { t with allocs := x0 } := fun t x0 ht => Frame.upd ht hfw rfl rfl ⟨rfl, rfl, rfl⟩
  unfold State.freeRunAt
  repeat' (first
    | with_reducible assumption
    | (with_reducible refine Frame.ite ?_ ?_)
    | ((with_reducible apply Sub.within hfw); exact rfl)
    | ((with_reducible apply Sub.within hfb); exact rfl)
    | ((with_reducible apply Mixed.of); exact rfl)
    | (extract_lets)
    | (fail_if_no_progress (with_reducible refine k0 _ _ ?_))
    | split
    | (intro _ _ _)
    | (intro _ e; have _hk : Frame _ _ _ _ := e)
    | (intro _ e; cases e)
    | dsimp only
    | (dsimp +zetaDelta only)
    | (fail_if_no_progress ((with_reducible refine Frame.upd ?_ hfw ?_ rfl ⟨rfl, rfl, rfl⟩); rotate_left; exact rfl)))

theorem State.needTable_fr {fw fb : Nat} {s0 : State} (s : State) (c addr size : Nat) (hK : Frame fw fb s0 s) (hfw : Sub 65546 fw := by exact Sub.within hfw rfl) : ∀ p, State.needTable s c addr size = some p → Frame fw fb s0 p.2 := by
  unfold State.needTable
  repeat' (first
    | with_reducible assumption
    | (with_reducible refine State.allocRun_fr _ _ _ _ _ _ ?_ ?_)
    | (with_reducible apply State.allocRun_fr_of; with_reducible assumption)
    | (with_reducible apply State.allocRun_fr_at; with_reducible assumption)
    | with_reducible apply State.store_fr
    | (with_reducible refine Frame.ite ?_ ?_)
    | ((with_reducible apply Sub.within hfw); exact rfl)
    | ((with_reducible apply Sub.within hfb); exact rfl)
    | ((with_reducible apply Mixed.of); exact rfl)
    | (extract_lets)
    | split
    | (intro _ _ _)
    | (intro _ e; have _hk : Frame _ _ _ _ := e)
    | (intro _ e; cases e)
    | dsimp only
    | (dsimp +zetaDelta only))

theorem State.needTable_fr_of {fw fb : Nat} {s0 : State} {p} {s : State} {c addr size : Nat} (h_eq : State.needTable s c addr size = some p) (hK : Frame fw fb s0 s) (hfw : Sub 65546 fw := by exact Sub.within hfw rfl) : Frame fw fb s0 p.2 := by
  have := State.needTable_fr s c addr size hK
  exact this p h_eq

theorem State.needTable_fr_at {fw fb : Nat} {s0 : State} {u : State} {r0} {s : State} {c addr size : Nat} (h_eq : State.needTable s c addr size = some (r0, u)) (hK : Frame fw fb s0 s) (hfw : Sub 65546 fw := by exact Sub.within hfw rfl) : Frame fw fb s0 u := by
  have := State.needTable_fr s c addr size hK
  exact this (r0, u) h_eq

theorem State.shootdown_fr {fw fb : Nat} {s0 : State} (s : State) (c va : Nat) (hK : Frame fw fb s0 s) (hfw : Sub 16777216 fw := by exact Sub.within hfw rfl) : Frame fw fb s0 (State.shootdown s c va) := by
  have k0 : ∀ (t : State) x0, Frame fw fb s0 t → Frame fw fb s0 { t with tlbs := x0 } := fun t x0 ht => Frame.upd ht hfw rfl rfl ⟨rfl, rfl, rfl⟩
  unfold State.shootdown
  repeat' (first
    | with_reducible assumption
    | (with_reducible refine Frame.ite ?_ ?_)
    | ((with_reducible apply Sub.within hfw); exact rfl)
    | ((with_reducible apply Sub.within hfb); exact rfl)
    | ((with_reducible apply Mixed.of); exact rfl)
    | (extract_lets)
    | (fail_if_no_progress (with_reducible refine k0 _ _ ?_))
    | split
    | (intro _ _ _)
    | (intro _ e; have _hk : Frame _ _ _ _ := e)
    | (intro _ e; cases e)
    | dsimp only
    | (dsimp +zetaDelta only)
    | (fail_if_no_progress ((with_reducible refine Frame.upd ?_ hfw ?_ rfl ⟨rfl, rfl, rfl⟩); rotate_left; exact rfl)))

theorem State.indexLeaf_fr {fw fb : Nat} {s0 : State} (s : State) (c va : Nat) (big : Bool) (leaf : Nat) (hK : Frame fw fb s0 s) (hfw : Sub 8388608 fw := by exact Sub.within hfw rfl) (hfb : Sub 16 fb := by exact Sub.within hfb rfl) : Frame fw fb s0 (State.indexLeaf s c va big leaf) := by
  have k0 : ∀ (t : State) x0, Frame fw fb s0 t → Frame fw fb s0 { t with remaps := x0 } := fun t x0 ht => Frame.upd ht hfw rfl rfl ⟨rfl, rfl, rfl⟩
  unfold State.indexLeaf
  repeat' (first
    | with_reducible assumption
    | with_reducible apply State.wr_fr
    | (with_reducible refine Frame.ite ?_ ?_)
    | ((with_reducible apply Sub.within hfw); exact rfl)
    | ((with_reducible apply Sub.within hfb); exact rfl)
    | ((with_reducible apply Mixed.of); exact rfl)
    | (apply hfb.bit (i := 4) rfl)
    | (extract_lets)
    | (fail_if_no_progress (with_reducible refine k0 _ _ ?_))
    | split
    | (intro _ _ _)
    | (intro _ e; have _hk : Frame _ _ _ _ := e)
    | (intro _ e; cases e)
    | dsimp only
    | (dsimp +zetaDelta only)
    | (fail_if_no_progress ((with_reducible refine Frame.upd ?_ hfw ?_ rfl ⟨rfl, rfl, rfl⟩); rotate_left; exact rfl)))

theorem State.putLeaf_fr {fw fb : Nat} {s0 : State} (s : State) (addr c va : Nat) (big : Bool) (leaf : Nat) (hK : Frame fw fb s0 s) (hfw : Sub 25165832 fw := by exact Sub.within hfw rfl) (hfb : Sub 16 fb := by exact Sub.within hfb rfl) : Frame fw fb s0 (State.putLeaf s addr c va big leaf) := by
  unfold State.putLeaf
  repeat' (first
    | with_reducible assumption
    | with_reducible apply State.indexLeaf_fr
    | with_reducible apply State.shootdown_fr
    | with_reducible apply State.store_fr
    | (with_reducible refine Frame.ite ?_ ?_)
    | ((with_reducible apply Sub.within hfw); exact rfl)
    | ((with_reducible apply Sub.within hfb); exact rfl)
    | ((with_reducible apply Mixed.of); exact rfl)
    | (apply hfb.bit (i := 4) rfl)
    | (extract_lets)
    | split
    | (intro _ _ _)
    | (intro _ e; have _hk : Frame _ _ _ _ := e)
    | (intro _ e; cases e)
    | dsimp only
    | (dsimp +zetaDelta only))

theorem State.mapPage_fr {fw fb : Nat} {s0 : State} (s : State) (c va : Nat) (big : Bool) (leaf : Nat) (hK : Frame fw fb s0 s) (hfw : Sub 25231370 fw := by exact Sub.within hfw rfl) (hfb : Sub 16 fb := by exact Sub.within hfb rfl) : ∀ u, State.mapPage s c va big leaf = some u → Frame fw fb s0 u := by
  unfold State.mapPage
  repeat' (first
    | with_reducible assumption
    | (with_reducible refine State.needTable_fr _ _ _ _ ?_ ?_)
    | (with_reducible apply State.needTable_fr_of; with_reducible assumption)
    | (with_reducible apply State.needTable_fr_at; with_reducible assumption)
    | with_reducible apply State.putLeaf_fr
    | (with_reducible refine Frame.ite ?_ ?_)
    | ((with_reducible apply Sub.within hfw); exact rfl)
    | ((with_reducible apply Sub.within hfb); exact rfl)
    | ((with_reducible apply Mixed.of); exact rfl)
    | (apply hfb.bit (i := 4) rfl)
    | (extract_lets)
    | split
    | (intro _ _ _)
    | (intro _ e; have _hk : Frame _ _ _ _ := e)
    | (intro _ e; cases e)
    | dsimp only
    | (dsimp +zetaDelta only))

theorem State.mapPage_fr_at {fw fb : Nat} {s0 : State} {u : State} {s : State} {c va : Nat} {big : Bool} {leaf : Nat} (h_eq : State.mapPage s c va big leaf = some u) (hK : Frame fw fb s0 s) (hfw : Sub 25231370 fw := by exact Sub.within hfw rfl) (hfb : Sub 16 fb := by exact Sub.within hfb rfl) : Frame fw fb s0 u := by
  have := State.mapPage_fr s c va big leaf hK
  exact this u h_eq

theorem State.setLeaf_fr {fw fb : Nat} {s0 : State} (s : State) (c va leaf : Nat) (hK : Frame fw fb s0 s) (hfw : Sub 25165832 fw := by exact Sub.within hfw rfl) (hfb : Sub 16 fb := by exact Sub.within hfb rfl) : Frame fw fb s0 (State.setLeaf s c va leaf) := by
  unfold State.setLeaf
  repeat' (first
    | with_reducible assumption
    | with_reducible apply State.putLeaf_fr
    | (with_reducible refine Frame.ite ?_ ?_)
    | ((with_reducible apply Sub.within hfw); exact rfl)
    | ((with_reducible apply Sub.within hfb); exact rfl)
    | ((with_reducible apply Mixed.of); exact rfl)
    | (apply hfb.bit (i := 4) rfl)
    | (extract_lets)
    | split
    | (intro _ _ _)
    | (intro _ e; have _hk : Frame _ _ _ _ := e)
    | (intro _ e; cases e)
    | dsimp only
    | (dsimp +zetaDelta only))

theorem State.unmapPage_fr {fw fb : Nat} {s0 : State} (s : State) (c va : Nat) (hK : Frame fw fb s0 s) (hfw : Sub 25231368 fw := by exact Sub.within hfw rfl) (hfb : Sub 16 fb := by exact Sub.within hfb rfl) : Frame fw fb s0 (State.unmapPage s c va) := by
  unfold State.unmapPage
  repeat' (first
    | with_reducible assumption
    | with_reducible apply State.freeRunAt_fr
    | with_reducible apply State.putLeaf_fr
    | with_reducible apply State.store_fr
    | (with_reducible refine Frame.ite ?_ ?_)
    | ((with_reducible apply Sub.within hfw); exact rfl)
    | ((with_reducible apply Sub.within hfb); exact rfl)
    | ((with_reducible apply Mixed.of); exact rfl)
    | (apply hfb.bit (i := 4) rfl)
    | (extract_lets)
    | split
    | (intro _ _ _)
    | (intro _ e; have _hk : Frame _ _ _ _ := e)
    | (intro _ e; cases e)
    | dsimp only
    | (dsimp +zetaDelta only))

theorem State.translated_fr {fw fb : Nat} {s0 : State} (s : State) (engine c va : Nat) (hK : Frame fw fb s0 s) (hfw : Sub 16777218 fw := by exact Sub.within hfw rfl) : Frame fw fb s0 (State.translated s engine c va) := by
  have k0 : ∀ (t : State) x0, Frame fw fb s0 t → Frame fw fb s0 { t with tlbs := x0 } := fun t x0 ht => Frame.upd ht hfw rfl rfl ⟨rfl, rfl, rfl⟩
  have k1 : ∀ (t : State) x0 x1, Frame fw fb s0 t → Frame fw fb s0 { t with freeCtr := x0, tlbs := x1 } := fun t x0 x1 ht => Frame.upd ht hfw rfl rfl ⟨rfl, rfl, rfl⟩
  unfold State.translated
  repeat' (first
    | with_reducible assumption
    | (with_reducible refine Frame.ite ?_ ?_)
    | ((with_reducible apply Sub.within hfw); exact rfl)
    | ((with_reducible apply Sub.within hfb); exact rfl)
    | ((with_reducible apply Mixed.of); exact rfl)
    | (extract_lets)
    | (fail_if_no_progress (with_reducible refine k0 _ _ ?_))
    | (fail_if_no_progress (with_reducible refine k1 _ _ _ ?_))
    | split
    | (intro _ _ _)
    | (intro _ e; have _hk : Frame _ _ _ _ := e)
    | (intro _ e; cases e)
    | dsimp only
    | (dsimp +zetaDelta only)
    | (fail_if_no_progress ((with_reducible refine Frame.upd ?_ hfw ?_ rfl ⟨rfl, rfl, rfl⟩); rotate_left; exact rfl)))

theorem State.faultFlags_fr {fw fb : Nat} {s0 : State} (s : State) (c : Nat) (hK : Frame fw fb s0 s) (hfb : Sub 12 fb := by exact Sub.within hfb rfl) : Frame fw fb s0 (State.faultFlags s c) := by
  unfold State.faultFlags
  repeat' (first
    | with_reducible assumption
    | with_reducible apply State.wr_fr
    | (with_reducible refine Frame.ite ?_ ?_)
    | ((with_reducible apply Sub.within hfw); exact rfl)
    | ((with_reducible apply Sub.within hfb); exact rfl)
    | ((with_reducible apply Mixed.of); exact rfl)
    | (apply hfb.bit (i := 2) rfl)
    | (apply hfb.bit (i := 3) rfl)
    | (dsimp only [State.wrs, State.regs0, List.foldl])
    | (extract_lets)
    | split
    | (intro _ _ _)
    | (intro _ e; have _hk : Frame _ _ _ _ := e)
    | (intro _ e; cases e)
    | dsimp only
    | (dsimp +zetaDelta only))

theorem State.want_fr {fw fb : Nat} {s0 : State} (s : State) (m : Move) (hK : Frame fw fb s0 s) (hfw : Sub 2097152 fw := by exact Sub.within hfw rfl) : Frame fw fb s0 (State.want s m) := by
  have k0 : ∀ (t : State) x0, Frame fw fb s0 t → Frame fw fb s0 { t with wants := x0 } := fun t x0 ht => Frame.upd ht hfw rfl rfl ⟨rfl, rfl, rfl⟩
  unfold State.want
  repeat' (first
    | with_reducible assumption
    | (with_reducible refine Frame.ite ?_ ?_)
    | ((with_reducible apply Sub.within hfw); exact rfl)
    | ((with_reducible apply Sub.within hfb); exact rfl)
    | ((with_reducible apply Mixed.of); exact rfl)
    | (extract_lets)
    | (fail_if_no_progress (with_reducible refine k0 _ _ ?_))
    | split
    | (intro _ _ _)
    | (intro _ e; have _hk : Frame _ _ _ _ := e)
    | (intro _ e; cases e)
    | dsimp only
    | (dsimp +zetaDelta only)
    | (fail_if_no_progress ((with_reducible refine Frame.upd ?_ hfw ?_ rfl ⟨rfl, rfl, rfl⟩); rotate_left; exact rfl)))

theorem State.waitsOff_fr {fw fb : Nat} {s0 : State} (s : State) (who : Parked) (hK : Frame fw fb s0 s) (hfw : Sub 2361183241434822606848 fw := by exact Sub.within hfw rfl) : Frame fw fb s0 (State.waitsOff s who) := by
  have k0 : ∀ (t : State) x0, Frame fw fb s0 t → Frame fw fb s0 { t with tableWaits := x0 } := fun t x0 ht => Frame.upd ht hfw rfl rfl ⟨rfl, rfl, rfl⟩
  unfold State.waitsOff
  repeat' (first
    | with_reducible assumption
    | (with_reducible refine Frame.ite ?_ ?_)
    | ((with_reducible apply Sub.within hfw); exact rfl)
    | ((with_reducible apply Sub.within hfb); exact rfl)
    | ((with_reducible apply Mixed.of); exact rfl)
    | (extract_lets)
    | (fail_if_no_progress (with_reducible refine k0 _ _ ?_))
    | split
    | (intro _ _ _)
    | (intro _ e; have _hk : Frame _ _ _ _ := e)
    | (intro _ e; cases e)
    | dsimp only
    | (dsimp +zetaDelta only)
    | (fail_if_no_progress ((with_reducible refine Frame.upd ?_ hfw ?_ rfl ⟨rfl, rfl, rfl⟩); rotate_left; exact rfl)))

theorem State.openFault_fr {fw fb : Nat} {s0 : State} (s : State) (c kind : Nat) (write : Bool) (va engine seq chan : Nat) (noCmd : Bool) (who : Parked) (hK : Frame fw fb s0 s) (hfw : Sub 2361183241434925367296 fw := by exact Sub.within hfw rfl) (hfb : Sub 12 fb := by exact Sub.within hfb rfl) : Frame fw fb s0 (State.openFault s c kind write va engine seq chan noCmd who) := by
  have k0 : ∀ (t : State) x0, Frame fw fb s0 t → Frame fw fb s0 { t with faults := x0 } := fun t x0 ht => Frame.upd ht hfw rfl rfl ⟨rfl, rfl, rfl⟩
  have k1 : ∀ (t : State) x0, Frame fw fb s0 t → Frame fw fb s0 { t with tableWaits := x0 } := fun t x0 ht => Frame.upd ht hfw rfl rfl ⟨rfl, rfl, rfl⟩
  have k2 : ∀ (t : State) x0 x1, Frame fw fb s0 t → Frame fw fb s0 { t with faults := x0, nextFault := x1 } := fun t x0 x1 ht => Frame.upd ht hfw rfl rfl ⟨rfl, rfl, rfl⟩
  unfold State.openFault
  repeat' (first
    | with_reducible assumption
    | with_reducible apply State.bump_fr
    | with_reducible apply State.faultFlags_fr
    | with_reducible apply State.waitsOff_fr
    | with_reducible apply State.want_fr
    | (with_reducible refine Frame.ite ?_ ?_)
    | ((with_reducible apply Sub.within hfw); exact rfl)
    | ((with_reducible apply Sub.within hfb); exact rfl)
    | ((with_reducible apply Mixed.of); exact rfl)
    | (apply hfb.bit (i := 2) rfl)
    | (apply hfb.bit (i := 3) rfl)
    | (extract_lets)
    | (fail_if_no_progress (with_reducible refine k0 _ _ ?_))
    | (fail_if_no_progress (with_reducible refine k1 _ _ ?_))
    | (fail_if_no_progress (with_reducible refine k2 _ _ _ ?_))
    | split
    | (intro _ _ _)
    | (intro _ e; have _hk : Frame _ _ _ _ := e)
    | (intro _ e; cases e)
    | dsimp only
    | (dsimp +zetaDelta only)
    | (fail_if_no_progress ((with_reducible refine Frame.upd ?_ hfw ?_ rfl ⟨rfl, rfl, rfl⟩); rotate_left; exact rfl)))

theorem State.parkCmd_fr {fw fb : Nat} {s0 : State} (s : State) (c : Cmd) (kind : Nat) (write : Bool) (va : Nat) (hK : Frame fw fb s0 s) (hfw : Sub 2361183241434925367296 fw := by exact Sub.within hfw rfl) (hfb : Sub 12 fb := by exact Sub.within hfb rfl) : Frame fw fb s0 (State.parkCmd s c kind write va) := by
  unfold State.parkCmd
  repeat' (first
    | with_reducible assumption
    | with_reducible apply State.openFault_fr
    | (with_reducible refine Frame.ite ?_ ?_)
    | ((with_reducible apply Sub.within hfw); exact rfl)
    | ((with_reducible apply Sub.within hfb); exact rfl)
    | ((with_reducible apply Mixed.of); exact rfl)
    | (apply hfb.bit (i := 2) rfl)
    | (apply hfb.bit (i := 3) rfl)
    | (extract_lets)
    | split
    | (intro _ _ _)
    | (intro _ e; have _hk : Frame _ _ _ _ := e)
    | (intro _ e; cases e)
    | dsimp only
    | (dsimp +zetaDelta only))

theorem State.writeLoc_fr {fw fb : Nat} {s0 : State} (s : State) (l : Loc) (n v : Nat) (hK : Frame fw fb s0 s) (hfw : Sub 8 fw := by exact Sub.within hfw rfl) : Frame fw fb s0 (State.writeLoc s l n v) := by
  unfold State.writeLoc
  repeat' (first
    | with_reducible assumption
    | with_reducible apply State.store_fr
    | (with_reducible refine Frame.ite ?_ ?_)
    | ((with_reducible apply Sub.within hfw); exact rfl)
    | ((with_reducible apply Sub.within hfb); exact rfl)
    | ((with_reducible apply Mixed.of); exact rfl)
    | (extract_lets)
    | split
    | (intro _ _ _)
    | (intro _ e; have _hk : Frame _ _ _ _ := e)
    | (intro _ e; cases e)
    | dsimp only
    | (dsimp +zetaDelta only))

end Sys2Proof.Machine
end

