-- ==== Sys2Proof/Laws/Frame/Flags.lean ====
section
/-! SUPPORT. What the operations of Machine/Flags.lean leave as it was (`Frame`): one lemma each. -/

set_option linter.unreachableTactic false
set_option linter.unusedTactic false

namespace Sys2Proof.Machine

set_option Elab.async false

open Sys2Proof

/-- What `Frame` says of every state that a `CmdAccess` holds. -/
def CmdAccess.fr (fw fb : Nat) (s0 : State) : CmdAccess → Prop
  | .ok _ _ => True
  | .stop s => Frame fw fb s0 s

theorem CmdAccess.fr_ok {fw fb : Nat} {s0 : State} {x0 x1} : CmdAccess.fr fw fb s0 (.ok x0 x1) := trivial

theorem CmdAccess.fr_stop {fw fb : Nat} {s0 : State} {t : State} (h : Frame fw fb s0 t) : CmdAccess.fr fw fb s0 (.stop t) := h

theorem State.runCmd_fr {fw fb : Nat} {s0 : State} (s : State) (k op : Nat) (sel : Cmd → Bool) (check : State → Cmd → Option (Nat × Nat))
    (eff : State → Cmd → State) (he : ∀ t c, Frame fw fb s0 t → Frame fw fb s0 (eff t c)) (hK : Frame fw fb s0 s) (hfw : Sub 2560 fw := by exact Sub.within hfw rfl) : Frame fw fb s0 (s.runCmd k op sel check eff) := by
  unfold State.runCmd
  split
  · exact hK
  · split
    · split
      · exact State.failWith_fr _ _ _ _ hK
      · exact he _ _ hK
    · exact hK

theorem State.cmdAccess_fr {fw fb : Nat} {s0 : State} (s : State) (c : Cmd) (va : Nat) (write atomic : Bool) (hK : Frame fw fb s0 s) (hfw : Sub 2361183241434925369856 fw := by exact Sub.within hfw rfl) (hfb : Sub 12 fb := by exact Sub.within hfb rfl) : (State.cmdAccess s c va write atomic).fr fw fb s0 := by
  unfold State.cmdAccess
  repeat' (first
    | with_reducible assumption
    | with_reducible apply State.failWith_fr
    | with_reducible apply State.parkCmd_fr
    | with_reducible apply CmdAccess.fr_ok
    | with_reducible apply CmdAccess.fr_stop
    | (with_reducible refine Frame.ite ?_ ?_)
    | ((with_reducible apply Sub.within hfw); exact rfl)
    | ((with_reducible apply Sub.within hfb); exact rfl)
    | ((with_reducible apply Mixed.of); exact rfl)
    | (apply hfb.bit (i := 2) rfl)
    | (apply hfb.bit (i := 3) rfl)
    | (extract_lets)
    | split
    | (intro _ _ _)
    | (intro _ e; have _hk : Frame _ _ _ _ := e)
    | (intro _ e; cases e)
    | dsimp only
    | (dsimp +zetaDelta only))

theorem State.cmdAccess_fr_stop {fw fb : Nat} {s0 : State} {u : State} {s : State} {c : Cmd} {va : Nat} {write atomic : Bool} (h_eq : State.cmdAccess s c va write atomic = .stop u) (hK : Frame fw fb s0 s) (hfw : Sub 2361183241434925369856 fw := by exact Sub.within hfw rfl) (hfb : Sub 12 fb := by exact Sub.within hfb rfl) : Frame fw fb s0 u := by
  have := State.cmdAccess_fr s c va write atomic hK
  rw [h_eq] at this
  exact this

theorem State.remoteStore_fr {fw fb : Nat} {s0 : State} (s : State) (chip host off : Nat) (data : List Nat) (ctx va : Nat) (who : Parked) (hK : Frame fw fb s0 s) (hfw : Sub 536870912 fw := by exact Sub.within hfw rfl) (hfb : Sub 512 fb := by exact Sub.within hfb rfl) : Frame fw fb s0 (State.remoteStore s chip host off data ctx va who) := by
  unfold State.remoteStore
  repeat' (first
    | with_reducible assumption
    | with_reducible apply State.fabSend_fr
    | (with_reducible refine Frame.ite ?_ ?_)
    | ((with_reducible apply Sub.within hfw); exact rfl)
    | ((with_reducible apply Sub.within hfb); exact rfl)
    | ((with_reducible apply Mixed.of); exact rfl)
    | (apply hfb.bit (i := 9) rfl)
    | (extract_lets)
    | split
    | (intro _ _ _)
    | (intro _ e; have _hk : Frame _ _ _ _ := e)
    | (intro _ e; cases e)
    | dsimp only
    | (dsimp +zetaDelta only))

theorem State.remoteAtomic_fr {fw fb : Nat} {s0 : State} (s : State) (chip off op typ : Nat) (data : List Nat) (ctx va : Nat) (who : Parked) (hK : Frame fw fb s0 s) (hfw : Sub 536870912 fw := by exact Sub.within hfw rfl) (hfb : Sub 512 fb := by exact Sub.within hfb rfl) : Frame fw fb s0 (State.remoteAtomic s chip off op typ data ctx va who) := by
  unfold State.remoteAtomic
  repeat' (first
    | with_reducible assumption
    | with_reducible apply State.fabSend_fr
    | (with_reducible refine Frame.ite ?_ ?_)
    | ((with_reducible apply Sub.within hfw); exact rfl)
    | ((with_reducible apply Sub.within hfb); exact rfl)
    | ((with_reducible apply Mixed.of); exact rfl)
    | (apply hfb.bit (i := 9) rfl)
    | (extract_lets)
    | split
    | (intro _ _ _)
    | (intro _ e; have _hk : Frame _ _ _ _ := e)
    | (intro _ e; cases e)
    | dsimp only
    | (dsimp +zetaDelta only))

theorem State.remoteLoad_fr {fw fb : Nat} {s0 : State} (s : State) (chip host off units : Nat) (ctx va fill : Nat) (who : Parked) (hK : Frame fw fb s0 s) (hfw : Sub 536870912 fw := by exact Sub.within hfw rfl) (hfb : Sub 512 fb := by exact Sub.within hfb rfl) : Frame fw fb s0 (State.remoteLoad s chip host off units ctx va fill who) := by
  unfold State.remoteLoad
  repeat' (first
    | with_reducible assumption
    | with_reducible apply State.fabSend_fr
    | (with_reducible refine Frame.ite ?_ ?_)
    | ((with_reducible apply Sub.within hfw); exact rfl)
    | ((with_reducible apply Sub.within hfb); exact rfl)
    | ((with_reducible apply Mixed.of); exact rfl)
    | (apply hfb.bit (i := 9) rfl)
    | (extract_lets)
    | split
    | (intro _ _ _)
    | (intro _ e; have _hk : Frame _ _ _ _ := e)
    | (intro _ e; cases e)
    | dsimp only
    | (dsimp +zetaDelta only))

end Sys2Proof.Machine
end

