-- ==== Sys2Proof/Laws/Frame/Paging.lean ====
section
/-! SUPPORT. What the operations of Machine/Paging.lean leave as it was (`Frame`): one lemma each. -/

set_option linter.unreachableTactic false
set_option linter.unusedTactic false

namespace Sys2Proof.Machine

set_option Elab.async false

open Sys2Proof

theorem mapLeaf_fr {fw fb : Nat} {s0 : State} (c : Cmd) (i : Nat) (s : State) (hK : Frame fw fb s0 s) (hfw : Sub 65546 fw := by exact Sub.within hfw rfl) : ∀ p, mapLeaf c i s = some p → Frame fw fb s0 p.2 := by
  unfold mapLeaf
  repeat' (first
    | with_reducible assumption
    | (with_reducible refine State.allocRun_fr _ _ _ _ _ _ ?_ ?_)
    | (with_reducible apply State.allocRun_fr_of; with_reducible assumption)
    | (with_reducible apply State.allocRun_fr_at; with_reducible assumption)
    | (with_reducible refine Frame.ite ?_ ?_)
    | ((with_reducible apply Sub.within hfw); exact rfl)
    | ((with_reducible apply Sub.within hfb); exact rfl)
    | ((with_reducible apply Mixed.of); exact rfl)
    | (extract_lets)
    | split
    | (intro _ _ _)
    | (intro _ e; have _hk : Frame _ _ _ _ := e)
    | (intro _ e; cases e)
    | dsimp only
    | (dsimp +zetaDelta only))

theorem mapLeaf_fr_of {fw fb : Nat} {s0 : State} {p} {c : Cmd} {i : Nat} {s : State} (h_eq : mapLeaf c i s = some p) (hK : Frame fw fb s0 s) (hfw : Sub 65546 fw := by exact Sub.within hfw rfl) : Frame fw fb s0 p.2 := by
  have := mapLeaf_fr c i s hK
  exact this p h_eq

theorem mapLeaf_fr_at {fw fb : Nat} {s0 : State} {u : State} {r0} {c : Cmd} {i : Nat} {s : State} (h_eq : mapLeaf c i s = some (r0, u)) (hK : Frame fw fb s0 s) (hfw : Sub 65546 fw := by exact Sub.within hfw rfl) : Frame fw fb s0 u := by
  have := mapLeaf_fr c i s hK
  exact this (r0, u) h_eq

theorem mapPages_fr {fw fb : Nat} {s0 : State} (c : Cmd) (n : Nat) (i : Nat) (s : State) (hK : Frame fw fb s0 s) (hfw : Sub 25231370 fw := by exact Sub.within hfw rfl) (hfb : Sub 16 fb := by exact Sub.within hfb rfl) : ∀ u, mapPages c n i s = some u → Frame fw fb s0 u := by
  induction n generalizing i s with
  | zero =>
    unfold mapPages
    repeat' (first
      | with_reducible assumption
      | (with_reducible refine mapLeaf_fr _ _ _ ?_ ?_)
      | (with_reducible apply mapLeaf_fr_of; with_reducible assumption)
      | (with_reducible apply mapLeaf_fr_at; with_reducible assumption)
      | (with_reducible refine State.mapPage_fr _ _ _ _ _ ?_ ?_ ?_)
      | (with_reducible apply State.mapPage_fr_at; with_reducible assumption)
      | (with_reducible refine Frame.ite ?_ ?_)
      | ((with_reducible apply Sub.within hfw); exact rfl)
      | ((with_reducible apply Sub.within hfb); exact rfl)
      | ((with_reducible apply Mixed.of); exact rfl)
      | (apply hfb.bit (i := 4) rfl)
      | (extract_lets)
      | split
      | (intro _ _ _)
      | (intro _ e; have _hk : Frame _ _ _ _ := e)
      | (intro _ e; cases e)
      | dsimp only
      | (dsimp +zetaDelta only))
  | succ n ih =>
    unfold mapPages
    repeat' (first
      | with_reducible assumption
      | (with_reducible refine ih _ _ ?_)
      | (with_reducible refine mapLeaf_fr _ _ _ ?_ ?_)
      | (with_reducible apply mapLeaf_fr_of; with_reducible assumption)
      | (with_reducible apply mapLeaf_fr_at; with_reducible assumption)
      | (with_reducible refine State.mapPage_fr _ _ _ _ _ ?_ ?_ ?_)
      | (with_reducible apply State.mapPage_fr_at; with_reducible assumption)
      | (with_reducible refine Frame.ite ?_ ?_)
      | ((with_reducible apply Sub.within hfw); exact rfl)
      | ((with_reducible apply Sub.within hfb); exact rfl)
      | ((with_reducible apply Mixed.of); exact rfl)
      | (apply hfb.bit (i := 4) rfl)
      | (extract_lets)
      | split
      | (intro _ _ _)
      | (intro _ e; have _hk : Frame _ _ _ _ := e)
      | (intro _ e; cases e)
      | dsimp only
      | (dsimp +zetaDelta only))

theorem mapPages_fr_at {fw fb : Nat} {s0 u : State} {c : Cmd} {n : Nat} {i : Nat} {s : State} (e : mapPages c n i s = some u) (hK : Frame fw fb s0 s) (hfw : Sub 25231370 fw := by exact Sub.within hfw rfl) (hfb : Sub 16 fb := by exact Sub.within hfb rfl) : Frame fw fb s0 u := by
  have := mapPages_fr c n i s hK
  exact this u e

theorem mapCmd_fr {fw fb : Nat} {s0 : State} (s : State) (c : Cmd) (hK : Frame fw fb s0 s) (hfw : Sub 193006090 fw := by exact Sub.within hfw rfl) (hfb : Sub 28 fb := by exact Sub.within hfb rfl) : Frame fw fb s0 (mapCmd s c) := by
  unfold mapCmd
  repeat' (first
    | with_reducible assumption
    | with_reducible apply State.doneWith_fr
    | with_reducible apply State.failWith_fr
    | with_reducible apply State.pageServed_fr
    | (with_reducible refine mapPages_fr _ ?_ ?_ ?_)
    | (with_reducible apply mapPages_fr_at; with_reducible assumption)
    | (with_reducible refine Frame.foldl ?_ ?_)
    | (with_reducible refine Frame.foldr ?_ ?_)
    | (with_reducible refine Frame.ite ?_ ?_)
    | ((with_reducible apply Sub.within hfw); exact rfl)
    | ((with_reducible apply Sub.within hfb); exact rfl)
    | ((with_reducible apply Mixed.of); exact rfl)
    | (apply hfb.bit (i := 2) rfl)
    | (apply hfb.bit (i := 3) rfl)
    | (apply hfb.bit (i := 4) rfl)
    | (extract_lets)
    | split
    | (intro _ _ _)
    | (intro _ e; have _hk : Frame _ _ _ _ := e)
    | (intro _ e; cases e)
    | dsimp only
    | (dsimp +zetaDelta only))

theorem execMap_fr {fw fb : Nat} {s0 : State} (k : Nat) (s : State) (hK : Frame fw fb s0 s) (hfw : Sub 193006090 fw := by exact Sub.within hfw rfl) (hfb : Sub 28 fb := by exact Sub.within hfb rfl) : ∀ u, execMap k s = .next u → Frame fw fb s0 u := by
  unfold execMap
  repeat' (first
    | with_reducible assumption
    | with_reducible apply State.runCmd_fr
    | with_reducible apply mapCmd_fr
    | (with_reducible refine Frame.ite ?_ ?_)
    | ((with_reducible apply Sub.within hfw); exact rfl)
    | ((with_reducible apply Sub.within hfb); exact rfl)
    | ((with_reducible apply Mixed.of); exact rfl)
    | (apply hfb.bit (i := 2) rfl)
    | (apply hfb.bit (i := 3) rfl)
    | (apply hfb.bit (i := 4) rfl)
    | (extract_lets)
    | split
    | (intro _ _ _)
    | (intro _ e; have _hk : Frame _ _ _ _ := e)
    | (intro _ e; cases e)
    | dsimp only
    | (dsimp +zetaDelta only))

theorem State.broadcast_fr {fw fb : Nat} {s0 : State} (s : State) (move oldChip oldHost oldFrame newTier newChip newFrame size : Nat) (hK : Frame fw fb s0 s) (hfw : Sub 536870912 fw := by exact Sub.within hfw rfl) (hfb : Sub 528 fb := by exact Sub.within hfb rfl) : Frame fw fb s0 (State.broadcast s move oldChip oldHost oldFrame newTier newChip newFrame size) := by
  unfold State.broadcast
  repeat' (first
    | with_reducible assumption
    | with_reducible apply State.bump_fr
    | with_reducible apply State.fabSend_fr
    | (with_reducible refine Frame.foldl ?_ ?_)
    | (with_reducible refine Frame.foldr ?_ ?_)
    | (with_reducible refine Frame.ite ?_ ?_)
    | ((with_reducible apply Sub.within hfw); exact rfl)
    | ((with_reducible apply Sub.within hfb); exact rfl)
    | ((with_reducible apply Mixed.of); exact rfl)
    | (apply hfb.bit (i := 4) rfl)
    | (apply hfb.bit (i := 9) rfl)
    | (extract_lets)
    | split
    | (intro _ _ _)
    | (intro _ e; have _hk : Frame _ _ _ _ := e)
    | (intro _ e; cases e)
    | dsimp only
    | (dsimp +zetaDelta only))

theorem State.freeHome_fr {fw fb : Nat} {s0 : State} (s : State) (leaf : Nat) (hK : Frame fw fb s0 s) (hfw : Sub 65536 fw := by exact Sub.within hfw rfl) : Frame fw fb s0 (State.freeHome s leaf) := by
  unfold State.freeHome
  repeat' (first
    | with_reducible assumption
    | with_reducible apply State.freeRunAt_fr
    | (with_reducible refine Frame.ite ?_ ?_)
    | ((with_reducible apply Sub.within hfw); exact rfl)
    | ((with_reducible apply Sub.within hfb); exact rfl)
    | ((with_reducible apply Mixed.of); exact rfl)
    | (extract_lets)
    | split
    | (intro _ _ _)
    | (intro _ e; have _hk : Frame _ _ _ _ := e)
    | (intro _ e; cases e)
    | dsimp only
    | (dsimp +zetaDelta only))

theorem unmapOne_fr {fw fb : Nat} {s0 : State} (c : Nat) (s : State) (va : Nat) (hK : Frame fw fb s0 s) (hfw : Sub 562102280 fw := by exact Sub.within hfw rfl) (hfb : Sub 528 fb := by exact Sub.within hfb rfl) : Frame fw fb s0 (unmapOne c s va) := by
  unfold unmapOne
  repeat' (first
    | with_reducible assumption
    | with_reducible apply State.broadcast_fr
    | with_reducible apply State.freeHome_fr
    | with_reducible apply State.unmapPage_fr
    | (with_reducible refine Frame.ite ?_ ?_)
    | ((with_reducible apply Sub.within hfw); exact rfl)
    | ((with_reducible apply Sub.within hfb); exact rfl)
    | ((with_reducible apply Mixed.of); exact rfl)
    | (apply hfb.bit (i := 4) rfl)
    | (apply hfb.bit (i := 9) rfl)
    | (extract_lets)
    | split
    | (intro _ _ _)
    | (intro _ e; have _hk : Frame _ _ _ _ := e)
    | (intro _ e; cases e)
    | dsimp only
    | (dsimp +zetaDelta only))

theorem unmapCmd_fr {fw fb : Nat} {s0 : State} (s : State) (c : Cmd) (hK : Frame fw fb s0 s) (hfw : Sub 562104840 fw := by exact Sub.within hfw rfl) (hfb : Sub 528 fb := by exact Sub.within hfb rfl) : Frame fw fb s0 (unmapCmd s c) := by
  unfold unmapCmd
  repeat' (first
    | with_reducible assumption
    | with_reducible apply State.doneWith_fr
    | with_reducible apply unmapOne_fr
    | (with_reducible refine Frame.foldl ?_ ?_)
    | (with_reducible refine Frame.foldr ?_ ?_)
    | (with_reducible refine Frame.ite ?_ ?_)
    | ((with_reducible apply Sub.within hfw); exact rfl)
    | ((with_reducible apply Sub.within hfb); exact rfl)
    | ((with_reducible apply Mixed.of); exact rfl)
    | (apply hfb.bit (i := 4) rfl)
    | (apply hfb.bit (i := 9) rfl)
    | (extract_lets)
    | split
    | (intro _ _ _)
    | (intro _ e; have _hk : Frame _ _ _ _ := e)
    | (intro _ e; cases e)
    | dsimp only
    | (dsimp +zetaDelta only))

theorem execUnmap_fr {fw fb : Nat} {s0 : State} (k : Nat) (s : State) (hK : Frame fw fb s0 s) (hfw : Sub 562104840 fw := by exact Sub.within hfw rfl) (hfb : Sub 528 fb := by exact Sub.within hfb rfl) : ∀ u, execUnmap k s = .next u → Frame fw fb s0 u := by
  unfold execUnmap
  repeat' (first
    | with_reducible assumption
    | with_reducible apply State.runCmd_fr
    | with_reducible apply unmapCmd_fr
    | (with_reducible refine Frame.ite ?_ ?_)
    | ((with_reducible apply Sub.within hfw); exact rfl)
    | ((with_reducible apply Sub.within hfb); exact rfl)
    | ((with_reducible apply Mixed.of); exact rfl)
    | (apply hfb.bit (i := 4) rfl)
    | (apply hfb.bit (i := 9) rfl)
    | (extract_lets)
    | split
    | (intro _ _ _)
    | (intro _ e; have _hk : Frame _ _ _ _ := e)
    | (intro _ e; cases e)
    | dsimp only
    | (dsimp +zetaDelta only))

theorem migrateCmd_fr {fw fb : Nat} {s0 : State} (s : State) (c : Cmd) (hK : Frame fw fb s0 s) (hfw : Sub 2099712 fw := by exact Sub.within hfw rfl) : Frame fw fb s0 (migrateCmd s c) := by
  unfold migrateCmd
  repeat' (first
    | with_reducible assumption
    | with_reducible apply State.failWith_fr
    | with_reducible apply State.start_fr
    | with_reducible apply State.want_fr
    | (with_reducible refine Frame.ite ?_ ?_)
    | ((with_reducible apply Sub.within hfw); exact rfl)
    | ((with_reducible apply Sub.within hfb); exact rfl)
    | ((with_reducible apply Mixed.of); exact rfl)
    | (extract_lets)
    | split
    | (intro _ _ _)
    | (intro _ e; have _hk : Frame _ _ _ _ := e)
    | (intro _ e; cases e)
    | dsimp only
    | (dsimp +zetaDelta only))

theorem execMigrate_fr {fw fb : Nat} {s0 : State} (k : Nat) (s : State) (hK : Frame fw fb s0 s) (hfw : Sub 2099712 fw := by exact Sub.within hfw rfl) : ∀ u, execMigrate k s = .next u → Frame fw fb s0 u := by
  unfold execMigrate
  repeat' (first
    | with_reducible assumption
    | with_reducible apply State.runCmd_fr
    | with_reducible apply migrateCmd_fr
    | (with_reducible refine Frame.ite ?_ ?_)
    | ((with_reducible apply Sub.within hfw); exact rfl)
    | ((with_reducible apply Sub.within hfb); exact rfl)
    | ((with_reducible apply Mixed.of); exact rfl)
    | (extract_lets)
    | split
    | (intro _ _ _)
    | (intro _ e; have _hk : Frame _ _ _ _ := e)
    | (intro _ e; cases e)
    | dsimp only
    | (dsimp +zetaDelta only))

theorem State.keepFwd_fr {fw fb : Nat} {s0 : State} (s : State) (f : Fwd) (hK : Frame fw fb s0 s) (hfw : Sub 4194304 fw := by exact Sub.within hfw rfl) (hfb : Sub 16 fb := by exact Sub.within hfb rfl) : Frame fw fb s0 (State.keepFwd s f) := by
  have k0 : ∀ (t : State) x0, Frame fw fb s0 t → Frame fw fb s0 { t with fwds := x0 } := fun t x0 ht => Frame.upd ht hfw rfl rfl ⟨rfl, rfl, rfl⟩
  unfold State.keepFwd
  repeat' (first
    | with_reducible assumption
    | with_reducible apply State.wr_fr
    | (with_reducible refine Frame.ite ?_ ?_)
    | ((with_reducible apply Sub.within hfw); exact rfl)
    | ((with_reducible apply Sub.within hfb); exact rfl)
    | ((with_reducible apply Mixed.of); exact rfl)
    | (apply hfb.bit (i := 4) rfl)
    | (extract_lets)
    | (fail_if_no_progress (with_reducible refine k0 _ _ ?_))
    | split
    | (intro _ _ _)
    | (intro _ e; have _hk : Frame _ _ _ _ := e)
    | (intro _ e; cases e)
    | dsimp only
    | (dsimp +zetaDelta only)
    | (fail_if_no_progress ((with_reducible refine Frame.upd ?_ hfw ?_ rfl ⟨rfl, rfl, rfl⟩); rotate_left; exact rfl)))

theorem setHomeOne_fr {fw fb : Nat} {s0 : State} (c : Cmd) (s : State) (i : Nat) (hK : Frame fw fb s0 s) (hfw : Sub 735641608 fw := by exact Sub.within hfw rfl) (hfb : Sub 540 fb := by exact Sub.within hfb rfl) : Frame fw fb s0 (setHomeOne c s i) := by
  have k0 : ∀ (t : State) x0 x1, Frame fw fb s0 t → Frame fw fb s0 { t with moves := x0, nextMove := x1 } := fun t x0 x1 ht => Frame.upd ht hfw rfl rfl ⟨rfl, rfl, rfl⟩
  unfold setHomeOne
  repeat' (first
    | with_reducible assumption
    | with_reducible apply State.broadcast_fr
    | with_reducible apply State.freeHome_fr
    | with_reducible apply State.keepFwd_fr
    | with_reducible apply State.pageServed_fr
    | with_reducible apply State.setLeaf_fr
    | with_reducible apply State.wr_fr
    | (with_reducible refine Frame.ite ?_ ?_)
    | ((with_reducible apply Sub.within hfw); exact rfl)
    | ((with_reducible apply Sub.within hfb); exact rfl)
    | ((with_reducible apply Mixed.of); exact rfl)
    | (apply hfb.bit (i := 2) rfl)
    | (apply hfb.bit (i := 3) rfl)
    | (apply hfb.bit (i := 4) rfl)
    | (apply hfb.bit (i := 9) rfl)
    | (extract_lets)
    | (fail_if_no_progress (with_reducible refine k0 _ _ _ ?_))
    | split
    | (intro _ _ _)
    | (intro _ e; have _hk : Frame _ _ _ _ := e)
    | (intro _ e; cases e)
    | dsimp only
    | (dsimp +zetaDelta only)
    | (fail_if_no_progress ((with_reducible refine Frame.upd ?_ hfw ?_ rfl ⟨rfl, rfl, rfl⟩); rotate_left; exact rfl)))

theorem setHomeRun_fr {fw fb : Nat} {s0 : State} (c : Cmd) (n i : Nat) (s : State) (hK : Frame fw fb s0 s) (hfw : Sub 735642120 fw := by exact Sub.within hfw rfl) (hfb : Sub 540 fb := by exact Sub.within hfb rfl) : Frame fw fb s0 (setHomeRun c n i s) := by
  induction n generalizing i s with
  | zero => exact State.cmdMap_fr _ _ _ hK
  | succ n ih =>
    unfold setHomeRun
    exact Frame.ite (State.cmdMap_fr _ _ _ hK) (ih _ _ (setHomeOne_fr _ _ _ hK))

theorem setHomeOn_fr {fw fb : Nat} {s0 : State} (s : State) (c : Cmd) (i : Nat) (hK : Frame fw fb s0 s) (hfw : Sub 735644168 fw := by exact Sub.within hfw rfl) (hfb : Sub 540 fb := by exact Sub.within hfb rfl) : Frame fw fb s0 (setHomeOn s c i) := by
  unfold setHomeOn
  repeat' (first
    | with_reducible assumption
    | with_reducible apply State.doneWith_fr
    | with_reducible apply setHomeRun_fr
    | (with_reducible refine Frame.getD ?_ ?_)
    | (with_reducible refine Frame.ite ?_ ?_)
    | ((with_reducible apply Sub.within hfw); exact rfl)
    | ((with_reducible apply Sub.within hfb); exact rfl)
    | ((with_reducible apply Mixed.of); exact rfl)
    | (apply hfb.bit (i := 2) rfl)
    | (apply hfb.bit (i := 3) rfl)
    | (apply hfb.bit (i := 4) rfl)
    | (apply hfb.bit (i := 9) rfl)
    | (extract_lets)
    | split
    | (intro _ _ _)
    | (intro _ e; have _hk : Frame _ _ _ _ := e)
    | (intro _ e; cases e)
    | dsimp only
    | (dsimp +zetaDelta only))

theorem setHomeCmd_fr {fw fb : Nat} {s0 : State} (s : State) (c : Cmd) (hK : Frame fw fb s0 s) (hfw : Sub 735644168 fw := by exact Sub.within hfw rfl) (hfb : Sub 540 fb := by exact Sub.within hfb rfl) : Frame fw fb s0 (setHomeCmd s c) := by
  unfold setHomeCmd
  repeat' (first
    | with_reducible assumption
    | with_reducible apply setHomeOn_fr
    | (with_reducible refine Frame.ite ?_ ?_)
    | ((with_reducible apply Sub.within hfw); exact rfl)
    | ((with_reducible apply Sub.within hfb); exact rfl)
    | ((with_reducible apply Mixed.of); exact rfl)
    | (apply hfb.bit (i := 2) rfl)
    | (apply hfb.bit (i := 3) rfl)
    | (apply hfb.bit (i := 4) rfl)
    | (apply hfb.bit (i := 9) rfl)
    | (extract_lets)
    | split
    | (intro _ _ _)
    | (intro _ e; have _hk : Frame _ _ _ _ := e)
    | (intro _ e; cases e)
    | dsimp only
    | (dsimp +zetaDelta only))

theorem setHomeMore_fr {fw fb : Nat} {s0 : State} (s : State) (c : Cmd) (hK : Frame fw fb s0 s) (hfw : Sub 735644168 fw := by exact Sub.within hfw rfl) (hfb : Sub 540 fb := by exact Sub.within hfb rfl) : Frame fw fb s0 (setHomeMore s c) := by
  unfold setHomeMore
  repeat' (first
    | with_reducible assumption
    | with_reducible apply setHomeOn_fr
    | (with_reducible refine Frame.getD ?_ ?_)
    | (with_reducible refine Frame.ite ?_ ?_)
    | ((with_reducible apply Sub.within hfw); exact rfl)
    | ((with_reducible apply Sub.within hfb); exact rfl)
    | ((with_reducible apply Mixed.of); exact rfl)
    | (apply hfb.bit (i := 2) rfl)
    | (apply hfb.bit (i := 3) rfl)
    | (apply hfb.bit (i := 4) rfl)
    | (apply hfb.bit (i := 9) rfl)
    | (extract_lets)
    | split
    | (intro _ _ _)
    | (intro _ e; have _hk : Frame _ _ _ _ := e)
    | (intro _ e; cases e)
    | dsimp only
    | (dsimp +zetaDelta only))

theorem execSetHome_fr {fw fb : Nat} {s0 : State} (k : Nat) (s : State) (hK : Frame fw fb s0 s) (hfw : Sub 735644168 fw := by exact Sub.within hfw rfl) (hfb : Sub 540 fb := by exact Sub.within hfb rfl) : ∀ u, execSetHome k s = .next u → Frame fw fb s0 u := by
  unfold execSetHome
  repeat' (first
    | with_reducible assumption
    | with_reducible apply State.runCmd_fr
    | with_reducible apply setHomeCmd_fr
    | with_reducible apply setHomeMore_fr
    | (with_reducible refine Frame.ite ?_ ?_)
    | ((with_reducible apply Sub.within hfw); exact rfl)
    | ((with_reducible apply Sub.within hfb); exact rfl)
    | ((with_reducible apply Mixed.of); exact rfl)
    | (apply hfb.bit (i := 2) rfl)
    | (apply hfb.bit (i := 3) rfl)
    | (apply hfb.bit (i := 4) rfl)
    | (apply hfb.bit (i := 9) rfl)
    | (extract_lets)
    | split
    | (intro _ _ _)
    | (intro _ e; have _hk : Frame _ _ _ _ := e)
    | (intro _ e; cases e)
    | dsimp only
    | (dsimp +zetaDelta only))

theorem State.windowReg_fr {fw fb : Nat} {s0 : State} (s : State) (d w : Nat) (hK : Frame fw fb s0 s) (hfb : Sub 16 fb := by exact Sub.within hfb rfl) : Frame fw fb s0 (State.windowReg s d w) := by
  unfold State.windowReg
  repeat' (first
    | with_reducible assumption
    | with_reducible apply State.reg0_fr
    | with_reducible apply State.wr_fr
    | (with_reducible refine Frame.ite ?_ ?_)
    | ((with_reducible apply Sub.within hfw); exact rfl)
    | ((with_reducible apply Sub.within hfb); exact rfl)
    | ((with_reducible apply Mixed.of); exact rfl)
    | (apply hfb.bit (i := 4) rfl)
    | (dsimp only [State.wrs, State.regs0, List.foldl])
    | (extract_lets)
    | split
    | (intro _ _ _)
    | (intro _ e; have _hk : Frame _ _ _ _ := e)
    | (intro _ e; cases e)
    | dsimp only
    | (dsimp +zetaDelta only))

theorem State.makeRoom_fr {fw fb : Nat} {s0 : State} (s : State) (d : Nat) (hK : Frame fw fb s0 s) (hfw : Sub 2097154 fw := by exact Sub.within hfw rfl) : ∀ u, State.makeRoom s d = some u → Frame fw fb s0 u := by
  unfold State.makeRoom
  repeat' (first
    | with_reducible assumption
    | with_reducible apply State.took_fr
    | with_reducible apply State.want_fr
    | (with_reducible refine Frame.ite ?_ ?_)
    | ((with_reducible apply Sub.within hfw); exact rfl)
    | ((with_reducible apply Sub.within hfb); exact rfl)
    | ((with_reducible apply Mixed.of); exact rfl)
    | (extract_lets)
    | split
    | (intro _ _ _)
    | (intro _ e; have _hk : Frame _ _ _ _ := e)
    | (intro _ e; cases e)
    | dsimp only
    | (dsimp +zetaDelta only))

theorem State.makeRoom_fr_at {fw fb : Nat} {s0 : State} {u : State} {s : State} {d : Nat} (h_eq : State.makeRoom s d = some u) (hK : Frame fw fb s0 s) (hfw : Sub 2097154 fw := by exact Sub.within hfw rfl) : Frame fw fb s0 u := by
  have := State.makeRoom_fr s d hK
  exact this u h_eq

theorem pinPages_fr {fw fb : Nat} {s0 : State} (c : Cmd) (d : Nat) (n : Nat) (i : Nat) (s : State) (hK : Frame fw fb s0 s) (hfw : Sub 25231370 fw := by exact Sub.within hfw rfl) (hfb : Sub 16 fb := by exact Sub.within hfb rfl) : ∀ u, pinPages c d n i s = some u → Frame fw fb s0 u := by
  induction n generalizing i s with
  | zero =>
    unfold pinPages
    repeat' (first
      | with_reducible assumption
      | (with_reducible refine State.allocRun_fr _ _ _ _ _ _ ?_ ?_)
      | (with_reducible apply State.allocRun_fr_of; with_reducible assumption)
      | (with_reducible apply State.allocRun_fr_at; with_reducible assumption)
      | (with_reducible refine State.mapPage_fr _ _ _ _ _ ?_ ?_ ?_)
      | (with_reducible apply State.mapPage_fr_at; with_reducible assumption)
      | (with_reducible refine Frame.ite ?_ ?_)
      | ((with_reducible apply Sub.within hfw); exact rfl)
      | ((with_reducible apply Sub.within hfb); exact rfl)
      | ((with_reducible apply Mixed.of); exact rfl)
      | (apply hfb.bit (i := 4) rfl)
      | (extract_lets)
      | split
      | (intro _ _ _)
      | (intro _ e; have _hk : Frame _ _ _ _ := e)
      | (intro _ e; cases e)
      | dsimp only
      | (dsimp +zetaDelta only))
  | succ n ih =>
    unfold pinPages
    repeat' (first
      | with_reducible assumption
      | (with_reducible refine State.allocRun_fr _ _ _ _ _ _ ?_ ?_)
      | (with_reducible apply State.allocRun_fr_of; with_reducible assumption)
      | (with_reducible apply State.allocRun_fr_at; with_reducible assumption)
      | (with_reducible refine ih _ _ ?_)
      | (with_reducible refine State.mapPage_fr _ _ _ _ _ ?_ ?_ ?_)
      | (with_reducible apply State.mapPage_fr_at; with_reducible assumption)
      | (with_reducible refine Frame.ite ?_ ?_)
      | ((with_reducible apply Sub.within hfw); exact rfl)
      | ((with_reducible apply Sub.within hfb); exact rfl)
      | ((with_reducible apply Mixed.of); exact rfl)
      | (apply hfb.bit (i := 4) rfl)
      | (extract_lets)
      | split
      | (intro _ _ _)
      | (intro _ e; have _hk : Frame _ _ _ _ := e)
      | (intro _ e; cases e)
      | dsimp only
      | (dsimp +zetaDelta only))

theorem pinPages_fr_at {fw fb : Nat} {s0 u : State} {c : Cmd} {d : Nat} {n : Nat} {i : Nat} {s : State} (e : pinPages c d n i s = some u) (hK : Frame fw fb s0 s) (hfw : Sub 25231370 fw := by exact Sub.within hfw rfl) (hfb : Sub 16 fb := by exact Sub.within hfb rfl) : Frame fw fb s0 u := by
  have := pinPages_fr c d n i s hK
  exact this u e

theorem pinDies_fr {fw fb : Nat} {s0 : State} (c : Cmd) (l : List Nat) (s : State) (hK : Frame fw fb s0 s) (hfw : Sub 25624586 fw := by exact Sub.within hfw rfl) (hfb : Sub 16 fb := by exact Sub.within hfb rfl) : ∀ u, pinDies c l s = some u → Frame fw fb s0 u := by
  induction l generalizing s with
  | nil =>
    have k0 : ∀ (t : State) x0 x1, Frame fw fb s0 t → Frame fw fb s0 { t with windows := x0, ranges := x1 } := fun t x0 x1 ht => Frame.upd ht hfw rfl rfl ⟨rfl, rfl, rfl⟩
    unfold pinDies
    repeat' (first
      | with_reducible assumption
      | (with_reducible refine pinPages_fr _ _ ?_ ?_ ?_)
      | (with_reducible refine pinPages_fr _ _ _ _ _ ?_ ?_ ?_)
      | (with_reducible apply pinPages_fr_at; with_reducible assumption)
      | with_reducible apply State.windowReg_fr
      | (with_reducible refine Frame.ite ?_ ?_)
      | ((with_reducible apply Sub.within hfw); exact rfl)
      | ((with_reducible apply Sub.within hfb); exact rfl)
      | ((with_reducible apply Mixed.of); exact rfl)
      | (apply hfb.bit (i := 4) rfl)
      | (extract_lets)
      | (fail_if_no_progress (with_reducible refine k0 _ _ _ ?_))
      | split
      | (intro _ _ _)
      | (intro _ e; have _hk : Frame _ _ _ _ := e)
      | (intro _ e; cases e)
      | dsimp only
      | (dsimp +zetaDelta only)
      | (fail_if_no_progress ((with_reducible refine Frame.upd ?_ hfw ?_ rfl ⟨rfl, rfl, rfl⟩); rotate_left; exact rfl)))
  | cons x r ih =>
    have k0 : ∀ (t : State) x0 x1, Frame fw fb s0 t → Frame fw fb s0 { t with windows := x0, ranges := x1 } := fun t x0 x1 ht => Frame.upd ht hfw rfl rfl ⟨rfl, rfl, rfl⟩
    unfold pinDies
    repeat' (first
      | with_reducible assumption
      | (with_reducible refine pinPages_fr _ _ ?_ ?_ ?_)
      | (with_reducible refine ih _ ?_)
      | (with_reducible refine pinPages_fr _ _ _ _ _ ?_ ?_ ?_)
      | (with_reducible apply pinPages_fr_at; with_reducible assumption)
      | with_reducible apply State.windowReg_fr
      | (with_reducible refine Frame.ite ?_ ?_)
      | ((with_reducible apply Sub.within hfw); exact rfl)
      | ((with_reducible apply Sub.within hfb); exact rfl)
      | ((with_reducible apply Mixed.of); exact rfl)
      | (apply hfb.bit (i := 4) rfl)
      | (extract_lets)
      | (fail_if_no_progress (with_reducible refine k0 _ _ _ ?_))
      | split
      | (intro _ _ _)
      | (intro _ e; have _hk : Frame _ _ _ _ := e)
      | (intro _ e; cases e)
      | dsimp only
      | (dsimp +zetaDelta only)
      | (fail_if_no_progress ((with_reducible refine Frame.upd ?_ hfw ?_ rfl ⟨rfl, rfl, rfl⟩); rotate_left; exact rfl)))

theorem pinDies_fr_at {fw fb : Nat} {s0 u : State} {c : Cmd} {l : List Nat} {s : State} (e : pinDies c l s = some u) (hK : Frame fw fb s0 s) (hfw : Sub 25624586 fw := by exact Sub.within hfw rfl) (hfb : Sub 16 fb := by exact Sub.within hfb rfl) : Frame fw fb s0 u := by
  have := pinDies_fr c l s hK
  exact this u e

theorem pinCmd_fr {fw fb : Nat} {s0 : State} (s : State) (c : Cmd) (hK : Frame fw fb s0 s) (hfw : Sub 27724298 fw := by exact Sub.within hfw rfl) (hfb : Sub 16 fb := by exact Sub.within hfb rfl) : Frame fw fb s0 (pinCmd s c) := by
  unfold pinCmd
  repeat' (first
    | with_reducible assumption
    | with_reducible apply State.doneWith_fr
    | with_reducible apply State.failWith_fr
    | (with_reducible refine State.makeRoom_fr _ _ ?_ ?_)
    | (with_reducible apply State.makeRoom_fr_at; with_reducible assumption)
    | (with_reducible refine pinDies_fr _ ?_ ?_ ?_)
    | (with_reducible apply pinDies_fr_at; with_reducible assumption)
    | (with_reducible refine Frame.ite ?_ ?_)
    | ((with_reducible apply Sub.within hfw); exact rfl)
    | ((with_reducible apply Sub.within hfb); exact rfl)
    | ((with_reducible apply Mixed.of); exact rfl)
    | (apply hfb.bit (i := 4) rfl)
    | (extract_lets)
    | split
    | (intro _ _ _)
    | (intro _ e; have _hk : Frame _ _ _ _ := e)
    | (intro _ e; cases e)
    | dsimp only
    | (dsimp +zetaDelta only))

theorem execPinWindow_fr {fw fb : Nat} {s0 : State} (k : Nat) (s : State) (hK : Frame fw fb s0 s) (hfw : Sub 27724298 fw := by exact Sub.within hfw rfl) (hfb : Sub 16 fb := by exact Sub.within hfb rfl) : ∀ u, execPinWindow k s = .next u → Frame fw fb s0 u := by
  unfold execPinWindow
  repeat' (first
    | with_reducible assumption
    | with_reducible apply State.runCmd_fr
    | with_reducible apply pinCmd_fr
    | (with_reducible refine Frame.ite ?_ ?_)
    | ((with_reducible apply Sub.within hfw); exact rfl)
    | ((with_reducible apply Sub.within hfb); exact rfl)
    | ((with_reducible apply Mixed.of); exact rfl)
    | (apply hfb.bit (i := 4) rfl)
    | (extract_lets)
    | split
    | (intro _ _ _)
    | (intro _ e; have _hk : Frame _ _ _ _ := e)
    | (intro _ e; cases e)
    | dsimp only
    | (dsimp +zetaDelta only))

theorem State.unpinOne_fr {fw fb : Nat} {s0 : State} (s : State) (w : Window) (hK : Frame fw fb s0 s) (hfw : Sub 562495496 fw := by exact Sub.within hfw rfl) (hfb : Sub 528 fb := by exact Sub.within hfb rfl) : Frame fw fb s0 (State.unpinOne s w) := by
  have k0 : ∀ (t : State) x0 x1, Frame fw fb s0 t → Frame fw fb s0 { t with ranges := x0, windows := x1 } := fun t x0 x1 ht => Frame.upd ht hfw rfl rfl ⟨rfl, rfl, rfl⟩
  unfold State.unpinOne
  repeat' (first
    | with_reducible assumption
    | with_reducible apply State.windowReg_fr
    | with_reducible apply unmapOne_fr
    | (with_reducible refine Frame.foldl ?_ ?_)
    | (with_reducible refine Frame.foldr ?_ ?_)
    | (with_reducible refine Frame.ite ?_ ?_)
    | ((with_reducible apply Sub.within hfw); exact rfl)
    | ((with_reducible apply Sub.within hfb); exact rfl)
    | ((with_reducible apply Mixed.of); exact rfl)
    | (apply hfb.bit (i := 4) rfl)
    | (apply hfb.bit (i := 9) rfl)
    | (extract_lets)
    | (fail_if_no_progress (with_reducible refine k0 _ _ _ ?_))
    | split
    | (intro _ _ _)
    | (intro _ e; have _hk : Frame _ _ _ _ := e)
    | (intro _ e; cases e)
    | dsimp only
    | (dsimp +zetaDelta only)
    | (fail_if_no_progress ((with_reducible refine Frame.upd ?_ hfw ?_ rfl ⟨rfl, rfl, rfl⟩); rotate_left; exact rfl)))

theorem unpinCmd_fr {fw fb : Nat} {s0 : State} (s : State) (c : Cmd) (hK : Frame fw fb s0 s) (hfw : Sub 562498056 fw := by exact Sub.within hfw rfl) (hfb : Sub 528 fb := by exact Sub.within hfb rfl) : Frame fw fb s0 (unpinCmd s c) := by
  unfold unpinCmd
  repeat' (first
    | with_reducible assumption
    | with_reducible apply State.doneWith_fr
    | with_reducible apply State.unpinOne_fr
    | (with_reducible refine Frame.foldl ?_ ?_)
    | (with_reducible refine Frame.foldr ?_ ?_)
    | (with_reducible refine Frame.ite ?_ ?_)
    | ((with_reducible apply Sub.within hfw); exact rfl)
    | ((with_reducible apply Sub.within hfb); exact rfl)
    | ((with_reducible apply Mixed.of); exact rfl)
    | (apply hfb.bit (i := 4) rfl)
    | (apply hfb.bit (i := 9) rfl)
    | (extract_lets)
    | split
    | (intro _ _ _)
    | (intro _ e; have _hk : Frame _ _ _ _ := e)
    | (intro _ e; cases e)
    | dsimp only
    | (dsimp +zetaDelta only))

theorem execUnpin_fr {fw fb : Nat} {s0 : State} (k : Nat) (s : State) (hK : Frame fw fb s0 s) (hfw : Sub 562498056 fw := by exact Sub.within hfw rfl) (hfb : Sub 528 fb := by exact Sub.within hfb rfl) : ∀ u, execUnpin k s = .next u → Frame fw fb s0 u := by
  unfold execUnpin
  repeat' (first
    | with_reducible assumption
    | with_reducible apply State.runCmd_fr
    | with_reducible apply unpinCmd_fr
    | (with_reducible refine Frame.ite ?_ ?_)
    | ((with_reducible apply Sub.within hfw); exact rfl)
    | ((with_reducible apply Sub.within hfb); exact rfl)
    | ((with_reducible apply Mixed.of); exact rfl)
    | (apply hfb.bit (i := 4) rfl)
    | (apply hfb.bit (i := 9) rfl)
    | (extract_lets)
    | split
    | (intro _ _ _)
    | (intro _ e; have _hk : Frame _ _ _ _ := e)
    | (intro _ e; cases e)
    | dsimp only
    | (dsimp +zetaDelta only))

end Sys2Proof.Machine
end

