-- ==== Sys2Proof/Laws/Frame/HandOps.lean ====
section
/-! SUPPORT. What the operations of Machine/HandOps.lean leave as it was (`Frame`): one lemma each. -/

set_option linter.unreachableTactic false
set_option linter.unusedTactic false

namespace Sys2Proof.Machine

set_option Elab.async false

open Sys2Proof

theorem State.setHand_fr {fw fb : Nat} {s0 : State} (s : State) (n : Nat) (x : Hand) (hK : Frame fw fb s0 s) (hfw : Sub 549755813888 fw := by exact Sub.within hfw rfl) : Frame fw fb s0 (State.setHand s n x) := by
  have k0 : ∀ (t : State) x0, Frame fw fb s0 t → Frame fw fb s0 { t with hands := x0 } := fun t x0 ht => Frame.upd ht hfw rfl rfl ⟨rfl, rfl, rfl⟩
  unfold State.setHand
  repeat' (first
    | with_reducible assumption
    | (with_reducible refine Frame.getD ?_ ?_)
    | (with_reducible refine Frame.ite ?_ ?_)
    | ((with_reducible apply Sub.within hfw); exact rfl)
    | ((with_reducible apply Sub.within hfb); exact rfl)
    | ((with_reducible apply Mixed.of); exact rfl)
    | (extract_lets)
    | (fail_if_no_progress (with_reducible refine k0 _ _ ?_))
    | split
    | (intro _ _ _)
    | (intro _ e; have _hk : Frame _ _ _ _ := e)
    | (intro _ e; cases e)
    | dsimp only
    | (dsimp +zetaDelta only)
    | (fail_if_no_progress ((with_reducible refine Frame.upd ?_ hfw ?_ rfl ⟨rfl, rfl, rfl⟩); rotate_left; exact rfl)))

theorem State.ringTaken_fr {fw fb : Nat} {s0 : State} (s : State) (n place : Nat) (hK : Frame fw fb s0 s) (hfw : Sub 9444732965739290427392 fw := by exact Sub.within hfw rfl) : Frame fw fb s0 (State.ringTaken s n place) := by
  have k0 : ∀ (t : State) x0, Frame fw fb s0 t → Frame fw fb s0 { t with ringLanded := x0 } := fun t x0 ht => Frame.upd ht hfw rfl rfl ⟨rfl, rfl, rfl⟩
  unfold State.ringTaken
  repeat' (first
    | with_reducible assumption
    | (with_reducible refine Frame.ite ?_ ?_)
    | ((with_reducible apply Sub.within hfw); exact rfl)
    | ((with_reducible apply Sub.within hfb); exact rfl)
    | ((with_reducible apply Mixed.of); exact rfl)
    | (extract_lets)
    | (fail_if_no_progress (with_reducible refine k0 _ _ ?_))
    | split
    | (intro _ _ _)
    | (intro _ e; have _hk : Frame _ _ _ _ := e)
    | (intro _ e; cases e)
    | dsimp only
    | (dsimp +zetaDelta only)
    | (fail_if_no_progress ((with_reducible refine Frame.upd ?_ hfw ?_ rfl ⟨rfl, rfl, rfl⟩); rotate_left; exact rfl)))

theorem State.ringNote_fr {fw fb : Nat} {s0 : State} (s : State) (off bytes : Nat) (hK : Frame fw fb s0 s) (hfw : Sub 9444732965739290427392 fw := by exact Sub.within hfw rfl) : Frame fw fb s0 (State.ringNote s off bytes) := by
  have k0 : ∀ (t : State) x0, Frame fw fb s0 t → Frame fw fb s0 { t with ringLanded := x0 } := fun t x0 ht => Frame.upd ht hfw rfl rfl ⟨rfl, rfl, rfl⟩
  unfold State.ringNote
  repeat' (first
    | with_reducible assumption
    | (with_reducible refine Frame.getD ?_ ?_)
    | (with_reducible refine Frame.ite ?_ ?_)
    | ((with_reducible apply Sub.within hfw); exact rfl)
    | ((with_reducible apply Sub.within hfb); exact rfl)
    | ((with_reducible apply Mixed.of); exact rfl)
    | (extract_lets)
    | (fail_if_no_progress (with_reducible refine k0 _ _ ?_))
    | split
    | (intro _ _ _)
    | (intro _ e; have _hk : Frame _ _ _ _ := e)
    | (intro _ e; cases e)
    | dsimp only
    | (dsimp +zetaDelta only)
    | (fail_if_no_progress ((with_reducible refine Frame.upd ?_ hfw ?_ rfl ⟨rfl, rfl, rfl⟩); rotate_left; exact rfl)))

theorem State.poolRegs_fr {fw fb : Nat} {s0 : State} (s : State) (hK : Frame fw fb s0 s) (hfb : Sub 256 fb := by exact Sub.within hfb rfl) : Frame fw fb s0 (State.poolRegs s) := by
  unfold State.poolRegs
  repeat' (first
    | with_reducible assumption
    | with_reducible apply State.wr_fr
    | (with_reducible refine Frame.ite ?_ ?_)
    | ((with_reducible apply Sub.within hfw); exact rfl)
    | ((with_reducible apply Sub.within hfb); exact rfl)
    | ((with_reducible apply Mixed.of); exact rfl)
    | (apply hfb.bit (i := 8) rfl)
    | (dsimp only [State.wrs, State.regs0, List.foldl])
    | (extract_lets)
    | split
    | (intro _ _ _)
    | (intro _ e; have _hk : Frame _ _ _ _ := e)
    | (intro _ e; cases e)
    | dsimp only
    | (dsimp +zetaDelta only))

theorem State.slotRegsUsed_fr {fw fb : Nat} {s0 : State} (s : State) (hK : Frame fw fb s0 s) (hfb : Sub 256 fb := by exact Sub.within hfb rfl) : Frame fw fb s0 (State.slotRegsUsed s) := by
  unfold State.slotRegsUsed
  repeat' (first
    | with_reducible assumption
    | with_reducible apply State.wr_fr
    | (with_reducible refine Frame.ite ?_ ?_)
    | ((with_reducible apply Sub.within hfw); exact rfl)
    | ((with_reducible apply Sub.within hfb); exact rfl)
    | ((with_reducible apply Mixed.of); exact rfl)
    | (apply hfb.bit (i := 8) rfl)
    | (dsimp only [State.wrs, State.regs0, List.foldl])
    | (extract_lets)
    | split
    | (intro _ _ _)
    | (intro _ e; have _hk : Frame _ _ _ _ := e)
    | (intro _ e; cases e)
    | dsimp only
    | (dsimp +zetaDelta only))

theorem State.kittyRegs_fr {fw fb : Nat} {s0 : State} (s : State) (hK : Frame fw fb s0 s) (hfb : Sub 256 fb := by exact Sub.within hfb rfl) : Frame fw fb s0 (State.kittyRegs s) := by
  unfold State.kittyRegs
  repeat' (first
    | with_reducible assumption
    | with_reducible apply State.slotRegsUsed_fr
    | with_reducible apply State.wr_fr
    | (with_reducible refine Frame.ite ?_ ?_)
    | ((with_reducible apply Sub.within hfw); exact rfl)
    | ((with_reducible apply Sub.within hfb); exact rfl)
    | ((with_reducible apply Mixed.of); exact rfl)
    | (apply hfb.bit (i := 8) rfl)
    | (dsimp only [State.wrs, State.regs0, List.foldl])
    | (extract_lets)
    | split
    | (intro _ _ _)
    | (intro _ e; have _hk : Frame _ _ _ _ := e)
    | (intro _ e; cases e)
    | dsimp only
    | (dsimp +zetaDelta only))

theorem State.setKitty_fr {fw fb : Nat} {s0 : State} (s : State) (e : Nat) (x : Kitty) (hK : Frame fw fb s0 s) (hfw : Sub 1099511627776 fw := by exact Sub.within hfw rfl) (hfb : Sub 256 fb := by exact Sub.within hfb rfl) : Frame fw fb s0 (State.setKitty s e x) := by
  have k0 : ∀ (t : State) x0, Frame fw fb s0 t → Frame fw fb s0 { t with kitty := x0 } := fun t x0 ht => Frame.upd ht hfw rfl rfl ⟨rfl, rfl, rfl⟩
  unfold State.setKitty
  repeat' (first
    | with_reducible assumption
    | with_reducible apply State.kittyRegs_fr
    | (with_reducible refine Frame.ite ?_ ?_)
    | ((with_reducible apply Sub.within hfw); exact rfl)
    | ((with_reducible apply Sub.within hfb); exact rfl)
    | ((with_reducible apply Mixed.of); exact rfl)
    | (apply hfb.bit (i := 8) rfl)
    | (extract_lets)
    | (fail_if_no_progress (with_reducible refine k0 _ _ ?_))
    | split
    | (intro _ _ _)
    | (intro _ e; have _hk : Frame _ _ _ _ := e)
    | (intro _ e; cases e)
    | dsimp only
    | (dsimp +zetaDelta only)
    | (fail_if_no_progress ((with_reducible refine Frame.upd ?_ hfw ?_ rfl ⟨rfl, rfl, rfl⟩); rotate_left; exact rfl)))

theorem State.setSpecWord_fr {fw fb : Nat} {s0 : State} (s : State) (n w : Nat) (hK : Frame fw fb s0 s) (hfb : Sub 256 fb := by exact Sub.within hfb rfl) : Frame fw fb s0 (State.setSpecWord s n w) := by
  unfold State.setSpecWord
  repeat' (first
    | with_reducible assumption
    | with_reducible apply State.wr_fr
    | (with_reducible refine Frame.ite ?_ ?_)
    | ((with_reducible apply Sub.within hfw); exact rfl)
    | ((with_reducible apply Sub.within hfb); exact rfl)
    | ((with_reducible apply Mixed.of); exact rfl)
    | (apply hfb.bit (i := 8) rfl)
    | (dsimp only [State.wrs, State.regs0, List.foldl])
    | (extract_lets)
    | split
    | (intro _ _ _)
    | (intro _ e; have _hk : Frame _ _ _ _ := e)
    | (intro _ e; cases e)
    | dsimp only
    | (dsimp +zetaDelta only))

theorem State.setHandWord_fr {fw fb : Nat} {s0 : State} (s : State) (n w : Nat) (hK : Frame fw fb s0 s) (hfb : Sub 256 fb := by exact Sub.within hfb rfl) : Frame fw fb s0 (State.setHandWord s n w) := by
  unfold State.setHandWord
  repeat' (first
    | with_reducible assumption
    | with_reducible apply State.wr_fr
    | (with_reducible refine Frame.ite ?_ ?_)
    | ((with_reducible apply Sub.within hfw); exact rfl)
    | ((with_reducible apply Sub.within hfb); exact rfl)
    | ((with_reducible apply Mixed.of); exact rfl)
    | (apply hfb.bit (i := 8) rfl)
    | (dsimp only [State.wrs, State.regs0, List.foldl])
    | (extract_lets)
    | split
    | (intro _ _ _)
    | (intro _ e; have _hk : Frame _ _ _ _ := e)
    | (intro _ e; cases e)
    | dsimp only
    | (dsimp +zetaDelta only))

theorem State.useRegs_fr {fw fb : Nat} {s0 : State} (s : State) (hK : Frame fw fb s0 s) (hfb : Sub 256 fb := by exact Sub.within hfb rfl) : Frame fw fb s0 (State.useRegs s) := by
  unfold State.useRegs
  repeat' (first
    | with_reducible assumption
    | with_reducible apply State.wr_fr
    | (with_reducible refine Frame.ite ?_ ?_)
    | ((with_reducible apply Sub.within hfw); exact rfl)
    | ((with_reducible apply Sub.within hfb); exact rfl)
    | ((with_reducible apply Mixed.of); exact rfl)
    | (apply hfb.bit (i := 8) rfl)
    | (dsimp only [State.wrs, State.regs0, List.foldl])
    | (extract_lets)
    | split
    | (intro _ _ _)
    | (intro _ e; have _hk : Frame _ _ _ _ := e)
    | (intro _ e; cases e)
    | dsimp only
    | (dsimp +zetaDelta only))

theorem State.serveRegs_fr {fw fb : Nat} {s0 : State} (s : State) (hK : Frame fw fb s0 s) (hfb : Sub 256 fb := by exact Sub.within hfb rfl) : Frame fw fb s0 (State.serveRegs s) := by
  unfold State.serveRegs
  repeat' (first
    | with_reducible assumption
    | with_reducible apply State.kittyRegs_fr
    | with_reducible apply State.poolRegs_fr
    | with_reducible apply State.useRegs_fr
    | (with_reducible refine Frame.ite ?_ ?_)
    | ((with_reducible apply Sub.within hfw); exact rfl)
    | ((with_reducible apply Sub.within hfb); exact rfl)
    | ((with_reducible apply Mixed.of); exact rfl)
    | (apply hfb.bit (i := 8) rfl)
    | (extract_lets)
    | split
    | (intro _ _ _)
    | (intro _ e; have _hk : Frame _ _ _ _ := e)
    | (intro _ e; cases e)
    | dsimp only
    | (dsimp +zetaDelta only))

theorem State.toHandState_fr {fw fb : Nat} {s0 : State} (s : State) (n st : Nat) (hK : Frame fw fb s0 s) (hfb : Sub 256 fb := by exact Sub.within hfb rfl) : Frame fw fb s0 (State.toHandState s n st) := by
  unfold State.toHandState
  repeat' (first
    | with_reducible assumption
    | with_reducible apply State.serveRegs_fr
    | with_reducible apply State.wr_fr
    | (with_reducible refine Frame.ite ?_ ?_)
    | ((with_reducible apply Sub.within hfw); exact rfl)
    | ((with_reducible apply Sub.within hfb); exact rfl)
    | ((with_reducible apply Mixed.of); exact rfl)
    | (apply hfb.bit (i := 8) rfl)
    | (extract_lets)
    | split
    | (intro _ _ _)
    | (intro _ e; have _hk : Frame _ _ _ _ := e)
    | (intro _ e; cases e)
    | dsimp only
    | (dsimp +zetaDelta only))

theorem State.runHand_fr {fw fb : Nat} {s0 : State} (s : State) (k op : Nat) (sel : Cmd → Bool) (check late : State → Cmd → Option (Nat × Nat))
    (eff : State → Cmd → State) (he : ∀ t c, Frame fw fb s0 t → Frame fw fb s0 (eff t c)) (hK : Frame fw fb s0 s) (hfw : Sub 2560 fw := by exact Sub.within hfw rfl) :
    Frame fw fb s0 (s.runHand k op sel check late eff) := by
  unfold State.runHand
  refine State.runCmd_fr _ _ _ _ _ _ ?_ hK
  intro t c ht
  refine Frame.ite ?_ ht
  split
  · exact State.failWith_fr _ _ _ _ ht
  · exact he _ _ ht

theorem State.cachePageFree_fr {fw fb : Nat} {s0 : State} (s : State) (c va : Nat) (hK : Frame fw fb s0 s) (hfw : Sub 562102280 fw := by exact Sub.within hfw rfl) (hfb : Sub 528 fb := by exact Sub.within hfb rfl) : Frame fw fb s0 (State.cachePageFree s c va) := by
  unfold State.cachePageFree
  repeat' (first
    | with_reducible assumption
    | with_reducible apply unmapOne_fr
    | (with_reducible refine Frame.ite ?_ ?_)
    | ((with_reducible apply Sub.within hfw); exact rfl)
    | ((with_reducible apply Sub.within hfb); exact rfl)
    | ((with_reducible apply Mixed.of); exact rfl)
    | (apply hfb.bit (i := 4) rfl)
    | (apply hfb.bit (i := 9) rfl)
    | (extract_lets)
    | split
    | (intro _ _ _)
    | (intro _ e; have _hk : Frame _ _ _ _ := e)
    | (intro _ e; cases e)
    | dsimp only
    | (dsimp +zetaDelta only))

theorem State.cacheFree_fr {fw fb : Nat} {s0 : State} (s : State) (c n : Nat) (x : Hand) (hK : Frame fw fb s0 s) (hfw : Sub 562233352 fw := by exact Sub.within hfw rfl) (hfb : Sub 528 fb := by exact Sub.within hfb rfl) : Frame fw fb s0 (State.cacheFree s c n x) := by
  have k0 : ∀ (t : State) x0, Frame fw fb s0 t → Frame fw fb s0 { t with ranges := x0 } := fun t x0 ht => Frame.upd ht hfw rfl rfl ⟨rfl, rfl, rfl⟩
  unfold State.cacheFree
  repeat' (first
    | with_reducible assumption
    | with_reducible apply State.cachePageFree_fr
    | (with_reducible refine Frame.foldl ?_ ?_)
    | (with_reducible refine Frame.foldr ?_ ?_)
    | (with_reducible refine Frame.ite ?_ ?_)
    | ((with_reducible apply Sub.within hfw); exact rfl)
    | ((with_reducible apply Sub.within hfb); exact rfl)
    | ((with_reducible apply Mixed.of); exact rfl)
    | (apply hfb.bit (i := 4) rfl)
    | (apply hfb.bit (i := 9) rfl)
    | (extract_lets)
    | (fail_if_no_progress (with_reducible refine k0 _ _ ?_))
    | split
    | (intro _ _ _)
    | (intro _ e; have _hk : Frame _ _ _ _ := e)
    | (intro _ e; cases e)
    | dsimp only
    | (dsimp +zetaDelta only)
    | (fail_if_no_progress ((with_reducible refine Frame.upd ?_ hfw ?_ rfl ⟨rfl, rfl, rfl⟩); rotate_left; exact rfl)))

theorem State.handFree_fr {fw fb : Nat} {s0 : State} (s : State) (n : Nat) (hK : Frame fw fb s0 s) (hfw : Sub 9444732966289046241280 fw := by exact Sub.within hfw rfl) (hfb : Sub 256 fb := by exact Sub.within hfb rfl) : Frame fw fb s0 (State.handFree s n) := by
  have k0 : ∀ (t : State) x0 x1, Frame fw fb s0 t → Frame fw fb s0 { t with hands := x0, ringLanded := x1 } := fun t x0 x1 ht => Frame.upd ht hfw rfl rfl ⟨rfl, rfl, rfl⟩
  unfold State.handFree
  repeat' (first
    | with_reducible assumption
    | with_reducible apply State.serveRegs_fr
    | with_reducible apply State.setHandWord_fr
    | with_reducible apply State.setSpecWord_fr
    | (with_reducible refine Frame.ite ?_ ?_)
    | ((with_reducible apply Sub.within hfw); exact rfl)
    | ((with_reducible apply Sub.within hfb); exact rfl)
    | ((with_reducible apply Mixed.of); exact rfl)
    | (apply hfb.bit (i := 8) rfl)
    | (extract_lets)
    | (fail_if_no_progress (with_reducible refine k0 _ _ _ ?_))
    | split
    | (intro _ _ _)
    | (intro _ e; have _hk : Frame _ _ _ _ := e)
    | (intro _ e; cases e)
    | dsimp only
    | (dsimp +zetaDelta only)
    | (fail_if_no_progress ((with_reducible refine Frame.upd ?_ hfw ?_ rfl ⟨rfl, rfl, rfl⟩); rotate_left; exact rfl)))

theorem State.kittyEmpty_fr {fw fb : Nat} {s0 : State} (s : State) (e : Nat) (hK : Frame fw fb s0 s) (hfw : Sub 1099511627776 fw := by exact Sub.within hfw rfl) (hfb : Sub 256 fb := by exact Sub.within hfb rfl) : Frame fw fb s0 (State.kittyEmpty s e) := by
  unfold State.kittyEmpty
  repeat' (first
    | with_reducible assumption
    | with_reducible apply State.serveRegs_fr
    | with_reducible apply State.setKitty_fr
    | (with_reducible refine Frame.ite ?_ ?_)
    | ((with_reducible apply Sub.within hfw); exact rfl)
    | ((with_reducible apply Sub.within hfb); exact rfl)
    | ((with_reducible apply Mixed.of); exact rfl)
    | (apply hfb.bit (i := 8) rfl)
    | (extract_lets)
    | split
    | (intro _ _ _)
    | (intro _ e; have _hk : Frame _ _ _ _ := e)
    | (intro _ e; cases e)
    | dsimp only
    | (dsimp +zetaDelta only))

theorem State.kittyFree_fr {fw fb : Nat} {s0 : State} (s : State) (e : Nat) (hK : Frame fw fb s0 s) (hfw : Sub 1100073861128 fw := by exact Sub.within hfw rfl) (hfb : Sub 784 fb := by exact Sub.within hfb rfl) : Frame fw fb s0 (State.kittyFree s e) := by
  unfold State.kittyFree
  repeat' (first
    | with_reducible assumption
    | with_reducible apply State.cacheFree_fr
    | with_reducible apply State.kittyEmpty_fr
    | (with_reducible refine Frame.ite ?_ ?_)
    | ((with_reducible apply Sub.within hfw); exact rfl)
    | ((with_reducible apply Sub.within hfb); exact rfl)
    | ((with_reducible apply Mixed.of); exact rfl)
    | (apply hfb.bit (i := 4) rfl)
    | (apply hfb.bit (i := 8) rfl)
    | (apply hfb.bit (i := 9) rfl)
    | (extract_lets)
    | split
    | (intro _ _ _)
    | (intro _ e; have _hk : Frame _ _ _ _ := e)
    | (intro _ e; cases e)
    | dsimp only
    | (dsimp +zetaDelta only))

theorem State.kittyLost_fr {fw fb : Nat} {s0 : State} (s : State) (e : Nat) (hK : Frame fw fb s0 s) (hfw : Sub 1100073861128 fw := by exact Sub.within hfw rfl) (hfb : Sub 784 fb := by exact Sub.within hfb rfl) : Frame fw fb s0 (State.kittyLost s e) := by
  unfold State.kittyLost
  repeat' (first
    | with_reducible assumption
    | with_reducible apply State.bump_fr
    | with_reducible apply State.cacheFree_fr
    | with_reducible apply State.serveRegs_fr
    | with_reducible apply State.setKitty_fr
    | (with_reducible refine Frame.ite ?_ ?_)
    | ((with_reducible apply Sub.within hfw); exact rfl)
    | ((with_reducible apply Sub.within hfb); exact rfl)
    | ((with_reducible apply Mixed.of); exact rfl)
    | (apply hfb.bit (i := 4) rfl)
    | (apply hfb.bit (i := 8) rfl)
    | (apply hfb.bit (i := 9) rfl)
    | (extract_lets)
    | split
    | (intro _ _ _)
    | (intro _ e; have _hk : Frame _ _ _ _ := e)
    | (intro _ e; cases e)
    | dsimp only
    | (dsimp +zetaDelta only))

theorem State.lostReply_fr {fw fb : Nat} {s0 : State} (s : State) (x : Hand) (aborted : Bool) (hK : Frame fw fb s0 s) (hfw : Sub 2560 fw := by exact Sub.within hfw rfl) : Frame fw fb s0 (State.lostReply s x aborted) := by
  unfold State.lostReply
  repeat' (first
    | with_reducible assumption
    | with_reducible apply State.finish_fr
    | (with_reducible refine Frame.ite ?_ ?_)
    | ((with_reducible apply Sub.within hfw); exact rfl)
    | ((with_reducible apply Sub.within hfb); exact rfl)
    | ((with_reducible apply Mixed.of); exact rfl)
    | (extract_lets)
    | split
    | (intro _ _ _)
    | (intro _ e; have _hk : Frame _ _ _ _ := e)
    | (intro _ e; cases e)
    | dsimp only
    | (dsimp +zetaDelta only))

theorem State.lostCache_fr {fw fb : Nat} {s0 : State} (s : State) (n : Nat) (x : Hand) (back : Bool) (hK : Frame fw fb s0 s) (hfw : Sub 564330504 fw := by exact Sub.within hfw rfl) (hfb : Sub 528 fb := by exact Sub.within hfb rfl) : Frame fw fb s0 (State.lostCache s n x back) := by
  have k0 : ∀ (t : State) x0, Frame fw fb s0 t → Frame fw fb s0 { t with wants := x0 } := fun t x0 ht => Frame.upd ht hfw rfl rfl ⟨rfl, rfl, rfl⟩
  unfold State.lostCache
  repeat' (first
    | with_reducible assumption
    | with_reducible apply State.cacheFree_fr
    | with_reducible apply State.cachePageFree_fr
    | (with_reducible refine Frame.foldl ?_ ?_)
    | (with_reducible refine Frame.foldr ?_ ?_)
    | (with_reducible refine Frame.ite ?_ ?_)
    | ((with_reducible apply Sub.within hfw); exact rfl)
    | ((with_reducible apply Sub.within hfb); exact rfl)
    | ((with_reducible apply Mixed.of); exact rfl)
    | (apply hfb.bit (i := 4) rfl)
    | (apply hfb.bit (i := 9) rfl)
    | (extract_lets)
    | (fail_if_no_progress (with_reducible refine k0 _ _ ?_))
    | split
    | (intro _ _ _)
    | (intro _ e; have _hk : Frame _ _ _ _ := e)
    | (intro _ e; cases e)
    | dsimp only
    | (dsimp +zetaDelta only)
    | (fail_if_no_progress ((with_reducible refine Frame.upd ?_ hfw ?_ rfl ⟨rfl, rfl, rfl⟩); rotate_left; exact rfl)))

theorem State.handLost_fr {fw fb : Nat} {s0 : State} (s : State) (n : Nat) (aborted : Bool) (hK : Frame fw fb s0 s) (hfw : Sub 1649831774728 fw := by exact Sub.within hfw rfl) (hfb : Sub 784 fb := by exact Sub.within hfb rfl) : Frame fw fb s0 (State.handLost s n aborted) := by
  unfold State.handLost
  repeat' (first
    | with_reducible assumption
    | with_reducible apply State.bump_fr
    | with_reducible apply State.kittyEmpty_fr
    | with_reducible apply State.kittyLost_fr
    | with_reducible apply State.lostCache_fr
    | with_reducible apply State.lostReply_fr
    | with_reducible apply State.setHand_fr
    | with_reducible apply State.toHandState_fr
    | with_reducible apply State.wr_fr
    | (with_reducible refine Frame.ite ?_ ?_)
    | ((with_reducible apply Sub.within hfw); exact rfl)
    | ((with_reducible apply Sub.within hfb); exact rfl)
    | ((with_reducible apply Mixed.of); exact rfl)
    | (apply hfb.bit (i := 4) rfl)
    | (apply hfb.bit (i := 8) rfl)
    | (apply hfb.bit (i := 9) rfl)
    | (dsimp only [State.wrs, State.regs0, List.foldl])
    | (extract_lets)
    | split
    | (intro _ _ _)
    | (intro _ e; have _hk : Frame _ _ _ _ := e)
    | (intro _ e; cases e)
    | dsimp only
    | (dsimp +zetaDelta only))

theorem State.slotsOff_fr {fw fb : Nat} {s0 : State} (s : State) (c va : Nat) (hK : Frame fw fb s0 s) (hfw : Sub 1649267441664 fw := by exact Sub.within hfw rfl) (hfb : Sub 256 fb := by exact Sub.within hfb rfl) : Frame fw fb s0 (State.slotsOff s c va) := by
  have k0 : ∀ (t : State) x0, Frame fw fb s0 t → Frame fw fb s0 { t with kitty := x0 } := fun t x0 ht => Frame.upd ht hfw rfl rfl ⟨rfl, rfl, rfl⟩
  unfold State.slotsOff
  repeat' (first
    | with_reducible assumption
    | with_reducible apply State.serveRegs_fr
    | with_reducible apply State.setHand_fr
    | (with_reducible refine Frame.foldl ?_ ?_)
    | (with_reducible refine Frame.foldr ?_ ?_)
    | (with_reducible refine Frame.ite ?_ ?_)
    | ((with_reducible apply Sub.within hfw); exact rfl)
    | ((with_reducible apply Sub.within hfb); exact rfl)
    | ((with_reducible apply Mixed.of); exact rfl)
    | (apply hfb.bit (i := 8) rfl)
    | (extract_lets)
    | (fail_if_no_progress (with_reducible refine k0 _ _ ?_))
    | split
    | (intro _ _ _)
    | (intro _ e; have _hk : Frame _ _ _ _ := e)
    | (intro _ e; cases e)
    | dsimp only
    | (dsimp +zetaDelta only)
    | (fail_if_no_progress ((with_reducible refine Frame.upd ?_ hfw ?_ rfl ⟨rfl, rfl, rfl⟩); rotate_left; exact rfl)))

theorem State.handMoveEnded_fr {fw fb : Nat} {s0 : State} (s : State) (m : Move) (hK : Frame fw fb s0 s) (hfw : Sub 1649829543944 fw := by exact Sub.within hfw rfl) (hfb : Sub 784 fb := by exact Sub.within hfb rfl) : Frame fw fb s0 (State.handMoveEnded s m) := by
  unfold State.handMoveEnded
  repeat' (first
    | with_reducible assumption
    | with_reducible apply State.cachePageFree_fr
    | with_reducible apply State.serveRegs_fr
    | with_reducible apply State.setHand_fr
    | with_reducible apply State.slotsOff_fr
    | (with_reducible refine Frame.ite ?_ ?_)
    | ((with_reducible apply Sub.within hfw); exact rfl)
    | ((with_reducible apply Sub.within hfb); exact rfl)
    | ((with_reducible apply Mixed.of); exact rfl)
    | (apply hfb.bit (i := 4) rfl)
    | (apply hfb.bit (i := 8) rfl)
    | (apply hfb.bit (i := 9) rfl)
    | (extract_lets)
    | split
    | (intro _ _ _)
    | (intro _ e; have _hk : Frame _ _ _ _ := e)
    | (intro _ e; cases e)
    | dsimp only
    | (dsimp +zetaDelta only))

theorem State.entryFree_fr {fw fb : Nat} {s0 : State} (s : State) (e : Nat) (hK : Frame fw fb s0 s) (hfw : Sub 4398608744456 fw := by exact Sub.within hfw rfl) (hfb : Sub 784 fb := by exact Sub.within hfb rfl) : Frame fw fb s0 (State.entryFree s e) := by
  have k0 : ∀ (t : State) x0 x1, Frame fw fb s0 t → Frame fw fb s0 { t with ranges := x0, entries := x1 } := fun t x0 x1 ht => Frame.upd ht hfw rfl rfl ⟨rfl, rfl, rfl⟩
  unfold State.entryFree
  repeat' (first
    | with_reducible assumption
    | with_reducible apply State.cachePageFree_fr
    | with_reducible apply State.serveRegs_fr
    | (with_reducible refine Frame.foldl ?_ ?_)
    | (with_reducible refine Frame.foldr ?_ ?_)
    | (with_reducible refine Frame.ite ?_ ?_)
    | ((with_reducible apply Sub.within hfw); exact rfl)
    | ((with_reducible apply Sub.within hfb); exact rfl)
    | ((with_reducible apply Mixed.of); exact rfl)
    | (apply hfb.bit (i := 4) rfl)
    | (apply hfb.bit (i := 8) rfl)
    | (apply hfb.bit (i := 9) rfl)
    | (extract_lets)
    | (fail_if_no_progress (with_reducible refine k0 _ _ _ ?_))
    | split
    | (intro _ _ _)
    | (intro _ e; have _hk : Frame _ _ _ _ := e)
    | (intro _ e; cases e)
    | dsimp only
    | (dsimp +zetaDelta only)
    | (fail_if_no_progress ((with_reducible refine Frame.upd ?_ hfw ?_ rfl ⟨rfl, rfl, rfl⟩); rotate_left; exact rfl)))

theorem State.indexReset_fr {fw fb : Nat} {s0 : State} (s : State) (hK : Frame fw fb s0 s) (hfw : Sub 13194701766664 fw := by exact Sub.within hfw rfl) (hfb : Sub 784 fb := by exact Sub.within hfb rfl) : Frame fw fb s0 (State.indexReset s) := by
  have k0 : ∀ (t : State) x0 x1, Frame fw fb s0 t → Frame fw fb s0 { t with allocs := x0, treeNodes := x1 } := fun t x0 x1 ht => Frame.upd ht hfw rfl rfl ⟨rfl, rfl, rfl⟩
  unfold State.indexReset
  repeat' (first
    | with_reducible assumption
    | with_reducible apply State.clear_fr
    | with_reducible apply State.entryFree_fr
    | with_reducible apply State.serveRegs_fr
    | with_reducible apply State.wr_fr
    | (with_reducible refine Frame.foldl ?_ ?_)
    | (with_reducible refine Frame.foldr ?_ ?_)
    | (with_reducible refine Frame.ite ?_ ?_)
    | ((with_reducible apply Sub.within hfw); exact rfl)
    | ((with_reducible apply Sub.within hfb); exact rfl)
    | ((with_reducible apply Mixed.of); exact rfl)
    | (apply hfb.bit (i := 4) rfl)
    | (apply hfb.bit (i := 8) rfl)
    | (apply hfb.bit (i := 9) rfl)
    | (dsimp only [State.wrs, State.regs0, List.foldl])
    | (extract_lets)
    | (fail_if_no_progress (with_reducible refine k0 _ _ _ ?_))
    | split
    | (intro _ _ _)
    | (intro _ e; have _hk : Frame _ _ _ _ := e)
    | (intro _ e; cases e)
    | dsimp only
    | (dsimp +zetaDelta only)
    | (fail_if_no_progress ((with_reducible refine Frame.upd ?_ hfw ?_ rfl ⟨rfl, rfl, rfl⟩); rotate_left; exact rfl)))

theorem allocPages_fr {fw fb : Nat} {s0 : State} (c kind : Nat) (write pin : Bool) (l : List CachePage) (s : State) (hK : Frame fw fb s0 s) (hfw : Sub 25231370 fw := by exact Sub.within hfw rfl) (hfb : Sub 16 fb := by exact Sub.within hfb rfl) : ∀ u, allocPages c kind write pin l s = some u → Frame fw fb s0 u := by
  induction l generalizing s with
  | nil =>
    unfold allocPages
    repeat' (first
      | with_reducible assumption
      | (with_reducible refine State.allocRun_fr _ _ _ _ _ _ ?_ ?_)
      | (with_reducible apply State.allocRun_fr_of; with_reducible assumption)
      | (with_reducible apply State.allocRun_fr_at; with_reducible assumption)
      | (with_reducible refine State.mapPage_fr _ _ _ _ _ ?_ ?_ ?_)
      | (with_reducible apply State.mapPage_fr_at; with_reducible assumption)
      | (with_reducible refine Frame.ite ?_ ?_)
      | ((with_reducible apply Sub.within hfw); exact rfl)
      | ((with_reducible apply Sub.within hfb); exact rfl)
      | ((with_reducible apply Mixed.of); exact rfl)
      | (apply hfb.bit (i := 4) rfl)
      | (extract_lets)
      | split
      | (intro _ _ _)
      | (intro _ e; have _hk : Frame _ _ _ _ := e)
      | (intro _ e; cases e)
      | dsimp only
      | (dsimp +zetaDelta only))
  | cons x r ih =>
    unfold allocPages
    repeat' (first
      | with_reducible assumption
      | (with_reducible refine ih _ ?_)
      | (with_reducible refine State.allocRun_fr _ _ _ _ _ _ ?_ ?_)
      | (with_reducible apply State.allocRun_fr_of; with_reducible assumption)
      | (with_reducible apply State.allocRun_fr_at; with_reducible assumption)
      | (with_reducible refine State.mapPage_fr _ _ _ _ _ ?_ ?_ ?_)
      | (with_reducible apply State.mapPage_fr_at; with_reducible assumption)
      | (with_reducible refine Frame.ite ?_ ?_)
      | ((with_reducible apply Sub.within hfw); exact rfl)
      | ((with_reducible apply Sub.within hfb); exact rfl)
      | ((with_reducible apply Mixed.of); exact rfl)
      | (apply hfb.bit (i := 4) rfl)
      | (extract_lets)
      | split
      | (intro _ _ _)
      | (intro _ e; have _hk : Frame _ _ _ _ := e)
      | (intro _ e; cases e)
      | dsimp only
      | (dsimp +zetaDelta only))

theorem allocPages_fr_at {fw fb : Nat} {s0 u : State} {c kind : Nat} {write pin : Bool} {l : List CachePage} {s : State} (e : allocPages c kind write pin l s = some u) (hK : Frame fw fb s0 s) (hfw : Sub 25231370 fw := by exact Sub.within hfw rfl) (hfb : Sub 16 fb := by exact Sub.within hfb rfl) : Frame fw fb s0 u := by
  have := allocPages_fr c kind write pin l s hK
  exact this u e

theorem State.allocSpan_fr {fw fb : Nat} {s0 : State} (s : State) (n kind base l i : Nat) (hK : Frame fw fb s0 s) (hfw : Sub 25362442 fw := by exact Sub.within hfw rfl) (hfb : Sub 16 fb := by exact Sub.within hfb rfl) : ∀ u, State.allocSpan s n kind base l i = some u → Frame fw fb s0 u := by
  have k0 : ∀ (t : State) x0, Frame fw fb s0 t → Frame fw fb s0 { t with ranges := x0 } := fun t x0 ht => Frame.upd ht hfw rfl rfl ⟨rfl, rfl, rfl⟩
  unfold State.allocSpan
  repeat' (first
    | with_reducible assumption
    | (with_reducible refine allocPages_fr _ _ _ _ ?_ ?_ ?_)
    | (with_reducible apply allocPages_fr_at; with_reducible assumption)
    | (with_reducible refine Frame.ite ?_ ?_)
    | ((with_reducible apply Sub.within hfw); exact rfl)
    | ((with_reducible apply Sub.within hfb); exact rfl)
    | ((with_reducible apply Mixed.of); exact rfl)
    | (apply hfb.bit (i := 4) rfl)
    | (extract_lets)
    | (fail_if_no_progress (with_reducible refine k0 _ _ ?_))
    | split
    | (intro _ _ _)
    | (intro _ e; have _hk : Frame _ _ _ _ := e)
    | (intro _ e; cases e)
    | dsimp only
    | (dsimp +zetaDelta only)
    | (fail_if_no_progress ((with_reducible refine Frame.upd ?_ hfw ?_ rfl ⟨rfl, rfl, rfl⟩); rotate_left; exact rfl)))

theorem State.allocSpan_fr_at {fw fb : Nat} {s0 : State} {u : State} {s : State} {n kind base l i : Nat} (h_eq : State.allocSpan s n kind base l i = some u) (hK : Frame fw fb s0 s) (hfw : Sub 25362442 fw := by exact Sub.within hfw rfl) (hfb : Sub 16 fb := by exact Sub.within hfb rfl) : Frame fw fb s0 u := by
  have := State.allocSpan_fr s n kind base l i hK
  exact this u h_eq

end Sys2Proof.Machine
end

