-- ==== Sys2Proof/Laws/Frame/Operands.lean ====
section
/-! SUPPORT. What the operations of Machine/Operands.lean leave as it was (`Frame`): one lemma each. -/

set_option linter.unreachableTactic false
set_option linter.unusedTactic false

namespace Sys2Proof.Machine

set_option Elab.async false

open Sys2Proof

/-- What `Frame` says of the state that a `Got` holds. -/
def Got.fr (fw fb : Nat) (s0 : State) : Got → Prop
  | .bytes _ s => Frame fw fb s0 s
  | .stop s => Frame fw fb s0 s
  | .bad s _ => Frame fw fb s0 s

theorem Got.fr_bytes {fw fb : Nat} {s0 : State} {x0} {t : State} (h : Frame fw fb s0 t) : Got.fr fw fb s0 (.bytes x0 t) := h

theorem Got.fr_stop {fw fb : Nat} {s0 : State} {t : State} (h : Frame fw fb s0 t) : Got.fr fw fb s0 (.stop t) := h

theorem Got.fr_bad {fw fb : Nat} {s0 : State} {t : State} {x1} (h : Frame fw fb s0 t) : Got.fr fw fb s0 (.bad t x1) := h

/-- What `Frame` says of the state that a `Wrote` holds. -/
def Wrote.fr (fw fb : Nat) (s0 : State) : Wrote → Prop
  | .ok s => Frame fw fb s0 s
  | .stop s => Frame fw fb s0 s
  | .bad s _ => Frame fw fb s0 s

theorem Wrote.fr_ok {fw fb : Nat} {s0 : State} {t : State} (h : Frame fw fb s0 t) : Wrote.fr fw fb s0 (.ok t) := h

theorem Wrote.fr_stop {fw fb : Nat} {s0 : State} {t : State} (h : Frame fw fb s0 t) : Wrote.fr fw fb s0 (.stop t) := h

theorem Wrote.fr_bad {fw fb : Nat} {s0 : State} {t : State} {x1} (h : Frame fw fb s0 t) : Wrote.fr fw fb s0 (.bad t x1) := h

theorem State.askBlock_fr {fw fb : Nat} {s0 : State} (s : State) (who : Parked) (ctx va chip host off fill : Nat) (hK : Frame fw fb s0 s) (hfw : Sub 536870912 fw := by exact Sub.within hfw rfl) (hfb : Sub 512 fb := by exact Sub.within hfb rfl) : Frame fw fb s0 (State.askBlock s who ctx va chip host off fill) := by
  unfold State.askBlock
  repeat' (first
    | with_reducible assumption
    | with_reducible apply State.remoteLoad_fr
    | (with_reducible refine Frame.ite ?_ ?_)
    | ((with_reducible apply Sub.within hfw); exact rfl)
    | ((with_reducible apply Sub.within hfb); exact rfl)
    | ((with_reducible apply Mixed.of); exact rfl)
    | (apply hfb.bit (i := 9) rfl)
    | (extract_lets)
    | split
    | (intro _ _ _)
    | (intro _ e; have _hk : Frame _ _ _ _ := e)
    | (intro _ e; cases e)
    | dsimp only
    | (dsimp +zetaDelta only))

theorem State.farRange_fr {fw fb : Nat} {s0 : State} (s : State) (who : Parked) (ctx va chip host off n fill : Nat) (hK : Frame fw fb s0 s) (hfw : Sub 536870912 fw := by exact Sub.within hfw rfl) (hfb : Sub 512 fb := by exact Sub.within hfb rfl) : Frame fw fb s0 (State.farRange s who ctx va chip host off n fill).2.1 := by
  unfold State.farRange
  repeat' (first
    | with_reducible assumption
    | with_reducible apply State.askBlock_fr
    | with_reducible apply State.bump_fr
    | (with_reducible refine Frame.foldl ?_ ?_)
    | (with_reducible refine Frame.foldr ?_ ?_)
    | (with_reducible refine Frame.getD ?_ ?_)
    | (with_reducible refine Frame.ite ?_ ?_)
    | ((with_reducible apply Sub.within hfw); exact rfl)
    | ((with_reducible apply Sub.within hfb); exact rfl)
    | ((with_reducible apply Mixed.of); exact rfl)
    | (apply hfb.bit (i := 9) rfl)
    | (extract_lets)
    | split
    | (intro _ _ _)
    | (intro _ e; have _hk : Frame _ _ _ _ := e)
    | (intro _ e; cases e)
    | dsimp only
    | (dsimp +zetaDelta only))

theorem State.farRange_fr_at {fw fb : Nat} {s0 : State} {u : State} {r0} {r2} {s : State} {who : Parked} {ctx va chip host off n fill : Nat} (h_eq : State.farRange s who ctx va chip host off n fill = (r0, u, r2)) (hK : Frame fw fb s0 s) (hfw : Sub 536870912 fw := by exact Sub.within hfw rfl) (hfb : Sub 512 fb := by exact Sub.within hfb rfl) : Frame fw fb s0 u := by
  have := State.farRange_fr s who ctx va chip host off n fill hK
  rw [h_eq] at this
  exact this

theorem readChunk_fr {fw fb : Nat} {s0 : State} (o : Origin) (c : Nat) (acc : Got) (p : Nat × Nat) (hK : acc.fr fw fb s0) (hfw : Sub 2361183241435479015426 fw := by exact Sub.within hfw rfl) (hfb : Sub 524 fb := by exact Sub.within hfb rfl) : (readChunk o c acc p).fr fw fb s0 := by
  unfold readChunk
  extract_lets next
  have hn : ∀ s l, Frame fw fb s0 s → (next s l).fr fw fb s0 := by
    intro s l h
    dsimp only [next]
    repeat' (first
      | with_reducible assumption
      | with_reducible apply State.farRange_fr
      | (with_reducible apply State.farRange_fr_at; with_reducible assumption)
      | with_reducible apply State.openFault_fr
      | with_reducible apply State.translated_fr
      | with_reducible apply Got.fr_bytes
      | with_reducible apply Got.fr_stop
      | with_reducible apply Got.fr_bad
      | (with_reducible refine Frame.ite ?_ ?_)
      | ((with_reducible apply Sub.within hfw); exact rfl)
      | ((with_reducible apply Sub.within hfb); exact rfl)
      | ((with_reducible apply Mixed.of); exact rfl)
      | (apply hfb.bit (i := 2) rfl)
      | (apply hfb.bit (i := 3) rfl)
      | (apply hfb.bit (i := 9) rfl)
      | (extract_lets)
      | split
      | (intro _ _ _)
      | (intro _ e; have _hk : Frame _ _ _ _ := e)
      | (intro _ e; cases e)
      | dsimp only
      | (dsimp +zetaDelta only))
  cases acc with
  | bytes l s => exact hn s (some l) hK
  | stop s => exact hn s none hK
  | bad s d => exact hK

theorem readChunks_fr {fw fb : Nat} {s0 : State} (o : Origin) (c : Nat) (l : List (Nat × Nat)) (acc : Got) (hK : acc.fr fw fb s0) (hfw : Sub 2361183241435479015426 fw := by exact Sub.within hfw rfl) (hfb : Sub 524 fb := by exact Sub.within hfb rfl) : (l.foldl (readChunk o c) acc).fr fw fb s0 :=
  foldl_inv (P := fun a : Got => a.fr fw fb s0) (fun a p ha => readChunk_fr o c a p ha) l hK

theorem State.fetch_fr {fw fb : Nat} {s0 : State} (s : State) (o : Origin) (c va n : Nat) (hK : Frame fw fb s0 s) (hfw : Sub 2361183241435479015426 fw := by exact Sub.within hfw rfl) (hfb : Sub 524 fb := by exact Sub.within hfb rfl) : (s.fetch o c va n).fr fw fb s0 :=
  readChunks_fr o c (chunksOf va n) (.bytes [] s) hK

theorem State.fetch_fr_bytes {fw fb : Nat} {s0 : State} {u : State} {l} {s : State} {o : Origin} {c va n : Nat} (h_eq : State.fetch s o c va n = .bytes l u) (hK : Frame fw fb s0 s) (hfw : Sub 2361183241435479015426 fw := by exact Sub.within hfw rfl) (hfb : Sub 524 fb := by exact Sub.within hfb rfl) : Frame fw fb s0 u := by
  have := State.fetch_fr s o c va n hK
  rw [h_eq] at this
  exact this

theorem State.fetch_fr_stop {fw fb : Nat} {s0 : State} {u : State} {s : State} {o : Origin} {c va n : Nat} (h_eq : State.fetch s o c va n = .stop u) (hK : Frame fw fb s0 s) (hfw : Sub 2361183241435479015426 fw := by exact Sub.within hfw rfl) (hfb : Sub 524 fb := by exact Sub.within hfb rfl) : Frame fw fb s0 u := by
  have := State.fetch_fr s o c va n hK
  rw [h_eq] at this
  exact this

theorem State.fetch_fr_bad {fw fb : Nat} {s0 : State} {u : State} {q} {s : State} {o : Origin} {c va n : Nat} (h_eq : State.fetch s o c va n = .bad u q) (hK : Frame fw fb s0 s) (hfw : Sub 2361183241435479015426 fw := by exact Sub.within hfw rfl) (hfb : Sub 524 fb := by exact Sub.within hfb rfl) : Frame fw fb s0 u := by
  have := State.fetch_fr s o c va n hK
  rw [h_eq] at this
  exact this

theorem checkChunk_fr {fw fb : Nat} {s0 : State} (o : Origin) (c : Nat) (atomic : Bool) (acc : Wrote) (p : Nat × Nat) (hK : acc.fr fw fb s0) (hfw : Sub 2361183241434942144514 fw := by exact Sub.within hfw rfl) (hfb : Sub 12 fb := by exact Sub.within hfb rfl) :
    (checkChunk o c atomic acc p).fr fw fb s0 := by
  unfold checkChunk
  cases acc with
  | bad s d => exact hK
  | stop s => exact hK
  | ok s =>
    have hs : Frame fw fb s0 s := hK
    dsimp only
    repeat' (first
      | with_reducible assumption
      | with_reducible apply State.openFault_fr
      | with_reducible apply State.translated_fr
      | with_reducible apply Wrote.fr_ok
      | with_reducible apply Wrote.fr_stop
      | with_reducible apply Wrote.fr_bad
      | (with_reducible refine Frame.ite ?_ ?_)
      | ((with_reducible apply Sub.within hfw); exact rfl)
      | ((with_reducible apply Sub.within hfb); exact rfl)
      | ((with_reducible apply Mixed.of); exact rfl)
      | (apply hfb.bit (i := 2) rfl)
      | (apply hfb.bit (i := 3) rfl)
      | (extract_lets)
      | split
      | (intro _ _ _)
      | (intro _ e; have _hk : Frame _ _ _ _ := e)
      | (intro _ e; cases e)
      | dsimp only
      | (dsimp +zetaDelta only))

theorem checkChunks_fr {fw fb : Nat} {s0 : State} (o : Origin) (c : Nat) (atomic : Bool) (l : List (Nat × Nat)) (acc : Wrote) (hK : acc.fr fw fb s0) (hfw : Sub 2361183241434942144514 fw := by exact Sub.within hfw rfl) (hfb : Sub 12 fb := by exact Sub.within hfb rfl) :
    (l.foldl (checkChunk o c atomic) acc).fr fw fb s0 :=
  foldl_inv (P := fun a : Wrote => a.fr fw fb s0) (fun a p ha => checkChunk_fr o c atomic a p ha) l hK

theorem State.remoteWrite_fr {fw fb : Nat} {s0 : State} (s : State) (o : Origin) (ctx va chip host off : Nat) (data : List Nat) (hK : Frame fw fb s0 s) (hfw : Sub 536870912 fw := by exact Sub.within hfw rfl) (hfb : Sub 512 fb := by exact Sub.within hfb rfl) : Frame fw fb s0 (State.remoteWrite s o ctx va chip host off data) := by
  unfold State.remoteWrite
  repeat' (first
    | with_reducible assumption
    | with_reducible apply State.fabSend_fr
    | with_reducible apply State.remoteAtomic_fr
    | with_reducible apply State.remoteStore_fr
    | (with_reducible refine Frame.foldl ?_ ?_)
    | (with_reducible refine Frame.foldr ?_ ?_)
    | (with_reducible refine Frame.ite ?_ ?_)
    | ((with_reducible apply Sub.within hfw); exact rfl)
    | ((with_reducible apply Sub.within hfb); exact rfl)
    | ((with_reducible apply Mixed.of); exact rfl)
    | (apply hfb.bit (i := 9) rfl)
    | (extract_lets)
    | split
    | (intro _ _ _)
    | (intro _ e; have _hk : Frame _ _ _ _ := e)
    | (intro _ e; cases e)
    | dsimp only
    | (dsimp +zetaDelta only))

theorem writeChunk_fr {fw fb : Nat} {s0 : State} (o : Origin) (c va : Nat) (data : List Nat) (s : State) (p : Nat × Nat) (hK : Frame fw fb s0 s) (hfw : Sub 536870920 fw := by exact Sub.within hfw rfl) (hfb : Sub 512 fb := by exact Sub.within hfb rfl) : Frame fw fb s0 (writeChunk o c va data s p) := by
  unfold writeChunk
  repeat' (first
    | with_reducible assumption
    | with_reducible apply State.remoteWrite_fr
    | with_reducible apply State.storeBytes_fr
    | (with_reducible refine Frame.ite ?_ ?_)
    | ((with_reducible apply Sub.within hfw); exact rfl)
    | ((with_reducible apply Sub.within hfb); exact rfl)
    | ((with_reducible apply Mixed.of); exact rfl)
    | (apply hfb.bit (i := 9) rfl)
    | (extract_lets)
    | split
    | (intro _ _ _)
    | (intro _ e; have _hk : Frame _ _ _ _ := e)
    | (intro _ e; cases e)
    | dsimp only
    | (dsimp +zetaDelta only))

theorem State.put_fr {fw fb : Nat} {s0 : State} (s : State) (o : Origin) (c va : Nat) (data : List Nat) (hK : Frame fw fb s0 s) (hfw : Sub 2361183241435479015434 fw := by exact Sub.within hfw rfl) (hfb : Sub 524 fb := by exact Sub.within hfb rfl) : (s.put o c va data).fr fw fb s0 := by
  have h := checkChunks_fr o c false (chunksOf va data.length) (.ok s) hK
  unfold State.put
  split
  · rename_i e
    rw [e] at h
    exact Frame.foldl (fun t x ht => writeChunk_fr _ _ _ _ _ _ ht) h
  · exact h

theorem State.put_fr_ok {fw fb : Nat} {s0 : State} {u : State} {s : State} {o : Origin} {c va : Nat} {data : List Nat} (h_eq : State.put s o c va data = .ok u) (hK : Frame fw fb s0 s) (hfw : Sub 2361183241435479015434 fw := by exact Sub.within hfw rfl) (hfb : Sub 524 fb := by exact Sub.within hfb rfl) : Frame fw fb s0 u := by
  have := State.put_fr s o c va data hK
  rw [h_eq] at this
  exact this

theorem State.put_fr_stop {fw fb : Nat} {s0 : State} {u : State} {s : State} {o : Origin} {c va : Nat} {data : List Nat} (h_eq : State.put s o c va data = .stop u) (hK : Frame fw fb s0 s) (hfw : Sub 2361183241435479015434 fw := by exact Sub.within hfw rfl) (hfb : Sub 524 fb := by exact Sub.within hfb rfl) : Frame fw fb s0 u := by
  have := State.put_fr s o c va data hK
  rw [h_eq] at this
  exact this

theorem State.put_fr_bad {fw fb : Nat} {s0 : State} {u : State} {q} {s : State} {o : Origin} {c va : Nat} {data : List Nat} (h_eq : State.put s o c va data = .bad u q) (hK : Frame fw fb s0 s) (hfw : Sub 2361183241435479015434 fw := by exact Sub.within hfw rfl) (hfb : Sub 524 fb := by exact Sub.within hfb rfl) : Frame fw fb s0 u := by
  have := State.put_fr s o c va data hK
  rw [h_eq] at this
  exact this

theorem State.dropGot_fr {fw fb : Nat} {s0 : State} (s : State) (who : Parked) (hK : Frame fw fb s0 s) (hfw : Sub 536870912 fw := by exact Sub.within hfw rfl) : Frame fw fb s0 (State.dropGot s who) := by
  have k0 : ∀ (t : State) x0, Frame fw fb s0 t → Frame fw fb s0 { t with fabric := x0 } := fun t x0 ht => Frame.upd ht hfw rfl rfl ⟨rfl, rfl, rfl⟩
  unfold State.dropGot
  repeat' (first
    | with_reducible assumption
    | (with_reducible refine Frame.ite ?_ ?_)
    | ((with_reducible apply Sub.within hfw); exact rfl)
    | ((with_reducible apply Sub.within hfb); exact rfl)
    | ((with_reducible apply Mixed.of); exact rfl)
    | (extract_lets)
    | (fail_if_no_progress (with_reducible refine k0 _ _ ?_))
    | split
    | (intro _ _ _)
    | (intro _ e; have _hk : Frame _ _ _ _ := e)
    | (intro _ e; cases e)
    | dsimp only
    | (dsimp +zetaDelta only)
    | (fail_if_no_progress ((with_reducible refine Frame.upd ?_ hfw ?_ rfl ⟨rfl, rfl, rfl⟩); rotate_left; exact rfl)))

theorem State.doneAfter_fr {fw fb : Nat} {s0 : State} (s : State) (c : Cmd) (o0 o1 o2 : Nat) (hK : Frame fw fb s0 s) (hfw : Sub 536873472 fw := by exact Sub.within hfw rfl) : Frame fw fb s0 (State.doneAfter s c o0 o1 o2) := by
  unfold State.doneAfter
  repeat' (first
    | with_reducible assumption
    | with_reducible apply State.cmdMap_fr
    | with_reducible apply State.doneWith_fr
    | with_reducible apply State.dropGot_fr
    | (with_reducible refine Frame.ite ?_ ?_)
    | ((with_reducible apply Sub.within hfw); exact rfl)
    | ((with_reducible apply Sub.within hfb); exact rfl)
    | ((with_reducible apply Mixed.of); exact rfl)
    | (extract_lets)
    | split
    | (intro _ _ _)
    | (intro _ e; have _hk : Frame _ _ _ _ := e)
    | (intro _ e; cases e)
    | dsimp only
    | (dsimp +zetaDelta only))

theorem State.withBytes_fr {fw fb : Nat} {s0 : State} (s : State) (c : Cmd) (va n : Nat) (f : State → List Nat → State) (hf : ∀ t l, Frame fw fb s0 t → Frame fw fb s0 (f t l)) (hK : Frame fw fb s0 s) (hfw : Sub 2361183241435479017986 fw := by exact Sub.within hfw rfl) (hfb : Sub 524 fb := by exact Sub.within hfb rfl) : Frame fw fb s0 (State.withBytes s c va n f) := by
  have h := State.fetch_fr s c.origin c.context va n hK
  unfold State.withBytes
  split <;> rename_i e <;> rw [e] at h
  · exact hf _ _ h
  · exact h
  · exact State.failWith_fr _ _ _ _ h

theorem State.withPut_fr {fw fb : Nat} {s0 : State} (s : State) (c : Cmd) (va : Nat) (data : List Nat) (f : State → State) (hf : ∀ t, Frame fw fb s0 t → Frame fw fb s0 (f t)) (hK : Frame fw fb s0 s) (hfw : Sub 2361183241435479017994 fw := by exact Sub.within hfw rfl) (hfb : Sub 524 fb := by exact Sub.within hfb rfl) : Frame fw fb s0 (State.withPut s c va data f) := by
  have h := State.put_fr s c.origin c.context va data hK
  unfold State.withPut
  split <;> rename_i e <;> rw [e] at h
  · exact hf _ h
  · exact h
  · exact State.failWith_fr _ _ _ _ h

end Sys2Proof.Machine
end

