-- ==== Sys2Proof/Laws/Frame/Areas.lean ====
section
/-! SUPPORT. What the operations of Machine/Areas.lean leave as it was (`Frame`): one lemma each. -/

set_option linter.unreachableTactic false
set_option linter.unusedTactic false

namespace Sys2Proof.Machine

set_option Elab.async false

open Sys2Proof

theorem State.areaClear_fr {fw fb : Nat} {s0 : State} (s : State) (r : Router) (e parity : Nat) (hK : Frame fw fb s0 s) (hfw : Sub 8 fw := by exact Sub.within hfw rfl) : Frame fw fb s0 (State.areaClear s r e parity) := by
  unfold State.areaClear
  repeat' (first
    | with_reducible assumption
    | with_reducible apply State.storeWords_fr
    | (with_reducible refine Frame.ite ?_ ?_)
    | ((with_reducible apply Sub.within hfw); exact rfl)
    | ((with_reducible apply Sub.within hfb); exact rfl)
    | ((with_reducible apply Mixed.of); exact rfl)
    | (extract_lets)
    | split
    | (intro _ _ _)
    | (intro _ e; have _hk : Frame _ _ _ _ := e)
    | (intro _ e; cases e)
    | dsimp only
    | (dsimp +zetaDelta only))

theorem State.setArea_fr {fw fb : Nat} {s0 : State} (s : State) (a : Area) (hK : Frame fw fb s0 s) (hfw : Sub 68719476736 fw := by exact Sub.within hfw rfl) : Frame fw fb s0 (State.setArea s a) := by
  have k0 : ∀ (t : State) x0, Frame fw fb s0 t → Frame fw fb s0 { t with areas := x0 } := fun t x0 ht => Frame.upd ht hfw rfl rfl ⟨rfl, rfl, rfl⟩
  unfold State.setArea
  repeat' (first
    | with_reducible assumption
    | (with_reducible refine Frame.ite ?_ ?_)
    | ((with_reducible apply Sub.within hfw); exact rfl)
    | ((with_reducible apply Sub.within hfb); exact rfl)
    | ((with_reducible apply Mixed.of); exact rfl)
    | (extract_lets)
    | (fail_if_no_progress (with_reducible refine k0 _ _ ?_))
    | split
    | (intro _ _ _)
    | (intro _ e; have _hk : Frame _ _ _ _ := e)
    | (intro _ e; cases e)
    | dsimp only
    | (dsimp +zetaDelta only)
    | (fail_if_no_progress ((with_reducible refine Frame.upd ?_ hfw ?_ rfl ⟨rfl, rfl, rfl⟩); rotate_left; exact rfl)))

theorem State.waitRegs_fr {fw fb : Nat} {s0 : State} (s : State) (hK : Frame fw fb s0 s) (hfb : Sub 128 fb := by exact Sub.within hfb rfl) : Frame fw fb s0 (State.waitRegs s) := by
  unfold State.waitRegs
  repeat' (first
    | with_reducible assumption
    | with_reducible apply State.wr_fr
    | (with_reducible refine Frame.ite ?_ ?_)
    | ((with_reducible apply Sub.within hfw); exact rfl)
    | ((with_reducible apply Sub.within hfb); exact rfl)
    | ((with_reducible apply Mixed.of); exact rfl)
    | (apply hfb.bit (i := 7) rfl)
    | (extract_lets)
    | split
    | (intro _ _ _)
    | (intro _ e; have _hk : Frame _ _ _ _ := e)
    | (intro _ e; cases e)
    | dsimp only
    | (dsimp +zetaDelta only))

theorem State.noteArea_fr {fw fb : Nat} {s0 : State} (r : Router) (s : State) (p : Nat × Nat) (hK : Frame fw fb s0 s) (hfw : Sub 68719476736 fw := by exact Sub.within hfw rfl) : Frame fw fb s0 (State.noteArea r s p) := by
  unfold State.noteArea
  repeat' (first
    | with_reducible assumption
    | with_reducible apply State.setArea_fr
    | (with_reducible refine Frame.ite ?_ ?_)
    | ((with_reducible apply Sub.within hfw); exact rfl)
    | ((with_reducible apply Sub.within hfb); exact rfl)
    | ((with_reducible apply Mixed.of); exact rfl)
    | (extract_lets)
    | split
    | (intro _ _ _)
    | (intro _ e; have _hk : Frame _ _ _ _ := e)
    | (intro _ e; cases e)
    | dsimp only
    | (dsimp +zetaDelta only))

theorem State.noteArrivals_fr {fw fb : Nat} {s0 : State} (s : State) (hK : Frame fw fb s0 s) (hfw : Sub 68719476736 fw := by exact Sub.within hfw rfl) (hfb : Sub 128 fb := by exact Sub.within hfb rfl) : Frame fw fb s0 (State.noteArrivals s) := by
  unfold State.noteArrivals
  repeat' (first
    | with_reducible assumption
    | with_reducible apply State.noteArea_fr
    | with_reducible apply State.waitRegs_fr
    | (with_reducible refine Frame.foldl ?_ ?_)
    | (with_reducible refine Frame.foldr ?_ ?_)
    | (with_reducible refine Frame.ite ?_ ?_)
    | ((with_reducible apply Sub.within hfw); exact rfl)
    | ((with_reducible apply Sub.within hfb); exact rfl)
    | ((with_reducible apply Mixed.of); exact rfl)
    | (apply hfb.bit (i := 7) rfl)
    | (extract_lets)
    | split
    | (intro _ _ _)
    | (intro _ e; have _hk : Frame _ _ _ _ := e)
    | (intro _ e; cases e)
    | dsimp only
    | (dsimp +zetaDelta only))

theorem State.loopRegs_fr {fw fb : Nat} {s0 : State} (s : State) (hK : Frame fw fb s0 s) (hfb : Sub 128 fb := by exact Sub.within hfb rfl) : Frame fw fb s0 (State.loopRegs s) := by
  unfold State.loopRegs
  repeat' (first
    | with_reducible assumption
    | with_reducible apply State.wr_fr
    | (with_reducible refine Frame.ite ?_ ?_)
    | ((with_reducible apply Sub.within hfw); exact rfl)
    | ((with_reducible apply Sub.within hfb); exact rfl)
    | ((with_reducible apply Mixed.of); exact rfl)
    | (apply hfb.bit (i := 7) rfl)
    | (extract_lets)
    | split
    | (intro _ _ _)
    | (intro _ e; have _hk : Frame _ _ _ _ := e)
    | (intro _ e; cases e)
    | dsimp only
    | (dsimp +zetaDelta only))

theorem State.routersDrop_fr {fw fb : Nat} {s0 : State} (s : State) (p : Nat → Nat → Nat → Bool) (hK : Frame fw fb s0 s) (hfw : Sub 103079215104 fw := by exact Sub.within hfw rfl) (hfb : Sub 128 fb := by exact Sub.within hfb rfl) : Frame fw fb s0 (State.routersDrop s p) := by
  have k0 : ∀ (t : State) x0 x1, Frame fw fb s0 t → Frame fw fb s0 { t with routers := x0, areas := x1 } := fun t x0 x1 ht => Frame.upd ht hfw rfl rfl ⟨rfl, rfl, rfl⟩
  unfold State.routersDrop
  repeat' (first
    | with_reducible assumption
    | with_reducible apply State.loopRegs_fr
    | with_reducible apply State.waitRegs_fr
    | (with_reducible refine Frame.ite ?_ ?_)
    | ((with_reducible apply Sub.within hfw); exact rfl)
    | ((with_reducible apply Sub.within hfb); exact rfl)
    | ((with_reducible apply Mixed.of); exact rfl)
    | (apply hfb.bit (i := 7) rfl)
    | (extract_lets)
    | (fail_if_no_progress (with_reducible refine k0 _ _ _ ?_))
    | split
    | (intro _ _ _)
    | (intro _ e; have _hk : Frame _ _ _ _ := e)
    | (intro _ e; cases e)
    | dsimp only
    | (dsimp +zetaDelta only)
    | (fail_if_no_progress ((with_reducible refine Frame.upd ?_ hfw ?_ rfl ⟨rfl, rfl, rfl⟩); rotate_left; exact rfl)))

theorem State.countsEdit_fr {fw fb : Nat} {s0 : State} (s : State) (o : Origin) (r : Router) (f : List Nat → List Nat) (hK : Frame fw fb s0 s) (hfw : Sub 2361183241435479015434 fw := by exact Sub.within hfw rfl) (hfb : Sub 524 fb := by exact Sub.within hfb rfl) : (State.countsEdit s o r f).fr fw fb s0 := by
  unfold State.countsEdit
  repeat' (first
    | with_reducible assumption
    | with_reducible apply State.fetch_fr
    | (with_reducible apply State.fetch_fr_bytes; with_reducible assumption)
    | (with_reducible apply State.fetch_fr_stop; with_reducible assumption)
    | (with_reducible apply State.fetch_fr_bad; with_reducible assumption)
    | with_reducible apply State.put_fr
    | (with_reducible apply State.put_fr_ok; with_reducible assumption)
    | (with_reducible apply State.put_fr_stop; with_reducible assumption)
    | (with_reducible apply State.put_fr_bad; with_reducible assumption)
    | with_reducible apply Wrote.fr_ok
    | with_reducible apply Wrote.fr_stop
    | with_reducible apply Wrote.fr_bad
    | (with_reducible refine Frame.ite ?_ ?_)
    | ((with_reducible apply Sub.within hfw); exact rfl)
    | ((with_reducible apply Sub.within hfb); exact rfl)
    | ((with_reducible apply Mixed.of); exact rfl)
    | (apply hfb.bit (i := 2) rfl)
    | (apply hfb.bit (i := 3) rfl)
    | (apply hfb.bit (i := 9) rfl)
    | (extract_lets)
    | split
    | (intro _ _ _)
    | (intro _ e; have _hk : Frame _ _ _ _ := e)
    | (intro _ e; cases e)
    | dsimp only
    | (dsimp +zetaDelta only))

theorem State.countsEdit_fr_ok {fw fb : Nat} {s0 : State} {u : State} {s : State} {o : Origin} {r : Router} {f : List Nat → List Nat} (h_eq : State.countsEdit s o r f = .ok u) (hK : Frame fw fb s0 s) (hfw : Sub 2361183241435479015434 fw := by exact Sub.within hfw rfl) (hfb : Sub 524 fb := by exact Sub.within hfb rfl) : Frame fw fb s0 u := by
  have := State.countsEdit_fr s o r f hK
  rw [h_eq] at this
  exact this

theorem State.countsEdit_fr_stop {fw fb : Nat} {s0 : State} {u : State} {s : State} {o : Origin} {r : Router} {f : List Nat → List Nat} (h_eq : State.countsEdit s o r f = .stop u) (hK : Frame fw fb s0 s) (hfw : Sub 2361183241435479015434 fw := by exact Sub.within hfw rfl) (hfb : Sub 524 fb := by exact Sub.within hfb rfl) : Frame fw fb s0 u := by
  have := State.countsEdit_fr s o r f hK
  rw [h_eq] at this
  exact this

theorem State.countsEdit_fr_bad {fw fb : Nat} {s0 : State} {u : State} {q} {s : State} {o : Origin} {r : Router} {f : List Nat → List Nat} (h_eq : State.countsEdit s o r f = .bad u q) (hK : Frame fw fb s0 s) (hfw : Sub 2361183241435479015434 fw := by exact Sub.within hfw rfl) (hfb : Sub 524 fb := by exact Sub.within hfb rfl) : Frame fw fb s0 u := by
  have := State.countsEdit_fr s o r f hK
  rw [h_eq] at this
  exact this

end Sys2Proof.Machine
end

