-- ==== Sys2Proof/Laws/Frame/Intake.lean ====
section
/-! SUPPORT. What the operations of Machine/Intake.lean leave as it was (`Frame`): one lemma each. -/

set_option linter.unreachableTactic false
set_option linter.unusedTactic false

namespace Sys2Proof.Machine

set_option Elab.async false

open Sys2Proof

theorem State.setSlot_fr {fw fb : Nat} {s0 : State} (s : State) (n : Nat) (x : Slot) (hK : Frame fw fb s0 s) (hfw : Sub 1152921504606846976 fw := by exact Sub.within hfw rfl) : Frame fw fb s0 (State.setSlot s n x) := by
  have k0 : ∀ (t : State) x0, Frame fw fb s0 t → Frame fw fb s0 { t with slots := x0 } := fun t x0 ht => Frame.upd ht hfw rfl rfl ⟨rfl, rfl, rfl⟩
  unfold State.setSlot
  repeat' (first
    | with_reducible assumption
    | (with_reducible refine Frame.ite ?_ ?_)
    | ((with_reducible apply Sub.within hfw); exact rfl)
    | ((with_reducible apply Sub.within hfb); exact rfl)
    | ((with_reducible apply Mixed.of); exact rfl)
    | (extract_lets)
    | (fail_if_no_progress (with_reducible refine k0 _ _ ?_))
    | split
    | (intro _ _ _)
    | (intro _ e; have _hk : Frame _ _ _ _ := e)
    | (intro _ e; cases e)
    | dsimp only
    | (dsimp +zetaDelta only)
    | (fail_if_no_progress ((with_reducible refine Frame.upd ?_ hfw ?_ rfl ⟨rfl, rfl, rfl⟩); rotate_left; exact rfl)))

theorem State.shardMap_fr {fw fb : Nat} {s0 : State} (s : State) (n no : Nat) (f : Shard → Shard) (hK : Frame fw fb s0 s) (hfw : Sub 1152921504606846976 fw := by exact Sub.within hfw rfl) : Frame fw fb s0 (State.shardMap s n no f) := by
  unfold State.shardMap
  repeat' (first
    | with_reducible assumption
    | with_reducible apply State.setSlot_fr
    | (with_reducible refine Frame.ite ?_ ?_)
    | ((with_reducible apply Sub.within hfw); exact rfl)
    | ((with_reducible apply Sub.within hfb); exact rfl)
    | ((with_reducible apply Mixed.of); exact rfl)
    | (extract_lets)
    | split
    | (intro _ _ _)
    | (intro _ e; have _hk : Frame _ _ _ _ := e)
    | (intro _ e; cases e)
    | dsimp only
    | (dsimp +zetaDelta only))

theorem State.imageWrite_fr {fw fb : Nat} {s0 : State} (s : State) (slot off : Nat) (data : List Nat) (hK : Frame fw fb s0 s) (hfw : Sub 8 fw := by exact Sub.within hfw rfl) : Frame fw fb s0 (State.imageWrite s slot off data) := by
  unfold State.imageWrite
  repeat' (first
    | with_reducible assumption
    | with_reducible apply State.storeBytes_fr
    | (with_reducible refine Frame.foldl ?_ ?_)
    | (with_reducible refine Frame.foldr ?_ ?_)
    | (with_reducible refine Frame.ite ?_ ?_)
    | ((with_reducible apply Sub.within hfw); exact rfl)
    | ((with_reducible apply Sub.within hfb); exact rfl)
    | ((with_reducible apply Mixed.of); exact rfl)
    | (extract_lets)
    | split
    | (intro _ _ _)
    | (intro _ e; have _hk : Frame _ _ _ _ := e)
    | (intro _ e; cases e)
    | dsimp only
    | (dsimp +zetaDelta only))

theorem State.slotRegs_fr {fw fb : Nat} {s0 : State} (s : State) (n : Nat) (hK : Frame fw fb s0 s) (hfb : Sub 4096 fb := by exact Sub.within hfb rfl) : Frame fw fb s0 (State.slotRegs s n) := by
  unfold State.slotRegs
  repeat' (first
    | with_reducible assumption
    | with_reducible apply State.wr_fr
    | (with_reducible refine Frame.ite ?_ ?_)
    | ((with_reducible apply Sub.within hfw); exact rfl)
    | ((with_reducible apply Sub.within hfb); exact rfl)
    | ((with_reducible apply Mixed.of); exact rfl)
    | (apply hfb.bit (i := 12) rfl)
    | (dsimp only [State.wrs, State.regs0, List.foldl])
    | (extract_lets)
    | split
    | (intro _ _ _)
    | (intro _ e; have _hk : Frame _ _ _ _ := e)
    | (intro _ e; cases e)
    | dsimp only
    | (dsimp +zetaDelta only))

theorem State.slotVector_fr {fw fb : Nat} {s0 : State} (s : State) (n : Nat) (hK : Frame fw fb s0 s) (hfw : Sub 144 fw := by exact Sub.within hfw rfl) : Frame fw fb s0 (State.slotVector s n) := by
  unfold State.slotVector
  repeat' (first
    | with_reducible assumption
    | with_reducible apply State.raiseIf_fr
    | (with_reducible refine Frame.ite ?_ ?_)
    | ((with_reducible apply Sub.within hfw); exact rfl)
    | ((with_reducible apply Sub.within hfb); exact rfl)
    | ((with_reducible apply Mixed.of); exact rfl)
    | (extract_lets)
    | split
    | (intro _ _ _)
    | (intro _ e; have _hk : Frame _ _ _ _ := e)
    | (intro _ e; cases e)
    | dsimp only
    | (dsimp +zetaDelta only))

theorem State.slotEmpty_fr {fw fb : Nat} {s0 : State} (s : State) (n : Nat) (hK : Frame fw fb s0 s) (hfw : Sub 10376293541461688320 fw := by exact Sub.within hfw rfl) (hfb : Sub 4096 fb := by exact Sub.within hfb rfl) : Frame fw fb s0 (State.slotEmpty s n) := by
  have k0 : ∀ (t : State) x0 x1, Frame fw fb s0 t → Frame fw fb s0 { t with slots := x0, recheck := x1 } := fun t x0 x1 ht => Frame.upd ht hfw rfl rfl ⟨rfl, rfl, rfl⟩
  unfold State.slotEmpty
  repeat' (first
    | with_reducible assumption
    | with_reducible apply State.freeRunAt_fr
    | with_reducible apply State.reg0_fr
    | with_reducible apply State.slotRegs_fr
    | (with_reducible refine Frame.foldl ?_ ?_)
    | (with_reducible refine Frame.foldr ?_ ?_)
    | (with_reducible refine Frame.ite ?_ ?_)
    | ((with_reducible apply Sub.within hfw); exact rfl)
    | ((with_reducible apply Sub.within hfb); exact rfl)
    | ((with_reducible apply Mixed.of); exact rfl)
    | (apply hfb.bit (i := 12) rfl)
    | (dsimp only [State.wrs, State.regs0, List.foldl])
    | (extract_lets)
    | (fail_if_no_progress (with_reducible refine k0 _ _ _ ?_))
    | split
    | (intro _ _ _)
    | (intro _ e; have _hk : Frame _ _ _ _ := e)
    | (intro _ e; cases e)
    | dsimp only
    | (dsimp +zetaDelta only)
    | (fail_if_no_progress ((with_reducible refine Frame.upd ?_ hfw ?_ rfl ⟨rfl, rfl, rfl⟩); rotate_left; exact rfl)))

theorem State.engineReg_fr {fw fb : Nat} {s0 : State} (s : State) (e shard : Nat) (busy : Bool) (hK : Frame fw fb s0 s) (hfb : Sub 4096 fb := by exact Sub.within hfb rfl) : Frame fw fb s0 (State.engineReg s e shard busy) := by
  unfold State.engineReg
  repeat' (first
    | with_reducible assumption
    | with_reducible apply State.wr_fr
    | (with_reducible refine Frame.ite ?_ ?_)
    | ((with_reducible apply Sub.within hfw); exact rfl)
    | ((with_reducible apply Sub.within hfb); exact rfl)
    | ((with_reducible apply Mixed.of); exact rfl)
    | (apply hfb.bit (i := 12) rfl)
    | (extract_lets)
    | split
    | (intro _ _ _)
    | (intro _ e; have _hk : Frame _ _ _ _ := e)
    | (intro _ e; cases e)
    | dsimp only
    | (dsimp +zetaDelta only))

theorem State.assignEngines_fr {fw fb : Nat} {s0 : State} (s : State) (h : Nat) (hK : Frame fw fb s0 s) (hfw : Sub 1152921504606846976 fw := by exact Sub.within hfw rfl) (hfb : Sub 4096 fb := by exact Sub.within hfb rfl) : Frame fw fb s0 (State.assignEngines s h) := by
  unfold State.assignEngines
  repeat' (first
    | with_reducible assumption
    | with_reducible apply State.engineReg_fr
    | with_reducible apply State.shardMap_fr
    | (with_reducible refine Frame.foldl ?_ ?_)
    | (with_reducible refine Frame.foldr ?_ ?_)
    | (with_reducible refine Frame.ite ?_ ?_)
    | ((with_reducible apply Sub.within hfw); exact rfl)
    | ((with_reducible apply Sub.within hfb); exact rfl)
    | ((with_reducible apply Mixed.of); exact rfl)
    | (apply hfb.bit (i := 12) rfl)
    | (extract_lets)
    | split
    | (intro _ _ _)
    | (intro _ e; have _hk : Frame _ _ _ _ := e)
    | (intro _ e; cases e)
    | dsimp only
    | (dsimp +zetaDelta only))

theorem State.closeWindow_fr {fw fb : Nat} {s0 : State} (s : State) (n : Nat) (x : Shard) (hK : Frame fw fb s0 s) (hfw : Sub 1152921504606846976 fw := by exact Sub.within hfw rfl) (hfb : Sub 4096 fb := by exact Sub.within hfb rfl) : Frame fw fb s0 (State.closeWindow s n x) := by
  unfold State.closeWindow
  repeat' (first
    | with_reducible assumption
    | with_reducible apply State.assignEngines_fr
    | with_reducible apply State.engineReg_fr
    | with_reducible apply State.shardMap_fr
    | (with_reducible refine Frame.ite ?_ ?_)
    | ((with_reducible apply Sub.within hfw); exact rfl)
    | ((with_reducible apply Sub.within hfb); exact rfl)
    | ((with_reducible apply Mixed.of); exact rfl)
    | (apply hfb.bit (i := 12) rfl)
    | (extract_lets)
    | split
    | (intro _ _ _)
    | (intro _ e; have _hk : Frame _ _ _ _ := e)
    | (intro _ e; cases e)
    | dsimp only
    | (dsimp +zetaDelta only))

theorem State.shardBack_fr {fw fb : Nat} {s0 : State} (s : State) (n : Nat) (x : Shard) (hK : Frame fw fb s0 s) (hfw : Sub 1152921504606846976 fw := by exact Sub.within hfw rfl) (hfb : Sub 4096 fb := by exact Sub.within hfb rfl) : Frame fw fb s0 (State.shardBack s n x) := by
  unfold State.shardBack
  repeat' (first
    | with_reducible assumption
    | with_reducible apply State.closeWindow_fr
    | with_reducible apply State.shardMap_fr
    | (with_reducible refine Frame.ite ?_ ?_)
    | ((with_reducible apply Sub.within hfw); exact rfl)
    | ((with_reducible apply Sub.within hfb); exact rfl)
    | ((with_reducible apply Mixed.of); exact rfl)
    | (apply hfb.bit (i := 12) rfl)
    | (extract_lets)
    | split
    | (intro _ _ _)
    | (intro _ e; have _hk : Frame _ _ _ _ := e)
    | (intro _ e; cases e)
    | dsimp only
    | (dsimp +zetaDelta only))

theorem State.shardCmd_fr {fw fb : Nat} {s0 : State} (s : State) (x : Shard) (st det : Nat) (hK : Frame fw fb s0 s) (hfw : Sub 2560 fw := by exact Sub.within hfw rfl) : Frame fw fb s0 (State.shardCmd s x st det) := by
  unfold State.shardCmd
  repeat' (first
    | with_reducible assumption
    | with_reducible apply State.failWith_fr
    | (with_reducible refine Frame.ite ?_ ?_)
    | ((with_reducible apply Sub.within hfw); exact rfl)
    | ((with_reducible apply Sub.within hfb); exact rfl)
    | ((with_reducible apply Mixed.of); exact rfl)
    | (extract_lets)
    | split
    | (intro _ _ _)
    | (intro _ e; have _hk : Frame _ _ _ _ := e)
    | (intro _ e; cases e)
    | dsimp only
    | (dsimp +zetaDelta only))

theorem State.closeAll_fr {fw fb : Nat} {s0 : State} (s : State) (n : Nat) (hK : Frame fw fb s0 s) (hfw : Sub 1152921504606849536 fw := by exact Sub.within hfw rfl) (hfb : Sub 4096 fb := by exact Sub.within hfb rfl) : Frame fw fb s0 (State.closeAll s n) := by
  unfold State.closeAll
  repeat' (first
    | with_reducible assumption
    | with_reducible apply State.closeWindow_fr
    | with_reducible apply State.shardCmd_fr
    | (with_reducible refine Frame.foldl ?_ ?_)
    | (with_reducible refine Frame.foldr ?_ ?_)
    | (with_reducible refine Frame.ite ?_ ?_)
    | ((with_reducible apply Sub.within hfw); exact rfl)
    | ((with_reducible apply Sub.within hfb); exact rfl)
    | ((with_reducible apply Mixed.of); exact rfl)
    | (apply hfb.bit (i := 12) rfl)
    | (extract_lets)
    | split
    | (intro _ _ _)
    | (intro _ e; have _hk : Frame _ _ _ _ := e)
    | (intro _ e; cases e)
    | dsimp only
    | (dsimp +zetaDelta only))

theorem State.slotFails_fr {fw fb : Nat} {s0 : State} (s : State) (n no st : Nat) (hK : Frame fw fb s0 s) (hfw : Sub 10376293541461691088 fw := by exact Sub.within hfw rfl) (hfb : Sub 135168 fb := by exact Sub.within hfb rfl) : Frame fw fb s0 (State.slotFails s n no st) := by
  unfold State.slotFails
  repeat' (first
    | with_reducible assumption
    | with_reducible apply State.closeAll_fr
    | with_reducible apply State.failWith_fr
    | with_reducible apply State.record_fr
    | with_reducible apply State.slotEmpty_fr
    | with_reducible apply State.slotVector_fr
    | (with_reducible refine Frame.ite ?_ ?_)
    | ((with_reducible apply Sub.within hfw); exact rfl)
    | ((with_reducible apply Sub.within hfb); exact rfl)
    | ((with_reducible apply Mixed.of); exact rfl)
    | (apply hfb.bit (i := 12) rfl)
    | (apply hfb.bit (i := 17) rfl)
    | (extract_lets)
    | split
    | (intro _ _ _)
    | (intro _ e; have _hk : Frame _ _ _ _ := e)
    | (intro _ e; cases e)
    | dsimp only
    | (dsimp +zetaDelta only))

theorem State.stageDone_fr {fw fb : Nat} {s0 : State} (s : State) (n : Nat) (hK : Frame fw fb s0 s) (hfw : Sub 1152921504606849536 fw := by exact Sub.within hfw rfl) (hfb : Sub 4096 fb := by exact Sub.within hfb rfl) : Frame fw fb s0 (State.stageDone s n) := by
  unfold State.stageDone
  repeat' (first
    | with_reducible assumption
    | with_reducible apply State.doneWith_fr
    | with_reducible apply State.setSlot_fr
    | with_reducible apply State.slotRegs_fr
    | with_reducible apply State.wr_fr
    | (with_reducible refine Frame.ite ?_ ?_)
    | ((with_reducible apply Sub.within hfw); exact rfl)
    | ((with_reducible apply Sub.within hfb); exact rfl)
    | ((with_reducible apply Mixed.of); exact rfl)
    | (apply hfb.bit (i := 12) rfl)
    | (extract_lets)
    | split
    | (intro _ _ _)
    | (intro _ e; have _hk : Frame _ _ _ _ := e)
    | (intro _ e; cases e)
    | dsimp only
    | (dsimp +zetaDelta only))

theorem State.shardCorrupt_fr {fw fb : Nat} {s0 : State} (s : State) (n : Nat) (x : Shard) (hK : Frame fw fb s0 s) (hfw : Sub 1152921504606847184 fw := by exact Sub.within hfw rfl) (hfb : Sub 135168 fb := by exact Sub.within hfb rfl) : Frame fw fb s0 (State.shardCorrupt s n x) := by
  unfold State.shardCorrupt
  repeat' (first
    | with_reducible assumption
    | with_reducible apply State.bump_fr
    | with_reducible apply State.record_fr
    | with_reducible apply State.shardMap_fr
    | with_reducible apply State.slotRegs_fr
    | with_reducible apply State.slotVector_fr
    | (with_reducible refine Frame.ite ?_ ?_)
    | ((with_reducible apply Sub.within hfw); exact rfl)
    | ((with_reducible apply Sub.within hfb); exact rfl)
    | ((with_reducible apply Mixed.of); exact rfl)
    | (apply hfb.bit (i := 12) rfl)
    | (apply hfb.bit (i := 17) rfl)
    | (extract_lets)
    | split
    | (intro _ _ _)
    | (intro _ e; have _hk : Frame _ _ _ _ := e)
    | (intro _ e; cases e)
    | dsimp only
    | (dsimp +zetaDelta only))

theorem stageGive_fr {fw fb : Nat} {s0 : State} (l : List (Nat × Nat)) (p : Nat) (r : Option (Nat × State)) (hK : ∀ x, r = some x → Frame fw fb s0 x.2)  :
    ∀ x, stageGive l p r = some x → Frame fw fb s0 x.2 := by
  cases r with
  | none => intro _ e; cases e
  | some y => intro _ e; cases e; exact hK y rfl

theorem stageFrame_fr {fw fb : Nat} {s0 : State} (acc : Option (List (Nat × Nat) × State)) (p : Nat) (hK : ∀ x, acc = some x → Frame fw fb s0 x.2) (hfw : Sub 65546 fw := by exact Sub.within hfw rfl) :
    ∀ x, stageFrame acc p = some x → Frame fw fb s0 x.2 := by
  cases acc with
  | none => intro _ e; cases e
  | some y => exact stageGive_fr _ _ _ (fun _ e => State.allocRun_fr_at e (hK y rfl))

theorem stageFrames_fr {fw fb : Nat} {s0 : State} (ps : List Nat) (s : State) (hK : Frame fw fb s0 s) (hfw : Sub 65546 fw := by exact Sub.within hfw rfl) : ∀ p, stageFrames ps s = some p → Frame fw fb s0 p.2 := by
  have key : ∀ (l : List Nat) (acc : Option (List (Nat × Nat) × State)), (∀ x, acc = some x → Frame fw fb s0 x.2) →
      ∀ x, l.foldl stageFrame acc = some x → Frame fw fb s0 x.2 := by
    intro l
    induction l with
    | nil => intro acc h; exact h
    | cons a r ih => intro acc h; exact ih _ (stageFrame_fr acc a h)
  exact key ps _ (by intro x e; cases e; exact hK)

theorem stageFrames_fr_at {fw fb : Nat} {s0 u : State} {ps : List Nat} {s : State} {r} (e : stageFrames ps s = some (r, u)) (hK : Frame fw fb s0 s) (hfw : Sub 65546 fw := by exact Sub.within hfw rfl) : Frame fw fb s0 u :=
  by
  have := stageFrames_fr ps s hK
  exact this (r, u) e

theorem stageFrames_fr_of {fw fb : Nat} {s0 : State} {ps : List Nat} {s : State} {p} (e : stageFrames ps s = some p) (hK : Frame fw fb s0 s) (hfw : Sub 65546 fw := by exact Sub.within hfw rfl) :
    Frame fw fb s0 p.2 := by
  have := stageFrames_fr ps s hK
  exact this p e

theorem modelStage_fr {fw fb : Nat} {s0 : State} (s : State) (c : Cmd) (hK : Frame fw fb s0 s) (hfw : Sub 1152921504606915082 fw := by exact Sub.within hfw rfl) (hfb : Sub 4096 fb := by exact Sub.within hfb rfl) : Frame fw fb s0 (modelStage s c) := by
  unfold modelStage
  repeat' (first
    | with_reducible assumption
    | with_reducible apply State.failWith_fr
    | with_reducible apply State.setSlot_fr
    | with_reducible apply State.slotRegs_fr
    | with_reducible apply State.stageDone_fr
    | with_reducible apply State.start_fr
    | with_reducible apply State.took_fr
    | with_reducible apply State.wr_fr
    | (with_reducible refine stageFrames_fr _ _ ?_ ?_)
    | (with_reducible apply stageFrames_fr_of; with_reducible assumption)
    | (with_reducible apply stageFrames_fr_at; with_reducible assumption)
    | (with_reducible refine Frame.getD ?_ ?_)
    | (with_reducible refine Frame.ite ?_ ?_)
    | ((with_reducible apply Sub.within hfw); exact rfl)
    | ((with_reducible apply Sub.within hfb); exact rfl)
    | ((with_reducible apply Mixed.of); exact rfl)
    | (apply hfb.bit (i := 12) rfl)
    | (dsimp only [State.wrs, State.regs0, List.foldl])
    | (extract_lets)
    | split
    | (intro _ _ _)
    | (intro _ e; have _hk : Frame _ _ _ _ := e)
    | (intro _ e; cases e)
    | dsimp only
    | (dsimp +zetaDelta only))

theorem execModelStage_fr {fw fb : Nat} {s0 : State} (k : Nat) (s : State) (hK : Frame fw fb s0 s) (hfw : Sub 1152921504606915082 fw := by exact Sub.within hfw rfl) (hfb : Sub 4096 fb := by exact Sub.within hfb rfl) : ∀ u, execModelStage k s = .next u → Frame fw fb s0 u := by
  unfold execModelStage
  repeat' (first
    | with_reducible assumption
    | with_reducible apply State.runCmd_fr
    | with_reducible apply modelStage_fr
    | (with_reducible refine Frame.ite ?_ ?_)
    | ((with_reducible apply Sub.within hfw); exact rfl)
    | ((with_reducible apply Sub.within hfb); exact rfl)
    | ((with_reducible apply Mixed.of); exact rfl)
    | (apply hfb.bit (i := 12) rfl)
    | (extract_lets)
    | split
    | (intro _ _ _)
    | (intro _ e; have _hk : Frame _ _ _ _ := e)
    | (intro _ e; cases e)
    | dsimp only
    | (dsimp +zetaDelta only))

theorem shardIntake_fr {fw fb : Nat} {s0 : State} (s : State) (c : Cmd) (hK : Frame fw fb s0 s) (hfw : Sub 5764607523034235392 fw := by exact Sub.within hfw rfl) (hfb : Sub 4096 fb := by exact Sub.within hfb rfl) : Frame fw fb s0 (shardIntake s c) := by
  have k0 : ∀ (t : State) x0, Frame fw fb s0 t → Frame fw fb s0 { t with windowTurn := x0 } := fun t x0 ht => Frame.upd ht hfw rfl rfl ⟨rfl, rfl, rfl⟩
  unfold shardIntake
  repeat' (first
    | with_reducible assumption
    | with_reducible apply State.assignEngines_fr
    | with_reducible apply State.shardMap_fr
    | with_reducible apply State.slotRegs_fr
    | with_reducible apply State.start_fr
    | (with_reducible refine Frame.ite ?_ ?_)
    | ((with_reducible apply Sub.within hfw); exact rfl)
    | ((with_reducible apply Sub.within hfb); exact rfl)
    | ((with_reducible apply Mixed.of); exact rfl)
    | (apply hfb.bit (i := 12) rfl)
    | (extract_lets)
    | (fail_if_no_progress (with_reducible refine k0 _ _ ?_))
    | split
    | (intro _ _ _)
    | (intro _ e; have _hk : Frame _ _ _ _ := e)
    | (intro _ e; cases e)
    | dsimp only
    | (dsimp +zetaDelta only)
    | (fail_if_no_progress ((with_reducible refine Frame.upd ?_ hfw ?_ rfl ⟨rfl, rfl, rfl⟩); rotate_left; exact rfl)))

theorem execShardIntake_fr {fw fb : Nat} {s0 : State} (k : Nat) (s : State) (hK : Frame fw fb s0 s) (hfw : Sub 5764607523034237440 fw := by exact Sub.within hfw rfl) (hfb : Sub 4096 fb := by exact Sub.within hfb rfl) : ∀ u, execShardIntake k s = .next u → Frame fw fb s0 u := by
  unfold execShardIntake
  repeat' (first
    | with_reducible assumption
    | with_reducible apply State.runCmd_fr
    | with_reducible apply shardIntake_fr
    | (with_reducible refine Frame.ite ?_ ?_)
    | ((with_reducible apply Sub.within hfw); exact rfl)
    | ((with_reducible apply Sub.within hfb); exact rfl)
    | ((with_reducible apply Mixed.of); exact rfl)
    | (apply hfb.bit (i := 12) rfl)
    | (extract_lets)
    | split
    | (intro _ _ _)
    | (intro _ e; have _hk : Frame _ _ _ _ := e)
    | (intro _ e; cases e)
    | dsimp only
    | (dsimp +zetaDelta only))

theorem intakeWrite_fr {fw fb : Nat} {s0 : State} (h off : Nat) (data : List Nat) (s : State) (hK : Frame fw fb s0 s) (hfw : Sub 1152921504606846984 fw := by exact Sub.within hfw rfl) (hfb : Sub 4096 fb := by exact Sub.within hfb rfl) : Frame fw fb s0 (intakeWrite h off data s) := by
  unfold intakeWrite
  repeat' (first
    | with_reducible assumption
    | with_reducible apply State.bump_fr
    | with_reducible apply State.imageWrite_fr
    | with_reducible apply State.shardMap_fr
    | (with_reducible refine Frame.getD ?_ ?_)
    | (with_reducible refine Frame.ite ?_ ?_)
    | ((with_reducible apply Sub.within hfw); exact rfl)
    | ((with_reducible apply Sub.within hfb); exact rfl)
    | ((with_reducible apply Mixed.of); exact rfl)
    | (apply hfb.bit (i := 12) rfl)
    | (extract_lets)
    | split
    | (intro _ _ _)
    | (intro _ e; have _hk : Frame _ _ _ _ := e)
    | (intro _ e; cases e)
    | dsimp only
    | (dsimp +zetaDelta only))

theorem execIntakeWrite_fr {fw fb : Nat} {s0 : State} (h off : Nat) (data : List Nat) (s : State) (hK : Frame fw fb s0 s) (hfw : Sub 1152921504606846984 fw := by exact Sub.within hfw rfl) (hfb : Sub 4097 fb := by exact Sub.within hfb rfl) : ∀ u, execIntakeWrite h off data s = .next u → Frame fw fb s0 u := by
  unfold execIntakeWrite
  repeat' (first
    | with_reducible assumption
    | with_reducible apply State.viaHost_fr
    | with_reducible apply intakeWrite_fr
    | (with_reducible refine Frame.ite ?_ ?_)
    | ((with_reducible apply Sub.within hfw); exact rfl)
    | ((with_reducible apply Sub.within hfb); exact rfl)
    | ((with_reducible apply Mixed.of); exact rfl)
    | (apply hfb.bit (i := 0) rfl)
    | (apply hfb.bit (i := 12) rfl)
    | (extract_lets)
    | split
    | (intro _ _ _)
    | (intro _ e; have _hk : Frame _ _ _ _ := e)
    | (intro _ e; cases e)
    | dsimp only
    | (dsimp +zetaDelta only))

theorem State.shardVerified_fr {fw fb : Nat} {s0 : State} (s : State) (n : Nat) (x : Shard) (hK : Frame fw fb s0 s) (hfw : Sub 1152921504606849536 fw := by exact Sub.within hfw rfl) (hfb : Sub 4096 fb := by exact Sub.within hfb rfl) : Frame fw fb s0 (State.shardVerified s n x) := by
  unfold State.shardVerified
  repeat' (first
    | with_reducible assumption
    | with_reducible apply State.bump_fr
    | with_reducible apply State.closeWindow_fr
    | with_reducible apply State.doneWith_fr
    | with_reducible apply State.shardMap_fr
    | with_reducible apply State.stageDone_fr
    | (with_reducible refine Frame.ite ?_ ?_)
    | ((with_reducible apply Sub.within hfw); exact rfl)
    | ((with_reducible apply Sub.within hfb); exact rfl)
    | ((with_reducible apply Mixed.of); exact rfl)
    | (apply hfb.bit (i := 12) rfl)
    | (extract_lets)
    | split
    | (intro _ _ _)
    | (intro _ e; have _hk : Frame _ _ _ _ := e)
    | (intro _ e; cases e)
    | dsimp only
    | (dsimp +zetaDelta only))

theorem digestComplete_fr {fw fb : Nat} {s0 : State} (n no : Nat) (s : State) (hK : Frame fw fb s0 s) (hfw : Sub 10376293541461691088 fw := by exact Sub.within hfw rfl) (hfb : Sub 135168 fb := by exact Sub.within hfb rfl) : Frame fw fb s0 (digestComplete n no s) := by
  unfold digestComplete
  repeat' (first
    | with_reducible assumption
    | with_reducible apply State.bump_fr
    | with_reducible apply State.shardBack_fr
    | with_reducible apply State.shardCmd_fr
    | with_reducible apply State.shardMap_fr
    | with_reducible apply State.shardVerified_fr
    | with_reducible apply State.slotFails_fr
    | with_reducible apply State.slotRegs_fr
    | (with_reducible refine Frame.ite ?_ ?_)
    | ((with_reducible apply Sub.within hfw); exact rfl)
    | ((with_reducible apply Sub.within hfb); exact rfl)
    | ((with_reducible apply Mixed.of); exact rfl)
    | (apply hfb.bit (i := 12) rfl)
    | (apply hfb.bit (i := 17) rfl)
    | (extract_lets)
    | split
    | (intro _ _ _)
    | (intro _ e; have _hk : Frame _ _ _ _ := e)
    | (intro _ e; cases e)
    | dsimp only
    | (dsimp +zetaDelta only))

theorem execDigestComplete_fr {fw fb : Nat} {s0 : State} (slot shard : Nat) (s : State) (hK : Frame fw fb s0 s) (hfw : Sub 10376293541461691088 fw := by exact Sub.within hfw rfl) (hfb : Sub 135168 fb := by exact Sub.within hfb rfl) : ∀ u, execDigestComplete slot shard s = .next u → Frame fw fb s0 u := by
  unfold execDigestComplete
  repeat' (first
    | with_reducible assumption
    | with_reducible apply digestComplete_fr
    | (with_reducible refine Frame.ite ?_ ?_)
    | ((with_reducible apply Sub.within hfw); exact rfl)
    | ((with_reducible apply Sub.within hfb); exact rfl)
    | ((with_reducible apply Mixed.of); exact rfl)
    | (apply hfb.bit (i := 12) rfl)
    | (apply hfb.bit (i := 17) rfl)
    | (extract_lets)
    | split
    | (intro _ _ _)
    | (intro _ e; have _hk : Frame _ _ _ _ := e)
    | (intro _ e; cases e)
    | dsimp only
    | (dsimp +zetaDelta only))

theorem donorCopyComplete_fr {fw fb : Nat} {s0 : State} (n no detail : Nat) (data : List Nat) (s : State) (hK : Frame fw fb s0 s) (hfw : Sub 1152921504606849544 fw := by exact Sub.within hfw rfl) (hfb : Sub 4096 fb := by exact Sub.within hfb rfl) : Frame fw fb s0 (donorCopyComplete n no detail data s) := by
  unfold donorCopyComplete
  repeat' (first
    | with_reducible assumption
    | with_reducible apply State.imageWrite_fr
    | with_reducible apply State.shardBack_fr
    | with_reducible apply State.shardCmd_fr
    | with_reducible apply State.shardMap_fr
    | with_reducible apply State.shardVerified_fr
    | with_reducible apply State.slotRegs_fr
    | (with_reducible refine Frame.ite ?_ ?_)
    | ((with_reducible apply Sub.within hfw); exact rfl)
    | ((with_reducible apply Sub.within hfb); exact rfl)
    | ((with_reducible apply Mixed.of); exact rfl)
    | (apply hfb.bit (i := 12) rfl)
    | (extract_lets)
    | split
    | (intro _ _ _)
    | (intro _ e; have _hk : Frame _ _ _ _ := e)
    | (intro _ e; cases e)
    | dsimp only
    | (dsimp +zetaDelta only))

theorem execDonorCopyComplete_fr {fw fb : Nat} {s0 : State} (slot shard detail : Nat) (data : List Nat) (s : State) (hK : Frame fw fb s0 s) (hfw : Sub 1152921504606849544 fw := by exact Sub.within hfw rfl) (hfb : Sub 4096 fb := by exact Sub.within hfb rfl) : ∀ u, execDonorCopyComplete slot shard detail data s = .next u → Frame fw fb s0 u := by
  unfold execDonorCopyComplete
  repeat' (first
    | with_reducible assumption
    | with_reducible apply donorCopyComplete_fr
    | (with_reducible refine Frame.ite ?_ ?_)
    | ((with_reducible apply Sub.within hfw); exact rfl)
    | ((with_reducible apply Sub.within hfb); exact rfl)
    | ((with_reducible apply Mixed.of); exact rfl)
    | (apply hfb.bit (i := 12) rfl)
    | (extract_lets)
    | split
    | (intro _ _ _)
    | (intro _ e; have _hk : Frame _ _ _ _ := e)
    | (intro _ e; cases e)
    | dsimp only
    | (dsimp +zetaDelta only))

theorem shardTimerExpiry_fr {fw fb : Nat} {s0 : State} (n no : Nat) (s : State) (hK : Frame fw fb s0 s) (hfw : Sub 10376293541461691088 fw := by exact Sub.within hfw rfl) (hfb : Sub 135168 fb := by exact Sub.within hfb rfl) : Frame fw fb s0 (shardTimerExpiry n no s) := by
  unfold shardTimerExpiry
  repeat' (first
    | with_reducible assumption
    | with_reducible apply State.closeWindow_fr
    | with_reducible apply State.shardBack_fr
    | with_reducible apply State.shardCmd_fr
    | with_reducible apply State.slotFails_fr
    | with_reducible apply State.slotRegs_fr
    | (with_reducible refine Frame.ite ?_ ?_)
    | ((with_reducible apply Sub.within hfw); exact rfl)
    | ((with_reducible apply Sub.within hfb); exact rfl)
    | ((with_reducible apply Mixed.of); exact rfl)
    | (apply hfb.bit (i := 12) rfl)
    | (apply hfb.bit (i := 17) rfl)
    | (extract_lets)
    | split
    | (intro _ _ _)
    | (intro _ e; have _hk : Frame _ _ _ _ := e)
    | (intro _ e; cases e)
    | dsimp only
    | (dsimp +zetaDelta only))

theorem execShardTimerExpiry_fr {fw fb : Nat} {s0 : State} (slot shard : Nat) (s : State) (hK : Frame fw fb s0 s) (hfw : Sub 10376293541461691088 fw := by exact Sub.within hfw rfl) (hfb : Sub 135168 fb := by exact Sub.within hfb rfl) : ∀ u, execShardTimerExpiry slot shard s = .next u → Frame fw fb s0 u := by
  unfold execShardTimerExpiry
  repeat' (first
    | with_reducible assumption
    | with_reducible apply shardTimerExpiry_fr
    | (with_reducible refine Frame.ite ?_ ?_)
    | ((with_reducible apply Sub.within hfw); exact rfl)
    | ((with_reducible apply Sub.within hfb); exact rfl)
    | ((with_reducible apply Mixed.of); exact rfl)
    | (apply hfb.bit (i := 12) rfl)
    | (apply hfb.bit (i := 17) rfl)
    | (extract_lets)
    | split
    | (intro _ _ _)
    | (intro _ e; have _hk : Frame _ _ _ _ := e)
    | (intro _ e; cases e)
    | dsimp only
    | (dsimp +zetaDelta only))

theorem State.recheckOne_fr {fw fb : Nat} {s0 : State} (s : State) (p : Nat × Nat) (hK : Frame fw fb s0 s) (hfw : Sub 1152921504606847184 fw := by exact Sub.within hfw rfl) (hfb : Sub 135168 fb := by exact Sub.within hfb rfl) : Frame fw fb s0 (State.recheckOne s p) := by
  unfold State.recheckOne
  repeat' (first
    | with_reducible assumption
    | with_reducible apply State.bump_fr
    | with_reducible apply State.shardCorrupt_fr
    | with_reducible apply State.shardMap_fr
    | (with_reducible refine Frame.ite ?_ ?_)
    | ((with_reducible apply Sub.within hfw); exact rfl)
    | ((with_reducible apply Sub.within hfb); exact rfl)
    | ((with_reducible apply Mixed.of); exact rfl)
    | (apply hfb.bit (i := 12) rfl)
    | (apply hfb.bit (i := 17) rfl)
    | (extract_lets)
    | split
    | (intro _ _ _)
    | (intro _ e; have _hk : Frame _ _ _ _ := e)
    | (intro _ e; cases e)
    | dsimp only
    | (dsimp +zetaDelta only))

theorem recheckShard_fr {fw fb : Nat} {s0 : State} (s : State) (hK : Frame fw fb s0 s) (hfw : Sub 28823037615171174608 fw := by exact Sub.within hfw rfl) (hfb : Sub 135168 fb := by exact Sub.within hfb rfl) : Frame fw fb s0 (recheckShard s) := by
  have key : ∀ r v, Frame fw fb s0 { s with recheck := r, recheckAt := v } := fun r v => Frame.upd hK hfw rfl rfl ⟨rfl, rfl, rfl⟩
  unfold recheckShard
  extract_lets l
  clear_value l
  split
  · exact hK
  · cases l with
    | nil => exact hK
    | cons p r => exact Frame.ite (State.bump_fr _ _ _ (State.recheckOne_fr _ _ (key _ _))) (State.recheckOne_fr _ _ (key _ _))

theorem execRecheckShard_fr {fw fb : Nat} {s0 : State} (s : State) (hK : Frame fw fb s0 s) (hfw : Sub 28823037615171174608 fw := by exact Sub.within hfw rfl) (hfb : Sub 135168 fb := by exact Sub.within hfb rfl) : ∀ u, execRecheckShard s = .next u → Frame fw fb s0 u := by
  unfold execRecheckShard
  repeat' (first
    | with_reducible assumption
    | with_reducible apply recheckShard_fr
    | (with_reducible refine Frame.ite ?_ ?_)
    | ((with_reducible apply Sub.within hfw); exact rfl)
    | ((with_reducible apply Sub.within hfb); exact rfl)
    | ((with_reducible apply Mixed.of); exact rfl)
    | (apply hfb.bit (i := 12) rfl)
    | (apply hfb.bit (i := 17) rfl)
    | (extract_lets)
    | split
    | (intro _ _ _)
    | (intro _ e; have _hk : Frame _ _ _ _ := e)
    | (intro _ e; cases e)
    | dsimp only
    | (dsimp +zetaDelta only))

theorem shardVerify_fr {fw fb : Nat} {s0 : State} (s : State) (c : Cmd) (hK : Frame fw fb s0 s) (hfw : Sub 1152921504606849744 fw := by exact Sub.within hfw rfl) (hfb : Sub 135168 fb := by exact Sub.within hfb rfl) : Frame fw fb s0 (shardVerify s c) := by
  unfold shardVerify
  repeat' (first
    | with_reducible assumption
    | with_reducible apply State.bump_fr
    | with_reducible apply State.doneWith_fr
    | with_reducible apply State.failWith_fr
    | with_reducible apply State.shardCorrupt_fr
    | with_reducible apply State.shardMap_fr
    | (with_reducible refine Frame.foldl ?_ ?_)
    | (with_reducible refine Frame.foldr ?_ ?_)
    | (with_reducible refine Frame.ite ?_ ?_)
    | ((with_reducible apply Sub.within hfw); exact rfl)
    | ((with_reducible apply Sub.within hfb); exact rfl)
    | ((with_reducible apply Mixed.of); exact rfl)
    | (apply hfb.bit (i := 12) rfl)
    | (apply hfb.bit (i := 17) rfl)
    | (extract_lets)
    | split
    | (intro _ _ _)
    | (intro _ e; have _hk : Frame _ _ _ _ := e)
    | (intro _ e; cases e)
    | dsimp only
    | (dsimp +zetaDelta only))

theorem execShardVerify_fr {fw fb : Nat} {s0 : State} (k : Nat) (s : State) (hK : Frame fw fb s0 s) (hfw : Sub 1152921504606849744 fw := by exact Sub.within hfw rfl) (hfb : Sub 135168 fb := by exact Sub.within hfb rfl) : ∀ u, execShardVerify k s = .next u → Frame fw fb s0 u := by
  unfold execShardVerify
  repeat' (first
    | with_reducible assumption
    | with_reducible apply State.runCmd_fr
    | with_reducible apply shardVerify_fr
    | (with_reducible refine Frame.ite ?_ ?_)
    | ((with_reducible apply Sub.within hfw); exact rfl)
    | ((with_reducible apply Sub.within hfb); exact rfl)
    | ((with_reducible apply Mixed.of); exact rfl)
    | (apply hfb.bit (i := 12) rfl)
    | (apply hfb.bit (i := 17) rfl)
    | (extract_lets)
    | split
    | (intro _ _ _)
    | (intro _ e; have _hk : Frame _ _ _ _ := e)
    | (intro _ e; cases e)
    | dsimp only
    | (dsimp +zetaDelta only))

theorem State.weightBlockFails_fr {fw fb : Nat} {s0 : State} (s : State) (n off : Nat) (hK : Frame fw fb s0 s) (hfw : Sub 1152921504606847184 fw := by exact Sub.within hfw rfl) (hfb : Sub 135168 fb := by exact Sub.within hfb rfl) : Frame fw fb s0 (State.weightBlockFails s n off) := by
  unfold State.weightBlockFails
  repeat' (first
    | with_reducible assumption
    | with_reducible apply State.shardCorrupt_fr
    | with_reducible apply State.shardMap_fr
    | (with_reducible refine Frame.ite ?_ ?_)
    | ((with_reducible apply Sub.within hfw); exact rfl)
    | ((with_reducible apply Sub.within hfb); exact rfl)
    | ((with_reducible apply Mixed.of); exact rfl)
    | (apply hfb.bit (i := 12) rfl)
    | (apply hfb.bit (i := 17) rfl)
    | (extract_lets)
    | split
    | (intro _ _ _)
    | (intro _ e; have _hk : Frame _ _ _ _ := e)
    | (intro _ e; cases e)
    | dsimp only
    | (dsimp +zetaDelta only))

theorem State.swapIn_fr {fw fb : Nat} {s0 : State} (s : State) (n : Nat) (x : Shard) (hK : Frame fw fb s0 s) (hfw : Sub 1153062242632073224 fw := by exact Sub.within hfw rfl) (hfb : Sub 4624 fb := by exact Sub.within hfb rfl) : Frame fw fb s0 (State.swapIn s n x) := by
  have key : ∀ t v, Frame fw fb s0 t → Frame fw fb s0 { t with launches := v } := fun t v ht => Frame.upd ht hfw rfl rfl ⟨rfl, rfl, rfl⟩
  unfold State.swapIn
  extract_lets t u v
  have hv : Frame fw fb s0 v := Frame.foldl (fun t q ht => State.broadcast_fr _ _ _ _ _ _ _ _ _ ht) (State.shardMap_fr _ _ _ _ (State.imageWrite_fr _ _ _ _ hK))
  exact State.slotRegs_fr _ _ (State.bump_fr _ _ _ (key v _ hv))

theorem repairWaitTimeout_fr {fw fb : Nat} {s0 : State} (i : Nat) (s : State) (hK : Frame fw fb s0 s) (hfw : Sub 774056185956864 fw := by exact Sub.within hfw rfl) (hfb : Sub 20 fb := by exact Sub.within hfb rfl) : Frame fw fb s0 (repairWaitTimeout i s) := by
  unfold repairWaitTimeout
  repeat' (first
    | with_reducible assumption
    | with_reducible apply State.endLaunch_fr
    | with_reducible apply State.launchMap_fr
    | (with_reducible refine Frame.getD ?_ ?_)
    | (with_reducible refine Frame.ite ?_ ?_)
    | ((with_reducible apply Sub.within hfw); exact rfl)
    | ((with_reducible apply Sub.within hfb); exact rfl)
    | ((with_reducible apply Mixed.of); exact rfl)
    | (apply hfb.bit (i := 2) rfl)
    | (apply hfb.bit (i := 4) rfl)
    | (extract_lets)
    | split
    | (intro _ _ _)
    | (intro _ e; have _hk : Frame _ _ _ _ := e)
    | (intro _ e; cases e)
    | dsimp only
    | (dsimp +zetaDelta only))

theorem execRepairWaitTimeout_fr {fw fb : Nat} {s0 : State} (launch : Nat) (s : State) (hK : Frame fw fb s0 s) (hfw : Sub 774056185956864 fw := by exact Sub.within hfw rfl) (hfb : Sub 20 fb := by exact Sub.within hfb rfl) : ∀ u, execRepairWaitTimeout launch s = .next u → Frame fw fb s0 u := by
  unfold execRepairWaitTimeout
  repeat' (first
    | with_reducible assumption
    | with_reducible apply repairWaitTimeout_fr
    | (with_reducible refine Frame.ite ?_ ?_)
    | ((with_reducible apply Sub.within hfw); exact rfl)
    | ((with_reducible apply Sub.within hfb); exact rfl)
    | ((with_reducible apply Mixed.of); exact rfl)
    | (apply hfb.bit (i := 2) rfl)
    | (apply hfb.bit (i := 4) rfl)
    | (extract_lets)
    | split
    | (intro _ _ _)
    | (intro _ e; have _hk : Frame _ _ _ _ := e)
    | (intro _ e; cases e)
    | dsimp only
    | (dsimp +zetaDelta only))

theorem State.slotRouters_fr {fw fb : Nat} {s0 : State} (s : State) (c slot : Nat) (hK : Frame fw fb s0 s) (hfw : Sub 103079215104 fw := by exact Sub.within hfw rfl) (hfb : Sub 128 fb := by exact Sub.within hfb rfl) : Frame fw fb s0 (State.slotRouters s c slot) := by
  unfold State.slotRouters
  repeat' (first
    | with_reducible assumption
    | with_reducible apply State.routersDrop_fr
    | (with_reducible refine Frame.ite ?_ ?_)
    | ((with_reducible apply Sub.within hfw); exact rfl)
    | ((with_reducible apply Sub.within hfb); exact rfl)
    | ((with_reducible apply Mixed.of); exact rfl)
    | (apply hfb.bit (i := 7) rfl)
    | (extract_lets)
    | split
    | (intro _ _ _)
    | (intro _ e; have _hk : Frame _ _ _ _ := e)
    | (intro _ e; cases e)
    | dsimp only
    | (dsimp +zetaDelta only))

theorem State.switchOff_fr {fw fb : Nat} {s0 : State} (s : State) (c : Nat) (hK : Frame fw fb s0 s) (hfw : Sub 2305843112292911616 fw := by exact Sub.within hfw rfl) (hfb : Sub 128 fb := by exact Sub.within hfb rfl) : Frame fw fb s0 (State.switchOff s c) := by
  have k0 : ∀ (t : State) x0, Frame fw fb s0 t → Frame fw fb s0 { t with switches := x0 } := fun t x0 ht => Frame.upd ht hfw rfl rfl ⟨rfl, rfl, rfl⟩
  unfold State.switchOff
  repeat' (first
    | with_reducible assumption
    | with_reducible apply State.failWith_fr
    | with_reducible apply State.slotRouters_fr
    | (with_reducible refine Frame.ite ?_ ?_)
    | ((with_reducible apply Sub.within hfw); exact rfl)
    | ((with_reducible apply Sub.within hfb); exact rfl)
    | ((with_reducible apply Mixed.of); exact rfl)
    | (apply hfb.bit (i := 7) rfl)
    | (extract_lets)
    | (fail_if_no_progress (with_reducible refine k0 _ _ ?_))
    | split
    | (intro _ _ _)
    | (intro _ e; have _hk : Frame _ _ _ _ := e)
    | (intro _ e; cases e)
    | dsimp only
    | (dsimp +zetaDelta only)
    | (fail_if_no_progress ((with_reducible refine Frame.upd ?_ hfw ?_ rfl ⟨rfl, rfl, rfl⟩); rotate_left; exact rfl)))

theorem modelSwitch_fr {fw fb : Nat} {s0 : State} (s : State) (c : Cmd) (hK : Frame fw fb s0 s) (hfw : Sub 2305843112292911616 fw := by exact Sub.within hfw rfl) (hfb : Sub 128 fb := by exact Sub.within hfb rfl) : Frame fw fb s0 (modelSwitch s c) := by
  have k0 : ∀ (t : State) x0, Frame fw fb s0 t → Frame fw fb s0 { t with switches := x0 } := fun t x0 ht => Frame.upd ht hfw rfl rfl ⟨rfl, rfl, rfl⟩
  unfold modelSwitch
  repeat' (first
    | with_reducible assumption
    | with_reducible apply State.start_fr
    | with_reducible apply State.switchOff_fr
    | (with_reducible refine Frame.ite ?_ ?_)
    | ((with_reducible apply Sub.within hfw); exact rfl)
    | ((with_reducible apply Sub.within hfb); exact rfl)
    | ((with_reducible apply Mixed.of); exact rfl)
    | (apply hfb.bit (i := 7) rfl)
    | (extract_lets)
    | (fail_if_no_progress (with_reducible refine k0 _ _ ?_))
    | split
    | (intro _ _ _)
    | (intro _ e; have _hk : Frame _ _ _ _ := e)
    | (intro _ e; cases e)
    | dsimp only
    | (dsimp +zetaDelta only)
    | (fail_if_no_progress ((with_reducible refine Frame.upd ?_ hfw ?_ rfl ⟨rfl, rfl, rfl⟩); rotate_left; exact rfl)))

theorem execModelSwitch_fr {fw fb : Nat} {s0 : State} (k : Nat) (s : State) (hK : Frame fw fb s0 s) (hfw : Sub 2305843112292911616 fw := by exact Sub.within hfw rfl) (hfb : Sub 128 fb := by exact Sub.within hfb rfl) : ∀ u, execModelSwitch k s = .next u → Frame fw fb s0 u := by
  unfold execModelSwitch
  repeat' (first
    | with_reducible assumption
    | with_reducible apply State.runCmd_fr
    | with_reducible apply modelSwitch_fr
    | (with_reducible refine Frame.ite ?_ ?_)
    | ((with_reducible apply Sub.within hfw); exact rfl)
    | ((with_reducible apply Sub.within hfb); exact rfl)
    | ((with_reducible apply Mixed.of); exact rfl)
    | (apply hfb.bit (i := 7) rfl)
    | (extract_lets)
    | split
    | (intro _ _ _)
    | (intro _ e; have _hk : Frame _ _ _ _ := e)
    | (intro _ e; cases e)
    | dsimp only
    | (dsimp +zetaDelta only))

theorem execModelSwitchCancel_fr {fw fb : Nat} {s0 : State} (k : Nat) (s : State) (hK : Frame fw fb s0 s) (hfw : Sub 2305843112292911616 fw := by exact Sub.within hfw rfl) (hfb : Sub 128 fb := by exact Sub.within hfb rfl) : ∀ u, execModelSwitchCancel k s = .next u → Frame fw fb s0 u := by
  unfold execModelSwitchCancel
  repeat' (first
    | with_reducible assumption
    | with_reducible apply State.doneWith_fr
    | with_reducible apply State.runCmd_fr
    | with_reducible apply State.switchOff_fr
    | (with_reducible refine Frame.ite ?_ ?_)
    | ((with_reducible apply Sub.within hfw); exact rfl)
    | ((with_reducible apply Sub.within hfb); exact rfl)
    | ((with_reducible apply Mixed.of); exact rfl)
    | (apply hfb.bit (i := 7) rfl)
    | (extract_lets)
    | split
    | (intro _ _ _)
    | (intro _ e; have _hk : Frame _ _ _ _ := e)
    | (intro _ e; cases e)
    | dsimp only
    | (dsimp +zetaDelta only))

theorem State.nameSlot_fr {fw fb : Nat} {s0 : State} (s : State) (c : Nat) (slot : Option Nat) (hK : Frame fw fb s0 s) (hfw : Sub 32768 fw := by exact Sub.within hfw rfl) (hfb : Sub 4096 fb := by exact Sub.within hfb rfl) : Frame fw fb s0 (State.nameSlot s c slot) := by
  unfold State.nameSlot
  repeat' (first
    | with_reducible assumption
    | with_reducible apply State.setCtx_fr
    | with_reducible apply State.slotRegs_fr
    | (with_reducible refine Frame.ite ?_ ?_)
    | ((with_reducible apply Sub.within hfw); exact rfl)
    | ((with_reducible apply Sub.within hfb); exact rfl)
    | ((with_reducible apply Mixed.of); exact rfl)
    | (apply hfb.bit (i := 12) rfl)
    | (extract_lets)
    | split
    | (intro _ _ _)
    | (intro _ e; have _hk : Frame _ _ _ _ := e)
    | (intro _ e; cases e)
    | dsimp only
    | (dsimp +zetaDelta only))

theorem State.stepSlotOf_fr {fw fb : Nat} {s0 : State} (s : State) (c slot : Nat) (hK : Frame fw fb s0 s) (hfw : Sub 274877906944 fw := by exact Sub.within hfw rfl) : Frame fw fb s0 (State.stepSlotOf s c slot) := by
  have k0 : ∀ (t : State) x0, Frame fw fb s0 t → Frame fw fb s0 { t with stepSlots := x0 } := fun t x0 ht => Frame.upd ht hfw rfl rfl ⟨rfl, rfl, rfl⟩
  unfold State.stepSlotOf
  repeat' (first
    | with_reducible assumption
    | (with_reducible refine Frame.ite ?_ ?_)
    | ((with_reducible apply Sub.within hfw); exact rfl)
    | ((with_reducible apply Sub.within hfb); exact rfl)
    | ((with_reducible apply Mixed.of); exact rfl)
    | (extract_lets)
    | (fail_if_no_progress (with_reducible refine k0 _ _ ?_))
    | split
    | (intro _ _ _)
    | (intro _ e; have _hk : Frame _ _ _ _ := e)
    | (intro _ e; cases e)
    | dsimp only
    | (dsimp +zetaDelta only)
    | (fail_if_no_progress ((with_reducible refine Frame.upd ?_ hfw ?_ rfl ⟨rfl, rfl, rfl⟩); rotate_left; exact rfl)))

theorem State.switchTake_fr {fw fb : Nat} {s0 : State} (s : State) (c n : Nat) (hK : Frame fw fb s0 s) (hfw : Sub 2305843387170851328 fw := by exact Sub.within hfw rfl) (hfb : Sub 4224 fb := by exact Sub.within hfb rfl) : Frame fw fb s0 (State.switchTake s c n) := by
  have k0 : ∀ (t : State) x0, Frame fw fb s0 t → Frame fw fb s0 { t with switches := x0 } := fun t x0 ht => Frame.upd ht hfw rfl rfl ⟨rfl, rfl, rfl⟩
  unfold State.switchTake
  repeat' (first
    | with_reducible assumption
    | with_reducible apply State.doneWith_fr
    | with_reducible apply State.nameSlot_fr
    | with_reducible apply State.slotRouters_fr
    | with_reducible apply State.stepSlotOf_fr
    | (with_reducible refine Frame.getD ?_ ?_)
    | (with_reducible refine Frame.ite ?_ ?_)
    | ((with_reducible apply Sub.within hfw); exact rfl)
    | ((with_reducible apply Sub.within hfb); exact rfl)
    | ((with_reducible apply Mixed.of); exact rfl)
    | (apply hfb.bit (i := 7) rfl)
    | (apply hfb.bit (i := 12) rfl)
    | (extract_lets)
    | (fail_if_no_progress (with_reducible refine k0 _ _ ?_))
    | split
    | (intro _ _ _)
    | (intro _ e; have _hk : Frame _ _ _ _ := e)
    | (intro _ e; cases e)
    | dsimp only
    | (dsimp +zetaDelta only)
    | (fail_if_no_progress ((with_reducible refine Frame.upd ?_ hfw ?_ rfl ⟨rfl, rfl, rfl⟩); rotate_left; exact rfl)))

theorem State.intakeHostLost_fr {fw fb : Nat} {s0 : State} (s : State) (h : Nat) (hK : Frame fw fb s0 s) (hfw : Sub 1152921504606849536 fw := by exact Sub.within hfw rfl) (hfb : Sub 4096 fb := by exact Sub.within hfb rfl) : Frame fw fb s0 (State.intakeHostLost s h) := by
  unfold State.intakeHostLost
  repeat' (first
    | with_reducible assumption
    | with_reducible apply State.shardBack_fr
    | with_reducible apply State.shardCmd_fr
    | with_reducible apply State.slotRegs_fr
    | (with_reducible refine Frame.foldl ?_ ?_)
    | (with_reducible refine Frame.foldr ?_ ?_)
    | (with_reducible refine Frame.ite ?_ ?_)
    | ((with_reducible apply Sub.within hfw); exact rfl)
    | ((with_reducible apply Sub.within hfb); exact rfl)
    | ((with_reducible apply Mixed.of); exact rfl)
    | (apply hfb.bit (i := 12) rfl)
    | (extract_lets)
    | split
    | (intro _ _ _)
    | (intro _ e; have _hk : Frame _ _ _ _ := e)
    | (intro _ e; cases e)
    | dsimp only
    | (dsimp +zetaDelta only))

theorem State.intakeAbort_fr {fw fb : Nat} {s0 : State} (s : State) (hK : Frame fw fb s0 s) (hfw : Sub 3458764616899758592 fw := by exact Sub.within hfw rfl) (hfb : Sub 4224 fb := by exact Sub.within hfb rfl) : Frame fw fb s0 (State.intakeAbort s) := by
  unfold State.intakeAbort
  repeat' (first
    | with_reducible assumption
    | with_reducible apply State.shardBack_fr
    | with_reducible apply State.shardCmd_fr
    | with_reducible apply State.slotRegs_fr
    | with_reducible apply State.switchOff_fr
    | (with_reducible refine Frame.foldl ?_ ?_)
    | (with_reducible refine Frame.foldr ?_ ?_)
    | (with_reducible refine Frame.ite ?_ ?_)
    | ((with_reducible apply Sub.within hfw); exact rfl)
    | ((with_reducible apply Sub.within hfb); exact rfl)
    | ((with_reducible apply Mixed.of); exact rfl)
    | (apply hfb.bit (i := 7) rfl)
    | (apply hfb.bit (i := 12) rfl)
    | (extract_lets)
    | split
    | (intro _ _ _)
    | (intro _ e; have _hk : Frame _ _ _ _ := e)
    | (intro _ e; cases e)
    | dsimp only
    | (dsimp +zetaDelta only))

theorem State.engineLost_fr {fw fb : Nat} {s0 : State} (s : State) (e : Nat) (hK : Frame fw fb s0 s) (hfw : Sub 1152921504606849536 fw := by exact Sub.within hfw rfl) (hfb : Sub 4096 fb := by exact Sub.within hfb rfl) : Frame fw fb s0 (State.engineLost s e) := by
  unfold State.engineLost
  repeat' (first
    | with_reducible assumption
    | with_reducible apply State.engineReg_fr
    | with_reducible apply State.shardBack_fr
    | with_reducible apply State.shardCmd_fr
    | with_reducible apply State.slotRegs_fr
    | (with_reducible refine Frame.foldl ?_ ?_)
    | (with_reducible refine Frame.foldr ?_ ?_)
    | (with_reducible refine Frame.ite ?_ ?_)
    | ((with_reducible apply Sub.within hfw); exact rfl)
    | ((with_reducible apply Sub.within hfb); exact rfl)
    | ((with_reducible apply Mixed.of); exact rfl)
    | (apply hfb.bit (i := 12) rfl)
    | (extract_lets)
    | split
    | (intro _ _ _)
    | (intro _ e; have _hk : Frame _ _ _ _ := e)
    | (intro _ e; cases e)
    | dsimp only
    | (dsimp +zetaDelta only))

end Sys2Proof.Machine
end

