-- ==== Sys2Proof/Laws/Frame/PowerOps.lean ====
section
/-! SUPPORT. What the operations of Machine/PowerOps.lean leave as it was (`Frame`): one lemma each. -/

set_option linter.unreachableTactic false
set_option linter.unusedTactic false

namespace Sys2Proof.Machine

set_option Elab.async false

open Sys2Proof

theorem State.exhausted_fr {fw fb : Nat} {s0 : State} (s : State) (cls g u : Nat) (hK : Frame fw fb s0 s) (hfw : Sub 208 fw := by exact Sub.within hfw rfl) (hfb : Sub 165888 fb := by exact Sub.within hfb rfl) : Frame fw fb s0 (State.exhausted s cls g u) := by
  unfold State.exhausted
  repeat' (first
    | with_reducible assumption
    | with_reducible apply State.bump_fr
    | with_reducible apply State.record_fr
    | with_reducible apply State.wr_fr
    | (with_reducible refine Frame.ite ?_ ?_)
    | ((with_reducible apply Sub.within hfw); exact rfl)
    | ((with_reducible apply Sub.within hfb); exact rfl)
    | ((with_reducible apply Mixed.of); exact rfl)
    | (apply hfb.bit (i := 11) rfl)
    | (apply hfb.bit (i := 15) rfl)
    | (apply hfb.bit (i := 17) rfl)
    | (extract_lets)
    | split
    | (intro _ _ _)
    | (intro _ e; have _hk : Frame _ _ _ _ := e)
    | (intro _ e; cases e)
    | dsimp only
    | (dsimp +zetaDelta only))

theorem State.railTo_fr {fw fb : Nat} {s0 : State} (s : State) (d v : Nat) (hK : Frame fw fb s0 s) (hfw : Sub 73786976294838206464 fw := by exact Sub.within hfw rfl) (hfb : Sub 8192 fb := by exact Sub.within hfb rfl) : Frame fw fb s0 (State.railTo s d v) := by
  have k0 : ∀ (t : State) x0, Frame fw fb s0 t → Frame fw fb s0 { t with power := x0 } := fun t x0 ht => Frame.upd ht hfw rfl rfl ⟨rfl, rfl, rfl⟩
  unfold State.railTo
  repeat' (first
    | with_reducible assumption
    | with_reducible apply State.wr_fr
    | (with_reducible refine Frame.ite ?_ ?_)
    | ((with_reducible apply Sub.within hfw); exact rfl)
    | ((with_reducible apply Sub.within hfb); exact rfl)
    | ((with_reducible apply Mixed.of); exact rfl)
    | (apply hfb.bit (i := 13) rfl)
    | (extract_lets)
    | (fail_if_no_progress (with_reducible refine k0 _ _ ?_))
    | split
    | (intro _ _ _)
    | (intro _ e; have _hk : Frame _ _ _ _ := e)
    | (intro _ e; cases e)
    | dsimp only
    | (dsimp +zetaDelta only)
    | (fail_if_no_progress ((with_reducible refine Frame.upd ?_ hfw ?_ rfl ⟨rfl, rfl, rfl⟩); rotate_left; exact rfl)))

theorem State.limitReg_fr {fw fb : Nat} {s0 : State} (s : State) (d : Nat) (hK : Frame fw fb s0 s) (hfb : Sub 8192 fb := by exact Sub.within hfb rfl) : Frame fw fb s0 (State.limitReg s d) := by
  unfold State.limitReg
  repeat' (first
    | with_reducible assumption
    | with_reducible apply State.wr_fr
    | (with_reducible refine Frame.ite ?_ ?_)
    | ((with_reducible apply Sub.within hfw); exact rfl)
    | ((with_reducible apply Sub.within hfb); exact rfl)
    | ((with_reducible apply Mixed.of); exact rfl)
    | (apply hfb.bit (i := 13) rfl)
    | (extract_lets)
    | split
    | (intro _ _ _)
    | (intro _ e; have _hk : Frame _ _ _ _ := e)
    | (intro _ e; cases e)
    | dsimp only
    | (dsimp +zetaDelta only))

theorem State.halveLimits_fr {fw fb : Nat} {s0 : State} (s : State) (hK : Frame fw fb s0 s) (hfw : Sub 73786976294838206464 fw := by exact Sub.within hfw rfl) (hfb : Sub 8192 fb := by exact Sub.within hfb rfl) : Frame fw fb s0 (State.halveLimits s) := by
  have k0 : ∀ (t : State) x0, Frame fw fb s0 t → Frame fw fb s0 { t with power := x0 } := fun t x0 ht => Frame.upd ht hfw rfl rfl ⟨rfl, rfl, rfl⟩
  unfold State.halveLimits
  repeat' (first
    | with_reducible assumption
    | with_reducible apply State.limitReg_fr
    | (with_reducible refine Frame.foldl ?_ ?_)
    | (with_reducible refine Frame.foldr ?_ ?_)
    | (with_reducible refine Frame.getD ?_ ?_)
    | (with_reducible refine Frame.ite ?_ ?_)
    | ((with_reducible apply Sub.within hfw); exact rfl)
    | ((with_reducible apply Sub.within hfb); exact rfl)
    | ((with_reducible apply Mixed.of); exact rfl)
    | (apply hfb.bit (i := 13) rfl)
    | (extract_lets)
    | (fail_if_no_progress (with_reducible refine k0 _ _ ?_))
    | split
    | (intro _ _ _)
    | (intro _ e; have _hk : Frame _ _ _ _ := e)
    | (intro _ e; cases e)
    | dsimp only
    | (dsimp +zetaDelta only)
    | (fail_if_no_progress ((with_reducible refine Frame.upd ?_ hfw ?_ rfl ⟨rfl, rfl, rfl⟩); rotate_left; exact rfl)))

theorem State.railNow_fr {fw fb : Nat} {s0 : State} (s : State) (d : Nat) (hK : Frame fw fb s0 s) (hfb : Sub 8192 fb := by exact Sub.within hfb rfl) : Frame fw fb s0 (State.railNow s d) := by
  unfold State.railNow
  repeat' (first
    | with_reducible assumption
    | with_reducible apply State.limitReg_fr
    | with_reducible apply State.wr_fr
    | (with_reducible refine Frame.ite ?_ ?_)
    | ((with_reducible apply Sub.within hfw); exact rfl)
    | ((with_reducible apply Sub.within hfb); exact rfl)
    | ((with_reducible apply Mixed.of); exact rfl)
    | (apply hfb.bit (i := 13) rfl)
    | (dsimp only [State.wrs, State.regs0, List.foldl])
    | (extract_lets)
    | split
    | (intro _ _ _)
    | (intro _ e; have _hk : Frame _ _ _ _ := e)
    | (intro _ e; cases e)
    | dsimp only
    | (dsimp +zetaDelta only))

end Sys2Proof.Machine
end

