-- ==== Sys2Proof/Laws/Frame/Tiles.lean ====
section
/-! SUPPORT. What the operations of Machine/Tiles.lean leave as it was (`Frame`): one lemma each. -/

set_option linter.unreachableTactic false
set_option linter.unusedTactic false

namespace Sys2Proof.Machine

set_option Elab.async false

open Sys2Proof

theorem State.foldOne_fr {fw fb : Nat} {s0 : State} (s : State) (c : Nat) (num : List Nat) (p : Nat × Nat) (hK : Frame fw fb s0 s) (hfw : Sub 8 fw := by exact Sub.within hfw rfl) : Frame fw fb s0 (State.foldOne s c num p) := by
  unfold State.foldOne
  repeat' (first
    | with_reducible assumption
    | with_reducible apply State.store_fr
    | (with_reducible refine Frame.foldl ?_ ?_)
    | (with_reducible refine Frame.foldr ?_ ?_)
    | (with_reducible refine Frame.ite ?_ ?_)
    | ((with_reducible apply Sub.within hfw); exact rfl)
    | ((with_reducible apply Sub.within hfb); exact rfl)
    | ((with_reducible apply Mixed.of); exact rfl)
    | (extract_lets)
    | split
    | (intro _ _ _)
    | (intro _ e; have _hk : Frame _ _ _ _ := e)
    | (intro _ e; cases e)
    | dsimp only
    | (dsimp +zetaDelta only))

theorem State.tableWrite_fr {fw fb : Nat} {s0 : State} (s : State) (c va : Nat) (data : List Nat) (hK : Frame fw fb s0 s) (hfw : Sub 8 fw := by exact Sub.within hfw rfl) : Frame fw fb s0 (State.tableWrite s c va data) := by
  unfold State.tableWrite
  repeat' (first
    | with_reducible assumption
    | with_reducible apply State.storeBytes_fr
    | (with_reducible refine Frame.foldl ?_ ?_)
    | (with_reducible refine Frame.foldr ?_ ?_)
    | (with_reducible refine Frame.ite ?_ ?_)
    | ((with_reducible apply Sub.within hfw); exact rfl)
    | ((with_reducible apply Sub.within hfb); exact rfl)
    | ((with_reducible apply Mixed.of); exact rfl)
    | (extract_lets)
    | split
    | (intro _ _ _)
    | (intro _ e; have _hk : Frame _ _ _ _ := e)
    | (intro _ e; cases e)
    | dsimp only
    | (dsimp +zetaDelta only))

theorem State.windowMap_fr {fw fb : Nat} {s0 : State} (s : State) (w : Window) (f : Window → Window) (hK : Frame fw fb s0 s) (hfw : Sub 262144 fw := by exact Sub.within hfw rfl) : Frame fw fb s0 (State.windowMap s w f) := by
  have k0 : ∀ (t : State) x0, Frame fw fb s0 t → Frame fw fb s0 { t with windows := x0 } := fun t x0 ht => Frame.upd ht hfw rfl rfl ⟨rfl, rfl, rfl⟩
  unfold State.windowMap
  repeat' (first
    | with_reducible assumption
    | (with_reducible refine Frame.ite ?_ ?_)
    | ((with_reducible apply Sub.within hfw); exact rfl)
    | ((with_reducible apply Sub.within hfb); exact rfl)
    | ((with_reducible apply Mixed.of); exact rfl)
    | (extract_lets)
    | (fail_if_no_progress (with_reducible refine k0 _ _ ?_))
    | split
    | (intro _ _ _)
    | (intro _ e; have _hk : Frame _ _ _ _ := e)
    | (intro _ e; cases e)
    | dsimp only
    | (dsimp +zetaDelta only)
    | (fail_if_no_progress ((with_reducible refine Frame.upd ?_ hfw ?_ rfl ⟨rfl, rfl, rfl⟩); rotate_left; exact rfl)))

theorem State.redealWeights_fr {fw fb : Nat} {s0 : State} (s : State) (c d : Nat) (w : List Nat) (hK : Frame fw fb s0 s) (hfw : Sub 10 fw := by exact Sub.within hfw rfl) : Frame fw fb s0 (State.redealWeights s c d w) := by
  have k0 : ∀ (t : State) x0, Frame fw fb s0 t → Frame fw fb s0 { t with freeCtr := x0 } := fun t x0 ht => Frame.upd ht hfw rfl rfl ⟨rfl, rfl, rfl⟩
  unfold State.redealWeights
  repeat' (first
    | with_reducible assumption
    | with_reducible apply State.tableWrite_fr
    | (with_reducible refine Frame.foldl ?_ ?_)
    | (with_reducible refine Frame.foldr ?_ ?_)
    | (with_reducible refine Frame.ite ?_ ?_)
    | ((with_reducible apply Sub.within hfw); exact rfl)
    | ((with_reducible apply Sub.within hfb); exact rfl)
    | ((with_reducible apply Mixed.of); exact rfl)
    | (extract_lets)
    | (fail_if_no_progress (with_reducible refine k0 _ _ ?_))
    | split
    | (intro _ _ _)
    | (intro _ e; have _hk : Frame _ _ _ _ := e)
    | (intro _ e; cases e)
    | dsimp only
    | (dsimp +zetaDelta only)
    | (fail_if_no_progress ((with_reducible refine Frame.upd ?_ hfw ?_ rfl ⟨rfl, rfl, rfl⟩); rotate_left; exact rfl)))

end Sys2Proof.Machine
end

