-- ==== Sys2Proof/Laws/Frame/Detect.lean ====
section
/-! SUPPORT. What the operations of Machine/Detect.lean leave as it was (`Frame`): one lemma each. -/

set_option linter.unreachableTactic false
set_option linter.unusedTactic false

namespace Sys2Proof.Machine

set_option Elab.async false

open Sys2Proof

theorem State.poisonPage_fr {fw fb : Nat} {s0 : State} (s : State) (off : Nat) (p : Nat × Nat × Nat) (hK : Frame fw fb s0 s) (hfw : Sub 1649831774936 fw := by exact Sub.within hfw rfl) (hfb : Sub 131856 fb := by exact Sub.within hfb rfl) : Frame fw fb s0 (State.poisonPage s off p) := by
  unfold State.poisonPage
  repeat' (first
    | with_reducible assumption
    | with_reducible apply State.handLost_fr
    | with_reducible apply State.kittyLost_fr
    | with_reducible apply State.recordAs_fr
    | with_reducible apply State.setLeaf_fr
    | (with_reducible refine Frame.foldl ?_ ?_)
    | (with_reducible refine Frame.foldr ?_ ?_)
    | (with_reducible refine Frame.ite ?_ ?_)
    | ((with_reducible apply Sub.within hfw); exact rfl)
    | ((with_reducible apply Sub.within hfb); exact rfl)
    | ((with_reducible apply Mixed.of); exact rfl)
    | (apply hfb.bit (i := 4) rfl)
    | (apply hfb.bit (i := 8) rfl)
    | (apply hfb.bit (i := 9) rfl)
    | (apply hfb.bit (i := 17) rfl)
    | (extract_lets)
    | split
    | (intro _ _ _)
    | (intro _ e; have _hk : Frame _ _ _ _ := e)
    | (intro _ e; cases e)
    | dsimp only
    | (dsimp +zetaDelta only))

theorem State.readRetried_fr {fw fb : Nat} {s0 : State} (s : State) (off : Nat) (hK : Frame fw fb s0 s) (hfb : Sub 16 fb := by exact Sub.within hfb rfl) : Frame fw fb s0 (State.readRetried s off) := by
  unfold State.readRetried
  repeat' (first
    | with_reducible assumption
    | with_reducible apply State.bump_fr
    | (with_reducible refine Frame.ite ?_ ?_)
    | ((with_reducible apply Sub.within hfw); exact rfl)
    | ((with_reducible apply Sub.within hfb); exact rfl)
    | ((with_reducible apply Mixed.of); exact rfl)
    | (apply hfb.bit (i := 4) rfl)
    | (extract_lets)
    | split
    | (intro _ _ _)
    | (intro _ e; have _hk : Frame _ _ _ _ := e)
    | (intro _ e; cases e)
    | dsimp only
    | (dsimp +zetaDelta only))

theorem State.rowRemap_fr {fw fb : Nat} {s0 : State} (s : State) (off : Nat) (hK : Frame fw fb s0 s) (hfw : Sub 208 fw := by exact Sub.within hfw rfl) (hfb : Sub 165904 fb := by exact Sub.within hfb rfl) : Frame fw fb s0 (State.rowRemap s off) := by
  unfold State.rowRemap
  repeat' (first
    | with_reducible assumption
    | with_reducible apply State.exhausted_fr
    | with_reducible apply State.record_fr
    | with_reducible apply State.wr_fr
    | (with_reducible refine Frame.ite ?_ ?_)
    | ((with_reducible apply Sub.within hfw); exact rfl)
    | ((with_reducible apply Sub.within hfb); exact rfl)
    | ((with_reducible apply Mixed.of); exact rfl)
    | (apply hfb.bit (i := 4) rfl)
    | (apply hfb.bit (i := 11) rfl)
    | (apply hfb.bit (i := 15) rfl)
    | (apply hfb.bit (i := 17) rfl)
    | (extract_lets)
    | split
    | (intro _ _ _)
    | (intro _ e; have _hk : Frame _ _ _ _ := e)
    | (intro _ e; cases e)
    | dsimp only
    | (dsimp +zetaDelta only))

theorem State.hbmFailed_fr {fw fb : Nat} {s0 : State} (s : State) (off : Nat) (hK : Frame fw fb s0 s) (hfw : Sub 1152923154438621912 fw := by exact Sub.within hfw rfl) (hfb : Sub 170768 fb := by exact Sub.within hfb rfl) : Frame fw fb s0 (State.hbmFailed s off) := by
  unfold State.hbmFailed
  repeat' (first
    | with_reducible assumption
    | with_reducible apply State.bump_fr
    | with_reducible apply State.poisonPage_fr
    | with_reducible apply State.rowRemap_fr
    | with_reducible apply State.weightBlockFails_fr
    | (with_reducible refine Frame.foldl ?_ ?_)
    | (with_reducible refine Frame.foldr ?_ ?_)
    | (with_reducible refine Frame.ite ?_ ?_)
    | ((with_reducible apply Sub.within hfw); exact rfl)
    | ((with_reducible apply Sub.within hfb); exact rfl)
    | ((with_reducible apply Mixed.of); exact rfl)
    | (apply hfb.bit (i := 4) rfl)
    | (apply hfb.bit (i := 8) rfl)
    | (apply hfb.bit (i := 9) rfl)
    | (apply hfb.bit (i := 11) rfl)
    | (apply hfb.bit (i := 12) rfl)
    | (apply hfb.bit (i := 15) rfl)
    | (apply hfb.bit (i := 17) rfl)
    | (extract_lets)
    | split
    | (intro _ _ _)
    | (intro _ e; have _hk : Frame _ _ _ _ := e)
    | (intro _ e; cases e)
    | dsimp only
    | (dsimp +zetaDelta only))

theorem State.undeal_fr {fw fb : Nat} {s0 : State} (s : State) (d : Nat) (orders : List Nat) (hK : Frame fw fb s0 s) (hfw : Sub 35253091565568 fw := by exact Sub.within hfw rfl) : Frame fw fb s0 (State.undeal s d orders) := by
  have k0 : ∀ (t : State) x0 x1, Frame fw fb s0 t → Frame fw fb s0 { t with areas := x0, dealing := x1 } := fun t x0 x1 ht => Frame.upd ht hfw rfl rfl ⟨rfl, rfl, rfl⟩
  unfold State.undeal
  repeat' (first
    | with_reducible assumption
    | (with_reducible refine Frame.getD ?_ ?_)
    | (with_reducible refine Frame.ite ?_ ?_)
    | ((with_reducible apply Sub.within hfw); exact rfl)
    | ((with_reducible apply Sub.within hfb); exact rfl)
    | ((with_reducible apply Mixed.of); exact rfl)
    | (extract_lets)
    | (fail_if_no_progress (with_reducible refine k0 _ _ _ ?_))
    | split
    | (intro _ _ _)
    | (intro _ e; have _hk : Frame _ _ _ _ := e)
    | (intro _ e; cases e)
    | dsimp only
    | (dsimp +zetaDelta only)
    | (fail_if_no_progress ((with_reducible refine Frame.upd ?_ hfw ?_ rfl ⟨rfl, rfl, rfl⟩); rotate_left; exact rfl)))

theorem State.windowLost_fr {fw fb : Nat} {s0 : State} (s : State) (w : Window) (i : Nat) (hK : Frame fw fb s0 s) (hfw : Sub 35253091827712 fw := by exact Sub.within hfw rfl) : Frame fw fb s0 (State.windowLost s w i) := by
  unfold State.windowLost
  repeat' (first
    | with_reducible assumption
    | with_reducible apply State.undeal_fr
    | with_reducible apply State.windowMap_fr
    | (with_reducible refine Frame.ite ?_ ?_)
    | ((with_reducible apply Sub.within hfw); exact rfl)
    | ((with_reducible apply Sub.within hfb); exact rfl)
    | ((with_reducible apply Mixed.of); exact rfl)
    | (extract_lets)
    | split
    | (intro _ _ _)
    | (intro _ e; have _hk : Frame _ _ _ _ := e)
    | (intro _ e; cases e)
    | dsimp only
    | (dsimp +zetaDelta only))

theorem State.sramFailed_fr {fw fb : Nat} {s0 : State} (s : State) (off : Nat) (hK : Frame fw fb s0 s) (hfw : Sub 1180735772808410761944 fw := by exact Sub.within hfw rfl) (hfb : Sub 131856 fb := by exact Sub.within hfb rfl) : Frame fw fb s0 (State.sramFailed s off) := by
  have k0 : ∀ (t : State) x0 x1, Frame fw fb s0 t → Frame fw fb s0 { t with badBanks := x0, badSince := x1 } := fun t x0 x1 ht => Frame.upd ht hfw rfl rfl ⟨rfl, rfl, rfl⟩
  unfold State.sramFailed
  repeat' (first
    | with_reducible assumption
    | with_reducible apply State.bump_fr
    | with_reducible apply State.poisonPage_fr
    | with_reducible apply State.windowLost_fr
    | (with_reducible refine Frame.foldl ?_ ?_)
    | (with_reducible refine Frame.foldr ?_ ?_)
    | (with_reducible refine Frame.ite ?_ ?_)
    | ((with_reducible apply Sub.within hfw); exact rfl)
    | ((with_reducible apply Sub.within hfb); exact rfl)
    | ((with_reducible apply Mixed.of); exact rfl)
    | (apply hfb.bit (i := 4) rfl)
    | (apply hfb.bit (i := 8) rfl)
    | (apply hfb.bit (i := 9) rfl)
    | (apply hfb.bit (i := 17) rfl)
    | (extract_lets)
    | (fail_if_no_progress (with_reducible refine k0 _ _ _ ?_))
    | split
    | (intro _ _ _)
    | (intro _ e; have _hk : Frame _ _ _ _ := e)
    | (intro _ e; cases e)
    | dsimp only
    | (dsimp +zetaDelta only)
    | (fail_if_no_progress ((with_reducible refine Frame.upd ?_ hfw ?_ rfl ⟨rfl, rfl, rfl⟩); rotate_left; exact rfl)))

theorem State.readFailed_fr {fw fb : Nat} {s0 : State} (s : State) (off : Nat) (hK : Frame fw fb s0 s) (hfw : Sub 1181888694313017608920 fw := by exact Sub.within hfw rfl) (hfb : Sub 170768 fb := by exact Sub.within hfb rfl) : Frame fw fb s0 (State.readFailed s off) := by
  unfold State.readFailed
  repeat' (first
    | with_reducible assumption
    | with_reducible apply State.hbmFailed_fr
    | with_reducible apply State.sramFailed_fr
    | (with_reducible refine Frame.ite ?_ ?_)
    | ((with_reducible apply Sub.within hfw); exact rfl)
    | ((with_reducible apply Sub.within hfb); exact rfl)
    | ((with_reducible apply Mixed.of); exact rfl)
    | (apply hfb.bit (i := 4) rfl)
    | (apply hfb.bit (i := 8) rfl)
    | (apply hfb.bit (i := 9) rfl)
    | (apply hfb.bit (i := 11) rfl)
    | (apply hfb.bit (i := 12) rfl)
    | (apply hfb.bit (i := 15) rfl)
    | (apply hfb.bit (i := 17) rfl)
    | (extract_lets)
    | split
    | (intro _ _ _)
    | (intro _ e; have _hk : Frame _ _ _ _ := e)
    | (intro _ e; cases e)
    | dsimp only
    | (dsimp +zetaDelta only))

theorem State.readErrors_fr {fw fb : Nat} {s0 : State} (s : State) (retried failed : List Nat) (hK : Frame fw fb s0 s) (hfw : Sub 1181888694313017608920 fw := by exact Sub.within hfw rfl) (hfb : Sub 170768 fb := by exact Sub.within hfb rfl) : Frame fw fb s0 (State.readErrors s retried failed) := by
  unfold State.readErrors
  repeat' (first
    | with_reducible assumption
    | with_reducible apply State.readFailed_fr
    | with_reducible apply State.readRetried_fr
    | (with_reducible refine Frame.foldl ?_ ?_)
    | (with_reducible refine Frame.foldr ?_ ?_)
    | (with_reducible refine Frame.ite ?_ ?_)
    | ((with_reducible apply Sub.within hfw); exact rfl)
    | ((with_reducible apply Sub.within hfb); exact rfl)
    | ((with_reducible apply Mixed.of); exact rfl)
    | (apply hfb.bit (i := 4) rfl)
    | (apply hfb.bit (i := 8) rfl)
    | (apply hfb.bit (i := 9) rfl)
    | (apply hfb.bit (i := 11) rfl)
    | (apply hfb.bit (i := 12) rfl)
    | (apply hfb.bit (i := 15) rfl)
    | (apply hfb.bit (i := 17) rfl)
    | (extract_lets)
    | split
    | (intro _ _ _)
    | (intro _ e; have _hk : Frame _ _ _ _ := e)
    | (intro _ e; cases e)
    | dsimp only
    | (dsimp +zetaDelta only))

end Sys2Proof.Machine
end

