-- ==== Sys2Proof/Laws/Frame/Queues.lean ====
section
/-! SUPPORT. What the operations of Machine/Queues.lean leave as it was (`Frame`): one lemma each. -/

set_option linter.unreachableTactic false
set_option linter.unusedTactic false

namespace Sys2Proof.Machine

set_option Elab.async false

open Sys2Proof

theorem State.moverRegs_fr {fw fb : Nat} {s0 : State} (s : State) (m : Nat) (hK : Frame fw fb s0 s) (hfb : Sub 32 fb := by exact Sub.within hfb rfl) : Frame fw fb s0 (State.moverRegs s m) := by
  unfold State.moverRegs
  repeat' (first
    | with_reducible assumption
    | with_reducible apply State.wr_fr
    | (with_reducible refine Frame.ite ?_ ?_)
    | ((with_reducible apply Sub.within hfw); exact rfl)
    | ((with_reducible apply Sub.within hfb); exact rfl)
    | ((with_reducible apply Mixed.of); exact rfl)
    | (apply hfb.bit (i := 5) rfl)
    | (dsimp only [State.wrs, State.regs0, List.foldl])
    | (extract_lets)
    | split
    | (intro _ _ _)
    | (intro _ e; have _hk : Frame _ _ _ _ := e)
    | (intro _ e; cases e)
    | dsimp only
    | (dsimp +zetaDelta only))

theorem State.descAdd_fr {fw fb : Nat} {s0 : State} (s : State) (d : Desc) (hK : Frame fw fb s0 s) (hfw : Sub 402653184 fw := by exact Sub.within hfw rfl) (hfb : Sub 32 fb := by exact Sub.within hfb rfl) : Frame fw fb s0 (State.descAdd s d) := by
  have k0 : ∀ (t : State) x0 x1, Frame fw fb s0 t → Frame fw fb s0 { t with descs := x0, nextDesc := x1 } := fun t x0 x1 ht => Frame.upd ht hfw rfl rfl ⟨rfl, rfl, rfl⟩
  unfold State.descAdd
  repeat' (first
    | with_reducible assumption
    | with_reducible apply State.moverRegs_fr
    | (with_reducible refine Frame.ite ?_ ?_)
    | ((with_reducible apply Sub.within hfw); exact rfl)
    | ((with_reducible apply Sub.within hfb); exact rfl)
    | ((with_reducible apply Mixed.of); exact rfl)
    | (apply hfb.bit (i := 5) rfl)
    | (extract_lets)
    | (fail_if_no_progress (with_reducible refine k0 _ _ _ ?_))
    | split
    | (intro _ _ _)
    | (intro _ e; have _hk : Frame _ _ _ _ := e)
    | (intro _ e; cases e)
    | dsimp only
    | (dsimp +zetaDelta only)
    | (fail_if_no_progress ((with_reducible refine Frame.upd ?_ hfw ?_ rfl ⟨rfl, rfl, rfl⟩); rotate_left; exact rfl)))

theorem State.descMap_fr {fw fb : Nat} {s0 : State} (s : State) (i : Nat) (f : Desc → Desc) (hK : Frame fw fb s0 s) (hfw : Sub 134217728 fw := by exact Sub.within hfw rfl) : Frame fw fb s0 (State.descMap s i f) := by
  have k0 : ∀ (t : State) x0, Frame fw fb s0 t → Frame fw fb s0 { t with descs := x0 } := fun t x0 ht => Frame.upd ht hfw rfl rfl ⟨rfl, rfl, rfl⟩
  unfold State.descMap
  repeat' (first
    | with_reducible assumption
    | (with_reducible refine Frame.ite ?_ ?_)
    | ((with_reducible apply Sub.within hfw); exact rfl)
    | ((with_reducible apply Sub.within hfb); exact rfl)
    | ((with_reducible apply Mixed.of); exact rfl)
    | (extract_lets)
    | (fail_if_no_progress (with_reducible refine k0 _ _ ?_))
    | split
    | (intro _ _ _)
    | (intro _ e; have _hk : Frame _ _ _ _ := e)
    | (intro _ e; cases e)
    | dsimp only
    | (dsimp +zetaDelta only)
    | (fail_if_no_progress ((with_reducible refine Frame.upd ?_ hfw ?_ rfl ⟨rfl, rfl, rfl⟩); rotate_left; exact rfl)))

theorem State.moveDescs_fr {fw fb : Nat} {s0 : State} (s : State) (m : Move) (movers : List Nat) (hK : Frame fw fb s0 s) (hfw : Sub 402653184 fw := by exact Sub.within hfw rfl) (hfb : Sub 32 fb := by exact Sub.within hfb rfl) : Frame fw fb s0 (State.moveDescs s m movers) := by
  unfold State.moveDescs
  repeat' (first
    | with_reducible assumption
    | with_reducible apply State.descAdd_fr
    | (with_reducible refine Frame.foldl ?_ ?_)
    | (with_reducible refine Frame.foldr ?_ ?_)
    | (with_reducible refine Frame.ite ?_ ?_)
    | ((with_reducible apply Sub.within hfw); exact rfl)
    | ((with_reducible apply Sub.within hfb); exact rfl)
    | ((with_reducible apply Mixed.of); exact rfl)
    | (apply hfb.bit (i := 5) rfl)
    | (extract_lets)
    | split
    | (intro _ _ _)
    | (intro _ e; have _hk : Frame _ _ _ _ := e)
    | (intro _ e; cases e)
    | dsimp only
    | (dsimp +zetaDelta only))

theorem State.moveStop_fr {fw fb : Nat} {s0 : State} (s : State) (i : Nat) (hK : Frame fw fb s0 s) (hfw : Sub 671088640 fw := by exact Sub.within hfw rfl) (hfb : Sub 32 fb := by exact Sub.within hfb rfl) : Frame fw fb s0 (State.moveStop s i) := by
  have k0 : ∀ (t : State) x0 x1, Frame fw fb s0 t → Frame fw fb s0 { t with descs := x0, fabric := x1 } := fun t x0 x1 ht => Frame.upd ht hfw rfl rfl ⟨rfl, rfl, rfl⟩
  unfold State.moveStop
  repeat' (first
    | with_reducible assumption
    | with_reducible apply State.moverRegs_fr
    | (with_reducible refine Frame.foldl ?_ ?_)
    | (with_reducible refine Frame.foldr ?_ ?_)
    | (with_reducible refine Frame.ite ?_ ?_)
    | ((with_reducible apply Sub.within hfw); exact rfl)
    | ((with_reducible apply Sub.within hfb); exact rfl)
    | ((with_reducible apply Mixed.of); exact rfl)
    | (apply hfb.bit (i := 5) rfl)
    | (extract_lets)
    | (fail_if_no_progress (with_reducible refine k0 _ _ _ ?_))
    | split
    | (intro _ _ _)
    | (intro _ e; have _hk : Frame _ _ _ _ := e)
    | (intro _ e; cases e)
    | dsimp only
    | (dsimp +zetaDelta only)
    | (fail_if_no_progress ((with_reducible refine Frame.upd ?_ hfw ?_ rfl ⟨rfl, rfl, rfl⟩); rotate_left; exact rfl)))

end Sys2Proof.Machine
end

