-- ==== Sys2Proof/Laws/Frame/Attention.lean ====
section
/-! SUPPORT. What the operations of Machine/Attention.lean leave as it was (`Frame`): one lemma each. -/

set_option linter.unreachableTactic false
set_option linter.unusedTactic false

namespace Sys2Proof.Machine

set_option Elab.async false

open Sys2Proof

theorem State.stepMap_fr {fw fb : Nat} {s0 : State} (s : State) (c : Nat) (f : Step → Step) (hK : Frame fw fb s0 s) (hfw : Sub 2199023255552 fw := by exact Sub.within hfw rfl) : Frame fw fb s0 (State.stepMap s c f) := by
  have k0 : ∀ (t : State) x0, Frame fw fb s0 t → Frame fw fb s0 { t with steps := x0 } := fun t x0 ht => Frame.upd ht hfw rfl rfl ⟨rfl, rfl, rfl⟩
  unfold State.stepMap
  repeat' (first
    | with_reducible assumption
    | (with_reducible refine Frame.ite ?_ ?_)
    | ((with_reducible apply Sub.within hfw); exact rfl)
    | ((with_reducible apply Sub.within hfb); exact rfl)
    | ((with_reducible apply Mixed.of); exact rfl)
    | (extract_lets)
    | (fail_if_no_progress (with_reducible refine k0 _ _ ?_))
    | split
    | (intro _ _ _)
    | (intro _ e; have _hk : Frame _ _ _ _ := e)
    | (intro _ e; cases e)
    | dsimp only
    | (dsimp +zetaDelta only)
    | (fail_if_no_progress ((with_reducible refine Frame.upd ?_ hfw ?_ rfl ⟨rfl, rfl, rfl⟩); rotate_left; exact rfl)))

theorem State.workMap_fr {fw fb : Nat} {s0 : State} (s : State) (i n : Nat) (f : AttnWork → AttnWork) (hK : Frame fw fb s0 s) (hfw : Sub 140737488355328 fw := by exact Sub.within hfw rfl) : Frame fw fb s0 (State.workMap s i n f) := by
  unfold State.workMap
  repeat' (first
    | with_reducible assumption
    | with_reducible apply State.launchMap_fr
    | (with_reducible refine Frame.ite ?_ ?_)
    | ((with_reducible apply Sub.within hfw); exact rfl)
    | ((with_reducible apply Sub.within hfb); exact rfl)
    | ((with_reducible apply Mixed.of); exact rfl)
    | (extract_lets)
    | split
    | (intro _ _ _)
    | (intro _ e; have _hk : Frame _ _ _ _ := e)
    | (intro _ e; cases e)
    | dsimp only
    | (dsimp +zetaDelta only))

theorem State.fillLayer_fr {fw fb : Nat} {s0 : State} (s : State) (c base n layer : Nat) (place : Nat → Option Nat) (ps : List Nat) (fr : Nat) (hK : Frame fw fb s0 s) (hfw : Sub 8 fw := by exact Sub.within hfw rfl) : Frame fw fb s0 (State.fillLayer s c base n layer place ps fr) := by
  unfold State.fillLayer
  repeat' (first
    | with_reducible assumption
    | with_reducible apply State.tableWrite_fr
    | (with_reducible refine Frame.foldl ?_ ?_)
    | (with_reducible refine Frame.foldr ?_ ?_)
    | (with_reducible refine Frame.ite ?_ ?_)
    | ((with_reducible apply Sub.within hfw); exact rfl)
    | ((with_reducible apply Sub.within hfb); exact rfl)
    | ((with_reducible apply Mixed.of); exact rfl)
    | (extract_lets)
    | split
    | (intro _ _ _)
    | (intro _ e; have _hk : Frame _ _ _ _ := e)
    | (intro _ e; cases e)
    | dsimp only
    | (dsimp +zetaDelta only))

theorem State.itemFill_fr {fw fb : Nat} {s0 : State} (l : Launch) (s : State) (i : StepItem) (hK : Frame fw fb s0 s) (hfw : Sub 140737488355338 fw := by exact Sub.within hfw rfl) : Frame fw fb s0 (State.itemFill l s i) := by
  have k0 : ∀ (t : State) x0, Frame fw fb s0 t → Frame fw fb s0 { t with freeCtr := x0 } := fun t x0 ht => Frame.upd ht hfw rfl rfl ⟨rfl, rfl, rfl⟩
  unfold State.itemFill
  repeat' (first
    | with_reducible assumption
    | with_reducible apply State.fillLayer_fr
    | with_reducible apply State.launchMap_fr
    | (with_reducible refine Frame.ite ?_ ?_)
    | ((with_reducible apply Sub.within hfw); exact rfl)
    | ((with_reducible apply Sub.within hfb); exact rfl)
    | ((with_reducible apply Mixed.of); exact rfl)
    | (extract_lets)
    | (fail_if_no_progress (with_reducible refine k0 _ _ ?_))
    | split
    | (intro _ _ _)
    | (intro _ e; have _hk : Frame _ _ _ _ := e)
    | (intro _ e; cases e)
    | dsimp only
    | (dsimp +zetaDelta only)
    | (fail_if_no_progress ((with_reducible refine Frame.upd ?_ hfw ?_ rfl ⟨rfl, rfl, rfl⟩); rotate_left; exact rfl)))

theorem State.attnFill_fr {fw fb : Nat} {s0 : State} (s : State) (l : Launch) (g : Nat) (hK : Frame fw fb s0 s) (hfw : Sub 140737488355338 fw := by exact Sub.within hfw rfl) : Frame fw fb s0 (State.attnFill s l g) := by
  unfold State.attnFill
  repeat' (first
    | with_reducible assumption
    | with_reducible apply State.itemFill_fr
    | with_reducible apply State.launchMap_fr
    | (with_reducible refine Frame.foldl ?_ ?_)
    | (with_reducible refine Frame.foldr ?_ ?_)
    | (with_reducible refine Frame.ite ?_ ?_)
    | ((with_reducible apply Sub.within hfw); exact rfl)
    | ((with_reducible apply Sub.within hfb); exact rfl)
    | ((with_reducible apply Mixed.of); exact rfl)
    | (extract_lets)
    | split
    | (intro _ _ _)
    | (intro _ e; have _hk : Frame _ _ _ _ := e)
    | (intro _ e; cases e)
    | dsimp only
    | (dsimp +zetaDelta only))

theorem State.faceCounts_fr {fw fb : Nat} {s0 : State} (s : State) (f : Faced) (hK : Frame fw fb s0 s) (hfb : Sub 64 fb := by exact Sub.within hfb rfl) : Frame fw fb s0 (State.faceCounts s f) := by
  unfold State.faceCounts
  repeat' (first
    | with_reducible assumption
    | with_reducible apply State.bump_fr
    | (with_reducible refine Frame.ite ?_ ?_)
    | ((with_reducible apply Sub.within hfw); exact rfl)
    | ((with_reducible apply Sub.within hfb); exact rfl)
    | ((with_reducible apply Mixed.of); exact rfl)
    | (apply hfb.bit (i := 6) rfl)
    | (extract_lets)
    | split
    | (intro _ _ _)
    | (intro _ e; have _hk : Frame _ _ _ _ := e)
    | (intro _ e; cases e)
    | dsimp only
    | (dsimp +zetaDelta only))

theorem State.faceLatent_fr {fw fb : Nat} {s0 : State} (s : State) (l : Launch) (b : List Nat) (hK : Frame fw fb s0 s) (hfb : Sub 64 fb := by exact Sub.within hfb rfl) : Frame fw fb s0 (State.faceLatent s l b).1 :=
  foldl_inv (P := fun x : State × List Nat => Frame fw fb s0 x.1) (fun _ _ hb => State.faceCounts_fr _ _ hb) _ hK

theorem State.faceLatent_fr_at {fw fb : Nat} {s0 : State} {u : State} {r1} {s : State} {l : Launch} {b : List Nat} (h_eq : State.faceLatent s l b = (u, r1)) (hK : Frame fw fb s0 s) (hfb : Sub 64 fb := by exact Sub.within hfb rfl) : Frame fw fb s0 u := by
  have := State.faceLatent_fr s l b hK
  rw [h_eq] at this
  exact this

theorem State.faceRun_fr {fw fb : Nat} {s0 : State} (s : State) (l : Launch) (p : DiePart) (r : CacheRun) (hK : Frame fw fb s0 s) (hfb : Sub 64 fb := by exact Sub.within hfb rfl) : Frame fw fb s0 (State.faceRun s l p r).1 := by
  unfold State.faceRun
  refine foldl_inv (P := fun x : State × List (List Nat) => Frame fw fb s0 x.1) (fun b k hb => ?_) _ hK
  generalize p.bytesAt _ _ = l'
  exact State.faceLatent_fr _ _ _ hb

theorem State.faceRun_fr_at {fw fb : Nat} {s0 : State} {u : State} {r1} {s : State} {l : Launch} {p : DiePart} {r : CacheRun} (h_eq : State.faceRun s l p r = (u, r1)) (hK : Frame fw fb s0 s) (hfb : Sub 64 fb := by exact Sub.within hfb rfl) : Frame fw fb s0 u := by
  have := State.faceRun_fr s l p r hK
  rw [h_eq] at this
  exact this

theorem State.runAsk_fr {fw fb : Nat} {s0 : State} (s : State) (l : Launch) (p : DiePart) (r : CacheRun) (hK : Frame fw fb s0 s) (hfw : Sub 140737891008512 fw := by exact Sub.within hfw rfl) (hfb : Sub 32 fb := by exact Sub.within hfb rfl) : Frame fw fb s0 (State.runAsk s l p r) := by
  unfold State.runAsk
  repeat' (first
    | with_reducible assumption
    | with_reducible apply State.descAdd_fr
    | with_reducible apply State.launchMap_fr
    | (with_reducible refine Frame.ite ?_ ?_)
    | ((with_reducible apply Sub.within hfw); exact rfl)
    | ((with_reducible apply Sub.within hfb); exact rfl)
    | ((with_reducible apply Mixed.of); exact rfl)
    | (apply hfb.bit (i := 5) rfl)
    | (extract_lets)
    | split
    | (intro _ _ _)
    | (intro _ e; have _hk : Frame _ _ _ _ := e)
    | (intro _ e; cases e)
    | dsimp only
    | (dsimp +zetaDelta only))

theorem State.runMade_fr {fw fb : Nat} {s0 : State} (s : State) (l : Launch) (p : DiePart) (g : Nat) (i : StepItem) (r : CacheRun) (hK : Frame fw fb s0 s) (hfw : Sub 211106232532994 fw := by exact Sub.within hfw rfl) (hfb : Sub 64 fb := by exact Sub.within hfb rfl) : Frame fw fb s0 (State.runMade s l p g i r) := by
  have k0 : ∀ (t : State) x0, Frame fw fb s0 t → Frame fw fb s0 { t with freeCtr := x0 } := fun t x0 ht => Frame.upd ht hfw rfl rfl ⟨rfl, rfl, rfl⟩
  unfold State.runMade
  exact State.launchMap_fr _ _ _ (State.chargeNs_fr _ _ _ _ _ (k0 _ _ (State.faceRun_fr _ _ _ _ hK)))

theorem State.runStep_fr {fw fb : Nat} {s0 : State} (s : State) (l : Launch) (p : DiePart) (g : Nat) (i : StepItem) (r : CacheRun) (done : State → State) (h_done : ∀ t0, Frame fw fb s0 t0 → Frame fw fb s0 (done t0)) (hK : Frame fw fb s0 s) (hfw : Sub 211106635186178 fw := by exact Sub.within hfw rfl) (hfb : Sub 96 fb := by exact Sub.within hfb rfl) : Frame fw fb s0 (State.runStep s l p g i r done) := by
  unfold State.runStep
  repeat' (first
    | with_reducible assumption
    | with_reducible apply State.launchMap_fr
    | with_reducible apply State.runAsk_fr
    | with_reducible apply State.runMade_fr
    | with_reducible apply h_done
    | (with_reducible refine Frame.ite ?_ ?_)
    | ((with_reducible apply Sub.within hfw); exact rfl)
    | ((with_reducible apply Sub.within hfb); exact rfl)
    | ((with_reducible apply Mixed.of); exact rfl)
    | (apply hfb.bit (i := 5) rfl)
    | (apply hfb.bit (i := 6) rfl)
    | (extract_lets)
    | split
    | (intro _ _ _)
    | (intro _ e; have _hk : Frame _ _ _ _ := e)
    | (intro _ e; cases e)
    | dsimp only
    | (dsimp +zetaDelta only))

theorem State.ringSend_fr {fw fb : Nat} {s0 : State} (s : State) (c n k place : Nat) (data : List Nat) (hK : Frame fw fb s0 s) (hfw : Sub 536870912 fw := by exact Sub.within hfw rfl) (hfb : Sub 512 fb := by exact Sub.within hfb rfl) : Frame fw fb s0 (State.ringSend s c n k place data) := by
  unfold State.ringSend
  repeat' (first
    | with_reducible assumption
    | with_reducible apply State.remoteStore_fr
    | (with_reducible refine Frame.foldl ?_ ?_)
    | (with_reducible refine Frame.foldr ?_ ?_)
    | (with_reducible refine Frame.ite ?_ ?_)
    | ((with_reducible apply Sub.within hfw); exact rfl)
    | ((with_reducible apply Sub.within hfb); exact rfl)
    | ((with_reducible apply Mixed.of); exact rfl)
    | (apply hfb.bit (i := 9) rfl)
    | (extract_lets)
    | split
    | (intro _ _ _)
    | (intro _ e; have _hk : Frame _ _ _ _ := e)
    | (intro _ e; cases e)
    | dsimp only
    | (dsimp +zetaDelta only))

theorem State.sendBlock_fr {fw fb : Nat} {s0 : State} (s : State) (l : Launch) (n : Nat) (p q : Nat × Nat) (hK : Frame fw fb s0 s) (hfw : Sub 2361184016041420786178 fw := by exact Sub.within hfw rfl) (hfb : Sub 540 fb := by exact Sub.within hfb rfl) : Frame fw fb s0 (State.sendBlock s l n p q) := by
  unfold State.sendBlock
  extract_lets x o
  have ha := State.fetch_fr s o l.ctx p.1 p.2 hK
  split <;> rename_i e <;> rw [e] at ha
  · exact ha
  · exact State.endLaunch_fr _ _ _ _ ha
  · rename_i a t
    have hb := State.fetch_fr t o l.ctx q.1 q.2 ha
    split <;> rename_i e <;> rw [e] at hb
    · exact hb
    · exact State.endLaunch_fr _ _ _ _ hb
    · exact State.workMap_fr _ _ _ _ (State.setHand_fr _ _ _ (State.ringSend_fr _ _ _ _ _ _ hb))

theorem State.blockSend_fr {fw fb : Nat} {s0 : State} (s : State) (l : Launch) (i : StepItem) (w : AttnWork) (hK : Frame fw fb s0 s) (hfw : Sub 2361184016041420786178 fw := by exact Sub.within hfw rfl) (hfb : Sub 540 fb := by exact Sub.within hfb rfl) : Frame fw fb s0 (State.blockSend s l i w) := by
  unfold State.blockSend
  repeat' (first
    | with_reducible assumption
    | with_reducible apply State.sendBlock_fr
    | (with_reducible refine Frame.ite ?_ ?_)
    | ((with_reducible apply Sub.within hfw); exact rfl)
    | ((with_reducible apply Sub.within hfb); exact rfl)
    | ((with_reducible apply Mixed.of); exact rfl)
    | (apply hfb.bit (i := 2) rfl)
    | (apply hfb.bit (i := 3) rfl)
    | (apply hfb.bit (i := 4) rfl)
    | (apply hfb.bit (i := 9) rfl)
    | (extract_lets)
    | split
    | (intro _ _ _)
    | (intro _ e; have _hk : Frame _ _ _ _ := e)
    | (intro _ e; cases e)
    | dsimp only
    | (dsimp +zetaDelta only))

theorem State.blockPass_fr {fw fb : Nat} {s0 : State} (s : State) (l : Launch) (i : StepItem) (hK : Frame fw fb s0 s) (hfw : Sub 9444733107027071467520 fw := by exact Sub.within hfw rfl) (hfb : Sub 512 fb := by exact Sub.within hfb rfl) : Frame fw fb s0 (State.blockPass s l i) := by
  unfold State.blockPass
  repeat' (first
    | with_reducible assumption
    | with_reducible apply State.ringSend_fr
    | with_reducible apply State.ringTaken_fr
    | with_reducible apply State.setHand_fr
    | with_reducible apply State.workMap_fr
    | (with_reducible refine Frame.ite ?_ ?_)
    | ((with_reducible apply Sub.within hfw); exact rfl)
    | ((with_reducible apply Sub.within hfb); exact rfl)
    | ((with_reducible apply Mixed.of); exact rfl)
    | (apply hfb.bit (i := 9) rfl)
    | (extract_lets)
    | split
    | (intro _ _ _)
    | (intro _ e; have _hk : Frame _ _ _ _ := e)
    | (intro _ e; cases e)
    | dsimp only
    | (dsimp +zetaDelta only))

theorem State.ringGo_fr {fw fb : Nat} {s0 : State} (s : State) (l : Launch) (p : DiePart) (g : Nat) (i : StepItem) (hK : Frame fw fb s0 s) (hfw : Sub 11805916981781113866754 fw := by exact Sub.within hfw rfl) (hfb : Sub 636 fb := by exact Sub.within hfb rfl) : Frame fw fb s0 (State.ringGo s l p g i) := by
  unfold State.ringGo
  repeat' (first
    | with_reducible assumption
    | with_reducible apply State.blockPass_fr
    | with_reducible apply State.blockSend_fr
    | with_reducible apply State.ringSend_fr
    | with_reducible apply State.runStep_fr
    | with_reducible apply State.workMap_fr
    | (with_reducible refine Frame.ite ?_ ?_)
    | ((with_reducible apply Sub.within hfw); exact rfl)
    | ((with_reducible apply Sub.within hfb); exact rfl)
    | ((with_reducible apply Mixed.of); exact rfl)
    | (apply hfb.bit (i := 2) rfl)
    | (apply hfb.bit (i := 3) rfl)
    | (apply hfb.bit (i := 4) rfl)
    | (apply hfb.bit (i := 5) rfl)
    | (apply hfb.bit (i := 6) rfl)
    | (apply hfb.bit (i := 9) rfl)
    | (extract_lets)
    | split
    | (intro _ _ _)
    | (intro _ e; have _hk : Frame _ _ _ _ := e)
    | (intro _ e; cases e)
    | dsimp only
    | (dsimp +zetaDelta only))

theorem State.ringClose_fr {fw fb : Nat} {s0 : State} (s : State) (l : Launch) (i : StepItem) (hK : Frame fw fb s0 s) (hfw : Sub 9444733106477315653632 fw := by exact Sub.within hfw rfl) (hfb : Sub 768 fb := by exact Sub.within hfb rfl) : Frame fw fb s0 (State.ringClose s l i) := by
  unfold State.ringClose
  repeat' (first
    | with_reducible assumption
    | with_reducible apply State.bump_fr
    | with_reducible apply State.launchMap_fr
    | with_reducible apply State.ringSend_fr
    | with_reducible apply State.ringTaken_fr
    | with_reducible apply State.workMap_fr
    | (with_reducible refine Frame.foldl ?_ ?_)
    | (with_reducible refine Frame.foldr ?_ ?_)
    | (with_reducible refine Frame.ite ?_ ?_)
    | ((with_reducible apply Sub.within hfw); exact rfl)
    | ((with_reducible apply Sub.within hfb); exact rfl)
    | ((with_reducible apply Mixed.of); exact rfl)
    | (apply hfb.bit (i := 8) rfl)
    | (apply hfb.bit (i := 9) rfl)
    | (extract_lets)
    | split
    | (intro _ _ _)
    | (intro _ e; have _hk : Frame _ _ _ _ := e)
    | (intro _ e; cases e)
    | dsimp only
    | (dsimp +zetaDelta only))

theorem State.runList_fr {fw fb : Nat} {s0 : State} (s : State) (l : Launch) (d g : Nat) (hK : Frame fw fb s0 s) (hfw : Sub 140737488355328 fw := by exact Sub.within hfw rfl) : Frame fw fb s0 (State.runList s l d g) := by
  unfold State.runList
  repeat' (first
    | with_reducible assumption
    | with_reducible apply State.launchMap_fr
    | (with_reducible refine Frame.ite ?_ ?_)
    | ((with_reducible apply Sub.within hfw); exact rfl)
    | ((with_reducible apply Sub.within hfb); exact rfl)
    | ((with_reducible apply Mixed.of); exact rfl)
    | (extract_lets)
    | split
    | (intro _ _ _)
    | (intro _ e; have _hk : Frame _ _ _ _ := e)
    | (intro _ e; cases e)
    | dsimp only
    | (dsimp +zetaDelta only))

theorem State.groupPass_fr {fw fb : Nat} {s0 : State} (s : State) (l : Launch) (p : DiePart) (g : Nat) (hK : Frame fw fb s0 s) (hfw : Sub 211106232532994 fw := by exact Sub.within hfw rfl) : Frame fw fb s0 (State.groupPass s l p g) := by
  have k0 : ∀ (t : State) x0, Frame fw fb s0 t → Frame fw fb s0 { t with freeCtr := x0 } := fun t x0 ht => Frame.upd ht hfw rfl rfl ⟨rfl, rfl, rfl⟩
  unfold State.groupPass
  repeat' (first
    | with_reducible assumption
    | with_reducible apply State.chargeNs_fr
    | with_reducible apply State.launchMap_fr
    | (with_reducible refine Frame.ite ?_ ?_)
    | ((with_reducible apply Sub.within hfw); exact rfl)
    | ((with_reducible apply Sub.within hfb); exact rfl)
    | ((with_reducible apply Mixed.of); exact rfl)
    | (extract_lets)
    | (fail_if_no_progress (with_reducible refine k0 _ _ ?_))
    | split
    | (intro _ _ _)
    | (intro _ e; have _hk : Frame _ _ _ _ := e)
    | (intro _ e; cases e)
    | dsimp only
    | (dsimp +zetaDelta only)
    | (fail_if_no_progress ((with_reducible refine Frame.upd ?_ hfw ?_ rfl ⟨rfl, rfl, rfl⟩); rotate_left; exact rfl)))

theorem State.partClose_fr {fw fb : Nat} {s0 : State} (s : State) (l : Launch) (p : DiePart) (hK : Frame fw fb s0 s) (hfw : Sub 9444733106477315653632 fw := by exact Sub.within hfw rfl) (hfb : Sub 768 fb := by exact Sub.within hfb rfl) : Frame fw fb s0 (State.partClose s l p) := by
  unfold State.partClose
  repeat' (first
    | with_reducible assumption
    | with_reducible apply State.launchMap_fr
    | with_reducible apply State.ringClose_fr
    | (with_reducible refine Frame.ite ?_ ?_)
    | ((with_reducible apply Sub.within hfw); exact rfl)
    | ((with_reducible apply Sub.within hfb); exact rfl)
    | ((with_reducible apply Mixed.of); exact rfl)
    | (apply hfb.bit (i := 8) rfl)
    | (apply hfb.bit (i := 9) rfl)
    | (extract_lets)
    | split
    | (intro _ _ _)
    | (intro _ e; have _hk : Frame _ _ _ _ := e)
    | (intro _ e; cases e)
    | dsimp only
    | (dsimp +zetaDelta only))

theorem State.partRun_fr {fw fb : Nat} {s0 : State} (s : State) (l : Launch) (p : DiePart) (g : Nat) (r : CacheRun) (hK : Frame fw fb s0 s) (hfw : Sub 211106635186178 fw := by exact Sub.within hfw rfl) (hfb : Sub 96 fb := by exact Sub.within hfb rfl) : Frame fw fb s0 (State.partRun s l p g r) := by
  unfold State.partRun
  repeat' (first
    | with_reducible assumption
    | with_reducible apply State.launchMap_fr
    | with_reducible apply State.runStep_fr
    | (with_reducible refine Frame.ite ?_ ?_)
    | ((with_reducible apply Sub.within hfw); exact rfl)
    | ((with_reducible apply Sub.within hfb); exact rfl)
    | ((with_reducible apply Mixed.of); exact rfl)
    | (apply hfb.bit (i := 5) rfl)
    | (apply hfb.bit (i := 6) rfl)
    | (extract_lets)
    | split
    | (intro _ _ _)
    | (intro _ e; have _hk : Frame _ _ _ _ := e)
    | (intro _ e; cases e)
    | dsimp only
    | (dsimp +zetaDelta only))

theorem State.attnPart_fr {fw fb : Nat} {s0 : State} (s : State) (l : Launch) (p : DiePart) (g : Nat) (hK : Frame fw fb s0 s) (hfw : Sub 11805916981781113866762 fw := by exact Sub.within hfw rfl) (hfb : Sub 636 fb := by exact Sub.within hfb rfl) : Frame fw fb s0 (State.attnPart s l p g) := by
  unfold State.attnPart
  repeat' (first
    | with_reducible assumption
    | with_reducible apply State.attnFill_fr
    | with_reducible apply State.groupPass_fr
    | with_reducible apply State.partRun_fr
    | with_reducible apply State.ringGo_fr
    | with_reducible apply State.runList_fr
    | (with_reducible refine Frame.ite ?_ ?_)
    | ((with_reducible apply Sub.within hfw); exact rfl)
    | ((with_reducible apply Sub.within hfb); exact rfl)
    | ((with_reducible apply Mixed.of); exact rfl)
    | (apply hfb.bit (i := 2) rfl)
    | (apply hfb.bit (i := 3) rfl)
    | (apply hfb.bit (i := 4) rfl)
    | (apply hfb.bit (i := 5) rfl)
    | (apply hfb.bit (i := 6) rfl)
    | (apply hfb.bit (i := 9) rfl)
    | (extract_lets)
    | split
    | (intro _ _ _)
    | (intro _ e; have _hk : Frame _ _ _ _ := e)
    | (intro _ e; cases e)
    | dsimp only
    | (dsimp +zetaDelta only))

end Sys2Proof.Machine
end

