-- ==== Sys2Proof/Laws/Frame/Launches.lean ====
section
/-! SUPPORT. What the operations of Machine/Launches.lean leave as it was (`Frame`): one lemma each. -/

set_option linter.unreachableTactic false
set_option linter.unusedTactic false

namespace Sys2Proof.Machine

set_option Elab.async false

open Sys2Proof

theorem State.launchAdd_fr {fw fb : Nat} {s0 : State} (s : State) (l : Launch) (hK : Frame fw fb s0 s) (hfw : Sub 422212465065984 fw := by exact Sub.within hfw rfl) (hfb : Sub 4 fb := by exact Sub.within hfb rfl) : Frame fw fb s0 (State.launchAdd s l) := by
  have k0 : ∀ (t : State) x0 x1, Frame fw fb s0 t → Frame fw fb s0 { t with launches := x0, nextLaunch := x1 } := fun t x0 x1 ht => Frame.upd ht hfw rfl rfl ⟨rfl, rfl, rfl⟩
  unfold State.launchAdd
  repeat' (first
    | with_reducible assumption
    | with_reducible apply State.ctxRun_fr
    | (with_reducible refine Frame.ite ?_ ?_)
    | ((with_reducible apply Sub.within hfw); exact rfl)
    | ((with_reducible apply Sub.within hfb); exact rfl)
    | ((with_reducible apply Mixed.of); exact rfl)
    | (apply hfb.bit (i := 2) rfl)
    | (extract_lets)
    | (fail_if_no_progress (with_reducible refine k0 _ _ _ ?_))
    | split
    | (intro _ _ _)
    | (intro _ e; have _hk : Frame _ _ _ _ := e)
    | (intro _ e; cases e)
    | dsimp only
    | (dsimp +zetaDelta only)
    | (fail_if_no_progress ((with_reducible refine Frame.upd ?_ hfw ?_ rfl ⟨rfl, rfl, rfl⟩); rotate_left; exact rfl)))

theorem launchCmd_fr {fw fb : Nat} {s0 : State} (kind : Nat) (s : State) (c : Cmd) (hK : Frame fw fb s0 s) (hfw : Sub 422212465066496 fw := by exact Sub.within hfw rfl) (hfb : Sub 4 fb := by exact Sub.within hfb rfl) : Frame fw fb s0 (launchCmd kind s c) := by
  unfold launchCmd
  repeat' (first
    | with_reducible assumption
    | with_reducible apply State.launchAdd_fr
    | with_reducible apply State.start_fr
    | (with_reducible refine Frame.ite ?_ ?_)
    | ((with_reducible apply Sub.within hfw); exact rfl)
    | ((with_reducible apply Sub.within hfb); exact rfl)
    | ((with_reducible apply Mixed.of); exact rfl)
    | (apply hfb.bit (i := 2) rfl)
    | (extract_lets)
    | split
    | (intro _ _ _)
    | (intro _ e; have _hk : Frame _ _ _ _ := e)
    | (intro _ e; cases e)
    | dsimp only
    | (dsimp +zetaDelta only))

theorem execLaunchLayer_fr {fw fb : Nat} {s0 : State} (k : Nat) (s : State) (hK : Frame fw fb s0 s) (hfw : Sub 422212465068544 fw := by exact Sub.within hfw rfl) (hfb : Sub 4 fb := by exact Sub.within hfb rfl) : ∀ u, execLaunchLayer k s = .next u → Frame fw fb s0 u := by
  unfold execLaunchLayer
  repeat' (first
    | with_reducible assumption
    | with_reducible apply State.runCmd_fr
    | with_reducible apply launchCmd_fr
    | (with_reducible refine Frame.ite ?_ ?_)
    | ((with_reducible apply Sub.within hfw); exact rfl)
    | ((with_reducible apply Sub.within hfb); exact rfl)
    | ((with_reducible apply Mixed.of); exact rfl)
    | (apply hfb.bit (i := 2) rfl)
    | (extract_lets)
    | split
    | (intro _ _ _)
    | (intro _ e; have _hk : Frame _ _ _ _ := e)
    | (intro _ e; cases e)
    | dsimp only
    | (dsimp +zetaDelta only))

theorem execLaunchKernel_fr {fw fb : Nat} {s0 : State} (k : Nat) (s : State) (hK : Frame fw fb s0 s) (hfw : Sub 422212465068544 fw := by exact Sub.within hfw rfl) (hfb : Sub 4 fb := by exact Sub.within hfb rfl) : ∀ u, execLaunchKernel k s = .next u → Frame fw fb s0 u := by
  unfold execLaunchKernel
  repeat' (first
    | with_reducible assumption
    | with_reducible apply State.runCmd_fr
    | with_reducible apply launchCmd_fr
    | (with_reducible refine Frame.ite ?_ ?_)
    | ((with_reducible apply Sub.within hfw); exact rfl)
    | ((with_reducible apply Sub.within hfb); exact rfl)
    | ((with_reducible apply Mixed.of); exact rfl)
    | (apply hfb.bit (i := 2) rfl)
    | (extract_lets)
    | split
    | (intro _ _ _)
    | (intro _ e; have _hk : Frame _ _ _ _ := e)
    | (intro _ e; cases e)
    | dsimp only
    | (dsimp +zetaDelta only))

theorem execLaunchLoop_fr {fw fb : Nat} {s0 : State} (k : Nat) (s : State) (hK : Frame fw fb s0 s) (hfw : Sub 422212465068544 fw := by exact Sub.within hfw rfl) (hfb : Sub 4 fb := by exact Sub.within hfb rfl) : ∀ u, execLaunchLoop k s = .next u → Frame fw fb s0 u := by
  unfold execLaunchLoop
  repeat' (first
    | with_reducible assumption
    | with_reducible apply State.runCmd_fr
    | with_reducible apply launchCmd_fr
    | (with_reducible refine Frame.ite ?_ ?_)
    | ((with_reducible apply Sub.within hfw); exact rfl)
    | ((with_reducible apply Sub.within hfb); exact rfl)
    | ((with_reducible apply Mixed.of); exact rfl)
    | (apply hfb.bit (i := 2) rfl)
    | (extract_lets)
    | split
    | (intro _ _ _)
    | (intro _ e; have _hk : Frame _ _ _ _ := e)
    | (intro _ e; cases e)
    | dsimp only
    | (dsimp +zetaDelta only))

theorem State.launchTake_fr {fw fb : Nat} {s0 : State} (s : State) (l : Launch) (rows : Nat) (hK : Frame fw fb s0 s) (hfw : Sub 140737488355328 fw := by exact Sub.within hfw rfl) : Frame fw fb s0 (State.launchTake s l rows) := by
  unfold State.launchTake
  repeat' (first
    | with_reducible assumption
    | with_reducible apply State.launchMap_fr
    | (with_reducible refine Frame.ite ?_ ?_)
    | ((with_reducible apply Sub.within hfw); exact rfl)
    | ((with_reducible apply Sub.within hfb); exact rfl)
    | ((with_reducible apply Mixed.of); exact rfl)
    | (extract_lets)
    | split
    | (intro _ _ _)
    | (intro _ e; have _hk : Frame _ _ _ _ := e)
    | (intro _ e; cases e)
    | dsimp only
    | (dsimp +zetaDelta only))

theorem State.launchJoin_fr {fw fb : Nat} {s0 : State} (s : State) (i : Nat) (hK : Frame fw fb s0 s) (hfw : Sub 703687441776640 fw := by exact Sub.within hfw rfl) (hfb : Sub 4 fb := by exact Sub.within hfb rfl) : Frame fw fb s0 (State.launchJoin s i) := by
  unfold State.launchJoin
  repeat' (first
    | with_reducible assumption
    | with_reducible apply State.asks_fr
    | with_reducible apply State.ctxRun_fr
    | with_reducible apply State.launchMap_fr
    | with_reducible apply State.setRing_fr
    | (with_reducible refine Frame.foldl ?_ ?_)
    | (with_reducible refine Frame.foldr ?_ ?_)
    | (with_reducible refine Frame.ite ?_ ?_)
    | ((with_reducible apply Sub.within hfw); exact rfl)
    | ((with_reducible apply Sub.within hfb); exact rfl)
    | ((with_reducible apply Mixed.of); exact rfl)
    | (apply hfb.bit (i := 2) rfl)
    | (extract_lets)
    | split
    | (intro _ _ _)
    | (intro _ e; have _hk : Frame _ _ _ _ := e)
    | (intro _ e; cases e)
    | dsimp only
    | (dsimp +zetaDelta only))

theorem State.shapeRows_fr {fw fb : Nat} {s0 : State} (s : State) (l : Launch) (word : Nat) (hK : Frame fw fb s0 s) (hfb : Sub 128 fb := by exact Sub.within hfb rfl) : Frame fw fb s0 (State.shapeRows s l word).1 := by
  unfold State.shapeRows
  repeat' (first
    | with_reducible assumption
    | with_reducible apply State.bump_fr
    | (with_reducible refine Frame.ite ?_ ?_)
    | ((with_reducible apply Sub.within hfw); exact rfl)
    | ((with_reducible apply Sub.within hfb); exact rfl)
    | ((with_reducible apply Mixed.of); exact rfl)
    | (apply hfb.bit (i := 7) rfl)
    | (extract_lets)
    | split
    | (intro _ _ _)
    | (intro _ e; have _hk : Frame _ _ _ _ := e)
    | (intro _ e; cases e)
    | dsimp only
    | (dsimp +zetaDelta only))

theorem State.shapeRows_fr_at {fw fb : Nat} {s0 : State} {u : State} {r1} {s : State} {l : Launch} {word : Nat} (h_eq : State.shapeRows s l word = (u, r1)) (hK : Frame fw fb s0 s) (hfb : Sub 128 fb := by exact Sub.within hfb rfl) : Frame fw fb s0 u := by
  have := State.shapeRows_fr s l word hK
  rw [h_eq] at this
  exact this

theorem launchReady_fr {fw fb : Nat} {s0 : State} (i : Nat) (s : State) (hK : Frame fw fb s0 s) (hfw : Sub 2361184015491664972290 fw := by exact Sub.within hfw rfl) (hfb : Sub 668 fb := by exact Sub.within hfb rfl) : Frame fw fb s0 (launchReady i s) := by
  unfold launchReady
  repeat' (first
    | with_reducible assumption
    | with_reducible apply State.dropGot_fr
    | with_reducible apply State.endLaunch_fr
    | with_reducible apply State.fetch_fr
    | (with_reducible apply State.fetch_fr_bytes; with_reducible assumption)
    | (with_reducible apply State.fetch_fr_stop; with_reducible assumption)
    | (with_reducible apply State.fetch_fr_bad; with_reducible assumption)
    | with_reducible apply State.launchJoin_fr
    | with_reducible apply State.launchTake_fr
    | with_reducible apply State.shapeRows_fr
    | (with_reducible apply State.shapeRows_fr_at; with_reducible assumption)
    | (with_reducible refine Frame.ite ?_ ?_)
    | ((with_reducible apply Sub.within hfw); exact rfl)
    | ((with_reducible apply Sub.within hfb); exact rfl)
    | ((with_reducible apply Mixed.of); exact rfl)
    | (apply hfb.bit (i := 2) rfl)
    | (apply hfb.bit (i := 3) rfl)
    | (apply hfb.bit (i := 4) rfl)
    | (apply hfb.bit (i := 7) rfl)
    | (apply hfb.bit (i := 9) rfl)
    | (extract_lets)
    | split
    | (intro _ _ _)
    | (intro _ e; have _hk : Frame _ _ _ _ := e)
    | (intro _ e; cases e)
    | dsimp only
    | (dsimp +zetaDelta only))

theorem execLaunchReady_fr {fw fb : Nat} {s0 : State} (launch : Nat) (s : State) (hK : Frame fw fb s0 s) (hfw : Sub 2361184015491664972290 fw := by exact Sub.within hfw rfl) (hfb : Sub 668 fb := by exact Sub.within hfb rfl) : ∀ u, execLaunchReady launch s = .next u → Frame fw fb s0 u := by
  unfold execLaunchReady
  repeat' (first
    | with_reducible assumption
    | with_reducible apply launchReady_fr
    | (with_reducible refine Frame.ite ?_ ?_)
    | ((with_reducible apply Sub.within hfw); exact rfl)
    | ((with_reducible apply Sub.within hfb); exact rfl)
    | ((with_reducible apply Mixed.of); exact rfl)
    | (apply hfb.bit (i := 2) rfl)
    | (apply hfb.bit (i := 3) rfl)
    | (apply hfb.bit (i := 4) rfl)
    | (apply hfb.bit (i := 7) rfl)
    | (apply hfb.bit (i := 9) rfl)
    | (extract_lets)
    | split
    | (intro _ _ _)
    | (intro _ e; have _hk : Frame _ _ _ _ := e)
    | (intro _ e; cases e)
    | dsimp only
    | (dsimp +zetaDelta only))

theorem State.pauseCount_fr {fw fb : Nat} {s0 : State} (s : State) (asked : Nat) (hK : Frame fw fb s0 s) (hfb : Sub 4 fb := by exact Sub.within hfb rfl) : Frame fw fb s0 (State.pauseCount s asked) := by
  unfold State.pauseCount
  repeat' (first
    | with_reducible assumption
    | with_reducible apply State.bump_fr
    | with_reducible apply State.wr_fr
    | (with_reducible refine Frame.ite ?_ ?_)
    | ((with_reducible apply Sub.within hfw); exact rfl)
    | ((with_reducible apply Sub.within hfb); exact rfl)
    | ((with_reducible apply Mixed.of); exact rfl)
    | (apply hfb.bit (i := 2) rfl)
    | (extract_lets)
    | split
    | (intro _ _ _)
    | (intro _ e; have _hk : Frame _ _ _ _ := e)
    | (intro _ e; cases e)
    | dsimp only
    | (dsimp +zetaDelta only))

theorem State.preemptReplies_fr {fw fb : Nat} {s0 : State} (s : State) (hK : Frame fw fb s0 s) (hfw : Sub 2560 fw := by exact Sub.within hfw rfl) : Frame fw fb s0 (State.preemptReplies s) := by
  unfold State.preemptReplies
  repeat' (first
    | with_reducible assumption
    | with_reducible apply State.doneWith_fr
    | (with_reducible refine Frame.foldl ?_ ?_)
    | (with_reducible refine Frame.foldr ?_ ?_)
    | (with_reducible refine Frame.ite ?_ ?_)
    | ((with_reducible apply Sub.within hfw); exact rfl)
    | ((with_reducible apply Sub.within hfb); exact rfl)
    | ((with_reducible apply Mixed.of); exact rfl)
    | (extract_lets)
    | split
    | (intro _ _ _)
    | (intro _ e; have _hk : Frame _ _ _ _ := e)
    | (intro _ e; cases e)
    | dsimp only
    | (dsimp +zetaDelta only))

theorem State.collWait_fr {fw fb : Nat} {s0 : State} (s : State) (ns : Nat) (hK : Frame fw fb s0 s) (hfw : Sub 73786976294838206464 fw := by exact Sub.within hfw rfl) (hfb : Sub 8192 fb := by exact Sub.within hfb rfl) : Frame fw fb s0 (State.collWait s ns) := by
  have k0 : ∀ (t : State) x0, Frame fw fb s0 t → Frame fw fb s0 { t with power := x0 } := fun t x0 ht => Frame.upd ht hfw rfl rfl ⟨rfl, rfl, rfl⟩
  unfold State.collWait
  repeat' (first
    | with_reducible assumption
    | with_reducible apply State.bump_fr
    | (with_reducible refine Frame.ite ?_ ?_)
    | ((with_reducible apply Sub.within hfw); exact rfl)
    | ((with_reducible apply Sub.within hfb); exact rfl)
    | ((with_reducible apply Mixed.of); exact rfl)
    | (apply hfb.bit (i := 13) rfl)
    | (extract_lets)
    | (fail_if_no_progress (with_reducible refine k0 _ _ ?_))
    | split
    | (intro _ _ _)
    | (intro _ e; have _hk : Frame _ _ _ _ := e)
    | (intro _ e; cases e)
    | dsimp only
    | (dsimp +zetaDelta only)
    | (fail_if_no_progress ((with_reducible refine Frame.upd ?_ hfw ?_ rfl ⟨rfl, rfl, rfl⟩); rotate_left; exact rfl)))

theorem State.setPhase_fr {fw fb : Nat} {s0 : State} (s : State) (d tag : Nat) (hK : Frame fw fb s0 s) (hfw : Sub 73800487093720317952 fw := by exact Sub.within hfw rfl) (hfb : Sub 8192 fb := by exact Sub.within hfb rfl) : Frame fw fb s0 (State.setPhase s d tag) := by
  have k0 : ∀ (t : State) x0 x1, Frame fw fb s0 t → Frame fw fb s0 { t with phaseSince := x0, phaseNs := x1 } := fun t x0 x1 ht => Frame.upd ht hfw rfl rfl ⟨rfl, rfl, rfl⟩
  unfold State.setPhase
  repeat' (first
    | with_reducible assumption
    | with_reducible apply State.collWait_fr
    | with_reducible apply State.limitReg_fr
    | with_reducible apply State.railTo_fr
    | with_reducible apply State.wr_fr
    | (with_reducible refine Frame.getD ?_ ?_)
    | (with_reducible refine Frame.ite ?_ ?_)
    | ((with_reducible apply Sub.within hfw); exact rfl)
    | ((with_reducible apply Sub.within hfb); exact rfl)
    | ((with_reducible apply Mixed.of); exact rfl)
    | (apply hfb.bit (i := 13) rfl)
    | (extract_lets)
    | (fail_if_no_progress (with_reducible refine k0 _ _ _ ?_))
    | split
    | (intro _ _ _)
    | (intro _ e; have _hk : Frame _ _ _ _ := e)
    | (intro _ e; cases e)
    | dsimp only
    | (dsimp +zetaDelta only)
    | (fail_if_no_progress ((with_reducible refine Frame.upd ?_ hfw ?_ rfl ⟨rfl, rfl, rfl⟩); rotate_left; exact rfl)))

theorem State.pauseMarks_fr {fw fb : Nat} {s0 : State} (s : State) (d : Nat) (on : Bool) (hK : Frame fw fb s0 s) (hfw : Sub 140737488355328 fw := by exact Sub.within hfw rfl) (hfb : Sub 4 fb := by exact Sub.within hfb rfl) : Frame fw fb s0 (State.pauseMarks s d on) := by
  have k0 : ∀ (t : State) x0, Frame fw fb s0 t → Frame fw fb s0 { t with launches := x0 } := fun t x0 ht => Frame.upd ht hfw rfl rfl ⟨rfl, rfl, rfl⟩
  unfold State.pauseMarks
  repeat' (first
    | with_reducible assumption
    | with_reducible apply State.ctxRun_fr
    | (with_reducible refine Frame.foldl ?_ ?_)
    | (with_reducible refine Frame.foldr ?_ ?_)
    | (with_reducible refine Frame.ite ?_ ?_)
    | ((with_reducible apply Sub.within hfw); exact rfl)
    | ((with_reducible apply Sub.within hfb); exact rfl)
    | ((with_reducible apply Mixed.of); exact rfl)
    | (apply hfb.bit (i := 2) rfl)
    | (extract_lets)
    | (fail_if_no_progress (with_reducible refine k0 _ _ ?_))
    | split
    | (intro _ _ _)
    | (intro _ e; have _hk : Frame _ _ _ _ := e)
    | (intro _ e; cases e)
    | dsimp only
    | (dsimp +zetaDelta only)
    | (fail_if_no_progress ((with_reducible refine Frame.upd ?_ hfw ?_ rfl ⟨rfl, rfl, rfl⟩); rotate_left; exact rfl)))

theorem State.holdDie_fr {fw fb : Nat} {s0 : State} (s : State) (d cls i : Nat) (hK : Frame fw fb s0 s) (hfw : Sub 73801190781162094592 fw := by exact Sub.within hfw rfl) (hfb : Sub 8196 fb := by exact Sub.within hfb rfl) : Frame fw fb s0 (State.holdDie s d cls i) := by
  unfold State.holdDie
  repeat' (first
    | with_reducible assumption
    | with_reducible apply State.ctxRun_fr
    | with_reducible apply State.launchMap_fr
    | with_reducible apply State.pauseMarks_fr
    | with_reducible apply State.setPhase_fr
    | with_reducible apply State.setRing_fr
    | with_reducible apply State.wr_fr
    | (with_reducible refine Frame.ite ?_ ?_)
    | ((with_reducible apply Sub.within hfw); exact rfl)
    | ((with_reducible apply Sub.within hfb); exact rfl)
    | ((with_reducible apply Mixed.of); exact rfl)
    | (apply hfb.bit (i := 2) rfl)
    | (apply hfb.bit (i := 13) rfl)
    | (dsimp only [State.wrs, State.regs0, List.foldl])
    | (extract_lets)
    | split
    | (intro _ _ _)
    | (intro _ e; have _hk : Frame _ _ _ _ := e)
    | (intro _ e; cases e)
    | dsimp only
    | (dsimp +zetaDelta only))

theorem State.pickHolder_fr {fw fb : Nat} {s0 : State} (s : State) (d : Nat) (hK : Frame fw fb s0 s) (hfw : Sub 73801190781162094592 fw := by exact Sub.within hfw rfl) (hfb : Sub 8196 fb := by exact Sub.within hfb rfl) : Frame fw fb s0 (State.pickHolder s d) := by
  unfold State.pickHolder
  repeat' (first
    | with_reducible assumption
    | with_reducible apply State.holdDie_fr
    | with_reducible apply State.pauseMarks_fr
    | with_reducible apply State.setPhase_fr
    | with_reducible apply State.wr_fr
    | (with_reducible refine Frame.ite ?_ ?_)
    | ((with_reducible apply Sub.within hfw); exact rfl)
    | ((with_reducible apply Sub.within hfb); exact rfl)
    | ((with_reducible apply Mixed.of); exact rfl)
    | (apply hfb.bit (i := 2) rfl)
    | (apply hfb.bit (i := 13) rfl)
    | (extract_lets)
    | split
    | (intro _ _ _)
    | (intro _ e; have _hk : Frame _ _ _ _ := e)
    | (intro _ e; cases e)
    | dsimp only
    | (dsimp +zetaDelta only))

theorem State.leaveDie_fr {fw fb : Nat} {s0 : State} (s : State) (l : Launch) (p : DiePart) (hK : Frame fw fb s0 s) (hfw : Sub 703687441776640 fw := by exact Sub.within hfw rfl) (hfb : Sub 20 fb := by exact Sub.within hfb rfl) : Frame fw fb s0 (State.leaveDie s l p) := by
  unfold State.leaveDie
  repeat' (first
    | with_reducible assumption
    | with_reducible apply State.ctxRun_fr
    | with_reducible apply State.dieFree_fr
    | with_reducible apply State.launchMap_fr
    | with_reducible apply State.pauseCount_fr
    | with_reducible apply State.setRing_fr
    | (with_reducible refine Frame.ite ?_ ?_)
    | ((with_reducible apply Sub.within hfw); exact rfl)
    | ((with_reducible apply Sub.within hfb); exact rfl)
    | ((with_reducible apply Mixed.of); exact rfl)
    | (apply hfb.bit (i := 2) rfl)
    | (apply hfb.bit (i := 4) rfl)
    | (extract_lets)
    | split
    | (intro _ _ _)
    | (intro _ e; have _hk : Frame _ _ _ _ := e)
    | (intro _ e; cases e)
    | dsimp only
    | (dsimp +zetaDelta only))

theorem dieHolderChange_fr {fw fb : Nat} {s0 : State} (d : Nat) (s : State) (hK : Frame fw fb s0 s) (hfw : Sub 73801190781162097152 fw := by exact Sub.within hfw rfl) (hfb : Sub 8212 fb := by exact Sub.within hfb rfl) : Frame fw fb s0 (dieHolderChange d s) := by
  unfold dieHolderChange
  repeat' (first
    | with_reducible assumption
    | with_reducible apply State.leaveDie_fr
    | with_reducible apply State.pickHolder_fr
    | with_reducible apply State.preemptReplies_fr
    | with_reducible apply State.setPhase_fr
    | (with_reducible refine Frame.ite ?_ ?_)
    | ((with_reducible apply Sub.within hfw); exact rfl)
    | ((with_reducible apply Sub.within hfb); exact rfl)
    | ((with_reducible apply Mixed.of); exact rfl)
    | (apply hfb.bit (i := 2) rfl)
    | (apply hfb.bit (i := 4) rfl)
    | (apply hfb.bit (i := 13) rfl)
    | (extract_lets)
    | split
    | (intro _ _ _)
    | (intro _ e; have _hk : Frame _ _ _ _ := e)
    | (intro _ e; cases e)
    | dsimp only
    | (dsimp +zetaDelta only))

theorem execDieHolderChange_fr {fw fb : Nat} {s0 : State} (die : Nat) (s : State) (hK : Frame fw fb s0 s) (hfw : Sub 73801190781162097152 fw := by exact Sub.within hfw rfl) (hfb : Sub 8212 fb := by exact Sub.within hfb rfl) : ∀ u, execDieHolderChange die s = .next u → Frame fw fb s0 u := by
  unfold execDieHolderChange
  repeat' (first
    | with_reducible assumption
    | with_reducible apply dieHolderChange_fr
    | (with_reducible refine Frame.ite ?_ ?_)
    | ((with_reducible apply Sub.within hfw); exact rfl)
    | ((with_reducible apply Sub.within hfb); exact rfl)
    | ((with_reducible apply Mixed.of); exact rfl)
    | (apply hfb.bit (i := 2) rfl)
    | (apply hfb.bit (i := 4) rfl)
    | (apply hfb.bit (i := 13) rfl)
    | (extract_lets)
    | split
    | (intro _ _ _)
    | (intro _ e; have _hk : Frame _ _ _ _ := e)
    | (intro _ e; cases e)
    | dsimp only
    | (dsimp +zetaDelta only))

theorem sliceExpiry_fr {fw fb : Nat} {s0 : State} (d : Nat) (s : State) (hK : Frame fw fb s0 s) (hfw : Sub 140737488355328 fw := by exact Sub.within hfw rfl) (hfb : Sub 4 fb := by exact Sub.within hfb rfl) : Frame fw fb s0 (sliceExpiry d s) := by
  unfold sliceExpiry
  repeat' (first
    | with_reducible assumption
    | with_reducible apply State.asks_fr
    | with_reducible apply State.launchMap_fr
    | (with_reducible refine Frame.ite ?_ ?_)
    | ((with_reducible apply Sub.within hfw); exact rfl)
    | ((with_reducible apply Sub.within hfb); exact rfl)
    | ((with_reducible apply Mixed.of); exact rfl)
    | (apply hfb.bit (i := 2) rfl)
    | (extract_lets)
    | split
    | (intro _ _ _)
    | (intro _ e; have _hk : Frame _ _ _ _ := e)
    | (intro _ e; cases e)
    | dsimp only
    | (dsimp +zetaDelta only))

theorem execSliceExpiry_fr {fw fb : Nat} {s0 : State} (die : Nat) (s : State) (hK : Frame fw fb s0 s) (hfw : Sub 140737488355328 fw := by exact Sub.within hfw rfl) (hfb : Sub 4 fb := by exact Sub.within hfb rfl) : ∀ u, execSliceExpiry die s = .next u → Frame fw fb s0 u := by
  unfold execSliceExpiry
  repeat' (first
    | with_reducible assumption
    | with_reducible apply sliceExpiry_fr
    | (with_reducible refine Frame.ite ?_ ?_)
    | ((with_reducible apply Sub.within hfw); exact rfl)
    | ((with_reducible apply Sub.within hfb); exact rfl)
    | ((with_reducible apply Mixed.of); exact rfl)
    | (apply hfb.bit (i := 2) rfl)
    | (extract_lets)
    | split
    | (intro _ _ _)
    | (intro _ e; have _hk : Frame _ _ _ _ := e)
    | (intro _ e; cases e)
    | dsimp only
    | (dsimp +zetaDelta only))

/-- What `Frame` says of the state that a `Body` holds. -/
def Body.fr (fw fb : Nat) (s0 : State) : Body → Prop
  | .ok _ _ s => Frame fw fb s0 s
  | .stop s => Frame fw fb s0 s
  | .fault s _ _ => Frame fw fb s0 s

theorem addPatch_fr {fw fb : Nat} {s0 : State} (l : Launch) (i d : Nat) (acc : Body) (j : Nat) (hK : acc.fr fw fb s0) (hfw : Sub 2361183241435479015426 fw := by exact Sub.within hfw rfl) (hfb : Sub 524 fb := by exact Sub.within hfb rfl) : (addPatch l i d acc j).fr fw fb s0 := by
  cases acc with
  | stop t => exact hK
  | fault t st det => exact hK
  | ok w pd s =>
    have hs : Frame fw fb s0 s := hK
    have hf := State.fetch_fr s (s.launchOrigin l (64 + d) d 0) l.ctx (l.argsVa + 8 * bits (recPatch l.image i j) 3 10) 8 hs
    unfold addPatch
    dsimp only
    split
    · exact hs
    · split
      · exact hs
      · revert hf
        generalize State.fetch s _ _ _ _ = g
        cases g <;> intro hf <;> exact hf

theorem State.recordBody_fr {fw fb : Nat} {s0 : State} (s : State) (l : Launch) (i d : Nat) (hK : Frame fw fb s0 s) (hfw : Sub 2361183241435479015426 fw := by exact Sub.within hfw rfl) (hfb : Sub 524 fb := by exact Sub.within hfb rfl) : (State.recordBody s l i d).fr fw fb s0 :=
  foldl_inv (P := Body.fr fw fb s0) (fun b j hb => addPatch_fr l i d b j hb) _ hK

theorem State.recordBody_fr_ok {fw fb : Nat} {s0 u : State} {s : State} {l : Launch} {i d : Nat} {x0 x1} (e : State.recordBody s l i d = .ok x0 x1 u) (hK : Frame fw fb s0 s) (hfw : Sub 2361183241435479015426 fw := by exact Sub.within hfw rfl) (hfb : Sub 524 fb := by exact Sub.within hfb rfl) : Frame fw fb s0 u := by
  have := State.recordBody_fr s l i d hK
  rw [e] at this
  exact this

theorem State.recordBody_fr_stop {fw fb : Nat} {s0 u : State} {s : State} {l : Launch} {i d : Nat} (e : State.recordBody s l i d = .stop u) (hK : Frame fw fb s0 s) (hfw : Sub 2361183241435479015426 fw := by exact Sub.within hfw rfl) (hfb : Sub 524 fb := by exact Sub.within hfb rfl) : Frame fw fb s0 u := by
  have := State.recordBody_fr s l i d hK
  rw [e] at this
  exact this

theorem State.recordBody_fr_fault {fw fb : Nat} {s0 u : State} {s : State} {l : Launch} {i d : Nat} {x1} {x2} (e : State.recordBody s l i d = .fault u x1 x2) (hK : Frame fw fb s0 s) (hfw : Sub 2361183241435479015426 fw := by exact Sub.within hfw rfl) (hfb : Sub 524 fb := by exact Sub.within hfb rfl) : Frame fw fb s0 u := by
  have := State.recordBody_fr s l i d hK
  rw [e] at this
  exact this

theorem State.partNext_fr {fw fb : Nat} {s0 : State} (s : State) (l : Launch) (d i : Nat) (f : DiePart → DiePart) (hK : Frame fw fb s0 s) (hfw : Sub 140737488355328 fw := by exact Sub.within hfw rfl) : Frame fw fb s0 (State.partNext s l d i f) := by
  unfold State.partNext
  repeat' (first
    | with_reducible assumption
    | with_reducible apply State.launchMap_fr
    | (with_reducible refine Frame.ite ?_ ?_)
    | ((with_reducible apply Sub.within hfw); exact rfl)
    | ((with_reducible apply Sub.within hfb); exact rfl)
    | ((with_reducible apply Mixed.of); exact rfl)
    | (extract_lets)
    | split
    | (intro _ _ _)
    | (intro _ e; have _hk : Frame _ _ _ _ := e)
    | (intro _ e; cases e)
    | dsimp only
    | (dsimp +zetaDelta only))

theorem State.startTile_fr {fw fb : Nat} {s0 : State} (s : State) (l : Launch) (d i : Nat) (w : List Nat) (patched : Bool) (hK : Frame fw fb s0 s) (hfw : Sub 774056185956864 fw := by exact Sub.within hfw rfl) (hfb : Sub 20 fb := by exact Sub.within hfb rfl) : Frame fw fb s0 (State.startTile s l d i w patched) := by
  unfold State.startTile
  repeat' (first
    | with_reducible assumption
    | with_reducible apply State.endLaunch_fr
    | with_reducible apply State.partNext_fr
    | (with_reducible refine Frame.ite ?_ ?_)
    | ((with_reducible apply Sub.within hfw); exact rfl)
    | ((with_reducible apply Sub.within hfb); exact rfl)
    | ((with_reducible apply Mixed.of); exact rfl)
    | (apply hfb.bit (i := 2) rfl)
    | (apply hfb.bit (i := 4) rfl)
    | (extract_lets)
    | split
    | (intro _ _ _)
    | (intro _ e; have _hk : Frame _ _ _ _ := e)
    | (intro _ e; cases e)
    | dsimp only
    | (dsimp +zetaDelta only))

theorem State.startDesc_fr {fw fb : Nat} {s0 : State} (s : State) (l : Launch) (d i : Nat) (w : List Nat) (patched : Bool) (hK : Frame fw fb s0 s) (hfw : Sub 774056588610048 fw := by exact Sub.within hfw rfl) (hfb : Sub 52 fb := by exact Sub.within hfb rfl) : Frame fw fb s0 (State.startDesc s l d i w patched) := by
  unfold State.startDesc
  repeat' (first
    | with_reducible assumption
    | with_reducible apply State.descAdd_fr
    | with_reducible apply State.endLaunch_fr
    | with_reducible apply State.partNext_fr
    | (with_reducible refine Frame.ite ?_ ?_)
    | ((with_reducible apply Sub.within hfw); exact rfl)
    | ((with_reducible apply Sub.within hfb); exact rfl)
    | ((with_reducible apply Mixed.of); exact rfl)
    | (apply hfb.bit (i := 2) rfl)
    | (apply hfb.bit (i := 4) rfl)
    | (apply hfb.bit (i := 5) rfl)
    | (extract_lets)
    | split
    | (intro _ _ _)
    | (intro _ e; have _hk : Frame _ _ _ _ := e)
    | (intro _ e; cases e)
    | dsimp only
    | (dsimp +zetaDelta only))

theorem State.putAll_fr {fw fb : Nat} {s0 : State} (s : State) (o : Origin) (c : Nat) (l : List (Nat × List Nat)) (hK : Frame fw fb s0 s) (hfw : Sub 2361183241435479015434 fw := by exact Sub.within hfw rfl) (hfb : Sub 524 fb := by exact Sub.within hfb rfl) : (State.putAll s o c l).fr fw fb s0 := by
  have h := checkChunks_fr o c false (l.flatMap (fun p => chunksOf p.1 p.2.length)) (.ok s) hK
  unfold State.putAll
  split
  · rename_i e
    rw [e] at h
    exact Frame.foldl (fun t x ht => Frame.foldl (fun t x ht => writeChunk_fr _ _ _ _ _ _ ht) ht) h
  · exact h

theorem State.putAll_fr_ok {fw fb : Nat} {s0 : State} {u : State} {s : State} {o : Origin} {c : Nat} {l : List (Nat × List Nat)} (h_eq : State.putAll s o c l = .ok u) (hK : Frame fw fb s0 s) (hfw : Sub 2361183241435479015434 fw := by exact Sub.within hfw rfl) (hfb : Sub 524 fb := by exact Sub.within hfb rfl) : Frame fw fb s0 u := by
  have := State.putAll_fr s o c l hK
  rw [h_eq] at this
  exact this

theorem State.putAll_fr_stop {fw fb : Nat} {s0 : State} {u : State} {s : State} {o : Origin} {c : Nat} {l : List (Nat × List Nat)} (h_eq : State.putAll s o c l = .stop u) (hK : Frame fw fb s0 s) (hfw : Sub 2361183241435479015434 fw := by exact Sub.within hfw rfl) (hfb : Sub 524 fb := by exact Sub.within hfb rfl) : Frame fw fb s0 u := by
  have := State.putAll_fr s o c l hK
  rw [h_eq] at this
  exact this

theorem State.putAll_fr_bad {fw fb : Nat} {s0 : State} {u : State} {q} {s : State} {o : Origin} {c : Nat} {l : List (Nat × List Nat)} (h_eq : State.putAll s o c l = .bad u q) (hK : Frame fw fb s0 s) (hfw : Sub 2361183241435479015434 fw := by exact Sub.within hfw rfl) (hfb : Sub 524 fb := by exact Sub.within hfb rfl) : Frame fw fb s0 u := by
  have := State.putAll_fr s o c l hK
  rw [h_eq] at this
  exact this

theorem State.fetchIf_fr {fw fb : Nat} {s0 : State} (s : State) (use : Bool) (o : Origin) (c : Nat) (p : Nat × Nat) (hK : Frame fw fb s0 s) (hfw : Sub 2361183241435479015426 fw := by exact Sub.within hfw rfl) (hfb : Sub 524 fb := by exact Sub.within hfb rfl) : (State.fetchIf s use o c p).fr fw fb s0 := by
  unfold State.fetchIf
  repeat' (first
    | with_reducible assumption
    | with_reducible apply State.fetch_fr
    | (with_reducible apply State.fetch_fr_bytes; with_reducible assumption)
    | (with_reducible apply State.fetch_fr_stop; with_reducible assumption)
    | (with_reducible apply State.fetch_fr_bad; with_reducible assumption)
    | with_reducible apply Got.fr_bytes
    | with_reducible apply Got.fr_stop
    | with_reducible apply Got.fr_bad
    | (with_reducible refine Frame.ite ?_ ?_)
    | ((with_reducible apply Sub.within hfw); exact rfl)
    | ((with_reducible apply Sub.within hfb); exact rfl)
    | ((with_reducible apply Mixed.of); exact rfl)
    | (apply hfb.bit (i := 2) rfl)
    | (apply hfb.bit (i := 3) rfl)
    | (apply hfb.bit (i := 9) rfl)
    | (extract_lets)
    | split
    | (intro _ _ _)
    | (intro _ e; have _hk : Frame _ _ _ _ := e)
    | (intro _ e; cases e)
    | dsimp only
    | (dsimp +zetaDelta only))

theorem State.fetchIf_fr_bytes {fw fb : Nat} {s0 : State} {u : State} {l} {s : State} {use : Bool} {o : Origin} {c : Nat} {p : Nat × Nat} (h_eq : State.fetchIf s use o c p = .bytes l u) (hK : Frame fw fb s0 s) (hfw : Sub 2361183241435479015426 fw := by exact Sub.within hfw rfl) (hfb : Sub 524 fb := by exact Sub.within hfb rfl) : Frame fw fb s0 u := by
  have := State.fetchIf_fr s use o c p hK
  rw [h_eq] at this
  exact this

theorem State.fetchIf_fr_stop {fw fb : Nat} {s0 : State} {u : State} {s : State} {use : Bool} {o : Origin} {c : Nat} {p : Nat × Nat} (h_eq : State.fetchIf s use o c p = .stop u) (hK : Frame fw fb s0 s) (hfw : Sub 2361183241435479015426 fw := by exact Sub.within hfw rfl) (hfb : Sub 524 fb := by exact Sub.within hfb rfl) : Frame fw fb s0 u := by
  have := State.fetchIf_fr s use o c p hK
  rw [h_eq] at this
  exact this

theorem State.fetchIf_fr_bad {fw fb : Nat} {s0 : State} {u : State} {q} {s : State} {use : Bool} {o : Origin} {c : Nat} {p : Nat × Nat} (h_eq : State.fetchIf s use o c p = .bad u q) (hK : Frame fw fb s0 s) (hfw : Sub 2361183241435479015426 fw := by exact Sub.within hfw rfl) (hfb : Sub 524 fb := by exact Sub.within hfb rfl) : Frame fw fb s0 u := by
  have := State.fetchIf_fr s use o c p hK
  rw [h_eq] at this
  exact this

theorem Got.then_fr {fw fb : Nat} {s0 : State} (g : Got) (k : List Nat → State → Got) (hk : ∀ l t, Frame fw fb s0 t → (k l t).fr fw fb s0) (hg : g.fr fw fb s0) : (g.then k).fr fw fb s0 := by
  cases g with
  | bytes l s => exact hk _ _ hg
  | stop s => exact hg
  | bad s d => exact hg

theorem State.vectorIn_fr {fw fb : Nat} {s0 : State} (s : State) (l : Launch) (d : Nat) (w : List Nat) (outBf16 : Bool)
    (k : State → List (List Nat × List Nat × List Nat) → State) (hk : ∀ t x, Frame fw fb s0 t → Frame fw fb s0 (k t x)) (hK : Frame fw fb s0 s) (hfw : Sub 2361184015491664972290 fw := by exact Sub.within hfw rfl) (hfb : Sub 540 fb := by exact Sub.within hfb rfl) : Frame fw fb s0 (State.vectorIn s l d w outBf16 k) := by
  unfold State.vectorIn
  extract_lets o n rowA rowB rowR useB useR row na nb cut step
  have hrow : ∀ t r, Frame fw fb s0 t → (row t r).fr fw fb s0 := fun t r ht =>
    Got.then_fr _ _ (fun a t ht => Got.then_fr _ _ (fun b t ht => Got.then_fr _ _ (fun x t ht => ht) (State.fetchIf_fr _ _ _ _ _ ht)) (State.fetchIf_fr _ _ _ _ _ ht)) (State.fetch_fr _ _ _ _ _ ht)
  have hstep : ∀ acc r, acc.1.fr fw fb s0 → (step acc r).1.fr fw fb s0 := by
    intro acc r h
    obtain ⟨g, x⟩ := acc
    cases g with
    | stop t => exact h
    | bad t e => exact h
    | bytes b t =>
      have a := hrow t r h
      simp only [step]
      revert a
      generalize row t r = A
      cases A <;> intro a <;> exact a
  have h0 : (Got.bytes [] s, ([] : List (List Nat × List Nat × List Nat))).1.fr fw fb s0 := hK
  have hall : ((List.range (vRows w)).foldl step (.bytes [] s, [])).1.fr fw fb s0 := foldl_inv (P := fun x => Got.fr fw fb s0 x.1) (fun b j hb => hstep b j hb) _ h0
  split <;> rename_i e <;> rw [e] at hall
  · exact hk _ _ hall
  · exact hall
  · exact State.endLaunch_fr _ _ _ _ hall

theorem State.faceRows_fr {fw fb : Nat} {s0 : State} (s : State) (l : Launch) (h : Header) (rows : List (List Nat)) (hK : Frame fw fb s0 s) (hfw : Sub 140737488355328 fw := by exact Sub.within hfw rfl) (hfb : Sub 64 fb := by exact Sub.within hfb rfl) :
    Frame fw fb s0 (State.faceRows s l h rows).1 := by
  unfold State.faceRows
  refine foldl_inv (P := fun x : State × List (Nat × List Nat) => Frame fw fb s0 x.1) ?_ _ hK
  intro b a hb
  refine foldl_inv (P := fun x : State × List (Nat × List Nat) => Frame fw fb s0 x.1) ?_ _ hb
  intro b a hb
  extract_lets t f i s1 key
  have h1 : Frame fw fb s0 s1 := State.faceCounts_fr _ _ hb
  exact Frame.ite h1 (State.launchMap_fr _ _ _ h1)

theorem State.faceRows_fr_at {fw fb : Nat} {s0 : State} {u : State} {r1} {s : State} {l : Launch} {h : Header} {rows : List (List Nat)} (h_eq : State.faceRows s l h rows = (u, r1)) (hK : Frame fw fb s0 s) (hfw : Sub 140737488355328 fw := by exact Sub.within hfw rfl) (hfb : Sub 64 fb := by exact Sub.within hfb rfl) : Frame fw fb s0 u := by
  have := State.faceRows_fr s l h rows hK
  rw [h_eq] at this
  exact this

theorem State.thirdFace_fr {fw fb : Nat} {s0 : State} (s : State) (l : Launch) (d hva : Nat) (rows : List (List Nat)) (hK : Frame fw fb s0 s) (hfw : Sub 140737488355328 fw := by exact Sub.within hfw rfl) (hfb : Sub 64 fb := by exact Sub.within hfb rfl) : Frame fw fb s0 (State.thirdFace s l d hva rows).1 := by
  unfold State.thirdFace
  repeat' (first
    | with_reducible assumption
    | with_reducible apply State.faceRows_fr
    | (with_reducible apply State.faceRows_fr_at; with_reducible assumption)
    | (with_reducible refine Frame.ite ?_ ?_)
    | ((with_reducible apply Sub.within hfw); exact rfl)
    | ((with_reducible apply Sub.within hfb); exact rfl)
    | ((with_reducible apply Mixed.of); exact rfl)
    | (apply hfb.bit (i := 6) rfl)
    | (extract_lets)
    | split
    | (intro _ _ _)
    | (intro _ e; have _hk : Frame _ _ _ _ := e)
    | (intro _ e; cases e)
    | dsimp only
    | (dsimp +zetaDelta only))

theorem State.thirdFace_fr_at {fw fb : Nat} {s0 : State} {u : State} {r1} {s : State} {l : Launch} {d hva : Nat} {rows : List (List Nat)} (h_eq : State.thirdFace s l d hva rows = (u, r1)) (hK : Frame fw fb s0 s) (hfw : Sub 140737488355328 fw := by exact Sub.within hfw rfl) (hfb : Sub 64 fb := by exact Sub.within hfb rfl) : Frame fw fb s0 u := by
  have := State.thirdFace_fr s l d hva rows hK
  rw [h_eq] at this
  exact this

theorem State.runVector_fr {fw fb : Nat} {s0 : State} (s : State) (l : Launch) (d i : Nat) (w : List Nat) (hK : Frame fw fb s0 s) (hfw : Sub 2361184015491664972298 fw := by exact Sub.within hfw rfl) (hfb : Sub 604 fb := by exact Sub.within hfb rfl) : Frame fw fb s0 (State.runVector s l d i w) := by
  unfold State.runVector
  extract_lets o finish
  have hfin : ∀ t h b, Frame fw fb s0 t → Frame fw fb s0 (finish t h b) := by
    intro t h b ht
    show Frame fw fb s0 (State.vectorIn t l d w b _)
    refine State.vectorIn_fr _ _ _ _ _ _ (fun t rows ht => ?_) ht
    beta_reduce
    extract_lets outs wide fc0 fc
    have hfc : Frame fw fb s0 fc.1 := by
      simp only [fc]
      split
      · exact State.thirdFace_fr _ _ _ _ _ (State.faceRows_fr _ _ _ _ ht)
      · exact ht
    split
    · rename_i e
      exact State.partNext_fr _ _ _ _ _ (State.dropGot_fr _ _ (State.putAll_fr_ok e hfc))
    · split
      · rename_i e
        exact State.putAll_fr_stop e ht
      · exact ht
    · rename_i e
      exact State.endLaunch_fr _ _ _ _ (State.putAll_fr_bad e hfc)
  have hf := State.fetch_fr s o l.ctx (wd w 6) 64 hK
  split
  · split <;> rename_i e <;> rw [e] at hf
    · exact hf
    · exact State.endLaunch_fr _ _ _ _ hf
    · extract_lets h
      exact Frame.ite (State.endLaunch_fr _ _ _ _ hf) (hfin _ (some h) h.srcBf16 hf)
  · exact hfin s none (vOutType w == 1) hK

theorem State.runWait_fr {fw fb : Nat} {s0 : State} (s : State) (l : Launch) (d i : Nat) (w : List Nat) (deadline : Nat) (hK : Frame fw fb s0 s) (hfw : Sub 2361184015491664972290 fw := by exact Sub.within hfw rfl) (hfb : Sub 540 fb := by exact Sub.within hfb rfl) : Frame fw fb s0 (State.runWait s l d i w deadline) := by
  unfold State.runWait
  repeat' (first
    | with_reducible assumption
    | with_reducible apply State.dropGot_fr
    | with_reducible apply State.endLaunch_fr
    | with_reducible apply State.fetch_fr
    | (with_reducible apply State.fetch_fr_bytes; with_reducible assumption)
    | (with_reducible apply State.fetch_fr_stop; with_reducible assumption)
    | (with_reducible apply State.fetch_fr_bad; with_reducible assumption)
    | with_reducible apply State.launchMap_fr
    | with_reducible apply State.partNext_fr
    | (with_reducible refine Frame.ite ?_ ?_)
    | ((with_reducible apply Sub.within hfw); exact rfl)
    | ((with_reducible apply Sub.within hfb); exact rfl)
    | ((with_reducible apply Mixed.of); exact rfl)
    | (apply hfb.bit (i := 2) rfl)
    | (apply hfb.bit (i := 3) rfl)
    | (apply hfb.bit (i := 4) rfl)
    | (apply hfb.bit (i := 9) rfl)
    | (extract_lets)
    | split
    | (intro _ _ _)
    | (intro _ e; have _hk : Frame _ _ _ _ := e)
    | (intro _ e; cases e)
    | dsimp only
    | (dsimp +zetaDelta only))

theorem State.runStore_fr {fw fb : Nat} {s0 : State} (s : State) (l : Launch) (d i : Nat) (w : List Nat) (hK : Frame fw fb s0 s) (hfw : Sub 2361184015491664972298 fw := by exact Sub.within hfw rfl) (hfb : Sub 540 fb := by exact Sub.within hfb rfl) : Frame fw fb s0 (State.runStore s l d i w) := by
  unfold State.runStore
  repeat' (first
    | with_reducible assumption
    | with_reducible apply State.endLaunch_fr
    | with_reducible apply State.openFault_fr
    | with_reducible apply State.partNext_fr
    | with_reducible apply State.put_fr
    | (with_reducible apply State.put_fr_ok; with_reducible assumption)
    | (with_reducible apply State.put_fr_stop; with_reducible assumption)
    | (with_reducible apply State.put_fr_bad; with_reducible assumption)
    | with_reducible apply State.remoteAtomic_fr
    | with_reducible apply State.store_fr
    | (with_reducible refine Frame.ite ?_ ?_)
    | ((with_reducible apply Sub.within hfw); exact rfl)
    | ((with_reducible apply Sub.within hfb); exact rfl)
    | ((with_reducible apply Mixed.of); exact rfl)
    | (apply hfb.bit (i := 2) rfl)
    | (apply hfb.bit (i := 3) rfl)
    | (apply hfb.bit (i := 4) rfl)
    | (apply hfb.bit (i := 9) rfl)
    | (extract_lets)
    | split
    | (intro _ _ _)
    | (intro _ e; have _hk : Frame _ _ _ _ := e)
    | (intro _ e; cases e)
    | dsimp only
    | (dsimp +zetaDelta only))

theorem State.runControl_fr {fw fb : Nat} {s0 : State} (s : State) (l : Launch) (p : DiePart) (i : Nat) (w : List Nat) (hK : Frame fw fb s0 s) (hfw : Sub 2361184015491664972298 fw := by exact Sub.within hfw rfl) (hfb : Sub 540 fb := by exact Sub.within hfb rfl) : Frame fw fb s0 (State.runControl s l p i w) := by
  unfold State.runControl
  repeat' (first
    | with_reducible assumption
    | with_reducible apply State.partNext_fr
    | with_reducible apply State.runStore_fr
    | with_reducible apply State.runWait_fr
    | (with_reducible refine Frame.ite ?_ ?_)
    | ((with_reducible apply Sub.within hfw); exact rfl)
    | ((with_reducible apply Sub.within hfb); exact rfl)
    | ((with_reducible apply Mixed.of); exact rfl)
    | (apply hfb.bit (i := 2) rfl)
    | (apply hfb.bit (i := 3) rfl)
    | (apply hfb.bit (i := 4) rfl)
    | (apply hfb.bit (i := 9) rfl)
    | (extract_lets)
    | split
    | (intro _ _ _)
    | (intro _ e; have _hk : Frame _ _ _ _ := e)
    | (intro _ e; cases e)
    | dsimp only
    | (dsimp +zetaDelta only))

theorem State.partEnds_fr {fw fb : Nat} {s0 : State} (s : State) (l : Launch) (p : DiePart) (hK : Frame fw fb s0 s) (hfw : Sub 140737488355328 fw := by exact Sub.within hfw rfl) : Frame fw fb s0 (State.partEnds s l p) := by
  unfold State.partEnds
  repeat' (first
    | with_reducible assumption
    | with_reducible apply State.launchMap_fr
    | (with_reducible refine Frame.ite ?_ ?_)
    | ((with_reducible apply Sub.within hfw); exact rfl)
    | ((with_reducible apply Sub.within hfb); exact rfl)
    | ((with_reducible apply Mixed.of); exact rfl)
    | (extract_lets)
    | split
    | (intro _ _ _)
    | (intro _ e; have _hk : Frame _ _ _ _ := e)
    | (intro _ e; cases e)
    | dsimp only
    | (dsimp +zetaDelta only))

theorem State.stepPart_fr {fw fb : Nat} {s0 : State} (s : State) (l : Launch) (p : DiePart) (hK : Frame fw fb s0 s) (hfw : Sub 11805916981781113866762 fw := by exact Sub.within hfw rfl) (hfb : Sub 892 fb := by exact Sub.within hfb rfl) : Frame fw fb s0 (State.stepPart s l p) := by
  unfold State.stepPart
  repeat' (first
    | with_reducible assumption
    | with_reducible apply State.attnPart_fr
    | with_reducible apply State.partClose_fr
    | (with_reducible refine Frame.ite ?_ ?_)
    | ((with_reducible apply Sub.within hfw); exact rfl)
    | ((with_reducible apply Sub.within hfb); exact rfl)
    | ((with_reducible apply Mixed.of); exact rfl)
    | (apply hfb.bit (i := 2) rfl)
    | (apply hfb.bit (i := 3) rfl)
    | (apply hfb.bit (i := 4) rfl)
    | (apply hfb.bit (i := 5) rfl)
    | (apply hfb.bit (i := 6) rfl)
    | (apply hfb.bit (i := 8) rfl)
    | (apply hfb.bit (i := 9) rfl)
    | (extract_lets)
    | split
    | (intro _ _ _)
    | (intro _ e; have _hk : Frame _ _ _ _ := e)
    | (intro _ e; cases e)
    | dsimp only
    | (dsimp +zetaDelta only))

theorem recordStart_fr {fw fb : Nat} {s0 : State} (d : Nat) (s : State) (hK : Frame fw fb s0 s) (hfw : Sub 11805916981781113866762 fw := by exact Sub.within hfw rfl) (hfb : Sub 892 fb := by exact Sub.within hfb rfl) : Frame fw fb s0 (recordStart d s) := by
  unfold recordStart
  repeat' (first
    | with_reducible assumption
    | with_reducible apply State.endLaunch_fr
    | with_reducible apply State.partEnds_fr
    | with_reducible apply State.recordBody_fr
    | (with_reducible apply State.recordBody_fr_ok; with_reducible assumption)
    | (with_reducible apply State.recordBody_fr_stop; with_reducible assumption)
    | (with_reducible apply State.recordBody_fr_fault; with_reducible assumption)
    | with_reducible apply State.runControl_fr
    | with_reducible apply State.runVector_fr
    | with_reducible apply State.startDesc_fr
    | with_reducible apply State.startTile_fr
    | with_reducible apply State.stepPart_fr
    | (with_reducible refine Frame.ite ?_ ?_)
    | ((with_reducible apply Sub.within hfw); exact rfl)
    | ((with_reducible apply Sub.within hfb); exact rfl)
    | ((with_reducible apply Mixed.of); exact rfl)
    | (apply hfb.bit (i := 2) rfl)
    | (apply hfb.bit (i := 3) rfl)
    | (apply hfb.bit (i := 4) rfl)
    | (apply hfb.bit (i := 5) rfl)
    | (apply hfb.bit (i := 6) rfl)
    | (apply hfb.bit (i := 8) rfl)
    | (apply hfb.bit (i := 9) rfl)
    | (extract_lets)
    | split
    | (intro _ _ _)
    | (intro _ e; have _hk : Frame _ _ _ _ := e)
    | (intro _ e; cases e)
    | dsimp only
    | (dsimp +zetaDelta only))

theorem loopHead_fr {fw fb : Nat} {s0 : State} (i d : Nat) (s : State) (hK : Frame fw fb s0 s) (hfw : Sub 2361184015491664972290 fw := by exact Sub.within hfw rfl) (hfb : Sub 668 fb := by exact Sub.within hfb rfl) : Frame fw fb s0 (loopHead i d s) := by
  unfold loopHead
  repeat' (first
    | with_reducible assumption
    | with_reducible apply State.bump_fr
    | with_reducible apply State.dropGot_fr
    | with_reducible apply State.endLaunch_fr
    | with_reducible apply State.fetch_fr
    | (with_reducible apply State.fetch_fr_bytes; with_reducible assumption)
    | (with_reducible apply State.fetch_fr_stop; with_reducible assumption)
    | (with_reducible apply State.fetch_fr_bad; with_reducible assumption)
    | with_reducible apply State.launchMap_fr
    | (with_reducible refine Frame.ite ?_ ?_)
    | ((with_reducible apply Sub.within hfw); exact rfl)
    | ((with_reducible apply Sub.within hfb); exact rfl)
    | ((with_reducible apply Mixed.of); exact rfl)
    | (apply hfb.bit (i := 2) rfl)
    | (apply hfb.bit (i := 3) rfl)
    | (apply hfb.bit (i := 4) rfl)
    | (apply hfb.bit (i := 7) rfl)
    | (apply hfb.bit (i := 9) rfl)
    | (extract_lets)
    | split
    | (intro _ _ _)
    | (intro _ e; have _hk : Frame _ _ _ _ := e)
    | (intro _ e; cases e)
    | dsimp only
    | (dsimp +zetaDelta only))

theorem execLoopHead_fr {fw fb : Nat} {s0 : State} (launch die : Nat) (s : State) (hK : Frame fw fb s0 s) (hfw : Sub 2361184015491664972290 fw := by exact Sub.within hfw rfl) (hfb : Sub 668 fb := by exact Sub.within hfb rfl) : ∀ u, execLoopHead launch die s = .next u → Frame fw fb s0 u := by
  unfold execLoopHead
  repeat' (first
    | with_reducible assumption
    | with_reducible apply loopHead_fr
    | (with_reducible refine Frame.ite ?_ ?_)
    | ((with_reducible apply Sub.within hfw); exact rfl)
    | ((with_reducible apply Sub.within hfb); exact rfl)
    | ((with_reducible apply Mixed.of); exact rfl)
    | (apply hfb.bit (i := 2) rfl)
    | (apply hfb.bit (i := 3) rfl)
    | (apply hfb.bit (i := 4) rfl)
    | (apply hfb.bit (i := 7) rfl)
    | (apply hfb.bit (i := 9) rfl)
    | (extract_lets)
    | split
    | (intro _ _ _)
    | (intro _ e; have _hk : Frame _ _ _ _ := e)
    | (intro _ e; cases e)
    | dsimp only
    | (dsimp +zetaDelta only))

theorem State.stepRun_fr {fw fb : Nat} {s0 : State} (s : State) (c layer : Nat) (hK : Frame fw fb s0 s) (hfw : Sub 1057730185923072 fw := by exact Sub.within hfw rfl) (hfb : Sub 20 fb := by exact Sub.within hfb rfl) : Frame fw fb s0 (State.stepRun s c layer) := by
  unfold State.stepRun
  repeat' (first
    | with_reducible assumption
    | with_reducible apply State.endLaunch_fr
    | with_reducible apply State.launchAdd_fr
    | with_reducible apply State.stepMap_fr
    | (with_reducible refine Frame.ite ?_ ?_)
    | ((with_reducible apply Sub.within hfw); exact rfl)
    | ((with_reducible apply Sub.within hfb); exact rfl)
    | ((with_reducible apply Mixed.of); exact rfl)
    | (apply hfb.bit (i := 2) rfl)
    | (apply hfb.bit (i := 4) rfl)
    | (extract_lets)
    | split
    | (intro _ _ _)
    | (intro _ e; have _hk : Frame _ _ _ _ := e)
    | (intro _ e; cases e)
    | dsimp only
    | (dsimp +zetaDelta only))

theorem State.stepNext_fr {fw fb : Nat} {s0 : State} (s : State) (c : Nat) (hK : Frame fw fb s0 s) (hfw : Sub 1057730185923072 fw := by exact Sub.within hfw rfl) (hfb : Sub 20 fb := by exact Sub.within hfb rfl) : Frame fw fb s0 (State.stepNext s c) := by
  unfold State.stepNext
  repeat' (first
    | with_reducible assumption
    | with_reducible apply State.stepMap_fr
    | with_reducible apply State.stepRun_fr
    | (with_reducible refine Frame.ite ?_ ?_)
    | ((with_reducible apply Sub.within hfw); exact rfl)
    | ((with_reducible apply Sub.within hfb); exact rfl)
    | ((with_reducible apply Mixed.of); exact rfl)
    | (apply hfb.bit (i := 2) rfl)
    | (apply hfb.bit (i := 4) rfl)
    | (extract_lets)
    | split
    | (intro _ _ _)
    | (intro _ e; have _hk : Frame _ _ _ _ := e)
    | (intro _ e; cases e)
    | dsimp only
    | (dsimp +zetaDelta only))

theorem launchComplete_fr {fw fb : Nat} {s0 : State} (i : Nat) (s : State) (hK : Frame fw fb s0 s) (hfw : Sub 1057730185923080 fw := by exact Sub.within hfw rfl) (hfb : Sub 20 fb := by exact Sub.within hfb rfl) : Frame fw fb s0 (launchComplete i s) := by
  have k0 : ∀ (t : State) x0, Frame fw fb s0 t → Frame fw fb s0 { t with launches := x0 } := fun t x0 ht => Frame.upd ht hfw rfl rfl ⟨rfl, rfl, rfl⟩
  unfold launchComplete
  repeat' (first
    | with_reducible assumption
    | with_reducible apply State.chargeLaunch_fr
    | with_reducible apply State.ctxRun_fr
    | with_reducible apply State.finish_fr
    | with_reducible apply State.foldOne_fr
    | with_reducible apply State.stepNext_fr
    | (with_reducible refine Frame.foldl ?_ ?_)
    | (with_reducible refine Frame.foldr ?_ ?_)
    | (with_reducible refine Frame.ite ?_ ?_)
    | ((with_reducible apply Sub.within hfw); exact rfl)
    | ((with_reducible apply Sub.within hfb); exact rfl)
    | ((with_reducible apply Mixed.of); exact rfl)
    | (apply hfb.bit (i := 2) rfl)
    | (apply hfb.bit (i := 4) rfl)
    | (extract_lets)
    | (fail_if_no_progress (with_reducible refine k0 _ _ ?_))
    | split
    | (intro _ _ _)
    | (intro _ e; have _hk : Frame _ _ _ _ := e)
    | (intro _ e; cases e)
    | dsimp only
    | (dsimp +zetaDelta only)
    | (fail_if_no_progress ((with_reducible refine Frame.upd ?_ hfw ?_ rfl ⟨rfl, rfl, rfl⟩); rotate_left; exact rfl)))

theorem execLaunchComplete_fr {fw fb : Nat} {s0 : State} (launch : Nat) (s : State) (hK : Frame fw fb s0 s) (hfw : Sub 1057730185923080 fw := by exact Sub.within hfw rfl) (hfb : Sub 20 fb := by exact Sub.within hfb rfl) : ∀ u, execLaunchComplete launch s = .next u → Frame fw fb s0 u := by
  unfold execLaunchComplete
  repeat' (first
    | with_reducible assumption
    | with_reducible apply launchComplete_fr
    | (with_reducible refine Frame.ite ?_ ?_)
    | ((with_reducible apply Sub.within hfw); exact rfl)
    | ((with_reducible apply Sub.within hfb); exact rfl)
    | ((with_reducible apply Mixed.of); exact rfl)
    | (apply hfb.bit (i := 2) rfl)
    | (apply hfb.bit (i := 4) rfl)
    | (extract_lets)
    | split
    | (intro _ _ _)
    | (intro _ e; have _hk : Frame _ _ _ _ := e)
    | (intro _ e; cases e)
    | dsimp only
    | (dsimp +zetaDelta only))

end Sys2Proof.Machine
end

