-- ==== Sys2Proof/Laws/Frame/Stock.lean ====
section
/-! SUPPORT. What the operations of Machine/Stock.lean leave as it was (`Frame`): one lemma each. -/

set_option linter.unreachableTactic false
set_option linter.unusedTactic false

namespace Sys2Proof.Machine

set_option Elab.async false

open Sys2Proof

theorem State.stockEnables_fr {fw fb : Nat} {s0 : State} (s : State) (cls g : Nat) (hK : Frame fw fb s0 s) (hfb : Sub 16384 fb := by exact Sub.within hfb rfl) : Frame fw fb s0 (State.stockEnables s cls g) := by
  unfold State.stockEnables
  repeat' (first
    | with_reducible assumption
    | with_reducible apply State.wr_fr
    | (with_reducible refine Frame.foldl ?_ ?_)
    | (with_reducible refine Frame.foldr ?_ ?_)
    | (with_reducible refine Frame.ite ?_ ?_)
    | ((with_reducible apply Sub.within hfw); exact rfl)
    | ((with_reducible apply Sub.within hfb); exact rfl)
    | ((with_reducible apply Mixed.of); exact rfl)
    | (apply hfb.bit (i := 14) rfl)
    | (extract_lets)
    | split
    | (intro _ _ _)
    | (intro _ e; have _hk : Frame _ _ _ _ := e)
    | (intro _ e; cases e)
    | dsimp only
    | (dsimp +zetaDelta only))

theorem State.stockRegs_fr {fw fb : Nat} {s0 : State} (s : State) (cls g : Nat) (hK : Frame fw fb s0 s) (hfb : Sub 26704 fb := by exact Sub.within hfb rfl) : Frame fw fb s0 (State.stockRegs s cls g) := by
  unfold State.stockRegs
  repeat' (first
    | with_reducible assumption
    | with_reducible apply State.limitReg_fr
    | with_reducible apply State.stockEnables_fr
    | with_reducible apply State.wr_fr
    | (with_reducible refine Frame.ite ?_ ?_)
    | ((with_reducible apply Sub.within hfw); exact rfl)
    | ((with_reducible apply Sub.within hfb); exact rfl)
    | ((with_reducible apply Mixed.of); exact rfl)
    | (apply hfb.bit (i := 4) rfl)
    | (apply hfb.bit (i := 6) rfl)
    | (apply hfb.bit (i := 11) rfl)
    | (apply hfb.bit (i := 13) rfl)
    | (apply hfb.bit (i := 14) rfl)
    | (dsimp only [State.wrs, State.regs0, List.foldl])
    | (extract_lets)
    | split
    | (intro _ _ _)
    | (intro _ e; have _hk : Frame _ _ _ _ := e)
    | (intro _ e; cases e)
    | dsimp only
    | (dsimp +zetaDelta only))

theorem State.setUnit_fr {fw fb : Nat} {s0 : State} (s : State) (cls g u st cause : Nat) (hK : Frame fw fb s0 s) (hfw : Sub 36028797018963968 fw := by exact Sub.within hfw rfl) (hfb : Sub 30800 fb := by exact Sub.within hfb rfl) : Frame fw fb s0 (State.setUnit s cls g u st cause) := by
  have k0 : ∀ (t : State) x0, Frame fw fb s0 t → Frame fw fb s0 { t with units := x0 } := fun t x0 ht => Frame.upd ht hfw rfl rfl ⟨rfl, rfl, rfl⟩
  unfold State.setUnit
  repeat' (first
    | with_reducible assumption
    | with_reducible apply State.stockRegs_fr
    | with_reducible apply State.wr_fr
    | (with_reducible refine Frame.ite ?_ ?_)
    | ((with_reducible apply Sub.within hfw); exact rfl)
    | ((with_reducible apply Sub.within hfb); exact rfl)
    | ((with_reducible apply Mixed.of); exact rfl)
    | (apply hfb.bit (i := 4) rfl)
    | (apply hfb.bit (i := 6) rfl)
    | (apply hfb.bit (i := 11) rfl)
    | (apply hfb.bit (i := 12) rfl)
    | (apply hfb.bit (i := 13) rfl)
    | (apply hfb.bit (i := 14) rfl)
    | (extract_lets)
    | (fail_if_no_progress (with_reducible refine k0 _ _ ?_))
    | split
    | (intro _ _ _)
    | (intro _ e; have _hk : Frame _ _ _ _ := e)
    | (intro _ e; cases e)
    | dsimp only
    | (dsimp +zetaDelta only)
    | (fail_if_no_progress ((with_reducible refine Frame.upd ?_ hfw ?_ rfl ⟨rfl, rfl, rfl⟩); rotate_left; exact rfl)))

theorem State.testUnit_fr {fw fb : Nat} {s0 : State} (s : State) (cls g u st : Nat) (hK : Frame fw fb s0 s) (hfw : Sub 36028797018963968 fw := by exact Sub.within hfw rfl) (hfb : Sub 30800 fb := by exact Sub.within hfb rfl) : Frame fw fb s0 (State.testUnit s cls g u st) := by
  unfold State.testUnit
  repeat' (first
    | with_reducible assumption
    | with_reducible apply State.setUnit_fr
    | (with_reducible refine Frame.ite ?_ ?_)
    | ((with_reducible apply Sub.within hfw); exact rfl)
    | ((with_reducible apply Sub.within hfb); exact rfl)
    | ((with_reducible apply Mixed.of); exact rfl)
    | (apply hfb.bit (i := 4) rfl)
    | (apply hfb.bit (i := 6) rfl)
    | (apply hfb.bit (i := 11) rfl)
    | (apply hfb.bit (i := 12) rfl)
    | (apply hfb.bit (i := 13) rfl)
    | (apply hfb.bit (i := 14) rfl)
    | (extract_lets)
    | split
    | (intro _ _ _)
    | (intro _ e; have _hk : Frame _ _ _ _ := e)
    | (intro _ e; cases e)
    | dsimp only
    | (dsimp +zetaDelta only))

theorem State.mapChanged_fr {fw fb : Nat} {s0 : State} (s : State) (hK : Frame fw fb s0 s) (hfw : Sub 576460752303423488 fw := by exact Sub.within hfw rfl) : Frame fw fb s0 (State.mapChanged s) := by
  have k0 : ∀ (t : State) x0, Frame fw fb s0 t → Frame fw fb s0 { t with recordDue := x0 } := fun t x0 ht => Frame.upd ht hfw rfl rfl ⟨rfl, rfl, rfl⟩
  unfold State.mapChanged
  repeat' (first
    | with_reducible assumption
    | (with_reducible refine Frame.getD ?_ ?_)
    | (with_reducible refine Frame.ite ?_ ?_)
    | ((with_reducible apply Sub.within hfw); exact rfl)
    | ((with_reducible apply Sub.within hfb); exact rfl)
    | ((with_reducible apply Mixed.of); exact rfl)
    | (extract_lets)
    | (fail_if_no_progress (with_reducible refine k0 _ _ ?_))
    | split
    | (intro _ _ _)
    | (intro _ e; have _hk : Frame _ _ _ _ := e)
    | (intro _ e; cases e)
    | dsimp only
    | (dsimp +zetaDelta only)
    | (fail_if_no_progress ((with_reducible refine Frame.upd ?_ hfw ?_ rfl ⟨rfl, rfl, rfl⟩); rotate_left; exact rfl)))

theorem State.renumber_fr {fw fb : Nat} {s0 : State} (s : State) (die : Nat) (hK : Frame fw fb s0 s) (hfw : Sub 18014398509481984 fw := by exact Sub.within hfw rfl) (hfb : Sub 64 fb := by exact Sub.within hfb rfl) : Frame fw fb s0 (State.renumber s die) := by
  have k0 : ∀ (t : State) x0, Frame fw fb s0 t → Frame fw fb s0 { t with draws := x0 } := fun t x0 ht => Frame.upd ht hfw rfl rfl ⟨rfl, rfl, rfl⟩
  unfold State.renumber
  repeat' (first
    | with_reducible assumption
    | with_reducible apply State.wr_fr
    | (with_reducible refine Frame.foldl ?_ ?_)
    | (with_reducible refine Frame.foldr ?_ ?_)
    | (with_reducible refine Frame.ite ?_ ?_)
    | ((with_reducible apply Sub.within hfw); exact rfl)
    | ((with_reducible apply Sub.within hfb); exact rfl)
    | ((with_reducible apply Mixed.of); exact rfl)
    | (apply hfb.bit (i := 6) rfl)
    | (extract_lets)
    | (fail_if_no_progress (with_reducible refine k0 _ _ ?_))
    | split
    | (intro _ _ _)
    | (intro _ e; have _hk : Frame _ _ _ _ := e)
    | (intro _ e; cases e)
    | dsimp only
    | (dsimp +zetaDelta only)
    | (fail_if_no_progress ((with_reducible refine Frame.upd ?_ hfw ?_ rfl ⟨rfl, rfl, rfl⟩); rotate_left; exact rfl)))

theorem State.coreRetire_fr {fw fb : Nat} {s0 : State} (s : State) (die core cause : Nat) (hK : Frame fw fb s0 s) (hfw : Sub 630503947831869648 fw := by exact Sub.within hfw rfl) (hfb : Sub 161872 fb := by exact Sub.within hfb rfl) : Frame fw fb s0 (State.coreRetire s die core cause) := by
  have key : ∀ t v, Frame fw fb s0 t → Frame fw fb s0 { t with draws := v } := fun t v ht => Frame.upd ht hfw rfl rfl ⟨rfl, rfl, rfl⟩
  unfold State.coreRetire
  split
  · exact hK
  · exact State.mapChanged_fr _ (key _ _ (State.record_fr _ _ _ _ _ (State.bump_fr _ _ _ (State.bump_fr _ _ _ (State.wr_fr _ _ _ (State.setUnit_fr _ _ _ _ _ _ hK))))))

theorem State.drawEnds_fr {fw fb : Nat} {s0 : State} (s : State) (d : CoreDraw) (hK : Frame fw fb s0 s) (hfw : Sub 630503947831869440 fw := by exact Sub.within hfw rfl) (hfb : Sub 30800 fb := by exact Sub.within hfb rfl) : Frame fw fb s0 (State.drawEnds s d) := by
  have k0 : ∀ (t : State) x0, Frame fw fb s0 t → Frame fw fb s0 { t with draws := x0 } := fun t x0 ht => Frame.upd ht hfw rfl rfl ⟨rfl, rfl, rfl⟩
  unfold State.drawEnds
  repeat' (first
    | with_reducible assumption
    | with_reducible apply State.mapChanged_fr
    | with_reducible apply State.setUnit_fr
    | (with_reducible refine Frame.ite ?_ ?_)
    | ((with_reducible apply Sub.within hfw); exact rfl)
    | ((with_reducible apply Sub.within hfb); exact rfl)
    | ((with_reducible apply Mixed.of); exact rfl)
    | (apply hfb.bit (i := 4) rfl)
    | (apply hfb.bit (i := 6) rfl)
    | (apply hfb.bit (i := 11) rfl)
    | (apply hfb.bit (i := 12) rfl)
    | (apply hfb.bit (i := 13) rfl)
    | (apply hfb.bit (i := 14) rfl)
    | (extract_lets)
    | (fail_if_no_progress (with_reducible refine k0 _ _ ?_))
    | split
    | (intro _ _ _)
    | (intro _ e; have _hk : Frame _ _ _ _ := e)
    | (intro _ e; cases e)
    | dsimp only
    | (dsimp +zetaDelta only)
    | (fail_if_no_progress ((with_reducible refine Frame.upd ?_ hfw ?_ rfl ⟨rfl, rfl, rfl⟩); rotate_left; exact rfl)))

theorem stockCoreDraw_fr {fw fb : Nat} {s0 : State} (die : Nat) (s : State) (hK : Frame fw fb s0 s) (hfw : Sub 630503947831869648 fw := by exact Sub.within hfw rfl) (hfb : Sub 194640 fb := by exact Sub.within hfb rfl) : Frame fw fb s0 (stockCoreDraw die s) := by
  have k0 : ∀ (t : State) x0, Frame fw fb s0 t → Frame fw fb s0 { t with draws := x0 } := fun t x0 ht => Frame.upd ht hfw rfl rfl ⟨rfl, rfl, rfl⟩
  unfold stockCoreDraw
  repeat' (first
    | with_reducible assumption
    | with_reducible apply State.drawEnds_fr
    | with_reducible apply State.exhausted_fr
    | with_reducible apply State.renumber_fr
    | with_reducible apply State.setUnit_fr
    | (with_reducible refine Frame.ite ?_ ?_)
    | ((with_reducible apply Sub.within hfw); exact rfl)
    | ((with_reducible apply Sub.within hfb); exact rfl)
    | ((with_reducible apply Mixed.of); exact rfl)
    | (apply hfb.bit (i := 4) rfl)
    | (apply hfb.bit (i := 6) rfl)
    | (apply hfb.bit (i := 11) rfl)
    | (apply hfb.bit (i := 12) rfl)
    | (apply hfb.bit (i := 13) rfl)
    | (apply hfb.bit (i := 14) rfl)
    | (apply hfb.bit (i := 15) rfl)
    | (apply hfb.bit (i := 17) rfl)
    | (extract_lets)
    | (fail_if_no_progress (with_reducible refine k0 _ _ ?_))
    | split
    | (intro _ _ _)
    | (intro _ e; have _hk : Frame _ _ _ _ := e)
    | (intro _ e; cases e)
    | dsimp only
    | (dsimp +zetaDelta only)
    | (fail_if_no_progress ((with_reducible refine Frame.upd ?_ hfw ?_ rfl ⟨rfl, rfl, rfl⟩); rotate_left; exact rfl)))

theorem execStockCoreDraw_fr {fw fb : Nat} {s0 : State} (die : Nat) (s : State) (hK : Frame fw fb s0 s) (hfw : Sub 630503947831869648 fw := by exact Sub.within hfw rfl) (hfb : Sub 194640 fb := by exact Sub.within hfb rfl) : ∀ u, execStockCoreDraw die s = .next u → Frame fw fb s0 u := by
  unfold execStockCoreDraw
  repeat' (first
    | with_reducible assumption
    | with_reducible apply stockCoreDraw_fr
    | (with_reducible refine Frame.ite ?_ ?_)
    | ((with_reducible apply Sub.within hfw); exact rfl)
    | ((with_reducible apply Sub.within hfb); exact rfl)
    | ((with_reducible apply Mixed.of); exact rfl)
    | (apply hfb.bit (i := 4) rfl)
    | (apply hfb.bit (i := 6) rfl)
    | (apply hfb.bit (i := 11) rfl)
    | (apply hfb.bit (i := 12) rfl)
    | (apply hfb.bit (i := 13) rfl)
    | (apply hfb.bit (i := 14) rfl)
    | (apply hfb.bit (i := 15) rfl)
    | (apply hfb.bit (i := 17) rfl)
    | (extract_lets)
    | split
    | (intro _ _ _)
    | (intro _ e; have _hk : Frame _ _ _ _ := e)
    | (intro _ e; cases e)
    | dsimp only
    | (dsimp +zetaDelta only))

theorem coreSelftestDone_fr {fw fb : Nat} {s0 : State} (die core pass : Nat) (s : State) (hK : Frame fw fb s0 s) (hfw : Sub 630503947831869648 fw := by exact Sub.within hfw rfl) (hfb : Sub 161872 fb := by exact Sub.within hfb rfl) : Frame fw fb s0 (coreSelftestDone die core pass s) := by
  have k0 : ∀ (t : State) x0, Frame fw fb s0 t → Frame fw fb s0 { t with draws := x0 } := fun t x0 ht => Frame.upd ht hfw rfl rfl ⟨rfl, rfl, rfl⟩
  unfold coreSelftestDone
  repeat' (first
    | with_reducible assumption
    | with_reducible apply State.bump_fr
    | with_reducible apply State.drawEnds_fr
    | with_reducible apply State.mapChanged_fr
    | with_reducible apply State.record_fr
    | with_reducible apply State.setUnit_fr
    | with_reducible apply State.wr_fr
    | (with_reducible refine Frame.ite ?_ ?_)
    | ((with_reducible apply Sub.within hfw); exact rfl)
    | ((with_reducible apply Sub.within hfb); exact rfl)
    | ((with_reducible apply Mixed.of); exact rfl)
    | (apply hfb.bit (i := 4) rfl)
    | (apply hfb.bit (i := 6) rfl)
    | (apply hfb.bit (i := 11) rfl)
    | (apply hfb.bit (i := 12) rfl)
    | (apply hfb.bit (i := 13) rfl)
    | (apply hfb.bit (i := 14) rfl)
    | (apply hfb.bit (i := 17) rfl)
    | (extract_lets)
    | (fail_if_no_progress (with_reducible refine k0 _ _ ?_))
    | split
    | (intro _ _ _)
    | (intro _ e; have _hk : Frame _ _ _ _ := e)
    | (intro _ e; cases e)
    | dsimp only
    | (dsimp +zetaDelta only)
    | (fail_if_no_progress ((with_reducible refine Frame.upd ?_ hfw ?_ rfl ⟨rfl, rfl, rfl⟩); rotate_left; exact rfl)))

theorem execCoreSelftestDone_fr {fw fb : Nat} {s0 : State} (die core pass : Nat) (s : State) (hK : Frame fw fb s0 s) (hfw : Sub 630503947831869648 fw := by exact Sub.within hfw rfl) (hfb : Sub 161872 fb := by exact Sub.within hfb rfl) : ∀ u, execCoreSelftestDone die core pass s = .next u → Frame fw fb s0 u := by
  unfold execCoreSelftestDone
  repeat' (first
    | with_reducible assumption
    | with_reducible apply coreSelftestDone_fr
    | (with_reducible refine Frame.ite ?_ ?_)
    | ((with_reducible apply Sub.within hfw); exact rfl)
    | ((with_reducible apply Sub.within hfb); exact rfl)
    | ((with_reducible apply Mixed.of); exact rfl)
    | (apply hfb.bit (i := 4) rfl)
    | (apply hfb.bit (i := 6) rfl)
    | (apply hfb.bit (i := 11) rfl)
    | (apply hfb.bit (i := 12) rfl)
    | (apply hfb.bit (i := 13) rfl)
    | (apply hfb.bit (i := 14) rfl)
    | (apply hfb.bit (i := 17) rfl)
    | (extract_lets)
    | split
    | (intro _ _ _)
    | (intro _ e; have _hk : Frame _ _ _ _ := e)
    | (intro _ e; cases e)
    | dsimp only
    | (dsimp +zetaDelta only))

theorem State.bankRetire_fr {fw fb : Nat} {s0 : State} (s : State) (die b cause : Nat) (hK : Frame fw fb s0 s) (hfw : Sub 1181420283048847474896 fw := by exact Sub.within hfw rfl) (hfb : Sub 194640 fb := by exact Sub.within hfb rfl) : Frame fw fb s0 (State.bankRetire s die b cause) := by
  have key : ∀ t v, Frame fw fb s0 t → Frame fw fb s0 { t with bankMap := v } := fun t v ht => Frame.upd ht hfw rfl rfl ⟨rfl, rfl, rfl⟩
  unfold State.bankRetire
  extract_lets u t v
  have hv : Frame fw fb s0 v := State.bump_fr _ _ _ (State.setUnit_fr _ _ _ _ _ _ (Frame.upd hK hfw rfl rfl ⟨rfl, rfl, rfl⟩))
  clear_value v
  split
  · exact State.mapChanged_fr _ (State.record_fr _ _ _ _ _ (State.bump_fr _ _ _ (State.setUnit_fr _ _ _ _ _ _ (key _ _ hv))))
  · exact State.mapChanged_fr _ (State.exhausted_fr _ _ _ _ (State.record_fr _ _ _ _ _ hv))

theorem execBankRetire_fr {fw fb : Nat} {s0 : State} (die bank : Nat) (s : State) (hK : Frame fw fb s0 s) (hfw : Sub 1181420283048847474896 fw := by exact Sub.within hfw rfl) (hfb : Sub 194640 fb := by exact Sub.within hfb rfl) : ∀ u, execBankRetire die bank s = .next u → Frame fw fb s0 u := by
  unfold execBankRetire
  repeat' (first
    | with_reducible assumption
    | with_reducible apply State.bankRetire_fr
    | (with_reducible refine Frame.ite ?_ ?_)
    | ((with_reducible apply Sub.within hfw); exact rfl)
    | ((with_reducible apply Sub.within hfb); exact rfl)
    | ((with_reducible apply Mixed.of); exact rfl)
    | (apply hfb.bit (i := 4) rfl)
    | (apply hfb.bit (i := 6) rfl)
    | (apply hfb.bit (i := 11) rfl)
    | (apply hfb.bit (i := 12) rfl)
    | (apply hfb.bit (i := 13) rfl)
    | (apply hfb.bit (i := 14) rfl)
    | (apply hfb.bit (i := 15) rfl)
    | (apply hfb.bit (i := 17) rfl)
    | (extract_lets)
    | split
    | (intro _ _ _)
    | (intro _ e; have _hk : Frame _ _ _ _ := e)
    | (intro _ e; cases e)
    | dsimp only
    | (dsimp +zetaDelta only))

theorem State.testFailed_fr {fw fb : Nat} {s0 : State} (s : State) (cls g u : Nat) (hK : Frame fw fb s0 s) (hfw : Sub 612489549322387664 fw := by exact Sub.within hfw rfl) (hfb : Sub 161872 fb := by exact Sub.within hfb rfl) : Frame fw fb s0 (State.testFailed s cls g u) := by
  unfold State.testFailed
  repeat' (first
    | with_reducible assumption
    | with_reducible apply State.bump_fr
    | with_reducible apply State.mapChanged_fr
    | with_reducible apply State.record_fr
    | with_reducible apply State.setUnit_fr
    | (with_reducible refine Frame.ite ?_ ?_)
    | ((with_reducible apply Sub.within hfw); exact rfl)
    | ((with_reducible apply Sub.within hfb); exact rfl)
    | ((with_reducible apply Mixed.of); exact rfl)
    | (apply hfb.bit (i := 4) rfl)
    | (apply hfb.bit (i := 6) rfl)
    | (apply hfb.bit (i := 11) rfl)
    | (apply hfb.bit (i := 12) rfl)
    | (apply hfb.bit (i := 13) rfl)
    | (apply hfb.bit (i := 14) rfl)
    | (apply hfb.bit (i := 17) rfl)
    | (extract_lets)
    | split
    | (intro _ _ _)
    | (intro _ e; have _hk : Frame _ _ _ _ := e)
    | (intro _ e; cases e)
    | dsimp only
    | (dsimp +zetaDelta only))

theorem State.drawFor_fr {fw fb : Nat} {s0 : State} (s : State) (cls g : Nat) (failed : List Nat) (hK : Frame fw fb s0 s) (hfw : Sub 612489549322387664 fw := by exact Sub.within hfw rfl) (hfb : Sub 161872 fb := by exact Sub.within hfb rfl) : Frame fw fb s0 (State.drawFor s cls g failed).2 := by
  unfold State.drawFor
  repeat' (first
    | with_reducible assumption
    | with_reducible apply State.testFailed_fr
    | (with_reducible refine Frame.foldl ?_ ?_)
    | (with_reducible refine Frame.foldr ?_ ?_)
    | (with_reducible refine Frame.ite ?_ ?_)
    | ((with_reducible apply Sub.within hfw); exact rfl)
    | ((with_reducible apply Sub.within hfb); exact rfl)
    | ((with_reducible apply Mixed.of); exact rfl)
    | (apply hfb.bit (i := 4) rfl)
    | (apply hfb.bit (i := 6) rfl)
    | (apply hfb.bit (i := 11) rfl)
    | (apply hfb.bit (i := 12) rfl)
    | (apply hfb.bit (i := 13) rfl)
    | (apply hfb.bit (i := 14) rfl)
    | (apply hfb.bit (i := 17) rfl)
    | (extract_lets)
    | split
    | (intro _ _ _)
    | (intro _ e; have _hk : Frame _ _ _ _ := e)
    | (intro _ e; cases e)
    | dsimp only
    | (dsimp +zetaDelta only))

theorem State.drawFor_fr_at {fw fb : Nat} {s0 : State} {u : State} {r0} {s : State} {cls g : Nat} {failed : List Nat} (h_eq : State.drawFor s cls g failed = (r0, u)) (hK : Frame fw fb s0 s) (hfw : Sub 612489549322387664 fw := by exact Sub.within hfw rfl) (hfb : Sub 161872 fb := by exact Sub.within hfb rfl) : Frame fw fb s0 u := by
  have := State.drawFor_fr s cls g failed hK
  rw [h_eq] at this
  exact this

theorem State.unitRetire_fr {fw fb : Nat} {s0 : State} (s : State) (cls g u : Nat) (hK : Frame fw fb s0 s) (hfw : Sub 1765411053929237200 fw := by exact Sub.within hfw rfl) (hfb : Sub 161872 fb := by exact Sub.within hfb rfl) : Frame fw fb s0 (State.unitRetire s cls g u) := by
  unfold State.unitRetire
  repeat' (first
    | with_reducible assumption
    | with_reducible apply State.bump_fr
    | with_reducible apply State.engineLost_fr
    | with_reducible apply State.mapChanged_fr
    | with_reducible apply State.record_fr
    | with_reducible apply State.setUnit_fr
    | with_reducible apply State.wr_fr
    | (with_reducible refine Frame.ite ?_ ?_)
    | ((with_reducible apply Sub.within hfw); exact rfl)
    | ((with_reducible apply Sub.within hfb); exact rfl)
    | ((with_reducible apply Mixed.of); exact rfl)
    | (apply hfb.bit (i := 4) rfl)
    | (apply hfb.bit (i := 6) rfl)
    | (apply hfb.bit (i := 11) rfl)
    | (apply hfb.bit (i := 12) rfl)
    | (apply hfb.bit (i := 13) rfl)
    | (apply hfb.bit (i := 14) rfl)
    | (apply hfb.bit (i := 17) rfl)
    | (extract_lets)
    | split
    | (intro _ _ _)
    | (intro _ e; have _hk : Frame _ _ _ _ := e)
    | (intro _ e; cases e)
    | dsimp only
    | (dsimp +zetaDelta only))

theorem stockDraw_fr {fw fb : Nat} {s0 : State} (failed : List Nat) (s : State) (c : Cmd) (hK : Frame fw fb s0 s) (hfw : Sub 1837468647967165136 fw := by exact Sub.within hfw rfl) (hfb : Sub 161872 fb := by exact Sub.within hfb rfl) : Frame fw fb s0 (stockDraw failed s c) := by
  have k0 : ∀ (t : State) x0, Frame fw fb s0 t → Frame fw fb s0 { t with bankMap := x0 } := fun t x0 ht => Frame.upd ht hfw rfl rfl ⟨rfl, rfl, rfl⟩
  unfold stockDraw
  repeat' (first
    | with_reducible assumption
    | with_reducible apply State.assignEngines_fr
    | with_reducible apply State.bump_fr
    | with_reducible apply State.doneWith_fr
    | with_reducible apply State.drawFor_fr
    | (with_reducible apply State.drawFor_fr_at; with_reducible assumption)
    | with_reducible apply State.failWith_fr
    | with_reducible apply State.record_fr
    | with_reducible apply State.setUnit_fr
    | with_reducible apply State.unitRetire_fr
    | with_reducible apply State.wr_fr
    | (with_reducible refine Frame.ite ?_ ?_)
    | ((with_reducible apply Sub.within hfw); exact rfl)
    | ((with_reducible apply Sub.within hfb); exact rfl)
    | ((with_reducible apply Mixed.of); exact rfl)
    | (apply hfb.bit (i := 4) rfl)
    | (apply hfb.bit (i := 6) rfl)
    | (apply hfb.bit (i := 11) rfl)
    | (apply hfb.bit (i := 12) rfl)
    | (apply hfb.bit (i := 13) rfl)
    | (apply hfb.bit (i := 14) rfl)
    | (apply hfb.bit (i := 17) rfl)
    | (extract_lets)
    | (fail_if_no_progress (with_reducible refine k0 _ _ ?_))
    | split
    | (intro _ _ _)
    | (intro _ e; have _hk : Frame _ _ _ _ := e)
    | (intro _ e; cases e)
    | dsimp only
    | (dsimp +zetaDelta only)
    | (fail_if_no_progress ((with_reducible refine Frame.upd ?_ hfw ?_ rfl ⟨rfl, rfl, rfl⟩); rotate_left; exact rfl)))

theorem execStockDraw_fr {fw fb : Nat} {s0 : State} (k : Nat) (failed : List Nat) (s : State) (hK : Frame fw fb s0 s) (hfw : Sub 1837468647967165136 fw := by exact Sub.within hfw rfl) (hfb : Sub 161872 fb := by exact Sub.within hfb rfl) : ∀ u, execStockDraw k failed s = .next u → Frame fw fb s0 u := by
  unfold execStockDraw
  repeat' (first
    | with_reducible assumption
    | with_reducible apply State.runCmd_fr
    | with_reducible apply stockDraw_fr
    | (with_reducible refine Frame.ite ?_ ?_)
    | ((with_reducible apply Sub.within hfw); exact rfl)
    | ((with_reducible apply Sub.within hfb); exact rfl)
    | ((with_reducible apply Mixed.of); exact rfl)
    | (apply hfb.bit (i := 4) rfl)
    | (apply hfb.bit (i := 6) rfl)
    | (apply hfb.bit (i := 11) rfl)
    | (apply hfb.bit (i := 12) rfl)
    | (apply hfb.bit (i := 13) rfl)
    | (apply hfb.bit (i := 14) rfl)
    | (apply hfb.bit (i := 17) rfl)
    | (extract_lets)
    | split
    | (intro _ _ _)
    | (intro _ e; have _hk : Frame _ _ _ _ := e)
    | (intro _ e; cases e)
    | dsimp only
    | (dsimp +zetaDelta only))

theorem stockReturn_fr {fw fb : Nat} {s0 : State} (failed : List Nat) (s : State) (c : Cmd) (hK : Frame fw fb s0 s) (hfw : Sub 612489549322390224 fw := by exact Sub.within hfw rfl) (hfb : Sub 161872 fb := by exact Sub.within hfb rfl) : Frame fw fb s0 (stockReturn failed s c) := by
  unfold stockReturn
  repeat' (first
    | with_reducible assumption
    | with_reducible apply State.bump_fr
    | with_reducible apply State.doneWith_fr
    | with_reducible apply State.mapChanged_fr
    | with_reducible apply State.setUnit_fr
    | with_reducible apply State.testFailed_fr
    | (with_reducible refine Frame.ite ?_ ?_)
    | ((with_reducible apply Sub.within hfw); exact rfl)
    | ((with_reducible apply Sub.within hfb); exact rfl)
    | ((with_reducible apply Mixed.of); exact rfl)
    | (apply hfb.bit (i := 4) rfl)
    | (apply hfb.bit (i := 6) rfl)
    | (apply hfb.bit (i := 11) rfl)
    | (apply hfb.bit (i := 12) rfl)
    | (apply hfb.bit (i := 13) rfl)
    | (apply hfb.bit (i := 14) rfl)
    | (apply hfb.bit (i := 17) rfl)
    | (extract_lets)
    | split
    | (intro _ _ _)
    | (intro _ e; have _hk : Frame _ _ _ _ := e)
    | (intro _ e; cases e)
    | dsimp only
    | (dsimp +zetaDelta only))

theorem execStockReturn_fr {fw fb : Nat} {s0 : State} (k : Nat) (failed : List Nat) (s : State) (hK : Frame fw fb s0 s) (hfw : Sub 612489549322390224 fw := by exact Sub.within hfw rfl) (hfb : Sub 161872 fb := by exact Sub.within hfb rfl) : ∀ u, execStockReturn k failed s = .next u → Frame fw fb s0 u := by
  unfold execStockReturn
  repeat' (first
    | with_reducible assumption
    | with_reducible apply State.runCmd_fr
    | with_reducible apply stockReturn_fr
    | (with_reducible refine Frame.ite ?_ ?_)
    | ((with_reducible apply Sub.within hfw); exact rfl)
    | ((with_reducible apply Sub.within hfb); exact rfl)
    | ((with_reducible apply Mixed.of); exact rfl)
    | (apply hfb.bit (i := 4) rfl)
    | (apply hfb.bit (i := 6) rfl)
    | (apply hfb.bit (i := 11) rfl)
    | (apply hfb.bit (i := 12) rfl)
    | (apply hfb.bit (i := 13) rfl)
    | (apply hfb.bit (i := 14) rfl)
    | (apply hfb.bit (i := 17) rfl)
    | (extract_lets)
    | split
    | (intro _ _ _)
    | (intro _ e; have _hk : Frame _ _ _ _ := e)
    | (intro _ e; cases e)
    | dsimp only
    | (dsimp +zetaDelta only))

theorem stockSelftest_fr {fw fb : Nat} {s0 : State} (cls g u pass : Nat) (s : State) (hK : Frame fw fb s0 s) (hfw : Sub 18890078421027903242448 fw := by exact Sub.within hfw rfl) (hfb : Sub 161872 fb := by exact Sub.within hfb rfl) : Frame fw fb s0 (stockSelftest cls g u pass s) := by
  have k0 : ∀ (t : State) x0, Frame fw fb s0 t → Frame fw fb s0 { t with selfNow := x0 } := fun t x0 ht => Frame.upd ht hfw rfl rfl ⟨rfl, rfl, rfl⟩
  unfold stockSelftest
  repeat' (first
    | with_reducible assumption
    | with_reducible apply State.testFailed_fr
    | with_reducible apply State.testUnit_fr
    | (with_reducible refine Frame.ite ?_ ?_)
    | ((with_reducible apply Sub.within hfw); exact rfl)
    | ((with_reducible apply Sub.within hfb); exact rfl)
    | ((with_reducible apply Mixed.of); exact rfl)
    | (apply hfb.bit (i := 4) rfl)
    | (apply hfb.bit (i := 6) rfl)
    | (apply hfb.bit (i := 11) rfl)
    | (apply hfb.bit (i := 12) rfl)
    | (apply hfb.bit (i := 13) rfl)
    | (apply hfb.bit (i := 14) rfl)
    | (apply hfb.bit (i := 17) rfl)
    | (extract_lets)
    | (fail_if_no_progress (with_reducible refine k0 _ _ ?_))
    | split
    | (intro _ _ _)
    | (intro _ e; have _hk : Frame _ _ _ _ := e)
    | (intro _ e; cases e)
    | dsimp only
    | (dsimp +zetaDelta only)
    | (fail_if_no_progress ((with_reducible refine Frame.upd ?_ hfw ?_ rfl ⟨rfl, rfl, rfl⟩); rotate_left; exact rfl)))

theorem execStockSelftest_fr {fw fb : Nat} {s0 : State} (cls group unit pass : Nat) (s : State) (hK : Frame fw fb s0 s) (hfw : Sub 18890078421027903242448 fw := by exact Sub.within hfw rfl) (hfb : Sub 161872 fb := by exact Sub.within hfb rfl) : ∀ u, execStockSelftest cls group unit pass s = .next u → Frame fw fb s0 u := by
  unfold execStockSelftest
  repeat' (first
    | with_reducible assumption
    | with_reducible apply stockSelftest_fr
    | (with_reducible refine Frame.ite ?_ ?_)
    | ((with_reducible apply Sub.within hfw); exact rfl)
    | ((with_reducible apply Sub.within hfb); exact rfl)
    | ((with_reducible apply Mixed.of); exact rfl)
    | (apply hfb.bit (i := 4) rfl)
    | (apply hfb.bit (i := 6) rfl)
    | (apply hfb.bit (i := 11) rfl)
    | (apply hfb.bit (i := 12) rfl)
    | (apply hfb.bit (i := 13) rfl)
    | (apply hfb.bit (i := 14) rfl)
    | (apply hfb.bit (i := 17) rfl)
    | (extract_lets)
    | split
    | (intro _ _ _)
    | (intro _ e; have _hk : Frame _ _ _ _ := e)
    | (intro _ e; cases e)
    | dsimp only
    | (dsimp +zetaDelta only))

end Sys2Proof.Machine
end

