-- ==== Sys2Proof/Laws/Frame/Dispatcher.lean ====
section
/-! SUPPORT. What the operations of Machine/Dispatcher.lean leave as it was (`Frame`): one lemma each. -/

set_option linter.unreachableTactic false
set_option linter.unusedTactic false

namespace Sys2Proof.Machine

set_option Elab.async false

open Sys2Proof

theorem misdealFld_blk (a b c : Nat) : (misdealFld a b c).blk = 6 := by
  unfold misdealFld
  split <;> rfl

theorem State.wantTilePage_fr {fw fb : Nat} {s0 : State} (s : State) (l : Launch) (d va : Nat) (leaf : Option Nat) (need : List Nat) (hK : Frame fw fb s0 s) (hfw : Sub 140737490452480 fw := by exact Sub.within hfw rfl) : Frame fw fb s0 (State.wantTilePage s l d va leaf need) := by
  unfold State.wantTilePage
  repeat' (first
    | with_reducible assumption
    | with_reducible apply State.launchMap_fr
    | with_reducible apply State.want_fr
    | (with_reducible refine Frame.ite ?_ ?_)
    | ((with_reducible apply Sub.within hfw); exact rfl)
    | ((with_reducible apply Sub.within hfb); exact rfl)
    | ((with_reducible apply Mixed.of); exact rfl)
    | (extract_lets)
    | split
    | (intro _ _ _)
    | (intro _ e; have _hk : Frame _ _ _ _ := e)
    | (intro _ e; cases e)
    | dsimp only
    | (dsimp +zetaDelta only))

theorem State.dispatch_fr {fw fb : Nat} {s0 : State} (s : State) (l : Launch) (d core : Nat) (w : List Nat) (hK : Frame fw fb s0 s) (hfw : Sub 140743930806272 fw := by exact Sub.within hfw rfl) : Frame fw fb s0 (State.dispatch s l d core w) := by
  have k0 : ∀ (t : State) x0 x1, Frame fw fb s0 t → Frame fw fb s0 { t with tiles := x0, nextTile := x1 } := fun t x0 x1 ht => Frame.upd ht hfw rfl rfl ⟨rfl, rfl, rfl⟩
  unfold State.dispatch
  repeat' (first
    | with_reducible assumption
    | with_reducible apply State.launchMap_fr
    | (with_reducible refine Frame.getD ?_ ?_)
    | (with_reducible refine Frame.ite ?_ ?_)
    | ((with_reducible apply Sub.within hfw); exact rfl)
    | ((with_reducible apply Sub.within hfb); exact rfl)
    | ((with_reducible apply Mixed.of); exact rfl)
    | (extract_lets)
    | (fail_if_no_progress (with_reducible refine k0 _ _ _ ?_))
    | split
    | (intro _ _ _)
    | (intro _ e; have _hk : Frame _ _ _ _ := e)
    | (intro _ e; cases e)
    | dsimp only
    | (dsimp +zetaDelta only)
    | (fail_if_no_progress ((with_reducible refine Frame.upd ?_ hfw ?_ rfl ⟨rfl, rfl, rfl⟩); rotate_left; exact rfl)))

theorem State.redispatch_fr {fw fb : Nat} {s0 : State} (s : State) (t : Tile) (core : Nat) (hK : Frame fw fb s0 s) (hfw : Sub 2147483648 fw := by exact Sub.within hfw rfl) : Frame fw fb s0 (State.redispatch s t core) := by
  have k0 : ∀ (t : State) x0, Frame fw fb s0 t → Frame fw fb s0 { t with tiles := x0 } := fun t x0 ht => Frame.upd ht hfw rfl rfl ⟨rfl, rfl, rfl⟩
  unfold State.redispatch
  repeat' (first
    | with_reducible assumption
    | (with_reducible refine Frame.ite ?_ ?_)
    | ((with_reducible apply Sub.within hfw); exact rfl)
    | ((with_reducible apply Sub.within hfb); exact rfl)
    | ((with_reducible apply Mixed.of); exact rfl)
    | (extract_lets)
    | (fail_if_no_progress (with_reducible refine k0 _ _ ?_))
    | split
    | (intro _ _ _)
    | (intro _ e; have _hk : Frame _ _ _ _ := e)
    | (intro _ e; cases e)
    | dsimp only
    | (dsimp +zetaDelta only)
    | (fail_if_no_progress ((with_reducible refine Frame.upd ?_ hfw ?_ rfl ⟨rfl, rfl, rfl⟩); rotate_left; exact rfl)))

theorem tileStart_fr {fw fb : Nat} {s0 : State} (d core : Nat) (s : State) (hK : Frame fw fb s0 s) (hfw : Sub 140743932903424 fw := by exact Sub.within hfw rfl) : Frame fw fb s0 (tileStart d core s) := by
  unfold tileStart
  repeat' (first
    | with_reducible assumption
    | with_reducible apply State.dispatch_fr
    | with_reducible apply State.redispatch_fr
    | with_reducible apply State.wantTilePage_fr
    | (with_reducible refine Frame.ite ?_ ?_)
    | ((with_reducible apply Sub.within hfw); exact rfl)
    | ((with_reducible apply Sub.within hfb); exact rfl)
    | ((with_reducible apply Mixed.of); exact rfl)
    | (extract_lets)
    | split
    | (intro _ _ _)
    | (intro _ e; have _hk : Frame _ _ _ _ := e)
    | (intro _ e; cases e)
    | dsimp only
    | (dsimp +zetaDelta only))

theorem State.abandonTiles_fr {fw fb : Nat} {s0 : State} (s : State) (d core keep : Nat) (hK : Frame fw fb s0 s) (hfw : Sub 2147483648 fw := by exact Sub.within hfw rfl) : Frame fw fb s0 (State.abandonTiles s d core keep) := by
  have k0 : ∀ (t : State) x0, Frame fw fb s0 t → Frame fw fb s0 { t with tiles := x0 } := fun t x0 ht => Frame.upd ht hfw rfl rfl ⟨rfl, rfl, rfl⟩
  unfold State.abandonTiles
  repeat' (first
    | with_reducible assumption
    | (with_reducible refine Frame.ite ?_ ?_)
    | ((with_reducible apply Sub.within hfw); exact rfl)
    | ((with_reducible apply Sub.within hfb); exact rfl)
    | ((with_reducible apply Mixed.of); exact rfl)
    | (extract_lets)
    | (fail_if_no_progress (with_reducible refine k0 _ _ ?_))
    | split
    | (intro _ _ _)
    | (intro _ e; have _hk : Frame _ _ _ _ := e)
    | (intro _ e; cases e)
    | dsimp only
    | (dsimp +zetaDelta only)
    | (fail_if_no_progress ((with_reducible refine Frame.upd ?_ hfw ?_ rfl ⟨rfl, rfl, rfl⟩); rotate_left; exact rfl)))

theorem State.misdealOne_fr {fw fb : Nat} {s0 : State} (t : Tile) (cause : Nat) (s : State) (p : Nat × Nat × Nat) (hK : Frame fw fb s0 s) (hfw : Sub 630503975749157072 fw := by exact Sub.within hfw rfl) (hfb : Sub 161872 fb := by exact Sub.within hfb rfl) : Frame fw fb s0 (State.misdealOne t cause s p) := by
  have k0 : ∀ (t : State) x0, Frame fw fb s0 t → Frame fw fb s0 { t with injects := x0 } := fun t x0 ht => Frame.upd ht hfw rfl rfl ⟨rfl, rfl, rfl⟩
  have k1 : ∀ (t : State) x0, Frame fw fb s0 t → Frame fw fb s0 { t with arming := x0 } := fun t x0 ht => Frame.upd ht hfw rfl rfl ⟨rfl, rfl, rfl⟩
  unfold State.misdealOne
  repeat' (first
    | with_reducible assumption
    | with_reducible apply State.abandonTiles_fr
    | with_reducible apply State.bump_fr
    | with_reducible apply State.coreRetire_fr
    | with_reducible apply State.record_fr
    | with_reducible apply State.wr_fr
    | (unfold autoParam; rw [misdealFld_blk]; exact hfb.bit rfl)
    | (with_reducible refine Frame.ite ?_ ?_)
    | ((with_reducible apply Sub.within hfw); exact rfl)
    | ((with_reducible apply Sub.within hfb); exact rfl)
    | ((with_reducible apply Mixed.of); exact rfl)
    | (apply hfb.bit (i := 4) rfl)
    | (apply hfb.bit (i := 6) rfl)
    | (apply hfb.bit (i := 11) rfl)
    | (apply hfb.bit (i := 12) rfl)
    | (apply hfb.bit (i := 13) rfl)
    | (apply hfb.bit (i := 14) rfl)
    | (apply hfb.bit (i := 17) rfl)
    | (extract_lets)
    | (fail_if_no_progress (with_reducible refine k0 _ _ ?_))
    | (fail_if_no_progress (with_reducible refine k1 _ _ ?_))
    | split
    | (intro _ _ _)
    | (intro _ e; have _hk : Frame _ _ _ _ := e)
    | (intro _ e; cases e)
    | dsimp only
    | (dsimp +zetaDelta only)
    | (fail_if_no_progress ((with_reducible refine Frame.upd ?_ hfw ?_ rfl ⟨rfl, rfl, rfl⟩); rotate_left; exact rfl)))

theorem State.tileOff_fr {fw fb : Nat} {s0 : State} (s : State) (i : Nat) (hK : Frame fw fb s0 s) (hfw : Sub 2147483648 fw := by exact Sub.within hfw rfl) : Frame fw fb s0 (State.tileOff s i) := by
  have k0 : ∀ (t : State) x0, Frame fw fb s0 t → Frame fw fb s0 { t with tiles := x0 } := fun t x0 ht => Frame.upd ht hfw rfl rfl ⟨rfl, rfl, rfl⟩
  unfold State.tileOff
  repeat' (first
    | with_reducible assumption
    | (with_reducible refine Frame.ite ?_ ?_)
    | ((with_reducible apply Sub.within hfw); exact rfl)
    | ((with_reducible apply Sub.within hfb); exact rfl)
    | ((with_reducible apply Mixed.of); exact rfl)
    | (extract_lets)
    | (fail_if_no_progress (with_reducible refine k0 _ _ ?_))
    | split
    | (intro _ _ _)
    | (intro _ e; have _hk : Frame _ _ _ _ := e)
    | (intro _ e; cases e)
    | dsimp only
    | (dsimp +zetaDelta only)
    | (fail_if_no_progress ((with_reducible refine Frame.upd ?_ hfw ?_ rfl ⟨rfl, rfl, rfl⟩); rotate_left; exact rfl)))

theorem State.tilePut_fr {fw fb : Nat} {s0 : State} (s : State) (t : Tile) (hK : Frame fw fb s0 s) (hfw : Sub 2147483648 fw := by exact Sub.within hfw rfl) : Frame fw fb s0 (State.tilePut s t) := by
  have k0 : ∀ (t : State) x0, Frame fw fb s0 t → Frame fw fb s0 { t with tiles := x0 } := fun t x0 ht => Frame.upd ht hfw rfl rfl ⟨rfl, rfl, rfl⟩
  unfold State.tilePut
  repeat' (first
    | with_reducible assumption
    | (with_reducible refine Frame.ite ?_ ?_)
    | ((with_reducible apply Sub.within hfw); exact rfl)
    | ((with_reducible apply Sub.within hfb); exact rfl)
    | ((with_reducible apply Mixed.of); exact rfl)
    | (extract_lets)
    | (fail_if_no_progress (with_reducible refine k0 _ _ ?_))
    | split
    | (intro _ _ _)
    | (intro _ e; have _hk : Frame _ _ _ _ := e)
    | (intro _ e; cases e)
    | dsimp only
    | (dsimp +zetaDelta only)
    | (fail_if_no_progress ((with_reducible refine Frame.upd ?_ hfw ?_ rfl ⟨rfl, rfl, rfl⟩); rotate_left; exact rfl)))

theorem State.unrecovered_fr {fw fb : Nat} {s0 : State} (s : State) (t : Tile) (core : Nat) (hK : Frame fw fb s0 s) (hfw : Sub 774059407182544 fw := by exact Sub.within hfw rfl) (hfb : Sub 131156 fb := by exact Sub.within hfb rfl) : Frame fw fb s0 (State.unrecovered s t core) := by
  have k0 : ∀ (t : State) x0, Frame fw fb s0 t → Frame fw fb s0 { t with topo := x0 } := fun t x0 ht => Frame.upd ht hfw rfl rfl ⟨rfl, rfl, rfl⟩
  unfold State.unrecovered
  repeat' (first
    | with_reducible assumption
    | with_reducible apply State.bump_fr
    | with_reducible apply State.endLaunch_fr
    | with_reducible apply State.record_fr
    | with_reducible apply State.tileOff_fr
    | (with_reducible refine Frame.ite ?_ ?_)
    | ((with_reducible apply Sub.within hfw); exact rfl)
    | ((with_reducible apply Sub.within hfb); exact rfl)
    | ((with_reducible apply Mixed.of); exact rfl)
    | (apply hfb.bit (i := 2) rfl)
    | (apply hfb.bit (i := 4) rfl)
    | (apply hfb.bit (i := 6) rfl)
    | (apply hfb.bit (i := 17) rfl)
    | (extract_lets)
    | (fail_if_no_progress (with_reducible refine k0 _ _ ?_))
    | split
    | (intro _ _ _)
    | (intro _ e; have _hk : Frame _ _ _ _ := e)
    | (intro _ e; cases e)
    | dsimp only
    | (dsimp +zetaDelta only)
    | (fail_if_no_progress ((with_reducible refine Frame.upd ?_ hfw ?_ rfl ⟨rfl, rfl, rfl⟩); rotate_left; exact rfl)))

theorem State.redealCount_fr {fw fb : Nat} {s0 : State} (s : State) (d : Nat) (hK : Frame fw fb s0 s) (hfb : Sub 64 fb := by exact Sub.within hfb rfl) : Frame fw fb s0 (State.redealCount s d) := by
  unfold State.redealCount
  repeat' (first
    | with_reducible assumption
    | with_reducible apply State.bump_fr
    | (with_reducible refine Frame.ite ?_ ?_)
    | ((with_reducible apply Sub.within hfw); exact rfl)
    | ((with_reducible apply Sub.within hfb); exact rfl)
    | ((with_reducible apply Mixed.of); exact rfl)
    | (apply hfb.bit (i := 6) rfl)
    | (extract_lets)
    | split
    | (intro _ _ _)
    | (intro _ e; have _hk : Frame _ _ _ _ := e)
    | (intro _ e; cases e)
    | dsimp only
    | (dsimp +zetaDelta only))

theorem State.tileCharge_fr {fw fb : Nat} {s0 : State} (s : State) (l : Launch) (t : Tile) (hK : Frame fw fb s0 s) (hfw : Sub 2462906046218240 fw := by exact Sub.within hfw rfl) : Frame fw fb s0 (State.tileCharge s l t) := by
  have k0 : ∀ (t : State) x0, Frame fw fb s0 t → Frame fw fb s0 { t with coreFree := x0 } := fun t x0 ht => Frame.upd ht hfw rfl rfl ⟨rfl, rfl, rfl⟩
  unfold State.tileCharge
  repeat' (first
    | with_reducible assumption
    | with_reducible apply State.chargeNs_fr
    | with_reducible apply State.launchMap_fr
    | (with_reducible refine Frame.ite ?_ ?_)
    | ((with_reducible apply Sub.within hfw); exact rfl)
    | ((with_reducible apply Sub.within hfb); exact rfl)
    | ((with_reducible apply Mixed.of); exact rfl)
    | (extract_lets)
    | (fail_if_no_progress (with_reducible refine k0 _ _ ?_))
    | split
    | (intro _ _ _)
    | (intro _ e; have _hk : Frame _ _ _ _ := e)
    | (intro _ e; cases e)
    | dsimp only
    | (dsimp +zetaDelta only)
    | (fail_if_no_progress ((with_reducible refine Frame.upd ?_ hfw ?_ rfl ⟨rfl, rfl, rfl⟩); rotate_left; exact rfl)))

theorem State.tileAccept_fr {fw fb : Nat} {s0 : State} (s : State) (l : Launch) (t : Tile) (crossed : Bool) (hK : Frame fw fb s0 s) (hfw : Sub 2361186267293626141402 fw := by exact Sub.within hfw rfl) (hfb : Sub 131676 fb := by exact Sub.within hfb rfl) : Frame fw fb s0 (State.tileAccept s l t crossed) := by
  unfold State.tileAccept
  repeat' (first
    | with_reducible assumption
    | with_reducible apply State.bump_fr
    | with_reducible apply State.endLaunch_fr
    | with_reducible apply State.putAll_fr
    | (with_reducible apply State.putAll_fr_ok; with_reducible assumption)
    | (with_reducible apply State.putAll_fr_stop; with_reducible assumption)
    | (with_reducible apply State.putAll_fr_bad; with_reducible assumption)
    | with_reducible apply State.record_fr
    | with_reducible apply State.tileCharge_fr
    | with_reducible apply State.tileOff_fr
    | (with_reducible refine Frame.ite ?_ ?_)
    | ((with_reducible apply Sub.within hfw); exact rfl)
    | ((with_reducible apply Sub.within hfb); exact rfl)
    | ((with_reducible apply Mixed.of); exact rfl)
    | (apply hfb.bit (i := 2) rfl)
    | (apply hfb.bit (i := 3) rfl)
    | (apply hfb.bit (i := 4) rfl)
    | (apply hfb.bit (i := 6) rfl)
    | (apply hfb.bit (i := 9) rfl)
    | (apply hfb.bit (i := 17) rfl)
    | (extract_lets)
    | split
    | (intro _ _ _)
    | (intro _ e; have _hk : Frame _ _ _ _ := e)
    | (intro _ e; cases e)
    | dsimp only
    | (dsimp +zetaDelta only))

theorem State.verdictPass_fr {fw fb : Nat} {s0 : State} (s : State) (l : Launch) (t : Tile) (hK : Frame fw fb s0 s) (hfw : Sub 2361186267293626141402 fw := by exact Sub.within hfw rfl) (hfb : Sub 131676 fb := by exact Sub.within hfb rfl) : Frame fw fb s0 (State.verdictPass s l t) := by
  unfold State.verdictPass
  repeat' (first
    | with_reducible assumption
    | with_reducible apply State.redealCount_fr
    | with_reducible apply State.tileAccept_fr
    | with_reducible apply State.tilePut_fr
    | (with_reducible refine Frame.ite ?_ ?_)
    | ((with_reducible apply Sub.within hfw); exact rfl)
    | ((with_reducible apply Sub.within hfb); exact rfl)
    | ((with_reducible apply Mixed.of); exact rfl)
    | (apply hfb.bit (i := 2) rfl)
    | (apply hfb.bit (i := 3) rfl)
    | (apply hfb.bit (i := 4) rfl)
    | (apply hfb.bit (i := 6) rfl)
    | (apply hfb.bit (i := 9) rfl)
    | (apply hfb.bit (i := 17) rfl)
    | (extract_lets)
    | split
    | (intro _ _ _)
    | (intro _ e; have _hk : Frame _ _ _ _ := e)
    | (intro _ e; cases e)
    | dsimp only
    | (dsimp +zetaDelta only))

theorem State.verdictBad_fr {fw fb : Nat} {s0 : State} (s : State) (l : Launch) (t : Tile) (bad : List (Nat × Nat × Nat)) (port : Bool) (hK : Frame fw fb s0 s) (hfw : Sub 631278033008855770 fw := by exact Sub.within hfw rfl) (hfb : Sub 161876 fb := by exact Sub.within hfb rfl) : Frame fw fb s0 (State.verdictBad s l t bad port) := by
  unfold State.verdictBad
  repeat' (first
    | with_reducible assumption
    | with_reducible apply State.abandonTiles_fr
    | with_reducible apply State.coreRetire_fr
    | with_reducible apply State.misdealOne_fr
    | with_reducible apply State.redealCount_fr
    | with_reducible apply State.redealWeights_fr
    | with_reducible apply State.tilePut_fr
    | with_reducible apply State.unrecovered_fr
    | (with_reducible refine Frame.foldl ?_ ?_)
    | (with_reducible refine Frame.foldr ?_ ?_)
    | (with_reducible refine Frame.getD ?_ ?_)
    | (with_reducible refine Frame.ite ?_ ?_)
    | ((with_reducible apply Sub.within hfw); exact rfl)
    | ((with_reducible apply Sub.within hfb); exact rfl)
    | ((with_reducible apply Mixed.of); exact rfl)
    | (apply hfb.bit (i := 2) rfl)
    | (apply hfb.bit (i := 4) rfl)
    | (apply hfb.bit (i := 6) rfl)
    | (apply hfb.bit (i := 11) rfl)
    | (apply hfb.bit (i := 12) rfl)
    | (apply hfb.bit (i := 13) rfl)
    | (apply hfb.bit (i := 14) rfl)
    | (apply hfb.bit (i := 17) rfl)
    | (extract_lets)
    | split
    | (intro _ _ _)
    | (intro _ e; have _hk : Frame _ _ _ _ := e)
    | (intro _ e; cases e)
    | dsimp only
    | (dsimp +zetaDelta only))

theorem State.nanCount_fr {fw fb : Nat} {s0 : State} (s : State) (l : Launch) (t : Tile) (hK : Frame fw fb s0 s) (hfb : Sub 64 fb := by exact Sub.within hfb rfl) : Frame fw fb s0 (State.nanCount s l t) := by
  unfold State.nanCount
  repeat' (first
    | with_reducible assumption
    | with_reducible apply State.bump_fr
    | (with_reducible refine Frame.ite ?_ ?_)
    | ((with_reducible apply Sub.within hfw); exact rfl)
    | ((with_reducible apply Sub.within hfb); exact rfl)
    | ((with_reducible apply Mixed.of); exact rfl)
    | (apply hfb.bit (i := 6) rfl)
    | (extract_lets)
    | split
    | (intro _ _ _)
    | (intro _ e; have _hk : Frame _ _ _ _ := e)
    | (intro _ e; cases e)
    | dsimp only
    | (dsimp +zetaDelta only))

theorem tileVerdict_fr {fw fb : Nat} {s0 : State} (i : Nat) (misdeals : List Nat) (port : Nat) (s : State) (hK : Frame fw fb s0 s) (hfw : Sub 2361816771268301556442 fw := by exact Sub.within hfw rfl) (hfb : Sub 162396 fb := by exact Sub.within hfb rfl) : Frame fw fb s0 (tileVerdict i misdeals port s) := by
  unfold tileVerdict
  repeat' (first
    | with_reducible assumption
    | with_reducible apply State.nanCount_fr
    | with_reducible apply State.tileOff_fr
    | with_reducible apply State.verdictBad_fr
    | with_reducible apply State.verdictPass_fr
    | (with_reducible refine Frame.ite ?_ ?_)
    | ((with_reducible apply Sub.within hfw); exact rfl)
    | ((with_reducible apply Sub.within hfb); exact rfl)
    | ((with_reducible apply Mixed.of); exact rfl)
    | (apply hfb.bit (i := 2) rfl)
    | (apply hfb.bit (i := 3) rfl)
    | (apply hfb.bit (i := 4) rfl)
    | (apply hfb.bit (i := 6) rfl)
    | (apply hfb.bit (i := 9) rfl)
    | (apply hfb.bit (i := 11) rfl)
    | (apply hfb.bit (i := 12) rfl)
    | (apply hfb.bit (i := 13) rfl)
    | (apply hfb.bit (i := 14) rfl)
    | (apply hfb.bit (i := 17) rfl)
    | (extract_lets)
    | split
    | (intro _ _ _)
    | (intro _ e; have _hk : Frame _ _ _ _ := e)
    | (intro _ e; cases e)
    | dsimp only
    | (dsimp +zetaDelta only))

theorem execTileVerdict_fr {fw fb : Nat} {s0 : State} (tile : Nat) (misdeals : List Nat) (port : Nat) (s : State) (hK : Frame fw fb s0 s) (hfw : Sub 2361816771268301556442 fw := by exact Sub.within hfw rfl) (hfb : Sub 162396 fb := by exact Sub.within hfb rfl) : ∀ u, execTileVerdict tile misdeals port s = .next u → Frame fw fb s0 u := by
  unfold execTileVerdict
  repeat' (first
    | with_reducible assumption
    | with_reducible apply tileVerdict_fr
    | (with_reducible refine Frame.ite ?_ ?_)
    | ((with_reducible apply Sub.within hfw); exact rfl)
    | ((with_reducible apply Sub.within hfb); exact rfl)
    | ((with_reducible apply Mixed.of); exact rfl)
    | (apply hfb.bit (i := 2) rfl)
    | (apply hfb.bit (i := 3) rfl)
    | (apply hfb.bit (i := 4) rfl)
    | (apply hfb.bit (i := 6) rfl)
    | (apply hfb.bit (i := 9) rfl)
    | (apply hfb.bit (i := 11) rfl)
    | (apply hfb.bit (i := 12) rfl)
    | (apply hfb.bit (i := 13) rfl)
    | (apply hfb.bit (i := 14) rfl)
    | (apply hfb.bit (i := 17) rfl)
    | (extract_lets)
    | split
    | (intro _ _ _)
    | (intro _ e; have _hk : Frame _ _ _ _ := e)
    | (intro _ e; cases e)
    | dsimp only
    | (dsimp +zetaDelta only))

theorem armingExpiry_fr {fw fb : Nat} {s0 : State} (d c a : Nat) (s : State) (hK : Frame fw fb s0 s) (hfw : Sub 8589934592 fw := by exact Sub.within hfw rfl) (hfb : Sub 64 fb := by exact Sub.within hfb rfl) : Frame fw fb s0 (armingExpiry d c a s) := by
  have k0 : ∀ (t : State) x0, Frame fw fb s0 t → Frame fw fb s0 { t with arming := x0 } := fun t x0 ht => Frame.upd ht hfw rfl rfl ⟨rfl, rfl, rfl⟩
  unfold armingExpiry
  repeat' (first
    | with_reducible assumption
    | with_reducible apply State.wr_fr
    | (with_reducible refine Frame.ite ?_ ?_)
    | ((with_reducible apply Sub.within hfw); exact rfl)
    | ((with_reducible apply Sub.within hfb); exact rfl)
    | ((with_reducible apply Mixed.of); exact rfl)
    | (apply hfb.bit (i := 6) rfl)
    | (extract_lets)
    | (fail_if_no_progress (with_reducible refine k0 _ _ ?_))
    | split
    | (intro _ _ _)
    | (intro _ e; have _hk : Frame _ _ _ _ := e)
    | (intro _ e; cases e)
    | dsimp only
    | (dsimp +zetaDelta only)
    | (fail_if_no_progress ((with_reducible refine Frame.upd ?_ hfw ?_ rfl ⟨rfl, rfl, rfl⟩); rotate_left; exact rfl)))

theorem execArmingExpiry_fr {fw fb : Nat} {s0 : State} (die core array : Nat) (s : State) (hK : Frame fw fb s0 s) (hfw : Sub 8589934592 fw := by exact Sub.within hfw rfl) (hfb : Sub 64 fb := by exact Sub.within hfb rfl) : ∀ u, execArmingExpiry die core array s = .next u → Frame fw fb s0 u := by
  unfold execArmingExpiry
  repeat' (first
    | with_reducible assumption
    | with_reducible apply armingExpiry_fr
    | (with_reducible refine Frame.ite ?_ ?_)
    | ((with_reducible apply Sub.within hfw); exact rfl)
    | ((with_reducible apply Sub.within hfb); exact rfl)
    | ((with_reducible apply Mixed.of); exact rfl)
    | (apply hfb.bit (i := 6) rfl)
    | (extract_lets)
    | split
    | (intro _ _ _)
    | (intro _ e; have _hk : Frame _ _ _ _ := e)
    | (intro _ e; cases e)
    | dsimp only
    | (dsimp +zetaDelta only))

theorem mtxInject_fr {fw fb : Nat} {s0 : State} (v : Nat) (s : State) (hK : Frame fw fb s0 s) (hfw : Sub 17179869184 fw := by exact Sub.within hfw rfl) : Frame fw fb s0 (mtxInject v s) := by
  have k0 : ∀ (t : State) x0, Frame fw fb s0 t → Frame fw fb s0 { t with injects := x0 } := fun t x0 ht => Frame.upd ht hfw rfl rfl ⟨rfl, rfl, rfl⟩
  unfold mtxInject
  repeat' (first
    | with_reducible assumption
    | (with_reducible refine Frame.ite ?_ ?_)
    | ((with_reducible apply Sub.within hfw); exact rfl)
    | ((with_reducible apply Sub.within hfb); exact rfl)
    | ((with_reducible apply Mixed.of); exact rfl)
    | (extract_lets)
    | (fail_if_no_progress (with_reducible refine k0 _ _ ?_))
    | split
    | (intro _ _ _)
    | (intro _ e; have _hk : Frame _ _ _ _ := e)
    | (intro _ e; cases e)
    | dsimp only
    | (dsimp +zetaDelta only)
    | (fail_if_no_progress ((with_reducible refine Frame.upd ?_ hfw ?_ rfl ⟨rfl, rfl, rfl⟩); rotate_left; exact rfl)))

theorem execMtxInject_fr {fw fb : Nat} {s0 : State} (value : Nat) (s : State) (hK : Frame fw fb s0 s) (hfw : Sub 17179869184 fw := by exact Sub.within hfw rfl) : ∀ u, execMtxInject value s = .next u → Frame fw fb s0 u := by
  unfold execMtxInject
  repeat' (first
    | with_reducible assumption
    | with_reducible apply mtxInject_fr
    | (with_reducible refine Frame.ite ?_ ?_)
    | ((with_reducible apply Sub.within hfw); exact rfl)
    | ((with_reducible apply Sub.within hfb); exact rfl)
    | ((with_reducible apply Mixed.of); exact rfl)
    | (extract_lets)
    | split
    | (intro _ _ _)
    | (intro _ e; have _hk : Frame _ _ _ _ := e)
    | (intro _ e; cases e)
    | dsimp only
    | (dsimp +zetaDelta only))

end Sys2Proof.Machine
end

