-- ==== Sys2Proof/Laws/Frame/Control.lean ====
section
/-! SUPPORT. What the operations of Machine/Control.lean leave as it was (`Frame`): one lemma each. -/

set_option linter.unreachableTactic false
set_option linter.unusedTactic false

namespace Sys2Proof.Machine

set_option Elab.async false

open Sys2Proof

theorem execNop_fr {fw fb : Nat} {s0 : State} (k : Nat) (s : State) (hK : Frame fw fb s0 s) (hfw : Sub 2560 fw := by exact Sub.within hfw rfl) : ∀ u, execNop k s = .next u → Frame fw fb s0 u := by
  unfold execNop
  repeat' (first
    | with_reducible assumption
    | with_reducible apply State.doneWith_fr
    | with_reducible apply State.runCmd_fr
    | (with_reducible refine Frame.ite ?_ ?_)
    | ((with_reducible apply Sub.within hfw); exact rfl)
    | ((with_reducible apply Sub.within hfb); exact rfl)
    | ((with_reducible apply Mixed.of); exact rfl)
    | (extract_lets)
    | split
    | (intro _ _ _)
    | (intro _ e; have _hk : Frame _ _ _ _ := e)
    | (intro _ e; cases e)
    | dsimp only
    | (dsimp +zetaDelta only))

theorem execFence_fr {fw fb : Nat} {s0 : State} (k : Nat) (s : State) (hK : Frame fw fb s0 s) (hfw : Sub 2560 fw := by exact Sub.within hfw rfl) : ∀ u, execFence k s = .next u → Frame fw fb s0 u := by
  unfold execFence
  repeat' (first
    | with_reducible assumption
    | with_reducible apply State.doneWith_fr
    | with_reducible apply State.runCmd_fr
    | (with_reducible refine Frame.ite ?_ ?_)
    | ((with_reducible apply Sub.within hfw); exact rfl)
    | ((with_reducible apply Sub.within hfb); exact rfl)
    | ((with_reducible apply Mixed.of); exact rfl)
    | (extract_lets)
    | split
    | (intro _ _ _)
    | (intro _ e; have _hk : Frame _ _ _ _ := e)
    | (intro _ e; cases e)
    | dsimp only
    | (dsimp +zetaDelta only))

theorem signal_fr {fw fb : Nat} {s0 : State} (s : State) (c : Cmd) (hK : Frame fw fb s0 s) (hfw : Sub 2361183241435462240776 fw := by exact Sub.within hfw rfl) (hfb : Sub 524 fb := by exact Sub.within hfb rfl) : Frame fw fb s0 (signal s c) := by
  unfold signal
  repeat' (first
    | with_reducible assumption
    | with_reducible apply State.cmdAccess_fr
    | (with_reducible apply State.cmdAccess_fr_stop; with_reducible assumption)
    | with_reducible apply State.doneWith_fr
    | with_reducible apply State.hostStore_fr
    | with_reducible apply State.remoteAtomic_fr
    | with_reducible apply State.remoteWrite_fr
    | with_reducible apply State.start_fr
    | with_reducible apply State.store_fr
    | (with_reducible refine Frame.ite ?_ ?_)
    | ((with_reducible apply Sub.within hfw); exact rfl)
    | ((with_reducible apply Sub.within hfb); exact rfl)
    | ((with_reducible apply Mixed.of); exact rfl)
    | (apply hfb.bit (i := 2) rfl)
    | (apply hfb.bit (i := 3) rfl)
    | (apply hfb.bit (i := 9) rfl)
    | (extract_lets)
    | split
    | (intro _ _ _)
    | (intro _ e; have _hk : Frame _ _ _ _ := e)
    | (intro _ e; cases e)
    | dsimp only
    | (dsimp +zetaDelta only))

theorem execSignal_fr {fw fb : Nat} {s0 : State} (k : Nat) (s : State) (hK : Frame fw fb s0 s) (hfw : Sub 2361183241435462240776 fw := by exact Sub.within hfw rfl) (hfb : Sub 524 fb := by exact Sub.within hfb rfl) : ∀ u, execSignal k s = .next u → Frame fw fb s0 u := by
  unfold execSignal
  repeat' (first
    | with_reducible assumption
    | with_reducible apply State.runCmd_fr
    | with_reducible apply signal_fr
    | (with_reducible refine Frame.ite ?_ ?_)
    | ((with_reducible apply Sub.within hfw); exact rfl)
    | ((with_reducible apply Sub.within hfb); exact rfl)
    | ((with_reducible apply Mixed.of); exact rfl)
    | (apply hfb.bit (i := 2) rfl)
    | (apply hfb.bit (i := 3) rfl)
    | (apply hfb.bit (i := 9) rfl)
    | (extract_lets)
    | split
    | (intro _ _ _)
    | (intro _ e; have _hk : Frame _ _ _ _ := e)
    | (intro _ e; cases e)
    | dsimp only
    | (dsimp +zetaDelta only))

theorem State.waitSee_fr {fw fb : Nat} {s0 : State} (s : State) (c : Cmd) (word : Nat) (hK : Frame fw fb s0 s) (hfw : Sub 2560 fw := by exact Sub.within hfw rfl) : Frame fw fb s0 (State.waitSee s c word) := by
  unfold State.waitSee
  repeat' (first
    | with_reducible assumption
    | with_reducible apply State.doneWith_fr
    | (with_reducible refine Frame.ite ?_ ?_)
    | ((with_reducible apply Sub.within hfw); exact rfl)
    | ((with_reducible apply Sub.within hfb); exact rfl)
    | ((with_reducible apply Mixed.of); exact rfl)
    | (extract_lets)
    | split
    | (intro _ _ _)
    | (intro _ e; have _hk : Frame _ _ _ _ := e)
    | (intro _ e; cases e)
    | dsimp only
    | (dsimp +zetaDelta only))

theorem waitRead_fr {fw fb : Nat} {s0 : State} (s : State) (c : Cmd) (hK : Frame fw fb s0 s) (hfw : Sub 2361183241435462240768 fw := by exact Sub.within hfw rfl) (hfb : Sub 524 fb := by exact Sub.within hfb rfl) : Frame fw fb s0 (waitRead s c) := by
  unfold waitRead
  repeat' (first
    | with_reducible assumption
    | with_reducible apply State.askBlock_fr
    | with_reducible apply State.cmdAccess_fr
    | (with_reducible apply State.cmdAccess_fr_stop; with_reducible assumption)
    | with_reducible apply State.waitSee_fr
    | (with_reducible refine Frame.ite ?_ ?_)
    | ((with_reducible apply Sub.within hfw); exact rfl)
    | ((with_reducible apply Sub.within hfb); exact rfl)
    | ((with_reducible apply Mixed.of); exact rfl)
    | (apply hfb.bit (i := 2) rfl)
    | (apply hfb.bit (i := 3) rfl)
    | (apply hfb.bit (i := 9) rfl)
    | (extract_lets)
    | split
    | (intro _ _ _)
    | (intro _ e; have _hk : Frame _ _ _ _ := e)
    | (intro _ e; cases e)
    | dsimp only
    | (dsimp +zetaDelta only))

theorem execWait_fr {fw fb : Nat} {s0 : State} (k : Nat) (s : State) (hK : Frame fw fb s0 s) (hfw : Sub 2361183241435462240768 fw := by exact Sub.within hfw rfl) (hfb : Sub 524 fb := by exact Sub.within hfb rfl) : ∀ u, execWait k s = .next u → Frame fw fb s0 u := by
  unfold execWait
  repeat' (first
    | with_reducible assumption
    | with_reducible apply State.runCmd_fr
    | with_reducible apply State.start_fr
    | with_reducible apply waitRead_fr
    | (with_reducible refine Frame.ite ?_ ?_)
    | ((with_reducible apply Sub.within hfw); exact rfl)
    | ((with_reducible apply Sub.within hfb); exact rfl)
    | ((with_reducible apply Mixed.of); exact rfl)
    | (apply hfb.bit (i := 2) rfl)
    | (apply hfb.bit (i := 3) rfl)
    | (apply hfb.bit (i := 9) rfl)
    | (extract_lets)
    | split
    | (intro _ _ _)
    | (intro _ e; have _hk : Frame _ _ _ _ := e)
    | (intro _ e; cases e)
    | dsimp only
    | (dsimp +zetaDelta only))

theorem execWaitPoll_fr {fw fb : Nat} {s0 : State} (k : Nat) (s : State) (hK : Frame fw fb s0 s) (hfw : Sub 2361183241435462240768 fw := by exact Sub.within hfw rfl) (hfb : Sub 524 fb := by exact Sub.within hfb rfl) : ∀ u, execWaitPoll k s = .next u → Frame fw fb s0 u := by
  unfold execWaitPoll
  repeat' (first
    | with_reducible assumption
    | with_reducible apply waitRead_fr
    | (with_reducible refine Frame.ite ?_ ?_)
    | ((with_reducible apply Sub.within hfw); exact rfl)
    | ((with_reducible apply Sub.within hfb); exact rfl)
    | ((with_reducible apply Mixed.of); exact rfl)
    | (apply hfb.bit (i := 2) rfl)
    | (apply hfb.bit (i := 3) rfl)
    | (apply hfb.bit (i := 9) rfl)
    | (extract_lets)
    | split
    | (intro _ _ _)
    | (intro _ e; have _hk : Frame _ _ _ _ := e)
    | (intro _ e; cases e)
    | dsimp only
    | (dsimp +zetaDelta only))

theorem execWaitTimeout_fr {fw fb : Nat} {s0 : State} (k : Nat) (s : State) (hK : Frame fw fb s0 s) (hfw : Sub 2560 fw := by exact Sub.within hfw rfl) : ∀ u, execWaitTimeout k s = .next u → Frame fw fb s0 u := by
  unfold execWaitTimeout
  repeat' (first
    | with_reducible assumption
    | with_reducible apply State.failWith_fr
    | (with_reducible refine Frame.ite ?_ ?_)
    | ((with_reducible apply Sub.within hfw); exact rfl)
    | ((with_reducible apply Sub.within hfb); exact rfl)
    | ((with_reducible apply Mixed.of); exact rfl)
    | (extract_lets)
    | split
    | (intro _ _ _)
    | (intro _ e; have _hk : Frame _ _ _ _ := e)
    | (intro _ e; cases e)
    | dsimp only
    | (dsimp +zetaDelta only))

theorem timestamp_fr {fw fb : Nat} {s0 : State} (s : State) (c : Cmd) (hK : Frame fw fb s0 s) (hfw : Sub 2361183241435479017994 fw := by exact Sub.within hfw rfl) (hfb : Sub 524 fb := by exact Sub.within hfb rfl) : Frame fw fb s0 (timestamp s c) := by
  unfold timestamp
  repeat' (first
    | with_reducible assumption
    | with_reducible apply State.doneAfter_fr
    | with_reducible apply State.doneWith_fr
    | with_reducible apply State.withPut_fr
    | (with_reducible refine Frame.ite ?_ ?_)
    | ((with_reducible apply Sub.within hfw); exact rfl)
    | ((with_reducible apply Sub.within hfb); exact rfl)
    | ((with_reducible apply Mixed.of); exact rfl)
    | (apply hfb.bit (i := 2) rfl)
    | (apply hfb.bit (i := 3) rfl)
    | (apply hfb.bit (i := 9) rfl)
    | (extract_lets)
    | split
    | (intro _ _ _)
    | (intro _ e; have _hk : Frame _ _ _ _ := e)
    | (intro _ e; cases e)
    | dsimp only
    | (dsimp +zetaDelta only))

theorem execTimestamp_fr {fw fb : Nat} {s0 : State} (k : Nat) (s : State) (hK : Frame fw fb s0 s) (hfw : Sub 2361183241435479017994 fw := by exact Sub.within hfw rfl) (hfb : Sub 524 fb := by exact Sub.within hfb rfl) : ∀ u, execTimestamp k s = .next u → Frame fw fb s0 u := by
  unfold execTimestamp
  repeat' (first
    | with_reducible assumption
    | with_reducible apply State.runCmd_fr
    | with_reducible apply timestamp_fr
    | (with_reducible refine Frame.ite ?_ ?_)
    | ((with_reducible apply Sub.within hfw); exact rfl)
    | ((with_reducible apply Sub.within hfb); exact rfl)
    | ((with_reducible apply Mixed.of); exact rfl)
    | (apply hfb.bit (i := 2) rfl)
    | (apply hfb.bit (i := 3) rfl)
    | (apply hfb.bit (i := 9) rfl)
    | (extract_lets)
    | split
    | (intro _ _ _)
    | (intro _ e; have _hk : Frame _ _ _ _ := e)
    | (intro _ e; cases e)
    | dsimp only
    | (dsimp +zetaDelta only))

end Sys2Proof.Machine
end

