-- ==== Sys2Proof/Laws/Frame/Links.lean ====
section
/-! SUPPORT. What the operations of Machine/Links.lean leave as it was (`Frame`): one lemma each. -/

set_option linter.unreachableTactic false
set_option linter.unusedTactic false

namespace Sys2Proof.Machine

set_option Elab.async false

open Sys2Proof

theorem State.setNeighbour_fr {fw fb : Nat} {s0 : State} (s : State) (p : Nat) (n : Neighbour) (hK : Frame fw fb s0 s) (hfw : Sub 1073741824 fw := by exact Sub.within hfw rfl) : Frame fw fb s0 (State.setNeighbour s p n) := by
  have k0 : ∀ (t : State) x0, Frame fw fb s0 t → Frame fw fb s0 { t with topo := x0 } := fun t x0 ht => Frame.upd ht hfw rfl rfl ⟨rfl, rfl, rfl⟩
  unfold State.setNeighbour
  repeat' (first
    | with_reducible assumption
    | (with_reducible refine Frame.ite ?_ ?_)
    | ((with_reducible apply Sub.within hfw); exact rfl)
    | ((with_reducible apply Sub.within hfb); exact rfl)
    | ((with_reducible apply Mixed.of); exact rfl)
    | (extract_lets)
    | (fail_if_no_progress (with_reducible refine k0 _ _ ?_))
    | split
    | (intro _ _ _)
    | (intro _ e; have _hk : Frame _ _ _ _ := e)
    | (intro _ e; cases e)
    | dsimp only
    | (dsimp +zetaDelta only)
    | (fail_if_no_progress ((with_reducible refine Frame.upd ?_ hfw ?_ rfl ⟨rfl, rfl, rfl⟩); rotate_left; exact rfl)))

theorem State.nbState_fr {fw fb : Nat} {s0 : State} (s : State) (p st : Nat) (hK : Frame fw fb s0 s) (hfw : Sub 208 fw := by exact Sub.within hfw rfl) (hfb : Sub 132096 fb := by exact Sub.within hfb rfl) : Frame fw fb s0 (State.nbState s p st) := by
  unfold State.nbState
  repeat' (first
    | with_reducible assumption
    | with_reducible apply State.record_fr
    | with_reducible apply State.wr_fr
    | (with_reducible refine Frame.ite ?_ ?_)
    | ((with_reducible apply Sub.within hfw); exact rfl)
    | ((with_reducible apply Sub.within hfb); exact rfl)
    | ((with_reducible apply Mixed.of); exact rfl)
    | (apply hfb.bit (i := 10) rfl)
    | (apply hfb.bit (i := 17) rfl)
    | (extract_lets)
    | split
    | (intro _ _ _)
    | (intro _ e; have _hk : Frame _ _ _ _ := e)
    | (intro _ e; cases e)
    | dsimp only
    | (dsimp +zetaDelta only))

theorem State.portRegs_fr {fw fb : Nat} {s0 : State} (s : State) (p : Nat) (hK : Frame fw fb s0 s) (hfw : Sub 208 fw := by exact Sub.within hfw rfl) (hfb : Sub 132608 fb := by exact Sub.within hfb rfl) : Frame fw fb s0 (State.portRegs s p) := by
  unfold State.portRegs
  repeat' (first
    | with_reducible assumption
    | with_reducible apply State.nbState_fr
    | with_reducible apply State.wr_fr
    | (with_reducible refine Frame.ite ?_ ?_)
    | ((with_reducible apply Sub.within hfw); exact rfl)
    | ((with_reducible apply Sub.within hfb); exact rfl)
    | ((with_reducible apply Mixed.of); exact rfl)
    | (apply hfb.bit (i := 9) rfl)
    | (apply hfb.bit (i := 10) rfl)
    | (apply hfb.bit (i := 17) rfl)
    | (extract_lets)
    | split
    | (intro _ _ _)
    | (intro _ e; have _hk : Frame _ _ _ _ := e)
    | (intro _ e; cases e)
    | dsimp only
    | (dsimp +zetaDelta only))

theorem State.linkGo_fr {fw fb : Nat} {s0 : State} (s : State) (l st cause : Nat) (hK : Frame fw fb s0 s) (hfw : Sub 208 fw := by exact Sub.within hfw rfl) (hfb : Sub 132608 fb := by exact Sub.within hfb rfl) : Frame fw fb s0 (State.linkGo s l st cause) := by
  unfold State.linkGo
  repeat' (first
    | with_reducible assumption
    | with_reducible apply State.portRegs_fr
    | with_reducible apply State.record_fr
    | with_reducible apply State.wr_fr
    | (with_reducible refine Frame.ite ?_ ?_)
    | ((with_reducible apply Sub.within hfw); exact rfl)
    | ((with_reducible apply Sub.within hfb); exact rfl)
    | ((with_reducible apply Mixed.of); exact rfl)
    | (apply hfb.bit (i := 9) rfl)
    | (apply hfb.bit (i := 10) rfl)
    | (apply hfb.bit (i := 17) rfl)
    | (extract_lets)
    | split
    | (intro _ _ _)
    | (intro _ e; have _hk : Frame _ _ _ _ := e)
    | (intro _ e; cases e)
    | dsimp only
    | (dsimp +zetaDelta only))

theorem State.stockLane_fr {fw fb : Nat} {s0 : State} (s : State) (l : Nat) (use : Bool) (lane : Nat) (hK : Frame fw fb s0 s) (hfb : Sub 512 fb := by exact Sub.within hfb rfl) : Frame fw fb s0 (State.stockLane s l use lane) := by
  unfold State.stockLane
  repeat' (first
    | with_reducible assumption
    | with_reducible apply State.wr_fr
    | (with_reducible refine Frame.ite ?_ ?_)
    | ((with_reducible apply Sub.within hfw); exact rfl)
    | ((with_reducible apply Sub.within hfb); exact rfl)
    | ((with_reducible apply Mixed.of); exact rfl)
    | (apply hfb.bit (i := 9) rfl)
    | (dsimp only [State.wrs, State.regs0, List.foldl])
    | (extract_lets)
    | split
    | (intro _ _ _)
    | (intro _ e; have _hk : Frame _ _ _ _ := e)
    | (intro _ e; cases e)
    | dsimp only
    | (dsimp +zetaDelta only))

theorem State.linkSend_fr {fw fb : Nat} {s0 : State} (s : State) (l vc : Nat) (p : Packet) (hK : Frame fw fb s0 s) (hfw : Sub 536870928 fw := by exact Sub.within hfw rfl) : Frame fw fb s0 (State.linkSend s l vc p) := by
  unfold State.linkSend
  repeat' (first
    | with_reducible assumption
    | with_reducible apply State.emit_fr
    | with_reducible apply State.setLink_fr
    | (with_reducible refine Frame.getD ?_ ?_)
    | (with_reducible refine Frame.ite ?_ ?_)
    | ((with_reducible apply Sub.within hfw); exact rfl)
    | ((with_reducible apply Sub.within hfb); exact rfl)
    | ((with_reducible apply Mixed.of); exact rfl)
    | (extract_lets)
    | split
    | (intro _ _ _)
    | (intro _ e; have _hk : Frame _ _ _ _ := e)
    | (intro _ e; cases e)
    | dsimp only
    | (dsimp +zetaDelta only))

theorem State.ctlSend_fr {fw fb : Nat} {s0 : State} (s : State) (port : Nat) (p : Packet) (hK : Frame fw fb s0 s) (hfw : Sub 536870928 fw := by exact Sub.within hfw rfl) : Frame fw fb s0 (State.ctlSend s port p) := by
  unfold State.ctlSend
  repeat' (first
    | with_reducible assumption
    | with_reducible apply State.linkSend_fr
    | (with_reducible refine Frame.ite ?_ ?_)
    | ((with_reducible apply Sub.within hfw); exact rfl)
    | ((with_reducible apply Sub.within hfb); exact rfl)
    | ((with_reducible apply Mixed.of); exact rfl)
    | (extract_lets)
    | split
    | (intro _ _ _)
    | (intro _ e; have _hk : Frame _ _ _ _ := e)
    | (intro _ e; cases e)
    | dsimp only
    | (dsimp +zetaDelta only))

theorem State.flitsMove_fr {fw fb : Nat} {s0 : State} (s : State) (l : Nat) (lose : Bool) (hK : Frame fw fb s0 s) (hfw : Sub 536870928 fw := by exact Sub.within hfw rfl) : Frame fw fb s0 (State.flitsMove s l lose) := by
  unfold State.flitsMove
  repeat' (first
    | with_reducible assumption
    | with_reducible apply State.emit_fr
    | with_reducible apply State.setLink_fr
    | (with_reducible refine Frame.ite ?_ ?_)
    | ((with_reducible apply Sub.within hfw); exact rfl)
    | ((with_reducible apply Sub.within hfb); exact rfl)
    | ((with_reducible apply Mixed.of); exact rfl)
    | (extract_lets)
    | split
    | (intro _ _ _)
    | (intro _ e; have _hk : Frame _ _ _ _ := e)
    | (intro _ e; cases e)
    | dsimp only
    | (dsimp +zetaDelta only))

theorem State.sendHello_fr {fw fb : Nat} {s0 : State} (s : State) (port : Nat) (hK : Frame fw fb s0 s) (hfw : Sub 536870928 fw := by exact Sub.within hfw rfl) : Frame fw fb s0 (State.sendHello s port) := by
  unfold State.sendHello
  repeat' (first
    | with_reducible assumption
    | with_reducible apply State.ctlSend_fr
    | with_reducible apply State.emit_fr
    | (with_reducible refine Frame.ite ?_ ?_)
    | ((with_reducible apply Sub.within hfw); exact rfl)
    | ((with_reducible apply Sub.within hfb); exact rfl)
    | ((with_reducible apply Mixed.of); exact rfl)
    | (extract_lets)
    | split
    | (intro _ _ _)
    | (intro _ e; have _hk : Frame _ _ _ _ := e)
    | (intro _ e; cases e)
    | dsimp only
    | (dsimp +zetaDelta only))

theorem State.linkTrain_fr {fw fb : Nat} {s0 : State} (s : State) (l : Nat) (hK : Frame fw fb s0 s) (hfw : Sub 536871120 fw := by exact Sub.within hfw rfl) (hfb : Sub 132608 fb := by exact Sub.within hfb rfl) : Frame fw fb s0 (State.linkTrain s l) := by
  unfold State.linkTrain
  repeat' (first
    | with_reducible assumption
    | with_reducible apply State.linkGo_fr
    | with_reducible apply State.setLink_fr
    | (with_reducible refine Frame.ite ?_ ?_)
    | ((with_reducible apply Sub.within hfw); exact rfl)
    | ((with_reducible apply Sub.within hfb); exact rfl)
    | ((with_reducible apply Mixed.of); exact rfl)
    | (apply hfb.bit (i := 9) rfl)
    | (apply hfb.bit (i := 10) rfl)
    | (apply hfb.bit (i := 17) rfl)
    | (extract_lets)
    | split
    | (intro _ _ _)
    | (intro _ e; have _hk : Frame _ _ _ _ := e)
    | (intro _ e; cases e)
    | dsimp only
    | (dsimp +zetaDelta only))

theorem State.adminEnd_fr {fw fb : Nat} {s0 : State} (s : State) (l st : Nat) (hK : Frame fw fb s0 s) (hfw : Sub 536873472 fw := by exact Sub.within hfw rfl) : Frame fw fb s0 (State.adminEnd s l st) := by
  unfold State.adminEnd
  repeat' (first
    | with_reducible assumption
    | with_reducible apply State.doneWith_fr
    | with_reducible apply State.failWith_fr
    | with_reducible apply State.setLink_fr
    | (with_reducible refine Frame.ite ?_ ?_)
    | ((with_reducible apply Sub.within hfw); exact rfl)
    | ((with_reducible apply Sub.within hfb); exact rfl)
    | ((with_reducible apply Mixed.of); exact rfl)
    | (extract_lets)
    | split
    | (intro _ _ _)
    | (intro _ e; have _hk : Frame _ _ _ _ := e)
    | (intro _ e; cases e)
    | dsimp only
    | (dsimp +zetaDelta only))

theorem State.linkDown_fr {fw fb : Nat} {s0 : State} (s : State) (l cause : Nat) (hK : Frame fw fb s0 s) (hfw : Sub 536873680 fw := by exact Sub.within hfw rfl) (hfb : Sub 132608 fb := by exact Sub.within hfb rfl) : Frame fw fb s0 (State.linkDown s l cause) := by
  unfold State.linkDown
  repeat' (first
    | with_reducible assumption
    | with_reducible apply State.adminEnd_fr
    | with_reducible apply State.flitsMove_fr
    | with_reducible apply State.linkGo_fr
    | with_reducible apply State.setLink_fr
    | with_reducible apply State.stockLane_fr
    | with_reducible apply State.wr_fr
    | (with_reducible refine Frame.ite ?_ ?_)
    | ((with_reducible apply Sub.within hfw); exact rfl)
    | ((with_reducible apply Sub.within hfb); exact rfl)
    | ((with_reducible apply Mixed.of); exact rfl)
    | (apply hfb.bit (i := 9) rfl)
    | (apply hfb.bit (i := 10) rfl)
    | (apply hfb.bit (i := 17) rfl)
    | (extract_lets)
    | split
    | (intro _ _ _)
    | (intro _ e; have _hk : Frame _ _ _ _ := e)
    | (intro _ e; cases e)
    | dsimp only
    | (dsimp +zetaDelta only))

theorem State.linkHello_fr {fw fb : Nat} {s0 : State} (s : State) (l : Nat) (hK : Frame fw fb s0 s) (hfw : Sub 536870928 fw := by exact Sub.within hfw rfl) : Frame fw fb s0 (State.linkHello s l) := by
  unfold State.linkHello
  repeat' (first
    | with_reducible assumption
    | with_reducible apply State.emit_fr
    | with_reducible apply State.linkSend_fr
    | (with_reducible refine Frame.ite ?_ ?_)
    | ((with_reducible apply Sub.within hfw); exact rfl)
    | ((with_reducible apply Sub.within hfb); exact rfl)
    | ((with_reducible apply Mixed.of); exact rfl)
    | (extract_lets)
    | split
    | (intro _ _ _)
    | (intro _ e; have _hk : Frame _ _ _ _ := e)
    | (intro _ e; cases e)
    | dsimp only
    | (dsimp +zetaDelta only))

theorem linkTrained_fr {fw fb : Nat} {s0 : State} (l delay : Nat) (s : State) (hK : Frame fw fb s0 s) (hfw : Sub 536873680 fw := by exact Sub.within hfw rfl) (hfb : Sub 132608 fb := by exact Sub.within hfb rfl) : Frame fw fb s0 (linkTrained l delay s) := by
  have k0 : ∀ (t : State) x0, Frame fw fb s0 t → Frame fw fb s0 { t with fabric := x0 } := fun t x0 ht => Frame.upd ht hfw rfl rfl ⟨rfl, rfl, rfl⟩
  unfold linkTrained
  repeat' (first
    | with_reducible assumption
    | with_reducible apply State.adminEnd_fr
    | with_reducible apply State.linkGo_fr
    | with_reducible apply State.linkHello_fr
    | with_reducible apply State.setLink_fr
    | (with_reducible refine Frame.ite ?_ ?_)
    | ((with_reducible apply Sub.within hfw); exact rfl)
    | ((with_reducible apply Sub.within hfb); exact rfl)
    | ((with_reducible apply Mixed.of); exact rfl)
    | (apply hfb.bit (i := 9) rfl)
    | (apply hfb.bit (i := 10) rfl)
    | (apply hfb.bit (i := 17) rfl)
    | (extract_lets)
    | (fail_if_no_progress (with_reducible refine k0 _ _ ?_))
    | split
    | (intro _ _ _)
    | (intro _ e; have _hk : Frame _ _ _ _ := e)
    | (intro _ e; cases e)
    | dsimp only
    | (dsimp +zetaDelta only)
    | (fail_if_no_progress ((with_reducible refine Frame.upd ?_ hfw ?_ rfl ⟨rfl, rfl, rfl⟩); rotate_left; exact rfl)))

theorem execLinkTrained_fr {fw fb : Nat} {s0 : State} (link delay : Nat) (s : State) (hK : Frame fw fb s0 s) (hfw : Sub 536873680 fw := by exact Sub.within hfw rfl) (hfb : Sub 132608 fb := by exact Sub.within hfb rfl) : ∀ u, execLinkTrained link delay s = .next u → Frame fw fb s0 u := by
  unfold execLinkTrained
  repeat' (first
    | with_reducible assumption
    | with_reducible apply linkTrained_fr
    | (with_reducible refine Frame.ite ?_ ?_)
    | ((with_reducible apply Sub.within hfw); exact rfl)
    | ((with_reducible apply Sub.within hfb); exact rfl)
    | ((with_reducible apply Mixed.of); exact rfl)
    | (apply hfb.bit (i := 9) rfl)
    | (apply hfb.bit (i := 10) rfl)
    | (apply hfb.bit (i := 17) rfl)
    | (extract_lets)
    | split
    | (intro _ _ _)
    | (intro _ e; have _hk : Frame _ _ _ _ := e)
    | (intro _ e; cases e)
    | dsimp only
    | (dsimp +zetaDelta only))

theorem linkTrainingTimeout_fr {fw fb : Nat} {s0 : State} (l : Nat) (s : State) (hK : Frame fw fb s0 s) (hfw : Sub 536873680 fw := by exact Sub.within hfw rfl) (hfb : Sub 132608 fb := by exact Sub.within hfb rfl) : Frame fw fb s0 (linkTrainingTimeout l s) := by
  unfold linkTrainingTimeout
  repeat' (first
    | with_reducible assumption
    | with_reducible apply State.adminEnd_fr
    | with_reducible apply State.linkDown_fr
    | with_reducible apply State.setLink_fr
    | (with_reducible refine Frame.ite ?_ ?_)
    | ((with_reducible apply Sub.within hfw); exact rfl)
    | ((with_reducible apply Sub.within hfb); exact rfl)
    | ((with_reducible apply Mixed.of); exact rfl)
    | (apply hfb.bit (i := 9) rfl)
    | (apply hfb.bit (i := 10) rfl)
    | (apply hfb.bit (i := 17) rfl)
    | (extract_lets)
    | split
    | (intro _ _ _)
    | (intro _ e; have _hk : Frame _ _ _ _ := e)
    | (intro _ e; cases e)
    | dsimp only
    | (dsimp +zetaDelta only))

theorem execLinkTrainingTimeout_fr {fw fb : Nat} {s0 : State} (link : Nat) (s : State) (hK : Frame fw fb s0 s) (hfw : Sub 536873680 fw := by exact Sub.within hfw rfl) (hfb : Sub 132608 fb := by exact Sub.within hfb rfl) : ∀ u, execLinkTrainingTimeout link s = .next u → Frame fw fb s0 u := by
  unfold execLinkTrainingTimeout
  repeat' (first
    | with_reducible assumption
    | with_reducible apply linkTrainingTimeout_fr
    | (with_reducible refine Frame.ite ?_ ?_)
    | ((with_reducible apply Sub.within hfw); exact rfl)
    | ((with_reducible apply Sub.within hfb); exact rfl)
    | ((with_reducible apply Mixed.of); exact rfl)
    | (apply hfb.bit (i := 9) rfl)
    | (apply hfb.bit (i := 10) rfl)
    | (apply hfb.bit (i := 17) rfl)
    | (extract_lets)
    | split
    | (intro _ _ _)
    | (intro _ e; have _hk : Frame _ _ _ _ := e)
    | (intro _ e; cases e)
    | dsimp only
    | (dsimp +zetaDelta only))

theorem linkRetrain_fr {fw fb : Nat} {s0 : State} (l : Nat) (s : State) (hK : Frame fw fb s0 s) (hfw : Sub 536871120 fw := by exact Sub.within hfw rfl) (hfb : Sub 132608 fb := by exact Sub.within hfb rfl) : Frame fw fb s0 (linkRetrain l s) := by
  unfold linkRetrain
  repeat' (first
    | with_reducible assumption
    | with_reducible apply State.linkTrain_fr
    | (with_reducible refine Frame.ite ?_ ?_)
    | ((with_reducible apply Sub.within hfw); exact rfl)
    | ((with_reducible apply Sub.within hfb); exact rfl)
    | ((with_reducible apply Mixed.of); exact rfl)
    | (apply hfb.bit (i := 9) rfl)
    | (apply hfb.bit (i := 10) rfl)
    | (apply hfb.bit (i := 17) rfl)
    | (extract_lets)
    | split
    | (intro _ _ _)
    | (intro _ e; have _hk : Frame _ _ _ _ := e)
    | (intro _ e; cases e)
    | dsimp only
    | (dsimp +zetaDelta only))

theorem execLinkRetrain_fr {fw fb : Nat} {s0 : State} (link : Nat) (s : State) (hK : Frame fw fb s0 s) (hfw : Sub 536871120 fw := by exact Sub.within hfw rfl) (hfb : Sub 132608 fb := by exact Sub.within hfb rfl) : ∀ u, execLinkRetrain link s = .next u → Frame fw fb s0 u := by
  unfold execLinkRetrain
  repeat' (first
    | with_reducible assumption
    | with_reducible apply linkRetrain_fr
    | (with_reducible refine Frame.ite ?_ ?_)
    | ((with_reducible apply Sub.within hfw); exact rfl)
    | ((with_reducible apply Sub.within hfb); exact rfl)
    | ((with_reducible apply Mixed.of); exact rfl)
    | (apply hfb.bit (i := 9) rfl)
    | (apply hfb.bit (i := 10) rfl)
    | (apply hfb.bit (i := 17) rfl)
    | (extract_lets)
    | split
    | (intro _ _ _)
    | (intro _ e; have _hk : Frame _ _ _ _ := e)
    | (intro _ e; cases e)
    | dsimp only
    | (dsimp +zetaDelta only))

theorem trainingSeen_fr {fw fb : Nat} {s0 : State} (l : Nat) (s : State) (hK : Frame fw fb s0 s) (hfw : Sub 536871120 fw := by exact Sub.within hfw rfl) (hfb : Sub 132608 fb := by exact Sub.within hfb rfl) : Frame fw fb s0 (trainingSeen l s) := by
  unfold trainingSeen
  repeat' (first
    | with_reducible assumption
    | with_reducible apply State.linkTrain_fr
    | (with_reducible refine Frame.ite ?_ ?_)
    | ((with_reducible apply Sub.within hfw); exact rfl)
    | ((with_reducible apply Sub.within hfb); exact rfl)
    | ((with_reducible apply Mixed.of); exact rfl)
    | (apply hfb.bit (i := 9) rfl)
    | (apply hfb.bit (i := 10) rfl)
    | (apply hfb.bit (i := 17) rfl)
    | (extract_lets)
    | split
    | (intro _ _ _)
    | (intro _ e; have _hk : Frame _ _ _ _ := e)
    | (intro _ e; cases e)
    | dsimp only
    | (dsimp +zetaDelta only))

theorem execTrainingSeenFromPartner_fr {fw fb : Nat} {s0 : State} (link : Nat) (s : State) (hK : Frame fw fb s0 s) (hfw : Sub 536871120 fw := by exact Sub.within hfw rfl) (hfb : Sub 132608 fb := by exact Sub.within hfb rfl) : ∀ u, execTrainingSeenFromPartner link s = .next u → Frame fw fb s0 u := by
  unfold execTrainingSeenFromPartner
  repeat' (first
    | with_reducible assumption
    | with_reducible apply trainingSeen_fr
    | (with_reducible refine Frame.ite ?_ ?_)
    | ((with_reducible apply Sub.within hfw); exact rfl)
    | ((with_reducible apply Sub.within hfb); exact rfl)
    | ((with_reducible apply Mixed.of); exact rfl)
    | (apply hfb.bit (i := 9) rfl)
    | (apply hfb.bit (i := 10) rfl)
    | (apply hfb.bit (i := 17) rfl)
    | (extract_lets)
    | split
    | (intro _ _ _)
    | (intro _ e; have _hk : Frame _ _ _ _ := e)
    | (intro _ e; cases e)
    | dsimp only
    | (dsimp +zetaDelta only))

theorem State.swapStart_fr {fw fb : Nat} {s0 : State} (s : State) (l lane : Nat) (into hold : Bool) (hK : Frame fw fb s0 s) (hfw : Sub 536871120 fw := by exact Sub.within hfw rfl) (hfb : Sub 132608 fb := by exact Sub.within hfb rfl) : Frame fw fb s0 (State.swapStart s l lane into hold) := by
  unfold State.swapStart
  repeat' (first
    | with_reducible assumption
    | with_reducible apply State.flitsMove_fr
    | with_reducible apply State.linkGo_fr
    | with_reducible apply State.setLink_fr
    | with_reducible apply State.stockLane_fr
    | (with_reducible refine Frame.ite ?_ ?_)
    | ((with_reducible apply Sub.within hfw); exact rfl)
    | ((with_reducible apply Sub.within hfb); exact rfl)
    | ((with_reducible apply Mixed.of); exact rfl)
    | (apply hfb.bit (i := 9) rfl)
    | (apply hfb.bit (i := 10) rfl)
    | (apply hfb.bit (i := 17) rfl)
    | (extract_lets)
    | split
    | (intro _ _ _)
    | (intro _ e; have _hk : Frame _ _ _ _ := e)
    | (intro _ e; cases e)
    | dsimp only
    | (dsimp +zetaDelta only))

theorem laneFailure_fr {fw fb : Nat} {s0 : State} (l lane : Nat) (s : State) (hK : Frame fw fb s0 s) (hfw : Sub 536873680 fw := by exact Sub.within hfw rfl) (hfb : Sub 167424 fb := by exact Sub.within hfb rfl) : Frame fw fb s0 (laneFailure l lane s) := by
  unfold laneFailure
  repeat' (first
    | with_reducible assumption
    | with_reducible apply State.exhausted_fr
    | with_reducible apply State.linkDown_fr
    | with_reducible apply State.swapStart_fr
    | (with_reducible refine Frame.ite ?_ ?_)
    | ((with_reducible apply Sub.within hfw); exact rfl)
    | ((with_reducible apply Sub.within hfb); exact rfl)
    | ((with_reducible apply Mixed.of); exact rfl)
    | (apply hfb.bit (i := 9) rfl)
    | (apply hfb.bit (i := 10) rfl)
    | (apply hfb.bit (i := 11) rfl)
    | (apply hfb.bit (i := 15) rfl)
    | (apply hfb.bit (i := 17) rfl)
    | (extract_lets)
    | split
    | (intro _ _ _)
    | (intro _ e; have _hk : Frame _ _ _ _ := e)
    | (intro _ e; cases e)
    | dsimp only
    | (dsimp +zetaDelta only))

theorem execLaneFailure_fr {fw fb : Nat} {s0 : State} (link lane : Nat) (s : State) (hK : Frame fw fb s0 s) (hfw : Sub 536873680 fw := by exact Sub.within hfw rfl) (hfb : Sub 167424 fb := by exact Sub.within hfb rfl) : ∀ u, execLaneFailure link lane s = .next u → Frame fw fb s0 u := by
  unfold execLaneFailure
  repeat' (first
    | with_reducible assumption
    | with_reducible apply laneFailure_fr
    | (with_reducible refine Frame.ite ?_ ?_)
    | ((with_reducible apply Sub.within hfw); exact rfl)
    | ((with_reducible apply Sub.within hfb); exact rfl)
    | ((with_reducible apply Mixed.of); exact rfl)
    | (apply hfb.bit (i := 9) rfl)
    | (apply hfb.bit (i := 10) rfl)
    | (apply hfb.bit (i := 11) rfl)
    | (apply hfb.bit (i := 15) rfl)
    | (apply hfb.bit (i := 17) rfl)
    | (extract_lets)
    | split
    | (intro _ _ _)
    | (intro _ e; have _hk : Frame _ _ _ _ := e)
    | (intro _ e; cases e)
    | dsimp only
    | (dsimp +zetaDelta only))

theorem laneSwap_fr {fw fb : Nat} {s0 : State} (l : Nat) (s : State) (hK : Frame fw fb s0 s) (hfw : Sub 536873680 fw := by exact Sub.within hfw rfl) (hfb : Sub 132608 fb := by exact Sub.within hfb rfl) : Frame fw fb s0 (laneSwap l s) := by
  unfold laneSwap
  repeat' (first
    | with_reducible assumption
    | with_reducible apply State.adminEnd_fr
    | with_reducible apply State.linkGo_fr
    | with_reducible apply State.record_fr
    | with_reducible apply State.setLink_fr
    | with_reducible apply State.stockLane_fr
    | with_reducible apply State.wr_fr
    | (with_reducible refine Frame.ite ?_ ?_)
    | ((with_reducible apply Sub.within hfw); exact rfl)
    | ((with_reducible apply Sub.within hfb); exact rfl)
    | ((with_reducible apply Mixed.of); exact rfl)
    | (apply hfb.bit (i := 9) rfl)
    | (apply hfb.bit (i := 10) rfl)
    | (apply hfb.bit (i := 17) rfl)
    | (extract_lets)
    | split
    | (intro _ _ _)
    | (intro _ e; have _hk : Frame _ _ _ _ := e)
    | (intro _ e; cases e)
    | dsimp only
    | (dsimp +zetaDelta only))

theorem execLaneSwap_fr {fw fb : Nat} {s0 : State} (link : Nat) (s : State) (hK : Frame fw fb s0 s) (hfw : Sub 536873680 fw := by exact Sub.within hfw rfl) (hfb : Sub 132608 fb := by exact Sub.within hfb rfl) : ∀ u, execLaneSwap link s = .next u → Frame fw fb s0 u := by
  unfold execLaneSwap
  repeat' (first
    | with_reducible assumption
    | with_reducible apply laneSwap_fr
    | (with_reducible refine Frame.ite ?_ ?_)
    | ((with_reducible apply Sub.within hfw); exact rfl)
    | ((with_reducible apply Sub.within hfb); exact rfl)
    | ((with_reducible apply Mixed.of); exact rfl)
    | (apply hfb.bit (i := 9) rfl)
    | (apply hfb.bit (i := 10) rfl)
    | (apply hfb.bit (i := 17) rfl)
    | (extract_lets)
    | split
    | (intro _ _ _)
    | (intro _ e; have _hk : Frame _ _ _ _ := e)
    | (intro _ e; cases e)
    | dsimp only
    | (dsimp +zetaDelta only))

theorem laneRetrained_fr {fw fb : Nat} {s0 : State} (l lane : Nat) (s : State) (hK : Frame fw fb s0 s) (hfw : Sub 536871120 fw := by exact Sub.within hfw rfl) (hfb : Sub 132608 fb := by exact Sub.within hfb rfl) : Frame fw fb s0 (laneRetrained l lane s) := by
  unfold laneRetrained
  repeat' (first
    | with_reducible assumption
    | with_reducible apply State.swapStart_fr
    | (with_reducible refine Frame.ite ?_ ?_)
    | ((with_reducible apply Sub.within hfw); exact rfl)
    | ((with_reducible apply Sub.within hfb); exact rfl)
    | ((with_reducible apply Mixed.of); exact rfl)
    | (apply hfb.bit (i := 9) rfl)
    | (apply hfb.bit (i := 10) rfl)
    | (apply hfb.bit (i := 17) rfl)
    | (extract_lets)
    | split
    | (intro _ _ _)
    | (intro _ e; have _hk : Frame _ _ _ _ := e)
    | (intro _ e; cases e)
    | dsimp only
    | (dsimp +zetaDelta only))

theorem execLaneRetrained_fr {fw fb : Nat} {s0 : State} (link lane : Nat) (s : State) (hK : Frame fw fb s0 s) (hfw : Sub 536871120 fw := by exact Sub.within hfw rfl) (hfb : Sub 132608 fb := by exact Sub.within hfb rfl) : ∀ u, execLaneRetrained link lane s = .next u → Frame fw fb s0 u := by
  unfold execLaneRetrained
  repeat' (first
    | with_reducible assumption
    | with_reducible apply laneRetrained_fr
    | (with_reducible refine Frame.ite ?_ ?_)
    | ((with_reducible apply Sub.within hfw); exact rfl)
    | ((with_reducible apply Sub.within hfb); exact rfl)
    | ((with_reducible apply Mixed.of); exact rfl)
    | (apply hfb.bit (i := 9) rfl)
    | (apply hfb.bit (i := 10) rfl)
    | (apply hfb.bit (i := 17) rfl)
    | (extract_lets)
    | split
    | (intro _ _ _)
    | (intro _ e; have _hk : Frame _ _ _ _ := e)
    | (intro _ e; cases e)
    | dsimp only
    | (dsimp +zetaDelta only))

theorem linkReplayFailure_fr {fw fb : Nat} {s0 : State} (l : Nat) (s : State) (hK : Frame fw fb s0 s) (hfw : Sub 536873680 fw := by exact Sub.within hfw rfl) (hfb : Sub 132608 fb := by exact Sub.within hfb rfl) : Frame fw fb s0 (linkReplayFailure l s) := by
  unfold linkReplayFailure
  repeat' (first
    | with_reducible assumption
    | with_reducible apply State.linkDown_fr
    | (with_reducible refine Frame.ite ?_ ?_)
    | ((with_reducible apply Sub.within hfw); exact rfl)
    | ((with_reducible apply Sub.within hfb); exact rfl)
    | ((with_reducible apply Mixed.of); exact rfl)
    | (apply hfb.bit (i := 9) rfl)
    | (apply hfb.bit (i := 10) rfl)
    | (apply hfb.bit (i := 17) rfl)
    | (extract_lets)
    | split
    | (intro _ _ _)
    | (intro _ e; have _hk : Frame _ _ _ _ := e)
    | (intro _ e; cases e)
    | dsimp only
    | (dsimp +zetaDelta only))

theorem execLinkReplayFailure_fr {fw fb : Nat} {s0 : State} (link : Nat) (s : State) (hK : Frame fw fb s0 s) (hfw : Sub 536873680 fw := by exact Sub.within hfw rfl) (hfb : Sub 132608 fb := by exact Sub.within hfb rfl) : ∀ u, execLinkReplayFailure link s = .next u → Frame fw fb s0 u := by
  unfold execLinkReplayFailure
  repeat' (first
    | with_reducible assumption
    | with_reducible apply linkReplayFailure_fr
    | (with_reducible refine Frame.ite ?_ ?_)
    | ((with_reducible apply Sub.within hfw); exact rfl)
    | ((with_reducible apply Sub.within hfb); exact rfl)
    | ((with_reducible apply Mixed.of); exact rfl)
    | (apply hfb.bit (i := 9) rfl)
    | (apply hfb.bit (i := 10) rfl)
    | (apply hfb.bit (i := 17) rfl)
    | (extract_lets)
    | split
    | (intro _ _ _)
    | (intro _ e; have _hk : Frame _ _ _ _ := e)
    | (intro _ e; cases e)
    | dsimp only
    | (dsimp +zetaDelta only))

theorem State.streamIn_fr {fw fb : Nat} {s0 : State} (s : State) (l : Nat) (payload : List Nat) (hK : Frame fw fb s0 s) (hfw : Sub 536870912 fw := by exact Sub.within hfw rfl) : Frame fw fb s0 (State.streamIn s l payload) := by
  have k0 : ∀ (t : State) x0, Frame fw fb s0 t → Frame fw fb s0 { t with fabric := x0 } := fun t x0 ht => Frame.upd ht hfw rfl rfl ⟨rfl, rfl, rfl⟩
  unfold State.streamIn
  repeat' (first
    | with_reducible assumption
    | with_reducible apply State.setLink_fr
    | (with_reducible refine Frame.ite ?_ ?_)
    | ((with_reducible apply Sub.within hfw); exact rfl)
    | ((with_reducible apply Sub.within hfb); exact rfl)
    | ((with_reducible apply Mixed.of); exact rfl)
    | (extract_lets)
    | (fail_if_no_progress (with_reducible refine k0 _ _ ?_))
    | split
    | (intro _ _ _)
    | (intro _ e; have _hk : Frame _ _ _ _ := e)
    | (intro _ e; cases e)
    | dsimp only
    | (dsimp +zetaDelta only)
    | (fail_if_no_progress ((with_reducible refine Frame.upd ?_ hfw ?_ rfl ⟨rfl, rfl, rfl⟩); rotate_left; exact rfl)))

theorem flitReceive_fr {fw fb : Nat} {s0 : State} (l : Nat) (b : List Nat) (s : State) (hK : Frame fw fb s0 s) (hfw : Sub 536871120 fw := by exact Sub.within hfw rfl) (hfb : Sub 132608 fb := by exact Sub.within hfb rfl) : Frame fw fb s0 (flitReceive l b s) := by
  unfold flitReceive
  repeat' (first
    | with_reducible assumption
    | with_reducible apply State.bump_fr
    | with_reducible apply State.emit_fr
    | with_reducible apply State.setLink_fr
    | with_reducible apply State.streamIn_fr
    | with_reducible apply State.swapStart_fr
    | (with_reducible refine Frame.getD ?_ ?_)
    | (with_reducible refine Frame.ite ?_ ?_)
    | ((with_reducible apply Sub.within hfw); exact rfl)
    | ((with_reducible apply Sub.within hfb); exact rfl)
    | ((with_reducible apply Mixed.of); exact rfl)
    | (apply hfb.bit (i := 9) rfl)
    | (apply hfb.bit (i := 10) rfl)
    | (apply hfb.bit (i := 17) rfl)
    | (extract_lets)
    | split
    | (intro _ _ _)
    | (intro _ e; have _hk : Frame _ _ _ _ := e)
    | (intro _ e; cases e)
    | dsimp only
    | (dsimp +zetaDelta only))

theorem execFlitReceive_fr {fw fb : Nat} {s0 : State} (link : Nat) (bytes : List Nat) (s : State) (hK : Frame fw fb s0 s) (hfw : Sub 536871120 fw := by exact Sub.within hfw rfl) (hfb : Sub 132608 fb := by exact Sub.within hfb rfl) : ∀ u, execFlitReceive link bytes s = .next u → Frame fw fb s0 u := by
  unfold execFlitReceive
  repeat' (first
    | with_reducible assumption
    | with_reducible apply flitReceive_fr
    | (with_reducible refine Frame.ite ?_ ?_)
    | ((with_reducible apply Sub.within hfw); exact rfl)
    | ((with_reducible apply Sub.within hfb); exact rfl)
    | ((with_reducible apply Mixed.of); exact rfl)
    | (apply hfb.bit (i := 9) rfl)
    | (apply hfb.bit (i := 10) rfl)
    | (apply hfb.bit (i := 17) rfl)
    | (extract_lets)
    | split
    | (intro _ _ _)
    | (intro _ e; have _hk : Frame _ _ _ _ := e)
    | (intro _ e; cases e)
    | dsimp only
    | (dsimp +zetaDelta only))

theorem linkAdminDown_fr {fw fb : Nat} {s0 : State} (s : State) (c : Cmd) (hK : Frame fw fb s0 s) (hfw : Sub 536873680 fw := by exact Sub.within hfw rfl) (hfb : Sub 132608 fb := by exact Sub.within hfb rfl) : Frame fw fb s0 (linkAdminDown s c) := by
  unfold linkAdminDown
  repeat' (first
    | with_reducible assumption
    | with_reducible apply State.cmdMap_fr
    | with_reducible apply State.doneWith_fr
    | with_reducible apply State.linkDown_fr
    | with_reducible apply State.setLink_fr
    | (with_reducible refine Frame.foldl ?_ ?_)
    | (with_reducible refine Frame.foldr ?_ ?_)
    | (with_reducible refine Frame.getD ?_ ?_)
    | (with_reducible refine Frame.ite ?_ ?_)
    | ((with_reducible apply Sub.within hfw); exact rfl)
    | ((with_reducible apply Sub.within hfb); exact rfl)
    | ((with_reducible apply Mixed.of); exact rfl)
    | (apply hfb.bit (i := 9) rfl)
    | (apply hfb.bit (i := 10) rfl)
    | (apply hfb.bit (i := 17) rfl)
    | (extract_lets)
    | split
    | (intro _ _ _)
    | (intro _ e; have _hk : Frame _ _ _ _ := e)
    | (intro _ e; cases e)
    | dsimp only
    | (dsimp +zetaDelta only))

theorem execLinkAdminDown_fr {fw fb : Nat} {s0 : State} (k : Nat) (s : State) (hK : Frame fw fb s0 s) (hfw : Sub 536873680 fw := by exact Sub.within hfw rfl) (hfb : Sub 132608 fb := by exact Sub.within hfb rfl) : ∀ u, execLinkAdminDown k s = .next u → Frame fw fb s0 u := by
  unfold execLinkAdminDown
  repeat' (first
    | with_reducible assumption
    | with_reducible apply State.runCmd_fr
    | with_reducible apply linkAdminDown_fr
    | (with_reducible refine Frame.ite ?_ ?_)
    | ((with_reducible apply Sub.within hfw); exact rfl)
    | ((with_reducible apply Sub.within hfb); exact rfl)
    | ((with_reducible apply Mixed.of); exact rfl)
    | (apply hfb.bit (i := 9) rfl)
    | (apply hfb.bit (i := 10) rfl)
    | (apply hfb.bit (i := 17) rfl)
    | (extract_lets)
    | split
    | (intro _ _ _)
    | (intro _ e; have _hk : Frame _ _ _ _ := e)
    | (intro _ e; cases e)
    | dsimp only
    | (dsimp +zetaDelta only))

theorem linkAdminUp_fr {fw fb : Nat} {s0 : State} (s : State) (c : Cmd) (hK : Frame fw fb s0 s) (hfw : Sub 536873680 fw := by exact Sub.within hfw rfl) (hfb : Sub 132608 fb := by exact Sub.within hfb rfl) : Frame fw fb s0 (linkAdminUp s c) := by
  unfold linkAdminUp
  repeat' (first
    | with_reducible assumption
    | with_reducible apply State.doneWith_fr
    | with_reducible apply State.linkTrain_fr
    | with_reducible apply State.setLink_fr
    | with_reducible apply State.start_fr
    | (with_reducible refine Frame.foldl ?_ ?_)
    | (with_reducible refine Frame.foldr ?_ ?_)
    | (with_reducible refine Frame.ite ?_ ?_)
    | ((with_reducible apply Sub.within hfw); exact rfl)
    | ((with_reducible apply Sub.within hfb); exact rfl)
    | ((with_reducible apply Mixed.of); exact rfl)
    | (apply hfb.bit (i := 9) rfl)
    | (apply hfb.bit (i := 10) rfl)
    | (apply hfb.bit (i := 17) rfl)
    | (extract_lets)
    | split
    | (intro _ _ _)
    | (intro _ e; have _hk : Frame _ _ _ _ := e)
    | (intro _ e; cases e)
    | dsimp only
    | (dsimp +zetaDelta only))

theorem execLinkAdminUp_fr {fw fb : Nat} {s0 : State} (k : Nat) (s : State) (hK : Frame fw fb s0 s) (hfw : Sub 536873680 fw := by exact Sub.within hfw rfl) (hfb : Sub 132608 fb := by exact Sub.within hfb rfl) : ∀ u, execLinkAdminUp k s = .next u → Frame fw fb s0 u := by
  unfold execLinkAdminUp
  repeat' (first
    | with_reducible assumption
    | with_reducible apply State.runCmd_fr
    | with_reducible apply linkAdminUp_fr
    | (with_reducible refine Frame.ite ?_ ?_)
    | ((with_reducible apply Sub.within hfw); exact rfl)
    | ((with_reducible apply Sub.within hfb); exact rfl)
    | ((with_reducible apply Mixed.of); exact rfl)
    | (apply hfb.bit (i := 9) rfl)
    | (apply hfb.bit (i := 10) rfl)
    | (apply hfb.bit (i := 17) rfl)
    | (extract_lets)
    | split
    | (intro _ _ _)
    | (intro _ e; have _hk : Frame _ _ _ _ := e)
    | (intro _ e; cases e)
    | dsimp only
    | (dsimp +zetaDelta only))

theorem toStock_fr {fw fb : Nat} {s0 : State} (s : State) (c : Cmd) (hK : Frame fw fb s0 s) (hfw : Sub 536871632 fw := by exact Sub.within hfw rfl) (hfb : Sub 132608 fb := by exact Sub.within hfb rfl) : Frame fw fb s0 (toStock s c) := by
  unfold toStock
  repeat' (first
    | with_reducible assumption
    | with_reducible apply State.setLink_fr
    | with_reducible apply State.start_fr
    | with_reducible apply State.swapStart_fr
    | (with_reducible refine Frame.ite ?_ ?_)
    | ((with_reducible apply Sub.within hfw); exact rfl)
    | ((with_reducible apply Sub.within hfb); exact rfl)
    | ((with_reducible apply Mixed.of); exact rfl)
    | (apply hfb.bit (i := 9) rfl)
    | (apply hfb.bit (i := 10) rfl)
    | (apply hfb.bit (i := 17) rfl)
    | (extract_lets)
    | split
    | (intro _ _ _)
    | (intro _ e; have _hk : Frame _ _ _ _ := e)
    | (intro _ e; cases e)
    | dsimp only
    | (dsimp +zetaDelta only))

theorem execToStock_fr {fw fb : Nat} {s0 : State} (k : Nat) (s : State) (hK : Frame fw fb s0 s) (hfw : Sub 536873680 fw := by exact Sub.within hfw rfl) (hfb : Sub 132608 fb := by exact Sub.within hfb rfl) : ∀ u, execToStock k s = .next u → Frame fw fb s0 u := by
  unfold execToStock
  repeat' (first
    | with_reducible assumption
    | with_reducible apply State.runCmd_fr
    | with_reducible apply toStock_fr
    | (with_reducible refine Frame.ite ?_ ?_)
    | ((with_reducible apply Sub.within hfw); exact rfl)
    | ((with_reducible apply Sub.within hfb); exact rfl)
    | ((with_reducible apply Mixed.of); exact rfl)
    | (apply hfb.bit (i := 9) rfl)
    | (apply hfb.bit (i := 10) rfl)
    | (apply hfb.bit (i := 17) rfl)
    | (extract_lets)
    | split
    | (intro _ _ _)
    | (intro _ e; have _hk : Frame _ _ _ _ := e)
    | (intro _ e; cases e)
    | dsimp only
    | (dsimp +zetaDelta only))

theorem fromStock_fr {fw fb : Nat} {s0 : State} (s : State) (c : Cmd) (hK : Frame fw fb s0 s) (hfw : Sub 536871424 fw := by exact Sub.within hfw rfl) : Frame fw fb s0 (fromStock s c) := by
  unfold fromStock
  repeat' (first
    | with_reducible assumption
    | with_reducible apply State.setLink_fr
    | with_reducible apply State.start_fr
    | (with_reducible refine Frame.ite ?_ ?_)
    | ((with_reducible apply Sub.within hfw); exact rfl)
    | ((with_reducible apply Sub.within hfb); exact rfl)
    | ((with_reducible apply Mixed.of); exact rfl)
    | (extract_lets)
    | split
    | (intro _ _ _)
    | (intro _ e; have _hk : Frame _ _ _ _ := e)
    | (intro _ e; cases e)
    | dsimp only
    | (dsimp +zetaDelta only))

theorem execFromStock_fr {fw fb : Nat} {s0 : State} (k : Nat) (s : State) (hK : Frame fw fb s0 s) (hfw : Sub 536873472 fw := by exact Sub.within hfw rfl) : ∀ u, execFromStock k s = .next u → Frame fw fb s0 u := by
  unfold execFromStock
  repeat' (first
    | with_reducible assumption
    | with_reducible apply State.runCmd_fr
    | with_reducible apply fromStock_fr
    | (with_reducible refine Frame.ite ?_ ?_)
    | ((with_reducible apply Sub.within hfw); exact rfl)
    | ((with_reducible apply Sub.within hfb); exact rfl)
    | ((with_reducible apply Mixed.of); exact rfl)
    | (extract_lets)
    | split
    | (intro _ _ _)
    | (intro _ e; have _hk : Frame _ _ _ _ := e)
    | (intro _ e; cases e)
    | dsimp only
    | (dsimp +zetaDelta only))

end Sys2Proof.Machine
end

