-- ==== Sys2Proof/Laws/Frame/Moves.lean ====
section
/-! SUPPORT. What the operations of Machine/Moves.lean leave as it was (`Frame`): one lemma each. -/

set_option linter.unreachableTactic false
set_option linter.unusedTactic false

namespace Sys2Proof.Machine

set_option Elab.async false

open Sys2Proof

theorem State.moveMap_fr {fw fb : Nat} {s0 : State} (s : State) (i : Nat) (f : Move → Move) (hK : Frame fw fb s0 s) (hfw : Sub 524288 fw := by exact Sub.within hfw rfl) : Frame fw fb s0 (State.moveMap s i f) := by
  have k0 : ∀ (t : State) x0, Frame fw fb s0 t → Frame fw fb s0 { t with moves := x0 } := fun t x0 ht => Frame.upd ht hfw rfl rfl ⟨rfl, rfl, rfl⟩
  unfold State.moveMap
  repeat' (first
    | with_reducible assumption
    | (with_reducible refine Frame.ite ?_ ?_)
    | ((with_reducible apply Sub.within hfw); exact rfl)
    | ((with_reducible apply Sub.within hfb); exact rfl)
    | ((with_reducible apply Mixed.of); exact rfl)
    | (extract_lets)
    | (fail_if_no_progress (with_reducible refine k0 _ _ ?_))
    | split
    | (intro _ _ _)
    | (intro _ e; have _hk : Frame _ _ _ _ := e)
    | (intro _ e; cases e)
    | dsimp only
    | (dsimp +zetaDelta only)
    | (fail_if_no_progress ((with_reducible refine Frame.upd ?_ hfw ?_ rfl ⟨rfl, rfl, rfl⟩); rotate_left; exact rfl)))

theorem State.moveDone_fr {fw fb : Nat} {s0 : State} (s : State) (i : Nat) (hK : Frame fw fb s0 s) (hfw : Sub 524288 fw := by exact Sub.within hfw rfl) : Frame fw fb s0 (State.moveDone s i) := by
  have k0 : ∀ (t : State) x0, Frame fw fb s0 t → Frame fw fb s0 { t with moves := x0 } := fun t x0 ht => Frame.upd ht hfw rfl rfl ⟨rfl, rfl, rfl⟩
  unfold State.moveDone
  repeat' (first
    | with_reducible assumption
    | (with_reducible refine Frame.ite ?_ ?_)
    | ((with_reducible apply Sub.within hfw); exact rfl)
    | ((with_reducible apply Sub.within hfb); exact rfl)
    | ((with_reducible apply Mixed.of); exact rfl)
    | (extract_lets)
    | (fail_if_no_progress (with_reducible refine k0 _ _ ?_))
    | split
    | (intro _ _ _)
    | (intro _ e; have _hk : Frame _ _ _ _ := e)
    | (intro _ e; cases e)
    | dsimp only
    | (dsimp +zetaDelta only)
    | (fail_if_no_progress ((with_reducible refine Frame.upd ?_ hfw ?_ rfl ⟨rfl, rfl, rfl⟩); rotate_left; exact rfl)))

theorem State.wantDone_fr {fw fb : Nat} {s0 : State} (s : State) (w : Move) (hK : Frame fw fb s0 s) (hfw : Sub 2097152 fw := by exact Sub.within hfw rfl) : Frame fw fb s0 (State.wantDone s w) := by
  have k0 : ∀ (t : State) x0, Frame fw fb s0 t → Frame fw fb s0 { t with wants := x0 } := fun t x0 ht => Frame.upd ht hfw rfl rfl ⟨rfl, rfl, rfl⟩
  unfold State.wantDone
  repeat' (first
    | with_reducible assumption
    | (with_reducible refine Frame.ite ?_ ?_)
    | ((with_reducible apply Sub.within hfw); exact rfl)
    | ((with_reducible apply Sub.within hfb); exact rfl)
    | ((with_reducible apply Mixed.of); exact rfl)
    | (extract_lets)
    | (fail_if_no_progress (with_reducible refine k0 _ _ ?_))
    | split
    | (intro _ _ _)
    | (intro _ e; have _hk : Frame _ _ _ _ := e)
    | (intro _ e; cases e)
    | dsimp only
    | (dsimp +zetaDelta only)
    | (fail_if_no_progress ((with_reducible refine Frame.upd ?_ hfw ?_ rfl ⟨rfl, rfl, rfl⟩); rotate_left; exact rfl)))

theorem State.moveFails_fr {fw fb : Nat} {s0 : State} (s : State) (m : Move) (st det : Nat) (hK : Frame fw fb s0 s) (hfw : Sub 774056353729024 fw := by exact Sub.within hfw rfl) (hfb : Sub 28 fb := by exact Sub.within hfb rfl) : Frame fw fb s0 (State.moveFails s m st det) := by
  unfold State.moveFails
  repeat' (first
    | with_reducible assumption
    | with_reducible apply State.endLaunch_fr
    | with_reducible apply State.faultEnd_fr
    | with_reducible apply State.finish_fr
    | (with_reducible refine Frame.ite ?_ ?_)
    | ((with_reducible apply Sub.within hfw); exact rfl)
    | ((with_reducible apply Sub.within hfb); exact rfl)
    | ((with_reducible apply Mixed.of); exact rfl)
    | (apply hfb.bit (i := 2) rfl)
    | (apply hfb.bit (i := 3) rfl)
    | (apply hfb.bit (i := 4) rfl)
    | (extract_lets)
    | split
    | (intro _ _ _)
    | (intro _ e; have _hk : Frame _ _ _ _ := e)
    | (intro _ e; cases e)
    | dsimp only
    | (dsimp +zetaDelta only))

theorem State.moveFault_fr {fw fb : Nat} {s0 : State} (s : State) (m : Move) (leaf : Nat) (hK : Frame fw fb s0 s) (hfw : Sub 2361183241434925367296 fw := by exact Sub.within hfw rfl) (hfb : Sub 12 fb := by exact Sub.within hfb rfl) : Frame fw fb s0 (State.moveFault s m leaf) := by
  unfold State.moveFault
  repeat' (first
    | with_reducible assumption
    | with_reducible apply State.openFault_fr
    | (with_reducible refine Frame.ite ?_ ?_)
    | ((with_reducible apply Sub.within hfw); exact rfl)
    | ((with_reducible apply Sub.within hfb); exact rfl)
    | ((with_reducible apply Mixed.of); exact rfl)
    | (apply hfb.bit (i := 2) rfl)
    | (apply hfb.bit (i := 3) rfl)
    | (extract_lets)
    | split
    | (intro _ _ _)
    | (intro _ e; have _hk : Frame _ _ _ _ := e)
    | (intro _ e; cases e)
    | dsimp only
    | (dsimp +zetaDelta only))

theorem State.moveFrame_fr {fw fb : Nat} {s0 : State} (s : State) (w : Move) (pin : Bool) (hK : Frame fw fb s0 s) (hfw : Sub 65546 fw := by exact Sub.within hfw rfl) : ∀ p, State.moveFrame s w pin = some p → Frame fw fb s0 p.2 := by
  unfold State.moveFrame
  repeat' (first
    | with_reducible assumption
    | (with_reducible refine State.allocRun_fr _ _ _ _ _ _ ?_ ?_)
    | (with_reducible apply State.allocRun_fr_of; with_reducible assumption)
    | (with_reducible apply State.allocRun_fr_at; with_reducible assumption)
    | with_reducible apply State.took_fr
    | (with_reducible refine Frame.getD ?_ ?_)
    | (with_reducible refine Frame.ite ?_ ?_)
    | ((with_reducible apply Sub.within hfw); exact rfl)
    | ((with_reducible apply Sub.within hfb); exact rfl)
    | ((with_reducible apply Mixed.of); exact rfl)
    | (extract_lets)
    | split
    | (intro _ _ _)
    | (intro _ e; have _hk : Frame _ _ _ _ := e)
    | (intro _ e; cases e)
    | dsimp only
    | (dsimp +zetaDelta only))

theorem State.moveFrame_fr_of {fw fb : Nat} {s0 : State} {p} {s : State} {w : Move} {pin : Bool} (h_eq : State.moveFrame s w pin = some p) (hK : Frame fw fb s0 s) (hfw : Sub 65546 fw := by exact Sub.within hfw rfl) : Frame fw fb s0 p.2 := by
  have := State.moveFrame_fr s w pin hK
  exact this p h_eq

theorem State.moveFrame_fr_at {fw fb : Nat} {s0 : State} {u : State} {r0} {s : State} {w : Move} {pin : Bool} (h_eq : State.moveFrame s w pin = some (r0, u)) (hK : Frame fw fb s0 s) (hfw : Sub 65546 fw := by exact Sub.within hfw rfl) : Frame fw fb s0 u := by
  have := State.moveFrame_fr s w pin hK
  exact this (r0, u) h_eq

theorem State.noFrame_fr {fw fb : Nat} {s0 : State} (s : State) (w : Move) (hK : Frame fw fb s0 s) (hfw : Sub 774056355826178 fw := by exact Sub.within hfw rfl) (hfb : Sub 28 fb := by exact Sub.within hfb rfl) : Frame fw fb s0 (State.noFrame s w) := by
  unfold State.noFrame
  repeat' (first
    | with_reducible assumption
    | (with_reducible refine State.makeRoom_fr _ _ ?_ ?_)
    | (with_reducible apply State.makeRoom_fr_at; with_reducible assumption)
    | with_reducible apply State.moveFails_fr
    | with_reducible apply State.wantDone_fr
    | (with_reducible refine Frame.getD ?_ ?_)
    | (with_reducible refine Frame.ite ?_ ?_)
    | ((with_reducible apply Sub.within hfw); exact rfl)
    | ((with_reducible apply Sub.within hfb); exact rfl)
    | ((with_reducible apply Mixed.of); exact rfl)
    | (apply hfb.bit (i := 2) rfl)
    | (apply hfb.bit (i := 3) rfl)
    | (apply hfb.bit (i := 4) rfl)
    | (extract_lets)
    | split
    | (intro _ _ _)
    | (intro _ e; have _hk : Frame _ _ _ _ := e)
    | (intro _ e; cases e)
    | dsimp only
    | (dsimp +zetaDelta only))

theorem State.moveBegin_fr {fw fb : Nat} {s0 : State} (s : State) (w : Move) (leaf : Nat) (hK : Frame fw fb s0 s) (hfw : Sub 774056651065866 fw := by exact Sub.within hfw rfl) (hfb : Sub 60 fb := by exact Sub.within hfb rfl) : Frame fw fb s0 (State.moveBegin s w leaf) := by
  have k0 : ∀ (t : State) x0 x1, Frame fw fb s0 t → Frame fw fb s0 { t with moves := x0, nextMove := x1 } := fun t x0 x1 ht => Frame.upd ht hfw rfl rfl ⟨rfl, rfl, rfl⟩
  unfold State.moveBegin
  repeat' (first
    | with_reducible assumption
    | with_reducible apply State.moveDescs_fr
    | (with_reducible refine State.moveFrame_fr _ _ _ ?_ ?_)
    | (with_reducible apply State.moveFrame_fr_of; with_reducible assumption)
    | (with_reducible apply State.moveFrame_fr_at; with_reducible assumption)
    | with_reducible apply State.noFrame_fr
    | with_reducible apply State.setLeaf_fr
    | with_reducible apply State.wantDone_fr
    | (with_reducible refine Frame.ite ?_ ?_)
    | ((with_reducible apply Sub.within hfw); exact rfl)
    | ((with_reducible apply Sub.within hfb); exact rfl)
    | ((with_reducible apply Mixed.of); exact rfl)
    | (apply hfb.bit (i := 2) rfl)
    | (apply hfb.bit (i := 3) rfl)
    | (apply hfb.bit (i := 4) rfl)
    | (apply hfb.bit (i := 5) rfl)
    | (extract_lets)
    | (fail_if_no_progress (with_reducible refine k0 _ _ _ ?_))
    | split
    | (intro _ _ _)
    | (intro _ e; have _hk : Frame _ _ _ _ := e)
    | (intro _ e; cases e)
    | dsimp only
    | (dsimp +zetaDelta only)
    | (fail_if_no_progress ((with_reducible refine Frame.upd ?_ hfw ?_ rfl ⟨rfl, rfl, rfl⟩); rotate_left; exact rfl)))

theorem pageMoveStart_fr {fw fb : Nat} {s0 : State} (i : Nat) (s : State) (hK : Frame fw fb s0 s) (hfw : Sub 2361184015491540781578 fw := by exact Sub.within hfw rfl) (hfb : Sub 60 fb := by exact Sub.within hfb rfl) : Frame fw fb s0 (pageMoveStart i s) := by
  unfold pageMoveStart
  repeat' (first
    | with_reducible assumption
    | with_reducible apply State.moveBegin_fr
    | with_reducible apply State.moveFails_fr
    | with_reducible apply State.moveFault_fr
    | with_reducible apply State.wantDone_fr
    | (with_reducible refine Frame.ite ?_ ?_)
    | ((with_reducible apply Sub.within hfw); exact rfl)
    | ((with_reducible apply Sub.within hfb); exact rfl)
    | ((with_reducible apply Mixed.of); exact rfl)
    | (apply hfb.bit (i := 2) rfl)
    | (apply hfb.bit (i := 3) rfl)
    | (apply hfb.bit (i := 4) rfl)
    | (apply hfb.bit (i := 5) rfl)
    | (extract_lets)
    | split
    | (intro _ _ _)
    | (intro _ e; have _hk : Frame _ _ _ _ := e)
    | (intro _ e; cases e)
    | dsimp only
    | (dsimp +zetaDelta only))

theorem execPageMoveStart_fr {fw fb : Nat} {s0 : State} (want : Nat) (s : State) (hK : Frame fw fb s0 s) (hfw : Sub 2361184015491540781578 fw := by exact Sub.within hfw rfl) (hfb : Sub 60 fb := by exact Sub.within hfb rfl) : ∀ u, execPageMoveStart want s = .next u → Frame fw fb s0 u := by
  unfold execPageMoveStart
  repeat' (first
    | with_reducible assumption
    | with_reducible apply pageMoveStart_fr
    | (with_reducible refine Frame.ite ?_ ?_)
    | ((with_reducible apply Sub.within hfw); exact rfl)
    | ((with_reducible apply Sub.within hfb); exact rfl)
    | ((with_reducible apply Mixed.of); exact rfl)
    | (apply hfb.bit (i := 2) rfl)
    | (apply hfb.bit (i := 3) rfl)
    | (apply hfb.bit (i := 4) rfl)
    | (apply hfb.bit (i := 5) rfl)
    | (extract_lets)
    | split
    | (intro _ _ _)
    | (intro _ e; have _hk : Frame _ _ _ _ := e)
    | (intro _ e; cases e)
    | dsimp only
    | (dsimp +zetaDelta only))

theorem State.convertErrors_fr {fw fb : Nat} {s0 : State} (s : State) (k stack : Nat) (recs : List (List Nat)) (hK : Frame fw fb s0 s) (hfw : Sub 208 fw := by exact Sub.within hfw rfl) (hfb : Sub 131088 fb := by exact Sub.within hfb rfl) : Frame fw fb s0 (State.convertErrors s k stack recs) := by
  unfold State.convertErrors
  repeat' (first
    | with_reducible assumption
    | with_reducible apply State.bump_fr
    | with_reducible apply State.record_fr
    | (with_reducible refine Frame.foldl ?_ ?_)
    | (with_reducible refine Frame.foldr ?_ ?_)
    | (with_reducible refine Frame.ite ?_ ?_)
    | ((with_reducible apply Sub.within hfw); exact rfl)
    | ((with_reducible apply Sub.within hfb); exact rfl)
    | ((with_reducible apply Mixed.of); exact rfl)
    | (apply hfb.bit (i := 4) rfl)
    | (apply hfb.bit (i := 17) rfl)
    | (extract_lets)
    | split
    | (intro _ _ _)
    | (intro _ e; have _hk : Frame _ _ _ _ := e)
    | (intro _ e; cases e)
    | dsimp only
    | (dsimp +zetaDelta only))

theorem State.moveFree_fr {fw fb : Nat} {s0 : State} (s : State) (m : Move) (hK : Frame fw fb s0 s) (hfw : Sub 65536 fw := by exact Sub.within hfw rfl) : Frame fw fb s0 (State.moveFree s m) := by
  unfold State.moveFree
  repeat' (first
    | with_reducible assumption
    | with_reducible apply State.freeHome_fr
    | (with_reducible refine Frame.ite ?_ ?_)
    | ((with_reducible apply Sub.within hfw); exact rfl)
    | ((with_reducible apply Sub.within hfb); exact rfl)
    | ((with_reducible apply Mixed.of); exact rfl)
    | (extract_lets)
    | split
    | (intro _ _ _)
    | (intro _ e; have _hk : Frame _ _ _ _ := e)
    | (intro _ e; cases e)
    | dsimp only
    | (dsimp +zetaDelta only))

theorem State.moveCounts_fr {fw fb : Nat} {s0 : State} (s : State) (hK : Frame fw fb s0 s) (hfb : Sub 16 fb := by exact Sub.within hfb rfl) : Frame fw fb s0 (State.moveCounts s) := by
  unfold State.moveCounts
  repeat' (first
    | with_reducible assumption
    | with_reducible apply State.wr_fr
    | (with_reducible refine Frame.ite ?_ ?_)
    | ((with_reducible apply Sub.within hfw); exact rfl)
    | ((with_reducible apply Sub.within hfb); exact rfl)
    | ((with_reducible apply Mixed.of); exact rfl)
    | (apply hfb.bit (i := 4) rfl)
    | (extract_lets)
    | split
    | (intro _ _ _)
    | (intro _ e; have _hk : Frame _ _ _ _ := e)
    | (intro _ e; cases e)
    | dsimp only
    | (dsimp +zetaDelta only))

theorem State.moveEnded_fr {fw fb : Nat} {s0 : State} (s : State) (m : Move) (hK : Frame fw fb s0 s) (hfw : Sub 1649832167944 fw := by exact Sub.within hfw rfl) (hfb : Sub 784 fb := by exact Sub.within hfb rfl) : Frame fw fb s0 (State.moveEnded s m) := by
  unfold State.moveEnded
  repeat' (first
    | with_reducible assumption
    | with_reducible apply State.bump_fr
    | with_reducible apply State.cmdMap_fr
    | with_reducible apply State.doneWith_fr
    | with_reducible apply State.handMoveEnded_fr
    | with_reducible apply State.moveCounts_fr
    | with_reducible apply State.moveDone_fr
    | with_reducible apply State.want_fr
    | (with_reducible refine Frame.getD ?_ ?_)
    | (with_reducible refine Frame.ite ?_ ?_)
    | ((with_reducible apply Sub.within hfw); exact rfl)
    | ((with_reducible apply Sub.within hfb); exact rfl)
    | ((with_reducible apply Mixed.of); exact rfl)
    | (apply hfb.bit (i := 4) rfl)
    | (apply hfb.bit (i := 8) rfl)
    | (apply hfb.bit (i := 9) rfl)
    | (extract_lets)
    | split
    | (intro _ _ _)
    | (intro _ e; have _hk : Frame _ _ _ _ := e)
    | (intro _ e; cases e)
    | dsimp only
    | (dsimp +zetaDelta only))

theorem State.pinTaken_fr {fw fb : Nat} {s0 : State} (s : State) (m : Move) (hK : Frame fw fb s0 s) (hfw : Sub 512 fw := by exact Sub.within hfw rfl) : Frame fw fb s0 (State.pinTaken s m) := by
  unfold State.pinTaken
  repeat' (first
    | with_reducible assumption
    | with_reducible apply State.cmdMap_fr
    | (with_reducible refine Frame.getD ?_ ?_)
    | (with_reducible refine Frame.ite ?_ ?_)
    | ((with_reducible apply Sub.within hfw); exact rfl)
    | ((with_reducible apply Sub.within hfb); exact rfl)
    | ((with_reducible apply Mixed.of); exact rfl)
    | (extract_lets)
    | split
    | (intro _ _ _)
    | (intro _ e; have _hk : Frame _ _ _ _ := e)
    | (intro _ e; cases e)
    | dsimp only
    | (dsimp +zetaDelta only))

theorem State.moveCopied_fr {fw fb : Nat} {s0 : State} (s : State) (m : Move) (hK : Frame fw fb s0 s) (hfw : Sub 1650004134408 fw := by exact Sub.within hfw rfl) (hfb : Sub 828 fb := by exact Sub.within hfb rfl) : Frame fw fb s0 (State.moveCopied s m) := by
  unfold State.moveCopied
  repeat' (first
    | with_reducible assumption
    | with_reducible apply State.broadcast_fr
    | with_reducible apply State.keepFwd_fr
    | with_reducible apply State.moveCounts_fr
    | with_reducible apply State.moveEnded_fr
    | with_reducible apply State.moveFree_fr
    | with_reducible apply State.moveMap_fr
    | with_reducible apply State.moveStop_fr
    | with_reducible apply State.pageServed_fr
    | with_reducible apply State.pinTaken_fr
    | with_reducible apply State.setLeaf_fr
    | (with_reducible refine Frame.ite ?_ ?_)
    | ((with_reducible apply Sub.within hfw); exact rfl)
    | ((with_reducible apply Sub.within hfb); exact rfl)
    | ((with_reducible apply Mixed.of); exact rfl)
    | (apply hfb.bit (i := 2) rfl)
    | (apply hfb.bit (i := 3) rfl)
    | (apply hfb.bit (i := 4) rfl)
    | (apply hfb.bit (i := 5) rfl)
    | (apply hfb.bit (i := 8) rfl)
    | (apply hfb.bit (i := 9) rfl)
    | (extract_lets)
    | split
    | (intro _ _ _)
    | (intro _ e; have _hk : Frame _ _ _ _ := e)
    | (intro _ e; cases e)
    | dsimp only
    | (dsimp +zetaDelta only))

theorem State.moveAbandon_fr {fw fb : Nat} {s0 : State} (s : State) (m : Move) (hK : Frame fw fb s0 s) (hfw : Sub 774056916355592 fw := by exact Sub.within hfw rfl) (hfb : Sub 60 fb := by exact Sub.within hfb rfl) : Frame fw fb s0 (State.moveAbandon s m) := by
  unfold State.moveAbandon
  repeat' (first
    | with_reducible assumption
    | with_reducible apply State.bump_fr
    | with_reducible apply State.freeRunAt_fr
    | with_reducible apply State.moveDone_fr
    | with_reducible apply State.moveFails_fr
    | with_reducible apply State.moveStop_fr
    | with_reducible apply State.pageServed_fr
    | with_reducible apply State.setLeaf_fr
    | (with_reducible refine Frame.ite ?_ ?_)
    | ((with_reducible apply Sub.within hfw); exact rfl)
    | ((with_reducible apply Sub.within hfb); exact rfl)
    | ((with_reducible apply Mixed.of); exact rfl)
    | (apply hfb.bit (i := 2) rfl)
    | (apply hfb.bit (i := 3) rfl)
    | (apply hfb.bit (i := 4) rfl)
    | (apply hfb.bit (i := 5) rfl)
    | (extract_lets)
    | split
    | (intro _ _ _)
    | (intro _ e; have _hk : Frame _ _ _ _ := e)
    | (intro _ e; cases e)
    | dsimp only
    | (dsimp +zetaDelta only))

theorem State.moveDead_fr {fw fb : Nat} {s0 : State} (s : State) (m : Move) (hK : Frame fw fb s0 s) (hfw : Sub 775706186025480 fw := by exact Sub.within hfw rfl) (hfb : Sub 828 fb := by exact Sub.within hfb rfl) : Frame fw fb s0 (State.moveDead s m) := by
  unfold State.moveDead
  repeat' (first
    | with_reducible assumption
    | with_reducible apply State.freeRunAt_fr
    | with_reducible apply State.handLost_fr
    | with_reducible apply State.moveDone_fr
    | with_reducible apply State.moveFails_fr
    | with_reducible apply State.moveStop_fr
    | with_reducible apply State.setLeaf_fr
    | (with_reducible refine Frame.ite ?_ ?_)
    | ((with_reducible apply Sub.within hfw); exact rfl)
    | ((with_reducible apply Sub.within hfb); exact rfl)
    | ((with_reducible apply Mixed.of); exact rfl)
    | (apply hfb.bit (i := 2) rfl)
    | (apply hfb.bit (i := 3) rfl)
    | (apply hfb.bit (i := 4) rfl)
    | (apply hfb.bit (i := 5) rfl)
    | (apply hfb.bit (i := 8) rfl)
    | (apply hfb.bit (i := 9) rfl)
    | (extract_lets)
    | split
    | (intro _ _ _)
    | (intro _ e; have _hk : Frame _ _ _ _ := e)
    | (intro _ e; cases e)
    | dsimp only
    | (dsimp +zetaDelta only))

theorem State.moveLost_fr {fw fb : Nat} {s0 : State} (s : State) (m : Move) (hK : Frame fw fb s0 s) (hfw : Sub 775707259767304 fw := by exact Sub.within hfw rfl) (hfb : Sub 828 fb := by exact Sub.within hfb rfl) : Frame fw fb s0 (State.moveLost s m) := by
  have k0 : ∀ (t : State) x0, Frame fw fb s0 t → Frame fw fb s0 { t with topo := x0 } := fun t x0 ht => Frame.upd ht hfw rfl rfl ⟨rfl, rfl, rfl⟩
  unfold State.moveLost
  repeat' (first
    | with_reducible assumption
    | with_reducible apply State.moveDead_fr
    | (with_reducible refine Frame.ite ?_ ?_)
    | ((with_reducible apply Sub.within hfw); exact rfl)
    | ((with_reducible apply Sub.within hfb); exact rfl)
    | ((with_reducible apply Mixed.of); exact rfl)
    | (apply hfb.bit (i := 2) rfl)
    | (apply hfb.bit (i := 3) rfl)
    | (apply hfb.bit (i := 4) rfl)
    | (apply hfb.bit (i := 5) rfl)
    | (apply hfb.bit (i := 8) rfl)
    | (apply hfb.bit (i := 9) rfl)
    | (extract_lets)
    | (fail_if_no_progress (with_reducible refine k0 _ _ ?_))
    | split
    | (intro _ _ _)
    | (intro _ e; have _hk : Frame _ _ _ _ := e)
    | (intro _ e; cases e)
    | dsimp only
    | (dsimp +zetaDelta only)
    | (fail_if_no_progress ((with_reducible refine Frame.upd ?_ hfw ?_ rfl ⟨rfl, rfl, rfl⟩); rotate_left; exact rfl)))

theorem pageMoveCopyDone_fr {fw fb : Nat} {s0 : State} (i : Nat) (s : State) (hK : Frame fw fb s0 s) (hfw : Sub 775707263961608 fw := by exact Sub.within hfw rfl) (hfb : Sub 828 fb := by exact Sub.within hfb rfl) : Frame fw fb s0 (pageMoveCopyDone i s) := by
  unfold pageMoveCopyDone
  repeat' (first
    | with_reducible assumption
    | with_reducible apply State.moveAbandon_fr
    | with_reducible apply State.moveCopied_fr
    | with_reducible apply State.moveDead_fr
    | with_reducible apply State.moveLost_fr
    | (with_reducible refine Frame.ite ?_ ?_)
    | ((with_reducible apply Sub.within hfw); exact rfl)
    | ((with_reducible apply Sub.within hfb); exact rfl)
    | ((with_reducible apply Mixed.of); exact rfl)
    | (apply hfb.bit (i := 2) rfl)
    | (apply hfb.bit (i := 3) rfl)
    | (apply hfb.bit (i := 4) rfl)
    | (apply hfb.bit (i := 5) rfl)
    | (apply hfb.bit (i := 8) rfl)
    | (apply hfb.bit (i := 9) rfl)
    | (extract_lets)
    | split
    | (intro _ _ _)
    | (intro _ e; have _hk : Frame _ _ _ _ := e)
    | (intro _ e; cases e)
    | dsimp only
    | (dsimp +zetaDelta only))

theorem execPageMoveCopyDone_fr {fw fb : Nat} {s0 : State} (move : Nat) (s : State) (hK : Frame fw fb s0 s) (hfw : Sub 775707263961608 fw := by exact Sub.within hfw rfl) (hfb : Sub 828 fb := by exact Sub.within hfb rfl) : ∀ u, execPageMoveCopyDone move s = .next u → Frame fw fb s0 u := by
  unfold execPageMoveCopyDone
  repeat' (first
    | with_reducible assumption
    | with_reducible apply pageMoveCopyDone_fr
    | (with_reducible refine Frame.ite ?_ ?_)
    | ((with_reducible apply Sub.within hfw); exact rfl)
    | ((with_reducible apply Sub.within hfb); exact rfl)
    | ((with_reducible apply Mixed.of); exact rfl)
    | (apply hfb.bit (i := 2) rfl)
    | (apply hfb.bit (i := 3) rfl)
    | (apply hfb.bit (i := 4) rfl)
    | (apply hfb.bit (i := 5) rfl)
    | (apply hfb.bit (i := 8) rfl)
    | (apply hfb.bit (i := 9) rfl)
    | (extract_lets)
    | split
    | (intro _ _ _)
    | (intro _ e; have _hk : Frame _ _ _ _ := e)
    | (intro _ e; cases e)
    | dsimp only
    | (dsimp +zetaDelta only))

theorem moveBroadcastComplete_fr {fw fb : Nat} {s0 : State} (i : Nat) (s : State) (hK : Frame fw fb s0 s) (hfw : Sub 1649836362248 fw := by exact Sub.within hfw rfl) (hfb : Sub 784 fb := by exact Sub.within hfb rfl) : Frame fw fb s0 (moveBroadcastComplete i s) := by
  have k0 : ∀ (t : State) x0, Frame fw fb s0 t → Frame fw fb s0 { t with fwds := x0 } := fun t x0 ht => Frame.upd ht hfw rfl rfl ⟨rfl, rfl, rfl⟩
  unfold moveBroadcastComplete
  repeat' (first
    | with_reducible assumption
    | with_reducible apply State.moveEnded_fr
    | with_reducible apply State.moveFree_fr
    | (with_reducible refine Frame.ite ?_ ?_)
    | ((with_reducible apply Sub.within hfw); exact rfl)
    | ((with_reducible apply Sub.within hfb); exact rfl)
    | ((with_reducible apply Mixed.of); exact rfl)
    | (apply hfb.bit (i := 4) rfl)
    | (apply hfb.bit (i := 8) rfl)
    | (apply hfb.bit (i := 9) rfl)
    | (extract_lets)
    | (fail_if_no_progress (with_reducible refine k0 _ _ ?_))
    | split
    | (intro _ _ _)
    | (intro _ e; have _hk : Frame _ _ _ _ := e)
    | (intro _ e; cases e)
    | dsimp only
    | (dsimp +zetaDelta only)
    | (fail_if_no_progress ((with_reducible refine Frame.upd ?_ hfw ?_ rfl ⟨rfl, rfl, rfl⟩); rotate_left; exact rfl)))

theorem execMoveBroadcastComplete_fr {fw fb : Nat} {s0 : State} (move : Nat) (s : State) (hK : Frame fw fb s0 s) (hfw : Sub 1649836362248 fw := by exact Sub.within hfw rfl) (hfb : Sub 784 fb := by exact Sub.within hfb rfl) : ∀ u, execMoveBroadcastComplete move s = .next u → Frame fw fb s0 u := by
  unfold execMoveBroadcastComplete
  repeat' (first
    | with_reducible assumption
    | with_reducible apply moveBroadcastComplete_fr
    | (with_reducible refine Frame.ite ?_ ?_)
    | ((with_reducible apply Sub.within hfw); exact rfl)
    | ((with_reducible apply Sub.within hfb); exact rfl)
    | ((with_reducible apply Mixed.of); exact rfl)
    | (apply hfb.bit (i := 4) rfl)
    | (apply hfb.bit (i := 8) rfl)
    | (apply hfb.bit (i := 9) rfl)
    | (extract_lets)
    | split
    | (intro _ _ _)
    | (intro _ e; have _hk : Frame _ _ _ _ := e)
    | (intro _ e; cases e)
    | dsimp only
    | (dsimp +zetaDelta only))

theorem State.inboxDrop_fr {fw fb : Nat} {s0 : State} (s : State) (i : Nat) (hK : Frame fw fb s0 s) (hfw : Sub 536870912 fw := by exact Sub.within hfw rfl) : Frame fw fb s0 (State.inboxDrop s i) := by
  have k0 : ∀ (t : State) x0, Frame fw fb s0 t → Frame fw fb s0 { t with fabric := x0 } := fun t x0 ht => Frame.upd ht hfw rfl rfl ⟨rfl, rfl, rfl⟩
  unfold State.inboxDrop
  repeat' (first
    | with_reducible assumption
    | (with_reducible refine Frame.ite ?_ ?_)
    | ((with_reducible apply Sub.within hfw); exact rfl)
    | ((with_reducible apply Sub.within hfb); exact rfl)
    | ((with_reducible apply Mixed.of); exact rfl)
    | (extract_lets)
    | (fail_if_no_progress (with_reducible refine k0 _ _ ?_))
    | split
    | (intro _ _ _)
    | (intro _ e; have _hk : Frame _ _ _ _ := e)
    | (intro _ e; cases e)
    | dsimp only
    | (dsimp +zetaDelta only)
    | (fail_if_no_progress ((with_reducible refine Frame.upd ?_ hfw ?_ rfl ⟨rfl, rfl, rfl⟩); rotate_left; exact rfl)))

theorem State.inboxOld_fr {fw fb : Nat} {s0 : State} (s : State) (i : Nat) (hK : Frame fw fb s0 s) (hfw : Sub 536870912 fw := by exact Sub.within hfw rfl) (hfb : Sub 512 fb := by exact Sub.within hfb rfl) : Frame fw fb s0 (State.inboxOld s i) := by
  unfold State.inboxOld
  repeat' (first
    | with_reducible assumption
    | with_reducible apply State.bump_fr
    | with_reducible apply State.inboxDrop_fr
    | (with_reducible refine Frame.ite ?_ ?_)
    | ((with_reducible apply Sub.within hfw); exact rfl)
    | ((with_reducible apply Sub.within hfb); exact rfl)
    | ((with_reducible apply Mixed.of); exact rfl)
    | (apply hfb.bit (i := 9) rfl)
    | (extract_lets)
    | split
    | (intro _ _ _)
    | (intro _ e; have _hk : Frame _ _ _ _ := e)
    | (intro _ e; cases e)
    | dsimp only
    | (dsimp +zetaDelta only))

theorem State.noRoute_fr {fw fb : Nat} {s0 : State} (s : State) (i : Nat) (hK : Frame fw fb s0 s) (hfw : Sub 536870912 fw := by exact Sub.within hfw rfl) (hfb : Sub 512 fb := by exact Sub.within hfb rfl) : Frame fw fb s0 (State.noRoute s i) := by
  unfold State.noRoute
  repeat' (first
    | with_reducible assumption
    | with_reducible apply State.bump_fr
    | with_reducible apply State.inboxDrop_fr
    | (with_reducible refine Frame.ite ?_ ?_)
    | ((with_reducible apply Sub.within hfw); exact rfl)
    | ((with_reducible apply Sub.within hfb); exact rfl)
    | ((with_reducible apply Mixed.of); exact rfl)
    | (apply hfb.bit (i := 9) rfl)
    | (extract_lets)
    | split
    | (intro _ _ _)
    | (intro _ e; have _hk : Frame _ _ _ _ := e)
    | (intro _ e; cases e)
    | dsimp only
    | (dsimp +zetaDelta only))

theorem State.answerTo_fr {fw fb : Nat} {s0 : State} (s : State) (p : Packet) (op units poison host : Nat) (data : List Nat) (hK : Frame fw fb s0 s) (hfw : Sub 536870912 fw := by exact Sub.within hfw rfl) : Frame fw fb s0 (State.answerTo s p op units poison host data) := by
  unfold State.answerTo
  repeat' (first
    | with_reducible assumption
    | with_reducible apply State.inject_fr
    | (with_reducible refine Frame.ite ?_ ?_)
    | ((with_reducible apply Sub.within hfw); exact rfl)
    | ((with_reducible apply Sub.within hfb); exact rfl)
    | ((with_reducible apply Mixed.of); exact rfl)
    | (extract_lets)
    | split
    | (intro _ _ _)
    | (intro _ e; have _hk : Frame _ _ _ _ := e)
    | (intro _ e; cases e)
    | dsimp only
    | (dsimp +zetaDelta only))

theorem State.rehome_fr {fw fb : Nat} {s0 : State} (s : State) (oldChip oldHost oldFrame size newChip newFrame host : Nat) (hK : Frame fw fb s0 s) (hfw : Sub 25165832 fw := by exact Sub.within hfw rfl) (hfb : Sub 16 fb := by exact Sub.within hfb rfl) : Frame fw fb s0 (State.rehome s oldChip oldHost oldFrame size newChip newFrame host) := by
  unfold State.rehome
  repeat' (first
    | with_reducible assumption
    | with_reducible apply State.setLeaf_fr
    | (with_reducible refine Frame.foldl ?_ ?_)
    | (with_reducible refine Frame.foldr ?_ ?_)
    | (with_reducible refine Frame.ite ?_ ?_)
    | ((with_reducible apply Sub.within hfw); exact rfl)
    | ((with_reducible apply Sub.within hfb); exact rfl)
    | ((with_reducible apply Mixed.of); exact rfl)
    | (apply hfb.bit (i := 4) rfl)
    | (extract_lets)
    | split
    | (intro _ _ _)
    | (intro _ e; have _hk : Frame _ _ _ _ := e)
    | (intro _ e; cases e)
    | dsimp only
    | (dsimp +zetaDelta only))

theorem State.resend_fr {fw fb : Nat} {s0 : State} (s : State) (r : FabReq) (chip host off : Nat) (forwarded : Bool) (hK : Frame fw fb s0 s) (hfw : Sub 536870912 fw := by exact Sub.within hfw rfl) (hfb : Sub 512 fb := by exact Sub.within hfb rfl) : Frame fw fb s0 (State.resend s r chip host off forwarded) := by
  have k0 : ∀ (t : State) x0, Frame fw fb s0 t → Frame fw fb s0 { t with fabric := x0 } := fun t x0 ht => Frame.upd ht hfw rfl rfl ⟨rfl, rfl, rfl⟩
  unfold State.resend
  repeat' (first
    | with_reducible assumption
    | with_reducible apply State.fabSend_fr
    | (with_reducible refine Frame.ite ?_ ?_)
    | ((with_reducible apply Sub.within hfw); exact rfl)
    | ((with_reducible apply Sub.within hfb); exact rfl)
    | ((with_reducible apply Mixed.of); exact rfl)
    | (apply hfb.bit (i := 9) rfl)
    | (extract_lets)
    | (fail_if_no_progress (with_reducible refine k0 _ _ ?_))
    | split
    | (intro _ _ _)
    | (intro _ e; have _hk : Frame _ _ _ _ := e)
    | (intro _ e; cases e)
    | dsimp only
    | (dsimp +zetaDelta only)
    | (fail_if_no_progress ((with_reducible refine Frame.upd ?_ hfw ?_ rfl ⟨rfl, rfl, rfl⟩); rotate_left; exact rfl)))

theorem State.again_fr {fw fb : Nat} {s0 : State} (s : State) (r : FabReq) (hK : Frame fw fb s0 s) (hfw : Sub 536870912 fw := by exact Sub.within hfw rfl) (hfb : Sub 512 fb := by exact Sub.within hfb rfl) : Frame fw fb s0 (State.again s r) := by
  unfold State.again
  repeat' (first
    | with_reducible assumption
    | with_reducible apply State.resend_fr
    | (with_reducible refine Frame.ite ?_ ?_)
    | ((with_reducible apply Sub.within hfw); exact rfl)
    | ((with_reducible apply Sub.within hfb); exact rfl)
    | ((with_reducible apply Mixed.of); exact rfl)
    | (apply hfb.bit (i := 9) rfl)
    | (extract_lets)
    | split
    | (intro _ _ _)
    | (intro _ e; have _hk : Frame _ _ _ _ := e)
    | (intro _ e; cases e)
    | dsimp only
    | (dsimp +zetaDelta only))

theorem State.awaited_fr {fw fb : Nat} {s0 : State} (s : State) (oldChip oldHost oldFrame size : Nat) (hK : Frame fw fb s0 s) (hfw : Sub 536870912 fw := by exact Sub.within hfw rfl) (hfb : Sub 512 fb := by exact Sub.within hfb rfl) : Frame fw fb s0 (State.awaited s oldChip oldHost oldFrame size) := by
  unfold State.awaited
  repeat' (first
    | with_reducible assumption
    | with_reducible apply State.again_fr
    | (with_reducible refine Frame.foldl ?_ ?_)
    | (with_reducible refine Frame.foldr ?_ ?_)
    | (with_reducible refine Frame.ite ?_ ?_)
    | ((with_reducible apply Sub.within hfw); exact rfl)
    | ((with_reducible apply Sub.within hfb); exact rfl)
    | ((with_reducible apply Mixed.of); exact rfl)
    | (apply hfb.bit (i := 9) rfl)
    | (extract_lets)
    | split
    | (intro _ _ _)
    | (intro _ e; have _hk : Frame _ _ _ _ := e)
    | (intro _ e; cases e)
    | dsimp only
    | (dsimp +zetaDelta only))

theorem moveNote_fr {fw fb : Nat} {s0 : State} (i : Nat) (s : State) (hK : Frame fw fb s0 s) (hfw : Sub 562036744 fw := by exact Sub.within hfw rfl) (hfb : Sub 528 fb := by exact Sub.within hfb rfl) : Frame fw fb s0 (moveNote i s) := by
  have k0 : ∀ (t : State) x0, Frame fw fb s0 t → Frame fw fb s0 { t with tlbs := x0 } := fun t x0 ht => Frame.upd ht hfw rfl rfl ⟨rfl, rfl, rfl⟩
  unfold moveNote
  repeat' (first
    | with_reducible assumption
    | with_reducible apply State.answerTo_fr
    | with_reducible apply State.awaited_fr
    | with_reducible apply State.farDrop_fr
    | with_reducible apply State.inboxDrop_fr
    | with_reducible apply State.inboxOld_fr
    | with_reducible apply State.noRoute_fr
    | with_reducible apply State.rehome_fr
    | (with_reducible refine Frame.ite ?_ ?_)
    | ((with_reducible apply Sub.within hfw); exact rfl)
    | ((with_reducible apply Sub.within hfb); exact rfl)
    | ((with_reducible apply Mixed.of); exact rfl)
    | (apply hfb.bit (i := 4) rfl)
    | (apply hfb.bit (i := 9) rfl)
    | (extract_lets)
    | (fail_if_no_progress (with_reducible refine k0 _ _ ?_))
    | split
    | (intro _ _ _)
    | (intro _ e; have _hk : Frame _ _ _ _ := e)
    | (intro _ e; cases e)
    | dsimp only
    | (dsimp +zetaDelta only)
    | (fail_if_no_progress ((with_reducible refine Frame.upd ?_ hfw ?_ rfl ⟨rfl, rfl, rfl⟩); rotate_left; exact rfl)))

theorem execMoveNoteReceive_fr {fw fb : Nat} {s0 : State} (packet : Nat) (s : State) (hK : Frame fw fb s0 s) (hfw : Sub 562036744 fw := by exact Sub.within hfw rfl) (hfb : Sub 528 fb := by exact Sub.within hfb rfl) : ∀ u, execMoveNoteReceive packet s = .next u → Frame fw fb s0 u := by
  unfold execMoveNoteReceive
  repeat' (first
    | with_reducible assumption
    | with_reducible apply moveNote_fr
    | (with_reducible refine Frame.ite ?_ ?_)
    | ((with_reducible apply Sub.within hfw); exact rfl)
    | ((with_reducible apply Sub.within hfb); exact rfl)
    | ((with_reducible apply Mixed.of); exact rfl)
    | (apply hfb.bit (i := 4) rfl)
    | (apply hfb.bit (i := 9) rfl)
    | (extract_lets)
    | split
    | (intro _ _ _)
    | (intro _ e; have _hk : Frame _ _ _ _ := e)
    | (intro _ e; cases e)
    | dsimp only
    | (dsimp +zetaDelta only))

theorem State.forwardedTwice_fr {fw fb : Nat} {s0 : State} (s : State) (r : FabReq) (hK : Frame fw fb s0 s) (hfw : Sub 536870912 fw := by exact Sub.within hfw rfl) (hfb : Sub 512 fb := by exact Sub.within hfb rfl) : Frame fw fb s0 (State.forwardedTwice s r) := by
  have k0 : ∀ (t : State) x0, Frame fw fb s0 t → Frame fw fb s0 { t with fabric := x0 } := fun t x0 ht => Frame.upd ht hfw rfl rfl ⟨rfl, rfl, rfl⟩
  unfold State.forwardedTwice
  repeat' (first
    | with_reducible assumption
    | with_reducible apply State.again_fr
    | (with_reducible refine Frame.ite ?_ ?_)
    | ((with_reducible apply Sub.within hfw); exact rfl)
    | ((with_reducible apply Sub.within hfb); exact rfl)
    | ((with_reducible apply Mixed.of); exact rfl)
    | (apply hfb.bit (i := 9) rfl)
    | (extract_lets)
    | (fail_if_no_progress (with_reducible refine k0 _ _ ?_))
    | split
    | (intro _ _ _)
    | (intro _ e; have _hk : Frame _ _ _ _ := e)
    | (intro _ e; cases e)
    | dsimp only
    | (dsimp +zetaDelta only)
    | (fail_if_no_progress ((with_reducible refine Frame.upd ?_ hfw ?_ rfl ⟨rfl, rfl, rfl⟩); rotate_left; exact rfl)))

theorem forwardReceive_fr {fw fb : Nat} {s0 : State} (i : Nat) (s : State) (hK : Frame fw fb s0 s) (hfw : Sub 562036744 fw := by exact Sub.within hfw rfl) (hfb : Sub 528 fb := by exact Sub.within hfb rfl) : Frame fw fb s0 (forwardReceive i s) := by
  unfold forwardReceive
  repeat' (first
    | with_reducible assumption
    | with_reducible apply State.bump_fr
    | with_reducible apply State.forwardedTwice_fr
    | with_reducible apply State.inboxDrop_fr
    | with_reducible apply State.inboxOld_fr
    | with_reducible apply State.resend_fr
    | with_reducible apply State.setLeaf_fr
    | (with_reducible refine Frame.ite ?_ ?_)
    | ((with_reducible apply Sub.within hfw); exact rfl)
    | ((with_reducible apply Sub.within hfb); exact rfl)
    | ((with_reducible apply Mixed.of); exact rfl)
    | (apply hfb.bit (i := 4) rfl)
    | (apply hfb.bit (i := 9) rfl)
    | (extract_lets)
    | split
    | (intro _ _ _)
    | (intro _ e; have _hk : Frame _ _ _ _ := e)
    | (intro _ e; cases e)
    | dsimp only
    | (dsimp +zetaDelta only))

theorem execForwardReceive_fr {fw fb : Nat} {s0 : State} (packet : Nat) (s : State) (hK : Frame fw fb s0 s) (hfw : Sub 562036744 fw := by exact Sub.within hfw rfl) (hfb : Sub 528 fb := by exact Sub.within hfb rfl) : ∀ u, execForwardReceive packet s = .next u → Frame fw fb s0 u := by
  unfold execForwardReceive
  repeat' (first
    | with_reducible assumption
    | with_reducible apply forwardReceive_fr
    | (with_reducible refine Frame.ite ?_ ?_)
    | ((with_reducible apply Sub.within hfw); exact rfl)
    | ((with_reducible apply Sub.within hfb); exact rfl)
    | ((with_reducible apply Mixed.of); exact rfl)
    | (apply hfb.bit (i := 4) rfl)
    | (apply hfb.bit (i := 9) rfl)
    | (extract_lets)
    | split
    | (intro _ _ _)
    | (intro _ e; have _hk : Frame _ _ _ _ := e)
    | (intro _ e; cases e)
    | dsimp only
    | (dsimp +zetaDelta only))

theorem faultDeliver_fr {fw fb : Nat} {s0 : State} (i : Nat) (s : State) (hK : Frame fw fb s0 s) (hfw : Sub 33554584 fw := by exact Sub.within hfw rfl) (hfb : Sub 8 fb := by exact Sub.within hfb rfl) : Frame fw fb s0 (faultDeliver i s) := by
  have k0 : ∀ (t : State) x0, Frame fw fb s0 t → Frame fw fb s0 { t with faults := x0 } := fun t x0 ht => Frame.upd ht hfw rfl rfl ⟨rfl, rfl, rfl⟩
  unfold faultDeliver
  repeat' (first
    | with_reducible assumption
    | with_reducible apply State.raise_fr
    | with_reducible apply State.storeWords_fr
    | with_reducible apply State.wr_fr
    | (with_reducible refine Frame.ite ?_ ?_)
    | ((with_reducible apply Sub.within hfw); exact rfl)
    | ((with_reducible apply Sub.within hfb); exact rfl)
    | ((with_reducible apply Mixed.of); exact rfl)
    | (apply hfb.bit (i := 3) rfl)
    | (extract_lets)
    | (fail_if_no_progress (with_reducible refine k0 _ _ ?_))
    | split
    | (intro _ _ _)
    | (intro _ e; have _hk : Frame _ _ _ _ := e)
    | (intro _ e; cases e)
    | dsimp only
    | (dsimp +zetaDelta only)
    | (fail_if_no_progress ((with_reducible refine Frame.upd ?_ hfw ?_ rfl ⟨rfl, rfl, rfl⟩); rotate_left; exact rfl)))

theorem execFaultRecordDeliver_fr {fw fb : Nat} {s0 : State} (fault : Nat) (s : State) (hK : Frame fw fb s0 s) (hfw : Sub 33554584 fw := by exact Sub.within hfw rfl) (hfb : Sub 8 fb := by exact Sub.within hfb rfl) : ∀ u, execFaultRecordDeliver fault s = .next u → Frame fw fb s0 u := by
  unfold execFaultRecordDeliver
  repeat' (first
    | with_reducible assumption
    | with_reducible apply faultDeliver_fr
    | (with_reducible refine Frame.ite ?_ ?_)
    | ((with_reducible apply Sub.within hfw); exact rfl)
    | ((with_reducible apply Sub.within hfb); exact rfl)
    | ((with_reducible apply Mixed.of); exact rfl)
    | (apply hfb.bit (i := 3) rfl)
    | (extract_lets)
    | split
    | (intro _ _ _)
    | (intro _ e; have _hk : Frame _ _ _ _ := e)
    | (intro _ e; cases e)
    | dsimp only
    | (dsimp +zetaDelta only))

theorem faultResolve_fr {fw fb : Nat} {s0 : State} (value : Nat) (s : State) (hK : Frame fw fb s0 s) (hfw : Sub 774056353729024 fw := by exact Sub.within hfw rfl) (hfb : Sub 28 fb := by exact Sub.within hfb rfl) : Frame fw fb s0 (faultResolve value s) := by
  unfold faultResolve
  repeat' (first
    | with_reducible assumption
    | with_reducible apply State.faultEnd_fr
    | (with_reducible refine Frame.ite ?_ ?_)
    | ((with_reducible apply Sub.within hfw); exact rfl)
    | ((with_reducible apply Sub.within hfb); exact rfl)
    | ((with_reducible apply Mixed.of); exact rfl)
    | (apply hfb.bit (i := 2) rfl)
    | (apply hfb.bit (i := 3) rfl)
    | (apply hfb.bit (i := 4) rfl)
    | (extract_lets)
    | split
    | (intro _ _ _)
    | (intro _ e; have _hk : Frame _ _ _ _ := e)
    | (intro _ e; cases e)
    | dsimp only
    | (dsimp +zetaDelta only))

theorem execFaultResolve_fr {fw fb : Nat} {s0 : State} (src value : Nat) (s : State) (hK : Frame fw fb s0 s) (hfw : Sub 774056353729024 fw := by exact Sub.within hfw rfl) (hfb : Sub 29 fb := by exact Sub.within hfb rfl) : ∀ u, execFaultResolve src value s = .next u → Frame fw fb s0 u := by
  unfold execFaultResolve
  repeat' (first
    | with_reducible assumption
    | with_reducible apply State.viaSource_fr
    | with_reducible apply faultResolve_fr
    | (with_reducible refine Frame.ite ?_ ?_)
    | ((with_reducible apply Sub.within hfw); exact rfl)
    | ((with_reducible apply Sub.within hfb); exact rfl)
    | ((with_reducible apply Mixed.of); exact rfl)
    | (apply hfb.bit (i := 0) rfl)
    | (apply hfb.bit (i := 2) rfl)
    | (apply hfb.bit (i := 3) rfl)
    | (apply hfb.bit (i := 4) rfl)
    | (extract_lets)
    | split
    | (intro _ _ _)
    | (intro _ e; have _hk : Frame _ _ _ _ := e)
    | (intro _ e; cases e)
    | dsimp only
    | (dsimp +zetaDelta only))

theorem faultTimeout_fr {fw fb : Nat} {s0 : State} (i : Nat) (s : State) (hK : Frame fw fb s0 s) (hfw : Sub 774056353729024 fw := by exact Sub.within hfw rfl) (hfb : Sub 28 fb := by exact Sub.within hfb rfl) : Frame fw fb s0 (faultTimeout i s) := by
  unfold faultTimeout
  repeat' (first
    | with_reducible assumption
    | with_reducible apply State.bump_fr
    | with_reducible apply State.faultEnd_fr
    | (with_reducible refine Frame.ite ?_ ?_)
    | ((with_reducible apply Sub.within hfw); exact rfl)
    | ((with_reducible apply Sub.within hfb); exact rfl)
    | ((with_reducible apply Mixed.of); exact rfl)
    | (apply hfb.bit (i := 2) rfl)
    | (apply hfb.bit (i := 3) rfl)
    | (apply hfb.bit (i := 4) rfl)
    | (extract_lets)
    | split
    | (intro _ _ _)
    | (intro _ e; have _hk : Frame _ _ _ _ := e)
    | (intro _ e; cases e)
    | dsimp only
    | (dsimp +zetaDelta only))

theorem execFaultTimeout_fr {fw fb : Nat} {s0 : State} (fault : Nat) (s : State) (hK : Frame fw fb s0 s) (hfw : Sub 774056353729024 fw := by exact Sub.within hfw rfl) (hfb : Sub 28 fb := by exact Sub.within hfb rfl) : ∀ u, execFaultTimeout fault s = .next u → Frame fw fb s0 u := by
  unfold execFaultTimeout
  repeat' (first
    | with_reducible assumption
    | with_reducible apply faultTimeout_fr
    | (with_reducible refine Frame.ite ?_ ?_)
    | ((with_reducible apply Sub.within hfw); exact rfl)
    | ((with_reducible apply Sub.within hfb); exact rfl)
    | ((with_reducible apply Mixed.of); exact rfl)
    | (apply hfb.bit (i := 2) rfl)
    | (apply hfb.bit (i := 3) rfl)
    | (apply hfb.bit (i := 4) rfl)
    | (extract_lets)
    | split
    | (intro _ _ _)
    | (intro _ e; have _hk : Frame _ _ _ _ := e)
    | (intro _ e; cases e)
    | dsimp only
    | (dsimp +zetaDelta only))

end Sys2Proof.Machine
end

