-- ==== Sys2Proof/Laws/Frame/Fabric.lean ====
section
/-! SUPPORT. What the operations of Machine/Fabric.lean leave as it was (`Frame`): one lemma each. -/

set_option linter.unreachableTactic false
set_option linter.unusedTactic false

namespace Sys2Proof.Machine

set_option Elab.async false

open Sys2Proof

theorem State.outGrant_fr {fw fb : Nat} {s0 : State} (s : State) (w : Nat × Nat) (input : Nat) (hK : Frame fw fb s0 s) (hfw : Sub 536870912 fw := by exact Sub.within hfw rfl) : Frame fw fb s0 (State.outGrant s w input) := by
  have k0 : ∀ (t : State) x0, Frame fw fb s0 t → Frame fw fb s0 { t with fabric := x0 } := fun t x0 ht => Frame.upd ht hfw rfl rfl ⟨rfl, rfl, rfl⟩
  unfold State.outGrant
  repeat' (first
    | with_reducible assumption
    | (with_reducible refine Frame.getD ?_ ?_)
    | (with_reducible refine Frame.ite ?_ ?_)
    | ((with_reducible apply Sub.within hfw); exact rfl)
    | ((with_reducible apply Sub.within hfb); exact rfl)
    | ((with_reducible apply Mixed.of); exact rfl)
    | (extract_lets)
    | (fail_if_no_progress (with_reducible refine k0 _ _ ?_))
    | split
    | (intro _ _ _)
    | (intro _ e; have _hk : Frame _ _ _ _ := e)
    | (intro _ e; cases e)
    | dsimp only
    | (dsimp +zetaDelta only)
    | (fail_if_no_progress ((with_reducible refine Frame.upd ?_ hfw ?_ rfl ⟨rfl, rfl, rfl⟩); rotate_left; exact rfl)))

theorem packetForward_fr {fw fb : Nat} {s0 : State} (i : Nat) (s : State) (hK : Frame fw fb s0 s) (hfw : Sub 536870928 fw := by exact Sub.within hfw rfl) (hfb : Sub 512 fb := by exact Sub.within hfb rfl) : Frame fw fb s0 (packetForward i s) := by
  unfold packetForward
  repeat' (first
    | with_reducible assumption
    | with_reducible apply State.inboxDrop_fr
    | with_reducible apply State.inboxOld_fr
    | with_reducible apply State.linkSend_fr
    | with_reducible apply State.noRoute_fr
    | with_reducible apply State.outGrant_fr
    | (with_reducible refine Frame.getD ?_ ?_)
    | (with_reducible refine Frame.ite ?_ ?_)
    | ((with_reducible apply Sub.within hfw); exact rfl)
    | ((with_reducible apply Sub.within hfb); exact rfl)
    | ((with_reducible apply Mixed.of); exact rfl)
    | (apply hfb.bit (i := 9) rfl)
    | (extract_lets)
    | split
    | (intro _ _ _)
    | (intro _ e; have _hk : Frame _ _ _ _ := e)
    | (intro _ e; cases e)
    | dsimp only
    | (dsimp +zetaDelta only))

theorem execPacketForward_fr {fw fb : Nat} {s0 : State} (packet : Nat) (s : State) (hK : Frame fw fb s0 s) (hfw : Sub 536870928 fw := by exact Sub.within hfw rfl) (hfb : Sub 512 fb := by exact Sub.within hfb rfl) : ∀ u, execPacketForward packet s = .next u → Frame fw fb s0 u := by
  unfold execPacketForward
  repeat' (first
    | with_reducible assumption
    | with_reducible apply packetForward_fr
    | (with_reducible refine Frame.ite ?_ ?_)
    | ((with_reducible apply Sub.within hfw); exact rfl)
    | ((with_reducible apply Sub.within hfb); exact rfl)
    | ((with_reducible apply Mixed.of); exact rfl)
    | (apply hfb.bit (i := 9) rfl)
    | (extract_lets)
    | split
    | (intro _ _ _)
    | (intro _ e; have _hk : Frame _ _ _ _ := e)
    | (intro _ e; cases e)
    | dsimp only
    | (dsimp +zetaDelta only))

theorem lifetimeExpiry_fr {fw fb : Nat} {s0 : State} (i : Nat) (s : State) (hK : Frame fw fb s0 s) (hfw : Sub 536870912 fw := by exact Sub.within hfw rfl) (hfb : Sub 512 fb := by exact Sub.within hfb rfl) : Frame fw fb s0 (lifetimeExpiry i s) := by
  unfold lifetimeExpiry
  repeat' (first
    | with_reducible assumption
    | with_reducible apply State.inboxOld_fr
    | (with_reducible refine Frame.ite ?_ ?_)
    | ((with_reducible apply Sub.within hfw); exact rfl)
    | ((with_reducible apply Sub.within hfb); exact rfl)
    | ((with_reducible apply Mixed.of); exact rfl)
    | (apply hfb.bit (i := 9) rfl)
    | (extract_lets)
    | split
    | (intro _ _ _)
    | (intro _ e; have _hk : Frame _ _ _ _ := e)
    | (intro _ e; cases e)
    | dsimp only
    | (dsimp +zetaDelta only))

theorem execPacketLifetimeExpiry_fr {fw fb : Nat} {s0 : State} (packet : Nat) (s : State) (hK : Frame fw fb s0 s) (hfw : Sub 536870912 fw := by exact Sub.within hfw rfl) (hfb : Sub 512 fb := by exact Sub.within hfb rfl) : ∀ u, execPacketLifetimeExpiry packet s = .next u → Frame fw fb s0 u := by
  unfold execPacketLifetimeExpiry
  repeat' (first
    | with_reducible assumption
    | with_reducible apply lifetimeExpiry_fr
    | (with_reducible refine Frame.ite ?_ ?_)
    | ((with_reducible apply Sub.within hfw); exact rfl)
    | ((with_reducible apply Sub.within hfb); exact rfl)
    | ((with_reducible apply Mixed.of); exact rfl)
    | (apply hfb.bit (i := 9) rfl)
    | (extract_lets)
    | split
    | (intro _ _ _)
    | (intro _ e; have _hk : Frame _ _ _ _ := e)
    | (intro _ e; cases e)
    | dsimp only
    | (dsimp +zetaDelta only))

theorem State.answerPoison_fr {fw fb : Nat} {s0 : State} (s : State) (p : Packet) (hK : Frame fw fb s0 s) (hfw : Sub 536870912 fw := by exact Sub.within hfw rfl) : Frame fw fb s0 (State.answerPoison s p) := by
  unfold State.answerPoison
  repeat' (first
    | with_reducible assumption
    | with_reducible apply State.answerTo_fr
    | (with_reducible refine Frame.ite ?_ ?_)
    | ((with_reducible apply Sub.within hfw); exact rfl)
    | ((with_reducible apply Sub.within hfb); exact rfl)
    | ((with_reducible apply Mixed.of); exact rfl)
    | (extract_lets)
    | split
    | (intro _ _ _)
    | (intro _ e; have _hk : Frame _ _ _ _ := e)
    | (intro _ e; cases e)
    | dsimp only
    | (dsimp +zetaDelta only))

theorem State.applyWrite_fr {fw fb : Nat} {s0 : State} (s : State) (p : Packet) (hK : Frame fw fb s0 s) (hfw : Sub 8 fw := by exact Sub.within hfw rfl) : Frame fw fb s0 (State.applyWrite s p).1 := by
  unfold State.applyWrite
  repeat' (first
    | with_reducible assumption
    | with_reducible apply State.store_fr
    | with_reducible apply State.storeBytes_fr
    | (with_reducible refine Frame.ite ?_ ?_)
    | ((with_reducible apply Sub.within hfw); exact rfl)
    | ((with_reducible apply Sub.within hfb); exact rfl)
    | ((with_reducible apply Mixed.of); exact rfl)
    | (extract_lets)
    | split
    | (intro _ _ _)
    | (intro _ e; have _hk : Frame _ _ _ _ := e)
    | (intro _ e; cases e)
    | dsimp only
    | (dsimp +zetaDelta only))

theorem State.applyWrite_fr_at {fw fb : Nat} {s0 : State} {u : State} {r1} {r2} {s : State} {p : Packet} (h_eq : State.applyWrite s p = (u, r1, r2)) (hK : Frame fw fb s0 s) (hfw : Sub 8 fw := by exact Sub.within hfw rfl) : Frame fw fb s0 u := by
  have := State.applyWrite_fr s p hK
  rw [h_eq] at this
  exact this

theorem State.storeSources_fr {fw fb : Nat} {s0 : State} (s : State) (hK : Frame fw fb s0 s) (hfb : Sub 512 fb := by exact Sub.within hfb rfl) : Frame fw fb s0 (State.storeSources s) := by
  unfold State.storeSources
  repeat' (first
    | with_reducible assumption
    | with_reducible apply State.wr_fr
    | (with_reducible refine Frame.foldl ?_ ?_)
    | (with_reducible refine Frame.foldr ?_ ?_)
    | (with_reducible refine Frame.ite ?_ ?_)
    | ((with_reducible apply Sub.within hfw); exact rfl)
    | ((with_reducible apply Sub.within hfb); exact rfl)
    | ((with_reducible apply Mixed.of); exact rfl)
    | (apply hfb.bit (i := 9) rfl)
    | (extract_lets)
    | split
    | (intro _ _ _)
    | (intro _ e; have _hk : Frame _ _ _ _ := e)
    | (intro _ e; cases e)
    | dsimp only
    | (dsimp +zetaDelta only))

theorem State.storeResult_fr {fw fb : Nat} {s0 : State} (s : State) (r : StoredResult) (hK : Frame fw fb s0 s) (hfw : Sub 536870912 fw := by exact Sub.within hfw rfl) (hfb : Sub 512 fb := by exact Sub.within hfb rfl) : Frame fw fb s0 (State.storeResult s r) := by
  have k0 : ∀ (t : State) x0, Frame fw fb s0 t → Frame fw fb s0 { t with fabric := x0 } := fun t x0 ht => Frame.upd ht hfw rfl rfl ⟨rfl, rfl, rfl⟩
  unfold State.storeResult
  repeat' (first
    | with_reducible assumption
    | with_reducible apply State.storeSources_fr
    | (with_reducible refine Frame.ite ?_ ?_)
    | ((with_reducible apply Sub.within hfw); exact rfl)
    | ((with_reducible apply Sub.within hfb); exact rfl)
    | ((with_reducible apply Mixed.of); exact rfl)
    | (apply hfb.bit (i := 9) rfl)
    | (extract_lets)
    | (fail_if_no_progress (with_reducible refine k0 _ _ ?_))
    | split
    | (intro _ _ _)
    | (intro _ e; have _hk : Frame _ _ _ _ := e)
    | (intro _ e; cases e)
    | dsimp only
    | (dsimp +zetaDelta only)
    | (fail_if_no_progress ((with_reducible refine Frame.upd ?_ hfw ?_ rfl ⟨rfl, rfl, rfl⟩); rotate_left; exact rfl)))

theorem State.serveHome_fr {fw fb : Nat} {s0 : State} (s : State) (p : Packet) (hK : Frame fw fb s0 s) (hfw : Sub 9444732965739827298312 fw := by exact Sub.within hfw rfl) (hfb : Sub 512 fb := by exact Sub.within hfb rfl) : Frame fw fb s0 (State.serveHome s p) := by
  unfold State.serveHome
  repeat' (first
    | with_reducible assumption
    | with_reducible apply State.answerTo_fr
    | with_reducible apply State.applyWrite_fr
    | (with_reducible apply State.applyWrite_fr_at; with_reducible assumption)
    | with_reducible apply State.bump_fr
    | with_reducible apply State.ringNote_fr
    | with_reducible apply State.storeResult_fr
    | (with_reducible refine Frame.ite ?_ ?_)
    | ((with_reducible apply Sub.within hfw); exact rfl)
    | ((with_reducible apply Sub.within hfb); exact rfl)
    | ((with_reducible apply Mixed.of); exact rfl)
    | (apply hfb.bit (i := 9) rfl)
    | (extract_lets)
    | split
    | (intro _ _ _)
    | (intro _ e; have _hk : Frame _ _ _ _ := e)
    | (intro _ e; cases e)
    | dsimp only
    | (dsimp +zetaDelta only))

theorem fabricServe_fr {fw fb : Nat} {s0 : State} (i : Nat) (s : State) (hK : Frame fw fb s0 s) (hfw : Sub 9444732965808546775256 fw := by exact Sub.within hfw rfl) (hfb : Sub 131728 fb := by exact Sub.within hfb rfl) : Frame fw fb s0 (fabricServe i s) := by
  unfold fabricServe
  repeat' (first
    | with_reducible assumption
    | with_reducible apply State.answerPoison_fr
    | with_reducible apply State.answerTo_fr
    | with_reducible apply State.bump_fr
    | with_reducible apply State.inboxDrop_fr
    | with_reducible apply State.inboxOld_fr
    | with_reducible apply State.noRoute_fr
    | with_reducible apply State.noteArrivals_fr
    | with_reducible apply State.record_fr
    | with_reducible apply State.serveHome_fr
    | (with_reducible refine Frame.ite ?_ ?_)
    | ((with_reducible apply Sub.within hfw); exact rfl)
    | ((with_reducible apply Sub.within hfb); exact rfl)
    | ((with_reducible apply Mixed.of); exact rfl)
    | (apply hfb.bit (i := 4) rfl)
    | (apply hfb.bit (i := 7) rfl)
    | (apply hfb.bit (i := 9) rfl)
    | (apply hfb.bit (i := 17) rfl)
    | (extract_lets)
    | split
    | (intro _ _ _)
    | (intro _ e; have _hk : Frame _ _ _ _ := e)
    | (intro _ e; cases e)
    | dsimp only
    | (dsimp +zetaDelta only))

theorem State.hungNow_fr {fw fb : Nat} {s0 : State} (s : State) (hK : Frame fw fb s0 s) (hfb : Sub 512 fb := by exact Sub.within hfb rfl) : Frame fw fb s0 (State.hungNow s) := by
  unfold State.hungNow
  repeat' (first
    | with_reducible assumption
    | with_reducible apply State.wr_fr
    | (with_reducible refine Frame.ite ?_ ?_)
    | ((with_reducible apply Sub.within hfw); exact rfl)
    | ((with_reducible apply Sub.within hfb); exact rfl)
    | ((with_reducible apply Mixed.of); exact rfl)
    | (apply hfb.bit (i := 9) rfl)
    | (extract_lets)
    | split
    | (intro _ _ _)
    | (intro _ e; have _hk : Frame _ _ _ _ := e)
    | (intro _ e; cases e)
    | dsimp only
    | (dsimp +zetaDelta only))

theorem State.farFill_fr {fw fb : Nat} {s0 : State} (s : State) (die block : Nat) (bytes : List Nat) (hK : Frame fw fb s0 s) (hfw : Sub 536870914 fw := by exact Sub.within hfw rfl) (hfb : Sub 512 fb := by exact Sub.within hfb rfl) : Frame fw fb s0 (State.farFill s die block bytes) := by
  have k0 : ∀ (t : State) x0, Frame fw fb s0 t → Frame fw fb s0 { t with fabric := x0 } := fun t x0 ht => Frame.upd ht hfw rfl rfl ⟨rfl, rfl, rfl⟩
  unfold State.farFill
  repeat' (first
    | with_reducible assumption
    | with_reducible apply State.farCount_fr
    | with_reducible apply State.took_fr
    | (with_reducible refine Frame.ite ?_ ?_)
    | ((with_reducible apply Sub.within hfw); exact rfl)
    | ((with_reducible apply Sub.within hfb); exact rfl)
    | ((with_reducible apply Mixed.of); exact rfl)
    | (apply hfb.bit (i := 9) rfl)
    | (extract_lets)
    | (fail_if_no_progress (with_reducible refine k0 _ _ ?_))
    | split
    | (intro _ _ _)
    | (intro _ e; have _hk : Frame _ _ _ _ := e)
    | (intro _ e; cases e)
    | dsimp only
    | (dsimp +zetaDelta only)
    | (fail_if_no_progress ((with_reducible refine Frame.upd ?_ hfw ?_ rfl ⟨rfl, rfl, rfl⟩); rotate_left; exact rfl)))

theorem State.farAnswer_fr {fw fb : Nat} {s0 : State} (s : State) (r : FabReq) (p : Packet) (hK : Frame fw fb s0 s) (hfw : Sub 536870914 fw := by exact Sub.within hfw rfl) (hfb : Sub 512 fb := by exact Sub.within hfb rfl) : Frame fw fb s0 (State.farAnswer s r p) := by
  unfold State.farAnswer
  repeat' (first
    | with_reducible assumption
    | with_reducible apply State.farFill_fr
    | (with_reducible refine Frame.foldl ?_ ?_)
    | (with_reducible refine Frame.foldr ?_ ?_)
    | (with_reducible refine Frame.ite ?_ ?_)
    | ((with_reducible apply Sub.within hfw); exact rfl)
    | ((with_reducible apply Sub.within hfb); exact rfl)
    | ((with_reducible apply Mixed.of); exact rfl)
    | (apply hfb.bit (i := 9) rfl)
    | (extract_lets)
    | split
    | (intro _ _ _)
    | (intro _ e; have _hk : Frame _ _ _ _ := e)
    | (intro _ e; cases e)
    | dsimp only
    | (dsimp +zetaDelta only))

theorem State.gotPut_fr {fw fb : Nat} {s0 : State} (s : State) (w : Parked) (r : FabReq) (p : Packet) (hK : Frame fw fb s0 s) (hfw : Sub 536870912 fw := by exact Sub.within hfw rfl) : Frame fw fb s0 (State.gotPut s w r p) := by
  have k0 : ∀ (t : State) x0, Frame fw fb s0 t → Frame fw fb s0 { t with fabric := x0 } := fun t x0 ht => Frame.upd ht hfw rfl rfl ⟨rfl, rfl, rfl⟩
  unfold State.gotPut
  repeat' (first
    | with_reducible assumption
    | (with_reducible refine Frame.ite ?_ ?_)
    | ((with_reducible apply Sub.within hfw); exact rfl)
    | ((with_reducible apply Sub.within hfb); exact rfl)
    | ((with_reducible apply Mixed.of); exact rfl)
    | (extract_lets)
    | (fail_if_no_progress (with_reducible refine k0 _ _ ?_))
    | split
    | (intro _ _ _)
    | (intro _ e; have _hk : Frame _ _ _ _ := e)
    | (intro _ e; cases e)
    | dsimp only
    | (dsimp +zetaDelta only)
    | (fail_if_no_progress ((with_reducible refine Frame.upd ?_ hfw ?_ rfl ⟨rfl, rfl, rfl⟩); rotate_left; exact rfl)))

theorem State.cmdAnswer_fr {fw fb : Nat} {s0 : State} (s : State) (r : FabReq) (p : Packet) (hK : Frame fw fb s0 s) (hfw : Sub 536873472 fw := by exact Sub.within hfw rfl) : Frame fw fb s0 (State.cmdAnswer s r p) := by
  unfold State.cmdAnswer
  repeat' (first
    | with_reducible assumption
    | with_reducible apply State.doneWith_fr
    | with_reducible apply State.failWith_fr
    | with_reducible apply State.gotPut_fr
    | with_reducible apply State.waitSee_fr
    | (with_reducible refine Frame.ite ?_ ?_)
    | ((with_reducible apply Sub.within hfw); exact rfl)
    | ((with_reducible apply Sub.within hfb); exact rfl)
    | ((with_reducible apply Mixed.of); exact rfl)
    | (extract_lets)
    | split
    | (intro _ _ _)
    | (intro _ e; have _hk : Frame _ _ _ _ := e)
    | (intro _ e; cases e)
    | dsimp only
    | (dsimp +zetaDelta only))

theorem State.descAnswer_fr {fw fb : Nat} {s0 : State} (s : State) (r : FabReq) (p : Packet) (hK : Frame fw fb s0 s) (hfw : Sub 671088640 fw := by exact Sub.within hfw rfl) : Frame fw fb s0 (State.descAnswer s r p) := by
  unfold State.descAnswer
  repeat' (first
    | with_reducible assumption
    | with_reducible apply State.descMap_fr
    | with_reducible apply State.gotPut_fr
    | (with_reducible refine Frame.ite ?_ ?_)
    | ((with_reducible apply Sub.within hfw); exact rfl)
    | ((with_reducible apply Sub.within hfb); exact rfl)
    | ((with_reducible apply Mixed.of); exact rfl)
    | (extract_lets)
    | split
    | (intro _ _ _)
    | (intro _ e; have _hk : Frame _ _ _ _ := e)
    | (intro _ e; cases e)
    | dsimp only
    | (dsimp +zetaDelta only))

theorem State.mergeAnswer_fr {fw fb : Nat} {s0 : State} (s : State) (r : FabReq) (p : Packet) (hK : Frame fw fb s0 s) (hfw : Sub 774056857045504 fw := by exact Sub.within hfw rfl) (hfb : Sub 532 fb := by exact Sub.within hfb rfl) : Frame fw fb s0 (State.mergeAnswer s r p) := by
  unfold State.mergeAnswer
  repeat' (first
    | with_reducible assumption
    | with_reducible apply State.descMap_fr
    | with_reducible apply State.endLaunch_fr
    | with_reducible apply State.fabSend_fr
    | with_reducible apply State.failWith_fr
    | (with_reducible refine Frame.ite ?_ ?_)
    | ((with_reducible apply Sub.within hfw); exact rfl)
    | ((with_reducible apply Sub.within hfb); exact rfl)
    | ((with_reducible apply Mixed.of); exact rfl)
    | (apply hfb.bit (i := 2) rfl)
    | (apply hfb.bit (i := 4) rfl)
    | (apply hfb.bit (i := 9) rfl)
    | (extract_lets)
    | split
    | (intro _ _ _)
    | (intro _ e; have _hk : Frame _ _ _ _ := e)
    | (intro _ e; cases e)
    | dsimp only
    | (dsimp +zetaDelta only))

theorem fabricAnswer_fr {fw fb : Nat} {s0 : State} (i : Nat) (s : State) (hK : Frame fw fb s0 s) (hfw : Sub 774056857569794 fw := by exact Sub.within hfw rfl) (hfb : Sub 532 fb := by exact Sub.within hfb rfl) : Frame fw fb s0 (fabricAnswer i s) := by
  have k0 : ∀ (t : State) x0, Frame fw fb s0 t → Frame fw fb s0 { t with fabric := x0 } := fun t x0 ht => Frame.upd ht hfw rfl rfl ⟨rfl, rfl, rfl⟩
  unfold fabricAnswer
  repeat' (first
    | with_reducible assumption
    | with_reducible apply State.bump_fr
    | with_reducible apply State.cmdAnswer_fr
    | with_reducible apply State.descAnswer_fr
    | with_reducible apply State.endLaunch_fr
    | with_reducible apply State.fabKick_fr
    | with_reducible apply State.farAnswer_fr
    | with_reducible apply State.gotPut_fr
    | with_reducible apply State.hungNow_fr
    | with_reducible apply State.inboxDrop_fr
    | with_reducible apply State.inboxOld_fr
    | with_reducible apply State.mergeAnswer_fr
    | with_reducible apply State.moveMap_fr
    | with_reducible apply State.wr_fr
    | (with_reducible refine Frame.ite ?_ ?_)
    | ((with_reducible apply Sub.within hfw); exact rfl)
    | ((with_reducible apply Sub.within hfb); exact rfl)
    | ((with_reducible apply Mixed.of); exact rfl)
    | (apply hfb.bit (i := 2) rfl)
    | (apply hfb.bit (i := 4) rfl)
    | (apply hfb.bit (i := 9) rfl)
    | (extract_lets)
    | (fail_if_no_progress (with_reducible refine k0 _ _ ?_))
    | split
    | (intro _ _ _)
    | (intro _ e; have _hk : Frame _ _ _ _ := e)
    | (intro _ e; cases e)
    | dsimp only
    | (dsimp +zetaDelta only)
    | (fail_if_no_progress ((with_reducible refine Frame.upd ?_ hfw ?_ rfl ⟨rfl, rfl, rfl⟩); rotate_left; exact rfl)))

theorem execFabricAnswerReceive_fr {fw fb : Nat} {s0 : State} (packet : Nat) (s : State) (hK : Frame fw fb s0 s) (hfw : Sub 774056857569794 fw := by exact Sub.within hfw rfl) (hfb : Sub 532 fb := by exact Sub.within hfb rfl) : ∀ u, execFabricAnswerReceive packet s = .next u → Frame fw fb s0 u := by
  unfold execFabricAnswerReceive
  repeat' (first
    | with_reducible assumption
    | with_reducible apply fabricAnswer_fr
    | (with_reducible refine Frame.ite ?_ ?_)
    | ((with_reducible apply Sub.within hfw); exact rfl)
    | ((with_reducible apply Sub.within hfb); exact rfl)
    | ((with_reducible apply Mixed.of); exact rfl)
    | (apply hfb.bit (i := 2) rfl)
    | (apply hfb.bit (i := 4) rfl)
    | (apply hfb.bit (i := 9) rfl)
    | (extract_lets)
    | split
    | (intro _ _ _)
    | (intro _ e; have _hk : Frame _ _ _ _ := e)
    | (intro _ e; cases e)
    | dsimp only
    | (dsimp +zetaDelta only))

theorem fabricRetry_fr {fw fb : Nat} {s0 : State} (id : Nat) (s : State) (hK : Frame fw fb s0 s) (hfw : Sub 536870912 fw := by exact Sub.within hfw rfl) (hfb : Sub 512 fb := by exact Sub.within hfb rfl) : Frame fw fb s0 (fabricRetry id s) := by
  have k0 : ∀ (t : State) x0, Frame fw fb s0 t → Frame fw fb s0 { t with fabric := x0 } := fun t x0 ht => Frame.upd ht hfw rfl rfl ⟨rfl, rfl, rfl⟩
  unfold fabricRetry
  repeat' (first
    | with_reducible assumption
    | with_reducible apply State.bump_fr
    | with_reducible apply State.hungNow_fr
    | with_reducible apply State.inject_fr
    | (with_reducible refine Frame.ite ?_ ?_)
    | ((with_reducible apply Sub.within hfw); exact rfl)
    | ((with_reducible apply Sub.within hfb); exact rfl)
    | ((with_reducible apply Mixed.of); exact rfl)
    | (apply hfb.bit (i := 9) rfl)
    | (extract_lets)
    | (fail_if_no_progress (with_reducible refine k0 _ _ ?_))
    | split
    | (intro _ _ _)
    | (intro _ e; have _hk : Frame _ _ _ _ := e)
    | (intro _ e; cases e)
    | dsimp only
    | (dsimp +zetaDelta only)
    | (fail_if_no_progress ((with_reducible refine Frame.upd ?_ hfw ?_ rfl ⟨rfl, rfl, rfl⟩); rotate_left; exact rfl)))

theorem execFabricRetry_fr {fw fb : Nat} {s0 : State} (req : Nat) (s : State) (hK : Frame fw fb s0 s) (hfw : Sub 536870912 fw := by exact Sub.within hfw rfl) (hfb : Sub 512 fb := by exact Sub.within hfb rfl) : ∀ u, execFabricRetry req s = .next u → Frame fw fb s0 u := by
  unfold execFabricRetry
  repeat' (first
    | with_reducible assumption
    | with_reducible apply fabricRetry_fr
    | (with_reducible refine Frame.ite ?_ ?_)
    | ((with_reducible apply Sub.within hfw); exact rfl)
    | ((with_reducible apply Sub.within hfb); exact rfl)
    | ((with_reducible apply Mixed.of); exact rfl)
    | (apply hfb.bit (i := 9) rfl)
    | (extract_lets)
    | split
    | (intro _ _ _)
    | (intro _ e; have _hk : Frame _ _ _ _ := e)
    | (intro _ e; cases e)
    | dsimp only
    | (dsimp +zetaDelta only))

theorem timeSend_fr {fw fb : Nat} {s0 : State} (s : State) (hK : Frame fw fb s0 s) (hfw : Sub 536870928 fw := by exact Sub.within hfw rfl) : Frame fw fb s0 (timeSend s) := by
  unfold timeSend
  split
  · exact hK
  · extract_lets p t
    have ht : Frame fw fb s0 t := Frame.foldl (fun t q ht => State.ctlSend_fr _ _ _ ht) hK
    clear_value t
    exact Frame.upd ht hfw rfl rfl ⟨rfl, rfl, rfl⟩

theorem execTimeSend_fr {fw fb : Nat} {s0 : State} (s : State) (hK : Frame fw fb s0 s) (hfw : Sub 536870928 fw := by exact Sub.within hfw rfl) : ∀ u, execTimeSend s = .next u → Frame fw fb s0 u := by
  unfold execTimeSend
  repeat' (first
    | with_reducible assumption
    | with_reducible apply timeSend_fr
    | (with_reducible refine Frame.ite ?_ ?_)
    | ((with_reducible apply Sub.within hfw); exact rfl)
    | ((with_reducible apply Sub.within hfb); exact rfl)
    | ((with_reducible apply Mixed.of); exact rfl)
    | (extract_lets)
    | split
    | (intro _ _ _)
    | (intro _ e; have _hk : Frame _ _ _ _ := e)
    | (intro _ e; cases e)
    | dsimp only
    | (dsimp +zetaDelta only))

theorem timeReceive_fr {fw fb : Nat} {s0 : State} (i : Nat) (s : State) (hK : Frame fw fb s0 s) (hfw : Sub 36893488147955974144 fw := by exact Sub.within hfw rfl) (hfb : Sub 512 fb := by exact Sub.within hfb rfl) : Frame fw fb s0 (timeReceive i s) := by
  have k0 : ∀ (t : State) x0, Frame fw fb s0 t → Frame fw fb s0 { t with mgmt := x0 } := fun t x0 ht => Frame.upd ht hfw rfl rfl ⟨rfl, rfl, rfl⟩
  have k1 : ∀ (t : State) x0, Frame fw fb s0 t → Frame fw fb s0 { t with fabric := x0 } := fun t x0 ht => Frame.upd ht hfw rfl rfl ⟨rfl, rfl, rfl⟩
  unfold timeReceive
  repeat' (first
    | with_reducible assumption
    | with_reducible apply State.inboxDrop_fr
    | with_reducible apply State.wr_fr
    | (with_reducible refine Frame.getD ?_ ?_)
    | (with_reducible refine Frame.ite ?_ ?_)
    | ((with_reducible apply Sub.within hfw); exact rfl)
    | ((with_reducible apply Sub.within hfb); exact rfl)
    | ((with_reducible apply Mixed.of); exact rfl)
    | (apply hfb.bit (i := 9) rfl)
    | (dsimp only [State.wrs, State.regs0, List.foldl])
    | (extract_lets)
    | (fail_if_no_progress (with_reducible refine k0 _ _ ?_))
    | (fail_if_no_progress (with_reducible refine k1 _ _ ?_))
    | split
    | (intro _ _ _)
    | (intro _ e; have _hk : Frame _ _ _ _ := e)
    | (intro _ e; cases e)
    | dsimp only
    | (dsimp +zetaDelta only)
    | (fail_if_no_progress ((with_reducible refine Frame.upd ?_ hfw ?_ rfl ⟨rfl, rfl, rfl⟩); rotate_left; exact rfl)))

theorem execTimeReceive_fr {fw fb : Nat} {s0 : State} (packet : Nat) (s : State) (hK : Frame fw fb s0 s) (hfw : Sub 36893488147955974144 fw := by exact Sub.within hfw rfl) (hfb : Sub 512 fb := by exact Sub.within hfb rfl) : ∀ u, execTimeReceive packet s = .next u → Frame fw fb s0 u := by
  unfold execTimeReceive
  repeat' (first
    | with_reducible assumption
    | with_reducible apply timeReceive_fr
    | (with_reducible refine Frame.ite ?_ ?_)
    | ((with_reducible apply Sub.within hfw); exact rfl)
    | ((with_reducible apply Sub.within hfb); exact rfl)
    | ((with_reducible apply Mixed.of); exact rfl)
    | (apply hfb.bit (i := 9) rfl)
    | (extract_lets)
    | split
    | (intro _ _ _)
    | (intro _ e; have _hk : Frame _ _ _ _ := e)
    | (intro _ e; cases e)
    | dsimp only
    | (dsimp +zetaDelta only))

theorem State.nbRegs_fr {fw fb : Nat} {s0 : State} (s : State) (p : Nat) (b : List Nat) (hK : Frame fw fb s0 s) (hfb : Sub 1536 fb := by exact Sub.within hfb rfl) : Frame fw fb s0 (State.nbRegs s p b) := by
  unfold State.nbRegs
  repeat' (first
    | with_reducible assumption
    | with_reducible apply State.wr_fr
    | (with_reducible refine Frame.getD ?_ ?_)
    | (with_reducible refine Frame.ite ?_ ?_)
    | ((with_reducible apply Sub.within hfw); exact rfl)
    | ((with_reducible apply Sub.within hfb); exact rfl)
    | ((with_reducible apply Mixed.of); exact rfl)
    | (apply hfb.bit (i := 9) rfl)
    | (apply hfb.bit (i := 10) rfl)
    | (dsimp only [State.wrs, State.regs0, List.foldl])
    | (extract_lets)
    | split
    | (intro _ _ _)
    | (intro _ e; have _hk : Frame _ _ _ _ := e)
    | (intro _ e; cases e)
    | dsimp only
    | (dsimp +zetaDelta only))

theorem State.partnerSwapped_fr {fw fb : Nat} {s0 : State} (s : State) (p : Nat) (hK : Frame fw fb s0 s) (hfw : Sub 1073741824 fw := by exact Sub.within hfw rfl) : Frame fw fb s0 (State.partnerSwapped s p) := by
  have k0 : ∀ (t : State) x0, Frame fw fb s0 t → Frame fw fb s0 { t with topo := x0 } := fun t x0 ht => Frame.upd ht hfw rfl rfl ⟨rfl, rfl, rfl⟩
  unfold State.partnerSwapped
  repeat' (first
    | with_reducible assumption
    | (with_reducible refine Frame.ite ?_ ?_)
    | ((with_reducible apply Sub.within hfw); exact rfl)
    | ((with_reducible apply Sub.within hfb); exact rfl)
    | ((with_reducible apply Mixed.of); exact rfl)
    | (extract_lets)
    | (fail_if_no_progress (with_reducible refine k0 _ _ ?_))
    | split
    | (intro _ _ _)
    | (intro _ e; have _hk : Frame _ _ _ _ := e)
    | (intro _ e; cases e)
    | dsimp only
    | (dsimp +zetaDelta only)
    | (fail_if_no_progress ((with_reducible refine Frame.upd ?_ hfw ?_ rfl ⟨rfl, rfl, rfl⟩); rotate_left; exact rfl)))

theorem helloReceive_fr {fw fb : Nat} {s0 : State} (i : Nat) (s : State) (hK : Frame fw fb s0 s) (hfw : Sub 1610612944 fw := by exact Sub.within hfw rfl) (hfb : Sub 132608 fb := by exact Sub.within hfb rfl) : Frame fw fb s0 (helloReceive i s) := by
  have k0 : ∀ (t : State) x0, Frame fw fb s0 t → Frame fw fb s0 { t with topo := x0 } := fun t x0 ht => Frame.upd ht hfw rfl rfl ⟨rfl, rfl, rfl⟩
  unfold helloReceive
  repeat' (first
    | with_reducible assumption
    | with_reducible apply State.inboxDrop_fr
    | with_reducible apply State.nbRegs_fr
    | with_reducible apply State.nbState_fr
    | with_reducible apply State.partnerSwapped_fr
    | with_reducible apply State.setNeighbour_fr
    | (with_reducible refine Frame.getD ?_ ?_)
    | (with_reducible refine Frame.ite ?_ ?_)
    | ((with_reducible apply Sub.within hfw); exact rfl)
    | ((with_reducible apply Sub.within hfb); exact rfl)
    | ((with_reducible apply Mixed.of); exact rfl)
    | (apply hfb.bit (i := 9) rfl)
    | (apply hfb.bit (i := 10) rfl)
    | (apply hfb.bit (i := 17) rfl)
    | (extract_lets)
    | (fail_if_no_progress (with_reducible refine k0 _ _ ?_))
    | split
    | (intro _ _ _)
    | (intro _ e; have _hk : Frame _ _ _ _ := e)
    | (intro _ e; cases e)
    | dsimp only
    | (dsimp +zetaDelta only)
    | (fail_if_no_progress ((with_reducible refine Frame.upd ?_ hfw ?_ rfl ⟨rfl, rfl, rfl⟩); rotate_left; exact rfl)))

theorem execHelloReceive_fr {fw fb : Nat} {s0 : State} (packet : Nat) (s : State) (hK : Frame fw fb s0 s) (hfw : Sub 1610612944 fw := by exact Sub.within hfw rfl) (hfb : Sub 132608 fb := by exact Sub.within hfb rfl) : ∀ u, execHelloReceive packet s = .next u → Frame fw fb s0 u := by
  unfold execHelloReceive
  repeat' (first
    | with_reducible assumption
    | with_reducible apply helloReceive_fr
    | (with_reducible refine Frame.ite ?_ ?_)
    | ((with_reducible apply Sub.within hfw); exact rfl)
    | ((with_reducible apply Sub.within hfb); exact rfl)
    | ((with_reducible apply Mixed.of); exact rfl)
    | (apply hfb.bit (i := 9) rfl)
    | (apply hfb.bit (i := 10) rfl)
    | (apply hfb.bit (i := 17) rfl)
    | (extract_lets)
    | split
    | (intro _ _ _)
    | (intro _ e; have _hk : Frame _ _ _ _ := e)
    | (intro _ e; cases e)
    | dsimp only
    | (dsimp +zetaDelta only))

theorem neighbourSilent_fr {fw fb : Nat} {s0 : State} (p : Nat) (s : State) (hK : Frame fw fb s0 s) (hfw : Sub 208 fw := by exact Sub.within hfw rfl) (hfb : Sub 132096 fb := by exact Sub.within hfb rfl) : Frame fw fb s0 (neighbourSilent p s) := by
  unfold neighbourSilent
  repeat' (first
    | with_reducible assumption
    | with_reducible apply State.nbState_fr
    | (with_reducible refine Frame.ite ?_ ?_)
    | ((with_reducible apply Sub.within hfw); exact rfl)
    | ((with_reducible apply Sub.within hfb); exact rfl)
    | ((with_reducible apply Mixed.of); exact rfl)
    | (apply hfb.bit (i := 10) rfl)
    | (apply hfb.bit (i := 17) rfl)
    | (extract_lets)
    | split
    | (intro _ _ _)
    | (intro _ e; have _hk : Frame _ _ _ _ := e)
    | (intro _ e; cases e)
    | dsimp only
    | (dsimp +zetaDelta only))

theorem execNeighbourSilent_fr {fw fb : Nat} {s0 : State} (port : Nat) (s : State) (hK : Frame fw fb s0 s) (hfw : Sub 208 fw := by exact Sub.within hfw rfl) (hfb : Sub 132096 fb := by exact Sub.within hfb rfl) : ∀ u, execNeighbourSilent port s = .next u → Frame fw fb s0 u := by
  unfold execNeighbourSilent
  repeat' (first
    | with_reducible assumption
    | with_reducible apply neighbourSilent_fr
    | (with_reducible refine Frame.ite ?_ ?_)
    | ((with_reducible apply Sub.within hfw); exact rfl)
    | ((with_reducible apply Sub.within hfb); exact rfl)
    | ((with_reducible apply Mixed.of); exact rfl)
    | (apply hfb.bit (i := 10) rfl)
    | (apply hfb.bit (i := 17) rfl)
    | (extract_lets)
    | split
    | (intro _ _ _)
    | (intro _ e; have _hk : Frame _ _ _ _ := e)
    | (intro _ e; cases e)
    | dsimp only
    | (dsimp +zetaDelta only))

theorem invalidate_fr {fw fb : Nat} {s0 : State} (s : State) (c : Cmd) (hK : Frame fw fb s0 s) (hfw : Sub 536873472 fw := by exact Sub.within hfw rfl) (hfb : Sub 512 fb := by exact Sub.within hfb rfl) : Frame fw fb s0 (invalidate s c) := by
  have k0 : ∀ (t : State) x0, Frame fw fb s0 t → Frame fw fb s0 { t with fabric := x0 } := fun t x0 ht => Frame.upd ht hfw rfl rfl ⟨rfl, rfl, rfl⟩
  unfold invalidate
  repeat' (first
    | with_reducible assumption
    | with_reducible apply State.doneWith_fr
    | with_reducible apply State.farDrop_fr
    | (with_reducible refine Frame.ite ?_ ?_)
    | ((with_reducible apply Sub.within hfw); exact rfl)
    | ((with_reducible apply Sub.within hfb); exact rfl)
    | ((with_reducible apply Mixed.of); exact rfl)
    | (apply hfb.bit (i := 9) rfl)
    | (extract_lets)
    | (fail_if_no_progress (with_reducible refine k0 _ _ ?_))
    | split
    | (intro _ _ _)
    | (intro _ e; have _hk : Frame _ _ _ _ := e)
    | (intro _ e; cases e)
    | dsimp only
    | (dsimp +zetaDelta only)
    | (fail_if_no_progress ((with_reducible refine Frame.upd ?_ hfw ?_ rfl ⟨rfl, rfl, rfl⟩); rotate_left; exact rfl)))

theorem execInvalidate_fr {fw fb : Nat} {s0 : State} (k : Nat) (s : State) (hK : Frame fw fb s0 s) (hfw : Sub 536873472 fw := by exact Sub.within hfw rfl) (hfb : Sub 512 fb := by exact Sub.within hfb rfl) : ∀ u, execInvalidate k s = .next u → Frame fw fb s0 u := by
  unfold execInvalidate
  repeat' (first
    | with_reducible assumption
    | with_reducible apply State.runCmd_fr
    | with_reducible apply invalidate_fr
    | (with_reducible refine Frame.ite ?_ ?_)
    | ((with_reducible apply Sub.within hfw); exact rfl)
    | ((with_reducible apply Sub.within hfb); exact rfl)
    | ((with_reducible apply Mixed.of); exact rfl)
    | (apply hfb.bit (i := 9) rfl)
    | (extract_lets)
    | split
    | (intro _ _ _)
    | (intro _ e; have _hk : Frame _ _ _ _ := e)
    | (intro _ e; cases e)
    | dsimp only
    | (dsimp +zetaDelta only))

end Sys2Proof.Machine
end

