-- ==== Sys2Proof/Laws/Frame/Movers.lean ====
section
/-! SUPPORT. What the operations of Machine/Movers.lean leave as it was (`Frame`): one lemma each. -/

set_option linter.unreachableTactic false
set_option linter.unusedTactic false

namespace Sys2Proof.Machine

set_option Elab.async false

open Sys2Proof

theorem moverCmd_fr {fw fb : Nat} {s0 : State} (s : State) (c : Cmd) (hK : Frame fw fb s0 s) (hfw : Sub 402653696 fw := by exact Sub.within hfw rfl) (hfb : Sub 32 fb := by exact Sub.within hfb rfl) : Frame fw fb s0 (moverCmd s c) := by
  unfold moverCmd
  repeat' (first
    | with_reducible assumption
    | with_reducible apply State.descAdd_fr
    | with_reducible apply State.start_fr
    | (with_reducible refine Frame.ite ?_ ?_)
    | ((with_reducible apply Sub.within hfw); exact rfl)
    | ((with_reducible apply Sub.within hfb); exact rfl)
    | ((with_reducible apply Mixed.of); exact rfl)
    | (apply hfb.bit (i := 5) rfl)
    | (extract_lets)
    | split
    | (intro _ _ _)
    | (intro _ e; have _hk : Frame _ _ _ _ := e)
    | (intro _ e; cases e)
    | dsimp only
    | (dsimp +zetaDelta only))

theorem execCopy_fr {fw fb : Nat} {s0 : State} (k : Nat) (s : State) (hK : Frame fw fb s0 s) (hfw : Sub 402655744 fw := by exact Sub.within hfw rfl) (hfb : Sub 32 fb := by exact Sub.within hfb rfl) : ∀ u, execCopy k s = .next u → Frame fw fb s0 u := by
  unfold execCopy
  repeat' (first
    | with_reducible assumption
    | with_reducible apply State.runCmd_fr
    | with_reducible apply moverCmd_fr
    | (with_reducible refine Frame.ite ?_ ?_)
    | ((with_reducible apply Sub.within hfw); exact rfl)
    | ((with_reducible apply Sub.within hfb); exact rfl)
    | ((with_reducible apply Mixed.of); exact rfl)
    | (apply hfb.bit (i := 5) rfl)
    | (extract_lets)
    | split
    | (intro _ _ _)
    | (intro _ e; have _hk : Frame _ _ _ _ := e)
    | (intro _ e; cases e)
    | dsimp only
    | (dsimp +zetaDelta only))

theorem execFill_fr {fw fb : Nat} {s0 : State} (k : Nat) (s : State) (hK : Frame fw fb s0 s) (hfw : Sub 402655744 fw := by exact Sub.within hfw rfl) (hfb : Sub 32 fb := by exact Sub.within hfb rfl) : ∀ u, execFill k s = .next u → Frame fw fb s0 u := by
  unfold execFill
  repeat' (first
    | with_reducible assumption
    | with_reducible apply State.runCmd_fr
    | with_reducible apply moverCmd_fr
    | (with_reducible refine Frame.ite ?_ ?_)
    | ((with_reducible apply Sub.within hfw); exact rfl)
    | ((with_reducible apply Sub.within hfb); exact rfl)
    | ((with_reducible apply Mixed.of); exact rfl)
    | (apply hfb.bit (i := 5) rfl)
    | (extract_lets)
    | split
    | (intro _ _ _)
    | (intro _ e; have _hk : Frame _ _ _ _ := e)
    | (intro _ e; cases e)
    | dsimp only
    | (dsimp +zetaDelta only))

theorem execGather_fr {fw fb : Nat} {s0 : State} (k : Nat) (s : State) (hK : Frame fw fb s0 s) (hfw : Sub 402655744 fw := by exact Sub.within hfw rfl) (hfb : Sub 32 fb := by exact Sub.within hfb rfl) : ∀ u, execGather k s = .next u → Frame fw fb s0 u := by
  unfold execGather
  repeat' (first
    | with_reducible assumption
    | with_reducible apply State.runCmd_fr
    | with_reducible apply moverCmd_fr
    | (with_reducible refine Frame.ite ?_ ?_)
    | ((with_reducible apply Sub.within hfw); exact rfl)
    | ((with_reducible apply Sub.within hfb); exact rfl)
    | ((with_reducible apply Mixed.of); exact rfl)
    | (apply hfb.bit (i := 5) rfl)
    | (extract_lets)
    | split
    | (intro _ _ _)
    | (intro _ e; have _hk : Frame _ _ _ _ := e)
    | (intro _ e; cases e)
    | dsimp only
    | (dsimp +zetaDelta only))

theorem execScatter_fr {fw fb : Nat} {s0 : State} (k : Nat) (s : State) (hK : Frame fw fb s0 s) (hfw : Sub 402655744 fw := by exact Sub.within hfw rfl) (hfb : Sub 32 fb := by exact Sub.within hfb rfl) : ∀ u, execScatter k s = .next u → Frame fw fb s0 u := by
  unfold execScatter
  repeat' (first
    | with_reducible assumption
    | with_reducible apply State.runCmd_fr
    | with_reducible apply moverCmd_fr
    | (with_reducible refine Frame.ite ?_ ?_)
    | ((with_reducible apply Sub.within hfw); exact rfl)
    | ((with_reducible apply Sub.within hfb); exact rfl)
    | ((with_reducible apply Mixed.of); exact rfl)
    | (apply hfb.bit (i := 5) rfl)
    | (extract_lets)
    | split
    | (intro _ _ _)
    | (intro _ e; have _hk : Frame _ _ _ _ := e)
    | (intro _ e; cases e)
    | dsimp only
    | (dsimp +zetaDelta only))

theorem execReduce_fr {fw fb : Nat} {s0 : State} (k : Nat) (s : State) (hK : Frame fw fb s0 s) (hfw : Sub 402655744 fw := by exact Sub.within hfw rfl) (hfb : Sub 32 fb := by exact Sub.within hfb rfl) : ∀ u, execReduce k s = .next u → Frame fw fb s0 u := by
  unfold execReduce
  repeat' (first
    | with_reducible assumption
    | with_reducible apply State.runCmd_fr
    | with_reducible apply moverCmd_fr
    | (with_reducible refine Frame.ite ?_ ?_)
    | ((with_reducible apply Sub.within hfw); exact rfl)
    | ((with_reducible apply Sub.within hfb); exact rfl)
    | ((with_reducible apply Mixed.of); exact rfl)
    | (apply hfb.bit (i := 5) rfl)
    | (extract_lets)
    | split
    | (intro _ _ _)
    | (intro _ e; have _hk : Frame _ _ _ _ := e)
    | (intro _ e; cases e)
    | dsimp only
    | (dsimp +zetaDelta only))

theorem execAlltoall_fr {fw fb : Nat} {s0 : State} (k : Nat) (s : State) (hK : Frame fw fb s0 s) (hfw : Sub 402655744 fw := by exact Sub.within hfw rfl) (hfb : Sub 32 fb := by exact Sub.within hfb rfl) : ∀ u, execAlltoall k s = .next u → Frame fw fb s0 u := by
  unfold execAlltoall
  repeat' (first
    | with_reducible assumption
    | with_reducible apply State.runCmd_fr
    | with_reducible apply moverCmd_fr
    | (with_reducible refine Frame.ite ?_ ?_)
    | ((with_reducible apply Sub.within hfw); exact rfl)
    | ((with_reducible apply Sub.within hfb); exact rfl)
    | ((with_reducible apply Mixed.of); exact rfl)
    | (apply hfb.bit (i := 5) rfl)
    | (extract_lets)
    | split
    | (intro _ _ _)
    | (intro _ e; have _hk : Frame _ _ _ _ := e)
    | (intro _ e; cases e)
    | dsimp only
    | (dsimp +zetaDelta only))

theorem State.dropFor_fr {fw fb : Nat} {s0 : State} (s : State) (w : Parked) (hK : Frame fw fb s0 s) (hfw : Sub 536870912 fw := by exact Sub.within hfw rfl) : Frame fw fb s0 (State.dropFor s w) := by
  have k0 : ∀ (t : State) x0, Frame fw fb s0 t → Frame fw fb s0 { t with fabric := x0 } := fun t x0 ht => Frame.upd ht hfw rfl rfl ⟨rfl, rfl, rfl⟩
  unfold State.dropFor
  repeat' (first
    | with_reducible assumption
    | (with_reducible refine Frame.ite ?_ ?_)
    | ((with_reducible apply Sub.within hfw); exact rfl)
    | ((with_reducible apply Sub.within hfb); exact rfl)
    | ((with_reducible apply Mixed.of); exact rfl)
    | (extract_lets)
    | (fail_if_no_progress (with_reducible refine k0 _ _ ?_))
    | split
    | (intro _ _ _)
    | (intro _ e; have _hk : Frame _ _ _ _ := e)
    | (intro _ e; cases e)
    | dsimp only
    | (dsimp +zetaDelta only)
    | (fail_if_no_progress ((with_reducible refine Frame.upd ?_ hfw ?_ rfl ⟨rfl, rfl, rfl⟩); rotate_left; exact rfl)))

theorem State.reqStop_fr {fw fb : Nat} {s0 : State} (s : State) (d : Desc) (no : Nat) (hK : Frame fw fb s0 s) (hfw : Sub 134217728 fw := by exact Sub.within hfw rfl) (hfb : Sub 32 fb := by exact Sub.within hfb rfl) : Frame fw fb s0 (State.reqStop s d no) := by
  unfold State.reqStop
  repeat' (first
    | with_reducible assumption
    | with_reducible apply State.bump_fr
    | with_reducible apply State.descMap_fr
    | (with_reducible refine Frame.ite ?_ ?_)
    | ((with_reducible apply Sub.within hfw); exact rfl)
    | ((with_reducible apply Sub.within hfb); exact rfl)
    | ((with_reducible apply Mixed.of); exact rfl)
    | (apply hfb.bit (i := 5) rfl)
    | (extract_lets)
    | split
    | (intro _ _ _)
    | (intro _ e; have _hk : Frame _ _ _ _ := e)
    | (intro _ e; cases e)
    | dsimp only
    | (dsimp +zetaDelta only))

theorem State.replayed_fr {fw fb : Nat} {s0 : State} (s : State) (d : Desc) (no : Nat) (hK : Frame fw fb s0 s) (hfb : Sub 32 fb := by exact Sub.within hfb rfl) : Frame fw fb s0 (State.replayed s d no) := by
  unfold State.replayed
  repeat' (first
    | with_reducible assumption
    | with_reducible apply State.bump_fr
    | (with_reducible refine Frame.ite ?_ ?_)
    | ((with_reducible apply Sub.within hfw); exact rfl)
    | ((with_reducible apply Sub.within hfb); exact rfl)
    | ((with_reducible apply Mixed.of); exact rfl)
    | (apply hfb.bit (i := 5) rfl)
    | (extract_lets)
    | split
    | (intro _ _ _)
    | (intro _ e; have _hk : Frame _ _ _ _ := e)
    | (intro _ e; cases e)
    | dsimp only
    | (dsimp +zetaDelta only))

theorem State.descFails_fr {fw fb : Nat} {s0 : State} (s : State) (d : Desc) (st det : Nat) (hK : Frame fw fb s0 s) (hfw : Sub 134217728 fw := by exact Sub.within hfw rfl) (hfb : Sub 32 fb := by exact Sub.within hfb rfl) : Frame fw fb s0 (State.descFails s d st det) := by
  unfold State.descFails
  repeat' (first
    | with_reducible assumption
    | with_reducible apply State.descMap_fr
    | with_reducible apply State.moverRegs_fr
    | (with_reducible refine Frame.ite ?_ ?_)
    | ((with_reducible apply Sub.within hfw); exact rfl)
    | ((with_reducible apply Sub.within hfb); exact rfl)
    | ((with_reducible apply Mixed.of); exact rfl)
    | (apply hfb.bit (i := 5) rfl)
    | (extract_lets)
    | split
    | (intro _ _ _)
    | (intro _ e; have _hk : Frame _ _ _ _ := e)
    | (intro _ e; cases e)
    | dsimp only
    | (dsimp +zetaDelta only))

theorem State.tableRead_fr {fw fb : Nat} {s0 : State} (s : State) (d : Desc) (hK : Frame fw fb s0 s) (hfw : Sub 2361183241435613233154 fw := by exact Sub.within hfw rfl) (hfb : Sub 556 fb := by exact Sub.within hfb rfl) : Frame fw fb s0 (State.tableRead s d) := by
  unfold State.tableRead
  repeat' (first
    | with_reducible assumption
    | with_reducible apply State.bump_fr
    | with_reducible apply State.descFails_fr
    | with_reducible apply State.descMap_fr
    | with_reducible apply State.dropFor_fr
    | with_reducible apply State.fetch_fr
    | (with_reducible apply State.fetch_fr_bytes; with_reducible assumption)
    | (with_reducible apply State.fetch_fr_stop; with_reducible assumption)
    | (with_reducible apply State.fetch_fr_bad; with_reducible assumption)
    | with_reducible apply State.moverRegs_fr
    | with_reducible apply State.replayed_fr
    | with_reducible apply State.reqStop_fr
    | (with_reducible refine Frame.ite ?_ ?_)
    | ((with_reducible apply Sub.within hfw); exact rfl)
    | ((with_reducible apply Sub.within hfb); exact rfl)
    | ((with_reducible apply Mixed.of); exact rfl)
    | (apply hfb.bit (i := 2) rfl)
    | (apply hfb.bit (i := 3) rfl)
    | (apply hfb.bit (i := 5) rfl)
    | (apply hfb.bit (i := 9) rfl)
    | (extract_lets)
    | split
    | (intro _ _ _)
    | (intro _ e; have _hk : Frame _ _ _ _ := e)
    | (intro _ e; cases e)
    | dsimp only
    | (dsimp +zetaDelta only))

theorem descIssue_fr {fw fb : Nat} {s0 : State} (m q : Nat) (s : State) (hK : Frame fw fb s0 s) (hfw : Sub 2361183241435613233154 fw := by exact Sub.within hfw rfl) (hfb : Sub 556 fb := by exact Sub.within hfb rfl) : Frame fw fb s0 (descIssue m q s) := by
  unfold descIssue
  repeat' (first
    | with_reducible assumption
    | with_reducible apply State.descFails_fr
    | with_reducible apply State.descMap_fr
    | with_reducible apply State.moverRegs_fr
    | with_reducible apply State.tableRead_fr
    | (with_reducible refine Frame.ite ?_ ?_)
    | ((with_reducible apply Sub.within hfw); exact rfl)
    | ((with_reducible apply Sub.within hfb); exact rfl)
    | ((with_reducible apply Mixed.of); exact rfl)
    | (apply hfb.bit (i := 2) rfl)
    | (apply hfb.bit (i := 3) rfl)
    | (apply hfb.bit (i := 5) rfl)
    | (apply hfb.bit (i := 9) rfl)
    | (extract_lets)
    | split
    | (intro _ _ _)
    | (intro _ e; have _hk : Frame _ _ _ _ := e)
    | (intro _ e; cases e)
    | dsimp only
    | (dsimp +zetaDelta only))

theorem execDescriptorIssue_fr {fw fb : Nat} {s0 : State} (mover queue : Nat) (s : State) (hK : Frame fw fb s0 s) (hfw : Sub 2361183241435613233154 fw := by exact Sub.within hfw rfl) (hfb : Sub 556 fb := by exact Sub.within hfb rfl) : ∀ u, execDescriptorIssue mover queue s = .next u → Frame fw fb s0 u := by
  unfold execDescriptorIssue
  repeat' (first
    | with_reducible assumption
    | with_reducible apply descIssue_fr
    | (with_reducible refine Frame.ite ?_ ?_)
    | ((with_reducible apply Sub.within hfw); exact rfl)
    | ((with_reducible apply Sub.within hfb); exact rfl)
    | ((with_reducible apply Mixed.of); exact rfl)
    | (apply hfb.bit (i := 2) rfl)
    | (apply hfb.bit (i := 3) rfl)
    | (apply hfb.bit (i := 5) rfl)
    | (apply hfb.bit (i := 9) rfl)
    | (extract_lets)
    | split
    | (intro _ _ _)
    | (intro _ e; have _hk : Frame _ _ _ _ := e)
    | (intro _ e; cases e)
    | dsimp only
    | (dsimp +zetaDelta only))

theorem State.reqBytes_fr {fw fb : Nat} {s0 : State} (s : State) (d : Desc) (no tier : Nat) (r : Req) (hK : Frame fw fb s0 s) (hfw : Sub 671088640 fw := by exact Sub.within hfw rfl) (hfb : Sub 32 fb := by exact Sub.within hfb rfl) : Frame fw fb s0 (State.reqBytes s d no tier r) := by
  unfold State.reqBytes
  repeat' (first
    | with_reducible assumption
    | with_reducible apply State.bump_fr
    | with_reducible apply State.descMap_fr
    | with_reducible apply State.dropFor_fr
    | (with_reducible refine Frame.getD ?_ ?_)
    | (with_reducible refine Frame.ite ?_ ?_)
    | ((with_reducible apply Sub.within hfw); exact rfl)
    | ((with_reducible apply Sub.within hfb); exact rfl)
    | ((with_reducible apply Mixed.of); exact rfl)
    | (apply hfb.bit (i := 5) rfl)
    | (extract_lets)
    | split
    | (intro _ _ _)
    | (intro _ e; have _hk : Frame _ _ _ _ := e)
    | (intro _ e; cases e)
    | dsimp only
    | (dsimp +zetaDelta only))

theorem State.bufferPut_fr {fw fb : Nat} {s0 : State} (s : State) (d : Desc) (no : Nat) (l : List Nat) (hK : Frame fw fb s0 s) (hfw : Sub 140737488355328 fw := by exact Sub.within hfw rfl) : Frame fw fb s0 (State.bufferPut s d no l) := by
  unfold State.bufferPut
  repeat' (first
    | with_reducible assumption
    | with_reducible apply State.launchMap_fr
    | (with_reducible refine Frame.ite ?_ ?_)
    | ((with_reducible apply Sub.within hfw); exact rfl)
    | ((with_reducible apply Sub.within hfb); exact rfl)
    | ((with_reducible apply Mixed.of); exact rfl)
    | (extract_lets)
    | split
    | (intro _ _ _)
    | (intro _ e; have _hk : Frame _ _ _ _ := e)
    | (intro _ e; cases e)
    | dsimp only
    | (dsimp +zetaDelta only))

theorem State.reqDone_fr {fw fb : Nat} {s0 : State} (s : State) (d : Desc) (no : Nat) (r : Req) (hK : Frame fw fb s0 s) (hfw : Sub 671088640 fw := by exact Sub.within hfw rfl) (hfb : Sub 32 fb := by exact Sub.within hfb rfl) : Frame fw fb s0 (State.reqDone s d no r) := by
  unfold State.reqDone
  repeat' (first
    | with_reducible assumption
    | with_reducible apply State.reqBytes_fr
    | (with_reducible refine Frame.ite ?_ ?_)
    | ((with_reducible apply Sub.within hfw); exact rfl)
    | ((with_reducible apply Sub.within hfb); exact rfl)
    | ((with_reducible apply Mixed.of); exact rfl)
    | (apply hfb.bit (i := 5) rfl)
    | (extract_lets)
    | split
    | (intro _ _ _)
    | (intro _ e; have _hk : Frame _ _ _ _ := e)
    | (intro _ e; cases e)
    | dsimp only
    | (dsimp +zetaDelta only))

theorem State.reqBad_fr {fw fb : Nat} {s0 : State} (s : State) (d : Desc) (no det : Nat) (hK : Frame fw fb s0 s) (hfw : Sub 134217728 fw := by exact Sub.within hfw rfl) : Frame fw fb s0 (State.reqBad s d no det) := by
  unfold State.reqBad
  repeat' (first
    | with_reducible assumption
    | with_reducible apply State.descMap_fr
    | (with_reducible refine Frame.ite ?_ ?_)
    | ((with_reducible apply Sub.within hfw); exact rfl)
    | ((with_reducible apply Sub.within hfb); exact rfl)
    | ((with_reducible apply Mixed.of); exact rfl)
    | (extract_lets)
    | split
    | (intro _ _ _)
    | (intro _ e; have _hk : Frame _ _ _ _ := e)
    | (intro _ e; cases e)
    | dsimp only
    | (dsimp +zetaDelta only))

theorem State.reduceBlocks_fr {fw fb : Nat} {s0 : State} (s : State) (d : Desc) (no va : Nat) (data : List Nat) (hK : Frame fw fb s0 s) (hfw : Sub 536870920 fw := by exact Sub.within hfw rfl) (hfb : Sub 512 fb := by exact Sub.within hfb rfl) : Frame fw fb s0 (State.reduceBlocks s d no va data) := by
  unfold State.reduceBlocks
  repeat' (first
    | with_reducible assumption
    | with_reducible apply State.remoteAtomic_fr
    | with_reducible apply State.storeBytes_fr
    | (with_reducible refine Frame.foldl ?_ ?_)
    | (with_reducible refine Frame.foldr ?_ ?_)
    | (with_reducible refine Frame.ite ?_ ?_)
    | ((with_reducible apply Sub.within hfw); exact rfl)
    | ((with_reducible apply Sub.within hfb); exact rfl)
    | ((with_reducible apply Mixed.of); exact rfl)
    | (apply hfb.bit (i := 9) rfl)
    | (extract_lets)
    | split
    | (intro _ _ _)
    | (intro _ e; have _hk : Frame _ _ _ _ := e)
    | (intro _ e; cases e)
    | dsimp only
    | (dsimp +zetaDelta only))

theorem State.reqWrite_fr {fw fb : Nat} {s0 : State} (s : State) (d : Desc) (no : Nat) (r : Req) (l : List Nat) (hK : Frame fw fb s0 s) (hfw : Sub 2361183241435613233370 fw := by exact Sub.within hfw rfl) (hfb : Sub 131644 fb := by exact Sub.within hfb rfl) : Frame fw fb s0 (State.reqWrite s d no r l) := by
  have k0 : ∀ (t : State) x0, Frame fw fb s0 t → Frame fw fb s0 { t with freeCtr := x0 } := fun t x0 ht => Frame.upd ht hfw rfl rfl ⟨rfl, rfl, rfl⟩
  unfold State.reqWrite
  extract_lets o data t u
  have ht : Frame fw fb s0 t := Frame.ite hK (k0 _ _ hK)
  have hu : Frame fw fb s0 u := Frame.ite (State.convertErrors_fr _ _ _ _ ht) ht
  have hc := checkChunks_fr o d.ctx true (chunksOf r.write r.bytes) (.ok u) hu
  have hp := State.put_fr u o d.ctx r.write data hu
  split
  · split <;> rename_i e <;> rw [e] at hc
    · exact State.reqBad_fr _ _ _ _ hc
    · exact State.reqStop_fr _ _ _ hc
    · extract_lets v
      have hv : Frame fw fb s0 v := State.reduceBlocks_fr _ _ _ _ _ hc
      exact Frame.ite (State.descMap_fr _ _ _ hv) (State.reqDone_fr _ _ _ _ hv)
  · split <;> rename_i e <;> rw [e] at hp
    · exact State.reqBad_fr _ _ _ _ hp
    · exact State.reqStop_fr _ _ _ hp
    · exact Frame.ite (State.descMap_fr _ _ _ hp) (State.reqDone_fr _ _ _ _ hp)

theorem State.reqAdd_fr {fw fb : Nat} {s0 : State} (s : State) (d : Desc) (no : Nat) (r : Req) (hK : Frame fw fb s0 s) (hfw : Sub 2361183241504315932680 fw := by exact Sub.within hfw rfl) (hfb : Sub 684 fb := by exact Sub.within hfb rfl) : Frame fw fb s0 (State.reqAdd s d no r) := by
  unfold State.reqAdd
  repeat' (first
    | with_reducible assumption
    | with_reducible apply State.descMap_fr
    | with_reducible apply State.noteArrivals_fr
    | with_reducible apply State.openFault_fr
    | with_reducible apply State.remoteAtomic_fr
    | with_reducible apply State.reqBad_fr
    | with_reducible apply State.reqDone_fr
    | with_reducible apply State.reqStop_fr
    | with_reducible apply State.store_fr
    | (with_reducible refine Frame.ite ?_ ?_)
    | ((with_reducible apply Sub.within hfw); exact rfl)
    | ((with_reducible apply Sub.within hfb); exact rfl)
    | ((with_reducible apply Mixed.of); exact rfl)
    | (apply hfb.bit (i := 2) rfl)
    | (apply hfb.bit (i := 3) rfl)
    | (apply hfb.bit (i := 5) rfl)
    | (apply hfb.bit (i := 7) rfl)
    | (apply hfb.bit (i := 9) rfl)
    | (extract_lets)
    | split
    | (intro _ _ _)
    | (intro _ e; have _hk : Frame _ _ _ _ := e)
    | (intro _ e; cases e)
    | dsimp only
    | (dsimp +zetaDelta only))

theorem State.reqGoOn_fr {fw fb : Nat} {s0 : State} (s : State) (d : Desc) (no idx : Nat) (hK : Frame fw fb s0 s) (hfw : Sub 2361183382241821065434 fw := by exact Sub.within hfw rfl) (hfb : Sub 131772 fb := by exact Sub.within hfb rfl) : Frame fw fb s0 (State.reqGoOn s d no idx) := by
  unfold State.reqGoOn
  extract_lets r o
  have hg : ∀ (t : State) a n, Frame fw fb s0 t → (t.fetch o d.ctx a n).fr fw fb s0 := fun t a n ht => State.fetch_fr t o d.ctx a n ht
  refine Frame.ite (State.reqAdd_fr _ _ _ _ hK) ?_
  refine Frame.ite ?_ (Frame.ite (State.reqBad_fr _ _ _ _ (State.bump_fr _ _ _ (State.dropFor_fr _ _ hK))) (Frame.ite (State.reqBad_fr _ _ _ _ hK) ?_))
  · have h : (if d.issuer = 6 then Got.bytes (nats (memBytes s.mem (devKey (d.src + no)) r.bytes)) s else s.fetch o d.ctx (d.src + no) r.bytes).fr fw fb s0 := by
      split
      · exact hK
      · exact hg _ _ _ hK
    revert h
    generalize (if d.issuer = 6 then _ else State.fetch s _ _ _ _) = g
    intro h
    cases g with
    | bytes l t => exact State.reqBytes_fr _ _ _ _ _ (State.bufferPut_fr _ _ _ _ h)
    | stop t => exact State.reqStop_fr _ _ _ h
    | bad t e => exact State.reqBad_fr _ _ _ _ h
  · have hc := checkChunks_fr o d.ctx (d.op == 4) (chunksOf r.write r.bytes) (.ok s) hK
    split
    · exact State.reqWrite_fr _ _ _ _ _ hK
    · split <;> rename_i e <;> rw [e] at hc
      · exact State.reqBad_fr _ _ _ _ hc
      · exact State.reqStop_fr _ _ _ hc
      · rename_i a n _ _ t
        have hf := hg t a n hc
        revert hf
        generalize State.fetch t _ _ _ _ = g
        intro hf
        cases g with
        | bytes l t => exact State.reqWrite_fr _ _ _ _ _ hf
        | stop t => exact State.reqStop_fr _ _ _ hf
        | bad t e => exact State.reqBad_fr _ _ _ _ hf

theorem State.reqRun_fr {fw fb : Nat} {s0 : State} (s : State) (d : Desc) (no : Nat) (hK : Frame fw fb s0 s) (hfw : Sub 2361183382241821065434 fw := by exact Sub.within hfw rfl) (hfb : Sub 131772 fb := by exact Sub.within hfb rfl) : Frame fw fb s0 (State.reqRun s d no) := by
  unfold State.reqRun
  repeat' (first
    | with_reducible assumption
    | with_reducible apply State.descMap_fr
    | with_reducible apply State.dropFor_fr
    | with_reducible apply State.fetch_fr
    | (with_reducible apply State.fetch_fr_bytes; with_reducible assumption)
    | (with_reducible apply State.fetch_fr_stop; with_reducible assumption)
    | (with_reducible apply State.fetch_fr_bad; with_reducible assumption)
    | with_reducible apply State.reqBad_fr
    | with_reducible apply State.reqGoOn_fr
    | with_reducible apply State.reqStop_fr
    | (with_reducible refine Frame.ite ?_ ?_)
    | ((with_reducible apply Sub.within hfw); exact rfl)
    | ((with_reducible apply Sub.within hfb); exact rfl)
    | ((with_reducible apply Mixed.of); exact rfl)
    | (apply hfb.bit (i := 2) rfl)
    | (apply hfb.bit (i := 3) rfl)
    | (apply hfb.bit (i := 4) rfl)
    | (apply hfb.bit (i := 5) rfl)
    | (apply hfb.bit (i := 7) rfl)
    | (apply hfb.bit (i := 9) rfl)
    | (apply hfb.bit (i := 17) rfl)
    | (extract_lets)
    | split
    | (intro _ _ _)
    | (intro _ e; have _hk : Frame _ _ _ _ := e)
    | (intro _ e; cases e)
    | dsimp only
    | (dsimp +zetaDelta only))

theorem State.moveReq_fr {fw fb : Nat} {s0 : State} (s : State) (d : Desc) (no : Nat) (m : Move) (hK : Frame fw fb s0 s) (hfw : Sub 671088856 fw := by exact Sub.within hfw rfl) (hfb : Sub 131632 fb := by exact Sub.within hfb rfl) : Frame fw fb s0 (State.moveReq s d no m) := by
  unfold State.moveReq
  repeat' (first
    | with_reducible assumption
    | with_reducible apply State.bump_fr
    | with_reducible apply State.convertErrors_fr
    | with_reducible apply State.descMap_fr
    | with_reducible apply State.dropFor_fr
    | with_reducible apply State.farRange_fr
    | (with_reducible apply State.farRange_fr_at; with_reducible assumption)
    | with_reducible apply State.remoteStore_fr
    | with_reducible apply State.reqBad_fr
    | with_reducible apply State.reqBytes_fr
    | with_reducible apply State.storeBytes_fr
    | (with_reducible refine Frame.foldl ?_ ?_)
    | (with_reducible refine Frame.foldr ?_ ?_)
    | (with_reducible refine Frame.ite ?_ ?_)
    | ((with_reducible apply Sub.within hfw); exact rfl)
    | ((with_reducible apply Sub.within hfb); exact rfl)
    | ((with_reducible apply Mixed.of); exact rfl)
    | (apply hfb.bit (i := 4) rfl)
    | (apply hfb.bit (i := 5) rfl)
    | (apply hfb.bit (i := 9) rfl)
    | (apply hfb.bit (i := 17) rfl)
    | (extract_lets)
    | split
    | (intro _ _ _)
    | (intro _ e; have _hk : Frame _ _ _ _ := e)
    | (intro _ e; cases e)
    | dsimp only
    | (dsimp +zetaDelta only))

theorem State.reqStep_fr {fw fb : Nat} {s0 : State} (s : State) (d : Desc) (no : Nat) (hK : Frame fw fb s0 s) (hfw : Sub 2361183382241821065434 fw := by exact Sub.within hfw rfl) (hfb : Sub 131772 fb := by exact Sub.within hfb rfl) : Frame fw fb s0 (State.reqStep s d no) := by
  unfold State.reqStep
  repeat' (first
    | with_reducible assumption
    | with_reducible apply State.moveReq_fr
    | with_reducible apply State.reqRun_fr
    | (with_reducible refine Frame.ite ?_ ?_)
    | ((with_reducible apply Sub.within hfw); exact rfl)
    | ((with_reducible apply Sub.within hfb); exact rfl)
    | ((with_reducible apply Mixed.of); exact rfl)
    | (apply hfb.bit (i := 2) rfl)
    | (apply hfb.bit (i := 3) rfl)
    | (apply hfb.bit (i := 4) rfl)
    | (apply hfb.bit (i := 5) rfl)
    | (apply hfb.bit (i := 7) rfl)
    | (apply hfb.bit (i := 9) rfl)
    | (apply hfb.bit (i := 17) rfl)
    | (extract_lets)
    | split
    | (intro _ _ _)
    | (intro _ e; have _hk : Frame _ _ _ _ := e)
    | (intro _ e; cases e)
    | dsimp only
    | (dsimp +zetaDelta only))

theorem State.liveGo_fr {fw fb : Nat} {s0 : State} (s : State) (d : Desc) (no : Nat) (hK : Frame fw fb s0 s) (hfw : Sub 2361183382241821065434 fw := by exact Sub.within hfw rfl) (hfb : Sub 131772 fb := by exact Sub.within hfb rfl) : Frame fw fb s0 (State.liveGo s d no) := by
  unfold State.liveGo
  repeat' (first
    | with_reducible assumption
    | with_reducible apply State.replayed_fr
    | with_reducible apply State.reqBytes_fr
    | with_reducible apply State.reqDone_fr
    | with_reducible apply State.reqStep_fr
    | (with_reducible refine Frame.getD ?_ ?_)
    | (with_reducible refine Frame.ite ?_ ?_)
    | ((with_reducible apply Sub.within hfw); exact rfl)
    | ((with_reducible apply Sub.within hfb); exact rfl)
    | ((with_reducible apply Mixed.of); exact rfl)
    | (apply hfb.bit (i := 2) rfl)
    | (apply hfb.bit (i := 3) rfl)
    | (apply hfb.bit (i := 4) rfl)
    | (apply hfb.bit (i := 5) rfl)
    | (apply hfb.bit (i := 7) rfl)
    | (apply hfb.bit (i := 9) rfl)
    | (apply hfb.bit (i := 17) rfl)
    | (extract_lets)
    | split
    | (intro _ _ _)
    | (intro _ e; have _hk : Frame _ _ _ _ := e)
    | (intro _ e; cases e)
    | dsimp only
    | (dsimp +zetaDelta only))

theorem State.reqNew_fr {fw fb : Nat} {s0 : State} (s : State) (d : Desc) (hK : Frame fw fb s0 s) (hfw : Sub 2361183382241821065434 fw := by exact Sub.within hfw rfl) (hfb : Sub 131772 fb := by exact Sub.within hfb rfl) : Frame fw fb s0 (State.reqNew s d) := by
  unfold State.reqNew
  repeat' (first
    | with_reducible assumption
    | with_reducible apply State.descMap_fr
    | with_reducible apply State.reqStep_fr
    | (with_reducible refine Frame.getD ?_ ?_)
    | (with_reducible refine Frame.ite ?_ ?_)
    | ((with_reducible apply Sub.within hfw); exact rfl)
    | ((with_reducible apply Sub.within hfb); exact rfl)
    | ((with_reducible apply Mixed.of); exact rfl)
    | (apply hfb.bit (i := 2) rfl)
    | (apply hfb.bit (i := 3) rfl)
    | (apply hfb.bit (i := 4) rfl)
    | (apply hfb.bit (i := 5) rfl)
    | (apply hfb.bit (i := 7) rfl)
    | (apply hfb.bit (i := 9) rfl)
    | (apply hfb.bit (i := 17) rfl)
    | (extract_lets)
    | split
    | (intro _ _ _)
    | (intro _ e; have _hk : Frame _ _ _ _ := e)
    | (intro _ e; cases e)
    | dsimp only
    | (dsimp +zetaDelta only))

theorem moverIssue_fr {fw fb : Nat} {s0 : State} (m : Nat) (s : State) (hK : Frame fw fb s0 s) (hfw : Sub 2361183382241821065434 fw := by exact Sub.within hfw rfl) (hfb : Sub 131772 fb := by exact Sub.within hfb rfl) : Frame fw fb s0 (moverIssue m s) := by
  unfold moverIssue
  repeat' (first
    | with_reducible assumption
    | with_reducible apply State.liveGo_fr
    | with_reducible apply State.moverRegs_fr
    | with_reducible apply State.reqNew_fr
    | (with_reducible refine Frame.ite ?_ ?_)
    | ((with_reducible apply Sub.within hfw); exact rfl)
    | ((with_reducible apply Sub.within hfb); exact rfl)
    | ((with_reducible apply Mixed.of); exact rfl)
    | (apply hfb.bit (i := 2) rfl)
    | (apply hfb.bit (i := 3) rfl)
    | (apply hfb.bit (i := 4) rfl)
    | (apply hfb.bit (i := 5) rfl)
    | (apply hfb.bit (i := 7) rfl)
    | (apply hfb.bit (i := 9) rfl)
    | (apply hfb.bit (i := 17) rfl)
    | (extract_lets)
    | split
    | (intro _ _ _)
    | (intro _ e; have _hk : Frame _ _ _ _ := e)
    | (intro _ e; cases e)
    | dsimp only
    | (dsimp +zetaDelta only))

theorem State.descLaunch_fr {fw fb : Nat} {s0 : State} (s : State) (d : Desc) (hK : Frame fw fb s0 s) (hfw : Sub 774056185956864 fw := by exact Sub.within hfw rfl) (hfb : Sub 20 fb := by exact Sub.within hfb rfl) : Frame fw fb s0 (State.descLaunch s d) := by
  unfold State.descLaunch
  repeat' (first
    | with_reducible assumption
    | with_reducible apply State.endLaunch_fr
    | with_reducible apply State.launchMap_fr
    | (with_reducible refine Frame.ite ?_ ?_)
    | ((with_reducible apply Sub.within hfw); exact rfl)
    | ((with_reducible apply Sub.within hfb); exact rfl)
    | ((with_reducible apply Mixed.of); exact rfl)
    | (apply hfb.bit (i := 2) rfl)
    | (apply hfb.bit (i := 4) rfl)
    | (extract_lets)
    | split
    | (intro _ _ _)
    | (intro _ e; have _hk : Frame _ _ _ _ := e)
    | (intro _ e; cases e)
    | dsimp only
    | (dsimp +zetaDelta only))

theorem State.descMove_fr {fw fb : Nat} {s0 : State} (s : State) (d : Desc) (hK : Frame fw fb s0 s) (hfw : Sub 775706186025480 fw := by exact Sub.within hfw rfl) (hfb : Sub 828 fb := by exact Sub.within hfb rfl) : Frame fw fb s0 (State.descMove s d) := by
  unfold State.descMove
  repeat' (first
    | with_reducible assumption
    | with_reducible apply State.moveDead_fr
    | (with_reducible refine Frame.ite ?_ ?_)
    | ((with_reducible apply Sub.within hfw); exact rfl)
    | ((with_reducible apply Sub.within hfb); exact rfl)
    | ((with_reducible apply Mixed.of); exact rfl)
    | (apply hfb.bit (i := 2) rfl)
    | (apply hfb.bit (i := 3) rfl)
    | (apply hfb.bit (i := 4) rfl)
    | (apply hfb.bit (i := 5) rfl)
    | (apply hfb.bit (i := 8) rfl)
    | (apply hfb.bit (i := 9) rfl)
    | (extract_lets)
    | split
    | (intro _ _ _)
    | (intro _ e; have _hk : Frame _ _ _ _ := e)
    | (intro _ e; cases e)
    | dsimp only
    | (dsimp +zetaDelta only))

theorem State.descArea_fr {fw fb : Nat} {s0 : State} (s : State) (d : Desc) (hK : Frame fw fb s0 s) (hfw : Sub 68719476736 fw := by exact Sub.within hfw rfl) : Frame fw fb s0 (State.descArea s d) := by
  have k0 : ∀ (t : State) x0, Frame fw fb s0 t → Frame fw fb s0 { t with areas := x0 } := fun t x0 ht => Frame.upd ht hfw rfl rfl ⟨rfl, rfl, rfl⟩
  unfold State.descArea
  repeat' (first
    | with_reducible assumption
    | (with_reducible refine Frame.ite ?_ ?_)
    | ((with_reducible apply Sub.within hfw); exact rfl)
    | ((with_reducible apply Sub.within hfb); exact rfl)
    | ((with_reducible apply Mixed.of); exact rfl)
    | (extract_lets)
    | (fail_if_no_progress (with_reducible refine k0 _ _ ?_))
    | split
    | (intro _ _ _)
    | (intro _ e; have _hk : Frame _ _ _ _ := e)
    | (intro _ e; cases e)
    | dsimp only
    | (dsimp +zetaDelta only)
    | (fail_if_no_progress ((with_reducible refine Frame.upd ?_ hfw ?_ rfl ⟨rfl, rfl, rfl⟩); rotate_left; exact rfl)))

theorem State.descCharge_fr {fw fb : Nat} {s0 : State} (s : State) (d : Desc) (hK : Frame fw fb s0 s) (hfw : Sub 211106232532992 fw := by exact Sub.within hfw rfl) : Frame fw fb s0 (State.descCharge s d) := by
  unfold State.descCharge
  repeat' (first
    | with_reducible assumption
    | with_reducible apply State.charge_fr
    | with_reducible apply State.launchMap_fr
    | (with_reducible refine Frame.ite ?_ ?_)
    | ((with_reducible apply Sub.within hfw); exact rfl)
    | ((with_reducible apply Sub.within hfb); exact rfl)
    | ((with_reducible apply Mixed.of); exact rfl)
    | (extract_lets)
    | split
    | (intro _ _ _)
    | (intro _ e; have _hk : Frame _ _ _ _ := e)
    | (intro _ e; cases e)
    | dsimp only
    | (dsimp +zetaDelta only))

theorem State.descReport_fr {fw fb : Nat} {s0 : State} (s : State) (d : Desc) (hK : Frame fw fb s0 s) (hfw : Sub 775774905502216 fw := by exact Sub.within hfw rfl) (hfb : Sub 828 fb := by exact Sub.within hfb rfl) : Frame fw fb s0 (State.descReport s d) := by
  have k0 : ∀ (t : State) x0, Frame fw fb s0 t → Frame fw fb s0 { t with descs := x0 } := fun t x0 ht => Frame.upd ht hfw rfl rfl ⟨rfl, rfl, rfl⟩
  unfold State.descReport
  repeat' (first
    | with_reducible assumption
    | with_reducible apply State.bump_fr
    | with_reducible apply State.descArea_fr
    | with_reducible apply State.descCharge_fr
    | with_reducible apply State.descLaunch_fr
    | with_reducible apply State.descMove_fr
    | with_reducible apply State.doneWith_fr
    | with_reducible apply State.dropGot_fr
    | with_reducible apply State.finish_fr
    | with_reducible apply State.moverRegs_fr
    | (with_reducible refine Frame.ite ?_ ?_)
    | ((with_reducible apply Sub.within hfw); exact rfl)
    | ((with_reducible apply Sub.within hfb); exact rfl)
    | ((with_reducible apply Mixed.of); exact rfl)
    | (apply hfb.bit (i := 2) rfl)
    | (apply hfb.bit (i := 3) rfl)
    | (apply hfb.bit (i := 4) rfl)
    | (apply hfb.bit (i := 5) rfl)
    | (apply hfb.bit (i := 8) rfl)
    | (apply hfb.bit (i := 9) rfl)
    | (extract_lets)
    | (fail_if_no_progress (with_reducible refine k0 _ _ ?_))
    | split
    | (intro _ _ _)
    | (intro _ e; have _hk : Frame _ _ _ _ := e)
    | (intro _ e; cases e)
    | dsimp only
    | (dsimp +zetaDelta only)
    | (fail_if_no_progress ((with_reducible refine Frame.upd ?_ hfw ?_ rfl ⟨rfl, rfl, rfl⟩); rotate_left; exact rfl)))

theorem descComplete_fr {fw fb : Nat} {s0 : State} (i : Nat) (s : State) (hK : Frame fw fb s0 s) (hfw : Sub 2361184017209795217930 fw := by exact Sub.within hfw rfl) (hfb : Sub 828 fb := by exact Sub.within hfb rfl) : Frame fw fb s0 (descComplete i s) := by
  have k0 : ∀ (t : State) x0, Frame fw fb s0 t → Frame fw fb s0 { t with descs := x0 } := fun t x0 ht => Frame.upd ht hfw rfl rfl ⟨rfl, rfl, rfl⟩
  unfold descComplete
  repeat' (first
    | with_reducible assumption
    | with_reducible apply State.descMap_fr
    | with_reducible apply State.descReport_fr
    | with_reducible apply State.moverRegs_fr
    | with_reducible apply State.put_fr
    | (with_reducible apply State.put_fr_ok; with_reducible assumption)
    | (with_reducible apply State.put_fr_stop; with_reducible assumption)
    | (with_reducible apply State.put_fr_bad; with_reducible assumption)
    | with_reducible apply State.replayed_fr
    | with_reducible apply State.reqStop_fr
    | (with_reducible refine Frame.ite ?_ ?_)
    | ((with_reducible apply Sub.within hfw); exact rfl)
    | ((with_reducible apply Sub.within hfb); exact rfl)
    | ((with_reducible apply Mixed.of); exact rfl)
    | (apply hfb.bit (i := 2) rfl)
    | (apply hfb.bit (i := 3) rfl)
    | (apply hfb.bit (i := 4) rfl)
    | (apply hfb.bit (i := 5) rfl)
    | (apply hfb.bit (i := 8) rfl)
    | (apply hfb.bit (i := 9) rfl)
    | (extract_lets)
    | (fail_if_no_progress (with_reducible refine k0 _ _ ?_))
    | split
    | (intro _ _ _)
    | (intro _ e; have _hk : Frame _ _ _ _ := e)
    | (intro _ e; cases e)
    | dsimp only
    | (dsimp +zetaDelta only)
    | (fail_if_no_progress ((with_reducible refine Frame.upd ?_ hfw ?_ rfl ⟨rfl, rfl, rfl⟩); rotate_left; exact rfl)))

theorem execDescriptorComplete_fr {fw fb : Nat} {s0 : State} (desc : Nat) (s : State) (hK : Frame fw fb s0 s) (hfw : Sub 2361184017209795217930 fw := by exact Sub.within hfw rfl) (hfb : Sub 828 fb := by exact Sub.within hfb rfl) : ∀ u, execDescriptorComplete desc s = .next u → Frame fw fb s0 u := by
  unfold execDescriptorComplete
  repeat' (first
    | with_reducible assumption
    | with_reducible apply descComplete_fr
    | (with_reducible refine Frame.ite ?_ ?_)
    | ((with_reducible apply Sub.within hfw); exact rfl)
    | ((with_reducible apply Sub.within hfb); exact rfl)
    | ((with_reducible apply Mixed.of); exact rfl)
    | (apply hfb.bit (i := 2) rfl)
    | (apply hfb.bit (i := 3) rfl)
    | (apply hfb.bit (i := 4) rfl)
    | (apply hfb.bit (i := 5) rfl)
    | (apply hfb.bit (i := 8) rfl)
    | (apply hfb.bit (i := 9) rfl)
    | (extract_lets)
    | split
    | (intro _ _ _)
    | (intro _ e; have _hk : Frame _ _ _ _ := e)
    | (intro _ e; cases e)
    | dsimp only
    | (dsimp +zetaDelta only))

theorem hostReadTimeout_fr {fw fb : Nat} {s0 : State} (i : Nat) (s : State) (hK : Frame fw fb s0 s) (hfw : Sub 134217728 fw := by exact Sub.within hfw rfl) (hfb : Sub 33 fb := by exact Sub.within hfb rfl) : Frame fw fb s0 (hostReadTimeout i s) := by
  unfold hostReadTimeout
  repeat' (first
    | with_reducible assumption
    | with_reducible apply State.bump_fr
    | with_reducible apply State.moverRegs_fr
    | with_reducible apply State.reqBad_fr
    | (with_reducible refine Frame.getD ?_ ?_)
    | (with_reducible refine Frame.ite ?_ ?_)
    | ((with_reducible apply Sub.within hfw); exact rfl)
    | ((with_reducible apply Sub.within hfb); exact rfl)
    | ((with_reducible apply Mixed.of); exact rfl)
    | (apply hfb.bit (i := 0) rfl)
    | (apply hfb.bit (i := 5) rfl)
    | (extract_lets)
    | split
    | (intro _ _ _)
    | (intro _ e; have _hk : Frame _ _ _ _ := e)
    | (intro _ e; cases e)
    | dsimp only
    | (dsimp +zetaDelta only))

theorem execHostReadTimeout_fr {fw fb : Nat} {s0 : State} (desc : Nat) (s : State) (hK : Frame fw fb s0 s) (hfw : Sub 134217728 fw := by exact Sub.within hfw rfl) (hfb : Sub 33 fb := by exact Sub.within hfb rfl) : ∀ u, execHostReadTimeout desc s = .next u → Frame fw fb s0 u := by
  unfold execHostReadTimeout
  repeat' (first
    | with_reducible assumption
    | with_reducible apply hostReadTimeout_fr
    | (with_reducible refine Frame.ite ?_ ?_)
    | ((with_reducible apply Sub.within hfw); exact rfl)
    | ((with_reducible apply Sub.within hfb); exact rfl)
    | ((with_reducible apply Mixed.of); exact rfl)
    | (apply hfb.bit (i := 0) rfl)
    | (apply hfb.bit (i := 5) rfl)
    | (extract_lets)
    | split
    | (intro _ _ _)
    | (intro _ e; have _hk : Frame _ _ _ _ := e)
    | (intro _ e; cases e)
    | dsimp only
    | (dsimp +zetaDelta only))

end Sys2Proof.Machine
end

