-- ==== Sys2Proof/Laws/Frame/Images.lean ====
section
/-! SUPPORT. What the operations of Machine/Images.lean leave as it was (`Frame`): one lemma each. -/

set_option linter.unreachableTactic false
set_option linter.unusedTactic false

namespace Sys2Proof.Machine

set_option Elab.async false

open Sys2Proof

theorem State.setBank_fr {fw fb : Nat} {s0 : State} (s : State) (y b : Nat) (x : FwBank) (hK : Frame fw fb s0 s) (hfw : Sub 147573952589676412928 fw := by exact Sub.within hfw rfl) : Frame fw fb s0 (State.setBank s y b x) := by
  unfold State.setBank
  repeat' (first
    | with_reducible assumption
    | (with_reducible refine Frame.ite ?_ ?_)
    | ((with_reducible apply Sub.within hfw); exact rfl)
    | ((with_reducible apply Sub.within hfb); exact rfl)
    | ((with_reducible apply Mixed.of); exact rfl)
    | (extract_lets)
    | split
    | (intro _ _ _)
    | (intro _ e; have _hk : Frame _ _ _ _ := e)
    | (intro _ e; cases e)
    | dsimp only
    | (dsimp +zetaDelta only)
    | (fail_if_no_progress ((with_reducible refine Frame.upd ?_ hfw ?_ rfl ⟨rfl, rfl, rfl⟩); rotate_left; exact rfl)))

theorem State.chainRegs_fr {fw fb : Nat} {s0 : State} (s : State) (hK : Frame fw fb s0 s) (hfb : Sub 262144 fb := by exact Sub.within hfb rfl) : Frame fw fb s0 (State.chainRegs s) := by
  unfold State.chainRegs
  have e : List.range 4 = [0, 1, 2, 3] := rfl
  rw [e]
  dsimp only [State.wrs, List.map, List.foldl]
  exact State.wr_fr _ _ _ (State.wr_fr _ _ _ (State.wr_fr _ _ _ (State.wr_fr _ _ _ (State.wr_fr _ _ _ hK))))

theorem State.measure_fr {fw fb : Nat} {s0 : State} (s : State) (g : Stage) (hK : Frame fw fb s0 s) (hfw : Sub 147573952589676412928 fw := by exact Sub.within hfw rfl) (hfb : Sub 262144 fb := by exact Sub.within hfb rfl) : Frame fw fb s0 (State.measure s g) := by
  unfold State.measure
  repeat' (first
    | with_reducible assumption
    | with_reducible apply State.chainRegs_fr
    | (with_reducible refine Frame.ite ?_ ?_)
    | ((with_reducible apply Sub.within hfw); exact rfl)
    | ((with_reducible apply Sub.within hfb); exact rfl)
    | ((with_reducible apply Mixed.of); exact rfl)
    | (apply hfb.bit (i := 18) rfl)
    | (extract_lets)
    | split
    | (intro _ _ _)
    | (intro _ e; have _hk : Frame _ _ _ _ := e)
    | (intro _ e; cases e)
    | dsimp only
    | (dsimp +zetaDelta only)
    | (fail_if_no_progress ((with_reducible refine Frame.upd ?_ hfw ?_ rfl ⟨rfl, rfl, rfl⟩); rotate_left; exact rfl)))

theorem State.chainCut_fr {fw fb : Nat} {s0 : State} (s : State) (hK : Frame fw fb s0 s) (hfw : Sub 147573952589676412928 fw := by exact Sub.within hfw rfl) (hfb : Sub 262144 fb := by exact Sub.within hfb rfl) : Frame fw fb s0 (State.chainCut s) := by
  unfold State.chainCut
  repeat' (first
    | with_reducible assumption
    | with_reducible apply State.chainRegs_fr
    | (with_reducible refine Frame.ite ?_ ?_)
    | ((with_reducible apply Sub.within hfw); exact rfl)
    | ((with_reducible apply Sub.within hfb); exact rfl)
    | ((with_reducible apply Mixed.of); exact rfl)
    | (apply hfb.bit (i := 18) rfl)
    | (extract_lets)
    | split
    | (intro _ _ _)
    | (intro _ e; have _hk : Frame _ _ _ _ := e)
    | (intro _ e; cases e)
    | dsimp only
    | (dsimp +zetaDelta only)
    | (fail_if_no_progress ((with_reducible refine Frame.upd ?_ hfw ?_ rfl ⟨rfl, rfl, rfl⟩); rotate_left; exact rfl)))

theorem State.bootRun_fr {fw fb : Nat} {s0 : State} (s : State) (y : Nat) (p : Nat × Bool) (hK : Frame fw fb s0 s) (hfw : Sub 147573952589676412992 fw := by exact Sub.within hfw rfl) (hfb : Sub 262144 fb := by exact Sub.within hfb rfl) : Frame fw fb s0 (State.bootRun s y p) := by
  unfold State.bootRun
  repeat' (first
    | with_reducible assumption
    | with_reducible apply State.measure_fr
    | with_reducible apply State.recordTick_fr
    | with_reducible apply State.wr_fr
    | (with_reducible refine Frame.ite ?_ ?_)
    | ((with_reducible apply Sub.within hfw); exact rfl)
    | ((with_reducible apply Sub.within hfb); exact rfl)
    | ((with_reducible apply Mixed.of); exact rfl)
    | (apply hfb.bit (i := 18) rfl)
    | (dsimp only [State.wrs, State.regs0, List.foldl])
    | (extract_lets)
    | split
    | (intro _ _ _)
    | (intro _ e; have _hk : Frame _ _ _ _ := e)
    | (intro _ e; cases e)
    | dsimp only
    | (dsimp +zetaDelta only)
    | (fail_if_no_progress ((with_reducible refine Frame.upd ?_ hfw ?_ rfl ⟨rfl, rfl, rfl⟩); rotate_left; exact rfl)))

end Sys2Proof.Machine
end

