-- ==== Sys2Proof/Laws/Frame/Topology.lean ====
section
/-! SUPPORT. What the operations of Machine/Topology.lean leave as it was (`Frame`): one lemma each. -/

set_option linter.unreachableTactic false
set_option linter.unusedTactic false

namespace Sys2Proof.Machine

set_option Elab.async false

open Sys2Proof

theorem State.drainRegs_fr {fw fb : Nat} {s0 : State} (s : State) (hK : Frame fw fb s0 s) (hfb : Sub 33792 fb := by exact Sub.within hfb rfl) : Frame fw fb s0 (State.drainRegs s) := by
  unfold State.drainRegs
  repeat' (first
    | with_reducible assumption
    | with_reducible apply State.wr_fr
    | (with_reducible refine Frame.ite ?_ ?_)
    | ((with_reducible apply Sub.within hfw); exact rfl)
    | ((with_reducible apply Sub.within hfb); exact rfl)
    | ((with_reducible apply Mixed.of); exact rfl)
    | (apply hfb.bit (i := 10) rfl)
    | (apply hfb.bit (i := 15) rfl)
    | (extract_lets)
    | split
    | (intro _ _ _)
    | (intro _ e; have _hk : Frame _ _ _ _ := e)
    | (intro _ e; cases e)
    | dsimp only
    | (dsimp +zetaDelta only))

theorem State.topoEvent_fr {fw fb : Nat} {s0 : State} (s : State) (hK : Frame fw fb s0 s) (hfw : Sub 144 fw := by exact Sub.within hfw rfl) : Frame fw fb s0 (State.topoEvent s) := by
  unfold State.topoEvent
  repeat' (first
    | with_reducible assumption
    | with_reducible apply State.raiseIf_fr
    | (with_reducible refine Frame.ite ?_ ?_)
    | ((with_reducible apply Sub.within hfw); exact rfl)
    | ((with_reducible apply Sub.within hfb); exact rfl)
    | ((with_reducible apply Mixed.of); exact rfl)
    | (extract_lets)
    | split
    | (intro _ _ _)
    | (intro _ e; have _hk : Frame _ _ _ _ := e)
    | (intro _ e; cases e)
    | dsimp only
    | (dsimp +zetaDelta only))

theorem State.hostBytes_fr {fw fb : Nat} {s0 : State} (s : State) (h addr : Nat) (l : List Nat) (hK : Frame fw fb s0 s) (hfw : Sub 8 fw := by exact Sub.within hfw rfl) : Frame fw fb s0 (State.hostBytes s h addr l) := by
  unfold State.hostBytes
  repeat' (first
    | with_reducible assumption
    | with_reducible apply State.storeBytes_fr
    | (with_reducible refine Frame.ite ?_ ?_)
    | ((with_reducible apply Sub.within hfw); exact rfl)
    | ((with_reducible apply Sub.within hfb); exact rfl)
    | ((with_reducible apply Mixed.of); exact rfl)
    | (extract_lets)
    | split
    | (intro _ _ _)
    | (intro _ e; have _hk : Frame _ _ _ _ := e)
    | (intro _ e; cases e)
    | dsimp only
    | (dsimp +zetaDelta only))

theorem topoQuery_fr {fw fb : Nat} {s0 : State} (s : State) (c : Cmd) (hK : Frame fw fb s0 s) (hfw : Sub 2568 fw := by exact Sub.within hfw rfl) : Frame fw fb s0 (topoQuery s c) := by
  unfold topoQuery
  repeat' (first
    | with_reducible assumption
    | with_reducible apply State.doneWith_fr
    | with_reducible apply State.hostBytes_fr
    | (with_reducible refine Frame.ite ?_ ?_)
    | ((with_reducible apply Sub.within hfw); exact rfl)
    | ((with_reducible apply Sub.within hfb); exact rfl)
    | ((with_reducible apply Mixed.of); exact rfl)
    | (extract_lets)
    | split
    | (intro _ _ _)
    | (intro _ e; have _hk : Frame _ _ _ _ := e)
    | (intro _ e; cases e)
    | dsimp only
    | (dsimp +zetaDelta only))

theorem execTopoQuery_fr {fw fb : Nat} {s0 : State} (k : Nat) (s : State) (hK : Frame fw fb s0 s) (hfw : Sub 2568 fw := by exact Sub.within hfw rfl) : ∀ u, execTopoQuery k s = .next u → Frame fw fb s0 u := by
  unfold execTopoQuery
  repeat' (first
    | with_reducible assumption
    | with_reducible apply State.runCmd_fr
    | with_reducible apply topoQuery_fr
    | (with_reducible refine Frame.ite ?_ ?_)
    | ((with_reducible apply Sub.within hfw); exact rfl)
    | ((with_reducible apply Sub.within hfb); exact rfl)
    | ((with_reducible apply Mixed.of); exact rfl)
    | (extract_lets)
    | split
    | (intro _ _ _)
    | (intro _ e; have _hk : Frame _ _ _ _ := e)
    | (intro _ e; cases e)
    | dsimp only
    | (dsimp +zetaDelta only))

theorem State.clearRoutes_fr {fw fb : Nat} {s0 : State} (s : State) (hK : Frame fw fb s0 s) (hfb : Sub 512 fb := by exact Sub.within hfb rfl) : Frame fw fb s0 s.clearRoutes := by
  refine hK.setRegs (fun k _ hk => aFind_filter_key _ _ _ (fun x => ?_)) (aWf_filter _ _ _)
  have h9 : k / 2 ^ 26 ≠ 9 := by
    intro e
    have h := hfb.bit (show (512 : Nat).testBit 9 = true from rfl)
    rw [e, h] at hk
    cases hk
  simp only [Bool.or_eq_true, decide_eq_true_eq]
  omega

theorem State.writeRoutes_fr {fw fb : Nat} {s0 : State} (s : State) (ms : List Member) (hK : Frame fw fb s0 s) (hfb : Sub 512 fb := by exact Sub.within hfb rfl) : Frame fw fb s0 (State.writeRoutes s ms) := by
  unfold State.writeRoutes
  repeat' (first
    | with_reducible assumption
    | with_reducible apply State.clearRoutes_fr
    | with_reducible apply State.wr_fr
    | (with_reducible refine Frame.foldl ?_ ?_)
    | (with_reducible refine Frame.foldr ?_ ?_)
    | (with_reducible refine Frame.ite ?_ ?_)
    | ((with_reducible apply Sub.within hfw); exact rfl)
    | ((with_reducible apply Sub.within hfb); exact rfl)
    | ((with_reducible apply Mixed.of); exact rfl)
    | (apply hfb.bit (i := 9) rfl)
    | (dsimp only [State.wrs, State.regs0, List.foldl])
    | (extract_lets)
    | split
    | (intro _ _ _)
    | (intro _ e; have _hk : Frame _ _ _ _ := e)
    | (intro _ e; cases e)
    | dsimp only
    | (dsimp +zetaDelta only))

theorem State.writePlace_fr {fw fb : Nat} {s0 : State} (s : State) (c : Cmd) (own : Member) (st : Nat) (hK : Frame fw fb s0 s) (hfb : Sub 1024 fb := by exact Sub.within hfb rfl) : Frame fw fb s0 (State.writePlace s c own st) := by
  unfold State.writePlace
  repeat' (first
    | with_reducible assumption
    | with_reducible apply State.wr_fr
    | (with_reducible refine Frame.ite ?_ ?_)
    | ((with_reducible apply Sub.within hfw); exact rfl)
    | ((with_reducible apply Sub.within hfb); exact rfl)
    | ((with_reducible apply Mixed.of); exact rfl)
    | (apply hfb.bit (i := 10) rfl)
    | (dsimp only [State.wrs, State.regs0, List.foldl])
    | (extract_lets)
    | split
    | (intro _ _ _)
    | (intro _ e; have _hk : Frame _ _ _ _ := e)
    | (intro _ e; cases e)
    | dsimp only
    | (dsimp +zetaDelta only))

theorem State.unjoin_fr {fw fb : Nat} {s0 : State} (s : State) (hK : Frame fw fb s0 s) (hfw : Sub 1073741824 fw := by exact Sub.within hfw rfl) (hfb : Sub 34304 fb := by exact Sub.within hfb rfl) : Frame fw fb s0 (State.unjoin s) := by
  have k0 : ∀ (t : State) x0, Frame fw fb s0 t → Frame fw fb s0 { t with topo := x0 } := fun t x0 ht => Frame.upd ht hfw rfl rfl ⟨rfl, rfl, rfl⟩
  unfold State.unjoin
  repeat' (first
    | with_reducible assumption
    | with_reducible apply State.clearRoutes_fr
    | with_reducible apply State.drainRegs_fr
    | with_reducible apply State.reg0_fr
    | (with_reducible refine Frame.ite ?_ ?_)
    | ((with_reducible apply Sub.within hfw); exact rfl)
    | ((with_reducible apply Sub.within hfb); exact rfl)
    | ((with_reducible apply Mixed.of); exact rfl)
    | (apply hfb.bit (i := 9) rfl)
    | (apply hfb.bit (i := 10) rfl)
    | (apply hfb.bit (i := 15) rfl)
    | (dsimp only [State.wrs, State.regs0, List.foldl])
    | (extract_lets)
    | (fail_if_no_progress (with_reducible refine k0 _ _ ?_))
    | split
    | (intro _ _ _)
    | (intro _ e; have _hk : Frame _ _ _ _ := e)
    | (intro _ e; cases e)
    | dsimp only
    | (dsimp +zetaDelta only)
    | (fail_if_no_progress ((with_reducible refine Frame.upd ?_ hfw ?_ rfl ⟨rfl, rfl, rfl⟩); rotate_left; exact rfl)))

theorem State.joinAs_fr {fw fb : Nat} {s0 : State} (s : State) (c : Cmd) (own : Member) (ms : List Member) (st : Nat) (hK : Frame fw fb s0 s) (hfw : Sub 13195775508488 fw := by exact Sub.within hfw rfl) (hfb : Sub 34576 fb := by exact Sub.within hfb rfl) : Frame fw fb s0 (State.joinAs s c own ms st) := by
  have k0 : ∀ (t : State) x0, Frame fw fb s0 t → Frame fw fb s0 { t with topo := x0 } := fun t x0 ht => Frame.upd ht hfw rfl rfl ⟨rfl, rfl, rfl⟩
  unfold State.joinAs
  repeat' (first
    | with_reducible assumption
    | with_reducible apply State.drainRegs_fr
    | with_reducible apply State.indexReset_fr
    | with_reducible apply State.wr_fr
    | with_reducible apply State.writePlace_fr
    | with_reducible apply State.writeRoutes_fr
    | (with_reducible refine Frame.ite ?_ ?_)
    | ((with_reducible apply Sub.within hfw); exact rfl)
    | ((with_reducible apply Sub.within hfb); exact rfl)
    | ((with_reducible apply Mixed.of); exact rfl)
    | (apply hfb.bit (i := 4) rfl)
    | (apply hfb.bit (i := 8) rfl)
    | (apply hfb.bit (i := 9) rfl)
    | (apply hfb.bit (i := 10) rfl)
    | (apply hfb.bit (i := 15) rfl)
    | (extract_lets)
    | (fail_if_no_progress (with_reducible refine k0 _ _ ?_))
    | split
    | (intro _ _ _)
    | (intro _ e; have _hk : Frame _ _ _ _ := e)
    | (intro _ e; cases e)
    | dsimp only
    | (dsimp +zetaDelta only)
    | (fail_if_no_progress ((with_reducible refine Frame.upd ?_ hfw ?_ rfl ⟨rfl, rfl, rfl⟩); rotate_left; exact rfl)))

theorem partitionForm_fr {fw fb : Nat} {s0 : State} (s : State) (c : Cmd) (hK : Frame fw fb s0 s) (hfw : Sub 13195775511048 fw := by exact Sub.within hfw rfl) (hfb : Sub 42768 fb := by exact Sub.within hfb rfl) : Frame fw fb s0 (partitionForm s c) := by
  unfold partitionForm
  repeat' (first
    | with_reducible assumption
    | with_reducible apply State.doneWith_fr
    | with_reducible apply State.failWith_fr
    | with_reducible apply State.joinAs_fr
    | with_reducible apply State.wr_fr
    | (with_reducible refine Frame.ite ?_ ?_)
    | ((with_reducible apply Sub.within hfw); exact rfl)
    | ((with_reducible apply Sub.within hfb); exact rfl)
    | ((with_reducible apply Mixed.of); exact rfl)
    | (apply hfb.bit (i := 4) rfl)
    | (apply hfb.bit (i := 8) rfl)
    | (apply hfb.bit (i := 9) rfl)
    | (apply hfb.bit (i := 10) rfl)
    | (apply hfb.bit (i := 13) rfl)
    | (apply hfb.bit (i := 15) rfl)
    | (extract_lets)
    | split
    | (intro _ _ _)
    | (intro _ e; have _hk : Frame _ _ _ _ := e)
    | (intro _ e; cases e)
    | dsimp only
    | (dsimp +zetaDelta only))

theorem execPartitionForm_fr {fw fb : Nat} {s0 : State} (k : Nat) (s : State) (hK : Frame fw fb s0 s) (hfw : Sub 13195775511048 fw := by exact Sub.within hfw rfl) (hfb : Sub 42768 fb := by exact Sub.within hfb rfl) : ∀ u, execPartitionForm k s = .next u → Frame fw fb s0 u := by
  unfold execPartitionForm
  repeat' (first
    | with_reducible assumption
    | with_reducible apply State.runCmd_fr
    | with_reducible apply partitionForm_fr
    | (with_reducible refine Frame.ite ?_ ?_)
    | ((with_reducible apply Sub.within hfw); exact rfl)
    | ((with_reducible apply Sub.within hfb); exact rfl)
    | ((with_reducible apply Mixed.of); exact rfl)
    | (apply hfb.bit (i := 4) rfl)
    | (apply hfb.bit (i := 8) rfl)
    | (apply hfb.bit (i := 9) rfl)
    | (apply hfb.bit (i := 10) rfl)
    | (apply hfb.bit (i := 13) rfl)
    | (apply hfb.bit (i := 15) rfl)
    | (extract_lets)
    | split
    | (intro _ _ _)
    | (intro _ e; have _hk : Frame _ _ _ _ := e)
    | (intro _ e; cases e)
    | dsimp only
    | (dsimp +zetaDelta only))

theorem partitionReshape_fr {fw fb : Nat} {s0 : State} (s : State) (c : Cmd) (hK : Frame fw fb s0 s) (hfw : Sub 13195775511048 fw := by exact Sub.within hfw rfl) (hfb : Sub 34576 fb := by exact Sub.within hfb rfl) : Frame fw fb s0 (partitionReshape s c) := by
  unfold partitionReshape
  repeat' (first
    | with_reducible assumption
    | with_reducible apply State.doneWith_fr
    | with_reducible apply State.joinAs_fr
    | with_reducible apply State.unjoin_fr
    | (with_reducible refine Frame.ite ?_ ?_)
    | ((with_reducible apply Sub.within hfw); exact rfl)
    | ((with_reducible apply Sub.within hfb); exact rfl)
    | ((with_reducible apply Mixed.of); exact rfl)
    | (apply hfb.bit (i := 4) rfl)
    | (apply hfb.bit (i := 8) rfl)
    | (apply hfb.bit (i := 9) rfl)
    | (apply hfb.bit (i := 10) rfl)
    | (apply hfb.bit (i := 15) rfl)
    | (extract_lets)
    | split
    | (intro _ _ _)
    | (intro _ e; have _hk : Frame _ _ _ _ := e)
    | (intro _ e; cases e)
    | dsimp only
    | (dsimp +zetaDelta only))

theorem execPartitionReshape_fr {fw fb : Nat} {s0 : State} (k : Nat) (s : State) (hK : Frame fw fb s0 s) (hfw : Sub 13195775511048 fw := by exact Sub.within hfw rfl) (hfb : Sub 34576 fb := by exact Sub.within hfb rfl) : ∀ u, execPartitionReshape k s = .next u → Frame fw fb s0 u := by
  unfold execPartitionReshape
  repeat' (first
    | with_reducible assumption
    | with_reducible apply State.runCmd_fr
    | with_reducible apply partitionReshape_fr
    | (with_reducible refine Frame.ite ?_ ?_)
    | ((with_reducible apply Sub.within hfw); exact rfl)
    | ((with_reducible apply Sub.within hfb); exact rfl)
    | ((with_reducible apply Mixed.of); exact rfl)
    | (apply hfb.bit (i := 4) rfl)
    | (apply hfb.bit (i := 8) rfl)
    | (apply hfb.bit (i := 9) rfl)
    | (apply hfb.bit (i := 10) rfl)
    | (apply hfb.bit (i := 15) rfl)
    | (extract_lets)
    | split
    | (intro _ _ _)
    | (intro _ e; have _hk : Frame _ _ _ _ := e)
    | (intro _ e; cases e)
    | dsimp only
    | (dsimp +zetaDelta only))

end Sys2Proof.Machine
end

