-- ==== Sys2Proof/Laws/Frame/Security.lean ====
section
/-! SUPPORT. What the operations of Machine/Security.lean leave as it was (`Frame`): one lemma each. -/

set_option linter.unreachableTactic false
set_option linter.unusedTactic false

namespace Sys2Proof.Machine

set_option Elab.async false

open Sys2Proof

/-- What `Frame` says of every state that a `Signed` holds. -/
def Signed.fr (fw fb : Nat) (s0 : State) : Signed → Prop
  | .ok _ s => Frame fw fb s0 s
  | .refused _ _ s => Frame fw fb s0 s

theorem Signed.fr_ok {fw fb : Nat} {s0 : State} {x0} {t : State} (h : Frame fw fb s0 t) : Signed.fr fw fb s0 (.ok x0 t) := h

theorem Signed.fr_refused {fw fb : Nat} {s0 : State} {x0} {x1} {t : State} (h : Frame fw fb s0 t) : Signed.fr fw fb s0 (.refused x0 x1 t) := h

theorem State.nonceGone_fr {fw fb : Nat} {s0 : State} (s : State) (src : Nat) (hK : Frame fw fb s0 s) (hfw : Sub 147573952589676412928 fw := by exact Sub.within hfw rfl) : Frame fw fb s0 (State.nonceGone s src) := by
  unfold State.nonceGone
  repeat' (first
    | with_reducible assumption
    | (with_reducible refine Frame.ite ?_ ?_)
    | ((with_reducible apply Sub.within hfw); exact rfl)
    | ((with_reducible apply Sub.within hfb); exact rfl)
    | ((with_reducible apply Mixed.of); exact rfl)
    | (extract_lets)
    | split
    | (intro _ _ _)
    | (intro _ e; have _hk : Frame _ _ _ _ := e)
    | (intro _ e; cases e)
    | dsimp only
    | (dsimp +zetaDelta only)
    | (fail_if_no_progress ((with_reducible refine Frame.upd ?_ hfw ?_ rfl ⟨rfl, rfl, rfl⟩); rotate_left; exact rfl)))

theorem State.authorise_fr {fw fb : Nat} {s0 : State} (s : State) (c : Cmd) (hK : Frame fw fb s0 s) (hfw : Sub 147573952589676412928 fw := by exact Sub.within hfw rfl) : Frame fw fb s0 (State.authorise s c).2 := by
  unfold State.authorise
  repeat' (first
    | with_reducible assumption
    | with_reducible apply State.nonceGone_fr
    | (with_reducible refine Frame.ite ?_ ?_)
    | ((with_reducible apply Sub.within hfw); exact rfl)
    | ((with_reducible apply Sub.within hfb); exact rfl)
    | ((with_reducible apply Mixed.of); exact rfl)
    | (extract_lets)
    | split
    | (intro _ _ _)
    | (intro _ e; have _hk : Frame _ _ _ _ := e)
    | (intro _ e; cases e)
    | dsimp only
    | (dsimp +zetaDelta only))

theorem State.authorise_fr_at {fw fb : Nat} {s0 : State} {u : State} {r0} {s : State} {c : Cmd} (h_eq : State.authorise s c = (r0, u)) (hK : Frame fw fb s0 s) (hfw : Sub 147573952589676412928 fw := by exact Sub.within hfw rfl) : Frame fw fb s0 u := by
  have := State.authorise_fr s c hK
  rw [h_eq] at this
  exact this

theorem State.authRefused_fr {fw fb : Nat} {s0 : State} (s : State) (c : Cmd) (det : Nat) (hK : Frame fw fb s0 s) (hfw : Sub 2768 fw := by exact Sub.within hfw rfl) (hfb : Sub 393216 fb := by exact Sub.within hfb rfl) : Frame fw fb s0 (State.authRefused s c det) := by
  unfold State.authRefused
  repeat' (first
    | with_reducible assumption
    | with_reducible apply State.bump_fr
    | with_reducible apply State.failWith_fr
    | with_reducible apply State.record_fr
    | (with_reducible refine Frame.ite ?_ ?_)
    | ((with_reducible apply Sub.within hfw); exact rfl)
    | ((with_reducible apply Sub.within hfb); exact rfl)
    | ((with_reducible apply Mixed.of); exact rfl)
    | (apply hfb.bit (i := 17) rfl)
    | (apply hfb.bit (i := 18) rfl)
    | (extract_lets)
    | split
    | (intro _ _ _)
    | (intro _ e; have _hk : Frame _ _ _ _ := e)
    | (intro _ e; cases e)
    | dsimp only
    | (dsimp +zetaDelta only))

theorem nonceExpiry_fr {fw fb : Nat} {s0 : State} (src : Nat) (s : State) (hK : Frame fw fb s0 s) (hfw : Sub 147573952589676412928 fw := by exact Sub.within hfw rfl) : Frame fw fb s0 (nonceExpiry src s) := by
  unfold nonceExpiry
  repeat' (first
    | with_reducible assumption
    | with_reducible apply State.nonceGone_fr
    | (with_reducible refine Frame.ite ?_ ?_)
    | ((with_reducible apply Sub.within hfw); exact rfl)
    | ((with_reducible apply Sub.within hfb); exact rfl)
    | ((with_reducible apply Mixed.of); exact rfl)
    | (extract_lets)
    | split
    | (intro _ _ _)
    | (intro _ e; have _hk : Frame _ _ _ _ := e)
    | (intro _ e; cases e)
    | dsimp only
    | (dsimp +zetaDelta only))

theorem execNonceExpiry_fr {fw fb : Nat} {s0 : State} (src : Nat) (s : State) (hK : Frame fw fb s0 s) (hfw : Sub 147573952589676412928 fw := by exact Sub.within hfw rfl) : ∀ u, execNonceExpiry src s = .next u → Frame fw fb s0 u := by
  unfold execNonceExpiry
  repeat' (first
    | with_reducible assumption
    | with_reducible apply nonceExpiry_fr
    | (with_reducible refine Frame.ite ?_ ?_)
    | ((with_reducible apply Sub.within hfw); exact rfl)
    | ((with_reducible apply Sub.within hfb); exact rfl)
    | ((with_reducible apply Mixed.of); exact rfl)
    | (extract_lets)
    | split
    | (intro _ _ _)
    | (intro _ e; have _hk : Frame _ _ _ _ := e)
    | (intro _ e; cases e)
    | dsimp only
    | (dsimp +zetaDelta only))

theorem authChallenge_fr {fw fb : Nat} {s0 : State} (s : State) (c : Cmd) (hK : Frame fw fb s0 s) (hfw : Sub 147573952589676415490 fw := by exact Sub.within hfw rfl) : Frame fw fb s0 (authChallenge s c) := by
  unfold authChallenge
  repeat' (first
    | with_reducible assumption
    | with_reducible apply State.doneWith_fr
    | (with_reducible refine Frame.ite ?_ ?_)
    | ((with_reducible apply Sub.within hfw); exact rfl)
    | ((with_reducible apply Sub.within hfb); exact rfl)
    | ((with_reducible apply Mixed.of); exact rfl)
    | (extract_lets)
    | split
    | (intro _ _ _)
    | (intro _ e; have _hk : Frame _ _ _ _ := e)
    | (intro _ e; cases e)
    | dsimp only
    | (dsimp +zetaDelta only)
    | (fail_if_no_progress ((with_reducible refine Frame.upd ?_ hfw ?_ rfl ⟨rfl, rfl, rfl⟩); rotate_left; exact rfl)))

theorem execAuthChallenge_fr {fw fb : Nat} {s0 : State} (k : Nat) (s : State) (hK : Frame fw fb s0 s) (hfw : Sub 147573952589676415490 fw := by exact Sub.within hfw rfl) : ∀ u, execAuthChallenge k s = .next u → Frame fw fb s0 u := by
  unfold execAuthChallenge
  repeat' (first
    | with_reducible assumption
    | with_reducible apply State.runCmd_fr
    | with_reducible apply authChallenge_fr
    | (with_reducible refine Frame.ite ?_ ?_)
    | ((with_reducible apply Sub.within hfw); exact rfl)
    | ((with_reducible apply Sub.within hfb); exact rfl)
    | ((with_reducible apply Mixed.of); exact rfl)
    | (extract_lets)
    | split
    | (intro _ _ _)
    | (intro _ e; have _hk : Frame _ _ _ _ := e)
    | (intro _ e; cases e)
    | dsimp only
    | (dsimp +zetaDelta only))

theorem ownerEnrol_fr {fw fb : Nat} {s0 : State} (fail : Nat) (s : State) (c : Cmd) (hK : Frame fw fb s0 s) (hfw : Sub 147573952589676415696 fw := by exact Sub.within hfw rfl) (hfb : Sub 393216 fb := by exact Sub.within hfb rfl) : Frame fw fb s0 (ownerEnrol fail s c) := by
  unfold ownerEnrol
  repeat' (first
    | with_reducible assumption
    | with_reducible apply State.doneWith_fr
    | with_reducible apply State.failWith_fr
    | with_reducible apply State.record_fr
    | with_reducible apply State.wr_fr
    | (with_reducible refine Frame.ite ?_ ?_)
    | ((with_reducible apply Sub.within hfw); exact rfl)
    | ((with_reducible apply Sub.within hfb); exact rfl)
    | ((with_reducible apply Mixed.of); exact rfl)
    | (apply hfb.bit (i := 17) rfl)
    | (apply hfb.bit (i := 18) rfl)
    | (extract_lets)
    | split
    | (intro _ _ _)
    | (intro _ e; have _hk : Frame _ _ _ _ := e)
    | (intro _ e; cases e)
    | dsimp only
    | (dsimp +zetaDelta only)
    | (fail_if_no_progress ((with_reducible refine Frame.upd ?_ hfw ?_ rfl ⟨rfl, rfl, rfl⟩); rotate_left; exact rfl)))

theorem execOwnerEnrol_fr {fw fb : Nat} {s0 : State} (k fail : Nat) (s : State) (hK : Frame fw fb s0 s) (hfw : Sub 147573952589676415696 fw := by exact Sub.within hfw rfl) (hfb : Sub 393216 fb := by exact Sub.within hfb rfl) : ∀ u, execOwnerEnrol k fail s = .next u → Frame fw fb s0 u := by
  unfold execOwnerEnrol
  repeat' (first
    | with_reducible assumption
    | with_reducible apply State.runCmd_fr
    | with_reducible apply ownerEnrol_fr
    | (with_reducible refine Frame.ite ?_ ?_)
    | ((with_reducible apply Sub.within hfw); exact rfl)
    | ((with_reducible apply Sub.within hfb); exact rfl)
    | ((with_reducible apply Mixed.of); exact rfl)
    | (apply hfb.bit (i := 17) rfl)
    | (apply hfb.bit (i := 18) rfl)
    | (extract_lets)
    | split
    | (intro _ _ _)
    | (intro _ e; have _hk : Frame _ _ _ _ := e)
    | (intro _ e; cases e)
    | dsimp only
    | (dsimp +zetaDelta only))

theorem State.signNext_fr {fw fb : Nat} {s0 : State} (s : State) (fail : Nat) (hK : Frame fw fb s0 s) (hfw : Sub 147573952589676412928 fw := by exact Sub.within hfw rfl) (hfb : Sub 262144 fb := by exact Sub.within hfb rfl) : (State.signNext s fail).fr fw fb s0 := by
  unfold State.signNext
  dsimp only
  split
  · exact hK
  · split
    · exact hK
    · split
      · exact hK
      · refine State.bump_fr _ _ _ (State.wr_fr _ _ _ (State.wr_fr _ _ _ (State.wr_fr _ _ _ (hK.set hfw rfl rfl ⟨rfl, id, id, id, id, fun _ => Nat.le_refl _, ?_, Nat.le_refl _⟩))))
        show s.sec.reserved ≤ if s.rd SEC.SIG_NEXT.NEXT = s.sec.reserved then s.rd SEC.SIG_NEXT.NEXT + 4096 else s.sec.reserved
        split <;> omega

theorem State.signNext_fr_ok {fw fb : Nat} {s0 u : State} {s : State} {fail : Nat} {x0} (e : State.signNext s fail = .ok x0 u) (hK : Frame fw fb s0 s) (hfw : Sub 147573952589676412928 fw := by exact Sub.within hfw rfl) (hfb : Sub 262144 fb := by exact Sub.within hfb rfl) : Frame fw fb s0 u := by
  have := State.signNext_fr s fail hK
  rw [e] at this
  exact this

theorem State.signNext_fr_refused {fw fb : Nat} {s0 u : State} {s : State} {fail : Nat} {x0} {x1} (e : State.signNext s fail = .refused x0 x1 u) (hK : Frame fw fb s0 s) (hfw : Sub 147573952589676412928 fw := by exact Sub.within hfw rfl) (hfb : Sub 262144 fb := by exact Sub.within hfb rfl) : Frame fw fb s0 u := by
  have := State.signNext_fr s fail hK
  rw [e] at this
  exact this

theorem State.deliver_fr {fw fb : Nat} {s0 : State} (s : State) (c : Cmd) (l : List Nat) (index : Nat) (hK : Frame fw fb s0 s) (hfw : Sub 147573952589676415496 fw := by exact Sub.within hfw rfl) : Frame fw fb s0 (State.deliver s c l index) := by
  unfold State.deliver
  repeat' (first
    | with_reducible assumption
    | with_reducible apply State.doneWith_fr
    | with_reducible apply State.hostBytes_fr
    | (with_reducible refine Frame.ite ?_ ?_)
    | ((with_reducible apply Sub.within hfw); exact rfl)
    | ((with_reducible apply Sub.within hfb); exact rfl)
    | ((with_reducible apply Mixed.of); exact rfl)
    | (extract_lets)
    | split
    | (intro _ _ _)
    | (intro _ e; have _hk : Frame _ _ _ _ := e)
    | (intro _ e; cases e)
    | dsimp only
    | (dsimp +zetaDelta only)
    | (fail_if_no_progress ((with_reducible refine Frame.upd ?_ hfw ?_ rfl ⟨rfl, rfl, rfl⟩); rotate_left; exact rfl)))

theorem attest_fr {fw fb : Nat} {s0 : State} (fail : Nat) (s : State) (c : Cmd) (hK : Frame fw fb s0 s) (hfw : Sub 147573952589676415496 fw := by exact Sub.within hfw rfl) (hfb : Sub 262144 fb := by exact Sub.within hfb rfl) : Frame fw fb s0 (attest fail s c) := by
  unfold attest
  repeat' (first
    | with_reducible assumption
    | with_reducible apply State.deliver_fr
    | with_reducible apply State.failWith_fr
    | with_reducible apply State.signNext_fr
    | (with_reducible apply State.signNext_fr_ok; with_reducible assumption)
    | (with_reducible apply State.signNext_fr_refused; with_reducible assumption)
    | (with_reducible refine Frame.ite ?_ ?_)
    | ((with_reducible apply Sub.within hfw); exact rfl)
    | ((with_reducible apply Sub.within hfb); exact rfl)
    | ((with_reducible apply Mixed.of); exact rfl)
    | (apply hfb.bit (i := 18) rfl)
    | (extract_lets)
    | split
    | (intro _ _ _)
    | (intro _ e; have _hk : Frame _ _ _ _ := e)
    | (intro _ e; cases e)
    | dsimp only
    | (dsimp +zetaDelta only))

theorem execAttest_fr {fw fb : Nat} {s0 : State} (k fail : Nat) (s : State) (hK : Frame fw fb s0 s) (hfw : Sub 147573952589676415496 fw := by exact Sub.within hfw rfl) (hfb : Sub 262144 fb := by exact Sub.within hfb rfl) : ∀ u, execAttest k fail s = .next u → Frame fw fb s0 u := by
  unfold execAttest
  repeat' (first
    | with_reducible assumption
    | with_reducible apply State.runCmd_fr
    | with_reducible apply attest_fr
    | (with_reducible refine Frame.ite ?_ ?_)
    | ((with_reducible apply Sub.within hfw); exact rfl)
    | ((with_reducible apply Sub.within hfb); exact rfl)
    | ((with_reducible apply Mixed.of); exact rfl)
    | (apply hfb.bit (i := 18) rfl)
    | (extract_lets)
    | split
    | (intro _ _ _)
    | (intro _ e; have _hk : Frame _ _ _ _ := e)
    | (intro _ e; cases e)
    | dsimp only
    | (dsimp +zetaDelta only))

theorem reportRead_fr {fw fb : Nat} {s0 : State} (h : Nat) (s : State) (hK : Frame fw fb s0 s) (hfw : Sub 147573952589676412928 fw := by exact Sub.within hfw rfl) : Frame fw fb s0 (reportRead h s).2 := by
  unfold reportRead
  repeat' (first
    | with_reducible assumption
    | (with_reducible refine Frame.getD ?_ ?_)
    | (with_reducible refine Frame.ite ?_ ?_)
    | ((with_reducible apply Sub.within hfw); exact rfl)
    | ((with_reducible apply Sub.within hfb); exact rfl)
    | ((with_reducible apply Mixed.of); exact rfl)
    | (extract_lets)
    | split
    | (intro _ _ _)
    | (intro _ e; have _hk : Frame _ _ _ _ := e)
    | (intro _ e; cases e)
    | dsimp only
    | (dsimp +zetaDelta only)
    | (fail_if_no_progress ((with_reducible refine Frame.upd ?_ hfw ?_ rfl ⟨rfl, rfl, rfl⟩); rotate_left; exact rfl)))

theorem reportRead_fr_at {fw fb : Nat} {s0 : State} {u : State} {r0} {h : Nat} {s : State} (h_eq : reportRead h s = (r0, u)) (hK : Frame fw fb s0 s) (hfw : Sub 147573952589676412928 fw := by exact Sub.within hfw rfl) : Frame fw fb s0 u := by
  have := reportRead_fr h s hK
  rw [h_eq] at this
  exact this

theorem execReportDataRead_fr {fw fb : Nat} {s0 : State} (src h : Nat) (s : State) (hK : Frame fw fb s0 s) (hfw : Sub 147573952589676412944 fw := by exact Sub.within hfw rfl) (hfb : Sub 1 fb := by exact Sub.within hfb rfl) : ∀ u, execReportDataRead src h s = .next u → Frame fw fb s0 u := by
  unfold execReportDataRead
  repeat' (first
    | with_reducible assumption
    | with_reducible apply State.emit_fr
    | with_reducible apply State.viaSource_fr
    | with_reducible apply reportRead_fr
    | (with_reducible apply reportRead_fr_at; with_reducible assumption)
    | (with_reducible refine Frame.ite ?_ ?_)
    | ((with_reducible apply Sub.within hfw); exact rfl)
    | ((with_reducible apply Sub.within hfb); exact rfl)
    | ((with_reducible apply Mixed.of); exact rfl)
    | (apply hfb.bit (i := 0) rfl)
    | (extract_lets)
    | split
    | (intro _ _ _)
    | (intro _ e; have _hk : Frame _ _ _ _ := e)
    | (intro _ e; cases e)
    | dsimp only
    | (dsimp +zetaDelta only))

theorem State.stageChunk_fr {fw fb : Nat} {s0 : State} (s : State) (c : Cmd) (hK : Frame fw fb s0 s) (hfw : Sub 147573952589676412928 fw := by exact Sub.within hfw rfl) (hfb : Sub 262144 fb := by exact Sub.within hfb rfl) : Frame fw fb s0 (State.stageChunk s c) := by
  unfold State.stageChunk
  repeat' (first
    | with_reducible assumption
    | with_reducible apply State.setBank_fr
    | with_reducible apply State.wr_fr
    | (with_reducible refine Frame.getD ?_ ?_)
    | (with_reducible refine Frame.ite ?_ ?_)
    | ((with_reducible apply Sub.within hfw); exact rfl)
    | ((with_reducible apply Sub.within hfb); exact rfl)
    | ((with_reducible apply Mixed.of); exact rfl)
    | (apply hfb.bit (i := 18) rfl)
    | (extract_lets)
    | split
    | (intro _ _ _)
    | (intro _ e; have _hk : Frame _ _ _ _ := e)
    | (intro _ e; cases e)
    | dsimp only
    | (dsimp +zetaDelta only))

theorem execFwStage_fr {fw fb : Nat} {s0 : State} (k : Nat) (s : State) (hK : Frame fw fb s0 s) (hfw : Sub 147573952589676415488 fw := by exact Sub.within hfw rfl) (hfb : Sub 262144 fb := by exact Sub.within hfb rfl) : ∀ u, execFwStage k s = .next u → Frame fw fb s0 u := by
  unfold execFwStage
  repeat' (first
    | with_reducible assumption
    | with_reducible apply State.doneWith_fr
    | with_reducible apply State.runCmd_fr
    | with_reducible apply State.stageChunk_fr
    | (with_reducible refine Frame.ite ?_ ?_)
    | ((with_reducible apply Sub.within hfw); exact rfl)
    | ((with_reducible apply Sub.within hfb); exact rfl)
    | ((with_reducible apply Mixed.of); exact rfl)
    | (apply hfb.bit (i := 18) rfl)
    | (extract_lets)
    | split
    | (intro _ _ _)
    | (intro _ e; have _hk : Frame _ _ _ _ := e)
    | (intro _ e; cases e)
    | dsimp only
    | (dsimp +zetaDelta only))

theorem fwFinal_fr {fw fb : Nat} {s0 : State} (s : State) (c : Cmd) (hK : Frame fw fb s0 s) (hfw : Sub 147573952589676415488 fw := by exact Sub.within hfw rfl) (hfb : Sub 262144 fb := by exact Sub.within hfb rfl) : Frame fw fb s0 (fwFinal s c) := by
  unfold fwFinal
  repeat' (first
    | with_reducible assumption
    | with_reducible apply State.bump_fr
    | with_reducible apply State.doneWith_fr
    | with_reducible apply State.failWith_fr
    | with_reducible apply State.stageChunk_fr
    | with_reducible apply State.wr_fr
    | (with_reducible refine Frame.ite ?_ ?_)
    | ((with_reducible apply Sub.within hfw); exact rfl)
    | ((with_reducible apply Sub.within hfb); exact rfl)
    | ((with_reducible apply Mixed.of); exact rfl)
    | (apply hfb.bit (i := 18) rfl)
    | (extract_lets)
    | split
    | (intro _ _ _)
    | (intro _ e; have _hk : Frame _ _ _ _ := e)
    | (intro _ e; cases e)
    | dsimp only
    | (dsimp +zetaDelta only))

theorem execFwStageFinal_fr {fw fb : Nat} {s0 : State} (k : Nat) (s : State) (hK : Frame fw fb s0 s) (hfw : Sub 147573952589676415488 fw := by exact Sub.within hfw rfl) (hfb : Sub 262144 fb := by exact Sub.within hfb rfl) : ∀ u, execFwStageFinal k s = .next u → Frame fw fb s0 u := by
  unfold execFwStageFinal
  repeat' (first
    | with_reducible assumption
    | with_reducible apply State.runCmd_fr
    | with_reducible apply fwFinal_fr
    | (with_reducible refine Frame.ite ?_ ?_)
    | ((with_reducible apply Sub.within hfw); exact rfl)
    | ((with_reducible apply Sub.within hfb); exact rfl)
    | ((with_reducible apply Mixed.of); exact rfl)
    | (apply hfb.bit (i := 18) rfl)
    | (extract_lets)
    | split
    | (intro _ _ _)
    | (intro _ e; have _hk : Frame _ _ _ _ := e)
    | (intro _ e; cases e)
    | dsimp only
    | (dsimp +zetaDelta only))

theorem fwAbort_fr {fw fb : Nat} {s0 : State} (s : State) (c : Cmd) (hK : Frame fw fb s0 s) (hfw : Sub 147573952589676415488 fw := by exact Sub.within hfw rfl) (hfb : Sub 262144 fb := by exact Sub.within hfb rfl) : Frame fw fb s0 (fwAbort s c) := by
  unfold fwAbort
  repeat' (first
    | with_reducible assumption
    | with_reducible apply State.doneWith_fr
    | with_reducible apply State.setBank_fr
    | with_reducible apply State.wr_fr
    | (with_reducible refine Frame.ite ?_ ?_)
    | ((with_reducible apply Sub.within hfw); exact rfl)
    | ((with_reducible apply Sub.within hfb); exact rfl)
    | ((with_reducible apply Mixed.of); exact rfl)
    | (apply hfb.bit (i := 18) rfl)
    | (extract_lets)
    | split
    | (intro _ _ _)
    | (intro _ e; have _hk : Frame _ _ _ _ := e)
    | (intro _ e; cases e)
    | dsimp only
    | (dsimp +zetaDelta only))

theorem execFwStageAbort_fr {fw fb : Nat} {s0 : State} (k : Nat) (s : State) (hK : Frame fw fb s0 s) (hfw : Sub 147573952589676415488 fw := by exact Sub.within hfw rfl) (hfb : Sub 262144 fb := by exact Sub.within hfb rfl) : ∀ u, execFwStageAbort k s = .next u → Frame fw fb s0 u := by
  unfold execFwStageAbort
  repeat' (first
    | with_reducible assumption
    | with_reducible apply State.runCmd_fr
    | with_reducible apply fwAbort_fr
    | (with_reducible refine Frame.ite ?_ ?_)
    | ((with_reducible apply Sub.within hfw); exact rfl)
    | ((with_reducible apply Sub.within hfb); exact rfl)
    | ((with_reducible apply Mixed.of); exact rfl)
    | (apply hfb.bit (i := 18) rfl)
    | (extract_lets)
    | split
    | (intro _ _ _)
    | (intro _ e; have _hk : Frame _ _ _ _ := e)
    | (intro _ e; cases e)
    | dsimp only
    | (dsimp +zetaDelta only))

theorem fwActivate_fr {fw fb : Nat} {s0 : State} (fail : Nat) (s : State) (c : Cmd) (hK : Frame fw fb s0 s) (hfw : Sub 184467440737095518928 fw := by exact Sub.within hfw rfl) (hfb : Sub 393216 fb := by exact Sub.within hfb rfl) : Frame fw fb s0 (fwActivate fail s c) := by
  unfold fwActivate
  repeat' (first
    | with_reducible assumption
    | with_reducible apply State.doneWith_fr
    | with_reducible apply State.failWith_fr
    | with_reducible apply State.record_fr
    | with_reducible apply State.wr_fr
    | (with_reducible refine Frame.ite ?_ ?_)
    | ((with_reducible apply Sub.within hfw); exact rfl)
    | ((with_reducible apply Sub.within hfb); exact rfl)
    | ((with_reducible apply Mixed.of); exact rfl)
    | (apply hfb.bit (i := 17) rfl)
    | (apply hfb.bit (i := 18) rfl)
    | (extract_lets)
    | split
    | (intro _ _ _)
    | (intro _ e; have _hk : Frame _ _ _ _ := e)
    | (intro _ e; cases e)
    | dsimp only
    | (dsimp +zetaDelta only)
    | (fail_if_no_progress ((with_reducible refine Frame.upd ?_ hfw ?_ rfl ⟨rfl, rfl, rfl⟩); rotate_left; exact rfl)))

theorem execFwActivate_fr {fw fb : Nat} {s0 : State} (k fail : Nat) (s : State) (hK : Frame fw fb s0 s) (hfw : Sub 184467440737095518928 fw := by exact Sub.within hfw rfl) (hfb : Sub 393216 fb := by exact Sub.within hfb rfl) : ∀ u, execFwActivate k fail s = .next u → Frame fw fb s0 u := by
  unfold execFwActivate
  repeat' (first
    | with_reducible assumption
    | with_reducible apply State.runCmd_fr
    | with_reducible apply fwActivate_fr
    | (with_reducible refine Frame.ite ?_ ?_)
    | ((with_reducible apply Sub.within hfw); exact rfl)
    | ((with_reducible apply Sub.within hfb); exact rfl)
    | ((with_reducible apply Mixed.of); exact rfl)
    | (apply hfb.bit (i := 17) rfl)
    | (apply hfb.bit (i := 18) rfl)
    | (extract_lets)
    | split
    | (intro _ _ _)
    | (intro _ e; have _hk : Frame _ _ _ _ := e)
    | (intro _ e; cases e)
    | dsimp only
    | (dsimp +zetaDelta only))

theorem svnCommit_fr {fw fb : Nat} {s0 : State} (y : Nat) (s : State) (hK : Frame fw fb s0 s) (hfw : Sub 147573952589676413136 fw := by exact Sub.within hfw rfl) (hfb : Sub 393216 fb := by exact Sub.within hfb rfl) : Frame fw fb s0 (svnCommit y s) := by
  unfold svnCommit
  split
  · refine State.record_fr _ _ _ _ _ (State.wr_fr _ _ _ (State.wr_fr _ _ _ (hK.set hfw rfl rfl ⟨rfl, id, id, id, id, ?_, Nat.le_refl _, Nat.le_refl _⟩)))
    intro z
    show _ ≤ (aFind (aPut s.sec.floors y (max (s.floor y) (s.rd (SEC.FW_STATE.SVN y)))) z).getD 1
    by_cases h : z = y
    · subst h
      rw [aFind_aPut_self]
      exact Nat.le_max_left (s.floor z) _
    · rw [aFind_aPut_other _ _ _ _ h]
  · exact hK

theorem execSvnCommit_fr {fw fb : Nat} {s0 : State} (typ : Nat) (s : State) (hK : Frame fw fb s0 s) (hfw : Sub 147573952589676413136 fw := by exact Sub.within hfw rfl) (hfb : Sub 393216 fb := by exact Sub.within hfb rfl) : ∀ u, execSvnCommit typ s = .next u → Frame fw fb s0 u := by
  unfold execSvnCommit
  repeat' (first
    | with_reducible assumption
    | with_reducible apply svnCommit_fr
    | (with_reducible refine Frame.ite ?_ ?_)
    | ((with_reducible apply Sub.within hfw); exact rfl)
    | ((with_reducible apply Sub.within hfb); exact rfl)
    | ((with_reducible apply Mixed.of); exact rfl)
    | (apply hfb.bit (i := 17) rfl)
    | (apply hfb.bit (i := 18) rfl)
    | (extract_lets)
    | split
    | (intro _ _ _)
    | (intro _ e; have _hk : Frame _ _ _ _ := e)
    | (intro _ e; cases e)
    | dsimp only
    | (dsimp +zetaDelta only))

end Sys2Proof.Machine
end

