-- ==== Sys2Proof/Laws/Frame/Accept.lean ====
section
/-! SUPPORT. What the operations of Machine/Accept.lean leave as it was (`Frame`): one lemma each. -/

set_option linter.unreachableTactic false
set_option linter.unusedTactic false

namespace Sys2Proof.Machine

set_option Elab.async false

open Sys2Proof

theorem State.enter_fr {fw fb : Nat} {s0 : State} (s : State) (c : Cmd) (hK : Frame fw fb s0 s) (hfw : Sub 147573952589676416720 fw := by exact Sub.within hfw rfl) (hfb : Sub 393216 fb := by exact Sub.within hfb rfl) : Frame fw fb s0 (State.enter s c) := by
  have k0 : ∀ (t : State) x0 x1, Frame fw fb s0 t → Frame fw fb s0 { t with cmds := x0, nextCmd := x1 } := fun t x0 x1 ht => Frame.upd ht hfw rfl rfl ⟨rfl, rfl, rfl⟩
  unfold State.enter
  repeat' (first
    | with_reducible assumption
    | with_reducible apply State.authRefused_fr
    | with_reducible apply State.authorise_fr
    | (with_reducible apply State.authorise_fr_at; with_reducible assumption)
    | with_reducible apply State.failWith_fr
    | (with_reducible refine Frame.ite ?_ ?_)
    | ((with_reducible apply Sub.within hfw); exact rfl)
    | ((with_reducible apply Sub.within hfb); exact rfl)
    | ((with_reducible apply Mixed.of); exact rfl)
    | (apply hfb.bit (i := 17) rfl)
    | (apply hfb.bit (i := 18) rfl)
    | (extract_lets)
    | (fail_if_no_progress (with_reducible refine k0 _ _ _ ?_))
    | split
    | (intro _ _ _)
    | (intro _ e; have _hk : Frame _ _ _ _ := e)
    | (intro _ e; cases e)
    | dsimp only
    | (dsimp +zetaDelta only)
    | (fail_if_no_progress ((with_reducible refine Frame.upd ?_ hfw ?_ rfl ⟨rfl, rfl, rfl⟩); rotate_left; exact rfl)))

theorem State.takeHead_fr {fw fb : Nat} {s0 : State} (s : State) (n : Nat) (hK : Frame fw fb s0 s) (hfw : Sub 4352 fw := by exact Sub.within hfw rfl) (hfb : Sub 2 fb := by exact Sub.within hfb rfl) : Frame fw fb s0 (State.takeHead s n) := by
  have k0 : ∀ (t : State) x0, Frame fw fb s0 t → Frame fw fb s0 { t with grants := x0 } := fun t x0 ht => Frame.upd ht hfw rfl rfl ⟨rfl, rfl, rfl⟩
  unfold State.takeHead
  repeat' (first
    | with_reducible assumption
    | with_reducible apply State.chanRegs_fr
    | with_reducible apply State.setChan_fr
    | (with_reducible refine Frame.ite ?_ ?_)
    | ((with_reducible apply Sub.within hfw); exact rfl)
    | ((with_reducible apply Sub.within hfb); exact rfl)
    | ((with_reducible apply Mixed.of); exact rfl)
    | (apply hfb.bit (i := 1) rfl)
    | (extract_lets)
    | (fail_if_no_progress (with_reducible refine k0 _ _ ?_))
    | split
    | (intro _ _ _)
    | (intro _ e; have _hk : Frame _ _ _ _ := e)
    | (intro _ e; cases e)
    | dsimp only
    | (dsimp +zetaDelta only)
    | (fail_if_no_progress ((with_reducible refine Frame.upd ?_ hfw ?_ rfl ⟨rfl, rfl, rfl⟩); rotate_left; exact rfl)))

theorem commandAccept_fr {fw fb : Nat} {s0 : State} (n : Nat) (s : State) (hK : Frame fw fb s0 s) (hfw : Sub 147573952589676445656 fw := by exact Sub.within hfw rfl) (hfb : Sub 393218 fb := by exact Sub.within hfb rfl) : Frame fw fb s0 (commandAccept n s) := by
  unfold commandAccept
  repeat' (first
    | with_reducible assumption
    | with_reducible apply State.chanRegs_fr
    | with_reducible apply State.chanSignal_fr
    | with_reducible apply State.enter_fr
    | with_reducible apply State.errReply_fr
    | with_reducible apply State.takeHead_fr
    | (with_reducible refine Frame.ite ?_ ?_)
    | ((with_reducible apply Sub.within hfw); exact rfl)
    | ((with_reducible apply Sub.within hfb); exact rfl)
    | ((with_reducible apply Mixed.of); exact rfl)
    | (apply hfb.bit (i := 1) rfl)
    | (apply hfb.bit (i := 17) rfl)
    | (apply hfb.bit (i := 18) rfl)
    | (extract_lets)
    | split
    | (intro _ _ _)
    | (intro _ e; have _hk : Frame _ _ _ _ := e)
    | (intro _ e; cases e)
    | dsimp only
    | (dsimp +zetaDelta only))

theorem execCommandAccept_fr {fw fb : Nat} {s0 : State} (chan : Nat) (s : State) (hK : Frame fw fb s0 s) (hfw : Sub 147573952589676445656 fw := by exact Sub.within hfw rfl) (hfb : Sub 393218 fb := by exact Sub.within hfb rfl) : ∀ u, execCommandAccept chan s = .next u → Frame fw fb s0 u := by
  unfold execCommandAccept
  repeat' (first
    | with_reducible assumption
    | with_reducible apply commandAccept_fr
    | (with_reducible refine Frame.ite ?_ ?_)
    | ((with_reducible apply Sub.within hfw); exact rfl)
    | ((with_reducible apply Sub.within hfb); exact rfl)
    | ((with_reducible apply Mixed.of); exact rfl)
    | (apply hfb.bit (i := 1) rfl)
    | (apply hfb.bit (i := 17) rfl)
    | (apply hfb.bit (i := 18) rfl)
    | (extract_lets)
    | split
    | (intro _ _ _)
    | (intro _ e; have _hk : Frame _ _ _ _ := e)
    | (intro _ e; cases e)
    | dsimp only
    | (dsimp +zetaDelta only))

theorem execMoverRequestIssue_fr {fw fb : Nat} {s0 : State} (mover : Nat) (retried failed : List Nat) (s : State) (hK : Frame fw fb s0 s) (hfw : Sub 3543072076485563452122 fw := by exact Sub.within hfw rfl) (hfb : Sub 170940 fb := by exact Sub.within hfb rfl) : ∀ u, execMoverRequestIssue mover retried failed s = .next u → Frame fw fb s0 u := by
  unfold execMoverRequestIssue
  repeat' (first
    | with_reducible assumption
    | with_reducible apply State.noteArrivals_fr
    | with_reducible apply State.readErrors_fr
    | with_reducible apply moverIssue_fr
    | (with_reducible refine Frame.ite ?_ ?_)
    | ((with_reducible apply Sub.within hfw); exact rfl)
    | ((with_reducible apply Sub.within hfb); exact rfl)
    | ((with_reducible apply Mixed.of); exact rfl)
    | (apply hfb.bit (i := 2) rfl)
    | (apply hfb.bit (i := 3) rfl)
    | (apply hfb.bit (i := 4) rfl)
    | (apply hfb.bit (i := 5) rfl)
    | (apply hfb.bit (i := 7) rfl)
    | (apply hfb.bit (i := 8) rfl)
    | (apply hfb.bit (i := 9) rfl)
    | (apply hfb.bit (i := 11) rfl)
    | (apply hfb.bit (i := 12) rfl)
    | (apply hfb.bit (i := 15) rfl)
    | (apply hfb.bit (i := 17) rfl)
    | (extract_lets)
    | split
    | (intro _ _ _)
    | (intro _ e; have _hk : Frame _ _ _ _ := e)
    | (intro _ e; cases e)
    | dsimp only
    | (dsimp +zetaDelta only))

theorem execTileStart_fr {fw fb : Nat} {s0 : State} (die : Nat) (core : Reader) (s : State) (hK : Frame fw fb s0 s) (hfw : Sub 1181888835056948415192 fw := by exact Sub.within hfw rfl) (hfb : Sub 170768 fb := by exact Sub.within hfb rfl) : ∀ u, execTileStart die core s = .next u → Frame fw fb s0 u := by
  unfold execTileStart
  repeat' (first
    | with_reducible assumption
    | with_reducible apply State.readErrors_fr
    | with_reducible apply tileStart_fr
    | (with_reducible refine Frame.ite ?_ ?_)
    | ((with_reducible apply Sub.within hfw); exact rfl)
    | ((with_reducible apply Sub.within hfb); exact rfl)
    | ((with_reducible apply Mixed.of); exact rfl)
    | (apply hfb.bit (i := 4) rfl)
    | (apply hfb.bit (i := 8) rfl)
    | (apply hfb.bit (i := 9) rfl)
    | (apply hfb.bit (i := 11) rfl)
    | (apply hfb.bit (i := 12) rfl)
    | (apply hfb.bit (i := 15) rfl)
    | (apply hfb.bit (i := 17) rfl)
    | (extract_lets)
    | split
    | (intro _ _ _)
    | (intro _ e; have _hk : Frame _ _ _ _ := e)
    | (intro _ e; cases e)
    | dsimp only
    | (dsimp +zetaDelta only))

theorem execProgramRecordStart_fr {fw fb : Nat} {s0 : State} (die : Reader) (s : State) (hK : Frame fw fb s0 s) (hfw : Sub 12987805675543819913946 fw := by exact Sub.within hfw rfl) (hfb : Sub 170876 fb := by exact Sub.within hfb rfl) : ∀ u, execProgramRecordStart die s = .next u → Frame fw fb s0 u := by
  unfold execProgramRecordStart
  repeat' (first
    | with_reducible assumption
    | with_reducible apply State.readErrors_fr
    | with_reducible apply recordStart_fr
    | (with_reducible refine Frame.ite ?_ ?_)
    | ((with_reducible apply Sub.within hfw); exact rfl)
    | ((with_reducible apply Sub.within hfb); exact rfl)
    | ((with_reducible apply Mixed.of); exact rfl)
    | (apply hfb.bit (i := 2) rfl)
    | (apply hfb.bit (i := 3) rfl)
    | (apply hfb.bit (i := 4) rfl)
    | (apply hfb.bit (i := 5) rfl)
    | (apply hfb.bit (i := 6) rfl)
    | (apply hfb.bit (i := 8) rfl)
    | (apply hfb.bit (i := 9) rfl)
    | (apply hfb.bit (i := 11) rfl)
    | (apply hfb.bit (i := 12) rfl)
    | (apply hfb.bit (i := 15) rfl)
    | (apply hfb.bit (i := 17) rfl)
    | (extract_lets)
    | split
    | (intro _ _ _)
    | (intro _ e; have _hk : Frame _ _ _ _ := e)
    | (intro _ e; cases e)
    | dsimp only
    | (dsimp +zetaDelta only))

theorem execFabricRequestServe_fr {fw fb : Nat} {s0 : State} (packet : Nat) (retried failed : List Nat) (s : State) (hK : Frame fw fb s0 s) (hfw : Sub 10626621660052308036312 fw := by exact Sub.within hfw rfl) (hfb : Sub 170896 fb := by exact Sub.within hfb rfl) : ∀ u, execFabricRequestServe packet retried failed s = .next u → Frame fw fb s0 u := by
  unfold execFabricRequestServe
  repeat' (first
    | with_reducible assumption
    | with_reducible apply State.noteArrivals_fr
    | with_reducible apply State.readErrors_fr
    | with_reducible apply fabricServe_fr
    | (with_reducible refine Frame.ite ?_ ?_)
    | ((with_reducible apply Sub.within hfw); exact rfl)
    | ((with_reducible apply Sub.within hfb); exact rfl)
    | ((with_reducible apply Mixed.of); exact rfl)
    | (apply hfb.bit (i := 4) rfl)
    | (apply hfb.bit (i := 7) rfl)
    | (apply hfb.bit (i := 8) rfl)
    | (apply hfb.bit (i := 9) rfl)
    | (apply hfb.bit (i := 11) rfl)
    | (apply hfb.bit (i := 12) rfl)
    | (apply hfb.bit (i := 15) rfl)
    | (apply hfb.bit (i := 17) rfl)
    | (extract_lets)
    | split
    | (intro _ _ _)
    | (intro _ e; have _hk : Frame _ _ _ _ := e)
    | (intro _ e; cases e)
    | dsimp only
    | (dsimp +zetaDelta only))

end Sys2Proof.Machine
end

