-- ==== Sys2Proof/Laws/Frame/Contexts.lean ====
section
/-! SUPPORT. What the operations of Machine/Contexts.lean leave as it was (`Frame`): one lemma each. -/

set_option linter.unreachableTactic false
set_option linter.unusedTactic false

namespace Sys2Proof.Machine

set_option Elab.async false

open Sys2Proof

theorem ctxCreate_fr {fw fb : Nat} {s0 : State} (s : State) (c : Cmd) (hK : Frame fw fb s0 s) (hfw : Sub 70368744278538 fw := by exact Sub.within hfw rfl) (hfb : Sub 4108 fb := by exact Sub.within hfb rfl) : Frame fw fb s0 (ctxCreate s c) := by
  have k0 : ∀ (t : State) x0, Frame fw fb s0 t → Frame fw fb s0 { t with accounts := x0 } := fun t x0 ht => Frame.upd ht hfw rfl rfl ⟨rfl, rfl, rfl⟩
  unfold ctxCreate
  repeat' (first
    | with_reducible assumption
    | (with_reducible refine State.allocRun_fr _ _ _ _ _ _ ?_ ?_)
    | (with_reducible apply State.allocRun_fr_of; with_reducible assumption)
    | (with_reducible apply State.allocRun_fr_at; with_reducible assumption)
    | with_reducible apply State.doneWith_fr
    | with_reducible apply State.failWith_fr
    | with_reducible apply State.nameSlot_fr
    | with_reducible apply State.setCtx_fr
    | with_reducible apply State.wr_fr
    | (with_reducible refine Frame.ite ?_ ?_)
    | ((with_reducible apply Sub.within hfw); exact rfl)
    | ((with_reducible apply Sub.within hfb); exact rfl)
    | ((with_reducible apply Mixed.of); exact rfl)
    | (apply hfb.bit (i := 2) rfl)
    | (apply hfb.bit (i := 3) rfl)
    | (apply hfb.bit (i := 12) rfl)
    | (dsimp only [State.wrs, State.regs0, List.foldl])
    | (extract_lets)
    | (fail_if_no_progress (with_reducible refine k0 _ _ ?_))
    | split
    | (intro _ _ _)
    | (intro _ e; have _hk : Frame _ _ _ _ := e)
    | (intro _ e; cases e)
    | dsimp only
    | (dsimp +zetaDelta only)
    | (fail_if_no_progress ((with_reducible refine Frame.upd ?_ hfw ?_ rfl ⟨rfl, rfl, rfl⟩); rotate_left; exact rfl)))

theorem execCtxCreate_fr {fw fb : Nat} {s0 : State} (k : Nat) (s : State) (hK : Frame fw fb s0 s) (hfw : Sub 70368744278538 fw := by exact Sub.within hfw rfl) (hfb : Sub 4108 fb := by exact Sub.within hfb rfl) : ∀ u, execCtxCreate k s = .next u → Frame fw fb s0 u := by
  unfold execCtxCreate
  repeat' (first
    | with_reducible assumption
    | with_reducible apply State.runCmd_fr
    | with_reducible apply ctxCreate_fr
    | (with_reducible refine Frame.ite ?_ ?_)
    | ((with_reducible apply Sub.within hfw); exact rfl)
    | ((with_reducible apply Sub.within hfb); exact rfl)
    | ((with_reducible apply Mixed.of); exact rfl)
    | (apply hfb.bit (i := 2) rfl)
    | (apply hfb.bit (i := 3) rfl)
    | (apply hfb.bit (i := 12) rfl)
    | (extract_lets)
    | split
    | (intro _ _ _)
    | (intro _ e; have _hk : Frame _ _ _ _ := e)
    | (intro _ e; cases e)
    | dsimp only
    | (dsimp +zetaDelta only))

theorem ctxDestroy_fr {fw fb : Nat} {s0 : State} (s : State) (c : Cmd) (hK : Frame fw fb s0 s) (hfw : Sub 1149368172775944 fw := by exact Sub.within hfw rfl) (hfb : Sub 4892 fb := by exact Sub.within hfb rfl) : Frame fw fb s0 (ctxDestroy s c) := by
  have k0 : ∀ (t : State) x0, Frame fw fb s0 t → Frame fw fb s0 { t with ctxs := x0 } := fun t x0 ht => Frame.upd ht hfw rfl rfl ⟨rfl, rfl, rfl⟩
  have k1 : ∀ (t : State) x0 x1 x2 x3 x4 x5 x6 x7 x8 x9 x10, Frame fw fb s0 t → Frame fw fb s0 { t with allocs := x0, ranges := x1, wants := x2, remaps := x3, tlbs := x4, routers := x5, areas := x6, stepSlots := x7, entries := x8, variants := x9, programs := x10 } := fun t x0 x1 x2 x3 x4 x5 x6 x7 x8 x9 x10 ht => Frame.upd ht hfw rfl rfl ⟨rfl, rfl, rfl⟩
  unfold ctxDestroy
  repeat' (first
    | with_reducible assumption
    | with_reducible apply State.doneWith_fr
    | with_reducible apply State.failWith_fr
    | with_reducible apply State.kittyFree_fr
    | with_reducible apply State.nameSlot_fr
    | with_reducible apply State.serveRegs_fr
    | with_reducible apply State.unpinOne_fr
    | with_reducible apply State.wr_fr
    | with_reducible apply unmapOne_fr
    | (with_reducible refine Frame.foldl ?_ ?_)
    | (with_reducible refine Frame.foldr ?_ ?_)
    | (with_reducible refine Frame.ite ?_ ?_)
    | ((with_reducible apply Sub.within hfw); exact rfl)
    | ((with_reducible apply Sub.within hfb); exact rfl)
    | ((with_reducible apply Mixed.of); exact rfl)
    | (apply hfb.bit (i := 2) rfl)
    | (apply hfb.bit (i := 3) rfl)
    | (apply hfb.bit (i := 4) rfl)
    | (apply hfb.bit (i := 8) rfl)
    | (apply hfb.bit (i := 9) rfl)
    | (apply hfb.bit (i := 12) rfl)
    | (dsimp only [State.wrs, State.regs0, List.foldl])
    | (extract_lets)
    | (fail_if_no_progress (with_reducible refine k0 _ _ ?_))
    | (fail_if_no_progress (with_reducible refine k1 _ _ _ _ _ _ _ _ _ _ _ _ ?_))
    | split
    | (intro _ _ _)
    | (intro _ e; have _hk : Frame _ _ _ _ := e)
    | (intro _ e; cases e)
    | dsimp only
    | (dsimp +zetaDelta only)
    | (fail_if_no_progress ((with_reducible refine Frame.upd ?_ hfw ?_ rfl ⟨rfl, rfl, rfl⟩); rotate_left; exact rfl)))

theorem execCtxDestroy_fr {fw fb : Nat} {s0 : State} (k : Nat) (s : State) (hK : Frame fw fb s0 s) (hfw : Sub 1149368172775944 fw := by exact Sub.within hfw rfl) (hfb : Sub 4892 fb := by exact Sub.within hfb rfl) : ∀ u, execCtxDestroy k s = .next u → Frame fw fb s0 u := by
  unfold execCtxDestroy
  repeat' (first
    | with_reducible assumption
    | with_reducible apply State.runCmd_fr
    | with_reducible apply ctxDestroy_fr
    | (with_reducible refine Frame.ite ?_ ?_)
    | ((with_reducible apply Sub.within hfw); exact rfl)
    | ((with_reducible apply Sub.within hfb); exact rfl)
    | ((with_reducible apply Mixed.of); exact rfl)
    | (apply hfb.bit (i := 2) rfl)
    | (apply hfb.bit (i := 3) rfl)
    | (apply hfb.bit (i := 4) rfl)
    | (apply hfb.bit (i := 8) rfl)
    | (apply hfb.bit (i := 9) rfl)
    | (apply hfb.bit (i := 12) rfl)
    | (extract_lets)
    | split
    | (intro _ _ _)
    | (intro _ e; have _hk : Frame _ _ _ _ := e)
    | (intro _ e; cases e)
    | dsimp only
    | (dsimp +zetaDelta only))

theorem State.orphanRegs_fr {fw fb : Nat} {s0 : State} (s : State) (hK : Frame fw fb s0 s) (hfb : Sub 1 fb := by exact Sub.within hfb rfl) : Frame fw fb s0 (State.orphanRegs s) := by
  unfold State.orphanRegs
  repeat' (first
    | with_reducible assumption
    | with_reducible apply State.wr_fr
    | (with_reducible refine Frame.ite ?_ ?_)
    | ((with_reducible apply Sub.within hfw); exact rfl)
    | ((with_reducible apply Sub.within hfb); exact rfl)
    | ((with_reducible apply Mixed.of); exact rfl)
    | (apply hfb.bit (i := 0) rfl)
    | (extract_lets)
    | split
    | (intro _ _ _)
    | (intro _ e; have _hk : Frame _ _ _ _ := e)
    | (intro _ e; cases e)
    | dsimp only
    | (dsimp +zetaDelta only))

theorem State.adopt_fr {fw fb : Nat} {s0 : State} (h : Nat) (s : State) (n : Nat) (hK : Frame fw fb s0 s) (hfw : Sub 33554576 fw := by exact Sub.within hfw rfl) (hfb : Sub 5 fb := by exact Sub.within hfb rfl) : Frame fw fb s0 (State.adopt h s n) := by
  have k0 : ∀ (t : State) x0, Frame fw fb s0 t → Frame fw fb s0 { t with faults := x0 } := fun t x0 ht => Frame.upd ht hfw rfl rfl ⟨rfl, rfl, rfl⟩
  unfold State.adopt
  repeat' (first
    | with_reducible assumption
    | with_reducible apply State.raiseIf_fr
    | with_reducible apply State.wr_fr
    | (with_reducible refine Frame.ite ?_ ?_)
    | ((with_reducible apply Sub.within hfw); exact rfl)
    | ((with_reducible apply Sub.within hfb); exact rfl)
    | ((with_reducible apply Mixed.of); exact rfl)
    | (apply hfb.bit (i := 0) rfl)
    | (apply hfb.bit (i := 2) rfl)
    | (dsimp only [State.wrs, State.regs0, List.foldl])
    | (extract_lets)
    | (fail_if_no_progress (with_reducible refine k0 _ _ ?_))
    | split
    | (intro _ _ _)
    | (intro _ e; have _hk : Frame _ _ _ _ := e)
    | (intro _ e; cases e)
    | dsimp only
    | (dsimp +zetaDelta only)
    | (fail_if_no_progress ((with_reducible refine Frame.upd ?_ hfw ?_ rfl ⟨rfl, rfl, rfl⟩); rotate_left; exact rfl)))

theorem ctxAdopt_fr {fw fb : Nat} {s0 : State} (s : State) (c : Cmd) (hK : Frame fw fb s0 s) (hfw : Sub 33557136 fw := by exact Sub.within hfw rfl) (hfb : Sub 5 fb := by exact Sub.within hfb rfl) : Frame fw fb s0 (ctxAdopt s c) := by
  unfold ctxAdopt
  repeat' (first
    | with_reducible assumption
    | with_reducible apply State.adopt_fr
    | with_reducible apply State.doneWith_fr
    | with_reducible apply State.orphanRegs_fr
    | (with_reducible refine Frame.foldl ?_ ?_)
    | (with_reducible refine Frame.foldr ?_ ?_)
    | (with_reducible refine Frame.ite ?_ ?_)
    | ((with_reducible apply Sub.within hfw); exact rfl)
    | ((with_reducible apply Sub.within hfb); exact rfl)
    | ((with_reducible apply Mixed.of); exact rfl)
    | (apply hfb.bit (i := 0) rfl)
    | (apply hfb.bit (i := 2) rfl)
    | (extract_lets)
    | split
    | (intro _ _ _)
    | (intro _ e; have _hk : Frame _ _ _ _ := e)
    | (intro _ e; cases e)
    | dsimp only
    | (dsimp +zetaDelta only))

theorem execCtxAdopt_fr {fw fb : Nat} {s0 : State} (k : Nat) (s : State) (hK : Frame fw fb s0 s) (hfw : Sub 33557136 fw := by exact Sub.within hfw rfl) (hfb : Sub 5 fb := by exact Sub.within hfb rfl) : ∀ u, execCtxAdopt k s = .next u → Frame fw fb s0 u := by
  unfold execCtxAdopt
  repeat' (first
    | with_reducible assumption
    | with_reducible apply State.runCmd_fr
    | with_reducible apply ctxAdopt_fr
    | (with_reducible refine Frame.ite ?_ ?_)
    | ((with_reducible apply Sub.within hfw); exact rfl)
    | ((with_reducible apply Sub.within hfb); exact rfl)
    | ((with_reducible apply Mixed.of); exact rfl)
    | (apply hfb.bit (i := 0) rfl)
    | (apply hfb.bit (i := 2) rfl)
    | (extract_lets)
    | split
    | (intro _ _ _)
    | (intro _ e; have _hk : Frame _ _ _ _ := e)
    | (intro _ e; cases e)
    | dsimp only
    | (dsimp +zetaDelta only))

theorem setNumericsDone_fr {fw fb : Nat} {s0 : State} (c : Cmd) (s : State) (table : Option (List Nat)) (hK : Frame fw fb s0 s) (hfw : Sub 35336 fw := by exact Sub.within hfw rfl) : Frame fw fb s0 (setNumericsDone c s table) := by
  unfold setNumericsDone
  repeat' (first
    | with_reducible assumption
    | with_reducible apply State.doneWith_fr
    | with_reducible apply State.setCtx_fr
    | with_reducible apply State.tableWrite_fr
    | (with_reducible refine Frame.ite ?_ ?_)
    | ((with_reducible apply Sub.within hfw); exact rfl)
    | ((with_reducible apply Sub.within hfb); exact rfl)
    | ((with_reducible apply Mixed.of); exact rfl)
    | (extract_lets)
    | split
    | (intro _ _ _)
    | (intro _ e; have _hk : Frame _ _ _ _ := e)
    | (intro _ e; cases e)
    | dsimp only
    | (dsimp +zetaDelta only))

theorem setNumerics_fr {fw fb : Nat} {s0 : State} (s : State) (c : Cmd) (hK : Frame fw fb s0 s) (hfw : Sub 2361183241435479050762 fw := by exact Sub.within hfw rfl) (hfb : Sub 524 fb := by exact Sub.within hfb rfl) : Frame fw fb s0 (setNumerics s c) := by
  unfold setNumerics
  repeat' (first
    | with_reducible assumption
    | with_reducible apply State.dropGot_fr
    | with_reducible apply State.failWith_fr
    | with_reducible apply State.fetch_fr
    | (with_reducible apply State.fetch_fr_bytes; with_reducible assumption)
    | (with_reducible apply State.fetch_fr_stop; with_reducible assumption)
    | (with_reducible apply State.fetch_fr_bad; with_reducible assumption)
    | with_reducible apply setNumericsDone_fr
    | (with_reducible refine Frame.ite ?_ ?_)
    | ((with_reducible apply Sub.within hfw); exact rfl)
    | ((with_reducible apply Sub.within hfb); exact rfl)
    | ((with_reducible apply Mixed.of); exact rfl)
    | (apply hfb.bit (i := 2) rfl)
    | (apply hfb.bit (i := 3) rfl)
    | (apply hfb.bit (i := 9) rfl)
    | (extract_lets)
    | split
    | (intro _ _ _)
    | (intro _ e; have _hk : Frame _ _ _ _ := e)
    | (intro _ e; cases e)
    | dsimp only
    | (dsimp +zetaDelta only))

theorem execSetNumerics_fr {fw fb : Nat} {s0 : State} (k : Nat) (s : State) (hK : Frame fw fb s0 s) (hfw : Sub 2361183241435479050762 fw := by exact Sub.within hfw rfl) (hfb : Sub 524 fb := by exact Sub.within hfb rfl) : ∀ u, execSetNumerics k s = .next u → Frame fw fb s0 u := by
  unfold execSetNumerics
  repeat' (first
    | with_reducible assumption
    | with_reducible apply State.runCmd_fr
    | with_reducible apply setNumerics_fr
    | (with_reducible refine Frame.ite ?_ ?_)
    | ((with_reducible apply Sub.within hfw); exact rfl)
    | ((with_reducible apply Sub.within hfb); exact rfl)
    | ((with_reducible apply Mixed.of); exact rfl)
    | (apply hfb.bit (i := 2) rfl)
    | (apply hfb.bit (i := 3) rfl)
    | (apply hfb.bit (i := 9) rfl)
    | (extract_lets)
    | split
    | (intro _ _ _)
    | (intro _ e; have _hk : Frame _ _ _ _ := e)
    | (intro _ e; cases e)
    | dsimp only
    | (dsimp +zetaDelta only))

end Sys2Proof.Machine
end

