-- ==== Sys2Proof/Laws/Frame/Hosts.lean ====
section
/-! SUPPORT. What the operations of Machine/Hosts.lean leave as it was (`Frame`): one lemma each. -/

set_option linter.unreachableTactic false
set_option linter.unusedTactic false

namespace Sys2Proof.Machine

set_option Elab.async false

open Sys2Proof

theorem State.regs0_hostFields_fr {fw fb : Nat} {s0 : State} (s : State) (h : Nat) (hK : Frame fw fb s0 s) (hb : ∀ i ∈ ([0, 3, 8, 10, 12] : List Nat), fb.testBit i = true) :
    Frame fw fb s0 (s.regs0 (hostFields h)) := by
  unfold State.regs0
  have key : ∀ (l : List Fld) (t : State), Frame fw fb s0 t → (∀ f ∈ l, fb.testBit f.blk = true) → Frame fw fb s0 (l.foldl State.reg0 t) := by
    intro l
    induction l with
    | nil => exact fun _ ht _ => ht
    | cons f r ih => exact fun t ht hl => ih _ (State.reg0_fr _ _ ht (hl f (List.mem_cons_self ..))) (fun g hg => hl g (List.mem_cons_of_mem _ hg))
  refine key _ _ hK (fun f hf => hb _ ?_)
  simp only [hostFields, List.mem_cons, List.not_mem_nil, or_false] at hf
  rcases hf with hf | hf | hf | hf | hf | hf | hf | hf | hf | hf | hf | hf | hf | hf | hf | hf | hf | hf | hf <;> subst hf <;>
    first
    | exact (by decide : (3 : Nat) ∈ ([0, 3, 8, 10, 12] : List Nat))
    | exact (by decide : (8 : Nat) ∈ ([0, 3, 8, 10, 12] : List Nat))
    | exact (by decide : (0 : Nat) ∈ ([0, 3, 8, 10, 12] : List Nat))
    | exact (by decide : (10 : Nat) ∈ ([0, 3, 8, 10, 12] : List Nat))
    | exact (by decide : (12 : Nat) ∈ ([0, 3, 8, 10, 12] : List Nat))

theorem State.hostEvent_fr {fw fb : Nat} {s0 : State} (s : State) (h : Nat) (f : Fld) (hK : Frame fw fb s0 s) (hfw : Sub 144 fw := by exact Sub.within hfw rfl) (hf : fb.testBit f.blk = true := by first | exact hfb.bit rfl | exact hfb.bit (i := 0) rfl | exact hfb.bit (i := 1) rfl | exact hfb.bit (i := 2) rfl | exact hfb.bit (i := 3) rfl | exact hfb.bit (i := 4) rfl | exact hfb.bit (i := 5) rfl | exact hfb.bit (i := 6) rfl | exact hfb.bit (i := 7) rfl | exact hfb.bit (i := 8) rfl | exact hfb.bit (i := 9) rfl | exact hfb.bit (i := 10) rfl | exact hfb.bit (i := 11) rfl | exact hfb.bit (i := 12) rfl | exact hfb.bit (i := 13) rfl | exact hfb.bit (i := 14) rfl | exact hfb.bit (i := 15) rfl | exact hfb.bit (i := 16) rfl | exact hfb.bit (i := 17) rfl | exact hfb.bit (i := 18) rfl) : Frame fw fb s0 (State.hostEvent s h f) := by
  unfold State.hostEvent
  repeat' (first
    | with_reducible assumption
    | with_reducible apply State.raiseIf_fr
    | with_reducible apply State.wr_fr
    | (with_reducible refine Frame.ite ?_ ?_)
    | ((with_reducible apply Sub.within hfw); exact rfl)
    | ((with_reducible apply Sub.within hfb); exact rfl)
    | ((with_reducible apply Mixed.of); exact rfl)
    | (extract_lets)
    | split
    | (intro _ _ _)
    | (intro _ e; have _hk : Frame _ _ _ _ := e)
    | (intro _ e; cases e)
    | dsimp only
    | (dsimp +zetaDelta only))

theorem State.portUpAt_fr {fw fb : Nat} {s0 : State} (s : State) (h rate width flit : Nat) (hK : Frame fw fb s0 s) (hfb : Sub 1 fb := by exact Sub.within hfb rfl) : Frame fw fb s0 (State.portUpAt s h rate width flit) := by
  unfold State.portUpAt
  repeat' (first
    | with_reducible assumption
    | with_reducible apply State.wr_fr
    | (with_reducible refine Frame.ite ?_ ?_)
    | ((with_reducible apply Sub.within hfw); exact rfl)
    | ((with_reducible apply Sub.within hfb); exact rfl)
    | ((with_reducible apply Mixed.of); exact rfl)
    | (apply hfb.bit (i := 0) rfl)
    | (dsimp only [State.wrs, State.regs0, List.foldl])
    | (extract_lets)
    | split
    | (intro _ _ _)
    | (intro _ e; have _hk : Frame _ _ _ _ := e)
    | (intro _ e; cases e)
    | dsimp only
    | (dsimp +zetaDelta only))

theorem State.portDown_fr {fw fb : Nat} {s0 : State} (s : State) (h : Nat) (hK : Frame fw fb s0 s) (hfb : Sub 1 fb := by exact Sub.within hfb rfl) : Frame fw fb s0 (State.portDown s h) := by
  unfold State.portDown
  repeat' (first
    | with_reducible assumption
    | with_reducible apply State.reg0_fr
    | (with_reducible refine Frame.ite ?_ ?_)
    | ((with_reducible apply Sub.within hfw); exact rfl)
    | ((with_reducible apply Sub.within hfb); exact rfl)
    | ((with_reducible apply Mixed.of); exact rfl)
    | (apply hfb.bit (i := 0) rfl)
    | (dsimp only [State.wrs, State.regs0, List.foldl])
    | (extract_lets)
    | split
    | (intro _ _ _)
    | (intro _ e; have _hk : Frame _ _ _ _ := e)
    | (intro _ e; cases e)
    | dsimp only
    | (dsimp +zetaDelta only))

theorem State.portReset_fr {fw fb : Nat} {s0 : State} (s : State) (h : Nat) (hK : Frame fw fb s0 s) (hfw : Sub 128 fw := by exact Sub.within hfw rfl) (hfb : Sub 1 fb := by exact Sub.within hfb rfl) : Frame fw fb s0 (State.portReset s h) := by
  unfold State.portReset
  repeat' (first
    | with_reducible assumption
    | with_reducible apply State.portDown_fr
    | with_reducible apply State.reg0_fr
    | with_reducible apply State.setPort_fr
    | (with_reducible refine Frame.ite ?_ ?_)
    | ((with_reducible apply Sub.within hfw); exact rfl)
    | ((with_reducible apply Sub.within hfb); exact rfl)
    | ((with_reducible apply Mixed.of); exact rfl)
    | (apply hfb.bit (i := 0) rfl)
    | (dsimp only [State.wrs, State.regs0, List.foldl])
    | (extract_lets)
    | split
    | (intro _ _ _)
    | (intro _ e; have _hk : Frame _ _ _ _ := e)
    | (intro _ e; cases e)
    | dsimp only
    | (dsimp +zetaDelta only))

theorem State.chanLost_fr {fw fb : Nat} {s0 : State} (s : State) (c : Nat) (hK : Frame fw fb s0 s) (hfw : Sub 256 fw := by exact Sub.within hfw rfl) (hfb : Sub 2 fb := by exact Sub.within hfb rfl) : Frame fw fb s0 (State.chanLost s c) := by
  have k0 : ∀ (t : State) x0, Frame fw fb s0 t → Frame fw fb s0 { t with chans := x0 } := fun t x0 ht => Frame.upd ht hfw rfl rfl ⟨rfl, rfl, rfl⟩
  unfold State.chanLost
  repeat' (first
    | with_reducible assumption
    | with_reducible apply State.reg0_fr
    | (with_reducible refine Frame.ite ?_ ?_)
    | ((with_reducible apply Sub.within hfw); exact rfl)
    | ((with_reducible apply Sub.within hfb); exact rfl)
    | ((with_reducible apply Mixed.of); exact rfl)
    | (apply hfb.bit (i := 1) rfl)
    | (dsimp only [State.wrs, State.regs0, List.foldl])
    | (extract_lets)
    | (fail_if_no_progress (with_reducible refine k0 _ _ ?_))
    | split
    | (intro _ _ _)
    | (intro _ e; have _hk : Frame _ _ _ _ := e)
    | (intro _ e; cases e)
    | dsimp only
    | (dsimp +zetaDelta only)
    | (fail_if_no_progress ((with_reducible refine Frame.upd ?_ hfw ?_ rfl ⟨rfl, rfl, rfl⟩); rotate_left; exact rfl)))

theorem State.regs0_in {fw fb : Nat} {s0 : State} (s : State) (l : List Fld) (n : Nat) (h : Frame fw fb s0 s) (hb : fb.testBit n = true) (hl : l.all (fun f => f.blk == n) = true) : Frame fw fb s0 (s.regs0 l) := by
  induction l generalizing s with
  | nil => exact h
  | cons f r ih =>
    rw [List.all_cons, Bool.and_eq_true, beq_iff_eq] at hl
    exact ih (s.reg0 f) (State.reg0_fr _ _ h (by rw [hl.1]; exact hb)) hl.2

theorem State.ringLost_fr {fw fb : Nat} {s0 : State} (s : State) (r : Nat) (hK : Frame fw fb s0 s) (hfw : Sub 24704 fw := by exact Sub.within hfw rfl) (hfb : Sub 2 fb := by exact Sub.within hfb rfl) : Frame fw fb s0 (State.ringLost s r) := by
  have h2 : fb.testBit 1 = true := hfb.bit rfl
  unfold State.ringLost
  extract_lets t u
  have hu : Frame fw fb s0 u := State.regs0_in _ _ 1 (State.ringDrop_fr _ _ hK) h2 rfl
  exact Frame.ite (State.setPort_fr _ _ _ hu) (State.regs0_in _ _ 1 hu h2 rfl)

theorem State.poisonHost_fr {fw fb : Nat} {s0 : State} (h : Nat) (s : State) (c : Nat) (hK : Frame fw fb s0 s) (hfw : Sub 25165832 fw := by exact Sub.within hfw rfl) (hfb : Sub 16 fb := by exact Sub.within hfb rfl) : Frame fw fb s0 (State.poisonHost h s c) := by
  unfold State.poisonHost
  repeat' (first
    | with_reducible assumption
    | with_reducible apply State.setLeaf_fr
    | (with_reducible refine Frame.foldl ?_ ?_)
    | (with_reducible refine Frame.foldr ?_ ?_)
    | (with_reducible refine Frame.ite ?_ ?_)
    | ((with_reducible apply Sub.within hfw); exact rfl)
    | ((with_reducible apply Sub.within hfb); exact rfl)
    | ((with_reducible apply Mixed.of); exact rfl)
    | (apply hfb.bit (i := 4) rfl)
    | (extract_lets)
    | split
    | (intro _ _ _)
    | (intro _ e; have _hk : Frame _ _ _ _ := e)
    | (intro _ e; cases e)
    | dsimp only
    | (dsimp +zetaDelta only))

theorem State.cachesLost_fr {fw fb : Nat} {s0 : State} (s : State) (h : Nat) (hK : Frame fw fb s0 s) (hfw : Sub 1649831774728 fw := by exact Sub.within hfw rfl) (hfb : Sub 784 fb := by exact Sub.within hfb rfl) : Frame fw fb s0 (State.cachesLost s h) := by
  unfold State.cachesLost
  repeat' (first
    | with_reducible assumption
    | with_reducible apply State.handLost_fr
    | with_reducible apply State.kittyLost_fr
    | (with_reducible refine Frame.foldl ?_ ?_)
    | (with_reducible refine Frame.foldr ?_ ?_)
    | (with_reducible refine Frame.ite ?_ ?_)
    | ((with_reducible apply Sub.within hfw); exact rfl)
    | ((with_reducible apply Sub.within hfb); exact rfl)
    | ((with_reducible apply Mixed.of); exact rfl)
    | (apply hfb.bit (i := 4) rfl)
    | (apply hfb.bit (i := 8) rfl)
    | (apply hfb.bit (i := 9) rfl)
    | (extract_lets)
    | split
    | (intro _ _ _)
    | (intro _ e; have _hk : Frame _ _ _ _ := e)
    | (intro _ e; cases e)
    | dsimp only
    | (dsimp +zetaDelta only))

theorem State.cmdsLost_fr {fw fb : Nat} {s0 : State} (s : State) (h : Nat) (hK : Frame fw fb s0 s) (hfw : Sub 512 fw := by exact Sub.within hfw rfl) : Frame fw fb s0 (State.cmdsLost s h) := by
  have k0 : ∀ (t : State) x0, Frame fw fb s0 t → Frame fw fb s0 { t with cmds := x0 } := fun t x0 ht => Frame.upd ht hfw rfl rfl ⟨rfl, rfl, rfl⟩
  unfold State.cmdsLost
  repeat' (first
    | with_reducible assumption
    | (with_reducible refine Frame.ite ?_ ?_)
    | ((with_reducible apply Sub.within hfw); exact rfl)
    | ((with_reducible apply Sub.within hfb); exact rfl)
    | ((with_reducible apply Mixed.of); exact rfl)
    | (extract_lets)
    | (fail_if_no_progress (with_reducible refine k0 _ _ ?_))
    | split
    | (intro _ _ _)
    | (intro _ e; have _hk : Frame _ _ _ _ := e)
    | (intro _ e; cases e)
    | dsimp only
    | (dsimp +zetaDelta only)
    | (fail_if_no_progress ((with_reducible refine Frame.upd ?_ hfw ?_ rfl ⟨rfl, rfl, rfl⟩); rotate_left; exact rfl)))

theorem State.orphan_fr {fw fb : Nat} {s0 : State} (s : State) (h : Nat) (hK : Frame fw fb s0 s) (hfw : Sub 32896 fw := by exact Sub.within hfw rfl) (hfb : Sub 5 fb := by exact Sub.within hfb rfl) : Frame fw fb s0 (State.orphan s h) := by
  unfold State.orphan
  repeat' (first
    | with_reducible assumption
    | with_reducible apply State.orphanRegs_fr
    | with_reducible apply State.setCtx_fr
    | with_reducible apply State.setPort_fr
    | with_reducible apply State.wr_fr
    | (with_reducible refine Frame.foldl ?_ ?_)
    | (with_reducible refine Frame.foldr ?_ ?_)
    | (with_reducible refine Frame.ite ?_ ?_)
    | ((with_reducible apply Sub.within hfw); exact rfl)
    | ((with_reducible apply Sub.within hfb); exact rfl)
    | ((with_reducible apply Mixed.of); exact rfl)
    | (apply hfb.bit (i := 0) rfl)
    | (apply hfb.bit (i := 2) rfl)
    | (extract_lets)
    | split
    | (intro _ _ _)
    | (intro _ e; have _hk : Frame _ _ _ _ := e)
    | (intro _ e; cases e)
    | dsimp only
    | (dsimp +zetaDelta only))

theorem State.slotsPass_fr {fw fb : Nat} {s0 : State} (s : State) (h : Nat) (hK : Frame fw fb s0 s) (hfb : Sub 4096 fb := by exact Sub.within hfb rfl) : Frame fw fb s0 (State.slotsPass s h) := by
  unfold State.slotsPass
  repeat' (first
    | with_reducible assumption
    | with_reducible apply State.wr_fr
    | (with_reducible refine Frame.foldl ?_ ?_)
    | (with_reducible refine Frame.foldr ?_ ?_)
    | (with_reducible refine Frame.ite ?_ ?_)
    | ((with_reducible apply Sub.within hfw); exact rfl)
    | ((with_reducible apply Sub.within hfb); exact rfl)
    | ((with_reducible apply Mixed.of); exact rfl)
    | (apply hfb.bit (i := 12) rfl)
    | (extract_lets)
    | split
    | (intro _ _ _)
    | (intro _ e; have _hk : Frame _ _ _ _ := e)
    | (intro _ e; cases e)
    | dsimp only
    | (dsimp +zetaDelta only))

theorem State.stagingLost_fr {fw fb : Nat} {s0 : State} (s : State) (h : Nat) (hK : Frame fw fb s0 s) (hfw : Sub 147573952589676412928 fw := by exact Sub.within hfw rfl) (hfb : Sub 262144 fb := by exact Sub.within hfb rfl) : Frame fw fb s0 (State.stagingLost s h) := by
  unfold State.stagingLost
  repeat' (first
    | with_reducible assumption
    | with_reducible apply State.wr_fr
    | (with_reducible refine Frame.foldl ?_ ?_)
    | (with_reducible refine Frame.foldr ?_ ?_)
    | (with_reducible refine Frame.getD ?_ ?_)
    | (with_reducible refine Frame.ite ?_ ?_)
    | ((with_reducible apply Sub.within hfw); exact rfl)
    | ((with_reducible apply Sub.within hfb); exact rfl)
    | ((with_reducible apply Mixed.of); exact rfl)
    | (apply hfb.bit (i := 18) rfl)
    | (extract_lets)
    | split
    | (intro _ _ _)
    | (intro _ e; have _hk : Frame _ _ _ _ := e)
    | (intro _ e; cases e)
    | dsimp only
    | (dsimp +zetaDelta only)
    | (fail_if_no_progress ((with_reducible refine Frame.upd ?_ hfw ?_ rfl ⟨rfl, rfl, rfl⟩); rotate_left; exact rfl)))

theorem State.hostLost_fr {fw fb : Nat} {s0 : State} (s : State) (h cause : Nat) (hK : Frame fw fb s0 s) (hfw : Sub 148726875744115092360 fw := by exact Sub.within hfw rfl) (hfb : Sub 268063 fb := by exact Sub.within hfb rfl) : Frame fw fb s0 (State.hostLost s h cause) := by
  unfold State.hostLost
  repeat' (first
    | with_reducible assumption
    | with_reducible apply State.bump_fr
    | with_reducible apply State.cachesLost_fr
    | with_reducible apply State.chanLost_fr
    | with_reducible apply State.cmdsLost_fr
    | with_reducible apply State.intakeHostLost_fr
    | with_reducible apply State.orphan_fr
    | with_reducible apply State.poisonHost_fr
    | with_reducible apply State.reg0_fr
    | with_reducible apply State.ringLost_fr
    | with_reducible apply State.serveRegs_fr
    | with_reducible apply State.setPort_fr
    | with_reducible apply State.slotsPass_fr
    | with_reducible apply State.stagingLost_fr
    | with_reducible apply State.wr_fr
    | (with_reducible refine State.regs0_hostFields_fr _ _ ?_ (fun i hi => by simp only [List.mem_cons, List.not_mem_nil, or_false] at hi; rcases hi with hi | hi | hi | hi | hi <;> subst hi <;> exact hfb.bit rfl))
    | (with_reducible refine Frame.foldl ?_ ?_)
    | (with_reducible refine Frame.foldr ?_ ?_)
    | (with_reducible refine Frame.ite ?_ ?_)
    | ((with_reducible apply Sub.within hfw); exact rfl)
    | ((with_reducible apply Sub.within hfb); exact rfl)
    | ((with_reducible apply Mixed.of); exact rfl)
    | (apply hfb.bit (i := 0) rfl)
    | (apply hfb.bit (i := 1) rfl)
    | (apply hfb.bit (i := 2) rfl)
    | (apply hfb.bit (i := 3) rfl)
    | (apply hfb.bit (i := 4) rfl)
    | (apply hfb.bit (i := 8) rfl)
    | (apply hfb.bit (i := 9) rfl)
    | (apply hfb.bit (i := 10) rfl)
    | (apply hfb.bit (i := 12) rfl)
    | (apply hfb.bit (i := 18) rfl)
    | (dsimp only [State.wrs, State.regs0, List.foldl])
    | (extract_lets)
    | split
    | (intro _ _ _)
    | (intro _ e; have _hk : Frame _ _ _ _ := e)
    | (intro _ e; cases e)
    | dsimp only
    | (dsimp +zetaDelta only))

theorem State.hostGone_fr {fw fb : Nat} {s0 : State} (s : State) (h cause : Nat) (hK : Frame fw fb s0 s) (hfw : Sub 148726875744115092360 fw := by exact Sub.within hfw rfl) (hfb : Sub 268063 fb := by exact Sub.within hfb rfl) : Frame fw fb s0 (State.hostGone s h cause) := by
  unfold State.hostGone
  repeat' (first
    | with_reducible assumption
    | with_reducible apply State.hostLost_fr
    | with_reducible apply State.wr_fr
    | (with_reducible refine Frame.ite ?_ ?_)
    | ((with_reducible apply Sub.within hfw); exact rfl)
    | ((with_reducible apply Sub.within hfb); exact rfl)
    | ((with_reducible apply Mixed.of); exact rfl)
    | (apply hfb.bit (i := 0) rfl)
    | (apply hfb.bit (i := 1) rfl)
    | (apply hfb.bit (i := 2) rfl)
    | (apply hfb.bit (i := 3) rfl)
    | (apply hfb.bit (i := 4) rfl)
    | (apply hfb.bit (i := 8) rfl)
    | (apply hfb.bit (i := 9) rfl)
    | (apply hfb.bit (i := 10) rfl)
    | (apply hfb.bit (i := 12) rfl)
    | (apply hfb.bit (i := 18) rfl)
    | (extract_lets)
    | split
    | (intro _ _ _)
    | (intro _ e; have _hk : Frame _ _ _ _ := e)
    | (intro _ e; cases e)
    | dsimp only
    | (dsimp +zetaDelta only))

theorem hostLinkUp_fr {fw fb : Nat} {s0 : State} (h rate width flit : Nat) (s : State) (hK : Frame fw fb s0 s) (hfb : Sub 1 fb := by exact Sub.within hfb rfl) : Frame fw fb s0 (hostLinkUp h rate width flit s) := by
  unfold hostLinkUp
  repeat' (first
    | with_reducible assumption
    | with_reducible apply State.bump_fr
    | with_reducible apply State.portUpAt_fr
    | with_reducible apply State.wr_fr
    | (with_reducible refine Frame.ite ?_ ?_)
    | ((with_reducible apply Sub.within hfw); exact rfl)
    | ((with_reducible apply Sub.within hfb); exact rfl)
    | ((with_reducible apply Mixed.of); exact rfl)
    | (apply hfb.bit (i := 0) rfl)
    | (extract_lets)
    | split
    | (intro _ _ _)
    | (intro _ e; have _hk : Frame _ _ _ _ := e)
    | (intro _ e; cases e)
    | dsimp only
    | (dsimp +zetaDelta only))

theorem execHostLinkUp_fr {fw fb : Nat} {s0 : State} (h rate width flit : Nat) (s : State) (hK : Frame fw fb s0 s) (hfb : Sub 1 fb := by exact Sub.within hfb rfl) : ∀ u, execHostLinkUp h rate width flit s = .next u → Frame fw fb s0 u := by
  unfold execHostLinkUp
  repeat' (first
    | with_reducible assumption
    | with_reducible apply hostLinkUp_fr
    | (with_reducible refine Frame.ite ?_ ?_)
    | ((with_reducible apply Sub.within hfw); exact rfl)
    | ((with_reducible apply Sub.within hfb); exact rfl)
    | ((with_reducible apply Mixed.of); exact rfl)
    | (apply hfb.bit (i := 0) rfl)
    | (extract_lets)
    | split
    | (intro _ _ _)
    | (intro _ e; have _hk : Frame _ _ _ _ := e)
    | (intro _ e; cases e)
    | dsimp only
    | (dsimp +zetaDelta only))

theorem hostLinkDown_fr {fw fb : Nat} {s0 : State} (h : Nat) (s : State) (hK : Frame fw fb s0 s) (hfw : Sub 148726875744115092360 fw := by exact Sub.within hfw rfl) (hfb : Sub 268063 fb := by exact Sub.within hfb rfl) : Frame fw fb s0 (hostLinkDown h s) := by
  unfold hostLinkDown
  repeat' (first
    | with_reducible assumption
    | with_reducible apply State.hostGone_fr
    | with_reducible apply State.portDown_fr
    | (with_reducible refine Frame.ite ?_ ?_)
    | ((with_reducible apply Sub.within hfw); exact rfl)
    | ((with_reducible apply Sub.within hfb); exact rfl)
    | ((with_reducible apply Mixed.of); exact rfl)
    | (apply hfb.bit (i := 0) rfl)
    | (apply hfb.bit (i := 1) rfl)
    | (apply hfb.bit (i := 2) rfl)
    | (apply hfb.bit (i := 3) rfl)
    | (apply hfb.bit (i := 4) rfl)
    | (apply hfb.bit (i := 8) rfl)
    | (apply hfb.bit (i := 9) rfl)
    | (apply hfb.bit (i := 10) rfl)
    | (apply hfb.bit (i := 12) rfl)
    | (apply hfb.bit (i := 18) rfl)
    | (extract_lets)
    | split
    | (intro _ _ _)
    | (intro _ e; have _hk : Frame _ _ _ _ := e)
    | (intro _ e; cases e)
    | dsimp only
    | (dsimp +zetaDelta only))

theorem execHostLinkDown_fr {fw fb : Nat} {s0 : State} (h : Nat) (s : State) (hK : Frame fw fb s0 s) (hfw : Sub 148726875744115092360 fw := by exact Sub.within hfw rfl) (hfb : Sub 268063 fb := by exact Sub.within hfb rfl) : ∀ u, execHostLinkDown h s = .next u → Frame fw fb s0 u := by
  unfold execHostLinkDown
  repeat' (first
    | with_reducible assumption
    | with_reducible apply hostLinkDown_fr
    | (with_reducible refine Frame.ite ?_ ?_)
    | ((with_reducible apply Sub.within hfw); exact rfl)
    | ((with_reducible apply Sub.within hfb); exact rfl)
    | ((with_reducible apply Mixed.of); exact rfl)
    | (apply hfb.bit (i := 0) rfl)
    | (apply hfb.bit (i := 1) rfl)
    | (apply hfb.bit (i := 2) rfl)
    | (apply hfb.bit (i := 3) rfl)
    | (apply hfb.bit (i := 4) rfl)
    | (apply hfb.bit (i := 8) rfl)
    | (apply hfb.bit (i := 9) rfl)
    | (apply hfb.bit (i := 10) rfl)
    | (apply hfb.bit (i := 12) rfl)
    | (apply hfb.bit (i := 18) rfl)
    | (extract_lets)
    | split
    | (intro _ _ _)
    | (intro _ e; have _hk : Frame _ _ _ _ := e)
    | (intro _ e; cases e)
    | dsimp only
    | (dsimp +zetaDelta only))

theorem hostLostEvent_fr {fw fb : Nat} {s0 : State} (h cause : Nat) (s : State) (hK : Frame fw fb s0 s) (hfw : Sub 148726875744115092360 fw := by exact Sub.within hfw rfl) (hfb : Sub 268063 fb := by exact Sub.within hfb rfl) : Frame fw fb s0 (hostLostEvent h cause s) := by
  unfold hostLostEvent
  repeat' (first
    | with_reducible assumption
    | with_reducible apply State.hostGone_fr
    | with_reducible apply State.portReset_fr
    | with_reducible apply State.wr_fr
    | with_reducible apply hostLinkDown_fr
    | (with_reducible refine Frame.ite ?_ ?_)
    | ((with_reducible apply Sub.within hfw); exact rfl)
    | ((with_reducible apply Sub.within hfb); exact rfl)
    | ((with_reducible apply Mixed.of); exact rfl)
    | (apply hfb.bit (i := 0) rfl)
    | (apply hfb.bit (i := 1) rfl)
    | (apply hfb.bit (i := 2) rfl)
    | (apply hfb.bit (i := 3) rfl)
    | (apply hfb.bit (i := 4) rfl)
    | (apply hfb.bit (i := 8) rfl)
    | (apply hfb.bit (i := 9) rfl)
    | (apply hfb.bit (i := 10) rfl)
    | (apply hfb.bit (i := 12) rfl)
    | (apply hfb.bit (i := 18) rfl)
    | (extract_lets)
    | split
    | (intro _ _ _)
    | (intro _ e; have _hk : Frame _ _ _ _ := e)
    | (intro _ e; cases e)
    | dsimp only
    | (dsimp +zetaDelta only))

theorem execHostLost_fr {fw fb : Nat} {s0 : State} (h cause : Nat) (s : State) (hK : Frame fw fb s0 s) (hfw : Sub 148726875744115092360 fw := by exact Sub.within hfw rfl) (hfb : Sub 268063 fb := by exact Sub.within hfb rfl) : ∀ u, execHostLost h cause s = .next u → Frame fw fb s0 u := by
  unfold execHostLost
  repeat' (first
    | with_reducible assumption
    | with_reducible apply hostLostEvent_fr
    | (with_reducible refine Frame.ite ?_ ?_)
    | ((with_reducible apply Sub.within hfw); exact rfl)
    | ((with_reducible apply Sub.within hfb); exact rfl)
    | ((with_reducible apply Mixed.of); exact rfl)
    | (apply hfb.bit (i := 0) rfl)
    | (apply hfb.bit (i := 1) rfl)
    | (apply hfb.bit (i := 2) rfl)
    | (apply hfb.bit (i := 3) rfl)
    | (apply hfb.bit (i := 4) rfl)
    | (apply hfb.bit (i := 8) rfl)
    | (apply hfb.bit (i := 9) rfl)
    | (apply hfb.bit (i := 10) rfl)
    | (apply hfb.bit (i := 12) rfl)
    | (apply hfb.bit (i := 18) rfl)
    | (extract_lets)
    | split
    | (intro _ _ _)
    | (intro _ e; have _hk : Frame _ _ _ _ := e)
    | (intro _ e; cases e)
    | dsimp only
    | (dsimp +zetaDelta only))

theorem lossActionsComplete_fr {fw fb : Nat} {s0 : State} (h : Nat) (s : State) (hK : Frame fw fb s0 s) (hfw : Sub 208 fw := by exact Sub.within hfw rfl) (hfb : Sub 1 fb := by exact Sub.within hfb rfl) : Frame fw fb s0 (lossActionsComplete h s) := by
  unfold lossActionsComplete
  repeat' (first
    | with_reducible assumption
    | with_reducible apply State.hostEvent_fr
    | with_reducible apply State.recordTick_fr
    | with_reducible apply State.setPort_fr
    | with_reducible apply State.wr_fr
    | (with_reducible refine Frame.ite ?_ ?_)
    | ((with_reducible apply Sub.within hfw); exact rfl)
    | ((with_reducible apply Sub.within hfb); exact rfl)
    | ((with_reducible apply Mixed.of); exact rfl)
    | (apply hfb.bit (i := 0) rfl)
    | (extract_lets)
    | split
    | (intro _ _ _)
    | (intro _ e; have _hk : Frame _ _ _ _ := e)
    | (intro _ e; cases e)
    | dsimp only
    | (dsimp +zetaDelta only))

theorem execLossActionsComplete_fr {fw fb : Nat} {s0 : State} (h : Nat) (s : State) (hK : Frame fw fb s0 s) (hfw : Sub 208 fw := by exact Sub.within hfw rfl) (hfb : Sub 1 fb := by exact Sub.within hfb rfl) : ∀ u, execLossActionsComplete h s = .next u → Frame fw fb s0 u := by
  unfold execLossActionsComplete
  repeat' (first
    | with_reducible assumption
    | with_reducible apply lossActionsComplete_fr
    | (with_reducible refine Frame.ite ?_ ?_)
    | ((with_reducible apply Sub.within hfw); exact rfl)
    | ((with_reducible apply Sub.within hfb); exact rfl)
    | ((with_reducible apply Mixed.of); exact rfl)
    | (apply hfb.bit (i := 0) rfl)
    | (extract_lets)
    | split
    | (intro _ _ _)
    | (intro _ e; have _hk : Frame _ _ _ _ := e)
    | (intro _ e; cases e)
    | dsimp only
    | (dsimp +zetaDelta only))

theorem State.hostAttach_fr {fw fb : Nat} {s0 : State} (s : State) (h : Nat) (hK : Frame fw fb s0 s) (hfw : Sub 144 fw := by exact Sub.within hfw rfl) (hfb : Sub 3 fb := by exact Sub.within hfb rfl) : Frame fw fb s0 (State.hostAttach s h) := by
  have h2 : fb.testBit 1 = true := hfb.bit rfl
  unfold State.hostAttach
  refine Frame.ite ?_ hK
  extract_lets t u v
  have ht : Frame fw fb s0 t := Frame.foldl (fun t r ht => State.regs0_in _ _ 1 ht h2 rfl) hK
  exact State.hostEvent_fr _ _ _ (State.wr_fr _ _ _ (State.wr_fr _ _ _ (State.setPort_fr _ _ _ ht) (hfb.bit (i := 0) rfl)) (hfb.bit (i := 0) rfl))

theorem State.hostDetach_fr {fw fb : Nat} {s0 : State} (s : State) (h : Nat) (hK : Frame fw fb s0 s) (hfb : Sub 1 fb := by exact Sub.within hfb rfl) : Frame fw fb s0 (State.hostDetach s h) := by
  unfold State.hostDetach
  repeat' (first
    | with_reducible assumption
    | with_reducible apply State.wr_fr
    | (with_reducible refine Frame.ite ?_ ?_)
    | ((with_reducible apply Sub.within hfw); exact rfl)
    | ((with_reducible apply Sub.within hfb); exact rfl)
    | ((with_reducible apply Mixed.of); exact rfl)
    | (apply hfb.bit (i := 0) rfl)
    | (extract_lets)
    | split
    | (intro _ _ _)
    | (intro _ e; have _hk : Frame _ _ _ _ := e)
    | (intro _ e; cases e)
    | dsimp only
    | (dsimp +zetaDelta only))

theorem writeHostCtl_fr {fw fb : Nat} {s0 : State} (h value : Nat) (s : State) (hK : Frame fw fb s0 s) (hfw : Sub 144 fw := by exact Sub.within hfw rfl) (hfb : Sub 3 fb := by exact Sub.within hfb rfl) : Frame fw fb s0 (writeHostCtl h value s) := by
  unfold writeHostCtl
  repeat' (first
    | with_reducible assumption
    | with_reducible apply State.hostAttach_fr
    | with_reducible apply State.hostDetach_fr
    | with_reducible apply State.wr_fr
    | (with_reducible refine Frame.ite ?_ ?_)
    | ((with_reducible apply Sub.within hfw); exact rfl)
    | ((with_reducible apply Sub.within hfb); exact rfl)
    | ((with_reducible apply Mixed.of); exact rfl)
    | (apply hfb.bit (i := 0) rfl)
    | (apply hfb.bit (i := 1) rfl)
    | (extract_lets)
    | split
    | (intro _ _ _)
    | (intro _ e; have _hk : Frame _ _ _ _ := e)
    | (intro _ e; cases e)
    | dsimp only
    | (dsimp +zetaDelta only))

theorem execHostAttach_fr {fw fb : Nat} {s0 : State} (h value : Nat) (s : State) (hK : Frame fw fb s0 s) (hfw : Sub 144 fw := by exact Sub.within hfw rfl) (hfb : Sub 3 fb := by exact Sub.within hfb rfl) : ∀ u, execHostAttach h value s = .next u → Frame fw fb s0 u := by
  unfold execHostAttach
  repeat' (first
    | with_reducible assumption
    | with_reducible apply State.viaHost_fr
    | with_reducible apply writeHostCtl_fr
    | (with_reducible refine Frame.ite ?_ ?_)
    | ((with_reducible apply Sub.within hfw); exact rfl)
    | ((with_reducible apply Sub.within hfb); exact rfl)
    | ((with_reducible apply Mixed.of); exact rfl)
    | (apply hfb.bit (i := 0) rfl)
    | (apply hfb.bit (i := 1) rfl)
    | (extract_lets)
    | split
    | (intro _ _ _)
    | (intro _ e; have _hk : Frame _ _ _ _ := e)
    | (intro _ e; cases e)
    | dsimp only
    | (dsimp +zetaDelta only))

theorem execHostDetach_fr {fw fb : Nat} {s0 : State} (h value : Nat) (s : State) (hK : Frame fw fb s0 s) (hfw : Sub 144 fw := by exact Sub.within hfw rfl) (hfb : Sub 3 fb := by exact Sub.within hfb rfl) : ∀ u, execHostDetach h value s = .next u → Frame fw fb s0 u := by
  unfold execHostDetach
  repeat' (first
    | with_reducible assumption
    | with_reducible apply State.viaHost_fr
    | with_reducible apply writeHostCtl_fr
    | (with_reducible refine Frame.ite ?_ ?_)
    | ((with_reducible apply Sub.within hfw); exact rfl)
    | ((with_reducible apply Sub.within hfb); exact rfl)
    | ((with_reducible apply Mixed.of); exact rfl)
    | (apply hfb.bit (i := 0) rfl)
    | (apply hfb.bit (i := 1) rfl)
    | (extract_lets)
    | split
    | (intro _ _ _)
    | (intro _ e; have _hk : Frame _ _ _ _ := e)
    | (intro _ e; cases e)
    | dsimp only
    | (dsimp +zetaDelta only))

theorem State.msixKick_fr {fw fb : Nat} {s0 : State} (s : State) (h : Nat) (hK : Frame fw fb s0 s) (hfw : Sub 144 fw := by exact Sub.within hfw rfl) : Frame fw fb s0 (State.msixKick s h) := by
  unfold State.msixKick
  repeat' (first
    | with_reducible assumption
    | with_reducible apply State.emit_fr
    | with_reducible apply State.setPort_fr
    | (with_reducible refine Frame.foldl ?_ ?_)
    | (with_reducible refine Frame.foldr ?_ ?_)
    | (with_reducible refine Frame.ite ?_ ?_)
    | ((with_reducible apply Sub.within hfw); exact rfl)
    | ((with_reducible apply Sub.within hfb); exact rfl)
    | ((with_reducible apply Mixed.of); exact rfl)
    | (extract_lets)
    | split
    | (intro _ _ _)
    | (intro _ e; have _hk : Frame _ _ _ _ := e)
    | (intro _ e; cases e)
    | dsimp only
    | (dsimp +zetaDelta only))

theorem State.cfgWrite_fr {fw fb : Nat} {s0 : State} (s : State) (h reg value : Nat) (hK : Frame fw fb s0 s) (hfw : Sub 148726875744115092376 fw := by exact Sub.within hfw rfl) (hfb : Sub 268063 fb := by exact Sub.within hfb rfl) : Frame fw fb s0 (State.cfgWrite s h reg value) := by
  unfold State.cfgWrite
  repeat' (first
    | with_reducible assumption
    | with_reducible apply State.hostGone_fr
    | with_reducible apply State.hostLost_fr
    | with_reducible apply State.msixKick_fr
    | with_reducible apply State.portReset_fr
    | with_reducible apply State.setPort_fr
    | with_reducible apply State.wr_fr
    | (with_reducible refine Frame.ite ?_ ?_)
    | ((with_reducible apply Sub.within hfw); exact rfl)
    | ((with_reducible apply Sub.within hfb); exact rfl)
    | ((with_reducible apply Mixed.of); exact rfl)
    | (apply hfb.bit (i := 0) rfl)
    | (apply hfb.bit (i := 1) rfl)
    | (apply hfb.bit (i := 2) rfl)
    | (apply hfb.bit (i := 3) rfl)
    | (apply hfb.bit (i := 4) rfl)
    | (apply hfb.bit (i := 8) rfl)
    | (apply hfb.bit (i := 9) rfl)
    | (apply hfb.bit (i := 10) rfl)
    | (apply hfb.bit (i := 12) rfl)
    | (apply hfb.bit (i := 18) rfl)
    | (extract_lets)
    | split
    | (intro _ _ _)
    | (intro _ e; have _hk : Frame _ _ _ _ := e)
    | (intro _ e; cases e)
    | dsimp only
    | (dsimp +zetaDelta only))

theorem configRequest_fr {fw fb : Nat} {s0 : State} (h fn reg write value : Nat) (s : State) (hK : Frame fw fb s0 s) (hfw : Sub 148726875744115092376 fw := by exact Sub.within hfw rfl) (hfb : Sub 268063 fb := by exact Sub.within hfb rfl) : Frame fw fb s0 (configRequest h fn reg write value s) := by
  unfold configRequest
  repeat' (first
    | with_reducible assumption
    | with_reducible apply State.bump_fr
    | with_reducible apply State.cfgWrite_fr
    | with_reducible apply State.emit_fr
    | (with_reducible refine Frame.ite ?_ ?_)
    | ((with_reducible apply Sub.within hfw); exact rfl)
    | ((with_reducible apply Sub.within hfb); exact rfl)
    | ((with_reducible apply Mixed.of); exact rfl)
    | (apply hfb.bit (i := 0) rfl)
    | (apply hfb.bit (i := 1) rfl)
    | (apply hfb.bit (i := 2) rfl)
    | (apply hfb.bit (i := 3) rfl)
    | (apply hfb.bit (i := 4) rfl)
    | (apply hfb.bit (i := 8) rfl)
    | (apply hfb.bit (i := 9) rfl)
    | (apply hfb.bit (i := 10) rfl)
    | (apply hfb.bit (i := 12) rfl)
    | (apply hfb.bit (i := 18) rfl)
    | (extract_lets)
    | split
    | (intro _ _ _)
    | (intro _ e; have _hk : Frame _ _ _ _ := e)
    | (intro _ e; cases e)
    | dsimp only
    | (dsimp +zetaDelta only))

theorem execConfigRequest_fr {fw fb : Nat} {s0 : State} (h fn reg write value : Nat) (s : State) (hK : Frame fw fb s0 s) (hfw : Sub 148726875744115092376 fw := by exact Sub.within hfw rfl) (hfb : Sub 268063 fb := by exact Sub.within hfb rfl) : ∀ u, execConfigRequest h fn reg write value s = .next u → Frame fw fb s0 u := by
  unfold execConfigRequest
  repeat' (first
    | with_reducible assumption
    | with_reducible apply configRequest_fr
    | (with_reducible refine Frame.ite ?_ ?_)
    | ((with_reducible apply Sub.within hfw); exact rfl)
    | ((with_reducible apply Sub.within hfb); exact rfl)
    | ((with_reducible apply Mixed.of); exact rfl)
    | (apply hfb.bit (i := 0) rfl)
    | (apply hfb.bit (i := 1) rfl)
    | (apply hfb.bit (i := 2) rfl)
    | (apply hfb.bit (i := 3) rfl)
    | (apply hfb.bit (i := 4) rfl)
    | (apply hfb.bit (i := 8) rfl)
    | (apply hfb.bit (i := 9) rfl)
    | (apply hfb.bit (i := 10) rfl)
    | (apply hfb.bit (i := 12) rfl)
    | (apply hfb.bit (i := 18) rfl)
    | (extract_lets)
    | split
    | (intro _ _ _)
    | (intro _ e; have _hk : Frame _ _ _ _ := e)
    | (intro _ e; cases e)
    | dsimp only
    | (dsimp +zetaDelta only))

theorem State.discard_fr {fw fb : Nat} {s0 : State} (s : State) (src off size : Nat) (hK : Frame fw fb s0 s) (hfw : Sub 208 fw := by exact Sub.within hfw rfl) (hfb : Sub 131072 fb := by exact Sub.within hfb rfl) : Frame fw fb s0 (State.discard s src off size) := by
  unfold State.discard
  repeat' (first
    | with_reducible assumption
    | with_reducible apply State.recordAs_fr
    | (with_reducible refine Frame.ite ?_ ?_)
    | ((with_reducible apply Sub.within hfw); exact rfl)
    | ((with_reducible apply Sub.within hfb); exact rfl)
    | ((with_reducible apply Mixed.of); exact rfl)
    | (apply hfb.bit (i := 17) rfl)
    | (extract_lets)
    | split
    | (intro _ _ _)
    | (intro _ e; have _hk : Frame _ _ _ _ := e)
    | (intro _ e; cases e)
    | dsimp only
    | (dsimp +zetaDelta only))

theorem State.msixWrite_fr {fw fb : Nat} {s0 : State} (s : State) (h off value size : Nat) (hK : Frame fw fb s0 s) (hfw : Sub 208 fw := by exact Sub.within hfw rfl) (hfb : Sub 131072 fb := by exact Sub.within hfb rfl) : Frame fw fb s0 (State.msixWrite s h off value size) := by
  unfold State.msixWrite
  repeat' (first
    | with_reducible assumption
    | with_reducible apply State.discard_fr
    | with_reducible apply State.msixKick_fr
    | with_reducible apply State.setPort_fr
    | (with_reducible refine Frame.ite ?_ ?_)
    | ((with_reducible apply Sub.within hfw); exact rfl)
    | ((with_reducible apply Sub.within hfb); exact rfl)
    | ((with_reducible apply Mixed.of); exact rfl)
    | (apply hfb.bit (i := 17) rfl)
    | (extract_lets)
    | split
    | (intro _ _ _)
    | (intro _ e; have _hk : Frame _ _ _ _ := e)
    | (intro _ e; cases e)
    | dsimp only
    | (dsimp +zetaDelta only))

theorem execMsixTableWrite_fr {fw fb : Nat} {s0 : State} (h off value size : Nat) (s : State) (hK : Frame fw fb s0 s) (hfw : Sub 208 fw := by exact Sub.within hfw rfl) (hfb : Sub 131073 fb := by exact Sub.within hfb rfl) : ∀ u, execMsixTableWrite h off value size s = .next u → Frame fw fb s0 u := by
  unfold execMsixTableWrite
  repeat' (first
    | with_reducible assumption
    | with_reducible apply State.msixWrite_fr
    | with_reducible apply State.viaHost_fr
    | (with_reducible refine Frame.ite ?_ ?_)
    | ((with_reducible apply Sub.within hfw); exact rfl)
    | ((with_reducible apply Sub.within hfb); exact rfl)
    | ((with_reducible apply Mixed.of); exact rfl)
    | (apply hfb.bit (i := 0) rfl)
    | (apply hfb.bit (i := 17) rfl)
    | (extract_lets)
    | split
    | (intro _ _ _)
    | (intro _ e; have _hk : Frame _ _ _ _ := e)
    | (intro _ e; cases e)
    | dsimp only
    | (dsimp +zetaDelta only))

theorem orphanRead_fr {fw fb : Nat} {s0 : State} (h : Nat) (s : State) (hK : Frame fw fb s0 s) (hfb : Sub 1 fb := by exact Sub.within hfb rfl) : Frame fw fb s0 (orphanRead h s).2 := by
  unfold orphanRead
  repeat' (first
    | with_reducible assumption
    | with_reducible apply State.wr_fr
    | (with_reducible refine Frame.ite ?_ ?_)
    | ((with_reducible apply Sub.within hfw); exact rfl)
    | ((with_reducible apply Sub.within hfb); exact rfl)
    | ((with_reducible apply Mixed.of); exact rfl)
    | (apply hfb.bit (i := 0) rfl)
    | (extract_lets)
    | split
    | (intro _ _ _)
    | (intro _ e; have _hk : Frame _ _ _ _ := e)
    | (intro _ e; cases e)
    | dsimp only
    | (dsimp +zetaDelta only))

theorem orphanRead_fr_at {fw fb : Nat} {s0 : State} {u : State} {r0} {h : Nat} {s : State} (h_eq : orphanRead h s = (r0, u)) (hK : Frame fw fb s0 s) (hfb : Sub 1 fb := by exact Sub.within hfb rfl) : Frame fw fb s0 u := by
  have := orphanRead_fr h s hK
  rw [h_eq] at this
  exact this

theorem execOrphanDataRead_fr {fw fb : Nat} {s0 : State} (src h : Nat) (s : State) (hK : Frame fw fb s0 s) (hfw : Sub 16 fw := by exact Sub.within hfw rfl) (hfb : Sub 1 fb := by exact Sub.within hfb rfl) : ∀ u, execOrphanDataRead src h s = .next u → Frame fw fb s0 u := by
  unfold execOrphanDataRead
  repeat' (first
    | with_reducible assumption
    | with_reducible apply State.emit_fr
    | with_reducible apply State.viaSource_fr
    | with_reducible apply orphanRead_fr
    | (with_reducible apply orphanRead_fr_at; with_reducible assumption)
    | (with_reducible refine Frame.ite ?_ ?_)
    | ((with_reducible apply Sub.within hfw); exact rfl)
    | ((with_reducible apply Sub.within hfb); exact rfl)
    | ((with_reducible apply Mixed.of); exact rfl)
    | (apply hfb.bit (i := 0) rfl)
    | (extract_lets)
    | split
    | (intro _ _ _)
    | (intro _ e; have _hk : Frame _ _ _ _ := e)
    | (intro _ e; cases e)
    | dsimp only
    | (dsimp +zetaDelta only))

end Sys2Proof.Machine
end

