-- ==== Sys2Proof/Laws/Frame/Resets.lean ====
section
/-! SUPPORT. What the operations of Machine/Resets.lean leave as it was (`Frame`): one lemma each. -/

set_option linter.unreachableTactic false
set_option linter.unusedTactic false

namespace Sys2Proof.Machine

set_option Elab.async false

open Sys2Proof

theorem State.faultCause_fr {fw fb : Nat} {s0 : State} (s : State) (f : Fld) (hK : Frame fw fb s0 s) (hfb : Sub 32768 fb := by exact Sub.within hfb rfl) (hf : fb.testBit f.blk = true := by first | exact hfb.bit rfl | exact hfb.bit (i := 0) rfl | exact hfb.bit (i := 1) rfl | exact hfb.bit (i := 2) rfl | exact hfb.bit (i := 3) rfl | exact hfb.bit (i := 4) rfl | exact hfb.bit (i := 5) rfl | exact hfb.bit (i := 6) rfl | exact hfb.bit (i := 7) rfl | exact hfb.bit (i := 8) rfl | exact hfb.bit (i := 9) rfl | exact hfb.bit (i := 10) rfl | exact hfb.bit (i := 11) rfl | exact hfb.bit (i := 12) rfl | exact hfb.bit (i := 13) rfl | exact hfb.bit (i := 14) rfl | exact hfb.bit (i := 15) rfl | exact hfb.bit (i := 16) rfl | exact hfb.bit (i := 17) rfl | exact hfb.bit (i := 18) rfl) : Frame fw fb s0 (State.faultCause s f) := by
  unfold State.faultCause
  repeat' (first
    | with_reducible assumption
    | with_reducible apply State.wr_fr
    | (with_reducible refine Frame.ite ?_ ?_)
    | ((with_reducible apply Sub.within hfw); exact rfl)
    | ((with_reducible apply Sub.within hfb); exact rfl)
    | ((with_reducible apply Mixed.of); exact rfl)
    | (apply hfb.bit (i := 15) rfl)
    | (extract_lets)
    | split
    | (intro _ _ _)
    | (intro _ e; have _hk : Frame _ _ _ _ := e)
    | (intro _ e; cases e)
    | dsimp only
    | (dsimp +zetaDelta only))

theorem State.sbRegs_fr {fw fb : Nat} {s0 : State} (s : State) (hK : Frame fw fb s0 s) (hfb : Sub 65536 fb := by exact Sub.within hfb rfl) : Frame fw fb s0 (State.sbRegs s) := by
  unfold State.sbRegs
  repeat' (first
    | with_reducible assumption
    | with_reducible apply State.wr_fr
    | (with_reducible refine Frame.ite ?_ ?_)
    | ((with_reducible apply Sub.within hfw); exact rfl)
    | ((with_reducible apply Sub.within hfb); exact rfl)
    | ((with_reducible apply Mixed.of); exact rfl)
    | (apply hfb.bit (i := 16) rfl)
    | (extract_lets)
    | split
    | (intro _ _ _)
    | (intro _ e; have _hk : Frame _ _ _ _ := e)
    | (intro _ e; cases e)
    | dsimp only
    | (dsimp +zetaDelta only))

theorem State.recordWrite_fr {fw fb : Nat} {s0 : State} (s : State) (hK : Frame fw fb s0 s) (hfw : Sub 148150413341979836416 fw := by exact Sub.within hfw rfl) (hfb : Sub 262144 fb := by exact Sub.within hfb rfl) : Frame fw fb s0 (State.recordWrite s) := by
  unfold State.recordWrite
  extract_lets x t
  have ht : Frame fw fb s0 t := hK.set hfw rfl rfl ⟨rfl, id, id, id, id, fun _ => Nat.le_refl _, Nat.le_refl _, Nat.le_succ _⟩
  exact State.bump_fr _ _ _ (State.wr_fr _ _ _ (State.wr_fr _ _ _ ht))

theorem State.unitsReload_fr {fw fb : Nat} {s0 : State} (s : State) (hK : Frame fw fb s0 s) (hfw : Sub 1180861836695053533184 fw := by exact Sub.within hfw rfl) (hfb : Sub 4160 fb := by exact Sub.within hfb rfl) : Frame fw fb s0 (State.unitsReload s) := by
  have k0 : ∀ (t : State) x0, Frame fw fb s0 t → Frame fw fb s0 { t with units := x0 } := fun t x0 ht => Frame.upd ht hfw rfl rfl ⟨rfl, rfl, rfl⟩
  have k1 : ∀ (t : State) x0 x1 x2 x3 x4, Frame fw fb s0 t → Frame fw fb s0 { t with draws := x0, units := x1, bankMap := x2, badBanks := x3, badSince := x4 } := fun t x0 x1 x2 x3 x4 ht => Frame.upd ht hfw rfl rfl ⟨rfl, rfl, rfl⟩
  unfold State.unitsReload
  repeat' (first
    | with_reducible assumption
    | with_reducible apply State.reg0_fr
    | with_reducible apply State.wr_fr
    | (with_reducible refine Frame.foldl ?_ ?_)
    | (with_reducible refine Frame.foldr ?_ ?_)
    | (with_reducible refine Frame.ite ?_ ?_)
    | ((with_reducible apply Sub.within hfw); exact rfl)
    | ((with_reducible apply Sub.within hfb); exact rfl)
    | ((with_reducible apply Mixed.of); exact rfl)
    | (apply hfb.bit (i := 6) rfl)
    | (apply hfb.bit (i := 12) rfl)
    | (dsimp only [State.wrs, State.regs0, List.foldl])
    | (extract_lets)
    | (fail_if_no_progress (with_reducible refine k0 _ _ ?_))
    | (fail_if_no_progress (with_reducible refine k1 _ _ _ _ _ _ ?_))
    | split
    | (intro _ _ _)
    | (intro _ e; have _hk : Frame _ _ _ _ := e)
    | (intro _ e; cases e)
    | dsimp only
    | (dsimp +zetaDelta only)
    | (fail_if_no_progress ((with_reducible refine Frame.upd ?_ hfw ?_ rfl ⟨rfl, rfl, rfl⟩); rotate_left; exact rfl)))

theorem State.retireAgain_fr {fw fb : Nat} {s0 : State} (s : State) (r : Record) (hK : Frame fw fb s0 s) (hfw : Sub 36028797018963968 fw := by exact Sub.within hfw rfl) (hfb : Sub 30800 fb := by exact Sub.within hfb rfl) : Frame fw fb s0 (State.retireAgain s r) := by
  unfold State.retireAgain
  repeat' (first
    | with_reducible assumption
    | with_reducible apply State.setUnit_fr
    | (with_reducible refine Frame.ite ?_ ?_)
    | ((with_reducible apply Sub.within hfw); exact rfl)
    | ((with_reducible apply Sub.within hfb); exact rfl)
    | ((with_reducible apply Mixed.of); exact rfl)
    | (apply hfb.bit (i := 4) rfl)
    | (apply hfb.bit (i := 6) rfl)
    | (apply hfb.bit (i := 11) rfl)
    | (apply hfb.bit (i := 12) rfl)
    | (apply hfb.bit (i := 13) rfl)
    | (apply hfb.bit (i := 14) rfl)
    | (extract_lets)
    | split
    | (intro _ _ _)
    | (intro _ e; have _hk : Frame _ _ _ _ := e)
    | (intro _ e; cases e)
    | dsimp only
    | (dsimp +zetaDelta only))

theorem State.renumberBanks_fr {fw fb : Nat} {s0 : State} (s : State) (die : Nat) (hK : Frame fw fb s0 s) (hfw : Sub 72057594037927936 fw := by exact Sub.within hfw rfl) : Frame fw fb s0 (State.renumberBanks s die) := by
  have k0 : ∀ (t : State) x0, Frame fw fb s0 t → Frame fw fb s0 { t with bankMap := x0 } := fun t x0 ht => Frame.upd ht hfw rfl rfl ⟨rfl, rfl, rfl⟩
  unfold State.renumberBanks
  repeat' (first
    | with_reducible assumption
    | (with_reducible refine Frame.foldl ?_ ?_)
    | (with_reducible refine Frame.foldr ?_ ?_)
    | (with_reducible refine Frame.ite ?_ ?_)
    | ((with_reducible apply Sub.within hfw); exact rfl)
    | ((with_reducible apply Sub.within hfb); exact rfl)
    | ((with_reducible apply Mixed.of); exact rfl)
    | (extract_lets)
    | (fail_if_no_progress (with_reducible refine k0 _ _ ?_))
    | split
    | (intro _ _ _)
    | (intro _ e; have _hk : Frame _ _ _ _ := e)
    | (intro _ e; cases e)
    | dsimp only
    | (dsimp +zetaDelta only)
    | (fail_if_no_progress ((with_reducible refine Frame.upd ?_ hfw ?_ rfl ⟨rfl, rfl, rfl⟩); rotate_left; exact rfl)))

theorem State.loadMap_fr {fw fb : Nat} {s0 : State} (s : State) (hK : Frame fw fb s0 s) (hfw : Sub 1180861836695053533184 fw := by exact Sub.within hfw rfl) (hfb : Sub 30800 fb := by exact Sub.within hfb rfl) : Frame fw fb s0 (State.loadMap s) := by
  unfold State.loadMap
  repeat' (first
    | with_reducible assumption
    | with_reducible apply State.renumber_fr
    | with_reducible apply State.renumberBanks_fr
    | with_reducible apply State.retireAgain_fr
    | with_reducible apply State.stockRegs_fr
    | with_reducible apply State.unitsReload_fr
    | (with_reducible refine Frame.foldl ?_ ?_)
    | (with_reducible refine Frame.foldr ?_ ?_)
    | (with_reducible refine Frame.ite ?_ ?_)
    | ((with_reducible apply Sub.within hfw); exact rfl)
    | ((with_reducible apply Sub.within hfb); exact rfl)
    | ((with_reducible apply Mixed.of); exact rfl)
    | (apply hfb.bit (i := 4) rfl)
    | (apply hfb.bit (i := 6) rfl)
    | (apply hfb.bit (i := 11) rfl)
    | (apply hfb.bit (i := 12) rfl)
    | (apply hfb.bit (i := 13) rfl)
    | (apply hfb.bit (i := 14) rfl)
    | (extract_lets)
    | split
    | (intro _ _ _)
    | (intro _ e; have _hk : Frame _ _ _ _ := e)
    | (intro _ e; cases e)
    | dsimp only
    | (dsimp +zetaDelta only))

theorem State.mainReset_fr {fw fb : Nat} {s0 : State} (s : State) (hK : Frame fw fb s0 s) (hfw : Sub 37593491644700554163080 fw := by exact Sub.within hfw rfl) (hfb : Sub 98303 fb := by exact Sub.within hfb rfl) : Frame fw fb s0 (State.mainReset s) := by
  unfold State.mainReset
  extract_lets t
  have ht : Frame fw fb s0 t := by
    refine hK.setAll hfw rfl (fun k hn hk => aFind_filter_key _ _ _ (fun x => ?_))
      ⟨rfl, memWf_filter _ _, aWf_filter _ _ _, fun _ => Nat.zero_le _, id, fun _ => Nat.le_refl _, Nat.le_refl _, Nat.le_refl _⟩
    have h15 : 15 ≤ k / 2 ^ 26 := by
      by_contra hc
      have h := hfb.bit (i := k / 2 ^ 26) (by generalize k / 2 ^ 26 = n at *; interval_cases n <;> rfl)
      rw [h] at hk
      cases hk
    have h64 : 0xF00000 ≤ k / 64 := by omega
    simp [mainKept, h64]
  exact State.sbRegs_fr _ ht

theorem State.mainOff_fr {fw fb : Nat} {s0 : State} (s : State) (hK : Frame fw fb s0 s) (hfw : Sub 37777959085437649679240 fw := by exact Sub.within hfw rfl) (hfb : Sub 393215 fb := by exact Sub.within hfb rfl) : Frame fw fb s0 (State.mainOff s) := by
  have k0 : ∀ (t : State) x0, Frame fw fb s0 t → Frame fw fb s0 { t with mgmt := x0 } := fun t x0 ht => Frame.upd ht hfw rfl rfl ⟨rfl, rfl, rfl⟩
  unfold State.mainOff
  repeat' (first
    | with_reducible assumption
    | with_reducible apply State.chainCut_fr
    | with_reducible apply State.mainReset_fr
    | with_reducible apply State.stagingLost_fr
    | with_reducible apply State.wr_fr
    | (with_reducible refine Frame.foldl ?_ ?_)
    | (with_reducible refine Frame.foldr ?_ ?_)
    | (with_reducible refine Frame.ite ?_ ?_)
    | ((with_reducible apply Sub.within hfw); exact rfl)
    | ((with_reducible apply Sub.within hfb); exact rfl)
    | ((with_reducible apply Mixed.of); exact rfl)
    | (apply hfb.bit (i := 0) rfl)
    | (apply hfb.bit (i := 1) rfl)
    | (apply hfb.bit (i := 2) rfl)
    | (apply hfb.bit (i := 3) rfl)
    | (apply hfb.bit (i := 4) rfl)
    | (apply hfb.bit (i := 5) rfl)
    | (apply hfb.bit (i := 6) rfl)
    | (apply hfb.bit (i := 7) rfl)
    | (apply hfb.bit (i := 8) rfl)
    | (apply hfb.bit (i := 9) rfl)
    | (apply hfb.bit (i := 10) rfl)
    | (apply hfb.bit (i := 11) rfl)
    | (apply hfb.bit (i := 12) rfl)
    | (apply hfb.bit (i := 13) rfl)
    | (apply hfb.bit (i := 14) rfl)
    | (apply hfb.bit (i := 15) rfl)
    | (apply hfb.bit (i := 16) rfl)
    | (apply hfb.bit (i := 18) rfl)
    | (extract_lets)
    | (fail_if_no_progress (with_reducible refine k0 _ _ ?_))
    | split
    | (intro _ _ _)
    | (intro _ e; have _hk : Frame _ _ _ _ := e)
    | (intro _ e; cases e)
    | dsimp only
    | (dsimp +zetaDelta only)
    | (fail_if_no_progress ((with_reducible refine Frame.upd ?_ hfw ?_ rfl ⟨rfl, rfl, rfl⟩); rotate_left; exact rfl)))

theorem State.latchOff_fr {fw fb : Nat} {s0 : State} (s : State) (hK : Frame fw fb s0 s) (hfw : Sub 37777959085437649679240 fw := by exact Sub.within hfw rfl) (hfb : Sub 393215 fb := by exact Sub.within hfb rfl) : Frame fw fb s0 (State.latchOff s) := by
  have k0 : ∀ (t : State) x0, Frame fw fb s0 t → Frame fw fb s0 { t with mgmt := x0 } := fun t x0 ht => Frame.upd ht hfw rfl rfl ⟨rfl, rfl, rfl⟩
  unfold State.latchOff
  repeat' (first
    | with_reducible assumption
    | with_reducible apply State.mainOff_fr
    | (with_reducible refine Frame.ite ?_ ?_)
    | ((with_reducible apply Sub.within hfw); exact rfl)
    | ((with_reducible apply Sub.within hfb); exact rfl)
    | ((with_reducible apply Mixed.of); exact rfl)
    | (apply hfb.bit (i := 0) rfl)
    | (apply hfb.bit (i := 1) rfl)
    | (apply hfb.bit (i := 2) rfl)
    | (apply hfb.bit (i := 3) rfl)
    | (apply hfb.bit (i := 4) rfl)
    | (apply hfb.bit (i := 5) rfl)
    | (apply hfb.bit (i := 6) rfl)
    | (apply hfb.bit (i := 7) rfl)
    | (apply hfb.bit (i := 8) rfl)
    | (apply hfb.bit (i := 9) rfl)
    | (apply hfb.bit (i := 10) rfl)
    | (apply hfb.bit (i := 11) rfl)
    | (apply hfb.bit (i := 12) rfl)
    | (apply hfb.bit (i := 13) rfl)
    | (apply hfb.bit (i := 14) rfl)
    | (apply hfb.bit (i := 15) rfl)
    | (apply hfb.bit (i := 16) rfl)
    | (apply hfb.bit (i := 18) rfl)
    | (extract_lets)
    | (fail_if_no_progress (with_reducible refine k0 _ _ ?_))
    | split
    | (intro _ _ _)
    | (intro _ e; have _hk : Frame _ _ _ _ := e)
    | (intro _ e; cases e)
    | dsimp only
    | (dsimp +zetaDelta only)
    | (fail_if_no_progress ((with_reducible refine Frame.upd ?_ hfw ?_ rfl ⟨rfl, rfl, rfl⟩); rotate_left; exact rfl)))

theorem State.powerOn_fr {fw fb : Nat} {s0 : State} (s : State) (hK : Frame fw fb s0 s) (hfw : Sub 37778931862957161709513 fw := by exact Sub.within hfw rfl) (hfb : Sub 524287 fb := by exact Sub.within hfb rfl) : Frame fw fb s0 (State.powerOn s) := by
  unfold State.powerOn
  extract_lets b x t
  have ht : Frame fw fb s0 t := by
    refine hK.setAll hfw rfl (fun k hn hk => ?_) ⟨rfl, memWf_filter _ _, aWf_filter _ _ _, fun _ => Nat.zero_le _, fun _ => Nat.zero_le _,
      fun _ => Nat.le_refl _, Nat.le_refl _, Nat.le_refl _⟩
    have h := hfb.bit (i := k / 2 ^ 26) (by generalize k / 2 ^ 26 = n at *; interval_cases n <;> rfl)
    rw [h] at hk
    cases hk
  exact State.scoreRegs_fr _ ht

theorem State.recordBoot_fr {fw fb : Nat} {s0 : State} (s : State) (copies : Nat) (hK : Frame fw fb s0 s) (hfw : Sub 147573952589676412928 fw := by exact Sub.within hfw rfl) (hfb : Sub 294912 fb := by exact Sub.within hfb rfl) : Frame fw fb s0 (State.recordBoot s copies) := by
  unfold State.recordBoot
  split
  · exact State.faultCause_fr _ _ hK
  · extract_lets x t y u
    have ht : Frame fw fb s0 t := Frame.ite hK (hK.set hfw rfl rfl ⟨rfl, id, id, id, id, fun _ => Nat.le_refl _, Nat.le_refl _, Nat.le_succ _⟩)
    exact State.wr_fr _ _ _ (State.wr_fr _ _ _ (State.wr_fr _ _ _ (State.measure_fr _ _ ht)))

theorem State.chipBoot_fr {fw fb : Nat} {s0 : State} (s : State) (straps : Nat) (hK : Frame fw fb s0 s) (hfb : Sub 66560 fb := by exact Sub.within hfb rfl) : Frame fw fb s0 (State.chipBoot s straps) := by
  unfold State.chipBoot
  repeat' (first
    | with_reducible assumption
    | with_reducible apply State.wr_fr
    | (with_reducible refine Frame.ite ?_ ?_)
    | ((with_reducible apply Sub.within hfw); exact rfl)
    | ((with_reducible apply Sub.within hfb); exact rfl)
    | ((with_reducible apply Mixed.of); exact rfl)
    | (apply hfb.bit (i := 10) rfl)
    | (apply hfb.bit (i := 16) rfl)
    | (dsimp only [State.wrs, State.regs0, List.foldl])
    | (extract_lets)
    | split
    | (intro _ _ _)
    | (intro _ e; have _hk : Frame _ _ _ _ := e)
    | (intro _ e; cases e)
    | dsimp only
    | (dsimp +zetaDelta only))

theorem State.bimonUp_fr {fw fb : Nat} {s0 : State} (s : State) (straps : Nat) (hK : Frame fw fb s0 s) (hfw : Sub 64 fw := by exact Sub.within hfw rfl) (hfb : Sub 377856 fb := by exact Sub.within hfb rfl) : Frame fw fb s0 (State.bimonUp s straps) := by
  unfold State.bimonUp
  repeat' (first
    | with_reducible assumption
    | with_reducible apply State.chipBoot_fr
    | with_reducible apply State.recordTick_fr
    | with_reducible apply State.wr_fr
    | (with_reducible refine Frame.ite ?_ ?_)
    | ((with_reducible apply Sub.within hfw); exact rfl)
    | ((with_reducible apply Sub.within hfb); exact rfl)
    | ((with_reducible apply Mixed.of); exact rfl)
    | (apply hfb.bit (i := 10) rfl)
    | (apply hfb.bit (i := 14) rfl)
    | (apply hfb.bit (i := 15) rfl)
    | (apply hfb.bit (i := 16) rfl)
    | (apply hfb.bit (i := 18) rfl)
    | (dsimp only [State.wrs, State.regs0, List.foldl])
    | (extract_lets)
    | split
    | (intro _ _ _)
    | (intro _ e; have _hk : Frame _ _ _ _ := e)
    | (intro _ e; cases e)
    | dsimp only
    | (dsimp +zetaDelta only))

theorem standbyInputStart_fr {fw fb : Nat} {s0 : State} (straps copies : Nat) (s : State) (hK : Frame fw fb s0 s) (hfw : Sub 37778931862957161709513 fw := by exact Sub.within hfw rfl) (hfb : Sub 524287 fb := by exact Sub.within hfb rfl) : Frame fw fb s0 (standbyInputStart straps copies s) := by
  have k0 : ∀ (t : State) x0, Frame fw fb s0 t → Frame fw fb s0 { t with mgmt := x0 } := fun t x0 ht => Frame.upd ht hfw rfl rfl ⟨rfl, rfl, rfl⟩
  unfold standbyInputStart
  repeat' (first
    | with_reducible assumption
    | with_reducible apply State.bimonUp_fr
    | with_reducible apply State.bootRun_fr
    | with_reducible apply State.measure_fr
    | with_reducible apply State.powerOn_fr
    | with_reducible apply State.recordBoot_fr
    | (with_reducible refine Frame.ite ?_ ?_)
    | ((with_reducible apply Sub.within hfw); exact rfl)
    | ((with_reducible apply Sub.within hfb); exact rfl)
    | ((with_reducible apply Mixed.of); exact rfl)
    | (apply hfb.bit (i := 0) rfl)
    | (apply hfb.bit (i := 1) rfl)
    | (apply hfb.bit (i := 2) rfl)
    | (apply hfb.bit (i := 3) rfl)
    | (apply hfb.bit (i := 4) rfl)
    | (apply hfb.bit (i := 5) rfl)
    | (apply hfb.bit (i := 6) rfl)
    | (apply hfb.bit (i := 7) rfl)
    | (apply hfb.bit (i := 8) rfl)
    | (apply hfb.bit (i := 9) rfl)
    | (apply hfb.bit (i := 10) rfl)
    | (apply hfb.bit (i := 11) rfl)
    | (apply hfb.bit (i := 12) rfl)
    | (apply hfb.bit (i := 13) rfl)
    | (apply hfb.bit (i := 14) rfl)
    | (apply hfb.bit (i := 15) rfl)
    | (apply hfb.bit (i := 16) rfl)
    | (apply hfb.bit (i := 17) rfl)
    | (apply hfb.bit (i := 18) rfl)
    | (extract_lets)
    | (fail_if_no_progress (with_reducible refine k0 _ _ ?_))
    | split
    | (intro _ _ _)
    | (intro _ e; have _hk : Frame _ _ _ _ := e)
    | (intro _ e; cases e)
    | dsimp only
    | (dsimp +zetaDelta only)
    | (fail_if_no_progress ((with_reducible refine Frame.upd ?_ hfw ?_ rfl ⟨rfl, rfl, rfl⟩); rotate_left; exact rfl)))

theorem execStandbyInputStart_fr {fw fb : Nat} {s0 : State} (straps copies : Nat) (s : State) (hK : Frame fw fb s0 s) (hfw : Sub 37778931862957161709513 fw := by exact Sub.within hfw rfl) (hfb : Sub 524287 fb := by exact Sub.within hfb rfl) : ∀ u, execStandbyInputStart straps copies s = .next u → Frame fw fb s0 u := by
  unfold execStandbyInputStart
  repeat' (first
    | with_reducible assumption
    | with_reducible apply standbyInputStart_fr
    | (with_reducible refine Frame.ite ?_ ?_)
    | ((with_reducible apply Sub.within hfw); exact rfl)
    | ((with_reducible apply Sub.within hfb); exact rfl)
    | ((with_reducible apply Mixed.of); exact rfl)
    | (apply hfb.bit (i := 0) rfl)
    | (apply hfb.bit (i := 1) rfl)
    | (apply hfb.bit (i := 2) rfl)
    | (apply hfb.bit (i := 3) rfl)
    | (apply hfb.bit (i := 4) rfl)
    | (apply hfb.bit (i := 5) rfl)
    | (apply hfb.bit (i := 6) rfl)
    | (apply hfb.bit (i := 7) rfl)
    | (apply hfb.bit (i := 8) rfl)
    | (apply hfb.bit (i := 9) rfl)
    | (apply hfb.bit (i := 10) rfl)
    | (apply hfb.bit (i := 11) rfl)
    | (apply hfb.bit (i := 12) rfl)
    | (apply hfb.bit (i := 13) rfl)
    | (apply hfb.bit (i := 14) rfl)
    | (apply hfb.bit (i := 15) rfl)
    | (apply hfb.bit (i := 16) rfl)
    | (apply hfb.bit (i := 17) rfl)
    | (apply hfb.bit (i := 18) rfl)
    | (extract_lets)
    | split
    | (intro _ _ _)
    | (intro _ e; have _hk : Frame _ _ _ _ := e)
    | (intro _ e; cases e)
    | dsimp only
    | (dsimp +zetaDelta only))

theorem standbyInputStop_fr {fw fb : Nat} {s0 : State} (s : State) (hK : Frame fw fb s0 s) (hfw : Sub 37778931862957161709513 fw := by exact Sub.within hfw rfl) (hfb : Sub 524287 fb := by exact Sub.within hfb rfl) : Frame fw fb s0 (standbyInputStop s) := by
  unfold standbyInputStop
  repeat' (first
    | with_reducible assumption
    | with_reducible apply State.mainOff_fr
    | with_reducible apply State.powerOn_fr
    | (with_reducible refine Frame.ite ?_ ?_)
    | ((with_reducible apply Sub.within hfw); exact rfl)
    | ((with_reducible apply Sub.within hfb); exact rfl)
    | ((with_reducible apply Mixed.of); exact rfl)
    | (apply hfb.bit (i := 0) rfl)
    | (apply hfb.bit (i := 1) rfl)
    | (apply hfb.bit (i := 2) rfl)
    | (apply hfb.bit (i := 3) rfl)
    | (apply hfb.bit (i := 4) rfl)
    | (apply hfb.bit (i := 5) rfl)
    | (apply hfb.bit (i := 6) rfl)
    | (apply hfb.bit (i := 7) rfl)
    | (apply hfb.bit (i := 8) rfl)
    | (apply hfb.bit (i := 9) rfl)
    | (apply hfb.bit (i := 10) rfl)
    | (apply hfb.bit (i := 11) rfl)
    | (apply hfb.bit (i := 12) rfl)
    | (apply hfb.bit (i := 13) rfl)
    | (apply hfb.bit (i := 14) rfl)
    | (apply hfb.bit (i := 15) rfl)
    | (apply hfb.bit (i := 16) rfl)
    | (apply hfb.bit (i := 17) rfl)
    | (apply hfb.bit (i := 18) rfl)
    | (extract_lets)
    | split
    | (intro _ _ _)
    | (intro _ e; have _hk : Frame _ _ _ _ := e)
    | (intro _ e; cases e)
    | dsimp only
    | (dsimp +zetaDelta only))

theorem execStandbyInputStop_fr {fw fb : Nat} {s0 : State} (s : State) (hK : Frame fw fb s0 s) (hfw : Sub 37778931862957161709513 fw := by exact Sub.within hfw rfl) (hfb : Sub 524287 fb := by exact Sub.within hfb rfl) : ∀ u, execStandbyInputStop s = .next u → Frame fw fb s0 u := by
  unfold execStandbyInputStop
  repeat' (first
    | with_reducible assumption
    | with_reducible apply standbyInputStop_fr
    | (with_reducible refine Frame.ite ?_ ?_)
    | ((with_reducible apply Sub.within hfw); exact rfl)
    | ((with_reducible apply Sub.within hfb); exact rfl)
    | ((with_reducible apply Mixed.of); exact rfl)
    | (apply hfb.bit (i := 0) rfl)
    | (apply hfb.bit (i := 1) rfl)
    | (apply hfb.bit (i := 2) rfl)
    | (apply hfb.bit (i := 3) rfl)
    | (apply hfb.bit (i := 4) rfl)
    | (apply hfb.bit (i := 5) rfl)
    | (apply hfb.bit (i := 6) rfl)
    | (apply hfb.bit (i := 7) rfl)
    | (apply hfb.bit (i := 8) rfl)
    | (apply hfb.bit (i := 9) rfl)
    | (apply hfb.bit (i := 10) rfl)
    | (apply hfb.bit (i := 11) rfl)
    | (apply hfb.bit (i := 12) rfl)
    | (apply hfb.bit (i := 13) rfl)
    | (apply hfb.bit (i := 14) rfl)
    | (apply hfb.bit (i := 15) rfl)
    | (apply hfb.bit (i := 16) rfl)
    | (apply hfb.bit (i := 17) rfl)
    | (apply hfb.bit (i := 18) rfl)
    | (extract_lets)
    | split
    | (intro _ _ _)
    | (intro _ e; have _hk : Frame _ _ _ _ := e)
    | (intro _ e; cases e)
    | dsimp only
    | (dsimp +zetaDelta only))

theorem mainInputStop_fr {fw fb : Nat} {s0 : State} (s : State) (hK : Frame fw fb s0 s) (hfw : Sub 37777959085437649679240 fw := by exact Sub.within hfw rfl) (hfb : Sub 393215 fb := by exact Sub.within hfb rfl) : Frame fw fb s0 (mainInputStop s) := by
  have k0 : ∀ (t : State) x0, Frame fw fb s0 t → Frame fw fb s0 { t with mgmt := x0 } := fun t x0 ht => Frame.upd ht hfw rfl rfl ⟨rfl, rfl, rfl⟩
  unfold mainInputStop
  repeat' (first
    | with_reducible assumption
    | with_reducible apply State.mainOff_fr
    | (with_reducible refine Frame.ite ?_ ?_)
    | ((with_reducible apply Sub.within hfw); exact rfl)
    | ((with_reducible apply Sub.within hfb); exact rfl)
    | ((with_reducible apply Mixed.of); exact rfl)
    | (apply hfb.bit (i := 0) rfl)
    | (apply hfb.bit (i := 1) rfl)
    | (apply hfb.bit (i := 2) rfl)
    | (apply hfb.bit (i := 3) rfl)
    | (apply hfb.bit (i := 4) rfl)
    | (apply hfb.bit (i := 5) rfl)
    | (apply hfb.bit (i := 6) rfl)
    | (apply hfb.bit (i := 7) rfl)
    | (apply hfb.bit (i := 8) rfl)
    | (apply hfb.bit (i := 9) rfl)
    | (apply hfb.bit (i := 10) rfl)
    | (apply hfb.bit (i := 11) rfl)
    | (apply hfb.bit (i := 12) rfl)
    | (apply hfb.bit (i := 13) rfl)
    | (apply hfb.bit (i := 14) rfl)
    | (apply hfb.bit (i := 15) rfl)
    | (apply hfb.bit (i := 16) rfl)
    | (apply hfb.bit (i := 18) rfl)
    | (extract_lets)
    | (fail_if_no_progress (with_reducible refine k0 _ _ ?_))
    | split
    | (intro _ _ _)
    | (intro _ e; have _hk : Frame _ _ _ _ := e)
    | (intro _ e; cases e)
    | dsimp only
    | (dsimp +zetaDelta only)
    | (fail_if_no_progress ((with_reducible refine Frame.upd ?_ hfw ?_ rfl ⟨rfl, rfl, rfl⟩); rotate_left; exact rfl)))

theorem execMainInputStop_fr {fw fb : Nat} {s0 : State} (s : State) (hK : Frame fw fb s0 s) (hfw : Sub 37777959085437649679240 fw := by exact Sub.within hfw rfl) (hfb : Sub 393215 fb := by exact Sub.within hfb rfl) : ∀ u, execMainInputStop s = .next u → Frame fw fb s0 u := by
  unfold execMainInputStop
  repeat' (first
    | with_reducible assumption
    | with_reducible apply mainInputStop_fr
    | (with_reducible refine Frame.ite ?_ ?_)
    | ((with_reducible apply Sub.within hfw); exact rfl)
    | ((with_reducible apply Sub.within hfb); exact rfl)
    | ((with_reducible apply Mixed.of); exact rfl)
    | (apply hfb.bit (i := 0) rfl)
    | (apply hfb.bit (i := 1) rfl)
    | (apply hfb.bit (i := 2) rfl)
    | (apply hfb.bit (i := 3) rfl)
    | (apply hfb.bit (i := 4) rfl)
    | (apply hfb.bit (i := 5) rfl)
    | (apply hfb.bit (i := 6) rfl)
    | (apply hfb.bit (i := 7) rfl)
    | (apply hfb.bit (i := 8) rfl)
    | (apply hfb.bit (i := 9) rfl)
    | (apply hfb.bit (i := 10) rfl)
    | (apply hfb.bit (i := 11) rfl)
    | (apply hfb.bit (i := 12) rfl)
    | (apply hfb.bit (i := 13) rfl)
    | (apply hfb.bit (i := 14) rfl)
    | (apply hfb.bit (i := 15) rfl)
    | (apply hfb.bit (i := 16) rfl)
    | (apply hfb.bit (i := 18) rfl)
    | (extract_lets)
    | split
    | (intro _ _ _)
    | (intro _ e; have _hk : Frame _ _ _ _ := e)
    | (intro _ e; cases e)
    | dsimp only
    | (dsimp +zetaDelta only))

theorem mainRailStart_fr {fw fb : Nat} {s0 : State} (s : State) (hK : Frame fw fb s0 s) (hfw : Sub 36893488147419103232 fw := by exact Sub.within hfw rfl) : Frame fw fb s0 (mainRailStart s) := by
  have k0 : ∀ (t : State) x0, Frame fw fb s0 t → Frame fw fb s0 { t with mgmt := x0 } := fun t x0 ht => Frame.upd ht hfw rfl rfl ⟨rfl, rfl, rfl⟩
  unfold mainRailStart
  repeat' (first
    | with_reducible assumption
    | (with_reducible refine Frame.ite ?_ ?_)
    | ((with_reducible apply Sub.within hfw); exact rfl)
    | ((with_reducible apply Sub.within hfb); exact rfl)
    | ((with_reducible apply Mixed.of); exact rfl)
    | (extract_lets)
    | (fail_if_no_progress (with_reducible refine k0 _ _ ?_))
    | split
    | (intro _ _ _)
    | (intro _ e; have _hk : Frame _ _ _ _ := e)
    | (intro _ e; cases e)
    | dsimp only
    | (dsimp +zetaDelta only)
    | (fail_if_no_progress ((with_reducible refine Frame.upd ?_ hfw ?_ rfl ⟨rfl, rfl, rfl⟩); rotate_left; exact rfl)))

theorem execMainRailStart_fr {fw fb : Nat} {s0 : State} (s : State) (hK : Frame fw fb s0 s) (hfw : Sub 36893488147419103232 fw := by exact Sub.within hfw rfl) : ∀ u, execMainRailStart s = .next u → Frame fw fb s0 u := by
  unfold execMainRailStart
  repeat' (first
    | with_reducible assumption
    | with_reducible apply mainRailStart_fr
    | (with_reducible refine Frame.ite ?_ ?_)
    | ((with_reducible apply Sub.within hfw); exact rfl)
    | ((with_reducible apply Sub.within hfb); exact rfl)
    | ((with_reducible apply Mixed.of); exact rfl)
    | (extract_lets)
    | split
    | (intro _ _ _)
    | (intro _ e; have _hk : Frame _ _ _ _ := e)
    | (intro _ e; cases e)
    | dsimp only
    | (dsimp +zetaDelta only))

theorem State.pinsAgain_fr {fw fb : Nat} {s0 : State} (s : State) (hK : Frame fw fb s0 s) (hfw : Sub 73786976294838206464 fw := by exact Sub.within hfw rfl) (hfb : Sub 9216 fb := by exact Sub.within hfb rfl) : Frame fw fb s0 (State.pinsAgain s) := by
  have k0 : ∀ (t : State) x0, Frame fw fb s0 t → Frame fw fb s0 { t with power := x0 } := fun t x0 ht => Frame.upd ht hfw rfl rfl ⟨rfl, rfl, rfl⟩
  unfold State.pinsAgain
  repeat' (first
    | with_reducible assumption
    | with_reducible apply State.halveLimits_fr
    | with_reducible apply State.wr_fr
    | (with_reducible refine Frame.foldl ?_ ?_)
    | (with_reducible refine Frame.foldr ?_ ?_)
    | (with_reducible refine Frame.ite ?_ ?_)
    | ((with_reducible apply Sub.within hfw); exact rfl)
    | ((with_reducible apply Sub.within hfb); exact rfl)
    | ((with_reducible apply Mixed.of); exact rfl)
    | (apply hfb.bit (i := 10) rfl)
    | (apply hfb.bit (i := 13) rfl)
    | (dsimp only [State.wrs, State.regs0, List.foldl])
    | (extract_lets)
    | (fail_if_no_progress (with_reducible refine k0 _ _ ?_))
    | split
    | (intro _ _ _)
    | (intro _ e; have _hk : Frame _ _ _ _ := e)
    | (intro _ e; cases e)
    | dsimp only
    | (dsimp +zetaDelta only)
    | (fail_if_no_progress ((with_reducible refine Frame.upd ?_ hfw ?_ rfl ⟨rfl, rfl, rfl⟩); rotate_left; exact rfl)))

theorem mainPowerGood_fr {fw fb : Nat} {s0 : State} (s : State) (hK : Frame fw fb s0 s) (hfw : Sub 37593599731091611054984 fw := by exact Sub.within hfw rfl) (hfb : Sub 131071 fb := by exact Sub.within hfb rfl) : Frame fw fb s0 (mainPowerGood s) := by
  unfold mainPowerGood
  repeat' (first
    | with_reducible assumption
    | with_reducible apply State.drainRegs_fr
    | with_reducible apply State.limitReg_fr
    | with_reducible apply State.loadMap_fr
    | with_reducible apply State.mainReset_fr
    | with_reducible apply State.pinsAgain_fr
    | with_reducible apply State.wr_fr
    | (with_reducible refine Frame.foldl ?_ ?_)
    | (with_reducible refine Frame.foldr ?_ ?_)
    | (with_reducible refine Frame.ite ?_ ?_)
    | ((with_reducible apply Sub.within hfw); exact rfl)
    | ((with_reducible apply Sub.within hfb); exact rfl)
    | ((with_reducible apply Mixed.of); exact rfl)
    | (apply hfb.bit (i := 0) rfl)
    | (apply hfb.bit (i := 1) rfl)
    | (apply hfb.bit (i := 2) rfl)
    | (apply hfb.bit (i := 3) rfl)
    | (apply hfb.bit (i := 4) rfl)
    | (apply hfb.bit (i := 5) rfl)
    | (apply hfb.bit (i := 6) rfl)
    | (apply hfb.bit (i := 7) rfl)
    | (apply hfb.bit (i := 8) rfl)
    | (apply hfb.bit (i := 9) rfl)
    | (apply hfb.bit (i := 10) rfl)
    | (apply hfb.bit (i := 11) rfl)
    | (apply hfb.bit (i := 12) rfl)
    | (apply hfb.bit (i := 13) rfl)
    | (apply hfb.bit (i := 14) rfl)
    | (apply hfb.bit (i := 15) rfl)
    | (apply hfb.bit (i := 16) rfl)
    | (extract_lets)
    | split
    | (intro _ _ _)
    | (intro _ e; have _hk : Frame _ _ _ _ := e)
    | (intro _ e; cases e)
    | dsimp only
    | (dsimp +zetaDelta only))

theorem execMainPowerGood_fr {fw fb : Nat} {s0 : State} (s : State) (hK : Frame fw fb s0 s) (hfw : Sub 37593599731091611054984 fw := by exact Sub.within hfw rfl) (hfb : Sub 131071 fb := by exact Sub.within hfb rfl) : ∀ u, execMainPowerGood s = .next u → Frame fw fb s0 u := by
  unfold execMainPowerGood
  repeat' (first
    | with_reducible assumption
    | with_reducible apply mainPowerGood_fr
    | (with_reducible refine Frame.ite ?_ ?_)
    | ((with_reducible apply Sub.within hfw); exact rfl)
    | ((with_reducible apply Sub.within hfb); exact rfl)
    | ((with_reducible apply Mixed.of); exact rfl)
    | (apply hfb.bit (i := 0) rfl)
    | (apply hfb.bit (i := 1) rfl)
    | (apply hfb.bit (i := 2) rfl)
    | (apply hfb.bit (i := 3) rfl)
    | (apply hfb.bit (i := 4) rfl)
    | (apply hfb.bit (i := 5) rfl)
    | (apply hfb.bit (i := 6) rfl)
    | (apply hfb.bit (i := 7) rfl)
    | (apply hfb.bit (i := 8) rfl)
    | (apply hfb.bit (i := 9) rfl)
    | (apply hfb.bit (i := 10) rfl)
    | (apply hfb.bit (i := 11) rfl)
    | (apply hfb.bit (i := 12) rfl)
    | (apply hfb.bit (i := 13) rfl)
    | (apply hfb.bit (i := 14) rfl)
    | (apply hfb.bit (i := 15) rfl)
    | (apply hfb.bit (i := 16) rfl)
    | (extract_lets)
    | split
    | (intro _ _ _)
    | (intro _ e; have _hk : Frame _ _ _ _ := e)
    | (intro _ e; cases e)
    | dsimp only
    | (dsimp +zetaDelta only))

theorem railFailure_fr {fw fb : Nat} {s0 : State} (s : State) (hK : Frame fw fb s0 s) (hfw : Sub 37777959085437649679240 fw := by exact Sub.within hfw rfl) (hfb : Sub 393215 fb := by exact Sub.within hfb rfl) : Frame fw fb s0 (railFailure s) := by
  unfold railFailure
  repeat' (first
    | with_reducible assumption
    | with_reducible apply State.faultCause_fr
    | with_reducible apply State.mainOff_fr
    | (with_reducible refine Frame.ite ?_ ?_)
    | ((with_reducible apply Sub.within hfw); exact rfl)
    | ((with_reducible apply Sub.within hfb); exact rfl)
    | ((with_reducible apply Mixed.of); exact rfl)
    | (apply hfb.bit (i := 0) rfl)
    | (apply hfb.bit (i := 1) rfl)
    | (apply hfb.bit (i := 2) rfl)
    | (apply hfb.bit (i := 3) rfl)
    | (apply hfb.bit (i := 4) rfl)
    | (apply hfb.bit (i := 5) rfl)
    | (apply hfb.bit (i := 6) rfl)
    | (apply hfb.bit (i := 7) rfl)
    | (apply hfb.bit (i := 8) rfl)
    | (apply hfb.bit (i := 9) rfl)
    | (apply hfb.bit (i := 10) rfl)
    | (apply hfb.bit (i := 11) rfl)
    | (apply hfb.bit (i := 12) rfl)
    | (apply hfb.bit (i := 13) rfl)
    | (apply hfb.bit (i := 14) rfl)
    | (apply hfb.bit (i := 15) rfl)
    | (apply hfb.bit (i := 16) rfl)
    | (apply hfb.bit (i := 18) rfl)
    | (extract_lets)
    | split
    | (intro _ _ _)
    | (intro _ e; have _hk : Frame _ _ _ _ := e)
    | (intro _ e; cases e)
    | dsimp only
    | (dsimp +zetaDelta only))

theorem execRailFailure_fr {fw fb : Nat} {s0 : State} (s : State) (hK : Frame fw fb s0 s) (hfw : Sub 37777959085437649679240 fw := by exact Sub.within hfw rfl) (hfb : Sub 393215 fb := by exact Sub.within hfb rfl) : ∀ u, execRailFailure s = .next u → Frame fw fb s0 u := by
  unfold execRailFailure
  repeat' (first
    | with_reducible assumption
    | with_reducible apply railFailure_fr
    | (with_reducible refine Frame.ite ?_ ?_)
    | ((with_reducible apply Sub.within hfw); exact rfl)
    | ((with_reducible apply Sub.within hfb); exact rfl)
    | ((with_reducible apply Mixed.of); exact rfl)
    | (apply hfb.bit (i := 0) rfl)
    | (apply hfb.bit (i := 1) rfl)
    | (apply hfb.bit (i := 2) rfl)
    | (apply hfb.bit (i := 3) rfl)
    | (apply hfb.bit (i := 4) rfl)
    | (apply hfb.bit (i := 5) rfl)
    | (apply hfb.bit (i := 6) rfl)
    | (apply hfb.bit (i := 7) rfl)
    | (apply hfb.bit (i := 8) rfl)
    | (apply hfb.bit (i := 9) rfl)
    | (apply hfb.bit (i := 10) rfl)
    | (apply hfb.bit (i := 11) rfl)
    | (apply hfb.bit (i := 12) rfl)
    | (apply hfb.bit (i := 13) rfl)
    | (apply hfb.bit (i := 14) rfl)
    | (apply hfb.bit (i := 15) rfl)
    | (apply hfb.bit (i := 16) rfl)
    | (apply hfb.bit (i := 18) rfl)
    | (extract_lets)
    | split
    | (intro _ _ _)
    | (intro _ e; have _hk : Frame _ _ _ _ := e)
    | (intro _ e; cases e)
    | dsimp only
    | (dsimp +zetaDelta only))

theorem State.portTrain_fr {fw fb : Nat} {s0 : State} (s : State) (h : Nat) (hK : Frame fw fb s0 s) (hfw : Sub 128 fw := by exact Sub.within hfw rfl) : Frame fw fb s0 (State.portTrain s h) := by
  unfold State.portTrain
  repeat' (first
    | with_reducible assumption
    | with_reducible apply State.setPort_fr
    | (with_reducible refine Frame.ite ?_ ?_)
    | ((with_reducible apply Sub.within hfw); exact rfl)
    | ((with_reducible apply Sub.within hfb); exact rfl)
    | ((with_reducible apply Mixed.of); exact rfl)
    | (extract_lets)
    | split
    | (intro _ _ _)
    | (intro _ e; have _hk : Frame _ _ _ _ := e)
    | (intro _ e; cases e)
    | dsimp only
    | (dsimp +zetaDelta only))

theorem rootReady_fr {fw fb : Nat} {s0 : State} (s : State) (hK : Frame fw fb s0 s) (hfw : Sub 590295810359242522832 fw := by exact Sub.within hfw rfl) (hfb : Sub 148992 fb := by exact Sub.within hfb rfl) : Frame fw fb s0 (rootReady s) := by
  have k0 : ∀ (t : State) x0, Frame fw fb s0 t → Frame fw fb s0 { t with clkBring := x0 } := fun t x0 ht => Frame.upd ht hfw rfl rfl ⟨rfl, rfl, rfl⟩
  unfold rootReady
  repeat' (first
    | with_reducible assumption
    | with_reducible apply State.linkTrain_fr
    | with_reducible apply State.portTrain_fr
    | with_reducible apply State.wr_fr
    | (with_reducible refine Frame.foldl ?_ ?_)
    | (with_reducible refine Frame.foldr ?_ ?_)
    | (with_reducible refine Frame.ite ?_ ?_)
    | ((with_reducible apply Sub.within hfw); exact rfl)
    | ((with_reducible apply Sub.within hfb); exact rfl)
    | ((with_reducible apply Mixed.of); exact rfl)
    | (apply hfb.bit (i := 9) rfl)
    | (apply hfb.bit (i := 10) rfl)
    | (apply hfb.bit (i := 14) rfl)
    | (apply hfb.bit (i := 17) rfl)
    | (dsimp only [State.wrs, State.regs0, List.foldl])
    | (extract_lets)
    | (fail_if_no_progress (with_reducible refine k0 _ _ ?_))
    | split
    | (intro _ _ _)
    | (intro _ e; have _hk : Frame _ _ _ _ := e)
    | (intro _ e; cases e)
    | dsimp only
    | (dsimp +zetaDelta only)
    | (fail_if_no_progress ((with_reducible refine Frame.upd ?_ hfw ?_ rfl ⟨rfl, rfl, rfl⟩); rotate_left; exact rfl)))

theorem execRootReady_fr {fw fb : Nat} {s0 : State} (s : State) (hK : Frame fw fb s0 s) (hfw : Sub 590295810359242522832 fw := by exact Sub.within hfw rfl) (hfb : Sub 148992 fb := by exact Sub.within hfb rfl) : ∀ u, execRootReady s = .next u → Frame fw fb s0 u := by
  unfold execRootReady
  repeat' (first
    | with_reducible assumption
    | with_reducible apply rootReady_fr
    | (with_reducible refine Frame.ite ?_ ?_)
    | ((with_reducible apply Sub.within hfw); exact rfl)
    | ((with_reducible apply Sub.within hfb); exact rfl)
    | ((with_reducible apply Mixed.of); exact rfl)
    | (apply hfb.bit (i := 9) rfl)
    | (apply hfb.bit (i := 10) rfl)
    | (apply hfb.bit (i := 14) rfl)
    | (apply hfb.bit (i := 17) rfl)
    | (extract_lets)
    | split
    | (intro _ _ _)
    | (intro _ e; have _hk : Frame _ _ _ _ := e)
    | (intro _ e; cases e)
    | dsimp only
    | (dsimp +zetaDelta only))

theorem ameloReady_fr {fw fb : Nat} {s0 : State} (s : State) (hK : Frame fw fb s0 s) (hfw : Sub 37777959085437649679304 fw := by exact Sub.within hfw rfl) (hfb : Sub 393215 fb := by exact Sub.within hfb rfl) : Frame fw fb s0 (ameloReady s) := by
  have k0 : ∀ (t : State) x0, Frame fw fb s0 t → Frame fw fb s0 { t with mgmt := x0 } := fun t x0 ht => Frame.upd ht hfw rfl rfl ⟨rfl, rfl, rfl⟩
  unfold ameloReady
  repeat' (first
    | with_reducible assumption
    | with_reducible apply State.bootRun_fr
    | with_reducible apply State.mainOff_fr
    | (with_reducible refine Frame.ite ?_ ?_)
    | ((with_reducible apply Sub.within hfw); exact rfl)
    | ((with_reducible apply Sub.within hfb); exact rfl)
    | ((with_reducible apply Mixed.of); exact rfl)
    | (apply hfb.bit (i := 0) rfl)
    | (apply hfb.bit (i := 1) rfl)
    | (apply hfb.bit (i := 2) rfl)
    | (apply hfb.bit (i := 3) rfl)
    | (apply hfb.bit (i := 4) rfl)
    | (apply hfb.bit (i := 5) rfl)
    | (apply hfb.bit (i := 6) rfl)
    | (apply hfb.bit (i := 7) rfl)
    | (apply hfb.bit (i := 8) rfl)
    | (apply hfb.bit (i := 9) rfl)
    | (apply hfb.bit (i := 10) rfl)
    | (apply hfb.bit (i := 11) rfl)
    | (apply hfb.bit (i := 12) rfl)
    | (apply hfb.bit (i := 13) rfl)
    | (apply hfb.bit (i := 14) rfl)
    | (apply hfb.bit (i := 15) rfl)
    | (apply hfb.bit (i := 16) rfl)
    | (apply hfb.bit (i := 18) rfl)
    | (extract_lets)
    | (fail_if_no_progress (with_reducible refine k0 _ _ ?_))
    | split
    | (intro _ _ _)
    | (intro _ e; have _hk : Frame _ _ _ _ := e)
    | (intro _ e; cases e)
    | dsimp only
    | (dsimp +zetaDelta only)
    | (fail_if_no_progress ((with_reducible refine Frame.upd ?_ hfw ?_ rfl ⟨rfl, rfl, rfl⟩); rotate_left; exact rfl)))

theorem execAmeloReady_fr {fw fb : Nat} {s0 : State} (s : State) (hK : Frame fw fb s0 s) (hfw : Sub 37777959085437649679304 fw := by exact Sub.within hfw rfl) (hfb : Sub 393215 fb := by exact Sub.within hfb rfl) : ∀ u, execAmeloReady s = .next u → Frame fw fb s0 u := by
  unfold execAmeloReady
  repeat' (first
    | with_reducible assumption
    | with_reducible apply ameloReady_fr
    | (with_reducible refine Frame.ite ?_ ?_)
    | ((with_reducible apply Sub.within hfw); exact rfl)
    | ((with_reducible apply Sub.within hfb); exact rfl)
    | ((with_reducible apply Mixed.of); exact rfl)
    | (apply hfb.bit (i := 0) rfl)
    | (apply hfb.bit (i := 1) rfl)
    | (apply hfb.bit (i := 2) rfl)
    | (apply hfb.bit (i := 3) rfl)
    | (apply hfb.bit (i := 4) rfl)
    | (apply hfb.bit (i := 5) rfl)
    | (apply hfb.bit (i := 6) rfl)
    | (apply hfb.bit (i := 7) rfl)
    | (apply hfb.bit (i := 8) rfl)
    | (apply hfb.bit (i := 9) rfl)
    | (apply hfb.bit (i := 10) rfl)
    | (apply hfb.bit (i := 11) rfl)
    | (apply hfb.bit (i := 12) rfl)
    | (apply hfb.bit (i := 13) rfl)
    | (apply hfb.bit (i := 14) rfl)
    | (apply hfb.bit (i := 15) rfl)
    | (apply hfb.bit (i := 16) rfl)
    | (apply hfb.bit (i := 18) rfl)
    | (extract_lets)
    | split
    | (intro _ _ _)
    | (intro _ e; have _hk : Frame _ _ _ _ := e)
    | (intro _ e; cases e)
    | dsimp only
    | (dsimp +zetaDelta only))

theorem State.sbForget_fr {fw fb : Nat} {s0 : State} (s : State) (hK : Frame fw fb s0 s) (hfw : Sub 36893488147419103744 fw := by exact Sub.within hfw rfl) (hfb : Sub 65536 fb := by exact Sub.within hfb rfl) : Frame fw fb s0 (State.sbForget s) := by
  have k0 : ∀ (t : State) x0 x1, Frame fw fb s0 t → Frame fw fb s0 { t with cmds := x0, mgmt := x1 } := fun t x0 x1 ht => Frame.upd ht hfw rfl rfl ⟨rfl, rfl, rfl⟩
  unfold State.sbForget
  repeat' (first
    | with_reducible assumption
    | with_reducible apply State.sbRegs_fr
    | (with_reducible refine Frame.ite ?_ ?_)
    | ((with_reducible apply Sub.within hfw); exact rfl)
    | ((with_reducible apply Sub.within hfb); exact rfl)
    | ((with_reducible apply Mixed.of); exact rfl)
    | (apply hfb.bit (i := 16) rfl)
    | (extract_lets)
    | (fail_if_no_progress (with_reducible refine k0 _ _ _ ?_))
    | split
    | (intro _ _ _)
    | (intro _ e; have _hk : Frame _ _ _ _ := e)
    | (intro _ e; cases e)
    | dsimp only
    | (dsimp +zetaDelta only)
    | (fail_if_no_progress ((with_reducible refine Frame.upd ?_ hfw ?_ rfl ⟨rfl, rfl, rfl⟩); rotate_left; exact rfl)))

theorem watchdogExpiry_fr {fw fb : Nat} {s0 : State} (s : State) (hK : Frame fw fb s0 s) (hfw : Sub 36893488147419103952 fw := by exact Sub.within hfw rfl) (hfb : Sub 229376 fb := by exact Sub.within hfb rfl) : Frame fw fb s0 (watchdogExpiry s) := by
  have k0 : ∀ (t : State) x0, Frame fw fb s0 t → Frame fw fb s0 { t with mgmt := x0 } := fun t x0 ht => Frame.upd ht hfw rfl rfl ⟨rfl, rfl, rfl⟩
  unfold watchdogExpiry
  repeat' (first
    | with_reducible assumption
    | with_reducible apply State.bump_fr
    | with_reducible apply State.faultCause_fr
    | with_reducible apply State.record_fr
    | with_reducible apply State.sbForget_fr
    | with_reducible apply State.wr_fr
    | (with_reducible refine Frame.ite ?_ ?_)
    | ((with_reducible apply Sub.within hfw); exact rfl)
    | ((with_reducible apply Sub.within hfb); exact rfl)
    | ((with_reducible apply Mixed.of); exact rfl)
    | (apply hfb.bit (i := 15) rfl)
    | (apply hfb.bit (i := 16) rfl)
    | (apply hfb.bit (i := 17) rfl)
    | (extract_lets)
    | (fail_if_no_progress (with_reducible refine k0 _ _ ?_))
    | split
    | (intro _ _ _)
    | (intro _ e; have _hk : Frame _ _ _ _ := e)
    | (intro _ e; cases e)
    | dsimp only
    | (dsimp +zetaDelta only)
    | (fail_if_no_progress ((with_reducible refine Frame.upd ?_ hfw ?_ rfl ⟨rfl, rfl, rfl⟩); rotate_left; exact rfl)))

theorem execWatchdogExpiry_fr {fw fb : Nat} {s0 : State} (s : State) (hK : Frame fw fb s0 s) (hfw : Sub 36893488147419103952 fw := by exact Sub.within hfw rfl) (hfb : Sub 229376 fb := by exact Sub.within hfb rfl) : ∀ u, execWatchdogExpiry s = .next u → Frame fw fb s0 u := by
  unfold execWatchdogExpiry
  repeat' (first
    | with_reducible assumption
    | with_reducible apply watchdogExpiry_fr
    | (with_reducible refine Frame.ite ?_ ?_)
    | ((with_reducible apply Sub.within hfw); exact rfl)
    | ((with_reducible apply Sub.within hfb); exact rfl)
    | ((with_reducible apply Mixed.of); exact rfl)
    | (apply hfb.bit (i := 15) rfl)
    | (apply hfb.bit (i := 16) rfl)
    | (apply hfb.bit (i := 17) rfl)
    | (extract_lets)
    | split
    | (intro _ _ _)
    | (intro _ e; have _hk : Frame _ _ _ _ := e)
    | (intro _ e; cases e)
    | dsimp only
    | (dsimp +zetaDelta only))

theorem bimonRestart_fr {fw fb : Nat} {s0 : State} (s : State) (hK : Frame fw fb s0 s) (hfw : Sub 36893488147419103232 fw := by exact Sub.within hfw rfl) (hfb : Sub 65536 fb := by exact Sub.within hfb rfl) : Frame fw fb s0 (bimonRestart s) := by
  have k0 : ∀ (t : State) x0, Frame fw fb s0 t → Frame fw fb s0 { t with mgmt := x0 } := fun t x0 ht => Frame.upd ht hfw rfl rfl ⟨rfl, rfl, rfl⟩
  unfold bimonRestart
  repeat' (first
    | with_reducible assumption
    | with_reducible apply State.wr_fr
    | (with_reducible refine Frame.ite ?_ ?_)
    | ((with_reducible apply Sub.within hfw); exact rfl)
    | ((with_reducible apply Sub.within hfb); exact rfl)
    | ((with_reducible apply Mixed.of); exact rfl)
    | (apply hfb.bit (i := 16) rfl)
    | (extract_lets)
    | (fail_if_no_progress (with_reducible refine k0 _ _ ?_))
    | split
    | (intro _ _ _)
    | (intro _ e; have _hk : Frame _ _ _ _ := e)
    | (intro _ e; cases e)
    | dsimp only
    | (dsimp +zetaDelta only)
    | (fail_if_no_progress ((with_reducible refine Frame.upd ?_ hfw ?_ rfl ⟨rfl, rfl, rfl⟩); rotate_left; exact rfl)))

theorem execBimonRestartComplete_fr {fw fb : Nat} {s0 : State} (s : State) (hK : Frame fw fb s0 s) (hfw : Sub 36893488147419103232 fw := by exact Sub.within hfw rfl) (hfb : Sub 65536 fb := by exact Sub.within hfb rfl) : ∀ u, execBimonRestartComplete s = .next u → Frame fw fb s0 u := by
  unfold execBimonRestartComplete
  repeat' (first
    | with_reducible assumption
    | with_reducible apply bimonRestart_fr
    | (with_reducible refine Frame.ite ?_ ?_)
    | ((with_reducible apply Sub.within hfw); exact rfl)
    | ((with_reducible apply Sub.within hfb); exact rfl)
    | ((with_reducible apply Mixed.of); exact rfl)
    | (apply hfb.bit (i := 16) rfl)
    | (extract_lets)
    | split
    | (intro _ _ _)
    | (intro _ e; have _hk : Frame _ _ _ _ := e)
    | (intro _ e; cases e)
    | dsimp only
    | (dsimp +zetaDelta only))

end Sys2Proof.Machine
end

