-- ==== Sys2Proof/Laws/Frame/Clocks.lean ====
section
/-! SUPPORT. What the operations of Machine/Clocks.lean leave as it was (`Frame`): one lemma each. -/

set_option linter.unreachableTactic false
set_option linter.unusedTactic false

namespace Sys2Proof.Machine

set_option Elab.async false

open Sys2Proof

theorem State.linkClock_fr {fw fb : Nat} {s0 : State} (s : State) (l : Nat) (hK : Frame fw fb s0 s) (hfw : Sub 536870912 fw := by exact Sub.within hfw rfl) : Frame fw fb s0 (State.linkClock s l) := by
  unfold State.linkClock
  repeat' (first
    | with_reducible assumption
    | with_reducible apply State.setLink_fr
    | (with_reducible refine Frame.ite ?_ ?_)
    | ((with_reducible apply Sub.within hfw); exact rfl)
    | ((with_reducible apply Sub.within hfb); exact rfl)
    | ((with_reducible apply Mixed.of); exact rfl)
    | (extract_lets)
    | split
    | (intro _ _ _)
    | (intro _ e; have _hk : Frame _ _ _ _ := e)
    | (intro _ e; cases e)
    | dsimp only
    | (dsimp +zetaDelta only))

theorem State.domHalts_fr {fw fb : Nat} {s0 : State} (s : State) (i : Nat) (hK : Frame fw fb s0 s) (hfw : Sub 148726875744115092440 fw := by exact Sub.within hfw rfl) (hfb : Sub 399135 fb := by exact Sub.within hfb rfl) : Frame fw fb s0 (State.domHalts s i) := by
  unfold State.domHalts
  repeat' (first
    | with_reducible assumption
    | with_reducible apply State.linkClock_fr
    | with_reducible apply State.linkDown_fr
    | with_reducible apply State.setPort_fr
    | with_reducible apply hostLinkDown_fr
    | (with_reducible refine Frame.foldl ?_ ?_)
    | (with_reducible refine Frame.foldr ?_ ?_)
    | (with_reducible refine Frame.ite ?_ ?_)
    | ((with_reducible apply Sub.within hfw); exact rfl)
    | ((with_reducible apply Sub.within hfb); exact rfl)
    | ((with_reducible apply Mixed.of); exact rfl)
    | (apply hfb.bit (i := 0) rfl)
    | (apply hfb.bit (i := 1) rfl)
    | (apply hfb.bit (i := 2) rfl)
    | (apply hfb.bit (i := 3) rfl)
    | (apply hfb.bit (i := 4) rfl)
    | (apply hfb.bit (i := 8) rfl)
    | (apply hfb.bit (i := 9) rfl)
    | (apply hfb.bit (i := 10) rfl)
    | (apply hfb.bit (i := 12) rfl)
    | (apply hfb.bit (i := 17) rfl)
    | (apply hfb.bit (i := 18) rfl)
    | (extract_lets)
    | split
    | (intro _ _ _)
    | (intro _ e; have _hk : Frame _ _ _ _ := e)
    | (intro _ e; cases e)
    | dsimp only
    | (dsimp +zetaDelta only))

theorem State.domRuns_fr {fw fb : Nat} {s0 : State} (s : State) (i : Nat) (hK : Frame fw fb s0 s) (hfw : Sub 536871120 fw := by exact Sub.within hfw rfl) (hfb : Sub 132608 fb := by exact Sub.within hfb rfl) : Frame fw fb s0 (State.domRuns s i) := by
  unfold State.domRuns
  repeat' (first
    | with_reducible assumption
    | with_reducible apply State.linkClock_fr
    | with_reducible apply State.linkTrain_fr
    | with_reducible apply State.portTrain_fr
    | (with_reducible refine Frame.foldl ?_ ?_)
    | (with_reducible refine Frame.foldr ?_ ?_)
    | (with_reducible refine Frame.ite ?_ ?_)
    | ((with_reducible apply Sub.within hfw); exact rfl)
    | ((with_reducible apply Sub.within hfb); exact rfl)
    | ((with_reducible apply Mixed.of); exact rfl)
    | (apply hfb.bit (i := 9) rfl)
    | (apply hfb.bit (i := 10) rfl)
    | (apply hfb.bit (i := 17) rfl)
    | (extract_lets)
    | split
    | (intro _ _ _)
    | (intro _ e; have _hk : Frame _ _ _ _ := e)
    | (intro _ e; cases e)
    | dsimp only
    | (dsimp +zetaDelta only))

theorem State.domTo_fr {fw fb : Nat} {s0 : State} (s : State) (i x : Nat) (hK : Frame fw fb s0 s) (hfb : Sub 16384 fb := by exact Sub.within hfb rfl) : Frame fw fb s0 (State.domTo s i x) := by
  unfold State.domTo
  repeat' (first
    | with_reducible assumption
    | with_reducible apply State.bump_fr
    | with_reducible apply State.wr_fr
    | (with_reducible refine Frame.ite ?_ ?_)
    | ((with_reducible apply Sub.within hfw); exact rfl)
    | ((with_reducible apply Sub.within hfb); exact rfl)
    | ((with_reducible apply Mixed.of); exact rfl)
    | (apply hfb.bit (i := 14) rfl)
    | (dsimp only [State.wrs, State.regs0, List.foldl])
    | (extract_lets)
    | split
    | (intro _ _ _)
    | (intro _ e; have _hk : Frame _ _ _ _ := e)
    | (intro _ e; cases e)
    | dsimp only
    | (dsimp +zetaDelta only))

theorem State.domStop_fr {fw fb : Nat} {s0 : State} (s : State) (i : Nat) (hK : Frame fw fb s0 s) (hfw : Sub 148726875744115092440 fw := by exact Sub.within hfw rfl) (hfb : Sub 415519 fb := by exact Sub.within hfb rfl) : Frame fw fb s0 (State.domStop s i) := by
  unfold State.domStop
  repeat' (first
    | with_reducible assumption
    | with_reducible apply State.domHalts_fr
    | with_reducible apply State.wr_fr
    | (with_reducible refine Frame.ite ?_ ?_)
    | ((with_reducible apply Sub.within hfw); exact rfl)
    | ((with_reducible apply Sub.within hfb); exact rfl)
    | ((with_reducible apply Mixed.of); exact rfl)
    | (apply hfb.bit (i := 0) rfl)
    | (apply hfb.bit (i := 1) rfl)
    | (apply hfb.bit (i := 2) rfl)
    | (apply hfb.bit (i := 3) rfl)
    | (apply hfb.bit (i := 4) rfl)
    | (apply hfb.bit (i := 8) rfl)
    | (apply hfb.bit (i := 9) rfl)
    | (apply hfb.bit (i := 10) rfl)
    | (apply hfb.bit (i := 12) rfl)
    | (apply hfb.bit (i := 14) rfl)
    | (apply hfb.bit (i := 17) rfl)
    | (apply hfb.bit (i := 18) rfl)
    | (extract_lets)
    | split
    | (intro _ _ _)
    | (intro _ e; have _hk : Frame _ _ _ _ := e)
    | (intro _ e; cases e)
    | dsimp only
    | (dsimp +zetaDelta only))

theorem State.domRoot_fr {fw fb : Nat} {s0 : State} (s : State) (i : Nat) (hK : Frame fw fb s0 s) (hfw : Sub 536871120 fw := by exact Sub.within hfw rfl) (hfb : Sub 148992 fb := by exact Sub.within hfb rfl) : Frame fw fb s0 (State.domRoot s i) := by
  unfold State.domRoot
  repeat' (first
    | with_reducible assumption
    | with_reducible apply State.domRuns_fr
    | with_reducible apply State.domTo_fr
    | with_reducible apply State.wr_fr
    | (with_reducible refine Frame.ite ?_ ?_)
    | ((with_reducible apply Sub.within hfw); exact rfl)
    | ((with_reducible apply Sub.within hfb); exact rfl)
    | ((with_reducible apply Mixed.of); exact rfl)
    | (apply hfb.bit (i := 9) rfl)
    | (apply hfb.bit (i := 10) rfl)
    | (apply hfb.bit (i := 14) rfl)
    | (apply hfb.bit (i := 17) rfl)
    | (extract_lets)
    | split
    | (intro _ _ _)
    | (intro _ e; have _hk : Frame _ _ _ _ := e)
    | (intro _ e; cases e)
    | dsimp only
    | (dsimp +zetaDelta only))

theorem State.intFailed_fr {fw fb : Nat} {s0 : State} (s : State) (count other : Nat) (hK : Frame fw fb s0 s) (hfw : Sub 208 fw := by exact Sub.within hfw rfl) (hfb : Sub 147456 fb := by exact Sub.within hfb rfl) : Frame fw fb s0 (State.intFailed s count other) := by
  unfold State.intFailed
  repeat' (first
    | with_reducible assumption
    | with_reducible apply State.domTo_fr
    | with_reducible apply State.record_fr
    | with_reducible apply State.wr_fr
    | (with_reducible refine Frame.foldl ?_ ?_)
    | (with_reducible refine Frame.foldr ?_ ?_)
    | (with_reducible refine Frame.ite ?_ ?_)
    | ((with_reducible apply Sub.within hfw); exact rfl)
    | ((with_reducible apply Sub.within hfb); exact rfl)
    | ((with_reducible apply Mixed.of); exact rfl)
    | (apply hfb.bit (i := 14) rfl)
    | (apply hfb.bit (i := 17) rfl)
    | (dsimp only [State.wrs, State.regs0, List.foldl])
    | (extract_lets)
    | split
    | (intro _ _ _)
    | (intro _ e; have _hk : Frame _ _ _ _ := e)
    | (intro _ e; cases e)
    | dsimp only
    | (dsimp +zetaDelta only))

theorem State.refFailed_fr {fw fb : Nat} {s0 : State} (s : State) (count other : Nat) (hK : Frame fw fb s0 s) (hfw : Sub 1071064079429592673240 fw := by exact Sub.within hfw rfl) (hfb : Sub 415519 fb := by exact Sub.within hfb rfl) : Frame fw fb s0 (State.refFailed s count other) := by
  have k0 : ∀ (t : State) x0 x1 x2, Frame fw fb s0 t → Frame fw fb s0 { t with mgmt := x0, clkMoved := x1, clkBring := x2 } := fun t x0 x1 x2 ht => Frame.upd ht hfw rfl rfl ⟨rfl, rfl, rfl⟩
  unfold State.refFailed
  repeat' (first
    | with_reducible assumption
    | with_reducible apply State.bump_fr
    | with_reducible apply State.domStop_fr
    | with_reducible apply State.domTo_fr
    | with_reducible apply State.record_fr
    | with_reducible apply State.wr_fr
    | (with_reducible refine Frame.foldl ?_ ?_)
    | (with_reducible refine Frame.foldr ?_ ?_)
    | (with_reducible refine Frame.ite ?_ ?_)
    | ((with_reducible apply Sub.within hfw); exact rfl)
    | ((with_reducible apply Sub.within hfb); exact rfl)
    | ((with_reducible apply Mixed.of); exact rfl)
    | (apply hfb.bit (i := 0) rfl)
    | (apply hfb.bit (i := 1) rfl)
    | (apply hfb.bit (i := 2) rfl)
    | (apply hfb.bit (i := 3) rfl)
    | (apply hfb.bit (i := 4) rfl)
    | (apply hfb.bit (i := 8) rfl)
    | (apply hfb.bit (i := 9) rfl)
    | (apply hfb.bit (i := 10) rfl)
    | (apply hfb.bit (i := 12) rfl)
    | (apply hfb.bit (i := 14) rfl)
    | (apply hfb.bit (i := 17) rfl)
    | (apply hfb.bit (i := 18) rfl)
    | (dsimp only [State.wrs, State.regs0, List.foldl])
    | (extract_lets)
    | (fail_if_no_progress (with_reducible refine k0 _ _ _ _ ?_))
    | split
    | (intro _ _ _)
    | (intro _ e; have _hk : Frame _ _ _ _ := e)
    | (intro _ e; cases e)
    | dsimp only
    | (dsimp +zetaDelta only)
    | (fail_if_no_progress ((with_reducible refine Frame.upd ?_ hfw ?_ rfl ⟨rfl, rfl, rfl⟩); rotate_left; exact rfl)))

theorem State.domFailed_fr {fw fb : Nat} {s0 : State} (s : State) (i count other : Nat) (hK : Frame fw fb s0 s) (hfw : Sub 443874780923467918296 fw := by exact Sub.within hfw rfl) (hfb : Sub 415519 fb := by exact Sub.within hfb rfl) : Frame fw fb s0 (State.domFailed s i count other) := by
  have k0 : ∀ (t : State) x0, Frame fw fb s0 t → Frame fw fb s0 { t with clkMoved := x0 } := fun t x0 ht => Frame.upd ht hfw rfl rfl ⟨rfl, rfl, rfl⟩
  unfold State.domFailed
  repeat' (first
    | with_reducible assumption
    | with_reducible apply State.bump_fr
    | with_reducible apply State.domStop_fr
    | with_reducible apply State.domTo_fr
    | with_reducible apply State.record_fr
    | with_reducible apply State.wr_fr
    | (with_reducible refine Frame.ite ?_ ?_)
    | ((with_reducible apply Sub.within hfw); exact rfl)
    | ((with_reducible apply Sub.within hfb); exact rfl)
    | ((with_reducible apply Mixed.of); exact rfl)
    | (apply hfb.bit (i := 0) rfl)
    | (apply hfb.bit (i := 1) rfl)
    | (apply hfb.bit (i := 2) rfl)
    | (apply hfb.bit (i := 3) rfl)
    | (apply hfb.bit (i := 4) rfl)
    | (apply hfb.bit (i := 8) rfl)
    | (apply hfb.bit (i := 9) rfl)
    | (apply hfb.bit (i := 10) rfl)
    | (apply hfb.bit (i := 12) rfl)
    | (apply hfb.bit (i := 14) rfl)
    | (apply hfb.bit (i := 17) rfl)
    | (apply hfb.bit (i := 18) rfl)
    | (dsimp only [State.wrs, State.regs0, List.foldl])
    | (extract_lets)
    | (fail_if_no_progress (with_reducible refine k0 _ _ ?_))
    | split
    | (intro _ _ _)
    | (intro _ e; have _hk : Frame _ _ _ _ := e)
    | (intro _ e; cases e)
    | dsimp only
    | (dsimp +zetaDelta only)
    | (fail_if_no_progress ((with_reducible refine Frame.upd ?_ hfw ?_ rfl ⟨rfl, rfl, rfl⟩); rotate_left; exact rfl)))

theorem clockFailure_fr {fw fb : Nat} {s0 : State} (kind dom count other : Nat) (s : State) (hK : Frame fw fb s0 s) (hfw : Sub 1071064079429592673240 fw := by exact Sub.within hfw rfl) (hfb : Sub 415519 fb := by exact Sub.within hfb rfl) : Frame fw fb s0 (clockFailure kind dom count other s) := by
  unfold clockFailure
  repeat' (first
    | with_reducible assumption
    | with_reducible apply State.domFailed_fr
    | with_reducible apply State.intFailed_fr
    | with_reducible apply State.refFailed_fr
    | (with_reducible refine Frame.ite ?_ ?_)
    | ((with_reducible apply Sub.within hfw); exact rfl)
    | ((with_reducible apply Sub.within hfb); exact rfl)
    | ((with_reducible apply Mixed.of); exact rfl)
    | (apply hfb.bit (i := 0) rfl)
    | (apply hfb.bit (i := 1) rfl)
    | (apply hfb.bit (i := 2) rfl)
    | (apply hfb.bit (i := 3) rfl)
    | (apply hfb.bit (i := 4) rfl)
    | (apply hfb.bit (i := 8) rfl)
    | (apply hfb.bit (i := 9) rfl)
    | (apply hfb.bit (i := 10) rfl)
    | (apply hfb.bit (i := 12) rfl)
    | (apply hfb.bit (i := 14) rfl)
    | (apply hfb.bit (i := 17) rfl)
    | (apply hfb.bit (i := 18) rfl)
    | (extract_lets)
    | split
    | (intro _ _ _)
    | (intro _ e; have _hk : Frame _ _ _ _ := e)
    | (intro _ e; cases e)
    | dsimp only
    | (dsimp +zetaDelta only))

theorem execClockFailure_fr {fw fb : Nat} {s0 : State} (kind dom count other : Nat) (s : State) (hK : Frame fw fb s0 s) (hfw : Sub 1071064079429592673240 fw := by exact Sub.within hfw rfl) (hfb : Sub 415519 fb := by exact Sub.within hfb rfl) : ∀ u, execClockFailure kind dom count other s = .next u → Frame fw fb s0 u := by
  unfold execClockFailure
  repeat' (first
    | with_reducible assumption
    | with_reducible apply clockFailure_fr
    | (with_reducible refine Frame.ite ?_ ?_)
    | ((with_reducible apply Sub.within hfw); exact rfl)
    | ((with_reducible apply Sub.within hfb); exact rfl)
    | ((with_reducible apply Mixed.of); exact rfl)
    | (apply hfb.bit (i := 0) rfl)
    | (apply hfb.bit (i := 1) rfl)
    | (apply hfb.bit (i := 2) rfl)
    | (apply hfb.bit (i := 3) rfl)
    | (apply hfb.bit (i := 4) rfl)
    | (apply hfb.bit (i := 8) rfl)
    | (apply hfb.bit (i := 9) rfl)
    | (apply hfb.bit (i := 10) rfl)
    | (apply hfb.bit (i := 12) rfl)
    | (apply hfb.bit (i := 14) rfl)
    | (apply hfb.bit (i := 17) rfl)
    | (apply hfb.bit (i := 18) rfl)
    | (extract_lets)
    | split
    | (intro _ _ _)
    | (intro _ e; have _hk : Frame _ _ _ _ := e)
    | (intro _ e; cases e)
    | dsimp only
    | (dsimp +zetaDelta only))

theorem clockAutoReturn_fr {fw fb : Nat} {s0 : State} (s : State) (hK : Frame fw fb s0 s) (hfw : Sub 295147905179889696976 fw := by exact Sub.within hfw rfl) (hfb : Sub 148992 fb := by exact Sub.within hfb rfl) : Frame fw fb s0 (clockAutoReturn s) := by
  have k0 : ∀ (t : State) x0, Frame fw fb s0 t → Frame fw fb s0 { t with clkMoved := x0 } := fun t x0 ht => Frame.upd ht hfw rfl rfl ⟨rfl, rfl, rfl⟩
  unfold clockAutoReturn
  repeat' (first
    | with_reducible assumption
    | with_reducible apply State.domRoot_fr
    | (with_reducible refine Frame.foldl ?_ ?_)
    | (with_reducible refine Frame.foldr ?_ ?_)
    | (with_reducible refine Frame.ite ?_ ?_)
    | ((with_reducible apply Sub.within hfw); exact rfl)
    | ((with_reducible apply Sub.within hfb); exact rfl)
    | ((with_reducible apply Mixed.of); exact rfl)
    | (apply hfb.bit (i := 9) rfl)
    | (apply hfb.bit (i := 10) rfl)
    | (apply hfb.bit (i := 14) rfl)
    | (apply hfb.bit (i := 17) rfl)
    | (extract_lets)
    | (fail_if_no_progress (with_reducible refine k0 _ _ ?_))
    | split
    | (intro _ _ _)
    | (intro _ e; have _hk : Frame _ _ _ _ := e)
    | (intro _ e; cases e)
    | dsimp only
    | (dsimp +zetaDelta only)
    | (fail_if_no_progress ((with_reducible refine Frame.upd ?_ hfw ?_ rfl ⟨rfl, rfl, rfl⟩); rotate_left; exact rfl)))

theorem execClockAutoReturn_fr {fw fb : Nat} {s0 : State} (s : State) (hK : Frame fw fb s0 s) (hfw : Sub 295147905179889696976 fw := by exact Sub.within hfw rfl) (hfb : Sub 148992 fb := by exact Sub.within hfb rfl) : ∀ u, execClockAutoReturn s = .next u → Frame fw fb s0 u := by
  unfold execClockAutoReturn
  repeat' (first
    | with_reducible assumption
    | with_reducible apply clockAutoReturn_fr
    | (with_reducible refine Frame.ite ?_ ?_)
    | ((with_reducible apply Sub.within hfw); exact rfl)
    | ((with_reducible apply Sub.within hfb); exact rfl)
    | ((with_reducible apply Mixed.of); exact rfl)
    | (apply hfb.bit (i := 9) rfl)
    | (apply hfb.bit (i := 10) rfl)
    | (apply hfb.bit (i := 14) rfl)
    | (apply hfb.bit (i := 17) rfl)
    | (extract_lets)
    | split
    | (intro _ _ _)
    | (intro _ e; have _hk : Frame _ _ _ _ := e)
    | (intro _ e; cases e)
    | dsimp only
    | (dsimp +zetaDelta only))

theorem State.bringTick_fr {fw fb : Nat} {s0 : State} (s : State) (hK : Frame fw fb s0 s) (hfw : Sub 590295810358705651712 fw := by exact Sub.within hfw rfl) (hfb : Sub 16384 fb := by exact Sub.within hfb rfl) : Frame fw fb s0 (State.bringTick s) := by
  have k0 : ∀ (t : State) x0, Frame fw fb s0 t → Frame fw fb s0 { t with clkBring := x0 } := fun t x0 ht => Frame.upd ht hfw rfl rfl ⟨rfl, rfl, rfl⟩
  unfold State.bringTick
  repeat' (first
    | with_reducible assumption
    | with_reducible apply State.domTo_fr
    | (with_reducible refine Frame.foldl ?_ ?_)
    | (with_reducible refine Frame.foldr ?_ ?_)
    | (with_reducible refine Frame.ite ?_ ?_)
    | ((with_reducible apply Sub.within hfw); exact rfl)
    | ((with_reducible apply Sub.within hfb); exact rfl)
    | ((with_reducible apply Mixed.of); exact rfl)
    | (apply hfb.bit (i := 14) rfl)
    | (extract_lets)
    | (fail_if_no_progress (with_reducible refine k0 _ _ ?_))
    | split
    | (intro _ _ _)
    | (intro _ e; have _hk : Frame _ _ _ _ := e)
    | (intro _ e; cases e)
    | dsimp only
    | (dsimp +zetaDelta only)
    | (fail_if_no_progress ((with_reducible refine Frame.upd ?_ hfw ?_ rfl ⟨rfl, rfl, rfl⟩); rotate_left; exact rfl)))

theorem State.domReply_fr {fw fb : Nat} {s0 : State} (s : State) (c : Cmd) (hK : Frame fw fb s0 s) (hfw : Sub 2560 fw := by exact Sub.within hfw rfl) : Frame fw fb s0 (State.domReply s c) := by
  unfold State.domReply
  repeat' (first
    | with_reducible assumption
    | with_reducible apply State.doneWith_fr
    | (with_reducible refine Frame.ite ?_ ?_)
    | ((with_reducible apply Sub.within hfw); exact rfl)
    | ((with_reducible apply Sub.within hfb); exact rfl)
    | ((with_reducible apply Mixed.of); exact rfl)
    | (extract_lets)
    | split
    | (intro _ _ _)
    | (intro _ e; have _hk : Frame _ _ _ _ := e)
    | (intro _ e; cases e)
    | dsimp only
    | (dsimp +zetaDelta only))

theorem clockSelect_fr {fw fb : Nat} {s0 : State} (s : State) (c : Cmd) (hK : Frame fw fb s0 s) (hfw : Sub 295147905179889699536 fw := by exact Sub.within hfw rfl) (hfb : Sub 148992 fb := by exact Sub.within hfb rfl) : Frame fw fb s0 (clockSelect s c) := by
  have k0 : ∀ (t : State) x0, Frame fw fb s0 t → Frame fw fb s0 { t with clkMoved := x0 } := fun t x0 ht => Frame.upd ht hfw rfl rfl ⟨rfl, rfl, rfl⟩
  unfold clockSelect
  repeat' (first
    | with_reducible assumption
    | with_reducible apply State.bump_fr
    | with_reducible apply State.domReply_fr
    | with_reducible apply State.domRoot_fr
    | with_reducible apply State.domTo_fr
    | with_reducible apply State.failWith_fr
    | with_reducible apply State.wr_fr
    | (with_reducible refine Frame.ite ?_ ?_)
    | ((with_reducible apply Sub.within hfw); exact rfl)
    | ((with_reducible apply Sub.within hfb); exact rfl)
    | ((with_reducible apply Mixed.of); exact rfl)
    | (apply hfb.bit (i := 9) rfl)
    | (apply hfb.bit (i := 10) rfl)
    | (apply hfb.bit (i := 14) rfl)
    | (apply hfb.bit (i := 17) rfl)
    | (extract_lets)
    | (fail_if_no_progress (with_reducible refine k0 _ _ ?_))
    | split
    | (intro _ _ _)
    | (intro _ e; have _hk : Frame _ _ _ _ := e)
    | (intro _ e; cases e)
    | dsimp only
    | (dsimp +zetaDelta only)
    | (fail_if_no_progress ((with_reducible refine Frame.upd ?_ hfw ?_ rfl ⟨rfl, rfl, rfl⟩); rotate_left; exact rfl)))

theorem execClockSelect_fr {fw fb : Nat} {s0 : State} (k : Nat) (s : State) (hK : Frame fw fb s0 s) (hfw : Sub 295147905179889699536 fw := by exact Sub.within hfw rfl) (hfb : Sub 148992 fb := by exact Sub.within hfb rfl) : ∀ u, execClockSelect k s = .next u → Frame fw fb s0 u := by
  unfold execClockSelect
  repeat' (first
    | with_reducible assumption
    | with_reducible apply State.runCmd_fr
    | with_reducible apply clockSelect_fr
    | (with_reducible refine Frame.ite ?_ ?_)
    | ((with_reducible apply Sub.within hfw); exact rfl)
    | ((with_reducible apply Sub.within hfb); exact rfl)
    | ((with_reducible apply Mixed.of); exact rfl)
    | (apply hfb.bit (i := 9) rfl)
    | (apply hfb.bit (i := 10) rfl)
    | (apply hfb.bit (i := 14) rfl)
    | (apply hfb.bit (i := 17) rfl)
    | (extract_lets)
    | split
    | (intro _ _ _)
    | (intro _ e; have _hk : Frame _ _ _ _ := e)
    | (intro _ e; cases e)
    | dsimp only
    | (dsimp +zetaDelta only))

theorem gateSet_fr {fw fb : Nat} {s0 : State} (s : State) (c : Cmd) (hK : Frame fw fb s0 s) (hfw : Sub 536873600 fw := by exact Sub.within hfw rfl) (hfb : Sub 16384 fb := by exact Sub.within hfb rfl) : Frame fw fb s0 (gateSet s c) := by
  unfold gateSet
  repeat' (first
    | with_reducible assumption
    | with_reducible apply State.domReply_fr
    | with_reducible apply State.linkClock_fr
    | with_reducible apply State.portTrain_fr
    | with_reducible apply State.setPort_fr
    | with_reducible apply State.wr_fr
    | (with_reducible refine Frame.ite ?_ ?_)
    | ((with_reducible apply Sub.within hfw); exact rfl)
    | ((with_reducible apply Sub.within hfb); exact rfl)
    | ((with_reducible apply Mixed.of); exact rfl)
    | (apply hfb.bit (i := 14) rfl)
    | (extract_lets)
    | split
    | (intro _ _ _)
    | (intro _ e; have _hk : Frame _ _ _ _ := e)
    | (intro _ e; cases e)
    | dsimp only
    | (dsimp +zetaDelta only))

theorem execGateSet_fr {fw fb : Nat} {s0 : State} (k : Nat) (s : State) (hK : Frame fw fb s0 s) (hfw : Sub 536873600 fw := by exact Sub.within hfw rfl) (hfb : Sub 16384 fb := by exact Sub.within hfb rfl) : ∀ u, execGateSet k s = .next u → Frame fw fb s0 u := by
  unfold execGateSet
  repeat' (first
    | with_reducible assumption
    | with_reducible apply State.runCmd_fr
    | with_reducible apply gateSet_fr
    | (with_reducible refine Frame.ite ?_ ?_)
    | ((with_reducible apply Sub.within hfw); exact rfl)
    | ((with_reducible apply Sub.within hfb); exact rfl)
    | ((with_reducible apply Mixed.of); exact rfl)
    | (apply hfb.bit (i := 14) rfl)
    | (extract_lets)
    | split
    | (intro _ _ _)
    | (intro _ e; have _hk : Frame _ _ _ _ := e)
    | (intro _ e; cases e)
    | dsimp only
    | (dsimp +zetaDelta only))

end Sys2Proof.Machine
end

