-- ==== Sys2Proof/Laws/Frame/Dealers.lean ====
section
/-! SUPPORT. What the operations of Machine/Dealers.lean leave as it was (`Frame`): one lemma each. -/

set_option linter.unreachableTactic false
set_option linter.unusedTactic false

namespace Sys2Proof.Machine

set_option Elab.async false

open Sys2Proof

theorem State.windowWrite_fr {fw fb : Nat} {s0 : State} (s : State) (w : Window) (at' : Nat) (data : List Nat) (hK : Frame fw fb s0 s) (hfw : Sub 8 fw := by exact Sub.within hfw rfl) : Frame fw fb s0 (State.windowWrite s w at' data) := by
  unfold State.windowWrite
  repeat' (first
    | with_reducible assumption
    | with_reducible apply State.tableWrite_fr
    | (with_reducible refine Frame.ite ?_ ?_)
    | ((with_reducible apply Sub.within hfw); exact rfl)
    | ((with_reducible apply Sub.within hfb); exact rfl)
    | ((with_reducible apply Mixed.of); exact rfl)
    | (extract_lets)
    | split
    | (intro _ _ _)
    | (intro _ e; have _hk : Frame _ _ _ _ := e)
    | (intro _ e; cases e)
    | dsimp only
    | (dsimp +zetaDelta only))

theorem State.dealCharge_fr {fw fb : Nat} {s0 : State} (s : State) (i n : Nat) (hK : Frame fw fb s0 s) (hfw : Sub 140737488355328 fw := by exact Sub.within hfw rfl) : Frame fw fb s0 (State.dealCharge s i n) := by
  unfold State.dealCharge
  repeat' (first
    | with_reducible assumption
    | with_reducible apply State.launchMap_fr
    | (with_reducible refine Frame.getD ?_ ?_)
    | (with_reducible refine Frame.ite ?_ ?_)
    | ((with_reducible apply Sub.within hfw); exact rfl)
    | ((with_reducible apply Sub.within hfb); exact rfl)
    | ((with_reducible apply Mixed.of); exact rfl)
    | (extract_lets)
    | split
    | (intro _ _ _)
    | (intro _ e; have _hk : Frame _ _ _ _ := e)
    | (intro _ e; cases e)
    | dsimp only
    | (dsimp +zetaDelta only))

theorem State.dealMark_fr {fw fb : Nat} {s0 : State} (s : State) (w : Window) (on : Bool) (hK : Frame fw fb s0 s) (hfb : Sub 16 fb := by exact Sub.within hfb rfl) : Frame fw fb s0 (State.dealMark s w on) := by
  unfold State.dealMark
  repeat' (first
    | with_reducible assumption
    | with_reducible apply State.dealStop_fr
    | with_reducible apply State.wr_fr
    | (with_reducible refine Frame.ite ?_ ?_)
    | ((with_reducible apply Sub.within hfw); exact rfl)
    | ((with_reducible apply Sub.within hfb); exact rfl)
    | ((with_reducible apply Mixed.of); exact rfl)
    | (apply hfb.bit (i := 4) rfl)
    | (extract_lets)
    | split
    | (intro _ _ _)
    | (intro _ e; have _hk : Frame _ _ _ _ := e)
    | (intro _ e; cases e)
    | dsimp only
    | (dsimp +zetaDelta only))

theorem State.dealWaits_fr {fw fb : Nat} {s0 : State} (s : State) (l : Launch) (n : Nat) (b : Nat × Nat) (hK : Frame fw fb s0 s) (hfw : Sub 140737488355328 fw := by exact Sub.within hfw rfl) : Frame fw fb s0 (State.dealWaits s l n b) := by
  unfold State.dealWaits
  repeat' (first
    | with_reducible assumption
    | with_reducible apply State.launchMap_fr
    | (with_reducible refine Frame.ite ?_ ?_)
    | ((with_reducible apply Sub.within hfw); exact rfl)
    | ((with_reducible apply Sub.within hfb); exact rfl)
    | ((with_reducible apply Mixed.of); exact rfl)
    | (extract_lets)
    | split
    | (intro _ _ _)
    | (intro _ e; have _hk : Frame _ _ _ _ := e)
    | (intro _ e; cases e)
    | dsimp only
    | (dsimp +zetaDelta only))

theorem State.dealGranule_fr {fw fb : Nat} {s0 : State} (s : State) (l : Launch) (w : Window) (n layer group h : Nat) (hK : Frame fw fb s0 s) (hfw : Sub 774056186219018 fw := by exact Sub.within hfw rfl) (hfb : Sub 276 fb := by exact Sub.within hfb rfl) : Frame fw fb s0 (State.dealGranule s l w n layer group h) := by
  have k0 : ∀ (t : State) x0, Frame fw fb s0 t → Frame fw fb s0 { t with freeCtr := x0 } := fun t x0 ht => Frame.upd ht hfw rfl rfl ⟨rfl, rfl, rfl⟩
  unfold State.dealGranule
  repeat' (first
    | with_reducible assumption
    | with_reducible apply State.bump_fr
    | with_reducible apply State.dealCharge_fr
    | with_reducible apply State.dealMark_fr
    | with_reducible apply State.dealWaits_fr
    | with_reducible apply State.endLaunch_fr
    | with_reducible apply State.windowMap_fr
    | with_reducible apply State.windowWrite_fr
    | (with_reducible refine Frame.ite ?_ ?_)
    | ((with_reducible apply Sub.within hfw); exact rfl)
    | ((with_reducible apply Sub.within hfb); exact rfl)
    | ((with_reducible apply Mixed.of); exact rfl)
    | (apply hfb.bit (i := 2) rfl)
    | (apply hfb.bit (i := 4) rfl)
    | (apply hfb.bit (i := 8) rfl)
    | (extract_lets)
    | (fail_if_no_progress (with_reducible refine k0 _ _ ?_))
    | split
    | (intro _ _ _)
    | (intro _ e; have _hk : Frame _ _ _ _ := e)
    | (intro _ e; cases e)
    | dsimp only
    | (dsimp +zetaDelta only)
    | (fail_if_no_progress ((with_reducible refine Frame.upd ?_ hfw ?_ rfl ⟨rfl, rfl, rfl⟩); rotate_left; exact rfl)))

theorem State.halfTaken_fr {fw fb : Nat} {s0 : State} (s : State) (w : Window) (h : Nat) (hK : Frame fw fb s0 s) (hfw : Sub 35253091827712 fw := by exact Sub.within hfw rfl) : Frame fw fb s0 (State.halfTaken s w h) := by
  unfold State.halfTaken
  repeat' (first
    | with_reducible assumption
    | with_reducible apply State.undeal_fr
    | with_reducible apply State.windowMap_fr
    | (with_reducible refine Frame.ite ?_ ?_)
    | ((with_reducible apply Sub.within hfw); exact rfl)
    | ((with_reducible apply Sub.within hfb); exact rfl)
    | ((with_reducible apply Mixed.of); exact rfl)
    | (extract_lets)
    | split
    | (intro _ _ _)
    | (intro _ e; have _hk : Frame _ _ _ _ := e)
    | (intro _ e; cases e)
    | dsimp only
    | (dsimp +zetaDelta only))

theorem dealAhead_fr {fw fb : Nat} {s0 : State} (d : Nat) (s : State) (hK : Frame fw fb s0 s) (hfw : Sub 809309277784586 fw := by exact Sub.within hfw rfl) (hfb : Sub 276 fb := by exact Sub.within hfb rfl) : Frame fw fb s0 (dealAhead d s) := by
  unfold dealAhead
  repeat' (first
    | with_reducible assumption
    | with_reducible apply State.dealGranule_fr
    | with_reducible apply State.halfTaken_fr
    | (with_reducible refine Frame.ite ?_ ?_)
    | ((with_reducible apply Sub.within hfw); exact rfl)
    | ((with_reducible apply Sub.within hfb); exact rfl)
    | ((with_reducible apply Mixed.of); exact rfl)
    | (apply hfb.bit (i := 2) rfl)
    | (apply hfb.bit (i := 4) rfl)
    | (apply hfb.bit (i := 8) rfl)
    | (extract_lets)
    | split
    | (intro _ _ _)
    | (intro _ e; have _hk : Frame _ _ _ _ := e)
    | (intro _ e; cases e)
    | dsimp only
    | (dsimp +zetaDelta only))

theorem execDealAhead_fr {fw fb : Nat} {s0 : State} (die : Nat) (retried failed : List Nat) (s : State) (hK : Frame fw fb s0 s) (hfw : Sub 1181889468369203563226 fw := by exact Sub.within hfw rfl) (hfb : Sub 170772 fb := by exact Sub.within hfb rfl) : ∀ u, execDealAhead die retried failed s = .next u → Frame fw fb s0 u := by
  unfold execDealAhead
  repeat' (first
    | with_reducible assumption
    | with_reducible apply State.readErrors_fr
    | with_reducible apply dealAhead_fr
    | (with_reducible refine Frame.ite ?_ ?_)
    | ((with_reducible apply Sub.within hfw); exact rfl)
    | ((with_reducible apply Sub.within hfb); exact rfl)
    | ((with_reducible apply Mixed.of); exact rfl)
    | (apply hfb.bit (i := 2) rfl)
    | (apply hfb.bit (i := 4) rfl)
    | (apply hfb.bit (i := 8) rfl)
    | (apply hfb.bit (i := 9) rfl)
    | (apply hfb.bit (i := 11) rfl)
    | (apply hfb.bit (i := 12) rfl)
    | (apply hfb.bit (i := 15) rfl)
    | (apply hfb.bit (i := 17) rfl)
    | (extract_lets)
    | split
    | (intro _ _ _)
    | (intro _ e; have _hk : Frame _ _ _ _ := e)
    | (intro _ e; cases e)
    | dsimp only
    | (dsimp +zetaDelta only))

theorem State.areaDealt_fr {fw fb : Nat} {s0 : State} (s : State) (a : Area) (hK : Frame fw fb s0 s) (hfw : Sub 68719476736 fw := by exact Sub.within hfw rfl) : Frame fw fb s0 (State.areaDealt s a) := by
  unfold State.areaDealt
  repeat' (first
    | with_reducible assumption
    | with_reducible apply State.setArea_fr
    | (with_reducible refine Frame.ite ?_ ?_)
    | ((with_reducible apply Sub.within hfw); exact rfl)
    | ((with_reducible apply Sub.within hfb); exact rfl)
    | ((with_reducible apply Mixed.of); exact rfl)
    | (extract_lets)
    | split
    | (intro _ _ _)
    | (intro _ e; have _hk : Frame _ _ _ _ := e)
    | (intro _ e; cases e)
    | dsimp only
    | (dsimp +zetaDelta only))

theorem State.dealTo_fr {fw fb : Nat} {s0 : State} (s : State) (d : Nat) (a : Area) (pos : Nat) (whole : Bool) (hK : Frame fw fb s0 s) (hfw : Sub 35184372088832 fw := by exact Sub.within hfw rfl) : Frame fw fb s0 (State.dealTo s d a pos whole) := by
  have k0 : ∀ (t : State) x0, Frame fw fb s0 t → Frame fw fb s0 { t with dealing := x0 } := fun t x0 ht => Frame.upd ht hfw rfl rfl ⟨rfl, rfl, rfl⟩
  unfold State.dealTo
  repeat' (first
    | with_reducible assumption
    | (with_reducible refine Frame.getD ?_ ?_)
    | (with_reducible refine Frame.ite ?_ ?_)
    | ((with_reducible apply Sub.within hfw); exact rfl)
    | ((with_reducible apply Sub.within hfb); exact rfl)
    | ((with_reducible apply Mixed.of); exact rfl)
    | (extract_lets)
    | (fail_if_no_progress (with_reducible refine k0 _ _ ?_))
    | split
    | (intro _ _ _)
    | (intro _ e; have _hk : Frame _ _ _ _ := e)
    | (intro _ e; cases e)
    | dsimp only
    | (dsimp +zetaDelta only)
    | (fail_if_no_progress ((with_reducible refine Frame.upd ?_ hfw ?_ rfl ⟨rfl, rfl, rfl⟩); rotate_left; exact rfl)))

theorem State.expertGranule_fr {fw fb : Nat} {s0 : State} (s : State) (w : Window) (a : Area) (at' total : Nat) (hK : Frame fw fb s0 s) (hfw : Sub 246359324360712 fw := by exact Sub.within hfw rfl) (hfb : Sub 16 fb := by exact Sub.within hfb rfl) : Frame fw fb s0 (State.expertGranule s w a at' total) := by
  unfold State.expertGranule
  repeat' (first
    | with_reducible assumption
    | with_reducible apply State.areaDealt_fr
    | with_reducible apply State.chargeBytes_fr
    | with_reducible apply State.dealCharge_fr
    | with_reducible apply State.dealMark_fr
    | with_reducible apply State.dealTo_fr
    | with_reducible apply State.dealWaits_fr
    | with_reducible apply State.windowMap_fr
    | with_reducible apply State.windowWrite_fr
    | (with_reducible refine Frame.ite ?_ ?_)
    | ((with_reducible apply Sub.within hfw); exact rfl)
    | ((with_reducible apply Sub.within hfb); exact rfl)
    | ((with_reducible apply Mixed.of); exact rfl)
    | (apply hfb.bit (i := 4) rfl)
    | (extract_lets)
    | split
    | (intro _ _ _)
    | (intro _ e; have _hk : Frame _ _ _ _ := e)
    | (intro _ e; cases e)
    | dsimp only
    | (dsimp +zetaDelta only))

theorem dealExpert_fr {fw fb : Nat} {s0 : State} (d : Nat) (s : State) (hK : Frame fw fb s0 s) (hfw : Sub 809309277784584 fw := by exact Sub.within hfw rfl) (hfb : Sub 20 fb := by exact Sub.within hfb rfl) : Frame fw fb s0 (dealExpert d s) := by
  unfold dealExpert
  repeat' (first
    | with_reducible assumption
    | with_reducible apply State.endLaunch_fr
    | with_reducible apply State.expertGranule_fr
    | (with_reducible refine Frame.ite ?_ ?_)
    | ((with_reducible apply Sub.within hfw); exact rfl)
    | ((with_reducible apply Sub.within hfb); exact rfl)
    | ((with_reducible apply Mixed.of); exact rfl)
    | (apply hfb.bit (i := 2) rfl)
    | (apply hfb.bit (i := 4) rfl)
    | (extract_lets)
    | split
    | (intro _ _ _)
    | (intro _ e; have _hk : Frame _ _ _ _ := e)
    | (intro _ e; cases e)
    | dsimp only
    | (dsimp +zetaDelta only))

theorem execDealExpert_fr {fw fb : Nat} {s0 : State} (die : Nat) (retried failed : List Nat) (s : State) (hK : Frame fw fb s0 s) (hfw : Sub 1181889468369203563224 fw := by exact Sub.within hfw rfl) (hfb : Sub 170772 fb := by exact Sub.within hfb rfl) : ∀ u, execDealExpert die retried failed s = .next u → Frame fw fb s0 u := by
  unfold execDealExpert
  repeat' (first
    | with_reducible assumption
    | with_reducible apply State.readErrors_fr
    | with_reducible apply dealExpert_fr
    | (with_reducible refine Frame.ite ?_ ?_)
    | ((with_reducible apply Sub.within hfw); exact rfl)
    | ((with_reducible apply Sub.within hfb); exact rfl)
    | ((with_reducible apply Mixed.of); exact rfl)
    | (apply hfb.bit (i := 2) rfl)
    | (apply hfb.bit (i := 4) rfl)
    | (apply hfb.bit (i := 8) rfl)
    | (apply hfb.bit (i := 9) rfl)
    | (apply hfb.bit (i := 11) rfl)
    | (apply hfb.bit (i := 12) rfl)
    | (apply hfb.bit (i := 15) rfl)
    | (apply hfb.bit (i := 17) rfl)
    | (extract_lets)
    | split
    | (intro _ _ _)
    | (intro _ e; have _hk : Frame _ _ _ _ := e)
    | (intro _ e; cases e)
    | dsimp only
    | (dsimp +zetaDelta only))

end Sys2Proof.Machine
end

