-- ==== Sys2Proof/Laws/Frame/Routing.lean ====
section
/-! SUPPORT. What the operations of Machine/Routing.lean leave as it was (`Frame`): one lemma each. -/

set_option linter.unreachableTactic false
set_option linter.unusedTactic false

namespace Sys2Proof.Machine

set_option Elab.async false

open Sys2Proof

theorem State.stepZero_fr {fw fb : Nat} {s0 : State} (s : State) (c : Nat) (hK : Frame fw fb s0 s) (hfw : Sub 32776 fw := by exact Sub.within hfw rfl) : Frame fw fb s0 (State.stepZero s c) := by
  unfold State.stepZero
  repeat' (first
    | with_reducible assumption
    | with_reducible apply State.setCtx_fr
    | with_reducible apply State.storeWords_fr
    | (with_reducible refine Frame.ite ?_ ?_)
    | ((with_reducible apply Sub.within hfw); exact rfl)
    | ((with_reducible apply Sub.within hfb); exact rfl)
    | ((with_reducible apply Mixed.of); exact rfl)
    | (extract_lets)
    | split
    | (intro _ _ _)
    | (intro _ e; have _hk : Frame _ _ _ _ := e)
    | (intro _ e; cases e)
    | dsimp only
    | (dsimp +zetaDelta only))

theorem State.routerPut_fr {fw fb : Nat} {s0 : State} (s : State) (r : Router) (hK : Frame fw fb s0 s) (hfw : Sub 377957154824 fw := by exact Sub.within hfw rfl) (hfb : Sub 128 fb := by exact Sub.within hfb rfl) : Frame fw fb s0 (State.routerPut s r) := by
  have k0 : ∀ (t : State) x0, Frame fw fb s0 t → Frame fw fb s0 { t with routers := x0 } := fun t x0 ht => Frame.upd ht hfw rfl rfl ⟨rfl, rfl, rfl⟩
  have k1 : ∀ (t : State) x0, Frame fw fb s0 t → Frame fw fb s0 { t with stepSlots := x0 } := fun t x0 ht => Frame.upd ht hfw rfl rfl ⟨rfl, rfl, rfl⟩
  unfold State.routerPut
  repeat' (first
    | with_reducible assumption
    | with_reducible apply State.areaClear_fr
    | with_reducible apply State.routersDrop_fr
    | with_reducible apply State.stepZero_fr
    | (with_reducible refine Frame.foldl ?_ ?_)
    | (with_reducible refine Frame.foldr ?_ ?_)
    | (with_reducible refine Frame.getD ?_ ?_)
    | (with_reducible refine Frame.ite ?_ ?_)
    | ((with_reducible apply Sub.within hfw); exact rfl)
    | ((with_reducible apply Sub.within hfb); exact rfl)
    | ((with_reducible apply Mixed.of); exact rfl)
    | (apply hfb.bit (i := 7) rfl)
    | (extract_lets)
    | (fail_if_no_progress (with_reducible refine k0 _ _ ?_))
    | (fail_if_no_progress (with_reducible refine k1 _ _ ?_))
    | split
    | (intro _ _ _)
    | (intro _ e; have _hk : Frame _ _ _ _ := e)
    | (intro _ e; cases e)
    | dsimp only
    | (dsimp +zetaDelta only)
    | (fail_if_no_progress ((with_reducible refine Frame.upd ?_ hfw ?_ rfl ⟨rfl, rfl, rfl⟩); rotate_left; exact rfl)))

theorem routerConfig_fr {fw fb : Nat} {s0 : State} (s : State) (c : Cmd) (hK : Frame fw fb s0 s) (hfw : Sub 2361183241813436172810 fw := by exact Sub.within hfw rfl) (hfb : Sub 652 fb := by exact Sub.within hfb rfl) : Frame fw fb s0 (routerConfig s c) := by
  unfold routerConfig
  repeat' (first
    | with_reducible assumption
    | with_reducible apply State.doneWith_fr
    | with_reducible apply State.dropGot_fr
    | with_reducible apply State.failWith_fr
    | with_reducible apply State.routerPut_fr
    | with_reducible apply State.withBytes_fr
    | (with_reducible refine Frame.ite ?_ ?_)
    | ((with_reducible apply Sub.within hfw); exact rfl)
    | ((with_reducible apply Sub.within hfb); exact rfl)
    | ((with_reducible apply Mixed.of); exact rfl)
    | (apply hfb.bit (i := 2) rfl)
    | (apply hfb.bit (i := 3) rfl)
    | (apply hfb.bit (i := 7) rfl)
    | (apply hfb.bit (i := 9) rfl)
    | (extract_lets)
    | split
    | (intro _ _ _)
    | (intro _ e; have _hk : Frame _ _ _ _ := e)
    | (intro _ e; cases e)
    | dsimp only
    | (dsimp +zetaDelta only))

theorem execRouterConfig_fr {fw fb : Nat} {s0 : State} (k : Nat) (s : State) (hK : Frame fw fb s0 s) (hfw : Sub 2361183241813436172810 fw := by exact Sub.within hfw rfl) (hfb : Sub 652 fb := by exact Sub.within hfb rfl) : ∀ u, execRouterConfig k s = .next u → Frame fw fb s0 u := by
  unfold execRouterConfig
  repeat' (first
    | with_reducible assumption
    | with_reducible apply State.runCmd_fr
    | with_reducible apply routerConfig_fr
    | (with_reducible refine Frame.ite ?_ ?_)
    | ((with_reducible apply Sub.within hfw); exact rfl)
    | ((with_reducible apply Sub.within hfb); exact rfl)
    | ((with_reducible apply Mixed.of); exact rfl)
    | (apply hfb.bit (i := 2) rfl)
    | (apply hfb.bit (i := 3) rfl)
    | (apply hfb.bit (i := 7) rfl)
    | (apply hfb.bit (i := 9) rfl)
    | (extract_lets)
    | split
    | (intro _ _ _)
    | (intro _ e; have _hk : Frame _ _ _ _ := e)
    | (intro _ e; cases e)
    | dsimp only
    | (dsimp +zetaDelta only))

theorem execSetShape_fr {fw fb : Nat} {s0 : State} (k : Nat) (s : State) (hK : Frame fw fb s0 s) (hfw : Sub 35328 fw := by exact Sub.within hfw rfl) : ∀ u, execSetShape k s = .next u → Frame fw fb s0 u := by
  unfold execSetShape
  repeat' (first
    | with_reducible assumption
    | with_reducible apply State.doneWith_fr
    | with_reducible apply State.runCmd_fr
    | with_reducible apply State.setCtx_fr
    | (with_reducible refine Frame.ite ?_ ?_)
    | ((with_reducible apply Sub.within hfw); exact rfl)
    | ((with_reducible apply Sub.within hfb); exact rfl)
    | ((with_reducible apply Mixed.of); exact rfl)
    | (extract_lets)
    | split
    | (intro _ _ _)
    | (intro _ e; have _hk : Frame _ _ _ _ := e)
    | (intro _ e; cases e)
    | dsimp only
    | (dsimp +zetaDelta only))

theorem routerRemove_fr {fw fb : Nat} {s0 : State} (s : State) (c : Cmd) (hK : Frame fw fb s0 s) (hfw : Sub 103079217664 fw := by exact Sub.within hfw rfl) (hfb : Sub 128 fb := by exact Sub.within hfb rfl) : Frame fw fb s0 (routerRemove s c) := by
  unfold routerRemove
  repeat' (first
    | with_reducible assumption
    | with_reducible apply State.doneWith_fr
    | with_reducible apply State.routersDrop_fr
    | (with_reducible refine Frame.ite ?_ ?_)
    | ((with_reducible apply Sub.within hfw); exact rfl)
    | ((with_reducible apply Sub.within hfb); exact rfl)
    | ((with_reducible apply Mixed.of); exact rfl)
    | (apply hfb.bit (i := 7) rfl)
    | (extract_lets)
    | split
    | (intro _ _ _)
    | (intro _ e; have _hk : Frame _ _ _ _ := e)
    | (intro _ e; cases e)
    | dsimp only
    | (dsimp +zetaDelta only))

theorem execRouterRemove_fr {fw fb : Nat} {s0 : State} (k : Nat) (s : State) (hK : Frame fw fb s0 s) (hfw : Sub 103079217664 fw := by exact Sub.within hfw rfl) (hfb : Sub 128 fb := by exact Sub.within hfb rfl) : ∀ u, execRouterRemove k s = .next u → Frame fw fb s0 u := by
  unfold execRouterRemove
  repeat' (first
    | with_reducible assumption
    | with_reducible apply State.runCmd_fr
    | with_reducible apply routerRemove_fr
    | (with_reducible refine Frame.ite ?_ ?_)
    | ((with_reducible apply Sub.within hfw); exact rfl)
    | ((with_reducible apply Sub.within hfb); exact rfl)
    | ((with_reducible apply Mixed.of); exact rfl)
    | (apply hfb.bit (i := 7) rfl)
    | (extract_lets)
    | split
    | (intro _ _ _)
    | (intro _ e; have _hk : Frame _ _ _ _ := e)
    | (intro _ e; cases e)
    | dsimp only
    | (dsimp +zetaDelta only))

theorem biasLoopConfig_fr {fw fb : Nat} {s0 : State} (s : State) (c : Cmd) (hK : Frame fw fb s0 s) (hfw : Sub 2361183241469838756362 fw := by exact Sub.within hfw rfl) (hfb : Sub 524 fb := by exact Sub.within hfb rfl) : Frame fw fb s0 (biasLoopConfig s c) := by
  have k0 : ∀ (t : State) x0, Frame fw fb s0 t → Frame fw fb s0 { t with routers := x0 } := fun t x0 ht => Frame.upd ht hfw rfl rfl ⟨rfl, rfl, rfl⟩
  unfold biasLoopConfig
  repeat' (first
    | with_reducible assumption
    | with_reducible apply State.doneAfter_fr
    | with_reducible apply State.failWith_fr
    | with_reducible apply State.putAll_fr
    | (with_reducible apply State.putAll_fr_ok; with_reducible assumption)
    | (with_reducible apply State.putAll_fr_stop; with_reducible assumption)
    | (with_reducible apply State.putAll_fr_bad; with_reducible assumption)
    | (with_reducible refine Frame.ite ?_ ?_)
    | ((with_reducible apply Sub.within hfw); exact rfl)
    | ((with_reducible apply Sub.within hfb); exact rfl)
    | ((with_reducible apply Mixed.of); exact rfl)
    | (apply hfb.bit (i := 2) rfl)
    | (apply hfb.bit (i := 3) rfl)
    | (apply hfb.bit (i := 9) rfl)
    | (extract_lets)
    | (fail_if_no_progress (with_reducible refine k0 _ _ ?_))
    | split
    | (intro _ _ _)
    | (intro _ e; have _hk : Frame _ _ _ _ := e)
    | (intro _ e; cases e)
    | dsimp only
    | (dsimp +zetaDelta only)
    | (fail_if_no_progress ((with_reducible refine Frame.upd ?_ hfw ?_ rfl ⟨rfl, rfl, rfl⟩); rotate_left; exact rfl)))

theorem execBiasLoopConfig_fr {fw fb : Nat} {s0 : State} (k : Nat) (s : State) (hK : Frame fw fb s0 s) (hfw : Sub 2361183241469838756362 fw := by exact Sub.within hfw rfl) (hfb : Sub 524 fb := by exact Sub.within hfb rfl) : ∀ u, execBiasLoopConfig k s = .next u → Frame fw fb s0 u := by
  unfold execBiasLoopConfig
  repeat' (first
    | with_reducible assumption
    | with_reducible apply State.runCmd_fr
    | with_reducible apply biasLoopConfig_fr
    | (with_reducible refine Frame.ite ?_ ?_)
    | ((with_reducible apply Sub.within hfw); exact rfl)
    | ((with_reducible apply Sub.within hfb); exact rfl)
    | ((with_reducible apply Mixed.of); exact rfl)
    | (apply hfb.bit (i := 2) rfl)
    | (apply hfb.bit (i := 3) rfl)
    | (apply hfb.bit (i := 9) rfl)
    | (extract_lets)
    | split
    | (intro _ _ _)
    | (intro _ e; have _hk : Frame _ _ _ _ := e)
    | (intro _ e; cases e)
    | dsimp only
    | (dsimp +zetaDelta only))

theorem State.biasUpdate_fr {fw fb : Nat} {s0 : State} (s : State) (r : Router) (hK : Frame fw fb s0 s) (hfw : Sub 2361183241435479015434 fw := by exact Sub.within hfw rfl) (hfb : Sub 652 fb := by exact Sub.within hfb rfl) : (State.biasUpdate s r).fr fw fb s0 := by
  unfold State.biasUpdate
  repeat' (first
    | with_reducible assumption
    | with_reducible apply State.bump_fr
    | with_reducible apply State.fetch_fr
    | (with_reducible apply State.fetch_fr_bytes; with_reducible assumption)
    | (with_reducible apply State.fetch_fr_stop; with_reducible assumption)
    | (with_reducible apply State.fetch_fr_bad; with_reducible assumption)
    | with_reducible apply State.putAll_fr
    | (with_reducible apply State.putAll_fr_ok; with_reducible assumption)
    | (with_reducible apply State.putAll_fr_stop; with_reducible assumption)
    | (with_reducible apply State.putAll_fr_bad; with_reducible assumption)
    | with_reducible apply Wrote.fr_ok
    | with_reducible apply Wrote.fr_stop
    | with_reducible apply Wrote.fr_bad
    | (with_reducible refine Frame.ite ?_ ?_)
    | ((with_reducible apply Sub.within hfw); exact rfl)
    | ((with_reducible apply Sub.within hfb); exact rfl)
    | ((with_reducible apply Mixed.of); exact rfl)
    | (apply hfb.bit (i := 2) rfl)
    | (apply hfb.bit (i := 3) rfl)
    | (apply hfb.bit (i := 7) rfl)
    | (apply hfb.bit (i := 9) rfl)
    | (extract_lets)
    | split
    | (intro _ _ _)
    | (intro _ e; have _hk : Frame _ _ _ _ := e)
    | (intro _ e; cases e)
    | dsimp only
    | (dsimp +zetaDelta only))

theorem State.biasUpdate_fr_ok {fw fb : Nat} {s0 : State} {u : State} {s : State} {r : Router} (h_eq : State.biasUpdate s r = .ok u) (hK : Frame fw fb s0 s) (hfw : Sub 2361183241435479015434 fw := by exact Sub.within hfw rfl) (hfb : Sub 652 fb := by exact Sub.within hfb rfl) : Frame fw fb s0 u := by
  have := State.biasUpdate_fr s r hK
  rw [h_eq] at this
  exact this

theorem State.biasUpdate_fr_stop {fw fb : Nat} {s0 : State} {u : State} {s : State} {r : Router} (h_eq : State.biasUpdate s r = .stop u) (hK : Frame fw fb s0 s) (hfw : Sub 2361183241435479015434 fw := by exact Sub.within hfw rfl) (hfb : Sub 652 fb := by exact Sub.within hfb rfl) : Frame fw fb s0 u := by
  have := State.biasUpdate_fr s r hK
  rw [h_eq] at this
  exact this

theorem State.biasUpdate_fr_bad {fw fb : Nat} {s0 : State} {u : State} {q} {s : State} {r : Router} (h_eq : State.biasUpdate s r = .bad u q) (hK : Frame fw fb s0 s) (hfw : Sub 2361183241435479015434 fw := by exact Sub.within hfw rfl) (hfb : Sub 652 fb := by exact Sub.within hfb rfl) : Frame fw fb s0 u := by
  have := State.biasUpdate_fr s r hK
  rw [h_eq] at this
  exact this

theorem biasLoopUpdate_fr {fw fb : Nat} {s0 : State} (c slot layer : Nat) (s : State) (hK : Frame fw fb s0 s) (hfw : Sub 2361183241469838753802 fw := by exact Sub.within hfw rfl) (hfb : Sub 652 fb := by exact Sub.within hfb rfl) : Frame fw fb s0 (biasLoopUpdate c slot layer s) := by
  have k0 : ∀ (t : State) x0, Frame fw fb s0 t → Frame fw fb s0 { t with routers := x0 } := fun t x0 ht => Frame.upd ht hfw rfl rfl ⟨rfl, rfl, rfl⟩
  unfold biasLoopUpdate
  repeat' (first
    | with_reducible assumption
    | with_reducible apply State.biasUpdate_fr
    | (with_reducible apply State.biasUpdate_fr_ok; with_reducible assumption)
    | (with_reducible apply State.biasUpdate_fr_stop; with_reducible assumption)
    | (with_reducible apply State.biasUpdate_fr_bad; with_reducible assumption)
    | with_reducible apply State.dropGot_fr
    | with_reducible apply State.loopRegs_fr
    | (with_reducible refine Frame.ite ?_ ?_)
    | ((with_reducible apply Sub.within hfw); exact rfl)
    | ((with_reducible apply Sub.within hfb); exact rfl)
    | ((with_reducible apply Mixed.of); exact rfl)
    | (apply hfb.bit (i := 2) rfl)
    | (apply hfb.bit (i := 3) rfl)
    | (apply hfb.bit (i := 7) rfl)
    | (apply hfb.bit (i := 9) rfl)
    | (extract_lets)
    | (fail_if_no_progress (with_reducible refine k0 _ _ ?_))
    | split
    | (intro _ _ _)
    | (intro _ e; have _hk : Frame _ _ _ _ := e)
    | (intro _ e; cases e)
    | dsimp only
    | (dsimp +zetaDelta only)
    | (fail_if_no_progress ((with_reducible refine Frame.upd ?_ hfw ?_ rfl ⟨rfl, rfl, rfl⟩); rotate_left; exact rfl)))

theorem execBiasLoopUpdate_fr {fw fb : Nat} {s0 : State} (ctx slot layer : Nat) (s : State) (hK : Frame fw fb s0 s) (hfw : Sub 2361183241469838753802 fw := by exact Sub.within hfw rfl) (hfb : Sub 652 fb := by exact Sub.within hfb rfl) : ∀ u, execBiasLoopUpdate ctx slot layer s = .next u → Frame fw fb s0 u := by
  unfold execBiasLoopUpdate
  repeat' (first
    | with_reducible assumption
    | with_reducible apply biasLoopUpdate_fr
    | (with_reducible refine Frame.ite ?_ ?_)
    | ((with_reducible apply Sub.within hfw); exact rfl)
    | ((with_reducible apply Sub.within hfb); exact rfl)
    | ((with_reducible apply Mixed.of); exact rfl)
    | (apply hfb.bit (i := 2) rfl)
    | (apply hfb.bit (i := 3) rfl)
    | (apply hfb.bit (i := 7) rfl)
    | (apply hfb.bit (i := 9) rfl)
    | (extract_lets)
    | split
    | (intro _ _ _)
    | (intro _ e; have _hk : Frame _ _ _ _ := e)
    | (intro _ e; cases e)
    | dsimp only
    | (dsimp +zetaDelta only))

theorem State.statsEnd_fr {fw fb : Nat} {s0 : State} (s : State) (c : Cmd) (r : Router) (old : List Nat) (sel lost skip : Nat) (hK : Frame fw fb s0 s) (hfw : Sub 2361183241435479017994 fw := by exact Sub.within hfw rfl) (hfb : Sub 524 fb := by exact Sub.within hfb rfl) : Frame fw fb s0 (State.statsEnd s c r old sel lost skip) := by
  unfold State.statsEnd
  repeat' (first
    | with_reducible assumption
    | with_reducible apply State.countsEdit_fr
    | (with_reducible apply State.countsEdit_fr_ok; with_reducible assumption)
    | (with_reducible apply State.countsEdit_fr_stop; with_reducible assumption)
    | (with_reducible apply State.countsEdit_fr_bad; with_reducible assumption)
    | with_reducible apply State.doneAfter_fr
    | with_reducible apply State.failWith_fr
    | (with_reducible refine Frame.ite ?_ ?_)
    | ((with_reducible apply Sub.within hfw); exact rfl)
    | ((with_reducible apply Sub.within hfb); exact rfl)
    | ((with_reducible apply Mixed.of); exact rfl)
    | (apply hfb.bit (i := 2) rfl)
    | (apply hfb.bit (i := 3) rfl)
    | (apply hfb.bit (i := 9) rfl)
    | (extract_lets)
    | split
    | (intro _ _ _)
    | (intro _ e; have _hk : Frame _ _ _ _ := e)
    | (intro _ e; cases e)
    | dsimp only
    | (dsimp +zetaDelta only))

theorem routerStats_fr {fw fb : Nat} {s0 : State} (s : State) (c : Cmd) (hK : Frame fw fb s0 s) (hfw : Sub 2361183241435479017994 fw := by exact Sub.within hfw rfl) (hfb : Sub 524 fb := by exact Sub.within hfb rfl) : Frame fw fb s0 (routerStats s c) := by
  unfold routerStats
  repeat' (first
    | with_reducible assumption
    | with_reducible apply State.cmdMap_fr
    | with_reducible apply State.doneWith_fr
    | with_reducible apply State.dropGot_fr
    | with_reducible apply State.statsEnd_fr
    | with_reducible apply State.withBytes_fr
    | with_reducible apply State.withPut_fr
    | (with_reducible refine Frame.ite ?_ ?_)
    | ((with_reducible apply Sub.within hfw); exact rfl)
    | ((with_reducible apply Sub.within hfb); exact rfl)
    | ((with_reducible apply Mixed.of); exact rfl)
    | (apply hfb.bit (i := 2) rfl)
    | (apply hfb.bit (i := 3) rfl)
    | (apply hfb.bit (i := 9) rfl)
    | (extract_lets)
    | split
    | (intro _ _ _)
    | (intro _ e; have _hk : Frame _ _ _ _ := e)
    | (intro _ e; cases e)
    | dsimp only
    | (dsimp +zetaDelta only))

theorem execRouterStats_fr {fw fb : Nat} {s0 : State} (k : Nat) (s : State) (hK : Frame fw fb s0 s) (hfw : Sub 2361183241435479017994 fw := by exact Sub.within hfw rfl) (hfb : Sub 524 fb := by exact Sub.within hfb rfl) : ∀ u, execRouterStats k s = .next u → Frame fw fb s0 u := by
  unfold execRouterStats
  repeat' (first
    | with_reducible assumption
    | with_reducible apply State.runCmd_fr
    | with_reducible apply routerStats_fr
    | (with_reducible refine Frame.ite ?_ ?_)
    | ((with_reducible apply Sub.within hfw); exact rfl)
    | ((with_reducible apply Sub.within hfb); exact rfl)
    | ((with_reducible apply Mixed.of); exact rfl)
    | (apply hfb.bit (i := 2) rfl)
    | (apply hfb.bit (i := 3) rfl)
    | (apply hfb.bit (i := 9) rfl)
    | (extract_lets)
    | split
    | (intro _ _ _)
    | (intro _ e; have _hk : Frame _ _ _ _ := e)
    | (intro _ e; cases e)
    | dsimp only
    | (dsimp +zetaDelta only))

theorem State.routeFault_fr {fw fb : Nat} {s0 : State} (s : State) (l : Launch) (kind va e : Nat) (hK : Frame fw fb s0 s) (hfw : Sub 2361183241434925367296 fw := by exact Sub.within hfw rfl) (hfb : Sub 12 fb := by exact Sub.within hfb rfl) : Frame fw fb s0 (State.routeFault s l kind va e) := by
  unfold State.routeFault
  repeat' (first
    | with_reducible assumption
    | with_reducible apply State.openFault_fr
    | (with_reducible refine Frame.ite ?_ ?_)
    | ((with_reducible apply Sub.within hfw); exact rfl)
    | ((with_reducible apply Sub.within hfb); exact rfl)
    | ((with_reducible apply Mixed.of); exact rfl)
    | (apply hfb.bit (i := 2) rfl)
    | (apply hfb.bit (i := 3) rfl)
    | (extract_lets)
    | split
    | (intro _ _ _)
    | (intro _ e; have _hk : Frame _ _ _ _ := e)
    | (intro _ e; cases e)
    | dsimp only
    | (dsimp +zetaDelta only))

theorem State.gate_fr {fw fb : Nat} {s0 : State} (s : State) (l : Launch) (r : Router) (hK : Frame fw fb s0 s) (hfw : Sub 2361184015491664972298 fw := by exact Sub.within hfw rfl) (hfb : Sub 668 fb := by exact Sub.within hfb rfl) : Frame fw fb s0 (State.gate s l r) := by
  have k0 : ∀ (t : State) x0, Frame fw fb s0 t → Frame fw fb s0 { t with freeCtr := x0 } := fun t x0 ht => Frame.upd ht hfw rfl rfl ⟨rfl, rfl, rfl⟩
  unfold State.gate
  repeat' (first
    | with_reducible assumption
    | with_reducible apply State.bump_fr
    | with_reducible apply State.countsEdit_fr
    | (with_reducible apply State.countsEdit_fr_ok; with_reducible assumption)
    | (with_reducible apply State.countsEdit_fr_stop; with_reducible assumption)
    | (with_reducible apply State.countsEdit_fr_bad; with_reducible assumption)
    | with_reducible apply State.dropFor_fr
    | with_reducible apply State.endLaunch_fr
    | with_reducible apply State.fetch_fr
    | (with_reducible apply State.fetch_fr_bytes; with_reducible assumption)
    | (with_reducible apply State.fetch_fr_stop; with_reducible assumption)
    | (with_reducible apply State.fetch_fr_bad; with_reducible assumption)
    | with_reducible apply State.launchMap_fr
    | with_reducible apply State.put_fr
    | (with_reducible apply State.put_fr_ok; with_reducible assumption)
    | (with_reducible apply State.put_fr_stop; with_reducible assumption)
    | (with_reducible apply State.put_fr_bad; with_reducible assumption)
    | (with_reducible refine Frame.getD ?_ ?_)
    | (with_reducible refine Frame.ite ?_ ?_)
    | ((with_reducible apply Sub.within hfw); exact rfl)
    | ((with_reducible apply Sub.within hfb); exact rfl)
    | ((with_reducible apply Mixed.of); exact rfl)
    | (apply hfb.bit (i := 2) rfl)
    | (apply hfb.bit (i := 3) rfl)
    | (apply hfb.bit (i := 4) rfl)
    | (apply hfb.bit (i := 7) rfl)
    | (apply hfb.bit (i := 9) rfl)
    | (extract_lets)
    | (fail_if_no_progress (with_reducible refine k0 _ _ ?_))
    | split
    | (intro _ _ _)
    | (intro _ e; have _hk : Frame _ _ _ _ := e)
    | (intro _ e; cases e)
    | dsimp only
    | (dsimp +zetaDelta only)
    | (fail_if_no_progress ((with_reducible refine Frame.upd ?_ hfw ?_ rfl ⟨rfl, rfl, rfl⟩); rotate_left; exact rfl)))

theorem State.setEntry_fr {fw fb : Nat} {s0 : State} (s : State) (l : Launch) (e p a m : Nat) (hK : Frame fw fb s0 s) (hfw : Sub 140737488355328 fw := by exact Sub.within hfw rfl) : Frame fw fb s0 (State.setEntry s l e p a m) := by
  unfold State.setEntry
  repeat' (first
    | with_reducible assumption
    | with_reducible apply State.launchMap_fr
    | (with_reducible refine Frame.getD ?_ ?_)
    | (with_reducible refine Frame.ite ?_ ?_)
    | ((with_reducible apply Sub.within hfw); exact rfl)
    | ((with_reducible apply Sub.within hfb); exact rfl)
    | ((with_reducible apply Mixed.of); exact rfl)
    | (extract_lets)
    | split
    | (intro _ _ _)
    | (intro _ e; have _hk : Frame _ _ _ _ := e)
    | (intro _ e; cases e)
    | dsimp only
    | (dsimp +zetaDelta only))

theorem State.askAdmit_fr {fw fb : Nat} {s0 : State} (r : Router) (par : Nat) (l : Launch) (s : State) (w : List Nat) (hK : Frame fw fb s0 s) (hfw : Sub 2361184015560367671816 fw := by exact Sub.within hfw rfl) (hfb : Sub 668 fb := by exact Sub.within hfb rfl) : Frame fw fb s0 (State.askAdmit r par l s w) := by
  unfold State.askAdmit
  repeat' (first
    | with_reducible assumption
    | with_reducible apply State.dropFor_fr
    | with_reducible apply State.endLaunch_fr
    | with_reducible apply State.noteArrivals_fr
    | with_reducible apply State.remoteAtomic_fr
    | with_reducible apply State.routeFault_fr
    | with_reducible apply State.setEntry_fr
    | with_reducible apply State.store_fr
    | (with_reducible refine Frame.getD ?_ ?_)
    | (with_reducible refine Frame.ite ?_ ?_)
    | ((with_reducible apply Sub.within hfw); exact rfl)
    | ((with_reducible apply Sub.within hfb); exact rfl)
    | ((with_reducible apply Mixed.of); exact rfl)
    | (apply hfb.bit (i := 2) rfl)
    | (apply hfb.bit (i := 3) rfl)
    | (apply hfb.bit (i := 4) rfl)
    | (apply hfb.bit (i := 7) rfl)
    | (apply hfb.bit (i := 9) rfl)
    | (extract_lets)
    | split
    | (intro _ _ _)
    | (intro _ e; have _hk : Frame _ _ _ _ := e)
    | (intro _ e; cases e)
    | dsimp only
    | (dsimp +zetaDelta only))

theorem State.dispatchCounts_fr {fw fb : Nat} {s0 : State} (s : State) (l : Launch) (r : Router) (hK : Frame fw fb s0 s) (hfw : Sub 2361184017690688227850 fw := by exact Sub.within hfw rfl) (hfb : Sub 668 fb := by exact Sub.within hfb rfl) : Frame fw fb s0 (State.dispatchCounts s l r) := by
  have k0 : ∀ (t : State) x0, Frame fw fb s0 t → Frame fw fb s0 { t with steps := x0 } := fun t x0 ht => Frame.upd ht hfw rfl rfl ⟨rfl, rfl, rfl⟩
  unfold State.dispatchCounts
  repeat' (first
    | with_reducible assumption
    | with_reducible apply State.bump_fr
    | with_reducible apply State.countsEdit_fr
    | (with_reducible apply State.countsEdit_fr_ok; with_reducible assumption)
    | (with_reducible apply State.countsEdit_fr_stop; with_reducible assumption)
    | (with_reducible apply State.countsEdit_fr_bad; with_reducible assumption)
    | with_reducible apply State.dropFor_fr
    | with_reducible apply State.endLaunch_fr
    | with_reducible apply State.launchMap_fr
    | (with_reducible refine Frame.getD ?_ ?_)
    | (with_reducible refine Frame.ite ?_ ?_)
    | ((with_reducible apply Sub.within hfw); exact rfl)
    | ((with_reducible apply Sub.within hfb); exact rfl)
    | ((with_reducible apply Mixed.of); exact rfl)
    | (apply hfb.bit (i := 2) rfl)
    | (apply hfb.bit (i := 3) rfl)
    | (apply hfb.bit (i := 4) rfl)
    | (apply hfb.bit (i := 7) rfl)
    | (apply hfb.bit (i := 9) rfl)
    | (extract_lets)
    | (fail_if_no_progress (with_reducible refine k0 _ _ ?_))
    | split
    | (intro _ _ _)
    | (intro _ e; have _hk : Frame _ _ _ _ := e)
    | (intro _ e; cases e)
    | dsimp only
    | (dsimp +zetaDelta only)
    | (fail_if_no_progress ((with_reducible refine Frame.upd ?_ hfw ?_ rfl ⟨rfl, rfl, rfl⟩); rotate_left; exact rfl)))

theorem State.sendEntries_fr {fw fb : Nat} {s0 : State} (s : State) (l : Launch) (r : Router) (par : Nat) (hK : Frame fw fb s0 s) (hfw : Sub 140737891008512 fw := by exact Sub.within hfw rfl) (hfb : Sub 32 fb := by exact Sub.within hfb rfl) : Frame fw fb s0 (State.sendEntries s l r par) := by
  unfold State.sendEntries
  repeat' (first
    | with_reducible assumption
    | with_reducible apply State.descAdd_fr
    | with_reducible apply State.launchMap_fr
    | (with_reducible refine Frame.getD ?_ ?_)
    | (with_reducible refine Frame.ite ?_ ?_)
    | ((with_reducible apply Sub.within hfw); exact rfl)
    | ((with_reducible apply Sub.within hfb); exact rfl)
    | ((with_reducible apply Mixed.of); exact rfl)
    | (apply hfb.bit (i := 5) rfl)
    | (extract_lets)
    | split
    | (intro _ _ _)
    | (intro _ e; have _hk : Frame _ _ _ _ := e)
    | (intro _ e; cases e)
    | dsimp only
    | (dsimp +zetaDelta only))

theorem State.rowReduce_fr {fw fb : Nat} {s0 : State} (s : State) (m q c issuer owner va : Nat) (own : Option Nat) (vals : List Nat) (hK : Frame fw fb s0 s) (hfw : Sub 402653184 fw := by exact Sub.within hfw rfl) (hfb : Sub 32 fb := by exact Sub.within hfb rfl) : Frame fw fb s0 (State.rowReduce s m q c issuer owner va own vals) := by
  unfold State.rowReduce
  repeat' (first
    | with_reducible assumption
    | with_reducible apply State.descAdd_fr
    | (with_reducible refine Frame.ite ?_ ?_)
    | ((with_reducible apply Sub.within hfw); exact rfl)
    | ((with_reducible apply Sub.within hfb); exact rfl)
    | ((with_reducible apply Mixed.of); exact rfl)
    | (apply hfb.bit (i := 5) rfl)
    | (extract_lets)
    | split
    | (intro _ _ _)
    | (intro _ e; have _hk : Frame _ _ _ _ := e)
    | (intro _ e; cases e)
    | dsimp only
    | (dsimp +zetaDelta only))

theorem State.sharedAdds_fr {fw fb : Nat} {s0 : State} (s : State) (l : Launch) (r : Router) (hK : Frame fw fb s0 s) (hfw : Sub 140737891008514 fw := by exact Sub.within hfw rfl) (hfb : Sub 32 fb := by exact Sub.within hfb rfl) : Frame fw fb s0 (State.sharedAdds s l r) := by
  have k0 : ∀ (t : State) x0, Frame fw fb s0 t → Frame fw fb s0 { t with freeCtr := x0 } := fun t x0 ht => Frame.upd ht hfw rfl rfl ⟨rfl, rfl, rfl⟩
  unfold State.sharedAdds
  repeat' (first
    | with_reducible assumption
    | with_reducible apply State.launchMap_fr
    | with_reducible apply State.rowReduce_fr
    | (with_reducible refine Frame.foldl ?_ ?_)
    | (with_reducible refine Frame.foldr ?_ ?_)
    | (with_reducible refine Frame.getD ?_ ?_)
    | (with_reducible refine Frame.ite ?_ ?_)
    | ((with_reducible apply Sub.within hfw); exact rfl)
    | ((with_reducible apply Sub.within hfb); exact rfl)
    | ((with_reducible apply Mixed.of); exact rfl)
    | (apply hfb.bit (i := 5) rfl)
    | (extract_lets)
    | (fail_if_no_progress (with_reducible refine k0 _ _ ?_))
    | split
    | (intro _ _ _)
    | (intro _ e; have _hk : Frame _ _ _ _ := e)
    | (intro _ e; cases e)
    | dsimp only
    | (dsimp +zetaDelta only)
    | (fail_if_no_progress ((with_reducible refine Frame.upd ?_ hfw ?_ rfl ⟨rfl, rfl, rfl⟩); rotate_left; exact rfl)))

theorem State.dispatchOn_fr {fw fb : Nat} {s0 : State} (s : State) (i : Nat) (r : Router) (hK : Frame fw fb s0 s) (hfw : Sub 2361184017759810357770 fw := by exact Sub.within hfw rfl) (hfb : Sub 700 fb := by exact Sub.within hfb rfl) : Frame fw fb s0 (State.dispatchOn s i r) := by
  unfold State.dispatchOn
  extract_lets on t u v w
  have hon : ∀ t f, Frame fw fb s0 t → (∀ t l, Frame fw fb s0 t → Frame fw fb s0 (f t l)) → Frame fw fb s0 (on t f) := by
    intro t f ht hf
    dsimp only [on]
    split
    · exact Frame.ite ht (hf _ _ ht)
    · exact ht
  clear_value on
  have ht : Frame fw fb s0 t := by
    refine hon _ _ hK ?_
    intro t l ht
    exact Frame.foldl (fun t x ht => State.askAdmit_fr _ _ _ _ _ ht) ht
  have hu : Frame fw fb s0 u := by
    refine hon _ _ ht ?_
    intro t l ht
    exact Frame.ite (State.dispatchCounts_fr _ _ _ ht) ht
  have hv : Frame fw fb s0 v := by
    refine hon _ _ hu ?_
    intro t l ht
    exact Frame.ite (State.sendEntries_fr _ _ _ _ ht) ht
  have hw : Frame fw fb s0 w := by
    refine hon _ _ hv ?_
    intro t l ht
    exact Frame.ite (State.sharedAdds_fr _ _ _ ht) ht
  exact hon _ _ hw (fun t l ht => Frame.ite (State.launchMap_fr _ _ _ ht) ht)

theorem dispatch_fr {fw fb : Nat} {s0 : State} (i : Nat) (s : State) (hK : Frame fw fb s0 s) (hfw : Sub 2361184017759810357770 fw := by exact Sub.within hfw rfl) (hfb : Sub 700 fb := by exact Sub.within hfb rfl) : Frame fw fb s0 (dispatch i s) := by
  unfold dispatch
  repeat' (first
    | with_reducible assumption
    | with_reducible apply State.dispatchOn_fr
    | with_reducible apply State.gate_fr
    | with_reducible apply State.launchMap_fr
    | (with_reducible refine Frame.ite ?_ ?_)
    | ((with_reducible apply Sub.within hfw); exact rfl)
    | ((with_reducible apply Sub.within hfb); exact rfl)
    | ((with_reducible apply Mixed.of); exact rfl)
    | (apply hfb.bit (i := 2) rfl)
    | (apply hfb.bit (i := 3) rfl)
    | (apply hfb.bit (i := 4) rfl)
    | (apply hfb.bit (i := 5) rfl)
    | (apply hfb.bit (i := 7) rfl)
    | (apply hfb.bit (i := 9) rfl)
    | (extract_lets)
    | split
    | (intro _ _ _)
    | (intro _ e; have _hk : Frame _ _ _ _ := e)
    | (intro _ e; cases e)
    | dsimp only
    | (dsimp +zetaDelta only))

theorem execDispatch_fr {fw fb : Nat} {s0 : State} (launch : Nat) (s : State) (hK : Frame fw fb s0 s) (hfw : Sub 2361184017759810357770 fw := by exact Sub.within hfw rfl) (hfb : Sub 700 fb := by exact Sub.within hfb rfl) : ∀ u, execDispatch launch s = .next u → Frame fw fb s0 u := by
  unfold execDispatch
  repeat' (first
    | with_reducible assumption
    | with_reducible apply dispatch_fr
    | (with_reducible refine Frame.ite ?_ ?_)
    | ((with_reducible apply Sub.within hfw); exact rfl)
    | ((with_reducible apply Sub.within hfb); exact rfl)
    | ((with_reducible apply Mixed.of); exact rfl)
    | (apply hfb.bit (i := 2) rfl)
    | (apply hfb.bit (i := 3) rfl)
    | (apply hfb.bit (i := 4) rfl)
    | (apply hfb.bit (i := 5) rfl)
    | (apply hfb.bit (i := 7) rfl)
    | (apply hfb.bit (i := 9) rfl)
    | (extract_lets)
    | split
    | (intro _ _ _)
    | (intro _ e; have _hk : Frame _ _ _ _ := e)
    | (intro _ e; cases e)
    | dsimp only
    | (dsimp +zetaDelta only))

theorem State.areaFault_fr {fw fb : Nat} {s0 : State} (s : State) (a : Area) (kind va : Nat) (hK : Frame fw fb s0 s) (hfw : Sub 2361183241434925367296 fw := by exact Sub.within hfw rfl) (hfb : Sub 12 fb := by exact Sub.within hfb rfl) : Frame fw fb s0 (State.areaFault s a kind va) := by
  unfold State.areaFault
  repeat' (first
    | with_reducible assumption
    | with_reducible apply State.openFault_fr
    | with_reducible apply State.routeFault_fr
    | (with_reducible refine Frame.ite ?_ ?_)
    | ((with_reducible apply Sub.within hfw); exact rfl)
    | ((with_reducible apply Sub.within hfb); exact rfl)
    | ((with_reducible apply Mixed.of); exact rfl)
    | (apply hfb.bit (i := 2) rfl)
    | (apply hfb.bit (i := 3) rfl)
    | (extract_lets)
    | split
    | (intro _ _ _)
    | (intro _ e; have _hk : Frame _ _ _ _ := e)
    | (intro _ e; cases e)
    | dsimp only
    | (dsimp +zetaDelta only))

theorem State.areaBad_fr {fw fb : Nat} {s0 : State} (s : State) (a : Area) (st det : Nat) (hK : Frame fw fb s0 s) (hfw : Sub 774056185956864 fw := by exact Sub.within hfw rfl) (hfb : Sub 20 fb := by exact Sub.within hfb rfl) : Frame fw fb s0 (State.areaBad s a st det) := by
  unfold State.areaBad
  repeat' (first
    | with_reducible assumption
    | with_reducible apply State.endLaunch_fr
    | (with_reducible refine Frame.ite ?_ ?_)
    | ((with_reducible apply Sub.within hfw); exact rfl)
    | ((with_reducible apply Sub.within hfb); exact rfl)
    | ((with_reducible apply Mixed.of); exact rfl)
    | (apply hfb.bit (i := 2) rfl)
    | (apply hfb.bit (i := 4) rfl)
    | (extract_lets)
    | split
    | (intro _ _ _)
    | (intro _ e; have _hk : Frame _ _ _ _ := e)
    | (intro _ e; cases e)
    | dsimp only
    | (dsimp +zetaDelta only))

theorem State.areaRead_fr {fw fb : Nat} {s0 : State} (s : State) (a : Area) (va n : Nat) (f : State → List Nat → State) (hf : ∀ t b, Frame fw fb s0 t → Frame fw fb s0 (f t b)) (hK : Frame fw fb s0 s) (hfw : Sub 2361184015491664972290 fw := by exact Sub.within hfw rfl) (hfb : Sub 540 fb := by exact Sub.within hfb rfl) : Frame fw fb s0 (State.areaRead s a va n f) := by
  have h := State.fetch_fr s (s.areaOrigin a) a.ctx va n hK
  unfold State.areaRead
  split <;> rename_i e <;> rw [e] at h
  · exact hf _ _ h
  · exact h
  · exact State.areaBad_fr _ _ _ _ h

theorem State.faceArrivals_fr {fw fb : Nat} {s0 : State} (s : State) (r : Router) (n : Nat) (rows : List Nat) (hK : Frame fw fb s0 s) (hfw : Sub 2 fw := by exact Sub.within hfw rfl) (hfb : Sub 64 fb := by exact Sub.within hfb rfl) : Frame fw fb s0 (State.faceArrivals s r n rows) := by
  have k0 : ∀ (t : State) x0, Frame fw fb s0 t → Frame fw fb s0 { t with freeCtr := x0 } := fun t x0 ht => Frame.upd ht hfw rfl rfl ⟨rfl, rfl, rfl⟩
  unfold State.faceArrivals
  repeat' (first
    | with_reducible assumption
    | with_reducible apply State.bump_fr
    | (with_reducible refine Frame.ite ?_ ?_)
    | ((with_reducible apply Sub.within hfw); exact rfl)
    | ((with_reducible apply Sub.within hfb); exact rfl)
    | ((with_reducible apply Mixed.of); exact rfl)
    | (apply hfb.bit (i := 6) rfl)
    | (extract_lets)
    | (fail_if_no_progress (with_reducible refine k0 _ _ ?_))
    | split
    | (intro _ _ _)
    | (intro _ e; have _hk : Frame _ _ _ _ := e)
    | (intro _ e; cases e)
    | dsimp only
    | (dsimp +zetaDelta only)
    | (fail_if_no_progress ((with_reducible refine Frame.upd ?_ hfw ?_ rfl ⟨rfl, rfl, rfl⟩); rotate_left; exact rfl)))

theorem State.areaDecide_fr {fw fb : Nat} {s0 : State} (s : State) (a : Area) (r : Router) (va n : Nat) (rows : List Nat) (hK : Frame fw fb s0 s) (hfw : Sub 2361184015697823402506 fw := by exact Sub.within hfw rfl) (hfb : Sub 732 fb := by exact Sub.within hfb rfl) : Frame fw fb s0 (State.areaDecide s a r va n rows) := by
  have k0 : ∀ (t : State) x0, Frame fw fb s0 t → Frame fw fb s0 { t with decided := x0 } := fun t x0 ht => Frame.upd ht hfw rfl rfl ⟨rfl, rfl, rfl⟩
  unfold State.areaDecide
  repeat' (first
    | with_reducible assumption
    | with_reducible apply State.areaBad_fr
    | with_reducible apply State.bump_fr
    | with_reducible apply State.faceArrivals_fr
    | with_reducible apply State.put_fr
    | (with_reducible apply State.put_fr_ok; with_reducible assumption)
    | (with_reducible apply State.put_fr_stop; with_reducible assumption)
    | (with_reducible apply State.put_fr_bad; with_reducible assumption)
    | with_reducible apply State.setArea_fr
    | with_reducible apply State.waitRegs_fr
    | with_reducible apply State.wr_fr
    | (with_reducible refine Frame.ite ?_ ?_)
    | ((with_reducible apply Sub.within hfw); exact rfl)
    | ((with_reducible apply Sub.within hfb); exact rfl)
    | ((with_reducible apply Mixed.of); exact rfl)
    | (apply hfb.bit (i := 2) rfl)
    | (apply hfb.bit (i := 3) rfl)
    | (apply hfb.bit (i := 4) rfl)
    | (apply hfb.bit (i := 6) rfl)
    | (apply hfb.bit (i := 7) rfl)
    | (apply hfb.bit (i := 9) rfl)
    | (extract_lets)
    | (fail_if_no_progress (with_reducible refine k0 _ _ ?_))
    | split
    | (intro _ _ _)
    | (intro _ e; have _hk : Frame _ _ _ _ := e)
    | (intro _ e; cases e)
    | dsimp only
    | (dsimp +zetaDelta only)
    | (fail_if_no_progress ((with_reducible refine Frame.upd ?_ hfw ?_ rfl ⟨rfl, rfl, rfl⟩); rotate_left; exact rfl)))

theorem areaDecided_fr {fw fb : Nat} {s0 : State} (c slot layer e par : Nat) (s : State) (hK : Frame fw fb s0 s) (hfw : Sub 2361184015697823402506 fw := by exact Sub.within hfw rfl) (hfb : Sub 732 fb := by exact Sub.within hfb rfl) : Frame fw fb s0 (areaDecided c slot layer e par s) := by
  unfold areaDecided
  repeat' (first
    | with_reducible assumption
    | with_reducible apply State.areaDecide_fr
    | with_reducible apply State.areaRead_fr
    | with_reducible apply State.noteArrivals_fr
    | (with_reducible refine Frame.ite ?_ ?_)
    | ((with_reducible apply Sub.within hfw); exact rfl)
    | ((with_reducible apply Sub.within hfb); exact rfl)
    | ((with_reducible apply Mixed.of); exact rfl)
    | (apply hfb.bit (i := 2) rfl)
    | (apply hfb.bit (i := 3) rfl)
    | (apply hfb.bit (i := 4) rfl)
    | (apply hfb.bit (i := 6) rfl)
    | (apply hfb.bit (i := 7) rfl)
    | (apply hfb.bit (i := 9) rfl)
    | (extract_lets)
    | split
    | (intro _ _ _)
    | (intro _ e; have _hk : Frame _ _ _ _ := e)
    | (intro _ e; cases e)
    | dsimp only
    | (dsimp +zetaDelta only))

theorem execAreaDecided_fr {fw fb : Nat} {s0 : State} (ctx slot layer expert parity : Nat) (s : State) (hK : Frame fw fb s0 s) (hfw : Sub 2361184015697823402506 fw := by exact Sub.within hfw rfl) (hfb : Sub 732 fb := by exact Sub.within hfb rfl) : ∀ u, execAreaDecided ctx slot layer expert parity s = .next u → Frame fw fb s0 u := by
  unfold execAreaDecided
  repeat' (first
    | with_reducible assumption
    | with_reducible apply areaDecided_fr
    | (with_reducible refine Frame.ite ?_ ?_)
    | ((with_reducible apply Sub.within hfw); exact rfl)
    | ((with_reducible apply Sub.within hfb); exact rfl)
    | ((with_reducible apply Mixed.of); exact rfl)
    | (apply hfb.bit (i := 2) rfl)
    | (apply hfb.bit (i := 3) rfl)
    | (apply hfb.bit (i := 4) rfl)
    | (apply hfb.bit (i := 6) rfl)
    | (apply hfb.bit (i := 7) rfl)
    | (apply hfb.bit (i := 9) rfl)
    | (extract_lets)
    | split
    | (intro _ _ _)
    | (intro _ e; have _hk : Frame _ _ _ _ := e)
    | (intro _ e; cases e)
    | dsimp only
    | (dsimp +zetaDelta only))

theorem State.areaRow_fr {fw fb : Nat} {s0 : State} (s : State) (a : Area) (r : Router) (i : Nat) (hK : Frame fw fb s0 s) (hfw : Sub 2361184015560787102210 fw := by exact Sub.within hfw rfl) (hfb : Sub 572 fb := by exact Sub.within hfb rfl) : Frame fw fb s0 (State.areaRow s a r i) := by
  have k0 : ∀ (t : State) x0, Frame fw fb s0 t → Frame fw fb s0 { t with freeCtr := x0 } := fun t x0 ht => Frame.upd ht hfw rfl rfl ⟨rfl, rfl, rfl⟩
  unfold State.areaRow
  repeat' (first
    | with_reducible assumption
    | with_reducible apply State.areaRead_fr
    | with_reducible apply State.chargeNs_fr
    | with_reducible apply State.rowReduce_fr
    | with_reducible apply State.setArea_fr
    | (with_reducible refine Frame.ite ?_ ?_)
    | ((with_reducible apply Sub.within hfw); exact rfl)
    | ((with_reducible apply Sub.within hfb); exact rfl)
    | ((with_reducible apply Mixed.of); exact rfl)
    | (apply hfb.bit (i := 2) rfl)
    | (apply hfb.bit (i := 3) rfl)
    | (apply hfb.bit (i := 4) rfl)
    | (apply hfb.bit (i := 5) rfl)
    | (apply hfb.bit (i := 9) rfl)
    | (extract_lets)
    | (fail_if_no_progress (with_reducible refine k0 _ _ ?_))
    | split
    | (intro _ _ _)
    | (intro _ e; have _hk : Frame _ _ _ _ := e)
    | (intro _ e; cases e)
    | dsimp only
    | (dsimp +zetaDelta only)
    | (fail_if_no_progress ((with_reducible refine Frame.upd ?_ hfw ?_ rfl ⟨rfl, rfl, rfl⟩); rotate_left; exact rfl)))

theorem State.areaTell_fr {fw fb : Nat} {s0 : State} (a : Area) (n : Nat) (s : State) (k : Nat × Nat) (hK : Frame fw fb s0 s) (hfw : Sub 2361184015560367671816 fw := by exact Sub.within hfw rfl) (hfb : Sub 540 fb := by exact Sub.within hfb rfl) : Frame fw fb s0 (State.areaTell a n s k) := by
  unfold State.areaTell
  repeat' (first
    | with_reducible assumption
    | with_reducible apply State.areaBad_fr
    | with_reducible apply State.areaFault_fr
    | with_reducible apply State.remoteAtomic_fr
    | with_reducible apply State.setArea_fr
    | with_reducible apply State.store_fr
    | (with_reducible refine Frame.ite ?_ ?_)
    | ((with_reducible apply Sub.within hfw); exact rfl)
    | ((with_reducible apply Sub.within hfb); exact rfl)
    | ((with_reducible apply Mixed.of); exact rfl)
    | (apply hfb.bit (i := 2) rfl)
    | (apply hfb.bit (i := 3) rfl)
    | (apply hfb.bit (i := 4) rfl)
    | (apply hfb.bit (i := 9) rfl)
    | (extract_lets)
    | split
    | (intro _ _ _)
    | (intro _ e; have _hk : Frame _ _ _ _ := e)
    | (intro _ e; cases e)
    | dsimp only
    | (dsimp +zetaDelta only))

theorem State.areaDone_fr {fw fb : Nat} {s0 : State} (s : State) (a : Area) (r : Router) (hK : Frame fw fb s0 s) (hfw : Sub 2361184015560384449034 fw := by exact Sub.within hfw rfl) (hfb : Sub 540 fb := by exact Sub.within hfb rfl) : Frame fw fb s0 (State.areaDone s a r) := by
  unfold State.areaDone
  repeat' (first
    | with_reducible assumption
    | with_reducible apply State.areaRead_fr
    | with_reducible apply State.areaTell_fr
    | with_reducible apply State.setArea_fr
    | (with_reducible refine Frame.foldl ?_ ?_)
    | (with_reducible refine Frame.foldr ?_ ?_)
    | (with_reducible refine Frame.ite ?_ ?_)
    | ((with_reducible apply Sub.within hfw); exact rfl)
    | ((with_reducible apply Sub.within hfb); exact rfl)
    | ((with_reducible apply Mixed.of); exact rfl)
    | (apply hfb.bit (i := 2) rfl)
    | (apply hfb.bit (i := 3) rfl)
    | (apply hfb.bit (i := 4) rfl)
    | (apply hfb.bit (i := 9) rfl)
    | (extract_lets)
    | split
    | (intro _ _ _)
    | (intro _ e; have _hk : Frame _ _ _ _ := e)
    | (intro _ e; cases e)
    | dsimp only
    | (dsimp +zetaDelta only))

theorem expertLaunch_fr {fw fb : Nat} {s0 : State} (c slot layer e par : Nat) (s : State) (hK : Frame fw fb s0 s) (hfw : Sub 2361184015560787102218 fw := by exact Sub.within hfw rfl) (hfb : Sub 700 fb := by exact Sub.within hfb rfl) : Frame fw fb s0 (expertLaunch c slot layer e par s) := by
  have k0 : ∀ (t : State) x0, Frame fw fb s0 t → Frame fw fb s0 { t with freeCtr := x0 } := fun t x0 ht => Frame.upd ht hfw rfl rfl ⟨rfl, rfl, rfl⟩
  unfold expertLaunch
  repeat' (first
    | with_reducible assumption
    | with_reducible apply State.areaBad_fr
    | with_reducible apply State.areaDone_fr
    | with_reducible apply State.areaRow_fr
    | (apply hfb.bit (i := 4) rfl)
    | (apply hfb.bit (i := 5) rfl)
    | with_reducible apply State.bump_fr
    | with_reducible apply State.endLaunch_fr
    | with_reducible apply State.setArea_fr
    | with_reducible apply Adds.fr_ok
    | with_reducible apply Adds.fr_stop
    | with_reducible apply Adds.fr_bad
    | (with_reducible refine Frame.foldl ?_ ?_)
    | (with_reducible refine Frame.ite ?_ ?_)
    | ((with_reducible apply Sub.within hfw); exact rfl)
    | ((with_reducible apply Sub.within hfb); exact rfl)
    | ((with_reducible apply Mixed.of); exact rfl)
    | (apply hfb.bit (i := 2) rfl)
    | (apply hfb.bit (i := 3) rfl)
    | (apply hfb.bit (i := 7) rfl)
    | (apply hfb.bit (i := 9) rfl)
    | (extract_lets)
    | (fail_if_no_progress (with_reducible refine k0 _ _ ?_))
    | split
    | (intro _ _ _)
    | (intro _ e; have _hk : Frame _ _ _ _ := e)
    | (intro _ e; cases e)
    | dsimp only
    | (dsimp +zetaDelta only)
    | (rename_i e; have h := Eq.mp (congrArg (Adds.fr fw fb s0) e) (rowAdds_fr s _ _ _ hK); exact { hK with regs := h.regs, faults := h.faults, nextFault := h.nextFault, wants := h.wants, keeps := ⟨hK.keeps.1, hK.keeps.2, h.keeps.3, hK.keeps.4, hK.keeps.5, hK.keeps.6, hK.keeps.7, hK.keeps.8⟩ })
    | (rename_i e; have h := Eq.mp (congrArg (Adds.fr fw fb s0) e) (rowAdds_fr s _ _ _ hK); exact h)
    | (fail_if_no_progress ((with_reducible refine Frame.upd ?_ hfw ?_ rfl ⟨rfl, rfl, rfl⟩); rotate_left; exact rfl)))

theorem execExpertLaunch_fr {fw fb : Nat} {s0 : State} (ctx slot layer expert parity : Nat) (s : State) (hK : Frame fw fb s0 s) (hfw : Sub 2361184015560787102218 fw := by exact Sub.within hfw rfl) (hfb : Sub 700 fb := by exact Sub.within hfb rfl) : ∀ u, execExpertLaunch ctx slot layer expert parity s = .next u → Frame fw fb s0 u := by
  unfold execExpertLaunch
  repeat' (first
    | with_reducible assumption
    | with_reducible apply expertLaunch_fr
    | (with_reducible refine Frame.ite ?_ ?_)
    | ((with_reducible apply Sub.within hfw); exact rfl)
    | ((with_reducible apply Sub.within hfb); exact rfl)
    | ((with_reducible apply Mixed.of); exact rfl)
    | (apply hfb.bit (i := 2) rfl)
    | (apply hfb.bit (i := 3) rfl)
    | (apply hfb.bit (i := 4) rfl)
    | (apply hfb.bit (i := 5) rfl)
    | (apply hfb.bit (i := 7) rfl)
    | (apply hfb.bit (i := 9) rfl)
    | (extract_lets)
    | split
    | (intro _ _ _)
    | (intro _ e; have _hk : Frame _ _ _ _ := e)
    | (intro _ e; cases e)
    | dsimp only
    | (dsimp +zetaDelta only))

theorem combineComplete_fr {fw fb : Nat} {s0 : State} (i : Nat) (s : State) (hK : Frame fw fb s0 s) (hfw : Sub 2361184015491664972290 fw := by exact Sub.within hfw rfl) (hfb : Sub 540 fb := by exact Sub.within hfb rfl) : Frame fw fb s0 (combineComplete i s) := by
  unfold combineComplete
  repeat' (first
    | with_reducible assumption
    | with_reducible apply State.dropFor_fr
    | with_reducible apply State.endLaunch_fr
    | with_reducible apply State.fetch_fr
    | (with_reducible apply State.fetch_fr_bytes; with_reducible assumption)
    | (with_reducible apply State.fetch_fr_stop; with_reducible assumption)
    | (with_reducible apply State.fetch_fr_bad; with_reducible assumption)
    | with_reducible apply State.launchMap_fr
    | (with_reducible refine Frame.ite ?_ ?_)
    | ((with_reducible apply Sub.within hfw); exact rfl)
    | ((with_reducible apply Sub.within hfb); exact rfl)
    | ((with_reducible apply Mixed.of); exact rfl)
    | (apply hfb.bit (i := 2) rfl)
    | (apply hfb.bit (i := 3) rfl)
    | (apply hfb.bit (i := 4) rfl)
    | (apply hfb.bit (i := 9) rfl)
    | (extract_lets)
    | split
    | (intro _ _ _)
    | (intro _ e; have _hk : Frame _ _ _ _ := e)
    | (intro _ e; cases e)
    | dsimp only
    | (dsimp +zetaDelta only))

theorem execCombineComplete_fr {fw fb : Nat} {s0 : State} (launch : Nat) (s : State) (hK : Frame fw fb s0 s) (hfw : Sub 2361184015491664972290 fw := by exact Sub.within hfw rfl) (hfb : Sub 540 fb := by exact Sub.within hfb rfl) : ∀ u, execCombineComplete launch s = .next u → Frame fw fb s0 u := by
  unfold execCombineComplete
  repeat' (first
    | with_reducible assumption
    | with_reducible apply combineComplete_fr
    | (with_reducible refine Frame.ite ?_ ?_)
    | ((with_reducible apply Sub.within hfw); exact rfl)
    | ((with_reducible apply Sub.within hfb); exact rfl)
    | ((with_reducible apply Mixed.of); exact rfl)
    | (apply hfb.bit (i := 2) rfl)
    | (apply hfb.bit (i := 3) rfl)
    | (apply hfb.bit (i := 4) rfl)
    | (apply hfb.bit (i := 9) rfl)
    | (extract_lets)
    | split
    | (intro _ _ _)
    | (intro _ e; have _hk : Frame _ _ _ _ := e)
    | (intro _ e; cases e)
    | dsimp only
    | (dsimp +zetaDelta only))

theorem areaReset_fr {fw fb : Nat} {s0 : State} (c slot layer e par : Nat) (s : State) (hK : Frame fw fb s0 s) (hfw : Sub 68719476744 fw := by exact Sub.within hfw rfl) (hfb : Sub 128 fb := by exact Sub.within hfb rfl) : Frame fw fb s0 (areaReset c slot layer e par s) := by
  have k0 : ∀ (t : State) x0, Frame fw fb s0 t → Frame fw fb s0 { t with areas := x0 } := fun t x0 ht => Frame.upd ht hfw rfl rfl ⟨rfl, rfl, rfl⟩
  unfold areaReset
  repeat' (first
    | with_reducible assumption
    | with_reducible apply State.areaClear_fr
    | with_reducible apply State.waitRegs_fr
    | (with_reducible refine Frame.ite ?_ ?_)
    | ((with_reducible apply Sub.within hfw); exact rfl)
    | ((with_reducible apply Sub.within hfb); exact rfl)
    | ((with_reducible apply Mixed.of); exact rfl)
    | (apply hfb.bit (i := 7) rfl)
    | (extract_lets)
    | (fail_if_no_progress (with_reducible refine k0 _ _ ?_))
    | split
    | (intro _ _ _)
    | (intro _ e; have _hk : Frame _ _ _ _ := e)
    | (intro _ e; cases e)
    | dsimp only
    | (dsimp +zetaDelta only)
    | (fail_if_no_progress ((with_reducible refine Frame.upd ?_ hfw ?_ rfl ⟨rfl, rfl, rfl⟩); rotate_left; exact rfl)))

theorem execAreaReset_fr {fw fb : Nat} {s0 : State} (ctx slot layer expert parity : Nat) (s : State) (hK : Frame fw fb s0 s) (hfw : Sub 68719476744 fw := by exact Sub.within hfw rfl) (hfb : Sub 128 fb := by exact Sub.within hfb rfl) : ∀ u, execAreaReset ctx slot layer expert parity s = .next u → Frame fw fb s0 u := by
  unfold execAreaReset
  repeat' (first
    | with_reducible assumption
    | with_reducible apply areaReset_fr
    | (with_reducible refine Frame.ite ?_ ?_)
    | ((with_reducible apply Sub.within hfw); exact rfl)
    | ((with_reducible apply Sub.within hfb); exact rfl)
    | ((with_reducible apply Mixed.of); exact rfl)
    | (apply hfb.bit (i := 7) rfl)
    | (extract_lets)
    | split
    | (intro _ _ _)
    | (intro _ e; have _hk : Frame _ _ _ _ := e)
    | (intro _ e; cases e)
    | dsimp only
    | (dsimp +zetaDelta only))

end Sys2Proof.Machine
end

