-- ==== Sys2Proof/Laws/Frame/Serving.lean ====
section
/-! SUPPORT. What the operations of Machine/Serving.lean leave as it was (`Frame`): one lemma each. -/

set_option linter.unreachableTactic false
set_option linter.unusedTactic false

namespace Sys2Proof.Machine

set_option Elab.async false

open Sys2Proof

/-- What `Frame` says of every state that a `Room` holds. -/
def Room.fr (fw fb : Nat) (s0 : State) : Room → Prop
  | .ok s => Frame fw fb s0 s
  | .short _ => True
  | .refuse _ => True

theorem Room.fr_ok {fw fb : Nat} {s0 : State} {t : State} (h : Frame fw fb s0 t) : Room.fr fw fb s0 (.ok t) := h

theorem Room.fr_short {fw fb : Nat} {s0 : State} {x0} : Room.fr fw fb s0 (.short x0) := trivial

theorem Room.fr_refuse {fw fb : Nat} {s0 : State} {x0} : Room.fr fw fb s0 (.refuse x0) := trivial

theorem State.bindHand_fr {fw fb : Nat} {s0 : State} (s : State) (n : Nat) (c : Cmd) (ring : List Nat) (hK : Frame fw fb s0 s) (hfw : Sub 549755816448 fw := by exact Sub.within hfw rfl) (hfb : Sub 256 fb := by exact Sub.within hfb rfl) : Frame fw fb s0 (State.bindHand s n c ring) := by
  unfold State.bindHand
  repeat' (first
    | with_reducible assumption
    | with_reducible apply State.doneWith_fr
    | with_reducible apply State.setHand_fr
    | with_reducible apply State.setSpecWord_fr
    | with_reducible apply State.toHandState_fr
    | with_reducible apply State.wr_fr
    | (with_reducible refine Frame.ite ?_ ?_)
    | ((with_reducible apply Sub.within hfw); exact rfl)
    | ((with_reducible apply Sub.within hfb); exact rfl)
    | ((with_reducible apply Mixed.of); exact rfl)
    | (apply hfb.bit (i := 8) rfl)
    | (dsimp only [State.wrs, State.regs0, List.foldl])
    | (extract_lets)
    | split
    | (intro _ _ _)
    | (intro _ e; have _hk : Frame _ _ _ _ := e)
    | (intro _ e; cases e)
    | dsimp only
    | (dsimp +zetaDelta only)
    | (fail_if_no_progress ((with_reducible refine Frame.upd ?_ hfw ?_ rfl ⟨rfl, rfl, rfl⟩); rotate_left; exact rfl)))

theorem handOpen_fr {fw fb : Nat} {s0 : State} (s : State) (c : Cmd) (hK : Frame fw fb s0 s) (hfw : Sub 2361183241985234831874 fw := by exact Sub.within hfw rfl) (hfb : Sub 780 fb := by exact Sub.within hfb rfl) : Frame fw fb s0 (handOpen s c) := by
  unfold handOpen
  repeat' (first
    | with_reducible assumption
    | with_reducible apply State.bindHand_fr
    | with_reducible apply State.dropGot_fr
    | with_reducible apply State.failWith_fr
    | with_reducible apply State.withBytes_fr
    | (with_reducible refine Frame.ite ?_ ?_)
    | ((with_reducible apply Sub.within hfw); exact rfl)
    | ((with_reducible apply Sub.within hfb); exact rfl)
    | ((with_reducible apply Mixed.of); exact rfl)
    | (apply hfb.bit (i := 2) rfl)
    | (apply hfb.bit (i := 3) rfl)
    | (apply hfb.bit (i := 8) rfl)
    | (apply hfb.bit (i := 9) rfl)
    | (extract_lets)
    | split
    | (intro _ _ _)
    | (intro _ e; have _hk : Frame _ _ _ _ := e)
    | (intro _ e; cases e)
    | dsimp only
    | (dsimp +zetaDelta only))

theorem execHandOpen_fr {fw fb : Nat} {s0 : State} (k : Nat) (s : State) (hK : Frame fw fb s0 s) (hfw : Sub 2361183241985234831874 fw := by exact Sub.within hfw rfl) (hfb : Sub 780 fb := by exact Sub.within hfb rfl) : ∀ u, execHandOpen k s = .next u → Frame fw fb s0 u := by
  unfold execHandOpen
  repeat' (first
    | with_reducible assumption
    | with_reducible apply State.runHand_fr
    | with_reducible apply handOpen_fr
    | (with_reducible refine Frame.ite ?_ ?_)
    | ((with_reducible apply Sub.within hfw); exact rfl)
    | ((with_reducible apply Sub.within hfb); exact rfl)
    | ((with_reducible apply Mixed.of); exact rfl)
    | (apply hfb.bit (i := 2) rfl)
    | (apply hfb.bit (i := 3) rfl)
    | (apply hfb.bit (i := 8) rfl)
    | (apply hfb.bit (i := 9) rfl)
    | (extract_lets)
    | split
    | (intro _ _ _)
    | (intro _ e; have _hk : Frame _ _ _ _ := e)
    | (intro _ e; cases e)
    | dsimp only
    | (dsimp +zetaDelta only))

theorem handClose_fr {fw fb : Nat} {s0 : State} (s : State) (c : Cmd) (hK : Frame fw fb s0 s) (hfw : Sub 9444732966289608477192 fw := by exact Sub.within hfw rfl) (hfb : Sub 784 fb := by exact Sub.within hfb rfl) : Frame fw fb s0 (handClose s c) := by
  unfold handClose
  repeat' (first
    | with_reducible assumption
    | with_reducible apply State.cacheFree_fr
    | with_reducible apply State.doneWith_fr
    | with_reducible apply State.handFree_fr
    | (with_reducible refine Frame.ite ?_ ?_)
    | ((with_reducible apply Sub.within hfw); exact rfl)
    | ((with_reducible apply Sub.within hfb); exact rfl)
    | ((with_reducible apply Mixed.of); exact rfl)
    | (apply hfb.bit (i := 4) rfl)
    | (apply hfb.bit (i := 8) rfl)
    | (apply hfb.bit (i := 9) rfl)
    | (extract_lets)
    | split
    | (intro _ _ _)
    | (intro _ e; have _hk : Frame _ _ _ _ := e)
    | (intro _ e; cases e)
    | dsimp only
    | (dsimp +zetaDelta only))

theorem execHandClose_fr {fw fb : Nat} {s0 : State} (k : Nat) (s : State) (hK : Frame fw fb s0 s) (hfw : Sub 9444732966289608477192 fw := by exact Sub.within hfw rfl) (hfb : Sub 784 fb := by exact Sub.within hfb rfl) : ∀ u, execHandClose k s = .next u → Frame fw fb s0 u := by
  unfold execHandClose
  repeat' (first
    | with_reducible assumption
    | with_reducible apply State.runHand_fr
    | with_reducible apply handClose_fr
    | (with_reducible refine Frame.ite ?_ ?_)
    | ((with_reducible apply Sub.within hfw); exact rfl)
    | ((with_reducible apply Sub.within hfb); exact rfl)
    | ((with_reducible apply Mixed.of); exact rfl)
    | (apply hfb.bit (i := 4) rfl)
    | (apply hfb.bit (i := 8) rfl)
    | (apply hfb.bit (i := 9) rfl)
    | (extract_lets)
    | split
    | (intro _ _ _)
    | (intro _ e; have _hk : Frame _ _ _ _ := e)
    | (intro _ e; cases e)
    | dsimp only
    | (dsimp +zetaDelta only))

theorem State.handBegin_fr {fw fb : Nat} {s0 : State} (s : State) (c : Cmd) (hK : Frame fw fb s0 s) (hfw : Sub 549755814400 fw := by exact Sub.within hfw rfl) : Frame fw fb s0 (State.handBegin s c) := by
  unfold State.handBegin
  repeat' (first
    | with_reducible assumption
    | with_reducible apply State.setHand_fr
    | with_reducible apply State.start_fr
    | (with_reducible refine Frame.ite ?_ ?_)
    | ((with_reducible apply Sub.within hfw); exact rfl)
    | ((with_reducible apply Sub.within hfb); exact rfl)
    | ((with_reducible apply Mixed.of); exact rfl)
    | (extract_lets)
    | split
    | (intro _ _ _)
    | (intro _ e; have _hk : Frame _ _ _ _ := e)
    | (intro _ e; cases e)
    | dsimp only
    | (dsimp +zetaDelta only))

theorem execStep_fr {fw fb : Nat} {s0 : State} (k : Nat) (s : State) (hK : Frame fw fb s0 s) (hfw : Sub 549755816448 fw := by exact Sub.within hfw rfl) : ∀ u, execStep k s = .next u → Frame fw fb s0 u := by
  unfold execStep
  repeat' (first
    | with_reducible assumption
    | with_reducible apply State.handBegin_fr
    | with_reducible apply State.runHand_fr
    | (with_reducible refine Frame.ite ?_ ?_)
    | ((with_reducible apply Sub.within hfw); exact rfl)
    | ((with_reducible apply Sub.within hfb); exact rfl)
    | ((with_reducible apply Mixed.of); exact rfl)
    | (extract_lets)
    | split
    | (intro _ _ _)
    | (intro _ e; have _hk : Frame _ _ _ _ := e)
    | (intro _ e; cases e)
    | dsimp only
    | (dsimp +zetaDelta only))

theorem execPrefillChunk_fr {fw fb : Nat} {s0 : State} (k : Nat) (s : State) (hK : Frame fw fb s0 s) (hfw : Sub 549755816448 fw := by exact Sub.within hfw rfl) : ∀ u, execPrefillChunk k s = .next u → Frame fw fb s0 u := by
  unfold execPrefillChunk
  repeat' (first
    | with_reducible assumption
    | with_reducible apply State.handBegin_fr
    | with_reducible apply State.runHand_fr
    | (with_reducible refine Frame.ite ?_ ?_)
    | ((with_reducible apply Sub.within hfw); exact rfl)
    | ((with_reducible apply Sub.within hfb); exact rfl)
    | ((with_reducible apply Mixed.of); exact rfl)
    | (extract_lets)
    | split
    | (intro _ _ _)
    | (intro _ e; have _hk : Frame _ _ _ _ := e)
    | (intro _ e; cases e)
    | dsimp only
    | (dsimp +zetaDelta only))

theorem giveSpans_fr {fw fb : Nat} {s0 : State} (n : Nat) (l : List (Nat × Bool)) (s : State) (hK : Frame fw fb s0 s) (hfw : Sub 549781176330 fw := by exact Sub.within hfw rfl) (hfb : Sub 16 fb := by exact Sub.within hfb rfl) : ∀ u, giveSpans n l s = some u → Frame fw fb s0 u := by
  induction l generalizing s with
  | nil => intro u e; cases e; exact hK
  | cons p r ih =>
    obtain ⟨i, lead⟩ := p
    have ha : ∀ t, (if lead then s.allocSpan n 4 (s.hand n).leadVa (s.hand n).leadLayers i else s.allocSpan n 3 (s.hand n).cacheVa (s.hand n).layers i) = some t → Frame fw fb s0 t := by
      intro t e
      cases lead <;> exact State.allocSpan_fr_at e hK
    unfold giveSpans
    dsimp only
    split
    · intro _ e; cases e
    · rename_i e
      exact ih _ (State.setHand_fr _ _ _ (ha _ e))

theorem giveSpans_fr_at {fw fb : Nat} {s0 u : State} {n : Nat} {l : List (Nat × Bool)} {s : State} (e : giveSpans n l s = some u) (hK : Frame fw fb s0 s) (hfw : Sub 549781176330 fw := by exact Sub.within hfw rfl) (hfb : Sub 16 fb := by exact Sub.within hfb rfl) : Frame fw fb s0 u := by
  have := giveSpans_fr n l s hK
  exact this u e

theorem State.roomFor_fr {fw fb : Nat} {s0 : State} (s : State) (cls n hi : Nat) (hK : Frame fw fb s0 s) (hfw : Sub 549781176330 fw := by exact Sub.within hfw rfl) (hfb : Sub 272 fb := by exact Sub.within hfb rfl) : (State.roomFor s cls n hi).fr fw fb s0 := by
  unfold State.roomFor
  repeat' (first
    | with_reducible assumption
    | with_reducible apply State.serveRegs_fr
    | with_reducible apply State.wr_fr
    | (with_reducible refine giveSpans_fr _ ?_ ?_ ?_)
    | (with_reducible apply giveSpans_fr_at; with_reducible assumption)
    | with_reducible apply Room.fr_ok
    | with_reducible apply Room.fr_short
    | with_reducible apply Room.fr_refuse
    | (with_reducible refine Frame.ite ?_ ?_)
    | ((with_reducible apply Sub.within hfw); exact rfl)
    | ((with_reducible apply Sub.within hfb); exact rfl)
    | ((with_reducible apply Mixed.of); exact rfl)
    | (apply hfb.bit (i := 4) rfl)
    | (apply hfb.bit (i := 8) rfl)
    | (extract_lets)
    | split
    | (intro _ _ _)
    | (intro _ e; have _hk : Frame _ _ _ _ := e)
    | (intro _ e; cases e)
    | dsimp only
    | (dsimp +zetaDelta only))

theorem State.roomFor_fr_ok {fw fb : Nat} {s0 : State} {u : State} {s : State} {cls n hi : Nat} (h_eq : State.roomFor s cls n hi = .ok u) (hK : Frame fw fb s0 s) (hfw : Sub 549781176330 fw := by exact Sub.within hfw rfl) (hfb : Sub 272 fb := by exact Sub.within hfb rfl) : Frame fw fb s0 u := by
  have := State.roomFor_fr s cls n hi hK
  rw [h_eq] at this
  exact this

theorem reclaim_fr {fw fb : Nat} {s0 : State} (want : Nat) (fuel : Nat) (s : State) (hK : Frame fw fb s0 s) (hfw : Sub 4398608744456 fw := by exact Sub.within hfw rfl) (hfb : Sub 784 fb := by exact Sub.within hfb rfl) : Frame fw fb s0 (reclaim want fuel s) := by
  induction fuel generalizing s with
  | zero =>
    unfold reclaim
    repeat' (first
      | with_reducible assumption
      | with_reducible apply State.bump_fr
      | with_reducible apply State.entryFree_fr
      | with_reducible apply State.want_fr
      | (with_reducible refine Frame.ite ?_ ?_)
      | ((with_reducible apply Sub.within hfw); exact rfl)
      | ((with_reducible apply Sub.within hfb); exact rfl)
      | ((with_reducible apply Mixed.of); exact rfl)
      | (apply hfb.bit (i := 4) rfl)
      | (apply hfb.bit (i := 8) rfl)
      | (apply hfb.bit (i := 9) rfl)
      | (extract_lets)
      | split
      | (intro _ _ _)
      | (intro _ e; have _hk : Frame _ _ _ _ := e)
      | (intro _ e; cases e)
      | dsimp only
      | (dsimp +zetaDelta only))
  | succ fuel ih =>
    unfold reclaim
    repeat' (first
      | with_reducible assumption
      | (with_reducible refine ih _ ?_)
      | with_reducible apply State.bump_fr
      | with_reducible apply State.entryFree_fr
      | with_reducible apply State.want_fr
      | (with_reducible refine Frame.ite ?_ ?_)
      | ((with_reducible apply Sub.within hfw); exact rfl)
      | ((with_reducible apply Sub.within hfb); exact rfl)
      | ((with_reducible apply Mixed.of); exact rfl)
      | (apply hfb.bit (i := 4) rfl)
      | (apply hfb.bit (i := 8) rfl)
      | (apply hfb.bit (i := 9) rfl)
      | (extract_lets)
      | split
      | (intro _ _ _)
      | (intro _ e; have _hk : Frame _ _ _ _ := e)
      | (intro _ e; cases e)
      | dsimp only
      | (dsimp +zetaDelta only))

theorem State.sendOut_fr {fw fb : Nat} {s0 : State} (s : State) (n h : Nat) (kitty : Bool) (fmt cause : Nat) (hK : Frame fw fb s0 s) (hfw : Sub 549757911042 fw := by exact Sub.within hfw rfl) : Frame fw fb s0 (State.sendOut s n h kitty fmt cause) := by
  unfold State.sendOut
  repeat' (first
    | with_reducible assumption
    | with_reducible apply State.setHand_fr
    | with_reducible apply State.took_fr
    | with_reducible apply State.want_fr
    | (with_reducible refine Frame.foldl ?_ ?_)
    | (with_reducible refine Frame.foldr ?_ ?_)
    | (with_reducible refine Frame.ite ?_ ?_)
    | ((with_reducible apply Sub.within hfw); exact rfl)
    | ((with_reducible apply Sub.within hfb); exact rfl)
    | ((with_reducible apply Mixed.of); exact rfl)
    | (extract_lets)
    | split
    | (intro _ _ _)
    | (intro _ e; have _hk : Frame _ _ _ _ := e)
    | (intro _ e; cases e)
    | dsimp only
    | (dsimp +zetaDelta only))

theorem State.bringBack_fr {fw fb : Nat} {s0 : State} (s : State) (n cause : Nat) (hK : Frame fw fb s0 s) (hfw : Sub 2097152 fw := by exact Sub.within hfw rfl) : Frame fw fb s0 (State.bringBack s n cause) := by
  unfold State.bringBack
  repeat' (first
    | with_reducible assumption
    | with_reducible apply State.want_fr
    | (with_reducible refine Frame.foldl ?_ ?_)
    | (with_reducible refine Frame.foldr ?_ ?_)
    | (with_reducible refine Frame.ite ?_ ?_)
    | ((with_reducible apply Sub.within hfw); exact rfl)
    | ((with_reducible apply Sub.within hfb); exact rfl)
    | ((with_reducible apply Mixed.of); exact rfl)
    | (extract_lets)
    | split
    | (intro _ _ _)
    | (intro _ e; have _hk : Frame _ _ _ _ := e)
    | (intro _ e; cases e)
    | dsimp only
    | (dsimp +zetaDelta only))

theorem State.evict_fr {fw fb : Nat} {s0 : State} (s : State) (n : Nat) (hK : Frame fw fb s0 s) (hfw : Sub 549757911042 fw := by exact Sub.within hfw rfl) (hfb : Sub 256 fb := by exact Sub.within hfb rfl) : Frame fw fb s0 (State.evict s n) := by
  unfold State.evict
  repeat' (first
    | with_reducible assumption
    | with_reducible apply State.sendOut_fr
    | with_reducible apply State.setHand_fr
    | with_reducible apply State.toHandState_fr
    | (with_reducible refine Frame.getD ?_ ?_)
    | (with_reducible refine Frame.ite ?_ ?_)
    | ((with_reducible apply Sub.within hfw); exact rfl)
    | ((with_reducible apply Sub.within hfb); exact rfl)
    | ((with_reducible apply Mixed.of); exact rfl)
    | (apply hfb.bit (i := 8) rfl)
    | (extract_lets)
    | split
    | (intro _ _ _)
    | (intro _ e; have _hk : Frame _ _ _ _ := e)
    | (intro _ e; cases e)
    | dsimp only
    | (dsimp +zetaDelta only))

theorem State.evictLate_fr {fw fb : Nat} {s0 : State} (s : State) (c : Nat) (hK : Frame fw fb s0 s) (hfw : Sub 549757911042 fw := by exact Sub.within hfw rfl) (hfb : Sub 256 fb := by exact Sub.within hfb rfl) : Frame fw fb s0 (State.evictLate s c) := by
  unfold State.evictLate
  repeat' (first
    | with_reducible assumption
    | with_reducible apply State.evict_fr
    | with_reducible apply State.setHand_fr
    | (with_reducible refine Frame.foldl ?_ ?_)
    | (with_reducible refine Frame.foldr ?_ ?_)
    | (with_reducible refine Frame.ite ?_ ?_)
    | ((with_reducible apply Sub.within hfw); exact rfl)
    | ((with_reducible apply Sub.within hfb); exact rfl)
    | ((with_reducible apply Mixed.of); exact rfl)
    | (apply hfb.bit (i := 8) rfl)
    | (extract_lets)
    | split
    | (intro _ _ _)
    | (intro _ e; have _hk : Frame _ _ _ _ := e)
    | (intro _ e; cases e)
    | dsimp only
    | (dsimp +zetaDelta only))

theorem evictUntil_fr {fw fb : Nat} {s0 : State} (want : Nat) (busy : List Nat) (fuel : Nat) (s : State) (hK : Frame fw fb s0 s) (hfw : Sub 549757911042 fw := by exact Sub.within hfw rfl) (hfb : Sub 256 fb := by exact Sub.within hfb rfl) : Frame fw fb s0 (evictUntil want busy fuel s) := by
  induction fuel generalizing s with
  | zero =>
    unfold evictUntil
    repeat' (first
      | with_reducible assumption
      | with_reducible apply State.evict_fr
      | with_reducible apply State.want_fr
      | (with_reducible refine Frame.ite ?_ ?_)
      | ((with_reducible apply Sub.within hfw); exact rfl)
      | ((with_reducible apply Sub.within hfb); exact rfl)
      | ((with_reducible apply Mixed.of); exact rfl)
      | (apply hfb.bit (i := 8) rfl)
      | (extract_lets)
      | split
      | (intro _ _ _)
      | (intro _ e; have _hk : Frame _ _ _ _ := e)
      | (intro _ e; cases e)
      | dsimp only
      | (dsimp +zetaDelta only))
  | succ fuel ih =>
    unfold evictUntil
    repeat' (first
      | with_reducible assumption
      | (with_reducible refine ih _ ?_)
      | with_reducible apply State.evict_fr
      | with_reducible apply State.want_fr
      | (with_reducible refine Frame.ite ?_ ?_)
      | ((with_reducible apply Sub.within hfw); exact rfl)
      | ((with_reducible apply Sub.within hfb); exact rfl)
      | ((with_reducible apply Mixed.of); exact rfl)
      | (apply hfb.bit (i := 8) rfl)
      | (extract_lets)
      | split
      | (intro _ _ _)
      | (intro _ e; have _hk : Frame _ _ _ _ := e)
      | (intro _ e; cases e)
      | dsimp only
      | (dsimp +zetaDelta only))

theorem State.keepReserve_fr {fw fb : Nat} {s0 : State} (s : State) (busy : List Nat) (hK : Frame fw fb s0 s) (hfw : Sub 4948366655498 fw := by exact Sub.within hfw rfl) (hfb : Sub 784 fb := by exact Sub.within hfb rfl) : Frame fw fb s0 (State.keepReserve s busy) := by
  unfold State.keepReserve
  repeat' (first
    | with_reducible assumption
    | with_reducible apply evictUntil_fr
    | with_reducible apply reclaim_fr
    | (with_reducible refine Frame.ite ?_ ?_)
    | ((with_reducible apply Sub.within hfw); exact rfl)
    | ((with_reducible apply Sub.within hfb); exact rfl)
    | ((with_reducible apply Mixed.of); exact rfl)
    | (apply hfb.bit (i := 4) rfl)
    | (apply hfb.bit (i := 8) rfl)
    | (apply hfb.bit (i := 9) rfl)
    | (extract_lets)
    | split
    | (intro _ _ _)
    | (intro _ e; have _hk : Frame _ _ _ _ := e)
    | (intro _ e; cases e)
    | dsimp only
    | (dsimp +zetaDelta only))

theorem State.refuseStep_fr {fw fb : Nat} {s0 : State} (s : State) (c : Cmd) (det : Nat) (hK : Frame fw fb s0 s) (hfw : Sub 2560 fw := by exact Sub.within hfw rfl) (hfb : Sub 256 fb := by exact Sub.within hfb rfl) : Frame fw fb s0 (State.refuseStep s c det) := by
  unfold State.refuseStep
  repeat' (first
    | with_reducible assumption
    | with_reducible apply State.bump_fr
    | with_reducible apply State.finish_fr
    | (with_reducible refine Frame.ite ?_ ?_)
    | ((with_reducible apply Sub.within hfw); exact rfl)
    | ((with_reducible apply Sub.within hfb); exact rfl)
    | ((with_reducible apply Mixed.of); exact rfl)
    | (apply hfb.bit (i := 8) rfl)
    | (extract_lets)
    | split
    | (intro _ _ _)
    | (intro _ e; have _hk : Frame _ _ _ _ := e)
    | (intro _ e; cases e)
    | dsimp only
    | (dsimp +zetaDelta only))

theorem State.shortOf_fr {fw fb : Nat} {s0 : State} (s : State) (c : Cmd) (busy : List Nat) (want : Nat) (hK : Frame fw fb s0 s) (hfw : Sub 4948366658058 fw := by exact Sub.within hfw rfl) (hfb : Sub 784 fb := by exact Sub.within hfb rfl) : Frame fw fb s0 (State.shortOf s c busy want) := by
  unfold State.shortOf
  repeat' (first
    | with_reducible assumption
    | with_reducible apply State.refuseStep_fr
    | with_reducible apply evictUntil_fr
    | with_reducible apply reclaim_fr
    | (with_reducible refine Frame.ite ?_ ?_)
    | ((with_reducible apply Sub.within hfw); exact rfl)
    | ((with_reducible apply Sub.within hfb); exact rfl)
    | ((with_reducible apply Mixed.of); exact rfl)
    | (apply hfb.bit (i := 4) rfl)
    | (apply hfb.bit (i := 8) rfl)
    | (apply hfb.bit (i := 9) rfl)
    | (extract_lets)
    | split
    | (intro _ _ _)
    | (intro _ e; have _hk : Frame _ _ _ _ := e)
    | (intro _ e; cases e)
    | dsimp only
    | (dsimp +zetaDelta only))

theorem State.roomTry_fr {fw fb : Nat} {s0 : State} (s : State) (cls n hi : Nat) (hK : Frame fw fb s0 s) (hfw : Sub 4948364558346 fw := by exact Sub.within hfw rfl) (hfb : Sub 784 fb := by exact Sub.within hfb rfl) : (State.roomTry s cls n hi).fr fw fb s0 := by
  unfold State.roomTry
  repeat' (first
    | with_reducible assumption
    | with_reducible apply State.roomFor_fr
    | (with_reducible apply State.roomFor_fr_ok; with_reducible assumption)
    | with_reducible apply reclaim_fr
    | with_reducible apply Room.fr_ok
    | with_reducible apply Room.fr_short
    | with_reducible apply Room.fr_refuse
    | (with_reducible refine Frame.ite ?_ ?_)
    | ((with_reducible apply Sub.within hfw); exact rfl)
    | ((with_reducible apply Sub.within hfb); exact rfl)
    | ((with_reducible apply Mixed.of); exact rfl)
    | (apply hfb.bit (i := 4) rfl)
    | (apply hfb.bit (i := 8) rfl)
    | (apply hfb.bit (i := 9) rfl)
    | (extract_lets)
    | split
    | (intro _ _ _)
    | (intro _ e; have _hk : Frame _ _ _ _ := e)
    | (intro _ e; cases e)
    | dsimp only
    | (dsimp +zetaDelta only))

theorem State.roomTry_fr_ok {fw fb : Nat} {s0 : State} {u : State} {s : State} {cls n hi : Nat} (h_eq : State.roomTry s cls n hi = .ok u) (hK : Frame fw fb s0 s) (hfw : Sub 4948364558346 fw := by exact Sub.within hfw rfl) (hfb : Sub 784 fb := by exact Sub.within hfb rfl) : Frame fw fb s0 u := by
  have := State.roomTry_fr s cls n hi hK
  rw [h_eq] at this
  exact this

theorem draftRoom_fr {fw fb : Nat} {s0 : State} (cls n c : Nat) (fuel : Nat) (s : State) (hK : Frame fw fb s0 s) (hfw : Sub 549781176330 fw := by exact Sub.within hfw rfl) (hfb : Sub 272 fb := by exact Sub.within hfb rfl) : Frame fw fb s0 (draftRoom cls n c fuel s).2 := by
  induction fuel generalizing s with
  | zero =>
    unfold draftRoom
    repeat' (first
      | with_reducible assumption
      | with_reducible apply State.roomFor_fr
      | (with_reducible apply State.roomFor_fr_ok; with_reducible assumption)
      | with_reducible apply Room.fr_ok
      | with_reducible apply Room.fr_short
      | with_reducible apply Room.fr_refuse
      | (with_reducible refine Frame.ite ?_ ?_)
      | ((with_reducible apply Sub.within hfw); exact rfl)
      | ((with_reducible apply Sub.within hfb); exact rfl)
      | ((with_reducible apply Mixed.of); exact rfl)
      | (apply hfb.bit (i := 4) rfl)
      | (apply hfb.bit (i := 8) rfl)
      | (extract_lets)
      | split
      | (intro _ _ _)
      | (intro _ e; have _hk : Frame _ _ _ _ := e)
      | (intro _ e; cases e)
      | dsimp only
      | (dsimp +zetaDelta only))
  | succ fuel ih =>
    unfold draftRoom
    repeat' (first
      | with_reducible assumption
      | (with_reducible refine ih _ ?_)
      | with_reducible apply State.roomFor_fr
      | (with_reducible apply State.roomFor_fr_ok; with_reducible assumption)
      | with_reducible apply Room.fr_ok
      | with_reducible apply Room.fr_short
      | with_reducible apply Room.fr_refuse
      | (with_reducible refine Frame.ite ?_ ?_)
      | ((with_reducible apply Sub.within hfw); exact rfl)
      | ((with_reducible apply Sub.within hfb); exact rfl)
      | ((with_reducible apply Mixed.of); exact rfl)
      | (apply hfb.bit (i := 4) rfl)
      | (apply hfb.bit (i := 8) rfl)
      | (extract_lets)
      | split
      | (intro _ _ _)
      | (intro _ e; have _hk : Frame _ _ _ _ := e)
      | (intro _ e; cases e)
      | dsimp only
      | (dsimp +zetaDelta only))

theorem draftRoom_fr_at {fw fb : Nat} {s0 u : State} {cls n c : Nat} {fuel : Nat} {s : State} {r} (e : draftRoom cls n c fuel s = (r, u)) (hK : Frame fw fb s0 s) (hfw : Sub 549781176330 fw := by exact Sub.within hfw rfl) (hfb : Sub 272 fb := by exact Sub.within hfb rfl) : Frame fw fb s0 u := by
  have := draftRoom_fr cls n c fuel s hK
  rw [e] at this
  exact this

theorem State.placeStop_fr {fw fb : Nat} {s0 : State} (s : State) (slot : Nat) (c : Cmd) (len : Nat) (hK : Frame fw fb s0 s) (hfw : Sub 2560 fw := by exact Sub.within hfw rfl) (hfb : Sub 256 fb := by exact Sub.within hfb rfl) : ∀ u, State.placeStop s slot c len = some u → Frame fw fb s0 u := by
  unfold State.placeStop
  repeat' (first
    | with_reducible assumption
    | with_reducible apply State.bump_fr
    | with_reducible apply State.failWith_fr
    | with_reducible apply State.refuseStep_fr
    | (with_reducible refine Frame.ite ?_ ?_)
    | ((with_reducible apply Sub.within hfw); exact rfl)
    | ((with_reducible apply Sub.within hfb); exact rfl)
    | ((with_reducible apply Mixed.of); exact rfl)
    | (apply hfb.bit (i := 8) rfl)
    | (extract_lets)
    | split
    | (intro _ _ _)
    | (intro _ e; have _hk : Frame _ _ _ _ := e)
    | (intro _ e; cases e)
    | dsimp only
    | (dsimp +zetaDelta only))

theorem State.placeStop_fr_at {fw fb : Nat} {s0 : State} {u : State} {s : State} {slot : Nat} {c : Cmd} {len : Nat} (h_eq : State.placeStop s slot c len = some u) (hK : Frame fw fb s0 s) (hfw : Sub 2560 fw := by exact Sub.within hfw rfl) (hfb : Sub 256 fb := by exact Sub.within hfb rfl) : Frame fw fb s0 u := by
  have := State.placeStop_fr s slot c len hK
  exact this u h_eq

theorem placeToken_fr {fw fb : Nat} {s0 : State} (slot cls : Nat) (busy : List Nat) (a : Placed) (c : Cmd) (hA : Frame fw fb s0 a.s) (hfw : Sub 4948366658058 fw := by exact Sub.within hfw rfl) (hfb : Sub 784 fb := by exact Sub.within hfb rfl) :
    Frame fw fb s0 (placeToken slot cls busy a c).s := by
  unfold placeToken
  extract_lets n s len
  split
  · rename_i e
    exact State.placeStop_fr_at e hA
  · split
    · exact hA
    · split
      · exact State.refuseStep_fr _ _ _ hA
      · exact State.shortOf_fr _ _ _ _ hA
      · rename_i e
        exact State.roomTry_fr_ok e hA

theorem placeChunk_fr {fw fb : Nat} {s0 : State} (slot cls budget : Nat) (busy : List Nat) (a : Placed) (c : Cmd) (hA : Frame fw fb s0 a.s) (hfw : Sub 2361183246383289928202 fw := by exact Sub.within hfw rfl) (hfb : Sub 796 fb := by exact Sub.within hfb rfl) :
    Frame fw fb s0 (placeChunk slot cls budget busy a c).s := by
  unfold placeChunk
  extract_lets n s x n0
  split
  · rename_i e
    exact State.placeStop_fr_at e hA
  · split
    · exact hA
    · split
      · rename_i e
        exact State.fetch_fr_stop e hA
      · rename_i e
        exact State.failWith_fr _ _ _ _ (State.fetch_fr_bad e hA)
      · rename_i e
        have ht := State.dropGot_fr _ c.serveOrigin.who (State.fetch_fr_bytes e hA)
        have ht := State.dropGot_fr _ c.origin.who (State.fetch_fr_bytes e hA)
        extract_lets t len
        split
        · exact State.refuseStep_fr _ _ _ ht
        · exact State.shortOf_fr _ _ _ _ ht
        · rename_i e
          exact State.roomTry_fr_ok e ht

theorem placeDrafts_fr {fw fb : Nat} {s0 : State} (cls : Nat) (a : Placed) (hA : Frame fw fb s0 a.s) (hfw : Sub 549781176330 fw := by exact Sub.within hfw rfl) (hfb : Sub 272 fb := by exact Sub.within hfb rfl) : Frame fw fb s0 (placeDrafts cls a).s := by
  unfold placeDrafts
  refine foldl_inv (P := fun x : Placed => Frame fw fb s0 x.s) (fun b i hb => ?_) _ hA
  split
  · exact hb
  · exact draftRoom_fr _ _ _ _ _ hb

theorem State.stepAdd_fr {fw fb : Nat} {s0 : State} (s : State) (c word : Nat) (hK : Frame fw fb s0 s) (hfw : Sub 536870920 fw := by exact Sub.within hfw rfl) (hfb : Sub 512 fb := by exact Sub.within hfb rfl) : Frame fw fb s0 (State.stepAdd s c word) := by
  unfold State.stepAdd
  repeat' (first
    | with_reducible assumption
    | with_reducible apply State.remoteAtomic_fr
    | with_reducible apply State.store_fr
    | (with_reducible refine Frame.foldl ?_ ?_)
    | (with_reducible refine Frame.foldr ?_ ?_)
    | (with_reducible refine Frame.ite ?_ ?_)
    | ((with_reducible apply Sub.within hfw); exact rfl)
    | ((with_reducible apply Sub.within hfb); exact rfl)
    | ((with_reducible apply Mixed.of); exact rfl)
    | (apply hfb.bit (i := 9) rfl)
    | (extract_lets)
    | split
    | (intro _ _ _)
    | (intro _ e; have _hk : Frame _ _ _ _ := e)
    | (intro _ e; cases e)
    | dsimp only
    | (dsimp +zetaDelta only))

theorem State.openAreas_fr {fw fb : Nat} {s0 : State} (s : State) (c slot par : Nat) (hK : Frame fw fb s0 s) (hfw : Sub 68719476736 fw := by exact Sub.within hfw rfl) : Frame fw fb s0 (State.openAreas s c slot par) := by
  unfold State.openAreas
  repeat' (first
    | with_reducible assumption
    | with_reducible apply State.setArea_fr
    | (with_reducible refine Frame.foldl ?_ ?_)
    | (with_reducible refine Frame.foldr ?_ ?_)
    | (with_reducible refine Frame.ite ?_ ?_)
    | ((with_reducible apply Sub.within hfw); exact rfl)
    | ((with_reducible apply Sub.within hfb); exact rfl)
    | ((with_reducible apply Mixed.of); exact rfl)
    | (extract_lets)
    | split
    | (intro _ _ _)
    | (intro _ e; have _hk : Frame _ _ _ _ := e)
    | (intro _ e; cases e)
    | dsimp only
    | (dsimp +zetaDelta only))

theorem State.assemble_fr {fw fb : Nat} {s0 : State} (s : State) (c n slot cls : Nat) (routed : Bool) (items : List StepItem) (hK : Frame fw fb s0 s) (hfw : Sub 2306901117893642760 fw := by exact Sub.within hfw rfl) (hfb : Sub 5012 fb := by exact Sub.within hfb rfl) : Frame fw fb s0 (State.assemble s c n slot cls routed items) := by
  have k0 : ∀ (t : State) x0, Frame fw fb s0 t → Frame fw fb s0 { t with steps := x0 } := fun t x0 ht => Frame.upd ht hfw rfl rfl ⟨rfl, rfl, rfl⟩
  unfold State.assemble
  repeat' (first
    | with_reducible assumption
    | with_reducible apply State.bump_fr
    | with_reducible apply State.charge_fr
    | with_reducible apply State.openAreas_fr
    | with_reducible apply State.setCtx_fr
    | with_reducible apply State.stepAdd_fr
    | with_reducible apply State.stepNext_fr
    | with_reducible apply State.switchTake_fr
    | with_reducible apply State.toHandState_fr
    | (with_reducible refine Frame.foldl ?_ ?_)
    | (with_reducible refine Frame.foldr ?_ ?_)
    | (with_reducible refine Frame.getD ?_ ?_)
    | (with_reducible refine Frame.ite ?_ ?_)
    | ((with_reducible apply Sub.within hfw); exact rfl)
    | ((with_reducible apply Sub.within hfb); exact rfl)
    | ((with_reducible apply Mixed.of); exact rfl)
    | (apply hfb.bit (i := 2) rfl)
    | (apply hfb.bit (i := 4) rfl)
    | (apply hfb.bit (i := 7) rfl)
    | (apply hfb.bit (i := 8) rfl)
    | (apply hfb.bit (i := 9) rfl)
    | (apply hfb.bit (i := 12) rfl)
    | (extract_lets)
    | (fail_if_no_progress (with_reducible refine k0 _ _ ?_))
    | split
    | (intro _ _ _)
    | (intro _ e; have _hk : Frame _ _ _ _ := e)
    | (intro _ e; cases e)
    | dsimp only
    | (dsimp +zetaDelta only)
    | (fail_if_no_progress ((with_reducible refine Frame.upd ?_ hfw ?_ rfl ⟨rfl, rfl, rfl⟩); rotate_left; exact rfl)))

theorem State.handClasses_fr {fw fb : Nat} {s0 : State} (s : State) (c cls : Nat) (hK : Frame fw fb s0 s) (hfb : Sub 256 fb := by exact Sub.within hfb rfl) : Frame fw fb s0 (State.handClasses s c cls) := by
  unfold State.handClasses
  repeat' (first
    | with_reducible assumption
    | with_reducible apply State.wr_fr
    | (with_reducible refine Frame.foldl ?_ ?_)
    | (with_reducible refine Frame.foldr ?_ ?_)
    | (with_reducible refine Frame.ite ?_ ?_)
    | ((with_reducible apply Sub.within hfw); exact rfl)
    | ((with_reducible apply Sub.within hfb); exact rfl)
    | ((with_reducible apply Mixed.of); exact rfl)
    | (apply hfb.bit (i := 8) rfl)
    | (extract_lets)
    | split
    | (intro _ _ _)
    | (intro _ e; have _hk : Frame _ _ _ _ := e)
    | (intro _ e; cases e)
    | dsimp only
    | (dsimp +zetaDelta only))

theorem stepAssembly_fr {fw fb : Nat} {s0 : State} (c : Nat) (s : State) (hK : Frame fw fb s0 s) (hfw : Sub 7085856630370291911178 fw := by exact Sub.within hfw rfl) (hfb : Sub 5020 fb := by exact Sub.within hfb rfl) : Frame fw fb s0 (stepAssembly c s) := by
  have k0 : ∀ (t : State) x0, Frame fw fb s0 t → Frame fw fb s0 { t with cacheSet := x0 } := fun t x0 ht => Frame.upd ht hfw rfl rfl ⟨rfl, rfl, rfl⟩
  unfold stepAssembly
  extract_lets n slot routed cls set t asked cs busy budget a b d u
  refine Frame.ite hK (Frame.ite hK ?_)
  have ht : Frame fw fb s0 t := k0 _ _ hK
  have ha : Frame fw fb s0 a.s := foldl_inv (P := fun x : Placed => Frame fw fb s0 x.s) (fun b p hb => placeToken_fr _ _ _ _ _ hb) _ ht
  have hb : Frame fw fb s0 b.s := foldl_inv (P := fun x : Placed => Frame fw fb s0 x.s) (fun b p hb => placeChunk_fr _ _ _ _ _ _ hb) _ ha
  have hu : Frame fw fb s0 u := State.keepReserve_fr _ _ (placeDrafts_fr _ _ hb)
  exact Frame.ite (k0 _ _ hu) (State.assemble_fr _ _ _ _ _ _ _ (State.handClasses_fr _ _ _ hu))

theorem execStepAssembly_fr {fw fb : Nat} {s0 : State} (ctx : Nat) (s : State) (hK : Frame fw fb s0 s) (hfw : Sub 7085856630370291911178 fw := by exact Sub.within hfw rfl) (hfb : Sub 5020 fb := by exact Sub.within hfb rfl) : ∀ u, execStepAssembly ctx s = .next u → Frame fw fb s0 u := by
  unfold execStepAssembly
  repeat' (first
    | with_reducible assumption
    | with_reducible apply stepAssembly_fr
    | (with_reducible refine Frame.ite ?_ ?_)
    | ((with_reducible apply Sub.within hfw); exact rfl)
    | ((with_reducible apply Sub.within hfb); exact rfl)
    | ((with_reducible apply Mixed.of); exact rfl)
    | (apply hfb.bit (i := 2) rfl)
    | (apply hfb.bit (i := 3) rfl)
    | (apply hfb.bit (i := 4) rfl)
    | (apply hfb.bit (i := 7) rfl)
    | (apply hfb.bit (i := 8) rfl)
    | (apply hfb.bit (i := 9) rfl)
    | (apply hfb.bit (i := 12) rfl)
    | (extract_lets)
    | split
    | (intro _ _ _)
    | (intro _ e; have _hk : Frame _ _ _ _ := e)
    | (intro _ e; cases e)
    | dsimp only
    | (dsimp +zetaDelta only))

theorem State.fillLead_fr {fw fb : Nat} {s0 : State} (s : State) (c n first count : Nat) (hK : Frame fw fb s0 s) (hfw : Sub 10 fw := by exact Sub.within hfw rfl) : Frame fw fb s0 (State.fillLead s c n first count) := by
  have k0 : ∀ (t : State) x0, Frame fw fb s0 t → Frame fw fb s0 { t with freeCtr := x0 } := fun t x0 ht => Frame.upd ht hfw rfl rfl ⟨rfl, rfl, rfl⟩
  unfold State.fillLead
  repeat' (first
    | with_reducible assumption
    | with_reducible apply State.fillLayer_fr
    | (with_reducible refine Frame.foldl ?_ ?_)
    | (with_reducible refine Frame.foldr ?_ ?_)
    | (with_reducible refine Frame.ite ?_ ?_)
    | ((with_reducible apply Sub.within hfw); exact rfl)
    | ((with_reducible apply Sub.within hfb); exact rfl)
    | ((with_reducible apply Mixed.of); exact rfl)
    | (extract_lets)
    | (fail_if_no_progress (with_reducible refine k0 _ _ ?_))
    | split
    | (intro _ _ _)
    | (intro _ e; have _hk : Frame _ _ _ _ := e)
    | (intro _ e; cases e)
    | dsimp only
    | (dsimp +zetaDelta only)
    | (fail_if_no_progress ((with_reducible refine Frame.upd ?_ hfw ?_ rfl ⟨rfl, rfl, rfl⟩); rotate_left; exact rfl)))

theorem State.depthAfter_fr {fw fb : Nat} {s0 : State} (s : State) (n d a : Nat) (hK : Frame fw fb s0 s) (hfw : Sub 549755813888 fw := by exact Sub.within hfw rfl) (hfb : Sub 256 fb := by exact Sub.within hfb rfl) : Frame fw fb s0 (State.depthAfter s n d a) := by
  unfold State.depthAfter
  repeat' (first
    | with_reducible assumption
    | with_reducible apply State.setHand_fr
    | with_reducible apply State.wr_fr
    | (with_reducible refine Frame.ite ?_ ?_)
    | ((with_reducible apply Sub.within hfw); exact rfl)
    | ((with_reducible apply Sub.within hfb); exact rfl)
    | ((with_reducible apply Mixed.of); exact rfl)
    | (apply hfb.bit (i := 8) rfl)
    | (dsimp only [State.wrs, State.regs0, List.foldl])
    | (extract_lets)
    | split
    | (intro _ _ _)
    | (intro _ e; have _hk : Frame _ _ _ _ := e)
    | (intro _ e; cases e)
    | dsimp only
    | (dsimp +zetaDelta only))

theorem State.suspendStep_fr {fw fb : Nat} {s0 : State} (s : State) (n : Nat) (hK : Frame fw fb s0 s) (hfw : Sub 549755813888 fw := by exact Sub.within hfw rfl) (hfb : Sub 256 fb := by exact Sub.within hfb rfl) : Frame fw fb s0 (State.suspendStep s n) := by
  unfold State.suspendStep
  repeat' (first
    | with_reducible assumption
    | with_reducible apply State.setHand_fr
    | with_reducible apply State.wr_fr
    | (with_reducible refine Frame.ite ?_ ?_)
    | ((with_reducible apply Sub.within hfw); exact rfl)
    | ((with_reducible apply Sub.within hfb); exact rfl)
    | ((with_reducible apply Mixed.of); exact rfl)
    | (apply hfb.bit (i := 8) rfl)
    | (extract_lets)
    | split
    | (intro _ _ _)
    | (intro _ e; have _hk : Frame _ _ _ _ := e)
    | (intro _ e; cases e)
    | dsimp only
    | (dsimp +zetaDelta only))

theorem State.itemOff_fr {fw fb : Nat} {s0 : State} (s : State) (c n : Nat) (hK : Frame fw fb s0 s) (hfw : Sub 2199023255552 fw := by exact Sub.within hfw rfl) : Frame fw fb s0 (State.itemOff s c n) := by
  unfold State.itemOff
  repeat' (first
    | with_reducible assumption
    | with_reducible apply State.stepMap_fr
    | (with_reducible refine Frame.ite ?_ ?_)
    | ((with_reducible apply Sub.within hfw); exact rfl)
    | ((with_reducible apply Sub.within hfb); exact rfl)
    | ((with_reducible apply Mixed.of); exact rfl)
    | (extract_lets)
    | split
    | (intro _ _ _)
    | (intro _ e; have _hk : Frame _ _ _ _ := e)
    | (intro _ e; cases e)
    | dsimp only
    | (dsimp +zetaDelta only))

theorem State.itemLeave_fr {fw fb : Nat} {s0 : State} (s : State) (t : Step) (i : StepItem) (a : Nat) (toks : List Nat) (hK : Frame fw fb s0 s) (hfw : Sub 70918499991562 fw := by exact Sub.within hfw rfl) (hfb : Sub 256 fb := by exact Sub.within hfb rfl) : Frame fw fb s0 (State.itemLeave s t i a toks) := by
  have k0 : ∀ (t : State) x0, Frame fw fb s0 t → Frame fw fb s0 { t with freeCtr := x0 } := fun t x0 ht => Frame.upd ht hfw rfl rfl ⟨rfl, rfl, rfl⟩
  unfold State.itemLeave
  repeat' (first
    | with_reducible assumption
    | with_reducible apply State.bump_fr
    | with_reducible apply State.charge_fr
    | with_reducible apply State.depthAfter_fr
    | with_reducible apply State.fillLead_fr
    | with_reducible apply State.setHand_fr
    | with_reducible apply State.suspendStep_fr
    | with_reducible apply State.wr_fr
    | (with_reducible refine Frame.ite ?_ ?_)
    | ((with_reducible apply Sub.within hfw); exact rfl)
    | ((with_reducible apply Sub.within hfb); exact rfl)
    | ((with_reducible apply Mixed.of); exact rfl)
    | (apply hfb.bit (i := 8) rfl)
    | (extract_lets)
    | (fail_if_no_progress (with_reducible refine k0 _ _ ?_))
    | split
    | (intro _ _ _)
    | (intro _ e; have _hk : Frame _ _ _ _ := e)
    | (intro _ e; cases e)
    | dsimp only
    | (dsimp +zetaDelta only)
    | (fail_if_no_progress ((with_reducible refine Frame.upd ?_ hfw ?_ rfl ⟨rfl, rfl, rfl⟩); rotate_left; exact rfl)))

theorem State.itemEnd_fr {fw fb : Nat} {s0 : State} (t : Step) (s : State) (i : StepItem) (hK : Frame fw fb s0 s) (hfw : Sub 2361183314553002265098 fw := by exact Sub.within hfw rfl) (hfb : Sub 780 fb := by exact Sub.within hfb rfl) : Frame fw fb s0 (State.itemEnd t s i) := by
  unfold State.itemEnd
  repeat' (first
    | with_reducible assumption
    | with_reducible apply State.cmdDiscard_fr
    | with_reducible apply State.cmdMap_fr
    | with_reducible apply State.failWith_fr
    | with_reducible apply State.finish_fr
    | with_reducible apply State.itemLeave_fr
    | with_reducible apply State.itemOff_fr
    | with_reducible apply State.put_fr
    | (with_reducible apply State.put_fr_ok; with_reducible assumption)
    | (with_reducible apply State.put_fr_stop; with_reducible assumption)
    | (with_reducible apply State.put_fr_bad; with_reducible assumption)
    | with_reducible apply State.toHandState_fr
    | (with_reducible refine Frame.ite ?_ ?_)
    | ((with_reducible apply Sub.within hfw); exact rfl)
    | ((with_reducible apply Sub.within hfb); exact rfl)
    | ((with_reducible apply Mixed.of); exact rfl)
    | (apply hfb.bit (i := 2) rfl)
    | (apply hfb.bit (i := 3) rfl)
    | (apply hfb.bit (i := 8) rfl)
    | (apply hfb.bit (i := 9) rfl)
    | (extract_lets)
    | split
    | (intro _ _ _)
    | (intro _ e; have _hk : Frame _ _ _ _ := e)
    | (intro _ e; cases e)
    | dsimp only
    | (dsimp +zetaDelta only))

theorem stepComplete_fr {fw fb : Nat} {s0 : State} (c : Nat) (s : State) (hK : Frame fw fb s0 s) (hfw : Sub 2361183459688545716746 fw := by exact Sub.within hfw rfl) (hfb : Sub 796 fb := by exact Sub.within hfb rfl) : Frame fw fb s0 (stepComplete c s) := by
  have k0 : ∀ (t : State) x0, Frame fw fb s0 t → Frame fw fb s0 { t with launches := x0 } := fun t x0 ht => Frame.upd ht hfw rfl rfl ⟨rfl, rfl, rfl⟩
  have k1 : ∀ (t : State) x0, Frame fw fb s0 t → Frame fw fb s0 { t with steps := x0 } := fun t x0 ht => Frame.upd ht hfw rfl rfl ⟨rfl, rfl, rfl⟩
  unfold stepComplete
  repeat' (first
    | with_reducible assumption
    | with_reducible apply State.bump_fr
    | with_reducible apply State.evictLate_fr
    | with_reducible apply State.itemEnd_fr
    | with_reducible apply State.keepReserve_fr
    | with_reducible apply State.poolRegs_fr
    | with_reducible apply State.stepAdd_fr
    | with_reducible apply State.stepMap_fr
    | (with_reducible refine Frame.foldl ?_ ?_)
    | (with_reducible refine Frame.foldr ?_ ?_)
    | (with_reducible refine Frame.getD ?_ ?_)
    | (with_reducible refine Frame.ite ?_ ?_)
    | ((with_reducible apply Sub.within hfw); exact rfl)
    | ((with_reducible apply Sub.within hfb); exact rfl)
    | ((with_reducible apply Mixed.of); exact rfl)
    | (apply hfb.bit (i := 2) rfl)
    | (apply hfb.bit (i := 3) rfl)
    | (apply hfb.bit (i := 4) rfl)
    | (apply hfb.bit (i := 8) rfl)
    | (apply hfb.bit (i := 9) rfl)
    | (extract_lets)
    | (fail_if_no_progress (with_reducible refine k0 _ _ ?_))
    | (fail_if_no_progress (with_reducible refine k1 _ _ ?_))
    | split
    | (intro _ _ _)
    | (intro _ e; have _hk : Frame _ _ _ _ := e)
    | (intro _ e; cases e)
    | dsimp only
    | (dsimp +zetaDelta only)
    | (fail_if_no_progress ((with_reducible refine Frame.upd ?_ hfw ?_ rfl ⟨rfl, rfl, rfl⟩); rotate_left; exact rfl)))

theorem execStepComplete_fr {fw fb : Nat} {s0 : State} (ctx : Nat) (s : State) (hK : Frame fw fb s0 s) (hfw : Sub 2361183459688545716746 fw := by exact Sub.within hfw rfl) (hfb : Sub 796 fb := by exact Sub.within hfb rfl) : ∀ u, execStepComplete ctx s = .next u → Frame fw fb s0 u := by
  unfold execStepComplete
  repeat' (first
    | with_reducible assumption
    | with_reducible apply stepComplete_fr
    | (with_reducible refine Frame.ite ?_ ?_)
    | ((with_reducible apply Sub.within hfw); exact rfl)
    | ((with_reducible apply Sub.within hfb); exact rfl)
    | ((with_reducible apply Mixed.of); exact rfl)
    | (apply hfb.bit (i := 2) rfl)
    | (apply hfb.bit (i := 3) rfl)
    | (apply hfb.bit (i := 4) rfl)
    | (apply hfb.bit (i := 8) rfl)
    | (apply hfb.bit (i := 9) rfl)
    | (extract_lets)
    | split
    | (intro _ _ _)
    | (intro _ e; have _hk : Frame _ _ _ _ := e)
    | (intro _ e; cases e)
    | dsimp only
    | (dsimp +zetaDelta only))

theorem State.leadFree_fr {fw fb : Nat} {s0 : State} (s : State) (n : Nat) (hK : Frame fw fb s0 s) (hfw : Sub 550318047240 fw := by exact Sub.within hfw rfl) (hfb : Sub 528 fb := by exact Sub.within hfb rfl) : Frame fw fb s0 (State.leadFree s n) := by
  unfold State.leadFree
  repeat' (first
    | with_reducible assumption
    | with_reducible apply State.cacheFree_fr
    | with_reducible apply State.setHand_fr
    | (with_reducible refine Frame.ite ?_ ?_)
    | ((with_reducible apply Sub.within hfw); exact rfl)
    | ((with_reducible apply Sub.within hfb); exact rfl)
    | ((with_reducible apply Mixed.of); exact rfl)
    | (apply hfb.bit (i := 4) rfl)
    | (apply hfb.bit (i := 9) rfl)
    | (extract_lets)
    | split
    | (intro _ _ _)
    | (intro _ e; have _hk : Frame _ _ _ _ := e)
    | (intro _ e; cases e)
    | dsimp only
    | (dsimp +zetaDelta only))

theorem evictionComplete_fr {fw fb : Nat} {s0 : State} (n : Nat) (s : State) (hK : Frame fw fb s0 s) (hfw : Sub 549755813888 fw := by exact Sub.within hfw rfl) (hfb : Sub 256 fb := by exact Sub.within hfb rfl) : Frame fw fb s0 (evictionComplete n s) := by
  unfold evictionComplete
  repeat' (first
    | with_reducible assumption
    | with_reducible apply State.bump_fr
    | with_reducible apply State.setHand_fr
    | with_reducible apply State.toHandState_fr
    | (with_reducible refine Frame.ite ?_ ?_)
    | ((with_reducible apply Sub.within hfw); exact rfl)
    | ((with_reducible apply Sub.within hfb); exact rfl)
    | ((with_reducible apply Mixed.of); exact rfl)
    | (apply hfb.bit (i := 8) rfl)
    | (extract_lets)
    | split
    | (intro _ _ _)
    | (intro _ e; have _hk : Frame _ _ _ _ := e)
    | (intro _ e; cases e)
    | dsimp only
    | (dsimp +zetaDelta only))

theorem execEvictionComplete_fr {fw fb : Nat} {s0 : State} (hand : Nat) (s : State) (hK : Frame fw fb s0 s) (hfw : Sub 549755813888 fw := by exact Sub.within hfw rfl) (hfb : Sub 256 fb := by exact Sub.within hfb rfl) : ∀ u, execEvictionComplete hand s = .next u → Frame fw fb s0 u := by
  unfold execEvictionComplete
  repeat' (first
    | with_reducible assumption
    | with_reducible apply evictionComplete_fr
    | (with_reducible refine Frame.ite ?_ ?_)
    | ((with_reducible apply Sub.within hfw); exact rfl)
    | ((with_reducible apply Sub.within hfb); exact rfl)
    | ((with_reducible apply Mixed.of); exact rfl)
    | (apply hfb.bit (i := 8) rfl)
    | (extract_lets)
    | split
    | (intro _ _ _)
    | (intro _ e; have _hk : Frame _ _ _ _ := e)
    | (intro _ e; cases e)
    | dsimp only
    | (dsimp +zetaDelta only))

theorem returnStart_fr {fw fb : Nat} {s0 : State} (n : Nat) (s : State) (hK : Frame fw fb s0 s) (hfw : Sub 2097152 fw := by exact Sub.within hfw rfl) (hfb : Sub 256 fb := by exact Sub.within hfb rfl) : Frame fw fb s0 (returnStart n s) := by
  unfold returnStart
  repeat' (first
    | with_reducible assumption
    | with_reducible apply State.bringBack_fr
    | with_reducible apply State.toHandState_fr
    | (with_reducible refine Frame.ite ?_ ?_)
    | ((with_reducible apply Sub.within hfw); exact rfl)
    | ((with_reducible apply Sub.within hfb); exact rfl)
    | ((with_reducible apply Mixed.of); exact rfl)
    | (apply hfb.bit (i := 8) rfl)
    | (extract_lets)
    | split
    | (intro _ _ _)
    | (intro _ e; have _hk : Frame _ _ _ _ := e)
    | (intro _ e; cases e)
    | dsimp only
    | (dsimp +zetaDelta only))

theorem execReturnStart_fr {fw fb : Nat} {s0 : State} (hand : Nat) (s : State) (hK : Frame fw fb s0 s) (hfw : Sub 2097152 fw := by exact Sub.within hfw rfl) (hfb : Sub 256 fb := by exact Sub.within hfb rfl) : ∀ u, execReturnStart hand s = .next u → Frame fw fb s0 u := by
  unfold execReturnStart
  repeat' (first
    | with_reducible assumption
    | with_reducible apply returnStart_fr
    | (with_reducible refine Frame.ite ?_ ?_)
    | ((with_reducible apply Sub.within hfw); exact rfl)
    | ((with_reducible apply Sub.within hfb); exact rfl)
    | ((with_reducible apply Mixed.of); exact rfl)
    | (apply hfb.bit (i := 8) rfl)
    | (extract_lets)
    | split
    | (intro _ _ _)
    | (intro _ e; have _hk : Frame _ _ _ _ := e)
    | (intro _ e; cases e)
    | dsimp only
    | (dsimp +zetaDelta only))

theorem returnComplete_fr {fw fb : Nat} {s0 : State} (n : Nat) (s : State) (hK : Frame fw fb s0 s) (hfb : Sub 256 fb := by exact Sub.within hfb rfl) : Frame fw fb s0 (returnComplete n s) := by
  unfold returnComplete
  repeat' (first
    | with_reducible assumption
    | with_reducible apply State.bump_fr
    | with_reducible apply State.toHandState_fr
    | (with_reducible refine Frame.ite ?_ ?_)
    | ((with_reducible apply Sub.within hfw); exact rfl)
    | ((with_reducible apply Sub.within hfb); exact rfl)
    | ((with_reducible apply Mixed.of); exact rfl)
    | (apply hfb.bit (i := 8) rfl)
    | (extract_lets)
    | split
    | (intro _ _ _)
    | (intro _ e; have _hk : Frame _ _ _ _ := e)
    | (intro _ e; cases e)
    | dsimp only
    | (dsimp +zetaDelta only))

theorem execReturnComplete_fr {fw fb : Nat} {s0 : State} (hand : Nat) (s : State) (hK : Frame fw fb s0 s) (hfb : Sub 256 fb := by exact Sub.within hfb rfl) : ∀ u, execReturnComplete hand s = .next u → Frame fw fb s0 u := by
  unfold execReturnComplete
  repeat' (first
    | with_reducible assumption
    | with_reducible apply returnComplete_fr
    | (with_reducible refine Frame.ite ?_ ?_)
    | ((with_reducible apply Sub.within hfw); exact rfl)
    | ((with_reducible apply Sub.within hfb); exact rfl)
    | ((with_reducible apply Mixed.of); exact rfl)
    | (apply hfb.bit (i := 8) rfl)
    | (extract_lets)
    | split
    | (intro _ _ _)
    | (intro _ e; have _hk : Frame _ _ _ _ := e)
    | (intro _ e; cases e)
    | dsimp only
    | (dsimp +zetaDelta only))

end Sys2Proof.Machine
end

