-- ==== Sys2Proof/Laws/Frame/Parking.lean ====
section
/-! SUPPORT. What the operations of Machine/Parking.lean leave as it was (`Frame`): one lemma each. -/

set_option linter.unreachableTactic false
set_option linter.unusedTactic false

namespace Sys2Proof.Machine

set_option Elab.async false

open Sys2Proof

theorem State.copyHeld_fr {fw fb : Nat} {s0 : State} (s : State) (n e : Nat) (k : Kitty) (hK : Frame fw fb s0 s) (hfw : Sub 71468255805440 fw := by exact Sub.within hfw rfl) (hfb : Sub 256 fb := by exact Sub.within hfb rfl) : Frame fw fb s0 (State.copyHeld s n e k) := by
  unfold State.copyHeld
  repeat' (first
    | with_reducible assumption
    | with_reducible apply State.bump_fr
    | with_reducible apply State.charge_fr
    | with_reducible apply State.setKitty_fr
    | (with_reducible refine Frame.ite ?_ ?_)
    | ((with_reducible apply Sub.within hfw); exact rfl)
    | ((with_reducible apply Sub.within hfb); exact rfl)
    | ((with_reducible apply Mixed.of); exact rfl)
    | (apply hfb.bit (i := 8) rfl)
    | (extract_lets)
    | split
    | (intro _ _ _)
    | (intro _ e; have _hk : Frame _ _ _ _ := e)
    | (intro _ e; cases e)
    | dsimp only
    | (dsimp +zetaDelta only))

theorem park_fr {fw fb : Nat} {s0 : State} (s : State) (c : Cmd) (hK : Frame fw fb s0 s) (hfw : Sub 9444733037757304146434 fw := by exact Sub.within hfw rfl) (hfb : Sub 256 fb := by exact Sub.within hfb rfl) : Frame fw fb s0 (park s c) := by
  unfold park
  repeat' (first
    | with_reducible assumption
    | with_reducible apply State.copyHeld_fr
    | with_reducible apply State.doneWith_fr
    | with_reducible apply State.failWith_fr
    | with_reducible apply State.handFree_fr
    | with_reducible apply State.sendOut_fr
    | with_reducible apply State.setHand_fr
    | with_reducible apply State.setKitty_fr
    | with_reducible apply State.start_fr
    | with_reducible apply State.toHandState_fr
    | with_reducible apply State.took_fr
    | (with_reducible refine Frame.ite ?_ ?_)
    | ((with_reducible apply Sub.within hfw); exact rfl)
    | ((with_reducible apply Sub.within hfb); exact rfl)
    | ((with_reducible apply Mixed.of); exact rfl)
    | (apply hfb.bit (i := 8) rfl)
    | (extract_lets)
    | split
    | (intro _ _ _)
    | (intro _ e; have _hk : Frame _ _ _ _ := e)
    | (intro _ e; cases e)
    | dsimp only
    | (dsimp +zetaDelta only))

theorem execPark_fr {fw fb : Nat} {s0 : State} (k : Nat) (s : State) (hK : Frame fw fb s0 s) (hfw : Sub 9444733037757304146434 fw := by exact Sub.within hfw rfl) (hfb : Sub 256 fb := by exact Sub.within hfb rfl) : ∀ u, execPark k s = .next u → Frame fw fb s0 u := by
  unfold execPark
  repeat' (first
    | with_reducible assumption
    | with_reducible apply State.runHand_fr
    | with_reducible apply park_fr
    | (with_reducible refine Frame.ite ?_ ?_)
    | ((with_reducible apply Sub.within hfw); exact rfl)
    | ((with_reducible apply Sub.within hfb); exact rfl)
    | ((with_reducible apply Mixed.of); exact rfl)
    | (apply hfb.bit (i := 8) rfl)
    | (extract_lets)
    | split
    | (intro _ _ _)
    | (intro _ e; have _hk : Frame _ _ _ _ := e)
    | (intro _ e; cases e)
    | dsimp only
    | (dsimp +zetaDelta only))

theorem parkRenew_fr {fw fb : Nat} {s0 : State} (s : State) (c : Cmd) (hK : Frame fw fb s0 s) (hfw : Sub 1099511630336 fw := by exact Sub.within hfw rfl) (hfb : Sub 256 fb := by exact Sub.within hfb rfl) : Frame fw fb s0 (parkRenew s c) := by
  unfold parkRenew
  repeat' (first
    | with_reducible assumption
    | with_reducible apply State.doneWith_fr
    | with_reducible apply State.failWith_fr
    | with_reducible apply State.setKitty_fr
    | (with_reducible refine Frame.ite ?_ ?_)
    | ((with_reducible apply Sub.within hfw); exact rfl)
    | ((with_reducible apply Sub.within hfb); exact rfl)
    | ((with_reducible apply Mixed.of); exact rfl)
    | (apply hfb.bit (i := 8) rfl)
    | (extract_lets)
    | split
    | (intro _ _ _)
    | (intro _ e; have _hk : Frame _ _ _ _ := e)
    | (intro _ e; cases e)
    | dsimp only
    | (dsimp +zetaDelta only))

theorem execParkRenew_fr {fw fb : Nat} {s0 : State} (k : Nat) (s : State) (hK : Frame fw fb s0 s) (hfw : Sub 1099511630336 fw := by exact Sub.within hfw rfl) (hfb : Sub 256 fb := by exact Sub.within hfb rfl) : ∀ u, execParkRenew k s = .next u → Frame fw fb s0 u := by
  unfold execParkRenew
  repeat' (first
    | with_reducible assumption
    | with_reducible apply State.runCmd_fr
    | with_reducible apply parkRenew_fr
    | (with_reducible refine Frame.ite ?_ ?_)
    | ((with_reducible apply Sub.within hfw); exact rfl)
    | ((with_reducible apply Sub.within hfb); exact rfl)
    | ((with_reducible apply Mixed.of); exact rfl)
    | (apply hfb.bit (i := 8) rfl)
    | (extract_lets)
    | split
    | (intro _ _ _)
    | (intro _ e; have _hk : Frame _ _ _ _ := e)
    | (intro _ e; cases e)
    | dsimp only
    | (dsimp +zetaDelta only))

theorem parkComplete_fr {fw fb : Nat} {s0 : State} (n : Nat) (s : State) (hK : Frame fw fb s0 s) (hfw : Sub 9444733037757302049280 fw := by exact Sub.within hfw rfl) (hfb : Sub 256 fb := by exact Sub.within hfb rfl) : Frame fw fb s0 (parkComplete n s) := by
  unfold parkComplete
  repeat' (first
    | with_reducible assumption
    | with_reducible apply State.copyHeld_fr
    | with_reducible apply State.doneWith_fr
    | with_reducible apply State.finish_fr
    | with_reducible apply State.handFree_fr
    | with_reducible apply State.serveRegs_fr
    | with_reducible apply State.setHand_fr
    | with_reducible apply State.wr_fr
    | (with_reducible refine Frame.ite ?_ ?_)
    | ((with_reducible apply Sub.within hfw); exact rfl)
    | ((with_reducible apply Sub.within hfb); exact rfl)
    | ((with_reducible apply Mixed.of); exact rfl)
    | (apply hfb.bit (i := 8) rfl)
    | (extract_lets)
    | split
    | (intro _ _ _)
    | (intro _ e; have _hk : Frame _ _ _ _ := e)
    | (intro _ e; cases e)
    | dsimp only
    | (dsimp +zetaDelta only))

theorem execParkComplete_fr {fw fb : Nat} {s0 : State} (hand : Nat) (s : State) (hK : Frame fw fb s0 s) (hfw : Sub 9444733037757302049280 fw := by exact Sub.within hfw rfl) (hfb : Sub 256 fb := by exact Sub.within hfb rfl) : ∀ u, execParkComplete hand s = .next u → Frame fw fb s0 u := by
  unfold execParkComplete
  repeat' (first
    | with_reducible assumption
    | with_reducible apply parkComplete_fr
    | (with_reducible refine Frame.ite ?_ ?_)
    | ((with_reducible apply Sub.within hfw); exact rfl)
    | ((with_reducible apply Sub.within hfb); exact rfl)
    | ((with_reducible apply Mixed.of); exact rfl)
    | (apply hfb.bit (i := 8) rfl)
    | (extract_lets)
    | split
    | (intro _ _ _)
    | (intro _ e; have _hk : Frame _ _ _ _ := e)
    | (intro _ e; cases e)
    | dsimp only
    | (dsimp +zetaDelta only))

theorem rebase_fr {fw fb : Nat} {s0 : State} (c old new : Nat) (acc : Option State) (p : CachePage) (hA : ∀ u, acc = some u → Frame fw fb s0 u) (hfw : Sub 25231370 fw := by exact Sub.within hfw rfl) (hfb : Sub 16 fb := by exact Sub.within hfb rfl) :
    ∀ u, rebase c old new acc p = some u → Frame fw fb s0 u := by
  cases acc with
  | none => intro u e; cases e
  | some s =>
    have hs : Frame fw fb s0 s := hA s rfl
    intro u e
    unfold rebase at e
    dsimp only at e
    split at e
    · cases e; exact hs
    · exact State.mapPage_fr_at e (State.unmapPage_fr _ _ _ hs)

theorem State.rebaseCopy_fr {fw fb : Nat} {s0 : State} (s : State) (c : Nat) (x : Hand) (new : Nat) (hK : Frame fw fb s0 s) (hfw : Sub 25362442 fw := by exact Sub.within hfw rfl) (hfb : Sub 16 fb := by exact Sub.within hfb rfl) :
    ∀ p, State.rebaseCopy s c x new = some p → Frame fw fb s0 p.2 := by
  intro p e
  have key : ∀ u, List.foldl (rebase c x.cacheVa new) (some s) (({ x with leadSpans := [] } : Hand).pages 0) = some u → Frame fw fb s0 u :=
    foldl_inv (P := fun o : Option State => ∀ u, o = some u → Frame fw fb s0 u) (fun b p hb => rebase_fr _ _ _ b p hb) _
      (fun _ e => by cases e; exact hK)
  unfold State.rebaseCopy at e
  dsimp only at e
  split at e
  · cases e
  · rename_i h
    cases e
    exact Frame.upd (key _ h) hfw rfl rfl ⟨rfl, rfl, rfl⟩

theorem State.rebaseCopy_fr_at {fw fb : Nat} {s0 u : State} {s : State} {c : Nat} {x : Hand} {new : Nat} {r} (e : State.rebaseCopy s c x new = some (r, u)) (hK : Frame fw fb s0 s) (hfw : Sub 25362442 fw := by exact Sub.within hfw rfl) (hfb : Sub 16 fb := by exact Sub.within hfb rfl) : Frame fw fb s0 u := by
  have := State.rebaseCopy_fr s c x new hK
  exact this (r, u) e

theorem State.rebaseCopy_fr_of {fw fb : Nat} {s0 : State} {s : State} {c : Nat} {x : Hand} {new : Nat} {p} (e : State.rebaseCopy s c x new = some p) (hK : Frame fw fb s0 s) (hfw : Sub 25362442 fw := by exact Sub.within hfw rfl) (hfb : Sub 16 fb := by exact Sub.within hfb rfl) : Frame fw fb s0 p.2 := by
  have := State.rebaseCopy_fr s c x new hK
  exact this p e

theorem State.dropLead_fr {fw fb : Nat} {s0 : State} (s : State) (n : Nat) (hK : Frame fw fb s0 s) (hfw : Sub 550318047240 fw := by exact Sub.within hfw rfl) (hfb : Sub 784 fb := by exact Sub.within hfb rfl) : Frame fw fb s0 (State.dropLead s n) := by
  unfold State.dropLead
  repeat' (first
    | with_reducible assumption
    | with_reducible apply State.leadFree_fr
    | with_reducible apply State.setHand_fr
    | with_reducible apply State.wr_fr
    | (with_reducible refine Frame.ite ?_ ?_)
    | ((with_reducible apply Sub.within hfw); exact rfl)
    | ((with_reducible apply Sub.within hfb); exact rfl)
    | ((with_reducible apply Mixed.of); exact rfl)
    | (apply hfb.bit (i := 4) rfl)
    | (apply hfb.bit (i := 8) rfl)
    | (apply hfb.bit (i := 9) rfl)
    | (extract_lets)
    | split
    | (intro _ _ _)
    | (intro _ e; have _hk : Frame _ _ _ _ := e)
    | (intro _ e; cases e)
    | dsimp only
    | (dsimp +zetaDelta only))

theorem State.takeCopy_fr {fw fb : Nat} {s0 : State} (s : State) (c : Cmd) (n e : Nat) (x : Hand) (k : Kitty) (hK : Frame fw fb s0 s) (hfw : Sub 1649831772680 fw := by exact Sub.within hfw rfl) (hfb : Sub 784 fb := by exact Sub.within hfb rfl) : Frame fw fb s0 (State.takeCopy s c n e x k) := by
  unfold State.takeCopy
  repeat' (first
    | with_reducible assumption
    | with_reducible apply State.bringBack_fr
    | with_reducible apply State.dropLead_fr
    | with_reducible apply State.setHand_fr
    | with_reducible apply State.setHandWord_fr
    | with_reducible apply State.setKitty_fr
    | with_reducible apply State.setSpecWord_fr
    | with_reducible apply State.start_fr
    | with_reducible apply State.toHandState_fr
    | with_reducible apply State.wr_fr
    | (with_reducible refine Frame.ite ?_ ?_)
    | ((with_reducible apply Sub.within hfw); exact rfl)
    | ((with_reducible apply Sub.within hfb); exact rfl)
    | ((with_reducible apply Mixed.of); exact rfl)
    | (apply hfb.bit (i := 4) rfl)
    | (apply hfb.bit (i := 8) rfl)
    | (apply hfb.bit (i := 9) rfl)
    | (extract_lets)
    | split
    | (intro _ _ _)
    | (intro _ e; have _hk : Frame _ _ _ _ := e)
    | (intro _ e; cases e)
    | dsimp only
    | (dsimp +zetaDelta only))

theorem unpark_fr {fw fb : Nat} {s0 : State} (s : State) (c : Cmd) (hK : Frame fw fb s0 s) (hfw : Sub 6047878285834 fw := by exact Sub.within hfw rfl) (hfb : Sub 784 fb := by exact Sub.within hfb rfl) : Frame fw fb s0 (unpark s c) := by
  unfold unpark
  repeat' (first
    | with_reducible assumption
    | with_reducible apply State.bump_fr
    | with_reducible apply State.failWith_fr
    | with_reducible apply State.kittyEmpty_fr
    | (with_reducible refine State.rebaseCopy_fr _ _ _ _ ?_ ?_ ?_)
    | (with_reducible apply State.rebaseCopy_fr_of; with_reducible assumption)
    | (with_reducible apply State.rebaseCopy_fr_at; with_reducible assumption)
    | with_reducible apply State.takeCopy_fr
    | with_reducible apply evictUntil_fr
    | with_reducible apply reclaim_fr
    | (with_reducible refine Frame.ite ?_ ?_)
    | ((with_reducible apply Sub.within hfw); exact rfl)
    | ((with_reducible apply Sub.within hfb); exact rfl)
    | ((with_reducible apply Mixed.of); exact rfl)
    | (apply hfb.bit (i := 4) rfl)
    | (apply hfb.bit (i := 8) rfl)
    | (apply hfb.bit (i := 9) rfl)
    | (extract_lets)
    | split
    | (intro _ _ _)
    | (intro _ e; have _hk : Frame _ _ _ _ := e)
    | (intro _ e; cases e)
    | dsimp only
    | (dsimp +zetaDelta only))

theorem execUnpark_fr {fw fb : Nat} {s0 : State} (k : Nat) (s : State) (hK : Frame fw fb s0 s) (hfw : Sub 6047878285834 fw := by exact Sub.within hfw rfl) (hfb : Sub 784 fb := by exact Sub.within hfb rfl) : ∀ u, execUnpark k s = .next u → Frame fw fb s0 u := by
  unfold execUnpark
  repeat' (first
    | with_reducible assumption
    | with_reducible apply State.runHand_fr
    | with_reducible apply unpark_fr
    | (with_reducible refine Frame.ite ?_ ?_)
    | ((with_reducible apply Sub.within hfw); exact rfl)
    | ((with_reducible apply Sub.within hfb); exact rfl)
    | ((with_reducible apply Mixed.of); exact rfl)
    | (apply hfb.bit (i := 4) rfl)
    | (apply hfb.bit (i := 8) rfl)
    | (apply hfb.bit (i := 9) rfl)
    | (extract_lets)
    | split
    | (intro _ _ _)
    | (intro _ e; have _hk : Frame _ _ _ _ := e)
    | (intro _ e; cases e)
    | dsimp only
    | (dsimp +zetaDelta only))

theorem unparkComplete_fr {fw fb : Nat} {s0 : State} (n : Nat) (s : State) (hK : Frame fw fb s0 s) (hfw : Sub 1649267444224 fw := by exact Sub.within hfw rfl) (hfb : Sub 256 fb := by exact Sub.within hfb rfl) : Frame fw fb s0 (unparkComplete n s) := by
  unfold unparkComplete
  repeat' (first
    | with_reducible assumption
    | with_reducible apply State.bump_fr
    | with_reducible apply State.doneWith_fr
    | with_reducible apply State.kittyEmpty_fr
    | with_reducible apply State.setHand_fr
    | with_reducible apply State.toHandState_fr
    | (with_reducible refine Frame.ite ?_ ?_)
    | ((with_reducible apply Sub.within hfw); exact rfl)
    | ((with_reducible apply Sub.within hfb); exact rfl)
    | ((with_reducible apply Mixed.of); exact rfl)
    | (apply hfb.bit (i := 8) rfl)
    | (extract_lets)
    | split
    | (intro _ _ _)
    | (intro _ e; have _hk : Frame _ _ _ _ := e)
    | (intro _ e; cases e)
    | dsimp only
    | (dsimp +zetaDelta only))

theorem execUnparkComplete_fr {fw fb : Nat} {s0 : State} (hand : Nat) (s : State) (hK : Frame fw fb s0 s) (hfw : Sub 1649267444224 fw := by exact Sub.within hfw rfl) (hfb : Sub 256 fb := by exact Sub.within hfb rfl) : ∀ u, execUnparkComplete hand s = .next u → Frame fw fb s0 u := by
  unfold execUnparkComplete
  repeat' (first
    | with_reducible assumption
    | with_reducible apply unparkComplete_fr
    | (with_reducible refine Frame.ite ?_ ?_)
    | ((with_reducible apply Sub.within hfw); exact rfl)
    | ((with_reducible apply Sub.within hfb); exact rfl)
    | ((with_reducible apply Mixed.of); exact rfl)
    | (apply hfb.bit (i := 8) rfl)
    | (extract_lets)
    | split
    | (intro _ _ _)
    | (intro _ e; have _hk : Frame _ _ _ _ := e)
    | (intro _ e; cases e)
    | dsimp only
    | (dsimp +zetaDelta only))

theorem kittyExpiry_fr {fw fb : Nat} {s0 : State} (e : Nat) (s : State) (hK : Frame fw fb s0 s) (hfw : Sub 1100073861128 fw := by exact Sub.within hfw rfl) (hfb : Sub 784 fb := by exact Sub.within hfb rfl) : Frame fw fb s0 (kittyExpiry e s) := by
  unfold kittyExpiry
  repeat' (first
    | with_reducible assumption
    | with_reducible apply State.bump_fr
    | with_reducible apply State.kittyEmpty_fr
    | with_reducible apply State.kittyFree_fr
    | (with_reducible refine Frame.ite ?_ ?_)
    | ((with_reducible apply Sub.within hfw); exact rfl)
    | ((with_reducible apply Sub.within hfb); exact rfl)
    | ((with_reducible apply Mixed.of); exact rfl)
    | (apply hfb.bit (i := 4) rfl)
    | (apply hfb.bit (i := 8) rfl)
    | (apply hfb.bit (i := 9) rfl)
    | (extract_lets)
    | split
    | (intro _ _ _)
    | (intro _ e; have _hk : Frame _ _ _ _ := e)
    | (intro _ e; cases e)
    | dsimp only
    | (dsimp +zetaDelta only))

theorem execKittyExpiry_fr {fw fb : Nat} {s0 : State} (entry : Nat) (s : State) (hK : Frame fw fb s0 s) (hfw : Sub 1100073861128 fw := by exact Sub.within hfw rfl) (hfb : Sub 784 fb := by exact Sub.within hfb rfl) : ∀ u, execKittyExpiry entry s = .next u → Frame fw fb s0 u := by
  unfold execKittyExpiry
  repeat' (first
    | with_reducible assumption
    | with_reducible apply kittyExpiry_fr
    | (with_reducible refine Frame.ite ?_ ?_)
    | ((with_reducible apply Sub.within hfw); exact rfl)
    | ((with_reducible apply Sub.within hfb); exact rfl)
    | ((with_reducible apply Mixed.of); exact rfl)
    | (apply hfb.bit (i := 4) rfl)
    | (apply hfb.bit (i := 8) rfl)
    | (apply hfb.bit (i := 9) rfl)
    | (extract_lets)
    | split
    | (intro _ _ _)
    | (intro _ e; have _hk : Frame _ _ _ _ := e)
    | (intro _ e; cases e)
    | dsimp only
    | (dsimp +zetaDelta only))

end Sys2Proof.Machine
end

