-- ==== Sys2Proof/Laws/Frame/Pins.lean ====
section
/-! SUPPORT. What the operations of Machine/Pins.lean leave as it was (`Frame`): one lemma each. -/

set_option linter.unreachableTactic false
set_option linter.unusedTactic false

namespace Sys2Proof.Machine

set_option Elab.async false

open Sys2Proof

theorem State.epoOn_fr {fw fb : Nat} {s0 : State} (s : State) (hK : Frame fw fb s0 s) (hfw : Sub 37777959085437649679320 fw := by exact Sub.within hfw rfl) (hfb : Sub 524287 fb := by exact Sub.within hfb rfl) : Frame fw fb s0 (State.epoOn s) := by
  unfold State.epoOn
  repeat' (first
    | with_reducible assumption
    | with_reducible apply State.faultCause_fr
    | with_reducible apply State.latchOff_fr
    | with_reducible apply State.record_fr
    | (with_reducible refine Frame.ite ?_ ?_)
    | ((with_reducible apply Sub.within hfw); exact rfl)
    | ((with_reducible apply Sub.within hfb); exact rfl)
    | ((with_reducible apply Mixed.of); exact rfl)
    | (apply hfb.bit (i := 0) rfl)
    | (apply hfb.bit (i := 1) rfl)
    | (apply hfb.bit (i := 2) rfl)
    | (apply hfb.bit (i := 3) rfl)
    | (apply hfb.bit (i := 4) rfl)
    | (apply hfb.bit (i := 5) rfl)
    | (apply hfb.bit (i := 6) rfl)
    | (apply hfb.bit (i := 7) rfl)
    | (apply hfb.bit (i := 8) rfl)
    | (apply hfb.bit (i := 9) rfl)
    | (apply hfb.bit (i := 10) rfl)
    | (apply hfb.bit (i := 11) rfl)
    | (apply hfb.bit (i := 12) rfl)
    | (apply hfb.bit (i := 13) rfl)
    | (apply hfb.bit (i := 14) rfl)
    | (apply hfb.bit (i := 15) rfl)
    | (apply hfb.bit (i := 16) rfl)
    | (apply hfb.bit (i := 17) rfl)
    | (apply hfb.bit (i := 18) rfl)
    | (extract_lets)
    | split
    | (intro _ _ _)
    | (intro _ e; have _hk : Frame _ _ _ _ := e)
    | (intro _ e; cases e)
    | dsimp only
    | (dsimp +zetaDelta only))

theorem State.pwarnOn_fr {fw fb : Nat} {s0 : State} (s : State) (hK : Frame fw fb s0 s) (hfw : Sub 73786976294838206672 fw := by exact Sub.within hfw rfl) (hfb : Sub 139264 fb := by exact Sub.within hfb rfl) : Frame fw fb s0 (State.pwarnOn s) := by
  have k0 : ∀ (t : State) x0, Frame fw fb s0 t → Frame fw fb s0 { t with power := x0 } := fun t x0 ht => Frame.upd ht hfw rfl rfl ⟨rfl, rfl, rfl⟩
  unfold State.pwarnOn
  repeat' (first
    | with_reducible assumption
    | with_reducible apply State.bump_fr
    | with_reducible apply State.record_fr
    | with_reducible apply State.wr_fr
    | (with_reducible refine Frame.foldl ?_ ?_)
    | (with_reducible refine Frame.foldr ?_ ?_)
    | (with_reducible refine Frame.ite ?_ ?_)
    | ((with_reducible apply Sub.within hfw); exact rfl)
    | ((with_reducible apply Sub.within hfb); exact rfl)
    | ((with_reducible apply Mixed.of); exact rfl)
    | (apply hfb.bit (i := 13) rfl)
    | (apply hfb.bit (i := 17) rfl)
    | (extract_lets)
    | (fail_if_no_progress (with_reducible refine k0 _ _ ?_))
    | split
    | (intro _ _ _)
    | (intro _ e; have _hk : Frame _ _ _ _ := e)
    | (intro _ e; cases e)
    | dsimp only
    | (dsimp +zetaDelta only)
    | (fail_if_no_progress ((with_reducible refine Frame.upd ?_ hfw ?_ rfl ⟨rfl, rfl, rfl⟩); rotate_left; exact rfl)))

theorem State.pwarnOff_fr {fw fb : Nat} {s0 : State} (s : State) (hK : Frame fw fb s0 s) (hfw : Sub 73786976294838206672 fw := by exact Sub.within hfw rfl) (hfb : Sub 131072 fb := by exact Sub.within hfb rfl) : Frame fw fb s0 (State.pwarnOff s) := by
  have k0 : ∀ (t : State) x0, Frame fw fb s0 t → Frame fw fb s0 { t with power := x0 } := fun t x0 ht => Frame.upd ht hfw rfl rfl ⟨rfl, rfl, rfl⟩
  unfold State.pwarnOff
  repeat' (first
    | with_reducible assumption
    | with_reducible apply State.record_fr
    | (with_reducible refine Frame.ite ?_ ?_)
    | ((with_reducible apply Sub.within hfw); exact rfl)
    | ((with_reducible apply Sub.within hfb); exact rfl)
    | ((with_reducible apply Mixed.of); exact rfl)
    | (apply hfb.bit (i := 17) rfl)
    | (extract_lets)
    | (fail_if_no_progress (with_reducible refine k0 _ _ ?_))
    | split
    | (intro _ _ _)
    | (intro _ e; have _hk : Frame _ _ _ _ := e)
    | (intro _ e; cases e)
    | dsimp only
    | (dsimp +zetaDelta only)
    | (fail_if_no_progress ((with_reducible refine Frame.upd ?_ hfw ?_ rfl ⟨rfl, rfl, rfl⟩); rotate_left; exact rfl)))

theorem State.coolOn_fr {fw fb : Nat} {s0 : State} (s : State) (hK : Frame fw fb s0 s) (hfw : Sub 73786976294838206672 fw := by exact Sub.within hfw rfl) (hfb : Sub 139264 fb := by exact Sub.within hfb rfl) : Frame fw fb s0 (State.coolOn s) := by
  unfold State.coolOn
  repeat' (first
    | with_reducible assumption
    | with_reducible apply State.bump_fr
    | with_reducible apply State.halveLimits_fr
    | with_reducible apply State.record_fr
    | with_reducible apply State.wr_fr
    | (with_reducible refine Frame.ite ?_ ?_)
    | ((with_reducible apply Sub.within hfw); exact rfl)
    | ((with_reducible apply Sub.within hfb); exact rfl)
    | ((with_reducible apply Mixed.of); exact rfl)
    | (apply hfb.bit (i := 13) rfl)
    | (apply hfb.bit (i := 17) rfl)
    | (extract_lets)
    | split
    | (intro _ _ _)
    | (intro _ e; have _hk : Frame _ _ _ _ := e)
    | (intro _ e; cases e)
    | dsimp only
    | (dsimp +zetaDelta only))

theorem State.coolOff_fr {fw fb : Nat} {s0 : State} (s : State) (hK : Frame fw fb s0 s) (hfw : Sub 208 fw := by exact Sub.within hfw rfl) (hfb : Sub 131072 fb := by exact Sub.within hfb rfl) : Frame fw fb s0 (State.coolOff s) := by
  unfold State.coolOff
  repeat' (first
    | with_reducible assumption
    | with_reducible apply State.record_fr
    | (with_reducible refine Frame.ite ?_ ?_)
    | ((with_reducible apply Sub.within hfw); exact rfl)
    | ((with_reducible apply Sub.within hfb); exact rfl)
    | ((with_reducible apply Mixed.of); exact rfl)
    | (apply hfb.bit (i := 17) rfl)
    | (extract_lets)
    | split
    | (intro _ _ _)
    | (intro _ e; have _hk : Frame _ _ _ _ := e)
    | (intro _ e; cases e)
    | dsimp only
    | (dsimp +zetaDelta only))

theorem State.drainReq_fr {fw fb : Nat} {s0 : State} (s : State) (on : Bool) (hK : Frame fw fb s0 s) (hfw : Sub 144 fw := by exact Sub.within hfw rfl) (hfb : Sub 1024 fb := by exact Sub.within hfb rfl) : Frame fw fb s0 (State.drainReq s on) := by
  unfold State.drainReq
  repeat' (first
    | with_reducible assumption
    | with_reducible apply State.topoEvent_fr
    | with_reducible apply State.wr_fr
    | (with_reducible refine Frame.ite ?_ ?_)
    | ((with_reducible apply Sub.within hfw); exact rfl)
    | ((with_reducible apply Sub.within hfb); exact rfl)
    | ((with_reducible apply Mixed.of); exact rfl)
    | (apply hfb.bit (i := 10) rfl)
    | (extract_lets)
    | split
    | (intro _ _ _)
    | (intro _ e; have _hk : Frame _ _ _ _ := e)
    | (intro _ e; cases e)
    | dsimp only
    | (dsimp +zetaDelta only))

theorem State.perstOn_fr {fw fb : Nat} {s0 : State} (s : State) (h : Nat) (hK : Frame fw fb s0 s) (hfw : Sub 148726875744115092360 fw := by exact Sub.within hfw rfl) (hfb : Sub 268063 fb := by exact Sub.within hfb rfl) : Frame fw fb s0 (State.perstOn s h) := by
  unfold State.perstOn
  repeat' (first
    | with_reducible assumption
    | with_reducible apply State.hostGone_fr
    | with_reducible apply State.portReset_fr
    | with_reducible apply State.setPort_fr
    | (with_reducible refine Frame.ite ?_ ?_)
    | ((with_reducible apply Sub.within hfw); exact rfl)
    | ((with_reducible apply Sub.within hfb); exact rfl)
    | ((with_reducible apply Mixed.of); exact rfl)
    | (apply hfb.bit (i := 0) rfl)
    | (apply hfb.bit (i := 1) rfl)
    | (apply hfb.bit (i := 2) rfl)
    | (apply hfb.bit (i := 3) rfl)
    | (apply hfb.bit (i := 4) rfl)
    | (apply hfb.bit (i := 8) rfl)
    | (apply hfb.bit (i := 9) rfl)
    | (apply hfb.bit (i := 10) rfl)
    | (apply hfb.bit (i := 12) rfl)
    | (apply hfb.bit (i := 18) rfl)
    | (extract_lets)
    | split
    | (intro _ _ _)
    | (intro _ e; have _hk : Frame _ _ _ _ := e)
    | (intro _ e; cases e)
    | dsimp only
    | (dsimp +zetaDelta only))

theorem State.perstOff_fr {fw fb : Nat} {s0 : State} (s : State) (h : Nat) (hK : Frame fw fb s0 s) (hfw : Sub 128 fw := by exact Sub.within hfw rfl) : Frame fw fb s0 (State.perstOff s h) := by
  unfold State.perstOff
  repeat' (first
    | with_reducible assumption
    | with_reducible apply State.portTrain_fr
    | with_reducible apply State.setPort_fr
    | (with_reducible refine Frame.ite ?_ ?_)
    | ((with_reducible apply Sub.within hfw); exact rfl)
    | ((with_reducible apply Sub.within hfb); exact rfl)
    | ((with_reducible apply Mixed.of); exact rfl)
    | (extract_lets)
    | split
    | (intro _ _ _)
    | (intro _ e; have _hk : Frame _ _ _ _ := e)
    | (intro _ e; cases e)
    | dsimp only
    | (dsimp +zetaDelta only))

theorem State.sbResetOff_fr {fw fb : Nat} {s0 : State} (s : State) (hK : Frame fw fb s0 s) (hfw : Sub 36893488147419103744 fw := by exact Sub.within hfw rfl) (hfb : Sub 65536 fb := by exact Sub.within hfb rfl) : Frame fw fb s0 (State.sbResetOff s) := by
  have k0 : ∀ (t : State) x0 x1, Frame fw fb s0 t → Frame fw fb s0 { t with cmds := x0, mgmt := x1 } := fun t x0 x1 ht => Frame.upd ht hfw rfl rfl ⟨rfl, rfl, rfl⟩
  unfold State.sbResetOff
  repeat' (first
    | with_reducible assumption
    | with_reducible apply State.reg0_fr
    | with_reducible apply State.sbRegs_fr
    | (with_reducible refine Frame.ite ?_ ?_)
    | ((with_reducible apply Sub.within hfw); exact rfl)
    | ((with_reducible apply Sub.within hfb); exact rfl)
    | ((with_reducible apply Mixed.of); exact rfl)
    | (apply hfb.bit (i := 16) rfl)
    | (dsimp only [State.wrs, State.regs0, List.foldl])
    | (extract_lets)
    | (fail_if_no_progress (with_reducible refine k0 _ _ _ ?_))
    | split
    | (intro _ _ _)
    | (intro _ e; have _hk : Frame _ _ _ _ := e)
    | (intro _ e; cases e)
    | dsimp only
    | (dsimp +zetaDelta only)
    | (fail_if_no_progress ((with_reducible refine Frame.upd ?_ hfw ?_ rfl ⟨rfl, rfl, rfl⟩); rotate_left; exact rfl)))

theorem State.pinAct_fr {fw fb : Nat} {s0 : State} (s : State) (i : Nat) (on : Bool) (hK : Frame fw fb s0 s) (hfw : Sub 37777959085437649681368 fw := by exact Sub.within hfw rfl) (hfb : Sub 524287 fb := by exact Sub.within hfb rfl) : Frame fw fb s0 (State.pinAct s i on) := by
  unfold State.pinAct
  repeat' (first
    | with_reducible assumption
    | with_reducible apply State.coolOff_fr
    | with_reducible apply State.coolOn_fr
    | with_reducible apply State.drainReq_fr
    | with_reducible apply State.epoOn_fr
    | with_reducible apply State.perstOff_fr
    | with_reducible apply State.perstOn_fr
    | with_reducible apply State.pwarnOff_fr
    | with_reducible apply State.pwarnOn_fr
    | with_reducible apply State.sbResetOff_fr
    | (with_reducible refine Frame.ite ?_ ?_)
    | ((with_reducible apply Sub.within hfw); exact rfl)
    | ((with_reducible apply Sub.within hfb); exact rfl)
    | ((with_reducible apply Mixed.of); exact rfl)
    | (apply hfb.bit (i := 0) rfl)
    | (apply hfb.bit (i := 1) rfl)
    | (apply hfb.bit (i := 2) rfl)
    | (apply hfb.bit (i := 3) rfl)
    | (apply hfb.bit (i := 4) rfl)
    | (apply hfb.bit (i := 5) rfl)
    | (apply hfb.bit (i := 6) rfl)
    | (apply hfb.bit (i := 7) rfl)
    | (apply hfb.bit (i := 8) rfl)
    | (apply hfb.bit (i := 9) rfl)
    | (apply hfb.bit (i := 10) rfl)
    | (apply hfb.bit (i := 11) rfl)
    | (apply hfb.bit (i := 12) rfl)
    | (apply hfb.bit (i := 13) rfl)
    | (apply hfb.bit (i := 14) rfl)
    | (apply hfb.bit (i := 15) rfl)
    | (apply hfb.bit (i := 16) rfl)
    | (apply hfb.bit (i := 17) rfl)
    | (apply hfb.bit (i := 18) rfl)
    | (extract_lets)
    | split
    | (intro _ _ _)
    | (intro _ e; have _hk : Frame _ _ _ _ := e)
    | (intro _ e; cases e)
    | dsimp only
    | (dsimp +zetaDelta only))

theorem State.wrBit_fr {fw fb : Nat} {s0 : State} (s : State) (f : Fld) (i : Nat) (b : Bool) (hK : Frame fw fb s0 s)  (hf : fb.testBit f.blk = true := by first | exact hfb.bit rfl | exact hfb.bit (i := 0) rfl | exact hfb.bit (i := 1) rfl | exact hfb.bit (i := 2) rfl | exact hfb.bit (i := 3) rfl | exact hfb.bit (i := 4) rfl | exact hfb.bit (i := 5) rfl | exact hfb.bit (i := 6) rfl | exact hfb.bit (i := 7) rfl | exact hfb.bit (i := 8) rfl | exact hfb.bit (i := 9) rfl | exact hfb.bit (i := 10) rfl | exact hfb.bit (i := 11) rfl | exact hfb.bit (i := 12) rfl | exact hfb.bit (i := 13) rfl | exact hfb.bit (i := 14) rfl | exact hfb.bit (i := 15) rfl | exact hfb.bit (i := 16) rfl | exact hfb.bit (i := 17) rfl | exact hfb.bit (i := 18) rfl) : Frame fw fb s0 (State.wrBit s f i b) := by
  unfold State.wrBit
  repeat' (first
    | with_reducible assumption
    | with_reducible apply State.wr_fr
    | (with_reducible refine Frame.ite ?_ ?_)
    | ((with_reducible apply Sub.within hfw); exact rfl)
    | ((with_reducible apply Sub.within hfb); exact rfl)
    | ((with_reducible apply Mixed.of); exact rfl)
    | (extract_lets)
    | split
    | (intro _ _ _)
    | (intro _ e; have _hk : Frame _ _ _ _ := e)
    | (intro _ e; cases e)
    | dsimp only
    | (dsimp +zetaDelta only))

theorem State.pinSettle_fr {fw fb : Nat} {s0 : State} (s : State) (i : Nat) (hK : Frame fw fb s0 s) (hfw : Sub 37777959085437649681368 fw := by exact Sub.within hfw rfl) (hfb : Sub 524287 fb := by exact Sub.within hfb rfl) : Frame fw fb s0 (State.pinSettle s i) := by
  unfold State.pinSettle
  repeat' (first
    | with_reducible assumption
    | with_reducible apply State.pinAct_fr
    | with_reducible apply State.raiseIf_fr
    | with_reducible apply State.wrBit_fr
    | (with_reducible refine Frame.ite ?_ ?_)
    | ((with_reducible apply Sub.within hfw); exact rfl)
    | ((with_reducible apply Sub.within hfb); exact rfl)
    | ((with_reducible apply Mixed.of); exact rfl)
    | (apply hfb.bit (i := 0) rfl)
    | (apply hfb.bit (i := 1) rfl)
    | (apply hfb.bit (i := 2) rfl)
    | (apply hfb.bit (i := 3) rfl)
    | (apply hfb.bit (i := 4) rfl)
    | (apply hfb.bit (i := 5) rfl)
    | (apply hfb.bit (i := 6) rfl)
    | (apply hfb.bit (i := 7) rfl)
    | (apply hfb.bit (i := 8) rfl)
    | (apply hfb.bit (i := 9) rfl)
    | (apply hfb.bit (i := 10) rfl)
    | (apply hfb.bit (i := 11) rfl)
    | (apply hfb.bit (i := 12) rfl)
    | (apply hfb.bit (i := 13) rfl)
    | (apply hfb.bit (i := 14) rfl)
    | (apply hfb.bit (i := 15) rfl)
    | (apply hfb.bit (i := 16) rfl)
    | (apply hfb.bit (i := 17) rfl)
    | (apply hfb.bit (i := 18) rfl)
    | (extract_lets)
    | split
    | (intro _ _ _)
    | (intro _ e; have _hk : Frame _ _ _ _ := e)
    | (intro _ e; cases e)
    | dsimp only
    | (dsimp +zetaDelta only))

theorem State.pinNote_fr {fw fb : Nat} {s0 : State} (s : State) (i : Nat) (on : Bool) (hK : Frame fw fb s0 s) (hfw : Sub 36893488147419103232 fw := by exact Sub.within hfw rfl) (hfb : Sub 32768 fb := by exact Sub.within hfb rfl) : Frame fw fb s0 (State.pinNote s i on) := by
  have k0 : ∀ (t : State) x0, Frame fw fb s0 t → Frame fw fb s0 { t with mgmt := x0 } := fun t x0 ht => Frame.upd ht hfw rfl rfl ⟨rfl, rfl, rfl⟩
  unfold State.pinNote
  repeat' (first
    | with_reducible assumption
    | with_reducible apply State.bump_fr
    | with_reducible apply State.wr_fr
    | with_reducible apply State.wrBit_fr
    | (with_reducible refine Frame.ite ?_ ?_)
    | ((with_reducible apply Sub.within hfw); exact rfl)
    | ((with_reducible apply Sub.within hfb); exact rfl)
    | ((with_reducible apply Mixed.of); exact rfl)
    | (apply hfb.bit (i := 15) rfl)
    | (extract_lets)
    | (fail_if_no_progress (with_reducible refine k0 _ _ ?_))
    | split
    | (intro _ _ _)
    | (intro _ e; have _hk : Frame _ _ _ _ := e)
    | (intro _ e; cases e)
    | dsimp only
    | (dsimp +zetaDelta only)
    | (fail_if_no_progress ((with_reducible refine Frame.upd ?_ hfw ?_ rfl ⟨rfl, rfl, rfl⟩); rotate_left; exact rfl)))

theorem State.drainLevel_fr {fw fb : Nat} {s0 : State} (s : State) (on : Bool) (hK : Frame fw fb s0 s) (hfw : Sub 36893488147419103440 fw := by exact Sub.within hfw rfl) (hfb : Sub 164864 fb := by exact Sub.within hfb rfl) : Frame fw fb s0 (State.drainLevel s on) := by
  have k0 : ∀ (t : State) x0, Frame fw fb s0 t → Frame fw fb s0 { t with mgmt := x0 } := fun t x0 ht => Frame.upd ht hfw rfl rfl ⟨rfl, rfl, rfl⟩
  unfold State.drainLevel
  repeat' (first
    | with_reducible assumption
    | with_reducible apply State.record_fr
    | with_reducible apply State.wr_fr
    | with_reducible apply State.wrBit_fr
    | (with_reducible refine Frame.ite ?_ ?_)
    | ((with_reducible apply Sub.within hfw); exact rfl)
    | ((with_reducible apply Sub.within hfb); exact rfl)
    | ((with_reducible apply Mixed.of); exact rfl)
    | (apply hfb.bit (i := 10) rfl)
    | (apply hfb.bit (i := 15) rfl)
    | (apply hfb.bit (i := 17) rfl)
    | (extract_lets)
    | (fail_if_no_progress (with_reducible refine k0 _ _ ?_))
    | split
    | (intro _ _ _)
    | (intro _ e; have _hk : Frame _ _ _ _ := e)
    | (intro _ e; cases e)
    | dsimp only
    | (dsimp +zetaDelta only)
    | (fail_if_no_progress ((with_reducible refine Frame.upd ?_ hfw ?_ rfl ⟨rfl, rfl, rfl⟩); rotate_left; exact rfl)))

theorem State.pinChange_fr {fw fb : Nat} {s0 : State} (s : State) (i : Nat) (on : Bool) (hK : Frame fw fb s0 s) (hfw : Sub 37777959085437649681368 fw := by exact Sub.within hfw rfl) (hfb : Sub 524287 fb := by exact Sub.within hfb rfl) : Frame fw fb s0 (State.pinChange s i on) := by
  unfold State.pinChange
  repeat' (first
    | with_reducible assumption
    | with_reducible apply State.drainLevel_fr
    | with_reducible apply State.pinNote_fr
    | with_reducible apply State.pinSettle_fr
    | (with_reducible refine Frame.ite ?_ ?_)
    | ((with_reducible apply Sub.within hfw); exact rfl)
    | ((with_reducible apply Sub.within hfb); exact rfl)
    | ((with_reducible apply Mixed.of); exact rfl)
    | (apply hfb.bit (i := 0) rfl)
    | (apply hfb.bit (i := 1) rfl)
    | (apply hfb.bit (i := 2) rfl)
    | (apply hfb.bit (i := 3) rfl)
    | (apply hfb.bit (i := 4) rfl)
    | (apply hfb.bit (i := 5) rfl)
    | (apply hfb.bit (i := 6) rfl)
    | (apply hfb.bit (i := 7) rfl)
    | (apply hfb.bit (i := 8) rfl)
    | (apply hfb.bit (i := 9) rfl)
    | (apply hfb.bit (i := 10) rfl)
    | (apply hfb.bit (i := 11) rfl)
    | (apply hfb.bit (i := 12) rfl)
    | (apply hfb.bit (i := 13) rfl)
    | (apply hfb.bit (i := 14) rfl)
    | (apply hfb.bit (i := 15) rfl)
    | (apply hfb.bit (i := 16) rfl)
    | (apply hfb.bit (i := 17) rfl)
    | (apply hfb.bit (i := 18) rfl)
    | (extract_lets)
    | split
    | (intro _ _ _)
    | (intro _ e; have _hk : Frame _ _ _ _ := e)
    | (intro _ e; cases e)
    | dsimp only
    | (dsimp +zetaDelta only))

theorem execEpoNAssert_fr {fw fb : Nat} {s0 : State} (level : Nat) (s : State) (hK : Frame fw fb s0 s) (hfw : Sub 37777959085437649681368 fw := by exact Sub.within hfw rfl) (hfb : Sub 524287 fb := by exact Sub.within hfb rfl) : ∀ u, execEpoNAssert level s = .next u → Frame fw fb s0 u := by
  unfold execEpoNAssert
  repeat' (first
    | with_reducible assumption
    | with_reducible apply State.pinChange_fr
    | (with_reducible refine Frame.ite ?_ ?_)
    | ((with_reducible apply Sub.within hfw); exact rfl)
    | ((with_reducible apply Sub.within hfb); exact rfl)
    | ((with_reducible apply Mixed.of); exact rfl)
    | (apply hfb.bit (i := 0) rfl)
    | (apply hfb.bit (i := 1) rfl)
    | (apply hfb.bit (i := 2) rfl)
    | (apply hfb.bit (i := 3) rfl)
    | (apply hfb.bit (i := 4) rfl)
    | (apply hfb.bit (i := 5) rfl)
    | (apply hfb.bit (i := 6) rfl)
    | (apply hfb.bit (i := 7) rfl)
    | (apply hfb.bit (i := 8) rfl)
    | (apply hfb.bit (i := 9) rfl)
    | (apply hfb.bit (i := 10) rfl)
    | (apply hfb.bit (i := 11) rfl)
    | (apply hfb.bit (i := 12) rfl)
    | (apply hfb.bit (i := 13) rfl)
    | (apply hfb.bit (i := 14) rfl)
    | (apply hfb.bit (i := 15) rfl)
    | (apply hfb.bit (i := 16) rfl)
    | (apply hfb.bit (i := 17) rfl)
    | (apply hfb.bit (i := 18) rfl)
    | (extract_lets)
    | split
    | (intro _ _ _)
    | (intro _ e; have _hk : Frame _ _ _ _ := e)
    | (intro _ e; cases e)
    | dsimp only
    | (dsimp +zetaDelta only))

theorem execPwarnNAssert_fr {fw fb : Nat} {s0 : State} (s : State) (hK : Frame fw fb s0 s) (hfw : Sub 37777959085437649681368 fw := by exact Sub.within hfw rfl) (hfb : Sub 524287 fb := by exact Sub.within hfb rfl) : ∀ u, execPwarnNAssert s = .next u → Frame fw fb s0 u := by
  unfold execPwarnNAssert
  repeat' (first
    | with_reducible assumption
    | with_reducible apply State.pinChange_fr
    | (with_reducible refine Frame.ite ?_ ?_)
    | ((with_reducible apply Sub.within hfw); exact rfl)
    | ((with_reducible apply Sub.within hfb); exact rfl)
    | ((with_reducible apply Mixed.of); exact rfl)
    | (apply hfb.bit (i := 0) rfl)
    | (apply hfb.bit (i := 1) rfl)
    | (apply hfb.bit (i := 2) rfl)
    | (apply hfb.bit (i := 3) rfl)
    | (apply hfb.bit (i := 4) rfl)
    | (apply hfb.bit (i := 5) rfl)
    | (apply hfb.bit (i := 6) rfl)
    | (apply hfb.bit (i := 7) rfl)
    | (apply hfb.bit (i := 8) rfl)
    | (apply hfb.bit (i := 9) rfl)
    | (apply hfb.bit (i := 10) rfl)
    | (apply hfb.bit (i := 11) rfl)
    | (apply hfb.bit (i := 12) rfl)
    | (apply hfb.bit (i := 13) rfl)
    | (apply hfb.bit (i := 14) rfl)
    | (apply hfb.bit (i := 15) rfl)
    | (apply hfb.bit (i := 16) rfl)
    | (apply hfb.bit (i := 17) rfl)
    | (apply hfb.bit (i := 18) rfl)
    | (extract_lets)
    | split
    | (intro _ _ _)
    | (intro _ e; have _hk : Frame _ _ _ _ := e)
    | (intro _ e; cases e)
    | dsimp only
    | (dsimp +zetaDelta only))

theorem execPwarnNRelease_fr {fw fb : Nat} {s0 : State} (s : State) (hK : Frame fw fb s0 s) (hfw : Sub 37777959085437649681368 fw := by exact Sub.within hfw rfl) (hfb : Sub 524287 fb := by exact Sub.within hfb rfl) : ∀ u, execPwarnNRelease s = .next u → Frame fw fb s0 u := by
  unfold execPwarnNRelease
  repeat' (first
    | with_reducible assumption
    | with_reducible apply State.pinChange_fr
    | (with_reducible refine Frame.ite ?_ ?_)
    | ((with_reducible apply Sub.within hfw); exact rfl)
    | ((with_reducible apply Sub.within hfb); exact rfl)
    | ((with_reducible apply Mixed.of); exact rfl)
    | (apply hfb.bit (i := 0) rfl)
    | (apply hfb.bit (i := 1) rfl)
    | (apply hfb.bit (i := 2) rfl)
    | (apply hfb.bit (i := 3) rfl)
    | (apply hfb.bit (i := 4) rfl)
    | (apply hfb.bit (i := 5) rfl)
    | (apply hfb.bit (i := 6) rfl)
    | (apply hfb.bit (i := 7) rfl)
    | (apply hfb.bit (i := 8) rfl)
    | (apply hfb.bit (i := 9) rfl)
    | (apply hfb.bit (i := 10) rfl)
    | (apply hfb.bit (i := 11) rfl)
    | (apply hfb.bit (i := 12) rfl)
    | (apply hfb.bit (i := 13) rfl)
    | (apply hfb.bit (i := 14) rfl)
    | (apply hfb.bit (i := 15) rfl)
    | (apply hfb.bit (i := 16) rfl)
    | (apply hfb.bit (i := 17) rfl)
    | (apply hfb.bit (i := 18) rfl)
    | (extract_lets)
    | split
    | (intro _ _ _)
    | (intro _ e; have _hk : Frame _ _ _ _ := e)
    | (intro _ e; cases e)
    | dsimp only
    | (dsimp +zetaDelta only))

theorem execCoolAlmNAssert_fr {fw fb : Nat} {s0 : State} (s : State) (hK : Frame fw fb s0 s) (hfw : Sub 37777959085437649681368 fw := by exact Sub.within hfw rfl) (hfb : Sub 524287 fb := by exact Sub.within hfb rfl) : ∀ u, execCoolAlmNAssert s = .next u → Frame fw fb s0 u := by
  unfold execCoolAlmNAssert
  repeat' (first
    | with_reducible assumption
    | with_reducible apply State.pinChange_fr
    | (with_reducible refine Frame.ite ?_ ?_)
    | ((with_reducible apply Sub.within hfw); exact rfl)
    | ((with_reducible apply Sub.within hfb); exact rfl)
    | ((with_reducible apply Mixed.of); exact rfl)
    | (apply hfb.bit (i := 0) rfl)
    | (apply hfb.bit (i := 1) rfl)
    | (apply hfb.bit (i := 2) rfl)
    | (apply hfb.bit (i := 3) rfl)
    | (apply hfb.bit (i := 4) rfl)
    | (apply hfb.bit (i := 5) rfl)
    | (apply hfb.bit (i := 6) rfl)
    | (apply hfb.bit (i := 7) rfl)
    | (apply hfb.bit (i := 8) rfl)
    | (apply hfb.bit (i := 9) rfl)
    | (apply hfb.bit (i := 10) rfl)
    | (apply hfb.bit (i := 11) rfl)
    | (apply hfb.bit (i := 12) rfl)
    | (apply hfb.bit (i := 13) rfl)
    | (apply hfb.bit (i := 14) rfl)
    | (apply hfb.bit (i := 15) rfl)
    | (apply hfb.bit (i := 16) rfl)
    | (apply hfb.bit (i := 17) rfl)
    | (apply hfb.bit (i := 18) rfl)
    | (extract_lets)
    | split
    | (intro _ _ _)
    | (intro _ e; have _hk : Frame _ _ _ _ := e)
    | (intro _ e; cases e)
    | dsimp only
    | (dsimp +zetaDelta only))

theorem execCoolAlmNRelease_fr {fw fb : Nat} {s0 : State} (s : State) (hK : Frame fw fb s0 s) (hfw : Sub 37777959085437649681368 fw := by exact Sub.within hfw rfl) (hfb : Sub 524287 fb := by exact Sub.within hfb rfl) : ∀ u, execCoolAlmNRelease s = .next u → Frame fw fb s0 u := by
  unfold execCoolAlmNRelease
  repeat' (first
    | with_reducible assumption
    | with_reducible apply State.pinChange_fr
    | (with_reducible refine Frame.ite ?_ ?_)
    | ((with_reducible apply Sub.within hfw); exact rfl)
    | ((with_reducible apply Sub.within hfb); exact rfl)
    | ((with_reducible apply Mixed.of); exact rfl)
    | (apply hfb.bit (i := 0) rfl)
    | (apply hfb.bit (i := 1) rfl)
    | (apply hfb.bit (i := 2) rfl)
    | (apply hfb.bit (i := 3) rfl)
    | (apply hfb.bit (i := 4) rfl)
    | (apply hfb.bit (i := 5) rfl)
    | (apply hfb.bit (i := 6) rfl)
    | (apply hfb.bit (i := 7) rfl)
    | (apply hfb.bit (i := 8) rfl)
    | (apply hfb.bit (i := 9) rfl)
    | (apply hfb.bit (i := 10) rfl)
    | (apply hfb.bit (i := 11) rfl)
    | (apply hfb.bit (i := 12) rfl)
    | (apply hfb.bit (i := 13) rfl)
    | (apply hfb.bit (i := 14) rfl)
    | (apply hfb.bit (i := 15) rfl)
    | (apply hfb.bit (i := 16) rfl)
    | (apply hfb.bit (i := 17) rfl)
    | (apply hfb.bit (i := 18) rfl)
    | (extract_lets)
    | split
    | (intro _ _ _)
    | (intro _ e; have _hk : Frame _ _ _ _ := e)
    | (intro _ e; cases e)
    | dsimp only
    | (dsimp +zetaDelta only))

theorem traySeat_fr {fw fb : Nat} {s0 : State} (on : Bool) (s : State) (hK : Frame fw fb s0 s) (hfw : Sub 37777959085437649681368 fw := by exact Sub.within hfw rfl) (hfb : Sub 524287 fb := by exact Sub.within hfb rfl) : Frame fw fb s0 (traySeat on s) := by
  unfold traySeat
  repeat' (first
    | with_reducible assumption
    | with_reducible apply State.pinChange_fr
    | with_reducible apply State.record_fr
    | (with_reducible refine Frame.ite ?_ ?_)
    | ((with_reducible apply Sub.within hfw); exact rfl)
    | ((with_reducible apply Sub.within hfb); exact rfl)
    | ((with_reducible apply Mixed.of); exact rfl)
    | (apply hfb.bit (i := 0) rfl)
    | (apply hfb.bit (i := 1) rfl)
    | (apply hfb.bit (i := 2) rfl)
    | (apply hfb.bit (i := 3) rfl)
    | (apply hfb.bit (i := 4) rfl)
    | (apply hfb.bit (i := 5) rfl)
    | (apply hfb.bit (i := 6) rfl)
    | (apply hfb.bit (i := 7) rfl)
    | (apply hfb.bit (i := 8) rfl)
    | (apply hfb.bit (i := 9) rfl)
    | (apply hfb.bit (i := 10) rfl)
    | (apply hfb.bit (i := 11) rfl)
    | (apply hfb.bit (i := 12) rfl)
    | (apply hfb.bit (i := 13) rfl)
    | (apply hfb.bit (i := 14) rfl)
    | (apply hfb.bit (i := 15) rfl)
    | (apply hfb.bit (i := 16) rfl)
    | (apply hfb.bit (i := 17) rfl)
    | (apply hfb.bit (i := 18) rfl)
    | (extract_lets)
    | split
    | (intro _ _ _)
    | (intro _ e; have _hk : Frame _ _ _ _ := e)
    | (intro _ e; cases e)
    | dsimp only
    | (dsimp +zetaDelta only))

theorem execTraySeatNChange_fr {fw fb : Nat} {s0 : State} (level : Nat) (s : State) (hK : Frame fw fb s0 s) (hfw : Sub 37777959085437649681368 fw := by exact Sub.within hfw rfl) (hfb : Sub 524287 fb := by exact Sub.within hfb rfl) : ∀ u, execTraySeatNChange level s = .next u → Frame fw fb s0 u := by
  unfold execTraySeatNChange
  repeat' (first
    | with_reducible assumption
    | with_reducible apply traySeat_fr
    | (with_reducible refine Frame.ite ?_ ?_)
    | ((with_reducible apply Sub.within hfw); exact rfl)
    | ((with_reducible apply Sub.within hfb); exact rfl)
    | ((with_reducible apply Mixed.of); exact rfl)
    | (apply hfb.bit (i := 0) rfl)
    | (apply hfb.bit (i := 1) rfl)
    | (apply hfb.bit (i := 2) rfl)
    | (apply hfb.bit (i := 3) rfl)
    | (apply hfb.bit (i := 4) rfl)
    | (apply hfb.bit (i := 5) rfl)
    | (apply hfb.bit (i := 6) rfl)
    | (apply hfb.bit (i := 7) rfl)
    | (apply hfb.bit (i := 8) rfl)
    | (apply hfb.bit (i := 9) rfl)
    | (apply hfb.bit (i := 10) rfl)
    | (apply hfb.bit (i := 11) rfl)
    | (apply hfb.bit (i := 12) rfl)
    | (apply hfb.bit (i := 13) rfl)
    | (apply hfb.bit (i := 14) rfl)
    | (apply hfb.bit (i := 15) rfl)
    | (apply hfb.bit (i := 16) rfl)
    | (apply hfb.bit (i := 17) rfl)
    | (apply hfb.bit (i := 18) rfl)
    | (extract_lets)
    | split
    | (intro _ _ _)
    | (intro _ e; have _hk : Frame _ _ _ _ := e)
    | (intro _ e; cases e)
    | dsimp only
    | (dsimp +zetaDelta only))

theorem execDrainReqNAssert_fr {fw fb : Nat} {s0 : State} (s : State) (hK : Frame fw fb s0 s) (hfw : Sub 37777959085437649681368 fw := by exact Sub.within hfw rfl) (hfb : Sub 524287 fb := by exact Sub.within hfb rfl) : ∀ u, execDrainReqNAssert s = .next u → Frame fw fb s0 u := by
  unfold execDrainReqNAssert
  repeat' (first
    | with_reducible assumption
    | with_reducible apply State.pinChange_fr
    | (with_reducible refine Frame.ite ?_ ?_)
    | ((with_reducible apply Sub.within hfw); exact rfl)
    | ((with_reducible apply Sub.within hfb); exact rfl)
    | ((with_reducible apply Mixed.of); exact rfl)
    | (apply hfb.bit (i := 0) rfl)
    | (apply hfb.bit (i := 1) rfl)
    | (apply hfb.bit (i := 2) rfl)
    | (apply hfb.bit (i := 3) rfl)
    | (apply hfb.bit (i := 4) rfl)
    | (apply hfb.bit (i := 5) rfl)
    | (apply hfb.bit (i := 6) rfl)
    | (apply hfb.bit (i := 7) rfl)
    | (apply hfb.bit (i := 8) rfl)
    | (apply hfb.bit (i := 9) rfl)
    | (apply hfb.bit (i := 10) rfl)
    | (apply hfb.bit (i := 11) rfl)
    | (apply hfb.bit (i := 12) rfl)
    | (apply hfb.bit (i := 13) rfl)
    | (apply hfb.bit (i := 14) rfl)
    | (apply hfb.bit (i := 15) rfl)
    | (apply hfb.bit (i := 16) rfl)
    | (apply hfb.bit (i := 17) rfl)
    | (apply hfb.bit (i := 18) rfl)
    | (extract_lets)
    | split
    | (intro _ _ _)
    | (intro _ e; have _hk : Frame _ _ _ _ := e)
    | (intro _ e; cases e)
    | dsimp only
    | (dsimp +zetaDelta only))

theorem execDrainReqNRelease_fr {fw fb : Nat} {s0 : State} (s : State) (hK : Frame fw fb s0 s) (hfw : Sub 37777959085437649681368 fw := by exact Sub.within hfw rfl) (hfb : Sub 524287 fb := by exact Sub.within hfb rfl) : ∀ u, execDrainReqNRelease s = .next u → Frame fw fb s0 u := by
  unfold execDrainReqNRelease
  repeat' (first
    | with_reducible assumption
    | with_reducible apply State.pinChange_fr
    | (with_reducible refine Frame.ite ?_ ?_)
    | ((with_reducible apply Sub.within hfw); exact rfl)
    | ((with_reducible apply Sub.within hfb); exact rfl)
    | ((with_reducible apply Mixed.of); exact rfl)
    | (apply hfb.bit (i := 0) rfl)
    | (apply hfb.bit (i := 1) rfl)
    | (apply hfb.bit (i := 2) rfl)
    | (apply hfb.bit (i := 3) rfl)
    | (apply hfb.bit (i := 4) rfl)
    | (apply hfb.bit (i := 5) rfl)
    | (apply hfb.bit (i := 6) rfl)
    | (apply hfb.bit (i := 7) rfl)
    | (apply hfb.bit (i := 8) rfl)
    | (apply hfb.bit (i := 9) rfl)
    | (apply hfb.bit (i := 10) rfl)
    | (apply hfb.bit (i := 11) rfl)
    | (apply hfb.bit (i := 12) rfl)
    | (apply hfb.bit (i := 13) rfl)
    | (apply hfb.bit (i := 14) rfl)
    | (apply hfb.bit (i := 15) rfl)
    | (apply hfb.bit (i := 16) rfl)
    | (apply hfb.bit (i := 17) rfl)
    | (apply hfb.bit (i := 18) rfl)
    | (extract_lets)
    | split
    | (intro _ _ _)
    | (intro _ e; have _hk : Frame _ _ _ _ := e)
    | (intro _ e; cases e)
    | dsimp only
    | (dsimp +zetaDelta only))

theorem drainStuck_fr {fw fb : Nat} {s0 : State} (s : State) (hK : Frame fw fb s0 s) (hfw : Sub 37777959085437649681368 fw := by exact Sub.within hfw rfl) (hfb : Sub 524287 fb := by exact Sub.within hfb rfl) : Frame fw fb s0 (drainStuck s) := by
  unfold drainStuck
  repeat' (first
    | with_reducible assumption
    | with_reducible apply State.pinSettle_fr
    | with_reducible apply State.record_fr
    | with_reducible apply State.wr_fr
    | with_reducible apply State.wrBit_fr
    | (with_reducible refine Frame.ite ?_ ?_)
    | ((with_reducible apply Sub.within hfw); exact rfl)
    | ((with_reducible apply Sub.within hfb); exact rfl)
    | ((with_reducible apply Mixed.of); exact rfl)
    | (apply hfb.bit (i := 0) rfl)
    | (apply hfb.bit (i := 1) rfl)
    | (apply hfb.bit (i := 2) rfl)
    | (apply hfb.bit (i := 3) rfl)
    | (apply hfb.bit (i := 4) rfl)
    | (apply hfb.bit (i := 5) rfl)
    | (apply hfb.bit (i := 6) rfl)
    | (apply hfb.bit (i := 7) rfl)
    | (apply hfb.bit (i := 8) rfl)
    | (apply hfb.bit (i := 9) rfl)
    | (apply hfb.bit (i := 10) rfl)
    | (apply hfb.bit (i := 11) rfl)
    | (apply hfb.bit (i := 12) rfl)
    | (apply hfb.bit (i := 13) rfl)
    | (apply hfb.bit (i := 14) rfl)
    | (apply hfb.bit (i := 15) rfl)
    | (apply hfb.bit (i := 16) rfl)
    | (apply hfb.bit (i := 17) rfl)
    | (apply hfb.bit (i := 18) rfl)
    | (extract_lets)
    | split
    | (intro _ _ _)
    | (intro _ e; have _hk : Frame _ _ _ _ := e)
    | (intro _ e; cases e)
    | dsimp only
    | (dsimp +zetaDelta only))

theorem execDrainStuck_fr {fw fb : Nat} {s0 : State} (s : State) (hK : Frame fw fb s0 s) (hfw : Sub 37777959085437649681368 fw := by exact Sub.within hfw rfl) (hfb : Sub 524287 fb := by exact Sub.within hfb rfl) : ∀ u, execDrainStuck s = .next u → Frame fw fb s0 u := by
  unfold execDrainStuck
  repeat' (first
    | with_reducible assumption
    | with_reducible apply drainStuck_fr
    | (with_reducible refine Frame.ite ?_ ?_)
    | ((with_reducible apply Sub.within hfw); exact rfl)
    | ((with_reducible apply Sub.within hfb); exact rfl)
    | ((with_reducible apply Mixed.of); exact rfl)
    | (apply hfb.bit (i := 0) rfl)
    | (apply hfb.bit (i := 1) rfl)
    | (apply hfb.bit (i := 2) rfl)
    | (apply hfb.bit (i := 3) rfl)
    | (apply hfb.bit (i := 4) rfl)
    | (apply hfb.bit (i := 5) rfl)
    | (apply hfb.bit (i := 6) rfl)
    | (apply hfb.bit (i := 7) rfl)
    | (apply hfb.bit (i := 8) rfl)
    | (apply hfb.bit (i := 9) rfl)
    | (apply hfb.bit (i := 10) rfl)
    | (apply hfb.bit (i := 11) rfl)
    | (apply hfb.bit (i := 12) rfl)
    | (apply hfb.bit (i := 13) rfl)
    | (apply hfb.bit (i := 14) rfl)
    | (apply hfb.bit (i := 15) rfl)
    | (apply hfb.bit (i := 16) rfl)
    | (apply hfb.bit (i := 17) rfl)
    | (apply hfb.bit (i := 18) rfl)
    | (extract_lets)
    | split
    | (intro _ _ _)
    | (intro _ e; have _hk : Frame _ _ _ _ := e)
    | (intro _ e; cases e)
    | dsimp only
    | (dsimp +zetaDelta only))

theorem chatterSet_fr {fw fb : Nat} {s0 : State} (i : Nat) (s : State) (hK : Frame fw fb s0 s) (hfw : Sub 37777959085437649681368 fw := by exact Sub.within hfw rfl) (hfb : Sub 524287 fb := by exact Sub.within hfb rfl) : Frame fw fb s0 (chatterSet i s) := by
  unfold chatterSet
  repeat' (first
    | with_reducible assumption
    | with_reducible apply State.pinSettle_fr
    | with_reducible apply State.record_fr
    | with_reducible apply State.wrBit_fr
    | (with_reducible refine Frame.ite ?_ ?_)
    | ((with_reducible apply Sub.within hfw); exact rfl)
    | ((with_reducible apply Sub.within hfb); exact rfl)
    | ((with_reducible apply Mixed.of); exact rfl)
    | (apply hfb.bit (i := 0) rfl)
    | (apply hfb.bit (i := 1) rfl)
    | (apply hfb.bit (i := 2) rfl)
    | (apply hfb.bit (i := 3) rfl)
    | (apply hfb.bit (i := 4) rfl)
    | (apply hfb.bit (i := 5) rfl)
    | (apply hfb.bit (i := 6) rfl)
    | (apply hfb.bit (i := 7) rfl)
    | (apply hfb.bit (i := 8) rfl)
    | (apply hfb.bit (i := 9) rfl)
    | (apply hfb.bit (i := 10) rfl)
    | (apply hfb.bit (i := 11) rfl)
    | (apply hfb.bit (i := 12) rfl)
    | (apply hfb.bit (i := 13) rfl)
    | (apply hfb.bit (i := 14) rfl)
    | (apply hfb.bit (i := 15) rfl)
    | (apply hfb.bit (i := 16) rfl)
    | (apply hfb.bit (i := 17) rfl)
    | (apply hfb.bit (i := 18) rfl)
    | (extract_lets)
    | split
    | (intro _ _ _)
    | (intro _ e; have _hk : Frame _ _ _ _ := e)
    | (intro _ e; cases e)
    | dsimp only
    | (dsimp +zetaDelta only))

theorem execChatterSet_fr {fw fb : Nat} {s0 : State} (input : Nat) (s : State) (hK : Frame fw fb s0 s) (hfw : Sub 37777959085437649681368 fw := by exact Sub.within hfw rfl) (hfb : Sub 524287 fb := by exact Sub.within hfb rfl) : ∀ u, execChatterSet input s = .next u → Frame fw fb s0 u := by
  unfold execChatterSet
  repeat' (first
    | with_reducible assumption
    | with_reducible apply chatterSet_fr
    | (with_reducible refine Frame.ite ?_ ?_)
    | ((with_reducible apply Sub.within hfw); exact rfl)
    | ((with_reducible apply Sub.within hfb); exact rfl)
    | ((with_reducible apply Mixed.of); exact rfl)
    | (apply hfb.bit (i := 0) rfl)
    | (apply hfb.bit (i := 1) rfl)
    | (apply hfb.bit (i := 2) rfl)
    | (apply hfb.bit (i := 3) rfl)
    | (apply hfb.bit (i := 4) rfl)
    | (apply hfb.bit (i := 5) rfl)
    | (apply hfb.bit (i := 6) rfl)
    | (apply hfb.bit (i := 7) rfl)
    | (apply hfb.bit (i := 8) rfl)
    | (apply hfb.bit (i := 9) rfl)
    | (apply hfb.bit (i := 10) rfl)
    | (apply hfb.bit (i := 11) rfl)
    | (apply hfb.bit (i := 12) rfl)
    | (apply hfb.bit (i := 13) rfl)
    | (apply hfb.bit (i := 14) rfl)
    | (apply hfb.bit (i := 15) rfl)
    | (apply hfb.bit (i := 16) rfl)
    | (apply hfb.bit (i := 17) rfl)
    | (apply hfb.bit (i := 18) rfl)
    | (extract_lets)
    | split
    | (intro _ _ _)
    | (intro _ e; have _hk : Frame _ _ _ _ := e)
    | (intro _ e; cases e)
    | dsimp only
    | (dsimp +zetaDelta only))

theorem chatterClear_fr {fw fb : Nat} {s0 : State} (value : Nat) (s : State) (hK : Frame fw fb s0 s) (hfw : Sub 37777959085437649681368 fw := by exact Sub.within hfw rfl) (hfb : Sub 524287 fb := by exact Sub.within hfb rfl) : Frame fw fb s0 (chatterClear value s) := by
  unfold chatterClear
  repeat' (first
    | with_reducible assumption
    | with_reducible apply State.pinSettle_fr
    | with_reducible apply State.record_fr
    | with_reducible apply State.wrBit_fr
    | (with_reducible refine Frame.foldl ?_ ?_)
    | (with_reducible refine Frame.foldr ?_ ?_)
    | (with_reducible refine Frame.ite ?_ ?_)
    | ((with_reducible apply Sub.within hfw); exact rfl)
    | ((with_reducible apply Sub.within hfb); exact rfl)
    | ((with_reducible apply Mixed.of); exact rfl)
    | (apply hfb.bit (i := 0) rfl)
    | (apply hfb.bit (i := 1) rfl)
    | (apply hfb.bit (i := 2) rfl)
    | (apply hfb.bit (i := 3) rfl)
    | (apply hfb.bit (i := 4) rfl)
    | (apply hfb.bit (i := 5) rfl)
    | (apply hfb.bit (i := 6) rfl)
    | (apply hfb.bit (i := 7) rfl)
    | (apply hfb.bit (i := 8) rfl)
    | (apply hfb.bit (i := 9) rfl)
    | (apply hfb.bit (i := 10) rfl)
    | (apply hfb.bit (i := 11) rfl)
    | (apply hfb.bit (i := 12) rfl)
    | (apply hfb.bit (i := 13) rfl)
    | (apply hfb.bit (i := 14) rfl)
    | (apply hfb.bit (i := 15) rfl)
    | (apply hfb.bit (i := 16) rfl)
    | (apply hfb.bit (i := 17) rfl)
    | (apply hfb.bit (i := 18) rfl)
    | (extract_lets)
    | split
    | (intro _ _ _)
    | (intro _ e; have _hk : Frame _ _ _ _ := e)
    | (intro _ e; cases e)
    | dsimp only
    | (dsimp +zetaDelta only))

theorem execChatterClear_fr {fw fb : Nat} {s0 : State} (src value : Nat) (s : State) (hK : Frame fw fb s0 s) (hfw : Sub 37777959085437649681368 fw := by exact Sub.within hfw rfl) (hfb : Sub 524287 fb := by exact Sub.within hfb rfl) : ∀ u, execChatterClear src value s = .next u → Frame fw fb s0 u := by
  unfold execChatterClear
  repeat' (first
    | with_reducible assumption
    | with_reducible apply State.viaSource_fr
    | with_reducible apply chatterClear_fr
    | (with_reducible refine Frame.ite ?_ ?_)
    | ((with_reducible apply Sub.within hfw); exact rfl)
    | ((with_reducible apply Sub.within hfb); exact rfl)
    | ((with_reducible apply Mixed.of); exact rfl)
    | (apply hfb.bit (i := 0) rfl)
    | (apply hfb.bit (i := 1) rfl)
    | (apply hfb.bit (i := 2) rfl)
    | (apply hfb.bit (i := 3) rfl)
    | (apply hfb.bit (i := 4) rfl)
    | (apply hfb.bit (i := 5) rfl)
    | (apply hfb.bit (i := 6) rfl)
    | (apply hfb.bit (i := 7) rfl)
    | (apply hfb.bit (i := 8) rfl)
    | (apply hfb.bit (i := 9) rfl)
    | (apply hfb.bit (i := 10) rfl)
    | (apply hfb.bit (i := 11) rfl)
    | (apply hfb.bit (i := 12) rfl)
    | (apply hfb.bit (i := 13) rfl)
    | (apply hfb.bit (i := 14) rfl)
    | (apply hfb.bit (i := 15) rfl)
    | (apply hfb.bit (i := 16) rfl)
    | (apply hfb.bit (i := 17) rfl)
    | (apply hfb.bit (i := 18) rfl)
    | (extract_lets)
    | split
    | (intro _ _ _)
    | (intro _ e; have _hk : Frame _ _ _ _ := e)
    | (intro _ e; cases e)
    | dsimp only
    | (dsimp +zetaDelta only))

theorem execPerstNAssert_fr {fw fb : Nat} {s0 : State} (h : Nat) (s : State) (hK : Frame fw fb s0 s) (hfw : Sub 37777959085437649681368 fw := by exact Sub.within hfw rfl) (hfb : Sub 524287 fb := by exact Sub.within hfb rfl) : ∀ u, execPerstNAssert h s = .next u → Frame fw fb s0 u := by
  unfold execPerstNAssert
  repeat' (first
    | with_reducible assumption
    | with_reducible apply State.pinChange_fr
    | (with_reducible refine Frame.ite ?_ ?_)
    | ((with_reducible apply Sub.within hfw); exact rfl)
    | ((with_reducible apply Sub.within hfb); exact rfl)
    | ((with_reducible apply Mixed.of); exact rfl)
    | (apply hfb.bit (i := 0) rfl)
    | (apply hfb.bit (i := 1) rfl)
    | (apply hfb.bit (i := 2) rfl)
    | (apply hfb.bit (i := 3) rfl)
    | (apply hfb.bit (i := 4) rfl)
    | (apply hfb.bit (i := 5) rfl)
    | (apply hfb.bit (i := 6) rfl)
    | (apply hfb.bit (i := 7) rfl)
    | (apply hfb.bit (i := 8) rfl)
    | (apply hfb.bit (i := 9) rfl)
    | (apply hfb.bit (i := 10) rfl)
    | (apply hfb.bit (i := 11) rfl)
    | (apply hfb.bit (i := 12) rfl)
    | (apply hfb.bit (i := 13) rfl)
    | (apply hfb.bit (i := 14) rfl)
    | (apply hfb.bit (i := 15) rfl)
    | (apply hfb.bit (i := 16) rfl)
    | (apply hfb.bit (i := 17) rfl)
    | (apply hfb.bit (i := 18) rfl)
    | (extract_lets)
    | split
    | (intro _ _ _)
    | (intro _ e; have _hk : Frame _ _ _ _ := e)
    | (intro _ e; cases e)
    | dsimp only
    | (dsimp +zetaDelta only))

theorem execPerstNDeassert_fr {fw fb : Nat} {s0 : State} (h : Nat) (s : State) (hK : Frame fw fb s0 s) (hfw : Sub 37777959085437649681368 fw := by exact Sub.within hfw rfl) (hfb : Sub 524287 fb := by exact Sub.within hfb rfl) : ∀ u, execPerstNDeassert h s = .next u → Frame fw fb s0 u := by
  unfold execPerstNDeassert
  repeat' (first
    | with_reducible assumption
    | with_reducible apply State.pinChange_fr
    | (with_reducible refine Frame.ite ?_ ?_)
    | ((with_reducible apply Sub.within hfw); exact rfl)
    | ((with_reducible apply Sub.within hfb); exact rfl)
    | ((with_reducible apply Mixed.of); exact rfl)
    | (apply hfb.bit (i := 0) rfl)
    | (apply hfb.bit (i := 1) rfl)
    | (apply hfb.bit (i := 2) rfl)
    | (apply hfb.bit (i := 3) rfl)
    | (apply hfb.bit (i := 4) rfl)
    | (apply hfb.bit (i := 5) rfl)
    | (apply hfb.bit (i := 6) rfl)
    | (apply hfb.bit (i := 7) rfl)
    | (apply hfb.bit (i := 8) rfl)
    | (apply hfb.bit (i := 9) rfl)
    | (apply hfb.bit (i := 10) rfl)
    | (apply hfb.bit (i := 11) rfl)
    | (apply hfb.bit (i := 12) rfl)
    | (apply hfb.bit (i := 13) rfl)
    | (apply hfb.bit (i := 14) rfl)
    | (apply hfb.bit (i := 15) rfl)
    | (apply hfb.bit (i := 16) rfl)
    | (apply hfb.bit (i := 17) rfl)
    | (apply hfb.bit (i := 18) rfl)
    | (extract_lets)
    | split
    | (intro _ _ _)
    | (intro _ e; have _hk : Frame _ _ _ _ := e)
    | (intro _ e; cases e)
    | dsimp only
    | (dsimp +zetaDelta only))

theorem execSbResetNAssert_fr {fw fb : Nat} {s0 : State} (s : State) (hK : Frame fw fb s0 s) (hfw : Sub 37777959085437649681368 fw := by exact Sub.within hfw rfl) (hfb : Sub 524287 fb := by exact Sub.within hfb rfl) : ∀ u, execSbResetNAssert s = .next u → Frame fw fb s0 u := by
  unfold execSbResetNAssert
  repeat' (first
    | with_reducible assumption
    | with_reducible apply State.pinChange_fr
    | (with_reducible refine Frame.ite ?_ ?_)
    | ((with_reducible apply Sub.within hfw); exact rfl)
    | ((with_reducible apply Sub.within hfb); exact rfl)
    | ((with_reducible apply Mixed.of); exact rfl)
    | (apply hfb.bit (i := 0) rfl)
    | (apply hfb.bit (i := 1) rfl)
    | (apply hfb.bit (i := 2) rfl)
    | (apply hfb.bit (i := 3) rfl)
    | (apply hfb.bit (i := 4) rfl)
    | (apply hfb.bit (i := 5) rfl)
    | (apply hfb.bit (i := 6) rfl)
    | (apply hfb.bit (i := 7) rfl)
    | (apply hfb.bit (i := 8) rfl)
    | (apply hfb.bit (i := 9) rfl)
    | (apply hfb.bit (i := 10) rfl)
    | (apply hfb.bit (i := 11) rfl)
    | (apply hfb.bit (i := 12) rfl)
    | (apply hfb.bit (i := 13) rfl)
    | (apply hfb.bit (i := 14) rfl)
    | (apply hfb.bit (i := 15) rfl)
    | (apply hfb.bit (i := 16) rfl)
    | (apply hfb.bit (i := 17) rfl)
    | (apply hfb.bit (i := 18) rfl)
    | (extract_lets)
    | split
    | (intro _ _ _)
    | (intro _ e; have _hk : Frame _ _ _ _ := e)
    | (intro _ e; cases e)
    | dsimp only
    | (dsimp +zetaDelta only))

theorem execSbResetNDeassert_fr {fw fb : Nat} {s0 : State} (s : State) (hK : Frame fw fb s0 s) (hfw : Sub 37777959085437649681368 fw := by exact Sub.within hfw rfl) (hfb : Sub 524287 fb := by exact Sub.within hfb rfl) : ∀ u, execSbResetNDeassert s = .next u → Frame fw fb s0 u := by
  unfold execSbResetNDeassert
  repeat' (first
    | with_reducible assumption
    | with_reducible apply State.pinChange_fr
    | (with_reducible refine Frame.ite ?_ ?_)
    | ((with_reducible apply Sub.within hfw); exact rfl)
    | ((with_reducible apply Sub.within hfb); exact rfl)
    | ((with_reducible apply Mixed.of); exact rfl)
    | (apply hfb.bit (i := 0) rfl)
    | (apply hfb.bit (i := 1) rfl)
    | (apply hfb.bit (i := 2) rfl)
    | (apply hfb.bit (i := 3) rfl)
    | (apply hfb.bit (i := 4) rfl)
    | (apply hfb.bit (i := 5) rfl)
    | (apply hfb.bit (i := 6) rfl)
    | (apply hfb.bit (i := 7) rfl)
    | (apply hfb.bit (i := 8) rfl)
    | (apply hfb.bit (i := 9) rfl)
    | (apply hfb.bit (i := 10) rfl)
    | (apply hfb.bit (i := 11) rfl)
    | (apply hfb.bit (i := 12) rfl)
    | (apply hfb.bit (i := 13) rfl)
    | (apply hfb.bit (i := 14) rfl)
    | (apply hfb.bit (i := 15) rfl)
    | (apply hfb.bit (i := 16) rfl)
    | (apply hfb.bit (i := 17) rfl)
    | (apply hfb.bit (i := 18) rfl)
    | (extract_lets)
    | split
    | (intro _ _ _)
    | (intro _ e; have _hk : Frame _ _ _ _ := e)
    | (intro _ e; cases e)
    | dsimp only
    | (dsimp +zetaDelta only))

end Sys2Proof.Machine
end

