-- ==== Sys2Proof/Laws/Frame/Prefixes.lean ====
section
/-! SUPPORT. What the operations of Machine/Prefixes.lean leave as it was (`Frame`): one lemma each. -/

set_option linter.unreachableTactic false
set_option linter.unusedTactic false

namespace Sys2Proof.Machine

set_option Elab.async false

open Sys2Proof

theorem specConfig_fr {fw fb : Nat} {s0 : State} (s : State) (c : Cmd) (hK : Frame fw fb s0 s) (hfw : Sub 550318049800 fw := by exact Sub.within hfw rfl) (hfb : Sub 784 fb := by exact Sub.within hfb rfl) : Frame fw fb s0 (specConfig s c) := by
  unfold specConfig
  repeat' (first
    | with_reducible assumption
    | with_reducible apply State.doneWith_fr
    | with_reducible apply State.leadFree_fr
    | with_reducible apply State.serveRegs_fr
    | with_reducible apply State.setHand_fr
    | with_reducible apply State.setSpecWord_fr
    | (with_reducible refine Frame.ite ?_ ?_)
    | ((with_reducible apply Sub.within hfw); exact rfl)
    | ((with_reducible apply Sub.within hfb); exact rfl)
    | ((with_reducible apply Mixed.of); exact rfl)
    | (apply hfb.bit (i := 4) rfl)
    | (apply hfb.bit (i := 8) rfl)
    | (apply hfb.bit (i := 9) rfl)
    | (extract_lets)
    | split
    | (intro _ _ _)
    | (intro _ e; have _hk : Frame _ _ _ _ := e)
    | (intro _ e; cases e)
    | dsimp only
    | (dsimp +zetaDelta only))

theorem execSpecConfig_fr {fw fb : Nat} {s0 : State} (k : Nat) (s : State) (hK : Frame fw fb s0 s) (hfw : Sub 550318049800 fw := by exact Sub.within hfw rfl) (hfb : Sub 784 fb := by exact Sub.within hfb rfl) : ∀ u, execSpecConfig k s = .next u → Frame fw fb s0 u := by
  unfold execSpecConfig
  repeat' (first
    | with_reducible assumption
    | with_reducible apply State.runHand_fr
    | with_reducible apply specConfig_fr
    | (with_reducible refine Frame.ite ?_ ?_)
    | ((with_reducible apply Sub.within hfw); exact rfl)
    | ((with_reducible apply Sub.within hfb); exact rfl)
    | ((with_reducible apply Mixed.of); exact rfl)
    | (apply hfb.bit (i := 4) rfl)
    | (apply hfb.bit (i := 8) rfl)
    | (apply hfb.bit (i := 9) rfl)
    | (extract_lets)
    | split
    | (intro _ _ _)
    | (intro _ e; have _hk : Frame _ _ _ _ := e)
    | (intro _ e; cases e)
    | dsimp only
    | (dsimp +zetaDelta only))

theorem State.indexRead_fr {fw fb : Nat} {s0 : State} (s : State) (c : Cmd) (chip off n : Nat) (hK : Frame fw fb s0 s) (hfw : Sub 536870912 fw := by exact Sub.within hfw rfl) (hfb : Sub 512 fb := by exact Sub.within hfb rfl) : Frame fw fb s0 (State.indexRead s c chip off n).2.1 := by
  unfold State.indexRead
  repeat' (first
    | with_reducible assumption
    | with_reducible apply State.farRange_fr
    | (with_reducible apply State.farRange_fr_at; with_reducible assumption)
    | (with_reducible refine Frame.ite ?_ ?_)
    | ((with_reducible apply Sub.within hfw); exact rfl)
    | ((with_reducible apply Sub.within hfb); exact rfl)
    | ((with_reducible apply Mixed.of); exact rfl)
    | (apply hfb.bit (i := 9) rfl)
    | (extract_lets)
    | split
    | (intro _ _ _)
    | (intro _ e; have _hk : Frame _ _ _ _ := e)
    | (intro _ e; cases e)
    | dsimp only
    | (dsimp +zetaDelta only))

theorem State.indexRead_fr_at {fw fb : Nat} {s0 : State} {u : State} {r0} {r2} {s : State} {c : Cmd} {chip off n : Nat} (h_eq : State.indexRead s c chip off n = (r0, u, r2)) (hK : Frame fw fb s0 s) (hfw : Sub 536870912 fw := by exact Sub.within hfw rfl) (hfb : Sub 512 fb := by exact Sub.within hfb rfl) : Frame fw fb s0 u := by
  have := State.indexRead_fr s c chip off n hK
  rw [h_eq] at this
  exact this

theorem State.readBuckets_fr {fw fb : Nat} {s0 : State} (s : State) (c : Cmd) (hs : List Nat) (hK : Frame fw fb s0 s) (hfw : Sub 536870912 fw := by exact Sub.within hfw rfl) (hfb : Sub 512 fb := by exact Sub.within hfb rfl) : Frame fw fb s0 (State.readBuckets s c hs).2.1 := by
  refine foldl_inv (P := fun a : List IndexRec × State × Bool => Frame fw fb s0 a.2.1) (fun a p ha => ?_) _ hK
  have hr : Frame fw fb s0 (a.2.1.indexRead c (a.2.1.bucketAt p.1).1 (a.2.1.bucketAt p.1).2 64).2.1 := State.indexRead_fr _ _ _ _ _ ha
  dsimp only
  split
  · exact hr
  · split
    · exact hr
    · exact hr

theorem State.readBuckets_fr_at {fw fb : Nat} {s0 u : State} {s : State} {c : Cmd} {hs : List Nat} {r q} (e : State.readBuckets s c hs = (r, u, q)) (hK : Frame fw fb s0 s) (hfw : Sub 536870912 fw := by exact Sub.within hfw rfl) (hfb : Sub 512 fb := by exact Sub.within hfb rfl) : Frame fw fb s0 u := by
  have := State.readBuckets_fr s c hs hK
  rw [e] at this
  exact this

theorem walkTree_fr {fw fb : Nat} {s0 : State} (c : Cmd) (chip seed fuel head first node i : Nat) (blocks : List (List Nat)) (s : State) (acc : List IndexRec)
    (hK : Frame fw fb s0 s) (hfw : Sub 536870912 fw := by exact Sub.within hfw rfl) (hfb : Sub 512 fb := by exact Sub.within hfb rfl) : Frame fw fb s0 (walkTree c chip seed fuel head first node i blocks s acc).2.1 := by
  induction fuel generalizing head first node i blocks s acc with
  | zero => exact hK
  | succ fuel ih =>
    unfold walkTree
    split
    · exact hK
    · split
      · exact hK
      · extract_lets r w x
        have hr : Frame fw fb s0 r.2.1 := State.indexRead_fr _ _ _ _ _ hK
        split
        · exact hr
        · split
          · exact ih _ _ _ _ _ _ _ hr
          · exact ih _ _ _ _ _ _ _ hr

theorem State.readTree_fr {fw fb : Nat} {s0 : State} (s : State) (c : Cmd) (seed : Nat) (blocks : List (List Nat)) (hK : Frame fw fb s0 s) (hfw : Sub 536870912 fw := by exact Sub.within hfw rfl) (hfb : Sub 512 fb := by exact Sub.within hfb rfl) : Frame fw fb s0 (State.readTree s c seed blocks).2.1 := by
  unfold State.readTree
  repeat' (first
    | with_reducible assumption
    | with_reducible apply State.indexRead_fr
    | (with_reducible apply State.indexRead_fr_at; with_reducible assumption)
    | with_reducible apply walkTree_fr
    | (with_reducible apply walkTree_fr_at; with_reducible assumption)
    | (with_reducible refine Frame.ite ?_ ?_)
    | ((with_reducible apply Sub.within hfw); exact rfl)
    | ((with_reducible apply Sub.within hfb); exact rfl)
    | ((with_reducible apply Mixed.of); exact rfl)
    | (apply hfb.bit (i := 9) rfl)
    | (extract_lets)
    | split
    | (intro _ _ _)
    | (intro _ e; have _hk : Frame _ _ _ _ := e)
    | (intro _ e; cases e)
    | dsimp only
    | (dsimp +zetaDelta only))

theorem State.readTree_fr_at {fw fb : Nat} {s0 : State} {u : State} {r0} {r2} {s : State} {c : Cmd} {seed : Nat} {blocks : List (List Nat)} (h_eq : State.readTree s c seed blocks = (r0, u, r2)) (hK : Frame fw fb s0 s) (hfw : Sub 536870912 fw := by exact Sub.within hfw rfl) (hfb : Sub 512 fb := by exact Sub.within hfb rfl) : Frame fw fb s0 u := by
  have := State.readTree_fr s c seed blocks hK
  rw [h_eq] at this
  exact this

theorem State.readIndex_fr {fw fb : Nat} {s0 : State} (s : State) (c : Cmd) (seed : Nat) (blocks : List (List Nat)) (hK : Frame fw fb s0 s) (hfw : Sub 536870912 fw := by exact Sub.within hfw rfl) (hfb : Sub 512 fb := by exact Sub.within hfb rfl) : Frame fw fb s0 (State.readIndex s c seed blocks).2.1 := by
  unfold State.readIndex
  repeat' (first
    | with_reducible assumption
    | with_reducible apply State.readBuckets_fr
    | (with_reducible apply State.readBuckets_fr_at; with_reducible assumption)
    | with_reducible apply State.readTree_fr
    | (with_reducible apply State.readTree_fr_at; with_reducible assumption)
    | (with_reducible refine Frame.ite ?_ ?_)
    | ((with_reducible apply Sub.within hfw); exact rfl)
    | ((with_reducible apply Sub.within hfb); exact rfl)
    | ((with_reducible apply Mixed.of); exact rfl)
    | (apply hfb.bit (i := 9) rfl)
    | (extract_lets)
    | split
    | (intro _ _ _)
    | (intro _ e; have _hk : Frame _ _ _ _ := e)
    | (intro _ e; cases e)
    | dsimp only
    | (dsimp +zetaDelta only))

theorem State.readIndex_fr_at {fw fb : Nat} {s0 : State} {u : State} {r0} {r2} {s : State} {c : Cmd} {seed : Nat} {blocks : List (List Nat)} (h_eq : State.readIndex s c seed blocks = (r0, u, r2)) (hK : Frame fw fb s0 s) (hfw : Sub 536870912 fw := by exact Sub.within hfw rfl) (hfb : Sub 512 fb := by exact Sub.within hfb rfl) : Frame fw fb s0 u := by
  have := State.readIndex_fr s c seed blocks hK
  rw [h_eq] at this
  exact this

theorem State.indexWrite_fr {fw fb : Nat} {s0 : State} (s : State) (c : Cmd) (chip off v : Nat) (hK : Frame fw fb s0 s) (hfw : Sub 536870920 fw := by exact Sub.within hfw rfl) (hfb : Sub 512 fb := by exact Sub.within hfb rfl) : Frame fw fb s0 (State.indexWrite s c chip off v) := by
  unfold State.indexWrite
  repeat' (first
    | with_reducible assumption
    | with_reducible apply State.remoteAtomic_fr
    | with_reducible apply State.store_fr
    | (with_reducible refine Frame.ite ?_ ?_)
    | ((with_reducible apply Sub.within hfw); exact rfl)
    | ((with_reducible apply Sub.within hfb); exact rfl)
    | ((with_reducible apply Mixed.of); exact rfl)
    | (apply hfb.bit (i := 9) rfl)
    | (extract_lets)
    | split
    | (intro _ _ _)
    | (intro _ e; have _hk : Frame _ _ _ _ := e)
    | (intro _ e; cases e)
    | dsimp only
    | (dsimp +zetaDelta only))

theorem State.noteMatch_fr {fw fb : Nat} {s0 : State} (s : State) (e block time : Nat) (hK : Frame fw fb s0 s) (hfw : Sub 4398046511104 fw := by exact Sub.within hfw rfl) : Frame fw fb s0 (State.noteMatch s e block time) := by
  have k0 : ∀ (t : State) x0, Frame fw fb s0 t → Frame fw fb s0 { t with entries := x0 } := fun t x0 ht => Frame.upd ht hfw rfl rfl ⟨rfl, rfl, rfl⟩
  unfold State.noteMatch
  repeat' (first
    | with_reducible assumption
    | (with_reducible refine Frame.ite ?_ ?_)
    | ((with_reducible apply Sub.within hfw); exact rfl)
    | ((with_reducible apply Sub.within hfb); exact rfl)
    | ((with_reducible apply Mixed.of); exact rfl)
    | (extract_lets)
    | (fail_if_no_progress (with_reducible refine k0 _ _ ?_))
    | split
    | (intro _ _ _)
    | (intro _ e; have _hk : Frame _ _ _ _ := e)
    | (intro _ e; cases e)
    | dsimp only
    | (dsimp +zetaDelta only)
    | (fail_if_no_progress ((with_reducible refine Frame.upd ?_ hfw ?_ rfl ⟨rfl, rfl, rfl⟩); rotate_left; exact rfl)))

theorem State.matchedNow_fr {fw fb : Nat} {s0 : State} (s : State) (c : Cmd) (recs : List IndexRec) (hK : Frame fw fb s0 s) (hfw : Sub 4398583382024 fw := by exact Sub.within hfw rfl) (hfb : Sub 512 fb := by exact Sub.within hfb rfl) : Frame fw fb s0 (State.matchedNow s c recs) := by
  unfold State.matchedNow
  repeat' (first
    | with_reducible assumption
    | with_reducible apply State.indexWrite_fr
    | with_reducible apply State.noteMatch_fr
    | (with_reducible refine Frame.foldl ?_ ?_)
    | (with_reducible refine Frame.foldr ?_ ?_)
    | (with_reducible refine Frame.ite ?_ ?_)
    | ((with_reducible apply Sub.within hfw); exact rfl)
    | ((with_reducible apply Sub.within hfb); exact rfl)
    | ((with_reducible apply Mixed.of); exact rfl)
    | (apply hfb.bit (i := 9) rfl)
    | (extract_lets)
    | split
    | (intro _ _ _)
    | (intro _ e; have _hk : Frame _ _ _ _ := e)
    | (intro _ e; cases e)
    | dsimp only
    | (dsimp +zetaDelta only))

theorem State.attach_fr {fw fb : Nat} {s0 : State} (s : State) (n e k : Nat) (hK : Frame fw fb s0 s) (hfw : Sub 549755813888 fw := by exact Sub.within hfw rfl) (hfb : Sub 256 fb := by exact Sub.within hfb rfl) : Frame fw fb s0 (State.attach s n e k) := by
  unfold State.attach
  repeat' (first
    | with_reducible assumption
    | with_reducible apply State.bump_fr
    | with_reducible apply State.serveRegs_fr
    | with_reducible apply State.setHand_fr
    | with_reducible apply State.wr_fr
    | (with_reducible refine Frame.ite ?_ ?_)
    | ((with_reducible apply Sub.within hfw); exact rfl)
    | ((with_reducible apply Sub.within hfb); exact rfl)
    | ((with_reducible apply Mixed.of); exact rfl)
    | (apply hfb.bit (i := 8) rfl)
    | (dsimp only [State.wrs, State.regs0, List.foldl])
    | (extract_lets)
    | split
    | (intro _ _ _)
    | (intro _ e; have _hk : Frame _ _ _ _ := e)
    | (intro _ e; cases e)
    | dsimp only
    | (dsimp +zetaDelta only))

theorem prefixLookup_fr {fw fb : Nat} {s0 : State} (s : State) (c : Cmd) (hK : Frame fw fb s0 s) (hfw : Sub 2361183246383281342986 fw := by exact Sub.within hfw rfl) (hfb : Sub 780 fb := by exact Sub.within hfb rfl) : Frame fw fb s0 (prefixLookup s c) := by
  have k0 : ∀ (t : State) x0, Frame fw fb s0 t → Frame fw fb s0 { t with freeCtr := x0 } := fun t x0 ht => Frame.upd ht hfw rfl rfl ⟨rfl, rfl, rfl⟩
  unfold prefixLookup
  repeat' (first
    | with_reducible assumption
    | with_reducible apply State.attach_fr
    | with_reducible apply State.bump_fr
    | with_reducible apply State.doneAfter_fr
    | with_reducible apply State.matchedNow_fr
    | with_reducible apply State.readIndex_fr
    | (with_reducible apply State.readIndex_fr_at; with_reducible assumption)
    | with_reducible apply State.took_fr
    | with_reducible apply State.withBytes_fr
    | (with_reducible refine Frame.getD ?_ ?_)
    | (with_reducible refine Frame.ite ?_ ?_)
    | ((with_reducible apply Sub.within hfw); exact rfl)
    | ((with_reducible apply Sub.within hfb); exact rfl)
    | ((with_reducible apply Mixed.of); exact rfl)
    | (apply hfb.bit (i := 2) rfl)
    | (apply hfb.bit (i := 3) rfl)
    | (apply hfb.bit (i := 8) rfl)
    | (apply hfb.bit (i := 9) rfl)
    | (extract_lets)
    | (fail_if_no_progress (with_reducible refine k0 _ _ ?_))
    | split
    | (intro _ _ _)
    | (intro _ e; have _hk : Frame _ _ _ _ := e)
    | (intro _ e; cases e)
    | dsimp only
    | (dsimp +zetaDelta only)
    | (fail_if_no_progress ((with_reducible refine Frame.upd ?_ hfw ?_ rfl ⟨rfl, rfl, rfl⟩); rotate_left; exact rfl)))

theorem execPrefixLookup_fr {fw fb : Nat} {s0 : State} (k : Nat) (s : State) (hK : Frame fw fb s0 s) (hfw : Sub 2361183246383281342986 fw := by exact Sub.within hfw rfl) (hfb : Sub 780 fb := by exact Sub.within hfb rfl) : ∀ u, execPrefixLookup k s = .next u → Frame fw fb s0 u := by
  unfold execPrefixLookup
  repeat' (first
    | with_reducible assumption
    | with_reducible apply State.runHand_fr
    | with_reducible apply prefixLookup_fr
    | (with_reducible refine Frame.ite ?_ ?_)
    | ((with_reducible apply Sub.within hfw); exact rfl)
    | ((with_reducible apply Sub.within hfb); exact rfl)
    | ((with_reducible apply Mixed.of); exact rfl)
    | (apply hfb.bit (i := 2) rfl)
    | (apply hfb.bit (i := 3) rfl)
    | (apply hfb.bit (i := 8) rfl)
    | (apply hfb.bit (i := 9) rfl)
    | (extract_lets)
    | split
    | (intro _ _ _)
    | (intro _ e; have _hk : Frame _ _ _ _ := e)
    | (intro _ e; cases e)
    | dsimp only
    | (dsimp +zetaDelta only))

theorem entrySpans_fr {fw fb : Nat} {s0 : State} (c e base l kind : Nat) (fuel : Nat) (i : Nat) (s : State) (hK : Frame fw fb s0 s) (hfw : Sub 25362442 fw := by exact Sub.within hfw rfl) (hfb : Sub 16 fb := by exact Sub.within hfb rfl) : ∀ u, entrySpans c e base l kind fuel i s = some u → Frame fw fb s0 u := by
  induction fuel generalizing i s with
  | zero =>
    have k0 : ∀ (t : State) x0, Frame fw fb s0 t → Frame fw fb s0 { t with ranges := x0 } := fun t x0 ht => Frame.upd ht hfw rfl rfl ⟨rfl, rfl, rfl⟩
    unfold entrySpans
    repeat' (first
      | with_reducible assumption
      | (with_reducible refine allocPages_fr _ _ _ _ ?_ ?_ ?_)
      | (with_reducible refine allocPages_fr _ _ _ _ _ _ ?_ ?_ ?_)
      | (with_reducible apply allocPages_fr_at; with_reducible assumption)
      | (with_reducible refine Frame.ite ?_ ?_)
      | ((with_reducible apply Sub.within hfw); exact rfl)
      | ((with_reducible apply Sub.within hfb); exact rfl)
      | ((with_reducible apply Mixed.of); exact rfl)
      | (apply hfb.bit (i := 4) rfl)
      | (extract_lets)
      | (fail_if_no_progress (with_reducible refine k0 _ _ ?_))
      | split
      | (intro _ _ _)
      | (intro _ e; have _hk : Frame _ _ _ _ := e)
      | (intro _ e; cases e)
      | dsimp only
      | (dsimp +zetaDelta only)
      | (fail_if_no_progress ((with_reducible refine Frame.upd ?_ hfw ?_ rfl ⟨rfl, rfl, rfl⟩); rotate_left; exact rfl)))
  | succ fuel ih =>
    have k0 : ∀ (t : State) x0, Frame fw fb s0 t → Frame fw fb s0 { t with ranges := x0 } := fun t x0 ht => Frame.upd ht hfw rfl rfl ⟨rfl, rfl, rfl⟩
    unfold entrySpans
    repeat' (first
      | with_reducible assumption
      | (with_reducible refine allocPages_fr _ _ _ _ ?_ ?_ ?_)
      | (with_reducible refine ih _ _ ?_)
      | (with_reducible refine allocPages_fr _ _ _ _ _ _ ?_ ?_ ?_)
      | (with_reducible apply allocPages_fr_at; with_reducible assumption)
      | (with_reducible refine Frame.ite ?_ ?_)
      | ((with_reducible apply Sub.within hfw); exact rfl)
      | ((with_reducible apply Sub.within hfb); exact rfl)
      | ((with_reducible apply Mixed.of); exact rfl)
      | (apply hfb.bit (i := 4) rfl)
      | (extract_lets)
      | (fail_if_no_progress (with_reducible refine k0 _ _ ?_))
      | split
      | (intro _ _ _)
      | (intro _ e; have _hk : Frame _ _ _ _ := e)
      | (intro _ e; cases e)
      | dsimp only
      | (dsimp +zetaDelta only)
      | (fail_if_no_progress ((with_reducible refine Frame.upd ?_ hfw ?_ rfl ⟨rfl, rfl, rfl⟩); rotate_left; exact rfl)))

theorem entrySpans_fr_at {fw fb : Nat} {s0 u : State} {c e base l kind : Nat} {fuel : Nat} {i : Nat} {s : State} (he : entrySpans c e base l kind fuel i s = some u) (hK : Frame fw fb s0 s) (hfw : Sub 25362442 fw := by exact Sub.within hfw rfl) (hfb : Sub 16 fb := by exact Sub.within hfb rfl) : Frame fw fb s0 u := by
  have := entrySpans_fr c e base l kind fuel i s hK
  exact this u he

theorem State.copyLayer_fr {fw fb : Nat} {s0 : State} (s : State) (c src dst l layer lo hi : Nat) (hK : Frame fw fb s0 s) (hfw : Sub 8 fw := by exact Sub.within hfw rfl) : Frame fw fb s0 (State.copyLayer s c src dst l layer lo hi) := by
  unfold State.copyLayer
  repeat' (first
    | with_reducible assumption
    | with_reducible apply State.copy_fr
    | (with_reducible refine Frame.foldl ?_ ?_)
    | (with_reducible refine Frame.foldr ?_ ?_)
    | (with_reducible refine Frame.ite ?_ ?_)
    | ((with_reducible apply Sub.within hfw); exact rfl)
    | ((with_reducible apply Sub.within hfb); exact rfl)
    | ((with_reducible apply Mixed.of); exact rfl)
    | (extract_lets)
    | split
    | (intro _ _ _)
    | (intro _ e; have _hk : Frame _ _ _ _ := e)
    | (intro _ e; cases e)
    | dsimp only
    | (dsimp +zetaDelta only))

theorem State.copyCache_fr {fw fb : Nat} {s0 : State} (s : State) (c own pre p dst l hi : Nat) (hK : Frame fw fb s0 s) (hfw : Sub 8 fw := by exact Sub.within hfw rfl) : Frame fw fb s0 (State.copyCache s c own pre p dst l hi) := by
  unfold State.copyCache
  repeat' (first
    | with_reducible assumption
    | with_reducible apply State.copyLayer_fr
    | (with_reducible refine Frame.foldl ?_ ?_)
    | (with_reducible refine Frame.foldr ?_ ?_)
    | (with_reducible refine Frame.ite ?_ ?_)
    | ((with_reducible apply Sub.within hfw); exact rfl)
    | ((with_reducible apply Sub.within hfb); exact rfl)
    | ((with_reducible apply Mixed.of); exact rfl)
    | (extract_lets)
    | split
    | (intro _ _ _)
    | (intro _ e; have _hk : Frame _ _ _ _ := e)
    | (intro _ e; cases e)
    | dsimp only
    | (dsimp +zetaDelta only))

theorem State.makeEntry_fr {fw fb : Nat} {s0 : State} (s : State) (c : Cmd) (e variant slot : Nat) (tokens : List Nat) (hK : Frame fw fb s0 s) (hfw : Sub 4398071873546 fw := by exact Sub.within hfw rfl) (hfb : Sub 272 fb := by exact Sub.within hfb rfl) : ∀ u, State.makeEntry s c e variant slot tokens = some u → Frame fw fb s0 u := by
  have k0 : ∀ (t : State) x0, Frame fw fb s0 t → Frame fw fb s0 { t with entries := x0 } := fun t x0 ht => Frame.upd ht hfw rfl rfl ⟨rfl, rfl, rfl⟩
  unfold State.makeEntry
  repeat' (first
    | with_reducible assumption
    | with_reducible apply State.copyCache_fr
    | with_reducible apply State.serveRegs_fr
    | with_reducible apply State.took_fr
    | (with_reducible refine entrySpans_fr _ _ _ _ _ ?_ ?_ ?_)
    | (with_reducible apply entrySpans_fr_at; with_reducible assumption)
    | (with_reducible refine Frame.ite ?_ ?_)
    | ((with_reducible apply Sub.within hfw); exact rfl)
    | ((with_reducible apply Sub.within hfb); exact rfl)
    | ((with_reducible apply Mixed.of); exact rfl)
    | (apply hfb.bit (i := 4) rfl)
    | (apply hfb.bit (i := 8) rfl)
    | (extract_lets)
    | (fail_if_no_progress (with_reducible refine k0 _ _ ?_))
    | split
    | (intro _ _ _)
    | (intro _ e; have _hk : Frame _ _ _ _ := e)
    | (intro _ e; cases e)
    | dsimp only
    | (dsimp +zetaDelta only)
    | (fail_if_no_progress ((with_reducible refine Frame.upd ?_ hfw ?_ rfl ⟨rfl, rfl, rfl⟩); rotate_left; exact rfl)))

theorem State.makeEntry_fr_at {fw fb : Nat} {s0 : State} {u : State} {s : State} {c : Cmd} {e variant slot : Nat} {tokens : List Nat} (h_eq : State.makeEntry s c e variant slot tokens = some u) (hK : Frame fw fb s0 s) (hfw : Sub 4398071873546 fw := by exact Sub.within hfw rfl) (hfb : Sub 272 fb := by exact Sub.within hfb rfl) : Frame fw fb s0 u := by
  have := State.makeEntry_fr s c e variant slot tokens hK
  exact this u h_eq

/-- What `Frame` says of the state that a `Plan` holds. -/
def Plan.fr (fw fb : Nat) (s0 : State) : Plan → Prop
  | .wait s => Frame fw fb s0 s
  | .skip s => Frame fw fb s0 s
  | .go s _ => Frame fw fb s0 s

theorem Plan.fr_wait {fw fb : Nat} {s0 : State} {t : State} (h : Frame fw fb s0 t) : Plan.fr fw fb s0 (.wait t) := h

theorem Plan.fr_skip {fw fb : Nat} {s0 : State} {t : State} (h : Frame fw fb s0 t) : Plan.fr fw fb s0 (.skip t) := h

theorem Plan.fr_go {fw fb : Nat} {s0 : State} {t : State} {x1} (h : Frame fw fb s0 t) : Plan.fr fw fb s0 (.go t x1) := h

theorem State.bucketPlan_fr {fw fb : Nat} {s0 : State} (s : State) (c : Cmd) (block h w : Nat) (hK : Frame fw fb s0 s) (hfw : Sub 536870912 fw := by exact Sub.within hfw rfl) (hfb : Sub 512 fb := by exact Sub.within hfb rfl) : (State.bucketPlan s c block h w).fr fw fb s0 := by
  unfold State.bucketPlan
  repeat' (first
    | with_reducible assumption
    | with_reducible apply State.indexRead_fr
    | (with_reducible apply State.indexRead_fr_at; with_reducible assumption)
    | with_reducible apply Plan.fr_wait
    | with_reducible apply Plan.fr_skip
    | with_reducible apply Plan.fr_go
    | (with_reducible refine Frame.ite ?_ ?_)
    | ((with_reducible apply Sub.within hfw); exact rfl)
    | ((with_reducible apply Sub.within hfb); exact rfl)
    | ((with_reducible apply Mixed.of); exact rfl)
    | (apply hfb.bit (i := 9) rfl)
    | (extract_lets)
    | split
    | (intro _ _ _)
    | (intro _ e; have _hk : Frame _ _ _ _ := e)
    | (intro _ e; cases e)
    | dsimp only
    | (dsimp +zetaDelta only))

theorem State.bucketPlan_fr_wait {fw fb : Nat} {s0 : State} {u : State} {s : State} {c : Cmd} {block h w : Nat} (h_eq : State.bucketPlan s c block h w = .wait u) (hK : Frame fw fb s0 s) (hfw : Sub 536870912 fw := by exact Sub.within hfw rfl) (hfb : Sub 512 fb := by exact Sub.within hfb rfl) : Frame fw fb s0 u := by
  have := State.bucketPlan_fr s c block h w hK
  rw [h_eq] at this
  exact this

theorem State.bucketPlan_fr_skip {fw fb : Nat} {s0 : State} {u : State} {s : State} {c : Cmd} {block h w : Nat} (h_eq : State.bucketPlan s c block h w = .skip u) (hK : Frame fw fb s0 s) (hfw : Sub 536870912 fw := by exact Sub.within hfw rfl) (hfb : Sub 512 fb := by exact Sub.within hfb rfl) : Frame fw fb s0 u := by
  have := State.bucketPlan_fr s c block h w hK
  rw [h_eq] at this
  exact this

theorem State.bucketPlan_fr_go {fw fb : Nat} {s0 : State} {u : State} {q} {s : State} {c : Cmd} {block h w : Nat} (h_eq : State.bucketPlan s c block h w = .go u q) (hK : Frame fw fb s0 s) (hfw : Sub 536870912 fw := by exact Sub.within hfw rfl) (hfb : Sub 512 fb := by exact Sub.within hfb rfl) : Frame fw fb s0 u := by
  have := State.bucketPlan_fr s c block h w hK
  rw [h_eq] at this
  exact this

theorem State.treePlan_fr {fw fb : Nat} {s0 : State} (s : State) (c : Cmd) (seed block w : Nat) (blocks : List (List Nat)) (hK : Frame fw fb s0 s) (hfw : Sub 8796629893120 fw := by exact Sub.within hfw rfl) (hfb : Sub 512 fb := by exact Sub.within hfb rfl) : (State.treePlan s c seed block w blocks).fr fw fb s0 := by
  have k0 : ∀ (t : State) x0, Frame fw fb s0 t → Frame fw fb s0 { t with treeNodes := x0 } := fun t x0 ht => Frame.upd ht hfw rfl rfl ⟨rfl, rfl, rfl⟩
  unfold State.treePlan
  repeat' (first
    | with_reducible assumption
    | with_reducible apply State.readTree_fr
    | (with_reducible apply State.readTree_fr_at; with_reducible assumption)
    | with_reducible apply Plan.fr_wait
    | with_reducible apply Plan.fr_skip
    | with_reducible apply Plan.fr_go
    | (with_reducible refine Frame.getD ?_ ?_)
    | (with_reducible refine Frame.ite ?_ ?_)
    | ((with_reducible apply Sub.within hfw); exact rfl)
    | ((with_reducible apply Sub.within hfb); exact rfl)
    | ((with_reducible apply Mixed.of); exact rfl)
    | (apply hfb.bit (i := 9) rfl)
    | (extract_lets)
    | (fail_if_no_progress (with_reducible refine k0 _ _ ?_))
    | split
    | (intro _ _ _)
    | (intro _ e; have _hk : Frame _ _ _ _ := e)
    | (intro _ e; cases e)
    | dsimp only
    | (dsimp +zetaDelta only)
    | (fail_if_no_progress ((with_reducible refine Frame.upd ?_ hfw ?_ rfl ⟨rfl, rfl, rfl⟩); rotate_left; exact rfl)))

theorem State.treePlan_fr_wait {fw fb : Nat} {s0 : State} {u : State} {s : State} {c : Cmd} {seed block w : Nat} {blocks : List (List Nat)} (h_eq : State.treePlan s c seed block w blocks = .wait u) (hK : Frame fw fb s0 s) (hfw : Sub 8796629893120 fw := by exact Sub.within hfw rfl) (hfb : Sub 512 fb := by exact Sub.within hfb rfl) : Frame fw fb s0 u := by
  have := State.treePlan_fr s c seed block w blocks hK
  rw [h_eq] at this
  exact this

theorem State.treePlan_fr_skip {fw fb : Nat} {s0 : State} {u : State} {s : State} {c : Cmd} {seed block w : Nat} {blocks : List (List Nat)} (h_eq : State.treePlan s c seed block w blocks = .skip u) (hK : Frame fw fb s0 s) (hfw : Sub 8796629893120 fw := by exact Sub.within hfw rfl) (hfb : Sub 512 fb := by exact Sub.within hfb rfl) : Frame fw fb s0 u := by
  have := State.treePlan_fr s c seed block w blocks hK
  rw [h_eq] at this
  exact this

theorem State.treePlan_fr_go {fw fb : Nat} {s0 : State} {u : State} {q} {s : State} {c : Cmd} {seed block w : Nat} {blocks : List (List Nat)} (h_eq : State.treePlan s c seed block w blocks = .go u q) (hK : Frame fw fb s0 s) (hfw : Sub 8796629893120 fw := by exact Sub.within hfw rfl) (hfb : Sub 512 fb := by exact Sub.within hfb rfl) : Frame fw fb s0 u := by
  have := State.treePlan_fr s c seed block w blocks hK
  rw [h_eq] at this
  exact this

theorem State.blockPlan_fr {fw fb : Nat} {s0 : State} (s : State) (c : Cmd) (seed block w : Nat) (blocks : List (List Nat)) (hK : Frame fw fb s0 s) (hfw : Sub 8796629893120 fw := by exact Sub.within hfw rfl) (hfb : Sub 512 fb := by exact Sub.within hfb rfl) : (State.blockPlan s c seed block w blocks).fr fw fb s0 := by
  unfold State.blockPlan
  repeat' (first
    | with_reducible assumption
    | with_reducible apply State.bucketPlan_fr
    | (with_reducible apply State.bucketPlan_fr_wait; with_reducible assumption)
    | (with_reducible apply State.bucketPlan_fr_skip; with_reducible assumption)
    | (with_reducible apply State.bucketPlan_fr_go; with_reducible assumption)
    | with_reducible apply State.treePlan_fr
    | (with_reducible apply State.treePlan_fr_wait; with_reducible assumption)
    | (with_reducible apply State.treePlan_fr_skip; with_reducible assumption)
    | (with_reducible apply State.treePlan_fr_go; with_reducible assumption)
    | with_reducible apply Plan.fr_wait
    | with_reducible apply Plan.fr_skip
    | with_reducible apply Plan.fr_go
    | (with_reducible refine Frame.getD ?_ ?_)
    | (with_reducible refine Frame.ite ?_ ?_)
    | ((with_reducible apply Sub.within hfw); exact rfl)
    | ((with_reducible apply Sub.within hfb); exact rfl)
    | ((with_reducible apply Mixed.of); exact rfl)
    | (apply hfb.bit (i := 9) rfl)
    | (extract_lets)
    | split
    | (intro _ _ _)
    | (intro _ e; have _hk : Frame _ _ _ _ := e)
    | (intro _ e; cases e)
    | dsimp only
    | (dsimp +zetaDelta only))

theorem State.blockPlan_fr_wait {fw fb : Nat} {s0 : State} {u : State} {s : State} {c : Cmd} {seed block w : Nat} {blocks : List (List Nat)} (h_eq : State.blockPlan s c seed block w blocks = .wait u) (hK : Frame fw fb s0 s) (hfw : Sub 8796629893120 fw := by exact Sub.within hfw rfl) (hfb : Sub 512 fb := by exact Sub.within hfb rfl) : Frame fw fb s0 u := by
  have := State.blockPlan_fr s c seed block w blocks hK
  rw [h_eq] at this
  exact this

theorem State.blockPlan_fr_skip {fw fb : Nat} {s0 : State} {u : State} {s : State} {c : Cmd} {seed block w : Nat} {blocks : List (List Nat)} (h_eq : State.blockPlan s c seed block w blocks = .skip u) (hK : Frame fw fb s0 s) (hfw : Sub 8796629893120 fw := by exact Sub.within hfw rfl) (hfb : Sub 512 fb := by exact Sub.within hfb rfl) : Frame fw fb s0 u := by
  have := State.blockPlan_fr s c seed block w blocks hK
  rw [h_eq] at this
  exact this

theorem State.blockPlan_fr_go {fw fb : Nat} {s0 : State} {u : State} {q} {s : State} {c : Cmd} {seed block w : Nat} {blocks : List (List Nat)} (h_eq : State.blockPlan s c seed block w blocks = .go u q) (hK : Frame fw fb s0 s) (hfw : Sub 8796629893120 fw := by exact Sub.within hfw rfl) (hfb : Sub 512 fb := by exact Sub.within hfb rfl) : Frame fw fb s0 u := by
  have := State.blockPlan_fr s c seed block w blocks hK
  rw [h_eq] at this
  exact this

theorem insertOn_fr {fw fb : Nat} {s0 : State} (c : Cmd) (seed : Nat) (blocks : List (List Nat)) (e bytes : Nat) (fuel : Nat) (i : Nat) (skips : Nat) (s : State) (hK : Frame fw fb s0 s) (hfw : Sub 13194676406794 fw := by exact Sub.within hfw rfl) (hfb : Sub 768 fb := by exact Sub.within hfb rfl) : Frame fw fb s0 (insertOn c seed blocks e bytes fuel i skips s) := by
  induction fuel generalizing i skips s with
  | zero => exact hK
  | succ fuel ih =>
    unfold insertOn
    extract_lets gen aux tries who next
    refine Frame.ite (State.doneAfter_fr _ _ _ _ _ (State.cmdMap_fr _ _ _ (State.bump_fr _ _ _ (State.dropGot_fr _ _ hK) (hfb.bit (i := 8) rfl)))) ?_
    have hn : ∀ t k, Frame fw fb s0 t → Frame fw fb s0 (next t k) := fun t k ht => ih _ _ _ (State.cmdMap_fr _ _ _ (State.took_fr _ (State.dropGot_fr _ _ ht)))
    repeat' (first
      | with_reducible assumption
      | with_reducible apply State.blockPlan_fr
      | (with_reducible apply State.blockPlan_fr_wait; with_reducible assumption)
      | (with_reducible apply State.blockPlan_fr_skip; with_reducible assumption)
      | (with_reducible apply State.blockPlan_fr_go; with_reducible assumption)
      | with_reducible apply State.bump_fr
      | with_reducible apply State.cmdMap_fr
      | with_reducible apply State.doneAfter_fr
      | with_reducible apply State.dropGot_fr
      | with_reducible apply State.indexWrite_fr
      | with_reducible apply State.noteMatch_fr
      | with_reducible apply State.remoteAtomic_fr
      | with_reducible apply State.remoteWrite_fr
      | with_reducible apply State.store_fr
      | with_reducible apply State.storeBytes_fr
      | with_reducible apply State.took_fr
      | (with_reducible apply hn)
      | (with_reducible refine Frame.foldl ?_ ?_)
      | (with_reducible refine Frame.foldr ?_ ?_)
      | (with_reducible refine Frame.getD ?_ ?_)
      | (with_reducible refine Frame.ite ?_ ?_)
      | ((with_reducible apply Sub.within hfw); exact rfl)
      | ((with_reducible apply Sub.within hfb); exact rfl)
      | ((with_reducible apply Mixed.of); exact rfl)
      | (apply hfb.bit (i := 8) rfl)
      | (apply hfb.bit (i := 9) rfl)
      | (extract_lets)
      | split
      | (intro _ _ _)
      | (intro _ e; have _hk : Frame _ _ _ _ := e)
      | (intro _ e; cases e)
      | dsimp only
      | (dsimp +zetaDelta only))

theorem prefixInsert_fr {fw fb : Nat} {s0 : State} (s : State) (c : Cmd) (hK : Frame fw fb s0 s) (hfw : Sub 2361183254629627136522 fw := by exact Sub.within hfw rfl) (hfb : Sub 796 fb := by exact Sub.within hfb rfl) : Frame fw fb s0 (prefixInsert s c) := by
  unfold prefixInsert
  repeat' (first
    | with_reducible assumption
    | with_reducible apply State.doneWith_fr
    | with_reducible apply State.dropGot_fr
    | with_reducible apply State.failWith_fr
    | (with_reducible refine State.makeEntry_fr _ _ _ _ _ _ ?_ ?_ ?_)
    | (with_reducible apply State.makeEntry_fr_at; with_reducible assumption)
    | with_reducible apply State.start_fr
    | with_reducible apply State.took_fr
    | with_reducible apply State.withBytes_fr
    | with_reducible apply insertOn_fr
    | (with_reducible refine Frame.ite ?_ ?_)
    | ((with_reducible apply Sub.within hfw); exact rfl)
    | ((with_reducible apply Sub.within hfb); exact rfl)
    | ((with_reducible apply Mixed.of); exact rfl)
    | (apply hfb.bit (i := 2) rfl)
    | (apply hfb.bit (i := 3) rfl)
    | (apply hfb.bit (i := 4) rfl)
    | (apply hfb.bit (i := 8) rfl)
    | (apply hfb.bit (i := 9) rfl)
    | (extract_lets)
    | split
    | (intro _ _ _)
    | (intro _ e; have _hk : Frame _ _ _ _ := e)
    | (intro _ e; cases e)
    | dsimp only
    | (dsimp +zetaDelta only))

theorem prefixGoOn_fr {fw fb : Nat} {s0 : State} (k : Nat) (s : State) (hK : Frame fw fb s0 s) (hfw : Sub 13194676406794 fw := by exact Sub.within hfw rfl) (hfb : Sub 768 fb := by exact Sub.within hfb rfl) : Frame fw fb s0 (prefixGoOn k s) := by
  unfold prefixGoOn
  repeat' (first
    | with_reducible assumption
    | with_reducible apply insertOn_fr
    | (with_reducible refine Frame.getD ?_ ?_)
    | (with_reducible refine Frame.ite ?_ ?_)
    | ((with_reducible apply Sub.within hfw); exact rfl)
    | ((with_reducible apply Sub.within hfb); exact rfl)
    | ((with_reducible apply Mixed.of); exact rfl)
    | (apply hfb.bit (i := 8) rfl)
    | (apply hfb.bit (i := 9) rfl)
    | (extract_lets)
    | split
    | (intro _ _ _)
    | (intro _ e; have _hk : Frame _ _ _ _ := e)
    | (intro _ e; cases e)
    | dsimp only
    | (dsimp +zetaDelta only))

theorem execPrefixInsert_fr {fw fb : Nat} {s0 : State} (k : Nat) (s : State) (hK : Frame fw fb s0 s) (hfw : Sub 2361183254629627136522 fw := by exact Sub.within hfw rfl) (hfb : Sub 796 fb := by exact Sub.within hfb rfl) : ∀ u, execPrefixInsert k s = .next u → Frame fw fb s0 u := by
  unfold execPrefixInsert
  repeat' (first
    | with_reducible assumption
    | with_reducible apply State.runHand_fr
    | with_reducible apply prefixGoOn_fr
    | with_reducible apply prefixInsert_fr
    | (with_reducible refine Frame.ite ?_ ?_)
    | ((with_reducible apply Sub.within hfw); exact rfl)
    | ((with_reducible apply Sub.within hfb); exact rfl)
    | ((with_reducible apply Mixed.of); exact rfl)
    | (apply hfb.bit (i := 2) rfl)
    | (apply hfb.bit (i := 3) rfl)
    | (apply hfb.bit (i := 4) rfl)
    | (apply hfb.bit (i := 8) rfl)
    | (apply hfb.bit (i := 9) rfl)
    | (extract_lets)
    | split
    | (intro _ _ _)
    | (intro _ e; have _hk : Frame _ _ _ _ := e)
    | (intro _ e; cases e)
    | dsimp only
    | (dsimp +zetaDelta only))

theorem prefixRemove_fr {fw fb : Nat} {s0 : State} (s : State) (c : Cmd) (hK : Frame fw fb s0 s) (hfw : Sub 4398608747016 fw := by exact Sub.within hfw rfl) (hfb : Sub 784 fb := by exact Sub.within hfb rfl) : Frame fw fb s0 (prefixRemove s c) := by
  unfold prefixRemove
  repeat' (first
    | with_reducible assumption
    | with_reducible apply State.doneWith_fr
    | with_reducible apply State.entryFree_fr
    | with_reducible apply State.failWith_fr
    | (with_reducible refine Frame.ite ?_ ?_)
    | ((with_reducible apply Sub.within hfw); exact rfl)
    | ((with_reducible apply Sub.within hfb); exact rfl)
    | ((with_reducible apply Mixed.of); exact rfl)
    | (apply hfb.bit (i := 4) rfl)
    | (apply hfb.bit (i := 8) rfl)
    | (apply hfb.bit (i := 9) rfl)
    | (extract_lets)
    | split
    | (intro _ _ _)
    | (intro _ e; have _hk : Frame _ _ _ _ := e)
    | (intro _ e; cases e)
    | dsimp only
    | (dsimp +zetaDelta only))

theorem execPrefixRemove_fr {fw fb : Nat} {s0 : State} (k : Nat) (s : State) (hK : Frame fw fb s0 s) (hfw : Sub 4398608747016 fw := by exact Sub.within hfw rfl) (hfb : Sub 784 fb := by exact Sub.within hfb rfl) : ∀ u, execPrefixRemove k s = .next u → Frame fw fb s0 u := by
  unfold execPrefixRemove
  repeat' (first
    | with_reducible assumption
    | with_reducible apply State.runCmd_fr
    | with_reducible apply prefixRemove_fr
    | (with_reducible refine Frame.ite ?_ ?_)
    | ((with_reducible apply Sub.within hfw); exact rfl)
    | ((with_reducible apply Sub.within hfb); exact rfl)
    | ((with_reducible apply Mixed.of); exact rfl)
    | (apply hfb.bit (i := 4) rfl)
    | (apply hfb.bit (i := 8) rfl)
    | (apply hfb.bit (i := 9) rfl)
    | (extract_lets)
    | split
    | (intro _ _ _)
    | (intro _ e; have _hk : Frame _ _ _ _ := e)
    | (intro _ e; cases e)
    | dsimp only
    | (dsimp +zetaDelta only))

theorem variantBind_fr {fw fb : Nat} {s0 : State} (s : State) (c : Cmd) (hK : Frame fw fb s0 s) (hfw : Sub 549755816448 fw := by exact Sub.within hfw rfl) (hfb : Sub 256 fb := by exact Sub.within hfb rfl) : Frame fw fb s0 (variantBind s c) := by
  unfold variantBind
  repeat' (first
    | with_reducible assumption
    | with_reducible apply State.doneWith_fr
    | with_reducible apply State.serveRegs_fr
    | with_reducible apply State.setHand_fr
    | with_reducible apply State.wr_fr
    | (with_reducible refine Frame.ite ?_ ?_)
    | ((with_reducible apply Sub.within hfw); exact rfl)
    | ((with_reducible apply Sub.within hfb); exact rfl)
    | ((with_reducible apply Mixed.of); exact rfl)
    | (apply hfb.bit (i := 8) rfl)
    | (extract_lets)
    | split
    | (intro _ _ _)
    | (intro _ e; have _hk : Frame _ _ _ _ := e)
    | (intro _ e; cases e)
    | dsimp only
    | (dsimp +zetaDelta only))

theorem execVariantBind_fr {fw fb : Nat} {s0 : State} (k : Nat) (s : State) (hK : Frame fw fb s0 s) (hfw : Sub 549755816448 fw := by exact Sub.within hfw rfl) (hfb : Sub 256 fb := by exact Sub.within hfb rfl) : ∀ u, execVariantBind k s = .next u → Frame fw fb s0 u := by
  unfold execVariantBind
  repeat' (first
    | with_reducible assumption
    | with_reducible apply State.runHand_fr
    | with_reducible apply variantBind_fr
    | (with_reducible refine Frame.ite ?_ ?_)
    | ((with_reducible apply Sub.within hfw); exact rfl)
    | ((with_reducible apply Sub.within hfb); exact rfl)
    | ((with_reducible apply Mixed.of); exact rfl)
    | (apply hfb.bit (i := 8) rfl)
    | (extract_lets)
    | split
    | (intro _ _ _)
    | (intro _ e; have _hk : Frame _ _ _ _ := e)
    | (intro _ e; cases e)
    | dsimp only
    | (dsimp +zetaDelta only))

theorem checkDescs_fr {fw fb : Nat} {s0 : State} (c : Cmd) (slot : Nat) (l : List (List Nat)) (s : State) (k : (State → State)) (hk : ∀ t, Frame fw fb s0 t → Frame fw fb s0 (k t)) (hK : Frame fw fb s0 s) (hfw : Sub 2361183241435479017986 fw := by exact Sub.within hfw rfl) (hfb : Sub 524 fb := by exact Sub.within hfb rfl) : Frame fw fb s0 (checkDescs c slot l s k) := by
  induction l generalizing s k with
  | nil =>
    unfold checkDescs
    repeat' (first
      | with_reducible assumption
      | with_reducible apply State.failWith_fr
      | with_reducible apply State.withBytes_fr
      | (with_reducible refine Frame.ite ?_ ?_)
      | ((with_reducible apply Sub.within hfw); exact rfl)
      | ((with_reducible apply Sub.within hfb); exact rfl)
      | ((with_reducible apply Mixed.of); exact rfl)
      | (apply hfb.bit (i := 2) rfl)
      | (apply hfb.bit (i := 3) rfl)
      | (apply hfb.bit (i := 9) rfl)
      | (extract_lets)
      | split
      | (intro _ _ _)
      | (intro _ e; have _hk : Frame _ _ _ _ := e)
      | (intro _ e; cases e)
      | dsimp only
      | (dsimp +zetaDelta only)
      | (exact hk _ hK))
  | cons x r ih =>
    unfold checkDescs
    repeat' (first
      | with_reducible assumption
      | (with_reducible refine ih _ _ ?_ ?_)
      | with_reducible apply State.failWith_fr
      | with_reducible apply State.withBytes_fr
      | (with_reducible refine Frame.ite ?_ ?_)
      | ((with_reducible apply Sub.within hfw); exact rfl)
      | ((with_reducible apply Sub.within hfb); exact rfl)
      | ((with_reducible apply Mixed.of); exact rfl)
      | (apply hfb.bit (i := 2) rfl)
      | (apply hfb.bit (i := 3) rfl)
      | (apply hfb.bit (i := 9) rfl)
      | (extract_lets)
      | split
      | (intro _ _ _)
      | (intro _ e; have _hk : Frame _ _ _ _ := e)
      | (intro _ e; cases e)
      | dsimp only
      | (dsimp +zetaDelta only)
      | (exact hk _ hK))

theorem variantRegister_fr {fw fb : Nat} {s0 : State} (s : State) (c : Cmd) (hK : Frame fw fb s0 s) (hfw : Sub 2361183259027665062402 fw := by exact Sub.within hfw rfl) (hfb : Sub 780 fb := by exact Sub.within hfb rfl) : Frame fw fb s0 (variantRegister s c) := by
  have k0 : ∀ (t : State) x0, Frame fw fb s0 t → Frame fw fb s0 { t with variants := x0 } := fun t x0 ht => Frame.upd ht hfw rfl rfl ⟨rfl, rfl, rfl⟩
  unfold variantRegister
  repeat' (first
    | with_reducible assumption
    | with_reducible apply State.doneWith_fr
    | with_reducible apply State.dropGot_fr
    | with_reducible apply State.serveRegs_fr
    | with_reducible apply State.withBytes_fr
    | with_reducible apply checkDescs_fr
    | (with_reducible refine Frame.ite ?_ ?_)
    | ((with_reducible apply Sub.within hfw); exact rfl)
    | ((with_reducible apply Sub.within hfb); exact rfl)
    | ((with_reducible apply Mixed.of); exact rfl)
    | (apply hfb.bit (i := 2) rfl)
    | (apply hfb.bit (i := 3) rfl)
    | (apply hfb.bit (i := 8) rfl)
    | (apply hfb.bit (i := 9) rfl)
    | (extract_lets)
    | (fail_if_no_progress (with_reducible refine k0 _ _ ?_))
    | split
    | (intro _ _ _)
    | (intro _ e; have _hk : Frame _ _ _ _ := e)
    | (intro _ e; cases e)
    | dsimp only
    | (dsimp +zetaDelta only)
    | (fail_if_no_progress ((with_reducible refine Frame.upd ?_ hfw ?_ rfl ⟨rfl, rfl, rfl⟩); rotate_left; exact rfl)))

theorem execVariantRegister_fr {fw fb : Nat} {s0 : State} (k : Nat) (s : State) (hK : Frame fw fb s0 s) (hfw : Sub 2361183259027665062402 fw := by exact Sub.within hfw rfl) (hfb : Sub 780 fb := by exact Sub.within hfb rfl) : ∀ u, execVariantRegister k s = .next u → Frame fw fb s0 u := by
  unfold execVariantRegister
  repeat' (first
    | with_reducible assumption
    | with_reducible apply State.runCmd_fr
    | with_reducible apply variantRegister_fr
    | (with_reducible refine Frame.ite ?_ ?_)
    | ((with_reducible apply Sub.within hfw); exact rfl)
    | ((with_reducible apply Sub.within hfb); exact rfl)
    | ((with_reducible apply Mixed.of); exact rfl)
    | (apply hfb.bit (i := 2) rfl)
    | (apply hfb.bit (i := 3) rfl)
    | (apply hfb.bit (i := 8) rfl)
    | (apply hfb.bit (i := 9) rfl)
    | (extract_lets)
    | split
    | (intro _ _ _)
    | (intro _ e; have _hk : Frame _ _ _ _ := e)
    | (intro _ e; cases e)
    | dsimp only
    | (dsimp +zetaDelta only))

theorem variantRemove_fr {fw fb : Nat} {s0 : State} (s : State) (c : Cmd) (hK : Frame fw fb s0 s) (hfw : Sub 17592186046976 fw := by exact Sub.within hfw rfl) (hfb : Sub 256 fb := by exact Sub.within hfb rfl) : Frame fw fb s0 (variantRemove s c) := by
  have k0 : ∀ (t : State) x0, Frame fw fb s0 t → Frame fw fb s0 { t with variants := x0 } := fun t x0 ht => Frame.upd ht hfw rfl rfl ⟨rfl, rfl, rfl⟩
  unfold variantRemove
  repeat' (first
    | with_reducible assumption
    | with_reducible apply State.doneWith_fr
    | with_reducible apply State.failWith_fr
    | with_reducible apply State.serveRegs_fr
    | (with_reducible refine Frame.ite ?_ ?_)
    | ((with_reducible apply Sub.within hfw); exact rfl)
    | ((with_reducible apply Sub.within hfb); exact rfl)
    | ((with_reducible apply Mixed.of); exact rfl)
    | (apply hfb.bit (i := 8) rfl)
    | (extract_lets)
    | (fail_if_no_progress (with_reducible refine k0 _ _ ?_))
    | split
    | (intro _ _ _)
    | (intro _ e; have _hk : Frame _ _ _ _ := e)
    | (intro _ e; cases e)
    | dsimp only
    | (dsimp +zetaDelta only)
    | (fail_if_no_progress ((with_reducible refine Frame.upd ?_ hfw ?_ rfl ⟨rfl, rfl, rfl⟩); rotate_left; exact rfl)))

theorem execVariantRemove_fr {fw fb : Nat} {s0 : State} (k : Nat) (s : State) (hK : Frame fw fb s0 s) (hfw : Sub 17592186046976 fw := by exact Sub.within hfw rfl) (hfb : Sub 256 fb := by exact Sub.within hfb rfl) : ∀ u, execVariantRemove k s = .next u → Frame fw fb s0 u := by
  unfold execVariantRemove
  repeat' (first
    | with_reducible assumption
    | with_reducible apply State.runCmd_fr
    | with_reducible apply variantRemove_fr
    | (with_reducible refine Frame.ite ?_ ?_)
    | ((with_reducible apply Sub.within hfw); exact rfl)
    | ((with_reducible apply Sub.within hfb); exact rfl)
    | ((with_reducible apply Mixed.of); exact rfl)
    | (apply hfb.bit (i := 8) rfl)
    | (extract_lets)
    | split
    | (intro _ _ _)
    | (intro _ e; have _hk : Frame _ _ _ _ := e)
    | (intro _ e; cases e)
    | dsimp only
    | (dsimp +zetaDelta only))

end Sys2Proof.Machine
end

