-- ==== Sys2Proof/Laws/Frame/Scorebook.lean ====
section
/-! SUPPORT. What the operations of Machine/Scorebook.lean leave as it was (`Frame`): one lemma each. -/

set_option linter.unreachableTactic false
set_option linter.unusedTactic false

namespace Sys2Proof.Machine

set_option Elab.async false

open Sys2Proof

theorem State.flushNow_fr {fw fb : Nat} {s0 : State} (s : State) (hK : Frame fw fb s0 s) (hfw : Sub 64 fw := by exact Sub.within hfw rfl) (hfb : Sub 131072 fb := by exact Sub.within hfb rfl) : Frame fw fb s0 (State.flushNow s) := by
  have hring : ∀ (l : List Record) (p : Score × Nat), (l.foldl (fun p r => ((p.1.flashPut r).1, p.2 + b2n (p.1.flashPut r).2)) p).1.ring = p.1.ring := by
    intro l
    induction l with
    | nil => exact fun _ => rfl
    | cons r t ih => exact fun p => ih _
  unfold State.flushNow
  extract_lets p b t
  have ht : Frame fw fb s0 t := Frame.upd hK hfw rfl (hring _ (s.score, 0)) ⟨rfl, rfl, rfl⟩
  exact State.scoreRegs_fr _ (State.wr_fr _ _ _ ht)

theorem State.flushStart_fr {fw fb : Nat} {s0 : State} (s : State) (hK : Frame fw fb s0 s) (hfw : Sub 64 fw := by exact Sub.within hfw rfl) (hfb : Sub 131072 fb := by exact Sub.within hfb rfl) : Frame fw fb s0 (State.flushStart s) := by
  unfold State.flushStart
  repeat' (first
    | with_reducible assumption
    | with_reducible apply State.wr_fr
    | (with_reducible refine Frame.ite ?_ ?_)
    | ((with_reducible apply Sub.within hfw); exact rfl)
    | ((with_reducible apply Sub.within hfb); exact rfl)
    | ((with_reducible apply Mixed.of); exact rfl)
    | (apply hfb.bit (i := 17) rfl)
    | (extract_lets)
    | split
    | (intro _ _ _)
    | (intro _ e; have _hk : Frame _ _ _ _ := e)
    | (intro _ e; cases e)
    | dsimp only
    | (dsimp +zetaDelta only)
    | (fail_if_no_progress ((with_reducible refine Frame.upd ?_ hfw ?_ rfl ⟨rfl, rfl, rfl⟩); rotate_left; exact rfl)))

theorem flushDone_fr {fw fb : Nat} {s0 : State} (s : State) (hK : Frame fw fb s0 s) (hfw : Sub 64 fw := by exact Sub.within hfw rfl) (hfb : Sub 131072 fb := by exact Sub.within hfb rfl) : Frame fw fb s0 (flushDone s) := by
  unfold flushDone
  repeat' (first
    | with_reducible assumption
    | with_reducible apply State.bump_fr
    | with_reducible apply State.flushNow_fr
    | with_reducible apply State.wr_fr
    | (with_reducible refine Frame.ite ?_ ?_)
    | ((with_reducible apply Sub.within hfw); exact rfl)
    | ((with_reducible apply Sub.within hfb); exact rfl)
    | ((with_reducible apply Mixed.of); exact rfl)
    | (apply hfb.bit (i := 17) rfl)
    | (extract_lets)
    | split
    | (intro _ _ _)
    | (intro _ e; have _hk : Frame _ _ _ _ := e)
    | (intro _ e; cases e)
    | dsimp only
    | (dsimp +zetaDelta only)
    | (fail_if_no_progress ((with_reducible refine Frame.upd ?_ hfw ?_ rfl ⟨rfl, rfl, rfl⟩); rotate_left; exact rfl)))

theorem execScorebookFlush_fr {fw fb : Nat} {s0 : State} (s : State) (hK : Frame fw fb s0 s) (hfw : Sub 64 fw := by exact Sub.within hfw rfl) (hfb : Sub 131072 fb := by exact Sub.within hfb rfl) : ∀ u, execScorebookFlush s = .next u → Frame fw fb s0 u := by
  unfold execScorebookFlush
  repeat' (first
    | with_reducible assumption
    | with_reducible apply flushDone_fr
    | (with_reducible refine Frame.ite ?_ ?_)
    | ((with_reducible apply Sub.within hfw); exact rfl)
    | ((with_reducible apply Sub.within hfb); exact rfl)
    | ((with_reducible apply Mixed.of); exact rfl)
    | (apply hfb.bit (i := 17) rfl)
    | (extract_lets)
    | split
    | (intro _ _ _)
    | (intro _ e; have _hk : Frame _ _ _ _ := e)
    | (intro _ e; cases e)
    | dsimp only
    | (dsimp +zetaDelta only))

theorem scoreRead_fr {fw fb : Nat} {s0 : State} (s : State) (c : Cmd) (hK : Frame fw fb s0 s) (hfw : Sub 2632 fw := by exact Sub.within hfw rfl) (hfb : Sub 131072 fb := by exact Sub.within hfb rfl) : Frame fw fb s0 (scoreRead s c) := by
  unfold scoreRead
  repeat' (first
    | with_reducible assumption
    | with_reducible apply State.doneWith_fr
    | with_reducible apply State.storeWords_fr
    | with_reducible apply State.wr_fr
    | (with_reducible refine Frame.ite ?_ ?_)
    | ((with_reducible apply Sub.within hfw); exact rfl)
    | ((with_reducible apply Sub.within hfb); exact rfl)
    | ((with_reducible apply Mixed.of); exact rfl)
    | (apply hfb.bit (i := 17) rfl)
    | (extract_lets)
    | split
    | (intro _ _ _)
    | (intro _ e; have _hk : Frame _ _ _ _ := e)
    | (intro _ e; cases e)
    | dsimp only
    | (dsimp +zetaDelta only)
    | (fail_if_no_progress ((with_reducible refine Frame.upd ?_ hfw ?_ rfl ⟨rfl, rfl, rfl⟩); rotate_left; exact rfl)))

theorem execScoreRead_fr {fw fb : Nat} {s0 : State} (k : Nat) (s : State) (hK : Frame fw fb s0 s) (hfw : Sub 2632 fw := by exact Sub.within hfw rfl) (hfb : Sub 131072 fb := by exact Sub.within hfb rfl) : ∀ u, execScoreRead k s = .next u → Frame fw fb s0 u := by
  unfold execScoreRead
  repeat' (first
    | with_reducible assumption
    | with_reducible apply State.runCmd_fr
    | with_reducible apply scoreRead_fr
    | (with_reducible refine Frame.ite ?_ ?_)
    | ((with_reducible apply Sub.within hfw); exact rfl)
    | ((with_reducible apply Sub.within hfb); exact rfl)
    | ((with_reducible apply Mixed.of); exact rfl)
    | (apply hfb.bit (i := 17) rfl)
    | (extract_lets)
    | split
    | (intro _ _ _)
    | (intro _ e; have _hk : Frame _ _ _ _ := e)
    | (intro _ e; cases e)
    | dsimp only
    | (dsimp +zetaDelta only))

theorem scoreClear_fr {fw fb : Nat} {s0 : State} (s : State) (c : Cmd) (hK : Frame fw fb s0 s) (hfw : Sub 2768 fw := by exact Sub.within hfw rfl) (hfb : Sub 131072 fb := by exact Sub.within hfb rfl) : Frame fw fb s0 (scoreClear s c) := by
  unfold scoreClear
  refine State.doneWith_fr _ _ _ _ _ (State.flushNow_fr _ (State.wr_fr _ _ _ ((State.record_fr _ _ _ _ _ hK).setScore ?_ (hfw.bit rfl))))
  exact fun h => Nat.le_trans (List.length_filter_le _ _) h

theorem execScoreClear_fr {fw fb : Nat} {s0 : State} (k : Nat) (s : State) (hK : Frame fw fb s0 s) (hfw : Sub 2768 fw := by exact Sub.within hfw rfl) (hfb : Sub 131072 fb := by exact Sub.within hfb rfl) : ∀ u, execScoreClear k s = .next u → Frame fw fb s0 u := by
  unfold execScoreClear
  repeat' (first
    | with_reducible assumption
    | with_reducible apply State.runCmd_fr
    | with_reducible apply scoreClear_fr
    | (with_reducible refine Frame.ite ?_ ?_)
    | ((with_reducible apply Sub.within hfw); exact rfl)
    | ((with_reducible apply Sub.within hfb); exact rfl)
    | ((with_reducible apply Mixed.of); exact rfl)
    | (apply hfb.bit (i := 17) rfl)
    | (extract_lets)
    | split
    | (intro _ _ _)
    | (intro _ e; have _hk : Frame _ _ _ _ := e)
    | (intro _ e; cases e)
    | dsimp only
    | (dsimp +zetaDelta only))

theorem State.cursorNext_fr {fw fb : Nat} {s0 : State} (s : State) (src q : Nat) (hK : Frame fw fb s0 s) (hfw : Sub 64 fw := by exact Sub.within hfw rfl) (hfb : Sub 131072 fb := by exact Sub.within hfb rfl) : Frame fw fb s0 (State.cursorNext s src q) := by
  unfold State.cursorNext
  repeat' (first
    | with_reducible assumption
    | with_reducible apply State.wr_fr
    | (with_reducible refine Frame.ite ?_ ?_)
    | ((with_reducible apply Sub.within hfw); exact rfl)
    | ((with_reducible apply Sub.within hfb); exact rfl)
    | ((with_reducible apply Mixed.of); exact rfl)
    | (apply hfb.bit (i := 17) rfl)
    | (extract_lets)
    | split
    | (intro _ _ _)
    | (intro _ e; have _hk : Frame _ _ _ _ := e)
    | (intro _ e; cases e)
    | dsimp only
    | (dsimp +zetaDelta only)
    | (fail_if_no_progress ((with_reducible refine Frame.upd ?_ hfw ?_ rfl ⟨rfl, rfl, rfl⟩); rotate_left; exact rfl)))

theorem readDataStep_fr {fw fb : Nat} {s0 : State} (src : Nat) (s : State) (hK : Frame fw fb s0 s) (hfw : Sub 64 fw := by exact Sub.within hfw rfl) (hfb : Sub 131072 fb := by exact Sub.within hfb rfl) : Frame fw fb s0 (readDataStep src s).2 := by
  unfold readDataStep
  repeat' (first
    | with_reducible assumption
    | with_reducible apply State.cursorNext_fr
    | with_reducible apply State.wr_fr
    | (with_reducible refine Frame.getD ?_ ?_)
    | (with_reducible refine Frame.ite ?_ ?_)
    | ((with_reducible apply Sub.within hfw); exact rfl)
    | ((with_reducible apply Sub.within hfb); exact rfl)
    | ((with_reducible apply Mixed.of); exact rfl)
    | (apply hfb.bit (i := 17) rfl)
    | (extract_lets)
    | split
    | (intro _ _ _)
    | (intro _ e; have _hk : Frame _ _ _ _ := e)
    | (intro _ e; cases e)
    | dsimp only
    | (dsimp +zetaDelta only)
    | (fail_if_no_progress ((with_reducible refine Frame.upd ?_ hfw ?_ rfl ⟨rfl, rfl, rfl⟩); rotate_left; exact rfl)))

theorem readDataStep_fr_at {fw fb : Nat} {s0 : State} {u : State} {r0} {src : Nat} {s : State} (h_eq : readDataStep src s = (r0, u)) (hK : Frame fw fb s0 s) (hfw : Sub 64 fw := by exact Sub.within hfw rfl) (hfb : Sub 131072 fb := by exact Sub.within hfb rfl) : Frame fw fb s0 u := by
  have := readDataStep_fr src s hK
  rw [h_eq] at this
  exact this

theorem execReadDataRead_fr {fw fb : Nat} {s0 : State} (src : Nat) (s : State) (hK : Frame fw fb s0 s) (hfw : Sub 80 fw := by exact Sub.within hfw rfl) (hfb : Sub 131073 fb := by exact Sub.within hfb rfl) : ∀ u, execReadDataRead src s = .next u → Frame fw fb s0 u := by
  unfold execReadDataRead
  repeat' (first
    | with_reducible assumption
    | with_reducible apply State.emit_fr
    | with_reducible apply State.viaSource_fr
    | with_reducible apply readDataStep_fr
    | (with_reducible apply readDataStep_fr_at; with_reducible assumption)
    | (with_reducible refine Frame.ite ?_ ?_)
    | ((with_reducible apply Sub.within hfw); exact rfl)
    | ((with_reducible apply Sub.within hfb); exact rfl)
    | ((with_reducible apply Mixed.of); exact rfl)
    | (apply hfb.bit (i := 0) rfl)
    | (apply hfb.bit (i := 17) rfl)
    | (extract_lets)
    | split
    | (intro _ _ _)
    | (intro _ e; have _hk : Frame _ _ _ _ := e)
    | (intro _ e; cases e)
    | dsimp only
    | (dsimp +zetaDelta only))

end Sys2Proof.Machine
end

