-- ==== Sys2Proof/Laws/Frame/Registers.lean ====
section
/-! SUPPORT. What the operations of Machine/Registers.lean leave as it was (`Frame`): one lemma each. -/

set_option linter.unreachableTactic false
set_option linter.unusedTactic false

namespace Sys2Proof.Machine

set_option Elab.async false

open Sys2Proof

theorem State.wr_any_fr {w b : Nat} {s0 : State} (s : State) (f : Fld) (v : Nat) (h : Frame w b s0 s) (hb : Sub 524287 b) : Frame w b s0 (s.wr f v) := by
  refine Frame.setRegs h (fun k hn hk => ?_) (regsWf_wr s f v)
  have h := hb.bit (i := k / 2 ^ 26) (by generalize k / 2 ^ 26 = n at *; interval_cases n <;> rfl)
  rw [h] at hk
  cases hk

theorem State.clearRc_fr {fw fb : Nat} {s0 : State} (s : State) (r : Reg) (hK : Frame fw fb s0 s) (hfb : Sub 524287 fb := by exact Sub.within hfb rfl) : Frame fw fb s0 (State.clearRc s r) := by
  unfold State.clearRc
  refine Frame.foldl (fun t p ht => ?_) hK
  split
  · exact State.wr_any_fr _ _ _ ht hfb
  · exact ht

theorem State.readReg_fr {fw fb : Nat} {s0 : State} (s : State) (r : Reg) (hK : Frame fw fb s0 s) (hfw : Sub 147574093327164768320 fw := by exact Sub.within hfw rfl) (hfb : Sub 524287 fb := by exact Sub.within hfb rfl) : Frame fw fb s0 (State.readReg s r).2 := by
  unfold State.readReg
  repeat' (first
    | with_reducible assumption
    | with_reducible apply State.busyNow_fr
    | with_reducible apply State.clearRc_fr
    | with_reducible apply State.railNow_fr
    | with_reducible apply orphanRead_fr
    | (with_reducible apply orphanRead_fr_at; with_reducible assumption)
    | with_reducible apply readDataStep_fr
    | (with_reducible apply readDataStep_fr_at; with_reducible assumption)
    | with_reducible apply reportRead_fr
    | (with_reducible apply reportRead_fr_at; with_reducible assumption)
    | (with_reducible refine Frame.ite ?_ ?_)
    | ((with_reducible apply Sub.within hfw); exact rfl)
    | ((with_reducible apply Sub.within hfb); exact rfl)
    | ((with_reducible apply Mixed.of); exact rfl)
    | (apply hfb.bit (i := 0) rfl)
    | (apply hfb.bit (i := 1) rfl)
    | (apply hfb.bit (i := 2) rfl)
    | (apply hfb.bit (i := 3) rfl)
    | (apply hfb.bit (i := 4) rfl)
    | (apply hfb.bit (i := 5) rfl)
    | (apply hfb.bit (i := 6) rfl)
    | (apply hfb.bit (i := 7) rfl)
    | (apply hfb.bit (i := 8) rfl)
    | (apply hfb.bit (i := 9) rfl)
    | (apply hfb.bit (i := 10) rfl)
    | (apply hfb.bit (i := 11) rfl)
    | (apply hfb.bit (i := 12) rfl)
    | (apply hfb.bit (i := 13) rfl)
    | (apply hfb.bit (i := 14) rfl)
    | (apply hfb.bit (i := 15) rfl)
    | (apply hfb.bit (i := 16) rfl)
    | (apply hfb.bit (i := 17) rfl)
    | (apply hfb.bit (i := 18) rfl)
    | (extract_lets)
    | split
    | (intro _ _ _)
    | (intro _ e; have _hk : Frame _ _ _ _ := e)
    | (intro _ e; cases e)
    | dsimp only
    | (dsimp +zetaDelta only))

theorem State.readReg_fr_at {fw fb : Nat} {s0 : State} {u : State} {r0} {s : State} {r : Reg} (h_eq : State.readReg s r = (r0, u)) (hK : Frame fw fb s0 s) (hfw : Sub 147574093327164768320 fw := by exact Sub.within hfw rfl) (hfb : Sub 524287 fb := by exact Sub.within hfb rfl) : Frame fw fb s0 u := by
  have := State.readReg_fr s r hK
  rw [h_eq] at this
  exact this

theorem State.read64_fr {fw fb : Nat} {s0 : State} (s : State) (src off : Nat) (hK : Frame fw fb s0 s) (hfw : Sub 147574093327164768320 fw := by exact Sub.within hfw rfl) (hfb : Sub 524287 fb := by exact Sub.within hfb rfl) : Frame fw fb s0 (State.read64 s src off).2 := by
  unfold State.read64
  repeat' (first
    | with_reducible assumption
    | with_reducible apply State.readReg_fr
    | (with_reducible apply State.readReg_fr_at; with_reducible assumption)
    | (with_reducible refine Frame.ite ?_ ?_)
    | ((with_reducible apply Sub.within hfw); exact rfl)
    | ((with_reducible apply Sub.within hfb); exact rfl)
    | ((with_reducible apply Mixed.of); exact rfl)
    | (apply hfb.bit (i := 0) rfl)
    | (apply hfb.bit (i := 1) rfl)
    | (apply hfb.bit (i := 2) rfl)
    | (apply hfb.bit (i := 3) rfl)
    | (apply hfb.bit (i := 4) rfl)
    | (apply hfb.bit (i := 5) rfl)
    | (apply hfb.bit (i := 6) rfl)
    | (apply hfb.bit (i := 7) rfl)
    | (apply hfb.bit (i := 8) rfl)
    | (apply hfb.bit (i := 9) rfl)
    | (apply hfb.bit (i := 10) rfl)
    | (apply hfb.bit (i := 11) rfl)
    | (apply hfb.bit (i := 12) rfl)
    | (apply hfb.bit (i := 13) rfl)
    | (apply hfb.bit (i := 14) rfl)
    | (apply hfb.bit (i := 15) rfl)
    | (apply hfb.bit (i := 16) rfl)
    | (apply hfb.bit (i := 17) rfl)
    | (apply hfb.bit (i := 18) rfl)
    | (extract_lets)
    | split
    | (intro _ _ _)
    | (intro _ e; have _hk : Frame _ _ _ _ := e)
    | (intro _ e; cases e)
    | dsimp only
    | (dsimp +zetaDelta only))

theorem State.read64_fr_at {fw fb : Nat} {s0 : State} {u : State} {r0} {s : State} {src off : Nat} (h_eq : State.read64 s src off = (r0, u)) (hK : Frame fw fb s0 s) (hfw : Sub 147574093327164768320 fw := by exact Sub.within hfw rfl) (hfb : Sub 524287 fb := by exact Sub.within hfb rfl) : Frame fw fb s0 u := by
  have := State.read64_fr s src off hK
  rw [h_eq] at this
  exact this

theorem State.readRun_fr {fw fb : Nat} {s0 : State} (src : Nat) (n : Nat) (off : Nat) (s : State) (hK : Frame fw fb s0 s) (hfw : Sub 147574093327164768320 fw := by exact Sub.within hfw rfl) (hfb : Sub 524287 fb := by exact Sub.within hfb rfl) : Frame fw fb s0 (State.readRun src n off s).2 := by
  induction n generalizing off s with
  | zero =>
    unfold State.readRun
    repeat' (first
      | with_reducible assumption
      | with_reducible apply State.read64_fr
      | (with_reducible apply State.read64_fr_at; with_reducible assumption)
      | (with_reducible refine Frame.ite ?_ ?_)
      | ((with_reducible apply Sub.within hfw); exact rfl)
      | ((with_reducible apply Sub.within hfb); exact rfl)
      | ((with_reducible apply Mixed.of); exact rfl)
      | (apply hfb.bit (i := 0) rfl)
      | (apply hfb.bit (i := 1) rfl)
      | (apply hfb.bit (i := 2) rfl)
      | (apply hfb.bit (i := 3) rfl)
      | (apply hfb.bit (i := 4) rfl)
      | (apply hfb.bit (i := 5) rfl)
      | (apply hfb.bit (i := 6) rfl)
      | (apply hfb.bit (i := 7) rfl)
      | (apply hfb.bit (i := 8) rfl)
      | (apply hfb.bit (i := 9) rfl)
      | (apply hfb.bit (i := 10) rfl)
      | (apply hfb.bit (i := 11) rfl)
      | (apply hfb.bit (i := 12) rfl)
      | (apply hfb.bit (i := 13) rfl)
      | (apply hfb.bit (i := 14) rfl)
      | (apply hfb.bit (i := 15) rfl)
      | (apply hfb.bit (i := 16) rfl)
      | (apply hfb.bit (i := 17) rfl)
      | (apply hfb.bit (i := 18) rfl)
      | (extract_lets)
      | split
      | (intro _ _ _)
      | (intro _ e; have _hk : Frame _ _ _ _ := e)
      | (intro _ e; cases e)
      | dsimp only
      | (dsimp +zetaDelta only))
  | succ n ih =>
    unfold State.readRun
    repeat' (first
      | with_reducible assumption
      | (with_reducible refine ih _ _ ?_)
      | with_reducible apply State.read64_fr
      | (with_reducible apply State.read64_fr_at; with_reducible assumption)
      | (with_reducible refine Frame.ite ?_ ?_)
      | ((with_reducible apply Sub.within hfw); exact rfl)
      | ((with_reducible apply Sub.within hfb); exact rfl)
      | ((with_reducible apply Mixed.of); exact rfl)
      | (apply hfb.bit (i := 0) rfl)
      | (apply hfb.bit (i := 1) rfl)
      | (apply hfb.bit (i := 2) rfl)
      | (apply hfb.bit (i := 3) rfl)
      | (apply hfb.bit (i := 4) rfl)
      | (apply hfb.bit (i := 5) rfl)
      | (apply hfb.bit (i := 6) rfl)
      | (apply hfb.bit (i := 7) rfl)
      | (apply hfb.bit (i := 8) rfl)
      | (apply hfb.bit (i := 9) rfl)
      | (apply hfb.bit (i := 10) rfl)
      | (apply hfb.bit (i := 11) rfl)
      | (apply hfb.bit (i := 12) rfl)
      | (apply hfb.bit (i := 13) rfl)
      | (apply hfb.bit (i := 14) rfl)
      | (apply hfb.bit (i := 15) rfl)
      | (apply hfb.bit (i := 16) rfl)
      | (apply hfb.bit (i := 17) rfl)
      | (apply hfb.bit (i := 18) rfl)
      | (extract_lets)
      | split
      | (intro _ _ _)
      | (intro _ e; have _hk : Frame _ _ _ _ := e)
      | (intro _ e; cases e)
      | dsimp only
      | (dsimp +zetaDelta only))

theorem State.readRun_fr_at {fw fb : Nat} {s0 u : State} {src : Nat} {n : Nat} {off : Nat} {s : State} {r} (e : State.readRun src n off s = (r, u)) (hK : Frame fw fb s0 s) (hfw : Sub 147574093327164768320 fw := by exact Sub.within hfw rfl) (hfb : Sub 524287 fb := by exact Sub.within hfb rfl) : Frame fw fb s0 u := by
  have := State.readRun_fr src n off s hK
  rw [e] at this
  exact this

theorem State.readBytes_fr {fw fb : Nat} {s0 : State} (s : State) (src off size : Nat) (hK : Frame fw fb s0 s) (hfw : Sub 147574093327164768320 fw := by exact Sub.within hfw rfl) (hfb : Sub 524287 fb := by exact Sub.within hfb rfl) : Frame fw fb s0 (State.readBytes s src off size).2 := by
  unfold State.readBytes
  repeat' (first
    | with_reducible assumption
    | with_reducible apply State.readRun_fr
    | (with_reducible apply State.readRun_fr_at; with_reducible assumption)
    | (with_reducible refine Frame.ite ?_ ?_)
    | ((with_reducible apply Sub.within hfw); exact rfl)
    | ((with_reducible apply Sub.within hfb); exact rfl)
    | ((with_reducible apply Mixed.of); exact rfl)
    | (apply hfb.bit (i := 0) rfl)
    | (apply hfb.bit (i := 1) rfl)
    | (apply hfb.bit (i := 2) rfl)
    | (apply hfb.bit (i := 3) rfl)
    | (apply hfb.bit (i := 4) rfl)
    | (apply hfb.bit (i := 5) rfl)
    | (apply hfb.bit (i := 6) rfl)
    | (apply hfb.bit (i := 7) rfl)
    | (apply hfb.bit (i := 8) rfl)
    | (apply hfb.bit (i := 9) rfl)
    | (apply hfb.bit (i := 10) rfl)
    | (apply hfb.bit (i := 11) rfl)
    | (apply hfb.bit (i := 12) rfl)
    | (apply hfb.bit (i := 13) rfl)
    | (apply hfb.bit (i := 14) rfl)
    | (apply hfb.bit (i := 15) rfl)
    | (apply hfb.bit (i := 16) rfl)
    | (apply hfb.bit (i := 17) rfl)
    | (apply hfb.bit (i := 18) rfl)
    | (extract_lets)
    | split
    | (intro _ _ _)
    | (intro _ e; have _hk : Frame _ _ _ _ := e)
    | (intro _ e; cases e)
    | dsimp only
    | (dsimp +zetaDelta only))

theorem State.readBytes_fr_at {fw fb : Nat} {s0 : State} {u : State} {r0} {s : State} {src off size : Nat} (h_eq : State.readBytes s src off size = (r0, u)) (hK : Frame fw fb s0 s) (hfw : Sub 147574093327164768320 fw := by exact Sub.within hfw rfl) (hfb : Sub 524287 fb := by exact Sub.within hfb rfl) : Frame fw fb s0 u := by
  have := State.readBytes_fr s src off size hK
  rw [h_eq] at this
  exact this

theorem rcRead_fr {fw fb : Nat} {s0 : State} (src off size : Nat) (s : State) (hK : Frame fw fb s0 s) (hfw : Sub 147574093327164768336 fw := by exact Sub.within hfw rfl) (hfb : Sub 524287 fb := by exact Sub.within hfb rfl) : Frame fw fb s0 (rcRead src off size s) := by
  unfold rcRead
  repeat' (first
    | with_reducible assumption
    | with_reducible apply State.emit_fr
    | with_reducible apply State.readBytes_fr
    | (with_reducible apply State.readBytes_fr_at; with_reducible assumption)
    | with_reducible apply State.viaHost_fr
    | (with_reducible refine Frame.ite ?_ ?_)
    | ((with_reducible apply Sub.within hfw); exact rfl)
    | ((with_reducible apply Sub.within hfb); exact rfl)
    | ((with_reducible apply Mixed.of); exact rfl)
    | (apply hfb.bit (i := 0) rfl)
    | (apply hfb.bit (i := 1) rfl)
    | (apply hfb.bit (i := 2) rfl)
    | (apply hfb.bit (i := 3) rfl)
    | (apply hfb.bit (i := 4) rfl)
    | (apply hfb.bit (i := 5) rfl)
    | (apply hfb.bit (i := 6) rfl)
    | (apply hfb.bit (i := 7) rfl)
    | (apply hfb.bit (i := 8) rfl)
    | (apply hfb.bit (i := 9) rfl)
    | (apply hfb.bit (i := 10) rfl)
    | (apply hfb.bit (i := 11) rfl)
    | (apply hfb.bit (i := 12) rfl)
    | (apply hfb.bit (i := 13) rfl)
    | (apply hfb.bit (i := 14) rfl)
    | (apply hfb.bit (i := 15) rfl)
    | (apply hfb.bit (i := 16) rfl)
    | (apply hfb.bit (i := 17) rfl)
    | (apply hfb.bit (i := 18) rfl)
    | (extract_lets)
    | split
    | (intro _ _ _)
    | (intro _ e; have _hk : Frame _ _ _ _ := e)
    | (intro _ e; cases e)
    | dsimp only
    | (dsimp +zetaDelta only))

theorem execRcRead_fr {fw fb : Nat} {s0 : State} (src off size : Nat) (s : State) (hK : Frame fw fb s0 s) (hfw : Sub 147574093327164768336 fw := by exact Sub.within hfw rfl) (hfb : Sub 524287 fb := by exact Sub.within hfb rfl) : ∀ u, execRcRead src off size s = .next u → Frame fw fb s0 u := by
  unfold execRcRead
  repeat' (first
    | with_reducible assumption
    | with_reducible apply rcRead_fr
    | (with_reducible refine Frame.ite ?_ ?_)
    | ((with_reducible apply Sub.within hfw); exact rfl)
    | ((with_reducible apply Sub.within hfb); exact rfl)
    | ((with_reducible apply Mixed.of); exact rfl)
    | (apply hfb.bit (i := 0) rfl)
    | (apply hfb.bit (i := 1) rfl)
    | (apply hfb.bit (i := 2) rfl)
    | (apply hfb.bit (i := 3) rfl)
    | (apply hfb.bit (i := 4) rfl)
    | (apply hfb.bit (i := 5) rfl)
    | (apply hfb.bit (i := 6) rfl)
    | (apply hfb.bit (i := 7) rfl)
    | (apply hfb.bit (i := 8) rfl)
    | (apply hfb.bit (i := 9) rfl)
    | (apply hfb.bit (i := 10) rfl)
    | (apply hfb.bit (i := 11) rfl)
    | (apply hfb.bit (i := 12) rfl)
    | (apply hfb.bit (i := 13) rfl)
    | (apply hfb.bit (i := 14) rfl)
    | (apply hfb.bit (i := 15) rfl)
    | (apply hfb.bit (i := 16) rfl)
    | (apply hfb.bit (i := 17) rfl)
    | (apply hfb.bit (i := 18) rfl)
    | (extract_lets)
    | split
    | (intro _ _ _)
    | (intro _ e; have _hk : Frame _ _ _ _ := e)
    | (intro _ e; cases e)
    | dsimp only
    | (dsimp +zetaDelta only))

theorem writeField_fr {fw fb : Nat} {s0 : State} (v : Nat) (keep : Fld → Bool) (s : State) (p : Fld × Access) (hK : Frame fw fb s0 s) (hfb : Sub 524287 fb := by exact Sub.within hfb rfl) : Frame fw fb s0 (writeField v keep s p) := by
  unfold writeField
  split
  · exact Frame.ite hK (State.wr_any_fr _ _ _ hK hfb)
  · exact State.wr_any_fr _ _ _ hK hfb
  · exact State.wr_any_fr _ _ _ hK hfb
  all_goals exact hK

theorem State.writePlain_fr {fw fb : Nat} {s0 : State} (s : State) (r : Reg) (v : Nat) (hK : Frame fw fb s0 s) (hfb : Sub 524287 fb := by exact Sub.within hfb rfl) : Frame fw fb s0 (State.writePlain s r v) := by
  unfold State.writePlain
  repeat' (first
    | with_reducible assumption
    | with_reducible apply writeField_fr
    | (with_reducible refine Frame.foldl ?_ ?_)
    | (with_reducible refine Frame.foldr ?_ ?_)
    | (with_reducible refine Frame.ite ?_ ?_)
    | ((with_reducible apply Sub.within hfw); exact rfl)
    | ((with_reducible apply Sub.within hfb); exact rfl)
    | ((with_reducible apply Mixed.of); exact rfl)
    | (apply hfb.bit (i := 0) rfl)
    | (apply hfb.bit (i := 1) rfl)
    | (apply hfb.bit (i := 2) rfl)
    | (apply hfb.bit (i := 3) rfl)
    | (apply hfb.bit (i := 4) rfl)
    | (apply hfb.bit (i := 5) rfl)
    | (apply hfb.bit (i := 6) rfl)
    | (apply hfb.bit (i := 7) rfl)
    | (apply hfb.bit (i := 8) rfl)
    | (apply hfb.bit (i := 9) rfl)
    | (apply hfb.bit (i := 10) rfl)
    | (apply hfb.bit (i := 11) rfl)
    | (apply hfb.bit (i := 12) rfl)
    | (apply hfb.bit (i := 13) rfl)
    | (apply hfb.bit (i := 14) rfl)
    | (apply hfb.bit (i := 15) rfl)
    | (apply hfb.bit (i := 16) rfl)
    | (apply hfb.bit (i := 17) rfl)
    | (apply hfb.bit (i := 18) rfl)
    | (extract_lets)
    | split
    | (intro _ _ _)
    | (intro _ e; have _hk : Frame _ _ _ _ := e)
    | (intro _ e; cases e)
    | dsimp only
    | (dsimp +zetaDelta only))

theorem State.writeReg_fr {fw fb : Nat} {s0 : State} (s : State) (src : Nat) (r : Reg) (v : Nat) (hK : Frame fw fb s0 s) (hfw : Sub 37777959085437649681368 fw := by exact Sub.within hfw rfl) (hfb : Sub 524287 fb := by exact Sub.within hfb rfl) : Frame fw fb s0 (State.writeReg s src r v) := by
  unfold State.writeReg
  repeat' (first
    | with_reducible assumption
    | with_reducible apply State.bump_fr
    | with_reducible apply State.poolRegs_fr
    | with_reducible apply State.writePlain_fr
    | with_reducible apply chatterClear_fr
    | with_reducible apply faultResolve_fr
    | with_reducible apply mtxInject_fr
    | with_reducible apply pwrCapWrite_fr
    | with_reducible apply writeChanCtl_fr
    | with_reducible apply writeHostCtl_fr
    | with_reducible apply writeRingCtl_fr
    | (with_reducible refine Frame.ite ?_ ?_)
    | ((with_reducible apply Sub.within hfw); exact rfl)
    | ((with_reducible apply Sub.within hfb); exact rfl)
    | ((with_reducible apply Mixed.of); exact rfl)
    | (apply hfb.bit (i := 0) rfl)
    | (apply hfb.bit (i := 1) rfl)
    | (apply hfb.bit (i := 2) rfl)
    | (apply hfb.bit (i := 3) rfl)
    | (apply hfb.bit (i := 4) rfl)
    | (apply hfb.bit (i := 5) rfl)
    | (apply hfb.bit (i := 6) rfl)
    | (apply hfb.bit (i := 7) rfl)
    | (apply hfb.bit (i := 8) rfl)
    | (apply hfb.bit (i := 9) rfl)
    | (apply hfb.bit (i := 10) rfl)
    | (apply hfb.bit (i := 11) rfl)
    | (apply hfb.bit (i := 12) rfl)
    | (apply hfb.bit (i := 13) rfl)
    | (apply hfb.bit (i := 14) rfl)
    | (apply hfb.bit (i := 15) rfl)
    | (apply hfb.bit (i := 16) rfl)
    | (apply hfb.bit (i := 17) rfl)
    | (apply hfb.bit (i := 18) rfl)
    | (extract_lets)
    | split
    | (intro _ _ _)
    | (intro _ e; have _hk : Frame _ _ _ _ := e)
    | (intro _ e; cases e)
    | dsimp only
    | (dsimp +zetaDelta only))

theorem State.write64_fr {fw fb : Nat} {s0 : State} (s : State) (src off v : Nat) (hK : Frame fw fb s0 s) (hfw : Sub 37777959085437649681368 fw := by exact Sub.within hfw rfl) (hfb : Sub 524287 fb := by exact Sub.within hfb rfl) : Frame fw fb s0 (State.write64 s src off v) := by
  unfold State.write64
  repeat' (first
    | with_reducible assumption
    | with_reducible apply State.discard_fr
    | with_reducible apply State.msixWrite_fr
    | with_reducible apply State.writeReg_fr
    | (with_reducible refine Frame.ite ?_ ?_)
    | ((with_reducible apply Sub.within hfw); exact rfl)
    | ((with_reducible apply Sub.within hfb); exact rfl)
    | ((with_reducible apply Mixed.of); exact rfl)
    | (apply hfb.bit (i := 0) rfl)
    | (apply hfb.bit (i := 1) rfl)
    | (apply hfb.bit (i := 2) rfl)
    | (apply hfb.bit (i := 3) rfl)
    | (apply hfb.bit (i := 4) rfl)
    | (apply hfb.bit (i := 5) rfl)
    | (apply hfb.bit (i := 6) rfl)
    | (apply hfb.bit (i := 7) rfl)
    | (apply hfb.bit (i := 8) rfl)
    | (apply hfb.bit (i := 9) rfl)
    | (apply hfb.bit (i := 10) rfl)
    | (apply hfb.bit (i := 11) rfl)
    | (apply hfb.bit (i := 12) rfl)
    | (apply hfb.bit (i := 13) rfl)
    | (apply hfb.bit (i := 14) rfl)
    | (apply hfb.bit (i := 15) rfl)
    | (apply hfb.bit (i := 16) rfl)
    | (apply hfb.bit (i := 17) rfl)
    | (apply hfb.bit (i := 18) rfl)
    | (extract_lets)
    | split
    | (intro _ _ _)
    | (intro _ e; have _hk : Frame _ _ _ _ := e)
    | (intro _ e; cases e)
    | dsimp only
    | (dsimp +zetaDelta only))

theorem State.writeRun_fr {fw fb : Nat} {s0 : State} (src : Nat) (n : Nat) (off : Nat) (v : Nat) (s : State) (hK : Frame fw fb s0 s) (hfw : Sub 37777959085437649681368 fw := by exact Sub.within hfw rfl) (hfb : Sub 524287 fb := by exact Sub.within hfb rfl) : Frame fw fb s0 (State.writeRun src n off v s) := by
  induction n generalizing off v s with
  | zero =>
    unfold State.writeRun
    repeat' (first
      | with_reducible assumption
      | with_reducible apply State.write64_fr
      | (with_reducible refine Frame.ite ?_ ?_)
      | ((with_reducible apply Sub.within hfw); exact rfl)
      | ((with_reducible apply Sub.within hfb); exact rfl)
      | ((with_reducible apply Mixed.of); exact rfl)
      | (apply hfb.bit (i := 0) rfl)
      | (apply hfb.bit (i := 1) rfl)
      | (apply hfb.bit (i := 2) rfl)
      | (apply hfb.bit (i := 3) rfl)
      | (apply hfb.bit (i := 4) rfl)
      | (apply hfb.bit (i := 5) rfl)
      | (apply hfb.bit (i := 6) rfl)
      | (apply hfb.bit (i := 7) rfl)
      | (apply hfb.bit (i := 8) rfl)
      | (apply hfb.bit (i := 9) rfl)
      | (apply hfb.bit (i := 10) rfl)
      | (apply hfb.bit (i := 11) rfl)
      | (apply hfb.bit (i := 12) rfl)
      | (apply hfb.bit (i := 13) rfl)
      | (apply hfb.bit (i := 14) rfl)
      | (apply hfb.bit (i := 15) rfl)
      | (apply hfb.bit (i := 16) rfl)
      | (apply hfb.bit (i := 17) rfl)
      | (apply hfb.bit (i := 18) rfl)
      | (extract_lets)
      | split
      | (intro _ _ _)
      | (intro _ e; have _hk : Frame _ _ _ _ := e)
      | (intro _ e; cases e)
      | dsimp only
      | (dsimp +zetaDelta only))
  | succ n ih =>
    unfold State.writeRun
    repeat' (first
      | with_reducible assumption
      | (with_reducible refine ih _ _ _ ?_)
      | with_reducible apply State.write64_fr
      | (with_reducible refine Frame.ite ?_ ?_)
      | ((with_reducible apply Sub.within hfw); exact rfl)
      | ((with_reducible apply Sub.within hfb); exact rfl)
      | ((with_reducible apply Mixed.of); exact rfl)
      | (apply hfb.bit (i := 0) rfl)
      | (apply hfb.bit (i := 1) rfl)
      | (apply hfb.bit (i := 2) rfl)
      | (apply hfb.bit (i := 3) rfl)
      | (apply hfb.bit (i := 4) rfl)
      | (apply hfb.bit (i := 5) rfl)
      | (apply hfb.bit (i := 6) rfl)
      | (apply hfb.bit (i := 7) rfl)
      | (apply hfb.bit (i := 8) rfl)
      | (apply hfb.bit (i := 9) rfl)
      | (apply hfb.bit (i := 10) rfl)
      | (apply hfb.bit (i := 11) rfl)
      | (apply hfb.bit (i := 12) rfl)
      | (apply hfb.bit (i := 13) rfl)
      | (apply hfb.bit (i := 14) rfl)
      | (apply hfb.bit (i := 15) rfl)
      | (apply hfb.bit (i := 16) rfl)
      | (apply hfb.bit (i := 17) rfl)
      | (apply hfb.bit (i := 18) rfl)
      | (extract_lets)
      | split
      | (intro _ _ _)
      | (intro _ e; have _hk : Frame _ _ _ _ := e)
      | (intro _ e; cases e)
      | dsimp only
      | (dsimp +zetaDelta only))

theorem State.writeNarrow_fr {fw fb : Nat} {s0 : State} (s : State) (src off value size : Nat) (hK : Frame fw fb s0 s) (hfw : Sub 208 fw := by exact Sub.within hfw rfl) (hfb : Sub 131072 fb := by exact Sub.within hfb rfl) : Frame fw fb s0 (State.writeNarrow s src off value size) := by
  unfold State.writeNarrow
  repeat' (first
    | with_reducible assumption
    | with_reducible apply State.discard_fr
    | with_reducible apply State.msixWrite_fr
    | (with_reducible refine Frame.ite ?_ ?_)
    | ((with_reducible apply Sub.within hfw); exact rfl)
    | ((with_reducible apply Sub.within hfb); exact rfl)
    | ((with_reducible apply Mixed.of); exact rfl)
    | (apply hfb.bit (i := 17) rfl)
    | (extract_lets)
    | split
    | (intro _ _ _)
    | (intro _ e; have _hk : Frame _ _ _ _ := e)
    | (intro _ e; cases e)
    | dsimp only
    | (dsimp +zetaDelta only))

theorem State.writeBytes_fr {fw fb : Nat} {s0 : State} (s : State) (src off value size : Nat) (hK : Frame fw fb s0 s) (hfw : Sub 37777959085437649681368 fw := by exact Sub.within hfw rfl) (hfb : Sub 524287 fb := by exact Sub.within hfb rfl) : Frame fw fb s0 (State.writeBytes s src off value size) := by
  unfold State.writeBytes
  repeat' (first
    | with_reducible assumption
    | with_reducible apply State.msixWrite_fr
    | with_reducible apply State.windowStore_fr
    | with_reducible apply State.writeNarrow_fr
    | with_reducible apply State.writeRun_fr
    | (with_reducible refine Frame.ite ?_ ?_)
    | ((with_reducible apply Sub.within hfw); exact rfl)
    | ((with_reducible apply Sub.within hfb); exact rfl)
    | ((with_reducible apply Mixed.of); exact rfl)
    | (apply hfb.bit (i := 0) rfl)
    | (apply hfb.bit (i := 1) rfl)
    | (apply hfb.bit (i := 2) rfl)
    | (apply hfb.bit (i := 3) rfl)
    | (apply hfb.bit (i := 4) rfl)
    | (apply hfb.bit (i := 5) rfl)
    | (apply hfb.bit (i := 6) rfl)
    | (apply hfb.bit (i := 7) rfl)
    | (apply hfb.bit (i := 8) rfl)
    | (apply hfb.bit (i := 9) rfl)
    | (apply hfb.bit (i := 10) rfl)
    | (apply hfb.bit (i := 11) rfl)
    | (apply hfb.bit (i := 12) rfl)
    | (apply hfb.bit (i := 13) rfl)
    | (apply hfb.bit (i := 14) rfl)
    | (apply hfb.bit (i := 15) rfl)
    | (apply hfb.bit (i := 16) rfl)
    | (apply hfb.bit (i := 17) rfl)
    | (apply hfb.bit (i := 18) rfl)
    | (extract_lets)
    | split
    | (intro _ _ _)
    | (intro _ e; have _hk : Frame _ _ _ _ := e)
    | (intro _ e; cases e)
    | dsimp only
    | (dsimp +zetaDelta only))

theorem registerWrite_fr {fw fb : Nat} {s0 : State} (src off value size : Nat) (s : State) (hK : Frame fw fb s0 s) (hfw : Sub 37777959085437649681368 fw := by exact Sub.within hfw rfl) (hfb : Sub 524287 fb := by exact Sub.within hfb rfl) : Frame fw fb s0 (registerWrite src off value size s) := by
  unfold registerWrite
  repeat' (first
    | with_reducible assumption
    | with_reducible apply State.viaHost_fr
    | with_reducible apply State.writeBytes_fr
    | (with_reducible refine Frame.ite ?_ ?_)
    | ((with_reducible apply Sub.within hfw); exact rfl)
    | ((with_reducible apply Sub.within hfb); exact rfl)
    | ((with_reducible apply Mixed.of); exact rfl)
    | (apply hfb.bit (i := 0) rfl)
    | (apply hfb.bit (i := 1) rfl)
    | (apply hfb.bit (i := 2) rfl)
    | (apply hfb.bit (i := 3) rfl)
    | (apply hfb.bit (i := 4) rfl)
    | (apply hfb.bit (i := 5) rfl)
    | (apply hfb.bit (i := 6) rfl)
    | (apply hfb.bit (i := 7) rfl)
    | (apply hfb.bit (i := 8) rfl)
    | (apply hfb.bit (i := 9) rfl)
    | (apply hfb.bit (i := 10) rfl)
    | (apply hfb.bit (i := 11) rfl)
    | (apply hfb.bit (i := 12) rfl)
    | (apply hfb.bit (i := 13) rfl)
    | (apply hfb.bit (i := 14) rfl)
    | (apply hfb.bit (i := 15) rfl)
    | (apply hfb.bit (i := 16) rfl)
    | (apply hfb.bit (i := 17) rfl)
    | (apply hfb.bit (i := 18) rfl)
    | (extract_lets)
    | split
    | (intro _ _ _)
    | (intro _ e; have _hk : Frame _ _ _ _ := e)
    | (intro _ e; cases e)
    | dsimp only
    | (dsimp +zetaDelta only))

theorem execRegisterWrite_fr {fw fb : Nat} {s0 : State} (src off value size : Nat) (s : State) (hK : Frame fw fb s0 s) (hfw : Sub 37777959085437649681368 fw := by exact Sub.within hfw rfl) (hfb : Sub 524287 fb := by exact Sub.within hfb rfl) : ∀ u, execRegisterWrite src off value size s = .next u → Frame fw fb s0 u := by
  unfold execRegisterWrite
  repeat' (first
    | with_reducible assumption
    | with_reducible apply registerWrite_fr
    | (with_reducible refine Frame.ite ?_ ?_)
    | ((with_reducible apply Sub.within hfw); exact rfl)
    | ((with_reducible apply Sub.within hfb); exact rfl)
    | ((with_reducible apply Mixed.of); exact rfl)
    | (apply hfb.bit (i := 0) rfl)
    | (apply hfb.bit (i := 1) rfl)
    | (apply hfb.bit (i := 2) rfl)
    | (apply hfb.bit (i := 3) rfl)
    | (apply hfb.bit (i := 4) rfl)
    | (apply hfb.bit (i := 5) rfl)
    | (apply hfb.bit (i := 6) rfl)
    | (apply hfb.bit (i := 7) rfl)
    | (apply hfb.bit (i := 8) rfl)
    | (apply hfb.bit (i := 9) rfl)
    | (apply hfb.bit (i := 10) rfl)
    | (apply hfb.bit (i := 11) rfl)
    | (apply hfb.bit (i := 12) rfl)
    | (apply hfb.bit (i := 13) rfl)
    | (apply hfb.bit (i := 14) rfl)
    | (apply hfb.bit (i := 15) rfl)
    | (apply hfb.bit (i := 16) rfl)
    | (apply hfb.bit (i := 17) rfl)
    | (apply hfb.bit (i := 18) rfl)
    | (extract_lets)
    | split
    | (intro _ _ _)
    | (intro _ e; have _hk : Frame _ _ _ _ := e)
    | (intro _ e; cases e)
    | dsimp only
    | (dsimp +zetaDelta only))

end Sys2Proof.Machine
end

