-- ==== Sys2Proof/Laws/Frame/Retire.lean ====
section
/-! SUPPORT. What the operations of Machine/Retire.lean leave as it was (`Frame`): one lemma each. -/

set_option linter.unreachableTactic false
set_option linter.unusedTactic false

namespace Sys2Proof.Machine

set_option Elab.async false

open Sys2Proof

theorem repairSwap_fr {fw fb : Nat} {s0 : State} (n : Nat) (s : State) (hK : Frame fw fb s0 s) (hfw : Sub 1153062242632073224 fw := by exact Sub.within hfw rfl) (hfb : Sub 4624 fb := by exact Sub.within hfb rfl) : Frame fw fb s0 (repairSwap n s) := by
  unfold repairSwap
  repeat' (first
    | with_reducible assumption
    | with_reducible apply State.swapIn_fr
    | (with_reducible refine Frame.ite ?_ ?_)
    | ((with_reducible apply Sub.within hfw); exact rfl)
    | ((with_reducible apply Sub.within hfb); exact rfl)
    | ((with_reducible apply Mixed.of); exact rfl)
    | (apply hfb.bit (i := 4) rfl)
    | (apply hfb.bit (i := 9) rfl)
    | (apply hfb.bit (i := 12) rfl)
    | (extract_lets)
    | split
    | (intro _ _ _)
    | (intro _ e; have _hk : Frame _ _ _ _ := e)
    | (intro _ e; cases e)
    | dsimp only
    | (dsimp +zetaDelta only))

theorem execRepairSwap_fr {fw fb : Nat} {s0 : State} (slot : Nat) (s : State) (hK : Frame fw fb s0 s) (hfw : Sub 1153062242632073224 fw := by exact Sub.within hfw rfl) (hfb : Sub 4624 fb := by exact Sub.within hfb rfl) : ∀ u, execRepairSwap slot s = .next u → Frame fw fb s0 u := by
  unfold execRepairSwap
  repeat' (first
    | with_reducible assumption
    | with_reducible apply repairSwap_fr
    | (with_reducible refine Frame.ite ?_ ?_)
    | ((with_reducible apply Sub.within hfw); exact rfl)
    | ((with_reducible apply Sub.within hfb); exact rfl)
    | ((with_reducible apply Mixed.of); exact rfl)
    | (apply hfb.bit (i := 4) rfl)
    | (apply hfb.bit (i := 9) rfl)
    | (apply hfb.bit (i := 12) rfl)
    | (extract_lets)
    | split
    | (intro _ _ _)
    | (intro _ e; have _hk : Frame _ _ _ _ := e)
    | (intro _ e; cases e)
    | dsimp only
    | (dsimp +zetaDelta only))

theorem State.retireOn_fr {fw fb : Nat} {s0 : State} (s : State) (n k : Nat) (hK : Frame fw fb s0 s) (hfw : Sub 10376293541461690880 fw := by exact Sub.within hfw rfl) (hfb : Sub 4096 fb := by exact Sub.within hfb rfl) : Frame fw fb s0 (State.retireOn s n k) := by
  unfold State.retireOn
  repeat' (first
    | with_reducible assumption
    | with_reducible apply State.doneWith_fr
    | with_reducible apply State.slotEmpty_fr
    | (with_reducible refine Frame.ite ?_ ?_)
    | ((with_reducible apply Sub.within hfw); exact rfl)
    | ((with_reducible apply Sub.within hfb); exact rfl)
    | ((with_reducible apply Mixed.of); exact rfl)
    | (apply hfb.bit (i := 12) rfl)
    | (extract_lets)
    | split
    | (intro _ _ _)
    | (intro _ e; have _hk : Frame _ _ _ _ := e)
    | (intro _ e; cases e)
    | dsimp only
    | (dsimp +zetaDelta only))

theorem modelRetire_fr {fw fb : Nat} {s0 : State} (s : State) (c : Cmd) (hK : Frame fw fb s0 s) (hfw : Sub 10376311133647735296 fw := by exact Sub.within hfw rfl) (hfb : Sub 4352 fb := by exact Sub.within hfb rfl) : Frame fw fb s0 (modelRetire s c) := by
  have k0 : ∀ (t : State) x0, Frame fw fb s0 t → Frame fw fb s0 { t with variants := x0 } := fun t x0 ht => Frame.upd ht hfw rfl rfl ⟨rfl, rfl, rfl⟩
  unfold modelRetire
  repeat' (first
    | with_reducible assumption
    | with_reducible apply State.closeAll_fr
    | with_reducible apply State.doneWith_fr
    | with_reducible apply State.failWith_fr
    | with_reducible apply State.retireOn_fr
    | with_reducible apply State.serveRegs_fr
    | with_reducible apply State.slotEmpty_fr
    | with_reducible apply State.start_fr
    | with_reducible apply State.wr_fr
    | (with_reducible refine Frame.ite ?_ ?_)
    | ((with_reducible apply Sub.within hfw); exact rfl)
    | ((with_reducible apply Sub.within hfb); exact rfl)
    | ((with_reducible apply Mixed.of); exact rfl)
    | (apply hfb.bit (i := 8) rfl)
    | (apply hfb.bit (i := 12) rfl)
    | (extract_lets)
    | (fail_if_no_progress (with_reducible refine k0 _ _ ?_))
    | split
    | (intro _ _ _)
    | (intro _ e; have _hk : Frame _ _ _ _ := e)
    | (intro _ e; cases e)
    | dsimp only
    | (dsimp +zetaDelta only)
    | (fail_if_no_progress ((with_reducible refine Frame.upd ?_ hfw ?_ rfl ⟨rfl, rfl, rfl⟩); rotate_left; exact rfl)))

theorem execModelRetire_fr {fw fb : Nat} {s0 : State} (k : Nat) (s : State) (hK : Frame fw fb s0 s) (hfw : Sub 10376311133647735296 fw := by exact Sub.within hfw rfl) (hfb : Sub 4352 fb := by exact Sub.within hfb rfl) : ∀ u, execModelRetire k s = .next u → Frame fw fb s0 u := by
  unfold execModelRetire
  repeat' (first
    | with_reducible assumption
    | with_reducible apply State.retireOn_fr
    | with_reducible apply State.runCmd_fr
    | with_reducible apply modelRetire_fr
    | (with_reducible refine Frame.ite ?_ ?_)
    | ((with_reducible apply Sub.within hfw); exact rfl)
    | ((with_reducible apply Sub.within hfb); exact rfl)
    | ((with_reducible apply Mixed.of); exact rfl)
    | (apply hfb.bit (i := 8) rfl)
    | (apply hfb.bit (i := 12) rfl)
    | (extract_lets)
    | split
    | (intro _ _ _)
    | (intro _ e; have _hk : Frame _ _ _ _ := e)
    | (intro _ e; cases e)
    | dsimp only
    | (dsimp +zetaDelta only))

end Sys2Proof.Machine
end

