-- ==== Sys2Proof/Laws/Frame/SideBand.lean ====
section
/-! SUPPORT. What the operations of Machine/SideBand.lean leave as it was (`Frame`): one lemma each. -/

set_option linter.unreachableTactic false
set_option linter.unusedTactic false

namespace Sys2Proof.Machine

set_option Elab.async false

open Sys2Proof

theorem State.sbHeard_fr {fw fb : Nat} {s0 : State} (s : State) (hK : Frame fw fb s0 s) (hfw : Sub 36893488147419103232 fw := by exact Sub.within hfw rfl) (hfb : Sub 65536 fb := by exact Sub.within hfb rfl) : Frame fw fb s0 (State.sbHeard s) := by
  have k0 : ∀ (t : State) x0, Frame fw fb s0 t → Frame fw fb s0 { t with mgmt := x0 } := fun t x0 ht => Frame.upd ht hfw rfl rfl ⟨rfl, rfl, rfl⟩
  unfold State.sbHeard
  repeat' (first
    | with_reducible assumption
    | with_reducible apply State.wr_fr
    | (with_reducible refine Frame.ite ?_ ?_)
    | ((with_reducible apply Sub.within hfw); exact rfl)
    | ((with_reducible apply Sub.within hfb); exact rfl)
    | ((with_reducible apply Mixed.of); exact rfl)
    | (apply hfb.bit (i := 16) rfl)
    | (extract_lets)
    | (fail_if_no_progress (with_reducible refine k0 _ _ ?_))
    | split
    | (intro _ _ _)
    | (intro _ e; have _hk : Frame _ _ _ _ := e)
    | (intro _ e; cases e)
    | dsimp only
    | (dsimp +zetaDelta only)
    | (fail_if_no_progress ((with_reducible refine Frame.upd ?_ hfw ?_ rfl ⟨rfl, rfl, rfl⟩); rotate_left; exact rfl)))

theorem State.onMessage_fr {fw fb : Nat} {s0 : State} (s : State) (f : State → State) (hf : ∀ t, Frame fw fb s0 t → Frame fw fb s0 (f t)) (hK : Frame fw fb s0 s) (hfw : Sub 36893488147419103232 fw := by exact Sub.within hfw rfl) (hfb : Sub 65536 fb := by exact Sub.within hfb rfl) : Frame fw fb s0 (State.onMessage s f) := by
  unfold State.onMessage
  repeat' (first
    | with_reducible assumption
    | with_reducible apply State.sbHeard_fr
    | (with_reducible refine Frame.ite ?_ ?_)
    | ((with_reducible apply Sub.within hfw); exact rfl)
    | ((with_reducible apply Sub.within hfb); exact rfl)
    | ((with_reducible apply Mixed.of); exact rfl)
    | (apply hfb.bit (i := 16) rfl)
    | (extract_lets)
    | split
    | (intro _ _ _)
    | (intro _ e; have _hk : Frame _ _ _ _ := e)
    | (intro _ e; cases e)
    | dsimp only
    | (dsimp +zetaDelta only)
    | with_reducible apply hf)

theorem i3cAddressAssign_fr {fw fb : Nat} {s0 : State} (addr : Nat) (s : State) (hK : Frame fw fb s0 s) (hfb : Sub 65536 fb := by exact Sub.within hfb rfl) : Frame fw fb s0 (i3cAddressAssign addr s) := by
  unfold i3cAddressAssign
  repeat' (first
    | with_reducible assumption
    | with_reducible apply State.wr_fr
    | (with_reducible refine Frame.ite ?_ ?_)
    | ((with_reducible apply Sub.within hfw); exact rfl)
    | ((with_reducible apply Sub.within hfb); exact rfl)
    | ((with_reducible apply Mixed.of); exact rfl)
    | (apply hfb.bit (i := 16) rfl)
    | (dsimp only [State.wrs, State.regs0, List.foldl])
    | (extract_lets)
    | split
    | (intro _ _ _)
    | (intro _ e; have _hk : Frame _ _ _ _ := e)
    | (intro _ e; cases e)
    | dsimp only
    | (dsimp +zetaDelta only))

theorem execI3cAddressAssign_fr {fw fb : Nat} {s0 : State} (addr : Nat) (s : State) (hK : Frame fw fb s0 s) (hfb : Sub 65536 fb := by exact Sub.within hfb rfl) : ∀ u, execI3cAddressAssign addr s = .next u → Frame fw fb s0 u := by
  unfold execI3cAddressAssign
  repeat' (first
    | with_reducible assumption
    | with_reducible apply i3cAddressAssign_fr
    | (with_reducible refine Frame.ite ?_ ?_)
    | ((with_reducible apply Sub.within hfw); exact rfl)
    | ((with_reducible apply Sub.within hfb); exact rfl)
    | ((with_reducible apply Mixed.of); exact rfl)
    | (apply hfb.bit (i := 16) rfl)
    | (extract_lets)
    | split
    | (intro _ _ _)
    | (intro _ e; have _hk : Frame _ _ _ _ := e)
    | (intro _ e; cases e)
    | dsimp only
    | (dsimp +zetaDelta only))

theorem execSetEndpointId_fr {fw fb : Nat} {s0 : State} (eid : Nat) (s : State) (hK : Frame fw fb s0 s) (hfw : Sub 36893488147419103248 fw := by exact Sub.within hfw rfl) (hfb : Sub 65536 fb := by exact Sub.within hfb rfl) : ∀ u, execSetEndpointId eid s = .next u → Frame fw fb s0 u := by
  unfold execSetEndpointId
  repeat' (first
    | with_reducible assumption
    | with_reducible apply State.emit_fr
    | with_reducible apply State.onMessage_fr
    | with_reducible apply State.wr_fr
    | (with_reducible refine Frame.ite ?_ ?_)
    | ((with_reducible apply Sub.within hfw); exact rfl)
    | ((with_reducible apply Sub.within hfb); exact rfl)
    | ((with_reducible apply Mixed.of); exact rfl)
    | (apply hfb.bit (i := 16) rfl)
    | (dsimp only [State.wrs, State.regs0, List.foldl])
    | (extract_lets)
    | split
    | (intro _ _ _)
    | (intro _ e; have _hk : Frame _ _ _ _ := e)
    | (intro _ e; cases e)
    | dsimp only
    | (dsimp +zetaDelta only))

theorem execGetEndpointId_fr {fw fb : Nat} {s0 : State} (s : State) (hK : Frame fw fb s0 s) (hfw : Sub 36893488147419103248 fw := by exact Sub.within hfw rfl) (hfb : Sub 65536 fb := by exact Sub.within hfb rfl) : ∀ u, execGetEndpointId s = .next u → Frame fw fb s0 u := by
  unfold execGetEndpointId
  repeat' (first
    | with_reducible assumption
    | with_reducible apply State.emit_fr
    | with_reducible apply State.onMessage_fr
    | (with_reducible refine Frame.ite ?_ ?_)
    | ((with_reducible apply Sub.within hfw); exact rfl)
    | ((with_reducible apply Sub.within hfb); exact rfl)
    | ((with_reducible apply Mixed.of); exact rfl)
    | (apply hfb.bit (i := 16) rfl)
    | (extract_lets)
    | split
    | (intro _ _ _)
    | (intro _ e; have _hk : Frame _ _ _ _ := e)
    | (intro _ e; cases e)
    | dsimp only
    | (dsimp +zetaDelta only))

theorem execGetMctpVersionSupport_fr {fw fb : Nat} {s0 : State} (s : State) (hK : Frame fw fb s0 s) (hfw : Sub 36893488147419103248 fw := by exact Sub.within hfw rfl) (hfb : Sub 65536 fb := by exact Sub.within hfb rfl) : ∀ u, execGetMctpVersionSupport s = .next u → Frame fw fb s0 u := by
  unfold execGetMctpVersionSupport
  repeat' (first
    | with_reducible assumption
    | with_reducible apply State.emit_fr
    | with_reducible apply State.onMessage_fr
    | (with_reducible refine Frame.ite ?_ ?_)
    | ((with_reducible apply Sub.within hfw); exact rfl)
    | ((with_reducible apply Sub.within hfb); exact rfl)
    | ((with_reducible apply Mixed.of); exact rfl)
    | (apply hfb.bit (i := 16) rfl)
    | (extract_lets)
    | split
    | (intro _ _ _)
    | (intro _ e; have _hk : Frame _ _ _ _ := e)
    | (intro _ e; cases e)
    | dsimp only
    | (dsimp +zetaDelta only))

theorem execGetMessageTypeSupport_fr {fw fb : Nat} {s0 : State} (s : State) (hK : Frame fw fb s0 s) (hfw : Sub 36893488147419103248 fw := by exact Sub.within hfw rfl) (hfb : Sub 65536 fb := by exact Sub.within hfb rfl) : ∀ u, execGetMessageTypeSupport s = .next u → Frame fw fb s0 u := by
  unfold execGetMessageTypeSupport
  repeat' (first
    | with_reducible assumption
    | with_reducible apply State.emit_fr
    | with_reducible apply State.onMessage_fr
    | (with_reducible refine Frame.ite ?_ ?_)
    | ((with_reducible apply Sub.within hfw); exact rfl)
    | ((with_reducible apply Sub.within hfb); exact rfl)
    | ((with_reducible apply Mixed.of); exact rfl)
    | (apply hfb.bit (i := 16) rfl)
    | (extract_lets)
    | split
    | (intro _ _ _)
    | (intro _ e; have _hk : Frame _ _ _ _ := e)
    | (intro _ e; cases e)
    | dsimp only
    | (dsimp +zetaDelta only))

theorem execMctpMessageDrop_fr {fw fb : Nat} {s0 : State} (s : State) (hK : Frame fw fb s0 s) (hfb : Sub 65536 fb := by exact Sub.within hfb rfl) : ∀ u, execMctpMessageDrop s = .next u → Frame fw fb s0 u := by
  unfold execMctpMessageDrop
  repeat' (first
    | with_reducible assumption
    | with_reducible apply State.bump_fr
    | (with_reducible refine Frame.ite ?_ ?_)
    | ((with_reducible apply Sub.within hfw); exact rfl)
    | ((with_reducible apply Sub.within hfb); exact rfl)
    | ((with_reducible apply Mixed.of); exact rfl)
    | (apply hfb.bit (i := 16) rfl)
    | (extract_lets)
    | split
    | (intro _ _ _)
    | (intro _ e; have _hk : Frame _ _ _ _ := e)
    | (intro _ e; cases e)
    | dsimp only
    | (dsimp +zetaDelta only))

theorem rmSilence_fr {fw fb : Nat} {s0 : State} (s : State) (hK : Frame fw fb s0 s) (hfw : Sub 208 fw := by exact Sub.within hfw rfl) (hfb : Sub 196608 fb := by exact Sub.within hfb rfl) : Frame fw fb s0 (rmSilence s) := by
  unfold rmSilence
  repeat' (first
    | with_reducible assumption
    | with_reducible apply State.record_fr
    | with_reducible apply State.wr_fr
    | (with_reducible refine Frame.ite ?_ ?_)
    | ((with_reducible apply Sub.within hfw); exact rfl)
    | ((with_reducible apply Sub.within hfb); exact rfl)
    | ((with_reducible apply Mixed.of); exact rfl)
    | (apply hfb.bit (i := 16) rfl)
    | (apply hfb.bit (i := 17) rfl)
    | (extract_lets)
    | split
    | (intro _ _ _)
    | (intro _ e; have _hk : Frame _ _ _ _ := e)
    | (intro _ e; cases e)
    | dsimp only
    | (dsimp +zetaDelta only))

theorem execRmSilence_fr {fw fb : Nat} {s0 : State} (s : State) (hK : Frame fw fb s0 s) (hfw : Sub 208 fw := by exact Sub.within hfw rfl) (hfb : Sub 196608 fb := by exact Sub.within hfb rfl) : ∀ u, execRmSilence s = .next u → Frame fw fb s0 u := by
  unfold execRmSilence
  repeat' (first
    | with_reducible assumption
    | with_reducible apply rmSilence_fr
    | (with_reducible refine Frame.ite ?_ ?_)
    | ((with_reducible apply Sub.within hfw); exact rfl)
    | ((with_reducible apply Sub.within hfb); exact rfl)
    | ((with_reducible apply Mixed.of); exact rfl)
    | (apply hfb.bit (i := 16) rfl)
    | (apply hfb.bit (i := 17) rfl)
    | (extract_lets)
    | split
    | (intro _ _ _)
    | (intro _ e; have _hk : Frame _ _ _ _ := e)
    | (intro _ e; cases e)
    | dsimp only
    | (dsimp +zetaDelta only))

theorem State.sbRefuse_fr {fw fb : Nat} {s0 : State} (s : State) (c : Cmd) (st det : Nat) (hK : Frame fw fb s0 s) (hfw : Sub 16 fw := by exact Sub.within hfw rfl) : Frame fw fb s0 (State.sbRefuse s c st det) := by
  unfold State.sbRefuse
  repeat' (first
    | with_reducible assumption
    | with_reducible apply State.emit_fr
    | (with_reducible refine Frame.ite ?_ ?_)
    | ((with_reducible apply Sub.within hfw); exact rfl)
    | ((with_reducible apply Sub.within hfb); exact rfl)
    | ((with_reducible apply Mixed.of); exact rfl)
    | (extract_lets)
    | split
    | (intro _ _ _)
    | (intro _ e; have _hk : Frame _ _ _ _ := e)
    | (intro _ e; cases e)
    | dsimp only
    | (dsimp +zetaDelta only))

theorem sbCommand_fr {fw fb : Nat} {s0 : State} (tag : Nat) (bytes : List Nat) (s : State) (hK : Frame fw fb s0 s) (hfw : Sub 36893488147419103248 fw := by exact Sub.within hfw rfl) (hfb : Sub 65538 fb := by exact Sub.within hfb rfl) : Frame fw fb s0 (sbCommand tag bytes s) := by
  have k0 : ∀ (t : State) x0, Frame fw fb s0 t → Frame fw fb s0 { t with mgmt := x0 } := fun t x0 ht => Frame.upd ht hfw rfl rfl ⟨rfl, rfl, rfl⟩
  unfold sbCommand
  repeat' (first
    | with_reducible assumption
    | with_reducible apply State.bump_fr
    | with_reducible apply State.sbRefuse_fr
    | with_reducible apply State.sbRegs_fr
    | (with_reducible refine Frame.ite ?_ ?_)
    | ((with_reducible apply Sub.within hfw); exact rfl)
    | ((with_reducible apply Sub.within hfb); exact rfl)
    | ((with_reducible apply Mixed.of); exact rfl)
    | (apply hfb.bit (i := 1) rfl)
    | (apply hfb.bit (i := 16) rfl)
    | (extract_lets)
    | (fail_if_no_progress (with_reducible refine k0 _ _ ?_))
    | split
    | (intro _ _ _)
    | (intro _ e; have _hk : Frame _ _ _ _ := e)
    | (intro _ e; cases e)
    | dsimp only
    | (dsimp +zetaDelta only)
    | (fail_if_no_progress ((with_reducible refine Frame.upd ?_ hfw ?_ rfl ⟨rfl, rfl, rfl⟩); rotate_left; exact rfl)))

theorem execSbCommand_fr {fw fb : Nat} {s0 : State} (tag : Nat) (bytes : List Nat) (s : State) (hK : Frame fw fb s0 s) (hfw : Sub 36893488147419103248 fw := by exact Sub.within hfw rfl) (hfb : Sub 65538 fb := by exact Sub.within hfb rfl) : ∀ u, execSbCommand tag bytes s = .next u → Frame fw fb s0 u := by
  unfold execSbCommand
  repeat' (first
    | with_reducible assumption
    | with_reducible apply State.onMessage_fr
    | with_reducible apply sbCommand_fr
    | (with_reducible refine Frame.ite ?_ ?_)
    | ((with_reducible apply Sub.within hfw); exact rfl)
    | ((with_reducible apply Sub.within hfb); exact rfl)
    | ((with_reducible apply Mixed.of); exact rfl)
    | (apply hfb.bit (i := 1) rfl)
    | (apply hfb.bit (i := 16) rfl)
    | (extract_lets)
    | split
    | (intro _ _ _)
    | (intro _ e; have _hk : Frame _ _ _ _ := e)
    | (intro _ e; cases e)
    | dsimp only
    | (dsimp +zetaDelta only))

theorem State.sbTake_fr {fw fb : Nat} {s0 : State} (s : State) (c : Cmd) (hK : Frame fw fb s0 s) (hfw : Sub 147573952589676416720 fw := by exact Sub.within hfw rfl) (hfb : Sub 393216 fb := by exact Sub.within hfb rfl) : Frame fw fb s0 (State.sbTake s c) := by
  have k0 : ∀ (t : State) x0 x1, Frame fw fb s0 t → Frame fw fb s0 { t with cmds := x0, nextCmd := x1 } := fun t x0 x1 ht => Frame.upd ht hfw rfl rfl ⟨rfl, rfl, rfl⟩
  unfold State.sbTake
  repeat' (first
    | with_reducible assumption
    | with_reducible apply State.enter_fr
    | with_reducible apply State.failWith_fr
    | (with_reducible refine Frame.ite ?_ ?_)
    | ((with_reducible apply Sub.within hfw); exact rfl)
    | ((with_reducible apply Sub.within hfb); exact rfl)
    | ((with_reducible apply Mixed.of); exact rfl)
    | (apply hfb.bit (i := 17) rfl)
    | (apply hfb.bit (i := 18) rfl)
    | (extract_lets)
    | (fail_if_no_progress (with_reducible refine k0 _ _ _ ?_))
    | split
    | (intro _ _ _)
    | (intro _ e; have _hk : Frame _ _ _ _ := e)
    | (intro _ e; cases e)
    | dsimp only
    | (dsimp +zetaDelta only)
    | (fail_if_no_progress ((with_reducible refine Frame.upd ?_ hfw ?_ rfl ⟨rfl, rfl, rfl⟩); rotate_left; exact rfl)))

theorem State.sbHand_fr {fw fb : Nat} {s0 : State}  (l : List Cmd) (s : State) (hK : Frame fw fb s0 s) (hfw : Sub 184467440737095519952 fw := by exact Sub.within hfw rfl) (hfb : Sub 393216 fb := by exact Sub.within hfb rfl) : Frame fw fb s0 (State.sbHand l s) := by
  induction l generalizing s with
  | nil =>
    have k0 : ∀ (t : State) x0, Frame fw fb s0 t → Frame fw fb s0 { t with mgmt := x0 } := fun t x0 ht => Frame.upd ht hfw rfl rfl ⟨rfl, rfl, rfl⟩
    unfold State.sbHand
    repeat' (first
      | with_reducible assumption
      | with_reducible apply State.sbTake_fr
      | (with_reducible refine Frame.ite ?_ ?_)
      | ((with_reducible apply Sub.within hfw); exact rfl)
      | ((with_reducible apply Sub.within hfb); exact rfl)
      | ((with_reducible apply Mixed.of); exact rfl)
      | (apply hfb.bit (i := 17) rfl)
      | (apply hfb.bit (i := 18) rfl)
      | (extract_lets)
      | (fail_if_no_progress (with_reducible refine k0 _ _ ?_))
      | split
      | (intro _ _ _)
      | (intro _ e; have _hk : Frame _ _ _ _ := e)
      | (intro _ e; cases e)
      | dsimp only
      | (dsimp +zetaDelta only)
      | (fail_if_no_progress ((with_reducible refine Frame.upd ?_ hfw ?_ rfl ⟨rfl, rfl, rfl⟩); rotate_left; exact rfl)))
  | cons x r ih =>
    have k0 : ∀ (t : State) x0, Frame fw fb s0 t → Frame fw fb s0 { t with mgmt := x0 } := fun t x0 ht => Frame.upd ht hfw rfl rfl ⟨rfl, rfl, rfl⟩
    unfold State.sbHand
    repeat' (first
      | with_reducible assumption
      | (with_reducible refine ih _ ?_)
      | with_reducible apply State.sbTake_fr
      | (with_reducible refine Frame.ite ?_ ?_)
      | ((with_reducible apply Sub.within hfw); exact rfl)
      | ((with_reducible apply Sub.within hfb); exact rfl)
      | ((with_reducible apply Mixed.of); exact rfl)
      | (apply hfb.bit (i := 17) rfl)
      | (apply hfb.bit (i := 18) rfl)
      | (extract_lets)
      | (fail_if_no_progress (with_reducible refine k0 _ _ ?_))
      | split
      | (intro _ _ _)
      | (intro _ e; have _hk : Frame _ _ _ _ := e)
      | (intro _ e; cases e)
      | dsimp only
      | (dsimp +zetaDelta only)
      | (fail_if_no_progress ((with_reducible refine Frame.upd ?_ hfw ?_ rfl ⟨rfl, rfl, rfl⟩); rotate_left; exact rfl)))

theorem sbHandover_fr {fw fb : Nat} {s0 : State} (s : State) (hK : Frame fw fb s0 s) (hfw : Sub 184467440737095519952 fw := by exact Sub.within hfw rfl) (hfb : Sub 458752 fb := by exact Sub.within hfb rfl) : Frame fw fb s0 (sbHandover s) := by
  unfold sbHandover
  repeat' (first
    | with_reducible assumption
    | with_reducible apply State.sbHand_fr
    | with_reducible apply State.sbRegs_fr
    | (with_reducible refine Frame.ite ?_ ?_)
    | ((with_reducible apply Sub.within hfw); exact rfl)
    | ((with_reducible apply Sub.within hfb); exact rfl)
    | ((with_reducible apply Mixed.of); exact rfl)
    | (apply hfb.bit (i := 16) rfl)
    | (apply hfb.bit (i := 17) rfl)
    | (apply hfb.bit (i := 18) rfl)
    | (extract_lets)
    | split
    | (intro _ _ _)
    | (intro _ e; have _hk : Frame _ _ _ _ := e)
    | (intro _ e; cases e)
    | dsimp only
    | (dsimp +zetaDelta only))

theorem execSbHandover_fr {fw fb : Nat} {s0 : State} (s : State) (hK : Frame fw fb s0 s) (hfw : Sub 184467440737095519952 fw := by exact Sub.within hfw rfl) (hfb : Sub 458752 fb := by exact Sub.within hfb rfl) : ∀ u, execSbHandover s = .next u → Frame fw fb s0 u := by
  unfold execSbHandover
  repeat' (first
    | with_reducible assumption
    | with_reducible apply sbHandover_fr
    | (with_reducible refine Frame.ite ?_ ?_)
    | ((with_reducible apply Sub.within hfw); exact rfl)
    | ((with_reducible apply Sub.within hfb); exact rfl)
    | ((with_reducible apply Mixed.of); exact rfl)
    | (apply hfb.bit (i := 16) rfl)
    | (apply hfb.bit (i := 17) rfl)
    | (apply hfb.bit (i := 18) rfl)
    | (extract_lets)
    | split
    | (intro _ _ _)
    | (intro _ e; have _hk : Frame _ _ _ _ := e)
    | (intro _ e; cases e)
    | dsimp only
    | (dsimp +zetaDelta only))

theorem sbReply_fr {fw fb : Nat} {s0 : State} (s : State) (hK : Frame fw fb s0 s) (hfw : Sub 528 fw := by exact Sub.within hfw rfl) (hfb : Sub 65536 fb := by exact Sub.within hfb rfl) : Frame fw fb s0 (sbReply s) := by
  have k0 : ∀ (t : State) x0, Frame fw fb s0 t → Frame fw fb s0 { t with cmds := x0 } := fun t x0 ht => Frame.upd ht hfw rfl rfl ⟨rfl, rfl, rfl⟩
  unfold sbReply
  repeat' (first
    | with_reducible assumption
    | with_reducible apply State.emit_fr
    | with_reducible apply State.sbRegs_fr
    | (with_reducible refine Frame.foldl ?_ ?_)
    | (with_reducible refine Frame.foldr ?_ ?_)
    | (with_reducible refine Frame.ite ?_ ?_)
    | ((with_reducible apply Sub.within hfw); exact rfl)
    | ((with_reducible apply Sub.within hfb); exact rfl)
    | ((with_reducible apply Mixed.of); exact rfl)
    | (apply hfb.bit (i := 16) rfl)
    | (extract_lets)
    | (fail_if_no_progress (with_reducible refine k0 _ _ ?_))
    | split
    | (intro _ _ _)
    | (intro _ e; have _hk : Frame _ _ _ _ := e)
    | (intro _ e; cases e)
    | dsimp only
    | (dsimp +zetaDelta only)
    | (fail_if_no_progress ((with_reducible refine Frame.upd ?_ hfw ?_ rfl ⟨rfl, rfl, rfl⟩); rotate_left; exact rfl)))

theorem execSbReply_fr {fw fb : Nat} {s0 : State} (s : State) (hK : Frame fw fb s0 s) (hfw : Sub 528 fw := by exact Sub.within hfw rfl) (hfb : Sub 65536 fb := by exact Sub.within hfb rfl) : ∀ u, execSbReply s = .next u → Frame fw fb s0 u := by
  unfold execSbReply
  repeat' (first
    | with_reducible assumption
    | with_reducible apply sbReply_fr
    | (with_reducible refine Frame.ite ?_ ?_)
    | ((with_reducible apply Sub.within hfw); exact rfl)
    | ((with_reducible apply Sub.within hfb); exact rfl)
    | ((with_reducible apply Mixed.of); exact rfl)
    | (apply hfb.bit (i := 16) rfl)
    | (extract_lets)
    | split
    | (intro _ _ _)
    | (intro _ e; have _hk : Frame _ _ _ _ := e)
    | (intro _ e; cases e)
    | dsimp only
    | (dsimp +zetaDelta only))

theorem windowRead_fr {fw fb : Nat} {s0 : State} (off n : Nat) (s : State) (hK : Frame fw fb s0 s) (hfw : Sub 147574093327164768336 fw := by exact Sub.within hfw rfl) (hfb : Sub 524287 fb := by exact Sub.within hfb rfl) : Frame fw fb s0 (windowRead off n s) := by
  unfold windowRead
  repeat' (first
    | with_reducible assumption
    | with_reducible apply State.bump_fr
    | with_reducible apply State.emit_fr
    | with_reducible apply State.readRun_fr
    | (with_reducible apply State.readRun_fr_at; with_reducible assumption)
    | (with_reducible refine Frame.ite ?_ ?_)
    | ((with_reducible apply Sub.within hfw); exact rfl)
    | ((with_reducible apply Sub.within hfb); exact rfl)
    | ((with_reducible apply Mixed.of); exact rfl)
    | (apply hfb.bit (i := 0) rfl)
    | (apply hfb.bit (i := 1) rfl)
    | (apply hfb.bit (i := 2) rfl)
    | (apply hfb.bit (i := 3) rfl)
    | (apply hfb.bit (i := 4) rfl)
    | (apply hfb.bit (i := 5) rfl)
    | (apply hfb.bit (i := 6) rfl)
    | (apply hfb.bit (i := 7) rfl)
    | (apply hfb.bit (i := 8) rfl)
    | (apply hfb.bit (i := 9) rfl)
    | (apply hfb.bit (i := 10) rfl)
    | (apply hfb.bit (i := 11) rfl)
    | (apply hfb.bit (i := 12) rfl)
    | (apply hfb.bit (i := 13) rfl)
    | (apply hfb.bit (i := 14) rfl)
    | (apply hfb.bit (i := 15) rfl)
    | (apply hfb.bit (i := 16) rfl)
    | (apply hfb.bit (i := 17) rfl)
    | (apply hfb.bit (i := 18) rfl)
    | (extract_lets)
    | split
    | (intro _ _ _)
    | (intro _ e; have _hk : Frame _ _ _ _ := e)
    | (intro _ e; cases e)
    | dsimp only
    | (dsimp +zetaDelta only))

theorem execWindowRead_fr {fw fb : Nat} {s0 : State} (off count : Nat) (s : State) (hK : Frame fw fb s0 s) (hfw : Sub 184467581474583871568 fw := by exact Sub.within hfw rfl) (hfb : Sub 524287 fb := by exact Sub.within hfb rfl) : ∀ u, execWindowRead off count s = .next u → Frame fw fb s0 u := by
  unfold execWindowRead
  repeat' (first
    | with_reducible assumption
    | with_reducible apply State.onMessage_fr
    | with_reducible apply windowRead_fr
    | (with_reducible refine Frame.ite ?_ ?_)
    | ((with_reducible apply Sub.within hfw); exact rfl)
    | ((with_reducible apply Sub.within hfb); exact rfl)
    | ((with_reducible apply Mixed.of); exact rfl)
    | (apply hfb.bit (i := 0) rfl)
    | (apply hfb.bit (i := 1) rfl)
    | (apply hfb.bit (i := 2) rfl)
    | (apply hfb.bit (i := 3) rfl)
    | (apply hfb.bit (i := 4) rfl)
    | (apply hfb.bit (i := 5) rfl)
    | (apply hfb.bit (i := 6) rfl)
    | (apply hfb.bit (i := 7) rfl)
    | (apply hfb.bit (i := 8) rfl)
    | (apply hfb.bit (i := 9) rfl)
    | (apply hfb.bit (i := 10) rfl)
    | (apply hfb.bit (i := 11) rfl)
    | (apply hfb.bit (i := 12) rfl)
    | (apply hfb.bit (i := 13) rfl)
    | (apply hfb.bit (i := 14) rfl)
    | (apply hfb.bit (i := 15) rfl)
    | (apply hfb.bit (i := 16) rfl)
    | (apply hfb.bit (i := 17) rfl)
    | (apply hfb.bit (i := 18) rfl)
    | (extract_lets)
    | split
    | (intro _ _ _)
    | (intro _ e; have _hk : Frame _ _ _ _ := e)
    | (intro _ e; cases e)
    | dsimp only
    | (dsimp +zetaDelta only))

theorem writeValues_fr {fw fb : Nat} {s0 : State} (off : Nat) (l : List Nat) (s : State) (hK : Frame fw fb s0 s) (hfw : Sub 37777959085437649681368 fw := by exact Sub.within hfw rfl) (hfb : Sub 524287 fb := by exact Sub.within hfb rfl) : Frame fw fb s0 (writeValues off l s) := by
  induction l generalizing off s with
  | nil => exact hK
  | cons x r ih => exact ih _ _ (State.write64_fr _ _ _ _ hK)

theorem windowWriteMsg_fr {fw fb : Nat} {s0 : State} (off : Nat) (values : List Nat) (s : State) (hK : Frame fw fb s0 s) (hfw : Sub 37777959085437649681368 fw := by exact Sub.within hfw rfl) (hfb : Sub 524287 fb := by exact Sub.within hfb rfl) : Frame fw fb s0 (windowWriteMsg off values s) := by
  unfold windowWriteMsg
  repeat' (first
    | with_reducible assumption
    | with_reducible apply State.bump_fr
    | with_reducible apply State.emit_fr
    | with_reducible apply writeValues_fr
    | (with_reducible refine Frame.ite ?_ ?_)
    | ((with_reducible apply Sub.within hfw); exact rfl)
    | ((with_reducible apply Sub.within hfb); exact rfl)
    | ((with_reducible apply Mixed.of); exact rfl)
    | (apply hfb.bit (i := 0) rfl)
    | (apply hfb.bit (i := 1) rfl)
    | (apply hfb.bit (i := 2) rfl)
    | (apply hfb.bit (i := 3) rfl)
    | (apply hfb.bit (i := 4) rfl)
    | (apply hfb.bit (i := 5) rfl)
    | (apply hfb.bit (i := 6) rfl)
    | (apply hfb.bit (i := 7) rfl)
    | (apply hfb.bit (i := 8) rfl)
    | (apply hfb.bit (i := 9) rfl)
    | (apply hfb.bit (i := 10) rfl)
    | (apply hfb.bit (i := 11) rfl)
    | (apply hfb.bit (i := 12) rfl)
    | (apply hfb.bit (i := 13) rfl)
    | (apply hfb.bit (i := 14) rfl)
    | (apply hfb.bit (i := 15) rfl)
    | (apply hfb.bit (i := 16) rfl)
    | (apply hfb.bit (i := 17) rfl)
    | (apply hfb.bit (i := 18) rfl)
    | (extract_lets)
    | split
    | (intro _ _ _)
    | (intro _ e; have _hk : Frame _ _ _ _ := e)
    | (intro _ e; cases e)
    | dsimp only
    | (dsimp +zetaDelta only))

theorem execSidebandWindowWrite_fr {fw fb : Nat} {s0 : State} (off : Nat) (values : List Nat) (s : State) (hK : Frame fw fb s0 s) (hfw : Sub 37777959085437649681368 fw := by exact Sub.within hfw rfl) (hfb : Sub 524287 fb := by exact Sub.within hfb rfl) : ∀ u, execSidebandWindowWrite off values s = .next u → Frame fw fb s0 u := by
  unfold execSidebandWindowWrite
  repeat' (first
    | with_reducible assumption
    | with_reducible apply State.onMessage_fr
    | with_reducible apply windowWriteMsg_fr
    | (with_reducible refine Frame.ite ?_ ?_)
    | ((with_reducible apply Sub.within hfw); exact rfl)
    | ((with_reducible apply Sub.within hfb); exact rfl)
    | ((with_reducible apply Mixed.of); exact rfl)
    | (apply hfb.bit (i := 0) rfl)
    | (apply hfb.bit (i := 1) rfl)
    | (apply hfb.bit (i := 2) rfl)
    | (apply hfb.bit (i := 3) rfl)
    | (apply hfb.bit (i := 4) rfl)
    | (apply hfb.bit (i := 5) rfl)
    | (apply hfb.bit (i := 6) rfl)
    | (apply hfb.bit (i := 7) rfl)
    | (apply hfb.bit (i := 8) rfl)
    | (apply hfb.bit (i := 9) rfl)
    | (apply hfb.bit (i := 10) rfl)
    | (apply hfb.bit (i := 11) rfl)
    | (apply hfb.bit (i := 12) rfl)
    | (apply hfb.bit (i := 13) rfl)
    | (apply hfb.bit (i := 14) rfl)
    | (apply hfb.bit (i := 15) rfl)
    | (apply hfb.bit (i := 16) rfl)
    | (apply hfb.bit (i := 17) rfl)
    | (apply hfb.bit (i := 18) rfl)
    | (extract_lets)
    | split
    | (intro _ _ _)
    | (intro _ e; have _hk : Frame _ _ _ _ := e)
    | (intro _ e; cases e)
    | dsimp only
    | (dsimp +zetaDelta only))

theorem State.pldm_fr {fw fb : Nat} {s0 : State} (s : State) (f : State → List Nat) (hK : Frame fw fb s0 s) (hfw : Sub 36893488147419103248 fw := by exact Sub.within hfw rfl) (hfb : Sub 65536 fb := by exact Sub.within hfb rfl) : Frame fw fb s0 (State.pldm s f) := by
  unfold State.pldm
  repeat' (first
    | with_reducible assumption
    | with_reducible apply State.bump_fr
    | with_reducible apply State.emit_fr
    | with_reducible apply State.onMessage_fr
    | (with_reducible refine Frame.ite ?_ ?_)
    | ((with_reducible apply Sub.within hfw); exact rfl)
    | ((with_reducible apply Sub.within hfb); exact rfl)
    | ((with_reducible apply Mixed.of); exact rfl)
    | (apply hfb.bit (i := 16) rfl)
    | (extract_lets)
    | split
    | (intro _ _ _)
    | (intro _ e; have _hk : Frame _ _ _ _ := e)
    | (intro _ e; cases e)
    | dsimp only
    | (dsimp +zetaDelta only))

theorem execGettid_fr {fw fb : Nat} {s0 : State} (s : State) (hK : Frame fw fb s0 s) (hfw : Sub 36893488147419103248 fw := by exact Sub.within hfw rfl) (hfb : Sub 65536 fb := by exact Sub.within hfb rfl) : ∀ u, execGettid s = .next u → Frame fw fb s0 u := by
  unfold execGettid
  repeat' (first
    | with_reducible assumption
    | with_reducible apply State.pldm_fr
    | (with_reducible refine Frame.ite ?_ ?_)
    | ((with_reducible apply Sub.within hfw); exact rfl)
    | ((with_reducible apply Sub.within hfb); exact rfl)
    | ((with_reducible apply Mixed.of); exact rfl)
    | (apply hfb.bit (i := 16) rfl)
    | (extract_lets)
    | split
    | (intro _ _ _)
    | (intro _ e; have _hk : Frame _ _ _ _ := e)
    | (intro _ e; cases e)
    | dsimp only
    | (dsimp +zetaDelta only))

theorem execGetpldmversion_fr {fw fb : Nat} {s0 : State} (typ : Nat) (s : State) (hK : Frame fw fb s0 s) (hfw : Sub 36893488147419103248 fw := by exact Sub.within hfw rfl) (hfb : Sub 65536 fb := by exact Sub.within hfb rfl) : ∀ u, execGetpldmversion typ s = .next u → Frame fw fb s0 u := by
  unfold execGetpldmversion
  repeat' (first
    | with_reducible assumption
    | with_reducible apply State.pldm_fr
    | (with_reducible refine Frame.ite ?_ ?_)
    | ((with_reducible apply Sub.within hfw); exact rfl)
    | ((with_reducible apply Sub.within hfb); exact rfl)
    | ((with_reducible apply Mixed.of); exact rfl)
    | (apply hfb.bit (i := 16) rfl)
    | (extract_lets)
    | split
    | (intro _ _ _)
    | (intro _ e; have _hk : Frame _ _ _ _ := e)
    | (intro _ e; cases e)
    | dsimp only
    | (dsimp +zetaDelta only))

theorem execGetpldmtypes_fr {fw fb : Nat} {s0 : State} (s : State) (hK : Frame fw fb s0 s) (hfw : Sub 36893488147419103248 fw := by exact Sub.within hfw rfl) (hfb : Sub 65536 fb := by exact Sub.within hfb rfl) : ∀ u, execGetpldmtypes s = .next u → Frame fw fb s0 u := by
  unfold execGetpldmtypes
  repeat' (first
    | with_reducible assumption
    | with_reducible apply State.pldm_fr
    | (with_reducible refine Frame.ite ?_ ?_)
    | ((with_reducible apply Sub.within hfw); exact rfl)
    | ((with_reducible apply Sub.within hfb); exact rfl)
    | ((with_reducible apply Mixed.of); exact rfl)
    | (apply hfb.bit (i := 16) rfl)
    | (extract_lets)
    | split
    | (intro _ _ _)
    | (intro _ e; have _hk : Frame _ _ _ _ := e)
    | (intro _ e; cases e)
    | dsimp only
    | (dsimp +zetaDelta only))

theorem execGetpldmcommands_fr {fw fb : Nat} {s0 : State} (typ : Nat) (s : State) (hK : Frame fw fb s0 s) (hfw : Sub 36893488147419103248 fw := by exact Sub.within hfw rfl) (hfb : Sub 65536 fb := by exact Sub.within hfb rfl) : ∀ u, execGetpldmcommands typ s = .next u → Frame fw fb s0 u := by
  unfold execGetpldmcommands
  repeat' (first
    | with_reducible assumption
    | with_reducible apply State.pldm_fr
    | (with_reducible refine Frame.ite ?_ ?_)
    | ((with_reducible apply Sub.within hfw); exact rfl)
    | ((with_reducible apply Sub.within hfb); exact rfl)
    | ((with_reducible apply Mixed.of); exact rfl)
    | (apply hfb.bit (i := 16) rfl)
    | (extract_lets)
    | split
    | (intro _ _ _)
    | (intro _ e; have _hk : Frame _ _ _ _ := e)
    | (intro _ e; cases e)
    | dsimp only
    | (dsimp +zetaDelta only))

theorem execGetpdr_fr {fw fb : Nat} {s0 : State} (index : Nat) (s : State) (hK : Frame fw fb s0 s) (hfw : Sub 36893488147419103248 fw := by exact Sub.within hfw rfl) (hfb : Sub 65536 fb := by exact Sub.within hfb rfl) : ∀ u, execGetpdr index s = .next u → Frame fw fb s0 u := by
  unfold execGetpdr
  repeat' (first
    | with_reducible assumption
    | with_reducible apply State.pldm_fr
    | (with_reducible refine Frame.ite ?_ ?_)
    | ((with_reducible apply Sub.within hfw); exact rfl)
    | ((with_reducible apply Sub.within hfb); exact rfl)
    | ((with_reducible apply Mixed.of); exact rfl)
    | (apply hfb.bit (i := 16) rfl)
    | (extract_lets)
    | split
    | (intro _ _ _)
    | (intro _ e; have _hk : Frame _ _ _ _ := e)
    | (intro _ e; cases e)
    | dsimp only
    | (dsimp +zetaDelta only))

theorem execGetpdrrepositoryinfo_fr {fw fb : Nat} {s0 : State} (s : State) (hK : Frame fw fb s0 s) (hfw : Sub 36893488147419103248 fw := by exact Sub.within hfw rfl) (hfb : Sub 65536 fb := by exact Sub.within hfb rfl) : ∀ u, execGetpdrrepositoryinfo s = .next u → Frame fw fb s0 u := by
  unfold execGetpdrrepositoryinfo
  repeat' (first
    | with_reducible assumption
    | with_reducible apply State.pldm_fr
    | (with_reducible refine Frame.ite ?_ ?_)
    | ((with_reducible apply Sub.within hfw); exact rfl)
    | ((with_reducible apply Sub.within hfb); exact rfl)
    | ((with_reducible apply Mixed.of); exact rfl)
    | (apply hfb.bit (i := 16) rfl)
    | (extract_lets)
    | split
    | (intro _ _ _)
    | (intro _ e; have _hk : Frame _ _ _ _ := e)
    | (intro _ e; cases e)
    | dsimp only
    | (dsimp +zetaDelta only))

theorem execGetsensorreading_fr {fw fb : Nat} {s0 : State} (sensor : Nat) (s : State) (hK : Frame fw fb s0 s) (hfw : Sub 36893488147419103248 fw := by exact Sub.within hfw rfl) (hfb : Sub 65536 fb := by exact Sub.within hfb rfl) : ∀ u, execGetsensorreading sensor s = .next u → Frame fw fb s0 u := by
  unfold execGetsensorreading
  repeat' (first
    | with_reducible assumption
    | with_reducible apply State.pldm_fr
    | (with_reducible refine Frame.ite ?_ ?_)
    | ((with_reducible apply Sub.within hfw); exact rfl)
    | ((with_reducible apply Sub.within hfb); exact rfl)
    | ((with_reducible apply Mixed.of); exact rfl)
    | (apply hfb.bit (i := 16) rfl)
    | (extract_lets)
    | split
    | (intro _ _ _)
    | (intro _ e; have _hk : Frame _ _ _ _ := e)
    | (intro _ e; cases e)
    | dsimp only
    | (dsimp +zetaDelta only))

theorem execGetstatesensorreadings_fr {fw fb : Nat} {s0 : State} (sensor : Nat) (s : State) (hK : Frame fw fb s0 s) (hfw : Sub 36893488147419103248 fw := by exact Sub.within hfw rfl) (hfb : Sub 65536 fb := by exact Sub.within hfb rfl) : ∀ u, execGetstatesensorreadings sensor s = .next u → Frame fw fb s0 u := by
  unfold execGetstatesensorreadings
  repeat' (first
    | with_reducible assumption
    | with_reducible apply State.pldm_fr
    | (with_reducible refine Frame.getD ?_ ?_)
    | (with_reducible refine Frame.ite ?_ ?_)
    | ((with_reducible apply Sub.within hfw); exact rfl)
    | ((with_reducible apply Sub.within hfb); exact rfl)
    | ((with_reducible apply Mixed.of); exact rfl)
    | (apply hfb.bit (i := 16) rfl)
    | (extract_lets)
    | split
    | (intro _ _ _)
    | (intro _ e; have _hk : Frame _ _ _ _ := e)
    | (intro _ e; cases e)
    | dsimp only
    | (dsimp +zetaDelta only))

theorem execSeteventreceiver_fr {fw fb : Nat} {s0 : State} (eid : Nat) (s : State) (hK : Frame fw fb s0 s) (hfw : Sub 36893488147419103248 fw := by exact Sub.within hfw rfl) (hfb : Sub 65536 fb := by exact Sub.within hfb rfl) : ∀ u, execSeteventreceiver eid s = .next u → Frame fw fb s0 u := by
  have k0 : ∀ (t : State) x0, Frame fw fb s0 t → Frame fw fb s0 { t with mgmt := x0 } := fun t x0 ht => Frame.upd ht hfw rfl rfl ⟨rfl, rfl, rfl⟩
  unfold execSeteventreceiver
  repeat' (first
    | with_reducible assumption
    | with_reducible apply State.pldm_fr
    | (with_reducible refine Frame.ite ?_ ?_)
    | ((with_reducible apply Sub.within hfw); exact rfl)
    | ((with_reducible apply Sub.within hfb); exact rfl)
    | ((with_reducible apply Mixed.of); exact rfl)
    | (apply hfb.bit (i := 16) rfl)
    | (extract_lets)
    | (fail_if_no_progress (with_reducible refine k0 _ _ ?_))
    | split
    | (intro _ _ _)
    | (intro _ e; have _hk : Frame _ _ _ _ := e)
    | (intro _ e; cases e)
    | dsimp only
    | (dsimp +zetaDelta only)
    | (fail_if_no_progress ((with_reducible refine Frame.upd ?_ hfw ?_ rfl ⟨rfl, rfl, rfl⟩); rotate_left; exact rfl)))

theorem execSetnumericsensorenable_fr {fw fb : Nat} {s0 : State} (sensor value : Nat) (s : State) (hK : Frame fw fb s0 s) (hfw : Sub 36893488147419103248 fw := by exact Sub.within hfw rfl) (hfb : Sub 65536 fb := by exact Sub.within hfb rfl) : ∀ u, execSetnumericsensorenable sensor value s = .next u → Frame fw fb s0 u := by
  have k0 : ∀ (t : State) x0, Frame fw fb s0 t → Frame fw fb s0 { t with mgmt := x0 } := fun t x0 ht => Frame.upd ht hfw rfl rfl ⟨rfl, rfl, rfl⟩
  unfold execSetnumericsensorenable
  repeat' (first
    | with_reducible assumption
    | with_reducible apply State.pldm_fr
    | (with_reducible refine Frame.ite ?_ ?_)
    | ((with_reducible apply Sub.within hfw); exact rfl)
    | ((with_reducible apply Sub.within hfb); exact rfl)
    | ((with_reducible apply Mixed.of); exact rfl)
    | (apply hfb.bit (i := 16) rfl)
    | (extract_lets)
    | (fail_if_no_progress (with_reducible refine k0 _ _ ?_))
    | split
    | (intro _ _ _)
    | (intro _ e; have _hk : Frame _ _ _ _ := e)
    | (intro _ e; cases e)
    | dsimp only
    | (dsimp +zetaDelta only)
    | (fail_if_no_progress ((with_reducible refine Frame.upd ?_ hfw ?_ rfl ⟨rfl, rfl, rfl⟩); rotate_left; exact rfl)))

end Sys2Proof.Machine
end

