-- ==== Sys2Proof/Laws/Frame/Exec.lean ====
section
/-! SUPPORT. What `exec` leaves as it was, and what no command undoes. -/

namespace Sys2Proof.Machine

set_option Elab.async false

open Sys2Proof

theorem Frame.of_standbyInputStart (straps : Nat) (copies : Nat) (st u : State) (hexec : exec (.standbyInputStart straps copies) st = .next u) : Frame 37778931862957161709513 524287 st u :=
  execStandbyInputStart_fr (fw := 37778931862957161709513) (fb := 524287) straps copies st (Frame.refl st) (hfw := Sub.refl _) (hfb := Sub.refl _) u hexec

theorem Frame.of_standbyInputStop (st u : State) (hexec : exec (.standbyInputStop) st = .next u) : Frame 37778931862957161709513 524287 st u :=
  execStandbyInputStop_fr (fw := 37778931862957161709513) (fb := 524287) st (Frame.refl st) (hfw := Sub.refl _) (hfb := Sub.refl _) u hexec

theorem Frame.of_mainInputStop (st u : State) (hexec : exec (.mainInputStop) st = .next u) : Frame 37777959085437649679240 393215 st u :=
  execMainInputStop_fr (fw := 37777959085437649679240) (fb := 393215) st (Frame.refl st) (hfw := Sub.refl _) (hfb := Sub.refl _) u hexec

theorem Frame.of_mainRailStart (st u : State) (hexec : exec (.mainRailStart) st = .next u) : Frame 36893488147419103232 0 st u :=
  execMainRailStart_fr (fw := 36893488147419103232) (fb := 0) st (Frame.refl st) (hfw := Sub.refl _) u hexec

theorem Frame.of_mainPowerGood (st u : State) (hexec : exec (.mainPowerGood) st = .next u) : Frame 37593599731091611054984 131071 st u :=
  execMainPowerGood_fr (fw := 37593599731091611054984) (fb := 131071) st (Frame.refl st) (hfw := Sub.refl _) (hfb := Sub.refl _) u hexec

theorem Frame.of_railFailure (st u : State) (hexec : exec (.railFailure) st = .next u) : Frame 37777959085437649679240 393215 st u :=
  execRailFailure_fr (fw := 37777959085437649679240) (fb := 393215) st (Frame.refl st) (hfw := Sub.refl _) (hfb := Sub.refl _) u hexec

theorem Frame.of_rootReady (st u : State) (hexec : exec (.rootReady) st = .next u) : Frame 590295810359242522832 148992 st u :=
  execRootReady_fr (fw := 590295810359242522832) (fb := 148992) st (Frame.refl st) (hfw := Sub.refl _) (hfb := Sub.refl _) u hexec

theorem Frame.of_ameloReady (st u : State) (hexec : exec (.ameloReady) st = .next u) : Frame 37777959085437649679304 393215 st u :=
  execAmeloReady_fr (fw := 37777959085437649679304) (fb := 393215) st (Frame.refl st) (hfw := Sub.refl _) (hfb := Sub.refl _) u hexec

theorem Frame.of_clockFailure (kind : Nat) (dom : Nat) (count : Nat) (other : Nat) (st u : State) (hexec : exec (.clockFailure kind dom count other) st = .next u) : Frame 1071064079429592673240 415519 st u :=
  execClockFailure_fr (fw := 1071064079429592673240) (fb := 415519) kind dom count other st (Frame.refl st) (hfw := Sub.refl _) (hfb := Sub.refl _) u hexec

theorem Frame.of_clockAutoReturn (st u : State) (hexec : exec (.clockAutoReturn) st = .next u) : Frame 295147905179889696976 148992 st u :=
  execClockAutoReturn_fr (fw := 295147905179889696976) (fb := 148992) st (Frame.refl st) (hfw := Sub.refl _) (hfb := Sub.refl _) u hexec

theorem Frame.of_managementTick (overrun : Nat) (fail : Nat) (readings : List Nat) (watts : List Nat) (stalls : List Nat) (steps : List Nat) (st u : State) (hexec : exec (.managementTick overrun fail readings watts stalls steps) st = .next u) : Frame 19742389932118906735322 524284 st u :=
  execManagementTick_fr (fw := 19742389932118906735322) (fb := 524284) overrun fail readings watts stalls steps st (Frame.refl st) (hfw := Sub.refl _) (hfb := Sub.refl _) u hexec

theorem Frame.of_biasLoopUpdate (ctx : Nat) (slot : Nat) (layer : Nat) (st u : State) (hexec : exec (.biasLoopUpdate ctx slot layer) st = .next u) : Frame 2361183241469838753802 652 st u :=
  execBiasLoopUpdate_fr (fw := 2361183241469838753802) (fb := 652) ctx slot layer st (Frame.refl st) (hfw := Sub.refl _) (hfb := Sub.refl _) u hexec

theorem Frame.of_thermalCutClear (st u : State) (hexec : exec (.thermalCutClear) st = .next u) : Frame 73786976294838206464 8192 st u :=
  execThermalCutClear_fr (fw := 73786976294838206464) (fb := 8192) st (Frame.refl st) (hfw := Sub.refl _) (hfb := Sub.refl _) u hexec

theorem Frame.of_sensorFail (sensor : Nat) (st u : State) (hexec : exec (.sensorFail sensor) st = .next u) : Frame 73786976294838206464 8192 st u :=
  execSensorFail_fr (fw := 73786976294838206464) (fb := 8192) sensor st (Frame.refl st) (hfw := Sub.refl _) (hfb := Sub.refl _) u hexec

theorem Frame.of_thermalTrip (sensor : Nat) (reading : Nat) (st u : State) (hexec : exec (.thermalTrip sensor reading) st = .next u) : Frame 37777959085437649679320 524287 st u :=
  execThermalTrip_fr (fw := 37777959085437649679320) (fb := 524287) sensor reading st (Frame.refl st) (hfw := Sub.refl _) (hfb := Sub.refl _) u hexec

theorem Frame.of_phaseFault (rail : Nat) (phase : Nat) (st u : State) (hexec : exec (.phaseFault rail phase) st = .next u) : Frame 73823005091857170432 30800 st u :=
  execPhaseFault_fr (fw := 73823005091857170432) (fb := 30800) rail phase st (Frame.refl st) (hfw := Sub.refl _) (hfb := Sub.refl _) u hexec

theorem Frame.of_phaseStockDraw (rail : Nat) (failed : List Nat) (st u : State) (hexec : exec (.phaseStockDraw rail failed) st = .next u) : Frame 74399465844160594128 194640 st u :=
  execPhaseStockDraw_fr (fw := 74399465844160594128) (fb := 194640) rail failed st (Frame.refl st) (hfw := Sub.refl _) (hfb := Sub.refl _) u hexec

theorem Frame.of_paceAdjust (die : Nat) (avg : Nat) (st u : State) (hexec : exec (.paceAdjust die avg) st = .next u) : Frame 73786976294838206464 8192 st u :=
  execPaceAdjust_fr (fw := 73786976294838206464) (fb := 8192) die avg st (Frame.refl st) (hfw := Sub.refl _) (hfb := Sub.refl _) u hexec

theorem Frame.of_epoNAssert (level : Nat) (st u : State) (hexec : exec (.epoNAssert level) st = .next u) : Frame 37777959085437649681368 524287 st u :=
  execEpoNAssert_fr (fw := 37777959085437649681368) (fb := 524287) level st (Frame.refl st) (hfw := Sub.refl _) (hfb := Sub.refl _) u hexec

theorem Frame.of_pwarnNAssert (st u : State) (hexec : exec (.pwarnNAssert) st = .next u) : Frame 37777959085437649681368 524287 st u :=
  execPwarnNAssert_fr (fw := 37777959085437649681368) (fb := 524287) st (Frame.refl st) (hfw := Sub.refl _) (hfb := Sub.refl _) u hexec

theorem Frame.of_pwarnNRelease (st u : State) (hexec : exec (.pwarnNRelease) st = .next u) : Frame 37777959085437649681368 524287 st u :=
  execPwarnNRelease_fr (fw := 37777959085437649681368) (fb := 524287) st (Frame.refl st) (hfw := Sub.refl _) (hfb := Sub.refl _) u hexec

theorem Frame.of_pwarnCapRestore (st u : State) (hexec : exec (.pwarnCapRestore) st = .next u) : Frame 73786976294838206464 8192 st u :=
  execPwarnCapRestore_fr (fw := 73786976294838206464) (fb := 8192) st (Frame.refl st) (hfw := Sub.refl _) (hfb := Sub.refl _) u hexec

theorem Frame.of_coolAlmNAssert (st u : State) (hexec : exec (.coolAlmNAssert) st = .next u) : Frame 37777959085437649681368 524287 st u :=
  execCoolAlmNAssert_fr (fw := 37777959085437649681368) (fb := 524287) st (Frame.refl st) (hfw := Sub.refl _) (hfb := Sub.refl _) u hexec

theorem Frame.of_coolAlmNRelease (st u : State) (hexec : exec (.coolAlmNRelease) st = .next u) : Frame 37777959085437649681368 524287 st u :=
  execCoolAlmNRelease_fr (fw := 37777959085437649681368) (fb := 524287) st (Frame.refl st) (hfw := Sub.refl _) (hfb := Sub.refl _) u hexec

theorem Frame.of_traySeatNChange (level : Nat) (st u : State) (hexec : exec (.traySeatNChange level) st = .next u) : Frame 37777959085437649681368 524287 st u :=
  execTraySeatNChange_fr (fw := 37777959085437649681368) (fb := 524287) level st (Frame.refl st) (hfw := Sub.refl _) (hfb := Sub.refl _) u hexec

theorem Frame.of_drainReqNAssert (st u : State) (hexec : exec (.drainReqNAssert) st = .next u) : Frame 37777959085437649681368 524287 st u :=
  execDrainReqNAssert_fr (fw := 37777959085437649681368) (fb := 524287) st (Frame.refl st) (hfw := Sub.refl _) (hfb := Sub.refl _) u hexec

theorem Frame.of_drainReqNRelease (st u : State) (hexec : exec (.drainReqNRelease) st = .next u) : Frame 37777959085437649681368 524287 st u :=
  execDrainReqNRelease_fr (fw := 37777959085437649681368) (fb := 524287) st (Frame.refl st) (hfw := Sub.refl _) (hfb := Sub.refl _) u hexec

theorem Frame.of_drainStuck (st u : State) (hexec : exec (.drainStuck) st = .next u) : Frame 37777959085437649681368 524287 st u :=
  execDrainStuck_fr (fw := 37777959085437649681368) (fb := 524287) st (Frame.refl st) (hfw := Sub.refl _) (hfb := Sub.refl _) u hexec

theorem Frame.of_chatterSet (input : Nat) (st u : State) (hexec : exec (.chatterSet input) st = .next u) : Frame 37777959085437649681368 524287 st u :=
  execChatterSet_fr (fw := 37777959085437649681368) (fb := 524287) input st (Frame.refl st) (hfw := Sub.refl _) (hfb := Sub.refl _) u hexec

theorem Frame.of_chatterClear (src : Nat) (value : Nat) (st u : State) (hexec : exec (.chatterClear src value) st = .next u) : Frame 37777959085437649681368 524287 st u :=
  execChatterClear_fr (fw := 37777959085437649681368) (fb := 524287) src value st (Frame.refl st) (hfw := Sub.refl _) (hfb := Sub.refl _) u hexec

theorem Frame.of_perstNAssert (h : Nat) (st u : State) (hexec : exec (.perstNAssert h) st = .next u) : Frame 37777959085437649681368 524287 st u :=
  execPerstNAssert_fr (fw := 37777959085437649681368) (fb := 524287) h st (Frame.refl st) (hfw := Sub.refl _) (hfb := Sub.refl _) u hexec

theorem Frame.of_perstNDeassert (h : Nat) (st u : State) (hexec : exec (.perstNDeassert h) st = .next u) : Frame 37777959085437649681368 524287 st u :=
  execPerstNDeassert_fr (fw := 37777959085437649681368) (fb := 524287) h st (Frame.refl st) (hfw := Sub.refl _) (hfb := Sub.refl _) u hexec

theorem Frame.of_sbResetNAssert (st u : State) (hexec : exec (.sbResetNAssert) st = .next u) : Frame 37777959085437649681368 524287 st u :=
  execSbResetNAssert_fr (fw := 37777959085437649681368) (fb := 524287) st (Frame.refl st) (hfw := Sub.refl _) (hfb := Sub.refl _) u hexec

theorem Frame.of_sbResetNDeassert (st u : State) (hexec : exec (.sbResetNDeassert) st = .next u) : Frame 37777959085437649681368 524287 st u :=
  execSbResetNDeassert_fr (fw := 37777959085437649681368) (fb := 524287) st (Frame.refl st) (hfw := Sub.refl _) (hfb := Sub.refl _) u hexec

theorem Frame.of_watchdogExpiry (st u : State) (hexec : exec (.watchdogExpiry) st = .next u) : Frame 36893488147419103952 229376 st u :=
  execWatchdogExpiry_fr (fw := 36893488147419103952) (fb := 229376) st (Frame.refl st) (hfw := Sub.refl _) (hfb := Sub.refl _) u hexec

theorem Frame.of_rmSilence (st u : State) (hexec : exec (.rmSilence) st = .next u) : Frame 208 196608 st u :=
  execRmSilence_fr (fw := 208) (fb := 196608) st (Frame.refl st) (hfw := Sub.refl _) (hfb := Sub.refl _) u hexec

theorem Frame.of_hostLinkUp (h : Nat) (rate : Nat) (width : Nat) (flit : Nat) (st u : State) (hexec : exec (.hostLinkUp h rate width flit) st = .next u) : Frame 0 1 st u :=
  execHostLinkUp_fr (fw := 0) (fb := 1) h rate width flit st (Frame.refl st) (hfb := Sub.refl _) u hexec

theorem Frame.of_hostLinkDown (h : Nat) (st u : State) (hexec : exec (.hostLinkDown h) st = .next u) : Frame 148726875744115092360 268063 st u :=
  execHostLinkDown_fr (fw := 148726875744115092360) (fb := 268063) h st (Frame.refl st) (hfw := Sub.refl _) (hfb := Sub.refl _) u hexec

theorem Frame.of_hostLost (h : Nat) (cause : Nat) (st u : State) (hexec : exec (.hostLost h cause) st = .next u) : Frame 148726875744115092360 268063 st u :=
  execHostLost_fr (fw := 148726875744115092360) (fb := 268063) h cause st (Frame.refl st) (hfw := Sub.refl _) (hfb := Sub.refl _) u hexec

theorem Frame.of_lossActionsComplete (h : Nat) (st u : State) (hexec : exec (.lossActionsComplete h) st = .next u) : Frame 208 1 st u :=
  execLossActionsComplete_fr (fw := 208) (fb := 1) h st (Frame.refl st) (hfw := Sub.refl _) (hfb := Sub.refl _) u hexec

theorem Frame.of_configRequest (h : Nat) (fn : Nat) (reg : Nat) (write : Nat) (value : Nat) (st u : State) (hexec : exec (.configRequest h fn reg write value) st = .next u) : Frame 148726875744115092376 268063 st u :=
  execConfigRequest_fr (fw := 148726875744115092376) (fb := 268063) h fn reg write value st (Frame.refl st) (hfw := Sub.refl _) (hfb := Sub.refl _) u hexec

theorem Frame.of_hostReadTimeout (desc : Nat) (st u : State) (hexec : exec (.hostReadTimeout desc) st = .next u) : Frame 134217728 33 st u :=
  execHostReadTimeout_fr (fw := 134217728) (fb := 33) desc st (Frame.refl st) (hfw := Sub.refl _) (hfb := Sub.refl _) u hexec

theorem Frame.of_hostAttach (h : Nat) (value : Nat) (st u : State) (hexec : exec (.hostAttach h value) st = .next u) : Frame 144 3 st u :=
  execHostAttach_fr (fw := 144) (fb := 3) h value st (Frame.refl st) (hfw := Sub.refl _) (hfb := Sub.refl _) u hexec

theorem Frame.of_hostDetach (h : Nat) (value : Nat) (st u : State) (hexec : exec (.hostDetach h value) st = .next u) : Frame 144 3 st u :=
  execHostDetach_fr (fw := 144) (fb := 3) h value st (Frame.refl st) (hfw := Sub.refl _) (hfb := Sub.refl _) u hexec

theorem Frame.of_orphanDataRead (src : Nat) (h : Nat) (st u : State) (hexec : exec (.orphanDataRead src h) st = .next u) : Frame 16 1 st u :=
  execOrphanDataRead_fr (fw := 16) (fb := 1) src h st (Frame.refl st) (hfw := Sub.refl _) (hfb := Sub.refl _) u hexec

theorem Frame.of_msixTableWrite (h : Nat) (off : Nat) (value : Nat) (size : Nat) (st u : State) (hexec : exec (.msixTableWrite h off value size) st = .next u) : Frame 208 131073 st u :=
  execMsixTableWrite_fr (fw := 208) (fb := 131073) h off value size st (Frame.refl st) (hfw := Sub.refl _) (hfb := Sub.refl _) u hexec

theorem Frame.of_registerWrite (src : Nat) (off : Nat) (value : Nat) (size : Nat) (st u : State) (hexec : exec (.registerWrite src off value size) st = .next u) : Frame 37777959085437649681368 524287 st u :=
  execRegisterWrite_fr (fw := 37777959085437649681368) (fb := 524287) src off value size st (Frame.refl st) (hfw := Sub.refl _) (hfb := Sub.refl _) u hexec

theorem Frame.of_rcRead (src : Nat) (off : Nat) (size : Nat) (st u : State) (hexec : exec (.rcRead src off size) st = .next u) : Frame 147574093327164768336 524287 st u :=
  execRcRead_fr (fw := 147574093327164768336) (fb := 524287) src off size st (Frame.refl st) (hfw := Sub.refl _) (hfb := Sub.refl _) u hexec

theorem Frame.of_pwrCapWrite (src : Nat) (value : Nat) (st u : State) (hexec : exec (.pwrCapWrite src value) st = .next u) : Frame 73786976294838206464 8193 st u :=
  execPwrCapWrite_fr (fw := 73786976294838206464) (fb := 8193) src value st (Frame.refl st) (hfw := Sub.refl _) (hfb := Sub.refl _) u hexec

theorem Frame.of_windowWrite (src : Nat) (off : Nat) (data : List Nat) (st u : State) (hexec : exec (.windowWrite src off data) st = .next u) : Frame 24984 3 st u :=
  execWindowWrite_fr (fw := 24984) (fb := 3) src off data st (Frame.refl st) (hfw := Sub.refl _) (hfb := Sub.refl _) u hexec

theorem Frame.of_commandCommit (src : Nat) (off : Nat) (data : List Nat) (st u : State) (hexec : exec (.commandCommit src off data) st = .next u) : Frame 24984 3 st u :=
  execCommandCommit_fr (fw := 24984) (fb := 3) src off data st (Frame.refl st) (hfw := Sub.refl _) (hfb := Sub.refl _) u hexec

theorem Frame.of_commandQueue (chan : Nat) (st u : State) (hexec : exec (.commandQueue chan) st = .next u) : Frame 256 2 st u :=
  execCommandQueue_fr (fw := 256) (fb := 2) chan st (Frame.refl st) (hfw := Sub.refl _) (hfb := Sub.refl _) u hexec

theorem Frame.of_gapTimerExpiry (chan : Nat) (st u : State) (hexec : exec (.gapTimerExpiry chan) st = .next u) : Frame 24984 2 st u :=
  execGapTimerExpiry_fr (fw := 24984) (fb := 2) chan st (Frame.refl st) (hfw := Sub.refl _) (hfb := Sub.refl _) u hexec

theorem Frame.of_creditWordWrite (chan : Nat) (st u : State) (hexec : exec (.creditWordWrite chan) st = .next u) : Frame 264 0 st u :=
  execCreditWordWrite_fr (fw := 264) (fb := 0) chan st (Frame.refl st) (hfw := Sub.refl _) u hexec

theorem Frame.of_commandAccept (chan : Nat) (st u : State) (hexec : exec (.commandAccept chan) st = .next u) : Frame 147573952589676445656 393218 st u :=
  execCommandAccept_fr (fw := 147573952589676445656) (fb := 393218) chan st (Frame.refl st) (hfw := Sub.refl _) (hfb := Sub.refl _) u hexec

theorem Frame.of_commandComplete (k : Nat) (st u : State) (hexec : exec (.commandComplete k) st = .next u) : Frame 25496 2 st u :=
  execCommandComplete_fr (fw := 25496) (fb := 2) k st (Frame.refl st) (hfw := Sub.refl _) (hfb := Sub.refl _) u hexec

theorem Frame.of_replyHoldDrain (ring : Nat) (st u : State) (hexec : exec (.replyHoldDrain ring) st = .next u) : Frame 24728 2 st u :=
  execReplyHoldDrain_fr (fw := 24728) (fb := 2) ring st (Frame.refl st) (hfw := Sub.refl _) (hfb := Sub.refl _) u hexec

theorem Frame.of_channelEnable (src : Nat) (chan : Nat) (value : Nat) (st u : State) (hexec : exec (.channelEnable src chan value) st = .next u) : Frame 256 3 st u :=
  execChannelEnable_fr (fw := 256) (fb := 3) src chan value st (Frame.refl st) (hfw := Sub.refl _) (hfb := Sub.refl _) u hexec

theorem Frame.of_channelDisable (src : Nat) (chan : Nat) (value : Nat) (st u : State) (hexec : exec (.channelDisable src chan value) st = .next u) : Frame 256 3 st u :=
  execChannelDisable_fr (fw := 256) (fb := 3) src chan value st (Frame.refl st) (hfw := Sub.refl _) (hfb := Sub.refl _) u hexec

theorem Frame.of_channelReset (src : Nat) (chan : Nat) (value : Nat) (st u : State) (hexec : exec (.channelReset src chan value) st = .next u) : Frame 256 3 st u :=
  execChannelReset_fr (fw := 256) (fb := 3) src chan value st (Frame.refl st) (hfw := Sub.refl _) (hfb := Sub.refl _) u hexec

theorem Frame.of_ringEnable (src : Nat) (ring : Nat) (value : Nat) (st u : State) (hexec : exec (.ringEnable src ring value) st = .next u) : Frame 24576 3 st u :=
  execRingEnable_fr (fw := 24576) (fb := 3) src ring value st (Frame.refl st) (hfw := Sub.refl _) (hfb := Sub.refl _) u hexec

theorem Frame.of_ringDisable (src : Nat) (ring : Nat) (value : Nat) (st u : State) (hexec : exec (.ringDisable src ring value) st = .next u) : Frame 24576 3 st u :=
  execRingDisable_fr (fw := 24576) (fb := 3) src ring value st (Frame.refl st) (hfw := Sub.refl _) (hfb := Sub.refl _) u hexec

theorem Frame.of_nop (k : Nat) (st u : State) (hexec : exec (.nop k) st = .next u) : Frame 2560 0 st u :=
  execNop_fr (fw := 2560) (fb := 0) k st (Frame.refl st) (hfw := Sub.refl _) u hexec

theorem Frame.of_fence (k : Nat) (st u : State) (hexec : exec (.fence k) st = .next u) : Frame 2560 0 st u :=
  execFence_fr (fw := 2560) (fb := 0) k st (Frame.refl st) (hfw := Sub.refl _) u hexec

theorem Frame.of_signal (k : Nat) (st u : State) (hexec : exec (.signal k) st = .next u) : Frame 2361183241435462240776 524 st u :=
  execSignal_fr (fw := 2361183241435462240776) (fb := 524) k st (Frame.refl st) (hfw := Sub.refl _) (hfb := Sub.refl _) u hexec

theorem Frame.of_wait (k : Nat) (st u : State) (hexec : exec (.wait k) st = .next u) : Frame 2361183241435462240768 524 st u :=
  execWait_fr (fw := 2361183241435462240768) (fb := 524) k st (Frame.refl st) (hfw := Sub.refl _) (hfb := Sub.refl _) u hexec

theorem Frame.of_waitPoll (k : Nat) (st u : State) (hexec : exec (.waitPoll k) st = .next u) : Frame 2361183241435462240768 524 st u :=
  execWaitPoll_fr (fw := 2361183241435462240768) (fb := 524) k st (Frame.refl st) (hfw := Sub.refl _) (hfb := Sub.refl _) u hexec

theorem Frame.of_waitTimeout (k : Nat) (st u : State) (hexec : exec (.waitTimeout k) st = .next u) : Frame 2560 0 st u :=
  execWaitTimeout_fr (fw := 2560) (fb := 0) k st (Frame.refl st) (hfw := Sub.refl _) u hexec

theorem Frame.of_timestamp (k : Nat) (st u : State) (hexec : exec (.timestamp k) st = .next u) : Frame 2361183241435479017994 524 st u :=
  execTimestamp_fr (fw := 2361183241435479017994) (fb := 524) k st (Frame.refl st) (hfw := Sub.refl _) (hfb := Sub.refl _) u hexec

theorem Frame.of_ctxCreate (k : Nat) (st u : State) (hexec : exec (.ctxCreate k) st = .next u) : Frame 70368744278538 4108 st u :=
  execCtxCreate_fr (fw := 70368744278538) (fb := 4108) k st (Frame.refl st) (hfw := Sub.refl _) (hfb := Sub.refl _) u hexec

theorem Frame.of_ctxDestroy (k : Nat) (st u : State) (hexec : exec (.ctxDestroy k) st = .next u) : Frame 1149368172775944 4892 st u :=
  execCtxDestroy_fr (fw := 1149368172775944) (fb := 4892) k st (Frame.refl st) (hfw := Sub.refl _) (hfb := Sub.refl _) u hexec

theorem Frame.of_map (k : Nat) (st u : State) (hexec : exec (.map k) st = .next u) : Frame 193006090 28 st u :=
  execMap_fr (fw := 193006090) (fb := 28) k st (Frame.refl st) (hfw := Sub.refl _) (hfb := Sub.refl _) u hexec

theorem Frame.of_unmap (k : Nat) (st u : State) (hexec : exec (.unmap k) st = .next u) : Frame 562104840 528 st u :=
  execUnmap_fr (fw := 562104840) (fb := 528) k st (Frame.refl st) (hfw := Sub.refl _) (hfb := Sub.refl _) u hexec

theorem Frame.of_migrate (k : Nat) (st u : State) (hexec : exec (.migrate k) st = .next u) : Frame 2099712 0 st u :=
  execMigrate_fr (fw := 2099712) (fb := 0) k st (Frame.refl st) (hfw := Sub.refl _) u hexec

theorem Frame.of_setHome (k : Nat) (st u : State) (hexec : exec (.setHome k) st = .next u) : Frame 735644168 540 st u :=
  execSetHome_fr (fw := 735644168) (fb := 540) k st (Frame.refl st) (hfw := Sub.refl _) (hfb := Sub.refl _) u hexec

theorem Frame.of_ctxAdopt (k : Nat) (st u : State) (hexec : exec (.ctxAdopt k) st = .next u) : Frame 33557136 5 st u :=
  execCtxAdopt_fr (fw := 33557136) (fb := 5) k st (Frame.refl st) (hfw := Sub.refl _) (hfb := Sub.refl _) u hexec

theorem Frame.of_pinWindow (k : Nat) (st u : State) (hexec : exec (.pinWindow k) st = .next u) : Frame 27724298 16 st u :=
  execPinWindow_fr (fw := 27724298) (fb := 16) k st (Frame.refl st) (hfw := Sub.refl _) (hfb := Sub.refl _) u hexec

theorem Frame.of_unpin (k : Nat) (st u : State) (hexec : exec (.unpin k) st = .next u) : Frame 562498056 528 st u :=
  execUnpin_fr (fw := 562498056) (fb := 528) k st (Frame.refl st) (hfw := Sub.refl _) (hfb := Sub.refl _) u hexec

theorem Frame.of_invalidate (k : Nat) (st u : State) (hexec : exec (.invalidate k) st = .next u) : Frame 536873472 512 st u :=
  execInvalidate_fr (fw := 536873472) (fb := 512) k st (Frame.refl st) (hfw := Sub.refl _) (hfb := Sub.refl _) u hexec

theorem Frame.of_copy (k : Nat) (st u : State) (hexec : exec (.copy k) st = .next u) : Frame 402655744 32 st u :=
  execCopy_fr (fw := 402655744) (fb := 32) k st (Frame.refl st) (hfw := Sub.refl _) (hfb := Sub.refl _) u hexec

theorem Frame.of_fill (k : Nat) (st u : State) (hexec : exec (.fill k) st = .next u) : Frame 402655744 32 st u :=
  execFill_fr (fw := 402655744) (fb := 32) k st (Frame.refl st) (hfw := Sub.refl _) (hfb := Sub.refl _) u hexec

theorem Frame.of_gather (k : Nat) (st u : State) (hexec : exec (.gather k) st = .next u) : Frame 402655744 32 st u :=
  execGather_fr (fw := 402655744) (fb := 32) k st (Frame.refl st) (hfw := Sub.refl _) (hfb := Sub.refl _) u hexec

theorem Frame.of_scatter (k : Nat) (st u : State) (hexec : exec (.scatter k) st = .next u) : Frame 402655744 32 st u :=
  execScatter_fr (fw := 402655744) (fb := 32) k st (Frame.refl st) (hfw := Sub.refl _) (hfb := Sub.refl _) u hexec

theorem Frame.of_reduce (k : Nat) (st u : State) (hexec : exec (.reduce k) st = .next u) : Frame 402655744 32 st u :=
  execReduce_fr (fw := 402655744) (fb := 32) k st (Frame.refl st) (hfw := Sub.refl _) (hfb := Sub.refl _) u hexec

theorem Frame.of_alltoall (k : Nat) (st u : State) (hexec : exec (.alltoall k) st = .next u) : Frame 402655744 32 st u :=
  execAlltoall_fr (fw := 402655744) (fb := 32) k st (Frame.refl st) (hfw := Sub.refl _) (hfb := Sub.refl _) u hexec

theorem Frame.of_descriptorIssue (mover : Nat) (queue : Nat) (st u : State) (hexec : exec (.descriptorIssue mover queue) st = .next u) : Frame 2361183241435613233154 556 st u :=
  execDescriptorIssue_fr (fw := 2361183241435613233154) (fb := 556) mover queue st (Frame.refl st) (hfw := Sub.refl _) (hfb := Sub.refl _) u hexec

theorem Frame.of_moverRequestIssue (mover : Nat) (retried : List Nat) (failed : List Nat) (st u : State) (hexec : exec (.moverRequestIssue mover retried failed) st = .next u) : Frame 3543072076485563452122 170940 st u :=
  execMoverRequestIssue_fr (fw := 3543072076485563452122) (fb := 170940) mover retried failed st (Frame.refl st) (hfw := Sub.refl _) (hfb := Sub.refl _) u hexec

theorem Frame.of_descriptorComplete (desc : Nat) (st u : State) (hexec : exec (.descriptorComplete desc) st = .next u) : Frame 2361184017209795217930 828 st u :=
  execDescriptorComplete_fr (fw := 2361184017209795217930) (fb := 828) desc st (Frame.refl st) (hfw := Sub.refl _) (hfb := Sub.refl _) u hexec

theorem Frame.of_faultRecordDeliver (fault : Nat) (st u : State) (hexec : exec (.faultRecordDeliver fault) st = .next u) : Frame 33554584 8 st u :=
  execFaultRecordDeliver_fr (fw := 33554584) (fb := 8) fault st (Frame.refl st) (hfw := Sub.refl _) (hfb := Sub.refl _) u hexec

theorem Frame.of_faultResolve (src : Nat) (value : Nat) (st u : State) (hexec : exec (.faultResolve src value) st = .next u) : Frame 774056353729024 29 st u :=
  execFaultResolve_fr (fw := 774056353729024) (fb := 29) src value st (Frame.refl st) (hfw := Sub.refl _) (hfb := Sub.refl _) u hexec

theorem Frame.of_faultTimeout (fault : Nat) (st u : State) (hexec : exec (.faultTimeout fault) st = .next u) : Frame 774056353729024 28 st u :=
  execFaultTimeout_fr (fw := 774056353729024) (fb := 28) fault st (Frame.refl st) (hfw := Sub.refl _) (hfb := Sub.refl _) u hexec

theorem Frame.of_pageMoveStart (want : Nat) (st u : State) (hexec : exec (.pageMoveStart want) st = .next u) : Frame 2361184015491540781578 60 st u :=
  execPageMoveStart_fr (fw := 2361184015491540781578) (fb := 60) want st (Frame.refl st) (hfw := Sub.refl _) (hfb := Sub.refl _) u hexec

theorem Frame.of_pageMoveCopyDone (move : Nat) (st u : State) (hexec : exec (.pageMoveCopyDone move) st = .next u) : Frame 775707263961608 828 st u :=
  execPageMoveCopyDone_fr (fw := 775707263961608) (fb := 828) move st (Frame.refl st) (hfw := Sub.refl _) (hfb := Sub.refl _) u hexec

theorem Frame.of_moveBroadcastComplete (move : Nat) (st u : State) (hexec : exec (.moveBroadcastComplete move) st = .next u) : Frame 1649836362248 784 st u :=
  execMoveBroadcastComplete_fr (fw := 1649836362248) (fb := 784) move st (Frame.refl st) (hfw := Sub.refl _) (hfb := Sub.refl _) u hexec

theorem Frame.of_moveNoteReceive (packet : Nat) (st u : State) (hexec : exec (.moveNoteReceive packet) st = .next u) : Frame 562036744 528 st u :=
  execMoveNoteReceive_fr (fw := 562036744) (fb := 528) packet st (Frame.refl st) (hfw := Sub.refl _) (hfb := Sub.refl _) u hexec

theorem Frame.of_forwardReceive (packet : Nat) (st u : State) (hexec : exec (.forwardReceive packet) st = .next u) : Frame 562036744 528 st u :=
  execForwardReceive_fr (fw := 562036744) (fb := 528) packet st (Frame.refl st) (hfw := Sub.refl _) (hfb := Sub.refl _) u hexec

theorem Frame.of_bankRetire (die : Nat) (bank : Nat) (st u : State) (hexec : exec (.bankRetire die bank) st = .next u) : Frame 1181420283048847474896 194640 st u :=
  execBankRetire_fr (fw := 1181420283048847474896) (fb := 194640) die bank st (Frame.refl st) (hfw := Sub.refl _) (hfb := Sub.refl _) u hexec

theorem Frame.of_launchLayer (k : Nat) (st u : State) (hexec : exec (.launchLayer k) st = .next u) : Frame 422212465068544 4 st u :=
  execLaunchLayer_fr (fw := 422212465068544) (fb := 4) k st (Frame.refl st) (hfw := Sub.refl _) (hfb := Sub.refl _) u hexec

theorem Frame.of_launchKernel (k : Nat) (st u : State) (hexec : exec (.launchKernel k) st = .next u) : Frame 422212465068544 4 st u :=
  execLaunchKernel_fr (fw := 422212465068544) (fb := 4) k st (Frame.refl st) (hfw := Sub.refl _) (hfb := Sub.refl _) u hexec

theorem Frame.of_launchLoop (k : Nat) (st u : State) (hexec : exec (.launchLoop k) st = .next u) : Frame 422212465068544 4 st u :=
  execLaunchLoop_fr (fw := 422212465068544) (fb := 4) k st (Frame.refl st) (hfw := Sub.refl _) (hfb := Sub.refl _) u hexec

theorem Frame.of_loopHead (launch : Nat) (die : Nat) (st u : State) (hexec : exec (.loopHead launch die) st = .next u) : Frame 2361184015491664972290 668 st u :=
  execLoopHead_fr (fw := 2361184015491664972290) (fb := 668) launch die st (Frame.refl st) (hfw := Sub.refl _) (hfb := Sub.refl _) u hexec

theorem Frame.of_loadProgram (k : Nat) (st u : State) (hexec : exec (.loadProgram k) st = .next u) : Frame 2361184367335385860610 524 st u :=
  execLoadProgram_fr (fw := 2361184367335385860610) (fb := 524) k st (Frame.refl st) (hfw := Sub.refl _) (hfb := Sub.refl _) u hexec

theorem Frame.of_unloadProgram (k : Nat) (st u : State) (hexec : exec (.unloadProgram k) st = .next u) : Frame 1125899906845184 0 st u :=
  execUnloadProgram_fr (fw := 1125899906845184) (fb := 0) k st (Frame.refl st) (hfw := Sub.refl _) u hexec

theorem Frame.of_launchReady (launch : Nat) (st u : State) (hexec : exec (.launchReady launch) st = .next u) : Frame 2361184015491664972290 668 st u :=
  execLaunchReady_fr (fw := 2361184015491664972290) (fb := 668) launch st (Frame.refl st) (hfw := Sub.refl _) (hfb := Sub.refl _) u hexec

theorem Frame.of_dieHolderChange (die : Nat) (st u : State) (hexec : exec (.dieHolderChange die) st = .next u) : Frame 73801190781162097152 8212 st u :=
  execDieHolderChange_fr (fw := 73801190781162097152) (fb := 8212) die st (Frame.refl st) (hfw := Sub.refl _) (hfb := Sub.refl _) u hexec

theorem Frame.of_sliceExpiry (die : Nat) (st u : State) (hexec : exec (.sliceExpiry die) st = .next u) : Frame 140737488355328 4 st u :=
  execSliceExpiry_fr (fw := 140737488355328) (fb := 4) die st (Frame.refl st) (hfw := Sub.refl _) (hfb := Sub.refl _) u hexec

theorem Frame.of_programRecordStart (die : Reader) (st u : State) (hexec : exec (.programRecordStart die) st = .next u) : Frame 12987805675543819913946 170876 st u :=
  execProgramRecordStart_fr (fw := 12987805675543819913946) (fb := 170876) die st (Frame.refl st) (hfw := Sub.refl _) (hfb := Sub.refl _) u hexec

theorem Frame.of_tileStart (die : Nat) (core : Reader) (st u : State) (hexec : exec (.tileStart die core) st = .next u) : Frame 1181888835056948415192 170768 st u :=
  execTileStart_fr (fw := 1181888835056948415192) (fb := 170768) die core st (Frame.refl st) (hfw := Sub.refl _) (hfb := Sub.refl _) u hexec

theorem Frame.of_tileVerdict (tile : Nat) (misdeals : List Nat) (port : Nat) (st u : State) (hexec : exec (.tileVerdict tile misdeals port) st = .next u) : Frame 2361816771268301556442 162396 st u :=
  execTileVerdict_fr (fw := 2361816771268301556442) (fb := 162396) tile misdeals port st (Frame.refl st) (hfw := Sub.refl _) (hfb := Sub.refl _) u hexec

theorem Frame.of_armingExpiry (die : Nat) (core : Nat) (array : Nat) (st u : State) (hexec : exec (.armingExpiry die core array) st = .next u) : Frame 8589934592 64 st u :=
  execArmingExpiry_fr (fw := 8589934592) (fb := 64) die core array st (Frame.refl st) (hfw := Sub.refl _) (hfb := Sub.refl _) u hexec

theorem Frame.of_mtxInject (value : Nat) (st u : State) (hexec : exec (.mtxInject value) st = .next u) : Frame 17179869184 0 st u :=
  execMtxInject_fr (fw := 17179869184) (fb := 0) value st (Frame.refl st) (hfw := Sub.refl _) u hexec

theorem Frame.of_stockCoreDraw (die : Nat) (st u : State) (hexec : exec (.stockCoreDraw die) st = .next u) : Frame 630503947831869648 194640 st u :=
  execStockCoreDraw_fr (fw := 630503947831869648) (fb := 194640) die st (Frame.refl st) (hfw := Sub.refl _) (hfb := Sub.refl _) u hexec

theorem Frame.of_coreSelftestDone (die : Nat) (core : Nat) (pass : Nat) (st u : State) (hexec : exec (.coreSelftestDone die core pass) st = .next u) : Frame 630503947831869648 161872 st u :=
  execCoreSelftestDone_fr (fw := 630503947831869648) (fb := 161872) die core pass st (Frame.refl st) (hfw := Sub.refl _) (hfb := Sub.refl _) u hexec

theorem Frame.of_launchComplete (launch : Nat) (st u : State) (hexec : exec (.launchComplete launch) st = .next u) : Frame 1057730185923080 20 st u :=
  execLaunchComplete_fr (fw := 1057730185923080) (fb := 20) launch st (Frame.refl st) (hfw := Sub.refl _) (hfb := Sub.refl _) u hexec

theorem Frame.of_setNumerics (k : Nat) (st u : State) (hexec : exec (.setNumerics k) st = .next u) : Frame 2361183241435479050762 524 st u :=
  execSetNumerics_fr (fw := 2361183241435479050762) (fb := 524) k st (Frame.refl st) (hfw := Sub.refl _) (hfb := Sub.refl _) u hexec

theorem Frame.of_dealAhead (die : Nat) (retried : List Nat) (failed : List Nat) (st u : State) (hexec : exec (.dealAhead die retried failed) st = .next u) : Frame 1181889468369203563226 170772 st u :=
  execDealAhead_fr (fw := 1181889468369203563226) (fb := 170772) die retried failed st (Frame.refl st) (hfw := Sub.refl _) (hfb := Sub.refl _) u hexec

theorem Frame.of_dealExpert (die : Nat) (retried : List Nat) (failed : List Nat) (st u : State) (hexec : exec (.dealExpert die retried failed) st = .next u) : Frame 1181889468369203563224 170772 st u :=
  execDealExpert_fr (fw := 1181889468369203563224) (fb := 170772) die retried failed st (Frame.refl st) (hfw := Sub.refl _) (hfb := Sub.refl _) u hexec

theorem Frame.of_dispatch (launch : Nat) (st u : State) (hexec : exec (.dispatch launch) st = .next u) : Frame 2361184017759810357770 700 st u :=
  execDispatch_fr (fw := 2361184017759810357770) (fb := 700) launch st (Frame.refl st) (hfw := Sub.refl _) (hfb := Sub.refl _) u hexec

theorem Frame.of_areaDecided (ctx : Nat) (slot : Nat) (layer : Nat) (expert : Nat) (parity : Nat) (st u : State) (hexec : exec (.areaDecided ctx slot layer expert parity) st = .next u) : Frame 2361184015697823402506 732 st u :=
  execAreaDecided_fr (fw := 2361184015697823402506) (fb := 732) ctx slot layer expert parity st (Frame.refl st) (hfw := Sub.refl _) (hfb := Sub.refl _) u hexec

theorem Frame.of_expertLaunch (ctx : Nat) (slot : Nat) (layer : Nat) (expert : Nat) (parity : Nat) (st u : State) (hexec : exec (.expertLaunch ctx slot layer expert parity) st = .next u) : Frame 2361184015560787102218 700 st u :=
  execExpertLaunch_fr (fw := 2361184015560787102218) (fb := 700) ctx slot layer expert parity st (Frame.refl st) (hfw := Sub.refl _) (hfb := Sub.refl _) u hexec

theorem Frame.of_combineComplete (launch : Nat) (st u : State) (hexec : exec (.combineComplete launch) st = .next u) : Frame 2361184015491664972290 540 st u :=
  execCombineComplete_fr (fw := 2361184015491664972290) (fb := 540) launch st (Frame.refl st) (hfw := Sub.refl _) (hfb := Sub.refl _) u hexec

theorem Frame.of_areaReset (ctx : Nat) (slot : Nat) (layer : Nat) (expert : Nat) (parity : Nat) (st u : State) (hexec : exec (.areaReset ctx slot layer expert parity) st = .next u) : Frame 68719476744 128 st u :=
  execAreaReset_fr (fw := 68719476744) (fb := 128) ctx slot layer expert parity st (Frame.refl st) (hfw := Sub.refl _) (hfb := Sub.refl _) u hexec

theorem Frame.of_routerConfig (k : Nat) (st u : State) (hexec : exec (.routerConfig k) st = .next u) : Frame 2361183241813436172810 652 st u :=
  execRouterConfig_fr (fw := 2361183241813436172810) (fb := 652) k st (Frame.refl st) (hfw := Sub.refl _) (hfb := Sub.refl _) u hexec

theorem Frame.of_setShape (k : Nat) (st u : State) (hexec : exec (.setShape k) st = .next u) : Frame 35328 0 st u :=
  execSetShape_fr (fw := 35328) (fb := 0) k st (Frame.refl st) (hfw := Sub.refl _) u hexec

theorem Frame.of_routerRemove (k : Nat) (st u : State) (hexec : exec (.routerRemove k) st = .next u) : Frame 103079217664 128 st u :=
  execRouterRemove_fr (fw := 103079217664) (fb := 128) k st (Frame.refl st) (hfw := Sub.refl _) (hfb := Sub.refl _) u hexec

theorem Frame.of_biasLoopConfig (k : Nat) (st u : State) (hexec : exec (.biasLoopConfig k) st = .next u) : Frame 2361183241469838756362 524 st u :=
  execBiasLoopConfig_fr (fw := 2361183241469838756362) (fb := 524) k st (Frame.refl st) (hfw := Sub.refl _) (hfb := Sub.refl _) u hexec

theorem Frame.of_routerStats (k : Nat) (st u : State) (hexec : exec (.routerStats k) st = .next u) : Frame 2361183241435479017994 524 st u :=
  execRouterStats_fr (fw := 2361183241435479017994) (fb := 524) k st (Frame.refl st) (hfw := Sub.refl _) (hfb := Sub.refl _) u hexec

theorem Frame.of_stepAssembly (ctx : Nat) (st u : State) (hexec : exec (.stepAssembly ctx) st = .next u) : Frame 7085856630370291911178 5020 st u :=
  execStepAssembly_fr (fw := 7085856630370291911178) (fb := 5020) ctx st (Frame.refl st) (hfw := Sub.refl _) (hfb := Sub.refl _) u hexec

theorem Frame.of_stepComplete (ctx : Nat) (st u : State) (hexec : exec (.stepComplete ctx) st = .next u) : Frame 2361183459688545716746 796 st u :=
  execStepComplete_fr (fw := 2361183459688545716746) (fb := 796) ctx st (Frame.refl st) (hfw := Sub.refl _) (hfb := Sub.refl _) u hexec

theorem Frame.of_evictionComplete (hand : Nat) (st u : State) (hexec : exec (.evictionComplete hand) st = .next u) : Frame 549755813888 256 st u :=
  execEvictionComplete_fr (fw := 549755813888) (fb := 256) hand st (Frame.refl st) (hfw := Sub.refl _) (hfb := Sub.refl _) u hexec

theorem Frame.of_returnStart (hand : Nat) (st u : State) (hexec : exec (.returnStart hand) st = .next u) : Frame 2097152 256 st u :=
  execReturnStart_fr (fw := 2097152) (fb := 256) hand st (Frame.refl st) (hfw := Sub.refl _) (hfb := Sub.refl _) u hexec

theorem Frame.of_returnComplete (hand : Nat) (st u : State) (hexec : exec (.returnComplete hand) st = .next u) : Frame 0 256 st u :=
  execReturnComplete_fr (fw := 0) (fb := 256) hand st (Frame.refl st) (hfb := Sub.refl _) u hexec

theorem Frame.of_handOpen (k : Nat) (st u : State) (hexec : exec (.handOpen k) st = .next u) : Frame 2361183241985234831874 780 st u :=
  execHandOpen_fr (fw := 2361183241985234831874) (fb := 780) k st (Frame.refl st) (hfw := Sub.refl _) (hfb := Sub.refl _) u hexec

theorem Frame.of_handClose (k : Nat) (st u : State) (hexec : exec (.handClose k) st = .next u) : Frame 9444732966289608477192 784 st u :=
  execHandClose_fr (fw := 9444732966289608477192) (fb := 784) k st (Frame.refl st) (hfw := Sub.refl _) (hfb := Sub.refl _) u hexec

theorem Frame.of_step (k : Nat) (st u : State) (hexec : exec (.step k) st = .next u) : Frame 549755816448 0 st u :=
  execStep_fr (fw := 549755816448) (fb := 0) k st (Frame.refl st) (hfw := Sub.refl _) u hexec

theorem Frame.of_prefillChunk (k : Nat) (st u : State) (hexec : exec (.prefillChunk k) st = .next u) : Frame 549755816448 0 st u :=
  execPrefillChunk_fr (fw := 549755816448) (fb := 0) k st (Frame.refl st) (hfw := Sub.refl _) u hexec

theorem Frame.of_park (k : Nat) (st u : State) (hexec : exec (.park k) st = .next u) : Frame 9444733037757304146434 256 st u :=
  execPark_fr (fw := 9444733037757304146434) (fb := 256) k st (Frame.refl st) (hfw := Sub.refl _) (hfb := Sub.refl _) u hexec

theorem Frame.of_parkRenew (k : Nat) (st u : State) (hexec : exec (.parkRenew k) st = .next u) : Frame 1099511630336 256 st u :=
  execParkRenew_fr (fw := 1099511630336) (fb := 256) k st (Frame.refl st) (hfw := Sub.refl _) (hfb := Sub.refl _) u hexec

theorem Frame.of_parkComplete (hand : Nat) (st u : State) (hexec : exec (.parkComplete hand) st = .next u) : Frame 9444733037757302049280 256 st u :=
  execParkComplete_fr (fw := 9444733037757302049280) (fb := 256) hand st (Frame.refl st) (hfw := Sub.refl _) (hfb := Sub.refl _) u hexec

theorem Frame.of_unpark (k : Nat) (st u : State) (hexec : exec (.unpark k) st = .next u) : Frame 6047878285834 784 st u :=
  execUnpark_fr (fw := 6047878285834) (fb := 784) k st (Frame.refl st) (hfw := Sub.refl _) (hfb := Sub.refl _) u hexec

theorem Frame.of_unparkComplete (hand : Nat) (st u : State) (hexec : exec (.unparkComplete hand) st = .next u) : Frame 1649267444224 256 st u :=
  execUnparkComplete_fr (fw := 1649267444224) (fb := 256) hand st (Frame.refl st) (hfw := Sub.refl _) (hfb := Sub.refl _) u hexec

theorem Frame.of_kittyExpiry (entry : Nat) (st u : State) (hexec : exec (.kittyExpiry entry) st = .next u) : Frame 1100073861128 784 st u :=
  execKittyExpiry_fr (fw := 1100073861128) (fb := 784) entry st (Frame.refl st) (hfw := Sub.refl _) (hfb := Sub.refl _) u hexec

theorem Frame.of_specConfig (k : Nat) (st u : State) (hexec : exec (.specConfig k) st = .next u) : Frame 550318049800 784 st u :=
  execSpecConfig_fr (fw := 550318049800) (fb := 784) k st (Frame.refl st) (hfw := Sub.refl _) (hfb := Sub.refl _) u hexec

theorem Frame.of_prefixLookup (k : Nat) (st u : State) (hexec : exec (.prefixLookup k) st = .next u) : Frame 2361183246383281342986 780 st u :=
  execPrefixLookup_fr (fw := 2361183246383281342986) (fb := 780) k st (Frame.refl st) (hfw := Sub.refl _) (hfb := Sub.refl _) u hexec

theorem Frame.of_prefixInsert (k : Nat) (st u : State) (hexec : exec (.prefixInsert k) st = .next u) : Frame 2361183254629627136522 796 st u :=
  execPrefixInsert_fr (fw := 2361183254629627136522) (fb := 796) k st (Frame.refl st) (hfw := Sub.refl _) (hfb := Sub.refl _) u hexec

theorem Frame.of_prefixRemove (k : Nat) (st u : State) (hexec : exec (.prefixRemove k) st = .next u) : Frame 4398608747016 784 st u :=
  execPrefixRemove_fr (fw := 4398608747016) (fb := 784) k st (Frame.refl st) (hfw := Sub.refl _) (hfb := Sub.refl _) u hexec

theorem Frame.of_variantBind (k : Nat) (st u : State) (hexec : exec (.variantBind k) st = .next u) : Frame 549755816448 256 st u :=
  execVariantBind_fr (fw := 549755816448) (fb := 256) k st (Frame.refl st) (hfw := Sub.refl _) (hfb := Sub.refl _) u hexec

theorem Frame.of_variantRegister (k : Nat) (st u : State) (hexec : exec (.variantRegister k) st = .next u) : Frame 2361183259027665062402 780 st u :=
  execVariantRegister_fr (fw := 2361183259027665062402) (fb := 780) k st (Frame.refl st) (hfw := Sub.refl _) (hfb := Sub.refl _) u hexec

theorem Frame.of_variantRemove (k : Nat) (st u : State) (hexec : exec (.variantRemove k) st = .next u) : Frame 17592186046976 256 st u :=
  execVariantRemove_fr (fw := 17592186046976) (fb := 256) k st (Frame.refl st) (hfw := Sub.refl _) (hfb := Sub.refl _) u hexec

theorem Frame.of_classSet (k : Nat) (st u : State) (hexec : exec (.classSet k) st = .next u) : Frame 2560 4 st u :=
  execClassSet_fr (fw := 2560) (fb := 4) k st (Frame.refl st) (hfw := Sub.refl _) (hfb := Sub.refl _) u hexec

theorem Frame.of_preempt (k : Nat) (st u : State) (hexec : exec (.preempt k) st = .next u) : Frame 140737622575616 36 st u :=
  execPreempt_fr (fw := 140737622575616) (fb := 36) k st (Frame.refl st) (hfw := Sub.refl _) (hfb := Sub.refl _) u hexec

theorem Frame.of_resume (k : Nat) (st u : State) (hexec : exec (.resume k) st = .next u) : Frame 140737622575616 36 st u :=
  execResume_fr (fw := 140737622575616) (fb := 36) k st (Frame.refl st) (hfw := Sub.refl _) (hfb := Sub.refl _) u hexec

theorem Frame.of_accountRead (k : Nat) (st u : State) (hexec : exec (.accountRead k) st = .next u) : Frame 2361183311804223195658 524 st u :=
  execAccountRead_fr (fw := 2361183311804223195658) (fb := 524) k st (Frame.refl st) (hfw := Sub.refl _) (hfb := Sub.refl _) u hexec

theorem Frame.of_flitReceive (link : Nat) (bytes : List Nat) (st u : State) (hexec : exec (.flitReceive link bytes) st = .next u) : Frame 536871120 132608 st u :=
  execFlitReceive_fr (fw := 536871120) (fb := 132608) link bytes st (Frame.refl st) (hfw := Sub.refl _) (hfb := Sub.refl _) u hexec

theorem Frame.of_linkReplayFailure (link : Nat) (st u : State) (hexec : exec (.linkReplayFailure link) st = .next u) : Frame 536873680 132608 st u :=
  execLinkReplayFailure_fr (fw := 536873680) (fb := 132608) link st (Frame.refl st) (hfw := Sub.refl _) (hfb := Sub.refl _) u hexec

theorem Frame.of_laneFailure (link : Nat) (lane : Nat) (st u : State) (hexec : exec (.laneFailure link lane) st = .next u) : Frame 536873680 167424 st u :=
  execLaneFailure_fr (fw := 536873680) (fb := 167424) link lane st (Frame.refl st) (hfw := Sub.refl _) (hfb := Sub.refl _) u hexec

theorem Frame.of_laneSwap (link : Nat) (st u : State) (hexec : exec (.laneSwap link) st = .next u) : Frame 536873680 132608 st u :=
  execLaneSwap_fr (fw := 536873680) (fb := 132608) link st (Frame.refl st) (hfw := Sub.refl _) (hfb := Sub.refl _) u hexec

theorem Frame.of_laneRetrained (link : Nat) (lane : Nat) (st u : State) (hexec : exec (.laneRetrained link lane) st = .next u) : Frame 536871120 132608 st u :=
  execLaneRetrained_fr (fw := 536871120) (fb := 132608) link lane st (Frame.refl st) (hfw := Sub.refl _) (hfb := Sub.refl _) u hexec

theorem Frame.of_linkTrained (link : Nat) (delay : Nat) (st u : State) (hexec : exec (.linkTrained link delay) st = .next u) : Frame 536873680 132608 st u :=
  execLinkTrained_fr (fw := 536873680) (fb := 132608) link delay st (Frame.refl st) (hfw := Sub.refl _) (hfb := Sub.refl _) u hexec

theorem Frame.of_linkTrainingTimeout (link : Nat) (st u : State) (hexec : exec (.linkTrainingTimeout link) st = .next u) : Frame 536873680 132608 st u :=
  execLinkTrainingTimeout_fr (fw := 536873680) (fb := 132608) link st (Frame.refl st) (hfw := Sub.refl _) (hfb := Sub.refl _) u hexec

theorem Frame.of_linkRetrain (link : Nat) (st u : State) (hexec : exec (.linkRetrain link) st = .next u) : Frame 536871120 132608 st u :=
  execLinkRetrain_fr (fw := 536871120) (fb := 132608) link st (Frame.refl st) (hfw := Sub.refl _) (hfb := Sub.refl _) u hexec

theorem Frame.of_packetForward (packet : Nat) (st u : State) (hexec : exec (.packetForward packet) st = .next u) : Frame 536870928 512 st u :=
  execPacketForward_fr (fw := 536870928) (fb := 512) packet st (Frame.refl st) (hfw := Sub.refl _) (hfb := Sub.refl _) u hexec

theorem Frame.of_packetLifetimeExpiry (packet : Nat) (st u : State) (hexec : exec (.packetLifetimeExpiry packet) st = .next u) : Frame 536870912 512 st u :=
  execPacketLifetimeExpiry_fr (fw := 536870912) (fb := 512) packet st (Frame.refl st) (hfw := Sub.refl _) (hfb := Sub.refl _) u hexec

theorem Frame.of_fabricRequestServe (packet : Nat) (retried : List Nat) (failed : List Nat) (st u : State) (hexec : exec (.fabricRequestServe packet retried failed) st = .next u) : Frame 10626621660052308036312 170896 st u :=
  execFabricRequestServe_fr (fw := 10626621660052308036312) (fb := 170896) packet retried failed st (Frame.refl st) (hfw := Sub.refl _) (hfb := Sub.refl _) u hexec

theorem Frame.of_fabricAnswerReceive (packet : Nat) (st u : State) (hexec : exec (.fabricAnswerReceive packet) st = .next u) : Frame 774056857569794 532 st u :=
  execFabricAnswerReceive_fr (fw := 774056857569794) (fb := 532) packet st (Frame.refl st) (hfw := Sub.refl _) (hfb := Sub.refl _) u hexec

theorem Frame.of_fabricRetry (req : Nat) (st u : State) (hexec : exec (.fabricRetry req) st = .next u) : Frame 536870912 512 st u :=
  execFabricRetry_fr (fw := 536870912) (fb := 512) req st (Frame.refl st) (hfw := Sub.refl _) (hfb := Sub.refl _) u hexec

theorem Frame.of_timeSend (st u : State) (hexec : exec (.timeSend) st = .next u) : Frame 536870928 0 st u :=
  execTimeSend_fr (fw := 536870928) (fb := 0) st (Frame.refl st) (hfw := Sub.refl _) u hexec

theorem Frame.of_timeReceive (packet : Nat) (st u : State) (hexec : exec (.timeReceive packet) st = .next u) : Frame 36893488147955974144 512 st u :=
  execTimeReceive_fr (fw := 36893488147955974144) (fb := 512) packet st (Frame.refl st) (hfw := Sub.refl _) (hfb := Sub.refl _) u hexec

theorem Frame.of_helloReceive (packet : Nat) (st u : State) (hexec : exec (.helloReceive packet) st = .next u) : Frame 1610612944 132608 st u :=
  execHelloReceive_fr (fw := 1610612944) (fb := 132608) packet st (Frame.refl st) (hfw := Sub.refl _) (hfb := Sub.refl _) u hexec

theorem Frame.of_neighbourSilent (port : Nat) (st u : State) (hexec : exec (.neighbourSilent port) st = .next u) : Frame 208 132096 st u :=
  execNeighbourSilent_fr (fw := 208) (fb := 132096) port st (Frame.refl st) (hfw := Sub.refl _) (hfb := Sub.refl _) u hexec

theorem Frame.of_abortReceive (packet : Nat) (st u : State) (hexec : exec (.abortReceive packet) st = .next u) : Frame 3459542525330295512 169916 st u :=
  execAbortReceive_fr (fw := 3459542525330295512) (fb := 169916) packet st (Frame.refl st) (hfw := Sub.refl _) (hfb := Sub.refl _) u hexec

theorem Frame.of_linkAdminDown (k : Nat) (st u : State) (hexec : exec (.linkAdminDown k) st = .next u) : Frame 536873680 132608 st u :=
  execLinkAdminDown_fr (fw := 536873680) (fb := 132608) k st (Frame.refl st) (hfw := Sub.refl _) (hfb := Sub.refl _) u hexec

theorem Frame.of_linkAdminUp (k : Nat) (st u : State) (hexec : exec (.linkAdminUp k) st = .next u) : Frame 536873680 132608 st u :=
  execLinkAdminUp_fr (fw := 536873680) (fb := 132608) k st (Frame.refl st) (hfw := Sub.refl _) (hfb := Sub.refl _) u hexec

theorem Frame.of_toStock (k : Nat) (st u : State) (hexec : exec (.toStock k) st = .next u) : Frame 536873680 132608 st u :=
  execToStock_fr (fw := 536873680) (fb := 132608) k st (Frame.refl st) (hfw := Sub.refl _) (hfb := Sub.refl _) u hexec

theorem Frame.of_fromStock (k : Nat) (st u : State) (hexec : exec (.fromStock k) st = .next u) : Frame 536873472 0 st u :=
  execFromStock_fr (fw := 536873472) (fb := 0) k st (Frame.refl st) (hfw := Sub.refl _) u hexec

theorem Frame.of_topoQuery (k : Nat) (st u : State) (hexec : exec (.topoQuery k) st = .next u) : Frame 2568 0 st u :=
  execTopoQuery_fr (fw := 2568) (fb := 0) k st (Frame.refl st) (hfw := Sub.refl _) u hexec

theorem Frame.of_partitionForm (k : Nat) (st u : State) (hexec : exec (.partitionForm k) st = .next u) : Frame 13195775511048 42768 st u :=
  execPartitionForm_fr (fw := 13195775511048) (fb := 42768) k st (Frame.refl st) (hfw := Sub.refl _) (hfb := Sub.refl _) u hexec

theorem Frame.of_partitionReshape (k : Nat) (st u : State) (hexec : exec (.partitionReshape k) st = .next u) : Frame 13195775511048 34576 st u :=
  execPartitionReshape_fr (fw := 13195775511048) (fb := 34576) k st (Frame.refl st) (hfw := Sub.refl _) (hfb := Sub.refl _) u hexec

theorem Frame.of_jobAbort (k : Nat) (st u : State) (hexec : exec (.jobAbort k) st = .next u) : Frame 3459542525330295512 169916 st u :=
  execJobAbort_fr (fw := 3459542525330295512) (fb := 169916) k st (Frame.refl st) (hfw := Sub.refl _) (hfb := Sub.refl _) u hexec

theorem Frame.of_jobRestart (k : Nat) (st u : State) (hexec : exec (.jobRestart k) st = .next u) : Frame 9444732979003785447944 42896 st u :=
  execJobRestart_fr (fw := 9444732979003785447944) (fb := 42896) k st (Frame.refl st) (hfw := Sub.refl _) (hfb := Sub.refl _) u hexec

theorem Frame.of_stockDraw (k : Nat) (failed : List Nat) (st u : State) (hexec : exec (.stockDraw k failed) st = .next u) : Frame 1837468647967165136 161872 st u :=
  execStockDraw_fr (fw := 1837468647967165136) (fb := 161872) k failed st (Frame.refl st) (hfw := Sub.refl _) (hfb := Sub.refl _) u hexec

theorem Frame.of_stockReturn (k : Nat) (failed : List Nat) (st u : State) (hexec : exec (.stockReturn k failed) st = .next u) : Frame 612489549322390224 161872 st u :=
  execStockReturn_fr (fw := 612489549322390224) (fb := 161872) k failed st (Frame.refl st) (hfw := Sub.refl _) (hfb := Sub.refl _) u hexec

theorem Frame.of_stockSelftest (cls : Nat) (group : Nat) (unit : Nat) (pass : Nat) (st u : State) (hexec : exec (.stockSelftest cls group unit pass) st = .next u) : Frame 18890078421027903242448 161872 st u :=
  execStockSelftest_fr (fw := 18890078421027903242448) (fb := 161872) cls group unit pass st (Frame.refl st) (hfw := Sub.refl _) (hfb := Sub.refl _) u hexec

theorem Frame.of_shardIntake (k : Nat) (st u : State) (hexec : exec (.shardIntake k) st = .next u) : Frame 5764607523034237440 4096 st u :=
  execShardIntake_fr (fw := 5764607523034237440) (fb := 4096) k st (Frame.refl st) (hfw := Sub.refl _) (hfb := Sub.refl _) u hexec

theorem Frame.of_intakeWrite (h : Nat) (off : Nat) (data : List Nat) (st u : State) (hexec : exec (.intakeWrite h off data) st = .next u) : Frame 1152921504606846984 4097 st u :=
  execIntakeWrite_fr (fw := 1152921504606846984) (fb := 4097) h off data st (Frame.refl st) (hfw := Sub.refl _) (hfb := Sub.refl _) u hexec

theorem Frame.of_digestComplete (slot : Nat) (shard : Nat) (st u : State) (hexec : exec (.digestComplete slot shard) st = .next u) : Frame 10376293541461691088 135168 st u :=
  execDigestComplete_fr (fw := 10376293541461691088) (fb := 135168) slot shard st (Frame.refl st) (hfw := Sub.refl _) (hfb := Sub.refl _) u hexec

theorem Frame.of_donorCopyComplete (slot : Nat) (shard : Nat) (detail : Nat) (data : List Nat) (st u : State) (hexec : exec (.donorCopyComplete slot shard detail data) st = .next u) : Frame 1152921504606849544 4096 st u :=
  execDonorCopyComplete_fr (fw := 1152921504606849544) (fb := 4096) slot shard detail data st (Frame.refl st) (hfw := Sub.refl _) (hfb := Sub.refl _) u hexec

theorem Frame.of_shardTimerExpiry (slot : Nat) (shard : Nat) (st u : State) (hexec : exec (.shardTimerExpiry slot shard) st = .next u) : Frame 10376293541461691088 135168 st u :=
  execShardTimerExpiry_fr (fw := 10376293541461691088) (fb := 135168) slot shard st (Frame.refl st) (hfw := Sub.refl _) (hfb := Sub.refl _) u hexec

theorem Frame.of_recheckShard (st u : State) (hexec : exec (.recheckShard) st = .next u) : Frame 28823037615171174608 135168 st u :=
  execRecheckShard_fr (fw := 28823037615171174608) (fb := 135168) st (Frame.refl st) (hfw := Sub.refl _) (hfb := Sub.refl _) u hexec

theorem Frame.of_shardVerify (k : Nat) (st u : State) (hexec : exec (.shardVerify k) st = .next u) : Frame 1152921504606849744 135168 st u :=
  execShardVerify_fr (fw := 1152921504606849744) (fb := 135168) k st (Frame.refl st) (hfw := Sub.refl _) (hfb := Sub.refl _) u hexec

theorem Frame.of_repairSwap (slot : Nat) (st u : State) (hexec : exec (.repairSwap slot) st = .next u) : Frame 1153062242632073224 4624 st u :=
  execRepairSwap_fr (fw := 1153062242632073224) (fb := 4624) slot st (Frame.refl st) (hfw := Sub.refl _) (hfb := Sub.refl _) u hexec

theorem Frame.of_repairWaitTimeout (launch : Nat) (st u : State) (hexec : exec (.repairWaitTimeout launch) st = .next u) : Frame 774056185956864 20 st u :=
  execRepairWaitTimeout_fr (fw := 774056185956864) (fb := 20) launch st (Frame.refl st) (hfw := Sub.refl _) (hfb := Sub.refl _) u hexec

theorem Frame.of_modelStage (k : Nat) (st u : State) (hexec : exec (.modelStage k) st = .next u) : Frame 1152921504606915082 4096 st u :=
  execModelStage_fr (fw := 1152921504606915082) (fb := 4096) k st (Frame.refl st) (hfw := Sub.refl _) (hfb := Sub.refl _) u hexec

theorem Frame.of_modelSwitch (k : Nat) (st u : State) (hexec : exec (.modelSwitch k) st = .next u) : Frame 2305843112292911616 128 st u :=
  execModelSwitch_fr (fw := 2305843112292911616) (fb := 128) k st (Frame.refl st) (hfw := Sub.refl _) (hfb := Sub.refl _) u hexec

theorem Frame.of_modelSwitchCancel (k : Nat) (st u : State) (hexec : exec (.modelSwitchCancel k) st = .next u) : Frame 2305843112292911616 128 st u :=
  execModelSwitchCancel_fr (fw := 2305843112292911616) (fb := 128) k st (Frame.refl st) (hfw := Sub.refl _) (hfb := Sub.refl _) u hexec

theorem Frame.of_modelRetire (k : Nat) (st u : State) (hexec : exec (.modelRetire k) st = .next u) : Frame 10376311133647735296 4352 st u :=
  execModelRetire_fr (fw := 10376311133647735296) (fb := 4352) k st (Frame.refl st) (hfw := Sub.refl _) (hfb := Sub.refl _) u hexec

theorem Frame.of_capSet (k : Nat) (st u : State) (hexec : exec (.capSet k) st = .next u) : Frame 73786976294838209024 8192 st u :=
  execCapSet_fr (fw := 73786976294838209024) (fb := 8192) k st (Frame.refl st) (hfw := Sub.refl _) (hfb := Sub.refl _) u hexec

theorem Frame.of_energyRead (k : Nat) (st u : State) (hexec : exec (.energyRead k) st = .next u) : Frame 2560 0 st u :=
  execEnergyRead_fr (fw := 2560) (fb := 0) k st (Frame.refl st) (hfw := Sub.refl _) u hexec

theorem Frame.of_phaseHint (k : Nat) (st u : State) (hexec : exec (.phaseHint k) st = .next u) : Frame 73786976294838241792 8192 st u :=
  execPhaseHint_fr (fw := 73786976294838241792) (fb := 8192) k st (Frame.refl st) (hfw := Sub.refl _) (hfb := Sub.refl _) u hexec

theorem Frame.of_scoreRead (k : Nat) (st u : State) (hexec : exec (.scoreRead k) st = .next u) : Frame 2632 131072 st u :=
  execScoreRead_fr (fw := 2632) (fb := 131072) k st (Frame.refl st) (hfw := Sub.refl _) (hfb := Sub.refl _) u hexec

theorem Frame.of_scoreClear (k : Nat) (st u : State) (hexec : exec (.scoreClear k) st = .next u) : Frame 2768 131072 st u :=
  execScoreClear_fr (fw := 2768) (fb := 131072) k st (Frame.refl st) (hfw := Sub.refl _) (hfb := Sub.refl _) u hexec

theorem Frame.of_readDataRead (src : Nat) (st u : State) (hexec : exec (.readDataRead src) st = .next u) : Frame 80 131073 st u :=
  execReadDataRead_fr (fw := 80) (fb := 131073) src st (Frame.refl st) (hfw := Sub.refl _) (hfb := Sub.refl _) u hexec

theorem Frame.of_scorebookFlush (st u : State) (hexec : exec (.scorebookFlush) st = .next u) : Frame 64 131072 st u :=
  execScorebookFlush_fr (fw := 64) (fb := 131072) st (Frame.refl st) (hfw := Sub.refl _) (hfb := Sub.refl _) u hexec

theorem Frame.of_clockSelect (k : Nat) (st u : State) (hexec : exec (.clockSelect k) st = .next u) : Frame 295147905179889699536 148992 st u :=
  execClockSelect_fr (fw := 295147905179889699536) (fb := 148992) k st (Frame.refl st) (hfw := Sub.refl _) (hfb := Sub.refl _) u hexec

theorem Frame.of_gateSet (k : Nat) (st u : State) (hexec : exec (.gateSet k) st = .next u) : Frame 536873600 16384 st u :=
  execGateSet_fr (fw := 536873600) (fb := 16384) k st (Frame.refl st) (hfw := Sub.refl _) (hfb := Sub.refl _) u hexec

theorem Frame.of_attest (k : Nat) (fail : Nat) (st u : State) (hexec : exec (.attest k fail) st = .next u) : Frame 147573952589676415496 262144 st u :=
  execAttest_fr (fw := 147573952589676415496) (fb := 262144) k fail st (Frame.refl st) (hfw := Sub.refl _) (hfb := Sub.refl _) u hexec

theorem Frame.of_fwStage (k : Nat) (st u : State) (hexec : exec (.fwStage k) st = .next u) : Frame 147573952589676415488 262144 st u :=
  execFwStage_fr (fw := 147573952589676415488) (fb := 262144) k st (Frame.refl st) (hfw := Sub.refl _) (hfb := Sub.refl _) u hexec

theorem Frame.of_fwStageFinal (k : Nat) (st u : State) (hexec : exec (.fwStageFinal k) st = .next u) : Frame 147573952589676415488 262144 st u :=
  execFwStageFinal_fr (fw := 147573952589676415488) (fb := 262144) k st (Frame.refl st) (hfw := Sub.refl _) (hfb := Sub.refl _) u hexec

theorem Frame.of_fwStageAbort (k : Nat) (st u : State) (hexec : exec (.fwStageAbort k) st = .next u) : Frame 147573952589676415488 262144 st u :=
  execFwStageAbort_fr (fw := 147573952589676415488) (fb := 262144) k st (Frame.refl st) (hfw := Sub.refl _) (hfb := Sub.refl _) u hexec

theorem Frame.of_fwActivate (k : Nat) (fail : Nat) (st u : State) (hexec : exec (.fwActivate k fail) st = .next u) : Frame 184467440737095518928 393216 st u :=
  execFwActivate_fr (fw := 184467440737095518928) (fb := 393216) k fail st (Frame.refl st) (hfw := Sub.refl _) (hfb := Sub.refl _) u hexec

theorem Frame.of_svnCommit (typ : Nat) (st u : State) (hexec : exec (.svnCommit typ) st = .next u) : Frame 147573952589676413136 393216 st u :=
  execSvnCommit_fr (fw := 147573952589676413136) (fb := 393216) typ st (Frame.refl st) (hfw := Sub.refl _) (hfb := Sub.refl _) u hexec

theorem Frame.of_authChallenge (k : Nat) (st u : State) (hexec : exec (.authChallenge k) st = .next u) : Frame 147573952589676415490 0 st u :=
  execAuthChallenge_fr (fw := 147573952589676415490) (fb := 0) k st (Frame.refl st) (hfw := Sub.refl _) u hexec

theorem Frame.of_ownerEnrol (k : Nat) (fail : Nat) (st u : State) (hexec : exec (.ownerEnrol k fail) st = .next u) : Frame 147573952589676415696 393216 st u :=
  execOwnerEnrol_fr (fw := 147573952589676415696) (fb := 393216) k fail st (Frame.refl st) (hfw := Sub.refl _) (hfb := Sub.refl _) u hexec

theorem Frame.of_i3cAddressAssign (addr : Nat) (st u : State) (hexec : exec (.i3cAddressAssign addr) st = .next u) : Frame 0 65536 st u :=
  execI3cAddressAssign_fr (fw := 0) (fb := 65536) addr st (Frame.refl st) (hfb := Sub.refl _) u hexec

theorem Frame.of_setEndpointId (eid : Nat) (st u : State) (hexec : exec (.setEndpointId eid) st = .next u) : Frame 36893488147419103248 65536 st u :=
  execSetEndpointId_fr (fw := 36893488147419103248) (fb := 65536) eid st (Frame.refl st) (hfw := Sub.refl _) (hfb := Sub.refl _) u hexec

theorem Frame.of_getEndpointId (st u : State) (hexec : exec (.getEndpointId) st = .next u) : Frame 36893488147419103248 65536 st u :=
  execGetEndpointId_fr (fw := 36893488147419103248) (fb := 65536) st (Frame.refl st) (hfw := Sub.refl _) (hfb := Sub.refl _) u hexec

theorem Frame.of_getMctpVersionSupport (st u : State) (hexec : exec (.getMctpVersionSupport) st = .next u) : Frame 36893488147419103248 65536 st u :=
  execGetMctpVersionSupport_fr (fw := 36893488147419103248) (fb := 65536) st (Frame.refl st) (hfw := Sub.refl _) (hfb := Sub.refl _) u hexec

theorem Frame.of_getMessageTypeSupport (st u : State) (hexec : exec (.getMessageTypeSupport) st = .next u) : Frame 36893488147419103248 65536 st u :=
  execGetMessageTypeSupport_fr (fw := 36893488147419103248) (fb := 65536) st (Frame.refl st) (hfw := Sub.refl _) (hfb := Sub.refl _) u hexec

theorem Frame.of_mctpMessageDrop (st u : State) (hexec : exec (.mctpMessageDrop) st = .next u) : Frame 0 65536 st u :=
  execMctpMessageDrop_fr (fw := 0) (fb := 65536) st (Frame.refl st) (hfb := Sub.refl _) u hexec

theorem Frame.of_sbCommand (tag : Nat) (bytes : List Nat) (st u : State) (hexec : exec (.sbCommand tag bytes) st = .next u) : Frame 36893488147419103248 65538 st u :=
  execSbCommand_fr (fw := 36893488147419103248) (fb := 65538) tag bytes st (Frame.refl st) (hfw := Sub.refl _) (hfb := Sub.refl _) u hexec

theorem Frame.of_sbHandover (st u : State) (hexec : exec (.sbHandover) st = .next u) : Frame 184467440737095519952 458752 st u :=
  execSbHandover_fr (fw := 184467440737095519952) (fb := 458752) st (Frame.refl st) (hfw := Sub.refl _) (hfb := Sub.refl _) u hexec

theorem Frame.of_sbReply (st u : State) (hexec : exec (.sbReply) st = .next u) : Frame 528 65536 st u :=
  execSbReply_fr (fw := 528) (fb := 65536) st (Frame.refl st) (hfw := Sub.refl _) (hfb := Sub.refl _) u hexec

theorem Frame.of_windowRead (off : Nat) (count : Nat) (st u : State) (hexec : exec (.windowRead off count) st = .next u) : Frame 184467581474583871568 524287 st u :=
  execWindowRead_fr (fw := 184467581474583871568) (fb := 524287) off count st (Frame.refl st) (hfw := Sub.refl _) (hfb := Sub.refl _) u hexec

theorem Frame.of_gettid (st u : State) (hexec : exec (.gettid) st = .next u) : Frame 36893488147419103248 65536 st u :=
  execGettid_fr (fw := 36893488147419103248) (fb := 65536) st (Frame.refl st) (hfw := Sub.refl _) (hfb := Sub.refl _) u hexec

theorem Frame.of_getpldmversion (typ : Nat) (st u : State) (hexec : exec (.getpldmversion typ) st = .next u) : Frame 36893488147419103248 65536 st u :=
  execGetpldmversion_fr (fw := 36893488147419103248) (fb := 65536) typ st (Frame.refl st) (hfw := Sub.refl _) (hfb := Sub.refl _) u hexec

theorem Frame.of_getpldmtypes (st u : State) (hexec : exec (.getpldmtypes) st = .next u) : Frame 36893488147419103248 65536 st u :=
  execGetpldmtypes_fr (fw := 36893488147419103248) (fb := 65536) st (Frame.refl st) (hfw := Sub.refl _) (hfb := Sub.refl _) u hexec

theorem Frame.of_getpldmcommands (typ : Nat) (st u : State) (hexec : exec (.getpldmcommands typ) st = .next u) : Frame 36893488147419103248 65536 st u :=
  execGetpldmcommands_fr (fw := 36893488147419103248) (fb := 65536) typ st (Frame.refl st) (hfw := Sub.refl _) (hfb := Sub.refl _) u hexec

theorem Frame.of_getpdr (index : Nat) (st u : State) (hexec : exec (.getpdr index) st = .next u) : Frame 36893488147419103248 65536 st u :=
  execGetpdr_fr (fw := 36893488147419103248) (fb := 65536) index st (Frame.refl st) (hfw := Sub.refl _) (hfb := Sub.refl _) u hexec

theorem Frame.of_getpdrrepositoryinfo (st u : State) (hexec : exec (.getpdrrepositoryinfo) st = .next u) : Frame 36893488147419103248 65536 st u :=
  execGetpdrrepositoryinfo_fr (fw := 36893488147419103248) (fb := 65536) st (Frame.refl st) (hfw := Sub.refl _) (hfb := Sub.refl _) u hexec

theorem Frame.of_getsensorreading (sensor : Nat) (st u : State) (hexec : exec (.getsensorreading sensor) st = .next u) : Frame 36893488147419103248 65536 st u :=
  execGetsensorreading_fr (fw := 36893488147419103248) (fb := 65536) sensor st (Frame.refl st) (hfw := Sub.refl _) (hfb := Sub.refl _) u hexec

theorem Frame.of_getstatesensorreadings (sensor : Nat) (st u : State) (hexec : exec (.getstatesensorreadings sensor) st = .next u) : Frame 36893488147419103248 65536 st u :=
  execGetstatesensorreadings_fr (fw := 36893488147419103248) (fb := 65536) sensor st (Frame.refl st) (hfw := Sub.refl _) (hfb := Sub.refl _) u hexec

theorem Frame.of_seteventreceiver (eid : Nat) (st u : State) (hexec : exec (.seteventreceiver eid) st = .next u) : Frame 36893488147419103248 65536 st u :=
  execSeteventreceiver_fr (fw := 36893488147419103248) (fb := 65536) eid st (Frame.refl st) (hfw := Sub.refl _) (hfb := Sub.refl _) u hexec

theorem Frame.of_setnumericsensorenable (sensor : Nat) (value : Nat) (st u : State) (hexec : exec (.setnumericsensorenable sensor value) st = .next u) : Frame 36893488147419103248 65536 st u :=
  execSetnumericsensorenable_fr (fw := 36893488147419103248) (fb := 65536) sensor value st (Frame.refl st) (hfw := Sub.refl _) (hfb := Sub.refl _) u hexec

theorem Frame.of_trainingSeenFromPartner (link : Nat) (st u : State) (hexec : exec (.trainingSeenFromPartner link) st = .next u) : Frame 536871120 132608 st u :=
  execTrainingSeenFromPartner_fr (fw := 536871120) (fb := 132608) link st (Frame.refl st) (hfw := Sub.refl _) (hfb := Sub.refl _) u hexec

theorem Frame.of_sidebandWindowWrite (off : Nat) (values : List Nat) (st u : State) (hexec : exec (.sidebandWindowWrite off values) st = .next u) : Frame 37777959085437649681368 524287 st u :=
  execSidebandWindowWrite_fr (fw := 37777959085437649681368) (fb := 524287) off values st (Frame.refl st) (hfw := Sub.refl _) (hfb := Sub.refl _) u hexec

theorem Frame.of_reportDataRead (src : Nat) (h : Nat) (st u : State) (hexec : exec (.reportDataRead src h) st = .next u) : Frame 147573952589676412944 1 st u :=
  execReportDataRead_fr (fw := 147573952589676412944) (fb := 1) src h st (Frame.refl st) (hfw := Sub.refl _) (hfb := Sub.refl _) u hexec

theorem Frame.of_nonceExpiry (src : Nat) (st u : State) (hexec : exec (.nonceExpiry src) st = .next u) : Frame 147573952589676412928 0 st u :=
  execNonceExpiry_fr (fw := 147573952589676412928) (fb := 0) src st (Frame.refl st) (hfw := Sub.refl _) u hexec

theorem Frame.of_bimonRestartComplete (st u : State) (hexec : exec (.bimonRestartComplete) st = .next u) : Frame 36893488147419103232 65536 st u :=
  execBimonRestartComplete_fr (fw := 36893488147419103232) (fb := 65536) st (Frame.refl st) (hfw := Sub.refl _) (hfb := Sub.refl _) u hexec

/-- No command undoes what `Keeps` speaks of. -/
theorem exec_keeps (cmd : Instr) (st u : State) (hexec : exec cmd st = .next u) : Keeps st u := by
  cases cmd with
  | standbyInputStart straps copies => exact (Frame.of_standbyInputStart straps copies st u hexec).keeps
  | standbyInputStop => exact (Frame.of_standbyInputStop  st u hexec).keeps
  | mainInputStop => exact (Frame.of_mainInputStop  st u hexec).keeps
  | mainRailStart => exact (Frame.of_mainRailStart  st u hexec).keeps
  | mainPowerGood => exact (Frame.of_mainPowerGood  st u hexec).keeps
  | railFailure => exact (Frame.of_railFailure  st u hexec).keeps
  | rootReady => exact (Frame.of_rootReady  st u hexec).keeps
  | ameloReady => exact (Frame.of_ameloReady  st u hexec).keeps
  | clockFailure kind dom count other => exact (Frame.of_clockFailure kind dom count other st u hexec).keeps
  | clockAutoReturn => exact (Frame.of_clockAutoReturn  st u hexec).keeps
  | managementTick overrun fail readings watts stalls steps => exact (Frame.of_managementTick overrun fail readings watts stalls steps st u hexec).keeps
  | biasLoopUpdate ctx slot layer => exact (Frame.of_biasLoopUpdate ctx slot layer st u hexec).keeps
  | thermalCutClear => exact (Frame.of_thermalCutClear  st u hexec).keeps
  | sensorFail sensor => exact (Frame.of_sensorFail sensor st u hexec).keeps
  | thermalTrip sensor reading => exact (Frame.of_thermalTrip sensor reading st u hexec).keeps
  | phaseFault rail phase => exact (Frame.of_phaseFault rail phase st u hexec).keeps
  | phaseStockDraw rail failed => exact (Frame.of_phaseStockDraw rail failed st u hexec).keeps
  | paceAdjust die avg => exact (Frame.of_paceAdjust die avg st u hexec).keeps
  | epoNAssert level => exact (Frame.of_epoNAssert level st u hexec).keeps
  | pwarnNAssert => exact (Frame.of_pwarnNAssert  st u hexec).keeps
  | pwarnNRelease => exact (Frame.of_pwarnNRelease  st u hexec).keeps
  | pwarnCapRestore => exact (Frame.of_pwarnCapRestore  st u hexec).keeps
  | coolAlmNAssert => exact (Frame.of_coolAlmNAssert  st u hexec).keeps
  | coolAlmNRelease => exact (Frame.of_coolAlmNRelease  st u hexec).keeps
  | traySeatNChange level => exact (Frame.of_traySeatNChange level st u hexec).keeps
  | drainReqNAssert => exact (Frame.of_drainReqNAssert  st u hexec).keeps
  | drainReqNRelease => exact (Frame.of_drainReqNRelease  st u hexec).keeps
  | drainStuck => exact (Frame.of_drainStuck  st u hexec).keeps
  | chatterSet input => exact (Frame.of_chatterSet input st u hexec).keeps
  | chatterClear src value => exact (Frame.of_chatterClear src value st u hexec).keeps
  | perstNAssert h => exact (Frame.of_perstNAssert h st u hexec).keeps
  | perstNDeassert h => exact (Frame.of_perstNDeassert h st u hexec).keeps
  | sbResetNAssert => exact (Frame.of_sbResetNAssert  st u hexec).keeps
  | sbResetNDeassert => exact (Frame.of_sbResetNDeassert  st u hexec).keeps
  | watchdogExpiry => exact (Frame.of_watchdogExpiry  st u hexec).keeps
  | rmSilence => exact (Frame.of_rmSilence  st u hexec).keeps
  | hostLinkUp h rate width flit => exact (Frame.of_hostLinkUp h rate width flit st u hexec).keeps
  | hostLinkDown h => exact (Frame.of_hostLinkDown h st u hexec).keeps
  | hostLost h cause => exact (Frame.of_hostLost h cause st u hexec).keeps
  | lossActionsComplete h => exact (Frame.of_lossActionsComplete h st u hexec).keeps
  | configRequest h fn reg write value => exact (Frame.of_configRequest h fn reg write value st u hexec).keeps
  | hostReadTimeout desc => exact (Frame.of_hostReadTimeout desc st u hexec).keeps
  | hostAttach h value => exact (Frame.of_hostAttach h value st u hexec).keeps
  | hostDetach h value => exact (Frame.of_hostDetach h value st u hexec).keeps
  | orphanDataRead src h => exact (Frame.of_orphanDataRead src h st u hexec).keeps
  | msixTableWrite h off value size => exact (Frame.of_msixTableWrite h off value size st u hexec).keeps
  | registerWrite src off value size => exact (Frame.of_registerWrite src off value size st u hexec).keeps
  | rcRead src off size => exact (Frame.of_rcRead src off size st u hexec).keeps
  | pwrCapWrite src value => exact (Frame.of_pwrCapWrite src value st u hexec).keeps
  | windowWrite src off data => exact (Frame.of_windowWrite src off data st u hexec).keeps
  | commandCommit src off data => exact (Frame.of_commandCommit src off data st u hexec).keeps
  | commandQueue chan => exact (Frame.of_commandQueue chan st u hexec).keeps
  | gapTimerExpiry chan => exact (Frame.of_gapTimerExpiry chan st u hexec).keeps
  | creditWordWrite chan => exact (Frame.of_creditWordWrite chan st u hexec).keeps
  | commandAccept chan => exact (Frame.of_commandAccept chan st u hexec).keeps
  | commandComplete k => exact (Frame.of_commandComplete k st u hexec).keeps
  | replyHoldDrain ring => exact (Frame.of_replyHoldDrain ring st u hexec).keeps
  | channelEnable src chan value => exact (Frame.of_channelEnable src chan value st u hexec).keeps
  | channelDisable src chan value => exact (Frame.of_channelDisable src chan value st u hexec).keeps
  | channelReset src chan value => exact (Frame.of_channelReset src chan value st u hexec).keeps
  | ringEnable src ring value => exact (Frame.of_ringEnable src ring value st u hexec).keeps
  | ringDisable src ring value => exact (Frame.of_ringDisable src ring value st u hexec).keeps
  | nop k => exact (Frame.of_nop k st u hexec).keeps
  | fence k => exact (Frame.of_fence k st u hexec).keeps
  | signal k => exact (Frame.of_signal k st u hexec).keeps
  | wait k => exact (Frame.of_wait k st u hexec).keeps
  | waitPoll k => exact (Frame.of_waitPoll k st u hexec).keeps
  | waitTimeout k => exact (Frame.of_waitTimeout k st u hexec).keeps
  | timestamp k => exact (Frame.of_timestamp k st u hexec).keeps
  | ctxCreate k => exact (Frame.of_ctxCreate k st u hexec).keeps
  | ctxDestroy k => exact (Frame.of_ctxDestroy k st u hexec).keeps
  | map k => exact (Frame.of_map k st u hexec).keeps
  | unmap k => exact (Frame.of_unmap k st u hexec).keeps
  | migrate k => exact (Frame.of_migrate k st u hexec).keeps
  | setHome k => exact (Frame.of_setHome k st u hexec).keeps
  | ctxAdopt k => exact (Frame.of_ctxAdopt k st u hexec).keeps
  | pinWindow k => exact (Frame.of_pinWindow k st u hexec).keeps
  | unpin k => exact (Frame.of_unpin k st u hexec).keeps
  | invalidate k => exact (Frame.of_invalidate k st u hexec).keeps
  | copy k => exact (Frame.of_copy k st u hexec).keeps
  | fill k => exact (Frame.of_fill k st u hexec).keeps
  | gather k => exact (Frame.of_gather k st u hexec).keeps
  | scatter k => exact (Frame.of_scatter k st u hexec).keeps
  | reduce k => exact (Frame.of_reduce k st u hexec).keeps
  | alltoall k => exact (Frame.of_alltoall k st u hexec).keeps
  | descriptorIssue mover queue => exact (Frame.of_descriptorIssue mover queue st u hexec).keeps
  | moverRequestIssue mover retried failed => exact (Frame.of_moverRequestIssue mover retried failed st u hexec).keeps
  | descriptorComplete desc => exact (Frame.of_descriptorComplete desc st u hexec).keeps
  | faultRecordDeliver fault => exact (Frame.of_faultRecordDeliver fault st u hexec).keeps
  | faultResolve src value => exact (Frame.of_faultResolve src value st u hexec).keeps
  | faultTimeout fault => exact (Frame.of_faultTimeout fault st u hexec).keeps
  | pageMoveStart want => exact (Frame.of_pageMoveStart want st u hexec).keeps
  | pageMoveCopyDone move => exact (Frame.of_pageMoveCopyDone move st u hexec).keeps
  | moveBroadcastComplete move => exact (Frame.of_moveBroadcastComplete move st u hexec).keeps
  | moveNoteReceive packet => exact (Frame.of_moveNoteReceive packet st u hexec).keeps
  | forwardReceive packet => exact (Frame.of_forwardReceive packet st u hexec).keeps
  | bankRetire die bank => exact (Frame.of_bankRetire die bank st u hexec).keeps
  | launchLayer k => exact (Frame.of_launchLayer k st u hexec).keeps
  | launchKernel k => exact (Frame.of_launchKernel k st u hexec).keeps
  | launchLoop k => exact (Frame.of_launchLoop k st u hexec).keeps
  | loopHead launch die => exact (Frame.of_loopHead launch die st u hexec).keeps
  | loadProgram k => exact (Frame.of_loadProgram k st u hexec).keeps
  | unloadProgram k => exact (Frame.of_unloadProgram k st u hexec).keeps
  | launchReady launch => exact (Frame.of_launchReady launch st u hexec).keeps
  | dieHolderChange die => exact (Frame.of_dieHolderChange die st u hexec).keeps
  | sliceExpiry die => exact (Frame.of_sliceExpiry die st u hexec).keeps
  | programRecordStart die => exact (Frame.of_programRecordStart die st u hexec).keeps
  | tileStart die core => exact (Frame.of_tileStart die core st u hexec).keeps
  | tileVerdict tile misdeals port => exact (Frame.of_tileVerdict tile misdeals port st u hexec).keeps
  | armingExpiry die core array => exact (Frame.of_armingExpiry die core array st u hexec).keeps
  | mtxInject value => exact (Frame.of_mtxInject value st u hexec).keeps
  | stockCoreDraw die => exact (Frame.of_stockCoreDraw die st u hexec).keeps
  | coreSelftestDone die core pass => exact (Frame.of_coreSelftestDone die core pass st u hexec).keeps
  | launchComplete launch => exact (Frame.of_launchComplete launch st u hexec).keeps
  | setNumerics k => exact (Frame.of_setNumerics k st u hexec).keeps
  | dealAhead die retried failed => exact (Frame.of_dealAhead die retried failed st u hexec).keeps
  | dealExpert die retried failed => exact (Frame.of_dealExpert die retried failed st u hexec).keeps
  | dispatch launch => exact (Frame.of_dispatch launch st u hexec).keeps
  | areaDecided ctx slot layer expert parity => exact (Frame.of_areaDecided ctx slot layer expert parity st u hexec).keeps
  | expertLaunch ctx slot layer expert parity => exact (Frame.of_expertLaunch ctx slot layer expert parity st u hexec).keeps
  | combineComplete launch => exact (Frame.of_combineComplete launch st u hexec).keeps
  | areaReset ctx slot layer expert parity => exact (Frame.of_areaReset ctx slot layer expert parity st u hexec).keeps
  | routerConfig k => exact (Frame.of_routerConfig k st u hexec).keeps
  | setShape k => exact (Frame.of_setShape k st u hexec).keeps
  | routerRemove k => exact (Frame.of_routerRemove k st u hexec).keeps
  | biasLoopConfig k => exact (Frame.of_biasLoopConfig k st u hexec).keeps
  | routerStats k => exact (Frame.of_routerStats k st u hexec).keeps
  | stepAssembly ctx => exact (Frame.of_stepAssembly ctx st u hexec).keeps
  | stepComplete ctx => exact (Frame.of_stepComplete ctx st u hexec).keeps
  | evictionComplete hand => exact (Frame.of_evictionComplete hand st u hexec).keeps
  | returnStart hand => exact (Frame.of_returnStart hand st u hexec).keeps
  | returnComplete hand => exact (Frame.of_returnComplete hand st u hexec).keeps
  | handOpen k => exact (Frame.of_handOpen k st u hexec).keeps
  | handClose k => exact (Frame.of_handClose k st u hexec).keeps
  | step k => exact (Frame.of_step k st u hexec).keeps
  | prefillChunk k => exact (Frame.of_prefillChunk k st u hexec).keeps
  | park k => exact (Frame.of_park k st u hexec).keeps
  | parkRenew k => exact (Frame.of_parkRenew k st u hexec).keeps
  | parkComplete hand => exact (Frame.of_parkComplete hand st u hexec).keeps
  | unpark k => exact (Frame.of_unpark k st u hexec).keeps
  | unparkComplete hand => exact (Frame.of_unparkComplete hand st u hexec).keeps
  | kittyExpiry entry => exact (Frame.of_kittyExpiry entry st u hexec).keeps
  | specConfig k => exact (Frame.of_specConfig k st u hexec).keeps
  | prefixLookup k => exact (Frame.of_prefixLookup k st u hexec).keeps
  | prefixInsert k => exact (Frame.of_prefixInsert k st u hexec).keeps
  | prefixRemove k => exact (Frame.of_prefixRemove k st u hexec).keeps
  | variantBind k => exact (Frame.of_variantBind k st u hexec).keeps
  | variantRegister k => exact (Frame.of_variantRegister k st u hexec).keeps
  | variantRemove k => exact (Frame.of_variantRemove k st u hexec).keeps
  | classSet k => exact (Frame.of_classSet k st u hexec).keeps
  | preempt k => exact (Frame.of_preempt k st u hexec).keeps
  | resume k => exact (Frame.of_resume k st u hexec).keeps
  | accountRead k => exact (Frame.of_accountRead k st u hexec).keeps
  | flitReceive link bytes => exact (Frame.of_flitReceive link bytes st u hexec).keeps
  | linkReplayFailure link => exact (Frame.of_linkReplayFailure link st u hexec).keeps
  | laneFailure link lane => exact (Frame.of_laneFailure link lane st u hexec).keeps
  | laneSwap link => exact (Frame.of_laneSwap link st u hexec).keeps
  | laneRetrained link lane => exact (Frame.of_laneRetrained link lane st u hexec).keeps
  | linkTrained link delay => exact (Frame.of_linkTrained link delay st u hexec).keeps
  | linkTrainingTimeout link => exact (Frame.of_linkTrainingTimeout link st u hexec).keeps
  | linkRetrain link => exact (Frame.of_linkRetrain link st u hexec).keeps
  | packetForward packet => exact (Frame.of_packetForward packet st u hexec).keeps
  | packetLifetimeExpiry packet => exact (Frame.of_packetLifetimeExpiry packet st u hexec).keeps
  | fabricRequestServe packet retried failed => exact (Frame.of_fabricRequestServe packet retried failed st u hexec).keeps
  | fabricAnswerReceive packet => exact (Frame.of_fabricAnswerReceive packet st u hexec).keeps
  | fabricRetry req => exact (Frame.of_fabricRetry req st u hexec).keeps
  | timeSend => exact (Frame.of_timeSend  st u hexec).keeps
  | timeReceive packet => exact (Frame.of_timeReceive packet st u hexec).keeps
  | helloReceive packet => exact (Frame.of_helloReceive packet st u hexec).keeps
  | neighbourSilent port => exact (Frame.of_neighbourSilent port st u hexec).keeps
  | abortReceive packet => exact (Frame.of_abortReceive packet st u hexec).keeps
  | linkAdminDown k => exact (Frame.of_linkAdminDown k st u hexec).keeps
  | linkAdminUp k => exact (Frame.of_linkAdminUp k st u hexec).keeps
  | toStock k => exact (Frame.of_toStock k st u hexec).keeps
  | fromStock k => exact (Frame.of_fromStock k st u hexec).keeps
  | topoQuery k => exact (Frame.of_topoQuery k st u hexec).keeps
  | partitionForm k => exact (Frame.of_partitionForm k st u hexec).keeps
  | partitionReshape k => exact (Frame.of_partitionReshape k st u hexec).keeps
  | jobAbort k => exact (Frame.of_jobAbort k st u hexec).keeps
  | jobRestart k => exact (Frame.of_jobRestart k st u hexec).keeps
  | stockDraw k failed => exact (Frame.of_stockDraw k failed st u hexec).keeps
  | stockReturn k failed => exact (Frame.of_stockReturn k failed st u hexec).keeps
  | stockSelftest cls group unit pass => exact (Frame.of_stockSelftest cls group unit pass st u hexec).keeps
  | shardIntake k => exact (Frame.of_shardIntake k st u hexec).keeps
  | intakeWrite h off data => exact (Frame.of_intakeWrite h off data st u hexec).keeps
  | digestComplete slot shard => exact (Frame.of_digestComplete slot shard st u hexec).keeps
  | donorCopyComplete slot shard detail data => exact (Frame.of_donorCopyComplete slot shard detail data st u hexec).keeps
  | shardTimerExpiry slot shard => exact (Frame.of_shardTimerExpiry slot shard st u hexec).keeps
  | recheckShard => exact (Frame.of_recheckShard  st u hexec).keeps
  | shardVerify k => exact (Frame.of_shardVerify k st u hexec).keeps
  | repairSwap slot => exact (Frame.of_repairSwap slot st u hexec).keeps
  | repairWaitTimeout launch => exact (Frame.of_repairWaitTimeout launch st u hexec).keeps
  | modelStage k => exact (Frame.of_modelStage k st u hexec).keeps
  | modelSwitch k => exact (Frame.of_modelSwitch k st u hexec).keeps
  | modelSwitchCancel k => exact (Frame.of_modelSwitchCancel k st u hexec).keeps
  | modelRetire k => exact (Frame.of_modelRetire k st u hexec).keeps
  | capSet k => exact (Frame.of_capSet k st u hexec).keeps
  | energyRead k => exact (Frame.of_energyRead k st u hexec).keeps
  | phaseHint k => exact (Frame.of_phaseHint k st u hexec).keeps
  | scoreRead k => exact (Frame.of_scoreRead k st u hexec).keeps
  | scoreClear k => exact (Frame.of_scoreClear k st u hexec).keeps
  | readDataRead src => exact (Frame.of_readDataRead src st u hexec).keeps
  | scorebookFlush => exact (Frame.of_scorebookFlush  st u hexec).keeps
  | clockSelect k => exact (Frame.of_clockSelect k st u hexec).keeps
  | gateSet k => exact (Frame.of_gateSet k st u hexec).keeps
  | attest k fail => exact (Frame.of_attest k fail st u hexec).keeps
  | fwStage k => exact (Frame.of_fwStage k st u hexec).keeps
  | fwStageFinal k => exact (Frame.of_fwStageFinal k st u hexec).keeps
  | fwStageAbort k => exact (Frame.of_fwStageAbort k st u hexec).keeps
  | fwActivate k fail => exact (Frame.of_fwActivate k fail st u hexec).keeps
  | svnCommit typ => exact (Frame.of_svnCommit typ st u hexec).keeps
  | authChallenge k => exact (Frame.of_authChallenge k st u hexec).keeps
  | ownerEnrol k fail => exact (Frame.of_ownerEnrol k fail st u hexec).keeps
  | i3cAddressAssign addr => exact (Frame.of_i3cAddressAssign addr st u hexec).keeps
  | setEndpointId eid => exact (Frame.of_setEndpointId eid st u hexec).keeps
  | getEndpointId => exact (Frame.of_getEndpointId  st u hexec).keeps
  | getMctpVersionSupport => exact (Frame.of_getMctpVersionSupport  st u hexec).keeps
  | getMessageTypeSupport => exact (Frame.of_getMessageTypeSupport  st u hexec).keeps
  | mctpMessageDrop => exact (Frame.of_mctpMessageDrop  st u hexec).keeps
  | sbCommand tag bytes => exact (Frame.of_sbCommand tag bytes st u hexec).keeps
  | sbHandover => exact (Frame.of_sbHandover  st u hexec).keeps
  | sbReply => exact (Frame.of_sbReply  st u hexec).keeps
  | windowRead off count => exact (Frame.of_windowRead off count st u hexec).keeps
  | gettid => exact (Frame.of_gettid  st u hexec).keeps
  | getpldmversion typ => exact (Frame.of_getpldmversion typ st u hexec).keeps
  | getpldmtypes => exact (Frame.of_getpldmtypes  st u hexec).keeps
  | getpldmcommands typ => exact (Frame.of_getpldmcommands typ st u hexec).keeps
  | getpdr index => exact (Frame.of_getpdr index st u hexec).keeps
  | getpdrrepositoryinfo => exact (Frame.of_getpdrrepositoryinfo  st u hexec).keeps
  | getsensorreading sensor => exact (Frame.of_getsensorreading sensor st u hexec).keeps
  | getstatesensorreadings sensor => exact (Frame.of_getstatesensorreadings sensor st u hexec).keeps
  | seteventreceiver eid => exact (Frame.of_seteventreceiver eid st u hexec).keeps
  | setnumericsensorenable sensor value => exact (Frame.of_setnumericsensorenable sensor value st u hexec).keeps
  | trainingSeenFromPartner link => exact (Frame.of_trainingSeenFromPartner link st u hexec).keeps
  | sidebandWindowWrite off values => exact (Frame.of_sidebandWindowWrite off values st u hexec).keeps
  | reportDataRead src h => exact (Frame.of_reportDataRead src h st u hexec).keeps
  | nonceExpiry src => exact (Frame.of_nonceExpiry src st u hexec).keeps
  | bimonRestartComplete => exact (Frame.of_bimonRestartComplete  st u hexec).keeps

/-- The bit of a field. -/
def Part.bit (p : Part) : Nat :=
  match p with
  | .now => 0
  | .freeCtr => 1
  | .mem => 3
  | .out => 4
  | .pending => 5
  | .score => 6
  | .ports => 7
  | .chans => 8
  | .cmds => 9
  | .nextCmd => 10
  | .doneCtr => 11
  | .grants => 12
  | .hold => 13
  | .late => 14
  | .ctxs => 15
  | .allocs => 16
  | .ranges => 17
  | .windows => 18
  | .moves => 19
  | .nextMove => 20
  | .wants => 21
  | .fwds => 22
  | .remaps => 23
  | .tlbs => 24
  | .faults => 25
  | .nextFault => 26
  | .descs => 27
  | .nextDesc => 28
  | .fabric => 29
  | .topo => 30
  | .tiles => 31
  | .nextTile => 32
  | .arming => 33
  | .injects => 34
  | .routers => 35
  | .areas => 36
  | .decided => 37
  | .stepSlots => 38
  | .hands => 39
  | .kitty => 40
  | .steps => 41
  | .entries => 42
  | .treeNodes => 43
  | .variants => 44
  | .dealing => 45
  | .accounts => 46
  | .launches => 47
  | .nextLaunch => 48
  | .rings => 49
  | .programs => 50
  | .coreFree => 51
  | .phaseSince => 52
  | .phaseNs => 53
  | .draws => 54
  | .units => 55
  | .bankMap => 56
  | .badBanks => 57
  | .selfDue => 58
  | .recordDue => 59
  | .slots => 60
  | .switches => 61
  | .windowTurn => 62
  | .recheck => 63
  | .recheckAt => 64
  | .mgmt => 65
  | .power => 66
  | .sec => 67
  | .clkMoved => 68
  | .clkBring => 69
  | .badSince => 70
  | .tableWaits => 71
  | .cacheSet => 72
  | .ringLanded => 73
  | .selfNow => 74

/-- A field outside the mask. -/
theorem Frame.part {w b : Nat} {s t : State} (h : Frame w b s t) (p : Part) (hp : w.testBit p.bit = false) : p.same s t := by
  cases p
  · exact h.now hp
  · exact h.freeCtr hp
  · exact h.mem hp
  · exact h.out hp
  · exact h.pending hp
  · exact h.score hp
  · exact h.ports hp
  · exact h.chans hp
  · exact h.cmds hp
  · exact h.nextCmd hp
  · exact h.doneCtr hp
  · exact h.grants hp
  · exact h.hold hp
  · exact h.late hp
  · exact h.ctxs hp
  · exact h.allocs hp
  · exact h.ranges hp
  · exact h.windows hp
  · exact h.moves hp
  · exact h.nextMove hp
  · exact h.wants hp
  · exact h.fwds hp
  · exact h.remaps hp
  · exact h.tlbs hp
  · exact h.faults hp
  · exact h.nextFault hp
  · exact h.descs hp
  · exact h.nextDesc hp
  · exact h.fabric hp
  · exact h.topo hp
  · exact h.tiles hp
  · exact h.nextTile hp
  · exact h.arming hp
  · exact h.injects hp
  · exact h.routers hp
  · exact h.areas hp
  · exact h.decided hp
  · exact h.stepSlots hp
  · exact h.hands hp
  · exact h.kitty hp
  · exact h.steps hp
  · exact h.entries hp
  · exact h.treeNodes hp
  · exact h.variants hp
  · exact h.dealing hp
  · exact h.accounts hp
  · exact h.launches hp
  · exact h.nextLaunch hp
  · exact h.rings hp
  · exact h.programs hp
  · exact h.coreFree hp
  · exact h.phaseSince hp
  · exact h.phaseNs hp
  · exact h.draws hp
  · exact h.units hp
  · exact h.bankMap hp
  · exact h.badBanks hp
  · exact h.selfDue hp
  · exact h.recordDue hp
  · exact h.slots hp
  · exact h.switches hp
  · exact h.windowTurn hp
  · exact h.recheck hp
  · exact h.recheckAt hp
  · exact h.mgmt hp
  · exact h.power hp
  · exact h.sec hp
  · exact h.clkMoved hp
  · exact h.clkBring hp
  · exact h.badSince hp
  · exact h.tableWaits hp
  · exact h.cacheSet hp
  · exact h.ringLanded hp
  · exact h.selfNow hp

/-- A register of a block outside the mask. -/
theorem Frame.reg {w b : Nat} {s t : State} (h : Frame w b s t) (f : Fld) (hf : f.blk < 19) (hb : b.testBit f.blk = false) : t.rd f = s.rd f := by
  unfold State.rd
  rw [h.regs f.key (by rw [Fld.key_div]; exact hf) (by rw [Fld.key_div]; exact hb)]

end Sys2Proof.Machine
end

