-- ==== Sys2Proof/Laws/Replies.lean ====
section
/-! SUPPORT. Windows, slots and reply rings: a slot's bytes after a write, words of memory, and a reply that its ring takes. -/

namespace Sys2Proof.Machine

open Sys2Proof


theorem aFind_slotWrite (l : List (Nat × Nat)) (a i : Nat) (d : List Nat) (h : ∀ b ∈ d, b < 256) :
    (aFind (slotWrite l a d) i).getD 0 = if a ≤ i ∧ i < a + d.length then d.getD (i - a) 0 else (aFind l i).getD 0 := by
  induction d generalizing l a with
  | nil => simp [slotWrite]
  | cons b r ih =>
    have hb : b % 256 = b := Nat.mod_eq_of_lt (h b List.mem_cons_self)
    rw [slotWrite, ih _ _ (fun x hx => h x (List.mem_cons_of_mem _ hx)), hb]
    by_cases e : i = a
    · subst e
      have : ¬ (i + 1 ≤ i ∧ i < i + 1 + r.length) := by omega
      rw [if_neg this]
      have : i ≤ i ∧ i < i + (b :: r).length := by simp
      rw [if_pos this]
      by_cases z : b = 0
      · simp [z, aFind_aErase_self]
      · simp [z, aFind_aPut_self]
    · have hl : (aFind (if b = 0 then aErase l a else aPut l a b) i).getD 0 = (aFind l i).getD 0 := by
        split
        · rw [aFind_aErase_other _ _ _ e]
        · rw [aFind_aPut_other _ _ _ _ e]
      rw [hl]
      by_cases g : a + 1 ≤ i ∧ i < a + 1 + r.length
      · have : a ≤ i ∧ i < a + (b :: r).length := by simp; omega
        rw [if_pos g, if_pos this]
        have : i - a = (i - (a + 1)) + 1 := by omega
        rw [this]; simp
      · have : ¬ (a ≤ i ∧ i < a + (b :: r).length) := by simp; omega
        rw [if_neg g, if_neg this]

theorem State.chan_setChan_self (s : State) (c : Nat) (x : Chan) : (s.setChan c x).chan c = x := by
  simp [State.setChan, State.chan, aFind_aPut_self]
theorem State.chan_setChan_other (s : State) (c d : Nat) (x : Chan) (h : d ≠ c) : (s.setChan c x).chan d = s.chan d := by
  simp [State.setChan, State.chan, aFind_aPut_other _ _ _ _ h]

theorem windowBad_false {s : State} {src off n : Nat} (h1 : n = 8 ∨ n = 16 ∨ n = 32 ∨ n = 64) (h2 : off % n = 0)
   (h3 : off / 0x1000 < 128) (h4 : off / 0x1000 / 64 = src) (h5 : s.rd (CMD.CHAN_CTL.ENABLE (off / 0x1000)) = 1)
   (h6 : ∀ q ∈ (s.chan (off / 0x1000)).held, q % 64 ≠ off % 0x1000 / 64) : s.windowBad src off n = false := by
  have h7 : (s.chan (off / 0x1000)).held.any (fun q => q % 64 == off % 0x1000 / 64) = false := by
    rw [List.any_eq_false]; intro q hq; simpa using h6 q hq
  have h8 : (n == 8 || n == 16 || n == 32 || n == 64) = true := by rcases h1 with e | e | e | e <;> simp [e]
  have h9 : ¬ 128 ≤ off / 0x1000 := by omega
  have h10 : s.is (CMD.CHAN_CTL.ENABLE (off / 0x1000)) = true := by simp [State.is, h5]
  unfold State.windowBad
  simp only [h7, h8, h2, h4, h10, h9]
  simp

theorem windowBad_true {s : State} {src off n : Nat} (h : ¬(n = 8 ∨ n = 16 ∨ n = 32 ∨ n = 64) ∨ off % n ≠ 0 ∨
   128 ≤ off / 0x1000 ∨ off / 0x1000 / 64 ≠ src ∨ s.rd (CMD.CHAN_CTL.ENABLE (off / 0x1000)) ≠ 1 ∨
   ∃ q ∈ (s.chan (off / 0x1000)).held, q % 64 = off % 0x1000 / 64) : s.windowBad src off n = true := by
  unfold State.windowBad State.is
  simp only [Bool.or_eq_true, Bool.not_eq_true', Bool.or_eq_false_iff, beq_eq_false_iff_ne, bne_iff_ne, decide_eq_true_eq, List.any_eq_true, beq_iff_eq]
  rcases h with h | h | h | h | h | h
  · left; left; left; left; left
    simp only [not_or] at h; exact ⟨⟨⟨h.1, h.2.1⟩, h.2.2.1⟩, h.2.2.2⟩
  all_goals tauto

theorem State.bump_but (s : State) (f : Fld) (n : Nat) : s.sameBut (s.bump f n) [f] := by
  intro g hg
  exact State.rd_bump_ne (hg f (by simp))

theorem State.bump_parts (s : State) (f : Fld) (n : Nat) : s.sameParts (s.bump f n) [] := by
  intro p _ _; cases p <;> rfl
theorem memBytes_congr {m n : List Host.Cell} {a k : Nat} (h : ∀ i, a ≤ i → i < a + k → memByte m i = memByte n i) : memBytes m a k = memBytes n a k := by
  induction k generalizing a with
  | zero => rfl
  | succ k ih =>
    simp only [memBytes]
    rw [h a (by omega) (by omega), ih (fun i h1 h2 => h i (by omega) (by omega))]

theorem memWrite_append (m : List Host.Cell) (a : Nat) (l r : List Byte) : memWrite m a (l ++ r) = memWrite (memWrite m a l) (a + l.length) r := by
  induction l generalizing m a with
  | nil => rfl
  | cons b l ih => simp only [List.cons_append, memWrite, ih, List.length_cons]; congr 1; omega

theorem State.storeWords_cons (s : State) (a w : Nat) (l : List Nat) : s.storeWords a (w :: l) = (s.store a 8 w).storeWords (a + 8) l := by
  unfold State.storeWords State.storeBytes State.store
  simp only [List.flatMap_cons, memWrite_append, leBytes_length]

theorem State.load_storeWords_below (s : State) (a c k : Nat) (l : List Nat) (h : c + k ≤ a) : (s.storeWords a l).load c k = s.load c k := by
  induction l generalizing s a with
  | nil => rfl
  | cons w l ih => rw [State.storeWords_cons, ih _ _ (by omega), State.load_store_apart _ _ _ _ _ _ (Or.inl h)]

theorem State.loadWords_storeWords (s : State) (a : Nat) (l : List Nat) (h : ∀ w ∈ l, w < 2 ^ 64) : (s.storeWords a l).loadWords a l.length = l := by
  induction l generalizing s a with
  | nil => rfl
  | cons w l ih =>
    rw [State.storeWords_cons]
    unfold State.loadWords
    rw [List.length_cons, List.range_succ_eq_map, List.map_cons, List.map_map]
    congr 1
    · rw [State.load_storeWords_below _ _ _ _ _ (by omega), Nat.mul_zero, Nat.add_zero, State.load_store_self, Nat.mod_eq_of_lt]
      have := h w List.mem_cons_self
      simpa using this
    · have := ih (s.store a 8 w) (a + 8) (fun w hw => h w (List.mem_cons_of_mem _ hw))
      refine Eq.trans ?_ this
      unfold State.loadWords
      apply List.map_congr_left
      intro i _
      simp only [Function.comp_apply]
      congr 1; omega


/-- A reply written to a ring that takes it. -/
theorem State.ringPut_replied (s : State) (x : Reply) (h0 : x.w0 < 2 ^ 64) (h1 : x.w1 < 2 ^ 64) (h2 : x.w2 < 2 ^ 64) (h3 : x.w3 < 2 ^ 64) :
    s.replied (s.ringPut x.ring [x]) x := by
  unfold State.ringPut
  simp only [List.isEmpty_cons, Bool.false_eq_true, if_false, List.foldl_cons, List.foldl_nil]
  have tl : ∀ f : Fld, f.key ≠ (CMD.RING_TAIL.TAIL x.ring).key → ((s.storeWords (s.ringKey x.ring (s.rd (CMD.RING_TAIL.TAIL x.ring))) [x.w0, x.w1, x.w2, x.w3]).wr (CMD.RING_TAIL.TAIL x.ring) (s.rd (CMD.RING_TAIL.TAIL x.ring) + 1)).rd f = s.rd f :=
    fun f hf => State.rd_wr_ne hf
  have ts := State.rd_wr_self (s.storeWords (s.ringKey x.ring (s.rd (CMD.RING_TAIL.TAIL x.ring))) [x.w0, x.w1, x.w2, x.w3]) (CMD.RING_TAIL.TAIL x.ring) (s.rd (CMD.RING_TAIL.TAIL x.ring) + 1)
  have sh := tl (CMD.RING_SHADOW.ADDR x.ring) (by simp only [Fld.key, CMD.RING_SHADOW.ADDR, CMD.RING_TAIL.TAIL]; omega)
  have at' : ((s.storeWords (s.ringKey x.ring (s.rd (CMD.RING_TAIL.TAIL x.ring))) [x.w0, x.w1, x.w2, x.w3]).wr (CMD.RING_TAIL.TAIL x.ring) (s.rd (CMD.RING_TAIL.TAIL x.ring) + 1)).attached (x.ring / 128) = s.attached (x.ring / 128) := by
    unfold State.attached
    rw [tl]
    exact Fld.key_ne_of_blk (by show (0 : Nat) ≠ 1; decide)
  have lw := State.loadWords_storeWords s (s.ringKey x.ring (s.rd (CMD.RING_TAIL.TAIL x.ring))) [x.w0, x.w1, x.w2, x.w3] (by intro w hw; simp only [List.mem_cons, List.not_mem_nil, or_false] at hw; rcases hw with e | e | e | e <;> rw [e] <;> assumption)
  simp only [sh]
  refine ⟨?_, ?_, ?_⟩
  · rw [State.raiseIf_rd]
    split
    · exact ts
    · rw [State.hostStore_rd]; exact ts
  · intro z
    simp only [z, Nat.zero_mul, if_true]
    unfold State.loadWords State.load at lw ⊢
    rw [State.raiseIf_mem]
    exact lw
  · intro z ha
    have : s.rd (CMD.RING_SHADOW.ADDR x.ring) * 8 ≠ 0 := by omega
    simp only [this, if_false]
    rw [State.raiseIf_rd, State.hostStore_rd, ts]
    unfold State.load
    rw [State.raiseIf_mem]
    unfold State.hostStore
    rw [at', ha]
    simp only [if_true]
    rw [show ∀ a b c d, leNat (memBytes (State.store a b c d).mem b 8) = (State.store a b c d).load b 8 from fun _ _ _ _ => rfl]
    rw [State.load_store_self]
    have : (s.rd (CMD.RING_TAIL.TAIL x.ring) + 1) % 2 ^ (CMD.RING_TAIL.TAIL x.ring).w < 2 ^ 32 := Nat.mod_lt _ (Nat.two_pow_pos 32)
    exact Nat.mod_eq_of_lt (by omega)

theorem State.reply_replied (s : State) (x : Reply) (h : s.ringTakes x.ring) (h0 : x.w0 < 2 ^ 64) (h1 : x.w1 < 2 ^ 64) (h2 : x.w2 < 2 ^ 64) (h3 : x.w3 < 2 ^ 64) :
    s.replied (s.reply x) x := by
  obtain ⟨_, he, hf, hh, hl⟩ := h
  have a : s.is (CMD.RING_CTL.ENABLE x.ring) = true := by simp [State.is, he]
  have b : s.hold.all (fun h => h.ring != x.ring) = true := by rw [List.all_eq_true]; intro y hy; simpa using hh y hy
  have c : s.late.all (fun h => h.ring != x.ring) = true := by rw [List.all_eq_true]; intro y hy; simpa using hl y hy
  unfold State.reply
  simp only [a, hf, b, c, Bool.not_true, Bool.false_eq_true, if_false, Bool.not_false, Bool.and_true, if_true]
  exact State.ringPut_replied s x h0 h1 h2 h3

theorem mkReply_small (ring st op ctx seq det o0 o1 o2 : Nat) : (mkReply ring st op ctx seq det o0 o1 o2).w0 < 2 ^ 64 ∧
  (mkReply ring st op ctx seq det o0 o1 o2).w1 < 2 ^ 64 ∧ (mkReply ring st op ctx seq det o0 o1 o2).w2 < 2 ^ 64 ∧ (mkReply ring st op ctx seq det o0 o1 o2).w3 < 2 ^ 64 := by
  simp only [mkReply]
  omega

/-- States alike for a ring and memory give the same word on a reply. -/
theorem State.replied.of {s s' t : State} {x : Reply} (h : s'.replied t x) (hr : ∀ f : Fld, (f = CMD.RING_TAIL.TAIL x.ring ∨ f = CMD.RING_SHADOW.ADDR x.ring ∨
   f = CMD.RING_CTL.LOG2_SIZE x.ring ∨ f = CMD.RING_CTL.DEVICE x.ring ∨ f = CMD.RING_BASE.BASE x.ring ∨ f = HIF.PORT_STATUS.HOST_STATE (x.ring / 128)) → s'.rd f = s.rd f) : s.replied t x := by
  have e1 := hr _ (Or.inl rfl)
  have e2 := hr _ (Or.inr (Or.inl rfl))
  have e3 := hr _ (Or.inr (Or.inr (Or.inl rfl)))
  have e4 := hr _ (Or.inr (Or.inr (Or.inr (Or.inl rfl))))
  have e5 := hr _ (Or.inr (Or.inr (Or.inr (Or.inr (Or.inl rfl)))))
  have e6 := hr _ (Or.inr (Or.inr (Or.inr (Or.inr (Or.inr rfl)))))
  have k : ∀ i, s'.ringKey x.ring i = s.ringKey x.ring i := by
    intro i; simp only [State.ringKey, State.ringSize, State.is, e3, e4, e5]; rfl
  unfold State.replied State.attached at *
  rw [e1, e2, e6, k] at h
  exact h

theorem State.ringTakes.of {s s' : State} {r : Nat} (h : s.ringTakes r) (hr : ∀ f : Fld, (f = CMD.RING_TAIL.TAIL r ∨ f = CMD.RING_HEAD.HEAD r ∨
   f = CMD.RING_CTL.LOG2_SIZE r ∨ f = CMD.RING_CTL.ENABLE r) → s'.rd f = s.rd f) (h1 : s'.hold = s.hold) (h2 : s'.late = s.late) : s'.ringTakes r := by
  have e1 := hr _ (Or.inl rfl)
  have e2 := hr _ (Or.inr (Or.inl rfl))
  have e3 := hr _ (Or.inr (Or.inr (Or.inl rfl)))
  have e4 := hr _ (Or.inr (Or.inr (Or.inr rfl)))
  unfold State.ringTakes State.ringFull State.ringSize at *
  rw [e1, e2, e3, e4, h1, h2]; exact h
theorem State.rd_chanRegs_ne {s : State} {c : Nat} {g : Fld} (h : g.key ≠ (CMD.CHAN_STATUS.HELD c).key) (h2 : g.key ≠ (CMD.CHAN_STATUS.QUEUED c).key)
  (h3 : g.key ≠ (CMD.CHAN_STATUS.DONE_COUNT c).key) (h4 : g.key ≠ (CMD.CHAN_STATUS.HOLDING c).key) : (s.chanRegs c).rd g = s.rd g := by
  unfold State.chanRegs
  apply State.rd_wrs_ne
  intro p hp
  simp only [List.mem_cons, List.not_mem_nil, or_false] at hp
  rcases hp with e | e | e | e <;> rw [e] <;> assumption

theorem State.rd_reply_ne {s : State} {x : Reply} {g : Fld} (h : g.key ≠ CMD.STRAY.DROPPED.key) (h1 : g.key ≠ CMD.STRAY.HELD.key) (h2 : g.key ≠ (CMD.RING_TAIL.TAIL x.ring).key) :
   (s.reply x).rd g = s.rd g := by
  unfold State.reply
  split
  · exact State.rd_bump_ne h
  · split
    · unfold State.ringPut
      simp only [List.isEmpty_cons, Bool.false_eq_true, if_false, List.foldl_cons, List.foldl_nil]
      rw [State.raiseIf_rd]
      have e : ∀ (b : Prop) [Decidable b] (u : State) a n v, (if b then u else u.hostStore (x.ring / 128) a n v).rd g = u.rd g := by
        intro b _ u a n v; split
        · rfl
        · exact State.hostStore_rd ..
      exact (e _ _ _ _ _).trans (State.rd_wr_ne h2)
    · split
      · unfold State.holdCount; exact State.rd_wr_ne h1
      · rfl

theorem State.reply_chan (s : State) (x : Reply) (c : Nat) : (s.reply x).chan c = s.chan c := by
  have f := State.reply_fr (fw := 24728) (fb := 2) s x (Frame.refl s) (Sub.refl _) (Sub.refl _)
  unfold State.chan; rw [f.chans rfl]

theorem Chan.slotBytes_zeroSlot (x : Chan) (i : Nat) : (x.zeroSlot i).slotBytes i = List.replicate 64 0 := by
  unfold Chan.slotBytes Chan.zeroSlot
  rw [List.eq_replicate_iff]
  refine ⟨by simp, ?_⟩
  intro b hb
  simp only [List.mem_map, List.mem_range] at hb
  obtain ⟨j, hj, e⟩ := hb
  rw [← e]
  have : aFind (x.slots.filter (fun p => p.1 / 64 != i)) (64 * i + j) = none := by
    induction x.slots with
    | nil => rfl
    | cons a r ih =>
      by_cases q : a.1 / 64 = i
      · simp [q, ih]
      · simp [q, aFind]
        rw [if_neg (by omega), ih]
  rw [this]; rfl
theorem State.slotAfter_eq {s : State} {c slot off : Nat} {data : List Nat} (h8 : ∀ b ∈ data, b < 256) :
  ({ s.chan c with slots := slotWrite (s.chan c).slots off data } : Chan).slotBytes slot = s.slotAfter c slot off data := by
  unfold Chan.slotBytes State.slotAfter
  apply List.map_congr_left
  intro i _
  exact aFind_slotWrite _ _ _ _ h8



theorem State.sameParts.chanRegs {s t : State} {ps : List Part} (h : s.sameParts t ps) (c : Nat) : s.sameParts (t.chanRegs c) ps := h.wrs _

end Sys2Proof.Machine
end

