-- ==== Sys2Proof/Laws/Words.lean ====
section
/-! SUPPORT. What the control commands rest on: checks that pass, a word written at a context's address, the condition of a WAIT. -/

namespace Sys2Proof.Machine

open Sys2Proof

theorem State.open.imp_store {s : State} {k : Nat} (h : s.open k) (a n v : Nat) : (s.store a n v).open k := h

theorem State.fenced_false {s : State} {c : Cmd} (h2 : c.src < 2) (h : ∀ d ∈ s.cmds, d.id < c.id → d.src = c.src → d.chan ≠ c.chan ∧ bit (c.p 0) 0 = false) : s.fenced c = false := by
  unfold State.fenced
  rw [List.any_eq_false]
  intro d hd
  by_cases a : d.id < c.id <;> by_cases b : d.src = c.src <;> simp [a, b]
  have := h d hd a b
  intro _
  exact ⟨⟨this.1, by omega⟩, this.2⟩

theorem firstBad_none_of {l : List (Bool × Nat × Nat)} (h : firstBad l = none) : ∀ p ∈ l, p.1 = false := by
  induction l with
  | nil => simp
  | cons a r ih =>
    obtain ⟨b, x⟩ := a
    simp only [firstBad] at h
    cases b
    · simp at h; intro p hp; rcases List.mem_cons.mp hp with e | e
      · rw [e]
      · exact ih h p e
    · simp at h

theorem chunks_word {va : Nat} (h : va % 8 = 0) : chunksOf va 8 = [(va, 8)] := by
  have : min 8 (4096 - va % 4096) = 8 := by omega
  simp [chunksOf, chunks, this]

theorem toBytes_leVals (n x : Nat) : toBytes (leVals n x) = leBytes n x := by
  unfold toBytes leVals nats
  rw [List.map_map]
  conv => rhs; rw [← List.map_id (leBytes n x)]
  apply List.map_congr_left
  intro b _
  simp

theorem leVals_length (n x : Nat) : (leVals n x).length = n := by simp [leVals, nats, leBytes_length]

/-- A translation noted in a unit's buffer changes no access. -/
theorem State.translated_access (s : State) (e c va x y : Nat) (w a : Bool) : (s.translated e c va).access x y w a = s.access x y w a := by
  unfold State.translated
  split
  · rfl
  · dsimp only
    split
    · rfl
    · split <;> rfl

/-- A word put at an aligned address of a page homed here: its translation is noted, and the word stored. -/
theorem put_word {s : State} {o : Origin} {c va key leaf v : Nat} (h : va % 8 = 0) (ha : s.access c va true false = .ok (.here key) leaf) :
    s.put o c va (leVals 8 v) = .ok ((s.translated o.engine c va).store key 8 v) := by
  unfold State.put
  rw [leVals_length, chunks_word h]
  simp only [List.foldl_cons, List.foldl_nil, checkChunk, ha]
  simp only [writeChunk, State.translated_access, ha, Nat.sub_self, List.drop_zero]
  rw [List.take_of_length_le (by rw [leVals_length])]
  rw [toBytes_leVals]; rfl

theorem condMet_iff {c : Cmd} {w : Nat} (h3 : bits (c.p 0) 0 2 < 3) : condMet (bits (c.p 0) 0 2) w (c.p 2) = true ↔ waitMeets c w := by
  unfold condMet waitMeets
  have : bits (c.p 0) 0 2 = 0 ∨ bits (c.p 0) 0 2 = 1 ∨ bits (c.p 0) 0 2 = 2 := by omega
  rcases this with e | e | e <;> simp [e]

theorem waiting_run {s : State} {k : Nat} {c : Cmd} (h : s.waiting k = some c) : c ∈ s.cmds ∧ c.id = k ∧ c.started = true ∧ c.status = none := by
  unfold State.waiting at h
  split at h
  · split at h
    · cases h
      rename_i x _
      have h1 := List.find?_some x
      have h2 := List.mem_of_find?_eq_some x
      simp at h1
      exact ⟨h2, h1.1.1, h1.1.2, h1.2⟩
    · cases h
  · cases h

/-- A 64-byte line of eight words put at an aligned address of a page homed here. -/
theorem put_line {s : State} {o : Origin} {c va key leaf : Nat} {l : List Nat} (h : va % 64 = 0) (hl : l.length = 8) (ha : s.access c va true false = .ok (.here key) leaf) :
    s.put o c va (l.flatMap (leVals 8)) = .ok ((s.translated o.engine c va).storeWords key l) := by
  have len : (l.flatMap (leVals 8)).length = 64 := by
    rw [List.length_flatMap]
    have : ∀ l : List Nat, (l.map (fun w => (leVals 8 w).length)).sum = 8 * l.length := by
      intro l; induction l with
      | nil => rfl
      | cons a r ih => simp [leVals_length]; omega
    rw [this, hl]
  have hc : chunksOf va 64 = [(va, 64)] := by
    have : min 64 (4096 - va % 4096) = 64 := by omega
    simp [chunksOf, chunks, this]
  unfold State.put
  rw [len, hc]
  simp only [List.foldl_cons, List.foldl_nil, checkChunk, ha]
  simp only [writeChunk, State.translated_access, ha, Nat.sub_self, List.drop_zero]
  rw [List.take_of_length_le (by rw [len])]
  have : toBytes (l.flatMap (leVals 8)) = l.flatMap (leBytes 8) := by
    have g : ∀ l : List Nat, toBytes (l.flatMap (leVals 8)) = l.flatMap (leBytes 8) := by
      intro l
      induction l with
      | nil => rfl
      | cons a r ih =>
        rw [List.flatMap_cons, List.flatMap_cons, ← ih, ← toBytes_leVals]
        simp [toBytes]
    exact g l
  rw [this]; rfl

/-- A command whose remote writes are all answered ends at once. -/
theorem State.doneAfter_now {s u : State} {c : Cmd} (hr : s.hasReqs c.origin.who = false) (hf : u.fabric = s.fabric) (o0 o1 o2 : Nat) :
    u.doneAfter c o0 o1 o2 = (u.dropGot c.origin.who).doneWith c.id o0 o1 o2 := by
  unfold State.doneAfter
  rw [if_neg]
  unfold State.hasReqs State.dropGot at *
  simp only [hf]; rw [hr]; decide

theorem State.loadWords_of_mem {s t : State} (e : t.mem = s.mem) (a n : Nat) : t.loadWords a n = s.loadWords a n := by
  unfold State.loadWords State.load; rw [e]

theorem State.load_of_mem {s t : State} (e : t.mem = s.mem) (a n : Nat) : t.load a n = s.load a n := by
  unfold State.load; rw [e]

end Sys2Proof.Machine
end

