-- ==== Sys2Proof/WellFormed.lean ====
section
/-! DEFINITION. Well-formed commands: every index within the count the spec gives its kind of unit (Table 0-1, the register
maps), every operand a number the interface could carry. A meaning treats an index out of range as naming nothing. -/

namespace Sys2Proof

/-- Whether the operands of a command lie within the ranges of the units they name. -/
def Instr.wf (i : Instr) : Bool :=
  match i with
  | .standbyInputStart straps copies => decide (straps < 4096) && decide (copies < 3)
  | .standbyInputStop => true
  | .mainInputStop => true
  | .mainRailStart => true
  | .mainPowerGood => true
  | .railFailure => true
  | .rootReady => true
  | .ameloReady => true
  | .clockFailure kind dom _ _ => decide (kind < 3) && decide (dom < 100)
  | .clockAutoReturn => true
  | .managementTick overrun fail _ _ _ _ => decide (overrun < 2) && decide (fail < 2)
  | .biasLoopUpdate ctx slot layer => decide (ctx < 1024) && decide (slot < 8) && decide (layer < 1024)
  | .thermalCutClear => true
  | .sensorFail sensor => decide (sensor < 72)
  | .thermalTrip sensor reading => decide (sensor < 72) && decide (reading < 65536)
  | .phaseFault rail phase => decide (rail < 8) && decide (phase < 24)
  | .phaseStockDraw rail _ => decide (rail < 8)
  | .paceAdjust die avg => decide (die < 8) && decide (avg < 65536)
  | .epoNAssert level => decide (level < 2)
  | .pwarnNAssert => true
  | .pwarnNRelease => true
  | .pwarnCapRestore => true
  | .coolAlmNAssert => true
  | .coolAlmNRelease => true
  | .traySeatNChange level => decide (level < 2)
  | .drainReqNAssert => true
  | .drainReqNRelease => true
  | .drainStuck => true
  | .chatterSet input => decide (input < 8)
  | .chatterClear src value => decide (src < 3) && decide (value < 2 ^ 512)
  | .perstNAssert h => decide (h < 2)
  | .perstNDeassert h => decide (h < 2)
  | .sbResetNAssert => true
  | .sbResetNDeassert => true
  | .watchdogExpiry => true
  | .rmSilence => true
  | .hostLinkUp h _ _ _ => decide (h < 2)
  | .hostLinkDown h => decide (h < 2)
  | .hostLost h cause => decide (h < 2) && decide (cause < 16)
  | .lossActionsComplete h => decide (h < 2)
  | .configRequest h fn _ write value => decide (h < 2) && decide (fn < 8) && decide (write < 2) && decide (value < 2 ^ 512)
  | .hostReadTimeout desc => decide (desc < 2 ^ 64)
  | .hostAttach h value => decide (h < 2) && decide (value < 2 ^ 512)
  | .hostDetach h value => decide (h < 2) && decide (value < 2 ^ 512)
  | .orphanDataRead src h => decide (src < 3) && decide (h < 2)
  | .msixTableWrite h off value size => decide (h < 2) && decide (off < 2 ^ 64) && decide (value < 2 ^ 512) && decide (size < 65)
  | .registerWrite src off value size => decide (src < 3) && decide (off < 2 ^ 64) && decide (value < 2 ^ 512) && decide (size < 65)
  | .rcRead src off size => decide (src < 3) && decide (off < 2 ^ 64) && decide (size < 65)
  | .pwrCapWrite src value => decide (src < 3) && decide (value < 2 ^ 512)
  | .windowWrite src off data => decide (src < 3) && decide (off < 2 ^ 64) && data.all (fun b => decide (b < 256))
  | .commandCommit src off data => decide (src < 3) && decide (off < 2 ^ 64) && data.all (fun b => decide (b < 256))
  | .commandQueue chan => decide (chan < 128)
  | .gapTimerExpiry chan => decide (chan < 128)
  | .creditWordWrite chan => decide (chan < 128)
  | .commandAccept chan => decide (chan < 128)
  | .commandComplete k => decide (k < 2 ^ 64)
  | .replyHoldDrain ring => decide (ring < 256)
  | .channelEnable src chan value => decide (src < 3) && decide (chan < 128) && decide (value < 2 ^ 512)
  | .channelDisable src chan value => decide (src < 3) && decide (chan < 128) && decide (value < 2 ^ 512)
  | .channelReset src chan value => decide (src < 3) && decide (chan < 128) && decide (value < 2 ^ 512)
  | .ringEnable src ring value => decide (src < 3) && decide (ring < 256) && decide (value < 2 ^ 512)
  | .ringDisable src ring value => decide (src < 3) && decide (ring < 256) && decide (value < 2 ^ 512)
  | .nop k => decide (k < 2 ^ 64)
  | .fence k => decide (k < 2 ^ 64)
  | .signal k => decide (k < 2 ^ 64)
  | .wait k => decide (k < 2 ^ 64)
  | .waitPoll k => decide (k < 2 ^ 64)
  | .waitTimeout k => decide (k < 2 ^ 64)
  | .timestamp k => decide (k < 2 ^ 64)
  | .ctxCreate k => decide (k < 2 ^ 64)
  | .ctxDestroy k => decide (k < 2 ^ 64)
  | .map k => decide (k < 2 ^ 64)
  | .unmap k => decide (k < 2 ^ 64)
  | .migrate k => decide (k < 2 ^ 64)
  | .setHome k => decide (k < 2 ^ 64)
  | .ctxAdopt k => decide (k < 2 ^ 64)
  | .pinWindow k => decide (k < 2 ^ 64)
  | .unpin k => decide (k < 2 ^ 64)
  | .invalidate k => decide (k < 2 ^ 64)
  | .copy k => decide (k < 2 ^ 64)
  | .fill k => decide (k < 2 ^ 64)
  | .gather k => decide (k < 2 ^ 64)
  | .scatter k => decide (k < 2 ^ 64)
  | .reduce k => decide (k < 2 ^ 64)
  | .alltoall k => decide (k < 2 ^ 64)
  | .descriptorIssue mover queue => decide (mover < 48) && decide (queue < 3)
  | .moverRequestIssue mover _ _ => decide (mover < 48)
  | .descriptorComplete desc => decide (desc < 2 ^ 64)
  | .faultRecordDeliver _ => true
  | .faultResolve src value => decide (src < 3) && decide (value < 2 ^ 512)
  | .faultTimeout _ => true
  | .pageMoveStart _ => true
  | .pageMoveCopyDone _ => true
  | .moveBroadcastComplete _ => true
  | .moveNoteReceive _ => true
  | .forwardReceive _ => true
  | .bankRetire die bank => decide (die < 8) && decide (bank < 288)
  | .launchLayer k => decide (k < 2 ^ 64)
  | .launchKernel k => decide (k < 2 ^ 64)
  | .launchLoop k => decide (k < 2 ^ 64)
  | .loopHead _ die => decide (die < 8)
  | .loadProgram k => decide (k < 2 ^ 64)
  | .unloadProgram k => decide (k < 2 ^ 64)
  | .launchReady _ => true
  | .dieHolderChange die => decide (die < 8)
  | .sliceExpiry die => decide (die < 8)
  | .programRecordStart die => decide (die.no < 8)
  | .tileStart die core => decide (die < 8) && decide (core.no < 34)
  | .tileVerdict _ _ port => decide (port < 12)
  | .armingExpiry die core array => decide (die < 8) && decide (core < 34) && decide (array < 4)
  | .mtxInject value => decide (value < 2 ^ 512)
  | .stockCoreDraw die => decide (die < 8)
  | .coreSelftestDone die core pass => decide (die < 8) && decide (core < 34) && decide (pass < 2)
  | .launchComplete _ => true
  | .setNumerics k => decide (k < 2 ^ 64)
  | .dealAhead die _ _ => decide (die < 8)
  | .dealExpert die _ _ => decide (die < 8)
  | .dispatch _ => true
  | .areaDecided ctx slot layer expert parity => decide (ctx < 1024) && decide (slot < 8) && decide (layer < 1024) && decide (expert < 1024) && decide (parity < 2)
  | .expertLaunch ctx slot layer expert parity => decide (ctx < 1024) && decide (slot < 8) && decide (layer < 1024) && decide (expert < 1024) && decide (parity < 2)
  | .combineComplete _ => true
  | .areaReset ctx slot layer expert parity => decide (ctx < 1024) && decide (slot < 8) && decide (layer < 1024) && decide (expert < 1024) && decide (parity < 2)
  | .routerConfig k => decide (k < 2 ^ 64)
  | .setShape k => decide (k < 2 ^ 64)
  | .routerRemove k => decide (k < 2 ^ 64)
  | .biasLoopConfig k => decide (k < 2 ^ 64)
  | .routerStats k => decide (k < 2 ^ 64)
  | .stepAssembly ctx => decide (ctx < 1024)
  | .stepComplete ctx => decide (ctx < 1024)
  | .evictionComplete hand => decide (hand < 64)
  | .returnStart hand => decide (hand < 64)
  | .returnComplete hand => decide (hand < 64)
  | .handOpen k => decide (k < 2 ^ 64)
  | .handClose k => decide (k < 2 ^ 64)
  | .step k => decide (k < 2 ^ 64)
  | .prefillChunk k => decide (k < 2 ^ 64)
  | .park k => decide (k < 2 ^ 64)
  | .parkRenew k => decide (k < 2 ^ 64)
  | .parkComplete hand => decide (hand < 64)
  | .unpark k => decide (k < 2 ^ 64)
  | .unparkComplete hand => decide (hand < 64)
  | .kittyExpiry entry => decide (entry < 4096)
  | .specConfig k => decide (k < 2 ^ 64)
  | .prefixLookup k => decide (k < 2 ^ 64)
  | .prefixInsert k => decide (k < 2 ^ 64)
  | .prefixRemove k => decide (k < 2 ^ 64)
  | .variantBind k => decide (k < 2 ^ 64)
  | .variantRegister k => decide (k < 2 ^ 64)
  | .variantRemove k => decide (k < 2 ^ 64)
  | .classSet k => decide (k < 2 ^ 64)
  | .preempt k => decide (k < 2 ^ 64)
  | .resume k => decide (k < 2 ^ 64)
  | .accountRead k => decide (k < 2 ^ 64)
  | .flitReceive link bytes => decide (link < 96) && bytes.all (fun b => decide (b < 256))
  | .linkReplayFailure link => decide (link < 96)
  | .laneFailure link lane => decide (link < 96) && decide (lane < 3)
  | .laneSwap link => decide (link < 96)
  | .laneRetrained link lane => decide (link < 96) && decide (lane < 3)
  | .linkTrained link _ => decide (link < 96)
  | .linkTrainingTimeout link => decide (link < 96)
  | .linkRetrain link => decide (link < 96)
  | .packetForward _ => true
  | .packetLifetimeExpiry _ => true
  | .fabricRequestServe _ _ _ => true
  | .fabricAnswerReceive _ => true
  | .fabricRetry _ => true
  | .timeSend => true
  | .timeReceive _ => true
  | .helloReceive _ => true
  | .neighbourSilent port => decide (port < 12)
  | .abortReceive _ => true
  | .linkAdminDown k => decide (k < 2 ^ 64)
  | .linkAdminUp k => decide (k < 2 ^ 64)
  | .toStock k => decide (k < 2 ^ 64)
  | .fromStock k => decide (k < 2 ^ 64)
  | .topoQuery k => decide (k < 2 ^ 64)
  | .partitionForm k => decide (k < 2 ^ 64)
  | .partitionReshape k => decide (k < 2 ^ 64)
  | .jobAbort k => decide (k < 2 ^ 64)
  | .jobRestart k => decide (k < 2 ^ 64)
  | .stockDraw k _ => decide (k < 2 ^ 64)
  | .stockReturn k _ => decide (k < 2 ^ 64)
  | .stockSelftest cls group unit pass => decide (cls < 5) && decide (group < 8) && decide (unit < 288) && decide (pass < 2)
  | .shardIntake k => decide (k < 2 ^ 64)
  | .intakeWrite h off data => decide (h < 2) && decide (off < 2 ^ 64) && data.all (fun b => decide (b < 256))
  | .digestComplete slot shard => decide (slot < 8) && decide (shard < 65536)
  | .donorCopyComplete slot shard detail data => decide (slot < 8) && decide (shard < 65536) && decide (detail < 65536) && data.all (fun b => decide (b < 256))
  | .shardTimerExpiry slot shard => decide (slot < 8) && decide (shard < 65536)
  | .recheckShard => true
  | .shardVerify k => decide (k < 2 ^ 64)
  | .repairSwap slot => decide (slot < 8)
  | .repairWaitTimeout _ => true
  | .modelStage k => decide (k < 2 ^ 64)
  | .modelSwitch k => decide (k < 2 ^ 64)
  | .modelSwitchCancel k => decide (k < 2 ^ 64)
  | .modelRetire k => decide (k < 2 ^ 64)
  | .capSet k => decide (k < 2 ^ 64)
  | .energyRead k => decide (k < 2 ^ 64)
  | .phaseHint k => decide (k < 2 ^ 64)
  | .scoreRead k => decide (k < 2 ^ 64)
  | .scoreClear k => decide (k < 2 ^ 64)
  | .readDataRead src => decide (src < 3)
  | .scorebookFlush => true
  | .clockSelect k => decide (k < 2 ^ 64)
  | .gateSet k => decide (k < 2 ^ 64)
  | .attest k fail => decide (k < 2 ^ 64) && decide (fail < 2)
  | .fwStage k => decide (k < 2 ^ 64)
  | .fwStageFinal k => decide (k < 2 ^ 64)
  | .fwStageAbort k => decide (k < 2 ^ 64)
  | .fwActivate k fail => decide (k < 2 ^ 64) && decide (fail < 2)
  | .svnCommit typ => decide (typ < 256)
  | .authChallenge k => decide (k < 2 ^ 64)
  | .ownerEnrol k fail => decide (k < 2 ^ 64) && decide (fail < 2)
  | .i3cAddressAssign addr => decide (addr < 128)
  | .setEndpointId eid => decide (eid < 256)
  | .getEndpointId => true
  | .getMctpVersionSupport => true
  | .getMessageTypeSupport => true
  | .mctpMessageDrop => true
  | .sbCommand tag bytes => decide (tag < 8) && bytes.all (fun b => decide (b < 256))
  | .sbHandover => true
  | .sbReply => true
  | .windowRead off _ => decide (off < 2 ^ 64)
  | .gettid => true
  | .getpldmversion typ => decide (typ < 256)
  | .getpldmtypes => true
  | .getpldmcommands typ => decide (typ < 256)
  | .getpdr index => decide (index < 65536)
  | .getpdrrepositoryinfo => true
  | .getsensorreading sensor => decide (sensor < 72)
  | .getstatesensorreadings sensor => decide (sensor < 72)
  | .seteventreceiver eid => decide (eid < 256)
  | .setnumericsensorenable sensor value => decide (sensor < 72) && decide (value < 2 ^ 512)
  | .trainingSeenFromPartner link => decide (link < 96)
  | .sidebandWindowWrite off values => decide (off < 2 ^ 64) && values.all (fun v => decide (v < 2 ^ 64))
  | .reportDataRead src h => decide (src < 3) && decide (h < 2)
  | .nonceExpiry src => decide (src < 3)
  | .bimonRestartComplete => true

end Sys2Proof
end

