-- ==== Sys2Proof/Tests/Slice0.lean ====
section
/-! SUPPORT. Tests: commands that `Instr.wf` refuses, one for each of its checks; and, for each statement of
Certificates/Slice0/Obligations.lean that has hypotheses, a theorem with concrete states and operands that meet the hypotheses of its clauses
together, at the ends of their ranges where a range has ends. -/

namespace Sys2Proof.Tests

open Sys2Proof Sys2Proof.Machine

set_option Elab.async false
set_option maxRecDepth 100000

/-! Well-formedness and the words of the table. -/

/-- Each of these breaks one range that `Instr.wf` checks. -/
theorem test_wf_refuses_1 : ∀ i ∈ ([
    .standbyInputStart 4096 0, .standbyInputStart 0 3, .clockFailure 3 0 0 0, .clockFailure 0 100 0 0,
    .managementTick 2 0 [] [] [] [], .managementTick 0 2 [] [] [] [], .biasLoopUpdate 1024 0 0, .biasLoopUpdate 0 8 0,
    .biasLoopUpdate 0 0 1024, .sensorFail 72, .thermalTrip 72 0, .thermalTrip 0 65536, .phaseFault 8 0, .phaseFault 0 24,
    .phaseStockDraw 8 [], .paceAdjust 8 0, .paceAdjust 0 65536, .epoNAssert 2, .traySeatNChange 2, .chatterSet 8,
    .chatterClear 3 0, .chatterClear 0 (2 ^ 512), .perstNAssert 2, .perstNDeassert 2, .hostLinkUp 2 0 0 0, .hostLinkDown 2,
    .hostLost 2 0, .hostLost 0 16, .lossActionsComplete 2, .configRequest 2 0 0 0 0, .configRequest 0 8 0 0 0,
    .configRequest 0 0 0 2 0, .configRequest 0 0 0 0 (2 ^ 512), .hostReadTimeout (2 ^ 64), .hostAttach 2 0,
    .hostAttach 0 (2 ^ 512), .hostDetach 2 0, .hostDetach 0 (2 ^ 512), .orphanDataRead 3 0, .orphanDataRead 0 2,
    .msixTableWrite 2 0 0 0, .msixTableWrite 0 (2 ^ 64) 0 0, .msixTableWrite 0 0 (2 ^ 512) 0, .msixTableWrite 0 0 0 65,
    .registerWrite 3 0 0 0, .registerWrite 0 (2 ^ 64) 0 0, .registerWrite 0 0 (2 ^ 512) 0, .registerWrite 0 0 0 65, .rcRead 3 0 0,
    .rcRead 0 (2 ^ 64) 0, .rcRead 0 0 65, .pwrCapWrite 3 0, .pwrCapWrite 0 (2 ^ 512), .windowWrite 3 0 [],
    .windowWrite 0 (2 ^ 64) [], .windowWrite 0 0 [0, 256], .commandCommit 3 0 [], .commandCommit 0 (2 ^ 64) [],
    .commandCommit 0 0 [0, 256], .commandQueue 128] : List Instr), i.wf = false := by decide +kernel

/-- Each of these breaks one range that `Instr.wf` checks. -/
theorem test_wf_refuses_2 : ∀ i ∈ ([
    .gapTimerExpiry 128, .creditWordWrite 128, .commandAccept 128, .commandComplete (2 ^ 64), .replyHoldDrain 256,
    .channelEnable 3 0 0, .channelEnable 0 128 0, .channelEnable 0 0 (2 ^ 512), .channelDisable 3 0 0, .channelDisable 0 128 0,
    .channelDisable 0 0 (2 ^ 512), .channelReset 3 0 0, .channelReset 0 128 0, .channelReset 0 0 (2 ^ 512), .ringEnable 3 0 0,
    .ringEnable 0 256 0, .ringEnable 0 0 (2 ^ 512), .ringDisable 3 0 0, .ringDisable 0 256 0, .ringDisable 0 0 (2 ^ 512),
    .nop (2 ^ 64), .fence (2 ^ 64), .signal (2 ^ 64), .wait (2 ^ 64), .waitPoll (2 ^ 64), .waitTimeout (2 ^ 64),
    .timestamp (2 ^ 64), .ctxCreate (2 ^ 64), .ctxDestroy (2 ^ 64), .map (2 ^ 64), .unmap (2 ^ 64), .migrate (2 ^ 64),
    .setHome (2 ^ 64), .ctxAdopt (2 ^ 64), .pinWindow (2 ^ 64), .unpin (2 ^ 64), .invalidate (2 ^ 64), .copy (2 ^ 64),
    .fill (2 ^ 64), .gather (2 ^ 64), .scatter (2 ^ 64), .reduce (2 ^ 64), .alltoall (2 ^ 64), .descriptorIssue 48 0,
    .descriptorIssue 0 3, .moverRequestIssue 48 [] [], .descriptorComplete (2 ^ 64), .faultResolve 3 0, .faultResolve 0 (2 ^ 512),
    .bankRetire 8 0, .bankRetire 0 288, .launchLayer (2 ^ 64), .launchKernel (2 ^ 64), .launchLoop (2 ^ 64), .loopHead 0 8,
    .loadProgram (2 ^ 64), .unloadProgram (2 ^ 64), .dieHolderChange 8, .sliceExpiry 8, .programRecordStart ⟨8, [], []⟩] : List Instr), i.wf = false := by decide +kernel

/-- Each of these breaks one range that `Instr.wf` checks. -/
theorem test_wf_refuses_3 : ∀ i ∈ ([
    .tileStart 8 ⟨0, [], []⟩, .tileStart 0 ⟨34, [], []⟩, .tileVerdict 0 [] 12, .armingExpiry 8 0 0, .armingExpiry 0 34 0,
    .armingExpiry 0 0 4, .mtxInject (2 ^ 512), .stockCoreDraw 8, .coreSelftestDone 8 0 0, .coreSelftestDone 0 34 0,
    .coreSelftestDone 0 0 2, .setNumerics (2 ^ 64), .dealAhead 8 [] [], .dealExpert 8 [] [], .areaDecided 1024 0 0 0 0,
    .areaDecided 0 8 0 0 0, .areaDecided 0 0 1024 0 0, .areaDecided 0 0 0 1024 0, .areaDecided 0 0 0 0 2,
    .expertLaunch 1024 0 0 0 0, .expertLaunch 0 8 0 0 0, .expertLaunch 0 0 1024 0 0, .expertLaunch 0 0 0 1024 0,
    .expertLaunch 0 0 0 0 2, .areaReset 1024 0 0 0 0, .areaReset 0 8 0 0 0, .areaReset 0 0 1024 0 0, .areaReset 0 0 0 1024 0,
    .areaReset 0 0 0 0 2, .routerConfig (2 ^ 64), .setShape (2 ^ 64), .routerRemove (2 ^ 64), .biasLoopConfig (2 ^ 64),
    .routerStats (2 ^ 64), .stepAssembly 1024, .stepComplete 1024, .evictionComplete 64, .returnStart 64, .returnComplete 64,
    .handOpen (2 ^ 64), .handClose (2 ^ 64), .step (2 ^ 64), .prefillChunk (2 ^ 64), .park (2 ^ 64), .parkRenew (2 ^ 64),
    .parkComplete 64, .unpark (2 ^ 64), .unparkComplete 64, .kittyExpiry 4096, .specConfig (2 ^ 64), .prefixLookup (2 ^ 64),
    .prefixInsert (2 ^ 64), .prefixRemove (2 ^ 64), .variantBind (2 ^ 64), .variantRegister (2 ^ 64), .variantRemove (2 ^ 64),
    .classSet (2 ^ 64), .preempt (2 ^ 64), .resume (2 ^ 64), .accountRead (2 ^ 64)] : List Instr), i.wf = false := by decide +kernel

/-- Each of these breaks one range that `Instr.wf` checks. -/
theorem test_wf_refuses_4 : ∀ i ∈ ([
    .flitReceive 96 [], .flitReceive 0 [0, 256], .linkReplayFailure 96, .laneFailure 96 0, .laneFailure 0 3, .laneSwap 96,
    .laneRetrained 96 0, .laneRetrained 0 3, .linkTrained 96 0, .linkTrainingTimeout 96, .linkRetrain 96, .neighbourSilent 12,
    .linkAdminDown (2 ^ 64), .linkAdminUp (2 ^ 64), .toStock (2 ^ 64), .fromStock (2 ^ 64), .topoQuery (2 ^ 64),
    .partitionForm (2 ^ 64), .partitionReshape (2 ^ 64), .jobAbort (2 ^ 64), .jobRestart (2 ^ 64), .stockDraw (2 ^ 64) [],
    .stockReturn (2 ^ 64) [], .stockSelftest 5 0 0 0, .stockSelftest 0 8 0 0, .stockSelftest 0 0 288 0, .stockSelftest 0 0 0 2,
    .shardIntake (2 ^ 64), .intakeWrite 2 0 [], .intakeWrite 0 (2 ^ 64) [], .intakeWrite 0 0 [0, 256], .digestComplete 8 0,
    .digestComplete 0 65536, .donorCopyComplete 8 0 0 [], .donorCopyComplete 0 65536 0 [], .donorCopyComplete 0 0 65536 [],
    .donorCopyComplete 0 0 0 [0, 256], .shardTimerExpiry 8 0, .shardTimerExpiry 0 65536, .shardVerify (2 ^ 64), .repairSwap 8,
    .modelStage (2 ^ 64), .modelSwitch (2 ^ 64), .modelSwitchCancel (2 ^ 64), .modelRetire (2 ^ 64), .capSet (2 ^ 64),
    .energyRead (2 ^ 64), .phaseHint (2 ^ 64), .scoreRead (2 ^ 64), .scoreClear (2 ^ 64), .readDataRead 3, .clockSelect (2 ^ 64),
    .gateSet (2 ^ 64), .attest (2 ^ 64) 0, .attest 0 2, .fwStage (2 ^ 64), .fwStageFinal (2 ^ 64), .fwStageAbort (2 ^ 64),
    .fwActivate (2 ^ 64) 0, .fwActivate 0 2] : List Instr), i.wf = false := by decide +kernel

/-- Each of these breaks one range that `Instr.wf` checks. -/
theorem test_wf_refuses_5 : ∀ i ∈ ([
    .svnCommit 256, .authChallenge (2 ^ 64), .ownerEnrol (2 ^ 64) 0, .ownerEnrol 0 2, .i3cAddressAssign 128, .setEndpointId 256,
    .sbCommand 8 [], .sbCommand 0 [0, 256], .windowRead (2 ^ 64) 0, .getpldmversion 256, .getpldmcommands 256, .getpdr 65536,
    .getsensorreading 72, .getstatesensorreadings 72, .seteventreceiver 256, .setnumericsensorenable 72 0,
    .setnumericsensorenable 0 (2 ^ 512), .trainingSeenFromPartner 96, .sidebandWindowWrite (2 ^ 64) [],
    .sidebandWindowWrite 0 [0, 2 ^ 64], .reportDataRead 3 0, .reportDataRead 0 2, .nonceExpiry 3] : List Instr), i.wf = false := by decide +kernel

/-- Within its ranges a command of many operands is well formed. -/
theorem test_wf_takes : ∀ i ∈ ([
    .standbyInputStart 0 0, .clockFailure 0 0 0 0, .managementTick 0 0 [] [] [] [], .biasLoopUpdate 0 0 0, .sensorFail 0,
    .thermalTrip 0 0, .phaseFault 0 0, .phaseStockDraw 0 [], .paceAdjust 0 0, .epoNAssert 0, .traySeatNChange 0, .chatterSet 0,
    .chatterClear 0 0, .perstNAssert 0, .perstNDeassert 0, .hostLinkUp 0 0 0 0, .hostLinkDown 0, .hostLost 0 0,
    .lossActionsComplete 0, .configRequest 0 0 0 0 0, .hostReadTimeout 0, .hostAttach 0 0, .hostDetach 0 0, .orphanDataRead 0 0,
    .msixTableWrite 0 0 0 0, .registerWrite 0 0 0 0, .rcRead 0 0 0, .pwrCapWrite 0 0, .windowWrite 0 0 [], .commandCommit 0 0 [],
    .commandQueue 0, .gapTimerExpiry 0, .creditWordWrite 0, .commandAccept 0, .commandComplete 0, .replyHoldDrain 0,
    .channelEnable 0 0 0, .channelDisable 0 0 0, .channelReset 0 0 0, .ringEnable 0 0 0, .ringDisable 0 0 0, .nop 0, .fence 0,
    .signal 0, .wait 0, .waitPoll 0, .waitTimeout 0, .timestamp 0, .ctxCreate 0, .ctxDestroy 0, .map 0, .unmap 0, .migrate 0,
    .setHome 0, .ctxAdopt 0, .pinWindow 0, .unpin 0, .invalidate 0, .copy 0, .fill 0, .gather 0, .scatter 0, .reduce 0,
    .alltoall 0, .descriptorIssue 0 0, .moverRequestIssue 0 [] [], .descriptorComplete 0, .faultResolve 0 0, .bankRetire 0 0,
    .launchLayer 0, .launchKernel 0, .launchLoop 0, .loopHead 0 0, .loadProgram 0, .unloadProgram 0, .dieHolderChange 0,
    .sliceExpiry 0, .programRecordStart ⟨0, [], []⟩, .tileStart 0 ⟨0, [], []⟩, .tileVerdict 0 [] 0, .armingExpiry 0 0 0, .mtxInject 0,
    .stockCoreDraw 0, .coreSelftestDone 0 0 0, .setNumerics 0, .dealAhead 0 [] [], .dealExpert 0 [] [], .areaDecided 0 0 0 0 0,
    .expertLaunch 0 0 0 0 0, .areaReset 0 0 0 0 0, .routerConfig 0, .setShape 0, .routerRemove 0, .biasLoopConfig 0,
    .routerStats 0, .stepAssembly 0, .stepComplete 0, .evictionComplete 0, .returnStart 0, .returnComplete 0, .handOpen 0,
    .handClose 0, .step 0, .prefillChunk 0, .park 0, .parkRenew 0, .parkComplete 0, .unpark 0, .unparkComplete 0, .kittyExpiry 0,
    .specConfig 0, .prefixLookup 0, .prefixInsert 0, .prefixRemove 0, .variantBind 0, .variantRegister 0, .variantRemove 0,
    .classSet 0, .preempt 0, .resume 0, .accountRead 0, .flitReceive 0 [], .linkReplayFailure 0, .laneFailure 0 0, .laneSwap 0,
    .laneRetrained 0 0, .linkTrained 0 0, .linkTrainingTimeout 0, .linkRetrain 0, .neighbourSilent 0, .linkAdminDown 0,
    .linkAdminUp 0, .toStock 0, .fromStock 0, .topoQuery 0, .partitionForm 0, .partitionReshape 0, .jobAbort 0, .jobRestart 0,
    .stockDraw 0 [], .stockReturn 0 [], .stockSelftest 0 0 0 0, .shardIntake 0, .intakeWrite 0 0 [], .digestComplete 0 0,
    .donorCopyComplete 0 0 0 [], .shardTimerExpiry 0 0, .shardVerify 0, .repairSwap 0, .modelStage 0, .modelSwitch 0,
    .modelSwitchCancel 0, .modelRetire 0, .capSet 0, .energyRead 0, .phaseHint 0, .scoreRead 0, .scoreClear 0, .readDataRead 0,
    .clockSelect 0, .gateSet 0, .attest 0 0, .fwStage 0, .fwStageFinal 0, .fwStageAbort 0, .fwActivate 0 0, .svnCommit 0,
    .authChallenge 0, .ownerEnrol 0 0, .i3cAddressAssign 0, .setEndpointId 0, .sbCommand 0 [], .windowRead 0 0, .getpldmversion 0,
    .getpldmcommands 0, .getpdr 0, .getsensorreading 0, .getstatesensorreadings 0, .seteventreceiver 0,
    .setnumericsensorenable 0 0, .trainingSeenFromPartner 0, .sidebandWindowWrite 0 [], .reportDataRead 0 0, .nonceExpiry 0] : List Instr), i.wf = true := by decide +kernel

/-- No row of the table has bits, so no word of a row's length spells a command. -/
theorem test_no_word : decodeTableWord 0 0 = none ∧ decodeTableWord 512 1 = none := ⟨rfl, rfl⟩

/-! States and operands for the witnesses. -/


/-- A command of opcode `op` as host 0 sent it on channel 0, accepted with number 1 and not yet taken. -/
def cmd (op : Nat) (ps : List Nat) (ctx : Nat := 0xFFFF) (flags : Nat := 0) (ring : Nat := 0) : Cmd :=
  { id := 1, src := 0, chan := 0, words := (op + flags * 2 ^ 8 + ctx * 2 ^ 16 + ring * 2 ^ 48) :: ps }

/-- The same once its unit has taken it. -/
def taken (c : Cmd) : Cmd := { c with started := true }

/-- A state with a command in flight. -/
def having (c : Cmd) (s : State) : State := { s with cmds := s.cmds ++ [c], nextCmd := 2 }

/-- A state with register fields set. -/
def setting (l : List (Fld × Nat)) (s : State) : State := s.wrs l

/-- Context 5 LIVE under host 0, with tables at 0x1000 to 0x4FFF of HBM. -/
def ctx5 : State :=
  let s := setting [(SCHED.CTX_STATE.LIFE 5, 1), (MMU.CTX_ROOT.VALID 5, 1), (MMU.CTX_ROOT.ROOT 5, 1)] State.reset
  ((s.store (devKey 0x1000) 8 0x2001).store (devKey 0x2000) 8 0x3001).store (devKey 0x3000) 8 0x4001

/-- A RESIDENT, writable 2 MiB page of HBM of a chip. -/
def leafAt (chip frame : Nat) : Nat := mkLeaf true false false false false 0 1 frame chip

/-- A leaf entry for the page of context 5 at `i` times 2 MiB. -/
def page (i leaf : Nat) (s : State) : State := s.store (devKey (0x4000 + 8 * i)) 8 leaf

/-- Context 5 with two pages of this module's HBM, at 0x4000_0000 and at 0x4020_0000. -/
def ctxM : State := page 1 (leafAt State.reset.chip 0x4020_0000) (page 0 (leafAt State.reset.chip 0x4000_0000) ctx5)

/-- Host 0 ATTACHED, its link up. -/
def attach (s : State) : State :=
  setting [(HIF.PORT_STATUS.HOST_STATE 0, 2), (HIF.PORT_STATUS.LINK_UP 0, 1), (HIF.PORT_STATUS.BME 0, 1), (HIF.PORT_STATUS.MSE 0, 1)] s

/-- Chip 3 is another member of the partition. -/
def member3 (s : State) : State := { s with topo := { s.topo with members := [⟨1, 3, 0, 0, 0, false⟩] } }

/-- Channel `c` of host 0 enabled, with its contents. -/
def chanOn (c : Nat) (x : Chan) (s : State) : State := setting [(CMD.CHAN_CTL.ENABLE c, 1)] { s with chans := [(c, x)] }

/-- A NOP packet of channel 0 with a SEQ, its CRC right. -/
def packet (seq : Nat) : List Nat :=
  let b := leVals 8 (seq * 2 ^ 32) ++ List.replicate 48 0 ++ leVals 2 seq
  b ++ [0, 0] ++ leVals 4 (crc32c b)

/-- A reply of command 7 for ring `r`. -/
def reply (r : Nat) : Reply := ⟨r, 7, 0, 0, 0⟩

/-- SRAM page of die 0 at 0x40200000 of context 5. -/
def mv (k : Nat) : Move := { id := 4, ctx := 5, va := 0x20_0000, big := true, leaf := leafAt 0 0x4020_0000, tier := 1, chip := 0, frame := 0x6000_0000, phase := k, cause := 2, owner := 0 }

def pinC : Cmd := cmd 0x15 [0x02_0003, 0x8000_0000] 5

def wanted : State := { page 1 (lfWithPromote (leafAt 0 0x4020_0000) true) ctxM with wants := [{ mv 0 with leaf := 2 }] }

def note : Packet := { w0 := header0 0 3 0x30 9 0 0 0 0 0 1 0, w1 := 0, data := leVals 8 3 ++ leVals 8 0x4000_0000 ++ leVals 8 3 ++ leVals 8 0x6000_0000 ++ leVals 8 0x20_0000 ++ List.replicate 24 0, port := 2 }

def fwdP : Packet := { w0 := header0 0 3 0x23 9 0 0 0 0 0 1 0, w1 := 0x4000_0040, data := leVals 8 7 ++ leVals 8 0x6000_0040, port := 2 }

def fq : FabReq := { id := 2, target := 3, unit := 15, op := 1, tag := 9, offset := 0x4000_0040, ctx := 5, va := 0x40, who := ⟨1, 1, 0, 0⟩ }

def fS : State := let s := member3 (page 0 (leafAt 3 0x4000_0000) ctx5); { s with fabric := { s.fabric with inbox := [fwdP], reqs := [fq] } }

def fe : FaultEntry := { id := 7, ctx := 5, kind := 2, write := true, va := 0x1000, time := 100, timeout := 10, engine := 56, seq := 4, chan := 0, noCmd := false, parked := [⟨1, 1, 0, 0⟩], toSend := [0] }

def feS : State := attach (setting [(MMU.FAULT_RING_CTL.ENABLE 0, 1), (MMU.FAULT_RING_CTL.LOG2_SIZE 0, 4), (MMU.FAULT_RING_BASE.BASE 0, 0x1000), (MMU.FAULT_RING_TAIL.TAIL 0, 2 ^ 32 - 1), (MMU.FAULT_RING_HEAD.HEAD 0, 2 ^ 32 - 5)] { having (taken (cmd 0x12 [] 5)) ctxM with faults := [fe], now := 90000000 })

def ds (ws : List Nat) : Desc := { id := 8, mover := 0, queue := 1, ctx := 5, words := ws, issuer := 0, owner := 1 }

def dsS (d : Desc) : State := { having (taken (cmd 0x20 [] 5)) ctxM with descs := [d] }

def fillD : Desc := { ds [1, 0, 0x20_0FC0, 0x80, 0x1122, 0, 0, 0] with issued := true, total := 0x80 }

def copyD : Desc := { ds [0, 0, 0x20_0FC0, 0x80, 0, 0, 0, 0] with issued := true, total := 0x80 }

def endD : Desc := { copyD with next := 0x80, live := [{ no := 0, state := 3 }, { no := 0x40, state := 3 }], bytes := 0x80 }

def sigD : Desc := { endD with words := [0, 0, 0x20_0FC0, 0x80, 0, 0, 0x108, 0xFF00_0000_0000_0001] }

def img (kind : Nat) (recs : List (List Nat × Nat)) : List Nat :=
  ([1 + kind * 2 ^ 16 + 1 * 2 ^ 24 + recs.length * 2 ^ 32, 16, 0, 0, 0, 0, 0, 0] ++ recs.flatMap (fun (r : List Nat × Nat) => (r.1 ++ List.replicate (8 - r.1.length) 0) ++ [r.2, 0, 0, 0, 0, 0, 0, 0])).flatMap (leVals 8)

def endImg (kind : Nat) : List Nat := img kind [([4], 4)]

def prog (kind : Nat) : Program := ⟨1, 5, kind, 1, 16, endImg kind⟩

def win : Window := { die := 0, slotNo := 0, ctx := 5, va := 0x8000_0000, pages := 2 }

def progS (kind : Nat) (s : State) : State := { s with programs := [prog kind], windows := [win] }

def ldC : Cmd := cmd 0x34 [0, 0, 192] 5

def la : Launch := { id := 3, ctx := 5, cls := 1, kind := 1, cmd := some 1, program := 1, maxRows := 7, parts := [{ die := 0 }, { die := 2 }], image := endImg 0, argBytes := 16 }

def laS (l : Launch) : State := having (taken (cmd 0x31 [] 5)) { setting [(SCHED.CTX_STATE.CLASS 5, 1)] ctxM with launches := [l], now := 5000000 }

def rdy : Launch := { la with ready := true, taken := true, parts := [{ die := 0, phase := 1 }, { die := 2, phase := 1 }] }

def rdy0 : Launch := { rdy with cls := 0 }

def hold (p : DiePart) : Launch := { rdy with parts := [p, { die := 2, phase := 3 }] }

def tw : List Nat := [1 * 2 ^ 8 + 1 * 2 ^ 16 + 1 * 2 ^ 32, 0x2000, 0x1000, 0, 0, 0, 0x8000, 0x55]

def trec (r : List Nat × Nat) : Launch := { hold { die := 0, phase := 2, heldSince := 4000 } with image := img 0 [r, ([4], 4)] }

def lopp (it : Nat) : Launch := { hold { die := 0, phase := 2, head := true, iter := it } with kind := 2, tripVa := 0x100, maxTrips := 5 }

def fin : Launch := { hold { die := 0, phase := 3 } with tiles := 4, coreNs := 99, rows := 7 }

def sramS : State := let s := page 0 (mkLeaf true false false false false 0 0 sramBase 0) ctx5; having (taken (cmd 0x31 [] 5)) { s with now := 5000000 }

def tl : Launch := hold { die := 0, phase := 2, tile := tw }

def tiX : Tile := { id := 6, die := 0, core := 3, launch := 3, words := tw, since := 4000, satShift := 0, zeroShift := 0, maxRedeals := 3, onCore := 3 }

def tl2 : Launch := hold { die := 0, phase := 2, busy := 1 }

def tiS : State := { sramS with launches := [tl2], tiles := [tiX] }

def dr : CoreDraw := { die := 1, old := 5, logical := 7, cause := 1 }

def drS (d : CoreDraw) : State := setting [(MTX.CORE_STATUS.STATE 1 5, 2)] { State.reset with draws := [d] }

def stC (op u : Nat) : Cmd := cmd op [4 + 1 * 16 + u * 256]

def hx : Hand := { cacheVa := 0x1_0000_0000, allow := 4, layers := 1, spans := [0], token := 77 }

/-- Hand `n` of context 5 over a state, with caches and areas to be had. -/
def handOn (s : State) (n st : Nat) (x : Hand) : State :=
  { attach (setting [(SERVE.HAND_STATE.STATE n, st), (SERVE.HAND_STATE.CONTEXT n, 5), (SERVE.HAND_STATE.COMMITTED n, 9), (SERVE.HAND_STATE.PENDING n, 1), (SERVE.CACHE_POOL.PAGES, 40), (SERVE.CACHE_POOL.RESERVE, 4), (SERVE.KITTY_SLOTS.SLOTS 0, 8), (SERVE.EVICT_SLOTS.SLOTS 0, 8)] s) with hands := [(n, x)], now := 7_000_000_000 }

/-- Hand `n` of context 5 with its two pages mapped. -/
def handS (n st : Nat) (x : Hand) : State := handOn ctxM n st x

/-- Context 5 with an empty table: nothing is mapped. -/
def ctxE : State := setting [(SCHED.CTX_STATE.LIFE 5, 1), (MMU.CTX_ROOT.VALID 5, 1), (MMU.CTX_ROOT.ROOT 5, 1)] State.reset

/-- Hand `n` of a context that maps nothing. -/
def handE (n st : Nat) (x : Hand) : State := handOn ctxE n st x

def opC : Cmd := cmd 0x40 [6 + 4 * 2 ^ 8 + 9 * 2 ^ 32, 0, 0x1_0000_0000, 0, 0x3F80_0000 * 2 ^ 32, 0xABCD] 5

def opC2 : Cmd := cmd 0x40 [64 + 4 * 2 ^ 8 + 100 * 2 ^ 16, 0, 0x1_0000_0000, 0, 0x3F80_0000 * 2 ^ 32, 0xABCD] 5

def si : StepItem := { hand := 6, cmd := 1, chunk := false, first := 9, count := 1 }

def sp : Step := { ctx := 5, no := 3, slot := 8, cls := 0, since := 0, items := [si] }

def pkC (w : Nat) : Cmd := cmd 0x44 [6 + 30 * 2 ^ 16 + w] 5

def kt (st : Nat) : Kitty := { state := st, gen := 3, ctx := 5, hand := { hx with slots := [(0x1_0000_0000, 2), (0x1_0020_0000, 3)], inKitty := true }, ttl := 10, ends := 6_000_000_000, word := 0x123, spec := 0 }

def ktS (st : Nat) (s : State) : State := { s with kitty := [(4, kt st)] }

def rnC (h : Nat) : Cmd := cmd 0x44 [64 + 30 * 2 ^ 16, h] 5

def rtC : Cmd := cmd 0x50 [2 + 2 * 2 ^ 16 + 1 * 2 ^ 32, 0x1000, 4 + 1 * 2 ^ 16 + 0x3F80_0000 * 2 ^ 32, 0x2000, 0x3000, 3] 5

def rt : Router := { rtC.router 8 with place := [(State.reset.chip, 0, 1, 0x1_0000), (0, 0, 0, 0)] }

def rtB : List Nat := leVals 8 (State.reset.chip + 2 ^ 22) ++ leVals 8 0x1_0000 ++ List.replicate 16 0

def rtS (r : Router) : State := { ctxM with routers := [r] }

def blC : Cmd := cmd 0x51 [1 + 16 * 2 ^ 8, 0x3A83_126F + 0x3F80_0000 * 2 ^ 32, 100, 2 + 2 * 2 ^ 16] 5

def rsC : Cmd := cmd 0x52 [2, 0x4000] 5

def rsB : List Nat := leVals 8 6 ++ List.replicate 60 0 ++ leVals 4 9 ++ leVals 4 7 ++ leVals 4 2 ++ List.replicate 16 0

def rsS : State := having rsC ((rtS rt).storeBytes (devKey 0x4000_3000) rsB)

def rsD : List Nat := leVals 4 9 ++ leVals 4 7 ++ leVals 4 2 ++ List.replicate 20 0

def rl : Launch := { id := 3, ctx := 5, cls := 1, kind := 0, layer := 2, slot := some 8, rows := 2, routePhase := 1, parts := [{ die := 0, phase := 2 }], assigns := [[0, 0, 0, 0x3F80_0000]], entries := [[0, 3, 0, 1]] }

def rlS (l : Launch) : State := { rtS rt with launches := [l] }

def hd (l : List Nat) (s : State) : State := s.storeWords (devKey 0x4001_0000) l

def ar (st : Nat) : Area := { ctx := 5, slot := 8, layer := 2, expert := 0, parity := 0, state := st }

def arS (a : Area) (w : List Nat) : State := hd w { rlS { rl with routePhase := 2 } with areas := [a] }

def ar1 : Area := { ar 1 with dealt := true, count := 1 }

def ar1S : State := (member3 (page 2 (leafAt 3 0x4000_0000) (arS ar1 [1, 1, 1, 1]))).storeWords (devKey 0x4001_0040) [0x40_0000, State.reset.chip * 2 ^ 32, 0x6_0000]

def daW (n : Nat) : Window := { die := 0, slotNo := 0, ctx := 5, va := 0x2000_0000, pages := n }

def daL : Launch := { rl with routePhase := 0, taken := true }

def daS (n : Nat) : State := { rtS rt with launches := [daL], windows := [daW n] }

def deN : Nat := 2 * (Config.layerBytes 8 2 0 + Config.expertBytes 8 2 0 0)

def deA : Area := { ar 1 with order := 1 }

def deS : State := { daS deN with areas := [deA] }

def spC : Cmd := cmd 0x48 [6 + 64 + 3 * 2 ^ 8 + 2 * 2 ^ 12, 0x2_0000_0000] 5

def leadS : State := let s := setting [(SERVE.HAND_STATE.COMMITTED 6, 0), (LOAD.SLOT.STATE 2, 2)] (handE 6 1 hx); { s with slots := [(2, { attnLayers := 1 })] }

def vrt (n : Nat) : Variant := ⟨n, 5, 8, []⟩

def vrS : State := let s := setting [(SERVE.HAND_STATE.COMMITTED 6, 0)] (handS 6 1 hx); { s with variants := [vrt 3] }

def vbC (op : Nat) : Cmd := cmd 0x49 [op + 6 * 4 + 3 * 2 ^ 8] 5

def dsW : List Nat := [7, 2, 0x2000, 0x3000, 0, 0, 0, 0]

def vgC : Cmd := cmd 0x49 [1 + 6 * 4 + 4 * 2 ^ 8 + 1 * 2 ^ 16, 0x1000] 5

def vgS : State := having vgC { (vrS.storeWords (devKey 0x4000_1000) dsW).store (devKey 0x4000_2000) 8 0x21 with slots := [(8, { matrices := [[7, 0, 8, 8, 0, 1]] })] }

/-- 32 tokens: 5, then zeros. -/
def tok : List Nat := 5 :: List.replicate 127 0

def plC (f : Nat) : Cmd := cmd 0x46 [6 + f * 64 + 33 * 2 ^ 16, 0x1000] 5

def enT : Entry := { live := true, gen := 2, ctx := 5, variant := 0, slot := 8, va := 0x3_0000_0000, blocks := 1, tokens := tok }

def plS (c : Cmd) : State :=
  let s := setting [(SERVE.HAND_STATE.COMMITTED 6, 0), (SERVE.PREFIX_CTL.INDEX_NOW, 1)] (handS 6 1 hx)
  let s := (s.storeBytes (devKey 0x4000_1000) (toBytes tok)).store (devKey (indexBase 1)) 8 (indexBase 1 + 64)
  let s := (s.storeBytes (devKey (indexBase 1 + 64)) (toBytes tok)).storeWords (devKey (indexBase 1 + 192)) [0, 0, 0, holderWord s.chip 4 2, 0, 0, 0, seedWord 5 0 8]
  having c { s with entries := [(4, enT)], ctxs := [(5, { slot := some 0 })] }

def plR : IndexRec := ⟨0, State.reset.chip, indexBase 1 + 64 + 144, 0, indexBase 1 + 64 + 152, [holderWord State.reset.chip 4 2, 0, 0, 0]⟩

def piC : Cmd := cmd 0x47 [6 + 1 * 2 ^ 16, 0x1000, 0x3_0000_0000] 5

def piS : State := let s := setting [(SERVE.HAND_STATE.COMMITTED 6, 40), (SERVE.PREFIX_CTL.INDEX_NOW, 1)] (handS 6 1 hx); having piC (s.storeBytes (devKey 0x4000_1000) (toBytes tok))

def prC : Cmd := cmd 0x47 [64, 0, 4] 5

def shD : List Nat := sha256 (List.replicate 64 0)

def shd : Shard := { no := 9, off := 0x1000, len := 64, digest := shD }

def slS (st : Nat) (x : Shard) (s : State := State.reset) : State :=
  { setting [(LOAD.SLOT.STATE 2, st), (LOAD.INTAKE_CTL.TIMEOUT_S, 5)] (attach s) with
    slots := [(2, { shards := [x], stageCmd := (if st = 1 then some 3 else none), pages := [(0, 0x4000_0000)] })], now := 20_000_000_000 }

def msC : Cmd := cmd 0x62 [2, 0x1000, 0x100]

def shd0 : Shard := { shd with digest := List.replicate 32 0 }

def msS : State :=
  let s := slS 0 shd0
  let s := s.storeWords (hostKey 0 0x1000) [1 + 1 * 2 ^ 16, 0x77, 0x40, 0, 0, 0, 0, 0]
  having msC { s.storeWords (hostKey 0 0x1040) [9 + s.chip * 2 ^ 24, 0x1000, 64] with slots := [] }

def msM : List Shard := [{ shd0 with since := 20_000_000_000 }]

def staged (s : State) : List (Nat × Nat) × State := (stageFrames [0] s).getD ([], s)

def siC : Cmd := cmd 0x60 [2 + 9 * 2 ^ 8, 0x2000]

def siC2 : Cmd := cmd 0x60 [2 + 16 + 9 * 2 ^ 8, 0, 3 + 1 * 2 ^ 12]

def arv : Shard := { shd with state := 1, cmd := some 1, window := some 0x2000, engine := some 1, since := 1 }

def arL : Shard := { arv with landed := [(0, 64)] }

def arX : Shard := { arL with digest := [1] }

def dnr : Shard := { shd with state := 1, cmd := some 1, donor := some (3, 1), since := 1 }

def vfd : Shard := { shd with state := 2 }

def rkS (x : Shard) : State := { setting [(LOAD.RECHECK_CTL.ENABLE, 1)] (slS 2 x) with recheck := [(2, 9), (2, 10)] }

def svC : Cmd := cmd 0x61 [2 + 9 * 2 ^ 8]

def swp : Shard := { vfd with swapSince := some 5, repair := [(3, 9)] }

def rwL : Launch := { id := 3, ctx := 5, cls := 1, kind := 0, cmd := some 1, repairOn := [2, 9, 1] }

def mwC (p0 p1 : Nat) : Cmd := cmd 0x63 [p0, p1] 5

def mwS (c : Cmd) : State := having c { slS 2 vfd ctxM with switches := [⟨5, 1, 4, false, 3⟩], cmds := [{ taken (mwC 1 4) with id := 3 }] }

def mrC : Cmd := cmd 0x64 [2]

/-- Link 11 (port 1, link 3) in a state. -/
def lnk (st : Nat) (k : Link) (s : State) : State := let s := setting [(FAB.LINK_STATUS.STATE 11, st)] s; { s with fabric := { s.fabric with links := [(11, k)] } }

def flit (w : Nat) (good : Nat) : List Nat := let b := leVals 8 w ++ List.replicate 240 0; b ++ leVals 4 (crc32c b + good) ++ [0, 0, 0, 0]

def laC (op : Nat) : Cmd := cmd 0x83 [1 + 3 * 16 + op * 2 ^ 8 + 2 ^ 11]

def pk (dest src op off : Nat) (data : List Nat := []) (units : Nat := 1) : Packet := { w0 := header0 dest src op 9 0 0 0 0 0 units 0, w1 := off, data := data, port := 2 }

def got (p : Packet) (s : State) : State := { s with fabric := { s.fabric with inbox := [p] } }

def far7 : Packet := pk 7 3 1 0x40

def hop7 : Hop := ⟨[0, 1], 0, 1, true⟩

def joined (s : State) : State := setting [(TOPO.PARTITION.STATE, 1), (TOPO.PARTITION.ID, 6)] s

def here : Nat := State.reset.chip

def stP : Packet := pk here 3 2 0x4000_0040 (List.replicate 64 7)

def kept : StoredResult := { unit := homeUnit 0x4000_0040 0, src := 3, tag := 9, op := 0x21, data := [] }

def withRes (s : State) : State := { s with fabric := { s.fabric with results := [kept] } }

def anP : Packet := pk here 3 0x20 0x4000_0040 (List.replicate 64 7)

def fabQ : FabReq := { id := 2, target := 3, unit := 15, op := 1, tag := 9, offset := 0x4000_0040, ctx := 5, va := 0x40, who := ⟨5, 1, 0, 0⟩ }

def asked (s : State) : State := { s with fabric := { s.fabric with reqs := [fabQ] } }

def tmP : Packet := { w0 := header0 0xFFF 2 0x41 0 0 0 0 0 0 1 0, w1 := 0, data := leVals 8 5000 ++ List.replicate 56 0, port := 0 }

def heP (p : Nat) : Packet := { w0 := header0 0xFFF 2 0x40 0 0 0 0 0 0 1 0, w1 := 0, data := leVals 8 77 ++ leVals 2 3 ++ [0, 0, p] ++ List.replicate 51 0, port := 2 }

/-- A partition of one plane: chip 3x + y + 100 at (x, y, 0), this module at (0, 0). -/
def mem16 : List Member := (List.range 16).map (fun i => ⟨i + 50, if i = 0 then 9 else i + 100, i % 4, i / 4, 0, false⟩)

def formS (c : Cmd) : State :=
  let nb (p i : Nat) : List (Fld × Nat) := [(TOPO.NB_INFO.STATE p, 1), (TOPO.NB_INFO.CHIP p, i + 100), (TOPO.NB_SERIAL.SERIAL p, i + 50)]
  let s := setting ([(TOPO.CHIP.CHIP, 9), (HIF.SERIAL.SERIAL, 50)] ++ nb 0 1 ++ nb 1 1 ++ nb 2 3 ++ nb 3 3 ++ nb 4 4 ++ nb 5 4 ++ nb 6 12 ++ nb 7 12) State.reset
  having c (s.storeWords (hostKey 0 0x1000) (mem16.flatMap (fun m => [m.serial, m.chip + m.x * 2 ^ 12 + m.y * 2 ^ 14])))

def pfC (op : Nat) : Cmd := cmd op [6 + 1 * 2 ^ 16, 0x1000, 16]

def aborted (s : State) : State := setting [(TOPO.PARTITION.STATE, 2), (TOPO.PARTITION.ID, 6)] s

def abP : Packet := { w0 := header0 0xFFF 2 0x42 0 0 0 0 0 0 1 0, w1 := 0, data := leVals 2 6 ++ [1, 3, 5, 0] ++ List.replicate 58 0, port := 2 }

/-- Bimon runs, the main rails are up and ROOT is ready. -/
def awake (s : State) : State :=
  let s := setting [(MGMT.STATUS.BIMON, 1), (MGMT.STATUS.MAIN_ON, 1), (CLK.ROOT.READY, 1), (CLK.INT.READY, 1), (PWR.CAP.WATTS, 5400)] s
  { s with mgmt := { s.mgmt with standby := true, mainIn := true, railsAt := some 0 }, now := 20_000_000_000 }

def pace (p : Nat) (s : State) : State := setting [(PWR.DIE_STATUS.PACE 3, p)] s

def pins (level eff : Nat) (s : State) : State := setting [(DISC.INPUTS.LEVEL, level), (DISC.INPUTS.EFFECTIVE, eff)] s

def noAmelo (s : State) : State := { s with sec := { s.sec with banks := [(4, { bytes := some [] }), (5, { bytes := some [] })] } }

def ckC (p : Nat) : Cmd := cmd 0xA2 [p]

def gtC (p : Nat) : Cmd := cmd 0xA3 [p]

def linkUp (h : Nat) (st : Nat) (s : State) : State := setting [(HIF.PORT_STATUS.LINK_UP h, 1), (HIF.PORT_STATUS.HOST_STATE h, st), (HIF.PORT_STATUS.BME h, 1), (HIF.PORT_STATUS.MSE h, 1)] s

def aml (s : State) : State := { s with mgmt := { s.mgmt with amelo := true } }

def mw (i v : Nat) : Nat := if i % 4 = 3 then v % 2 else if i % 4 = 0 then v % 2 ^ 32 / 4 * 4 else v % 2 ^ 32

def near (s : State) : State := linkUp 0 2 (awake s)

def rec (q : Nat) : Record := ⟨1000 * q, 0x0301, 1, q, 10, q, 7, 8⟩

def book (s : State) : State := { s with score := { s.score with ring := [rec 4, rec 6], flash := [(0, rec 2)], nextSeq := 7, flushedThrough := 3 } }

def srC (p : Nat) : Cmd := cmd 0xA0 [3 + 2 * 2 ^ 32, p]

def cur (q w : Nat) (s : State) : State := setting [(SCORE.READ_CURSOR.SEQ 1, q), (SCORE.READ_CURSOR.WORD 1, w)] s

def latched (s : State) : State := let s := book s; { s with score := { s.score with latches := [(1, (rec 4).words)] } }

def secS (s : State) : State := awake s

def keyB : List Nat := [0, 0, 0, 1, 0, 0, 0, 6, 0, 0, 0, 1] ++ List.replicate 48 5

def oeC : Cmd := cmd 0xB3 [1, 0x1000]

def oeS : State := having oeC ((awake State.reset).storeBytes (hostKey 0 0x1000) (toBytes keyB))

def atC (p : Nat) : Cmd := cmd 0xB0 [p]

def fsC (p : Nat) : Cmd := cmd 0xB1 [p, 0x1000, 0, 64]

def fsS (c : Cmd) : State := having c ((awake State.reset).storeBytes (hostKey 0 0x1000) (toBytes [1, 2, 3]))

def fsD : List Nat := [1, 2, 3] ++ List.replicate 61 0

def faC : Cmd := cmd 0xB2 [5]

def faS : State := having faC (setting [(SEC.FW_STATE.STAGED 1, 2)] (awake State.reset))

def sens (l : List Nat) (s : State) : State := { s with mgmt := { s.mgmt with sensors := [(5, 44)], sensorOff := l } }

def sbC : Cmd := { id := 0, src := 2, chan := 0, words := [0] }

/-- Context 5 with a table of 64 KiB pages at 0x20_0000. -/
def ctxS : State := page 1 0x5001 ctx5

def mapC (w : Nat) : Cmd := cmd 0x12 [w, 0x20_0000, 1, 0] 5


def pinF : State := having pinC { ctxE with allocs := [⟨0, 2 ^ 50, 1, 9⟩] }

def pinC1 : Cmd := cmd 0x15 [0x02_0001, 0x2000_0000] 5

def pinS : State := having pinC1 ctx5

def roomS : State := having pinC { page 0 (mkLeaf true false false false false 0 0 sramBase State.reset.chip) ctx5 with allocs := [⟨sramBase, 0x1000_0000, 1, 5⟩], ctxs := [(5, {})] }

/-- HBM handed out whole: no table can be made. -/
def pinC2 : Cmd := cmd 0x15 [0x02_0001, 0x8000_0000] 5

def pinN : State := having pinC2 { ctxE with allocs := [⟨0, 0x118_0000_0000, 1, 9⟩] }

/-- A tile of die 0 stands. -/
def needS : State := { pinF with tiles := [tiX], launches := [la] }

def unpC : Cmd := cmd 0x15 [0x103] 5

def unpS : State := having unpC { ctxM with windows := [{ win with va := 0x4000_0000 }, { win with die := 1, va := 0x4040_0000 }] }

def pins96 : Cmd := { taken (cmd 0x14 [] 5) with id := 0, aux := [0, 0] ++ List.replicate 8 96 }

def migC : Cmd := cmd 0x14 [1, 0x20_0000, 1] 5

def migS : State := let s := page 1 (leafAt State.reset.chip 0x4020_0000 + 2 ^ 4) ctxM; having migC { s with cmds := [pins96] }

def ldS : State := having ldC ({ ctxM with programs := [prog 0] }.storeBytes (devKey 0x4000_0000) (toBytes (endImg 0)))

/-- The state a fetch leaves. -/
def gotS (g : Got) : State := match g with | .bytes _ u => u | _ => State.reset

def ldB : State := having ldC (ctxM.storeBytes (devKey 0x4000_0000) (toBytes (img 0 [([4, 8], 4)])))

/-- The state the reading of a record leaves. -/
def bodyS (b : Body) : State := match b with | .ok _ _ u => u | _ => State.reset

/-- The state a write leaves. -/
def wroteS (b : Wrote) : State := match b with | .ok u => u | .stop u => u | .bad u _ => u

def prS (r : List Nat × Nat) : State := laS (trec r)

def prW (r : List Nat × Nat) : State := bodyS ((prS r).recordBody (trec r) 0 0)

def loS (i n : Nat) : State := (laS (lopp i)).store (devKey 0x4000_0100) 8 n

def loU (i n : Nat) : State := gotS ((loS i n).fetch ((loS i n).launchOrigin (lopp i) 64 0 0) 5 0x100 8)

def tiV : State := tiS.nanCount tl2 tiX

def tiH : Nat := (tiV.redealOf 5 tiX).2.1

def tiU : State := wroteS (tiV.putAll (tiV.launchOrigin tl2 64 0 0) 5 (tiV.resultWrites 5 tw none))

def stU : Nat := ((State.reset.unitsIn 4 1 1).head?).getD 0

def opR : Cmd := cmd 0x40 [6 + 0x80 + 4 * 2 ^ 8 + 9 * 2 ^ 32, 0x40, 0x1_0000_0000, 0, 0x3F80_0000 * 2 ^ 32, 0xABCD] 5

def ringW : List Nat := [0x408, State.reset.chip + 3 * 2 ^ 12, 0, 6, 0, 0, 0, 0]

def ringS (w : List Nat) : State := having opR { ctxM.storeWords (devKey 0x4000_0040) w with topo := { ctxM.topo with members := [⟨1, State.reset.chip, 0, 0, 0, false⟩, ⟨2, 3, 1, 0, 0, false⟩] } }

def pkA : State := having (taken (pkC 0)) { handS 6 8 { hx with cmd := some 1, entry := 4, aborted := true } with kitty := [(4, { kt 1 with fill := 6 })] }

def unl : State := { handS 6 1 {} with kitty := [(4, { kt 2 with spec := 1 + 2 * 2 ^ 16 })] }

def unC : Cmd := cmd 0x45 [7, 0x3004, 0x2_0000_0000] 5

def unR : State := having unC (ktS 2 (handS 6 1 {}))

def unX : Hand × State := (unR.rebaseCopy 5 (kt 2).hand 0x2_0000_0000).getD ({}, State.reset)

/-- The bytes a fetch reads. -/
def gotB (g : Got) : List Nat := match g with | .bytes b _ => b | _ => []

def scS : State := { having (taken (cmd 0x42 [6] 5)) (handS 6 2 { hx with layers := 0 }) with steps := [sp] }

def rtX : State := having rtC (ctxM.storeBytes (devKey 0x4000_1000) rtB)

def rtF : Got := rtX.fetch rtC.origin 5 (rtC.p 1) (16 * rtC.experts)

def blR : Cmd := cmd 0x51 [3 + 16 * 2 ^ 8, 0x3A83_126F + 0x3F80_0000 * 2 ^ 32, 100, 2 + 2 * 2 ^ 16] 5

def blS : State := having blR ((rtS rt).store (devKey 0x4000_2040) 4 7)

def blU : State := wroteS (blS.putAll blR.origin 5 [(rt.biasVa + 64, List.replicate (4 * rt.experts) 0), (rt.biasVa + 64 + rt.biasStride, List.replicate (4 * rt.experts) 0)])

def buS (r : Router) : State := setting [(MGMT.TICK.COUNT, 75)] (awake (rtS r))

def rtL : Router := { rt with loopOn := true, minSamples := 8, deadBand := 16, biasStep := 0x3A83_126F, biasLimit := 0x3F80_0000 }

def buC (n : Nat) : State := (buS rtL).storeBytes (devKey 0x4000_3000) (toBytes (leVals 8 6 ++ List.replicate 56 0 ++ leVals 4 n ++ List.replicate 28 0))

def buF (n : Nat) : Got := (buC n).fetch rtL.loopOrigin 5 rtL.biasVa rtL.biasBytes

def buG (n : Nat) : Got := (gotS (buF n)).fetch rtL.loopOrigin 5 rtL.countVa rtL.countBytes

def bu0 (n : Nat) : Nat × List Nat := (rtL.countVa, rtL.countMap (gotB (buG n)) id (fun e i x => if i = 0 ∧ rtL.valid e = true then 0 else x))

def bu1 (n : Nat) : List (Nat × List Nat) := let b := gotB (buF n)
  rtL.validList.map (fun e => (rtL.biasVa + 64 + (1 - copyOf b) * rtL.biasStride + 4 * e, leVals 4 (biasNext rtL (recField (gotB (buG n)) e 0) (div32 (nat32 n) (nat32 1)) (rtL.biasIn b (copyOf b) e)))) ++ [(rtL.biasVa, leVals 8 (leOf (b.take 8) - copyOf b + (1 - copyOf b)))]

def rsE (c : Cmd) : State := having c ((rtS rt).storeBytes (devKey 0x4000_3000) rsB)

def rsF (c : Cmd) : Got := (rsE c).fetch c.origin 5 rt.biasVa rt.biasBytes

def rsG (c : Cmd) : Got := (gotS (rsF c)).fetch c.origin 5 rt.countVa rt.countBytes

def rsO (c : Cmd) : List Nat := (List.range 2).flatMap (fun e => let b := gotB (rsG c); leVals 4 (recField b e 1) ++ leVals 4 (recField b e 2) ++ leVals 4 (recField b e 3) ++ leVals 4 (rt.biasIn (gotB (rsF c)) 0 e))

def rsU (c : Cmd) : State := wroteS ((gotS (rsG c)).put c.origin 5 (c.p 1) (rsO c))

def rsT (c : Cmd) : State := ((rsU c).dropGot c.origin.who).cmdMap 1 (fun d => { d with out0 := 9, out1 := 2, out2 := 6, aux := 9 :: gotB (rsG c) })

def rsC0 : Cmd := cmd 0x52 [2, 0x4000] 5

def rsC1 : Cmd := cmd 0x52 [2 + 2 ^ 10, 0x4000] 5

def rsY (c : Cmd) : State := let b := gotB (rsG c); wroteS ((rsT c).countsEdit c.origin rt (fun b' => rt.countMap b' (fun x => x - leOf (b.take 8)) (fun e i z => if i = 0 then z else z - recField b e i)))

def rg (n : Nat) : Launch := { rl with rows := n, gated := false, entries := [], assigns := [] }

def rgS (n : Nat) : State := rlS (rg n)

def rgF (n : Nat) : Got := (rgS n).fetch ((rgS n).routeOrigin (rg n) 0) 5 rt.biasVa rt.biasBytes

def rgA (n : Nat) : List (List Nat) := (List.range ((gotS (rgF n)).gateRows (rg n))).flatMap (rowAssign rt (rt.biasIn (gotB (rgF n)) 0) (gotS (rgF n)).freeCtr)

def rgW (n : Nat) : State := wroteS ((gotS (rgF n)).countsEdit ((rgS n).routeOrigin (rg n) 0) rt (fun c => rt.countMap c id (fun e j x => if j < 2 then sat32 x ((rgA n).filter (fun a => a.getD 2 0 == e)).length else x)))

def rgU (n : Nat) : State := wroteS ((rgW n).put ((rgS n).routeOrigin (rg n) 0) 5 ((rgW n).freeRow 5 8 ((gotS (rgF n)).freeCtr + 2 * n)) (leVals 8 0))

def r1 : Launch := { rl with gated := true, entries := [[0, 0, 0, 0]] }

def rtFar : Router := { rt with place := [(3, 0, 1, 0x20_0000 + 0x1_0000), (0, 0, 0, 0)] }

def r1G : State := { page 1 (leafAt 3 0x4000_0000) (member3 (rlS r1)) with routers := [rtFar] }

def r3 : Launch := { rl with gated := true, assigns := [[0, 0, 0, 0x3F80_0000], [1, 0, 0, 0x3F80_0000]], entries := [[0, 2, 3, 1]] }

def r3U : State := wroteS ((rlS r3).countsEdit ((rlS r3).routeOrigin r3 1) rt (fun c => rt.countMap c (fun n => sat64 n 1) (fun e j x => sat32 x (if j = 2 then (Option.map (fun w => w.getD 3 0) (r3.entries.find? (fun w => w.getD 0 0 == e))).getD 0 else if j = 3 then (r3.to e).length - (Option.map (fun w => w.getD 3 0) (r3.entries.find? (fun w => w.getD 0 0 == e))).getD 0 else 0))))

def donor (s : State) : State := { s with topo := { s.topo with members := [⟨1, State.reset.chip, 0, 0, 0, true⟩] } }

def r4 : Launch := { r3 with counted := true, sent := true }

def adS (w : List Nat) : State := arS (ar 0) w

def adF (w : List Nat) : Got := (adS w).noteArrivals.fetch ((adS w).noteArrivals.areaOrigin (ar 0)) 5 (rt.areaVa 0 0) 64

def adG (w : List Nat) : Got := (gotS (adF w)).fetch ((gotS (adF w)).areaOrigin (ar 0)) 5 (rt.areaVa 0 0 + 64) (min (wd w 0) rt.capacity * (64 + rt.rowBytes))

def adU (w : List Nat) : State := wroteS ((gotS (adG w)).put ((gotS (adG w)).areaOrigin (ar 0)) 5 (rt.areaVa 0 0 + 24) (leVals 8 (min (wd w 0) rt.capacity) |>.take 4))

def adA (w : List Nat) : Area := ((adS w).noteArrivals.areaOf 5 8 2 0 0).getD (ar 0)

def ar2 (k : Nat) : Area := { ar 2 with dealt := true, count := 1, sent := k }

def a2S (k : Nat) : State := (arS (ar2 k) [1, 1, 1, 1]).storeWords (devKey 0x4001_0040) [0x100, State.reset.chip * 2 ^ 32, 0x200, 0]

def a2G : Got := (a2S 1).fetch ((a2S 1).areaOrigin (ar2 1)) 5 (rt.areaVa 0 0 + 64) (64 + rt.rowBytes)

def ccL (_ : Nat) : Launch := { rl with routePhase := 2, admitted := 4, doneVa := 0x40 }

def ccS (n : Nat) : State := (rlS (ccL n)).store (devKey 0x4000_0040) 8 n

def ccG (n : Nat) : Got := (ccS n).fetch ((ccS n).routeOrigin (ccL n) 2) 5 0x40 8

def vgF : Got := vgS.fetch vgC.origin 5 (vgC.p 1) (64 * 1)

def vgM (b : List (List Nat)) : Option State := b.foldl (fun a w => a.bind fun x => if x.descOk (vgS.ctxSlot 5) w = true then match x.fetch vgC.origin 5 (bits (wd w 2) 0 57) (x.bitmapBytes (vgS.ctxSlot 5) w) with | Got.bytes m y => if (List.map bitCount m).sum = bits (wd w 1) 0 40 then some y else none | _ => none else none) (some (gotS vgF))

def vgT : State := vgS.store (devKey 0x4000_1000) 8 8

def plE : State := having (plC 0) (setting [(SERVE.PREFIX_CTL.INDEX_NOW, 1)] (handS 6 1 hx))

def plF (s : State) (c : Cmd) : State := gotS (s.fetch c.origin 5 (c.p 1) (4 * c.count))

def plI (s : State) (c : Cmd) (b : List (List Nat)) : List IndexRec × State × Bool := (plF s c).readIndex c (seedWord 5 (s.rd (SERVE.SPEC_STATE.VARIANT c.hand)) (s.ctxSlot 5)) b

def plT : State := plS (plC 1)

def piX : State := { piS with entries := [(4, enT)] }

def piF (s : State) : State := gotS (s.fetch piC.origin 5 (piC.p 1) (128 * piC.count))

def inP (off n : Nat) : Nat × Shard → Bool := fun q => match q.2.window with | some w => decide (w ≤ off) && decide (off + n ≤ w + q.2.len) | none => false

def arv5 : Shard := { arv with state := 5 }

def arX4 : Shard := { arX with attempts := 3 }

def hopT (st : Nat) : State := lnk st {} (got far7 (setting [(FAB.ROUTE.VALID 7, 1), (FAB.ROUTE.X 7, 1)] State.reset))

def hopB : State := let s := hopT 2; { s with fabric := { s.fabric with links := [(11, { replay := List.replicate 4096 (0, []) })] } }

def asked2 (s : State) : State := { s with fabric := { s.fabric with reqs := [{ fabQ with who := ⟨6, 1, 0, 0⟩ }] } }

def tmS : State := let s := setting [(TOPO.CHIP.CHIP, 9), (TOPO.PARTITION.STATE, 1), (FAB.ROUTE.VALID 3, 1), (FAB.ROUTE.X 3, 1)] (member3 (got tmP State.reset)); { s with fabric := { s.fabric with delays := [(0, 30)] } }

def slnS : State := let s := setting [(TOPO.NB_INFO.STATE 2, 1), (TOPO.NB_SERIAL.SERIAL 2, 77)] (awake State.reset); { s with topo := { s.topo with neighbours := [(2, ⟨[], 20⟩)] } }

def phS : State := let s := (awake State.reset).setUnit 4 2 3 2 0; { s with power := { s.power with phases := [(2, 3, 5)] } }

def phU : Nat := ((State.reset.unitsIn 4 2 1).head?).getD 0

def due (s : State) : State := { s with mgmt := { s.mgmt with railsDue := true, clocksDue := true } }

def mrS : State := let s := setting [(MGMT.STATUS.BIMON, 1), (SEC.STATUS.RECORD_OK, 1)] State.reset; { s with mgmt := { s.mgmt with standby := true, mainIn := true } }

/-- Whether a fetch answers bytes. -/
def gotIs (g : Got) : Bool := match g with | .bytes _ _ => true | _ => false

/-- Whether a write goes on. -/
def wroteIs (b : Wrote) : Bool := match b with | .ok _ => true | _ => false

/-- Whether an outcome is a next state. -/
def nextIs (o : Host.Outcome State Fault Refusal) : Bool := match o with | .next _ => true | _ => false

/-- The state an outcome holds. -/
def nextS (o : Host.Outcome State Fault Refusal) : State := match o with | .next t => t | _ => State.reset

def cpOff : Nat := 8 * 0x10_0000 + 0x8008

/-! What the witnesses with a choice of frames rest on: whatever frame the free choice takes, one is taken. -/

theorem findRun_isSome {allocs : List Alloc} {regions : List (Nat × Nat)} {size align hint : Nat} (r : Nat × Nat) (hr : r ∈ regions)
    (h : freeRun allocs regions (alignUp r.1 align) size = true) : (findRun allocs regions size align hint).isSome = true := by
  rw [findRun, List.find?_isSome]
  exact ⟨alignUp r.1 align, by simp only [List.mem_append, List.mem_map]; exact .inl (.inr ⟨r, hr, rfl⟩), h⟩

theorem allocRun_isSome {s : State} {regions : List (Nat × Nat)} {size align kind ctx : Nat} (r : Nat × Nat) (hr : r ∈ regions)
    (h : freeRun s.allocs regions (alignUp r.1 align) size = true) : (s.allocRun regions size align kind ctx).isSome = true := by
  have := findRun_isSome (hint := Config.freePlace s.freeCtr) r hr h
  unfold State.allocRun
  split <;> simp_all

theorem allocRun_none {s : State} {regions : List (Nat × Nat)} {size align kind ctx : Nat}
    (h : ∀ b, freeRun s.allocs regions b size = false) : s.allocRun regions size align kind ctx = none := by
  have h2 : findRun s.allocs regions size align (Config.freePlace s.freeCtr) = none := by
    rw [findRun, List.find?_eq_none]; intro b _; simp [h b]
  simp [State.allocRun, h2]

theorem allocRun_at {s : State} {size align kind ctx : Nat} (lo n : Nat) (hm : ∀ c ∈ s.mem, c.1 < devKey lo)
    (h : freeRun s.allocs [(lo, n)] (alignUp lo align) size = true) :
    ∃ f, lo ≤ f ∧ f + size ≤ lo + n ∧ s.allocRun [(lo, n)] size align kind ctx =
      some (f, { s with allocs := ⟨f, size, kind, ctx⟩ :: s.allocs, freeCtr := s.freeCtr + 1 }) := by
  have h1 := findRun_isSome (hint := Config.freePlace s.freeCtr) (lo, n) (List.mem_singleton.mpr rfl) h
  obtain ⟨f, hf⟩ := Option.isSome_iff_exists.mp h1
  have h2 : freeRun s.allocs [(lo, n)] f size = true := by
    rw [findRun] at hf; exact List.find?_some (p := fun b => freeRun s.allocs [(lo, n)] b size) hf
  have h3 : lo ≤ f ∧ f + size ≤ lo + n := by
    simp [freeRun] at h2; exact h2.1
  refine ⟨f, h3.1, h3.2, ?_⟩
  have h4 : memClear s.mem (devKey f) size = s.mem := by
    rw [memClear, List.filter_eq_self]; intro c hc
    have := hm c hc
    have : devKey lo ≤ devKey f := by simp only [devKey]; omega
    simp; omega
  simp [State.allocRun, hf, h4]

theorem mapLeaf_none {c : Cmd} {i : Nat} {s : State} (h6 : bit (c.p 0) 6 = false) (h7 : bit (c.p 0) 7 = true) (ht : c.tier ≠ 0)
    (ha : s.allocRun (hbmRegions (bits (c.p 0) 16 8)) (pageSize c.big) (pageSize c.big) 1 c.context = none) : mapLeaf c i s = none := by
  simp [mapLeaf, h6, h7, ht, ha]

theorem mapPages_first {c : Cmd} {n i : Nat} {s : State} (h : mapLeaf c i s = none) : mapPages c (n + 1) i s = none := by
  simp [mapPages, h]

/-- No frame is free. -/
def mapF : State := having (mapC 0x182) { ctxS with allocs := [⟨0, 2 ^ 50, 1, 9⟩] }

theorem mapPages_none : mapPages (mapC 0x182) (mapC 0x182).pages 0 mapF = none := by
  have hr : ∀ r ∈ hbmRegions 0, r.1 + r.2 ≤ 2 ^ 50 := by decide
  have hf : ∀ b, freeRun [⟨0, 2 ^ 50, 1, 9⟩] (hbmRegions 0) b 65536 = false := by
    intro b
    by_contra h
    simp only [Bool.not_eq_false, freeRun, Bool.and_eq_true, List.any_eq_true, decide_eq_true_eq, List.all_cons, List.all_nil, Bool.or_eq_true,
      and_true] at h
    obtain ⟨⟨r, hm, h1, h2⟩, h3⟩ := h
    have := hr r hm
    omega
  have ha := allocRun_none (s := mapF) (regions := hbmRegions 0) (size := 65536) (align := 65536) (kind := 1) (ctx := 5) hf
  have hl : mapLeaf (mapC 0x182) 0 mapF = none := mapLeaf_none (by decide) (by decide) (by decide) ha
  exact mapPages_first hl

theorem entrySpans_zero (c e base kind n i : Nat) (s : State) : (entrySpans c e base 0 kind n i s).isSome = true := by
  induction n generalizing i s with
  | zero => rfl
  | succ n ih => exact ih _ _

/-- A hand whose cache has no layer inserts a prefix. -/
def piE : State := { piS with hands := [(6, { hx with layers := 0 })] }

theorem piE_late : latePrefixInsert piE piC = none := by decide +kernel

theorem late_entries (s : State) (l : List (Nat × Entry)) (c : Cmd) : latePrefixInsert { s with entries := l } c = latePrefixInsert s c := rfl

theorem makeEntry_isSome (e : Nat) : (((piF piE).dropGot piC.origin.who).took.makeEntry piC e 0 8 tok).isSome = true := by
  obtain ⟨t, ht⟩ := Option.isSome_iff_exists.mp (entrySpans_zero 5 e (piC.p 2) 5 1 0 ((piF piE).dropGot piC.origin.who).took)
  have hl : (((piF piE).dropGot piC.origin.who).took.hand piC.hand).layers = 0 := by decide +kernel
  have hd : ((piF piE).dropGot piC.origin.who).took.leadOf piC.hand = 0 := by decide +kernel
  have hk : blockSpans piC.count = 1 := by decide
  have hc : piC.context = 5 := by decide
  simp only [State.makeEntry, hl, hd, hk, hc, ht, if_pos, entrySpans, Option.isSome_some]

def hopS : State := lnk 2 {} (got far7 (setting [(FAB.ROUTE.VALID 7, 1), (FAB.ROUTE.X 7, 1)] State.reset))

theorem linkOne {l : List Nat} (h : l = [11]) (n d : Nat) : 11 = l.getD (n % l.length) d := by
  rw [h, List.length_singleton, Nat.mod_one]
  rfl

theorem got_ok {g : Got} (h : gotIs g = true) : g = .bytes (gotB g) (gotS g) := by
  cases g <;> first | rfl | cases h

theorem wrote_ok {w : Wrote} (h : wroteIs w = true) : w = .ok (wroteS w) := by
  cases w <;> first | rfl | cases h

theorem next_ok {o : Host.Outcome State Fault Refusal} (h : nextIs o = true) : o = .next (nextS o) := by
  cases o <;> first | rfl | cases h

theorem half_fits (n : Nat) : n ≤ (daW (2 * n)).half := by
  simp only [Window.half, daW]
  omega

theorem half_fits_base (a b : Nat) : a + b ≤ (daW (2 * (a + b))).half := by
  simp only [Window.half, daW]
  omega

theorem imageHeld_none {s : State} {n : Nat} (h : (s.slot n).pages = []) (off len : Nat) : s.imageHeld n off len = false := by
  have hp (o : Nat) : (s.slot n).place o = none := by simp [Slot.place, h, aFind]
  simp [State.imageHeld, hp]

theorem half_fits_two (a b : Nat) : a + (daW (2 * (a + b))).extra + b ≤ (daW (2 * (a + b))).half := by
  simp only [Window.half, daW]
  omega

theorem stageFrames_one {l : List Shard} {s u : State} {f : Nat} (h : imagePagesOf l = [0])
    (ha : s.allocRun (hbmRegions (2 ^ (0 * imagePage / 2 ^ 33))) imagePage imagePage 6 0xFFFF = some (f, u)) :
    stageFrames (imagePagesOf l) s = some ([(0, f)], u) := by
  rw [h]
  unfold stageFrames
  rw [List.foldl_cons, List.foldl_nil, stageFrame, ha]
  rfl

theorem pinDies_head {c : Cmd} {d n : Nat} {l : List Nat} {s : State} (hn : c.pinPages = n + 1) (h : pinPages c d (n + 1) 0 s = none) :
    pinDies c (d :: l) s = none := by simp only [pinDies, hn, h]

theorem windowFits_none {s : State} {d c n : Nat} (h : s.allocRun (sramRegions (2 ^ d)) 0x20_0000 0x20_0000 2 c = none) :
    s.windowFits d c (n + 1) = false := by
  simp only [State.windowFits, h]

theorem windowFits_two {s t u : State} {d c f g : Nat} (h : s.allocRun (sramRegions (2 ^ d)) 0x20_0000 0x20_0000 2 c = some (f, t))
    (h2 : t.allocRun (sramRegions (2 ^ d)) 0x20_0000 0x20_0000 2 c = some (g, u)) : s.windowFits d c 2 = true := by
  simp only [State.windowFits, h, h2]

/-- No page of a die can move. -/
theorem makeRoom_none {s : State} {d : Nat} (hr : s.roomComing d = false) (h : s.movable d = []) : s.makeRoom d = none := by
  unfold State.makeRoom
  rw [hr, h]
  rfl

/-- One page of a die can move. -/
theorem makeRoom_one {s : State} {d c va : Nat} {big : Bool} {leaf : Nat} (hr : s.roomComing d = false) (h : s.movable d = [(c, va, big, leaf)]) :
    ∃ u, s.makeRoom d = some u := by
  have hk : s.chooseBelow 1 = 0 := Nat.mod_one _
  refine Option.isSome_iff_exists.mp ?_
  unfold State.makeRoom
  rw [hr, h]
  simp [hk]

/-- Every frame of the regions is handed out. -/
theorem freeRun_full {allocs : List Alloc} {regions : List (Nat × Nat)} {a : Alloc} (ha : a ∈ allocs)
    (hr : ∀ r ∈ regions, a.base ≤ r.1 ∧ r.1 + r.2 ≤ a.base + a.size) (n : Nat) (hn : 0 < n) (b : Nat) : freeRun allocs regions b n = false := by
  by_contra h
  simp only [Bool.not_eq_false, freeRun, Bool.and_eq_true, List.any_eq_true, decide_eq_true_eq, List.all_eq_true, Bool.or_eq_true] at h
  obtain ⟨⟨r, hm, h1, h2⟩, h3⟩ := h
  have := hr r hm
  have := h3 a ha
  omega

theorem sram_region : sramRegions (2 ^ 0) = [(sramBase, 0x1000_0000)] := by decide +kernel

theorem full_fits {s : State} (a : Alloc) (ha : a ∈ s.allocs) (h1 : a.base ≤ sramBase) (h2 : sramBase + 0x1000_0000 ≤ a.base + a.size) :
    s.windowFits 0 5 2 = false := by
  refine windowFits_none (allocRun_none (freeRun_full ha ?_ _ (by decide)))
  intro r hm
  rw [sram_region, List.mem_singleton] at hm
  rw [hm]
  exact ⟨h1, h2⟩

theorem find_first {s : State} {d c n : Nat} {l : List Nat} (h : s.windowFits d c n = false) :
    (d :: l).find? (fun e => !s.windowFits e c n) = some d := by
  rw [List.find?_cons, h]
  rfl

theorem findFull {s : State} (h : s.windowFits 0 5 2 = false) :
    (dies (pinC.p 0)).find? (fun e => !s.windowFits e pinC.context pinC.pinPages) = some 0 := by
  have hd : dies (pinC.p 0) = [0, 1] := by decide
  have hc : pinC.context = 5 := by decide
  have hp : pinC.pinPages = 2 := by decide
  rw [hd]
  exact find_first (by rw [hc, hp]; exact h)

theorem roomS_fits : roomS.windowFits 0 5 2 = false :=
  full_fits ⟨sramBase, 0x1000_0000, 1, 5⟩ (List.mem_singleton.mpr rfl) (Nat.le_refl _) (Nat.le_refl _)

theorem roomS_cmd : roomS.cmdAt 1 21 = some pinC ∧ pinC.unpin = false ∧ checkPinWindow roomS pinC = none := by decide +kernel

theorem roomS_room : ∃ u, roomS.makeRoom 0 = some u :=
  makeRoom_one (c := 5) (va := 0) (big := true) (leaf := mkLeaf true false false false false 0 0 sramBase State.reset.chip)
    (by decide +kernel) (by decide +kernel)

theorem needS_fits : needS.windowFits 0 5 2 = false :=
  full_fits ⟨0, 2 ^ 50, 1, 9⟩ (List.mem_singleton.mpr rfl) (by decide +kernel) (by decide +kernel)

theorem pinF_fits : pinF.windowFits 0 5 2 = false :=
  full_fits ⟨0, 2 ^ 50, 1, 9⟩ (List.mem_singleton.mpr rfl) (by decide +kernel) (by decide +kernel)

theorem moveFrame_hbm {s : State} {w : Move} {l : List (Nat × Nat)} {n : Nat} (ht : w.tier = 1) (hc : w.chip = s.chip) (h : w.cause = 2)
    (hv : w.convert = 0) (hl : hbmRegions w.leaf = l) (hn : pageSize w.big = n) : s.moveFrame w false = s.allocRun l n n 8 w.ctx := by
  simp [State.moveFrame, ht, hc, h, hv, hl, hn]

theorem walk_alloc (s : State) (l : List Alloc) (n c va : Nat) : ({ s with allocs := l, freeCtr := n } : State).walk c va = s.walk c va := rfl

theorem wanted_walk : wanted.walk 5 0x20_0000 = some (0x4008, true, lfWithPromote (leafAt 0 0x4020_0000) true) := by decide +kernel

theorem freeRun_spec {allocs : List Alloc} {regions : List (Nat × Nat)} {b size : Nat} (h : freeRun allocs regions b size = true) :
    ∃ r ∈ regions, r.1 ≤ b ∧ b + size ≤ r.1 + r.2 := by
  simp only [freeRun, Bool.and_eq_true, List.any_eq_true, decide_eq_true_eq] at h
  exact h.1

theorem allocRun_spec {s u : State} {regions : List (Nat × Nat)} {size align kind ctx f : Nat}
    (h : s.allocRun regions size align kind ctx = some (f, u)) :
    (∃ r ∈ regions, r.1 ≤ f ∧ f + size ≤ r.1 + r.2) ∧
      u = { s with allocs := ⟨f, size, kind, ctx⟩ :: s.allocs, mem := memClear s.mem (devKey f) size, freeCtr := s.freeCtr + 1 } := by
  unfold State.allocRun at h
  split at h
  · cases h
  · rename_i b hb
    cases h
    rw [findRun] at hb
    exact ⟨freeRun_spec (List.find?_some (p := fun b => freeRun s.allocs regions b size) hb), rfl⟩

theorem allocRun_keeps {s u : State} {regions : List (Nat × Nat)} {size align kind ctx f : Nat}
    (h : s.allocRun regions size align kind ctx = some (f, u)) : u.allocs = ⟨f, size, kind, ctx⟩ :: s.allocs ∧ u.windows = s.windows := by
  rw [(allocRun_spec h).2]
  exact ⟨rfl, rfl⟩

/-- A run between the bounds of a region is free where no run handed out meets it. -/
theorem freeRun_one {allocs : List Alloc} {lo n b size : Nat} (h1 : lo ≤ b) (h2 : b + size ≤ lo + n)
    (h : ∀ a ∈ allocs, b + size ≤ a.base ∨ a.base + a.size ≤ b) : freeRun allocs [(lo, n)] b size = true := by
  simp only [freeRun, List.any_cons, List.any_nil, Bool.or_false, Bool.and_eq_true, decide_eq_true_eq, List.all_eq_true, Bool.or_eq_true]
  exact ⟨⟨h1, h2⟩, h⟩

/-- A second frame is free behind or before the first, where the runs handed out before lie below the region. -/
theorem allocRun_second {s : State} {lo n size kind ctx f k c : Nat} {l : List Alloc} (ha : s.allocs = ⟨f, size, k, c⟩ :: l)
    (hb : ∀ a ∈ l, a.base + a.size ≤ lo) (hl : alignUp lo size = lo) (h0 : 0 < size)
    (h1 : lo ≤ f) (h2 : f + size ≤ lo + n) (h3 : 3 * size ≤ n) (h4 : lo % size = 0) :
    (s.allocRun [(lo, n)] size size kind ctx).isSome = true := by
  by_cases h : lo + size ≤ f
  · refine allocRun_isSome (lo, n) (List.mem_singleton.mpr rfl) ?_
    rw [ha, hl]
    refine freeRun_one (Nat.le_refl _) (by omega) ?_
    rintro a (_ | ⟨_, hm⟩)
    · exact .inl h
    · exact .inr (hb a hm)
  · have hup : f + size ≤ alignUp (f + size) size ∧ alignUp (f + size) size ≤ lo + 2 * size := by
      obtain ⟨q, hq⟩ := Nat.dvd_of_mod_eq_zero h4
      have hd := Nat.div_add_mod (f + size + size - 1) size
      have hm := Nat.mod_lt (f + size + size - 1) h0
      have hlt : (f + size + size - 1) / size < q + 3 := by
        rw [Nat.div_lt_iff_lt_mul h0]
        have : (q + 3) * size = lo + 3 * size := by rw [hq]; ring
        omega
      have hle : (f + size + size - 1) / size * size ≤ (q + 2) * size := Nat.mul_le_mul_right _ (by omega)
      have hq2 : (q + 2) * size = lo + 2 * size := by rw [hq]; ring
      have hmc : (f + size + size - 1) / size * size = size * ((f + size + size - 1) / size) := Nat.mul_comm _ _
      unfold alignUp
      omega
    have hfr : freeRun s.allocs [(lo, n)] (alignUp (f + size) size) size = true := by
      rw [ha]
      refine freeRun_one (by omega) (by omega) ?_
      rintro a (_ | ⟨_, hm⟩)
      · exact .inr hup.1
      · have := hb a hm
        exact .inr (by omega)
    have hs : (findRun s.allocs [(lo, n)] size size (Config.freePlace s.freeCtr)).isSome = true := by
      rw [findRun, List.find?_isSome]
      exact ⟨_, by simp only [List.mem_append, List.mem_map]; exact .inr ⟨⟨f, size, k, c⟩, by rw [ha]; exact List.mem_cons_self, rfl⟩, hfr⟩
    unfold State.allocRun
    split <;> simp_all

/-- Context 5 has the four tables of its first GiB. -/
def tabled (s : State) : Prop :=
  s.root 5 = some 0x1000 ∧ s.load (devKey 0x1000) 8 = 0x2001 ∧ s.load (devKey 0x2000) 8 = 0x3001 ∧ s.load (devKey 0x3000) 8 = 0x4001

theorem load_clear {s : State} {l : List Alloc} {m c a n k : Nat} (h : c + k ≤ a) :
    ({ s with allocs := l, mem := memClear s.mem a n, freeCtr := m } : State).load c k = s.load c k := by
  have hb : memBytes (memClear s.mem a n) c k = memBytes s.mem c k := by
    induction k generalizing c with
    | zero => rfl
    | succ k ih => simp only [memBytes]; rw [ih (by omega), memByte_memClear, if_neg (by omega)]
  simp only [State.load, hb]

theorem tabled_alloc {s u : State} {n size align kind ctx f : Nat} (ht : tabled s)
    (h : s.allocRun [(sramBase, n)] size align kind ctx = some (f, u)) : tabled u := by
  obtain ⟨⟨r, hr, h1, _⟩, hu⟩ := allocRun_spec h
  have hm := List.mem_singleton.mp hr
  have hs : (0x4000 : Nat) ≤ sramBase := by decide
  have hf : 0x4000 ≤ f := by rw [hm] at h1; exact le_trans hs h1
  have q (c : Nat) (hc : c + 8 ≤ 0x4000) : u.load (devKey c) 8 = s.load (devKey c) 8 := by
    rw [hu]
    exact load_clear (by simp only [devKey]; omega)
  have t0 : u.root 5 = s.root 5 := by rw [hu]; rfl
  exact ⟨t0.trans ht.1, (q _ (by decide)).trans ht.2.1, (q _ (by decide)).trans ht.2.2.1, (q _ (by decide)).trans ht.2.2.2⟩

theorem map_tabled {s : State} {i leaf : Nat} (hi : i < 512) (ht : tabled s) :
    s.mapPage 5 (i * 0x20_0000) true leaf = some (s.putLeaf (0x4000 + 8 * i) 5 (i * 0x20_0000) true leaf) := by
  obtain ⟨t0, t1, t2, t3⟩ := ht
  have a : bits (i * 0x20_0000) 48 9 = 0 := by simp only [bits]; omega
  have b : bits (i * 0x20_0000) 39 9 = 0 := by simp only [bits]; omega
  have c : bits (i * 0x20_0000) 30 9 = 0 := by simp only [bits]; omega
  have d : bits (i * 0x20_0000) 21 9 = i := by simp only [bits]; omega
  have e1 : s.needTable 5 0x1000 4096 = some (0x2000, s) := by simp only [State.needTable, t1]; rfl
  have e2 : s.needTable 5 0x2000 4096 = some (0x3000, s) := by simp only [State.needTable, t2]; rfl
  have e3 : s.needTable 5 0x3000 4096 = some (0x4000, s) := by simp only [State.needTable, t3]; rfl
  simp only [State.mapPage, t0, a, b, c, d, Nat.mul_zero, Nat.add_zero, e1, e2, e3, if_true]

theorem tabled_put {s : State} {i va leaf : Nat} (ht : tabled s) : tabled (s.putLeaf (0x4000 + 8 * i) 5 va true leaf) := by
  obtain ⟨t0, t1, t2, t3⟩ := ht
  have hl (c : Nat) (hc : c + 8 ≤ 0x4000) : (s.putLeaf (0x4000 + 8 * i) 5 va true leaf).load (devKey c) 8 = s.load (devKey c) 8 :=
    State.load_store_apart s (devKey (0x4000 + 8 * i)) 8 leaf (devKey c) 8 (by simp only [devKey]; omega)
  refine ⟨?_, ?_, ?_, ?_⟩
  · have h (g : Fld) (hg : g.key ≠ TIER.REMAP_INDEX.ENTRIES.key) : (s.putLeaf (0x4000 + 8 * i) 5 va true leaf).rd g = s.rd g :=
      State.rd_wr_other _ _ _ _ hg
    rw [← t0]
    simp only [State.root, State.is, h (MMU.CTX_ROOT.VALID 5) (by decide), h (MMU.CTX_ROOT.ROOT 5) (by decide)]
    rfl
  · rw [hl _ (by decide), t1]
  · rw [hl _ (by decide), t2]
  · rw [hl _ (by decide), t3]

theorem pinPages_two {c : Cmd} {d i : Nat} {s s1 s2 s3 s4 : State} {f g : Nat}
    (h1 : s.allocRun (sramRegions (2 ^ d)) 0x20_0000 0x20_0000 2 c.context = some (f, s1))
    (h2 : s1.mapPage c.context (c.p 1 + (d * c.pinPages + i) * 0x20_0000) true (mkLeaf false false true false false 0 0 f s1.chip) = some s2)
    (h3 : s2.allocRun (sramRegions (2 ^ d)) 0x20_0000 0x20_0000 2 c.context = some (g, s3))
    (h4 : s3.mapPage c.context (c.p 1 + (d * c.pinPages + (i + 1)) * 0x20_0000) true (mkLeaf false false true false false 0 0 g s3.chip) = some s4) :
    pinPages c d 2 i s = some s4 := by
  simp only [pinPages, h1, h2, h3, h4]

theorem pinDies_one {c : Cmd} {d w : Nat} {s t : State} (h : pinPages c d c.pinPages 0 s = some t)
    (hw : (List.range 4).find? (fun w => !t.windows.any (fun x => x.die == d && x.slotNo == w)) = some w) : (pinDies c [d] s).isSome = true := by
  simp only [pinDies, h, hw, Option.isSome_some]

theorem putLeaf_allocs (s : State) (a c va leaf : Nat) (b : Bool) : (s.putLeaf a c va b leaf).allocs = s.allocs := rfl

theorem putLeaf_windows (s : State) (a c va leaf : Nat) (b : Bool) : (s.putLeaf a c va b leaf).windows = s.windows := rfl

/-- A frame of die 0's SRAM. -/
theorem sram_first : ∃ f s1, pinS.allocRun [(sramBase, 0x1000_0000)] 0x20_0000 0x20_0000 2 5 = some (f, s1) ∧ tabled s1 ∧ sramBase ≤ f ∧
    f + 0x20_0000 ≤ sramBase + 0x1000_0000 ∧ s1.allocs = [⟨f, 0x20_0000, 2, 5⟩] ∧ s1.windows = [] := by
  have ht : tabled pinS := ⟨by decide +kernel, by decide +kernel, by decide +kernel, by decide +kernel⟩
  have hA : (pinS.allocRun [(sramBase, 0x1000_0000)] 0x20_0000 0x20_0000 2 5).isSome = true :=
    allocRun_isSome (sramBase, 0x1000_0000) (List.mem_singleton.mpr rfl) (by decide +kernel)
  obtain ⟨⟨f, s1⟩, h1⟩ := Option.isSome_iff_exists.mp hA
  obtain ⟨⟨r, hm, hlo, hhi⟩, _⟩ := allocRun_spec h1
  rw [List.mem_singleton.mp hm] at hlo hhi
  have h0 : pinS.allocs = [] := by decide +kernel
  have hw : pinS.windows = [] := by decide +kernel
  have hk := allocRun_keeps h1
  exact ⟨f, s1, h1, tabled_alloc ht h1, hlo, hhi, hk.1.trans (congrArg _ h0), hk.2.trans hw⟩

theorem sram_second {s1 : State} {f leaf : Nat} (ht : tabled s1) (hlo : sramBase ≤ f) (hhi : f + 0x20_0000 ≤ sramBase + 0x1000_0000)
    (ha : s1.allocs = [⟨f, 0x20_0000, 2, 5⟩]) (hw : s1.windows = []) :
    ∃ g s3, (s1.putLeaf (0x4000 + 8 * 256) 5 (256 * 0x20_0000) true leaf).allocRun [(sramBase, 0x1000_0000)] 0x20_0000 0x20_0000 2 5 = some (g, s3) ∧
      tabled s3 ∧ s3.windows = [] := by
  have hB := allocRun_second (kind := 2) (ctx := 5) ((putLeaf_allocs s1 (0x4000 + 8 * 256) 5 (256 * 0x20_0000) leaf true).trans ha) (by simp)
    (by decide +kernel : alignUp sramBase 0x20_0000 = sramBase) (by decide +kernel) hlo hhi (by decide +kernel) (by decide +kernel)
  obtain ⟨⟨g, s3⟩, h3⟩ := Option.isSome_iff_exists.mp hB
  refine ⟨g, s3, h3, tabled_alloc (tabled_put ht) h3, (allocRun_keeps h3).2.trans ?_⟩
  exact (putLeaf_windows s1 (0x4000 + 8 * 256) 5 (256 * 0x20_0000) leaf true).trans hw

theorem pinPages_here : ∃ t, pinPages pinC1 0 2 0 pinS = some t ∧ t.windows = [] := by
  have hc : pinC1.context = 5 := by decide
  have a0 : pinC1.p 1 + (0 * pinC1.pinPages + 0) * 0x20_0000 = 256 * 0x20_0000 := by decide +kernel
  have a1 : pinC1.p 1 + (0 * pinC1.pinPages + (0 + 1)) * 0x20_0000 = 257 * 0x20_0000 := by decide +kernel
  have hr : sramRegions (2 ^ 0) = [(sramBase, 0x1000_0000)] := by decide +kernel
  obtain ⟨f, s1, h1, ht1, hlo, hhi, ha, hw⟩ := sram_first
  have h2 := map_tabled (i := 256) (leaf := mkLeaf false false true false false 0 0 f s1.chip) (by decide) ht1
  obtain ⟨g, s3, h3, ht3, hw3⟩ := sram_second (leaf := mkLeaf false false true false false 0 0 f s1.chip) ht1 hlo hhi ha hw
  have h4 := map_tabled (i := 257) (leaf := mkLeaf false false true false false 0 0 g s3.chip) (by decide) ht3
  exact ⟨_, pinPages_two (by rw [hc, hr]; exact h1) (by rw [hc, a0]; exact h2) (by rw [hc, hr]; exact h3) (by rw [hc, a1]; exact h4),
    (putLeaf_windows _ _ _ _ _ _).trans hw3⟩

theorem pinDies_some : ∃ u, pinDies pinC1 (dies (pinC1.p 0)) pinS = some u := by
  obtain ⟨t, h, hw⟩ := pinPages_here
  have hd : dies (pinC1.p 0) = [0] := by decide +kernel
  have hn : pinC1.pinPages = 2 := by decide +kernel
  rw [hd]
  exact Option.isSome_iff_exists.mp (pinDies_one (w := 0) (by rw [hn]; exact h) (by rw [hw]; rfl))

theorem deS_place : deS.expertPlace (daW deN) deA (Config.layerBytes 8 2 0) (Config.expertBytes 8 2 0 0) = some 0 := by
  have h : Config.layerBytes 8 2 0 + (daW deN).extra + Config.expertBytes 8 2 0 0 ≤ (daW deN).half := half_fits_two _ _
  have hf : (daW deN).experts.find? (fun x => x.order == deA.order) = none := rfl
  simp only [State.expertPlace, hf, if_pos h]
  rfl

theorem wins_two {s : State} {l : List Alloc} (hs : s.allocs = l) (hl : ∀ a ∈ l, a.base + a.size ≤ sramBase) : s.windowFits 0 5 2 = true := by
  have hA : (s.allocRun [(sramBase, 0x1000_0000)] 0x20_0000 0x20_0000 2 5).isSome = true := by
    refine allocRun_isSome (sramBase, 0x1000_0000) (List.mem_singleton.mpr rfl) ?_
    have ha : alignUp sramBase 0x20_0000 = sramBase := by decide +kernel
    rw [hs, ha]
    exact freeRun_one (Nat.le_refl _) (by omega) (fun a hm => .inr (hl a hm))
  obtain ⟨⟨f, t⟩, h1⟩ := Option.isSome_iff_exists.mp hA
  obtain ⟨⟨r, hm, hlo, hhi⟩, _⟩ := allocRun_spec h1
  rw [List.mem_singleton.mp hm] at hlo hhi
  have hB := allocRun_second (kind := 2) (ctx := 5) ((allocRun_keeps h1).1.trans (congrArg _ hs)) hl
    (by decide +kernel : alignUp sramBase 0x20_0000 = sramBase) (by decide +kernel) hlo hhi (by decide +kernel) (by decide +kernel)
  obtain ⟨⟨g, u⟩, h2⟩ := Option.isSome_iff_exists.mp hB
  exact windowFits_two (by rw [sram_region]; exact h1) (by rw [sram_region]; exact h2)

theorem pinS_fits : ∀ d ∈ dies (pinC1.p 0), pinS.windowFits d pinC1.context pinC1.pinPages = true := by
  have hd : dies (pinC1.p 0) = [0] := by decide +kernel
  intro d hm
  rw [hd, List.mem_singleton] at hm
  rw [hm]
  exact wins_two (l := []) (by decide +kernel) (by simp)

theorem pinN_fits : ∀ d ∈ dies (pinC2.p 0), pinN.windowFits d pinC2.context pinC2.pinPages = true := by
  have hd : dies (pinC2.p 0) = [0] := by decide +kernel
  intro d hm
  rw [hd, List.mem_singleton] at hm
  rw [hm]
  exact wins_two (l := [⟨0, 0x118_0000_0000, 1, 9⟩]) (by decide +kernel) (by decide +kernel)

theorem hbm_region : ∀ r ∈ hbmRegions 0, r.1 + r.2 ≤ 0x118_0000_0000 := by decide +kernel

/-- With HBM handed out whole no table is made. -/
theorem needTable_none {s : State} {c addr size : Nat} {k x : Nat} (ha : ⟨0, 0x118_0000_0000, k, x⟩ ∈ s.allocs) (h0 : 0 < size)
    (he : bit (s.load (devKey addr) 8) 0 = false) : s.needTable c addr size = none := by
  have hn : s.allocRun (hbmRegions 0) size (if size = 256 then 256 else 4096) 0 c = none :=
    allocRun_none (freeRun_full ha (fun r hr => ⟨Nat.zero_le _, by have := hbm_region r hr; simpa using this⟩) size h0)
  simp only [State.needTable, he, hn, Bool.false_eq_true, if_false]

theorem mapPage_none {s : State} {c va leaf r : Nat} {big : Bool} (hr : s.root c = some r) (h : s.needTable c (r + 8 * bits va 48 9) 4096 = none) :
    s.mapPage c va big leaf = none := by
  simp only [State.mapPage, hr, h]

theorem pinPages_full {c : Cmd} {d n i : Nat} {s : State} (h : s.allocRun (sramRegions (2 ^ d)) 0x20_0000 0x20_0000 2 c.context = none) :
    pinPages c d (n + 1) i s = none := by simp only [pinPages, h]

theorem pinPages_unmapped {c : Cmd} {d n i f : Nat} {s t : State}
    (h : s.allocRun (sramRegions (2 ^ d)) 0x20_0000 0x20_0000 2 c.context = some (f, t))
    (hp : t.mapPage c.context (c.p 1 + (d * c.pinPages + i) * 0x20_0000) true (mkLeaf false false true false false 0 0 f t.chip) = none) :
    pinPages c d (n + 1) i s = none := by simp only [pinPages, h, hp]

theorem load_empty {s : State} (h : s.mem = []) (a n : Nat) : s.load a n = 0 := by
  have hb : ∀ n a, leNat (memBytes [] a n) = 0 := by
    intro n
    induction n with
    | zero => exact fun _ => rfl
    | succ n ih => intro a; simp [memBytes, memByte, aFind, leNat, ih]
  rw [State.load, h, hb]

theorem root_regs {s t : State} (h : t.regs = s.regs) (c : Nat) : t.root c = s.root c := by
  unfold State.root State.is State.rd
  rw [h]

theorem pinN_root : pinN.root 5 = some 0x1000 := by decide +kernel

theorem pinN_none : pinDies pinC2 (dies (pinC2.p 0)) pinN = none := by
  have hd : dies (pinC2.p 0) = [0] := by decide +kernel
  rw [hd]
  refine pinDies_head (n := 1) (by decide +kernel) ?_
  have hc : pinC2.context = 5 := by decide
  cases ha : pinN.allocRun (sramRegions (2 ^ 0)) 0x20_0000 0x20_0000 2 pinC2.context with
  | none => exact pinPages_full ha
  | some p =>
    obtain ⟨f, t⟩ := p
    have ht := (allocRun_spec ha).2
    have h0 : pinN.allocs = [⟨0, 0x118_0000_0000, 1, 9⟩] := by decide +kernel
    have hm : pinN.mem = [] := by decide +kernel
    have hmt : t.mem = [] := by
      have : t.mem = memClear pinN.mem (devKey f) 0x20_0000 := by rw [ht]
      rw [this, hm, memClear, List.filter_nil]
    have hr : t.root 5 = some 0x1000 := (root_regs (by rw [ht]) 5).trans pinN_root
    have hx : t.allocs = ⟨f, 0x20_0000, 2, pinC2.context⟩ :: pinN.allocs := by rw [ht]
    refine pinPages_unmapped ha ?_
    rw [hc]
    refine mapPage_none hr (needTable_none (k := 1) (x := 9) ?_ (by decide) ?_)
    · rw [hx, h0]; exact List.mem_cons_of_mem _ (List.mem_singleton.mpr rfl)
    · rw [load_empty hmt]; rfl

theorem wanted_room (f : Nat) : wanted.serviceRoom (wanted.moveMovers { { mv 0 with leaf := 2 } with id := wanted.nextMove + 1, leaf := lfWithPromote (leafAt 0 0x4020_0000) true, frame := f, phase := 3, before := wanted.fabric.nextReq }) = true := by
  have hq (m : Nat) : wanted.queueLen m 0 = 0 := by
    have hd : wanted.descs = [] := by decide +kernel
    simp [State.queueLen, hd]
  simp [State.serviceRoom, hq]


/-! Gating with an unknown place for the combine counter. -/

theorem put_small {s : State} {o : Origin} {c va leaf : Nat} {b : List Nat} {k : Loc} (hc : chunksOf va b.length = [(va, b.length)])
    (ha : s.access c va true false = .ok k leaf) : ∃ u, s.put o c va b = .ok u := by
  refine ⟨writeChunk o c va b (s.translated o.engine c va) (va, b.length), ?_⟩
  unfold State.put
  rw [hc]
  simp only [List.foldl_cons, List.foldl_nil, checkChunk, ha]

theorem chunks_word {va : Nat} (h : va % 64 = 0) : chunksOf va 8 = [(va, 8)] := by
  have hm : min 8 (4096 - va % 4096) = 8 := by omega
  simp [chunksOf, chunks, hm]

/-- The pages of context 5 over whatever else a state holds. -/
theorem walk_page {s : State} {i x : Nat} (ht : tabled s) (hi : i < 512) (hx : x < 0x20_0000) (hb : bit (s.load (devKey (0x4000 + 8 * i)) 8) 0 = true)
    (hB : bit (s.load (devKey (0x4000 + 8 * i)) 8) 1 = true) :
    s.walk 5 (i * 0x20_0000 + x) = some (0x4000 + 8 * i, true, s.load (devKey (0x4000 + 8 * i)) 8) := by
  obtain ⟨t0, t1, t2, t3⟩ := ht
  have a : bits (i * 0x20_0000 + x) 48 9 = 0 := by simp only [bits]; omega
  have b : bits (i * 0x20_0000 + x) 39 9 = 0 := by simp only [bits]; omega
  have c : bits (i * 0x20_0000 + x) 30 9 = 0 := by simp only [bits]; omega
  have d : bits (i * 0x20_0000 + x) 21 9 = i := by simp only [bits]; omega
  have e1 : pteNext 0x2001 = 0x2000 := by decide
  have e2 : pteNext 0x3001 = 0x3000 := by decide
  have e3 : pteNext 0x4001 = 0x4000 := by decide
  have b1 : bit 0x2001 0 = true := by decide
  have b2 : bit 0x3001 0 = true := by decide
  have b3 : bit 0x4001 0 = true := by decide
  have hl : s.level0 5 (i * 0x20_0000 + x) = some 0x4000 := by
    simp only [State.level0, t0, a, b, c, State.pte, Nat.mul_zero, Nat.add_zero, t1, t2, t3, e1, e2, e3, b1, b2, b3, Bool.and_self, if_true]
  simp only [State.walk, hl, d, State.pte, hb, hB, Bool.and_self, if_true]

/-- No access to HBM is held. -/
theorem offHeld_none {s : State} (h : ∀ st < 16, s.stackHeld st = false) (off : Nat) : s.offHeld off = false := by
  by_cases hl : off < hbmEnd
  · have hs : stackOf off < 16 := by
      simp only [stackOf, hbmEnd] at *
      omega
    simp only [State.offHeld, h _ hs, Bool.and_false]
  · simp only [State.offHeld, hl, decide_false, Bool.false_and]

theorem access_page {s : State} {va a f : Nat} (hw : s.walk 5 va = some (a, true, leafAt 0 f)) 
    (hl : [lfState (leafAt 0 f), lfTier (leafAt 0 f), lfChip (leafAt 0 f), b2n (lfWrite (leafAt 0 f)), b2n (lfPromote (leafAt 0 f))] = [0, 1, 0, 1, 0])
    (hm : s.member 0 = true) (ho : ∀ off, s.offHeld off = false) :
    ∃ k leaf, s.access 5 va true false = .ok k leaf := by
  simp only [List.cons.injEq] at hl
  obtain ⟨h1, h2, h3, h4, h5, -⟩ := hl
  have hW : lfWrite (leafAt 0 f) = true := by cases h : lfWrite (leafAt 0 f) <;> simp_all [b2n]
  have hP : lfPromote (leafAt 0 f) = false := by cases h : lfPromote (leafAt 0 f) <;> simp_all [b2n]
  refine ⟨s.locate (leafAt 0 f) (va % pageSize true), leafAt 0 f, ?_⟩
  simp [State.access, hw, h1, h2, h3, hW, hP, hm, ho]

theorem freeRow_in {s : State} (k : Nat) (hl : ((s.leaves 5).filter (fun l => lfState l.2.2 == 0 && lfWrite l.2.2 && decide (lfTier l.2.2 < 2) &&
    lfChip l.2.2 == s.chip && s.mappedAll 5 l.1 8)).map (fun l => (l.1, l.2.1)) = [(0, true), (0x20_0000, true)]) :
    ∃ i < 2, ∃ x < 0x20_0000, x % 64 = 0 ∧ s.freeRow 5 8 k = i * 0x20_0000 + x := by
  unfold State.freeRow
  dsimp only
  generalize (s.leaves 5).filter _ = l at hl ⊢
  obtain ⟨⟨v0, b0, f0⟩, l, rfl⟩ : ∃ p q, l = p :: q := by cases l <;> simp_all
  obtain ⟨⟨v1, b1, f1⟩, l, rfl⟩ : ∃ p q, l = p :: q := by cases l <;> simp_all
  have h0 : l = [] := by simp_all
  subst h0
  simp only [List.map_cons, List.map_nil, List.cons.injEq, Prod.mk.injEq, and_true] at hl
  obtain ⟨⟨rfl, rfl⟩, rfl, rfl⟩ := hl
  have hp : pageSize true = 0x20_0000 := rfl
  have hr (n : Nat) : 64 * (n % (0x20_0000 / 64)) < 0x20_0000 := by omega
  have hc (n : Nat) : n % 2 = 0 ∨ n % 2 = 1 := by omega
  simp only [List.length_cons, List.length_nil]
  rcases hc (Config.freeData k) with h | h <;> simp only [h, List.getElem?_cons_zero, List.getElem?_cons_succ, hp, Nat.zero_add, Nat.reduceAdd] <;> split
  · exact ⟨0, by decide, _, hr (Config.freeData (k + 1)), by omega, by omega⟩
  · exact ⟨0, by decide, 0, by decide, rfl, rfl⟩
  · exact ⟨1, by decide, _, hr (Config.freeData (k + 1)), by omega, by omega⟩
  · exact ⟨1, by decide, 0, by decide, rfl, rfl⟩

theorem rgW_tabled : tabled (rgW 0) := ⟨by decide +kernel, by decide +kernel, by decide +kernel, by decide +kernel⟩

theorem rgW_held (off : Nat) : (rgW 0).offHeld off = false := offHeld_none (by decide +kernel) off

theorem rgW_access {i x f : Nat} (hi : i < 512) (hx : x < 0x20_0000) (hf : (rgW 0).load (devKey (0x4000 + 8 * i)) 8 = leafAt 0 f)
    (hb : bit (leafAt 0 f) 0 = true ∧ bit (leafAt 0 f) 1 = true)
    (hl : [lfState (leafAt 0 f), lfTier (leafAt 0 f), lfChip (leafAt 0 f), b2n (lfWrite (leafAt 0 f)), b2n (lfPromote (leafAt 0 f))] = [0, 1, 0, 1, 0]) :
    ∃ k leaf, (rgW 0).access 5 (i * 0x20_0000 + x) true false = .ok k leaf := by
  have hw := walk_page rgW_tabled hi hx (by rw [hf]; exact hb.1) (by rw [hf]; exact hb.2)
  rw [hf] at hw
  exact access_page hw hl (by decide +kernel) rgW_held

theorem rgS_put : ∃ u, (rgW 0).put ((rgS 0).routeOrigin (rg 0) 0) (rg 0).ctx
    ((rgW 0).freeRow (rg 0).ctx 8 ((gotS (rgF 0)).freeCtr + 2 * (gotS (rgF 0)).gateRows (rg 0))) (leVals 8 0) = .ok u := by
  have hc : (rg 0).ctx = 5 := rfl
  have hn : (leVals 8 0).length = 8 := rfl
  rw [hc]
  obtain ⟨i, hi, x, hx, h64, hf⟩ := freeRow_in ((gotS (rgF 0)).freeCtr + 2 * (gotS (rgF 0)).gateRows (rg 0)) (s := rgW 0) (by decide +kernel)
  rw [hf]
  have ha : ∃ k leaf, (rgW 0).access 5 (i * 0x20_0000 + x) true false = .ok k leaf := by
    obtain rfl | rfl : i = 0 ∨ i = 1 := by omega
    · exact rgW_access (f := 0x4000_0000) (by decide) hx (by decide +kernel) (by decide) (by decide)
    · exact rgW_access (f := 0x4020_0000) (by decide) hx (by decide +kernel) (by decide) (by decide)
  obtain ⟨k, leaf, ha⟩ := ha
  exact put_small (by rw [hn]; exact chunks_word (by omega)) ha

/-- With zeros in memory the cells hold zeros, whatever the weight format. -/
theorem tw_cells (b : Nat) (hb : b < 4) : tiS.cellColumn 5 tw 0 0 0 b = List.replicate 32 0 := by
  unfold State.cellColumn
  cases weightInt4 5 tw <;> (revert b; decide +kernel)

/-- The pass of mode 0. -/
def pass0 : Pass := (passList 0).headD { run := 0, head := 0, act := 0, place := 0 }

theorem tw_digits (b : Nat) (hb : b < 4) : tiS.actDigits 5 tw none 0 0 b pass0 = List.replicate 32 0 := by
  revert b; decide +kernel

theorem tw_shape : passesOf (tMode tw) = [pass0] ∧ tS tw = 1 ∧ tCols tw = 1 ∧ tM tw 0 = 1 ∧ pass0.run = 0 := by decide +kernel

theorem tw_checks : tiS.checks 5 tw none 0 = List.replicate 8 (0, 0) := by
  obtain ⟨h1, h2, h3, h4, h5⟩ := tw_shape
  unfold State.checks State.columnChecks State.rowChecks State.checkColumn
  simp only [h1, h2, h3, h4, h5, List.range_succ, List.range_zero, List.nil_append, List.cons_append, List.flatMap_cons, List.flatMap_nil, List.map_cons, List.map_nil,
    Nat.mul_zero, Nat.zero_add, tw_cells 0 (by decide), tw_cells 1 (by decide), tw_cells 2 (by decide), tw_cells 3 (by decide), tw_digits 0 (by decide),
    tw_digits 1 (by decide), tw_digits 2 (by decide), tw_digits 3 (by decide)]
  decide +kernel

theorem tw_agrees : tiS.shareAgrees 5 tw none 0 0 = true ∧ tiS.shareAgrees 5 tw none 0 1 = false := by
  unfold State.shareAgrees
  rw [tw_checks]
  decide +kernel

theorem tiX_use : tiX.inUse = [(0, 3, 0)] := by decide +kernel

theorem tiS_agrees : tiS.misdealt tl2 tiX [] = [] := by
  have h : ([] : List Nat).contains (4 * 3 + 0) = false := by decide
  have hi : tiS.injects.contains (arrayKey tiX.die 3 0) = false := by decide +kernel
  have hc : tl2.ctx = 5 := rfl
  have hw : tiX.words = tw := rfl
  have hr : tiX.redeals = 0 := rfl
  unfold State.misdealt
  rw [tiX_use]
  simp only [List.filter_cons, List.filter_nil, h, hi, hc, hw, hr, if_true, Bool.or_self, Bool.false_eq_true, if_false, tw_agrees.1, Bool.not_true]

theorem tiS_differs : tiS.misdealt tl2 tiX [4 * tiX.onCore + 0] = [(0, tiX.onCore, 0)] := by
  have ho : tiX.onCore = 3 := rfl
  have h : ([4 * 3 + 0] : List Nat).contains (4 * 3 + 0) = true := by decide
  have hc : tl2.ctx = 5 := rfl
  have hw : tiX.words = tw := rfl
  have hr : tiX.redeals = 0 := rfl
  unfold State.misdealt
  rw [tiX_use, ho]
  simp only [List.filter_cons, List.filter_nil, h, hc, hw, hr, if_true, Bool.true_or, tw_agrees.2, Bool.not_false]

theorem tiV_once : tiV.redealOf tl2.ctx tiX = (false, tiH, false) := by
  simp [State.redealOf, tiH, tiX]

/-- Reads that meet no error. -/
theorem noErrors (s : State) : s = s.readErrors [] [] := rfl

/-! The witnesses. -/

theorem witness_EmptyQueuePassesANanosecond : ∃ s : State, s.pending = [] := ⟨State.reset, rfl⟩

/-- A SIGNAL that stores at an address of its context, at the front of the queue. -/
def sigS : State := { having (cmd 0x02 [0, 0x40, 7] 5) ctxM with pending := [.signal 1] }

theorem witness_StepsKeepTheCanonicalForm : ∃ s t : State, s.canonical ∧ step s = .next t :=
  ⟨sigS, _, ⟨by decide +kernel, by decide +kernel⟩, rfl⟩

theorem witness_StepsKeepTheHoldAndTheRingWithinTheirSizes : ∃ s t : State, s.bounded ∧ step s = .next t :=
  ⟨{ State.reset with pending := [.replyHoldDrain 3], hold := List.replicate 4096 (reply 3) }, _, ⟨by decide +kernel, by decide +kernel⟩, rfl⟩

theorem witness_FlashCountersNeverFall : ∃ s t : State, step s = .next t := ⟨sigS, _, rfl⟩

theorem witness_NopEndsAtOnceAndFenceAfterEarlierCommands :
    (∃ (s : State) (k : Nat) (c : Cmd), (s.cmdAt k 0 = some c) ∧ (checkNop s c = none)) ∧
    (∃ (s : State) (k : Nat) (c : Cmd), (s.cmdAt k 1 = some c) ∧ (checkFence s c = none) ∧ (c.src < 2) ∧ (∀ d ∈ s.cmds, d.id < c.id →
      d.src = c.src → d.chan ≠ c.chan ∧ bit (c.p 0) 0 = false)) ∧
    (∃ (s : State) (k : Nat) (c : Cmd) (d : Cmd), (s.cmdAt k 1 = some c) ∧ (checkFence s c = none) ∧ (c.src < 2) ∧ (d ∈ s.cmds) ∧ (d.id
      < c.id) ∧ (d.src = c.src) ∧ (d.chan = c.chan ∨ bit (c.p 0) 0 = true)) :=
  ⟨⟨having (cmd 0 []) State.reset, 1, cmd 0 [], by decide +kernel⟩,
    ⟨having (cmd 1 []) { State.reset with cmds := [{ cmd 0 [] with id := 0, chan := 1 }] }, 1, cmd 1 [], by decide +kernel⟩,
    ⟨having (cmd 1 [1]) { State.reset with cmds := [{ cmd 0 [] with id := 0, chan := 1 }] }, 1, cmd 1 [1],
      { cmd 0 [] with id := 0, chan := 1 }, by decide +kernel⟩⟩

theorem witness_SignalStoresOrAddsItsValue :
    (∃ (s : State) (k : Nat) (c : Cmd), (s.cmdAt k 2 = some c) ∧ (checkSignal s c = none) ∧ (bit (c.p 0) 1 = true) ∧ (s.attached c.src =
      true)) ∧
    (∃ (s : State) (k : Nat) (key : Nat) (leaf : Nat) (c : Cmd), (s.cmdAt k 2 = some c) ∧ (checkSignal s c = none) ∧ (bit (c.p 0) 1 =
      false) ∧ (s.access c.context (c.p 1) true (bit (c.p 0) 0) = Access1.ok (Loc.here key) leaf)) ∧
    (∃ (s : State) (k : Nat) (key : Nat) (leaf : Nat) (c : Cmd), (s.cmdAt k 2 = some c) ∧ (checkSignal s c = none) ∧ (bit (c.p 0) 1 =
      false) ∧ (s.access c.context (c.p 1) true (bit (c.p 0) 0) = Access1.ok (Loc.here key) leaf)) ∧
    (∃ (s : State) (k : Nat) (key : Nat) (leaf : Nat) (c : Cmd), (s.cmdAt k 2 = some c) ∧ (checkSignal s c = none) ∧ (bit (c.p 0) 1 =
      false) ∧ (s.access c.context (c.p 1) true (bit (c.p 0) 0) = Access1.ok (Loc.here key) leaf)) ∧
    (∃ (s : State) (k : Nat) (chip : Nat) (host : Nat) (off : Nat) (leaf : Nat) (c : Cmd), (s.cmdAt k 2 = some c) ∧ (checkSignal s c =
      none) ∧ (bit (c.p 0) 1 = false) ∧ (s.access c.context (c.p 1) true (bit (c.p 0) 0) = Access1.ok (Loc.far chip host off) leaf) ∧
      (off % 8 = 0)) ∧
    (∃ (s : State) (k : Nat) (chip : Nat) (host : Nat) (off : Nat) (leaf : Nat) (c : Cmd), (s.cmdAt k 2 = some c) ∧ (checkSignal s c =
      none) ∧ (bit (c.p 0) 1 = false) ∧ (s.access c.context (c.p 1) true (bit (c.p 0) 0) = Access1.ok (Loc.far chip host off) leaf) ∧
      (off % 8 = 0)) ∧
    (∃ (s : State) (k : Nat) (d : Nat) (c : Cmd), (s.cmdAt k 2 = some c) ∧ (checkSignal s c = none) ∧ (bit (c.p 0) 1 = false) ∧
      (s.access c.context (c.p 1) true (bit (c.p 0) 0) = Access1.bad d)) :=
  ⟨⟨having (cmd 2 [2, 0x1000, 9]) (attach State.reset), 1, cmd 2 [2, 0x1000, 9], by decide +kernel⟩,
    ⟨having (cmd 2 [1, 8, 9] 5) ctxM, 1, devKey 0x4000_0008, leafAt 0 0x4000_0000, cmd 2 [1, 8, 9] 5, by decide +kernel⟩,
    ⟨having (cmd 2 [0, 8, 9] 5) (ctxM.store (devKey 0x4000_0008) 8 (2^64-1)), 1, devKey 0x4000_0008, leafAt 0 0x4000_0000, cmd 2 [0, 8,
      9] 5, by decide +kernel⟩,
    ⟨having (cmd 2 [1, 8, 9] 5) (ctxM.store (devKey 0x4000_0008) 8 (2^64-1)), 1, devKey 0x4000_0008, leafAt 0 0x4000_0000, cmd 2 [1, 8,
      9] 5, by decide +kernel⟩,
    ⟨having (cmd 2 [1, 8, 9] 5) (member3 (page 0 (leafAt 3 0x4000_0000) ctx5)), 1, 3, 0, 0x4000_0008, leafAt 3 0x4000_0000, cmd 2 [1, 8,
      9] 5, by decide +kernel⟩,
    ⟨having (cmd 2 [0, 8, 9] 5) (member3 (page 0 (leafAt 3 0x4000_0000) ctx5)), 1, 3, 0, 0x4000_0008, leafAt 3 0x4000_0000, cmd 2 [0, 8,
      9] 5, by decide +kernel⟩,
    ⟨having (cmd 2 [0, 8, 9] 5) (page 0 (lfWithState (leafAt 0 0x4000_0000) 3) ctx5), 1, 0x0505, cmd 2 [0, 8, 9] 5, by decide +kernel⟩⟩

theorem witness_TimestampReturnsAndStoresTheTimeBase :
    (∃ (s : State) (k : Nat) (c : Cmd), (s.cmdAt k 4 = some c) ∧ (checkTimestamp s c = none) ∧ (c.p 1 = 0)) ∧
    (∃ (s : State) (k : Nat) (key : Nat) (leaf : Nat) (c : Cmd), (s.cmdAt k 4 = some c) ∧ (checkTimestamp s c = none) ∧ (c.p 1 ≠ 0) ∧
      (s.access c.context (c.p 1) true false = Access1.ok (Loc.here key) leaf) ∧ (s.hasReqs c.origin.who = false)) :=
  ⟨⟨having (cmd 4 []) { State.reset with now := 77 }, 1, cmd 4 [], by decide +kernel⟩,
    ⟨having (cmd 4 [0, 8] 5) { ctxM with now := 77 }, 1, devKey 0x4000_0008, leafAt 0 0x4000_0000, cmd 4 [0, 8] 5, by decide +kernel⟩⟩

theorem witness_WaitEndsWhenItsConditionHoldsOrItsTimeIsUp :
    (∃ (s : State) (k : Nat) (key : Nat) (leaf : Nat) (c : Cmd), (s.cmdAt k 3 = some c) ∧ (checkWait s c = none) ∧ (s.access c.context
      (c.p 1) false false = Access1.ok (Loc.here key) leaf)) ∧
    (∃ (s : State) (k : Nat) (key : Nat) (leaf : Nat) (c : Cmd), (s.cmdAt k 3 = some c) ∧ (checkWait s c = none) ∧ (s.access c.context
      (c.p 1) false false = Access1.ok (Loc.here key) leaf)) ∧
    (∃ (s : State) (k : Nat) (key : Nat) (leaf : Nat) (c : Cmd), (s.waiting k = some c) ∧ (bits (c.p 0) 0 2 < 3) ∧ (s.access c.context
      (c.p 1) false false = Access1.ok (Loc.here key) leaf)) ∧
    (∃ (s : State) (k : Nat) (chip : Nat) (host : Nat) (off : Nat) (leaf : Nat) (c : Cmd), (s.cmdAt k 3 = some c) ∧ (checkWait s c =
      none) ∧ (s.access c.context (c.p 1) false false = Access1.ok (Loc.far chip host off) leaf)) ∧
    (∃ (s : State) (k : Nat) (c : Cmd), (s.waiting k = some c) ∧ (c.since + 1000 * c.p 3 ≤ s.now)) ∧
    (∃ (s : State) (k : Nat) (c : Cmd), (s.waiting k = some c) ∧ (s.now < c.since + 1000 * c.p 3)) :=
  ⟨⟨having (cmd 3 [0, 8, 0, 10] 5) ctxM, 1, devKey 0x4000_0008, leafAt 0 0x4000_0000, cmd 3 [0, 8, 0, 10] 5, by decide +kernel⟩,
    ⟨having (cmd 3 [1, 8, 4, 10] 5) ctxM, 1, devKey 0x4000_0008, leafAt 0 0x4000_0000, cmd 3 [1, 8, 4, 10] 5, by decide +kernel⟩,
    ⟨having (taken (cmd 3 [2, 8, 4, 10] 5)) ctxM, 1, devKey 0x4000_0008, leafAt 0 0x4000_0000, taken (cmd 3 [2, 8, 4, 10] 5),
      by decide +kernel⟩,
    ⟨having (cmd 3 [0, 8, 9, 10] 5) (member3 (page 0 (leafAt 3 0x4000_0000) ctx5)), 1, 3, 0, 0x4000_0008, leafAt 3 0x4000_0000, cmd 3
      [0, 8, 9, 10] 5, by decide +kernel⟩,
    ⟨having (taken (cmd 3 [1, 8, 4, 10] 5)) { ctxM with now := 10_000 }, 1, taken (cmd 3 [1, 8, 4, 10] 5), by decide +kernel⟩,
    ⟨having (taken (cmd 3 [1, 8, 4, 10] 5)) { ctxM with now := 9_999 }, 1, taken (cmd 3 [1, 8, 4, 10] 5), by decide +kernel⟩⟩

theorem witness_WindowWritesStoreTheirBytesOrAreCountedStray :
    (∃ (s : State) (src : Nat) (off : Nat) (data : List Nat), (data.length = 8 ∨ data.length = 16 ∨ data.length = 32) ∧ (off %
      data.length = 0) ∧ (off / 4096 < 128) ∧ (off / 4096 / 64 = src) ∧ (s.reaches src = true) ∧ (s.rd (CMD.CHAN_CTL.ENABLE (off /
      4096)) = 1) ∧ (∀ q ∈ (s.chan (off / 4096)).held, q % 64 ≠ off % 4096 / 64) ∧ (off % 64 + data.length ≠ 64) ∧ (∀ b ∈ data, b <
      256)) ∧
    (∃ (s : State) (src : Nat) (off : Nat) (data : List Nat), (s.reaches src = true) ∧ (¬(data.length = 8 ∨ data.length = 16 ∨
      data.length = 32 ∨ data.length = 64) ∨ off % data.length ≠ 0 ∨ 128 ≤ off / 4096 ∨ off / 4096 / 64 ≠ src ∨ s.rd
      (CMD.CHAN_CTL.ENABLE (off / 4096)) ≠ 1 ∨ ∃ q ∈ (s.chan (off / 4096)).held, q % 64 = off % 4096 / 64)) ∧
    (∃ (s : State) (src : Nat) (off : Nat) (data : List Nat), (s.reaches src = true) ∧ (¬(data.length = 8 ∨ data.length = 16 ∨
      data.length = 32 ∨ data.length = 64) ∨ off % data.length ≠ 0 ∨ 128 ≤ off / 4096 ∨ off / 4096 / 64 ≠ src ∨ s.rd
      (CMD.CHAN_CTL.ENABLE (off / 4096)) ≠ 1 ∨ ∃ q ∈ (s.chan (off / 4096)).held, q % 64 = off % 4096 / 64)) :=
  ⟨⟨chanOn 1 {} (near State.reset), 0, 0x1030, [1, 2, 3, 4, 5, 6, 7, 8], by decide +kernel⟩,
    ⟨near State.reset, 0, 0x1030, [1, 2, 3, 4, 5, 6, 7, 8], by decide +kernel⟩,
    ⟨chanOn 1 {} (setting [(CMD.STRAY.WRITES, 65535)] (near State.reset)), 0, 0x1030, [1, 2, 3, 4], by decide +kernel⟩⟩

theorem witness_CommitHoldsOrDiscardsThePacket :
    (∃ (s : State) (src : Nat) (off : Nat) (data : List Nat), (data.length = 8 ∨ data.length = 16 ∨ data.length = 32 ∨ data.length = 64)
      ∧ (off % data.length = 0) ∧ (off / 4096 < 128) ∧ (off / 4096 / 64 = src) ∧ (s.reaches src = true) ∧ (s.rd (CMD.CHAN_CTL.ENABLE
      (off / 4096)) = 1) ∧ (∀ q ∈ (s.chan (off / 4096)).held, q % 64 ≠ off % 4096 / 64) ∧ (off % 64 + data.length = 64) ∧ (∀ b ∈ data, b
      < 256)) ∧
    (∃ (s : State) (src : Nat) (off : Nat) (data : List Nat), (data.length = 8 ∨ data.length = 16 ∨ data.length = 32 ∨ data.length = 64)
      ∧ (off % data.length = 0) ∧ (off / 4096 < 128) ∧ (off / 4096 / 64 = src) ∧ (s.reaches src = true) ∧ (s.rd (CMD.CHAN_CTL.ENABLE
      (off / 4096)) = 1) ∧ (∀ q ∈ (s.chan (off / 4096)).held, q % 64 ≠ off % 4096 / 64) ∧ (off % 64 + data.length = 64) ∧ (∀ b ∈ data, b
      < 256)) ∧
    (∃ (s : State) (src : Nat) (off : Nat) (data : List Nat), (data.length = 8 ∨ data.length = 16 ∨ data.length = 32 ∨ data.length = 64)
      ∧ (off % data.length = 0) ∧ (off / 4096 < 128) ∧ (off / 4096 / 64 = src) ∧ (s.reaches src = true) ∧ (s.rd (CMD.CHAN_CTL.ENABLE
      (off / 4096)) = 1) ∧ (∀ q ∈ (s.chan (off / 4096)).held, q % 64 ≠ off % 4096 / 64) ∧ (off % 64 + data.length = 64) ∧ (∀ b ∈ data, b
      < 256)) ∧
    (∃ (s : State) (src : Nat) (off : Nat) (data : List Nat), (data.length = 8 ∨ data.length = 16 ∨ data.length = 32 ∨ data.length = 64)
      ∧ (off % data.length = 0) ∧ (off / 4096 < 128) ∧ (off / 4096 / 64 = src) ∧ (s.reaches src = true) ∧ (s.rd (CMD.CHAN_CTL.ENABLE
      (off / 4096)) = 1) ∧ (∀ q ∈ (s.chan (off / 4096)).held, q % 64 ≠ off % 4096 / 64) ∧ (off % 64 + data.length = 64) ∧ (∀ b ∈ data, b
      < 256)) :=
  ⟨⟨chanOn 0 {} (near State.reset), 0, 0, packet 0, by decide +kernel⟩,
    ⟨chanOn 0 {} (setting [(CMD.RING_CTL.ENABLE 0, 1)] (near State.reset)), 0, 64, packet 0, by decide +kernel⟩,
    ⟨chanOn 0 {} (setting [(CMD.RING_CTL.ENABLE 0, 1)] (near State.reset)), 0, 0, List.replicate 64 1, by decide +kernel⟩,
    ⟨chanOn 0 {} (setting [(CMD.CHAN_STATUS.EXPECT 0, 70)] (near State.reset)), 0, 6*64+32, (packet 70).drop 32, by decide +kernel⟩⟩

theorem witness_HeldPacketsAreQueuedInOrderAndCredited :
    (∃ (s : State) (c : Nat), (s.rd (CMD.CHAN_STATUS.EXPECT c) ∈ (s.chan c).held) ∧ ((s.chan c).queue.length < 64)) ∧
    (∃ (s : State) (c : Nat), (s.rd (CMD.CHAN_STATUS.EXPECT c) ∉ (s.chan c).held ∨ 64 ≤ (s.chan c).queue.length)) ∧
    (∃ (s : State) (c : Nat), (s.rd (CMD.CHAN_STATUS.EXPECT c) ∉ (s.chan c).held ∨ 64 ≤ (s.chan c).queue.length)) ∧
    (∃ (s : State) (c : Nat), (s.rd (CMD.CHAN_STATUS.EXPECT c) ∉ (s.chan c).held ∨ 64 ≤ (s.chan c).queue.length)) ∧
    (∃ (s : State) (c : Nat) (since : Nat), ((s.chan c).laterSince = some since) ∧ ((s.chan c).held ≠ []) ∧ (s.rd
      (CMD.CHAN_STATUS.EXPECT c) ∉ (s.chan c).held) ∧ ((s.chan c).gapSent = false) ∧ (since + 1000 * s.rd (CMD.CHAN_CTL.GAP_US c) ≤
      s.now)) ∧
    (∃ (s : State) (c : Nat), ((s.chan c).unreported ≠ 0) ∧ (max 1 (s.rd (CMD.CHAN_CTL.CREDIT_BATCH c)) ≤ (s.chan c).unreported ∨
      (s.chan c).lastQueued + 1000 ≤ s.now)) ∧
    (∃ (s : State) (c : Nat), ((s.chan c).unreported ≠ 0) ∧ (max 1 (s.rd (CMD.CHAN_CTL.CREDIT_BATCH c)) ≤ (s.chan c).unreported ∨
      (s.chan c).lastQueued + 1000 ≤ s.now)) :=
  ⟨⟨chanOn 3 { held := [0], slots := [(5, 6)] } State.reset, 3, by decide +kernel⟩,
    ⟨chanOn 3 { held := [1] } State.reset, 3, by decide +kernel⟩,
    ⟨chanOn 3 { unreported := 1, queued := 1 } (attach (setting [(CMD.CHAN_CREDIT.ADDR 3, 2), (CMD.CHAN_CTL.CREDIT_BATCH 3, 1),
      (CMD.CHAN_STATUS.EXPECT 3, 1)] State.reset)), 3, by decide +kernel⟩,
    ⟨chanOn 3 { unreported := 1, queued := 1 } (setting [(CMD.CHAN_CTL.CREDIT_BATCH 3, 2)] { State.reset with now := 1000 }), 3,
      by decide +kernel⟩,
    ⟨chanOn 3 { held := [2, 1], laterSince := some 5 } (setting [(CMD.RING_CTL.ENABLE 0, 1)] { State.reset with now := 1_000_000_000 }),
      3, 5, by decide +kernel⟩,
    ⟨chanOn 3 { unreported := 1, queued := 1 } (attach (setting [(CMD.CHAN_CREDIT.ADDR 3, 2), (CMD.CHAN_CTL.CREDIT_BATCH 3, 1),
      (CMD.CHAN_STATUS.EXPECT 3, 1)] State.reset)), 3, by decide +kernel⟩,
    ⟨chanOn 3 { unreported := 1, queued := 1 } (setting [(CMD.CHAN_CTL.CREDIT_BATCH 3, 2)] { State.reset with now := 1000 }), 3,
      by decide +kernel⟩⟩

theorem witness_AcceptedCommandsComeIntoFlightOrAreRefused :
    (∃ (s : State) (n : Nat) (c : Cmd), (n < 128) ∧ (s.headOf n = some c) ∧ (s.mgmt.amelo = true) ∧ (s.mayAccept c = true) ∧ (s.turnOf c
      = true)) ∧
    (∃ (s : State) (n : Nat) (c : Cmd), (n < 128) ∧ (s.headOf n = some c) ∧ (s.mgmt.amelo = true) ∧ (s.mayAccept c = true) ∧ (s.turnOf c
      = true)) ∧
    (∃ (s : State) (n : Nat) (c : Cmd), (n < 128) ∧ (s.headOf n = some c) ∧ (s.mgmt.amelo = true) ∧ (s.mayAccept c = true) ∧ (s.turnOf c
      = true)) :=
  ⟨⟨chanOn 0 { queue := [[0]] } (setting [(CMD.RING_CTL.ENABLE 0, 1)] { State.reset with mgmt := { amelo := true } }), 0,
      { id := 0, src := 0, chan := 0, words := [0] }, by decide +kernel⟩,
    ⟨chanOn 0 { queue := [[0xFF + 5 * 2 ^ 48]] } (setting [(CMD.RING_CTL.ENABLE 5, 1)] { State.reset with mgmt := { amelo := true } }),
      0, { id := 0, src := 0, chan := 0, words := [0xFF + 5 * 2 ^ 48] }, by decide +kernel⟩,
    ⟨chanOn 0 { queue := [[5 * 2 ^ 48]] } (setting [(CMD.RING_CTL.ENABLE 0, 1)] { State.reset with mgmt := { amelo := true } }), 0,
      { id := 0, src := 0, chan := 0, words := [5 * 2 ^ 48] }, by decide +kernel⟩⟩

theorem witness_CompletionWritesTheReply :
    (∃ (s : State) (k : Nat) (st : Nat) (c : Cmd), (s.cmdOf k = some c) ∧ (c.src < 2) ∧ (c.status = some st) ∧ (∀ d ∈ s.cmds, d.src ≠ 2
      → d.status.isSome = true → d.needsReply = true → d.ring = c.ring → c.doneNo ≤ d.doneNo) ∧ (s.hold.length < 4096)) ∧
    (∃ (s : State) (k : Nat) (st : Nat) (c : Cmd), (s.cmdOf k = some c) ∧ (c.src < 2) ∧ (c.status = some st) ∧ (∀ d ∈ s.cmds, d.src ≠ 2
      → d.status.isSome = true → d.needsReply = true → d.ring = c.ring → c.doneNo ≤ d.doneNo) ∧ (s.hold.length < 4096)) ∧
    (∃ (s : State) (k : Nat) (st : Nat) (c : Cmd), (s.cmdOf k = some c) ∧ (c.src < 2) ∧ (c.status = some st) ∧ (∀ d ∈ s.cmds, d.src ≠ 2
      → d.status.isSome = true → d.needsReply = true → d.ring = c.ring → c.doneNo ≤ d.doneNo) ∧ (s.hold.length < 4096)) :=
  ⟨⟨having { taken (cmd 0 [] 0xFFFF 1) with status := some 0, out0 := 5 } (setting [(CMD.RING_CTL.ENABLE 0, 1)] State.reset), 1, 0,
      { taken (cmd 0 [] 0xFFFF 1) with status := some 0, out0 := 5 }, by decide +kernel⟩,
    ⟨having { taken (cmd 0 [] 0xFFFF 1) with status := some 0, out0 := 5 } (setting [(CMD.RING_CTL.ENABLE 0, 1), (CMD.RING_CTL.LOG2_SIZE
      0, 6), (CMD.RING_TAIL.TAIL 0, 64)] State.reset), 1, 0, { taken (cmd 0 [] 0xFFFF 1) with status := some 0, out0 := 5 },
      by decide +kernel⟩,
    ⟨having { taken (cmd 0 []) with status := some 0, out0 := 5 } (setting [(CMD.RING_CTL.ENABLE 0, 1)] State.reset), 1, 0,
      { taken (cmd 0 []) with status := some 0, out0 := 5 }, by decide +kernel⟩⟩

theorem witness_ChannelSignalFollowsTheReply :
    ∃ (s : State) (k : Nat) (st : Nat) (c : Cmd), (s.cmdOf k = some c) ∧ (c.src < 2) ∧ (c.status = some st) ∧ (c.signalAfter = true) ∧
      (∀ d ∈ s.cmds, d.src ≠ 2 → d.status.isSome = true → d.needsReply = true → d.ring = c.ring → c.doneNo ≤ d.doneNo) ∧ (s.hold.length
      < 4096) :=
    ⟨having { taken (cmd 0 [] 0xFFFF 4) with status := some 0 } (attach (setting [(CMD.RING_CTL.ENABLE 0, 1), (CMD.CHAN_SIGNAL.ADDR 0,
      3)] State.reset)), 1, 0, { taken (cmd 0 [] 0xFFFF 4) with status := some 0 }, by decide +kernel⟩

theorem witness_HeldRepliesEnterTheirRingInOrder :
    (∃ (s : State) (r : Nat), (r < 256) ∧ (s.rd (CMD.RING_CTL.ENABLE r) = 1) ∧ (s.ringFull r = false) ∧ (∃ x ∈ s.hold, x.ring = r) ∧
      (s.hold.length ≤ 4096)) ∧
    (∃ (s : State) (r : Nat), (r < 256) ∧ (s.rd (CMD.RING_CTL.ENABLE r) = 1) ∧ (s.ringFull r = false) ∧ (∃ x ∈ s.hold, x.ring = r) ∧
      (s.hold.length ≤ 4096)) ∧
    (∃ (s : State) (r : Nat), (r < 256) ∧ (s.rd (CMD.RING_CTL.ENABLE r) = 1) ∧ (s.ringFull r = false) ∧ (∃ x ∈ s.hold, x.ring = r) ∧
      (s.hold.length ≤ 4096)) ∧
    (∃ (s : State) (r : Nat), (s.rd (CMD.RING_CTL.ENABLE r) ≠ 1 ∨ s.ringFull r = true ∨ ∀ x ∈ s.hold, x.ring ≠ r)) ∧
    (∃ (s : State) (r : Nat), (s.rd (CMD.RING_CTL.ENABLE r) ≠ 1 ∨ s.ringFull r = true ∨ ∀ x ∈ s.hold, x.ring ≠ r)) :=
  ⟨⟨setting [(CMD.RING_CTL.ENABLE 3, 1), (CMD.RING_CTL.LOG2_SIZE 3, 6), (CMD.RING_TAIL.TAIL 3, 63)]
      { State.reset with hold := [reply 3, reply 4, reply 3] }, 3, by decide +kernel⟩,
    ⟨setting [(CMD.RING_CTL.ENABLE 3, 1), (CMD.RING_CTL.LOG2_SIZE 3, 6), (CMD.RING_TAIL.TAIL 3, 40)]
      { State.reset with hold := [reply 3, reply 4, reply 3], late := [reply 3] }, 3, by decide +kernel⟩,
    ⟨setting [(CMD.RING_CTL.ENABLE 3, 1), (CMD.RING_CTL.LOG2_SIZE 3, 6), (CMD.RING_SHADOW.ADDR 3, 0x200)] (attach
      { State.reset with hold := [reply 3, reply 4, reply 3], late := [reply 3] }), 3, by decide +kernel⟩,
    ⟨setting [(CMD.RING_CTL.ENABLE 3, 1), (CMD.RING_CTL.LOG2_SIZE 3, 6), (CMD.RING_TAIL.TAIL 3, 64)]
      { State.reset with hold := [reply 3, reply 4] }, 3, by decide +kernel⟩,
    ⟨setting [(CMD.RING_CTL.ENABLE 3, 1), (CMD.RING_CTL.LOG2_SIZE 3, 6)] { State.reset with hold := [reply 4] }, 3, by decide +kernel⟩⟩

theorem witness_ChannelControlEnablesDisablesAndResets :
    (∃ (s : State) (src : Nat) (c : Nat) (v : Nat), (c < 128) ∧ (c / 64 = src) ∧ (s.reaches src = true) ∧ (s.attached src = true) ∧ (bit
      v 0 = true) ∧ (s.rd (CMD.CHAN_CTL.ENABLE c) ≠ 1)) ∧
    (∃ (s : State) (src : Nat) (c : Nat) (v : Nat), (c < 128) ∧ (c / 64 = src) ∧ (s.reaches src = true) ∧ (bit v 0 = false) ∧ (s.rd
      (CMD.CHAN_CTL.ENABLE c) = 1)) ∧
    (∃ (s : State) (src : Nat) (c : Nat) (v : Nat), (c < 128) ∧ (c / 64 = src) ∧ (s.reaches src = true) ∧ (bit v 1 = true)) ∧
    (∃ (s : State) (src : Nat) (c : Nat) (v : Nat), (c < 128) ∧ (c / 64 ≠ src) ∧ (s.reaches src = true) ∧ (bit v 1 = true)) :=
  ⟨⟨near State.reset, 0, 127 / 2, 0x1234_0000 + 1 + 0x0500, by decide +kernel⟩,
    ⟨chanOn 5 { held := [1] } (near State.reset), 0, 5, 2 + 0x7_0000, by decide +kernel⟩,
    ⟨chanOn 5 { held := [1] } (near State.reset), 0, 5, 3 + 0x7_0000, by decide +kernel⟩,
    ⟨chanOn 5 { held := [1] } (linkUp 1 2 (awake State.reset)), 1, 5, 2, by decide +kernel⟩⟩

theorem witness_RingControlEnablesAndDropsHeldReplies :
    (∃ (s : State) (src : Nat) (r : Nat) (v : Nat), (r < 256) ∧ (r / 128 = src) ∧ (s.reaches src = true) ∧ (s.attached src = true) ∧
      (bit v 6 = true) ∧ (s.rd (CMD.RING_CTL.ENABLE r) ≠ 1)) ∧
    (∃ (s : State) (src : Nat) (r : Nat) (v : Nat), (r < 256) ∧ (r / 128 = src) ∧ (s.reaches src = true) ∧ (s.attached src = true) ∧
      (bit v 6 = true) ∧ (s.rd (CMD.RING_CTL.ENABLE r) ≠ 1)) ∧
    (∃ (s : State) (src : Nat) (r : Nat) (v : Nat), (r < 256) ∧ (r / 128 = src) ∧ (s.reaches src = true) ∧ (bit v 6 = false) ∧ (s.rd
      (CMD.RING_CTL.ENABLE r) = 1)) :=
  ⟨⟨near State.reset, 0, 127, 0x46, by decide +kernel⟩,
    ⟨near (setting [(CMD.RING_BASE.BASE 127, 0x118_0000_0000 / 32)] State.reset), 0, 127, 0x66, by decide +kernel⟩,
    ⟨near (setting [(CMD.RING_CTL.ENABLE 3, 1)] { State.reset with hold := [reply 3, reply 4, reply 3], late := [reply 3] }), 0, 3, 0,
      by decide +kernel⟩⟩

theorem witness_SchedulingCommandsActOnTheirContextsAndAccounts :
    (∃ (s : State) (k : Nat) (c : Cmd), (s.cmdAt k 112 = some c) ∧ (checkClassSet s c = none)) ∧
    (∃ (s : State) (k : Nat) (c : Cmd), (s.cmdAt k 113 = some c) ∧ (checkClassSet s c = none) ∧ (bit (c.p 0) 0 = false) ∧ (∀ d ∈ s.cmds,
      d.id = k → d = c)) ∧
    (∃ (s : State) (k : Nat) (c : Cmd), (s.cmdAt k 114 = some c) ∧ (checkResume s c = none)) ∧
    (∃ (s : State) (k : Nat) (key : Nat) (c : Cmd), (s.cmdAt k 115 = some c) ∧ (checkAccountRead s c = none) ∧ (c.p 1 = 0) ∧ (s.hasReqs
      c.origin.who = false) ∧ (key = if bit (c.p 0) 0 = true then 1024 + bits (c.p 0) 16 12 else c.context)) ∧
    (∃ (s : State) (k : Nat) (key : Nat) (c : Cmd), (s.cmdAt k 115 = some c) ∧ (checkAccountRead s c = none) ∧ (c.p 1 = 0) ∧ (s.hasReqs
      c.origin.who = false) ∧ (key = if bit (c.p 0) 0 = true then 1024 + bits (c.p 0) 16 12 else c.context)) ∧
    (∃ (s : State) (k : Nat) (key : Nat) (at' : Nat) (leaf : Nat) (c : Cmd), (s.cmdAt k 115 = some c) ∧ (checkAccountRead s c = none) ∧
      (c.p 1 ≠ 0) ∧ (s.hasReqs c.origin.who = false) ∧ (bit (c.p 0) 0 = false) ∧ (s.access c.context (c.p 1) true false = Access1.ok
      (Loc.here at') leaf) ∧ (key = c.context) ∧ (∀ w ∈ (s.account key).words, w < 2 ^ 64)) ∧
    (∃ (s : State) (k : Nat) (key : Nat) (c : Cmd), (s.cmdAt k 115 = some c) ∧ (checkAccountRead s c = none) ∧ (c.p 1 ≠ 0) ∧ (s.hasReqs
      c.origin.who = false) ∧ (bit (c.p 0) 0 = true) ∧ (s.attached c.src = true) ∧ (key = 1024 + bits (c.p 0) 16 12) ∧ (∀ w ∈ (s.account
      key).words, w < 2 ^ 64)) :=
  ⟨⟨having (cmd 0x70 [1] 5) ctxM, 1, cmd 0x70 [1] 5, by decide +kernel⟩,
    ⟨having (cmd 0x71 [0] 5) { ctxM with cmds := [{ taken (cmd 3 [0, 8, 0, 10] 5) with id := 0 }] }, 1, cmd 0x71 [0] 5,
      by decide +kernel⟩,
    ⟨having (cmd 0x72 [] 5) (setting [(SCHED.CTX_STATE.PREEMPTED 5, 1)] ctxM), 1, cmd 0x72 [] 5, by decide +kernel⟩,
    ⟨having (cmd 0x73 [2] 5) { ctxM with accounts := [(5, { engineNs := 9, energyUj := 2500, tokens := 3 })] }, 1, 5, cmd 0x73 [2] 5,
      by decide +kernel⟩,
    ⟨having (cmd 0x73 [1 + 7 * 2 ^ 16]) { ctxM with accounts := [(1031, { engineNs := 9, energyUj := 2500, tokens := 3 })] }, 1, 1031,
      cmd 0x73 [1 + 7 * 2 ^ 16], by decide +kernel⟩,
    ⟨having (cmd 0x73 [2, 0x40] 5) { ctxM with accounts := [(5, { engineNs := 9, energyUj := 2500, tokens := 3 })] }, 1, 5, devKey
      0x4000_0040, leafAt 0 0x4000_0000, cmd 0x73 [2, 0x40] 5, by decide +kernel⟩,
    ⟨having (cmd 0x73 [1 + 7 * 2 ^ 16, 0x1000]) (attach
      { ctxM with accounts := [(1031, { engineNs := 9, energyUj := 2500, tokens := 3 })] }), 1, 1031, cmd 0x73 [1 + 7 * 2 ^ 16, 0x1000],
      by decide +kernel⟩⟩

theorem witness_ContextsAreCreatedEmptyAndLive :
    (∃ (s : State) (k : Nat) (n : Nat) (c : Cmd), (s.cmdAt k 16 = some c) ∧ (checkCtxCreate s c = none) ∧ (n = if c.context = 65535 then
      s.freeCtx.getD 0 else c.context) ∧ ((s.allocRun (hbmRegions 0) 4096 4096 0 n).isSome = true)) ∧
    (∃ (s : State) (k : Nat) (n : Nat) (c : Cmd), (s.cmdAt k 16 = some c) ∧ (checkCtxCreate s c = none) ∧ (n = if c.context = 65535 then
      s.freeCtx.getD 0 else c.context) ∧ ((s.allocRun (hbmRegions 0) 4096 4096 0 n).isSome = true)) :=
  ⟨⟨having (cmd 0x10 [0x11]) State.reset, 1, 0, cmd 0x10 [0x11], by decide +kernel, by decide +kernel, by decide +kernel,
      allocRun_isSome (0, 0x23_0000_0000) (by decide) (by decide +kernel)⟩,
    ⟨having (cmd 0x10 [5] 7) (setting [(LOAD.SLOT.STATE 2, 2)] { ctxM with slots := [(2, {})] }), 1, 7, cmd 0x10 [5] 7,
      by decide +kernel, by decide +kernel, by decide +kernel, allocRun_isSome (0, 0x23_0000_0000) (by decide) (by decide +kernel)⟩⟩

theorem witness_ContextsAreDestroyedAndAdopted :
    (∃ (s : State) (k : Nat) (c : Cmd), (s.cmdAt k 17 = some c) ∧ (checkCtxDestroy s c = none) ∧ (s.ctxBusy c = false)) ∧
    (∃ (s : State) (k : Nat) (c : Cmd), (s.cmdAt k 17 = some c) ∧ (checkCtxDestroy s c = none) ∧ (s.ctxBusy c = true)) ∧
    (∃ (s : State) (k : Nat) (c : Cmd), (s.cmdAt k 24 = some c) ∧ (checkCtxAdopt s c = none) ∧ (bit (c.p 0) 0 = false) ∧ ((s.ctx
      c.context).lostBy < 2)) :=
  ⟨⟨having (cmd 0x11 [] 5) ctxM, 1, cmd 0x11 [] 5, by decide +kernel⟩,
    ⟨having (cmd 0x11 [] 5) { ctxM with cmds := [{ cmd 3 [0, 8, 0, 10] 5 with id := 0 }] }, 1, cmd 0x11 [] 5, by decide +kernel⟩,
    ⟨having (cmd 0x18 [0] 5) (setting [(SCHED.CTX_STATE.LIFE 5, 2), (SCHED.CTX_STATE.OWNER 5, 1)]
      { ctxM with ctxs := [(5, { lostBy := 1 })] }), 1, cmd 0x18 [0] 5, by decide +kernel⟩⟩

theorem witness_NumericsSettingsAreTheContexts :
    (∃ (s : State) (k : Nat) (c : Cmd), (s.cmdAt k 51 = some c) ∧ (checkSetNumerics s c = none) ∧ (c.p 3 = 0) ∧ (bit (c.p 0) 15 =
      false)) ∧
    (∃ (s : State) (k : Nat) (c : Cmd), (s.cmdAt k 51 = some c) ∧ (checkSetNumerics s c = none) ∧ (c.p 3 = 0) ∧ (bit (c.p 0) 15 =
      false)) :=
  ⟨⟨having (cmd 0x33 [0x3FF3 - 2] 5) ctxM, 1, cmd 0x33 [0x3FF3 - 2] 5, by decide +kernel⟩,
    ⟨having (cmd 0x33 [0x7FF3, 0, 64 * 2 ^ 16 + 2] 5) (page 0 (mkLeaf true false false false false 0 0 0x800_0000_0000 0) ctx5), 1, cmd
      0x33 [0x7FF3, 0, 64 * 2 ^ 16 + 2] 5, by decide +kernel⟩⟩

theorem witness_LeafEntriesHoldTheirFields :
    (∃ (st : Nat) (tier : Nat) (frame : Nat) (chip : Nat), (st < 8) ∧ (tier < 8) ∧ (frame < 2 ^ 44) ∧ (frame % 2 ^ 16 = 0) ∧ (chip < 2 ^
      12)) ∧
    (∃ (st : Nat), (st < 8)) ∧
    (∃ (tier : Nat) (chip : Nat) (frame : Nat), (tier < 8) ∧ (chip < 2 ^ 12) ∧ (frame < 2 ^ 44) ∧ (frame % 2 ^ 16 = 0)) :=
  ⟨⟨7, 7, 0xFFF_FFFF_0000, 0xFFF, by decide +kernel⟩,
    ⟨7, by decide +kernel⟩,
    ⟨7, 0xFFF, 0xFFF_FFFF_0000, by decide +kernel⟩⟩

theorem witness_MappingCommandsChangeTheEntriesOfTheirPages :
    (∃ (s : State) (u : State) (k : Nat) (c : Cmd), (s.cmdAt k 18 = some c) ∧ (checkMap s c = none) ∧ (mapPages c c.pages 0 s = some u)
      ∧ (bit (c.p 0) 3 = false ∨ u.pinsOk = true)) ∧
    (∃ (s : State) (k : Nat) (c : Cmd), (s.cmdAt k 18 = some c) ∧ (checkMap s c = none) ∧ (mapPages c c.pages 0 s = none)) :=
  ⟨⟨having (cmd 0x12 [0x203, 0x40_0000, 1, 0] 5) ctxM, (mapPages (cmd 0x12 [0x203, 0x40_0000, 1, 0] 5) 1 0 (having (cmd 0x12 [0x203,
      0x40_0000, 1, 0] 5) ctxM)).getD State.reset, 1, cmd 0x12 [0x203, 0x40_0000, 1, 0] 5, by decide +kernel⟩,
    ⟨mapF, 1, mapC 0x182, by decide +kernel, by decide +kernel, mapPages_none⟩⟩

theorem witness_MappingCommandsChangeTheEntriesOfTheirPages_2 :
    (∃ (s : State) (k : Nat) (t0 : Nat) (c : Cmd), (s.cmdAt k 18 = some c) ∧ (checkMap s c = none) ∧ (c.pages = 1) ∧ (c.big = true) ∧
      (bit (c.p 0) 3 = false) ∧ (bit (c.p 0) 7 = false) ∧ (s.level0 c.context c.va = some t0) ∧ (s.remaps.length < 1048576)) ∧
    (∃ (s : State) (k : Nat) (a : Nat) (leaf : Nat) (c : Cmd), (s.cmdAt k 19 = some c) ∧ (checkUnmap s c = none) ∧ (s.anyTransit c =
      false) ∧ (c.pages = 1) ∧ (s.walk c.context c.va = some (a, true, leaf))) :=
  ⟨⟨having (cmd 0x12 [0x203 + 8 * 0, 0x40_0000, 1, 0] 5) ctxM, 1, 0x4000, cmd 0x12 [0x203, 0x40_0000, 1, 0] 5, by decide +kernel⟩,
    ⟨having (cmd 0x13 [1, 0x20_0000, 1] 5) { ctxM with allocs := [⟨0x4020_0000, 0x20_0000, 1, 5⟩] }, 1, 0x4008, leafAt 0 0x4020_0000,
      cmd 0x13 [1, 0x20_0000, 1] 5, by decide +kernel⟩⟩

theorem witness_MappingCommandsChangeTheEntriesOfTheirPages_3 :
    (∃ (s : State) (k : Nat) (c : Cmd), (s.cmdAt k 19 = some c) ∧ (checkUnmap s c = none) ∧ (s.anyTransit c = true)) ∧
    (∃ (s : State) (k : Nat) (a : Nat) (old : Nat) (c : Cmd), (s.cmdAt k 23 = some c) ∧ (checkSetHome s c = none) ∧ (s.anyTransit c =
      false) ∧ (c.pages = 1) ∧ (s.walk c.context c.va = some (a, true, old)) ∧ (lfGlobal old = false ∨ s.others = []) ∧ (s.cmdRunning k
      = none) ∧ ((s.moves.any fun m => m.cause == 1 && m.owner == k) = false)) :=
  ⟨⟨having (cmd 0x13 [1, 0x20_0000, 1] 5) (page 1 (lfWithState (leafAt 0 0x4020_0000) 1) ctxM), 1, cmd 0x13 [1, 0x20_0000, 1] 5,
      by decide +kernel⟩,
    ⟨having (cmd 0x17 [0x201, 0x20_0000, 1, 0x60_0000] 5) ctxM, 1, 0x4008, leafAt 0 0x4020_0000, cmd 0x17 [0x201, 0x20_0000, 1,
      0x60_0000] 5, by decide +kernel⟩⟩

theorem witness_MappingCommandsChangeTheEntriesOfTheirPages_4 :
    ∃ (s : State) (k : Nat) (a : Nat) (old : Nat) (c : Cmd), (s.cmdAt k 23 = some c) ∧ (checkSetHome s c = none) ∧ (s.anyTransit c =
      false) ∧ (c.pages = 1) ∧ (s.walk c.context c.va = some (a, true, old)) ∧ (lfGlobal old = true) ∧ (s.others ≠ []) ∧ (s.cmdRunning k
      = none) ∧ (lfState old = 2 ∨ lfChip old ≠ s.chip ∨ s.fwdRoom = true) :=
    ⟨having (cmd 0x17 [0x201, 0x20_0000, 1, 0x60_0000] 5) (member3 (page 1 (leafAt State.reset.chip 0x4020_0000 + 8) ctxM)), 1, 0x4008,
      leafAt 0 0x4020_0000 + 8, cmd 0x17 [0x201, 0x20_0000, 1, 0x60_0000] 5, by decide +kernel⟩

theorem witness_WindowsArePinnedOnEveryNamedDieOrNone :
    ∃ (s : State) (u : State) (k : Nat) (c : Cmd), (s.cmdAt k 21 = some c) ∧ (c.unpin = false) ∧ (checkPinWindow s c = none) ∧ (pinDies
      c (dies (c.p 0)) s = some u) ∧ (∀ d ∈ dies (c.p 0), s.windowFits d c.context c.pinPages = true) :=
    by
    obtain ⟨u, h⟩ := pinDies_some
    exact ⟨pinS, u, 1, pinC1, by decide +kernel, by decide +kernel, by decide +kernel, h, pinS_fits⟩

theorem witness_WindowsArePinnedOnEveryNamedDieOrNone_2 :
    ∃ (s : State) (k : Nat) (c : Cmd), (s.cmdAt k 21 = some c) ∧ (c.unpin = false) ∧ (checkPinWindow s c = none) ∧ (pinDies c (dies (c.p
      0)) s = none) ∧ (∀ d ∈ dies (c.p 0), s.windowFits d c.context c.pinPages = true) :=
    ⟨pinN, 1, pinC2, by decide +kernel, by decide +kernel, by decide +kernel, pinN_none, pinN_fits⟩

theorem witness_WindowsArePinnedOnEveryNamedDieOrNone_3 :
    ∃ (s : State) (k : Nat) (d : Nat) (c : Cmd) (u : State), (s.cmdAt k 21 = some c) ∧ (c.unpin = false) ∧ (checkPinWindow s c = none) ∧
      (List.find? (fun e => !s.windowFits e c.context c.pinPages) (dies (c.p 0)) = some d) ∧ (s.makeRoom d = some u) :=
    by
    obtain ⟨u, h⟩ := roomS_room
    exact ⟨roomS, 1, 0, pinC, u, roomS_cmd.1, roomS_cmd.2.1, roomS_cmd.2.2, findFull roomS_fits, h⟩

theorem witness_WindowsArePinnedOnEveryNamedDieOrNone_4 :
    ∃ (s : State) (k : Nat) (d : Nat) (c : Cmd), (s.cmdAt k 21 = some c) ∧ (c.unpin = false) ∧ (checkPinWindow s c = none) ∧ (List.find?
      (fun e => !s.windowFits e c.context c.pinPages) (dies (c.p 0)) = some d) ∧ (s.makeRoom d = none) ∧ ((s.neededOn d).isEmpty =
      false) :=
    ⟨needS, 1, 0, pinC, by decide +kernel, by decide +kernel, by decide +kernel, findFull needS_fits, makeRoom_none (by decide +kernel)
      (by decide +kernel), by decide +kernel⟩

theorem witness_WindowsArePinnedOnEveryNamedDieOrNone_5 :
    ∃ (s : State) (k : Nat) (d : Nat) (c : Cmd), (s.cmdAt k 21 = some c) ∧ (c.unpin = false) ∧ (checkPinWindow s c = none) ∧ (List.find?
      (fun e => !s.windowFits e c.context c.pinPages) (dies (c.p 0)) = some d) ∧ (s.makeRoom d = none) ∧ ((s.neededOn d).isEmpty = true) :=
    ⟨pinF, 1, 0, pinC, by decide +kernel, by decide +kernel, by decide +kernel, findFull pinF_fits, makeRoom_none (by decide +kernel)
      (by decide +kernel), by decide +kernel⟩

theorem witness_WindowsArePinnedOnEveryNamedDieOrNone_6 :
    ∃ (s : State) (k : Nat) (c : Cmd), (s.cmdAt k 21 = some c) ∧ (c.unpin = true) ∧ (checkPinWindow s c = none) :=
    ⟨unpS, 1, unpC, by decide +kernel⟩

theorem witness_MovesOfPagesFollowTheirSequence :
    (∃ (s : State) (k : Nat) (c : Cmd), (s.cmdAt k 20 = some c) ∧ (checkMigrate s c = none) ∧ (s.anyTransit c = false) ∧ (c.tier = 0 → ∀
      i ∈ c.pageList, ∀ (l : Nat), s.leafOf c.context (c.pageVa i) c.big = some l → lfPin l = false)) ∧
    (∃ (s : State) (k : Nat) (c : Cmd), (s.cmdAt k 20 = some c) ∧ (checkMigrate s c = none) ∧ (c.tier ≠ 0) ∧ (s.anyTransit c = true)) ∧
    (∃ (s : State) (k : Nat) (i : Nat) (l : Nat) (c : Cmd), (s.cmdAt k 20 = some c) ∧ (checkMigrate s c = none) ∧ (c.tier = 0) ∧ (∀ d <
      8, 96 ≤ s.pinned d) ∧ (i ∈ c.pageList) ∧ (s.leafOf c.context (c.pageVa i) c.big = some l) ∧ (lfPin l = true) ∧ (lfTier l ≠ 0)) ∧
    (∃ (s : State) (u : State) (i : Nat) (a : Nat) (leaf : Nat) (f : Nat) (w : Move), (s.wants[i]? = some w) ∧ (w.cause = 2) ∧
      (s.cacheReturn w.ctx w.va = none) ∧ (s.walk w.ctx w.va = some (a, w.big, leaf)) ∧ (lfState leaf = 0) ∧ (lfChip leaf < 3840) ∧
      (s.member (lfChip leaf) = true) ∧ (lfGlobal leaf = true → s.fwdRoom = true) ∧ (w.tier = 1) ∧ (w.chip = s.chip) ∧ (s.moveFrame w
      (lfPin leaf) = some (f, u)) ∧ (u.walk w.ctx w.va = some (a, w.big, leaf)) ∧ (s.serviceRoom (s.moveMovers
      { w with id := s.nextMove + 1, leaf := leaf, frame := f, phase := 3, before := s.fabric.nextReq }) = true)) ∧
    (∃ (s : State) (i : Nat) (m : Move), (s.moveOf i = some m) ∧ (m.phase ≠ 5) ∧ (s.homeLost m.tier m.chip = false) ∧ (s.homeLost
      (lfTier m.leaf) (lfChip m.leaf) = false) ∧ (s.movePoisoned m = false) ∧ (s.moveBusy i = true)) ∧
    (∃ (s : State) (i : Nat) (m : Move), (s.moveOf i = some m) ∧ (m.phase ≠ 5) ∧ (s.homeLost m.tier m.chip = false) ∧ (s.homeLost
      (lfTier m.leaf) (lfChip m.leaf) = false) ∧ (s.movePoisoned m = false) ∧ (s.moveBusy i = false)) ∧
    (∃ (s : State) (i : Nat) (m : Move), (s.moveOf i = some m) ∧ (m.phase ≠ 5) ∧ (s.homeLost m.tier m.chip = false) ∧ (s.homeLost
      (lfTier m.leaf) (lfChip m.leaf) = false) ∧ (s.movePoisoned m = false) ∧ (s.moveBusy i = false)) ∧
    (∃ (s : State) (i : Nat) (m : Move), (s.moveOf i = some m) ∧ (m.phase = 5) ∧ (m.await = []) ∧ (m.cause = 2)) ∧
    (∃ (s : State) (i : Nat) (m : Move), (s.moveOf i = some m) ∧ (m.phase = 5) ∧ (m.await ≠ [])) :=
  ⟨⟨having (cmd 0x14 [0x101, 0, 2] 5) ctxM, 1, cmd 0x14 [0x101, 0, 2] 5, by decide +kernel⟩,
    ⟨having (cmd 0x14 [0x101, 0, 2] 5) (page 1 (lfWithState (leafAt 0 0x4020_0000) 1) ctxM), 1, cmd 0x14 [0x101, 0, 2] 5,
      by decide +kernel⟩,
    ⟨migS, 1, 0, leafAt State.reset.chip 0x4020_0000 + 2 ^ 4, migC, by decide +kernel⟩,
    by
    obtain ⟨f, h1, h2, h3⟩ := allocRun_at (s := wanted) (size := 0x20_0000) (align := 0x20_0000) (kind := 8) (ctx := 5) 0x23_0000_0000 0x23_0000_0000 (by decide +kernel) (by decide +kernel)
    exact ⟨wanted, _, 0, 0x4008, lfWithPromote (leafAt 0 0x4020_0000) true, f, { mv 0 with leaf := 2 }, by decide +kernel, by decide +kernel, by decide +kernel, by decide +kernel, by decide +kernel, by decide +kernel, by decide +kernel, by decide +kernel, by decide +kernel, by decide +kernel, (moveFrame_hbm (by decide) (by decide +kernel) (by decide) (by decide) (by decide +kernel) (by decide)).trans h3, (walk_alloc wanted _ _ 5 0x20_0000).trans wanted_walk, wanted_room f⟩,
    ⟨{ ({ ctxM with moves := [mv 3] }).setLeaf 5 0x20_0000 (lfWithState (leafAt 0 0x4020_0000) 1) with descs := [{ ds [0] with queue := 0, owner := 4 }] },
      4, mv 3, by decide +kernel⟩,
    ⟨({ ctxM with moves := [mv 3], allocs := [⟨0x4020_0000, 0x20_0000, 1, 5⟩] }).setLeaf 5 0x20_0000 (lfWithState (leafAt 0 0x4020_0000)
      1), 4, mv 3, by decide +kernel⟩,
    ⟨member3 (({ ctxM with moves := [{ mv 3 with leaf := leafAt 0 0x4020_0000 + 8 }] }).setLeaf 5 0x20_0000 (lfWithState (leafAt 0
      0x4020_0000 + 8) 1)), 4, { mv 3 with leaf := leafAt 0 0x4020_0000 + 8 }, by decide +kernel⟩,
    ⟨{ ctxM with moves := [mv 5], fwds := [⟨4, 0x4020_0000, 0x20_0000, 3, 0, 0⟩, ⟨6, 0x4000_0000, 0x20_0000, 3, 0, 0⟩] }, 4, mv 5,
      by decide +kernel⟩,
    ⟨{ ctxM with moves := [{ mv 5 with await := [3] }] }, 4, { mv 5 with await := [3] }, by decide +kernel⟩⟩

theorem witness_MovedPagesAreForgottenAndFollowed :
    (∃ (s : State) (i : Nat) (oldChip : Nat) (oldFrame : Nat) (size : Nat) (oldHost : Nat) (p : Packet), (s.inboxAt i = some p) ∧ (p.op
      = 48) ∧ (p.dest = s.chip) ∧ (s.tooOld p = false) ∧ (s.rd TOPO.PARTITION.STATE ≠ 0) ∧ (p.epoch = s.rd FAB.EPOCH.EPOCH) ∧ (oldChip =
      leOf (List.take 8 p.data)) ∧ (oldFrame = leOf (List.take 8 (List.drop 8 p.data))) ∧ (size = leOf (List.take 8 (List.drop 32
      p.data))) ∧ (oldHost = leOf (List.take 8 (List.drop 40 p.data)))) ∧
    (∃ (s : State) (i : Nat) (p : Packet) (r : FabReq), (s.inboxAt i = some p) ∧ (p.op = 35) ∧ (p.dest = s.chip) ∧ (s.tooOld p = false)
      ∧ (p.epoch = s.rd FAB.EPOCH.EPOCH) ∧ (s.answered p = some r)) ∧
    (∃ (s : State) (i : Nat) (p : Packet) (r : FabReq), (s.inboxAt i = some p) ∧ (p.op = 35) ∧ (p.dest = s.chip) ∧ (s.tooOld p = false)
      ∧ (p.epoch = s.rd FAB.EPOCH.EPOCH) ∧ (s.answered p = some r)) ∧
    (∃ (s : State) (i : Nat) (p : Packet), (s.inboxAt i = some p) ∧ (p.op = 35) ∧ (p.dest = s.chip) ∧ (s.tooOld p = false) ∧ (p.epoch =
      s.rd FAB.EPOCH.EPOCH) ∧ (s.answered p = none)) ∧
    (∃ (s : State) (k : Nat) (c : Cmd), (s.cmdAt k 22 = some c) ∧ (checkInvalidate s c = none)) ∧
    (∃ (s : State) (k : Nat) (c : Cmd), (s.cmdAt k 22 = some c) ∧ (checkInvalidate s c = none)) :=
  ⟨⟨let s := setting [(TOPO.PARTITION.STATE, 1)] (member3 ((page 0 (leafAt 3 0x4000_0000) ctx5).indexLeaf 5 0 true (leafAt 3
      0x4000_0000)));
      { s with tlbs := [⟨1, 5, 0, leafAt 3 0x4000_0000⟩], fabric := { s.fabric with inbox := [note], far := [⟨0, 3 * 2 ^ 44 + 0x4000_0040, []⟩] } },
      0, 3, 0x4000_0000, 0x20_0000, 0, note, by decide +kernel⟩,
    ⟨fS, 0, fwdP, fq, by decide +kernel⟩,
    ⟨let s := fS; { s with fabric := { s.fabric with reqs := [{ fq with forwarded := true }] } }, 0, fwdP,
      { fq with forwarded := true }, by decide +kernel⟩,
    ⟨let s := fS; { s with fabric := { s.fabric with reqs := [] } }, 0, fwdP, by decide +kernel⟩,
    ⟨having (cmd 0x16 [1] 5) (let s := ctxM; { s with fabric := { s.fabric with far := [⟨0, 3 * 2 ^ 44 + 0x4000_0040, []⟩] } }), 1, cmd
      0x16 [1] 5, by decide +kernel⟩,
    ⟨having (cmd 0x16 [0, 0, 0x20_0000] 5) (let s := member3 (page 0 (leafAt 3 0x4000_0000) ctx5);
      { s with fabric := { s.fabric with far := [⟨0, 3 * 2 ^ 44 + 0x4000_0040, []⟩, ⟨0, 3 * 2 ^ 44 + 0x6000_0040, []⟩] } }), 1, cmd 0x16
      [0, 0, 0x20_0000] 5, by decide +kernel⟩⟩

theorem witness_FaultEntriesAreDeliveredAndClosed :
    (∃ (s : State) (i : Nat) (h : Nat) (tail : Nat) (e : FaultEntry), (s.faultToSend i = some e) ∧ (h = s.rd (SCHED.CTX_STATE.OWNER
      e.ctx)) ∧ (tail = s.rd (MMU.FAULT_RING_TAIL.TAIL h)) ∧ (s.rd (SCHED.CTX_STATE.LIFE e.ctx) = 1) ∧ (s.attached h = true) ∧ (s.rd
      (MMU.FAULT_RING_CTL.ENABLE h) = 1) ∧ ((tail + 2 ^ 32 - s.rd (MMU.FAULT_RING_HEAD.HEAD h)) % 2 ^ 32 ≠ 2 ^ s.rd
      (MMU.FAULT_RING_CTL.LOG2_SIZE h)) ∧ (e.va < 2 ^ 64) ∧ (e.time < 2 ^ 64)) ∧
    (∃ (s : State) (src : Nat) (v : Nat) (e : FaultEntry), (src = 2 ∨ s.reaches src = true) ∧ (s.absentEntry (bits v 0 16) = some e) ∧
      (bit v 16 = true)) ∧
    (∃ (s : State) (src : Nat) (v : Nat) (e : FaultEntry), (src = 2 ∨ s.reaches src = true) ∧ (s.absentEntry (bits v 0 16) = some e) ∧
      (bit v 16 = true)) ∧
    (∃ (s : State) (src : Nat) (v : Nat), (src = 2 ∨ s.reaches src = true) ∧ (s.absentEntry (bits v 0 16) = none ∨ bit v 16 = false)) ∧
    (∃ (s : State) (i : Nat) (e : FaultEntry), (s.absentEntry i = some e) ∧ (e.time + 1000000 * e.timeout ≤ s.timeBase)) ∧
    (∃ (s : State) (i : Nat) (e : FaultEntry), (s.absentEntry i = some e) ∧ (s.timeBase < e.time + 1000000 * e.timeout)) :=
  ⟨⟨feS, 7, 0, 2 ^ 32 - 1, fe, by decide +kernel⟩,
    ⟨feS, 2, 0x1_0007, fe, by decide +kernel⟩,
    ⟨near feS, 0, 0x1_0007, fe, by decide +kernel⟩,
    ⟨feS, 2, 0x7, by decide +kernel⟩,
    ⟨feS, 7, fe, by decide +kernel⟩,
    ⟨{ feS with now := 5_000_000 }, 7, fe, by decide +kernel⟩⟩

theorem witness_MoverCommandsQueueTheirDescriptors :
    (∃ (s : State) (k : Nat) (op : Nat) (i : Instr) (c : Cmd), ((op, i) ∈ [(0, Instr.copy k), (1, Instr.fill k), (2, Instr.gather k),
      (3, Instr.scatter k), (4, Instr.reduce k), (5, Instr.alltoall k)]) ∧ (s.cmdAt k (32 + op) = some c) ∧ (checkMover op s c = none) ∧
      (s.queueLen (s.cmdMover c) (s.moverQueue c.context) < 64)) ∧
    (∃ (s : State) (k : Nat) (op : Nat) (i : Instr) (c : Cmd), ((op, i) ∈ [(0, Instr.copy k), (1, Instr.fill k), (2, Instr.gather k),
      (3, Instr.scatter k), (4, Instr.reduce k), (5, Instr.alltoall k)]) ∧ (s.cmdAt k (32 + op) = some c) ∧ (checkMover op s c = none) ∧
      (s.queueLen (s.cmdMover c) (s.moverQueue c.context) < 64)) ∧
    (∃ (s : State) (k : Nat) (op : Nat) (i : Instr) (c : Cmd), ((op, i) ∈ [(0, Instr.copy k), (1, Instr.fill k), (2, Instr.gather k),
      (3, Instr.scatter k), (4, Instr.reduce k), (5, Instr.alltoall k)]) ∧ (s.cmdAt k (32 + op) = some c) ∧ (checkMover op s c = none) ∧
      (64 ≤ s.queueLen (s.cmdMover c) (s.moverQueue c.context))) :=
  ⟨⟨having (cmd 0x20 [0, 0, 0x20_0000, 0x1000] 5) ctxM, 1, 0, .copy 1, cmd 0x20 [0, 0, 0x20_0000, 0x1000] 5, by decide +kernel⟩,
    ⟨having (cmd 0x25 [5, 0, 0, 1] 5) ctxM, 1, 5, .alltoall 1, cmd 0x25 [5, 0, 0, 1] 5, by decide +kernel⟩,
    ⟨let s := having (cmd 0x20 [0, 0, 0x20_0000, 0x1000] 5) ctxM;
      { s with descs := [0,1,2,3].flatMap (fun m => List.replicate 64 { id := 9, mover := m, queue := 1, ctx := 5, words := [], issuer := 0, owner := 0 }) },
      1, 0, .copy 1, cmd 0x20 [0, 0, 0x20_0000, 0x1000] 5, by decide +kernel⟩⟩

theorem witness_DescriptorsWriteTheirChunksSignalAndEnd :
    (∃ (s : State) (m : Nat) (q : Nat) (d : Desc), (s.nextDescOf m q = some d) ∧ (d.ended = none)) ∧
    (∃ (s : State) (m : Nat) (q : Nat) (d : Desc), (s.nextDescOf m q = some d) ∧ (d.ended = none)) ∧
    (∃ (s₀ : State) (s : State) (m : Nat) (key : Nat) (leaf : Nat) (d : Desc) (ce : List Nat) (ue : List Nat), (s = s₀.readErrors ce ue)
      ∧ (m < 48) ∧ (∀ q ∈ [0, 1, 2], s.liveNext m q = none) ∧ (List.findSome? (s.newNext m) [0, 1, 2] = some d) ∧ (d.queue ≠ 0) ∧
      (d.kept = false) ∧ (d.op = 1) ∧ (d.convert = 0) ∧ (d.snap = []) ∧ (s.poisonFor (d.who d.next) = false) ∧ (s.outFor (d.who d.next)
      = false) ∧ (s.access d.ctx (d.dst + d.next) true false = Access1.ok (Loc.here key) leaf) ∧ (cut (d.dst + d.next) (d.dst + d.next)
      (d.length - d.next) % 8 = 0)) ∧
    (∃ (s₀ : State) (s : State) (m : Nat) (src : Nat) (key : Nat) (leaf : Nat) (leaf' : Nat) (d : Desc) (ce : List Nat) (ue : List Nat),
      (s = s₀.readErrors ce ue) ∧ (m < 48) ∧ (∀ q ∈ [0, 1, 2], s.liveNext m q = none) ∧ (List.findSome? (s.newNext m) [0, 1, 2] = some
      d) ∧ (d.queue ≠ 0) ∧ (d.kept = false) ∧ (d.given = false) ∧ (d.op = 0) ∧ (d.convert = 0) ∧ (d.snap = []) ∧ (s.poisonFor (d.who
      d.next) = false) ∧ (s.outFor (d.who d.next) = false) ∧ (s.access d.ctx (d.src + d.next) false false = Access1.ok (Loc.here src)
      leaf) ∧ (s.access d.ctx (d.dst + d.next) true false = Access1.ok (Loc.here key) leaf')) ∧
    (∃ (s : State) (i : Nat) (d : Desc), (List.find? (fun d => d.id == i && d.allOver) s.descs = some d) ∧ (d.issuer = 0) ∧ (s.runs
      d.owner) ∧ (d.ended.isSome = true ∨ d.signalVa = 0)) ∧
    (∃ (s : State) (i : Nat) (d : Desc), (List.find? (fun d => d.id == i && d.allOver) s.descs = some d) ∧ (d.issuer = 0) ∧ (s.runs
      d.owner) ∧ (d.ended.isSome = true ∨ d.signalVa = 0)) ∧
    (∃ (s : State) (i : Nat) (key : Nat) (leaf : Nat) (d : Desc), (List.find? (fun d => d.id == i && d.allOver) s.descs = some d) ∧
      (d.issuer = 0) ∧ (s.runs d.owner) ∧ (d.ended = none) ∧ (d.signalVa ≠ 0) ∧ (d.signalVa % 8 = 0) ∧ (d.signalled = false) ∧ (s.access
      d.ctx d.signalVa true false = Access1.ok (Loc.here key) leaf) ∧ (s.outFor (d.who Desc.signalNo) = false) ∧ (s.parkedFor (d.who
      Desc.signalNo) = false)) ∧
    (∃ (s : State) (i : Nat) (a : Nat) (n : Nat) (leaf : Nat) (e : Nat) (big : Bool) (d : Desc), (List.find? (fun d => d.id == i &&
      d.issued && d.ended.isNone && decide (d.next < d.total)) s.descs = some d) ∧ (d.mover < 48) ∧ (d.queue ≠ 0) ∧ ((d.req d.next (if
      d.op = 2 then (s.indexNow d d.next).getD 0 else 0)).read = some (a, n)) ∧ (s.walk d.ctx a = some (e, big, leaf)) ∧ (lfState leaf =
      0) ∧ (lfTier leaf = 2 ∨ lfTier leaf = 3) ∧ (lfChip leaf = s.chip)) :=
  ⟨⟨dsS (ds [0, 0, 0x20_0000, 0x1000, 0, 0, 0, 0]), 0, 1, ds [0, 0, 0x20_0000, 0x1000, 0, 0, 0, 0], by decide +kernel⟩,
    ⟨dsS (ds [0, 1, 0x20_0000, 0x1000, 0, 0, 0, 0]), 0, 1, ds [0, 1, 0x20_0000, 0x1000, 0, 0, 0, 0], by decide +kernel⟩,
    ⟨dsS fillD, dsS fillD, 0, devKey 0x4020_0FC0, leafAt 0 0x4020_0000, fillD, [], [], noErrors _, by decide +kernel⟩,
    ⟨(dsS copyD).store (devKey 0x4000_0000) 8 0x55AA, (dsS copyD).store (devKey 0x4000_0000) 8 0x55AA, 0, devKey 0x4000_0000, devKey
      0x4020_0FC0, leafAt 0 0x4000_0000, leafAt 0 0x4020_0000, copyD, [], [], noErrors _, by decide +kernel⟩,
    ⟨dsS endD, 8, endD, rfl, by decide +kernel, by unfold State.runs; decide +kernel, by decide +kernel⟩,
    ⟨dsS { endD with ended := some (stFaulted, 0x0501) }, 8, { endD with ended := some (stFaulted, 0x0501) }, rfl, by decide +kernel, by
      unfold State.runs; decide +kernel, by decide +kernel⟩,
    ⟨dsS sigD, 8, devKey 0x4000_0108, leafAt 0 0x4000_0000, sigD, rfl, by decide +kernel, by unfold State.runs; decide +kernel,
      by decide +kernel, by decide +kernel, by decide +kernel, by decide +kernel, by decide +kernel, by decide +kernel,
      by decide +kernel⟩,
    ⟨page 0 (mkLeaf true false false false false 0 3 0x9000_0000 0) (dsS copyD), 8, 0, 0x40, mkLeaf true false false false false 0 3
      0x9000_0000 0, 0x4000, true, copyD, by decide +kernel⟩⟩

theorem witness_LaunchCommandsEnterALaunchThatWaits :
    (∃ (s : State) (k : Nat) (kind : Nat) (op : Nat) (i : Instr) (c : Cmd) (p : Program), ((kind, op, i) ∈ [(0, 48, Instr.launchLayer
      k), (1, 49, Instr.launchKernel k), (2, 50, Instr.launchLoop k)]) ∧ (s.cmdAt k op = some c) ∧ (checkLaunch kind s c = none) ∧
      (s.program c.context c.handle = some p)) ∧
    (∃ (s : State) (k : Nat) (kind : Nat) (op : Nat) (i : Instr) (c : Cmd) (p : Program), ((kind, op, i) ∈ [(0, 48, Instr.launchLayer
      k), (1, 49, Instr.launchKernel k), (2, 50, Instr.launchLoop k)]) ∧ (s.cmdAt k op = some c) ∧ (checkLaunch kind s c = none) ∧
      (s.program c.context c.handle = some p)) ∧
    (∃ (s : State) (k : Nat) (kind : Nat) (op : Nat) (i : Instr) (c : Cmd) (p : Program), ((kind, op, i) ∈ [(0, 48, Instr.launchLayer
      k), (1, 49, Instr.launchKernel k), (2, 50, Instr.launchLoop k)]) ∧ (s.cmdAt k op = some c) ∧ (checkLaunch kind s c = none) ∧
      (s.program c.context c.handle = some p)) :=
  ⟨⟨having (cmd 0x30 [0x1_0003, 0x40, 0, 7] 5) (progS 1 ctxM), 1, 0, 0x30, .launchLayer 1, cmd 0x30 [0x1_0003, 0x40, 0, 7] 5, prog 1,
      by decide +kernel⟩,
    ⟨having (cmd 0x31 [0x1_0000, 0x40, 0, 7] 5) (progS 0 ctxM), 1, 1, 0x31, .launchKernel 1, cmd 0x31 [0x1_0000, 0x40, 0, 7] 5, prog 0,
      by decide +kernel⟩,
    ⟨having (cmd 0x32 [0x1_0000, 0x40, 0, 7, 0x100, 5] 5) (progS 0 ctxM), 1, 2, 0x32, .launchLoop 1, cmd 0x32 [0x1_0000, 0x40, 0, 7,
      0x100, 5] 5, prog 0, by decide +kernel⟩⟩

theorem witness_ProgramsAreStoredUnderTheirHandles :
    (∃ (s : State) (u : State) (k : Nat) (h : Nat) (c : Cmd) (img : List Nat), (s.cmdAt k 52 = some c) ∧ (bit (c.p 0) 0 = false) ∧
      (checkLoadProgram s c = none) ∧ (s.fetch c.origin c.context (c.p 1) (c.p 2) = Got.bytes img u) ∧ (imageOk img = true) ∧ (h < 4096)
      ∧ (∀ q ∈ s.programs, q.handle ≠ h + 1) ∧ (∀ j < h, ∃ q ∈ s.programs, q.handle = j + 1) ∧ (s.storeUsed + img.length ≤ 268435456)) ∧
    (∃ (s : State) (u : State) (k : Nat) (c : Cmd) (img : List Nat), (s.cmdAt k 52 = some c) ∧ (bit (c.p 0) 0 = false) ∧
      (checkLoadProgram s c = none) ∧ (s.fetch c.origin c.context (c.p 1) (c.p 2) = Got.bytes img u) ∧ (imageOk img = false)) ∧
    (∃ (s : State) (k : Nat) (c : Cmd), (s.cmdAt k 52 = some c) ∧ (bit (c.p 0) 0 = true) ∧ (checkLoadProgram s c = none)) :=
  ⟨⟨ldS, gotS (ldS.fetch ldC.origin 5 (ldC.p 1) (ldC.p 2)), 1, 1, ldC, endImg 0, by decide +kernel⟩,
    ⟨ldB, gotS (ldB.fetch ldC.origin 5 (ldC.p 1) (ldC.p 2)), 1, ldC, img 0 [([4, 8], 4)], by decide +kernel⟩,
    ⟨having (cmd 0x34 [0x1_0001] 5) (progS 0 ctxM), 1, cmd 0x34 [0x1_0001] 5, by decide +kernel⟩⟩

theorem witness_LaunchesJoinTheirRingsAndHoldTheirDies :
    (∃ (s : State) (i : Nat) (cls : Nat) (l : Launch), (s.launch i = some l) ∧ (l.ready = false) ∧ (l.ended = none) ∧ (s.suspended l.ctx
      = false) ∧ (s.rd TOPO.PARTITION.STATE ≠ 3) ∧ (s.launchBehind l = false) ∧ (l.taken = false) ∧ (l.shapeVa = 0) ∧ (s.shapeBad l =
      none) ∧ (∀ e ∈ s.launches, e.readyAt ≠ s.now + 1) ∧ (cls = s.rd (SCHED.CTX_STATE.CLASS l.ctx)) ∧ ((List.map DiePart.die
      l.parts).Nodup)) ∧
    (∃ (s : State) (d : Nat) (i : Nat) (cls : Nat) (l : Launch), (d < 8) ∧ (s.holder d = none) ∧ (cls = 0 ∧ (s.readyIn d 0).head? = some
      i ∨ cls = 1 ∧ s.readyIn d 0 = [] ∧ (s.readyIn d 1).head? = some i) ∧ (s.launch i = some l) ∧ (∃ p ∈ l.parts, p.die = d) ∧ (∀ x ∈
      s.launches, x.ctx < 1024)) ∧
    (∃ (s : State) (d : Nat) (i : Nat) (cls : Nat) (l : Launch), (d < 8) ∧ (s.holder d = none) ∧ (cls = 0 ∧ (s.readyIn d 0).head? = some
      i ∨ cls = 1 ∧ s.readyIn d 0 = [] ∧ (s.readyIn d 1).head? = some i) ∧ (s.launch i = some l) ∧ (∃ p ∈ l.parts, p.die = d) ∧ (∀ x ∈
      s.launches, x.ctx < 1024)) ∧
    (∃ (s : State) (d : Nat) (l : Launch) (p : DiePart), (d < 8) ∧ (s.holder d = some l) ∧ (l.part d = some p) ∧ (s.tilesOn l.id d =
      false) ∧ (s.partDone l p = true) ∧ (l.id ∉ s.ringOf d 0) ∧ (l.id ∉ s.ringOf d 1)) ∧
    (∃ (s : State) (d : Nat) (l : Launch) (p : DiePart), (s.holder d = some l) ∧ (l.part d = some p) ∧ (s.readyIn d l.cls ≠ []) ∧
      (p.sliceEnd ≤ s.now) ∧ (p.yielding = false)) ∧
    (∃ (s : State) (d : Nat) (l : Launch) (p : DiePart), (s.holder d = some l) ∧ (l.part d = some p) ∧ (s.readyIn d l.cls = [] ∨ s.now <
      p.sliceEnd ∨ p.yielding = true)) :=
  ⟨⟨laS la, 3, 1, la, by decide +kernel⟩,
    ⟨(laS rdy).setRing 0 1 [3], 0, 3, 1, rdy, by decide +kernel⟩,
    ⟨((laS rdy0).setRing 0 0 [3]).setRing 0 1 [9], 0, 3, 0, rdy0, by decide +kernel⟩,
    ⟨laS (hold { die := 0, phase := 2, atEnd := true, heldSince := 4000 }), 0, hold
      { die := 0, phase := 2, atEnd := true, heldSince := 4000 }, { die := 0, phase := 2, atEnd := true, heldSince := 4000 },
      by decide +kernel⟩,
    ⟨let s := (laS (hold { die := 0, phase := 2, heldSince := 4000 })).setRing 0 1 [4];
      { s with launches := s.launches ++ [{ rdy with id := 4, ctx := 6 }] }, 0, hold { die := 0, phase := 2, heldSince := 4000 },
      { die := 0, phase := 2, heldSince := 4000 }, by decide +kernel⟩,
    ⟨laS (hold { die := 0, phase := 2, atEnd := true, heldSince := 4000 }), 0, hold
      { die := 0, phase := 2, atEnd := true, heldSince := 4000 }, { die := 0, phase := 2, atEnd := true, heldSince := 4000 },
      by decide +kernel⟩⟩

theorem witness_ProgramsRunRecordByRecordToTheirEnd :
    (∃ (s₀ : State) (s : State) (u : State) (d : Nat) (i : Nat) (w : List Nat) (pd : Bool) (l : Launch) (p : DiePart) (ce : List Nat)
      (ue : List Nat), (s = s₀.readErrors ce ue) ∧ (s.running d = some (l, p)) ∧ (l.kind = 1 ∨ l.kind = 2) ∧ (p.atEnd = false) ∧ (p.head
      = false) ∧ (p.tile = []) ∧ (nextRec l.image p.next d = some i) ∧ (s.recordBody l i d = Body.ok w pd u)) ∧
    (∃ (s₀ : State) (s : State) (u : State) (d : Nat) (i : Nat) (w : List Nat) (pd : Bool) (l : Launch) (p : DiePart) (ce : List Nat)
      (ue : List Nat), (s = s₀.readErrors ce ue) ∧ (s.running d = some (l, p)) ∧ (l.kind = 1 ∨ l.kind = 2) ∧ (p.atEnd = false) ∧ (p.head
      = false) ∧ (p.tile = []) ∧ (nextRec l.image p.next d = some i) ∧ (s.recordBody l i d = Body.ok w pd u)) ∧
    (∃ (s : State) (u : State) (d : Nat) (b : List Nat) (l : Launch) (p : DiePart), (s.running d = some (l, p)) ∧ (l.kind = 2) ∧ (p.head
      = true) ∧ (p.atEnd = false) ∧ (s.fetch (s.launchOrigin l (64 + d) d 0) l.ctx l.tripVa 8 = Got.bytes b u)) ∧
    (∃ (s : State) (u : State) (d : Nat) (b : List Nat) (l : Launch) (p : DiePart), (s.running d = some (l, p)) ∧ (l.kind = 2) ∧ (p.head
      = true) ∧ (p.atEnd = false) ∧ (s.fetch (s.launchOrigin l (64 + d) d 0) l.ctx l.tripVa 8 = Got.bytes b u)) ∧
    (∃ (s : State) (i : Nat) (k : Nat) (l : Launch) (c : Cmd), (s.launch i = some l) ∧ (l.ended = none) ∧ (l.taken = true) ∧ (∀ p ∈
      l.parts, p.phase = 3) ∧ (l.routePhase = 0 ∨ l.routePhase = 3) ∧ (l.kind ≠ 3) ∧ (l.cmd = some k) ∧ (s.cmdRunning k = some c)) :=
  ⟨⟨prS (tw, 1), prS (tw, 1), prW (tw, 1), 0, 0, tw, false, trec (tw, 1), { die := 0, phase := 2, heldSince := 4000 }, [], [], noErrors
      _, by decide +kernel⟩,
    ⟨prS ([4], 4), prS ([4], 4), prW ([4], 4), 0, 0, [4, 0, 0, 0, 0, 0, 0, 0], false, trec ([4], 4),
      { die := 0, phase := 2, heldSince := 4000 }, [], [], noErrors _, by decide +kernel⟩,
    ⟨loS 2 3, loU 2 3, 0, leVals 8 3, lopp 2, { die := 0, phase := 2, head := true, iter := 2 }, by decide +kernel⟩,
    ⟨loS 5 9, loU 5 9, 0, leVals 8 9, lopp 5, { die := 0, phase := 2, head := true, iter := 5 }, by decide +kernel⟩,
    ⟨laS fin, 3, 1, fin, taken (cmd 0x31 [] 5), by decide +kernel⟩⟩

theorem witness_TilesAreStartedAcceptedAndChecked :
    (∃ (s₀ : State) (s : State) (d : Nat) (core : Nat) (l : Launch) (p : DiePart) (ce : List Nat) (ue : List Nat), (s = s₀.readErrors ce
      ue) ∧ (List.find? (fun t => t.die == d && t.onCore == 34) s.tiles = none) ∧ (s.running d = some (l, p)) ∧ (p.tile ≠ []) ∧
      (s.coreTakes d core l.id = true) ∧ (s.imageHere l d 0 = true) ∧ (s.tileMisses l.ctx p.tile = none)) ∧
    (∃ (s : State) (v : State) (u : State) (i : Nat) (h : Nat) (l : Launch) (x : Tile) (crossed : Bool), (List.find? (fun t => t.id ==
      i) s.tiles = some x) ∧ (x.onCore ≠ 34) ∧ (((List.takeWhile (fun y => y.id != i) s.tiles).any fun y => y.die == x.die && y.onCore
      == x.onCore) = false) ∧ (s.launch x.launch = some l) ∧ (l.ended = none) ∧ (s.misdealt l x [] = []) ∧ (v = s.nanCount l x) ∧
      (v.redealOf l.ctx x = (crossed, h, false)) ∧ (v.putAll (v.launchOrigin l (64 + x.die) x.die 0) l.ctx (v.resultWrites l.ctx x.words
      (if x.redeals = 0 then none else some x.lastH)) = Wrote.ok u)) ∧
    (∃ (s : State) (i : Nat) (a : Nat) (l : Launch) (x : Tile), (List.find? (fun t => t.id == i) s.tiles = some x) ∧ (x.onCore < 34) ∧
      (x.die < 8) ∧ (a < 4) ∧ (((List.takeWhile (fun y => y.id != i) s.tiles).any fun y => y.die == x.die && y.onCore == x.onCore) =
      false) ∧ (s.launch x.launch = some l) ∧ (l.ended = none) ∧ (s.injects = []) ∧ (x.shares = []) ∧ (x.bad = []) ∧ (s.misdealt l x [4
      * x.onCore + a] = [(a, x.onCore, a)]) ∧ (s.armed x.die x.onCore a = false)) ∧
    (∃ (s : State) (d : Nat) (c : Nat) (a : Nat) (at' : Nat), (aFind s.arming (arrayKey d c a) = some at') ∧ (a < 4) ∧ (at' +
      s.armWindow < s.timeBase)) ∧
    (∃ (s : State) (v : Nat), (s.rd MTX.INJECT_ENABLE.ENABLE = 1) ∧ (bits v 4 6 < 34) ∧ (s.rd (MTX.CORE_STATUS.STATE (bits v 0 3) (bits
      v 4 6)) = 0)) :=
  ⟨⟨{ sramS with launches := [tl] }, { sramS with launches := [tl] }, 0, 3, tl, { die := 0, phase := 2, tile := tw }, [], [], noErrors
      _, by decide +kernel⟩,
    ⟨tiS, tiV, tiU, 6, tiH, tl2, tiX, false, by decide +kernel, by decide +kernel, by decide +kernel, by decide +kernel,
      by decide +kernel, tiS_agrees, rfl, tiV_once, wrote_ok (by decide +kernel)⟩,
    ⟨tiS, 6, 0, tl2, tiX, by decide +kernel, by decide +kernel, by decide +kernel, by decide +kernel, by decide +kernel,
      by decide +kernel, by decide +kernel, by decide +kernel, by decide +kernel, by decide +kernel, tiS_differs, by decide +kernel⟩,
    ⟨{ setting [(MTX.CORE_STATUS.ARMED 0 3, 5)] tiS with arming := [(14, 4000)], now := 10 ^ 13 }, 0, 3, 2, 4000, by decide +kernel⟩,
    ⟨setting [(MTX.INJECT_ENABLE.ENABLE, 1)] State.reset, 0 + 3 * 16 + 2 * 2 ^ 10, by decide +kernel⟩⟩

theorem witness_CoresBanksAndStockUnitsAreReplacedAndTested :
    (∃ (s : State) (die : Nat) (core : Nat) (d : CoreDraw), (die < 8) ∧ (s.bimon = true) ∧ (s.drawDue die = some d) ∧ ((s.unitsIn 0 die
      1).head? = some core)) ∧
    (∃ (s : State) (die : Nat) (d : CoreDraw), (die < 8) ∧ (s.bimon = true) ∧ (s.drawDue die = some d) ∧ (d.old < 34) ∧ (s.unitsIn 0 die
      1 = [])) ∧
    (∃ (s : State) (die : Nat) (core : Nat) (d : CoreDraw), (die < 8) ∧ (s.bimon = true) ∧ (core < 34) ∧ (d.old < 34) ∧ (d.old ≠ core) ∧
      (List.find? (fun d => d.die == die && d.drawn == some core && decide (d.due < s.nextTick)) s.draws = some d)) ∧
    (∃ (s : State) (die : Nat) (bank : Nat) (n : Nat), (die < 8) ∧ (s.bankDue die bank = true) ∧ ((s.unitsIn 1 die 1).head? = some n) ∧
      (s.physBank die bank ≠ n)) ∧
    (∃ (s : State) (k : Nat) (n : Nat) (c : Cmd), (s.cmdAt k 132 = some c) ∧ (checkStock true s c = none) ∧ (s.tickSince c.since = true)
      ∧ (s.rd (STOCK.CLASS.TESTING c.stockClass c.stockGroup) ≠ 1) ∧ ((s.unitsIn c.stockClass c.stockGroup 1).head? = some n) ∧
      (c.stockClass = 3 → ∀ p ∈ s.allShards, p.1 < 8 ∧ p.2.cmd ≠ some k)) ∧
    (∃ (s : State) (k : Nat) (c : Cmd) (failed : List Nat), (s.cmdAt k 132 = some c) ∧ (checkStock true s c = none) ∧ (s.tickSince
      c.since = true) ∧ (s.rd (STOCK.CLASS.TESTING c.stockClass c.stockGroup) ≠ 1) ∧ (∀ n ∈ s.unitsIn c.stockClass c.stockGroup 1, n ∈
      failed)) ∧
    (∃ (s : State) (k : Nat) (c : Cmd), (s.cmdAt k 133 = some c) ∧ (checkStock false s c = none) ∧ (s.tickSince c.since = true) ∧ (s.rd
      (STOCK.CLASS.TESTING c.stockClass c.stockGroup) ≠ 1)) ∧
    (∃ (s : State) (k : Nat) (c : Cmd), (s.cmdAt k 133 = some c) ∧ (checkStock false s c = none) ∧ (s.tickSince c.since = true) ∧ (s.rd
      (STOCK.CLASS.TESTING c.stockClass c.stockGroup) ≠ 1)) ∧
    (∃ (s : State) (cls : Nat) (g : Nat) (u : Nat), (g < groupsOf cls) ∧ (u < stockBuilt cls g) ∧ (s.bimon = true) ∧ (s.selfNow = some
      (unitKey cls g u))) ∧
    (∃ (s : State) (cls : Nat) (g : Nat) (u : Nat), (g < groupsOf cls) ∧ (u < stockBuilt cls g) ∧ (s.bimon = true) ∧ (s.selfNow = some
      (unitKey cls g u))) :=
  ⟨⟨awake (drS dr), 1, 32, dr, by decide +kernel⟩,
    ⟨awake (setting [(MTX.CORE_STATUS.STATE 1 32, 4), (MTX.CORE_STATUS.STATE 1 33, 4)] (drS dr)), 1, dr, by decide +kernel⟩,
    ⟨awake (setting [(MTX.CORE_STATUS.STATE 1 32, 3)] (drS { dr with drawn := some 32 })), 1, 32, { dr with drawn := some 32 },
      by decide +kernel⟩,
    ⟨awake { State.reset with badBanks := [(2, 9)] }, 2, 9, ((State.reset.unitsIn 1 2 1).head?).getD 0, by decide +kernel⟩,
    ⟨awake (having (stC 0x84 3) State.reset), 1, ((State.reset.unitsIn 4 1 1).head?).getD 0, stC 0x84 3, by decide +kernel⟩,
    ⟨awake (having (stC 0x84 3) State.reset), 1, stC 0x84 3, State.reset.unitsIn 4 1 1, by decide +kernel⟩,
    ⟨awake (having (stC 0x85 3) (State.reset.setUnit 4 1 3 4 4)), 1, stC 0x85 3, by decide +kernel⟩,
    ⟨awake (having (stC 0x85 3) (State.reset.setUnit 4 1 3 4 4)), 1, stC 0x85 3, by decide +kernel⟩,
    ⟨awake { State.reset with selfNow := some (unitKey 4 1 stU) }, 4, 1, stU, by decide +kernel⟩,
    ⟨awake { State.reset with selfNow := some (unitKey 4 1 stU) }, 4, 1, stU, by decide +kernel⟩⟩

theorem witness_HandsAreOpenedAndClosed :
    (∃ (s : State) (k : Nat) (n : Nat) (c : Cmd), (s.cmdAt k 64 = some c) ∧ (checkHandOpen s c = none) ∧ (s.turn c = true) ∧ (lateOpen s
      c = none) ∧ (c.ringed = false) ∧ (n = if c.flag6 = true then s.freeHand.getD 0 else c.hand)) ∧
    (∃ (s : State) (k : Nat) (n : Nat) (c : Cmd), (s.cmdAt k 64 = some c) ∧ (checkHandOpen s c = none) ∧ (s.turn c = true) ∧ (lateOpen s
      c = none) ∧ (c.ringed = false) ∧ (n = if c.flag6 = true then s.freeHand.getD 0 else c.hand)) :=
  ⟨⟨having opC ctxM, 1, 6, opC, by decide +kernel⟩,
    ⟨having opC2 (handS 0 1 hx), 1, 1, opC2, by decide +kernel⟩⟩

theorem witness_HandsAreOpenedAndClosed_2 :
    (∃ (s : State) (u : State) (k : Nat) (n : Nat) (c : Cmd) (b : List Nat), (s.cmdAt k 64 = some c) ∧ (checkHandOpen s c = none) ∧
      (s.turn c = true) ∧ (lateOpen s c = none) ∧ (c.ringed = true) ∧ (n = if c.flag6 = true then s.freeHand.getD 0 else c.hand) ∧
      (s.fetch c.origin c.context (c.p 1) 64 = Got.bytes b u) ∧ (u.ringOk n c.spans (wordsOf 8 8 b) = true)) ∧
    (∃ (s : State) (u : State) (k : Nat) (n : Nat) (c : Cmd) (b : List Nat), (s.cmdAt k 64 = some c) ∧ (checkHandOpen s c = none) ∧
      (s.turn c = true) ∧ (lateOpen s c = none) ∧ (c.ringed = true) ∧ (n = if c.flag6 = true then s.freeHand.getD 0 else c.hand) ∧
      (s.fetch c.origin c.context (c.p 1) 64 = Got.bytes b u) ∧ (u.ringOk n c.spans (wordsOf 8 8 b) = false)) :=
  ⟨⟨ringS ringW, gotS ((ringS ringW).fetch opR.origin 5 0x40 64), 1, 6, opR, ringW.flatMap (leVals 8), by decide +kernel⟩,
    ⟨ringS (1 :: ringW.drop 1), gotS ((ringS (1 :: ringW.drop 1)).fetch opR.origin 5 0x40 64), 1, 6, opR, (1 :: ringW.drop 1).flatMap
      (leVals 8), by decide +kernel⟩⟩

theorem witness_HandsAreOpenedAndClosed_3 :
    (∃ (s : State) (k : Nat) (c : Cmd), (s.cmdAt k 65 = some c) ∧ (checkHandClose s c = none) ∧ (s.turn c = true) ∧ (s.handCtx c.hand =
      c.context) ∧ (s.handState c.hand = 1 ∨ s.handState c.hand = 4 ∨ s.handState c.hand = 8) ∧ (s.handMoves c.hand = false) ∧
      (s.parksOn c.hand = false)) ∧
    (∃ (s : State) (k : Nat) (c : Cmd), (s.cmdAt k 65 = some c) ∧ (checkHandClose s c = none) ∧ (s.turn c = true) ∧ (s.handCtx c.hand =
      c.context) ∧ (s.handState c.hand = 1 ∨ s.handState c.hand = 4 ∨ s.handState c.hand = 8) ∧ (s.handMoves c.hand = true)) :=
  ⟨⟨having (cmd 0x41 [6] 5) (handS 6 4 hx), 1, cmd 0x41 [6] 5, by decide +kernel⟩,
    ⟨having (cmd 0x41 [6] 5) { handS 6 4 hx with wants := [{ mv 0 with cause := 4, owner := 6 }] }, 1, cmd 0x41 [6] 5,
      by decide +kernel⟩⟩

theorem witness_StepsAreTakenAssembledAndCompleted :
    (∃ (s : State) (k : Nat) (c : Cmd), (s.cmdAt k 66 = some c) ∧ (checkStep s c = none) ∧ (s.turn c = true) ∧ (lateStep s c = none)) ∧
    (∃ (s : State) (k : Nat) (c : Cmd), (s.cmdAt k 67 = some c) ∧ (checkPrefill s c = none) ∧ (s.turn c = true) ∧ (firstBad (s.handBad c
      c.hand) = none)) ∧
    (∃ (s : State) (x : Nat) (len : Nat) (c : Cmd), (s.inUse x = true) ∧ (s.rd TOPO.PARTITION.STATE ≠ 3) ∧ (s.stepOf x = none) ∧
      (s.switchOf x = none) ∧ ((s.routers.any fun r => r.ctx == x && r.slot == s.ctxSlot x) = false) ∧ (s.repairHolds (s.ctxSlot x) =
      false) ∧ (s.stepCmds x = [c]) ∧ (c.opcode = 66) ∧ (s.handState c.hand = 1) ∧ (s.handCtx c.hand = x) ∧ (s.rd
      (SERVE.SPEC_STATE.VARIANT c.hand) = 0) ∧ ((s.hand c.hand).ring = []) ∧ (s.rd (SERVE.SPEC_STATE.ENABLED c.hand) = 0) ∧ (len = s.rd
      (SERVE.HAND_STATE.COMMITTED c.hand)) ∧ (s.needs c.hand len = []) ∧ (s.rd SERVE.CACHE_POOL.RESERVE ≤
      { s with cacheSet := s.cacheRegs }.poolRoom)) ∧
    (∃ (s : State) (x : Nat) (len : Nat) (c : Cmd), (s.inUse x = true) ∧ (s.rd TOPO.PARTITION.STATE ≠ 3) ∧ (s.stepOf x = none) ∧
      (s.switchOf x = none) ∧ ((s.routers.any fun r => r.ctx == x && r.slot == s.ctxSlot x) = false) ∧ (s.repairHolds (s.ctxSlot x) =
      false) ∧ (s.stepCmds x = [c]) ∧ (c.opcode = 66) ∧ (s.handState c.hand = 1) ∧ (s.handCtx c.hand = x) ∧ (s.rd
      (SERVE.SPEC_STATE.VARIANT c.hand) = 0) ∧ ((s.hand c.hand).ring = []) ∧ (s.rd (SERVE.SPEC_STATE.ENABLED c.hand) = 0) ∧ (len = s.rd
      (SERVE.HAND_STATE.COMMITTED c.hand)) ∧ (s.needs c.hand len = []) ∧ (s.rd SERVE.CACHE_POOL.RESERVE ≤
      { s with cacheSet := s.cacheRegs }.poolRoom)) ∧
    (∃ (s : State) (x : Nat) (tok : Nat) (u : Step) (i : StepItem) (c : Cmd), (s.stepOf x = some u) ∧ (u.launch = none) ∧ (u.layers =
      []) ∧ (u.items = [i]) ∧ ((s.areas.any fun a => a.ctx == x && a.slot == u.slot && a.parity == u.no % 2) = false) ∧ (i.hand < 64) ∧
      (s.handState i.hand = 2) ∧ ((s.hand i.hand).evict = false) ∧ (s.cmdOf i.cmd = some c) ∧ (c.status = none) ∧ (c.outVa = 0) ∧
      (c.detail = 0) ∧ (i.ended = none) ∧ (i.chunk = false) ∧ (i.depth = 0) ∧ (i.last = true) ∧ (i.skipped = 0) ∧ (i.overflowed = 0) ∧
      (tok = s.followToken u.slot i.hand 0) ∧ ({ s with steps := List.filter (fun y => y.ctx != x) s.steps }.reserve ≤
      { s with steps := List.filter (fun y => y.ctx != x) s.steps }.poolRoom)) :=
  ⟨⟨having (cmd 0x42 [6] 5) (handS 6 1 hx), 1, cmd 0x42 [6] 5, by decide +kernel⟩,
    ⟨having (cmd 0x43 [6 + 64 + 3 * 2 ^ 16, 0x40] 5) (handS 6 1 { hx with ran := 9 }), 1, cmd 0x43 [6 + 64 + 3 * 2 ^ 16, 0x40] 5,
      by decide +kernel⟩,
    ⟨having (taken (cmd 0x42 [6] 5)) (handS 6 1 hx), 5, 9, taken (cmd 0x42 [6] 5), by decide +kernel⟩,
    ⟨having (taken (cmd 0x42 [6 + 64, 0, 55] 5)) (handS 6 1 hx), 5, 9, taken (cmd 0x42 [6 + 64, 0, 55] 5), by decide +kernel⟩,
    ⟨scS, 5, scS.followToken 8 6 0, sp, si, taken (cmd 0x42 [6] 5), by decide +kernel, by decide +kernel, by decide +kernel,
      by decide +kernel, by decide +kernel, by decide +kernel, by decide +kernel, by decide +kernel, by decide +kernel,
      by decide +kernel, by decide +kernel, by decide +kernel, by decide +kernel, by decide +kernel, by decide +kernel,
      by decide +kernel, by decide +kernel, by decide +kernel, rfl, by decide +kernel⟩⟩

theorem witness_HandsAreEvictedAndReturn :
    (∃ (s : State) (n : Nat), (n < 64) ∧ (s.handState n = 3) ∧ (s.handMoves n = false)) ∧
    (∃ (s : State) (n : Nat), (n < 64) ∧ (s.handState n = 4) ∧ (s.covered n = true) ∧ (s.handsIn 5 = []) ∧ (s.handMoves n = false) ∧ (∀
      m < 64, m ≠ n → s.handState m = 4 → s.covered m = true → keyLess (s.returnKey m) (s.returnKey n) = false)) ∧
    (∃ (s : State) (n : Nat), (s.covered n = false)) ∧
    (∃ (s : State) (n : Nat), (n < 64) ∧ (s.handState n = 5) ∧ (s.handMoves n = false)) :=
  ⟨⟨handS 6 3 hx, 6, by decide +kernel⟩,
    ⟨handS 6 4 hx, 6, by decide +kernel⟩,
    ⟨setting [(SERVE.CACHE_POOL.PAGES, 0)] (handS 6 4 hx), 6, by decide +kernel⟩,
    ⟨handS 6 5 hx, 6, by decide +kernel⟩⟩

theorem witness_HandsAreParkedRenewedAndUnparked :
    (∃ (s : State) (k : Nat) (c : Cmd), (s.cmdAt k 68 = some c) ∧ (c.flag6 = false) ∧ (checkPark s c = none) ∧ (s.turn c = true) ∧
      (latePark s c = none) ∧ (∃ e < 4096, (s.kittyAt e).state = 0) ∧ (s.handState c.hand = 4)) ∧
    (∃ (s : State) (k : Nat) (c : Cmd), (s.cmdAt k 68 = some c) ∧ (c.flag6 = false) ∧ (checkPark s c = none) ∧ (s.turn c = true) ∧
      (latePark s c = none) ∧ (∃ e < 4096, (s.kittyAt e).state = 0) ∧ (s.handState c.hand = 1) ∧ (s.attached (s.kittyHost c) = true) ∧
      (0 < s.areaSlots (s.kittyHost c) true) ∧ (((s.hand c.hand).pages c.hand).length ≤ (s.slotsFree (s.kittyHost c) true).length)) ∧
    (∃ (s : State) (k : Nat) (e : Nat) (c : Cmd), (s.cmdAt k 68 = some c) ∧ (c.flag6 = true) ∧ (checkPark s c = none) ∧ (s.handleEntry
      (c.p 1) = some e) ∧ ((s.kittyAt e).state = 2)) ∧
    (∃ (s : State) (k : Nat) (c : Cmd), (s.cmdAt k 68 = some c) ∧ (c.flag6 = true) ∧ (checkPark s c = none) ∧ (s.handleEntry (c.p 1) =
      none)) ∧
    (∃ (s : State) (n : Nat) (k : Nat) (c : Cmd), (n < 64) ∧ (s.handState n = 6) ∧ (s.handMoves n = false) ∧ ((s.hand n).cmd = some k) ∧
      (c ∈ s.cmds) ∧ (c.id = k) ∧ (c.status = none)) ∧
    (∃ (s : State) (n : Nat) (k : Nat) (c : Cmd), (n < 64) ∧ (s.parksOn n = true) ∧ (s.handMoves n = false) ∧ ((s.hand n).cmd = some k)
      ∧ (c ∈ s.cmds) ∧ (c.id = k) ∧ (c.status = none)) ∧
    (∃ (s : State) (k : Nat) (e : Nat) (c : Cmd), (s.cmdAt k 69 = some c) ∧ (c.flag6 = false) ∧ (checkUnpark s c = none) ∧ (s.turn c =
      true) ∧ (lateUnpark s c = none) ∧ (s.handleEntry (c.p 1) = some e) ∧ ((s.kittyAt e).state = 2) ∧ (c.p 2 = 0) ∧ (bits (s.kittyAt
      e).spec 0 1 = 1 → s.leadOk (bits (s.kittyAt e).spec 16 3) = true) ∧ (((s.kittyAt e).hand.pages c.hand).length + s.reserve ≤
      s.poolRoom)) ∧
    (∃ (s : State) (k : Nat) (e : Nat) (c : Cmd), (s.cmdAt k 69 = some c) ∧ (c.flag6 = false) ∧ (checkUnpark s c = none) ∧ (s.turn c =
      true) ∧ (lateUnpark s c = none) ∧ (s.handleEntry (c.p 1) = some e) ∧ ((s.kittyAt e).state = 2) ∧ (c.p 2 = 0) ∧ (bits (s.kittyAt
      e).spec 0 1 = 1) ∧ (s.leadOk (bits (s.kittyAt e).spec 16 3) = false) ∧ (((s.kittyAt e).hand.pages c.hand).length + s.reserve ≤
      s.poolRoom)) ∧
    (∃ (s : State) (u : State) (k : Nat) (e : Nat) (c : Cmd) (x : Hand), (s.cmdAt k 69 = some c) ∧ (c.flag6 = false) ∧ (checkUnpark s c
      = none) ∧ (s.turn c = true) ∧ (lateUnpark s c = none) ∧ (s.handleEntry (c.p 1) = some e) ∧ ((s.kittyAt e).state = 2) ∧ (c.p 2 ≠ 0)
      ∧ (((s.kittyAt e).hand.pages c.hand).length + s.reserve ≤ s.poolRoom) ∧ (s.rebaseCopy c.context (s.kittyAt e).hand (c.p 2) = some
      (x, u))) ∧
    (∃ (s : State) (n : Nat) (k : Nat) (c : Cmd), (n < 64) ∧ (s.handState n = 7) ∧ (s.handMoves n = false) ∧ ((s.hand n).cmd = some k) ∧
      (c ∈ s.cmds) ∧ (c.id = k) ∧ (c.status = none)) ∧
    (∃ (s : State) (e : Nat), (s.tickFrom (s.kittyAt e).ends = true) ∧ ((s.kittyAt e).state = 2)) ∧
    (∃ (s : State) (e : Nat), (s.tickFrom (s.kittyAt e).ends = false)) :=
  ⟨⟨having (pkC 0) (handS 6 4 hx), 1, pkC 0, by decide +kernel⟩,
    ⟨having (pkC 0x80) (handS 6 1 { hx with spans := [] }), 1, pkC 0x80, by decide +kernel⟩,
    ⟨having (rnC 0x3004) (ktS 2 (handS 6 1 hx)), 1, 4, rnC 0x3004, by decide +kernel⟩,
    ⟨having (rnC 0x2004) (ktS 2 (handS 6 1 hx)), 1, rnC 0x2004, by decide +kernel⟩,
    ⟨having (taken (pkC 0)) (ktS 1 (handS 6 6 { hx with cmd := some 1, entry := 4 })), 6, 1, taken (pkC 0), by decide +kernel⟩,
    ⟨pkA, 6, 1, taken (pkC 0), by decide +kernel⟩,
    ⟨having (cmd 0x45 [7, 0x3004] 5) (ktS 2 (handS 6 1 {})), 1, 4, cmd 0x45 [7, 0x3004] 5, by decide +kernel⟩,
    ⟨having (cmd 0x45 [7, 0x3004] 5) unl, 1, 4, cmd 0x45 [7, 0x3004] 5, by decide +kernel⟩,
    ⟨unR, unX.2, 1, 4, unC, unX.1, by decide +kernel⟩,
    ⟨having (taken (cmd 0x45 [6, 0x3004] 5)) (ktS 3 (handS 6 7 { hx with cmd := some 1, entry := 4 })), 6, 1, taken (cmd 0x45 [6,
      0x3004] 5), by decide +kernel⟩,
    ⟨awake (ktS 2 (handS 6 1 hx)), 4, by decide +kernel⟩,
    ⟨ktS 2 (handS 6 1 hx), 4, by decide +kernel⟩⟩

theorem witness_RoutersAreConfiguredTunedAndRead :
    (∃ (s : State) (u : State) (k : Nat) (slot : Nat) (c : Cmd) (r : Router) (b : List Nat), (s.cmdAt k 80 = some c) ∧ (c.configures =
      true) ∧ (checkRouterConfig s c = none) ∧ (slot = s.routerSlot c.context) ∧ (s.fetch c.origin c.context (c.p 1) (16 * c.experts) =
      Got.bytes b u) ∧ (r =
      { c.router slot with place := List.map (fun i => placeEntry (wordsOf 8 2 (List.drop (16 * i) b))) (List.range c.experts) }) ∧
      (u.placeBad r (List.map (fun i => wordsOf 8 2 (List.drop (16 * i) b)) (List.range c.experts)) = none)) ∧
    (∃ (s : State) (k : Nat) (c : Cmd), (s.cmdAt k 80 = some c) ∧ (c.setShape = true) ∧ (checkRouterConfig s c = none)) ∧
    (∃ (s : State) (k : Nat) (c : Cmd), (s.cmdAt k 80 = some c) ∧ (c.rmRouter = true) ∧ (checkRouterConfig s c = none)) ∧
    (∃ (s : State) (k : Nat) (c : Cmd), (s.cmdAt k 81 = some c) ∧ (checkBiasLoopConfig s c = none) ∧ (bit (c.p 0) 1 = false) ∧
      (s.hasReqs c.origin.who = false)) ∧
    (∃ (s : State) (u : State) (k : Nat) (c : Cmd), (s.cmdAt k 81 = some c) ∧ (checkBiasLoopConfig s c = none) ∧ (bit (c.p 0) 1 = true)
      ∧ (s.putAll c.origin c.context (List.flatMap (fun r => [(r.biasVa + 64, List.replicate (4 * r.experts) 0), (r.biasVa + 64 +
      r.biasStride, List.replicate (4 * r.experts) 0)]) (List.filter (fun r => r.ctx == c.context && r.slot == s.ctxSlot c.context &&
      c.layerRange.contains r.layer) s.routers)) = Wrote.ok u) ∧ (u.hasReqs c.origin.who = false)) ∧
    (∃ (s : State) (c : Nat) (slot : Nat) (layer : Nat) (r : Router), (s.router c slot layer = some r) ∧ (s.bimon = true) ∧
      (r.lastPeriod ≠ s.biasPeriod) ∧ ((r.applied s.biasPeriod).loopOn = false)) ∧
    (∃ (s : State) (v : State) (w : State) (u : State) (c : Nat) (slot : Nat) (layer : Nat) (total : Nat) (r : Router) (q : Router) (b :
      List Nat) (n : List Nat), (s.router c slot layer = some r) ∧ (s.bimon = true) ∧ (r.lastPeriod ≠ s.biasPeriod) ∧ (q = r.applied
      s.biasPeriod) ∧ (q.loopOn = true) ∧ (s.fetch q.loopOrigin c q.biasVa q.biasBytes = Got.bytes b v) ∧ (v.fetch q.loopOrigin c
      q.countVa q.countBytes = Got.bytes n w) ∧ (total = (List.map (fun e => recField n e 0) q.validList).sum) ∧ (total < q.minSamples)
      ∧ (w.putAll q.loopOrigin c [(q.countVa, q.countMap n id fun e i x => if i = 0 ∧ q.valid e = true then 0 else x)] = Wrote.ok u)) ∧
    (∃ (s : State) (v : State) (w : State) (u : State) (c : Nat) (slot : Nat) (layer : Nat) (total : Nat) (mean : Nat) (sel : Nat) (r :
      Router) (q : Router) (b : List Nat) (n : List Nat), (s.router c slot layer = some r) ∧ (s.bimon = true) ∧ (r.lastPeriod ≠
      s.biasPeriod) ∧ (q = r.applied s.biasPeriod) ∧ (q.loopOn = true) ∧ (s.fetch q.loopOrigin c q.biasVa q.biasBytes = Got.bytes b v) ∧
      (v.fetch q.loopOrigin c q.countVa q.countBytes = Got.bytes n w) ∧ (total = (List.map (fun e => recField n e 0) q.validList).sum) ∧
      (q.minSamples ≤ total) ∧ (mean = div32 (nat32 total) (nat32 q.validList.length)) ∧ (sel = copyOf b) ∧ (w.putAll q.loopOrigin c
      ((q.countVa, q.countMap n id fun e i x => if i = 0 ∧ q.valid e = true then 0 else x) :: List.map (fun e => (q.biasVa + 64 + (1 -
      sel) * q.biasStride + 4 * e, leVals 4 (biasNext q (recField n e 0) mean (q.biasIn b sel e)))) q.validList ++ [(q.biasVa, leVals 8
      (leOf (List.take 8 b) - sel + (1 - sel)))]) = Wrote.ok u)) ∧
    (∃ (s : State) (c : Nat) (slot : Nat) (layer : Nat) (r : Router), (s.router c slot layer = some r) ∧ (s.bimon = false ∨ r.lastPeriod
      = s.biasPeriod)) ∧
    (∃ (s : State) (c : Nat) (slot : Nat) (layer : Nat) (r : Router), (s.router c slot layer = some r) ∧ (s.bimon = false ∨ r.lastPeriod
      = s.biasPeriod)) ∧
    (∃ (s : State) (v : State) (w : State) (u : State) (x : State) (k : Nat) (sel : Nat) (lost : Nat) (c : Cmd) (r : Router) (bb : List
      Nat) (b : List Nat), (s.cmdAt k 82 = some c) ∧ (checkRouterStats s c = none) ∧ (c.aux.headD 0 ≠ 9) ∧ (s.router c.context
      (s.ctxSlot c.context) c.layer = some r) ∧ (s.fetch c.origin c.context r.biasVa r.biasBytes = Got.bytes bb v) ∧ (v.fetch c.origin
      c.context r.countVa r.countBytes = Got.bytes b w) ∧ (sel = (List.map (fun e => recField b e 1) (List.range r.experts)).sum) ∧
      (lost = (List.map (fun e => recField b e 3) (List.range r.experts)).sum) ∧ (w.put c.origin c.context (c.p 1) (List.flatMap (fun e
      => leVals 4 (recField b e 1) ++ leVals 4 (recField b e 2) ++ leVals 4 (recField b e 3) ++ leVals 4 (r.biasIn bb (copyOf bb) e))
      (List.range r.experts)) = Wrote.ok u) ∧ (u.hasReqs c.origin.who = false) ∧ (x = (u.dropGot c.origin.who).cmdMap k fun d =>
      { d with out0 := sel, out1 := lost, out2 := leOf (List.take 8 b), aux := 9 :: b }) ∧ (bit (c.p 0) 10 = false)) ∧
    (∃ (s : State) (v : State) (w : State) (u : State) (x : State) (k : Nat) (sel : Nat) (lost : Nat) (c : Cmd) (r : Router) (bb : List
      Nat) (b : List Nat) (y : State), (s.cmdAt k 82 = some c) ∧ (checkRouterStats s c = none) ∧ (c.aux.headD 0 ≠ 9) ∧ (s.router
      c.context (s.ctxSlot c.context) c.layer = some r) ∧ (s.fetch c.origin c.context r.biasVa r.biasBytes = Got.bytes bb v) ∧ (v.fetch
      c.origin c.context r.countVa r.countBytes = Got.bytes b w) ∧ (sel = (List.map (fun e => recField b e 1) (List.range
      r.experts)).sum) ∧ (lost = (List.map (fun e => recField b e 3) (List.range r.experts)).sum) ∧ (w.put c.origin c.context (c.p 1)
      (List.flatMap (fun e => leVals 4 (recField b e 1) ++ leVals 4 (recField b e 2) ++ leVals 4 (recField b e 3) ++ leVals 4 (r.biasIn
      bb (copyOf bb) e)) (List.range r.experts)) = Wrote.ok u) ∧ (u.hasReqs c.origin.who = false) ∧ (x = (u.dropGot c.origin.who).cmdMap
      k fun d => { d with out0 := sel, out1 := lost, out2 := leOf (List.take 8 b), aux := 9 :: b }) ∧ (bit (c.p 0) 10 = true) ∧
      ((x.countsEdit c.origin r fun b' => r.countMap b' (fun x => x - leOf (List.take 8 b)) fun e i z => if i = 0 then z else z -
      recField b e i) = Wrote.ok y) ∧ (y.hasReqs c.origin.who = false)) :=
  ⟨⟨rtX, gotS rtF, 1, 8, rtC, rt, rtB, by decide +kernel⟩,
    ⟨having (cmd 0x50 [2 ^ 11 + 2 * 2 ^ 12] 5) ctxM, 1, cmd 0x50 [2 ^ 11 + 2 * 2 ^ 12] 5, by decide +kernel⟩,
    ⟨having (cmd 0x50 [2 + 2 ^ 10] 5) (rtS rt), 1, cmd 0x50 [2 + 2 ^ 10] 5, by decide +kernel⟩,
    ⟨having blC (rtS rt), 1, blC, by decide +kernel⟩,
    ⟨blS, blU, 1, blR, by decide +kernel⟩,
    ⟨buS rt, 5, 8, 2, rt, by decide +kernel⟩,
    ⟨buC 3, gotS (buF 3), gotS (buG 3), wroteS ((gotS (buG 3)).putAll rtL.loopOrigin 5 [bu0 3]), 5, 8, 2, 3, rtL, rtL, gotB (buF 3),
      gotB (buG 3), by decide +kernel⟩,
    ⟨buC 9, gotS (buF 9), gotS (buG 9), wroteS ((gotS (buG 9)).putAll rtL.loopOrigin 5 (bu0 9 :: bu1 9)), 5, 8, 2, 9, div32 (nat32 9)
      (nat32 1), 0, rtL, rtL, gotB (buF 9), gotB (buG 9), by decide +kernel⟩,
    ⟨rtS rt, 5, 8, 2, rt, by decide +kernel⟩,
    ⟨buS { rt with lastPeriod := 7 }, 5, 8, 2, { rt with lastPeriod := 7 }, by decide +kernel⟩,
    ⟨rsE rsC0, gotS (rsF rsC0), gotS (rsG rsC0), rsU rsC0, rsT rsC0, 1, 9, 2, rsC0, rt, gotB (rsF rsC0), gotB (rsG rsC0),
      by decide +kernel⟩,
    ⟨rsE rsC1, gotS (rsF rsC1), gotS (rsG rsC1), rsU rsC1, rsT rsC1, 1, 9, 2, rsC1, rt, gotB (rsF rsC1), gotB (rsG rsC1), rsY rsC1,
      by decide +kernel⟩⟩

theorem witness_RoutedLayersAreDispatchedDealtAndCombined :
    (∃ (s : State) (v : State) (w : State) (u : State) (i : Nat) (l : Launch) (r : Router) (b : List Nat) (as : List (List Nat)),
      (s.launch i = some l) ∧ (s.mayRoute l = true) ∧ (s.launchRouter l = some r) ∧ (s.isDonor = false) ∧ (l.gated = false) ∧ (s.fetch
      (s.routeOrigin l 0) r.ctx r.biasVa r.biasBytes = Got.bytes b v) ∧ (as = List.flatMap (rowAssign r (r.biasIn b (copyOf b))
      v.freeCtr) (List.range (v.gateRows l))) ∧ ((v.countsEdit (s.routeOrigin l 0) r fun c => r.countMap c id fun e j x => if j < 2 then
      sat32 x (List.filter (fun a => a.getD 2 0 == e) as).length else x) = Wrote.ok w) ∧ (w.put (s.routeOrigin l 0) l.ctx (w.freeRow
      l.ctx 8 (v.freeCtr + 2 * v.gateRows l)) (leVals 8 0) = Wrote.ok u)) ∧
    (∃ (s : State) (i : Nat) (e : Nat) (n : Nat) (k : Nat) (leaf : Nat) (l : Launch) (r : Router), (s.launch i = some l) ∧ (s.mayRoute l
      = true) ∧ (s.launchRouter l = some r) ∧ (s.isDonor = false) ∧ (l.gated = true) ∧ (l.entries = [[e, 0, 0, 0]]) ∧ (n = (l.to
      e).length) ∧ (n ≠ 0) ∧ (s.access l.ctx (r.areaVa e (l.stepNo % 2)) true true = Access1.ok (Loc.here k) leaf)) ∧
    (∃ (s : State) (i : Nat) (e : Nat) (n : Nat) (chip : Nat) (host : Nat) (off : Nat) (leaf : Nat) (l : Launch) (r : Router), (s.launch
      i = some l) ∧ (s.mayRoute l = true) ∧ (s.launchRouter l = some r) ∧ (s.isDonor = false) ∧ (l.gated = true) ∧ (l.counted = false) ∧
      (l.sent = false) ∧ (l.entries = [[e, 0, 0, 0]]) ∧ (n = (l.to e).length) ∧ (n ≠ 0) ∧ (s.access l.ctx (r.areaVa e (l.stepNo % 2))
      true true = Access1.ok (Loc.far chip host off) leaf)) ∧
    (∃ (s : State) (u : State) (i : Nat) (l : Launch) (r : Router) (skip : List Nat) (lost : List Nat), (s.launch i = some l) ∧
      (s.mayRoute l = true) ∧ (s.launchRouter l = some r) ∧ (s.isDonor = false) ∧ (l.gated = true) ∧ (l.counted = false) ∧ (l.sent =
      false) ∧ (∀ w ∈ l.entries, w.getD 1 0 = 2) ∧ (s.queueLen (s.routeMover l) l.moverQueue < 64) ∧ (skip = l.skippedRows (s.gateRows
      l)) ∧ (lost = List.map (fun a => a.getD 0 0) (List.flatMap (fun w => List.drop (w.getD 3 0) (l.to (w.getD 0 0))) l.entries)) ∧
      ((s.countsEdit (s.routeOrigin l 1) r fun c => r.countMap c (fun n => sat64 n skip.length) fun e j x => sat32 x (if j = 2 then
      (Option.map (fun w => w.getD 3 0) (List.find? (fun w => w.getD 0 0 == e) l.entries)).getD 0 else if j = 3 then (l.to e).length -
      (Option.map (fun w => w.getD 3 0) (List.find? (fun w => w.getD 0 0 == e) l.entries)).getD 0 else 0)) = Wrote.ok u)) ∧
    (∃ (s : State) (i : Nat) (l : Launch) (r : Router), (s.launch i = some l) ∧ (s.mayRoute l = true) ∧ (s.launchRouter l = some r) ∧
      (s.isDonor = true ∨ l.gated = true ∧ l.counted = true ∧ l.sent = true ∧ (∀ w ∈ l.entries, w.getD 1 0 = 2) ∧ s.routeBusy i = false
      ∧ s.sharedLeft l r = false)) ∧
    (∃ (s : State) (i : Nat) (l : Launch) (r : Router), (s.launch i = some l) ∧ (s.mayRoute l = true) ∧ (s.launchRouter l = some r) ∧
      (s.isDonor = true ∨ l.gated = true ∧ l.counted = true ∧ l.sent = true ∧ (∀ w ∈ l.entries, w.getD 1 0 = 2) ∧ s.routeBusy i = false
      ∧ s.sharedLeft l r = false)) ∧
    (∃ (s : State) (v : State) (w : State) (u : State) (c : Nat) (slot : Nat) (layer : Nat) (e : Nat) (par : Nat) (n : Nat) (r : Router)
      (a : Area) (h : List Nat) (rows : List Nat), (s.router c slot layer = some r) ∧ (s.noteArrivals.areaOf c slot layer e par = some
      a) ∧ (a.state = 0) ∧ (s.noteArrivals.fetch (s.noteArrivals.areaOrigin a) c (r.areaVa e par) 64 = Got.bytes h v) ∧ (leOf (List.take
      8 (List.drop 16 h)) % 2 ^ 16 ≠ 0) ∧ (leOf (List.take 8 (List.drop 16 h)) % 2 ^ 16 ≤ leOf (List.take 8 (List.drop 8 h))) ∧ (n = min
      (leOf (List.take 8 h)) r.capacity) ∧ (v.fetch (v.areaOrigin a) c (r.areaVa e par + 64) (n * (64 + r.rowBytes)) = Got.bytes rows w)
      ∧ (w.put (w.areaOrigin a) c (r.areaVa e par + 24) (leVals 4 n) = Wrote.ok u)) ∧
    (∃ (s : State) (v : State) (w : State) (u : State) (c : Nat) (slot : Nat) (layer : Nat) (e : Nat) (par : Nat) (n : Nat) (r : Router)
      (a : Area) (h : List Nat) (rows : List Nat), (s.router c slot layer = some r) ∧ (s.noteArrivals.areaOf c slot layer e par = some
      a) ∧ (a.state = 0) ∧ (s.noteArrivals.fetch (s.noteArrivals.areaOrigin a) c (r.areaVa e par) 64 = Got.bytes h v) ∧ (leOf (List.take
      8 (List.drop 16 h)) % 2 ^ 16 ≠ 0) ∧ (leOf (List.take 8 (List.drop 16 h)) % 2 ^ 16 ≤ leOf (List.take 8 (List.drop 8 h))) ∧ (n = min
      (leOf (List.take 8 h)) r.capacity) ∧ (v.fetch (v.areaOrigin a) c (r.areaVa e par + 64) (n * (64 + r.rowBytes)) = Got.bytes rows w)
      ∧ (w.put (w.areaOrigin a) c (r.areaVa e par + 24) (leVals 4 n) = Wrote.ok u)) ∧
    (∃ (s : State) (c : Nat) (slot : Nat) (layer : Nat) (e : Nat) (par : Nat) (r : Router) (a : Area), (s.router c slot layer = some r)
      ∧ (s.areaOf c slot layer e par = some a) ∧ (s.areaHeld a = false) ∧ (a.state = 1) ∧ (a.dealt = true)) ∧
    (∃ (s : State) (v : State) (c : Nat) (slot : Nat) (layer : Nat) (e : Nat) (par : Nat) (r : Router) (a : Area) (b : List Nat),
      (s.router c slot layer = some r) ∧ (s.areaOf c slot layer e par = some a) ∧ (s.areaHeld a = false) ∧ (a.state = 2) ∧ (a.bad =
      none) ∧ (a.count = a.sent + 1) ∧ (s.queueLen (s.areaMover a).1 (s.areaMover a).2 < 64) ∧ (s.fetch (s.areaOrigin a) c (r.areaVa e
      par + 64 + a.sent * (64 + r.rowBytes)) 32 = Got.bytes b v)) ∧
    (∃ (s : State) (v : State) (c : Nat) (slot : Nat) (layer : Nat) (e : Nat) (par : Nat) (w : Nat) (leaf : Nat) (r : Router) (a : Area)
      (b : List Nat) (q : Nat × Nat), (s.router c slot layer = some r) ∧ (s.areaOf c slot layer e par = some a) ∧ (s.areaHeld a = false)
      ∧ (a.state = 2) ∧ (a.bad = none) ∧ (0 < a.count) ∧ (a.count ≤ a.sent) ∧ (s.areaBusy a = false) ∧ (s.fetch (s.areaOrigin a) c
      (r.areaVa e par + 64) (a.count * (64 + r.rowBytes)) = Got.bytes b v) ∧ (a.told = []) ∧ (∀ i < a.count, (originOf (List.drop (i *
      (64 + r.rowBytes)) b)).2.2 = q) ∧ (v.access c q.2 true true = Access1.ok (Loc.here w) leaf)) ∧
    (∃ (s : State) (u : State) (i : Nat) (l : Launch) (b : List Nat), (s.launch i = some l) ∧ (l.routePhase = 2) ∧ (s.isDonor = false) ∧
      (s.fetch (s.routeOrigin l 2) l.ctx l.doneVa 8 = Got.bytes b u)) ∧
    (∃ (s : State) (u : State) (i : Nat) (l : Launch) (b : List Nat), (s.launch i = some l) ∧ (l.routePhase = 2) ∧ (s.isDonor = false) ∧
      (s.fetch (s.routeOrigin l 2) l.ctx l.doneVa 8 = Got.bytes b u)) ∧
    (∃ (s : State) (c : Nat) (slot : Nat) (layer : Nat) (e : Nat) (par : Nat) (k : Nat) (r : Router) (a : Area), (s.router c slot layer
      = some r) ∧ (s.areaOf c slot layer e par = some a) ∧ (s.keyAt r.ctx (r.areaVa e par) = some k) ∧ (a.state = 3 ∨ a.state = 4) ∧
      (s.areaOut a = false)) ∧
    (∃ (s : State) (c : Nat) (slot : Nat) (layer : Nat) (e : Nat) (par : Nat) (k : Nat) (r : Router) (a : Area), (s.router c slot layer
      = some r) ∧ (s.areaOf c slot layer e par = some a) ∧ (s.keyAt r.ctx (r.areaVa e par) = some k) ∧ (a.state = 3 ∨ a.state = 4) ∧
      (s.areaOut a = false)) ∧
    (∃ (s₀ : State) (s : State) (d : Nat) (n : Nat) (layer : Nat) (group : Nat) (pos : Nat) (total : Nat) (l : Launch) (w : Window) (ce
      : List Nat) (ue : List Nat), (s = s₀.readErrors ce ue) ∧ (s.dealTarget d = some l) ∧ (l.kind ≠ 1) ∧ (l.kind ≠ 2) ∧ ((if l.taken =
      true then l.slot else (s.ctx l.ctx).slot) = some n) ∧ (s.windowOf l.ctx d = some w) ∧ (l.ended = none) ∧ (l.repairOn = []) ∧
      (s.slotState n ≠ 4) ∧ ((s.imagesFor l d).headD (l.layer, 0) = (layer, group)) ∧ (w.halfOf n layer group = none) ∧ (total =
      Config.layerBytes n layer w.die) ∧ (total ≤ w.half) ∧ (pos = if w.tag (1 - w.current) = [n, layer, group, 0] then w.resume else 0)
      ∧ (s.imageHeld n (Config.layerPlace n layer w.die 1024 + pos) (min 4096 (total - pos)) = false) ∧ (s.badBlock n (Config.layerPlace
      n layer w.die 1024 + pos) (min 4096 (total - pos)) = none)) ∧
    (∃ (s₀ : State) (s : State) (d : Nat) (base : Nat) (total : Nat) (pos : Nat) (place : Nat) (a : Area) (w : Window) (ce : List Nat)
      (ue : List Nat), (s = s₀.readErrors ce ue) ∧ (s.nextArea d = some a) ∧ (s.windowOf a.ctx d = some w) ∧ (total = Config.expertBytes
      a.slot a.layer a.expert d) ∧ (base = Config.layerBytes a.slot a.layer d) ∧ (base + total ≤ w.half) ∧ (pos = if (s.dealCur d).1 =
      a.order then (s.dealCur d).2 else 0) ∧ (s.expertPlace w a base total = some place) ∧ (s.imageHeld a.slot (Config.layerPlace a.slot
      a.layer d a.expert + pos) (min 4096 (total - pos)) = false) ∧ (s.badBlock a.slot (Config.layerPlace a.slot a.layer d a.expert +
      pos) (min 4096 (total - pos)) = none)) :=
  ⟨by
    obtain ⟨u, h⟩ := rgS_put
    exact ⟨rgS 0, gotS (rgF 0), rgW 0, u, 3, rg 0, rt, gotB (rgF 0), [], by decide +kernel, by decide +kernel, by decide +kernel, by decide +kernel, by decide +kernel, got_ok (by decide +kernel), rfl, wrote_ok (by decide +kernel), h⟩,
    ⟨hd [4] (rlS r1), 3, 0, 1, devKey 0x4001_0000, leafAt State.reset.chip 0x4000_0000, r1, rt, by decide +kernel⟩,
    ⟨r1G, 3, 0, 1, 3, 0, 0x4001_0000, leafAt 3 0x4000_0000, r1, rtFar, by decide +kernel⟩,
    ⟨rlS r3, r3U, 3, r3, rt, [1], [1], by decide +kernel⟩,
    ⟨donor (rlS rl), 3, rl, rt, by decide +kernel⟩,
    ⟨rlS r4, 3, r4, rt, by decide +kernel⟩,
    ⟨adS [1, 1, 1, 0], gotS (adF [1, 1, 1, 0]), gotS (adG [1, 1, 1, 0]), adU [1, 1, 1, 0], 5, 8, 2, 0, 0, 1, rt, adA [1, 1, 1, 0], gotB
      (adF [1, 1, 1, 0]), gotB (adG [1, 1, 1, 0]), by decide +kernel⟩,
    ⟨adS [0, 1, 1, 0], gotS (adF [0, 1, 1, 0]), gotS (adG [0, 1, 1, 0]), adU [0, 1, 1, 0], 5, 8, 2, 0, 0, 0, rt, adA [0, 1, 1, 0], gotB
      (adF [0, 1, 1, 0]), gotB (adG [0, 1, 1, 0]), by decide +kernel⟩,
    ⟨arS ar1 [1, 1, 1, 1], 5, 8, 2, 0, 0, rt, ar1, by decide +kernel⟩,
    ⟨a2S 0, gotS ((a2S 0).fetch ((a2S 0).areaOrigin (ar2 0)) 5 (rt.areaVa 0 0 + 64) 32), 5, 8, 2, 0, 0, rt, ar2 0, gotB ((a2S 0).fetch
      ((a2S 0).areaOrigin (ar2 0)) 5 (rt.areaVa 0 0 + 64) 32), by decide +kernel⟩,
    ⟨a2S 1, gotS a2G, 5, 8, 2, 0, 0, devKey 0x4000_0200, leafAt State.reset.chip 0x4000_0000, rt, ar2 1, gotB a2G, (0, 0x200),
      by decide +kernel⟩,
    ⟨ccS 4, gotS (ccG 4), 3, ccL 4, gotB (ccG 4), by decide +kernel⟩,
    ⟨ccS 3, gotS (ccG 3), 3, ccL 3, gotB (ccG 3), by decide +kernel⟩,
    ⟨arS (ar 3) [1, 1, 1, 1], 5, 8, 2, 0, 0, devKey 0x4001_0000, rt, ar 3, by decide +kernel⟩,
    ⟨arS (ar 4) [1, 1, 1, 1], 5, 8, 2, 0, 0, devKey 0x4001_0000, rt, ar 4, by decide +kernel⟩,
    ⟨daS (2 * Config.layerBytes 8 2 0), daS (2 * Config.layerBytes 8 2 0), 0, 8, 2, 0, 0, Config.layerBytes 8 2 0, daL, daW (2 *
      Config.layerBytes 8 2 0), [], [], noErrors _, rfl, by decide +kernel, by decide +kernel, rfl, rfl, by decide +kernel,
      by decide +kernel, by decide +kernel, rfl, rfl, rfl, half_fits _, rfl, imageHeld_none rfl _ _, rfl⟩,
    ⟨deS, deS, 0, Config.layerBytes 8 2 0, Config.expertBytes 8 2 0 0, 0, 0, deA, daW deN, [], [], noErrors _, rfl, rfl, rfl, rfl,
      half_fits_base _ _, rfl, deS_place, imageHeld_none rfl _ _, rfl⟩⟩

theorem witness_SpeculationAndVariantsAreSetPerHand :
    (∃ (s : State) (k : Nat) (c : Cmd), (s.cmdAt k 72 = some c) ∧ (checkSpecConfig s c = none) ∧ (s.turn c = true) ∧ (lateSpecConfig s c
      = none) ∧ (c.flag6 = true)) ∧
    (∃ (s : State) (k : Nat) (c : Cmd), (s.cmdAt k 72 = some c) ∧ (checkSpecConfig s c = none) ∧ (s.turn c = true) ∧ (lateSpecConfig s c
      = none) ∧ (c.flag6 = false)) ∧
    (∃ (s : State) (k : Nat) (c : Cmd), (s.cmdAt k 73 = some c) ∧ (c.vOp = 0) ∧ (checkVariant s c = none) ∧ (s.turn c = true) ∧
      (lateBind s c = none)) ∧
    (∃ (s : State) (v : State) (u : State) (k : Nat) (c : Cmd) (b : List Nat) (ds : List (List Nat)), (s.cmdAt k 73 = some c) ∧ (c.vOp =
      1) ∧ (checkVariant s c = none) ∧ (s.fetch c.origin c.context (c.p 1) (64 * bits (c.p 0) 16 12) = Got.bytes b v) ∧ (ds = List.map
      (fun i => wordsOf 8 8 (List.drop (64 * i) b)) (List.range (bits (c.p 0) 16 12))) ∧ (List.foldl (fun a w => a.bind fun x => if
      x.descOk (s.ctxSlot c.context) w = true then match x.fetch c.origin c.context (bits (wd w 2) 0 57) (x.bitmapBytes (s.ctxSlot
      c.context) w) with | Got.bytes m y => if (List.map bitCount m).sum = bits (wd w 1) 0 40 then some y else none | x => none else
      none) (some v) ds = some u)) ∧
    (∃ (s : State) (v : State) (k : Nat) (c : Cmd) (b : List Nat), (s.cmdAt k 73 = some c) ∧ (c.vOp = 1) ∧ (checkVariant s c = none) ∧
      (s.fetch c.origin c.context (c.p 1) (64 * bits (c.p 0) 16 12) = Got.bytes b v) ∧ (s.descOk (s.ctxSlot c.context) (wordsOf 8 8 b) =
      false)) ∧
    (∃ (s : State) (k : Nat) (c : Cmd), (s.cmdAt k 73 = some c) ∧ (c.vOp = 2) ∧ (checkVariant s c = none) ∧ (s.variantBound (s.ctxSlot
      c.context) c.variant = false)) ∧
    (∃ (s : State) (k : Nat) (c : Cmd), (s.cmdAt k 73 = some c) ∧ (c.vOp = 2) ∧ (checkVariant s c = none) ∧ (s.variantBound (s.ctxSlot
      c.context) c.variant = true)) :=
  ⟨⟨having spC leadS, 1, spC, by decide +kernel⟩,
    ⟨having (cmd 0x48 [6] 5) (setting [(SERVE.SPEC_STATE.ENABLED 6, 1)] leadS), 1, cmd 0x48 [6] 5, by decide +kernel⟩,
    ⟨having (vbC 0) vrS, 1, vbC 0, by decide +kernel⟩,
    ⟨vgS, gotS vgF, (vgM [dsW]).getD State.reset, 1, vgC, dsW.flatMap (leVals 8), [dsW], by decide +kernel⟩,
    ⟨vgT, gotS (vgT.fetch vgC.origin 5 (vgC.p 1) (64 * 1)), 1, vgC, (8 :: dsW.drop 1).flatMap (leVals 8), by decide +kernel⟩,
    ⟨having (vbC 2) vrS, 1, vbC 2, by decide +kernel⟩,
    ⟨having (vbC 2) { setting [(SERVE.SPEC_STATE.VARIANT 6, 3)] vrS with hands := [(6, { hx with variantSlot := 8 })] }, 1, vbC 2,
      by decide +kernel⟩⟩

theorem witness_PrefixesAreFoundKeptAndRemoved :
    (∃ (s : State) (v : State) (u : State) (k : Nat) (c : Cmd) (b : List Nat) (blocks : List (List Nat)) (recs : List IndexRec),
      (s.cmdAt k 70 = some c) ∧ (checkPrefixLookup s c = none) ∧ (s.turn c = true) ∧ (latePrefixLookup s c = none) ∧ (s.fetch c.origin
      c.context (c.p 1) (4 * c.count) = Got.bytes b v) ∧ (blocks = tokenBlocks b ((c.count - 1) / 32)) ∧ (v.readIndex c (seedWord
      c.context (s.rd (SERVE.SPEC_STATE.VARIANT c.hand)) (s.ctxSlot c.context)) blocks = (recs, u, true)) ∧ (u.hasReqs c.origin.who =
      false) ∧ (∀ x ∈ recs, x.chip = u.chip)) ∧
    (∃ (s : State) (v : State) (u : State) (k : Nat) (c : Cmd) (b : List Nat) (blocks : List (List Nat)) (recs : List IndexRec),
      (s.cmdAt k 70 = some c) ∧ (checkPrefixLookup s c = none) ∧ (s.turn c = true) ∧ (latePrefixLookup s c = none) ∧ (s.fetch c.origin
      c.context (c.p 1) (4 * c.count) = Got.bytes b v) ∧ (blocks = tokenBlocks b ((c.count - 1) / 32)) ∧ (v.readIndex c (seedWord
      c.context (s.rd (SERVE.SPEC_STATE.VARIANT c.hand)) (s.ctxSlot c.context)) blocks = (recs, u, true)) ∧ (u.hasReqs c.origin.who =
      false) ∧ (∀ x ∈ recs, x.chip = u.chip)) ∧
    (∃ (s : State) (u : State) (k : Nat) (slot : Nat) (v : Nat) (c : Cmd) (b : List Nat) (e : Nat), (s.cmdAt k 71 = some c) ∧
      (s.cmdRunning k = none) ∧ (c.flag6 = false) ∧ (checkPrefixInsert s c = none) ∧ (s.turn c = true) ∧ (latePrefixInsert s c = none) ∧
      (s.fetch c.origin c.context (c.p 1) (128 * c.count) = Got.bytes b u) ∧ (v = s.rd (SERVE.SPEC_STATE.VARIANT c.hand)) ∧ (slot =
      s.ctxSlot c.context) ∧ (s.sameEntry c v slot (tokenBlocks b c.count) = some e)) ∧
    (∃ (s : State) (u : State) (k : Nat) (slot : Nat) (v : Nat) (c : Cmd) (b : List Nat), (s.cmdAt k 71 = some c) ∧ (s.cmdRunning k =
      none) ∧ (c.flag6 = false) ∧ (checkPrefixInsert s c = none) ∧ (s.turn c = true) ∧ (latePrefixInsert s c = none) ∧ (s.fetch c.origin
      c.context (c.p 1) (128 * c.count) = Got.bytes b u) ∧ (v = s.rd (SERVE.SPEC_STATE.VARIANT c.hand)) ∧ (slot = s.ctxSlot c.context) ∧
      (s.sameEntry c v slot (tokenBlocks b c.count) = none) ∧ (∃ e < 1024, (s.entryAt e).live = false) ∧ (s.poolHas (s.rd
      (SERVE.HAND_STATE.CLASS c.hand)) (blockSpans c.count * (spanPages (s.hand c.hand).layers + if s.is (SERVE.SPEC_STATE.ENABLED
      c.hand) = true then spanPages (s.hand c.hand).leadLayers else 0)) = true) ∧ (∀ e < 1024, (s.entryAt e).live = false → ((u.dropGot
      c.origin.who).took.makeEntry c e v slot b).isSome = true)) ∧
    (∃ (s : State) (k : Nat) (e : Nat) (c : Cmd), (s.cmdAt k 71 = some c) ∧ (c.flag6 = true) ∧ (checkPrefixInsert s c = none) ∧ (e = c.p
      2 % 2 ^ 10) ∧ (s.entryRefs e = 0)) ∧
    (∃ (s : State) (k : Nat) (e : Nat) (c : Cmd), (s.cmdAt k 71 = some c) ∧ (c.flag6 = true) ∧ (checkPrefixInsert s c = none) ∧ (e = c.p
      2 % 2 ^ 10) ∧ (s.entryRefs e ≠ 0)) :=
  ⟨⟨plE, plF plE (plC 0), (plI plE (plC 0) [List.replicate 128 0]).2.1, 1, plC 0, List.replicate 132 0, [List.replicate 128 0], [],
      by decide +kernel⟩,
    ⟨plT, plF plT (plC 1), (plI plT (plC 1) [tok]).2.1, 1, plC 1, tok ++ [0, 0, 0, 0], [tok], [plR], by decide +kernel⟩,
    ⟨piX, piF piX, 1, 8, 0, piC, tok, 4, by decide +kernel⟩,
    ⟨piE, piF piE, 1, 8, 0, piC, tok, by decide +kernel, by decide +kernel, by decide +kernel, by decide +kernel, by decide +kernel,
      by decide +kernel, by decide +kernel, by decide +kernel, by decide +kernel, by decide +kernel, by decide +kernel,
      by decide +kernel, fun e _ _ => makeEntry_isSome e⟩,
    ⟨having prC { vrS with entries := [(4, enT)] }, 1, 4, prC, by decide +kernel⟩,
    ⟨having prC { setting [(SERVE.SPEC_STATE.ATTACHED 6, 1), (SERVE.SPEC_STATE.ENTRY 6, 4)] vrS with entries := [(4, enT)] }, 1, 4, prC,
      by decide +kernel⟩⟩

theorem witness_ModelsAreStagedShardByShard :
    (∃ (s : State) (u : State) (k : Nat) (n : Nat) (c : Cmd) (mine : List Shard) (pages : List (Nat × Nat)), (s.cmdAt k 98 = some c) ∧
      (checkModelStage s c = none) ∧ (s.stageSlot c = some n) ∧ (mine = List.map (fun x => { x with since := s.now }) (s.manifestMine
      c)) ∧ (mine ≠ []) ∧ (stageFrames (imagePagesOf mine) s = some (pages, u))) ∧
    (∃ (s : State) (k : Nat) (c : Cmd), (s.cmdAt k 96 = some c) ∧ (checkShardIntake s c = none)) ∧
    (∃ (s : State) (k : Nat) (c : Cmd), (s.cmdAt k 96 = some c) ∧ (checkShardIntake s c = none)) ∧
    (∃ (s : State) (h : Nat) (off : Nat) (data : List Nat), (s.reaches h = true) ∧ (List.find?
      (fun q => match q.2.window with | some w => decide (w ≤ off) && decide (off + data.length ≤ w + q.2.len) | none => false)
      (s.windowsOn h) = none)) ∧
    (∃ (s : State) (h : Nat) (off : Nat) (data : List Nat) (n : Nat) (w : Nat) (x : Shard), (s.reaches h = true) ∧ (List.find?
      (fun q => match q.2.window with | some w => decide (w ≤ off) && decide (off + data.length ≤ w + q.2.len) | none => false)
      (s.windowsOn h) = some (n, x)) ∧ (x.window = some w) ∧ ((s.slot n).shard x.no = some x) ∧ (x.state ≠ 5)) ∧
    (∃ (s : State) (h : Nat) (off : Nat) (data : List Nat) (n : Nat) (w : Nat) (x : Shard), (s.reaches h = true) ∧ (List.find?
      (fun q => match q.2.window with | some w => decide (w ≤ off) && decide (off + data.length ≤ w + q.2.len) | none => false)
      (s.windowsOn h) = some (n, x)) ∧ (x.window = some w) ∧ ((s.slot n).shard x.no = some x) ∧ (x.state = 5)) ∧
    (∃ (s : State) (n : Nat) (no : Nat) (k : Nat) (e : Nat) (x : Shard) (c : Cmd), (n < 8) ∧ ((s.slot n).shard no = some x) ∧ (x.state =
      1 ∨ x.state = 5) ∧ (x.engine = some e) ∧ (e < 10) ∧ (x.port < 2) ∧ (x.landed = [(0, x.len)]) ∧ (x.cmd = some k) ∧ (c ∈ s.cmds) ∧
      (c.id = k) ∧ (c.status = none) ∧ (sha256 (s.arrived n x) = x.digest)) ∧
    (∃ (s : State) (n : Nat) (no : Nat) (k : Nat) (e : Nat) (x : Shard) (c : Cmd), (n < 8) ∧ ((s.slot n).shard no = some x) ∧ (x.state =
      1 ∨ x.state = 5) ∧ (x.engine = some e) ∧ (e < 10) ∧ (x.port < 2) ∧ (x.landed = [(0, x.len)]) ∧ (x.cmd = some k) ∧ (c ∈ s.cmds) ∧
      (c.id = k) ∧ (c.status = none) ∧ (sha256 (s.arrived n x) ≠ x.digest) ∧ (x.attempts + 1 < 4 ∨ x.state = 5)) ∧
    (∃ (s : State) (n : Nat) (no : Nat) (k : Nat) (e : Nat) (x : Shard) (c : Cmd), (n < 8) ∧ ((s.slot n).shard no = some x) ∧ (x.state =
      1 ∨ x.state = 5) ∧ (x.engine = some e) ∧ (e < 10) ∧ (x.port < 2) ∧ (x.landed = [(0, x.len)]) ∧ (x.cmd = some k) ∧ (c ∈ s.cmds) ∧
      (c.id = k) ∧ (c.status = none) ∧ (sha256 (s.arrived n x) ≠ x.digest) ∧ (4 ≤ x.attempts + 1) ∧ (x.state = 1)) ∧
    (∃ (s : State) (n : Nat) (no : Nat) (k : Nat) (data : List Nat) (x : Shard) (c : Cmd), (n < 8) ∧ ((s.slot n).shard no = some x) ∧
      (x.state = 1) ∧ (x.donor.isSome = true) ∧ (x.engine = none) ∧ (x.cmd = some k) ∧ (c ∈ s.cmds) ∧ (c.id = k) ∧ (c.status = none) ∧
      (data.length = x.len)) ∧
    (∃ (s : State) (n : Nat) (no : Nat) (k : Nat) (x : Shard) (c : Cmd) (det : Nat), (n < 8) ∧ ((s.slot n).shard no = some x) ∧ (x.state
      = 1) ∧ (x.donor.isSome = true) ∧ (x.engine = none) ∧ (x.cmd = some k) ∧ (c ∈ s.cmds) ∧ (c.id = k) ∧ (c.status = none) ∧ (det ≠ 0)) ∧
    (∃ (s : State) (n : Nat) (no : Nat) (k : Nat) (x : Shard) (c : Cmd), (n < 8) ∧ ((s.slot n).shard no = some x) ∧ (x.state ≤ 1) ∧
      (s.tickFrom (x.since + s.rd LOAD.INTAKE_CTL.TIMEOUT_S * 1000000000) = true) ∧ (x.cmd = some k) ∧ (c ∈ s.cmds) ∧ (c.id = k) ∧
      (c.status = none)) ∧
    (∃ (s : State) (n : Nat) (no : Nat) (k : Nat) (x : Shard) (c : Cmd), (n < 8) ∧ ((s.slot n).shard no = some x) ∧ (x.state = 5) ∧
      (s.tickFrom (x.since + s.rd LOAD.INTAKE_CTL.TIMEOUT_S * 1000000000) = true) ∧ (x.cmd = some k) ∧ (c ∈ s.cmds) ∧ (c.id = k) ∧
      (c.status = none)) :=
  ⟨by
    obtain ⟨⟨f, u⟩, h⟩ := Option.isSome_iff_exists.mp (allocRun_isSome (s := msS) (size := imagePage) (align := imagePage) (kind := 6) (ctx := 0xFFFF) (0, 0x23_0000_0000) (regions := hbmRegions (2 ^ (0 * imagePage / 2 ^ 33))) (by decide) (by decide +kernel))
    exact ⟨msS, u, 1, 2, msC, msM, [(0, f)], by decide +kernel, by decide +kernel, by decide +kernel, by decide +kernel, by decide +kernel, stageFrames_one (by decide +kernel) h⟩,
    ⟨having siC (slS 1 shd), 1, siC, by decide +kernel⟩,
    ⟨having siC2 (member3 (slS 1 shd)), 1, siC2, by decide +kernel⟩,
    ⟨near (slS 1 shd), 0, 0x2000, [1, 2, 3], by decide +kernel⟩,
    ⟨near (slS 1 arv), 0, 0x2010, [1, 2, 3], 2, 0x2000, arv, by decide +kernel⟩,
    ⟨near (slS 2 arv5), 0, 0x2010, [1, 2, 3], 2, 0x2000, arv5, by decide +kernel⟩,
    ⟨having (taken siC) (slS 1 arL), 2, 9, 1, 1, arL, taken siC, by decide +kernel⟩,
    ⟨having (taken siC) (slS 1 arX), 2, 9, 1, 1, arX, taken siC, by decide +kernel⟩,
    ⟨having (taken siC) (slS 1 arX4), 2, 9, 1, 1, arX4, taken siC, by decide +kernel⟩,
    ⟨having (taken siC2) (slS 1 dnr), 2, 9, 1, List.replicate 64 7, dnr, taken siC2, by decide +kernel⟩,
    ⟨having (taken siC2) (slS 1 dnr), 2, 9, 1, dnr, taken siC2, 0x0301, by decide +kernel⟩,
    ⟨awake (having (taken siC) (slS 1 arv)), 2, 9, 1, arv, taken siC, by decide +kernel⟩,
    ⟨awake (having (taken siC) (slS 2 arv5)), 2, 9, 1, arv5, taken siC, by decide +kernel⟩⟩

theorem witness_ModelsAreRecheckedRepairedSwitchedAndRetired :
    (∃ (s : State) (n : Nat) (no : Nat) (r : List (Nat × Nat)) (x : Shard), (n < 8) ∧ (s.bimon = true) ∧ (s.rd LOAD.RECHECK_CTL.ENABLE =
      1) ∧ (s.recheckAt ≤ s.now) ∧ (s.recheck = (n, no) :: r) ∧ ((s.slot n).shard no = some x) ∧ (s.slotState n = 2 ∨ s.slotState n = 3)
      ∧ (x.state = 2)) ∧
    (∃ (s : State) (n : Nat) (no : Nat) (r : List (Nat × Nat)) (x : Shard), (n < 8) ∧ (s.bimon = true) ∧ (s.rd LOAD.RECHECK_CTL.ENABLE =
      1) ∧ (s.recheckAt ≤ s.now) ∧ (s.recheck = (n, no) :: r) ∧ ((s.slot n).shard no = some x) ∧ (s.slotState n = 2 ∨ s.slotState n = 3)
      ∧ (x.state = 2)) ∧
    (∃ (s : State) (k : Nat) (c : Cmd), (s.cmdAt k 97 = some c) ∧ (checkShardVerify s c = none) ∧ (∀ x ∈ s.verifyList c, s.shardIntact
      c.wSlot x = true)) ∧
    (∃ (s : State) (k : Nat) (c : Cmd), (s.cmdAt k 97 = some c) ∧ (checkShardVerify s c = none) ∧ (∃ x ∈ s.verifyList c, s.shardIntact
      c.wSlot x = false)) ∧
    (∃ (s : State) (n : Nat) (x : Shard), (n < 8) ∧ (∀ u ∈ s.steps, u.slot ≠ n) ∧ (List.find? (fun x => x.swapSince.isSome) (s.slot
      n).shards = some x) ∧ ((s.slot n).shard x.no = some x)) ∧
    (∃ (s : State) (i : Nat) (k : Nat) (l : Launch) (c : Cmd), (s.launch i = some l) ∧ (l.repairOn ≠ []) ∧ (l.repairOn.getD 2 0 + s.rd
      LOAD.INTAKE_CTL.TIMEOUT_S * 1000000000 ≤ s.now) ∧ (l.ended = none) ∧ (l.cmd = some k) ∧ (c ∈ s.cmds) ∧ (c.id = k) ∧ (c.status =
      none)) ∧
    (∃ (s : State) (k : Nat) (c : Cmd), (s.cmdAt k 99 = some c) ∧ (bit (c.p 0) 3 = false) ∧ (checkModelSwitch s c = none) ∧ (∀ (w :
      Switch), s.switchOf c.context = some w → w.cmd ≠ k)) ∧
    (∃ (s : State) (k : Nat) (c : Cmd), (s.cmdAt k 99 = some c) ∧ (bit (c.p 0) 3 = true) ∧ (checkModelSwitch s c = none) ∧ (∀ (w :
      Switch), s.switchOf c.context = some w → w.cmd ≠ k)) ∧
    (∃ (s : State) (k : Nat) (c : Cmd), (s.cmdAt k 100 = some c) ∧ (s.cmdRunning k = none) ∧ (checkModelRetire s c = none) ∧
      (s.slotState c.wSlot ≠ 1) ∧ (s.slotRead c.wSlot = false)) ∧
    (∃ (s : State) (k : Nat) (c : Cmd), (s.cmdAt k 100 = some c) ∧ (s.cmdRunning k = none) ∧ (checkModelRetire s c = none) ∧
      (s.slotState c.wSlot ≠ 1) ∧ (s.slotRead c.wSlot = true)) ∧
    (∃ (s : State) (k : Nat) (c : Cmd), (s.cmdAt k 100 = some c) ∧ (s.cmdRunning k = none) ∧ (checkModelRetire s c = none) ∧
      (s.slotState c.wSlot = 1) ∧ ((s.slot c.wSlot).stageCmd ≠ some k) ∧ (∀ x ∈ (s.slot c.wSlot).shards, x.cmd ≠ some k)) :=
  ⟨⟨awake (rkS vfd), 2, 9, [(2, 10)], vfd, by decide +kernel⟩,
    ⟨awake (rkS { vfd with digest := [1] }), 2, 9, [(2, 10)], { vfd with digest := [1] }, by decide +kernel⟩,
    ⟨having svC (slS 2 vfd), 1, svC, by decide +kernel⟩,
    ⟨having svC (slS 2 { vfd with digest := [1] }), 1, svC, by decide +kernel⟩,
    ⟨slS 2 swp, 2, swp, by decide +kernel⟩,
    ⟨having (taken (cmd 0x30 [] 5)) { slS 2 vfd with launches := [rwL] }, 3, 1, rwL, taken (cmd 0x30 [] 5), by decide +kernel⟩,
    ⟨mwS (mwC 2 6), 1, mwC 2 6, by decide +kernel⟩,
    ⟨mwS (mwC 10 0), 1, mwC 10 0, by decide +kernel⟩,
    ⟨having mrC { slS 2 vfd with variants := [⟨3, 5, 2, []⟩] }, 1, mrC, by decide +kernel⟩,
    ⟨having mrC { slS 2 vfd with launches := [{ rwL with slot := some 2 }] }, 1, mrC, by decide +kernel⟩,
    ⟨having mrC { slS 1 shd with cmds := [{ taken msC with id := 3 }] }, 1, mrC, by decide +kernel⟩⟩

theorem witness_LinksMoveBetweenTheirStates :
    (∃ (s : State) (l : Nat), (l < 96) ∧ (s.linkState l = 1) ∧ (s.now ≤ (s.link l).trainSince + 50000000)) ∧
    (∃ (s : State) (l : Nat), (l < 96) ∧ (s.linkState l = 1) ∧ ((s.link l).trainSince + 50000000 ≤ s.now)) ∧
    (∃ (s : State) (l : Nat) (at' : Nat), (l < 96) ∧ (s.linkState l = 0) ∧ ((s.link l).retrainAt = some at') ∧ (at' ≤ s.now) ∧ ((s.link
      l).stopped = false)) ∧
    (∃ (s : State) (l : Nat), (l < 96) ∧ (s.linkState l = 0) ∧ ((s.link l).enabled = true) ∧ ((s.link l).stopped = false)) ∧
    (∃ (s : State) (l : Nat), (l < 96) ∧ (s.linkState l = 2) ∧ (s.rd FAB.LINK_CTL.REPLAY_LIMIT ≤ (s.link l).replays)) ∧
    (∃ (s : State) (l : Nat) (lane : Nat), (l < 96) ∧ (s.linkState l = 2) ∧ (lane = 2)) ∧
    (∃ (s : State) (l : Nat) (lane : Nat), (l < 96) ∧ (s.linkState l = 2) ∧ (lane < 2) ∧ (s.rd (FAB.PORT_STATUS.STOCK_FREE (l / 8)) ≠
      1)) ∧
    (∃ (s : State) (l : Nat) (lane : Nat), (l < 96) ∧ (s.linkState l = 2) ∧ (lane < 2) ∧ (s.rd (FAB.PORT_STATUS.STOCK_FREE (l / 8)) =
      1)) ∧
    (∃ (s : State) (l : Nat) (lane : Nat), (l < 96) ∧ (s.linkState l = 2) ∧ (lane < 2) ∧ (s.rd (FAB.PORT_STATUS.STOCK_FREE (l / 8)) =
      1)) ∧
    (∃ (s : State) (l : Nat), (l < 96) ∧ (s.linkState l = 3)) ∧
    (∃ (s : State) (l : Nat), (l < 96) ∧ (s.linkState l = 3)) ∧
    (∃ (s : State) (l : Nat) (lane : Nat), (l < 96) ∧ (s.linkState l = 2) ∧ ((s.link l).badLane = some lane) ∧ ((s.link l).heldOut =
      none ∨ (s.link l).admin.isSome = true)) ∧
    (∃ (s : State) (l : Nat) (w : Nat) (b : List Nat), (b.length = 256) ∧ (s.linkState l = 2 ∨ s.linkState l = 3) ∧ (w = leOf (List.take
      8 b)) ∧ (leOf (List.take 4 (List.drop 248 b)) ≠ crc32c (List.take 248 b))) ∧
    (∃ (s : State) (l : Nat) (w : Nat) (b : List Nat), (b.length = 256) ∧ (s.linkState l = 2 ∨ s.linkState l = 3) ∧ (w = leOf (List.take
      8 b)) ∧ (leOf (List.take 4 (List.drop 248 b)) = crc32c (List.take 248 b)) ∧ (bit w 24 = false) ∧ (bits w 25 2 = 1) ∧ (bits w 0 12
      = ((s.link l).rxSeq + 1) % 4096)) ∧
    (∃ (s : State) (k : Nat) (c : Cmd), (s.cmdAt k 131 = some c) ∧ (c.adminOp = 0) ∧ (checkLinkAdmin s c = none) ∧ (∀ l ∈ c.adminLinks,
      (s.link l).admin ≠ some k ∧ (s.linkState l = 2 → (s.link l).replay = []))) ∧
    (∃ (s : State) (k : Nat) (c : Cmd), (s.cmdAt k 131 = some c) ∧ (c.adminOp = 1) ∧ (checkLinkAdmin s c = none) ∧ (∀ l ∈ c.adminLinks,
      s.linkState l ≠ 0)) ∧
    (∃ (s : State) (k : Nat) (c : Cmd), (s.cmdAt k 131 = some c) ∧ (c.adminOp = 1) ∧ (checkLinkAdmin s c = none) ∧ (∃ l ∈ c.adminLinks,
      s.linkState l = 0)) ∧
    (∃ (s : State) (k : Nat) (c : Cmd), (s.cmdAt k 131 = some c) ∧ (c.adminOp = 2) ∧ (checkLinkAdmin s c = none)) ∧
    (∃ (s : State) (k : Nat) (c : Cmd), (s.cmdAt k 131 = some c) ∧ (c.adminOp = 3) ∧ (checkLinkAdmin s c = none)) :=
  ⟨⟨lnk 1 { trainSince := 5 } { State.reset with now := 40_000_000 }, 11, by decide +kernel⟩,
    ⟨lnk 1 { trainSince := 5 } { State.reset with now := 50_000_005 }, 11, by decide +kernel⟩,
    ⟨lnk 0 { retrainAt := some 7 } { State.reset with now := 7 }, 11, 7, by decide +kernel⟩,
    ⟨lnk 0 { enabled := true } State.reset, 11, by decide +kernel⟩,
    ⟨lnk 2 { replays := 16 } State.reset, 11, by decide +kernel⟩,
    ⟨lnk 2 {} State.reset, 11, 2, by decide +kernel⟩,
    ⟨lnk 2 {} (setting [(FAB.PORT_STATUS.STOCK_FREE 1, 0)] State.reset), 11, 1, by decide +kernel⟩,
    ⟨lnk 2 {} (setting [(FAB.PORT_STATUS.STOCK_FREE 1, 1)] State.reset), 11, 1, by decide +kernel⟩,
    ⟨lnk 2 { badLane := some 1 } State.reset, 11, 1, by decide +kernel⟩,
    ⟨lnk 3 { swapIn := true, swapLane := 1, swapHold := true } State.reset, 11, by decide +kernel⟩,
    ⟨lnk 3 { swapIn := false, swapLane := 1 } State.reset, 11, by decide +kernel⟩,
    ⟨lnk 2 { badLane := some 1 } State.reset, 11, 1, by decide +kernel⟩,
    ⟨lnk 2 {} State.reset, 11, 2 ^ 25, flit (2 ^ 25) 1, by decide +kernel⟩,
    ⟨lnk 2 { rxSeq := 6, replay := [(3, []), (4, [])] } State.reset, 11, 7 + 3 * 2 ^ 12 + 2 ^ 25, flit (7 + 3 * 2 ^ 12 + 2 ^ 25) 0,
      by decide +kernel⟩,
    ⟨having (laC 0) (lnk 2 {} State.reset), 1, laC 0, by decide +kernel⟩,
    ⟨having (laC 1) (lnk 2 {} State.reset), 1, laC 1, by decide +kernel⟩,
    ⟨having (laC 1) (lnk 0 {} State.reset), 1, laC 1, by decide +kernel⟩,
    ⟨having (laC 2) (lnk 2 {} (setting [(FAB.PORT_STATUS.STOCK_FREE 1, 1)] State.reset)), 1, laC 2, by decide +kernel⟩,
    ⟨having (laC 3) (lnk 2 { heldOut := some 1, badLane := some 1 } State.reset), 1, laC 3, by decide +kernel⟩⟩

theorem witness_PacketsAreForwardedServedAnsweredAndRetried :
    (∃ (s : State) (i : Nat) (p : Packet), (s.inboxAt i = some p) ∧ (knownOp p.op = true) ∧ (s.mine p = false) ∧ (s.tooOld p = false) ∧
      (s.wayOut p = none)) ∧
    (∃ (s : State) (i : Nat) (p : Packet), (s.inboxAt i = some p) ∧ (knownOp p.op = true) ∧ (s.mine p = false) ∧ (s.tooOld p = false) ∧
      (s.rd (FAB.ROUTE.VALID p.dest) ≠ 1)) ∧
    (∃ (s : State) (i : Nat) (p : Packet) (h : Hop) (q : Nat) (l : Nat) (vc : Nat), (s.inboxAt i = some p) ∧ (knownOp p.op = true) ∧
      (s.mine p = false) ∧ (s.tooOld p = false) ∧ (s.rd (FAB.ROUTE.VALID p.dest) = 1) ∧ (s.hop p.dest p.route = some h) ∧ (List.find?
      (fun q => s.portUp q && s.rd (TOPO.NB_INFO.STATE q) != 2) h.ports = some q) ∧ (l = (s.upLinks q).getD (Config.linkHash p.dest
      (p.offset / 256) % (s.upLinks q).length) (8 * q)) ∧ (vc = p.vc (s.hopClass p h)) ∧ (s.outTurn i p (q, vc) = true) ∧ (s.linkTakes l
      vc p.flits.length = true)) ∧
    (∃ (s : State) (i : Nat) (p : Packet) (h : Hop) (q : Nat) (l : Nat) (vc : Nat), (s.inboxAt i = some p) ∧ (knownOp p.op = true) ∧
      (s.mine p = false) ∧ (s.tooOld p = false) ∧ (s.rd (FAB.ROUTE.VALID p.dest) = 1) ∧ (s.hop p.dest p.route = some h) ∧ (List.find?
      (fun q => s.portUp q && s.rd (TOPO.NB_INFO.STATE q) != 2) h.ports = some q) ∧ (l = (s.upLinks q).getD (Config.linkHash p.dest
      (p.offset / 256) % (s.upLinks q).length) (8 * q)) ∧ (vc = p.vc (s.hopClass p h)) ∧ (s.outTurn i p (q, vc) = false ∨ s.linkTakes l
      vc p.flits.length = false)) ∧
    (∃ (s : State) (i : Nat) (p : Packet), (s.inboxAt i = some p) ∧ (s.rd FAB.LINK_CTL.LIFETIME_US < s.packetAge p)) ∧
    (∃ (s₀ : State) (s : State) (i : Nat) (p : Packet) (ce : List Nat) (ue : List Nat), (s = s₀.readErrors ce ue) ∧ (s.inboxAt i = some
      p) ∧ (p.dest = s.chip) ∧ (s.rd TOPO.PARTITION.STATE ≠ 0) ∧ (p.epoch = s.rd FAB.EPOCH.EPOCH) ∧ (s.tooOld p = false) ∧ (p.host = 0)
      ∧ (s.notFirst i p = false) ∧ (s.homeHolds p = false) ∧ (s.fwds = []) ∧ (mayReach p = true) ∧ (typeOk p = true) ∧ (∀ (leaf : Nat),
      s.homeLeaf p.offset = some leaf → lfState leaf ≠ 3) ∧ (p.op = 1)) ∧
    (∃ (s₀ : State) (s : State) (i : Nat) (p : Packet) (r : StoredResult) (ce : List Nat) (ue : List Nat), (s = s₀.readErrors ce ue) ∧
      (s.inboxAt i = some p) ∧ (p.dest = s.chip) ∧ (s.rd TOPO.PARTITION.STATE ≠ 0) ∧ (p.epoch = s.rd FAB.EPOCH.EPOCH) ∧ (s.tooOld p =
      false) ∧ (p.host = 0) ∧ (s.notFirst i p = false) ∧ (s.homeHolds p = false) ∧ (s.fwds = []) ∧ (mayReach p = true) ∧ (typeOk p =
      true) ∧ (∀ (leaf : Nat), s.homeLeaf p.offset = some leaf → lfState leaf ≠ 3) ∧ (opIsWrite p.op = true) ∧ (List.find? (fun r =>
      r.unit == homeUnit p.offset p.host && r.src == p.src && r.tag == p.tag) s.fabric.results = some r)) ∧
    (∃ (s₀ : State) (s : State) (i : Nat) (p : Packet) (ce : List Nat) (ue : List Nat), (s = s₀.readErrors ce ue) ∧ (s.inboxAt i = some
      p) ∧ (p.dest = s.chip) ∧ (s.rd TOPO.PARTITION.STATE ≠ 0) ∧ (p.epoch = s.rd FAB.EPOCH.EPOCH) ∧ (s.tooOld p = false) ∧ (p.host = 0)
      ∧ (s.notFirst i p = false) ∧ (s.homeHolds p = false) ∧ (s.fwds = []) ∧ (mayReach p = true) ∧ (typeOk p = true) ∧ (∀ (leaf : Nat),
      s.homeLeaf p.offset = some leaf → lfState leaf ≠ 3) ∧ (p.op = 2) ∧ (p.data.length = 64 * p.units) ∧ (List.find? (fun r => r.unit
      == homeUnit p.offset p.host && r.src == p.src && r.tag == p.tag) s.fabric.results = none)) ∧
    (∃ (s : State) (i : Nat) (p : Packet), (s.inboxAt i = some p) ∧ (p.dest = s.chip) ∧ (p.op = 32 ∨ p.op = 33 ∨ p.op = 34) ∧ (p.epoch =
      s.rd FAB.EPOCH.EPOCH) ∧ (s.tooOld p = false) ∧ (s.answered p = none)) ∧
    (∃ (s : State) (i : Nat) (p : Packet) (r : FabReq), (s.inboxAt i = some p) ∧ (p.dest = s.chip) ∧ (p.op = 32 ∨ p.op = 33 ∨ p.op = 34)
      ∧ (p.epoch = s.rd FAB.EPOCH.EPOCH) ∧ (s.tooOld p = false) ∧ (s.answered p = some r) ∧ (p.op = 32) ∧ (r.who.kind < 100) ∧
      (r.who.kind ∉ [0, 1, 7]) ∧ (p.poison = false)) ∧
    (∃ (s : State) (id : Nat) (r : FabReq), (List.find? (fun r => r.id == id && !r.waiting) s.fabric.reqs = some r) ∧ (r.lastSent + 1000
      * s.rd FAB.LINK_CTL.RETRY_US ≤ s.now)) ∧
    (∃ (s : State), (s.now < s.fabric.nextTime)) ∧
    (∃ (s : State), (s.fabric.nextTime ≤ s.now)) ∧
    (∃ (s : State) (i : Nat) (p : Packet), (s.inboxAt i = some p) ∧ (p.op = 65) ∧ (s.rd TOPO.PARTITION.STATE ≠ 0) ∧ (s.timeSource ≠
      s.chip) ∧ (s.portToward s.timeSource p.port = true) ∧ (0 ≤ ↑s.now + s.fabric.timeOffset)) :=
  ⟨⟨got far7 State.reset, 0, far7, by decide +kernel⟩,
    ⟨got far7 State.reset, 0, far7, by decide +kernel⟩,
    ⟨hopT 2, 0, far7, hop7, 1, 11, far7.vc ((hopT 2).hopClass far7 hop7), by decide +kernel, by decide +kernel, by decide +kernel,
      by decide +kernel, by decide +kernel, rfl, by decide +kernel, linkOne (by decide +kernel) _ _, by decide +kernel,
      by decide +kernel, by decide +kernel⟩,
    ⟨hopB, 0, far7, hop7, 1, 11, far7.vc (hopB.hopClass far7 hop7), by decide +kernel, by decide +kernel, by decide +kernel,
      by decide +kernel, by decide +kernel, rfl, by decide +kernel, linkOne (by decide +kernel) _ _, by decide +kernel,
      by decide +kernel⟩,
    ⟨got far7 { State.reset with now := 600_000_000_000 }, 0, far7, by decide +kernel⟩,
    ⟨(joined (got (pk here 3 1 0x4000_0040) ctxM)).store (devKey 0x4000_0040) 8 77, (joined (got (pk here 3 1 0x4000_0040) ctxM)).store
      (devKey 0x4000_0040) 8 77, 0, pk here 3 1 0x4000_0040, [], [], noErrors _, by decide +kernel⟩,
    ⟨withRes (joined (got stP ctxM)), withRes (joined (got stP ctxM)), 0, stP, kept, [], [], noErrors _, by decide +kernel⟩,
    ⟨joined (got stP ctxM), joined (got stP ctxM), 0, stP, [], [], noErrors _, by decide +kernel⟩,
    ⟨got anP State.reset, 0, anP, by decide +kernel⟩,
    ⟨asked2 (got anP State.reset), 0, anP, { fabQ with who := ⟨6, 1, 0, 0⟩ }, by decide +kernel⟩,
    ⟨asked { State.reset with now := 1_000_000_000 }, 2, fabQ, by decide +kernel⟩,
    ⟨let s := State.reset; { s with fabric := { s.fabric with nextTime := 5 } }, by decide +kernel⟩,
    ⟨lnk 2 {} State.reset, by decide +kernel⟩,
    ⟨tmS, 0, tmP, by decide +kernel⟩⟩

theorem witness_PartitionsFormAbortAndRestart :
    (∃ (s : State) (i : Nat) (p : Packet), (s.inboxAt i = some p) ∧ (p.op = 64) ∧ (p.port < 12) ∧ (s.rd (TOPO.NB_INFO.STATE p.port) =
      0)) ∧
    (∃ (s : State) (i : Nat) (p : Packet), (s.inboxAt i = some p) ∧ (p.op = 64) ∧ (p.port < 12) ∧ (s.rd (TOPO.NB_INFO.STATE p.port) =
      0)) ∧
    (∃ (s : State) (p : Nat), (p < 12) ∧ (s.bimon = true) ∧ (s.rd (TOPO.NB_INFO.STATE p) = 1) ∧ (s.rd TOPO.CAPS.SILENT_TICKS ≤
      (s.neighbour p).silent)) ∧
    (∃ (s : State) (k : Nat) (c : Cmd), (s.cmdAt k 128 = some c) ∧ (checkTopoQuery s c = none) ∧ (c.p 1 = 0)) ∧
    (∃ (s : State) (k : Nat) (c : Cmd) (own : Member) (ms : List Member), (s.cmdAt k 129 = some c) ∧ (checkPartition true s c = none) ∧
      (ms = List.map Prod.fst (s.tableOf c)) ∧ (s.ownEntry ms = some own)) ∧
    (∃ (s : State) (k : Nat) (c : Cmd) (ms : List Member), (s.cmdAt k 130 = some c) ∧ (checkPartition false s c = none) ∧ (ms = List.map
      Prod.fst (s.tableOf c)) ∧ (s.ownEntry ms = none)) ∧
    (∃ (s : State) (k : Nat) (c : Cmd) (ms : List Member) (own : Member), (s.cmdAt k 130 = some c) ∧ (checkPartition false s c = none) ∧
      (ms = List.map Prod.fst (s.tableOf c)) ∧ (s.ownEntry ms = some own)) ∧
    (∃ (s : State) (i : Nat) (p : Packet), (s.inboxAt i = some p) ∧ (p.op = 66) ∧ (s.rd TOPO.PARTITION.STATE = 1) ∧ (leOf (List.take 2
      p.data) = s.rd TOPO.PARTITION.ID) ∧ (p.data.getD 2 0 = (s.rd FAB.EPOCH.EPOCH + 1) % 16)) ∧
    (∃ (s : State) (k : Nat) (c : Cmd), (s.cmdAt k 134 = some c) ∧ (checkJob [1, 2, 3] s c = none) ∧ (s.rd TOPO.PARTITION.STATE = 2)) ∧
    (∃ (s : State) (k : Nat) (c : Cmd), (s.cmdAt k 134 = some c) ∧ (checkJob [1, 2, 3] s c = none) ∧ (s.rd TOPO.PARTITION.STATE = 1)) ∧
    (∃ (s : State) (k : Nat) (c : Cmd), (s.cmdAt k 135 = some c) ∧ (checkJob [2, 3] s c = none)) :=
  ⟨⟨got (heP (partnerPort 2)) State.reset, 0, heP (partnerPort 2), by decide +kernel⟩,
    ⟨got (heP 9) State.reset, 0, heP 9, by decide +kernel⟩,
    ⟨slnS, 2, by decide +kernel⟩,
    ⟨having (cmd 0x80 []) State.reset, 1, cmd 0x80 [], by decide +kernel⟩,
    ⟨formS (pfC 0x81), 1, pfC 0x81, ⟨50, 9, 0, 0, 0, false⟩, mem16, by decide +kernel⟩,
    ⟨setting [(TOPO.CHIP.CHIP, 8), (HIF.SERIAL.SERIAL, 40)] (aborted (formS (pfC 0x82))), 1, pfC 0x82, mem16, by decide +kernel⟩,
    ⟨aborted (formS (pfC 0x82)), 1, pfC 0x82, mem16, ⟨50, 9, 0, 0, 0, false⟩, by decide +kernel⟩,
    ⟨joined (got abP State.reset), 0, abP, by decide +kernel⟩,
    ⟨having (cmd 0x86 [6]) (aborted State.reset), 1, cmd 0x86 [6], by decide +kernel⟩,
    ⟨having (cmd 0x86 [6]) (joined State.reset), 1, cmd 0x86 [6], by decide +kernel⟩,
    ⟨having (cmd 0x87 [6]) (aborted { State.reset with ctxs := [(5, { stepNo := 9 })] }), 1, cmd 0x87 [6], by decide +kernel⟩⟩

theorem witness_PowerKeepsItsCapPaceAndThresholds :
    (∃ (s : State) (k : Nat) (c : Cmd), (s.cmdAt k 144 = some c) ∧ (checkCapSet s c = none)) ∧
    (∃ (s : State) (src : Nat) (value : Nat), (src = 2 ∨ s.reaches src = true) ∧ (s.mainOn = true) ∧ (2400 ≤ value % 2 ^ 13) ∧ (value %
      2 ^ 13 ≤ 5400)) ∧
    (∃ (s : State) (src : Nat) (value : Nat), (src = 2 ∨ s.reaches src = true) ∧ (s.mainOn = true) ∧ (2400 ≤ value % 2 ^ 13) ∧ (value %
      2 ^ 13 ≤ 5400)) ∧
    (∃ (s : State) (src : Nat) (value : Nat), (src = 2 ∨ s.reaches src = true) ∧ (s.mainOn = true) ∧ (value % 2 ^ 13 < 2400 ∨ 5400 <
      value % 2 ^ 13)) ∧
    (∃ (s : State) (src : Nat) (value : Nat), (src = 2 ∨ s.reaches src = true) ∧ (s.mainOn = true) ∧ (value % 2 ^ 13 < 2400 ∨ 5400 <
      value % 2 ^ 13)) ∧
    (∃ (s : State) (k : Nat) (c : Cmd), (s.cmdAt k 145 = some c) ∧ (checkEnergyRead s c = none)) ∧
    (∃ (s : State) (k : Nat) (c : Cmd), (s.cmdAt k 146 = some c) ∧ (checkPhaseHint s c = none)) ∧
    (∃ (s : State) (k : Nat) (c : Cmd), (s.cmdAt k 146 = some c) ∧ (checkPhaseHint s c = none)) ∧
    (∃ (s : State) (d : Nat) (p : Nat), (d < 8) ∧ (s.mainOn = true) ∧ (p = s.rd (PWR.DIE_STATUS.PACE d)) ∧ (p ≤ 64)) ∧
    (∃ (s : State) (d : Nat) (p : Nat), (d < 8) ∧ (s.mainOn = true) ∧ (p = s.rd (PWR.DIE_STATUS.PACE d)) ∧ (p ≤ 64)) ∧
    (∃ (s : State) (d : Nat) (p : Nat), (d < 8) ∧ (s.mainOn = true) ∧ (p = s.rd (PWR.DIE_STATUS.PACE d)) ∧ (p ≤ 64)) ∧
    (∃ (s : State), (s.rd PWR.THERM.CUT = 1) ∧ (1000 ≤ s.power.cool)) ∧
    (∃ (s : State) (n : Nat), (s.mainOn = true) ∧ (s.bimon = true) ∧ (3 ≤ (aFind s.power.missing n).getD 0)) ∧
    (∃ (s : State) (n : Nat) (reading : Nat), (460 ≤ reading) ∧ (heatSensor n = true) ∧ (s.mgmt.standby = true)) ∧
    (∃ (s : State) (rail : Nat) (phase : Nat), (s.mgmt.railsAt.isSome = true) ∧ (rail < 8) ∧ (phase < 24) ∧ (s.unitState 4 rail phase =
      0)) ∧
    (∃ (s : State) (rail : Nat) (phase : Nat) (u : Nat) (at' : Nat), (rail < 8) ∧ (phase < 24) ∧ (s.tickSince at' = true) ∧ (List.find?
      (fun p => p.1 == rail) s.power.phases = some (rail, phase, at')) ∧ ((s.unitsIn 4 rail 1).head? = some u) ∧ (u ≠ phase)) ∧
    (∃ (s : State) (at' : Nat), (s.power.released = some at') ∧ (s.bimon = true) ∧ (at' + 1000000000 ≤ s.now) ∧ (s.power.capSet = false)
      ∧ (s.effective 1 = false)) :=
  ⟨⟨having (cmd 0x90 [3000]) (awake State.reset), 1, cmd 0x90 [3000], by decide +kernel⟩,
    ⟨awake State.reset, 2, 5400, by decide +kernel⟩,
    ⟨near State.reset, 0, 2400, by decide +kernel⟩,
    ⟨near State.reset, 0, 2399, by decide +kernel⟩,
    ⟨awake State.reset, 2, 5401, by decide +kernel⟩,
    ⟨having (cmd 0x91 []) (awake State.reset), 1, cmd 0x91 [], by decide +kernel⟩,
    ⟨having (cmd 0x92 [16 + 128] 5) (awake ctxM), 1, cmd 0x92 [16 + 128] 5, by decide +kernel⟩,
    ⟨having (cmd 0x92 [64] 5) (awake ctxM), 1, cmd 0x92 [64] 5, by decide +kernel⟩,
    ⟨pace 64 (awake State.reset), 3, 64, by decide +kernel⟩,
    ⟨pace 64 (awake State.reset), 3, 64, by decide +kernel⟩,
    ⟨pace 0 (awake State.reset), 3, 0, by decide +kernel⟩,
    ⟨let s := setting [(PWR.THERM.CUT, 1), (PWR.LIMIT_NOW.THERMAL, 1)] (awake State.reset);
      { s with power := { s.power with cool := 1000 } }, by decide +kernel⟩,
    ⟨let s := awake State.reset; { s with power := { s.power with missing := [(5, 3)] } }, 5, by decide +kernel⟩,
    ⟨awake State.reset, 5, 460, by decide +kernel⟩,
    ⟨(awake State.reset).setUnit 4 7 23 0 0, 7, 23, by decide +kernel⟩,
    ⟨phS, 2, 3, phU, 5, by decide +kernel⟩,
    ⟨let s := awake State.reset; { s with power := { s.power with released := some 19_000_000_000, capBefore := 4000 } },
      19_000_000_000, by decide +kernel⟩⟩

theorem witness_PinsActWhenTheirEffectiveLevelChanges :
    (∃ (s : State), (s.mgmt.standby = true) ∧ (bit (s.rd DISC.INPUTS.LEVEL) 0 = false) ∧ (s.effective 0 = false)) ∧
    (∃ (s : State), (s.mgmt.standby = true) ∧ (bit (s.rd DISC.INPUTS.LEVEL) 0 = false) ∧ (s.effective 0 = false)) ∧
    (∃ (s : State), (s.mgmt.standby = true) ∧ (s.mainOn = true) ∧ (bit (s.rd DISC.INPUTS.LEVEL) 1 = false) ∧ (s.effective 1 = false)) ∧
    (∃ (s : State), (s.mgmt.standby = true) ∧ (bit (s.rd DISC.INPUTS.LEVEL) 1 = true) ∧ (bit (s.rd DISC.INPUTS.CHATTER) 1 = false) ∧
      (s.effective 1 = true)) ∧
    (∃ (s : State), (s.mgmt.standby = true) ∧ (s.mainOn = true) ∧ (bit (s.rd DISC.INPUTS.LEVEL) 2 = false) ∧ (s.effective 2 = false) ∧
      (s.rd PWR.LIMIT_NOW.COOLANT ≠ 1)) ∧
    (∃ (s : State), (s.mgmt.standby = true) ∧ (s.mainOn = true) ∧ (bit (s.rd DISC.INPUTS.LEVEL) 2 = false) ∧ (s.effective 2 = false) ∧
      (s.rd PWR.LIMIT_NOW.COOLANT ≠ 1)) ∧
    (∃ (s : State), (s.mgmt.standby = true) ∧ (bit (s.rd DISC.INPUTS.LEVEL) 2 = true) ∧ (bit (s.rd DISC.INPUTS.CHATTER) 2 = false) ∧
      (s.effective 2 = true)) ∧
    (∃ (s : State) (level : Nat), (s.mgmt.standby = true) ∧ (bit (s.rd DISC.INPUTS.LEVEL) 3 = !level == 1) ∧ (bit (s.rd
      DISC.INPUTS.CHATTER) 3 = false)) ∧
    (∃ (s : State) (level : Nat), (s.mgmt.standby = true) ∧ (bit (s.rd DISC.INPUTS.LEVEL) 3 = !level == 1) ∧ (bit (s.rd
      DISC.INPUTS.CHATTER) 3 = false)) ∧
    (∃ (s : State) (level : Nat), (s.mgmt.standby = true) ∧ (bit (s.rd DISC.INPUTS.LEVEL) 3 = !level == 1) ∧ (bit (s.rd
      DISC.INPUTS.CHATTER) 3 = false)) ∧
    (∃ (s : State), (s.mgmt.standby = true) ∧ (bit (s.rd DISC.INPUTS.LEVEL) 4 = false) ∧ (bit (s.rd DISC.INPUTS.CHATTER) 4 = false) ∧
      (bit (s.rd DISC.INPUTS.STUCK) 4 = false) ∧ (s.effective 4 = false)) ∧
    (∃ (s : State), (s.mgmt.standby = true) ∧ (bit (s.rd DISC.INPUTS.LEVEL) 4 = false) ∧ (bit (s.rd DISC.INPUTS.CHATTER) 4 = false) ∧
      (bit (s.rd DISC.INPUTS.STUCK) 4 = false) ∧ (s.effective 4 = false)) ∧
    (∃ (s : State), (s.mgmt.standby = true) ∧ (bit (s.rd DISC.INPUTS.LEVEL) 4 = false) ∧ (bit (s.rd DISC.INPUTS.CHATTER) 4 = false) ∧
      (bit (s.rd DISC.INPUTS.STUCK) 4 = false) ∧ (s.effective 4 = false)) ∧
    (∃ (s : State), (s.mgmt.standby = true) ∧ (bit (s.rd DISC.INPUTS.LEVEL) 4 = true)) ∧
    (∃ (s : State) (at' : Nat), (s.mgmt.drainSince = some at') ∧ (at' + 600000000000 ≤ s.now) ∧ (bit (s.rd DISC.INPUTS.STUCK) 4 =
      false)) ∧
    (∃ (s : State) (i : Nat), (i < 8) ∧ (65 ≤ (List.filter (fun t => decide (s.now < t + 1000000000)) (s.pinMoves i)).length) ∧ (bit
      (s.rd DISC.INPUTS.CHATTER) i = false)) ∧
    (∃ (s : State) (src : Nat) (i : Nat), (s.mgmt.standby = true) ∧ (src = 2 ∨ s.reaches src = true) ∧ (i < 8)) ∧
    (∃ (s : State) (src : Nat) (i : Nat), (s.mgmt.standby = true) ∧ (src = 2 ∨ s.reaches src = true) ∧ (i < 8)) ∧
    (∃ (s : State) (h : Nat), (h < 2) ∧ (s.mgmt.standby = true) ∧ (bit (s.rd DISC.INPUTS.LEVEL) (5 + h) = false) ∧ (s.effective (5 + h)
      = false)) ∧
    (∃ (s : State) (h : Nat), (h < 2) ∧ (s.mgmt.standby = true) ∧ (bit (s.rd DISC.INPUTS.LEVEL) (5 + h) = false) ∧ (s.effective (5 + h)
      = false)) ∧
    (∃ (s : State) (h : Nat), (h < 2) ∧ (s.mgmt.standby = true) ∧ (bit (s.rd DISC.INPUTS.LEVEL) (5 + h) = false) ∧ (s.effective (5 + h)
      = false)) ∧
    (∃ (s : State) (h : Nat), (h < 2) ∧ (s.mgmt.standby = true) ∧ (bit (s.rd DISC.INPUTS.LEVEL) (5 + h) = true) ∧ (bit (s.rd
      DISC.INPUTS.CHATTER) (5 + h) = false) ∧ (s.effective (5 + h) = true)) ∧
    (∃ (s : State), (s.mgmt.standby = true) ∧ (bit (s.rd DISC.INPUTS.LEVEL) 7 = false) ∧ (s.effective 7 = false)) ∧
    (∃ (s : State), (s.mgmt.standby = true) ∧ (bit (s.rd DISC.INPUTS.LEVEL) 7 = true) ∧ (bit (s.rd DISC.INPUTS.CHATTER) 7 = false) ∧
      (s.effective 7 = true)) :=
  ⟨⟨awake State.reset, by decide +kernel⟩,
    ⟨pins 2 2 (awake State.reset), by decide +kernel⟩,
    ⟨awake State.reset, by decide +kernel⟩,
    ⟨pins 2 2 (awake State.reset), by decide +kernel⟩,
    ⟨awake State.reset, by decide +kernel⟩,
    ⟨pins 2 2 (awake State.reset), by decide +kernel⟩,
    ⟨pins 4 4 (awake State.reset), by decide +kernel⟩,
    ⟨pins 0 0 (awake State.reset), 1, by decide +kernel⟩,
    ⟨pins 8 8 (awake State.reset), 0, by decide +kernel⟩,
    ⟨awake State.reset, 1, by decide +kernel⟩,
    ⟨pins 0 0 (awake State.reset), by decide +kernel⟩,
    ⟨pins 4 4 (awake State.reset), by decide +kernel⟩,
    ⟨awake State.reset, by decide +kernel⟩,
    ⟨pins 16 16 (awake State.reset), by decide +kernel⟩,
    ⟨let s := awake State.reset; { s with mgmt := { s.mgmt with drainSince := some 5 }, now := 600_000_000_005 }, 5, by decide +kernel⟩,
    ⟨let s := awake State.reset; { s with mgmt := { s.mgmt with moves := [(6, List.replicate 65 19_500_000_000)] } }, 6,
      by decide +kernel⟩,
    ⟨setting [(DISC.INPUTS.CHATTER, 64)] (near State.reset), 0, 6, by decide +kernel⟩,
    ⟨setting [(DISC.INPUTS.CHATTER, 64)] (near State.reset), 0, 6, by decide +kernel⟩,
    ⟨attach (awake State.reset), 0, by decide +kernel⟩,
    ⟨awake State.reset, 1, by decide +kernel⟩,
    ⟨pins 0 0 (awake State.reset), 1, by decide +kernel⟩,
    ⟨pins 96 96 (awake State.reset), 1, by decide +kernel⟩,
    ⟨awake State.reset, by decide +kernel⟩,
    ⟨pins 128 128 (awake State.reset), by decide +kernel⟩⟩

theorem witness_TheModuleStartsTicksAndRestarts :
    (∃ s : State, s.mgmt.standby = false) ∧
    (∃ s : State, s.mgmt.standby = true) ∧
    (∃ (s : State), (s.mgmt.railsDue = true) ∧ (s.railsMayStart = true)) ∧
    (∃ (s : State), (s.mgmt.railsDue = false ∨ s.railsMayStart = false)) ∧
    (∃ (s : State), (s.mgmt.railsDue = false ∨ s.railsMayStart = false)) ∧
    (∃ (s : State) (at' : Nat), (s.mgmt.railsAt = some at') ∧ (s.mainOn = false) ∧ (at' + 20000000 ≤ s.now)) ∧
    (∃ (s : State), (s.mgmt.railsAt.isSome = true)) ∧
    (∃ (s : State), (s.mainOn = true) ∧ (s.rd CLK.ROOT.READY ≠ 1)) ∧
    (∃ (s : State), (s.mainOn = true) ∧ (s.rd CLK.ROOT.READY = 1) ∧ (s.mgmt.amelo = false) ∧ (s.bimon = true) ∧ (s.bootPick 2 = none)) ∧
    (∃ (s : State), (s.mgmt.standby = true) ∧ (s.mgmt.lastTick < tickOf s.timeBase)) ∧
    (∃ (s : State), (s.mgmt.standby = true) ∧ (s.mgmt.lastTick < tickOf s.timeBase)) ∧
    (∃ (s : State) (n : Nat), (s.bimon = true) ∧ (s.mgmt.alive + 50000000 ≤ s.now) ∧ (n = (List.filter (fun t => decide (s.now < t +
      10000000000)) s.mgmt.restarts).length + 1)) ∧
    (∃ (s : State) (n : Nat), (s.bimon = true) ∧ (s.mgmt.alive + 50000000 ≤ s.now) ∧ (n = (List.filter (fun t => decide (s.now < t +
      10000000000)) s.mgmt.restarts).length + 1)) ∧
    (∃ (s : State), (s.rd MGMT.STATUS.BIMON = 2)) ∧
    (∃ (s : State), (s.bimon = true) ∧ (s.rd MGMT.STATUS.RM_SILENT ≠ 1) ∧ (s.mgmt.heard + s.rd MGMT.RM_CTL.SILENCE_S * 1000000000 ≤
      s.now)) :=
  ⟨⟨State.reset, by decide +kernel⟩,
    ⟨awake State.reset, by decide +kernel⟩,
    ⟨due mrS, by decide +kernel⟩,
    ⟨mrS, by decide +kernel⟩,
    ⟨due State.reset, by decide +kernel⟩,
    ⟨let s := awake State.reset; { setting [(MGMT.STATUS.MAIN_ON, 0)] s with now := 20_000_000 }, 0, by decide +kernel⟩,
    ⟨awake State.reset, by decide +kernel⟩,
    ⟨setting [(CLK.ROOT.READY, 0)] (awake State.reset), by decide +kernel⟩,
    ⟨noAmelo (awake State.reset), by decide +kernel⟩,
    ⟨awake State.reset, by decide +kernel⟩,
    ⟨setting [(MGMT.STATUS.BIMON, 2)] (awake State.reset), by decide +kernel⟩,
    ⟨awake State.reset, 1, by decide +kernel⟩,
    ⟨let s := awake State.reset; { s with mgmt := { s.mgmt with restarts := [19_000_000_000, 18_000_000_000, 5] } }, 3,
      by decide +kernel⟩,
    ⟨setting [(MGMT.STATUS.BIMON, 2)] (awake State.reset), by decide +kernel⟩,
    ⟨setting [(MGMT.RM_CTL.SILENCE_S, 10)] (awake State.reset), by decide +kernel⟩⟩

theorem witness_ClocksMoveStopReturnAndGate :
    (∃ (s : State), (s.mgmt.standby = true) ∧ (s.rd CLK.INT.FAILED ≠ 1)) ∧
    (∃ (s : State), (s.mgmt.standby = true) ∧ (s.rd CLK.INT.FAILED ≠ 1) ∧ (s.mainOn = true) ∧ (s.rd CLK.ROOT.READY = 1)) ∧
    (∃ (s : State) (kind : Nat) (dom : Nat), (s.mgmt.standby = true) ∧ (s.rd CLK.INT.FAILED ≠ 1) ∧ (2 ≤ kind) ∧ (dom < 100) ∧ (s.mainOn
      = true ∨ 90 ≤ dom) ∧ (s.rd (CLK.DOM.STOPPED dom) ≠ 1) ∧ (s.rd (CLK.DOM.GATED dom) ≠ 1)) ∧
    (∃ (s : State) (kind : Nat) (dom : Nat), (s.mgmt.standby = true) ∧ (s.rd CLK.INT.FAILED ≠ 1) ∧ (2 ≤ kind) ∧ (dom < 100) ∧ (s.mainOn
      = true ∨ 90 ≤ dom) ∧ (s.rd (CLK.DOM.STOPPED dom) ≠ 1) ∧ (s.rd (CLK.DOM.GATED dom) ≠ 1)) ∧
    (∃ (s : State), (s.bimon = true) ∧ (s.mgmt.clocksDue = true) ∧ (s.rd CLK.ROOT.READY = 1) ∧ (s.rd CLK.CTL.AUTO_RETURN = 1) ∧ (∀ i ∈
      s.clkMoved, i < 100)) ∧
    (∃ (s : State) (k : Nat) (c : Cmd), (s.cmdAt k 162 = some c) ∧ (checkClockSelect s c = none) ∧ (s.selected c = true)) ∧
    (∃ (s : State) (k : Nat) (c : Cmd), (s.cmdAt k 162 = some c) ∧ (checkClockSelect s c = none) ∧ (s.selected c = false) ∧ (s.srcReady
      c.domBit = false)) ∧
    (∃ (s : State) (k : Nat) (c : Cmd), (s.cmdAt k 162 = some c) ∧ (checkClockSelect s c = none) ∧ (s.selected c = false) ∧ (s.srcReady
      c.domBit = true)) ∧
    (∃ (s : State) (k : Nat) (c : Cmd), (s.cmdAt k 163 = some c) ∧ (checkGateSet s c = none) ∧ (s.rd (CLK.DOM.GATED c.dom) = c.domBit)) ∧
    (∃ (s : State) (k : Nat) (c : Cmd), (s.cmdAt k 163 = some c) ∧ (checkGateSet s c = none) ∧ (s.rd (CLK.DOM.GATED c.dom) ≠ c.domBit)) :=
  ⟨⟨awake State.reset, by decide +kernel⟩,
    ⟨awake State.reset, by decide +kernel⟩,
    ⟨awake State.reset, 2, 99, by decide +kernel⟩,
    ⟨awake State.reset, 2, 3, by decide +kernel⟩,
    ⟨let s := due (setting [(CLK.CTL.AUTO_RETURN, 1), (CLK.DOM.SOURCE 99, 1)] (awake State.reset)); { s with clkMoved := [99] },
      by decide +kernel⟩,
    ⟨having (ckC 0x63) (setting [(CLK.DOM.INT_OK 99, 1), (CLK.DOM.SOURCE 99, 0)] (awake State.reset)), 1, ckC 0x63, by decide +kernel⟩,
    ⟨having (ckC 0x163) (setting [(CLK.DOM.INT_OK 99, 1), (CLK.DOM.SOURCE 99, 0), (CLK.INT.READY, 0)] (awake State.reset)), 1, ckC
      0x163, by decide +kernel⟩,
    ⟨having (ckC 0x163) (setting [(CLK.DOM.INT_OK 99, 1), (CLK.DOM.SOURCE 99, 0)] (awake State.reset)), 1, ckC 0x163, by decide +kernel⟩,
    ⟨having (gtC 3) (awake State.reset), 1, gtC 3, by decide +kernel⟩,
    ⟨having (gtC 0x103) (awake State.reset), 1, gtC 0x103, by decide +kernel⟩⟩

theorem witness_HostsLinkAttachDetachAndAreLost :
    (∃ (s : State) (h : Nat), (h < 2) ∧ ((s.port h).training = true) ∧ ((s.port h).perst = false)) ∧
    (∃ (s : State) (h : Nat), (h < 2) ∧ ((s.port h).training = true) ∧ ((s.port h).perst = false)) ∧
    (∃ (s : State) (h : Nat), (h < 2) ∧ (s.hostState h = 1)) ∧
    (∃ (s : State) (h : Nat), (h < 2) ∧ (s.hostState h = 2) ∧ (∀ x ∈ List.map Prod.fst s.ctxs, x < 1024)) ∧
    (∃ (s : State) (h : Nat) (cause : Nat), (h < 2) ∧ (s.hostState h = 2) ∧ (1 ≤ cause) ∧ (cause ≤ 6) ∧ (cause ≠ 2)) ∧
    (∃ (s : State) (h : Nat) (cause : Nat), (h < 2) ∧ (s.hostState h = 2) ∧ (1 ≤ cause) ∧ (cause ≤ 6) ∧ (cause ≠ 2)) ∧
    (∃ (s : State) (h : Nat) (cause : Nat), (h < 2) ∧ (s.hostState h = 2) ∧ (1 ≤ cause) ∧ (cause ≤ 6) ∧ (cause ≠ 2)) ∧
    (∃ (s : State) (h : Nat), (h < 2) ∧ (s.hostState h = 3) ∧ ((s.port h).lossRunning = true)) ∧
    (∃ (s : State) (h : Nat), (h < 2) ∧ (s.hostState h = 3) ∧ ((s.port h).lossRunning = true)) ∧
    (∃ (s : State) (h : Nat), (h < 2) ∧ (s.rd (HIF.PORT_STATUS.LINK_UP h) ≠ 1)) ∧
    (∃ (s : State) (h : Nat), (h < 2) ∧ (s.rd (HIF.PORT_STATUS.LINK_UP h) = 1) ∧ (s.mgmt.amelo = false)) ∧
    (∃ (s : State) (h : Nat) (fn : Nat), (h < 2) ∧ (s.rd (HIF.PORT_STATUS.LINK_UP h) = 1) ∧ (s.mgmt.amelo = true) ∧ (fn ≠ 0)) ∧
    (∃ (s : State) (h : Nat) (fn : Nat) (write : Nat), (h < 2) ∧ (s.rd (HIF.PORT_STATUS.LINK_UP h) = 1) ∧ (s.mgmt.amelo = true) ∧ (fn =
      0) ∧ (write = 0)) ∧
    (∃ (s : State) (h : Nat) (fn : Nat) (reg : Nat) (write : Nat), (h < 2) ∧ (s.rd (HIF.PORT_STATUS.LINK_UP h) = 1) ∧ (s.mgmt.amelo =
      true) ∧ (fn = 0) ∧ (write ≠ 0) ∧ (reg = 1)) ∧
    (∃ (s : State) (h : Nat) (value : Nat), (s.reaches h = true) ∧ (s.rd (CLK.DOM.GATED (80 + h)) ≠ 1) ∧ (bit value 0 = true) ∧
      (s.hostState h = 1) ∧ (s.rd (HIF.PORT_STATUS.BME h) = 1)) ∧
    (∃ (s : State) (h : Nat) (value : Nat), (s.reaches h = true) ∧ (s.rd (CLK.DOM.GATED (80 + h)) ≠ 1) ∧ (bit value 0 = true) ∧
      (s.hostState h ≠ 1 ∨ s.rd (HIF.PORT_STATUS.BME h) ≠ 1)) ∧
    (∃ (s : State) (h : Nat) (value : Nat), (s.reaches h = true) ∧ (s.rd (CLK.DOM.GATED (80 + h)) ≠ 1) ∧ (bit value 0 = true) ∧
      (s.hostState h ≠ 1 ∨ s.rd (HIF.PORT_STATUS.BME h) ≠ 1)) ∧
    (∃ (s : State) (h : Nat) (value : Nat), (s.reaches h = true) ∧ (s.rd (CLK.DOM.GATED (80 + h)) ≠ 1) ∧ (bit value 0 = true) ∧
      (s.hostState h ≠ 1 ∨ s.rd (HIF.PORT_STATUS.BME h) ≠ 1)) ∧
    (∃ (s : State) (h : Nat) (value : Nat), (s.reaches h = true) ∧ (s.rd (CLK.DOM.GATED (80 + h)) ≠ 1) ∧ (bit value 0 = false) ∧
      (s.hostState h = 2) ∧ (∀ c < 128, c / 64 = h → s.rd (CMD.CHAN_CTL.ENABLE c) ≠ 1) ∧ (∀ x ∈ List.map Prod.fst s.ctxs, ¬(s.rd
      (SCHED.CTX_STATE.LIFE x) = 1 ∧ s.rd (SCHED.CTX_STATE.OWNER x) = h))) ∧
    (∃ (s : State) (src : Nat) (h : Nat) (q : Nat), (src = 2 ∨ s.reaches src = true) ∧ (h < 2) ∧ (s.rd (CLK.DOM.GATED (80 + h)) ≠ 1) ∧
      (q = s.rd (HIF.ORPHAN_ADDR.OFFSET h))) ∧
    (∃ (s : State) (src : Nat) (h : Nat) (q : Nat), (src = 2 ∨ s.reaches src = true) ∧ (h < 2) ∧ (s.rd (CLK.DOM.GATED (80 + h)) ≠ 1) ∧
      (q = s.rd (HIF.ORPHAN_ADDR.OFFSET h))) ∧
    (∃ (s : State) (h : Nat) (off : Nat) (size : Nat) (i : Nat) (w : Nat → Nat → Nat), (s.reaches h = true) ∧ (msixBase ≤ off) ∧ (off +
      size ≤ msixBase + 2048 * 16) ∧ (i = (off - msixBase) / 4) ∧ (∀ (i v : Nat), w i v = if i % 4 = 3 then v % 2 else if i % 4 = 0 then
      v % 2 ^ 32 / 4 * 4 else v % 2 ^ 32) ∧ (size = 4) ∧ (off % 4 = 0)) ∧
    (∃ (s : State) (h : Nat) (off : Nat) (size : Nat) (i : Nat) (w : Nat → Nat → Nat), (s.reaches h = true) ∧ (msixBase ≤ off) ∧ (off +
      size ≤ msixBase + 2048 * 16) ∧ (i = (off - msixBase) / 4) ∧ (∀ (i v : Nat), w i v = if i % 4 = 3 then v % 2 else if i % 4 = 0 then
      v % 2 ^ 32 / 4 * 4 else v % 2 ^ 32) ∧ (size = 8) ∧ (off % 8 = 0)) ∧
    (∃ (s : State) (h : Nat) (off : Nat) (size : Nat) (i : Nat) (w : Nat → Nat → Nat), (s.reaches h = true) ∧ (msixBase ≤ off) ∧ (off +
      size ≤ msixBase + 2048 * 16) ∧ (i = (off - msixBase) / 4) ∧ (∀ (i v : Nat), w i v = if i % 4 = 3 then v % 2 else if i % 4 = 0 then
      v % 2 ^ 32 / 4 * 4 else v % 2 ^ 32) ∧ (size = 4 ∨ size = 8) ∧ (off % size ≠ 0)) :=
  ⟨⟨let s := awake State.reset; { s with ports := [(1, { training := true })] }, 1, by decide +kernel⟩,
    ⟨let s := linkUp 1 2 (awake State.reset); { s with ports := [(1, { training := true })] }, 1, by decide +kernel⟩,
    ⟨linkUp 1 1 (awake State.reset), 1, by decide +kernel⟩,
    ⟨having (cmd 0x20 [] 5) (setting [(CMD.CHAN_CTL.ENABLE 0, 1)] (linkUp 0 2 (awake { ctxM with ctxs := [(5, {})] }))), 0,
      by decide +kernel⟩,
    ⟨linkUp 0 2 (awake State.reset), 0, 5, by decide +kernel⟩,
    ⟨linkUp 0 2 (awake State.reset), 0, 1, by decide +kernel⟩,
    ⟨linkUp 0 2 (awake State.reset), 0, 6, by decide +kernel⟩,
    ⟨let s := setting [(HIF.PORT_STATUS.LOSS_CAUSE 0, 5)] (linkUp 0 3 (awake State.reset));
      { s with ports := [(0, { lossRunning := true })] }, 0, by decide +kernel⟩,
    ⟨let s := setting [(HIF.PORT_STATUS.LINK_UP 0, 0)] (linkUp 0 3 (awake State.reset));
      { s with ports := [(0, { lossRunning := true })] }, 0, by decide +kernel⟩,
    ⟨State.reset, 0, by decide +kernel⟩,
    ⟨linkUp 0 1 State.reset, 0, by decide +kernel⟩,
    ⟨aml (linkUp 0 1 (awake State.reset)), 0, 1, by decide +kernel⟩,
    ⟨aml (linkUp 0 1 (awake State.reset)), 0, 0, 0, by decide +kernel⟩,
    ⟨aml (linkUp 0 2 (awake State.reset)), 0, 0, 1, 1, by decide +kernel⟩,
    ⟨linkUp 1 1 (awake State.reset), 1, 1 + 0x90000, by decide +kernel⟩,
    ⟨linkUp 1 2 (awake State.reset), 1, 1 + 0x90000, by decide +kernel⟩,
    ⟨linkUp 0 2 (awake State.reset), 0, 5, by decide +kernel⟩,
    ⟨linkUp 0 2 (awake State.reset), 0, 1, by decide +kernel⟩,
    ⟨linkUp 1 2 (awake State.reset), 1, 0x100, by decide +kernel⟩,
    ⟨near (setting [(HIF.ORPHAN_ADDR.OFFSET 1, 0x100)] State.reset), 0, 1, 0x100, by decide +kernel⟩,
    ⟨near (setting [(HIF.ORPHAN_ADDR.OFFSET 0, 0x100)] State.reset), 2, 0, 0x100, by decide +kernel⟩,
    ⟨near State.reset, 0, msixBase + 16, 4, 4, mw, by decide +kernel, by decide +kernel, by decide +kernel, by decide +kernel, fun _ _
      => rfl, by decide +kernel, by decide +kernel⟩,
    ⟨near State.reset, 0, msixBase + 2048 * 16 - 8, 8, 8190, mw, by decide +kernel, by decide +kernel, by decide +kernel,
      by decide +kernel, fun _ _ => rfl, by decide +kernel, by decide +kernel⟩,
    ⟨near State.reset, 0, msixBase + 4, 8, 1, mw, by decide +kernel, by decide +kernel, by decide +kernel, by decide +kernel, fun _ _ =>
      rfl, by decide +kernel, by decide +kernel⟩⟩

theorem witness_RegistersAndTheScorebookAreReadAndWritten :
    (∃ (s : State) (src : Nat) (off : Nat) (r : Reg), (off % 8 = 0) ∧ (s.reaches src = true) ∧ (inWindows off = false) ∧ (inMsix off =
      false) ∧ (regAt off = some r) ∧ (s.gatedReg r = false) ∧ (r.owner = none ∨ r.owner = some src) ∧ (r.acts = false) ∧ (∀ p ∈
      r.fields, s.rd p.1 < 2 ^ p.1.w)) ∧
    (∃ (s : State) (src : Nat) (off : Nat) (r : Reg) (h : Nat), (off % 8 = 0) ∧ (s.reaches src = true) ∧ (inWindows off = false) ∧
      (inMsix off = false) ∧ (regAt off = some r) ∧ (s.gatedReg r = false) ∧ (r.owner = some h) ∧ (h ≠ src)) ∧
    (∃ (s : State) (src : Nat) (off : Nat), (off % 8 = 0) ∧ (s.reaches src = true) ∧ (inWindows off = false) ∧ (inMsix off = false) ∧
      (regAt off = some Reg.SERVE_CACHE_POOL) ∧ (∀ p ∈ Reg.SERVE_CACHE_POOL.fields, s.rd p.1 < 2 ^ p.1.w)) ∧
    (∃ (s : State) (src : Nat) (off : Nat), (off % 8 = 0) ∧ (s.reaches src = true) ∧ (inWindows off = false) ∧ (inMsix off = false) ∧
      (regAt off = none)) ∧
    (∃ (s : State) (src : Nat) (off : Nat) (size : Nat), (s.reaches src = true) ∧ (inWindows off = false) ∧ (inMsix off = false) ∧ (off
      % 8 ≠ 0 ∨ 0 < size ∧ size < 8) ∧ (s.gatedAt off = false)) ∧
    (∃ (s : State) (src : Nat) (off : Nat) (size : Nat), (s.reaches src = true) ∧ (inWindows off = false) ∧ (inMsix off = false) ∧ (off
      % 8 ≠ 0 ∨ 0 < size ∧ size < 8) ∧ (s.gatedAt off = false)) ∧
    (∃ (s : State) (u : State) (src : Nat) (off : Nat) (value : Nat), (off % 8 = 0) ∧ (s.reaches src = true) ∧ (inWindows off = false) ∧
      (inMsix off = false) ∧ (inWindows (off + 8) = false) ∧ (inMsix (off + 8) = false) ∧ (exec (Instr.registerWrite src off (value % 2
      ^ 64) 8) s = Host.Outcome.next u) ∧ (u.reaches src = true)) ∧
    (∃ (s : State) (src : Nat) (h : Nat) (off : Nat) (value : Nat) (size : Nat) (data : List Nat) (i : Instr), (src < 2) ∧ (s.reaches
      src = false) ∧ (i ∈ [Instr.registerWrite src off value size, Instr.rcRead src off size, Instr.windowWrite src off data,
      Instr.msixTableWrite src off value size, Instr.orphanDataRead src h, Instr.intakeWrite src off data, Instr.faultResolve src value,
      Instr.readDataRead src, Instr.reportDataRead src h]) ∧ (s.rd (HIF.PORT_STATUS.LINK_UP src) = 1)) ∧
    (∃ (s : State) (src : Nat) (h : Nat) (off : Nat) (value : Nat) (size : Nat) (data : List Nat) (i : Instr), (src < 2) ∧ (s.reaches
      src = false) ∧ (i ∈ [Instr.registerWrite src off value size, Instr.rcRead src off size, Instr.windowWrite src off data,
      Instr.msixTableWrite src off value size, Instr.orphanDataRead src h, Instr.intakeWrite src off data, Instr.faultResolve src value,
      Instr.readDataRead src, Instr.reportDataRead src h]) ∧ (s.rd (HIF.PORT_STATUS.LINK_UP src) = 1)) ∧
    (∃ (s : State) (src : Nat) (h : Nat) (off : Nat) (value : Nat) (size : Nat) (data : List Nat) (i : Instr), (src < 2) ∧ (s.reaches
      src = false) ∧ (i ∈ [Instr.registerWrite src off value size, Instr.rcRead src off size, Instr.windowWrite src off data,
      Instr.msixTableWrite src off value size, Instr.orphanDataRead src h, Instr.intakeWrite src off data, Instr.faultResolve src value,
      Instr.readDataRead src, Instr.reportDataRead src h]) ∧ (s.rd (HIF.PORT_STATUS.LINK_UP src) ≠ 1)) ∧
    (∃ (s : State) (src : Nat) (h : Nat) (off : Nat) (value : Nat) (size : Nat) (data : List Nat) (i : Instr), (src < 2) ∧ (s.reaches
      src = false) ∧ (i ∈ [Instr.registerWrite src off value size, Instr.rcRead src off size, Instr.windowWrite src off data,
      Instr.msixTableWrite src off value size, Instr.orphanDataRead src h, Instr.intakeWrite src off data, Instr.faultResolve src value,
      Instr.readDataRead src, Instr.reportDataRead src h]) ∧ (s.rd (HIF.PORT_STATUS.LINK_UP src) ≠ 1)) ∧
    (∃ (s : State) (src : Nat) (off : Nat) (r : Reg), (off % 8 = 0) ∧ (s.reaches src = true) ∧ (inMsix off = false) ∧ (regAt off = some
      r) ∧ (s.gatedReg r = false) ∧ (r.streams = false)) ∧
    (∃ (s : State) (src : Nat) (off : Nat), (off % 8 = 0) ∧ (s.reaches src = true) ∧ (inMsix off = false) ∧ (regAt off = none)) ∧
    (∃ (s : State) (src : Nat) (off : Nat) (size : Nat), (s.reaches src = true) ∧ (off % 8 ≠ 0 ∨ size < 8)) ∧
    (∃ (s : State) (k : Nat) (first : Nat) (start : Nat) (newest : Nat) (c : Cmd), (s.cmdAt k 160 = some c) ∧ (checkScoreRead s c =
      none) ∧ (c.src < 3) ∧ (first = bits (c.p 0) 0 32) ∧ (start = (Option.map Record.seq (List.find? (fun r => decide (first ≤ r.seq))
      s.score.heldRecs)).getD (max first s.score.nextSeq)) ∧ (newest = (Option.map Record.seq s.score.heldRecs.getLast?).getD 0) ∧ (c.p
      1 = 0)) ∧
    (∃ (s : State) (k : Nat) (first : Nat) (start : Nat) (newest : Nat) (c : Cmd) (recs : List Record), (s.cmdAt k 160 = some c) ∧
      (checkScoreRead s c = none) ∧ (c.src < 3) ∧ (first = bits (c.p 0) 0 32) ∧ (start = (Option.map Record.seq (List.find? (fun r =>
      decide (first ≤ r.seq)) s.score.heldRecs)).getD (max first s.score.nextSeq)) ∧ (newest = (Option.map Record.seq
      s.score.heldRecs.getLast?).getD 0) ∧ (c.p 1 ≠ 0) ∧ (recs = List.take (bits (c.p 0) 32 16) (List.filter (fun r => decide (first ≤
      r.seq)) s.score.heldRecs))) ∧
    (∃ (s : State) (k : Nat) (c : Cmd), (s.cmdAt k 161 = some c) ∧ (checkScoreClear s c = none)) ∧
    (∃ (s : State) (src : Nat) (q : Nat) (w : Nat) (r : Record), (src = 2 ∨ s.reaches src = true) ∧ (q = s.rd (SCORE.READ_CURSOR.SEQ
      src)) ∧ (w = s.rd (SCORE.READ_CURSOR.WORD src)) ∧ (w = 0) ∧ (s.score.nextHeld q = some r)) ∧
    (∃ (s : State) (src : Nat) (q : Nat) (w : Nat), (src = 2 ∨ s.reaches src = true) ∧ (q = s.rd (SCORE.READ_CURSOR.SEQ src)) ∧ (w =
      s.rd (SCORE.READ_CURSOR.WORD src)) ∧ (w = 0) ∧ (s.score.nextHeld q = none)) ∧
    (∃ (s : State) (src : Nat) (q : Nat) (w : Nat) (l : List Nat), (src = 2 ∨ s.reaches src = true) ∧ (q = s.rd (SCORE.READ_CURSOR.SEQ
      src)) ∧ (w = s.rd (SCORE.READ_CURSOR.WORD src)) ∧ (w = 1 ∨ w = 2) ∧ (aFind s.score.latches src = some l)) ∧
    (∃ (s : State) (src : Nat) (q : Nat) (w : Nat) (l : List Nat), (src = 2 ∨ s.reaches src = true) ∧ (q = s.rd (SCORE.READ_CURSOR.SEQ
      src)) ∧ (w = s.rd (SCORE.READ_CURSOR.WORD src)) ∧ (w = 1 ∨ w = 2) ∧ (aFind s.score.latches src = some l)) ∧
    (∃ (s : State) (src : Nat) (q : Nat) (w : Nat) (l : List Nat), (src = 2 ∨ s.reaches src = true) ∧ (q = s.rd (SCORE.READ_CURSOR.SEQ
      src)) ∧ (w = s.rd (SCORE.READ_CURSOR.WORD src)) ∧ (w = 3) ∧ (aFind s.score.latches src = some l)) ∧
    (∃ (s : State), (s.rd SCORE.STATUS.FLUSHING = 1) ∧ (List.Pairwise (fun a b => a.seq < b.seq) s.score.ring)) :=
  ⟨⟨near State.reset, 0, 0x1000038, .MGMT_LOCATE, by decide +kernel⟩,
    ⟨near State.reset, 0, 328, .HIF_HOST_CTL 1, 1, by decide +kernel⟩,
    ⟨near State.reset, 0, cpOff, by decide +kernel⟩,
    ⟨near State.reset, 0, 24, by decide +kernel⟩,
    ⟨near State.reset, 0, 256, 4, by decide +kernel⟩,
    ⟨near State.reset, 0, 260, 8, by decide +kernel⟩,
    ⟨near State.reset, nextS (exec (.registerWrite 0 0x140 (5 % 2 ^ 64) 8) (near State.reset)), 0, 0x140, 5, by decide +kernel,
      by decide +kernel, by decide +kernel, by decide +kernel, by decide +kernel, by decide +kernel, next_ok (by decide +kernel),
      by decide +kernel⟩,
    ⟨setting [(HIF.PORT_STATUS.LINK_UP 0, 1)] State.reset, 0, 1, 256, 1, 8, [], .rcRead 0 256 8, by decide +kernel⟩,
    ⟨setting [(HIF.PORT_STATUS.LINK_UP 0, 1)] State.reset, 0, 1, 256, 1, 8, [], .registerWrite 0 256 1 8, by decide +kernel⟩,
    ⟨State.reset, 0, 1, 256, 1, 8, [], .registerWrite 0 256 1 8, by decide +kernel⟩,
    ⟨State.reset, 0, 1, 256, 1, 8, [], .orphanDataRead 0 1, by decide +kernel⟩,
    ⟨near State.reset, 0, 256, .HIF_PORT_STATUS 0, by decide +kernel⟩,
    ⟨near State.reset, 0, 24, by decide +kernel⟩,
    ⟨near State.reset, 0, 256, 4, by decide +kernel⟩,
    ⟨having (srC 0) (book (near State.reset)), 1, 3, 4, 6, srC 0, by decide +kernel⟩,
    ⟨having (srC 0x1000) (book (near State.reset)), 1, 3, 4, 6, srC 0x1000, [rec 4, rec 6], by decide +kernel⟩,
    ⟨having (cmd 0xA1 []) (book (near State.reset)), 1, cmd 0xA1 [], by decide +kernel⟩,
    ⟨cur 3 0 (book (linkUp 1 2 (near State.reset))), 1, 3, 0, rec 4, by decide +kernel⟩,
    ⟨cur 7 0 (book (linkUp 1 2 (near State.reset))), 1, 7, 0, by decide +kernel⟩,
    ⟨cur 4 1 (latched (linkUp 1 2 (near State.reset))), 1, 4, 1, (rec 4).words, by decide +kernel⟩,
    ⟨cur 4 2 (latched (linkUp 1 2 (near State.reset))), 1, 4, 2, (rec 4).words, by decide +kernel⟩,
    ⟨cur 4 3 (latched (linkUp 1 2 (near State.reset))), 1, 4, 3, (rec 4).words, by decide +kernel⟩,
    ⟨setting [(SCORE.STATUS.FLUSHING, 1)] (book State.reset), by decide +kernel⟩⟩

theorem witness_SecurityChallengesAttestsStagesAndCommits :
    (∃ (s : State) (k : Nat) (c : Cmd), (s.cmdAt k 179 = some c) ∧ (bit (c.p 0) 0 = false) ∧ (checkAuthChallenge s c = none)) ∧
    (∃ (s : State) (k : Nat) (fail : Nat) (c : Cmd), (s.cmdAt k 179 = some c) ∧ (bit (c.p 0) 0 = true) ∧ (checkOwnerEnrol s c = none) ∧
      (fail = 1)) ∧
    (∃ (s : State) (k : Nat) (fail : Nat) (c : Cmd), (s.cmdAt k 179 = some c) ∧ (bit (c.p 0) 0 = true) ∧ (checkOwnerEnrol s c = none) ∧
      (fail ≠ 1)) ∧
    (∃ (s : State) (src : Nat) (e : Nat), (aFind s.sec.expiry src = some e) ∧ (e ≤ s.timeBase)) ∧
    (∃ (s : State) (k : Nat) (c : Cmd), (s.cmdAt k 176 = some c) ∧ (checkAttest s c = none) ∧ (c.gone = false) ∧ (c.p 1 = 0) ∧ (bit (c.p
      0) 0 = true)) ∧
    (∃ (s : State) (k : Nat) (fail : Nat) (c : Cmd) (q : Nat) (l : List Nat), (s.cmdAt k 176 = some c) ∧ (checkAttest s c = none) ∧
      (c.gone = false) ∧ (c.p 1 = 0) ∧ (bit (c.p 0) 0 = false) ∧ ((List.filter (fun t => decide (s.now < t + 1000000000))
      s.sec.signed).length < 1000) ∧ (s.rd SEC.STATUS.EXHAUSTED ≠ 1) ∧ (q = s.rd SEC.SIG_NEXT.NEXT) ∧ (¬(q = s.sec.reserved ∧ fail = 1))
      ∧ (l = s.reportBody c q (List.take (c.aux.headD s.sec.stages.length) s.sec.stages))) ∧
    (∃ (s : State) (k : Nat) (c : Cmd), (s.cmdAt k 176 = some c) ∧ (checkAttest s c = none) ∧ (c.gone = false) ∧ (c.p 1 = 0) ∧ (bit (c.p
      0) 0 = false) ∧ (1000 ≤ (List.filter (fun t => decide (s.now < t + 1000000000)) s.sec.signed).length)) ∧
    (∃ (s : State) (src : Nat) (h : Nat) (l : List Nat) (i : Nat), (src = 2 ∨ s.reaches src = true) ∧ (aFind s.sec.reports h = some l) ∧
      (aFind s.sec.reportAt h = some i)) ∧
    (∃ (s : State) (k : Nat) (y : Nat) (b : Nat) (c : Cmd) (data : List Nat), (s.cmdAt k 177 = some c) ∧ (checkFwStage s c = none) ∧
      (bit (c.p 0) 3 = false) ∧ (y = c.fwType) ∧ (b = s.stageBank y) ∧ (data = if c.src = 2 then c.auth else s.hostRead c.src (c.p 1)
      c.fwLen) ∧ (bit (c.p 0) 2 = false)) ∧
    (∃ (s : State) (k : Nat) (y : Nat) (b : Nat) (c : Cmd) (data : List Nat) (d : Nat), (s.cmdAt k 177 = some c) ∧ (checkFwStage s c =
      none) ∧ (bit (c.p 0) 3 = false) ∧ (y = c.fwType) ∧ (b = s.stageBank y) ∧ (data = if c.src = 2 then c.auth else s.hostRead c.src
      (c.p 1) c.fwLen) ∧ (bit (c.p 0) 2 = true) ∧ ((s.stageChunk c).fwFault y b = some d)) ∧
    (∃ (s : State) (k : Nat) (y : Nat) (b : Nat) (c : Cmd), (s.cmdAt k 177 = some c) ∧ (bit (c.p 0) 3 = true) ∧ (checkFwAbort s c =
      none) ∧ (y = c.fwType) ∧ (b = s.stageBank y)) ∧
    (∃ (s : State) (k : Nat) (fail : Nat) (y : Nat) (b : Nat) (c : Cmd), (s.cmdAt k 178 = some c) ∧ (checkFwActivate s c = none) ∧ (y =
      c.fwType) ∧ (b = s.stageBank y) ∧ (fail = 1)) ∧
    (∃ (s : State) (k : Nat) (fail : Nat) (y : Nat) (b : Nat) (c : Cmd), (s.cmdAt k 178 = some c) ∧ (checkFwActivate s c = none) ∧ (y =
      c.fwType) ∧ (b = s.stageBank y) ∧ (fail ≠ 1)) ∧
    (∃ (s : State) (y : Nat), (y < 3) ∧ (s.tickSince ((aFind s.sec.ranAt y).getD 0) = true) ∧ (y ∈ s.sec.commits) ∧ (y ∉
      s.sec.activated) ∧ (s.rd (SEC.FW_STATE.ACTIVE_BANK y) = s.bootBank y) ∧ (y = 2 → s.mgmt.amelo = true)) :=
  ⟨⟨having (cmd 0xB3 [0]) (awake State.reset), 1, cmd 0xB3 [0], by decide +kernel⟩,
    ⟨oeS, 1, 1, oeC, by decide +kernel⟩,
    ⟨oeS, 1, 0, oeC, by decide +kernel⟩,
    ⟨{ State.reset with sec := { expiry := [(2, 5)], nonces := [(2, [1])] }, now := 5 }, 2, 5, by decide +kernel⟩,
    ⟨having (atC 1) (awake State.reset), 1, atC 1, by decide +kernel⟩,
    ⟨having (atC 0) (awake State.reset), 1, 0, atC 0, 0, (having (atC 0) (awake State.reset)).reportBody (atC 0) 0 [],
      by decide +kernel, by decide +kernel, by decide +kernel, by decide +kernel, by decide +kernel, by decide +kernel,
      by decide +kernel, by decide +kernel, by decide +kernel, rfl⟩,
    ⟨let s := having (atC 0) (awake State.reset); { s with sec := { s.sec with signed := List.replicate 1000 19_500_000_000 } }, 1, atC
      0, by decide +kernel⟩,
    ⟨linkUp 1 2 (awake { State.reset with sec := { reports := [(1, [1, 2, 3, 4, 5, 6, 7, 8, 9, 10])], reportAt := [(1, 8)] } }), 1, 1,
      [1, 2, 3, 4, 5, 6, 7, 8, 9, 10], 8, by decide +kernel⟩,
    ⟨fsS (fsC 1), 1, 1, 1, fsC 1, fsD, by decide +kernel⟩,
    ⟨fsS (fsC 5), 1, 1, 1, fsC 5, fsD, 0x1441, by decide +kernel⟩,
    ⟨having (cmd 0xB1 [9]) (awake State.reset), 1, 1, 1, cmd 0xB1 [9], by decide +kernel⟩,
    ⟨faS, 1, 1, 1, 1, faC, by decide +kernel⟩,
    ⟨faS, 1, 0, 1, 1, faC, by decide +kernel⟩,
    ⟨let s := setting [(SEC.FW_STATE.SVN 1, 7)] (awake State.reset); { s with sec := { s.sec with commits := [1] } }, 1,
      by decide +kernel⟩⟩

theorem witness_TheSideBandPortAnswersItsMessages :
    (∃ (s : State), (s.mgmt.standby = true) ∧ (s.effective 7 = false)) ∧
    (∃ (s : State), (s.mgmt.standby = true) ∧ (s.effective 7 = false)) ∧
    (∃ (s : State), (s.mgmt.standby = true) ∧ (s.effective 7 = false)) ∧
    (∃ (s : State), (s.sbUp = true)) ∧
    (∃ (s : State), (s.sbUp = true)) ∧
    (∃ (s : State), (s.sbUp = true)) ∧
    (∃ (s : State) (p : Instr × List Nat), (s.sbUp = true) ∧ (p ∈ [(Instr.getEndpointId, [s.rd MGMT.SB_STATUS.EID]),
      (Instr.getMessageTypeSupport, [0, 1, 126]), (Instr.getMctpVersionSupport, List.map Config.mctpVersion (List.range 4))])) ∧
    (∃ (s : State) (p : Instr × List Nat), (s.sbUp = true) ∧ (p ∈ [(Instr.getEndpointId, [s.rd MGMT.SB_STATUS.EID]),
      (Instr.getMessageTypeSupport, [0, 1, 126]), (Instr.getMctpVersionSupport, List.map Config.mctpVersion (List.range 4))])) ∧
    (∃ (s : State) (p : Instr × List Nat), (s.sbUp = true) ∧ (p ∈ [(Instr.getEndpointId, [s.rd MGMT.SB_STATUS.EID]),
      (Instr.getMessageTypeSupport, [0, 1, 126]), (Instr.getMctpVersionSupport, List.map Config.mctpVersion (List.range 4))])) ∧
    (∃ (s : State), (s.sbUp = true)) ∧
    (∃ (s : State), (s.sbUp = true)) ∧
    (∃ (s : State) (typ : Nat) (n : Nat) (p : Instr × List Nat), (s.sbUp = true) ∧ (n ∈ stateSensors) ∧ (p ∈ [(Instr.gettid,
      [Config.terminusId]), (Instr.getpldmversion typ, [Config.pldmVersion typ]), (Instr.getpldmtypes, [0, 2]), (Instr.getpldmcommands
      typ, pldmCommands typ), (Instr.getpdrrepositoryinfo, [50]), (Instr.getstatesensorreadings n, [(aFind s.mgmt.sensors n).getD 1])])) ∧
    (∃ (s : State) (typ : Nat) (n : Nat) (p : Instr × List Nat), (s.sbUp = true) ∧ (n ∈ stateSensors) ∧ (p ∈ [(Instr.gettid,
      [Config.terminusId]), (Instr.getpldmversion typ, [Config.pldmVersion typ]), (Instr.getpldmtypes, [0, 2]), (Instr.getpldmcommands
      typ, pldmCommands typ), (Instr.getpdrrepositoryinfo, [50]), (Instr.getstatesensorreadings n, [(aFind s.mgmt.sensors n).getD 1])])) ∧
    (∃ (s : State) (typ : Nat) (n : Nat) (p : Instr × List Nat), (s.sbUp = true) ∧ (n ∈ stateSensors) ∧ (p ∈ [(Instr.gettid,
      [Config.terminusId]), (Instr.getpldmversion typ, [Config.pldmVersion typ]), (Instr.getpldmtypes, [0, 2]), (Instr.getpldmcommands
      typ, pldmCommands typ), (Instr.getpdrrepositoryinfo, [50]), (Instr.getstatesensorreadings n, [(aFind s.mgmt.sensors n).getD 1])])) ∧
    (∃ (s : State) (n : Nat) (i : Nat), (s.sbUp = true) ∧ ((numericSensors ++ stateSensors)[i]? = some n)) ∧
    (∃ (s : State) (n : Nat) (v : Nat), (s.sbUp = true) ∧ (n ∈ numericSensors) ∧ (n ∉ s.mgmt.sensorOff) ∧ (s.mainOn = true) ∧ (aFind
      s.mgmt.sensors n = some v)) ∧
    (∃ (s : State) (n : Nat), (s.sbUp = true) ∧ (n ∈ numericSensors) ∧ (n ∈ s.mgmt.sensorOff)) ∧
    (∃ (s : State) (n : Nat), (s.sbUp = true) ∧ (n ∈ numericSensors) ∧ (n ∉ s.mgmt.sensorOff) ∧ (mainSensor n = true) ∧ (s.mainOn =
      false)) ∧
    (∃ (s : State) (n : Nat), (s.sbUp = true) ∧ (n ∈ numericSensors)) ∧
    (∃ (s : State) (n : Nat), (s.sbUp = true) ∧ (n ∈ numericSensors)) ∧
    (∃ (s : State) (n : Nat), (s.sbUp = true) ∧ (n ∈ numericSensors)) ∧
    (∃ (s : State) (bytes : List Nat), (s.sbUp = true) ∧ (bytes.length < 64)) ∧
    (∃ (s : State) (bytes : List Nat), (s.sbUp = true) ∧ (64 ≤ bytes.length) ∧ (8 ≤ s.sbOut)) ∧
    (∃ (s : State) (bytes : List Nat), (s.sbUp = true) ∧ (64 ≤ bytes.length) ∧ (s.sbOut < 8) ∧ (packetOk (List.take 64 bytes) = true)) ∧
    (∃ (s : State) (c : Cmd), (s.bimon = true) ∧ (s.mgmt.sbIn = [c]) ∧ (c.status = none) ∧ (tickOf c.since < tickOf s.timeBase) ∧
      (s.sbFenced c = false)) ∧
    (∃ (s : State) (c : Cmd), (s.bimon = true) ∧ (s.mgmt.sbIn = [c]) ∧ (c.status = none) ∧ (tickOf c.since < tickOf s.timeBase) ∧
      (s.sbFenced c = false)) ∧
    (∃ (s : State), (s.bimon = true)) ∧
    (∃ (s : State) (off : Nat) (n : Nat), (s.sbUp = true) ∧ (s.wstatus false off n ≠ 0)) ∧
    (∃ (s : State) (off : Nat) (n : Nat), (s.sbUp = true) ∧ (s.wstatus false off n ≠ 0)) ∧
    (∃ (s : State) (off : Nat) (n : Nat) (r : Reg), (s.sbUp = true) ∧ (n = 1) ∧ (s.wstatus false off n = 0) ∧ (inMsix off = false) ∧
      (regAt off = some r) ∧ (r.streams = false) ∧ (s.gatedReg r = false)) ∧
    (∃ (s : State) (off : Nat) (values : List Nat), (s.sbUp = true) ∧ (s.wstatus true off values.length ≠ 0)) ∧
    (∃ (s : State) (off : Nat) (values : List Nat) (v : Nat), (s.sbUp = true) ∧ (off = 16777272) ∧ (values = [v])) ∧
    (∃ (s : State) (off : Nat) (values : List Nat) (v : Nat), (s.sbUp = true) ∧ (off = 13631496) ∧ (values = [v]) ∧ (s.mainOn = true) ∧
      (2400 ≤ v % 2 ^ 13) ∧ (v % 2 ^ 13 ≤ 5400)) :=
  ⟨⟨awake State.reset, by decide +kernel⟩,
    ⟨awake State.reset, by decide +kernel⟩,
    ⟨sens [5] (awake State.reset), by decide +kernel⟩,
    ⟨awake State.reset, by decide +kernel⟩,
    ⟨awake State.reset, by decide +kernel⟩,
    ⟨sens [5] (awake State.reset), by decide +kernel⟩,
    ⟨setting [(MGMT.SB_STATUS.EID, 9)] (awake State.reset), (.getEndpointId, [9]), by decide +kernel⟩,
    ⟨awake State.reset, (.getMessageTypeSupport, [0x00, 0x01, 0x7E]), by decide +kernel⟩,
    ⟨awake State.reset, (.getMctpVersionSupport, (List.range 4).map Config.mctpVersion), by decide +kernel, .tail _ (.tail _ (.head _))⟩,
    ⟨awake State.reset, by decide +kernel⟩,
    ⟨having { sbC with status := some 0, since := 1 } (awake State.reset), by decide +kernel⟩,
    ⟨awake State.reset, 2, 64, (.gettid, [Config.terminusId]), by decide +kernel, by decide +kernel, .head _⟩,
    ⟨awake State.reset, 2, 64, (.getpldmversion 2, [Config.pldmVersion 2]), by decide +kernel, by decide +kernel, .tail _ (.head _)⟩,
    ⟨awake State.reset, 2, 64, (.getpldmtypes, [0, 2]), by decide +kernel⟩,
    ⟨awake State.reset, 64, 42, by decide +kernel⟩,
    ⟨sens [] (awake State.reset), 5, 44, by decide +kernel⟩,
    ⟨sens [5] (awake State.reset), 5, by decide +kernel⟩,
    ⟨setting [(MGMT.STATUS.MAIN_ON, 0)] (sens [] (awake State.reset)), 5, by decide +kernel⟩,
    ⟨sens [5, 6] (awake State.reset), 5, by decide +kernel⟩,
    ⟨sens [6] (awake State.reset), 5, by decide +kernel⟩,
    ⟨sens [] (awake State.reset), 5, by decide +kernel⟩,
    ⟨awake State.reset, List.replicate 63 0, by decide +kernel⟩,
    ⟨let s := awake State.reset; { s with mgmt := { s.mgmt with sbIn := List.replicate 8 sbC } }, packet 5, by decide +kernel⟩,
    ⟨awake State.reset, packet 5, by decide +kernel⟩,
    ⟨let s := awake State.reset; { s with mgmt := { s.mgmt with sbIn := [sbC], amelo := true } }, sbC, by decide +kernel⟩,
    ⟨let s := awake State.reset; { s with mgmt := { s.mgmt with sbIn := [{ sbC with words := [0x90] }] } },
      { sbC with words := [0x90] }, by decide +kernel⟩,
    ⟨having { sbC with status := some 0, since := 1 } (awake State.reset), by decide +kernel⟩,
    ⟨awake State.reset, 0x1000038, 9, by decide +kernel⟩,
    ⟨setting [(MGMT.STATUS.MAIN_ON, 0)] (awake State.reset), 256, 1, by decide +kernel⟩,
    ⟨awake State.reset, 0x1000038, 1, .MGMT_LOCATE, by decide +kernel⟩,
    ⟨awake State.reset, 256, [1], by decide +kernel⟩,
    ⟨awake State.reset, 0x1000038, [3], 3, by decide +kernel⟩,
    ⟨awake State.reset, 0xD00008, [3000], 3000, by decide +kernel⟩⟩

/-- Amelo's own start, where its image passes verification, which no definition of this model decides (log entry 10). -/
theorem witness_TheModuleStartsTicksAndRestarts_verified (h : (awake State.reset).fwFault 2 0 = none) :
    ∃ (s : State) (p : Nat × Bool), (s.mainOn = true) ∧ (s.rd CLK.ROOT.READY = 1) ∧ (s.mgmt.amelo = false) ∧ (s.bimon = true) ∧
      (s.bootPick 2 = some p) :=
  ⟨awake State.reset, (0, false), by decide +kernel, by decide +kernel, by decide +kernel, by decide +kernel, by
      have hb : (awake State.reset).bootBank 2 = 0 := by decide +kernel
      simp only [State.bootPick, hb, h, Option.isNone_none, if_true]⟩

/-- A staged image that passes verification, which no definition of this model decides (log entry 10). -/
theorem witness_SecurityChallengesAttestsStagesAndCommits_verified (h : ((fsS (fsC 5)).stageChunk (fsC 5)).fwFault 1 1 = none) :
    ∃ (s : State) (k : Nat) (y : Nat) (b : Nat) (c : Cmd) (data : List Nat), (s.cmdAt k 177 = some c) ∧ (checkFwStage s c = none) ∧ (bit
      (c.p 0) 3 = false) ∧ (y = c.fwType) ∧ (b = s.stageBank y) ∧ (data = if c.src = 2 then c.auth else s.hostRead c.src (c.p 1)
      c.fwLen) ∧ (bit (c.p 0) 2 = true) ∧ ((s.stageChunk c).fwFault y b = none) :=
  ⟨fsS (fsC 5), 1, 1, 1, fsC 5, fsD, by decide +kernel, by decide +kernel, by decide +kernel, by decide +kernel, by decide +kernel, by decide +kernel, by decide +kernel, h⟩

/-- A NOP with a CONTEXT that is not live, the first row of the statement; a HAND_CLOSE of a hand that its context does not hold; and one
that waits behind an earlier command of its hand. -/
theorem witness_CommandsThatFailACheckEndAndChangeNothingElse :
    (∃ (s : State) (k st d : Nat) (c : Cmd), s.cmdAt k 0x00 = some c ∧ s.cmdRunning k = none ∧ always c = true ∧ checkNop s c = some (st, d)) ∧
    (∃ (s : State) (k st d : Nat) (c : Cmd), s.cmdAt k 0x41 = some c ∧ s.cmdRunning k = none ∧ always c = true ∧ checkHandClose s c = none ∧
      s.turn c = true ∧ firstBad ((s.handBad c c.hand).take 1) = some (st, d)) ∧
    (∃ (s : State) (k : Nat) (c : Cmd), s.cmdAt k 0x41 = some c ∧ s.cmdRunning k = none ∧ always c = true ∧ checkHandClose s c = none ∧
      s.turn c = false) :=
  ⟨⟨having (cmd 0 [] 77) State.reset, 1, stBadContext, 0, cmd 0 [] 77, by decide +kernel⟩,
    ⟨having (cmd 0x41 [6] 5) (handE 7 1 hx), 1, stBadParam, 0x0905, cmd 0x41 [6] 5, by decide +kernel⟩,
    ⟨having (cmd 0x41 [6] 5) { handE 6 1 hx with cmds := [{ cmd 0x42 [6] 5 with id := 0 }] }, 1, cmd 0x41 [6] 5, by decide +kernel⟩⟩

end Sys2Proof.Tests
end

section
/-! PROOFS. The scheduling commands CLASS_SET, PREEMPT, RESUME and ACCOUNT_READ (R264–R267): what each operation that they are made of
changes and leaves, then one lemma for each clause of the statement. -/

namespace Sys2Proof.Machine

open Sys2Proof

/-! Register fields of SCHED. -/

/-- Fields of one block in 8-byte registers have different keys where their lowest bits differ, whatever the registers' indices. -/
theorem Fld.key_ne_of_lo {f g : Fld} (hf : f.off % 8 = 0) (hg : g.off % 8 = 0) (h : f.lo % 512 ≠ g.lo % 512) : f.key ≠ g.key := by
  simp only [Fld.key]; omega

/-- Two fields of SCHED.CTX_STATE of a context. -/
theorem SCHED.CTX_STATE.key_ne {n lo lo' w w' : Nat} (h : lo % 512 ≠ lo' % 512) :
    (⟨2, 0x201000 + 0x8 * n, lo, w, 0⟩ : Fld).key ≠ (⟨2, 0x201000 + 0x8 * n, lo', w', 0⟩ : Fld).key :=
  have aligned : (0x201000 + 0x8 * n) % 8 = 0 := by omega
  Fld.key_ne_of_lo aligned aligned h

theorem SCHED.CTX_STATE.PREEMPTED_ne_TRUMP_WAITING (n d : Nat) :
    (SCHED.CTX_STATE.PREEMPTED n).key ≠ (SCHED.DIE_STATUS.TRUMP_WAITING d).key :=
  Fld.key_ne_of_lo (by show (0x201000 + 0x8 * n) % 8 = 0; omega) (by show (0x200100 + 0x8 * d) % 8 = 0; omega)
    (by show (7 : Nat) % 512 ≠ 12 % 512; decide)

/-- A field read after writes, of values that may depend on the state, that do not name it. -/
theorem State.rd_foldl_wr_ne {α : Type} {s : State} {g : Fld} {F : α → Fld} {v : State → α → Nat} {l : List α}
    (h : ∀ a ∈ l, g.key ≠ (F a).key) : (l.foldl (fun t a => t.wr (F a) (v t a)) s).rd g = s.rd g := by
  induction l generalizing s with
  | nil => rfl
  | cons a r ih =>
    rw [List.foldl_cons, ih (fun b hb => h b (List.mem_cons_of_mem _ hb)), State.rd_wr_ne (h a List.mem_cons_self)]

/-! The dies asked back, and RUN, LAUNCHES and PAUSED of a context. -/

theorem State.asks_rd {s : State} {g : Fld} (h : ∀ d < 8, g.key ≠ (SCHED.DIE_STATUS.TRUMP_WAITING d).key) : s.asks.rd g = s.rd g :=
  State.rd_foldl_wr_ne (fun d hd => h d (List.mem_range.mp hd))

theorem State.asks_parts (s : State) : s.sameParts s.asks [.launches] := by
  refine foldl_inv (P := fun t : State => s.sameParts t [.launches]) (fun t d ht => ht.wr _ _) _ ?_
  intro p _ hn
  cases p
  case launches => exact absurd List.mem_cons_self hn
  all_goals rfl

theorem State.ctxRun_rd {s : State} {n : Nat} {g : Fld} (hr : g.key ≠ (SCHED.CTX_STATE.RUN n).key)
    (hl : g.key ≠ (SCHED.CTX_STATE.LAUNCHES n).key) (hp : g.key ≠ (SCHED.CTX_STATE.PAUSED n).key) : (s.ctxRun n).rd g = s.rd g := by
  refine State.rd_wrs_ne (fun p hm => ?_)
  simp only [List.mem_cons, List.not_mem_nil, or_false] at hm
  rcases hm with rfl | rfl | rfl
  · exact hr
  · exact hl
  · exact hp

/-- RUN of a suspended context is 3 (Table 11-8). -/
theorem State.ctxRun_run_of_suspended {s : State} {n : Nat} (h : s.suspended n = true) : (s.ctxRun n).rd (SCHED.CTX_STATE.RUN n) = 3 := by
  have hp : (SCHED.CTX_STATE.RUN n).key ≠ (SCHED.CTX_STATE.PAUSED n).key := SCHED.CTX_STATE.key_ne (by decide)
  have hl : (SCHED.CTX_STATE.RUN n).key ≠ (SCHED.CTX_STATE.LAUNCHES n).key := SCHED.CTX_STATE.key_ne (by decide)
  simp only [State.ctxRun, State.wrs, List.foldl_cons, List.foldl_nil, h, if_true]
  rw [State.rd_wr_ne hp, State.rd_wr_ne hl, State.rd_wr_self]
  rfl

theorem State.suspended_of_preempted {s : State} {n : Nat} (h : s.rd (SCHED.CTX_STATE.PREEMPTED n) = 1) : s.suspended n = true := by
  simp [State.suspended, State.is, h]

/-- Asking back the dies and bringing RUN up leave PREEMPTED. -/
theorem State.asks_ctxRun_preempted (s : State) (n : Nat) :
    (s.asks.ctxRun n).rd (SCHED.CTX_STATE.PREEMPTED n) = s.rd (SCHED.CTX_STATE.PREEMPTED n) :=
  (State.ctxRun_rd (SCHED.CTX_STATE.key_ne (by decide)) (SCHED.CTX_STATE.key_ne (by decide)) (SCHED.CTX_STATE.key_ne (by decide))).trans
    (State.asks_rd (fun d _ => SCHED.CTX_STATE.PREEMPTED_ne_TRUMP_WAITING n d))

theorem State.asks_ctxRun_parts (s : State) (n : Nat) : s.sameParts (s.asks.ctxRun n) [.launches] :=
  s.asks_parts.wrs _

/-! Descriptors halted and freed (R151). -/

/-- Descriptors freed leave every register as it is: only those halted are counted. -/
theorem State.haltDescs_off_rd (s : State) (n : Nat) (g : Fld) : (s.haltDescs n false).rd g = s.rd g := by
  simp [State.haltDescs]

/-- Descriptors halted are counted in the movers' block alone. -/
theorem State.haltDescs_rd {s : State} {n : Nat} {on : Bool} {g : Fld} (h : g.blk ≠ 5) : (s.haltDescs n on).rd g = s.rd g :=
  State.rd_foldl_wr_ne (F := fun d : Desc => MOVE.EVENTS.PREEMPTS d.mover) (fun _ _ => Fld.key_ne_of_blk h)

theorem State.haltDescs_parts (s : State) (n : Nat) (on : Bool) : s.sameParts (s.haltDescs n on) [.descs] := by
  have counted (l : List Desc) : s.sameParts (l.foldl (fun t d => t.bump (MOVE.EVENTS.PREEMPTS d.mover) 1) s) [.descs] :=
    foldl_inv (P := fun t : State => s.sameParts t [.descs]) (fun _ _ ht => ht.bump _ _) l (State.sameParts.refl s _)
  intro p hm hn
  cases p
  case descs => exact absurd List.mem_cons_self hn
  all_goals exact counted _ _ hm hn

/-- Every descriptor of the context that has been taken, but those of the service queue, is halted or goes on as asked. -/
theorem State.haltDescs_halted {s : State} {n : Nat} {on : Bool} :
    ∀ d ∈ (s.haltDescs n on).descs, d.ctx = n → d.issued = true → d.queue ≠ 0 → d.halted = on := by
  intro d hd hc hi hq
  obtain ⟨x, -, rfl⟩ := List.mem_map.mp hd
  by_cases hx : x.ctx = n ∧ x.issued = true ∧ x.queue ≠ 0
  · rw [if_pos hx]
  · rw [if_neg hx] at hc hi hq
    exact absurd ⟨hc, hi, hq⟩ hx

/-- PREEMPTED of a context set or cleared, and its descriptors halted or freed with it. -/
def State.flagCtx (s : State) (n : Nat) (on : Bool) : State := (s.wr (SCHED.CTX_STATE.PREEMPTED n) (b2n on)).haltDescs n on

theorem State.flagCtx_preempted (s : State) (n : Nat) (on : Bool) : (s.flagCtx n on).rd (SCHED.CTX_STATE.PREEMPTED n) = b2n on := by
  rw [State.flagCtx, State.haltDescs_rd (by show (2 : Nat) ≠ 5; decide), State.rd_wr_self]
  cases on <;> rfl

theorem State.flagCtx_parts (s : State) (n : Nat) (on : Bool) : s.sameParts (s.flagCtx n on) [.descs] :=
  ((State.sameParts.refl s []).wr _ _).trans (State.haltDescs_parts _ n on) (by simp) (by simp)

theorem State.flagCtx_cmds (s : State) (n : Nat) (on : Bool) : (s.flagCtx n on).cmds = s.cmds :=
  s.flagCtx_parts n on .cmds (by decide) (by decide)

/-! The WAITs of a context ended by PREEMPT (R366). -/

/-- The WAIT commands of a context that wait. -/
def State.ctxWaits (s : State) (n : Nat) : List Cmd :=
  s.cmds.filter (fun d => d.opcode == 0x03 && d.context == n && d.started && d.status.isNone)

theorem State.mem_ctxWaits {s : State} {n : Nat} {d : Cmd} :
    d ∈ s.ctxWaits n ↔ d ∈ s.cmds ∧ d.opcode = 0x03 ∧ d.context = n ∧ d.started = true ∧ d.status = none := by
  simp [State.ctxWaits, and_assoc]

/-- The WAIT commands of a context ended PREEMPTED. -/
def State.endWaits (s : State) (n : Nat) : State := (s.ctxWaits n).foldl (fun t d => t.failWith d.id stPreempted 0) s

@[simp] theorem State.endWaits_rd (s : State) (n : Nat) (g : Fld) : (s.endWaits n).rd g = s.rd g :=
  foldl_same (fun t : State => t.rd g) (fun t (d : Cmd) => State.failWith_rd t d.id stPreempted 0 g) (s.ctxWaits n) s

theorem State.endWaits_parts (s : State) (n : Nat) : s.sameParts (s.endWaits n) [.cmds, .doneCtr] :=
  foldl_inv (P := fun t : State => s.sameParts t [.cmds, .doneCtr])
    (fun _ (d : Cmd) ht => State.sameParts.finish ht (by decide) (by decide) d.id stPreempted 0 0 0 0) (s.ctxWaits n)
    (State.sameParts.refl s _)

theorem State.endWaits_ended {s : State} {n : Nat} {d : Cmd} (h : d ∈ s.ctxWaits n) : (s.endWaits n).ended d.id stPreempted 0 0 0 0 := by
  obtain ⟨hm, -, -, -, hs⟩ := State.mem_ctxWaits.mp h
  exact State.ended_foldl (.inl ⟨d, hm, rfl, hs⟩) (List.mem_map_of_mem h)

/-! PREEMPT: a context suspended. -/

/-- A context suspended by PREEMPT: PREEMPTED set, its descriptors halted, its WAITs ended, its dies asked back (R265). -/
def State.suspendCtx (s : State) (n : Nat) : State :=
  ((s.flagCtx n true).endWaits n).asks.ctxRun n

theorem preempt_noWait {s : State} {c : Cmd} (h : bit (c.p 0) 0 = false) :
    preempt s c = (s.suspendCtx c.context).finish c.id stAccepted 0 0 0 0 := by
  simp only [preempt, h, Bool.false_eq_true, if_false]
  rfl

/-- Before the dies are asked back, PREEMPTED stands. -/
theorem State.endWaits_preempted (s : State) (n : Nat) : ((s.flagCtx n true).endWaits n).rd (SCHED.CTX_STATE.PREEMPTED n) = 1 := by
  rw [State.endWaits_rd, State.flagCtx_preempted, b2n, if_pos rfl]

theorem State.suspendCtx_preempted (s : State) (n : Nat) : (s.suspendCtx n).rd (SCHED.CTX_STATE.PREEMPTED n) = 1 :=
  (State.asks_ctxRun_preempted _ n).trans (s.endWaits_preempted n)

theorem State.suspendCtx_run (s : State) (n : Nat) : (s.suspendCtx n).rd (SCHED.CTX_STATE.RUN n) = 3 := by
  refine State.ctxRun_run_of_suspended (State.suspended_of_preempted ?_)
  exact (State.asks_rd (fun d _ => SCHED.CTX_STATE.PREEMPTED_ne_TRUMP_WAITING n d)).trans (s.endWaits_preempted n)

theorem State.suspendCtx_parts (s : State) (n : Nat) : s.sameParts (s.suspendCtx n) [.cmds, .doneCtr, .descs, .launches] := by
  have ended := (s.flagCtx_parts n true).trans (State.endWaits_parts _ n) (rs := [.cmds, .doneCtr, .descs]) (by simp) (by simp)
  exact ended.trans (State.asks_ctxRun_parts _ n) (by simp) (by simp)

theorem State.suspendCtx_cmds (s : State) (n : Nat) : (s.suspendCtx n).cmds = ((s.flagCtx n true).endWaits n).cmds :=
  State.asks_ctxRun_parts _ n .cmds (by decide) (by decide)

theorem State.suspendCtx_descs (s : State) (n : Nat) : (s.suspendCtx n).descs = (s.flagCtx n true).descs :=
  (State.asks_ctxRun_parts _ n .descs (by decide) (by decide)).trans (State.endWaits_parts _ n .descs (by decide) (by decide))

theorem State.flagCtx_ctxWaits (s : State) (n : Nat) (on : Bool) : (s.flagCtx n on).ctxWaits n = s.ctxWaits n := by
  rw [State.ctxWaits, State.flagCtx_cmds, State.ctxWaits]

theorem State.suspendCtx_ended {s : State} {n : Nat} {d : Cmd} (h : d ∈ s.ctxWaits n) :
    (s.suspendCtx n).ended d.id stPreempted 0 0 0 0 := by
  rw [← s.flagCtx_ctxWaits n true] at h
  exact State.ended.of_cmds (State.endWaits_ended h) (s.suspendCtx_cmds n)

/-- A command that is none of the context's WAITs is still open once the context is suspended. -/
theorem State.open.suspendCtx {s : State} {k n : Nat} (h : s.open k) (hk : ∀ d ∈ s.ctxWaits n, d.id ≠ k) : (s.suspendCtx n).open k := by
  refine State.open_of_cmds (State.open.failAll (State.open_of_cmds h (s.flagCtx_cmds n true)) ?_ stPreempted 0) (s.suspendCtx_cmds n)
  rw [s.flagCtx_ctxWaits n true]
  intro hmem
  obtain ⟨d, hd, hid⟩ := List.mem_map.mp hmem
  exact hk d hd hid

/-! RESUME: a context freed. -/

/-- A context freed by RESUME: PREEMPTED cleared, its descriptors going on, its flags brought up (R266). -/
def State.resumeCtx (s : State) (n : Nat) : State := (s.flagCtx n false).asks.ctxRun n

theorem resume_eq (s : State) (c : Cmd) :
    resume s c = (s.resumeCtx c.context).doneWith c.id (s.rd (SCHED.CTX_STATE.PREEMPTED c.context))
      (s.rd (SCHED.CTX_STATE.PAUSED c.context) + 2 * s.rd (SCHED.CTX_STATE.FAULT c.context)) 0 := rfl

theorem State.resumeCtx_preempted (s : State) (n : Nat) : (s.resumeCtx n).rd (SCHED.CTX_STATE.PREEMPTED n) = 0 := by
  rw [State.resumeCtx, State.asks_ctxRun_preempted, State.flagCtx_preempted, b2n, if_neg Bool.false_ne_true]

theorem State.resumeCtx_parts (s : State) (n : Nat) : s.sameParts (s.resumeCtx n) [.descs, .launches] :=
  (s.flagCtx_parts n false).trans (State.asks_ctxRun_parts _ n) (by simp) (by simp)

theorem State.resumeCtx_cmds (s : State) (n : Nat) : (s.resumeCtx n).cmds = s.cmds :=
  s.resumeCtx_parts n .cmds (by decide) (by decide)

theorem State.resumeCtx_descs (s : State) (n : Nat) : (s.resumeCtx n).descs = (s.flagCtx n false).descs :=
  State.asks_ctxRun_parts _ n .descs (by decide) (by decide)

theorem State.resumeCtx_but (s : State) (n : Nat) :
    s.sameBut (s.resumeCtx n) ([SCHED.CTX_STATE.PREEMPTED n, SCHED.CTX_STATE.RUN n, SCHED.CTX_STATE.LAUNCHES n, SCHED.CTX_STATE.PAUSED n] ++
      (List.range 8).map SCHED.DIE_STATUS.TRUMP_WAITING) := by
  intro g hg
  have hdie : ∀ d < 8, g.key ≠ (SCHED.DIE_STATUS.TRUMP_WAITING d).key := fun d hd =>
    hg _ (List.mem_append_right _ (List.mem_map_of_mem (List.mem_range.mpr hd)))
  rw [State.resumeCtx, State.ctxRun_rd (hg _ (by simp)) (hg _ (by simp)) (hg _ (by simp)), State.asks_rd hdie, State.flagCtx,
    State.haltDescs_off_rd, State.rd_wr_ne (hg _ (by simp))]

/-! ACCOUNT_READ: an account read, taken and replied. -/

/-- The key of the account that an ACCOUNT_READ names. -/
def Cmd.accountKey (c : Cmd) : Nat := if c.byTag then 1024 + bits (c.p 0) 16 12 else c.context

/-- An account as an ACCOUNT_READ leaves it: swapped to zero with CLEAR. -/
def State.accountTaken (s : State) (c : Cmd) : State := if bit (c.p 0) 1 then s.charge c.accountKey Account.cleared else s

/-- The end of an ACCOUNT_READ whose account is that of `s`, from the state `u` in which its words are stored. -/
def State.accountDone (s u : State) (c : Cmd) : State :=
  (u.accountTaken c).doneAfter c (s.account c.accountKey).engineNs ((s.account c.accountKey).energyUj / 1000) (s.account c.accountKey).tokens

/-- ACCOUNT_READ `k` has ended in `t` with engine time, energy in mJ and tokens of its account in `s` (R267). -/
def State.accountReplied (s t : State) (k : Nat) (c : Cmd) : Prop :=
  t.ended k stDone 0 (s.account c.accountKey).engineNs ((s.account c.accountKey).energyUj / 1000) (s.account c.accountKey).tokens

theorem Account.words_length (a : Account) : a.words.length = 8 := rfl

theorem Account.cleared_words (a : Account) : a.cleared.words = [0, 0, 0, 0, 0, 0, 0, 0] := by
  have : a.energyUj % 1000 / 1000 = 0 := Nat.div_eq_of_lt (Nat.mod_lt _ (by decide))
  simp [Account.words, Account.cleared, this]

theorem State.account_charge_self (s : State) (k : Nat) (f : Account → Account) : (s.charge k f).account k = f (s.account k) := by
  simp [State.charge, State.account, aFind_aPut_self]

theorem State.accountTaken_parts (s : State) (c : Cmd) : s.sameParts (s.accountTaken c) [.accounts] := by
  refine State.sameParts.ite ?_ (State.sameParts.refl s _)
  intro p _ hn
  cases p
  case accounts => exact absurd List.mem_cons_self hn
  all_goals rfl

@[simp] theorem State.accountTaken_rd (s : State) (c : Cmd) (g : Fld) : (s.accountTaken c).rd g = s.rd g := by
  unfold State.accountTaken
  split <;> rfl

theorem State.dropGot_parts (s : State) (who : Parked) : s.sameParts (s.dropGot who) [.fabric] := by
  intro p _ hn
  cases p
  case fabric => exact absurd List.mem_cons_self hn
  all_goals rfl

section AccountDone

variable {s u : State} {k : Nat} {c : Cmd}

/-- With no remote write out, the command ends at once. -/
theorem State.accountDone_eq (hr : s.hasReqs c.origin.who = false) (hf : u.fabric = s.fabric) :
    s.accountDone u c = ((u.accountTaken c).dropGot c.origin.who).doneWith c.id (s.account c.accountKey).engineNs
      ((s.account c.accountKey).energyUj / 1000) (s.account c.accountKey).tokens :=
  State.doneAfter_now hr ((u.accountTaken_parts c .fabric (by decide) (by decide)).trans hf) ..

theorem State.accountDone_parts (hr : s.hasReqs c.origin.who = false) (hf : u.fabric = s.fabric) :
    u.sameParts (s.accountDone u c) [.cmds, .doneCtr, .accounts, .fabric] := by
  rw [State.accountDone_eq hr hf]
  have taken := (u.accountTaken_parts c).trans (State.dropGot_parts _ c.origin.who) (rs := [.cmds, .doneCtr, .accounts, .fabric])
    (by simp) (by simp)
  exact State.sameParts.done taken (by decide) (by decide) _ _ _ _

theorem State.accountDone_rd (hr : s.hasReqs c.origin.who = false) (hf : u.fabric = s.fabric) : u.allRegs (s.accountDone u c) := by
  intro g
  rw [State.accountDone_eq hr hf]
  exact u.accountTaken_rd c g

theorem State.accountDone_replied (hr : s.hasReqs c.origin.who = false) (hf : u.fabric = s.fabric) (ho : u.open k) (hk : c.id = k) :
    s.accountReplied (s.accountDone u c) k c := by
  rw [State.accountDone_eq hr hf, hk]
  exact ho.endedOf (u.accountTaken_parts c .cmds (by decide) (by decide)) ..

theorem State.accountDone_others (hr : s.hasReqs c.origin.who = false) (hf : u.fabric = s.fabric) (hk : c.id = k) :
    u.othersStand (s.accountDone u c) k := by
  rw [State.accountDone_eq hr hf, hk]
  exact State.finish_others_of (u.accountTaken_parts c .cmds (by decide) (by decide)) ..

theorem State.accountDone_accounts (hr : s.hasReqs c.origin.who = false) (hf : u.fabric = s.fabric) :
    (s.accountDone u c).accounts = (u.accountTaken c).accounts := by
  rw [State.accountDone_eq hr hf]
  rfl

end AccountDone

/-! Where the words of the account go. -/

theorem toBytes_flatMap_leVals (l : List Nat) : toBytes (l.flatMap (leVals 8)) = l.flatMap (leBytes 8) := by
  rw [toBytes, List.map_flatMap]
  exact congrArg l.flatMap (funext (toBytes_leVals 8))

/-- Words stored in the memory of an ATTACHED host. -/
theorem State.hostBytes_words {s : State} {h : Nat} (e : s.attached h = true) (addr : Nat) (l : List Nat) :
    s.hostBytes h addr (l.flatMap (leVals 8)) = s.storeWords (hostKey h addr) l := by
  rw [State.hostBytes, if_pos e, toBytes_flatMap_leVals]
  rfl

theorem accountRead_noVa {s : State} {c : Cmd} (h : c.p 1 = 0) : accountRead s c = s.accountDone s c := by
  simp only [accountRead, h, if_true]
  rfl

theorem accountRead_tag {s : State} {c : Cmd} (h : c.p 1 ≠ 0) (ht : c.byTag = true) (ha : s.attached c.src = true) :
    accountRead s c = s.accountDone (s.storeWords (hostKey c.src (c.p 1)) (s.account c.accountKey).words) c := by
  rw [← State.hostBytes_words ha]
  simp only [accountRead, State.accountDone, State.accountTaken, Cmd.accountKey, h, ht, if_true, if_false]

theorem accountRead_ctx {s : State} {c : Cmd} {key leaf : Nat} (h : c.p 1 ≠ 0) (ht : c.byTag = false) (hal : c.p 1 % 64 = 0)
    (ha : s.access c.context (c.p 1) true false = .ok (.here key) leaf) :
    accountRead s c =
      s.accountDone ((s.translated c.origin.engine c.context (c.p 1)).storeWords key (s.account c.accountKey).words) c := by
  have put : s.put c.origin c.context (c.p 1) ((s.account c.context).words.flatMap (leVals 8)) = _ :=
    put_line hal (Account.words_length _) ha
  have hk : c.accountKey = c.context := by simp [Cmd.accountKey, ht]
  simp only [accountRead, h, ht, Bool.false_eq_true, if_false, State.withPut, put, State.accountDone, State.accountTaken, hk]

theorem State.translated_cmds (s : State) (e n va : Nat) : (s.translated e n va).cmds = s.cmds :=
  (State.translated_fr (fb := 0) s e n va (Frame.refl s) (Sub.refl _)).cmds rfl

theorem State.translated_fabric (s : State) (e n va : Nat) : (s.translated e n va).fabric = s.fabric :=
  (State.translated_fr (fb := 0) s e n va (Frame.refl s) (Sub.refl _)).fabric rfl

theorem State.translated_rd (s : State) (e n va : Nat) (g : Fld) : (s.translated e n va).rd g = s.rd g := by
  unfold State.translated
  split
  · rfl
  · dsimp only
    split
    · rfl
    · split <;> rfl

theorem checkAccountRead_aligned {s : State} {c : Cmd} (h : checkAccountRead s c = none) : c.p 1 % 64 = 0 := by
  have badAddress := firstBad_none_of h _ (.tail _ (.tail _ (.tail _ (.head _))))
  simp only [Bool.or_eq_false_iff, bne_eq_false_iff_eq] at badAddress
  obtain ⟨⟨aligned, -⟩, -⟩ := badAddress
  exact aligned

/-- What an ACCOUNT_READ with VA holds to, once its eight words are stored at `key` from a state `v` that differs from `s` in no command,
register or part of the fabric. -/
theorem State.accountDone_stored {s v : State} {k key : Nat} {c : Cmd} (hr : s.hasReqs c.origin.who = false) (ho : s.open k) (hk : c.id = k)
    (hw : ∀ w ∈ (s.account c.accountKey).words, w < 2 ^ 64) (hc : v.cmds = s.cmds) (hf : v.fabric = s.fabric) (hg : s.allRegs v) :
    (s.accountDone (v.storeWords key (s.account c.accountKey).words) c).loadWords key 8 = (s.account c.accountKey).words ∧
      s.accountReplied (s.accountDone (v.storeWords key (s.account c.accountKey).words) c) k c ∧
      s.allRegs (s.accountDone (v.storeWords key (s.account c.accountKey).words) c) := by
  generalize hu : v.storeWords key (s.account c.accountKey).words = u
  have hf' : u.fabric = s.fabric := by rw [← hu, State.storeWords_fabric, hf]
  have ho' : u.open k := State.open_of_cmds ho (by rw [← hu, State.storeWords_cmds, hc])
  have hm : (s.accountDone u c).mem = u.mem := State.accountDone_parts hr hf' .mem (by decide) (by decide)
  refine ⟨?_, State.accountDone_replied hr hf' ho' hk, fun g => ?_⟩
  · rw [State.loadWords_of_mem hm, ← hu]
    exact State.loadWords_storeWords v key _ hw
  · rw [State.accountDone_rd hr hf', ← hu, State.storeWords_rd, hg]

/-! The clauses of the statement. -/

theorem exec_classSet {s : State} {k : Nat} {c : Cmd} (h : s.cmdAt k 0x70 = some c) (hc : checkClassSet s c = none) :
    exec (.classSet k) s = .next ((s.wr (SCHED.CTX_STATE.CLASS c.context) (c.p 0)).doneWith c.id 0 0 0) :=
  congrArg Host.Outcome.next (State.runCmd_ok (sel := always) h rfl hc)

theorem exec_preempt {s : State} {k : Nat} {c : Cmd} (h : s.cmdAt k 0x71 = some c) (hc : checkClassSet s c = none) :
    exec (.preempt k) s = .next (preempt s c) :=
  congrArg Host.Outcome.next (State.runCmd_ok (sel := always) h rfl hc)

theorem exec_resume {s : State} {k : Nat} {c : Cmd} (h : s.cmdAt k 0x72 = some c) (hc : checkResume s c = none) :
    exec (.resume k) s = .next (resume s c) :=
  congrArg Host.Outcome.next (State.runCmd_ok (sel := always) h rfl hc)

theorem exec_accountRead {s : State} {k : Nat} {c : Cmd} (h : s.cmdAt k 0x73 = some c) (hc : checkAccountRead s c = none) :
    exec (.accountRead k) s = .next (accountRead s c) :=
  congrArg Host.Outcome.next (State.runCmd_ok (sel := always) h rfl hc)

/-- CLASS_SET (R264). -/
theorem classSet_clause (s : State) (k : Nat) (c : Cmd) (h : s.cmdAt k 0x70 = some c) (hc : checkClassSet s c = none) :
    ∃ t, exec (.classSet k) s = .next t ∧ t.ended k stDone 0 0 0 0 ∧ t.rd (SCHED.CTX_STATE.CLASS c.context) = c.p 0 % 2 ∧
      s.sameBut t [SCHED.CTX_STATE.CLASS c.context] ∧ s.othersStand t k ∧ s.sameParts t [.cmds, .doneCtr] := by
  obtain ⟨-, rfl, -⟩ := State.cmdAt_mem h
  refine ⟨_, exec_classSet h hc, (State.cmdAt_open h).endedOf rfl .., ?_, ?_, State.finish_others_of rfl .., ?_⟩
  · exact State.rd_wr_self ..
  · exact fun g hg => State.rd_wr_ne (hg _ List.mem_cons_self)
  · exact State.sameParts.done ((State.sameParts.refl s _).wr _ _) (by decide) (by decide) _ _ _ _

/-- PREEMPT without WAIT_PAUSED (R265, R366). -/
theorem preempt_clause (s : State) (k : Nat) (c : Cmd) (h : s.cmdAt k 0x71 = some c) (hc : checkClassSet s c = none)
    (hw : bit (c.p 0) 0 = false) (hu : ∀ d ∈ s.cmds, d.id = k → d = c) :
    ∃ t, exec (.preempt k) s = .next t ∧ t.ended k stAccepted 0 0 0 0 ∧ t.rd (SCHED.CTX_STATE.PREEMPTED c.context) = 1 ∧
      t.rd (SCHED.CTX_STATE.RUN c.context) = 3 ∧ s.sameMem t ∧
      (∀ d ∈ s.cmds, d.opcode = 0x03 → d.context = c.context → d.started = true → d.status = none → t.ended d.id stPreempted 0 0 0 0) ∧
      (∀ d ∈ t.descs, d.ctx = c.context → d.issued = true → d.queue ≠ 0 → d.halted = true) := by
  obtain ⟨-, rfl, hop, -⟩ := State.cmdAt_mem h
  have notWait : ∀ d ∈ s.ctxWaits c.context, d.id ≠ c.id := by
    intro d hd hid
    obtain ⟨hm, hd3, -⟩ := State.mem_ctxWaits.mp hd
    rw [hu d hm hid, hop] at hd3
    exact absurd hd3 (by decide)
  have takes := exec_preempt h hc
  rw [preempt_noWait hw] at takes
  refine ⟨_, takes, ((State.cmdAt_open h).suspendCtx notWait).ended .., ?_, ?_, ?_, ?_, ?_⟩
  · rw [State.finish_rd, State.suspendCtx_preempted]
  · rw [State.finish_rd, State.suspendCtx_run]
  · have ends := State.sameParts.finish (s.suspendCtx_parts c.context) (by decide) (by decide) c.id stAccepted 0 0 0 0
    exact ends.mem (by decide)
  · exact fun d hm h3 hn hs hst => (State.suspendCtx_ended (State.mem_ctxWaits.mpr ⟨hm, h3, hn, hs, hst⟩)).finish ..
  · intro d hd
    rw [State.finish_descs, State.suspendCtx_descs] at hd
    exact State.haltDescs_halted d hd

/-- RESUME (R266). -/
theorem resume_clause (s : State) (k : Nat) (c : Cmd) (h : s.cmdAt k 0x72 = some c) (hc : checkResume s c = none) :
    ∃ t, exec (.resume k) s = .next t ∧ t.rd (SCHED.CTX_STATE.PREEMPTED c.context) = 0 ∧ s.othersStand t k ∧
      t.ended k stDone 0 (s.rd (SCHED.CTX_STATE.PREEMPTED c.context))
        (s.rd (SCHED.CTX_STATE.PAUSED c.context) + 2 * s.rd (SCHED.CTX_STATE.FAULT c.context)) 0 ∧
      (∀ d ∈ t.descs, d.ctx = c.context → d.issued = true → d.queue ≠ 0 → d.halted = false) ∧
      s.sameBut t ([SCHED.CTX_STATE.PREEMPTED c.context, SCHED.CTX_STATE.RUN c.context, SCHED.CTX_STATE.LAUNCHES c.context,
        SCHED.CTX_STATE.PAUSED c.context] ++ (List.range 8).map SCHED.DIE_STATUS.TRUMP_WAITING) ∧
      s.sameParts t [.cmds, .doneCtr, .descs, .launches] := by
  obtain ⟨-, rfl, -⟩ := State.cmdAt_mem h
  have takes := exec_resume h hc
  rw [resume_eq] at takes
  refine ⟨_, takes, ?_, State.finish_others_of (s.resumeCtx_cmds _) .., (State.cmdAt_open h).endedOf (s.resumeCtx_cmds _) .., ?_, ?_, ?_⟩
  · rw [State.doneWith_rd, State.resumeCtx_preempted]
  · intro d hd
    rw [State.doneWith_descs, State.resumeCtx_descs] at hd
    exact State.haltDescs_halted d hd
  · intro g hg
    rw [State.doneWith_rd]
    exact s.resumeCtx_but _ g hg
  · exact State.sameParts.done ((s.resumeCtx_parts _).weaken (by simp)) (by decide) (by decide) _ _ _ _

/-- ACCOUNT_READ without VA (R267). -/
theorem accountRead_noVa_clause (s : State) (k : Nat) (c : Cmd) (h : s.cmdAt k 0x73 = some c) (hc : checkAccountRead s c = none)
    (hv : c.p 1 = 0) (hr : s.hasReqs c.origin.who = false) :
    ∃ t, exec (.accountRead k) s = .next t ∧ s.accountReplied t k c ∧
      (bit (c.p 0) 1 = true → (t.account c.accountKey).words = [0, 0, 0, 0, 0, 0, 0, 0] ∧
        (t.account c.accountKey).energyUj = (s.account c.accountKey).energyUj % 1000) ∧
      (bit (c.p 0) 1 = false → t.accounts = s.accounts) ∧ s.allRegs t ∧ s.othersStand t k ∧
      s.sameParts t [.cmds, .doneCtr, .accounts, .fabric] := by
  obtain ⟨-, hk, -⟩ := State.cmdAt_mem h
  have takes := exec_accountRead h hc
  rw [accountRead_noVa hv] at takes
  have accs := State.accountDone_accounts (c := c) hr (rfl : s.fabric = s.fabric)
  refine ⟨_, takes, State.accountDone_replied hr rfl (State.cmdAt_open h) hk, ?_, ?_, State.accountDone_rd hr rfl,
    State.accountDone_others hr rfl hk, State.accountDone_parts hr rfl⟩
  · intro clear
    have swapped : (s.accountDone s c).account c.accountKey = (s.account c.accountKey).cleared := by
      rw [State.account, accs, State.accountTaken, if_pos clear]
      exact State.account_charge_self s c.accountKey Account.cleared
    rw [swapped]
    exact ⟨Account.cleared_words _, rfl⟩
  · intro keep
    rw [accs, State.accountTaken, keep]
    rfl

/-- ACCOUNT_READ with VA of a context's account (R267). -/
theorem accountRead_ctx_clause (s : State) (k at' leaf : Nat) (c : Cmd) (h : s.cmdAt k 0x73 = some c) (hc : checkAccountRead s c = none)
    (hv : c.p 1 ≠ 0) (hr : s.hasReqs c.origin.who = false) (ht : c.byTag = false)
    (ha : s.access c.context (c.p 1) true false = .ok (.here at') leaf) (hw : ∀ w ∈ (s.account c.accountKey).words, w < 2 ^ 64) :
    ∃ t, exec (.accountRead k) s = .next t ∧ t.loadWords at' 8 = (s.account c.accountKey).words ∧
      s.accountReplied t k c ∧ s.allRegs t := by
  obtain ⟨-, hk, -⟩ := State.cmdAt_mem h
  have takes := exec_accountRead h hc
  rw [accountRead_ctx hv ht (checkAccountRead_aligned hc) ha] at takes
  exact ⟨_, takes, State.accountDone_stored hr (State.cmdAt_open h) hk hw (s.translated_cmds ..) (s.translated_fabric ..)
    (s.translated_rd _ _ _)⟩

/-- ACCOUNT_READ with VA and BY_TAG of a client tag's account (R267). -/
theorem accountRead_tag_clause (s : State) (k : Nat) (c : Cmd) (h : s.cmdAt k 0x73 = some c) (hc : checkAccountRead s c = none)
    (hv : c.p 1 ≠ 0) (hr : s.hasReqs c.origin.who = false) (ht : c.byTag = true) (ha : s.attached c.src = true)
    (hw : ∀ w ∈ (s.account c.accountKey).words, w < 2 ^ 64) :
    ∃ t, exec (.accountRead k) s = .next t ∧ t.loadWords (hostKey c.src (c.p 1)) 8 = (s.account c.accountKey).words ∧
      s.accountReplied t k c ∧ s.allRegs t := by
  obtain ⟨-, hk, -⟩ := State.cmdAt_mem h
  have takes := exec_accountRead h hc
  rw [accountRead_tag hv ht ha] at takes
  exact ⟨_, takes, State.accountDone_stored hr (State.cmdAt_open h) hk hw rfl rfl (fun _ => rfl)⟩

theorem Cmd.accountKey_of_ctx {c : Cmd} (h : bit (c.p 0) 0 = false) : c.accountKey = c.context := by
  simp [Cmd.accountKey, Cmd.byTag, h]

theorem Cmd.accountKey_of_tag {c : Cmd} (h : bit (c.p 0) 0 = true) : c.accountKey = 1024 + bits (c.p 0) 16 12 := by
  simp [Cmd.accountKey, Cmd.byTag, h]

/-- Settles O21: each clause is the lemma about its command, read with the account key of its case (log
entry 22 for the energy that CLEAR leaves). -/
theorem schedulingCommandsActOnTheirContextsAndAccounts : Obligations.SchedulingCommandsActOnTheirContextsAndAccounts := by
  refine ⟨classSet_clause, preempt_clause, resume_clause, ?_, ?_, ?_⟩
  · rintro s k key c h hc hv hr rfl
    exact accountRead_noVa_clause s k c h hc hv hr
  · rintro s k key at' leaf c h hc hv hr ht ha rfl hw
    rw [← Cmd.accountKey_of_ctx ht] at hw ⊢
    exact accountRead_ctx_clause s k at' leaf c h hc hv hr ht ha hw
  · rintro s k key c h hc hv hr ht ha rfl hw
    rw [← Cmd.accountKey_of_tag ht] at hw ⊢
    exact accountRead_tag_clause s k c h hc hv hr ht ha hw

end Sys2Proof.Machine
end

section
/-! PROOFS. COMMAND_COMPLETE with SIGNAL_AFTER (R358, R359): the reply's part of a completion, the channel's count and its store, then the
completion as these in a row. -/

namespace Sys2Proof.Machine

open Sys2Proof

/-! Fields of the command block told apart by their lowest bits. -/

/-- CHAN_SIGNAL.ADDR is none of the 8-byte registers' fields that start at another bit. -/
theorem CMD.CHAN_SIGNAL.ADDR_key_ne {n off lo w : Nat} (aligned : off % 8 = 0) (h : lo % 512 ≠ 3) :
    (CMD.CHAN_SIGNAL.ADDR n).key ≠ (⟨1, off, lo, w, 0⟩ : Fld).key :=
  Fld.key_ne_of_lo (by show (0x102010 + 0x20 * n) % 8 = 0; omega) aligned (fun e => h e.symm)

/-- Two fields of CMD.CHAN_STATUS of a channel. -/
theorem CMD.CHAN_STATUS.key_ne {n lo lo' w w' : Nat} (h : lo % 512 ≠ lo' % 512) :
    (⟨1, 0x102018 + 0x20 * n, lo, w, 0⟩ : Fld).key ≠ (⟨1, 0x102018 + 0x20 * n, lo', w', 0⟩ : Fld).key :=
  have aligned : (0x102018 + 0x20 * n) % 8 = 0 := by omega
  Fld.key_ne_of_lo aligned aligned h

/-- What leaves block 0 leaves the hosts' states. -/
theorem Frame.attached {w b : Nat} {s t : State} (f : Frame w b s t) (hb : b.testBit 0 = false) (h : Nat) : t.attached h = s.attached h := by
  rw [State.attached, f.rd _ (by show 0 < 19; decide) hb, State.attached]

/-! CMD.CHAN_STATUS brought up. -/

@[simp] theorem State.chanRegs_mem (s : State) (n : Nat) : (s.chanRegs n).mem = s.mem := State.wrs_mem s _

@[simp] theorem State.chanRegs_chan (s : State) (n d : Nat) : (s.chanRegs n).chan d = s.chan d := by
  unfold State.chan
  rw [State.chanRegs, State.wrs_chans]

/-- Bringing up CHAN_STATUS leaves the channel's signal address. -/
@[simp] theorem State.chanRegs_signalAddr (s : State) (n : Nat) :
    (s.chanRegs n).rd (CMD.CHAN_SIGNAL.ADDR n) = s.rd (CMD.CHAN_SIGNAL.ADDR n) := by
  have aligned : (0x102018 + 0x20 * n) % 8 = 0 := by omega
  apply State.rd_chanRegs_ne
  all_goals exact CMD.CHAN_SIGNAL.ADDR_key_ne aligned (by decide)

@[simp] theorem State.chanRegs_attached (s : State) (n h : Nat) : (s.chanRegs n).attached h = s.attached h :=
  have brought : Frame 0 2 s (s.chanRegs n) := State.chanRegs_fr s n (Frame.refl s) (Sub.refl _)
  brought.attached rfl h

/-- DONE_COUNT of CHAN_STATUS shows the low 32 bits of the count (Table 15-12). -/
theorem State.chanRegs_doneCount (s : State) (n : Nat) :
    (s.chanRegs n).rd (CMD.CHAN_STATUS.DONE_COUNT n) = (s.chan n).doneCount % 2 ^ 32 := by
  have later : (CMD.CHAN_STATUS.DONE_COUNT n).key ≠ (CMD.CHAN_STATUS.HOLDING n).key := CMD.CHAN_STATUS.key_ne (by decide)
  simp only [State.chanRegs, State.wrs, List.foldl_cons, List.foldl_nil]
  rw [State.rd_wr_ne later, State.rd_wr_self]
  rfl

/-! The channel signal (R359). -/

/-- CHAN_DONE of a channel raised by one, and CHAN_STATUS brought up. -/
def State.countDone (s : State) (n : Nat) : State :=
  (s.setChan n { s.chan n with doneCount := ((s.chan n).doneCount + 1) % 2 ^ 64 }).chanRegs n

theorem State.countDone_doneCount (s : State) (n : Nat) : ((s.countDone n).chan n).doneCount = ((s.chan n).doneCount + 1) % 2 ^ 64 := by
  rw [State.countDone, State.chanRegs_chan, State.chan_setChan_self]

/-- The signal is the count raised, then its one store where a signal address stands. -/
theorem State.chanSignal_eq (s : State) (n : Nat) :
    s.chanSignal n = if s.rd (CMD.CHAN_SIGNAL.ADDR n) * 8 = 0 then s.countDone n
      else (s.countDone n).hostStore (n / 64) (s.rd (CMD.CHAN_SIGNAL.ADDR n) * 8) 8 (((s.chan n).doneCount + 1) % 2 ^ 64) := by
  have addr : (s.countDone n).rd (CMD.CHAN_SIGNAL.ADDR n) = s.rd (CMD.CHAN_SIGNAL.ADDR n) := by
    rw [State.countDone, State.chanRegs_signalAddr, State.setChan_rd]
  rw [← addr]
  rfl

theorem State.hostStore_chan (s : State) (h a n v d : Nat) : (s.hostStore h a n v).chan d = s.chan d := by
  unfold State.chan
  rw [State.hostStore_chans]

theorem State.chanSignal_doneCount (s : State) (n : Nat) : ((s.chanSignal n).chan n).doneCount = ((s.chan n).doneCount + 1) % 2 ^ 64 := by
  rw [State.chanSignal_eq]
  split
  · exact s.countDone_doneCount n
  · rw [State.hostStore_chan, State.countDone_doneCount]

/-- The new count stands at the signal address of an attached host. -/
theorem State.chanSignal_load {s : State} {n : Nat} (ha : s.rd (CMD.CHAN_SIGNAL.ADDR n) ≠ 0) (hh : s.attached (n / 64) = true) :
    (s.chanSignal n).load (hostKey (n / 64) (s.rd (CMD.CHAN_SIGNAL.ADDR n) * 8)) 8 = ((s.chan n).doneCount + 1) % 2 ^ 64 := by
  have named : s.rd (CMD.CHAN_SIGNAL.ADDR n) * 8 ≠ 0 := by omega
  have hosted : (s.countDone n).attached (n / 64) = true := (State.chanRegs_attached ..).trans hh
  rw [State.chanSignal_eq, if_neg named, State.hostStore_on hosted, State.load_store_self]
  exact Nat.mod_eq_of_lt (Nat.mod_lt _ (by decide))

/-! The reply's part of a completion (R358, R361, R362). -/

/-- What a completion does with the command's reply, where one is due. -/
def State.replyOf (s : State) (c : Cmd) : State :=
  if c.needsReply then (if c.gone then s.goneReply c else s.reply c.mkReply) else s

theorem State.replyOf_frame (s : State) (c : Cmd) : Frame 24728 2 s (s.replyOf c) :=
  Frame.ite (Frame.ite (State.goneReply_fr s c (Frame.refl s) (Sub.refl _) (Sub.refl _))
    (State.reply_fr s c.mkReply (Frame.refl s) (Sub.refl _) (Sub.refl _))) (Frame.refl s)

theorem State.replyOf_chan (s : State) (c : Cmd) (n : Nat) : (s.replyOf c).chan n = s.chan n := by
  rw [State.chan, (s.replyOf_frame c).chans rfl, State.chan]

theorem State.replyOf_attached (s : State) (c : Cmd) (h : Nat) : (s.replyOf c).attached h = s.attached h :=
  (s.replyOf_frame c).attached rfl h

theorem State.rd_hostStore_unless (s : State) (p : Prop) [Decidable p] (h a n v : Nat) (g : Fld) :
    (if p then s else s.hostStore h a n v).rd g = s.rd g := by
  split
  · rfl
  · exact State.hostStore_rd ..

/-- A reply put in a ring changes no register field but the ring's tail. -/
theorem State.rd_ringPut_ne {s : State} {r : Nat} {x : Reply} {g : Fld} (h : g.key ≠ (CMD.RING_TAIL.TAIL r).key) :
    (s.ringPut r [x]).rd g = s.rd g := by
  simp only [State.ringPut, List.isEmpty_cons, Bool.false_eq_true, if_false, List.foldl_cons, List.foldl_nil, State.raiseIf_rd]
  exact (State.rd_hostStore_unless ..).trans (State.rd_wr_ne h)

theorem State.rd_goneReply_ne {s : State} {c : Cmd} {g : Fld} (hd : g.key ≠ CMD.STRAY.DROPPED.key) (hh : g.key ≠ CMD.STRAY.HELD.key)
    (ht : g.key ≠ (CMD.RING_TAIL.TAIL c.ring).key) : (s.goneReply c).rd g = s.rd g := by
  unfold State.goneReply
  split
  · exact State.rd_bump_ne hd
  · split
    · exact State.rd_reply_ne hd hh ht
    · split
      · exact State.rd_bump_ne hd
      · exact State.rd_ringPut_ne ht

theorem State.rd_replyOf_ne {s : State} {c : Cmd} {g : Fld} (hd : g.key ≠ CMD.STRAY.DROPPED.key) (hh : g.key ≠ CMD.STRAY.HELD.key)
    (ht : g.key ≠ (CMD.RING_TAIL.TAIL c.ring).key) : (s.replyOf c).rd g = s.rd g := by
  unfold State.replyOf
  split
  · split
    · exact State.rd_goneReply_ne hd hh ht
    · exact State.rd_reply_ne hd hh ht
  · rfl

theorem State.replyOf_signalAddr (s : State) (c : Cmd) (n : Nat) :
    (s.replyOf c).rd (CMD.CHAN_SIGNAL.ADDR n) = s.rd (CMD.CHAN_SIGNAL.ADDR n) :=
  State.rd_replyOf_ne (CMD.CHAN_SIGNAL.ADDR_key_ne (by decide) (by decide)) (CMD.CHAN_SIGNAL.ADDR_key_ne (by decide) (by decide))
    (CMD.CHAN_SIGNAL.ADDR_key_ne (by omega) (by decide))

/-! COMMAND_COMPLETE. -/

/-- Where a status is fixed, no earlier end of the ring waits and the hold has room, a completion is the reply, the command's leaving
flight, and behind both the channel signal (R358, R359). -/
theorem commandComplete_eq {s : State} {k st : Nat} {c : Cmd} (h : s.cmdOf k = some c) (hsrc : c.src < 2) (hst : c.status = some st)
    (first : ∀ d ∈ s.cmds, d.src ≠ 2 → d.status.isSome = true → d.needsReply = true → d.ring = c.ring → c.doneNo ≤ d.doneNo)
    (room : s.hold.length < 4096) :
    commandComplete k s =
      (if c.signalAfter then ((s.replyOf c).cmdDiscard k).chanSignal c.chan else (s.replyOf c).cmdDiscard k).chanRegs c.chan := by
  have host : (c.src == 2) = false := beq_eq_false_iff_ne.mpr (by omega)
  have fits : decide (4096 ≤ s.hold.length) = false := decide_eq_false (by omega)
  have unblocked : s.cmds.any (fun d => d.src != 2 && d.status.isSome && d.needsReply && c.needsReply && d.ring == c.ring &&
      decide (d.doneNo < c.doneNo)) = false := by
    rw [List.any_eq_false]
    intro d hd earlier
    simp only [Bool.and_eq_true, bne_iff_ne, beq_iff_eq, decide_eq_true_eq] at earlier
    obtain ⟨⟨⟨⟨⟨hosted, ended⟩, replies⟩, -⟩, ring⟩, before⟩ := earlier
    exact absurd (first d hd hosted ended replies ring) (by omega)
  simp only [commandComplete, h, host, hst, unblocked, fits, Option.isNone_some, Bool.and_false, Bool.false_and, Bool.or_false,
    Bool.false_eq_true, if_false]
  rfl

/-- Settles O17: the signal counts and stores in a state whose channels, signal address and hosts are those before the reply. -/
theorem channelSignalFollowsTheReply : Obligations.ChannelSignalFollowsTheReply := by
  intro s k st c h hsrc hst signal first room
  have completes := commandComplete_eq h hsrc hst first room
  rw [signal, if_pos rfl] at completes
  have channel : ((s.replyOf c).cmdDiscard k).chan c.chan = s.chan c.chan := s.replyOf_chan c c.chan
  have count : ((((s.replyOf c).cmdDiscard k).chanSignal c.chan).chan c.chan).doneCount = ((s.chan c.chan).doneCount + 1) % 2 ^ 64 := by
    rw [State.chanSignal_doneCount, channel]
  refine ⟨_, congrArg Host.Outcome.next completes, ?_, ?_, ?_⟩
  · rw [State.chanRegs_chan, count]
  · rw [State.chanRegs_doneCount, count]
    exact Nat.mod_mod_of_dvd _ (by decide)
  · intro named hosted
    have addr : ((s.replyOf c).cmdDiscard k).rd (CMD.CHAN_SIGNAL.ADDR c.chan) = s.rd (CMD.CHAN_SIGNAL.ADDR c.chan) :=
      s.replyOf_signalAddr c c.chan
    have attached : ((s.replyOf c).cmdDiscard k).attached (c.chan / 64) = true := (s.replyOf_attached c _).trans hosted
    have stored := State.chanSignal_load (addr ▸ named) attached
    rw [addr, channel] at stored
    exact (State.load_of_mem (State.chanRegs_mem ..) _ _).trans stored

end Sys2Proof.Machine
end

section
/-! PROOFS. What the hosts' events are made of (R382–R386): the registers and the ports of the hosts, the parts and registers that stand
through an operation, a record written, vectors sent, and the MSI-X table. -/

namespace Sys2Proof.Machine

open Sys2Proof

/-! Register fields of block HIF. -/

/-- Fields of the ports' registers have different keys where the registers or the lowest bits differ, whichever the ports. -/
theorem HIF.key_ne {r r' h h' lo lo' w w' : Nat} (port : h < 2) (port' : h' < 2)
    (apart : (0x100 ≤ r ∧ r < 0x140 ∧ lo < 64) ∧ (0x100 ≤ r' ∧ r' < 0x140 ∧ lo' < 64) ∧ (r ≠ r' ∨ lo ≠ lo')) :
    (⟨0, r + 0x40 * h, lo, w, 0⟩ : Fld).key ≠ (⟨0, r' + 0x40 * h', lo', w', 0⟩ : Fld).key := by
  simp only [Fld.key]
  omega

theorem State.reaches_port {s : State} {h : Nat} (reach : s.reaches h = true) : h < 2 := by
  simp only [State.reaches, Bool.and_eq_true, decide_eq_true_eq] at reach
  exact reach.1.1.1

theorem State.reaches_mse {s : State} {h : Nat} (reach : s.reaches h = true) : s.rd (HIF.PORT_STATUS.MSE h) = 1 := by
  simp only [State.reaches, Bool.and_eq_true] at reach
  exact eq_of_beq reach.2

theorem State.viaHost_eq {s : State} {h : Nat} (reach : s.reaches h = true) (f : State → State) : s.viaHost h f = f s := if_pos reach

theorem State.viaSource_eq {s : State} {src : Nat} (reach : src = 2 ∨ s.reaches src = true) (f : State → State) : s.viaSource src f = f s := by
  unfold State.viaSource
  split
  · rfl
  · exact State.viaHost_eq (reach.resolve_left ‹_›) f

/-! Registers read after fields are put back to their reset values. -/

theorem State.rd_regs0_ne {s : State} {g : Fld} {l : List Fld} (h : ∀ f ∈ l, g.key ≠ f.key) : (s.regs0 l).rd g = s.rd g := by
  induction l generalizing s with
  | nil => rfl
  | cons f r ih =>
    have rest : ((s.reg0 f).regs0 r).rd g = (s.reg0 f).rd g := ih (fun x hx => h x (List.mem_cons_of_mem _ hx))
    exact rest.trans (State.rd_reg0_ne (h f List.mem_cons_self))

/-- A field at its reset value stays there through resets of any fields. -/
theorem State.rd_regs0_of_rst {s : State} {g : Fld} (h : s.rd g = g.rst) (l : List Fld) : (s.regs0 l).rd g = g.rst := by
  refine foldl_inv (P := fun t : State => t.rd g = g.rst) (fun t f ht => ?_) l h
  by_cases same : g.key = f.key
  · rw [State.rd, State.reg0, same, aFind_aErase_self]
    rfl
  · exact (State.rd_reg0_ne same).trans ht

theorem State.rd_regs0_mem {s : State} {g : Fld} {l : List Fld} (h : g ∈ l) : (s.regs0 l).rd g = g.rst := by
  obtain ⟨before, after, rfl⟩ := List.append_of_mem h
  have reset : ((s.regs0 before).reg0 g).rd g = g.rst := State.rd_reg0_self _ _
  rw [State.regs0, List.foldl_append, List.foldl_cons]
  exact State.rd_regs0_of_rst reset after

/-- A field written through another name of its key reads as written. -/
theorem State.rd_wr_key {s : State} {f g : Fld} {v : Nat} (hk : g.key = f.key) (hw : g.w = f.w) (hr : g.rst = f.rst) :
    (s.wr f v).rd g = v % 2 ^ g.w := by
  have same : s.wr f v = s.wr g v := by rw [State.wr, State.wr, hk, hw, hr]
  rw [same, State.rd_wr_self]

/-! Register fields of the other blocks through an operation. -/

/-- A field reads as before an operation that leaves its block. -/
theorem Frame.rd_block {w b n : Nat} {s t : State} (frame : Frame w b s t) {g : Fld} (block : g.blk = n) (small : n < 19)
    (left : b.testBit n = false) : t.rd g = s.rd g := by
  subst block
  exact frame.rd g small left

theorem State.sameRegs.refl (s : State) (bs : List Nat) : s.sameRegs s bs := fun _ _ => rfl

theorem State.sameRegs.of_rd {s t u : State} {bs : List Nat} (h : s.sameRegs t bs) (e : ∀ g, u.rd g = t.rd g) : s.sameRegs u bs :=
  fun g hg => (e g).trans (h g hg)

theorem State.sameRegs.wr {s t : State} {bs : List Nat} (h : s.sameRegs t bs) {f : Fld} (hf : f.blk ∈ bs) (v : Nat) :
    s.sameRegs (t.wr f v) bs := by
  intro g hg
  have other : g.blk ≠ f.blk := fun e => hg (by rw [e]; exact hf)
  exact (State.rd_wr_ne (Fld.key_ne_of_blk other)).trans (h g hg)

theorem State.sameRegs.bump {s t : State} {bs : List Nat} (h : s.sameRegs t bs) {f : Fld} (hf : f.blk ∈ bs) (n : Nat) :
    s.sameRegs (t.bump f n) bs := h.wr hf _

theorem State.sameRegs.wrs {s t : State} {bs : List Nat} (h : s.sameRegs t bs) {l : List (Fld × Nat)} (hl : ∀ p ∈ l, p.1.blk ∈ bs) :
    s.sameRegs (t.wrs l) bs :=
  fun g hg => (State.rd_wrs_ne (fun p hp => Fld.key_ne_of_blk (fun e => hg (e ▸ hl p hp)))).trans (h g hg)

theorem State.sameRegs.regs0 {s t : State} {bs : List Nat} (h : s.sameRegs t bs) {l : List Fld} (hl : ∀ f ∈ l, f.blk ∈ bs) :
    s.sameRegs (t.regs0 l) bs :=
  fun g hg => (State.rd_regs0_ne (fun f hf => Fld.key_ne_of_blk (fun e => hg (e ▸ hl f hf)))).trans (h g hg)

theorem State.sameRegs.ite {s t u : State} {bs : List Nat} {c : Prop} [Decidable c] (ht : s.sameRegs t bs) (hu : s.sameRegs u bs) :
    s.sameRegs (if c then t else u) bs := by
  split
  · exact ht
  · exact hu

theorem State.sameBut.refl (s : State) (fs : List Fld) : s.sameBut s fs := fun _ _ => rfl

theorem State.sameBut.wr {s t : State} {fs : List Fld} (h : s.sameBut t fs) {f : Fld} (hf : f ∈ fs) (v : Nat) : s.sameBut (t.wr f v) fs :=
  fun g hg => (State.rd_wr_ne (hg f hf)).trans (h g hg)

/-! Parts through an operation. -/

theorem State.sameParts.regs0 {s t : State} {ps : List Part} (h : s.sameParts t ps) (l : List Fld) : s.sameParts (t.regs0 l) ps := by
  refine foldl_inv (P := fun u : State => s.sameParts u ps) (fun u f hu => ?_) l h
  intro p hm hn
  have := hu p hm hn
  cases p <;> exact this

theorem State.sameParts.emit {s t : State} {ps : List Part} (h : s.sameParts t ps) (out : Part.out ∈ ps) (o : Output) :
    s.sameParts (t.emit o) ps := by
  intro p hm hn
  have := h p hm hn
  cases p <;> first | exact absurd out hn | exact this

theorem State.sameParts.setPort {s t : State} {ps : List Part} (h : s.sameParts t ps) (ports : Part.ports ∈ ps) (i : Nat) (x : PciePort) :
    s.sameParts (t.setPort i x) ps := by
  intro p hm hn
  have := h p hm hn
  cases p <;> first | exact absurd ports hn | exact this

/-! Ports. -/

theorem State.port_of_ports {s t : State} (e : t.ports = s.ports) (i : Nat) : t.port i = s.port i := by
  rw [State.port, e, State.port]

theorem State.port_setPort_self (s : State) (h : Nat) (p : PciePort) : (s.setPort h p).port h = p := by
  rw [State.port, State.setPort, aFind_aPut_self]
  rfl

theorem State.port_setPort_ne (s : State) {h i : Nat} (p : PciePort) (ne : i ≠ h) : (s.setPort h p).port i = s.port i := by
  rw [State.port, State.setPort, aFind_aPut_other _ _ _ _ ne, State.port]

/-- A vector raised on a host is a message sent, or a pending bit of that host's port. -/
theorem State.raise_port_ne (s : State) {h i : Nat} (v : Nat) (ne : i ≠ h) : (s.raise h v).port i = s.port i := by
  unfold State.raise
  split
  · split
    · exact s.port_setPort_ne _ ne
    · rfl
  · rfl

theorem State.raiseIf_port_ne (s : State) {h i : Nat} (en vec : Fld) (ne : i ≠ h) : (s.raiseIf h en vec).port i = s.port i := by
  unfold State.raiseIf
  split
  · exact s.raise_port_ne _ ne
  · rfl

theorem State.hostEvent_rd_self (s : State) (h : Nat) (f : Fld) : (s.hostEvent h f).rd f = 1 % 2 ^ f.w := by
  rw [State.hostEvent, State.raiseIf_rd, State.rd_wr_self]

theorem State.hostEvent_rd_ne {s : State} {h : Nat} {f g : Fld} (ne : g.key ≠ f.key) : (s.hostEvent h f).rd g = s.rd g := by
  rw [State.hostEvent, State.raiseIf_rd, State.rd_wr_ne ne]

theorem State.hostEvent_port_ne (s : State) {h i : Nat} (f : Fld) (ne : i ≠ h) : (s.hostEvent h f).port i = s.port i :=
  State.raiseIf_port_ne _ _ _ ne

@[simp] theorem State.hostEvent_mem (s : State) (h : Nat) (f : Fld) : (s.hostEvent h f).mem = s.mem := State.raiseIf_mem _ _ _ _

@[simp] theorem State.hostEvent_cmds (s : State) (h : Nat) (f : Fld) : (s.hostEvent h f).cmds = s.cmds := State.raiseIf_cmds _ _ _ _

/-! A record written (R468–R473). -/

@[simp] theorem State.scoreVectors_rd (s : State) (g : Fld) : s.scoreVectors.rd g = s.rd g := by
  rw [State.scoreVectors, State.raiseIf_rd, State.raiseIf_rd]

@[simp] theorem State.scoreVectors_score (s : State) : s.scoreVectors.score = s.score := by
  rw [State.scoreVectors, State.raiseIf_score, State.raiseIf_score]

/-- The record that the ring grants, with the next SEQ. -/
def Score.granted (b : Score) (time code sev inst sub a0 a1 : Nat) : Record := ⟨time, code, sev, inst, sub, b.nextSeq, a0, a1⟩

/-- The ring with one record more: a full one gives up its oldest. -/
def Score.ringWith (b : Score) (r : Record) : List Record := (if decide (8192 ≤ b.ring.length) then b.ring.drop 1 else b.ring) ++ [r]

theorem State.recordRaw_ring (s : State) (time code sev inst sub a0 a1 : Nat) :
    (s.recordRaw time code sev inst sub a0 a1).score.ring = s.score.ringWith (s.score.granted time code sev inst sub a0 a1) := by
  unfold State.recordRaw
  extract_lets b r full lost t u v
  have granted : t.score.ring = s.score.ringWith r := rfl
  have bumped : u.score = t.score := by
    unfold u
    split <;> rfl
  have shown : v.score = t.score := bumped
  split
  · rw [State.scoreVectors_score, State.bump_score, shown, granted]
    rfl
  · rw [shown, granted]
    rfl

theorem State.recordRaw_sameRegs (s : State) (time code sev inst sub a0 a1 : Nat) :
    s.sameRegs (s.recordRaw time code sev inst sub a0 a1) [17] := by
  have inBlock {f : Fld} (h : f.blk = 17) : f.blk ∈ [17] := by rw [h]; exact List.mem_singleton_self _
  unfold State.recordRaw
  extract_lets b r full lost t u v
  have granted : s.sameRegs t [17] := fun _ _ => rfl
  have bumped : s.sameRegs u [17] := ((granted.bump (inBlock rfl) 1).wr (inBlock rfl) _).ite granted
  have shown : s.sameRegs v [17] := ((bumped.wr (inBlock rfl) _).wr (inBlock rfl) _).wr (inBlock rfl) _
  exact ((shown.bump (inBlock rfl) 1).of_rd (fun _ => State.scoreVectors_rd _ _)).ite shown

theorem State.recordAs_sameRegs (s : State) (time code sev inst sub a0 a1 : Nat) :
    s.sameRegs (s.recordAs time code sev inst sub a0 a1) [17] := by
  have first := s.recordRaw_sameRegs time code sev inst sub a0 a1
  unfold State.recordAs
  extract_lets t n
  exact State.sameRegs.ite (fun g hg => (State.recordRaw_sameRegs _ _ _ _ _ _ _ _ g hg).trans (first g hg)) first

theorem State.recordAs_sameMem (s : State) (time code sev inst sub a0 a1 : Nat) : s.sameMem (s.recordAs time code sev inst sub a0 a1) := by
  have written : Frame 208 131072 s (s.recordAs time code sev inst sub a0 a1) :=
    State.recordAs_fr _ _ _ _ _ _ _ _ (Frame.refl s) (Sub.refl _) (Sub.refl _)
  intro a
  rw [written.mem rfl]

theorem Score.mem_ringWith_self (b : Score) (r : Record) : r ∈ b.ringWith r := List.mem_append_right _ List.mem_cons_self

/-- The newest record of a ring stands through one record more. -/
theorem Score.mem_ringWith_of_last {b : Score} {l : List Record} {r : Record} (h : b.ring = l ++ [r]) (x : Record) : r ∈ b.ringWith x := by
  refine List.mem_append_left _ ?_
  split
  · rename_i full
    have long : 1 ≤ l.length := by
      rw [h, List.length_append, List.length_singleton] at full
      have := of_decide_eq_true full
      omega
    rw [h, List.drop_append_of_le_length long]
    exact List.mem_append_right _ List.mem_cons_self
  · rw [h]
    exact List.mem_append_right _ List.mem_cons_self

/-- A record written stands in the ring, behind it record 0x0003 where it is due (R473). -/
theorem State.recordAs_logged {s : State} (time code inst sub a0 a1 : Nat) :
    (s.recordAs time code (codeInfo code).1 inst sub a0 a1).logged code inst a0 a1 := by
  refine ⟨s.score.granted time code (codeInfo code).1 inst sub a0 a1, ?_, rfl, rfl, rfl, rfl, rfl⟩
  have ring := s.recordRaw_ring time code (codeInfo code).1 inst sub a0 a1
  unfold State.recordAs
  extract_lets t n
  split
  · rw [State.recordRaw_ring]
    exact Score.mem_ringWith_of_last ring _
  · rw [ring]
    exact s.score.mem_ringWith_self _

/-! Vectors sent, and the MSI-X table (R382, R383). -/

theorem State.foldr_emit {α : Type} (s : State) (o : α → Output) (l : List α) :
    l.foldr (fun x (t : State) => t.emit (o x)) s = { s with out := l.map o ++ s.out } := by
  induction l with
  | nil => rfl
  | cons x r ih =>
    rw [List.foldr_cons, ih]
    rfl

/-- Vectors that are no longer masked leave the pending bits and are sent: no more than a port and what is sent changes. -/
theorem State.msixKick_eq (s : State) (h : Nat) :
    ∃ pba out, s.msixKick h = s ∨ s.msixKick h = { s.setPort h { s.port h with pba := pba } with out := out } := by
  unfold State.msixKick
  extract_lets p go t
  split
  · exact ⟨_, _, .inr (State.foldr_emit t (p.message h) go)⟩
  · exact ⟨[], [], .inl rfl⟩

theorem State.msixKick_rd (s : State) (h : Nat) : s.allRegs (s.msixKick h) := by
  obtain ⟨pba, out, e | e⟩ := s.msixKick_eq h <;> rw [e] <;> exact fun _ => rfl

theorem State.msixKick_parts (s : State) (h : Nat) : s.sameParts (s.msixKick h) [.out, .ports] := by
  obtain ⟨pba, out, e | e⟩ := s.msixKick_eq h <;> rw [e]
  · exact State.sameParts.refl s _
  · intro p _ hn
    cases p
    case out => exact absurd (by decide) hn
    case ports => exact absurd (by decide) hn
    all_goals rfl

theorem State.msixKick_msixWord (s : State) (h j : Nat) : ((s.msixKick h).port h).msixWord j = (s.port h).msixWord j := by
  obtain ⟨pba, out, e | e⟩ := s.msixKick_eq h <;> rw [e]
  have port : ({ s.setPort h { s.port h with pba := pba } with out := out } : State).port h = { s.port h with pba := pba } :=
    s.port_setPort_self h _
  rw [port]
  rfl

/-- A dword of the table as a write leaves it: message address [1:0] is zero, and an entry's word 3 holds the mask bit. -/
def msixDword (i v : Nat) : Nat := if i % 4 = 3 then v % 2 else if i % 4 = 0 then v % 2 ^ 32 / 4 * 4 else v % 2 ^ 32

theorem PciePort.msixWord_msixPut_self (p : PciePort) (i v : Nat) : (p.msixPut i v).msixWord i = msixDword i v := by
  rw [PciePort.msixWord, PciePort.msixPut, aFind_aPut_self]
  rfl

theorem PciePort.msixWord_msixPut_ne (p : PciePort) {i j : Nat} (v : Nat) (ne : j ≠ i) : (p.msixPut i v).msixWord j = p.msixWord j := by
  rw [PciePort.msixWord, PciePort.msixPut, aFind_aPut_other _ _ _ _ ne, PciePort.msixWord]

/-- A port with the dwords of an aligned write in its table. -/
def PciePort.msixPuts (p : PciePort) (i value size : Nat) : PciePort :=
  if size = 8 then (p.msixPut i value).msixPut (i + 1) (value / 2 ^ 32) else p.msixPut i value

section MsixWrite

variable {s : State} {h off value size : Nat}

theorem msix_not_pba (below : off + size ≤ msixBase + 2048 * 16) (aligned : Bool) :
    (decide (pbaBase ≤ off) && size == 8 && aligned) = false := by
  have : ¬ pbaBase ≤ off := by
    simp only [pbaBase, msixBase] at *
    omega
  simp [this]

/-- A naturally aligned write of the table sets its dwords and sends what it unmasks. -/
theorem State.msixWrite_aligned (start : msixBase ≤ off) (below : off + size ≤ msixBase + 2048 * 16) (wide : size = 4 ∨ size = 8)
    (aligned : off % size = 0) :
    s.msixWrite h off value size = (s.setPort h ((s.port h).msixPuts ((off - msixBase) / 4) value size)).msixKick h := by
  have wide' : (size == 4 || size == 8) = true := by simpa using wide
  simp [State.msixWrite, msix_not_pba below, start, below, wide', aligned, PciePort.msixPuts]

/-- Any other write of the table is discarded and recorded. -/
theorem State.msixWrite_unaligned (below : off + size ≤ msixBase + 2048 * 16) (unaligned : off % size ≠ 0) :
    s.msixWrite h off value size = s.discard h off size := by
  simp [State.msixWrite, msix_not_pba below, unaligned]

end MsixWrite

end Sys2Proof.Machine
end

section
/-! PROOFS. The loss of a host (R384): its stages in a row, and of each what it leaves of the host's registers and port, of its channels and
rings, of its contexts and of its commands. -/

namespace Sys2Proof.Machine

open Sys2Proof

/-! The stages. -/

/-- The loss marked: state, cause and count, and its actions running. -/
def State.lossMarked (s : State) (h cause : Nat) : State :=
  let t := ((s.wr (HIF.PORT_STATUS.HOST_STATE h) 3).wr (HIF.PORT_STATUS.LOSS_CAUSE h) cause).bump (HIF.HOST_EVENTS.LOSSES h) 1
  t.setPort h { t.port h with lossRunning := true, kept := [] }

/-- The host's channels and rings reset. -/
def State.queuesLost (s : State) (h : Nat) : State := (hostRings h).foldl State.ringLost ((hostChans h).foldl State.chanLost s)

/-- What the host's memory held, lost: pages, caches and copies, windows of the intake. -/
def State.memoryLost (s : State) (h : Nat) : State := ((s.liveCtxs.foldl (State.poisonHost h) s).cachesLost h).intakeHostLost h

/-- The registers of the host's areas reset, its slots passed on, its staging ended. -/
def State.areasLost (s : State) (h : Nat) : State := (((s.regs0 (hostFields h)).slotsPass h).stagingLost h).serveRegs

/-- The loss up to the contexts' becoming ORPHANED. -/
def State.lossTaken (s : State) (h cause : Nat) : State := (((s.lossMarked h cause).queuesLost h).cmdsLost h).orphan h

theorem State.hostLost_eq {s : State} {h : Nat} (attached : s.hostState h = 2) (cause : Nat) :
    s.hostLost h cause = ((s.lossTaken h cause).memoryLost h).areasLost h := by
  unfold State.hostLost
  rw [if_neg (not_not.mpr attached)]
  rfl

/-! What the stages leave (`Frame`): the blocks and the parts that each can change. -/

theorem State.queuesLost_frame (s : State) (h : Nat) : Frame 24960 2 s (s.queuesLost h) :=
  Frame.foldl (fun t r ht => State.ringLost_fr t r ht rfl rfl) (Frame.foldl (fun t c ht => State.chanLost_fr t c ht rfl rfl) (Frame.refl s))

theorem State.cmdsLost_frame (s : State) (h : Nat) : Frame 512 0 s (s.cmdsLost h) := State.cmdsLost_fr s h (Frame.refl s) rfl

theorem State.orphan_frame (s : State) (h : Nat) : Frame 32896 5 s (s.orphan h) := State.orphan_fr s h (Frame.refl s) rfl rfl

theorem State.poisoned_frame (s : State) (h : Nat) (l : List Nat) : Frame 25165832 16 s (l.foldl (State.poisonHost h) s) :=
  Frame.foldl (fun t c ht => State.poisonHost_fr h t c ht rfl rfl) (Frame.refl s)

theorem State.memoryLost_frame (s : State) (h : Nat) : Frame 1152923154438621704 4880 s (s.memoryLost h) :=
  State.intakeHostLost_fr _ h (State.cachesLost_fr _ h
    (Frame.foldl (fun t c ht => State.poisonHost_fr h t c ht rfl rfl) (Frame.refl s)) rfl rfl) rfl rfl

theorem State.areasLost_frame (s : State) (h : Nat) : Frame 147573952589676412928 267529 s (s.areasLost h) := by
  refine State.serveRegs_fr _ (State.stagingLost_fr _ h (State.slotsPass_fr _ h (State.regs0_hostFields_fr s h (Frame.refl s) ?_) rfl) rfl rfl) rfl
  decide

/-! The host's own registers. -/

/-- The fields of block HIF that a loss changes once it is marked: how many contexts are ORPHANED, and the host's controls. -/
def lossFields (h : Nat) : List Fld := [HIF.PORT_STATUS.ORPHANED 0, HIF.PORT_STATUS.ORPHANED 1, HIF.HOST_CTL.ATTACH h,
  HIF.HOST_CTL.EVENT_VECTOR h, HIF.HOST_CTL.EVENT_EN h]

section LossFields

variable {h : Nat} {g : Fld}

theorem State.orphan_rd_ne {s : State} (hif : g.blk = 0) (ne : ∀ f ∈ lossFields h, g.key ≠ f.key) : (s.orphan h).rd g = s.rd g := by
  unfold State.orphan State.orphanRegs
  extract_lets l t u n
  have life (c : Nat) : g.key ≠ (SCHED.CTX_STATE.LIFE c).key := Fld.key_ne_of_blk (by rw [hif]; exact Nat.zero_ne_add_one 1)
  have folded : t.rd g = s.rd g :=
    foldl_same (fun v : State => v.rd g) (fun v c => (State.setCtx_rd _ _ _ _).trans (State.rd_wr_ne (life c))) l s
  rw [State.rd_wr_ne (ne _ (by simp [lossFields])), State.rd_wr_ne (ne _ (by simp [lossFields]))]
  exact folded

theorem State.areasLost_rd_ne {s : State} (hif : g.blk = 0) (ne : ∀ f ∈ lossFields h, g.key ≠ f.key) : (s.areasLost h).rd g = s.rd g := by
  have behind : Frame 147573952589676412928 266496 (s.regs0 (hostFields h)) (s.areasLost h) :=
    State.serveRegs_fr _ (State.stagingLost_fr _ h (State.slotsPass_fr _ h (Frame.refl _) rfl) rfl rfl) rfl
  rw [behind.rd_block hif (by decide) rfl]
  refine State.rd_regs0_ne (fun f hf => ?_)
  by_cases own : f.blk = 0
  · have controls : (hostFields h).filter (fun x => x.blk == 0) = [HIF.HOST_CTL.ATTACH h, HIF.HOST_CTL.EVENT_VECTOR h, HIF.HOST_CTL.EVENT_EN h] := rfl
    have mem : f ∈ (hostFields h).filter (fun x => x.blk == 0) := List.mem_filter.mpr ⟨hf, beq_iff_eq.mpr own⟩
    exact ne f (List.mem_cons_of_mem _ (List.mem_cons_of_mem _ (controls ▸ mem)))
  · exact Fld.key_ne_of_blk (by rw [hif]; exact fun e => own e.symm)

/-- A field of block HIF beside those reads after a loss as it was marked. -/
theorem State.hostLost_rd {s : State} (attached : s.hostState h = 2) (cause : Nat) (hif : g.blk = 0)
    (ne : ∀ f ∈ lossFields h, g.key ≠ f.key) : (s.hostLost h cause).rd g = (s.lossMarked h cause).rd g := by
  rw [State.hostLost_eq attached, State.areasLost_rd_ne hif ne, (State.memoryLost_frame _ h).rd_block hif (by decide) rfl, State.lossTaken,
    State.orphan_rd_ne hif ne, (State.cmdsLost_frame _ h).rd_block hif (by decide) rfl,
    (State.queuesLost_frame _ h).rd_block hif (by decide) rfl]

end LossFields

/-- A field of PORT_STATUS or HOST_EVENTS that a loss does not change once it is marked. -/
theorem lossFields_ne {h r lo w : Nat} (port : h < 2) (apart : (r = 0x100 ∧ lo < 32) ∨ (r = 0x110 ∧ lo < 64)) :
    ∀ f ∈ lossFields h, (⟨0, r + 0x40 * h, lo, w, 0⟩ : Fld).key ≠ f.key := by
  simp only [lossFields, List.mem_cons, List.not_mem_nil, or_false]
  rintro f (rfl | rfl | rfl | rfl | rfl)
  all_goals
    simp only [Fld.key, HIF.PORT_STATUS.ORPHANED, HIF.HOST_CTL.ATTACH, HIF.HOST_CTL.EVENT_VECTOR, HIF.HOST_CTL.EVENT_EN]
    omega

section Marked

variable {s : State} {h : Nat} (attached : s.hostState h = 2) (port : h < 2) (cause : Nat)

include attached port

theorem State.hostLost_hostState : (s.hostLost h cause).hostState h = 3 := by
  have marked : (s.lossMarked h cause).rd (HIF.PORT_STATUS.HOST_STATE h) = 3 :=
    (State.rd_bump_ne (HIF.key_ne port port (by decide))).trans
      ((State.rd_wr_ne (HIF.key_ne port port (by decide))).trans (State.rd_wr_self s _ 3))
  exact (State.hostLost_rd attached cause rfl (lossFields_ne port (by decide))).trans marked

theorem State.hostLost_lossCause : (s.hostLost h cause).rd (HIF.PORT_STATUS.LOSS_CAUSE h) = cause % 2 ^ 4 := by
  have marked : (s.lossMarked h cause).rd (HIF.PORT_STATUS.LOSS_CAUSE h) = cause % 2 ^ 4 :=
    (State.rd_bump_ne (HIF.key_ne port port (by decide))).trans (State.rd_wr_self _ _ cause)
  exact (State.hostLost_rd attached cause rfl (lossFields_ne port (by decide))).trans marked

theorem State.hostLost_losses : s.counted (s.hostLost h cause) (HIF.HOST_EVENTS.LOSSES h) 1 := by
  have before : ((s.wr (HIF.PORT_STATUS.HOST_STATE h) 3).wr (HIF.PORT_STATUS.LOSS_CAUSE h) cause).rd (HIF.HOST_EVENTS.LOSSES h) =
      s.rd (HIF.HOST_EVENTS.LOSSES h) :=
    (State.rd_wr_ne (HIF.key_ne port port (by decide))).trans (State.rd_wr_ne (HIF.key_ne port port (by decide)))
  have marked : s.counted (s.lossMarked h cause) (HIF.HOST_EVENTS.LOSSES h) 1 := by
    rw [State.counted, ← before]
    exact State.rd_bump_self _ _ 1
  exact (State.hostLost_rd attached cause rfl (lossFields_ne port (by decide))).trans marked

/-- The other low fields of PORT_STATUS stand: the link and the two enables. -/
theorem State.hostLost_status {lo w : Nat} (other : lo < 16 ∧ lo ≠ 9) :
    (s.hostLost h cause).rd ⟨0, 0x100 + 0x40 * h, lo, w, 0⟩ = s.rd ⟨0, 0x100 + 0x40 * h, lo, w, 0⟩ := by
  have marked : (s.lossMarked h cause).rd ⟨0, 0x100 + 0x40 * h, lo, w, 0⟩ = s.rd ⟨0, 0x100 + 0x40 * h, lo, w, 0⟩ :=
    (State.rd_bump_ne (HIF.key_ne port port (by omega))).trans
      ((State.rd_wr_ne (HIF.key_ne port port (by omega))).trans (State.rd_wr_ne (HIF.key_ne port port (by omega))))
  exact (State.hostLost_rd attached cause rfl (lossFields_ne port (by omega))).trans marked

end Marked

/-! The host's port. -/

/-- A port replaced by one that agrees on whether loss actions run. -/
theorem State.lossRunning_setPort (s : State) {h : Nat} {p : PciePort} (e : p.lossRunning = (s.port h).lossRunning) (i : Nat) :
    ((s.setPort h p).port i).lossRunning = (s.port i).lossRunning := by
  by_cases same : i = h
  · rw [same, State.port_setPort_self, e]
  · rw [State.port_setPort_ne _ _ same]

theorem State.ringLost_lossRunning (s : State) (r i : Nat) : ((s.ringLost r).port i).lossRunning = (s.port i).lossRunning := by
  unfold State.ringLost
  extract_lets t u
  have dropped : Frame 24576 2 s t := State.ringDrop_fr s r (Frame.refl s) rfl rfl
  have kept : u.port i = s.port i := State.port_of_ports ((State.regs0_ports _ _).trans (dropped.ports rfl)) i
  rw [← kept]
  split
  · exact u.lossRunning_setPort (by rfl) i
  · exact congrArg PciePort.lossRunning (State.port_of_ports (State.regs0_ports u _) i)

theorem State.queuesLost_lossRunning (s : State) (h i : Nat) : ((s.queuesLost h).port i).lossRunning = (s.port i).lossRunning := by
  have channels : Frame 256 2 s ((hostChans h).foldl State.chanLost s) := Frame.foldl (fun t c ht => State.chanLost_fr t c ht rfl rfl) (Frame.refl s)
  rw [State.queuesLost, foldl_same (fun t : State => (t.port i).lossRunning) (fun t r => t.ringLost_lossRunning r i),
    State.port_of_ports (channels.ports rfl)]

theorem State.orphan_lossRunning (s : State) (h i : Nat) : ((s.orphan h).port i).lossRunning = (s.port i).lossRunning := by
  unfold State.orphan
  extract_lets l t
  have folded : t.ports = s.ports := foldl_same (fun v : State => v.ports) (by intros; rfl) l s
  calc (((t.setPort h { t.port h with orphaned := l.length }).orphanRegs).port i).lossRunning
      = ((t.setPort h { t.port h with orphaned := l.length }).port i).lossRunning := rfl
    _ = (t.port i).lossRunning := t.lossRunning_setPort (by rfl) i
    _ = (s.port i).lossRunning := by rw [State.port_of_ports folded]

theorem State.hostLost_lossRunning {s : State} {h : Nat} (attached : s.hostState h = 2) (cause : Nat) :
    ((s.hostLost h cause).port h).lossRunning = true := by
  rw [State.hostLost_eq attached, State.port_of_ports ((State.areasLost_frame _ h).ports rfl),
    State.port_of_ports ((State.memoryLost_frame _ h).ports rfl), State.lossTaken, State.orphan_lossRunning,
    State.port_of_ports ((State.cmdsLost_frame _ h).ports rfl), State.queuesLost_lossRunning, State.lossMarked, State.port_setPort_self]

/-! The host's channels and rings. -/

/-- What the operation for one member of a list brings about, and the operations for all keep, holds behind the list. -/
theorem foldl_attains {α β : Type} {P : β → Prop} {f : β → α → β} {l : List α} {a : α} (mem : a ∈ l) (gets : ∀ b, P (f b a))
    (keeps : ∀ b x, P b → P (f b x)) (b : β) : P (l.foldl f b) := by
  obtain ⟨before, after, rfl⟩ := List.append_of_mem mem
  rw [List.foldl_append, List.foldl_cons]
  exact foldl_inv keeps after (gets _)

theorem State.rd_ringDrop_ne {s : State} {r : Nat} {g : Fld} (dropped : g.key ≠ CMD.STRAY.DROPPED.key) (held : g.key ≠ CMD.STRAY.HELD.key) :
    (s.ringDrop r).rd g = s.rd g := by
  unfold State.ringDrop State.lateIn State.holdCount
  rw [State.rd_wr_ne held]
  exact State.rd_bump_ne dropped

/-- A field at its reset value stays there when a ring is lost. -/
theorem State.ringLost_rd_of_rst {s : State} {g : Fld} (reset : s.rd g = g.rst) (dropped : g.key ≠ CMD.STRAY.DROPPED.key)
    (held : g.key ≠ CMD.STRAY.HELD.key) (r : Nat) : (s.ringLost r).rd g = g.rst := by
  unfold State.ringLost
  extract_lets t u
  have still : u.rd g = g.rst := State.rd_regs0_of_rst ((State.rd_ringDrop_ne dropped held).trans reset) _
  split
  · exact still
  · exact State.rd_regs0_of_rst still _

theorem State.ringLost_enable (s : State) (r : Nat) : (s.ringLost r).rd (CMD.RING_CTL.ENABLE r) = 0 := by
  unfold State.ringLost
  extract_lets t u
  have off : u.rd (CMD.RING_CTL.ENABLE r) = 0 := State.rd_regs0_mem List.mem_cons_self
  split
  · exact off
  · exact State.rd_regs0_of_rst off _

/-- A field of a channel or a ring that starts at a bit other than those of CMD.STRAY. -/
theorem CMD.key_ne_STRAY {off lo lo' w w' : Nat} (aligned : off % 8 = 0) (apart : lo % 512 ≠ lo' % 512) :
    (⟨1, off, lo, w, 0⟩ : Fld).key ≠ (⟨1, 0x100010, lo', w', 0⟩ : Fld).key :=
  Fld.key_ne_of_lo aligned (by decide : 0x100010 % 8 = 0) apart

theorem State.chanLost_enable (s : State) (c : Nat) : (s.chanLost c).rd (CMD.CHAN_CTL.ENABLE c) = 0 := State.rd_regs0_mem List.mem_cons_self

/-- A field at its reset value stays there when a channel is lost. -/
theorem State.chanLost_rd_of_rst {s : State} {g : Fld} (reset : s.rd g = g.rst) (c : Nat) : (s.chanLost c).rd g = g.rst := by
  unfold State.chanLost
  exact State.rd_regs0_of_rst (s := { s with chans := aErase s.chans c }) reset _

theorem State.queuesLost_chan (s : State) {h c : Nat} (own : c / 64 = h) : (s.queuesLost h).rd (CMD.CHAN_CTL.ENABLE c) = 0 := by
  have aligned : (0x102000 + 0x20 * c) % 8 = 0 := by omega
  have mem : c ∈ hostChans h := List.mem_map.mpr ⟨c % 64, List.mem_range.mpr (Nat.mod_lt _ (by decide)), by omega⟩
  have channels : ((hostChans h).foldl State.chanLost s).rd (CMD.CHAN_CTL.ENABLE c) = 0 :=
    foldl_attains (P := fun t : State => t.rd (CMD.CHAN_CTL.ENABLE c) = 0) mem (fun t => t.chanLost_enable c)
      (fun t x ht => State.chanLost_rd_of_rst (g := CMD.CHAN_CTL.ENABLE c) ht x) s
  exact foldl_inv (P := fun t : State => t.rd (CMD.CHAN_CTL.ENABLE c) = 0)
    (fun t r ht => State.ringLost_rd_of_rst (g := CMD.CHAN_CTL.ENABLE c) ht (CMD.key_ne_STRAY aligned (by decide))
      (CMD.key_ne_STRAY aligned (by decide)) r) (hostRings h) channels

theorem State.queuesLost_ring (s : State) {h r : Nat} (own : r / 128 = h) : (s.queuesLost h).rd (CMD.RING_CTL.ENABLE r) = 0 := by
  have aligned : (0x104008 + 0x40 * r) % 8 = 0 := by omega
  have mem : r ∈ hostRings h := List.mem_map.mpr ⟨r % 128, List.mem_range.mpr (Nat.mod_lt _ (by decide)), by omega⟩
  exact foldl_attains (P := fun t : State => t.rd (CMD.RING_CTL.ENABLE r) = 0) mem (fun t => t.ringLost_enable r)
    (fun t x ht => State.ringLost_rd_of_rst (g := CMD.RING_CTL.ENABLE r) ht (CMD.key_ne_STRAY aligned (by decide)) (CMD.key_ne_STRAY aligned (by decide)) x) _

/-- Nothing behind the channels and rings writes their registers. -/
theorem State.hostLost_rd_cmd {s : State} {h : Nat} (attached : s.hostState h = 2) (cause : Nat) {g : Fld} (cmd : g.blk = 1) :
    (s.hostLost h cause).rd g = ((s.lossMarked h cause).queuesLost h).rd g := by
  rw [State.hostLost_eq attached, (State.areasLost_frame _ h).rd_block cmd (by decide) rfl,
    (State.memoryLost_frame _ h).rd_block cmd (by decide) rfl, State.lossTaken, (State.orphan_frame _ h).rd_block cmd (by decide) rfl,
    (State.cmdsLost_frame _ h).rd_block cmd (by decide) rfl]

/-! The host's contexts. -/

/-- A LIVE context of the host becomes ORPHANED. -/
theorem State.orphan_life {s : State} {h x : Nat} (mem : x ∈ s.ctxs.map Prod.fst) (live : s.rd (SCHED.CTX_STATE.LIFE x) = 1)
    (own : s.rd (SCHED.CTX_STATE.OWNER x) = h) : (s.orphan h).rd (SCHED.CTX_STATE.LIFE x) = 2 := by
  unfold State.orphan
  extract_lets l t
  have listed : x ∈ l := List.mem_filter.mpr ⟨mem, by simp [live, own]⟩
  have folded : t.rd (SCHED.CTX_STATE.LIFE x) = 2 := by
    refine foldl_attains (P := fun v : State => v.rd (SCHED.CTX_STATE.LIFE x) = 2) listed (fun v => ?_) (fun v c hv => ?_) s
    · rw [State.setCtx_rd]
      exact State.rd_wr_self v _ 2
    rw [State.setCtx_rd]
    by_cases same : (SCHED.CTX_STATE.LIFE x).key = (SCHED.CTX_STATE.LIFE c).key
    · exact State.rd_wr_key same rfl rfl
    · exact (State.rd_wr_ne same).trans hv
  have behind : Frame 128 1 t ((t.setPort h { t.port h with orphaned := l.length }).orphanRegs) :=
    State.orphanRegs_fr _ (State.setPort_fr _ _ _ (Frame.refl t) rfl) rfl
  exact (behind.rd_block (n := 2) rfl (by decide) rfl).trans folded

theorem State.lossMarked_frame (s : State) (h cause : Nat) : Frame 128 1 s (s.lossMarked h cause) := by
  have hif : Nat.testBit 1 0 = true := rfl
  exact State.setPort_fr _ _ _ (State.bump_fr _ _ _ (State.wr_fr _ _ _ (State.wr_fr _ _ _ (Frame.refl s) hif) hif) hif) (Sub.refl _)

theorem State.hostLost_life {s : State} {h : Nat} (attached : s.hostState h = 2) (cause : Nat) {x : Nat} (mem : x ∈ s.ctxs.map Prod.fst)
    (live : s.rd (SCHED.CTX_STATE.LIFE x) = 1) (own : s.rd (SCHED.CTX_STATE.OWNER x) = h) :
    (s.hostLost h cause).rd (SCHED.CTX_STATE.LIFE x) = 2 := by
  have marked := s.lossMarked_frame h cause
  have queues := (s.lossMarked h cause).queuesLost_frame h
  have cmds := ((s.lossMarked h cause).queuesLost h).cmdsLost_frame h
  have ctxs := ((cmds.ctxs rfl).trans (queues.ctxs rfl)).trans (marked.ctxs rfl)
  have reads (f : Fld) (sched : f.blk = 2) : (((s.lossMarked h cause).queuesLost h).cmdsLost h).rd f = s.rd f := by
    rw [cmds.rd_block sched (by decide) rfl, queues.rd_block sched (by decide) rfl, marked.rd_block sched (by decide) rfl]
  rw [State.hostLost_eq attached, (State.areasLost_frame _ h).rd_block (n := 2) rfl (by decide) rfl, (State.memoryLost_frame _ h).rd_block (n := 2) rfl (by decide) rfl]
  exact State.orphan_life (by rw [ctxs]; exact mem) ((reads _ rfl).trans live) ((reads _ rfl).trans own)

/-! The host's commands. -/

/-- Every command in flight that host `h` gave is marked as a lost host's (R362). -/
def State.allGone (s : State) (h : Nat) : Prop := ∀ c ∈ s.cmds, c.src = h → c.gone = true

section AllGone

variable {h : Nat}

theorem Frame.allGone {w b : Nat} {s t : State} (f : Frame w b s t) (hw : w.testBit 9 = false) (gone : s.allGone h) : t.allGone h := by
  unfold State.allGone
  rw [f.cmds hw]
  exact gone

theorem State.allGone.of_cmds {s t : State} (gone : s.allGone h) (e : t.cmds = s.cmds) : t.allGone h := by
  unfold State.allGone
  rw [e]
  exact gone

theorem State.allGone.cmdMap {s : State} (gone : s.allGone h) {f : Cmd → Cmd} (keeps : ∀ c, (f c).src = c.src ∧ (f c).gone = c.gone) (k : Nat) :
    (s.cmdMap k f).allGone h := by
  intro c hc own
  obtain ⟨d, hd, rfl⟩ := List.mem_map.mp hc
  have same : (if d.id = k then f d else d).src = d.src ∧ (if d.id = k then f d else d).gone = d.gone := by
    split
    · exact keeps d
    · exact ⟨rfl, rfl⟩
  exact same.2.trans (gone d hd (same.1.symm.trans own))

/-- The end of a command leaves its source and its mark. -/
theorem State.allGone.finish {s : State} (gone : s.allGone h) (k st det o0 o1 o2 : Nat) : (s.finish k st det o0 o1 o2).allGone h := by
  refine gone.cmdMap (fun c => ?_) k
  split <;> exact ⟨rfl, rfl⟩

theorem State.allGone.lostReply {s : State} (gone : s.allGone h) (x : Hand) (aborted : Bool) : (s.lostReply x aborted).allGone h := by
  unfold State.lostReply
  split
  · exact gone.finish _ _ _ _ _ _
  · exact gone

theorem State.allGone.shardCmd {s : State} (gone : s.allGone h) (x : Shard) (st det : Nat) : (s.shardCmd x st det).allGone h := by
  unfold State.shardCmd
  split
  · exact gone.finish _ _ _ _ _ _
  · exact gone

theorem State.allGone.kittyLost {s : State} (gone : s.allGone h) (e : Nat) : (s.kittyLost e).allGone h :=
  (State.kittyLost_fr s e (Frame.refl s) (Sub.refl _) (Sub.refl _)).allGone rfl gone

theorem State.allGone.toHandState {s : State} (gone : s.allGone h) (n st : Nat) : (s.toHandState n st).allGone h :=
  (State.toHandState_fr (fw := 0) s n st (Frame.refl s) (Sub.refl _)).allGone rfl gone

theorem State.allGone.setHand {s : State} (gone : s.allGone h) (n : Nat) (x : Hand) : (s.setHand n x).allGone h :=
  (State.setHand_fr (fb := 0) s n x (Frame.refl s) (Sub.refl _)).allGone rfl gone

theorem State.allGone.wr {s : State} (gone : s.allGone h) (f : Fld) (v : Nat) : (s.wr f v).allGone h := gone

/-- A hand lost ends at most the command that moves it. -/
theorem State.allGone.handLost {s : State} (gone : s.allGone h) (n : Nat) (aborted : Bool) : (s.handLost n aborted).allGone h := by
  have cache (x : Hand) (back : Bool) : (s.lostCache n x back).allGone h :=
    (State.lostCache_fr s n x back (Frame.refl s) (Sub.refl _) (Sub.refl _)).allGone rfl gone
  unfold State.handLost
  extract_lets x was freed back kept cleared shown counted replied
  have ended : replied.allGone h := by
    have told : shown.allGone h := ((cache x back).setHand n _).of_cmds (State.wrs_cmds _ _)
    have lost : (if aborted then shown else shown.bump SERVE.CACHE_EVENTS.LOST 1).allGone h := told.of_cmds (by split <;> rfl)
    exact (lost.toHandState n 8).lostReply x aborted
  split
  · exact gone
  split
  · split
    · exact (((cache x false).setHand n _).lostReply x false).kittyLost x.entry
    · exact gone
  split
  · exact ((gone.setHand n _).wr _ 0).toHandState n 8
  split
  · exact (State.kittyEmpty_fr replied x.entry (Frame.refl _) (Sub.refl _) (Sub.refl _)).allGone rfl ended
  split
  · exact ended.kittyLost x.entry
  · exact ended

theorem State.allGone.intakeHostLost {s : State} (gone : s.allGone h) (i : Nat) : (s.intakeHostLost i).allGone h := by
  refine foldl_inv (P := fun t : State => t.allGone h) (fun t p ht => ?_) _ gone
  have back : (t.shardBack p.1 p.2).allGone h :=
    (State.shardBack_fr t p.1 p.2 (Frame.refl t) (Sub.refl _) (Sub.refl _)).allGone rfl ht
  have ended := back.shardCmd p.2 stPartnerGone 0
  exact (State.slotRegs_fr (fw := 0) _ p.1 (Frame.refl _) (Sub.refl _)).allGone rfl ended

theorem State.allGone.cachesLost {s : State} (gone : s.allGone h) (i : Nat) : (s.cachesLost i).allGone h := by
  unfold State.cachesLost
  extract_lets t
  have hands : t.allGone h := foldl_inv (P := fun u : State => u.allGone h) (by intro u n hu; exact hu.handLost n false) _ gone
  exact foldl_inv (P := fun u : State => u.allGone h) (by intro u k hu; exact hu.kittyLost k.1) _ hands

/-- The commands of a lost host that run on are marked. -/
theorem State.cmdsLost_allGone (s : State) : (s.cmdsLost h).allGone h := by
  intro c hc own
  obtain ⟨d, -, rfl⟩ := List.mem_map.mp hc
  by_cases gave : d.src = h
  · rw [if_pos gave]
  · rw [if_neg gave] at own
    exact absurd own gave

theorem State.hostLost_allGone {s : State} (attached : s.hostState h = 2) (cause : Nat) : (s.hostLost h cause).allGone h := by
  have taken : (s.lossTaken h cause).allGone h := (State.orphan_frame _ h).allGone rfl (State.cmdsLost_allGone _)
  have poisoned := (State.poisoned_frame (s.lossTaken h cause) h (s.lossTaken h cause).liveCtxs).allGone rfl taken
  rw [State.hostLost_eq attached]
  exact (State.areasLost_frame _ h).allGone rfl ((poisoned.cachesLost h).intakeHostLost h)

end AllGone

end Sys2Proof.Machine
end

section
/-! PROOFS. The ports' events and the hosts' accesses (R379–R386, Tables 16-4 and 16-7): what each does to the state, and one lemma for each
clause of the statement. -/

namespace Sys2Proof.Machine

open Sys2Proof

/-- A bit range is below the power of its width. -/
theorem bits_mod (x lo w : Nat) : bits x lo w % 2 ^ w = bits x lo w := Nat.mod_mod _ _

/-! A link up (Table 16-4). -/

/-- A link seen up: a retrain where it was up, and its rate, width and mode shown. -/
def State.linkSeen (s : State) (h rate width flit : Nat) : State :=
  (if s.is (HIF.PORT_STATUS.LINK_UP h) then s.bump (HIF.ERRORS.RETRAINS h) 1 else s).portUpAt h rate width flit

/-- An ABSENT host becomes LINKED. -/
def State.linked (s : State) (h : Nat) : State := if s.hostState h = 0 then s.wr (HIF.PORT_STATUS.HOST_STATE h) 1 else s

theorem hostLinkUp_eq {s : State} {h : Nat} (training : (s.port h).training = true) (perst : (s.port h).perst = false)
    (rate width flit : Nat) : hostLinkUp h rate width flit s = (s.linkSeen h rate width flit).linked h := by
  simp only [hostLinkUp, training, perst, Bool.not_true, Bool.or_false, Bool.false_eq_true, if_false]
  rfl

theorem State.linked_hostState (s : State) (h : Nat) : (s.linked h).hostState h = if s.hostState h = 0 then 1 else s.hostState h := by
  unfold State.linked
  split
  · exact State.rd_wr_self _ _ 1
  · rfl

theorem State.linked_rd_ne {s : State} {h : Nat} {g : Fld} (ne : g.key ≠ (HIF.PORT_STATUS.HOST_STATE h).key) :
    (s.linked h).rd g = s.rd g := by
  unfold State.linked
  split
  · exact State.rd_wr_ne ne
  · rfl

section PortUp

variable {s : State} {h : Nat} (port : h < 2) (rate width flit : Nat)

include port

theorem State.portUpAt_shows :
    (s.portUpAt h rate width flit).rd (HIF.PORT_STATUS.LINK_UP h) = 1 ∧ (s.portUpAt h rate width flit).rd (HIF.PORT_STATUS.RATE h) = rate % 8 ∧
      (s.portUpAt h rate width flit).rd (HIF.PORT_STATUS.WIDTH h) = width % 16 ∧
      (s.portUpAt h rate width flit).rd (HIF.PORT_STATUS.FLIT h) = flit % 2 := by
  have apart {lo lo' w w' : Nat} (e : lo < 64 ∧ lo' < 64 ∧ lo ≠ lo') :
      (⟨0, 0x100 + 0x40 * h, lo, w, 0⟩ : Fld).key ≠ (⟨0, 0x100 + 0x40 * h, lo', w', 0⟩ : Fld).key := HIF.key_ne port port (by omega)
  refine ⟨?_, ?_, ?_, State.rd_wr_self _ _ flit⟩
  · exact (State.rd_wr_ne (apart (by decide))).trans ((State.rd_wr_ne (apart (by decide))).trans
      ((State.rd_wr_ne (apart (by decide))).trans (State.rd_wr_self _ _ 1)))
  · exact (State.rd_wr_ne (apart (by decide))).trans ((State.rd_wr_ne (apart (by decide))).trans (State.rd_wr_self _ _ rate))
  · exact (State.rd_wr_ne (apart (by decide))).trans (State.rd_wr_self _ _ width)

/-- The port's other fields stand when its link is shown. -/
theorem State.portUpAt_rd {r lo w : Nat} (apart : (0x100 ≤ r ∧ r < 0x140 ∧ lo < 64) ∧ (r ≠ 0x100 ∨ 8 < lo)) :
    (s.portUpAt h rate width flit).rd ⟨0, r + 0x40 * h, lo, w, 0⟩ = s.rd ⟨0, r + 0x40 * h, lo, w, 0⟩ := by
  refine State.rd_wrs_ne (fun p hp => ?_)
  simp only [List.mem_cons, List.not_mem_nil, or_false] at hp
  rcases hp with rfl | rfl | rfl | rfl
  all_goals exact HIF.key_ne port port (by omega)

theorem State.linkSeen_hostState : (s.linkSeen h rate width flit).hostState h = s.hostState h := by
  refine (State.portUpAt_rd port rate width flit (by decide)).trans ?_
  split
  · exact State.rd_bump_ne (HIF.key_ne port port (by decide))
  · rfl

theorem State.linkSeen_retrains (up : s.rd (HIF.PORT_STATUS.LINK_UP h) = 1) :
    s.counted (s.linkSeen h rate width flit) (HIF.ERRORS.RETRAINS h) 1 := by
  refine (State.portUpAt_rd port rate width flit (by decide)).trans ?_
  rw [State.is, if_pos (beq_iff_eq.mpr up)]
  exact State.rd_bump_self s _ 1

end PortUp

/-- A link up changes registers of block HIF alone. -/
theorem State.linkSeen_linked_leaves (s : State) (h rate width flit : Nat) :
    s.sameRegs ((s.linkSeen h rate width flit).linked h) [0] ∧ s.sameParts ((s.linkSeen h rate width flit).linked h) [] := by
  have inBlock {f : Fld} (b : f.blk = 0) : f.blk ∈ [0] := by rw [b]; exact List.mem_singleton_self _
  have regs : s.sameRegs (s.linkSeen h rate width flit) [0] := by
    refine (((State.sameRegs.refl s _).bump (inBlock rfl) 1).ite (State.sameRegs.refl s _)).wrs (fun p hp => ?_)
    simp only [List.mem_cons, List.not_mem_nil, or_false] at hp
    rcases hp with rfl | rfl | rfl | rfl
    all_goals exact inBlock rfl
  have parts : s.sameParts (s.linkSeen h rate width flit) [] := (((State.sameParts.refl s _).bump _ 1).ite (State.sameParts.refl s _)).wrs _
  exact ⟨(regs.wr (inBlock rfl) 1).ite regs, (parts.wr _ 1).ite parts⟩

/-- HOST_LINK_UP (R383). -/
theorem hostLinkUp_clause (s : State) (h rate width flit : Nat) (port : h < 2) (training : (s.port h).training = true)
    (perst : (s.port h).perst = false) :
    ∃ t, exec (.hostLinkUp h rate width flit) s = .next t ∧ t.rd (HIF.PORT_STATUS.LINK_UP h) = 1 ∧ t.rd (HIF.PORT_STATUS.RATE h) = rate % 8 ∧
      t.rd (HIF.PORT_STATUS.WIDTH h) = width % 16 ∧ t.rd (HIF.PORT_STATUS.FLIT h) = flit % 2 ∧
      t.hostState h = (if s.hostState h = 0 then 1 else s.hostState h) ∧
      (s.rd (HIF.PORT_STATUS.LINK_UP h) = 1 → s.counted t (HIF.ERRORS.RETRAINS h) 1) ∧ s.sameRegs t [0] ∧ s.sameParts t [] := by
  obtain ⟨up, atRate, wide, mode⟩ :=
    State.portUpAt_shows (s := if s.is (HIF.PORT_STATUS.LINK_UP h) then s.bump (HIF.ERRORS.RETRAINS h) 1 else s) port rate width flit
  obtain ⟨regs, parts⟩ := s.linkSeen_linked_leaves h rate width flit
  refine ⟨_, congrArg Host.Outcome.next (hostLinkUp_eq training perst rate width flit), ?_, ?_, ?_, ?_, ?_, fun was => ?_, regs, parts⟩
  · exact (State.linked_rd_ne (HIF.key_ne port port (by decide))).trans up
  · exact (State.linked_rd_ne (HIF.key_ne port port (by decide))).trans atRate
  · exact (State.linked_rd_ne (HIF.key_ne port port (by decide))).trans wide
  · exact (State.linked_rd_ne (HIF.key_ne port port (by decide))).trans mode
  · rw [State.linked_hostState, State.linkSeen_hostState port]
  · exact (State.linked_rd_ne (HIF.key_ne port port (by decide))).trans (State.linkSeen_retrains port rate width flit was)

/-! A link down, and the other events of a port. -/

theorem State.portDown_linkUp (s : State) (h : Nat) : (s.portDown h).rd (HIF.PORT_STATUS.LINK_UP h) = 0 := State.rd_regs0_mem List.mem_cons_self

/-- The port's other fields stand when its link goes down. -/
theorem State.portDown_rd (s : State) {h r lo w : Nat} (port : h < 2) (apart : (0x100 ≤ r ∧ r < 0x140 ∧ lo < 64) ∧ (r ≠ 0x100 ∨ 8 < lo)) :
    (s.portDown h).rd ⟨0, r + 0x40 * h, lo, w, 0⟩ = s.rd ⟨0, r + 0x40 * h, lo, w, 0⟩ := by
  refine State.rd_regs0_ne (fun f hf => ?_)
  simp only [List.mem_cons, List.not_mem_nil, or_false] at hf
  rcases hf with rfl | rfl | rfl | rfl
  all_goals exact HIF.key_ne port port (by omega)

theorem State.portDown_sameRegs (s : State) (h : Nat) : s.sameRegs (s.portDown h) [0] := by
  refine (State.sameRegs.refl s _).regs0 (fun f hf => ?_)
  simp only [List.mem_cons, List.not_mem_nil, or_false] at hf
  rcases hf with rfl | rfl | rfl | rfl
  all_goals exact List.mem_singleton_self 0

theorem State.portDown_hostState (s : State) {h : Nat} (port : h < 2) : (s.portDown h).hostState h = s.hostState h :=
  s.portDown_rd port (by decide)

theorem State.hostGone_attached {s : State} {h : Nat} (attached : s.hostState h = 2) (cause : Nat) :
    s.hostGone h cause = s.hostLost h cause := if_pos attached

theorem State.hostGone_linked {s : State} {h : Nat} (state : s.hostState h = 1) (down : s.rd (HIF.PORT_STATUS.LINK_UP h) = 0) (cause : Nat) :
    s.hostGone h cause = s.wr (HIF.PORT_STATUS.HOST_STATE h) 0 := by
  rw [State.hostGone, if_neg (by rw [state]; decide), if_pos ⟨state, down⟩]

/-- HOST_LINK_DOWN of a LINKED host (Table 16-4). -/
theorem hostLinkDown_linked_clause (s : State) (h : Nat) (port : h < 2) (state : s.hostState h = 1) :
    ∃ t, exec (.hostLinkDown h) s = .next t ∧ t.rd (HIF.PORT_STATUS.LINK_UP h) = 0 ∧ t.hostState h = 0 ∧ s.sameRegs t [0] ∧
      s.sameParts t [] := by
  have gone := State.hostGone_linked ((s.portDown_hostState port).trans state) (s.portDown_linkUp h) 1
  refine ⟨_, congrArg Host.Outcome.next gone, ?_, State.rd_wr_self _ _ 0, ?_, ?_⟩
  · exact (State.rd_wr_ne (HIF.key_ne port port (by decide))).trans (s.portDown_linkUp h)
  · exact (s.portDown_sameRegs h).wr (List.mem_singleton_self 0) 0
  · exact ((State.sameParts.refl s _).regs0 _).wr _ 0

/-- HOST_LINK_DOWN of an ATTACHED host, which is LOST (R384). -/
theorem hostLinkDown_attached_clause (s : State) (h : Nat) (port : h < 2) (state : s.hostState h = 2) :
    ∃ t, exec (.hostLinkDown h) s = .next t ∧
      t.rd (HIF.PORT_STATUS.LINK_UP h) = 0 ∧ t.hostState h = 3 ∧ t.rd (HIF.PORT_STATUS.LOSS_CAUSE h) = 1 ∧ (t.port h).lossRunning = true ∧
      s.counted t (HIF.HOST_EVENTS.LOSSES h) 1 ∧ (∀ c < 128, c / 64 = h → t.rd (CMD.CHAN_CTL.ENABLE c) = 0) ∧
      (∀ r < 256, r / 128 = h → t.rd (CMD.RING_CTL.ENABLE r) = 0) ∧
      (∀ x ∈ s.ctxs.map Prod.fst, s.rd (SCHED.CTX_STATE.LIFE x) = 1 → s.rd (SCHED.CTX_STATE.OWNER x) = h → t.rd (SCHED.CTX_STATE.LIFE x) = 2) ∧
      (∀ c ∈ t.cmds, c.src = h → c.gone = true) := by
  have attached : (s.portDown h).hostState h = 2 := (s.portDown_hostState port).trans state
  have losses : (s.portDown h).rd (HIF.HOST_EVENTS.LOSSES h) = s.rd (HIF.HOST_EVENTS.LOSSES h) := s.portDown_rd port (by decide)
  have sched (f : Fld) (b : f.blk = 2) : (s.portDown h).rd f = s.rd f := s.portDown_sameRegs h f (by rw [b]; decide)
  refine ⟨_, congrArg Host.Outcome.next (State.hostGone_attached attached 1), ?_, State.hostLost_hostState attached port 1,
    State.hostLost_lossCause attached port 1, State.hostLost_lossRunning attached 1, ?_, ?_, ?_, ?_, State.hostLost_allGone attached 1⟩
  · exact (State.hostLost_status attached port 1 (by decide)).trans (s.portDown_linkUp h)
  · have counted := State.hostLost_losses attached port 1
    rw [State.counted, losses] at counted
    exact counted
  · exact fun c _ own => (State.hostLost_rd_cmd attached 1 rfl).trans (State.queuesLost_chan _ own)
  · exact fun r _ own => (State.hostLost_rd_cmd attached 1 rfl).trans (State.queuesLost_ring _ own)
  · intro x mem live own
    have listed : x ∈ (s.portDown h).ctxs.map Prod.fst := by rw [State.portDown, State.regs0_ctxs]; exact mem
    exact State.hostLost_life attached 1 listed ((sched _ rfl).trans live) ((sched _ rfl).trans own)

/-- What an event of a port does before its host is gone: the link down, the port reset, or the enables cleared. -/
def State.portEvent (s : State) (h cause : Nat) : State :=
  if cause = 1 then s.portDown h
  else if cause = 3 ∨ cause = 4 then s.portReset h
  else if cause = 5 then (s.wr (HIF.PORT_STATUS.BME h) 0).wr (HIF.PORT_STATUS.MSE h) 0
  else s

theorem hostLostEvent_eq (s : State) (h : Nat) {cause : Nat} (low : 1 ≤ cause) (high : cause ≤ 6) (other : cause ≠ 2) :
    hostLostEvent h cause s = (s.portEvent h cause).hostGone h cause := by
  have causes : cause = 1 ∨ cause = 3 ∨ cause = 4 ∨ cause = 5 ∨ cause = 6 := by omega
  rcases causes with rfl | rfl | rfl | rfl | rfl <;> rfl

theorem State.portReset_linkUp (s : State) (h : Nat) : (s.portReset h).rd (HIF.PORT_STATUS.LINK_UP h) = 0 := by
  unfold State.portReset
  extract_lets p t
  exact State.rd_regs0_of_rst (g := HIF.PORT_STATUS.LINK_UP h) (t.portDown_linkUp h) _

theorem State.portEvent_linkUp (s : State) (h : Nat) {cause : Nat} (down : cause = 1 ∨ cause = 3 ∨ cause = 4) :
    (s.portEvent h cause).rd (HIF.PORT_STATUS.LINK_UP h) = 0 := by
  unfold State.portEvent
  split
  · exact s.portDown_linkUp h
  · rw [if_pos (down.resolve_left ‹_›)]
    exact s.portReset_linkUp h

section PortEvent

variable (s : State) {h : Nat} (port : h < 2)

include port

theorem State.portReset_hostState : (s.portReset h).hostState h = s.hostState h := by
  unfold State.portReset
  extract_lets p t
  refine (State.rd_regs0_ne (fun f hf => ?_)).trans (t.portDown_hostState port)
  simp only [List.mem_cons, List.not_mem_nil, or_false] at hf
  rcases hf with rfl | rfl
  all_goals exact HIF.key_ne port port (by decide)

theorem State.portEvent_hostState (cause : Nat) : (s.portEvent h cause).hostState h = s.hostState h := by
  unfold State.portEvent
  split
  · exact s.portDown_hostState port
  split
  · exact s.portReset_hostState port
  split
  · exact (State.rd_wr_ne (HIF.key_ne port port (by decide))).trans (State.rd_wr_ne (HIF.key_ne port port (by decide)))
  · rfl

theorem State.portEvent_enables : (s.portEvent h 5).rd (HIF.PORT_STATUS.BME h) = 0 ∧ (s.portEvent h 5).rd (HIF.PORT_STATUS.MSE h) = 0 :=
  ⟨(State.rd_wr_ne (HIF.key_ne port port (by decide))).trans (State.rd_wr_self s _ 0), State.rd_wr_self _ _ 0⟩

end PortEvent

/-- HOST_LOST (R384). -/
theorem hostLost_clause (s : State) (h cause : Nat) (port : h < 2) (state : s.hostState h = 2) (low : 1 ≤ cause) (high : cause ≤ 6)
    (other : cause ≠ 2) :
    ∃ t, exec (.hostLost h cause) s = .next t ∧ t.hostState h = 3 ∧ t.rd (HIF.PORT_STATUS.LOSS_CAUSE h) = cause ∧ (t.port h).lossRunning = true ∧
      (cause = 5 → t.rd (HIF.PORT_STATUS.BME h) = 0 ∧ t.rd (HIF.PORT_STATUS.MSE h) = 0) ∧
      (cause = 1 ∨ cause = 3 ∨ cause = 4 → t.rd (HIF.PORT_STATUS.LINK_UP h) = 0) := by
  have attached : (s.portEvent h cause).hostState h = 2 := (s.portEvent_hostState port cause).trans state
  have takes := (hostLostEvent_eq s h low high other).trans (State.hostGone_attached attached cause)
  refine ⟨_, congrArg Host.Outcome.next takes, State.hostLost_hostState attached port cause, ?_, State.hostLost_lossRunning attached cause, ?_, ?_⟩
  · exact (State.hostLost_lossCause attached port cause).trans (Nat.mod_eq_of_lt (by omega))
  · rintro rfl
    obtain ⟨bme, mse⟩ := s.portEvent_enables port
    exact ⟨(State.hostLost_status attached port 5 (by decide)).trans bme, (State.hostLost_status attached port 5 (by decide)).trans mse⟩
  · exact fun down => (State.hostLost_status attached port cause (by decide)).trans (s.portEvent_linkUp h down)

/-! The end of the loss actions. -/

/-- The actions of a loss ended: the host LINKED or ABSENT as its link stands, the other host told. -/
def State.lossEnded (s : State) (h : Nat) : State :=
  ((s.setPort h { s.port h with lossRunning := false }).wr (HIF.PORT_STATUS.HOST_STATE h) (s.rd (HIF.PORT_STATUS.LINK_UP h))).hostEvent (1 - h)
    (HIF.HOST_EVENTS.OTHER_LOST (1 - h))

theorem lossActionsComplete_eq {s : State} {h : Nat} (port : h < 2) (lost : s.hostState h = 3) (running : (s.port h).lossRunning = true) :
    ∃ n, lossActionsComplete h s = (s.lossEnded h).recordTick 0x0401 h (s.rd (HIF.PORT_STATUS.LOSS_CAUSE h)) n := by
  have cause : ((s.setPort h { s.port h with lossRunning := false }).wr (HIF.PORT_STATUS.HOST_STATE h) (s.rd (HIF.PORT_STATUS.LINK_UP h))).rd
      (HIF.PORT_STATUS.LOSS_CAUSE h) = s.rd (HIF.PORT_STATUS.LOSS_CAUSE h) := State.rd_wr_ne (HIF.key_ne port port (by decide))
  rw [lossActionsComplete, if_pos ⟨lost, running⟩, ← cause]
  exact ⟨_, rfl⟩

theorem State.lossEnded_hostState {s : State} {h : Nat} (port : h < 2) :
    (s.lossEnded h).hostState h = s.rd (HIF.PORT_STATUS.LINK_UP h) % 2 ^ 2 :=
  (State.hostEvent_rd_ne (HIF.key_ne port (show 1 - h < 2 by omega) (by decide))).trans (State.rd_wr_self _ _ _)

theorem State.lossEnded_port {s : State} {h : Nat} (port : h < 2) : ((s.lossEnded h).port h).lossRunning = false := by
  rw [State.lossEnded, State.hostEvent_port_ne _ _ (show h ≠ 1 - h by omega), State.wr_port, State.port_setPort_self]

theorem State.lossEnded_sameRegs (s : State) (h : Nat) : s.sameRegs (s.lossEnded h) [0] := by
  have ended : s.sameRegs ((s.setPort h { s.port h with lossRunning := false }).wr (HIF.PORT_STATUS.HOST_STATE h)
      (s.rd (HIF.PORT_STATUS.LINK_UP h))) [0] := State.sameRegs.wr (fun _ _ => rfl) (List.mem_singleton_self 0) _
  exact (ended.wr (List.mem_singleton_self 0) 1).of_rd (fun g => State.raiseIf_rd _ _ _ _ g)

/-- LOSS_ACTIONS_COMPLETE (Table 16-4, R384). -/
theorem lossActionsComplete_clause (s : State) (h : Nat) (port : h < 2) (lost : s.hostState h = 3) (running : (s.port h).lossRunning = true) :
    ∃ t, exec (.lossActionsComplete h) s = .next t ∧ (t.port h).lossRunning = false ∧
      (s.rd (HIF.PORT_STATUS.LINK_UP h) = 1 → t.hostState h = 1) ∧ (s.rd (HIF.PORT_STATUS.LINK_UP h) = 0 → t.hostState h = 0) ∧
      t.rd (HIF.HOST_EVENTS.OTHER_LOST (1 - h)) = 1 ∧
      (∃ r ∈ t.score.tickRecs, r.code = 0x0401 ∧ r.inst = h ∧ r.arg0 = s.rd (HIF.PORT_STATUS.LOSS_CAUSE h)) ∧ s.sameRegs t [0] ∧ s.sameMem t := by
  obtain ⟨n, takes⟩ := lossActionsComplete_eq port lost running
  have state : (s.lossEnded h).hostState h = s.rd (HIF.PORT_STATUS.LINK_UP h) % 2 ^ 2 := State.lossEnded_hostState port
  refine ⟨_, congrArg Host.Outcome.next takes, State.lossEnded_port port, fun up => ?_, fun down => ?_, State.hostEvent_rd_self _ _ _,
    ⟨_, List.mem_append_right _ List.mem_cons_self, rfl, rfl, rfl⟩, s.lossEnded_sameRegs h, fun a => ?_⟩
  · rw [up] at state
    exact state
  · rw [down] at state
    exact state
  · rw [State.recordTick_mem, State.lossEnded, State.hostEvent_mem, State.wr_mem, State.setPort_mem]

end Sys2Proof.Machine
end

section
/-! PROOFS. The hosts' requests and accesses (R379–R383, R386, Tables 16-4 and 16-7): configuration space, attachment and detachment, the
replies of lost hosts and the MSI-X table, then the statement. -/

namespace Sys2Proof.Machine

open Sys2Proof

/-! Configuration requests (R379). -/

section Config

variable {s : State} {h fn reg write value : Nat}

theorem configRequest_down (down : s.rd (HIF.PORT_STATUS.LINK_UP h) ≠ 1) : configRequest h fn reg write value s = s := by
  simp [configRequest, State.is, down]

theorem configRequest_retry (up : s.rd (HIF.PORT_STATUS.LINK_UP h) = 1) (asleep : s.mgmt.amelo = false) :
    configRequest h fn reg write value s = s.emit (.config h 1 0) := by
  simp [configRequest, State.is, up, asleep]

theorem configRequest_function (up : s.rd (HIF.PORT_STATUS.LINK_UP h) = 1) (awake : s.mgmt.amelo = true) (other : fn ≠ 0) :
    configRequest h fn reg write value s = (s.bump (HIF.ERRORS.UNSUPPORTED h) 1).emit (.config h 2 0) := by
  simp [configRequest, State.is, up, awake, other]

theorem configRequest_read (up : s.rd (HIF.PORT_STATUS.LINK_UP h) = 1) (awake : s.mgmt.amelo = true) :
    configRequest h 0 reg 0 value s = s.emit (.config h 0 (s.cfgRead h reg)) := by
  simp [configRequest, State.is, up, awake]

theorem configRequest_write (up : s.rd (HIF.PORT_STATUS.LINK_UP h) = 1) (awake : s.mgmt.amelo = true) (writes : write ≠ 0) :
    configRequest h 0 reg write value s = (s.cfgWrite h reg value).emit (.config h 0 0) := by
  simp [configRequest, State.is, up, awake, writes]

end Config

/-- The enables as a write of the command register sets them. -/
def State.enables (s : State) (h value : Nat) : State :=
  (s.wr (HIF.PORT_STATUS.MSE h) (bits value 1 1)).wr (HIF.PORT_STATUS.BME h) (bits value 2 1)

theorem State.enables_shows (s : State) {h : Nat} (value : Nat) (port : h < 2) :
    (s.enables h value).rd (HIF.PORT_STATUS.MSE h) = bits value 1 1 ∧ (s.enables h value).rd (HIF.PORT_STATUS.BME h) = bits value 2 1 ∧
      (s.enables h value).hostState h = s.hostState h := by
  refine ⟨?_, (State.rd_wr_self _ _ _).trans (bits_mod value 2 1), ?_⟩
  · exact (State.rd_wr_ne (HIF.key_ne port port (by decide))).trans ((State.rd_wr_self _ _ _).trans (bits_mod value 1 1))
  · exact (State.rd_wr_ne (HIF.key_ne port port (by decide))).trans (State.rd_wr_ne (HIF.key_ne port port (by decide)))

/-- A write of the command register sets the enables, and loses an ATTACHED host that clears one (Table 16-4). -/
theorem State.cfgWrite_command (s : State) (h value : Nat) :
    s.cfgWrite h 1 value = if bits value 1 2 ≠ 3 ∧ (s.enables h value).hostState h = 2 then (s.enables h value).hostLost h 5
      else s.enables h value := by
  have branches : s.cfgWrite h 1 value = if bits value 1 2 = 3 then s.enables h value
      else if (s.enables h value).hostState h = 2 then (s.enables h value).hostLost h 5 else s.enables h value := rfl
  rw [branches]
  by_cases both : bits value 1 2 = 3 <;> simp [both]

/-- What a write of the command register shows: the enables as written, and LOST where an ATTACHED host clears one. -/
theorem State.cfgWrite_command_shows (s : State) {h : Nat} (value : Nat) (port : h < 2) :
    (s.cfgWrite h 1 value).rd (HIF.PORT_STATUS.MSE h) = bits value 1 1 ∧ (s.cfgWrite h 1 value).rd (HIF.PORT_STATUS.BME h) = bits value 2 1 ∧
      (s.hostState h = 2 → bits value 1 2 ≠ 3 → (s.cfgWrite h 1 value).hostState h = 3) := by
  obtain ⟨mse, bme, state⟩ := s.enables_shows value port
  rw [s.cfgWrite_command h value]
  split
  · rename_i lost
    obtain ⟨-, attached⟩ := lost
    exact ⟨(State.hostLost_status attached port 5 (by decide)).trans mse, (State.hostLost_status attached port 5 (by decide)).trans bme,
      fun _ _ => State.hostLost_hostState attached port 5⟩
  · rename_i stays
    exact ⟨mse, bme, fun attached clears => absurd ⟨clears, state.trans attached⟩ stays⟩

theorem State.cfgRead_id (s : State) (h : Nat) : s.cfgRead h 0 = 0x6416_1F7A := rfl

/-- CONFIG_REQUEST (R379). -/
theorem configRequest_clause (s : State) (h fn reg write value : Nat) (port : h < 2) :
    (s.rd (HIF.PORT_STATUS.LINK_UP h) ≠ 1 → exec (.configRequest h fn reg write value) s = .next s) ∧
    (s.rd (HIF.PORT_STATUS.LINK_UP h) = 1 → s.mgmt.amelo = false → ∃ t, exec (.configRequest h fn reg write value) s = .next t ∧
      t.out = .config h 1 0 :: s.out ∧ s.allRegs t ∧ s.sameParts t [.out]) ∧
    (s.rd (HIF.PORT_STATUS.LINK_UP h) = 1 → s.mgmt.amelo = true → fn ≠ 0 → ∃ t, exec (.configRequest h fn reg write value) s = .next t ∧
      t.out = .config h 2 0 :: s.out ∧ s.counted t (HIF.ERRORS.UNSUPPORTED h) 1 ∧ s.sameBut t [HIF.ERRORS.UNSUPPORTED h] ∧ s.sameParts t [.out]) ∧
    (s.rd (HIF.PORT_STATUS.LINK_UP h) = 1 → s.mgmt.amelo = true → fn = 0 → write = 0 → ∃ t,
      exec (.configRequest h fn reg write value) s = .next t ∧ t.out = .config h 0 (s.cfgRead h reg) :: s.out ∧
      (reg = 0 → s.cfgRead h reg = 0x6416_1F7A) ∧ s.allRegs t ∧ s.sameParts t [.out]) ∧
    (s.rd (HIF.PORT_STATUS.LINK_UP h) = 1 → s.mgmt.amelo = true → fn = 0 → write ≠ 0 → reg = 1 → ∃ t,
      exec (.configRequest h fn reg write value) s = .next t ∧ Output.config h 0 0 ∈ t.out ∧ t.rd (HIF.PORT_STATUS.MSE h) = bits value 1 1 ∧
      t.rd (HIF.PORT_STATUS.BME h) = bits value 2 1 ∧ (s.hostState h = 2 → bits value 1 2 ≠ 3 → t.hostState h = 3)) := by
  have answered (o : Output) : s.sameParts (s.emit o) [.out] := (State.sameParts.refl s _).emit (by decide) o
  refine ⟨fun down => congrArg Host.Outcome.next (configRequest_down down), ?_, ?_, ?_, ?_⟩
  · exact fun up asleep => ⟨_, congrArg Host.Outcome.next (configRequest_retry up asleep), rfl, fun _ => rfl, answered _⟩
  · exact fun up awake other => ⟨_, congrArg Host.Outcome.next (configRequest_function up awake other), rfl, State.rd_bump_self s _ 1,
      s.bump_but _ 1, ((State.sameParts.refl s _).bump _ 1).emit (by decide) _⟩
  · rintro up awake rfl rfl
    refine ⟨_, congrArg Host.Outcome.next (configRequest_read up awake), rfl, ?_, fun _ => rfl, answered _⟩
    rintro rfl
    exact s.cfgRead_id h
  · rintro up awake rfl writes rfl
    exact ⟨_, congrArg Host.Outcome.next (configRequest_write up awake writes), List.mem_cons_self, s.cfgWrite_command_shows value port⟩

/-! Attachment and detachment (Table 16-4, Table 16-7). -/

/-- The event controls as a write of HOST_CTL sets them. -/
def State.hostControls (s : State) (h value : Nat) : State :=
  (s.wr (HIF.HOST_CTL.EVENT_VECTOR h) (bits value 8 11)).wr (HIF.HOST_CTL.EVENT_EN h) (bits value 19 1)

theorem writeHostCtl_attach {s : State} {h value : Nat} (running : s.rd (CLK.DOM.GATED (80 + h)) ≠ 1) (on : bit value 0 = true) :
    writeHostCtl h value s = (s.hostControls h value).hostAttach h := by
  simp only [writeHostCtl, State.is, beq_eq_false_iff_ne.mpr running, on, Bool.false_eq_true, if_false, if_true]
  rfl

theorem writeHostCtl_detach {s : State} {h value : Nat} (running : s.rd (CLK.DOM.GATED (80 + h)) ≠ 1) (off : bit value 0 = false) :
    writeHostCtl h value s = (s.hostControls h value).hostDetach h := by
  simp only [writeHostCtl, State.is, beq_eq_false_iff_ne.mpr running, off, Bool.false_eq_true, if_false]
  rfl

theorem exec_hostAttach {s : State} {h value : Nat} (reach : s.reaches h = true) (running : s.rd (CLK.DOM.GATED (80 + h)) ≠ 1)
    (on : bit value 0 = true) : exec (.hostAttach h value) s = .next ((s.hostControls h value).hostAttach h) := by
  have access : (if bit value 0 then s.viaHost h (writeHostCtl h value) else s) = (s.hostControls h value).hostAttach h := by
    rw [if_pos on, State.viaHost_eq reach, writeHostCtl_attach running on]
  exact congrArg Host.Outcome.next access

theorem exec_hostDetach {s : State} {h value : Nat} (reach : s.reaches h = true) (running : s.rd (CLK.DOM.GATED (80 + h)) ≠ 1)
    (off : bit value 0 = false) : exec (.hostDetach h value) s = .next ((s.hostControls h value).hostDetach h) := by
  have access : (if bit value 0 then s else s.viaHost h (writeHostCtl h value)) = (s.hostControls h value).hostDetach h := by
    rw [off, if_neg Bool.false_ne_true, State.viaHost_eq reach, writeHostCtl_detach running off]
  exact congrArg Host.Outcome.next access

section Controls

variable (s : State) {h : Nat} (port : h < 2) (value : Nat)

include port

theorem State.hostControls_shows : (s.hostControls h value).rd (HIF.HOST_CTL.EVENT_VECTOR h) = bits value 8 11 ∧
    (s.hostControls h value).rd (HIF.HOST_CTL.EVENT_EN h) = bits value 19 1 :=
  ⟨(State.rd_wr_ne (HIF.key_ne port port (by decide))).trans ((State.rd_wr_self _ _ _).trans (bits_mod value 8 11)),
    (State.rd_wr_self _ _ _).trans (bits_mod value 19 1)⟩

/-- The host's state and its enables stand when its controls are set. -/
theorem State.hostControls_status {lo w : Nat} (apart : lo < 64) :
    (s.hostControls h value).rd ⟨0, 0x100 + 0x40 * h, lo, w, 0⟩ = s.rd ⟨0, 0x100 + 0x40 * h, lo, w, 0⟩ :=
  (State.rd_wr_ne (HIF.key_ne port port (by omega))).trans (State.rd_wr_ne (HIF.key_ne port port (by omega)))

end Controls

theorem State.hostControls_parts (s : State) (h value : Nat) : s.sameParts (s.hostControls h value) [] :=
  ((State.sameParts.refl s _).wr _ _).wr _ _

/-- The device rings kept since the host's loss reset (R384). -/
def State.keptReset (s : State) (h : Nat) : State :=
  let t := (s.port h).kept.foldl (fun (t : State) r => t.regs0 (ringKept r)) s
  t.setPort h { t.port h with kept := [] }

theorem State.keptReset_frame (s : State) (h : Nat) : Frame 128 2 s (s.keptReset h) :=
  State.setPort_fr _ _ _ (Frame.foldl (fun t _ ht => State.regs0_in t _ 1 ht rfl rfl) (Frame.refl s)) (Sub.refl _)

/-- A host ATTACHED, and the other told. -/
def State.attachedNow (s : State) (h : Nat) : State :=
  (((s.keptReset h).wr (HIF.PORT_STATUS.HOST_STATE h) 2).wr (HIF.HOST_CTL.ATTACH h) 1).hostEvent (1 - h) (HIF.HOST_EVENTS.OTHER_ATTACHED (1 - h))

theorem State.hostAttach_eq {s : State} {h : Nat} (linked : s.hostState h = 1) (bme : s.rd (HIF.PORT_STATUS.BME h) = 1)
    (mse : s.rd (HIF.PORT_STATUS.MSE h) = 1) : s.hostAttach h = s.attachedNow h := if_pos ⟨linked, beq_iff_eq.mpr bme, beq_iff_eq.mpr mse⟩

theorem State.hostAttach_refused {s : State} {h : Nat} (refused : s.hostState h ≠ 1 ∨ s.rd (HIF.PORT_STATUS.BME h) ≠ 1) : s.hostAttach h = s := by
  refine if_neg (fun taken => ?_)
  obtain ⟨linked, bme, -⟩ := taken
  exact refused.elim (fun e => e linked) (fun e => e (eq_of_beq bme))

section Attached

variable (s : State) {h : Nat} (port : h < 2)

include port

theorem State.attachedNow_hostState : (s.attachedNow h).hostState h = 2 :=
  have other : 1 - h < 2 := by omega
  (State.hostEvent_rd_ne (HIF.key_ne port other (by decide))).trans ((State.rd_wr_ne (HIF.key_ne port port (by decide))).trans
    (State.rd_wr_self _ _ 2))

theorem State.attachedNow_attach : (s.attachedNow h).rd (HIF.HOST_CTL.ATTACH h) = 1 :=
  have other : 1 - h < 2 := by omega
  (State.hostEvent_rd_ne (HIF.key_ne port other (by decide))).trans (State.rd_wr_self _ _ 1)

/-- The event controls stand when the host is attached. -/
theorem State.attachedNow_controls {lo w : Nat} (apart : 0 < lo ∧ lo < 64) :
    (s.attachedNow h).rd ⟨0, 0x108 + 0x40 * h, lo, w, 0⟩ = s.rd ⟨0, 0x108 + 0x40 * h, lo, w, 0⟩ :=
  have other : 1 - h < 2 := by omega
  (State.hostEvent_rd_ne (HIF.key_ne port other (by omega))).trans ((State.rd_wr_ne (HIF.key_ne port port (by omega))).trans
    ((State.rd_wr_ne (HIF.key_ne port port (by omega))).trans ((s.keptReset_frame h).rd_block (n := 0) rfl (by decide) rfl)))

end Attached

theorem State.attachedNow_mem (s : State) (h : Nat) : (s.attachedNow h).mem = s.mem := by
  rw [State.attachedNow, State.hostEvent_mem, State.wr_mem, State.wr_mem, (s.keptReset_frame h).mem rfl]

theorem State.attachedNow_cmds (s : State) (h : Nat) : (s.attachedNow h).cmds = s.cmds := by
  rw [State.attachedNow, State.hostEvent_cmds, State.wr_cmds, State.wr_cmds, (s.keptReset_frame h).cmds rfl]

/-- HOST_ATTACH (R383, Table 16-4). -/
theorem hostAttach_clause (s : State) (h value : Nat) (reach : s.reaches h = true) (running : s.rd (CLK.DOM.GATED (80 + h)) ≠ 1)
    (on : bit value 0 = true) :
    (s.hostState h = 1 → s.rd (HIF.PORT_STATUS.BME h) = 1 → ∃ t, exec (.hostAttach h value) s = .next t ∧
      t.hostState h = 2 ∧ t.rd (HIF.HOST_CTL.ATTACH h) = 1 ∧ t.rd (HIF.HOST_CTL.EVENT_VECTOR h) = bits value 8 11 ∧
      t.rd (HIF.HOST_CTL.EVENT_EN h) = bits value 19 1 ∧ t.rd (HIF.HOST_EVENTS.OTHER_ATTACHED (1 - h)) = 1 ∧ s.sameMem t ∧ t.cmds = s.cmds) ∧
    (s.hostState h ≠ 1 ∨ s.rd (HIF.PORT_STATUS.BME h) ≠ 1 → ∃ t, exec (.hostAttach h value) s = .next t ∧
      t.rd (HIF.HOST_CTL.EVENT_VECTOR h) = bits value 8 11 ∧ t.rd (HIF.HOST_CTL.EVENT_EN h) = bits value 19 1 ∧
      s.sameBut t [HIF.HOST_CTL.EVENT_VECTOR h, HIF.HOST_CTL.EVENT_EN h] ∧ s.sameParts t []) := by
  have port := State.reaches_port reach
  have takes := exec_hostAttach reach running on
  obtain ⟨vector, enable⟩ := s.hostControls_shows port value
  have state : (s.hostControls h value).hostState h = s.hostState h := s.hostControls_status port value (by decide)
  have bmeStands : (s.hostControls h value).rd (HIF.PORT_STATUS.BME h) = s.rd (HIF.PORT_STATUS.BME h) :=
    s.hostControls_status port value (by decide)
  constructor
  · intro linked bme
    have mse : (s.hostControls h value).rd (HIF.PORT_STATUS.MSE h) = 1 :=
      (s.hostControls_status port value (by decide)).trans (State.reaches_mse reach)
    rw [State.hostAttach_eq (state.trans linked) (bmeStands.trans bme) mse] at takes
    refine ⟨_, takes, State.attachedNow_hostState _ port, State.attachedNow_attach _ port, ?_, ?_, State.hostEvent_rd_self _ _ _, ?_, ?_⟩
    · exact (State.attachedNow_controls _ port (by decide)).trans vector
    · exact (State.attachedNow_controls _ port (by decide)).trans enable
    · exact fun a => congrArg (memByte · a) (State.attachedNow_mem _ h)
    · exact State.attachedNow_cmds _ h
  · intro refused
    rw [← state, ← bmeStands] at refused
    rw [State.hostAttach_refused refused] at takes
    exact ⟨_, takes, vector, enable, ((State.sameBut.refl s _).wr (by simp) _).wr (by simp) _, s.hostControls_parts h value⟩

theorem mem_hostChans {h c : Nat} (port : h < 2) (mem : c ∈ hostChans h) : c < 128 ∧ c / 64 = h := by
  obtain ⟨i, hi, rfl⟩ := List.mem_map.mp mem
  have := List.mem_range.mp hi
  omega

/-- A detach with no channel enabled and no LIVE context owned. -/
theorem State.hostDetach_eq {s : State} {h : Nat} (port : h < 2) (attached : s.hostState h = 2)
    (channels : ∀ c < 128, c / 64 = h → s.rd (CMD.CHAN_CTL.ENABLE c) ≠ 1)
    (contexts : ∀ x ∈ s.ctxs.map Prod.fst, ¬(s.rd (SCHED.CTX_STATE.LIFE x) = 1 ∧ s.rd (SCHED.CTX_STATE.OWNER x) = h)) :
    s.hostDetach h = (s.wr (HIF.PORT_STATUS.HOST_STATE h) 1).wr (HIF.HOST_CTL.ATTACH h) 0 := by
  refine if_pos ⟨attached, List.all_eq_true.mpr (fun c mem => ?_), List.all_eq_true.mpr (fun c mem => ?_)⟩
  · obtain ⟨small, own⟩ := mem_hostChans port mem
    simpa [State.is] using channels c small own
  · simpa [imp_iff_not_or] using contexts c.1 (List.mem_map_of_mem mem)

/-- HOST_DETACH (R383, Table 16-4). -/
theorem hostDetach_clause (s : State) (h value : Nat) (reach : s.reaches h = true) (running : s.rd (CLK.DOM.GATED (80 + h)) ≠ 1)
    (off : bit value 0 = false) (attached : s.hostState h = 2) (channels : ∀ c < 128, c / 64 = h → s.rd (CMD.CHAN_CTL.ENABLE c) ≠ 1)
    (contexts : ∀ x ∈ s.ctxs.map Prod.fst, ¬(s.rd (SCHED.CTX_STATE.LIFE x) = 1 ∧ s.rd (SCHED.CTX_STATE.OWNER x) = h)) :
    ∃ t, exec (.hostDetach h value) s = .next t ∧ t.hostState h = 1 ∧ t.rd (HIF.HOST_CTL.ATTACH h) = 0 ∧
      s.sameBut t [HIF.PORT_STATUS.HOST_STATE h, HIF.HOST_CTL.ATTACH h, HIF.HOST_CTL.EVENT_VECTOR h, HIF.HOST_CTL.EVENT_EN h] ∧ s.sameParts t [] := by
  have port := State.reaches_port reach
  have takes := exec_hostDetach reach running off
  have elsewhere (f : Fld) (b : f.blk ≠ 0) : (s.hostControls h value).rd f = s.rd f :=
    (State.rd_wr_ne (Fld.key_ne_of_blk b)).trans (State.rd_wr_ne (Fld.key_ne_of_blk b))
  rw [State.hostDetach_eq port ((s.hostControls_status port value (by decide)).trans attached)] at takes
  · refine ⟨_, takes, ?_, State.rd_wr_self _ _ 0, ?_, ((s.hostControls_parts h value).wr _ 1).wr _ 0⟩
    · exact (State.rd_wr_ne (HIF.key_ne port port (by decide))).trans (State.rd_wr_self _ _ 1)
    · exact ((((State.sameBut.refl s _).wr (by simp) _).wr (by simp) _).wr (by simp) 1).wr (by simp) 0
  · intro c small own
    rw [elsewhere _ (Nat.succ_ne_zero 0)]
    exact channels c small own
  · intro x mem
    rw [elsewhere _ (Nat.succ_ne_zero 1), elsewhere _ (Nat.succ_ne_zero 1)]
    exact contexts x mem

/-! Replies of lost hosts (R386). -/

/-- The 8 bytes that ORPHAN_DATA returns of an offset in units of 8. -/
def State.orphanWord (s : State) (q : Nat) : Nat := if s.inOrphanRing (8 * q) then s.load (devKey (8 * q)) 8 else 0

theorem orphanRead_eq {s : State} {h : Nat} (running : s.rd (CLK.DOM.GATED (80 + h)) ≠ 1) :
    orphanRead h s = (s.orphanWord (s.rd (HIF.ORPHAN_ADDR.OFFSET h)), s.wr (HIF.ORPHAN_ADDR.OFFSET h) (s.rd (HIF.ORPHAN_ADDR.OFFSET h) + 1)) := by
  simp only [orphanRead, State.is, beq_eq_false_iff_ne.mpr running, Bool.false_eq_true, if_false]
  rfl

/-- ORPHAN_DATA_READ (R386). -/
theorem orphanDataRead_clause (s : State) (src h q : Nat) (reach : src = 2 ∨ s.reaches src = true) (_port : h < 2)
    (running : s.rd (CLK.DOM.GATED (80 + h)) ≠ 1) (next : q = s.rd (HIF.ORPHAN_ADDR.OFFSET h)) :
    ∃ t, exec (.orphanDataRead src h) s = .next t ∧
      t.out = .readData src (if s.inOrphanRing (8 * q) then s.load (devKey (8 * q)) 8 else 0) :: s.out ∧
      t.rd (HIF.ORPHAN_ADDR.OFFSET h) = (q + 1) % 2 ^ 41 ∧ s.sameBut t [HIF.ORPHAN_ADDR.OFFSET h] ∧ s.sameParts t [.out] := by
  subst next
  have access : s.viaSource src (fun s => (orphanRead h s).2.emit (.readData src (orphanRead h s).1)) =
      (s.wr (HIF.ORPHAN_ADDR.OFFSET h) (s.rd (HIF.ORPHAN_ADDR.OFFSET h) + 1)).emit
        (.readData src (s.orphanWord (s.rd (HIF.ORPHAN_ADDR.OFFSET h)))) := by
    rw [State.viaSource_eq reach, orphanRead_eq running]
  exact ⟨_, congrArg Host.Outcome.next access, rfl, State.rd_wr_self s _ _, (State.sameBut.refl s _).wr (by simp) _,
    ((State.sameParts.refl s _).wr _ _).emit (by decide) _⟩

/-! The MSI-X table (R382). -/

/-- An aligned write of the table, its port's dwords read behind it. -/
theorem msixTableWrite_aligned {s : State} {h off size : Nat} (value : Nat) (reach : s.reaches h = true) (start : msixBase ≤ off)
    (below : off + size ≤ msixBase + 2048 * 16) (wide : size = 4 ∨ size = 8) (aligned : off % size = 0) :
    ∃ t, exec (.msixTableWrite h off value size) s = .next t ∧
      (∀ j, (t.port h).msixWord j = ((s.port h).msixPuts ((off - msixBase) / 4) value size).msixWord j) ∧
      s.allRegs t ∧ s.sameParts t [.out, .ports] := by
  have access : s.viaHost h (fun s => s.msixWrite h off value size) =
      (s.setPort h ((s.port h).msixPuts ((off - msixBase) / 4) value size)).msixKick h := by
    rw [State.viaHost_eq reach, State.msixWrite_aligned start below wide aligned]
  refine ⟨_, congrArg Host.Outcome.next access, fun j => ?_, State.msixKick_rd _ h, ?_⟩
  · rw [State.msixKick_msixWord, State.port_setPort_self]
  · exact ((State.sameParts.refl s _).setPort (by decide) h _).trans (State.msixKick_parts _ h) (fun _ => id) (fun _ => id)

/-- Any other write of the table (R7, R110). -/
theorem msixTableWrite_unaligned {s : State} {h off size : Nat} (value : Nat) (reach : s.reaches h = true)
    (below : off + size ≤ msixBase + 2048 * 16) (unaligned : off % size ≠ 0) :
    ∃ t, exec (.msixTableWrite h off value size) s = .next t ∧ t.logged 0x0004 h off size ∧ s.sameRegs t [17] ∧ s.sameMem t := by
  have access : s.viaHost h (fun s => s.msixWrite h off value size) = s.discard h off size := by
    rw [State.viaHost_eq reach, State.msixWrite_unaligned below unaligned]
  exact ⟨_, congrArg Host.Outcome.next access, State.recordAs_logged _ 0x0004 h _ off size, State.recordAs_sameRegs _ _ _ _ _ _ _ _,
    State.recordAs_sameMem _ _ _ _ _ _ _ _⟩

/-- MSIX_TABLE_WRITE (R382). -/
theorem msixTableWrite_clause (s : State) (h off value size i : Nat) (w : Nat → Nat → Nat) (reach : s.reaches h = true) (start : msixBase ≤ off)
    (below : off + size ≤ msixBase + 2048 * 16) (dword : i = (off - msixBase) / 4)
    (word : ∀ i v, w i v = if i % 4 = 3 then v % 2 else if i % 4 = 0 then v % 2 ^ 32 / 4 * 4 else v % 2 ^ 32) :
    (size = 4 → off % 4 = 0 → ∃ t, exec (.msixTableWrite h off value size) s = .next t ∧ (t.port h).msixWord i = w i value ∧
      (∀ j, j ≠ i → (t.port h).msixWord j = (s.port h).msixWord j) ∧ s.allRegs t ∧ s.sameParts t [.out, .ports]) ∧
    (size = 8 → off % 8 = 0 → ∃ t, exec (.msixTableWrite h off value size) s = .next t ∧ (t.port h).msixWord i = w i value ∧
      (t.port h).msixWord (i + 1) = w (i + 1) (value / 2 ^ 32) ∧
      (∀ j, j ≠ i → j ≠ i + 1 → (t.port h).msixWord j = (s.port h).msixWord j) ∧ s.allRegs t ∧ s.sameParts t [.out, .ports]) ∧
    (size = 4 ∨ size = 8 → off % size ≠ 0 → ∃ t, exec (.msixTableWrite h off value size) s = .next t ∧ t.logged 0x0004 h off size ∧
      s.sameRegs t [17] ∧ s.sameMem t) := by
  have written : w = msixDword := funext fun i => funext fun v => word i v
  subst written dword
  refine ⟨?_, ?_, fun _ unaligned => msixTableWrite_unaligned value reach below unaligned⟩
  · rintro rfl aligned
    obtain ⟨t, takes, words, regs, parts⟩ := msixTableWrite_aligned value reach start below (.inl rfl) aligned
    rw [PciePort.msixPuts, if_neg (by decide)] at words
    exact ⟨t, takes, (words _).trans (PciePort.msixWord_msixPut_self ..), fun j ne => (words j).trans (PciePort.msixWord_msixPut_ne _ _ ne),
      regs, parts⟩
  · rintro rfl aligned
    obtain ⟨t, takes, words, regs, parts⟩ := msixTableWrite_aligned value reach start below (.inr rfl) aligned
    rw [PciePort.msixPuts, if_pos rfl] at words
    refine ⟨t, takes, ?_, (words _).trans (PciePort.msixWord_msixPut_self ..), fun j ne ne' => ?_, regs, parts⟩
    · exact (words _).trans ((PciePort.msixWord_msixPut_ne _ _ (Nat.ne_add_one _)).trans (PciePort.msixWord_msixPut_self ..))
    · exact (words j).trans ((PciePort.msixWord_msixPut_ne _ _ ne').trans (PciePort.msixWord_msixPut_ne _ _ ne))

/-- Settles O56: each clause is the lemma about its event, request or access; how the configuration registers are numbered is log entry 27's. -/
theorem hostsLinkAttachDetachAndAreLost : Obligations.HostsLinkAttachDetachAndAreLost := by
  refine ⟨hostLinkUp_clause, fun s h port => ?_, hostLost_clause, lossActionsComplete_clause, configRequest_clause, hostAttach_clause,
    hostDetach_clause, orphanDataRead_clause, msixTableWrite_clause⟩
  exact ⟨hostLinkDown_linked_clause s h port, fun attached _ => hostLinkDown_attached_clause s h port attached⟩

end Sys2Proof.Machine
end
